-- ==== Sys2Proof/Word.lean ====
section
/-! DEFINITION. The word types of the LM3 model: bytes, 32-bit register words, and tiles and arrays by name. -/

-- One declaration after the other: many threads at once, each with a deep stack, do not fit the memory a check gives.
set_option Elab.async false

namespace Sys2Proof

/-- One byte of a frame, a parcel or a window. -/
abbrev Byte := BitVec 8

/-- One register of the physical register file (13 R430). -/
abbrev Word := BitVec 32

/-- A string of bytes in transmission or address order. -/
abbrev Bytes := List Byte

/-- A tile of the module: array die 0-3 and tile 0-16,383 of that die (02 R37). -/
structure TileId where
  die  : Nat
  tile : Nat
  deriving DecidableEq, Repr

/-- An array of the module; `arr` is 0-15 for a working array and 16 for the spare (07 R212). -/
structure ArrId where
  die  : Nat
  tile : Nat
  arr  : Nat
  deriving DecidableEq, Repr

/-- The tile of an array. -/
def ArrId.tid (a : ArrId) : TileId := ⟨a.die, a.tile⟩

/-- The array of a tile with a number. -/
def TileId.array (t : TileId) (k : Nat) : ArrId := ⟨t.die, t.tile, k⟩

end Sys2Proof
end

