-- ==== Sys2Proof/Syntax.lean ====
section
/-! DEFINITION. The commands of the block: one constructor of Instr per row of spec/opcode_table.json, in the table's
order, with the operands that the row's rule names. An operand is what the environment brings: a frame's bytes, a
number that names the part the event happens to, or a value that the spec takes from outside the digital machine (a
converter code, a sensor reading, a pin level, a voltage). -/

set_option Elab.async false

namespace Sys2Proof

/-- The header of a Tuiven frame that has passed its HCRC, with what the port adds: the port it came on and whether the
trailer CRC holds (11 R361, R362). LENGTH is the field as sent; the payload stands beside it. -/
structure FrameHdr where
  port    : Nat
  version : Nat
  ackReq  : Bool
  context : Nat
  queue   : Nat
  length  : Nat
  seq     : Nat
  tag     : Nat
  crcOk   : Bool
  deriving DecidableEq, Repr

/-- A COMMAND frame: its Tuiven header, the fields of the command header (12 Table 12.2) but the opcode, which the
constructor is, and its argument bytes. -/
structure CmdFrame where
  hdr        : FrameHdr
  cmdver     : Nat
  reserved1  : Byte
  argLength  : Nat
  resultAddr : Nat
  reserved16 : Bytes
  args       : Bytes
  deriving DecidableEq, Repr

/-- The header of a Courier frame (10 Table 10.7), with the port it arrived on (none: formed on this module) and whether
its trailer CRC holds. -/
structure CourierHdr where
  inPort  : Option Nat
  version : Nat
  type    : Nat
  dest    : Nat
  src     : Nat
  hops    : Nat
  ordered : Bool
  detoured : Bool
  job     : Nat
  length  : Nat
  stamp   : Nat
  crcOk   : Bool
  deriving DecidableEq, Repr

/-- A link flit with its trailer (10 Table 10.3); `data` is bytes 0-239. -/
structure Flit where
  seq    : Nat
  vc     : Nat
  ack    : Nat
  nak    : Bool
  creditVc : Nat
  credit : Nat
  fkind  : Nat
  crcOk  : Bool
  data   : Bytes
  deriving DecidableEq, Repr

/-- A flit on a die-to-die bridge (01 R10): bridge 0-7 in the order of event 0x0204, whether it leaves H, and its number in that
direction. -/
structure BridgeFlit where
  bridge  : Nat
  outward : Bool
  number  : Nat
  deriving DecidableEq, Repr

/-- What a trace of the reference reads (07 R206): REFIN of the five Survey ADCs, the ladder spans and VCREF of the four dies, in uV. -/
structure TraceReadings where
  refin  : List Nat
  ladder : List Nat
  vcref  : List Nat
  deriving DecidableEq, Repr

/-- What an in-field test reads (14 R479): of the structural part the first of its 92 slots that fails; of the postmark self-test the raw codes of
the 258 converters at each of its 64 fires. -/
structure TestReadings where
  structural : Option Nat
  raw        : List (List Int)
  deriving DecidableEq, Repr

/-- A link advert (10 Table 10.4); `crcOk` says whether its CRC passes. -/
structure Advert where
  version    : Nat
  gens       : Nat
  coord      : Nat
  coordValid : Bool
  port       : Nat
  twist      : Nat
  dim        : Nat
  lanes      : Nat
  features   : Nat
  fabricId   : Nat
  serial     : Nat
  crcOk      : Bool
  deriving DecidableEq, Repr

/-- A time message (10 Table 10.10); stamps in sixteenths of a tick. -/
structure TimeMsg where
  kind    : Nat
  depth   : Nat
  valid   : Bool
  aligned : Bool
  seq     : Nat
  stampA  : Nat
  stampB  : Nat
  deriving DecidableEq, Repr

/-- The writers of the register file (13 Table 13.2). -/
inductive Path where
  | host
  | firmware
  | i3c
  deriving DecidableEq, Repr

/-- Why a link goes DOWN (10 R315). -/
inductive DownCause where
  | resends
  | lockLost
  | silence
  deriving DecidableEq, Repr

/-- A firmware crash other than a watchdog expiry (12 R402). -/
inductive CrashCause where
  | trap
  | assertion
  deriving DecidableEq, Repr

/-- What the scrubber finds in one pass over a word (14 R466, R467). -/
inductive ScrubFinding where
  /-- one symbol corrected in HBM stack `stack`, at `addr`, symbol `pos` -/
  | hbmCorrected (stack addr pos : Nat)
  /-- one symbol corrected in the staging SRAM of die `die` (4 = H) -/
  | sramCorrected (die addr pos : Nat)
  /-- two bad symbols in the master of a parcel (Table 14.3 row 1) -/
  | masterBad (stack addr model index : Nat)
  /-- two bad symbols in an array code record (row 2) -/
  | recordBad (stack addr : Nat) (a : ArrId)
  /-- two bad symbols in a franking entry (row 3) -/
  | frankingBad (stack addr : Nat) (a : ArrId)
  /-- two bad symbols in working space of the open step with a STEP_TAG, in the staging SRAM of a die (row 4) -/
  | workBad (die addr stepTag : Nat)
  /-- two bad symbols in the held inputs of an open step (row 5) -/
  | heldInputBad (die addr : Nat)
  /-- two bad symbols in state that cannot be rebuilt (row 6) -/
  | stateBad (stack addr : Nat)
  /-- two bad symbols in a dump slot of the dead-letter region (row 7) -/
  | dumpBad (slot addr : Nat)
  deriving DecidableEq, Repr

/-- A pass of the scrubber: over every word of the HBM stacks, or over every word of staging SRAM (14 R466), with what it finds. -/
structure ScrubPass where
  hbm : Bool
  found : List ScrubFinding
  deriving DecidableEq, Repr

/-- The anchor of one array: K and Z of the four range codes, G and F of the 258 converters, in the encodings of 04
Table 4.3 (07 R211, R212). An empty list stands for the neutral value of every entry. -/
structure Anchor where
  k : List Int
  z : List Int
  g : List Int
  f : List Int
  deriving DecidableEq, Repr

/-- The commands. The comment of each names its row's rule. -/
inductive Instr where
  /-- R537. The input, in mV, rises through 38.0 V. -/
  | powerApplied (vinMv : Nat) (rst compat addr0 addr1 : Bool)
  /-- R544. -/
  | powerRemoved
  /-- R488. `above`: above 61.0 V for 1 us; otherwise below 38.0 V for 5 us. `vinMv` is the input. -/
  | powerFailStop (above : Bool) (vinMv : Nat)
  /-- R509. -/
  | powerFailRecovery
  /-- R418, R527. The straps as they stand at the rising edge. -/
  | resetN (compat addr0 addr1 : Bool)
  /-- R536. -/
  | arraysReady
  /-- R232. What its trace reads, and the direct runs: array, raw codes of its 320 fires, whether one set an over-range flag. -/
  | firstEverCalibration (trace : TraceReadings) (runs : List (ArrId × List (List Int) × Bool))
  /-- R401. -/
  | watchdogWrite (core : Nat)
  /-- R401. -/
  | watchdogExpiry (core : Nat)
  /-- R402. -/
  | firmwareCrash (cause : CrashCause) (core : Nat)
  /-- R401. -/
  | lockstepMismatch
  /-- R364. -/
  | helloTimer (port : Nat)
  /-- R356. -/
  | dispatchTrainingDone (port gen : Nat)
  /-- R356. -/
  | dispatchTrainingTimeout (port : Nat)
  /-- R362. -/
  | headerCrcFailure (port : Nat)
  /-- R367. -/
  | select (h : FrameHdr) (payload : Bytes)
  /-- R380. -/
  | step (h : FrameHdr) (payload : Bytes)
  /-- R380. The held step of a queue with a number. -/
  | reorderTimeout (queue seq : Nat)
  /-- R376. -/
  | write (h : FrameHdr) (payload : Bytes)
  /-- R376. -/
  | read (h : FrameHdr) (payload : Bytes)
  /-- R384. -/
  | doorbellSubmission (h : FrameHdr) (payload : Bytes)
  /-- R384. -/
  | doorbellCompletion (h : FrameHdr) (payload : Bytes)
  /-- R396. -/
  | heartbeat (h : FrameHdr) (payload : Bytes)
  /-- R546. -/
  | parcelFrame (h : FrameHdr) (payload : Bytes)
  /-- R391. -/
  | regwrite (h : FrameHdr) (payload : Bytes)
  /-- R391. -/
  | regread (h : FrameHdr) (payload : Bytes)
  /-- R428, OP 0. -/
  | dlreadStatus (h : FrameHdr) (payload : Bytes)
  /-- R428, OP 1. -/
  | dlreadRead (h : FrameHdr) (payload : Bytes)
  /-- R428, OP 2. -/
  | dlreadClear (h : FrameHdr) (payload : Bytes)
  /-- R428, OP 3. -/
  | dlreadRestart (h : FrameHdr) (payload : Bytes)
  /-- R394. -/
  | l2reg (h : FrameHdr) (payload : Bytes)
  /-- R394. -/
  | l2data (h : FrameHdr) (payload : Bytes)
  /-- R394. The slot whose L2GET went unanswered. -/
  | l2getTimeout (slot : Nat)
  /-- R379. -/
  | intakeStaleTimeout (port chan : Nat)
  /-- R397. -/
  | leaseExpiry
  /-- R397. -/
  | orphanSlotMove
  /-- 12 Table 12.4, 0x0001. -/
  | createWindow (c : CmdFrame)
  /-- 0x0002. -/
  | deleteWindow (c : CmdFrame)
  /-- 0x0010. -/
  | createQueue (c : CmdFrame)
  /-- 0x0011. -/
  | deleteQueue (c : CmdFrame)
  /-- 0x0012. -/
  | setEventRing (c : CmdFrame)
  /-- 0x0020, R236. -/
  | createContext (c : CmdFrame)
  /-- 0x0021. -/
  | changeContext (c : CmdFrame)
  /-- 0x0022. -/
  | discardContext (c : CmdFrame)
  /-- 0x0030, R407. -/
  | loadModel (c : CmdFrame)
  /-- 0x0031, R196. -/
  | unloadModel (c : CmdFrame)
  /-- 0x0038, R260. -/
  | loadAdapter (c : CmdFrame)
  /-- 0x0039. -/
  | unloadAdapter (c : CmdFrame)
  /-- 0x0040. -/
  | setRegions (c : CmdFrame)
  /-- 0x0041. -/
  | setServing (c : CmdFrame)
  /-- 0x0042, R408. -/
  | releaseLease (c : CmdFrame)
  /-- 0x0050. -/
  | setFabric (c : CmdFrame)
  /-- 0x0051. -/
  | setJobTable (c : CmdFrame)
  /-- 0x0052, R353. -/
  | releaseJob (c : CmdFrame)
  /-- 0x0053. -/
  | resetPort (c : CmdFrame)
  /-- 0x0054. -/
  | readPorts (c : CmdFrame)
  /-- 0x0055, R343. -/
  | loadTime (c : CmdFrame)
  /-- 0x0060, R227. -/
  | requestCalibration (c : CmdFrame)
  /-- 0x0061. -/
  | readStorm (c : CmdFrame)
  /-- 0x0062, R496. -/
  | setPowerState (c : CmdFrame)
  /-- R501. -/
  | powerEntryTimeout
  /-- 0x0070, R421. -/
  | attest (c : CmdFrame)
  /-- 0x0071. -/
  | readIdentity (c : CmdFrame)
  /-- 0x0080, R425. -/
  | updateBegin (c : CmdFrame)
  /-- 0x0081. -/
  | updateData (c : CmdFrame)
  /-- 0x0082, R424. -/
  | updateCommit (c : CmdFrame)
  /-- 0x0083, R418. -/
  | resetModule (c : CmdFrame)
  /-- 0x0090, R427. -/
  | dump (c : CmdFrame)
  /-- R249. The application core that is free. -/
  | sortingRound (core : Nat)
  /-- R286. -/
  | prefixMatchDone (stepTag entry : Nat)
  /-- R302. -/
  | pageExhaustionTimeout (stepTag entry : Nat)
  /-- R106. -/
  | listFetchDone (a : ArrId)
  /-- R49. -/
  | fireLatch (t : TileId)
  /-- R51. The 258 raw codes and over-range flags; converters 256 and 257 are PMH and PML. -/
  | converterResult (t : TileId) (codes : List Int) (flags : List Bool)
  /-- R62. -/
  | postmarkComparison (t : TileId)
  /-- R143. -/
  | fireAdd (t : TileId)
  /-- R117. -/
  | outlierAdd (t : TileId)
  /-- R129. The job at the head of the fall-back lane of unit `unit` of die `die`. -/
  | fallbackJobDone (die unit : Nat)
  /-- R137. The spot comparison at the head of the unit's lane. -/
  | spotComparisonDone (die unit : Nat)
  /-- R261. The contribution of one adapter to one token's target at one tensor. -/
  | adapterContribution (stepTag token tensor adapter : Nat)
  /-- R144. -/
  | bankDrainDone (t : TileId) (bank : Nat)
  /-- R151. The drain in flight that arrives, by its place among those in flight. -/
  | drainArrival (idx : Nat)
  /-- R152. The line of owner die `die` at offset `off`. -/
  | lineTimeout (die off : Nat)
  /-- R159. -/
  | stepCommit (stepTag : Nat)
  /-- R133. -/
  | stormHandling
  /-- R134. -/
  | stormRecheck
  /-- R156. -/
  | contributionRecord (h : CourierHdr) (payload : Bytes)
  /-- R156. -/
  | replayNotice (h : CourierHdr) (payload : Bytes)
  /-- R329. -/
  | activationRecord (h : CourierHdr) (payload : Bytes)
  /-- R329. -/
  | activationHoldTimeout (job step token : Nat)
  /-- R352. -/
  | moduleDownNotice (h : CourierHdr) (payload : Bytes)
  /-- R352. -/
  | jobAbortNotice (h : CourierHdr) (payload : Bytes)
  /-- R352. -/
  | jobWaitTimeout (job : Nat)
  /-- R334. -/
  | courierFrameRoute (h : CourierHdr) (payload : Bytes)
  /-- R170. -/
  | courierParcelFrame (h : CourierHdr) (payload : Bytes)
  /-- R333. The links of the fabric map: (module, its port, partner). -/
  | routeRecompute (links : List (Nat × Nat × Nat))
  /-- R314. `link` 0-11 is a Courier port, 12 and 13 Dispatch 0 and 1. -/
  | flitReceive (link : Nat) (f : Flit)
  /-- R314. -/
  | flitResendTimeout (link : Nat)
  /-- R10. Whether this try of the flit matches its CRC. -/
  | bridgeFlitTransfer (flit : BridgeFlit) (crcOk : Bool)
  /-- R315. -/
  | portDown (link : Nat) (cause : DownCause)
  /-- R315. The lane groups that lock again (bit 0, bit 1). -/
  | retrainDone (link lanes : Nat)
  /-- R315. -/
  | retrainTimeout (link : Nat)
  /-- R316. -/
  | advertTimer (port : Nat)
  /-- R316. -/
  | advertReceived (port : Nat) (a : Advert)
  /-- R320. -/
  | detectTimeout (port : Nat)
  /-- R319. -/
  | trainingDone (port : Nat)
  /-- R319. -/
  | trainingTimeout (port : Nat)
  /-- R320. -/
  | keepaliveTimer (port : Nat)
  /-- R341. -/
  | timeExchangeStart
  /-- R341. -/
  | timeSync (port : Nat) (m : TimeMsg) (arrival : Nat)
  /-- R341. -/
  | timeDelayRequest (port : Nat) (m : TimeMsg) (arrival : Nat)
  /-- R342. -/
  | timeDelayResponse (port : Nat) (m : TimeMsg)
  /-- R345. -/
  | alignmentLost
  /-- R20. -/
  | stepBoundary
  /-- R322. -/
  | fabricWakeFrame (port : Nat)
  /-- R322. -/
  | laneEnergyWake (port : Nat)
  /-- R360. -/
  | wakeLight (port : Nat)
  /-- R492. -/
  | wakeN
  /-- R494. -/
  | autoHold
  /-- R490. The input of the last 10 us: volts in mV, current in mA. -/
  | governorTick (vinMv iinMa : Nat)
  /-- R491. The 1 us sum of the core-rail currents, in 1/4 A. -/
  | railCurrentGuard (quarterAmps : Nat)
  /-- R502. Raw readings, in 1/16 degC, of the sensors sampled, by module index. -/
  | sensorSample (raw : List (Nat × Int))
  /-- R507. -/
  | throttleStepTimer
  /-- R111. -/
  | interpolationCheck (die region : Nat)
  /-- R168. -/
  | parcelAcceptance (model index : Nat)
  /-- R546. -/
  | parcelIncompleteTimeout (model index : Nat)
  /-- R175. -/
  | recordBuilt (a : ArrId)
  /-- R179. -/
  | programStart (t : TileId)
  /-- R181. -/
  | programRowEnd (t : TileId)
  /-- R181. -/
  | programResume (t : TileId)
  /-- R181. -/
  | programmingDeferred (t : TileId)
  /-- R180. Whether every cell lies inside its window at the final verify. -/
  | programComplete (t : TileId) (ok : Bool)
  /-- R187. -/
  | settlingDone (t : TileId)
  /-- R199. -/
  | rewriteStart (a : ArrId)
  /-- R200. -/
  | directRewriteStart (a : ArrId)
  /-- R190. -/
  | verifyScanDue (a : ArrId)
  /-- R191. The raw codes of the scan: for each row its eight fires, the last four with the postmark converters on REF0 and REF1 (R189). -/
  | verifyScanDone (a : ArrId) (raw : List (List (List Int)))
  /-- R116. -/
  | driftOutOfService (a : ArrId)
  /-- R192. The masters (model, index) and records that the digests find changed. -/
  | redigest (masters : List (Nat × Nat)) (records : List ArrId)
  /-- R227. -/
  | calibrationAgeTimer (a : ArrId)
  /-- R214. -/
  | calibrationExpiry (a : ArrId)
  /-- R222. -/
  | calibrationRunStart (t : TileId)
  /-- R221. The raw codes of the run's 320 fires, in the order of Table 7.4, and whether any over-ranged. -/
  | calibrationFitDone (t : TileId) (raw : List (List Int)) (overRange : Bool)
  /-- R209. -/
  | traceTimer
  /-- R207. REFIN of Survey ADC 0-4, in uV; ladder span and VCREF of A0-A3, in uV. -/
  | traceDone (refin ladder vcref : List Nat)
  /-- R210. -/
  | referenceUntraced
  /-- R299. -/
  | heldExpiry (slot : Nat)
  /-- R480. -/
  | inFieldTestDue (t : TileId)
  /-- R480. -/
  | inFieldTestStart (t : TileId)
  /-- R481. -/
  | inFieldTestForced (t : TileId)
  /-- R482. -/
  | inFieldTestDone (t : TileId) (readings : TestReadings)
  /-- R466. -/
  | eccScrub (pass : ScrubPass)
  /-- R448. Bits of configuration registers that changed with no write: (address, exclusive-or). -/
  | sealScan (upsets : List (Nat × Word))
  /-- R450. -/
  | sealOpenTimeout
  /-- R450. A write of SEAL_CTL on a path. -/
  | sealOpen (p : Path) (value : Word)
  /-- R450. -/
  | sealCommit (p : Path) (value : Word)
  /-- R209. -/
  | traceNow (p : Path) (value : Word)
  /-- R439. Letterbox `n`. -/
  | lbSelWrite (p : Path) (n : Nat) (value : Word)
  /-- R439. -/
  | letterboxSnapshotDone (n : Nat)
  /-- R445. -/
  | evrNewestWrite (p : Path) (value : Word)
  /-- R455. -/
  | dlCtlClear (p : Path) (value : Word)
  /-- R455. -/
  | dlCtlRestart (p : Path) (value : Word)
  /-- R456. -/
  | dlWinWrite (p : Path) (value : Word)
  /-- R453. -/
  | intakeCtlWrite (p : Path) (value : Word)
  /-- R389. -/
  | compHeadWrite (queue : Nat) (value : Word)
  /-- R390. -/
  | evtHeadWrite (value : Word)
  /-- R512. -/
  | sadcStart (p : Path) (n : Nat) (value : Word)
  /-- R512. -/
  | sadcStop (p : Path) (n : Nat) (value : Word)
  /-- R513. -/
  | sadcGo (p : Path) (n : Nat) (value : Word)
  /-- R511. -/
  | sadcSettled (n : Nat)
  /-- R510. The input of the conversion and the reference in force, in uV. -/
  | sadcConversionDone (n vinUv vrefUv : Nat)
  /-- R432. -/
  | registerWrite (p : Path) (addr : Nat) (value : Word)
  /-- R532. -/
  | i3cDynamicAddress (addr : Nat)
  /-- R533. -/
  | i3cPrivateWrite (bytes : Bytes)
  /-- R533. -/
  | i3cPrivateRead (count : Nat)
  /-- R534. Levels at the pins as captured, and the cells shifted in. -/
  | extest (pins shifted : List Bool)
  /-- R534. -/
  | extestPulse (pins shifted : List Bool)
  /-- R534. -/
  | extestTrain (pins shifted : List Bool)
  /-- R534. -/
  | samplePreload (pins shifted : List Bool)
  /-- R534. -/
  | clamp
  /-- R534. -/
  | highz
  /-- R534. -/
  | idcode
  /-- R534. BYPASS, or an opcode that Table 16.7 does not list. -/
  | bypass (opcode : Nat)
  /-- R526. -/
  | sysclkLoss
  /-- R317. The port, the receive lane, the lane number of the 16 markers, and whether all their bytes are inverted. -/
  | laneLock (port lane number : Nat) (inverted : Bool)
  /-- R534. -/
  | trstN
  /-- R406. -/
  | reservedOpcode (c : CmdFrame) (opcode : Nat)
  /-- R362. The TYPE and the channel it came on. -/
  | reservedFrameType (h : FrameHdr) (type chan : Nat) (payload : Bytes)
  /-- R279. -/
  | attentionResult (stepTag token head : Nat)
  /-- R298. The slot whose next held page is written, or written back. -/
  | heldPageWritten (slot : Nat)
  /-- R292. -/
  | compactionDone (stepTag : Nat)
  deriving DecidableEq, Repr

end Sys2Proof
end

