-- ==== Sys2Proof/Decode.lean ====
section
/-! DEFINITION. The command that a word of the table spells. No row of spec/opcode_table.json gives bits (every row's
fields are empty and no row has a fixed pattern), so no word spells a command. -/

set_option Elab.async false

namespace Sys2Proof

/-- The command spelled by the `nbits` bits of `w`: none, for every word. -/
def decodeTableWord (nbits w : Nat) : Option Instr :=
  match nbits, w with
  | _, _ => none

end Sys2Proof
end

