-- ==== Sys2Proof/Config.lean ====
section
/-! DEFINITION. The values that the spec leaves open, as constants without a body: nothing can be proved of them but what
holds for every value. Each is named in an assumption log entry. Each takes a draw number where the spec lets every use
give a fresh value. -/

set_option Elab.async false

namespace Sys2Proof.Config

/-- The hardware random source of a die (04 R135, R136), by draw. -/
opaque random : Nat → Nat

/-- The draw of a sampled token among the TOP_K highest logits (08 R247): from SEED, slot number, the token's position,
TEMPERATURE and the candidates (token, F32 logit). The result is an index, taken modulo the number of candidates. -/
opaque sample : Nat → Nat → Nat → Nat → List (Nat × Nat) → Nat

/-- The vector that the input quantiser of a tensor receives when the operations that lead to it are not stated: the layer's NORM,
ACTIVATION and norm gains (08 Table 8.2), the tensor's ROLE, the layer's input and what it has delivered for the token, width; F32 encodings
(08 R251, R254; log entry 9). -/
opaque layerInput : Nat → Nat → List Nat → Nat → List (List Nat) → Nat → List Nat

/-- The vector a layer hands on to the next (08 R251; log entry 9): NORM, ACTIVATION, norm gains, the layer's input, what it delivered. -/
opaque layerOutput : Nat → Nat → List Nat → List Nat → List (List Nat) → List Nat

/-- How many modules the fabric manager's placement lets contribute to a ledger line (05 R155, 06 R548): JOB, layer, tensor, column
block; used modulo the number of members (log entry 13). -/
opaque contributors : Nat → Nat → Nat → Nat → Nat

/-- The result of one query head (09 R279) before it is kept within the bounds of 03 Table 3.9 (`attentionResult`): draw, query, keys and
values, head dimension. -/
opaque attention : Nat → List Nat → List (List Nat) → Nat → List Nat

/-- The entry module of the relay set of a parcel, by MODEL and PARCEL_INDEX, as firmware knows it where a Courier port delivers the parcel
(06 R169, log entry 21). -/
opaque relayEntry : Nat → Nat → Nat

/-- HBM address of the page table entries of a prefix-tree node (09 Table 9.3 PAGES), by node index; the spec gives the region no base. -/
opaque nodePages : Nat → Nat

/-- K after rotary position (09 R276): position, head dimension, rotary base, elements; F32 encodings. -/
opaque rotary : Nat → Nat → Nat → List Nat → List Nat

/-- The 512-bit secret that the module's SRAM function and its helper data give (12 R412). -/
opaque deviceSecret : Nat

/-- The trailer of a Tuiven frame whose CRC fails, as received (11 R375), by the bytes before it. -/
opaque badTrailer : Bytes → Nat

/-- Random bits of the Persyn root key (12 R411). The module holds its public key alone. -/
opaque rootSecret : Nat

/-- Random bits and KEY_ID of the key that signed the configuration record which flash holds by its fields (12 R414). -/
opaque signerSecret : Nat
opaque signerId : Nat

/-- Bytes of a dump's sections, which the spec does not lay out (12 R427): dump number, offset. -/
opaque dumpByte : Nat → Nat → Byte

/-- A value that leaves the span of the field that holds it, where the spec states no result: the field (1 the corrected
value of 04 R112, 2 a column drift of 04 R114), the exact value. -/
opaque outOfSpan : Nat → Int → Int

/-- The gain, times 2^17, of a range code at which every converter is weak (07 R218), by range code. -/
opaque weakGain : Nat → Int

/-- Ticks in 100 us by which a child runs ahead of a parent in another rack (10 R342), estimated from the offsets of its last exchanges, newest
first. -/
opaque rateCorrection : List Int → Int

/-- The 10-bit symbols of the alignment markers that IEEE 802.3 clause 91 places before a code word of a Courier-2 stream, by the number of the code
word since the port left SELECT; the empty list where it places none (10 R317). The standard's, which the spec does not copy (log entry 63). -/
opaque alignMarkers : Nat → List Nat

end Sys2Proof.Config
end

