-- ==== Sys2Proof/Machine/Bits.lean ====
section
/-! DEFINITION. Fields of byte strings and numbers, rounding, and lists keyed by a number: the helpers that every part of
the model uses. -/

set_option Elab.async false

namespace Sys2Proof.Machine

/-! ### Numbers and bytes (little-endian, 03 and 11 R361) -/

/-- The number that bytes spell, least significant first. -/
def leNat : Bytes → Nat
  | [] => 0
  | b :: bs => b.toNat + 256 * leNat bs

/-- `n` bytes of `v`, least significant first. -/
def natLe : Nat → Nat → Bytes
  | 0, _ => []
  | n + 1, v => BitVec.ofNat 8 v :: natLe n (v / 256)

/-- The number that bytes spell, most significant first (12, keys and signatures). -/
def beNat (bs : Bytes) : Nat := leNat bs.reverse

/-- `n` bytes of `v`, most significant first. -/
def natBe (n v : Nat) : Bytes := (natLe n v).reverse

/-- `len` bytes at offset `off`. -/
def slice (b : Bytes) (off len : Nat) : Bytes := (b.drop off).take len

/-- The little-endian field of `len` bytes at `off`; bytes beyond the end read 0. -/
def fld (b : Bytes) (off len : Nat) : Nat := leNat (slice b off len)

/-- Bits [lo+len-1:lo] of `v`. -/
def bits (v lo len : Nat) : Nat := v / 2 ^ lo % 2 ^ len

/-- Bit `i` of `v`. -/
def bit (v i : Nat) : Bool := v / 2 ^ i % 2 == 1

/-- A Boolean as a bit. -/
def b2n (b : Bool) : Nat := if b then 1 else 0

/-- Whether every byte is zero (reserved fields, 01 R27). -/
def allZero (b : Bytes) : Bool := b.all (· == 0)

/-- Two's complement of `w` bits. -/
def toSigned (w v : Nat) : Int := if v < 2 ^ (w - 1) then (v : Int) else (v : Int) - 2 ^ w

/-- The `w`-bit two's complement encoding of an integer. -/
def ofSigned (w : Nat) (i : Int) : Nat := (i % 2 ^ w).toNat

def popcount : Nat → Nat → Nat
  | 0, _ => 0
  | n + 1, v => v % 2 + popcount n (v / 2)

/-- The positions of the set bits of the low `n` bits, rising. -/
def setBits (n v : Nat) : List Nat := (List.range n).filter (fun i => bit v i)

def ceilDiv (a b : Nat) : Nat := (a + b - 1) / b

/-- Smallest `k` with `n <= 2^k`, for `n` up to `2^fuel`. -/
def log2Up (fuel n : Nat) : Nat := ((List.range fuel).find? (fun k => n ≤ 2 ^ k)).getD fuel

/-! ### Rounding (03 R69) -/

/-- The nearest integer to `num / den`, ties to even. -/
def roundEven (num : Int) (den : Nat) : Int :=
  let q := num / (den : Int)
  let r := num % (den : Int)
  if 2 * r < den then q
  else if 2 * r > den then q + 1
  else if q % 2 = 0 then q else q + 1

/-- An exact fraction `num / den`; the denominator is never 0 in a value the model makes. -/
structure Frac where
  num : Int
  den : Nat
  deriving DecidableEq, Repr

def Frac.ofInt (i : Int) : Frac := ⟨i, 1⟩
def Frac.add (a b : Frac) : Frac := ⟨a.num * b.den + b.num * a.den, a.den * b.den⟩
def Frac.mul (a b : Frac) : Frac := ⟨a.num * b.num, a.den * b.den⟩
def Frac.neg (a : Frac) : Frac := ⟨-a.num, a.den⟩
def Frac.sub (a b : Frac) : Frac := a.add b.neg
def Frac.abs (a : Frac) : Frac := ⟨a.num.natAbs, a.den⟩
/-- The quotient; a zero divisor gives 0. -/
def Frac.div (a b : Frac) : Frac :=
  if b.num = 0 then ⟨0, 1⟩ else if b.num < 0 then ⟨-(a.num * b.den), a.den * b.num.natAbs⟩
  else ⟨a.num * b.den, a.den * b.num.natAbs⟩
def Frac.le (a b : Frac) : Bool := a.num * b.den ≤ b.num * a.den
def Frac.lt (a b : Frac) : Bool := a.num * b.den < b.num * a.den
def Frac.eq (a b : Frac) : Bool := a.num * b.den == b.num * a.den
def Frac.isZero (a : Frac) : Bool := a.num == 0
def Frac.max (a b : Frac) : Frac := if a.le b then b else a
def Frac.round (a : Frac) : Int := roundEven a.num a.den
def Frac.floor (a : Frac) : Int := a.num / (a.den : Int)
/-- `a * 2^e`. -/
def Frac.scale (a : Frac) (e : Int) : Frac :=
  if e < 0 then ⟨a.num, a.den * 2 ^ e.natAbs⟩ else ⟨a.num * 2 ^ e.toNat, a.den⟩
/-- The fraction in lowest powers of two: common factors 2 removed, at most `fuel` of them. -/
def Frac.trim : Nat → Frac → Frac
  | 0, a => a
  | n + 1, a => if a.num % 2 = 0 ∧ a.den % 2 = 0 then Frac.trim n ⟨a.num / 2, a.den / 2⟩ else a

def maxList (l : List Nat) : Nat := l.foldl Nat.max 0
def sumList (l : List Nat) : Nat := l.foldl (· + ·) 0
def sumInt (l : List Int) : Int := l.foldl (· + ·) 0

/-- Square root rounded down, by bisection over `n` bits. -/
def isqrt (n v : Nat) : Nat :=
  (List.range n).foldr (fun i r => if (r + 2 ^ i) * (r + 2 ^ i) ≤ v then r + 2 ^ i else r) 0

/-! ### Lists keyed by a number or a record -/

/-- The element at a place, or `d`. -/
def at' {α : Type} (l : List α) (i : Nat) (d : α) : α := l.getD i d

/-- The list with the element at a place changed. -/
def modAt {α : Type} (l : List α) (i : Nat) (f : α → α) : List α := l.modify i f

/-- The list with the first element that satisfies `p` replaced by `x`, or with `x` added at the end. -/
def putBy {α : Type} (p : α → Bool) (x : α) : List α → List α
  | [] => [x]
  | y :: ys => if p y then x :: ys else y :: putBy p x ys

/-- The value listed for a key, or `d`. -/
def lookupD {κ β : Type} [DecidableEq κ] (l : List (κ × β)) (k : κ) (d : β) : β :=
  match l.find? (fun e => e.1 == k) with
  | some e => e.2
  | none => d

/-- The list with the value of a key set. -/
def setKey {κ β : Type} [DecidableEq κ] (l : List (κ × β)) (k : κ) (v : β) : List (κ × β) :=
  putBy (fun e => e.1 == k) (k, v) l

/-- The list without a key. -/
def dropKey {κ β : Type} [DecidableEq κ] (l : List (κ × β)) (k : κ) : List (κ × β) := l.filter (fun e => e.1 != k)

/-- The element with the least key, the first on a tie. -/
def argMin {α : Type} (key : α → Nat) : List α → Option α
  | [] => none
  | x :: xs =>
    match argMin key xs with
    | none => some x
    | some y => if key x ≤ key y then some x else some y

/-- The place of the first element that satisfies `p`. -/
def findIdx' {α : Type} (p : α → Bool) (l : List α) : Option Nat := l.findIdx? p

/-- Split a list into pieces of `n` elements, at most `fuel` of them. -/
def pieces {α : Type} (n : Nat) : Nat → List α → List (List α)
  | 0, _ => []
  | f + 1, l => if l.isEmpty then [] else l.take n :: pieces n f (l.drop n)

/-- Insert in rising order of a key, after equals. -/
def insertBy {α : Type} (key : α → Nat) (x : α) : List α → List α
  | [] => [x]
  | y :: ys => if key x < key y then x :: y :: ys else y :: insertBy key x ys

/-- Stable sort by a key. -/
def sortBy {α : Type} (key : α → Nat) (l : List α) : List α := l.foldr (insertByFront key) []
where
  /-- Insert before equals, so that folding from the right keeps the order of equals. -/
  insertByFront {α : Type} (key : α → Nat) (x : α) : List α → List α
    | [] => [x]
    | y :: ys => if key x ≤ key y then x :: y :: ys else y :: insertByFront key x ys

/-- A list of values all of which are there. -/
def allSome {α : Type} : List (Option α) → Option (List α)
  | [] => some []
  | none :: _ => none
  | some x :: xs => (allSome xs).map fun l => x :: l

end Sys2Proof.Machine
end

