-- ==== Sys2Proof/Machine/Digest.lean ====
section
/-! DEFINITION. SHA-512 to FIPS 180-4 (06 R163, 07 R212, 09 R284, 12 R422) and CRC-32C (13 R448). -/

set_option Elab.async false

namespace Sys2Proof.Machine

/-- The round constants of SHA-512: the first 64 fraction bits of the cube roots of the first 80 primes. -/
def shaK : List Nat :=
  [0x428A2F98D728AE22, 0x7137449123EF65CD, 0xB5C0FBCFEC4D3B2F, 0xE9B5DBA58189DBBC, 0x3956C25BF348B538, 0x59F111F1B605D019, 0x923F82A4AF194F9B, 0xAB1C5ED5DA6D8118] ++
  [0xD807AA98A3030242, 0x12835B0145706FBE, 0x243185BE4EE4B28C, 0x550C7DC3D5FFB4E2, 0x72BE5D74F27B896F, 0x80DEB1FE3B1696B1, 0x9BDC06A725C71235, 0xC19BF174CF692694] ++
  [0xE49B69C19EF14AD2, 0xEFBE4786384F25E3, 0x0FC19DC68B8CD5B5, 0x240CA1CC77AC9C65, 0x2DE92C6F592B0275, 0x4A7484AA6EA6E483, 0x5CB0A9DCBD41FBD4, 0x76F988DA831153B5] ++
  [0x983E5152EE66DFAB, 0xA831C66D2DB43210, 0xB00327C898FB213F, 0xBF597FC7BEEF0EE4, 0xC6E00BF33DA88FC2, 0xD5A79147930AA725, 0x06CA6351E003826F, 0x142929670A0E6E70] ++
  [0x27B70A8546D22FFC, 0x2E1B21385C26C926, 0x4D2C6DFC5AC42AED, 0x53380D139D95B3DF, 0x650A73548BAF63DE, 0x766A0ABB3C77B2A8, 0x81C2C92E47EDAEE6, 0x92722C851482353B] ++
  [0xA2BFE8A14CF10364, 0xA81A664BBC423001, 0xC24B8B70D0F89791, 0xC76C51A30654BE30, 0xD192E819D6EF5218, 0xD69906245565A910, 0xF40E35855771202A, 0x106AA07032BBD1B8] ++
  [0x19A4C116B8D2D0C8, 0x1E376C085141AB53, 0x2748774CDF8EEB99, 0x34B0BCB5E19B48A8, 0x391C0CB3C5C95A63, 0x4ED8AA4AE3418ACB, 0x5B9CCA4F7763E373, 0x682E6FF3D6B2B8A3] ++
  [0x748F82EE5DEFB2FC, 0x78A5636F43172F60, 0x84C87814A1F0AB72, 0x8CC702081A6439EC, 0x90BEFFFA23631E28, 0xA4506CEBDE82BDE9, 0xBEF9A3F7B2C67915, 0xC67178F2E372532B] ++
  [0xCA273ECEEA26619C, 0xD186B8C721C0C207, 0xEADA7DD6CDE0EB1E, 0xF57D4F7FEE6ED178, 0x06F067AA72176FBA, 0x0A637DC5A2C898A6, 0x113F9804BEF90DAE, 0x1B710B35131C471B] ++
  [0x28DB77F523047D84, 0x32CAAB7B40C72493, 0x3C9EBE0A15C9BEBC, 0x431D67C49C100D4C, 0x4CC5D4BECB3E42B6, 0x597F299CFC657E2A, 0x5FCB6FAB3AD6FAEC, 0x6C44198C4A475817]

/-- The initial hash value of SHA-512: the first 64 fraction bits of the square roots of the first 8 primes. -/
def shaInit : List Nat :=
  [0x6A09E667F3BCC908, 0xBB67AE8584CAA73B, 0x3C6EF372FE94F82B, 0xA54FF53A5F1D36F1, 0x510E527FADE682D1, 0x9B05688C2B3E6C1F, 0x1F83D9ABFB41BD6B, 0x5BE0CD19137E2179]

def two64 : Nat := 18446744073709551616

def rotr64 (x n : Nat) : Nat := (x / 2 ^ n) ||| (x * 2 ^ (64 - n) % two64)

def shaBig0 (x : Nat) : Nat := (rotr64 x 28 ^^^ rotr64 x 34) ^^^ rotr64 x 39
def shaBig1 (x : Nat) : Nat := (rotr64 x 14 ^^^ rotr64 x 18) ^^^ rotr64 x 41
def shaSmall0 (x : Nat) : Nat := (rotr64 x 1 ^^^ rotr64 x 8) ^^^ (x / 2 ^ 7)
def shaSmall1 (x : Nat) : Nat := (rotr64 x 19 ^^^ rotr64 x 61) ^^^ (x / 2 ^ 6)

/-- The message schedule from its last sixteen words, newest first, for `n` further words; oldest first. -/
def shaSchedule : Nat → List Nat → List Nat → List Nat
  | 0, _, acc => acc.reverse
  | n + 1, w, acc =>
    let x := (shaSmall1 (at' w 1 0) + at' w 6 0 + shaSmall0 (at' w 14 0) + at' w 15 0) % two64
    shaSchedule n (x :: w.take 15) (x :: acc)

/-- One round. -/
def shaRound (v : List Nat) (kw : Nat × Nat) : List Nat :=
  match v with
  | [a, b, c, d, e, f, g, h] =>
    let ch := (e &&& f) ^^^ ((two64 - 1 - e) &&& g)
    let maj := ((a &&& b) ^^^ (a &&& c)) ^^^ (b &&& c)
    let t1 := (h + shaBig1 e + ch + kw.1 + kw.2) % two64
    let t2 := (shaBig0 a + maj) % two64
    [(t1 + t2) % two64, a, b, c, (d + t1) % two64, e, f, g]
  | _ => v

/-- One block of sixteen words. -/
def shaBlock (h block : List Nat) : List Nat :=
  let w := shaSchedule 64 block.reverse block.reverse
  let v := (shaK.zip w).foldl shaRound h
  (h.zip v).map (fun p => (p.1 + p.2) % two64)

/-- The padded message. -/
def shaPad (m : Bytes) : Bytes :=
  m ++ (0x80 : Byte) :: List.replicate ((239 - m.length % 128) % 128) 0 ++ natBe 16 (8 * m.length)

/-- SHA-512, as the 512-bit number whose most significant byte is the digest's first. -/
def sha512 (m : Bytes) : Nat :=
  let p := shaPad m
  let blocks := (pieces 128 (p.length / 128) p).map (fun b => (pieces 8 16 b).map beNat)
  (blocks.foldl shaBlock shaInit).foldl (fun acc w => acc * two64 + w) 0

/-- The digest as 64 bytes. -/
def sha512Bytes (m : Bytes) : Bytes := natBe 64 (sha512 m)

/-- The first 8 digest bytes, taken little-endian (09 R284). -/
def sha512Head (m : Bytes) : Nat := leNat ((sha512Bytes m).take 8)

/-- One bit of the reflected CRC-32C (polynomial 0x1EDC_6F41, reflected 0x82F6_3B78). -/
def crcBits : Nat → Nat → Nat
  | 0, c => c
  | n + 1, c => crcBits n (if c % 2 = 1 then (c / 2) ^^^ 0x82F63B78 else c / 2)

/-- CRC-32C of a byte string (13 R448). -/
def crc32c (m : Bytes) : Nat :=
  (m.foldl (fun c b => crcBits 8 (c ^^^ b.toNat)) 0xFFFFFFFF) ^^^ 0xFFFFFFFF

end Sys2Proof.Machine
end

