-- ==== Sys2Proof/Machine/Ecdsa.lean ====
section
/-! DEFINITION. ECDSA over the P-521 curve with SHA-512, to FIPS 186-5 (12 R411-R413): curve arithmetic in Jacobian coordinates,
deterministic signatures, verification. A public key is X then Y, a signature is r then s, each of 66 bytes, most significant byte first. The
curve's constants and the steps are those of the standard (PRESUMED, log entry 54). -/

set_option Elab.async false

namespace Sys2Proof.Machine

/-! ### The curve -/

/-- The prime of the field. -/
def curveP : Nat := 2 ^ 521 - 1

/-- The order of the base point. -/
def curveN : Nat :=
  0x01FFFFFFFFFFFFFFFFFFFFFFFFFFFFFFFFFFFFFFFFFFFFFFFFFFFFFFFFFFFFFFFFFA51868783BF2F966B7FCC0148F709A5D03BB5C9B8899C47AEBB6FB71E91386409

/-- The coefficient b of y^2 = x^3 - 3x + b. -/
def curveB : Nat :=
  0x0051953EB9618E1C9A1F929A21A0B68540EEA2DA725B99B315F3B8B489918EF109E156193951EC7E937B1652C0BD3BB1BF073573DF883D2C34F1EF451FD46B503F00

def curveGx : Nat :=
  0x00C6858E06B70404E9CD9E3ECB662395B4429C648139053FB521F828AF606B4D3DBAA14B5E77EFE75928FE1DC127A2FFA8DE3348B3C1856A429BF97E7E31C2E5BD66

def curveGy : Nat :=
  0x011839296A789A3BC0045C8A5FB42C7D1BD998F54449579B446817AFBD17273E662C97EE72995EF42640C550B9013FAD0761353C7086A272C24088BE94769FD16650

/-- `b ^ e` modulo `m`, `e` below 2 ^ fuel. -/
def powMod : Nat → Nat → Nat → Nat → Nat
  | 0, _, _, m => 1 % m
  | n + 1, b, e, m =>
    let h := powMod n b (e / 2) m
    if e % 2 = 1 then h * h % m * b % m else h * h % m

/-- The inverse modulo a prime of at most 521 bits. -/
def invMod (a m : Nat) : Nat := powMod 521 a (m - 2) m

def subP (a b : Nat) : Nat := (a + (curveP - b % curveP)) % curveP

/-- A point (X, Y, Z) stands for (X / Z^2, Y / Z^3); Z = 0 is the point at infinity. -/
structure CurvePoint where
  x : Nat
  y : Nat
  z : Nat
  deriving DecidableEq, Repr

def CurvePoint.zero : CurvePoint := ⟨1, 1, 0⟩

def CurvePoint.base : CurvePoint := ⟨curveGx, curveGy, 1⟩

def CurvePoint.double (a : CurvePoint) : CurvePoint :=
  let zz := a.z * a.z % curveP
  let yy := a.y * a.y % curveP
  let m := 3 * (subP a.x zz * (a.x + zz) % curveP) % curveP
  let t := 4 * a.x * yy % curveP
  let x := subP (m * m) (2 * t)
  ⟨x, subP (m * subP t x) (8 * yy * yy), 2 * a.y * a.z % curveP⟩

def CurvePoint.add (a b : CurvePoint) : CurvePoint :=
  if a.z = 0 then b
  else if b.z = 0 then a
  else
    let za := a.z * a.z % curveP
    let zb := b.z * b.z % curveP
    let u := a.x * zb % curveP
    let v := a.y * zb % curveP * b.z % curveP
    let h := subP (b.x * za) u
    let r := subP (b.y * za % curveP * a.z) v
    if h = 0 then (if r = 0 then a.double else .zero)
    else
      let hh := h * h % curveP
      let hhh := hh * h % curveP
      let w := u * hh % curveP
      let x := subP (r * r) (hhh + 2 * w)
      ⟨x, subP (r * subP w x) (v * hhh), a.z * b.z % curveP * h % curveP⟩

/-- `k` times a point, `k` below 2 ^ fuel. -/
def CurvePoint.times : Nat → Nat → CurvePoint → CurvePoint
  | 0, _, _ => .zero
  | n + 1, k, a =>
    let h := (CurvePoint.times n (k / 2) a).double
    if k % 2 = 1 then h.add a else h

/-- The affine coordinates of a point that is not at infinity. -/
def CurvePoint.affine (a : CurvePoint) : Nat × Nat :=
  let i := invMod a.z curveP
  let ii := i * i % curveP
  (a.x * ii % curveP, a.y * ii % curveP * i % curveP)

/-- Whether a pair is a point of the curve. -/
def onCurve (x y : Nat) : Bool :=
  x < curveP && y < curveP && y * y % curveP == (subP (x * x % curveP * x) (3 * x) + curveB) % curveP

/-! ### Keys and signatures -/

/-- The public key of a private key, as 132 bytes. -/
def publicKey (d : Nat) : Bytes :=
  let a := (CurvePoint.base.times 521 d).affine
  natBe 66 a.1 ++ natBe 66 a.2

/-- HMAC with SHA-512, for a key of at most 128 bytes. -/
def hmac512 (key m : Bytes) : Bytes :=
  let k := (key ++ List.replicate 128 0).take 128
  sha512Bytes (k.map (· ^^^ 0x5C) ++ sha512Bytes (k.map (· ^^^ 0x36) ++ m))

/-- The numbers that the generator of deterministic ECDSA gives, taken until one is in range and gives a signature. -/
def signLoop : Nat → Nat → Nat → Bytes → Bytes → Nat × Nat
  | 0, _, _, _, _ => (0, 0)
  | n + 1, d, e, key, v =>
    let v1 := hmac512 key v
    let v2 := hmac512 key v1
    let k := beNat (v1 ++ v2) / 2 ^ 503
    let r := (CurvePoint.base.times 521 k).affine.1 % curveN
    let s := invMod k curveN * ((e + r * d) % curveN) % curveN
    if 0 < k && k < curveN && 0 < r && 0 < s then (r, s)
    else
      let key2 := hmac512 key (v2 ++ [0])
      signLoop n d e key2 (hmac512 key2 v2)

/-- The deterministic signature of a message under a private key, as 132 bytes. -/
def ecdsaSign (d : Nat) (m : Bytes) : Bytes :=
  let e := sha512 m
  let seed := natBe 66 d ++ natBe 66 (e % curveN)
  let k1 := hmac512 (List.replicate 64 0) (List.replicate 64 1 ++ [0] ++ seed)
  let v1 := hmac512 k1 (List.replicate 64 1)
  let k2 := hmac512 k1 (v1 ++ [1] ++ seed)
  let r := signLoop 64 d e k2 (hmac512 k2 v1)
  natBe 66 r.1 ++ natBe 66 r.2

/-- Whether a signature of a message verifies under a public key. -/
def ecdsaVerify (pub m sig : Bytes) : Bool :=
  let x := beNat (pub.take 66)
  let y := beNat ((pub.drop 66).take 66)
  let r := beNat (sig.take 66)
  let s := beNat ((sig.drop 66).take 66)
  let w := invMod s curveN
  let a := (CurvePoint.base.times 521 (sha512 m * w % curveN)).add ((CurvePoint.mk x y 1).times 521 (r * w % curveN))
  onCurve x y && 0 < r && r < curveN && 0 < s && s < curveN && a.z != 0 && a.affine.1 % curveN == r

end Sys2Proof.Machine
end

