-- ==== Sys2Proof/Machine/State.lean ====
section
/-! DEFINITION. The state of the module as plain data, grouped by the parts of the spec, the queue of waiting commands, and
the state after reset. INVENTORY.md lists every field with the rule that names it. A list of pairs or records keyed by a
number is sparse: what is not listed has the default value that stands beside the type. -/

set_option Elab.async false

namespace Sys2Proof.Machine

/-! ### Clocks and time (01 R18-R20, 10 R339-R350, R549) -/

/-- The values of one time exchange seen from the child, in sixteenths of a tick (10 R341). -/
structure Exchange where
  seq : Nat
  t1  : Int
  t2  : Int
  deriving DecidableEq, Repr

/-- A stamp of step-counter time. `none`: the event happened while the counter was INVALID and takes the tick at which it
becomes VALID (10 R549). -/
abbrev Stamp := Option Nat

structure Clocks where
  /-- the free-running step-tick clock, in 4 ns ticks (01 R20, 10 R549) -/
  tick : Nat
  /-- tick of the power-up or of the exit from P4 Seal, from which step boundaries are counted while the counter is INVALID (01 R20) -/
  boundFrom : Nat
  /-- the step counter (10 R339) -/
  counter : Nat
  valid : Bool
  aligned : Bool
  depth : Nat
  /-- free-running tick of the last completed exchange (10 R345) -/
  lastExchange : Option Nat
  exchange : Option Exchange
  xseq : Nat
  /-- path delay of the last exchange with a VALID parent, sixteenths (10 R343) -/
  prevDelay : Option Int
  /-- whole ticks still to be corrected; positive when the child is ahead (10 R342) -/
  correction : Int
  /-- ticks since the last corrected increment -/
  sinceCorrection : Nat
  /-- offsets of the last 16 exchanges (10 R342) -/
  rates : List Int
  /-- whole ticks that the rate takes back in 100 us; positive when the child runs ahead (10 R342, R345) -/
  rate : Int
  /-- how far the rate has come towards its next whole tick, of 25,000 -/
  rateAcc : Nat
  deriving DecidableEq, Repr

/-! ### Power (15) -/

inductive PowerState where
  | p0 | p1 | p2 | p3 | p4
  deriving DecidableEq, Repr

/-- Why the module is stopped (15 R509, 16 R526). -/
inductive StopCause where
  | trip | under | overvolt | sysclk
  deriving DecidableEq, Repr

/-- Why a wake leaves the module in P1 (15 R497). -/
inductive HoldReason where
  | none | lease | drained
  deriving DecidableEq, Repr

/-- An entry to a power state in progress (15 R496). -/
structure PowerEntry where
  target : PowerState
  since  : Nat
  /-- step 2 of 15 R496 has been taken: runs discarded, tests and a trace abandoned -/
  stopped : Bool
  deriving DecidableEq, Repr

/-- What the limit guards of the always-on island bound (12 Table 12.7): the rails in mV, the clocks in MHz, the compute fires in sixteen
boundaries. -/
inductive Limited where
  | vcoreA (die : Nat)
  | vcoreH
  | vtile (die : Nat)
  | clkA (die : Nat)
  | clkH
  | clkTile
  | clkNgaok
  | fireDuty
  | inputPower
  | railCurrent
  deriving DecidableEq, Repr

structure Power where
  supplied : Bool
  stop : Option StopCause
  /-- PWR_IN has had a sample since the last reset (13 R433) -/
  sampled : Bool
  vinMv : Nat
  iinMa : Nat
  railQuarterAmps : Nat
  state : PowerState
  entry : Option PowerEntry
  wake : Nat
  hold : HoldReason
  /-- throttle step count k, duty d, CLKDOWN (15 R489, R490) -/
  k : Nat
  duty : Nat
  clkdown : Nat
  /-- the average still rises after an exit from a power state or a lift of the throttle (15 R487) -/
  ramp : Bool
  /-- 10 us averages of input power in 1/16 W, newest first, at most ten (15 R490) -/
  pins : List Nat
  guardPin : Bool
  guardRail : Bool
  /-- governor ticks the average has been more than TDP/32 below the limit -/
  belowTicks : Nat
  throttleBegun : Nat
  largestK : Nat
  lastK : Nat
  lastTrigger : Nat
  /-- the set-points in force, as the guards let them through (12 R409) -/
  setPoints : List (Limited × Nat)
  /-- tick of the last moment at which a condition of 15 R494 did not hold -/
  lastActivity : Nat
  /-- Courier ports that were UP or KEEPALIVE when an entry began (15 R497, 10 R322) -/
  upPorts : List Nat
  /-- P0 Run time in ticks (14 R480) and the tick up to which it is counted -/
  p0Ticks : Nat
  p0Mark : Nat
  deriving DecidableEq, Repr

/-! ### Thermal (15 R502-R508) -/

structure Sensor where
  idx : Nat
  /-- corrected reading in 1/16 degC -/
  reading : Int
  raw : Int
  same : Nat
  failed : Bool
  /-- earlier readings with their ticks, newest first, over the trailing 1 ms -/
  history : List (Nat × Int)
  /-- at or above the trip threshold at its last sample -/
  hot : Bool
  deriving DecidableEq, Repr

structure Thermal where
  sensors : List Sensor
  /-- corrections in 1/16 degC at 25, 45, 65, 85 and 100 degC, by sensor; unlisted: none needed (15 R503) -/
  tables : List (Nat × List Int)
  tablesOk : Bool
  provisional : Bool
  tempTrig : Bool
  rateTrig : Bool
  currTrig : Bool
  trip : Bool
  tripSensor : Nat
  tripReading : Int
  deriving DecidableEq, Repr

/-! ### Flash, boot and firmware (12, 14 R477, 15 R509) -/

/-- A configuration record (12 Table 12.10), with the facts that its certificate and signature verify (12 R414), which answer where its
bytes are not held. -/
structure ConfigRecord where
  version : Nat
  recordSeq : Nat
  serial : Nat
  orderCode : List Nat
  stepping : Nat
  tdpW : Nat
  pinLimitW : Nat
  clkAMhz : Nat
  clkHMhz : Nat
  clkTileMhz : Nat
  slotDuty : Nat
  minSvn : Nat
  /-- tiles not enabled; every other tile is -/
  disabled : List TileId
  reservedZero : Bool
  certOk : Bool
  sigOk : Bool
  idkeyOk : Bool
  /-- the 9,216 bytes as READ_IDENTITY returns them; empty: not held byte for byte -/
  raw : Bytes
  deriving DecidableEq, Repr

/-- A firmware image (12 R416), with the facts that its certificate, signature and body digest verify (12 R417), which answer where its
bytes are not held. -/
structure Image where
  svn : Nat
  fwVersion : Nat
  cmdset : Nat
  headerOk : Bool
  certOk : Bool
  sigOk : Bool
  bodyOk : Bool
  headerDigest : Nat
  /-- header, certificate, SIG and body as the slot holds them; empty: not held byte for byte -/
  raw : Bytes
  deriving DecidableEq, Repr

/-- The boot control block (12 R423). -/
structure BootControl where
  active : Nat
  trial : Nat
  tries : Nat
  lastUpdate : Nat
  deriving DecidableEq, Repr

/-- An entry of the drain log (14 R477). -/
structure DrainEntry where
  time : Nat
  cause : Nat
  source : Nat
  code : Nat
  loc : Nat
  svn : Nat
  deriving DecidableEq, Repr

/-- An entry of the stop log (15 R509). -/
structure StopEntry where
  time : Nat
  cause : Nat
  sensor : Nat
  reading : Int
  vinMv : Nat
  deriving DecidableEq, Repr

/-- A dead-letter dump (12 R427); `sections` are its section kinds. Its bytes beyond the header are free values. -/
structure Dump where
  cause : Nat
  core : Nat
  svn : Nat
  fwVersion : Nat
  sections : List Nat
  time : Nat
  imageDigest : Nat
  unread : Bool
  damaged : Bool
  order : Nat
  deriving DecidableEq, Repr

/-- Items staged by UPDATE_BEGIN (12 R425): kind, length, bytes written as (offset, data). -/
structure Staging where
  kind : Nat
  length : Nat
  data : List (Nat × Bytes)
  deriving DecidableEq, Repr

/-- STATE of the dead-letter status (12 R428). -/
inductive RunState where
  | booting | running | halted | bootFailed
  deriving DecidableEq, Repr

structure Boot where
  records : List (Option ConfigRecord)
  images : List (Option Image)
  control : BootControl
  certSerial : Nat
  certOk : Bool
  /-- the device certificate byte for byte; empty: the one Persyn wrote, of which `certOk` says whether it stands -/
  cert : Bytes
  /-- the helper data recover the device secret (12 R412) -/
  helperOk : Bool
  flashReadError : Bool
  /-- a write to flash fails at both its attempts (12 Table 12.5 code 9) -/
  flashWriteError : Bool
  drainLog : List DrainEntry
  stopLog : List StopEntry
  stopsUnreported : Nat
  run : RunState
  bootFail : Nat
  slot : Nat
  trialBoot : Bool
  record : Option ConfigRecord
  image : Option Image
  compat : Bool
  addr0 : Bool
  addr1 : Bool
  resetPin : Bool
  wakePin : Bool
  sysclk : Bool
  watchdogs : List Nat
  /-- cores halted by a crash -/
  halted : Bool
  staging : Option Staging
  dumps : List (Option Dump)
  dumpCount : Nat
  overwritten : Nat
  dumpTime : Nat
  refused : Bool
  arraysReady : Bool
  drained : Option Nat
  /-- flagged at this boot, event 6 not yet sent after READY (14 R477) -/
  flagDue : Bool
  history : List (Nat × Nat)
  /-- HBM stack 0 trained (12 R428 RESULT 5, 13 R456) -/
  hbmReady : Bool
  deriving DecidableEq, Repr

/-! ### Event records and asynchronous events (13 R443-R447, 11 R393) -/

structure Record where
  code : Nat
  source : Nat
  seq : Nat
  time : Nat
  detail : List Nat
  deriving DecidableEq, Repr

/-- An asynchronous event entry (11 Table 11.15). -/
structure Async where
  code : Nat
  number : Nat
  time : Nat
  detail : Bytes
  deriving DecidableEq, Repr

structure Events where
  held : List Record
  next : Nat
  lost : Nat
  asyncNext : Nat
  ring : Option Nat
  ringTail : Nat
  winTail : Nat
  winHead : Nat
  winLost : Nat
  /-- events in the window, by index -/
  window : List (Nat × Async)
  /-- the affected arrays of the latest storm record (12 R406 READ_STORM) -/
  stormList : List ArrId
  stormPending : Bool
  deriving DecidableEq, Repr

/-! ### Register file (13) -/

structure Letterbox where
  sel : Word
  addr : Word
  /-- ADDR in force at the write of LB_SEL (13 R439) -/
  latched : Nat
  valid : Bool
  error : Bool
  stale : Bool
  seq : Nat
  data : List Word
  busy : Bool
  deriving DecidableEq, Repr

/-- Progress of a seal commit (13 R450): none, waiting for the next scan. -/
structure Seal where
  opened : Bool
  openedAt : Nat
  pending : Bool
  noRef : Bool
  /-- the committed reference, once a scan has taken one -/
  ref : Option Word
  last : Word
  scans : Nat
  faults : Nat
  deriving DecidableEq, Repr

structure Regs where
  /-- stored (RW and RWP) bits that differ from the reset value, by register address, addresses rising -/
  stored : List (Nat × Word)
  boxes : List Letterbox
  mirrorA : List Bool
  mirrorHbm : Bool
  mirrorCourier : Bool
  mirrorDispatch : Bool
  /-- CAL_STAT of each calibration group as its mirror holds it while the array dies stand (13 Table 13.13); empty: they have not stood -/
  calHeld : List Nat
  sealed : Seal
  staleDrain : List Nat
  staleContrib : Nat
  dropVersion : Nat
  dropType : Nat
  dropNoPort : Nat
  dropHops : Nat
  dropE2e : Nat
  dropActivation : Nat
  dropJob : Nat
  eccCorr : List Nat
  eccDet : List Nat
  /-- (stack or SRAM number, address, symbol) corrected in the latest pass over HBM and in the latest over the SRAM (14 R466) -/
  lastCorrected : List (Nat × Nat × Nat)
  /-- retention store: stored bits, held records and next number (13 R459) -/
  retained : Option (List (Nat × Word) × List Record × Nat)
  deriving DecidableEq, Repr

/-! ### Survey ADCs (15 R510-R516) -/

structure AdcResult where
  value : Nat
  settled : Bool
  count : Nat
  deriving DecidableEq, Repr

/-- W1 actions held during a trace, and what an ADC is converting. -/
inductive AdcAction where
  | start | stop | go
  deriving DecidableEq, Repr

structure Adc where
  settled : Bool
  /-- tick from which the reference settles (15 R511) -/
  since : Nat
  busy : Bool
  injBusy : Bool
  trace : Bool
  entry : Nat
  passes : Nat
  results : List AdcResult
  inj : AdcResult
  out : List Bool
  stopping : Bool
  /-- LEN and the sequence entries latched at the start of the pass (15 R512) -/
  passLen : Nat
  passSeq : List Word
  held : List AdcAction
  /-- fields as the ADC acts on them during a trace: SADC_CTL (15 R515) -/
  ctl : Word
  deriving DecidableEq, Repr

/-! ### Test access port and I3C target (16 R532-R535) -/

/-- What the boundary outputs do: the module's own function, the steady levels of the cells, a pulse or a train on the Courier lanes,
or high impedance. -/
inductive PinDrive where
  | functional | cells | pulse | train | highz
  deriving DecidableEq, Repr

/-- `cells`: the update stage of the boundary register, cell 0 first; `captured`: what it last captured, which TDO shifts out. -/
structure Tap where
  ir : Nat
  resetHeld : Bool
  cells : List Bool
  captured : List Bool
  bypassed : Bool
  drive : PinDrive
  deriving DecidableEq, Repr

structure I3c where
  dynamic : Option Nat
  /-- the address at which the target answered its latest private transfer (16 R532) -/
  answered : Nat
  pointer : Nat
  /-- bytes returned by private reads, newest last -/
  out : Bytes
  deriving DecidableEq, Repr

/-! ### Links (10 R312-R315, 11 R357) -/

/-- A flit in a transmit queue, or sent and not yet acknowledged, with the fields of its trailer (10 Table 10.3). `type` is the TYPE of its Courier
frame, 0 where there is none. `seq`, `ack`, `nak`, `creditVc` and `credit`, `sent` (the tick of its latest sending), `resends` and `marker` (a lane
marker follows it, 10 R317) count once it has been sent. -/
structure SentFlit where
  seq : Nat
  vc : Nat
  type : Nat
  fkind : Nat
  data : Bytes
  ack : Nat
  nak : Bool
  creditVc : Nat
  credit : Nat
  sent : Nat
  resends : Nat
  marker : Bool
  deriving DecidableEq, Repr

structure Link where
  nextSend : Nat
  expected : Nat
  lastGood : Option Nat
  nak : Bool
  /-- the transmit queue: flits that wait for credit or for room in the replay buffer -/
  waiting : List SentFlit
  replay : List SentFlit
  /-- credits left of the partner's grant, by virtual channel; unlisted: the whole grant -/
  credits : List (Nat × Nat)
  /-- credits of this module's own grant that the partner has spent and that no flit has returned yet, by virtual channel (10 R313, 11 R357) -/
  owed : List (Nat × Nat)
  /-- flits sent since the last lane marker (10 R317) -/
  sinceMarker : Nat
  /-- departure stamp of the last delay request that left, in sixteenths of a tick (10 R341) -/
  departed : Option Nat
  /-- frame bytes received so far, by virtual channel -/
  assembly : List (Nat × Bytes)
  /-- whole frames received and not yet taken, oldest first -/
  frames : List (Nat × Bytes)
  crcErr : Nat
  retry : Nat
  downs : Nat
  deriving DecidableEq, Repr

/-! ### Dispatch ports, Tuiven and the lease (11) -/

/-- STATE of DSP_STAT (13 Table 13.10). -/
inductive DspState where
  | down | training | up | retrain | failed
  deriving DecidableEq, Repr

/-- A Tuiven frame the module sent. -/
structure TxFrame where
  port : Nat
  version : Nat
  type : Nat
  chan : Nat
  context : Nat
  queue : Nat
  seq : Nat
  tag : Nat
  payload : Bytes
  deriving DecidableEq, Repr

/-- A word of an intake queue with its tag (11 R375): VALID, SOF, EOF, ABORT, and 256 bytes, zero beyond VALID. -/
structure IntakeWord where
  valid : Nat
  sof   : Bool
  eof   : Bool
  abort : Bool
  data  : Bytes
  deriving DecidableEq, Repr

/-- An intake queue (11 R374, R379): the words held, oldest first, the stamp of its last read (10 R549), and whether it signals its consumer. -/
structure Intake where
  words : List IntakeWord
  lastRead : Stamp
  signalled : Bool
  deriving DecidableEq, Repr

structure DspPort where
  state : DspState
  gen : Nat
  /-- no lock at Dispatch-2: it trains at Dispatch-1 (11 R356) -/
  fallback : Bool
  hdrErr : Nat
  link : Link
  selected : Bool
  intake0 : Intake
  intake1 : Intake
  deriving DecidableEq, Repr

/-- The driver lease and the settings of its SELECT (11 R365-R369, R395). -/
structure Lease where
  host : Nat
  stamp : Nat
  /-- the stamp counts on the step counter (true) or on the free-running clock (10 R549) -/
  onCounter : Bool
  version : Nat
  mode : Nat
  features : Nat
  suspended : Bool
  deriving DecidableEq, Repr

/-- The lease-ended event of the lease that ended, written and not yet delivered (11 Table 11.15 code 7): its fields, and its place in the
event ring or, with `inWindow`, the event window. -/
structure LeaseEnd where
  host : Nat
  number : Nat
  time : Nat
  released : Nat
  place : Nat
  inWindow : Bool
  deriving DecidableEq, Repr

structure Dispatch where
  ports : List DspPort
  tx : List TxFrame
  lease : Option Lease
  /-- settings of the last SELECT; they outlive the lease for its open steps -/
  last : Option Lease
  /-- expiry in progress (11 R397): steps 1-2 not finished -/
  expiring : Bool
  orphans : Bool
  dropped : Nat
  endEvent : Option LeaseEnd
  leaseTtl : Nat
  rejectThreshold : Nat
  l2Size : Option Nat
  deriving DecidableEq, Repr

/-! ### Serving engine (08, 11 R380-R390) -/

inductive WindowKind where
  | step | ring | result
  deriving DecidableEq, Repr

structure Window where
  id : Nat
  kind : WindowKind
  base : Nat
  size : Nat
  deriving DecidableEq, Repr

structure Context where
  id : Nat
  tenant : Nat
  model : Nat
  draftModel : Nat
  draftLength : Nat
  adapters : List Nat
  seqQuota : Nat
  temperature : Nat
  topK : Nat
  seed : Nat
  padToken : Nat
  /-- DISCARD_CONTEXT carried out, waiting for its last open step -/
  discarding : Bool
  deriving DecidableEq, Repr

/-- A length-table entry (08 Table 8.5). -/
structure LenEntry where
  slot : Nat
  kind : Nat
  output : Nat
  pfx : Bool
  hold : Bool
  tokens : Nat
  adapterCount : Nat
  adapterIndex : Nat
  position : Nat
  holdTtl : Nat
  reservedZero : Bool
  deriving DecidableEq, Repr

/-- A step command as read from its payload (08 Tables 8.4 and 8.5, 11 Table 11.8). -/
structure StepCmd where
  version : Nat
  fence : Bool
  reservedZero : Bool
  entryCount : Nat
  tokenCount : Nat
  stepNumber : Nat
  job : Nat
  firstLayer : Nat
  lastLayer : Nat
  entries : List LenEntry
  adapterListCount : Nat
  adapters : List Nat
  /-- token number, parent, reserved bits -/
  tokens : List (Nat × Nat × Nat)
  deriving DecidableEq, Repr

/-- A step accepted, or held for reordering, without a round. -/
structure Waiting where
  seq : Nat
  tag : Nat
  payload : Bytes
  tuiven1 : Bool
  /-- the features in force when it arrived (11 R369) -/
  features : Nat
  since : Nat
  port : Nat
  ackReq : Bool
  /-- address and length of its payload when a submission-ring entry carries it, not a STEP frame -/
  source : Option (Nat × Nat)
  /-- frame status of a submission-ring entry refused for its length or address; 0: a step (11 R386) -/
  refuse : Nat
  deriving DecidableEq, Repr

structure EntryResult where
  slot : Nat
  estatus : Nat
  cause : Nat
  ntokens : Nat
  matched : Nat
  rejects : Nat
  output : Nat
  commit : Nat
  tokens : List Nat
  top : List (Nat × Nat)
  deriving DecidableEq, Repr

structure Completion where
  status : Nat
  replayed : Bool
  orphan : Bool
  queue : Nat
  seq : Nat
  tag : Nat
  stepNumber : Nat
  detail : Nat
  doneTime : Nat
  results : List EntryResult
  port : Nat
  /-- device address of its result record; 0: not placed in a window -/
  addr : Nat
  deriving DecidableEq, Repr

structure Ring where
  addr : Nat
  k : Nat
  head : Nat
  tail : Nat
  deriving DecidableEq, Repr

structure Queue where
  id : Nat
  ctx : Nat
  prio : Nat
  weight : Nat
  sub : Ring
  comp : Ring
  expected : Nat
  reorder : List Waiting
  waiting : List Waiting
  admitted : Nat
  ownPort : Option Nat
  deleting : Bool
  /-- deleted with its context by the ORPHANS choice of 11 R398: it delivers no completion -/
  silent : Bool
  /-- accepted numbers whose completion is not delivered, in submission order -/
  order : List Nat
  /-- completions of ended steps not yet delivered -/
  ended : List Completion
  /-- completions written and not released by the host (11 R384, R389, R397) -/
  unacked : List Completion
  /-- the entries of its completion window, by position (11 R389) -/
  window : List (Nat × Bytes)
  /-- completions kept while no lease is live, not yet sent, with the bytes of entry and record as written; none: not written, for want of
  room (11 R397, R398) -/
  retained : List (Completion × Bytes)
  deriving DecidableEq, Repr

/-- States of a sequence slot (08 Table 8.3); `ending` records the state before the KIND 4 step. -/
inductive SlotState where
  | free | busy | opened | held | expired
  | ending (was : Nat)
  deriving DecidableEq, Repr

structure Slot where
  id : Nat
  state : SlotState
  ctx : Nat
  commit : Nat
  /-- the deepest shared prefix-tree node it references -/
  node : Option Nat
  /-- length of the chain that the entry in progress drafts (08 R266) -/
  draftLen : Nat
  /-- the all-rejected rule has lowered the draft length to 1 (09 R294) -/
  lowered : Bool
  /-- the draft model whose keys and values it holds -/
  draftOf : Nat
  rejects : Nat
  draftCommit : Nat
  /-- position of the token kept for the draft model, which has not run on it (09 R295) -/
  lag : Option Nat
  lastCommit : Nat
  prio : Nat
  /-- the committed tokens of the sequence, which the prefix tree compares (09 R284) -/
  tokens : List Nat
  deriving DecidableEq, Repr

/-- One token of an open step and how far it is (08 R251). `stage` 0: layer input tensors; 1: attention output; 2: gate
and up; 3: down; 4: logits; 5: past the last tensor of the layer. -/
structure TokenWork where
  entry : Nat
  /-- it runs the layers of the draft model (08 R266) -/
  draft : Bool
  /-- element of its entry's draft tree, or place in its entry -/
  elem : Nat
  token : Nat
  parent : Nat
  position : Nat
  storage : Nat
  padding : Bool
  matched : Bool
  /-- its token is known; those of a chain drafted here become known as the draft passes end (08 R266) -/
  known : Bool
  layer : Nat
  stage : Nat
  /-- tick since which it has waited for activation records (10 R352) -/
  since : Nat
  /-- the token's vector at the layer, F32 encodings -/
  vec : List Nat
  /-- vectors delivered at this stage: (tensor, column block, F32 encodings) -/
  delivered : List (Nat × Nat × List Nat)
  /-- query heads whose attention result is delivered, with it -/
  heads : List (Nat × List Nat)
  /-- logits, F32 encodings, once delivered -/
  logits : List Nat
  finished : Bool
  deriving DecidableEq, Repr

/-- An attention engine (08 R255-R257): prefill engine 0-7 of the module, or decode engine 0-7 of an array die. -/
inductive Engine where
  | prefill (n : Nat)
  | decode (die n : Nat)
  deriving DecidableEq, Repr

/-- What an attention engine or its vector unit did last (08 Table 8.7): the embedding gather of a token, the append of K or V of a KV head with
its rotary position, the attention of a query head, the normalisation, activation and residual addition of a layer, the greedy choice, sampling
and top 16 of a token's logits. -/
inductive EngineOp where
  | gather
  | append (isV : Bool) (kvHead : Nat)
  | attention (head : Nat)
  | vector
  | choose
  deriving DecidableEq, Repr

/-- The latest work of one engine: the step, its token and layer, and the other dies whose pigeonholes it read over the bridges (08 R257). -/
structure EngineWork where
  engine : Engine
  stepTag : Nat
  token : Nat
  layer : Nat
  op : EngineOp
  remote : List Nat
  deriving DecidableEq, Repr

/-- A target of an adapter in the staging buffer of a die's adapter engine (08 R263). -/
structure Staged where
  die : Nat
  adapter : Nat
  /-- (layer, tensor, rank, A rows, B rows): T8 lines as bytes -/
  target : Nat × Nat × Nat × Bytes × Bytes
  deriving DecidableEq, Repr

/-- State of one entry of an open step. -/
structure EntryWork where
  /-- its attention runs on the prefill engines, as the round chose (08 R255) -/
  prefill : Bool
  status : Option Nat
  cause : Nat
  matched : Nat
  matchPending : Bool
  stalledAt : Option Nat
  restoring : Bool
  /-- node the slot referenced before the match -/
  oldNode : Option Nat
  compacted : Bool
  /-- the commit pointer of its slot as the entry ended by itself (11 Table 11.12) -/
  endCommit : Nat
  deriving DecidableEq, Repr

/-- An open step (08 R248). -/
structure OpenStep where
  tag : Nat
  epoch : Nat
  queue : Nat
  ctx : Nat
  seq : Nat
  hostTag : Nat
  port : Nat
  /-- its entries are rounded to buckets (08 R259) -/
  buckets : Bool
  payload : Bytes
  /-- where its payload stands in a step-buffer window, when a ring entry carried it -/
  source : Option (Nat × Nat)
  cmd : StepCmd
  /-- attributes of its context at its round (12 Table 12.4, CHANGE_CONTEXT) -/
  attrs : Context
  model : Nat
  draftModel : Nat
  prio : Nat
  begun : Nat
  entries : List EntryWork
  tokens : List TokenWork
  /-- compute fires counted for R131 and fall-back fire-equivalents per cause 1-5, in 1/256 -/
  fires : Nat
  equivs : List Nat
  /-- per array: its compute fires and its fire-equivalents of causes 2 and 4, in 1/256 -/
  perArray : List (ArrId × Nat × Nat)
  /-- per die: fires numbered so far, offset drawn, whether some fire is selected (04 R135) -/
  spotDies : List (Nat × Nat × Nat × Bool)
  /-- dies on which a selection waits for the next fire (04 R135) -/
  spotPass : List Nat
  /-- adapter targets that its engines have gathered (08 R263) -/
  staged : List Staged
  /-- its job is aborted; it stays open until RELEASE_JOB (10 R353) -/
  aborted : Bool
  deriving DecidableEq, Repr

structure Adapter where
  id : Nat
  model : Nat
  /-- (layer, tensor, rank, A rows, B rows): T8 lines as bytes -/
  targets : List (Nat × Nat × Nat × Bytes × Bytes)
  /-- the HBM stack of each target (08 R264) -/
  places : List Nat
  removed : Bool
  deriving DecidableEq, Repr

/-- An input slot of an array die's staging (03 R91): codes, fire input scale (E4M3 encoding), eight shifts, 8-bit flag,
the B16 vector of a saturated wave (03 R92). -/
structure InputSlot where
  die : Nat
  id : Nat
  codes : List Int
  scale : Nat
  shifts : List Nat
  wide : Bool
  saturated : Bool
  b16 : List Nat
  stepTag : Nat
  /-- token, layer, tensor and first element of the input vector that it serves -/
  token : Nat
  layer : Nat
  tensor : Nat
  off : Nat
  deriving DecidableEq, Repr

structure Serving where
  windows : List Window
  mem : List Host.Cell
  contexts : List Context
  queues : List Queue
  slots : List Slot
  steps : List OpenStep
  nextTag : Nat
  inputs : List InputSlot
  nextInput : Nat
  /-- the last ten committed steps: compute fires, equivalents per cause, per-array counts (04 R132) -/
  storm : List (Nat × List Nat × List (ArrId × Nat × Nat))
  stormBit : Bool
  stormFraction : Nat
  stormSince : Nat
  recalibrated : List ArrId
  adapters : List Adapter
  /-- the latest work of each attention engine that has done any -/
  engines : List EngineWork
  deriving DecidableEq, Repr

/-! ### Pigeonholes, prefix trees and the poste restante tier (09) -/

/-- A frame of the pool (09 R271, Table 9.2). -/
structure FrameId where
  stack : Nat
  chunk : Nat
  index : Nat
  deriving DecidableEq, Repr

/-- Frame states and owners of 09 Table 9.4 (FREE frames are not listed). -/
inductive FrameOwner where
  | reserved (stepTag slot : Nat)
  | priv (slot : Nat)
  | shared (node : Nat)
  deriving DecidableEq, Repr

/-- Whether a group of a pigeonhole may be read (09 R275, R278, R293): committed; written by an open step and read by that step alone; or
rolled back, bytes that nothing reads. -/
inductive KvState where
  | committed
  | tentative (stepTag : Nat)
  | rolledBack
  deriving DecidableEq, Repr

/-- One group of a pigeonhole: K or V, token 0-63, KV head, E4M3 scale (0x01 and unused in B16), element encodings. -/
structure KvGroup where
  isV : Bool
  tok : Nat
  head : Nat
  scale : Nat
  elems : List Nat
  state : KvState
  deriving DecidableEq, Repr

structure Frame where
  id : FrameId
  size : Nat
  owner : FrameOwner
  data : List KvGroup
  deriving DecidableEq, Repr

/-- The form of a pigeonhole (09 Table 9.1): its groups in B16 or in T8, its KV heads and their dimension. -/
structure KvShape where
  b16 : Bool
  heads : Nat
  dim : Nat
  deriving DecidableEq, Repr

/-- A page table entry: entry `n` of the table of a slot for a layer of the main or the draft model (09 R273). -/
structure PageEntry where
  slot : Nat
  draft : Bool
  layer : Nat
  n : Nat
  frame : FrameId
  shared : Bool
  /-- the form of its pigeonhole, which outlives the model's residence -/
  shape : KvShape
  deriving DecidableEq, Repr

/-- A prefix-tree node (09 Table 9.3). -/
structure Node where
  version : Nat
  /-- NFLAGS bit 0 -/
  live : Bool
  idx : Nat
  layers : Nat
  refcount : Nat
  hash : Nat
  parent : Option Nat
  tenant : Nat
  model : Nat
  block : Nat
  lastUse : Nat
  /-- HBM address of its page table entries -/
  pagesAt : Nat
  pages : List (Nat × FrameId)
  tokens : List Nat
  deriving DecidableEq, Repr

/-- A held page (09 R296). `unchanged`: kept in the pigeonhole's own format (09 R297). -/
structure HeldPage where
  draft : Bool
  layer : Nat
  n : Nat
  b16 : Bool
  unchanged : Bool
  shape : KvShape
  /-- records of a T4 page: V?, token, head, then (block scale, sixteen-byte elements as encodings) per block -/
  groups : List (Bool × Nat × Nat × List (Nat × List Nat))
  raw : List KvGroup
  /-- offset within the level-2 space; none: its bytes are in the module. With it the bytes that L2DATA has brought back: (offset in the page,
  data); `torn`: those of frames that ended with ABORT (11 R378) -/
  off : Option Nat
  got : List (Nat × Bytes)
  torn : List (Nat × Bytes)
  deriving DecidableEq, Repr

/-- Progress of a held entry. -/
inductive HeldPhase where
  | moving | resting | fetching | restoring
  deriving DecidableEq, Repr

structure Held where
  slot : Nat
  ctx : Nat
  h : Nat
  ttl : Nat
  level : Nat
  phase : HeldPhase
  pages : List HeldPage
  /-- level-2 offsets kept for the pages still to be written (09 R301) -/
  places : List Nat
  deriving DecidableEq, Repr

structure Chunk where
  stack : Nat
  num : Nat
  size : Nat
  deriving DecidableEq, Repr

structure Kv where
  prefixMib : Nat
  level1Mib : Nat
  chunks : List Chunk
  frames : List Frame
  pages : List PageEntry
  nodes : List Node
  held : List Held
  deriving DecidableEq, Repr

/-! ### Weights (06) -/

structure TensorRec where
  tensor : Nat
  role : Nat
  inputWidth : Nat
  outfmt : Nat
  k : Nat
  n : Nat
  /-- B16 encodings; empty: none -/
  bias : List Nat
  deriving DecidableEq, Repr

structure LayerRec where
  norm : Nat
  activation : Nat
  kvB16 : Bool
  headDim : Nat
  qHeads : Nat
  kvHeads : Nat
  rotary : Nat
  gains : List Nat
  tensors : List TensorRec
  deriving DecidableEq, Repr

structure Model where
  num : Nat
  layers : List LayerRec
  vocab : Nat
  embed : Nat
  /-- UNLOAD_MODEL carried out; released when no open step names it -/
  unloading : Bool
  deriving DecidableEq, Repr

/-- A parcel header (06 Table 6.1). -/
structure ParcelHdr where
  version : Nat
  format : Nat
  model : Nat
  layer : Nat
  tensor : Nat
  destCoord : Nat
  destMask : Nat
  die : Nat
  arrayMask : Nat
  tileFirst : Nat
  tileCount : Nat
  rows : Nat
  cols : Nat
  rowFirst : Nat
  colFirst : Nat
  index : Nat
  outlierMax : Nat
  satCount : Nat
  length : Nat
  digest : Nat
  deriving DecidableEq, Repr

/-- A parcel being assembled (06 R546). `torn`: bytes that cut-through frames wrote which then ended with ABORT; they count for nothing (11
R378). -/
structure Assembly where
  model : Nat
  index : Nat
  pieces : List (Nat × Bytes)
  torn : List (Nat × Bytes)
  lastArrival : Nat
  viaDispatch : Bool
  deriving DecidableEq, Repr

structure Master where
  hdr : ParcelHdr
  header : Bytes
  payload : Bytes
  stack : Nat
  invalid : Bool
  deriving DecidableEq, Repr

/-- An array code record (03 Table 3.5). -/
structure CodeRecord where
  outB16 : Bool
  /-- (row, column, 16-bit value), sorted (03 R84) -/
  outliers : List (Nat × Nat × Nat)
  /-- (row, D), sorted (03 R85) -/
  remainders : List (Nat × Int)
  p : List Nat
  q : List Nat
  cflag : List Nat
  cscale : List Nat
  pmh : List Nat
  pml : List Nat
  codes : List (List Nat)
  deriving DecidableEq, Repr

/-- ASTATE of the array directory (06 Table 6.4). -/
inductive AState where
  | free | loading | settling | inService | outOfService | covered | rewriting | unbound
  deriving DecidableEq, Repr

structure DirEntry where
  version : Nat
  astate : AState
  /-- spare only: the working array whose codes it holds (SPARE_TAG) -/
  spareTag : Option Nat
  retired : Bool
  model : Nat
  parcel : Nat
  position : Nat
  wear : Nat
  progTime : Stamp
  codeDigest : Nat
  recordDigest : Nat
  deriving DecidableEq, Repr

/-- Drift of one array (04 R114, R115); D in 1/4,096 code. -/
structure Drift where
  delta : List Int
  d0 : Nat
  t0 : Stamp
  d1 : Nat
  t1 : Stamp
  scans : Nat
  deriving DecidableEq, Repr

/-- The five HBM franking entries of an array (04 R107). -/
structure Franking where
  valid : Bool
  calTime : Stamp
  entries : List Anchor
  /-- 07 R214: a direct run in progress, the most recent run failed -/
  directRun : Bool
  lastFailed : Bool
  deriving DecidableEq, Repr

structure Weights where
  models : List Model
  assembling : List Assembly
  masters : List Master
  records : List (ArrId × CodeRecord)
  directory : List (ArrId × DirEntry)
  drift : List (ArrId × Drift)
  franking : List (ArrId × Franking)
  /-- codes in the cells of each array: the record last programmed into it; none: not known -/
  cells : List (ArrId × Option CodeRecord)
  /-- a first-ever calibration has programmed the calibration record into every array not listed (07 R232) -/
  calCells : Bool
  /-- wear counter of every array not in the directory -/
  wearBase : Nat
  /-- uses of the copy of a saturated block by the re-quantiser and the embedding gather, counted as fall-backs (03 R79; log entry 66) -/
  copyUses : Nat
  /-- PROG_TIME of every array not in the directory: that of the first-ever calibration (07 R232) -/
  progBase : Stamp
  deriving DecidableEq, Repr

/-! ### Tiles (02, 04, 05) -/

/-- A reduction line's place: owner die and offset in its staging SRAM (13 R446). -/
structure LineId where
  die : Nat
  off : Nat
  deriving DecidableEq, Repr

/-- A reduction (05 Banks): STEP_TAG, epoch, target line. -/
structure Reduction where
  stepTag : Nat
  epoch : Nat
  line : LineId
  deriving DecidableEq, Repr

/-- A fire descriptor (02 Table 2.5) with the reduction its STEP_TAG links it to. -/
structure Fire where
  arr : Nat
  spare : Bool
  range : Nat
  mode : Nat
  shifts : List Nat
  close : Bool
  kind : Nat
  inputSlot : Nat
  red : Reduction
  token : Nat
  /-- tile slot number at which it was queued (08 R253) -/
  queued : Nat
  /-- selected for spot recomputation (04 R135) -/
  selected : Bool
  /-- BANK, once the sequencer has set it (05 R145) -/
  bank : Option Nat
  /-- bits [31:30] of the descriptor -/
  reserved : Nat
  /-- its number among the compute fires of its step on the die, once issued (04 R135) -/
  num : Nat
  /-- the correction unit supplies the whole contribution of its input vector, since the other nibble was replaced (04 R123) -/
  covered : Bool
  deriving DecidableEq, Repr

/-- Coefficients of one array as the scaler holds them (04 R111). Empty lists stand for neutral values. -/
structure CoefSet where
  coef : Anchor
  delta : List Int
  deriving DecidableEq, Repr

/-- A fire latched and not yet past t19. -/
structure Flight where
  fire : Fire
  /-- the input slot as it stood when its codes were copied to the driver latches at t1 (02 R48) -/
  input : InputSlot
  /-- the zero-skip mask latched at t1, by group (02 R40) -/
  skip : List Bool
  /-- the array whose cells fire (02 R56) -/
  cells : Nat
  bank : Nat
  null : Bool
  coefs : CoefSet
  raw : List Int
  /-- corrected values in 1/64 code, once formed at t16 (04 R112) -/
  y : List Int
  converted : Bool
  /-- it over-ranged at range code 0 and went to cause-2 fall-back -/
  overrun : Bool
  passed : Bool
  deriving DecidableEq, Repr

inductive BankState where
  | empty | filling | closing | draining
  deriving DecidableEq, Repr

/-- Outlier contributions due to a bank (04 R117, R118): the array and its input vector, which the correction unit has received (04
R105). -/
structure OutlierDue where
  arr : Nat
  input : InputSlot
  deriving DecidableEq, Repr

structure Bank where
  state : BankState
  red : Option Reduction
  count : Nat
  /-- 256 registers, integer multiples of 2^-32; empty: all zero -/
  regs : List Int
  outliers : List OutlierDue
  fallbacks : Nat
  /-- adapters whose contribution is due (05 R148) -/
  adapters : List Nat
  /-- the fire carrying CLOSE has been counted -/
  closed : Bool
  deriving DecidableEq, Repr

/-- Spare states (06 Table 6.7). -/
inductive SpareState where
  | idle | loading (k : Nat) | ready (k : Nat) | standing (k : Nat)
  deriving DecidableEq, Repr

/-- What a claim of the spare is for. -/
inductive ClaimKind where
  | rewrite | calibration
  deriving DecidableEq, Repr

/-- Phases of a program (06 Table 6.3). -/
inductive ProgPhase where
  /-- `waiting`: the erase of a repeat has not begun, since the region is outside its window (06 R181) -/
  | erase | rows | settling | waiting
  deriving DecidableEq, Repr

/-- A program of one array (06 R179). `calRecord`: the codes are the calibration record's. `codes`: the record it writes, taken when
its erase begins. -/
structure Program where
  arr : Nat
  source : Nat
  phase : ProgPhase
  /-- tick at which its latest erase began (06 R182) -/
  began : Nat
  row : Nat
  cycles : Nat
  pausedAt : Option Nat
  deferred : Bool
  /-- its place was given to a rewrite (06 R182) -/
  displaced : Bool
  calRecord : Bool
  codes : Option CodeRecord
  deriving DecidableEq, Repr

/-- A calibration request (07 R227). `first`: its covered run was discarded for a rewrite under the same cover, after which it is the
first in the queue (07 Table 7.7). `programmed`: the calibration record has been programmed for it (07 R225). -/
structure CalRequest where
  arr : Nat
  cls : Nat
  since : Stamp
  first : Bool
  programmed : Bool
  deriving DecidableEq, Repr

/-- A calibration run in progress (07 R215). -/
structure CalRun where
  arr : Nat
  covered : Bool
  cls : Nat
  since : Stamp
  fires : Nat
  temp : Int
  started : Stamp
  repeated : Bool
  deriving DecidableEq, Repr

/-- In-field test of a tile (14 R479-R482). -/
structure FieldTest where
  due : Bool
  dueAt : Nat
  /-- a step boundary has come since it fell due (14 R480) -/
  boundary : Bool
  /-- due time and rotation before the test in progress began: one that is abandoned counts as not run (14 R482) -/
  before : Nat × Nat
  running : Bool
  arr : Option Nat
  repeated : Bool
  passedOnce : Bool
  rotation : Nat
  deriving DecidableEq, Repr

structure Tile where
  id : TileId
  standIn : Option Nat
  standInNext : Option (Option Nat)
  spare : SpareState
  claim : Option (ClaimKind × Nat)
  prog : Option Program
  /-- programs waiting for the driver, and those it has put aside at the end of a row, the latest first (06 R200, R203) -/
  progQueue : List Program
  preempted : List Program
  /-- programs finished and settling: array, source array, calRecord -/
  settling : List (Nat × Nat × Bool)
  bank0 : Bank
  bank1 : Bank
  fires : List Fire
  repeatDue : Option Fire
  /-- the row-DAC bank's input registers (02 R47) -/
  inputRegs : List Int
  /-- compute slots that the present sixteen boundaries have taken (15 R490) -/
  dutyUsed : Nat
  /-- a slot due to KIND 3 went to a repeat (06 R190) -/
  scanOwed : Bool
  /-- reductions whose last bank drained partially, with that bank (05 R146) -/
  partials : List (Reduction × Nat)
  array : Option Flight
  scaler : Option Flight
  current : List (Nat × CoefSet)
  next : List (Nat × CoefSet)
  /-- completed runs whose new set is not current yet: array, CAL_TIME (07 R233) -/
  calDone : List (Nat × Stamp)
  slotNo : Nat
  cntFire : Nat
  cntNull : Nat
  cntRepeat : Nat
  cntMismatch : Nat
  cntFallback : Nat
  mirror : List Nat
  calQueue : List CalRequest
  run : Option CalRun
  /-- verify scans due or in progress: array, fires left -/
  scans : List (Nat × Nat)
  scanBegun : List (Nat × Stamp)
  /-- the coefficient sets of the fires of its scans: array, first fire, set (06 R189, 07 Table 7.7) -/
  scanSets : List (Nat × Nat × CoefSet)
  test : FieldTest
  /-- spot excursions of each array: stamps in the hour, record raised -/
  excursions : List (Nat × List Nat × Bool)
  /-- rewrites requested and not begun, oldest first -/
  rewrites : List Nat
  deriving DecidableEq, Repr

/-- One input vector of a fall-back job (04 R123, R124): the vector, the MODE of the fire replaced (0: the whole vector), and the
reduction and bank that the replaced fire names. -/
structure FbPart where
  input : InputSlot
  mode : Nat
  red : Reduction
  bank : Nat
  deriving DecidableEq, Repr

/-- A fall-back job (04 R123): the input vectors of one step on one array under one cause. -/
structure FbJob where
  tile : Nat
  arr : Nat
  cause : Nat
  stepTag : Nat
  parts : List FbPart
  deriving DecidableEq, Repr

/-- A spot comparison (04 R136): the copy of the 34 converters and where it came from. -/
structure SpotJob where
  die : Nat
  tile : Nat
  cells : Nat
  named : Nat
  stepTag : Nat
  epoch : Nat
  slice : Nat
  y : List Int
  range : Nat
  mode : Nat
  input : InputSlot
  /-- the fire's number on the die (04 R135) -/
  num : Nat
  deriving DecidableEq, Repr

/-- An array's lists in a list cache (04 R106): its outlier and remainder lists, which its record holds, and the masters of its
saturated columns, each with its 256 values as a T8 pair or, where marked, in B16 (03 R87, 04 R124). -/
structure CachedLists where
  arr : ArrId
  saturated : List (Nat × List (Bool × Nat))
  deriving DecidableEq, Repr

/-- One correction unit (04 R103, R104). -/
structure Region where
  die : Nat
  unit : Nat
  setTemp : Option Int
  jobs : List FbJob
  spots : List SpotJob
  /-- lists resident, most recently fired first; lists being fetched -/
  cache : List CachedLists
  fetching : List ArrId
  deriving DecidableEq, Repr

structure Tiles where
  tiles : List Tile
  regions : List Region
  /-- of each open step and die on which none is selected: the comparison of its last fire (04 R135) -/
  spotLast : List SpotJob
  /-- time of the last step boundary at which the tiles' counters were taken (13 R439) -/
  mirrorTime : Nat
  deriving DecidableEq, Repr

/-! ### Lines, drains and ledgers (05) -/

/-- Where a line delivers (05 Table 5.3 DEST): the consumer of a token's tensor at a layer, or a ledger line. -/
structure LineDest where
  token : Nat
  layer : Nat
  tensor : Nat
  colBlock : Nat
  deriving DecidableEq, Repr

structure Line where
  /-- VERSION of its header (05 Table 5.3) -/
  version : Nat
  id : LineId
  stepTag : Nat
  epoch : Nat
  pending : Nat
  initial : Nat
  complete : Bool
  fault : Bool
  outfmt : Nat
  width : Nat
  owner : Nat
  dest : LineDest
  /-- for K and V lines: the engines whose append windows DEST names (09 R276) -/
  window : List Engine
  home : TileId
  /-- its home reduction takes the bias and the adapters (05 R148) -/
  biased : Bool
  /-- the sequencers have been given every fire of it (05 R152) -/
  issued : Bool
  /-- tick from which no fire of it is to be issued and no bank holds a reduction to it (05 R152) -/
  quiet : Option Nat
  /-- 256 elements, integer multiples of 2^-32; empty: all zero -/
  elems : List Int
  deriving DecidableEq, Repr

/-- A drain on its way (05 R147). -/
structure Drain where
  src : TileId
  line : LineId
  stepTag : Nat
  epoch : Nat
  final : Bool
  regs : List Int
  /-- the route of 05 Table 5.4: the dies it passes, from the tile's to the owner's; 4 is H -/
  path : List Nat
  deriving DecidableEq, Repr

/-- The ledger of one job step (05 R156). -/
structure Ledger where
  job : Nat
  step : Nat
  epoch : Nat
  /-- tick at which it came to its epoch (10 R352) -/
  since : Nat
  lines : List Line
  deriving DecidableEq, Repr

structure Reductions where
  lines : List Line
  drains : List Drain
  ledgers : List Ledger
  /-- next free line offset of each die -/
  nextOff : Nat
  deriving DecidableEq, Repr

/-! ### Calibration and reference (07) -/

/-- A tile record of the franking store (07 Table 7.3). -/
structure TileRecord where
  version : Nat
  tid : TileId
  field : Bool
  avalid : List Bool
  shape : List Anchor
  anchors : List Anchor
  atimes : List Stamp
  digest : Nat
  deriving DecidableEq, Repr

structure Calib where
  /-- trims of A0-A3 as offsets from the factory value in 0.005 %: ladder, VCREF; and the next values -/
  trims : List (Int × Int)
  nextTrims : List (Option (Int × Int))
  /-- trims in force at the last run of each array -/
  runTrims : List (ArrId × Int × Int)
  /-- the same for an array not listed, by die: those of the first-ever calibration -/
  runTrimsBase : List (Int × Int)
  busy : Bool
  last : Nat
  microvolts : Nat
  sat : Bool
  /-- REF_TIME: stamp of the last passing trace; whether one has passed since start-up -/
  refTime : Option Stamp
  traceBegan : Option Stamp
  pendingTrace : Bool
  untraced : Bool
  /-- calibration groups: number, runs completed, CAL_TIME of the latest (07 R233) -/
  groups : List (Nat × Nat × Stamp)
  /-- the franking store has been read since the start (07 R213) -/
  restored : Bool
  store : List TileRecord
  /-- FIELD of every tile record not listed -/
  storeField : Bool
  /-- CAL_TIME of every anchor of a tile record not listed -/
  storeTime : Stamp
  deriving DecidableEq, Repr

/-! ### Courier fabric (10) -/

/-- STATE of PORT_STAT (13 Table 13.10). -/
inductive PortState where
  | off | detect | select | check | up | retrain | keepalive | miswired | failed
  deriving DecidableEq, Repr

/-- A Courier frame sent on a port. -/
structure CourierTx where
  port : Nat
  hdr : CourierHdr
  payload : Bytes
  deriving DecidableEq, Repr

/-- A frame whose flits are not all acknowledged, with the number that are left (10 R336). -/
structure OutFrame where
  frame : CourierTx
  left : Nat
  deriving DecidableEq, Repr

structure CourierPort where
  state : PortState
  gen : Nat
  lanes : Nat
  partner : Nat
  pport : Nat
  features : Nat
  partnerAdv : Option Advert
  advertsSame : Nat
  advertsSent : Nat
  /-- receive lanes locked: (lane, transmit lane number, inverted) -/
  locked : List (Nat × Nat × Bool)
  /-- generations still to try in SELECT -/
  trainGen : Nat
  coeffs : Bool
  link : Link
  /-- frames in its transmit queue and replay buffer, oldest first -/
  out : List OutFrame
  deriving DecidableEq, Repr

/-- A job's shape and stage table (10 R351, R328). -/
structure Job where
  num : Nat
  base : Nat
  mask : Nat
  patch : Option Nat
  patchVia : Nat
  stages : List (Nat × Nat × Nat)
  deriving DecidableEq, Repr

/-- An activation record held for a step that is not open, or received for one that is (10 R329). -/
structure Activation where
  job : Nat
  step : Nat
  epoch : Nat
  token : Nat
  offset : Nat
  f32 : Bool
  elems : List Nat
  since : Nat
  deriving DecidableEq, Repr

structure Fabric where
  coord : Nat
  coordValid : Bool
  dim : Nat
  twist : Nat
  fabricId : Nat
  timeRoot : Nat
  ports : List CourierPort
  /-- route table by destination: (PRIMARY, DETOUR); unlisted: 15, 15 -/
  routes : List (Nat × Nat × Nat)
  jobs : List Job
  aborted : List Nat
  /-- (JOB, STEP_NUMBER) of committed job steps (14 R471) -/
  committed : List (Nat × Nat)
  activations : List Activation
  held : List Activation
  /-- flits that wait for a retry on a bridge: bridge, whether it leaves H, the flit's number there, and its tries so far (01 R10) -/
  bridgeRetries : List ((Nat × Bool × Nat) × Nat)
  /-- destinations whose ORDERED frames take the detour until the route table changes (10 R336) -/
  detours : List Nat
  tx : List CourierTx
  /-- adverts sent: (port, advert) of the latest -/
  adverts : List (Nat × Advert)
  /-- what each lane of a port sent with its latest advert, marker first: (port, lane), bytes (10 R317) -/
  advertLanes : List ((Nat × Nat) × Bytes)
  /-- ports whose lane 0 this module drove with idle signalling for 20 us, to wake their partners, newest last (10 R322) -/
  driven : List Nat
  links : List (Nat × Nat × Nat)
  deriving DecidableEq, Repr

/-! ### The whole module -/

/-- The module. `pending` is the queue of commands, first in first out; `draw` is the model's own counter of free values. -/
structure State where
  tm : Clocks
  pw : Power
  th : Thermal
  bt : Boot
  ev : Events
  rg : Regs
  adcs : List Adc
  tp : Tap
  i3 : I3c
  dp : Dispatch
  sv : Serving
  kv : Kv
  wt : Weights
  tl : Tiles
  rd : Reductions
  cl : Calib
  fb : Fabric
  draw : Nat
  pending : List Instr
  deriving DecidableEq, Repr

/-- The reasons for which the machine stops. -/
inductive Fault where
  /-- Raised by the idle step when the 64-bit step counter stands at its last value: 'no rule of this manual handles a
  wrap' (10 R339). Safe. -/
  | counterWrap
  deriving DecidableEq, Repr

/-- The reasons for which a command has no meaning. -/
inductive Refusal where
  /-- Raised by an arm of exec whose command is not modelled yet. Safe. -/
  | notModelled (mnemonic : String)
  deriving DecidableEq, Repr

/-! ### Reset (12 R418, 13 R433, 16 R537) -/

def Clocks.reset : Clocks :=
  { tick := 0, boundFrom := 0, counter := 0, valid := false, aligned := false, depth := 0, lastExchange := none, exchange := none,
    xseq := 0, prevDelay := none, correction := 0, sinceCorrection := 0, rates := [], rate := 0, rateAcc := 0 }

def Power.reset : Power :=
  { supplied := true, stop := none, sampled := false, vinMv := 0, iinMa := 0, railQuarterAmps := 0, state := .p0, entry := none, wake := 0,
    hold := .none, k := 0, duty := 0, clkdown := 0, ramp := false, pins := [], guardPin := false, guardRail := false, belowTicks := 0,
    throttleBegun := 0, largestK := 0, lastK := 0, lastTrigger := 0, setPoints := [], lastActivity := 0, upPorts := [], p0Ticks := 0,
    p0Mark := 0 }

def Thermal.reset : Thermal :=
  { sensors := [], tables := [], tablesOk := true, provisional := true, tempTrig := false, rateTrig := false,
    currTrig := false, trip := false, tripSensor := 0, tripReading := 0 }

/-- The configuration record that the model's flash holds at reset (log entry 5). -/
def ConfigRecord.reset : ConfigRecord :=
  { version := 1, recordSeq := 1, serial := 1,
    orderCode := [0x50, 0x53, 0x4E, 0x2D, 0x4C, 0x4D, 0x33, 0x2D, 0x31, 0x31, 0x30, 0x30],
    stepping := 0xB1, tdpW := 1100, pinLimitW := 1250, clkAMhz := 1800, clkHMhz := 1800, clkTileMhz := 125,
    slotDuty := 16, minSvn := 1, disabled := [], reservedZero := true, certOk := true, sigOk := true, idkeyOk := true,
    raw := [] }

/-- The firmware image that the model's flash holds at reset (log entry 5). -/
def Image.reset : Image :=
  { svn := 1, fwVersion := 0x01000000, cmdset := 1, headerOk := true, certOk := true, sigOk := true, bodyOk := true,
    headerDigest := 0, raw := [] }

def Boot.reset : Boot :=
  { records := [some ConfigRecord.reset, none], images := [some Image.reset, none],
    control := { active := 0, trial := 0, tries := 0, lastUpdate := 0 }, certSerial := 1, certOk := true, cert := [], helperOk := true,
    flashReadError := false, flashWriteError := false, drainLog := [], stopLog := [], stopsUnreported := 0, run := .booting, bootFail := 0,
    slot := 0, trialBoot := false, record := none, image := none, compat := false, addr0 := false, addr1 := false,
    resetPin := true, wakePin := true, sysclk := true, watchdogs := [0, 0, 0, 0], halted := false, staging := none,
    dumps := [none, none], dumpCount := 0, overwritten := 0, dumpTime := 0, refused := false, arraysReady := false,
    drained := none, flagDue := false, history := [], hbmReady := false }

def Events.reset : Events :=
  { held := [], next := 1, lost := 0, asyncNext := 0, ring := none, ringTail := 0, winTail := 0, winHead := 0,
    winLost := 0, window := [], stormList := [], stormPending := false }

def Letterbox.reset : Letterbox :=
  { sel := 0, addr := 0, latched := 0, valid := false, error := false, stale := false, seq := 0, data := [], busy := false }

def Seal.reset : Seal :=
  { opened := false, openedAt := 0, pending := false, noRef := true, ref := none, last := 0, scans := 0,
    faults := 0 }

def Regs.reset : Regs :=
  { stored := [], boxes := List.replicate 16 Letterbox.reset, mirrorA := [true, true, true, true], mirrorHbm := true,
    mirrorCourier := true, mirrorDispatch := true, calHeld := [], sealed := Seal.reset, staleDrain := [0, 0, 0, 0], staleContrib := 0,
    dropVersion := 0, dropType := 0, dropNoPort := 0, dropHops := 0, dropE2e := 0, dropActivation := 0, dropJob := 0,
    eccCorr := List.replicate 16 0, eccDet := List.replicate 16 0, lastCorrected := [], retained := none }

def AdcResult.reset : AdcResult := { value := 0, settled := false, count := 0 }

def Adc.reset : Adc :=
  { settled := false, since := 0, busy := false, injBusy := false, trace := false, entry := 0, passes := 0,
    results := List.replicate 16 AdcResult.reset, inj := AdcResult.reset, out := [false, false, false, false],
    stopping := false, passLen := 0, passSeq := [], held := [], ctl := 0 }

def Tap.reset : Tap :=
  { ir := 0xFF, resetHeld := true, cells := List.replicate 204 false, captured := List.replicate 204 false, bypassed := true,
    drive := .functional }

def I3c.reset : I3c := { dynamic := none, answered := 0, pointer := 0, out := [] }

def Link.reset : Link :=
  { nextSend := 0, expected := 0, lastGood := none, nak := false, waiting := [], replay := [], credits := [], owed := [],
    sinceMarker := 0, departed := none, assembly := [],
    frames := [], crcErr := 0, retry := 0, downs := 0 }

def Intake.reset : Intake := { words := [], lastRead := none, signalled := false }

def DspPort.reset : DspPort :=
  { state := .down, gen := 0, fallback := false, hdrErr := 0, link := Link.reset, selected := false, intake0 := Intake.reset,
    intake1 := Intake.reset }

def Dispatch.reset : Dispatch :=
  { ports := [DspPort.reset, DspPort.reset], tx := [], lease := none, last := none, expiring := false, orphans := false,
    dropped := 0, endEvent := none, leaseTtl := 600, rejectThreshold := 8, l2Size := none }

def Serving.reset : Serving :=
  { windows := [], mem := [], contexts := [], queues := [], slots := [], steps := [], nextTag := 0, inputs := [],
    nextInput := 0, storm := [], stormBit := false, stormFraction := 0, stormSince := 0, recalibrated := [],
    adapters := [], engines := [] }

def Kv.reset : Kv :=
  { prefixMib := 20, level1Mib := 2048, chunks := [], frames := [], pages := [], nodes := [], held := [] }

def Weights.reset : Weights :=
  { models := [], assembling := [], masters := [], records := [], directory := [], drift := [], franking := [],
    cells := [], calCells := false, wearBase := 0, copyUses := 0, progBase := some 0 }

def Tiles.reset : Tiles := { tiles := [], regions := [], spotLast := [], mirrorTime := 0 }

def Reductions.reset : Reductions := { lines := [], drains := [], ledgers := [], nextOff := 0 }

def Calib.reset : Calib :=
  { trims := [(0, 0), (0, 0), (0, 0), (0, 0)], nextTrims := [none, none, none, none], runTrims := [],
    runTrimsBase := [(0, 0), (0, 0), (0, 0), (0, 0)], busy := false,
    last := 0, microvolts := 0, sat := false, refTime := none, traceBegan := none, pendingTrace := false, untraced := true,
    groups := [], restored := false, store := [], storeField := true,
    storeTime := some 0 }

def CourierPort.reset : CourierPort :=
  { state := .off, gen := 0, lanes := 0, partner := 0, pport := 0, features := 0, partnerAdv := none, advertsSame := 0,
    advertsSent := 0, locked := [], trainGen := 0, coeffs := false, link := Link.reset, out := [] }

def Fabric.reset : Fabric :=
  { coord := 0, coordValid := false, dim := 0, twist := 0, fabricId := 0, timeRoot := 0,
    ports := List.replicate 12 CourierPort.reset, routes := [], jobs := [], aborted := [], committed := [], activations := [], held := [],
    bridgeRetries := [], detours := [], tx := [], adverts := [], advertLanes := [], driven := [], links := [] }

/-- The module right after a reset has begun with 48 V applied: every register at the Reset column of its table (13 R433),
the step counter INVALID (01 R19), nothing in HBM, flash as log entry 5 says, no command waiting. -/
def State.reset : State :=
  { tm := Clocks.reset, pw := Power.reset, th := Thermal.reset, bt := Boot.reset, ev := Events.reset, rg := Regs.reset,
    adcs := List.replicate 5 Adc.reset, tp := Tap.reset, i3 := I3c.reset, dp := Dispatch.reset, sv := Serving.reset,
    kv := Kv.reset, wt := Weights.reset, tl := Tiles.reset, rd := Reductions.reset, cl := Calib.reset,
    fb := Fabric.reset, draw := 0, pending := [] }

end Sys2Proof.Machine
end

