-- ==== Sys2Proof/Machine/Flash.lean ====
section
/-! DEFINITION. What the serial flash holds and how it is checked: the layout (12 R410), the identity key and certificates (12 R411-R413),
configuration records (12 R414, R415) and firmware images (12 R416, R417). -/

set_option Elab.async false

namespace Sys2Proof.Machine

/-! ### Layout (12 Table 12.8) -/

/-- The areas of the flash die. -/
inductive FlashArea where
  | firmware (slot : Nat)
  | bootControl
  | record (slot : Nat)
  | certificate
  | helperData
  | drainLog
  | stopLog
  | directory
  | frankingStore
  deriving DecidableEq, Repr

/-- Offset and size of an area, in bytes; the logs stand in a reserved area of the table (14 R477, 15 R509). -/
def FlashArea.span : FlashArea → Nat × Nat
  | .firmware k => (0x04000000 * k, 0x04000000)
  | .bootControl => (0x08000000, 65536)
  | .record k => (0x08010000 + 0x4000 * k, 9216)
  | .certificate => (0x08018000, 384)
  | .helperData => (0x0801C000, 16384)
  | .drainLog => (0x08020000, 64 * 1024)
  | .stopLog => (0x08030000, 64 * 256)
  | .directory => (0x08100000, 204 * 2 ^ 20)
  | .frankingStore => (0x28000000, 1408 * 2 ^ 20)

/-! ### Identity and certificates (12 R411-R413) -/

/-- A private key from 585 bits, by the extra-random-bits method of FIPS 186-5. -/
def privateKeyOf (v : Nat) : Nat := v % (curveN - 1) + 1

/-- The identity key d: the first 585 bits of the expansion of the device secret (12 R412). -/
def identityKey : Nat :=
  let w := natBe 64 Config.deviceSecret
  privateKeyOf (beNat (sha512Bytes (w ++ [0]) ++ sha512Bytes (w ++ [1])) / 2 ^ 439)

/-- The Persyn root public key that the boot ROM holds. -/
def rootKey : Bytes := publicKey (privateKeyOf Config.rootSecret)

/-- A certificate that the root key has signed (12 Table 12.9). -/
def certificate (purpose keyId : Nat) (pub : Bytes) : Bytes :=
  let a := natLe 1 1 ++ natLe 1 purpose ++ natLe 6 0 ++ natLe 8 keyId ++ pub ++ natLe 44 0
  a ++ ecdsaSign (privateKeyOf Config.rootSecret) a ++ natLe 60 0

/-- A certificate is valid with a PURPOSE (12 R411). -/
def certValid (c : Bytes) (purpose : Nat) : Bool :=
  fld c 0 1 == 1 && fld c 1 1 == purpose && allZero (slice c 2 6) && allZero (slice c 0x94 44) && allZero (slice c 0x144 60) &&
    ecdsaVerify rootKey (slice c 0 0xC0) (slice c 0xC0 132)

/-- Whether a signature verifies under a certificate's key. -/
def certSigned (c message sig : Bytes) : Bool := ecdsaVerify (slice c 0x10 132) message sig

/-- The device certificate as flash holds it: bytes, or with none held the one Persyn wrote for the module's key. -/
def Boot.certificate (b : Boot) : Bytes :=
  if b.cert.isEmpty then Sys2Proof.Machine.certificate 3 b.certSerial (publicKey identityKey) else b.cert

/-- KEY_ID of the device certificate: of its bytes where they are held (12 Table 12.9). -/
def Boot.keyId (b : Boot) : Nat := if b.cert.isEmpty then b.certSerial else fld b.cert 8 8

/-- What the boot asks of the identity: the helper data recover the device secret, the derived public key is the device certificate's, and the
certificate is valid with PURPOSE 3 (12 R412, R413). Where the flash holds the certificate by its facts only, `certOk` is the answer. -/
def Boot.identityOk (b : Boot) : Bool :=
  b.helperOk && (if b.cert.isEmpty then b.certOk else certValid b.cert 3 && slice b.cert 0x10 132 == publicKey identityKey)

/-! ### Configuration records (12 R414, R415) -/

/-- `n` bytes of a string, zero beyond its end. -/
def padTo (n : Nat) (b : Bytes) : Bytes := (b ++ natLe n 0).take n

/-- STEPPING in ASCII, from its two digits. -/
def steppingBytes (v : Nat) : Bytes := [BitVec.ofNat 8 (v / 16 % 16 + 0x37), BitVec.ofNat 8 (v % 16 + 0x30)]

/-- TILE_ENABLE. -/
def enableBytes (off : List TileId) : Bytes :=
  (List.range 8192).map fun i => BitVec.ofNat 8 (255 -
    sumList ((off.eraseDups.filter fun t => (16384 * t.die + t.tile) / 8 == i).map fun t => 2 ^ (t.tile % 8)))

/-- The part of a record that its SIG covers, from its fields; a digest that does not match is written as zeros. -/
def ConfigRecord.signed (r : ConfigRecord) : Bytes :=
  natLe 1 r.version ++ natLe 3 0 ++ natLe 4 r.recordSeq ++ natLe 8 r.serial ++ padTo 16 (r.orderCode.map (BitVec.ofNat 8)) ++
    steppingBytes r.stepping ++ natLe 2 0 ++ natLe 2 r.tdpW ++ natLe 2 r.pinLimitW ++ natLe 2 r.clkAMhz ++ natLe 2 r.clkHMhz ++
    natLe 2 r.clkTileMhz ++ natLe 1 r.slotDuty ++ natLe 1 0 ++ natLe 4 r.minSvn ++ natLe 12 0 ++
    (if r.idkeyOk then sha512Bytes (publicKey identityKey) else natLe 64 0) ++ natLe 8 Config.signerId ++ natLe 120 0 ++
    enableBytes r.disabled ++ natLe 128 0

/-- The 9,216 bytes of a record: as held, else from its fields, signed by the record signer, whose certificate it carries; a signature or a
certificate that does not verify is written as zeros. -/
def ConfigRecord.bytes (r : ConfigRecord) : Bytes :=
  if !r.raw.isEmpty then r.raw
  else
    let key := privateKeyOf Config.signerSecret
    r.signed ++ (if r.sigOk then ecdsaSign key r.signed else natLe 132 0) ++
      (if r.certOk then certificate 2 Config.signerId (publicKey key) else natLe 384 0) ++ natLe 124 0

/-- Reserved fields of a record. -/
def recordReserved (b : Bytes) : Bool :=
  allZero (slice b 1 3) && allZero (slice b 0x22 2) && allZero (slice b 0x2F 1) && allZero (slice b 0x34 12) &&
    allZero (slice b 0x88 120) && allZero (slice b 0x2100 128) && allZero (slice b 0x2384 124)

/-- The signing certificate of a record is valid with PURPOSE 2 and carries SIGNER (12 R414). -/
def recordCertOk (b : Bytes) : Bool := let c := slice b 0x2204 384; certValid c 2 && fld c 8 8 == fld b 0x80 8

/-- SIG of a record verifies under its certificate. -/
def recordSigOk (b : Bytes) : Bool := certSigned (slice b 0x2204 384) (slice b 0 0x2180) (slice b 0x2180 132)

/-- IDKEY_DIGEST of a record is that of the derived public key. -/
def recordKeyOk (b : Bytes) : Bool := slice b 0x40 64 == sha512Bytes (publicKey identityKey)

/-- What a record's bytes show of it at a boot: its certificate, SIG, IDKEY_DIGEST and reserved fields (12 R414, R415). Where the flash holds
it by its fields only, the facts held with them answer. -/
def ConfigRecord.verified (r : ConfigRecord) : Bool :=
  if r.raw.isEmpty then r.certOk && r.sigOk && r.idkeyOk && r.reservedZero
  else recordCertOk r.raw && recordSigOk r.raw && recordKeyOk r.raw && recordReserved r.raw

/-! ### Firmware images (12 R416, R417) -/

/-- Header fields and length of an image. Reserved bytes of the header that are not zero count as header fields that fail (DESIGN CHOICE, log
entry 55: R416 calls them reserved and states no check of them). -/
def imageHeaderOk (b : Bytes) : Bool :=
  fld b 0 1 == 1 && fld b 1 1 == 1 && allZero (slice b 2 2) && fld b 0x10 8 ≤ 67108096 && fld b 0x10 8 + 768 == b.length &&
    allZero (slice b 0x18 40) && allZero (slice b 0x284 124)

/-- The header certificate is valid with PURPOSE 1. -/
def imageCertOk (b : Bytes) : Bool := certValid (slice b 0x80 384) 1

/-- SIG of the header verifies under it. -/
def imageSigOk (b : Bytes) : Bool := certSigned (slice b 0x80 384) (slice b 0 0x80) (slice b 0x200 132)

/-- BODY_DIGEST is the digest of the body. -/
def imageBodyOk (b : Bytes) : Bool := sha512Bytes (b.drop 768) == slice b 0x40 64

/-- Whether an image is intact but for its SVN: from its bytes, or by the facts that the flash holds of it. -/
def Image.intact (i : Image) : Bool :=
  if i.raw.isEmpty then i.headerOk && i.certOk && i.sigOk && i.bodyOk
  else imageHeaderOk i.raw && imageCertOk i.raw && imageSigOk i.raw && imageBodyOk i.raw

/-- Whether an image is bootable (12 R417). -/
def Image.bootable (i : Image) (minSvn : Nat) : Bool := i.intact && minSvn ≤ i.svn

end Sys2Proof.Machine
end

