-- ==== Sys2Proof/Machine/Formats.lean ====
section
/-! DEFINITION. The number formats of 03_formats_and_bounds.md: element formats, B16, F32, blocks, input quantisation, the
choice of the range code, and the exact domain of 05. -/

set_option Elab.async false

namespace Sys2Proof.Machine

/-! ### Floating formats -/

/-- A binary floating format: mantissa bits, exponent bits, bias (03 Table 3.1, R70). -/
structure FloatFmt where
  mant : Nat
  exp  : Nat
  bias : Nat
  deriving DecidableEq, Repr

def e2m1 : FloatFmt := ⟨1, 2, 1⟩
def e3m2 : FloatFmt := ⟨2, 3, 3⟩
def e4m3 : FloatFmt := ⟨3, 4, 7⟩
def b16 : FloatFmt := ⟨7, 8, 127⟩
def f32 : FloatFmt := ⟨23, 8, 127⟩

/-- The sign bit of an encoding. -/
def FloatFmt.neg (f : FloatFmt) (v : Nat) : Bool := bit v (f.mant + f.exp)

/-- The magnitude bits of an encoding. -/
def FloatFmt.mag (f : FloatFmt) (v : Nat) : Nat := v % 2 ^ (f.mant + f.exp)

/-- `2^e` times an integer, as a fraction. -/
def pow2 (m : Int) (e : Int) : Frac := Frac.scale ⟨m, 1⟩ e

/-- The exact value of an encoding (03 R67, R70); negative zero decodes as zero. -/
def FloatFmt.decode (f : FloatFmt) (v : Nat) : Frac :=
  let m := f.mag v % 2 ^ f.mant
  let e := f.mag v / 2 ^ f.mant
  let a := if e = 0 then pow2 m (1 - (f.bias : Int) - f.mant)
           else pow2 (2 ^ f.mant + m) ((e : Int) - f.bias - f.mant)
  if f.neg v then a.neg else a

/-- The exponent `k` with `2^k <= a < 2^(k+1)` of a positive fraction. -/
def floorLog2 (a : Frac) : Int :=
  let k : Int := (Nat.log2 a.num.natAbs : Int) - Nat.log2 a.den
  if (pow2 1 k).le a then k else k - 1

/-- The exponent at which a magnitude is rounded: its own, or that of the smallest normal. -/
def FloatFmt.expo (f : FloatFmt) (a : Frac) : Int := max (1 - (f.bias : Int)) (floorLog2 a)

/-- The magnitude bits nearest to a nonnegative value, ties to the even mantissa (03 R69). -/
def FloatFmt.roundMag (f : FloatFmt) (a : Frac) : Nat :=
  if a.num ≤ 0 then 0
  else
    let e := f.expo a
    ((e - (1 - (f.bias : Int))) * 2 ^ f.mant + (a.scale (f.mant - e)).round).toNat

/-- The smallest magnitude bits whose value is not below a nonnegative value. -/
def FloatFmt.ceilMag (f : FloatFmt) (a : Frac) : Nat :=
  if a.num ≤ 0 then 0
  else
    let e := f.expo a
    ((e - (1 - (f.bias : Int))) * 2 ^ f.mant - (a.scale (f.mant - e)).neg.floor).toNat

/-- Sign and magnitude joined; never negative zero (03 R68). -/
def FloatFmt.join (f : FloatFmt) (neg : Bool) (mag : Nat) : Nat :=
  if neg && mag != 0 then 2 ^ (f.mant + f.exp) + mag else mag

/-- The nearest encoding of a value, whatever its size (03 R69). -/
def FloatFmt.round (f : FloatFmt) (a : Frac) : Nat := f.join (a.num < 0) (f.roundMag a.abs)

/-- Whether an encoding of B16 or F32 is an infinity or NaN (03 R70, R71). -/
def FloatFmt.special (f : FloatFmt) (v : Nat) : Bool := f.mag v / 2 ^ f.mant == 2 ^ f.exp - 1

/-- Rounded into B16 or F32; none on overflow (03 R71). -/
def FloatFmt.roundFinite (f : FloatFmt) (a : Frac) : Option Nat :=
  if f.special (f.round a) || f.roundMag a.abs ≥ 2 ^ (f.mant + f.exp) then none else some (f.round a)

/-- Whether an E4M3 element encoding is 0x7F or 0xFF (03 R68). -/
def e4m3Bad (v : Nat) : Bool := v % 128 == 127

/-- Whether an encoding is a legal block scale: positive and finite (03 R75). -/
def scaleOk (v : Nat) : Bool := 1 ≤ v && v ≤ 0x7E

/-- An E4M3 value in units of 2^-9. -/
def e4m3Int (v : Nat) : Int :=
  let m := v % 8
  let e := v % 128 / 8
  let a : Int := if e = 0 then m else (8 + m) * 2 ^ (e - 1)
  if v % 256 ≥ 128 then -a else a

/-- The largest encoding of each element format that a quantiser writes: 6, 28, 448 (03 R77). -/
def elemMaxEnc (f : FloatFmt) : Nat := if f.exp = 2 then 7 else if f.exp = 3 then 31 else 0x7E

def minScale : Frac := ⟨1, 512⟩

/-- The smallest E4M3 scale not below `max(t, 2^-9)`, as an encoding (03 R77, R83, R89). -/
def scaleFor (t : Frac) : Nat := Nat.max 1 (e4m3.ceilMag (t.max minScale))

/-! ### Blocks (03 R72-R79) -/

/-- A block as a quantiser writes it: scale, element encodings, BFLAG. -/
structure Block where
  scale : Nat
  elems : List Nat
  flag  : Nat
  deriving DecidableEq, Repr

def maxFrac (l : List Frac) : Frac := l.foldl (fun m x => m.max x.abs) ⟨0, 1⟩

/-- One element over its scale, clamped to the largest of the format (03 R77). -/
def quantElem (f : FloatFmt) (scale : Nat) (v : Frac) : Nat :=
  let q := v.div (e4m3.decode scale)
  if (f.decode (elemMaxEnc f)).lt q.abs then f.join (v.num < 0) (elemMaxEnc f) else f.round q

/-- Quantise a block or group (03 R77). -/
def quantBlock (f : FloatFmt) (v : List Frac) : Block :=
  let a := maxFrac v
  let null : Block := ⟨1, v.map (fun _ => 0), 1⟩
  if a.isZero then null
  else
    let t := a.div (f.decode (elemMaxEnc f))
    let sat := (Frac.lt ⟨448, 1⟩ t)
    let s := if sat then 0x7E else scaleFor t
    let e := v.map (quantElem f s)
    if e.all (· == 0) then null else ⟨s, e, if sat then 2 else 0⟩

/-- The value of an element with a scale. -/
def elemValue (f : FloatFmt) (scale e : Nat) : Frac := (f.decode e).mul (e4m3.decode scale)

/-- Element format of parcel formats T4, T6, T8 (03 Table 3.2). -/
def fmtOf (format : Nat) : FloatFmt := if format = 0 then e2m1 else if format = 1 then e3m2 else e4m3

/-- Bytes of one block's elements and of one line (03 Table 3.2). -/
def blockBytes (format : Nat) : Nat := if format = 0 then 16 else if format = 1 then 24 else 32
def lineBytes (format : Nat) : Nat := 16 * blockBytes format + 32

/-- Element `k` of a block's bytes (03 R73). -/
def blockElem (format : Nat) (b : Bytes) (k : Nat) : Nat :=
  if format = 0 then bits (fld b (k / 2) 1) (4 * (k % 2)) 4
  else if format = 1 then bits (leNat (b.take 24)) (6 * k) 6
  else fld b k 1

/-- SCALE and BFLAG of block `b` of a line (03 Table 3.3). -/
def lineScale (format : Nat) (line : Bytes) (b : Nat) : Nat := fld line (16 * blockBytes format + b) 1
def lineFlag (format : Nat) (line : Bytes) (b : Nat) : Nat :=
  bits (fld line (16 * blockBytes format + 16 + b / 4) 1) (2 * (b % 4)) 2

/-! ### The exact domain (05 R140-R142) -/

/-- Rounded once to the grid of 2^-32 (05 R141); exact when the value lies on it. -/
def toFx (a : Frac) : Int := (a.scale 32).round

/-- The value of a grid integer. -/
def fxFrac (n : Int) : Frac := ⟨n, 4294967296⟩

/-- Whether an integer fits a two's complement holder of `w` bits (05 Table 5.1). -/
def fits (w : Nat) (n : Int) : Bool := -(2 ^ (w - 1) : Int) ≤ n && n < (2 ^ (w - 1) : Int)

/-- Add into a holder of `w` bits: the sum, or the old value with a numeric fault (05 R142). -/
def addInto (w : Nat) (old add : Int) : Int × Bool := if fits w (old + add) then (old + add, false) else (old, true)

/-- Element by element; a list shorter than the other reads 0 (an empty register set is all zero). The flag: some
addition left the range. -/
def addVec (w n : Nat) (old add : List Int) : List Int × Bool :=
  let r := (List.range n).map (fun i => addInto w (at' old i 0) (at' add i 0))
  (r.map (·.1), r.any (·.2))

/-! ### Array inputs (03 R89-R95) -/

/-- An input vector as the quantiser leaves it. -/
structure QInput where
  codes : List Int
  scale : Nat
  shifts : List Nat
  saturated : Bool
  deriving DecidableEq, Repr

/-- The group shift: the largest k from 0 to 3 for which S x 2^-k is an E4M3 value not below `a` (03 R89). -/
def groupShift (s : Nat) (a : Frac) : Nat :=
  let ok (k : Nat) : Bool :=
    let v := (e4m3.decode s).scale (-(k : Int))
    ((e4m3.decode (e4m3.ceilMag v)).eq v) && a.le v
  if ok 3 then 3 else if ok 2 then 2 else if ok 1 then 1 else 0

/-- Quantise an input vector of values into codes with `cmax` 7 or 127, groups of 32 (03 R89). -/
def quantInput (cmax : Nat) (x : List Frac) : QInput :=
  let groups := pieces 32 (x.length / 32 + 1) x
  let a := groups.map (fun g => (maxFrac g).mul ⟨1, cmax⟩)
  let top := maxFrac a
  if top.isZero then ⟨x.map (fun _ => 0), 1, groups.map (fun _ => 3), false⟩
  else if Frac.lt ⟨448, 1⟩ top then ⟨[], 0, [], true⟩
  else
    let s := scaleFor top
    let ks := a.map (groupShift s)
    let codes := (groups.zip ks).flatMap fun (g, k) =>
      g.map (fun v => (v.div ((e4m3.decode s).scale (-(k : Int)))).round)
    ⟨codes, s, ks, false⟩

/-- The input code that a mode fires for a full code (02 R53): the code, its high nibble, its low nibble. -/
def nibble (mode : Nat) (c : Int) : Int := if mode = 1 then c / 16 else if mode = 2 then c % 16 else c

/-- Twice the `x_i` of 02 R39: 2c in SIGNED mode, u in HALF mode. -/
def twiceX (mode : Nat) (c : Int) : Int := if mode = 2 then nibble 2 c else 2 * nibble mode c

/-- Group shift of row `i`. -/
def shiftOf (shifts : List Nat) (i : Nat) : Nat := at' shifts (i / 32) 0

/-- `16 x 2^-k_g x x_i` of row `i`: the row's input in 1/16 product units. -/
def rowInput (mode : Nat) (shifts : List Nat) (codes : List Int) (i : Nat) : Int :=
  twiceX mode (at' codes i 0) * 2 ^ (3 - shiftOf shifts i)

/-- The 256 row inputs of a fire in 1/16 product units. -/
def rowInputs (mode : Nat) (shifts : List Nat) (codes : List Int) : List Int :=
  (List.range 256).map (rowInput mode shifts codes)

/-- Whether the zero-skip mask skips all eight groups (02 R40, R41). -/
def allSkipped (mode : Nat) (codes : List Int) : Bool := codes.all (fun c => twiceX mode c == 0)

/-- Nibble weight of a MODE (02 Table 2.5): 1, 16, 2. -/
def modeWeight (mode : Nat) : Int := if mode = 1 then 16 else if mode = 2 then 2 else 1

/-- LSB of a range code in product units (02 Table 2.4): 128, 32, 8, 2. -/
def lsb (r : Nat) : Nat := 2 ^ (7 - 2 * r)

/-- The range code from the statistics Pg, Qg of the array's record (03 R94). T <= L holds when B <= L or 6 sigma <= L. -/
def chooseRange (mode : Nat) (shifts : List Nat) (codes : List Int) (p q : List Nat) : Nat :=
  let g := pieces 32 8 codes
  let terms := (List.range 8).map fun j =>
    let xs := (at' g j []).map (fun c => (twiceX mode c).natAbs)
    let k := at' shifts j 0
    (2 ^ (3 - k) * at' p j 0 * maxList xs, 4 ^ (3 - k) * at' q j 0 * sumList (xs.map (fun x => x * x)))
  let b16 := sumList (terms.map (·.1))
  let v := sumList (terms.map (·.2))
  let under (l : Nat) : Bool := b16 ≤ 16 * l || 36 * v ≤ 8192 * (l * l)
  if under 254 then 3 else if under 1016 then 2 else if under 4064 then 1 else 0

end Sys2Proof.Machine
end

