-- ==== Sys2Proof/Machine/Attention.lean ====
section
/-! DEFINITION. The bounds within which the result of a query head lies (03 Table 3.9, 09 R279), by exact arithmetic with spans. What the
engine delivers is a free value kept within them (log entry 10). -/

set_option Elab.async false

namespace Sys2Proof.Machine

/-! ### Spans: values known between two bounds -/

structure Span where
  lo : Frac
  hi : Frac
  deriving DecidableEq, Repr

def Span.exact (a : Frac) : Span := ⟨a, a⟩

def Span.add (a b : Span) : Span := ⟨a.lo.add b.lo, a.hi.add b.hi⟩

/-- A span widened by an absolute error. -/
def Span.widen (a : Span) (e : Frac) : Span := ⟨a.lo.sub e, a.hi.add e⟩

def Span.magnitude (a : Span) : Frac := a.lo.abs.max a.hi.abs

/-- A span whose values carry a relative error. -/
def Span.relative (a : Span) (e : Frac) : Span := a.widen (a.magnitude.mul e)

/-- A span times an exact factor. -/
def Span.scaled (a : Span) (k : Frac) : Span := if k.num < 0 then ⟨a.hi.mul k, a.lo.mul k⟩ else ⟨a.lo.mul k, a.hi.mul k⟩

def Span.sum (l : List Span) : Span := l.foldl Span.add (Span.exact ⟨0, 1⟩)

def Span.holds (a : Span) (v : Frac) : Bool := a.lo.le v && v.le a.hi

def Span.middle (a : Span) : Frac := (a.lo.add a.hi).mul ⟨1, 2⟩

/-- The relative error 2^-24 of one F32 operation, `n` times. -/
def ulps (n : Nat) : Frac := ⟨n, 16777216⟩

/-- ⌈log2 n⌉. -/
def treeDepth (n : Nat) : Nat := if n ≤ 1 then 0 else Nat.log2 (n - 1) + 1

/-! ### exp, at 80 fraction bits with directed rounding -/

def expBits : Nat := 80
def expOne : Int := 2 ^ expBits

/-- A fraction at 80 fraction bits, rounded down and up. -/
def fixDown (a : Frac) : Int := (a.num * expOne) / (a.den : Int)
def fixUp (a : Frac) : Int := -((-(a.num * expOne)) / (a.den : Int))

/-- The sum of the first terms of the series of exp at `y` in [-1/2, 0]: it stands within 64 steps of the value. -/
def expSeries : Nat → Nat → Int → Int → Int
  | 0, _, _, _ => 0
  | f + 1, i, term, y => term + expSeries f (i + 1) (term * y / (expOne * ((i : Int) + 1))) y

/-- `n` squarings, rounded down or up. -/
def squares (up : Bool) : Nat → Int → Int
  | 0, v => v
  | n + 1, v => squares up n (if up then -((-(v * v)) / expOne) else v * v / expOne)

/-- Bounds of exp at a point at or below 0 of 80 fraction bits: reduced by 2^8, summed, and squared eight times. -/
def expFix (up : Bool) (x : Int) : Int :=
  if x < -128 * expOne then (if up then 1 else 0)
  else
    let y := if up then -((-x) / 256) else x / 256
    let v := expSeries 24 0 expOne y + (if up then 64 else -64)
    squares up 8 v

/-- exp over a span whose values do not exceed 0. -/
def Span.exp (a : Span) : Span := ⟨⟨expFix false (fixDown a.lo), 2 ^ expBits⟩, ⟨expFix true (min 0 (fixUp a.hi)), 2 ^ expBits⟩⟩

/-! ### One query head (09 R279) -/

/-- `d`^(-1/2) to forty fraction bits. -/
def rsqrtSpan (d : Nat) : Span :=
  let r := Nat.sqrt (2 ^ 80 / d)
  ⟨⟨r, 2 ^ 40⟩, ⟨r + 1, 2 ^ 40⟩⟩

/-- A dot product of exact products summed in F32 by a pairwise tree (03 Table 3.9). -/
def dotSpan (a b : List Frac) : Span :=
  let terms := (a.zip b).map fun e => e.1.mul e.2
  let sum := terms.foldl Frac.add (⟨0, 1⟩ : Frac)
  let size := terms.foldl (fun (m t : Frac) => m.add t.abs) ⟨0, 1⟩
  (Span.exact sum).widen (size.mul (ulps (treeDepth terms.length)))

/-- The score of one key: q · k × d^(-1/2); the reciprocal square root within one unit of its last place, the product within 2^-24. -/
def scoreSpan (d : Nat) (q k : List Frac) : Span :=
  let s := dotSpan q k
  let r := rsqrtSpan d
  let ends := [s.lo.mul r.lo, s.lo.mul r.hi, s.hi.mul r.lo, s.hi.mul r.hi]
  let lo := ends.foldl (fun m x => if x.lt m then x else m) (s.lo.mul r.lo)
  let hi := ends.foldl Frac.max (s.lo.mul r.lo)
  (⟨lo, hi⟩ : Span).relative (ulps 4)

/-- The softmax probabilities of a list of scores, each within the relative bound of 03 Table 3.9. -/
def softmaxSpans (scores : List Span) : List Span :=
  match scores with
  | [] => []
  | x :: xs =>
    let top := xs.foldl (fun (m : Frac) (s : Span) => m.max s.hi) x.hi
    let es := scores.map fun s => (Span.mk (s.lo.sub top) (s.hi.sub top)).exp
    let total := Span.sum es
    es.map fun (e : Span) =>
      let lo := e.lo.div (e.lo.add (total.hi.sub e.hi))
      let hi := if (e.hi.add (total.lo.sub e.lo)).num ≤ 0 then ⟨1, 1⟩ else e.hi.div (e.hi.add (total.lo.sub e.lo))
      (⟨lo, hi⟩ : Span).relative (ulps (treeDepth scores.length + 4))

/-- The weighted sum of one element of the values: products within 2^-24, summed by a pairwise tree. -/
def weightedSpan (ps : List Span) (vs : List Frac) : Span :=
  let terms := (ps.zip vs).map fun e => (e.1.scaled e.2).relative (ulps 1)
  let size := terms.foldl (fun (m : Frac) (t : Span) => m.add t.magnitude) ⟨0, 1⟩
  (Span.sum terms).widen (size.mul (ulps (treeDepth terms.length)))

/-- Whether the product of a query with one of the keys lies beyond F32 (03 R71). -/
def scoreFault (q : List Nat) (keys : List (List Nat)) : Bool :=
  keys.any fun k => (f32.roundFinite (((q.zip k).map fun e => (f32.decode e.1).mul (f32.decode e.2)).foldl Frac.add ⟨0, 1⟩)).isNone

/-- The spans of a head's result, by element: the query after its rotary position, then the keys and the values in reach. -/
def attentionSpans (d : Nat) (q : List Nat) (keys values : List (List Nat)) : List Span :=
  let qf := q.map f32.decode
  let ps := softmaxSpans (keys.map fun k => scoreSpan d qf (k.map f32.decode))
  (List.range d).map fun j => weightedSpan ps (values.map fun v => f32.decode (at' v j 0))

/-- A free value kept within a span: itself where it lies in it, else the F32 value nearest the middle. -/
def boundedTo (a : Span) (e : Nat) : Nat := if !f32.special e && a.holds (f32.decode e) then e else f32.round a.middle

/-- The result of a query head (09 R279): a free value for each element, within the bounds of 03 Table 3.9; `kv` lists the keys, then the
values. -/
def attentionResult (draw d : Nat) (q : List Nat) (kv : List (List Nat)) : List Nat :=
  let free := Config.attention draw q kv d
  let n := kv.length / 2
  let spans := attentionSpans d q (kv.take n) (kv.drop n)
  (List.range d).map fun j => boundedTo (at' spans j (Span.exact ⟨0, 1⟩)) (at' free j 0)

end Sys2Proof.Machine
end

