-- ==== Sys2Proof/Machine/Parcel.lean ====
section
/-! DEFINITION. Weight parcels as bytes: header, weights, saturation appendix (06 R163-R167, R172, R173), and the relay
order (06 R169). -/

set_option Elab.async false

namespace Sys2Proof.Machine

/-- The header of a parcel from its 128 bytes (06 Table 6.1). -/
def ParcelHdr.parse (b : Bytes) : ParcelHdr :=
  { version := fld b 0 1, format := fld b 1 1, model := fld b 4 4, layer := fld b 8 2, tensor := fld b 0xA 2,
    destCoord := fld b 0xC 2 % 1024, destMask := fld b 0xE 2 % 1024, die := fld b 0x10 1, arrayMask := fld b 0x12 2,
    tileFirst := fld b 0x14 2, tileCount := fld b 0x16 2, rows := fld b 0x18 4, cols := fld b 0x1C 4,
    rowFirst := fld b 0x20 4, colFirst := fld b 0x24 4, index := fld b 0x28 4, outlierMax := fld b 0x2C 2,
    satCount := fld b 0x30 4, length := fld b 0x38 8, digest := beNat (slice b 0x40 64) }

/-- The digest over header bytes 0x00-0x3F followed by the payload (06 Table 6.1). -/
def parcelDigest (header payload : Bytes) : Nat := sha512 (header.take 64 ++ payload)

def ParcelHdr.rb (h : ParcelHdr) : Nat := ceilDiv h.rows 256
def ParcelHdr.cb (h : ParcelHdr) : Nat := ceilDiv h.cols 256
/-- The arrays of each tile that receive weights, rising. -/
def ParcelHdr.arrays (h : ParcelHdr) : List Nat := setBits 16 h.arrayMask
def ParcelHdr.linesPerCol (h : ParcelHdr) : Nat := ceilDiv h.rows 512

/-- LENGTH as 06 R167 requires it. -/
def ParcelHdr.lengthDue (h : ParcelHdr) : Nat :=
  if h.format = 3 then h.cols * h.rows * 2
  else h.cols * h.linesPerCol * lineBytes h.format + 72 * h.satCount

/-- TILE_COUNT as 06 R167 requires it. -/
def ParcelHdr.tileCountDue (h : ParcelHdr) : Nat := ceilDiv (h.rb * h.cb) h.arrays.length

/-- The array of position `p` (06 R172). -/
def ParcelHdr.arrayOf (h : ParcelHdr) (p : Nat) : ArrId :=
  ⟨h.die, h.tileFirst + p / h.arrays.length, at' h.arrays (p % h.arrays.length) 0⟩

/-- The arrays that hold blocks of the parcel, in order of position. -/
def ParcelHdr.arrayList (h : ParcelHdr) : List ArrId :=
  if h.arrayMask = 0 then [] else (List.range (h.rb * h.cb)).map h.arrayOf

/-- Whether a coordinate is addressed (06 R164). -/
def ParcelHdr.addresses (h : ParcelHdr) (c : Nat) : Bool :=
  (List.range 10).all fun b => bit h.destMask b || (bit c b == bit h.destCoord b)

/-- The line of column `n` that holds row `k`. -/
def payloadLine (h : ParcelHdr) (payload : Bytes) (n l : Nat) : Bytes :=
  slice payload ((n * h.linesPerCol + l) * lineBytes h.format) (lineBytes h.format)

/-- The saturation appendix (06 R166). -/
def appendixOf (h : ParcelHdr) (payload : Bytes) : List Bytes :=
  (List.range h.satCount).map fun e => slice payload (h.cols * h.linesPerCol * lineBytes h.format + 72 * e) 72

/-- A weight: its value and the encoding an outlier entry gives it (03 R84): T8 pair or B16. -/
structure Weight where
  val : Frac
  b16 : Bool
  enc : Nat
  deriving DecidableEq, Repr

def Weight.zero : Weight := ⟨⟨0, 1⟩, false, 0x100⟩

/-- A weight stored as an element with its block scale; the element is exact in E4M3. -/
def Weight.t8 (f : FloatFmt) (scale e : Nat) : Weight :=
  ⟨elemValue f scale e, false, scale * 256 + e4m3.round (f.decode e)⟩

/-- A weight of an appendix entry (06 R166, R173); as an outlier it is stored in B16, which is exact for a T8 copy too (06 R175). -/
def appendixWeight (entry : Bytes) (k : Nat) : Weight :=
  if fld entry 6 1 = 2 then
    let v := (Weight.t8 e4m3 (fld entry 40 1) (fld entry (8 + k) 1)).val
    ⟨v, true, b16.round v⟩
  else ⟨b16.decode (fld entry (8 + 2 * k) 2), true, fld entry (8 + 2 * k) 2⟩

/-- The weight of row `k` and column `n` of a parcel; zero outside it (06 R172, R173). -/
def parcelWeight (h : ParcelHdr) (payload : Bytes) (app : List Bytes) (k n : Nat) : Weight :=
  if k ≥ h.rows ∨ n ≥ h.cols then Weight.zero
  else if h.format = 3 then
    let v := fld payload (2 * (n * h.rows + k)) 2
    ⟨b16.decode v, true, v⟩
  else
    let line := payloadLine h payload n (k / 512)
    let b := k % 512 / 32
    let flag := lineFlag h.format line b
    if flag = 1 then Weight.zero
    else if flag = 2 then
      match app.find? (fun e => fld e 0 4 == n && fld e 4 2 == k / 32) with
      | some e => appendixWeight e (k % 32)
      | none => Weight.zero
    else
      Weight.t8 (fmtOf h.format) (lineScale h.format line b)
        (blockElem h.format (slice line (b * blockBytes h.format) (blockBytes h.format)) (k % 32))

/-- The 256 x 256 weights of the block at position `p`, by row (06 R172, R173). -/
def blockWeights (h : ParcelHdr) (payload : Bytes) (p : Nat) : List (List Weight) :=
  let app := appendixOf h payload
  (List.range 256).map fun i => (List.range 256).map fun j =>
    parcelWeight h payload app (256 * (p % h.rb) + i) (256 * (p / h.rb) + j)

/-- Whether a B16 encoding is allowed in a parcel (03 R71). -/
def b16Ok (v : Nat) : Bool := !b16.special v

/-- Whether the elements of one block are allowed: E4M3 never 0x7F or 0xFF (03 R68, R71). -/
def blockElemsOk (format : Nat) (b : Bytes) : Bool :=
  format != 2 || (List.range 32).all fun k => !e4m3Bad (blockElem 2 b k)

/-- Whether block `b` of a line is valid (03 R75). -/
def blockOk (format : Nat) (line : Bytes) (b : Nat) : Bool :=
  scaleOk (lineScale format line b) && lineFlag format line b != 3 &&
    blockElemsOk format (slice line (b * blockBytes format) (blockBytes format))

/-- The (column, block) pairs with BFLAG 0b10 in payload order, which the appendix must list (06 R166). -/
def saturatedBlocks (h : ParcelHdr) (payload : Bytes) : List (Nat × Nat) :=
  (List.range h.cols).flatMap fun n => (List.range h.linesPerCol).flatMap fun l =>
    let line := payloadLine h payload n l
    ((List.range 16).filter fun b => lineFlag h.format line b == 2).map fun b => (n, 16 * l + b)

/-- Whether an appendix entry's copy is allowed: its format code and its values (06 R166, 03 R71, R75). -/
def appendixEntryOk (format : Nat) (e : Bytes) : Bool :=
  let copy := fld e 6 1
  if copy = 3 then (List.range 32).all fun k => b16Ok (fld e (8 + 2 * k) 2)
  else if copy = 2 ∧ format ≠ 2 then
    scaleOk (fld e 40 1) && (List.range 32).all fun k => !e4m3Bad (fld e (8 + k) 1)
  else false

/-- The contents checks of status 3 (06 Table 6.2) beyond the header's, on the values, lines and appendix entries that the payload holds whole: of
a payload shorter than 06 R167 has it, what is absent is no format error, and status 4 says that LENGTH differs (DESIGN CHOICE, log entry 73). -/
def payloadFormatOk (h : ParcelHdr) (payload : Bytes) : Bool :=
  if h.format = 3 then (List.range (Nat.min (h.cols * h.rows) (payload.length / 2))).all fun e => b16Ok (fld payload (2 * e) 2)
  else
    let entries := (appendixOf h payload).filter fun e => e.length == 72
    let named := entries.map fun e => (fld e 0 4, fld e 4 2)
    ((List.range h.cols).all fun n => (List.range h.linesPerCol).all fun l =>
      let line := payloadLine h payload n l
      line.length != lineBytes h.format || (List.range 16).all fun b => blockOk h.format line b) &&
    (if payload.length < h.lengthDue then named.isPrefixOf (saturatedBlocks h payload) else named == saturatedBlocks h payload) &&
    entries.all (appendixEntryOk h.format)

/-- Column `n` of an embedding master as F32 encodings (06 R178). -/
def embeddingColumn (h : ParcelHdr) (payload : Bytes) (n : Nat) : List Nat :=
  let app := appendixOf h payload
  (List.range h.rows).map fun k => f32.round (parcelWeight h payload app k n).val

/-! ### Relay (06 R169) -/

/-- Exclusive-or of coordinates. -/
def xorNat (a b : Nat) : Nat := a ^^^ b

/-- The relay order of an entry module over its dimensions (06 R169). -/
def relayOrder (entry : Nat) (dims : List Nat) : List Nat :=
  (List.range (2 ^ dims.length)).map fun i =>
    let g := xorNat i (i / 2)
    (setBits dims.length g).foldl (fun m b => xorNat m (2 ^ at' dims b 0)) entry

end Sys2Proof.Machine
end

