-- ==== Sys2Proof/Machine/Arrays.lean ====
section
/-! DEFINITION. The arithmetic of one array: the array code record that the re-quantiser builds (02 R60, 03 R81-R88,
06 R172-R176), the scaler and the postmark check (02 R61, R62, 04 R112), what a fire, an outlier, a fall-back and a spot
comparison compute (04 R117, R123, R136, R137, 05 R141, R143), drift (04 R114, R115) and the calibration fit
(07 R215-R220). Converters are numbered 0-255 for weight columns, 256 PMH and 257 PML. -/

set_option Elab.async false

namespace Sys2Proof.Machine

/-! ### The array code record -/

def clampInt (lo hi v : Int) : Int := if v < lo then lo else if hi < v then hi else v

/-- The need of a column with largest positive and negative magnitudes `p` and `n` (03 R83, 06 R174). -/
def columnNeed (p n : Frac) : Frac := (p.mul ⟨1, 7⟩).max (n.mul ⟨1, 8⟩)

/-- A column's candidates for the outlier list: (row, magnitude), largest first, lowest row first on a tie. -/
structure ColumnRank where
  pos : List (Nat × Frac)
  neg : List (Nat × Frac)
  deriving DecidableEq, Repr

def insertRank (x : Nat × Frac) : List (Nat × Frac) → List (Nat × Frac)
  | [] => [x]
  | y :: ys => if y.2.lt x.2 then x :: y :: ys else y :: insertRank x ys

def headMag (l : List (Nat × Frac)) : Frac :=
  match l with
  | [] => ⟨0, 1⟩
  | x :: _ => x.2

/-- The candidates of column `j` of a block, by row. -/
def rankColumn (col : List Frac) : ColumnRank :=
  let rows := (List.range 256).zip col
  { pos := (rows.filter fun e => 0 < e.2.num).foldl (fun l e => insertRank e l) [],
    neg := ((rows.filter fun e => e.2.num < 0).map fun e => (e.1, e.2.neg)).foldl (fun l e => insertRank e l) [] }

def ColumnRank.need (c : ColumnRank) : Frac := columnNeed (headMag c.pos) (headMag c.neg)

/-- The weight that sets the need is the positive one. -/
def ColumnRank.fromPos (c : ColumnRank) : Bool := ((headMag c.neg).mul ⟨1, 8⟩).le ((headMag c.pos).mul ⟨1, 7⟩)

/-- The column with its need-setting weight selected. -/
def ColumnRank.pop (c : ColumnRank) : ColumnRank :=
  if c.fromPos then { c with pos := c.pos.drop 1 } else { c with neg := c.neg.drop 1 }

def ColumnRank.top (c : ColumnRank) : Nat :=
  match (if c.fromPos then c.pos else c.neg) with
  | [] => 0
  | x :: _ => x.1

def ColumnRank.gain (c : ColumnRank) : Frac := c.need.sub c.pop.need

/-- The column with the largest gain, the lowest on a tie: (column, gain). -/
def bestColumn : Nat → List ColumnRank → Option (Nat × Frac)
  | _, [] => none
  | j, c :: cs =>
    match bestColumn (j + 1) cs with
    | none => some (j, c.gain)
    | some b => if c.gain.lt b.2 then some b else some (j, c.gain)

/-- The positions (row, column) that 06 R174 selects, at most `n` of them. -/
def selectOutliers : Nat → List ColumnRank → List (Nat × Nat)
  | 0, _ => []
  | n + 1, cs =>
    match bestColumn 0 cs with
    | none => []
    | some (j, g) =>
      if g.num ≤ 0 then []
      else ((at' cs j ⟨[], []⟩).top, j) :: selectOutliers n (modAt cs j ColumnRank.pop)

/-- Scale, CFLAG and codes of one column (03 R83); `out` says which rows are outlier positions. -/
def columnCodes (col : List Frac) (out : List Bool) : Nat × Nat × List Nat :=
  let rest := (col.zip out).map fun e => if e.2 then (⟨0, 1⟩ : Frac) else e.1
  let p := rest.foldl (fun m x => if 0 < x.num then m.max x else m) ⟨0, 1⟩
  let n := rest.foldl (fun m x => if x.num < 0 then m.max x.neg else m) ⟨0, 1⟩
  let t := columnNeed p n
  let sat := Frac.lt ⟨448, 1⟩ t
  let s := if sat then 0x7E else scaleFor t
  let codes := (col.zip out).map fun e =>
    if e.2 then 8 else (8 + clampInt (-8) 7 ((e.1.div (e4m3.decode s)).round)).toNat
  if sat then (s, 2, codes)
  else if codes.all (· == 8) then (1, 1, codes) else (s, 0, codes)

/-- The row split of 02 R60: H, L and D of a row sum. -/
def postmarkSplit (s : Int) : Int × Int × Int :=
  let h := clampInt (-8) 7 ((s + 8) / 16)
  let l := clampInt (-8) 7 (s - 16 * h)
  (h, l, s - 16 * h - l)

/-- Row sum of codes over the 256 weight columns. -/
def rowSum (codes : List Nat) : Int := sumInt (codes.map fun (c : Nat) => (c : Int) - 8)

/-- Columns of a list of rows. -/
def transpose (n : Nat) (rows : List (List Nat)) : List (List Nat) :=
  (List.range n).map fun j => rows.map fun r => at' r j 0

/-- P and Q of the eight groups (03 R88), from the 258 columns of codes. -/
def groupStat (f : Nat → Nat) (cols : List (List Nat)) : List Nat :=
  (List.range 8).map fun g => maxList (cols.map fun c => sumList (((c.drop (32 * g)).take 32).map f))

/-- Distance of a code from code 8. -/
def codeMag (c : Nat) : Nat := ((c : Int) - 8).natAbs

/-- The record that 06 R175 builds from the weights of a block and a budget. -/
def buildRecord (w : List (List Weight)) (budget : Nat) : CodeRecord :=
  let cols := (List.range 256).map fun j => w.map fun r => (at' r j Weight.zero).val
  let sel := selectOutliers budget (cols.map rankColumn)
  let out (i j : Nat) : Bool := sel.contains (i, j)
  let enc := (List.range 256).map fun j =>
    columnCodes (at' cols j []) ((List.range 256).map fun i => out i j)
  let codes := (List.range 256).map fun i => enc.map fun e => at' e.2.2 i 8
  let split := codes.map fun r => postmarkSplit (rowSum r)
  let pmh := split.map fun s => (s.1 + 8).toNat
  let pml := split.map fun s => (s.2.1 + 8).toNat
  let weightOf (e : Nat × Nat) : Weight := at' (at' w e.1 []) e.2 Weight.zero
  let anyB16 := sel.any fun e => (weightOf e).b16
  let value (e : Nat × Nat) : Nat :=
    let x := weightOf e
    if anyB16 && !x.b16 then b16.round x.val else x.enc
  let allCols := enc.map (fun e => e.2.2) ++ [pmh, pml]
  { outB16 := anyB16,
    outliers := (sortBy (fun e => 256 * e.1 + e.2) sel).map fun e => (e.1, e.2, value e),
    remainders := ((List.range 256).zip split).filterMap fun e => if e.2.2.2 = 0 then none else some (e.1, e.2.2.2),
    p := groupStat codeMag allCols,
    q := groupStat (fun c => codeMag c * codeMag c) allCols,
    cflag := enc.map fun e => e.2.1, cscale := enc.map fun e => e.1, pmh := pmh, pml := pml, codes := codes }

/-- The record of position `p` of a parcel (06 R175, R176). -/
def parcelRecord (m : Master) (p : Nat) : CodeRecord := buildRecord (blockWeights m.hdr m.payload p) m.hdr.outlierMax

/-- The calibration record (07 R225). -/
def calibrationRecord : CodeRecord :=
  buildRecord ((List.range 256).map fun i => (List.range 256).map fun j =>
    ⟨⟨((i + 3 * j) % 16 : Nat) - 8, 1⟩, false, 0x100⟩) 0

/-- The 260-column contents of an array as SHA-512 input of CODE_DIGEST (06 Table 6.4): the CODE area followed by the
PMCODE area of the record. -/
def codeBytes (r : CodeRecord) : Bytes :=
  (r.codes.flatMap fun row => (List.range 128).map fun b =>
    BitVec.ofNat 8 (at' row (2 * b) 0 + 16 * at' row (2 * b + 1) 0)) ++
  (List.range 256).map fun i => BitVec.ofNat 8 (at' r.pmh i 0 + 16 * at' r.pml i 0)

/-- The 36 KiB of a record (03 Table 3.5). -/
def recordBytes (r : CodeRecord) : Bytes :=
  natLe 1 1 ++ natLe 1 (b2n r.outB16) ++ natLe 2 r.outliers.length ++ natLe 2 r.remainders.length ++
  natLe 2 (r.cflag.filter (· == 2)).length ++ natLe 8 0 ++
  ((List.range 8).flatMap fun g => natLe 2 (at' r.p g 0) ++ natLe 2 (at' r.q g 0)) ++ natLe 16 0 ++
  ((List.range 64).map fun b => BitVec.ofNat 8 (at' r.cflag (4 * b) 0 + 4 * at' r.cflag (4 * b + 1) 0 +
    16 * at' r.cflag (4 * b + 2) 0 + 64 * at' r.cflag (4 * b + 3) 0)) ++ natLe 128 0 ++
  (r.cscale.map fun s => BitVec.ofNat 8 s) ++
  ((List.range 256).map fun i => BitVec.ofNat 8 (at' r.pmh i 0 + 16 * at' r.pml i 0)) ++ natLe 256 0 ++
  ((r.outliers.flatMap fun e => natLe 1 e.1 ++ natLe 1 e.2.1 ++ natLe 2 e.2.2) ++
    natLe (4 * (512 - r.outliers.length)) 0) ++
  ((r.remainders.flatMap fun e => natLe 4 (e.1 + 256 * ofSigned 12 e.2)) ++
    natLe (4 * (256 - r.remainders.length)) 0) ++
  (r.codes.flatMap fun row => (List.range 128).map fun b =>
    BitVec.ofNat 8 (at' row (2 * b) 0 + 16 * at' row (2 * b + 1) 0))

/-! ### One fire -/

/-- Cell weights of converter `j`, by row. -/
def converterWeights (r : CodeRecord) (j : Nat) : List Int :=
  if j = 256 then r.pmh.map fun (c : Nat) => (c : Int) - 8
  else if j = 257 then r.pml.map fun (c : Nat) => (c : Int) - 8
  else r.codes.map fun (row : List Nat) => ((at' row j 8 : Nat) : Int) - 8

/-- Sum of products. -/
def dot (a b : List Int) : Int := sumInt ((a.zip b).map fun e => e.1 * e.2)

/-- The exact column value of 02 R39, in 1/16 product units. -/
def columnValue (r : CodeRecord) (j : Nat) (x16 : List Int) : Int := dot (converterWeights r j) x16

def kAt (a : Anchor) (r : Nat) : Int := at' a.k r 32768
def zAt (a : Anchor) (r : Nat) : Int := at' a.z r 0
def gAt (a : Anchor) (j : Nat) : Int := at' a.g j 32768
def fAt (a : Anchor) (j : Nat) : Int := at' a.f j 0

/-- The corrected value of converter `j` in 1/64 code (04 R112). -/
def corrected (c : CoefSet) (range : Nat) (x16 : List Int) (j : Nat) (raw : Int) : Int :=
  let kg := (98304 + kAt c.coef range) * (98304 + gAt c.coef j)
  let first : Frac := ⟨64 * kg * (256 * raw - fAt c.coef j - zAt c.coef range), 2 ^ 42⟩
  let drift : Frac := ⟨64 * at' c.delta j 0 * sumInt x16, 4096 * 16 * lsb range⟩
  let y := (first.sub drift).round
  if fits 18 y then y else Config.outOfSpan 1 y

/-- The corrected values of the 258 converters as they reach the checker: a null column is zero (03 R86). -/
def correctedAll (c : CoefSet) (rec : CodeRecord) (range : Nat) (x16 raw : List Int) : List Int :=
  (List.range 258).map fun j =>
    if j < 256 ∧ at' rec.cflag j 0 = 1 then 0 else corrected c range x16 j (at' raw j 0)

/-- The postmark remainder term R in 1/16 product units (02 R61). -/
def remainderTerm (rec : CodeRecord) (x16 : List Int) : Int :=
  sumInt (rec.remainders.map fun e => e.2 * at' x16 e.1 0)

/-- `O - E` of 02 R62, in 1/64 product unit. -/
def postmarkGap (range : Nat) (y : List Int) (r16 : Int) : Int :=
  lsb range * (sumInt (y.take 256) - 16 * at' y 256 0 - at' y 257 0) - 4 * r16

/-- Whether the postmark comparison passes (02 R62): 48 LSB. -/
def postmarkPass (range : Nat) (y : List Int) (r16 : Int) : Bool :=
  (postmarkGap range y r16).natAbs ≤ 48 * 64 * lsb range

/-- D2 of a postmark mismatch record: the gap in LSB, rounded up, saturating (13 Table 13.7). -/
def postmarkDetail (range : Nat) (y : List Int) (r16 : Int) : Nat :=
  Nat.min 0xFFFFFFFF (ceilDiv (postmarkGap range y r16).natAbs (64 * lsb range))

/-- What a passing fire adds to its bank (05 R143). -/
def fireAddend (rec : CodeRecord) (scale mode range : Nat) (y : List Int) : List Int :=
  (List.range 256).map fun j =>
    if at' rec.cflag j 0 = 0 then
      e4m3Int (at' rec.cscale j 0) * e4m3Int scale * modeWeight mode * lsb range * at' y j 0 * 256
    else 0

/-! ### Digital contributions -/

/-- `x_i x s[g_i]` of a full input code, as a fraction (04 R117). -/
def inputValue (scale : Nat) (shifts : List Nat) (codes : List Int) (i : Nat) : Frac :=
  ⟨at' codes i 0 * e4m3Int scale, 512 * 2 ^ shiftOf shifts i⟩

/-- The value of an outlier entry (03 R84). -/
def outlierValue (rec : CodeRecord) (v : Nat) : Frac :=
  if rec.outB16 then b16.decode v else elemValue e4m3 (v / 256) (v % 256)

/-- What the outlier lane adds for one input vector (04 R117): columns not saturated, each product on the grid. -/
def outlierAddend (rec : CodeRecord) (scale : Nat) (shifts : List Nat) (codes : List Int) : List Int :=
  (List.range 256).map fun j =>
    if at' rec.cflag j 0 = 2 then 0
    else sumInt ((rec.outliers.filter fun e => e.2.1 == j).map fun e =>
      toFx ((outlierValue rec e.2.2).mul (inputValue scale shifts codes e.1)))

/-- Sum over the rows of a column of weight times input, each product rounded once to the grid (05 R141). -/
def exactColumn (w : List (List Weight)) (x : List Frac) (j : Nat) : Int :=
  sumInt ((w.zip x).map fun e => toFx ((at' e.1 j Weight.zero).val.mul e.2))

/-- Fall-back from the master with the full input code (04 Table 4.5, causes 1, 2 with a 4-bit input, 3 and 4). -/
def masterAddend (w : List (List Weight)) (scale : Nat) (shifts : List Nat) (codes : List Int) : List Int :=
  (List.range 256).map (exactColumn w ((List.range 256).map (inputValue scale shifts codes)))

/-- A master value as the list cache keeps it: B16 where marked, else a T8 pair (03 R87, 04 R124). -/
def cachedValue (e : Bool × Nat) : Frac := if e.1 then b16.decode e.2 else elemValue e4m3 (e.2 / 256) (e.2 % 256)

/-- The columns of a record that are saturated, each with its 256 master values as the list cache keeps them (04 R124). -/
def saturatedColumns (rec : CodeRecord) (w : List (List Weight)) : List (Nat × List (Bool × Nat)) :=
  ((List.range 256).filter fun j => at' rec.cflag j 0 = 2).map fun j =>
    (j, w.map fun r => let x := at' r j Weight.zero; (x.b16, x.enc))

/-- The same for the saturated columns only, from the values in the list cache (cause 1). -/
def saturatedAddend (cols : List (Nat × List (Bool × Nat))) (scale : Nat) (shifts : List Nat) (codes : List Int) : List Int :=
  (List.range 256).map fun j =>
    match cols.find? fun c => c.1 == j with
    | some c => sumInt ((c.2.zip ((List.range 256).map (inputValue scale shifts codes))).map fun e => toFx ((cachedValue e.1).mul e.2))
    | none => 0

/-- Fall-back of a saturated wave (cause 5): the B16 inputs of 03 R92. -/
def waveAddend (w : List (List Weight)) (b : List Nat) : List Int :=
  (List.range 256).map (exactColumn w ((List.range 256).map fun i => b16.decode (at' b i 0)))

/-- Fall-back of one nibble of an 8-bit input under cause 2 (04 Table 4.5). -/
def nibbleAddend (rec : CodeRecord) (scale mode : Nat) (shifts : List Nat) (codes : List Int) : List Int :=
  let x16 := rowInputs mode shifts codes
  (List.range 256).map fun j =>
    if at' rec.cflag j 0 = 0 then
      let rows := (List.range 256).filter fun i => !rec.outliers.any fun e => e.1 == i && e.2.1 == j
      let v16 := sumInt (rows.map fun i => (((at' (at' rec.codes i []) j 8 : Nat) : Int) - 8) * at' x16 i 0)
      modeWeight mode * e4m3Int (at' rec.cscale j 0) * e4m3Int scale * v16 * 1024
    else 0

/-- The bound of a spot comparison passes: deviation at most `milli` thousandths of a code (04 R137). `y` in 1/64 code,
`v16` in 1/16 product unit. -/
def spotGap (range : Nat) (y v16 : Int) : Nat := (lsb range * y - 4 * v16).natAbs

def spotWithin (range milli : Nat) (y v16 : Int) : Bool := 1000 * spotGap range y v16 ≤ milli * 64 * lsb range

/-- The converters of a slice: its 32 columns and the two postmark converters (04 R136). -/
def spotConverters (q : Nat) : List Nat := (List.range 32).map (fun j => 32 * q + j) ++ [256, 257]

/-- (converter, gap) of the compared converters; null columns are excluded (04 R137). -/
def spotGaps (rec : CodeRecord) (range : Nat) (q : Nat) (y x16 : List Int) : List (Nat × Nat) :=
  ((spotConverters q).filter fun j => !(j < 256 && at' rec.cflag j 0 == 1)).map fun j =>
    (j, spotGap range (at' y j 0) (columnValue rec j x16))

/-- The converter with the largest gap, the first on a tie. -/
def worstGap (l : List (Nat × Nat)) : Nat × Nat := l.foldl (fun m e => if m.2 < e.2 then e else m) (0, 0)

/-! ### Drift (04 R114, R115) -/

/-- The programmed code of cell (row, column) of the 260 columns of a scan: 256 weights, REF0, REF1, PMH, PML. -/
def cellCode (rec : CodeRecord) (i c : Nat) : Int :=
  if c < 256 then ((at' (at' rec.codes i []) c 8 : Nat) : Int)
  else if c < 258 then 8
  else if c = 258 then ((at' rec.pmh i 8 : Nat) : Int) else ((at' rec.pml i 8 : Nat) : Int)

/-- Deviations from the programmed level, in 1/64 code, by row. -/
def deviations (rec : CodeRecord) (levels : List (List Int)) : List (List Int) :=
  (List.range 256).map fun i => (List.range 260).map fun c => at' (at' levels i []) c 0 - 64 * cellCode rec i c

/-- `2 (d_ij - r_i)` in 1/64 code of the 258 converters, by row. -/
def relative (d : List (List Int)) : List (List Int) :=
  d.map fun row => (List.range 258).map fun j =>
    2 * at' row (if j < 256 then j else j + 2) 0 - (at' row 256 0 + at' row 257 0)

/-- Sum over the rows of the relative deviations of each converter. -/
def relativeSums (rel : List (List Int)) : List Int :=
  (List.range 258).map fun j => sumInt (rel.map fun r => at' r j 0)

/-- The drift values, in 1/4,096 code. -/
def driftDeltas (rel : List (List Int)) : List Int :=
  (relativeSums rel).map fun s =>
    let v := roundEven s 8
    if fits 16 v then v else Config.outOfSpan 2 v

/-- D in 1/4,096 code. The spec gives D no resolution: rounded to the nearest step, ties to even, before R115 extrapolates it and holds it
against its limits (DESIGN CHOICE, log entry 47). -/
def driftD (rel : List (List Int)) : Nat :=
  let sums := relativeSums rel
  let worst := maxList (rel.flatMap fun r => (r.zip sums).map fun e => (256 * e.1 - e.2).natAbs)
  (roundEven worst 8).toNat

/-- Whether D at counter value `t` has reached `limit` (in 1/4,096 code) (04 R115). Where the two latest scans carry one stamp, or none, and
R115's quotient has no value, D1 holds (DESIGN CHOICE, log entry 47). -/
def Drift.reached (d : Drift) (t limit : Nat) : Bool :=
  match d.t0, d.t1 with
  | some t0, some t1 =>
    if d.scans < 2 ∨ d.d1 ≤ d.d0 ∨ t1 ≤ t0 ∨ t ≤ t1 then limit ≤ d.d1
    else limit * (t1 - t0) ≤ d.d1 * (t1 - t0) + (d.d1 - d.d0) * (t - t1)
  | _, _ => limit ≤ d.d1

/-- D at counter value `t`, in 1/4,096 code, rounded down. -/
def Drift.at (d : Drift) (t : Nat) : Nat :=
  match d.t0, d.t1 with
  | some t0, some t1 =>
    if d.scans < 2 ∨ d.d1 ≤ d.d0 ∨ t1 ≤ t0 ∨ t ≤ t1 then d.d1 else d.d1 + (d.d1 - d.d0) * (t - t1) / (t1 - t0)
  | _, _ => d.d1

/-! ### Franking (04 R109-R111, 07 R211) -/

/-- The set points in 1/16 degC. -/
def setPoints : List Int := [400, 720, 1040, 1360, 1600]

/-- The integer field at temperature `t` (1/16 degC) from its values at the five set points (04 R109). -/
def interpolate (t : Int) (f : List Int) : Int :=
  if t ≤ 400 then at' f 0 0
  else if 1600 ≤ t then at' f 4 0
  else
    let i := if t < 720 then 0 else if t < 1040 then 1 else if t < 1360 then 2 else 3
    let a := at' setPoints i 0
    let b := at' setPoints (i + 1) 0
    roundEven (at' f i 0 * (b - a) + (at' f (i + 1) 0 - at' f i 0) * (t - a)) (b - a).toNat

/-- The coefficients of an array at a temperature, from its five entries. -/
def interpolateSet (t : Int) (e : List Anchor) : Anchor :=
  let at5 (get : Anchor → Int) : Int := interpolate t (e.map get)
  { k := (List.range 4).map fun r => at5 fun a => kAt a r,
    z := (List.range 4).map fun r => at5 fun a => zAt a r,
    g := (List.range 258).map fun j => at5 fun a => gAt a j,
    f := (List.range 258).map fun j => at5 fun a => fAt a j }

/-- Field by field: an anchor and a shape block (07 R211). -/
def anchorPlus (a sh : Anchor) : Anchor :=
  { k := (List.range 4).map fun r => kAt a r + at' sh.k r 0,
    z := (List.range 4).map fun r => zAt a r + at' sh.z r 0,
    g := (List.range 258).map fun j => gAt a j + at' sh.g j 0,
    f := (List.range 258).map fun j => fAt a j + at' sh.f j 0 }

def neutralAnchor : Anchor := ⟨[], [], [], []⟩

/-- The five entries of an anchor under a tile's shape (25, 45, 85, 100 degC; none at 65) (07 R211). -/
def buildEntries (a : Anchor) (shape : List Anchor) : List Anchor :=
  let sh (i : Nat) : Anchor := at' shape i neutralAnchor
  [anchorPlus a (sh 0), anchorPlus a (sh 1), anchorPlus a neutralAnchor, anchorPlus a (sh 2), anchorPlus a (sh 3)]

/-- Whether every field lies in its encoding span (04 Table 4.3, 07 R220). -/
def anchorInSpan (a : Anchor) : Bool :=
  (a.k ++ a.g).all (fun v => 0 ≤ v && v ≤ 65535) && (a.z ++ a.f).all (fun v => -32768 ≤ v && v ≤ 32767)

/-! ### The calibration fit (07 R215-R220) -/

/-- Range code of fire `n` of a run (07 Table 7.4). -/
def runRange (n : Nat) : Nat :=
  if n < 64 then n / 16 else if n < 128 then 3 else if n < 192 then 2 else if n < 256 then 1 else 0

/-- (driven groups, shift, pattern) of gain fire `n` of a run. -/
def runDrive (n : Nat) : List Nat × Nat × Nat :=
  if n < 64 then ([], 3, 0)
  else if n < 128 then ([(n - 64) / 8], 3, n % 8)
  else if n < 192 then ([(n - 128) / 8], 1, n % 8)
  else if n < 256 then ([2 * ((n - 192) / 16), 2 * ((n - 192) / 16) + 1], 0, n % 16)
  else ([0, 1, 2, 3, 4, 5, 6, 7], 0, n - 256)

/-- Input code of the driven row with number `i` in pattern `p` (07 R216). -/
def runCode (p i : Nat) : Int := if popcount 8 (Nat.land i (2 * p + 1)) % 2 = 0 then 7 else -7

/-- The 256 input codes and eight shifts of fire `n` of a run. -/
def runInput (n : Nat) : List Int × List Nat :=
  let d := runDrive n
  let base := 32 * at' d.1 0 0
  ((List.range 256).map fun i => if d.1.contains (i / 32) then runCode d.2.2 (i - base) else 0,
   (List.range 8).map fun g => if d.1.contains g then d.2.1 else 3)

/-- Row inputs of fire `n` in 1/16 product units (MODE 0b00). -/
def runX (n : Nat) : List Int := let d := runInput n; rowInputs 0 d.2 d.1

/-- `E x 65536 x LSB` of converter `j` at a gain fire (07 R218). -/
def fitE (rec : CodeRecord) (delta : List Int) (x16 : List Int) (j : Nat) : Int :=
  4096 * columnValue rec j x16 + at' delta j 0 * sumInt x16

/-! ### The postmark self-test (14 R479) -/

/-- Row inputs of fire `n` of the self-test: pattern `n` over all eight groups, in 1/16 product units. -/
def testX (n : Nat) : List Int := runX (256 + n)

/-- What the checker's expected sum is offset by at fire `n`, in LSB: nothing in the first 48, +64 in the next 8, -64 in the last 8. R479 gives
no order (DESIGN CHOICE, log entry 70). -/
def testOffset (n : Nat) : Int := if n < 48 then 0 else if n < 56 then 64 else -64

/-- Whether fire `n` of the self-test fails: a plain one unless every converter lies within 4 codes of its exact value and the postmark
comparison passes, an offset one unless the comparison flags. -/
def testFireFails (rec : CodeRecord) (c : CoefSet) (n : Nat) (raw : List Int) : Bool :=
  let y := correctedAll c rec 0 (testX n) raw
  let passes := postmarkPass 0 y (remainderTerm rec (testX n) + 16 * lsb 0 * testOffset n)
  if n < 48 then !passes || (List.range 258).any fun j => decide (4 * 64 * lsb 0 < spotGap 0 (at' y j 0) (columnValue rec j (testX n)))
  else passes

/-- The first of the 64 fires that fails. -/
def selfTest (rec : CodeRecord) (c : CoefSet) (raw : List (List Int)) : Option Nat :=
  (List.range 64).find? fun n => testFireFails rec c n (at' raw n [])

/-- What the fit measures of converter `j` at range code `r`: 16 o, sum of E^2, sum of E (16 c - 16 o); E in 1/(65536 LSB). -/
structure FitCell where
  o16 : Int
  see : Int
  sec : Int
  deriving DecidableEq, Repr

/-- First gain fire of a range code. -/
def gainBase (r : Nat) : Nat := if r = 3 then 64 else if r = 2 then 128 else if r = 1 then 192 else 256

def fitCell (rec : CodeRecord) (delta : List Int) (raw : List (List Int)) (xs : List (List Int)) (j r : Nat) : FitCell :=
  let c (n : Nat) : Int := at' (at' raw n []) j 0
  let o16 := sumInt ((List.range 16).map fun i => c (16 * r + i))
  let es := (List.range 64).map fun i => (fitE rec delta (at' xs (gainBase r + i) []) j, c (gainBase r + i))
  { o16 := o16, see := sumInt (es.map fun e => e.1 * e.1), sec := sumInt (es.map fun e => e.1 * (16 * e.2 - o16)) }

/-- Weak: sum of E^2 below 1,024 code^2. -/
def FitCell.weak (f : FitCell) (r : Nat) : Bool := f.see < 1024 * (65536 * lsb r) ^ 2

/-- The gain of a converter that is not weak. -/
def FitCell.gain (f : FitCell) (r : Nat) : Frac := Frac.div ⟨16 * f.see, 65536 * lsb r⟩ ⟨f.sec, 1⟩

def meanFrac (l : List Frac) : Frac := (l.foldl Frac.add ⟨0, 1⟩).mul ⟨1, l.length⟩

/-- Gain or gain trim in its encoding (04 Table 4.3). -/
def encGain (a : Frac) : Int := ((a.sub ⟨3, 4⟩).mul ⟨131072, 1⟩).round

/-- The outcome of a fit: measured fields, and whether the run fails (07 R220). -/
structure Fit where
  measured : Anchor
  offsetsOnly : Bool
  fail : Bool
  deriving DecidableEq, Repr

/-- The residual of a converter at a gain fire, times 2^49 (07 R220). -/
def residual (m : Anchor) (r j : Nat) (c e : Int) : Int :=
  (98304 + kAt m r) * (98304 + gAt m j) * (256 * c - fAt m j - zAt m r) * 128 - e * 2 ^ (26 + 2 * r)

/-- Whether the rms residual of a converter at a range code exceeds 0.35 code. -/
def rmsBad (m : Anchor) (rec : CodeRecord) (delta : List Int) (raw xs : List (List Int)) (r j : Nat) : Bool :=
  let sq := (List.range 64).map fun i =>
    let n := gainBase r + i
    let v := residual m r j (at' (at' raw n []) j 0) (fitE rec delta (at' xs n []) j)
    v * v
  784 * 2 ^ 98 < 100 * sumInt sq

/-- The fit of a run from its raw codes; `now` are the array's current coefficients at the run temperature. -/
def fitRun (rec : CodeRecord) (delta : List Int) (now : Anchor) (raw : List (List Int)) : Fit :=
  let xs := (List.range 320).map runX
  let cells := (List.range 258).map fun j => (List.range 4).map fun r => fitCell rec delta raw xs j r
  let cell (j r : Nat) : FitCell := at' (at' cells j []) r ⟨0, 0, 0⟩
  let strong (r : Nat) : List Nat := (List.range 258).filter fun j => !(cell j r).weak r
  let mean (r : Nat) : Frac :=
    if (strong r).isEmpty then ⟨Config.weakGain r, 131072⟩ else meanFrac ((strong r).map fun j => (cell j r).gain r)
  let means := (List.range 4).map mean
  let a (j r : Nat) : Frac := if (cell j r).weak r then at' means r ⟨1, 1⟩ else (cell j r).gain r
  let offsetsOnly := (strong 2).length < 64
  let f := (List.range 258).map fun j => roundEven (256 * (cell j 2).o16) 16
  let z := (List.range 4).map fun r =>
    roundEven (256 * sumInt ((List.range 258).map fun j => (cell j r).o16 - (cell j 2).o16)) (16 * 258)
  let infinite := !offsetsOnly && (List.range 4).any fun r => (strong r).any fun j => (cell j r).sec == 0
  let m : Anchor :=
    if offsetsOnly then { k := now.k, z := z, g := now.g, f := f }
    else { k := (List.range 4).map fun r => encGain (meanFrac ((List.range 258).map fun j => (a j r).div (a j 2))),
           z := z, g := (List.range 258).map fun j => encGain (a j 2), f := f }
  let rms := (List.range 4).any fun r => (strong r).any fun j => rmsBad m rec delta raw xs r j
  { measured := m, offsetsOnly := offsetsOnly, fail := infinite || rms }

/-- The new anchor: anchor + measured - f(T) (07 R219). -/
def newAnchor (old measured now : Anchor) : Anchor :=
  { k := (List.range 4).map fun r => kAt old r + kAt measured r - kAt now r,
    z := (List.range 4).map fun r => zAt old r + zAt measured r - zAt now r,
    g := (List.range 258).map fun j => gAt old j + gAt measured j - gAt now j,
    f := (List.range 258).map fun j => fAt old j + fAt measured j - fAt now j }

end Sys2Proof.Machine
end

