-- ==== Sys2Proof/Machine/Time.lean ====
section
/-! DEFINITION. Time: the idle tick, stamps, windows, and the moves of the clock by timers (01 R18-R20, 10 R339-R350,
R549). -/

set_option Elab.async false

namespace Sys2Proof.Machine

/-- Ticks of 4 ns in one microsecond and one second (10 R347). -/
def ticksPerUs : Nat := 250
def ticksPerSec : Nat := 250000000

/-- 10 ms in ticks (10 R345). -/
def alignTicks : Nat := 2500000

/-- Ticks in the 100 us between two exchanges (10 R341). -/
def exchangeTicks : Nat := 25000

/-- The whole ticks to be corrected within `n` ticks: those left, and those that the rate correction adds, spread evenly (10 R342, R345). -/
def Clocks.pool (c : Clocks) (n : Nat) : Int :=
  c.correction + c.rate.sign * ((c.rateAcc + n * c.rate.natAbs) / exchangeTicks : Nat)

/-- Single increments changed within `n` ticks: at most one in every 64 ticks (10 R342). -/
def Clocks.spent (c : Clocks) (n : Nat) : Nat :=
  let first := 65 - Nat.min c.sinceCorrection 64
  Nat.min (c.pool n).natAbs (if n < first then 0 else 1 + (n - first) / 64)

/-- What `n` ticks leave to be corrected. -/
def Clocks.spend (c : Clocks) (n : Nat) : Clocks :=
  let k := c.spent n
  { c with
    correction := c.pool n - (c.pool n).sign * k,
    sinceCorrection := if k = 0 then c.sinceCorrection + n else n + 1 - (65 - Nat.min c.sinceCorrection 64 + 64 * (k - 1)),
    rateAcc := (c.rateAcc + n * c.rate.natAbs) % exchangeTicks }

/-- The clocks `n` ticks later. A VALID counter makes single increments of 2 where the child is behind and of 0 where it is ahead (10 R342). -/
def Clocks.forward (c : Clocks) (n : Nat) : Clocks :=
  if c.valid then
    { c.spend n with
      tick := c.tick + n,
      counter := if c.pool n ≤ 0 then c.counter + n + c.spent n else c.counter + n - c.spent n }
  else { c with tick := c.tick + n }

/-- The clocks when a VALID counter comes to `t`: the ticks that this takes are fewer where the child is behind, more where it is ahead. -/
def Clocks.countTo (c : Clocks) (t : Nat) : Clocks :=
  let n := t - c.counter
  { c.spend n with tick := if c.pool n ≤ 0 then c.tick + n - c.spent n else c.tick + n + c.spent n, counter := t }

/-- The clocks one tick later. -/
def Clocks.next (c : Clocks) : Clocks := c.forward 1

/-- Largest value of the 64-bit step counter. -/
def counterMax : Nat := 18446744073709551615

/-- A step on an empty queue: one tick of the step-tick clock (log entry 2). The clock is stopped in P4 and while the
module is stopped or unpowered (01 R18). -/
def idleTick (s : State) : Host.Outcome State Fault Refusal :=
  if !s.pw.supplied || s.pw.stop.isSome || s.pw.state == .p4 then .next s
  else if s.tm.valid && s.tm.next.counter > counterMax then .fault .counterWrap
  else .next { s with tm := s.tm.next }

/-- Time has passed up to free-running tick `t` when it stood before it (log entry 3). -/
def State.advanceTo (s : State) (t : Nat) : State :=
  if s.tm.tick < t then { s with tm := s.tm.forward (t - s.tm.tick) } else s

/-- Time has passed up to step-counter value `t` of a VALID counter when it stood before it (log entry 3). -/
def State.counterTo (s : State) (t : Nat) : State :=
  if s.tm.valid ∧ s.tm.counter < t then { s with tm := s.tm.countTo t } else s

/-- The stamp of what happens now (10 R549). -/
def State.stamp (s : State) : Stamp := if s.tm.valid then some s.tm.counter else none

/-- The step counter as registers, records and frames show it: 0 while INVALID (10 R549). -/
def State.time (s : State) : Nat := if s.tm.valid then s.tm.counter else 0

/-- The module's own time in ticks: the step counter, or the free-running clock while it is INVALID. -/
def State.localTime (s : State) : Nat := if s.tm.valid then s.tm.counter else s.tm.tick

/-- Whether tick `t` lies in the window `[a, a + len)` (10 R347). -/
def inWindow (a len t : Nat) : Bool := a ≤ t && t < a + len

/-- A pending stamp read at counter value `v`: `none` takes the value at which the counter became VALID. -/
def Stamp.resolve (st : Stamp) (v : Nat) : Nat := st.getD v

/-- The clocks changed by `f`. -/
def State.modClock (s : State) (f : Clocks → Clocks) : State := { s with tm := f s.tm }

end Sys2Proof.Machine
end

