-- ==== Sys2Proof/Machine/Query.lean ====
section
/-! DEFINITION. Reading and replacing one part of the state: tiles, regions, directory entries, records, franking, slots,
steps, ports. A part that is not listed has the value that its default here states. -/

set_option Elab.async false

namespace Sys2Proof.Machine

/-! ### Modes and the module as a whole -/

/-- P0 Run with the H core and array domains running. -/
def State.inRun (s : State) : Bool := s.pw.supplied && s.pw.stop.isNone && s.pw.state == .p0

/-- P0 or P1: the H core clock runs (01 Table 1.7). -/
def State.hcoreRuns (s : State) : Bool :=
  s.pw.supplied && s.pw.stop.isNone && (s.pw.state == .p0 || s.pw.state == .p1)

/-- Firmware runs: booted, not halted, H core running. -/
def State.firmwareRuns (s : State) : Bool := s.hcoreRuns && s.bt.run == .running && !s.bt.halted

def State.isDrained (s : State) : Bool := s.bt.drained.isSome

/-- TDP_W of the record in force (12 Table 12.10); 0 before one is. -/
def State.tdp (s : State) : Nat :=
  match s.bt.record with
  | some r => r.tdpW
  | none => 0

def State.slotDuty (s : State) : Nat :=
  match s.bt.record with
  | some r => r.slotDuty
  | none => 0

def State.serial (s : State) : Nat :=
  match s.bt.record with
  | some r => r.serial
  | none => 0

/-- A free value's number, and the state in which it has been used (log entry 11). -/
def State.nextDraw (s : State) : Nat × State := (s.draw, { s with draw := s.draw + 1 })

/-! ### Tiles and regions (02 R37, 04 R103) -/

/-- Whether the record in force enables a tile. -/
def State.enabled (s : State) (t : TileId) : Bool :=
  match s.bt.record with
  | some r => t.die < 4 && t.tile < 16384 && !r.disabled.contains t
  | none => false

def emptyBank : Bank :=
  { state := .empty, red := none, count := 0, regs := [], outliers := [], fallbacks := 0, adapters := [],
    closed := false }

def freshTest : FieldTest :=
  { due := false, dueAt := 0, boundary := false, before := (0, 0), running := false, arr := none, repeated := false, passedOnce := false, rotation := 0 }

/-- A tile as it stands after power is applied (06 R198). -/
def freshTile (t : TileId) : Tile :=
  { id := t, standIn := none, standInNext := none, spare := .idle, claim := none, prog := none, progQueue := [],
    preempted := [], settling := [], bank0 := emptyBank, bank1 := emptyBank, fires := [], repeatDue := none, inputRegs := [],
    dutyUsed := 0, scanOwed := false, partials := [],
    array := none, scaler := none, current := [], next := [], calDone := [],
    slotNo := 0, cntFire := 0, cntNull := 0, cntRepeat := 0, cntMismatch := 0, cntFallback := 0, mirror := [],
    calQueue := [], run := none, scans := [], scanBegun := [], scanSets := [], test := freshTest, excursions := [], rewrites := [] }

def State.tile (s : State) (t : TileId) : Tile := (s.tl.tiles.find? fun x => x.id == t).getD (freshTile t)

def State.setTile (s : State) (x : Tile) : State :=
  { s with tl := { s.tl with tiles := putBy (fun y => y.id == x.id) x s.tl.tiles } }

def State.modTile (s : State) (t : TileId) (f : Tile → Tile) : State := s.setTile { f (s.tile t) with id := t }

/-- Region of a tile: unit `tile / 256` of its die. -/
def unitOf (t : TileId) : Nat := t.tile / 256

def freshRegion (die unit : Nat) : Region :=
  { die := die, unit := unit, setTemp := none, jobs := [], spots := [], cache := [], fetching := [] }

def State.region (s : State) (die unit : Nat) : Region :=
  (s.tl.regions.find? fun r => r.die == die && r.unit == unit).getD (freshRegion die unit)

def State.setRegion (s : State) (r : Region) : State :=
  { s with tl := { s.tl with regions := putBy (fun x => x.die == r.die && x.unit == r.unit) r s.tl.regions } }

def State.modRegion (s : State) (die unit : Nat) (f : Region → Region) : State :=
  s.setRegion { f (s.region die unit) with die := die, unit := unit }

def Tile.bank (t : Tile) (b : Nat) : Bank := if b = 0 then t.bank0 else t.bank1
def Tile.setBank (t : Tile) (b : Nat) (k : Bank) : Tile :=
  if b = 0 then { t with bank0 := k } else { t with bank1 := k }

/-! ### Sensors (15 R502-R505) -/

/-- Reading of a sensor that has delivered none: the reset value 0x000, -64 degC (15 Table 15.10). -/
def noReading : Int := -1024

def State.sensor (s : State) (i : Nat) : Option Sensor := s.th.sensors.find? fun x => x.idx == i

def sensorDie (i : Nat) : Nat := if i < 256 then i / 64 else 4

/-- (reading, index) of the hottest sensor that has not failed among those satisfying `p`; the lowest index on a tie. -/
def State.hottest (s : State) (p : Nat → Bool) : Option (Int × Nat) :=
  (s.th.sensors.filter fun x => p x.idx && !x.failed).foldl
    (fun m x =>
      match m with
      | none => some (x.reading, x.idx)
      | some y => if y.1 < x.reading ∨ (y.1 = x.reading ∧ x.idx < y.2) then some (x.reading, x.idx) else some y) none

def State.dieMax (s : State) (die : Nat) : Int :=
  match s.hottest fun i => sensorDie i == die with
  | some m => m.1
  | none => noReading

/-- The region temperature (04 R103, 15 R504), in 1/16 degC. -/
def State.regionTemp (s : State) (die unit : Nat) : Int :=
  match s.sensor (64 * die + unit) with
  | some x => if x.failed then s.dieMax die else x.reading
  | none => noReading

def State.tileTemp (s : State) (t : TileId) : Int := s.regionTemp t.die (unitOf t)

/-- Calibration's temperature window: 10 to 95 degC (07 R222). -/
def State.runWindow (s : State) (t : TileId) : Bool := 160 ≤ s.tileTemp t && s.tileTemp t ≤ 1520

/-! ### Weights (06) -/

/-- The directory entry of an array that has never held codes (06 Table 6.4). -/
def freshDir : DirEntry :=
  { version := 1, astate := .free, spareTag := none, retired := false, model := 0, parcel := 0, position := 0, wear := 0,
    progTime := some 0, codeDigest := 0, recordDigest := 0 }

/-- The directory entry of every array not listed: as never programmed, or as a first-ever calibration has left it (07 R232). -/
def State.baseDir (s : State) : DirEntry :=
  { freshDir with
    wear := s.wt.wearBase, retired := 30000 ≤ s.wt.wearBase, progTime := s.wt.progBase,
    codeDigest := if s.wt.calCells then sha512 (codeBytes calibrationRecord) else 0,
    recordDigest := if s.wt.calCells then sha512 (recordBytes calibrationRecord) else 0 }

def State.dir (s : State) (a : ArrId) : DirEntry := lookupD s.wt.directory a s.baseDir
def State.setDir (s : State) (a : ArrId) (d : DirEntry) : State :=
  { s with wt := { s.wt with directory := setKey s.wt.directory a d } }
def State.modDir (s : State) (a : ArrId) (f : DirEntry → DirEntry) : State := s.setDir a (f (s.dir a))

def State.record (s : State) (a : ArrId) : Option CodeRecord :=
  (s.wt.records.find? fun e => e.1 == a).map (·.2)



/-- What the cells of an array hold, when that is known. -/
def State.cells (s : State) (a : ArrId) : Option CodeRecord :=
  match s.wt.cells.find? fun e => e.1 == a with
  | some e => e.2
  | none => if s.wt.calCells then some calibrationRecord else none

/-- A record without weights: every code 8. -/
def blankRecord : CodeRecord :=
  { outB16 := false, outliers := [], remainders := [], p := [], q := [], cflag := List.replicate 256 1,
    cscale := List.replicate 256 1, pmh := List.replicate 256 8, pml := List.replicate 256 8,
    codes := List.replicate 256 (List.replicate 256 8) }

def State.recordD (s : State) (a : ArrId) : CodeRecord := (s.record a).getD blankRecord

def freshDrift : Drift := { delta := [], d0 := 0, t0 := some 0, d1 := 0, t1 := some 0, scans := 0 }
def State.drift (s : State) (a : ArrId) : Drift := lookupD s.wt.drift a freshDrift
def State.setDrift (s : State) (a : ArrId) (d : Drift) : State :=
  { s with wt := { s.wt with drift := setKey s.wt.drift a d } }

def freshFranking : Franking := { valid := false, calTime := some 0, entries := [], directRun := false, lastFailed := false }

/-- A block of SHAPE or ANCHOR: the range entries, then the converter entries; `neutral` stands for an entry not listed. -/
def blockBytesOf (neutral : Int) (a : Anchor) : Bytes :=
  let pair (x y : Int) : Bytes := natLe 2 (ofSigned 16 x) ++ natLe 2 (ofSigned 16 y)
  ((List.range 4).flatMap fun r => pair (at' a.k r neutral) (at' a.z r 0)) ++
    (List.range 258).flatMap fun j => pair (at' a.g j neutral) (at' a.f j 0)

/-- The 22,528 bytes of a tile record with a DIGEST field of its own (07 Table 7.3). -/
def TileRecord.bytes (r : TileRecord) : Bytes :=
  natLe 1 r.version ++ natLe 1 (b2n r.field) ++ natLe 2 (r.tid.tile + 16384 * r.tid.die) ++
    natLe 4 (sumList ((List.range 17).map fun k => b2n (at' r.avalid k false) * 2 ^ k)) ++ natLe 56 0 ++ natBe 64 r.digest ++
    ((List.range 4).flatMap fun i => blockBytesOf 0 (at' r.shape i neutralAnchor)) ++
    ((List.range 17).flatMap fun k => blockBytesOf 32768 (at' r.anchors k neutralAnchor)) ++
    ((List.range 17).flatMap fun k => natLe 8 ((at' r.atimes k none).getD 0)) ++ natLe 256 0

/-- The 1,152 bytes of the franking entry of set point `i` on the stack of its die (04 R107, Table 4.2): VERSION, SETPOINT, EFLAGS, CAL_TIME, RANGE,
COLUMN. -/
def Franking.entryBytes (f : Franking) (i : Nat) : Bytes :=
  let block := blockBytesOf 32768 (at' f.entries i neutralAnchor)
  natLe 1 1 ++ natLe 1 i ++ natLe 1 (b2n f.valid) ++ natLe 5 0 ++ natLe 8 (f.calTime.getD 0) ++ block.take 16 ++ natLe 32 0 ++
    block.drop 16 ++ natLe 56 0

/-- The five entries of an array, by set point. -/
def Franking.bytes (f : Franking) : Bytes := (List.range 5).flatMap f.entryBytes

/-- What DIGEST must hold: SHA-512 over the bytes around it (07 Table 7.3). -/
def TileRecord.digestDue (r : TileRecord) : Nat := sha512 (r.bytes.take 64 ++ r.bytes.drop 128)

/-- A tile record as it is written, with its DIGEST. -/
def TileRecord.seal (r : TileRecord) : TileRecord := { r with digest := r.digestDue }

/-- The tile record of a tile (07 R212); one not listed has FIELD as `storeField` says, with every anchor valid and neutral
when it is set (log entry 5). -/
def State.plainRecord (s : State) (t : TileId) (field : Bool) : TileRecord :=
  { version := 1, tid := t, field := field, avalid := List.replicate 17 field, shape := [],
    anchors := List.replicate 17 ⟨[], [], [], []⟩, atimes := List.replicate 17 s.cl.storeTime, digest := 0 }

/-- The tile record of a tile. One of another VERSION is refused (01 R30): nothing of it is interpreted, so its arrays have no anchor. -/
def State.tileRecord (s : State) (t : TileId) : TileRecord :=
  match s.cl.store.find? fun r => r.tid == t with
  | some r => if r.version = 1 then r else s.plainRecord t false
  | none => s.plainRecord t s.cl.storeField

/-- The five entries that a tile record gives an array, with VALID where FIELD and its AVALID bit are set (07 R211, R213, R214). -/
def TileRecord.franking (r : TileRecord) (k : Nat) : Franking :=
  { valid := r.field && at' r.avalid k false, calTime := at' r.atimes k (some 0),
    entries := buildEntries (at' r.anchors k neutralAnchor) r.shape, directRun := false, lastFailed := false }

/-- The franking of an array: as changed since the start, else as the franking store gives it once it has been read. -/
def State.franking (s : State) (a : ArrId) : Franking :=
  lookupD s.wt.franking a (if s.cl.restored then (s.tileRecord a.tid).franking a.arr else freshFranking)
def State.setFranking (s : State) (a : ArrId) (f : Franking) : State :=
  { s with wt := { s.wt with franking := setKey s.wt.franking a f } }
def State.modFranking (s : State) (a : ArrId) (f : Franking → Franking) : State := s.setFranking a (f (s.franking a))

def State.master (s : State) (model index : Nat) : Option Master :=
  s.wt.masters.find? fun m => m.hdr.model == model && m.hdr.index == index

def State.model (s : State) (n : Nat) : Option Model := s.wt.models.find? fun m => m.num == n

/-- The layer of a model. -/
def Model.layer (m : Model) (l : Nat) : Option LayerRec := m.layers[l]?

/-- The tensor of a ROLE in a layer (08 Table 8.7). -/
def LayerRec.role (l : LayerRec) (r : Nat) : Option TensorRec := l.tensors.find? fun t => t.role == r

/-! ### Calibration validity (07 R214, 04 R110) -/

/-- Fourteen days and seven days of ticks (07 R214, R227). -/
def days14 : Nat := 1209600 * ticksPerSec
def days7 : Nat := 604800 * ticksPerSec

/-- CAL_TIME lies in the trailing 14 days; a later CAL_TIME counts as older (07 R214). -/
def State.calFresh (s : State) (f : Franking) : Bool :=
  match f.calTime with
  | some t => t ≤ s.tm.counter && s.tm.counter < t + days14
  | none => true

/-- The first two conditions of R214 and a most recent run that did not fail: what Table 7.6 judges class 1 on. While the
counter is INVALID the age is not judged. -/
def State.calSound (s : State) (a : ArrId) : Bool :=
  let f := s.franking a
  f.valid && !f.lastFailed && (!s.tm.valid || s.calFresh f)

/-- Whether the five entries of an array carry VALID (07 R214). -/
def State.entryValid (s : State) (a : ArrId) : Bool :=
  s.calSound a && !(s.franking a).directRun && s.tm.valid && s.cl.refTime.isSome

/-- Whether an array has valid calibration at the region temperature (04 R110): all five entries share one VALID. -/
def State.calValid (s : State) (a : ArrId) : Bool := s.entryValid a

/-- Whether the reference is traced (07 R210): the last passing trace began in the trailing 24 hours. -/
def hours24 : Nat := 86400 * ticksPerSec
def State.traced (s : State) : Bool :=
  match s.cl.refTime with
  | none => false
  | some none => true
  | some (some t) => !s.tm.valid || (t ≤ s.tm.counter && s.tm.counter < t + hours24)

/-- The coefficients of an array at the temperature of its region, from its entries (04 R109). -/
def State.coefNow (s : State) (a : ArrId) : CoefSet :=
  { coef := interpolateSet (s.tileTemp a.tid) (s.franking a).entries, delta := (s.drift a).delta }

/-! ### Serving (08, 11) -/

def State.slot (s : State) (n : Nat) : Option Slot := s.sv.slots.find? fun x => x.id == n

/-- State of a slot; a slot not listed is FREE. -/
def State.slotState (s : State) (n : Nat) : SlotState :=
  match s.slot n with
  | some x => x.state
  | none => .free

def State.setSlot (s : State) (x : Slot) : State :=
  { s with sv := { s.sv with slots := putBy (fun y => y.id == x.id) x s.sv.slots } }

def State.modSlot (s : State) (n : Nat) (f : Slot → Slot) : State :=
  { s with sv := { s.sv with slots := s.sv.slots.map fun x => if x.id = n then f x else x } }

def State.context (s : State) (n : Nat) : Option Context := s.sv.contexts.find? fun x => x.id == n
def State.setContext (s : State) (x : Context) : State :=
  { s with sv := { s.sv with contexts := putBy (fun y => y.id == x.id) x s.sv.contexts } }

def State.queue (s : State) (n : Nat) : Option Queue := s.sv.queues.find? fun x => x.id == n
def State.setQueue (s : State) (x : Queue) : State :=
  { s with sv := { s.sv with queues := putBy (fun y => y.id == x.id) x s.sv.queues } }
def State.modQueue (s : State) (n : Nat) (f : Queue → Queue) : State :=
  { s with sv := { s.sv with queues := s.sv.queues.map fun x => if x.id = n then f x else x } }

def State.stepOf (s : State) (tag : Nat) : Option OpenStep := s.sv.steps.find? fun x => x.tag == tag
def State.modStep (s : State) (tag : Nat) (f : OpenStep → OpenStep) : State :=
  { s with sv := { s.sv with steps := s.sv.steps.map fun x => if x.tag = tag then f x else x } }

/-- Whether any step is open or waits for a round. -/
def State.stepsOpen (s : State) : Bool := !s.sv.steps.isEmpty
def State.stepsQueued (s : State) : Bool := s.sv.queues.any fun q => !q.waiting.isEmpty || !q.reorder.isEmpty

/-! ### Courier ports and routes (10) -/

def freshPort : CourierPort := CourierPort.reset
def State.port (s : State) (k : Nat) : CourierPort := at' s.fb.ports k freshPort
def State.modPort (s : State) (k : Nat) (f : CourierPort → CourierPort) : State :=
  { s with fb := { s.fb with ports := modAt s.fb.ports k f } }

/-- Whether a port is in use: D-ports at or above the cube dimension are not, once it is set (10 R307). -/
def State.portInUse (s : State) (k : Nat) : Bool := k < 12 && (10 ≤ k || !s.fb.coordValid || k < s.fb.dim)

/-- (PRIMARY, DETOUR) of a destination (10 R333). -/
def State.route (s : State) (dest : Nat) : Nat × Nat := lookupD s.fb.routes dest (15, 15)

/-- Whether this module is the time root (13 STEP_STAT.ROOT). -/
def State.isRoot (s : State) : Bool := s.fb.coordValid && s.fb.coord == s.fb.timeRoot

/-- PORT of the time parent (10 R340). -/
def State.timeParent (s : State) : Option Nat :=
  if s.isRoot ∨ !s.fb.coordValid then none
  else
    let p := (s.route s.fb.timeRoot).1
    if p < 12 then some p else none

/-- ALIGNED (10 R345) as STEP_STAT shows it. -/
def State.isAligned (s : State) : Bool := s.tm.valid && (s.isRoot || s.tm.aligned)

def State.dsp (s : State) (p : Nat) : DspPort := at' s.dp.ports p DspPort.reset
def State.modDsp (s : State) (p : Nat) (f : DspPort → DspPort) : State :=
  { s with dp := { s.dp with ports := modAt s.dp.ports p f } }

end Sys2Proof.Machine
end

