-- ==== Sys2Proof/Machine/Regs.lean ====
section
/-! DEFINITION. The physical register file (13): which registers there are, which of their bits are stored, what each
reads, the configuration set and its CRC (13 R448). Table 13.13's 'stale' mirrors are those whose source is stopped: the
source's state does not change while it is. -/

set_option Elab.async false

namespace Sys2Proof.Machine

/-! ### The map -/

/-- Stored bits of a register: RW mask, RWP mask, reset value of both (00 Table 0.7). -/
structure RegInfo where
  rw : Nat
  rwp : Nat
  reset : Nat
  deriving DecidableEq, Repr

/-- `len` one bits from bit `lo`. -/
def mask (lo len : Nat) : Nat := (2 ^ len - 1) * 2 ^ lo

/-- A register whose fields are RO, RC or RSQ in the low `n` bits and reserved RWP above. -/
def roLow (n : Nat) : RegInfo := ⟨0, mask n (32 - n), 0⟩

def identityInfo (a : Nat) : Option RegInfo :=
  if a = 0 then some (roLow 32)
  else if a = 0x4 then some (roLow 24)
  else if a = 0x8 then some ⟨0, mask 3 5 + mask 11 5 + mask 18 14, 0⟩
  else if 0x10 ≤ a ∧ a ≤ 0x38 then some (roLow 32)
  else if a = 0x3C then some (roLow 24)
  else if 0x40 ≤ a ∧ a ≤ 0x4C then some (roLow 15)
  else if a = 0x80 then some (roLow 9)
  else none

/-- Letterbox registers hold their RW fields in the letterbox itself; the RWP bits of LB_STAT stand in the file. -/
def letterboxInfo (off : Nat) : Option RegInfo :=
  if off = 0 then some ⟨mask 0 13, mask 13 19, 0⟩
  else if off = 4 then some ⟨mask 0 32, 0, 0⟩
  else if off = 8 then some ⟨0, mask 3 13, 0⟩
  else if 0x40 ≤ off ∧ off ≤ 0x7C then some (roLow 32)
  else none

def eventInfo (off : Nat) : Option RegInfo :=
  if off = 0 ∨ off = 4 ∨ off = 0xC then some (roLow 32)
  else if off = 8 then some (roLow 6)
  else if off = 0x10 then some (roLow 1)
  else if 0x800 ≤ off then some (roLow 32)
  else none

def sealInfo (off : Nat) : Option RegInfo :=
  if off = 0 then some ⟨0, mask 2 30, 0⟩
  else if off = 4 then some (roLow 4)
  else if 8 ≤ off ∧ off ≤ 0x14 then some (roLow 32)
  else none

def powerInfo (off : Nat) : Option RegInfo :=
  if off = 0 then some ⟨0, mask 7 1 + mask 12 20, 0⟩
  else if off = 4 then some ⟨mask 0 15, mask 15 17, 0x4000⟩
  else if off = 8 then some ⟨mask 0 11, mask 11 21, 0x7FF⟩
  else if off = 0xC then some ⟨0, mask 11 5 + mask 29 3, 0⟩
  else if off = 0x10 then some (roLow 32)
  else if off = 0x14 then some (roLow 16)
  else if off = 0x18 then some ⟨mask 0 16, mask 16 16, 0x7A12⟩
  else if off = 0x1C then some (roLow 4)
  else if off = 0x20 then some (roLow 14)
  else none

def thermalInfo (off : Nat) : Option RegInfo :=
  if off = 0 then some (roLow 21)
  else if 4 ≤ off ∧ off ≤ 0x14 then some (roLow 18)
  else if off = 0x20 then some ⟨mask 0 21, mask 21 11, 0x409F0⟩
  else if off = 0x24 then some (roLow 7)
  else if off = 0x28 then some (roLow 21)
  else if 0x400 ≤ off ∧ off < 0x400 + 4 * 272 then some (roLow 13)
  else none

def hostInfo (off : Nat) : Option RegInfo :=
  if off = 0 then some ⟨mask 0 9 + mask 16 14, mask 9 7 + mask 30 2, 0x000A0000⟩
  else if off = 4 ∨ off = 8 then some ⟨0, mask 13 3 + mask 21 11, 0⟩
  else if off = 0x10 ∨ off = 0x20 then some (roLow 5)
  else if 0x14 ≤ off ∧ off ≤ 0x2C then some (roLow 32)
  else if off = 0x40 then some (roLow 20)
  else if off = 0x44 then some (roLow 32)
  else if off = 0x48 then some (roLow 10)
  else if off = 0x50 ∨ off = 0x54 then some (roLow 32)
  else if off = 0x58 then some ⟨0, mask 3 5 + mask 20 12, 0⟩
  else if 0x100 ≤ off ∧ off < 0x1C0 then some (if off % 16 = 0 then roLow 22 else roLow 32)
  else if 0x400 ≤ off ∧ off < 0x800 then some (roLow 32)
  else none

def counterInfo (off : Nat) : Option RegInfo :=
  if off ≤ 0x10 then some (roLow 32)
  else if 0x20 ≤ off ∧ off ≤ 0x38 then some (roLow 32)
  else if off = 0x40 then some (roLow 1)
  else if off = 0x44 then some (roLow 32)
  else if 0x100 ≤ off ∧ off < 0x180 then some (roLow 32)
  else none

def seqInfo (w1 : Nat) : RegInfo := ⟨mask 0 7 + mask 8 9, mask 7 1 + mask (17 + w1) (15 - w1), 0x200⟩

def sadcInfo (off : Nat) : Option RegInfo :=
  if off = 0 then some ⟨mask 0 8, mask 10 22, 0⟩
  else if off = 4 then some ⟨0, mask 8 8, 0⟩
  else if 0x40 ≤ off ∧ off ≤ 0x7C then some (seqInfo 0)
  else if (0x80 ≤ off ∧ off ≤ 0xBC) ∨ off = 0xC4 then some ⟨0, mask 13 3, 0⟩
  else if off = 0xC0 then some (seqInfo 1)
  else if 0x100 ≤ off ∧ off < 0x120 then
    some (if off % 8 = 0 then ⟨mask 0 6, mask 6 26, 0⟩ else ⟨mask 0 12 + mask 16 12, mask 12 4 + mask 28 4, 0x0FFF0000⟩)
  else if off = 0x140 then some (roLow 4)
  else none

def calInfo (off : Nat) : Option RegInfo :=
  if off < 0x1000 then
    some (if off % 16 = 4 then ⟨0, mask 2 6 + mask 16 16, 0⟩ else roLow 32)
  else if off = 0x1000 then some ⟨0, mask 5 27, 0⟩
  else if off = 0x1004 then some (roLow 21)
  else if off = 0x1008 ∨ off = 0x100C then some (roLow 32)
  else none

def deadInfo (off : Nat) : Option RegInfo :=
  if off = 0 then some ⟨0, mask 18 6 + mask 26 5, 0⟩
  else if 4 ≤ off ∧ off ≤ 0xC then some (roLow 32)
  else if off = 0x10 then some ⟨0, mask 3 29, 0⟩
  else if off = 0x20 then some ⟨mask 0 20, mask 20 12, 0⟩
  else if 0x100 ≤ off ∧ off < 0x200 then some (roLow 32)
  else none

/-- Base and size of the block that holds an address (13 Table 13.1). -/
def blockOf (a : Nat) : Option (Nat × Nat) :=
  if a < 0x8000 then some (a / 0x1000 * 0x1000, 0x1000)
  else if 0x10000 ≤ a ∧ a < 0x15000 then some (a / 0x1000 * 0x1000, 0x1000)
  else if 0x20000 ≤ a ∧ a < 0x22000 then some (0x20000, 0x2000)
  else if 0x30000 ≤ a ∧ a < 0x31000 then some (0x30000, 0x1000)
  else none

/-- Whether an address is a word of the physical map. -/
def physical (a : Nat) : Bool := a % 4 == 0 && (blockOf a).isSome

/-- Whether a block stands in the always-on island (13 Table 13.1). -/
def alwaysOn (a : Nat) : Bool :=
  a < 0x1000 || (0x4000 ≤ a && a < 0x6000) || (0x30000 ≤ a && a < 0x31000)

/-- The register at a byte address; none where the address names no register. -/
def regInfo (a : Nat) : Option RegInfo :=
  if a % 4 ≠ 0 then none
  else if a < 0x1000 then identityInfo a
  else if a < 0x2000 then letterboxInfo ((a - 0x1000) % 0x80) |>.filter fun _ => a < 0x1800
  else if a < 0x3000 then eventInfo (a - 0x2000)
  else if a < 0x4000 then sealInfo (a - 0x3000)
  else if a < 0x5000 then powerInfo (a - 0x4000)
  else if a < 0x6000 then thermalInfo (a - 0x5000)
  else if a < 0x7000 then hostInfo (a - 0x6000)
  else if a < 0x8000 then counterInfo (a - 0x7000)
  else if 0x10000 ≤ a ∧ a < 0x15000 then sadcInfo (a % 0x1000)
  else if 0x20000 ≤ a ∧ a < 0x22000 then calInfo (a - 0x20000)
  else if 0x30000 ≤ a ∧ a < 0x31000 then deadInfo (a - 0x30000)
  else none

/-- Whether an address belongs to the configuration set (13 R448). -/
def inConfigSet (a : Nat) : Bool :=
  match regInfo a with
  | none => false
  | some i => (i.rw != 0 || i.rwp != 0) && !((0x1000 ≤ a && a < 0x4000) || 0x30000 ≤ a)

/-! ### Stored bits -/

/-- The stored (RW and RWP) bits of a register. -/
def State.stored (s : State) (a : Nat) : Nat :=
  match s.rg.stored.find? fun e => e.1 == a with
  | some e => e.2.toNat
  | none =>
    match regInfo a with
    | some i => i.reset
    | none => 0

/-- Set a key of a list whose keys rise. -/
def putRising (a : Nat) (v : Word) : List (Nat × Word) → List (Nat × Word)
  | [] => [(a, v)]
  | e :: es => if a < e.1 then (a, v) :: e :: es else if a = e.1 then (a, v) :: es else e :: putRising a v es

/-- Stored bits after a change; only bits that differ from the reset value are listed. -/
def storeIn (l : List (Nat × Word)) (a v : Nat) : List (Nat × Word) :=
  let reset := match regInfo a with
    | some i => i.reset
    | none => 0
  if v = reset then l.filter fun e => e.1 != a else putRising a (BitVec.ofNat 32 v) l

def State.store (s : State) (a v : Nat) : State := { s with rg := { s.rg with stored := storeIn s.rg.stored a v } }

/-- A field of the stored bits. -/
def State.storedField (s : State) (a lo len : Nat) : Nat := bits (s.stored a) lo len

/-- Bits of `v` under a mask. -/
def under (v m : Nat) : Nat := Nat.land v m

/-- The value the register takes from a write: each RW field with the limits that its Meaning states (13 Table 13.10,
15 Tables 15.9-15.11), RWP bits as written. `old` is the stored value before. -/
def writtenValue (a old v : Nat) : Nat :=
  match regInfo a with
  | none => 0
  | some i =>
    let w := under v (i.rw + i.rwp)
    let put (lo len x : Nat) : Nat := w - bits w lo len * 2 ^ lo + x * 2 ^ lo
    let clampN (lo hi x : Nat) : Nat := Nat.min hi (Nat.max lo x)
    if a = 0x4004 then
      let h := bits w 0 14
      put 0 14 (if h = 0 then 0 else clampN 10 10000 h)
    else if a = 0x4018 then put 0 16 (clampN 4000 31250 (bits w 0 16))
    else if a = 0x5020 then
      let w1 := put 0 12 (clampN 0x860 0x9F0 (bits w 0 12))
      w1 - bits w1 12 9 * 2 ^ 12 + clampN 8 256 (bits w1 12 9) * 2 ^ 12
    else if a = 0x6000 then
      let w1 := put 0 9 (Nat.min 256 (bits w 0 9))
      w1 - bits w1 16 14 * 2 ^ 16 + clampN 1 10000 (bits w1 16 14) * 2 ^ 16
    else if 0x10000 ≤ a ∧ a < 0x15000 ∧ a % 0x1000 = 0 then
      if bits w 1 2 = 3 then put 1 2 (bits old 1 2) else w
    else if 0x10000 ≤ a ∧ a < 0x15000 ∧ ((0x40 ≤ a % 0x1000 ∧ a % 0x1000 ≤ 0x7C) ∨ a % 0x1000 = 0xC0) then
      put 8 9 (clampN 2 256 (bits w 8 9))
    else w

/-! ### Values of RO, RC and RSQ fields -/

/-- A field in its place. -/
def place (v lo len : Nat) : Nat := v % 2 ^ len * 2 ^ lo

/-- A temperature field: (T + 64 degC) x 16 (15 Table 15.10). -/
def tempField (r : Int) : Nat := ofSigned 12 (r + 1024)

def PowerState.code : PowerState → Nat
  | .p0 => 0 | .p1 => 1 | .p2 => 2 | .p3 => 3 | .p4 => 4

def RunState.code : RunState → Nat
  | .booting => 0 | .running => 1 | .halted => 2 | .bootFailed => 3

def DspState.code : DspState → Nat
  | .down => 0 | .training => 1 | .up => 2 | .retrain => 3 | .failed => 4

def PortState.code : PortState → Nat
  | .off => 0 | .detect => 1 | .select => 2 | .check => 3 | .up => 4 | .retrain => 5 | .keepalive => 6 | .miswired => 7
  | .failed => 8

/-- MIRROR_STAT (13 R436, R437). -/
def State.mirrorStat (s : State) : Nat :=
  sumList ((List.range 4).map fun n => b2n (at' s.rg.mirrorA n true) * 2 ^ n) + 16 * b2n (!s.hcoreRuns) +
    32 * b2n s.rg.mirrorHbm + 64 * b2n s.rg.mirrorCourier + 128 * b2n s.rg.mirrorDispatch + 256 * b2n (!s.tm.valid)

/-- LAST_UPDATE as the boot shows it: its reset value until the boot control block has been read, which follows the choice of a record
(12 R419, 13 R433). -/
def State.lastUpdate (s : State) : Nat := if s.bt.record.isSome then s.bt.control.lastUpdate else 0

def State.identityValue (s : State) (a : Nat) : Nat :=
  let rec' (f : ConfigRecord → Nat) : Nat := match s.bt.record with
    | some r => f r
    | none => 0
  let img (f : Image → Nat) : Nat := match s.bt.image with
    | some i => f i
    | none => 0
  if a = 0 then 0x4C335053
  else if a = 4 then
    0x0101 + 0x10000 * (match s.bt.record with
      | some r => r.stepping % 256
      | none => 0xB1)
  else if a = 8 then
    b2n s.bt.compat + 2 * b2n (s.bt.slot == 1) + 4 * b2n s.bt.trialBoot + place s.bt.bootFail 8 3 +
      place s.lastUpdate 16 2
  else if a < 0x20 then rec' fun r => fld (r.orderCode.map (BitVec.ofNat 8)) (a - 0x10) 4
  else if a = 0x20 then rec' fun r => r.serial % 2 ^ 32
  else if a = 0x24 then rec' fun r => r.serial / 2 ^ 32 % 2 ^ 32
  else if a = 0x28 then img fun i => i.fwVersion
  else if a = 0x2C then img fun i => i.svn
  else if a = 0x30 then rec' fun r => r.recordSeq
  else if a = 0x34 then img fun i => i.cmdset
  else if a = 0x38 then rec' fun r => place r.tdpW 0 16 + place r.pinLimitW 16 16
  else if a = 0x3C then rec' fun r => place r.clkAMhz 0 16 + place r.slotDuty 16 8
  else if a ≤ 0x4C then
    rec' fun r => 16384 - (r.disabled.filter fun t => t.die == (a - 0x40) / 4).eraseDups.length
  else if a = 0x80 then s.mirrorStat
  else 0

/-- The sixteen words of a record (13 Table 13.6). -/
def Record.words (r : Record) : List Nat :=
  [place r.code 0 16 + place r.source 16 3, r.seq, r.time % 2 ^ 32, r.time / 2 ^ 32 % 2 ^ 32] ++
    ((List.range 12).map fun i => at' r.detail i 0 % 2 ^ 32)

/-- ALERT_N is driven low (16 R529): by event records that pend in P0 Run and P1 Hold, by throttling or a trip in every state. -/
def State.alertLow (s : State) : Bool :=
  s.pw.supplied && (((s.pw.state == .p0 || s.pw.state == .p1) && !s.ev.held.isEmpty) || s.pw.k != 0 || s.th.trip)

/-- TRIP_N is driven low (16 R529): from a trip until a reset or the loss of power. -/
def State.tripLow (s : State) : Bool := s.pw.supplied && s.th.trip

def State.eventValue (s : State) (off : Nat) : Nat :=
  if off = 0 then ((s.ev.held.getLast?).map (·.seq)).getD 0
  else if off = 4 then ((s.ev.held.head?).map (·.seq)).getD 0
  else if off = 8 then s.ev.held.length
  else if off = 0xC then s.ev.lost % 2 ^ 32
  else if off = 0x10 then b2n (!s.ev.held.isEmpty)
  else
    match s.ev.held.find? fun r => r.seq % 32 == (off - 0x800) / 0x40 with
    | some r => at' r.words ((off - 0x800) % 0x40 / 4) 0
    | none => 0

def State.letterboxValue (s : State) (a : Nat) : Nat :=
  let b := at' s.rg.boxes ((a - 0x1000) / 0x80) Letterbox.reset
  let off := (a - 0x1000) % 0x80
  if off = 0 then b.sel.toNat
  else if off = 4 then b.addr.toNat
  else if off = 8 then b2n b.valid + 2 * b2n b.error + 4 * b2n b.stale + place b.seq 16 16
  else (at' b.data ((off - 0x40) / 4) 0).toNat

def State.sealValue (s : State) (off : Nat) : Nat :=
  let q := s.rg.sealed
  if off = 4 then b2n q.opened + 2 * b2n q.pending + 4 * b2n (!q.opened && q.ref.isSome && q.ref != some q.last) + 8 * b2n q.noRef
  else if off = 8 then (q.ref.getD 0).toNat
  else if off = 0xC then q.last.toNat
  else if off = 0x10 then q.scans % 2 ^ 32
  else if off = 0x14 then q.faults % 2 ^ 32
  else 0

/-- The effective power limit in 1/16 W (15 R489). -/
def State.effectiveLimit16 (s : State) : Nat :=
  let tdp := s.tdp
  let cap := Nat.min (16 * tdp) (Nat.max (2 * tdp) (16 * s.storedField 0x4008 0 11))
  Nat.min (Nat.min (16 * tdp) cap) (tdp * (16 - s.pw.k))

/-- The trailing average of the held 10 us averages, in 1/16 W. -/
def avgList (l : List Nat) : Nat := if l.isEmpty then 0 else sumList l / l.length

def State.powerValue (s : State) (off : Nat) : Nat :=
  let p := s.pw
  if off = 0 then
    let target := match p.entry with
      | some e => e.target.code
      | none => 0
    place p.state.code 0 3 + 8 * b2n p.entry.isSome + place target 4 3 + place p.wake 8 4
  else if off = 0xC then
    place (s.effectiveLimit16 / 16) 0 11 + place p.k 16 4 + place p.duty 20 5 + place p.clkdown 25 4
  else if off = 0x10 then if p.sampled then place p.vinMv 0 16 + place p.iinMa 16 16 else 0
  else if off = 0x14 then place (Nat.min 0xFFFF (avgList p.pins)) 0 16
  else if off = 0x1C then
    b2n p.guardPin + 2 * b2n p.guardRail + 4 * b2n (p.sampled && p.vinMv < 40000) +
      8 * b2n (p.sampled && 59500 < p.vinMv)
  else if off = 0x20 then place p.railQuarterAmps 0 14
  else 0

def State.maxField (s : State) (p : Nat → Bool) (base w : Nat) : Nat :=
  match s.hottest p with
  | some m => tempField m.1 + place (m.2 - base) 12 w
  | none => 0

def State.thermalValue (s : State) (off : Nat) : Nat :=
  let t := s.th
  if off = 0 then s.maxField (fun _ => true) 0 9
  else if off ≤ 0x14 then
    let die := (off - 4) / 4
    s.maxField (fun i => sensorDie i == die) (64 * die) 6
  else if off = 0x24 then
    b2n t.tempTrig + 2 * b2n t.rateTrig + 4 * b2n t.currTrig + 8 * b2n (s.pw.k != 0) +
      16 * b2n (t.sensors.any fun x => x.failed) + 32 * b2n t.trip + 64 * b2n t.provisional
  else if off = 0x28 then
    if t.trip then place t.tripSensor 0 9 + place (tempField t.tripReading) 9 12 else 0
  else if 0x400 ≤ off then
    match s.sensor ((off - 0x400) / 4) with
    | some x => tempField x.reading + 4096 * b2n x.failed
    | none => 0
  else 0

/-- DEPTH that this module shows and sends: the root's is 0 (10 Table 10.10, 13 Table 13.10). -/
def State.timeDepth (s : State) : Nat := if s.isRoot then 0 else s.tm.depth % 256

/-- Words of 256 bytes in an intake queue: the model takes every frame at once, so what stands is what a command says. -/
def State.hostValue (s : State) (off : Nat) : Nat :=
  if off = 4 ∨ off = 8 then
    let d := s.dsp ((off - 4) / 4)
    place d.intake0.words.length 0 13 + place d.intake1.words.length 16 5
  else if 0x10 ≤ off ∧ off < 0x30 then
    let d := s.dsp ((off - 0x10) / 0x10)
    let f := off % 16
    if f = 0 then place d.state.code 0 3 + place d.gen 3 2
    else if f = 4 then d.hdrErr % 2 ^ 32
    else if f = 8 then d.link.crcErr % 2 ^ 32
    else d.link.retry % 2 ^ 32
  else if off = 0x40 then
    place s.fb.coord 0 10 + 1024 * b2n s.fb.coordValid + place s.fb.dim 11 4 + place s.fb.twist 15 5
  else if off = 0x44 then s.fb.fabricId
  else if off = 0x48 then place s.fb.timeRoot 0 10
  else if off = 0x50 then s.time % 2 ^ 32
  else if off = 0x54 then s.time / 2 ^ 32 % 2 ^ 32
  else if off = 0x58 then
    b2n s.tm.valid + 2 * b2n s.isAligned + 4 * b2n s.isRoot + place s.timeDepth 8 8 +
      place (s.timeParent.getD 15) 16 4
  else if 0x100 ≤ off ∧ off < 0x1C0 then
    let p := s.port ((off - 0x100) / 16)
    let f := off % 16
    if f = 0 then place p.state.code 0 4 + place p.gen 4 2 + place p.lanes 6 2 + place p.partner 8 10 + place p.pport 18 4
    else if f = 4 then p.link.crcErr % 2 ^ 32
    else if f = 8 then p.link.retry % 2 ^ 32
    else p.link.downs % 2 ^ 32
  else if 0x400 ≤ off ∧ off < 0x800 then
    sumList ((List.range 4).map fun i =>
      let r := s.route ((off - 0x400) + i)
      (place r.1 0 4 + place r.2 4 4) * 256 ^ i)
  else 0

def State.counterValue (s : State) (off : Nat) : Nat :=
  let r := s.rg
  let v : Nat :=
    if off < 0x10 then at' r.staleDrain (off / 4) 0
    else if off = 0x10 then r.staleContrib
    else if off = 0x20 then r.dropVersion
    else if off = 0x24 then r.dropType
    else if off = 0x28 then r.dropNoPort
    else if off = 0x2C then r.dropHops
    else if off = 0x30 then r.dropE2e
    else if off = 0x34 then r.dropActivation
    else if off = 0x38 then r.dropJob
    else if off = 0x40 then b2n s.sv.stormBit
    else if off = 0x44 then s.sv.stormFraction
    else if 0x100 ≤ off then
      (if off % 8 = 0 then at' r.eccCorr ((off - 0x100) / 8) 0 else at' r.eccDet ((off - 0x100) / 8) 0)
    else 0
  v % 2 ^ 32

def State.adc (s : State) (n : Nat) : Adc := at' s.adcs n
  { settled := false, since := 0, busy := false, injBusy := false, trace := false, entry := 0, passes := 0, results := [],
    inj := AdcResult.reset, out := [], stopping := false, passLen := 0, passSeq := [], held := [], ctl := 0 }

def resultField (r : AdcResult) : Nat := place r.value 0 12 + 4096 * b2n r.settled + place r.count 16 16

def State.sadcValue (s : State) (a : Nat) : Nat :=
  let d := s.adc ((a - 0x10000) / 0x1000)
  let off := a % 0x1000
  if off = 4 then
    b2n d.settled + 2 * b2n d.busy + 4 * b2n d.injBusy + 8 * b2n d.trace + place d.entry 4 4 + place d.passes 16 16
  else if 0x80 ≤ off ∧ off ≤ 0xBC then resultField (at' d.results ((off - 0x80) / 4) AdcResult.reset)
  else if off = 0xC4 then resultField d.inj
  else if off = 0x140 then sumList ((List.range 4).map fun k => b2n (at' d.out k false) * 2 ^ k)
  else 0

/-- Whether an array holds a record for CAL_STAT and Table 7.6: a working array with codes, a spare with a tag. -/
def State.holdsRecord (s : State) (a : ArrId) : Bool :=
  let d := s.dir a
  if a.arr = 16 then d.spareTag.isSome else (s.record a).isSome && d.astate != .free

/-- The arrays the directory lists in a region. -/
def State.regionArrays (s : State) (die unit : Nat) : List ArrId :=
  (s.wt.directory.map (·.1)).filter fun a => a.die == die && a.tile / 256 == unit

/-- Calibration requests that wait on a tile: those in its queue, and one whose run has yet to begin, or to begin again, for want of the window or of
a traced reference (07 R222). -/
def State.waiting (s : State) (t : Tile) : Nat :=
  t.calQueue.length + b2n (t.run.any fun r => r.fires == 0 && !(s.runWindow t.id && s.traced))

/-- CAL_STAT of a group as the array die has it (07 R233). -/
def State.calStatNow (s : State) (g : Nat) : Nat :=
  let die := g / 64
  let unit := g % 64
  let depth := sumList ((s.tl.tiles.filter fun t => t.id.die == die && t.id.tile / 256 == unit).map
    s.waiting)
  let invalid :=
    if s.bt.run = .running ∨ s.bt.run = .halted then (s.regionArrays die unit).any fun a => s.holdsRecord a && !s.calValid a else true
  b2n invalid + 2 * b2n (depth != 0) + place (Nat.min 255 depth) 8 8

/-- CAL_STAT as its mirror shows it: while the array die stands, the value held (13 R437, Table 13.13). -/
def State.calStat (s : State) (g : Nat) : Nat :=
  if at' s.rg.mirrorA (g / 64) false && !s.rg.calHeld.isEmpty then at' s.rg.calHeld g 0 else s.calStatNow g

def State.calValue (s : State) (off : Nat) : Nat :=
  if off < 0x1000 then
    let g := off / 16
    let e := (s.cl.groups.find? fun e => e.1 == g).getD (g, 0, some 0)
    if off % 16 = 0 then e.2.1 % 2 ^ 32
    else if off % 16 = 4 then s.calStat g
    else if off % 16 = 8 then e.2.2.getD 0 % 2 ^ 32
    else e.2.2.getD 0 / 2 ^ 32 % 2 ^ 32
  else if off = 0x1000 then b2n (!s.traced) + 2 * b2n s.cl.busy + place s.cl.last 2 2
  else if off = 0x1004 then place s.cl.microvolts 0 20 + 0x100000 * b2n s.cl.sat
  else
    let t := match s.cl.refTime with
      | some (some t) => t
      | _ => 0
    if off = 0x1008 then t % 2 ^ 32 else t / 2 ^ 32 % 2 ^ 32

/-- Whether DL_DATA and DLREAD OP 1 can read the dumps (12 R429, 13 R456). -/
def State.dumpReadable (s : State) : Bool :=
  s.bt.hbmReady && s.pw.supplied && s.pw.stop.isNone && s.pw.state != .p3 && s.pw.state != .p4

/-- The unread dumps as a two-bit mask (12 R428 VALID). -/
def State.dumpValid (s : State) : Nat :=
  sumList ((List.range 2).map fun i =>
    match at' s.bt.dumps i none with
    | some d => b2n d.unread * 2 ^ i
    | none => 0)

end Sys2Proof.Machine
end

