-- ==== Sys2Proof/Machine/Claims.lean ====
section
/-! DEFINITION. Calibration requests and runs of a tile (07 R227-R230), claims of its spare (06 R197, Table 6.7), and what a tile gives
up when the arrays of a model are released (06 R196, R203). -/

set_option Elab.async false

namespace Sys2Proof.Machine

/-! ### Requests and runs (07 R227-R230) -/

/-- The earlier of two stamps; one without a value comes later. -/
def Stamp.earlier (a b : Stamp) : Stamp :=
  match a, b with
  | some x, some y => some (Nat.min x y)
  | some x, none => some x
  | none, y => y

/-- A request put into a tile's queue, merged with one that waits, or that a run without a first fire serves (07 R228). -/
def Tile.putRequest (t : Tile) (r : CalRequest) : Tile :=
  let join (w : CalRequest) : CalRequest := ⟨w.arr, Nat.min w.cls r.cls, Stamp.earlier w.since r.since, w.first || r.first, w.programmed⟩
  match t.run.filter fun x => x.arr == r.arr && x.fires == 0 with
  | some x => { t with run := some { x with cls := Nat.min x.cls r.cls, since := Stamp.earlier x.since r.since } }
  | none =>
    if t.calQueue.any fun w => w.arr == r.arr then
      { t with calQueue := t.calQueue.map fun w => if w.arr = r.arr then join w else w }
    else { t with calQueue := t.calQueue ++ [r] }

/-- A calibration request for an array that arises now (07 R227). -/
def State.requestCal (s : State) (a : ArrId) (cls : Nat) : State :=
  s.modTile a.tid fun t => t.putRequest ⟨a.arr, cls, s.stamp, false, false⟩

/-- A run discarded with nothing written; a direct run's VALID is again what 07 R214 gives (07 Table 7.7). `requeue`: its request
returns to the queue with its class and time, before all others when `first` says so. -/
def State.dropRun (s : State) (tid : TileId) (requeue first : Bool) : State :=
  match (s.tile tid).run with
  | none => s
  | some r =>
    let s1 := s.modTile tid fun t =>
      let t1 := { t with run := none }
      if requeue then t1.putRequest ⟨r.arr, r.cls, r.since, first, false⟩ else t1
    if r.covered then s1 else s1.modFranking (tid.array r.arr) fun f => { f with directRun := false }

/-- A run discarded; a stand-in held for it is released at the next fire boundary (07 R230). -/
def State.discardRun (s : State) (tid : TileId) (requeue : Bool) : State :=
  let s1 := s.dropRun tid requeue false
  if (s.tile tid).run.any CalRun.covered then s1.modTile tid fun t => { t with standInNext := some none, claim := none } else s1

/-! ### The spare (06 R197, Table 6.7) -/

/-- The spare IDLE: it stands in for nothing and its entry carries no tag. -/
def State.idleSpare (s : State) (tid : TileId) : State :=
  (s.modTile tid fun t => { t with spare := .idle, standInNext := none }).modDir (tid.array 16) fun d =>
    { d with astate := .free, spareTag := none, model := 0 }

/-- A claim ends: a stand-in is released at the next fire boundary, and a spare that does not stand in yet is free for another claim. -/
def State.endClaim (s : State) (tid : TileId) : State :=
  s.modTile tid fun t =>
    match t.spare with
    | .standing _ => { t with standInNext := some none }
    | _ => { t with claim := none, standInNext := none }

/-- Whether the codes in the spare's cells are those of array `k` as its record has them now. Without a resident record they are taken
to be, while the array has not been released. -/
def State.holdsCodesOf (s : State) (tid : TileId) (k : Nat) : Bool :=
  match s.record (tid.array k) with
  | some r => s.cells (tid.array 16) == some r
  | none => (s.dir (tid.array k)).astate != .free

/-! ### Release of a model's arrays (06 R196, R197, R203) -/

/-- An array at its model's release (06 Table 6.5): COVERED and REWRITING wait for the program in progress, and hold no model from now
on. LOADING and SETTLING have no row in the table: they are FREE at once (DESIGN CHOICE, log entry 47). -/
def DirEntry.released (d : DirEntry) : DirEntry :=
  match d.astate with
  | .covered | .rewriting => { d with model := 0 }
  | _ => { d with astate := .free, model := 0 }

/-- Whether a unit's cache holds an array's lists. -/
def Region.lists (r : Region) (a : ArrId) : Option CachedLists := r.cache.find? fun e => e.arr == a

/-- A unit without the lists of some arrays, in its cache or on their way: they belong to a record that stands no more (04 R106). -/
def Region.dropLists (r : Region) (gone : ArrId → Bool) : Region :=
  { r with cache := r.cache.filter fun e => !gone e.arr, fetching := r.fetching.filter fun a => !gone a }

/-- Whether the driver has begun a program of an array that has not settled. -/
def Tile.programming (t : Tile) (k : Nat) : Bool :=
  (t.prog.any fun p => p.arr == k) || (t.preempted.any fun p => p.arr == k) || t.settling.any fun e => e.1 == k

/-- What waits on a tile for released arrays is dropped; a program in progress goes on. -/
def Tile.forget (gone : Nat → Bool) (t : Tile) : Tile :=
  { t with progQueue := t.progQueue.filter fun p => !(gone p.arr || (p.arr == 16 && gone p.source)),
           rewrites := t.rewrites.filter fun k => !gone k,
           calQueue := t.calQueue.filter fun r => !gone r.arr,
           scans := t.scans.filter fun e => !gone e.1 }

/-- The spare of a tile some of whose arrays are released: a claim for one of them ends. A load not begun is dropped, one in progress
completes; the stand-in for an array whose program is in progress stays until that has settled. -/
def State.releaseSpare (s : State) (tid : TileId) (gone : Nat → Bool) : State :=
  let t := s.tile tid
  match t.spare with
  | .idle => s
  | .loading k =>
    if !gone k then s
    else if t.progQueue.any fun p => p.arr == 16 then (s.endClaim tid).idleSpare tid else s.endClaim tid
  | .ready k => if gone k then (s.endClaim tid).idleSpare tid else s
  | .standing k => if gone k && !t.programming k then s.endClaim tid else s

/-- What a tile gives up for released arrays: the run of one is discarded, the spare's claim for one ends, what waits is dropped. -/
def State.releaseTile (s : State) (tid : TileId) (gone : Nat → Bool) : State :=
  let s1 := if (s.tile tid).run.any fun r => gone r.arr then s.dropRun tid false false else s
  (s1.releaseSpare tid gone).modTile tid (Tile.forget gone)

end Sys2Proof.Machine
end

