-- ==== Sys2Proof/Machine/Lanes.lean ====
section
/-! DEFINITION. The lanes below the flits: lane markers and striping on a Courier port (10 R308, R310, R317), and the PCS packets of a Dispatch
port (11 R358). A row brings a flit as these give it (log entry 63). -/

set_option Elab.async false

namespace Sys2Proof.Machine

/-! ### Courier lanes (10 R310, R317) -/

/-- The lane marker of a lane. -/
def laneMarker (n : Nat) : Bytes := natLe 3 0xC35A0F ++ natLe 1 n ++ natLe 1 (255 - n) ++ natLe 3 0xF0A53C

/-- What lane `i` of `n` takes of units dealt in turn, in lane order. -/
def dealt {α : Type} (n i : Nat) (l : List α) (d : α) : List α := (List.range (l.length / n)).map fun k => at' l (n * k + i) d

/-- The units of lanes of one length, taken in turn. -/
def woven {α : Type} (ls : List (List α)) (d : α) : List α :=
  (List.range (at' ls 0 []).length).flatMap fun k => ls.map fun l => at' l k d

/-- The active lanes of a port by LANES (10 R311). -/
def activeLanes (lanes : Nat) : List Nat := if lanes = 3 then List.range 8 else if lanes = 1 then [0, 1, 2, 3] else [4, 5, 6, 7]

/-- What the active lane at place `i` of `n` carries of a Courier-1 flit: its bytes, and the marker of its lane when one follows. -/
def laneBytes (n i lane : Nat) (flit : Bytes) (marker : Bool) : Bytes :=
  dealt n i flit 0 ++ if marker then laneMarker lane else []

/-- The bytes of transmit lane `n` from what the receive lanes took: lane reversal and polarity inversion corrected by the lane numbers and
the polarity of the markers (10 R310). -/
def CourierPort.corrected (p : CourierPort) (raw : Nat → Bytes) (n : Nat) : Bytes :=
  match p.locked.find? fun e => e.2.1 == n with
  | some e => if e.2.2 then (raw e.1).map (~~~ ·) else raw e.1
  | none => []

/-- A Courier-1 flit put together from the receive lanes. -/
def CourierPort.unstriped (p : CourierPort) (raw : Nat → Bytes) : Bytes := woven ((activeLanes p.lanes).map (p.corrected raw)) 0

/-! ### Courier-2 lanes: the RS(544,514) code of IEEE 802.3 clause 91 over symbols of 10 bits (10 R308, R310, R317; log entry 63)

A polynomial is the list of its coefficients, highest power first. -/

/-- The product in GF(2^10), of the field polynomial x^10 + x^3 + 1. -/
def gfMul (a b : Nat) : Nat :=
  ((List.range 10).foldl (fun (r : Nat × Nat) i =>
    (if b.testBit i then r.1 ^^^ r.2 else r.1, if r.2 < 512 then 2 * r.2 else (2 * r.2) ^^^ 0x409)) (0, a)).1

/-- Powers, and the inverse of an element other than 0. -/
def gfPow (a n : Nat) : Nat := (List.range n).foldl (fun r _ => gfMul r a) 1
def gfInv (a : Nat) : Nat := gfPow a 1022

/-- A polynomial at an element. -/
def gfEval (p : List Nat) (x : Nat) : Nat := p.foldl (fun r c => gfMul r x ^^^ c) 0

/-- The sum of two polynomials, their lowest powers under each other. -/
def gfAdd (p q : List Nat) : List Nat :=
  let n := Nat.max p.length q.length
  List.zipWith (· ^^^ ·) (List.replicate (n - p.length) 0 ++ p) (List.replicate (n - q.length) 0 ++ q)

def gfScale (c : Nat) (p : List Nat) : List Nat := p.map (gfMul c)

/-- The generator polynomial: the 30 roots are the powers 0 to 29 of the primitive element. -/
def rsGenerator : List Nat := (List.range 30).foldl (fun p j => gfAdd (p ++ [0]) (gfScale (gfPow 2 j) p)) [1]

/-- The 30 parity symbols of a message: the remainder of the message times x^30 by the generator. -/
def rsParity (m : List Nat) : List Nat :=
  let g := rsGenerator.drop 1
  m.foldl (fun r c => let f := c ^^^ at' r 0 0
                      List.zipWith (· ^^^ ·) (r.drop 1 ++ [0]) (gfScale f g)) (List.replicate 30 0)

/-- The code word of a message of 514 symbols. -/
def rsWord (m : List Nat) : List Nat := m ++ rsParity m

/-- The syndromes of a received word, that of power 0 first. -/
def rsSyndromes (w : List Nat) : List Nat := (List.range 30).map fun j => gfEval w (gfPow 2 j)

/-- The error locator (Berlekamp and Massey): the connection polynomial, the last one and its discrepancy, the length, the steps since. -/
def rsLocator (s : List Nat) : List Nat × Nat :=
  let r := (List.range s.length).foldl (fun (r : List Nat × List Nat × Nat × Nat × Nat) n =>
      let (c, b, l, m, d0) := r
      let d := (List.range (l + 1)).foldl (fun x i => x ^^^ gfMul (at' c.reverse i 0) (at' s (n - i) 0)) 0
      let c1 := gfAdd c (gfScale (gfMul d (gfInv d0)) b ++ List.replicate m 0)
      if d = 0 then (c, b, l, m + 1, d0)
      else if 2 * l ≤ n then (c1, c, n + 1 - l, 1, d)
      else (c1, b, l, m + 1, d0)) ([1], [1], 0, 1, 1)
  (r.1, r.2.2.1)

/-- The value of the error at the place whose locator is `x` (Forney): the evaluator over the locator's derivative, both at the inverse. -/
def rsError (s c : List Nat) (l x : Nat) : Nat :=
  let v := c.reverse
  let omega := (List.range l).map fun k => (List.range (k + 1)).foldl (fun r i => r ^^^ gfMul (at' v i 0) (at' s (k - i) 0)) 0
  let slope := (List.range l).map fun k => if k % 2 = 0 then at' v (k + 1) 0 else 0
  gfMul x (gfMul (gfEval omega.reverse (gfInv x)) (gfInv (gfEval slope.reverse (gfInv x))))

/-- The message of a received word with up to 15 symbols corrected; `none` where it cannot be corrected. -/
def rsCorrect (w : List Nat) : Option (List Nat) :=
  let s := rsSyndromes w
  let c := rsLocator s
  let found := (List.range w.length).filter fun i => gfEval c.1 (gfInv (gfPow 2 (w.length - 1 - i))) == 0
  let fixed := (List.range w.length).map fun i =>
    at' w i 0 ^^^ if found.contains i then rsError s c.1 c.2 (gfPow 2 (w.length - 1 - i)) else 0
  if s.all (· == 0) then some (w.take (w.length - 30))
  else if c.2 ≤ 15 ∧ found.length = c.2 ∧ (rsSyndromes fixed).all (· == 0) then some (fixed.take (w.length - 30))
  else none

/-- The 10-bit symbols of a stream of bytes, the lowest bit first, and the bytes of a stream of symbols; a last part of one is left over. -/
def symbolsOf (b : Bytes) : List Nat := (List.range (8 * b.length / 10)).map fun k => leNat b / 2 ^ (10 * k) % 1024
def bytesOf (l : List Nat) : Bytes :=
  let v := (l.reverse).foldl (fun r c => 1024 * r + c) 0
  natLe (10 * l.length / 8) v

/-- The symbols of a Courier-2 port's stream of flits from code word `k` on: each code word, and the alignment markers due before it. -/
def fecSymbols (k : Nat) (flits : Bytes) : List Nat :=
  let ms := pieces 514 (symbolsOf flits).length (symbolsOf flits)
  (ms.filter fun m => m.length == 514).zipIdx.flatMap fun e => Config.alignMarkers (k + e.2) ++ rsWord e.1

/-- What the active lane at place `i` of `n` carries of it: one symbol per lane in turn. -/
def laneSymbols (n i k : Nat) (flits : Bytes) : List Nat := dealt n i (fecSymbols k flits) 0

/-- The symbols of transmit lane `n` from what the receive lanes took, with the same corrections (10 R310). -/
def CourierPort.correctedSymbols (p : CourierPort) (raw : Nat → List Nat) (n : Nat) : List Nat :=
  match p.locked.find? fun e => e.2.1 == n with
  | some e => if e.2.2 then (raw e.1).map (1023 - ·) else raw e.1
  | none => []

/-- The messages of `n` code words received from code word `k` on, their alignment markers taken out. -/
def fecMessages (k : Nat) : Nat → List Nat → List (Option (List Nat))
  | 0, _ => []
  | n + 1, l =>
    let w := l.drop (Config.alignMarkers k).length
    rsCorrect (w.take 544) :: fecMessages (k + 1) n (w.drop 544)

/-- The bytes of `n` Courier-2 code words put together from the receive lanes; `none` where a code word cannot be corrected, whose flits come with a CRC
that fails. -/
def CourierPort.unstripedWords (p : CourierPort) (raw : Nat → List Nat) (k n : Nat) : Option Bytes :=
  ((fecMessages k n (woven ((activeLanes p.lanes).map (p.correctedSymbols raw)) 0)).mapM id).map fun ms => bytesOf ms.flatten

/-! ### PCS packets (11 R358) -/

/-- A block of the PCS: a start block of type 0x78, a data block, a terminate block of type 0x99, an idle block of type 0x1E, an error. -/
inductive PcsBlock where
  | start (octets : Bytes)
  | data (octets : Bytes)
  | terminate (octet : Byte)
  | idle
  | error
  deriving DecidableEq, Repr

/-- A flit as one PCS packet, and the idle that follows. -/
def pcsPacket (flit : Bytes) : List PcsBlock :=
  .start (flit.take 7) :: (pieces 8 31 ((flit.drop 7).take 248)).map .data ++ [.terminate (at' flit 255 0), .idle]

/-- The flits that a receiver takes from blocks, `cur` being the flit in progress; `none`: a flit discarded, for an error block inside it or a
start block where its terminate block is due. -/
def pcsFlits (cur : Option Bytes) : List PcsBlock → List (Option Bytes)
  | [] => []
  | .idle :: bs => pcsFlits cur bs
  | .start o :: bs => (if cur.isSome then [none] else []) ++ pcsFlits (some o) bs
  | .data o :: bs => pcsFlits (cur.map (· ++ o)) bs
  | .terminate o :: bs => (match cur with
      | some b => [some (b ++ [o])]
      | none => []) ++ pcsFlits none bs
  | .error :: bs => (if cur.isSome then [none] else []) ++ pcsFlits none bs

end Sys2Proof.Machine
end

