-- ==== Sys2Proof/Machine/Flits.lean ====
section
/-! DEFINITION. The flit layer of a link (10 R312-R314, 11 R357): the flits of a frame and their trailers, the transmit queue, credits, the
replay buffer, and what a flit received does. -/

set_option Elab.async false

namespace Sys2Proof.Machine

/-! ### Frames as bytes -/

/-- The 32-byte Courier header (10 Table 10.7). -/
def courierBytes (h : CourierHdr) : Bytes :=
  natLe 1 h.version ++ natLe 1 h.type ++ natLe 2 h.dest ++ natLe 2 h.src ++ natLe 1 h.hops ++
    natLe 1 (b2n h.ordered + 2 * b2n h.detoured) ++ natLe 4 h.job ++ natLe 2 h.length ++ natLe 2 0 ++ natLe 8 h.stamp ++ natLe 8 0

/-- Bytes with their CRC-32C behind them. -/
def sealed (b : Bytes) : Bytes := b ++ natLe 4 (crc32c b)

def CourierTx.bytes (c : CourierTx) : Bytes := sealed (courierBytes c.hdr ++ c.payload)

/-- A Tuiven frame from the device (11 Table 11.2): HCRC over its first 28 bytes, CRC over header and payload. -/
def TxFrame.bytes (f : TxFrame) : Bytes :=
  sealed (sealed (natLe 1 f.version ++ natLe 1 f.type ++ natLe 1 1 ++ natLe 1 f.context ++ natLe 2 f.queue ++ natLe 2 0 ++
    natLe 4 f.payload.length ++ natLe 4 f.seq ++ natLe 8 f.tag ++ natLe 4 0) ++ f.payload)

/-! ### Sending -/

/-- A flit that has not been sent. -/
def newFlit (vc type fkind : Nat) (b : Bytes) : SentFlit :=
  { seq := 0, vc := vc, type := type, fkind := fkind, data := (b ++ natLe 240 0).take 240, ack := 0, nak := false, creditVc := 0, credit := 0,
    sent := 0, resends := 0, marker := false }

/-- The flits of a frame of a TYPE on a virtual channel (10 R312): 240 bytes each, the last padded with zeros. -/
def flitsOf (vc type : Nat) (b : Bytes) : List SentFlit :=
  let ps := pieces 240 (b.length / 240 + 1) b
  (ps.zip (List.range ps.length)).map fun e =>
    newFlit vc type (if ps.length = 1 then 4 else if e.2 = 0 then 1 else if e.2 + 1 = ps.length then 3 else 2) e.1

def idleFlit : SentFlit := newFlit 0 0 0 []

/-- The 256 bytes of a flit (10 Table 10.3): data, trailer, and the CRC over both. -/
def SentFlit.bytes (f : SentFlit) : Bytes :=
  sealed (f.data ++ natLe 2 (f.seq + 4096 * f.vc) ++ natLe 2 (f.ack + 4096 * b2n f.nak) ++ natLe 2 (f.creditVc + 16 * f.credit) ++
    natLe 1 f.fkind ++ natLe 5 0)

/-- Whether a departure stamp is written into a flit as it leaves (10 R341, Table 10.10): the flit of a sync or of a delay request. -/
def SentFlit.stamped (f : SentFlit) : Bool := f.type == 4 && fld f.data 0x20 1 ≤ 1

/-- The flit of a TIME frame with its STAMP_A not before time `t`, and the CRC of the frame computed again. -/
def SentFlit.stamp (f : SentFlit) (t : Nat) : SentFlit :=
  { f with data := sealed (f.data.take 0x28 ++ natLe 8 (Nat.max (fld f.data 0x28 8) t) ++ slice f.data 0x30 0x10) ++ f.data.drop 0x44 }

/-- Flits of the partner's grant: 32 on every channel of a Courier port; 2,048 and 16 on the channels of a Dispatch port (10 R313,
11 R357). -/
def courierGrant (_ : Nat) : Nat := 32
def dispatchGrant (vc : Nat) : Nat := if vc = 0 then 2048 else if vc = 1 then 16 else 0

/-- What a port sends with: the partner's grant by virtual channel, the flits that its state lets go, the tick, and on a Courier port the module's
own time in sixteenths of a tick; and whether lane markers follow every 16 flits, as on Courier-1 (10 R317). -/
structure Sender where
  grant : Nat → Nat
  may : SentFlit → Bool
  now : Nat
  time : Option Nat
  marks : Bool

def Link.credit (l : Link) (grant : Nat → Nat) (vc : Nat) : Nat := lookupD l.credits vc (grant vc)

/-- Whether a waiting flit may go and has credit; an idle flit needs none. -/
def Link.canSend (l : Link) (c : Sender) (f : SentFlit) : Bool := c.may f && (f.fkind == 0 || 0 < l.credit c.grant f.vc)

/-- ACK of a flit sent now: the last SEQ received good and in order. Before any, 4,095, the number before the first (DESIGN CHOICE, log entry 64). -/
def Link.ackSeq (l : Link) : Nat := l.lastGood.getD 4095

/-- The virtual channel and the credits that the next flit returns: all that are owed on the first of the channels that have some. -/
def Link.giving (l : Link) : Nat × Nat := l.owed.headD (0, 0)

/-- A waiting flit as it leaves: its trailer filled in, and its departure stamp. -/
def Link.filled (l : Link) (c : Sender) (f : SentFlit) : SentFlit :=
  let g := match c.time with
    | some t => if f.stamped then f.stamp t else f
    | none => f
  { g with seq := l.nextSend, ack := l.ackSeq, nak := l.nak, creditVc := l.giving.1, credit := l.giving.2, sent := c.now, resends := 0,
           marker := c.marks && l.sinceMarker == 15 }

/-- One flit goes out: the next sequence number, a credit, a place in the replay buffer; the NAK and the credits of its trailer are sent with
it. -/
def Link.emit (l : Link) (c : Sender) (f : SentFlit) : Link :=
  let g := l.filled c f
  { l with
    nextSend := (l.nextSend + 1) % 4096, nak := false, owed := l.owed.drop 1, sinceMarker := (l.sinceMarker + 1) % 16,
    departed := if g.stamped && fld g.data 0x20 1 == 1 then some (fld g.data 0x28 8) else l.departed,
    replay := l.replay ++ [g],
    credits := if f.fkind = 0 then l.credits else setKey l.credits f.vc (l.credit c.grant f.vc - 1) }

/-- Flits go out while there is credit and room among the 512 of the replay buffer, at most `n`. -/
def Link.pump (c : Sender) : Nat → Link → Link
  | 0, l => l
  | n + 1, l =>
    if 512 ≤ l.replay.length then l
    else
      match l.waiting.findIdx? fun f => l.canSend c f with
      | none => l
      | some i =>
        match l.waiting[i]? with
        | none => l
        | some f => Link.pump c n (({ l with waiting := l.waiting.eraseIdx i }).emit c f)

def Link.flush (l : Link) (c : Sender) : Link := l.pump c l.waiting.length

/-- An idle flit, which carries the trailer where nothing else goes out (10 R314); it waits for room in the replay buffer. -/
def Link.answer (l : Link) (c : Sender) : Link := if 512 ≤ l.replay.length then l else l.emit c idleFlit

/-- A frame's flits into the transmit queue. -/
def Link.enqueue (l : Link) (fs : List SentFlit) : Link := { l with waiting := l.waiting ++ fs }

/-- Every flit of the replay buffer is sent again, in order (10 R314), with the present ACK; the markers go on being counted. -/
def Link.resend (l : Link) (c : Sender) : Link :=
  { l with
    replay := l.replay.mapIdx fun i (f : SentFlit) =>
      { f with ack := l.ackSeq, nak := false, sent := c.now, resends := f.resends + 1,
               marker := c.marks && (l.sinceMarker + i) % 16 == 15 },
    sinceMarker := (l.sinceMarker + l.replay.length) % 16,
    retry := l.retry + l.replay.length }

/-! ### Receiving -/

/-- The flits that an ACK acknowledges, and the link without them: all up to the one with its SEQ. -/
def Link.acked (l : Link) (ack : Nat) : List SentFlit × Link :=
  match l.replay.findIdx? fun f => f.seq == ack with
  | some i => (l.replay.take (i + 1), { l with replay := l.replay.drop (i + 1) })
  | none => ([], l)

/-- Credits that a trailer returns. -/
def Link.returned (l : Link) (grant : Nat → Nat) (vc n : Nat) : Link :=
  if n = 0 then l else { l with credits := setKey l.credits vc (Nat.min (grant vc) (l.credit grant vc + n)) }

/-- Frame bytes of an accepted flit into the assembly of its channel; `trim` cuts a whole frame to its length. -/
def Link.take (l : Link) (trim : Bytes → Bytes) (f : Flit) : Link :=
  let have' := lookupD l.assembly f.vc []
  let whole (b : Bytes) : Link :=
    { l with assembly := dropKey l.assembly f.vc, frames := l.frames ++ [(f.vc, trim b)] }
  if f.fkind = 1 then { l with assembly := setKey l.assembly f.vc f.data }
  else if f.fkind = 2 then { l with assembly := setKey l.assembly f.vc (have' ++ f.data) }
  else if f.fkind = 3 then whole (have' ++ f.data)
  else if f.fkind = 4 then { l with frames := l.frames ++ [(f.vc, trim f.data)] }
  else l

/-- Frames cut to header, payload and trailer. -/
def trimCourier (b : Bytes) : Bytes := b.take (36 + fld b 0x0C 2)
def trimTuiven (b : Bytes) : Bytes := b.take (36 + fld b 8 4 % 131072)

/-- A flit of frame bytes taken: the partner has spent one of the credits that this module granted it, which is owed back at once (DESIGN CHOICE,
log entry 64). A flit on a channel without a grant, the reserved VC 2-15 of a Dispatch port, carries nothing (11 R357). -/
def Link.carried (l : Link) (c : Sender) (trim : Bytes → Bytes) (f : Flit) : Link :=
  if f.fkind = 0 || c.grant f.vc = 0 then l
  else { l.take trim f with owed := setKey l.owed f.vc (lookupD l.owed f.vc 0 + 1) }

/-- A flit arrives (10 R314): one whose CRC fails or whose SEQ is not the next expected is discarded and a NAK sent; an accepted one
acknowledges, returns credit, and carries frame bytes. What waits may then go; where nothing does, an idle flit acknowledges the frame bytes. The
flits that the one received acknowledges are the first part of the answer. -/
def Link.receive (l : Link) (c : Sender) (trim : Bytes → Bytes) (f : Flit) : List SentFlit × Link :=
  if !f.crcOk then ([], ({ l with crcErr := l.crcErr + 1, nak := true }).answer c)
  else if f.seq ≠ l.expected then ([], ({ l with nak := true }).answer c)
  else
    let l1 := { l with expected := (l.expected + 1) % 4096, lastGood := some f.seq, nak := false }
    let r := (l1.carried c trim f).acked f.ack
    let l2 := r.2.returned c.grant f.creditVc f.credit
    let l3 := (if f.nak then l2.resend c else l2).flush c
    (r.1, if f.fkind ≠ 0 ∧ l3.nextSend = l.nextSend then l3.answer c else l3)

/-- A link that has trained: sequence numbers and credits begin afresh, what waits is kept, the counts stand. -/
def Link.fresh (l : Link) : Link :=
  { Link.reset with waiting := l.waiting, frames := l.frames, crcErr := l.crcErr, retry := l.retry, downs := l.downs }

/-- A frame's flits acknowledged on a channel are taken off the oldest frames of that channel. -/
def ackOut (vc : Nat) : List OutFrame → List OutFrame
  | [] => []
  | o :: os =>
    if o.frame.hdr.hops % 16 = vc then (if o.left ≤ 1 then os else { o with left := o.left - 1 } :: os)
    else o :: ackOut vc os

/-- The flits that a Courier port's state lets go: all when UP, those of WAKE in KEEPALIVE, those of control notices in CHECK (10 Table 10.6). -/
def CourierPort.sender (p : CourierPort) (now time : Nat) : Sender :=
  { grant := courierGrant,
    may := fun f => p.state == .up || (p.state == .keepalive && (f.fkind == 0 || f.type == 6)) ||
      (p.state == .check && (f.fkind == 0 || f.type == 5)),
    now := now, time := some (16 * time), marks := p.gen == 1 }

/-- What waits at a port and may go, goes out. -/
def CourierPort.flush (p : CourierPort) (now time : Nat) : CourierPort := { p with link := p.link.flush (p.sender now time) }

/-- What a Dispatch port sends with. -/
def dispatchSender (now : Nat) : Sender := { grant := dispatchGrant, may := fun _ => true, now := now, time := none, marks := false }

def CourierPort.acked (p : CourierPort) (fs : List SentFlit) : CourierPort :=
  { p with out := fs.foldl (fun l f => if f.fkind = 0 then l else ackOut f.vc l) p.out }

end Sys2Proof.Machine
end

