-- ==== Sys2Proof/Machine/Ops.lean ====
section
/-! DEFINITION. Shared operations: dump bytes and the read of a register (12 R427, 13), window memory (11 R376), event
records (13 R444), asynchronous events (11 R393), frames sent (11 Table 11.3), the clock's stop, and the lease. -/

set_option Elab.async false

namespace Sys2Proof.Machine

/-! ### Dumps and register reads -/

/-- A byte of a dump slot that holds a dump (12 R427). Section entries and section contents are free values. The header's reserved byte holds
the mark of a damaged dump, for which 14 Table 14.3 names no field (DESIGN CHOICE, log entry 67). -/
def Dump.byte (d : Dump) (off : Nat) : Byte :=
  let header : Bytes := natLe 1 1 ++ natLe 1 d.cause ++ natLe 1 d.core ++ natLe 1 (b2n d.damaged) ++ natLe 4 d.svn ++ natLe 4 d.fwVersion ++
    natLe 4 d.sections.length ++ natLe 8 d.time ++ natBe 64 d.imageDigest
  if off < 88 then at' header off 0
  else if off < 0x100 then 0
  else if off < 0x100 + 16 * d.sections.length ∧ (off - 0x100) % 16 < 4 then
    at' (natLe 4 (at' d.sections ((off - 0x100) / 16) 0)) ((off - 0x100) % 16) 0
  else Config.dumpByte d.order off

/-- A byte of a dump slot. -/
def State.dumpAt (s : State) (slot off : Nat) : Byte :=
  match at' s.bt.dumps slot none with
  | some d => d.byte off
  | none => Config.dumpByte 0 (134217728 * slot + off)

def State.deadValue (s : State) (off : Nat) : Nat :=
  if off = 0 then
    s.bt.run.code + place s.bt.bootFail 8 8 + place s.dumpValid 16 2 + place s.lastUpdate 24 2 + 2 ^ 31 * b2n s.bt.refused
  else if off = 4 then s.bt.overwritten % 2 ^ 32
  else if off = 8 then s.bt.dumpTime % 2 ^ 32
  else if off = 0xC then s.bt.dumpTime / 2 ^ 32 % 2 ^ 32
  else if 0x100 ≤ off ∧ s.dumpReadable then
    let w := s.stored 0x30020
    leNat ((List.range 4).map fun i => s.dumpAt (w % 2) (256 * bits w 1 19 + (off - 0x100) + i))
  else 0

/-- The RO, RC and RSQ bits of a register, and the fields that a letterbox holds itself. -/
def State.roValue (s : State) (a : Nat) : Nat :=
  if a < 0x1000 then s.identityValue a
  else if a < 0x2000 then s.letterboxValue a
  else if a < 0x3000 then s.eventValue (a - 0x2000)
  else if a < 0x4000 then s.sealValue (a - 0x3000)
  else if a < 0x5000 then s.powerValue (a - 0x4000)
  else if a < 0x6000 then s.thermalValue (a - 0x5000)
  else if a < 0x7000 then s.hostValue (a - 0x6000)
  else if a < 0x8000 then s.counterValue (a - 0x7000)
  else if a < 0x15000 then s.sadcValue a
  else if a < 0x22000 then s.calValue (a - 0x20000)
  else s.deadValue (a - 0x30000)

/-- The value a read of the register file returns (13 R431-R433). -/
def State.readReg (s : State) (a : Nat) : Nat :=
  match regInfo a with
  | none => 0
  | some _ => s.stored a + s.roValue a

/-- The registers of the configuration set, ascending (13 R448). -/
def configSet : List Nat :=
  let words (base n : Nat) : List Nat := (List.range n).map fun i => base + 4 * i
  (words 0 0x400 ++ words 0x4000 0x1000 ++ words 0x10000 0x1400 ++ words 0x20000 0x800).filter inConfigSet

/-- The CRC of a scan (13 R448). -/
def State.sealCrc (s : State) : Word :=
  BitVec.ofNat 32 (crc32c (configSet.flatMap fun a => natLe 4 (s.stored a)))

/-! ### Window memory (11 R376; log entry 8) -/

/-- What an address that nothing has written reads as. -/
def unwritten : Byte := 0

/-- The list of a memory with one byte set; addresses rise and no entry equals `unwritten`. -/
def memPut (a : Nat) (v : Byte) : List Host.Cell → List Host.Cell
  | [] => if v = unwritten then [] else [(a, v)]
  | e :: es =>
    if a < e.1 then (if v = unwritten then e :: es else (a, v) :: e :: es)
    else if a = e.1 then (if v = unwritten then es else (a, v) :: es)
    else e :: memPut a v es

def memGet (m : List Host.Cell) (a : Nat) : Byte :=
  match m.find? fun e => e.1 == a with
  | some e => e.2
  | none => unwritten

/-- The canonical form of window memory. -/
def Memory.wf : List Host.Cell → Bool
  | [] => true
  | e :: es => e.2 != unwritten && es.all (fun x => e.1 < x.1) && Memory.wf es

/-- Bytes written at rising addresses. -/
def memWrite (m : List Host.Cell) (a : Nat) : Bytes → List Host.Cell
  | [] => m
  | b :: bs => memWrite (memPut a b m) (a + 1) bs

def memRead (m : List Host.Cell) (a n : Nat) : Bytes := (List.range n).map fun i => memGet m (a + i)

def State.readMem (s : State) (a n : Nat) : Bytes := memRead s.sv.mem a n
def State.writeMem (s : State) (a : Nat) (b : Bytes) : State := { s with sv := { s.sv with mem := memWrite s.sv.mem a b } }

/-- Bytes of a window forgotten when the window goes: its HBM is released. -/
def memClear (m : List Host.Cell) (a n : Nat) : List Host.Cell := m.filter fun e => !(a ≤ e.1 && e.1 < a + n)

/-- Whether the addresses from `a` to below `e` each lie in a window of a list, `k` windows being passed at most. -/
def coveredBy (ws : List Window) (e : Nat) : Nat → Nat → Bool
  | 0, a => e ≤ a
  | k + 1, a => e ≤ a || (match ws.find? fun w => w.base ≤ a && a < w.base + w.size with
      | some w => coveredBy ws e k (w.base + w.size)
      | none => false)

/-- Whether each of `n` bytes at `a`, and `a` itself, lies in a window of a kind satisfying `p`; windows may adjoin (11 R376). -/
def State.inWindows (s : State) (p : WindowKind → Bool) (a n : Nat) : Bool :=
  coveredBy (s.sv.windows.filter fun w => p w.kind) (a + Nat.max n 1) s.sv.windows.length a

/-! ### Event records (13 R444, R446) -/

/-- The number after a record number. -/
def nextSeq (n : Nat) : Nat := if n = 0xFFFFFFFF then 1 else n + 1

/-- A record raised now: code, source, detail words. -/
def State.raise (s : State) (code source : Nat) (detail : List Nat) : State :=
  let r : Record := ⟨code, source, s.ev.next, s.time, detail⟩
  let full := 32 ≤ s.ev.held.length
  { s with ev := { s.ev with
      held := (if full then s.ev.held.drop 1 else s.ev.held) ++ [r],
      next := nextSeq s.ev.next,
      lost := (if full then s.ev.lost + 1 else s.ev.lost) } }

/-- The LOC word of an array (13 Table 13.7). -/
def locOf (a : ArrId) : Nat := a.tile + 16384 * a.die + 65536 * a.arr

/-- Word 0 of a line: offset and die, bit 31 as given (13 Table 13.7). -/
def lineWord (l : LineId) : Nat := l.off % 2 ^ 28 + 2 ^ 28 * l.die

/-! ### The lease (11 R395-R399) -/

/-- 200 ms in ticks. -/
def leaseTicks : Nat := 50000000

/-- Whether a lease is live: its window has not ended. -/
def State.leaseLive (s : State) : Bool :=
  match s.dp.lease with
  | none => false
  | some l =>
    l.suspended ||
      (if l.onCounter then l.stamp ≤ s.tm.counter && s.tm.counter < l.stamp + leaseTicks
       else l.stamp ≤ s.tm.tick && s.tm.tick < l.stamp + leaseTicks)

/-- A lease stamped now (11 R395, 10 R549). -/
def State.stampLease (s : State) (l : Lease) : Lease :=
  if s.tm.valid then { l with stamp := s.tm.counter, onCounter := true } else { l with stamp := s.tm.tick, onCounter := false }

/-- Settings in force: those of the live lease, or of the last one for what outlives it. -/
def State.settings (s : State) : Option Lease := match s.dp.lease with
  | some l => some l
  | none => s.dp.last

/-- The features selected, as bits (11 R366). -/
def State.featureBits (s : State) : Nat :=
  match s.settings with
  | some l => l.features
  | none => 0

/-- Whether a Tuiven feature is selected (11 R366). -/
def State.feature (s : State) (b : Nat) : Bool :=
  match s.settings with
  | some l => bit l.features b
  | none => false

/-- Tuiven-1 in force (11 R370, R372). -/
def State.tuiven1 (s : State) : Bool :=
  match s.settings with
  | some l => l.version == 1
  | none => s.bt.compat

def State.windowMode (s : State) : Bool :=
  match s.settings with
  | some l => l.mode == 1
  | none => false

/-- VERSION of the frames the module sends (11 R364: HELLO always 1). -/
def State.txVersion (s : State) : Nat := match s.settings with
  | some l => l.version
  | none => 1

/-! ### Frames sent -/

/-- A Tuiven frame sent: into the record of frames, and its flits into the transmit queue of its port (11 R357). -/
def State.sendFrame (s : State) (f : TxFrame) : State :=
  { s with dp := { s.dp with
      tx := s.dp.tx ++ [f],
      ports := modAt s.dp.ports f.port fun (d : DspPort) =>
        let l := d.link.enqueue (flitsOf f.chan 0 f.bytes)
        { d with link := if d.state = DspState.up then l.flush (dispatchSender s.tm.tick) else l } } }

/-- A port on which the module sends what answers no frame: the lowest with a SELECT in force. -/
def State.outPort (s : State) : Option Nat := (List.range 2).find? fun p => (s.dsp p).selected

/-- A RESPONSE (11 R382). -/
def State.respondWith (s : State) (h : FrameHdr) (chan status : Nat) (tail : Bytes) : State :=
  s.sendFrame { port := h.port, version := s.txVersion, type := 6, chan := chan, context := 0, queue := h.queue,
                seq := h.seq, tag := h.tag,
                payload := natLe 1 status ++ natLe 3 0 ++ natLe 4 h.seq ++ tail }

def State.respond (s : State) (h : FrameHdr) (chan status : Nat) : State := s.respondWith h chan status (natLe 8 0)

/-- A DATA frame that answers `h` (11 Table 11.3). -/
def State.answerData (s : State) (h : FrameHdr) (chan : Nat) (data : Bytes) : State :=
  s.sendFrame { port := h.port, version := s.txVersion, type := 12, chan := chan, context := 0, queue := 0, seq := h.seq,
                tag := h.tag, payload := data }

/-! ### Asynchronous events (11 R393) -/

/-- The 64 bytes of an event entry. -/
def Async.bytes (e : Async) : Bytes :=
  natLe 2 e.code ++ natLe 2 0 ++ natLe 4 e.number ++ natLe 8 e.time ++ (e.detail ++ natLe 48 0).take 48

/-- An event entry into the window of register-window mode (11 R389, R390). -/
def Events.toWindow (ev : Events) (e : Async) : Events :=
  if 1024 ≤ (ev.winTail + 2 ^ 32 - ev.winHead) % 2 ^ 32 then { ev with winLost := ev.winLost + 1 }
  else { ev with window := setKey ev.window (ev.winTail % 1024) e, winTail := (ev.winTail + 1) % 2 ^ 32 }

/-- An event entry into the event ring (11 R383). -/
def State.toEventRing (s : State) (e : Async) : State :=
  match s.ev.ring with
  | none => s
  | some a =>
    let s1 := s.writeMem (a + 64 * (s.ev.ringTail % 1024)) e.bytes
    { s1 with ev := { s1.ev with ringTail := s1.ev.ringTail + 1 } }

/-- Write an event entry where the mode puts it. -/
def State.writeAsync (s : State) (e : Async) : State :=
  if s.windowMode then { s with ev := s.ev.toWindow e } else s.toEventRing e

/-- An EVENT frame, while a lease is live (11 R397). -/
def State.sendEvent (s : State) (e : Async) : State :=
  match s.leaseLive, s.outPort with
  | true, some p =>
    s.sendFrame { port := p, version := s.txVersion, type := 8, chan := 0, context := 0, queue := 0, seq := 0, tag := 0,
                  payload := e.bytes }
  | _, _ => s

/-- An event entry written, and sent in an EVENT frame in ring mode (11 R393). -/
def State.deliverAsync (s : State) (e : Async) : State :=
  if s.windowMode then s.writeAsync e else (s.writeAsync e).sendEvent e

/-- An asynchronous event that happens now, when feature 11 is selected. -/
def State.async (s : State) (code : Nat) (detail : Bytes) : State :=
  if s.feature 11 then
    let e : Async := ⟨code, s.ev.asyncNext, s.time, detail⟩
    ({ s with ev := { s.ev with asyncNext := (s.ev.asyncNext + 1) % 2 ^ 32 } }).deliverAsync e
  else s

/-! ### Courier frames sent (10 R323) -/

/-- A frame into the transmit queue of its port, on the virtual channel equal to its HOPS (10 R313). -/
def CourierPort.send (p : CourierPort) (c : CourierTx) (now time : Nat) : CourierPort :=
  let fs := flitsOf (c.hdr.hops % 16) c.hdr.type c.bytes
  ({ p with out := p.out ++ [⟨c, fs.length⟩], link := p.link.enqueue fs } : CourierPort).flush now time

def State.sendCourier (s : State) (c : CourierTx) : State :=
  { s with fb := { s.fb with tx := s.fb.tx ++ [c], ports := modAt s.fb.ports c.port fun p => p.send c s.tm.tick s.localTime } }

/-- Feature bit of a frame type (10 Table 10.8). -/
def typeFeature (t : Nat) : Nat :=
  if t = 1 then 0 else if t = 2 then 1 else if t = 3 then 2 else if t = 4 then 3 else if t = 5 then 8 else 7

/-- Whether a port has the feature of a frame type (10 R318). A router reads no type but those it knows: a reserved type needs none. -/
def State.portFor (s : State) (k type : Nat) : Bool :=
  k < 12 && (type = 0 || 6 < type || bit (s.port k).features (typeFeature type))

/-- Whether a port takes frames of a type: UP with the type's feature, or in KEEPALIVE, where all but WAKE are held (10 R318, Table 10.6). -/
def State.portTakes (s : State) (k type : Nat) : Bool :=
  s.portFor k type && ((s.port k).state == .up || (s.port k).state == .keepalive)

/-- Whether a frame type is ORDERED (10 Table 10.8). -/
def typeOrdered (t : Nat) : Bool := t == 2 || t == 4 || t == 6

def State.countDrop (s : State) (f : Regs → Regs) : State := { s with rg := f s.rg }

/-- Bytes in a port's transmit queue: 256 for each flit that waits. -/
def State.queuedBytes (s : State) (k : Nat) : Nat := 256 * (s.port k).link.waiting.length

/-- The port that routes a frame, and whether it detours (10 R334). ORDERED frames to a destination stay on the detour once one has
taken it, until the table changes (10 R336). A control notice goes out on a PRIMARY in CHECK where no other port takes it (10 Table 10.6). -/
def State.routePort (s : State) (h : CourierHdr) : Option (Nat × Bool) :=
  let r := s.route h.dest
  let detourOk := s.portTakes r.2 h.type && bit (s.port r.2).features 5 && !h.detoured
  if s.portTakes r.1 h.type && !(h.ordered && detourOk && s.fb.detours.contains h.dest) then
    if !h.ordered && detourOk && 65536 < s.queuedBytes r.1 && s.queuedBytes r.2 < 16384 then some (r.2, true)
    else some (r.1, false)
  else if detourOk then some (r.2, true)
  else if h.type = 5 && s.portFor r.1 5 && (s.port r.1).state == .check then some (r.1, false)
  else none

/-- A frame goes out on its route with HOPS raised by 1; without a usable port it is dropped and counted (10 R334). A frame of this module takes its
first hop as it leaves, with HOPS 1: 10 R335 does not say whether HOPS is raised before that hop or after it (DESIGN CHOICE, log entry 64). -/
def State.sendRouted (s : State) (h : CourierHdr) (payload : Bytes) : State :=
  match s.routePort h with
  | some (p, d) =>
    let s1 := if d && h.ordered && !s.fb.detours.contains h.dest then
        { s with fb := { s.fb with detours := s.fb.detours ++ [h.dest] } }
      else s
    s1.sendCourier ⟨p, { h with hops := h.hops + 1, detoured := h.detoured || d, inPort := none }, payload⟩
  | none => s.countDrop fun r => { r with dropNoPort := r.dropNoPort + 1 }

/-- A frame header formed on this module (10 Table 10.7). -/
def State.courierHdr (s : State) (type dest job len : Nat) : CourierHdr :=
  { inPort := none, version := 1, type := type, dest := dest, src := s.fb.coord, hops := 0, ordered := typeOrdered type,
    detoured := false, job := job, length := len, stamp := s.time, crcOk := true }

/-- Whether some port takes a control notice for a module. -/
def State.reaches (s : State) (c : Nat) : Bool := (s.routePort (s.courierHdr 5 c 0 16)).isSome

/-- Send a frame of this module on its route. -/
def State.originate (s : State) (type dest job : Nat) (payload : Bytes) : State :=
  s.sendRouted (s.courierHdr type dest job payload.length) payload

/-- The payload of a control notice (10 R330). -/
def controlPayload (kind reason module job : Nat) : Bytes :=
  natLe 1 kind ++ natLe 1 reason ++ natLe 2 module ++ natLe 4 job ++ natLe 8 0

/-- Members of a job's shape (10 R351). -/
def Job.members (j : Job) : List Nat :=
  ((List.range 1024).filter fun c => (List.range 10).all fun b => bit j.mask b || bit c b == bit j.base b)

def State.job (s : State) (n : Nat) : Option Job := s.fb.jobs.find? fun j => j.num == n

/-- The other members of a job. -/
def State.jobPeers (s : State) (n : Nat) : List Nat :=
  match s.job n with
  | some j => j.members.filter fun c => c != s.fb.coord
  | none => []

/-- A control notice about a module to every other member of a job that can be reached (10 R330, R352). -/
def State.notifyJob (s : State) (job kind reason module : Nat) : State :=
  ((s.jobPeers job).filter s.reaches).foldl (fun st c => st.originate 5 c job (controlPayload kind reason module job)) s

/-- Asynchronous event 5: the abort of a job for a REASON (10 R352, 11 Table 11.15). -/
def State.reportAbort (s : State) (job reason module : Nat) : State :=
  s.async 5 (natLe 4 job ++ natLe 1 reason ++ natLe 2 module)

end Sys2Proof.Machine
end

