-- ==== Sys2Proof/Machine/Kv.lean ====
section
/-! DEFINITION. Pigeonholes, page tables, the prefix trees and the poste restante tier (09): the frames of the KV pool, their
owners (09 Table 9.4), appends, reads, matching, insertion, eviction, the held tier and the freeing order of 09 R302. -/

set_option Elab.async false

namespace Sys2Proof.Machine

/-! ### The pool (09 R269, R271, R272) -/

/-- Capacity of a stack, of a chunk, and of the dead-letter region (01 R13, 09 R271, 12 R426). -/
def stackBytes : Nat := 51539607552
def chunkBytes : Nat := 67108864
def deadLetterBytes : Nat := 268435456

/-- Bytes of a record, and of the five franking entries of an array (03 R81, 04 R107). -/
def recordSize : Nat := 36864
def frankingSize : Nat := 5760

/-- Bytes of a pigeonhole (09 Table 9.1). -/
def KvShape.pigeonhole (k : KvShape) : Nat :=
  if k.b16 then 256 * k.heads * k.dim else 128 * k.heads * (k.dim + 1)

/-- Bytes of its frame. -/
def KvShape.frameSize (k : KvShape) : Nat := ceilDiv k.pigeonhole 4096 * 4096

/-- The form of the pigeonholes of a layer, their bytes and those of a frame. -/
def LayerRec.shape (l : LayerRec) : KvShape := ⟨l.kvB16, l.kvHeads, l.headDim⟩
def LayerRec.pigeonhole (l : LayerRec) : Nat := l.shape.pigeonhole
def LayerRec.frameSize (l : LayerRec) : Nat := l.shape.frameSize

/-- Bytes of an adapter. -/
def Adapter.size (a : Adapter) : Nat := sumList (a.targets.map fun t => t.2.2.2.1.length + t.2.2.2.2.length)

/-- Bytes of an adapter on one stack: those of the targets placed there (08 R264). -/
def Adapter.onStack (a : Adapter) (stack : Nat) : Nat :=
  sumList (((a.targets.zip a.places).filter fun e => e.2 == stack).map fun e => e.1.2.2.2.1.length + e.1.2.2.2.2.length)

/-- What the regions outside the KV pool take of a stack (09 R271). The franking entries of a die stand on its lowest
stack (04 R107 names the die; log entry 7). -/
def State.regionBytes (s : State) (stack : Nat) : Nat :=
  sumList ((s.wt.masters.filter fun m => m.stack == stack).map fun m =>
      128 + m.payload.length + recordSize * m.hdr.arrayList.length) +
    (if stack % 4 = 0 then frankingSize * 278528 else 0) +
    sumList (s.sv.adapters.map fun a => a.onStack stack) +
    sumList ((s.sv.windows.filter fun w => w.id % 16 == stack).map Window.size) +
    1048576 * (s.kv.prefixMib + s.kv.level1Mib) + (if stack = 0 then deadLetterBytes else 0)

/-- Chunks of a stack's pool. -/
def State.poolChunks (s : State) (stack : Nat) : Nat := (stackBytes - s.regionBytes stack) / chunkBytes

/-- Frames of a chunk for a frame size. -/
def chunkFrames (size : Nat) : Nat := if size = 0 then 0 else chunkBytes / size

def State.chunksOf (s : State) (stack : Nat) : List Chunk := s.kv.chunks.filter fun c => c.stack == stack

def State.framesIn (s : State) (c : Chunk) : List Frame :=
  s.kv.frames.filter fun f => f.id.stack == c.stack && f.id.chunk == c.num

/-- Free frames of a size on a stack, counting each free chunk as the frames it would hold (09 R272). -/
def State.freeFrames (s : State) (stack size : Nat) : Nat :=
  sumList (((s.chunksOf stack).filter fun c => c.size == size).map fun c => chunkFrames size - (s.framesIn c).length) +
    (s.poolChunks stack - (s.chunksOf stack).length) * chunkFrames size

/-- Home stack of a layer of a sequence (09 R272). -/
def homeStack (slot layer : Nat) : Nat := (slot + layer) % 16

/-- The stack of a list with the most free frames, the lowest on a tie; none when no frame is free. -/
def State.mostFree (s : State) (size : Nat) (among : List Nat) : Option Nat :=
  match argMin (fun k => 1000000000 - s.freeFrames k size) among with
  | some k => if s.freeFrames k size = 0 then none else some k
  | none => none

/-- The stack a new frame is taken from (09 R272). -/
def State.pickStack (s : State) (home size : Nat) : Option Nat :=
  if 0 < s.freeFrames home size then some home
  else
    match s.mostFree size ((List.range 4).map fun i => 4 * (home / 4) + i) with
    | some k => some k
    | none => s.mostFree size (List.range 16)

/-- The lowest number below `n` that a list does not hold. -/
def firstFree (n : Nat) (used : List Nat) : Option Nat :=
  ((List.range (used.length + 1)).find? fun i => !used.contains i).filter fun i => i < n

/-- A frame of a size on a stack given to an owner: the lowest chunk with room, else the lowest free chunk. -/
def State.takeFrame (s : State) (stack size : Nat) (o : FrameOwner) : Option (FrameId × State) :=
  let cap := chunkFrames size
  match argMin Chunk.num ((s.chunksOf stack).filter fun c => c.size == size && (s.framesIn c).length < cap) with
  | some c =>
    match firstFree (cap) ((s.framesIn c).map fun f => f.id.index) with
    | some i =>
      let id : FrameId := ⟨stack, c.num, i⟩
      some (id, { s with kv := { s.kv with frames := s.kv.frames ++ [⟨id, size, o, []⟩] } })
    | none => none
  | none =>
    if cap = 0 then none
    else
      match firstFree (s.poolChunks stack) ((s.chunksOf stack).map Chunk.num) with
      | some n =>
        let id : FrameId := ⟨stack, n, 0⟩
        some (id, { s with kv := { s.kv with chunks := s.kv.chunks ++ [⟨stack, n, size⟩],
                                             frames := s.kv.frames ++ [⟨id, size, o, []⟩] } })
      | none => none

/-- A frame taken under 09 R272. -/
def State.newFrame (s : State) (slot layer size : Nat) (o : FrameOwner) : Option (FrameId × State) :=
  match s.pickStack (homeStack slot layer) size with
  | some k => s.takeFrame k size o
  | none => none

/-- A frame returned to the pool; a chunk without a frame in use returns to the free chunks (09 R271). -/
def State.freeFrame (s : State) (id : FrameId) : State :=
  let fs := s.kv.frames.filter fun f => f.id != id
  { s with kv := { s.kv with
      frames := fs,
      chunks := s.kv.chunks.filter fun c => fs.any fun f => f.id.stack == c.stack && f.id.chunk == c.num } }

def State.frame (s : State) (id : FrameId) : Option Frame := s.kv.frames.find? fun f => f.id == id
def State.modFrame (s : State) (id : FrameId) (g : Frame → Frame) : State :=
  { s with kv := { s.kv with frames := s.kv.frames.map fun f => if f.id = id then g f else f } }

/-! ### Page tables (09 R273, R274) -/

/-- Positions a sequence can reach. -/
def positionLimit : Nat := 262144

def PageEntry.is (p : PageEntry) (slot : Nat) (draft : Bool) (layer n : Nat) : Bool :=
  p.slot == slot && p.draft == draft && p.layer == layer && p.n == n

def State.page (s : State) (slot : Nat) (draft : Bool) (layer n : Nat) : Option PageEntry :=
  s.kv.pages.find? fun p => p.is slot draft layer n

def State.setPage (s : State) (p : PageEntry) : State :=
  { s with kv := { s.kv with pages := putBy (fun q => q.is p.slot p.draft p.layer p.n) p s.kv.pages } }

def State.clearPages (s : State) (f : PageEntry → Bool) : State :=
  { s with kv := { s.kv with pages := s.kv.pages.filter fun p => !f p } }

/-- The frames that satisfy `f` returned, with the page table entries that name them cleared. -/
def State.freeFramesWhere (s : State) (f : Frame → Bool) : State :=
  let gone := (s.kv.frames.filter f).map Frame.id
  (gone.foldl State.freeFrame s).clearPages fun p => gone.contains p.frame

/-- RESERVED frames of an entry return to FREE (09 Table 9.4). -/
def State.releaseReserved (s : State) (tag slot : Nat) : State :=
  s.freeFramesWhere fun f => f.owner == .reserved tag slot

/-! ### Reservation (08 R249 task 2, 09 R277) -/

/-- Layers of a model with a K tensor. -/
def Model.kvLayers (m : Model) : List Nat := (List.range m.layers.length).filter fun l =>
  match m.layer l with
  | some r => (r.role 1).isSome
  | none => false

/-- A page to be had: whether it is the draft model's, its layer, its number in the table, the size of its frame, and its form. -/
abbrev PageNeed := Bool × Nat × Nat × Nat × KvShape

/-- Pages of positions [a, b) at some layers of a model. -/
def pagesOf (m : Model) (draft : Bool) (layers : List Nat) (a b : Nat) : List PageNeed :=
  if b ≤ a then []
  else
    layers.flatMap fun l =>
      match m.layer l with
      | some r => (List.range ((b - 1) / 64 + 1 - a / 64)).map fun i => (draft, l, a / 64 + i, r.frameSize, r.shape)
      | none => []

/-- Reserve the pages of a list that a slot does not hold yet; none when a frame is lacking. -/
def State.reservePages (s : State) (tag slot : Nat) : List PageNeed → Option State
  | [] => some s
  | (d, l, n, size, shape) :: ps =>
    if (s.page slot d l n).isSome then s.reservePages tag slot ps
    else
      match s.newFrame slot l size (.reserved tag slot) with
      | some (id, s1) => (s1.setPage ⟨slot, d, l, n, id, false, shape⟩).reservePages tag slot ps
      | none => none

/-- Whether a state's pool could give the pages: what a stalled entry waits for. -/
def State.canReserve (s : State) (tag slot : Nat) (ps : List PageNeed) : Bool :=
  (s.reservePages tag slot ps).isSome

/-! ### Appends and reads (09 R270, R276, R278, R275) -/

/-- One head of K or V as a T8 group; none on a numeric fault (09 R270). -/
def t8Group (v : List Frac) : Option (Nat × List Nat) :=
  if Frac.lt ⟨200704, 1⟩ (maxFrac v) then none
  else
    let b := quantBlock e4m3 v
    some (b.scale, b.elems)

/-- The group that a step writes; none on a numeric fault. -/
def kvGroup (b16fmt isV : Bool) (tok head stepTag : Nat) (v : List Nat) : Option KvGroup :=
  let x := v.map f32.decode
  if b16fmt then
    let e := x.map b16.roundFinite
    if e.any Option.isNone then none else some ⟨isV, tok, head, 1, e.map (fun o => o.getD 0), .tentative stepTag⟩
  else (t8Group x).map fun g => ⟨isV, tok, head, g.1, g.2, .tentative stepTag⟩

/-- Whether a step may read a group (09 R275): it is committed, or the step wrote it. -/
def KvGroup.readableBy (g : KvGroup) (stepTag : Nat) : Bool := g.state == .committed || g.state == .tentative stepTag

/-- Values of a group, F32 encodings. -/
def KvGroup.values (g : KvGroup) (b16fmt : Bool) : List Nat :=
  g.elems.map fun e => f32.round (if b16fmt then b16.decode e else elemValue e4m3 g.scale e)

def KvGroup.is (g : KvGroup) (isV : Bool) (tok head : Nat) : Bool := g.isV == isV && g.tok == tok && g.head == head

def Frame.group (f : Frame) (isV : Bool) (tok head : Nat) : Option KvGroup := f.data.find? fun g => g.is isV tok head

/-- Write a group at a storage position of a slot through its page table. -/
def State.putGroup (s : State) (slot : Nat) (draft : Bool) (layer pos : Nat) (g : KvGroup) : State :=
  match s.page slot draft layer (pos / 64) with
  | some p => s.modFrame p.frame fun f => { f with data := putBy (fun x => x.is g.isV g.tok g.head) g f.data }
  | none => s

/-- The group at a storage position of a slot, if appended. -/
def State.getGroup (s : State) (slot : Nat) (draft : Bool) (layer pos : Nat) (isV : Bool) (head : Nat) : Option KvGroup :=
  match s.page slot draft layer (pos / 64) with
  | some p =>
    match s.frame p.frame with
    | some f => f.group isV (pos % 64) head
    | none => none
  | none => none

/-! ### Prefix trees (09 R283-R289) -/

/-- The 64-token block as hashed (09 R284). -/
def blockHash (parent : Nat) (tokens : List Nat) : Nat :=
  sha512Head (natLe 8 parent ++ tokens.flatMap (natLe 4))

def rootHash (tenant model : Nat) : Nat := sha512Head (natLe 4 tenant ++ natLe 4 model)

/-- Layers of a model that the module serves: those with an accepted parcel of the K tensor (09 R283). -/
def State.servedLayers (s : State) (m : Model) : List Nat := m.kvLayers.filter fun l =>
  match m.layer l with
  | some r =>
    match r.role 1 with
    | some t => s.wt.masters.any fun x => x.hdr.model == m.num && x.hdr.layer == l && x.hdr.tensor == t.tensor
    | none => false
  | none => false

def State.node (s : State) (i : Nat) : Option Node := s.kv.nodes.find? fun n => n.idx == i
def State.modNode (s : State) (i : Nat) (f : Node → Node) : State :=
  { s with kv := { s.kv with nodes := s.kv.nodes.map fun n => if n.idx = i then f n else n } }

/-- The page table entry of a shared page (09 Table 9.2). -/
def sharedEntry (f : FrameId) : Nat := f.index + 2 ^ 14 * f.chunk + 2 ^ 28 * f.stack + 2 ^ 32 + 2 ^ 33

/-- The 320 bytes of a node (09 Table 9.3). -/
def Node.bytes (n : Node) : Bytes :=
  natLe 1 n.version ++ natLe 1 (b2n n.live) ++ natLe 2 n.layers ++ natLe 4 n.refcount ++ natLe 8 n.hash ++
    natLe 4 (n.parent.getD 0xFFFFFFFF) ++ natLe 4 n.tenant ++ natLe 4 n.model ++ natLe 4 n.block ++ natLe 8 n.lastUse ++ natLe 8 n.pagesAt ++
    natLe 16 0 ++ (n.tokens.take 64).flatMap (natLe 4) ++ natLe (4 * (64 - n.tokens.length)) 0

/-- The page table entries at its PAGES address, eight bytes each. -/
def Node.pageBytes (n : Node) : Bytes := n.pages.flatMap fun p => natLe 8 (sharedEntry p.2)

/-- The node that matches a block (09 R284): LIVE, and of VERSION 1 (01 R30). -/
def State.findNode (s : State) (tenant model layers : Nat) (parent : Option Nat) (hash : Nat) (tokens : List Nat) :
    Option Node :=
  s.kv.nodes.find? fun n => n.version == 1 && n.live && n.tenant == tenant && n.model == model && n.layers == layers && n.parent == parent &&
    n.hash == hash && n.tokens == tokens

/-- A node's count raised or lowered (09 R289). -/
def State.countRef (s : State) (i : Option Nat) (up : Bool) : State :=
  match i with
  | some k => s.modNode k fun n => { n with refcount := if up then n.refcount + 1 else n.refcount - 1 }
  | none => s

/-- A node released: its frames return to FREE, its parent loses a child (09 R289). -/
def State.evictNode (s : State) (n : Node) : State :=
  let s1 := (n.pages.map (·.2)).foldl State.freeFrame s
  let s2 := { s1 with kv := { s1.kv with nodes := s1.kv.nodes.filter fun x => x.idx != n.idx } }
  s2.countRef n.parent false

/-- The node that may be evicted next: oldest LAST_USE, lowest index on a tie. -/
def State.victim (s : State) : Option Node :=
  argMin (fun n => n.lastUse * 1048576 + n.idx) (s.kv.nodes.filter fun n => n.refcount == 0)

/-- Nodes that are not LIVE are released once their count is 0, children before parents. -/
def State.releaseTrees : Nat → State → State
  | 0, s => s
  | f + 1, s =>
    match s.kv.nodes.find? fun n => !n.live && n.refcount == 0 with
    | some n => State.releaseTrees f (s.evictNode n)
    | none => s

/-- A slot gains or loses a reference; a node of an unloaded model goes with its last (09 R289). -/
def State.refNode (s : State) (i : Option Nat) (up : Bool) : State :=
  let s1 := s.countRef i up
  if up then s1 else State.releaseTrees (s1.kv.nodes.length + 1) s1

/-- The nodes of a model's trees are LIVE no more: no match finds them, and each is released when its count reaches 0 (09 R289; log entry
50). -/
def State.retireTrees (s : State) (model : Nat) : State :=
  { s with kv := { s.kv with nodes := s.kv.nodes.map fun n => if n.model = model then { n with live := false } else n } }

/-- Drop the node reference of a slot. -/
def State.dropRef (s : State) (slot : Nat) : State :=
  match s.slot slot with
  | some x => (s.refNode x.node false).modSlot slot fun y => { y with node := none }
  | none => s

/-- The chain of nodes that matches the leading blocks of a token list (09 R286), deepest last. -/
def State.matchChain (s : State) (tenant model layers : Nat) : Nat → Option Nat → Nat → List Nat → List Node
  | 0, _, _, _ => []
  | f + 1, parent, hash, toks =>
    if toks.length < 64 then []
    else
      let h := blockHash hash (toks.take 64)
      match s.findNode tenant model layers parent h (toks.take 64) with
      | some n => n :: State.matchChain s tenant model layers f (some n.idx) h (toks.drop 64)
      | none => []

/-- Nodes a region holds at most (09 R283): 1,048,576 in all, 320 bytes each in the regions of the stacks. -/
def State.nodeLimit (s : State) : Nat := Nat.min 1048576 (16 * s.kv.prefixMib * 1048576 / 320)

/-- Make a node place free, evicting an unreferenced node when the region is full. -/
def State.nodePlace (s : State) : Option State :=
  if s.kv.nodes.length < s.nodeLimit then some s
  else
    match s.victim with
    | some n => some (s.evictNode n)
    | none => none

/-- The lowest free number of a node (09 R283). -/
def State.freeNode (s : State) : Option Nat := firstFree 1048576 (s.kv.nodes.map Node.idx)

/-- A node made of a slot's private block `b`: its frames become SHARED, the slot references it. The parent gains a child and loses
the slot's reference, so its count stands. -/
def State.addNode (s : State) (slot b : Nat) (n : Node) : State :=
  let mine (id : FrameId) : Bool := n.pages.any fun e => e.2 == id
  let s1 := { s with kv := { s.kv with
      nodes := s.kv.nodes ++ [n],
      frames := s.kv.frames.map fun (fr : Frame) => if mine fr.id then { fr with owner := .shared n.idx } else fr,
      pages := s.kv.pages.map fun (p : PageEntry) =>
        if p.slot == slot && !p.draft && p.n == b && mine p.frame then { p with shared := true } else p } }
  s1.modSlot slot fun y => { y with node := some n.idx }

/-- Block `b` of a slot at an insertion: the node below which it goes on, with its hash and the state; none: it ends there (09 R288). -/
def State.insertBlock (s : State) (tenant : Nat) (m : Model) (x : Slot) (b hash : Nat) (parent : Option Nat) :
    Option (Nat × Nat × State) :=
  let layers := s.servedLayers m
  let toks := (x.tokens.drop (64 * b)).take 64
  let h := blockHash hash toks
  let es := layers.map fun l => s.page x.id false l b
  let shared := es.all fun e => e.any fun p => p.shared
  let mine := es.all fun e => e.any fun p => (s.frame p.frame).any fun fr => fr.owner == .priv x.id
  if es.isEmpty then none
  else if shared then
    (s.findNode tenant m.num layers.length parent h toks).map fun n => (n.idx, h, s)
  else if x.commit < 64 * (b + 1) || !mine || (s.findNode tenant m.num layers.length parent h toks).isSome then none
  else
    s.nodePlace.bind fun s1 => s1.freeNode.map fun i =>
      (i, h, s1.addNode x.id b
        { version := 1, live := true, idx := i, layers := layers.length, refcount := 1, hash := h, parent := parent, tenant := tenant, model := m.num, block := b,
          lastUse := s.time, pagesAt := Config.nodePages i, pages := (layers.zip es).filterMap (fun e => e.2.map fun p => (e.1, p.frame)), tokens := toks })

/-- Insert the blocks of a slot from block `b` (09 R288), `fuel` of them at most. -/
def State.insertBlocks (tenant : Nat) (m : Model) (slot : Nat) : Nat → Nat → Nat → Option Nat → State → State
  | 0, _, _, _, s => s
  | f + 1, b, hash, parent, s =>
    match (s.slot slot).bind fun x => s.insertBlock tenant m x b hash parent with
    | some r => State.insertBlocks tenant m slot f (b + 1) r.2.1 (some r.1) r.2.2
    | none => s

/-- Insertion at a commit (09 R288). -/
def State.insertPrefix (s : State) (tenant slot : Nat) (m : Model) : State :=
  match s.slot slot with
  | some x => State.insertBlocks tenant m slot (x.commit / 64 + 1) 0 (rootHash tenant m.num) none s
  | none => s

/-! ### Slots leaving (09 Table 9.4, R289) -/

/-- Private frames and pages of a slot released, its reference dropped. -/
def State.releaseSlotPages (s : State) (slot : Nat) : State :=
  ((s.freeFramesWhere fun f => f.owner == .priv slot).clearPages fun p => p.slot == slot).dropRef slot

def State.dropHeld (s : State) (slot : Nat) : State :=
  { s with kv := { s.kv with held := s.kv.held.filter fun h => h.slot != slot } }

/-- A slot to FREE: pigeonholes, held pages and reference released. -/
def State.slotFree (s : State) (slot : Nat) : State :=
  let s1 := (s.releaseSlotPages slot).dropHeld slot
  { s1 with sv := { s1.sv with slots := s1.sv.slots.filter fun x => x.id != slot } }

/-- A slot to EXPIRED: held pigeonholes released, commit pointer kept (08 Table 8.3). A slot that is ENDING keeps that
state and is recorded as EXPIRED. -/
def State.slotExpire (s : State) (slot : Nat) : State :=
  ((s.releaseSlotPages slot).dropHeld slot).modSlot slot fun x =>
    { x with state := match x.state with
      | .ending _ => .ending 4
      | _ => .expired }

/-! ### The poste restante tier (09 R296-R301) -/

def State.heldOf (s : State) (slot : Nat) : Option Held := s.kv.held.find? fun h => h.slot == slot
def State.modHeld (s : State) (slot : Nat) (f : Held → Held) : State :=
  { s with kv := { s.kv with held := s.kv.held.map fun h => if h.slot = slot then f h else h } }

/-- Bytes a pigeonhole takes when held: T4, or its own format (09 R296, R297). -/
def KvShape.heldSize (k : KvShape) (unchanged : Bool) : Nat :=
  if unchanged then k.pigeonhole else 68 * k.heads * k.dim

/-- Whether a pigeonhole is held unchanged: a block would saturate (09 R297). -/
def heldUnchanged (b16fmt : Bool) (data : List KvGroup) : Bool :=
  data.any fun g => (g.values b16fmt).any fun v => Frac.lt ⟨2688, 1⟩ (f32.decode v).abs

/-- The groups of a pigeonhole that the mover reads: the committed ones (09 R275). -/
def committedGroups (data : List KvGroup) : List KvGroup := data.filter fun g => g.state == .committed

/-- A held page of a pigeonhole (09 R296, R297), from its committed groups. -/
def holdPage (p : PageEntry) (all : List KvGroup) : HeldPage :=
  let b16fmt := p.shape.b16
  let data := committedGroups all
  let un := heldUnchanged b16fmt data
  { draft := p.draft, layer := p.layer, n := p.n, b16 := b16fmt, unchanged := un, shape := p.shape,
    groups := if un then [] else data.map fun g =>
      (g.isV, g.tok, g.head, (pieces 32 9 ((g.values b16fmt).map f32.decode)).map fun b =>
        let q := quantBlock e2m1 b
        (q.scale, q.elems)),
    raw := if un then data else [], off := none, got := [], torn := [] }

/-- The pigeonhole contents of a held page brought back (09 R297). -/
def restorePage (h : HeldPage) : List KvGroup :=
  if h.unchanged then h.raw
  else
    h.groups.filterMap fun g =>
      let v := g.2.2.2.flatMap fun b => b.2.map fun e => elemValue e2m1 b.1 e
      if h.b16 then some ⟨g.1, g.2.1, g.2.2.1, 1, v.map b16.round, .committed⟩
      else
        let q := quantBlock e4m3 v
        some ⟨g.1, g.2.1, g.2.2.1, q.scale, q.elems, .committed⟩

/-- The model of a slot's context, main or draft. -/
def State.slotModel (s : State) (slot : Nat) (draft : Bool) : Option Model :=
  match s.slot slot with
  | some x =>
    match s.context x.ctx with
    | some c => s.model (if draft then c.draftModel else c.model)
    | none => none
  | none => none

def State.slotLayer (s : State) (slot : Nat) (draft : Bool) (l : Nat) : Option LayerRec :=
  match s.slotModel slot draft with
  | some m => m.layer l
  | none => none

/-- Bytes of one page of a slot once held. -/
def State.pageHeldSize (s : State) (p : PageEntry) : Nat :=
  match s.frame p.frame with
  | some f => p.shape.heldSize (heldUnchanged p.shape.b16 (committedGroups f.data))
  | none => 0

def HeldPage.size (h : HeldPage) : Nat := h.shape.heldSize h.unchanged

/-- Private pages of a slot. -/
def State.privatePages (s : State) (slot : Nat) : List PageEntry := s.kv.pages.filter fun p => p.slot == slot && !p.shared

/-- Bytes a held entry takes or will take, its pages still to be written among them. -/
def State.heldBytes (s : State) (h : Held) : Nat :=
  sumList (h.pages.map HeldPage.size) +
    (match h.phase with
     | .moving => sumList ((s.privatePages h.slot).map s.pageHeldSize)
     | _ => 0)

/-- Level 1 in use and its size (09 R296, R271). -/
def State.level1Used (s : State) : Nat := sumList ((s.kv.held.filter fun h => h.level == 1).map s.heldBytes)
def State.level1Size (s : State) : Nat := 16 * s.kv.level1Mib * 1048576

/-- The ranges of the level-2 space that are taken: pages held there, and places kept for the pages of entries on their way. -/
def State.l2Taken (s : State) : List (Nat × Nat) :=
  s.kv.held.flatMap fun h =>
    (h.pages.filterMap fun p => p.off.map fun o => (o, p.size)) ++
      h.places.zip ((s.privatePages h.slot).map s.pageHeldSize)

/-- The lowest offset below `limit` at which `n` bytes meet no taken range. -/
def lowestGap (limit n : Nat) (taken : List (Nat × Nat)) : Option Nat :=
  (sortBy id (0 :: taken.map fun r => r.1 + r.2)).find? fun a =>
    a + n ≤ limit && taken.all fun r => a + n ≤ r.1 || r.1 + r.2 ≤ a

/-- Places for pages of some sizes, each in the lowest gap that the others leave; none when one has no room. -/
def gapsFor (limit : Nat) : List Nat → List (Nat × Nat) → Option (List Nat)
  | [], _ => some []
  | n :: ns, taken => (lowestGap limit n taken).bind fun a => (gapsFor limit ns ((a, n) :: taken)).map fun l => a :: l

/-- The level-2 offsets of pages of some sizes; none when level 2 has no room for them (DESIGN CHOICE, log entry 58: each page stands in one
piece at the lowest gap). Level 2 exists while it is registered, feature 5 is selected and a lease is live (11 R394, R397). -/
def State.level2Places (s : State) (sizes : List Nat) : Option (List Nat) :=
  s.dp.l2Size.bind fun n => if s.leaseLive && s.feature 5 then gapsFor n sizes s.l2Taken else none

/-- A held entry released early: the slot becomes EXPIRED, event 4 is sent (09 R301). -/
def State.releaseEarly (s : State) (slot : Nat) : State :=
  let ctx := match s.slot slot with
    | some x => x.ctx
    | none => 0
  (s.slotExpire slot).async 4 (natLe 2 slot ++ natLe 1 ctx)

/-- An L2PUT frame (11 Table 11.3). -/
def State.l2put (s : State) (off : Nat) (data : Bytes) : State :=
  match s.outPort with
  | some p => s.sendFrame { port := p, version := s.txVersion, type := 20, chan := 0, context := 0, queue := 0, seq := 0,
                            tag := 0, payload := natLe 8 off ++ data }
  | none => s

/-- Bytes of a held page (09 R296): K then V, records in token and head order, d/2 bytes of elements then block scales. A
page held unchanged has the layout of 09 Table 9.1. Positions never appended read zero with scale 0x01. -/
def heldPageBytes (h : HeldPage) : Bytes :=
  let l := h.shape
  let order := (List.range 64).flatMap fun t => (List.range l.heads).map fun k => (t, k)
  if h.unchanged then
    let raw (isV : Bool) : List KvGroup := order.map fun e =>
      (h.raw.find? fun g => g.is isV e.1 e.2).getD ⟨isV, e.1, e.2, 1, List.replicate l.dim 0, .committed⟩
    let elems (gs : List KvGroup) : Bytes := gs.flatMap fun g => g.elems.flatMap (natLe (if h.b16 then 2 else 1))
    let scales (gs : List KvGroup) : Bytes := if h.b16 then [] else gs.flatMap fun g => natLe 1 g.scale
    elems (raw false) ++ elems (raw true) ++ scales (raw false) ++ scales (raw true)
  else
    [false, true].flatMap fun isV => order.flatMap fun e =>
      let bs := match h.groups.find? fun g => g.1 == isV && g.2.1 == e.1 && g.2.2.1 == e.2 with
        | some g => g.2.2.2
        | none => List.replicate (l.dim / 32) (1, List.replicate 32 0)
      let elems := bs.flatMap (·.2)
      ((List.range (l.dim / 2)).map fun i => BitVec.ofNat 8 (at' elems (2 * i) 0 + 16 * at' elems (2 * i + 1) 0)) ++
        bs.map fun b => BitVec.ofNat 8 b.1

/-- A held page read back from its bytes. -/
def heldPageFrom (h : HeldPage) (b : Bytes) : HeldPage :=
  let heads := h.shape.heads
  let order := (List.range 64).flatMap fun t => (List.range heads).map fun k => (t, k)
  let d := h.shape.dim
  let half := 64 * heads
  if h.unchanged then
    let w := if h.b16 then 2 else 1
    let area := half * d * w
    { h with raw := [false, true].flatMap fun isV => order.map fun e =>
        let i := e.1 * heads + e.2
        let base := if isV then area else 0
        ⟨isV, e.1, e.2, if h.b16 then 1 else fld b (2 * area + (if isV then half else 0) + i) 1,
          (List.range d).map (fun k => fld b (base + (i * d + k) * w) w), .committed⟩ }
  else
    let rec' := d / 2 + d / 32
    { h with groups := [false, true].flatMap fun isV => order.map fun e =>
        let i := (if isV then half else 0) + e.1 * heads + e.2
        (isV, e.1, e.2, (List.range (d / 32)).map fun k =>
          (fld b (i * rec' + d / 2 + k) 1,
           (List.range 32).map fun x => bits (fld b (i * rec' + (32 * k + x) / 2) 1) (4 * (x % 2)) 4)) }

/-- A held page put out at an offset of level 2 in L2PUT frames (09 R301, 11 R394). -/
def State.putPage (s : State) (off : Nat) (p : HeldPage) : State × HeldPage :=
  let b := heldPageBytes p
  ((List.range (ceilDiv b.length 65528)).foldl (fun st i => st.l2put (off + 65528 * i) (slice b (65528 * i) 65528)) s,
   { p with off := some off, got := [], torn := [], groups := [], raw := [] })

/-- Sizes of the pages that a move of an entry to level 2 takes there: those it has in the module, then those still to be written. -/
def State.toPlace (s : State) (h : Held) : List Nat :=
  ((h.pages.filter fun p => p.off.isNone).map HeldPage.size) ++
    (if h.phase = .moving then (s.privatePages h.slot).map s.pageHeldSize else [])

/-- An entry moves to level 2 at the offsets of a list: the pages it has go out now, those still to be written keep their places. -/
def State.toLevel2 (s : State) (slot : Nat) (offs : List Nat) : State :=
  match s.heldOf slot with
  | none => s
  | some h =>
    let here := h.pages.filter fun p => p.off.isNone
    let r := (here.zip offs).foldl (fun (acc : State × List HeldPage) e =>
      let n := acc.1.putPage e.2 e.1
      (n.1, acc.2 ++ [n.2])) (s, h.pages.filter fun p => p.off.isSome)
    r.1.modHeld slot fun x => { x with level := 2, pages := r.2, places := offs.drop here.length }

/-- The oldest level-1 entry that no claim restores, lowest slot on a tie. -/
def State.oldestHeld (s : State) (but : Nat) : Option Held :=
  argMin (fun h => h.h * 65536 + h.slot)
    (s.kv.held.filter fun h => h.level == 1 && (h.phase == .resting || h.phase == .moving) && h.slot != but)

/-- Room in level 1 for `need` bytes, older entries moved to level 2 or released early (09 R301). -/
def State.level1Room : Nat → Nat → Nat → State → State
  | 0, _, _, s => s
  | f + 1, but, need, s =>
    if s.level1Used + need ≤ s.level1Size then s
    else
      match s.oldestHeld but with
      | none => s
      | some h =>
        let s1 := match s.level2Places (s.toPlace h) with
          | some offs => s.toLevel2 h.slot offs
          | none => s.releaseEarly h.slot
        State.level1Room f but need s1

/-- A slot enters the tier (09 R298): HELD, its pages to be written one by one. What a restore that ended early had not brought back stays
there. Level 1 takes the entry where it has or gets room, else level 2, else it is released early (09 R301). -/
def State.enterTier (s : State) (slot ttl : Nat) : State :=
  match s.slot slot with
  | none => s
  | some x =>
    let h : Held :=
      { slot := slot, ctx := x.ctx, h := s.time, ttl := ttl, level := 1,
        phase := if (s.privatePages slot).isEmpty then .resting else .moving,
        pages := (s.heldOf slot).elim [] Held.pages, places := [] }
    let s1 := State.level1Room (s.kv.held.length + 1) slot (s.heldBytes h) (s.dropHeld slot)
    let s2 := (s1.modSlot slot fun y => { y with state := .held })
    let s3 := { s2 with kv := { s2.kv with held := s2.kv.held ++ [h] } }
    if s1.level1Used + s1.heldBytes h ≤ s1.level1Size ∧ h.pages.all fun p => p.off.isNone then s3
    else
      match s3.level2Places (s3.toPlace h) with
      | some offs => s3.toLevel2 slot offs
      | none => s3.releaseEarly slot

/-- Whether a held entry is live now (09 R299). -/
def State.heldLive (s : State) (h : Held) : Bool :=
  h.h ≤ s.tm.counter && s.tm.counter < h.h + ticksPerSec * h.ttl

/-- The next page of a moving entry written to the tier, its frame returned (09 R298). -/
def State.writePage (s : State) (h : Held) (p : PageEntry) (last : Bool) : State :=
  match s.frame p.frame with
  | some f =>
    let s1 := (s.freeFrame p.frame).clearPages fun q => q.is p.slot p.draft p.layer p.n
    let r := match h.places with
      | o :: _ => s1.putPage o (holdPage p f.data)
      | [] => (s1, holdPage p f.data)
    r.1.modHeld h.slot fun x =>
      { x with pages := x.pages ++ [r.2], places := x.places.drop 1, phase := if last then .resting else .moving }
  | none => s

/-- A moving entry takes its next page to the tier. Where the lease that level 2 needs has ended since it was given places there, what is not
written yet goes to level 1 while that has room, else the entry is released early: level 2 counts as absent (09 R301, 11 R397; DESIGN CHOICE, log
entry 58, since the spec speaks of entries and not of pages). -/
def State.moveOnePage (s : State) (slot : Nat) : State :=
  match s.heldOf slot, s.privatePages slot with
  | some h, p :: rest =>
    if h.places.isEmpty || s.leaseLive then s.writePage h p rest.isEmpty
    else if s.level1Used + sumList ((p :: rest).map s.pageHeldSize) ≤ s.level1Size then
      (s.modHeld slot fun x => { x with places := [] }).writePage { h with places := [] } p rest.isEmpty
    else s.releaseEarly slot
  | _, _ => s

/-- Every page of a moving entry written: what a round that claims the slot waits for (09 Table 9.5). -/
def State.finishMove (s : State) (slot : Nat) : State :=
  if (s.heldOf slot).any fun h => h.phase == .moving then
    (List.range (s.privatePages slot).length).foldl (fun st _ => st.moveOnePage slot) s
  else s

/-- L2GET frames for every page of a level-2 entry (11 R394). -/
def State.l2fetch (s : State) (slot : Nat) : State :=
  match s.heldOf slot, s.outPort with
  | some h, some p =>
    let s1 := (h.pages.filter fun pg => pg.off.isSome).foldl (fun st pg => st.sendFrame
      { port := p, version := st.txVersion, type := 21, chan := 0, context := 0, queue := 0, seq := 0, tag := 0,
        payload := natLe 8 (pg.off.getD 0) ++ natLe 4 pg.size ++ natLe 4 0 }) s
    s1.modHeld slot fun x => { x with phase := .fetching }
  | _, _ => s

/-- Groups brought back to a page of a slot: those below the slot's pointer may be read (09 R275), and what the step has appended stays. -/
def restoredGroups (h : HeldPage) (pointer : Nat) (now : List KvGroup) : List KvGroup :=
  now ++ ((restorePage h).filter fun g => !now.any fun x => x.is g.isV g.tok g.head).map fun g =>
    if 64 * h.n + g.tok < pointer then g else { g with state := .rolledBack }

/-- The frame a held page comes back to: that which a step has reserved for it, else a new one. -/
def State.restoreFrame (s : State) (slot : Nat) (p : HeldPage) : Option (FrameId × State) :=
  match s.page slot p.draft p.layer p.n with
  | some q => some (q.frame, s)
  | none => (s.newFrame slot p.layer p.shape.frameSize (.priv slot)).map fun r =>
      (r.1, r.2.setPage ⟨slot, p.draft, p.layer, p.n, r.1, false, p.shape⟩)

/-- Whether a held page, as it came back, holds an infinity or NaN: one that is written into no pigeonhole (03 R71). -/
def HeldPage.noNumber (h : HeldPage) : Bool :=
  if h.unchanged then h.raw.any fun g => if h.b16 then g.elems.any (FloatFmt.special Sys2Proof.Machine.b16) else e4m3Bad g.scale || g.elems.any e4m3Bad
  else h.groups.any fun g => g.2.2.2.any fun b => e4m3Bad b.1

/-- The next held page of a restoring entry written back into a frame, which becomes private (09 R300); unchanged when no frame is free, or when the
page is no number. -/
def State.restoreOnePage (s : State) (slot : Nat) : State :=
  match s.heldOf slot with
  | some h =>
    match h.pages with
    | p :: rest =>
      match s.slot slot, s.restoreFrame slot p with
      | some x, some (id, s1) =>
        if p.noNumber then s
        else
          let s2 := s1.modFrame id fun f =>
            { f with owner := .priv slot, data := restoredGroups p (if p.draft then x.draftCommit else x.commit) f.data }
          if rest.isEmpty then s2.dropHeld slot else s2.modHeld slot fun y => { y with pages := rest }
      | _, _ => s
    | [] => s.dropHeld slot
  | none => s

/-- Whether the tier still holds pages of a layer of a slot: what the layer's attention waits for (09 R300). -/
def State.layerHeld (s : State) (slot : Nat) (draft : Bool) (layer : Nat) : Bool :=
  (s.heldOf slot).any fun h => h.pages.any fun p => p.draft == draft && p.layer == layer

/-- Expired entries released (09 R299): those whose window has ended and that no claim restores. -/
def State.expireHeld (s : State) (slot : Nat) : State :=
  match s.heldOf slot with
  | some h =>
    match h.phase with
    | .moving => (s.finishMove slot).slotExpire slot
    | .resting => s.slotExpire slot
    | _ => s
  | none => s

def State.expireAllHeld (s : State) : State :=
  (s.kv.held.filter fun h => !s.heldLive h).foldl (fun st h => st.expireHeld h.slot) s

/-! ### Page exhaustion (09 R302) -/

/-- Whether an open or waiting step names a slot; a payload of another VERSION is not read (01 R30). -/
def State.slotNamed (s : State) (slot : Nat) : Bool :=
  (s.sv.steps.any fun st => st.cmd.entries.any fun e => e.slot == slot) ||
    (s.sv.queues.any fun q => (q.waiting ++ q.reorder).any fun w =>
      fld w.payload 0 1 == 1 && (List.range (fld w.payload 2 2)).any fun i =>
        fld w.payload (if w.tuiven1 then 32 + 12 * i else 64 + 16 * i) 2 == slot)

/-- The idle sequence moved to the tier next: lowest priority, longest since its last commit, lowest slot (09 R302). -/
def State.idleSlot (s : State) : Option Slot :=
  argMin (fun x => (x.prio * 18446744073709551616 + x.lastCommit) * 65536 + x.id)
    (s.sv.slots.filter fun x => x.state == .opened && !s.slotNamed x.id)

/-- Moved to the tier by firmware, event 3 sent (09 R302, 11 R397). -/
def State.tierIdle (s : State) (x : Slot) (ttl : Nat) : State :=
  (s.enterTier x.id ttl).async 3 (natLe 2 x.id ++ natLe 1 x.ctx ++ natLe 4 ttl)

/-- Unreferenced nodes evicted while `ok` does not hold. -/
def State.evictWhile (ok : State → Bool) : Nat → State → State
  | 0, s => s
  | f + 1, s =>
    if ok s then s
    else
      match s.victim with
      | some n => State.evictWhile ok f (s.evictNode n)
      | none => s

/-- How the freeing of 09 R302 stands: the frames can be had, a move to the tier goes on, or nothing is left to free. -/
inductive Room where
  | found | moving | exhausted
  deriving DecidableEq, Repr

/-- Idle sequences moved one after the other while `ok` does not hold: the next move begins once the last is over. -/
def State.moveIdle (ok : State → Bool) : Nat → State → State × Room
  | 0, s => (s, .exhausted)
  | f + 1, s =>
    if ok s then (s, .found)
    else if s.kv.held.any fun h => h.phase == .moving then (s, .moving)
    else
      match s.idleSlot with
      | some x => State.moveIdle ok f (s.tierIdle x 600)
      | none => (s, .exhausted)

/-- Steps 1 to 3 of 09 R302. -/
def State.makeRoom (s : State) (ok : State → Bool) : State × Room :=
  if ok s then (s, .found)
  else
    let s1 := State.evictWhile ok (s.kv.nodes.length + 1) s.expireAllHeld
    State.moveIdle ok (s1.sv.slots.length + 2) s1

end Sys2Proof.Machine
end

