-- ==== Sys2Proof/Machine/Steps.lean ====
section
/-! DEFINITION. Step commands and completions: the payload as read (08 Tables 8.4 and 8.5, 11 Table 11.8), the checks of 08
R246, entry results and completion entries (11 Tables 11.11 and 11.12), delivery in queue order (11 R387-R390, R397), how a
step's work is dropped and how a step ends (08 R247, 09 Table 9.4), and what waits for the last step (06 R196, 08 R241). -/

set_option Elab.async false

namespace Sys2Proof.Machine

/-! ### The payload -/

/-- A length-table entry (08 Table 8.5). -/
def parseEntry2 (b : Bytes) : LenEntry :=
  let f := fld b 3 1
  { slot := fld b 0 2, kind := fld b 2 1, output := bits f 0 2, pfx := bit f 2, hold := bit f 3, tokens := fld b 4 2,
    adapterCount := fld b 6 1, adapterIndex := fld b 7 1, position := fld b 8 4, holdTtl := fld b 12 4,
    reservedZero := bits f 4 4 == 0 }

/-- A Tuiven-1 entry: KIND 0, 1 or 4 and OUTPUT 0 to 2; what it lacks is zero (11 R373). -/
def parseEntry1 (b : Bytes) : LenEntry :=
  let f := fld b 3 1
  { slot := fld b 0 2, kind := fld b 2 1, output := bits f 0 2, pfx := false, hold := false, tokens := fld b 4 2,
    adapterCount := 0, adapterIndex := 0, position := fld b 8 4, holdTtl := 0,
    reservedZero := bits f 2 6 == 0 && fld b 6 2 == 0 && bits f 0 2 != 3 && (fld b 2 1 ≤ 1 || fld b 2 1 == 4) }

/-- Entries listed at most: an ENTRY_COUNT above 4,092 is a header fault and its entries are not read. -/
def entriesRead (n : Nat) : Nat := if n ≤ 4092 then n else 0

def parseStep2 (p : Bytes) : StepCmd :=
  let n := fld p 2 2
  let m := entriesRead n
  let ac := fld p 0x18 1
  let adaptersAt := 64 + 16 * m
  let tokensAt := adaptersAt + 4 * ceilDiv ac 2
  let tc := Nat.min (fld p 4 4) ((p.length - tokensAt) / 4)
  { version := fld p 0 1, fence := bit (fld p 1 1) 0,
    reservedZero := bits (fld p 1 1) 1 7 == 0 && allZero (slice p 0x19 39) &&
      (ac % 2 == 0 || fld p (adaptersAt + 2 * ac) 2 == 0),
    entryCount := n, tokenCount := fld p 4 4, stepNumber := fld p 8 8, job := fld p 0x10 4, firstLayer := fld p 0x14 2,
    lastLayer := fld p 0x16 2, entries := (List.range m).map fun i => parseEntry2 (slice p (64 + 16 * i) 16),
    adapterListCount := ac, adapters := (List.range ac).map fun i => fld p (adaptersAt + 2 * i) 2,
    tokens := (List.range tc).map fun i =>
      let v := fld p (tokensAt + 4 * i) 4
      (bits v 0 24, bits v 24 6, bits v 30 2) }

def parseStep1 (p : Bytes) : StepCmd :=
  let n := fld p 2 2
  let m := entriesRead n
  let tokensAt := 32 + 12 * m
  let tc := Nat.min (fld p 4 4) ((p.length - tokensAt) / 4)
  { version := fld p 0 1, fence := false, reservedZero := fld p 1 1 == 0 && allZero (slice p 0x18 8),
    entryCount := n, tokenCount := fld p 4 4, stepNumber := fld p 8 8, job := fld p 0x14 4, firstLayer := fld p 0x10 2,
    lastLayer := fld p 0x12 2, entries := (List.range m).map fun i => parseEntry1 (slice p (32 + 12 * i) 12),
    adapterListCount := 0, adapters := [],
    tokens := (List.range tc).map fun i =>
      let v := fld p (tokensAt + 4 * i) 4
      (bits v 0 24, bits v 24 6, bits v 30 2) }

/-- A payload of another VERSION: the rest is not interpreted (00 R30). -/
def otherVersion (v : Nat) : StepCmd :=
  { version := v, fence := false, reservedZero := true, entryCount := 0, tokenCount := 0, stepNumber := 0, job := 0, firstLayer := 0,
    lastLayer := 0, entries := [], adapterListCount := 0, adapters := [], tokens := [] }

def parseStep (tuiven1 : Bool) (p : Bytes) : StepCmd :=
  if fld p 0 1 ≠ 1 then otherVersion (fld p 0 1) else if tuiven1 then parseStep1 p else parseStep2 p

/-- The payload length due (08 R245, 11 R373). -/
def lengthOfStep (tuiven1 : Bool) (c : StepCmd) : Nat :=
  if tuiven1 then 32 + 12 * c.entryCount + 4 * c.tokenCount
  else 64 + 16 * c.entryCount + 4 * ceilDiv c.adapterListCount 2 + 4 * c.tokenCount

/-- First token of each entry in the token area. -/
def tokenStart (c : StepCmd) (i : Nat) : Nat := sumList ((c.entries.take i).map LenEntry.tokens)

def entryTokens (c : StepCmd) (i : Nat) : List (Nat × Nat × Nat) :=
  match c.entries[i]? with
  | some e => (c.tokens.drop (tokenStart c i)).take e.tokens
  | none => []

/-- Depth of each element of a draft tree from its parents (08 R245). -/
def treeDepths (parents : List Nat) : List Nat :=
  parents.foldl (fun d p => d ++ [if d.isEmpty then 0 else at' d p 0 + 1]) []

/-- Whether the token elements of an entry keep 08 R245. -/
def treeOk (kind vocab : Nat) (toks : List (Nat × Nat × Nat)) : Bool :=
  let parents := toks.map fun t => t.2.1
  toks.all (fun t => t.1 < vocab && t.2.2 == 0) &&
    (if kind = 2 then
      ((List.range toks.length).all fun k => if k = 0 then at' parents 0 0 == 0 else at' parents k 0 < k) &&
        (treeDepths parents).all (· ≤ 16)
     else parents.all (· == 0))

/-- TOKENS of a KIND (08 Table 8.5). -/
def tokensOk (kind n : Nat) : Bool :=
  if kind = 0 then 1 ≤ n
  else if kind = 1 ∨ kind = 3 then n == 1
  else if kind = 2 then 2 ≤ n && n ≤ 64
  else n == 0

/-! ### The checks (08 R246) -/

/-- The state of a slot as a claim at this tick finds it: HELD past its window is EXPIRED (09 R299). -/
def State.claimState (s : State) (slot : Nat) : SlotState :=
  match s.slotState slot with
  | .held =>
    match s.heldOf slot with
    | some h => if s.heldLive h then .held else .expired
    | none => .held
  | x => x

/-- The entry ends with held-miss under 08 Table 8.3. -/
def State.heldMiss (s : State) (e : LenEntry) : Bool :=
  s.claimState e.slot == .expired && e.kind != 4 && !(e.kind == 0 && e.position == 0)

/-- The entry opens its slot. -/
def State.opens (s : State) (e : LenEntry) : Bool :=
  (s.claimState e.slot == .free || s.claimState e.slot == .expired) && e.kind == 0 && e.position == 0

/-- Whether a header fault holds. -/
def State.headerFault (s : State) (c : StepCmd) (len : Nat) (tuiven1 : Bool) (ctx : Context) (m : Model) : Bool :=
  c.version != 1 || !c.reservedZero || c.entryCount == 0 || 4092 < c.entryCount || len != lengthOfStep tuiven1 c ||
    65536 < len || c.tokenCount != sumList (c.entries.map LenEntry.tokens) ||
    c.lastLayer < c.firstLayer || m.layers.length ≤ c.lastLayer || (c.job == 0 && 0 < c.firstLayer) ||
    64 < c.adapterListCount || c.adapters.any (fun a => !ctx.adapters.contains a) ||
    (0 < c.adapterListCount && !s.feature 8)

/-- Whether an entry is a fault by itself; `seen` are the slots that earlier entries name. -/
def State.entryFault (s : State) (c : StepCmd) (ctx : Context) (m : Model) (tuiven1 : Bool) (seen : List Nat) (i : Nat)
    (e : LenEntry) : Bool :=
  let st := s.claimState e.slot
  let owner := match s.slot e.slot with
    | some x => x.ctx == ctx.id
    | none => true
  let pointer := match s.slot e.slot with
    | some x => x.commit
    | none => 0
  !e.reservedZero || 4 < e.kind || seen.contains e.slot ||
    (st == .free && !(e.kind == 0 && e.position == 0)) || !owner ||
    (!s.heldMiss e && !s.opens e && e.position != pointer) ||
    !tokensOk e.kind e.tokens || !treeOk e.kind m.vocab (entryTokens c i) ||
    ((tuiven1 || !s.feature 2) && 2048 < e.tokens) ||
    (e.kind == 3 && ctx.draftModel == 0) ||
    ((e.kind == 2 || e.kind == 3) && (c.firstLayer != 0 || c.lastLayer + 1 != m.layers.length)) ||
    c.adapterListCount < e.adapterIndex + e.adapterCount || 4 < e.adapterCount ||
    (0 < e.adapterCount && !s.feature 8) ||
    (if e.hold then e.holdTtl == 0 || 86400 < e.holdTtl else e.holdTtl != 0) ||
    (e.pfx && !s.feature 3) || (e.hold && !s.feature 4) || (e.kind == 2 && !s.feature 6) || (e.kind == 3 && !s.feature 7) ||
    (e.output == 3 && !s.feature 10)

/-- Slots of a context in states other than FREE. -/
def State.slotsHeldBy (s : State) (ctx : Nat) : Nat := (s.sv.slots.filter fun x => x.ctx == ctx).length

/-- The first offending entry, opening entries counted against SEQ_QUOTA. -/
def State.firstFault (s : State) (c : StepCmd) (ctx : Context) (m : Model) (tuiven1 : Bool) :
    List Nat → Nat → Nat → List LenEntry → Option Nat
  | _, _, _, [] => none
  | seen, opened, i, e :: es =>
    let opensNew := s.claimState e.slot == .free && s.opens e
    let opened1 := if opensNew then opened + 1 else opened
    if s.entryFault c ctx m tuiven1 seen i e || (opensNew && ctx.seqQuota < s.slotsHeldBy ctx.id + opened1) then some i
    else s.firstFault c ctx m tuiven1 (e.slot :: seen) opened1 (i + 1) es

/-- DETAIL of an invalid step; none when the step is valid (08 R246). -/
def State.stepFault (s : State) (c : StepCmd) (len : Nat) (tuiven1 : Bool) (ctx : Context) (m : Model) : Option Nat :=
  if s.headerFault c len tuiven1 ctx m then some 0xFFFF
  else s.firstFault c ctx m tuiven1 [] 0 0 c.entries

/-! ### Completions and results (11 R387, R388) -/

/-- The bytes of one entry's result. -/
def EntryResult.bytes (r : EntryResult) : Bytes :=
  natLe 2 r.slot ++ natLe 1 r.estatus ++ natLe 1 r.cause ++ natLe 2 r.ntokens ++ natLe 2 r.matched ++
    natLe 1 (Nat.min 255 r.rejects) ++ natLe 1 r.output ++ natLe 2 0 ++ natLe 4 r.commit ++
    r.tokens.flatMap (natLe 4) ++ r.top.flatMap fun p => natLe 4 p.1 ++ natLe 4 p.2

def Completion.record (c : Completion) : Bytes := c.results.flatMap EntryResult.bytes

/-- A completion entry (11 Table 11.11). -/
def Completion.bytes (c : Completion) (tuiven1 : Bool) (addr : Nat) : Bytes :=
  let len := c.record.length
  let head := natLe 1 c.status ++ natLe 1 (b2n c.replayed + 2 * b2n c.orphan) ++ natLe 2 c.queue ++ natLe 4 c.seq ++
    natLe 8 c.tag
  if tuiven1 then head ++ natLe 8 addr ++ natLe 4 len ++ natLe 2 c.detail ++ natLe 2 0
  else head ++ natLe 8 c.stepNumber ++ natLe 2 c.results.length ++ natLe 2 c.detail ++ natLe 4 len ++ natLe 8 addr ++
    natLe 8 c.doneTime ++ natLe 16 0

/-- Address ranges of the result records that the host has not released. -/
def State.liveRecords (s : State) : List (Nat × Nat) :=
  s.sv.queues.flatMap fun q => (q.unacked.filter fun c => c.addr != 0).map fun c => (c.addr, c.record.length)

/-- Where a result record is placed: the first 16-byte step of the result windows, by window number, at which it meets no
record that stands; 0 when none has room (log entry 14). -/
def State.placeRecord (s : State) (n : Nat) : Nat :=
  let live := s.liveRecords
  let tryAt (w : Window) (a : Nat) : Bool :=
    w.base ≤ a && a + n ≤ w.base + w.size && live.all fun r => a + n ≤ r.1 || r.1 + r.2 ≤ a
  let starts (w : Window) : List Nat := w.base :: live.map fun r => ceilDiv (r.1 + r.2) 16 * 16
  let ws := sortBy Window.id (s.sv.windows.filter fun w => w.kind == .result)
  match (ws.flatMap fun w => (sortBy id (starts w)).map fun a => (w, a)).find? fun e => tryAt e.1 e.2 with
  | some e => e.2
  | none => 0

/-- A frame's payload as filled so far, unless it is empty. -/
def packed (cur : Bytes) (n : Nat) : List (Bytes × Nat) := if cur.isEmpty then [] else [(cur, n)]

/-- Payload pieces of COMPLETION frames from (entry and record) items, in order: (bytes, entries that begin) (11 R387).
`cur` is the frame being filled, in which `n` entries begin. -/
def packCompletions (cur : Bytes) (n : Nat) : List Bytes → List (Bytes × Nat)
  | [] => packed cur n
  | i :: is =>
    if cur.length + i.length ≤ 65528 then packCompletions (cur ++ i) (n + 1) is
    else if i.length ≤ 65528 then packed cur n ++ packCompletions i 1 is
    else
      let cut := pieces 65528 (i.length / 65528 + 1) i
      packed cur n ++ ((cut.dropLast.zip (List.range cut.length)).map fun e => (e.1, if e.2 = 0 then 1 else 0)) ++
        packCompletions (cut.getLast?.getD []) 0 is

/-- Room for one completion of a queue (11 R384, R387, R390). -/
def Queue.room (q : Queue) (window : Bool) : Bool :=
  if window then q.comp.tail - q.comp.head < 16 else q.comp.tail - q.comp.head < 2 ^ q.comp.k

/-- Unacknowledged completions of the module (11 R397). -/
def State.unackedCount (s : State) : Nat :=
  sumList (s.sv.queues.map fun q => q.unacked.length + (q.retained.filter fun r => r.2.isEmpty).length)

/-- One completion written: its record, and its entry in the completion ring or window. The bytes of entry and record. -/
def State.writeCompletion (s : State) (qn : Nat) (c : Completion) : State × Bytes :=
  match s.queue qn with
  | none => (s, [])
  | some q =>
    let addr := s.placeRecord c.record.length
    let entry := c.bytes s.tuiven1 addr
    let s1 := if addr = 0 then s else s.writeMem addr c.record
    let size := if s.tuiven1 then 32 else 64
    let s2 := if s.windowMode then s1 else s1.writeMem (q.comp.addr + size * (q.comp.tail % 2 ^ q.comp.k)) entry
    (s2.modQueue qn fun x => { x with comp := { x.comp with tail := x.comp.tail + 1 },
                                      unacked := x.unacked ++ [{ c with addr := addr }],
                                      window := if s.windowMode then setKey x.window (q.comp.tail % 16) entry else x.window,
                                      order := x.order.filter fun n => n != c.seq,
                                      ended := x.ended.filter fun y => y.seq != c.seq },
     entry ++ c.record)

/-- The step of a completion is no longer open. -/
def State.closeStep (s : State) (qn seq : Nat) : State :=
  { s with sv := { s.sv with steps := s.sv.steps.filter fun x => !(x.queue == qn && x.seq == seq) } }

/-- The completion of a queue that may be delivered next: that of the first number in submission order. -/
def Queue.nextEnded (q : Queue) : Option Completion :=
  match q.order with
  | [] => none
  | n :: _ => q.ended.find? fun c => c.seq == n

/-- A queue without a completion that it orders and holds. -/
def State.takeEnded (s : State) (qn : Nat) (c : Completion) : State :=
  s.modQueue qn fun x => { x with order := x.order.filter (fun n => n != c.seq), ended := x.ended.filter fun y => y.seq != c.seq }

/-- A completion without a lease: dropped beyond 4,096, else written where its ring or window has room, and retained (11 R397). -/
def State.retain (s : State) (q : Queue) (c : Completion) : State :=
  let drop := 4096 ≤ s.unackedCount
  let w := if !drop && q.room s.windowMode && (q.retained.all fun r => !r.2.isEmpty) then s.writeCompletion q.id c else (s.takeEnded q.id c, [])
  if drop then { w.1 with dp := { w.1.dp with dropped := w.1.dp.dropped + 1 } }
  else w.1.modQueue q.id fun x => { x with retained := x.retained ++ [(c, w.2)] }

/-- Completions of one queue delivered while there is room; the items to send. -/
def State.flushQueue : Nat → Nat → State → State × List Bytes
  | 0, _, s => (s, [])
  | f + 1, qn, s =>
    match s.queue qn with
    | none => (s, [])
    | some q =>
      match q.nextEnded with
      | none => (s, [])
      | some c =>
        if q.silent then State.flushQueue f qn ((s.takeEnded qn c).closeStep qn c.seq)
        else if !s.leaseLive then State.flushQueue f qn ((s.retain q c).closeStep qn c.seq)
        else if q.room s.windowMode then
          let w := s.writeCompletion qn c
          let r := State.flushQueue f qn (w.1.closeStep qn c.seq)
          (r.1, w.2 :: r.2)
        else (s, [])

/-- The COMPLETION frames of the items of a queue, in ring mode (11 R387). -/
def State.sendCompletions (s : State) (qn : Nat) (items : List Bytes) : State :=
  match s.queue qn with
  | none => s
  | some q =>
    if items.isEmpty || s.windowMode then s
    else
      match q.ownPort.filter (fun p => (s.dsp p).selected) <|> s.outPort with
      | none => s
      | some p =>
        (packCompletions [] 0 items).foldl (fun st e =>
          st.sendFrame { port := p, version := st.txVersion, type := 7, chan := 0, context := 0, queue := qn, seq := 0,
                         tag := 0, payload := natLe 4 q.comp.tail ++ natLe 2 e.2 ++ natLe 2 0 ++ e.1 }) s

/-- Deliver what a queue can deliver, with its COMPLETION frames (11 R387). -/
def State.deliver (s : State) (qn : Nat) : State :=
  match s.queue qn with
  | none => s
  | some q =>
    let r := State.flushQueue (q.ended.length + 1) qn s
    r.1.sendCompletions qn r.2

/-! ### What waits for the last step -/

/-- Whether a step belongs to a model. -/
def OpenStep.names (o : OpenStep) (model : Nat) : Bool := o.model == model || (o.draftModel != 0 && o.draftModel == model)

/-- Whether a completion of the step already stands: its work is over. -/
def State.stepEnded (s : State) (o : OpenStep) : Bool :=
  match s.queue o.queue with
  | some q => q.ended.any fun c => c.seq == o.seq
  | none => true

/-- Steps whose work is not over. -/
def State.liveSteps (s : State) : List OpenStep := s.sv.steps.filter fun o => !s.stepEnded o

/-- The model's masters, records, trees and arrays released (06 R196, 09 R289). -/
def State.releaseModel (s : State) (n : Nat) : State :=
  let mine (a : ArrId) : Bool := a.arr != 16 && (s.dir a).model == n && (s.dir a).astate != .free
  let s0 := { s with wt := { s.wt with
      models := s.wt.models.filter fun m => m.num != n,
      masters := s.wt.masters.filter fun m => m.hdr.model != n,
      assembling := s.wt.assembling.filter fun a => a.model != n,
      records := s.wt.records.filter fun e => !mine e.1,
      directory := s.wt.directory.map fun (e : ArrId × DirEntry) => if mine e.1 then (e.1, e.2.released) else e } }
  let s1 := { s0 with tl := { s0.tl with regions := s0.tl.regions.map fun (r : Region) => r.dropLists mine } }
  let s2 := (s1.tl.tiles.map Tile.id).foldl (fun st id => st.releaseTile id fun k => mine (id.array k)) s1
  let s3 := s2.retireTrees n
  State.releaseTrees (s3.kv.nodes.length + 1) s3

def State.dropContext (s : State) (n : Nat) : State :=
  let slots := (s.sv.slots.filter fun x => x.ctx == n).map Slot.id
  let s1 := slots.foldl State.slotFree s
  { s1 with sv := { s1.sv with contexts := s1.sv.contexts.filter fun c => c.id != n } }

/-- A queue being deleted is gone once its last completion has been delivered (12 Table 12.4). -/
def Queue.gone (q : Queue) : Bool := q.deleting && q.order.isEmpty && q.ended.isEmpty && q.retained.isEmpty

def State.sweepQueues (s : State) : State :=
  { s with sv := { s.sv with queues := s.sv.queues.filter fun q => !q.gone } }

/-- The same for one queue. -/
def State.sweepQueue (s : State) (n : Nat) : State :=
  match s.queue n with
  | some q => if q.gone then { s with sv := { s.sv with queues := s.sv.queues.filter fun x => x.id != n } } else s
  | none => s

/-- What waits for the last open step: queues whose last completion has been delivered, contexts, models and adapters. -/
def State.sweep (s : State) : State :=
  let s1 := s.sweepQueues
  let ctxs := (s1.sv.contexts.filter fun c => c.discarding && !(s1.liveSteps.any fun o => o.ctx == c.id)).map Context.id
  let s2 := ctxs.foldl State.dropContext s1
  let ms := (s2.wt.models.filter fun m => m.unloading && !(s2.liveSteps.any fun o => o.names m.num)).map Model.num
  let s3 := ms.foldl State.releaseModel s2
  { s3 with sv := { s3.sv with adapters := s3.sv.adapters.filter fun a =>
      !(a.removed && !(s3.liveSteps.any fun o => o.cmd.adapters.contains a.id)) } }

/-! ### A step's work dropped, and its end -/

def Bank.of (b : Bank) (tag : Nat) : Bool :=
  match b.red with
  | some r => r.stepTag == tag
  | none => false

/-- A bank of a voided epoch goes to EMPTY with its registers at zero (05 Table 5.2). -/
def Bank.void (b : Bank) (tag : Nat) : Bank := if b.of tag then emptyBank else b

/-- A tile without the fires and banks of a step. Fires already latched stay; their values go nowhere (14 R469). -/
def Tile.void (t : Tile) (tag : Nat) : Tile :=
  { t with fires := t.fires.filter fun f => f.red.stepTag != tag,
           repeatDue := t.repeatDue.filter fun f => f.red.stepTag != tag,
           partials := t.partials.filter fun e => e.1.stepTag != tag,
           bank0 := t.bank0.void tag, bank1 := t.bank1.void tag }

/-- What a step wrote in a pigeonhole and did not commit stays as bytes that nothing reads (09 R278, R293). -/
def Frame.rollBack (f : Frame) (tag : Nat) : Frame :=
  { f with data := f.data.map fun g => if g.state = .tentative tag then { g with state := .rolledBack } else g }

/-- Every bank, fire, line, fall-back job, spot comparison and input slot of a step dropped (14 Tables 14.4, 14.5). -/
def State.dropWork (s : State) (tag : Nat) : State :=
  { s with
    kv := { s.kv with frames := s.kv.frames.map fun f => f.rollBack tag },
    tl := { s.tl with tiles := s.tl.tiles.map fun t => t.void tag,
                      regions := s.tl.regions.map fun r =>
                        { r with jobs := r.jobs.filter fun j => j.stepTag != tag,
                                 spots := r.spots.filter fun j => j.stepTag != tag },
                      spotLast := s.tl.spotLast.filter fun j => j.stepTag != tag },
    rd := { s.rd with lines := s.rd.lines.filter fun l => l.stepTag != tag },
    sv := { s.sv with inputs := s.sv.inputs.filter fun i => i.stepTag != tag } }

/-- Whether a job and a job step are those of a step. -/
def OpenStep.isJobStep (o : OpenStep) (job stepNumber : Nat) : Bool :=
  o.cmd.job != 0 && job == o.cmd.job && stepNumber == o.cmd.stepNumber

/-- The work of some tokens of a step dropped: those of an entry that ends by itself while the step goes on. Its fires already latched stay fires
of the step, and comparisons of them remain due (04 R135). -/
def State.dropTokens (s : State) (o : OpenStep) (gone : Nat → Bool) : State :=
  let lines := (s.rd.lines.filter fun l => l.stepTag == o.tag && gone l.dest.token).map Line.id
  let mine (r : Reduction) : Bool := r.stepTag == o.tag && lines.contains r.line
  let void (b : Bank) : Bank := if b.red.any mine then emptyBank else b
  { s with
    tl := { s.tl with
      tiles := s.tl.tiles.map fun t =>
        { t with fires := t.fires.filter fun f => !mine f.red, repeatDue := t.repeatDue.filter fun f => !mine f.red,
                 partials := t.partials.filter fun e => !mine e.1, bank0 := void t.bank0, bank1 := void t.bank1 },
      regions := s.tl.regions.map fun r =>
        { r with jobs := (r.jobs.map fun j => { j with parts := j.parts.filter fun p => !mine p.red }).filter fun j => !j.parts.isEmpty } },
    rd := { s.rd with
      lines := s.rd.lines.filter fun l => !(l.stepTag == o.tag && gone l.dest.token),
      ledgers := s.rd.ledgers.map fun g =>
        if o.isJobStep g.job g.step then { g with lines := g.lines.filter fun l => !gone l.dest.token } else g },
    sv := { s.sv with inputs := s.sv.inputs.filter fun i => !(i.stepTag == o.tag && gone i.token) } }

/-- An entry of a step still to begin: it waits for its match or for frames, and no token of it is issued. -/
def OpenStep.toBegin (o : OpenStep) (i : Nat) : Bool :=
  ((o.cmd.entries[i]?).any fun e => e.kind != 4) && ((o.entries[i]?).any fun w => w.status.isNone) && o.tokens.all fun t => t.entry != i

/-- The ledger of a job step released (05 R158). -/
def State.dropLedger (s : State) (o : OpenStep) : State :=
  if o.cmd.job = 0 then s
  else { s with rd := { s.rd with ledgers := s.rd.ledgers.filter fun l => !(l.job == o.cmd.job && l.step == o.cmd.stepNumber) },
                fb := { s.fb with activations := s.fb.activations.filter fun a =>
                          !(a.job == o.cmd.job && a.step == o.cmd.stepNumber) } }

/-- The prefix match of an entry undone (09 R286). -/
def State.undoMatch (s : State) (o : OpenStep) (i : Nat) (slot : Nat) : State :=
  match o.entries[i]? with
  | some w =>
    if w.matched = 0 then s
    else
      let s1 := s.clearPages fun p => p.slot == slot && p.shared && !p.draft && p.n < ceilDiv w.matched 64
      match s1.slot slot with
      | some x => ((s1.refNode x.node false).refNode w.oldNode true).modSlot slot fun y => { y with node := w.oldNode }
      | none => s1
  | none => s

/-- The slot of an entry after a step that did not complete (08 Table 8.3). -/
def SlotState.afterFailure : SlotState → SlotState
  | .busy => .opened
  | .ending 2 => .held
  | .ending 3 => .opened
  | .ending 4 => .expired
  | .ending _ => .opened
  | x => x

/-- What `ending` records: 2 HELD, 3 OPEN, 4 EXPIRED. -/
def SlotState.record : SlotState → Nat
  | .held => 2
  | .expired => 4
  | _ => 3

/-- The result of an entry that produced nothing. -/
def State.plainResult (s : State) (e : LenEntry) (status cause : Nat) : EntryResult :=
  { slot := e.slot, estatus := status, cause := cause, ntokens := 0, matched := 0,
    rejects := (match s.slot e.slot with
      | some x => if e.kind = 2 ∨ e.kind = 3 then x.rejects else 0
      | none => 0), output := e.output,
    commit := (match s.slot e.slot with
      | some x => x.commit
      | none => 0), tokens := [], top := [] }

/-- A completion of a step that has, or never had, a round. -/
def mkCompletion (status detail seq tag queue stepNumber port : Nat) (replayed orphan : Bool) (time : Nat)
    (r : List EntryResult) : Completion :=
  { status := status, replayed := replayed, orphan := orphan, queue := queue, seq := seq, tag := tag,
    stepNumber := stepNumber, detail := detail, doneTime := time, results := r, port := port, addr := 0 }

def State.putEnded (s : State) (qn : Nat) (c : Completion) : State :=
  (s.modQueue qn fun q => { q with ended := q.ended ++ [c] })

/-- An open step's work undone: fires, banks and lines dropped, reservations back to FREE, matches undone, the slots of entries that
had not ended as they were before the step (09 Table 9.4, 08 Table 8.3). -/
def State.undoStep (s : State) (o : OpenStep) : State :=
  let s1 := (s.dropWork o.tag).dropLedger o
  let idx := (List.range o.cmd.entries.length).zip o.cmd.entries
  let s2 := idx.foldl (fun st e => (st.undoMatch o e.1 e.2.slot).releaseReserved o.tag e.2.slot) s1
  idx.foldl (fun st e =>
    match o.entries[e.1]? with
    | some w => if w.status.isSome then st else st.modSlot e.2.slot fun x => { x with state := x.state.afterFailure }
    | none => st) s2

/-- An open step ends with a status other than completed: its work is undone, no entry commits, and its completion is written in
queue order (08 R247). -/
def State.failStep (s : State) (tag status : Nat) : State :=
  match s.stepOf tag with
  | none => s
  | some o =>
    let s3 := s.undoStep o
    let c := mkCompletion status 0 o.seq o.hostTag o.queue o.cmd.stepNumber o.port (0 < o.epoch) (!s3.leaseLive) s3.time
      (o.cmd.entries.map fun e => s3.plainResult e status 0)
    ((s3.putEnded o.queue c).deliver o.queue).sweep

/-! ### Abort of a job (10 R352, R353) -/

/-- The open steps of an aborted job: epochs voided, reservations returned; they stay open and hold their queues. -/
def State.abortStep (s : State) (o : OpenStep) : State :=
  let s1 := (s.dropWork o.tag).dropLedger o
  let s2 := o.cmd.entries.foldl (fun st e => st.releaseReserved o.tag e.slot) s1
  s2.modStep o.tag fun x => { x with aborted := true, tokens := [] }

/-- A job declared aborted for a REASON, at most once per JOB; `module` is the one concerned, which the notices and the event name. -/
def State.abortJob (s : State) (job reason module : Nat) : State :=
  if job = 0 || s.fb.aborted.contains job then s
  else
    let s1 := { s with fb := { s.fb with aborted := s.fb.aborted ++ [job], held := s.fb.held.filter fun a => a.job != job,
                                         activations := s.fb.activations.filter fun a => a.job != job },
                       rd := { s.rd with ledgers := s.rd.ledgers.filter fun l => l.job != job } }
    let s2 := (s1.liveSteps.filter fun o => o.cmd.job == job).foldl State.abortStep s1
    (s2.notifyJob job 1 reason module).reportAbort job reason module

/-- A frame sent on its route. One of a job without a usable port is dropped and counted, and the job is aborted (10 R334, R352). -/
def State.sendOrAbort (s : State) (h : CourierHdr) (payload : Bytes) : State :=
  match s.routePort h with
  | some _ => s.sendRouted h payload
  | none => (s.sendRouted h payload).abortJob h.job 2 h.dest

/-- A frame of this module for a job. -/
def State.sendForJob (s : State) (type dest job : Nat) (payload : Bytes) : State :=
  s.sendOrAbort (s.courierHdr type dest job payload.length) payload

/-! ### Steps that never had a round -/

/-- The completion of a step without a round, put in its turn among those of its queue. -/
def State.putUnbegun (s : State) (q : Queue) (w : Waiting) (status detail : Nat) : State :=
  let cmd := parseStep w.tuiven1 w.payload
  let c := mkCompletion status detail w.seq w.tag q.id cmd.stepNumber w.port false (!s.leaseLive) s.time
    (cmd.entries.map fun e => s.plainResult e status 0)
  (s.putEnded q.id c).deliver q.id

/-- A step without a round, or whose round does not begin, ends with a status; nothing else changes. -/
def State.endUnbegun (s : State) (q : Queue) (w : Waiting) (status detail : Nat) : State :=
  (s.putUnbegun q w status detail).sweep

end Sys2Proof.Machine
end

