-- ==== Sys2Proof/Machine/Issue.lean ====
section
/-! DEFINITION. The work of an open step: input vectors, fires and lines of one token at one tensor (05 R148-R150, 08
R250-R252), the layer's stages (log entry 9), attention (09 R279-R281), delivery of a completed line to its consumer (05 R151,
09 R276), drafting (08 R266, 09 R295), and activations to and from other modules (10 R328, R329). -/

set_option Elab.async false

namespace Sys2Proof.Machine

/-! ### The blocks of a tensor -/

/-- One array block of a tensor (06 R172, R547): its array, first row within the tensor, and tensor column block. -/
structure Blk where
  arr : ArrId
  rowOff : Nat
  col : Nat
  deriving DecidableEq, Repr

def Master.blocks (m : Master) : List Blk :=
  if m.hdr.arrayMask = 0 then []
  else (List.range (m.hdr.rb * m.hdr.cb)).map fun p =>
    ⟨m.hdr.arrayOf p, m.hdr.rowFirst + 256 * (p % m.hdr.rb), m.hdr.colFirst / 256 + p / m.hdr.rb⟩

/-- The blocks of a tensor that the module holds. -/
def State.blocks (s : State) (model layer tensor : Nat) : List Blk :=
  (s.wt.masters.filter fun m => m.hdr.model == model && m.hdr.layer == layer && m.hdr.tensor == tensor).flatMap
    Master.blocks

def State.heldCols (s : State) (model layer tensor : Nat) : List Nat :=
  ((s.blocks model layer tensor).map Blk.col).eraseDups

/-- Whether every block of a tensor is held by accepted parcels whose arrays are not UNBOUND (06 R548). -/
def State.tensorHeld (s : State) (model layer : Nat) (t : TensorRec) : Bool :=
  let bs := s.blocks model layer t.tensor
  (List.range (ceilDiv t.n 256)).all (fun c => (List.range (ceilDiv t.k 256)).all fun r =>
    bs.any fun b => b.col == c && b.rowOff == 256 * r) && bs.all fun b => (s.dir b.arr).astate != .unbound

/-! ### Stages of a layer (log entry 9) -/

/-- ROLEs whose tensors a stage fires. -/
def stageRoles (stage : Nat) : List Nat :=
  if stage = 0 then [0, 1, 2] else if stage = 1 then [3] else if stage = 2 then [4, 5] else if stage = 3 then [6]
  else if stage = 4 then [7] else []

def stageTensors (l : LayerRec) (stage : Nat) : List TensorRec := l.tensors.filter fun t => (stageRoles stage).contains t.role

/-- A stage number for a token that waits for its activations (10 R329). -/
def waitStage : Nat := 9

/-- An element number, beyond those of any entry, for the draft token that lags one position behind (09 R295). -/
def lagElem : Nat := 65535

def OpenStep.modelOf (o : OpenStep) (draft : Bool) : Nat := if draft then o.draftModel else o.model

/-- An open step whose work goes on. -/
def State.liveStep (s : State) (tag : Nat) : Option OpenStep :=
  (s.stepOf tag).filter fun o => !s.stepEnded o && !o.aborted

def State.modToken (s : State) (tag ti : Nat) (f : TokenWork → TokenWork) : State :=
  s.modStep tag fun o => { o with tokens := modAt o.tokens ti f }

/-! ### Issue of one tensor -/

/-- Elements of an input vector as fractions, `n` of them from `off`; beyond its end zero (06 R172). -/
def vecPart (x : List Nat) (off n : Nat) : List Frac :=
  let d := x.drop off
  (List.range n).map fun i => f32.decode (at' d i 0)

/-- The input slot of one row block of a vector on one die (03 R89-R92). -/
def mkInput (die id tag ti layer tensor off : Nat) (wide : Bool) (x : List Nat) : InputSlot :=
  let v := vecPart x off 256
  let q := quantInput (if wide then 127 else 7) v
  { die := die, id := id, codes := q.codes, scale := q.scale, shifts := q.shifts, wide := wide, saturated := q.saturated,
    b16 := if q.saturated then v.map b16.round else [], stepTag := tag, token := ti, layer := layer, tensor := tensor, off := off }

/-- MODEs of the fires of an input slot (02 R53). -/
def InputSlot.modes (i : InputSlot) : List Nat := if i.wide then [1, 2] else [0]

/-- First range code of a fire (03 R94). -/
def firstRange (rec : CodeRecord) (i : InputSlot) (mode : Nat) : Nat :=
  if i.saturated then 0 else chooseRange mode i.shifts i.codes rec.p rec.q

/-- The owner of the ledger line of a tensor that a job's modules share: the shape's lowest member (log entry 13). -/
def State.ledgerOwner (s : State) (job : Nat) : Nat :=
  match s.job job with
  | some j => (j.members.head?).getD s.fb.coord
  | none => s.fb.coord

/-- The 8-byte DEST of a line (05 Table 5.3; log entry 13): the token, layer, tensor and column block of the buffer or ledger line. -/
def LineDest.addr (d : LineDest) : Nat := ((d.token * 65536 + d.layer) * 65536 + d.tensor) * 8192 + d.colBlock

/-- The DEST that an address spells. -/
def ledgerDest (addr : Nat) : LineDest :=
  ⟨addr / (65536 * 65536 * 8192), addr / (65536 * 8192) % 65536, addr / 8192 % 65536, addr % 8192⟩

/-- The tile with the lowest die and number. -/
def lowestTile (l : List TileId) : Option TileId := argMin (fun t => 16384 * t.die + t.tile) l

/-- The fires of one reduction on one tile: the arrays of a column block in order, two nibbles in turn for 8-bit inputs;
the last carries CLOSE (02 R53, 05 R144). -/
def reductionFires (s : State) (slotOf : Nat → Nat → Option InputSlot) (bs : List Blk) (red : Reduction) (ti now : Nat) :
    List Fire :=
  let fs := (sortBy (fun (b : Blk) => b.arr.arr) bs).flatMap fun b =>
    match slotOf b.arr.die b.rowOff with
    | some i => i.modes.map fun mode =>
      ({ arr := b.arr.arr, spare := false, range := firstRange (s.recordD b.arr) i mode, mode := mode, shifts := i.shifts,
         close := false, kind := 0, inputSlot := i.id, red := red, token := ti, queued := now, selected := false,
         bank := none, reserved := 0, num := 0, covered := false } : Fire)
    | none => []
  modAt fs (fs.length - 1) fun f => { f with close := true }

/-- The dies that hold the home reductions of a tensor, by column block (08 R264). -/
def State.homeDies (s : State) (model layer tensor : Nat) : List Nat :=
  let bs := s.blocks model layer tensor
  ((sortBy id ((bs.map Blk.col).eraseDups)).filterMap fun c =>
    (lowestTile ((bs.filter fun b => b.col == c).map fun b => b.arr.tid)).map TileId.die).eraseDups

/-- The stack of a target: on the die that holds the home reductions of its tensor, that of the first column block where they span several
(08 R264; log entry 7). -/
def State.targetStack (s : State) (model id layer tensor : Nat) : Nat :=
  4 * ((s.homeDies model layer tensor).headD 0) + id % 4

/-- The targets of a tensor stand on a die that holds its home reductions as its parcels now lie (08 R264): where a parcel accepted after its
adapter changes the dies, a target that stands on none of them moves. -/
def State.placeTargets (s : State) (model layer tensor : Nat) : State :=
  let dies := s.homeDies model layer tensor
  let place (a : Adapter) (e : (Nat × Nat × Nat × Bytes × Bytes) × Nat) : Nat :=
    if e.1.1 = layer ∧ e.1.2.1 = tensor ∧ !dies.contains (e.2 / 4) then s.targetStack model a.id layer tensor else e.2
  { s with sv := { s.sv with adapters := s.sv.adapters.map fun a =>
      if a.model = model then { a with places := (a.targets.zip a.places).map (place a) } else a } }

/-! ### Attention engines (08 R254-R257, 09 R281) -/

/-- The engine that serves a KV head of a token at a layer: prefill engine h mod 8 where the round chose so, else the decode engine beside
the home stack. -/
def attentionEngine (e : LenEntry) (w : EntryWork) (draft : Bool) (layer kvHead : Nat) : Engine :=
  if w.prefill && !draft then .prefill (kvHead % 8)
  else .decode (homeStack e.slot layer / 4) (2 * (homeStack e.slot layer % 4) + kvHead % 2)

/-- The array die of an engine. -/
def Engine.die : Engine → Nat
  | .prefill n => n / 2
  | .decode d _ => d

/-- The work that an engine has done last. -/
def State.engineRan (s : State) (w : EngineWork) : State :=
  { s with sv := { s.sv with engines := putBy (fun x => x.engine == w.engine) w s.sv.engines } }

/-- The KV heads whose K or V a column block holds. -/
def LayerRec.headsOf (l : LayerRec) (col : Nat) : List Nat :=
  let per := if l.headDim = 0 then 0 else 256 / l.headDim
  ((List.range per).map fun i => col * per + i).filter fun h => h < l.kvHeads

/-- The engines whose append windows a K or V line of a token feeds (09 R276). -/
def State.appendWindow (s : State) (o : OpenStep) (ti layer : Nat) (t : TensorRec) (col : Nat) : List Engine :=
  match o.tokens[ti]? with
  | none => []
  | some tok =>
    match o.cmd.entries[tok.entry]?, o.entries[tok.entry]?, (s.model (o.modelOf tok.draft)).bind fun m => m.layer layer with
    | some e, some w, some l =>
      if t.role = 1 ∨ t.role = 2 then ((l.headsOf col).map (attentionEngine e w tok.draft layer)).eraseDups else []
    | _, _, _ => []

/-- A free place for a reduction line in the staging SRAM of a die (05 R149): from the next one on, the first at which no line and no ledger line
stands. Where every place of the die is taken, of which the spec does not speak, the line stands beyond them all, so that no two lines share a place
(DESIGN CHOICE, log entry 13). -/
def State.linePlace (s : State) (die : Nat) : Nat :=
  let used := ((s.rd.lines ++ s.rd.ledgers.flatMap Ledger.lines).filter fun l => l.id.die == die).map fun l => l.id.off
  (((List.range (used.length + 1)).map fun i => (s.rd.nextOff + 3136 * i) % (2 ^ 28 - 2 ^ 28 % 3136)).find? fun x => !used.contains x).getD
    (2 ^ 28 + maxList used - maxList used % 3136)

/-- The form in which a completed line of a tensor is delivered: K and V as F32 to the append windows (05 Table 5.3 OUTFMT). -/
def TensorRec.delivered (t : TensorRec) : Nat := if t.role = 1 ∨ t.role = 2 then 0 else t.outfmt

/-- The contributions that a ledger line expects (05 R150, R155): those of the modules of the job that hold blocks of its columns, which the
owner's state does not show beyond itself: one at least, all members at most (log entry 13). -/
def contributorsOf (members job : Nat) (d : LineDest) : Nat :=
  if members ≤ 1 then 1 else 1 + Config.contributors job d.layer d.tensor d.colBlock % members

/-- A ledger line as set up, at a place in the staging SRAM of an array die (05 R149, R150; log entry 13). -/
def freshLedgerLine (members job tag epoch width off outfmt : Nat) (d : LineDest) : Line :=
  let n := contributorsOf members job d
  { version := 1, id := ⟨d.colBlock % 4, off⟩, stepTag := tag, epoch := epoch, pending := n, initial := n, complete := false,
    fault := false, outfmt := outfmt, width := width, owner := 0, dest := d, window := [], home := ⟨0, 0⟩, biased := false, issued := true,
    quiet := none, elems := [] }

/-- The ledger of a job step, where the module keeps one (05 R156). -/
def State.ledger (s : State) (job step : Nat) : Option Ledger := s.rd.ledgers.find? fun l => l.job == job && l.step == step

def State.setLedger (s : State) (l : Ledger) : State :=
  { s with rd := { s.rd with ledgers := putBy (fun x => x.job == l.job && x.step == l.step) l s.rd.ledgers } }


/-- The line of a token at a column block of a tensor, as the round sets it up (05 R150): elements zero, flags clear, PENDING the number
of tiles that hold blocks of it. In a job whose modules share the column, its values go to the ledger, and it takes the bias and the adapters
on the module that holds the first row block (05 R148; log entry 13). -/
def State.setupLine (s : State) (o : OpenStep) (ti layer : Nat) (t : TensorRec) (bs : List Blk) (col : Nat) : State :=
  let mine := bs.filter fun b => b.col == col
  let tiles := (mine.map fun b => b.arr.tid).eraseDups
  match lowestTile tiles with
  | none => s
  | some home =>
    let part := o.cmd.job != 0 && (mine.map Blk.rowOff).eraseDups.length < ceilDiv t.k 256
    let line : Line :=
      { version := 1, id := ⟨home.die, s.linePlace home.die⟩, stepTag := o.tag, epoch := o.epoch, pending := tiles.length, initial := tiles.length,
        complete := false, fault := false,
        outfmt := if part then 2 else t.delivered,
        width := Nat.min 256 (t.n - 256 * col), owner := if part then s.ledgerOwner o.cmd.job else 0,
        dest := ⟨ti, layer, t.tensor, col⟩, window := s.appendWindow o ti layer t col, home := home, biased := !part || mine.any fun b => b.rowOff == 0, issued := false,
        quiet := none, elems := [] }
    { s with rd := { s.rd with lines := s.rd.lines ++ [line], nextOff := (s.rd.nextOff + 3136) % (2 ^ 28 - 2 ^ 28 % 3136) } }

/-- The tensors that a token runs on arrays, with their layers: those of each layer from its first to its last, and the logits where its
last layer is the model's. -/
def OpenStep.tensorsOf (o : OpenStep) (m : Model) (draft : Bool) : List (Nat × TensorRec) :=
  let first := if draft then 0 else o.cmd.firstLayer
  let last := if draft then m.layers.length - 1 else o.cmd.lastLayer
  ((List.range (last + 1)).drop first).flatMap fun l =>
    match m.layer l with
    | some r => (r.tensors.filter fun t => t.role < 7 || (t.role == 7 && l + 1 == m.layers.length)).map fun t => (l, t)
    | none => []

/-- A ledger line of a token's column block, set up with the schedule of its step on the module that owns it (05 R150, R156): one of which the
module holds some row blocks and not all, or none where other modules share it. A line that contributions have begun takes STEP_TAG, OUTFMT and
WIDTH now. -/
def State.setupLedgerLine (s : State) (o : OpenStep) (ti layer : Nat) (t : TensorRec) (bs : List Blk) (members col : Nat) : State :=
  let d : LineDest := ⟨ti, layer, t.tensor, col⟩
  let rows := (((bs.filter fun b => b.col == col).map Blk.rowOff).eraseDups).length
  match s.ledger o.cmd.job o.cmd.stepNumber with
  | none => s
  | some g =>
    if rows = ceilDiv t.k 256 ∨ (rows = 0 ∧ contributorsOf members o.cmd.job d < 2) then s
    else
      let width := Nat.min 256 (t.n - 256 * col)
      let old := (g.lines.find? fun x => x.dest == d).getD
        (freshLedgerLine members o.cmd.job o.tag g.epoch width (s.linePlace (col % 4)) t.delivered d)
      let new := { old with stepTag := o.tag, outfmt := t.delivered, width := width, owner := s.fb.coord }
      s.setLedger { g with lines := putBy (fun x => x.dest == d) new g.lines }

/-- The ledger lines of one token at a tensor, on the module that owns them. -/
def State.setupLedger (s : State) (o : OpenStep) (ti layer : Nat) (t : TensorRec) (bs : List Blk) : State :=
  match s.job o.cmd.job with
  | none => s
  | some j =>
    if o.cmd.job = 0 ∨ s.ledgerOwner o.cmd.job ≠ s.fb.coord then s
    else (List.range (ceilDiv t.n 256)).foldl (fun st col => st.setupLedgerLine o ti layer t bs j.members.length col) s

/-- The lines of one token, set up with the schedule of its step (05 R150). -/
def State.setupLines (s : State) (tag ti : Nat) : State :=
  match s.stepOf tag with
  | none => s
  | some o =>
    match o.tokens[ti]? with
    | none => s
    | some tok =>
      let mn := o.modelOf tok.draft
      match s.model mn with
      | none => s
      | some m =>
        (o.tensorsOf m tok.draft).foldl (fun st e =>
          let bs := s.blocks mn e.1 e.2.tensor
          (((bs.map Blk.col).eraseDups).foldl (fun x col => x.setupLine o ti e.1 e.2 bs col) st).setupLedger o ti e.1 e.2 bs) s

/-- The lines of a token at a tensor of a layer. -/
def State.linesOf (s : State) (tag ti layer tensor : Nat) : List Line :=
  s.rd.lines.filter fun l => l.stepTag == tag && l.dest.token == ti && l.dest.layer == layer && l.dest.tensor == tensor

/-- The fires of a line put to the tiles that hold its blocks. -/
def State.issueLine (s : State) (slotOf : Nat → Nat → Option InputSlot) (bs : List Blk) (ti : Nat) (l : Line) : State :=
  let mine := bs.filter fun b => b.col == l.dest.colBlock
  let red : Reduction := ⟨l.stepTag, l.epoch, l.id⟩
  let s1 := { s with rd := { s.rd with lines := s.rd.lines.map fun x => if x.id = l.id then { x with issued := true } else x } }
  ((mine.map fun b => b.arr.tid).eraseDups).foldl (fun a tid => a.modTile tid fun tl =>
    { tl with fires := tl.fires ++ reductionFires s slotOf (mine.filter fun b => b.arr.tid == tid) red ti tl.slotNo }) s1

/-- The list cache of an array's unit fetches its lists, unless they are there or on their way (04 R106). -/
def State.fetchLists (s : State) (a : ArrId) : State :=
  s.modRegion a.die (unitOf a.tid) fun r =>
    if (r.cache.any fun e => e.arr == a) || r.fetching.contains a then r else { r with fetching := r.fetching ++ [a] }

/-- Whether a step runs the layers of its draft model: for entries of KIND 0, 1 and 3 (08 R266, 09 R295). -/
def OpenStep.drafts (o : OpenStep) : Bool :=
  o.draftModel != 0 && o.cmd.entries.any fun e => e.kind == 0 || e.kind == 1 || e.kind == 3

/-- The arrays that a step's schedule names. -/
def State.schedule (s : State) (o : OpenStep) : List ArrId :=
  ((if o.drafts then [false, true] else [false]).flatMap fun draft =>
    match s.model (o.modelOf draft) with
    | some m => (o.tensorsOf m draft).flatMap fun e => (s.blocks m.num e.1 e.2.tensor).map Blk.arr
    | none => []).eraseDups

/-- The lists of an array whose record or master is new: those of before are dropped, and fetched again where they were wanted (04 R106, R124). -/
def State.renewLists (s : State) (a : ArrId) : State :=
  let r := s.region a.die (unitOf a.tid)
  let s1 := s.modRegion a.die (unitOf a.tid) fun x => x.dropLists (· == a)
  if (r.lists a).isSome || r.fetching.contains a then s1.fetchLists a else s1

/-- The round has the lists of every array of a step's schedule fetched (04 R106). -/
def State.fetchSchedule (s : State) (tag : Nat) : State :=
  match s.stepOf tag with
  | some o => (s.schedule o).foldl State.fetchLists s
  | none => s

/-- Issue the input vectors and fires of one token at one tensor (08 R252). Lists that have left the cache meanwhile are fetched again. -/
def State.issueTensor (s : State) (o : OpenStep) (ti layer : Nat) (t : TensorRec) (model : Nat) (x : List Nat) : State :=
  let bs := s.blocks model layer t.tensor
  let held := (bs.map fun b => (b.arr.die, b.rowOff)).eraseDups
  -- an adapter takes the whole vector: row blocks held on other modules are quantised on the home tile's die (08 R261)
  let more := if o.cmd.adapters.isEmpty then []
    else match lowestTile (bs.map fun b => b.arr.tid) with
      | some home => ((List.range (ceilDiv t.k 256)).filter fun r => !held.any fun e => e.2 == 256 * r).map fun r => (home.die, 256 * r)
      | none => []
  let keys := held ++ more
  let slots := (keys.zip (List.range keys.length)).map fun e =>
    mkInput e.1.1 (s.sv.nextInput + e.2) o.tag ti layer t.tensor e.1.2 (t.inputWidth == 8) x
  let slotOf (die off : Nat) : Option InputSlot := slots.find? fun i => i.die == die && i.off == off
  let lists := (bs.map Blk.arr).eraseDups
  let s1 := { s with sv := { s.sv with inputs := s.sv.inputs ++ slots, nextInput := s.sv.nextInput + slots.length } }
  let s2 := (s.linesOf o.tag ti layer t.tensor).foldl (fun st l => st.issueLine slotOf bs ti l) s1
  lists.foldl State.fetchLists s2

/-! ### Stages -/

/-- The query heads of a layer whose attention the module runs: those of a layer with Q and K tensors. -/
def LayerRec.attends (l : LayerRec) : Bool := (l.role 0).isSome && (l.role 1).isSome

/-- Whether the module runs the attention of a token at its layer: it does not where Q, K or V of the token went to another module's
ledger (05 R155; log entry 13). -/
def TokenWork.attendsHere (tok : TokenWork) (l : LayerRec) : Bool := l.attends && !(tok.delivered.any fun d => d.2.2.isEmpty)

/-- The ledger lines that the module owns for a token's stage. -/
def State.stageLedger (s : State) (o : OpenStep) (ti : Nat) (tok : TokenWork) (l : LayerRec) : List Line :=
  match s.ledger o.cmd.job o.cmd.stepNumber with
  | some g => g.lines.filter fun x =>
      x.dest.token == ti && x.dest.layer == tok.layer && (stageTensors l tok.stage).any fun t => t.tensor == x.dest.tensor
  | none => []

/-- Whether everything of a token's stage has been delivered: each of its lines and ledger lines at the stage's tensors, and the heads. -/
def State.stageDone (s : State) (o : OpenStep) (ti : Nat) (tok : TokenWork) (l : LayerRec) : Bool :=
  tok.stage != waitStage &&
  ((stageTensors l tok.stage).all fun t => (s.linesOf o.tag ti tok.layer t.tensor).all fun x =>
    tok.delivered.any fun d => d.1 == t.tensor && d.2.1 == x.dest.colBlock) &&
  ((s.stageLedger o ti tok l).all fun x => tok.delivered.any fun d => d.1 == x.dest.tensor && d.2.1 == x.dest.colBlock) &&
  (tok.stage != 0 || !tok.attendsHere l || tok.heads.length == l.qHeads)

/-- The heads' results in head order (09 R279). -/
def headVector (tok : TokenWork) : List Nat := (sortBy (fun (h : Nat × List Nat) => h.1) tok.heads).flatMap (·.2)

/-- What a layer has for a token: its input, then what its tensors delivered, by tensor and column. -/
def TokenWork.gathered (tok : TokenWork) : List (List Nat) :=
  tok.vec :: (sortBy (fun (d : Nat × Nat × List Nat) => d.1 * 8192 + d.2.1) tok.delivered).map fun d => d.2.2

/-- The vector that a tensor's input quantiser receives (log entry 9), cut to its K (08 R252, 06 R172); for the output projection the heads'
results (09 R279 item 5). -/
def inputVector (l : LayerRec) (t : TensorRec) (tok : TokenWork) : List Nat :=
  if t.role = 3 ∧ tok.attendsHere l then (headVector tok).take t.k
  else (Config.layerInput l.norm l.activation l.gains t.role tok.gathered t.k).take t.k

/-- A value that no quantiser takes: an infinity or NaN, or one beyond B16 in a saturated wave, whose B16 form would overflow (03 R71, R92). -/
def unquantised (e : Nat) : Bool := f32.special e || (b16.roundFinite (f32.decode e)).isNone

/-! ### Delivery of a line (05 R151, R158, 09 R276) -/

/-- Converted elements as F32 encodings; none on overflow (03 R71). -/
def convertLine (outfmt : Nat) (width : Nat) (elems : List Int) : Option (List Nat) :=
  let v := (List.range width).map fun j =>
    let x := fxFrac (at' elems j 0)
    if outfmt = 1 then (b16.roundFinite x).map fun e => f32.round (b16.decode e) else f32.roundFinite x
  if v.any Option.isNone then none else some (v.map fun e => e.getD 0)

/-- The elements of one KV head of a token appended to its pigeonhole by the vector unit of the head's engine; none when one is not a
number. A head beyond those of the layer is padding. -/
def State.appendHead (s : State) (tag ti : Nat) (e : LenEntry) (w : EntryWork) (tok : TokenWork) (l : LayerRec) (isV : Bool) (head : Nat)
    (x : List Nat) : Option State :=
  let x1 := if isV then x else Config.rotary tok.position l.headDim l.rotary x
  if l.kvHeads ≤ head then some s
  else if x1.any f32.special then none
  else
    (kvGroup l.kvB16 isV (tok.storage % 64) head tag x1).map fun g =>
      (s.putGroup e.slot tok.draft tok.layer tok.storage g).engineRan
        ⟨attentionEngine e w tok.draft tok.layer head, tag, ti, tok.layer, .append isV head, []⟩

/-- K or V of one column block appended to the pigeonholes (09 R270, R276, R278); none on a numeric fault. -/
def State.appendBlock (s : State) (tag ti : Nat) (e : LenEntry) (w : EntryWork) (tok : TokenWork) (l : LayerRec) (isV : Bool) (col : Nat)
    (v : List Nat) : Option State :=
  let per := if l.headDim = 0 then 0 else 256 / l.headDim
  (List.range per).foldl (fun acc i => acc.bind fun st =>
    st.appendHead tag ti e w tok l isV (col * per + i) ((v.drop (i * l.headDim)).take l.headDim)) (some s)

/-- Values of a completed line put to the token whose layer the line's DEST names. -/
def State.takeValues (s : State) (tag : Nat) (d : LineDest) (v : List Nat) : State :=
  match s.liveStep tag with
  | none => s
  | some o =>
    match (o.tokens[d.token]?).filter fun tok => tok.layer == d.layer with
    | none => s
    | some tok =>
      match o.cmd.entries[tok.entry]?, o.entries[tok.entry]?, (s.model (o.modelOf tok.draft)).bind fun m => m.layer tok.layer with
      | some e, some w, some l =>
        let role := match l.tensors.find? fun t => t.tensor == d.tensor with
          | some t => t.role
          | none => 9
        let put (st : State) : State :=
          st.modToken tag d.token fun t => { t with delivered := t.delivered ++ [(d.tensor, d.colBlock, v)] }
        if (role = 1 ∨ role = 2) ∧ !tok.padding ∧ !v.isEmpty then
          match s.appendBlock tag d.token e w tok l (role == 2) d.colBlock v with
          | some s1 => put s1
          | none => s.failStep tag 4
        else put s
      | _, _, _ => s

/-- A completed ledger line put to its token, converted; one that overflows ends the step (05 R151). -/
def State.takeLedgerLine (s : State) (tag : Nat) (x : Line) : State :=
  match convertLine x.outfmt x.width x.elems with
  | some v => s.takeValues tag x.dest v
  | none => s.failStep tag 4

/-- As a token comes to a stage, it takes the ledger lines of the stage that are complete already; the others are waited for from now on (05 R158,
10 R352). -/
def State.takeLedger (s : State) (tag ti : Nat) : State :=
  match s.liveStep tag with
  | none => s
  | some o =>
    match o.tokens[ti]?, s.ledger o.cmd.job o.cmd.stepNumber with
    | some tok, some g =>
      match (s.model (o.modelOf tok.draft)).bind fun m => m.layer tok.layer with
      | none => s
      | some l =>
        let mine := s.stageLedger o ti tok l
        let wait (x : Line) : Line := if mine.contains x then { x with quiet := some (x.quiet.getD s.tm.tick) } else x
        let s1 := s.setLedger { g with lines := g.lines.map wait }
        if g.epoch != o.epoch then s1 else (mine.filter Line.complete).foldl (fun st x => st.takeLedgerLine tag x) s1
    | _, _ => s

/-- Issue the tensors of a token's present stage; a value that no quantiser takes ends the step (03 R71). -/
def State.startStage (s : State) (tag ti : Nat) : State :=
  match s.liveStep tag with
  | none => s
  | some o =>
    match o.tokens[ti]? with
    | none => s
    | some tok =>
      let mn := o.modelOf tok.draft
      match (s.model mn).bind fun m => m.layer tok.layer with
      | none => s
      | some l =>
        let ts := stageTensors l tok.stage
        let xs := ts.map fun t => inputVector l t tok
        if xs.any fun x => x.any unquantised then s.failStep tag 4
        else ((ts.zip xs).foldl (fun st e => st.issueTensor o ti tok.layer e.1 mn e.2) s).takeLedger tag ti

/-! ### Activations (10 R328, R329) -/

/-- The payload of an activation record in B16. -/
def activationPayload (epoch step token off : Nat) (v : List Nat) : Bytes :=
  natLe 1 1 ++ natLe 1 1 ++ natLe 2 0 ++ natLe 1 epoch ++ natLe 3 0 ++ natLe 8 step ++ natLe 4 token ++ natLe 4 off ++
    natLe 2 v.length ++ natLe 6 0 ++ v.flatMap (natLe 2)

/-- The module that runs the layers after `layer` for a job (10 R328). -/
def State.nextModule (s : State) (job layer : Nat) : Option Nat :=
  match s.job job with
  | some j => (j.stages.find? fun e => e.1 ≤ layer && layer ≤ e.2.1).map fun e => e.2.2
  | none => none

/-- Index of a token in the step's token area. -/
def areaIndex (o : OpenStep) (tok : TokenWork) : Nat := tokenStart o.cmd tok.entry + tok.elem

/-- A token's output vector sent on in B16; a value beyond B16 is a numeric fault (10 R328, 03 R71). -/
def State.sendActivation (s : State) (o : OpenStep) (tok : TokenWork) (vec : List Nat) : State :=
  match s.nextModule o.cmd.job tok.layer with
  | none => s
  | some dest =>
    let v := vec.map fun e => b16.roundFinite (f32.decode e)
    if v.any Option.isNone then s.failStep o.tag 4
    else
      let cut := pieces 2032 (v.length / 2032 + 1) (v.map fun e => e.getD 0)
      (cut.zip (List.range cut.length)).foldl (fun st e =>
        st.sendForJob 3 dest o.cmd.job (activationPayload o.epoch o.cmd.stepNumber (areaIndex o tok) (2032 * e.2) e.1)) s

/-- The vector of a token from the activation records received, when whole: its width is that of the first layer's inputs. -/
def State.activationVector (s : State) (o : OpenStep) (tok : TokenWork) (width : Nat) : Option (List Nat) :=
  let rs := s.fb.activations.filter fun a =>
    a.job == o.cmd.job && a.step == o.cmd.stepNumber && a.epoch == o.epoch && a.token == areaIndex o tok
  let v := (List.range width).map fun i =>
    match rs.find? fun a => a.offset ≤ i && i < a.offset + a.elems.length with
    | some a =>
      let e := at' a.elems (i - a.offset) 0
      some (if a.f32 then e else f32.round (b16.decode e))
    | none => none
  if v.any Option.isNone then none else some (v.map fun e => e.getD 0)

/-- Width of a layer's input: K of its first tensor that is not the embedding. -/
def LayerRec.inWidth (l : LayerRec) : Nat :=
  match l.tensors.find? fun t => t.role != 8 && t.role != 3 && t.role != 6 with
  | some t => t.k
  | none => 0

/-! ### Tokens -/

/-- The embedding vector of a token (06 R178). -/
def State.embedding (s : State) (m : Model) (token : Nat) : List Nat :=
  match s.wt.masters.find? fun x => x.hdr.model == m.num && x.hdr.layer == 0 && x.hdr.tensor == m.embed with
  | some x => embeddingColumn x.hdr x.payload token
  | none => []

/-- Uses of copies of saturated blocks counted (03 R79; DESIGN CHOICE, log entry 66: the spec names no counter for them). -/
def State.countCopies (s : State) (n : Nat) : State := { s with wt := { s.wt with copyUses := s.wt.copyUses + n } }

/-- The embedding gather of a token, on the decode engines beside the stack of the embedding's master (08 Table 8.7); it reads the copies of the
saturated blocks of the token's column. -/
def State.gatherRan (s : State) (m : Model) (tag ti token : Nat) : State :=
  match s.wt.masters.find? fun x => x.hdr.model == m.num && x.hdr.layer == 0 && x.hdr.tensor == m.embed with
  | some x =>
    (List.range 2).foldl (fun st i =>
      st.engineRan ⟨.decode (x.stack / 4) (2 * (x.stack % 4) + i), tag, ti, 0, .gather, []⟩)
      (s.countCopies ((appendixOf x.hdr x.payload).filter fun b => fld b 0 4 == token).length)
  | none => s

/-- A token as it begins. -/
def mkToken (entry elem token parent position storage : Nat) (draft padding : Bool) : TokenWork :=
  { entry := entry, draft := draft, elem := elem, token := token, parent := parent, position := position,
    storage := storage, padding := padding, matched := false, known := true, layer := 0, stage := waitStage, since := 0, vec := [], delivered := [],
    heads := [], logits := [], finished := false }

/-- Greedy choice: the highest logit, the lowest token on a tie (08 R247). -/
def argMax (logits : List Nat) : Nat :=
  (((List.range logits.length).zip logits).foldl (fun (m : Option (Nat × Frac)) e =>
    let v := f32.decode e.2
    match m with
    | none => some (e.1, v)
    | some b => if b.2.lt v then some (e.1, v) else some b) none).map (·.1) |>.getD 0

/-- The logits of a token from the delivered column blocks. -/
def logitsOf (l : LayerRec) (tok : TokenWork) : List Nat :=
  match l.role 7 with
  | none => []
  | some t => (sortBy (fun (d : Nat × Nat × List Nat) => d.2.1) (tok.delivered.filter fun d => d.1 == t.tensor)).flatMap
      fun d => d.2.2

/-- Whether a fire of a step's epoch on a tile has yet to pass its postmark check: it is in conversion, in the scaler, or repeats. -/
def Tile.owesCheck (t : Tile) (tag epoch : Nat) : Bool :=
  let mine (f : Fire) : Bool := f.red.stepTag == tag && f.red.epoch == epoch
  (t.array.any fun x => mine x.fire && !x.null) || (t.scaler.any fun x => mine x.fire && !(x.null || x.overrun || x.passed)) ||
    t.repeatDue.any mine

/-- The comparisons that 04 R135 adds once no fire of a step is left and none can come: on each die with none selected, its last fire. -/
def State.selectLast (s : State) (tag : Nat) : State :=
  match s.liveStep tag with
  | none => s
  | some o =>
    if !o.tokens.all TokenWork.finished || (List.range o.entries.length).any o.toBegin || s.tl.tiles.any fun t => t.owesCheck tag o.epoch then s
    else
    let due := s.tl.spotLast.filter fun j => j.stepTag == tag &&
      o.spotDies.any fun d => d.1 == j.die && d.2.1 == j.num + 1 && !d.2.2.2
    let s1 := due.foldl (fun st j => st.modRegion j.die (j.tile / 256) fun r => { r with spots := r.spots ++ [j] }) s
    { s1 with tl := { s1.tl with spotLast := s1.tl.spotLast.filter fun j => j.stepTag != tag } }

/-- The tokens of a step as a pass of the draft model over an element of a KIND 3 entry ends: it yields the token of the next element; after the
pass over the token kept from before, the chain begins; after the last pass, the main model verifies the chain (08 R266, 09 R295). -/
def draftedTokens (o : OpenStep) (tok : TokenWork) : List TokenWork :=
  let n := (o.tokens.filter fun t => t.entry == tok.entry && t.draft && t.elem != lagElem).length
  let v := argMax tok.logits
  o.tokens.map fun t =>
    if t.entry != tok.entry then t
    else if tok.elem = lagElem then (if t.draft ∧ t.elem = 0 then { t with known := true } else t)
    else
      let t1 := if t.elem = tok.elem + 1 then { t with token := v, known := t.known || t.draft } else t
      if tok.elem + 1 = n ∧ !t.draft then { t1 with known := true } else t1

/-- The vector unit of the engine that serves a token's attention at its layer has normalised, activated and added the residual: that of KV head
0, where its heads run on several (08 Table 8.7; DESIGN CHOICE, log entry 60). -/
def State.vectorRan (s : State) (o : OpenStep) (tag ti : Nat) (tok : TokenWork) : State :=
  match o.cmd.entries[tok.entry]?, o.entries[tok.entry]? with
  | some e, some w => s.engineRan ⟨attentionEngine e w tok.draft tok.layer 0, tag, ti, tok.layer, .vector, []⟩
  | _, _ => s

/-- The greedy choice, the sampling and the top 16 of a token's logits, on the decode engines of the dies that hold its lines of the output
projection (08 Table 8.7). -/
def State.choiceRan (s : State) (tag ti : Nat) (l : LayerRec) (tok : TokenWork) : State :=
  let ts := (l.role 7).toList.flatMap fun t => s.linesOf tag ti tok.layer t.tensor
  ((ts.map fun x => x.id.die).eraseDups).foldl (fun st die => (List.range 8).foldl (fun x n =>
    x.engineRan ⟨.decode die n, tag, ti, tok.layer, .choose, []⟩) st) s

/-- Move a token on as far as what has been delivered allows. -/
def State.advance : Nat → Nat → Nat → State → State
  | 0, _, _, s => s
  | f + 1, tag, ti, s =>
    match s.liveStep tag with
    | none => s
    | some o =>
      match o.tokens[ti]? with
      | none => s
      | some tok =>
        let mn := o.modelOf tok.draft
        match s.model mn with
        | none => s
        | some m =>
          match m.layer tok.layer with
          | none => s
          | some l =>
            if tok.finished || !tok.known then s
            else if tok.stage = waitStage then
              -- not begun: its embedding, or its activations once they are whole
              let first := if tok.draft then 0 else o.cmd.firstLayer
              let go (vec : List Nat) : State :=
                State.advance f tag ti ((s.modToken tag ti fun t =>
                  { t with layer := first, stage := 0, vec := vec }).startStage tag ti)
              let wait := (m.layer first).map fun lf => lf.inWidth
              if first = 0 then
                State.advance f tag ti (((s.gatherRan m tag ti tok.token).modToken tag ti fun t =>
                  { t with layer := 0, stage := 0, vec := s.embedding m tok.token }).startStage tag ti)
              -- padding has no place in the token area, and no record brings it activations (log entry 49)
              else if tok.padding then go (List.replicate (wait.getD 0) 0)
              else
                match (m.layer first).bind fun lf => s.activationVector o tok lf.inWidth with
                | some vec => if vec.any f32.special then s.failStep tag 4 else go vec
                | none => s
            else if !s.stageDone o ti tok l then s
            else if tok.stage < 3 then
              State.advance f tag ti ((s.modToken tag ti fun t => { t with stage := tok.stage + 1 }).startStage tag ti)
            else if tok.stage = 3 then
              let vec := Config.layerOutput l.norm l.activation l.gains tok.vec (tok.gathered.drop 1)
              let last := if tok.draft then m.layers.length - 1 else o.cmd.lastLayer
              if vec.any f32.special then s.failStep tag 4
              else if tok.layer < last then
                State.advance f tag ti (((s.vectorRan o tag ti tok).modToken tag ti fun t =>
                  { t with layer := tok.layer + 1, stage := 0, vec := vec, delivered := [], heads := [] }).startStage tag ti)
              else if tok.layer + 1 = m.layers.length then
                State.advance f tag ti (((s.vectorRan o tag ti tok).modToken tag ti fun t => { t with stage := 4, vec := vec }).startStage tag ti)
              else
                let s0 := s.vectorRan o tag ti tok
                let s1 := if o.cmd.job = 0 ∨ tok.padding then s0 else s0.sendActivation o tok vec
                (s1.modToken tag ti fun t => { t with finished := true, vec := vec }).selectLast tag
            else
              let lg := logitsOf l tok
              if lg.any f32.special then s.failStep tag 4
              else
                let s1 := (s.choiceRan tag ti l tok).modToken tag ti fun t => { t with logits := lg, finished := true }
                if tok.draft && (o.cmd.entries[tok.entry]?).any fun e => e.kind == 3 then
                  let s2 := s1.modStep tag fun y => { y with tokens := draftedTokens y { tok with logits := lg } }
                  (List.range o.tokens.length).foldl (fun st i =>
                    if (o.tokens[i]?).any fun t => t.entry == tok.entry && t.stage == waitStage then State.advance f tag i st else st) s2
                else s1.selectLast tag

/-- Stages that a token and those drafted after it can pass at most: 34 tokens of a KIND 3 entry. -/
def State.stageFuel (s : State) : Nat := 34 * (8 + 6 * maxList (s.wt.models.map fun m => m.layers.length))

def State.advanceToken (s : State) (tag ti : Nat) : State := State.advance s.stageFuel tag ti s

/-- Tokens added to a step, each moved on as far as it can go. -/
def State.addTokens (s : State) (tag : Nat) (new : List TokenWork) : State :=
  match s.stepOf tag with
  | none => s
  | some o =>
    let base := o.tokens.length
    let s1 := s.modStep tag fun y => { y with tokens := y.tokens ++ new.map fun (t : TokenWork) => { t with since := s.tm.tick } }
    let s2 := (List.range new.length).foldl (fun st i => st.setupLines tag (base + i)) s1
    (List.range new.length).foldl (fun st i => st.advanceToken tag (base + i)) s2

/-- Bucket of a token count (08 R259). -/
def bucketOf (n : Nat) : Nat := (([1, 16, 32, 64, 128, 256, 512, 1024, 2048].find? fun b => n ≤ b)).getD n

/-- The tokens of an entry as the round issues them, `skip` of them covered by a prefix match (08 R250, R258, R259, 09 R290,
R295). -/
def entryWorkTokens (o : OpenStep) (i skip : Nat) (e : LenEntry) (x : Slot) (padToken : Nat) : List TokenWork :=
  let toks := entryTokens o.cmd i
  let plain (draft : Bool) (from' : Nat) : List TokenWork :=
    ((List.range toks.length).drop from').map fun k =>
      mkToken i k (at' toks k (0, 0, 0)).1 (k - 1) (e.position + k) (e.position + k) draft false
  if e.kind = 4 then []
  else if e.kind = 2 then
    let depths := treeDepths (toks.map fun t => t.2.1)
    (List.range toks.length).map fun k =>
      mkToken i k (at' toks k (0, 0, 0)).1 (at' toks k (0, 0, 0)).2.1 (e.position + at' depths k 0) (e.position + k) false false
  else if e.kind = 3 then
    let root := (at' toks 0 (0, 0, 0)).1
    let chain (draft : Bool) (n : Nat) : List TokenWork := (List.range n).map fun k =>
      { mkToken i k (if k = 0 then root else 0) (k - 1) (e.position + k) (e.position + k) draft false with
        known := draft && k == 0 && x.lag.isNone }
    (x.lag.toList.map fun p => mkToken i lagElem (at' x.tokens p 0) 0 p p true false) ++ chain true x.draftLen ++ chain false (x.draftLen + 1)
  else
    let pads := if o.buckets then bucketOf toks.length - toks.length else 0
    (if o.draftModel = 0 then [] else plain true 0) ++ plain false skip ++
      (List.range pads).map fun k =>
        mkToken i (toks.length + k) padToken 0 (e.position + toks.length + k) (e.position + toks.length + k) false true

/-- The order in which a round takes the entries: entry order, or bucket then slot (08 R250, R259). -/
def roundOrder (o : OpenStep) : List Nat :=
  let idx := List.range o.cmd.entries.length
  if o.buckets then
    sortBy (fun i => match o.cmd.entries[i]? with
      | some e => bucketOf e.tokens * 65536 + e.slot
      | none => 0) idx
  else idx

/-- Issue the tokens of an entry that is still to begin and waits for nothing. -/
def State.startEntry (s : State) (tag i : Nat) : State :=
  match s.liveStep tag with
  | none => s
  | some o =>
    match o.cmd.entries[i]?, o.entries[i]? with
    | some e, some w =>
      if !o.toBegin i || w.matchPending || w.stalledAt.isSome then s
      else
        match s.slot e.slot with
        | some x =>
          let pad := o.attrs.padToken
          s.addTokens tag (entryWorkTokens o i w.matched e x pad)
        | none => s
    | _, _ => s

/-! ### Attention (09 R279-R281) -/

/-- Storage positions that a token attends to (08 R251, 09 R279). -/
def attended (o : OpenStep) (e : LenEntry) (tok : TokenWork) : List Nat :=
  let anc : Nat → Nat → List Nat := fun fuel k => ancestors o tok fuel k
  if tok.draft then List.range (tok.storage + 1)
  else if e.kind = 2 ∨ e.kind = 3 then
    List.range e.position ++ (anc 64 tok.elem).map fun k => e.position + k
  else if tok.padding then List.range (e.position + e.tokens)
  else List.range (tok.position + 1)
where
  /-- The elements from an element up to the root. -/
  ancestors (o : OpenStep) (tok : TokenWork) : Nat → Nat → List Nat
    | 0, k => [k]
    | f + 1, k =>
      if k = 0 then [0]
      else
        match o.tokens.find? fun t => t.entry == tok.entry && !t.draft && t.elem == k with
        | some t => ancestors o tok f t.parent ++ [k]
        | none => [k]

/-- A group at a storage position that a step may read (09 R275). -/
def State.readGroup (s : State) (tag slot : Nat) (draft : Bool) (layer pos : Nat) (isV : Bool) (head : Nat) : Option KvGroup :=
  (s.getGroup slot draft layer pos isV head).filter fun g => g.readableBy tag

/-- K and V of one KV head at every attended position; none when one is not appended. -/
def State.keysValues (s : State) (tag slot : Nat) (draft : Bool) (layer head : Nat) (b16fmt : Bool) (ps : List Nat) :
    Option (List (List Nat)) :=
  let g (isV : Bool) (p : Nat) := (s.readGroup tag slot draft layer p isV head).map fun x => x.values b16fmt
  let all := (ps.map (g false)) ++ ps.map (g true)
  if all.any Option.isNone then none else some (all.map fun x => x.getD [])

/-- For the draft model, the positions before the entry's own that the draft model has appended: it has not run over the tokens
of a KIND 2 step (09 R295; log entry 20). -/
def State.draftHeld (s : State) (tag : Nat) (e : LenEntry) (tok : TokenWork) (head : Nat) (ps : List Nat) : List Nat :=
  if !tok.draft then ps
  else ps.filter fun p => e.position ≤ p || p == tok.storage || (s.readGroup tag e.slot true tok.layer p true head).isSome

/-- The query of a head from the delivered Q blocks. -/
def queryOf (l : LayerRec) (tok : TokenWork) (head : Nat) : Option (List Nat) :=
  match l.role 0 with
  | none => none
  | some t =>
    let col := head * l.headDim / 256
    match tok.delivered.find? fun d => d.1 == t.tensor && d.2.1 == col with
    | some d => some ((d.2.2.drop (head * l.headDim % 256)).take l.headDim)
    | none => none

/-- Query heads of a prefill engine that a token has still to run at a layer. -/
def TokenWork.engineHeads (tok : TokenWork) (l : LayerRec) (n : Nat) : List Nat :=
  (List.range l.qHeads).filter fun h => (h * l.kvHeads / l.qHeads) % 8 == n && !tok.heads.any fun x => x.1 == h

/-- Whether a prefill engine still has heads of an earlier entry to run at a layer, an entry that is still to begin among them (08 R256). -/
def OpenStep.engineTaken (o : OpenStep) (l : LayerRec) (tok : TokenWork) (n : Nat) : Bool :=
  ((List.range tok.entry).any fun i => o.toBegin i && (o.entries[i]?).any fun w => w.prefill) ||
  o.tokens.any fun t =>
    !t.draft && !t.finished && t.entry < tok.entry &&
      ((o.entries[t.entry]?).any fun w => w.prefill && w.status.isNone) &&
      (t.stage == waitStage || t.layer < tok.layer ||
        (t.layer == tok.layer && t.stage == 0 && t.attendsHere l && !(t.engineHeads l n).isEmpty))

/-- Whether the engine of a head cannot take it yet. -/
def OpenStep.headWaits (o : OpenStep) (l : LayerRec) (tok : TokenWork) : Engine → Bool
  | .prefill n => o.engineTaken l tok n
  | .decode _ _ => false

/-- The dies other than an engine's on which a slot's pigeonholes of some positions lie (08 R257, 09 R281). -/
def State.remoteDies (s : State) (e : Engine) (slot : Nat) (draft : Bool) (layer : Nat) (ps : List Nat) : List Nat :=
  (ps.filterMap fun p => (s.page slot draft layer (p / 64)).map fun x => x.frame.stack / 4).eraseDups.filter fun d => d != e.die

/-- The result of one query head on its engine, when its K and V are appended, its layer's pages are back from the tier (09 R300) and no
earlier entry keeps a prefill engine (09 R279, 08 R256): a value within the bounds of 03 Table 3.9, free beyond them (log entry 10). A query
whose rotary form is no number ends the step, and so do a key or a value that is none and a score beyond F32 (03 R71). -/
def State.attend (s : State) (tag ti head : Nat) : State :=
  match s.liveStep tag with
  | none => s
  | some o =>
    match o.tokens[ti]? with
    | none => s
    | some tok =>
      match o.cmd.entries[tok.entry]?, o.entries[tok.entry]?, (s.model (o.modelOf tok.draft)).bind fun m => m.layer tok.layer with
      | some e, some w, some l =>
        if tok.stage != 0 || tok.finished || !tok.attendsHere l || l.qHeads ≤ head || tok.heads.any (fun h => h.1 == head) ||
            s.layerHeld e.slot tok.draft tok.layer then s
        else
          let kvHead := head * l.kvHeads / l.qHeads
          let engine := attentionEngine e w tok.draft tok.layer kvHead
          let ps := s.draftHeld tag e tok kvHead (attended o e tok)
          match queryOf l tok head, s.keysValues tag e.slot tok.draft tok.layer kvHead l.kvB16 ps with
          | some q, some kv =>
            if o.headWaits l tok engine then s
            else
              let d := s.nextDraw
              let q1 := Config.rotary tok.position l.headDim l.rotary q
              let r := attentionResult d.1 l.headDim q1 kv
              if q1.any f32.special || kv.any (fun x => x.any f32.special) || scoreFault q1 (kv.take (kv.length / 2)) || r.any f32.special then
                d.2.failStep tag 4
              else
                let s1 := d.2.engineRan ⟨engine, tag, ti, tok.layer, .attention head, s.remoteDies engine e.slot tok.draft tok.layer ps⟩
                (s1.modToken tag ti fun t => { t with heads := t.heads ++ [(head, r)] }).advanceToken tag ti
          | _, _ => s
      | _, _, _ => s

/-! ### The adapter engines' staging buffers (08 R263, R264) -/

/-- Bytes of the buffer of a die's adapter engine. -/
def adapterBuffer : Nat := 16777216

def Staged.size (x : Staged) : Nat := x.target.2.2.2.1.length + x.target.2.2.2.2.length

/-- Bytes that the open steps have gathered on a die. -/
def State.stagedOn (s : State) (die : Nat) : Nat :=
  sumList (s.sv.steps.map fun o => sumList ((o.staged.filter fun x => x.die == die).map Staged.size))

def Staged.is (x : Staged) (die adapter layer tensor : Nat) : Bool :=
  x.die == die && x.adapter == adapter && x.target.1 == layer && x.target.2.1 == tensor

/-- Whether the home reduction of a line has a fire still to be counted on its tile. -/
def Tile.firesFor (t : Tile) (l : LineId) : Bool :=
  (t.fires.any fun f => f.red.line == l) || (t.repeatDue.any fun f => f.red.line == l) ||
    (t.array.any fun x => x.fire.red.line == l) || t.scaler.any fun x => x.fire.red.line == l

/-- The home banks of a line. -/
def State.homeBanks (s : State) (l : Line) : List Bank :=
  [(s.tile l.home).bank0, (s.tile l.home).bank1].filter fun k => k.red.any fun r => r.line == l.id

/-- Whether a bank in CLOSING waits for an adapter's contribution. -/
def Bank.awaits (k : Bank) (adapter : Nat) : Bool := k.state == .closing && k.adapters.contains adapter

/-- Whether an adapter's contribution to a line is still to come: its home reduction has not closed, or a home bank in CLOSING waits for it. -/
def State.adapterOwed (s : State) (l : Line) (adapter : Nat) : Bool :=
  !l.complete && l.biased && (!l.issued || (s.tile l.home).firesFor l.id ||
    (s.homeBanks l).any fun k => k.state == .filling || k.awaits adapter)

/-- Whether a home bank on a die waits for a target of a step (08 R263). -/
def State.targetAwaited (s : State) (o : OpenStep) (die adapter layer tensor : Nat) : Bool :=
  s.rd.lines.any fun l => l.stepTag == o.tag && l.dest.layer == layer && l.dest.tensor == tensor && l.home.die == die &&
    (s.homeBanks l).any fun k => k.awaits adapter

/-- The buffer of a die without the targets that no home bank waits for. -/
def State.spareTargets (s : State) (die : Nat) : State :=
  let keeps (o : OpenStep) (x : Staged) : Bool := x.die != die || s.targetAwaited o die x.adapter x.target.1 x.target.2.1
  { s with sv := { s.sv with steps := s.sv.steps.map fun o => { o with staged := o.staged.filter (keeps o) } } }

/-- Whether a target has room in the buffer of a die. One larger than the whole buffer is taken while nothing else stands in it (DESIGN CHOICE, log
entry 49). -/
def State.targetRoom (s : State) (die : Nat) (x : Staged) : Bool := s.stagedOn die == 0 || s.stagedOn die + x.size ≤ adapterBuffer

/-- A target gathered for a step on a die, unless it stands there already; none without room. For one that a bank in CLOSING waits for, the targets
that none waits for make room, and are read again when they are needed: the targets of one tensor may exceed the buffer together, and R263 of 08,
which reads each once, has no case for it (DESIGN CHOICE, log entry 49). -/
def State.gatherTarget (s : State) (tag die adapter : Nat) (t : Nat × Nat × Nat × Bytes × Bytes) : Option State :=
  let x : Staged := ⟨die, adapter, t⟩
  let put (st : State) : Option State :=
    if st.targetRoom die x then some (st.modStep tag fun o => { o with staged := o.staged ++ [x] }) else none
  match s.stepOf tag with
  | none => none
  | some o =>
    if o.staged.any fun y => y.is die adapter t.1 t.2.1 then some s
    else (put s).orElse fun _ => if s.targetAwaited o die adapter t.1 t.2.1 then put (s.spareTargets die) else none

/-- Whether a token names an adapter and still needs its target of a layer and tensor: it has not passed the layer, and the contribution to one of
its lines of the tensor is still to come. -/
def State.needsTarget (s : State) (o : OpenStep) (ti adapter layer tensor : Nat) : Bool :=
  match o.tokens[ti]? with
  | none => false
  | some tok =>
    !tok.draft && !tok.finished && (tok.stage == waitStage || tok.layer ≤ layer) &&
      ((s.linesOf o.tag ti layer tensor).any fun l => s.adapterOwed l adapter) &&
      (o.cmd.entries[tok.entry]?).any fun e => ((o.cmd.adapters.drop e.adapterIndex).take e.adapterCount).contains adapter

/-- Whether a target's work in a step is still to come or goes on. -/
def State.targetNeeded (s : State) (o : OpenStep) (adapter layer tensor : Nat) : Bool :=
  (List.range o.entries.length).any o.toBegin || (List.range o.tokens.length).any fun ti => s.needsTarget o ti adapter layer tensor

/-- The targets of the adapters that a step names and still needs, with their adapters, lowest layer first. -/
def State.targetsDue (s : State) (o : OpenStep) : List (Nat × Nat × Nat × Nat × Bytes × Bytes) :=
  sortBy (fun (e : Nat × Nat × Nat × Nat × Bytes × Bytes) => e.2.1) ((o.cmd.adapters.eraseDups).flatMap fun id =>
    match s.sv.adapters.find? fun a => a.id == id with
    | some a => (a.targets.filter fun t =>
        o.cmd.firstLayer ≤ t.1 && t.1 ≤ o.cmd.lastLayer && s.targetNeeded o id t.1 t.2.1).map fun t => (id, t)
    | none => [])

/-- The engine of a die gathers the targets of a list in order, as far as its buffer has room. -/
def State.gatherDie (tag die : Nat) : List (Nat × Nat × Nat × Nat × Bytes × Bytes) → State → State
  | [], s => s
  | e :: es, s =>
    match s.gatherTarget tag die e.1 e.2 with
    | some s1 => State.gatherDie tag die es s1
    | none => s

/-- The targets of a list in the order in which the engine of a die takes them: first those that a bank in CLOSING waits for. -/
def State.gatherOrder (s : State) (o : OpenStep) (die : Nat) (l : List (Nat × Nat × Nat × Nat × Bytes × Bytes)) :
    List (Nat × Nat × Nat × Nat × Bytes × Bytes) :=
  let here := l.filter fun e => (s.homeDies o.model e.2.1 e.2.2.1).contains die
  let awaited (e : Nat × Nat × Nat × Nat × Bytes × Bytes) : Bool := s.targetAwaited o die e.1 e.2.1 e.2.2.1
  here.filter awaited ++ here.filter fun e => !awaited e

/-- The engines gather what a step still needs, as far as their buffers have room: each target once, on every die with home reductions of
its tensor, read over the bridges where its stack is another die's; a target leaves once every token that names it has had it. -/
def State.gather (s : State) (tag : Nat) : State :=
  match s.stepOf tag with
  | none => s
  | some o =>
    let due := s.targetsDue o
    (List.range 4).foldl (fun st d =>
        State.gatherDie tag d (s.gatherOrder o d due) st)
      (s.modStep tag fun x => { x with staged := x.staged.filter fun g => s.targetNeeded o g.adapter g.target.1 g.target.2.1 })

/-- Values of a completed line reach the token that waits for them, which goes on. -/
def State.deliverValues (s : State) (tag : Nat) (d : LineDest) (v : List Nat) : State := (s.takeValues tag d v).advanceToken tag d.token

end Sys2Proof.Machine
end

