-- ==== Sys2Proof/Machine/Modes.lean ====
section
/-! DEFINITION. Power states, the loss of power and what follows: the Survey ADCs through a trace and a power state (15 R511-
R516), entry and wake (15 R492-R501, 13 R459), the drain of the module (14 R474-R477), what a module loses with
its power (12 R418, 15 Table 15.7, 16 R543), and what firmware does once it runs (16 Table 16.8). -/

set_option Elab.async false

namespace Sys2Proof.Machine

/-! ### Survey ADCs (15 R511-R516) -/

/-- Base address of an ADC's registers. -/
def adcBase (n : Nat) : Nat := 0x10000 + 0x1000 * n

/-- The control fields that an ADC acts on: those at the start of a trace while one runs. -/
def State.adcCtl (s : State) (n : Nat) : Nat :=
  if (s.adc n).trace then (s.adc n).ctl.toNat else s.stored (adcBase n)

/-- The sequence entries as the register file holds them. -/
def State.adcSeq (s : State) (n : Nat) : List Word :=
  (List.range 16).map fun k => BitVec.ofNat 32 (s.stored (adcBase n + 0x40 + 4 * k))

/-- A pass begins at entry 0 with LEN and the entries as they stand. -/
def Adc.beginPass (d : Adc) (ctl : Nat) (sq : List Word) : Adc :=
  { d with busy := true, entry := 0, stopping := false, passLen := bits ctl 4 4, passSeq := sq }

/-- An action of a W1 field with its ADC enabled as `ctl` says (15 R512, R513). -/
def Adc.act (d : Adc) (ctl : Nat) (sq : List Word) : AdcAction → Adc
  | .start => if bit ctl 0 then d.beginPass ctl sq else d
  | .stop => if d.busy then { d with stopping := true } else d
  | .go => if bit ctl 0 && !d.injBusy then { d with injBusy := true } else d

/-- The end of a trace: held actions are performed, a running sequence restarts at entry 0, SETTLED restarts (15 R515). -/
def Adc.endTrace (d : Adc) (now ctl : Nat) (sq : List Word) : Adc :=
  let d1 := d.held.foldl (fun x a => x.act ctl sq a) { d with trace := false, held := [], settled := false, since := now }
  if !d1.busy then d1
  else if d1.stopping then { d1 with busy := false, stopping := false }
  else d1.beginPass ctl sq

def State.modAdc (s : State) (n : Nat) (f : Adc → Adc) : State := { s with adcs := modAt s.adcs n f }

/-- Whether an ADC converts in the present power state (15 R516). -/
def State.adcRuns (s : State) (n : Nat) : Bool := if n < 4 then s.inRun else s.hcoreRuns

/-- An ADC at the return of its die from a power state (15 R511, R516). -/
def State.adcReturn (s : State) (n : Nat) : State :=
  s.modAdc n fun d =>
    let d1 := { d with settled := false, since := s.tm.tick }
    if d1.busy then d1.beginPass (s.stored (adcBase n)) (s.adcSeq n) else d1

/-- A trace leaves the ADCs. -/
def State.endTraceAll (s : State) : State :=
  (List.range 5).foldl (fun st n => st.modAdc n fun d => d.endTrace st.tm.tick (st.stored (adcBase n)) (st.adcSeq n)) s

/-! ### Entry (15 R495, R496) -/

def setAllMirrors (r : Regs) : Regs :=
  { r with mirrorA := [true, true, true, true], mirrorHbm := true, mirrorCourier := true, mirrorDispatch := true }

/-- A test in progress as the module leaves P0 Run: abandoned, it counts as not run and is due as before (14 R482). -/
def FieldTest.abandon (f : FieldTest) : FieldTest :=
  if f.running then { f with running := false, due := true, dueAt := f.before.1, rotation := f.before.2 } else f

/-- Runs are discarded and queued again, tests and a trace are abandoned (15 R495, R496, 07 R209, R230, 14 R482). -/
def State.stopTileWork (s : State) : State :=
  let s1 := ((s.tl.tiles.filter fun t => t.run.isSome).map Tile.id).foldl (fun st t => st.discardRun t true) s
  let s2 := if s1.cl.busy then ({ s1 with cl := { s1.cl with busy := false, pendingTrace := true } }).endTraceAll else s1
  { s2 with tl := { s2.tl with tiles := s2.tl.tiles.map fun (t : Tile) => { t with test := t.test.abandon } } }

/-- What stops when the module leaves P0 Run; the array dies' mirrors go stale and hold what they last took (13 R437, Table 13.13). -/
def State.leaveRun (s : State) : State :=
  if s.pw.state != .p0 then s
  else
    let s2 := s.stopTileWork
    { s2 with
      pw := { s2.pw with p0Ticks := s2.pw.p0Ticks + (s2.tm.tick - s2.pw.p0Mark), p0Mark := s2.tm.tick },
      rg := { s2.rg with mirrorA := [true, true, true, true], calHeld := (List.range 256).map s.calStat } }

/-- Whether some tile has a fire in flight. -/
def State.inFlight (s : State) : Bool := s.tl.tiles.any fun t => t.array.isSome || t.scaler.isSome

/-- P1 Hold (15 R495): every sequencer stops, and the state is entered once each fire in flight has reached its t19 (02 R52). -/
def State.enterP1 (s : State) (hold : HoldReason) : State :=
  if s.pw.state = .p0 ∧ s.inFlight then { s with pw := { s.pw with entry := some ⟨.p1, s.tm.tick, false⟩, hold := hold } }
  else
    let s1 := s.leaveRun
    { s1 with pw := { s1.pw with state := .p1, entry := none, hold := hold } }

/-- Spares and stand-ins released at a fire boundary before P4 Seal (15 R496). -/
def Tile.releaseStandIn (t : Tile) : Tile :=
  { t with standIn := none, standInNext := none, claim := none,
           spare := match t.spare with
             | .standing k => .ready k
             | x => x }

/-- Whether no program runs or settles: what the entry to P4 Seal waits for (15 R496). -/
def State.programsDone (s : State) : Bool := s.tl.tiles.all fun t => t.prog.isNone && t.preempted.isEmpty && t.settling.isEmpty

/-- Whether an entry's steps 1 to 3 are over, and every fire in flight has reached its t19 (02 R52). -/
def State.entryReady (s : State) : Bool :=
  match s.pw.entry with
  | some e => !s.inFlight && (e.target == .p1 || s.liveSteps.isEmpty) && (e.target != .p4 || s.programsDone)
  | none => false

/-- The configuration registers and the held records as the retention store takes them (13 R459). -/
def State.retention (s : State) : List (Nat × Word) × List Record × Nat :=
  (s.rg.stored.filter fun e => inConfigSet e.1, s.ev.held, s.ev.next)

/-- Courier ports at the entry to P3: OFF but for FAILED, coefficients kept (10 Table 10.6). -/
def CourierPort.stow (p : CourierPort) : CourierPort := if p.state = .failed then p else { p with state := .off }

/-- Courier ports at the entry to P4 Seal: the same, with what the H core kept of the link lost, its counters and what it shows of the partner at
their reset values (13 Table 13.13, R459). The generation to retrain at, like the coefficients, is kept out of sight (10 Table 10.6). -/
def CourierPort.sealed (p : CourierPort) : CourierPort :=
  { CourierPort.reset with
    state := if p.state = .failed then .failed else .off, coeffs := p.coeffs, trainGen := if p.gen = 0 then p.trainGen else p.gen }

/-- A Dispatch port through P4 Seal: its link and its queues are lost, its generation stays for the retrain, and a port that is FAILED stays so
(11 R355, R356). -/
def DspPort.sealed (d : DspPort) : DspPort :=
  { DspPort.reset with gen := d.gen, fallback := d.fallback, state := if d.state = .failed then .failed else .down }

/-- A Dispatch port at the exit from P4 Seal: it retrains at its generation, or trains where it has none yet (15 R499, 11 R356). -/
def DspPort.unsealed (d : DspPort) : DspPort :=
  { d with state := if d.state = .failed then .failed else if d.gen = 0 then .training else .retrain }

/-- Throttling at the entry to P2, P3 or P4 (15 Table 15.4): k returns to 0, with its record (15 R507). -/
def State.clearThrottle (s : State) : State :=
  let s1 := { s with pw := { s.pw with k := 0 }, th := { s.th with tempTrig := false, rateTrig := false, currTrig := false } }
  if s.pw.k = 0 then s1 else s1.raise 0x0102 5 [s.pw.largestK, (s.tm.tick - s.pw.throttleBegun) / ticksPerUs]

/-- The staging SRAM loses its contents (15 Table 15.3): list caches, lines and ledgers, held records and activations. -/
def State.loseStaging (s : State) : State :=
  { s with tl := { s.tl with regions := s.tl.regions.map fun (r : Region) => { r with cache := [], fetching := [] } },
           rd := { s.rd with lines := [], ledgers := [] },
           fb := { s.fb with held := [], activations := [] } }

/-! ### Loss of power (12 R418, 15 Tables 15.3 and 15.7, 16 R543) -/

/-- ASTATE once power has been applied (06 Table 6.5, R198). An entry of another VERSION is refused (01 R30): its array holds nothing and,
its wear being unknown, is not programmed (DESIGN CHOICE, log entry 47). -/
def DirEntry.unbound (spare : Bool) (d : DirEntry) : DirEntry :=
  if d.version ≠ 1 then { d with astate := .free, spareTag := none, model := 0, retired := true }
  else if spare then { d with astate := .free, spareTag := none, model := 0 }
  else if d.astate = .free then d else { d with astate := .unbound }

/-- Flash, straps, pins and dumps: what of the boot block outlives a reset; `hbm0`: stack 0 kept its dead-letter region. -/
def Boot.kept (b : Boot) (hbm0 : Bool) : Boot :=
  { Boot.reset with
    records := b.records, images := b.images, control := b.control, certSerial := b.certSerial, certOk := b.certOk, cert := b.cert,
    helperOk := b.helperOk, flashReadError := b.flashReadError, flashWriteError := b.flashWriteError, drainLog := b.drainLog, stopLog := b.stopLog,
    stopsUnreported := b.stopsUnreported, compat := b.compat, addr0 := b.addr0, addr1 := b.addr1, resetPin := b.resetPin,
    wakePin := b.wakePin, sysclk := b.sysclk, dumps := if hbm0 then b.dumps else [none, none],
    dumpCount := b.dumpCount, dumpTime := if hbm0 then b.dumpTime else 0 }

/-- The module without what needs power in the array dies, the hub and HBM: every register of those at its reset value, the cells,
the flash and the always-on island as they were, the step counter INVALID. The commands that wait, the frames sent and the
model's draw counter stand. That the most recent run of an array failed (07 R214) is forgotten, as the entries are built again from AVALID (07 R213;
DESIGN CHOICE, log entry 72). -/
def State.loseVolatile (s : State) : State :=
  { s with
    tm := { Clocks.reset with tick := s.tm.tick, boundFrom := s.tm.boundFrom },
    ev := { Events.reset with asyncNext := 0 },
    rg := { Regs.reset with stored := s.rg.stored.filter (fun e => alwaysOn e.1), retained := s.rg.retained },
    adcs := List.replicate 5 Adc.reset,
    dp := { Dispatch.reset with tx := s.dp.tx },
    sv := Serving.reset, kv := Kv.reset, tl := Tiles.reset, rd := Reductions.reset,
    wt := { Weights.reset with
      directory := s.wt.directory.map fun (e : ArrId × DirEntry) => (e.1, e.2.unbound (e.1.arr == 16)),
      cells := s.wt.cells, calCells := s.wt.calCells, wearBase := s.wt.wearBase, copyUses := 0, progBase := s.wt.progBase },
    cl := { Calib.reset with trims := s.cl.trims, runTrims := s.cl.runTrims, runTrimsBase := s.cl.runTrimsBase,
                             store := s.cl.store,
                             storeField := s.cl.storeField, storeTime := s.cl.storeTime },
    fb := { Fabric.reset with tx := s.fb.tx, driven := s.fb.driven } }

/-- Cells whose program was cut short hold no known codes (16 R543). -/
def State.cutPrograms (s : State) : State :=
  let cut := (s.tl.tiles.filterMap fun t => t.prog.map fun p => t.id.array p.arr) ++
    s.tl.tiles.flatMap fun t => t.preempted.map fun p => t.id.array p.arr
  { s with wt := { s.wt with cells := cut.foldl (fun l a => setKey l a none) s.wt.cells } }

/-- A reset begins: every register at its Reset column (13 R433), the sensors' tables in flash kept, the supply as it stands
(12 R418). Step boundaries count from here, as from a power-up (01 R20). -/
def State.beginReset (s : State) (hbm0 : Bool) : State :=
  let s1 := s.cutPrograms.loseVolatile
  { s1 with
    tm := { s1.tm with boundFrom := s.tm.tick },
    rg := Regs.reset,
    i3 := { I3c.reset with out := s.i3.out },
    pw := { Power.reset with supplied := true, vinMv := s.pw.vinMv, iinMa := s.pw.iinMa, p0Mark := s.tm.tick,
                             lastActivity := s.tm.tick },
    th := { Thermal.reset with tables := s.th.tables, tablesOk := s.th.tablesOk },
    bt := s.bt.kept hbm0 }

/-! ### Drain (14 R474-R477) -/

/-- An open step voided with no completion: the host treats it as not run (14 R475). Its number leaves the queue's order. -/
def State.voidStep (s : State) (o : OpenStep) : State :=
  let s1 := s.undoStep o
  { (s1.modQueue o.queue fun q => { q with order := q.order.filter fun n => n != o.seq }) with
    sv := { (s1.modQueue o.queue fun q => { q with order := q.order.filter fun n => n != o.seq }).sv with
      steps := s1.sv.steps.filter fun x => x.tag != o.tag } }

/-- A list held in rotation: at most `n` entries, the oldest dropped. -/
def rotate {α : Type} (n : Nat) (l : List α) : List α := l.drop (l.length - n)

/-- Jobs with an open step that are not aborted. -/
def State.openJobs (s : State) : List Nat :=
  ((s.liveSteps.filter fun o => o.cmd.job != 0 && !o.aborted).map fun o => o.cmd.job).eraseDups

/-- Jobs that the module takes part in and that are not aborted: those with an open step, and those of its job table that name it (14 R478). -/
def State.ownJobs (s : State) : List Nat :=
  (s.openJobs ++ (s.fb.jobs.filter fun j => s.fb.coordValid && j.members.contains s.fb.coord && !s.fb.aborted.contains j.num).map Job.num).eraseDups

/-- The module-down notice for a job on every Courier port that is UP, to the partner there (14 Table 14.6). -/
def State.notifyPorts (s : State) (job : Nat) : State :=
  ((List.range 12).filter fun k => (s.port k).state == .up).foldl (fun st k =>
    st.sendCourier ⟨k, { (st.courierHdr 5 (st.port k).partner job 16) with hops := 1 }, controlPayload 0 0 st.fb.coord job⟩) s

/-- Jobs declared aborted: what the module holds for them is dropped (10 R353). -/
def State.endJobs (s : State) (jobs : List Nat) : State :=
  { s with fb := { s.fb with aborted := s.fb.aborted ++ jobs, held := s.fb.held.filter fun a => !jobs.contains a.job,
                             activations := s.fb.activations.filter fun a => !jobs.contains a.job },
           rd := { s.rd with ledgers := s.rd.ledgers.filter fun l => !jobs.contains l.job } }

def State.deliverAll (s : State) : State := (s.sv.queues.map Queue.id).foldl State.deliver s

/-- DETAIL of asynchronous event 6 (14 R484). -/
def drainDetail (cause source flagged loc code : Nat) : Bytes :=
  natLe 1 cause ++ natLe 1 source ++ natLe 1 flagged ++ natLe 1 0 ++ natLe 4 loc ++ natLe 2 code

/-- The drain of the module for a permanent fault of a cause of 14 Table 14.7, whose event record has the code `code` and the LOC
`loc`. It declares every job that it takes part in aborted with REASON 0 and reports each (14 R478, 10 R352), by module-down notices: for a job
with an open step on every UP Courier port, and for each of the jobs to every other member that it can reach. After a lockstep mismatch the island
carries it out: no completion, no drained record, no asynchronous event. -/
def State.drain (s : State) (cause code source loc : Nat) : State :=
  if s.isDrained then s
  else
    let noFirmware := cause == 7
    let svn := match s.bt.image with
      | some i => i.svn
      | none => 0
    let entry : DrainEntry := ⟨s.time, cause, source, code, loc, svn⟩
    let jobs := s.ownJobs
    let s1 := { s with bt := { s.bt with drained := some cause, drainLog := rotate 1024 (s.bt.drainLog ++ [entry]) } }
    let s2 := jobs.foldl (fun st j => st.notifyJob j 0 0 st.fb.coord) (s.openJobs.foldl State.notifyPorts s1)
    let s3 := s2.endJobs jobs
    let s4 := s3.liveSteps.foldl State.voidStep s3
    let s5 :=
      if noFirmware then s4
      else
        let a := jobs.foldl (fun st j => st.reportAbort j 0 st.fb.coord) (s4.deliverAll.raise 0x0206 4 [cause, code, loc])
        if a.leaseLive then a.async 6 (drainDetail cause source 0 loc code) else a
    s5.enterP1 .drained

/-! ### Firmware start (16 Table 16.8, 12 R452, 14 R477, 15 R509, 07 R213) -/

/-- One stop record for each stop log entry written since the previous boot (15 R509). -/
def State.raiseStops (s : State) : State :=
  let es := (s.bt.stopLog.drop (s.bt.stopLog.length - s.bt.stopsUnreported))
  let s1 := es.foldl (fun st e =>
    st.raise 0x0103 6 [e.cause, e.sensor, ofSigned 32 e.reading, e.vinMv, e.time % 2 ^ 32, e.time / 2 ^ 32]) s
  { s1 with bt := { s1.bt with stopsUnreported := 0 } }

/-- The replacement-flag record of a flagged module (14 R477). -/
def State.raiseFlag (s : State) : State :=
  match s.bt.drainLog.getLast? with
  | some e => ({ s with bt := { s.bt with flagDue := true } }).raise 0x0210 6 [e.cause, e.time % 2 ^ 32, e.time / 2 ^ 32]
  | none => s

/-- Firmware's commit of the seal at a start: the next scan becomes the reference (13 R452). -/
def State.commitSeal (s : State) : State :=
  { s with rg := { s.rg with sealed := { s.rg.sealed with opened := false, pending := true, noRef := false } } }

/-- Whether some tile record's DIGEST fails (07 R212). -/
def State.storeBad (s : State) : Option TileId := (s.cl.store.find? fun r => r.digest != r.digestDue).map TileRecord.tid

/-- The franking store read, its digests checked, and the entries built (07 R213); a record whose DIGEST fails is a permanent fault (07
R212). -/
def State.restoreFranking (s : State) : State :=
  let s1 := { s with cl := { s.cl with restored := true } }
  match s.storeBad with
  | some t => s1.drain 5 0 4 (locOf (t.array 0))
  | none => s1

/-- The links of ports and Dispatch as training begins (16 Table 16.8, 10 Table 10.6). -/
def State.startPorts (s : State) : State :=
  { s with fb := { s.fb with ports := s.fb.ports.map fun (p : CourierPort) => { p with state := .detect } },
           dp := { s.dp with ports := s.dp.ports.map fun (d : DspPort) => { d with state := .training } } }

/-! ### The limit guards (12 R409) -/

/-- The quantity that a record of a clamp names, by the row of 12 Table 12.7. -/
def Limited.quantity : Limited → Nat
  | .vcoreA _ | .vcoreH | .vtile _ => 2
  | .clkA _ | .clkH | .clkTile | .clkNgaok => 3
  | .fireDuty => 4
  | .inputPower => 5
  | .railCurrent => 6

/-- The limit of a guard; those that the configuration record gives are loaded at the boot. -/
def State.limit (s : State) (q : Limited) : Nat :=
  match q with
  | .vcoreA _ | .vcoreH => 820
  | .vtile _ => 880
  | .clkA _ => match s.bt.record with
    | some r => r.clkAMhz
    | none => 0
  | .clkH => 1800
  | .clkTile => 125
  | .clkNgaok => 1200
  | .fireDuty => s.slotDuty
  | .inputPower => 1250
  | .railCurrent => 1650

/-- Firmware asks for a set-point: beyond the limit it is clamped to it, with a limit-clamp record. -/
def State.request (s : State) (q : Limited) (v : Nat) : State :=
  let l := s.limit q
  let s1 := { s with pw := { s.pw with setPoints := setKey s.pw.setPoints q (Nat.min v l) } }
  if l < v then s1.raise 0x0040 4 [q.quantity, v, l] else s1

/-- What firmware asks for at its start: the nominal rails (01 Table 1.4), the clocks and the fire duty of the record (12 Table 12.10), and
the Ngaok clock. The input-power and rail-current guards keep their limits. -/
def startRequests (r : ConfigRecord) : List (Limited × Nat) :=
  ((List.range 4).flatMap fun n => [(.vcoreA n, 750), (.vtile n, 800), (.clkA n, r.clkAMhz)]) ++
    [(.vcoreH, 750), (.clkH, r.clkHMhz), (.clkTile, r.clkTileMhz), (.clkNgaok, 1200), (.fireDuty, r.slotDuty), (.inputPower, 1250),
     (.railCurrent, 1650)]

/-- The set-points of a start. -/
def State.setPoints (s : State) : State :=
  match s.bt.record with
  | some r => (startRequests r).foldl (fun st e => st.request e.1 e.2) s
  | none => s

/-- Firmware runs from the image's entry point: HBM trained, records of stops and of the drain log raised, the franking store read,
the seal committed, a start-up trace due. -/
def State.firmwareStart (s : State) : State :=
  let s1 := { s with bt := { s.bt with run := .running, hbmReady := true,
                                       watchdogs := [s.tm.tick, s.tm.tick, s.tm.tick, s.tm.tick] },
                     cl := { s.cl with pendingTrace := true } }
  s1.setPoints.raiseStops.raiseFlag.restoreFranking.commitSeal

/-! ### Wake (15 R497-R500) -/

/-- Ports woken by a module that leaves P2 (15 R497, 10 R322): a WAKE frame on every port that was UP or KEEPALIVE and has the feature (10 R318). -/
def State.sendWakes (s : State) : State :=
  if s.storedField 0x4004 14 1 = 0 then s
  else (s.pw.upPorts.filter fun k => s.portTakes k 6).foldl (fun st k =>
    st.sendCourier ⟨k, { (st.courierHdr 6 (st.port k).partner 0 0) with hops := 1 }, []⟩) s

/-- Partners woken by a module that leaves P3 or P4: lane 0 of every port that was UP or KEEPALIVE, now OFF, is driven with idle signalling for 20 us
(15 R497, 10 R322). -/
def State.driveWakes (s : State) : State :=
  if s.storedField 0x4004 14 1 = 0 then s else { s with fb := { s.fb with driven := s.fb.driven ++ s.pw.upPorts } }

/-- Ports on leaving P2 (10 Table 10.6): frames held go out. -/
def CourierPort.unNap (now time : Nat) (p : CourierPort) : CourierPort :=
  if p.state = .keepalive then ({ p with state := .up }).flush now time else p

/-- A retrain begins with lane locks and adverts to come (10 R311, R317). -/
def CourierPort.toRetrain (p : CourierPort) : CourierPort := { p with state := .retrain, locked := [], advertsSame := 0, advertsSent := 0 }

/-- Ports on leaving P3 or P4: retrain from stored coefficients; one without any goes to DETECT. -/
def CourierPort.unStow (p : CourierPort) : CourierPort :=
  if p.state = .off then (if p.coeffs then p.toRetrain else { p with state := .detect }) else p

def State.unStowPorts (s : State) : List CourierPort :=
  (List.range 12).map fun k => if s.portInUse k then (s.port k).unStow else s.port k

/-- The lease of a host that commands P2 Nap or P3 Stow (11 R396). -/
def State.suspendLease (s : State) : State :=
  { s with dp := { s.dp with lease := s.dp.lease.map fun (l : Lease) => { l with suspended := true } } }

/-- A suspended lease on return from P2 or P3: a new window at the tick of the return (11 R396). -/
def State.resumeLease (s : State) : State :=
  match s.dp.lease.filter Lease.suspended with
  | some l => { s with dp := { s.dp with lease := some (s.stampLease { l with suspended := false }) } }
  | none => s

/-- The state a wake leads to (15 R497). -/
def State.wakeTarget (s : State) : PowerState := if s.isDrained then .p1 else .p0

/-- Whether the last passing trace began an hour or more before, or none has passed: what a return from P2 or P3 judges by (15 R500). -/
def State.traceOld (s : State) : Bool :=
  match s.cl.refTime with
  | none => true
  | some none => false
  | some (some t) => s.tm.valid && t + 3600 * ticksPerSec ≤ s.tm.counter

/-- A trace falls due on return when the last passing one is old (15 R500). -/
def State.retrace (s : State) : State := { s with cl := { s.cl with pendingTrace := s.cl.pendingTrace || s.traceOld } }

/-- ALIGNED as it stands at this tick: a module that is not the root keeps it by an exchange less than 10 ms ago, and a record is raised where it
clears (10 R345): after the root has changed, and where the counter is loaded. -/
def State.judgeAligned (s : State) (was : Bool) : State :=
  let s1 := s.modClock fun c =>
    { c with aligned := c.aligned && (match c.lastExchange with
        | some t => decide (c.tick < t + alignTicks)
        | none => false) }
  if was && !s1.isAligned then s1.raise 0x0035 4 [s1.timeParent.getD 15] else s1

/-- The clocks of the array dies run again; the module is in the state the wake leads to, and its power rises from here (15 R487). -/
def State.arrive (s : State) (cause : Nat) (goal : PowerState) : State :=
  let s1 := { s with pw := { s.pw with state := goal, wake := cause, ramp := true, p0Mark := s.tm.tick, lastActivity := s.tm.tick,
                                       hold := if goal = .p1 then s.pw.hold else .none } }
  if goal = .p0 then (List.range 4).foldl State.adcReturn s1 else s1

/-- Return from P2 Nap. -/
def State.wakeP2 (s : State) (cause : Nat) : State :=
  let s1 := { s with fb := { s.fb with ports := s.fb.ports.map (CourierPort.unNap s.tm.tick s.localTime) } }
  (((s1.arrive cause s1.wakeTarget).adcReturn 4).resumeLease.expireAllHeld.retrace).sendWakes

/-- Return from P3 Stow. -/
def State.wakeP3 (s : State) (cause : Nat) : State :=
  let s0 := s.driveWakes
  let s1 := { s0 with
    fb := { s0.fb with ports := s0.unStowPorts },
    dp := { s0.dp with ports := s0.dp.ports.map fun (d : DspPort) => if d.state = DspState.down then { d with state := .retrain } else d },
    rg := setAllMirrors s0.rg }
  ((s1.arrive cause s1.wakeTarget).adcReturn 4).resumeLease.expireAllHeld.retrace

/-- Registers and event records from the retention store (13 R459). -/
def State.restoreRetained (s : State) : State :=
  { s with
    rg := match s.rg.retained with
      | some k => { (setAllMirrors s.rg) with stored := k.1.foldl (fun l (e : Nat × Word) => putRising e.1 e.2 l) s.rg.stored, retained := none }
      | none => setAllMirrors s.rg,
    ev := match s.rg.retained with
      | some k => { s.ev with held := k.2.1, next := k.2.2 }
      | none => s.ev }

/-- Return from P4 Seal: registers and records come back from the retention store, firmware starts with nothing held, ports retrain,
a trace falls due (15 R499, 13 R459). -/
def State.wakeP4 (s : State) (cause : Nat) : State :=
  let s0 := s.restoreRetained.driveWakes
  let s1 := { s0 with
    fb := { s0.fb with ports := s0.unStowPorts },
    dp := { s0.dp with ports := s0.dp.ports.map DspPort.unsealed },
    cl := { s0.cl with pendingTrace := true },
    bt := { s0.bt with run := .running, hbmReady := true, watchdogs := [s.tm.tick, s.tm.tick, s.tm.tick, s.tm.tick] } }
  ({ s1 with tm := { s1.tm with boundFrom := s1.tm.tick } }.arrive cause s1.wakeTarget).restoreFranking.commitSeal

/-- Return from P1 Hold. A module held there by a lease expiry or a drain stays. -/
def State.wakeP1 (s : State) (cause : Nat) : State :=
  if !s.pw.supplied || s.pw.stop.isSome || s.isDrained || s.pw.hold != .none then s else s.arrive cause .p0

/-- A wake (15 R497). -/
def State.wake (s : State) (cause : Nat) : State :=
  if !s.pw.supplied || s.pw.stop.isSome then s
  else
    match s.pw.state with
    | .p0 => s
    | .p1 => s.wakeP1 cause
    | .p2 => s.wakeP2 cause
    | .p3 => s.wakeP3 cause
    | .p4 => s.wakeP4 cause

/-- READY of a reattach returns the module to P0 Run (11 R398), or ends the entry to P1 Hold. -/
def State.wakeReattach (s : State) : State :=
  if s.isDrained then s
  else if s.pw.state = .p1 then s.arrive 5 .p0
  else if s.pw.state = .p0 ∧ (s.pw.entry.all fun e => e.target == .p1) then { s with pw := { s.pw with entry := none, hold := .none } }
  else s

/-- An entry completes: the module reaches its state (15 R496, Table 15.3). The Courier and Dispatch mirrors are stale in P2 Nap, as 13
Table 13.13 says, although Table 1.7 lets those clocks run there (DEDUCED, log entry 52). -/
def State.reach (s : State) (goal : PowerState) : State :=
  match goal with
  | .p0 => s.wake 8
  | .p1 => s.enterP1 s.pw.hold
  | .p2 =>
    let s1 := s.leaveRun.clearThrottle
    { s1 with
      rg := { s1.rg with mirrorHbm := true, mirrorCourier := true, mirrorDispatch := true },
      pw := { s1.pw with state := .p2, entry := none },
      fb := { s1.fb with ports := s1.fb.ports.map fun (p : CourierPort) => if p.state = PortState.up then { p with state := .keepalive } else p },
      dp := { s1.dp with lease := s1.dp.lease.map fun (l : Lease) => { l with suspended := true } } }
  | .p3 =>
    let s1 := s.leaveRun.clearThrottle.loseStaging
    { s1 with
      rg := setAllMirrors s1.rg,
      pw := { s1.pw with state := .p3, entry := none },
      fb := { s1.fb with ports := s1.fb.ports.map CourierPort.stow },
      dp := { s1.dp with ports := s1.dp.ports.map (fun (d : DspPort) => if d.state = DspState.up then { d with state := .down } else d),
                         lease := s1.dp.lease.map fun (l : Lease) => { l with suspended := true } } }
  | .p4 =>
    let s0 := s.leaveRun.clearThrottle
    let keep := s0.retention
    let ports := s0.fb.ports.map CourierPort.sealed
    let s1 := s0.loseVolatile
    { s1 with
      pw := { s1.pw with state := .p4, entry := none, p0Ticks := 0 },
      rg := { s1.rg with retained := some keep },
      fb := { s1.fb with ports := ports },
      dp := { s1.dp with ports := s0.dp.ports.map DspPort.sealed },
      bt := { s1.bt with hbmReady := false, arraysReady := false, dumps := [none, none], dumpTime := 0, staging := none } }

/-- Step 2 of an entry, once its open steps have committed (15 R496). -/
def State.entryStops (s : State) : State :=
  match s.pw.entry with
  | some e =>
    if e.stopped || e.target == .p1 || !s.liveSteps.isEmpty then s
    else { s.stopTileWork with pw := { s.stopTileWork.pw with entry := some { e with stopped := true } } }
  | none => s

/-- An entry in progress takes its step 2, and completes once its steps 1 to 3 are over. -/
def State.tryEntry (s : State) : State :=
  let s1 := s.entryStops
  match s1.pw.entry with
  | some e =>
    if s1.entryReady then
      (if e.target = .p4 then { s1 with tl := { s1.tl with tiles := s1.tl.tiles.map Tile.releaseStandIn } } else s1).reach e.target
    else s1
  | none => s1

/-- An entry abandoned (15 Table 15.4). One to P1 Hold that waits for its fires ends without a record, unless a drain or a lapsed lease holds
the module (15 R497). The lease that an entry to P2 or P3 suspended runs on, with a new window (DESIGN CHOICE, log entry 53). -/
def State.abandonEntry (s : State) (cause : Nat) : State :=
  match s.pw.entry with
  | some e =>
    if e.target = .p1 then (if s.pw.hold = .none then { s with pw := { s.pw with entry := none } } else s)
    else ({ s with pw := { s.pw with entry := none } }).resumeLease.raise 0x0106 4 [e.target.code, cause]
  | none => s

/-! ### Arriving frames (15 R492, R494, R501) -/

/-- A frame arrives on a Dispatch port: one of channel 0 ends an entry to P2, P3 or P4 and wakes P1; any wakes P2; every one of
channel 0 counts as activity. -/
def State.frameArrives (s : State) (chan0 : Bool) : State :=
  let s1 := if chan0 then { s with pw := { s.pw with lastActivity := s.tm.tick } } else s
  let s2 := if chan0 && s1.pw.entry.isSome then s1.abandonEntry 1 else s1
  if s2.pw.state = .p1 ∧ chan0 then s2.wakeP1 5
  else if s2.pw.state = .p2 ∧ s2.pw.supplied ∧ s2.pw.stop.isNone then s2.wakeP2 5
  else s2

/-- Firmware has work that falls due in P1 Hold (15 R495): it returns to P0 Run. -/
def State.wakeForTask (s : State) : State := if s.pw.state = .p1 then s.wakeP1 7 else s

/-- A fire schedule issued in P1 Hold wakes the module (15 Table 15.2): `before` is the state that the work came upon. -/
def State.scheduleWakes (s before : State) : State :=
  if s.pw.state = .p1 ∧ s.sv.nextInput ≠ before.sv.nextInput then s.wakeP1 6 else s

/-- Whether an entry has stopped the tiles' work, or is to P1 Hold: no run, trace, scan or test begins (15 R495, R496). -/
def State.workStops (s : State) : Bool := s.pw.entry.any fun e => e.stopped || e.target == .p1

/-- What ends now counts as activity for auto-hold (15 R494). -/
def State.active (s : State) : State := { s with pw := { s.pw with lastActivity := s.tm.tick } }

/-- Whether a Dispatch frame can arrive on a port: the module runs and the port is up (11 R356, 15 Table 15.3). -/
def State.portHears (s : State) (p : Nat) : Bool :=
  s.pw.supplied && s.pw.stop.isNone && p < 2 && (s.dsp p).state == .up &&
    (s.pw.state == .p0 || s.pw.state == .p1 || s.pw.state == .p2)

end Sys2Proof.Machine
end

