-- ==== Sys2Proof/Machine/Recover.lean ====
section
/-! DEFINITION. Recovery: the replay of a step (14 R469, R470), the
stop of 15 Table 15.7, the dead-letter dump (12 R427), and the boot chain (12 R412-R423). -/

set_option Elab.async false

namespace Sys2Proof.Machine

/-! ### Replay (14 R469, R470) -/

/-- A ledger line reset for an epoch: zero elements, its initial PENDING, COMPLETE and FAULT clear (05 Table 5.6). -/
def Line.again (l : Line) (epoch now : Nat) : Line :=
  { l with epoch := epoch, pending := l.initial, complete := false, fault := false, quiet := l.quiet.map fun _ => now, elems := [] }

/-- A ledger at a higher epoch from the tick `now` on, each of its lines reset (05 Table 5.6). -/
def Ledger.raise (l : Ledger) (epoch now : Nat) : Ledger :=
  { l with epoch := epoch, since := now, lines := l.lines.map fun x => x.again epoch now }

/-- The ledger of the step at a new epoch from the tick `now` on. -/
def OpenStep.raiseLedger (o : OpenStep) (epoch now : Nat) (l : Ledger) : Ledger :=
  if o.isJobStep l.job l.step ∧ l.epoch < epoch then l.raise epoch now else l

/-- Activations held for the step serve its new epoch (14 R468). -/
def OpenStep.raiseActivation (o : OpenStep) (epoch : Nat) (a : Activation) : Activation :=
  if o.isJobStep a.job a.step ∧ a.epoch < epoch then { a with epoch := epoch } else a

/-- The step runs again at an epoch, from its held inputs and under its reservations (14 Table 14.4). -/
def State.rerun (s : State) (tag epoch : Nat) : State :=
  match s.stepOf tag with
  | none => s
  | some o =>
    let s1 := s.dropWork tag
    let s2 := { s1 with
      rd := { s1.rd with ledgers := s1.rd.ledgers.map (o.raiseLedger epoch s.tm.tick) },
      fb := { s1.fb with activations := s1.fb.activations.map (o.raiseActivation epoch) } }
    let s3 := s2.modStep tag fun x =>
      { x with epoch := epoch, tokens := [], spotDies := [], spotPass := [],
               entries := x.entries.map fun (e : EntryWork) => { e with compacted := false } }
    (roundOrder o).foldl (fun st i => st.startEntry tag i) s3

/-- The payload of a replay notice (05 Table 5.5). -/
def replayNotice (job step epoch : Nat) : Bytes :=
  natLe 1 1 ++ natLe 1 1 ++ natLe 2 0 ++ natLe 4 job ++ natLe 8 step ++ natLe 1 epoch ++ natLe 1 0 ++ natLe 2 0 ++ natLe 4 0 ++
    natLe 8 0

/-- The record of a replay (14 Table 14.8). -/
def State.replayRecord (s : State) (o : OpenStep) (code : Nat) : State :=
  s.raise 0x0205 4 [o.tag + 65536 * (o.epoch + 1), o.cmd.stepNumber % 2 ^ 32, o.cmd.stepNumber / 2 ^ 32, o.cmd.job, code]

/-- The replay notices of a step of a job, to each of the job's other modules. One that no port takes aborts the job and with it the step. -/
def State.replayNotices (s : State) (o : OpenStep) : State :=
  if o.cmd.job = 0 then s
  else (s.jobPeers o.cmd.job).foldl (fun st c => st.sendForJob 1 c o.cmd.job (replayNotice o.cmd.job o.cmd.stepNumber 1)) s

/-- A detected transient of an open step at an epoch (14 R469, R470): the step is replayed once; a second transient drains the
module. One that names an epoch already voided changes nothing. -/
def State.transient (s : State) (tag epoch code source loc : Nat) : State :=
  match s.liveStep tag with
  | none => s
  | some o =>
    if o.epoch != epoch then s
    else if o.epoch = 0 then
      let s1 := s.replayNotices o
      if (s1.liveStep tag).isNone then s1 else (s1.replayRecord o code).rerun tag 1
    else s.drain 1 code source loc

/-! ### The stop of 15 Table 15.7 -/

def StopCause.code : StopCause → Nat
  | .trip => 1 | .under => 2 | .overvolt => 3 | .sysclk => 2

/-- Trip or power-fail stop: rails off, HBM lost, one stop log entry, the island alone runs (15 R509). -/
def State.failStop (s : State) (cause : StopCause) (sensor : Nat) (reading : Int) (vinMv : Nat) : State :=
  let entry : StopEntry := ⟨s.time, cause.code, sensor, reading, vinMv⟩
  let s1 := s.cutPrograms.loseVolatile
  { s1 with
    pw := { s1.pw with stop := some cause, entry := none, vinMv := vinMv },
    bt := { s1.bt with run := .booting, hbmReady := false, arraysReady := false, dumps := [none, none], dumpTime := 0, staging := none,
                       halted := false, drained := none, stopLog := rotate 256 (s1.bt.stopLog ++ [entry]),
                       stopsUnreported := Nat.min 256 (s1.bt.stopsUnreported + 1) } }

/-! ### The dead-letter dump (12 R427) -/

def dumpUnread (d : Option Dump) : Bool :=
  match d with
  | some x => x.unread
  | none => false

def dumpOrder (d : Option Dump) : Nat :=
  match d with
  | some x => x.order
  | none => 0

/-- The slot a dump goes to: a free one, else that of the older dump. -/
def State.dumpSlot (s : State) : Nat :=
  let a := at' s.bt.dumps 0 none
  let b := at' s.bt.dumps 1 none
  if !dumpUnread a then 0 else if !dumpUnread b then 1 else if dumpOrder a ≤ dumpOrder b then 0 else 1

/-- A dump written. -/
def State.writeDump (s : State) (cause core : Nat) (sections : List Nat) : State :=
  let img (f : Image → Nat) : Nat := match s.bt.image with
    | some i => f i
    | none => 0
  let slot := s.dumpSlot
  let d : Dump := { cause := cause, core := core, svn := img Image.svn, fwVersion := img Image.fwVersion, sections := sections,
                    time := s.time, imageDigest := img Image.headerDigest, unread := true, damaged := false,
                    order := s.bt.dumpCount + 1 }
  { s with bt := { s.bt with
      dumps := modAt s.bt.dumps slot fun _ => some d, dumpCount := s.bt.dumpCount + 1, dumpTime := s.time,
      overwritten := if dumpUnread (at' s.bt.dumps slot none) then s.bt.overwritten + 1 else s.bt.overwritten } }

/-- A firmware crash (12 R402): the cores halt, a dump is written, the module drains. `code` is the event of the cause; a trap or an
assertion has none. -/
def State.crash (s : State) (dumpCause core code : Nat) : State :=
  let s1 := { s with bt := { s.bt with run := .halted, halted := true } }
  (s1.writeDump dumpCause core [1, 2, 3, 4, 5]).drain 8 code 4 0

/-! ### Boot chain (12 R412-R423) -/

/-- Whether a record is usable (12 R415). -/
def ConfigRecord.usable (r : ConfigRecord) (keyId : Nat) : Bool :=
  r.verified && r.serial == keyId && r.version == 1 && r.tdpW ≤ 1100 &&
    r.pinLimitW ≤ 1250 && r.clkAMhz ≤ 1800 && r.clkHMhz ≤ 1800 && r.clkTileMhz ≤ 125 && r.slotDuty ≤ 16

/-- The record in force: the usable one with the higher RECORD_SEQ, slot 0 on a tie. -/
def Boot.chooseRecord (b : Boot) : Option ConfigRecord :=
  let u (i : Nat) : Option ConfigRecord := (at' b.records i none).filter fun r => r.usable b.keyId
  match u 0, u 1 with
  | some a, some c => if a.recordSeq < c.recordSeq then some c else some a
  | some a, none => some a
  | none, x => x

/-- The choice of a slot (12 R423): (slot, trial boot, the block after it). -/
def BootControl.choose (c : BootControl) : Nat × Bool × BootControl :=
  if c.trial != 0 && 0 < c.tries then (c.trial - 1, true, { c with tries := c.tries - 1 })
  else if c.trial != 0 then (c.active, false, { c with trial := 0, lastUpdate := 2 })
  else (c.active, false, c)

/-- Boot fails (12 R420): the ports train at the link layer, no HELLO goes out. -/
def State.bootFails (s : State) (code : Nat) (r : Option ConfigRecord) : State :=
  { s with bt := { s.bt with run := .bootFailed, bootFail := code, record := r },
           dp := { s.dp with ports := s.dp.ports.map fun (d : DspPort) => { d with state := .training } } }

/-- The island loads the sensors' tables, at t = 14 ms of 12 Table 12.11, as a record is chosen: a boot that has failed at the identity, or that
cannot read the flash, does not come to it (15 R503; DEDUCED, log entry 36). -/
def State.loadTables (s : State) : State := { s with th := { s.th with provisional := !s.th.tablesOk } }

/-- The boot chain, and firmware's start when an image boots (12 R419). -/
def State.bootChain (s : State) : State :=
  if !s.bt.identityOk then s.bootFails 1 none
  else if s.bt.flashReadError then s.bootFails 5 none
  else
    match s.bt.chooseRecord with
    | none => s.loadTables.bootFails 2 none
    | some r =>
      let c := s.bt.control.choose
      let s1 := { s.loadTables with bt := { s.bt with control := c.2.2, record := some r },
                                    pw := { s.pw with duty := r.slotDuty } }
      let img (k : Nat) : Option Image := (at' s.bt.images k none).filter fun i => i.bootable r.minSvn
      let boot (k : Nat) (trial : Bool) (i : Image) : State :=
        ({ s1 with bt := { s1.bt with slot := k, trialBoot := trial, image := some i } }).startPorts.firmwareStart
      match img c.1, img (1 - c.1) with
      | some i, _ => boot c.1 c.2.1 i
      | none, some i => boot (1 - c.1) false i
      | none, none =>
        let low (k : Nat) : Bool := match at' s.bt.images k none with
          | some i => i.intact
          | none => false
        s1.bootFails (if low 0 && low 1 then 4 else 3) (some r)

/-- A reset under 12 R418 with power applied: every state at its reset value, then the boot chain. -/
def State.resetModule (s : State) (hbm0 : Bool) : State := (s.beginReset hbm0).bootChain

end Sys2Proof.Machine
end

