-- ==== Sys2Proof/Machine/TileOps.lean ====
section
/-! DEFINITION. What the commands of a tile share: the changes of a fire boundary (02 R49, 05 R144), the choice of the next fire (02
R50, 05 R145, 08 R253), replacement by fall-back (04 R120-R128), the latch, additions to a bank and its end (05 R143-R148). -/

set_option Elab.async false

namespace Sys2Proof.Machine

/-! ### Masters and inputs -/

def State.input (s : State) (die id : Nat) : Option InputSlot := s.sv.inputs.find? fun i => i.die == die && i.id == id

/-- The master of the accepted parcel that names an array (06 R177). -/
def State.naming (s : State) (a : ArrId) : Option Master := s.wt.masters.find? fun m => m.hdr.arrayList.contains a

/-- The same while it is valid (06 R193). -/
def State.masterOf (s : State) (a : ArrId) : Option Master := (s.naming a).filter fun m => !m.invalid

/-- The position of an array within the parcel of a master (06 R172). -/
def Master.position (m : Master) (a : ArrId) : Nat := m.hdr.arrayList.idxOf a

/-- The weights of an array in its master, by row. -/
def State.weightsOf (s : State) (a : ArrId) : Option (List (List Weight)) :=
  (s.masterOf a).map fun m => blockWeights m.hdr m.payload (m.position a)

/-! ### A fire boundary (02 R49, 06 Tables 6.5 and 6.7, 07 R233) -/

/-- A program as it is queued. -/
def mkProgram (arr source : Nat) (calRecord : Bool) : Program :=
  { arr := arr, source := source, phase := .erase, began := 0, row := 0, cycles := 0, pausedAt := none, deferred := false, displaced := false,
    calRecord := calRecord, codes := none }

/-- The coefficients of an array at a temperature. -/
def State.coefAt (s : State) (t : Int) (a : ArrId) : CoefSet :=
  { coef := interpolateSet t (s.franking a).entries, delta := (s.drift a).delta }

/-- The coefficient set current for an array of a tile: as listed, else at the temperature of the region's current sets. -/
def State.currentSet (s : State) (t : Tile) (arr : Nat) : CoefSet :=
  match t.current.find? fun e => e.1 == arr with
  | some e => e.2
  | none => s.coefAt ((s.region t.id.die (unitOf t.id)).setTemp.getD (s.tileTemp t.id)) (t.id.array arr)

/-- A change of an array's franking entries or drift values: the set in use stays, and a next set is written (04 R111). -/
def State.withSet (s : State) (a : ArrId) (f : State → State) : State :=
  let now := s.currentSet (s.tile a.tid) a.arr
  let s1 := f (s.modTile a.tid fun t => { t with current := setKey t.current a.arr now })
  s1.modTile a.tid fun t => { t with next := setKey t.next a.arr (s1.coefNow a) }

/-- Drift table and D at zero. -/
def State.zeroDrift (s : State) (a : ArrId) : State := s.withSet a fun st => st.setDrift a freshDrift

/-- The driver programs an array under the stand-in that the spare has taken for it; whatever the stand-in was for, it is released once
the array has settled (06 R199). -/
def State.programUnderCover (s : State) (tid : TileId) (k : Nat) : State :=
  (s.modDir (tid.array k) fun d => { d with astate := .covered }).modTile tid fun x =>
    { x with progQueue := x.progQueue ++ [mkProgram k k false], rewrites := x.rewrites.filter (fun r => r != k),
             claim := some (.rewrite, k), standInNext := none }

/-- Whether an array out of service can be programmed: it is not retired, and its record is resident (06 R185, R197). -/
def State.rewritable (s : State) (a : ArrId) : Bool :=
  (s.dir a).astate == .outOfService && !(s.dir a).retired && (s.record a).isSome

/-- The rewrite of an array out of service is requested, unless it is retired (06 R185, R191). -/
def State.askRewrite (s : State) (a : ArrId) : State :=
  if (s.dir a).retired then s
  else s.modTile a.tid fun t => { t with rewrites := if t.rewrites.contains a.arr then t.rewrites else t.rewrites ++ [a.arr] }

/-- An array that was covered: IN_SERVICE with its drift at zero, or FREE when its model has been released meanwhile, or out of service when a
re-digest has dropped its record meanwhile (06 Table 6.6). -/
def State.uncover (s : State) (a : ArrId) : State :=
  if (s.dir a).astate != .covered then s
  else
    let s1 := s.zeroDrift a
    if (s.dir a).model = 0 then s1.modDir a fun d => { d with astate := .free }
    else if (s.record a).isSome then s1.modDir a fun d => { d with astate := .inService }
    else (s1.modDir a fun d => { d with astate := .outOfService }).askRewrite a

/-- The stand-in register takes its new value: Table 6.7's transitions of the spare and those of the array that it covers. -/
def State.applyStandIn (s : State) (tid : TileId) : State :=
  let t := s.tile tid
  match t.standInNext with
  | none => s
  | some (some k) =>
    let s1 := s.modTile tid fun x => { x with standIn := some k, standInNext := none, spare := .standing k }
    if s1.rewritable (tid.array k) then s1.programUnderCover tid k else s1
  | some none =>
    let s1 := s.modTile tid fun x =>
      { x with standIn := none, standInNext := none, claim := none,
               spare := match x.spare with
                 | .standing k => .ready k
                 | y => y }
    match t.standIn with
    | none => s1
    | some k =>
      let sp := s1.dir (tid.array 16)
      let s2 := s1.uncover (tid.array k)
      if sp.retired || sp.spareTag != some k || !s2.holdsCodesOf tid k then s2.idleSpare tid else s2

/-- Group of a tile: 64 per die. -/
def groupOf (t : TileId) : Nat := 64 * t.die + unitOf t

/-- CAL_COUNT and CAL_TIME of a group after completed runs have become current (07 R233). -/
def bumpGroup (g : Nat) (time : Stamp) (l : List (Nat × Nat × Stamp)) : List (Nat × Nat × Stamp) :=
  let e := (l.find? fun x => x.1 == g).getD (g, 0, some 0)
  putBy (fun x => x.1 == g) (g, e.2.1 + 1, time) l

/-- Next coefficient sets become current (04 R111, 07 R233). -/
def State.applyNext (s : State) (tid : TileId) : State :=
  let t := s.tile tid
  let s1 := s.modTile tid fun x =>
    { x with current := t.next.foldl (fun l e => setKey l e.1 e.2) x.current, next := [], calDone := [] }
  { s1 with cl := { s1.cl with groups := t.calDone.foldl (fun l e => bumpGroup (groupOf tid) e.2 l) s1.cl.groups } }

/-- The changes of a boundary, in the order of 02 R49. -/
def State.boundary (s : State) (tid : TileId) : State :=
  ((s.applyStandIn tid).applyNext tid).modTile tid fun x => { x with slotNo := x.slotNo + 1 }

/-! ### Banks (05 R144-R148) -/

/-- Fires that name a bank and are not yet counted. -/
def Tile.uncounted (t : Tile) (b : Nat) (red : Reduction) : Nat :=
  let one (f : Option Flight) : Nat := match f with
    | some x => b2n (x.bank == b && x.fire.red == red)
    | none => 0
  one t.array + one t.scaler + (match t.repeatDue with
    | some f => b2n (f.bank == some b && f.red == red)
    | none => 0)

/-- The bank a fire of a reduction can name: its FILLING bank with room; after a partial drain the other bank, once that is EMPTY (05
R146); before its first fire an EMPTY one. -/
def Tile.bankFor (t : Tile) (red : Reduction) : Option Nat :=
  let fills (b : Nat) : Bool := (t.bank b).state == .filling && (t.bank b).red == some red
  let room (b : Nat) : Bool := (t.bank b).count + t.uncounted b red < 256
  let free (b : Nat) : Bool := (t.bank b).state == .empty
  if fills 0 then (if room 0 then some 0 else none)
  else if fills 1 then (if room 1 then some 1 else none)
  else
    match t.partials.find? fun e => e.1 == red with
    | some e => if free (1 - e.2) then some (1 - e.2) else none
    | none => if free 0 then some 0 else if free 1 then some 1 else none

/-- A bank taken by a reduction at its first fire. Table 5.2 takes it when the fire is latched; where the first fire is replaced under
cause 3, 4 or 5 it is taken when that fire is handed over (DESIGN CHOICE, log entry 46). -/
def Tile.openBank (t : Tile) (b : Nat) (red : Reduction) : Tile :=
  if (t.bank b).state = .empty then
    { (t.setBank b { emptyBank with state := .filling, red := some red }) with partials := t.partials.filter fun e => e.1 != red }
  else t

def State.line (s : State) (l : LineId) : Option Line := s.rd.lines.find? fun x => x.id == l

/-- Whether the target of a reduction still stands at its epoch. -/
def State.redLive (s : State) (r : Reduction) : Bool :=
  match s.liveStep r.stepTag with
  | some o => o.epoch == r.epoch
  | none => false

/-- A numeric fault in a bank: the record, and the step ends numeric-fault (05 R142). -/
def State.bankOverflow (s : State) (tid : TileId) (arr tag : Nat) : State :=
  (s.raise 0x0007 tid.die [locOf (tid.array arr), tag]).failStep tag 4

/-- The bias of a line's columns on the grid (05 R148). -/
def State.biasOf (s : State) (o : OpenStep) (d : LineDest) : List Int :=
  match o.tokens[d.token]? with
  | none => []
  | some tok =>
    match (s.model (o.modelOf tok.draft)).bind fun m => m.layer tok.layer with
    | none => []
    | some l =>
      match l.tensors.find? fun t => t.tensor == d.tensor with
      | none => []
      | some t => ((t.bias.drop (256 * d.colBlock)).take 256).map fun e => toFx (b16.decode e)

/-- Adapters whose contribution is due at a line: those that the token's entry names and that have the target (08 R261). -/
def State.adaptersOf (s : State) (o : OpenStep) (d : LineDest) : List Nat :=
  match o.tokens[d.token]? with
  | none => []
  | some tok =>
    if tok.draft then []
    else
      match o.cmd.entries[tok.entry]? with
      | none => []
      | some e => ((o.cmd.adapters.drop e.adapterIndex).take e.adapterCount).filter fun a =>
          match s.sv.adapters.find? fun x => x.id == a with
          | some x => x.targets.any fun t => t.1 == tok.layer && t.2.1 == d.tensor
          | none => false

/-- CLOSING of a bank: in the final bank of the home reduction the bias is added and the adapters fall due (05 R148). Whether the bias
overflowed. -/
def State.closeBank (s : State) (tid : TileId) (b : Nat) : State × Bool :=
  let k := (s.tile tid).bank b
  match k.red with
  | none => (s, false)
  | some r =>
    let closing := { k with state := BankState.closing }
    match s.line r.line, s.stepOf r.stepTag with
    | some l, some o =>
      if k.closed && l.home == tid && l.biased then
        let v := addVec 64 256 k.regs (s.biasOf o l.dest)
        (s.modTile tid fun x => x.setBank b { closing with regs := v.1, adapters := s.adaptersOf o l.dest }, v.2)
      else (s.modTile tid fun x => x.setBank b closing, false)
    | _, _ => (s.modTile tid fun x => x.setBank b closing, false)

/-- A bank with nothing left due starts to drain (05 Table 5.2). -/
def State.tryDrain (s : State) (tid : TileId) (b : Nat) : State :=
  let t := s.tile tid
  let k := t.bank b
  match k.red with
  | none => s
  | some r =>
    if k.state = .closing ∧ k.outliers.isEmpty ∧ k.fallbacks = 0 ∧ k.adapters.isEmpty ∧ t.uncounted b r = 0 then
      s.modTile tid fun x => x.setBank b { k with state := .draining }
    else s

/-- `n` fires of a bank counted, the last of them with CLOSE as given (05 Table 5.2). Where the bias overflows the bank, the record names the array
of the fire that closed it (05 R142; DESIGN CHOICE, log entry 61). -/
def State.countFires (s : State) (tid : TileId) (b n : Nat) (close : Bool) (arr : Nat) : State :=
  let s1 := s.modTile tid fun x =>
    x.setBank b { x.bank b with count := (x.bank b).count + n, closed := (x.bank b).closed || close }
  let k := (s1.tile tid).bank b
  if k.state = .filling ∧ (k.closed ∨ 256 ≤ k.count) then
    let s2 := match k.red with
      | some r => if k.closed then s1 else s1.modTile tid fun x => { x with partials := x.partials ++ [(r, b)] }
      | none => s1
    let c := s2.closeBank tid b
    if c.2 then c.1.bankOverflow tid arr (match k.red with
      | some r => r.stepTag
      | none => 0)
    else c.1.tryDrain tid b
  else s1.tryDrain tid b

/-- Values added to a bank that still holds a reduction; a value beyond 64 bits is a numeric fault (05 Table 5.1, R142). -/
def State.addToBank (s : State) (tid : TileId) (b arr : Nat) (red : Reduction) (v : List Int) : State :=
  let k := (s.tile tid).bank b
  if k.red != some red then s
  else
    let r := addVec 64 256 k.regs v
    if r.2 then s.bankOverflow tid arr red.stepTag
    else s.modTile tid fun x => x.setBank b { x.bank b with regs := r.1 }

/-! ### Counting for 04 R131 -/

/-- `n` compute fires of a step on an array. -/
def State.countCompute (s : State) (tag n : Nat) (a : ArrId) : State :=
  s.modStep tag fun o =>
    let e := lookupD o.perArray a (0, 0)
    { o with fires := o.fires + n, perArray := setKey o.perArray a (e.1 + n, e.2) }

/-- Fire-equivalents of a cause, in 1/256. Those of a fire that the spare carries out for array k, and the fire itself, are counted for k,
whose descriptor it is (DESIGN CHOICE, log entry 47). -/
def State.countEquiv (s : State) (tag cause n256 : Nat) (a : ArrId) : State :=
  s.modStep tag fun o =>
    let e := lookupD o.perArray a (0, 0)
    { o with equivs := modAt o.equivs (cause - 1) fun x => x + n256,
             perArray := if cause = 2 ∨ cause = 4 then setKey o.perArray a (e.1, e.2 + n256) else o.perArray }

/-! ### Which fires may issue (02 R50, 04 R106, R128, 05 R145) -/

/-- The array whose cells a fire drives (02 R56). -/
def Tile.cellsOf (t : Tile) (f : Fire) : Nat := if f.spare || t.standIn == some f.arr then 16 else f.arr

/-- Whether an array of a tile is cut off from the buses: its driver works on it, or has put it aside (02 R59, 06 R200). -/
def Tile.cutOff (t : Tile) (k : Nat) : Bool :=
  t.programming k

/-- Whether a fire of an array's cells is in flight or repeats. -/
def Tile.firing (t : Tile) (k : Nat) : Bool := (t.array.any fun x => x.cells == k) || t.repeatDue.any fun f => t.cellsOf f == k

/-- The cause under which a fire of an input vector is replaced, if one is: 5, then 3, then 4; a null fire falls back under none (04
R121, R122). -/
def State.replaceCause (s : State) (t : Tile) (f : Fire) (i : InputSlot) : Option Nat :=
  if !i.saturated && allSkipped f.mode i.codes then none
  else if i.saturated then some 5
  else
    let a := t.id.array (t.cellsOf f)
    if (s.dir a).astate = .outOfService ∨ (a.arr = 16 ∧ (s.dir a).spareTag = none) then some 3 else if !s.calValid a then some 4 else none

/-- Whether a fire falls back under cause 3, 4 or 5. -/
def State.replaced (s : State) (t : Tile) (f : Fire) : Bool :=
  match s.input t.id.die f.inputSlot with
  | some i => (s.replaceCause t f i).isSome
  | none => false

/-- Whether the array of a fire can serve it now: in service or out of service, not cut off, and not in a run of its own with no stand-in
(02 R50) unless the fire falls back, as R224 of 07 says of such a run from its first fire; before that fire the run has not begun (07
R222). -/
def State.available (s : State) (t : Tile) (f : Fire) : Bool :=
  if t.cellsOf f = 16 then !t.cutOff 16
  else
    let a := t.id.array f.arr
    ((s.dir a).astate == .inService || (s.dir a).astate == .outOfService) && !t.cutOff f.arr &&
      (!(t.run.any fun r => r.arr == f.arr && r.fires != 0) || s.replaced t f)

/-- Whether a fire is held by availability or by lists that are not resident (02 R50, 04 R106). An array with no record has no lists to wait
for: its fire ends the step (06 R193). -/
def State.heldOwn (s : State) (t : Tile) (f : Fire) : Bool :=
  let a := t.id.array f.arr
  !s.available t f || ((s.record a).isSome && ((s.region t.id.die (unitOf t.id)).lists a).isNone)

/-- Whether a fire is held by availability, lists or a full lane. -/
def State.heldHard (s : State) (t : Tile) (f : Fire) : Bool :=
  s.heldOwn t f || 64 ≤ (s.region t.id.die (unitOf t.id)).jobs.length

/-- The high nibble of a low-nibble fire that has not been issued. -/
def Tile.highWaits (t : Tile) (f : Fire) : Bool :=
  f.mode == 2 && t.fires.any fun g => g.mode == 1 && g.arr == f.arr && g.inputSlot == f.inputSlot && g.red == f.red

/-- Whether a fire is the low nibble of a pair whose high nibble has gone to the array (02 R53). -/
def Tile.pairOpen (t : Tile) (f : Fire) : Bool := f.mode == 2 && !f.covered && !t.highWaits f

/-- KIND class of a fire: 0 for decode, verify and draft work, 1 for prefill (08 R253). -/
def State.fireClass (s : State) (f : Fire) : Nat :=
  match s.stepOf f.red.stepTag with
  | some o =>
    match o.tokens[f.token]? with
    | some tok =>
      match o.cmd.entries[tok.entry]? with
      | some e => if !tok.draft && e.kind == 0 then 1 else 0
      | none => 1
    | none => 1
  | none => 1

def State.stepPlace (s : State) (tag : Nat) : Nat := (s.sv.steps.findIdx? fun o => o.tag == tag).getD s.sv.steps.length

/-- The place of a token among those of its step: its entry in the order of the round, then its place in the entry. -/
def OpenStep.tokenPlace (o : OpenStep) (i : Nat) : Nat :=
  match o.tokens[i]? with
  | some tok => ((roundOrder o).idxOf tok.entry) * 65536 + (if tok.elem = lagElem then 0 else tok.elem)
  | none => 0

/-- Place of a fire in the schedule, least first: the keys of 08 R253. -/
def State.schedKey (s : State) (f : Fire) : Nat :=
  let o := s.stepOf f.red.stepTag
  let prio := match o with
    | some x => x.prio
    | none => 0
  let place := match o with
    | some x => x.tokenPlace f.token
    | none => 0
  2 ^ 64 + (((256 - prio) * 2 + s.fireClass f) * 65536 + s.stepPlace f.red.stepTag) * 2 ^ 28 + place

/-- Place of a ready fire among the ready fires of a tile: those that have waited 256 slots go first, oldest first (08 R253). -/
def State.orderKey (s : State) (t : Tile) (f : Fire) : Nat := if f.queued + 256 ≤ t.slotNo then 1 + f.queued else s.schedKey f

/-- Rank of a ready fire: a low nibble goes next once its high nibble has gone (02 R53). -/
def State.fireKey (s : State) (t : Tile) (f : Fire) : Nat := if t.pairOpen f then 0 else s.orderKey t f

/-- Whether no fire of the step of fire `i` that stands ahead of it in the schedule is held (02 R50). -/
def State.clearAhead (s : State) (t : Tile) (i : Nat) (f : Fire) : Bool :=
  ((List.range t.fires.length).zip t.fires).all fun g =>
    g.2.red.stepTag != f.red.stepTag || !s.heldHard t g.2 ||
      s.schedKey f < s.schedKey g.2 || (s.schedKey g.2 == s.schedKey f && i ≤ g.1)

/-- Whether a fire is ready: it has a bank, and neither it nor a fire of its step ahead of it in the schedule is held (02 R50, 05
R145). A fire that lacks a bank alone holds back the later fires of its own reduction, which lack it too. Once the high nibble of a pair has
gone, the low nibble goes in the next slot (02 R53) although a fire of its step is held since or the lane has filled meanwhile (04 R128): the
spec does not say which rule wins (DESIGN CHOICE, log entry 59). -/
def State.fireReady (s : State) (t : Tile) (i : Nat) (f : Fire) : Bool :=
  (t.bankFor f.red).isSome && !t.highWaits f && if t.pairOpen f then !s.heldOwn t f else !s.heldHard t f && s.clearAhead t i f

/-- The place of the compute fire that goes next. -/
def State.nextFire (s : State) (t : Tile) : Option Nat :=
  argMin (fun i => match t.fires[i]? with
      | some f => s.fireKey t f
      | none => 0)
    ((List.range t.fires.length).filter fun i => match t.fires[i]? with
      | some f => s.fireReady t i f
      | none => false)

/-! ### Replacement (04 R120-R125) -/

/-- What one input vector of a job adds to a list of jobs: a job of the same step, array and cause that waits takes it, under cause 3, 4
or 5 (04 R124); else it is a job of its own. -/
def joinJob (l : List FbJob) (j : FbJob) : List FbJob :=
  let same (x : FbJob) : Bool := 3 ≤ j.cause && x.tile == j.tile && x.arr == j.arr && x.cause == j.cause && x.stepTag == j.stepTag
  if l.any same then l.map fun x => if same x then { x with parts := x.parts ++ j.parts } else x else l ++ [j]

/-- A fall-back of one input vector put on the lane of the tile's region, due to the bank that the fire names. R128 of 04 holds new fires while the
queue has 64 jobs; a job of a fire already issued is queued beyond them (DESIGN CHOICE, log entry 71). -/
def State.putJob (s : State) (tid : TileId) (arr cause : Nat) (i : InputSlot) (mode : Nat) (red : Reduction) (b : Nat) : State :=
  let s1 := s.modRegion tid.die (unitOf tid) fun r =>
    { r with jobs := joinJob r.jobs ⟨tid.tile, arr, cause, red.stepTag, [⟨i, mode, red, b⟩]⟩ }
  s1.modTile tid fun x => x.setBank b { x.bank b with fallbacks := (x.bank b).fallbacks + 1 }

/-- A fire handed to the correction unit under cause 5, 3 or 4, with the other nibble of its input when that still waits and is no null
fire (04 R122). A null nibble that waits keeps its slot, and its vector's outliers and saturated columns come from the job. Where the low
nibble is replaced after the high one has fired, the job is marked with MODE 2 (log entry 46). Without a valid master the step ends
weights-unavailable (06 R193). -/
def State.handOff (s : State) (tid : TileId) (f : Fire) (i : InputSlot) (cause : Nat) : State :=
  let t := s.tile tid
  let same (g : Fire) : Bool := g.arr == f.arr && g.inputSlot == f.inputSlot && g.red == f.red
  let goes (g : Fire) : Bool := same g && (i.saturated || !allSkipped g.mode i.codes)
  let mine := t.fires.filter goes
  let a := tid.array f.arr
  if (s.masterOf a).isNone then s.failStep f.red.stepTag 3
  else
    match t.bankFor f.red with
    | none => s
    | some b =>
      let n := mine.length
      let mode := if i.wide && !(mine.any fun g => g.mode == 1) then 2 else 0
      let s1 := s.modTile tid fun x =>
        { (x.openBank b f.red) with
          fires := (x.fires.filter fun g => !goes g).map fun g => if same g then { g with covered := true } else g,
          cntFire := x.cntFire + n, cntFallback := x.cntFallback + n }
      let s2 := (s1.countCompute f.red.stepTag n a).countEquiv f.red.stepTag cause (256 * n) a
      let s3 := s2.putJob tid f.arr cause i mode f.red b
      s3.countFires tid b n (mine.any Fire.close) f.arr

/-! ### The descriptor (02 R45) -/

/-- The 64 bits of a fire descriptor (02 Table 2.5). INPUT_SLOT is the index of the input slot modulo 2^16. -/
def Fire.descriptor (f : Fire) : Nat :=
  f.arr % 16 + 2 ^ 4 * b2n f.spare + 2 ^ 5 * (f.range % 4) + 2 ^ 7 * (f.mode % 4) +
    sumList ((List.range 8).map fun g => 2 ^ (9 + 2 * g) * (at' f.shifts g 0 % 4)) + 2 ^ 25 * (f.bank.getD 0 % 2) +
    2 ^ 26 * b2n f.close + 2 ^ 27 * (f.kind % 8) + 2 ^ 30 * (f.reserved % 4) + 2 ^ 32 * (f.red.stepTag % 65536) +
    2 ^ 48 * (f.inputSlot % 65536)

/-- No reserved encoding in MODE or KIND, and no reserved bit set. -/
def descriptorOk (w : Nat) : Bool := bits w 7 2 != 3 && bits w 27 3 < 4 && bits w 30 2 == 0

/-- A descriptor that is not fired: dropped, with its schedule-fault record (02 R45, 13 Table 13.7). -/
def State.dropDescriptor (s : State) (tid : TileId) (k : Nat) (f : Fire) : State :=
  (s.modTile tid fun x => { x with fires := x.fires.eraseIdx k }).raise 0x0001 tid.die
    [locOf (tid.array f.arr), f.descriptor % 2 ^ 32, f.descriptor / 2 ^ 32]

/-! ### The latch (02 R47-R49) -/

/-- The lists of an array were used last (04 R106). -/
def Region.touch (r : Region) (a : ArrId) : Region :=
  match r.lists a with
  | some e => { r with cache := e :: r.cache.filter fun x => x.arr != a }
  | none => r

/-- Numbering of a compute fire on a die (04 R135): whether it is selected, its number, and the state with its number used. -/
def State.numberFire (s : State) (tag die : Nat) : (Bool × Nat) × State :=
  match s.stepOf tag with
  | none => ((false, 0), s)
  | some o =>
    let known := o.spotDies.find? fun d => d.1 == die
    let drawn := s.nextDraw
    let d := known.getD (die, 0, Config.random drawn.1 % 1024, false)
    let s1 := if known.isSome then s else drawn.2
    let sel := (d.2.1 + d.2.2.1) % 1024 == 0 || o.spotPass.contains die
    ((sel, d.2.1), s1.modStep tag fun x =>
      { x with spotDies := putBy (fun e => e.1 == die) (die, d.2.1 + 1, d.2.2.1, d.2.2.2 || sel) x.spotDies,
               spotPass := if sel then x.spotPass.filter (fun k => k != die) else x.spotPass })

/-- The zero-skip mask of a fire, by group (02 R40). -/
def skipMask (mode : Nat) (codes : List Int) : List Bool := (pieces 32 8 codes).map (allSkipped mode)

/-- A fire latched on the array with its input vector, numbered and counted unless it is a repeat (02 R47, R48, R66, 04 R131, R135). Its
first range code comes from the record of the array that it names (03 R94). -/
def State.latch (s : State) (tid : TileId) (f : Fire) (i : InputSlot) (b : Nat) (first : Bool) : State :=
  let t := s.tile tid
  let cells := t.cellsOf f
  let null := allSkipped f.mode i.codes
  let num := if first && !null then s.numberFire f.red.stepTag tid.die else ((f.selected, f.num), s)
  let s1 := if first && !null then num.2.countCompute f.red.stepTag 1 (tid.array f.arr) else num.2
  let range := if first then firstRange (s.recordD (tid.array f.arr)) i f.mode else f.range
  let fl : Flight :=
    { fire := { f with bank := some b, selected := num.1.1, num := num.1.2, range := range }, input := i, skip := skipMask f.mode i.codes,
      cells := cells, bank := b, null := null, coefs := s.currentSet t cells, raw := [], y := [], converted := false, overrun := false,
      passed := false }
  let s2 := s1.modTile tid fun x =>
    { (x.openBank b f.red) with
      array := some fl, inputRegs := i.codes.map (nibble f.mode), dutyUsed := x.dutyUsed + 1,
      cntFire := if first && !null then x.cntFire + 1 else x.cntFire,
      cntNull := if null then x.cntNull + 1 else x.cntNull }
  s2.modRegion tid.die (unitOf tid) fun r => r.touch (tid.array f.arr)

/-- The low nibble that waits behind a high nibble (02 R53). -/
def Tile.lowWaits (t : Tile) (f : Fire) : Bool :=
  f.mode == 1 && t.fires.any fun g => g.mode == 2 && g.arr == f.arr && g.inputSlot == f.inputSlot && g.red == f.red

/-- Whether the duty leaves a slot to a fire: the low nibble of a pair follows its high nibble, and a pair needs two slots (15 R490, 02
R53); of the slots that follow, `clear` belong to no KIND 1 or KIND 3 fire, and the high nibble may take as many of them for its repeats as
its first range code allows. -/
def Tile.mayIssue (t : Tile) (duty clear range : Nat) (f : Fire) : Bool :=
  t.pairOpen f || (if t.lowWaits f then decide (range < clear) && t.dutyUsed + 2 ≤ Nat.max duty 2 else t.dutyUsed < duty)

/-- The compute fire of a boundary: descriptors that are not fired are dropped, replaced fires ahead of it are handed over and take no
slot. A fire of an array with no record needs one rebuilt from its master, which is invalid: its step ends weights-unavailable (06 R193). -/
def State.issueNext (clear : Nat) : Nat → TileId → State → State × Bool
  | 0, _, s => (s, false)
  | n + 1, tid, s =>
    let t := s.tile tid
    match t.fires.findIdx? fun f => !descriptorOk f.descriptor with
    | some k =>
      match t.fires[k]? with
      | some f => State.issueNext clear n tid (s.dropDescriptor tid k f)
      | none => (s, false)
    | none =>
      match s.nextFire t with
      | none => (s, false)
      | some k =>
        match t.fires[k]? with
        | none => (s, false)
        | some f =>
          match s.input tid.die f.inputSlot with
          | none => (s, false)
          | some i =>
            if (s.record (tid.array f.arr)).isNone then State.issueNext clear n tid (s.failStep f.red.stepTag 3)
            else
              match s.replaceCause t f i, t.bankFor f.red with
              | some c, _ => State.issueNext clear n tid (s.handOff tid f i c)
              | none, none => (s, false)
              | none, some b =>
                if t.mayIssue s.pw.duty clear (firstRange (s.recordD (tid.array f.arr)) i f.mode) f then
                  ((s.modTile tid fun x => { x with fires := x.fires.eraseIdx k }).latch tid f i b true, true)
                else (s, false)

/-! ### Fires of other kinds, and the choice of a slot -/

/-- A KIND 1 fire of the run in progress (07 R215, R224): VALID of a direct run's array is cleared from the first. -/
def State.runFire (s : State) (tid : TileId) : State :=
  match (s.tile tid).run with
  | none => s
  | some r =>
    let begun := r.fires == 0
    let r1 := { r with fires := r.fires + 1, started := if begun then s.stamp else r.started,
                       temp := if begun then s.tileTemp tid else r.temp }
    let s1 := s.modTile tid fun x => { x with run := some r1, inputRegs := (runInput r.fires).1 }
    if r.fires = 0 ∧ !r.covered then s1.modFranking (tid.array r.arr) fun f => { f with directRun := true } else s1

/-- The verify scan that takes the next KIND 3 slot. -/
def Tile.scanReady (t : Tile) : Option Nat := (t.scans.find? fun e => 0 < e.2 && !t.cutOff e.1).map (·.1)

/-- The input codes of the verify fire with `left` fires of its scan left: +7 in row (2,048 - left) / 8, zero elsewhere (06 R189). -/
def scanInput (left : Nat) : List Int := (List.range 256).map fun i => if i = (2048 - left) / 8 then 7 else 0

/-- The coefficient set of fire `n` of a scan: the latest noted, else that now current. -/
def State.scanSet (s : State) (t : Tile) (k n : Nat) : CoefSet :=
  (((t.scanSets.filter fun e => e.1 == k && e.2.1 ≤ n).getLast?).map fun e => e.2.2).getD (s.currentSet t k)

/-- A KIND 3 fire; the set current at its t0 is noted where it is not that of the fire before (02 R48, 07 Table 7.7). -/
def State.scanFire (s : State) (tid : TileId) (k : Nat) : State :=
  let t := s.tile tid
  let left := ((t.scans.find? fun e => e.1 == k).getD (k, 0)).2
  let now := s.currentSet t k
  let new := left = 2048 ∨ s.scanSet t k (2048 - left) ≠ now
  s.modTile tid fun x =>
    { x with scanOwed := false, inputRegs := scanInput left,
             scans := x.scans.map fun e => if e.1 = k then (k, e.2 - 1) else e,
             scanSets := if new then x.scanSets ++ [(k, 2048 - left, now)] else x.scanSets }

/-- Whether a tile's run has a fire to issue: its array is not cut off (02 R59), and the run has begun or may begin (07 R222). -/
def State.runDue (s : State) (t : Tile) : Bool :=
  t.run.any fun r => r.fires < 320 && !t.cutOff r.arr && (r.fires != 0 || (s.runWindow t.id && s.traced))

/-- Whether the slot with number `n` belongs to a KIND 1 or a KIND 3 fire (07 R223). -/
def State.owned (s : State) (t : Tile) (n : Nat) : Bool := (n % 16 == 0 && s.runDue t) || (n % 64 == 8 && t.scanReady.isSome)

/-- Slots after number `n`, four at most, that belong to no KIND 1 or KIND 3 fire: a high nibble, its repeats and the low nibble take as many
at most. -/
def State.clearAfter (s : State) (t : Tile) (n : Nat) : Nat := ((List.range 4).takeWhile fun i => !s.owned t (n + 1 + i)).length

/-- The compute fire of a slot, once the tile has passed its test. -/
def State.computeSlot (s : State) (tid : TileId) (n : Nat) : State × Bool :=
  let t := s.tile tid
  if t.test.passedOnce then State.issueNext (s.clearAfter t n) (2 * t.fires.length + 1) tid s else (s, false)

/-- Whether the low nibble of a pair begun goes next. -/
def State.pairBegun (s : State) (tid : TileId) : Bool :=
  ((s.nextFire (s.tile tid)).bind fun k => (s.tile tid).fires[k]?).any fun f => (s.tile tid).pairOpen f

/-- What a slot that no compute fire claims is given to: KIND 3, then KIND 1 (06 R190, 07 R223). -/
def State.spareSlot (s : State) (tid : TileId) : State :=
  match (s.tile tid).scanReady with
  | some k => s.scanFire tid k
  | none => if s.runDue (s.tile tid) then s.runFire tid else s

/-- What a slot is given to, with number `n`: a repeat, then the KIND 1 and KIND 3 fires that own the slot, then a compute fire, then a
KIND 3 or KIND 1 fire (08 R253, 06 R190, 07 R223, 15 R490; log entry 36). A repeat whose array is cut off waits, and no other compute fire
passes it (02 R51, R59). A run or scan that begins between the two fires of a pair gives its slot to the low nibble (02 R53; DESIGN CHOICE, log
entry 59). -/
def State.chooseSlot (s : State) (tid : TileId) (n : Nat) : State :=
  let s0 := s.modTile tid fun x =>
    { x with dutyUsed := if n % 16 = 0 then x.dutyUsed - s.pw.duty else x.dutyUsed,
             scanOwed := (x.scanOwed || n % 64 == 8) && x.scanReady.isSome }
  let t := s0.tile tid
  let again := t.repeatDue.bind fun f => (s0.input tid.die f.inputSlot).map fun i => (f, i)
  match again.filter fun e => !t.cutOff (t.cellsOf e.1) with
  | some e => (s0.modTile tid fun x => { x with repeatDue := none }).latch tid e.1 e.2 (e.1.bank.getD 0) false
  | none =>
    let low := if again.isNone && s0.pairBegun tid then s0.computeSlot tid n else (s0, false)
    if low.2 then low.1
    else if n % 16 = 0 ∧ s0.runDue t then low.1.runFire tid
    else
      match t.scanReady.filter fun _ => t.scanOwed with
      | some k => low.1.scanFire tid k
      | none =>
        let c := if again.isNone then low.1.computeSlot tid n else (low.1, false)
        if c.2 then c.1 else c.1.spareSlot tid

end Sys2Proof.Machine
end

