-- ==== Sys2Proof/Machine/Rounds.lean ====
section
/-! DEFINITION. The sorting round and what an entry waits for: the choice of the next step (08 R248), its checks (08 R246, 06
R548), claims of slots (08 Table 8.3), reservations (09 R277, R302), the prefix match (09 R286, R287), pages to and from the poste
restante tier (09 R298-R300), and lease expiry's move of the slots (11 R397). -/

set_option Elab.async false

namespace Sys2Proof.Machine

/-! ### Entries -/

def State.entryAt (s : State) (tag i : Nat) : Option (OpenStep × LenEntry × EntryWork) :=
  match s.liveStep tag with
  | some o =>
    match o.cmd.entries[i]?, o.entries[i]? with
    | some e, some w => some (o, e, w)
    | _, _ => none
  | none => none

def State.modEntry (s : State) (tag i : Nat) (f : EntryWork → EntryWork) : State :=
  s.modStep tag fun o => { o with entries := modAt o.entries i f }

/-- An entry ends by itself with a status: its match is undone, its reservations return (09 R286, R302), and what its tokens have begun is
dropped. -/
def State.closeEntry (s : State) (tag i status cause : Nat) : State :=
  match s.entryAt tag i with
  | none => s
  | some x =>
    let mine (n : Nat) : Bool := (x.1.tokens[n]?).any fun t => t.entry == i
    let s1 := ((s.undoMatch x.1 i x.2.1.slot).releaseReserved tag x.2.1.slot).dropTokens x.1 mine
    let s2 := s1.modEntry tag i fun w =>
      { w with status := some status, cause := cause, matched := 0, matchPending := false, stalledAt := none,
               restoring := false, endCommit := (s1.slot x.2.1.slot).elim 0 Slot.commit }
    (s2.modStep tag fun o =>
      { o with tokens := o.tokens.map fun t => if t.entry = i then { t with finished := true } else t }).selectLast tag

/-- An entry ends by itself and its slot goes to FREE (08 Table 8.3). -/
def State.endEntry (s : State) (tag i status cause : Nat) : State :=
  match s.entryAt tag i with
  | none => s
  | some x => ((s.closeEntry tag i status cause).modEntry tag i fun w => { w with endCommit := 0 }).slotFree x.2.1.slot

/-- Step 4 of 09 R302: the entry ends with page-exhausted, and the record is raised. -/
def State.exhaustEntry (s : State) (tag i : Nat) : State :=
  match s.entryAt tag i with
  | none => s
  | some x => (s.endEntry tag i 16 0).raise 0x0020 6 [x.2.1.slot + 65536 * x.1.ctx]

/-- Pages that an entry's storage positions need (08 R249, 09 R277, R290, R295). -/
def State.entryPages (s : State) (o : OpenStep) (e : LenEntry) (x : Slot) : List PageNeed :=
  let main := match s.model o.model with
    | none => []
    | some m =>
      pagesOf m false (m.kvLayers.filter fun l => o.cmd.firstLayer ≤ l && l ≤ o.cmd.lastLayer) e.position
        (e.position + if e.kind = 3 then x.draftLen + 1 else e.tokens)
  let draft := match s.model o.draftModel with
    | none => []
    | some d =>
      if o.draftModel = 0 ∨ e.kind = 2 ∨ e.kind = 4 then []
      else if e.kind = 3 then
        (x.lag.elim [] fun p => pagesOf d true d.kvLayers p (p + 1)) ++ pagesOf d true d.kvLayers e.position (e.position + x.draftLen)
      else pagesOf d true d.kvLayers e.position (e.position + e.tokens)
  main ++ draft

/-- Storage positions of an entry: one above the last (09 R274). -/
def entryTop (e : LenEntry) (x : Slot) : Nat := e.position + if e.kind = 3 then x.draftLen + 1 else e.tokens

/-- The step's pages reserved for an entry, frames freed for them where they lack (09 R302). True when they are reserved; otherwise
the entry stalls, or ends with page-exhausted. -/
def State.reserveFor (s : State) (tag i slot : Nat) (ps : List PageNeed) : State × Bool :=
  let r := s.makeRoom fun st => st.canReserve tag slot ps
  match r.2 with
  | .found =>
    match r.1.reservePages tag slot ps with
    | some s1 => (s1.modEntry tag i fun w => { w with stalledAt := none }, true)
    | none => (r.1, false)
  | .moving => (r.1.modEntry tag i fun w => { w with stalledAt := some (w.stalledAt.getD r.1.tm.tick) }, false)
  | .exhausted => (r.1.exhaustEntry tag i, false)

/-! ### Prefix match (09 R284-R287) -/

/-- The form of the pigeonholes of a node at a layer. -/
def State.nodeShape (s : State) (n : Node) (layer : Nat) : KvShape :=
  (((s.model n.model).bind fun m => m.layer layer).map LayerRec.shape).getD ⟨false, 0, 0⟩

/-- The leading part of a match taken by a slot: shared pages, LAST_USE, and the slot's reference on the deepest node. -/
def State.takeChain (s : State) (slot : Nat) (chain : List Node) : State :=
  let s1 := (chain.zip (List.range chain.length)).foldl (fun st e =>
    let st1 := e.1.pages.foldl (fun a p => a.setPage ⟨slot, false, p.1, e.2, p.2, true, s.nodeShape e.1 p.1⟩) st
    st1.modNode e.1.idx fun n => { n with lastUse := st.time }) s
  match s1.slot slot with
  | some x =>
    let deepest := (chain.getLast?).map Node.idx
    ((s1.refNode deepest true).refNode x.node false).modSlot slot fun y => { y with node := deepest }
  | none => s1

/-- Tokens 0 to 62 of a matched block copied into the slot's private frames (09 R287). -/
def State.copyBlock (s : State) (slot : Nat) (n : Node) (b : Nat) : State :=
  n.pages.foldl (fun st p =>
    match st.page slot false p.1 b, st.frame p.2 with
    | some q, some f => if q.shared then st else st.modFrame q.frame fun g => { g with data := f.data.filter fun x => x.tok < 63 }
    | _, _ => st) s

/-- The match of an entry taken, and its frames reserved; the entry starts once both are done. While it stalls, the match stays
pending and is made again. -/
def State.matchEntry (s : State) (tag i : Nat) : State :=
  match s.entryAt tag i with
  | none => s
  | some x =>
    let o := x.1
    let e := x.2.1
    let c := o.attrs
    match s.model o.model, s.slot e.slot with
    | some m, some sl =>
      let layers := s.servedLayers m
      let toks := ((entryTokens o.cmd i).map (·.1))
      let chain := s.matchChain c.tenant m.num layers.length (toks.length / 64) none (rootHash c.tenant m.num) toks
      let whole := 64 * chain.length == toks.length && 0 < toks.length
      let shared := if whole then chain.dropLast else chain
      let copied := if whole then chain.getLast? else none
      let ps := s.entryPages o e sl ++
        (match copied with
         | some _ => pagesOf m false layers (64 * shared.length) (64 * shared.length + 64)
         | none => [])
      -- the copied node is matched too and takes its LAST_USE (09 R286)
      let used := match copied with
        | some n => s.modNode n.idx fun x => { x with lastUse := s.time }
        | none => s
      let s1 := ((used.takeChain e.slot shared).modEntry tag i fun w =>
        { w with matched := if whole then toks.length - 1 else 64 * shared.length }).refNode (copied.map Node.idx) true
      let r := s1.reserveFor tag i e.slot ps
      let s2 := r.1.refNode (copied.map Node.idx) false
      if r.2 then
        let s3 := match copied with
          | some n => s2.copyBlock e.slot n shared.length
          | none => s2
        (s3.modEntry tag i fun w => { w with matchPending := false }).startEntry tag i
      else s2
    | _, _ => s

/-- An entry's frames reserved and its tokens issued, unless it waits for its match. A restore does not hold it: the attention of a layer waits
for the pages of that layer alone (09 R300). -/
def State.beginEntry (s : State) (tag i : Nat) : State :=
  match s.entryAt tag i with
  | none => s
  | some x =>
    if !x.1.toBegin i || x.2.2.matchPending then s
    else
      match s.slot x.2.1.slot with
      | none => s
      | some sl =>
        let r := s.reserveFor tag i x.2.1.slot (s.entryPages x.1 x.2.1 sl)
        if r.2 then r.1.startEntry tag i else r.1

/-- Entries that stall try again once frames may have become free: as a page leaves for the tier or a held entry expires, at a step's commit and an
entry's 50 ms, and at each sorting round, which firmware's next pass over the queues is (09 R302; DEDUCED, log entry 74). -/
def State.retryStalled (s : State) : State :=
  let due := s.liveSteps.flatMap fun o =>
    ((List.range o.entries.length).zip o.entries).filterMap fun e =>
      if e.2.stalledAt.isSome && o.toBegin e.1 then some (o.tag, e.1, e.2.matchPending) else none
  due.foldl (fun st d => if d.2.2 then st.matchEntry d.1 d.2.1 else st.beginEntry d.1 d.2.1) s

/-! ### Claims (08 Table 8.3, 09 R299, R300) -/

/-- Pigeonholes of the draft model released from a slot: the new one has appended nothing. -/
def State.dropDraft (s : State) (slot : Nat) : State :=
  let gone := (s.kv.pages.filter fun p => p.slot == slot && p.draft).map PageEntry.frame
  let s1 := (gone.foldl State.freeFrame s).clearPages fun p => p.slot == slot && p.draft
  (s1.modHeld slot fun h => { h with pages := h.pages.filter fun p => !p.draft }).modSlot slot fun x => { x with draftCommit := 0, lag := none }

/-- A slot's draft length now: DRAFT_LENGTH unless the all-rejected rule has lowered it (08 R266, 09 R294). -/
def Slot.chain (x : Slot) (c : Context) : Nat := if x.lowered then 1 else c.draftLength

/-- Keys and values of another draft model than the context's are dropped from a slot when a step opens it. -/
def State.matchDraft (s : State) (slot : Nat) (c : Context) : State :=
  match s.slot slot with
  | some x => if x.draftOf = c.draftModel then s else (s.dropDraft slot).modSlot slot fun y => { y with draftOf := c.draftModel }
  | none => s

/-- A slot as a step opens it. -/
def freshSlot (id : Nat) (c : Context) (prio : Nat) : Slot :=
  { id := id, state := .busy, ctx := c.id, commit := 0, node := none, draftLen := c.draftLength, lowered := false,
    draftOf := c.draftModel, rejects := 0,
    draftCommit := 0, lag := none, lastCommit := 0, prio := prio, tokens := [] }

/-- The restore of a claimed slot begins (09 R300): a move in progress completes first, a level-2 entry is fetched. -/
def State.beginRestore (s : State) (tag i slot : Nat) : State :=
  let s1 := s.finishMove slot
  match s1.heldOf slot with
  | none => s1
  | some h =>
    if h.pages.isEmpty then s1.dropHeld slot
    else
      let s2 := if h.phase = .fetching ∨ h.phase = .restoring then s1
        else if h.level = 2 then s1.l2fetch slot
        else s1.modHeld slot fun x => { x with phase := .restoring }
      s2.modEntry tag i fun w => { w with restoring := true }

/-- One entry takes its slot. -/
def State.claimEntry (s : State) (tag i : Nat) (c : Context) : State :=
  match s.entryAt tag i with
  | none => s
  | some x =>
    let e := x.2.1
    let s1 := if s.slotState e.slot = .held ∧ s.claimState e.slot = .expired then s.expireHeld e.slot else s
    if s1.heldMiss e then s1.endEntry tag i 17 0
    else
      let s2 :=
        if e.kind = 4 then s1.modSlot e.slot fun y => { y with state := .ending y.state.record, prio := x.1.prio }
        else if s1.opens e then s1.setSlot (freshSlot e.slot c x.1.prio)
        else (s1.matchDraft e.slot c).modSlot e.slot fun y => { y with state := .busy, prio := x.1.prio, draftLen := y.chain c }
      let s3 := match s2.slot e.slot with
        | some y => s2.modEntry tag i fun w => { w with oldNode := y.node }
        | none => s2
      if e.kind = 4 then s3
      else
        match s3.slot e.slot with
        | none => s3
        | some y =>
          if positionLimit < entryTop e y then s3.endEntry tag i 16 1
          else
            let s4 := s3.beginRestore tag i e.slot
            if e.kind = 0 ∧ e.pfx ∧ e.position = 0 then s4.modEntry tag i fun w => { w with matchPending := true } else s4

/-! ### SORTING_ROUND (08 R239, R242, R248-R250, R259) -/

/-- Whether a round may begin but for the power state (01 R19, 08 R248, 11 R397, 14 R475, 15 R496). -/
def State.roundsMay (s : State) : Bool :=
  s.firmwareRuns && !s.isDrained && s.tm.valid && s.leaseLive && !s.dp.expiring && s.pw.entry.isNone && s.sv.steps.length < 1024

/-- Whether a round may begin at all. -/
def State.roundsRun (s : State) : Bool := s.inRun && s.roundsMay

/-- The step that a queue offers, if it may begin. -/
def State.candidate (s : State) (q : Queue) : Option Waiting :=
  (q.waiting.head?).filter fun w =>
    let c := parseStep w.tuiven1 w.payload
    (c.entries.all fun e => match s.slotState e.slot with
      | .busy => false
      | .ending _ => false
      | _ => true) &&
    (!c.fence || s.sv.steps.all fun o => o.queue != q.id) && (c.job == 0 || !s.fb.aborted.contains c.job)

/-- Whether queue `a` goes before queue `b`: higher priority, fewer tokens admitted for its weight, lower number (08 R248). -/
def Queue.before (a b : Queue) : Bool :=
  if a.prio ≠ b.prio then b.prio < a.prio
  else if a.admitted * b.weight ≠ b.admitted * a.weight then a.admitted * b.weight < b.admitted * a.weight
  else a.id < b.id

/-- The queue whose step begins next. -/
def State.nextQueue (s : State) : Option (Queue × Waiting) :=
  s.sv.queues.foldl (fun best q =>
    match s.candidate q with
    | none => best
    | some w =>
      match best with
      | none => some (q, w)
      | some b => if q.before b.1 then some (q, w) else some b) none

/-- The lowest unused STEP_TAG from `n` on (08 R249; log entry 14). -/
def State.freeTag (s : State) : Nat :=
  (((List.range (s.sv.steps.length + 1)).map fun i => (s.sv.nextTag + i) % 65536).find? fun t =>
    s.sv.steps.all fun o => o.tag != t).getD 0

/-- Whether a model's embedding master is held and valid (06 R178). -/
def State.embeddingHeld (s : State) (m : Model) : Bool :=
  s.wt.masters.any fun x => x.hdr.model == m.num && x.hdr.layer == 0 && x.hdr.tensor == m.embed && !x.invalid

/-- Whether the tensors of a range of layers are held for a step of JOB 0 (06 R548). -/
def State.layersHeld (s : State) (m : Model) (first last : Nat) : Bool :=
  (List.range (last + 1 - first)).all fun i =>
    match m.layer (first + i) with
    | some l => l.tensors.all fun t => t.role == 8 || s.tensorHeld m.num (first + i) t
    | none => true

/-- Whether the weights of a step are there (06 R178, R548). The draft model runs for entries of KIND 0, 1 and 3. -/
def State.weightsHeld (s : State) (c : StepCmd) (m : Model) (d : Option Model) : Bool :=
  let runs := c.entries.any fun e => e.kind != 4
  let drafts := c.entries.any fun e => e.kind == 0 || e.kind == 1 || e.kind == 3
  (c.firstLayer != 0 || s.embeddingHeld m) && (c.job != 0 || !runs || s.layersHeld m c.firstLayer c.lastLayer) &&
    (match d with
     | some x => !drafts || (s.embeddingHeld x && (c.job != 0 || s.layersHeld x 0 (x.layers.length - 1)))
     | none => true)

/-- Records held for a step that was not open become its inputs, those of the highest epoch among them (10 R329, 05 Table 5.6); its ledger opens (08
R249). -/
def State.openJob (s : State) (c : StepCmd) : State :=
  if c.job = 0 then s
  else
    let mine (a : Activation) : Bool := a.job == c.job && a.step == c.stepNumber
    let top := maxList ((s.fb.held.filter mine).map Activation.epoch)
    { s with
      fb := { s.fb with held := s.fb.held.filter (fun a => !mine a),
                        activations := s.fb.activations ++ s.fb.held.filter fun a => mine a && a.epoch == top },
      rd := if s.rd.ledgers.any fun l => l.job == c.job && l.step == c.stepNumber then s.rd
        else { s.rd with ledgers := s.rd.ledgers ++ [⟨c.job, c.stepNumber, 0, s.tm.tick, []⟩] } }

/-- Whether the entries of a step are rounded to buckets: under Tuiven-1, and where native ragged batches, feature 2, are not selected (08 R259,
11 R366; DESIGN CHOICE, log entry 56: the spec names no other form for a batch without that feature). -/
def Waiting.buckets (w : Waiting) : Bool := w.tuiven1 || !bit w.features 2

/-- A step as its round begins it: its attention engines are chosen (08 R249, R255). -/
def State.newStep (s : State) (q : Queue) (w : Waiting) (c : StepCmd) (ctx : Context) : OpenStep :=
  { tag := s.freeTag, epoch := 0, queue := q.id, ctx := q.ctx, seq := w.seq, hostTag := w.tag, port := w.port, buckets := w.buckets,
    payload := w.payload, source := w.source, cmd := c, attrs := ctx, model := ctx.model, draftModel := ctx.draftModel, prio := q.prio,
    begun := s.tm.tick,
    entries := c.entries.map fun e =>
      { prefill := e.kind == 0 && 8 < e.tokens, status := none, cause := 0, matched := 0, matchPending := false, stalledAt := none,
        restoring := false, oldNode := none, compacted := false, endCommit := 0 },
    tokens := [], fires := 0, equivs := [0, 0, 0, 0, 0], perArray := [], spotDies := [], spotPass := [], staged := [], aborted := false }

/-- A step is open from the start of its round (08 R248). -/
def State.pushStep (s : State) (o : OpenStep) : State :=
  { s with sv := { s.sv with steps := s.sv.steps ++ [o], nextTag := (o.tag + 1) % 65536 } }

/-- A step that its round ends: it changes nothing but for its completion, and stays open until that is delivered (08 R246, R248, 11
R387). -/
def State.closeRound (s : State) (q : Queue) (w : Waiting) (c : StepCmd) (ctx : Context) (status detail : Nat) : State :=
  (s.pushStep (s.newStep q w c ctx)).endUnbegun q w status detail

/-- A valid step opens: its slots are claimed and its entries issued in the round's order. Without its weights it claims its slots,
issues nothing and ends (06 R548, 08 Table 8.3). -/
def State.openStep (s : State) (q : Queue) (w : Waiting) (c : StepCmd) (ctx : Context) (held : Bool) : State :=
  let o := s.newStep q w c ctx
  let tag := o.tag
  let s2 := ((s.pushStep o).openJob c).modQueue q.id fun x => { x with admitted := x.admitted + c.tokenCount }
  if held then (roundOrder o).foldl (fun st i => (st.claimEntry tag i ctx).beginEntry tag i) ((s2.fetchSchedule tag).gather tag)
  else ((roundOrder o).foldl (fun st i => st.claimEntry tag i ctx) s2).failStep tag 3

/-- The state with the features that were in force when a step arrived, under which it is checked (11 R369). -/
def State.asArrived (s : State) (w : Waiting) : State :=
  { s with dp := { s.dp with lease := none, last := s.settings.map fun (l : Lease) => { l with features := w.features } } }

/-- The round of one step. -/
def State.round (s : State) (q : Queue) (w : Waiting) : State :=
  let s1 := s.modQueue q.id fun x => { x with waiting := x.waiting.drop 1 }
  let c := parseStep w.tuiven1 w.payload
  match s1.context q.ctx with
  | none => s1.endUnbegun q w 5 0
  | some ctx =>
    match (s1.model ctx.model).filter fun m => !m.unloading with
    | none => s1.closeRound q w c ctx 2 0
    | some m =>
      let d := (s1.model ctx.draftModel).filter fun m => !m.unloading && ctx.draftModel != 0
      if ctx.draftModel ≠ 0 ∧ d.isNone then s1.closeRound q w c ctx 2 0
      else
        match (s1.asArrived w).stepFault c w.payload.length w.tuiven1 ctx m with
        | some detail => s1.closeRound q w c ctx 1 detail
        | none => s1.openStep q w c ctx (s1.weightsHeld c m d)

/-- Whether a round that is to begin finds the module in P1 Hold, and nothing holds it there. -/
def State.roundWakes (s : State) : Bool := s.pw.state == .p1 && s.pw.hold == .none && s.roundsMay && s.nextQueue.isSome

/-- A sorting round on a core. In P1 Hold a step that can begin wakes the module first, as the round issues a fire schedule (15 Table 15.2); what
stalls tries again (09 R302). -/
def execSortingRound (core : Nat) (s : State) : Host.Outcome State Fault Refusal :=
  let s0 := if s.roundWakes then s.wakeP1 6 else s
  if !s0.inRun || !s0.firmwareRuns || 4 ≤ core then .next s0
  else
    let s1 := s0.retryStalled
    match s1.nextQueue.filter fun _ => s1.roundsRun with
    | some e => .next (s1.round e.1 e.2)
    | none => .next s1

/-! ### PREFIX_MATCH_DONE (09 R286) -/

def execPrefixMatchDone (stepTag entry : Nat) (s : State) : Host.Outcome State Fault Refusal :=
  match s.entryAt stepTag entry with
  | none => .next s
  | some x => .next (if x.2.2.matchPending && s.firmwareRuns then (s.matchEntry stepTag entry).scheduleWakes s else s)

/-! ### HELD_PAGE_WRITTEN (09 R298, R300, R302) -/

/-- Whether a frame can be had for the next held page of a slot. -/
def State.restoreRoom (s : State) (slot : Nat) : Bool :=
  match s.heldOf slot with
  | some h =>
    match h.pages with
    | p :: _ =>
      (s.restoreFrame slot p).isSome
    | [] => true
  | none => true

/-- The step and entry that wait for a slot's restore. -/
def State.restoreWaiter (s : State) (slot : Nat) : Option (Nat × Nat) :=
  (s.liveSteps.flatMap fun o => ((List.range o.cmd.entries.length).zip o.cmd.entries).filterMap fun e =>
    if e.2.slot = slot ∧ (o.entries[e.1]?.any fun w => w.restoring && w.status.isNone) then some (o.tag, e.1) else none).head?

/-- Whether the next held page of a slot holds an infinity or NaN. -/
def State.restoreFault (s : State) (slot : Nat) : Bool := (s.heldOf slot).any fun h => (h.pages.head?).any HeldPage.noNumber

/-- One held page written back; with the last, the restore is over. Without a frame the entry that waits stalls or ends (09 R302); a restore
whose step has ended goes on as frames come free (09 Table 9.5). A page that is no number is not written, and the step that waits for it ends with a
numeric fault (03 R71). -/
def State.restorePageOf (s : State) (slot : Nat) : State :=
  if s.restoreFault slot then
    match s.restoreWaiter slot with
    | some e => s.failStep e.1 4
    | none => s
  else
  let r := s.makeRoom fun st => st.restoreRoom slot
  let s1 := match r.2 with
    | .found => r.1.restoreOnePage slot
    | _ => r.1
  match s1.restoreWaiter slot, r.2 with
  | none, _ => s1
  | some e, .found =>
    s1.modEntry e.1 e.2 fun w =>
      { w with restoring := (s1.heldOf slot).isSome,
               stalledAt := if (s1.stepOf e.1).any fun o => o.toBegin e.2 then w.stalledAt else none }
  | some e, .moving => s1.modEntry e.1 e.2 fun w => { w with stalledAt := some (w.stalledAt.getD s1.tm.tick) }
  | some e, .exhausted => s1.exhaustEntry e.1 e.2

def execHeldPageWritten (slot : Nat) (s : State) : Host.Outcome State Fault Refusal :=
  if !s.firmwareRuns then .next s
  else
    match s.heldOf slot with
    | none => .next s
    | some h =>
      match h.phase with
      | .moving => .next ((s.moveOnePage slot).retryStalled.scheduleWakes s)
      | .restoring => .next ((s.restorePageOf slot).scheduleWakes s)
      | _ => .next s

/-! ### PAGE_EXHAUSTION_TIMEOUT (09 R302) -/

/-- 50 ms in ticks. -/
def exhaustTicks : Nat := 12500000

/-- Whether an entry still lacks frames. -/
def State.entryStalls (s : State) (tag i : Nat) : Bool :=
  (s.entryAt tag i).any fun x => x.2.2.stalledAt.isSome && x.2.2.status.isNone

/-- The 50 ms of an entry that stalls are over: it has its frames by now, or it ends. -/
def execPageExhaustionTimeout (stepTag entry : Nat) (s : State) : Host.Outcome State Fault Refusal :=
  match s.entryAt stepTag entry with
  | none => .next s
  | some x =>
    match x.2.2.stalledAt with
    | none => .next s
    | some t =>
      if !s.firmwareRuns then .next s
      else
        let s1 := (s.advanceTo (t + exhaustTicks)).retryStalled
        let s2 := if x.2.2.restoring then s1.restorePageOf x.2.1.slot else s1
        .next (if s2.entryStalls stepTag entry then s2.exhaustEntry stepTag entry else s2)

/-! ### HELD_EXPIRY (09 R299) -/

def execHeldExpiry (slot : Nat) (s : State) : Host.Outcome State Fault Refusal :=
  match s.heldOf slot with
  | none => .next s
  | some h =>
    if !s.firmwareRuns || !s.tm.valid then .next s
    else
      match h.phase with
      | .moving => .next ((((s.counterTo (h.h + ticksPerSec * h.ttl)).expireHeld slot).sweep).retryStalled.scheduleWakes s)
      | .resting => .next ((((s.counterTo (h.h + ticksPerSec * h.ttl)).expireHeld slot).sweep).retryStalled.scheduleWakes s)
      | _ => .next s

/-! ### ORPHAN_SLOT_MOVE (11 R397) -/

/-- What remains of an expiry once no step is open: the next OPEN slot moves to the tier; once none is left and every move has completed, the
module enters P1 Hold. A reattach in between leaves the slots that have not moved OPEN (11 R397, R399). -/
def execOrphanSlotMove (s : State) : Host.Outcome State Fault Refusal :=
  if !s.dp.expiring || (s.sv.steps.any fun o => !o.aborted) || !s.firmwareRuns then .next s
  else
    match argMin Slot.id (s.sv.slots.filter fun x => x.state == .opened) with
    | some x => .next (s.tierIdle x s.dp.leaseTtl)
    | none =>
      if s.kv.held.any fun h => h.phase == .moving then .next s
      else
        let s2 := { s with dp := { s.dp with expiring := false } }
        .next (if s2.pw.state = .p0 then s2.enterP1 .lease
          else if s2.pw.hold = .none then { s2 with pw := { s2.pw with hold := .lease } } else s2)

end Sys2Proof.Machine
end

