-- ==== Sys2Proof/Machine/Weights.lean ====
section
/-! DEFINITION. Weight parcels on the module: assembly and relay (06 R169-R171, R546), acceptance (06 R168, R547), records (06 R175,
R192, R193), the programming driver (06 R179-R185), the spare and rewrites (06 R197-R203), verify scans (06 R189-R191) and the
interpolation check (04 R111). -/

set_option Elab.async false

namespace Sys2Proof.Machine

/-! ### Assembly (06 R546) -/

/-- The bytes of a parcel from its first one on, as far as they are held without a gap. -/
def Assembly.held (a : Assembly) : Bytes :=
  (sortBy (fun (p : Nat × Bytes) => p.1) a.pieces).foldl
    (fun acc p => if p.1 ≤ acc.length then acc ++ p.2.drop (acc.length - p.1) else acc) []

def Assembly.header (a : Assembly) : Option ParcelHdr := if 128 ≤ a.held.length then some (ParcelHdr.parse a.held) else none

/-- Every byte of header and announced payload is held. -/
def Assembly.whole (a : Assembly) : Bool :=
  match a.header with
  | some h => 128 + h.length ≤ a.held.length
  | none => false

def Assembly.is (a : Assembly) (model index : Nat) : Bool := a.model == model && a.index == index

/-- Whether a parcel addresses this module (06 R164). -/
def State.addressed (s : State) (h : ParcelHdr) : Bool := !s.fb.coordValid || h.addresses s.fb.coord

/-- The relay order: of this module when it took the parcel on a Dispatch port. A frame on a Courier port does not carry the entry
module, which firmware knows by means the spec leaves open: a free value. Over the dimensions of the fabric (06 R169; log entry 21). -/
def State.relayList (s : State) (viaDispatch : Bool) (model index : Nat) : List Nat :=
  relayOrder (if viaDispatch then s.fb.coord else Config.relayEntry model index) (List.range s.fb.dim)

/-- The modules after this one in the relay order. -/
def State.relayAfter (s : State) (viaDispatch : Bool) (model index : Nat) : List Nat :=
  ((s.relayList viaDispatch model index).dropWhile fun c => c != s.fb.coord).drop 1

/-- Data of a parcel passed on in Courier PARCEL frames of up to 4,080 bytes (06 R170, 10 R327). -/
def State.passOn (s : State) (viaDispatch : Bool) (h : ParcelHdr) (model index off : Nat) (data : Bytes) : State :=
  let after := s.relayAfter viaDispatch model index
  match after with
  | next :: _ =>
    if s.fb.coordValid && after.any h.addresses then
      let cut := pieces 4080 (data.length / 4080 + 1) data
      (cut.zip (List.range cut.length)).foldl (fun st e =>
        st.originate 2 next 0 (natLe 4 model ++ natLe 4 index ++ natLe 8 (off + 4080 * e.2) ++ e.1)) s
    else s
  | [] => s

def State.dropAssembly (s : State) (model index : Nat) : State :=
  { s with wt := { s.wt with assembling := s.wt.assembling.filter fun a => !a.is model index } }

/-- Bytes of a parcel that a cut-through frame wrote before it ended with ABORT (11 R378). Where the frame is the first of its parcel, an assembly
begins with them, whose second of 06 R546 runs from now (DESIGN CHOICE, log entry 73). -/
def State.tornParcel (s : State) (model index off : Nat) (data : Bytes) : State :=
  let old := (s.wt.assembling.find? fun a => a.is model index).getD ⟨model, index, [], [], s.tm.tick, true⟩
  let new := { old with torn := old.torn ++ [(off, data)] }
  { s with wt := { s.wt with assembling := putBy (fun a => a.is model index) new s.wt.assembling } }

/-- Data of a parcel arrives (06 R170, R546). Frames that came before the header are passed on with it. -/
def State.parcelData (s : State) (viaDispatch : Bool) (model index off : Nat) (data : Bytes) : State :=
  let old := (s.wt.assembling.find? fun a => a.is model index).getD ⟨model, index, [], [], 0, viaDispatch⟩
  let new := { old with pieces := old.pieces ++ [(off, data)], lastArrival := s.tm.tick }
  let s1 := { s with wt := { s.wt with assembling := putBy (fun a => a.is model index) new s.wt.assembling } }
  match new.header with
  | none => s1
  | some h =>
    let due := if old.header.isSome then [(off, data)] else new.pieces
    let s2 := due.foldl (fun st p => st.passOn new.viaDispatch h model index p.1 p.2) s1
    if new.whole && !s2.addressed h then s2.dropAssembly model index else s2

/-- Parcel status to the host (11 Table 11.15 code 1). -/
def State.parcelStatus (s : State) (model index status : Nat) : State :=
  s.async 1 (natLe 4 model ++ natLe 4 index ++ natLe 2 s.fb.coord ++ natLe 1 status)

/-! ### PARCEL_ACCEPTANCE (06 R168, R178, R193, R547) -/

/-- Status 3: the header's part of the format check. Reserved fields are ignored (01 R27). -/
def ParcelHdr.formatOk (h : ParcelHdr) : Bool :=
  h.format ≤ 3 && !(h.format == 3 && h.satCount != 0) && h.outlierMax ≤ 512

/-- The tensor record a header names. -/
def State.tensorOf (s : State) (h : ParcelHdr) : Option TensorRec :=
  ((s.model h.model).bind fun m => m.layer h.layer).bind fun l => l.tensors.find? fun t => t.tensor == h.tensor

/-- Whether a header is that of an embedding parcel: its TENSOR is the model's embedding tensor (06 R178). -/
def State.isEmbedding (s : State) (h : ParcelHdr) : Bool :=
  match s.model h.model with
  | some m => h.tensor == m.embed && (h.layer == 0 || !(match m.layer h.layer with
      | some l => l.tensors.any fun t => t.tensor == h.tensor
      | none => false))
  | none => false

/-- Tensor blocks of a slice, as (row block, column block). -/
def ParcelHdr.tensorBlocks (h : ParcelHdr) : List (Nat × Nat) :=
  (List.range (h.rb * h.cb)).map fun p => (h.rowFirst / 256 + p % h.rb, h.colFirst / 256 + p / h.rb)

/-- Whether the tensor blocks of a parcel are held by no other accepted parcel of its tensor (06 R547); a re-send is not counted
against the parcel it replaces. -/
def State.blocksFree (s : State) (h : ParcelHdr) : Bool :=
  s.wt.masters.all fun m => m.hdr.model != h.model || m.hdr.layer != h.layer || m.hdr.tensor != h.tensor ||
    m.hdr.index == h.index || h.tensorBlocks.all fun b => !m.hdr.tensorBlocks.contains b

/-- Geometry of an embedding parcel, the only one of its tensor (06 R178). -/
def State.embeddingGeometry (s : State) (h : ParcelHdr) : Bool :=
  match s.model h.model, s.tensorOf h with
  | some m, some t =>
    h.arrayMask == 0 && h.tileFirst == 0 && h.tileCount == 0 && h.layer == 0 && h.rowFirst == 0 && h.colFirst == 0 &&
      h.cols == m.vocab && h.rows == t.k && s.blocksFree h
  | _, _ => false

/-- Whether the slice of a parcel obeys 06 R547 and its blocks are held by no other accepted parcel. -/
def State.sliceOk (s : State) (h : ParcelHdr) : Bool :=
  match s.tensorOf h with
  | some t =>
    h.rowFirst % 256 == 0 && h.colFirst % 256 == 0 && h.rowFirst + h.rows ≤ t.k && h.colFirst + h.cols ≤ t.n &&
      (h.rows % 256 == 0 || h.rowFirst + h.rows == t.k) && (h.cols % 256 == 0 || h.colFirst + h.cols == t.n) &&
      s.blocksFree h
  | none => false

/-- Status 4 does not apply. -/
def State.geometryOk (s : State) (h : ParcelHdr) (total : Nat) : Bool :=
  1 ≤ h.rows && h.rows ≤ 1048576 && 1 ≤ h.cols && h.cols ≤ 1048576 && h.die ≤ 3 && h.length == h.lengthDue &&
    total == 128 + h.length &&
    (if s.isEmbedding h then s.embeddingGeometry h
     else h.arrayMask != 0 && h.tileCount == h.tileCountDue && h.tileFirst + h.tileCount ≤ 16384 &&
       ((List.range h.tileCount).all fun i => s.enabled ⟨h.die, h.tileFirst + i⟩) && s.sliceOk h)

/-- Free bytes of a stack: neither a region's nor in a chunk of the pool that is in use. -/
def State.stackFree (s : State) (k : Nat) : Nat := stackBytes - s.regionBytes k - chunkBytes * (s.chunksOf k).length

/-- The stack of a die with the most free space, the lowest on a tie (06 R177). -/
def State.masterStack (s : State) (die : Nat) : Nat :=
  ((argMin (fun k => stackBytes - s.stackFree k) ((List.range 4).map fun i => 4 * die + i))).getD (4 * die)

/-- Bytes that a parcel takes as master with its records. -/
def masterBytes (h : ParcelHdr) : Nat := 128 + h.length + recordSize * h.arrayList.length

/-- A re-send of an accepted parcel (06 R193): the same MODEL, PARCEL_INDEX and DIGEST. -/
def State.isResend (s : State) (h : ParcelHdr) : Bool :=
  match s.master h.model h.index with
  | some m => m.hdr.digest == h.digest
  | none => false

/-- Whether HBM of the die can hold the master of a parcel and its records. A re-send takes the place of the master it replaces. -/
def State.parcelFits (s : State) (h : ParcelHdr) : Bool :=
  match s.master h.model h.index with
  | some m => masterBytes h ≤ s.stackFree m.stack + masterBytes m.hdr
  | none => masterBytes h ≤ s.stackFree (s.masterStack h.die)

/-- The status of a parcel (06 Table 6.2), the rows taken from top to bottom. A re-send passes the checks of statuses 5 and 9 and the
block check of R547 (06 R193). -/
def State.parcelCheck (s : State) (h : ParcelHdr) (b : Bytes) (total : Nat) : Nat :=
  let payload := slice b 128 h.length
  let resend := s.isResend h
  let free (a : ArrId) : Bool := (s.dir a).astate == .free || ((s.dir a).astate == .unbound && (s.dir a).model == h.model)
  if parcelDigest (b.take 128) payload ≠ h.digest then 1
  else if h.version ≠ 1 then 2
  else if !(h.formatOk && payloadFormatOk h payload) then 3
  else if h.model = 0 ∨ !((s.model h.model).any fun m => !m.unloading) then 8
  else if (s.master h.model h.index).isSome ∧ !resend then 9
  else if !s.geometryOk h total then 4
  else if !resend ∧ !s.isEmbedding h ∧ !(h.arrayList.all free) then 5
  else if h.arrayList.any fun a => (s.dir a).retired then 6
  else if !s.parcelFits h then 7
  else 0

/-- An accepted parcel becomes a master; its FREE arrays go to LOADING (06 R177, Table 6.5), and the adapter targets of its tensor are placed with
it (08 R264). A re-send replaces the master, the lists of
its arrays are fetched anew, and the records it has lost are built again (04 R124). -/
def State.acceptParcel (s : State) (h : ParcelHdr) (b : Bytes) : State :=
  let stack := match s.master h.model h.index with
    | some m => m.stack
    | none => s.masterStack h.die
  let m : Master := { hdr := h, header := b.take 128, payload := slice b 128 h.length, stack := stack, invalid := false }
  let s1 := { s with wt := { s.wt with
    masters := putBy (fun x => x.hdr.model == h.model && x.hdr.index == h.index) m s.wt.masters } }
  (h.arrayList.foldl (fun st a =>
    st.modDir a fun d =>
      match d.astate with
      | .free => { d with astate := .loading, model := h.model }
      | _ => d) (h.arrayList.foldl State.renewLists s1)).placeTargets h.model h.layer h.tensor

def execParcelAcceptance (model index : Nat) (s : State) : Host.Outcome State Fault Refusal :=
  match s.wt.assembling.find? fun a => a.is model index with
  | none => .next s
  | some a =>
    match a.header with
    | none => .next s
    | some h =>
      if !a.whole || !s.addressed h || !s.hcoreRuns then .next s
      else
        let st := s.parcelCheck h a.held (maxList (a.pieces.map fun p => p.1 + p.2.length))
        let s1 := (s.dropAssembly model index)
        .next ((if st = 0 then s1.acceptParcel h a.held else s1).parcelStatus model index st)

/-! ### PARCEL_INCOMPLETE_TIMEOUT (06 R546) -/

def execParcelIncompleteTimeout (model index : Nat) (s : State) : Host.Outcome State Fault Refusal :=
  match s.wt.assembling.find? fun a => a.is model index with
  | none => .next s
  | some a =>
    if a.whole || !s.hcoreRuns then .next s
    else
      let s1 := (s.advanceTo (a.lastArrival + ticksPerSec)).dropAssembly model index
      let mine := a.viaDispatch || (a.header.any fun h => s.fb.coordValid && h.addresses s.fb.coord)
      .next (if mine then s1.parcelStatus model index 1 else s1)

/-! ### Records (06 R175, R192, R193) -/

/-- Saturated blocks of an array's share of its parcel, whose copies the re-quantiser reads (06 R173). -/
def State.saturatedBlocks (s : State) (a : ArrId) : Nat :=
  match s.masterOf a with
  | some m =>
    let p := m.position a
    ((appendixOf m.hdr m.payload).filter fun b => fld b 0 4 / 256 == p / m.hdr.rb && fld b 4 2 / 8 == p % m.hdr.rb).length
  | none => 0

def CodeRecord.codeDigest (r : CodeRecord) : Nat := sha512 (codeBytes r)
def CodeRecord.digest (r : CodeRecord) : Nat := sha512 (recordBytes r)

/-- The record of an array built from its master; lists of an earlier record are dropped (04 R106). -/
def State.setRecord (s : State) (a : ArrId) (r : CodeRecord) : State :=
  ({ s with wt := { s.wt with records := setKey s.wt.records a r, copyUses := s.wt.copyUses + s.saturatedBlocks a } }).renewLists a

/-- The record of an array dropped, with the lists taken from it. -/
def State.dropRecord (s : State) (a : ArrId) : State :=
  ({ s with wt := { s.wt with records := dropKey s.wt.records a } }).renewLists a

/-- A working array goes out of service and its rewrite is requested, unless it is retired (04 R116, 06 R185, Table 6.5). Its run is
discarded (07 Table 7.7). Under a stand-in the driver programs it at once, and the request comes first after the release (06 R199). -/
def State.outOfService (s : State) (a : ArrId) : State :=
  if (s.dir a).astate != .inService then s
  else
    let s1 := s.modDir a fun d => { d with astate := .outOfService }
    let own := (s1.tile a.tid).run.any fun r => r.arr == a.arr
    if s1.rewritable a ∧ (s1.tile a.tid).standIn = some a.arr then
      (if own then s1.dropRun a.tid true true else s1).programUnderCover a.tid a.arr
    else
      (if own then s1.discardRun a.tid true else s1).askRewrite a

/-- A verify scan of an array begins (06 R189, R190). -/
def State.startScan (s : State) (a : ArrId) : State :=
  s.modTile a.tid fun t =>
    { t with scans := setKey t.scans a.arr 2048, scanBegun := setKey t.scanBegun a.arr s.stamp,
             scanSets := t.scanSets.filter fun e => e.1 != a.arr }

/-- The driver is to program an array with its own record. -/
def State.queueProgram (s : State) (a : ArrId) : State :=
  s.modTile a.tid fun t => { t with progQueue := t.progQueue ++ [mkProgram a.arr a.arr false] }

/-- An UNBOUND array whose record is resident binds (06 Table 6.5, 16 R539): a record that matches RECORD_DIGEST has its cells scanned, and an
expired calibration asks for a run (07 R231); under another record it is programmed as new. -/
def State.bindArray (s : State) (a : ArrId) : State :=
  match s.record a with
  | none => s
  | some r =>
    if (s.dir a).astate != .unbound then s
    else if r.digest = (s.dir a).recordDigest then (if s.calSound a then s else s.requestCal a 1).startScan a
    else (s.modDir a fun x => { x with astate := .loading }).queueProgram a

/-- A record is built from its master. An UNBOUND array binds once arrays are ready (16 Table 16.9). -/
def execRecordBuilt (a : ArrId) (s : State) : Host.Outcome State Fault Refusal :=
  match s.masterOf a with
  | none => .next s
  | some m =>
    if !s.inRun || (s.record a).isSome || a.arr == 16 || !m.hdr.arrayList.contains a then .next s
    else
      let d := s.dir a
      let r := parcelRecord m (m.position a)
      let s1 := s.setRecord a r
      match d.astate with
      | .loading => .next (s1.queueProgram a)
      | .unbound => .next (if s.bt.arraysReady then s1.bindArray a else s1)
      | .inService =>
        if r.digest = d.recordDigest then .next s1
        else
          .next (({ s1 with wt := { s1.wt with
            masters := s1.wt.masters.map fun (x : Master) => if x.hdr = m.hdr then { x with invalid := true } else x } }).outOfService a)
      | _ => .next s1

/-! ### The programming driver (06 R179-R185, R200-R203) -/

/-- Programming temperature windows (06 R181): to begin or go on, and to resume, in 1/16 degC. -/
def State.progWindow (s : State) (t : TileId) : Bool := 160 ≤ s.tileTemp t && s.tileTemp t ≤ 1360
def State.resumeWindow (s : State) (t : TileId) : Bool := 176 ≤ s.tileTemp t && s.tileTemp t ≤ 1344

/-- A tile whose driver has a place (06 R182). -/
def Tile.driving (t : Tile) : Bool := !t.preempted.isEmpty || t.prog.any fun p => !p.displaced

def State.driversOf (s : State) (die : Nat) : Nat := (s.tl.tiles.filter fun t => t.id.die == die && t.driving).length

/-- Whether a program is a load of a FREE array, or of a spare without codes: a parcel's, or a calibration record's. A parcel's load stays one
when its model is unloaded while it goes on, the array being FREE at once (log entry 47). -/
def State.isLoad (s : State) (t : TileId) (p : Program) : Bool :=
  p.calRecord || (p.arr != 16 && ((s.dir (t.array p.arr)).astate == .loading || (s.dir (t.array p.arr)).astate == .free))

/-- The record that a program writes; none while the array's record is not resident. -/
def State.programRecord (s : State) (t : TileId) (p : Program) : Option CodeRecord :=
  if p.calRecord then some calibrationRecord else s.record (t.array p.source)

/-- A program takes the driver, and with it the array leaves the buses; a verify scan of it that is part done keeps its count and goes on with the
rows that are left once the array rejoins (06 R190 says only that it is scanned then; DESIGN CHOICE, log entry 72). Its cycle is counted, with the
wear warning (06 R184, R185); its codes are those of the record now. A spare's entry is LOADING from here on. -/
def State.beginProgram (s : State) (t : TileId) (p : Program) : State :=
  let a := t.array p.arr
  let s1 := s.modDir a fun d =>
    { d with wear := d.wear + 1, astate := if p.arr = 16 then .loading else d.astate,
             spareTag := if p.arr = 16 then none else d.spareTag }
  let s2 := s1.modTile t fun x =>
    { x with prog := some { p with phase := .erase, began := s.tm.tick, row := 0, cycles := p.cycles + 1,
                                   codes := p.codes.orElse fun _ => s.programRecord t p } }
  if (s2.dir a).wear = 28000 then s2.raise 0x000E 6 [locOf a, 28000] else s2

/-- The newest load that runs on a die: that whose erase began last, on the last tile of those that began together. -/
def State.newestLoad (s : State) (die : Nat) : Option TileId :=
  argMin (fun t => match (s.tile t).prog with
      | some p => (2 ^ 64 - p.began) * 16384 + (16383 - t.tile)
      | none => 0)
    ((s.tl.tiles.filter fun t => t.id.die == die && t.prog.any fun p => !p.displaced && s.isLoad t.id p).map Tile.id)

/-- A place for a rewrite on a die, that of the newest load when none is free (06 R182). Where all 4,096 drivers are rewrites and no load can be
paused, a further rewrite has its place beyond the limit: R182 limits the drivers and always gives rewrites a place (DESIGN CHOICE, log entry
61). -/
def State.rewritePlace (s : State) (die : Nat) : State :=
  if s.driversOf die < 4096 then s
  else
    match s.newestLoad die with
    | some t => s.modTile t fun x => { x with prog := x.prog.map fun p => { p with displaced := true } }
    | none => s

/-- Whether a program can begin: its array is not retired, and the record it writes is resident (06 R185, R197). -/
def State.programReady (s : State) (t : TileId) (p : Program) : Bool :=
  !(s.dir (t.array p.arr)).retired && (s.programRecord t p).isSome

/-- Whether a program is a rewrite in service or serves one: of a working array that is no load, or of a spare claimed for a rewrite. The load of
a spare for a calibration is neither a parcel load nor a rewrite: it waits for the driver and for a place, and pauses no other (06 R182, R203;
DESIGN CHOICE, log entry 61). -/
def State.urgent (s : State) (t : Tile) (p : Program) : Bool :=
  !s.isLoad t.id p && (p.arr != 16 || t.claim.any fun c => c.1 == .rewrite)

/-- A program of the tile that comes before loads (06 R203). -/
def State.urgentProgram (s : State) (t : Tile) : Option Program := t.progQueue.find? fun p => s.urgent t p && s.programReady t.id p

/-- The program a tile takes next. -/
def State.nextProgram (s : State) (t : Tile) : Option Program :=
  (s.urgentProgram t).orElse fun _ => t.progQueue.find? (s.programReady t.id)

/-- A load that gives its driver up at once: it is paused or displaced, or it erases, which ends with the slot (06 R179). One in its final verify
finishes first: no row is in progress then whose end R200 of 06 could wait for (DESIGN CHOICE, log entry 72). -/
def State.loadIdles (s : State) (t : Tile) : Bool :=
  t.prog.any fun p => s.isLoad t.id p && (p.displaced || p.pausedAt.isSome || p.phase == .erase)

/-- A program takes the driver from what the tile is programming, which is put aside (06 R200, R203). A run of the array ends: its
cells have one driver (02 R59), and the request waits. -/
def State.takeDriver (s : State) (t : TileId) (p : Program) : State :=
  let s1 := if (s.tile t).run.any fun r => r.arr == p.arr then s.discardRun t true else s
  (s1.modTile t fun y => { y with progQueue := y.progQueue.erase p, preempted := y.prog.toList ++ y.preempted }).beginProgram t p

/-- Whether an entry to P4 forbids new programs (15 R496). -/
def State.sealing (s : State) : Bool := s.pw.entry.any fun e => e.target == .p4

def execProgramStart (t : TileId) (s : State) : Host.Outcome State Fault Refusal :=
  let x := s.tile t
  match s.nextProgram x with
  | none => .next s
  | some p =>
    let yields := !s.urgent x p
    if !s.inRun || !s.enabled t || s.sealing || s.isDrained || !s.progWindow t || (x.prog.isSome && (yields || !s.loadIdles x)) then .next s
    else
      let s1 := if yields || x.driving then s else s.rewritePlace t.die
      if yields && 4096 ≤ s1.driversOf t.die then .next s else .next (s1.takeDriver t p)

/-- A rewrite of the tile that waits while a load runs takes the driver at the end of the row (06 R203), unless an entry to P4 forbids new programs (15
R496). -/
def State.yieldLoad (s : State) (t : TileId) (p : Program) : State :=
  match s.urgentProgram (s.tile t) with
  | some q => if s.isLoad t p ∧ s.progWindow t ∧ !s.sealing then s.takeDriver t q else s
  | none => s

def execProgramRowEnd (t : TileId) (s : State) : Host.Outcome State Fault Refusal :=
  match (s.tile t).prog with
  | none => .next s
  | some p =>
    if !s.inRun || p.pausedAt.isSome || p.displaced || (s.tile t).test.running || 256 ≤ p.row then .next s
    else
      let row := match p.phase with
        | .erase => 0
        | _ => p.row + 1
      let p1 := { p with phase := ProgPhase.rows, row := row,
                         pausedAt := if row < 256 ∧ !s.progWindow t then some s.tm.tick else none }
      .next ((s.modTile t fun x => { x with prog := some p1 }).yieldLoad t p1)

/-- A program goes on: one whose repeat waited for the temperature begins its erase. -/
def State.goOn (s : State) (t : TileId) (p : Program) : State :=
  let q := { p with pausedAt := none, displaced := false, deferred := false }
  if p.phase = .waiting then s.beginProgram t q else s.modTile t fun x => { x with prog := some q }

def execProgramResume (t : TileId) (s : State) : Host.Outcome State Fault Refusal :=
  match (s.tile t).prog with
  | none => .next s
  | some p =>
    if !s.inRun || !(if p.pausedAt.isSome then s.resumeWindow t else s.progWindow t) || (p.pausedAt.isNone && !p.displaced) ||
        (p.displaced && 4096 ≤ s.driversOf t.die) then .next s
    else .next (s.goOn t p)

def execProgrammingDeferred (t : TileId) (s : State) : Host.Outcome State Fault Refusal :=
  match (s.tile t).prog with
  | none => .next s
  | some p =>
    match p.pausedAt with
    | none => .next s
    | some h =>
      if p.deferred || !s.inRun then .next s
      else
        let s1 := s.advanceTo (h + ticksPerSec)
        .next ((s1.modTile t fun x => { x with prog := some { p with deferred := true } }).raise 0x000D t.die
          [t.die + 256 * unitOf t])

/-- What a completed program leaves in the array and its directory entry (06 Tables 6.4 and 6.5). A LOADING array settles once it holds
the codes of the record it waits for. -/
def State.programWritten (s : State) (t : TileId) (p : Program) : State :=
  let a := t.array p.arr
  let r := p.codes.getD blankRecord
  let src := s.dir (t.array p.source)
  let from' := match s.naming (t.array p.source) with
    | some m => (m.hdr.index, m.position (t.array p.source))
    | none => (src.parcel, src.position)
  let s1 := { s with wt := { s.wt with cells := setKey s.wt.cells a (some r) } }
  s1.modDir a fun d =>
    { d with progTime := s.stamp, codeDigest := r.codeDigest, recordDigest := r.digest,
             model := if p.arr != 16 then d.model else if p.calRecord then 0 else src.model,
             parcel := if p.calRecord then d.parcel else from'.1,
             position := if p.calRecord then d.position else from'.2,
             astate := match d.astate with
               | .loading => if p.arr = 16 ∨ s.record a = some r then .settling else .loading
               | x => x }

/-- The driver goes on with what it put aside, which is held to its temperature window before its next row (06 R181, R200). -/
def State.driverFree (s : State) (t : TileId) : State :=
  let outside := !s.progWindow t
  s.modTile t fun x =>
    match x.preempted with
    | [] => { x with prog := none }
    | p :: rest =>
      { x with preempted := rest,
               prog := some (if outside ∧ p.phase = .rows ∧ p.row < 256 ∧ p.pausedAt.isNone then { p with pausedAt := some s.tm.tick } else p) }

/-- A program that failed is repeated once; the erase does not begin outside the temperature window (06 R180, R181). -/
def State.repeatProgram (s : State) (t : TileId) (p : Program) : State :=
  if s.progWindow t then s.beginProgram t p
  else s.modTile t fun x => { x with prog := some { p with phase := .waiting, row := 0, pausedAt := some s.tm.tick } }

/-- Permanent fault of a program that failed twice (06 R180, 14 Table 14.7). -/
def State.programFails (s : State) (t : TileId) (p : Program) : State :=
  (s.driverFree t).drain 4 0 t.die (locOf (t.array p.arr))

def execProgramComplete (t : TileId) (ok : Bool) (s : State) : Host.Outcome State Fault Refusal :=
  match (s.tile t).prog with
  | none => .next s
  | some p =>
    if !s.inRun || p.row != 256 || p.displaced then .next s
    else if ok then
      .next ((((s.active.driverFree t).modTile t fun x =>
        { x with settling := x.settling ++ [(p.arr, p.source, p.calRecord)] }).programWritten t p).tryEntry)
    else if p.cycles < 2 then .next (s.repeatProgram t p)
    else .next (s.active.programFails t p)

/-! ### The spare (06 R197, Table 6.7) -/

/-- D of an array now, in 1/4,096 code (04 R115). -/
def State.driftNow (s : State) (a : ArrId) : Nat := (s.drift a).at (if s.tm.valid then s.tm.counter else 0)

/-- Whether a request of the spare waits or runs. -/
def Tile.spareRequested (t : Tile) : Bool := (t.calQueue.any fun r => r.arr == 16) || t.run.any fun r => r.arr == 16

/-- The spare asks for its own calibration unless it has. -/
def State.askSpare (s : State) (t : TileId) : State :=
  if (s.tile t).spareRequested then s else s.requestCal (t.array 16) 1

/-- The spare READY(k) and claimed for k stands in at the next boundary once its calibration is valid; until then the claim waits. -/
def State.spareReady (s : State) (t : TileId) (k : Nat) : State :=
  let s1 := s.modTile t fun x => { x with spare := .ready k }
  if s1.calValid (t.array 16) then s1.modTile t fun x => { x with standInNext := some (some k) } else s1.askSpare t

/-- The spare LOADING(k): the driver is to program it from array `k`'s record. -/
def State.loadSpare (s : State) (t : TileId) (k : Nat) : State :=
  (s.modTile t fun x => { x with spare := .loading k, standInNext := none, progQueue := x.progQueue ++ [mkProgram 16 k false] }).modDir
    (t.array 16) fun d => { d with astate := .loading, spareTag := none }

/-- A claim of the spare for array `k` (06 Table 6.7). READY(k) serves it only while it holds the codes that `k` has now. -/
def State.claimSpare (s : State) (t : TileId) (kind : ClaimKind) (k : Nat) : State :=
  let s1 := s.modTile t fun x => { x with claim := some (kind, k) }
  match (s.tile t).spare with
  | .ready j => if j = k ∧ s.holdsCodesOf t k ∧ s.driftNow (t.array 16) < 1024 then s1.spareReady t k else s1.loadSpare t k
  | _ => s1.loadSpare t k

/-- Whether the spare can be claimed at once for an array: it is not retired, IDLE or READY, unclaimed, its own run is not in progress,
and the array's record is resident. -/
def State.claimable (s : State) (t : TileId) (k : Nat) : Bool :=
  let x := s.tile t
  !(s.dir (t.array 16)).retired && x.claim.isNone && (match x.spare with
    | .idle => true
    | .ready _ => true
    | _ => false) && !(x.run.any fun r => r.arr == 16) && (s.record (t.array k)).isSome && x.standInNext.isNone

/-- A spare whose program reached 30,000 cycles is retired once that has settled; it still stands in for the claim it was loaded for,
and is IDLE without one (06 R185, Table 6.7). -/
def State.retireSpare (s : State) (t : TileId) : State :=
  if (s.dir (t.array 16)).wear < 30000 then s
  else
    let s1 := s.modDir (t.array 16) fun d => { d with retired := true }
    match (s1.tile t).claim, (s1.tile t).spare with
    | some _, .ready _ => s1
    | _, _ => (s1.endClaim t).idleSpare t

/-- The spare has settled with the codes of array `k`, or of the calibration record. The program that reached 30,000 cycles serves
the claim it was made for (06 R185). -/
def State.spareSettled (s : State) (t : TileId) (k : Nat) (calRecord : Bool) : State :=
  let sp := t.array 16
  let s1 := s.zeroDrift sp
  if calRecord then s1.modDir sp fun d => { d with astate := .free, spareTag := none, model := 0 }
  else
    let s2 := (s1.modDir sp fun d => { d with astate := .inService, spareTag := some k }).modTile t fun x => { x with spare := .ready k }
    match (s2.tile t).claim with
    | some c => if c.2 = k ∧ s2.holdsCodesOf t k then s2.spareReady t k else s2.loadSpare t c.2
    | none => if s2.holdsCodesOf t k then s2 else s2.idleSpare t

/-- A class 1 request for an array whose calibration is invalid: the spare, or a working array that holds a record (07 Table 7.6). -/
def State.askIfUnsound (s : State) (a : ArrId) : State :=
  if (a.arr == 16 || s.holdsRecord a) && !s.calSound a then s.requestCal a 1 else s

/-- An array that comes into service without a record, which a re-digest has dropped meanwhile, goes out of service (06 Table 6.6). -/
def State.recordLost (s : State) (a : ArrId) : State := if (s.record a).isSome then s else s.outOfService a

/-- A working array has settled (06 Table 6.5). A REWRITING array of an unloaded model is FREE from here on, not from the end of its program
(Table 6.5 says 'after the program in progress completes'; DESIGN CHOICE, log entry 72). -/
def State.arraySettled (s : State) (t : TileId) (k : Nat) : State :=
  let a := t.array k
  let s1 := if 30000 ≤ (s.dir a).wear then s.modDir a fun d => { d with retired := true } else s
  match (s1.dir a).astate with
  | .settling => (((s1.modDir a fun d => { d with astate := .inService }).zeroDrift a).recordLost a).askIfUnsound a
  | .rewriting =>
    ((s1.zeroDrift a).modDir a fun d => if d.model = 0 then { d with astate := .free } else { d with astate := .inService }).recordLost a
  | .covered => s1.modTile t fun x => { x with standInNext := some none }
  | _ => s1

def execSettlingDone (t : TileId) (s : State) : Host.Outcome State Fault Refusal :=
  match (s.tile t).settling with
  | [] => .next s
  | e :: rest =>
    if !s.inRun then .next s
    else
      let s1 := s.modTile t fun x =>
        { x with settling := rest,
                 calQueue := x.calQueue.map fun r => if e.2.2 ∧ r.arr = e.1 then { r with programmed := true } else r }
      let s2 := if e.1 = 16 then s1.spareSettled t e.2.1 e.2.2 else s1.arraySettled t e.1
      .next (if e.1 = 16 then s2.retireSpare t else s2).tryEntry

/-! ### Rewrites (06 R199-R201) -/

def execRewriteStart (a : ArrId) (s : State) : Host.Outcome State Fault Refusal :=
  let x := s.tile a.tid
  if !s.inRun || !x.rewrites.contains a.arr || !s.rewritable a || s.sealing then .next s
  else if x.standIn = some a.arr then
    -- the spare already stands in for the array: the driver programs it under that cover at once
    .next (s.programUnderCover a.tid a.arr)
  else if s.claimable a.tid a.arr && s.calValid (a.tid.array 16) then .next (s.claimSpare a.tid .rewrite a.arr)
  else .next s

/-- Whether a direct rewrite of the tile is in progress. -/
def State.directBusy (s : State) (t : TileId) : Bool :=
  (List.range 16).any fun k => (s.dir (t.array k)).astate == .rewriting

/-- Whether the spare cannot serve the rewrite of an array (06 R200). A spare that loads for a claim that has ended, with a valid calibration, is
neither claimed nor lacking: the rewrite waits until the load has settled, and then claims it (R199, R200 and Table 6.7 have no case for it; DESIGN
CHOICE, log entry 61). -/
def State.spareLacking (s : State) (a : ArrId) : Bool :=
  let x := s.tile a.tid
  (match x.claim with
   | some c => c.2 != a.arr
   | none => false) || (s.dir (a.tid.array 16)).retired || !s.calValid (a.tid.array 16)

/-- The array whose direct rewrite comes next: the oldest request of those that can be rewritten and that the spare cannot serve (06
R200, R201). -/
def State.directNext (s : State) (t : TileId) : Option Nat :=
  (s.tile t).rewrites.find? fun k => s.rewritable (t.array k) && s.spareLacking (t.array k)

/-- A direct rewrite begins. The driver takes the array once no fire of its cells is in flight or repeats: a repeat goes before any other fire (02
R51, R59); younger requests wait meanwhile. A program in its final verify is put aside at once, since no row of it is in progress (06 R179, R200;
DESIGN CHOICE, log entry 72). -/
def execDirectRewriteStart (a : ArrId) (s : State) : Host.Outcome State Fault Refusal :=
  let x := s.tile a.tid
  if !s.inRun || s.directNext a.tid != some a.arr || x.firing a.arr || s.directBusy a.tid || !s.progWindow a.tid || s.sealing then .next s
  else
    let s1 := (if x.driving then s else s.rewritePlace a.die).modDir a fun d => { d with astate := .rewriting }
    let s2 := if x.claim.any fun c => c.2 == a.arr then s1.endClaim a.tid else s1
    .next ((s2.modTile a.tid fun t => { t with rewrites := t.rewrites.filter fun k => k != a.arr }).takeDriver a.tid
      (mkProgram a.arr a.arr false))

/-! ### Verify scans (06 R189-R191, 04 R114) -/

/-- A verify scan falls due; none begins before arrays are ready (16 Table 16.9), nor while work is being ended (15 R496). -/
def execVerifyScanDue (a : ArrId) (s : State) : Host.Outcome State Fault Refusal :=
  let s1 := s.wakeForTask
  if !s1.inRun || !s1.enabled a.tid || 16 < a.arr || s1.isDrained || !s1.bt.arraysReady || s1.workStops || ((s1.tile a.tid).scans.any fun e => e.1 == a.arr) then .next s1
  else .next (s1.startScan a)

/-- Read-back code of a cell: level less row reference and column drift (06 R191); `level` in 1/64 code, `ref2` twice the row reference
in 1/64 code, `delta` in 1/4,096 code. -/
def readBack (level ref2 delta : Int) : Int := clampInt 0 15 (roundEven (64 * level - 32 * ref2 - delta) 4096)

/-- The codes read back, in the shape of a record. -/
def readBackRecord (r : CodeRecord) (levels d : List (List Int)) (delta : List Int) : CodeRecord :=
  let cell (i c j : Nat) : Nat :=
    (readBack (at' (at' levels i []) c 0) (at' (at' d i []) 256 0 + at' (at' d i []) 257 0) (at' delta j 0)).toNat
  { r with codes := (List.range 256).map fun i => (List.range 256).map fun j => cell i j j,
           pmh := (List.range 256).map fun i => cell i 258 256,
           pml := (List.range 256).map fun i => cell i 259 257 }

/-- Cells whose read-back codes differ. -/
def cellDiffs (a b : CodeRecord) : Nat :=
  let diff (x y : List Nat) : Nat := ((x.zip y).filter fun e => e.1 != e.2).length
  sumList ((a.codes.zip b.codes).map fun e => diff e.1 e.2) + diff a.pmh b.pmh + diff a.pml b.pml

/-- The drift entry after a scan (04 R115). -/
def Drift.scanned (d : Drift) (delta : List Int) (dmax : Nat) (now : Stamp) : Drift :=
  { delta := delta, d0 := d.d1, t0 := d.t1, d1 := dmax, t1 := now, scans := d.scans + 1 }

/-- The levels that a scan's 2,048 fires give, by row, each fire under the set `c` that was current at its t0: 256 weights, REF0, REF1, PMH, PML, in
1/64 code. Of the eight fires of a row the last four have the postmark converters on REF0 and REF1. A row driven with +7 converts to 7/2 LSB for
each code above the verify level, which is that of code 8 (PRESUMED); the drift table takes no part, since the scan measures it (DEDUCED, log entry
47). -/
def scanLevels (c : Nat → CoefSet) (raw : List (List (List Int))) : List (List Int) :=
  let y (i n j : Nat) : Int := corrected { c (8 * i + n) with delta := [] } 3 [] j (at' (at' (at' raw i []) n []) j 0)
  let level (i first j : Nat) : Int := 512 + roundEven (2 * sumInt ((List.range 4).map fun n => y i (first + n) j)) 28
  (List.range 256).map fun i => (List.range 260).map fun col =>
    if col < 256 then level i 0 col else if col < 258 then level i 4 col else level i 0 (col - 2)

/-- The record whose codes a scan holds the cells to: the array's, the one a spare was loaded from, else what its cells hold, as those of an array
do that is yet to be programmed. -/
def State.scanCodes (s : State) (a : ArrId) : Option CodeRecord :=
  if a.arr ≠ 16 ∧ (s.dir a).astate = .loading then s.cells a
  else
  (if a.arr = 16 then (s.dir a).spareTag.bind fun k => s.record (a.tid.array k) else s.record a).orElse fun _ => s.cells a

/-- The spare no longer holds what it stands for. READY, it is IDLE, and a claim loads it again; standing in, it carries out no fire from
here on (04 Table 4.4, cause 3) and is released at the next boundary, or once the array it covers has been programmed (DESIGN CHOICE,
log entry 47). -/
def State.spareFails (s : State) (t : TileId) : State :=
  let sp := t.array 16
  match (s.tile t).spare with
  | .idle => { s with wt := { s.wt with cells := setKey s.wt.cells sp none } }
  | .loading _ => s
  | .ready _ =>
    match (s.tile t).claim with
    | some c => (s.idleSpare t).loadSpare t c.2
    | none => s.idleSpare t
  | .standing k =>
    let s1 := s.modDir sp fun d => { d with astate := .free, spareTag := none, model := 0 }
    if (s1.dir (t.array k)).astate = .covered then s1
    else (if (s1.tile t).run.any CalRun.covered then s1.dropRun t true false else s1).endClaim t

/-- A scan whose codes differ: the record, and the array out of service with its rewrite requested. An UNBOUND array whose record is resident again
goes to LOADING and is programmed as new (16 R539); one without a record stays UNBOUND until its parcel comes (06 R197, Table 6.5); a COVERED one is
being rewritten already. -/
def State.readBackFails (s : State) (a : ArrId) (cells : Nat) : State :=
  let s1 := s.raise 0x0006 a.die [locOf a, cells]
  if a.arr = 16 then s1.spareFails a.tid
  else if (s1.dir a).astate = .unbound ∧ (s1.record a).isSome then (s1.modDir a fun d => { d with astate := .loading }).queueProgram a
  else s1.outOfService a

def execVerifyScanDone (a : ArrId) (raw : List (List (List Int))) (s : State) : Host.Outcome State Fault Refusal :=
  let x := s.tile a.tid
  if !s.inRun || !(x.scans.contains (a.arr, 0)) then .next s
  else
    let s1 := s.active.modTile a.tid fun t =>
      { t with scans := t.scans.filter (fun e => e.1 != a.arr), scanSets := t.scanSets.filter fun e => e.1 != a.arr }
    match s1.scanCodes a with
    | none =>
      -- cells of a program cut short: their codes are not those of any record, and how many differ is open (log entry 62)
      let d := s1.nextDraw
      .next (d.2.readBackFails a (1 + Config.random d.1 % 66560))
    | some r =>
      let levels := scanLevels (s.scanSet x a.arr) raw
      let d := deviations r levels
      let rel := relative d
      let delta := driftDeltas rel
      let s2 := s1.withSet a fun st => st.setDrift a ((st.drift a).scanned delta (driftD rel) st.stamp)
      let back := readBackRecord r levels d delta
      if back.codeDigest ≠ (s2.dir a).codeDigest then .next (s2.readBackFails a (cellDiffs back r))
      else if (s2.dir a).astate = .unbound ∧ (s2.record a).isSome then
        .next ((s2.modDir a fun e => { e with astate := .inService }).askIfUnsound a)
      else .next s2

/-! ### DRIFT_OUT_OF_SERVICE (04 R116) -/

/-- 0.5 code in 1/4,096 code. -/
def driftLimit : Nat := 2048

/-- Whether an array serves: a working array IN_SERVICE, the spare while it stands in. -/
def State.serves (s : State) (a : ArrId) : Bool :=
  (s.dir a).astate == .inService && (a.arr != 16 || match (s.tile a.tid).spare with
    | .standing _ => true
    | _ => false)

def execDriftOutOfService (a : ArrId) (s : State) : Host.Outcome State Fault Refusal :=
  if !s.inRun || !s.serves a || !(s.drift a).reached (if s.tm.valid then s.tm.counter else 0) driftLimit
  then .next s
  else
    let s1 := s.raise 0x0005 a.die [locOf a, s.driftNow a]
    .next (if a.arr = 16 then s1.spareFails a.tid else s1.outOfService a)

/-! ### REDIGEST (06 R192) -/

/-- A master whose digest differs: invalid, and its re-send requested (06 Table 6.6). -/
def State.invalidateMaster (s : State) (model index : Nat) : State :=
  match s.master model index with
  | none => s
  | some m =>
    let s1 := { s with wt := { s.wt with masters := s.wt.masters.map fun (x : Master) =>
      if x.hdr.model = model ∧ x.hdr.index = index then { x with invalid := true } else x } }
    s1.async 8 (natLe 4 model ++ natLe 4 index ++ natLe 2 s.fb.coord ++ natLe 1 m.stack)

/-- A record that differs: rebuilt from its valid master, else dropped, and the array goes out of service; one that is being programmed or settles
does so once it has settled (06 Table 6.6). -/
def State.rebuildRecord (s : State) (a : ArrId) : State :=
  match s.record a with
  | none => s
  | some _ =>
    match s.masterOf a with
    | some m =>
      let r := parcelRecord m (m.position a)
      if r.digest = (s.dir a).recordDigest then s.setRecord a r
      else ((s.invalidateMaster m.hdr.model m.hdr.index).dropRecord a).outOfService a
    | none => (s.dropRecord a).outOfService a

def execRedigest (masters : List (Nat × Nat)) (records : List ArrId) (s : State) : Host.Outcome State Fault Refusal :=
  let s1 := s.wakeForTask
  if !s1.inRun then .next s1
  else .next (records.foldl State.rebuildRecord (masters.foldl (fun st m => st.invalidateMaster m.1 m.2) s1))

/-! ### INTERPOLATION_CHECK (04 R111) -/

/-- 0.25 degC in 1/16 degC. -/
def refreshStep : Nat := 4

/-- New next sets for the arrays of a tile; the sets in use stay. -/
def State.refreshTile (s : State) (t : TileId) : State :=
  (List.range 17).foldl (fun st k => st.withSet (t.array k) id) s

def execInterpolationCheck (die region : Nat) (s : State) : Host.Outcome State Fault Refusal :=
  let r := s.region die region
  let now := s.regionTemp die region
  if !s.inRun || 4 ≤ die || 64 ≤ region then .next s
  else
    match r.setTemp with
    | none => .next (s.setRegion { r with setTemp := some now })
    | some t =>
      if (now - t).natAbs < refreshStep then .next s
      else
        let ids := (s.tl.tiles.filter fun x => x.id.die == die && unitOf x.id == region).map Tile.id
        .next ((ids.foldl State.refreshTile s).modRegion die region fun x => { x with setTemp := some now })

end Sys2Proof.Machine
end

