-- ==== Sys2Proof/Machine/Calibrate.lean ====
section
/-! DEFINITION. Calibration (07): the start of a run and its claim on the spare (07 R222-R230), the fit (07 R218-R221), age and
expiry (07 R214, R227), the trace of the reference (07 R206-R210), first-ever calibration (07 R232), and stamps once the step
counter becomes VALID (10 R549). -/

set_option Elab.async false

namespace Sys2Proof.Machine

/-! ### Requests (07 R227-R229) -/

/-- Order of a tile's queue: class, time, array (07 R229), behind one whose covered run gave way to a rewrite (07 Table 7.7). A request
without a time yet comes after those with one. -/
def CalRequest.key (r : CalRequest) : Nat :=
  ((if r.first then 0 else r.cls) * (2 * 2 ^ 64) + (match r.since with
    | some t => t
    | none => 2 ^ 64)) * 32 + r.arr

/-- The queue with the class that each request has now: 1 once the calibration is invalid (07 R228). -/
def State.requests (s : State) (t : TileId) : List CalRequest :=
  sortBy CalRequest.key ((s.tile t).calQueue.map fun r =>
    let a := t.array r.arr
    if !s.calSound a then { r with cls := 1 } else r)

/-- Whether a request takes a covered run (07 Table 7.6). -/
def State.covers (s : State) (t : TileId) (r : CalRequest) : Bool :=
  r.cls != 1 && r.arr != 16 && !(s.dir (t.array 16)).retired && (s.dir (t.array r.arr)).astate != .free

/-- The record of the codes that an array holds, when it is known (07 R225): for a FREE array or a spare without a tag, the calibration record that
its cells hold. -/
def State.runRecord (s : State) (a : ArrId) : Option CodeRecord :=
  if a.arr = 16 then
    match (s.dir a).spareTag with
    | some k => s.record (a.tid.array k)
    | none => (s.cells a).filter fun r => r == calibrationRecord
  else if (s.dir a).astate = .inService then s.record a
  else if (s.dir a).astate = .free then (s.cells a).filter fun r => r == calibrationRecord
  else none

/-- Whether an array's driver or settling stands in the way of its run. -/
def Tile.busyWith (t : Tile) (k : Nat) : Bool :=
  t.programming k || t.progQueue.any fun p => p.arr == k

/-- Whether the spare stands in, loads, or is about to. -/
def Tile.spareEngaged (t : Tile) : Bool :=
  t.standInNext.isSome || (match t.spare with
    | .loading _ => true
    | .standing _ => true
    | _ => false)

/-- Whether an array is programmed with the calibration record before a run: a FREE working array, or a spare without a valid tag (07 R225). -/
def State.takesCalRecord (s : State) (a : ArrId) : Bool :=
  if a.arr = 16 then (s.dir a).spareTag.isNone else (s.dir a).astate == .free

/-- Whether a request can run now: a covered run once the spare stands in for it, a direct run only with no stand-in (07 R224). -/
def State.requestReady (s : State) (t : TileId) (r : CalRequest) : Bool :=
  let x := s.tile t
  !x.busyWith r.arr && (s.runRecord (t.array r.arr)).isSome && (r.programmed || !s.takesCalRecord (t.array r.arr)) &&
    (if s.covers t r then x.standIn == some r.arr && x.claim == some (.calibration, r.arr)
     else if r.arr = 16 then !x.spareEngaged else x.standIn != some r.arr && x.standInNext != some (some r.arr))

/-- Whether a request waits for the calibration record to be programmed (07 R225). -/
def State.needsCalRecord (s : State) (t : TileId) (r : CalRequest) : Bool :=
  let a := t.array r.arr
  !(s.tile t).busyWith r.arr && !(s.dir a).retired && !r.programmed && s.takesCalRecord a && !(r.arr == 16 && (s.tile t).spareEngaged)

/-! ### CALIBRATION_RUN_START (07 R222, R225, R229) -/

/-- A claim for a run that is not to be covered any more ends: its request has turned class 1, the spare is retired, or none waits (07
R224, R228). -/
def State.dropStaleClaim (s : State) (t : TileId) : State :=
  match (s.tile t).claim with
  | some (.calibration, k) =>
    if ((s.tile t).run.any fun r => r.arr == k) || (s.requests t).any fun r => r.arr == k && s.covers t r then s else s.endClaim t
  | _ => s

/-- Whether a request needs the spare: its own, unless it waits for a record, or one for a covered run that the spare can be claimed for. -/
def State.needsSpare (s : State) (t : TileId) (r : CalRequest) : Bool :=
  if r.arr = 16 then (s.runRecord (t.array 16)).isSome || s.takesCalRecord (t.array 16)
  else s.covers t r && (s.dir (t.array r.arr)).astate == .inService && s.claimable t r.arr

/-- The spare goes to the first request that needs it, unless a rewrite of the tile takes it (07 R229); to its own request it goes without a
claim. -/
def State.claimForRun (s : State) (t : TileId) : State :=
  match (s.requests t).find? (s.needsSpare t) with
  | some r =>
    if r.arr = 16 || s.sealing || (s.tile t).rewrites.any fun k => s.rewritable (t.array k) && s.claimable t k && s.calValid (t.array 16) then s
    else s.claimSpare t .calibration r.arr
  | none => s

/-- Arrays without a known record get the calibration record. -/
def State.queueCalRecords (s : State) (t : TileId) : State :=
  let due := (s.requests t).filter (s.needsCalRecord t)
  s.modTile t fun x => { x with progQueue := x.progQueue ++ due.map fun r => mkProgram r.arr r.arr true }

def State.startRun (s : State) (t : TileId) (r : CalRequest) : State :=
  s.modTile t fun x =>
    { x with calQueue := x.calQueue.filter (fun q => q.arr != r.arr),
             run := some { arr := r.arr, covered := s.covers t r, cls := r.cls, since := r.since, fires := 0, temp := 0,
                           started := none, repeated := false } }

/-- Whether a run may begin on a tile (07 R222, 16 Table 16.9). -/
def State.runsMayBegin (s : State) (t : TileId) : Bool :=
  s.enabled t && !s.isDrained && s.bt.arraysReady && s.runWindow t && s.traced && !s.workStops

/-- The tile's run slot takes the next request that is ready; one that is due wakes P1 Hold (15 Table 15.2). -/
def execCalibrationRunStart (t : TileId) (s : State) : Host.Outcome State Fault Refusal :=
  let s0 := if s.runsMayBegin t && !(s.tile t).calQueue.isEmpty then s.wakeForTask else s
  if !s0.inRun || !s0.runsMayBegin t then .next s0
  else
    let s1 := ((s0.dropStaleClaim t).claimForRun t).queueCalRecords t
    match (s1.requests t).find? (s1.requestReady t) with
    | some r => .next (if (s1.tile t).run.isSome then s1 else s1.startRun t r)
    | none => .next s1

/-! ### CALIBRATION_FIT_DONE (07 R218-R221) -/

/-- The tile record after a run (07 R221). -/
def TileRecord.calibrated (r : TileRecord) (k : Nat) (a : Anchor) (t : Stamp) : TileRecord :=
  ({ r with field := true, avalid := r.avalid.set k true, anchors := r.anchors.set k a, atimes := r.atimes.set k t } : TileRecord).seal

def State.setTileRecord (s : State) (r : TileRecord) : State :=
  { s with cl := { s.cl with store := putBy (fun x => x.tid == r.tid) r s.cl.store } }

/-- After a run of the spare, a claim that waited for its calibration takes effect (06 Table 6.7). -/
def State.spareCalibrated (s : State) (t : TileId) : State :=
  match (s.tile t).claim, (s.tile t).spare with
  | some c, .ready j => if c.2 = j then s.spareReady t j else s
  | _, _ => s

/-- What a successful run writes. -/
def State.runSucceeds (s : State) (t : TileId) (r : CalRun) (anchor : Anchor) (shape : List Anchor) : State :=
  let a := t.array r.arr
  let s1 := s.withSet a fun st => st.setFranking a
    { valid := true, calTime := r.started, entries := buildEntries anchor shape, directRun := false, lastFailed := false }
  let s2 := s1.setTileRecord ((s1.tileRecord t).calibrated r.arr anchor r.started)
  let trims := at' s2.cl.trims t.die (0, 0)
  let s3 := { s2 with cl := { s2.cl with runTrims := setKey s2.cl.runTrims a trims } }
  let s4 := s3.modTile t fun x =>
    { x with run := none, calDone := x.calDone ++ [(r.arr, r.started)],
             standInNext := if r.covered then some none else x.standInNext }
  let s5 := if (s4.tile t).scans.any fun e => e.1 == r.arr then s4.startScan a else s4
  if r.arr = 16 then s5.spareCalibrated t else s5

/-- A waiting request of an array whose calibration is invalid is of class 1 from now on (07 R228). -/
def State.promote (s : State) (a : ArrId) : State :=
  if s.calSound a then s
  else s.modTile a.tid fun t => { t with calQueue := t.calQueue.map fun r => if r.arr = a.arr then { r with cls := 1 } else r }

/-- An array's run has failed with its repeat: the record, and a request of class 1 (07 R220, R227). -/
def State.runFailed (s : State) (a : ArrId) : State := (s.raise 0x000A a.die [locOf a]).askIfUnsound a

/-- A run fails: it is repeated once, once it may begin (07 R222); after a second failure its array asks for a run of class 1, and the failure is
a permanent fault of the module (07 R220, R227). A request that waits behind it is of class 1 from the first failure on (07 R228). -/
def State.runFails (s : State) (t : TileId) (r : CalRun) : State :=
  let a := t.array r.arr
  let s1 := (s.modFranking a fun f => { f with directRun := false, lastFailed := true }).promote a
  if !r.repeated then s1.modTile t fun x => { x with run := some { r with fires := 0, repeated := true } }
  else
    let s2 := s1.modTile t fun x => { x with run := none, standInNext := if r.covered then some none else x.standInNext }
    (s2.runFailed a).drain 6 0x000A t.die (locOf a)

/-- The anchor that the fit of a run sets, from its raw codes and the record of the codes that the array holds; none where the run fails
(07 R218-R220). -/
def State.fitAnchor (s : State) (a : ArrId) (rec : CodeRecord) (temp : Int) (raw : List (List Int)) (overRange : Bool) : Option Anchor :=
  let now := interpolateSet temp (s.franking a).entries
  let fit := fitRun rec (s.drift a).delta now raw
  let tr := s.tileRecord a.tid
  let anchor := newAnchor (at' tr.anchors a.arr neutralAnchor) fit.measured now
  if overRange || fit.fail || (buildEntries anchor tr.shape).any fun e => !anchorInSpan e then none else some anchor

def execCalibrationFitDone (t : TileId) (raw : List (List Int)) (overRange : Bool) (s : State) :
    Host.Outcome State Fault Refusal :=
  match (s.tile t).run with
  | none => .next s
  | some r =>
    let a := t.array r.arr
    match s.runRecord a with
    | none => .next s
    | some rec' =>
      if !s.inRun || r.fires != 320 then .next s
      else
        match s.fitAnchor a rec' r.temp raw overRange with
        | none => .next (s.active.runFails t r)
        | some anchor => .next (s.active.runSucceeds t r anchor (s.tileRecord t).shape)

/-! ### CALIBRATION_AGE_TIMER and CALIBRATION_EXPIRY (07 R214, R227) -/

/-- Time has passed until `n` ticks after a CAL_TIME. -/
def State.afterCal (s : State) (a : ArrId) (n : Nat) : State :=
  match (s.franking a).calTime with
  | some t => if (s.franking a).valid then s.counterTo (t + n) else s
  | none => s

def execCalibrationAgeTimer (a : ArrId) (s : State) : Host.Outcome State Fault Refusal :=
  if !s.firmwareRuns || !s.enabled a.tid || 16 < a.arr || !s.tm.valid || !(s.franking a).valid || !(a.arr == 16 || s.holdsRecord a) then .next s
  else .next ((s.afterCal a days7).requestCal a 4)

def execCalibrationExpiry (a : ArrId) (s : State) : Host.Outcome State Fault Refusal :=
  if !s.firmwareRuns || !s.enabled a.tid || 16 < a.arr || !s.tm.valid then .next s
  else .next (((s.afterCal a days14).askIfUnsound a).promote a)

/-! ### The trace (07 R206-R210) -/

/-- A trace takes the five Survey ADCs (15 R515). -/
def State.beginTraceAll (s : State) : State :=
  (List.range 5).foldl (fun st n => st.modAdc n fun d =>
    { d with trace := true, ctl := BitVec.ofNat 32 (st.stored (adcBase n)) }) s

def State.startTrace (s : State) : State :=
  { (s.beginTraceAll) with cl := { s.cl with busy := true, traceBegan := some s.stamp, pendingTrace := false } }

/-- The hour after the start of the previous trace (07 R209). -/
def State.hourAfterTrace (s : State) : Option State :=
  match s.cl.traceBegan with
  | some (some t) => some (s.counterTo (t + 3600 * ticksPerSec))
  | _ => none

/-- A trace that is due begins in P0 Run. Before arrays are ready none does but the start-up trace (16 Table 16.9), which a further trace takes the
place of while none has passed, since arrays are ready only then (DEDUCED, log entry 37). -/
def execTraceTimer (s : State) : Host.Outcome State Fault Refusal :=
  let due := if s.cl.pendingTrace then some s else s.hourAfterTrace
  match due with
  | none => .next s
  | some s1 =>
    let s2 := s1.wakeForTask
    .next (if s2.inRun && s2.firmwareRuns && !s2.cl.busy && !s2.workStops && (s2.bt.arraysReady || s2.cl.refTime.isNone) then s2.startTrace else s2)

/-- Result of a trace from the five REFIN readings in uV (07 Table 7.2). Readings that meet both result 2 and result 3 give 3 (DESIGN CHOICE, log
entry 61). -/
def traceResult (refin : List Nat) : Nat :=
  if refin.any (· < 500000) then 3 else if refin.any fun v => v < 990000 || 1010000 < v then 2 else 1

/-- A trim that brings a value to nominal, in steps of 0.005 %: kept while the value, scaled by the die's REFIN reading, lies within
0.02 % (07 R206). -/
def newTrim (old : Int) (raw refin nominal : Nat) : Int :=
  let off : Int := (raw : Int) * 1000000 - nominal * refin
  if 5000 * off.natAbs ≤ nominal * refin then old else old - roundEven (off * 20000) (nominal * refin)

/-- Trims of the four dies after a trace: ladder span, nominal 375.0 mV, and VCREF, nominal 0.640 V. -/
def tracedTrims (old : List (Int × Int)) (refin ladder vcref : List Nat) : List (Int × Int) :=
  (List.range 4).map fun n =>
    let o := at' old n (0, 0)
    let r := Nat.max 1 (at' refin n 1)
    (newTrim o.1 (at' ladder n 0) r 375000, newTrim o.2 (at' vcref n 0) r 640000)

/-- Whether a trim differs by more than 0.1 % from that of an array's last run. -/
def trimMoved (new old : Int × Int) : Bool := 20 < (new.1 - old.1).natAbs || 20 < (new.2 - old.2).natAbs

/-- Class 3 requests after a trim change of a die (07 R208). -/
def State.trimRequests (s : State) (die : Nat) (new : Int × Int) : State :=
  let moved (a : ArrId) : Bool := trimMoved new (lookupD s.cl.runTrims a (at' s.cl.runTrimsBase die (0, 0)))
  let spares := ((List.range 16384).map fun k => (⟨die, k, 16⟩ : ArrId)).filter fun a =>
    moved a && s.enabled a.tid && !(s.dir a).retired
  let works := ((s.wt.records.map (·.1)).filter fun a => a.die == die && moved a)
  (works ++ spares).foldl (fun st a => st.requestCal a 3) s

def State.tracePasses (s : State) (refin ladder vcref : List Nat) : State :=
  let new := tracedTrims s.cl.trims refin ladder vcref
  let changed := (List.range 4).filter fun n => at' new n (0, 0) != at' s.cl.trims n (0, 0)
  let s1 := { s with cl := { s.cl with
    refTime := s.cl.traceBegan, untraced := false,
    nextTrims := (List.range 4).map fun n => if changed.contains n then some (at' new n (0, 0)) else none } }
  changed.foldl (fun st n => st.trimRequests n (at' new n (0, 0))) s1

/-- The readings of a trace that ends (07 R206, R207). -/
def State.traceEnds (s : State) (refin : List Nat) : State :=
  let hub := at' refin 4 0
  ({ s with cl := { s.cl with busy := false, last := traceResult refin, microvolts := Nat.min hub 0xFFFFF,
                              sat := 1048575 ≤ hub } }).endTraceAll

def execTraceDone (refin ladder vcref : List Nat) (s : State) : Host.Outcome State Fault Refusal :=
  if !s.cl.busy then .next s
  else
    let s1 := s.traceEnds refin
    .next (if traceResult refin = 1 then s1.tracePasses refin ladder vcref
      else s1.raise 0x000B 6 (traceResult refin :: (List.range 5).map fun n => at' refin n 0))

def execReferenceUntraced (s : State) : Host.Outcome State Fault Refusal :=
  match s.cl.refTime with
  | some (some t) =>
    let s1 := s.counterTo (t + hours24)
    .next (if s1.traced || s1.cl.untraced || !s1.hcoreRuns then s
      else ({ s1 with cl := { s1.cl with untraced := true } }).raise 0x000C 6 [t % 2 ^ 32, t / 2 ^ 32])
  | _ => .next s

/-! ### FIRST_EVER_CALIBRATION (07 R232) -/

/-- Whether some tile record lacks FIELD. -/
def State.lacksField (s : State) : Bool := !s.cl.storeField || s.cl.store.any fun r => !r.field || r.version != 1

/-- One array after the first-ever calibration: the calibration record in its cells, one cycle more, retired by its 30,000th (06 R185, R186). A
retired array is not programmed. -/
def firstEntry (now : Stamp) (e : ArrId × DirEntry) : ArrId × DirEntry :=
  if e.2.retired then e
  else (e.1, { e.2 with wear := e.2.wear + 1, retired := 30000 ≤ e.2.wear + 1, spareTag := none, progTime := now,
                        codeDigest := calibrationRecord.codeDigest, recordDigest := calibrationRecord.digest })

/-- Every array of the module that is enabled. -/
def State.allArrays (s : State) : List ArrId :=
  (List.range 4).flatMap fun die => (List.range 16384).flatMap fun tile =>
    if s.enabled ⟨die, tile⟩ then (List.range 17).map fun k => ⟨die, tile, k⟩ else []

/-- The wear warnings of a first-ever calibration: of the arrays that it has brought to 28,000 cycles (06 R185). -/
def State.firstWarnings (s : State) (before : State) (keep : ArrId → Bool) : State :=
  let listed := ((before.wt.directory.filter fun e => !keep e.1 && !e.2.retired && e.2.wear == 27999).map Prod.fst)
  let others := if before.wt.wearBase = 27999 then s.allArrays.filter fun a => !before.wt.directory.any fun e => e.1 == a else []
  (listed ++ others).foldl (fun st a => st.raise 0x000E 6 [locOf a, 28000]) s

/-- A tile record after the runs of a first-ever calibration: the anchor of each array that was run, its AVALID bit where the run did not
fail. An array that a parcel has taken was not run and keeps what it had. -/
def firstRecord (ran : ArrId → Bool) (anchors : List (ArrId × Option Anchor)) (now : Stamp) (r : TileRecord) : TileRecord :=
  let arr (k : Nat) : ArrId := r.tid.array k
  let old (k : Nat) : Anchor := at' r.anchors k neutralAnchor
  let got (k : Nat) : Option Anchor := lookupD anchors (arr k) (some (old k))
  ({ r with version := 1, field := true,
            avalid := (List.range 17).map fun k => if ran (arr k) then (got k).isSome else at' r.avalid k false,
            atimes := (List.range 17).map fun k => if ran (arr k) then now else at' r.atimes k none,
            anchors := (List.range 17).map fun k => if ran (arr k) then (got k).getD (old k) else old k } : TileRecord).seal

/-- Runs counted in the groups: seventeen for each enabled tile, without those of the arrays `not` that were not run or whose run failed. -/
def State.firstGroups (s : State) (now : Stamp) (not : List ArrId) : List (Nat × Nat × Stamp) :=
  (List.range 256).map fun g =>
    let n := ((List.range 256).filter fun i => s.enabled ⟨g / 64, 256 * (g % 64) + i⟩).length
    let out := ((not.eraseDups).filter fun a => s.enabled a.tid && groupOf a.tid == g).length
    let old := (s.cl.groups.find? fun x => x.1 == g).getD (g, 0, some 0)
    (g, old.2.1 + (17 * n - out), if 17 * n ≤ out then old.2.2 else now)

/-- Whether a parcel has taken an array before its run. -/
def State.takenByParcel (s : State) (a : ArrId) : Bool := a.arr != 16 && (s.dir a).astate != .free

/-- The phases of 07 Table 7.8 after a trace that passed: every array programmed with the calibration record and calibrated, every tile
record written. An array that a parcel has taken meanwhile, or that is retired, keeps its state; an array not listed measures what its entries
say. -/
def State.firstEver (s : State) (anchors : List (ArrId × Option Anchor)) : State :=
  let now := s.stamp
  let keep (a : ArrId) : Bool := s.takenByParcel a || (s.dir a).retired
  let kept := (s.wt.directory.map (·.1)).filter keep
  let touched := ((anchors.map (·.1) ++ kept).map ArrId.tid).eraseDups
  let listed := touched.foldl (fun l t => if l.any fun r => r.tid == t then l else l ++ [s.tileRecord t]) s.cl.store
  { s with
    wt := { s.wt with
      directory := s.wt.directory.map fun e => if keep e.1 then e else firstEntry now e, progBase := now,
      franking := s.wt.franking.filter (fun e => keep e.1), drift := s.wt.drift.filter (fun e => keep e.1),
      cells := s.wt.cells.filter (fun e => keep e.1), calCells := true,
      wearBase := if 30000 ≤ s.wt.wearBase then s.wt.wearBase else s.wt.wearBase + 1 },
    tl := { s.tl with tiles := s.tl.tiles.map fun (t : Tile) => { t with current := [], next := [] } },
    cl := { s.cl with store := listed.map (firstRecord (fun a => !keep a) anchors now), storeField := true, storeTime := now,
                      restored := true, groups := s.firstGroups now (kept ++ ((anchors.filter fun e => e.2.isNone).map Prod.fst)), runTrims := [], runTrimsBase := s.cl.trims } }

/-- The trims of the start-up trace, in force before the runs of the Calibrate phase. -/
def State.startTrims (s : State) (refin ladder vcref : List Nat) : State :=
  { s with cl := { s.cl with refTime := s.cl.traceBegan, untraced := false, trims := tracedTrims s.cl.trims refin ladder vcref } }

/-- The anchors that the direct runs of a first-ever calibration set, each from its raw codes (07 R218). -/
def State.firstAnchors (s : State) (runs : List (ArrId × List (List Int) × Bool)) : List (ArrId × Option Anchor) :=
  runs.map fun e => (e.1, s.fitAnchor e.1 calibrationRecord (s.tileTemp e.1.tid) e.2.1 e.2.2)

/-- Each array whose run failed with its repeat has its record and its request; the first is a permanent fault of the module (07 R220, R227). -/
def State.firstFails (s : State) (anchors : List (ArrId × Option Anchor)) : State :=
  let failed := (anchors.filter fun e => e.2.isNone).map Prod.fst
  let s1 := failed.foldl State.runFailed s
  match failed with
  | a :: _ => s1.drain 6 0x000A a.die (locOf a)
  | [] => s1

/-- Whether every region with an enabled tile lies in the programming window, which lies in that of the runs (06 R181, 07 R222): until then the
first-ever calibration does not begin (DESIGN CHOICE, log entry 61). -/
def State.allProgrammable (s : State) : Bool :=
  (List.range 256).all fun g => s.progWindow ⟨g / 64, 256 * (g % 64)⟩ || (List.range 256).all fun i => !s.enabled ⟨g / 64, 256 * (g % 64) + i⟩

/-- A first-ever calibration ends its Calibrate phase, which begins once HBM is initialised and the step counter is VALID (16 R540). -/
def execFirstEverCalibration (trace : TraceReadings) (runs : List (ArrId × List (List Int) × Bool)) (s : State) :
    Host.Outcome State Fault Refusal :=
  if !s.inRun || !s.firmwareRuns || !s.lacksField || s.isDrained || !s.tm.valid || !s.bt.hbmReady || !s.allProgrammable then .next s
  else
    let s1 := s.startTrace.traceEnds trace.refin
    if traceResult trace.refin = 1 then
      let s2 := s1.startTrims trace.refin trace.ladder trace.vcref
      let anchors := s2.firstAnchors runs
      .next (((s2.firstEver anchors).firstWarnings s2 fun a => s2.takenByParcel a).firstFails anchors)
    else .next (s1.raise 0x000B 6 (traceResult trace.refin :: (List.range 5).map fun n => at' trace.refin n 0))

/-! ### Temperature during a run (07 R220) -/

/-- A run whose region has moved by more than 1 degC from that of its first fire begins again, as soon as it may begin (07 R222); until then no direct
run is in progress, and VALID is again what R214 gives (07 Table 7.7). -/
def State.watchRun (s : State) (t : TileId) : State :=
  match (s.tile t).run with
  | some r =>
    if 0 < r.fires ∧ r.fires < 320 ∧ 16 < (s.tileTemp t - r.temp).natAbs then
      let s1 := s.modTile t fun x => { x with run := some { r with fires := 0 } }
      if r.covered then s1 else s1.modFranking (t.array r.arr) fun f => { f with directRun := false }
    else s
  | none => s

/-! ### Stamps at the VALID tick (10 R549) -/

/-- The stamp of something that happened while the counter was INVALID. -/
def Stamp.at (v : Nat) (t : Stamp) : Stamp := some (t.getD v)

def CalRequest.at (v : Nat) (r : CalRequest) : CalRequest := { r with since := Stamp.at v r.since }

/-- Every stamp that waited takes the tick at which the counter becomes VALID. -/
def State.resolveStamps (s : State) (v : Nat) : State :=
  { s with
    wt := { s.wt with
      directory := s.wt.directory.map fun (e : ArrId × DirEntry) => (e.1, { e.2 with progTime := Stamp.at v e.2.progTime }),
      progBase := Stamp.at v s.wt.progBase,
      drift := s.wt.drift.map fun (e : ArrId × Drift) => (e.1, { e.2 with t0 := Stamp.at v e.2.t0, t1 := Stamp.at v e.2.t1 }),
      franking := s.wt.franking.map fun (e : ArrId × Franking) => (e.1, { e.2 with calTime := Stamp.at v e.2.calTime }) },
    tl := { s.tl with tiles := s.tl.tiles.map fun (t : Tile) =>
      { t with calQueue := t.calQueue.map (CalRequest.at v),
               run := t.run.map fun (r : CalRun) =>
                 { r with since := Stamp.at v r.since, started := if r.fires = 0 then r.started else Stamp.at v r.started },
               scanBegun := t.scanBegun.map (fun e => (e.1, Stamp.at v e.2)),
               calDone := t.calDone.map fun e => (e.1, Stamp.at v e.2) } },
    dp := { s.dp with ports := s.dp.ports.map fun (d : DspPort) =>
      { d with intake0 := { d.intake0 with lastRead := Stamp.at v d.intake0.lastRead },
               intake1 := { d.intake1 with lastRead := Stamp.at v d.intake1.lastRead } } },
    cl := { s.cl with refTime := s.cl.refTime.map (Stamp.at v), traceBegan := s.cl.traceBegan.map (Stamp.at v),
                      storeTime := Stamp.at v s.cl.storeTime,
                      groups := s.cl.groups.map fun e => (e.1, e.2.1, Stamp.at v e.2.2),
                      store := s.cl.store.map fun (r : TileRecord) => TileRecord.seal { r with atimes := r.atimes.map (Stamp.at v) } } }

end Sys2Proof.Machine
end

