-- ==== Sys2Proof/Machine/Links.lean ====
section
/-! DEFINITION. Links: flits on Courier and Dispatch ports (10 R312-R315, 11 R357), training (10 R319, 11 R356), adverts and port
states (10 R316-R321, Table 10.6), die-to-die bridges (01 R10), and the route table (10 R331-R333). -/

set_option Elab.async false

namespace Sys2Proof.Machine

/-! ### Which ports carry flits -/

/-- P0 to P2: ports carry flits. -/
def State.linksPowered (s : State) : Bool :=
  s.pw.supplied && s.pw.stop.isNone && (s.pw.state == .p0 || s.pw.state == .p1 || s.pw.state == .p2)

/-- A Courier port that has trained and is not being retrained. -/
def CourierPort.carries (p : CourierPort) : Bool := p.state == .up || p.state == .keepalive || p.state == .check

def State.courierAlive (s : State) (k : Nat) : Bool := s.linksPowered && k < 12 && (s.port k).carries
def State.dispatchAlive (s : State) (d : Nat) : Bool := s.linksPowered && d < 2 && (s.dsp d).state == .up

/-- The Dispatch port that a link number names. -/
def dispatchOf (link : Nat) : Nat := link - 12

/-! ### Flits (10 R314) -/

/-- A flit on a Courier port. -/
def CourierPort.receive (p : CourierPort) (now time : Nat) (f : Flit) : CourierPort :=
  let r := p.link.receive (p.sender now time) trimCourier f
  ({ p with link := r.2 }).acked r.1

def execFlitReceive (link : Nat) (f : Flit) (s : State) : Host.Outcome State Fault Refusal :=
  if f.fkind = 5 && link < 12 then .next s
  else if s.courierAlive link then .next (s.modPort link fun p => p.receive s.tm.tick s.localTime f)
  else if 12 ≤ link && s.dispatchAlive (dispatchOf link) then
    .next (s.modDsp (dispatchOf link) fun d => { d with link := (d.link.receive (dispatchSender s.tm.tick) trimTuiven f).2 })
  else .next s

/-- 2 us in ticks. -/
def resendTicks : Nat := 500

/-- The tick at which the oldest flit of a replay buffer has waited 2 us. -/
def Link.resendDue (l : Link) : Option Nat := (l.replay.head?).map fun f => f.sent + resendTicks

def execFlitResendTimeout (link : Nat) (s : State) : Host.Outcome State Fault Refusal :=
  if s.courierAlive link then
    match (s.port link).link.resendDue with
    | none => .next s
    | some t =>
      let s1 := s.advanceTo t
      .next (s1.modPort link fun p => { p with link := p.link.resend (p.sender s1.tm.tick s1.localTime) })
  else if 12 ≤ link && s.dispatchAlive (dispatchOf link) then
    match (s.dsp (dispatchOf link)).link.resendDue with
    | none => .next s
    | some t =>
      let s1 := s.advanceTo t
      .next (s1.modDsp (dispatchOf link) fun d => { d with link := d.link.resend (dispatchSender s1.tm.tick) })
  else .next s

/-! ### DOWN and retrain (10 R311, R315, R336) -/

/-- Whether the cause of a DOWN holds as far as the state shows: eight resends of the oldest flit. -/
def Link.downFor (l : Link) (c : DownCause) : Bool :=
  match c with
  | .resends => l.replay.any fun f => 8 ≤ f.resends
  | .lockLost => true
  | .silence => true

/-- A retrain begins: replay buffer and sequence numbers kept, adverts exchanged again. -/
def CourierPort.down (p : CourierPort) : CourierPort :=
  { p with state := .retrain, link := { p.link with downs := p.link.downs + 1 }, locked := [], advertsSame := 0, advertsSent := 0 }

def execPortDown (link : Nat) (cause : DownCause) (s : State) : Host.Outcome State Fault Refusal :=
  if link < 12 then
    let p := s.port link
    .next (if s.linksPowered && (p.state == .up || p.state == .keepalive) && p.link.downFor cause then
        s.modPort link CourierPort.down
      else s)
  else
    let d := s.dsp (dispatchOf link)
    .next (if s.dispatchAlive (dispatchOf link) && d.link.downFor cause then
        s.modDsp (dispatchOf link) fun d => { d with state := DspState.retrain, link := { d.link with downs := d.link.downs + 1 } }
      else s)

/-- LANES of a link: the groups in use from those usable at both ends (10 R311). -/
def usableLanes (own partner : Nat) : Nat :=
  let g := Nat.land own partner % 4
  if g = 3 then 3 else if bit g 0 then 1 else if bit g 1 then 2 else 0

/-- A port whose link carries flits again: transfer resumes from ACK. -/
def Link.resume (l : Link) (c : Sender) : Link :=
  let l1 := l.resend c
  ({ l1 with replay := l1.replay.map fun (f : SentFlit) => { f with resends := 0 } }).flush c

/-- The jobs of the table that another module serves. -/
def State.jobsWith (s : State) (c : Nat) : List Job := s.fb.jobs.filter fun j => j.members.contains c && c != s.fb.coord

/-- The notice of a neighbour that cannot be reached (10 R352): one module-down for each of its jobs, to the other members in reach, whether or
not this module is one itself. -/
def State.notifyDown (s : State) (c : Nat) : State :=
  if s.reaches c || !s.fb.coordValid then s
  else (s.jobsWith c).foldl (fun st j =>
    ((st.jobPeers j.num).filter fun m => m != c && st.reaches m).foldl (fun a m =>
      a.originate 5 m j.num (controlPayload 0 2 c j.num)) st) s

/-- A frame of a failed port sent again on its route (10 R336); one without a usable port is dropped, and its job is aborted (10 R334). -/
def State.sendAgain (s : State) (o : OutFrame) : State :=
  s.sendOrAbort { o.frame.hdr with hops := o.frame.hdr.hops - 1 } o.frame.payload

/-- A Courier port becomes FAILED: its record, its frames on the detour in order (10 R336), the notice of what it cut off. -/
def State.portFails (s : State) (k reason : Nat) : State :=
  let p := s.port k
  let s1 := (s.modPort k fun q => { q with state := PortState.failed, out := [], link := q.link.fresh }).raise 0x0030 4 [k + 256 * reason]
  let s2 := s1.modPort k fun q => { q with link := { q.link with waiting := [] } }
  (p.out.foldl State.sendAgain s2).notifyDown p.partner

/-- The lane groups on which all four receivers lock, by the lane numbers of the markers (10 R310, R311). -/
def lockedLanes (l : List (Nat × Nat × Bool)) : Nat :=
  let has (n : Nat) : Bool := l.any fun e => e.2.1 == n
  b2n (has 0 && has 1 && has 2 && has 3) + 2 * b2n (has 4 && has 5 && has 6 && has 7)

/-- A port after P4 Seal shows its generation and what the partner's advert says again (13 R459, 10 R318). -/
def CourierPort.restored (p : CourierPort) : CourierPort :=
  if p.gen ≠ 0 then p
  else
    match p.partnerAdv with
    | some a => { p with gen := p.trainGen, partner := a.coord % 1024, pport := a.port % 16, features := Nat.land a.features 0x1FF }
    | none => { p with gen := p.trainGen }

/-- A port retrained on the lane groups that both adverts report (10 R311). -/
def CourierPort.retrained (p : CourierPort) (g : Nat) (goal : PortState) (now time : Nat) : CourierPort :=
  let q : CourierPort := { p.restored with state := goal, lanes := g }
  { q with link := q.link.resume (q.sender now time) }

/-- A retrain succeeds once three adverts have come, on the lane groups that its own and the partner's report; `lanes` are those on which its
receivers lock, the LANES of its own advert. -/
def execRetrainDone (link lanes : Nat) (s : State) : Host.Outcome State Fault Refusal :=
  if !s.linksPowered then .next s
  else if link < 12 then
    let p := s.port link
    if p.state != .retrain || lanes != lockedLanes p.locked || p.advertsSame < 3 then .next s
    else
      let g := usableLanes lanes (match p.partnerAdv with
        | some a => a.lanes
        | none => 0)
      if g = 0 then .next (s.portFails link 2)
      else
        let goal := if s.pw.state = .p2 then PortState.keepalive else PortState.up
        .next (s.modPort link fun q => q.retrained g goal s.tm.tick s.localTime)
  else
    let d := s.dsp (dispatchOf link)
    if 2 ≤ dispatchOf link || d.state != .retrain then .next s
    else .next (s.modDsp (dispatchOf link) fun d => { d with state := DspState.up, link := d.link.resume (dispatchSender s.tm.tick) })

def execRetrainTimeout (link : Nat) (s : State) : Host.Outcome State Fault Refusal :=
  if !s.linksPowered then .next s
  else if link < 12 then
    .next (if (s.port link).state == .retrain then s.portFails link 2 else s)
  else
    .next (if dispatchOf link < 2 && (s.dsp (dispatchOf link)).state == .retrain then
        s.modDsp (dispatchOf link) fun d => { d with state := DspState.failed }
      else s)

/-! ### Dispatch training (11 R356) -/

/-- The generation at which a Dispatch port trains now. -/
def State.dspGen (s : State) (port : Nat) : Nat := if s.bt.compat || (s.dsp port).fallback then 1 else 2

def execDispatchTrainingDone (port gen : Nat) (s : State) : Host.Outcome State Fault Refusal :=
  .next (if s.linksPowered && port < 2 && (s.dsp port).state == .training && gen == s.dspGen port then
      s.modDsp port fun d => { d with state := DspState.up, gen := gen, link := d.link.fresh.flush (dispatchSender s.tm.tick) }
    else s)

def execDispatchTrainingTimeout (port : Nat) (s : State) : Host.Outcome State Fault Refusal :=
  .next (if s.linksPowered && port < 2 && (s.dsp port).state == .training then
      s.modDsp port fun d => if s.dspGen port = 2 then { d with fallback := true } else { d with state := DspState.failed }
    else s)

/-! ### Adverts and negotiation (10 R316-R321) -/

/-- FEATURES that the LM3 sends (10 Table 10.5). -/
def courierFeatures : Nat := 0x1FF

/-- The advert that a port sends (10 Table 10.4). -/
def State.ownAdvert (s : State) (k : Nat) : Advert :=
  { version := 1, gens := 3, coord := s.fb.coord, coordValid := s.fb.coordValid, port := k, twist := s.fb.twist, dim := s.fb.dim,
    lanes := lockedLanes (s.port k).locked, features := courierFeatures, fabricId := s.fb.fabricId, serial := s.serial, crcOk := true }

/-- The 64 bytes of an advert (10 Table 10.4). -/
def advertBytes (a : Advert) : Bytes :=
  sealed (natLe 1 a.version ++ natLe 1 a.gens ++ natLe 2 (a.coord % 1024 + 32768 * b2n a.coordValid) ++ natLe 1 a.port ++ natLe 1 (a.twist % 32) ++
    natLe 1 a.dim ++ natLe 1 (a.lanes % 4) ++ natLe 8 a.features ++ natLe 4 a.fabricId ++ natLe 4 0 ++ natLe 8 a.serial ++ natLe 28 0)

/-- The flit of an advert (10 R317): FKIND 5, SEQ, ACK and CREDIT 0. -/
def advertFlit (a : Advert) : SentFlit := newFlit 0 0 5 (advertBytes a)

/-- What lane `n` of a port sends with an advert: its marker, then its part of the flit, dealt over the four lanes of its group (10 R317). -/
def advertLane (flit : Bytes) (n : Nat) : Bytes := laneMarker n ++ dealt 4 (n % 4) flit 0

/-- Both groups of four lanes of a port carry an advert. -/
def Fabric.advertise (f : Fabric) (port : Nat) (a : Advert) : Fabric :=
  let flit := (advertFlit a).bytes
  { f with
    adverts := setKey f.adverts port a,
    advertLanes := (List.range 8).foldl (fun l n => setKey l (port, n) (advertLane flit n)) f.advertLanes }

/-- Adverts travel until a generation is chosen, and again during a retrain, until three identical ones have come. -/
def CourierPort.advertises (p : CourierPort) : Bool := p.state == .detect || (p.state == .retrain && p.advertsSame < 3)

def execAdvertTimer (port : Nat) (s : State) : Host.Outcome State Fault Refusal :=
  .next (if s.linksPowered && port < 12 && (s.port port).advertises then
      let s1 := s.modPort port fun p => { p with advertsSent := p.advertsSent + 1 }
      { s1 with fb := s1.fb.advertise port (s.ownAdvert port) }
    else s)

/-- The dimension-`l` neighbour of a coordinate (10 R332). -/
def neighbour (twist l u : Nat) : Nat :=
  (List.range 5).foldl (fun v i =>
    if bit twist i && 2 * i + 1 < l && bit u (2 * i) then v ^^^ (2 ^ (2 * i + 1)) else v) (u ^^^ (2 ^ l))

/-- Whether a partner matches (10 R321). -/
def State.partnerMatches (s : State) (k : Nat) (a : Advert) : Bool :=
  a.fabricId == s.fb.fabricId && a.twist == s.fb.twist && a.dim == s.fb.dim &&
    (if k < 10 then a.port == k && a.coord == neighbour s.fb.twist k s.fb.coord else a.port == 10 || a.port == 11)

/-- CHECK (10 Table 10.6): UP with a partner that matches, whose coordinate and PORT are those of its advert (10 R321), MISWIRED with one that
does not; it waits while a coordinate is not set. -/
def State.checkPort (s : State) (k : Nat) : State :=
  let p := s.port k
  match p.partnerAdv with
  | none => s
  | some a =>
    if p.state != .check || !s.fb.coordValid || !a.coordValid then s
    else if s.partnerMatches k a then
      s.modPort k fun q => ({ q with state := PortState.up, partner := a.coord % 1024, pport := a.port % 16 }).flush s.tm.tick s.localTime
    else
      (s.modPort k fun q => { q with state := PortState.miswired }).raise 0x0031 4
        [k, a.coord % 1024 + 65536 * (a.port % 16), a.fabricId, a.dim % 256 + 256 * (a.twist % 256)]

/-- The highest generation up to `top` that the LM3 and the partner have. -/
def commonGen (top gens : Nat) : Nat := if 2 ≤ top && bit gens 1 then 2 else if 1 ≤ top && bit gens 0 then 1 else 0

/-- Three identical adverts have come: partner, features and generation are chosen (10 R318, R319). Without a usable lane group the port is FAILED
(10 R311); its record gives the reason of a port on which no generation trains, as 13 Table 13.7 has none of its own (DESIGN CHOICE, log entry
64). -/
def State.choose (s : State) (k : Nat) (a : Advert) : State :=
  let lanes := usableLanes (lockedLanes (s.port k).locked) a.lanes
  let g := commonGen 2 a.gens
  let s1 := s.modPort k fun p =>
    { p with partner := a.coord % 1024, pport := a.port % 16, features := Nat.land a.features courierFeatures, lanes := lanes }
  if lanes = 0 || g = 0 then s1.portFails k 1
  else s1.modPort k fun p => { p with state := PortState.select, trainGen := g }

/-- An advert counts on the run of identical ones. -/
def CourierPort.heard (p : CourierPort) (a : Advert) : CourierPort :=
  { p with partnerAdv := some a, advertsSame := if p.advertsSame ≠ 0 ∧ p.partnerAdv = some a then p.advertsSame + 1 else 1 }

def execAdvertReceived (port : Nat) (a : Advert) (s : State) : Host.Outcome State Fault Refusal :=
  let p := s.port port
  if !s.linksPowered || 12 ≤ port || a.version != 1 then .next s
  else if !(p.state == .detect || p.state == .retrain || p.state == .check) then .next s
  else if !a.crcOk then .next (s.modPort port fun q => { q with advertsSame := 0 })
  else
    let s1 := s.modPort port fun q => q.heard a
    if p.state = .detect && (s1.port port).advertsSame == 3 then .next (s1.choose port a)
    else .next (s1.checkPort port)

/-- A port in DETECT hears nothing for 100 ms: no event, it keeps sending (10 Table 10.6). -/
def execDetectTimeout (_port : Nat) (s : State) : Host.Outcome State Fault Refusal := .next s

def execTrainingDone (port : Nat) (s : State) : Host.Outcome State Fault Refusal :=
  let p := s.port port
  .next (if s.linksPowered && port < 12 && p.state == .select then
      (s.modPort port fun q => { q with state := PortState.check, gen := q.trainGen, coeffs := true, link := q.link.fresh }).checkPort port
    else s)

def execTrainingTimeout (port : Nat) (s : State) : Host.Outcome State Fault Refusal :=
  let p := s.port port
  if !(s.linksPowered && port < 12 && p.state == .select) then .next s
  else
    let g := commonGen (p.trainGen - 1) (match p.partnerAdv with
      | some a => a.gens
      | none => 0)
    .next (if g = 0 then s.portFails port 1 else s.modPort port fun q => { q with trainGen := g })

/-- In P2 Nap a port in KEEPALIVE sends an idle flit every 1 us. -/
def execKeepaliveTimer (port : Nat) (s : State) : Host.Outcome State Fault Refusal :=
  .next (if s.linksPowered && s.pw.state == .p2 && port < 12 && (s.port port).state == .keepalive then
      s.modPort port fun p => { p with link := p.link.answer (p.sender s.tm.tick s.localTime) }
    else s)

def execLaneLock (port lane number : Nat) (inverted : Bool) (s : State) : Host.Outcome State Fault Refusal :=
  .next (if s.linksPowered && port < 12 && lane < 8 && number < 8 &&
        ((s.port port).state == .detect || (s.port port).state == .retrain) then
      s.modPort port fun p => { p with locked := putBy (fun e => e.1 == lane) (lane, number, inverted) p.locked }
    else s)

/-! ### Bridges (01 R10) -/

/-- Failed tries of a flit. -/
def State.flitTries (s : State) (key : Nat × Bool × Nat) : Nat := lookupD s.fb.bridgeRetries key 0

/-- The tries of a flit counted; at 0 it waits for no retry. -/
def State.setFlitTries (s : State) (key : Nat × Bool × Nat) (n : Nat) : State :=
  { s with fb := { s.fb with bridgeRetries :=
      if n = 0 then s.fb.bridgeRetries.filter fun e => e.1 != key else setKey s.fb.bridgeRetries key n } }

/-- A try of a flit on a bridge in one direction. A flit whose first try and three retries fail is a permanent fault. The SOURCE of its record and
of its drain-log entry is H for every bridge, side bridges too, as the spec gives the record no SOURCE (DESIGN CHOICE, log entry 68). -/
def execBridgeFlitTransfer (flit : BridgeFlit) (crcOk : Bool) (s : State) : Host.Outcome State Fault Refusal :=
  if 8 ≤ flit.bridge || !s.hcoreRuns then .next s
  else
    let key := (flit.bridge, flit.outward, flit.number)
    let n := s.flitTries key + 1
    if crcOk then .next (s.setFlitTries key 0)
    else if n < 4 then .next (s.setFlitTries key n)
    else .next (((s.setFlitTries key 0).raise 0x0204 4 [flit.bridge]).drain 3 0x0204 4 0)

/-! ### The route table (10 R331-R333) -/

/-- The edges that this module knows: the fabric map's of other modules, and those of its own UP ports. -/
def State.edges (s : State) (links : List (Nat × Nat × Nat)) : List (Nat × Nat) :=
  (links.filterMap fun e => if e.1 = s.fb.coord then none else some (e.1, e.2.2)) ++
    (List.range 12).filterMap fun k => if (s.port k).state = .up then some (s.fb.coord, (s.port k).partner) else none

/-- Modules next to those of a list along the edges, each taken both ways. -/
def nextTo (es : List (Nat × Nat)) (front : List Nat) : List Nat :=
  (es.filterMap fun e =>
    if front.contains e.1 then some e.2 else if front.contains e.2 then some e.1 else none).eraseDups

/-- Distances from a module: the modules reached and their hops, at most `n` of them. -/
def distances (es : List (Nat × Nat)) : Nat → Nat → List Nat → List (Nat × Nat) → List (Nat × Nat)
  | 0, _, _, acc => acc
  | n + 1, d, front, acc =>
    let new := (nextTo es front).filter fun c => !acc.any fun e => e.1 == c
    if new.isEmpty then acc else distances es n (d + 1) new (acc ++ new.map fun c => (c, d + 1))

/-- The distance of one module in a list of distances. -/
def distanceIn (l : List (Nat × Nat)) (c : Nat) : Option Nat := (l.find? fun e => e.1 == c).map (·.2)

/-- (PRIMARY, DETOUR) of a destination from the distances to it. -/
def State.routeTo (s : State) (dist : List (Nat × Nat)) : Nat × Nat :=
  let len (k : Nat) : Option (Nat × Nat) :=
    if (s.port k).state = .up then (distanceIn dist (s.port k).partner).map fun d => (k, d + 1) else none
  let best (l : List (Nat × Nat)) : Option (Nat × Nat) := argMin (fun e => 16 * e.2 + e.1) l
  match best ((List.range 12).filterMap len) with
  | none => (15, 15)
  | some p =>
    match best ([10, 11].filterMap len) with
    | some c => if c.2 ≤ p.2 + 2 then (p.1, c.1) else (p.1, 15)
    | none => (p.1, 15)

/-- The route table over the graph of UP ports. -/
def State.routesOver (s : State) (links : List (Nat × Nat × Nat)) : List (Nat × Nat × Nat) :=
  let es := s.edges links
  let nodes := (es.flatMap fun e => [e.1, e.2]).eraseDups
  (sortBy id (nodes.filter fun c => c != s.fb.coord)).map fun c => (c, s.routeTo (distances es 1024 0 [c] [(c, 0)]))

/-- The first member of a job with neither an UP PRIMARY nor an UP DETOUR (10 Table 10.12). -/
def State.cutMember (s : State) (j : Job) : Option Nat :=
  let up (k : Nat) : Bool := k < 12 && (s.port k).state == .up
  if j.members.contains s.fb.coord then
    j.members.find? fun c => c != s.fb.coord && !up (s.route c).1 && !up (s.route c).2
  else none

def execRouteRecompute (links : List (Nat × Nat × Nat)) (s : State) : Host.Outcome State Fault Refusal :=
  if !s.firmwareRuns || !s.fb.coordValid then .next s
  else
    let s1 := { s with fb := { s.fb with routes := s.routesOver links, links := links, detours := [] } }
    .next (s1.fb.jobs.foldl (fun st j =>
      match st.cutMember j with
      | some c => st.abortJob j.num 2 c
      | none => st) s1)

end Sys2Proof.Machine
end

