-- ==== Sys2Proof/Machine/Tiles.lean ====
section
/-! DEFINITION. The commands of the tiles and the correction units: list fetch, latch, conversion, postmark comparison, addition,
outliers, fall-back jobs, spot comparisons, adapters and bank drains (02, 04, 05 R143-R148, 08 R261). -/

set_option Elab.async false

namespace Sys2Proof.Machine

/-! ### LIST_FETCH_DONE (04 R106) -/

/-- Bytes of the list cache of one unit (04 Table 4.1). -/
def listCacheBytes : Nat := 4194304

/-- Bytes that an array's lists take in the cache: outliers and remainders at four bytes an entry (04 R106), and 256 values for each
saturated column, which the spec gives no size: two bytes each, a T8 pair or a B16 encoding (DESIGN CHOICE, log entry 47). -/
def listBytes (r : CodeRecord) (saturated : Nat) : Nat := 4 * r.outliers.length + 4 * r.remainders.length + 512 * saturated

def State.cacheBytes (s : State) (l : List CachedLists) : Nat :=
  sumList (l.map fun e => listBytes (s.recordD e.arr) e.saturated.length)

/-- Whether a step has tokens still to run a layer. -/
def OpenStep.toRun (o : OpenStep) (draft : Bool) (layer : Nat) : Bool :=
  (List.range o.entries.length).any o.toBegin ||
    o.tokens.any fun t => t.draft == draft && !t.finished && (t.stage == waitStage || t.layer ≤ layer)

/-- Whether the schedule of a step names an array for tokens still to come. -/
def State.scheduled (s : State) (o : OpenStep) (a : ArrId) : Bool :=
  s.wt.masters.any fun m => m.hdr.arrayList.contains a &&
    ((m.hdr.model == o.model && o.cmd.firstLayer ≤ m.hdr.layer && m.hdr.layer ≤ o.cmd.lastLayer && o.toRun false m.hdr.layer) ||
     (o.drafts && m.hdr.model == o.draftModel && o.toRun true m.hdr.layer))

/-- Whether an open step still names an array in its schedule: for tokens still to come, or by a fire that waits, repeats or flies, an outlier
contribution or a fall-back of a step that goes on. -/
def State.arrayNamed (s : State) (a : ArrId) : Bool :=
  let t := s.tile a.tid
  let fire (f : Fire) : Bool := f.arr == a.arr && s.redLive f.red
  let flight (f : Option Flight) : Bool := f.any fun x => fire x.fire
  let due (b : Bank) : Bool := b.outliers.any fun d => d.arr == a.arr
  (s.liveSteps.any fun o => s.scheduled o a) || t.fires.any fire || t.repeatDue.any fire || flight t.array || flight t.scaler || due t.bank0 || due t.bank1 ||
    (s.region a.die (unitOf a.tid)).jobs.any fun j => j.tile == a.tile && j.arr == a.arr

/-- The cache of a unit with room made for `need` bytes: of the arrays that no open step names, those fired least recently leave, until
the room is there or none is left. -/
def State.cacheRoom (s : State) (need : Nat) : Nat → List CachedLists → List CachedLists
  | 0, l => l
  | n + 1, l =>
    if s.cacheBytes l + need ≤ listCacheBytes then l
    else
      match (l.reverse.find? fun e => !s.arrayNamed e.arr) with
      | some e => s.cacheRoom need n (l.filter fun x => x != e)
      | none => l

/-- An array's lists as fetched: with the masters of its saturated columns where its master is valid. -/
def State.fetchedLists (s : State) (a : ArrId) : CachedLists :=
  ⟨a, match s.weightsOf a with
    | some w => saturatedColumns (s.recordD a) w
    | none => []⟩

/-- The lists of an array arrive. While no room can be made for them the fetch goes on and the array's fires stay held. R106 orders the lists by
the array's latest fire: lists just fetched, whose array is to fire, stand as if it had fired last (DESIGN CHOICE, log entry 61). -/
def execListFetchDone (a : ArrId) (s : State) : Host.Outcome State Fault Refusal :=
  let r := s.region a.die (unitOf a.tid)
  if !s.inRun || !r.fetching.contains a || (s.record a).isNone then .next s
  else
    let e := s.fetchedLists a
    let need := s.cacheBytes [e]
    let kept := s.cacheRoom need r.cache.length (r.cache.filter fun y => y.arr != a)
    if s.cacheBytes kept + need ≤ listCacheBytes then
      .next (s.modRegion a.die (unitOf a.tid) fun x => { x with fetching := x.fetching.filter (fun y => y != a), cache := e :: kept })
    else .next (s.modRegion a.die (unitOf a.tid) fun x => { x with cache := kept })

/-! ### When a line has nothing more to come (05 R152) -/

/-- Whether a fire of a line is still to be issued, or a bank holds a reduction to it. -/
def Tile.worksOn (t : Tile) (l : LineId) : Bool :=
  (t.fires.any fun f => f.red.line == l) || (t.repeatDue.any fun f => f.red.line == l) ||
    (t.bank0.red.any fun r => r.line == l) || t.bank1.red.any fun r => r.line == l

/-- Each line keeps the tick from which every fire of it has been issued and no bank holds a reduction to it. -/
def State.stampLines (s : State) : State :=
  { s with rd := { s.rd with lines := s.rd.lines.map fun l =>
      { l with quiet := if l.issued && !s.tl.tiles.any fun t => t.worksOn l.id then some (l.quiet.getD s.tm.tick) else none } } }

/-! ### FIRE_LATCH (02 R49) -/

/-- Whether the sequencers have stopped for an entry to P1 Hold (15 R495). -/
def State.enteringP1 (s : State) : Bool := s.pw.entry.any fun e => e.target == .p1

/-- A fire boundary of a tile: the changes that take effect at it, then the latch. While a test runs, or after a drain, no fire is
latched. A boundary comes only once the fire before it has been converted. -/
def execFireLatch (t : TileId) (s : State) : Host.Outcome State Fault Refusal :=
  if !s.enabled t || !s.inRun || (s.tile t).array.isSome || s.enteringP1 then .next s
  else
    let n := (s.tile t).slotNo
    let s1 := s.boundary t
    if s1.isDrained || (s1.tile t).test.running then .next s1 else .next (s1.chooseSlot t n).stampLines

/-! ### CONVERTER_RESULT (02 R42-R46, R51, 04 R112, R119) -/

/-- A selected fire that goes to cause 2 passes its selection on (04 R135). Which fire is the next where later ones are already in flight the
spec does not say: the next that is latched on the die (DESIGN CHOICE, log entry 71). -/
def State.passSelection (s : State) (f : Fire) (die : Nat) : State :=
  if f.selected then s.modStep f.red.stepTag fun o => { o with spotPass := o.spotPass ++ [die] } else s

/-- Over-range at range code 0: a cause-2 job for the fire, which goes on to t19 with its slot (04 R119, Table 4.5). A fire whose entry has ended
by itself has no bank left to take the job's result. -/
def State.overRange0 (s : State) (t : TileId) (fl : Flight) : State :=
  let f := fl.fire
  let a := t.array f.arr
  let s1 := s.modTile t fun x => { x with array := none, scaler := some { fl with converted := true, overrun := true },
                                          cntFallback := x.cntFallback + 1 }
  if !s1.redLive f.red then s1
  else if ((s1.tile t).bank fl.bank).red != some f.red then (s1.passSelection f t.die).selectLast f.red.stepTag
  else if !fl.input.wide && (s1.masterOf a).isNone then s1.failStep f.red.stepTag 3
  else ((s1.countEquiv f.red.stepTag 2 256 a).putJob t f.arr 2 fl.input f.mode f.red fl.bank).passSelection f t.die

def execConverterResult (t : TileId) (codes : List Int) (flags : List Bool) (s : State) : Host.Outcome State Fault Refusal :=
  let x := s.tile t
  match x.array with
  | none => .next s
  | some fl =>
    if x.scaler.isSome then .next s
    else
      let f := fl.fire
      if fl.null then .next (s.modTile t fun y => { y with array := none, scaler := some { fl with converted := true } })
      else if flags.any id then
        if f.range = 0 then .next (s.overRange0 t fl)
        else
          .next ((s.modTile t fun y =>
            { y with array := none, cntRepeat := y.cntRepeat + 1,
                     repeatDue := if s.redLive f.red && (x.bank fl.bank).red == some f.red then some { f with range := f.range - 1 }
                       else none }).selectLast f.red.stepTag)
      else
        let x16 := rowInputs f.mode fl.input.shifts fl.input.codes
        let raw := (List.range 258).map fun j => clampInt (-128) 127 (at' codes j 0)
        let y := correctedAll fl.coefs (s.recordD (t.array f.arr)) f.range x16 raw
        .next (s.modTile t fun z =>
          { z with array := none, scaler := some { fl with raw := raw, y := y, converted := true } })

/-! ### POSTMARK_COMPARISON (02 R61-R63, 04 R136) -/

/-- The spot copy of a fire that passed (04 R136): the 34 converters of a slice drawn from the die's source. -/
def State.spotCopy (s : State) (t : TileId) (fl : Flight) : SpotJob × State :=
  let d := s.nextDraw
  ({ die := t.die, tile := t.tile, cells := fl.cells, named := fl.fire.arr, stepTag := fl.fire.red.stepTag,
     epoch := fl.fire.red.epoch, slice := Config.random d.1 % 8, y := fl.y, range := fl.fire.range, mode := fl.fire.mode,
     input := fl.input, num := fl.fire.num }, d.2)

/-- A fire passes its postmark check: a selected one is copied to the unit's lane; of the others the one issued last stands for the step on
the die. -/
def State.postmarkPasses (s : State) (t : TileId) (fl : Flight) : State :=
  let s1 := s.modTile t fun x => { x with scaler := some { fl with passed := true } }
  if !s1.redLive fl.fire.red then s1
  else
    let c := s1.spotCopy t fl
    let s2 :=
      if fl.fire.selected then c.2.modRegion t.die (unitOf t) fun r => { r with spots := r.spots ++ [c.1] }
      else
        let same (j : SpotJob) : Bool := j.stepTag == c.1.stepTag && j.die == c.1.die
        if c.2.tl.spotLast.any fun j => same j && c.1.num < j.num then c.2
        else { c.2 with tl := { c.2.tl with spotLast := putBy same c.1 c.2.tl.spotLast } }
    s2.selectLast fl.fire.red.stepTag

def execPostmarkComparison (t : TileId) (s : State) : Host.Outcome State Fault Refusal :=
  match (s.tile t).scaler with
  | none => .next s
  | some fl =>
    if fl.null || fl.overrun || fl.passed then .next s
    else
      let f := fl.fire
      let r16 := remainderTerm (s.recordD (t.array f.arr)) (rowInputs f.mode fl.input.shifts fl.input.codes)
      if postmarkPass f.range fl.y r16 then .next (s.postmarkPasses t fl)
      else
        let loc := locOf (t.array fl.cells)
        let s1 := s.active.modTile t fun x => { x with scaler := none, cntMismatch := x.cntMismatch + 1 }
        let s2 := s1.raise 0x0002 t.die [loc, f.red.stepTag + 65536 * f.range, postmarkDetail f.range fl.y r16]
        .next (s2.transient f.red.stepTag f.red.epoch 0x0002 t.die loc).tryEntry

/-! ### FIRE_ADD (05 R143, 02 R65, 04 R117, R118, R123) -/

/-- Saturated columns of a record. -/
def CodeRecord.saturated (r : CodeRecord) : Nat := (r.cflag.filter (· == 2)).length

/-- The masters of an array's saturated columns, as its unit's list cache holds them. -/
def State.cachedColumns (s : State) (a : ArrId) : List (Nat × List (Bool × Nat)) :=
  match (s.region a.die (unitOf a.tid)).lists a with
  | some e => e.saturated
  | none => []

/-- What falls due with the last fire of an input vector: the outlier additions, and the saturated columns' fall-back (04 R118, R123).
A 4-bit vector that fell back under cause 2 takes neither, since its master carries both, nor does a vector whose whole contribution a
job supplies. Without the saturated columns' masters in the cache the step ends weights-unavailable (06 R193). -/
def State.vectorDue (s : State) (t : TileId) (fl : Flight) : State :=
  let f := fl.fire
  let a := t.array f.arr
  let rec' := s.recordD a
  if f.mode = 1 ∨ f.covered ∨ (f.mode = 0 ∧ fl.overrun) ∨ fl.input.codes.all (· == 0) then s
  else
    let s1 := if rec'.outliers.isEmpty then s
      else s.modTile t fun x => x.setBank fl.bank
        { x.bank fl.bank with outliers := (x.bank fl.bank).outliers ++ [⟨f.arr, fl.input⟩] }
    if rec'.saturated = 0 then s1
    else if (s1.cachedColumns a).isEmpty then s1.failStep f.red.stepTag 3
    else s1.putJob t f.arr 1 fl.input 0 f.red fl.bank

def execFireAdd (t : TileId) (s : State) : Host.Outcome State Fault Refusal :=
  match (s.tile t).scaler with
  | none => .next s
  | some fl =>
    if !(fl.null || fl.overrun || fl.passed) then .next s
    else
      let f := fl.fire
      let s1 := s.active.modTile t fun x => { x with scaler := none }
      if !s1.redLive f.red || ((s1.tile t).bank fl.bank).red != some f.red then .next s1.tryEntry
      else
        let rec' := s1.recordD (t.array f.arr)
        let s2 := if fl.null || fl.overrun then s1
          else s1.addToBank t fl.bank f.arr f.red (fireAddend rec' fl.input.scale f.mode f.range fl.y)
        let s3 := if fl.null || fl.overrun then s2 else s2.countEquiv f.red.stepTag 1 rec'.saturated (t.array f.arr)
        let s4 := if ((s3.tile t).bank fl.bank).red == some f.red then s3.vectorDue t fl else s3
        .next (if ((s4.tile t).bank fl.bank).red == some f.red then s4.countFires t fl.bank 1 f.close f.arr else s4).tryEntry

/-! ### OUTLIER_ADD (04 R117, R118) -/

/-- The oldest outlier contribution due to a bank of a tile that holds a reduction: the bank, the contribution and the reduction. -/
def Tile.outlierDue (t : Tile) : Option (Nat × OutlierDue × Reduction) :=
  let pick (b : Nat) : Option (Nat × OutlierDue × Reduction) :=
    match (t.bank b).outliers.head?, (t.bank b).red with
    | some d, some r => some (b, d, r)
    | _, _ => none
  (pick 0).orElse fun _ => pick 1

/-- The outlier lane adds it. -/
def execOutlierAdd (t : TileId) (s : State) : Host.Outcome State Fault Refusal :=
  match (s.tile t).outlierDue with
  | none => .next s
  | some (b, d, red) =>
    let s1 := s.modTile t fun y => y.setBank b { y.bank b with outliers := (y.bank b).outliers.drop 1 }
    let v := outlierAddend (s1.recordD (t.array d.arr)) d.input.scale d.input.shifts d.input.codes
    .next ((s1.addToBank t b d.arr red v).tryDrain t b)

/-! ### FALLBACK_JOB_DONE (04 R123, R127-R129) -/

/-- The difference of two columns of values, element by element. -/
def subVec (a b : List Int) : List Int := (List.range 256).map fun j => at' a j 0 - at' b j 0

/-- What a job adds for one input vector (04 Table 4.5); none without the weights it needs. Where the high nibble of the vector has its
analogue result in the bank and only the low one fell back under cause 3 or 4, the master's contribution is taken with what that high
nibble carries at zero analogue error left out (DESIGN CHOICE, log entry 46). -/
def State.jobAddend (s : State) (a : ArrId) (cause : Nat) (p : FbPart) : Option (List Int) :=
  let rec' := s.recordD a
  let i := p.input
  if cause = 1 then some (saturatedAddend (s.cachedColumns a) i.scale i.shifts i.codes)
  else if cause = 2 ∧ p.mode ≠ 0 then some (nibbleAddend rec' i.scale p.mode i.shifts i.codes)
  else
    (s.weightsOf a).map fun w =>
      if cause = 5 then waveAddend w i.b16
      else
        let whole := masterAddend w i.scale i.shifts i.codes
        if p.mode = 2 then subVec whole (nibbleAddend rec' i.scale 1 i.shifts i.codes) else whole

/-- The job at the head of a lane: none while a spot recomputation waits; the oldest step's first, in order of arrival (04 R127). -/
def State.headJob (s : State) (die unit : Nat) : Option FbJob :=
  let r := s.region die unit
  if r.spots.isEmpty then argMin (fun j => s.stepPlace j.stepTag) r.jobs else none

/-- One result of a job added to its bank, which then may drain (04 R129). -/
def State.addPart (s : State) (t : TileId) (arr : Nat) (p : FbPart) (v : List Int) : State :=
  let s1 := s.modTile t fun x => x.setBank p.bank { x.bank p.bank with fallbacks := (x.bank p.bank).fallbacks - 1 }
  (s1.addToBank t p.bank arr p.red v).tryDrain t p.bank

def execFallbackJobDone (die unit : Nat) (s : State) : Host.Outcome State Fault Refusal :=
  match s.headJob die unit with
  | none => .next s
  | some j =>
    let t : TileId := ⟨die, j.tile⟩
    match allSome (j.parts.map fun p => s.jobAddend (t.array j.arr) j.cause p) with
    | none => .next (s.failStep j.stepTag 3)
    | some vs =>
      .next ((j.parts.zip vs).foldl (fun st e => st.addPart t j.arr e.1 e.2)
        (s.modRegion die unit fun x => { x with jobs := x.jobs.erase j }))

/-! ### SPOT_COMPARISON_DONE (04 R136-R139) -/

/-- The arrays in use: those in service whose cells fire, and each spare that stands in for one. -/
def State.arraysInUse (s : State) : List ArrId :=
  ((s.wt.directory.filter fun e => e.2.astate == .inService && (s.tile e.1.tid).standIn != some e.1.arr).map Prod.fst) ++
    (s.tl.tiles.filter fun t => t.standIn.isSome).map fun t => t.id.array 16

/-- Whether a die's junction temperatures lie between 10 °C and 95 °C: those of its sensors that have not failed, which stand for the
others (15 R504); a die with none left is not known to. -/
def State.dieRated (s : State) (die : Nat) : Bool :=
  let l := s.th.sensors.filter fun x => sensorDie x.idx == die && !x.failed
  !l.isEmpty && l.all fun x => 160 ≤ x.reading && x.reading ≤ 1520

/-- Rated conditions (00 R5). -/
def State.rated (s : State) : Bool :=
  (40000 ≤ s.pw.vinMv && s.pw.vinMv ≤ 59500) && (List.range 5).all s.dieRated && s.arraysInUse.all s.calValid && s.traced && s.firmwareRuns

/-- One hour of ticks. -/
def hourTicks : Nat := 3600 * ticksPerSec

/-- A bound excursion of an array counted over the trailing hour; the 17th raises the record and a class 2 request (04 R139). -/
def State.excursion (s : State) (a : ArrId) : State :=
  let t := s.tile a.tid
  let e := (t.excursions.find? fun x => x.1 == a.arr).getD (a.arr, [], false)
  let now := s.tm.counter
  let old := e.2.1.filter fun h => h ≤ now && now < h + hourTicks
  let armed := e.2.2 && 16 < old.length
  let stamps := old ++ [now]
  let fire := 16 < stamps.length && !armed
  let s1 := s.modTile a.tid fun x =>
    { x with excursions := putBy (fun y => y.1 == a.arr) (a.arr, stamps, 16 < stamps.length) x.excursions }
  if fire then (s1.raise 0x0004 6 [locOf a, stamps.length]).requestCal a 2 else s1

/-- The outcome of the comparison at the head of a lane (04 Table 4.6). The spec does not say at which moment the region temperature sets the
bound: it is taken as the comparison completes (DESIGN CHOICE, log entry 47). D3 of record 0x0003, the deviation in 1/64 code, is rounded up and
saturates at 0xFFFFFFFF, as 13 Table 13.7 says of the gap of record 0x0002 but not of this one (DESIGN CHOICE, log entry 61). -/
def execSpotComparisonDone (die unit : Nat) (s : State) : Host.Outcome State Fault Refusal :=
  match (s.region die unit).spots with
  | [] => .next s
  | j :: rest =>
    let s1 := s.modRegion die unit fun x => { x with spots := rest }
    let t : TileId := ⟨die, j.tile⟩
    let a := t.array j.cells
    let gaps := spotGaps (s.recordD (t.array j.named)) j.range j.slice j.y (rowInputs j.mode j.input.shifts j.input.codes)
    let w := worstGap gaps
    let milli := if 400 ≤ s.tileTemp t ∧ s.tileTemp t ≤ 1360 then 1412 else 2424
    let lim := 64 * lsb j.range
    if 4 * lim < w.2 then
      let loc := locOf a
      let dev := Nat.min 0xFFFFFFFF (ceilDiv w.2 (lsb j.range))
      let s2 := s1.raise 0x0003 die [loc, j.stepTag, w.1, dev, if j.cells = 16 then j.named else 31]
      .next ((s2.requestCal a 2).transient j.stepTag j.epoch 0x0003 die loc)
    else if milli * lim < 1000 * w.2 && s.rated then .next (s1.excursion a)
    else .next s1

/-! ### ADAPTER_CONTRIBUTION (08 R261, R263, 05 R148) -/

/-- Elements of a row of a matrix of `n` columns in T8 lines of 16 blocks: a row is padded to whole blocks of 32, and the blocks of the rows
follow each other through the lines (03 R76, Table 3.3). LOAD_ADAPTER refuses lines with a block that 03 R75 calls
invalid or that is saturated (`linesOk`). -/
def t8Row (b : Bytes) (row n : Nat) : List Frac :=
  (List.range n).map fun i =>
    let blk := row * ceilDiv n 32 + i / 32
    let line := slice b (blk / 16 * lineBytes 2) (lineBytes 2)
    let k := blk % 16
    if lineFlag 2 line k = 1 then ⟨0, 1⟩
    else elemValue e4m3 (lineScale 2 line k) (blockElem 2 (slice line (k * blockBytes 2) (blockBytes 2)) (i % 32))

/-- A sum of products on the grid, each product rounded once to it (05 R140, R141): exact where none has a B16 operand. -/
def dotFx (a b : List Frac) : Int := sumInt ((a.zip b).map fun e => toFx (e.1.mul e.2))

/-- The token's input to a tensor of a layer as quantised in its input slots, `k` elements. -/
def State.quantised (s : State) (tag token layer tensor k : Nat) : List Frac :=
  (List.range (ceilDiv k 256)).flatMap fun r =>
    match s.sv.inputs.find? fun i => i.stepTag == tag && i.token == token && i.layer == layer && i.tensor == tensor && i.off == 256 * r with
    | some i => (List.range (Nat.min 256 (k - 256 * r))).map fun j =>
        if i.saturated then b16.decode (at' i.b16 j 0) else inputValue i.scale i.shifts i.codes j
    | none => List.replicate (Nat.min 256 (k - 256 * r)) ⟨0, 1⟩

/-- Whether an intermediate vector has a value beyond B16 in a vector that takes that form: a numeric fault (03 R71). -/
def hiddenFault (h : List Frac) : Bool :=
  (pieces 256 (h.length / 256 + 1) h).any fun p =>
    (quantInput 127 ((List.range 256).map fun i => at' p i ⟨0, 1⟩)).saturated && p.any fun v => (b16.roundFinite v).isNone

/-- `d[k] x t[g]` of the intermediate vector: quantised by 03 R89 with codes to 127, groups of 32, in vectors of 256; a vector beyond the
scale's span takes the B16 form of 03 R92 (DEDUCED, log entry 19). -/
def quantHidden (h : List Frac) : List Frac :=
  (pieces 256 (h.length / 256 + 1) h).flatMap fun p =>
    let q := quantInput 127 ((List.range 256).map fun i => at' p i ⟨0, 1⟩)
    (List.range p.length).map fun i =>
      if q.saturated then b16.decode (b16.round (at' p i ⟨0, 1⟩)) else inputValue q.scale q.shifts q.codes i

/-- The intermediate vector of one target. -/
def Adapter.hidden (t : Nat × Nat × Nat × Bytes × Bytes) (x : List Frac) : List Frac :=
  (List.range t.2.2.1).map fun k => fxFrac (dotFx (t8Row t.2.2.2.1 k x.length) x)

/-- The 256 columns of a block of one target's contribution, on the grid. -/
def Adapter.column (t : Nat × Nat × Nat × Bytes × Bytes) (x : List Frac) (col n : Nat) : List Int :=
  let d := quantHidden (Adapter.hidden t x)
  (List.range 256).map fun j => if 256 * col + j < n then dotFx (t8Row t.2.2.2.2 (256 * col + j) t.2.2.1) d else 0

/-- Home banks of the lines of one token at one tensor whose adapter is due: (tile, bank, column block). -/
def State.adapterBanks (s : State) (tag token tensor adapter : Nat) : List (TileId × Nat × Nat) :=
  (s.rd.lines.filter fun l => l.stepTag == tag && l.dest.token == token && l.dest.tensor == tensor).flatMap fun l =>
    ((List.range 2).filter fun b =>
      let k := (s.tile l.home).bank b
      k.state == .closing && k.adapters.contains adapter &&
        (match k.red with
         | some r => r.line == l.id
         | none => false)).map fun b => (l.home, b, l.dest.colBlock)

/-- An adapter's contribution added to one home bank, once however often the entry's consecutive numbers name the adapter (DESIGN CHOICE, log entry
61). A value of its intermediate vector that overflows B16 ends the step (03 R71). The overflow record of the bank names array 0, since no array
forms the contribution (05 R142; DESIGN CHOICE, log entry 61). -/
def State.adapterInto (s : State) (tag token tensor adapter : Nat) (e : TileId × Nat × Nat) : State :=
  match s.liveStep tag with
  | none => s
  | some o =>
    match o.tokens[token]? with
    | none => s
    | some tok =>
      match o.staged.find? fun x => x.is e.1.die adapter tok.layer tensor, (s.model o.model).bind fun m => m.layer tok.layer with
      | some a, some l =>
        match l.tensors.find? fun t => t.tensor == tensor with
        | some tr =>
          match ((s.tile e.1).bank e.2.1).red with
          | some red =>
            if hiddenFault (Adapter.hidden a.target (s.quantised tag token tok.layer tensor tr.k)) then s.failStep tag 4
            else
            let v := Adapter.column a.target (s.quantised tag token tok.layer tensor tr.k) e.2.2 tr.n
            let s1 := s.modTile e.1 fun x =>
              x.setBank e.2.1 { x.bank e.2.1 with adapters := (x.bank e.2.1).adapters.filter fun y => y != adapter }
            (s1.addToBank e.1 e.2.1 0 red v).tryDrain e.1 e.2.1
          | none => s
        | none => s
      | _, _ => s

/-- An adapter's contribution to one token at one tensor reaches the home banks whose die's engine has gathered the target; another bank
stays in CLOSING (08 R263). -/
def execAdapterContribution (stepTag token tensor adapter : Nat) (s : State) : Host.Outcome State Fault Refusal :=
  .next ((s.adapterBanks stepTag token tensor adapter).foldl (fun st e => st.adapterInto stepTag token tensor adapter e)
    (s.gather stepTag))

/-! ### BANK_DRAIN_DONE (05 R144, R147, R154) -/

/-- Dies joined by no side bridge: A0-A3 and A1-A2 (01 R9). -/
def diagonal (a b : Nat) : Bool := a + b == 3

/-- The dies that a drain passes (05 Table 5.4); 4 is H. -/
def drainPath (src dst : Nat) (congested : Bool) : List Nat :=
  if src = dst then [src]
  else if !diagonal src dst then [src, dst]
  else if congested then [src, if src = 0 ∨ src = 3 then 1 else 0, dst]
  else [src, 4, dst]

/-- Bytes of a drain: 256 registers of eight bytes, and its record, which the spec gives no size: 16 bytes (DESIGN CHOICE, log entry 48). -/
def drainBytes : Nat := 2064

/-- Bytes in a die's outbound hub-bridge queue: those of its drains that take the hub path. No command marks the moment at which one
leaves the queue: it stands there until it arrives (DESIGN CHOICE, log entry 48). -/
def State.hubQueue (s : State) (die : Nat) : Nat :=
  drainBytes * (s.rd.drains.filter fun d => d.src.die == die && d.path.contains 4).length

def execBankDrainDone (t : TileId) (bank : Nat) (s : State) : Host.Outcome State Fault Refusal :=
  let k := (s.tile t).bank (bank % 2)
  match k.red with
  | none => .next s
  | some r =>
    if k.state != .draining then .next s
    else
      let d : Drain := { src := t, line := r.line, stepTag := r.stepTag, epoch := r.epoch, final := k.closed, regs := k.regs,
                         path := drainPath t.die r.line.die (16384 < s.hubQueue t.die) }
      let s1 := s.modTile t fun x => x.setBank (bank % 2) emptyBank
      .next { s1 with rd := { s1.rd with drains := s1.rd.drains ++ [d] } }.stampLines

end Sys2Proof.Machine
end

