-- ==== Sys2Proof/Machine/Reduce.lean ====
section
/-! DEFINITION. Reduction lines and ledgers (05 R149-R158): arriving drains, contribution records and replay notices, a line that
times out, and what a token receives from attention (09 R279). -/

set_option Elab.async false

namespace Sys2Proof.Machine

/-- The record of a reduction fault (13 Table 13.7). -/
def State.reductionFault (s : State) (l : LineId) (source tag epoch : Nat) : State :=
  (s.raise 0x0008 source [lineWord l, tag + 65536 * epoch]).transient tag epoch 0x0008 source 0

/-- The record of an accumulator overflow at a line, and the step's end (05 R142). -/
def State.lineOverflow (s : State) (l : LineId) (source tag : Nat) : State :=
  (s.raise 0x0007 source [lineWord l + 2 ^ 31, tag]).failStep tag 4

/-- The 3,136 bytes of a line (05 R149, Table 5.3). -/
def Line.bytes (l : Line) : Bytes :=
  natLe 1 l.version ++ natLe 1 (b2n l.complete + 2 * b2n l.fault) ++ natLe 2 l.pending ++ natLe 2 l.stepTag ++ natLe 1 l.epoch ++
    natLe 1 l.outfmt ++ natLe 2 l.width ++ natLe 2 l.owner ++ natLe 4 0 ++ natLe 8 l.dest.addr ++ natLe 40 0 ++
    (List.range 256).flatMap fun j => natLe 12 (ofSigned 96 (at' l.elems j 0))

def State.putLine (s : State) (l : Line) : State :=
  { s with rd := { s.rd with lines := s.rd.lines.map fun x => if x.id = l.id then l else x } }

/-! ### Ledgers (05 R155-R158) -/

/-- The open step of a job step. -/
def State.jobStep (s : State) (job step : Nat) : Option OpenStep :=
  s.liveSteps.find? fun o => o.cmd.job == job && o.cmd.stepNumber == step && !o.aborted

/-- The tensor a ledger line delivers to. -/
def State.ledgerTensor (s : State) (o : OpenStep) (d : LineDest) : Option TensorRec :=
  (o.tokens[d.token]?).bind fun tok =>
    ((s.model (o.modelOf tok.draft)).bind fun m => m.layer d.layer).bind fun l => l.tensors.find? fun t => t.tensor == d.tensor

/-- Values of a line delivered to the token that waits; a conversion that overflows ends the step (05 R151). -/
def State.deliverLine (s : State) (tag outfmt width : Nat) (d : LineDest) (elems : List Int) : State :=
  match convertLine outfmt width elems with
  | some v => s.deliverValues tag d v
  | none => s.failStep tag 4

/-- The place at which a token that waits for a ledger line stands now: its layer and a stage that fires the line's tensor. -/
def State.awaitsLine (s : State) (o : OpenStep) (d : LineDest) : Bool :=
  match o.tokens[d.token]? with
  | some tok => tok.layer == d.layer &&
      match (s.model (o.modelOf tok.draft)).bind fun m => m.layer tok.layer with
      | some l => (stageTensors l tok.stage).any fun t => t.tensor == d.tensor
      | none => false
  | none => false

/-- A contribution at the ledger's epoch added to its line (05 Table 5.6). A line that no schedule has set up begins with it, with the record's
WIDTH until its step opens; all elements of a record whose WIDTH is another are added (DESIGN CHOICE, log entry 13). The records of a fault at a line
whose step is not open here name STEP_TAG 0, and no step ends by it (log entry 13). A completed line goes to the token that stands at it; a token
that is to come there takes it then (05 R158). -/
def State.addContribution (s : State) (g : Ledger) (addr width : Nat) (elems : List Int) : State :=
  let members := match s.job g.job with
    | some j => j.members.length
    | none => 1
  let o := s.jobStep g.job g.step
  let tag := match o with
    | some x => x.tag
    | none => 0
  let dest := ledgerDest addr
  let outfmt := match o.bind fun x => s.ledgerTensor x dest with
    | some t => t.delivered
    | none => 0
  let fresh := freshLedgerLine members g.job tag g.epoch width (s.linePlace (dest.colBlock % 4)) outfmt dest
  let isIt (x : Line) : Bool := x.dest == dest
  let l := (g.lines.find? isIt).getD fresh
  if l.complete || l.pending = 0 then
    let s1 := s.setLedger { g with lines := putBy isIt { l with fault := true } g.lines }
    if o.isSome then s1.reductionFault l.id l.id.die tag g.epoch
    else s1.raise 0x0008 l.id.die [lineWord l.id, 65536 * g.epoch]
  else
    let r := addVec 96 256 l.elems elems
    if r.2 then (if o.isSome then s.lineOverflow l.id l.id.die tag else s.raise 0x0007 l.id.die [lineWord l.id + 2 ^ 31, 0])
    else
      let l1 := { l with elems := r.1, pending := l.pending - 1, complete := l.pending == 1, quiet := some (l.quiet.getD s.tm.tick) }
      let s1 := s.setLedger { g with lines := putBy isIt l1 g.lines }
      match o.filter fun x => l1.complete && x.epoch == g.epoch && s.awaitsLine x dest with
      | some x => s1.deliverLine x.tag l1.outfmt l1.width l1.dest l1.elems
      | none => s1

/-- A contribution handled as 05 Table 5.6 states. One that comes after the ledger was released at the step's commit opens a ledger again, which the
spec does not speak of (05 R158; DESIGN CHOICE, log entry 61). -/
def State.contribution (s : State) (job step epoch addr width : Nat) (elems : List Int) : State :=
  let g := (s.ledger job step).getD ⟨job, step, epoch, s.tm.tick, []⟩
  if epoch < g.epoch then { s with rg := { s.rg with staleContrib := s.rg.staleContrib + 1 } }
  else s.addContribution (if g.epoch < epoch then g.raise epoch s.tm.tick else g) addr width elems

/-- Payload of a contribution record (05 Table 5.5). -/
def contributionPayload (job step epoch width addr : Nat) (elems : List Int) : Bytes :=
  natLe 1 1 ++ natLe 1 0 ++ natLe 2 0 ++ natLe 4 job ++ natLe 8 step ++ natLe 1 epoch ++ natLe 1 0 ++ natLe 2 width ++ natLe 4 0 ++
    natLe 8 addr ++ (List.range width).flatMap fun j => natLe 12 (ofSigned 96 (at' elems j 0))

/-- The exact line of a job step goes to its owner as one contribution; a module that is not the owner has nothing more to wait for at
this line (05 R151, R155; log entry 13). -/
def State.contribute (s : State) (l : Line) : State :=
  match s.stepOf l.stepTag with
  | none => s
  | some o =>
    let addr := l.dest.addr
    if l.owner = s.fb.coord then s.contribution o.cmd.job o.cmd.stepNumber l.epoch addr l.width l.elems
    else
      (s.sendForJob 1 l.owner o.cmd.job (contributionPayload o.cmd.job o.cmd.stepNumber l.epoch l.width addr l.elems)).deliverValues
        l.stepTag l.dest []

/-! ### DRAIN_ARRIVAL (05 R151, R152) -/

/-- A line whose last final drain has been added: COMPLETE, converted and delivered. -/
def State.completeLine (s : State) (l : Line) : State :=
  if l.outfmt = 2 then s.contribute l else s.deliverLine l.stepTag l.outfmt l.width l.dest l.elems

def execDrainArrival (idx : Nat) (s : State) : Host.Outcome State Fault Refusal :=
  match s.rd.drains[idx]? with
  | none => .next s
  | some d =>
    let s1 := { s with rd := { s.rd with drains := s.rd.drains.eraseIdx idx } }
    match (s1.line d.line).filter fun l => l.version == 1 && l.stepTag == d.stepTag && l.epoch == d.epoch with
    | none => .next { s1 with rg := { s1.rg with staleDrain := modAt s1.rg.staleDrain d.line.die fun n => n + 1 } }
    | some l =>
      if l.complete || (d.final && l.pending == 0) then
        .next ((s1.putLine { l with fault := true }).reductionFault l.id l.id.die l.stepTag l.epoch)
      else
        let r := addVec 96 256 l.elems d.regs
        if r.2 then .next (s1.lineOverflow l.id l.id.die l.stepTag)
        else
          let done := d.final && l.pending == 1
          let l1 := { l with elems := r.1, pending := if d.final then l.pending - 1 else l.pending, complete := done }
          .next (if done then (s1.putLine l1).completeLine l1 else s1.putLine l1)

/-! ### LINE_TIMEOUT (05 R152) -/

/-- 50 ms in ticks. -/
def lineTicks : Nat := 12500000

/-- A line that lacks COMPLETE 50 ms after its last fire was issued and no bank held a reduction to it any more: the clock comes to that
moment, and the line faults. -/
def execLineTimeout (die off : Nat) (s : State) : Host.Outcome State Fault Refusal :=
  match s.line ⟨die, off⟩ with
  | none => .next s
  | some l =>
    if l.complete || (s.tl.tiles.any fun t => t.worksOn l.id) || !s.redLive ⟨l.stepTag, l.epoch, l.id⟩ then .next s
    else
      match l.quiet with
      | none => .next s
      | some q => .next (((s.advanceTo (q + lineTicks)).putLine { l with fault := true }).reductionFault l.id die l.stepTag l.epoch)

/-! ### Courier frames at their destination (10 R326) -/

def State.dropJobFrame (s : State) : State := s.countDrop fun r => { r with dropJob := r.dropJob + 1 }

/-- A frame whose trailer CRC fails (10 R326): dropped, counted and recorded; every open step of a job is a detected fault. -/
def State.e2eFailure (s : State) (h : CourierHdr) : State :=
  let s1 := (s.countDrop fun r => { r with dropE2e := r.dropE2e + 1 }).raise 0x0032 4 [h.src + 65536 * h.type, h.job]
  if h.type = 2 ∨ h.type = 4 then s1
  else
    ((s1.liveSteps.filter fun o => o.cmd.job != 0 && !o.aborted).map fun o => (o.tag, o.epoch)).foldl
      (fun st e => st.transient e.1 e.2 0x0032 4 0) s1

/-- Whether a frame reaches this module: formed here, or from a port that is UP; a port in CHECK carries control notices only (10
Table 10.6). -/
def State.arrives (s : State) (h : CourierHdr) : Bool :=
  s.hcoreRuns && (match h.inPort with
    | none => true
    | some p => p < 12 && ((s.port p).state == .up || (h.type == 5 && (s.port p).state == .check)))

/-- Whether a frame ends at this module. -/
def State.isDest (s : State) (h : CourierHdr) : Bool := s.fb.coordValid && h.dest == s.fb.coord

/-- A frame of a TYPE at its destination: a failing CRC, a VERSION that is not 1, and a frame of an aborted job are dropped and
counted (10 R323, R326, R353); `f` is what a frame that passes does. Work that it issues in P1 Hold wakes the module (15 R492). -/
def State.withCourier (s : State) (h : CourierHdr) (type : Nat) (f : State → State) : State :=
  let x := { h with type := type }
  if !s.arrives x || !s.isDest x then s
  else if !h.crcOk then s.e2eFailure x
  else if h.version ≠ 1 then s.countDrop fun r => { r with dropVersion := r.dropVersion + 1 }
  else if (type = 1 ∨ type = 3 ∨ type = 5) ∧ s.fb.aborted.contains h.job then s.dropJobFrame
  else (f s).scheduleWakes s

/-- Elements of a contribution record. -/
def contributionElems (p : Bytes) (width : Nat) : List Int :=
  (List.range width).map fun j => toSigned 96 (fld p (0x20 + 12 * j) 12)

/-- Whether the TYPE and lengths of a contribution record hold (05 Table 5.5); its reserved fields are not looked at (01 R27). -/
def contributionOk (p : Bytes) (type : Nat) : Bool :=
  let width := fld p 0x12 2
  fld p 1 1 == type &&
    (if type = 0 then 1 ≤ width && width ≤ 256 && p.length == 0x20 + 12 * width
     else width == 0 && fld p 0x18 8 == 0 && p.length == 0x20)

/-- A record refused under 01 R30 for its VERSION, or for its TYPE or length. 05 Table 5.5 names no counter: DROP_VERSION counts the first,
DROP_TYPE the second (DESIGN CHOICE, log entry 34). -/
def State.refuseRecord (s : State) (version : Nat) : State :=
  if version ≠ 1 then s.countDrop fun r => { r with dropVersion := r.dropVersion + 1 }
  else s.countDrop fun r => { r with dropType := r.dropType + 1 }

/-- A contribution record at its destination. -/
def State.takeContribution (s : State) (payload : Bytes) : State :=
  let job := fld payload 4 4
  if fld payload 0 1 ≠ 1 then s.refuseRecord (fld payload 0 1)
  else if s.fb.aborted.contains job then s.dropJobFrame
  else if !contributionOk payload 0 then s.refuseRecord 1
  else
    let width := fld payload 0x12 2
    s.contribution job (fld payload 8 8) (fld payload 0x10 1) (fld payload 0x18 8) width (contributionElems payload width)

def execContributionRecord (h : CourierHdr) (payload : Bytes) (s : State) : Host.Outcome State Fault Refusal :=
  .next (s.withCourier h 1 fun st => st.takeContribution payload)

/-! ### REPLAY_NOTICE (05 R156, R157, 14 R471, R472) -/

/-- A notice for an open step at a lower epoch: the module replays its part. -/
def State.noticeStep (s : State) (job step epoch : Nat) : State :=
  match s.jobStep job step with
  | some o => if o.epoch < epoch then (s.replayRecord o 0).rerun o.tag epoch else s
  | none =>
    if s.fb.committed.contains (job, step) then s.abortJob job 1 s.fb.coord else s

/-- A replay notice at its destination. -/
def State.takeReplay (s : State) (payload : Bytes) : State :=
  let job := fld payload 4 4
  let step := fld payload 8 8
  let epoch := fld payload 0x10 1
  if fld payload 0 1 ≠ 1 then s.refuseRecord (fld payload 0 1)
  else if s.fb.aborted.contains job then s.dropJobFrame
  else if !contributionOk payload 1 then s.refuseRecord 1
  else
    let s1 := match s.ledger job step with
      | some g => if g.epoch < epoch then s.setLedger (g.raise epoch s.tm.tick) else s
      | none => s
    s1.noticeStep job step epoch

def execReplayNotice (h : CourierHdr) (payload : Bytes) (s : State) : Host.Outcome State Fault Refusal :=
  .next (s.withCourier h 1 fun st => st.takeReplay payload)

/-! ### ATTENTION_RESULT (09 R279) -/

def execAttentionResult (stepTag token head : Nat) (s : State) : Host.Outcome State Fault Refusal :=
  if !s.inRun then .next s else .next (s.attend stepTag token head)

end Sys2Proof.Machine
end

