-- ==== Sys2Proof/Machine/Fabric.lean ====
section
/-! DEFINITION. Courier frames: activation records (10 R328, R329), control notices and the abort of a job (10 R330, R352, R353),
parcel frames (06 R170, 10 R327), and the router (10 R334, R335). -/

set_option Elab.async false

namespace Sys2Proof.Machine

/-! ### Activation records (10 R329) -/

/-- Holding space for records of steps that are not open: 16 MiB. -/
def activationSpace : Nat := 16777216

/-- Bytes that a record takes in it: its payload. -/
def Activation.size (a : Activation) : Nat := 0x20 + (if a.f32 then 4 else 2) * a.elems.length

/-- Whether the fields of an activation record are in range (10 Table 10.9). -/
def activationOk (p : Bytes) : Bool :=
  let n := fld p 0x18 2
  fld p 0 1 == 1 && fld p 1 1 ≤ 1 && 1 ≤ n && n ≤ (if fld p 1 1 = 0 then 1016 else 2032) &&
    p.length == 0x20 + (if fld p 1 1 = 0 then 4 else 2) * n

/-- The record that a payload carries. -/
def parseActivation (job now : Nat) (p : Bytes) : Activation :=
  let w := if fld p 1 1 = 0 then 4 else 2
  { job := job, step := fld p 8 8, epoch := fld p 4 1, token := fld p 0x10 4, offset := fld p 0x14 4, f32 := w == 4,
    elems := (List.range (fld p 0x18 2)).map fun i => fld p (0x20 + w * i) w, since := now }

def State.dropActivations (s : State) (n : Nat) : State := s.countDrop fun r => { r with dropActivation := r.dropActivation + n }

def Activation.sameStep (a b : Activation) : Bool := a.job == b.job && a.step == b.step

/-- The tokens of a step that wait for activations move on as far as they can. -/
def State.wakeTokens (s : State) (o : OpenStep) (token : Nat) : State :=
  ((List.range o.tokens.length).zip o.tokens).foldl (fun st e =>
    if e.2.stage = waitStage ∧ areaIndex o e.2 = token then st.advanceToken o.tag e.1 else st) s

/-- A record for an open step: one of a lower epoch is dropped, one of a higher epoch discards the older ones (05 Table 5.6). -/
def State.placeActivation (s : State) (o : OpenStep) (a : Activation) : State :=
  let mine := s.fb.activations.filter fun x => x.sameStep a
  let epoch := maxList (o.epoch :: mine.map Activation.epoch)
  if a.epoch < epoch then s.dropActivations 1
  else
    let keep := s.fb.activations.filter fun x => !x.sameStep a || x.epoch == a.epoch
    ({ s with fb := { s.fb with activations := keep ++ [a] } }).wakeTokens o a.token

/-- A record for a step that is not open: held while there is space. -/
def State.holdActivation (s : State) (a : Activation) : State :=
  if activationSpace < sumList (s.fb.held.map Activation.size) + a.size then s.dropActivations 1
  else { s with fb := { s.fb with held := s.fb.held ++ [a] } }

def State.takeActivation (s : State) (job : Nat) (p : Bytes) : State :=
  if !activationOk p then s.refuseRecord (fld p 0 1)
  else
    let a := parseActivation job s.tm.tick p
    match s.jobStep job a.step with
    | some o => s.placeActivation o a
    | none => s.holdActivation a

def execActivationRecord (h : CourierHdr) (payload : Bytes) (s : State) : Host.Outcome State Fault Refusal :=
  .next (s.withCourier h 3 fun st => st.takeActivation h.job payload)

/-- 100 ms in ticks. -/
def holdTicks : Nat := 25000000

/-- Held records of a token that have waited 100 ms are dropped and counted. -/
def execActivationHoldTimeout (job step token : Nat) (s : State) : Host.Outcome State Fault Refusal :=
  let is (a : Activation) : Bool := a.job == job && a.step == step && a.token == token
  match s.fb.held.find? is with
  | none => .next s
  | some first =>
    let s1 := s.advanceTo (first.since + holdTicks)
    let old (a : Activation) : Bool := is a && a.since + holdTicks ≤ s1.tm.tick
    .next (({ s1 with fb := { s1.fb with held := s1.fb.held.filter fun a => !old a } }).dropActivations
      (s1.fb.held.filter old).length)

/-! ### Control notices (10 R330, R352, R353) -/

/-- A module-down or job-abort notice: its job is aborted with REASON 1. A reserved KIND does nothing. -/
def State.takeControl (s : State) (p : Bytes) : State :=
  let job := fld p 4 4
  if p.length ≠ 16 ∨ 1 < fld p 0 1 then s
  else if s.fb.aborted.contains job then s.dropJobFrame
  else s.abortJob job 1 (fld p 2 2 % 1024)

def execModuleDownNotice (h : CourierHdr) (payload : Bytes) (s : State) : Host.Outcome State Fault Refusal :=
  .next (s.withCourier h 5 fun st => st.takeControl payload)

def execJobAbortNotice (h : CourierHdr) (payload : Bytes) (s : State) : Host.Outcome State Fault Refusal :=
  .next (s.withCourier h 5 fun st => st.takeControl payload)

/-- 50 ms in ticks. -/
def jobWaitTicks : Nat := 12500000

/-- The ticks since which an open step waits for other modules: for activations of a token, for contributions to a ledger line that a contribution
has begun or a token has come to, or for the replay notice that a ledger at a higher epoch announces. No step waits before it opens. -/
def State.waits (s : State) (o : OpenStep) : List Nat :=
  (if o.cmd.firstLayer = 0 then [] else (o.tokens.filter fun t => t.stage == waitStage).map TokenWork.since) ++
    (match s.ledger o.cmd.job o.cmd.stepNumber with
     | some g =>
       let open' := ((g.lines.filter fun l => !l.complete).filterMap Line.quiet)
       (if g.epoch = o.epoch then [] else [Nat.max g.since o.begun]) ++ open'.map (Nat.max o.begun)
     | none => [])

/-- The first of them. -/
def State.waitsSince (s : State) (o : OpenStep) : Option Nat := (s.waits o).min?

/-- The open step of a job that has waited longest for what has not arrived has waited 50 ms (10 Table 10.12). -/
def execJobWaitTimeout (job : Nat) (s : State) : Host.Outcome State Fault Refusal :=
  match ((s.liveSteps.filter fun o => o.cmd.job == job && job != 0 && !o.aborted).filterMap s.waitsSince).min? with
  | none => .next s
  | some t => .next ((s.advanceTo (t + jobWaitTicks)).abortJob job 3 s.fb.coord)

/-! ### Parcel frames (06 R170, 10 R327) -/

def State.takeParcel (s : State) (p : Bytes) : State :=
  if p.length < 16 then s else s.parcelData false (fld p 0 4) (fld p 4 4) (fld p 8 8) (p.drop 16)

def execCourierParcelFrame (h : CourierHdr) (payload : Bytes) (s : State) : Host.Outcome State Fault Refusal :=
  .next (s.withCourier h 2 fun st => st.takeParcel payload)

/-! ### The router (10 R334, R335) -/

/-- A frame at its destination, by its TYPE; TIME and WAKE travel one hop and are taken at their port. -/
def State.takeCourier (s : State) (h : CourierHdr) (p : Bytes) : State :=
  s.withCourier h h.type fun st =>
    if h.type = 1 then (if fld p 1 1 = 1 then st.takeReplay p else st.takeContribution p)
    else if h.type = 2 then st.takeParcel p
    else if h.type = 3 then st.takeActivation h.job p
    else if h.type = 5 then st.takeControl p
    else if h.type = 4 ∨ h.type = 6 then st
    else st.countDrop fun r => { r with dropType := r.dropType + 1 }

/-- A frame at another module than its destination. -/
def State.forward (s : State) (h : CourierHdr) (p : Bytes) : State :=
  if 15 ≤ h.hops then
    (s.countDrop fun r => { r with dropHops := r.dropHops + 1 }).raise 0x0033 4 [h.dest % 1024 + 65536 * (h.src % 1024), h.job]
  else s.sendOrAbort h p

def execCourierFrameRoute (h : CourierHdr) (payload : Bytes) (s : State) : Host.Outcome State Fault Refusal :=
  .next (if !s.arrives h then s else if s.isDest h then s.takeCourier h payload else s.forward h payload)

end Sys2Proof.Machine
end

