-- ==== Sys2Proof/Machine/Registers.lean ====
section
/-! DEFINITION. Writes of the register file on its three paths (13 R432-R435), letterboxes (13 R438-R442), the configuration
seal (13 R448-R452), dead-letter access (13 R455), the emulated registers of register-window mode (11 R389, R390), and the Survey
ADCs' conversions (15 R510-R514). -/

set_option Elab.async false

namespace Sys2Proof.Machine

/-! ### Letterboxes (13 R438-R442) -/

def State.box (s : State) (n : Nat) : Letterbox := at' s.rg.boxes n Letterbox.reset
def State.modBox (s : State) (n : Nat) (f : Letterbox → Letterbox) : State :=
  { s with rg := { s.rg with boxes := modAt s.rg.boxes n f } }

/-- The letterboxes that a path writes (13 R442). -/
def ownsBox (p : Path) (n : Nat) : Bool :=
  match p with
  | .host => n < 12
  | .firmware => n == 12 || n == 13
  | .i3c => n == 14 || n == 15

/-- The tile that a KIND 2 selection names. -/
def boxTile (addr : Nat) : TileId := ⟨bits addr 14 2, bits addr 0 14⟩

/-- Whether a selection of KIND 1 or 2 is refused; KIND 0 selects nothing (13 R440). -/
def State.boxRefused (s : State) (sel addr : Nat) : Bool :=
  let kind := bits sel 0 8
  let count := bits sel 8 5
  if kind = 1 then
    count == 0 || 16 < count || (regInfo addr).isNone || blockOf addr != blockOf (addr + 4 * (count - 1))
  else if kind = 2 then !s.enabled (boxTile addr) || bits addr 16 16 != 0
  else true

/-- A write of LB_SEL: VALID clears and a snapshot starts with the LB_ADDR in force, or the selection is refused. -/
def State.selectBox (s : State) (n v : Nat) : State :=
  s.modBox n fun b =>
    let sel := BitVec.ofNat 32 v
    let base := { b with sel := sel, latched := b.addr.toNat, valid := false, error := false, stale := false, busy := false }
    if bits v 0 8 = 0 then base
    else if s.boxRefused v b.addr.toNat then { base with error := true, data := [] }
    else { base with busy := true }

/-- The MIRROR_STAT bit of the source domain of a register (01 Table 1.9). -/
def mirrorBit (a : Nat) : Option Nat :=
  if 0x6050 ≤ a ∧ a ≤ 0x6058 then some 8
  else if (0x6004 ≤ a ∧ a ≤ 0x6008) ∨ (0x6010 ≤ a ∧ a < 0x6030) then some 7
  else if 0x6100 ≤ a ∧ a < 0x61C0 then some 6
  else if 0x7100 ≤ a ∧ a < 0x7180 then some 5
  else if 0x10000 ≤ a ∧ a < 0x14000 ∧ 0x80 ≤ a % 0x1000 ∧ a % 0x1000 < 0xC8 ∧ a % 0x1000 ≠ 0xC0 then some ((a - 0x10000) / 0x1000)
  else if 0x20000 ≤ a ∧ a < 0x21000 then some ((a - 0x20000) / 0x400)
  else none

/-- The seven words of a KIND 2 snapshot (13 R439): the counters and the time of the last step boundary. -/
def State.tileWords (s : State) (t : TileId) : List Nat :=
  let x := s.tile t
  ((List.range 5).map fun i => at' x.mirror i 0 % 2 ^ 32) ++ [s.tl.mirrorTime % 2 ^ 32, s.tl.mirrorTime / 2 ^ 32 % 2 ^ 32]

/-- The words of a selection, and whether one came from a stale mirror. -/
def State.boxWords (s : State) (sel addr : Nat) : List Nat × Bool :=
  let stat := s.mirrorStat
  if bits sel 0 8 = 2 then (s.tileWords (boxTile addr), bit stat (bits addr 14 2))
  else
    let regs := (List.range (bits sel 8 5)).map fun i => addr + 4 * i
    (regs.map s.readReg, regs.any fun a => match mirrorBit a with
      | some b => bit stat b
      | none => false)

/-- A snapshot completes: every word at one moment, SEQ and VALID together (13 R439). -/
def execLetterboxSnapshotDone (n : Nat) (s : State) : Host.Outcome State Fault Refusal :=
  let b := s.box n
  if !b.busy || !s.hcoreRuns then .next s
  else
    let w := s.boxWords b.sel.toNat b.latched
    .next (s.modBox n fun x =>
      { x with data := w.1.map (BitVec.ofNat 32), stale := w.2, valid := true, seq := (x.seq + 1) % 65536, busy := false })

/-! ### Event records (13 R445) -/

/-- A write of EVR_NEWEST: the held records up to the one with number `v` are cleared, when one has it. -/
def State.clearRecords (s : State) (v : Nat) : State :=
  match s.ev.held.findIdx? fun r => r.seq == v with
  | some i => { s with ev := { s.ev with held := s.ev.held.drop (i + 1) } }
  | none => s

/-! ### The seal (13 R448-R452) -/

def State.modSeal (s : State) (f : Seal → Seal) : State := { s with rg := { s.rg with sealed := f s.rg.sealed } }

/-- OPEN: comparisons are suspended and a pending commit is abandoned; a seal that is open already has been open since its first OPEN
(13 R450, Table 13.9). -/
def State.openSeal (s : State) : State :=
  s.modSeal fun q => { q with opened := true, openedAt := if q.opened then q.openedAt else s.tm.tick, pending := false }

/-- A write of SEAL_CTL. -/
def State.sealAction (s : State) (v : Nat) : State :=
  let s1 := if bit v 0 then s.openSeal else s
  if bit v 1 then s1.commitSeal else s1

/-- Bits that changed with no write: only stored bits of configuration registers count. -/
def State.upset (s : State) (u : Nat × Word) : State :=
  match regInfo u.1 with
  | some i => if inConfigSet u.1 then s.store u.1 (s.stored u.1 ^^^ under u.2.toNat (i.rw + i.rwp)) else s
  | none => s

/-- A scan that completes with a CRC. -/
def State.scanned (s : State) (crc : Word) : State :=
  let s1 := s.modSeal fun q => { q with last := crc, scans := q.scans + 1 }
  let q := s.rg.sealed
  if q.pending then s1.modSeal fun x => { x with ref := some crc, pending := false }
  else
    match q.ref with
    | none => s1
    | some ref =>
      if q.opened || ref == crc then s1
      else
        ((s1.modSeal fun x => { x with faults := x.faults + 1 }).raise 0x0050 4 [ref.toNat, crc.toNat]).drain 9 0x0050 4 0

def execSealScan (upsets : List (Nat × Word)) (s : State) : Host.Outcome State Fault Refusal :=
  let s1 := upsets.foldl State.upset s
  .next (if s1.hcoreRuns then s1.scanned s1.sealCrc else s1)

/-- 10 ms in ticks. -/
def sealTicks : Nat := 2500000

/-- The seal stands open for 10 ms (13 R450). -/
def execSealOpenTimeout (s : State) : Host.Outcome State Fault Refusal :=
  if !s.rg.sealed.opened || !s.hcoreRuns then .next s
  else
    let s1 := s.advanceTo (s.rg.sealed.openedAt + sealTicks)
    let open' := s1.tm.tick - s.rg.sealed.openedAt
    .next ((s1.modSeal fun q => { q with opened := false }).raise 0x0051 4 [open'])

/-! ### Dead-letter access (12 R428, 13 R455) -/

/-- The dump of a slot is marked read. -/
def State.markRead (s : State) (slot : Nat) : State :=
  { s with bt := { s.bt with dumps := modAt s.bt.dumps slot fun d => d.map fun (x : Dump) => { x with unread := false } } }

/-- A restart is refused while the application cores run (12 R428). -/
def State.coresRun (s : State) : Bool := s.bt.run == .running

def State.deadControl (s : State) (v : Nat) : State :=
  let s1 := { s with bt := { s.bt with refused := false } }
  let s2 := if bit v 0 then s1.markRead 0 else s1
  let s3 := if bit v 1 then s2.markRead 1 else s2
  if bit v 2 then
    if s3.coresRun then { s3 with bt := { s3.bt with refused := true } }
    else if s3.pw.stop.isSome then s3 else s3.resetModule true
  else s3

/-! ### Survey ADC registers (15 R511-R513, R515) -/

/-- W1 actions of an ADC: performed now, or held while a trace has the ADC. -/
def State.adcActions (s : State) (n : Nat) (acts : List AdcAction) : State :=
  s.modAdc n fun d =>
    if d.trace then { d with held := d.held ++ acts }
    else acts.foldl (fun x a => x.act (s.stored (adcBase n)) (s.adcSeq n) a) d

/-- A write of SADC_CTL: SETTLED clears when EN becomes set or REF changes; START and STOP act. -/
def State.writeAdcCtl (s : State) (n v : Nat) : State :=
  let a := adcBase n
  let old := s.stored a
  let new := writtenValue a old v
  let s1 := s.store a new
  let moved := (bit new 0 && !bit old 0) || bits new 1 2 != bits old 1 2
  let s2 := s1.modAdc n fun d => if moved && !d.trace then { d with settled := false, since := s.tm.tick } else d
  s2.adcActions n ((if bit v 8 then [.start] else []) ++ (if bit v 9 then [.stop] else []))

/-! ### Writes (13 R431-R435) -/

/-- A change of INTAKE_CTL restarts the stale timer of every queue (13 R453). -/
def State.restartStale (s : State) : State :=
  { s with dp := { s.dp with ports := s.dp.ports.map fun (d : DspPort) =>
      { d with intake0 := { d.intake0 with lastRead := s.stamp, signalled := false },
               intake1 := { d.intake1 with lastRead := s.stamp, signalled := false } } } }

/-- A write of all 32 bits of a register that takes effect on path `p`: stored fields, and the actions of W1, RSQ and letterbox
fields. An address that names no register is ignored. -/
def State.putRegister (s : State) (p : Path) (a v : Nat) : State :=
  if (regInfo a).isNone then s
  else
    let kept := s.store a (writtenValue a (s.stored a) v)
    if 0x1000 ≤ a ∧ a < 0x1800 then
      let n := (a - 0x1000) / 0x80
      if !ownsBox p n then s
      else if a % 0x80 = 0 then s.selectBox n v
      else if a % 0x80 = 4 then s.modBox n fun b => { b with addr := BitVec.ofNat 32 v }
      else kept
    else if a = 0x2000 then s.clearRecords v
    else if a = 0x3000 then (if p = .host then s else kept.sealAction v)
    else if a = 0x6000 then (if s.stored a = writtenValue a (s.stored a) v then kept else kept.restartStale)
    else if 0x10000 ≤ a ∧ a < 0x15000 ∧ a % 0x1000 = 0 then s.writeAdcCtl ((a - 0x10000) / 0x1000) v
    else if 0x10000 ≤ a ∧ a < 0x15000 ∧ a % 0x1000 = 0xC0 then
      kept.adcActions ((a - 0x10000) / 0x1000) (if bit v 17 then [.go] else [])
    else if a = 0x21000 then
      (if bit v 4 && s.inRun then { kept with cl := { kept.cl with pendingTrace := true } } else kept)
    else if a = 0x30010 then kept.deadControl v
    else kept

/-- Whether the I3C path may write a register (13 R434), and whether its domain runs. -/
def State.i3cWrites (s : State) (a : Nat) : Bool :=
  (0x1700 ≤ a && a < 0x1800 && s.hcoreRuns) || (a == 0x2000 && s.hcoreRuns) || a == 0x30010 || a == 0x30020

/-- The writes of one REGWRITE frame, between an opening and a commit of the seal (13 R435). -/
def State.hostWrites (s : State) (l : List (Nat × Nat)) : State :=
  (l.foldl (fun st e => st.putRegister .host e.1 e.2) s.openSeal).commitSeal

/-- A write of one register on a path; one that the path cannot make now has no effect, nor has one that REGWRITE refuses for its address
(13 R431). -/
def State.pathWrite (s : State) (p : Path) (a v : Nat) : State :=
  match p with
  | .host => if s.firmwareRuns && s.leaseLive && physical a then s.hostWrites [(a, v)] else s
  | .firmware => if s.firmwareRuns then s.putRegister .firmware a v else s
  | .i3c => if s.pw.supplied && s.i3cWrites a then s.putRegister .i3c a v else s

def execRegisterWrite (p : Path) (addr : Nat) (value : Word) (s : State) : Host.Outcome State Fault Refusal :=
  .next (s.pathWrite p addr value.toNat)

def execSealOpen (p : Path) (value : Word) (s : State) : Host.Outcome State Fault Refusal :=
  .next (s.pathWrite p 0x3000 value.toNat)

def execSealCommit (p : Path) (value : Word) (s : State) : Host.Outcome State Fault Refusal :=
  .next (s.pathWrite p 0x3000 value.toNat)

def execTraceNow (p : Path) (value : Word) (s : State) : Host.Outcome State Fault Refusal :=
  .next (s.pathWrite p 0x21000 value.toNat)

def execLbSelWrite (p : Path) (n : Nat) (value : Word) (s : State) : Host.Outcome State Fault Refusal :=
  .next (if n < 16 then s.pathWrite p (0x1000 + 0x80 * n) value.toNat else s)

def execEvrNewestWrite (p : Path) (value : Word) (s : State) : Host.Outcome State Fault Refusal :=
  .next (s.pathWrite p 0x2000 value.toNat)

def execDlCtlClear (p : Path) (value : Word) (s : State) : Host.Outcome State Fault Refusal :=
  .next (s.pathWrite p 0x30010 value.toNat)

def execDlCtlRestart (p : Path) (value : Word) (s : State) : Host.Outcome State Fault Refusal :=
  .next (s.pathWrite p 0x30010 value.toNat)

def execDlWinWrite (p : Path) (value : Word) (s : State) : Host.Outcome State Fault Refusal :=
  .next (s.pathWrite p 0x30020 value.toNat)

def execIntakeCtlWrite (p : Path) (value : Word) (s : State) : Host.Outcome State Fault Refusal :=
  .next (s.pathWrite p 0x6000 value.toNat)

def execSadcStart (p : Path) (n : Nat) (value : Word) (s : State) : Host.Outcome State Fault Refusal :=
  .next (if n < 5 then s.pathWrite p (adcBase n) value.toNat else s)

def execSadcStop (p : Path) (n : Nat) (value : Word) (s : State) : Host.Outcome State Fault Refusal :=
  .next (if n < 5 then s.pathWrite p (adcBase n) value.toNat else s)

def execSadcGo (p : Path) (n : Nat) (value : Word) (s : State) : Host.Outcome State Fault Refusal :=
  .next (if n < 5 then s.pathWrite p (adcBase n + 0xC0) value.toNat else s)

/-! ### Reads over I3C and REGREAD (13 R431, R434, R458) -/

/-- A read over I3C: the always-on blocks in every power state, the H core registers while its clock runs, else
0xFFFF_FFFF; an address that names no register reads 0 (13 R431, R458). -/
def State.i3cRead (s : State) (a : Nat) : Nat :=
  match regInfo a with
  | none => 0
  | some _ => if alwaysOn a || s.hcoreRuns then s.readReg a else 0xFFFFFFFF

/-! ### The emulated window (11 R389, R390) -/

/-- The completion and event windows and the registers of 11 Table 11.14, while firmware emulates them. -/
def emulated (a : Nat) : Bool :=
  a % 4 == 0 && (a == 0x100000 || a == 0x100004 || a == 0x100008 || a == 0x10000C || (0x110000 ≤ a && a < 0x120000) ||
    (0x120000 ≤ a && a < 0x128000) || (0x200000 ≤ a && a < 0x600000))

/-- The value of a word of the emulated window. -/
def State.readEmulated (s : State) (a : Nat) : Nat :=
  let q (n : Nat) : Queue := (s.queue n).getD
    { id := n, ctx := 0, prio := 0, weight := 1, sub := ⟨0, 0, 0, 0⟩, comp := ⟨0, 0, 0, 0⟩, expected := 0, reorder := [],
      waiting := [], admitted := 0, ownPort := none, deleting := false, silent := false, order := [], ended := [], unacked := [], window := [],
      retained := [] }
  if a = 0x100000 then b2n s.leaseLive + 2 * b2n (s.dp.orphans && !s.leaseLive) + place s.txVersion 8 8
  else if a = 0x100004 then s.ev.winTail % 2 ^ 32
  else if a = 0x100008 then s.ev.winHead % 2 ^ 32
  else if a = 0x10000C then s.ev.winLost % 2 ^ 32
  else if 0x110000 ≤ a ∧ a < 0x120000 then
    match s.ev.window.find? fun e => e.1 == (a - 0x110000) / 64 with
    | some e => fld e.2.bytes ((a - 0x110000) % 64) 4
    | none => 0
  else if 0x120000 ≤ a ∧ a < 0x128000 then
    let r := (q ((a - 0x120000) / 8)).comp
    (if a % 8 = 0 then r.tail else r.head) % 2 ^ 32
  else if 0x200000 ≤ a ∧ a < 0x600000 then
    match (q ((a - 0x200000) / 0x400)).window.find? fun e => e.1 == (a - 0x200000) % 0x400 / 64 with
    | some e => fld e.2 (a % 64) 4
    | none => 0
  else 0

/-- Completion entries of a queue below a new head are released with their records; what waited for room is delivered. -/
def State.releaseCompletions (s : State) (qn n : Nat) : State :=
  let s1 := s.modQueue qn fun q => { q with comp := { q.comp with head := q.comp.head + n }, unacked := q.unacked.drop n }
  ((s1.deliver qn).sweep).tryEntry

/-- How far a new 32-bit index lies beyond an old one. -/
def ahead (old new : Nat) : Nat := (new + 2 ^ 32 - old % 2 ^ 32) % 2 ^ 32

/-- A write of COMP_HEAD; one that moves it backwards or beyond TAIL is ignored (11 Table 11.14). -/
def State.writeCompHead (s : State) (qn v : Nat) : State :=
  match s.queue qn with
  | none => s
  | some q =>
    let n := ahead q.comp.head v
    if q.comp.tail - q.comp.head < n then s else s.releaseCompletions qn n

def State.writeEvtHead (s : State) (v : Nat) : State := { s with ev := { s.ev with winHead := v % 2 ^ 32 } }

/-- A write of a word of the emulated window: RO fields and the windows' entries ignore it. -/
def State.writeEmulated (s : State) (a v : Nat) : State :=
  if a = 0x100008 then s.writeEvtHead v
  else if 0x120000 ≤ a ∧ a < 0x128000 ∧ a % 8 = 4 then s.writeCompHead ((a - 0x120000) / 8) v
  else s

/-- Whether the emulated window stands: register-window mode under a live lease, with firmware running. -/
def State.emulates (s : State) : Bool := s.windowMode && s.leaseLive && s.firmwareRuns

def execCompHeadWrite (queue : Nat) (value : Word) (s : State) : Host.Outcome State Fault Refusal :=
  .next (if s.emulates then s.writeCompHead queue value.toNat else s)

def execEvtHeadWrite (value : Word) (s : State) : Host.Outcome State Fault Refusal :=
  .next (if s.emulates then s.writeEvtHead value.toNat else s)

/-! ### Conversions (15 R510-R514) -/

/-- Ticks in which a reference settles, by REF: 20 us for the internal one, 50 us for REFIN, 5 us for the supply (15 R511). -/
def settleTicks (ref : Nat) : Nat := if ref = 0 then 20 * ticksPerUs else if ref = 1 then 50 * ticksPerUs else 5 * ticksPerUs

/-- A reference has settled (15 R511). -/
def execSadcSettled (n : Nat) (s : State) : Host.Outcome State Fault Refusal :=
  let ctl := s.stored (adcBase n)
  .next (if s.adcRuns n && bit ctl 0 && !(s.adc n).trace then
      (s.advanceTo ((s.adc n).since + settleTicks (bits ctl 1 2))).modAdc n fun d => { d with settled := true }
    else s)

/-- The reference of a conversion in uV: 1.2 V internally, else REFIN or the supply, as the conversion found it (15 R511). -/
def adcReference (ctl vref : Nat) : Nat := if bits ctl 1 2 = 0 then 1200000 else vref

/-- VALUE of a conversion of entry word `e` (15 R510); inputs 16-31 read 0. A reference of 0 V has no stated result. -/
def adcValue (e vin vref : Nat) : Nat :=
  if 16 ≤ bits e 0 5 then 0
  else if vref = 0 then (Config.outOfSpan 3 vin % 4096).toNat
  else Nat.min 4095 (roundEven (4096 * 2 ^ bits e 5 2 * vin : Nat) vref).toNat

def AdcResult.put (r : AdcResult) (v : Nat) (settled : Bool) : AdcResult :=
  { value := v, settled := settled, count := (r.count + 1) % 65536 }

/-- The four comparators see a counted result of a source (15 R514). -/
def State.compare (s : State) (n source v : Nat) : State :=
  (List.range 4).foldl (fun st k =>
    let cfg := st.stored (adcBase n + 0x100 + 8 * k)
    let lim := st.stored (adcBase n + 0x104 + 8 * k)
    if bit cfg 0 && bits cfg 1 5 == source then
      let was := at' (st.adc n).out k false
      let out := v < bits lim 0 12 || bits lim 16 12 < v
      let s1 := st.modAdc n fun d => { d with out := modAt d.out k fun _ => out }
      if out && !was then s1.raise 0x0110 (if n < 4 then n else 4) [n + 16 * k, v, source] else s1
    else st) s

/-- The end of a pass or of a conversion within it (15 R512). -/
def Adc.advance (d : Adc) (ctl : Nat) (sq : List Word) : Adc :=
  let last := d.entry = d.passLen
  let d1 := if last then { d with passes := (d.passes + 1) % 65536 } else d
  if d1.stopping then { d1 with busy := false, stopping := false, entry := if last then 0 else d1.entry + 1 }
  else if !last then { d1 with entry := d1.entry + 1 }
  else if bit ctl 3 then d1.beginPass ctl sq
  else { d1 with busy := false, entry := 0 }

/-- A conversion of an ADC completes. An injected one comes first: the sequence's conversion was abandoned (15 R513). -/
def execSadcConversionDone (n vinUv vrefUv : Nat) (s : State) : Host.Outcome State Fault Refusal :=
  let d := s.adc n
  let ctl := s.stored (adcBase n)
  if 5 ≤ n || !s.adcRuns n || d.trace || !bit ctl 0 then .next s
  else if d.injBusy then
    let v := adcValue (s.stored (adcBase n + 0xC0)) vinUv (adcReference ctl vrefUv)
    let s1 := s.modAdc n fun x => { x with inj := x.inj.put v x.settled, injBusy := false }
    .next (if d.settled then s1.compare n 16 v else s1)
  else if d.busy then
    let v := adcValue (at' d.passSeq d.entry 0).toNat vinUv (adcReference ctl vrefUv)
    let s1 := s.modAdc n fun x => { x with results := modAt x.results d.entry fun r => r.put v x.settled }
    let s2 := s1.modAdc n fun x => x.advance ctl (s.adcSeq n)
    .next (if d.settled then s2.compare n d.entry v else s2)
  else .next s

end Sys2Proof.Machine
end

