-- ==== Sys2Proof/Machine/Host.lean ====
section
/-! DEFINITION. Tuiven frames from the host: arrival and checks (11 R362), negotiation (11 R364-R372), steps and doorbells (11 R380-
R386), windows (11 R376-R378), registers (11 R391), level 2 (11 R394), the lease (11 R395-R399), intake queues (11 R374, R379) and
DLREAD (12 R428). -/

set_option Elab.async false

namespace Sys2Proof.Machine

/-! ### Arrival (11 R362, Table 11.9) -/

/-- Whether a Tuiven version is one the module advertises (11 R370). -/
def State.advertised (s : State) (v : Nat) : Bool := v == 1 || (v == 2 && !s.bt.compat)

/-- Features advertised (11 Table 11.6). -/
def State.advertisedFeatures (s : State) (v : Nat) : Nat := if s.bt.compat || v = 1 then 0x0A01 else 0x1FFF

/-- VERSION of a frame is implemented and the negotiated one (11 R362); a SELECT negotiates it, on a port where none is in force. -/
def State.versionOk (s : State) (h : FrameHdr) (type : Nat) : Bool :=
  s.advertised h.version && ((type == 2 && !((s.dsp h.port).selected && s.leaseLive)) || (match s.dp.lease with
    | some l => l.version == h.version
    | none => true))

/-- Whether a feature is selected by the SELECT in force. -/
def State.selectedFeature (s : State) (b : Nat) : Bool :=
  match s.dp.lease with
  | some l => bit l.features b
  | none => false

/-- Tuiven-2 frame types, and those a mode or a feature shuts out (11 Table 11.3, R366, R389). -/
def State.typeValid (s : State) (type : Nat) : Bool :=
  let v2 := match s.dp.lease with
    | some l => l.version == 2
    | none => !s.bt.compat
  if type = 16 ∨ type = 17 then v2
  else if type = 19 ∨ type = 22 then v2 && s.selectedFeature 5
  else if type = 13 then !(match s.dp.lease with
    | some l => l.mode == 1
    | none => false)
  else true

/-- Whether a frame comes from the holder of a live lease on a port with a READY. -/
def State.leaseOk (s : State) (port : Nat) : Bool := (s.dsp port).selected && s.leaseLive

/-- Words of 256 bytes that a frame fills in an intake queue (11 R375). -/
def frameWords (len : Nat) : Nat := ceilDiv (36 + len) 256

/-- Frame status 1 to 5 or 2 at the end for the payload's length; 0: accepted. -/
def State.frameStatus (s : State) (h : FrameHdr) (type : Nat) (needsLease lenOk : Bool) : Nat :=
  if !s.versionOk h type then 1
  else if 65536 < h.length then 2
  else if !s.typeValid type then 3
  else if !h.crcOk then 4
  else if needsLease && !s.leaseOk h.port then 5
  else if !lenOk then 2
  else 0

def State.modIntake (s : State) (port chan : Nat) (f : Intake → Intake) : State :=
  s.modDsp port fun d => if chan = 0 then { d with intake0 := f d.intake0 } else { d with intake1 := f d.intake1 }

def State.intake (s : State) (port chan : Nat) : Intake := if chan = 0 then (s.dsp port).intake0 else (s.dsp port).intake1

/-- Words an intake queue holds (11 R374). -/
def intakeSize (chan : Nat) : Nat := if chan = 0 then 4096 else 16

/-- A frame from the host as it came (11 Table 11.2): HCRC over the first 28 bytes of its header, CRC over header and payload. -/
def frameBytes (h : FrameHdr) (type : Nat) (payload : Bytes) : Bytes :=
  let b := sealed (natLe 1 h.version ++ natLe 1 type ++ natLe 1 (2 * b2n h.ackReq) ++ natLe 1 h.context ++ natLe 2 h.queue ++ natLe 2 0 ++
    natLe 4 h.length ++ natLe 4 h.seq ++ natLe 8 h.tag ++ natLe 4 0) ++ payload
  if h.crcOk then sealed b else b ++ natLe 4 (Config.badTrailer b)

/-- A frame read from its bytes: TYPE, header and payload; none where its HCRC fails (11 R361, R362). Reserved bits are not looked at. -/
def readFrame (port : Nat) (b : Bytes) : Option (Nat × FrameHdr × Bytes) :=
  let n := b.length - 4
  if fld b 0x1C 4 ≠ crc32c (b.take 28) then none
  else some (fld b 1 1,
    { port := port, version := fld b 0 1, ackReq := bit (fld b 2 1) 1, context := fld b 3 1, queue := bits (fld b 4 2) 0 12,
      length := bits (fld b 8 4) 0 17, seq := fld b 0xC 4, tag := fld b 0x10 8, crcOk := fld b n 4 == crc32c (b.take n) },
    (b.take n).drop 32)

/-- The words that a frame fills: its bytes in order, the last word padded with zeros (11 R375). -/
def intakeWords (b : Bytes) (crcOk : Bool) : List IntakeWord :=
  let n := ceilDiv b.length 256
  (List.range n).map fun i =>
    { valid := Nat.min 256 (b.length - 256 * i), sof := i == 0, eof := i + 1 == n, abort := i + 1 == n && !crcOk,
      data := padTo 256 (slice b (256 * i) 256) }

/-- The frames that the words of a queue hold. -/
def queuedFrames (ws : List IntakeWord) : List Bytes :=
  (ws.foldl (fun (acc : List Bytes) w =>
    let d := w.data.take w.valid
    if w.sof then d :: acc else ((acc.headD []) ++ d) :: acc.drop 1) []).reverse

/-- The types that the frame mover consumes (11 R376). -/
def moverType (t : Nat) : Bool := t == 10 || t == 15 || t == 22

/-- Whether a queue signals its consumer for what it holds: a frame of a type that firmware consumes, a mover frame where CUT_WORDS is 0,
or mover words that reach CUT_WORDS (11 R379). -/
def signalsFor (cut : Nat) (ws : List IntakeWord) : Bool :=
  let fs := (queuedFrames ws).filterMap (readFrame 0)
  let mover := fs.filter fun f => moverType f.1
  (fs.any fun f => !moverType f.1) ||
    (if cut = 0 then !mover.isEmpty else cut ≤ sumList (mover.map fun f => frameWords f.2.1.length))

/-- CUT_WORDS as it applies: 0 without feature 9 (11 R377). -/
def State.cutWords (s : State) : Nat := if s.selectedFeature 9 then s.storedField 0x6000 0 9 else 0

/-- A frame stays in its queue while firmware does not run; one that finds no room is not sent (11 R357). -/
def State.queueFrame (s : State) (h : FrameHdr) (chan type : Nat) (payload : Bytes) : State :=
  let ws := intakeWords (frameBytes h type payload) h.crcOk
  if (s.intake h.port chan).words.length + ws.length ≤ intakeSize chan then
    s.modIntake h.port chan fun q =>
      { q with words := q.words ++ ws, signalled := q.signalled || signalsFor s.cutWords (q.words ++ ws) }
  else s

/-- A frame read from its intake queue and checked (11 R362): `f` is its effect, `g` the answer to one that is refused with a status. -/
def State.judge (s : State) (h : FrameHdr) (chan type : Nat) (needsLease lenOk : Bool) (f : State → State)
    (g : State → Nat → State) : State :=
  let s2 := s.modIntake h.port chan fun q => { q with lastRead := s.stamp, signalled := false }
  let st := s2.frameStatus h type needsLease lenOk
  if st = 0 then f s2 else g s2 st

/-- A frame for firmware or the frame mover: it arrives and is checked; `f` is its effect, `g` the answer to one that is refused
with a status. -/
def State.takeChecked (s : State) (h : FrameHdr) (chan type : Nat) (payload : Bytes) (needsLease lenOk : Bool) (f : State → State)
    (g : State → Nat → State) : State :=
  if !s.portHears h.port then s
  else
    let s1 := s.frameArrives (chan == 0)
    if !s1.firmwareRuns then s1.queueFrame h chan type payload
    else s1.judge h chan type needsLease lenOk f g

/-- A frame whose refusal is a plain RESPONSE. -/
def State.withFrame (s : State) (h : FrameHdr) (chan type : Nat) (payload : Bytes) (needsLease lenOk : Bool) (f : State → State) : State :=
  s.takeChecked h chan type payload needsLease lenOk f fun st c => st.respond h chan c

/-- A RESPONSE with status accepted, when the frame asked for one (11 Table 11.3). -/
def State.ack (s : State) (h : FrameHdr) : State := if h.ackReq then s.respond h 0 0 else s

/-! ### Negotiation (11 R364-R369, R398) -/

/-- The HELLO payload (11 Table 11.4). -/
def helloBytes (versions gen lease features serial coord orphans dropped holder : Nat) : Bytes :=
  natLe 1 versions ++ natLe 1 gen ++ natLe 1 lease ++ natLe 1 0 ++ natLe 4 1 ++ natLe 8 features ++ natLe 8 serial ++
    natLe 2 coord ++ natLe 2 orphans ++ natLe 4 dropped ++ natLe 8 holder ++ natLe 24 0

def State.coordField (s : State) : Nat := s.fb.coord % 1024 + 32768 * b2n s.fb.coordValid

def State.helloPayload (s : State) (port : Nat) : Bytes :=
  let orphans := if s.dp.orphans && !s.leaseLive then s.sv.contexts.length else 0
  helloBytes (if s.bt.compat then 1 else 3) (s.dsp port).gen (if s.leaseLive then 1 else if orphans = 0 then 0 else 2)
    (s.advertisedFeatures 2) s.serial s.coordField orphans s.dp.dropped (match s.dp.lease with
      | some l => if s.leaseLive then l.host else 0
      | none => 0)

/-- READY's payload: the HELLO payload with the selected values. -/
def State.readyPayload (s : State) (port : Nat) (l : Lease) : Bytes :=
  helloBytes (if l.version = 1 then 1 else 2) (s.dsp port).gen 1 l.features s.serial s.coordField 0 s.dp.dropped l.host

/-- A HELLO is due every 100 us while the link is up, firmware runs with the seal committed, and no SELECT of the port is in
force. -/
def execHelloTimer (port : Nat) (s : State) : Host.Outcome State Fault Refusal :=
  let d := s.dsp port
  .next (if port < 2 && d.state == .up && s.firmwareRuns && !s.rg.sealed.noRef && !d.selected then
      s.sendFrame { port := port, version := 1, type := 1, chan := 1, context := 0, queue := 0, seq := 0, tag := 0,
                    payload := s.helloPayload port }
    else s)

/-- A header whose HCRC fails: dropped and counted (11 R362). -/
def execHeaderCrcFailure (port : Nat) (s : State) : Host.Outcome State Fault Refusal :=
  .next (if s.portHears port then (s.frameArrives false).modDsp port fun d => { d with hdrErr := d.hdrErr + 1 } else s)

/-- The reason for which a SELECT is rejected; 0: none (11 R367, R372). The holder's SELECT of another version while Tuiven-1 is in force has
reason 5, as one that does not match the settings in force (DESIGN CHOICE, log entry 57). -/
def State.selectReason (s : State) (port : Nat) (p : Bytes) : Nat :=
  let version := fld p 0 1
  let mode := fld p 1 1
  let features := fld p 8 8
  let host := fld p 0x10 8
  let other := (s.dsp (1 - port)).selected
  if !s.advertised version then 1
  else if features - Nat.land features (s.advertisedFeatures version) ≠ 0 ∨ !allZero (slice p 3 5) ∨ !allZero (slice p 0x18 40) ∨
      1 < mode ∨ 1 < fld p 2 1 ∨ host = 0 then 2
  else if !bit features mode then 3
  else if s.leaseLive then
    match s.dp.lease with
    | some l =>
      if l.host ≠ host then 4
      else if (other ∧ (l.version ≠ version ∨ l.mode ≠ mode ∨ l.features ≠ features)) ∨ (l.version = 1 ∧ version ≠ 1) then 5
      else 0
    | none => 0
  else 0

/-- A queue deleted with its context, without completions; what is accepted of it is the steps that are open or ended. -/
def State.silenced (s : State) (q : Queue) : Queue :=
  { q with deleting := true, silent := true, waiting := [], reorder := [], retained := [],
           order := q.order.filter fun n => (s.sv.steps.any fun o => o.queue == q.id && o.seq == n) || q.ended.any fun c => c.seq == n }

/-- Every context discarded, its queues without completions (11 R398, R408). -/
def State.discardAll (s : State) : State :=
  let s1 := { s with sv := { s.sv with
    contexts := s.sv.contexts.map fun (c : Context) => { c with discarding := true },
    queues := s.sv.queues.map fun (q : Queue) => if s.sv.contexts.any fun c => c.id == q.ctx then s.silenced q else q } }
  (s1.deliverAll).sweep

/-- A queue whose retained completions are taken back from its ring or window, as not written. -/
def Queue.unwrite (q : Queue) : Queue :=
  let back := (q.retained.filter fun r => !r.2.isEmpty).map fun r => r.1.seq
  let tail := q.comp.tail - back.length
  { q with
    comp := { q.comp with tail := tail },
    unacked := q.unacked.filter fun c => !back.contains c.seq,
    window := (List.range back.length).foldl (fun w i => dropKey w ((tail + i) % 16)) q.window,
    retained := q.retained.map fun r => (r.1, []) }

/-- The retained completions of a queue delivered: frames go out for those written, and the others, for which there was no room, go in front
of its order. Where the new SELECT has another MODE or VERSION, those written under the old one are written `again` (log entry 30). -/
def State.adoptQueue (s : State) (again : Bool) (qn : Nat) : State :=
  let st := if again then s.modQueue qn Queue.unwrite else s
  match st.queue qn with
  | none => st
  | some q =>
    let late := (q.retained.filter fun r => r.2.isEmpty).map (·.1)
    let s1 := st.modQueue qn fun x =>
      { x with order := late.map Completion.seq ++ x.order, ended := late ++ x.ended, retained := [] }
    (s1.sendCompletions qn ((q.retained.map (·.2)).filter fun b => !b.isEmpty)).deliver qn

/-- Retained completions are delivered, in queue order (11 R398). -/
def State.adopt (s : State) (again : Bool) : State :=
  ((sortBy id (s.sv.queues.map Queue.id)).foldl (fun st n => st.adoptQueue again n) s).sweep

/-- Completions retained while no lease was live. -/
def State.retainedCount (s : State) : Nat := sumList (s.sv.queues.map fun q => q.retained.length)

/-- The entry of a lease-ended event with its count of retained completions. -/
def LeaseEnd.entry (e : LeaseEnd) (retained : Nat) : Async :=
  ⟨7, e.number, e.time, natLe 8 e.host ++ natLe 2 retained ++ natLe 1 e.released⟩

/-- The entry written again at its place, with the count it has at READY. -/
def State.rewriteEnd (s : State) (e : LeaseEnd) (retained : Nat) : State :=
  if e.inWindow then
    { s with ev := { s.ev with window := s.ev.window.map fun x => if x.2.code = 7 ∧ x.2.number = e.number then (x.1, e.entry retained) else x } }
  else
    match s.ev.ring with
    | some a => s.writeMem (a + 64 * (e.place % 1024)) (e.entry retained).bytes
    | none => s

/-- Event 7 of the lease that ended, delivered after READY (11 Table 11.15). -/
def State.deliverEnd (s : State) (retained : Nat) : State :=
  match s.dp.endEvent with
  | some e =>
    let s1 := ({ s with dp := { s.dp with endEvent := none } }).rewriteEnd e retained
    if !s1.feature 11 then s1
    else if e.inWindow != s1.windowMode then s1.deliverAsync (e.entry retained)
    else if e.inWindow then s1
    else s1.sendEvent (e.entry retained)
  | none => s

/-- Event 6 of a module flagged at this boot (14 R477). -/
def State.deliverFlag (s : State) : State :=
  if s.bt.flagDue then
    let s1 := { s with bt := { s.bt with flagDue := false } }
    match s1.bt.drainLog.getLast? with
    | some e => s1.async 6 (drainDetail e.cause e.source 1 e.loc e.code)
    | none => s1
  else s

/-- A lease ends (11 R397): no SELECT is in force, contexts are orphaned, event 7 is written. -/
def State.endLease (s : State) (released : Nat) : State :=
  match s.dp.lease with
  | none => s
  | some l =>
    let note := bit l.features 11
    let win := l.mode == 1
    let e : LeaseEnd := ⟨l.host, s.ev.asyncNext, s.time, released, if win then s.ev.winTail else s.ev.ringTail, win⟩
    let s1 := { s with
      dp := { s.dp with lease := none, last := some l, expiring := true, orphans := !s.sv.contexts.isEmpty, dropped := 0,
                        ports := s.dp.ports.map fun (d : DspPort) => { d with selected := false },
                        endEvent := if note then some e else none },
      ev := if note then { s.ev with asyncNext := (s.ev.asyncNext + 1) % 2 ^ 32 } else s.ev }
    (if note then s1.writeAsync (e.entry s1.retainedCount) else s1).deliverAll

/-- The lease that an accepted SELECT makes. -/
def selectLease (p : Bytes) : Lease :=
  { host := fld p 0x10 8, stamp := 0, onCounter := false, version := fld p 0 1, mode := fld p 1 1, features := fld p 8 8,
    suspended := false }

/-- A SELECT accepted: lease, READY, and, when no lease was live, the orphans' fate, event 7 and the flag's event.
Retained completions are delivered though no context was left. -/
def State.selectAccepted (s : State) (h : FrameHdr) (p : Bytes) : State :=
  let wasLive := s.leaseLive
  let s0 := if !wasLive && s.dp.lease.isSome then s.endLease 0 else s
  let l := s0.stampLease (selectLease p)
  let s1 := { s0 with dp := { s0.dp with lease := some l, last := some l, expiring := false } }
  let s2 := s1.modDsp h.port fun d => { d with selected := true }
  let s3 := if wasLive then s2
    else { s2 with sv := { s2.sv with queues := s2.sv.queues.map fun (q : Queue) => { q with ownPort := none } } }
  let s4 := (s3.wakeReattach).sendFrame
    { port := h.port, version := l.version, type := 3, chan := 1, context := 0, queue := h.queue, seq := h.seq, tag := h.tag,
      payload := s3.readyPayload h.port l }
  if wasLive then s4.deliverFlag
  else
    let retained := s4.retainedCount
    let s5 := { s4 with dp := { s4.dp with orphans := false } }
    let s6 := if s4.dp.orphans ∧ fld p 2 1 = 1 then s5.discardAll else s5
    ((s6.adopt (s0.windowMode != s5.windowMode || s0.tuiven1 != s5.tuiven1)).deliverEnd retained).deliverFlag

def execSelect (h : FrameHdr) (payload : Bytes) (s : State) : Host.Outcome State Fault Refusal :=
  .next (s.withFrame h 1 2 payload false (payload.length == 64) fun st =>
    let r := st.selectReason h.port payload
    if r = 0 then st.selectAccepted h payload
    else st.sendFrame { port := h.port, version := st.txVersion, type := 4, chan := 1, context := 0, queue := h.queue, seq := h.seq,
                        tag := h.tag, payload := natLe 1 r ++ natLe 15 0 })

/-- A HEARTBEAT from the holder renews the lease (11 R395, R396). -/
def State.heartbeat (s : State) (h : FrameHdr) (p : Bytes) : State :=
  match s.dp.lease with
  | some l =>
    if fld p 0 8 ≠ l.host then s.respond h 1 5
    else
      let l1 := s.stampLease l
      ({ s with dp := { s.dp with lease := some l1 } }).sendFrame
        { port := h.port, version := s.txVersion, type := 14, chan := 1, context := 0, queue := h.queue, seq := h.seq, tag := h.tag,
          payload := natLe 8 l1.stamp ++ natLe 8 (l1.stamp + leaseTicks) }
  | none => s.respond h 1 5

def execHeartbeat (h : FrameHdr) (payload : Bytes) (s : State) : Host.Outcome State Fault Refusal :=
  .next (s.withFrame h 1 14 payload true (payload.length == 16) fun st => st.heartbeat h payload)

/-- The window of the lease ends (11 R397). -/
def execLeaseExpiry (s : State) : Host.Outcome State Fault Refusal :=
  match s.dp.lease with
  | none => .next s
  | some l =>
    if l.suspended || !s.firmwareRuns then .next s
    else
      let s1 := if l.onCounter then s.counterTo (l.stamp + leaseTicks) else s.advanceTo (l.stamp + leaseTicks)
      .next (if s1.leaseLive then s1 else s1.endLease 0)

/-! ### Submission (11 R368, R380, R381, R386) -/

/-- The header that answers a submission. -/
def Waiting.header (w : Waiting) (queue : Nat) : FrameHdr :=
  { port := w.port, version := 2, ackReq := w.ackReq, context := 0, queue := queue, length := 0, seq := w.seq, tag := w.tag,
    crcOk := true }

/-- The step with the expected number: accepted, refused busy with its number kept, or an entry refused for its length or address,
which consumes its number. A step accepted into a queue that is being deleted never begins a round: it ends with status discarded
(12 Table 12.4). -/
def State.acceptStep (s : State) (qn : Nat) (w : Waiting) : State × Bool :=
  match s.queue qn with
  | none => (s, false)
  | some q =>
    let h := w.header qn
    if w.refuse ≠ 0 then
      ((s.modQueue qn fun x => { x with expected := (x.expected + 1) % 2 ^ 32 }).respond h 0 w.refuse, true)
    else if 256 ≤ q.waiting.length then (s.respond h 0 9, false)
    else if q.deleting then
      let s1 := s.modQueue qn fun x => { x with expected := (x.expected + 1) % 2 ^ 32, order := x.order ++ [w.seq] }
      (((s1.ack h).putUnbegun q w 5 0).sweepQueue qn, true)
    else
      let s1 := s.modQueue qn fun x =>
        { x with expected := (x.expected + 1) % 2 ^ 32, waiting := x.waiting ++ [w], order := x.order ++ [w.seq] }
      (s1.ack h, true)

/-- Held steps whose number has come, at most `n`. -/
def State.drainReorder : Nat → Nat → State → State
  | 0, _, s => s
  | n + 1, qn, s =>
    match s.queue qn with
    | none => s
    | some q =>
      match q.reorder.find? fun w => w.seq == q.expected with
      | none => s
      | some w =>
        let r := (s.modQueue qn fun x => { x with reorder := x.reorder.filter fun y => y.seq != w.seq }).acceptStep qn w
        if r.2 then State.drainReorder n qn r.1 else r.1

/-- A step is handled against the expected number of its queue (11 R380). -/
def State.offer (s : State) (qn : Nat) (w : Waiting) : State :=
  match s.queue qn with
  | none => s
  | some q =>
    let d := ahead q.expected w.seq
    let h := w.header qn
    if d = 0 then
      let r := s.acceptStep qn w
      if r.2 then State.drainReorder 17 qn r.1 else r.1
    else if d ≤ 16 then
      if q.reorder.any fun x => x.seq == w.seq then s.respond h 0 8
      else s.modQueue qn fun x => { x with reorder := x.reorder ++ [w] }
    else if 2 ^ 32 - 4096 ≤ d then s.respond h 0 8
    else s.respond h 0 7

/-- The queue that a STEP or DOORBELL names, with the status that refuses it: not created, deleted without completions (11 R398), bound to
another context, owned by the other port, or the module drained (11 Table 11.9, 14 R476). -/
def State.queueStatus (s : State) (h : FrameHdr) (step : Bool) : Nat :=
  match s.queue h.queue with
  | none => 6
  | some q =>
    if (q.deleting && q.silent) || (step && q.ctx != h.context) then 6
    else if !s.feature 12 && q.ownPort.any (fun p => p != h.port) then 6
    else if s.isDrained then 9
    else 0

/-- The port on which a queue's first frame arrives owns it (11 R368). -/
def State.claimQueue (s : State) (h : FrameHdr) : State :=
  s.modQueue h.queue fun q => { q with ownPort := some (q.ownPort.getD h.port) }

def execStep (h : FrameHdr) (payload : Bytes) (s : State) : Host.Outcome State Fault Refusal :=
  .next (s.withFrame h 0 5 payload true true fun st =>
    let c := st.queueStatus h true
    if c = 6 then st.respond h 0 6
    else if c = 9 then (st.claimQueue h).respond h 0 9
    else (st.claimQueue h).offer h.queue
      { seq := h.seq, tag := h.tag, payload := payload, tuiven1 := st.tuiven1, features := st.featureBits, since := st.tm.tick, port := h.port,
        ackReq := h.ackReq, source := none, refuse := 0 })

/-- 100 us in ticks. -/
def reorderTicks : Nat := 25000

/-- A held step has waited 100 us (11 R380). -/
def execReorderTimeout (queue seq : Nat) (s : State) : Host.Outcome State Fault Refusal :=
  match (s.queue queue).bind fun q => q.reorder.find? fun w => w.seq == seq with
  | none => .next s
  | some w =>
    if !s.firmwareRuns then .next s
    else .next (((s.advanceTo (w.since + reorderTicks)).modQueue queue fun q =>
      { q with reorder := q.reorder.filter fun x => x.seq != seq }).respond (w.header queue) 0 7)

/-- The submission entry of an index (11 Table 11.10). -/
def State.ringEntry (s : State) (q : Queue) (h : FrameHdr) (i : Nat) : Waiting :=
  let size := if s.tuiven1 then 32 else 64
  let b := s.readMem (q.sub.addr + size * (i % 2 ^ q.sub.k)) 24
  let len := fld b 0 4
  let addr := fld b 16 8
  let bad := if len = 0 ∨ 65536 < len then 2 else if s.inWindows (fun k => k == .step) addr len then 0 else 10
  { seq := fld b 4 4, tag := fld b 8 8, payload := if bad = 0 then s.readMem addr len else [], tuiven1 := s.tuiven1,
    features := s.featureBits, since := s.tm.tick, port := h.port, ackReq := false, source := if bad = 0 then some (addr, len) else none, refuse := bad }

/-- Entries from the old tail up to the new one become visible (11 R384). -/
def State.submit (s : State) (h : FrameHdr) (q : Queue) (n : Nat) : State :=
  let s1 := s.modQueue q.id fun x => { x with sub := { x.sub with tail := x.sub.tail + n, head := x.sub.tail + n } }
  (List.range n).foldl (fun st i => st.offer q.id (st.ringEntry q h (q.sub.tail + i))) s1

/-- A doorbell (11 R384). -/
def State.doorbell (s : State) (h : FrameHdr) (p : Bytes) : State :=
  let c := s.queueStatus h false
  if c = 6 then s.respond h 0 6
  else
    let s1 := s.claimQueue h
    match s1.queue h.queue with
    | none => s1
    | some q =>
      let new := fld p 4 4
      if c = 9 then s1.respond h 0 9
      else if fld p 0 1 = 0 then
        let n := ahead q.sub.tail new
        if 2 ^ q.sub.k < n then s1.respond h 0 11 else (s1.ack h).submit h q n
      else if fld p 0 1 = 1 then
        let n := ahead q.comp.head new
        if q.comp.tail - q.comp.head < n then s1.respond h 0 11 else (s1.ack h).releaseCompletions q.id n
      else s1.respond h 0 11

def execDoorbellSubmission (h : FrameHdr) (payload : Bytes) (s : State) : Host.Outcome State Fault Refusal :=
  .next (s.withFrame h 0 13 payload true (payload.length == 8) fun st => st.doorbell h payload)

def execDoorbellCompletion (h : FrameHdr) (payload : Bytes) (s : State) : Host.Outcome State Fault Refusal :=
  .next (s.withFrame h 0 13 payload true (payload.length == 8) fun st => st.doorbell h payload)

/-! ### Windows (11 R376-R378) -/

/-- Whether the mover may have begun on a frame before it ended with ABORT: cut-through applies and every check but the CRC passes (11
R362, R377). -/
def State.cutsThrough (s : State) (h : FrameHdr) (type : Nat) : Bool :=
  !h.crcOk && 1 ≤ s.cutWords && s.cutWords ≤ frameWords h.length && s.leaseOk h.port && s.versionOk h type && s.typeValid type &&
    h.length ≤ 65536

/-- A frame that the mover consumes arrives: where it ends with ABORT under cut-through, `f` first takes the bytes of its payload that the
mover has written by then, those of a number of whole words, which the spec leaves open (11 R378). -/
def State.cutThrough (s : State) (h : FrameHdr) (type : Nat) (payload : Bytes) (f : State → Bytes → State) : State :=
  if h.crcOk || !s.portHears h.port then s
  else
    let s1 := s.frameArrives true
    if s1.firmwareRuns && s1.cutsThrough h type then
      let r := s1.nextDraw
      f r.2 (payload.take (256 * (Config.random r.1 % (frameWords h.length + 1)) - 32))
    else s1

/-- Bytes of a WRITE go to their window. -/
def State.cutWrite (s : State) (whole p : Bytes) : State :=
  if s.inWindows (fun _ => true) (fld whole 0 8) (whole.length - 8) then s.writeMem (fld whole 0 8) (p.drop 8) else s

def execWrite (h : FrameHdr) (payload : Bytes) (s : State) : Host.Outcome State Fault Refusal :=
  .next ((s.cutThrough h 10 payload fun st p => st.cutWrite payload p).withFrame h 0 10 payload true (8 ≤ payload.length) fun st =>
    let addr := fld payload 0 8
    if st.inWindows (fun _ => true) addr (payload.length - 8) then (st.writeMem addr (payload.drop 8)).respond h 0 0
    else st.respond h 0 10)

def execRead (h : FrameHdr) (payload : Bytes) (s : State) : Host.Outcome State Fault Refusal :=
  let n := fld payload 8 4
  .next (s.withFrame h 0 11 payload true (payload.length == 16 && 1 ≤ n && n ≤ 65536) fun st =>
    let addr := fld payload 0 8
    if st.inWindows (fun _ => true) addr n then st.answerData h 0 (st.readMem addr n) else st.respond h 0 10)

/-! ### Parcels (06 R170, R546, 10 R327) -/

def execParcelFrame (h : FrameHdr) (payload : Bytes) (s : State) : Host.Outcome State Fault Refusal :=
  .next ((s.cutThrough h 15 payload fun st p => st.tornParcel (fld payload 0 4) (fld payload 4 4) (fld payload 8 8) (p.drop 16)).withFrame h 0 15 payload true (16 ≤ payload.length) fun st =>
    (st.ack h).parcelData true (fld payload 0 4) (fld payload 4 4) (fld payload 8 8) (payload.drop 16))

/-! ### Registers (11 R391) -/

/-- The addresses of a range of registers. -/
def wordRange (a n : Nat) : List Nat := (List.range n).map fun i => a + 4 * i

/-- Whether REGREAD and REGWRITE reach an address. -/
def State.mapped (s : State) (a : Nat) : Bool := physical a || (s.windowMode && emulated a)

def execRegwrite (h : FrameHdr) (payload : Bytes) (s : State) : Host.Outcome State Fault Refusal :=
  let n := (payload.length - 8) / 4
  .next (s.withFrame h 0 16 payload true (12 ≤ payload.length && payload.length % 4 == 0) fun st =>
    let addrs := wordRange (fld payload 0 8) n
    if !addrs.all st.mapped then st.respond h 0 10
    else
      let vals := (List.range n).map fun i => fld payload (8 + 4 * i) 4
      let s1 := if addrs.all physical then st.hostWrites (addrs.zip vals)
        else (addrs.zip vals).foldl (fun x e => x.writeEmulated e.1 e.2) st
      s1.respond h 0 0)

def execRegread (h : FrameHdr) (payload : Bytes) (s : State) : Host.Outcome State Fault Refusal :=
  let n := fld payload 8 4
  .next (s.withFrame h 0 17 payload true (payload.length == 12 && 1 ≤ n && n ≤ 16384) fun st =>
    let addrs := wordRange (fld payload 0 8) n
    if !addrs.all st.mapped then st.respond h 0 10
    else st.answerData h 0 (addrs.flatMap fun a => natLe 4 (if physical a then st.readReg a else st.readEmulated a)))

/-! ### Level 2 of the poste restante tier (11 R394) -/

/-- A fetch fails: the slot is EXPIRED, and the entry that waits for it ends with held-miss (11 R394, 09 R301). -/
def State.fetchFails (s : State) (slot : Nat) : State :=
  (match s.restoreWaiter slot with
    | some e => s.closeEntry e.1 e.2 17 0
    | none => s).releaseEarly slot

/-- Level 2 withdrawn: what is held there is released as expired, and a fetch in progress fails. An entry whose pages are all back in the
module is held there no more. -/
def State.withdrawL2 (s : State) : State :=
  let s1 := (s.kv.held.filter fun x => x.level == 2 && x.phase != .restoring).foldl (fun st x =>
    if x.phase = .fetching then st.fetchFails x.slot else st.slotExpire x.slot) s
  ({ s1 with dp := { s1.dp with l2Size := none } }).sweep

def execL2reg (h : FrameHdr) (payload : Bytes) (s : State) : Host.Outcome State Fault Refusal :=
  .next (s.withFrame h 0 19 payload true (payload.length == 16) fun st =>
    let n := fld payload 0 8
    if n % 65536 ≠ 0 ∨ 2 ^ 40 < n then st.respond h 0 10
    else if n = 0 then (st.withdrawL2).respond h 0 0
    else ({ st with dp := { st.dp with l2Size := some n } }).respond h 0 0)

/-- Data of a held page that lies in bytes [off, off + data) of level 2. -/
def HeldPage.take2 (p : HeldPage) (size off : Nat) (data : Bytes) : HeldPage :=
  match p.off with
  | none => p
  | some o =>
    if off < o + size ∧ o < off + data.length then
      { p with got := p.got ++ [(off - o, (data.drop (o - off)).take (size - (off - o)))] }
    else p

/-- The bytes of a page as far as they are back without a gap. -/
def HeldPage.back (p : HeldPage) : Bytes :=
  (sortBy (fun (e : Nat × Bytes) => e.1) p.got).foldl
    (fun acc e => if e.1 ≤ acc.length then acc ++ e.2.drop (acc.length - e.1) else acc) []

/-- An entry being fetched takes L2DATA; once every page is back its pages go to frames. -/
def State.l2arrive (s : State) (off : Nat) (data : Bytes) (x : Held) : State :=
  if x.phase != .fetching then s
  else
    let pages := x.pages.map fun p => p.take2 p.size off data
    let s1 := s.modHeld x.slot fun y => { y with pages := pages }
    if pages.all fun p => p.back.length == p.size then
      let full := pages.map fun p => { heldPageFrom p p.back with off := none, got := [], torn := [] }
      s1.modHeld x.slot fun y => { y with pages := full, phase := .restoring }
    else s1

/-- Bytes that an aborted L2DATA has written for the pages of the entries being fetched. -/
def State.tornL2 (s : State) (off : Nat) (data : Bytes) : State :=
  { s with kv := { s.kv with held := s.kv.held.map fun (x : Held) =>
    if x.phase = .fetching then { x with pages := x.pages.map fun (p : HeldPage) =>
        { p with torn := p.torn ++ (p.take2 p.size off data).got.drop p.got.length } }
    else x } }

def execL2data (h : FrameHdr) (payload : Bytes) (s : State) : Host.Outcome State Fault Refusal :=
  .next ((s.cutThrough h 22 payload fun st p => st.tornL2 (fld payload 0 8) (p.drop 8)).withFrame h 0 22 payload true (8 ≤ payload.length) fun st =>
    st.kv.held.foldl (fun a x => a.l2arrive (fld payload 0 8) (payload.drop 8) x) st)

/-- A fetch unanswered for 10 ms: the restore fails (11 R394). -/
def execL2getTimeout (slot : Nat) (s : State) : Host.Outcome State Fault Refusal :=
  match s.heldOf slot with
  | none => .next s
  | some x =>
    if x.phase != .fetching || !s.firmwareRuns then .next s
    else
      .next (s.fetchFails slot).sweep

/-! ### Intake queues (11 R379) -/

/-- A queue that holds words has not been read for the stale timeout: it signals its consumer. The timeout is a window of the step counter, which
does not open while the counter is INVALID (10 R549). -/
def execIntakeStaleTimeout (port chan : Nat) (s : State) : Host.Outcome State Fault Refusal :=
  let q := s.intake port chan
  if 2 ≤ port || 2 ≤ chan || q.words.isEmpty || q.signalled || !s.hcoreRuns then .next s
  else
    match q.lastRead.filter fun _ => s.tm.valid with
    | none => .next s
    | some t => .next ((s.counterTo (t + 25 * s.storedField 0x6000 16 14)).modIntake port chan fun x => { x with signalled := true })

/-! ### DLREAD (11 R359, 12 R428, R429) -/

/-- A DLREAD frame: answered by the island in P0 to P2, whether or not firmware runs; it wakes nothing (15 Table 15.2). -/
def State.withDlread (s : State) (h : FrameHdr) (payload : Bytes) : State :=
  let answer (st : State) (result : Nat) (data : Bytes) : State :=
    st.answerData h 1 (natLe 1 result ++ natLe 3 0 ++ natLe 4 data.length ++ natLe 8 0 ++ data)
  if !s.portHears h.port then s
  else
    let c := s.frameStatus h 18 false (payload.length == 16)
    if c ≠ 0 then s.respond h 1 c
    else
      let op := fld payload 0 1
      let slot := fld payload 1 1
      let len := fld payload 4 4
      let off := fld payload 8 8
      if !allZero (slice payload 2 2) then answer s 1 []
      else if op = 0 then
        answer s 0 (natLe 1 s.bt.run.code ++ natLe 1 s.bt.bootFail ++ natLe 1 s.dumpValid ++ natLe 1 s.lastUpdate ++
          natLe 4 s.bt.overwritten ++ natLe 8 s.bt.dumpTime ++ natLe 16 0)
      else if op = 1 then
        if 1 < slot ∨ len = 0 ∨ 65520 < len then answer s 1 []
        else if 134217728 < off + len then answer s 2 []
        else if !s.bt.hbmReady then answer s 5 []
        else if (at' s.bt.dumps slot none).isNone then answer s 4 []
        else answer s 0 ((List.range len).map fun i => s.dumpAt slot (off + i))
      else if op = 2 then
        if 1 < slot then answer s 1 []
        else if (at' s.bt.dumps slot none).isNone then answer s 4 []
        else answer (s.markRead slot) 0 []
      else if op = 3 then
        if s.coresRun then answer s 3 [] else (answer s 0 []).resetModule true
      else answer s 1 []

def execDlreadStatus (h : FrameHdr) (payload : Bytes) (s : State) : Host.Outcome State Fault Refusal :=
  .next (s.withDlread h payload)

def execDlreadRead (h : FrameHdr) (payload : Bytes) (s : State) : Host.Outcome State Fault Refusal :=
  .next (s.withDlread h payload)

def execDlreadClear (h : FrameHdr) (payload : Bytes) (s : State) : Host.Outcome State Fault Refusal :=
  .next (s.withDlread h payload)

def execDlreadRestart (h : FrameHdr) (payload : Bytes) (s : State) : Host.Outcome State Fault Refusal :=
  .next (s.withDlread h payload)

/-! ### Reserved frame types (11 R362) -/

/-- The types a host sends on a channel (11 Table 11.3) but DATA. -/
def hostTypes (chan : Nat) : List Nat := if chan = 0 then [5, 9, 10, 11, 13, 15, 16, 17, 19, 22] else [2, 14, 18]

/-- The status of a frame of a type that is reserved, that a host does not send, or on the wrong channel: version and length are
checked before the type (11 R362). -/
def State.reservedStatus (s : State) (h : FrameHdr) : Nat :=
  if !s.versionOk h 0 then 1 else if 65536 < h.length then 2 else 3

/-- DATA from the host on channel 0, which answers nothing that the module sends: it is checked as every frame is, and has no effect (11
Table 11.3). -/
def State.hostData (s : State) (h : FrameHdr) (payload : Bytes) : State := s.withFrame h 0 12 payload true true fun st => st.ack h

/-- The answer to a frame of a type that is refused; that to a COMMAND frame carries CODE 0xFFFF (11 R382). -/
def State.refuseType (s : State) (h : FrameHdr) (type chan : Nat) : State :=
  if type = 9 then s.respondWith h chan (s.reservedStatus h) (natLe 2 0xFFFF ++ natLe 6 0) else s.respond h chan (s.reservedStatus h)

def execReservedFrameType (h : FrameHdr) (type chan : Nat) (payload : Bytes) (s : State) : Host.Outcome State Fault Refusal :=
  .next (if (hostTypes chan).contains type || 1 < chan || !s.portHears h.port then s
    else if type = 12 && chan = 0 then s.hostData h payload
    else
      let s1 := s.frameArrives (chan == 0)
      if s1.firmwareRuns then s1.refuseType h type chan else s1.queueFrame h chan type payload)

end Sys2Proof.Machine
end

