-- ==== Sys2Proof/Machine/Timing.lean ====
section
/-! DEFINITION. The step counter over the fabric (10 R339-R345, R549): time exchanges, corrections, the load of an INVALID counter,
alignment, and step boundaries (01 R20). -/

set_option Elab.async false

namespace Sys2Proof.Machine

/-- Time has passed up to a local time. -/
def State.localTo (s : State) (t : Nat) : State := if s.tm.valid then s.counterTo t else s.advanceTo t

/-! ### Loading and stepping (10 R342, R343, R549) -/

/-- An INVALID counter is loaded and becomes VALID: stamps that waited and a live lease begin at this tick, and ALIGNED counts only an exchange
of the last 10 ms. -/
def State.loadCounter (s : State) (v : Nat) : State :=
  let live := s.leaseLive
  let s1 := ((s.modClock fun c =>
    { c with counter := v, valid := true, correction := 0, sinceCorrection := 0, rates := [], rate := 0, rateAcc := 0,
             prevDelay := none }).judgeAligned false).resolveStamps v
  if live then
    match s1.dp.lease with
    | some l => if l.suspended then s1 else { s1 with dp := { s1.dp with lease := some (s1.stampLease l) } }
    | none => s1
  else s1

/-! ### Messages (10 Table 10.10) -/

def timeBytes (kind depth flags seq a b : Nat) : Bytes :=
  natLe 1 kind ++ natLe 1 depth ++ natLe 1 flags ++ natLe 1 0 ++ natLe 4 seq ++ natLe 8 a ++ natLe 8 b ++ natLe 8 0

/-- TFLAGS of this module. -/
def State.timeFlags (s : State) : Nat := b2n s.tm.valid + 2 * b2n s.isAligned

/-- A time message on a port: one hop, to the partner. Its departure stamp is written as its flit leaves (`SentFlit.stamp`). -/
def State.sendTime (s : State) (port kind seq a b : Nat) : State :=
  s.sendCourier ⟨port, { (s.courierHdr 4 (s.port port).partner 0 32) with hops := 1 },
    timeBytes kind s.timeDepth s.timeFlags seq a b⟩

/-- Whether time messages pass on a port. -/
def State.hearsTime (s : State) (port : Nat) : Bool := s.hcoreRuns && s.portTakes port 4

/-- Ports on which a module sends a sync: all that carry time messages but that of its own parent. -/
def State.childPorts (s : State) : List Nat := (List.range 12).filter fun k => s.portTakes k 4 && s.timeParent != some k

/-- The exchange of an interval of 100 us: the module's own is open anew, and its children get their sync (log entry 15). -/
def execTimeExchangeStart (s : State) : Host.Outcome State Fault Refusal :=
  if !s.hcoreRuns then .next s
  else
    let s1 := s.modClock fun c => { c with exchange := none, xseq := (c.xseq + 1) % 2 ^ 32 }
    .next (s1.childPorts.foldl (fun st k => st.sendTime k 0 st.tm.xseq (16 * st.localTime) 0) s1)

/-- A sync from the parent: T2 is stamped and the delay request goes out, T3 its departure. A parent whose counter is INVALID ends the
exchange. -/
def execTimeSync (port : Nat) (m : TimeMsg) (arrival : Nat) (s : State) : Host.Outcome State Fault Refusal :=
  if !s.hearsTime port || m.kind != 0 || s.timeParent != some port then .next s
  else if !m.valid then .next (s.modClock fun c => { c with exchange := none, prevDelay := none })
  else
    let s1 := s.localTo (arrival / 16)
    let t3 := Nat.max arrival (16 * s1.localTime)
    let s2 := s1.modClock fun c => { c with exchange := some ⟨m.seq, m.stampA, arrival⟩ }
    .next (s2.sendTime port 1 m.seq t3 0)

/-- A delay request from a child: answered with T4 and T3 echoed. -/
def execTimeDelayRequest (port : Nat) (m : TimeMsg) (arrival : Nat) (s : State) : Host.Outcome State Fault Refusal :=
  if !s.hearsTime port || m.kind != 1 then .next s
  else .next ((s.localTo (arrival / 16)).sendTime port 2 m.seq arrival m.stampA)

/-! ### Corrections (10 R341-R343) -/

/-- Twice the offset, and twice the path delay, of an exchange, in sixteenths. -/
def Exchange.offset2 (e : Exchange) (t3 t4 : Int) : Int := (e.t2 - e.t1) - (t4 - t3)
def Exchange.delay2 (e : Exchange) (t3 t4 : Int) : Int := (e.t2 - e.t1) + (t4 - t3)

/-- An offset in whole ticks (03 R69). -/
def offsetTicks (o2 : Int) : Int := roundEven o2 32

/-- Whether the parent is in another rack (10 R331). -/
def State.parentElsewhere (s : State) (port : Nat) : Bool := (s.port port).partner / 8 != s.fb.coord / 8

/-- A VALID child corrects its offset: one step forward below -1 us, else single increments. The rate difference to a parent in another rack, which
the offsets of the last 16 exchanges give, is taken back evenly until the next exchange, and on through a holdover (10 R342, R345). -/
def State.correct (s : State) (port : Nat) (o2 : Int) : State :=
  let r := offsetTicks o2
  if o2 < -8000 then
    let n := (-r).toNat
    (s.modClock fun c => { c with counter := c.counter + n, correction := 0 }).raise 0x0034 4 [n % 2 ^ 32, n / 2 ^ 32 % 2 ^ 32]
  else
    let rates := if s.parentElsewhere port then (r :: s.tm.rates).take 16 else []
    s.modClock fun c => { c with correction := r, rates := rates, rate := if rates.length < 16 then 0 else Config.rateCorrection rates }

/-- An INVALID child loads its counter after two exchanges whose path delays agree within a tick. -/
def State.loadFrom (s : State) (o2 d2 : Int) : State :=
  match s.tm.prevDelay with
  | some d => if (d2 - d).natAbs ≤ 32 then s.loadCounter ((s.localTime : Int) - offsetTicks o2).toNat
      else s.modClock fun c => { c with prevDelay := some d2 }
  | none => s.modClock fun c => { c with prevDelay := some d2 }

/-- The delay response completes the exchange; T3 is the departure stamp that it echoes. -/
def execTimeDelayResponse (port : Nat) (m : TimeMsg) (s : State) : Host.Outcome State Fault Refusal :=
  if !s.hearsTime port || m.kind != 2 || s.timeParent != some port then .next s
  else
    match s.tm.exchange.filter fun e => e.seq == m.seq && (s.port port).link.departed == some m.stampB with
    | none => .next s
    | some e =>
      if !m.valid then .next (s.modClock fun c => { c with exchange := none, prevDelay := none })
      else
        let o2 := e.offset2 m.stampB m.stampA
        let s1 := s.modClock fun c => { c with exchange := none, lastExchange := some c.tick, aligned := true, depth := (m.depth + 1) % 256 }
        .next (if s.tm.valid then s1.correct port o2 else s1.loadFrom o2 (e.delay2 m.stampB m.stampA))

/-- No exchange has completed for 10 ms, in whatever power state: ALIGNED clears, with a record where the counter was VALID till now. -/
def execAlignmentLost (s : State) : Host.Outcome State Fault Refusal :=
  match s.tm.lastExchange with
  | none => .next s
  | some t =>
    if !s.tm.aligned || s.isRoot then .next s
    else
      let s1 := (s.advanceTo (t + alignTicks)).modClock fun c => { c with aligned := false }
      .next (if s.tm.valid then s1.raise 0x0035 4 [s1.timeParent.getD 15] else s1)

/-! ### Step boundaries (01 R20) -/

/-- The clock whose multiples of 2,500 are the step boundaries: the step counter, or while it is INVALID the ticks since power-up or the
exit from P4 Seal. -/
def State.boundaryClock (s : State) : Nat := if s.tm.valid then s.tm.counter else s.tm.tick - s.tm.boundFrom

/-- The ticks of the next step boundary, this tick included. -/
def boundaryWait (t : Nat) : Nat := (2500 - t % 2500) % 2500

/-- Counters of a tile as a letterbox shows them: those of every fire latched before the boundary (13 R439). A due in-field test may begin after it
(14 R480). -/
def Tile.snapshot (t : Tile) : Tile :=
  { t with mirror := [t.cntFire, t.cntNull, t.cntRepeat, t.cntMismatch, t.cntFallback],
           test := { t.test with boundary := t.test.boundary || t.test.due } }

/-- A boundary: counters are snapshotted, the mirrors of the domains that run are fresh, new trims take effect (01 R21, 07 R208). -/
def State.stepBoundary (s : State) : State :=
  let trims := (List.range 4).map fun n => (at' s.cl.nextTrims n none).getD (at' s.cl.trims n (0, 0))
  { s with
    cl := { s.cl with trims := trims, nextTrims := [none, none, none, none] },
    tl := { s.tl with tiles := s.tl.tiles.map Tile.snapshot, mirrorTime := s.time },
    rg := { s.rg with mirrorA := [false, false, false, false] } }

def execStepBoundary (s : State) : Host.Outcome State Fault Refusal :=
  if !s.pw.supplied || s.pw.stop.isSome || s.pw.state == .p4 then .next s
  else
    let n := boundaryWait s.boundaryClock
    let s1 := if s.tm.valid then s.counterTo (s.tm.counter + n) else s.advanceTo (s.tm.tick + n)
    let s2 := if s1.inRun then s1.stepBoundary else s1
    .next (if s2.hcoreRuns then { s2 with rg := { s2.rg with mirrorHbm := false, mirrorCourier := false, mirrorDispatch := false } }
      else s2)

end Sys2Proof.Machine
end

