-- ==== Sys2Proof/Machine/Commands.lean ====
section
/-! DEFINITION. Commands (12 R403-R406): the checks that every COMMAND frame meets, the result record, and the commands for windows,
queues, contexts, regions, serving, the lease, the fabric, ports, time, calibration and power. -/

set_option Elab.async false

namespace Sys2Proof.Machine

/-! ### What every command shares (12 R403-R406) -/

/-- The outcome of a command: completion code, DETAIL, output, and the state when the code is done. -/
structure CmdOut where
  code : Nat
  detail : Nat
  out : Bytes
  state : State

def State.done (s : State) : CmdOut := ⟨0, 0, [], s⟩
def State.doneWith (s : State) (out : Bytes) : CmdOut := ⟨0, 0, out, s⟩
def State.fails (s : State) (code : Nat) : CmdOut := ⟨code, 0, [], s⟩
def State.failsAt (s : State) (code detail : Nat) : CmdOut := ⟨code, detail, [], s⟩

/-- A row of 12 Table 12.4: its opcode, the bytes and fields of its fixed arguments, the LM2 column, the feature that it
needs, whether it acts on a drained
module (14 R476), its largest output, the bytes of arguments it wants, the fields that are out of reach, the arguments outside their
range with their offsets, what it does, and what follows its RESPONSE. -/
structure Command where
  opcode : Nat
  size : Nat
  fields : List (Nat × Nat)
  lm2 : Bool := true
  needs : Option Nat := none
  drainOk : Bool := false
  output : Bool := false
  maxOut : State → Nat := fun _ => 0
  want : Bytes → Nat := fun _ => size
  windows : State → Bytes → State := fun s _ => s
  subset : State → Bytes → Bool := fun _ _ => false
  bads : State → Bytes → List (Bool × Nat) := fun _ _ => []
  run : State → Bytes → CmdOut
  post : State → Bytes → State := fun s _ => s

/-- Offsets below `n` at which a byte is not zero. -/
def nonzeroAt (b : Bytes) (n : Nat) : List Nat := (List.range n).filter fun i => at' b i 0 != 0

/-- Reserved bytes of the fixed arguments that are not zero. -/
def Command.reservedFaults (k : Command) (args : Bytes) : List Nat :=
  (nonzeroAt args k.size).filter fun i => !(k.fields.any fun f => f.1 ≤ i && i < f.1 + f.2)

/-- DETAIL of a fault of the arguments (12 Table 12.3): a wrong length first, else the first offending byte. -/
def Command.argFault (k : Command) (s : State) (args : Bytes) : Option Nat :=
  if args.length ≠ k.want args then some (Nat.min args.length (k.want args))
  else argMin id (k.reservedFaults args ++ ((k.bads s args).filter fun e => e.1).map fun e => e.2)

/-- The header offset of a fault of the command header (12 R403). -/
def headerFaultOf (c : CmdFrame) : Option Nat :=
  if c.reserved1 ≠ 0 then some 1
  else if c.argLength + 32 ≠ c.hdr.length then some 4
  else ((nonzeroAt c.reserved16 16).head?).map fun i => i + 16

/-- A command is carried out, or completes with the code of the first check that it fails. -/
def State.carry (s : State) (c : CmdFrame) (k : Command) : CmdOut :=
  if c.cmdver ≠ 1 then s.fails 2
  else
    match headerFaultOf c with
    | some o => s.failsAt 3 (0x80000000 + o)
    | none =>
      if (!k.lm2 && (s.bt.compat || s.tuiven1)) || (k.needs.any fun f => !s.feature f) then s.fails 4
      else if s.isDrained && !k.drainOk then s.fails 5
      else if k.output && c.resultAddr == 0 then s.failsAt 3 0x80000008
      else if c.args.length = k.want c.args ∧ k.subset s c.args then s.fails 4
      else
        match k.argFault s c.args with
        | some o => s.failsAt 3 o
        | none => k.run s c.args

/-- Whether a result record of `n` bytes lies wholly in one result window, on a 64-byte boundary (12 R405, Table 12.2). -/
def State.resultFits (s : State) (a n : Nat) : Bool := a % 64 == 0 && s.inWindows (fun k => k == .result) a n

/-- The result record (12 Table 12.3). -/
def resultRecord (opcode seq : Nat) (r : CmdOut) : Bytes :=
  natLe 2 r.code ++ natLe 2 opcode ++ natLe 4 seq ++ natLe 4 r.out.length ++ natLe 4 r.detail ++ natLe 16 0 ++ r.out

/-- Completion: a command that is not done changes nothing; the record, where a result window holds it, then the RESPONSE. -/
def State.complete (s : State) (c : CmdFrame) (opcode : Nat) (r : CmdOut) : State :=
  let s1 := if r.code = 0 then r.state else s
  let s2 := { s1 with bt := { s1.bt with history := rotate 256 (s1.bt.history ++ [(opcode, r.code)]) } }
  let rec' := resultRecord opcode c.hdr.seq r
  let s3 := if c.resultAddr ≠ 0 && s2.resultFits c.resultAddr rec'.length then s2.writeMem c.resultAddr rec' else s2
  s3.respondWith c.hdr 0 0 (natLe 2 r.code ++ natLe 2 0 ++ natLe 4 r.detail)

/-- The RESPONSE to a COMMAND frame that is refused with a frame status: CODE 0xFFFF (11 R382). -/
def State.refuseCommand (c : CmdFrame) (s : State) (status : Nat) : State :=
  s.respondWith c.hdr 0 status (natLe 2 0xFFFF ++ natLe 6 0)

/-- A command whose frame has passed its checks: the check of its result address (12 R405), then the command. -/
def State.carryOut (c : CmdFrame) (k : Command) (s : State) : State :=
  if c.resultAddr ≠ 0 && !(k.windows s c.args).resultFits c.resultAddr (32 + k.maxOut s) then s.refuseCommand c 10
  else
    let r := s.carry c k
    let s1 := s.complete c k.opcode r
    if r.code = 0 then k.post s1 c.args else s1

/-- The payload of a COMMAND frame (12 Table 12.2). -/
def commandBytes (c : CmdFrame) (opcode : Nat) : Bytes :=
  natLe 1 c.cmdver ++ [c.reserved1] ++ natLe 2 opcode ++ natLe 4 c.argLength ++ natLe 8 c.resultAddr ++ padTo 16 c.reserved16 ++ c.args

/-- A COMMAND frame: its frame checks (11 R362), then the command. -/
def State.command (s : State) (c : CmdFrame) (k : Command) : State :=
  s.takeChecked c.hdr 0 9 (commandBytes c k.opcode) true (32 ≤ c.hdr.length) (State.carryOut c k) (State.refuseCommand c)

/-- An opcode that 12 Table 12.4 does not list. -/
def cmdReserved (opcode : Nat) : Command := { opcode := opcode, size := 0, fields := [], run := fun s _ => s.fails 1 }

/-- A reserved opcode: code opcode, or version (12 R406). -/
def State.reservedCommand (s : State) (c : CmdFrame) (opcode : Nat) : State :=
  s.command { c with reserved1 := 0, argLength := c.hdr.length - 32, reserved16 := [] }
    { cmdReserved opcode with drainOk := true, want := fun a => a.length }

def listedOpcodes : List Nat :=
  [0x01, 0x02, 0x10, 0x11, 0x12, 0x20, 0x21, 0x22, 0x30, 0x31, 0x38, 0x39, 0x40, 0x41, 0x42, 0x50, 0x51, 0x52, 0x53, 0x54, 0x55,
   0x60, 0x61, 0x62, 0x70, 0x71, 0x80, 0x81, 0x82, 0x83, 0x90]

def execReservedOpcode (c : CmdFrame) (opcode : Nat) (s : State) : Host.Outcome State Fault Refusal :=
  .next (if listedOpcodes.contains opcode then s else s.reservedCommand c opcode)

/-! ### Windows (11 R376, 12 Table 12.4) -/

def kindOf (n : Nat) : WindowKind := if n = 0 then .step else if n = 1 then .ring else .result

/-- The window that CREATE_WINDOW asks for. -/
def newWindow (a : Bytes) : Window := ⟨fld a 2 2, kindOf (fld a 0 1), fld a 8 8, fld a 16 8⟩

def windowLow : Nat := 0x010000000000
def windowHigh : Nat := 0x01FFFFFFFFFF

/-- Whether two ranges of addresses share one. -/
def overlap (a n b m : Nat) : Bool := a < b + m && b < a + n

def State.addWindow (s : State) (w : Window) : State := { s with sv := { s.sv with windows := s.sv.windows ++ [w] } }

def cmdCreateWindow : Command :=
  { opcode := 0x01, size := 24, fields := [(0, 1), (2, 2), (8, 8), (16, 8)],
    windows := fun s a => if fld a 0 1 = 2 then s.addWindow (newWindow a) else s,
    bads := fun _ a =>
      let w := newWindow a
      [(2 < fld a 0 1, 0), (255 < w.id, 2), (w.base < windowLow || windowHigh < w.base || w.base % 65536 != 0, 8),
       (w.size == 0 || 2 ^ 32 < w.size || w.size % 65536 != 0 || windowHigh < w.base + w.size - 1, 16)],
    run := fun s a =>
      let w := newWindow a
      if s.sv.windows.any fun x => x.id == w.id || overlap x.base x.size w.base w.size then s.fails 5
      else if 2 ^ 36 < sumList (s.sv.windows.map Window.size) + w.size || s.stackFree (w.id % 16) < w.size then s.fails 6
      else (s.addWindow w).done }

def execCreateWindow (c : CmdFrame) (s : State) : Host.Outcome State Fault Refusal := .next (s.command c cmdCreateWindow)

/-- Bytes of a ring of 2^k entries. -/
def State.ringBytes (s : State) (k : Nat) : Nat := 2 ^ k * (if s.tuiven1 then 32 else 64)

/-- Ranges that rings occupy: address and bytes. -/
def State.ringRanges (s : State) : List (Nat × Nat) :=
  (s.sv.queues.flatMap fun q => [q.sub, q.comp].filterMap fun r => if r.k = 0 then none else some (r.addr, s.ringBytes r.k)) ++
    (match s.ev.ring with
      | some a => [(a, 65536)]
      | none => [])

/-- A ring or an open step's payload lies in a window. -/
def State.windowBusy (s : State) (w : Window) : Bool :=
  (s.ringRanges.any fun r => overlap r.1 r.2 w.base w.size) ||
    s.sv.steps.any fun o => match o.source with
      | some r => overlap r.1 r.2 w.base w.size
      | none => false

def cmdDeleteWindow : Command :=
  { opcode := 0x02, size := 2, fields := [(0, 2)],
    bads := fun _ a => [(255 < fld a 0 2, 0)],
    run := fun s a =>
      match s.sv.windows.find? fun w => w.id == fld a 0 2 with
      | none => s.fails 5
      | some w =>
        if s.windowBusy w then s.fails 5
        else ({ s with sv := { s.sv with windows := s.sv.windows.filter (fun x => x.id != w.id),
                                         mem := memClear s.sv.mem w.base w.size } }).done }

def execDeleteWindow (c : CmdFrame) (s : State) : Host.Outcome State Fault Refusal := .next (s.command c cmdDeleteWindow)

/-! ### Queues and the event ring (08 R238, 11 R383) -/

/-- A ring address: on a 64-byte boundary and wholly inside one ring window. -/
def State.ringFits (s : State) (a n : Nat) : Bool := a % 64 == 0 && s.inWindows (fun k => k == .ring) a n

def newQueue (a : Bytes) : Queue :=
  { id := fld a 0 2, ctx := fld a 2 1, prio := fld a 3 1, weight := fld a 4 1,
    sub := ⟨fld a 8 8, fld a 5 1, 0, 0⟩, comp := ⟨fld a 16 8, fld a 6 1, 0, 0⟩, expected := 0, reorder := [], waiting := [],
    admitted := 0, ownPort := none, deleting := false, silent := false, order := [], ended := [], unacked := [], window := [],
    retained := [] }

/-- K of a ring: 4 to 16 in ring mode, 0 in register-window mode. -/
def State.ringKOk (s : State) (k : Nat) : Bool := if s.windowMode then k == 0 else 4 ≤ k && k ≤ 16

/-- Address of a ring in its mode. -/
def State.ringAddrOk (s : State) (a k : Nat) : Bool :=
  if s.windowMode then a == 0 else !s.ringKOk k || s.ringFits a (s.ringBytes k)

def cmdCreateQueue : Command :=
  { opcode := 0x10, size := 24, fields := [(0, 2), (2, 1), (3, 1), (4, 1), (5, 1), (6, 1), (8, 8), (16, 8)],
    bads := fun s a =>
      let q := newQueue a
      [(4095 < q.id, 0), (7 < q.prio, 3), (q.weight == 0, 4), (!s.ringKOk q.sub.k, 5), (!s.ringKOk q.comp.k, 6),
       (!s.ringAddrOk q.sub.addr q.sub.k, 8), (!s.ringAddrOk q.comp.addr q.comp.k, 16)],
    run := fun s a =>
      let q := newQueue a
      let mine := if s.windowMode then [] else [(q.sub.addr, s.ringBytes q.sub.k), (q.comp.addr, s.ringBytes q.comp.k)]
      if (s.queue q.id).isSome || !(s.context q.ctx).any (fun c => !c.discarding) then s.fails 5
      else if (mine.any fun r => s.ringRanges.any fun x => overlap r.1 r.2 x.1 x.2) ||
          (!s.windowMode && overlap q.sub.addr (s.ringBytes q.sub.k) q.comp.addr (s.ringBytes q.comp.k)) then s.fails 5
      else ({ s with sv := { s.sv with queues := s.sv.queues ++ [q] } }).done }

def execCreateQueue (c : CmdFrame) (s : State) : Host.Outcome State Fault Refusal := .next (s.command c cmdCreateQueue)

/-- A queue is deleted: steps without a round end with status discarded, the rest runs to completion (12 Table 12.4). -/
def State.deleteQueue (s : State) (q : Queue) : State :=
  let s1 := s.modQueue q.id fun x => { x with deleting := true, waiting := [] }
  (q.waiting.foldl (fun st w => st.endUnbegun q w 5 0) s1).sweep

def cmdDeleteQueue : Command :=
  { opcode := 0x11, size := 2, fields := [(0, 2)],
    bads := fun _ a => [(4095 < fld a 0 2, 0)],
    run := fun s a =>
      match s.queue (fld a 0 2) with
      | none => s.fails 5
      | some q => if q.deleting then s.fails 5 else (s.deleteQueue q).done }

def execDeleteQueue (c : CmdFrame) (s : State) : Host.Outcome State Fault Refusal := .next (s.command c cmdDeleteQueue)

def cmdSetEventRing : Command :=
  { opcode := 0x12, size := 8, fields := [(0, 8)],
    bads := fun s a => [(!s.ringFits (fld a 0 8) 65536, 0)],
    run := fun s a =>
      let queues := { s with ev := { s.ev with ring := none } }
      if queues.ringRanges.any fun x => overlap (fld a 0 8) 65536 x.1 x.2 then s.fails 5
      else ({ s with ev := { s.ev with ring := some (fld a 0 8), ringTail := 0 } }).done }

def execSetEventRing (c : CmdFrame) (s : State) : Host.Outcome State Fault Refusal := .next (s.command c cmdSetEventRing)

/-! ### Contexts (08 Table 8.1, R236) -/

def newContext (a : Bytes) : Context :=
  { id := fld a 0 1, tenant := fld a 4 4, model := fld a 8 4, draftModel := fld a 12 4, draftLength := fld a 1 1,
    adapters := (List.range (fld a 26 2)).map fun i => fld a (40 + 2 * i) 2, seqQuota := fld a 16 4, temperature := fld a 24 2,
    topK := fld a 2 2, seed := fld a 32 8, padToken := fld a 20 4, discarding := false }

def contextFields : List (Nat × Nat) :=
  [(0, 1), (1, 1), (2, 2), (4, 4), (8, 4), (12, 4), (16, 4), (20, 4), (24, 2), (26, 2), (32, 8)]

def contextWant (a : Bytes) : Nat := 40 + 2 * fld a 26 2

/-- Fields that the selected features do not offer (11 Table 11.6). -/
def contextSubset (s : State) (a : Bytes) : Bool :=
  (fld a 12 4 != 0 && !s.feature 7) || (fld a 26 2 != 0 && !s.feature 8)

def contextBads (_ : State) (a : Bytes) : List (Bool × Nat) :=
  let c := newContext a
  [(16 < c.draftLength || (c.draftModel != 0 && c.draftLength == 0), 1), (c.topK == 0 || 256 < c.topK, 2), (c.tenant == 0, 4),
   (c.seqQuota == 0 || 65536 < c.seqQuota, 16),
   (b16.special c.temperature || !(Frac.lt ⟨0, 1⟩ (b16.decode c.temperature)), 24), (8192 < fld a 26 2, 26)] ++
    (((List.range c.adapters.length).zip c.adapters).filter fun e => 8191 < e.2).map fun e => (true, 40 + 2 * e.1)

/-- What 08 R236 asks of a context. -/
def State.contextOk (s : State) (c : Context) : Bool :=
  match (s.model c.model).filter fun m => !m.unloading with
  | none => false
  | some m =>
    (c.draftModel == 0 || ((s.model c.draftModel).any fun d => !d.unloading && d.vocab == m.vocab)) &&
      c.adapters.all fun n => s.sv.adapters.any fun x => x.id == n && x.model == c.model && !x.removed

def cmdCreateContext : Command :=
  { opcode := 0x20, size := 40, fields := contextFields, want := contextWant, subset := contextSubset, bads := contextBads,
    run := fun s a =>
      let c := newContext a
      if (s.context c.id).isSome || !s.contextOk c then s.fails 5 else (s.setContext c).done }

def execCreateContext (c : CmdFrame) (s : State) : Host.Outcome State Fault Refusal := .next (s.command c cmdCreateContext)

/-- A context takes new attributes. The length of an open chain stays; a later round takes the new one (08 R266, 12 Table 12.4). -/
def State.changeContext (s : State) (old new : Context) : State :=
  let s1 := s.setContext new
  if old.draftModel = new.draftModel then s1
  else ((s1.sv.slots.filter fun x => x.ctx == new.id).filter fun x => x.state != .busy).foldl (fun st x => st.dropDraft x.id) s1

def cmdChangeContext : Command :=
  { opcode := 0x21, size := 40, fields := contextFields, want := contextWant, subset := contextSubset, bads := contextBads,
    run := fun s a =>
      let c := newContext a
      match s.context c.id with
      | none => s.fails 5
      | some old =>
        if old.discarding || old.tenant != c.tenant || old.model != c.model || !s.contextOk c then s.fails 5
        else (s.changeContext old c).done }

def execChangeContext (c : CmdFrame) (s : State) : Host.Outcome State Fault Refusal := .next (s.command c cmdChangeContext)

def State.markDiscarding (s : State) (n : Nat) : State :=
  { s with sv := { s.sv with contexts := s.sv.contexts.map fun (c : Context) => if c.id = n then { c with discarding := true } else c } }

/-- A context is discarded: each of its queues deleted, its slots free once its last open step has ended (08 Table 8.3). -/
def State.discardContext (s : State) (n : Nat) : State :=
  let s1 := s.markDiscarding n
  let qs := s1.sv.queues.filter fun q => q.ctx == n && !q.deleting
  (qs.foldl State.deleteQueue s1).sweep

def cmdDiscardContext : Command :=
  { opcode := 0x22, size := 1, fields := [(0, 1)],
    run := fun s a =>
      match s.context (fld a 0 1) with
      | none => s.fails 5
      | some c => if c.discarding then s.fails 5 else (s.discardContext c.id).done }

def execDiscardContext (c : CmdFrame) (s : State) : Host.Outcome State Fault Refusal := .next (s.command c cmdDiscardContext)

/-! ### Regions, serving and the lease (09 R271, R294, 11 R397, 12 R408) -/

/-- The regions of the prefix trees and of level 1 at new sizes; every tree released. -/
def State.resizeRegions (s : State) (pfx level1 : Nat) : State :=
  { s with kv := { prefixMib := pfx, level1Mib := level1, chunks := [], frames := [], pages := [], nodes := [], held := [] } }

def cmdSetRegions : Command :=
  { opcode := 0x40, size := 8, fields := [(0, 4), (4, 4)], lm2 := false,
    bads := fun _ a => [(20 < fld a 0 4, 0), (16384 < fld a 4 4, 4)],
    run := fun s a =>
      let s1 := s.resizeRegions (fld a 0 4) (fld a 4 4)
      if s.sv.slots.any fun x => x.state != .free then s.fails 5
      else if (List.range 16).any fun k => stackBytes < s1.regionBytes k then s.fails 6
      else s1.done }

def execSetRegions (c : CmdFrame) (s : State) : Host.Outcome State Fault Refusal := .next (s.command c cmdSetRegions)

def cmdSetServing : Command :=
  { opcode := 0x41, size := 8, fields := [(0, 1), (4, 4)],
    bads := fun _ a => [(fld a 0 1 == 0, 0), (fld a 4 4 == 0 || 86400 < fld a 4 4, 4)],
    run := fun s a => ({ s with dp := { s.dp with rejectThreshold := fld a 0 1, leaseTtl := fld a 4 4 } }).done }

def execSetServing (c : CmdFrame) (s : State) : Host.Outcome State Fault Refusal := .next (s.command c cmdSetServing)

/-- RELEASE_LEASE with ORPHANS 1: every context discarded, the lease over, P1 Hold once no step is open (12 R408). -/
def State.releaseAll (s : State) : State :=
  let s1 := s.discardAll
  let open' := s1.sv.steps.any fun o => !o.aborted
  let s2 := { s1 with dp := { s1.dp with
    lease := none, last := (match s.dp.lease with
      | some l => some l
      | none => s.dp.last),
    orphans := false, dropped := 0, endEvent := none, expiring := open',
    ports := s1.dp.ports.map fun (d : DspPort) => { d with selected := false } } }
  if open' then s2
  else if s2.pw.state = .p0 then s2.enterP1 .lease
  else if s2.pw.hold = .none then { s2 with pw := { s2.pw with hold := .lease } } else s2

def cmdReleaseLease : Command :=
  { opcode := 0x42, size := 1, fields := [(0, 1)], drainOk := true,
    bads := fun _ a => [(1 < fld a 0 1, 0)],
    run := fun s _ => s.done,
    post := fun s a => if fld a 0 1 = 0 then s.endLease 1 else s.releaseAll }

def execReleaseLease (c : CmdFrame) (s : State) : Host.Outcome State Fault Refusal := .next (s.command c cmdReleaseLease)

/-! ### Fabric, jobs, ports and time (10) -/

/-- A port after SET_FABRIC: unused D-ports go OFF, ports that come into use go to DETECT, those in CHECK, UP or MISWIRED to CHECK. -/
def CourierPort.refabric (used : Bool) (p : CourierPort) : CourierPort :=
  if !used then { p with state := .off }
  else
    match p.state with
    | .check | .up | .miswired => { p with state := .check }
    | .off => { p with state := .detect }
    | _ => p

/-- The values that SET_FABRIC sets (10 R331, R332, R340). -/
def State.setFabric (s : State) (coord dim twist fabricId root : Nat) : State :=
  let s1 := { s with fb := { s.fb with coord := coord, coordValid := true, dim := dim, twist := twist, fabricId := fabricId,
                                       timeRoot := root } }
  let s2 := { s1 with fb := { s1.fb with ports := (List.range 12).map fun k => (s1.port k).refabric (s1.portInUse k) } }
  ((List.range 12).foldl State.checkPort s2).judgeAligned s.isAligned

def cmdSetFabric : Command :=
  { opcode := 0x50, size := 10, fields := [(0, 2), (2, 1), (3, 1), (4, 4), (8, 2)],
    bads := fun _ a =>
      let n := Nat.min 10 (fld a 2 1)
      [(2 ^ n ≤ fld a 0 2, 0), (10 < fld a 2 1, 2), (31 < fld a 3 1, 3), (2 ^ n ≤ fld a 8 2, 8)],
    run := fun s a =>
      if s.sv.steps.any fun o => o.cmd.job != 0 then s.fails 5
      else (s.setFabric (fld a 0 2) (fld a 2 1) (fld a 3 1) (fld a 4 4) (fld a 8 2)).done }

def execSetFabric (c : CmdFrame) (s : State) : Host.Outcome State Fault Refusal := .next (s.command c cmdSetFabric)

/-- Places of the entries of a job table. -/
def jobEntries (a : Bytes) : List Nat := (List.range (fld a 4 2)).map fun i => 16 + 8 * i

def newJob (a : Bytes) : Job :=
  { num := fld a 0 4, base := fld a 8 2, mask := fld a 10 2, patch := if fld a 12 2 = 0xFFFF then none else some (fld a 12 2),
    patchVia := fld a 14 2, stages := (jobEntries a).map fun o => (fld a o 2, fld a (o + 2) 2, fld a (o + 4) 2) }

def cmdSetJobTable : Command :=
  { opcode := 0x51, size := 16, fields := [(0, 4), (4, 2), (8, 2), (10, 2), (12, 2), (14, 2)],
    want := fun a => 16 + 8 * fld a 4 2,
    bads := fun _ a =>
      [(fld a 0 4 == 0, 0), (fld a 4 2 == 0 || 256 < fld a 4 2, 4), (1023 < fld a 8 2, 8), (1023 < fld a 10 2, 10),
       (1023 < fld a 12 2 && fld a 12 2 != 0xFFFF, 12), (fld a 12 2 != 0xFFFF && 1023 < fld a 14 2, 14)] ++
        ((jobEntries a).flatMap fun o =>
          [(decide (1023 < fld a (o + 4) 2), o + 4), (at' a (o + 6) 0 != 0, o + 6), (at' a (o + 7) 0 != 0, o + 7)]),
    run := fun s a =>
      ({ s with fb := { s.fb with jobs := putBy (fun j => j.num == (newJob a).num) (newJob a) s.fb.jobs } }).done }

def execSetJobTable (c : CmdFrame) (s : State) : Host.Outcome State Fault Refusal := .next (s.command c cmdSetJobTable)

/-- The steps held for an aborted job end without completions (10 R353). -/
def State.releaseJob (s : State) (job : Nat) : State :=
  (((s.sv.steps.filter fun o => o.cmd.job == job && o.aborted).foldl State.voidStep s).deliverAll).sweep

def cmdReleaseJob : Command :=
  { opcode := 0x52, size := 4, fields := [(0, 4)],
    run := fun s a => if s.fb.aborted.contains (fld a 0 4) then (s.releaseJob (fld a 0 4)).done else s.fails 5 }

def execReleaseJob (c : CmdFrame) (s : State) : Host.Outcome State Fault Refusal := .next (s.command c cmdReleaseJob)

/-- A Courier port reset: DETECT with nothing learnt (10 Table 10.6). -/
def CourierPort.restart (p : CourierPort) : CourierPort :=
  { CourierPort.reset with
    state := .detect, out := p.out, coeffs := p.coeffs,
    link := { p.link.fresh with waiting := p.link.waiting } }

def cmdResetPort : Command :=
  { opcode := 0x53, size := 1, fields := [(0, 1)],
    bads := fun _ a => [(!(fld a 0 1 < 12 || fld a 0 1 == 16 || fld a 0 1 == 17), 0)],
    run := fun s a =>
      let k := fld a 0 1
      if 16 ≤ k then s.done
      else if s.portInUse k then (s.modPort k CourierPort.restart).done
      else s.fails 5,
    post := fun s a =>
      let k := fld a 0 1
      if 16 ≤ k then s.modDsp (k - 16) fun d => { d with state := .training, fallback := false } else s }

def execResetPort (c : CmdFrame) (s : State) : Host.Outcome State Fault Refusal := .next (s.command c cmdResetPort)

/-- The output of READ_PORTS. -/
def State.portsBytes (s : State) : Bytes :=
  (List.range 12).flatMap fun k =>
    let p := s.port k
    natLe 1 p.state.code ++ natLe 1 p.gen ++ natLe 1 p.lanes ++ natLe 1 0 ++ natLe 2 p.partner ++ natLe 1 p.pport ++ natLe 9 0

def cmdReadPorts : Command :=
  { opcode := 0x54, size := 0, fields := [], drainOk := true, output := true, maxOut := fun _ => 192,
    run := fun s _ => s.doneWith s.portsBytes }

def execReadPorts (c : CmdFrame) (s : State) : Host.Outcome State Fault Refusal := .next (s.command c cmdReadPorts)

def cmdLoadTime : Command :=
  { opcode := 0x55, size := 8, fields := [(0, 8)],
    run := fun s a => if s.tm.valid then s.fails 5 else (s.loadCounter (fld a 0 8)).done }

def execLoadTime (c : CmdFrame) (s : State) : Host.Outcome State Fault Refusal := .next (s.command c cmdLoadTime)

/-! ### Calibration, storms and power (07 R227, 04 R133, 15 R496) -/

def cmdRequestCalibration : Command :=
  { opcode := 0x60, size := 4, fields := [(0, 1), (1, 1), (2, 2)],
    bads := fun _ a => [(3 < fld a 0 1, 0), (16 < fld a 1 1, 1), (16383 < fld a 2 2, 2)],
    run := fun s a =>
      let t : TileId := ⟨fld a 0 1, fld a 2 2⟩
      if s.enabled t then (s.requestCal (t.array (fld a 1 1)) 4).done else s.fails 7 }

def execRequestCalibration (c : CmdFrame) (s : State) : Host.Outcome State Fault Refusal :=
  .next (s.command c cmdRequestCalibration)

def cmdReadStorm : Command :=
  { opcode := 0x61, size := 0, fields := [], output := true, maxOut := fun s => 4 * s.ev.stormList.length,
    run := fun s _ => s.doneWith (s.ev.stormList.flatMap fun a => natLe 4 (locOf a)) }

def execReadStorm (c : CmdFrame) (s : State) : Host.Outcome State Fault Refusal := .next (s.command c cmdReadStorm)

def powerOf (n : Nat) : PowerState := if n = 0 then .p0 else if n = 1 then .p1 else if n = 2 then .p2 else if n = 3 then .p3 else .p4

/-- An entry to P2, P3 or P4 begins; the ports that were UP or KEEPALIVE are remembered (10 R322), and P2 or P3 suspends the lease (11
R396). -/
def State.beginPowerEntry (s : State) (goal : PowerState) : State :=
  ({ (if goal = PowerState.p4 then s else s.suspendLease) with pw := { s.pw with
    entry := some ⟨goal, s.tm.tick, false⟩,
    upPorts := (List.range 12).filter fun k => (s.port k).state == PortState.up || (s.port k).state == PortState.keepalive } }).tryEntry

/-- What follows the RESPONSE of SET_POWER_STATE (15 R496, R501). -/
def State.goPower (s : State) (goal : PowerState) : State :=
  if s.pw.state = goal then s
  else
    match goal with
    | .p0 => s.wake 8
    | .p1 => s.enterP1 .none
    | _ => s.beginPowerEntry goal

def cmdSetPowerState : Command :=
  { opcode := 0x62, size := 1, fields := [(0, 1)], drainOk := true,
    bads := fun _ a => [(4 < fld a 0 1, 0)],
    run := fun s _ => s.done,
    post := fun s a => s.goPower (powerOf (fld a 0 1)) }

/-- The command while an entry is pending: code state, the entry unchanged (15 Table 15.4). -/
def cmdPowerPending : Command := { cmdSetPowerState with run := fun s _ => s.fails 5, post := fun s _ => s }

def execSetPowerState (c : CmdFrame) (s : State) : Host.Outcome State Fault Refusal :=
  match s.pw.entry with
  | none => .next (s.command c cmdSetPowerState)
  | some e =>
    let s1 := ({ s with pw := { s.pw with entry := none } }).command c cmdPowerPending
    .next { s1 with pw := { s1.pw with entry := some e } }

end Sys2Proof.Machine
end

