-- ==== Sys2Proof/Machine/Commit.lean ====
section
/-! DEFINITION. The end of a step: outputs and accepted paths (08 R247, 09 R290, R291), compaction (09 R292), the commit of each
entry (08 Table 8.3, 09 R288, R293-R295), and the storm window with its handling (04 R131-R134). -/

set_option Elab.async false

namespace Sys2Proof.Machine

/-! ### Outputs (08 R247) -/

/-- Whether candidate `a` goes before `b`: the higher logit, the lower token on a tie. -/
def logitBefore (a b : Nat × Nat) : Bool :=
  let x := f32.decode a.2
  let y := f32.decode b.2
  if x.eq y then a.1 < b.1 else y.lt x

/-- Insert a candidate into a list in order, kept to `n`. -/
def putCandidate (n : Nat) (c : Nat × Nat) (l : List (Nat × Nat)) : List (Nat × Nat) :=
  ((l.takeWhile fun x => logitBefore x c) ++ c :: l.dropWhile fun x => logitBefore x c).take n

/-- The `n` highest logits with their tokens, highest first. -/
def topLogits (n : Nat) (logits : List Nat) : List (Nat × Nat) :=
  ((List.range logits.length).zip logits).foldl (fun l c => putCandidate n c l) []

/-- The output token of a main-model token: sampled for OUTPUT 2, greedy otherwise (08 R247, 09 R290). -/
def outputAt (c : Context) (e : LenEntry) (t : TokenWork) : Nat :=
  if e.output = 2 then
    let k := topLogits c.topK t.logits
    (at' k (Config.sample c.seed e.slot t.position c.temperature k % Nat.max 1 k.length) (0, 0)).1
  else argMax t.logits

/-- Main-model tokens of an entry, without padding, in element order. -/
def mainTokens (o : OpenStep) (i : Nat) : List TokenWork :=
  sortBy TokenWork.elem (o.tokens.filter fun t => t.entry == i && !t.draft && !t.padding)

/-- The walk of 09 R291 from an element: the path from it, and the bonus token. -/
def walkTree (out : TokenWork → Nat) (kids : List TokenWork) : Nat → TokenWork → List TokenWork × Nat
  | 0, n => ([n], out n)
  | f + 1, n =>
    match kids.find? fun c => c.elem != 0 && c.parent == n.elem && c.token == out n with
    | some c =>
      let r := walkTree out kids f c
      (n :: r.1, r.2)
    | none => ([n], out n)

/-- The accepted path of a KIND 2 or KIND 3 entry and its bonus token (09 R291). -/
def acceptedPath (c : Context) (o : OpenStep) (i : Nat) (e : LenEntry) : List TokenWork × Nat :=
  match mainTokens o i with
  | [] => ([], 0)
  | r :: ts => walkTree (outputAt c e) ts ts.length r

/-! ### COMPACTION_DONE (09 R292) -/

/-- K and V of one storage position of a layer moved to another. -/
def State.moveKv (s : State) (slot layer heads a b : Nat) : State :=
  [false, true].foldl (fun st isV => (List.range heads).foldl (fun x h =>
    match x.getGroup slot false layer a isV h with
    | some g => x.putGroup slot false layer b { g with tok := b % 64 }
    | none => x) st) s

/-- Path elements whose index differs from their depth: (index, depth), by depth. -/
def pathMoves (p : List TokenWork) : List (Nat × Nat) :=
  ((p.zip (List.range p.length)).map fun x => (x.1.elem, x.2)).filter fun x => x.1 != x.2

/-- The path of an entry compacted at every layer. -/
def State.compact (s : State) (o : OpenStep) (i : Nat) (e : LenEntry) (p : List TokenWork) : State :=
  match s.model o.model with
  | none => s
  | some m =>
    ((pathMoves p).foldl (fun st mv => m.kvLayers.foldl (fun x l =>
      match m.layer l with
      | some r => x.moveKv e.slot l r.kvHeads (e.position + mv.1) (e.position + mv.2)
      | none => x) st) s).modEntry o.tag i fun w => { w with compacted := true }

/-- Whether an entry waits for its compaction. -/
def needsCompaction (c : Context) (o : OpenStep) (i : Nat) (e : LenEntry) (w : EntryWork) : Bool :=
  e.kind == 2 && w.status.isNone && !w.compacted && !(pathMoves (acceptedPath c o i e).1).isEmpty

/-- Whether the tokens of an entry have all finished. -/
def entryFinished (o : OpenStep) (i : Nat) : Bool :=
  !(mainTokens o i).isEmpty && (o.tokens.filter fun t => t.entry == i).all TokenWork.finished

def execCompactionDone (stepTag : Nat) (s : State) : Host.Outcome State Fault Refusal :=
  match s.liveStep stepTag with
  | none => .next s
  | some o =>
    let c := o.attrs
    .next (((List.range o.cmd.entries.length).zip (o.cmd.entries.zip o.entries)).foldl (fun st x =>
        if entryFinished o x.1 && needsCompaction c o x.1 x.2.1 x.2.2 then st.compact o x.1 x.2.1 (acceptedPath c o x.1 x.2.1).1
        else st) s)

/-! ### What a commit waits for (05 R159, 04 R138, 09 R292) -/

/-- Whether an entry's own work is over. -/
def entryReadyToCommit (c : Context) (o : OpenStep) (i : Nat) (e : LenEntry) (w : EntryWork) : Bool :=
  w.status.isSome || e.kind == 4 ||
    (!w.matchPending && w.stalledAt.isNone && entryFinished o i && !needsCompaction c o i e w)

/-- Whether no bank, fire, job, comparison or line of a step is left. -/
def State.stepDrained (s : State) (o : OpenStep) : Bool :=
  (s.tl.tiles.all fun t => !t.bank0.of o.tag && !t.bank1.of o.tag && (t.fires.all fun f => f.red.stepTag != o.tag) &&
    !t.owesCheck o.tag o.epoch) &&
  (s.tl.regions.all fun r => (r.jobs.all fun j => j.stepTag != o.tag) && r.spots.all fun j => j.stepTag != o.tag) &&
  (s.tl.spotLast.all fun j => j.stepTag != o.tag) &&
  (s.rd.lines.all fun l => l.stepTag != o.tag || l.complete) &&
  (s.rd.ledgers.all fun g => !(o.isJobStep g.job g.step) || g.lines.all Line.complete)

def State.commitReady (s : State) (o : OpenStep) (c : Context) : Bool :=
  (((List.range o.cmd.entries.length).zip (o.cmd.entries.zip o.entries)).all fun x => entryReadyToCommit c o x.1 x.2.1 x.2.2) &&
    o.tokens.all TokenWork.finished && s.stepDrained o

/-! ### The commit of an entry -/

/-- What a step wrote in a pigeonhole below `top` positions is committed. -/
def Frame.settle (f : Frame) (tag top : Nat) : Frame :=
  { f with data := f.data.map fun g => if g.state = .tentative tag ∧ g.tok < top then { g with state := .committed } else g }

/-- RESERVED frames of an entry that hold a committed position become private; the others return to FREE (09 R293, R295). Positions below
the pointers become readable to every step (09 R278). -/
def State.settleFrames (s : State) (tag slot commit draftCommit : Nat) : State :=
  let keep := (s.kv.pages.filter fun p => p.slot == slot && 64 * p.n < (if p.draft then draftCommit else commit)).map PageEntry.frame
  let settled (f : Frame) : Frame :=
    match s.kv.pages.find? fun p => p.slot == slot && !p.shared && p.frame == f.id with
    | some p => f.settle tag ((if p.draft then draftCommit else commit) - 64 * p.n)
    | none => f
  let own (f : Frame) : Frame :=
    let g := settled f
    if g.owner == .reserved tag slot && keep.contains g.id then { g with owner := .priv slot } else g
  ({ s with kv := { s.kv with frames := s.kv.frames.map own } }).releaseReserved tag slot

/-- What an entry's commit leaves in its slot and reports: new commit pointer, draft pointer, the token kept for the draft model, committed
tokens, consecutive rejects, whether the draft length is lowered, output tokens, top logits. -/
structure EntryEnd where
  commit : Nat
  draftCommit : Nat
  lag : Option Nat
  tokens : List Nat
  rejects : Nat
  lowered : Bool
  out : List Nat
  top : List (Nat × Nat)
  deriving DecidableEq, Repr

/-- The end of a KIND 0 or KIND 1 entry (08 R247, Table 8.3). -/
def plainEnd (c : Context) (o : OpenStep) (i : Nat) (e : LenEntry) (x : Slot) (outputs : Bool) : EntryEnd :=
  let toks := (entryTokens o.cmd i).map (·.1)
  let last := (mainTokens o i).getLast?
  { commit := e.position + toks.length,
    draftCommit := if o.draftModel = 0 then x.draftCommit else e.position + toks.length, lag := x.lag,
    tokens := toks, rejects := x.rejects, lowered := x.lowered,
    out := if outputs && e.output != 0 then (last.map (outputAt c e)).toList else [],
    top := if outputs && e.output == 3 then (match last with
      | some t => topLogits 16 t.logits
      | none => []) else [] }

/-- The end of a KIND 2 or KIND 3 entry (09 R291-R295); `threshold` is the module's rejection threshold. -/
def treeEnd (c : Context) (o : OpenStep) (i : Nat) (e : LenEntry) (x : Slot) (threshold : Nat) : EntryEnd :=
  let p := acceptedPath c o i e
  let m := p.1.length - 1
  let rejects := if m = 0 then x.rejects + 1 else 0
  { commit := e.position + m + 1,
    draftCommit := if e.kind = 3 then e.position + Nat.min (m + 1) x.draftLen else x.draftCommit,
    lag := if e.kind = 3 then (if m = x.draftLen then some (e.position + m) else none) else x.lag,
    tokens := p.1.map TokenWork.token, rejects := rejects,
    lowered := if e.kind != 3 then x.lowered else m == 0 && (x.lowered || threshold ≤ rejects),
    out := if e.output = 0 then [] else (p.1.drop 1).map TokenWork.token ++ [p.2],
    top := if e.output = 3 then (match p.1.getLast? with
      | some t => topLogits 16 t.logits
      | none => []) else [] }

/-- The slot after the commit (08 Table 8.3): HELD with the entry's HOLD_TTL when HOLD is set, else OPEN. -/
def State.leaveBusy (s : State) (e : LenEntry) : State :=
  if e.hold then s.enterTier e.slot e.holdTtl else s.modSlot e.slot fun x => { x with state := .opened }

/-- One entry commits; its result. -/
def State.commitEntry (s : State) (o : OpenStep) (c : Context) (i : Nat) (e : LenEntry) (w : EntryWork) : State × EntryResult :=
  match w.status with
  | some st => (s, { s.plainResult e st w.cause with commit := w.endCommit })
  | none =>
    if e.kind = 4 then
      let s1 := s.slotFree e.slot
      (s1, s1.plainResult e 0 0)
    else
      match s.slot e.slot, s.model o.model with
      | some x, some m =>
        let d := if e.kind = 2 ∨ e.kind = 3 then treeEnd c o i e x s.dp.rejectThreshold
          else plainEnd c o i e x (o.cmd.lastLayer + 1 == m.layers.length)
        let s1 := s.modSlot e.slot fun y =>
          { y with commit := d.commit, draftCommit := d.draftCommit, lag := d.lag, tokens := y.tokens ++ d.tokens, rejects := d.rejects,
                   lowered := d.lowered, lastCommit := s.time }
        let s2 := s1.settleFrames o.tag e.slot d.commit d.draftCommit
        let s3 := if e.pfx then s2.insertPrefix c.tenant e.slot m else s2
        (s3.leaveBusy e,
         { slot := e.slot, estatus := 0, cause := 0, ntokens := d.out.length,
           matched := if e.kind = 0 ∧ e.pfx then w.matched else 0,
           rejects := if e.kind = 2 ∨ e.kind = 3 then d.rejects else 0, output := e.output, commit := d.commit, tokens := d.out,
           top := d.top })
      | _, _ => (s, s.plainResult e 0 0)

/-! ### The storm window (04 R131, R132) -/

/-- Sums over the window: compute fires, and fire-equivalents of causes 1 to 5 in 1/256. -/
def windowFires (w : List (Nat × List Nat × List (ArrId × Nat × Nat))) : Nat := sumList (w.map (·.1))
def windowEquivs (w : List (Nat × List Nat × List (ArrId × Nat × Nat))) : List Nat :=
  (List.range 5).map fun k => sumList (w.map fun e => at' e.2.1 k 0)

/-- The fall-back fraction of a window; 0 without a compute fire. -/
def windowFraction (w : List (Nat × List Nat × List (ArrId × Nat × Nat))) : Frac :=
  if windowFires w = 0 then ⟨0, 1⟩ else ⟨(sumList (windowEquivs w) : Nat), 256 * windowFires w⟩

def saturate32 (n : Nat) : Nat := Nat.min n 0xFFFFFFFF

/-- The window after a commit, its fraction and the status bit; a record when the bit becomes set. -/
def State.stormCommit (s : State) (o : OpenStep) : State :=
  let w := ((o.fires, o.equivs, o.perArray) :: s.sv.storm).take 10
  let f := windowFraction w
  let on := Frac.lt ⟨1, 4⟩ f
  let code := f32.round f
  let rising := on && !s.sv.stormBit
  let s1 := { s with sv := { s.sv with
      storm := w, stormBit := on, stormFraction := code, stormSince := if rising then 0 else s.sv.stormSince + 1,
      recalibrated := if rising then [] else s.sv.recalibrated } }
  if rising then
    ({ s1 with ev := { s1.ev with stormPending := true } }).raise 0x0009 4
      (code :: saturate32 (windowFires w) :: (windowEquivs w).map saturate32)
  else s1

/-! ### STEP_COMMIT (05 R159, 08 R247) -/

def State.commitStep (s : State) (o : OpenStep) (c : Context) : State :=
  let idx := (List.range o.cmd.entries.length).zip (o.cmd.entries.zip o.entries)
  let r := idx.foldl (fun (acc : State × List EntryResult) x =>
    let n := acc.1.commitEntry o c x.1 x.2.1 x.2.2
    (n.1, acc.2 ++ [n.2])) (s, [])
  let s1 := ((r.1.stormCommit o).dropWork o.tag).dropLedger o
  let s2 := if o.cmd.job = 0 then s1
    else { s1 with fb := { s1.fb with committed := s1.fb.committed ++ [(o.cmd.job, o.cmd.stepNumber)] } }
  let s3 := { s2 with pw := { s2.pw with lastActivity := s2.tm.tick } }
  let done := mkCompletion 0 0 o.seq o.hostTag o.queue o.cmd.stepNumber o.port (0 < o.epoch) (!s3.leaseLive) s3.time r.2
  ((((s3.putEnded o.queue done).deliver o.queue).sweep).retryStalled).tryEntry

def execStepCommit (stepTag : Nat) (s : State) : Host.Outcome State Fault Refusal :=
  match s.liveStep stepTag with
  | none => .next s
  | some o =>
    .next (if s.hcoreRuns && s.commitReady o o.attrs then s.commitStep o o.attrs else s)

/-! ### STORM_HANDLING and STORM_RECHECK (04 R133, R134) -/

/-- Sum of a window's counts of one array: compute fires, fire-equivalents of causes 2 and 4. -/
def arrayCounts (w : List (Nat × List Nat × List (ArrId × Nat × Nat))) (a : ArrId) : Nat × Nat :=
  (sumList (w.map fun e => (lookupD e.2.2 a (0, 0)).1), sumList (w.map fun e => (lookupD e.2.2 a (0, 0)).2))

/-- The affected arrays: fire-equivalents of causes 2 and 4 above 25 % of their own compute fires. -/
def affectedArrays (w : List (Nat × List Nat × List (ArrId × Nat × Nat))) : List ArrId :=
  ((w.flatMap fun e => e.2.2.map (·.1)).eraseDups).filter fun a =>
    256 * (arrayCounts w a).1 < 4 * (arrayCounts w a).2

/-- Recalibration requested for the arrays of a list that are in service and not yet recalibrated since the record. -/
def State.recalibrate (s : State) (l : List ArrId) : State :=
  let due := l.filter fun a => (s.dir a).astate != .outOfService && !s.sv.recalibrated.contains a
  let s1 := due.foldl (fun st a => st.requestCal a 2) s
  { s1 with sv := { s1.sv with recalibrated := s1.sv.recalibrated ++ due } }

def execStormHandling (s : State) : Host.Outcome State Fault Refusal :=
  if !s.ev.stormPending || !s.firmwareRuns then .next s
  else
    let l := affectedArrays s.sv.storm
    let s1 := ({ s with ev := { s.ev with stormPending := false, stormList := l } }).recalibrate l
    .next (s1.async 2 (natLe 4 s1.sv.stormFraction ++ ((windowEquivs s1.sv.storm).flatMap fun n => natLe 4 (saturate32 n)) ++
      natLe 2 l.length))

def execStormRecheck (s : State) : Host.Outcome State Fault Refusal :=
  if !s.sv.stormBit || s.ev.stormPending || s.sv.stormSince < 10 || !s.firmwareRuns then .next s
  else .next (({ s with sv := { s.sv with stormSince := s.sv.stormSince - 10 } }).recalibrate (affectedArrays s.sv.storm))

end Sys2Proof.Machine
end

