-- ==== Sys2Proof/Machine/Identity.lean ====
section
/-! DEFINITION. Commands for identity and update: the configuration record's bytes (12 Table 12.10), attestation (12 R421, R422), the
staging and commit of an update (12 R424, R425), RESET_MODULE (12 R418) and DUMP (12 R427). -/

set_option Elab.async false

namespace Sys2Proof.Machine

/-! ### Attestation (12 R421, R422) -/

/-- MODELS_DIGEST; a model that UNLOAD_MODEL has named is resident no more (12 R422, 06 R196). -/
def State.modelsDigest (s : State) : Bytes :=
  sha512Bytes ((sortBy Model.num (s.wt.models.filter fun m => !m.unloading)).flatMap fun m =>
    natLe 4 m.num ++ ((sortBy (fun (x : Master) => x.hdr.index) (s.wt.masters.filter fun x => x.hdr.model == m.num)).flatMap fun x =>
      natBe 64 x.hdr.digest))

/-- Bytes 0x000-0x1FF of the report. -/
def State.reportBody (s : State) (nonce : Bytes) : Bytes :=
  let img (f : Image → Nat) : Nat := match s.bt.image with
    | some i => f i
    | none => 0
  let recBytes := match s.bt.record with
    | some r => r.bytes
    | none => []
  natLe 1 1 ++
    natLe 1 (b2n s.bt.compat + 2 * b2n (s.bt.slot == 1) + 4 * b2n (s.bt.dumps.any Option.isSome) + 8 * b2n s.bt.trialBoot) ++
    natLe 2 0 ++ natLe 4 (img Image.svn) ++ natLe 4 (img Image.fwVersion) ++ slice recBytes 4 4 ++ natLe 8 s.serial ++
    natLe 8 s.time ++ padTo 64 nonce ++ natBe 64 (img Image.headerDigest) ++ sha512Bytes recBytes ++ s.modelsDigest ++
    slice recBytes 0x10 16 ++ natLe 208 0

def State.report (s : State) (nonce : Bytes) : Bytes :=
  let b := s.reportBody nonce
  b ++ ecdsaSign identityKey b

def cmdAttest : Command :=
  { opcode := 0x70, size := 64, fields := [(0, 64)], drainOk := true, output := true, maxOut := fun _ => 644,
    run := fun s a => s.doneWith (s.report a) }

def execAttest (c : CmdFrame) (s : State) : Host.Outcome State Fault Refusal := .next (s.command c cmdAttest)

def cmdReadIdentity : Command :=
  { opcode := 0x71, size := 0, fields := [], drainOk := true, output := true, maxOut := fun _ => 9600,
    run := fun s _ => s.doneWith (padTo 384 s.bt.certificate ++ padTo 9216 (match s.bt.record with
      | some r => r.bytes
      | none => [])) }

def execReadIdentity (c : CmdFrame) (s : State) : Host.Outcome State Fault Refusal := .next (s.command c cmdReadIdentity)

/-! ### Updates (12 R424, R425) -/

def cmdUpdateBegin : Command :=
  { opcode := 0x80, size := 8, fields := [(0, 1), (4, 4)], drainOk := true,
    bads := fun _ a =>
      [(fld a 0 1 != 1 && fld a 0 1 != 2, 0),
       (if fld a 0 1 = 2 then fld a 4 4 != 9216 else fld a 4 4 == 0 || decide ((FlashArea.firmware 0).span.2 < fld a 4 4), 4)],
    run := fun s a => ({ s with bt := { s.bt with staging := some ⟨fld a 0 1, fld a 4 4, []⟩ } }).done }

def execUpdateBegin (c : CmdFrame) (s : State) : Host.Outcome State Fault Refusal := .next (s.command c cmdUpdateBegin)

def cmdUpdateData : Command :=
  { opcode := 0x81, size := 8, fields := [(0, 4)], drainOk := true, want := fun a => Nat.max 8 a.length,
    bads := fun s a => match s.bt.staging with
      | some g => [(g.length < fld a 0 4 + (a.length - 8), 0)]
      | none => [],
    run := fun s a =>
      match s.bt.staging with
      | none => s.fails 5
      | some g => ({ s with bt := { s.bt with staging := some { g with data := g.data ++ [(fld a 0 4, a.drop 8)] } } }).done }

def execUpdateData (c : CmdFrame) (s : State) : Host.Outcome State Fault Refusal := .next (s.command c cmdUpdateData)

/-- The staged byte at an offset: the last written there. -/
def Staging.byte (g : Staging) (i : Nat) : Option Byte :=
  (g.data.foldl (fun r e => if e.1 ≤ i ∧ i < e.1 + e.2.length then (e.2[i - e.1]?) else r) none)

/-- The item, once every byte of it has been written. -/
def Staging.item (g : Staging) : Option Bytes := allBytes ((List.range g.length).map g.byte)
where
  /-- The bytes of a list in which each is there. -/
  allBytes : List (Option Byte) → Option Bytes
    | [] => some []
    | none :: _ => none
    | some x :: xs => (allBytes xs).map fun l => x :: l

/-- The first check of 12 R424 that a firmware image fails; 0: none. -/
def firmwareCheck (minSvn : Nat) (b : Bytes) : Nat :=
  if !imageHeaderOk b then 1 else if !imageCertOk b then 2 else if !imageSigOk b then 3
  else if fld b 4 4 < minSvn then 4 else if !imageBodyOk b then 6 else 0

/-- The fields of a record from its bytes; its certificate and signature have been checked. -/
def parseRecord (b : Bytes) : ConfigRecord :=
  { version := fld b 0 1, recordSeq := fld b 4 4, serial := fld b 8 8, orderCode := (slice b 0x10 16).map BitVec.toNat,
    stepping := 16 * ((fld b 0x20 1 - 0x37) % 16) + (fld b 0x21 1 - 0x30) % 16, tdpW := fld b 0x24 2, pinLimitW := fld b 0x26 2,
    clkAMhz := fld b 0x28 2, clkHMhz := fld b 0x2A 2, clkTileMhz := fld b 0x2C 2, slotDuty := fld b 0x2E 1, minSvn := fld b 0x30 4,
    disabled := ((List.range 65536).filter fun i => !bit (fld b (0x100 + i / 8) 1) (i % 8)).map fun i => ⟨i / 16384, i % 16384⟩,
    reservedZero := true, certOk := true, sigOk := true, idkeyOk := true, raw := b }

/-- What binds a record to its module and its bin: SERIAL, ORDER_CODE, TDP_W to SLOT_DUTY, IDKEY_DIGEST. -/
def recordBinding (b : Bytes) : Bytes := slice b 8 24 ++ slice b 0x24 11 ++ slice b 0x40 64

/-- The first check of 12 R424 that a record fails; 0: none. -/
def recordCheck (now : ConfigRecord) (runningSvn : Nat) (b : Bytes) : Nat :=
  let r := parseRecord b
  if r.version ≠ 1 ∨ !recordReserved b ∨ b.length ≠ 9216 then 1
  else if !recordCertOk b then 2
  else if !recordSigOk b then 3
  else if recordBinding b ≠ recordBinding now.bytes then 5
  else if r.recordSeq ≤ now.recordSeq ∨ r.minSvn < now.minSvn ∨ runningSvn < r.minSvn ∨
      !(now.disabled.all fun t => r.disabled.contains t) then 4
  else 0

/-- The image that the bytes of a firmware item hold. -/
def parseImage (b : Bytes) : Image :=
  { svn := fld b 4 4, fwVersion := fld b 8 4, cmdset := fld b 12 4, headerOk := true, certOk := true, sigOk := true, bodyOk := true,
    headerDigest := sha512 (slice b 0 0x80), raw := b }

/-- The slot of the record that is not in force. -/
def State.spareRecordSlot (s : State) : Nat := if (at' s.bt.records 0 none) == s.bt.record then 1 else 0

/-- A staged item that passed its checks, in the inactive slot. -/
def State.installImage (s : State) (b : Bytes) : State :=
  let k := 1 - s.bt.slot
  { s with bt := { s.bt with images := modAt s.bt.images k fun _ => some (parseImage b),
                             control := { s.bt.control with trial := k + 1, tries := 2 }, staging := none } }

def State.installRecord (s : State) (b : Bytes) : State :=
  { s with bt := { s.bt with records := modAt s.bt.records s.spareRecordSlot fun _ => some (parseRecord b), staging := none } }

def cmdUpdateCommit : Command :=
  { opcode := 0x82, size := 0, fields := [], drainOk := true,
    run := fun s _ =>
      match s.bt.staging, s.bt.record with
      | some g, some r =>
        match g.item with
        | none => s.failsAt 8 1
        | some b =>
          let c := if g.kind = 1 then firmwareCheck r.minSvn b
            else recordCheck r (match s.bt.image with
              | some i => i.svn
              | none => 0) b
          if c ≠ 0 then s.failsAt 8 c
          else if s.bt.flashWriteError then s.fails 9
          else (if g.kind = 1 then s.installImage b else s.installRecord b).done
      | _, _ => s.fails 5 }

def execUpdateCommit (c : CmdFrame) (s : State) : Host.Outcome State Fault Refusal := .next (s.command c cmdUpdateCommit)

/-! ### RESET_MODULE and DUMP -/

def cmdResetModule : Command :=
  { opcode := 0x83, size := 1, fields := [(0, 1)], drainOk := true,
    bads := fun _ a => [(1 < fld a 0 1, 0)],
    run := fun s a => if s.stepsOpen && fld a 0 1 != 1 then s.fails 5 else s.done,
    post := fun s _ => s.resetModule true }

/-- RESET_MODULE. After a crash, with the application cores halted, the command still restarts the module (12 R402): its checks, its RESPONSE
and its reset are then the safety pair's (DEDUCED, log entry 65). -/
def execResetModule (c : CmdFrame) (s : State) : Host.Outcome State Fault Refusal :=
  .next (if s.bt.run == .halted && s.hcoreRuns && s.portHears c.hdr.port then
      (s.frameArrives true).judge c.hdr 0 9 true (32 ≤ c.hdr.length) (State.carryOut c cmdResetModule) (State.refuseCommand c)
    else s.command c cmdResetModule)

def cmdDump : Command :=
  { opcode := 0x90, size := 0, fields := [], drainOk := true, run := fun s _ => (s.writeDump 4 255 [1, 2, 3, 4, 5]).done }

def execDump (c : CmdFrame) (s : State) : Host.Outcome State Fault Refusal := .next (s.command c cmdDump)

end Sys2Proof.Machine
end

