-- ==== Sys2Proof/Machine/Models.lean ====
section
/-! DEFINITION. Commands for models and adapters: the layer configuration (12 R407, 08 Table 8.2), LOAD_MODEL, UNLOAD_MODEL (06 R196),
LOAD_ADAPTER and UNLOAD_ADAPTER (08 R260, R264). -/

set_option Elab.async false

namespace Sys2Proof.Machine

/-! ### The layer configuration (12 Table 12.6) -/

/-- The `n` B16 values at an offset of a configuration, when they lie wholly inside it and all are finite. -/
def configValues (b : Bytes) (off n : Nat) : Option (List Nat) :=
  let v := (List.range n).map fun i => fld b (off + 2 * i) 2
  if off + 2 * n ≤ b.length ∧ v.all (fun x => !b16.special x) then some v else none

/-- A tensor record. INPUT_WIDTH and OUTFMT of the embedding table are ignored, and its BIAS is 0. Its reserved bytes must be 0
(DESIGN CHOICE, log entry 75). -/
def parseTensor (b : Bytes) (p : Nat) : Option TensorRec :=
  let role := fld b (p + 2) 1
  let width := fld b (p + 3) 1
  let outfmt := fld b (p + 4) 1
  let k := fld b (p + 8) 4
  let n := fld b (p + 12) 4
  let bias := fld b (p + 16) 8
  let ok := role ≤ 8 && (role == 8 || ((width == 4 || width == 8) && outfmt ≤ 1)) && allZero (slice b (p + 5) 3) &&
    allZero (slice b (p + 24) 8) && 1 ≤ k && k ≤ 1048576 && 1 ≤ n && n ≤ 1048576 && (role != 8 || bias == 0)
  if !ok then none
  else (if bias = 0 then some [] else configValues b bias n).map fun v =>
    { tensor := fld b p 2, role := role, inputWidth := width, outfmt := outfmt, k := k, n := n, bias := v }

/-- A layer record at `p`, without its gains; TENSORS records follow it. Its reserved bytes must be 0 (DESIGN CHOICE, log entry 75). -/
def parseLayer (b : Bytes) (p : Nat) : Option LayerRec :=
  let heads := fld b (p + 4) 2
  let kv := fld b (p + 6) 1
  let rotary := fld b (p + 8) 4
  let n := fld b (p + 7) 1
  let ok := p + 64 + 32 * n ≤ b.length && fld b p 1 ≤ 2 && fld b (p + 1) 1 ≤ 2 && fld b (p + 2) 1 ≤ 1 && fld b (p + 3) 1 ≤ 2 &&
    1 ≤ heads && heads ≤ 256 && 1 ≤ kv && kv ≤ 64 && heads % kv == 0 && !f32.special rotary &&
    Frac.lt ⟨0, 1⟩ (f32.decode rotary) && allZero (slice b (p + 12) 4) && allZero (slice b (p + 24) 40)
  if !ok then none
  else (allSome ((List.range n).map fun i => parseTensor b (p + 64 + 32 * i))).map fun ts =>
    { norm := fld b p 1, activation := fld b (p + 1) 1, kvB16 := fld b (p + 2) 1 == 1, headDim := 64 * 2 ^ fld b (p + 3) 1,
      qHeads := heads, kvHeads := kv, rotary := rotary, gains := [], tensors := ts }

/-- `n` layer records from `p` on, each with its place. -/
def parseLayers (b : Bytes) : Nat → Nat → Option (List (Nat × LayerRec))
  | 0, _ => some []
  | n + 1, p =>
    match parseLayer b p with
    | none => none
    | some l => (parseLayers b n (p + 64 + 32 * l.tensors.length)).map fun r => (p, l) :: r

/-- The gains of a layer: as many as the model is wide; none when NORM is 0, and then NORM_GAINS is 0. -/
def layerGains (b : Bytes) (width : Nat) (e : Nat × LayerRec) : Option LayerRec :=
  let off := fld b (e.1 + 16) 8
  if e.2.norm = 0 then (if off = 0 then some e.2 else none)
  else if off = 0 then none
  else (configValues b off width).map fun v => { e.2 with gains := v }

/-- Whether ROLE 7 stands only in the last layer, ROLE 8 once in layer 0 as the header says, and TENSOR numbers are distinct. -/
def rolesOk (ls : List LayerRec) (vocab embed : Nat) : Bool :=
  let has (l : LayerRec) (r : Nat) : List TensorRec := l.tensors.filter fun t => t.role == r
  (match ls with
    | [] => false
    | l :: rest =>
      (match has l 8 with
        | [t] => t.tensor == embed && t.n == vocab
        | _ => false) && rest.all fun x => (has x 8).isEmpty) &&
    (ls.dropLast.all fun l => (has l 7).isEmpty) &&
    ls.all fun l => (l.tensors.map TensorRec.tensor).eraseDups.length == l.tensors.length

/-- The model that a layer configuration describes; none when it breaks 12 R407, or when a reserved byte of it is not 0 (DESIGN CHOICE, log
entry 75). -/
def parseConfig (num : Nat) (b : Bytes) : Option Model :=
  if b.length < 16 ∨ fld b 0 1 ≠ 1 ∨ !allZero (slice b 1 3) ∨ !allZero (slice b 6 2) then none
  else
    let vocab := fld b 8 4
    let embed := fld b 12 4
    match parseLayers b (fld b 4 2) 16 with
    | none => none
    | some es =>
      let width := match (es.head?).bind fun e => e.2.role 8 with
        | some t => t.k
        | none => 0
      if !rolesOk (es.map fun e => e.2) vocab embed then none
      else (allSome (es.map (layerGains b width))).map fun ls => ⟨num, ls, vocab, embed, false⟩

/-! ### LOAD_MODEL and UNLOAD_MODEL -/

/-- Bytes that lie wholly inside one step-buffer window. -/
def State.inStepWindow (s : State) (a n : Nat) : Bool := s.inWindows (fun k => k == .step) a n

def cmdLoadModel : Command :=
  { opcode := 0x30, size := 16, fields := [(0, 4), (4, 4), (8, 8)],
    bads := fun s a =>
      [(fld a 0 4 == 0, 0), (fld a 4 4 < 16, 4), (!s.inStepWindow (fld a 8 8) (fld a 4 4), 8)],
    run := fun s a =>
      let num := fld a 0 4
      match parseConfig num (s.readMem (fld a 8 8) (fld a 4 4)) with
      | none => s.failsAt 3 8
      | some m =>
        if (s.model num).isSome then s.fails 5
        else if 64 ≤ s.wt.models.length then s.fails 6
        else ({ s with wt := { s.wt with models := s.wt.models ++ [m] } }).done }

def execLoadModel (c : CmdFrame) (s : State) : Host.Outcome State Fault Refusal := .next (s.command c cmdLoadModel)

def State.markUnloading (s : State) (n : Nat) : State :=
  { s with wt := { s.wt with models := s.wt.models.map fun (m : Model) => if m.num = n then { m with unloading := true } else m } }

/-- Whether arrays of a model that is not resident are still bound to it (06 Table 6.5, R198). -/
def State.unboundOf (s : State) (n : Nat) : Bool := s.wt.directory.any fun e => e.2.astate == .unbound && e.2.model == n

def cmdUnloadModel : Command :=
  { opcode := 0x31, size := 4, fields := [(0, 4)],
    run := fun s a =>
      let n := fld a 0 4
      match s.model n with
      | some m => if m.unloading then s.fails 5 else ((s.markUnloading n).sweep).done
      | none => if s.unboundOf n then (s.releaseModel n).done else s.fails 5 }

def execUnloadModel (c : CmdFrame) (s : State) : Host.Outcome State Fault Refusal := .next (s.command c cmdUnloadModel)

/-! ### Adapters (08 R260, R264) -/

/-- Bytes of a matrix of some rows and `n` columns in T8 lines: each row is padded to whole blocks of 32 elements, and only the unused blocks of
the matrix's last line are null blocks (03 R76). -/
def t8Bytes (rows n : Nat) : Nat := ceilDiv (rows * ceilDiv n 32) 16 * lineBytes 2

/-- Bytes of a down matrix, and of an up matrix (08 R260). -/
def downBytes (rank k : Nat) : Nat := t8Bytes rank k
def upBytes (n rank : Nat) : Nat := t8Bytes n rank

/-- Whether T8 lines hold no block that 03 R75 calls invalid, and none that is saturated, whose unclamped copy (03 R79) an adapter has no
place for: LOAD_ADAPTER takes either for a format error of its item (DESIGN CHOICE, log entry 47). -/
def linesOk (b : Bytes) : Bool :=
  (List.range (b.length / lineBytes 2)).all fun i =>
    let line := slice b (i * lineBytes 2) (lineBytes 2)
    (List.range 16).all fun k => blockOk 2 line k && lineFlag 2 line k != 2

/-- The target of a descriptor, from the adapter's `b` bytes; none when the model has no such tensor or it lies outside them, or when a
reserved byte is not 0 (DESIGN CHOICE, log entry 75). -/
def parseTarget (m : Model) (b : Bytes) (i : Nat) : Option (Nat × Nat × Nat × Bytes × Bytes) :=
  let p := 16 * i
  let layer := fld b p 2
  let tensor := fld b (p + 2) 2
  let rank := fld b (p + 4) 2
  let off := fld b (p + 8) 8
  match (m.layer layer).bind fun l => l.tensors.find? fun t => t.tensor == tensor with
  | none => none
  | some t =>
    let na := downBytes rank t.k
    let nb := upBytes t.n rank
    if 4 ≤ rank ∧ rank ≤ 256 ∧ allZero (slice b (p + 6) 2) ∧ off + na + nb ≤ b.length ∧ linesOk (slice b off (na + nb)) then
      some (layer, tensor, rank, slice b off na, slice b (off + na) nb)
    else none

def cmdLoadAdapter : Command :=
  { opcode := 0x38, size := 24, fields := [(0, 2), (2, 2), (4, 4), (8, 4), (16, 8)], lm2 := false, needs := some 8,
    bads := fun s a =>
      [(8191 < fld a 0 2, 0), (fld a 2 2 == 0 || 512 < fld a 2 2, 2), (fld a 8 4 < 16 * fld a 2 2, 8),
       (!s.inStepWindow (fld a 16 8) (fld a 8 4), 16)],
    run := fun s a =>
      let id := fld a 0 2
      match (s.model (fld a 4 4)).filter fun m => !m.unloading with
      | none => s.fails 5
      | some m =>
        let b := s.readMem (fld a 16 8) (fld a 8 4)
        match allSome ((List.range (fld a 2 2)).map (parseTarget m b)) with
        | none => s.failsAt 3 16
        | some ts =>
          let x : Adapter := ⟨id, m.num, ts, ts.map fun t => s.targetStack m.num id t.1 t.2.1, false⟩
          if s.sv.adapters.any fun y => y.id == id then s.fails 5
          else if x.places.any fun k => s.stackFree k < x.onStack k then s.fails 6
          else ({ s with sv := { s.sv with adapters := s.sv.adapters ++ [x] } }).done }

def execLoadAdapter (c : CmdFrame) (s : State) : Host.Outcome State Fault Refusal := .next (s.command c cmdLoadAdapter)

/-- An adapter out of every ADAPTER_SET; its HBM goes with the last step that names it. -/
def State.removeAdapter (s : State) (n : Nat) : State :=
  ({ s with sv := { s.sv with
    adapters := s.sv.adapters.map fun (x : Adapter) => if x.id = n then { x with removed := true } else x,
    contexts := s.sv.contexts.map fun (c : Context) => { c with adapters := c.adapters.filter fun y => y != n } } }).sweep

def cmdUnloadAdapter : Command :=
  { opcode := 0x39, size := 2, fields := [(0, 2)], lm2 := false, needs := some 8,
    bads := fun _ a => [(8191 < fld a 0 2, 0)],
    run := fun s a =>
      if s.sv.adapters.any fun x => x.id == fld a 0 2 && !x.removed then (s.removeAdapter (fld a 0 2)).done else s.fails 5 }

def execUnloadAdapter (c : CmdFrame) (s : State) : Host.Outcome State Fault Refusal := .next (s.command c cmdUnloadAdapter)

end Sys2Proof.Machine
end

