-- ==== Sys2Proof/Machine/Pins.lean ====
section
/-! DEFINITION. The sideband: the I3C target (16 R532, R533) and the test access port with its boundary register (16 R534, R535). -/

set_option Elab.async false

namespace Sys2Proof.Machine

/-! ### I3C (16 R532, R533) -/

def State.modI3c (s : State) (f : I3c → I3c) : State := { s with i3 := f s.i3 }

/-- A dynamic address given by ENTDAA or SETDASA. -/
def execI3cDynamicAddress (addr : Nat) (s : State) : Host.Outcome State Fault Refusal :=
  .next (if s.pw.supplied then s.modI3c fun t => { t with dynamic := some addr } else s)

/-- The address at which the target answers: the dynamic one, else the static address of its straps, as a legacy I2C target. -/
def State.i3cAddress (s : State) : Nat := s.i3.dynamic.getD (0x3C + 2 * b2n s.bt.addr1 + b2n s.bt.addr0)

/-- The target answers a private transfer. -/
def State.i3cAnswers (s : State) : State := s.modI3c fun t => { t with answered := s.i3cAddress }

/-- The target's address pointer 4 bytes on. -/
def I3c.advance (t : I3c) : I3c := { t with pointer := (t.pointer + 4) % 2 ^ 32 }

/-- The pointer at group `i` of a write that began at `base`. -/
def i3cPointer (base i : Nat) : Nat := (base + 4 * i) % 2 ^ 32

/-- One register written at the pointer, which then advances. A restart that the write brings resets the target: its pointer is 0x0000_0000, and
what is left of the transfer has no target any more (DEDUCED, log entry 42). -/
def State.i3cPut (s : State) (e : Nat × Nat) : State :=
  if s.i3.pointer ≠ e.1 then s else (s.modI3c I3c.advance).pathWrite .i3c e.1 e.2

/-- One register read at the pointer. -/
def State.i3cGet (s : State) : State :=
  let v := s.i3cRead s.i3.pointer
  s.modI3c fun t => { t.advance with out := t.out ++ natLe 4 v }

/-- A private write: four address bytes, then whole groups of four bytes; what is left over is discarded. -/
def execI3cPrivateWrite (bytes : Bytes) (s : State) : Host.Outcome State Fault Refusal :=
  if !s.pw.supplied || bytes.length < 4 then .next s
  else
    let base := fld bytes 0 4
    let words := (List.range (bytes.length / 4 - 1)).map fun i => (i3cPointer base i, fld bytes (4 + 4 * i) 4)
    .next (words.foldl State.i3cPut (s.i3cAnswers.modI3c fun t => { t with pointer := base }))

/-- A private read of `count` registers. -/
def execI3cPrivateRead (count : Nat) (s : State) : Host.Outcome State Fault Refusal :=
  .next (if s.pw.supplied then (List.range count).foldl (fun st _ => st.i3cGet) s.i3cAnswers else s)

/-! ### The test access port (16 R534, R535) -/

/-- Cells of the boundary register. -/
def boundaryCells : Nat := 204

/-- The pins of the boundary register (16 R535). -/
inductive Pin where
  | courierTx (port lane : Nat)
  | courierRx (port lane : Nat)
  | resetN | wakeN | compat | addr0 | addr1 | scl | sclEnable | sda | sdaEnable | alertEnable | tripEnable | courierEnable
  deriving DecidableEq, Repr

/-- The cell of a pin. -/
def Pin.cell : Pin → Nat
  | .courierTx p l => 8 * p + l
  | .courierRx p l => 96 + 8 * p + l
  | .resetN => 192 | .wakeN => 193 | .compat => 194 | .addr0 => 195 | .addr1 => 196 | .scl => 197 | .sclEnable => 198 | .sda => 199
  | .sdaEnable => 200 | .alertEnable => 201 | .tripEnable => 202 | .courierEnable => 203

/-- The pin of a cell. -/
def pinOf (i : Nat) : Pin :=
  if i < 96 then .courierTx (i / 8) (i % 8)
  else if i < 192 then .courierRx ((i - 96) / 8) (i % 8)
  else at' [.resetN, .wakeN, .compat, .addr0, .addr1, .scl, .sclEnable, .sda, .sdaEnable, .alertEnable, .tripEnable, .courierEnable] (i - 192)
    .courierEnable

/-- The level that a boundary instruction puts on an output: that of its cell, while the cells drive. -/
def Tap.level (t : Tap) (p : Pin) : Option Bool := if t.drive = .cells then some (at' t.cells p.cell false) else none

/-- 204 levels of a list, low beyond its end. -/
def cellsOf (l : List Bool) : List Bool := (List.range boundaryCells).map fun i => at' l i false

/-- Instructions that act only while RESET_N is low. -/
def State.pinsFree (s : State) : Bool := !s.bt.resetPin

/-- An instruction that selects the bypass register and leaves the pins to the module. -/
def Tap.bypass (t : Tap) (ir : Nat) : Tap := { t with ir := ir, resetHeld := false, bypassed := true, drive := .functional }

/-- A boundary scan: the pins captured, the cells shifted in, the outputs driven as `d` says. -/
def Tap.scan (t : Tap) (ir : Nat) (d : PinDrive) (pins shifted : List Bool) : Tap :=
  { t with ir := ir, resetHeld := false, bypassed := false, drive := d, captured := cellsOf pins, cells := cellsOf shifted }

def State.modTap (s : State) (f : Tap → Tap) : State := if s.pw.supplied then { s with tp := f s.tp } else s

/-- What the cells capture: the levels at the pins, of which the state has that of RESET_N, and in the output enables of ALERT_N and TRIP_N
(16 R535) whether the module drives each low (16 R529; DEDUCED, log entry 51). -/
def State.captures (s : State) (pins : List Bool) : List Bool :=
  (List.range boundaryCells).map fun i =>
    match pinOf i with
    | .resetN => s.bt.resetPin
    | .alertEnable => s.alertLow
    | .tripEnable => s.tripLow
    | _ => at' pins i false

/-- EXTEST and its AC forms: BYPASS while RESET_N is high. -/
def State.extestWith (s : State) (ir : Nat) (d : PinDrive) (pins shifted : List Bool) : State :=
  s.modTap fun t => if s.pinsFree then t.scan ir d (s.captures pins) shifted else t.bypass ir

def execExtest (pins shifted : List Bool) (s : State) : Host.Outcome State Fault Refusal :=
  .next (s.extestWith 0x00 .cells pins shifted)

def execExtestPulse (pins shifted : List Bool) (s : State) : Host.Outcome State Fault Refusal :=
  .next (s.extestWith 0x09 .pulse pins shifted)

def execExtestTrain (pins shifted : List Bool) (s : State) : Host.Outcome State Fault Refusal :=
  .next (s.extestWith 0x0A .train pins shifted)

/-- SAMPLE/PRELOAD: the pins are captured and the cells loaded; the module keeps its pins. -/
def execSamplePreload (pins shifted : List Bool) (s : State) : Host.Outcome State Fault Refusal :=
  .next (s.modTap fun t => t.scan 0x02 .functional (s.captures pins) shifted)

/-- CLAMP: the cells drive, the bypass register is selected. -/
def execClamp (s : State) : Host.Outcome State Fault Refusal :=
  .next (s.modTap fun t => if s.pinsFree then { t.bypass 0x04 with drive := .cells } else t.bypass 0x04)

def execHighz (s : State) : Host.Outcome State Fault Refusal :=
  .next (s.modTap fun t => if s.pinsFree then { t.bypass 0x05 with drive := .highz } else t.bypass 0x05)

/-- IDCODE selects the bypass register: there is no identification register. -/
def execIdcode (s : State) : Host.Outcome State Fault Refusal := .next (s.modTap fun t => t.bypass 0x01)

/-- Opcodes of 16 Table 16.7 other than BYPASS. -/
def tapOpcodes : List Nat := [0x00, 0x01, 0x02, 0x04, 0x05, 0x09, 0x0A]

/-- BYPASS, or an opcode that 16 Table 16.7 does not list. -/
def execBypass (opcode : Nat) (s : State) : Host.Outcome State Fault Refusal :=
  .next (if tapOpcodes.contains opcode || 256 ≤ opcode then s else s.modTap fun t => t.bypass opcode)

/-- TRST_N low: Test-Logic-Reset, in which it holds the TAP until the pin rises, as it has when an instruction comes (log entry 42). -/
def execTrstN (s : State) : Host.Outcome State Fault Refusal :=
  .next (s.modTap fun t => { (t.bypass 0xFF) with resetHeld := true })

end Sys2Proof.Machine
end

