-- ==== Sys2Proof/Machine/Power.lean ====
section
/-! DEFINITION. Power and thermal management (15 R488-R508, 10 R322, 11 R360): the governor and its guards, temperature sensors, the
throttle, auto-hold, wakes, and an entry that does not complete. -/

set_option Elab.async false

namespace Sys2Proof.Machine

/-- Whether the always-on island runs with the module not stopped. -/
def State.awake (s : State) : Bool := s.pw.supplied && s.pw.stop.isNone

/-! ### The throttle (15 R506, R507) -/

def Thermal.anyTrig (t : Thermal) : Bool := t.tempTrig || t.rateTrig || t.currTrig

/-- Active triggers as record 0x0101 gives them. -/
def Thermal.trigBits (t : Thermal) : Nat := b2n t.tempTrig + 2 * b2n t.rateTrig + 4 * b2n t.currTrig

/-- The throttle step count raised by 1, up to 14; the throttle-begun record when it leaves 0. -/
def State.stepUp (s : State) : State :=
  let k := Nat.min 14 (s.pw.k + 1)
  let s1 := { s with pw := { s.pw with k := k, lastK := s.tm.tick, largestK := Nat.max s.pw.largestK k } }
  if s.pw.k = 0 then
    ({ s1 with pw := { s1.pw with throttleBegun := s.tm.tick, largestK := k } }).raise 0x0101 5 [s1.th.trigBits, s1.readReg 0x5000]
  else s1

/-- The throttle step count lowered by 1, from which power may rise (15 R487); the throttle-ended record when it returns to 0. -/
def State.stepDown (s : State) : State :=
  let s1 := { s with pw := { s.pw with k := s.pw.k - 1, lastK := s.tm.tick, ramp := true } }
  if s.pw.k = 1 then s1.raise 0x0102 5 [s.pw.largestK, (s.tm.tick - s.pw.throttleBegun) / ticksPerUs] else s1

/-- The triggers take new values (15 Table 15.5). They are evaluated in P0 and P1 only (15 Table 15.4). -/
def State.setTriggers (s : State) (temp rate curr : Bool) : State :=
  if !s.hcoreRuns then s
  else
    let was := s.th.anyTrig
    let s1 := { s with th := { s.th with tempTrig := temp, rateTrig := rate, currTrig := curr } }
    if s1.th.anyTrig && !was then s1.stepUp
    else if was && !s1.th.anyTrig then { s1 with pw := { s1.pw with lastTrigger := s.tm.tick } }
    else s1

/-- 100 us and 1 ms in ticks. -/
def ticks100us : Nat := 25000
def ticks1ms : Nat := 250000

/-- The next change of k: 100 us after the last while a trigger is active, 1 ms after the last trigger or change while none is. -/
def execThrottleStepTimer (s : State) : Host.Outcome State Fault Refusal :=
  if !s.hcoreRuns then .next s
  else if s.th.anyTrig then
    .next (if s.pw.k < 14 then (s.advanceTo (s.pw.lastK + ticks100us)).stepUp else s)
  else
    .next (if 0 < s.pw.k then (s.advanceTo (Nat.max s.pw.lastK s.pw.lastTrigger + ticks1ms)).stepDown else s)

/-! ### The governor and the guards (15 R489-R491) -/

/-- Input power in 1/16 W of a voltage in mV and a current in mA. -/
def power16 (mv ma : Nat) : Nat := 16 * mv * ma / 1000000

/-- A guard holds: the duty is halved, at least 1. -/
def Power.halve (p : Power) : Power := { p with duty := Nat.max 1 (p.duty / 2) }

/-- The governor lowers the duty, then the clock; it raises the clock, then the duty. -/
def Power.lower (p : Power) : Power :=
  if 1 < p.duty then { p with duty := p.duty - 1 } else if p.clkdown < 12 then { p with clkdown := p.clkdown + 1 } else p

def Power.lift (duty : Nat) (p : Power) : Power :=
  if 0 < p.clkdown then { p with clkdown := p.clkdown - 1 } else if p.duty < duty then { p with duty := p.duty + 1 } else p

/-- Whether the average rises by more than 1/8 of TDP in 10 us, as it may not after an exit from a power state or a lift of the throttle
(15 R487). The rule then holds until a 10 us tick in which the average does not rise (DEDUCED, log entry 36). -/
def State.rampExceeded (s : State) (old avg : Nat) : Bool := s.pw.ramp && old + 2 * s.tdp < avg

/-- One governor step on the trailing 100 us average, `old` being the average before (15 R487, R490). -/
def State.govern (s : State) (old avg : Nat) : State :=
  let tdp := s.tdp
  if s.effectiveLimit16 < avg ∨ s.rampExceeded old avg then { s with pw := { s.pw.lower with belowTicks := 0 } }
  else if 2 * avg + tdp < 2 * s.effectiveLimit16 then
    let n := s.pw.belowTicks + 1
    let p := if 10 ≤ n ∧ avg ≤ old + 2 * tdp then s.pw.lift s.slotDuty else s.pw
    { s with pw := { p with belowTicks := n } }
  else { s with pw := { s.pw with belowTicks := 0 } }

/-- The average no longer rises: the limit of 15 R487 is past. -/
def State.rampEnds (s : State) (old avg : Nat) : State := { s with pw := { s.pw with ramp := s.pw.ramp && old < avg } }

/-- The input-power limit of 15 R491, in 1/16 W, and the rail-current limit in 1/4 A. -/
def pinLimit16 : Nat := 20000
def railLimit4 : Nat := 6600

/-- The 10 us average of input voltage and current (15 R490, R491): the guard, else the governor; then the current trigger. -/
def execGovernorTick (vinMv iinMa : Nat) (s : State) : Host.Outcome State Fault Refusal :=
  if !s.awake then .next s
  else
    let p := power16 vinMv iinMa
    let old := avgList s.pw.pins
    let pins := (p :: s.pw.pins).take 10
    let exceeds := decide (pinLimit16 < p)
    let s1 := { s with pw := { s.pw with sampled := true, vinMv := vinMv, iinMa := iinMa, pins := pins, guardPin := exceeds } }
    let s2 :=
      if exceeds then
        let a := { s1 with pw := { s1.pw.halve with belowTicks := 0 } }
        if s.pw.guardPin then a else a.raise 0x0104 5 [p]
      else if s1.pw.guardRail then s1
      else (s1.govern old (avgList pins)).rampEnds old (avgList pins)
    let lim := s2.storedField 0x4018 0 16
    let curr := if s2.th.currTrig then decide (lim ≤ iinMa + 500) else decide (lim < iinMa)
    .next (s2.setTriggers s2.th.tempTrig s2.th.rateTrig curr)

/-- The 1 us average of the core-rail currents (15 R491). -/
def execRailCurrentGuard (quarterAmps : Nat) (s : State) : Host.Outcome State Fault Refusal :=
  if !s.awake then .next s
  else
    let exceeds := decide (railLimit4 < quarterAmps)
    let s1 := { s with pw := { s.pw with railQuarterAmps := quarterAmps, guardRail := exceeds } }
    if !exceeds then .next s1
    else
      let a := { s1 with pw := s1.pw.halve }
      .next (if s.pw.guardRail then a else a.raise 0x0105 5 [quarterAmps])

/-! ### Temperature sensors (15 R502-R508) -/

/-- The temperatures of a sensor's table, in 1/16 degC. -/
def tablePoints : List Int := [400, 720, 1040, 1360, 1600]

/-- The correction at a raw reading: linear between neighbouring points, the end segments extended. -/
def correctionAt (table : List Int) (raw : Int) : Int :=
  let i := if raw < 720 then 0 else if raw < 1040 then 1 else if raw < 1360 then 2 else 3
  let x0 := at' tablePoints i 0
  let x1 := at' tablePoints (i + 1) 0
  let y0 := at' table i 0
  let y1 := at' table (i + 1) 0
  y0 + roundEven ((y1 - y0) * (raw - x0)) (x1 - x0).toNat

/-- The corrected reading of a sensor; uncorrected while provisional (15 R503). -/
def State.corrected (s : State) (i : Nat) (raw : Int) : Int :=
  if s.th.provisional then raw else raw + correctionAt (lookupD s.th.tables i [0, 0, 0, 0, 0]) raw

/-- Whether the sensors of a die are sampled in the present state, and whether the die runs (15 Table 15.3, R504). -/
def State.sampled (s : State) (i : Nat) : Bool :=
  s.awake && i < 272 && (256 ≤ i || !(s.pw.state == .p3 || s.pw.state == .p4))
def State.dieRuns (s : State) (i : Nat) : Bool := if i < 256 then s.inRun else s.hcoreRuns

/-- The trip threshold (15 R503, R508). -/
def State.tripAt (s : State) : Int := if s.th.provisional then 1680 else 1760

/-- Earlier readings kept: those of the trailing 1 ms and the one before them (10 R348). -/
def keepHistory (now : Nat) (l : List (Nat × Int)) : List (Nat × Int) :=
  l.takeWhile (fun e => now < e.1 + ticks1ms) ++ ((l.dropWhile fun e => now < e.1 + ticks1ms).take 1)

def freshSensor (i : Nat) (raw : Int) : Sensor :=
  { idx := i, reading := noReading, raw := raw, same := 0, failed := false, history := [], hot := false }

/-- A sensor after one more sample. It is failed as long as its corrected reading lies out of range or has not changed for 100 samples while its
die runs; FAULT is RC, which clears with its cause (15 R504, 01 R7). That the hundredth equal reading counts is log entry 36. -/
def Sensor.sample (x : Sensor) (now : Nat) (raw reading : Int) (runs : Bool) (trip : Int) : Sensor :=
  let same := if !runs then 0 else if reading = x.reading then x.same + 1 else 1
  { x with
    reading := reading, raw := raw, same := same,
    failed := reading < -640 || 2400 < reading || 100 ≤ same,
    history := keepHistory now ((now, reading) :: x.history),
    hot := decide (trip ≤ reading) }

/-- Whether a sensor has risen by more than the rate since 1 ms earlier. -/
def Sensor.rises (x : Sensor) (now rate : Nat) : Bool :=
  match x.history.find? fun e => e.1 + ticks1ms ≤ now with
  | some e => decide ((rate : Int) < x.reading - e.2)
  | none => false

/-- One sample of one sensor: its reading, its failure, and a trip at the second hot sample in a row. -/
def State.takeSample (s : State) (e : Nat × Int) : State :=
  if !s.sampled e.1 then s
  else
    let old := (s.sensor e.1).getD (freshSensor e.1 e.2)
    let new := old.sample s.tm.tick e.2 (s.corrected e.1 e.2) (s.dieRuns e.1) s.tripAt
    let s1 := { s with th := { s.th with sensors := putBy (fun y => y.idx == e.1) new s.th.sensors } }
    let s2 := if new.failed && !old.failed then s1.raise 0x0107 5 [e.1, ofSigned 32 new.reading] else s1
    if new.hot && old.hot && !new.failed then
      ({ s2 with th := { s2.th with trip := true, tripSensor := e.1, tripReading := new.reading } }).failStop .trip e.1 new.reading
        s2.pw.vinMv
    else s2

/-- The temperature and rate triggers from the sensors that have not failed. -/
def State.sensorTriggers (s : State) : State :=
  let ok := s.th.sensors.filter fun x => !x.failed
  let thresh : Int := (s.storedField 0x5020 0 12 : Int) - 1024
  let rate := s.storedField 0x5020 12 9
  let temp := if s.th.tempTrig then ok.any fun x => decide (thresh - 32 ≤ x.reading) else ok.any fun x => decide (thresh ≤ x.reading)
  s.setTriggers temp (ok.any fun x => x.rises s.tm.tick rate) s.th.currTrig

/-- Samples of some sensors; runs on a tile whose region has moved begin again (07 R220). -/
def execSensorSample (raw : List (Nat × Int)) (s : State) : Host.Outcome State Fault Refusal :=
  let s1 := raw.foldl State.takeSample s
  let s2 := ((s1.tl.tiles.filter fun t => t.run.isSome).map Tile.id).foldl State.watchRun s1
  .next s2.sensorTriggers

/-! ### Auto-hold, entries and wakes (15 R494-R501) -/

/-- Whether the array dies have work (15 R494). -/
def Tile.busy (t : Tile) : Bool :=
  t.array.isSome || t.scaler.isSome || t.prog.isSome || !t.scans.isEmpty || !t.calQueue.isEmpty || t.run.isSome || t.test.due ||
    t.test.running

/-- The conditions of auto-hold as they stand. -/
def State.quiet (s : State) : Bool := !s.stepsOpen && !s.stepsQueued && s.tl.tiles.all fun t => !t.busy

/-- The idle time of PWR_CTL has passed. -/
def execAutoHold (s : State) : Host.Outcome State Fault Refusal :=
  let n := s.storedField 0x4004 0 14
  if n = 0 || !s.inRun || s.pw.entry.isSome || !s.quiet then .next s
  else .next ((s.advanceTo (s.pw.lastActivity + ticksPerUs * n)).enterP1 .none)

/-- 100 ms in ticks. -/
def entryTicks : Nat := 25000000

/-- Open steps have not all committed 100 ms after the command: the entry is abandoned. -/
def execPowerEntryTimeout (s : State) : Host.Outcome State Fault Refusal :=
  match s.pw.entry with
  | none => .next s
  | some e => .next (if s.liveSteps.isEmpty || e.target = .p1 then s else (s.advanceTo (e.since + entryTicks)).abandonEntry 2)

/-- WAKE_N low for 1 us: a wake in P1 to P4, ignored in P0 (15 R492). -/
def execWakeN (s : State) : Host.Outcome State Fault Refusal := .next (s.wake 3)

/-- Light on lane 0 of a Dispatch port in P3 or P4 (11 R360). -/
def execWakeLight (port : Nat) (s : State) : Host.Outcome State Fault Refusal :=
  .next (if port < 2 && (s.pw.state == .p3 || s.pw.state == .p4) then s.wake (1 + port) else s)

/-- Energy on lane 0 of a Courier receiver that was UP or KEEPALIVE at the entry to P3 or P4 (10 R322). -/
def execLaneEnergyWake (port : Nat) (s : State) : Host.Outcome State Fault Refusal :=
  .next (if s.pw.upPorts.contains port && (s.pw.state == .p3 || s.pw.state == .p4) then s.wake 4 else s)

/-- A WAKE frame: on a port in KEEPALIVE in P2 Nap, on an UP port in P1 Hold (10 R322, 15 Table 15.2). -/
def execFabricWakeFrame (port : Nat) (s : State) : Host.Outcome State Fault Refusal :=
  let st := (s.port port).state
  .next (if port < 12 && s.linksPowered && ((s.pw.state == .p2 && st == .keepalive) || (s.pw.state == .p1 && st == .up)) then s.wake 4
    else s)

end Sys2Proof.Machine
end

