-- ==== Sys2Proof/Machine/Reliability.lean ====
section
/-! DEFINITION. The scrubber and uncorrectable errors (14 R466, R467) and the in-field tests (14 R479-R482). -/

set_option Elab.async false

namespace Sys2Proof.Machine

/-! ### ECC_SCRUB (14 R465-R467) -/

/-- (memory number, address, symbol) of a corrected symbol: 0-15 a stack, 16-20 the staging SRAM of A0-A3 and H. -/
def correctedAt : ScrubFinding → Option (Nat × Nat × Nat)
  | .hbmCorrected stack addr pos => some (stack, addr, pos)
  | .sramCorrected die addr pos => some (16 + die, addr, pos)
  | _ => none

def State.countEcc (s : State) (det : Bool) (stack : Nat) : State :=
  if det then s.countDrop fun r => { r with eccDet := modAt r.eccDet stack (· + 1) }
  else s.countDrop fun r => { r with eccCorr := modAt r.eccCorr stack (· + 1) }

/-- SOURCE of a fault in a stack: the die it is bonded to. -/
def stackSource (stack : Nat) : Nat := stack / 4

/-- An uncorrectable word of HBM: counted, and its record with the row of 14 Table 14.3. -/
def State.hbmBad (s : State) (stack addr row : Nat) : State :=
  (s.countEcc true stack).raise 0x0201 (stackSource stack) [stack, addr % 2 ^ 32, addr / 2 ^ 32 % 2 ^ 32, row]

/-- A corrected symbol: counted, and a record when the pass before corrected the same one. -/
def State.symbolCorrected (s : State) (before : List (Nat × Nat × Nat)) (c : Nat × Nat × Nat) : State :=
  let s1 := if c.1 < 16 then s.countEcc false c.1 else s
  if before.contains c then
    s1.raise 0x0203 (if c.1 < 16 then stackSource c.1 else c.1 - 16) [c.1, c.2.1 % 2 ^ 32, c.2.1 / 2 ^ 32 % 2 ^ 32]
  else s1

/-- The franking entries of an array rebuilt from the franking store (07 R213). -/
def State.rebuildFranking (s : State) (a : ArrId) : State :=
  let f := (s.tileRecord a.tid).franking a.arr
  s.modFranking a fun old => { f with directRun := old.directRun, lastFailed := old.lastFailed }

/-- The dump of a slot marked damaged. -/
def State.damageDump (s : State) (slot : Nat) : State :=
  { s with bt := { s.bt with dumps := modAt s.bt.dumps slot fun d => d.map fun (x : Dump) => { x with damaged := true } } }

/-- One finding of a pass that began at `before` (14 Table 14.3). What it finds of an open step is of the epoch that the step then had: a second
finding of an epoch that the first has voided changes nothing more (14 Table 14.5). -/
def State.scrubbed (s before : State) (f : ScrubFinding) : State :=
  match f with
  | .hbmCorrected stack addr pos => s.symbolCorrected before.rg.lastCorrected (stack, addr, pos)
  | .sramCorrected die addr pos => s.symbolCorrected before.rg.lastCorrected (16 + die, addr, pos)
  | .masterBad stack addr model index => (s.hbmBad stack addr 1).invalidateMaster model index
  | .recordBad stack addr a => (s.hbmBad stack addr 2).rebuildRecord a
  | .frankingBad stack addr a => (s.hbmBad stack addr 3).rebuildFranking a
  | .workBad die addr tag =>
    let s1 := s.raise 0x0202 die [die, addr % 2 ^ 32, 4]
    match before.liveStep tag with
    | some o => s1.transient tag o.epoch 0x0202 die 0
    | none => s1
  | .heldInputBad die addr => (s.raise 0x0202 die [die, addr % 2 ^ 32, 5]).drain 2 0x0202 die 0
  | .stateBad stack addr => (s.hbmBad stack addr 6).drain 2 0x0201 (stackSource stack) 0
  | .dumpBad slot addr => (s.hbmBad 0 addr 7).damageDump slot

/-- What the next passes compare with: a pass over HBM replaces what the last one over HBM corrected, one over SRAM what the last one over
SRAM did (14 R466). -/
def scrubCorrected (p : ScrubPass) (before : List (Nat × Nat × Nat)) : List (Nat × Nat × Nat) :=
  (before.filter fun c => decide (c.1 < 16) != p.hbm) ++ p.found.filterMap correctedAt

/-- What a pass of the scrubber finds, in P0 Run or P1 Hold. -/
def execEccScrub (pass : ScrubPass) (s : State) : Host.Outcome State Fault Refusal :=
  if !s.hcoreRuns then .next s
  else
    let s1 := pass.found.foldl (fun st f => st.scrubbed s f) s
    .next (s1.countDrop fun r => { r with lastCorrected := scrubCorrected pass r.lastCorrected })

/-! ### In-field tests (14 R479-R482) -/

/-- P0 Run time in ticks (14 R480). -/
def State.p0Time (s : State) : Nat := s.pw.p0Ticks + (if s.inRun then s.tm.tick - s.pw.p0Mark else 0)

/-- P0 Run time has passed up to a value of it. -/
def State.p0To (s : State) (t : Nat) : State := s.advanceTo (s.tm.tick + (t - s.p0Time))

/-- 590 s and 50 ms in ticks. -/
def testTicks : Nat := 590 * ticksPerSec
def forceTicks : Nat := 12500000

def Tile.modTest (t : Tile) (f : FieldTest → FieldTest) : Tile := { t with test := f t.test }

/-- A tile's test falls due: 590 s of P0 Run after the last began, or at once for its first. -/
def execInFieldTestDue (t : TileId) (s : State) : Host.Outcome State Fault Refusal :=
  let x := (s.tile t).test
  if !s.inRun || !s.enabled t || x.due || x.running then .next s
  else
    let s1 := if x.passedOnce then s.p0To x.dueAt else s
    .next (s1.modTile t fun y => y.modTest fun f =>
      { f with due := true, boundary := false, dueAt := if x.passedOnce then x.dueAt else s1.p0Time })

/-- The array that a tile's test fires: the spare when it is READY or STANDING, else the next IN_SERVICE array in rotation. -/
def State.testArray (s : State) (t : TileId) : Option Nat :=
  let x := s.tile t
  match x.spare with
  | .ready _ => some 16
  | .standing _ => some 16
  | _ =>
    let order := (List.range 16).map fun i => (x.test.rotation + i) % 16
    order.find? fun k => (s.dir (t.array k)).astate == .inService

/-- Whether a due test may begin: a step boundary has come since, no fire in flight and no ready compute fire. A tile's first test waits for no
compute fire. -/
def State.idleForTest (s : State) (t : Tile) : Bool :=
  t.test.boundary && t.array.isNone && t.scaler.isNone &&
    (!t.test.passedOnce || (t.repeatDue.isNone && ((List.range t.fires.length).zip t.fires).all fun e => e.2.kind != 0 || !s.fireReady t e.1 e.2))

/-- A test begins. -/
def State.beginTest (s : State) (t : TileId) : State :=
  let a := s.testArray t
  let now := s.p0Time
  s.modTile t fun y => y.modTest fun f =>
    { f with due := false, running := true, arr := a, repeated := false, before := (f.dueAt, f.rotation), dueAt := now + testTicks,
             rotation := match a with
               | some k => if k < 16 then (k + 1) % 16 else f.rotation
               | none => f.rotation }

def execInFieldTestStart (t : TileId) (s : State) : Host.Outcome State Fault Refusal :=
  let x := s.tile t
  .next (if s.inRun && s.enabled t && !s.workStops && x.test.due && !x.test.running && s.idleForTest x then s.beginTest t else s)

/-- A test that has not begun within 50 ms of its due time is forced; its record gives the lateness. -/
def execInFieldTestForced (t : TileId) (s : State) : Host.Outcome State Fault Refusal :=
  let x := (s.tile t).test
  if !s.inRun || !s.enabled t || s.workStops || !x.due || x.running then .next s
  else
    let s1 := s.p0To (x.dueAt + forceTicks)
    .next ((s1.beginTest t).raise 0x020A t.die [t.tile + 16384 * t.die, (s1.p0Time - x.dueAt) / ticksPerUs])

/-- The record of the codes that a test array holds. -/
def State.testRecord (s : State) (a : ArrId) : CodeRecord :=
  if a.arr = 16 then
    match (s.dir a).spareTag with
    | some k => s.recordD (a.tid.array k)
    | none => blankRecord
  else s.recordD a

/-- What a test finds: none when it passes; else the part (1 structural, 2 postmark self-test) and the slot of its first failure. A tile with no
test array runs the structural part alone. -/
def State.testFails (s : State) (t : TileId) (r : TestReadings) : Option (Nat × Nat) :=
  match r.structural, (s.tile t).test.arr with
  | some n, _ => some (1, n)
  | none, none => none
  | none, some k => (selfTest (s.testRecord (t.array k)) (s.currentSet (s.tile t) k) r.raw).map fun n => (2, 92 + n)

/-- The 156 slots end: passed; failed once, repeated at the next fire boundary; failed twice, a permanent fault, with its record. -/
def execInFieldTestDone (t : TileId) (readings : TestReadings) (s : State) : Host.Outcome State Fault Refusal :=
  let x := (s.tile t).test
  if !s.inRun || !x.running then .next s
  else
    let loc := match x.arr with
      | some k => locOf (t.array k)
      | none => locOf (t.array 0)
    match s.testFails t readings with
    | none => .next (s.modTile t fun y => y.modTest fun f => { f with running := false, passedOnce := true, repeated := false }).active
    | some e =>
      if x.repeated then
        .next (((s.modTile t fun y => y.modTest fun f => { f with running := false }).raise 0x0209 t.die [loc, e.1, e.2]).drain 10 0x0209 t.die loc)
      else
        .next ((s.modTile t fun y => y.modTest fun f => { f with repeated := true }).raise 0x0209 t.die [loc, e.1, e.2])

end Sys2Proof.Machine
end

