-- ==== Sys2Proof/Machine/Startup.lean ====
section
/-! DEFINITION. Power applied and removed, stops and their recovery (15 R488, R509, 16 R526, R537, R543, R544), resets (12 R418, 16
R527, R528), arrays ready (16 R536), and faults of the Ngaok cluster (12 R401, R402). -/

set_option Elab.async false

namespace Sys2Proof.Machine

/-! ### Power and reset -/

/-- An instruction of the TAP that acts only while RESET_N is low, as it rises: it acts as BYPASS from now on (16 R534). -/
def Tap.released (t : Tap) : Tap := if t.drive = .functional then t else { t with drive := .functional, bypassed := true }

/-- The straps as sampled at the rising edge of RESET_N (16 R528). -/
def State.strapped (s : State) (compat addr0 addr1 : Bool) : State :=
  { s with bt := { s.bt with compat := compat, addr0 := addr0, addr1 := addr1, resetPin := true }, tp := s.tp.released }

/-- No strap is sampled yet: `ID_BOOT.COMPAT` is at its reset value (13 R433, 16 R528). -/
def Boot.unstrapped (b : Boot) : Boot := { b with compat := false, addr0 := false, addr1 := false, resetPin := false }

/-- 48 V applied: the start-up of 16 Table 16.8, up to firmware, once RESET_N rises; with RESET_N held low the module waits in
reset. -/
def execPowerApplied (vinMv : Nat) (rst compat addr0 addr1 : Bool) (s : State) : Host.Outcome State Fault Refusal :=
  if s.pw.supplied || vinMv < 38000 then .next s
  else
    let s1 := s.beginReset false
    let s2 := { s1 with tm := { s1.tm with boundFrom := s1.tm.tick }, pw := { s1.pw with vinMv := vinMv }, bt := { s1.bt.unstrapped with sysclk := true } }
    .next (if rst then (s2.strapped compat addr0 addr1).bootChain else s2)

/-- The input at a power removal that no stop came before: a voltage below 38.0 V that the spec leaves open. -/
def State.dropVoltage (s : State) : Nat × State :=
  let r := s.nextDraw
  (Config.random r.1 % 38000, r.2)

/-- The input falls below 25 V: the stop of 15 Table 15.7 on the way when none has come, but not from P4 Seal, then nothing but flash
and the array cells is kept (16 R542-R544). -/
def execPowerRemoved (s : State) : Host.Outcome State Fault Refusal :=
  if !s.pw.supplied then .next s
  else
    let s1 := if s.pw.stop.isSome || s.pw.state == .p4 then s else s.dropVoltage.2.failStop .under 0 0 s.dropVoltage.1
    let s2 := s1.beginReset false
    .next { s2 with pw := { s2.pw with supplied := false, vinMv := 0, iinMa := 0 }, tp := Tap.reset,
                    i3 := { I3c.reset with out := s2.i3.out }, bt := s2.bt.unstrapped }

/-- The input below 38.0 V for 5 us, or above 61.0 V for 1 us (15 R488). -/
def execPowerFailStop (above : Bool) (vinMv : Nat) (s : State) : Host.Outcome State Fault Refusal :=
  if !s.pw.supplied || s.pw.stop.isSome then .next s
  else .next (if above then (if 61000 < vinMv then s.failStop .overvolt 0 0 vinMv else s)
    else if vinMv < 38000 then s.failStop .under 0 0 vinMv else s)

/-- Loss of SYSCLK: a power-fail stop (16 R526). -/
def execSysclkLoss (s : State) : Host.Outcome State Fault Refusal :=
  if !s.pw.supplied || s.pw.stop.isSome then .next s
  else .next (({ s with bt := { s.bt with sysclk := false } }).failStop .sysclk 0 0 s.pw.vinMv)

/-- After a power-fail stop the input has stayed above 38.0 V for 10 ms: a reset. A trip waits for RESET_N or power removal. -/
def execPowerFailRecovery (s : State) : Host.Outcome State Fault Refusal :=
  match s.pw.stop with
  | none => .next s
  | some .trip => .next s
  | some _ =>
    if !s.pw.supplied then .next s
    else
      let s1 := ({ s with bt := { s.bt with sysclk := true } }).beginReset false
      .next (if s1.bt.resetPin then s1.bootChain else s1)

/-- The rising edge of RESET_N after a pulse of at least 10 us: the straps are sampled and the module resets, also after a trip. A
module stopped for want of power or clock waits for that. -/
def execResetN (compat addr0 addr1 : Bool) (s : State) : Host.Outcome State Fault Refusal :=
  if !s.pw.supplied then .next s
  else
    match s.pw.stop with
    | none => .next ((s.strapped compat addr0 addr1).resetModule true)
    | some .trip => .next ((s.strapped compat addr0 addr1).resetModule true)
    | some _ => .next (s.strapped compat addr0 addr1)

/-! ### Arrays ready (16 R536, 12 R423) -/

/-- The tiles of the module. -/
def allTiles : List TileId := (List.range 4).flatMap fun d => (List.range 16384).map fun k => ⟨d, k⟩

/-- The conditions of the milestone as the state shows them: the franking store restored, a traced reference and a valid counter (07
R231), every enabled tile past its first test. -/
def State.arraysAre (s : State) : Bool :=
  s.firmwareRuns && !s.isDrained && s.cl.restored && s.tm.valid && s.cl.refTime.isSome &&
    allTiles.all fun t => !s.enabled t || (s.tile t).test.passedOnce

/-- A trial firmware confirms itself. -/
def BootControl.confirm (c : BootControl) (slot : Nat) : BootControl :=
  { c with active := slot, trial := 0, lastUpdate := 1 }

/-- UNBOUND arrays whose record is resident (16 Table 16.9). -/
def State.toBind (s : State) : List ArrId :=
  (s.wt.directory.map Prod.fst).filter fun a => (s.dir a).astate == .unbound && (s.record a).isSome

/-- Arrays are ready: a trial firmware confirms itself, and the arrays whose parcels came before bind now. -/
def execArraysReady (s : State) : Host.Outcome State Fault Refusal :=
  .next (if !s.arraysAre then s
    else
      let c := if s.bt.trialBoot && s.bt.control.trial == s.bt.slot + 1 then s.bt.control.confirm s.bt.slot else s.bt.control
      s.toBind.foldl State.bindArray { s with bt := { s.bt with arraysReady := true, control := c } })

/-! ### The Ngaok cluster (12 R401, R402) -/

/-- A core's write of its watchdog register. -/
def execWatchdogWrite (core : Nat) (s : State) : Host.Outcome State Fault Refusal :=
  .next (if s.firmwareRuns then { s with bt := { s.bt with watchdogs := modAt s.bt.watchdogs core fun _ => s.tm.tick } } else s)

/-- 400 us in ticks. -/
def watchdogTicks : Nat := 100000

/-- 400 us without a write. -/
def execWatchdogExpiry (core : Nat) (s : State) : Host.Outcome State Fault Refusal :=
  if !s.firmwareRuns || 4 ≤ core then .next s
  else
    let s1 := s.advanceTo (at' s.bt.watchdogs core 0 + watchdogTicks)
    .next ((s1.raise 0x0208 4 [core]).crash 2 core 0x0208)

/-- CAUSE of a dump (12 R427). -/
def CrashCause.code : CrashCause → Nat
  | .trap => 1
  | .assertion => 3

def execFirmwareCrash (cause : CrashCause) (core : Nat) (s : State) : Host.Outcome State Fault Refusal :=
  .next (if s.firmwareRuns && core < 4 then s.crash (CrashCause.code cause) core 0 else s)

/-- The two safety cores differ: the island drains the module without firmware and writes the header of a dump alone. -/
def execLockstepMismatch (s : State) : Host.Outcome State Fault Refusal :=
  if !s.hcoreRuns then .next s
  else
    let s1 := { s.raise 0x0207 5 [] with
      bt := { (s.raise 0x0207 5 []).bt with halted := true, run := if s.bt.run = RunState.running then RunState.halted else s.bt.run } }
    .next ((s1.writeDump 5 255 []).drain 7 0x0207 5 0)

end Sys2Proof.Machine
end

