-- ==== Sys2Proof/Machine/Dispatch.lean ====
section
/-! DEFINITION. exec: the meaning of each command, one arm per constructor of Instr. -/

namespace Sys2Proof.Machine

def exec (i : Instr) (s : State) : Host.Outcome State Fault Refusal :=
  match i with
  | .powerApplied vinMv rst compat addr0 addr1 => Sys2Proof.Machine.execPowerApplied vinMv rst compat addr0 addr1 s
  | .powerRemoved => Sys2Proof.Machine.execPowerRemoved s
  | .powerFailStop above vinMv => Sys2Proof.Machine.execPowerFailStop above vinMv s
  | .powerFailRecovery => Sys2Proof.Machine.execPowerFailRecovery s
  | .resetN compat addr0 addr1 => Sys2Proof.Machine.execResetN compat addr0 addr1 s
  | .arraysReady => Sys2Proof.Machine.execArraysReady s
  | .firstEverCalibration trace runs => Sys2Proof.Machine.execFirstEverCalibration trace runs s
  | .watchdogWrite core => Sys2Proof.Machine.execWatchdogWrite core s
  | .watchdogExpiry core => Sys2Proof.Machine.execWatchdogExpiry core s
  | .firmwareCrash cause core => Sys2Proof.Machine.execFirmwareCrash cause core s
  | .lockstepMismatch => Sys2Proof.Machine.execLockstepMismatch s
  | .helloTimer port => Sys2Proof.Machine.execHelloTimer port s
  | .dispatchTrainingDone port gen => Sys2Proof.Machine.execDispatchTrainingDone port gen s
  | .dispatchTrainingTimeout port => Sys2Proof.Machine.execDispatchTrainingTimeout port s
  | .headerCrcFailure port => Sys2Proof.Machine.execHeaderCrcFailure port s
  | .select h payload => Sys2Proof.Machine.execSelect h payload s
  | .step h payload => Sys2Proof.Machine.execStep h payload s
  | .reorderTimeout queue seq => Sys2Proof.Machine.execReorderTimeout queue seq s
  | .write h payload => Sys2Proof.Machine.execWrite h payload s
  | .read h payload => Sys2Proof.Machine.execRead h payload s
  | .doorbellSubmission h payload => Sys2Proof.Machine.execDoorbellSubmission h payload s
  | .doorbellCompletion h payload => Sys2Proof.Machine.execDoorbellCompletion h payload s
  | .heartbeat h payload => Sys2Proof.Machine.execHeartbeat h payload s
  | .parcelFrame h payload => Sys2Proof.Machine.execParcelFrame h payload s
  | .regwrite h payload => Sys2Proof.Machine.execRegwrite h payload s
  | .regread h payload => Sys2Proof.Machine.execRegread h payload s
  | .dlreadStatus h payload => Sys2Proof.Machine.execDlreadStatus h payload s
  | .dlreadRead h payload => Sys2Proof.Machine.execDlreadRead h payload s
  | .dlreadClear h payload => Sys2Proof.Machine.execDlreadClear h payload s
  | .dlreadRestart h payload => Sys2Proof.Machine.execDlreadRestart h payload s
  | .l2reg h payload => Sys2Proof.Machine.execL2reg h payload s
  | .l2data h payload => Sys2Proof.Machine.execL2data h payload s
  | .l2getTimeout slot => Sys2Proof.Machine.execL2getTimeout slot s
  | .intakeStaleTimeout port chan => Sys2Proof.Machine.execIntakeStaleTimeout port chan s
  | .leaseExpiry => Sys2Proof.Machine.execLeaseExpiry s
  | .orphanSlotMove => Sys2Proof.Machine.execOrphanSlotMove s
  | .createWindow c => Sys2Proof.Machine.execCreateWindow c s
  | .deleteWindow c => Sys2Proof.Machine.execDeleteWindow c s
  | .createQueue c => Sys2Proof.Machine.execCreateQueue c s
  | .deleteQueue c => Sys2Proof.Machine.execDeleteQueue c s
  | .setEventRing c => Sys2Proof.Machine.execSetEventRing c s
  | .createContext c => Sys2Proof.Machine.execCreateContext c s
  | .changeContext c => Sys2Proof.Machine.execChangeContext c s
  | .discardContext c => Sys2Proof.Machine.execDiscardContext c s
  | .loadModel c => Sys2Proof.Machine.execLoadModel c s
  | .unloadModel c => Sys2Proof.Machine.execUnloadModel c s
  | .loadAdapter c => Sys2Proof.Machine.execLoadAdapter c s
  | .unloadAdapter c => Sys2Proof.Machine.execUnloadAdapter c s
  | .setRegions c => Sys2Proof.Machine.execSetRegions c s
  | .setServing c => Sys2Proof.Machine.execSetServing c s
  | .releaseLease c => Sys2Proof.Machine.execReleaseLease c s
  | .setFabric c => Sys2Proof.Machine.execSetFabric c s
  | .setJobTable c => Sys2Proof.Machine.execSetJobTable c s
  | .releaseJob c => Sys2Proof.Machine.execReleaseJob c s
  | .resetPort c => Sys2Proof.Machine.execResetPort c s
  | .readPorts c => Sys2Proof.Machine.execReadPorts c s
  | .loadTime c => Sys2Proof.Machine.execLoadTime c s
  | .requestCalibration c => Sys2Proof.Machine.execRequestCalibration c s
  | .readStorm c => Sys2Proof.Machine.execReadStorm c s
  | .setPowerState c => Sys2Proof.Machine.execSetPowerState c s
  | .powerEntryTimeout => Sys2Proof.Machine.execPowerEntryTimeout s
  | .attest c => Sys2Proof.Machine.execAttest c s
  | .readIdentity c => Sys2Proof.Machine.execReadIdentity c s
  | .updateBegin c => Sys2Proof.Machine.execUpdateBegin c s
  | .updateData c => Sys2Proof.Machine.execUpdateData c s
  | .updateCommit c => Sys2Proof.Machine.execUpdateCommit c s
  | .resetModule c => Sys2Proof.Machine.execResetModule c s
  | .dump c => Sys2Proof.Machine.execDump c s
  | .sortingRound core => Sys2Proof.Machine.execSortingRound core s
  | .prefixMatchDone stepTag entry => Sys2Proof.Machine.execPrefixMatchDone stepTag entry s
  | .pageExhaustionTimeout stepTag entry => Sys2Proof.Machine.execPageExhaustionTimeout stepTag entry s
  | .listFetchDone a => Sys2Proof.Machine.execListFetchDone a s
  | .fireLatch t => Sys2Proof.Machine.execFireLatch t s
  | .converterResult t codes flags => Sys2Proof.Machine.execConverterResult t codes flags s
  | .postmarkComparison t => Sys2Proof.Machine.execPostmarkComparison t s
  | .fireAdd t => Sys2Proof.Machine.execFireAdd t s
  | .outlierAdd t => Sys2Proof.Machine.execOutlierAdd t s
  | .fallbackJobDone die unit => Sys2Proof.Machine.execFallbackJobDone die unit s
  | .spotComparisonDone die unit => Sys2Proof.Machine.execSpotComparisonDone die unit s
  | .adapterContribution stepTag token tensor adapter => Sys2Proof.Machine.execAdapterContribution stepTag token tensor adapter s
  | .bankDrainDone t bank => Sys2Proof.Machine.execBankDrainDone t bank s
  | .drainArrival idx => Sys2Proof.Machine.execDrainArrival idx s
  | .lineTimeout die off => Sys2Proof.Machine.execLineTimeout die off s
  | .stepCommit stepTag => Sys2Proof.Machine.execStepCommit stepTag s
  | .stormHandling => Sys2Proof.Machine.execStormHandling s
  | .stormRecheck => Sys2Proof.Machine.execStormRecheck s
  | .contributionRecord h payload => Sys2Proof.Machine.execContributionRecord h payload s
  | .replayNotice h payload => Sys2Proof.Machine.execReplayNotice h payload s
  | .activationRecord h payload => Sys2Proof.Machine.execActivationRecord h payload s
  | .activationHoldTimeout job step token => Sys2Proof.Machine.execActivationHoldTimeout job step token s
  | .moduleDownNotice h payload => Sys2Proof.Machine.execModuleDownNotice h payload s
  | .jobAbortNotice h payload => Sys2Proof.Machine.execJobAbortNotice h payload s
  | .jobWaitTimeout job => Sys2Proof.Machine.execJobWaitTimeout job s
  | .courierFrameRoute h payload => Sys2Proof.Machine.execCourierFrameRoute h payload s
  | .courierParcelFrame h payload => Sys2Proof.Machine.execCourierParcelFrame h payload s
  | .routeRecompute links => Sys2Proof.Machine.execRouteRecompute links s
  | .flitReceive link f => Sys2Proof.Machine.execFlitReceive link f s
  | .flitResendTimeout link => Sys2Proof.Machine.execFlitResendTimeout link s
  | .bridgeFlitTransfer flit crcOk => Sys2Proof.Machine.execBridgeFlitTransfer flit crcOk s
  | .portDown link cause => Sys2Proof.Machine.execPortDown link cause s
  | .retrainDone link lanes => Sys2Proof.Machine.execRetrainDone link lanes s
  | .retrainTimeout link => Sys2Proof.Machine.execRetrainTimeout link s
  | .advertTimer port => Sys2Proof.Machine.execAdvertTimer port s
  | .advertReceived port a => Sys2Proof.Machine.execAdvertReceived port a s
  | .detectTimeout port => Sys2Proof.Machine.execDetectTimeout port s
  | .trainingDone port => Sys2Proof.Machine.execTrainingDone port s
  | .trainingTimeout port => Sys2Proof.Machine.execTrainingTimeout port s
  | .keepaliveTimer port => Sys2Proof.Machine.execKeepaliveTimer port s
  | .timeExchangeStart => Sys2Proof.Machine.execTimeExchangeStart s
  | .timeSync port m arrival => Sys2Proof.Machine.execTimeSync port m arrival s
  | .timeDelayRequest port m arrival => Sys2Proof.Machine.execTimeDelayRequest port m arrival s
  | .timeDelayResponse port m => Sys2Proof.Machine.execTimeDelayResponse port m s
  | .alignmentLost => Sys2Proof.Machine.execAlignmentLost s
  | .stepBoundary => Sys2Proof.Machine.execStepBoundary s
  | .fabricWakeFrame port => Sys2Proof.Machine.execFabricWakeFrame port s
  | .laneEnergyWake port => Sys2Proof.Machine.execLaneEnergyWake port s
  | .wakeLight port => Sys2Proof.Machine.execWakeLight port s
  | .wakeN => Sys2Proof.Machine.execWakeN s
  | .autoHold => Sys2Proof.Machine.execAutoHold s
  | .governorTick vinMv iinMa => Sys2Proof.Machine.execGovernorTick vinMv iinMa s
  | .railCurrentGuard quarterAmps => Sys2Proof.Machine.execRailCurrentGuard quarterAmps s
  | .sensorSample raw => Sys2Proof.Machine.execSensorSample raw s
  | .throttleStepTimer => Sys2Proof.Machine.execThrottleStepTimer s
  | .interpolationCheck die region => Sys2Proof.Machine.execInterpolationCheck die region s
  | .parcelAcceptance model index => Sys2Proof.Machine.execParcelAcceptance model index s
  | .parcelIncompleteTimeout model index => Sys2Proof.Machine.execParcelIncompleteTimeout model index s
  | .recordBuilt a => Sys2Proof.Machine.execRecordBuilt a s
  | .programStart t => Sys2Proof.Machine.execProgramStart t s
  | .programRowEnd t => Sys2Proof.Machine.execProgramRowEnd t s
  | .programResume t => Sys2Proof.Machine.execProgramResume t s
  | .programmingDeferred t => Sys2Proof.Machine.execProgrammingDeferred t s
  | .programComplete t ok => Sys2Proof.Machine.execProgramComplete t ok s
  | .settlingDone t => Sys2Proof.Machine.execSettlingDone t s
  | .rewriteStart a => Sys2Proof.Machine.execRewriteStart a s
  | .directRewriteStart a => Sys2Proof.Machine.execDirectRewriteStart a s
  | .verifyScanDue a => Sys2Proof.Machine.execVerifyScanDue a s
  | .verifyScanDone a raw => Sys2Proof.Machine.execVerifyScanDone a raw s
  | .driftOutOfService a => Sys2Proof.Machine.execDriftOutOfService a s
  | .redigest masters records => Sys2Proof.Machine.execRedigest masters records s
  | .calibrationAgeTimer a => Sys2Proof.Machine.execCalibrationAgeTimer a s
  | .calibrationExpiry a => Sys2Proof.Machine.execCalibrationExpiry a s
  | .calibrationRunStart t => Sys2Proof.Machine.execCalibrationRunStart t s
  | .calibrationFitDone t raw overRange => Sys2Proof.Machine.execCalibrationFitDone t raw overRange s
  | .traceTimer => Sys2Proof.Machine.execTraceTimer s
  | .traceDone refin ladder vcref => Sys2Proof.Machine.execTraceDone refin ladder vcref s
  | .referenceUntraced => Sys2Proof.Machine.execReferenceUntraced s
  | .heldExpiry slot => Sys2Proof.Machine.execHeldExpiry slot s
  | .inFieldTestDue t => Sys2Proof.Machine.execInFieldTestDue t s
  | .inFieldTestStart t => Sys2Proof.Machine.execInFieldTestStart t s
  | .inFieldTestForced t => Sys2Proof.Machine.execInFieldTestForced t s
  | .inFieldTestDone t readings => Sys2Proof.Machine.execInFieldTestDone t readings s
  | .eccScrub pass => Sys2Proof.Machine.execEccScrub pass s
  | .sealScan upsets => Sys2Proof.Machine.execSealScan upsets s
  | .sealOpenTimeout => Sys2Proof.Machine.execSealOpenTimeout s
  | .sealOpen p value => Sys2Proof.Machine.execSealOpen p value s
  | .sealCommit p value => Sys2Proof.Machine.execSealCommit p value s
  | .traceNow p value => Sys2Proof.Machine.execTraceNow p value s
  | .lbSelWrite p n value => Sys2Proof.Machine.execLbSelWrite p n value s
  | .letterboxSnapshotDone n => Sys2Proof.Machine.execLetterboxSnapshotDone n s
  | .evrNewestWrite p value => Sys2Proof.Machine.execEvrNewestWrite p value s
  | .dlCtlClear p value => Sys2Proof.Machine.execDlCtlClear p value s
  | .dlCtlRestart p value => Sys2Proof.Machine.execDlCtlRestart p value s
  | .dlWinWrite p value => Sys2Proof.Machine.execDlWinWrite p value s
  | .intakeCtlWrite p value => Sys2Proof.Machine.execIntakeCtlWrite p value s
  | .compHeadWrite queue value => Sys2Proof.Machine.execCompHeadWrite queue value s
  | .evtHeadWrite value => Sys2Proof.Machine.execEvtHeadWrite value s
  | .sadcStart p n value => Sys2Proof.Machine.execSadcStart p n value s
  | .sadcStop p n value => Sys2Proof.Machine.execSadcStop p n value s
  | .sadcGo p n value => Sys2Proof.Machine.execSadcGo p n value s
  | .sadcSettled n => Sys2Proof.Machine.execSadcSettled n s
  | .sadcConversionDone n vinUv vrefUv => Sys2Proof.Machine.execSadcConversionDone n vinUv vrefUv s
  | .registerWrite p addr value => Sys2Proof.Machine.execRegisterWrite p addr value s
  | .i3cDynamicAddress addr => Sys2Proof.Machine.execI3cDynamicAddress addr s
  | .i3cPrivateWrite bytes => Sys2Proof.Machine.execI3cPrivateWrite bytes s
  | .i3cPrivateRead count => Sys2Proof.Machine.execI3cPrivateRead count s
  | .extest pins shifted => Sys2Proof.Machine.execExtest pins shifted s
  | .extestPulse pins shifted => Sys2Proof.Machine.execExtestPulse pins shifted s
  | .extestTrain pins shifted => Sys2Proof.Machine.execExtestTrain pins shifted s
  | .samplePreload pins shifted => Sys2Proof.Machine.execSamplePreload pins shifted s
  | .clamp => Sys2Proof.Machine.execClamp s
  | .highz => Sys2Proof.Machine.execHighz s
  | .idcode => Sys2Proof.Machine.execIdcode s
  | .bypass opcode => Sys2Proof.Machine.execBypass opcode s
  | .sysclkLoss => Sys2Proof.Machine.execSysclkLoss s
  | .laneLock port lane number inverted => Sys2Proof.Machine.execLaneLock port lane number inverted s
  | .trstN => Sys2Proof.Machine.execTrstN s
  | .reservedOpcode c opcode => Sys2Proof.Machine.execReservedOpcode c opcode s
  | .reservedFrameType h type chan payload => Sys2Proof.Machine.execReservedFrameType h type chan payload s
  | .attentionResult stepTag token head => Sys2Proof.Machine.execAttentionResult stepTag token head s
  | .heldPageWritten slot => Sys2Proof.Machine.execHeldPageWritten slot s
  | .compactionDone stepTag => Sys2Proof.Machine.execCompactionDone stepTag s

end Sys2Proof.Machine
end

