-- ==== Sys2Proof/Machine/Step.lean ====
section
/-! DEFINITION. One step of the block: the command at the front of the queue is executed with the queue's rest; on an
empty queue one 4 ns tick of the step-tick clock passes (log entry 2). -/

set_option Elab.async false

namespace Sys2Proof.Machine

/-- The state with the front command taken off the queue. -/
def State.rest (s : State) (q : List Instr) : State := { s with pending := q }

/-- One step. -/
def step (s : State) : Host.Outcome State Fault Refusal :=
  match s.pending with
  | [] => idleTick s
  | c :: q => exec c (s.rest q)

/-- The state with the command that a word of the table spells put at the front of the queue. -/
def State.withFetchWord (s : State) (nbits w : Nat) : State :=
  match Sys2Proof.decodeTableWord nbits w with
  | some c => { s with pending := c :: s.pending }
  | none => s

end Sys2Proof.Machine
end

