-- ==== Sys2Proof/Safety.lean ====
section
/-! DEFINITION. What a safe run is: every step answers a next state (no fault, no refusal), and every state of it is sound. A sound
state is one that the block's own operations can leave: the memory of the windows in its canonical form, at most 32 event records
held (13 R444), and record numbers that are never 0 (13 R444). Then the frame of every command: the parts of the state, and which of
them a command leaves as they are, whatever the state it meets and whatever its operands. Last, the terms that statements share. -/

set_option Elab.async false

namespace Sys2Proof.Machine

/-- A number an event record can have: 1 to 0xFFFFFFFF, 0 being skipped (13 R444). -/
def recordNumber (n : Nat) : Prop := 0 < n ∧ n < 2 ^ 32

/-- The facts about a state that every step keeps. -/
structure State.Sound (s : State) : Prop where
  /-- window memory stands in its canonical form -/
  memory : Memory.wf s.sv.mem = true
  /-- the buffer holds at most 32 records -/
  held : s.ev.held.length ≤ 32
  /-- the next record's number is a record number -/
  next : recordNumber s.ev.next
  /-- what the retention store keeps of the buffer is as sound -/
  retained : ∀ k, s.rg.retained = some k → k.2.1.length ≤ 32 ∧ recordNumber k.2.2

/-- A state from which `n` steps run safely. -/
def safeRun : Nat → State → Prop
  | 0, s => s.Sound
  | n + 1, s => s.Sound ∧ ∃ t, step s = .next t ∧ safeRun n t

/-! ### Frames -/

/-- A part of the state: a field of State, with window memory apart from the rest of its field. -/
inductive Part
  /-- the free-running clock, the step counter and time exchange -/
  | clocks
  /-- power state, supply, duty, entries, wakes -/
  | power
  /-- sensors and throttling -/
  | thermal
  /-- straps, flash, firmware, drain, dumps, watchdogs -/
  | boot
  /-- event records, asynchronous events, the event ring pointers -/
  | events
  /-- control and counter registers, letterboxes, seal, mirrors -/
  | registers
  /-- the Survey ADCs -/
  | surveyAdcs
  /-- the JTAG test access port -/
  | tap
  /-- the I3C target -/
  | i3c
  /-- Dispatch ports, links, intake queues, lease, sent frames -/
  | dispatch
  /-- contexts, slots, steps, queues, windows, adapters (all of it but window memory) -/
  | serving
  /-- window memory -/
  | memory
  /-- HBM regions, pages, frames, prefix trees -/
  | pages
  /-- models, parcels, stored weights, programs -/
  | weights
  /-- tile registers, banks, regions, correction units -/
  | tiles
  /-- reduction lines and ledgers -/
  | reductions
  /-- calibration store, tracing, trims -/
  | calibration
  /-- Courier ports, links, routes, jobs -/
  | fabric
  /-- the count of free values taken -/
  | draws
  deriving DecidableEq, Repr

/-- `t` has a part as `s` has it. -/
def Part.same (s t : State) : Part → Prop
  | .clocks => t.tm = s.tm
  | .power => t.pw = s.pw
  | .thermal => t.th = s.th
  | .boot => t.bt = s.bt
  | .events => t.ev = s.ev
  | .registers => t.rg = s.rg
  | .surveyAdcs => t.adcs = s.adcs
  | .tap => t.tp = s.tp
  | .i3c => t.i3 = s.i3
  | .dispatch => t.dp = s.dp
  | .serving => { t.sv with mem := [] } = { s.sv with mem := [] }
  | .memory => t.sv.mem = s.sv.mem
  | .pages => t.kv = s.kv
  | .weights => t.wt = s.wt
  | .tiles => t.tl = s.tl
  | .reductions => t.rd = s.rd
  | .calibration => t.cl = s.cl
  | .fabric => t.fb = s.fb
  | .draws => t.draw = s.draw

/-- The parts in the order of their numbers. -/
def Part.bit : Part → Nat
  | .clocks => 0
  | .power => 1
  | .thermal => 2
  | .boot => 3
  | .events => 4
  | .registers => 5
  | .surveyAdcs => 6
  | .tap => 7
  | .i3c => 8
  | .dispatch => 9
  | .serving => 10
  | .memory => 11
  | .pages => 12
  | .weights => 13
  | .tiles => 14
  | .reductions => 15
  | .calibration => 16
  | .fabric => 17
  | .draws => 18

/-- The parts a command leaves as they are. -/
def leaves : Instr → List Part
  | .detectTimeout .. =>
    [.clocks, .power, .thermal, .boot, .events, .registers, .surveyAdcs, .tap, .i3c, .dispatch, .serving, .memory, .pages,
     .weights, .tiles, .reductions, .calibration, .fabric, .draws]
  | .watchdogWrite .. =>
    [.clocks, .power, .thermal, .events, .registers, .surveyAdcs, .tap, .i3c, .dispatch, .serving, .memory, .pages,
     .weights, .tiles, .reductions, .calibration, .fabric, .draws]
  | .helloTimer .. | .dispatchTrainingDone .. | .dispatchTrainingTimeout .. =>
    [.clocks, .power, .thermal, .boot, .events, .registers, .surveyAdcs, .tap, .i3c, .serving, .memory, .pages, .weights,
     .tiles, .reductions, .calibration, .fabric, .draws]
  | .listFetchDone .. | .interpolationCheck .. | .inFieldTestStart .. =>
    [.clocks, .power, .thermal, .boot, .events, .registers, .surveyAdcs, .tap, .i3c, .dispatch, .serving, .memory, .pages,
     .weights, .reductions, .calibration, .fabric, .draws]
  | .advertTimer .. | .keepaliveTimer .. | .laneLock .. =>
    [.clocks, .power, .thermal, .boot, .events, .registers, .surveyAdcs, .tap, .i3c, .dispatch, .serving, .memory, .pages,
     .weights, .tiles, .reductions, .calibration, .draws]
  | .letterboxSnapshotDone .. =>
    [.clocks, .power, .thermal, .boot, .events, .surveyAdcs, .tap, .i3c, .dispatch, .serving, .memory, .pages, .weights,
     .tiles, .reductions, .calibration, .fabric, .draws]
  | .evtHeadWrite .. =>
    [.clocks, .power, .thermal, .boot, .registers, .surveyAdcs, .tap, .i3c, .dispatch, .serving, .memory, .pages, .weights,
     .tiles, .reductions, .calibration, .fabric, .draws]
  | .i3cDynamicAddress .. | .i3cPrivateRead .. =>
    [.clocks, .power, .thermal, .boot, .events, .registers, .surveyAdcs, .tap, .dispatch, .serving, .memory, .pages,
     .weights, .tiles, .reductions, .calibration, .fabric, .draws]
  | .extest .. | .extestPulse .. | .extestTrain .. | .samplePreload .. | .clamp | .highz | .idcode | .bypass .. | .trstN =>
    [.clocks, .power, .thermal, .boot, .events, .registers, .surveyAdcs, .i3c, .dispatch, .serving, .memory, .pages,
     .weights, .tiles, .reductions, .calibration, .fabric, .draws]
  | .intakeStaleTimeout .. =>
    [.power, .thermal, .boot, .events, .registers, .surveyAdcs, .tap, .i3c, .serving, .memory, .pages, .weights, .tiles,
     .reductions, .calibration, .fabric, .draws]
  | .bankDrainDone .. =>
    [.clocks, .power, .thermal, .boot, .events, .registers, .surveyAdcs, .tap, .i3c, .dispatch, .serving, .memory, .pages,
     .weights, .calibration, .fabric, .draws]
  | .stormRecheck =>
    [.clocks, .power, .thermal, .boot, .events, .registers, .surveyAdcs, .tap, .i3c, .dispatch, .memory, .pages, .weights,
     .reductions, .calibration, .fabric, .draws]
  | .flitReceive .. | .portDown .. =>
    [.clocks, .power, .thermal, .boot, .events, .registers, .surveyAdcs, .tap, .i3c, .serving, .memory, .pages, .weights,
     .tiles, .reductions, .calibration, .draws]
  | .trainingDone .. =>
    [.clocks, .power, .thermal, .boot, .registers, .surveyAdcs, .tap, .i3c, .dispatch, .serving, .memory, .pages, .weights,
     .tiles, .reductions, .calibration, .draws]
  | .timeExchangeStart | .timeSync .. | .timeDelayRequest .. =>
    [.power, .thermal, .boot, .events, .registers, .surveyAdcs, .tap, .i3c, .dispatch, .serving, .memory, .pages, .weights,
     .tiles, .reductions, .calibration, .draws]
  | .alignmentLost =>
    [.power, .thermal, .boot, .registers, .surveyAdcs, .tap, .i3c, .dispatch, .serving, .memory, .pages, .weights, .tiles,
     .reductions, .calibration, .fabric, .draws]
  | .railCurrentGuard .. =>
    [.clocks, .thermal, .boot, .registers, .surveyAdcs, .tap, .i3c, .dispatch, .serving, .memory, .pages, .weights, .tiles,
     .reductions, .calibration, .fabric, .draws]
  | .recordBuilt .. | .rewriteStart .. =>
    [.clocks, .power, .thermal, .boot, .events, .registers, .surveyAdcs, .tap, .i3c, .dispatch, .serving, .memory, .pages,
     .reductions, .calibration, .fabric, .draws]
  | .calibrationAgeTimer .. | .calibrationExpiry .. | .inFieldTestDue .. =>
    [.power, .thermal, .boot, .events, .registers, .surveyAdcs, .tap, .i3c, .dispatch, .serving, .memory, .pages, .weights,
     .reductions, .calibration, .fabric, .draws]
  | .programResume .. =>
    [.clocks, .power, .thermal, .boot, .registers, .surveyAdcs, .tap, .i3c, .dispatch, .serving, .memory, .pages,
     .reductions, .calibration, .fabric, .draws]
  | .sadcConversionDone .. =>
    [.clocks, .power, .thermal, .boot, .registers, .tap, .i3c, .dispatch, .serving, .memory, .pages, .weights, .tiles,
     .reductions, .calibration, .fabric, .draws]
  | .compactionDone .. =>
    [.clocks, .power, .thermal, .boot, .events, .registers, .surveyAdcs, .tap, .i3c, .dispatch, .memory, .weights, .tiles,
     .reductions, .calibration, .fabric, .draws]
  | .reorderTimeout .. =>
    [.power, .thermal, .boot, .events, .registers, .surveyAdcs, .tap, .i3c, .memory, .pages, .weights, .tiles, .reductions,
     .calibration, .fabric, .draws]
  | .powerEntryTimeout =>
    [.thermal, .boot, .registers, .surveyAdcs, .tap, .i3c, .serving, .memory, .pages, .weights, .tiles,
     .reductions, .calibration, .fabric, .draws]
  | .throttleStepTimer =>
    [.thermal, .boot, .registers, .surveyAdcs, .tap, .i3c, .dispatch, .serving, .memory, .pages, .weights, .tiles,
     .reductions, .calibration, .fabric, .draws]
  | .activationHoldTimeout .. =>
    [.power, .thermal, .boot, .events, .surveyAdcs, .tap, .i3c, .dispatch, .serving, .memory, .pages, .weights, .tiles,
     .reductions, .calibration, .draws]
  | .flitResendTimeout .. =>
    [.power, .thermal, .boot, .events, .registers, .surveyAdcs, .tap, .i3c, .serving, .memory, .pages, .weights, .tiles,
     .reductions, .calibration, .draws]
  | .advertReceived .. | .trainingTimeout .. =>
    [.clocks, .power, .thermal, .boot, .surveyAdcs, .tap, .i3c, .weights, .calibration, .draws]
  | .governorTick .. =>
    [.clocks, .boot, .registers, .surveyAdcs, .tap, .i3c, .dispatch, .serving, .memory, .pages, .weights, .tiles,
     .reductions, .calibration, .fabric, .draws]
  | .programStart .. | .programRowEnd .. | .directRewriteStart .. | .driftOutOfService .. =>
    [.clocks, .power, .thermal, .boot, .registers, .surveyAdcs, .tap, .i3c, .dispatch, .serving, .memory, .pages,
     .reductions, .calibration, .fabric, .draws]
  | .programmingDeferred .. | .inFieldTestForced .. =>
    [.power, .thermal, .boot, .registers, .surveyAdcs, .tap, .i3c, .dispatch, .serving, .memory, .pages, .weights,
     .reductions, .calibration, .fabric, .draws]
  | .referenceUntraced =>
    [.power, .thermal, .boot, .registers, .surveyAdcs, .tap, .i3c, .dispatch, .serving, .memory, .pages, .weights, .tiles,
     .reductions, .fabric, .draws]
  | .sealOpenTimeout =>
    [.power, .thermal, .boot, .surveyAdcs, .tap, .i3c, .dispatch, .serving, .memory, .pages, .weights, .tiles, .reductions,
     .calibration, .fabric, .draws]
  | .retrainDone .. | .retrainTimeout .. =>
    [.clocks, .power, .thermal, .boot, .surveyAdcs, .tap, .i3c, .weights, .calibration, .draws]
  | .stepBoundary =>
    [.power, .thermal, .boot, .events, .surveyAdcs, .tap, .i3c, .dispatch, .serving, .memory, .pages, .weights, .reductions,
     .fabric, .draws]
  | .traceDone .. =>
    [.clocks, .power, .thermal, .boot, .registers, .tap, .i3c, .dispatch, .serving, .memory, .pages, .weights, .reductions,
     .fabric, .draws]
  | .firstEverCalibration .. =>
    [.clocks, .thermal, .tap, .i3c, .draws]
  | .leaseExpiry =>
    [.power, .thermal, .boot, .registers, .surveyAdcs, .tap, .i3c, .pages, .weights, .tiles, .reductions, .calibration,
     .fabric, .draws]
  | .stormHandling =>
    [.clocks, .power, .thermal, .boot, .registers, .surveyAdcs, .tap, .i3c, .pages, .weights, .reductions, .calibration,
     .fabric, .draws]
  | .timeDelayResponse .. =>
    [.power, .thermal, .boot, .registers, .surveyAdcs, .tap, .i3c, .serving, .memory, .pages, .reductions, .fabric, .draws]
  | .parcelIncompleteTimeout .. =>
    [.power, .thermal, .boot, .registers, .surveyAdcs, .tap, .i3c, .pages, .tiles, .reductions, .calibration, .fabric, .draws]
  | .l2getTimeout .. =>
    [.clocks, .power, .thermal, .boot, .registers, .surveyAdcs, .tap, .i3c, .calibration, .fabric, .draws]
  | .autoHold =>
    [.thermal, .boot, .events, .tap, .i3c, .dispatch, .serving, .memory, .pages, .reductions, .fabric, .draws]
  | .converterResult .. =>
    [.clocks, .power, .thermal, .boot, .events, .registers, .surveyAdcs, .tap, .i3c, .calibration, .draws]
  | .outlierAdd .. | .fallbackJobDone .. | .adapterContribution .. =>
    [.clocks, .power, .thermal, .boot, .registers, .surveyAdcs, .tap, .i3c, .calibration, .draws]
  | .routeRecompute .. =>
    [.clocks, .power, .thermal, .boot, .surveyAdcs, .tap, .i3c, .weights, .calibration, .draws]
  | .headerCrcFailure .. | .read .. | .heartbeat .. | .regread .. | .reservedFrameType .. =>
    [.clocks, .thermal, .tap, .i3c, .weights, .tiles, .reductions, .draws]
  | .l2reg .. =>
    [.clocks, .thermal, .tap, .i3c, .draws]
  | .l2data .. =>
    [.clocks, .thermal, .tap, .i3c, .weights, .tiles, .reductions]
  | .sortingRound .. | .prefixMatchDone .. | .heldPageWritten .. =>
    [.clocks, .thermal, .boot, .tap, .i3c, .calibration, .draws]
  | .jobWaitTimeout .. =>
    [.power, .thermal, .boot, .surveyAdcs, .tap, .i3c, .weights, .calibration, .draws]
  | .attentionResult .. =>
    [.clocks, .power, .thermal, .boot, .surveyAdcs, .tap, .i3c, .calibration]
  | .parcelFrame .. =>
    [.clocks, .thermal, .tap, .i3c, .tiles, .reductions]
  | .orphanSlotMove =>
    [.clocks, .thermal, .boot, .tap, .i3c, .reductions, .fabric, .draws]
  | .step .. | .createWindow .. | .deleteWindow .. | .createQueue .. | .setEventRing .. | .createContext .. | .changeContext ..
  | .loadAdapter .. | .setRegions .. | .setServing .. | .setJobTable .. | .resetPort .. | .readPorts ..
  | .readStorm .. | .attest .. | .readIdentity .. | .updateBegin .. | .updateData .. | .updateCommit .. | .dump ..
  | .reservedOpcode .. =>
    [.clocks, .thermal, .tap, .i3c, .weights, .tiles, .reductions, .draws]
  | .setFabric .. =>
    [.thermal, .tap, .i3c, .weights, .tiles, .reductions, .draws]
  | .fireLatch .. =>
    [.clocks, .power, .thermal, .boot, .registers, .surveyAdcs, .tap, .i3c]
  | .verifyScanDue .. =>
    [.clocks, .thermal, .tap, .i3c, .memory, .weights, .reductions, .draws]
  | .traceTimer =>
    [.thermal, .tap, .i3c, .memory, .weights, .tiles, .reductions, .draws]
  | .write .. =>
    [.clocks, .thermal, .tap, .i3c, .weights, .tiles, .reductions]
  | .loadModel .. =>
    [.clocks, .thermal, .tap, .i3c, .tiles, .reductions, .draws]
  | .requestCalibration .. =>
    [.clocks, .thermal, .tap, .i3c, .weights, .reductions, .draws]
  | .select .. | .deleteQueue .. | .discardContext .. | .unloadModel .. | .unloadAdapter .. | .releaseLease .. | .redigest .. =>
    [.clocks, .thermal, .tap, .i3c, .reductions, .draws]
  | .firmwareCrash .. | .lockstepMismatch | .releaseJob .. | .spotComparisonDone .. | .drainArrival ..
  | .contributionRecord .. | .replayNotice .. | .activationRecord .. | .moduleDownNotice .. | .jobAbortNotice ..
  | .courierFrameRoute .. | .courierParcelFrame .. | .bridgeFlitTransfer .. | .calibrationFitDone .. | .inFieldTestDone ..
  | .eccScrub .. | .sealScan .. =>
    [.clocks, .thermal, .tap, .i3c, .draws]
  | .loadTime .. =>
    [.thermal, .tap, .i3c, .reductions, .draws]
  | .powerFailStop .. | .watchdogExpiry .. | .sysclkLoss =>
    [.thermal, .tap, .i3c, .draws]
  | .lineTimeout .. | .fabricWakeFrame .. | .laneEnergyWake .. | .wakeLight .. | .wakeN =>
    [.thermal, .tap, .i3c, .draws]
  | .postmarkComparison .. =>
    [.tap, .i3c]
  | .doorbellSubmission .. | .doorbellCompletion .. | .setPowerState .. | .stepCommit .. | .sensorSample .. | .programComplete ..
  | .settlingDone .. | .compHeadWrite .. | .fireAdd .. =>
    [.tap, .i3c, .draws]
  | .powerApplied .. | .powerFailRecovery | .regwrite .. | .dlreadStatus .. | .dlreadRead .. | .dlreadClear ..
  | .dlreadRestart .. | .resetModule .. | .sealOpen .. | .sealCommit .. | .traceNow .. | .lbSelWrite .. | .evrNewestWrite ..
  | .dlCtlClear .. | .dlCtlRestart .. | .dlWinWrite .. | .intakeCtlWrite .. | .sadcStart .. | .sadcStop .. | .sadcGo ..
  | .registerWrite .. | .i3cPrivateWrite .. =>
    [.tap, .draws]
  | .resetN .. =>
    [.draws]
  | .arraysReady =>
    [.clocks, .power, .thermal, .events, .registers, .surveyAdcs, .tap, .i3c, .dispatch, .serving, .memory, .pages,
     .reductions, .calibration, .fabric, .draws]
  | .parcelAcceptance .. =>
    [.clocks, .power, .thermal, .boot, .registers, .surveyAdcs, .tap, .i3c, .pages, .reductions, .calibration, .fabric,
     .draws]
  | .verifyScanDone .. =>
    [.clocks, .thermal, .boot, .registers, .surveyAdcs, .tap, .i3c, .dispatch, .serving, .memory, .pages, .reductions,
     .calibration, .fabric]
  | .calibrationRunStart .. =>
    [.clocks, .thermal, .tap, .i3c, .memory, .reductions, .draws]
  | .sadcSettled .. =>
    [.power, .thermal, .boot, .events, .registers, .tap, .i3c, .dispatch, .serving, .memory, .pages, .weights, .tiles,
     .reductions, .calibration, .fabric, .draws]
  | .pageExhaustionTimeout .. =>
    [.power, .thermal, .boot, .surveyAdcs, .tap, .i3c, .calibration, .draws]
  | .heldExpiry .. =>
    [.thermal, .boot, .tap, .i3c, .calibration, .draws]
  | .powerRemoved =>
    []

/-- Parts, in a state that no command wakes from P2, P3 or P4. -/
def State.roused (s : State) (l : List Part) : List Part := if s.pw.state = .p0 ∨ s.pw.state = .p1 then l else []

/-- More that a command leaves as it is where the state it meets asks for no more of it: with no power entry to complete, in another state than
P4, P2 or P1, which it would wake from, with no array to bind, with no repeat that waits, with a trace that fails, with a frame whose CRC-32C
holds, with a size in an L2REG, with no suspended lease, or with a port that holds no frame. -/
def leavesIf (i : Instr) (s : State) : List Part :=
  match i with
  | .fireAdd _ =>
    if s.pw.entry = none then
      [.clocks, .thermal, .boot, .registers, .surveyAdcs, .tap, .i3c, .calibration, .draws] else []
  | .postmarkComparison _ => if s.pw.entry = none then [.clocks, .thermal, .tap, .i3c] else []
  | .fabricWakeFrame _ | .laneEnergyWake _ | .wakeLight _ | .wakeN =>
    (if s.pw.state = .p4 then [] else [.clocks, .thermal, .tap, .i3c, .weights, .tiles, .reductions, .draws]) ++ s.roused [.memory]
  | .programResume t =>
    if (s.tile t).prog.any fun p => p.phase == .waiting then []
    else [.clocks, .power, .thermal, .boot, .events, .registers, .surveyAdcs, .tap, .i3c, .dispatch, .serving, .memory, .pages, .weights,
      .reductions, .calibration, .fabric, .draws]
  | .firstEverCalibration trace _ =>
    if traceResult trace.refin = 1 then []
    else [.clocks, .power, .thermal, .boot, .registers, .tap, .i3c, .dispatch, .serving, .memory, .pages, .reductions, .fabric, .draws]
  | .write h _ => if h.crcOk then [.draws] else []
  | .parcelFrame h _ | .l2data h _ => (if h.crcOk then [.draws] else []) ++ s.roused [.memory]
  | .l2reg _ payload => if fld payload 0 8 = 0 then [] else [.weights, .tiles, .reductions] ++ s.roused [.memory]
  | .powerEntryTimeout => if (s.dp.lease.filter Lease.suspended).isNone then [.dispatch] else []
  | .advertReceived port _ | .trainingTimeout port =>
    if (s.port port).out = [] then [.dispatch, .serving, .memory, .pages, .tiles, .reductions] else []
  | .retrainDone link _ | .retrainTimeout link =>
    if (s.port link).out = [] then [.serving, .memory, .pages, .tiles, .reductions] else []
  | .headerCrcFailure _ | .read _ _ | .heartbeat _ _ | .regread _ _ | .reservedFrameType _ _ _ _ => s.roused [.memory]
  | .sortingRound _ | .prefixMatchDone _ _ | .heldPageWritten _ | .heldExpiry _ => if s.pw.state = .p1 then [] else [.power, .surveyAdcs]
  | .calibrationRunStart _ =>
    if s.pw.state = .p1 then []
    else [.power, .boot, .events, .registers, .surveyAdcs, .dispatch, .serving, .pages, .calibration, .fabric]
  | .arraysReady => if s.toBind = [] then [.weights, .tiles] else []
  | _ => []

/-! ### Terms of the statements -/

/-- Whether the boot chain, run from a reset in this state, starts firmware from image `i` under record `r`: certificate and helper
data pass, the flash reads, `r` is the record in force, `i` is the image of the chosen slot, and every tile record's DIGEST holds (12
R412-R423, 07 R212). -/
def State.bootsTo (s : State) (r : ConfigRecord) (i : Image) : Prop :=
  s.bt.identityOk = true ∧ s.bt.flashReadError = false ∧ s.bt.chooseRecord = some r ∧
    ((at' s.bt.images s.bt.control.choose.1 none).filter fun x => x.bootable r.minSvn) = some i ∧ s.storeBad = none

/-- The bits of the register file that a write does not take as written but within the limits that their field's Meaning states: 13 Table 13.10,
15 Tables 15.9 to 15.11 (R517). -/
def limitedBit (a k : Nat) : Bool :=
  (a == 0x4004 && k < 14) || (a == 0x4018 && k < 16) || (a == 0x5020 && k < 21) || (a == 0x6000 && (k < 9 || 16 ≤ k)) ||
    (0x10000 ≤ a && a < 0x15000 && ((a % 0x1000 == 0 && 1 ≤ k && k ≤ 2) ||
      (((0x40 ≤ a % 0x1000 && a % 0x1000 ≤ 0x7C) || a % 0x1000 == 0xC0) && 8 ≤ k && k ≤ 16)))

/-- The seal after the opening and the commit that a host's write stands between (13 R435, Table 13.9). -/
def State.hostSeal (s : State) : Seal :=
  { s.rg.sealed with opened := false, openedAt := if s.rg.sealed.opened then s.rg.sealed.openedAt else s.tm.tick, pending := true, noRef := false }

/-- A path can write a register that lies in the H core's domain and that it may write at all (13 R434): firmware runs, for the host with a live
lease, or over I3C the H core clock runs. -/
def State.pathOpen (s : State) : Path → Prop
  | .host => s.firmwareRuns = true ∧ s.leaseLive = true
  | .firmware => s.firmwareRuns = true
  | .i3c => s.hcoreRuns = true

/-- The module is in P1 Hold for a reason, or enters it for that reason once the fires in flight have reached their t19 (15 R495, 02
R52). -/
def State.holdsP1 (s : State) (why : HoldReason) : Prop :=
  s.pw.hold = why ∧ (s.pw.state = .p1 ∨ (s.inFlight = true ∧ ∃ e, s.pw.entry = some e ∧ e.target = .p1))

/-! ### Links as statements name them -/

/-- The idle flit that port `k` sends next, with its trailer. -/
def State.idleOf (s : State) (k : Nat) (nak : Bool) : SentFlit :=
  let l := (s.port k).link
  { idleFlit with seq := l.nextSend, ack := l.ackSeq, nak := nak, creditVc := l.giving.1, credit := l.giving.2, sent := s.tm.tick,
                  marker := (s.port k).gen == 1 && l.sinceMarker == 15 }

/-- The link of port `k` after a flit that it did not take: an idle flit with a NAK has gone out, or with 512 flits in the replay buffer a NAK
waits. -/
def State.naked (s : State) (k : Nat) (l1 : Link) : Prop :=
  let l := (s.port k).link
  (512 ≤ l.replay.length → l1 = { l with nak := true, crcErr := l1.crcErr }) ∧
    (l.replay.length < 512 → l1 = { l with nextSend := (l.nextSend + 1) % 4096, nak := false, owed := l.owed.drop 1,
                                           sinceMarker := (l.sinceMarker + 1) % 16, replay := l.replay ++ [s.idleOf k true],
                                           crcErr := l1.crcErr })

/-! ### Arrays as statements name them -/

/-- A program as the driver begins it: one cycle more, its codes those of the record it writes (06 R180, R184). -/
def State.begun (s : State) (id : TileId) (p : Program) : Program :=
  { p with phase := .erase, began := s.tm.tick, row := 0, cycles := p.cycles + 1, codes := p.codes.orElse fun _ => s.programRecord id p }

/-- The state that a working array comes to as it goes out of service: COVERED where the spare stands in for it and it can be programmed,
else OUT_OF_SERVICE (06 Table 6.5, R199). -/
def State.stateOut (s : State) (a : ArrId) : AState :=
  if (s.tile a.tid).standIn = some a.arr ∧ (s.dir a).retired = false ∧ (s.record a).isSome = true then .covered else .outOfService

/-! ### Frames from the host as statements name them -/

/-- The state in which a frame that has arrived on a port's channel is checked: the module awake, the intake queue read. -/
def State.heard (s : State) (h : FrameHdr) (chan : Nat) : State :=
  (s.frameArrives (chan == 0)).modIntake h.port chan fun q =>
    { q with lastRead := (s.frameArrives (chan == 0)).stamp, signalled := false }

/-- A frame arrives at a running module and passes every check of 11 R362. -/
def State.takes (s : State) (h : FrameHdr) (chan type : Nat) (needsLease lenOk : Bool) : Bool :=
  s.portHears h.port && (s.frameArrives (chan == 0)).firmwareRuns && (s.heard h chan).frameStatus h type needsLease lenOk == 0

/-- The last frame sent is the RESPONSE to a frame, with a status and the bytes that follow it (11 R382). -/
def State.answered (t : State) (h : FrameHdr) (status : Nat) (tail : Bytes) : Prop :=
  ∃ f, t.dp.tx.getLast? = some f ∧ f.type = 6 ∧ f.port = h.port ∧ f.seq = h.seq ∧ f.tag = h.tag ∧
    f.payload = natLe 1 status ++ natLe 3 0 ++ natLe 4 h.seq ++ tail

/-- A command passes every check before it is carried out (12 R403-R406): result address, version, header, LM2 list, drain, output address,
features and arguments. -/
def State.commandPasses (u : State) (c : CmdFrame) (k : Command) : Bool :=
  (c.resultAddr == 0 || (k.windows u c.args).resultFits c.resultAddr (32 + k.maxOut u)) && c.cmdver == 1 &&
    (headerFaultOf c).isNone && (k.lm2 || !(u.bt.compat || u.tuiven1)) && (k.needs.all fun f => u.feature f) && (!u.isDrained || k.drainOk) &&
    !(k.output && c.resultAddr == 0) && !k.subset u c.args && (k.argFault u c.args).isNone

/-- A command arrives at a running module and passes every check of its frame (11 R362) and its own. -/
def State.commandReady (s : State) (c : CmdFrame) (k : Command) : Bool :=
  s.takes c.hdr 0 9 true (32 ≤ c.hdr.length) && (s.heard c.hdr 0).commandPasses c k

/-- `t` is `x` once a command has completed with a code and an output: the RESPONSE sent with the code, the command in the history, and the
result record of 12 R405 and Table 12.3 at its address where one was asked for and a result window holds it; nothing else differs, and every
byte of window memory outside that record is as it was. -/
def State.completes (x t : State) (c : CmdFrame) (opcode code : Nat) (out : Bytes := []) : Prop :=
  t = { x with bt := { x.bt with history := rotate 256 (x.bt.history ++ [(opcode, code)]) },
               sv := { x.sv with mem := t.sv.mem },
               dp := { x.dp with tx := t.dp.tx, ports := t.dp.ports } } ∧
    ∃ detail, t.answered c.hdr 0 (natLe 2 code ++ natLe 2 0 ++ natLe 4 detail) ∧
      t.sv.mem = if c.resultAddr ≠ 0 ∧ x.resultFits c.resultAddr (32 + out.length) = true then
        memWrite x.sv.mem c.resultAddr
          (natLe 2 code ++ natLe 2 opcode ++ natLe 4 c.hdr.seq ++ natLe 4 out.length ++ natLe 4 detail ++ natLe 16 0 ++ out)
      else x.sv.mem

/-- A Courier frame of a type arrives at its destination and passes every check before it is taken (10 R323, R326, R353). -/
def State.carried (s : State) (h : CourierHdr) (type : Nat) : Bool :=
  s.arrives { h with type := type } && s.isDest { h with type := type } && h.crcOk && h.version == 1 &&
    !((type == 1 || type == 3 || type == 5) && s.fb.aborted.contains h.job)

/-- `t` is `s` once one frame of a parcel has been placed: the data joins the parcel's pieces at its offset, and a whole parcel that
does not address the module is dropped (06 R170, R546). -/
def State.assembles (s t : State) (viaDispatch : Bool) (model index off : Nat) (data : Bytes) : Prop :=
  let old := (s.wt.assembling.find? fun a => a.is model index).getD ⟨model, index, [], [], 0, viaDispatch⟩
  let new := { old with pieces := old.pieces ++ [(off, data)], lastArrival := s.tm.tick }
  (new.whole = false ∨ (∀ h, new.header = some h → s.addressed h = true) →
    t.wt.assembling.find? (fun a => a.is model index) = some new) ∧
  (∀ h, new.header = some h → new.whole = true → s.addressed h = false →
    t.wt.assembling.find? (fun a => a.is model index) = none)

/-- A job stands aborted: it is marked so, and its ledgers and held activations are gone (10 R353). -/
def State.abortsJob (t : State) (job : Nat) : Prop :=
  t.fb.aborted.contains job = true ∧ (∀ a ∈ t.fb.held, a.job ≠ job) ∧ (∀ a ∈ t.fb.activations, a.job ≠ job) ∧ ∀ l ∈ t.rd.ledgers, l.job ≠ job

end Sys2Proof.Machine
end

