-- ==== Sys2Proof/Certificates/Slice0/Obligations.lean ====
section
/-! DEFINITION. The statements for the provers. -/

open Sys2Proof Sys2Proof.Machine

/-- The block's queue of waiting commands is first in, first out: a step at a state whose queue is `c :: q` is the execution of `c` with
the queue `q`. -/
def Obligations.StepTakesTheFrontCommand : Prop :=
  ∀ (s : State) (c : Instr) (q : List Instr), step { s with pending := c :: q } = exec c { s with pending := q }

/-- The model's choice (log entry 2): on an empty queue a step lets one tick of the step-tick clock pass, and nothing else changes. 01 R18, R19, 10
R339, R342: the tick goes by one; a VALID counter goes by one, or by none or two at a correction; an INVALID one stands. In P4 and while the module
is stopped or unpowered nothing happens. Where a VALID counter would pass 2^64 - 1 the step faults (10 R339 gives it no value there). -/
def Obligations.AnIdleStepIsOneTick : Prop :=
  ∀ s : State, s.pending = [] →
    (s.pw.supplied = false ∨ s.pw.stop ≠ none ∨ s.pw.state = .p4 → step s = .next s) ∧
    (s.pw.supplied = true → s.pw.stop = none → s.pw.state ≠ .p4 →
      (s.tm.valid = false → ∃ t, step s = .next t ∧ t = { s with tm := t.tm } ∧ t.tm.tick = s.tm.tick + 1 ∧ t.tm.counter = s.tm.counter ∧ t.tm.valid = false) ∧
      (s.tm.valid = true → s.tm.correction = 0 → s.tm.rate = 0 → s.tm.counter + 2 < 2 ^ 64 → ∃ t, step s = .next t ∧ t = { s with tm := t.tm } ∧
        t.tm.tick = s.tm.tick + 1 ∧ t.tm.counter = s.tm.counter + 1) ∧
      (s.tm.valid = true → s.tm.counter < 2 ^ 64 - 2 → ∃ t, step s = .next t ∧ t = { s with tm := t.tm } ∧ t.tm.tick = s.tm.tick + 1 ∧
        s.tm.counter ≤ t.tm.counter ∧ t.tm.counter ≤ s.tm.counter + 2) ∧
      (s.tm.valid = true → s.tm.correction = 0 → s.tm.rate = 0 → s.tm.counter = 2 ^ 64 - 1 → step s = .fault .counterWrap))

/-- 01 R19, 13 R433, R438, R444, R449. At reset every register holds the bits of its Reset column, the step counter is INVALID, no record is
held and the next has number 1, no reference of the seal stands, every letterbox is empty, nothing serves, and no command waits. What flash
holds, and that 48 V is on, is the model's choice (log entry 5). -/
def Obligations.ResetLeavesTheResetColumn : Prop :=
  (∀ a i, regInfo a = some i → State.reset.stored a = i.reset) ∧
  State.reset.tm.valid = false ∧ State.reset.ev.held = [] ∧ State.reset.ev.next = 1 ∧ State.reset.ev.lost = 0 ∧
  State.reset.rg.sealed.ref = none ∧ State.reset.rg.sealed.noRef = true ∧ State.reset.rg.sealed.opened = false ∧
  (∀ n, n < 16 → State.reset.box n = Letterbox.reset) ∧
  State.reset.sv.windows = [] ∧ State.reset.sv.slots = [] ∧ State.reset.sv.steps = [] ∧ State.reset.sv.queues = [] ∧
  (∀ a, memGet State.reset.sv.mem a = unwritten) ∧ State.reset.dp.lease = none ∧ State.reset.isDrained = false ∧
  State.reset.pending = []

/-- Window memory after reset is in canonical form, the buffer holds no more than 32 records and numbers its next record 1 (13 R444). -/
def Obligations.ResetIsSound : Prop := State.reset.Sound

/-- 13 R444, 11 R376. Whatever command stands at the front of the queue, and on an empty queue: if the state is sound (window memory in its
canonical form, at most 32 records held, the next record's number from 1 to 2^32 - 1, in the buffer and in what the retention store keeps of
it), the next state is sound. -/
def Obligations.EveryStepKeepsTheStateSound : Prop :=
  ∀ s t : State, s.Sound → step s = .next t → t.Sound

/-- Every command leaves the queue of waiting commands to the step, never turns the free-running step-tick clock back (01 R18), and leaves the
device's certificate serial as it is (12 R421). -/
def Obligations.CommandsKeepQueueClockAndIdentity : Prop :=
  ∀ (c : Instr) (s t : State), exec c s = .next t →
    t.pending = s.pending ∧ s.tm.tick ≤ t.tm.tick ∧ t.bt.certSerial = s.bt.certSerial

/-- A command that meets a state in which the spec gives it no effect leaves the state as it is (log entry 4); none stops the block. -/
def Obligations.EveryCommandAnswers : Prop := ∀ (c : Instr) (s : State), ∃ t, exec c s = .next t

/-- For each command, `leaves` names the parts of the state (clocks, power, thermal, boot, events, registers, Survey ADCs, TAP, I3C, Dispatch,
serving, window memory, pages, weights, tiles, reductions, calibration, fabric, draws) that it leaves as they are, from every state and with every
operand; `leavesIf` names more, where the state or the operands ask for less of it (no power entry completes, no frame of the port is sent again,
the frame's CRC-32C holds, and so on). A command that raises a record may change events, and so on; spec/95_what_each_step_holds.md names what each
may touch. -/
def Obligations.CommandsLeaveOtherPartsAlone : Prop :=
  ∀ (c : Instr) (s t : State) (p : Part), exec c s = .next t → p ∈ leaves c ∨ p ∈ leavesIf c s → p.same s t

/-- The memory law: after a write of bytes at an address each of them reads as written and every other byte as before, whatever was written
there before; clearing a range makes its bytes read as unwritten; memories in canonical form with the same contents are the same list. -/
def Obligations.WrittenBytesReadBack : Prop :=
  (∀ (m : List Host.Cell) (a b : Nat) (d : Bytes), Memory.wf m = true →
    Memory.wf (memWrite m a d) = true ∧
      memGet (memWrite m a d) b = if a ≤ b ∧ b < a + d.length then at' d (b - a) 0 else memGet m b) ∧
  (∀ (m : List Host.Cell) (a n b : Nat), Memory.wf m = true → Memory.wf (memClear m a n) = true ∧
    memGet (memClear m a n) b = if a ≤ b ∧ b < a + n then unwritten else memGet m b) ∧
  (∀ m n : List Host.Cell, Memory.wf m = true → Memory.wf n = true → (∀ a, memGet m a = memGet n a) → m = n)

/-- 06 R184: no wear counter is ever lowered, and it survives power removal. From every state and whatever the command, every array's counter
in the next state is at least what it was. (That a program's erase counts one is stated with the programs.) -/
def Obligations.NoWearCounterIsEverLowered : Prop :=
  ∀ (c : Instr) (s t : State) (a : ArrId), exec c s = .next t → (s.dir a).wear ≤ (t.dir a).wear

/-- 11 R381. Where every queue holds at most 256 waiting steps, it does so after a STEP frame or a doorbell that moves a submission tail. A
STEP with the expected number on a queue that holds 256 gets status 9 (busy), and the queue keeps its waiting steps and its expected number. -/
def Obligations.AQueueHoldsAtMost256WaitingSteps : Prop :=
  (∀ (s t : State) (n : Nat) (w : Waiting), (∀ k q, s.queue k = some q → q.waiting.length ≤ 256) → t = s.offer n w → ∀ k q, t.queue k = some q → q.waiting.length ≤ 256) ∧
  (∀ (s t : State) (h : FrameHdr) (p : Bytes), s.takes h 0 5 true true = true → (∀ k q, (s.heard h 0).queue k = some q → q.waiting.length ≤ 256) →
    exec (.step h p) s = .next t → ∀ k q, t.queue k = some q → q.waiting.length ≤ 256) ∧
  (∀ (s t : State) (h : FrameHdr) (p : Bytes), s.takes h 0 13 true (p.length == 8) = true → (∀ k q, (s.heard h 0).queue k = some q → q.waiting.length ≤ 256) →
    fld p 0 1 = 0 → exec (.doorbellSubmission h p) s = .next t → ∀ k q, t.queue k = some q → q.waiting.length ≤ 256) ∧
  (∀ (s : State) (h : FrameHdr) (p : Bytes) (q : Queue), s.takes h 0 5 true true = true →
    let u := s.heard h 0
    u.queue h.queue = some q → q.deleting = false → q.ctx = h.context → (q.ownPort = none ∨ q.ownPort = some h.port) → u.isDrained = false →
    h.seq = q.expected → q.expected < 2 ^ 32 → 256 ≤ q.waiting.length →
    ∃ t, exec (.step h p) s = .next t ∧ t.answered h 9 (natLe 8 0) ∧ t.queue h.queue = some { q with ownPort := some h.port })

/-- 05 R142, 03 R71. An addition into a holder of w bits gives the exact sum where it fits and the previous value where it does not, never a
wrapped or saturated one; the fault is reported exactly if some element does not fit. In a bank or at a line the record 0x0007 names the die,
the array or line and the STEP_TAG; then the step ends with status 4: its completion says so, and no work of it is left: it is no live step once its
completion stands, and no queued fire or due repeat, no bank, no fall-back job or spot comparison, and no line names it. -/
def Obligations.OverflowKeepsTheHolderAndEndsTheStep : Prop :=
  (∀ (w n : Nat) (old add : List Int),
    let ok (i : Nat) : Prop := -(2 ^ (w - 1) : Int) ≤ at' old i 0 + at' add i 0 ∧ at' old i 0 + at' add i 0 < 2 ^ (w - 1)
    ((addVec w n old add).2 = true ↔ ∃ i, i < n ∧ ¬ ok i) ∧
    ∀ i, i < n → (ok i → at' (addVec w n old add).1 i 0 = at' old i 0 + at' add i 0) ∧
      (¬ ok i → at' (addVec w n old add).1 i 0 = at' old i 0)) ∧
  (∀ (s : State) (id : TileId) (b arr : Nat) (red : Reduction) (v : List Int), ((s.tile id).bank b).red = some red →
    (addVec 64 256 ((s.tile id).bank b).regs v).2 = true →
    ∃ (u : State) (r : Record), s.addToBank id b arr red v = u.failStep red.stepTag 4 ∧ u = { s with ev := u.ev } ∧
      u.ev.held.getLast? = some r ∧ r.code = 0x0007 ∧ r.source = id.die ∧ r.detail = [locOf (id.array arr), red.stepTag]) ∧
  (∀ (s : State) (l : LineId) (source tag : Nat), ∃ (u : State) (r : Record), s.lineOverflow l source tag = u.failStep tag 4 ∧
    u = { s with ev := u.ev } ∧ u.ev.held.getLast? = some r ∧ r.code = 0x0007 ∧ r.source = source ∧ r.detail = [lineWord l + 2 ^ 31, tag]) ∧
  (∀ (s : State) (tag status : Nat) (o : OpenStep), s.stepOf tag = some o →
    ∃ (u : State) (c : Completion), s.failStep tag status = ((u.putEnded o.queue c).deliver o.queue).sweep ∧ c.status = status ∧ c.tag = o.hostTag ∧
      c.seq = o.seq ∧ c.queue = o.queue ∧ c.stepNumber = o.cmd.stepNumber ∧ (u.putEnded o.queue c).liveStep tag = none ∧
      (∀ x ∈ u.tl.tiles, (∀ f ∈ x.fires, f.red.stepTag ≠ tag) ∧ (∀ f, x.repeatDue = some f → f.red.stepTag ≠ tag) ∧
        ∀ k red, (x.bank k).red = some red → red.stepTag ≠ tag) ∧
      (∀ r ∈ u.tl.regions, (∀ j ∈ r.jobs, j.stepTag ≠ tag) ∧ ∀ j ∈ r.spots, j.stepTag ≠ tag) ∧
      ∀ l ∈ (s.failStep tag status).rd.lines, l.stepTag ≠ tag)

/-- 14 R469, R470, R472, 10 R334; log entry 39 for the epochs and for what is kept, 33 and 34 for the notices. A transient detected at the epoch of
an open step: at epoch 0 the other modules of its job are told, the record 0x0205 names the step and the step runs again at epoch 1, with nothing of
its tokens kept, unless a notice that no port takes has aborted it; at epoch 1 the module drains with cause 1 into P1 Hold, which it enters once
every fire in flight has reached its t19 (02 R52), and logs the drain. A transient that names another epoch than the step's changes nothing (the
model's reading, log entry 39). -/
def Obligations.AStepIsReplayedOnceThenTheModuleDrains : Prop :=
  (∀ (s : State) (tag epoch code source loc : Nat) (o : OpenStep), s.liveStep tag = some o → o.epoch ≠ epoch → s.transient tag epoch code source loc = s) ∧
  (∀ (s : State) (tag code source loc : Nat) (o : OpenStep), s.liveStep tag = some o → o.epoch = 0 →
    (o.cmd.job = 0 → s.replayNotices o = s) ∧
    ((s.replayNotices o).liveStep tag = none → s.transient tag 0 code source loc = s.replayNotices o) ∧
    ((s.replayNotices o).liveStep tag ≠ none →
      ∃ (u : State) (r : Record), s.transient tag 0 code source loc = u.rerun tag 1 ∧ u.ev.held.getLast? = some r ∧ r.code = 0x0205 ∧
        r.detail = [o.tag + 65536, o.cmd.stepNumber % 2 ^ 32, o.cmd.stepNumber / 2 ^ 32, o.cmd.job, code] ∧
        u = { s.replayNotices o with ev := u.ev })) ∧
  (∀ (s : State) (tag epoch : Nat) (o : OpenStep), s.stepOf tag = some o →
    ∃ (u : State) (l : List Nat) (o1 : OpenStep), s.rerun tag epoch = l.foldl (fun st i => st.startEntry tag i) u ∧ u.stepOf tag = some o1 ∧
      o1.epoch = epoch ∧ o1.tokens = [] ∧ o1.cmd = o.cmd) ∧
  (∀ (s : State) (tag code source loc : Nat) (o : OpenStep), s.liveStep tag = some o → o.epoch = 1 → s.isDrained = false →
    let t := s.transient tag 1 code source loc
    ∃ e, t.bt = { s.bt with drained := some 1, drainLog := rotate 1024 (s.bt.drainLog ++ [e]) } ∧ e.cause = 1 ∧ e.code = code ∧
      e.source = source ∧ e.loc = loc ∧ t.holdsP1 .drained)

/-- 13 R431. An address inside a block that names no register reads 0 in a register read, a REGREAD and an I3C read; a write of it changes no
register, and nothing at all on the firmware path and over I3C; it is not in the configuration set that the seal scans. An address outside
every block changes nothing on the host path either, gets status 10 in a REGREAD or REGWRITE unless it lies in the emulated window, and over I3C
reads 0. -/
def Obligations.AddressesThatNameNoRegisterReadZero : Prop :=
  (∀ (s : State) (a : Nat), regInfo a = none → s.readReg a = 0 ∧ inConfigSet a = false ∧ a ∉ configSet ∧
    ∀ v : Word, exec (.registerWrite .firmware a v) s = .next s ∧ exec (.registerWrite .i3c a v) s = .next s ∧
      (∃ t, exec (.registerWrite .host a v) s = .next t ∧ (∀ b, t.stored b = s.stored b) ∧ t = { s with rg := t.rg }) ∧
      (physical a = false → exec (.registerWrite .host a v) s = .next s)) ∧
  (∀ (s : State) (h : FrameHdr) (p : Bytes), s.takes h 0 17 true (p.length == 12 && 1 ≤ fld p 8 4 && fld p 8 4 ≤ 16384) = true →
    physical (fld p 0 8) = false → emulated (fld p 0 8) = false → ∃ t, exec (.regread h p) s = .next t ∧ t.answered h 10 (natLe 8 0)) ∧
  (∀ (s : State) (h : FrameHdr) (p : Bytes), s.takes h 0 16 true (12 ≤ p.length && p.length % 4 == 0) = true →
    physical (fld p 0 8) = false → emulated (fld p 0 8) = false → ∃ t, exec (.regwrite h p) s = .next t ∧ t.answered h 10 (natLe 8 0) ∧ t.rg = (s.heard h 0).rg) ∧
  (∀ s : State, s.pw.supplied = true → regInfo s.i3.pointer = none →
    ∃ t, exec (.i3cPrivateRead 1) s = .next t ∧ t.i3.out = s.i3.out ++ [0, 0, 0, 0])

/-- 13 R458, R436. The read-only part of MIRROR_STAT (address 0x80), beside its stored reserved bits, has bit 4 at 1 exactly while the H core clock
is stopped. While it is 1, an I3C read of a register of a block that is not in the always-on island returns four bytes 0xFF. -/
def Obligations.StoppedHCoreRegistersReadAllOnes : Prop :=
  (∀ s : State, s.readReg 0x80 = s.stored 0x80 + s.mirrorStat) ∧ (∀ s : State, bits s.mirrorStat 4 1 = 1 ↔ s.hcoreRuns = false) ∧
  (∀ s : State, s.pw.supplied = true → bits s.mirrorStat 4 1 = 1 → regInfo s.i3.pointer ≠ none →
    alwaysOn s.i3.pointer = false → ∃ t, exec (.i3cPrivateRead 1) s = .next t ∧ t.i3.out = s.i3.out ++ [255, 255, 255, 255])

/-- 13 R444. Raising a record adds it as the newest with the next number, the time and its source; the number after 2^32 - 1 is 1, so none is 0. With 32
records held the oldest is dropped and the count of lost records rises by one; with fewer all are kept. Nothing else of the
state changes. -/
def Obligations.RecordsAreNumberedAndTheOldestGivesWay : Prop :=
  (∀ (s : State) (code source : Nat) (detail : List Nat),
    let t := s.raise code source detail
    t = { s with ev := t.ev } ∧ t.ev.held.getLast? = some ⟨code, source, s.ev.next, s.time, detail⟩ ∧
      t.ev.next = (if s.ev.next = 2 ^ 32 - 1 then 1 else s.ev.next + 1) ∧
      (s.ev.held.length < 32 → t.ev.held.dropLast = s.ev.held ∧ t.ev.lost = s.ev.lost) ∧
      (s.ev.held.length = 32 → t.ev.held.dropLast = s.ev.held.tail ∧ t.ev.lost = s.ev.lost + 1)) ∧
  (∀ n, recordNumber n → recordNumber (nextSeq n))

/-- 12 R418, R419, R423, 15 R509, 16 R528, R536, R537, R544. When the boot chain can choose a record and an image (State.bootsTo): applying
48 V with RESET_N high, a RESET_N pulse, and 10 ms of input after a power-fail stop each leave firmware running from that image under that
record, the straps as sampled (at POWER_APPLIED where RESET_N is high: log entry 37), no pin driven by the boundary register (R534), the step
counter INVALID and no serving state. Power removed keeps flash alone. Arrays ready, once what log entry 37 takes for it holds (State.arraysAre),
marks the milestone, confirms a trial image and binds the arrays that wait for it (R539), and changes nothing else. -/
def Obligations.PowerAndResetStartTheModule : Prop :=
  (∀ (s : State) (v : Nat) (c a0 a1 : Bool) (r : ConfigRecord) (i : Image), s.pw.supplied = false → 38000 ≤ v → s.bootsTo r i →
    ∃ t, exec (.powerApplied v true c a0 a1) s = .next t ∧ t.pw.supplied = true ∧ t.pw.vinMv = v ∧ t.bt.run = .running ∧
      t.bt.record = some r ∧ t.bt.image = some i ∧ t.pw.duty = r.slotDuty ∧ t.bt.compat = c ∧ t.bt.addr0 = a0 ∧ t.bt.addr1 = a1 ∧
      t.tm.valid = false ∧ t.sv = Serving.reset) ∧
  (∀ (s : State) (c a0 a1 : Bool) (r : ConfigRecord) (i : Image), s.pw.supplied = true → s.pw.stop = none → s.bootsTo r i →
    ∃ t, exec (.resetN c a0 a1) s = .next t ∧ t.bt.run = .running ∧ t.bt.record = some r ∧ t.bt.image = some i ∧
      t.bt.compat = c ∧ t.bt.addr0 = a0 ∧ t.bt.addr1 = a1 ∧ t.tp.drive = .functional ∧ t.tm.valid = false ∧ t.sv = Serving.reset) ∧
  (∀ (s : State) (r : ConfigRecord) (i : Image), s.pw.supplied = true → s.pw.stop = some .under → s.bt.resetPin = true →
    s.bootsTo r i → ∃ t, exec .powerFailRecovery s = .next t ∧ t.pw.stop = none ∧ t.bt.run = .running ∧ t.bt.record = some r ∧
      t.bt.image = some i ∧ t.bt.sysclk = true) ∧
  (∀ s : State, s.pw.supplied = true →
    ∃ t, exec .powerRemoved s = .next t ∧ t.pw.supplied = false ∧ t.sv = Serving.reset ∧ t.kv = Kv.reset ∧ t.tp = Tap.reset ∧
      t.bt.images = s.bt.images ∧ t.bt.records = s.bt.records ∧ t.bt.drainLog = s.bt.drainLog) ∧
  (∀ s : State, s.arraysAre = true →
    ∃ t, exec .arraysReady s = .next t ∧ t.bt.arraysReady = true ∧
      (s.bt.trialBoot = true → s.bt.control.trial = s.bt.slot + 1 →
        t.bt.control = { s.bt.control with active := s.bt.slot, trial := 0, lastUpdate := 1 }) ∧
      (s.bt.trialBoot = false → t.bt.control = s.bt.control) ∧
      t = { s with bt := { s.bt with arraysReady := true, control := t.bt.control }, wt := t.wt, tl := t.tl } ∧
      t = s.toBind.foldl State.bindArray { s with bt := t.bt })

/-- 15 R488, R509, 16 R526. An input below 38.0 V for 5 us, above 61.0 V for 1 us, and the loss of SYSCLK, each stop a supplied module
that is not stopped: the cause, the entry of the stop log with its time and input, an INVALID step counter, no open step, nothing in HBM
and nothing of the volatile store. That the loss of SYSCLK is logged with cause 2 is the model's reading (log entry 37). -/
def Obligations.StopLeavesTheIslandAlone : Prop :=
  (∀ (s : State) (v : Nat), s.pw.supplied = true → s.pw.stop = none → v < 38000 →
    ∃ t, exec (.powerFailStop false v) s = .next t ∧ t.pw.stop = some .under ∧ t.pw.vinMv = v ∧ t.pw.supplied = true ∧
      t.bt.stopLog.getLast? = some ⟨s.time, 2, 0, 0, v⟩ ∧ t.tm.valid = false ∧ t.sv = Serving.reset ∧ t.kv = Kv.reset ∧
      t.wt.masters = [] ∧ t.bt.hbmReady = false) ∧
  (∀ (s : State) (v : Nat), s.pw.supplied = true → s.pw.stop = none → 61000 < v →
    ∃ t, exec (.powerFailStop true v) s = .next t ∧ t.pw.stop = some .overvolt ∧ t.pw.vinMv = v ∧ t.pw.supplied = true ∧
      t.bt.stopLog.getLast? = some ⟨s.time, 3, 0, 0, v⟩ ∧ t.tm.valid = false ∧ t.sv = Serving.reset ∧ t.kv = Kv.reset ∧
      t.wt.masters = [] ∧ t.bt.hbmReady = false) ∧
  (∀ s : State, s.pw.supplied = true → s.pw.stop = none →
    ∃ t, exec .sysclkLoss s = .next t ∧ t.pw.stop = some .sysclk ∧ t.bt.sysclk = false ∧ t.pw.supplied = true ∧
      t.bt.stopLog.getLast? = some ⟨s.time, 2, 0, 0, s.pw.vinMv⟩ ∧ t.tm.valid = false ∧ t.sv = Serving.reset ∧ t.kv = Kv.reset ∧
      t.wt.masters = [] ∧ t.bt.hbmReady = false)

/-- 12 R401, R402, R427, 14 R474, R476, R477. A core's watchdog write records the tick. Without one, after a crash, and after a lockstep
mismatch the cores halt, a dump is written into the slot that R427 chooses with the cause and the core of Table 12.11, the drain log takes an entry
with the cause, the module is drained and it stands in P1 Hold, or enters it once every fire in flight has reached its t19 (02 R52). That a lockstep
mismatch dumps with cause 5 and no core, and which slot takes a dump, are the model's reading (log entries 38, 31). -/
def Obligations.FirmwareFaultsDrainTheModule : Prop :=
  (∀ (s : State) (core : Nat), s.firmwareRuns = true →
    exec (.watchdogWrite core) s =
      .next { s with bt := { s.bt with watchdogs := modAt s.bt.watchdogs core fun _ => s.tm.tick } }) ∧
  (∀ (s : State) (core : Nat), s.firmwareRuns = true → core < 4 → s.isDrained = false →
    ∃ t d e, exec (.watchdogExpiry core) s = .next t ∧ t.bt.run = .halted ∧ t.bt.halted = true ∧ t.bt.drained = some 8 ∧
      t.bt.drainLog = rotate 1024 (s.bt.drainLog ++ [e]) ∧ e.cause = 8 ∧ e.code = 0x0208 ∧ t.holdsP1 .drained ∧
      t.bt.dumps = modAt s.bt.dumps s.dumpSlot (fun _ => some d) ∧ d.cause = 2 ∧ d.core = core ∧ d.unread = true) ∧
  (∀ (s : State) (c : CrashCause) (core : Nat), s.firmwareRuns = true → core < 4 → s.isDrained = false →
    ∃ t d e, exec (.firmwareCrash c core) s = .next t ∧ t.bt.run = .halted ∧ t.bt.halted = true ∧ t.bt.drained = some 8 ∧
      t.bt.drainLog = rotate 1024 (s.bt.drainLog ++ [e]) ∧ e.cause = 8 ∧ t.holdsP1 .drained ∧
      t.bt.dumps = modAt s.bt.dumps s.dumpSlot (fun _ => some d) ∧ d.cause = (if c = .trap then 1 else 3) ∧ d.core = core ∧
      d.unread = true) ∧
  (∀ s : State, s.hcoreRuns = true → s.isDrained = false →
    ∃ t d e, exec .lockstepMismatch s = .next t ∧ t.bt.halted = true ∧ t.bt.drained = some 7 ∧
      t.bt.drainLog = rotate 1024 (s.bt.drainLog ++ [e]) ∧ e.cause = 7 ∧ e.code = 0x0207 ∧
      t.holdsP1 .drained ∧ t.bt.dumps = modAt s.bt.dumps s.dumpSlot (fun _ => some d) ∧ d.cause = 5 ∧ d.core = 255 ∧
      d.unread = true)

/-- 00 R7, 13 R432, R434, R435. A configuration register takes a write on the firmware path while firmware runs, and on the host path while firmware
runs and a lease is live; a host write stands between an opening and a commit of the seal. A field that is not RW or RWP takes nothing from a write;
an RWP bit is as written, and so is an RW bit but for the fields with limits, which take the nearest value within them (a converter's REF its old
one for 3); a read gives the stored bits beside the module's own fields. Every other register keeps its stored bits, and everything else of the
state is as it was but the Survey ADCs, for a write of one of theirs, the intake timers, for INTAKE_CTL, and a pending trace, for CAL_CTL. Over I3C
nothing outside letterboxes 14 and 15, EVR_NEWEST, DL_CTL and DL_WIN can be written, and an address that names no register ignores a write.
INTAKE_CTL restarts every stale timer when it changes; DL_WIN takes its 32 bits on any path, and nothing else changes. -/
def Obligations.RegisterWritesGoByTheirPath : Prop :=
  (∀ (s : State) (a : Nat) (v : Word), inConfigSet a = true → s.firmwareRuns = true →
    ∃ t, exec (.registerWrite .firmware a v) s = .next t ∧ t.stored a = writtenValue a (s.stored a) v.toNat ∧
      t.readReg a = t.stored a + t.roValue a ∧ (∀ b, b ≠ a → t.stored b = s.stored b) ∧ (a ≠ 0x6000 → t.dp = s.dp) ∧
      (a < 0x10000 ∨ 0x15000 ≤ a → t.adcs = s.adcs) ∧ (a ≠ 0x21000 → t.cl = s.cl) ∧
      t = { s with rg := { s.rg with stored := t.rg.stored }, adcs := t.adcs, dp := t.dp, cl := { s.cl with pendingTrace := t.cl.pendingTrace } }) ∧
  (∀ (s : State) (a : Nat) (v : Word), inConfigSet a = true → s.firmwareRuns = true → s.leaseLive = true →
    ∃ t, exec (.registerWrite .host a v) s = .next t ∧ t.stored a = writtenValue a (s.stored a) v.toNat ∧
      (∀ b, b ≠ a → t.stored b = s.stored b) ∧ (a ≠ 0x6000 → t.dp = s.dp) ∧
      (a < 0x10000 ∨ 0x15000 ≤ a → t.adcs = s.adcs) ∧ (a ≠ 0x21000 → t.cl = s.cl) ∧
      t = { s with rg := { s.rg with stored := t.rg.stored, sealed := s.hostSeal }, adcs := t.adcs, dp := t.dp,
                   cl := { s.cl with pendingTrace := t.cl.pendingTrace } }) ∧
  (∀ (a : Nat) (i : RegInfo) (old v k : Nat), regInfo a = some i →
    (bit (i.rw + i.rwp) k = false → bit (writtenValue a old v) k = false) ∧
    (bit i.rwp k = true → bit (writtenValue a old v) k = bit v k) ∧
    (bit i.rw k = true → limitedBit a k = false → bit (writtenValue a old v) k = bit v k)) ∧
  (∀ old v : Nat,
    bits (writtenValue 0x4004 old v) 0 14 = (if bits v 0 14 = 0 then 0 else min 10000 (max 10 (bits v 0 14))) ∧
    bits (writtenValue 0x4018 old v) 0 16 = min 31250 (max 4000 (bits v 0 16)) ∧
    bits (writtenValue 0x5020 old v) 0 12 = min 0x9F0 (max 0x860 (bits v 0 12)) ∧
    bits (writtenValue 0x5020 old v) 12 9 = min 256 (max 8 (bits v 12 9)) ∧
    bits (writtenValue 0x6000 old v) 0 9 = min 256 (bits v 0 9) ∧
    bits (writtenValue 0x6000 old v) 16 14 = min 10000 (max 1 (bits v 16 14)) ∧
    (∀ n, n < 5 → bits (writtenValue (adcBase n) old v) 1 2 = if bits v 1 2 = 3 then bits old 1 2 else bits v 1 2) ∧
    ∀ n k, n < 5 → k < 17 → bits (writtenValue (adcBase n + if k = 16 then 0xC0 else 0x40 + 4 * k) old v) 8 9 = min 256 (max 2 (bits v 8 9))) ∧
  (∀ (s : State) (a : Nat) (v : Word), ¬ (0x1700 ≤ a ∧ a < 0x1800) → a ≠ 0x2000 → a ≠ 0x30010 → a ≠ 0x30020 →
    exec (.registerWrite .i3c a v) s = .next s) ∧
  (∀ (s : State) (a : Nat) (v : Word), regInfo a = none → exec (.registerWrite .firmware a v) s = .next s) ∧
  (∀ (s : State) (v : Word), s.firmwareRuns = true →
    ∃ t, exec (.intakeCtlWrite .firmware v) s = .next t ∧ t.stored 0x6000 = writtenValue 0x6000 (s.stored 0x6000) v.toNat ∧
      (t.stored 0x6000 ≠ s.stored 0x6000 → ∀ d ∈ t.dp.ports, d.intake0.lastRead = s.stamp ∧ d.intake1.lastRead = s.stamp ∧
        d.intake0.signalled = false ∧ d.intake1.signalled = false) ∧
      (t.stored 0x6000 = s.stored 0x6000 → t.dp = s.dp)) ∧
  (∀ (s : State) (p : Path) (v : Word), (p = .i3c → s.pw.supplied = true) → (p ≠ .i3c → s.pathOpen p) →
    ∃ t, exec (.dlWinWrite p v) s = .next t ∧ t.stored 0x30020 = v.toNat ∧ (∀ b, b ≠ 0x30020 → t.stored b = s.stored b) ∧
      t = { s with rg := { s.rg with stored := t.rg.stored, sealed := if p = .host then s.hostSeal else s.rg.sealed } })

/-- 11 R391, R362. A REGWRITE or REGREAD any word of which is not mapped gets status 10 and changes nothing. A REGREAD of physical registers
answers with a DATA frame holding the words that a read of the register file gives, and a REGWRITE of physical registers is the writes of the host
path in order, then status 0. A frame of a type that no host sends on its channel gets status 3 once its version and length are right, and a
COMMAND frame CODE 0xFFFF with it (R382). DATA from a host on channel 0 is checked and has no effect but its RESPONSE (log entry 61). -/
def Obligations.HostRegisterFramesAnswer : Prop :=
  (∀ (s : State) (h : FrameHdr) (p : Bytes), s.takes h 0 16 true (12 ≤ p.length && p.length % 4 == 0) = true →
    let u := s.heard h 0
    let n := (p.length - 8) / 4
    let as := (List.range n).map fun i => fld p 0 8 + 4 * i
    ∃ t, exec (.regwrite h p) s = .next t ∧
      ((∃ a ∈ as, u.mapped a = false) → t.answered h 10 (natLe 8 0) ∧ t = { u with dp := { u.dp with tx := t.dp.tx, ports := t.dp.ports } }) ∧
      ((∀ a ∈ as, physical a = true) → t.answered h 0 (natLe 8 0) ∧
        t = State.respond (u.hostWrites (as.zip ((List.range n).map fun i => fld p (8 + 4 * i) 4))) h 0 0)) ∧
  (∀ (s : State) (h : FrameHdr) (p : Bytes), s.takes h 0 17 true (p.length == 12 && 1 ≤ fld p 8 4 && fld p 8 4 ≤ 16384) = true →
    let u := s.heard h 0
    let as := (List.range (fld p 8 4)).map fun i => fld p 0 8 + 4 * i
    ∃ t, exec (.regread h p) s = .next t ∧ t = { u with dp := { u.dp with tx := t.dp.tx, ports := t.dp.ports } } ∧
      ((∃ a ∈ as, u.mapped a = false) → t.answered h 10 (natLe 8 0)) ∧
      ((∀ a ∈ as, physical a = true) → ∃ f, t.dp.tx = u.dp.tx ++ [f] ∧ f.type = 12 ∧ f.port = h.port ∧ f.seq = h.seq ∧
        f.payload = as.flatMap fun a => natLe 4 (u.readReg a))) ∧
  (∀ (s : State) (h : FrameHdr) (p : Bytes), s.takes h 0 12 true true = true →
    exec (.reservedFrameType h 12 0 p) s = .next ((s.heard h 0).ack h)) ∧
  (∀ (s : State) (h : FrameHdr) (type chan : Nat) (p : Bytes), type ∉ hostTypes chan → chan ≤ 1 → ¬ (type = 12 ∧ chan = 0) →
    s.portHears h.port = true →
    let u := s.frameArrives (chan == 0)
    u.firmwareRuns = true → u.versionOk h 0 = true → h.length ≤ 65536 →
    ∃ t, exec (.reservedFrameType h type chan p) s = .next t ∧ t.answered h 3 (if type = 9 then natLe 2 0xFFFF ++ natLe 6 0 else natLe 8 0) ∧
      t = { u with dp := { u.dp with tx := t.dp.tx, ports := t.dp.ports } })

/-- 16 R529, R534, R535, Table 16.7. What the cells capture: the levels at the pins, in cell 192 that of RESET_N, and in cells 201 and 202 whether
the module drives ALERT_N low (event records that pend in P0 Run or P1 Hold, throttling, a trip) and TRIP_N low (a trip); that the output enables
show this is the model's reading of log entry 51. With 48 V on: while RESET_N is low the three EXTEST forms capture the cells, load the 204 cells
and drive them (steadily, as a pulse, as a train), CLAMP drives the cells with the bypass register selected, HIGHZ floats the pins; while it is high
all five act as BYPASS. SAMPLE/PRELOAD captures and loads and leaves the pins to the module. IDCODE, BYPASS and every opcode outside the table
select the bypass register. TRST_N low holds Test-Logic-Reset (the instruction register then reads 0xFF, the model's choice, log entry 42). Each
answer is a full equality of states: nothing but the port changes. -/
def Obligations.TapInstructionsActAsTheTableSays : Prop :=
  (∀ (l : List Bool), (cellsOf l).length = 204 ∧ ∀ i < 204, at' (cellsOf l) i false = at' l i false) ∧
  (∀ (s : State) (pins : List Bool), s.pw.supplied = true →
    let low : Bool := ((s.pw.state == .p0 || s.pw.state == .p1) && decide (s.ev.held ≠ [])) || decide (s.pw.k ≠ 0) || s.th.trip
    (s.captures pins).length = 204 ∧ at' (s.captures pins) 201 false = low ∧ at' (s.captures pins) 202 false = s.th.trip ∧
    at' (s.captures pins) 192 false = s.bt.resetPin ∧ ∀ i < 204, i ≠ 192 → i ≠ 201 → i ≠ 202 → at' (s.captures pins) i false = at' pins i false) ∧
  (∀ (s : State) (pins shifted : List Bool), s.pw.supplied = true → s.bt.resetPin = false →
    let scan (ir : Nat) (d : PinDrive) : State :=
      { s with tp := { ir := ir, resetHeld := false, cells := cellsOf shifted, captured := s.captures pins, bypassed := false, drive := d } }
    exec (.extest pins shifted) s = .next (scan 0x00 .cells) ∧
    exec (.extestPulse pins shifted) s = .next (scan 0x09 .pulse) ∧
    exec (.extestTrain pins shifted) s = .next (scan 0x0A .train) ∧
    exec .clamp s = .next { s with tp := { s.tp with ir := 0x04, resetHeld := false, bypassed := true, drive := .cells } } ∧
    exec .highz s = .next { s with tp := { s.tp with ir := 0x05, resetHeld := false, bypassed := true, drive := .highz } }) ∧
  (∀ (s : State) (pins shifted : List Bool), s.pw.supplied = true → s.bt.resetPin = true →
    let pass (ir : Nat) : State := { s with tp := { s.tp with ir := ir, resetHeld := false, bypassed := true, drive := .functional } }
    exec (.extest pins shifted) s = .next (pass 0x00) ∧ exec (.extestPulse pins shifted) s = .next (pass 0x09) ∧
    exec (.extestTrain pins shifted) s = .next (pass 0x0A) ∧ exec .clamp s = .next (pass 0x04) ∧ exec .highz s = .next (pass 0x05)) ∧
  (∀ (s : State) (pins shifted : List Bool), s.pw.supplied = true →
    exec (.samplePreload pins shifted) s = .next { s with tp :=
      { ir := 0x02, resetHeld := false, cells := cellsOf shifted, captured := s.captures pins, bypassed := false, drive := .functional } } ∧
    exec .idcode s = .next { s with tp := { s.tp with ir := 0x01, resetHeld := false, bypassed := true, drive := .functional } } ∧
    exec .trstN s = .next { s with tp := { s.tp with ir := 0xFF, resetHeld := true, bypassed := true, drive := .functional } }) ∧
  (∀ (s : State) (op : Nat), s.pw.supplied = true → op < 256 → op ∉ [0x00, 0x01, 0x02, 0x04, 0x05, 0x09, 0x0A] →
    exec (.bypass op) s = .next { s with tp := { s.tp with ir := op, resetHeld := false, bypassed := true, drive := .functional } })

/-- 16 R532, R533. With 48 V on: ENTDAA or SETDASA gives the target its dynamic address; it answers a private transfer at that, else at the static
address of its straps. A private write of address bytes alone sets the pointer; one with n whole groups of four bytes writes each on the I3C path at
the pointer, which advances by 4 each time, and up to three trailing bytes are discarded; a restart that a group brings resets the pointer, and the
groups after it go nowhere (log entry 42). A private read of n + 1 registers returns what one of n returns and then four more bytes, least
significant first, from the register then at the pointer, and advances the pointer. -/
def Obligations.I3cTransfersMoveThePointer : Prop :=
  ∀ s : State, s.pw.supplied = true →
    let at0 : Nat := s.i3.dynamic.getD (0x3C + 2 * b2n s.bt.addr1 + b2n s.bt.addr0)
    (∀ addr : Nat, exec (.i3cDynamicAddress addr) s = .next { s with i3 := { s.i3 with dynamic := some addr } }) ∧
    (∀ a : Bytes, a.length = 4 →
      exec (.i3cPrivateWrite a) s = .next { s with i3 := { s.i3 with pointer := leNat a, answered := at0 } } ∧
      (∀ rest : Bytes, rest.length < 4 → exec (.i3cPrivateWrite (a ++ rest)) s = exec (.i3cPrivateWrite a) s) ∧
      (∀ (t : State) (body g rest : Bytes), body.length % 4 = 0 → g.length = 4 → rest.length < 4 →
        exec (.i3cPrivateWrite (a ++ body)) s = .next t →
        exec (.i3cPrivateWrite (a ++ body ++ g ++ rest)) s =
          .next (if t.i3.pointer = (leNat a + body.length) % 2 ^ 32 then
            (t.modI3c fun q => { q with pointer := (q.pointer + 4) % 2 ^ 32 }).pathWrite .i3c t.i3.pointer (leNat g) else t))) ∧
    exec (.i3cPrivateRead 0) s = .next { s with i3 := { s.i3 with answered := at0 } } ∧
    (∀ (n : Nat) (t : State), exec (.i3cPrivateRead n) s = .next t →
      let v : Nat := if (regInfo t.i3.pointer).isNone then 0
        else if alwaysOn t.i3.pointer || t.hcoreRuns then t.readReg t.i3.pointer else 0xFFFFFFFF
      exec (.i3cPrivateRead (n + 1)) s =
        .next { t with i3 := { t.i3 with pointer := (t.i3.pointer + 4) % 2 ^ 32, out := t.i3.out ++ natLe 4 v } })

/-- 13 R439, R440, R442. A write of LB_SEL on a path that owns letterbox n (0 to 11 the host, with a live lease and the seal's opening and commit
around it; 12 and 13 firmware; 14 and 15 I3C): VALID, ERROR and STALE clear and the selection is kept; KIND 0 selects nothing, an accepted selection
waits for its snapshot with the LB_ADDR in force, a refused one sets ERROR and empties the data registers. When the snapshot completes, while the H
core clock runs, the data registers hold the registers' values of that moment, VALID sets and SEQ counts by one modulo 65,536. Nothing outside the
letterboxes changes, and no other letterbox. -/
def Obligations.LetterboxesTakeOneMoment : Prop :=
  (∀ (s : State) (p : Path) (n : Nat) (v : Word), n < s.rg.boxes.length → n < 16 → ownsBox p n = true →
    s.hcoreRuns = true → s.pathOpen p →
    let b := s.box n
    let kept : Letterbox := { b with sel := v, latched := b.addr.toNat, valid := false, error := false, stale := false, busy := false }
    ∃ t, exec (.lbSelWrite p n v) s = .next t ∧
      t = { s with rg := { s.rg with boxes := t.rg.boxes, sealed := if p = .host then s.hostSeal else s.rg.sealed } } ∧
      (∀ m, m ≠ n → t.box m = s.box m) ∧ (bits v.toNat 0 8 = 0 → t.box n = kept) ∧
      (bits v.toNat 0 8 ≠ 0 → s.boxRefused v.toNat b.addr.toNat = false → t.box n = { kept with busy := true }) ∧
      (bits v.toNat 0 8 ≠ 0 → s.boxRefused v.toNat b.addr.toNat = true → t.box n = { kept with error := true, data := [] })) ∧
  (∀ (s : State) (n : Nat), s.hcoreRuns = true → (s.box n).busy = true →
    ∃ t, exec (.letterboxSnapshotDone n) s = .next t ∧ t = { s with rg := { s.rg with boxes := t.rg.boxes } } ∧
      (∀ m, m ≠ n → t.box m = s.box m) ∧
      t.box n = { s.box n with
        data := (s.boxWords (s.box n).sel.toNat (s.box n).latched).1.map (BitVec.ofNat 32)
        stale := (s.boxWords (s.box n).sel.toNat (s.box n).latched).2
        valid := true
        seq := ((s.box n).seq + 1) % 65536
        busy := false }) ∧
  (∀ (s : State) (count addr : Nat), 0 < count → count ≤ 16 →
    (s.boxWords (1 + 256 * count) addr).1 = (List.range count).map fun i => s.readReg (addr + 4 * i))

/-- 13 R435, R449-R451. Firmware's write of OPEN suspends comparisons, abandons a pending commit and changes nothing else (a seal that is open has
been so since its first OPEN); its write of COMMIT closes the seal and leaves a reference scan pending; a host's write to SEAL_CTL leaves no mark
but its frame's own opening and commit. A scan of unchanged registers, while the H core clock runs, is the last result and counts; it is the new
reference when a commit is pending; with the seal closed and a different reference it raises one mismatch record, counts a fault and drains the
module (cause 9); with the same reference, or with none, or while open, it changes nothing more. Open for 10 ms, the seal closes with its reference
as it was and a record is raised. -/
def Obligations.SealOpensCommitsAndCompares : Prop :=
  (∀ (s : State), s.firmwareRuns = true →
    exec (.sealOpen .firmware 1) s =
      .next ((s.store 0x3000 0).modSeal fun q =>
        { q with opened := true, openedAt := if q.opened then q.openedAt else s.tm.tick, pending := false }) ∧
    exec (.sealCommit .firmware 2) s =
      .next ((s.store 0x3000 0).modSeal fun q => { q with opened := false, pending := true, noRef := false }) ∧
    (∀ v, s.leaseLive = true → exec (.sealOpen .host v) s =
      .next (s.modSeal fun q =>
        { q with opened := false, openedAt := if q.opened then q.openedAt else s.tm.tick, pending := true, noRef := false }))) ∧
  (∀ s : State, s.hcoreRuns = true →
    let crc := s.sealCrc
    let scanned : State := s.modSeal fun q => { q with last := crc, scans := q.scans + 1 }
    (s.rg.sealed.pending = true →
      exec (.sealScan []) s = .next (scanned.modSeal fun q => { q with ref := some crc, pending := false })) ∧
    (s.rg.sealed.pending = false → (s.rg.sealed.ref = none ∨ s.rg.sealed.opened = true ∨ s.rg.sealed.ref = some crc) →
      exec (.sealScan []) s = .next scanned) ∧
    (∀ ref, s.rg.sealed.pending = false → s.rg.sealed.opened = false → s.rg.sealed.ref = some ref → ref ≠ crc → s.isDrained = false →
      ∃ t, exec (.sealScan []) s = .next t ∧ t.bt.drained = some 9 ∧ t.holdsP1 .drained ∧
        t = ((scanned.modSeal fun q => { q with faults := q.faults + 1 }).raise 0x0050 4 [ref.toNat, crc.toNat]).drain 9 0x0050 4 0)) ∧
  (∀ s : State, s.hcoreRuns = true → s.rg.sealed.opened = true →
    ∃ t, exec .sealOpenTimeout s = .next t ∧ t.rg = { s.rg with sealed := { s.rg.sealed with opened := false } } ∧
      t.ev.held.getLast? = some ⟨0x0051, 4, s.ev.next, t.time, [t.tm.tick - s.rg.sealed.openedAt]⟩ ∧
      t.tm.tick = max s.tm.tick (s.rg.sealed.openedAt + 2500000) ∧ t.sv = s.sv ∧ t.bt = s.bt)

/-- 12 R428, 13 R434, R455, 07 R209. Over I3C, DL_CTL with bits 0 and 1 marks the dumps of those slots read; bit 2 restarts the module when
the application cores do not run (an image that boots then runs), and only sets REFUSED while they run. Every write clears REFUSED first.
TRACE_NOW in P0 Run leaves a trace pending. -/
def Obligations.DeadLettersAreReadClearedAndRestarted : Prop :=
  (∀ (s : State) (v : Word), s.pw.supplied = true → v.toNat < 4 →
    let read (b : Bool) (d : Option Dump) : Option Dump := if b then d.map fun x => { x with unread := false } else d
    ∃ t, exec (.dlCtlClear .i3c v) s = .next t ∧
      t.bt = { s.bt with refused := false, dumps := modAt (modAt s.bt.dumps 0 (read (bit v.toNat 0))) 1 (read (bit v.toNat 1)) } ∧
      t.pw = s.pw ∧ t.sv = s.sv ∧ t.ev = s.ev) ∧
  (∀ s : State, s.pw.supplied = true → s.bt.run = .running →
    ∃ t, exec (.dlCtlRestart .i3c 4) s = .next t ∧ t.bt = { s.bt with refused := true } ∧ t.sv = s.sv ∧ t.pw = s.pw) ∧
  (∀ (s : State) (r : ConfigRecord) (i : Image), s.pw.supplied = true → s.bt.run ≠ .running → s.pw.stop = none → s.bootsTo r i →
    ∃ t, exec (.dlCtlRestart .i3c 4) s = .next t ∧ t.bt.run = .running ∧ t.bt.record = some r ∧ t.bt.image = some i ∧
      t.bt.refused = false ∧ t.tm.valid = false ∧ t.sv = Serving.reset) ∧
  (∀ s : State, s.firmwareRuns = true → s.inRun = true →
    ∃ t, exec (.traceNow .firmware 0x10) s = .next t ∧ t.cl = { s.cl with pendingTrace := true } ∧ t.sv = s.sv ∧ t.tl = s.tl)

/-- 13 R434, R445. On the firmware path while firmware runs, on the host path while it runs and a lease is live (with the seal's opening and commit
around it), and over I3C while the H core clock runs, whether or not firmware does: when v is the number of a record still held,
every held record from the oldest up to it is cleared and what came after stays; a slot that holds no record reads 0; a write of any
other value changes nothing. -/
def Obligations.EvrNewestClearsUpToTheNumberWritten : Prop :=
  (∀ (s : State) (p : Path) (v : Word), s.pathOpen p →
    let x : State := { s with rg := { s.rg with sealed := if p = .host then s.hostSeal else s.rg.sealed } }
    (∀ (older : List Record) (r : Record) (newer : List Record), s.ev.held = older ++ r :: newer → r.seq = v.toNat →
      (∀ x ∈ older, x.seq ≠ v.toNat) → exec (.evrNewestWrite p v) s = .next { x with ev := { s.ev with held := newer } }) ∧
    ((∀ r ∈ s.ev.held, r.seq ≠ v.toNat) → exec (.evrNewestWrite p v) s = .next x)) ∧
  (∀ (s : State) (slot w : Nat), slot < 32 → w < 16 → (∀ x ∈ s.ev.held, x.seq % 32 ≠ slot) →
    s.eventValue (0x800 + 0x40 * slot + 4 * w) = 0)

/-- 15 R510-R514. By firmware, outside a trace, on an ADC n: START with EN set begins a pass at entry 0 with LEN and the entries as they
stand; STOP marks a running sequence to stop; GO with EN set starts an injected conversion and is ignored with EN 0 or while one runs;
SETTLED sets when the reference of an enabled ADC has settled, 20, 50 or 5 us after it was chosen by its REF (0 to 2); the internal reference is 1.2 V
whatever REFIN and the supply are. A finished injected conversion writes its result and leaves the sequence
at the interrupted entry; a finished conversion of a sequence writes entry's result, and goes to the next entry, or after the last one to
entry 0 of another pass with CONT or to rest without. A result of an unsettled reference touches no comparator; a counted one is seen by
the comparators (State.compare). -/
def Obligations.SurveyConversionsFollowTheSequence : Prop :=
  (∀ (s : State) (n : Nat) (v : Word), n < 5 → n < s.adcs.length → s.firmwareRuns = true → (s.adc n).trace = false →
    let a := adcBase n
    let ctl := writtenValue a (s.stored a) v.toNat
    let moved : Bool := (bit ctl 0 && !bit (s.stored a) 0) || bits ctl 1 2 != bits (s.stored a) 1 2
    let d : Adc := { s.adc n with settled := if moved then false else (s.adc n).settled, since := if moved then s.tm.tick else (s.adc n).since }
    (bit v.toNat 8 = true → bit v.toNat 9 = false → bit ctl 0 = true →
      ∃ t, exec (.sadcStart .firmware n v) s = .next t ∧ t.stored a = ctl ∧
        t.adc n = { d with busy := true, entry := 0, stopping := false, passLen := bits ctl 4 4, passSeq := s.adcSeq n }) ∧
    (bit v.toNat 8 = false → bit v.toNat 9 = true →
      ∃ t, exec (.sadcStop .firmware n v) s = .next t ∧ t.stored a = ctl ∧
        t.adc n = { d with stopping := if d.busy then true else d.stopping })) ∧
  (∀ (s : State) (n : Nat) (v : Word), n < 5 → n < s.adcs.length → s.firmwareRuns = true → (s.adc n).trace = false →
    bit v.toNat 17 = true →
    ∃ t, exec (.sadcGo .firmware n v) s = .next t ∧
      t.adc n = { s.adc n with injBusy := if bit (s.stored (adcBase n)) 0 then true else (s.adc n).injBusy }) ∧
  (∀ (s : State) (n : Nat), s.adcRuns n = true → bit (s.stored (adcBase n)) 0 = true → (s.adc n).trace = false →
    ∃ t, exec (.sadcSettled n) s = .next t ∧ t = { s with tm := t.tm, adcs := modAt s.adcs n fun d => { d with settled := true } } ∧
      (let ref := bits (s.stored (adcBase n)) 1 2
       t.tm.tick = max s.tm.tick ((s.adc n).since + 250 * if ref = 0 then 20 else if ref = 1 then 50 else 5))) ∧
  (∀ (s : State) (n vin vref : Nat), n < 5 → s.adcRuns n = true → bit (s.stored (adcBase n)) 0 = true → (s.adc n).trace = false →
    let d := s.adc n
    let ref : Nat := if bits (s.stored (adcBase n)) 1 2 = 0 then 1200000 else vref
    let put (r : AdcResult) (v : Nat) (q : Bool) : AdcResult := { value := v, settled := q, count := (r.count + 1) % 65536 }
    let done (result : Adc) (source v : Nat) : Prop :=
      ∃ s1 : State, s1 = { s with adcs := s1.adcs } ∧ s1.adc n = result ∧ (∀ m, m ≠ n → s1.adc m = s.adc m) ∧
        exec (.sadcConversionDone n vin vref) s = .next (if d.settled then s1.compare n source v else s1)
    (d.injBusy = true →
      let v := adcValue (s.stored (adcBase n + 0xC0)) vin ref
      done { d with inj := put d.inj v d.settled, injBusy := false } 16 v) ∧
    (d.injBusy = false → d.busy = true → d.stopping = false →
      let v := adcValue (at' d.passSeq d.entry 0).toNat vin ref
      let w : Adc := { d with results := modAt d.results d.entry fun r => put r v d.settled }
      let ctl := s.stored (adcBase n)
      (d.entry ≠ d.passLen → done { w with entry := d.entry + 1 } d.entry v) ∧
      (d.entry = d.passLen → bit ctl 3 = false →
        done { w with passes := (d.passes + 1) % 65536, busy := false, entry := 0 } d.entry v) ∧
      (d.entry = d.passLen → bit ctl 3 = true →
        let again : Adc := { w with passes := (d.passes + 1) % 65536, busy := true, entry := 0, stopping := false }
        done { again with passLen := bits ctl 4 4, passSeq := s.adcSeq n } d.entry v))) ∧
  (∀ e vin vref : Nat, bits e 0 5 < 16 → 0 < vref →
    adcValue e vin vref = min 4095 (roundEven (4096 * 2 ^ bits e 5 2 * vin : Nat) vref).toNat)

/-- 07 R206-R210, 15 R515, 04 R111. A trace that is due in P0 with firmware running sets BUSY, notes its start and takes the five Survey ADCs.
When its readings come, all REFIN within 1 % pass and make its start the reference time; one out of range gives result 2, and one below 0.5 V
result 3, also where others are only out of range (the model's choice, log entry 61: both rows of Table 7.2 apply), each with record 0x000B and the
reference time as it was. The reference is untraced, with record 0x000C, once a day has passed
since its start. A region without a set temperature takes the present one; within 0.25 degC of its set temperature it keeps it. -/
def Obligations.TheReferenceIsTracedHourly : Prop :=
  (∀ (s : State), s.inRun = true → s.firmwareRuns = true → s.cl.pendingTrace = true → s.cl.busy = false →
    s.workStops = false → s.bt.arraysReady = true ∨ s.cl.refTime = none →
    ∃ t, exec .traceTimer s = .next t ∧ t.cl = { s.cl with busy := true, traceBegan := some s.stamp, pendingTrace := false } ∧
      (∀ n, n < 5 → n < s.adcs.length → (t.adc n).trace = true) ∧ t.ev = s.ev) ∧
  (∀ (s : State) (refin ladder vcref : List Nat), s.cl.busy = true →
    ∃ t, exec (.traceDone refin ladder vcref) s = .next t ∧ t.cl.busy = false ∧ t.cl.last = traceResult refin ∧
      t.cl.microvolts = min (at' refin 4 0) 0xFFFFF ∧
      ((∀ v ∈ refin, 990000 ≤ v ∧ v ≤ 1010000) → t.cl.last = 1 ∧ t.cl.refTime = s.cl.traceBegan ∧ t.cl.untraced = false ∧ t.ev = s.ev) ∧
      ((∃ v ∈ refin, v < 500000) → t.cl.last = 3 ∧ t.cl.refTime = s.cl.refTime ∧ ∃ r, t.ev.held.getLast? = some r ∧ r.code = 0x000B) ∧
      ((∀ v ∈ refin, 500000 ≤ v) → (∃ v ∈ refin, v < 990000 ∨ 1010000 < v) → t.cl.last = 2 ∧ t.cl.refTime = s.cl.refTime ∧
        ∃ r, t.ev.held.getLast? = some r ∧ r.code = 0x000B)) ∧
  (∀ (s : State) (n : Nat), s.cl.refTime = some (some n) → s.tm.valid = true → s.cl.untraced = false → s.hcoreRuns = true →
    ∃ t r, exec .referenceUntraced s = .next t ∧ t.cl.untraced = true ∧ t.tm.counter = max s.tm.counter (n + hours24) ∧
      t.ev.held.getLast? = some r ∧ r.code = 0x000C ∧ r.detail = [n % 2 ^ 32, n / 2 ^ 32]) ∧
  (∀ (s : State) (die unit : Nat), s.inRun = true → die < 4 → unit < 64 →
    ((s.region die unit).setTemp = none → ∃ t, exec (.interpolationCheck die unit) s = .next t ∧
      t = s.setRegion { s.region die unit with setTemp := some (s.regionTemp die unit) }) ∧
    (∀ x, (s.region die unit).setTemp = some x → (s.regionTemp die unit - x).natAbs < 4 → exec (.interpolationCheck die unit) s = .next s) ∧
    (∀ x, (s.region die unit).setTemp = some x → 4 ≤ (s.regionTemp die unit - x).natAbs → ∃ t, exec (.interpolationCheck die unit) s = .next t ∧
      (t.region die unit).setTemp = some (s.regionTemp die unit)))

/-- 07 R214, R220, R227-R229, R232. Seven days after a valid calibration its array asks for a run in class 4, and fourteen days after it in class
1, whatever class a waiting request of it had. Once arrays are ready, on a tile that is ready, the first request in order that can run becomes the
run, with no fire done, and leaves the queue; a tile with a request that may run wakes P1 Hold for it (15 R492). A run whose fit is
over range is repeated once from its first fire; a second failure drains the module with cause 6 and record 0x000A; a fit that fails no test is the
successful run's effect. A first-ever calibration with every region in the programming window whose trace passes leaves FIELD set for every tile
that had none, with the reference traced at its start and the traced trims in force, with no record but the wear warnings of the arrays that it
brings to 28,000 cycles, and a run of it that failed with its repeat drains the module with cause 6; one whose REFIN readings are out of range
records code 0x000B and writes nothing. -/
def Obligations.CalibrationIsRequestedRunAndJudged : Prop :=
  (∀ (s : State) (a : ArrId) (c : Nat), s.firmwareRuns = true → s.enabled a.tid = true → a.arr ≤ 16 → s.tm.valid = true →
    (s.franking a).valid = true → (s.franking a).calTime = some c → a.arr = 16 ∨ s.holdsRecord a = true →
    (∃ t, exec (.calibrationAgeTimer a) s = .next t ∧ t.tm.counter = max s.tm.counter (c + days7) ∧
      t.tile a.tid = { (s.tile a.tid).putRequest ⟨a.arr, 4, some t.tm.counter, false, false⟩ with id := a.tid } ∧ ∀ u, u ≠ a.tid → t.tile u = s.tile u) ∧
    (∃ t, exec (.calibrationExpiry a) s = .next t ∧ t.tm.counter = max s.tm.counter (c + days14) ∧
      t.tile a.tid = (let y := (s.tile a.tid).putRequest ⟨a.arr, 1, some t.tm.counter, false, false⟩
        { y with id := a.tid, calQueue := y.calQueue.map fun r => if r.arr = a.arr then { r with cls := 1 } else r }) ∧ ∀ u, u ≠ a.tid → t.tile u = s.tile u)) ∧
  (∀ (s : State) (id : TileId) (r : CalRequest), s.inRun = true → s.enabled id = true → s.isDrained = false → s.runWindow id = true →
    s.traced = true → s.bt.arraysReady = true → s.workStops = false →
    let u := ((s.dropStaleClaim id).claimForRun id).queueCalRecords id
    (u.requests id).find? (u.requestReady id) = some r → (u.tile id).run = none →
    ∃ t, exec (.calibrationRunStart id) s = .next t ∧
      t.tile id = { u.tile id with id := id, calQueue := (u.tile id).calQueue.filter (fun q => q.arr != r.arr), run := some (CalRun.mk r.arr (u.covers id r) r.cls r.since 0 0 none false) }) ∧
  (∀ (s : State) (id : TileId), s.pw.state = .p1 → s.runsMayBegin id = true → (s.tile id).calQueue ≠ [] → (s.wakeP1 7).inRun = true →
    exec (.calibrationRunStart id) s = exec (.calibrationRunStart id) (s.wakeP1 7)) ∧
  (∀ (s : State) (id : TileId) (r : CalRun) (rec' : CodeRecord) (raw : List (List Int)), s.inRun = true → (s.tile id).run = some r → r.fires = 320 →
    s.runRecord (id.array r.arr) = some rec' →
    (r.repeated = false → ∃ t, exec (.calibrationFitDone id raw true) s = .next t ∧ (t.tile id).run = some { r with fires := 0, repeated := true } ∧ t.ev = s.ev) ∧
    (r.repeated = true → s.isDrained = false → ∃ t e, exec (.calibrationFitDone id raw true) s = .next t ∧ t.bt.drained = some 6 ∧
      t.holdsP1 .drained ∧ t.bt.drainLog = rotate 1024 (s.bt.drainLog ++ [e]) ∧ e.code = 0x000A) ∧
    (let now := interpolateSet r.temp (s.franking (id.array r.arr)).entries
     let fit := fitRun rec' (s.drift (id.array r.arr)).delta now raw
     let anchor := newAnchor (at' (s.tileRecord id).anchors r.arr neutralAnchor) fit.measured now
     fit.fail = false → (∀ e ∈ buildEntries anchor (s.tileRecord id).shape, anchorInSpan e = true) →
     exec (.calibrationFitDone id raw false) s = .next (s.active.runSucceeds id r anchor (s.tileRecord id).shape))) ∧
  (∀ (s : State) (refin ladder vcref : List Nat) (runs : List (ArrId × List (List Int) × Bool)), s.inRun = true → s.firmwareRuns = true →
    s.lacksField = true → s.isDrained = false → s.tm.valid = true → s.bt.hbmReady = true → s.allProgrammable = true →
    (traceResult refin = 1 → ∃ t, exec (.firstEverCalibration ⟨refin, ladder, vcref⟩ runs) s = .next t ∧ t.cl.storeField = true ∧
      (∀ r ∈ t.cl.store, r.field = true) ∧ t.cl.restored = true ∧ t.wt.calCells = true ∧ t.cl.refTime = some s.stamp ∧ t.cl.last = 1 ∧
      t.cl.trims = tracedTrims s.cl.trims refin ladder vcref ∧
      ((∀ e ∈ s.firstAnchors runs, e.2.isSome = true) → t.pw = s.pw ∧ t.bt = s.bt ∧
        ((∀ e ∈ s.wt.directory, e.2.wear ≠ 27999) → s.wt.wearBase ≠ 27999 → t.ev = s.ev)) ∧
      ((∃ e ∈ s.firstAnchors runs, e.2 = none) → t.bt.drained = some 6 ∧ t.holdsP1 .drained ∧
        ∃ e, t.bt.drainLog = rotate 1024 (s.bt.drainLog ++ [e]) ∧ e.code = 0x000A)) ∧
    (traceResult refin ≠ 1 → ∃ t, exec (.firstEverCalibration ⟨refin, ladder, vcref⟩ runs) s = .next t ∧ t.cl.store = s.cl.store ∧
      t.cl.storeField = s.cl.storeField ∧ t.cl.last = traceResult refin ∧
      ∃ r, t.ev.held.getLast? = some r ∧ r.code = 0x000B))

/-- 15 R502-R509. With the H core clock running: while a trigger is active the step count k rises by 1, up to 14, 100 us after its last change;
while none is it falls by 1, 1 ms after the later of the last trigger and the last change; record 0x0101 marks leaving 0 and 0x0102 the
return. A sample of a sensor that is sampled gives its corrected reading; the sensor is failed while that lies out of range or has not changed for
100 samples with its die running (the hundredth counts: log entry 36), and a sensor that does not trip stops nothing. A calibration run whose region
then lies more than 1 degC from the temperature of its first fire is discarded, to begin again with no fire done (07 R220), and any other goes on. A
sample at or above the trip threshold that follows another of the same sensor, which has not failed, trips the module: it stops, and the stop log
takes the sensor and its reading. -/
def Obligations.ThrottleFollowsItsTriggers : Prop :=
  (∀ s : State, s.hcoreRuns = true → s.th.anyTrig = true → s.pw.k < 14 →
    ∃ t, exec .throttleStepTimer s = .next t ∧ t.pw.k = s.pw.k + 1 ∧ t.tm.tick = max s.tm.tick (s.pw.lastK + 25000) ∧
      t.pw.lastK = t.tm.tick ∧ t.pw.duty = s.pw.duty ∧ t.sv = s.sv ∧
      (s.pw.k = 0 → ∃ d, t.ev.held.getLast? = some ⟨0x0101, 5, s.ev.next, t.time, d⟩)) ∧
  (∀ s : State, s.hcoreRuns = true → s.th.anyTrig = false → 0 < s.pw.k →
    ∃ t, exec .throttleStepTimer s = .next t ∧ t.pw.k = s.pw.k - 1 ∧
      t.tm.tick = max s.tm.tick (max s.pw.lastK s.pw.lastTrigger + 250000) ∧ t.pw.lastK = t.tm.tick ∧ t.sv = s.sv ∧
      (s.pw.k = 1 → ∃ d, t.ev.held.getLast? = some ⟨0x0102, 5, s.ev.next, t.time, d⟩)) ∧
  (∀ (s : State) (i : Nat) (raw : Int), s.sampled i = true →
    let old := (s.sensor i).getD (freshSensor i raw)
    let reading := s.corrected i raw
    let failed : Bool := reading < -640 || 2400 < reading ||
      100 ≤ (if !s.dieRuns i then 0 else if reading = old.reading then old.same + 1 else 1)
    (reading < s.tripAt ∨ old.hot = false ∨ failed = true →
      ∃ t x, exec (.sensorSample [(i, raw)]) s = .next t ∧ t.sensor i = some x ∧ x.reading = reading ∧ x.raw = raw ∧ x.failed = failed ∧
        x.hot = decide (s.tripAt ≤ reading) ∧ t.pw.stop = s.pw.stop ∧ t.sv = s.sv ∧ t.wt = { s.wt with franking := t.wt.franking } ∧
        ((∀ y ∈ s.tl.tiles, y.run = none) → t.wt = s.wt ∧ t.tl = s.tl) ∧
        ∀ id r, (s.tile id).run = some r → (t.tile id).run =
          some (if 0 < r.fires ∧ r.fires < 320 ∧ 16 < (t.tileTemp id - r.temp).natAbs then { r with fires := 0 } else r)) ∧
    (s.tripAt ≤ reading → old.hot = true → failed = false →
      ∃ t, exec (.sensorSample [(i, raw)]) s = .next t ∧ t.pw.stop = some .trip ∧ t.th.trip = true ∧ t.th.tripSensor = i ∧
        t.th.tripReading = reading ∧ t.bt.stopLog.getLast? = some ⟨s.time, 1, i, reading, s.pw.vinMv⟩ ∧ t.sv = Serving.reset))

/-- 15 R487, R490, R491. A 10 us average of more than 1,250 W halves the compute-fire duty (at least 1), and raises record 0x0104 exactly when the
guard did not hold before; the only other record of a tick is that of a throttle that begins. Otherwise, unless the rail guard holds, an average of
the last ten over the effective limit, or after an exit from a power state or a lift of the throttle one that rose by more than TDP/8 in the tick,
lowers the duty by 1, or the clock once the duty is 1, and any other never lowers either. The averages kept are the last ten, the newest first (that
the 100 us average is theirs, and when the limit of R487 ends, are the model's reading: log entry 36). A rail-current average of more than 1,650 A
halves the duty and raises record 0x0105 when that guard did not hold before; one not above it clears the guard and changes nothing else. -/
def Obligations.GovernorAndGuardsHoldThePower : Prop :=
  (∀ (s : State) (v i : Nat), s.awake = true →
    let p := power16 v i
    let pins := (p :: s.pw.pins).take 10
    let above : Prop := s.effectiveLimit16 < avgList pins ∨ (s.pw.ramp = true ∧ avgList s.pw.pins + 2 * s.tdp < avgList pins)
    ∃ t, exec (.governorTick v i) s = .next t ∧ t.pw.vinMv = v ∧ t.pw.iinMa = i ∧ t.pw.pins = pins ∧
      t.pw.guardPin = decide (16 * 1250 < p) ∧ t.pw.guardRail = s.pw.guardRail ∧ t.pw.state = s.pw.state ∧ t.sv = s.sv ∧ t.bt = s.bt ∧
      (16 * 1250 < p → t.pw.duty = max 1 (s.pw.duty / 2) ∧ t.pw.clkdown = s.pw.clkdown) ∧
      (16 * 1250 < p → s.pw.guardPin = false → ∃ r ∈ t.ev.held, r.code = 0x0104 ∧ r.source = 5 ∧ r.seq = s.ev.next ∧ r.detail = [p]) ∧
      (p ≤ 16 * 1250 ∨ s.pw.guardPin = true → t.ev = s.ev ∨ (s.pw.k = 0 ∧ ∃ d, t.ev = (s.raise 0x0101 5 d).ev)) ∧
      (p ≤ 16 * 1250 → s.pw.guardRail = true → t.pw.duty = s.pw.duty ∧ t.pw.clkdown = s.pw.clkdown) ∧
      (p ≤ 16 * 1250 → s.pw.guardRail = false → above →
        (1 < s.pw.duty → t.pw.duty = s.pw.duty - 1 ∧ t.pw.clkdown = s.pw.clkdown) ∧
        (s.pw.duty ≤ 1 → t.pw.duty = s.pw.duty ∧ t.pw.clkdown = (if s.pw.clkdown < 12 then s.pw.clkdown + 1 else s.pw.clkdown))) ∧
      (p ≤ 16 * 1250 → s.pw.guardRail = false → ¬ above → s.pw.duty ≤ t.pw.duty ∧ t.pw.clkdown ≤ s.pw.clkdown)) ∧
  (∀ (s : State) (q : Nat), s.awake = true → q ≤ 4 * 1650 →
    exec (.railCurrentGuard q) s = .next { s with pw := { s.pw with railQuarterAmps := q, guardRail := false } }) ∧
  (∀ (s : State) (q : Nat), s.awake = true → 4 * 1650 < q →
    let held : State := { s with pw := { s.pw with railQuarterAmps := q, guardRail := true, duty := max 1 (s.pw.duty / 2) } }
    exec (.railCurrentGuard q) s = .next (if s.pw.guardRail then held else held.raise 0x0105 5 [q]))

/-- 15 R492, R494, R497, R501, 07 R212, 10 R322, 11 R360. In P1 to P4, WAKE_N, wake-light on a Dispatch port in P3 or P4, energy on a Courier lane
that was up in P3 or P4, and a WAKE frame in P1 or P2 return a module that is supplied and not stopped to P0 Run with the code of the wake
in PWR_STAT, but a drained one from P2, P3 or P4 to P1; a wake from P4 that finds a tile record with a wrong DIGEST drains the module with
cause 5. P1 held by a lease expiry or a drain stays; in P0 WAKE_N is ignored. Auto-hold, with its time nonzero and the array dies quiet,
enters P1. An entry to P2, P3 or P4 whose open steps have not committed 100 ms after its command is abandoned with record 0x0106, cause 2; one
to P1, which waits for no step, is not. -/
def Obligations.WakesReturnToRun : Prop :=
  (∀ s : State, s.pw.supplied = true → s.pw.stop = none →
    let woken (c : Instr) (code : Nat) : Prop :=
      ∃ t, exec c s = .next t ∧ t.pw.wake = code ∧ t.pw.state = (if s.isDrained then .p1 else .p0)
    (s.pw.state = .p0 → exec .wakeN s = .next s) ∧
    (s.pw.state = .p1 → s.isDrained = false → s.pw.hold = .none → woken .wakeN 3 ∧
      (∀ port, port < 12 → (s.port port).state = .up → woken (.fabricWakeFrame port) 4)) ∧
    (s.pw.state = .p1 → (s.isDrained = true ∨ s.pw.hold ≠ .none) → exec .wakeN s = .next s) ∧
    (s.pw.state = .p2 → woken .wakeN 3 ∧
      (∀ port, port < 12 → (s.port port).state = .keepalive → woken (.fabricWakeFrame port) 4)) ∧
    (s.pw.state = .p3 ∨ (s.pw.state = .p4 ∧ s.storeBad = none) → woken .wakeN 3 ∧ (∀ port, port < 2 → woken (.wakeLight port) (1 + port)) ∧
      (∀ port, port ∈ s.pw.upPorts → woken (.laneEnergyWake port) 4)) ∧
    (s.pw.state = .p4 → s.storeBad ≠ none → s.isDrained = false →
      ∃ t, exec .wakeN s = .next t ∧ t.pw.wake = 3 ∧ t.bt.drained = some 5 ∧ t.holdsP1 .drained)) ∧
  (∀ s : State, s.storedField 0x4004 0 14 ≠ 0 → s.inRun = true → s.pw.entry = none → s.quiet = true →
    ∃ t, exec .autoHold s = .next t ∧ t.pw.state = .p1 ∧ t.pw.hold = .none ∧ t.pw.entry = none ∧
      t.rg.mirrorA = [true, true, true, true] ∧ t.tm.tick = max s.tm.tick (s.pw.lastActivity + 250 * s.storedField 0x4004 0 14)) ∧
  (∀ (s : State) (e : PowerEntry), s.pw.entry = some e → e.target = .p1 → exec .powerEntryTimeout s = .next s) ∧
  (∀ (s : State) (e : PowerEntry), s.pw.entry = some e → e.target ≠ .p1 → s.liveSteps ≠ [] →
    ∃ t, exec .powerEntryTimeout s = .next t ∧ t.pw.entry = none ∧ t.pw.state = s.pw.state ∧
      t.tm.tick = max s.tm.tick (e.since + 25000000) ∧
      t.ev.held.getLast? = some ⟨0x0106, 4, s.ev.next, t.time, [e.target.code, 2]⟩ ∧ t.sv = s.sv)

/-- 14 R465-R467, R479-R482, Table 14.3. The first test of an enabled tile falls due at once, a later one at its time. A due test of an idle tile
begins on the array in rotation and the next is due 590 s of P0 later; one that has not begun is forced and its lateness recorded with code 0x020A.
A test fails in its structural part, or else at the first of its 64 fires that fails (Machine/Arrays: testFireFails; which of them carry the offsets
is the model's choice, log entry 70); a tile without a test array runs the structural part alone. A pass ends the test; a first failure repeats it
with record 0x0209; a second drains the module with cause 10. A pass of the scrubber leaves the symbols it corrected for the next pass over the same
memories, those of HBM or those of staging SRAM, and a pass over the other memories keeps them; one corrected symbol of HBM is counted and raises
record 0x0203 only if the pass before corrected the same one; lost state of a stack drains the module with cause 2. -/
def Obligations.FieldTestsAndTheScrubberReport : Prop :=
  (∀ (s : State) (id : TileId), s.inRun = true → s.enabled id = true →
    let x := (s.tile id).test
    (x.due = false → x.running = false → ∃ t, exec (.inFieldTestDue id) s = .next t ∧ (t.tile id).test.due = true ∧
      (t.tile id).test.dueAt = (if x.passedOnce then x.dueAt else s.p0Time) ∧ (t.tile id).test.boundary = false ∧ ∀ u, u ≠ id → t.tile u = s.tile u) ∧
    (x.due = true → x.running = false → s.workStops = false → s.idleForTest (s.tile id) = true → ∃ t, exec (.inFieldTestStart id) s = .next t ∧
      (t.tile id).test.running = true ∧ (t.tile id).test.due = false ∧ (t.tile id).test.arr = s.testArray id ∧
      (t.tile id).test.dueAt = s.p0Time + testTicks ∧ (t.tile id).test.repeated = false ∧ t.ev = s.ev ∧ ∀ u, u ≠ id → t.tile u = s.tile u) ∧
    (x.due = true → x.running = false → s.workStops = false → ∃ t r, exec (.inFieldTestForced id) s = .next t ∧ (t.tile id).test.running = true ∧
      t.ev.held.getLast? = some r ∧ r.code = 0x020A ∧ r.source = id.die ∧ t.ev.next = nextSeq s.ev.next)) ∧
  (∀ (s : State) (id : TileId) (r : TestReadings),
    (∀ n, r.structural = some n → s.testFails id r = some (1, n)) ∧
    (r.structural = none → (s.tile id).test.arr = none → s.testFails id r = none) ∧
    (∀ k, r.structural = none → (s.tile id).test.arr = some k →
      let fails (n : Nat) : Bool := testFireFails (s.testRecord (id.array k)) (s.currentSet (s.tile id) k) n (at' r.raw n [])
      ((∀ n, n < 64 → fails n = false) → s.testFails id r = none) ∧
      ∀ n, n < 64 → fails n = true → (∀ m, m < n → fails m = false) → s.testFails id r = some (2, 92 + n))) ∧
  (∀ (s : State) (id : TileId) (r : TestReadings), s.inRun = true → (s.tile id).test.running = true →
    let loc := locOf (id.array ((s.tile id).test.arr.getD 0))
    (s.testFails id r = none → ∃ t, exec (.inFieldTestDone id r) s = .next t ∧
      (t.tile id).test = { (s.tile id).test with running := false, passedOnce := true, repeated := false } ∧ t.ev = s.ev) ∧
    (∀ a b, s.testFails id r = some (a, b) → (s.tile id).test.repeated = false → ∃ t, exec (.inFieldTestDone id r) s = .next t ∧
      (t.tile id).test = { (s.tile id).test with repeated := true } ∧
      t.ev.held.getLast? = some ⟨0x0209, id.die, s.ev.next, s.time, [loc, a, b]⟩) ∧
    (∀ a b, s.testFails id r = some (a, b) → (s.tile id).test.repeated = true → s.isDrained = false → ∃ t e, exec (.inFieldTestDone id r) s = .next t ∧
      t.bt.drained = some 10 ∧ t.holdsP1 .drained ∧ t.bt.drainLog = rotate 1024 (s.bt.drainLog ++ [e]) ∧ e.code = 0x0209 ∧ e.loc = loc)) ∧
  (∀ (s : State), s.hcoreRuns = true →
    (∀ pass : ScrubPass, ∃ t, exec (.eccScrub pass) s = .next t ∧
      ∀ c, c ∈ t.rg.lastCorrected ↔ if decide (c.1 < 16) = pass.hbm then c ∈ pass.found.filterMap correctedAt else c ∈ s.rg.lastCorrected) ∧
    (∀ stack addr pos, stack < 16 → ∃ t, exec (.eccScrub ⟨true, [.hbmCorrected stack addr pos]⟩) s = .next t ∧
      t.rg.eccCorr = modAt s.rg.eccCorr stack (· + 1) ∧ t.rg.eccDet = s.rg.eccDet ∧ t.sv = s.sv ∧
      (if (stack, addr, pos) ∈ s.rg.lastCorrected then t.ev.held.getLast? = some ⟨0x0203, stack / 4, s.ev.next, s.time, [stack, addr % 2 ^ 32, addr / 2 ^ 32 % 2 ^ 32]⟩
        else t.ev = s.ev)) ∧
    (∀ stack addr, s.isDrained = false → ∃ t, exec (.eccScrub ⟨true, [.stateBad stack addr]⟩) s = .next t ∧ t.bt.drained = some 2 ∧ t.holdsP1 .drained))

/-- 11 R356, R362, R364, R365, R389, R390. A port in training that locks at its generation is UP at it; one that does not lock at Dispatch-2
within its time tries Dispatch-1, and one that does not lock at Dispatch-1 is FAILED; the other port is not affected. Before a SELECT, while
firmware runs with the seal committed, a port that is UP sends a HELLO of VERSION 1. A header whose HCRC fails is counted and has no other
effect. A write of EVT_HEAD in register-window mode sets the head; a write of COMP_HEAD that lies beyond the tail is ignored and any other
releases the completions below it. -/
def Obligations.DispatchPortsTrainAndSayHello : Prop :=
  (∀ (s : State) (d gen : Nat), s.linksPowered = true → d < 2 → d < s.dp.ports.length → (s.dsp d).state = .training → gen = s.dspGen d →
    ∃ t, exec (.dispatchTrainingDone d gen) s = .next t ∧ (t.dsp d).state = .up ∧ (t.dsp d).gen = gen ∧ (∀ m, m ≠ d → t.dsp m = s.dsp m) ∧ t.fb = s.fb) ∧
  (∀ (s : State) (d : Nat), s.linksPowered = true → d < 2 → d < s.dp.ports.length → (s.dsp d).state = .training →
    ∃ t, exec (.dispatchTrainingTimeout d) s = .next t ∧ (∀ m, m ≠ d → t.dsp m = s.dsp m) ∧
      (s.bt.compat = false → (s.dsp d).fallback = false → t.dsp d = { s.dsp d with fallback := true }) ∧
      (s.bt.compat = true ∨ (s.dsp d).fallback = true → t.dsp d = { s.dsp d with state := .failed })) ∧
  (∀ (s : State) (d : Nat), d < 2 → (s.dsp d).state = .up → s.firmwareRuns = true → s.rg.sealed.noRef = false → (s.dsp d).selected = false →
    ∃ t f, exec (.helloTimer d) s = .next t ∧ t = { s with dp := { s.dp with tx := s.dp.tx ++ [f], ports := t.dp.ports } } ∧ f.type = 1 ∧
      f.version = 1 ∧ f.port = d ∧ f.chan = 1 ∧ f.payload = s.helloPayload d) ∧
  (∀ (s : State) (d : Nat), d < (s.frameArrives false).dp.ports.length → s.portHears d = true →
    let u := s.frameArrives false
    ∃ t, exec (.headerCrcFailure d) s = .next t ∧ t.dsp d = { u.dsp d with hdrErr := (u.dsp d).hdrErr + 1 } ∧ (∀ m, m ≠ d → t.dsp m = u.dsp m) ∧
      t = { u with dp := { u.dp with ports := t.dp.ports } }) ∧
  (∀ (s : State) (v : Word), s.emulates = true → exec (.evtHeadWrite v) s = .next { s with ev := { s.ev with winHead := v.toNat } }) ∧
  (∀ (s : State) (n : Nat) (q : Queue) (v : Word), s.emulates = true → s.queue n = some q →
    exec (.compHeadWrite n v) s = .next (if q.comp.tail - q.comp.head < ahead q.comp.head v.toNat then s
      else s.releaseCompletions n (ahead q.comp.head v.toNat)))

/-- 10 R311, R315, R320, R333. A Courier port that is UP and loses lock, hears nothing for 10 us, or has resent a flit eight times goes to RETRAIN:
the replay buffer, the sequence numbers and what waits are kept, the DOWNs are counted. A retrain whose adverts have come, with a lane group that
both ends' adverts report, puts it UP (KEEPALIVE in P2) with those lanes and the expected SEQ kept; one without a common lane group or out of time
puts it FAILED, and no other port changes state. The same holds of a Dispatch port. When the fabric map or a port changes, firmware puts the
recomputed table in place. That a retrained port is KEEPALIVE in P2, and that the links of the map come with ROUTE_RECOMPUTE, are the model's (log
entries 32, 16). -/
def Obligations.PortsGoDownRetrainAndFail : Prop :=
  (∀ (s : State) (k : Nat) (c : DownCause), s.linksPowered = true → k < 12 → (s.port k).state = .up →
    (c = .resends → ∃ f ∈ (s.port k).link.replay, 8 ≤ f.resends) →
    ∃ t, exec (.portDown k c) s = .next t ∧ t = { s with fb := { s.fb with ports := t.fb.ports } } ∧ (∀ m, m ≠ k → t.port m = s.port m) ∧
      t.port k = { s.port k with state := .retrain, locked := [], advertsSame := 0, advertsSent := 0,
                                 link := { (s.port k).link with downs := (s.port k).link.downs + 1 } }) ∧
  (∀ (s : State) (d : Nat) (c : DownCause), s.linksPowered = true → d < 2 → d < s.dp.ports.length → (s.dsp d).state = .up →
    (c = .resends → ∃ f ∈ (s.dsp d).link.replay, 8 ≤ f.resends) →
    ∃ t, exec (.portDown (12 + d) c) s = .next t ∧ (∀ m, m ≠ d → t.dsp m = s.dsp m) ∧ t.fb = s.fb ∧
      t.dsp d = { s.dsp d with state := .retrain, link := { (s.dsp d).link with downs := (s.dsp d).link.downs + 1 } }) ∧
  (∀ (s : State) (k lanes : Nat), s.linksPowered = true → k < 12 → (s.port k).state = .retrain → lanes = lockedLanes (s.port k).locked → 3 ≤ (s.port k).advertsSame →
    let g := usableLanes lanes (match (s.port k).partnerAdv with
      | some a => a.lanes
      | none => 0)
    (g = 0 → ∃ t, exec (.retrainDone k lanes) s = .next t ∧ (t.port k).state = .failed ∧ ∀ m, m ≠ k → (t.port m).state = (s.port m).state) ∧
    (g ≠ 0 → ∃ t, exec (.retrainDone k lanes) s = .next t ∧ t = { s with fb := { s.fb with ports := t.fb.ports } } ∧ (∀ m, m ≠ k → t.port m = s.port m) ∧
      (t.port k).state = (if s.pw.state = .p2 then .keepalive else .up) ∧ (t.port k).lanes = g ∧
      (t.port k).link.expected = (s.port k).link.expected ∧ (t.port k).link.frames = (s.port k).link.frames)) ∧
  (∀ (s : State) (d lanes : Nat), s.linksPowered = true → d < 2 → d < s.dp.ports.length → (s.dsp d).state = .retrain →
    ∃ t, exec (.retrainDone (12 + d) lanes) s = .next t ∧ (t.dsp d).state = .up ∧ (∀ m, m ≠ d → t.dsp m = s.dsp m)) ∧
  (∀ (s : State) (k : Nat), s.linksPowered = true → k < 12 → (s.port k).state = .retrain →
    ∃ t, exec (.retrainTimeout k) s = .next t ∧ (t.port k).state = .failed ∧ ∀ m, m ≠ k → (t.port m).state = (s.port m).state) ∧
  (∀ (s : State) (d : Nat), s.linksPowered = true → d < 2 → d < s.dp.ports.length → (s.dsp d).state = .retrain →
    ∃ t, exec (.retrainTimeout (12 + d)) s = .next t ∧ t.dsp d = { s.dsp d with state := .failed } ∧ t.fb = s.fb) ∧
  (∀ (s : State) (links : List (Nat × Nat × Nat)), s.firmwareRuns = true → s.fb.coordValid = true →
    let t : State := { s with fb := { s.fb with routes := s.routesOver links, links := links, detours := [] } }
    (∀ j ∈ s.fb.jobs, t.cutMember j = none) → exec (.routeRecompute links) s = .next t)

/-- 10 R310, R312, R314, R317, R320, 11 R358, 01 R10. A flit is 256 bytes: its data, the trailer of Table 10.3 and a CRC-32C of both; the lanes and
the PCS give back what they were given. On a Courier port that carries flits: one with a bad CRC is counted, one out of order is not taken, and
both are answered by a NAK and leave everything received as it was; the next in order advances the expected SEQ modulo 4,096, clears the NAK, and a
flit of frame kind 4 delivers its frame on its channel. A flit unacknowledged for 2 us is sent again with every later one, in order, with the ACK
of the moment. In P2 Nap a port in KEEPALIVE sends an idle flit. That an idle flit carries the NAK, and what ACK is before any good flit, are the
model's choices (log entry 64). A bridge flit that passes clears its own tries, one that fails counts one for that flit, bridge and direction
alone, and the fourth failure in a row of one flit raises record 0x0204 and drains the module with cause 3. -/
def Obligations.FlitsAreTakenInOrderAndResent : Prop :=
  (∀ (s : State) (k : Nat) (f : Flit), s.courierAlive k = true → f.fkind ≠ 5 →
    let l := (s.port k).link
    ∃ t, exec (.flitReceive k f) s = .next t ∧ t = { s with fb := { s.fb with ports := t.fb.ports } } ∧ (∀ m, m ≠ k → t.port m = s.port m) ∧
      (f.crcOk = false → ∃ l1, t.port k = { s.port k with link := { l1 with crcErr := l.crcErr + 1 } } ∧ s.naked k l1) ∧
      (f.crcOk = true → f.seq ≠ l.expected → ∃ l1, t.port k = { s.port k with link := l1 } ∧ s.naked k l1 ∧ l1.crcErr = l.crcErr) ∧
      (f.crcOk = true → f.seq = l.expected →
        (t.port k).link.expected = (l.expected + 1) % 4096 ∧ (t.port k).link.lastGood = some f.seq ∧ (t.port k).link.nak = false ∧
        (t.port k).state = (s.port k).state ∧
        (f.fkind = 4 → (t.port k).link.frames = l.frames ++ [(f.vc, f.data.take (36 + fld f.data 0x0C 2))]) ∧
        (f.fkind = 0 → (t.port k).link.frames = l.frames ∧ (t.port k).link.assembly = l.assembly))) ∧
  (∀ (s : State) (k : Nat) (f : SentFlit) (fs : List SentFlit), s.courierAlive k = true → (s.port k).link.replay = f :: fs →
    ∃ t, exec (.flitResendTimeout k) s = .next t ∧ t.tm.tick = max s.tm.tick (f.sent + 500) ∧
      (let l := (s.port k).link
       t.port k = { s.port k with link := { l with
        replay := (f :: fs).mapIdx fun i x =>
          { x with ack := l.ackSeq, nak := false, sent := t.tm.tick, resends := x.resends + 1
                   marker := (s.port k).gen == 1 && (l.sinceMarker + i) % 16 == 15 }
        sinceMarker := (l.sinceMarker + (fs.length + 1)) % 16
        retry := l.retry + (fs.length + 1) } }) ∧ t.sv = s.sv ∧ t.wt = s.wt) ∧
  (∀ (s : State) (k : Nat), s.linksPowered = true → s.pw.state = .p2 → k < 12 → (s.port k).state = .keepalive →
    (s.port k).link.replay.length < 512 →
    ∃ t, exec (.keepaliveTimer k) s = .next t ∧ t = { s with fb := { s.fb with ports := t.fb.ports } } ∧
      (t.port k).link.nextSend = ((s.port k).link.nextSend + 1) % 4096 ∧
      (t.port k).link.replay = (s.port k).link.replay ++ [s.idleOf k (s.port k).link.nak] ∧
      (t.port k).link.credits = (s.port k).link.credits) ∧
  (∀ f : SentFlit, f.data.length = 240 → f.seq < 4096 → f.vc < 16 → f.ack < 4096 → f.creditVc < 16 → f.credit < 4096 → f.fkind < 256 →
    f.bytes.length = 256 ∧ f.bytes.take 240 = f.data ∧ fld f.bytes 240 2 = f.seq + 4096 * f.vc ∧ fld f.bytes 242 2 = f.ack + 4096 * b2n f.nak ∧
    fld f.bytes 244 2 = f.creditVc + 16 * f.credit ∧ fld f.bytes 246 1 = f.fkind ∧ slice f.bytes 247 5 = natLe 5 0 ∧
    slice f.bytes 252 4 = natLe 4 (crc32c (f.bytes.take 252))) ∧
  (∀ (n : Nat) (flit : Bytes), 0 < n → flit.length % n = 0 → woven ((List.range n).map fun i => dealt n i flit 0) 0 = flit) ∧
  (∀ flit : Bytes, flit.length = 256 → pcsFlits none (pcsPacket flit) = [some flit]) ∧
  (∀ (s : State) (b n : Nat) (out : Bool), b < 8 → s.hcoreRuns = true →
    let tried (t : State) (k : Nat) : Prop := t = { s with fb := { s.fb with bridgeRetries := t.fb.bridgeRetries } } ∧
      t.flitTries (b, out, n) = k ∧ ∀ x, x ≠ (b, out, n) → t.flitTries x = s.flitTries x
    (∃ t, exec (.bridgeFlitTransfer ⟨b, out, n⟩ true) s = .next t ∧ tried t 0) ∧
    (s.flitTries (b, out, n) < 3 → ∃ t, exec (.bridgeFlitTransfer ⟨b, out, n⟩ false) s = .next t ∧ tried t (s.flitTries (b, out, n) + 1)) ∧
    (3 ≤ s.flitTries (b, out, n) → s.isDrained = false →
      ∃ t u e, exec (.bridgeFlitTransfer ⟨b, out, n⟩ false) s = .next t ∧ tried u 0 ∧ t = (u.raise 0x0204 4 [b]).drain 3 0x0204 4 0 ∧
        t.bt.drained = some 3 ∧ t.holdsP1 .drained ∧ t.bt.drainLog = rotate 1024 (s.bt.drainLog ++ [e]) ∧ e.cause = 3 ∧ e.code = 0x0204))

/-- 10 R311, R316, R317, R319, R320, R321. A port in DETECT sends its advert and counts it: on each of its eight lanes the lane's marker and the
lane's share of a flit with the advert's 64 bytes; a lane lock is noted; 100 ms without an advert changes nothing. A good advert equal to the one
before raises the run of identical ones, and a bad CRC breaks the run. The third in a row puts the port in SELECT at the highest generation both
ends have, when a lane group is usable at both, and else the port is FAILED. Training done in SELECT leads to CHECK with the coefficients stored,
and with both coordinates set to UP if the partner matches and to MISWIRED with record 0x0031 if not; training that times out at Courier-2 goes on
at Courier-1 when the partner has it, and else the port is FAILED. -/
def Obligations.PortsNegotiateByAdverts : Prop :=
  (∀ (s : State) (k : Nat), s.linksPowered = true → k < 12 → (s.port k).state = .detect →
    (∃ t, exec (.advertTimer k) s = .next t ∧ t.port k = { s.port k with advertsSent := (s.port k).advertsSent + 1 } ∧
      t.fb.adverts = setKey s.fb.adverts k (s.ownAdvert k) ∧ (advertBytes (s.ownAdvert k)).length = 64 ∧
      ∀ n, n < 8 → lookupD t.fb.advertLanes (k, n) [] =
        laneMarker n ++ dealt 4 (n % 4) (SentFlit.bytes (newFlit 0 0 5 (advertBytes (s.ownAdvert k)))) 0) ∧
    exec (.detectTimeout k) s = .next s ∧
    (∀ lane number inv, lane < 8 → number < 8 → ∃ t, exec (.laneLock k lane number inv) s = .next t ∧
      t.port k = { s.port k with locked := putBy (fun e => e.1 == lane) (lane, number, inv) (s.port k).locked }) ∧
    (∀ a : Advert, a.version = 1 →
      (a.crcOk = false → ∃ t, exec (.advertReceived k a) s = .next t ∧ t.port k = { s.port k with advertsSame := 0 }) ∧
      (a.crcOk = true → (s.port k).advertsSame = 1 → (s.port k).partnerAdv = some a →
        ∃ t, exec (.advertReceived k a) s = .next t ∧ t.port k = { s.port k with advertsSame := 2 }) ∧
      (a.crcOk = true → (s.port k).advertsSame = 2 → (s.port k).partnerAdv = some a → usableLanes (lockedLanes (s.port k).locked) a.lanes ≠ 0 →
        commonGen 2 a.gens ≠ 0 →
        ∃ t, exec (.advertReceived k a) s = .next t ∧ (t.port k).state = .select ∧ (t.port k).trainGen = commonGen 2 a.gens ∧
          (t.port k).partner = a.coord % 1024 ∧ (t.port k).features = Nat.land a.features 0x1FF ∧ ∀ m, m ≠ k → t.port m = s.port m) ∧
      (a.crcOk = true → (s.port k).advertsSame = 2 → (s.port k).partnerAdv = some a →
        usableLanes (lockedLanes (s.port k).locked) a.lanes = 0 ∨ commonGen 2 a.gens = 0 →
        ∃ t, exec (.advertReceived k a) s = .next t ∧ (t.port k).state = .failed))) ∧
  (∀ (s : State) (k : Nat), s.linksPowered = true → k < 12 → (s.port k).state = .select →
    (∀ a : Advert, (s.port k).partnerAdv = some a → a.coordValid = true → s.fb.coordValid = true →
      ∃ t, exec (.trainingDone k) s = .next t ∧ (t.port k).gen = (s.port k).trainGen ∧ (t.port k).coeffs = true ∧
        (t.port k).state = (if s.partnerMatches k a then .up else .miswired) ∧ (∀ m, m ≠ k → t.port m = s.port m) ∧
        (s.partnerMatches k a = true → (t.port k).partner = a.coord % 1024 ∧ (t.port k).pport = a.port % 16) ∧
        (s.partnerMatches k a = false → t.ev.held.getLast? = some ⟨0x0031, 4, s.ev.next, s.time,
          [k, a.coord % 1024 + 65536 * (a.port % 16), a.fabricId, a.dim % 256 + 256 * (a.twist % 256)]⟩)) ∧
    (s.fb.coordValid = false → ∃ t, exec (.trainingDone k) s = .next t ∧
      t.port k = { s.port k with state := .check, gen := (s.port k).trainGen, coeffs := true, link := (s.port k).link.fresh }) ∧
    (∀ a : Advert, (s.port k).partnerAdv = some a → (s.port k).trainGen = 2 → ∃ t, exec (.trainingTimeout k) s = .next t ∧
      (bit a.gens 0 = true → t.port k = { s.port k with trainGen := 1 }) ∧ (bit a.gens 0 = false → (t.port k).state = .failed)) ∧
    ((s.port k).trainGen = 1 → ∃ t, exec (.trainingTimeout k) s = .next t ∧ (t.port k).state = .failed))

/-- 11 R364, R367, R395-R398, 12 R408. A SELECT with a reason to reject gets a REJECT with that reason and makes nothing. One that is accepted
leaves a lease of its host with its version, mode and features; from the holder of a live lease it is answered at once with a READY. A
HEARTBEAT from the holder stamps the lease now and is answered with both ends of its window, another host's gets status 5. When the window of
a lease ends, no lease is left and 200 ms have passed since its stamp. RELEASE_LEASE ends it after its RESPONSE. -/
def Obligations.TheLeaseIsMadeRenewedAndEnded : Prop :=
  (∀ (s : State) (h : FrameHdr) (p : Bytes), s.takes h 1 2 false (p.length == 64) = true →
    let u := s.heard h 1
    (u.selectReason h.port p ≠ 0 → ∃ t f, exec (.select h p) s = .next t ∧ t.dp.tx = u.dp.tx ++ [f] ∧ f.type = 4 ∧ f.port = h.port ∧
      f.payload = natLe 1 (u.selectReason h.port p) ++ natLe 15 0 ∧ t = { u with dp := { u.dp with tx := t.dp.tx, ports := t.dp.ports } }) ∧
    (u.selectReason h.port p = 0 → ∃ t l, exec (.select h p) s = .next t ∧ t.dp.lease = some l ∧ l.host = fld p 0x10 8 ∧
      l.version = fld p 0 1 ∧ l.mode = fld p 1 1 ∧ l.features = fld p 8 8 ∧ l.suspended = false ∧
      (u.leaseLive = true → t.dp.expiring = false ∧ ∃ f rest, t.dp.tx = u.dp.tx ++ f :: rest ∧ f.type = 3 ∧ f.port = h.port ∧ f.seq = h.seq ∧
        (u.bt.flagDue = false → rest = [])))) ∧
  (∀ (s : State) (h : FrameHdr) (p : Bytes) (l : Lease), s.takes h 1 14 true (p.length == 16) = true →
    let u := s.heard h 1
    u.dp.lease = some l →
    (fld p 0 8 ≠ l.host → ∃ t, exec (.heartbeat h p) s = .next t ∧ t.answered h 5 (natLe 8 0) ∧ t.dp.lease = some l) ∧
    (fld p 0 8 = l.host → ∃ t f, exec (.heartbeat h p) s = .next t ∧
      t.dp.lease = some { l with stamp := if u.tm.valid then u.tm.counter else u.tm.tick, onCounter := u.tm.valid } ∧
      t.dp.tx = u.dp.tx ++ [f] ∧ f.type = 14 ∧ f.port = h.port ∧ f.payload = natLe 8 (if u.tm.valid then u.tm.counter else u.tm.tick) ++
        natLe 8 ((if u.tm.valid then u.tm.counter else u.tm.tick) + leaseTicks))) ∧
  (∀ (s : State) (l : Lease), s.dp.lease = some l → l.suspended = false → s.firmwareRuns = true →
    (l.onCounter = false → ∃ t, exec .leaseExpiry s = .next t ∧ t.dp.lease = none ∧ t.tm.tick = max s.tm.tick (l.stamp + leaseTicks)) ∧
    (l.onCounter = true → s.tm.valid = true →
      ∃ t, exec .leaseExpiry s = .next t ∧ t.dp.lease = none ∧ t.tm.counter = max s.tm.counter (l.stamp + leaseTicks))) ∧
  (∀ (s : State) (c : CmdFrame), s.commandReady c cmdReleaseLease = true →
    (fld c.args 0 1 = 0 → ∃ t, exec (.releaseLease c) s = .next (t.endLease 1) ∧ (s.heard c.hdr 0).completes t c 0x42 0 ∧ (t.endLease 1).dp.lease = none) ∧
    (fld c.args 0 1 = 1 → ∃ t, exec (.releaseLease c) s = .next t.releaseAll ∧ (s.heard c.hdr 0).completes t c 0x42 0 ∧ t.releaseAll.dp.lease = none))

/-- 11 R368, R380, R381, R384, 14 R476, Table 11.9. A STEP for a queue that does not exist gets status 6, on a drained module status 9. With the
expected number it joins the waiting steps and the order of submission, and the number moves on, while fewer than 256 wait; from 1 to 16 ahead
it is held; a number already passed gets status 8, one further ahead status 7. The first frame on a queue gives its port to it. A held step
that has waited 100 us is dropped with status 7. A doorbell that moves a tail or a head beyond what stands gets status 11. -/
def Obligations.StepsAreTakenInOrderOfTheirNumbers : Prop :=
  (∀ (s : State) (h : FrameHdr) (p : Bytes), s.takes h 0 5 true true = true →
    let u := s.heard h 0
    (u.queue h.queue = none → ∃ t, exec (.step h p) s = .next t ∧ t.answered h 6 (natLe 8 0) ∧ t.sv = u.sv) ∧
    (∀ q, u.queue h.queue = some q → q.deleting = false → q.ctx = h.context → (q.ownPort = none ∨ q.ownPort = some h.port) →
      (u.isDrained = true → ∃ t, exec (.step h p) s = .next t ∧ t.answered h 9 (natLe 8 0)) ∧
      (u.isDrained = false →
        (h.seq = q.expected → q.expected < 2 ^ 32 → q.waiting.length < 256 → (∀ w ∈ q.reorder, w.seq ≠ (q.expected + 1) % 2 ^ 32) →
          ∃ t w, exec (.step h p) s = .next t ∧ w.seq = h.seq ∧ w.tag = h.tag ∧ w.payload = p ∧ w.port = h.port ∧
            t.queue h.queue = some { q with ownPort := some h.port, expected := (q.expected + 1) % 2 ^ 32, waiting := q.waiting ++ [w], order := q.order ++ [h.seq] } ∧
            (h.ackReq = true → t.answered h 0 (natLe 8 0))) ∧
        (1 ≤ ahead q.expected h.seq → ahead q.expected h.seq ≤ 16 → (∀ w ∈ q.reorder, w.seq ≠ h.seq) →
          ∃ t w, exec (.step h p) s = .next t ∧ w.seq = h.seq ∧ w.payload = p ∧ w.since = u.tm.tick ∧
            t.queue h.queue = some { q with ownPort := some h.port, reorder := q.reorder ++ [w] }) ∧
        (2 ^ 32 - 4096 ≤ ahead q.expected h.seq → ∃ t, exec (.step h p) s = .next t ∧ t.answered h 8 (natLe 8 0)) ∧
        (16 < ahead q.expected h.seq → ahead q.expected h.seq < 2 ^ 32 - 4096 → ∃ t, exec (.step h p) s = .next t ∧ t.answered h 7 (natLe 8 0))))) ∧
  (∀ (s : State) (n seq : Nat) (q : Queue) (w : Waiting), s.firmwareRuns = true → s.queue n = some q → q.reorder.find? (fun x => x.seq == seq) = some w →
    ∃ t, exec (.reorderTimeout n seq) s = .next t ∧ t.tm.tick = max s.tm.tick (w.since + 25000) ∧
      t.queue n = some { q with reorder := q.reorder.filter fun x => x.seq != seq } ∧ t.answered (w.header n) 7 (natLe 8 0)) ∧
  (∀ (s : State) (h : FrameHdr) (p : Bytes) (q : Queue), s.takes h 0 13 true (p.length == 8) = true →
    let u := s.heard h 0
    u.queue h.queue = some q → q.deleting = false → (q.ownPort = none ∨ q.ownPort = some h.port) → u.isDrained = false →
    (fld p 0 1 = 0 →
      (2 ^ q.sub.k < ahead q.sub.tail (fld p 4 4) → ∃ t, exec (.doorbellSubmission h p) s = .next t ∧ t.answered h 11 (natLe 8 0)) ∧
      (ahead q.sub.tail (fld p 4 4) ≤ 2 ^ q.sub.k → exec (.doorbellSubmission h p) s =
        .next (((u.claimQueue h).ack h).submit h { q with ownPort := some h.port } (ahead q.sub.tail (fld p 4 4))))) ∧
    (fld p 0 1 = 1 →
      (q.comp.tail - q.comp.head < ahead q.comp.head (fld p 4 4) → ∃ t, exec (.doorbellCompletion h p) s = .next t ∧ t.answered h 11 (natLe 8 0)) ∧
      (ahead q.comp.head (fld p 4 4) ≤ q.comp.tail - q.comp.head → exec (.doorbellCompletion h p) s =
        .next (((u.claimQueue h).ack h).releaseCompletions q.id (ahead q.comp.head (fld p 4 4))))))

/-- 11 R376-R378, Table 11.9. A WRITE that passes the frame checks and every byte of which lies in a window stores its data: afterwards each of
those bytes reads as sent, every other byte reads as before, and nothing else of the module differs but the RESPONSE with status 0. A READ answers
with a DATA frame that holds the bytes and changes no memory. A range with an address in no window gets status 10 and changes nothing. -/
def Obligations.WritesAndReadsReachTheWindows : Prop :=
  (∀ (s : State) (h : FrameHdr) (p : Bytes), s.takes h 0 10 true (8 ≤ p.length) = true →
    let u := s.heard h 0
    let a := fld p 0 8
    ∃ t, exec (.write h p) s = .next t ∧
      t = { u with sv := { u.sv with mem := t.sv.mem }, dp := { u.dp with tx := t.dp.tx, ports := t.dp.ports } } ∧
      (u.inWindows (fun _ => true) a (p.length - 8) = true → t.answered h 0 (natLe 8 0) ∧
        (Memory.wf u.sv.mem = true → ∀ b, memGet t.sv.mem b = if a ≤ b ∧ b < a + (p.length - 8) then at' p (8 + (b - a)) 0 else memGet u.sv.mem b)) ∧
      (u.inWindows (fun _ => true) a (p.length - 8) = false → t.answered h 10 (natLe 8 0) ∧ t.sv.mem = u.sv.mem)) ∧
  (∀ (s : State) (h : FrameHdr) (p : Bytes), s.takes h 0 11 true (p.length == 16 && 1 ≤ fld p 8 4 && fld p 8 4 ≤ 65536) = true →
    let u := s.heard h 0
    let a := fld p 0 8
    let n := fld p 8 4
    ∃ t, exec (.read h p) s = .next t ∧ t = { u with dp := { u.dp with tx := t.dp.tx, ports := t.dp.ports } } ∧
      (u.inWindows (fun _ => true) a n = true → ∃ f, t.dp.tx = u.dp.tx ++ [f] ∧ f.type = 12 ∧ f.port = h.port ∧ f.seq = h.seq ∧
        f.tag = h.tag ∧ f.payload = (List.range n).map fun i => memGet u.sv.mem (a + i)) ∧
      (u.inWindows (fun _ => true) a n = false → t.answered h 10 (natLe 8 0)))

/-- 11 R379, R394, 10 R549. An L2REG size that is no multiple of 65,536 up to 2^40 gets status 10 and changes nothing held (R394 names no status:
the model's choice, log entry 29); any other size becomes the registered size, and 0 withdraws level 2. L2DATA adds its bytes to the pages of the
entry being fetched; once every page is whole the entry is ready to be written back to frames. A fetch not answered releases the slot early and,
where a step waits for it, ends its entry with code 17. An intake queue that holds words and has not been read for the stale time, a window of the
step counter, signals its consumer; it does not open while the counter is INVALID. -/
def Obligations.LevelTwoAndIntakeFollowTheHost : Prop :=
  (∀ (s : State) (h : FrameHdr) (p : Bytes), s.takes h 0 19 true (p.length == 16) = true →
    (fld p 0 8 % 65536 ≠ 0 ∨ 2 ^ 40 < fld p 0 8 → ∃ t, exec (.l2reg h p) s = .next t ∧ t.answered h 10 (natLe 8 0) ∧ t.kv = (s.heard h 0).kv ∧
      t.dp.l2Size = (s.heard h 0).dp.l2Size) ∧
    (fld p 0 8 % 65536 = 0 → fld p 0 8 ≤ 2 ^ 40 → fld p 0 8 ≠ 0 → ∃ t, exec (.l2reg h p) s = .next t ∧ t.answered h 0 (natLe 8 0) ∧
      t.kv = (s.heard h 0).kv ∧ t.dp.l2Size = some (fld p 0 8)) ∧
    (fld p 0 8 = 0 → ∃ t, exec (.l2reg h p) s = .next t ∧ t.answered h 0 (natLe 8 0) ∧ t.dp.l2Size = none)) ∧
  (∀ (s : State) (h : FrameHdr) (p : Bytes) (x : Held), s.takes h 0 22 true (8 ≤ p.length) = true →
    let u := s.heard h 0
    u.kv.held.filter (fun y => y.phase == .fetching) = [x] → u.heldOf x.slot = some x →
    ∃ t y, exec (.l2data h p) s = .next t ∧ t.heldOf x.slot = some y ∧ t.dp = u.dp ∧
      ((∃ g ∈ x.pages, (g.take2 g.size (fld p 0 8) (p.drop 8)).back.length ≠ g.size) →
        y = { x with pages := x.pages.map fun g => g.take2 g.size (fld p 0 8) (p.drop 8) }) ∧
      ((∀ g ∈ x.pages, (g.take2 g.size (fld p 0 8) (p.drop 8)).back.length = g.size) →
        y.phase = .restoring)) ∧
  (∀ (s : State) (slot : Nat) (x : Held), s.firmwareRuns = true → s.heldOf slot = some x → x.phase = .fetching →
    (s.restoreWaiter slot = none → exec (.l2getTimeout slot) s = .next (s.releaseEarly slot).sweep) ∧
    (∀ e, s.restoreWaiter slot = some e → exec (.l2getTimeout slot) s = .next ((s.closeEntry e.1 e.2 17 0).releaseEarly slot).sweep)) ∧
  (∀ (s : State) (port chan n : Nat), s.hcoreRuns = true → port < 2 → chan < 2 → (s.intake port chan).words ≠ [] → (s.intake port chan).signalled = false →
    (s.tm.valid = false → exec (.intakeStaleTimeout port chan) s = .next s) ∧
    (s.tm.valid = true → (s.intake port chan).lastRead = some n → ∃ t, exec (.intakeStaleTimeout port chan) s = .next t ∧
      t.tm.counter = max s.tm.counter (n + 25 * s.storedField 0x6000 16 14) ∧
      t = { s with tm := t.tm, dp := (s.modIntake port chan fun q => { q with signalled := true }).dp }))

/-- 12 R428, R429, 11 R359. A DLREAD that passes the frame checks on a port that is up is answered in a DATA frame on channel 1 whether or not
firmware runs. OP 0 gives the state of the boot and the dumps; OP 1 the bytes of a dump that stands, when HBM is ready; OP 2 marks the dump
of a slot as read; OP 3 is refused with RESULT 3 while the application cores run, and else resets the module after its answer, which then
runs the image that its flash boots. OP 0 and OP 1 change nothing else. That HBM is judged before the slot is the model's order (log entry 31). -/
def Obligations.DlreadIsAnsweredByTheIsland : Prop :=
  ∀ (s : State) (h : FrameHdr) (p : Bytes), s.portHears h.port = true → s.frameStatus h 18 false (p.length == 16) = 0 → allZero (slice p 2 2) = true →
    let ans (t : State) (r : Nat) (d : Bytes) : Prop := ∃ f, t.dp.tx = s.dp.tx ++ [f] ∧ f.type = 12 ∧ f.chan = 1 ∧ f.port = h.port ∧
      f.seq = h.seq ∧ f.payload = natLe 1 r ++ natLe 3 0 ++ natLe 4 d.length ++ natLe 8 0 ++ d
    let same (u t : State) : Prop := t = { u with dp := { u.dp with tx := t.dp.tx, ports := t.dp.ports } }
    (fld p 0 1 = 0 → ∃ t, exec (.dlreadStatus h p) s = .next t ∧ same s t ∧
      ans t 0 (natLe 1 s.bt.run.code ++ natLe 1 s.bt.bootFail ++ natLe 1 s.dumpValid ++ natLe 1 s.lastUpdate ++ natLe 4 s.bt.overwritten ++
        natLe 8 s.bt.dumpTime ++ natLe 16 0)) ∧
    (fld p 0 1 = 1 → fld p 1 1 ≤ 1 → 1 ≤ fld p 4 4 → fld p 4 4 ≤ 65520 → fld p 8 8 + fld p 4 4 ≤ 134217728 →
      ∃ t, exec (.dlreadRead h p) s = .next t ∧ same s t ∧
        (s.bt.hbmReady = false → ans t 5 []) ∧
        (s.bt.hbmReady = true → at' s.bt.dumps (fld p 1 1) none = none → ans t 4 []) ∧
        (s.bt.hbmReady = true → at' s.bt.dumps (fld p 1 1) none ≠ none →
          ans t 0 ((List.range (fld p 4 4)).map fun i => s.dumpAt (fld p 1 1) (fld p 8 8 + i)))) ∧
    (fld p 0 1 = 2 → fld p 1 1 ≤ 1 → at' s.bt.dumps (fld p 1 1) none ≠ none →
      ∃ t, exec (.dlreadClear h p) s = .next t ∧ same (s.markRead (fld p 1 1)) t ∧ ans t 0 []) ∧
    (fld p 0 1 = 3 → s.bt.run = .running → ∃ t, exec (.dlreadRestart h p) s = .next t ∧ same s t ∧ ans t 3 []) ∧
    (fld p 0 1 = 3 → s.bt.run ≠ .running → ∃ t, exec (.dlreadRestart h p) s = .next (t.resetModule true) ∧ same s t ∧ ans t 0 [] ∧
      ∀ r i, s.bootsTo r i → (t.resetModule true).bt.run = .running ∧ (t.resetModule true).bt.image = some i)

/-- 12 R403-R406 and Table 12.4, 11 R376, R383. A command that passes every check completes: with done and its effect alone, or with its code
and no effect. CREATE_WINDOW adds the window unless its number is taken or it overlaps another (state), or it would exceed 64 GiB or its
stack (resource); DELETE_WINDOW removes the window and forgets its bytes unless a ring or an open step lies in it (state); CREATE_QUEUE adds
the queue unless its number is taken, its context does not exist or its rings overlap (state); DELETE_QUEUE deletes one that exists and is
not being deleted; SET_EVENT_RING places the ring unless it overlaps a queue's. -/
def Obligations.WindowAndQueueCommandsComplete : Prop :=
  (∀ (s : State) (c : CmdFrame), s.commandReady c cmdCreateWindow = true →
    let u := s.heard c.hdr 0
    let w := newWindow c.args
    ∃ t, exec (.createWindow c) s = .next t ∧
      if (∃ x ∈ u.sv.windows, x.id = w.id ∨ overlap x.base x.size w.base w.size = true) then u.completes t c 0x01 5
      else if 2 ^ 36 < sumList (u.sv.windows.map Window.size) + w.size ∨ u.stackFree (w.id % 16) < w.size then u.completes t c 0x01 6
      else State.completes { u with sv := { u.sv with windows := u.sv.windows ++ [w] } } t c 0x01 0) ∧
  (∀ (s : State) (c : CmdFrame), s.commandReady c cmdDeleteWindow = true →
    let u := s.heard c.hdr 0
    ∃ t, exec (.deleteWindow c) s = .next t ∧
      (u.sv.windows.find? (fun w => w.id == fld c.args 0 2) = none → u.completes t c 0x02 5) ∧
      (∀ w, u.sv.windows.find? (fun w => w.id == fld c.args 0 2) = some w →
        (u.windowBusy w = true → u.completes t c 0x02 5) ∧
        (u.windowBusy w = false → State.completes { u with sv := { u.sv with
          windows := u.sv.windows.filter fun x => x.id != w.id
          mem := memClear u.sv.mem w.base w.size } } t c 0x02 0))) ∧
  (∀ (s : State) (c : CmdFrame), s.commandReady c cmdCreateQueue = true →
    let u := s.heard c.hdr 0
    let q := newQueue c.args
    ∃ t, exec (.createQueue c) s = .next t ∧
      ((u.queue q.id).isSome = true → u.completes t c 0x10 5) ∧
      (u.context q.ctx = none → u.completes t c 0x10 5) ∧
      (∀ x, u.queue q.id = none → u.context q.ctx = some x → x.discarding = false →
        (u.windowMode = true → State.completes { u with sv := { u.sv with queues := u.sv.queues ++ [q] } } t c 0x10 0) ∧
        (u.windowMode = false → overlap q.sub.addr (u.ringBytes q.sub.k) q.comp.addr (u.ringBytes q.comp.k) = false →
          (∀ r ∈ u.ringRanges, overlap q.sub.addr (u.ringBytes q.sub.k) r.1 r.2 = false ∧ overlap q.comp.addr (u.ringBytes q.comp.k) r.1 r.2 = false) →
          State.completes { u with sv := { u.sv with queues := u.sv.queues ++ [q] } } t c 0x10 0))) ∧
  (∀ (s : State) (c : CmdFrame), s.commandReady c cmdDeleteQueue = true →
    let u := s.heard c.hdr 0
    ∃ t, exec (.deleteQueue c) s = .next t ∧
      (u.queue (fld c.args 0 2) = none → u.completes t c 0x11 5) ∧
      (∀ q, u.queue (fld c.args 0 2) = some q → (q.deleting = true → u.completes t c 0x11 5) ∧
        (q.deleting = false → (u.deleteQueue q).completes t c 0x11 0))) ∧
  (∀ (s : State) (c : CmdFrame), s.commandReady c cmdSetEventRing = true →
    let u := s.heard c.hdr 0
    let bare : State := { u with ev := { u.ev with ring := none } }
    ∃ t, exec (.setEventRing c) s = .next t ∧
      if (∃ x ∈ bare.ringRanges, overlap (fld c.args 0 8) 65536 x.1 x.2 = true) then u.completes t c 0x12 5
      else State.completes { u with ev := { u.ev with ring := some (fld c.args 0 8), ringTail := 0 } } t c 0x12 0)

/-- 12 Table 12.4, 08 R236, Table 8.1, 09 R271, R294. CREATE_CONTEXT puts the context in place when its number is free and 08 R236 holds of
it, else code state. CHANGE_CONTEXT fails with code state on a context that does not exist or a change of TENANT or MODEL. DISCARD_CONTEXT
discards one that exists. SET_REGIONS fails with code state while a slot is not FREE and with code resource when a stack cannot hold the
regions, else it releases every tree and sets the sizes; SET_SERVING sets the two values; neither changes anything else. -/
def Obligations.ContextAndServingCommandsComplete : Prop :=
  (∀ (s : State) (c : CmdFrame), s.commandReady c cmdCreateContext = true →
    let u := s.heard c.hdr 0
    let x := newContext c.args
    ∃ t, exec (.createContext c) s = .next t ∧
      if u.context x.id = none ∧ u.contextOk x = true then
        State.completes { u with sv := { u.sv with contexts := putBy (fun y => y.id == x.id) x u.sv.contexts } } t c 0x20 0
      else u.completes t c 0x20 5) ∧
  (∀ (s : State) (c : CmdFrame), s.commandReady c cmdChangeContext = true →
    let u := s.heard c.hdr 0
    let x := newContext c.args
    ∃ t, exec (.changeContext c) s = .next t ∧
      (u.context x.id = none → u.completes t c 0x21 5) ∧
      (∀ old, u.context x.id = some old →
        (old.tenant ≠ x.tenant ∨ old.model ≠ x.model ∨ old.discarding = true ∨ u.contextOk x = false → u.completes t c 0x21 5) ∧
        (old.tenant = x.tenant → old.model = x.model → old.discarding = false → u.contextOk x = true →
          (u.changeContext old x).completes t c 0x21 0 ∧ (u.changeContext old x).context x.id = some x))) ∧
  (∀ (s : State) (c : CmdFrame), s.commandReady c cmdDiscardContext = true →
    let u := s.heard c.hdr 0
    ∃ t, exec (.discardContext c) s = .next t ∧
      (u.context (fld c.args 0 1) = none → u.completes t c 0x22 5) ∧
      (∀ x, u.context (fld c.args 0 1) = some x → if x.discarding then u.completes t c 0x22 5
        else (u.discardContext x.id).completes t c 0x22 0)) ∧
  (∀ (s : State) (c : CmdFrame), s.commandReady c cmdSetRegions = true →
    let u := s.heard c.hdr 0
    let v : State := { u with kv := { u.kv with prefixMib := fld c.args 0 4, level1Mib := fld c.args 4 4, chunks := [], frames := [], pages := [], nodes := [], held := [] } }
    ∃ t, exec (.setRegions c) s = .next t ∧
      ((∃ x ∈ u.sv.slots, x.state ≠ .free) → u.completes t c 0x40 5) ∧
      ((∀ x ∈ u.sv.slots, x.state = .free) → ((∃ k, k < 16 ∧ stackBytes < v.regionBytes k) → u.completes t c 0x40 6) ∧
        ((∀ k, k < 16 → v.regionBytes k ≤ stackBytes) → v.completes t c 0x40 0))) ∧
  (∀ (s : State) (c : CmdFrame), s.commandReady c cmdSetServing = true →
    let u := s.heard c.hdr 0
    ∃ t, exec (.setServing c) s = .next t ∧
      State.completes { u with dp := { u.dp with rejectThreshold := fld c.args 0 1, leaseTtl := fld c.args 4 4 } } t c 0x41 0)

/-- 12 R406, R407, 06 R194, R196, 08 R260, R264. LOAD_MODEL puts the model that its layer configuration describes in place; a configuration
that breaks 12 R407 gives code argument, a number in use code state, a 65th model code resource. UNLOAD_MODEL marks a resident model as
unloading and releases what no step needs; a second time, and for a number of which nothing stands, it gives code state. LOAD_ADAPTER puts
the adapter in place, each target on the stack that log entry 7 gives it, if its model is resident, its descriptors name tensors of it and
point at lines without a format error, its number is free and each stack has room. UNLOAD_ADAPTER marks it removed and takes it out of every
ADAPTER_SET. A command that fails changes nothing. The order of LOAD_MODEL's checks, UNLOAD_MODEL of a number that UNBOUND arrays alone name, and code
argument for adapter lines with a format error are the model's (log entries 35 and 47). -/
def Obligations.ModelAndAdapterCommandsComplete : Prop :=
  (∀ (s : State) (c : CmdFrame), s.commandReady c cmdLoadModel = true →
    let u := s.heard c.hdr 0
    let n := fld c.args 0 4
    let cfg := u.readMem (fld c.args 8 8) (fld c.args 4 4)
    ∃ t, exec (.loadModel c) s = .next t ∧
      (parseConfig n cfg = none → u.completes t c 0x30 3) ∧
      (∀ m, parseConfig n cfg = some m →
        if (u.model n).isSome then u.completes t c 0x30 5
        else if 64 ≤ u.wt.models.length then u.completes t c 0x30 6
        else State.completes { u with wt := { u.wt with models := u.wt.models ++ [m] } } t c 0x30 0)) ∧
  (∀ (s : State) (c : CmdFrame), s.commandReady c cmdUnloadModel = true →
    let u := s.heard c.hdr 0
    let n := fld c.args 0 4
    ∃ t, exec (.unloadModel c) s = .next t ∧
      (∀ m, u.model n = some m → if m.unloading then u.completes t c 0x31 5 else
        (State.sweep { u with wt := { u.wt with models := u.wt.models.map fun (x : Model) =>
          if x.num = n then { x with unloading := true } else x } }).completes t c 0x31 0) ∧
      (u.model n = none → if u.unboundOf n then (u.releaseModel n).completes t c 0x31 0 else u.completes t c 0x31 5)) ∧
  (∀ (s : State) (c : CmdFrame), s.commandReady c cmdLoadAdapter = true →
    let u := s.heard c.hdr 0
    let b := u.readMem (fld c.args 16 8) (fld c.args 8 4)
    ∃ t, exec (.loadAdapter c) s = .next t ∧
      ((u.model (fld c.args 4 4)).filter (fun m => !m.unloading) = none → u.completes t c 0x38 5) ∧
      (∀ m, (u.model (fld c.args 4 4)).filter (fun m => !m.unloading) = some m →
        (allSome ((List.range (fld c.args 2 2)).map (parseTarget m b)) = none → u.completes t c 0x38 3) ∧
        (∀ ts (x : Adapter), allSome ((List.range (fld c.args 2 2)).map (parseTarget m b)) = some ts → x = ⟨fld c.args 0 2, m.num, ts, ts.map fun d => u.targetStack m.num (fld c.args 0 2) d.1 d.2.1, false⟩ →
          ((∃ y ∈ u.sv.adapters, y.id = x.id) → u.completes t c 0x38 5) ∧
          ((∀ y ∈ u.sv.adapters, y.id ≠ x.id) → ((∃ k ∈ x.places, u.stackFree k < x.onStack k) → u.completes t c 0x38 6) ∧
            ((∀ k ∈ x.places, x.onStack k ≤ u.stackFree k) →
              State.completes { u with sv := { u.sv with adapters := u.sv.adapters ++ [x] } } t c 0x38 0))))) ∧
  (∀ (s : State) (c : CmdFrame), s.commandReady c cmdUnloadAdapter = true →
    let u := s.heard c.hdr 0
    let n := fld c.args 0 2
    ∃ t, exec (.unloadAdapter c) s = .next t ∧
      ((∃ x ∈ u.sv.adapters, x.id = n ∧ x.removed = false) → (State.sweep { u with sv := { u.sv with
        adapters := u.sv.adapters.map fun (x : Adapter) => if x.id = n then { x with removed := true } else x
        contexts := u.sv.contexts.map fun (k : Context) => { k with adapters := k.adapters.filter fun y => y != n } } }).completes t c 0x39 0) ∧
      ((∀ x ∈ u.sv.adapters, x.id = n → x.removed = true) → u.completes t c 0x39 5))

/-- 12 R406 and Table 12.4, 10 R331, R340, R343, R351, R353, 07 R227. SET_FABRIC sets the five values unless a step with a JOB is open;
SET_JOB_TABLE replaces the job's entry; RELEASE_JOB works on an aborted job only; RESET_PORT puts a Courier port in use in DETECT, and a
Dispatch port retrains after the RESPONSE; LOAD_TIME loads the counter unless it is VALID; REQUEST_CALIBRATION queues a class 4 request of
an enabled tile, else code limit. -/
def Obligations.FabricAndTimeCommandsComplete : Prop :=
  (∀ (s : State) (c : CmdFrame), s.commandReady c cmdSetFabric = true →
    let u := s.heard c.hdr 0
    ∃ t, exec (.setFabric c) s = .next t ∧
      ((∃ o ∈ u.sv.steps, o.cmd.job ≠ 0) → u.completes t c 0x50 5) ∧
      ((∀ o ∈ u.sv.steps, o.cmd.job = 0) → t.fb.coord = fld c.args 0 2 ∧ t.fb.coordValid = true ∧ t.fb.dim = fld c.args 2 1 ∧
        t.fb.twist = fld c.args 3 1 ∧ t.fb.fabricId = fld c.args 4 4 ∧ t.fb.timeRoot = fld c.args 8 2 ∧
        (u.setFabric (fld c.args 0 2) (fld c.args 2 1) (fld c.args 3 1) (fld c.args 4 4) (fld c.args 8 2)).completes t c 0x50 0)) ∧
  (∀ (s : State) (c : CmdFrame), s.commandReady c cmdSetJobTable = true →
    let u := s.heard c.hdr 0
    ∃ t, exec (.setJobTable c) s = .next t ∧ t.job (fld c.args 0 4) = some (newJob c.args) ∧
      State.completes { u with fb := { u.fb with jobs := putBy (fun j => j.num == fld c.args 0 4) (newJob c.args) u.fb.jobs } } t c 0x51 0) ∧
  (∀ (s : State) (c : CmdFrame), s.commandReady c cmdReleaseJob = true →
    let u := s.heard c.hdr 0
    ∃ t, exec (.releaseJob c) s = .next t ∧
      if fld c.args 0 4 ∈ u.fb.aborted then (u.releaseJob (fld c.args 0 4)).completes t c 0x52 0 else u.completes t c 0x52 5) ∧
  (∀ (s : State) (c : CmdFrame), s.commandReady c cmdResetPort = true →
    let u := s.heard c.hdr 0
    let k := fld c.args 0 1
    (k < 16 → ∃ t, exec (.resetPort c) s = .next t ∧
      if u.portInUse k then (u.modPort k CourierPort.restart).completes t c 0x53 0 else u.completes t c 0x53 5) ∧
    (16 ≤ k → ∃ t, exec (.resetPort c) s = .next (t.modDsp (k - 16) fun d => { d with state := .training, fallback := false }) ∧
      u.completes t c 0x53 0)) ∧
  (∀ (s : State) (c : CmdFrame), s.commandReady c cmdLoadTime = true →
    let u := s.heard c.hdr 0
    ∃ t, exec (.loadTime c) s = .next t ∧
      if u.tm.valid then u.completes t c 0x55 5 else (u.loadCounter (fld c.args 0 8)).completes t c 0x55 0) ∧
  (∀ (s : State) (c : CmdFrame), s.commandReady c cmdRequestCalibration = true →
    let u := s.heard c.hdr 0
    let tid : TileId := ⟨fld c.args 0 1, fld c.args 2 2⟩
    ∃ t, exec (.requestCalibration c) s = .next t ∧
      if u.enabled tid then (u.requestCal (tid.array (fld c.args 1 1)) 4).completes t c 0x60 0 else u.completes t c 0x60 7)

/-- 12 R406, R418, R424, R425, R427, Table 12.4, 15 R496, Table 15.4. UPDATE_BEGIN opens an empty staging and drops any other; UPDATE_DATA appends
its bytes, and needs one open; UPDATE_COMMIT installs a firmware image that passes every check into the slot that does not run with two tries, and
a record that passes into the other record slot, gives code signature for one that fails a check and code flash where flash cannot be written.
RESET_MODULE is code state while steps are open without FORCE, else it resets the module after its RESPONSE; a module whose flash boots then runs
that image under that record; a module whose cores a crash has halted takes it too (log entry 65). SET_POWER_STATE goes to the state asked for
after its RESPONSE, and is code state while an entry is pending. DUMP writes a dump with cause 4. An opcode not listed gives code opcode. -/
def Obligations.UpdateResetAndDumpCommandsComplete : Prop :=
  (∀ (s : State) (c : CmdFrame), s.commandReady c cmdUpdateBegin = true →
    let u := s.heard c.hdr 0
    ∃ t, exec (.updateBegin c) s = .next t ∧
      State.completes { u with bt := { u.bt with staging := some ⟨fld c.args 0 1, fld c.args 4 4, []⟩ } } t c 0x80 0) ∧
  (∀ (s : State) (c : CmdFrame), s.commandReady c cmdUpdateData = true →
    let u := s.heard c.hdr 0
    ∃ t, exec (.updateData c) s = .next t ∧ (u.bt.staging = none → u.completes t c 0x81 5) ∧
      (∀ g, u.bt.staging = some g → State.completes { u with bt := { u.bt with
        staging := some { g with data := g.data ++ [(fld c.args 0 4, c.args.drop 8)] } } } t c 0x81 0)) ∧
  (∀ (s : State) (c : CmdFrame), s.commandReady c cmdUpdateCommit = true →
    let u := s.heard c.hdr 0
    ∃ t, exec (.updateCommit c) s = .next t ∧ (u.bt.staging = none → u.completes t c 0x82 5) ∧
      (∀ g r, u.bt.staging = some g → u.bt.record = some r → (g.item = none → u.completes t c 0x82 8) ∧
        (∀ b, g.item = some b → g.kind = 1 →
          if firmwareCheck r.minSvn b ≠ 0 then u.completes t c 0x82 8
          else if u.bt.flashWriteError then u.completes t c 0x82 9
          else State.completes { u with bt := { u.bt with
            images := modAt u.bt.images (1 - u.bt.slot) fun _ => some (parseImage b)
            control := { u.bt.control with trial := 1 - u.bt.slot + 1, tries := 2 }
            staging := none } } t c 0x82 0) ∧
        (∀ b, g.item = some b → g.kind ≠ 1 →
          if recordCheck r (match u.bt.image with
              | some i => i.svn
              | none => 0) b ≠ 0 then u.completes t c 0x82 8
          else if u.bt.flashWriteError then u.completes t c 0x82 9
          else State.completes { u with bt := { u.bt with
            records := modAt u.bt.records u.spareRecordSlot fun _ => some (parseRecord b)
            staging := none } } t c 0x82 0))) ∧
  (∀ (s : State) (c : CmdFrame), s.commandReady c cmdResetModule = true →
    let u := s.heard c.hdr 0
    (u.sv.steps ≠ [] → fld c.args 0 1 = 0 → ∃ t, exec (.resetModule c) s = .next t ∧ u.completes t c 0x83 5) ∧
    (u.sv.steps = [] ∨ fld c.args 0 1 = 1 → ∃ t, exec (.resetModule c) s = .next (t.resetModule true) ∧ u.completes t c 0x83 0 ∧
      ∀ r i, u.bootsTo r i → (t.resetModule true).bt.run = .running ∧ (t.resetModule true).bt.record = some r ∧
        (t.resetModule true).bt.image = some i ∧ (t.resetModule true).sv = Serving.reset)) ∧
  (∀ (s : State) (c : CmdFrame), s.bt.run = .halted → s.hcoreRuns = true → s.portHears c.hdr.port = true →
    let u := s.heard c.hdr 0
    u.frameStatus c.hdr 9 true (32 ≤ c.hdr.length) = 0 → u.commandPasses c cmdResetModule = true → u.sv.steps = [] ∨ fld c.args 0 1 = 1 →
    ∃ t, exec (.resetModule c) s = .next (t.resetModule true) ∧ u.completes t c 0x83 0) ∧
  (∀ (s : State) (c : CmdFrame), s.pw.entry = none → s.commandReady c cmdSetPowerState = true →
    ∃ t, exec (.setPowerState c) s = .next (t.goPower (powerOf (fld c.args 0 1))) ∧ (s.heard c.hdr 0).completes t c 0x62 0) ∧
  (∀ (s : State) (c : CmdFrame) (e : PowerEntry), s.pw.entry = some e →
    let bare : State := { s with pw := { s.pw with entry := none } }
    bare.commandReady c cmdPowerPending = true →
    ∃ t, exec (.setPowerState c) s = .next { t with pw := { t.pw with entry := some e } } ∧ (bare.heard c.hdr 0).completes t c 0x62 5) ∧
  (∀ (s : State) (c : CmdFrame), s.commandReady c cmdDump = true →
    ∃ t, exec (.dump c) s = .next t ∧ ((s.heard c.hdr 0).writeDump 4 255 [1, 2, 3, 4, 5]).completes t c 0x90 0) ∧
  (∀ (s : State) (c : CmdFrame) (op : Nat), op ∉ listedOpcodes → c.reserved1 = 0 → c.reserved16 = [] → c.argLength = c.hdr.length - 32 →
    s.commandReady c { cmdReserved op with drainOk := true, want := fun a => a.length } = true →
    ∃ t, exec (.reservedOpcode c op) s = .next t ∧ (s.heard c.hdr 0).completes t c op 1)

/-- 12 R405, Tables 12.3 and 12.4, R421. A command with output is done with nothing changed but its result record: the code, the opcode, the SEQ of
its frame and the length stand in the 32 bytes before the output. READ_PORTS gives 16 bytes for each of the twelve ports, READ_STORM the LOC words
of the latest storm record, ATTEST the report over the nonce with its ECDSA signature under the identity key, READ_IDENTITY the device certificate
and the record in force. (The device secret is a free value, log entry 6; the curve's constants are log entry 54's.) -/
def Obligations.OutputCommandsWriteTheirRecord : Prop :=
  (∀ (s : State) (c : CmdFrame), s.commandReady c cmdReadPorts = true →
    let u := s.heard c.hdr 0
    ∃ t, exec (.readPorts c) s = .next t ∧ u.completes t c 0x54 0 ((List.range 12).flatMap fun k =>
      natLe 1 (u.port k).state.code ++ natLe 1 (u.port k).gen ++ natLe 1 (u.port k).lanes ++ natLe 1 0 ++ natLe 2 (u.port k).partner ++
        natLe 1 (u.port k).pport ++ natLe 9 0)) ∧
  (∀ (s : State) (c : CmdFrame), s.commandReady c cmdReadStorm = true →
    let u := s.heard c.hdr 0
    ∃ t, exec (.readStorm c) s = .next t ∧
      u.completes t c 0x61 0 (u.ev.stormList.flatMap fun a => natLe 4 (a.tile + 16384 * a.die + 65536 * a.arr))) ∧
  (∀ (s : State) (c : CmdFrame), s.commandReady c cmdAttest = true →
    let u := s.heard c.hdr 0
    ∃ t, exec (.attest c) s = .next t ∧
      u.completes t c 0x70 0 (u.reportBody c.args ++ ecdsaSign identityKey (u.reportBody c.args))) ∧
  (∀ (s : State) (c : CmdFrame) (r : ConfigRecord), s.commandReady c cmdReadIdentity = true →
    let u := s.heard c.hdr 0
    u.bt.record = some r →
    ∃ t, exec (.readIdentity c) s = .next t ∧
      u.completes t c 0x71 0 (padTo 384 u.bt.certificate ++ padTo 9216 r.bytes))

/-- 10 R341-R345. While the H core clock runs: the start of an exchange opens a new exchange number and sends one sync on every child port; a sync
from the time parent whose counter is VALID records T1 and T2 and answers with the delay request that carries T3, one whose counter is INVALID ends
the exchange; a delay request is answered with its arrival and the T3 echoed. A delay response that fits the exchange makes the module ALIGNED at
one depth more; an offset of -1 us or more becomes a correction (in the same rack exactly the rounded offset), a lower one steps the counter
forward by it with record 0x0034; the second of two agreeing exchanges loads an INVALID counter with the local time less the offset. A parent in
another rack gives a rate correction beside. Ten milliseconds without an exchange end ALIGNED in every power state, with record 0x0035 where the
counter is VALID. That the delay request goes out
as the sync arrives is the model's reading of log entry 15. -/
def Obligations.TimeExchangesCorrectTheCounter : Prop :=
  (∀ s : State, s.hcoreRuns = true →
    ∃ t, exec .timeExchangeStart s = .next t ∧ t.tm = { s.tm with exchange := none, xseq := (s.tm.xseq + 1) % 2 ^ 32 } ∧
      t.fb.tx.length = s.fb.tx.length + s.childPorts.length ∧ t.sv = s.sv ∧ t.wt = s.wt) ∧
  (∀ (s : State) (port : Nat) (m : TimeMsg) (arrival : Nat), s.hearsTime port = true → m.kind = 0 → s.timeParent = some port →
    (m.valid = false → exec (.timeSync port m arrival) s = .next { s with tm := { s.tm with exchange := none, prevDelay := none } }) ∧
    (m.valid = true → ∃ t c t3, exec (.timeSync port m arrival) s = .next t ∧ t.tm.exchange = some ⟨m.seq, m.stampA, arrival⟩ ∧
      arrival ≤ t3 ∧ t.fb.tx = s.fb.tx ++ [c] ∧ c.port = port ∧
      c.payload = timeBytes 1 s.timeDepth s.timeFlags m.seq t3 0 ∧ t.sv = s.sv)) ∧
  (∀ (s : State) (port : Nat) (m : TimeMsg) (arrival : Nat), s.hearsTime port = true → m.kind = 1 →
    ∃ t c, exec (.timeDelayRequest port m arrival) s = .next t ∧ t.fb.tx = s.fb.tx ++ [c] ∧ c.port = port ∧
      c.payload = timeBytes 2 s.timeDepth s.timeFlags m.seq arrival m.stampA ∧ t.sv = s.sv) ∧
  (∀ (s : State) (port : Nat) (m : TimeMsg) (e : Exchange), s.hearsTime port = true → m.kind = 2 → s.timeParent = some port →
    s.tm.exchange = some e → e.seq = m.seq → (s.port port).link.departed = some m.stampB → m.valid = true →
    let o2 : Int := (e.t2 - e.t1) - ((m.stampA : Int) - m.stampB)
    let d2 : Int := (e.t2 - e.t1) + ((m.stampA : Int) - m.stampB)
    let seen : Clocks := { s.tm with exchange := none, lastExchange := some s.tm.tick, aligned := true, depth := (m.depth + 1) % 256 }
    (s.tm.valid = true → -8000 ≤ o2 → s.parentElsewhere port = false →
      exec (.timeDelayResponse port m) s = .next { s with tm := { seen with correction := roundEven o2 32, rates := [], rate := 0 } }) ∧
    (s.tm.valid = true → -8000 ≤ o2 → s.parentElsewhere port = true →
      let rates := (roundEven o2 32 :: s.tm.rates).take 16
      exec (.timeDelayResponse port m) s = .next { s with tm := { seen with
        correction := roundEven o2 32, rates := rates, rate := if rates.length < 16 then 0 else Config.rateCorrection rates } }) ∧
    (s.tm.valid = true → o2 < -8000 →
      let n := (-(roundEven o2 32)).toNat
      ∃ t, exec (.timeDelayResponse port m) s = .next t ∧ t.tm = { seen with counter := s.tm.counter + n, correction := 0 } ∧
        t.ev.held.getLast? = some ⟨0x0034, 4, s.ev.next, t.tm.counter, [n % 2 ^ 32, n / 2 ^ 32 % 2 ^ 32]⟩) ∧
    (∀ d, s.tm.valid = false → s.tm.prevDelay = some d → (d2 - d).natAbs ≤ 32 →
      ∃ t, exec (.timeDelayResponse port m) s = .next t ∧ t.tm.valid = true ∧
        t.tm.counter = ((s.tm.tick : Int) - roundEven o2 32).toNat ∧ t.tm.correction = 0 ∧ t.tm.tick = s.tm.tick)) ∧
  (∀ (s : State) (x : Nat), s.tm.lastExchange = some x → s.tm.aligned = true → s.tm.valid = true → s.isRoot = false →
    ∃ t, exec .alignmentLost s = .next t ∧ t.tm.aligned = false ∧ t.tm.tick = max s.tm.tick (x + 2500000) ∧
      t.ev.held.getLast? = some ⟨0x0035, 4, s.ev.next, t.tm.counter, [s.timeParent.getD 15]⟩ ∧ t.sv = s.sv) ∧
  (∀ (s : State) (x : Nat), s.tm.lastExchange = some x → s.tm.aligned = true → s.tm.valid = false → s.isRoot = false →
    ∃ t, exec .alignmentLost s = .next t ∧ t.tm.aligned = false ∧ t.tm.tick = max s.tm.tick (x + 2500000) ∧ t = { s with tm := t.tm })

/-- 01 R20, R21, R24, 13 R439. The command moves time to the first multiple of 2,500 ticks at or after now, of the VALID counter, else of the ticks
since power-up or the exit from P4 Seal. In P0 Run every tile's letterbox counters take the counts as they stand, with the time of the boundary,
trims that wait take effect, a tile's in-field test that is due may begin (14 R480) and every mirror is fresh; in P1 only the mirrors of the H side
are; nothing else changes. In P2 and P3 nothing but time changes (P2: the model's reading of log entry 52). -/
def Obligations.StepBoundariesComeEvery2500Ticks : Prop :=
  (∀ s : State, s.pw.supplied = true → s.pw.stop = none → s.pw.state ≠ .p4 →
    ∃ t, exec .stepBoundary s = .next t ∧ t.boundaryClock % 2500 = 0 ∧ s.boundaryClock ≤ t.boundaryClock ∧
      t.boundaryClock < s.boundaryClock + 2500 ∧
      t.tm = (if s.tm.valid then s.counterTo t.tm.counter else s.advanceTo t.tm.tick).tm ∧
      (s.tm.valid = true → t.tm.counter % 2500 = 0) ∧
      (s.tm.valid = false → s.tm.boundFrom ≤ s.tm.tick → (t.tm.tick - s.tm.boundFrom) % 2500 = 0) ∧ t.sv = s.sv ∧ t.bt = s.bt ∧ t.ev = s.ev ∧ t.wt = s.wt ∧
      (s.pw.state = .p0 →
        t.tl.tiles = s.tl.tiles.map (fun x =>
          { x with mirror := [x.cntFire, x.cntNull, x.cntRepeat, x.cntMismatch, x.cntFallback],
                   test := { x.test with boundary := x.test.boundary || x.test.due } }) ∧ t.tl.mirrorTime = t.time ∧
        (∀ n < 4, at' t.cl.trims n (0, 0) = (at' s.cl.nextTrims n none).getD (at' s.cl.trims n (0, 0)))) ∧
      (s.pw.state = .p0 → t.rg = { s.rg with
        mirrorA := [false, false, false, false], mirrorHbm := false, mirrorCourier := false, mirrorDispatch := false }) ∧
      (s.pw.state = .p1 → t.rg = { s.rg with mirrorHbm := false, mirrorCourier := false, mirrorDispatch := false } ∧ t.tl = s.tl ∧ t.cl = s.cl) ∧
      (s.pw.state = .p2 ∨ s.pw.state = .p3 → t = { s with tm := t.tm }))

/-- 10 R329, R330, R334, R335, R352, R353. An activation record for no open step is held while it fits in 16 MiB, else dropped and counted; for an
open step it is dropped and counted when its epoch is lower, else placed with those of its epoch. Held records of a token 100 ms old are dropped. A
control notice of a defined KIND, or 50 ms of the longest wait, declares the job aborted, at most once: its ledgers and held activations go, and no
round of it begins: a sorting round takes no step of an aborted job, and with none else waiting it takes none. What an aborted job's open steps
keep, and what counts as a wait, are the model's reading (log entries 33, 34). Work that a record issues in P1 Hold wakes the module (15 R492). A
frame for another module leaves on its route with HOPS raised by one; with HOPS 15 it is dropped and record 0x0033 raised; without a usable port it
is dropped and its job aborted. -/
def Obligations.CourierFramesFindTheirStepOrAbort : Prop :=
  (∀ (s : State) (h : CourierHdr) (p : Bytes), s.carried h 3 = true → activationOk p = true →
    let a := parseActivation h.job s.tm.tick p
    (s.jobStep h.job a.step = none →
      (sumList (s.fb.held.map Activation.size) + a.size ≤ 16777216 → ∃ t, exec (.activationRecord h p) s = .next t ∧ t.fb.held = s.fb.held ++ [a] ∧ t.rg = s.rg) ∧
      (16777216 < sumList (s.fb.held.map Activation.size) + a.size → ∃ t, exec (.activationRecord h p) s = .next t ∧ t.fb = s.fb ∧
        t.rg.dropActivation = s.rg.dropActivation + 1)) ∧
    (∀ o, s.jobStep h.job a.step = some o →
      (a.epoch < o.epoch → ∃ t, exec (.activationRecord h p) s = .next t ∧ t.fb = s.fb ∧ t.sv = s.sv ∧ t.rg.dropActivation = s.rg.dropActivation + 1) ∧
      (o.epoch ≤ a.epoch → (∀ x ∈ s.fb.activations, x.sameStep a = true → x.epoch = a.epoch) →
        ∃ u : State, u.fb.activations = s.fb.activations ++ [a] ∧ u.sv = s.sv ∧ exec (.activationRecord h p) s = .next ((u.wakeTokens o a.token).scheduleWakes s)))) ∧
  (∀ (s : State) (job step token : Nat) (a : Activation),
    s.fb.held.find? (fun a => a.job == job && a.step == step && a.token == token) = some a →
    ∃ t, exec (.activationHoldTimeout job step token) s = .next t ∧ t.tm.tick = max s.tm.tick (a.since + 25000000) ∧ a ∉ t.fb.held ∧
      (∀ x ∈ s.fb.held, x.job ≠ job → x ∈ t.fb.held) ∧ s.rg.dropActivation < t.rg.dropActivation) ∧
  (∀ (s : State) (h : CourierHdr) (p : Bytes), s.carried h 5 = true → p.length = 16 → fld p 0 1 ≤ 1 → fld p 4 4 ≠ 0 → s.fb.aborted.contains (fld p 4 4) = false →
    (∃ t, exec (.moduleDownNotice h p) s = .next t ∧ t.abortsJob (fld p 4 4)) ∧ ∃ t, exec (.jobAbortNotice h p) s = .next t ∧ t.abortsJob (fld p 4 4)) ∧
  (∀ (s : State) (h : CourierHdr) (p : Bytes), s.carried h 5 = true → p.length = 16 → fld p 0 1 ≤ 1 → s.fb.aborted.contains (fld p 4 4) = true →
    (∃ t, exec (.moduleDownNotice h p) s = .next t ∧ t.fb = s.fb ∧ t.rg.dropJob = s.rg.dropJob + 1) ∧
    ∃ t, exec (.jobAbortNotice h p) s = .next t ∧ t.fb = s.fb ∧ t.rg.dropJob = s.rg.dropJob + 1) ∧
  (∀ (s : State) (job n : Nat), job ≠ 0 → s.fb.aborted.contains job = false →
    ((s.liveSteps.filter fun o => o.cmd.job == job && job != 0 && !o.aborted).filterMap s.waitsSince).min? = some n →
    ∃ t, exec (.jobWaitTimeout job) s = .next t ∧ t.tm.tick = max s.tm.tick (n + 12500000) ∧ t.abortsJob job) ∧
  (∀ (s : State) (q : Queue) (w : Waiting), s.nextQueue = some (q, w) → let c := parseStep w.tuiven1 w.payload
    q.waiting.head? = some w ∧ (c.job = 0 ∨ s.fb.aborted.contains c.job = false)) ∧
  (∀ (s : State) (core : Nat), s.inRun = true → s.firmwareRuns = true → core < 4 →
    (∀ q ∈ s.retryStalled.sv.queues, ∀ w, q.waiting.head? = some w →
      (parseStep w.tuiven1 w.payload).job ≠ 0 ∧ s.retryStalled.fb.aborted.contains (parseStep w.tuiven1 w.payload).job = true) →
    exec (.sortingRound core) s = .next s.retryStalled) ∧
  (∀ (s : State) (h : CourierHdr) (p : Bytes), s.arrives h = true → s.isDest h = false →
    (15 ≤ h.hops → ∃ (t : State) (r : Record), exec (.courierFrameRoute h p) s = .next t ∧ t.fb = s.fb ∧ t.rg.dropHops = s.rg.dropHops + 1 ∧
      t.ev.held.getLast? = some r ∧ r.code = 0x0033) ∧
    (h.hops < 15 → ∀ k d, s.routePort h = some (k, d) → ∃ t c, exec (.courierFrameRoute h p) s = .next t ∧ t.fb.tx = s.fb.tx ++ [c] ∧ c.port = k ∧
      c.hdr.hops = h.hops + 1 ∧ c.hdr.dest = h.dest ∧ c.hdr.detoured = (h.detoured || d) ∧ c.payload = p ∧ t.sv = s.sv) ∧
    (h.hops < 15 → s.routePort h = none → h.job ≠ 0 → s.fb.aborted.contains h.job = false →
      ∃ t, exec (.courierFrameRoute h p) s = .next t ∧ s.rg.dropNoPort < t.rg.dropNoPort ∧ t.abortsJob h.job)) ∧
  (∀ (s : State) (h : CourierHdr) (p : Bytes), s.carried h h.type = true → s.arrives h = true → s.isDest h = true →
    exec (.courierFrameRoute h p) s = .next (State.scheduleWakes
      (if h.type = 1 then (if fld p 1 1 = 1 then s.takeReplay p else s.takeContribution p)
       else if h.type = 2 then s.takeParcel p else if h.type = 3 then s.takeActivation h.job p else if h.type = 5 then s.takeControl p
       else if h.type = 4 ∨ h.type = 6 then s else { s with rg := { s.rg with dropType := s.rg.dropType + 1 } }) s)) ∧
  (∀ s u : State, (u.pw.state ≠ .p1 ∨ u.sv.nextInput = s.sv.nextInput → u.scheduleWakes s = u) ∧
    (u.pw.state = .p1 → u.sv.nextInput ≠ s.sv.nextInput → u.pw.supplied = true → u.pw.stop = none → u.isDrained = false → u.pw.hold = .none →
      (u.scheduleWakes s).pw.state = .p0 ∧ (u.scheduleWakes s).pw.wake = 6 ∧ (u.scheduleWakes s).sv = u.sv))

/-- 06 R168, R170, R177, R192, R193, R546, 04 R116, 16 R539, Table 16.9. A PARCEL frame, from the host or over the Courier, places its data in its
parcel; a whole parcel that does not address the module is dropped. Accepting a whole addressed parcel releases its assembly, sends event 1, and,
with status 0 alone, makes it a master and takes its FREE arrays to LOADING; any other status leaves masters and arrays as they were. A parcel whose
latest frame is 1 s old is dropped. A record that is built is loaded into a LOADING array; of a working array it is kept when its digest is the one
the array holds, and takes the array out of service when it is not (COVERED, where the spare stands in for it and it can be programmed); once arrays
are ready an UNBOUND array is scanned, with a class 1 request where its calibration is unsound, or under another digest goes to LOADING and is
programmed. -/
def Obligations.ParcelsAreAssembledAndAccepted : Prop :=
  (∀ (s : State) (h : FrameHdr) (p : Bytes), s.takes h 0 15 true (16 ≤ p.length) = true →
    ∃ t, exec (.parcelFrame h p) s = .next t ∧ (s.heard h 0).assembles t true (fld p 0 4) (fld p 4 4) (fld p 8 8) (p.drop 16)) ∧
  (∀ (s : State) (h : CourierHdr) (p : Bytes), s.carried h 2 = true → 16 ≤ p.length →
    ∃ t, exec (.courierParcelFrame h p) s = .next t ∧ s.assembles t false (fld p 0 4) (fld p 4 4) (fld p 8 8) (p.drop 16)) ∧
  (∀ (s : State) (model index : Nat) (a : Assembly) (h : ParcelHdr), s.hcoreRuns = true → s.wt.assembling.find? (fun a => a.is model index) = some a →
    a.header = some h → a.whole = true → s.addressed h = true →
    ∃ t, exec (.parcelAcceptance model index) s = .next t ∧ t.wt.assembling.find? (fun a => a.is model index) = none ∧
      (s.feature 11 = true → t.ev.asyncNext = (s.ev.asyncNext + 1) % 2 ^ 32) ∧
      (∃ u : State, u.tm = s.tm ∧ t = u.async 1 (natLe 4 model ++ natLe 4 index ++ natLe 2 s.fb.coord ++
        natLe 1 (s.parcelCheck h a.held (maxList (a.pieces.map fun p => p.1 + p.2.length))))) ∧
      (s.parcelCheck h a.held (maxList (a.pieces.map fun p => p.1 + p.2.length)) ≠ 0 → t.wt.masters = s.wt.masters ∧ t.wt.directory = s.wt.directory) ∧
      (s.parcelCheck h a.held (maxList (a.pieces.map fun p => p.1 + p.2.length)) = 0 →
        (∃ m, t.master h.model h.index = some m ∧ m.hdr = h ∧ m.payload = slice a.held 128 h.length) ∧
        ∀ x ∈ h.arrayList, (s.dir x).astate = .free → (t.dir x).astate = .loading ∧ (t.dir x).model = h.model)) ∧
  (∀ (s : State) (model index : Nat) (a : Assembly), s.hcoreRuns = true → s.wt.assembling.find? (fun a => a.is model index) = some a → a.whole = false →
    ∃ t, exec (.parcelIncompleteTimeout model index) s = .next t ∧ t.tm.tick = max s.tm.tick (a.lastArrival + ticksPerSec) ∧
      t.wt.assembling.find? (fun a => a.is model index) = none ∧ t.wt.masters = s.wt.masters ∧ t.wt.directory = s.wt.directory) ∧
  (∀ (s : State) (a : ArrId) (m : Master), s.inRun = true → s.masterOf a = some m → s.record a = none → a.arr ≠ 16 → a ∈ m.hdr.arrayList →
    ((s.dir a).astate = .loading → ∃ t, exec (.recordBuilt a) s = .next t ∧ t.record a = some (parcelRecord m (m.position a)) ∧
      (t.tile a.tid).progQueue = (s.tile a.tid).progQueue ++ [mkProgram a.arr a.arr false]) ∧
    ((s.dir a).astate = .inService → (parcelRecord m (m.position a)).digest = (s.dir a).recordDigest →
      exec (.recordBuilt a) s = .next (s.setRecord a (parcelRecord m (m.position a)))) ∧
    ((s.dir a).astate = .inService → (parcelRecord m (m.position a)).digest ≠ (s.dir a).recordDigest →
      ∃ t, exec (.recordBuilt a) s = .next t ∧ (∀ x ∈ t.wt.masters, x.hdr = m.hdr → x.invalid = true) ∧
        (t.dir a).astate = (if (s.tile a.tid).standIn = some a.arr ∧ (s.dir a).retired = false then .covered else .outOfService)) ∧
    ((s.dir a).astate = .unbound → s.bt.arraysReady = false → exec (.recordBuilt a) s = .next (s.setRecord a (parcelRecord m (m.position a)))) ∧
    ((s.dir a).astate = .unbound → s.bt.arraysReady = true → (parcelRecord m (m.position a)).digest = (s.dir a).recordDigest →
      let u := s.setRecord a (parcelRecord m (m.position a))
      exec (.recordBuilt a) s = .next ((if u.calSound a then u else u.requestCal a 1).startScan a)) ∧
    ((s.dir a).astate = .unbound → s.bt.arraysReady = true → (parcelRecord m (m.position a)).digest ≠ (s.dir a).recordDigest →
      ∃ t, exec (.recordBuilt a) s = .next t ∧ (t.dir a).astate = .loading ∧
        (t.tile a.tid).progQueue = (s.tile a.tid).progQueue ++ [mkProgram a.arr a.arr false]))

/-- 06 R180-R182, R184, R185, R197, R203. A program taken from the queue begins with an erase that is counted in the array's wear; a program that
is and serves no rewrite waits while 4,096 drivers of the die work, and a rewrite takes the driver from a load that is paused, displaced or in its
erase. At a row's end the row is counted, and outside the temperature window the program pauses; a rewrite that waits puts a load aside. Inside the
window of resumption a paused program goes on, and inside the window a displaced one. A pause of 1 s raises record 0x000D once. A verified program
settles with its codes in the cells, and the driver goes on with what it put aside; a failed one is run again, at once inside the window, and the
second failure drains the module with cause 4. A settled array is in service with a zero drift table, or out of service at once where its record has
been dropped meanwhile; a settled spare without a claim is READY while its codes are those of the array it was loaded for. That a rewrite begins
although 4,096 drivers of the die work and no load can be paused is the model's choice (log entry 61; R182 allows 4,096), as are the corners of log
entries 25 and 72. -/
def Obligations.ProgramsRunRowByRowAndSettle : Prop :=
  (∀ (s : State) (id : TileId) (p : Program), s.nextProgram (s.tile id) = some p → s.inRun = true → s.enabled id = true →
    (s.tile id).prog = none ∨ (s.urgent (s.tile id) p = true ∧ s.loadIdles (s.tile id) = true) → s.sealing = false → s.isDrained = false → s.progWindow id = true →
    (s.urgent (s.tile id) p = false → 4096 ≤ s.driversOf id.die → exec (.programStart id) s = .next s) ∧
    (s.urgent (s.tile id) p = true ∨ s.driversOf id.die < 4096 → ∃ t, exec (.programStart id) s = .next t ∧ (t.tile id).prog = some (s.begun id p) ∧
      (t.tile id).preempted = (s.tile id).prog.toList ++ (s.tile id).preempted ∧
      (t.tile id).progQueue = (s.tile id).progQueue.erase p ∧ (t.dir (id.array p.arr)).wear = (s.dir (id.array p.arr)).wear + 1 ∧
      ((s.dir (id.array p.arr)).wear + 1 = 28000 → ∃ r, t.ev.held.getLast? = some r ∧ r.code = 0x000E))) ∧
  (∀ (s : State) (id : TileId) (p p1 : Program), (s.tile id).prog = some p → s.inRun = true → p.pausedAt = none → p.displaced = false →
    (s.tile id).test.running = false → p.row < 256 →
    p1 = { p with phase := .rows, row := if p.phase = .erase then 0 else p.row + 1, pausedAt := if (if p.phase = .erase then 0 else p.row + 1) < 256 ∧ s.progWindow id = false then some s.tm.tick else none } →
    (s.urgentProgram (s.tile id) = none ∨ s.isLoad id p1 = false ∨ s.progWindow id = false ∨ s.sealing = true →
      ∃ t, exec (.programRowEnd id) s = .next t ∧ (t.tile id).prog = some p1 ∧ (t.tile id).preempted = (s.tile id).preempted) ∧
    (∀ q, s.urgentProgram (s.tile id) = some q → s.isLoad id p1 = true → s.progWindow id = true → s.sealing = false →
      ∃ t, exec (.programRowEnd id) s = .next t ∧ (t.tile id).preempted = p1 :: (s.tile id).preempted ∧ (t.tile id).prog = some (s.begun id q))) ∧
  (∀ (s : State) (id : TileId) (p : Program), (s.tile id).prog = some p → s.inRun = true →
    (p.pausedAt ≠ none ∧ s.resumeWindow id = true) ∨ (p.pausedAt = none ∧ p.displaced = true ∧ s.progWindow id = true) →
    (p.displaced = true → s.driversOf id.die < 4096) →
    let q : Program := { p with pausedAt := none, displaced := false, deferred := false }
    (p.phase ≠ .waiting → ∃ t, exec (.programResume id) s = .next t ∧ (t.tile id).prog = some q) ∧
    (p.phase = .waiting → ∃ t, exec (.programResume id) s = .next t ∧ (t.tile id).prog = some (s.begun id q) ∧
      (t.dir (id.array p.arr)).wear = (s.dir (id.array p.arr)).wear + 1)) ∧
  (∀ (s : State) (id : TileId) (p : Program) (n : Nat), (s.tile id).prog = some p → p.pausedAt = some n → p.deferred = false → s.inRun = true →
    ∃ t r, exec (.programmingDeferred id) s = .next t ∧ t.tm.tick = max s.tm.tick (n + ticksPerSec) ∧ (t.tile id).prog = some { p with deferred := true } ∧
      t.ev.held.getLast? = some r ∧ r.code = 0x000D ∧ r.source = id.die) ∧
  (∀ (s : State) (id : TileId) (p : Program), (s.tile id).prog = some p → s.inRun = true → p.row = 256 → p.displaced = false →
    (∃ u : State, (u.tile id).settling = (s.tile id).settling ++ [(p.arr, p.source, p.calRecord)] ∧ (u.tile id).preempted = (s.tile id).preempted.tail ∧
      ((s.tile id).preempted = [] → (u.tile id).prog = none) ∧ (∀ q, (s.tile id).preempted.head? = some q → s.progWindow id = true → (u.tile id).prog = some q) ∧
      (∀ r, p.codes = some r → u.cells (id.array p.arr) = some r) ∧ (u.dir (id.array p.arr)).wear = (s.dir (id.array p.arr)).wear ∧
      exec (.programComplete id true) s = .next u.tryEntry) ∧
    (p.cycles < 2 → s.progWindow id = true → ∃ t, exec (.programComplete id false) s = .next t ∧ (t.tile id).prog = some (s.begun id p) ∧
      (t.dir (id.array p.arr)).wear = (s.dir (id.array p.arr)).wear + 1) ∧
    (p.cycles < 2 → s.progWindow id = false → ∃ t, exec (.programComplete id false) s = .next t ∧ t.wt = s.wt ∧
      (t.tile id).prog = some { p with phase := .waiting, row := 0, pausedAt := some s.tm.tick }) ∧
    (2 ≤ p.cycles → s.isDrained = false → ∃ t, exec (.programComplete id false) s = .next t ∧ t.bt.drained = some 4 ∧ t.holdsP1 .drained)) ∧
  (∀ (s : State) (id : TileId) (k src : Nat) (c : Bool) (rest : List (Nat × Nat × Bool)), (s.tile id).settling = (k, src, c) :: rest → s.inRun = true →
    (k ≠ 16 → (s.dir (id.array k)).astate = .settling → (s.dir (id.array k)).wear < 30000 →
      ∃ u : State, (u.dir (id.array k)).astate = .inService ∧ u.drift (id.array k) = freshDrift ∧ u.record (id.array k) = s.record (id.array k) ∧
        exec (.settlingDone id) s = .next ((State.askIfUnsound
          (if (s.record (id.array k)).isSome then u else u.outOfService (id.array k)) (id.array k)).tryEntry)) ∧
    (k = 16 → c = false → (s.tile id).claim = none → (s.dir (id.array 16)).wear < 30000 → s.holdsCodesOf id src = true →
      ∃ u : State, (u.tile id).spare = .ready src ∧ (u.dir (id.array 16)).spareTag = some src ∧ u.drift (id.array 16) = freshDrift ∧
        exec (.settlingDone id) s = .next u.tryEntry))

/-- 04 R115, R116, 06 R189, R191, R192, R199-R201, 16 R539, Table 16.9. A verify scan that is due has 2,048 fires to make, once arrays are ready.
When they are done the drift entry takes the scan's column drifts and D; read-back codes with another digest raise record 0x0006 and take a working
array out of service; an UNBOUND array with a record is in service where its codes agree, and else goes to LOADING and is programmed as new (R539).
Cells that a program cut short left differ in a number of cells that is a free value (log entry 62). An array whose D has reached half a code goes
out of service with record 0x0005. (Out of service is COVERED where the spare stands in for the array and it can be programmed: State.stateOut.) A
rewrite of an array that the spare covers is queued at once; else the spare is claimed; the direct rewrite that is next, the oldest that the spare
cannot serve, begins once no fire of its cells is in flight or repeats, and puts the running program aside at once. A re-digest marks every named
master invalid and rebuilds a record from a valid master whose record has the entry's digest; without a valid master the record is dropped and a
working array in service goes out of it. -/
def Obligations.ArraysAreScannedRewrittenAndRedigested : Prop :=
  (∀ (s : State) (a : ArrId), let u := s.wakeForTask
    u.inRun = true → u.enabled a.tid = true → a.arr ≤ 16 → u.isDrained = false → u.bt.arraysReady = true → u.workStops = false →
    (∀ e ∈ (u.tile a.tid).scans, e.1 ≠ a.arr) →
    ∃ t, exec (.verifyScanDue a) s = .next t ∧ (t.tile a.tid).scans = (u.tile a.tid).scans ++ [(a.arr, 2048)] ∧
      (t.tile a.tid).fires = (u.tile a.tid).fires) ∧
  (∀ (s : State) (a : ArrId) (raw : List (List (List Int))) (r : CodeRecord), s.inRun = true → (s.tile a.tid).scans.contains (a.arr, 0) = true → s.scanCodes a = some r →
    let levels := scanLevels (s.scanSet (s.tile a.tid) a.arr) raw
    let d := deviations r levels
    let delta := driftDeltas (relative d)
    let back := readBackRecord r levels d delta
    ∃ u : State, u.drift a = (s.drift a).scanned delta (driftD (relative d)) s.stamp ∧ (u.tile a.tid).scans = (s.tile a.tid).scans.filter (fun e => e.1 != a.arr) ∧
      u.dir a = s.dir a ∧
      (back.codeDigest = (s.dir a).codeDigest → (s.dir a).astate ≠ .unbound ∨ s.record a = none → exec (.verifyScanDone a raw) s = .next u) ∧
      (back.codeDigest = (s.dir a).codeDigest → (s.dir a).astate = .unbound → s.record a ≠ none →
        exec (.verifyScanDone a raw) s = .next ((u.modDir a fun e => { e with astate := .inService }).askIfUnsound a)) ∧
      (back.codeDigest ≠ (s.dir a).codeDigest → a.arr ≠ 16 → (s.dir a).astate = .inService → ∃ t, exec (.verifyScanDone a raw) s = .next t ∧
        t = (u.raise 0x0006 a.die [locOf a, cellDiffs back r]).outOfService a ∧ (t.dir a).astate = s.stateOut a) ∧
      (back.codeDigest ≠ (s.dir a).codeDigest → a.arr ≠ 16 → (s.dir a).astate = .unbound → s.record a ≠ none →
        ∃ t, exec (.verifyScanDone a raw) s = .next t ∧ (t.dir a).astate = .loading ∧
          (t.tile a.tid).progQueue = (s.tile a.tid).progQueue ++ [mkProgram a.arr a.arr false] ∧
          ∃ r', t.ev.held.getLast? = some r' ∧ r'.code = 0x0006 ∧ r'.detail = [locOf a, cellDiffs back r])) ∧
  (∀ (s : State) (a : ArrId) (raw : List (List (List Int))), s.inRun = true → (s.tile a.tid).scans.contains (a.arr, 0) = true → s.scanCodes a = none →
    a.arr ≠ 16 → (s.dir a).astate = .inService →
    ∃ (t u : State) (n : Nat), exec (.verifyScanDone a raw) s = .next t ∧ 0 < n ∧ t = (u.raise 0x0006 a.die [locOf a, n]).outOfService a ∧
      u.dir a = s.dir a ∧ (u.tile a.tid).scans = (s.tile a.tid).scans.filter (fun e => e.1 != a.arr)) ∧
  (∀ (s : State) (a : ArrId), s.inRun = true → (s.dir a).astate = .inService → a.arr ≠ 16 → s.tm.valid = true →
    (s.drift a).reached s.tm.counter 2048 = true →
    ∃ (t u : State) (r : Record), exec (.driftOutOfService a) s = .next t ∧ (t.dir a).astate = s.stateOut a ∧ t = u.outOfService a ∧
      u.ev.held.getLast? = some r ∧ r.code = 0x0005 ∧ r.source = a.die ∧ u.wt = s.wt) ∧
  (∀ (s : State) (a : ArrId), s.inRun = true → (s.tile a.tid).rewrites.contains a.arr = true → s.rewritable a = true → s.sealing = false →
    ((s.tile a.tid).standIn = some a.arr → ∃ t, exec (.rewriteStart a) s = .next t ∧ (t.dir a).astate = .covered ∧
      (t.tile a.tid).progQueue = (s.tile a.tid).progQueue ++ [mkProgram a.arr a.arr false] ∧
      (t.tile a.tid).rewrites = (s.tile a.tid).rewrites.filter (fun k => k != a.arr)) ∧
    ((s.tile a.tid).standIn ≠ some a.arr → s.claimable a.tid a.arr = true → s.calValid (a.tid.array 16) = true → (s.tile a.tid).spare = .idle →
      ∃ t, exec (.rewriteStart a) s = .next t ∧ (t.tile a.tid).claim = some (.rewrite, a.arr) ∧ (t.tile a.tid).spare = .loading a.arr ∧
        (t.tile a.tid).progQueue = (s.tile a.tid).progQueue ++ [mkProgram 16 a.arr false])) ∧
  (∀ (s : State) (a : ArrId), s.inRun = true → a.arr < 16 → s.directNext a.tid = some a.arr → (s.tile a.tid).firing a.arr = false → s.directBusy a.tid = false → s.progWindow a.tid = true →
    s.sealing = false →
    ∃ t, exec (.directRewriteStart a) s = .next t ∧ (t.dir a).astate = .rewriting ∧ (t.dir a).wear = (s.dir a).wear + 1 ∧
      (t.tile a.tid).preempted = (s.tile a.tid).prog.toList ++ (s.tile a.tid).preempted ∧
      (t.tile a.tid).rewrites = (s.tile a.tid).rewrites.filter (fun k => k != a.arr) ∧
      (t.tile a.tid).prog = some { mkProgram a.arr a.arr false with began := s.tm.tick, cycles := 1, codes := s.record a }) ∧
  (∀ (s : State) (a : ArrId) (m : Master) (old : CodeRecord), s.wakeForTask.inRun = true → s.wakeForTask.record a = some old → s.wakeForTask.masterOf a = some m →
    (parcelRecord m (m.position a)).digest = (s.wakeForTask.dir a).recordDigest →
    ∃ t, exec (.redigest [] [a]) s = .next t ∧ t.record a = some (parcelRecord m (m.position a))) ∧
  (∀ (s : State) (a : ArrId) (old : CodeRecord), s.wakeForTask.inRun = true → s.wakeForTask.record a = some old → s.wakeForTask.masterOf a = none →
    ∃ t, exec (.redigest [] [a]) s = .next t ∧ t.record a = none ∧
      (t.dir a).astate = (if (s.wakeForTask.dir a).astate = .inService then .outOfService else (s.wakeForTask.dir a).astate)) ∧
  (∀ (s : State) (model index : Nat), s.wakeForTask.inRun = true →
    ∃ t, exec (.redigest [(model, index)] []) s = .next t ∧ t.wt.records = s.wakeForTask.wt.records ∧ t.wt.directory = s.wakeForTask.wt.directory ∧
      ∀ x ∈ t.wt.masters, x.hdr.model = model → x.hdr.index = index → (s.wakeForTask.master model index).isSome = true → x.invalid = true)

/-- 02 R47, R49, R51, R62, R63, 04 R106, R117, 05 R143, 07 R215. Fetched lists enter the cache, of at most its bytes, once the arrays that no open
step names have made room for them; else the fetch goes on (the model's choice, log entry 61: R106 does not say). A boundary counts the tile's slot
and, while the module is drained, latches nothing; every sixteenth slot of a run is its own fire. A null fire's codes are not taken; an over-range
above range code 0 discards the codes and makes the fire due again one range lower; codes within range are clamped to 8 bits and corrected for the
inputs latched with the fire. A postmark mismatch drops the fire, counts it and raises record 0x0002. A fire that passed is added to its bank with
its weights, if the bank holds its reduction and its epoch stands. The outlier lane takes the oldest contribution due, of bank 0 first.
(State.tryEntry is what a power entry that waits for fires does after one of them, 02 R52.) -/
def Obligations.AFireGoesFromLatchToBank : Prop :=
  (∀ (s : State) (a : ArrId) (r : CodeRecord), s.inRun = true → s.record a = some r → (s.region a.die (unitOf a.tid)).fetching.contains a = true →
    let g := s.region a.die (unitOf a.tid)
    let e := s.fetchedLists a
    let kept := s.cacheRoom (s.cacheBytes [e]) g.cache.length (g.cache.filter fun y => y.arr != a)
    ∃ t, exec (.listFetchDone a) s = .next t ∧ t.tl.tiles = s.tl.tiles ∧ (t.region a.die (unitOf a.tid)).jobs = g.jobs ∧
      (∀ y ∈ kept, y ∈ g.cache) ∧ (∀ y ∈ g.cache, y.arr ≠ a → s.arrayNamed y.arr = true → y ∈ kept) ∧
      (s.cacheBytes kept + s.cacheBytes [e] ≤ listCacheBytes → (t.region a.die (unitOf a.tid)).cache = e :: kept ∧
        (t.region a.die (unitOf a.tid)).fetching = g.fetching.filter (fun y => y != a)) ∧
      (listCacheBytes < s.cacheBytes kept + s.cacheBytes [e] → (t.region a.die (unitOf a.tid)).cache = kept ∧
        (t.region a.die (unitOf a.tid)).fetching = g.fetching)) ∧
  (∀ (s : State) (id : TileId), s.enabled id = true → s.inRun = true → (s.tile id).array = none → s.enteringP1 = false →
    let u := s.boundary id
    let n := (s.tile id).slotNo
    (u.tile id).slotNo = n + 1 ∧
    (u.isDrained = true → exec (.fireLatch id) s = .next u) ∧
    (u.isDrained = false → (u.tile id).test.running = false → exec (.fireLatch id) s = .next (u.chooseSlot id n).stampLines) ∧
    (∀ r, u.isDrained = false → (u.tile id).test.running = false → (u.tile id).repeatDue = none → u.pairBegun id = false → (u.tile id).run = some r →
      u.runDue (u.tile id) = true → n % 16 = 0 →
      ∃ t r', exec (.fireLatch id) s = .next t ∧ (t.tile id).run = some r' ∧ r'.fires = r.fires + 1 ∧ (t.tile id).fires = (u.tile id).fires)) ∧
  (∀ (s : State) (id : TileId) (codes : List Int) (flags : List Bool) (fl : Flight), (s.tile id).array = some fl → (s.tile id).scaler = none →
    (fl.null = true → ∃ t, exec (.converterResult id codes flags) s = .next t ∧
      t.tile id = { s.tile id with array := none, scaler := some { fl with converted := true } }) ∧
    (fl.null = false → flags.any (fun b => b) = true → fl.fire.range ≠ 0 →
      let again := if s.redLive fl.fire.red && ((s.tile id).bank fl.bank).red == some fl.fire.red then some { fl.fire with range := fl.fire.range - 1 } else none
      ∃ t, exec (.converterResult id codes flags) s = .next t ∧
      t.tile id = { s.tile id with array := none, cntRepeat := (s.tile id).cntRepeat + 1, repeatDue := again }) ∧
    (fl.null = false → flags.any (fun b => b) = true → fl.fire.range = 0 → exec (.converterResult id codes flags) s = .next (s.overRange0 id fl)) ∧
    (fl.null = false → flags.any (fun b => b) = false → ∃ t fl', exec (.converterResult id codes flags) s = .next t ∧
      t.tile id = { s.tile id with array := none, scaler := some fl' } ∧ fl'.fire = fl.fire ∧ fl'.input = fl.input ∧ fl'.converted = true ∧
      fl'.raw = (List.range 258).map (fun j => clampInt (-128) 127 (at' codes j 0)) ∧
      fl'.y = correctedAll fl.coefs (s.recordD (id.array fl.fire.arr)) fl.fire.range (rowInputs fl.fire.mode fl.input.shifts fl.input.codes) fl'.raw)) ∧
  (∀ (s : State) (id : TileId) (fl : Flight), (s.tile id).scaler = some fl → fl.null = false → fl.overrun = false → fl.passed = false →
    let rem := remainderTerm (s.recordD (id.array fl.fire.arr)) (rowInputs fl.fire.mode fl.input.shifts fl.input.codes)
    (postmarkPass fl.fire.range fl.y rem = true → exec (.postmarkComparison id) s = .next (s.postmarkPasses id fl)) ∧
    (postmarkPass fl.fire.range fl.y rem = false → ∃ (u : State) (r : Record), exec (.postmarkComparison id) s =
        .next (u.transient fl.fire.red.stepTag fl.fire.red.epoch 0x0002 id.die (locOf (id.array fl.cells))).tryEntry ∧
      u.tile id = { s.tile id with scaler := none, cntMismatch := (s.tile id).cntMismatch + 1 } ∧ u.sv = s.sv ∧
      u.ev.held.getLast? = some r ∧ r.code = 0x0002 ∧ r.source = id.die)) ∧
  (∀ (s : State) (id : TileId) (fl : Flight), (s.tile id).scaler = some fl → (fl.null || fl.overrun || fl.passed) = true →
    let u := s.active.modTile id fun x => { x with scaler := none }
    let count (v : State) : State := if ((v.tile id).bank fl.bank).red == some fl.fire.red then v.countFires id fl.bank 1 fl.fire.close fl.fire.arr else v
    (s.redLive fl.fire.red = false ∨ ((s.tile id).bank fl.bank).red ≠ some fl.fire.red → exec (.fireAdd id) s = .next u.tryEntry) ∧
    (s.redLive fl.fire.red = true → ((s.tile id).bank fl.bank).red = some fl.fire.red →
      (fl.null = true ∨ fl.overrun = true → exec (.fireAdd id) s = .next (count (u.vectorDue id fl)).tryEntry) ∧
      (fl.null = false → fl.overrun = false →
        let sum := addVec 64 256 ((s.tile id).bank fl.bank).regs (fireAddend (s.recordD (id.array fl.fire.arr)) fl.input.scale fl.fire.mode fl.fire.range fl.y)
        sum.2 = false →
        ∃ v : State, (v.tile id).bank fl.bank = { (s.tile id).bank fl.bank with regs := sum.1 } ∧ v.sv = s.sv ∧
          exec (.fireAdd id) s = .next (count
            ((v.countEquiv fl.fire.red.stepTag 1 (s.recordD (id.array fl.fire.arr)).saturated (id.array fl.fire.arr)).vectorDue id fl)).tryEntry))) ∧
  (∀ (s : State) (id : TileId) (b : Nat) (d : OutlierDue) (rest : List OutlierDue) (red : Reduction),
    b = 0 ∨ (b = 1 ∧ (((s.tile id).bank 0).outliers = [] ∨ ((s.tile id).bank 0).red = none)) →
    ((s.tile id).bank b).outliers = d :: rest → ((s.tile id).bank b).red = some red →
    ∃ u : State, (u.tile id).bank b = { (s.tile id).bank b with outliers := rest } ∧ u.sv = s.sv ∧
      exec (.outlierAdd id) s = .next ((u.addToBank id b d.arr red (outlierAddend (s.recordD (id.array d.arr)) d.input.scale d.input.shifts d.input.codes)).tryDrain id b))

/-- 04 R127, R129, R137, R138, 06 R193, 08 R256, R261, R263, 09 R279. With no spot copy waiting, a unit's lane takes a job of the oldest step
first, by order of opening: it leaves the lane and each of its input vectors is added to its bank, whose count of open fall-backs falls by one;
without the weights it needs, the step ends with status 3. A spot copy beyond four LSB raises record 0x0003, asks for a class-2 run of the array
and is a detected fault; one within the limit changes nothing but the lane. An adapter's contribution is added to every home bank where it is due
and whose die's engine has gathered the target, and is due there no more; an intermediate value beyond B16 ends the step with status 4. The result
of a query head, which its engine takes once no earlier entry keeps it and the tier holds no page of the layer, joins the token's heads, or ends
the step with status 4 where the query, a key, a value or the result is no number or a score lies beyond F32. The model's, not the spec's: status 4
for a hidden vector beyond B16 (log entry 19), one contribution for an adapter that a set names twice (61), the value of a head's result (10) and the
positions that a head passes over (20). -/
def Obligations.CorrectionUnitsServeTheirJobs : Prop :=
  (∀ (s : State) (die unit : Nat) (j : FbJob), s.headJob die unit = some j →
    (s.region die unit).spots = [] ∧ j ∈ (s.region die unit).jobs ∧ (∀ x ∈ (s.region die unit).jobs, s.stepPlace j.stepTag ≤ s.stepPlace x.stepTag) ∧
    (allSome (j.parts.map fun p => s.jobAddend (TileId.array ⟨die, j.tile⟩ j.arr) j.cause p) = none →
      exec (.fallbackJobDone die unit) s = .next (s.failStep j.stepTag 3)) ∧
    (∀ vs, allSome (j.parts.map fun p => s.jobAddend (TileId.array ⟨die, j.tile⟩ j.arr) j.cause p) = some vs →
      ∃ u : State, (u.region die unit).jobs = (s.region die unit).jobs.erase j ∧ u = { s with tl := u.tl } ∧ u.tl.tiles = s.tl.tiles ∧
        exec (.fallbackJobDone die unit) s = .next ((j.parts.zip vs).foldl (fun st e => st.addPart ⟨die, j.tile⟩ j.arr e.1 e.2) u))) ∧
  (∀ (s : State) (id : TileId) (arr : Nat) (p : FbPart) (v : List Int),
    ∃ u : State, (u.tile id).bank p.bank = { (s.tile id).bank p.bank with fallbacks := ((s.tile id).bank p.bank).fallbacks - 1 } ∧ u.sv = s.sv ∧
      u.rd = s.rd ∧ s.addPart id arr p v = (u.addToBank id p.bank arr p.red v).tryDrain id p.bank) ∧
  (∀ (s : State) (die unit : Nat) (j : SpotJob) (rest : List SpotJob), (s.region die unit).spots = j :: rest →
    let a : ArrId := TileId.array ⟨die, j.tile⟩ j.cells
    let w := worstGap (spotGaps (s.recordD (TileId.array ⟨die, j.tile⟩ j.named)) j.range j.slice j.y (rowInputs j.mode j.input.shifts j.input.codes))
    (4 * (64 * lsb j.range) < w.2 → ∃ (u : State) (r : Record), u.ev.held.getLast? = some r ∧ r.code = 0x0003 ∧ r.source = die ∧ u.sv = s.sv ∧
      (u.region die unit).spots = rest ∧
      exec (.spotComparisonDone die unit) s = .next ((u.requestCal a 2).transient j.stepTag j.epoch 0x0003 die (locOf a))) ∧
    (w.2 ≤ 4 * (64 * lsb j.range) → (1000 * w.2 ≤ 1412 * (64 * lsb j.range) ∨ s.rated = false) →
      ∃ t, exec (.spotComparisonDone die unit) s = .next t ∧ (t.region die unit).spots = rest ∧ t.tl.tiles = s.tl.tiles ∧ t.sv = s.sv ∧ t.ev = s.ev)) ∧
  (∀ (s : State) (tag token tensor adapter : Nat), exec (.adapterContribution tag token tensor adapter) s =
    .next ((s.adapterBanks tag token tensor adapter).foldl (fun st e => st.adapterInto tag token tensor adapter e) (s.gather tag))) ∧
  (∀ (s : State) (tag token tensor adapter b col : Nat) (home : TileId) (o : OpenStep) (tok : TokenWork) (g : Staged) (l : LayerRec)
      (tr : TensorRec) (red : Reduction), s.liveStep tag = some o → o.tokens[token]? = some tok →
    o.staged.find? (fun x => x.is home.die adapter tok.layer tensor) = some g → ((s.model o.model).bind fun m => m.layer tok.layer) = some l →
    l.tensors.find? (fun x => x.tensor == tensor) = some tr → ((s.tile home).bank b).red = some red →
    let x := s.quantised tag token tok.layer tensor tr.k
    (hiddenFault (Adapter.hidden g.target x) = true → s.adapterInto tag token tensor adapter (home, b, col) = s.failStep tag 4) ∧
    (hiddenFault (Adapter.hidden g.target x) = false →
      ∃ u : State, ((u.tile home).bank b).adapters = ((s.tile home).bank b).adapters.filter (fun y => y != adapter) ∧ u.sv = s.sv ∧
        s.adapterInto tag token tensor adapter (home, b, col) = (u.addToBank home b 0 red (Adapter.column g.target x col tr.n)).tryDrain home b)) ∧
  (∀ (s : State) (tag token head : Nat) (o : OpenStep) (tok : TokenWork) (e : LenEntry) (w : EntryWork) (l : LayerRec) (q : List Nat) (kv : List (List Nat)),
    s.inRun = true → s.liveStep tag = some o → o.tokens[token]? = some tok → o.cmd.entries[tok.entry]? = some e → o.entries[tok.entry]? = some w →
    ((s.model (o.modelOf tok.draft)).bind fun m => m.layer tok.layer) = some l → tok.stage = 0 → tok.finished = false → tok.attendsHere l = true → head < l.qHeads →
    (∀ x ∈ tok.heads, x.1 ≠ head) → queryOf l tok head = some q →
    let h := head * l.kvHeads / l.qHeads
    let engine := attentionEngine e w tok.draft tok.layer h
    let ps := s.draftHeld tag e tok h (attended o e tok)
    s.keysValues tag e.slot tok.draft tok.layer h l.kvB16 ps = some kv →
    (o.headWaits l tok engine = true ∨ s.layerHeld e.slot tok.draft tok.layer = true → exec (.attentionResult tag token head) s = .next s) ∧
    (o.headWaits l tok engine = false → s.layerHeld e.slot tok.draft tok.layer = false →
      let q1 := Config.rotary tok.position l.headDim l.rotary q
      let r := attentionResult s.draw l.headDim q1 kv
      let d : State := { s with draw := s.draw + 1 }
      let bad : Bool := q1.any f32.special || kv.any (fun x => x.any f32.special) || scoreFault q1 (kv.take (kv.length / 2)) || r.any f32.special
      (bad = true → exec (.attentionResult tag token head) s = .next (d.failStep tag 4)) ∧
      (bad = false → exec (.attentionResult tag token head) s = .next
        (((d.engineRan ⟨engine, tag, token, tok.layer, .attention head, s.remoteDies engine e.slot tok.draft tok.layer ps⟩).modToken tag token
          fun t => { t with heads := t.heads ++ [(head, r)] }).advanceToken tag token))))

/-- 05 R144, R151, R152, R155, R156, 14 R471. A draining bank becomes EMPTY and its registers leave in a drain that names its line, step and epoch,
on the route of Table 5.4: over one side bridge to a neighbour, to the diagonal die over the hub, or with more than 16,384 bytes in the hub
queue over two side bridges. A drain of another epoch is dropped and counted at the die; a final one at a complete line is a line fault, record
0x0008 with the step's replay; any other is added exactly, and a final one lowers PENDING, completing the line at 0. A line that lacks
contributions for 50 ms after its last fire faults the same way. A record of another VERSION is dropped (counted under DROP_VERSION, the model's
choice, log entry 34). A contribution of a lower epoch is dropped and counted, one of a higher epoch first resets each line of the ledger. A replay
notice of a higher epoch resets the ledger and replays the step; of an equal or lower epoch it does nothing. What a record issues in P1 Hold wakes the
module (15 R492). -/
def Obligations.DrainsAndContributionsReachTheirLine : Prop :=
  (∀ (s : State) (id : TileId) (b : Nat) (r : Reduction), ((s.tile id).bank (b % 2)).state = .draining → ((s.tile id).bank (b % 2)).red = some r →
    ∃ t d, exec (.bankDrainDone id b) s = .next t ∧ (t.tile id).bank (b % 2) = emptyBank ∧ t.rd.drains = s.rd.drains ++ [d] ∧ t.sv = s.sv ∧
      d.line = r.line ∧ d.stepTag = r.stepTag ∧ d.epoch = r.epoch ∧ d.regs = ((s.tile id).bank (b % 2)).regs ∧ d.final = ((s.tile id).bank (b % 2)).closed ∧
      d.path = drainPath id.die r.line.die (decide (16384 < s.hubQueue id.die))) ∧
  (∀ (src dst : Nat), src < 4 → dst < 4 → (src = dst → drainPath src dst false = [src]) ∧
    (diagonal src dst = true → drainPath src dst false = [src, 4, dst] ∧ ∃ k, k < 2 ∧ drainPath src dst true = [src, k, dst] ∧ diagonal src k = false) ∧
    (src ≠ dst → diagonal src dst = false → ∀ b, drainPath src dst b = [src, dst])) ∧
  (∀ (s : State) (n : Nat) (d : Drain), s.rd.drains[n]? = some d →
    let u : State := { s with rd := { s.rd with drains := s.rd.drains.eraseIdx n } }
    ((∀ l, s.line d.line = some l → l.version ≠ 1 ∨ l.stepTag ≠ d.stepTag ∨ l.epoch ≠ d.epoch) → exec (.drainArrival n) s =
      .next { u with rg := { u.rg with staleDrain := modAt u.rg.staleDrain d.line.die fun x => x + 1 } }) ∧
    (∀ l, s.line d.line = some l → l.version = 1 → l.stepTag = d.stepTag → l.epoch = d.epoch →
      (l.complete = true ∨ (d.final = true ∧ l.pending = 0) → exec (.drainArrival n) s =
        .next ((u.putLine { l with fault := true }).reductionFault l.id l.id.die l.stepTag l.epoch)) ∧
      (l.complete = false → (d.final = true → l.pending ≠ 0) → (addVec 96 256 l.elems d.regs).2 = true → exec (.drainArrival n) s =
        .next (u.lineOverflow l.id l.id.die l.stepTag)) ∧
      (l.complete = false → (addVec 96 256 l.elems d.regs).2 = false →
        (d.final = false → ∃ t, exec (.drainArrival n) s = .next t ∧ t.line d.line = some { l with elems := (addVec 96 256 l.elems d.regs).1 } ∧ t.sv = s.sv) ∧
        (d.final = true → 1 < l.pending → ∃ t, exec (.drainArrival n) s = .next t ∧
          t.line d.line = some { l with elems := (addVec 96 256 l.elems d.regs).1, pending := l.pending - 1 } ∧ t.sv = s.sv) ∧
        (d.final = true → l.pending = 1 → ∃ (x : State) (l1 : Line), x.line d.line = some l1 ∧ l1.complete = true ∧ l1.pending = 0 ∧ l1.elems = (addVec 96 256 l.elems d.regs).1 ∧
          x.sv = s.sv ∧ exec (.drainArrival n) s = .next (x.completeLine l1))))) ∧
  (∀ (s : State) (die off q : Nat) (l : Line), s.line ⟨die, off⟩ = some l → l.complete = false → (∀ t ∈ s.tl.tiles, t.worksOn l.id = false) →
    s.redLive ⟨l.stepTag, l.epoch, l.id⟩ = true → l.quiet = some q →
    ∃ (u : State) (r : Record), u.tm.tick = max s.tm.tick (q + 12500000) ∧ u.line ⟨die, off⟩ = some { l with fault := true } ∧ u.ev.held.getLast? = some r ∧ r.code = 0x0008 ∧ r.source = die ∧
      exec (.lineTimeout die off) s = .next (u.transient l.stepTag l.epoch 0x0008 die 0)) ∧
  (∀ (s : State) (h : CourierHdr) (p : Bytes), s.carried h 1 = true → fld p 0 1 ≠ 1 →
    exec (.contributionRecord h p) s = .next { s with rg := { s.rg with dropVersion := s.rg.dropVersion + 1 } } ∧
    exec (.replayNotice h p) s = .next { s with rg := { s.rg with dropVersion := s.rg.dropVersion + 1 } }) ∧
  (∀ (s : State) (h : CourierHdr) (p : Bytes) (g : Ledger), s.carried h 1 = true → fld p 0 1 = 1 → s.fb.aborted.contains (fld p 4 4) = false →
    contributionOk p 0 = true →
    s.ledger (fld p 4 4) (fld p 8 8) = some g →
    let again (x : Line) : Line := { x with
      epoch := fld p 0x10 1, pending := x.initial, complete := false, fault := false, quiet := x.quiet.map fun _ => s.tm.tick, elems := [] }
    (fld p 0x10 1 < g.epoch → ∃ t, exec (.contributionRecord h p) s = .next t ∧ t = { s with rg := t.rg } ∧ t.rg.staleContrib = s.rg.staleContrib + 1) ∧
    (g.epoch = fld p 0x10 1 → exec (.contributionRecord h p) s =
      .next ((s.addContribution g (fld p 0x18 8) (fld p 0x12 2) (contributionElems p (fld p 0x12 2))).scheduleWakes s)) ∧
    (g.epoch < fld p 0x10 1 → exec (.contributionRecord h p) s =
      .next ((s.addContribution { g with epoch := fld p 0x10 1, since := s.tm.tick, lines := g.lines.map again } (fld p 0x18 8) (fld p 0x12 2)
        (contributionElems p (fld p 0x12 2))).scheduleWakes s))) ∧
  (∀ (s : State) (h : CourierHdr) (p : Bytes) (o : OpenStep), s.carried h 1 = true → fld p 0 1 = 1 → s.fb.aborted.contains (fld p 4 4) = false → contributionOk p 1 = true →
    s.ledger (fld p 4 4) (fld p 8 8) = none → s.jobStep (fld p 4 4) (fld p 8 8) = some o →
    (fld p 0x10 1 ≤ o.epoch → exec (.replayNotice h p) s = .next s) ∧
    (o.epoch < fld p 0x10 1 → ∃ (u : State) (r : Record), u.ev.held.getLast? = some r ∧ r.code = 0x0205 ∧ u.sv = s.sv ∧
      exec (.replayNotice h p) s = .next ((u.rerun o.tag (fld p 0x10 1)).scheduleWakes s))) ∧
  (∀ (s : State) (h : CourierHdr) (p : Bytes) (g : Ledger), s.carried h 1 = true → fld p 0 1 = 1 → s.fb.aborted.contains (fld p 4 4) = false → contributionOk p 1 = true →
    s.ledger (fld p 4 4) (fld p 8 8) = some g → s.jobStep (fld p 4 4) (fld p 8 8) = none → s.fb.committed.contains (fld p 4 4, fld p 8 8) = false →
    ∃ t, exec (.replayNotice h p) s = .next t ∧
      t.ledger (fld p 4 4) (fld p 8 8) = some (if g.epoch < fld p 0x10 1 then { g with epoch := fld p 0x10 1, since := s.tm.tick, lines := g.lines.map fun x =>
        { x with epoch := fld p 0x10 1, pending := x.initial, complete := false, fault := false, quiet := x.quiet.map fun _ => s.tm.tick, elems := [] } } else g))

/-- 04 R131-R134, 06 R548, 08 R246-R249, Tables 8.3, 8.6, 09 R286, R287, R291-R293, 11 R386-R388, 15 R492. A sorting round first lets stalled entries
try again (the model's moments, log entry 74), then takes the first waiting step of the queue that goes first; a step that can begin wakes the module
from P1 Hold. The step ends with status 5 without its context, 2 without its model or the context's draft model, 1 for a fault of the step command;
else it opens under a tag no open step has, at epoch 0, with the context's model, and its queue is charged its tokens. A match gives a slot the
matched blocks' shared pages and a reference on the deepest node, each matched node the LAST_USE of now, and a private copy of tokens 0 to 62 of a
last block matched whole. A compaction moves K and V of each path element from P + k to P + d at every layer. A commit sets each entry's
commit pointer and slot state, returns its reserved frames, puts the step's fires and fall-backs at the front of the ten-step window and, for a job, its
number among the committed ones, and gives its completion to the queue, which writes it in its turn where there is room; without a lease it is
retained. Handling a storm lists the affected arrays, and a recheck counts ten commits. -/
def Obligations.RoundsAdmitMatchCommitAndWatchStorms : Prop :=
  (∀ (s : State) (core : Nat), s.roundWakes = true → exec (.sortingRound core) s = exec (.sortingRound core) (s.wakeP1 6)) ∧
  (∀ (s : State) (core : Nat) (q : Queue) (w : Waiting), s.inRun = true → s.firmwareRuns = true → core < 4 →
    s.retryStalled.roundsRun = true → s.retryStalled.nextQueue = some (q, w) →
    let u := s.retryStalled.modQueue q.id fun x => { x with waiting := x.waiting.drop 1 }
    let c := parseStep w.tuiven1 w.payload
    (u.context q.ctx = none → exec (.sortingRound core) s = .next (u.endUnbegun q w 5 0)) ∧
    (∀ ctx, u.context q.ctx = some ctx → (u.model ctx.model).filter (fun m => !m.unloading) = none →
      exec (.sortingRound core) s = .next (u.closeRound q w c ctx 2 0)) ∧
    (∀ ctx m, u.context q.ctx = some ctx → (u.model ctx.model).filter (fun m => !m.unloading) = some m →
      let draft := (u.model ctx.draftModel).filter fun x => !x.unloading && ctx.draftModel != 0
      (ctx.draftModel ≠ 0 → draft = none → exec (.sortingRound core) s = .next (u.closeRound q w c ctx 2 0)) ∧
      (ctx.draftModel = 0 ∨ draft ≠ none →
        (∀ d, (u.asArrived w).stepFault c w.payload.length w.tuiven1 ctx m = some d → exec (.sortingRound core) s = .next (u.closeRound q w c ctx 1 d)) ∧
        ((u.asArrived w).stepFault c w.payload.length w.tuiven1 ctx m = none → exec (.sortingRound core) s =
          .next (u.openStep q w c ctx (u.weightsHeld c m draft)))))) ∧
  (∀ (u : State) (q : Queue) (w : Waiting) (c : StepCmd) (ctx : Context), u.sv.steps.length < 1024 →
    let o := u.newStep q w c ctx
    o.epoch = 0 ∧ o.model = ctx.model ∧ o.cmd = c ∧ (∀ x ∈ u.sv.steps, x.tag ≠ o.tag) ∧
    (∀ status detail, ∃ x : State, u.closeRound q w c ctx status detail = x.endUnbegun q w status detail ∧ x.sv.steps = u.sv.steps ++ [o]) ∧
    (∃ x : State, u.openStep q w c ctx true = (roundOrder o).foldl (fun st i => (st.claimEntry o.tag i ctx).beginEntry o.tag i) (x.gather o.tag) ∧
      x.sv.steps = u.sv.steps ++ [o] ∧ ∀ k, u.queue q.id = some k → x.queue q.id = some { k with admitted := k.admitted + c.tokenCount })) ∧
  (∀ (s : State) (core : Nat), s.inRun = true → s.firmwareRuns = true → core < 4 → s.retryStalled.roundsRun = false ∨ s.retryStalled.nextQueue = none →
    exec (.sortingRound core) s = .next s.retryStalled) ∧
  (∀ (s : State) (tag i : Nat) (o : OpenStep) (e : LenEntry) (w : EntryWork), s.firmwareRuns = true → s.entryAt tag i = some (o, e, w) →
    (w.matchPending = true → exec (.prefixMatchDone tag i) s = .next ((s.matchEntry tag i).scheduleWakes s)) ∧
    (∀ m sl, s.model o.model = some m → s.slot e.slot = some sl →
      let layers := s.servedLayers m
      let toks := (entryTokens o.cmd i).map (·.1)
      let chain := s.matchChain o.attrs.tenant m.num layers.length (toks.length / 64) none (rootHash o.attrs.tenant m.num) toks
      let whole := 64 * chain.length == toks.length && 0 < toks.length
      let shared := if whole then chain.dropLast else chain
      let copied := if whole then chain.getLast? else none
      let used : State := copied.elim s fun n => s.modNode n.idx fun x => { x with lastUse := s.time }
      let matched := if whole then toks.length - 1 else 64 * shared.length
      let v := ((used.takeChain e.slot shared).modEntry tag i fun w => { w with matched := matched }).refNode (copied.map Node.idx) true
      let needs : List PageNeed := s.entryPages o e sl ++
        copied.elim [] fun _ => pagesOf m false layers (64 * shared.length) (64 * shared.length + 64)
      v.canReserve tag e.slot needs = true →
      ∃ (u : State) (x : OpenStep) (w' : EntryWork), s.matchEntry tag i = u.startEntry tag i ∧ u.entryAt tag i = some (x, e, w') ∧ w'.matched = matched ∧ w'.matchPending = false ∧
        (∀ (b : Nat) (n : Node) (p : Nat × FrameId), shared[b]? = some n → (n.pages.map Prod.fst).Nodup → p ∈ n.pages →
          u.page e.slot false p.1 b = some ⟨e.slot, false, p.1, b, p.2, true, s.nodeShape n p.1⟩) ∧
        (∃ y, u.slot e.slot = some y ∧ y.node = shared.getLast?.map Node.idx) ∧
        (∀ n ∈ chain, ∀ x ∈ u.kv.nodes, x.idx = n.idx → x.lastUse = s.time) ∧
        (∀ n, copied = some n → ∃ k : State, k.kv.pages = u.kv.pages ∧ u.kv = (k.copyBlock e.slot n shared.length).kv))) ∧
  (∀ (s : State) (slot b : Nat) (n : Node) (p : Nat × FrameId) (q : PageEntry) (f g : Frame), p ∈ n.pages → s.page slot false p.1 b = some q →
    q.shared = false → s.frame p.2 = some f → s.frame q.frame = some g →
    (∀ x ∈ n.pages, ∀ y, s.page slot false x.1 b = some y → y.shared = false → y.frame ≠ p.2 ∧ (y.frame = q.frame → x = p)) →
    (s.copyBlock slot n b).frame q.frame = some { g with data := f.data.filter fun x => x.tok < 63 }) ∧
  (∀ (s : State) (tag : Nat) (o : OpenStep), s.liveStep tag = some o → s.hcoreRuns = true → s.commitReady o o.attrs = true →
    let entries := (List.range o.cmd.entries.length).zip (o.cmd.entries.zip o.entries)
    let r := entries.foldl (fun (acc : State × List EntryResult) x =>
      let n := acc.1.commitEntry o o.attrs x.1 x.2.1 x.2.2
      (n.1, acc.2 ++ [n.2])) (s, [])
    let done := mkCompletion 0 0 o.seq o.hostTag o.queue o.cmd.stepNumber o.port (0 < o.epoch) (!s.leaseLive) s.time r.2
    (∃ v : State, exec (.stepCommit tag) s = .next (((v.deliver o.queue).sweep).retryStalled).tryEntry ∧
      v.sv.slots = r.1.sv.slots ∧ v.queue o.queue = (s.queue o.queue).map (fun q => { q with ended := q.ended ++ [done] }) ∧
      v.sv.storm = ((o.fires, o.equivs, o.perArray) :: s.sv.storm).take 10 ∧ v.pw.lastActivity = s.tm.tick ∧
      v.fb.committed = s.fb.committed ++ if o.cmd.job = 0 then [] else [(o.cmd.job, o.cmd.stepNumber)]) ∧
    ∃ t, exec (.stepCommit tag) s = .next t ∧
      (s.pw.entry = none → t.sv.storm = ((o.fires, o.equivs, o.perArray) :: s.sv.storm).take 10 ∧ t.pw.lastActivity = t.tm.tick ∧
        t.fb.committed = s.fb.committed ++ if o.cmd.job = 0 then [] else [(o.cmd.job, o.cmd.stepNumber)])) ∧
  (∀ (s : State) (o : OpenStep) (c : Context) (i : Nat) (e : LenEntry) (w : EntryWork),
    let r := s.commitEntry o c i e w
    (∀ st, w.status = some st → r.1 = s ∧ r.2.slot = e.slot ∧ r.2.estatus = st) ∧
    (w.status = none → e.kind = 4 → r.1.slot e.slot = none ∧ r.2.estatus = 0) ∧
    (∀ x m, w.status = none → e.kind ≠ 4 → s.slot e.slot = some x → s.model o.model = some m →
      let path := (acceptedPath c o i e).1
      let commit := if e.kind = 2 ∨ e.kind = 3 then e.position + (path.length - 1) + 1 else e.position + (entryTokens o.cmd i).length
      ∃ y, r.1.slot e.slot = some y ∧ y.commit = commit ∧ r.2.estatus = 0 ∧ r.2.commit = commit ∧ r.2.ntokens = r.2.tokens.length ∧
        (e.hold = false → y.state = .opened) ∧ (e.hold = true → y.state = .held ∨ y.state = .expired) ∧
        ∀ f ∈ r.1.kv.frames, f.owner ≠ .reserved o.tag e.slot)) ∧
  (∀ (v : State) (n : Nat) (q : Queue) (c : Completion), v.queue n = some q → q.nextEnded = some c → q.silent = false →
    (v.leaseLive = true → q.room v.windowMode = true → ∃ x d, (v.deliver n).queue n = some x ∧ q.comp.tail < x.comp.tail ∧
      d ∈ x.unacked ∧ { d with addr := c.addr } = c ∧ (∀ y ∈ x.ended, y.seq ≠ c.seq) ∧
      ∀ o ∈ (v.deliver n).sv.steps, ¬ (o.queue = n ∧ o.seq = c.seq)) ∧
    (v.leaseLive = true → q.room v.windowMode = false → v.deliver n = v) ∧
    (v.leaseLive = false → v.unackedCount < 4096 → ∃ x b, (v.deliver n).queue n = some x ∧ (c, b) ∈ x.retained ∧
      ∀ o ∈ (v.deliver n).sv.steps, ¬ (o.queue = n ∧ o.seq = c.seq))) ∧
  (∀ (s : State) (tag : Nat) (o : OpenStep), s.liveStep tag = some o →
    (exec (.compactionDone tag) s = .next (((List.range o.cmd.entries.length).zip (o.cmd.entries.zip o.entries)).foldl (fun st x =>
      if entryFinished o x.1 && needsCompaction o.attrs o x.1 x.2.1 x.2.2 then st.compact o x.1 x.2.1 (acceptedPath o.attrs o x.1 x.2.1).1 else st) s)) ∧
    (∃ t, exec (.compactionDone tag) s = .next t ∧ t.kv.held = s.kv.held ∧ t.kv.nodes = s.kv.nodes ∧ t.sv.slots = s.sv.slots ∧ t.tm = s.tm) ∧
    (∀ e w m, o.cmd.entries = [e] → o.entries = [w] → s.model o.model = some m → entryFinished o 0 = true →
      needsCompaction o.attrs o 0 e w = true →
      let path := (acceptedPath o.attrs o 0 e).1
      (path.map TokenWork.elem).Pairwise (· < ·) →
      (∀ p ∈ s.kv.pages, ∀ q ∈ s.kv.pages, p.slot = e.slot → q.slot = e.slot → p.draft = false → q.draft = false → p.frame = q.frame →
        p.layer = q.layer ∧ p.n = q.n) →
      ∃ t, exec (.compactionDone tag) s = .next t ∧ ∀ d x l r, path[d]? = some x → l ∈ m.kvLayers → m.layer l = some r →
        (s.page e.slot false l ((e.position + d) / 64)).bind (fun q => s.frame q.frame) ≠ none →
        ∀ isV h g, h < r.kvHeads → s.getGroup e.slot false l (e.position + x.elem) isV h = some g →
          t.getGroup e.slot false l (e.position + d) isV h = some { g with tok := (e.position + d) % 64 })) ∧
  (∀ (s : State), s.firmwareRuns = true → s.ev.stormPending = true →
    ∃ t, exec .stormHandling s = .next t ∧ t.ev.stormPending = false ∧ t.ev.stormList = affectedArrays s.sv.storm ∧ t.sv.storm = s.sv.storm ∧
      (s.feature 11 = true → t.ev.asyncNext = (s.ev.asyncNext + 1) % 2 ^ 32)) ∧
  (∀ (s : State), s.firmwareRuns = true → s.ev.stormPending = false → s.sv.stormBit = true → 10 ≤ s.sv.stormSince →
    ∃ t, exec .stormRecheck s = .next t ∧ t.sv.stormSince = s.sv.stormSince - 10 ∧ t.sv.stormBit = true ∧
      ∀ a ∈ affectedArrays s.sv.storm, (s.dir a).astate ≠ .outOfService → a ∈ t.sv.recalibrated)

/-- 03 R71, 09 R298-R300, R302, 11 R397. A page of a moving entry written joins the entry's held pages, with its data where it has no place in level 2,
and its frame is returned; the last one lets it rest. A restoring entry writes its next page back into a frame of the slot, and is over with the last;
a page that is no number ends the step that waits for it with status 4. A resting or moving entry expires h + TTL seconds after it was taken in: its
slot becomes EXPIRED with its commit pointer, its frames, pages, held pages and reference are gone. 50 ms after an entry began to wait for a page it
tries once more, and where it still lacks one it ends with status 16 and record 0x0020 of its slot and context is raised. Once no step is open
after a lease's end the open slots go to the tier one by one, HELD where level 1 has room, with event 3, and with none left and every move complete
the module enters P1 under the lease hold, once every fire in flight has reached its t19 (02 R52). That what stalls tries again as pages leave
is the model's reading (log entry 74); that work issued so wakes the module from P1 is 15 R492. -/
def Obligations.HeldPagesMoveExpireAndExhaust : Prop :=
  (∀ (s : State) (slot : Nat) (h : Held), s.firmwareRuns = true → s.heldOf slot = some h →
    (h.phase = .moving → exec (.heldPageWritten slot) s = .next ((s.moveOnePage slot).retryStalled.scheduleWakes s)) ∧
    (h.phase = .moving → ∀ p rest f, s.privatePages slot = p :: rest → s.frame p.frame = some f → h.places = [] ∨ s.leaseLive = true →
      let gone := { holdPage p f.data with off := h.places.head?, got := [], torn := [], groups := [], raw := [] }
      let page := if h.places = [] then holdPage p f.data else gone
      let phase : HeldPhase := if rest.isEmpty then .resting else .moving
      (s.moveOnePage slot).heldOf slot = some { h with pages := h.pages ++ [page], places := h.places.drop 1, phase := phase } ∧
      (s.moveOnePage slot).page slot p.draft p.layer p.n = none ∧ ∀ x ∈ (s.moveOnePage slot).kv.frames, x.id ≠ p.frame) ∧
    (h.phase = .restoring → exec (.heldPageWritten slot) s = .next ((s.restorePageOf slot).scheduleWakes s)) ∧
    (∀ p rest, h.pages = p :: rest → p.noNumber = true →
      (∀ e, s.restoreWaiter slot = some e → s.restorePageOf slot = s.failStep e.1 4) ∧ (s.restoreWaiter slot = none → s.restorePageOf slot = s)) ∧
    (∀ p rest x id u f, h.pages = p :: rest → p.noNumber = false → s.slot slot = some x → s.restoreFrame slot p = some (id, u) → u.frame id = some f →
      let v := s.restoreOnePage slot
      (v.restoreWaiter slot = none → s.restorePageOf slot = v) ∧
      (∀ e, v.restoreWaiter slot = some e → ∃ g : EntryWork → EntryWork, s.restorePageOf slot = v.modEntry e.1 e.2 g ∧
        ∀ y, (g y).restoring = !rest.isEmpty ∧ (g y).status = y.status) ∧
      v.frame id = some { f with owner := .priv slot, data := restoredGroups p (if p.draft then x.draftCommit else x.commit) f.data } ∧
      (v.page slot p.draft p.layer p.n).map PageEntry.frame = some id ∧
      v.heldOf slot = if rest.isEmpty then none else some { h with pages := rest })) ∧
  (∀ (s : State) (slot : Nat) (h : Held), s.firmwareRuns = true → s.tm.valid = true → s.heldOf slot = some h →
    ∃ u : State, u = { s with tm := u.tm } ∧ u.tm.counter = max s.tm.counter (h.h + ticksPerSec * h.ttl) ∧
      (h.phase = .resting → exec (.heldExpiry slot) s = .next (((u.slotExpire slot).sweep).retryStalled.scheduleWakes s)) ∧
      (h.phase = .moving → exec (.heldExpiry slot) s = .next ((((u.finishMove slot).slotExpire slot).sweep).retryStalled.scheduleWakes s))) ∧
  (∀ (s : State) (slot : Nat) (x : Slot), s.slot slot = some x →
    let t := s.slotExpire slot
    let state : SlotState := match x.state with
      | .ending _ => .ending 4
      | _ => .expired
    t.slot slot = some { x with node := none, state := state } ∧
    t.heldOf slot = none ∧ (∀ f ∈ t.kv.frames, f.owner ≠ .priv slot) ∧ ∀ p ∈ t.kv.pages, p.slot ≠ slot) ∧
  (∀ (s : State) (tag i n : Nat) (o : OpenStep) (e : LenEntry) (w : EntryWork), s.firmwareRuns = true → s.entryAt tag i = some (o, e, w) →
    w.stalledAt = some n →
    ∃ u : State, u = { s with tm := u.tm } ∧ u.tm.tick = max s.tm.tick (n + 12500000) ∧
      let v := if w.restoring then u.retryStalled.restorePageOf e.slot else u.retryStalled
      (v.entryStalls tag i = false → exec (.pageExhaustionTimeout tag i) s = .next v) ∧
      (∀ o' e' w', v.entryStalls tag i = true → v.entryAt tag i = some (o', e', w') →
        ∃ t p x, exec (.pageExhaustionTimeout tag i) s = .next t ∧ t.stepOf tag = some p ∧
          p.entries[i]? = some x ∧ x.status = some 16 ∧ t.slot e'.slot = none ∧
          ∃ r, t.ev.held.getLast? = some r ∧ r.code = 0x0020 ∧ r.detail = [e'.slot + 65536 * o'.ctx])) ∧
  (∀ (s : State), s.firmwareRuns = true → s.dp.expiring = true → s.sv.steps.all OpenStep.aborted = true →
    let opened := s.sv.slots.filter fun x => x.state == .opened
    (∀ x, argMin Slot.id opened = some x → exec .orphanSlotMove s = .next (s.tierIdle x s.dp.leaseTtl)) ∧
    (opened = [] → (∃ h ∈ s.kv.held, h.phase = .moving) → exec .orphanSlotMove s = .next s) ∧
    (opened = [] → (∀ h ∈ s.kv.held, h.phase ≠ .moving) → ∃ t, exec .orphanSlotMove s = .next t ∧ t.dp.expiring = false ∧ t.sv = s.sv ∧
      (s.pw.state = .p0 → t.holdsP1 .lease) ∧
      (s.pw.state ≠ .p0 → s.pw.hold = .none → t.pw = { s.pw with hold := .lease }))) ∧
  (∀ (s : State) (x : Slot) (ttl : Nat), s.slot x.id = some x →
    let t := s.tierIdle x ttl
    ∃ y, t.slot x.id = some y ∧ y.commit = x.commit ∧
      ((y.state = .held ∧ ∃ h, t.heldOf x.id = some h ∧ h.h = s.time ∧ h.ttl = ttl ∧ h.ctx = x.ctx ∧
          h.phase = if (s.privatePages x.id).isEmpty then .resting else .moving) ∨
        (y.state = .expired ∧ t.heldOf x.id = none)) ∧
      (s.heldOf x.id = none → s.level1Used + sumList ((s.privatePages x.id).map s.pageHeldSize) ≤ s.level1Size →
        y.state = .held ∧ t.ev.asyncNext = if s.feature 11 then (s.ev.asyncNext + 1) % 2 ^ 32 else s.ev.asyncNext))
end

