-- ==== Sys2Proof/Laws/State.lean ====
section
/-! SUPPORT. What each basic update leaves as it was, one lemma for each field: no proof unfolds a record update. -/

set_option Elab.async false
set_option linter.unusedTactic false
set_option linter.unreachableTactic false
set_option linter.unusedVariables false

namespace Sys2Proof.Machine

@[simp] theorem State.setTile_tm (s : State) (x : Tile) : (s.setTile x).tm = s.tm := rfl
@[simp] theorem State.setTile_pw (s : State) (x : Tile) : (s.setTile x).pw = s.pw := rfl
@[simp] theorem State.setTile_th (s : State) (x : Tile) : (s.setTile x).th = s.th := rfl
@[simp] theorem State.setTile_bt (s : State) (x : Tile) : (s.setTile x).bt = s.bt := rfl
@[simp] theorem State.setTile_ev (s : State) (x : Tile) : (s.setTile x).ev = s.ev := rfl
@[simp] theorem State.setTile_rg (s : State) (x : Tile) : (s.setTile x).rg = s.rg := rfl
@[simp] theorem State.setTile_adcs (s : State) (x : Tile) : (s.setTile x).adcs = s.adcs := rfl
@[simp] theorem State.setTile_tp (s : State) (x : Tile) : (s.setTile x).tp = s.tp := rfl
@[simp] theorem State.setTile_i3 (s : State) (x : Tile) : (s.setTile x).i3 = s.i3 := rfl
@[simp] theorem State.setTile_dp (s : State) (x : Tile) : (s.setTile x).dp = s.dp := rfl
@[simp] theorem State.setTile_sv (s : State) (x : Tile) : (s.setTile x).sv = s.sv := rfl
@[simp] theorem State.setTile_kv (s : State) (x : Tile) : (s.setTile x).kv = s.kv := rfl
@[simp] theorem State.setTile_wt (s : State) (x : Tile) : (s.setTile x).wt = s.wt := rfl
@[simp] theorem State.setTile_tl_regions (s : State) (x : Tile) : (s.setTile x).tl.regions = s.tl.regions := rfl
@[simp] theorem State.setTile_tl_spotLast (s : State) (x : Tile) : (s.setTile x).tl.spotLast = s.tl.spotLast := rfl
@[simp] theorem State.setTile_tl_mirrorTime (s : State) (x : Tile) : (s.setTile x).tl.mirrorTime = s.tl.mirrorTime := rfl
@[simp] theorem State.setTile_rd (s : State) (x : Tile) : (s.setTile x).rd = s.rd := rfl
@[simp] theorem State.setTile_cl (s : State) (x : Tile) : (s.setTile x).cl = s.cl := rfl
@[simp] theorem State.setTile_fb (s : State) (x : Tile) : (s.setTile x).fb = s.fb := rfl
@[simp] theorem State.setTile_draw (s : State) (x : Tile) : (s.setTile x).draw = s.draw := rfl
@[simp] theorem State.setTile_pending (s : State) (x : Tile) : (s.setTile x).pending = s.pending := rfl

@[simp] theorem State.modTile_tm (s : State) (t : TileId) (f : Tile → Tile) : (s.modTile t f).tm = s.tm := rfl
@[simp] theorem State.modTile_pw (s : State) (t : TileId) (f : Tile → Tile) : (s.modTile t f).pw = s.pw := rfl
@[simp] theorem State.modTile_th (s : State) (t : TileId) (f : Tile → Tile) : (s.modTile t f).th = s.th := rfl
@[simp] theorem State.modTile_bt (s : State) (t : TileId) (f : Tile → Tile) : (s.modTile t f).bt = s.bt := rfl
@[simp] theorem State.modTile_ev (s : State) (t : TileId) (f : Tile → Tile) : (s.modTile t f).ev = s.ev := rfl
@[simp] theorem State.modTile_rg (s : State) (t : TileId) (f : Tile → Tile) : (s.modTile t f).rg = s.rg := rfl
@[simp] theorem State.modTile_adcs (s : State) (t : TileId) (f : Tile → Tile) : (s.modTile t f).adcs = s.adcs := rfl
@[simp] theorem State.modTile_tp (s : State) (t : TileId) (f : Tile → Tile) : (s.modTile t f).tp = s.tp := rfl
@[simp] theorem State.modTile_i3 (s : State) (t : TileId) (f : Tile → Tile) : (s.modTile t f).i3 = s.i3 := rfl
@[simp] theorem State.modTile_dp (s : State) (t : TileId) (f : Tile → Tile) : (s.modTile t f).dp = s.dp := rfl
@[simp] theorem State.modTile_sv (s : State) (t : TileId) (f : Tile → Tile) : (s.modTile t f).sv = s.sv := rfl
@[simp] theorem State.modTile_kv (s : State) (t : TileId) (f : Tile → Tile) : (s.modTile t f).kv = s.kv := rfl
@[simp] theorem State.modTile_wt (s : State) (t : TileId) (f : Tile → Tile) : (s.modTile t f).wt = s.wt := rfl
@[simp] theorem State.modTile_tl_regions (s : State) (t : TileId) (f : Tile → Tile) : (s.modTile t f).tl.regions = s.tl.regions := rfl
@[simp] theorem State.modTile_tl_spotLast (s : State) (t : TileId) (f : Tile → Tile) : (s.modTile t f).tl.spotLast = s.tl.spotLast := rfl
@[simp] theorem State.modTile_tl_mirrorTime (s : State) (t : TileId) (f : Tile → Tile) : (s.modTile t f).tl.mirrorTime = s.tl.mirrorTime := rfl
@[simp] theorem State.modTile_rd (s : State) (t : TileId) (f : Tile → Tile) : (s.modTile t f).rd = s.rd := rfl
@[simp] theorem State.modTile_cl (s : State) (t : TileId) (f : Tile → Tile) : (s.modTile t f).cl = s.cl := rfl
@[simp] theorem State.modTile_fb (s : State) (t : TileId) (f : Tile → Tile) : (s.modTile t f).fb = s.fb := rfl
@[simp] theorem State.modTile_draw (s : State) (t : TileId) (f : Tile → Tile) : (s.modTile t f).draw = s.draw := rfl
@[simp] theorem State.modTile_pending (s : State) (t : TileId) (f : Tile → Tile) : (s.modTile t f).pending = s.pending := rfl

@[simp] theorem State.setRegion_tm (s : State) (r : Region) : (s.setRegion r).tm = s.tm := rfl
@[simp] theorem State.setRegion_pw (s : State) (r : Region) : (s.setRegion r).pw = s.pw := rfl
@[simp] theorem State.setRegion_th (s : State) (r : Region) : (s.setRegion r).th = s.th := rfl
@[simp] theorem State.setRegion_bt (s : State) (r : Region) : (s.setRegion r).bt = s.bt := rfl
@[simp] theorem State.setRegion_ev (s : State) (r : Region) : (s.setRegion r).ev = s.ev := rfl
@[simp] theorem State.setRegion_rg (s : State) (r : Region) : (s.setRegion r).rg = s.rg := rfl
@[simp] theorem State.setRegion_adcs (s : State) (r : Region) : (s.setRegion r).adcs = s.adcs := rfl
@[simp] theorem State.setRegion_tp (s : State) (r : Region) : (s.setRegion r).tp = s.tp := rfl
@[simp] theorem State.setRegion_i3 (s : State) (r : Region) : (s.setRegion r).i3 = s.i3 := rfl
@[simp] theorem State.setRegion_dp (s : State) (r : Region) : (s.setRegion r).dp = s.dp := rfl
@[simp] theorem State.setRegion_sv (s : State) (r : Region) : (s.setRegion r).sv = s.sv := rfl
@[simp] theorem State.setRegion_kv (s : State) (r : Region) : (s.setRegion r).kv = s.kv := rfl
@[simp] theorem State.setRegion_wt (s : State) (r : Region) : (s.setRegion r).wt = s.wt := rfl
@[simp] theorem State.setRegion_tl_tiles (s : State) (r : Region) : (s.setRegion r).tl.tiles = s.tl.tiles := rfl
@[simp] theorem State.setRegion_tl_spotLast (s : State) (r : Region) : (s.setRegion r).tl.spotLast = s.tl.spotLast := rfl
@[simp] theorem State.setRegion_tl_mirrorTime (s : State) (r : Region) : (s.setRegion r).tl.mirrorTime = s.tl.mirrorTime := rfl
@[simp] theorem State.setRegion_rd (s : State) (r : Region) : (s.setRegion r).rd = s.rd := rfl
@[simp] theorem State.setRegion_cl (s : State) (r : Region) : (s.setRegion r).cl = s.cl := rfl
@[simp] theorem State.setRegion_fb (s : State) (r : Region) : (s.setRegion r).fb = s.fb := rfl
@[simp] theorem State.setRegion_draw (s : State) (r : Region) : (s.setRegion r).draw = s.draw := rfl
@[simp] theorem State.setRegion_pending (s : State) (r : Region) : (s.setRegion r).pending = s.pending := rfl

@[simp] theorem State.modRegion_tm (s : State) (die : Nat) (unit : Nat) (f : Region → Region) : (s.modRegion die unit f).tm = s.tm := rfl
@[simp] theorem State.modRegion_pw (s : State) (die : Nat) (unit : Nat) (f : Region → Region) : (s.modRegion die unit f).pw = s.pw := rfl
@[simp] theorem State.modRegion_th (s : State) (die : Nat) (unit : Nat) (f : Region → Region) : (s.modRegion die unit f).th = s.th := rfl
@[simp] theorem State.modRegion_bt (s : State) (die : Nat) (unit : Nat) (f : Region → Region) : (s.modRegion die unit f).bt = s.bt := rfl
@[simp] theorem State.modRegion_ev (s : State) (die : Nat) (unit : Nat) (f : Region → Region) : (s.modRegion die unit f).ev = s.ev := rfl
@[simp] theorem State.modRegion_rg (s : State) (die : Nat) (unit : Nat) (f : Region → Region) : (s.modRegion die unit f).rg = s.rg := rfl
@[simp] theorem State.modRegion_adcs (s : State) (die : Nat) (unit : Nat) (f : Region → Region) :
    (s.modRegion die unit f).adcs = s.adcs := rfl
@[simp] theorem State.modRegion_tp (s : State) (die : Nat) (unit : Nat) (f : Region → Region) : (s.modRegion die unit f).tp = s.tp := rfl
@[simp] theorem State.modRegion_i3 (s : State) (die : Nat) (unit : Nat) (f : Region → Region) : (s.modRegion die unit f).i3 = s.i3 := rfl
@[simp] theorem State.modRegion_dp (s : State) (die : Nat) (unit : Nat) (f : Region → Region) : (s.modRegion die unit f).dp = s.dp := rfl
@[simp] theorem State.modRegion_sv (s : State) (die : Nat) (unit : Nat) (f : Region → Region) : (s.modRegion die unit f).sv = s.sv := rfl
@[simp] theorem State.modRegion_kv (s : State) (die : Nat) (unit : Nat) (f : Region → Region) : (s.modRegion die unit f).kv = s.kv := rfl
@[simp] theorem State.modRegion_wt (s : State) (die : Nat) (unit : Nat) (f : Region → Region) : (s.modRegion die unit f).wt = s.wt := rfl
@[simp] theorem State.modRegion_tl_tiles (s : State) (die : Nat) (unit : Nat) (f : Region → Region) :
    (s.modRegion die unit f).tl.tiles = s.tl.tiles := rfl
@[simp] theorem State.modRegion_tl_spotLast (s : State) (die : Nat) (unit : Nat) (f : Region → Region) :
    (s.modRegion die unit f).tl.spotLast = s.tl.spotLast := rfl
@[simp] theorem State.modRegion_tl_mirrorTime (s : State) (die : Nat) (unit : Nat) (f : Region → Region) :
    (s.modRegion die unit f).tl.mirrorTime = s.tl.mirrorTime := rfl
@[simp] theorem State.modRegion_rd (s : State) (die : Nat) (unit : Nat) (f : Region → Region) : (s.modRegion die unit f).rd = s.rd := rfl
@[simp] theorem State.modRegion_cl (s : State) (die : Nat) (unit : Nat) (f : Region → Region) : (s.modRegion die unit f).cl = s.cl := rfl
@[simp] theorem State.modRegion_fb (s : State) (die : Nat) (unit : Nat) (f : Region → Region) : (s.modRegion die unit f).fb = s.fb := rfl
@[simp] theorem State.modRegion_draw (s : State) (die : Nat) (unit : Nat) (f : Region → Region) :
    (s.modRegion die unit f).draw = s.draw := rfl
@[simp] theorem State.modRegion_pending (s : State) (die : Nat) (unit : Nat) (f : Region → Region) :
    (s.modRegion die unit f).pending = s.pending := rfl

@[simp] theorem State.setDir_tm (s : State) (a : ArrId) (d : DirEntry) : (s.setDir a d).tm = s.tm := rfl
@[simp] theorem State.setDir_pw (s : State) (a : ArrId) (d : DirEntry) : (s.setDir a d).pw = s.pw := rfl
@[simp] theorem State.setDir_th (s : State) (a : ArrId) (d : DirEntry) : (s.setDir a d).th = s.th := rfl
@[simp] theorem State.setDir_bt (s : State) (a : ArrId) (d : DirEntry) : (s.setDir a d).bt = s.bt := rfl
@[simp] theorem State.setDir_ev (s : State) (a : ArrId) (d : DirEntry) : (s.setDir a d).ev = s.ev := rfl
@[simp] theorem State.setDir_rg (s : State) (a : ArrId) (d : DirEntry) : (s.setDir a d).rg = s.rg := rfl
@[simp] theorem State.setDir_adcs (s : State) (a : ArrId) (d : DirEntry) : (s.setDir a d).adcs = s.adcs := rfl
@[simp] theorem State.setDir_tp (s : State) (a : ArrId) (d : DirEntry) : (s.setDir a d).tp = s.tp := rfl
@[simp] theorem State.setDir_i3 (s : State) (a : ArrId) (d : DirEntry) : (s.setDir a d).i3 = s.i3 := rfl
@[simp] theorem State.setDir_dp (s : State) (a : ArrId) (d : DirEntry) : (s.setDir a d).dp = s.dp := rfl
@[simp] theorem State.setDir_sv (s : State) (a : ArrId) (d : DirEntry) : (s.setDir a d).sv = s.sv := rfl
@[simp] theorem State.setDir_kv (s : State) (a : ArrId) (d : DirEntry) : (s.setDir a d).kv = s.kv := rfl
@[simp] theorem State.setDir_wt_models (s : State) (a : ArrId) (d : DirEntry) : (s.setDir a d).wt.models = s.wt.models := rfl
@[simp] theorem State.setDir_wt_assembling (s : State) (a : ArrId) (d : DirEntry) : (s.setDir a d).wt.assembling = s.wt.assembling := rfl
@[simp] theorem State.setDir_wt_masters (s : State) (a : ArrId) (d : DirEntry) : (s.setDir a d).wt.masters = s.wt.masters := rfl
@[simp] theorem State.setDir_wt_records (s : State) (a : ArrId) (d : DirEntry) : (s.setDir a d).wt.records = s.wt.records := rfl
@[simp] theorem State.setDir_wt_drift (s : State) (a : ArrId) (d : DirEntry) : (s.setDir a d).wt.drift = s.wt.drift := rfl
@[simp] theorem State.setDir_wt_franking (s : State) (a : ArrId) (d : DirEntry) : (s.setDir a d).wt.franking = s.wt.franking := rfl
@[simp] theorem State.setDir_wt_cells (s : State) (a : ArrId) (d : DirEntry) : (s.setDir a d).wt.cells = s.wt.cells := rfl
@[simp] theorem State.setDir_wt_calCells (s : State) (a : ArrId) (d : DirEntry) : (s.setDir a d).wt.calCells = s.wt.calCells := rfl
@[simp] theorem State.setDir_wt_wearBase (s : State) (a : ArrId) (d : DirEntry) : (s.setDir a d).wt.wearBase = s.wt.wearBase := rfl
@[simp] theorem State.setDir_wt_copyUses (s : State) (a : ArrId) (d : DirEntry) : (s.setDir a d).wt.copyUses = s.wt.copyUses := rfl
@[simp] theorem State.setDir_wt_progBase (s : State) (a : ArrId) (d : DirEntry) : (s.setDir a d).wt.progBase = s.wt.progBase := rfl
@[simp] theorem State.setDir_tl (s : State) (a : ArrId) (d : DirEntry) : (s.setDir a d).tl = s.tl := rfl
@[simp] theorem State.setDir_rd (s : State) (a : ArrId) (d : DirEntry) : (s.setDir a d).rd = s.rd := rfl
@[simp] theorem State.setDir_cl (s : State) (a : ArrId) (d : DirEntry) : (s.setDir a d).cl = s.cl := rfl
@[simp] theorem State.setDir_fb (s : State) (a : ArrId) (d : DirEntry) : (s.setDir a d).fb = s.fb := rfl
@[simp] theorem State.setDir_draw (s : State) (a : ArrId) (d : DirEntry) : (s.setDir a d).draw = s.draw := rfl
@[simp] theorem State.setDir_pending (s : State) (a : ArrId) (d : DirEntry) : (s.setDir a d).pending = s.pending := rfl

@[simp] theorem State.modDir_tm (s : State) (a : ArrId) (f : DirEntry → DirEntry) : (s.modDir a f).tm = s.tm := rfl
@[simp] theorem State.modDir_pw (s : State) (a : ArrId) (f : DirEntry → DirEntry) : (s.modDir a f).pw = s.pw := rfl
@[simp] theorem State.modDir_th (s : State) (a : ArrId) (f : DirEntry → DirEntry) : (s.modDir a f).th = s.th := rfl
@[simp] theorem State.modDir_bt (s : State) (a : ArrId) (f : DirEntry → DirEntry) : (s.modDir a f).bt = s.bt := rfl
@[simp] theorem State.modDir_ev (s : State) (a : ArrId) (f : DirEntry → DirEntry) : (s.modDir a f).ev = s.ev := rfl
@[simp] theorem State.modDir_rg (s : State) (a : ArrId) (f : DirEntry → DirEntry) : (s.modDir a f).rg = s.rg := rfl
@[simp] theorem State.modDir_adcs (s : State) (a : ArrId) (f : DirEntry → DirEntry) : (s.modDir a f).adcs = s.adcs := rfl
@[simp] theorem State.modDir_tp (s : State) (a : ArrId) (f : DirEntry → DirEntry) : (s.modDir a f).tp = s.tp := rfl
@[simp] theorem State.modDir_i3 (s : State) (a : ArrId) (f : DirEntry → DirEntry) : (s.modDir a f).i3 = s.i3 := rfl
@[simp] theorem State.modDir_dp (s : State) (a : ArrId) (f : DirEntry → DirEntry) : (s.modDir a f).dp = s.dp := rfl
@[simp] theorem State.modDir_sv (s : State) (a : ArrId) (f : DirEntry → DirEntry) : (s.modDir a f).sv = s.sv := rfl
@[simp] theorem State.modDir_kv (s : State) (a : ArrId) (f : DirEntry → DirEntry) : (s.modDir a f).kv = s.kv := rfl
@[simp] theorem State.modDir_wt_models (s : State) (a : ArrId) (f : DirEntry → DirEntry) : (s.modDir a f).wt.models = s.wt.models := rfl
@[simp] theorem State.modDir_wt_assembling (s : State) (a : ArrId) (f : DirEntry → DirEntry) :
    (s.modDir a f).wt.assembling = s.wt.assembling := rfl
@[simp] theorem State.modDir_wt_masters (s : State) (a : ArrId) (f : DirEntry → DirEntry) :
    (s.modDir a f).wt.masters = s.wt.masters := rfl
@[simp] theorem State.modDir_wt_records (s : State) (a : ArrId) (f : DirEntry → DirEntry) :
    (s.modDir a f).wt.records = s.wt.records := rfl
@[simp] theorem State.modDir_wt_drift (s : State) (a : ArrId) (f : DirEntry → DirEntry) : (s.modDir a f).wt.drift = s.wt.drift := rfl
@[simp] theorem State.modDir_wt_franking (s : State) (a : ArrId) (f : DirEntry → DirEntry) :
    (s.modDir a f).wt.franking = s.wt.franking := rfl
@[simp] theorem State.modDir_wt_cells (s : State) (a : ArrId) (f : DirEntry → DirEntry) : (s.modDir a f).wt.cells = s.wt.cells := rfl
@[simp] theorem State.modDir_wt_calCells (s : State) (a : ArrId) (f : DirEntry → DirEntry) :
    (s.modDir a f).wt.calCells = s.wt.calCells := rfl
@[simp] theorem State.modDir_wt_wearBase (s : State) (a : ArrId) (f : DirEntry → DirEntry) :
    (s.modDir a f).wt.wearBase = s.wt.wearBase := rfl
@[simp] theorem State.modDir_wt_copyUses (s : State) (a : ArrId) (f : DirEntry → DirEntry) :
    (s.modDir a f).wt.copyUses = s.wt.copyUses := rfl
@[simp] theorem State.modDir_wt_progBase (s : State) (a : ArrId) (f : DirEntry → DirEntry) :
    (s.modDir a f).wt.progBase = s.wt.progBase := rfl
@[simp] theorem State.modDir_tl (s : State) (a : ArrId) (f : DirEntry → DirEntry) : (s.modDir a f).tl = s.tl := rfl
@[simp] theorem State.modDir_rd (s : State) (a : ArrId) (f : DirEntry → DirEntry) : (s.modDir a f).rd = s.rd := rfl
@[simp] theorem State.modDir_cl (s : State) (a : ArrId) (f : DirEntry → DirEntry) : (s.modDir a f).cl = s.cl := rfl
@[simp] theorem State.modDir_fb (s : State) (a : ArrId) (f : DirEntry → DirEntry) : (s.modDir a f).fb = s.fb := rfl
@[simp] theorem State.modDir_draw (s : State) (a : ArrId) (f : DirEntry → DirEntry) : (s.modDir a f).draw = s.draw := rfl
@[simp] theorem State.modDir_pending (s : State) (a : ArrId) (f : DirEntry → DirEntry) : (s.modDir a f).pending = s.pending := rfl

@[simp] theorem State.setDrift_tm (s : State) (a : ArrId) (d : Drift) : (s.setDrift a d).tm = s.tm := rfl
@[simp] theorem State.setDrift_pw (s : State) (a : ArrId) (d : Drift) : (s.setDrift a d).pw = s.pw := rfl
@[simp] theorem State.setDrift_th (s : State) (a : ArrId) (d : Drift) : (s.setDrift a d).th = s.th := rfl
@[simp] theorem State.setDrift_bt (s : State) (a : ArrId) (d : Drift) : (s.setDrift a d).bt = s.bt := rfl
@[simp] theorem State.setDrift_ev (s : State) (a : ArrId) (d : Drift) : (s.setDrift a d).ev = s.ev := rfl
@[simp] theorem State.setDrift_rg (s : State) (a : ArrId) (d : Drift) : (s.setDrift a d).rg = s.rg := rfl
@[simp] theorem State.setDrift_adcs (s : State) (a : ArrId) (d : Drift) : (s.setDrift a d).adcs = s.adcs := rfl
@[simp] theorem State.setDrift_tp (s : State) (a : ArrId) (d : Drift) : (s.setDrift a d).tp = s.tp := rfl
@[simp] theorem State.setDrift_i3 (s : State) (a : ArrId) (d : Drift) : (s.setDrift a d).i3 = s.i3 := rfl
@[simp] theorem State.setDrift_dp (s : State) (a : ArrId) (d : Drift) : (s.setDrift a d).dp = s.dp := rfl
@[simp] theorem State.setDrift_sv (s : State) (a : ArrId) (d : Drift) : (s.setDrift a d).sv = s.sv := rfl
@[simp] theorem State.setDrift_kv (s : State) (a : ArrId) (d : Drift) : (s.setDrift a d).kv = s.kv := rfl
@[simp] theorem State.setDrift_wt_models (s : State) (a : ArrId) (d : Drift) : (s.setDrift a d).wt.models = s.wt.models := rfl
@[simp] theorem State.setDrift_wt_assembling (s : State) (a : ArrId) (d : Drift) : (s.setDrift a d).wt.assembling = s.wt.assembling := rfl
@[simp] theorem State.setDrift_wt_masters (s : State) (a : ArrId) (d : Drift) : (s.setDrift a d).wt.masters = s.wt.masters := rfl
@[simp] theorem State.setDrift_wt_records (s : State) (a : ArrId) (d : Drift) : (s.setDrift a d).wt.records = s.wt.records := rfl
@[simp] theorem State.setDrift_wt_directory (s : State) (a : ArrId) (d : Drift) : (s.setDrift a d).wt.directory = s.wt.directory := rfl
@[simp] theorem State.setDrift_wt_franking (s : State) (a : ArrId) (d : Drift) : (s.setDrift a d).wt.franking = s.wt.franking := rfl
@[simp] theorem State.setDrift_wt_cells (s : State) (a : ArrId) (d : Drift) : (s.setDrift a d).wt.cells = s.wt.cells := rfl
@[simp] theorem State.setDrift_wt_calCells (s : State) (a : ArrId) (d : Drift) : (s.setDrift a d).wt.calCells = s.wt.calCells := rfl
@[simp] theorem State.setDrift_wt_wearBase (s : State) (a : ArrId) (d : Drift) : (s.setDrift a d).wt.wearBase = s.wt.wearBase := rfl
@[simp] theorem State.setDrift_wt_copyUses (s : State) (a : ArrId) (d : Drift) : (s.setDrift a d).wt.copyUses = s.wt.copyUses := rfl
@[simp] theorem State.setDrift_wt_progBase (s : State) (a : ArrId) (d : Drift) : (s.setDrift a d).wt.progBase = s.wt.progBase := rfl
@[simp] theorem State.setDrift_tl (s : State) (a : ArrId) (d : Drift) : (s.setDrift a d).tl = s.tl := rfl
@[simp] theorem State.setDrift_rd (s : State) (a : ArrId) (d : Drift) : (s.setDrift a d).rd = s.rd := rfl
@[simp] theorem State.setDrift_cl (s : State) (a : ArrId) (d : Drift) : (s.setDrift a d).cl = s.cl := rfl
@[simp] theorem State.setDrift_fb (s : State) (a : ArrId) (d : Drift) : (s.setDrift a d).fb = s.fb := rfl
@[simp] theorem State.setDrift_draw (s : State) (a : ArrId) (d : Drift) : (s.setDrift a d).draw = s.draw := rfl
@[simp] theorem State.setDrift_pending (s : State) (a : ArrId) (d : Drift) : (s.setDrift a d).pending = s.pending := rfl

@[simp] theorem State.setFranking_tm (s : State) (a : ArrId) (f : Franking) : (s.setFranking a f).tm = s.tm := rfl
@[simp] theorem State.setFranking_pw (s : State) (a : ArrId) (f : Franking) : (s.setFranking a f).pw = s.pw := rfl
@[simp] theorem State.setFranking_th (s : State) (a : ArrId) (f : Franking) : (s.setFranking a f).th = s.th := rfl
@[simp] theorem State.setFranking_bt (s : State) (a : ArrId) (f : Franking) : (s.setFranking a f).bt = s.bt := rfl
@[simp] theorem State.setFranking_ev (s : State) (a : ArrId) (f : Franking) : (s.setFranking a f).ev = s.ev := rfl
@[simp] theorem State.setFranking_rg (s : State) (a : ArrId) (f : Franking) : (s.setFranking a f).rg = s.rg := rfl
@[simp] theorem State.setFranking_adcs (s : State) (a : ArrId) (f : Franking) : (s.setFranking a f).adcs = s.adcs := rfl
@[simp] theorem State.setFranking_tp (s : State) (a : ArrId) (f : Franking) : (s.setFranking a f).tp = s.tp := rfl
@[simp] theorem State.setFranking_i3 (s : State) (a : ArrId) (f : Franking) : (s.setFranking a f).i3 = s.i3 := rfl
@[simp] theorem State.setFranking_dp (s : State) (a : ArrId) (f : Franking) : (s.setFranking a f).dp = s.dp := rfl
@[simp] theorem State.setFranking_sv (s : State) (a : ArrId) (f : Franking) : (s.setFranking a f).sv = s.sv := rfl
@[simp] theorem State.setFranking_kv (s : State) (a : ArrId) (f : Franking) : (s.setFranking a f).kv = s.kv := rfl
@[simp] theorem State.setFranking_wt_models (s : State) (a : ArrId) (f : Franking) : (s.setFranking a f).wt.models = s.wt.models := rfl
@[simp] theorem State.setFranking_wt_assembling (s : State) (a : ArrId) (f : Franking) :
    (s.setFranking a f).wt.assembling = s.wt.assembling := rfl
@[simp] theorem State.setFranking_wt_masters (s : State) (a : ArrId) (f : Franking) : (s.setFranking a f).wt.masters = s.wt.masters := rfl
@[simp] theorem State.setFranking_wt_records (s : State) (a : ArrId) (f : Franking) : (s.setFranking a f).wt.records = s.wt.records := rfl
@[simp] theorem State.setFranking_wt_directory (s : State) (a : ArrId) (f : Franking) :
    (s.setFranking a f).wt.directory = s.wt.directory := rfl
@[simp] theorem State.setFranking_wt_drift (s : State) (a : ArrId) (f : Franking) : (s.setFranking a f).wt.drift = s.wt.drift := rfl
@[simp] theorem State.setFranking_wt_cells (s : State) (a : ArrId) (f : Franking) : (s.setFranking a f).wt.cells = s.wt.cells := rfl
@[simp] theorem State.setFranking_wt_calCells (s : State) (a : ArrId) (f : Franking) :
    (s.setFranking a f).wt.calCells = s.wt.calCells := rfl
@[simp] theorem State.setFranking_wt_wearBase (s : State) (a : ArrId) (f : Franking) :
    (s.setFranking a f).wt.wearBase = s.wt.wearBase := rfl
@[simp] theorem State.setFranking_wt_copyUses (s : State) (a : ArrId) (f : Franking) :
    (s.setFranking a f).wt.copyUses = s.wt.copyUses := rfl
@[simp] theorem State.setFranking_wt_progBase (s : State) (a : ArrId) (f : Franking) :
    (s.setFranking a f).wt.progBase = s.wt.progBase := rfl
@[simp] theorem State.setFranking_tl (s : State) (a : ArrId) (f : Franking) : (s.setFranking a f).tl = s.tl := rfl
@[simp] theorem State.setFranking_rd (s : State) (a : ArrId) (f : Franking) : (s.setFranking a f).rd = s.rd := rfl
@[simp] theorem State.setFranking_cl (s : State) (a : ArrId) (f : Franking) : (s.setFranking a f).cl = s.cl := rfl
@[simp] theorem State.setFranking_fb (s : State) (a : ArrId) (f : Franking) : (s.setFranking a f).fb = s.fb := rfl
@[simp] theorem State.setFranking_draw (s : State) (a : ArrId) (f : Franking) : (s.setFranking a f).draw = s.draw := rfl
@[simp] theorem State.setFranking_pending (s : State) (a : ArrId) (f : Franking) : (s.setFranking a f).pending = s.pending := rfl

@[simp] theorem State.modFranking_tm (s : State) (a : ArrId) (f : Franking → Franking) : (s.modFranking a f).tm = s.tm := rfl
@[simp] theorem State.modFranking_pw (s : State) (a : ArrId) (f : Franking → Franking) : (s.modFranking a f).pw = s.pw := rfl
@[simp] theorem State.modFranking_th (s : State) (a : ArrId) (f : Franking → Franking) : (s.modFranking a f).th = s.th := rfl
@[simp] theorem State.modFranking_bt (s : State) (a : ArrId) (f : Franking → Franking) : (s.modFranking a f).bt = s.bt := rfl
@[simp] theorem State.modFranking_ev (s : State) (a : ArrId) (f : Franking → Franking) : (s.modFranking a f).ev = s.ev := rfl
@[simp] theorem State.modFranking_rg (s : State) (a : ArrId) (f : Franking → Franking) : (s.modFranking a f).rg = s.rg := rfl
@[simp] theorem State.modFranking_adcs (s : State) (a : ArrId) (f : Franking → Franking) : (s.modFranking a f).adcs = s.adcs := rfl
@[simp] theorem State.modFranking_tp (s : State) (a : ArrId) (f : Franking → Franking) : (s.modFranking a f).tp = s.tp := rfl
@[simp] theorem State.modFranking_i3 (s : State) (a : ArrId) (f : Franking → Franking) : (s.modFranking a f).i3 = s.i3 := rfl
@[simp] theorem State.modFranking_dp (s : State) (a : ArrId) (f : Franking → Franking) : (s.modFranking a f).dp = s.dp := rfl
@[simp] theorem State.modFranking_sv (s : State) (a : ArrId) (f : Franking → Franking) : (s.modFranking a f).sv = s.sv := rfl
@[simp] theorem State.modFranking_kv (s : State) (a : ArrId) (f : Franking → Franking) : (s.modFranking a f).kv = s.kv := rfl
@[simp] theorem State.modFranking_wt_models (s : State) (a : ArrId) (f : Franking → Franking) :
    (s.modFranking a f).wt.models = s.wt.models := rfl
@[simp] theorem State.modFranking_wt_assembling (s : State) (a : ArrId) (f : Franking → Franking) :
    (s.modFranking a f).wt.assembling = s.wt.assembling := rfl
@[simp] theorem State.modFranking_wt_masters (s : State) (a : ArrId) (f : Franking → Franking) :
    (s.modFranking a f).wt.masters = s.wt.masters := rfl
@[simp] theorem State.modFranking_wt_records (s : State) (a : ArrId) (f : Franking → Franking) :
    (s.modFranking a f).wt.records = s.wt.records := rfl
@[simp] theorem State.modFranking_wt_directory (s : State) (a : ArrId) (f : Franking → Franking) :
    (s.modFranking a f).wt.directory = s.wt.directory := rfl
@[simp] theorem State.modFranking_wt_drift (s : State) (a : ArrId) (f : Franking → Franking) :
    (s.modFranking a f).wt.drift = s.wt.drift := rfl
@[simp] theorem State.modFranking_wt_cells (s : State) (a : ArrId) (f : Franking → Franking) :
    (s.modFranking a f).wt.cells = s.wt.cells := rfl
@[simp] theorem State.modFranking_wt_calCells (s : State) (a : ArrId) (f : Franking → Franking) :
    (s.modFranking a f).wt.calCells = s.wt.calCells := rfl
@[simp] theorem State.modFranking_wt_wearBase (s : State) (a : ArrId) (f : Franking → Franking) :
    (s.modFranking a f).wt.wearBase = s.wt.wearBase := rfl
@[simp] theorem State.modFranking_wt_copyUses (s : State) (a : ArrId) (f : Franking → Franking) :
    (s.modFranking a f).wt.copyUses = s.wt.copyUses := rfl
@[simp] theorem State.modFranking_wt_progBase (s : State) (a : ArrId) (f : Franking → Franking) :
    (s.modFranking a f).wt.progBase = s.wt.progBase := rfl
@[simp] theorem State.modFranking_tl (s : State) (a : ArrId) (f : Franking → Franking) : (s.modFranking a f).tl = s.tl := rfl
@[simp] theorem State.modFranking_rd (s : State) (a : ArrId) (f : Franking → Franking) : (s.modFranking a f).rd = s.rd := rfl
@[simp] theorem State.modFranking_cl (s : State) (a : ArrId) (f : Franking → Franking) : (s.modFranking a f).cl = s.cl := rfl
@[simp] theorem State.modFranking_fb (s : State) (a : ArrId) (f : Franking → Franking) : (s.modFranking a f).fb = s.fb := rfl
@[simp] theorem State.modFranking_draw (s : State) (a : ArrId) (f : Franking → Franking) : (s.modFranking a f).draw = s.draw := rfl
@[simp] theorem State.modFranking_pending (s : State) (a : ArrId) (f : Franking → Franking) :
    (s.modFranking a f).pending = s.pending := rfl

@[simp] theorem State.setSlot_tm (s : State) (x : Slot) : (s.setSlot x).tm = s.tm := rfl
@[simp] theorem State.setSlot_pw (s : State) (x : Slot) : (s.setSlot x).pw = s.pw := rfl
@[simp] theorem State.setSlot_th (s : State) (x : Slot) : (s.setSlot x).th = s.th := rfl
@[simp] theorem State.setSlot_bt (s : State) (x : Slot) : (s.setSlot x).bt = s.bt := rfl
@[simp] theorem State.setSlot_ev (s : State) (x : Slot) : (s.setSlot x).ev = s.ev := rfl
@[simp] theorem State.setSlot_rg (s : State) (x : Slot) : (s.setSlot x).rg = s.rg := rfl
@[simp] theorem State.setSlot_adcs (s : State) (x : Slot) : (s.setSlot x).adcs = s.adcs := rfl
@[simp] theorem State.setSlot_tp (s : State) (x : Slot) : (s.setSlot x).tp = s.tp := rfl
@[simp] theorem State.setSlot_i3 (s : State) (x : Slot) : (s.setSlot x).i3 = s.i3 := rfl
@[simp] theorem State.setSlot_dp (s : State) (x : Slot) : (s.setSlot x).dp = s.dp := rfl
@[simp] theorem State.setSlot_sv_windows (s : State) (x : Slot) : (s.setSlot x).sv.windows = s.sv.windows := rfl
@[simp] theorem State.setSlot_sv_mem (s : State) (x : Slot) : (s.setSlot x).sv.mem = s.sv.mem := rfl
@[simp] theorem State.setSlot_sv_contexts (s : State) (x : Slot) : (s.setSlot x).sv.contexts = s.sv.contexts := rfl
@[simp] theorem State.setSlot_sv_queues (s : State) (x : Slot) : (s.setSlot x).sv.queues = s.sv.queues := rfl
@[simp] theorem State.setSlot_sv_steps (s : State) (x : Slot) : (s.setSlot x).sv.steps = s.sv.steps := rfl
@[simp] theorem State.setSlot_sv_nextTag (s : State) (x : Slot) : (s.setSlot x).sv.nextTag = s.sv.nextTag := rfl
@[simp] theorem State.setSlot_sv_inputs (s : State) (x : Slot) : (s.setSlot x).sv.inputs = s.sv.inputs := rfl
@[simp] theorem State.setSlot_sv_nextInput (s : State) (x : Slot) : (s.setSlot x).sv.nextInput = s.sv.nextInput := rfl
@[simp] theorem State.setSlot_sv_storm (s : State) (x : Slot) : (s.setSlot x).sv.storm = s.sv.storm := rfl
@[simp] theorem State.setSlot_sv_stormBit (s : State) (x : Slot) : (s.setSlot x).sv.stormBit = s.sv.stormBit := rfl
@[simp] theorem State.setSlot_sv_stormFraction (s : State) (x : Slot) : (s.setSlot x).sv.stormFraction = s.sv.stormFraction := rfl
@[simp] theorem State.setSlot_sv_stormSince (s : State) (x : Slot) : (s.setSlot x).sv.stormSince = s.sv.stormSince := rfl
@[simp] theorem State.setSlot_sv_recalibrated (s : State) (x : Slot) : (s.setSlot x).sv.recalibrated = s.sv.recalibrated := rfl
@[simp] theorem State.setSlot_sv_adapters (s : State) (x : Slot) : (s.setSlot x).sv.adapters = s.sv.adapters := rfl
@[simp] theorem State.setSlot_sv_engines (s : State) (x : Slot) : (s.setSlot x).sv.engines = s.sv.engines := rfl
@[simp] theorem State.setSlot_kv (s : State) (x : Slot) : (s.setSlot x).kv = s.kv := rfl
@[simp] theorem State.setSlot_wt (s : State) (x : Slot) : (s.setSlot x).wt = s.wt := rfl
@[simp] theorem State.setSlot_tl (s : State) (x : Slot) : (s.setSlot x).tl = s.tl := rfl
@[simp] theorem State.setSlot_rd (s : State) (x : Slot) : (s.setSlot x).rd = s.rd := rfl
@[simp] theorem State.setSlot_cl (s : State) (x : Slot) : (s.setSlot x).cl = s.cl := rfl
@[simp] theorem State.setSlot_fb (s : State) (x : Slot) : (s.setSlot x).fb = s.fb := rfl
@[simp] theorem State.setSlot_draw (s : State) (x : Slot) : (s.setSlot x).draw = s.draw := rfl
@[simp] theorem State.setSlot_pending (s : State) (x : Slot) : (s.setSlot x).pending = s.pending := rfl

@[simp] theorem State.modSlot_tm (s : State) (n : Nat) (f : Slot → Slot) : (s.modSlot n f).tm = s.tm := rfl
@[simp] theorem State.modSlot_pw (s : State) (n : Nat) (f : Slot → Slot) : (s.modSlot n f).pw = s.pw := rfl
@[simp] theorem State.modSlot_th (s : State) (n : Nat) (f : Slot → Slot) : (s.modSlot n f).th = s.th := rfl
@[simp] theorem State.modSlot_bt (s : State) (n : Nat) (f : Slot → Slot) : (s.modSlot n f).bt = s.bt := rfl
@[simp] theorem State.modSlot_ev (s : State) (n : Nat) (f : Slot → Slot) : (s.modSlot n f).ev = s.ev := rfl
@[simp] theorem State.modSlot_rg (s : State) (n : Nat) (f : Slot → Slot) : (s.modSlot n f).rg = s.rg := rfl
@[simp] theorem State.modSlot_adcs (s : State) (n : Nat) (f : Slot → Slot) : (s.modSlot n f).adcs = s.adcs := rfl
@[simp] theorem State.modSlot_tp (s : State) (n : Nat) (f : Slot → Slot) : (s.modSlot n f).tp = s.tp := rfl
@[simp] theorem State.modSlot_i3 (s : State) (n : Nat) (f : Slot → Slot) : (s.modSlot n f).i3 = s.i3 := rfl
@[simp] theorem State.modSlot_dp (s : State) (n : Nat) (f : Slot → Slot) : (s.modSlot n f).dp = s.dp := rfl
@[simp] theorem State.modSlot_sv_windows (s : State) (n : Nat) (f : Slot → Slot) : (s.modSlot n f).sv.windows = s.sv.windows := rfl
@[simp] theorem State.modSlot_sv_mem (s : State) (n : Nat) (f : Slot → Slot) : (s.modSlot n f).sv.mem = s.sv.mem := rfl
@[simp] theorem State.modSlot_sv_contexts (s : State) (n : Nat) (f : Slot → Slot) : (s.modSlot n f).sv.contexts = s.sv.contexts := rfl
@[simp] theorem State.modSlot_sv_queues (s : State) (n : Nat) (f : Slot → Slot) : (s.modSlot n f).sv.queues = s.sv.queues := rfl
@[simp] theorem State.modSlot_sv_steps (s : State) (n : Nat) (f : Slot → Slot) : (s.modSlot n f).sv.steps = s.sv.steps := rfl
@[simp] theorem State.modSlot_sv_nextTag (s : State) (n : Nat) (f : Slot → Slot) : (s.modSlot n f).sv.nextTag = s.sv.nextTag := rfl
@[simp] theorem State.modSlot_sv_inputs (s : State) (n : Nat) (f : Slot → Slot) : (s.modSlot n f).sv.inputs = s.sv.inputs := rfl
@[simp] theorem State.modSlot_sv_nextInput (s : State) (n : Nat) (f : Slot → Slot) : (s.modSlot n f).sv.nextInput = s.sv.nextInput := rfl
@[simp] theorem State.modSlot_sv_storm (s : State) (n : Nat) (f : Slot → Slot) : (s.modSlot n f).sv.storm = s.sv.storm := rfl
@[simp] theorem State.modSlot_sv_stormBit (s : State) (n : Nat) (f : Slot → Slot) : (s.modSlot n f).sv.stormBit = s.sv.stormBit := rfl
@[simp] theorem State.modSlot_sv_stormFraction (s : State) (n : Nat) (f : Slot → Slot) :
    (s.modSlot n f).sv.stormFraction = s.sv.stormFraction := rfl
@[simp] theorem State.modSlot_sv_stormSince (s : State) (n : Nat) (f : Slot → Slot) :
    (s.modSlot n f).sv.stormSince = s.sv.stormSince := rfl
@[simp] theorem State.modSlot_sv_recalibrated (s : State) (n : Nat) (f : Slot → Slot) :
    (s.modSlot n f).sv.recalibrated = s.sv.recalibrated := rfl
@[simp] theorem State.modSlot_sv_adapters (s : State) (n : Nat) (f : Slot → Slot) : (s.modSlot n f).sv.adapters = s.sv.adapters := rfl
@[simp] theorem State.modSlot_sv_engines (s : State) (n : Nat) (f : Slot → Slot) : (s.modSlot n f).sv.engines = s.sv.engines := rfl
@[simp] theorem State.modSlot_kv (s : State) (n : Nat) (f : Slot → Slot) : (s.modSlot n f).kv = s.kv := rfl
@[simp] theorem State.modSlot_wt (s : State) (n : Nat) (f : Slot → Slot) : (s.modSlot n f).wt = s.wt := rfl
@[simp] theorem State.modSlot_tl (s : State) (n : Nat) (f : Slot → Slot) : (s.modSlot n f).tl = s.tl := rfl
@[simp] theorem State.modSlot_rd (s : State) (n : Nat) (f : Slot → Slot) : (s.modSlot n f).rd = s.rd := rfl
@[simp] theorem State.modSlot_cl (s : State) (n : Nat) (f : Slot → Slot) : (s.modSlot n f).cl = s.cl := rfl
@[simp] theorem State.modSlot_fb (s : State) (n : Nat) (f : Slot → Slot) : (s.modSlot n f).fb = s.fb := rfl
@[simp] theorem State.modSlot_draw (s : State) (n : Nat) (f : Slot → Slot) : (s.modSlot n f).draw = s.draw := rfl
@[simp] theorem State.modSlot_pending (s : State) (n : Nat) (f : Slot → Slot) : (s.modSlot n f).pending = s.pending := rfl

@[simp] theorem State.setContext_tm (s : State) (x : Context) : (s.setContext x).tm = s.tm := rfl
@[simp] theorem State.setContext_pw (s : State) (x : Context) : (s.setContext x).pw = s.pw := rfl
@[simp] theorem State.setContext_th (s : State) (x : Context) : (s.setContext x).th = s.th := rfl
@[simp] theorem State.setContext_bt (s : State) (x : Context) : (s.setContext x).bt = s.bt := rfl
@[simp] theorem State.setContext_ev (s : State) (x : Context) : (s.setContext x).ev = s.ev := rfl
@[simp] theorem State.setContext_rg (s : State) (x : Context) : (s.setContext x).rg = s.rg := rfl
@[simp] theorem State.setContext_adcs (s : State) (x : Context) : (s.setContext x).adcs = s.adcs := rfl
@[simp] theorem State.setContext_tp (s : State) (x : Context) : (s.setContext x).tp = s.tp := rfl
@[simp] theorem State.setContext_i3 (s : State) (x : Context) : (s.setContext x).i3 = s.i3 := rfl
@[simp] theorem State.setContext_dp (s : State) (x : Context) : (s.setContext x).dp = s.dp := rfl
@[simp] theorem State.setContext_sv_windows (s : State) (x : Context) : (s.setContext x).sv.windows = s.sv.windows := rfl
@[simp] theorem State.setContext_sv_mem (s : State) (x : Context) : (s.setContext x).sv.mem = s.sv.mem := rfl
@[simp] theorem State.setContext_sv_queues (s : State) (x : Context) : (s.setContext x).sv.queues = s.sv.queues := rfl
@[simp] theorem State.setContext_sv_slots (s : State) (x : Context) : (s.setContext x).sv.slots = s.sv.slots := rfl
@[simp] theorem State.setContext_sv_steps (s : State) (x : Context) : (s.setContext x).sv.steps = s.sv.steps := rfl
@[simp] theorem State.setContext_sv_nextTag (s : State) (x : Context) : (s.setContext x).sv.nextTag = s.sv.nextTag := rfl
@[simp] theorem State.setContext_sv_inputs (s : State) (x : Context) : (s.setContext x).sv.inputs = s.sv.inputs := rfl
@[simp] theorem State.setContext_sv_nextInput (s : State) (x : Context) : (s.setContext x).sv.nextInput = s.sv.nextInput := rfl
@[simp] theorem State.setContext_sv_storm (s : State) (x : Context) : (s.setContext x).sv.storm = s.sv.storm := rfl
@[simp] theorem State.setContext_sv_stormBit (s : State) (x : Context) : (s.setContext x).sv.stormBit = s.sv.stormBit := rfl
@[simp] theorem State.setContext_sv_stormFraction (s : State) (x : Context) :
    (s.setContext x).sv.stormFraction = s.sv.stormFraction := rfl
@[simp] theorem State.setContext_sv_stormSince (s : State) (x : Context) : (s.setContext x).sv.stormSince = s.sv.stormSince := rfl
@[simp] theorem State.setContext_sv_recalibrated (s : State) (x : Context) : (s.setContext x).sv.recalibrated = s.sv.recalibrated := rfl
@[simp] theorem State.setContext_sv_adapters (s : State) (x : Context) : (s.setContext x).sv.adapters = s.sv.adapters := rfl
@[simp] theorem State.setContext_sv_engines (s : State) (x : Context) : (s.setContext x).sv.engines = s.sv.engines := rfl
@[simp] theorem State.setContext_kv (s : State) (x : Context) : (s.setContext x).kv = s.kv := rfl
@[simp] theorem State.setContext_wt (s : State) (x : Context) : (s.setContext x).wt = s.wt := rfl
@[simp] theorem State.setContext_tl (s : State) (x : Context) : (s.setContext x).tl = s.tl := rfl
@[simp] theorem State.setContext_rd (s : State) (x : Context) : (s.setContext x).rd = s.rd := rfl
@[simp] theorem State.setContext_cl (s : State) (x : Context) : (s.setContext x).cl = s.cl := rfl
@[simp] theorem State.setContext_fb (s : State) (x : Context) : (s.setContext x).fb = s.fb := rfl
@[simp] theorem State.setContext_draw (s : State) (x : Context) : (s.setContext x).draw = s.draw := rfl
@[simp] theorem State.setContext_pending (s : State) (x : Context) : (s.setContext x).pending = s.pending := rfl

@[simp] theorem State.setQueue_tm (s : State) (x : Queue) : (s.setQueue x).tm = s.tm := rfl
@[simp] theorem State.setQueue_pw (s : State) (x : Queue) : (s.setQueue x).pw = s.pw := rfl
@[simp] theorem State.setQueue_th (s : State) (x : Queue) : (s.setQueue x).th = s.th := rfl
@[simp] theorem State.setQueue_bt (s : State) (x : Queue) : (s.setQueue x).bt = s.bt := rfl
@[simp] theorem State.setQueue_ev (s : State) (x : Queue) : (s.setQueue x).ev = s.ev := rfl
@[simp] theorem State.setQueue_rg (s : State) (x : Queue) : (s.setQueue x).rg = s.rg := rfl
@[simp] theorem State.setQueue_adcs (s : State) (x : Queue) : (s.setQueue x).adcs = s.adcs := rfl
@[simp] theorem State.setQueue_tp (s : State) (x : Queue) : (s.setQueue x).tp = s.tp := rfl
@[simp] theorem State.setQueue_i3 (s : State) (x : Queue) : (s.setQueue x).i3 = s.i3 := rfl
@[simp] theorem State.setQueue_dp (s : State) (x : Queue) : (s.setQueue x).dp = s.dp := rfl
@[simp] theorem State.setQueue_sv_windows (s : State) (x : Queue) : (s.setQueue x).sv.windows = s.sv.windows := rfl
@[simp] theorem State.setQueue_sv_mem (s : State) (x : Queue) : (s.setQueue x).sv.mem = s.sv.mem := rfl
@[simp] theorem State.setQueue_sv_contexts (s : State) (x : Queue) : (s.setQueue x).sv.contexts = s.sv.contexts := rfl
@[simp] theorem State.setQueue_sv_slots (s : State) (x : Queue) : (s.setQueue x).sv.slots = s.sv.slots := rfl
@[simp] theorem State.setQueue_sv_steps (s : State) (x : Queue) : (s.setQueue x).sv.steps = s.sv.steps := rfl
@[simp] theorem State.setQueue_sv_nextTag (s : State) (x : Queue) : (s.setQueue x).sv.nextTag = s.sv.nextTag := rfl
@[simp] theorem State.setQueue_sv_inputs (s : State) (x : Queue) : (s.setQueue x).sv.inputs = s.sv.inputs := rfl
@[simp] theorem State.setQueue_sv_nextInput (s : State) (x : Queue) : (s.setQueue x).sv.nextInput = s.sv.nextInput := rfl
@[simp] theorem State.setQueue_sv_storm (s : State) (x : Queue) : (s.setQueue x).sv.storm = s.sv.storm := rfl
@[simp] theorem State.setQueue_sv_stormBit (s : State) (x : Queue) : (s.setQueue x).sv.stormBit = s.sv.stormBit := rfl
@[simp] theorem State.setQueue_sv_stormFraction (s : State) (x : Queue) : (s.setQueue x).sv.stormFraction = s.sv.stormFraction := rfl
@[simp] theorem State.setQueue_sv_stormSince (s : State) (x : Queue) : (s.setQueue x).sv.stormSince = s.sv.stormSince := rfl
@[simp] theorem State.setQueue_sv_recalibrated (s : State) (x : Queue) : (s.setQueue x).sv.recalibrated = s.sv.recalibrated := rfl
@[simp] theorem State.setQueue_sv_adapters (s : State) (x : Queue) : (s.setQueue x).sv.adapters = s.sv.adapters := rfl
@[simp] theorem State.setQueue_sv_engines (s : State) (x : Queue) : (s.setQueue x).sv.engines = s.sv.engines := rfl
@[simp] theorem State.setQueue_kv (s : State) (x : Queue) : (s.setQueue x).kv = s.kv := rfl
@[simp] theorem State.setQueue_wt (s : State) (x : Queue) : (s.setQueue x).wt = s.wt := rfl
@[simp] theorem State.setQueue_tl (s : State) (x : Queue) : (s.setQueue x).tl = s.tl := rfl
@[simp] theorem State.setQueue_rd (s : State) (x : Queue) : (s.setQueue x).rd = s.rd := rfl
@[simp] theorem State.setQueue_cl (s : State) (x : Queue) : (s.setQueue x).cl = s.cl := rfl
@[simp] theorem State.setQueue_fb (s : State) (x : Queue) : (s.setQueue x).fb = s.fb := rfl
@[simp] theorem State.setQueue_draw (s : State) (x : Queue) : (s.setQueue x).draw = s.draw := rfl
@[simp] theorem State.setQueue_pending (s : State) (x : Queue) : (s.setQueue x).pending = s.pending := rfl

@[simp] theorem State.modQueue_tm (s : State) (n : Nat) (f : Queue → Queue) : (s.modQueue n f).tm = s.tm := rfl
@[simp] theorem State.modQueue_pw (s : State) (n : Nat) (f : Queue → Queue) : (s.modQueue n f).pw = s.pw := rfl
@[simp] theorem State.modQueue_th (s : State) (n : Nat) (f : Queue → Queue) : (s.modQueue n f).th = s.th := rfl
@[simp] theorem State.modQueue_bt (s : State) (n : Nat) (f : Queue → Queue) : (s.modQueue n f).bt = s.bt := rfl
@[simp] theorem State.modQueue_ev (s : State) (n : Nat) (f : Queue → Queue) : (s.modQueue n f).ev = s.ev := rfl
@[simp] theorem State.modQueue_rg (s : State) (n : Nat) (f : Queue → Queue) : (s.modQueue n f).rg = s.rg := rfl
@[simp] theorem State.modQueue_adcs (s : State) (n : Nat) (f : Queue → Queue) : (s.modQueue n f).adcs = s.adcs := rfl
@[simp] theorem State.modQueue_tp (s : State) (n : Nat) (f : Queue → Queue) : (s.modQueue n f).tp = s.tp := rfl
@[simp] theorem State.modQueue_i3 (s : State) (n : Nat) (f : Queue → Queue) : (s.modQueue n f).i3 = s.i3 := rfl
@[simp] theorem State.modQueue_dp (s : State) (n : Nat) (f : Queue → Queue) : (s.modQueue n f).dp = s.dp := rfl
@[simp] theorem State.modQueue_sv_windows (s : State) (n : Nat) (f : Queue → Queue) : (s.modQueue n f).sv.windows = s.sv.windows := rfl
@[simp] theorem State.modQueue_sv_mem (s : State) (n : Nat) (f : Queue → Queue) : (s.modQueue n f).sv.mem = s.sv.mem := rfl
@[simp] theorem State.modQueue_sv_contexts (s : State) (n : Nat) (f : Queue → Queue) : (s.modQueue n f).sv.contexts = s.sv.contexts := rfl
@[simp] theorem State.modQueue_sv_slots (s : State) (n : Nat) (f : Queue → Queue) : (s.modQueue n f).sv.slots = s.sv.slots := rfl
@[simp] theorem State.modQueue_sv_steps (s : State) (n : Nat) (f : Queue → Queue) : (s.modQueue n f).sv.steps = s.sv.steps := rfl
@[simp] theorem State.modQueue_sv_nextTag (s : State) (n : Nat) (f : Queue → Queue) : (s.modQueue n f).sv.nextTag = s.sv.nextTag := rfl
@[simp] theorem State.modQueue_sv_inputs (s : State) (n : Nat) (f : Queue → Queue) : (s.modQueue n f).sv.inputs = s.sv.inputs := rfl
@[simp] theorem State.modQueue_sv_nextInput (s : State) (n : Nat) (f : Queue → Queue) :
    (s.modQueue n f).sv.nextInput = s.sv.nextInput := rfl
@[simp] theorem State.modQueue_sv_storm (s : State) (n : Nat) (f : Queue → Queue) : (s.modQueue n f).sv.storm = s.sv.storm := rfl
@[simp] theorem State.modQueue_sv_stormBit (s : State) (n : Nat) (f : Queue → Queue) : (s.modQueue n f).sv.stormBit = s.sv.stormBit := rfl
@[simp] theorem State.modQueue_sv_stormFraction (s : State) (n : Nat) (f : Queue → Queue) :
    (s.modQueue n f).sv.stormFraction = s.sv.stormFraction := rfl
@[simp] theorem State.modQueue_sv_stormSince (s : State) (n : Nat) (f : Queue → Queue) :
    (s.modQueue n f).sv.stormSince = s.sv.stormSince := rfl
@[simp] theorem State.modQueue_sv_recalibrated (s : State) (n : Nat) (f : Queue → Queue) :
    (s.modQueue n f).sv.recalibrated = s.sv.recalibrated := rfl
@[simp] theorem State.modQueue_sv_adapters (s : State) (n : Nat) (f : Queue → Queue) : (s.modQueue n f).sv.adapters = s.sv.adapters := rfl
@[simp] theorem State.modQueue_sv_engines (s : State) (n : Nat) (f : Queue → Queue) : (s.modQueue n f).sv.engines = s.sv.engines := rfl
@[simp] theorem State.modQueue_kv (s : State) (n : Nat) (f : Queue → Queue) : (s.modQueue n f).kv = s.kv := rfl
@[simp] theorem State.modQueue_wt (s : State) (n : Nat) (f : Queue → Queue) : (s.modQueue n f).wt = s.wt := rfl
@[simp] theorem State.modQueue_tl (s : State) (n : Nat) (f : Queue → Queue) : (s.modQueue n f).tl = s.tl := rfl
@[simp] theorem State.modQueue_rd (s : State) (n : Nat) (f : Queue → Queue) : (s.modQueue n f).rd = s.rd := rfl
@[simp] theorem State.modQueue_cl (s : State) (n : Nat) (f : Queue → Queue) : (s.modQueue n f).cl = s.cl := rfl
@[simp] theorem State.modQueue_fb (s : State) (n : Nat) (f : Queue → Queue) : (s.modQueue n f).fb = s.fb := rfl
@[simp] theorem State.modQueue_draw (s : State) (n : Nat) (f : Queue → Queue) : (s.modQueue n f).draw = s.draw := rfl
@[simp] theorem State.modQueue_pending (s : State) (n : Nat) (f : Queue → Queue) : (s.modQueue n f).pending = s.pending := rfl

@[simp] theorem State.modStep_tm (s : State) (tag : Nat) (f : OpenStep → OpenStep) : (s.modStep tag f).tm = s.tm := rfl
@[simp] theorem State.modStep_pw (s : State) (tag : Nat) (f : OpenStep → OpenStep) : (s.modStep tag f).pw = s.pw := rfl
@[simp] theorem State.modStep_th (s : State) (tag : Nat) (f : OpenStep → OpenStep) : (s.modStep tag f).th = s.th := rfl
@[simp] theorem State.modStep_bt (s : State) (tag : Nat) (f : OpenStep → OpenStep) : (s.modStep tag f).bt = s.bt := rfl
@[simp] theorem State.modStep_ev (s : State) (tag : Nat) (f : OpenStep → OpenStep) : (s.modStep tag f).ev = s.ev := rfl
@[simp] theorem State.modStep_rg (s : State) (tag : Nat) (f : OpenStep → OpenStep) : (s.modStep tag f).rg = s.rg := rfl
@[simp] theorem State.modStep_adcs (s : State) (tag : Nat) (f : OpenStep → OpenStep) : (s.modStep tag f).adcs = s.adcs := rfl
@[simp] theorem State.modStep_tp (s : State) (tag : Nat) (f : OpenStep → OpenStep) : (s.modStep tag f).tp = s.tp := rfl
@[simp] theorem State.modStep_i3 (s : State) (tag : Nat) (f : OpenStep → OpenStep) : (s.modStep tag f).i3 = s.i3 := rfl
@[simp] theorem State.modStep_dp (s : State) (tag : Nat) (f : OpenStep → OpenStep) : (s.modStep tag f).dp = s.dp := rfl
@[simp] theorem State.modStep_sv_windows (s : State) (tag : Nat) (f : OpenStep → OpenStep) :
    (s.modStep tag f).sv.windows = s.sv.windows := rfl
@[simp] theorem State.modStep_sv_mem (s : State) (tag : Nat) (f : OpenStep → OpenStep) : (s.modStep tag f).sv.mem = s.sv.mem := rfl
@[simp] theorem State.modStep_sv_contexts (s : State) (tag : Nat) (f : OpenStep → OpenStep) :
    (s.modStep tag f).sv.contexts = s.sv.contexts := rfl
@[simp] theorem State.modStep_sv_queues (s : State) (tag : Nat) (f : OpenStep → OpenStep) :
    (s.modStep tag f).sv.queues = s.sv.queues := rfl
@[simp] theorem State.modStep_sv_slots (s : State) (tag : Nat) (f : OpenStep → OpenStep) : (s.modStep tag f).sv.slots = s.sv.slots := rfl
@[simp] theorem State.modStep_sv_nextTag (s : State) (tag : Nat) (f : OpenStep → OpenStep) :
    (s.modStep tag f).sv.nextTag = s.sv.nextTag := rfl
@[simp] theorem State.modStep_sv_inputs (s : State) (tag : Nat) (f : OpenStep → OpenStep) :
    (s.modStep tag f).sv.inputs = s.sv.inputs := rfl
@[simp] theorem State.modStep_sv_nextInput (s : State) (tag : Nat) (f : OpenStep → OpenStep) :
    (s.modStep tag f).sv.nextInput = s.sv.nextInput := rfl
@[simp] theorem State.modStep_sv_storm (s : State) (tag : Nat) (f : OpenStep → OpenStep) : (s.modStep tag f).sv.storm = s.sv.storm := rfl
@[simp] theorem State.modStep_sv_stormBit (s : State) (tag : Nat) (f : OpenStep → OpenStep) :
    (s.modStep tag f).sv.stormBit = s.sv.stormBit := rfl
@[simp] theorem State.modStep_sv_stormFraction (s : State) (tag : Nat) (f : OpenStep → OpenStep) :
    (s.modStep tag f).sv.stormFraction = s.sv.stormFraction := rfl
@[simp] theorem State.modStep_sv_stormSince (s : State) (tag : Nat) (f : OpenStep → OpenStep) :
    (s.modStep tag f).sv.stormSince = s.sv.stormSince := rfl
@[simp] theorem State.modStep_sv_recalibrated (s : State) (tag : Nat) (f : OpenStep → OpenStep) :
    (s.modStep tag f).sv.recalibrated = s.sv.recalibrated := rfl
@[simp] theorem State.modStep_sv_adapters (s : State) (tag : Nat) (f : OpenStep → OpenStep) :
    (s.modStep tag f).sv.adapters = s.sv.adapters := rfl
@[simp] theorem State.modStep_sv_engines (s : State) (tag : Nat) (f : OpenStep → OpenStep) :
    (s.modStep tag f).sv.engines = s.sv.engines := rfl
@[simp] theorem State.modStep_kv (s : State) (tag : Nat) (f : OpenStep → OpenStep) : (s.modStep tag f).kv = s.kv := rfl
@[simp] theorem State.modStep_wt (s : State) (tag : Nat) (f : OpenStep → OpenStep) : (s.modStep tag f).wt = s.wt := rfl
@[simp] theorem State.modStep_tl (s : State) (tag : Nat) (f : OpenStep → OpenStep) : (s.modStep tag f).tl = s.tl := rfl
@[simp] theorem State.modStep_rd (s : State) (tag : Nat) (f : OpenStep → OpenStep) : (s.modStep tag f).rd = s.rd := rfl
@[simp] theorem State.modStep_cl (s : State) (tag : Nat) (f : OpenStep → OpenStep) : (s.modStep tag f).cl = s.cl := rfl
@[simp] theorem State.modStep_fb (s : State) (tag : Nat) (f : OpenStep → OpenStep) : (s.modStep tag f).fb = s.fb := rfl
@[simp] theorem State.modStep_draw (s : State) (tag : Nat) (f : OpenStep → OpenStep) : (s.modStep tag f).draw = s.draw := rfl
@[simp] theorem State.modStep_pending (s : State) (tag : Nat) (f : OpenStep → OpenStep) : (s.modStep tag f).pending = s.pending := rfl

@[simp] theorem State.modPort_tm (s : State) (k : Nat) (f : CourierPort → CourierPort) : (s.modPort k f).tm = s.tm := rfl
@[simp] theorem State.modPort_pw (s : State) (k : Nat) (f : CourierPort → CourierPort) : (s.modPort k f).pw = s.pw := rfl
@[simp] theorem State.modPort_th (s : State) (k : Nat) (f : CourierPort → CourierPort) : (s.modPort k f).th = s.th := rfl
@[simp] theorem State.modPort_bt (s : State) (k : Nat) (f : CourierPort → CourierPort) : (s.modPort k f).bt = s.bt := rfl
@[simp] theorem State.modPort_ev (s : State) (k : Nat) (f : CourierPort → CourierPort) : (s.modPort k f).ev = s.ev := rfl
@[simp] theorem State.modPort_rg (s : State) (k : Nat) (f : CourierPort → CourierPort) : (s.modPort k f).rg = s.rg := rfl
@[simp] theorem State.modPort_adcs (s : State) (k : Nat) (f : CourierPort → CourierPort) : (s.modPort k f).adcs = s.adcs := rfl
@[simp] theorem State.modPort_tp (s : State) (k : Nat) (f : CourierPort → CourierPort) : (s.modPort k f).tp = s.tp := rfl
@[simp] theorem State.modPort_i3 (s : State) (k : Nat) (f : CourierPort → CourierPort) : (s.modPort k f).i3 = s.i3 := rfl
@[simp] theorem State.modPort_dp (s : State) (k : Nat) (f : CourierPort → CourierPort) : (s.modPort k f).dp = s.dp := rfl
@[simp] theorem State.modPort_sv (s : State) (k : Nat) (f : CourierPort → CourierPort) : (s.modPort k f).sv = s.sv := rfl
@[simp] theorem State.modPort_kv (s : State) (k : Nat) (f : CourierPort → CourierPort) : (s.modPort k f).kv = s.kv := rfl
@[simp] theorem State.modPort_wt (s : State) (k : Nat) (f : CourierPort → CourierPort) : (s.modPort k f).wt = s.wt := rfl
@[simp] theorem State.modPort_tl (s : State) (k : Nat) (f : CourierPort → CourierPort) : (s.modPort k f).tl = s.tl := rfl
@[simp] theorem State.modPort_rd (s : State) (k : Nat) (f : CourierPort → CourierPort) : (s.modPort k f).rd = s.rd := rfl
@[simp] theorem State.modPort_cl (s : State) (k : Nat) (f : CourierPort → CourierPort) : (s.modPort k f).cl = s.cl := rfl
@[simp] theorem State.modPort_fb_coord (s : State) (k : Nat) (f : CourierPort → CourierPort) :
    (s.modPort k f).fb.coord = s.fb.coord := rfl
@[simp] theorem State.modPort_fb_coordValid (s : State) (k : Nat) (f : CourierPort → CourierPort) :
    (s.modPort k f).fb.coordValid = s.fb.coordValid := rfl
@[simp] theorem State.modPort_fb_dim (s : State) (k : Nat) (f : CourierPort → CourierPort) : (s.modPort k f).fb.dim = s.fb.dim := rfl
@[simp] theorem State.modPort_fb_twist (s : State) (k : Nat) (f : CourierPort → CourierPort) :
    (s.modPort k f).fb.twist = s.fb.twist := rfl
@[simp] theorem State.modPort_fb_fabricId (s : State) (k : Nat) (f : CourierPort → CourierPort) :
    (s.modPort k f).fb.fabricId = s.fb.fabricId := rfl
@[simp] theorem State.modPort_fb_timeRoot (s : State) (k : Nat) (f : CourierPort → CourierPort) :
    (s.modPort k f).fb.timeRoot = s.fb.timeRoot := rfl
@[simp] theorem State.modPort_fb_routes (s : State) (k : Nat) (f : CourierPort → CourierPort) :
    (s.modPort k f).fb.routes = s.fb.routes := rfl
@[simp] theorem State.modPort_fb_jobs (s : State) (k : Nat) (f : CourierPort → CourierPort) : (s.modPort k f).fb.jobs = s.fb.jobs := rfl
@[simp] theorem State.modPort_fb_aborted (s : State) (k : Nat) (f : CourierPort → CourierPort) :
    (s.modPort k f).fb.aborted = s.fb.aborted := rfl
@[simp] theorem State.modPort_fb_committed (s : State) (k : Nat) (f : CourierPort → CourierPort) :
    (s.modPort k f).fb.committed = s.fb.committed := rfl
@[simp] theorem State.modPort_fb_activations (s : State) (k : Nat) (f : CourierPort → CourierPort) :
    (s.modPort k f).fb.activations = s.fb.activations := rfl
@[simp] theorem State.modPort_fb_held (s : State) (k : Nat) (f : CourierPort → CourierPort) : (s.modPort k f).fb.held = s.fb.held := rfl
@[simp] theorem State.modPort_fb_bridgeRetries (s : State) (k : Nat) (f : CourierPort → CourierPort) :
    (s.modPort k f).fb.bridgeRetries = s.fb.bridgeRetries := rfl
@[simp] theorem State.modPort_fb_detours (s : State) (k : Nat) (f : CourierPort → CourierPort) :
    (s.modPort k f).fb.detours = s.fb.detours := rfl
@[simp] theorem State.modPort_fb_tx (s : State) (k : Nat) (f : CourierPort → CourierPort) : (s.modPort k f).fb.tx = s.fb.tx := rfl
@[simp] theorem State.modPort_fb_adverts (s : State) (k : Nat) (f : CourierPort → CourierPort) :
    (s.modPort k f).fb.adverts = s.fb.adverts := rfl
@[simp] theorem State.modPort_fb_links (s : State) (k : Nat) (f : CourierPort → CourierPort) :
    (s.modPort k f).fb.links = s.fb.links := rfl
@[simp] theorem State.modPort_fb_advertLanes (s : State) (k : Nat) (f : CourierPort → CourierPort) :
    (s.modPort k f).fb.advertLanes = s.fb.advertLanes := rfl
@[simp] theorem State.modPort_fb_driven (s : State) (k : Nat) (f : CourierPort → CourierPort) :
    (s.modPort k f).fb.driven = s.fb.driven := rfl
@[simp] theorem State.modPort_draw (s : State) (k : Nat) (f : CourierPort → CourierPort) : (s.modPort k f).draw = s.draw := rfl
@[simp] theorem State.modPort_pending (s : State) (k : Nat) (f : CourierPort → CourierPort) : (s.modPort k f).pending = s.pending := rfl

@[simp] theorem State.modDsp_tm (s : State) (p : Nat) (f : DspPort → DspPort) : (s.modDsp p f).tm = s.tm := rfl
@[simp] theorem State.modDsp_pw (s : State) (p : Nat) (f : DspPort → DspPort) : (s.modDsp p f).pw = s.pw := rfl
@[simp] theorem State.modDsp_th (s : State) (p : Nat) (f : DspPort → DspPort) : (s.modDsp p f).th = s.th := rfl
@[simp] theorem State.modDsp_bt (s : State) (p : Nat) (f : DspPort → DspPort) : (s.modDsp p f).bt = s.bt := rfl
@[simp] theorem State.modDsp_ev (s : State) (p : Nat) (f : DspPort → DspPort) : (s.modDsp p f).ev = s.ev := rfl
@[simp] theorem State.modDsp_rg (s : State) (p : Nat) (f : DspPort → DspPort) : (s.modDsp p f).rg = s.rg := rfl
@[simp] theorem State.modDsp_adcs (s : State) (p : Nat) (f : DspPort → DspPort) : (s.modDsp p f).adcs = s.adcs := rfl
@[simp] theorem State.modDsp_tp (s : State) (p : Nat) (f : DspPort → DspPort) : (s.modDsp p f).tp = s.tp := rfl
@[simp] theorem State.modDsp_i3 (s : State) (p : Nat) (f : DspPort → DspPort) : (s.modDsp p f).i3 = s.i3 := rfl
@[simp] theorem State.modDsp_dp_tx (s : State) (p : Nat) (f : DspPort → DspPort) : (s.modDsp p f).dp.tx = s.dp.tx := rfl
@[simp] theorem State.modDsp_dp_lease (s : State) (p : Nat) (f : DspPort → DspPort) : (s.modDsp p f).dp.lease = s.dp.lease := rfl
@[simp] theorem State.modDsp_dp_last (s : State) (p : Nat) (f : DspPort → DspPort) : (s.modDsp p f).dp.last = s.dp.last := rfl
@[simp] theorem State.modDsp_dp_expiring (s : State) (p : Nat) (f : DspPort → DspPort) : (s.modDsp p f).dp.expiring = s.dp.expiring := rfl
@[simp] theorem State.modDsp_dp_orphans (s : State) (p : Nat) (f : DspPort → DspPort) : (s.modDsp p f).dp.orphans = s.dp.orphans := rfl
@[simp] theorem State.modDsp_dp_dropped (s : State) (p : Nat) (f : DspPort → DspPort) : (s.modDsp p f).dp.dropped = s.dp.dropped := rfl
@[simp] theorem State.modDsp_dp_endEvent (s : State) (p : Nat) (f : DspPort → DspPort) : (s.modDsp p f).dp.endEvent = s.dp.endEvent := rfl
@[simp] theorem State.modDsp_dp_leaseTtl (s : State) (p : Nat) (f : DspPort → DspPort) : (s.modDsp p f).dp.leaseTtl = s.dp.leaseTtl := rfl
@[simp] theorem State.modDsp_dp_rejectThreshold (s : State) (p : Nat) (f : DspPort → DspPort) :
    (s.modDsp p f).dp.rejectThreshold = s.dp.rejectThreshold := rfl
@[simp] theorem State.modDsp_dp_l2Size (s : State) (p : Nat) (f : DspPort → DspPort) : (s.modDsp p f).dp.l2Size = s.dp.l2Size := rfl
@[simp] theorem State.modDsp_sv (s : State) (p : Nat) (f : DspPort → DspPort) : (s.modDsp p f).sv = s.sv := rfl
@[simp] theorem State.modDsp_kv (s : State) (p : Nat) (f : DspPort → DspPort) : (s.modDsp p f).kv = s.kv := rfl
@[simp] theorem State.modDsp_wt (s : State) (p : Nat) (f : DspPort → DspPort) : (s.modDsp p f).wt = s.wt := rfl
@[simp] theorem State.modDsp_tl (s : State) (p : Nat) (f : DspPort → DspPort) : (s.modDsp p f).tl = s.tl := rfl
@[simp] theorem State.modDsp_rd (s : State) (p : Nat) (f : DspPort → DspPort) : (s.modDsp p f).rd = s.rd := rfl
@[simp] theorem State.modDsp_cl (s : State) (p : Nat) (f : DspPort → DspPort) : (s.modDsp p f).cl = s.cl := rfl
@[simp] theorem State.modDsp_fb (s : State) (p : Nat) (f : DspPort → DspPort) : (s.modDsp p f).fb = s.fb := rfl
@[simp] theorem State.modDsp_draw (s : State) (p : Nat) (f : DspPort → DspPort) : (s.modDsp p f).draw = s.draw := rfl
@[simp] theorem State.modDsp_pending (s : State) (p : Nat) (f : DspPort → DspPort) : (s.modDsp p f).pending = s.pending := rfl

@[simp] theorem State.store_tm (s : State) (a : Nat) (v : Nat) : (s.store a v).tm = s.tm := rfl
@[simp] theorem State.store_pw (s : State) (a : Nat) (v : Nat) : (s.store a v).pw = s.pw := rfl
@[simp] theorem State.store_th (s : State) (a : Nat) (v : Nat) : (s.store a v).th = s.th := rfl
@[simp] theorem State.store_bt (s : State) (a : Nat) (v : Nat) : (s.store a v).bt = s.bt := rfl
@[simp] theorem State.store_ev (s : State) (a : Nat) (v : Nat) : (s.store a v).ev = s.ev := rfl
@[simp] theorem State.store_rg_boxes (s : State) (a : Nat) (v : Nat) : (s.store a v).rg.boxes = s.rg.boxes := rfl
@[simp] theorem State.store_rg_mirrorA (s : State) (a : Nat) (v : Nat) : (s.store a v).rg.mirrorA = s.rg.mirrorA := rfl
@[simp] theorem State.store_rg_mirrorHbm (s : State) (a : Nat) (v : Nat) : (s.store a v).rg.mirrorHbm = s.rg.mirrorHbm := rfl
@[simp] theorem State.store_rg_mirrorCourier (s : State) (a : Nat) (v : Nat) : (s.store a v).rg.mirrorCourier = s.rg.mirrorCourier := rfl
@[simp] theorem State.store_rg_mirrorDispatch (s : State) (a : Nat) (v : Nat) :
    (s.store a v).rg.mirrorDispatch = s.rg.mirrorDispatch := rfl
@[simp] theorem State.store_rg_sealed (s : State) (a : Nat) (v : Nat) : (s.store a v).rg.sealed = s.rg.sealed := rfl
@[simp] theorem State.store_rg_staleDrain (s : State) (a : Nat) (v : Nat) : (s.store a v).rg.staleDrain = s.rg.staleDrain := rfl
@[simp] theorem State.store_rg_staleContrib (s : State) (a : Nat) (v : Nat) : (s.store a v).rg.staleContrib = s.rg.staleContrib := rfl
@[simp] theorem State.store_rg_dropVersion (s : State) (a : Nat) (v : Nat) : (s.store a v).rg.dropVersion = s.rg.dropVersion := rfl
@[simp] theorem State.store_rg_dropType (s : State) (a : Nat) (v : Nat) : (s.store a v).rg.dropType = s.rg.dropType := rfl
@[simp] theorem State.store_rg_dropNoPort (s : State) (a : Nat) (v : Nat) : (s.store a v).rg.dropNoPort = s.rg.dropNoPort := rfl
@[simp] theorem State.store_rg_dropHops (s : State) (a : Nat) (v : Nat) : (s.store a v).rg.dropHops = s.rg.dropHops := rfl
@[simp] theorem State.store_rg_dropE2e (s : State) (a : Nat) (v : Nat) : (s.store a v).rg.dropE2e = s.rg.dropE2e := rfl
@[simp] theorem State.store_rg_dropActivation (s : State) (a : Nat) (v : Nat) :
    (s.store a v).rg.dropActivation = s.rg.dropActivation := rfl
@[simp] theorem State.store_rg_dropJob (s : State) (a : Nat) (v : Nat) : (s.store a v).rg.dropJob = s.rg.dropJob := rfl
@[simp] theorem State.store_rg_eccCorr (s : State) (a : Nat) (v : Nat) : (s.store a v).rg.eccCorr = s.rg.eccCorr := rfl
@[simp] theorem State.store_rg_eccDet (s : State) (a : Nat) (v : Nat) : (s.store a v).rg.eccDet = s.rg.eccDet := rfl
@[simp] theorem State.store_rg_lastCorrected (s : State) (a : Nat) (v : Nat) : (s.store a v).rg.lastCorrected = s.rg.lastCorrected := rfl
@[simp] theorem State.store_rg_retained (s : State) (a : Nat) (v : Nat) : (s.store a v).rg.retained = s.rg.retained := rfl
@[simp] theorem State.store_rg_calHeld (s : State) (a : Nat) (v : Nat) : (s.store a v).rg.calHeld = s.rg.calHeld := rfl
@[simp] theorem State.store_adcs (s : State) (a : Nat) (v : Nat) : (s.store a v).adcs = s.adcs := rfl
@[simp] theorem State.store_tp (s : State) (a : Nat) (v : Nat) : (s.store a v).tp = s.tp := rfl
@[simp] theorem State.store_i3 (s : State) (a : Nat) (v : Nat) : (s.store a v).i3 = s.i3 := rfl
@[simp] theorem State.store_dp (s : State) (a : Nat) (v : Nat) : (s.store a v).dp = s.dp := rfl
@[simp] theorem State.store_sv (s : State) (a : Nat) (v : Nat) : (s.store a v).sv = s.sv := rfl
@[simp] theorem State.store_kv (s : State) (a : Nat) (v : Nat) : (s.store a v).kv = s.kv := rfl
@[simp] theorem State.store_wt (s : State) (a : Nat) (v : Nat) : (s.store a v).wt = s.wt := rfl
@[simp] theorem State.store_tl (s : State) (a : Nat) (v : Nat) : (s.store a v).tl = s.tl := rfl
@[simp] theorem State.store_rd (s : State) (a : Nat) (v : Nat) : (s.store a v).rd = s.rd := rfl
@[simp] theorem State.store_cl (s : State) (a : Nat) (v : Nat) : (s.store a v).cl = s.cl := rfl
@[simp] theorem State.store_fb (s : State) (a : Nat) (v : Nat) : (s.store a v).fb = s.fb := rfl
@[simp] theorem State.store_draw (s : State) (a : Nat) (v : Nat) : (s.store a v).draw = s.draw := rfl
@[simp] theorem State.store_pending (s : State) (a : Nat) (v : Nat) : (s.store a v).pending = s.pending := rfl

@[simp] theorem State.writeMem_tm (s : State) (a : Nat) (b : Bytes) : (s.writeMem a b).tm = s.tm := rfl
@[simp] theorem State.writeMem_pw (s : State) (a : Nat) (b : Bytes) : (s.writeMem a b).pw = s.pw := rfl
@[simp] theorem State.writeMem_th (s : State) (a : Nat) (b : Bytes) : (s.writeMem a b).th = s.th := rfl
@[simp] theorem State.writeMem_bt (s : State) (a : Nat) (b : Bytes) : (s.writeMem a b).bt = s.bt := rfl
@[simp] theorem State.writeMem_ev (s : State) (a : Nat) (b : Bytes) : (s.writeMem a b).ev = s.ev := rfl
@[simp] theorem State.writeMem_rg (s : State) (a : Nat) (b : Bytes) : (s.writeMem a b).rg = s.rg := rfl
@[simp] theorem State.writeMem_adcs (s : State) (a : Nat) (b : Bytes) : (s.writeMem a b).adcs = s.adcs := rfl
@[simp] theorem State.writeMem_tp (s : State) (a : Nat) (b : Bytes) : (s.writeMem a b).tp = s.tp := rfl
@[simp] theorem State.writeMem_i3 (s : State) (a : Nat) (b : Bytes) : (s.writeMem a b).i3 = s.i3 := rfl
@[simp] theorem State.writeMem_dp (s : State) (a : Nat) (b : Bytes) : (s.writeMem a b).dp = s.dp := rfl
@[simp] theorem State.writeMem_sv_windows (s : State) (a : Nat) (b : Bytes) : (s.writeMem a b).sv.windows = s.sv.windows := rfl
@[simp] theorem State.writeMem_sv_contexts (s : State) (a : Nat) (b : Bytes) : (s.writeMem a b).sv.contexts = s.sv.contexts := rfl
@[simp] theorem State.writeMem_sv_queues (s : State) (a : Nat) (b : Bytes) : (s.writeMem a b).sv.queues = s.sv.queues := rfl
@[simp] theorem State.writeMem_sv_slots (s : State) (a : Nat) (b : Bytes) : (s.writeMem a b).sv.slots = s.sv.slots := rfl
@[simp] theorem State.writeMem_sv_steps (s : State) (a : Nat) (b : Bytes) : (s.writeMem a b).sv.steps = s.sv.steps := rfl
@[simp] theorem State.writeMem_sv_nextTag (s : State) (a : Nat) (b : Bytes) : (s.writeMem a b).sv.nextTag = s.sv.nextTag := rfl
@[simp] theorem State.writeMem_sv_inputs (s : State) (a : Nat) (b : Bytes) : (s.writeMem a b).sv.inputs = s.sv.inputs := rfl
@[simp] theorem State.writeMem_sv_nextInput (s : State) (a : Nat) (b : Bytes) : (s.writeMem a b).sv.nextInput = s.sv.nextInput := rfl
@[simp] theorem State.writeMem_sv_storm (s : State) (a : Nat) (b : Bytes) : (s.writeMem a b).sv.storm = s.sv.storm := rfl
@[simp] theorem State.writeMem_sv_stormBit (s : State) (a : Nat) (b : Bytes) : (s.writeMem a b).sv.stormBit = s.sv.stormBit := rfl
@[simp] theorem State.writeMem_sv_stormFraction (s : State) (a : Nat) (b : Bytes) :
    (s.writeMem a b).sv.stormFraction = s.sv.stormFraction := rfl
@[simp] theorem State.writeMem_sv_stormSince (s : State) (a : Nat) (b : Bytes) : (s.writeMem a b).sv.stormSince = s.sv.stormSince := rfl
@[simp] theorem State.writeMem_sv_recalibrated (s : State) (a : Nat) (b : Bytes) :
    (s.writeMem a b).sv.recalibrated = s.sv.recalibrated := rfl
@[simp] theorem State.writeMem_sv_adapters (s : State) (a : Nat) (b : Bytes) : (s.writeMem a b).sv.adapters = s.sv.adapters := rfl
@[simp] theorem State.writeMem_sv_engines (s : State) (a : Nat) (b : Bytes) : (s.writeMem a b).sv.engines = s.sv.engines := rfl
@[simp] theorem State.writeMem_kv (s : State) (a : Nat) (b : Bytes) : (s.writeMem a b).kv = s.kv := rfl
@[simp] theorem State.writeMem_wt (s : State) (a : Nat) (b : Bytes) : (s.writeMem a b).wt = s.wt := rfl
@[simp] theorem State.writeMem_tl (s : State) (a : Nat) (b : Bytes) : (s.writeMem a b).tl = s.tl := rfl
@[simp] theorem State.writeMem_rd (s : State) (a : Nat) (b : Bytes) : (s.writeMem a b).rd = s.rd := rfl
@[simp] theorem State.writeMem_cl (s : State) (a : Nat) (b : Bytes) : (s.writeMem a b).cl = s.cl := rfl
@[simp] theorem State.writeMem_fb (s : State) (a : Nat) (b : Bytes) : (s.writeMem a b).fb = s.fb := rfl
@[simp] theorem State.writeMem_draw (s : State) (a : Nat) (b : Bytes) : (s.writeMem a b).draw = s.draw := rfl
@[simp] theorem State.writeMem_pending (s : State) (a : Nat) (b : Bytes) : (s.writeMem a b).pending = s.pending := rfl

@[simp] theorem State.raise_tm (s : State) (code : Nat) (source : Nat) (detail : List Nat) : (s.raise code source detail).tm = s.tm := rfl
@[simp] theorem State.raise_pw (s : State) (code : Nat) (source : Nat) (detail : List Nat) : (s.raise code source detail).pw = s.pw := rfl
@[simp] theorem State.raise_th (s : State) (code : Nat) (source : Nat) (detail : List Nat) : (s.raise code source detail).th = s.th := rfl
@[simp] theorem State.raise_bt (s : State) (code : Nat) (source : Nat) (detail : List Nat) : (s.raise code source detail).bt = s.bt := rfl
@[simp] theorem State.raise_ev_asyncNext (s : State) (code : Nat) (source : Nat) (detail : List Nat) :
    (s.raise code source detail).ev.asyncNext = s.ev.asyncNext := rfl
@[simp] theorem State.raise_ev_ring (s : State) (code : Nat) (source : Nat) (detail : List Nat) :
    (s.raise code source detail).ev.ring = s.ev.ring := rfl
@[simp] theorem State.raise_ev_ringTail (s : State) (code : Nat) (source : Nat) (detail : List Nat) :
    (s.raise code source detail).ev.ringTail = s.ev.ringTail := rfl
@[simp] theorem State.raise_ev_winTail (s : State) (code : Nat) (source : Nat) (detail : List Nat) :
    (s.raise code source detail).ev.winTail = s.ev.winTail := rfl
@[simp] theorem State.raise_ev_winHead (s : State) (code : Nat) (source : Nat) (detail : List Nat) :
    (s.raise code source detail).ev.winHead = s.ev.winHead := rfl
@[simp] theorem State.raise_ev_winLost (s : State) (code : Nat) (source : Nat) (detail : List Nat) :
    (s.raise code source detail).ev.winLost = s.ev.winLost := rfl
@[simp] theorem State.raise_ev_window (s : State) (code : Nat) (source : Nat) (detail : List Nat) :
    (s.raise code source detail).ev.window = s.ev.window := rfl
@[simp] theorem State.raise_ev_stormList (s : State) (code : Nat) (source : Nat) (detail : List Nat) :
    (s.raise code source detail).ev.stormList = s.ev.stormList := rfl
@[simp] theorem State.raise_ev_stormPending (s : State) (code : Nat) (source : Nat) (detail : List Nat) :
    (s.raise code source detail).ev.stormPending = s.ev.stormPending := rfl
@[simp] theorem State.raise_rg (s : State) (code : Nat) (source : Nat) (detail : List Nat) : (s.raise code source detail).rg = s.rg := rfl
@[simp] theorem State.raise_adcs (s : State) (code : Nat) (source : Nat) (detail : List Nat) :
    (s.raise code source detail).adcs = s.adcs := rfl
@[simp] theorem State.raise_tp (s : State) (code : Nat) (source : Nat) (detail : List Nat) : (s.raise code source detail).tp = s.tp := rfl
@[simp] theorem State.raise_i3 (s : State) (code : Nat) (source : Nat) (detail : List Nat) : (s.raise code source detail).i3 = s.i3 := rfl
@[simp] theorem State.raise_dp (s : State) (code : Nat) (source : Nat) (detail : List Nat) : (s.raise code source detail).dp = s.dp := rfl
@[simp] theorem State.raise_sv (s : State) (code : Nat) (source : Nat) (detail : List Nat) : (s.raise code source detail).sv = s.sv := rfl
@[simp] theorem State.raise_kv (s : State) (code : Nat) (source : Nat) (detail : List Nat) : (s.raise code source detail).kv = s.kv := rfl
@[simp] theorem State.raise_wt (s : State) (code : Nat) (source : Nat) (detail : List Nat) : (s.raise code source detail).wt = s.wt := rfl
@[simp] theorem State.raise_tl (s : State) (code : Nat) (source : Nat) (detail : List Nat) : (s.raise code source detail).tl = s.tl := rfl
@[simp] theorem State.raise_rd (s : State) (code : Nat) (source : Nat) (detail : List Nat) : (s.raise code source detail).rd = s.rd := rfl
@[simp] theorem State.raise_cl (s : State) (code : Nat) (source : Nat) (detail : List Nat) : (s.raise code source detail).cl = s.cl := rfl
@[simp] theorem State.raise_fb (s : State) (code : Nat) (source : Nat) (detail : List Nat) : (s.raise code source detail).fb = s.fb := rfl
@[simp] theorem State.raise_draw (s : State) (code : Nat) (source : Nat) (detail : List Nat) :
    (s.raise code source detail).draw = s.draw := rfl
@[simp] theorem State.raise_pending (s : State) (code : Nat) (source : Nat) (detail : List Nat) :
    (s.raise code source detail).pending = s.pending := rfl

@[simp] theorem State.sendFrame_tm (s : State) (f : TxFrame) : (s.sendFrame f).tm = s.tm := rfl
@[simp] theorem State.sendFrame_pw (s : State) (f : TxFrame) : (s.sendFrame f).pw = s.pw := rfl
@[simp] theorem State.sendFrame_th (s : State) (f : TxFrame) : (s.sendFrame f).th = s.th := rfl
@[simp] theorem State.sendFrame_bt (s : State) (f : TxFrame) : (s.sendFrame f).bt = s.bt := rfl
@[simp] theorem State.sendFrame_ev (s : State) (f : TxFrame) : (s.sendFrame f).ev = s.ev := rfl
@[simp] theorem State.sendFrame_rg (s : State) (f : TxFrame) : (s.sendFrame f).rg = s.rg := rfl
@[simp] theorem State.sendFrame_adcs (s : State) (f : TxFrame) : (s.sendFrame f).adcs = s.adcs := rfl
@[simp] theorem State.sendFrame_tp (s : State) (f : TxFrame) : (s.sendFrame f).tp = s.tp := rfl
@[simp] theorem State.sendFrame_i3 (s : State) (f : TxFrame) : (s.sendFrame f).i3 = s.i3 := rfl
@[simp] theorem State.sendFrame_dp_lease (s : State) (f : TxFrame) : (s.sendFrame f).dp.lease = s.dp.lease := rfl
@[simp] theorem State.sendFrame_dp_last (s : State) (f : TxFrame) : (s.sendFrame f).dp.last = s.dp.last := rfl
@[simp] theorem State.sendFrame_dp_expiring (s : State) (f : TxFrame) : (s.sendFrame f).dp.expiring = s.dp.expiring := rfl
@[simp] theorem State.sendFrame_dp_orphans (s : State) (f : TxFrame) : (s.sendFrame f).dp.orphans = s.dp.orphans := rfl
@[simp] theorem State.sendFrame_dp_dropped (s : State) (f : TxFrame) : (s.sendFrame f).dp.dropped = s.dp.dropped := rfl
@[simp] theorem State.sendFrame_dp_endEvent (s : State) (f : TxFrame) : (s.sendFrame f).dp.endEvent = s.dp.endEvent := rfl
@[simp] theorem State.sendFrame_dp_leaseTtl (s : State) (f : TxFrame) : (s.sendFrame f).dp.leaseTtl = s.dp.leaseTtl := rfl
@[simp] theorem State.sendFrame_dp_rejectThreshold (s : State) (f : TxFrame) :
    (s.sendFrame f).dp.rejectThreshold = s.dp.rejectThreshold := rfl
@[simp] theorem State.sendFrame_dp_l2Size (s : State) (f : TxFrame) : (s.sendFrame f).dp.l2Size = s.dp.l2Size := rfl
@[simp] theorem State.sendFrame_sv (s : State) (f : TxFrame) : (s.sendFrame f).sv = s.sv := rfl
@[simp] theorem State.sendFrame_kv (s : State) (f : TxFrame) : (s.sendFrame f).kv = s.kv := rfl
@[simp] theorem State.sendFrame_wt (s : State) (f : TxFrame) : (s.sendFrame f).wt = s.wt := rfl
@[simp] theorem State.sendFrame_tl (s : State) (f : TxFrame) : (s.sendFrame f).tl = s.tl := rfl
@[simp] theorem State.sendFrame_rd (s : State) (f : TxFrame) : (s.sendFrame f).rd = s.rd := rfl
@[simp] theorem State.sendFrame_cl (s : State) (f : TxFrame) : (s.sendFrame f).cl = s.cl := rfl
@[simp] theorem State.sendFrame_fb (s : State) (f : TxFrame) : (s.sendFrame f).fb = s.fb := rfl
@[simp] theorem State.sendFrame_draw (s : State) (f : TxFrame) : (s.sendFrame f).draw = s.draw := rfl
@[simp] theorem State.sendFrame_pending (s : State) (f : TxFrame) : (s.sendFrame f).pending = s.pending := rfl

@[simp] theorem State.respondWith_tm (s : State) (h : FrameHdr) (chan : Nat) (status : Nat) (tail : Bytes) :
    (s.respondWith h chan status tail).tm = s.tm := rfl
@[simp] theorem State.respondWith_pw (s : State) (h : FrameHdr) (chan : Nat) (status : Nat) (tail : Bytes) :
    (s.respondWith h chan status tail).pw = s.pw := rfl
@[simp] theorem State.respondWith_th (s : State) (h : FrameHdr) (chan : Nat) (status : Nat) (tail : Bytes) :
    (s.respondWith h chan status tail).th = s.th := rfl
@[simp] theorem State.respondWith_bt (s : State) (h : FrameHdr) (chan : Nat) (status : Nat) (tail : Bytes) :
    (s.respondWith h chan status tail).bt = s.bt := rfl
@[simp] theorem State.respondWith_ev (s : State) (h : FrameHdr) (chan : Nat) (status : Nat) (tail : Bytes) :
    (s.respondWith h chan status tail).ev = s.ev := rfl
@[simp] theorem State.respondWith_rg (s : State) (h : FrameHdr) (chan : Nat) (status : Nat) (tail : Bytes) :
    (s.respondWith h chan status tail).rg = s.rg := rfl
@[simp] theorem State.respondWith_adcs (s : State) (h : FrameHdr) (chan : Nat) (status : Nat) (tail : Bytes) :
    (s.respondWith h chan status tail).adcs = s.adcs := rfl
@[simp] theorem State.respondWith_tp (s : State) (h : FrameHdr) (chan : Nat) (status : Nat) (tail : Bytes) :
    (s.respondWith h chan status tail).tp = s.tp := rfl
@[simp] theorem State.respondWith_i3 (s : State) (h : FrameHdr) (chan : Nat) (status : Nat) (tail : Bytes) :
    (s.respondWith h chan status tail).i3 = s.i3 := rfl
@[simp] theorem State.respondWith_dp_lease (s : State) (h : FrameHdr) (chan : Nat) (status : Nat) (tail : Bytes) :
    (s.respondWith h chan status tail).dp.lease = s.dp.lease := rfl
@[simp] theorem State.respondWith_dp_last (s : State) (h : FrameHdr) (chan : Nat) (status : Nat) (tail : Bytes) :
    (s.respondWith h chan status tail).dp.last = s.dp.last := rfl
@[simp] theorem State.respondWith_dp_expiring (s : State) (h : FrameHdr) (chan : Nat) (status : Nat) (tail : Bytes) :
    (s.respondWith h chan status tail).dp.expiring = s.dp.expiring := rfl
@[simp] theorem State.respondWith_dp_orphans (s : State) (h : FrameHdr) (chan : Nat) (status : Nat) (tail : Bytes) :
    (s.respondWith h chan status tail).dp.orphans = s.dp.orphans := rfl
@[simp] theorem State.respondWith_dp_dropped (s : State) (h : FrameHdr) (chan : Nat) (status : Nat) (tail : Bytes) :
    (s.respondWith h chan status tail).dp.dropped = s.dp.dropped := rfl
@[simp] theorem State.respondWith_dp_endEvent (s : State) (h : FrameHdr) (chan : Nat) (status : Nat) (tail : Bytes) :
    (s.respondWith h chan status tail).dp.endEvent = s.dp.endEvent := rfl
@[simp] theorem State.respondWith_dp_leaseTtl (s : State) (h : FrameHdr) (chan : Nat) (status : Nat) (tail : Bytes) :
    (s.respondWith h chan status tail).dp.leaseTtl = s.dp.leaseTtl := rfl
@[simp] theorem State.respondWith_dp_rejectThreshold (s : State) (h : FrameHdr) (chan : Nat) (status : Nat) (tail : Bytes) :
    (s.respondWith h chan status tail).dp.rejectThreshold = s.dp.rejectThreshold := rfl
@[simp] theorem State.respondWith_dp_l2Size (s : State) (h : FrameHdr) (chan : Nat) (status : Nat) (tail : Bytes) :
    (s.respondWith h chan status tail).dp.l2Size = s.dp.l2Size := rfl
@[simp] theorem State.respondWith_sv (s : State) (h : FrameHdr) (chan : Nat) (status : Nat) (tail : Bytes) :
    (s.respondWith h chan status tail).sv = s.sv := rfl
@[simp] theorem State.respondWith_kv (s : State) (h : FrameHdr) (chan : Nat) (status : Nat) (tail : Bytes) :
    (s.respondWith h chan status tail).kv = s.kv := rfl
@[simp] theorem State.respondWith_wt (s : State) (h : FrameHdr) (chan : Nat) (status : Nat) (tail : Bytes) :
    (s.respondWith h chan status tail).wt = s.wt := rfl
@[simp] theorem State.respondWith_tl (s : State) (h : FrameHdr) (chan : Nat) (status : Nat) (tail : Bytes) :
    (s.respondWith h chan status tail).tl = s.tl := rfl
@[simp] theorem State.respondWith_rd (s : State) (h : FrameHdr) (chan : Nat) (status : Nat) (tail : Bytes) :
    (s.respondWith h chan status tail).rd = s.rd := rfl
@[simp] theorem State.respondWith_cl (s : State) (h : FrameHdr) (chan : Nat) (status : Nat) (tail : Bytes) :
    (s.respondWith h chan status tail).cl = s.cl := rfl
@[simp] theorem State.respondWith_fb (s : State) (h : FrameHdr) (chan : Nat) (status : Nat) (tail : Bytes) :
    (s.respondWith h chan status tail).fb = s.fb := rfl
@[simp] theorem State.respondWith_draw (s : State) (h : FrameHdr) (chan : Nat) (status : Nat) (tail : Bytes) :
    (s.respondWith h chan status tail).draw = s.draw := rfl
@[simp] theorem State.respondWith_pending (s : State) (h : FrameHdr) (chan : Nat) (status : Nat) (tail : Bytes) :
    (s.respondWith h chan status tail).pending = s.pending := rfl

@[simp] theorem State.respond_tm (s : State) (h : FrameHdr) (chan : Nat) (status : Nat) : (s.respond h chan status).tm = s.tm := rfl
@[simp] theorem State.respond_pw (s : State) (h : FrameHdr) (chan : Nat) (status : Nat) : (s.respond h chan status).pw = s.pw := rfl
@[simp] theorem State.respond_th (s : State) (h : FrameHdr) (chan : Nat) (status : Nat) : (s.respond h chan status).th = s.th := rfl
@[simp] theorem State.respond_bt (s : State) (h : FrameHdr) (chan : Nat) (status : Nat) : (s.respond h chan status).bt = s.bt := rfl
@[simp] theorem State.respond_ev (s : State) (h : FrameHdr) (chan : Nat) (status : Nat) : (s.respond h chan status).ev = s.ev := rfl
@[simp] theorem State.respond_rg (s : State) (h : FrameHdr) (chan : Nat) (status : Nat) : (s.respond h chan status).rg = s.rg := rfl
@[simp] theorem State.respond_adcs (s : State) (h : FrameHdr) (chan : Nat) (status : Nat) : (s.respond h chan status).adcs = s.adcs := rfl
@[simp] theorem State.respond_tp (s : State) (h : FrameHdr) (chan : Nat) (status : Nat) : (s.respond h chan status).tp = s.tp := rfl
@[simp] theorem State.respond_i3 (s : State) (h : FrameHdr) (chan : Nat) (status : Nat) : (s.respond h chan status).i3 = s.i3 := rfl
@[simp] theorem State.respond_dp_lease (s : State) (h : FrameHdr) (chan : Nat) (status : Nat) :
    (s.respond h chan status).dp.lease = s.dp.lease := rfl
@[simp] theorem State.respond_dp_last (s : State) (h : FrameHdr) (chan : Nat) (status : Nat) :
    (s.respond h chan status).dp.last = s.dp.last := rfl
@[simp] theorem State.respond_dp_expiring (s : State) (h : FrameHdr) (chan : Nat) (status : Nat) :
    (s.respond h chan status).dp.expiring = s.dp.expiring := rfl
@[simp] theorem State.respond_dp_orphans (s : State) (h : FrameHdr) (chan : Nat) (status : Nat) :
    (s.respond h chan status).dp.orphans = s.dp.orphans := rfl
@[simp] theorem State.respond_dp_dropped (s : State) (h : FrameHdr) (chan : Nat) (status : Nat) :
    (s.respond h chan status).dp.dropped = s.dp.dropped := rfl
@[simp] theorem State.respond_dp_endEvent (s : State) (h : FrameHdr) (chan : Nat) (status : Nat) :
    (s.respond h chan status).dp.endEvent = s.dp.endEvent := rfl
@[simp] theorem State.respond_dp_leaseTtl (s : State) (h : FrameHdr) (chan : Nat) (status : Nat) :
    (s.respond h chan status).dp.leaseTtl = s.dp.leaseTtl := rfl
@[simp] theorem State.respond_dp_rejectThreshold (s : State) (h : FrameHdr) (chan : Nat) (status : Nat) :
    (s.respond h chan status).dp.rejectThreshold = s.dp.rejectThreshold := rfl
@[simp] theorem State.respond_dp_l2Size (s : State) (h : FrameHdr) (chan : Nat) (status : Nat) :
    (s.respond h chan status).dp.l2Size = s.dp.l2Size := rfl
@[simp] theorem State.respond_sv (s : State) (h : FrameHdr) (chan : Nat) (status : Nat) : (s.respond h chan status).sv = s.sv := rfl
@[simp] theorem State.respond_kv (s : State) (h : FrameHdr) (chan : Nat) (status : Nat) : (s.respond h chan status).kv = s.kv := rfl
@[simp] theorem State.respond_wt (s : State) (h : FrameHdr) (chan : Nat) (status : Nat) : (s.respond h chan status).wt = s.wt := rfl
@[simp] theorem State.respond_tl (s : State) (h : FrameHdr) (chan : Nat) (status : Nat) : (s.respond h chan status).tl = s.tl := rfl
@[simp] theorem State.respond_rd (s : State) (h : FrameHdr) (chan : Nat) (status : Nat) : (s.respond h chan status).rd = s.rd := rfl
@[simp] theorem State.respond_cl (s : State) (h : FrameHdr) (chan : Nat) (status : Nat) : (s.respond h chan status).cl = s.cl := rfl
@[simp] theorem State.respond_fb (s : State) (h : FrameHdr) (chan : Nat) (status : Nat) : (s.respond h chan status).fb = s.fb := rfl
@[simp] theorem State.respond_draw (s : State) (h : FrameHdr) (chan : Nat) (status : Nat) : (s.respond h chan status).draw = s.draw := rfl
@[simp] theorem State.respond_pending (s : State) (h : FrameHdr) (chan : Nat) (status : Nat) :
    (s.respond h chan status).pending = s.pending := rfl

@[simp] theorem State.answerData_tm (s : State) (h : FrameHdr) (chan : Nat) (data : Bytes) : (s.answerData h chan data).tm = s.tm := rfl
@[simp] theorem State.answerData_pw (s : State) (h : FrameHdr) (chan : Nat) (data : Bytes) : (s.answerData h chan data).pw = s.pw := rfl
@[simp] theorem State.answerData_th (s : State) (h : FrameHdr) (chan : Nat) (data : Bytes) : (s.answerData h chan data).th = s.th := rfl
@[simp] theorem State.answerData_bt (s : State) (h : FrameHdr) (chan : Nat) (data : Bytes) : (s.answerData h chan data).bt = s.bt := rfl
@[simp] theorem State.answerData_ev (s : State) (h : FrameHdr) (chan : Nat) (data : Bytes) : (s.answerData h chan data).ev = s.ev := rfl
@[simp] theorem State.answerData_rg (s : State) (h : FrameHdr) (chan : Nat) (data : Bytes) : (s.answerData h chan data).rg = s.rg := rfl
@[simp] theorem State.answerData_adcs (s : State) (h : FrameHdr) (chan : Nat) (data : Bytes) :
    (s.answerData h chan data).adcs = s.adcs := rfl
@[simp] theorem State.answerData_tp (s : State) (h : FrameHdr) (chan : Nat) (data : Bytes) : (s.answerData h chan data).tp = s.tp := rfl
@[simp] theorem State.answerData_i3 (s : State) (h : FrameHdr) (chan : Nat) (data : Bytes) : (s.answerData h chan data).i3 = s.i3 := rfl
@[simp] theorem State.answerData_dp_lease (s : State) (h : FrameHdr) (chan : Nat) (data : Bytes) :
    (s.answerData h chan data).dp.lease = s.dp.lease := rfl
@[simp] theorem State.answerData_dp_last (s : State) (h : FrameHdr) (chan : Nat) (data : Bytes) :
    (s.answerData h chan data).dp.last = s.dp.last := rfl
@[simp] theorem State.answerData_dp_expiring (s : State) (h : FrameHdr) (chan : Nat) (data : Bytes) :
    (s.answerData h chan data).dp.expiring = s.dp.expiring := rfl
@[simp] theorem State.answerData_dp_orphans (s : State) (h : FrameHdr) (chan : Nat) (data : Bytes) :
    (s.answerData h chan data).dp.orphans = s.dp.orphans := rfl
@[simp] theorem State.answerData_dp_dropped (s : State) (h : FrameHdr) (chan : Nat) (data : Bytes) :
    (s.answerData h chan data).dp.dropped = s.dp.dropped := rfl
@[simp] theorem State.answerData_dp_endEvent (s : State) (h : FrameHdr) (chan : Nat) (data : Bytes) :
    (s.answerData h chan data).dp.endEvent = s.dp.endEvent := rfl
@[simp] theorem State.answerData_dp_leaseTtl (s : State) (h : FrameHdr) (chan : Nat) (data : Bytes) :
    (s.answerData h chan data).dp.leaseTtl = s.dp.leaseTtl := rfl
@[simp] theorem State.answerData_dp_rejectThreshold (s : State) (h : FrameHdr) (chan : Nat) (data : Bytes) :
    (s.answerData h chan data).dp.rejectThreshold = s.dp.rejectThreshold := rfl
@[simp] theorem State.answerData_dp_l2Size (s : State) (h : FrameHdr) (chan : Nat) (data : Bytes) :
    (s.answerData h chan data).dp.l2Size = s.dp.l2Size := rfl
@[simp] theorem State.answerData_sv (s : State) (h : FrameHdr) (chan : Nat) (data : Bytes) : (s.answerData h chan data).sv = s.sv := rfl
@[simp] theorem State.answerData_kv (s : State) (h : FrameHdr) (chan : Nat) (data : Bytes) : (s.answerData h chan data).kv = s.kv := rfl
@[simp] theorem State.answerData_wt (s : State) (h : FrameHdr) (chan : Nat) (data : Bytes) : (s.answerData h chan data).wt = s.wt := rfl
@[simp] theorem State.answerData_tl (s : State) (h : FrameHdr) (chan : Nat) (data : Bytes) : (s.answerData h chan data).tl = s.tl := rfl
@[simp] theorem State.answerData_rd (s : State) (h : FrameHdr) (chan : Nat) (data : Bytes) : (s.answerData h chan data).rd = s.rd := rfl
@[simp] theorem State.answerData_cl (s : State) (h : FrameHdr) (chan : Nat) (data : Bytes) : (s.answerData h chan data).cl = s.cl := rfl
@[simp] theorem State.answerData_fb (s : State) (h : FrameHdr) (chan : Nat) (data : Bytes) : (s.answerData h chan data).fb = s.fb := rfl
@[simp] theorem State.answerData_draw (s : State) (h : FrameHdr) (chan : Nat) (data : Bytes) :
    (s.answerData h chan data).draw = s.draw := rfl
@[simp] theorem State.answerData_pending (s : State) (h : FrameHdr) (chan : Nat) (data : Bytes) :
    (s.answerData h chan data).pending = s.pending := rfl

@[simp] theorem State.sendCourier_tm (s : State) (c : CourierTx) : (s.sendCourier c).tm = s.tm := rfl
@[simp] theorem State.sendCourier_pw (s : State) (c : CourierTx) : (s.sendCourier c).pw = s.pw := rfl
@[simp] theorem State.sendCourier_th (s : State) (c : CourierTx) : (s.sendCourier c).th = s.th := rfl
@[simp] theorem State.sendCourier_bt (s : State) (c : CourierTx) : (s.sendCourier c).bt = s.bt := rfl
@[simp] theorem State.sendCourier_ev (s : State) (c : CourierTx) : (s.sendCourier c).ev = s.ev := rfl
@[simp] theorem State.sendCourier_rg (s : State) (c : CourierTx) : (s.sendCourier c).rg = s.rg := rfl
@[simp] theorem State.sendCourier_adcs (s : State) (c : CourierTx) : (s.sendCourier c).adcs = s.adcs := rfl
@[simp] theorem State.sendCourier_tp (s : State) (c : CourierTx) : (s.sendCourier c).tp = s.tp := rfl
@[simp] theorem State.sendCourier_i3 (s : State) (c : CourierTx) : (s.sendCourier c).i3 = s.i3 := rfl
@[simp] theorem State.sendCourier_dp (s : State) (c : CourierTx) : (s.sendCourier c).dp = s.dp := rfl
@[simp] theorem State.sendCourier_sv (s : State) (c : CourierTx) : (s.sendCourier c).sv = s.sv := rfl
@[simp] theorem State.sendCourier_kv (s : State) (c : CourierTx) : (s.sendCourier c).kv = s.kv := rfl
@[simp] theorem State.sendCourier_wt (s : State) (c : CourierTx) : (s.sendCourier c).wt = s.wt := rfl
@[simp] theorem State.sendCourier_tl (s : State) (c : CourierTx) : (s.sendCourier c).tl = s.tl := rfl
@[simp] theorem State.sendCourier_rd (s : State) (c : CourierTx) : (s.sendCourier c).rd = s.rd := rfl
@[simp] theorem State.sendCourier_cl (s : State) (c : CourierTx) : (s.sendCourier c).cl = s.cl := rfl
@[simp] theorem State.sendCourier_fb_coord (s : State) (c : CourierTx) : (s.sendCourier c).fb.coord = s.fb.coord := rfl
@[simp] theorem State.sendCourier_fb_coordValid (s : State) (c : CourierTx) : (s.sendCourier c).fb.coordValid = s.fb.coordValid := rfl
@[simp] theorem State.sendCourier_fb_dim (s : State) (c : CourierTx) : (s.sendCourier c).fb.dim = s.fb.dim := rfl
@[simp] theorem State.sendCourier_fb_twist (s : State) (c : CourierTx) : (s.sendCourier c).fb.twist = s.fb.twist := rfl
@[simp] theorem State.sendCourier_fb_fabricId (s : State) (c : CourierTx) : (s.sendCourier c).fb.fabricId = s.fb.fabricId := rfl
@[simp] theorem State.sendCourier_fb_timeRoot (s : State) (c : CourierTx) : (s.sendCourier c).fb.timeRoot = s.fb.timeRoot := rfl
@[simp] theorem State.sendCourier_fb_routes (s : State) (c : CourierTx) : (s.sendCourier c).fb.routes = s.fb.routes := rfl
@[simp] theorem State.sendCourier_fb_jobs (s : State) (c : CourierTx) : (s.sendCourier c).fb.jobs = s.fb.jobs := rfl
@[simp] theorem State.sendCourier_fb_aborted (s : State) (c : CourierTx) : (s.sendCourier c).fb.aborted = s.fb.aborted := rfl
@[simp] theorem State.sendCourier_fb_committed (s : State) (c : CourierTx) : (s.sendCourier c).fb.committed = s.fb.committed := rfl
@[simp] theorem State.sendCourier_fb_activations (s : State) (c : CourierTx) : (s.sendCourier c).fb.activations = s.fb.activations := rfl
@[simp] theorem State.sendCourier_fb_held (s : State) (c : CourierTx) : (s.sendCourier c).fb.held = s.fb.held := rfl
@[simp] theorem State.sendCourier_fb_bridgeRetries (s : State) (c : CourierTx) :
    (s.sendCourier c).fb.bridgeRetries = s.fb.bridgeRetries := rfl
@[simp] theorem State.sendCourier_fb_detours (s : State) (c : CourierTx) : (s.sendCourier c).fb.detours = s.fb.detours := rfl
@[simp] theorem State.sendCourier_fb_adverts (s : State) (c : CourierTx) : (s.sendCourier c).fb.adverts = s.fb.adverts := rfl
@[simp] theorem State.sendCourier_fb_links (s : State) (c : CourierTx) : (s.sendCourier c).fb.links = s.fb.links := rfl
@[simp] theorem State.sendCourier_fb_advertLanes (s : State) (c : CourierTx) : (s.sendCourier c).fb.advertLanes = s.fb.advertLanes := rfl
@[simp] theorem State.sendCourier_fb_driven (s : State) (c : CourierTx) : (s.sendCourier c).fb.driven = s.fb.driven := rfl
@[simp] theorem State.sendCourier_draw (s : State) (c : CourierTx) : (s.sendCourier c).draw = s.draw := rfl
@[simp] theorem State.sendCourier_pending (s : State) (c : CourierTx) : (s.sendCourier c).pending = s.pending := rfl

@[simp] theorem State.countDrop_tm (s : State) (f : Regs → Regs) : (s.countDrop f).tm = s.tm := rfl
@[simp] theorem State.countDrop_pw (s : State) (f : Regs → Regs) : (s.countDrop f).pw = s.pw := rfl
@[simp] theorem State.countDrop_th (s : State) (f : Regs → Regs) : (s.countDrop f).th = s.th := rfl
@[simp] theorem State.countDrop_bt (s : State) (f : Regs → Regs) : (s.countDrop f).bt = s.bt := rfl
@[simp] theorem State.countDrop_ev (s : State) (f : Regs → Regs) : (s.countDrop f).ev = s.ev := rfl
@[simp] theorem State.countDrop_adcs (s : State) (f : Regs → Regs) : (s.countDrop f).adcs = s.adcs := rfl
@[simp] theorem State.countDrop_tp (s : State) (f : Regs → Regs) : (s.countDrop f).tp = s.tp := rfl
@[simp] theorem State.countDrop_i3 (s : State) (f : Regs → Regs) : (s.countDrop f).i3 = s.i3 := rfl
@[simp] theorem State.countDrop_dp (s : State) (f : Regs → Regs) : (s.countDrop f).dp = s.dp := rfl
@[simp] theorem State.countDrop_sv (s : State) (f : Regs → Regs) : (s.countDrop f).sv = s.sv := rfl
@[simp] theorem State.countDrop_kv (s : State) (f : Regs → Regs) : (s.countDrop f).kv = s.kv := rfl
@[simp] theorem State.countDrop_wt (s : State) (f : Regs → Regs) : (s.countDrop f).wt = s.wt := rfl
@[simp] theorem State.countDrop_tl (s : State) (f : Regs → Regs) : (s.countDrop f).tl = s.tl := rfl
@[simp] theorem State.countDrop_rd (s : State) (f : Regs → Regs) : (s.countDrop f).rd = s.rd := rfl
@[simp] theorem State.countDrop_cl (s : State) (f : Regs → Regs) : (s.countDrop f).cl = s.cl := rfl
@[simp] theorem State.countDrop_fb (s : State) (f : Regs → Regs) : (s.countDrop f).fb = s.fb := rfl
@[simp] theorem State.countDrop_draw (s : State) (f : Regs → Regs) : (s.countDrop f).draw = s.draw := rfl
@[simp] theorem State.countDrop_pending (s : State) (f : Regs → Regs) : (s.countDrop f).pending = s.pending := rfl

@[simp] theorem State.freeFrame_tm (s : State) (id : FrameId) : (s.freeFrame id).tm = s.tm := rfl
@[simp] theorem State.freeFrame_pw (s : State) (id : FrameId) : (s.freeFrame id).pw = s.pw := rfl
@[simp] theorem State.freeFrame_th (s : State) (id : FrameId) : (s.freeFrame id).th = s.th := rfl
@[simp] theorem State.freeFrame_bt (s : State) (id : FrameId) : (s.freeFrame id).bt = s.bt := rfl
@[simp] theorem State.freeFrame_ev (s : State) (id : FrameId) : (s.freeFrame id).ev = s.ev := rfl
@[simp] theorem State.freeFrame_rg (s : State) (id : FrameId) : (s.freeFrame id).rg = s.rg := rfl
@[simp] theorem State.freeFrame_adcs (s : State) (id : FrameId) : (s.freeFrame id).adcs = s.adcs := rfl
@[simp] theorem State.freeFrame_tp (s : State) (id : FrameId) : (s.freeFrame id).tp = s.tp := rfl
@[simp] theorem State.freeFrame_i3 (s : State) (id : FrameId) : (s.freeFrame id).i3 = s.i3 := rfl
@[simp] theorem State.freeFrame_dp (s : State) (id : FrameId) : (s.freeFrame id).dp = s.dp := rfl
@[simp] theorem State.freeFrame_sv (s : State) (id : FrameId) : (s.freeFrame id).sv = s.sv := rfl
@[simp] theorem State.freeFrame_kv_prefixMib (s : State) (id : FrameId) : (s.freeFrame id).kv.prefixMib = s.kv.prefixMib := rfl
@[simp] theorem State.freeFrame_kv_level1Mib (s : State) (id : FrameId) : (s.freeFrame id).kv.level1Mib = s.kv.level1Mib := rfl
@[simp] theorem State.freeFrame_kv_pages (s : State) (id : FrameId) : (s.freeFrame id).kv.pages = s.kv.pages := rfl
@[simp] theorem State.freeFrame_kv_nodes (s : State) (id : FrameId) : (s.freeFrame id).kv.nodes = s.kv.nodes := rfl
@[simp] theorem State.freeFrame_kv_held (s : State) (id : FrameId) : (s.freeFrame id).kv.held = s.kv.held := rfl
@[simp] theorem State.freeFrame_wt (s : State) (id : FrameId) : (s.freeFrame id).wt = s.wt := rfl
@[simp] theorem State.freeFrame_tl (s : State) (id : FrameId) : (s.freeFrame id).tl = s.tl := rfl
@[simp] theorem State.freeFrame_rd (s : State) (id : FrameId) : (s.freeFrame id).rd = s.rd := rfl
@[simp] theorem State.freeFrame_cl (s : State) (id : FrameId) : (s.freeFrame id).cl = s.cl := rfl
@[simp] theorem State.freeFrame_fb (s : State) (id : FrameId) : (s.freeFrame id).fb = s.fb := rfl
@[simp] theorem State.freeFrame_draw (s : State) (id : FrameId) : (s.freeFrame id).draw = s.draw := rfl
@[simp] theorem State.freeFrame_pending (s : State) (id : FrameId) : (s.freeFrame id).pending = s.pending := rfl

@[simp] theorem State.modFrame_tm (s : State) (id : FrameId) (g : Frame → Frame) : (s.modFrame id g).tm = s.tm := rfl
@[simp] theorem State.modFrame_pw (s : State) (id : FrameId) (g : Frame → Frame) : (s.modFrame id g).pw = s.pw := rfl
@[simp] theorem State.modFrame_th (s : State) (id : FrameId) (g : Frame → Frame) : (s.modFrame id g).th = s.th := rfl
@[simp] theorem State.modFrame_bt (s : State) (id : FrameId) (g : Frame → Frame) : (s.modFrame id g).bt = s.bt := rfl
@[simp] theorem State.modFrame_ev (s : State) (id : FrameId) (g : Frame → Frame) : (s.modFrame id g).ev = s.ev := rfl
@[simp] theorem State.modFrame_rg (s : State) (id : FrameId) (g : Frame → Frame) : (s.modFrame id g).rg = s.rg := rfl
@[simp] theorem State.modFrame_adcs (s : State) (id : FrameId) (g : Frame → Frame) : (s.modFrame id g).adcs = s.adcs := rfl
@[simp] theorem State.modFrame_tp (s : State) (id : FrameId) (g : Frame → Frame) : (s.modFrame id g).tp = s.tp := rfl
@[simp] theorem State.modFrame_i3 (s : State) (id : FrameId) (g : Frame → Frame) : (s.modFrame id g).i3 = s.i3 := rfl
@[simp] theorem State.modFrame_dp (s : State) (id : FrameId) (g : Frame → Frame) : (s.modFrame id g).dp = s.dp := rfl
@[simp] theorem State.modFrame_sv (s : State) (id : FrameId) (g : Frame → Frame) : (s.modFrame id g).sv = s.sv := rfl
@[simp] theorem State.modFrame_kv_prefixMib (s : State) (id : FrameId) (g : Frame → Frame) :
    (s.modFrame id g).kv.prefixMib = s.kv.prefixMib := rfl
@[simp] theorem State.modFrame_kv_level1Mib (s : State) (id : FrameId) (g : Frame → Frame) :
    (s.modFrame id g).kv.level1Mib = s.kv.level1Mib := rfl
@[simp] theorem State.modFrame_kv_chunks (s : State) (id : FrameId) (g : Frame → Frame) : (s.modFrame id g).kv.chunks = s.kv.chunks := rfl
@[simp] theorem State.modFrame_kv_pages (s : State) (id : FrameId) (g : Frame → Frame) : (s.modFrame id g).kv.pages = s.kv.pages := rfl
@[simp] theorem State.modFrame_kv_nodes (s : State) (id : FrameId) (g : Frame → Frame) : (s.modFrame id g).kv.nodes = s.kv.nodes := rfl
@[simp] theorem State.modFrame_kv_held (s : State) (id : FrameId) (g : Frame → Frame) : (s.modFrame id g).kv.held = s.kv.held := rfl
@[simp] theorem State.modFrame_wt (s : State) (id : FrameId) (g : Frame → Frame) : (s.modFrame id g).wt = s.wt := rfl
@[simp] theorem State.modFrame_tl (s : State) (id : FrameId) (g : Frame → Frame) : (s.modFrame id g).tl = s.tl := rfl
@[simp] theorem State.modFrame_rd (s : State) (id : FrameId) (g : Frame → Frame) : (s.modFrame id g).rd = s.rd := rfl
@[simp] theorem State.modFrame_cl (s : State) (id : FrameId) (g : Frame → Frame) : (s.modFrame id g).cl = s.cl := rfl
@[simp] theorem State.modFrame_fb (s : State) (id : FrameId) (g : Frame → Frame) : (s.modFrame id g).fb = s.fb := rfl
@[simp] theorem State.modFrame_draw (s : State) (id : FrameId) (g : Frame → Frame) : (s.modFrame id g).draw = s.draw := rfl
@[simp] theorem State.modFrame_pending (s : State) (id : FrameId) (g : Frame → Frame) : (s.modFrame id g).pending = s.pending := rfl

@[simp] theorem State.setPage_tm (s : State) (p : PageEntry) : (s.setPage p).tm = s.tm := rfl
@[simp] theorem State.setPage_pw (s : State) (p : PageEntry) : (s.setPage p).pw = s.pw := rfl
@[simp] theorem State.setPage_th (s : State) (p : PageEntry) : (s.setPage p).th = s.th := rfl
@[simp] theorem State.setPage_bt (s : State) (p : PageEntry) : (s.setPage p).bt = s.bt := rfl
@[simp] theorem State.setPage_ev (s : State) (p : PageEntry) : (s.setPage p).ev = s.ev := rfl
@[simp] theorem State.setPage_rg (s : State) (p : PageEntry) : (s.setPage p).rg = s.rg := rfl
@[simp] theorem State.setPage_adcs (s : State) (p : PageEntry) : (s.setPage p).adcs = s.adcs := rfl
@[simp] theorem State.setPage_tp (s : State) (p : PageEntry) : (s.setPage p).tp = s.tp := rfl
@[simp] theorem State.setPage_i3 (s : State) (p : PageEntry) : (s.setPage p).i3 = s.i3 := rfl
@[simp] theorem State.setPage_dp (s : State) (p : PageEntry) : (s.setPage p).dp = s.dp := rfl
@[simp] theorem State.setPage_sv (s : State) (p : PageEntry) : (s.setPage p).sv = s.sv := rfl
@[simp] theorem State.setPage_kv_prefixMib (s : State) (p : PageEntry) : (s.setPage p).kv.prefixMib = s.kv.prefixMib := rfl
@[simp] theorem State.setPage_kv_level1Mib (s : State) (p : PageEntry) : (s.setPage p).kv.level1Mib = s.kv.level1Mib := rfl
@[simp] theorem State.setPage_kv_chunks (s : State) (p : PageEntry) : (s.setPage p).kv.chunks = s.kv.chunks := rfl
@[simp] theorem State.setPage_kv_frames (s : State) (p : PageEntry) : (s.setPage p).kv.frames = s.kv.frames := rfl
@[simp] theorem State.setPage_kv_nodes (s : State) (p : PageEntry) : (s.setPage p).kv.nodes = s.kv.nodes := rfl
@[simp] theorem State.setPage_kv_held (s : State) (p : PageEntry) : (s.setPage p).kv.held = s.kv.held := rfl
@[simp] theorem State.setPage_wt (s : State) (p : PageEntry) : (s.setPage p).wt = s.wt := rfl
@[simp] theorem State.setPage_tl (s : State) (p : PageEntry) : (s.setPage p).tl = s.tl := rfl
@[simp] theorem State.setPage_rd (s : State) (p : PageEntry) : (s.setPage p).rd = s.rd := rfl
@[simp] theorem State.setPage_cl (s : State) (p : PageEntry) : (s.setPage p).cl = s.cl := rfl
@[simp] theorem State.setPage_fb (s : State) (p : PageEntry) : (s.setPage p).fb = s.fb := rfl
@[simp] theorem State.setPage_draw (s : State) (p : PageEntry) : (s.setPage p).draw = s.draw := rfl
@[simp] theorem State.setPage_pending (s : State) (p : PageEntry) : (s.setPage p).pending = s.pending := rfl

@[simp] theorem State.clearPages_tm (s : State) (f : PageEntry → Bool) : (s.clearPages f).tm = s.tm := rfl
@[simp] theorem State.clearPages_pw (s : State) (f : PageEntry → Bool) : (s.clearPages f).pw = s.pw := rfl
@[simp] theorem State.clearPages_th (s : State) (f : PageEntry → Bool) : (s.clearPages f).th = s.th := rfl
@[simp] theorem State.clearPages_bt (s : State) (f : PageEntry → Bool) : (s.clearPages f).bt = s.bt := rfl
@[simp] theorem State.clearPages_ev (s : State) (f : PageEntry → Bool) : (s.clearPages f).ev = s.ev := rfl
@[simp] theorem State.clearPages_rg (s : State) (f : PageEntry → Bool) : (s.clearPages f).rg = s.rg := rfl
@[simp] theorem State.clearPages_adcs (s : State) (f : PageEntry → Bool) : (s.clearPages f).adcs = s.adcs := rfl
@[simp] theorem State.clearPages_tp (s : State) (f : PageEntry → Bool) : (s.clearPages f).tp = s.tp := rfl
@[simp] theorem State.clearPages_i3 (s : State) (f : PageEntry → Bool) : (s.clearPages f).i3 = s.i3 := rfl
@[simp] theorem State.clearPages_dp (s : State) (f : PageEntry → Bool) : (s.clearPages f).dp = s.dp := rfl
@[simp] theorem State.clearPages_sv (s : State) (f : PageEntry → Bool) : (s.clearPages f).sv = s.sv := rfl
@[simp] theorem State.clearPages_kv_prefixMib (s : State) (f : PageEntry → Bool) : (s.clearPages f).kv.prefixMib = s.kv.prefixMib := rfl
@[simp] theorem State.clearPages_kv_level1Mib (s : State) (f : PageEntry → Bool) : (s.clearPages f).kv.level1Mib = s.kv.level1Mib := rfl
@[simp] theorem State.clearPages_kv_chunks (s : State) (f : PageEntry → Bool) : (s.clearPages f).kv.chunks = s.kv.chunks := rfl
@[simp] theorem State.clearPages_kv_frames (s : State) (f : PageEntry → Bool) : (s.clearPages f).kv.frames = s.kv.frames := rfl
@[simp] theorem State.clearPages_kv_nodes (s : State) (f : PageEntry → Bool) : (s.clearPages f).kv.nodes = s.kv.nodes := rfl
@[simp] theorem State.clearPages_kv_held (s : State) (f : PageEntry → Bool) : (s.clearPages f).kv.held = s.kv.held := rfl
@[simp] theorem State.clearPages_wt (s : State) (f : PageEntry → Bool) : (s.clearPages f).wt = s.wt := rfl
@[simp] theorem State.clearPages_tl (s : State) (f : PageEntry → Bool) : (s.clearPages f).tl = s.tl := rfl
@[simp] theorem State.clearPages_rd (s : State) (f : PageEntry → Bool) : (s.clearPages f).rd = s.rd := rfl
@[simp] theorem State.clearPages_cl (s : State) (f : PageEntry → Bool) : (s.clearPages f).cl = s.cl := rfl
@[simp] theorem State.clearPages_fb (s : State) (f : PageEntry → Bool) : (s.clearPages f).fb = s.fb := rfl
@[simp] theorem State.clearPages_draw (s : State) (f : PageEntry → Bool) : (s.clearPages f).draw = s.draw := rfl
@[simp] theorem State.clearPages_pending (s : State) (f : PageEntry → Bool) : (s.clearPages f).pending = s.pending := rfl

@[simp] theorem State.modNode_tm (s : State) (i : Nat) (f : Node → Node) : (s.modNode i f).tm = s.tm := rfl
@[simp] theorem State.modNode_pw (s : State) (i : Nat) (f : Node → Node) : (s.modNode i f).pw = s.pw := rfl
@[simp] theorem State.modNode_th (s : State) (i : Nat) (f : Node → Node) : (s.modNode i f).th = s.th := rfl
@[simp] theorem State.modNode_bt (s : State) (i : Nat) (f : Node → Node) : (s.modNode i f).bt = s.bt := rfl
@[simp] theorem State.modNode_ev (s : State) (i : Nat) (f : Node → Node) : (s.modNode i f).ev = s.ev := rfl
@[simp] theorem State.modNode_rg (s : State) (i : Nat) (f : Node → Node) : (s.modNode i f).rg = s.rg := rfl
@[simp] theorem State.modNode_adcs (s : State) (i : Nat) (f : Node → Node) : (s.modNode i f).adcs = s.adcs := rfl
@[simp] theorem State.modNode_tp (s : State) (i : Nat) (f : Node → Node) : (s.modNode i f).tp = s.tp := rfl
@[simp] theorem State.modNode_i3 (s : State) (i : Nat) (f : Node → Node) : (s.modNode i f).i3 = s.i3 := rfl
@[simp] theorem State.modNode_dp (s : State) (i : Nat) (f : Node → Node) : (s.modNode i f).dp = s.dp := rfl
@[simp] theorem State.modNode_sv (s : State) (i : Nat) (f : Node → Node) : (s.modNode i f).sv = s.sv := rfl
@[simp] theorem State.modNode_kv_prefixMib (s : State) (i : Nat) (f : Node → Node) : (s.modNode i f).kv.prefixMib = s.kv.prefixMib := rfl
@[simp] theorem State.modNode_kv_level1Mib (s : State) (i : Nat) (f : Node → Node) : (s.modNode i f).kv.level1Mib = s.kv.level1Mib := rfl
@[simp] theorem State.modNode_kv_chunks (s : State) (i : Nat) (f : Node → Node) : (s.modNode i f).kv.chunks = s.kv.chunks := rfl
@[simp] theorem State.modNode_kv_frames (s : State) (i : Nat) (f : Node → Node) : (s.modNode i f).kv.frames = s.kv.frames := rfl
@[simp] theorem State.modNode_kv_pages (s : State) (i : Nat) (f : Node → Node) : (s.modNode i f).kv.pages = s.kv.pages := rfl
@[simp] theorem State.modNode_kv_held (s : State) (i : Nat) (f : Node → Node) : (s.modNode i f).kv.held = s.kv.held := rfl
@[simp] theorem State.modNode_wt (s : State) (i : Nat) (f : Node → Node) : (s.modNode i f).wt = s.wt := rfl
@[simp] theorem State.modNode_tl (s : State) (i : Nat) (f : Node → Node) : (s.modNode i f).tl = s.tl := rfl
@[simp] theorem State.modNode_rd (s : State) (i : Nat) (f : Node → Node) : (s.modNode i f).rd = s.rd := rfl
@[simp] theorem State.modNode_cl (s : State) (i : Nat) (f : Node → Node) : (s.modNode i f).cl = s.cl := rfl
@[simp] theorem State.modNode_fb (s : State) (i : Nat) (f : Node → Node) : (s.modNode i f).fb = s.fb := rfl
@[simp] theorem State.modNode_draw (s : State) (i : Nat) (f : Node → Node) : (s.modNode i f).draw = s.draw := rfl
@[simp] theorem State.modNode_pending (s : State) (i : Nat) (f : Node → Node) : (s.modNode i f).pending = s.pending := rfl

@[simp] theorem State.modHeld_tm (s : State) (slot : Nat) (f : Held → Held) : (s.modHeld slot f).tm = s.tm := rfl
@[simp] theorem State.modHeld_pw (s : State) (slot : Nat) (f : Held → Held) : (s.modHeld slot f).pw = s.pw := rfl
@[simp] theorem State.modHeld_th (s : State) (slot : Nat) (f : Held → Held) : (s.modHeld slot f).th = s.th := rfl
@[simp] theorem State.modHeld_bt (s : State) (slot : Nat) (f : Held → Held) : (s.modHeld slot f).bt = s.bt := rfl
@[simp] theorem State.modHeld_ev (s : State) (slot : Nat) (f : Held → Held) : (s.modHeld slot f).ev = s.ev := rfl
@[simp] theorem State.modHeld_rg (s : State) (slot : Nat) (f : Held → Held) : (s.modHeld slot f).rg = s.rg := rfl
@[simp] theorem State.modHeld_adcs (s : State) (slot : Nat) (f : Held → Held) : (s.modHeld slot f).adcs = s.adcs := rfl
@[simp] theorem State.modHeld_tp (s : State) (slot : Nat) (f : Held → Held) : (s.modHeld slot f).tp = s.tp := rfl
@[simp] theorem State.modHeld_i3 (s : State) (slot : Nat) (f : Held → Held) : (s.modHeld slot f).i3 = s.i3 := rfl
@[simp] theorem State.modHeld_dp (s : State) (slot : Nat) (f : Held → Held) : (s.modHeld slot f).dp = s.dp := rfl
@[simp] theorem State.modHeld_sv (s : State) (slot : Nat) (f : Held → Held) : (s.modHeld slot f).sv = s.sv := rfl
@[simp] theorem State.modHeld_kv_prefixMib (s : State) (slot : Nat) (f : Held → Held) :
    (s.modHeld slot f).kv.prefixMib = s.kv.prefixMib := rfl
@[simp] theorem State.modHeld_kv_level1Mib (s : State) (slot : Nat) (f : Held → Held) :
    (s.modHeld slot f).kv.level1Mib = s.kv.level1Mib := rfl
@[simp] theorem State.modHeld_kv_chunks (s : State) (slot : Nat) (f : Held → Held) : (s.modHeld slot f).kv.chunks = s.kv.chunks := rfl
@[simp] theorem State.modHeld_kv_frames (s : State) (slot : Nat) (f : Held → Held) : (s.modHeld slot f).kv.frames = s.kv.frames := rfl
@[simp] theorem State.modHeld_kv_pages (s : State) (slot : Nat) (f : Held → Held) : (s.modHeld slot f).kv.pages = s.kv.pages := rfl
@[simp] theorem State.modHeld_kv_nodes (s : State) (slot : Nat) (f : Held → Held) : (s.modHeld slot f).kv.nodes = s.kv.nodes := rfl
@[simp] theorem State.modHeld_wt (s : State) (slot : Nat) (f : Held → Held) : (s.modHeld slot f).wt = s.wt := rfl
@[simp] theorem State.modHeld_tl (s : State) (slot : Nat) (f : Held → Held) : (s.modHeld slot f).tl = s.tl := rfl
@[simp] theorem State.modHeld_rd (s : State) (slot : Nat) (f : Held → Held) : (s.modHeld slot f).rd = s.rd := rfl
@[simp] theorem State.modHeld_cl (s : State) (slot : Nat) (f : Held → Held) : (s.modHeld slot f).cl = s.cl := rfl
@[simp] theorem State.modHeld_fb (s : State) (slot : Nat) (f : Held → Held) : (s.modHeld slot f).fb = s.fb := rfl
@[simp] theorem State.modHeld_draw (s : State) (slot : Nat) (f : Held → Held) : (s.modHeld slot f).draw = s.draw := rfl
@[simp] theorem State.modHeld_pending (s : State) (slot : Nat) (f : Held → Held) : (s.modHeld slot f).pending = s.pending := rfl

@[simp] theorem State.modAdc_tm (s : State) (n : Nat) (f : Adc → Adc) : (s.modAdc n f).tm = s.tm := rfl
@[simp] theorem State.modAdc_pw (s : State) (n : Nat) (f : Adc → Adc) : (s.modAdc n f).pw = s.pw := rfl
@[simp] theorem State.modAdc_th (s : State) (n : Nat) (f : Adc → Adc) : (s.modAdc n f).th = s.th := rfl
@[simp] theorem State.modAdc_bt (s : State) (n : Nat) (f : Adc → Adc) : (s.modAdc n f).bt = s.bt := rfl
@[simp] theorem State.modAdc_ev (s : State) (n : Nat) (f : Adc → Adc) : (s.modAdc n f).ev = s.ev := rfl
@[simp] theorem State.modAdc_rg (s : State) (n : Nat) (f : Adc → Adc) : (s.modAdc n f).rg = s.rg := rfl
@[simp] theorem State.modAdc_tp (s : State) (n : Nat) (f : Adc → Adc) : (s.modAdc n f).tp = s.tp := rfl
@[simp] theorem State.modAdc_i3 (s : State) (n : Nat) (f : Adc → Adc) : (s.modAdc n f).i3 = s.i3 := rfl
@[simp] theorem State.modAdc_dp (s : State) (n : Nat) (f : Adc → Adc) : (s.modAdc n f).dp = s.dp := rfl
@[simp] theorem State.modAdc_sv (s : State) (n : Nat) (f : Adc → Adc) : (s.modAdc n f).sv = s.sv := rfl
@[simp] theorem State.modAdc_kv (s : State) (n : Nat) (f : Adc → Adc) : (s.modAdc n f).kv = s.kv := rfl
@[simp] theorem State.modAdc_wt (s : State) (n : Nat) (f : Adc → Adc) : (s.modAdc n f).wt = s.wt := rfl
@[simp] theorem State.modAdc_tl (s : State) (n : Nat) (f : Adc → Adc) : (s.modAdc n f).tl = s.tl := rfl
@[simp] theorem State.modAdc_rd (s : State) (n : Nat) (f : Adc → Adc) : (s.modAdc n f).rd = s.rd := rfl
@[simp] theorem State.modAdc_cl (s : State) (n : Nat) (f : Adc → Adc) : (s.modAdc n f).cl = s.cl := rfl
@[simp] theorem State.modAdc_fb (s : State) (n : Nat) (f : Adc → Adc) : (s.modAdc n f).fb = s.fb := rfl
@[simp] theorem State.modAdc_draw (s : State) (n : Nat) (f : Adc → Adc) : (s.modAdc n f).draw = s.draw := rfl
@[simp] theorem State.modAdc_pending (s : State) (n : Nat) (f : Adc → Adc) : (s.modAdc n f).pending = s.pending := rfl

@[simp] theorem State.modBox_tm (s : State) (n : Nat) (f : Letterbox → Letterbox) : (s.modBox n f).tm = s.tm := rfl
@[simp] theorem State.modBox_pw (s : State) (n : Nat) (f : Letterbox → Letterbox) : (s.modBox n f).pw = s.pw := rfl
@[simp] theorem State.modBox_th (s : State) (n : Nat) (f : Letterbox → Letterbox) : (s.modBox n f).th = s.th := rfl
@[simp] theorem State.modBox_bt (s : State) (n : Nat) (f : Letterbox → Letterbox) : (s.modBox n f).bt = s.bt := rfl
@[simp] theorem State.modBox_ev (s : State) (n : Nat) (f : Letterbox → Letterbox) : (s.modBox n f).ev = s.ev := rfl
@[simp] theorem State.modBox_rg_stored (s : State) (n : Nat) (f : Letterbox → Letterbox) : (s.modBox n f).rg.stored = s.rg.stored := rfl
@[simp] theorem State.modBox_rg_mirrorA (s : State) (n : Nat) (f : Letterbox → Letterbox) :
    (s.modBox n f).rg.mirrorA = s.rg.mirrorA := rfl
@[simp] theorem State.modBox_rg_mirrorHbm (s : State) (n : Nat) (f : Letterbox → Letterbox) :
    (s.modBox n f).rg.mirrorHbm = s.rg.mirrorHbm := rfl
@[simp] theorem State.modBox_rg_mirrorCourier (s : State) (n : Nat) (f : Letterbox → Letterbox) :
    (s.modBox n f).rg.mirrorCourier = s.rg.mirrorCourier := rfl
@[simp] theorem State.modBox_rg_mirrorDispatch (s : State) (n : Nat) (f : Letterbox → Letterbox) :
    (s.modBox n f).rg.mirrorDispatch = s.rg.mirrorDispatch := rfl
@[simp] theorem State.modBox_rg_sealed (s : State) (n : Nat) (f : Letterbox → Letterbox) : (s.modBox n f).rg.sealed = s.rg.sealed := rfl
@[simp] theorem State.modBox_rg_staleDrain (s : State) (n : Nat) (f : Letterbox → Letterbox) :
    (s.modBox n f).rg.staleDrain = s.rg.staleDrain := rfl
@[simp] theorem State.modBox_rg_staleContrib (s : State) (n : Nat) (f : Letterbox → Letterbox) :
    (s.modBox n f).rg.staleContrib = s.rg.staleContrib := rfl
@[simp] theorem State.modBox_rg_dropVersion (s : State) (n : Nat) (f : Letterbox → Letterbox) :
    (s.modBox n f).rg.dropVersion = s.rg.dropVersion := rfl
@[simp] theorem State.modBox_rg_dropType (s : State) (n : Nat) (f : Letterbox → Letterbox) :
    (s.modBox n f).rg.dropType = s.rg.dropType := rfl
@[simp] theorem State.modBox_rg_dropNoPort (s : State) (n : Nat) (f : Letterbox → Letterbox) :
    (s.modBox n f).rg.dropNoPort = s.rg.dropNoPort := rfl
@[simp] theorem State.modBox_rg_dropHops (s : State) (n : Nat) (f : Letterbox → Letterbox) :
    (s.modBox n f).rg.dropHops = s.rg.dropHops := rfl
@[simp] theorem State.modBox_rg_dropE2e (s : State) (n : Nat) (f : Letterbox → Letterbox) :
    (s.modBox n f).rg.dropE2e = s.rg.dropE2e := rfl
@[simp] theorem State.modBox_rg_dropActivation (s : State) (n : Nat) (f : Letterbox → Letterbox) :
    (s.modBox n f).rg.dropActivation = s.rg.dropActivation := rfl
@[simp] theorem State.modBox_rg_dropJob (s : State) (n : Nat) (f : Letterbox → Letterbox) :
    (s.modBox n f).rg.dropJob = s.rg.dropJob := rfl
@[simp] theorem State.modBox_rg_eccCorr (s : State) (n : Nat) (f : Letterbox → Letterbox) :
    (s.modBox n f).rg.eccCorr = s.rg.eccCorr := rfl
@[simp] theorem State.modBox_rg_eccDet (s : State) (n : Nat) (f : Letterbox → Letterbox) : (s.modBox n f).rg.eccDet = s.rg.eccDet := rfl
@[simp] theorem State.modBox_rg_lastCorrected (s : State) (n : Nat) (f : Letterbox → Letterbox) :
    (s.modBox n f).rg.lastCorrected = s.rg.lastCorrected := rfl
@[simp] theorem State.modBox_rg_retained (s : State) (n : Nat) (f : Letterbox → Letterbox) :
    (s.modBox n f).rg.retained = s.rg.retained := rfl
@[simp] theorem State.modBox_rg_calHeld (s : State) (n : Nat) (f : Letterbox → Letterbox) :
    (s.modBox n f).rg.calHeld = s.rg.calHeld := rfl
@[simp] theorem State.modBox_adcs (s : State) (n : Nat) (f : Letterbox → Letterbox) : (s.modBox n f).adcs = s.adcs := rfl
@[simp] theorem State.modBox_tp (s : State) (n : Nat) (f : Letterbox → Letterbox) : (s.modBox n f).tp = s.tp := rfl
@[simp] theorem State.modBox_i3 (s : State) (n : Nat) (f : Letterbox → Letterbox) : (s.modBox n f).i3 = s.i3 := rfl
@[simp] theorem State.modBox_dp (s : State) (n : Nat) (f : Letterbox → Letterbox) : (s.modBox n f).dp = s.dp := rfl
@[simp] theorem State.modBox_sv (s : State) (n : Nat) (f : Letterbox → Letterbox) : (s.modBox n f).sv = s.sv := rfl
@[simp] theorem State.modBox_kv (s : State) (n : Nat) (f : Letterbox → Letterbox) : (s.modBox n f).kv = s.kv := rfl
@[simp] theorem State.modBox_wt (s : State) (n : Nat) (f : Letterbox → Letterbox) : (s.modBox n f).wt = s.wt := rfl
@[simp] theorem State.modBox_tl (s : State) (n : Nat) (f : Letterbox → Letterbox) : (s.modBox n f).tl = s.tl := rfl
@[simp] theorem State.modBox_rd (s : State) (n : Nat) (f : Letterbox → Letterbox) : (s.modBox n f).rd = s.rd := rfl
@[simp] theorem State.modBox_cl (s : State) (n : Nat) (f : Letterbox → Letterbox) : (s.modBox n f).cl = s.cl := rfl
@[simp] theorem State.modBox_fb (s : State) (n : Nat) (f : Letterbox → Letterbox) : (s.modBox n f).fb = s.fb := rfl
@[simp] theorem State.modBox_draw (s : State) (n : Nat) (f : Letterbox → Letterbox) : (s.modBox n f).draw = s.draw := rfl
@[simp] theorem State.modBox_pending (s : State) (n : Nat) (f : Letterbox → Letterbox) : (s.modBox n f).pending = s.pending := rfl

@[simp] theorem State.modSeal_tm (s : State) (f : Seal → Seal) : (s.modSeal f).tm = s.tm := rfl
@[simp] theorem State.modSeal_pw (s : State) (f : Seal → Seal) : (s.modSeal f).pw = s.pw := rfl
@[simp] theorem State.modSeal_th (s : State) (f : Seal → Seal) : (s.modSeal f).th = s.th := rfl
@[simp] theorem State.modSeal_bt (s : State) (f : Seal → Seal) : (s.modSeal f).bt = s.bt := rfl
@[simp] theorem State.modSeal_ev (s : State) (f : Seal → Seal) : (s.modSeal f).ev = s.ev := rfl
@[simp] theorem State.modSeal_rg_stored (s : State) (f : Seal → Seal) : (s.modSeal f).rg.stored = s.rg.stored := rfl
@[simp] theorem State.modSeal_rg_boxes (s : State) (f : Seal → Seal) : (s.modSeal f).rg.boxes = s.rg.boxes := rfl
@[simp] theorem State.modSeal_rg_mirrorA (s : State) (f : Seal → Seal) : (s.modSeal f).rg.mirrorA = s.rg.mirrorA := rfl
@[simp] theorem State.modSeal_rg_mirrorHbm (s : State) (f : Seal → Seal) : (s.modSeal f).rg.mirrorHbm = s.rg.mirrorHbm := rfl
@[simp] theorem State.modSeal_rg_mirrorCourier (s : State) (f : Seal → Seal) : (s.modSeal f).rg.mirrorCourier = s.rg.mirrorCourier := rfl
@[simp] theorem State.modSeal_rg_mirrorDispatch (s : State) (f : Seal → Seal) :
    (s.modSeal f).rg.mirrorDispatch = s.rg.mirrorDispatch := rfl
@[simp] theorem State.modSeal_rg_staleDrain (s : State) (f : Seal → Seal) : (s.modSeal f).rg.staleDrain = s.rg.staleDrain := rfl
@[simp] theorem State.modSeal_rg_staleContrib (s : State) (f : Seal → Seal) : (s.modSeal f).rg.staleContrib = s.rg.staleContrib := rfl
@[simp] theorem State.modSeal_rg_dropVersion (s : State) (f : Seal → Seal) : (s.modSeal f).rg.dropVersion = s.rg.dropVersion := rfl
@[simp] theorem State.modSeal_rg_dropType (s : State) (f : Seal → Seal) : (s.modSeal f).rg.dropType = s.rg.dropType := rfl
@[simp] theorem State.modSeal_rg_dropNoPort (s : State) (f : Seal → Seal) : (s.modSeal f).rg.dropNoPort = s.rg.dropNoPort := rfl
@[simp] theorem State.modSeal_rg_dropHops (s : State) (f : Seal → Seal) : (s.modSeal f).rg.dropHops = s.rg.dropHops := rfl
@[simp] theorem State.modSeal_rg_dropE2e (s : State) (f : Seal → Seal) : (s.modSeal f).rg.dropE2e = s.rg.dropE2e := rfl
@[simp] theorem State.modSeal_rg_dropActivation (s : State) (f : Seal → Seal) :
    (s.modSeal f).rg.dropActivation = s.rg.dropActivation := rfl
@[simp] theorem State.modSeal_rg_dropJob (s : State) (f : Seal → Seal) : (s.modSeal f).rg.dropJob = s.rg.dropJob := rfl
@[simp] theorem State.modSeal_rg_eccCorr (s : State) (f : Seal → Seal) : (s.modSeal f).rg.eccCorr = s.rg.eccCorr := rfl
@[simp] theorem State.modSeal_rg_eccDet (s : State) (f : Seal → Seal) : (s.modSeal f).rg.eccDet = s.rg.eccDet := rfl
@[simp] theorem State.modSeal_rg_lastCorrected (s : State) (f : Seal → Seal) : (s.modSeal f).rg.lastCorrected = s.rg.lastCorrected := rfl
@[simp] theorem State.modSeal_rg_retained (s : State) (f : Seal → Seal) : (s.modSeal f).rg.retained = s.rg.retained := rfl
@[simp] theorem State.modSeal_rg_calHeld (s : State) (f : Seal → Seal) : (s.modSeal f).rg.calHeld = s.rg.calHeld := rfl
@[simp] theorem State.modSeal_adcs (s : State) (f : Seal → Seal) : (s.modSeal f).adcs = s.adcs := rfl
@[simp] theorem State.modSeal_tp (s : State) (f : Seal → Seal) : (s.modSeal f).tp = s.tp := rfl
@[simp] theorem State.modSeal_i3 (s : State) (f : Seal → Seal) : (s.modSeal f).i3 = s.i3 := rfl
@[simp] theorem State.modSeal_dp (s : State) (f : Seal → Seal) : (s.modSeal f).dp = s.dp := rfl
@[simp] theorem State.modSeal_sv (s : State) (f : Seal → Seal) : (s.modSeal f).sv = s.sv := rfl
@[simp] theorem State.modSeal_kv (s : State) (f : Seal → Seal) : (s.modSeal f).kv = s.kv := rfl
@[simp] theorem State.modSeal_wt (s : State) (f : Seal → Seal) : (s.modSeal f).wt = s.wt := rfl
@[simp] theorem State.modSeal_tl (s : State) (f : Seal → Seal) : (s.modSeal f).tl = s.tl := rfl
@[simp] theorem State.modSeal_rd (s : State) (f : Seal → Seal) : (s.modSeal f).rd = s.rd := rfl
@[simp] theorem State.modSeal_cl (s : State) (f : Seal → Seal) : (s.modSeal f).cl = s.cl := rfl
@[simp] theorem State.modSeal_fb (s : State) (f : Seal → Seal) : (s.modSeal f).fb = s.fb := rfl
@[simp] theorem State.modSeal_draw (s : State) (f : Seal → Seal) : (s.modSeal f).draw = s.draw := rfl
@[simp] theorem State.modSeal_pending (s : State) (f : Seal → Seal) : (s.modSeal f).pending = s.pending := rfl

@[simp] theorem State.modClock_pw (s : State) (f : Clocks → Clocks) : (s.modClock f).pw = s.pw := rfl
@[simp] theorem State.modClock_th (s : State) (f : Clocks → Clocks) : (s.modClock f).th = s.th := rfl
@[simp] theorem State.modClock_bt (s : State) (f : Clocks → Clocks) : (s.modClock f).bt = s.bt := rfl
@[simp] theorem State.modClock_ev (s : State) (f : Clocks → Clocks) : (s.modClock f).ev = s.ev := rfl
@[simp] theorem State.modClock_rg (s : State) (f : Clocks → Clocks) : (s.modClock f).rg = s.rg := rfl
@[simp] theorem State.modClock_adcs (s : State) (f : Clocks → Clocks) : (s.modClock f).adcs = s.adcs := rfl
@[simp] theorem State.modClock_tp (s : State) (f : Clocks → Clocks) : (s.modClock f).tp = s.tp := rfl
@[simp] theorem State.modClock_i3 (s : State) (f : Clocks → Clocks) : (s.modClock f).i3 = s.i3 := rfl
@[simp] theorem State.modClock_dp (s : State) (f : Clocks → Clocks) : (s.modClock f).dp = s.dp := rfl
@[simp] theorem State.modClock_sv (s : State) (f : Clocks → Clocks) : (s.modClock f).sv = s.sv := rfl
@[simp] theorem State.modClock_kv (s : State) (f : Clocks → Clocks) : (s.modClock f).kv = s.kv := rfl
@[simp] theorem State.modClock_wt (s : State) (f : Clocks → Clocks) : (s.modClock f).wt = s.wt := rfl
@[simp] theorem State.modClock_tl (s : State) (f : Clocks → Clocks) : (s.modClock f).tl = s.tl := rfl
@[simp] theorem State.modClock_rd (s : State) (f : Clocks → Clocks) : (s.modClock f).rd = s.rd := rfl
@[simp] theorem State.modClock_cl (s : State) (f : Clocks → Clocks) : (s.modClock f).cl = s.cl := rfl
@[simp] theorem State.modClock_fb (s : State) (f : Clocks → Clocks) : (s.modClock f).fb = s.fb := rfl
@[simp] theorem State.modClock_draw (s : State) (f : Clocks → Clocks) : (s.modClock f).draw = s.draw := rfl
@[simp] theorem State.modClock_pending (s : State) (f : Clocks → Clocks) : (s.modClock f).pending = s.pending := rfl

@[simp] theorem State.modEntry_tm (s : State) (tag : Nat) (i : Nat) (f : EntryWork → EntryWork) : (s.modEntry tag i f).tm = s.tm := rfl
@[simp] theorem State.modEntry_pw (s : State) (tag : Nat) (i : Nat) (f : EntryWork → EntryWork) : (s.modEntry tag i f).pw = s.pw := rfl
@[simp] theorem State.modEntry_th (s : State) (tag : Nat) (i : Nat) (f : EntryWork → EntryWork) : (s.modEntry tag i f).th = s.th := rfl
@[simp] theorem State.modEntry_bt (s : State) (tag : Nat) (i : Nat) (f : EntryWork → EntryWork) : (s.modEntry tag i f).bt = s.bt := rfl
@[simp] theorem State.modEntry_ev (s : State) (tag : Nat) (i : Nat) (f : EntryWork → EntryWork) : (s.modEntry tag i f).ev = s.ev := rfl
@[simp] theorem State.modEntry_rg (s : State) (tag : Nat) (i : Nat) (f : EntryWork → EntryWork) : (s.modEntry tag i f).rg = s.rg := rfl
@[simp] theorem State.modEntry_adcs (s : State) (tag : Nat) (i : Nat) (f : EntryWork → EntryWork) :
    (s.modEntry tag i f).adcs = s.adcs := rfl
@[simp] theorem State.modEntry_tp (s : State) (tag : Nat) (i : Nat) (f : EntryWork → EntryWork) : (s.modEntry tag i f).tp = s.tp := rfl
@[simp] theorem State.modEntry_i3 (s : State) (tag : Nat) (i : Nat) (f : EntryWork → EntryWork) : (s.modEntry tag i f).i3 = s.i3 := rfl
@[simp] theorem State.modEntry_dp (s : State) (tag : Nat) (i : Nat) (f : EntryWork → EntryWork) : (s.modEntry tag i f).dp = s.dp := rfl
@[simp] theorem State.modEntry_sv_windows (s : State) (tag : Nat) (i : Nat) (f : EntryWork → EntryWork) :
    (s.modEntry tag i f).sv.windows = s.sv.windows := rfl
@[simp] theorem State.modEntry_sv_mem (s : State) (tag : Nat) (i : Nat) (f : EntryWork → EntryWork) :
    (s.modEntry tag i f).sv.mem = s.sv.mem := rfl
@[simp] theorem State.modEntry_sv_contexts (s : State) (tag : Nat) (i : Nat) (f : EntryWork → EntryWork) :
    (s.modEntry tag i f).sv.contexts = s.sv.contexts := rfl
@[simp] theorem State.modEntry_sv_queues (s : State) (tag : Nat) (i : Nat) (f : EntryWork → EntryWork) :
    (s.modEntry tag i f).sv.queues = s.sv.queues := rfl
@[simp] theorem State.modEntry_sv_slots (s : State) (tag : Nat) (i : Nat) (f : EntryWork → EntryWork) :
    (s.modEntry tag i f).sv.slots = s.sv.slots := rfl
@[simp] theorem State.modEntry_sv_nextTag (s : State) (tag : Nat) (i : Nat) (f : EntryWork → EntryWork) :
    (s.modEntry tag i f).sv.nextTag = s.sv.nextTag := rfl
@[simp] theorem State.modEntry_sv_inputs (s : State) (tag : Nat) (i : Nat) (f : EntryWork → EntryWork) :
    (s.modEntry tag i f).sv.inputs = s.sv.inputs := rfl
@[simp] theorem State.modEntry_sv_nextInput (s : State) (tag : Nat) (i : Nat) (f : EntryWork → EntryWork) :
    (s.modEntry tag i f).sv.nextInput = s.sv.nextInput := rfl
@[simp] theorem State.modEntry_sv_storm (s : State) (tag : Nat) (i : Nat) (f : EntryWork → EntryWork) :
    (s.modEntry tag i f).sv.storm = s.sv.storm := rfl
@[simp] theorem State.modEntry_sv_stormBit (s : State) (tag : Nat) (i : Nat) (f : EntryWork → EntryWork) :
    (s.modEntry tag i f).sv.stormBit = s.sv.stormBit := rfl
@[simp] theorem State.modEntry_sv_stormFraction (s : State) (tag : Nat) (i : Nat) (f : EntryWork → EntryWork) :
    (s.modEntry tag i f).sv.stormFraction = s.sv.stormFraction := rfl
@[simp] theorem State.modEntry_sv_stormSince (s : State) (tag : Nat) (i : Nat) (f : EntryWork → EntryWork) :
    (s.modEntry tag i f).sv.stormSince = s.sv.stormSince := rfl
@[simp] theorem State.modEntry_sv_recalibrated (s : State) (tag : Nat) (i : Nat) (f : EntryWork → EntryWork) :
    (s.modEntry tag i f).sv.recalibrated = s.sv.recalibrated := rfl
@[simp] theorem State.modEntry_sv_adapters (s : State) (tag : Nat) (i : Nat) (f : EntryWork → EntryWork) :
    (s.modEntry tag i f).sv.adapters = s.sv.adapters := rfl
@[simp] theorem State.modEntry_sv_engines (s : State) (tag : Nat) (i : Nat) (f : EntryWork → EntryWork) :
    (s.modEntry tag i f).sv.engines = s.sv.engines := rfl
@[simp] theorem State.modEntry_kv (s : State) (tag : Nat) (i : Nat) (f : EntryWork → EntryWork) : (s.modEntry tag i f).kv = s.kv := rfl
@[simp] theorem State.modEntry_wt (s : State) (tag : Nat) (i : Nat) (f : EntryWork → EntryWork) : (s.modEntry tag i f).wt = s.wt := rfl
@[simp] theorem State.modEntry_tl (s : State) (tag : Nat) (i : Nat) (f : EntryWork → EntryWork) : (s.modEntry tag i f).tl = s.tl := rfl
@[simp] theorem State.modEntry_rd (s : State) (tag : Nat) (i : Nat) (f : EntryWork → EntryWork) : (s.modEntry tag i f).rd = s.rd := rfl
@[simp] theorem State.modEntry_cl (s : State) (tag : Nat) (i : Nat) (f : EntryWork → EntryWork) : (s.modEntry tag i f).cl = s.cl := rfl
@[simp] theorem State.modEntry_fb (s : State) (tag : Nat) (i : Nat) (f : EntryWork → EntryWork) : (s.modEntry tag i f).fb = s.fb := rfl
@[simp] theorem State.modEntry_draw (s : State) (tag : Nat) (i : Nat) (f : EntryWork → EntryWork) :
    (s.modEntry tag i f).draw = s.draw := rfl
@[simp] theorem State.modEntry_pending (s : State) (tag : Nat) (i : Nat) (f : EntryWork → EntryWork) :
    (s.modEntry tag i f).pending = s.pending := rfl

@[simp] theorem State.modI3c_tm (s : State) (f : I3c → I3c) : (s.modI3c f).tm = s.tm := rfl
@[simp] theorem State.modI3c_pw (s : State) (f : I3c → I3c) : (s.modI3c f).pw = s.pw := rfl
@[simp] theorem State.modI3c_th (s : State) (f : I3c → I3c) : (s.modI3c f).th = s.th := rfl
@[simp] theorem State.modI3c_bt (s : State) (f : I3c → I3c) : (s.modI3c f).bt = s.bt := rfl
@[simp] theorem State.modI3c_ev (s : State) (f : I3c → I3c) : (s.modI3c f).ev = s.ev := rfl
@[simp] theorem State.modI3c_rg (s : State) (f : I3c → I3c) : (s.modI3c f).rg = s.rg := rfl
@[simp] theorem State.modI3c_adcs (s : State) (f : I3c → I3c) : (s.modI3c f).adcs = s.adcs := rfl
@[simp] theorem State.modI3c_tp (s : State) (f : I3c → I3c) : (s.modI3c f).tp = s.tp := rfl
@[simp] theorem State.modI3c_dp (s : State) (f : I3c → I3c) : (s.modI3c f).dp = s.dp := rfl
@[simp] theorem State.modI3c_sv (s : State) (f : I3c → I3c) : (s.modI3c f).sv = s.sv := rfl
@[simp] theorem State.modI3c_kv (s : State) (f : I3c → I3c) : (s.modI3c f).kv = s.kv := rfl
@[simp] theorem State.modI3c_wt (s : State) (f : I3c → I3c) : (s.modI3c f).wt = s.wt := rfl
@[simp] theorem State.modI3c_tl (s : State) (f : I3c → I3c) : (s.modI3c f).tl = s.tl := rfl
@[simp] theorem State.modI3c_rd (s : State) (f : I3c → I3c) : (s.modI3c f).rd = s.rd := rfl
@[simp] theorem State.modI3c_cl (s : State) (f : I3c → I3c) : (s.modI3c f).cl = s.cl := rfl
@[simp] theorem State.modI3c_fb (s : State) (f : I3c → I3c) : (s.modI3c f).fb = s.fb := rfl
@[simp] theorem State.modI3c_draw (s : State) (f : I3c → I3c) : (s.modI3c f).draw = s.draw := rfl
@[simp] theorem State.modI3c_pending (s : State) (f : I3c → I3c) : (s.modI3c f).pending = s.pending := rfl

/-- Lists that are renewed change the regions of an array die alone. -/
theorem State.renewLists_eq (s : State) (a : ArrId) : ∃ rs, s.renewLists a = { s with tl := { s.tl with regions := rs } } := by
  unfold State.renewLists State.fetchLists State.modRegion State.setRegion
  dsimp only
  split <;> exact ⟨_, rfl⟩

/-- What a new record of an array changes: its place among the records, the count of shared blocks, the regions of its die. -/
theorem State.setRecord_eq (s : State) (a : ArrId) (r : CodeRecord) : ∃ rs, s.setRecord a r =
    { s with wt := { s.wt with records := setKey s.wt.records a r, copyUses := s.wt.copyUses + s.saturatedBlocks a }
             tl := { s.tl with regions := rs } } := State.renewLists_eq _ a

@[simp] theorem State.setRecord_tm (s : State) (a : ArrId) (r : CodeRecord) : (s.setRecord a r).tm = s.tm := by
  obtain ⟨_, e⟩ := s.setRecord_eq a r; rw [e]
@[simp] theorem State.setRecord_pw (s : State) (a : ArrId) (r : CodeRecord) : (s.setRecord a r).pw = s.pw := by
  obtain ⟨_, e⟩ := s.setRecord_eq a r; rw [e]
@[simp] theorem State.setRecord_th (s : State) (a : ArrId) (r : CodeRecord) : (s.setRecord a r).th = s.th := by
  obtain ⟨_, e⟩ := s.setRecord_eq a r; rw [e]
@[simp] theorem State.setRecord_bt (s : State) (a : ArrId) (r : CodeRecord) : (s.setRecord a r).bt = s.bt := by
  obtain ⟨_, e⟩ := s.setRecord_eq a r; rw [e]
@[simp] theorem State.setRecord_ev (s : State) (a : ArrId) (r : CodeRecord) : (s.setRecord a r).ev = s.ev := by
  obtain ⟨_, e⟩ := s.setRecord_eq a r; rw [e]
@[simp] theorem State.setRecord_rg (s : State) (a : ArrId) (r : CodeRecord) : (s.setRecord a r).rg = s.rg := by
  obtain ⟨_, e⟩ := s.setRecord_eq a r; rw [e]
@[simp] theorem State.setRecord_adcs (s : State) (a : ArrId) (r : CodeRecord) : (s.setRecord a r).adcs = s.adcs := by
  obtain ⟨_, e⟩ := s.setRecord_eq a r; rw [e]
@[simp] theorem State.setRecord_tp (s : State) (a : ArrId) (r : CodeRecord) : (s.setRecord a r).tp = s.tp := by
  obtain ⟨_, e⟩ := s.setRecord_eq a r; rw [e]
@[simp] theorem State.setRecord_i3 (s : State) (a : ArrId) (r : CodeRecord) : (s.setRecord a r).i3 = s.i3 := by
  obtain ⟨_, e⟩ := s.setRecord_eq a r; rw [e]
@[simp] theorem State.setRecord_dp (s : State) (a : ArrId) (r : CodeRecord) : (s.setRecord a r).dp = s.dp := by
  obtain ⟨_, e⟩ := s.setRecord_eq a r; rw [e]
@[simp] theorem State.setRecord_sv (s : State) (a : ArrId) (r : CodeRecord) : (s.setRecord a r).sv = s.sv := by
  obtain ⟨_, e⟩ := s.setRecord_eq a r; rw [e]
@[simp] theorem State.setRecord_kv (s : State) (a : ArrId) (r : CodeRecord) : (s.setRecord a r).kv = s.kv := by
  obtain ⟨_, e⟩ := s.setRecord_eq a r; rw [e]
@[simp] theorem State.setRecord_wt_models (s : State) (a : ArrId) (r : CodeRecord) : (s.setRecord a r).wt.models = s.wt.models := by
  obtain ⟨_, e⟩ := s.setRecord_eq a r; rw [e]
@[simp] theorem State.setRecord_wt_assembling (s : State) (a : ArrId) (r : CodeRecord) : (s.setRecord a r).wt.assembling = s.wt.assembling := by
  obtain ⟨_, e⟩ := s.setRecord_eq a r; rw [e]
@[simp] theorem State.setRecord_wt_masters (s : State) (a : ArrId) (r : CodeRecord) : (s.setRecord a r).wt.masters = s.wt.masters := by
  obtain ⟨_, e⟩ := s.setRecord_eq a r; rw [e]
@[simp] theorem State.setRecord_wt_directory (s : State) (a : ArrId) (r : CodeRecord) : (s.setRecord a r).wt.directory = s.wt.directory := by
  obtain ⟨_, e⟩ := s.setRecord_eq a r; rw [e]
@[simp] theorem State.setRecord_wt_drift (s : State) (a : ArrId) (r : CodeRecord) : (s.setRecord a r).wt.drift = s.wt.drift := by
  obtain ⟨_, e⟩ := s.setRecord_eq a r; rw [e]
@[simp] theorem State.setRecord_wt_franking (s : State) (a : ArrId) (r : CodeRecord) : (s.setRecord a r).wt.franking = s.wt.franking := by
  obtain ⟨_, e⟩ := s.setRecord_eq a r; rw [e]
@[simp] theorem State.setRecord_wt_cells (s : State) (a : ArrId) (r : CodeRecord) : (s.setRecord a r).wt.cells = s.wt.cells := by
  obtain ⟨_, e⟩ := s.setRecord_eq a r; rw [e]
@[simp] theorem State.setRecord_wt_calCells (s : State) (a : ArrId) (r : CodeRecord) : (s.setRecord a r).wt.calCells = s.wt.calCells := by
  obtain ⟨_, e⟩ := s.setRecord_eq a r; rw [e]
@[simp] theorem State.setRecord_wt_wearBase (s : State) (a : ArrId) (r : CodeRecord) : (s.setRecord a r).wt.wearBase = s.wt.wearBase := by
  obtain ⟨_, e⟩ := s.setRecord_eq a r; rw [e]
@[simp] theorem State.setRecord_wt_progBase (s : State) (a : ArrId) (r : CodeRecord) : (s.setRecord a r).wt.progBase = s.wt.progBase := by
  obtain ⟨_, e⟩ := s.setRecord_eq a r; rw [e]
@[simp] theorem State.setRecord_tl_tiles (s : State) (a : ArrId) (r : CodeRecord) : (s.setRecord a r).tl.tiles = s.tl.tiles := by
  obtain ⟨_, e⟩ := s.setRecord_eq a r; rw [e]
@[simp] theorem State.setRecord_rd (s : State) (a : ArrId) (r : CodeRecord) : (s.setRecord a r).rd = s.rd := by
  obtain ⟨_, e⟩ := s.setRecord_eq a r; rw [e]
@[simp] theorem State.setRecord_cl (s : State) (a : ArrId) (r : CodeRecord) : (s.setRecord a r).cl = s.cl := by
  obtain ⟨_, e⟩ := s.setRecord_eq a r; rw [e]
@[simp] theorem State.setRecord_fb (s : State) (a : ArrId) (r : CodeRecord) : (s.setRecord a r).fb = s.fb := by
  obtain ⟨_, e⟩ := s.setRecord_eq a r; rw [e]
@[simp] theorem State.setRecord_draw (s : State) (a : ArrId) (r : CodeRecord) : (s.setRecord a r).draw = s.draw := by
  obtain ⟨_, e⟩ := s.setRecord_eq a r; rw [e]
@[simp] theorem State.setRecord_pending (s : State) (a : ArrId) (r : CodeRecord) : (s.setRecord a r).pending = s.pending := by
  obtain ⟨_, e⟩ := s.setRecord_eq a r; rw [e]

@[simp] theorem State.addWindow_tm (s : State) (w : Window) : (s.addWindow w).tm = s.tm := rfl
@[simp] theorem State.addWindow_pw (s : State) (w : Window) : (s.addWindow w).pw = s.pw := rfl
@[simp] theorem State.addWindow_th (s : State) (w : Window) : (s.addWindow w).th = s.th := rfl
@[simp] theorem State.addWindow_bt (s : State) (w : Window) : (s.addWindow w).bt = s.bt := rfl
@[simp] theorem State.addWindow_ev (s : State) (w : Window) : (s.addWindow w).ev = s.ev := rfl
@[simp] theorem State.addWindow_rg (s : State) (w : Window) : (s.addWindow w).rg = s.rg := rfl
@[simp] theorem State.addWindow_adcs (s : State) (w : Window) : (s.addWindow w).adcs = s.adcs := rfl
@[simp] theorem State.addWindow_tp (s : State) (w : Window) : (s.addWindow w).tp = s.tp := rfl
@[simp] theorem State.addWindow_i3 (s : State) (w : Window) : (s.addWindow w).i3 = s.i3 := rfl
@[simp] theorem State.addWindow_dp (s : State) (w : Window) : (s.addWindow w).dp = s.dp := rfl
@[simp] theorem State.addWindow_sv_mem (s : State) (w : Window) : (s.addWindow w).sv.mem = s.sv.mem := rfl
@[simp] theorem State.addWindow_sv_contexts (s : State) (w : Window) : (s.addWindow w).sv.contexts = s.sv.contexts := rfl
@[simp] theorem State.addWindow_sv_queues (s : State) (w : Window) : (s.addWindow w).sv.queues = s.sv.queues := rfl
@[simp] theorem State.addWindow_sv_slots (s : State) (w : Window) : (s.addWindow w).sv.slots = s.sv.slots := rfl
@[simp] theorem State.addWindow_sv_steps (s : State) (w : Window) : (s.addWindow w).sv.steps = s.sv.steps := rfl
@[simp] theorem State.addWindow_sv_nextTag (s : State) (w : Window) : (s.addWindow w).sv.nextTag = s.sv.nextTag := rfl
@[simp] theorem State.addWindow_sv_inputs (s : State) (w : Window) : (s.addWindow w).sv.inputs = s.sv.inputs := rfl
@[simp] theorem State.addWindow_sv_nextInput (s : State) (w : Window) : (s.addWindow w).sv.nextInput = s.sv.nextInput := rfl
@[simp] theorem State.addWindow_sv_storm (s : State) (w : Window) : (s.addWindow w).sv.storm = s.sv.storm := rfl
@[simp] theorem State.addWindow_sv_stormBit (s : State) (w : Window) : (s.addWindow w).sv.stormBit = s.sv.stormBit := rfl
@[simp] theorem State.addWindow_sv_stormFraction (s : State) (w : Window) : (s.addWindow w).sv.stormFraction = s.sv.stormFraction := rfl
@[simp] theorem State.addWindow_sv_stormSince (s : State) (w : Window) : (s.addWindow w).sv.stormSince = s.sv.stormSince := rfl
@[simp] theorem State.addWindow_sv_recalibrated (s : State) (w : Window) : (s.addWindow w).sv.recalibrated = s.sv.recalibrated := rfl
@[simp] theorem State.addWindow_sv_adapters (s : State) (w : Window) : (s.addWindow w).sv.adapters = s.sv.adapters := rfl
@[simp] theorem State.addWindow_sv_engines (s : State) (w : Window) : (s.addWindow w).sv.engines = s.sv.engines := rfl
@[simp] theorem State.addWindow_kv (s : State) (w : Window) : (s.addWindow w).kv = s.kv := rfl
@[simp] theorem State.addWindow_wt (s : State) (w : Window) : (s.addWindow w).wt = s.wt := rfl
@[simp] theorem State.addWindow_tl (s : State) (w : Window) : (s.addWindow w).tl = s.tl := rfl
@[simp] theorem State.addWindow_rd (s : State) (w : Window) : (s.addWindow w).rd = s.rd := rfl
@[simp] theorem State.addWindow_cl (s : State) (w : Window) : (s.addWindow w).cl = s.cl := rfl
@[simp] theorem State.addWindow_fb (s : State) (w : Window) : (s.addWindow w).fb = s.fb := rfl
@[simp] theorem State.addWindow_draw (s : State) (w : Window) : (s.addWindow w).draw = s.draw := rfl
@[simp] theorem State.addWindow_pending (s : State) (w : Window) : (s.addWindow w).pending = s.pending := rfl

@[simp] theorem State.modIntake_tm (s : State) (port : Nat) (chan : Nat) (f : Intake → Intake) :
    (s.modIntake port chan f).tm = s.tm := rfl
@[simp] theorem State.modIntake_pw (s : State) (port : Nat) (chan : Nat) (f : Intake → Intake) :
    (s.modIntake port chan f).pw = s.pw := rfl
@[simp] theorem State.modIntake_th (s : State) (port : Nat) (chan : Nat) (f : Intake → Intake) :
    (s.modIntake port chan f).th = s.th := rfl
@[simp] theorem State.modIntake_bt (s : State) (port : Nat) (chan : Nat) (f : Intake → Intake) :
    (s.modIntake port chan f).bt = s.bt := rfl
@[simp] theorem State.modIntake_ev (s : State) (port : Nat) (chan : Nat) (f : Intake → Intake) :
    (s.modIntake port chan f).ev = s.ev := rfl
@[simp] theorem State.modIntake_rg (s : State) (port : Nat) (chan : Nat) (f : Intake → Intake) :
    (s.modIntake port chan f).rg = s.rg := rfl
@[simp] theorem State.modIntake_adcs (s : State) (port : Nat) (chan : Nat) (f : Intake → Intake) :
    (s.modIntake port chan f).adcs = s.adcs := rfl
@[simp] theorem State.modIntake_tp (s : State) (port : Nat) (chan : Nat) (f : Intake → Intake) :
    (s.modIntake port chan f).tp = s.tp := rfl
@[simp] theorem State.modIntake_i3 (s : State) (port : Nat) (chan : Nat) (f : Intake → Intake) :
    (s.modIntake port chan f).i3 = s.i3 := rfl
@[simp] theorem State.modIntake_dp_tx (s : State) (port : Nat) (chan : Nat) (f : Intake → Intake) :
    (s.modIntake port chan f).dp.tx = s.dp.tx := rfl
@[simp] theorem State.modIntake_dp_lease (s : State) (port : Nat) (chan : Nat) (f : Intake → Intake) :
    (s.modIntake port chan f).dp.lease = s.dp.lease := rfl
@[simp] theorem State.modIntake_dp_last (s : State) (port : Nat) (chan : Nat) (f : Intake → Intake) :
    (s.modIntake port chan f).dp.last = s.dp.last := rfl
@[simp] theorem State.modIntake_dp_expiring (s : State) (port : Nat) (chan : Nat) (f : Intake → Intake) :
    (s.modIntake port chan f).dp.expiring = s.dp.expiring := rfl
@[simp] theorem State.modIntake_dp_orphans (s : State) (port : Nat) (chan : Nat) (f : Intake → Intake) :
    (s.modIntake port chan f).dp.orphans = s.dp.orphans := rfl
@[simp] theorem State.modIntake_dp_dropped (s : State) (port : Nat) (chan : Nat) (f : Intake → Intake) :
    (s.modIntake port chan f).dp.dropped = s.dp.dropped := rfl
@[simp] theorem State.modIntake_dp_endEvent (s : State) (port : Nat) (chan : Nat) (f : Intake → Intake) :
    (s.modIntake port chan f).dp.endEvent = s.dp.endEvent := rfl
@[simp] theorem State.modIntake_dp_leaseTtl (s : State) (port : Nat) (chan : Nat) (f : Intake → Intake) :
    (s.modIntake port chan f).dp.leaseTtl = s.dp.leaseTtl := rfl
@[simp] theorem State.modIntake_dp_rejectThreshold (s : State) (port : Nat) (chan : Nat) (f : Intake → Intake) :
    (s.modIntake port chan f).dp.rejectThreshold = s.dp.rejectThreshold := rfl
@[simp] theorem State.modIntake_dp_l2Size (s : State) (port : Nat) (chan : Nat) (f : Intake → Intake) :
    (s.modIntake port chan f).dp.l2Size = s.dp.l2Size := rfl
@[simp] theorem State.modIntake_sv (s : State) (port : Nat) (chan : Nat) (f : Intake → Intake) :
    (s.modIntake port chan f).sv = s.sv := rfl
@[simp] theorem State.modIntake_kv (s : State) (port : Nat) (chan : Nat) (f : Intake → Intake) :
    (s.modIntake port chan f).kv = s.kv := rfl
@[simp] theorem State.modIntake_wt (s : State) (port : Nat) (chan : Nat) (f : Intake → Intake) :
    (s.modIntake port chan f).wt = s.wt := rfl
@[simp] theorem State.modIntake_tl (s : State) (port : Nat) (chan : Nat) (f : Intake → Intake) :
    (s.modIntake port chan f).tl = s.tl := rfl
@[simp] theorem State.modIntake_rd (s : State) (port : Nat) (chan : Nat) (f : Intake → Intake) :
    (s.modIntake port chan f).rd = s.rd := rfl
@[simp] theorem State.modIntake_cl (s : State) (port : Nat) (chan : Nat) (f : Intake → Intake) :
    (s.modIntake port chan f).cl = s.cl := rfl
@[simp] theorem State.modIntake_fb (s : State) (port : Nat) (chan : Nat) (f : Intake → Intake) :
    (s.modIntake port chan f).fb = s.fb := rfl
@[simp] theorem State.modIntake_draw (s : State) (port : Nat) (chan : Nat) (f : Intake → Intake) :
    (s.modIntake port chan f).draw = s.draw := rfl
@[simp] theorem State.modIntake_pending (s : State) (port : Nat) (chan : Nat) (f : Intake → Intake) :
    (s.modIntake port chan f).pending = s.pending := rfl

@[simp] theorem State.setTileRecord_tm (s : State) (r : TileRecord) : (s.setTileRecord r).tm = s.tm := rfl
@[simp] theorem State.setTileRecord_pw (s : State) (r : TileRecord) : (s.setTileRecord r).pw = s.pw := rfl
@[simp] theorem State.setTileRecord_th (s : State) (r : TileRecord) : (s.setTileRecord r).th = s.th := rfl
@[simp] theorem State.setTileRecord_bt (s : State) (r : TileRecord) : (s.setTileRecord r).bt = s.bt := rfl
@[simp] theorem State.setTileRecord_ev (s : State) (r : TileRecord) : (s.setTileRecord r).ev = s.ev := rfl
@[simp] theorem State.setTileRecord_rg (s : State) (r : TileRecord) : (s.setTileRecord r).rg = s.rg := rfl
@[simp] theorem State.setTileRecord_adcs (s : State) (r : TileRecord) : (s.setTileRecord r).adcs = s.adcs := rfl
@[simp] theorem State.setTileRecord_tp (s : State) (r : TileRecord) : (s.setTileRecord r).tp = s.tp := rfl
@[simp] theorem State.setTileRecord_i3 (s : State) (r : TileRecord) : (s.setTileRecord r).i3 = s.i3 := rfl
@[simp] theorem State.setTileRecord_dp (s : State) (r : TileRecord) : (s.setTileRecord r).dp = s.dp := rfl
@[simp] theorem State.setTileRecord_sv (s : State) (r : TileRecord) : (s.setTileRecord r).sv = s.sv := rfl
@[simp] theorem State.setTileRecord_kv (s : State) (r : TileRecord) : (s.setTileRecord r).kv = s.kv := rfl
@[simp] theorem State.setTileRecord_wt (s : State) (r : TileRecord) : (s.setTileRecord r).wt = s.wt := rfl
@[simp] theorem State.setTileRecord_tl (s : State) (r : TileRecord) : (s.setTileRecord r).tl = s.tl := rfl
@[simp] theorem State.setTileRecord_rd (s : State) (r : TileRecord) : (s.setTileRecord r).rd = s.rd := rfl
@[simp] theorem State.setTileRecord_cl_trims (s : State) (r : TileRecord) : (s.setTileRecord r).cl.trims = s.cl.trims := rfl
@[simp] theorem State.setTileRecord_cl_nextTrims (s : State) (r : TileRecord) : (s.setTileRecord r).cl.nextTrims = s.cl.nextTrims := rfl
@[simp] theorem State.setTileRecord_cl_runTrims (s : State) (r : TileRecord) : (s.setTileRecord r).cl.runTrims = s.cl.runTrims := rfl
@[simp] theorem State.setTileRecord_cl_runTrimsBase (s : State) (r : TileRecord) : (s.setTileRecord r).cl.runTrimsBase = s.cl.runTrimsBase := rfl
@[simp] theorem State.setTileRecord_cl_busy (s : State) (r : TileRecord) : (s.setTileRecord r).cl.busy = s.cl.busy := rfl
@[simp] theorem State.setTileRecord_cl_last (s : State) (r : TileRecord) : (s.setTileRecord r).cl.last = s.cl.last := rfl
@[simp] theorem State.setTileRecord_cl_microvolts (s : State) (r : TileRecord) :
    (s.setTileRecord r).cl.microvolts = s.cl.microvolts := rfl
@[simp] theorem State.setTileRecord_cl_sat (s : State) (r : TileRecord) : (s.setTileRecord r).cl.sat = s.cl.sat := rfl
@[simp] theorem State.setTileRecord_cl_refTime (s : State) (r : TileRecord) : (s.setTileRecord r).cl.refTime = s.cl.refTime := rfl
@[simp] theorem State.setTileRecord_cl_traceBegan (s : State) (r : TileRecord) :
    (s.setTileRecord r).cl.traceBegan = s.cl.traceBegan := rfl
@[simp] theorem State.setTileRecord_cl_pendingTrace (s : State) (r : TileRecord) :
    (s.setTileRecord r).cl.pendingTrace = s.cl.pendingTrace := rfl
@[simp] theorem State.setTileRecord_cl_untraced (s : State) (r : TileRecord) : (s.setTileRecord r).cl.untraced = s.cl.untraced := rfl
@[simp] theorem State.setTileRecord_cl_groups (s : State) (r : TileRecord) : (s.setTileRecord r).cl.groups = s.cl.groups := rfl
@[simp] theorem State.setTileRecord_cl_restored (s : State) (r : TileRecord) : (s.setTileRecord r).cl.restored = s.cl.restored := rfl
@[simp] theorem State.setTileRecord_cl_storeField (s : State) (r : TileRecord) :
    (s.setTileRecord r).cl.storeField = s.cl.storeField := rfl
@[simp] theorem State.setTileRecord_cl_storeTime (s : State) (r : TileRecord) : (s.setTileRecord r).cl.storeTime = s.cl.storeTime := rfl
@[simp] theorem State.setTileRecord_fb (s : State) (r : TileRecord) : (s.setTileRecord r).fb = s.fb := rfl
@[simp] theorem State.setTileRecord_draw (s : State) (r : TileRecord) : (s.setTileRecord r).draw = s.draw := rfl
@[simp] theorem State.setTileRecord_pending (s : State) (r : TileRecord) : (s.setTileRecord r).pending = s.pending := rfl

@[simp] theorem State.putLine_tm (s : State) (l : Line) : (s.putLine l).tm = s.tm := rfl
@[simp] theorem State.putLine_pw (s : State) (l : Line) : (s.putLine l).pw = s.pw := rfl
@[simp] theorem State.putLine_th (s : State) (l : Line) : (s.putLine l).th = s.th := rfl
@[simp] theorem State.putLine_bt (s : State) (l : Line) : (s.putLine l).bt = s.bt := rfl
@[simp] theorem State.putLine_ev (s : State) (l : Line) : (s.putLine l).ev = s.ev := rfl
@[simp] theorem State.putLine_rg (s : State) (l : Line) : (s.putLine l).rg = s.rg := rfl
@[simp] theorem State.putLine_adcs (s : State) (l : Line) : (s.putLine l).adcs = s.adcs := rfl
@[simp] theorem State.putLine_tp (s : State) (l : Line) : (s.putLine l).tp = s.tp := rfl
@[simp] theorem State.putLine_i3 (s : State) (l : Line) : (s.putLine l).i3 = s.i3 := rfl
@[simp] theorem State.putLine_dp (s : State) (l : Line) : (s.putLine l).dp = s.dp := rfl
@[simp] theorem State.putLine_sv (s : State) (l : Line) : (s.putLine l).sv = s.sv := rfl
@[simp] theorem State.putLine_kv (s : State) (l : Line) : (s.putLine l).kv = s.kv := rfl
@[simp] theorem State.putLine_wt (s : State) (l : Line) : (s.putLine l).wt = s.wt := rfl
@[simp] theorem State.putLine_tl (s : State) (l : Line) : (s.putLine l).tl = s.tl := rfl
@[simp] theorem State.putLine_rd_drains (s : State) (l : Line) : (s.putLine l).rd.drains = s.rd.drains := rfl
@[simp] theorem State.putLine_rd_ledgers (s : State) (l : Line) : (s.putLine l).rd.ledgers = s.rd.ledgers := rfl
@[simp] theorem State.putLine_rd_nextOff (s : State) (l : Line) : (s.putLine l).rd.nextOff = s.rd.nextOff := rfl
@[simp] theorem State.putLine_cl (s : State) (l : Line) : (s.putLine l).cl = s.cl := rfl
@[simp] theorem State.putLine_fb (s : State) (l : Line) : (s.putLine l).fb = s.fb := rfl
@[simp] theorem State.putLine_draw (s : State) (l : Line) : (s.putLine l).draw = s.draw := rfl
@[simp] theorem State.putLine_pending (s : State) (l : Line) : (s.putLine l).pending = s.pending := rfl

@[simp] theorem State.setLedger_tm (s : State) (l : Ledger) : (s.setLedger l).tm = s.tm := rfl
@[simp] theorem State.setLedger_pw (s : State) (l : Ledger) : (s.setLedger l).pw = s.pw := rfl
@[simp] theorem State.setLedger_th (s : State) (l : Ledger) : (s.setLedger l).th = s.th := rfl
@[simp] theorem State.setLedger_bt (s : State) (l : Ledger) : (s.setLedger l).bt = s.bt := rfl
@[simp] theorem State.setLedger_ev (s : State) (l : Ledger) : (s.setLedger l).ev = s.ev := rfl
@[simp] theorem State.setLedger_rg (s : State) (l : Ledger) : (s.setLedger l).rg = s.rg := rfl
@[simp] theorem State.setLedger_adcs (s : State) (l : Ledger) : (s.setLedger l).adcs = s.adcs := rfl
@[simp] theorem State.setLedger_tp (s : State) (l : Ledger) : (s.setLedger l).tp = s.tp := rfl
@[simp] theorem State.setLedger_i3 (s : State) (l : Ledger) : (s.setLedger l).i3 = s.i3 := rfl
@[simp] theorem State.setLedger_dp (s : State) (l : Ledger) : (s.setLedger l).dp = s.dp := rfl
@[simp] theorem State.setLedger_sv (s : State) (l : Ledger) : (s.setLedger l).sv = s.sv := rfl
@[simp] theorem State.setLedger_kv (s : State) (l : Ledger) : (s.setLedger l).kv = s.kv := rfl
@[simp] theorem State.setLedger_wt (s : State) (l : Ledger) : (s.setLedger l).wt = s.wt := rfl
@[simp] theorem State.setLedger_tl (s : State) (l : Ledger) : (s.setLedger l).tl = s.tl := rfl
@[simp] theorem State.setLedger_rd_lines (s : State) (l : Ledger) : (s.setLedger l).rd.lines = s.rd.lines := rfl
@[simp] theorem State.setLedger_rd_drains (s : State) (l : Ledger) : (s.setLedger l).rd.drains = s.rd.drains := rfl
@[simp] theorem State.setLedger_rd_nextOff (s : State) (l : Ledger) : (s.setLedger l).rd.nextOff = s.rd.nextOff := rfl
@[simp] theorem State.setLedger_cl (s : State) (l : Ledger) : (s.setLedger l).cl = s.cl := rfl
@[simp] theorem State.setLedger_fb (s : State) (l : Ledger) : (s.setLedger l).fb = s.fb := rfl
@[simp] theorem State.setLedger_draw (s : State) (l : Ledger) : (s.setLedger l).draw = s.draw := rfl
@[simp] theorem State.setLedger_pending (s : State) (l : Ledger) : (s.setLedger l).pending = s.pending := rfl

@[simp] theorem State.rest_tm (s : State) (q : List Instr) : (s.rest q).tm = s.tm := rfl
@[simp] theorem State.rest_pw (s : State) (q : List Instr) : (s.rest q).pw = s.pw := rfl
@[simp] theorem State.rest_th (s : State) (q : List Instr) : (s.rest q).th = s.th := rfl
@[simp] theorem State.rest_bt (s : State) (q : List Instr) : (s.rest q).bt = s.bt := rfl
@[simp] theorem State.rest_ev (s : State) (q : List Instr) : (s.rest q).ev = s.ev := rfl
@[simp] theorem State.rest_rg (s : State) (q : List Instr) : (s.rest q).rg = s.rg := rfl
@[simp] theorem State.rest_adcs (s : State) (q : List Instr) : (s.rest q).adcs = s.adcs := rfl
@[simp] theorem State.rest_tp (s : State) (q : List Instr) : (s.rest q).tp = s.tp := rfl
@[simp] theorem State.rest_i3 (s : State) (q : List Instr) : (s.rest q).i3 = s.i3 := rfl
@[simp] theorem State.rest_dp (s : State) (q : List Instr) : (s.rest q).dp = s.dp := rfl
@[simp] theorem State.rest_sv (s : State) (q : List Instr) : (s.rest q).sv = s.sv := rfl
@[simp] theorem State.rest_kv (s : State) (q : List Instr) : (s.rest q).kv = s.kv := rfl
@[simp] theorem State.rest_wt (s : State) (q : List Instr) : (s.rest q).wt = s.wt := rfl
@[simp] theorem State.rest_tl (s : State) (q : List Instr) : (s.rest q).tl = s.tl := rfl
@[simp] theorem State.rest_rd (s : State) (q : List Instr) : (s.rest q).rd = s.rd := rfl
@[simp] theorem State.rest_cl (s : State) (q : List Instr) : (s.rest q).cl = s.cl := rfl
@[simp] theorem State.rest_fb (s : State) (q : List Instr) : (s.rest q).fb = s.fb := rfl
@[simp] theorem State.rest_draw (s : State) (q : List Instr) : (s.rest q).draw = s.draw := rfl

@[simp] theorem State.openSeal_tm (s : State) : (s.openSeal).tm = s.tm := rfl
@[simp] theorem State.openSeal_pw (s : State) : (s.openSeal).pw = s.pw := rfl
@[simp] theorem State.openSeal_th (s : State) : (s.openSeal).th = s.th := rfl
@[simp] theorem State.openSeal_bt (s : State) : (s.openSeal).bt = s.bt := rfl
@[simp] theorem State.openSeal_ev (s : State) : (s.openSeal).ev = s.ev := rfl
@[simp] theorem State.openSeal_rg_stored (s : State) : (s.openSeal).rg.stored = s.rg.stored := rfl
@[simp] theorem State.openSeal_rg_boxes (s : State) : (s.openSeal).rg.boxes = s.rg.boxes := rfl
@[simp] theorem State.openSeal_rg_mirrorA (s : State) : (s.openSeal).rg.mirrorA = s.rg.mirrorA := rfl
@[simp] theorem State.openSeal_rg_mirrorHbm (s : State) : (s.openSeal).rg.mirrorHbm = s.rg.mirrorHbm := rfl
@[simp] theorem State.openSeal_rg_mirrorCourier (s : State) : (s.openSeal).rg.mirrorCourier = s.rg.mirrorCourier := rfl
@[simp] theorem State.openSeal_rg_mirrorDispatch (s : State) : (s.openSeal).rg.mirrorDispatch = s.rg.mirrorDispatch := rfl
@[simp] theorem State.openSeal_rg_staleDrain (s : State) : (s.openSeal).rg.staleDrain = s.rg.staleDrain := rfl
@[simp] theorem State.openSeal_rg_staleContrib (s : State) : (s.openSeal).rg.staleContrib = s.rg.staleContrib := rfl
@[simp] theorem State.openSeal_rg_dropVersion (s : State) : (s.openSeal).rg.dropVersion = s.rg.dropVersion := rfl
@[simp] theorem State.openSeal_rg_dropType (s : State) : (s.openSeal).rg.dropType = s.rg.dropType := rfl
@[simp] theorem State.openSeal_rg_dropNoPort (s : State) : (s.openSeal).rg.dropNoPort = s.rg.dropNoPort := rfl
@[simp] theorem State.openSeal_rg_dropHops (s : State) : (s.openSeal).rg.dropHops = s.rg.dropHops := rfl
@[simp] theorem State.openSeal_rg_dropE2e (s : State) : (s.openSeal).rg.dropE2e = s.rg.dropE2e := rfl
@[simp] theorem State.openSeal_rg_dropActivation (s : State) : (s.openSeal).rg.dropActivation = s.rg.dropActivation := rfl
@[simp] theorem State.openSeal_rg_dropJob (s : State) : (s.openSeal).rg.dropJob = s.rg.dropJob := rfl
@[simp] theorem State.openSeal_rg_eccCorr (s : State) : (s.openSeal).rg.eccCorr = s.rg.eccCorr := rfl
@[simp] theorem State.openSeal_rg_eccDet (s : State) : (s.openSeal).rg.eccDet = s.rg.eccDet := rfl
@[simp] theorem State.openSeal_rg_lastCorrected (s : State) : (s.openSeal).rg.lastCorrected = s.rg.lastCorrected := rfl
@[simp] theorem State.openSeal_rg_retained (s : State) : (s.openSeal).rg.retained = s.rg.retained := rfl
@[simp] theorem State.openSeal_rg_calHeld (s : State) : (s.openSeal).rg.calHeld = s.rg.calHeld := rfl
@[simp] theorem State.openSeal_adcs (s : State) : (s.openSeal).adcs = s.adcs := rfl
@[simp] theorem State.openSeal_tp (s : State) : (s.openSeal).tp = s.tp := rfl
@[simp] theorem State.openSeal_i3 (s : State) : (s.openSeal).i3 = s.i3 := rfl
@[simp] theorem State.openSeal_dp (s : State) : (s.openSeal).dp = s.dp := rfl
@[simp] theorem State.openSeal_sv (s : State) : (s.openSeal).sv = s.sv := rfl
@[simp] theorem State.openSeal_kv (s : State) : (s.openSeal).kv = s.kv := rfl
@[simp] theorem State.openSeal_wt (s : State) : (s.openSeal).wt = s.wt := rfl
@[simp] theorem State.openSeal_tl (s : State) : (s.openSeal).tl = s.tl := rfl
@[simp] theorem State.openSeal_rd (s : State) : (s.openSeal).rd = s.rd := rfl
@[simp] theorem State.openSeal_cl (s : State) : (s.openSeal).cl = s.cl := rfl
@[simp] theorem State.openSeal_fb (s : State) : (s.openSeal).fb = s.fb := rfl
@[simp] theorem State.openSeal_draw (s : State) : (s.openSeal).draw = s.draw := rfl
@[simp] theorem State.openSeal_pending (s : State) : (s.openSeal).pending = s.pending := rfl

@[simp] theorem State.commitSeal_tm (s : State) : (s.commitSeal).tm = s.tm := rfl
@[simp] theorem State.commitSeal_pw (s : State) : (s.commitSeal).pw = s.pw := rfl
@[simp] theorem State.commitSeal_th (s : State) : (s.commitSeal).th = s.th := rfl
@[simp] theorem State.commitSeal_bt (s : State) : (s.commitSeal).bt = s.bt := rfl
@[simp] theorem State.commitSeal_ev (s : State) : (s.commitSeal).ev = s.ev := rfl
@[simp] theorem State.commitSeal_rg_stored (s : State) : (s.commitSeal).rg.stored = s.rg.stored := rfl
@[simp] theorem State.commitSeal_rg_boxes (s : State) : (s.commitSeal).rg.boxes = s.rg.boxes := rfl
@[simp] theorem State.commitSeal_rg_mirrorA (s : State) : (s.commitSeal).rg.mirrorA = s.rg.mirrorA := rfl
@[simp] theorem State.commitSeal_rg_mirrorHbm (s : State) : (s.commitSeal).rg.mirrorHbm = s.rg.mirrorHbm := rfl
@[simp] theorem State.commitSeal_rg_mirrorCourier (s : State) : (s.commitSeal).rg.mirrorCourier = s.rg.mirrorCourier := rfl
@[simp] theorem State.commitSeal_rg_mirrorDispatch (s : State) : (s.commitSeal).rg.mirrorDispatch = s.rg.mirrorDispatch := rfl
@[simp] theorem State.commitSeal_rg_staleDrain (s : State) : (s.commitSeal).rg.staleDrain = s.rg.staleDrain := rfl
@[simp] theorem State.commitSeal_rg_staleContrib (s : State) : (s.commitSeal).rg.staleContrib = s.rg.staleContrib := rfl
@[simp] theorem State.commitSeal_rg_dropVersion (s : State) : (s.commitSeal).rg.dropVersion = s.rg.dropVersion := rfl
@[simp] theorem State.commitSeal_rg_dropType (s : State) : (s.commitSeal).rg.dropType = s.rg.dropType := rfl
@[simp] theorem State.commitSeal_rg_dropNoPort (s : State) : (s.commitSeal).rg.dropNoPort = s.rg.dropNoPort := rfl
@[simp] theorem State.commitSeal_rg_dropHops (s : State) : (s.commitSeal).rg.dropHops = s.rg.dropHops := rfl
@[simp] theorem State.commitSeal_rg_dropE2e (s : State) : (s.commitSeal).rg.dropE2e = s.rg.dropE2e := rfl
@[simp] theorem State.commitSeal_rg_dropActivation (s : State) : (s.commitSeal).rg.dropActivation = s.rg.dropActivation := rfl
@[simp] theorem State.commitSeal_rg_dropJob (s : State) : (s.commitSeal).rg.dropJob = s.rg.dropJob := rfl
@[simp] theorem State.commitSeal_rg_eccCorr (s : State) : (s.commitSeal).rg.eccCorr = s.rg.eccCorr := rfl
@[simp] theorem State.commitSeal_rg_eccDet (s : State) : (s.commitSeal).rg.eccDet = s.rg.eccDet := rfl
@[simp] theorem State.commitSeal_rg_lastCorrected (s : State) : (s.commitSeal).rg.lastCorrected = s.rg.lastCorrected := rfl
@[simp] theorem State.commitSeal_rg_retained (s : State) : (s.commitSeal).rg.retained = s.rg.retained := rfl
@[simp] theorem State.commitSeal_rg_calHeld (s : State) : (s.commitSeal).rg.calHeld = s.rg.calHeld := rfl
@[simp] theorem State.commitSeal_adcs (s : State) : (s.commitSeal).adcs = s.adcs := rfl
@[simp] theorem State.commitSeal_tp (s : State) : (s.commitSeal).tp = s.tp := rfl
@[simp] theorem State.commitSeal_i3 (s : State) : (s.commitSeal).i3 = s.i3 := rfl
@[simp] theorem State.commitSeal_dp (s : State) : (s.commitSeal).dp = s.dp := rfl
@[simp] theorem State.commitSeal_sv (s : State) : (s.commitSeal).sv = s.sv := rfl
@[simp] theorem State.commitSeal_kv (s : State) : (s.commitSeal).kv = s.kv := rfl
@[simp] theorem State.commitSeal_wt (s : State) : (s.commitSeal).wt = s.wt := rfl
@[simp] theorem State.commitSeal_tl (s : State) : (s.commitSeal).tl = s.tl := rfl
@[simp] theorem State.commitSeal_rd (s : State) : (s.commitSeal).rd = s.rd := rfl
@[simp] theorem State.commitSeal_cl (s : State) : (s.commitSeal).cl = s.cl := rfl
@[simp] theorem State.commitSeal_fb (s : State) : (s.commitSeal).fb = s.fb := rfl
@[simp] theorem State.commitSeal_draw (s : State) : (s.commitSeal).draw = s.draw := rfl
@[simp] theorem State.commitSeal_pending (s : State) : (s.commitSeal).pending = s.pending := rfl

@[simp] theorem State.writeEvtHead_tm (s : State) (v : Nat) : (s.writeEvtHead v).tm = s.tm := rfl
@[simp] theorem State.writeEvtHead_pw (s : State) (v : Nat) : (s.writeEvtHead v).pw = s.pw := rfl
@[simp] theorem State.writeEvtHead_th (s : State) (v : Nat) : (s.writeEvtHead v).th = s.th := rfl
@[simp] theorem State.writeEvtHead_bt (s : State) (v : Nat) : (s.writeEvtHead v).bt = s.bt := rfl
@[simp] theorem State.writeEvtHead_ev_held (s : State) (v : Nat) : (s.writeEvtHead v).ev.held = s.ev.held := rfl
@[simp] theorem State.writeEvtHead_ev_next (s : State) (v : Nat) : (s.writeEvtHead v).ev.next = s.ev.next := rfl
@[simp] theorem State.writeEvtHead_ev_lost (s : State) (v : Nat) : (s.writeEvtHead v).ev.lost = s.ev.lost := rfl
@[simp] theorem State.writeEvtHead_ev_asyncNext (s : State) (v : Nat) : (s.writeEvtHead v).ev.asyncNext = s.ev.asyncNext := rfl
@[simp] theorem State.writeEvtHead_ev_ring (s : State) (v : Nat) : (s.writeEvtHead v).ev.ring = s.ev.ring := rfl
@[simp] theorem State.writeEvtHead_ev_ringTail (s : State) (v : Nat) : (s.writeEvtHead v).ev.ringTail = s.ev.ringTail := rfl
@[simp] theorem State.writeEvtHead_ev_winTail (s : State) (v : Nat) : (s.writeEvtHead v).ev.winTail = s.ev.winTail := rfl
@[simp] theorem State.writeEvtHead_ev_winLost (s : State) (v : Nat) : (s.writeEvtHead v).ev.winLost = s.ev.winLost := rfl
@[simp] theorem State.writeEvtHead_ev_window (s : State) (v : Nat) : (s.writeEvtHead v).ev.window = s.ev.window := rfl
@[simp] theorem State.writeEvtHead_ev_stormList (s : State) (v : Nat) : (s.writeEvtHead v).ev.stormList = s.ev.stormList := rfl
@[simp] theorem State.writeEvtHead_ev_stormPending (s : State) (v : Nat) : (s.writeEvtHead v).ev.stormPending = s.ev.stormPending := rfl
@[simp] theorem State.writeEvtHead_rg (s : State) (v : Nat) : (s.writeEvtHead v).rg = s.rg := rfl
@[simp] theorem State.writeEvtHead_adcs (s : State) (v : Nat) : (s.writeEvtHead v).adcs = s.adcs := rfl
@[simp] theorem State.writeEvtHead_tp (s : State) (v : Nat) : (s.writeEvtHead v).tp = s.tp := rfl
@[simp] theorem State.writeEvtHead_i3 (s : State) (v : Nat) : (s.writeEvtHead v).i3 = s.i3 := rfl
@[simp] theorem State.writeEvtHead_dp (s : State) (v : Nat) : (s.writeEvtHead v).dp = s.dp := rfl
@[simp] theorem State.writeEvtHead_sv (s : State) (v : Nat) : (s.writeEvtHead v).sv = s.sv := rfl
@[simp] theorem State.writeEvtHead_kv (s : State) (v : Nat) : (s.writeEvtHead v).kv = s.kv := rfl
@[simp] theorem State.writeEvtHead_wt (s : State) (v : Nat) : (s.writeEvtHead v).wt = s.wt := rfl
@[simp] theorem State.writeEvtHead_tl (s : State) (v : Nat) : (s.writeEvtHead v).tl = s.tl := rfl
@[simp] theorem State.writeEvtHead_rd (s : State) (v : Nat) : (s.writeEvtHead v).rd = s.rd := rfl
@[simp] theorem State.writeEvtHead_cl (s : State) (v : Nat) : (s.writeEvtHead v).cl = s.cl := rfl
@[simp] theorem State.writeEvtHead_fb (s : State) (v : Nat) : (s.writeEvtHead v).fb = s.fb := rfl
@[simp] theorem State.writeEvtHead_draw (s : State) (v : Nat) : (s.writeEvtHead v).draw = s.draw := rfl
@[simp] theorem State.writeEvtHead_pending (s : State) (v : Nat) : (s.writeEvtHead v).pending = s.pending := rfl

@[simp] theorem State.markRead_tm (s : State) (slot : Nat) : (s.markRead slot).tm = s.tm := rfl
@[simp] theorem State.markRead_pw (s : State) (slot : Nat) : (s.markRead slot).pw = s.pw := rfl
@[simp] theorem State.markRead_th (s : State) (slot : Nat) : (s.markRead slot).th = s.th := rfl
@[simp] theorem State.markRead_bt_records (s : State) (slot : Nat) : (s.markRead slot).bt.records = s.bt.records := rfl
@[simp] theorem State.markRead_bt_images (s : State) (slot : Nat) : (s.markRead slot).bt.images = s.bt.images := rfl
@[simp] theorem State.markRead_bt_control (s : State) (slot : Nat) : (s.markRead slot).bt.control = s.bt.control := rfl
@[simp] theorem State.markRead_bt_certSerial (s : State) (slot : Nat) : (s.markRead slot).bt.certSerial = s.bt.certSerial := rfl
@[simp] theorem State.markRead_bt_certOk (s : State) (slot : Nat) : (s.markRead slot).bt.certOk = s.bt.certOk := rfl
@[simp] theorem State.markRead_bt_helperOk (s : State) (slot : Nat) : (s.markRead slot).bt.helperOk = s.bt.helperOk := rfl
@[simp] theorem State.markRead_bt_flashReadError (s : State) (slot : Nat) :
    (s.markRead slot).bt.flashReadError = s.bt.flashReadError := rfl
@[simp] theorem State.markRead_bt_drainLog (s : State) (slot : Nat) : (s.markRead slot).bt.drainLog = s.bt.drainLog := rfl
@[simp] theorem State.markRead_bt_stopLog (s : State) (slot : Nat) : (s.markRead slot).bt.stopLog = s.bt.stopLog := rfl
@[simp] theorem State.markRead_bt_stopsUnreported (s : State) (slot : Nat) :
    (s.markRead slot).bt.stopsUnreported = s.bt.stopsUnreported := rfl
@[simp] theorem State.markRead_bt_run (s : State) (slot : Nat) : (s.markRead slot).bt.run = s.bt.run := rfl
@[simp] theorem State.markRead_bt_bootFail (s : State) (slot : Nat) : (s.markRead slot).bt.bootFail = s.bt.bootFail := rfl
@[simp] theorem State.markRead_bt_slot (s : State) (slot : Nat) : (s.markRead slot).bt.slot = s.bt.slot := rfl
@[simp] theorem State.markRead_bt_trialBoot (s : State) (slot : Nat) : (s.markRead slot).bt.trialBoot = s.bt.trialBoot := rfl
@[simp] theorem State.markRead_bt_record (s : State) (slot : Nat) : (s.markRead slot).bt.record = s.bt.record := rfl
@[simp] theorem State.markRead_bt_image (s : State) (slot : Nat) : (s.markRead slot).bt.image = s.bt.image := rfl
@[simp] theorem State.markRead_bt_compat (s : State) (slot : Nat) : (s.markRead slot).bt.compat = s.bt.compat := rfl
@[simp] theorem State.markRead_bt_addr0 (s : State) (slot : Nat) : (s.markRead slot).bt.addr0 = s.bt.addr0 := rfl
@[simp] theorem State.markRead_bt_addr1 (s : State) (slot : Nat) : (s.markRead slot).bt.addr1 = s.bt.addr1 := rfl
@[simp] theorem State.markRead_bt_resetPin (s : State) (slot : Nat) : (s.markRead slot).bt.resetPin = s.bt.resetPin := rfl
@[simp] theorem State.markRead_bt_wakePin (s : State) (slot : Nat) : (s.markRead slot).bt.wakePin = s.bt.wakePin := rfl
@[simp] theorem State.markRead_bt_sysclk (s : State) (slot : Nat) : (s.markRead slot).bt.sysclk = s.bt.sysclk := rfl
@[simp] theorem State.markRead_bt_watchdogs (s : State) (slot : Nat) : (s.markRead slot).bt.watchdogs = s.bt.watchdogs := rfl
@[simp] theorem State.markRead_bt_halted (s : State) (slot : Nat) : (s.markRead slot).bt.halted = s.bt.halted := rfl
@[simp] theorem State.markRead_bt_staging (s : State) (slot : Nat) : (s.markRead slot).bt.staging = s.bt.staging := rfl
@[simp] theorem State.markRead_bt_dumpCount (s : State) (slot : Nat) : (s.markRead slot).bt.dumpCount = s.bt.dumpCount := rfl
@[simp] theorem State.markRead_bt_overwritten (s : State) (slot : Nat) : (s.markRead slot).bt.overwritten = s.bt.overwritten := rfl
@[simp] theorem State.markRead_bt_dumpTime (s : State) (slot : Nat) : (s.markRead slot).bt.dumpTime = s.bt.dumpTime := rfl
@[simp] theorem State.markRead_bt_refused (s : State) (slot : Nat) : (s.markRead slot).bt.refused = s.bt.refused := rfl
@[simp] theorem State.markRead_bt_arraysReady (s : State) (slot : Nat) : (s.markRead slot).bt.arraysReady = s.bt.arraysReady := rfl
@[simp] theorem State.markRead_bt_drained (s : State) (slot : Nat) : (s.markRead slot).bt.drained = s.bt.drained := rfl
@[simp] theorem State.markRead_bt_flagDue (s : State) (slot : Nat) : (s.markRead slot).bt.flagDue = s.bt.flagDue := rfl
@[simp] theorem State.markRead_bt_history (s : State) (slot : Nat) : (s.markRead slot).bt.history = s.bt.history := rfl
@[simp] theorem State.markRead_bt_hbmReady (s : State) (slot : Nat) : (s.markRead slot).bt.hbmReady = s.bt.hbmReady := rfl
@[simp] theorem State.markRead_bt_cert (s : State) (slot : Nat) : (s.markRead slot).bt.cert = s.bt.cert := rfl
@[simp] theorem State.markRead_bt_flashWriteError (s : State) (slot : Nat) : (s.markRead slot).bt.flashWriteError = s.bt.flashWriteError := rfl
@[simp] theorem State.markRead_ev (s : State) (slot : Nat) : (s.markRead slot).ev = s.ev := rfl
@[simp] theorem State.markRead_rg (s : State) (slot : Nat) : (s.markRead slot).rg = s.rg := rfl
@[simp] theorem State.markRead_adcs (s : State) (slot : Nat) : (s.markRead slot).adcs = s.adcs := rfl
@[simp] theorem State.markRead_tp (s : State) (slot : Nat) : (s.markRead slot).tp = s.tp := rfl
@[simp] theorem State.markRead_i3 (s : State) (slot : Nat) : (s.markRead slot).i3 = s.i3 := rfl
@[simp] theorem State.markRead_dp (s : State) (slot : Nat) : (s.markRead slot).dp = s.dp := rfl
@[simp] theorem State.markRead_sv (s : State) (slot : Nat) : (s.markRead slot).sv = s.sv := rfl
@[simp] theorem State.markRead_kv (s : State) (slot : Nat) : (s.markRead slot).kv = s.kv := rfl
@[simp] theorem State.markRead_wt (s : State) (slot : Nat) : (s.markRead slot).wt = s.wt := rfl
@[simp] theorem State.markRead_tl (s : State) (slot : Nat) : (s.markRead slot).tl = s.tl := rfl
@[simp] theorem State.markRead_rd (s : State) (slot : Nat) : (s.markRead slot).rd = s.rd := rfl
@[simp] theorem State.markRead_cl (s : State) (slot : Nat) : (s.markRead slot).cl = s.cl := rfl
@[simp] theorem State.markRead_fb (s : State) (slot : Nat) : (s.markRead slot).fb = s.fb := rfl
@[simp] theorem State.markRead_draw (s : State) (slot : Nat) : (s.markRead slot).draw = s.draw := rfl
@[simp] theorem State.markRead_pending (s : State) (slot : Nat) : (s.markRead slot).pending = s.pending := rfl

@[simp] theorem State.engineRan_tm (s : State) (w : EngineWork) : (s.engineRan w).tm = s.tm := rfl
@[simp] theorem State.engineRan_pw (s : State) (w : EngineWork) : (s.engineRan w).pw = s.pw := rfl
@[simp] theorem State.engineRan_th (s : State) (w : EngineWork) : (s.engineRan w).th = s.th := rfl
@[simp] theorem State.engineRan_bt (s : State) (w : EngineWork) : (s.engineRan w).bt = s.bt := rfl
@[simp] theorem State.engineRan_ev (s : State) (w : EngineWork) : (s.engineRan w).ev = s.ev := rfl
@[simp] theorem State.engineRan_rg (s : State) (w : EngineWork) : (s.engineRan w).rg = s.rg := rfl
@[simp] theorem State.engineRan_adcs (s : State) (w : EngineWork) : (s.engineRan w).adcs = s.adcs := rfl
@[simp] theorem State.engineRan_tp (s : State) (w : EngineWork) : (s.engineRan w).tp = s.tp := rfl
@[simp] theorem State.engineRan_i3 (s : State) (w : EngineWork) : (s.engineRan w).i3 = s.i3 := rfl
@[simp] theorem State.engineRan_dp (s : State) (w : EngineWork) : (s.engineRan w).dp = s.dp := rfl
@[simp] theorem State.engineRan_kv (s : State) (w : EngineWork) : (s.engineRan w).kv = s.kv := rfl
@[simp] theorem State.engineRan_wt (s : State) (w : EngineWork) : (s.engineRan w).wt = s.wt := rfl
@[simp] theorem State.engineRan_tl (s : State) (w : EngineWork) : (s.engineRan w).tl = s.tl := rfl
@[simp] theorem State.engineRan_rd (s : State) (w : EngineWork) : (s.engineRan w).rd = s.rd := rfl
@[simp] theorem State.engineRan_cl (s : State) (w : EngineWork) : (s.engineRan w).cl = s.cl := rfl
@[simp] theorem State.engineRan_fb (s : State) (w : EngineWork) : (s.engineRan w).fb = s.fb := rfl
@[simp] theorem State.engineRan_draw (s : State) (w : EngineWork) : (s.engineRan w).draw = s.draw := rfl
@[simp] theorem State.engineRan_pending (s : State) (w : EngineWork) : (s.engineRan w).pending = s.pending := rfl
@[simp] theorem State.engineRan_sv_windows (s : State) (w : EngineWork) : (s.engineRan w).sv.windows = s.sv.windows := rfl
@[simp] theorem State.engineRan_sv_mem (s : State) (w : EngineWork) : (s.engineRan w).sv.mem = s.sv.mem := rfl
@[simp] theorem State.engineRan_sv_contexts (s : State) (w : EngineWork) : (s.engineRan w).sv.contexts = s.sv.contexts := rfl
@[simp] theorem State.engineRan_sv_queues (s : State) (w : EngineWork) : (s.engineRan w).sv.queues = s.sv.queues := rfl
@[simp] theorem State.engineRan_sv_slots (s : State) (w : EngineWork) : (s.engineRan w).sv.slots = s.sv.slots := rfl
@[simp] theorem State.engineRan_sv_steps (s : State) (w : EngineWork) : (s.engineRan w).sv.steps = s.sv.steps := rfl
@[simp] theorem State.engineRan_sv_nextTag (s : State) (w : EngineWork) : (s.engineRan w).sv.nextTag = s.sv.nextTag := rfl
@[simp] theorem State.engineRan_sv_inputs (s : State) (w : EngineWork) : (s.engineRan w).sv.inputs = s.sv.inputs := rfl
@[simp] theorem State.engineRan_sv_nextInput (s : State) (w : EngineWork) : (s.engineRan w).sv.nextInput = s.sv.nextInput := rfl
@[simp] theorem State.engineRan_sv_storm (s : State) (w : EngineWork) : (s.engineRan w).sv.storm = s.sv.storm := rfl
@[simp] theorem State.engineRan_sv_stormBit (s : State) (w : EngineWork) : (s.engineRan w).sv.stormBit = s.sv.stormBit := rfl
@[simp] theorem State.engineRan_sv_stormFraction (s : State) (w : EngineWork) : (s.engineRan w).sv.stormFraction = s.sv.stormFraction := rfl
@[simp] theorem State.engineRan_sv_stormSince (s : State) (w : EngineWork) : (s.engineRan w).sv.stormSince = s.sv.stormSince := rfl
@[simp] theorem State.engineRan_sv_recalibrated (s : State) (w : EngineWork) : (s.engineRan w).sv.recalibrated = s.sv.recalibrated := rfl
@[simp] theorem State.engineRan_sv_adapters (s : State) (w : EngineWork) : (s.engineRan w).sv.adapters = s.sv.adapters := rfl

end Sys2Proof.Machine
end

