-- ==== Sys2Proof/Laws/Answers.lean ====
section
/-! SUPPORT. What a Tuiven frame that is taken does, and how a firmware command completes: its RESPONSE, its result record, its place
in the history (the terms of Safety.lean). -/

set_option Elab.async false
set_option linter.unusedTactic false
set_option linter.unreachableTactic false
set_option linter.unusedVariables false

namespace Sys2Proof.Machine

/-- A frame that is taken is handled on the state that has heard it. -/
theorem takeChecked_takes {s : State} {h : FrameHdr} {chan type : Nat} {payload : Bytes} {lease lenOk : Bool} {f : State → State} {g : State → Nat → State}
    (ht : s.takes h chan type lease lenOk = true) : s.takeChecked h chan type payload lease lenOk f g = f (s.heard h chan) := by
  unfold State.takes at ht
  simp only [Bool.and_eq_true, beq_iff_eq] at ht
  obtain ⟨⟨a, b⟩, c⟩ := ht
  unfold State.takeChecked
  rw [if_neg (by simp [a])]
  dsimp only
  rw [if_neg (by simp [b])]
  unfold State.judge
  dsimp only
  have e : ((s.frameArrives (chan == 0)).modIntake h.port chan fun q => { q with lastRead := (s.frameArrives (chan == 0)).stamp, signalled := false }) = s.heard h chan := rfl
  rw [e, if_pos c]

/-- A frame that is taken is handled on the state that has heard it. -/
theorem withFrame_takes {s : State} {h : FrameHdr} {chan type : Nat} {payload : Bytes} {lease lenOk : Bool} {f : State → State}
    (ht : s.takes h chan type lease lenOk = true) : s.withFrame h chan type payload lease lenOk f = f (s.heard h chan) := by
  unfold State.withFrame; exact takeChecked_takes ht

/-- A RESPONSE is one more frame sent, and nothing else. -/
theorem respondWith_eq (s : State) (h : FrameHdr) (chan st : Nat) (tail : Bytes) :
    ∃ f ps, s.respondWith h chan st tail = { s with dp := { s.dp with tx := s.dp.tx ++ [f], ports := ps } } ∧ f.type = 6 ∧ f.port = h.port ∧
      f.seq = h.seq ∧ f.tag = h.tag ∧ f.payload = natLe 1 st ++ natLe 3 0 ++ natLe 4 h.seq ++ tail :=
  ⟨_, _, rfl, rfl, rfl, rfl, rfl, rfl⟩

theorem respondWith_answered (s : State) (h : FrameHdr) (chan st : Nat) (tail : Bytes) :
    (s.respondWith h chan st tail).answered h st tail := by
  obtain ⟨f, ps, e, b⟩ := respondWith_eq s h chan st tail
  rw [e]
  exact ⟨f, by simp, b⟩

theorem respond_answered (s : State) (h : FrameHdr) (chan st : Nat) : (s.respond h chan st).answered h st (natLe 8 0) :=
  respondWith_answered s h chan st (natLe 8 0)

/-- A command completes: history, result record where one is asked for, RESPONSE. -/
theorem complete_eq (s : State) (c : CmdFrame) (op : Nat) (r : CmdOut) (x : State) (hx : x = if r.code = 0 then r.state else s) :
    s.complete c op r = State.respondWith { x with
      bt := { x.bt with history := rotate 256 (x.bt.history ++ [(op, r.code)]) }
      sv := { x.sv with mem := (if (c.resultAddr ≠ 0 && x.resultFits c.resultAddr (resultRecord op c.hdr.seq r).length) = true then memWrite x.sv.mem c.resultAddr (resultRecord op c.hdr.seq r) else x.sv.mem) } } c.hdr 0 0 (natLe 2 r.code ++ natLe 2 0 ++ natLe 4 r.detail) := by
  obtain ⟨y, hy⟩ : ∃ y : State, y = { x with bt := { x.bt with history := rotate 256 (x.bt.history ++ [(op, r.code)]) } } := ⟨_, rfl⟩
  have e : s.complete c op r = (if (c.resultAddr ≠ 0 && y.resultFits c.resultAddr (resultRecord op c.hdr.seq r).length) = true then
      y.writeMem c.resultAddr (resultRecord op c.hdr.seq r) else y).respondWith c.hdr 0 0 (natLe 2 r.code ++ natLe 2 0 ++ natLe 4 r.detail) := by
    unfold State.complete; rw [← hx]; dsimp only; rw [← hy]
  rw [e]
  have hf : y.resultFits c.resultAddr (resultRecord op c.hdr.seq r).length = x.resultFits c.resultAddr (resultRecord op c.hdr.seq r).length := by
    unfold State.resultFits State.inWindows; rw [hy]
  rw [hf]
  congr 1
  split
  · unfold State.writeMem; rw [hy]
  · rw [hy]

theorem natLe_length (n v : Nat) : (natLe n v).length = n := by
  induction n generalizing v with
  | zero => rfl
  | succ n ih => unfold natLe; simp [ih]

/-- A result record is 32 bytes and its output. -/
theorem record_length (op seq : Nat) (r : CmdOut) : (resultRecord op seq r).length = 32 + r.out.length := by
  unfold resultRecord
  simp only [List.length_append, natLe_length]

/-- The completion of a command in the terms of the statements. -/
theorem complete_completes (s : State) (c : CmdFrame) (op : Nat) (r : CmdOut) :
    (if r.code = 0 then r.state else s).completes (s.complete c op r) c op r.code r.out := by
  obtain ⟨x, hx⟩ : ∃ x : State, x = if r.code = 0 then r.state else s := ⟨_, rfl⟩
  have e := complete_eq s c op r x hx
  obtain ⟨m, hm⟩ : ∃ m, m = if (c.resultAddr ≠ 0 && x.resultFits c.resultAddr (resultRecord op c.hdr.seq r).length) = true then
    memWrite x.sv.mem c.resultAddr (resultRecord op c.hdr.seq r) else x.sv.mem := ⟨_, rfl⟩
  rw [← hm] at e
  rw [e, ← hx]
  refine ⟨rfl, r.detail, respondWith_answered _ _ _ _ _, ?_⟩
  have e2 (y : State) : (State.respondWith y c.hdr 0 0 (natLe 2 r.code ++ natLe 2 0 ++ natLe 4 r.detail)).sv.mem = y.sv.mem := rfl
  rw [e2, hm, record_length]
  simp only [Bool.and_eq_true, decide_eq_true_eq]
  rfl

/-- A command that is ready runs on the state that has heard its frame. -/
theorem command_ready {s : State} {c : CmdFrame} {k : Command} (h : s.commandReady c k = true) :
    s.command c k = if (k.run (s.heard c.hdr 0) c.args).code = 0 then
        k.post ((s.heard c.hdr 0).complete c k.opcode (k.run (s.heard c.hdr 0) c.args)) c.args
      else (s.heard c.hdr 0).complete c k.opcode (k.run (s.heard c.hdr 0) c.args) := by
  unfold State.commandReady State.commandPasses at h
  simp only [Bool.and_eq_true, Bool.or_eq_true, Bool.not_eq_true', beq_iff_eq, Option.isNone_iff_eq_none, and_assoc] at h
  obtain ⟨h1, h2, h3, h4, h5, h6, h7, h8, h9⟩ := h
  unfold State.command
  rw [takeChecked_takes h1]
  unfold State.carryOut
  rw [if_neg (by rcases h2 with h2 | h2 <;> simp [h2])]
  have hc : (s.heard c.hdr 0).carry c k = k.run (s.heard c.hdr 0) c.args := by
    unfold State.carry
    rw [if_neg (by simp [h3]), h4]
    dsimp only
    have hn : k.needs.any (fun f => !(s.heard c.hdr 0).feature f) = false := by
      cases hk : k.needs with
      | none => rfl
      | some f => rw [hk] at h6; simpa using h6
    rw [if_neg (by rcases h5 with h5 | h5 <;> simp [h5, hn])]
    rw [if_neg (by rcases h7 with h7 | h7 <;> simp [h7]), if_neg (by rw [h8]; decide), if_neg (by simp [h9.1]), h9.2]
  rw [hc]

/-- A command done: it completes with code 0 on the state its meaning gives. -/
theorem command_done {s x : State} {c : CmdFrame} {k : Command} {d : Nat} {out : Bytes} (h : s.commandReady c k = true) (hp :
    ∀ y, k.post y c.args = y)
    (hr : k.run (s.heard c.hdr 0) c.args = ⟨0, d, out, x⟩) : ∃ t, s.command c k = t ∧ x.completes t c k.opcode 0 out := by
  refine ⟨_, rfl, ?_⟩
  rw [command_ready h, hp, ite_self, hr]
  exact complete_completes (s.heard c.hdr 0) c k.opcode ⟨0, d, out, x⟩

/-- A command that fails completes with its code and changes nothing else. -/
theorem command_fails {s x : State} {c : CmdFrame} {k : Command} {code d : Nat} {out : Bytes} (h : s.commandReady c k = true)
    (hr : k.run (s.heard c.hdr 0) c.args = ⟨code, d, out, x⟩) (hc : code ≠ 0) :
    ∃ t, s.command c k = t ∧ (s.heard c.hdr 0).completes t c k.opcode code out := by
  refine ⟨_, rfl, ?_⟩
  rw [command_ready h, hr, if_neg hc]
  have := complete_completes (s.heard c.hdr 0) c k.opcode ⟨code, d, out, x⟩
  rw [if_neg hc] at this
  exact this

/-- A command with something after its RESPONSE. -/
theorem command_posts {s x : State} {c : CmdFrame} {k : Command} {d : Nat} {out : Bytes} (h : s.commandReady c k = true)
    (hr : k.run (s.heard c.hdr 0) c.args = ⟨0, d, out, x⟩) : ∃ t, s.command c k = k.post t c.args ∧ x.completes t c k.opcode 0 out := by
  refine ⟨(s.heard c.hdr 0).complete c k.opcode ⟨0, d, out, x⟩, ?_, ?_⟩
  · rw [command_ready h, hr]; rfl
  · exact complete_completes (s.heard c.hdr 0) c k.opcode ⟨0, d, out, x⟩

/-- A command done completes with code 0. -/
theorem done_at {s x : State} {c : CmdFrame} {k : Command} (h : s.commandReady c k = true) (hp : ∀ y, k.post y c.args = y)
    (hr : k.run (s.heard c.hdr 0) c.args = x.done) : x.completes (s.command c k) c k.opcode 0 := by
  obtain ⟨t, e, ht⟩ := command_done h hp hr
  rw [e]; exact ht

/-- A command that fails completes with its code. -/
theorem fails_at {s x : State} {c : CmdFrame} {k : Command} {code : Nat} (h : s.commandReady c k = true)
    (hr : k.run (s.heard c.hdr 0) c.args = x.fails code) (hc : code ≠ 0) :
    (s.heard c.hdr 0).completes (s.command c k) c k.opcode code := by
  obtain ⟨t, e, ht⟩ := command_fails h hr hc
  rw [e]; exact ht

theorem ite_intro {c A B : Prop} [Decidable c] (h1 : c → A) (h2 : ¬ c → B) : if c then A else B := by
  by_cases h : c
  · rw [if_pos h]; exact h1 h
  · rw [if_neg h]; exact h2 h

/-- A command with output, done. -/
theorem outputs_at {s x : State} {c : CmdFrame} {k : Command} {out : Bytes} (h : s.commandReady c k = true) (hp : ∀ y, k.post y c.args = y)
    (hr : k.run (s.heard c.hdr 0) c.args = x.doneWith out) : x.completes (s.command c k) c k.opcode 0 out := by
  obtain ⟨t, e, ht⟩ := command_done h hp hr
  rw [e]; exact ht

/-- A frame taken has a good trailer. -/
theorem takes_crc {s : State} {h : FrameHdr} {chan type : Nat} {lease lenOk : Bool} (ht :
    s.takes h chan type lease lenOk = true) : h.crcOk = true := by
  unfold State.takes at ht
  simp only [Bool.and_eq_true, beq_iff_eq] at ht
  have hc := ht.2
  unfold State.frameStatus at hc
  by_contra hn
  have hb : h.crcOk = false := by simpa using hn
  rw [hb] at hc
  split at hc
  · simp at hc
  split at hc
  · simp at hc
  split at hc
  · simp at hc
  split at hc
  · simp at hc
  · rename_i hx; simp at hx

/-- A frame taken came over a port that hears, while firmware runs. -/
theorem takes_runs {s : State} {h : FrameHdr} {chan type : Nat} {lease lenOk : Bool} (ht : s.takes h chan type lease lenOk = true) :
    s.portHears h.port = true ∧ (s.frameArrives (chan == 0)).firmwareRuns = true := by
  unfold State.takes at ht
  simp only [Bool.and_eq_true, beq_iff_eq] at ht
  exact ht.1

/-- A frame sent changes the Dispatch block alone. -/
theorem sendFrame_eq (s : State) (f : TxFrame) :
    ∃ ps, s.sendFrame f = { s with dp := { s.dp with tx := s.dp.tx ++ [f], ports := ps } } := ⟨_, rfl⟩

end Sys2Proof.Machine
end

