-- ==== Sys2Proof/Laws/Frames.lean ====
section
/-! SUPPORT. Which blocks of the state an operation leaves as they are. `Only K s t` says that `t` differs from `s` in no block but
those of the mask `K` (Part.bit numbers them); the files Laws/Frames<Part>.lean hold one lemma for each operation of the file
Machine/<Part>.lean and for each meaning, with its mask. -/

set_option Elab.async false
set_option linter.unusedTactic false
set_option linter.unreachableTactic false
set_option linter.unusedVariables false

namespace Sys2Proof.Machine

/-- The mask `K` has all blocks of the mask `m`. -/
def Needs (m K : Nat) : Prop := ∀ i, m.testBit i = true → K.testBit i = true

/-- `t` differs from `s` in no block outside the mask `K`. -/
def Only (K : Nat) (s t : State) : Prop := ∀ b : Part, K.testBit b.bit = false → b.same s t

/-- Every next state of an outcome differs from `s` in no block outside the mask. -/
def KeptO (K : Nat) (s : State) (o : Host.Outcome State Fault Refusal) : Prop := ∀ t, o = .next t → Only K s t

theorem Needs.refl (m : Nat) : Needs m m := fun _ h => h

theorem Needs.sub {m m' K : Nat} (h : Needs m K) (e : Nat.land m' m = m') : Needs m' K := fun i hi => h i (by
  have g : (m' &&& m).testBit i = true := by rw [show m' &&& m = m' from e]; exact hi
  rw [Nat.testBit_and] at g
  exact (Bool.and_eq_true_iff.1 g).2)

variable {K : Nat}

theorem Only.refl (s : State) : Only K s s := fun b _ => by cases b <;> rfl

theorem Part.same_trans {s t u : State} (b : Part) (h : b.same s t) (g : b.same t u) : b.same s u := by
  cases b <;> exact Eq.trans g h

theorem Only.trans {s t u : State} (h : Only K s t) (g : Only K t u) : Only K s u := fun b hb => b.same_trans (h b hb) (g b hb)

theorem Only.ifs {s a b : State} {c : Prop} {d : Decidable c} (ha : c → Only K s a) (hb : ¬ c → Only K s b) :
    Only K s (@ite State c d a b) := by
  by_cases h : c
  · rw [if_pos h]; exact ha h
  · rw [if_neg h]; exact hb h

theorem Only.cond {s a b : State} {c : Prop} {d : Decidable c} (ha : Only K s a) (hb : Only K s b) : Only K s (@ite State c d a b) :=
  Only.ifs (fun _ => ha) fun _ => hb

theorem KeptO.next {s t : State} (h : Only K s t) : KeptO K s (.next t) := fun _ e => by cases e; exact h

theorem KeptO.fault {s : State} (f : Fault) : KeptO K s (.fault f) := fun _ e => by cases e

theorem KeptO.ifs {s : State} {a b : Host.Outcome State Fault Refusal} {c : Prop} {d : Decidable c} (ha : c → KeptO K s a)
    (hb : ¬ c → KeptO K s b) : KeptO K s (@ite _ c d a b) := by
  by_cases h : c
  · rw [if_pos h]; exact ha h
  · rw [if_neg h]; exact hb h

theorem KeptO.cond {s : State} {a b : Host.Outcome State Fault Refusal} {c : Prop} {d : Decidable c} (ha : KeptO K s a)
    (hb : KeptO K s b) : KeptO K s (@ite _ c d a b) :=
  KeptO.ifs (fun _ => ha) fun _ => hb

theorem Only.foldl {α : Type} {s t : State} {f : State → α → State} {l : List α} (h : Only K s t)
    (hf : ∀ x a, Only K s x → Only K s (f x a)) : Only K s (l.foldl f t) := by
  induction l generalizing t with
  | nil => exact h
  | cons a l ih => exact ih (hf t a h)

theorem foldl_fst_only {α β : Type} {s : State} {a : State × β} {f : State × β → α → State × β} {l : List α} (h : Only K s a.1)
    (hf : ∀ x i, Only K s x.1 → Only K s (f x i).1) : Only K s (l.foldl f a).1 := by
  induction l generalizing a with
  | nil => exact h
  | cons i l ih => exact ih (hf a i h)

theorem foldl_option_only {α : Type} {s0 : State} {s : Option State} {f : Option State → α → Option State} {l : List α}
    (h : ∀ t, s = some t → Only K s0 t) (hf : ∀ x i, (∀ t, x = some t → Only K s0 t) → ∀ t, f x i = some t → Only K s0 t) :
    ∀ t, l.foldl f s = some t → Only K s0 t := by
  induction l generalizing s with
  | nil => exact h
  | cons i l ih => exact ih (hf s i h)

/-- An update changes what it does not take over from `s`. -/
theorem Only.mk' {s0 s : State} {tm : Clocks} {pw : Power} {th : Thermal} {bt : Boot} {ev : Events} {rg : Regs} {adcs : List Adc}
    {tp : Tap} {i3 : I3c} {dp : Dispatch} {sv : Serving} {kv : Kv} {wt : Weights} {tl : Tiles} {rd : Reductions} {cl : Calib}
    {fb : Fabric} {draw : Nat} (h : Only K s0 s)
    (h0 : tm = s.tm ∨ Needs 1 K :=
      by first | exact .inr (Needs.sub (by assumption) (by decide)) | exact .inl rfl)
    (h1 : pw = s.pw ∨ Needs 2 K :=
      by first | exact .inr (Needs.sub (by assumption) (by decide)) | exact .inl rfl)
    (h2 : th = s.th ∨ Needs 4 K :=
      by first | exact .inr (Needs.sub (by assumption) (by decide)) | exact .inl rfl)
    (h3 : bt = s.bt ∨ Needs 8 K :=
      by first | exact .inr (Needs.sub (by assumption) (by decide)) | exact .inl rfl)
    (h4 : ev = s.ev ∨ Needs 16 K :=
      by first | exact .inr (Needs.sub (by assumption) (by decide)) | exact .inl rfl)
    (h5 : rg = s.rg ∨ Needs 32 K :=
      by first | exact .inr (Needs.sub (by assumption) (by decide)) | exact .inl rfl)
    (h6 : adcs = s.adcs ∨ Needs 64 K :=
      by first | exact .inr (Needs.sub (by assumption) (by decide)) | exact .inl rfl)
    (h7 : tp = s.tp ∨ Needs 128 K :=
      by first | exact .inr (Needs.sub (by assumption) (by decide)) | exact .inl rfl)
    (h8 : i3 = s.i3 ∨ Needs 256 K :=
      by first | exact .inr (Needs.sub (by assumption) (by decide)) | exact .inl rfl)
    (h9 : dp = s.dp ∨ Needs 512 K :=
      by first | exact .inr (Needs.sub (by assumption) (by decide)) | exact .inl rfl)
    (h10 : { sv with mem := [] } = { s.sv with mem := [] } ∨ Needs 1024 K :=
      by first | exact .inr (Needs.sub (by assumption) (by decide)) | exact .inl rfl)
    (h11 : sv.mem = s.sv.mem ∨ Needs 2048 K :=
      by first | exact .inr (Needs.sub (by assumption) (by decide)) | exact .inl rfl)
    (h12 : kv = s.kv ∨ Needs 4096 K :=
      by first | exact .inr (Needs.sub (by assumption) (by decide)) | exact .inl rfl)
    (h13 : wt = s.wt ∨ Needs 8192 K :=
      by first | exact .inr (Needs.sub (by assumption) (by decide)) | exact .inl rfl)
    (h14 : tl = s.tl ∨ Needs 16384 K :=
      by first | exact .inr (Needs.sub (by assumption) (by decide)) | exact .inl rfl)
    (h15 : rd = s.rd ∨ Needs 32768 K :=
      by first | exact .inr (Needs.sub (by assumption) (by decide)) | exact .inl rfl)
    (h16 : cl = s.cl ∨ Needs 65536 K :=
      by first | exact .inr (Needs.sub (by assumption) (by decide)) | exact .inl rfl)
    (h17 : fb = s.fb ∨ Needs 131072 K :=
      by first | exact .inr (Needs.sub (by assumption) (by decide)) | exact .inl rfl)
    (h18 : draw = s.draw ∨ Needs 262144 K :=
      by first | exact .inr (Needs.sub (by assumption) (by decide)) | exact .inl rfl) :
    Only K s0 ⟨tm, pw, th, bt, ev, rg, adcs, tp, i3, dp, sv, kv, wt, tl, rd, cl, fb, draw, s.pending⟩ := fun b hb => by
  have k : ∀ i m, m.testBit i = true → K.testBit i = false → ¬ Needs m K := fun i m hm hi hn => by
    have := hn i hm; rw [hi] at this; cases this
  cases b
  · exact Eq.trans (h0.resolve_right (k 0 _ (by decide) hb)) (h .clocks hb)
  · exact Eq.trans (h1.resolve_right (k 1 _ (by decide) hb)) (h .power hb)
  · exact Eq.trans (h2.resolve_right (k 2 _ (by decide) hb)) (h .thermal hb)
  · exact Eq.trans (h3.resolve_right (k 3 _ (by decide) hb)) (h .boot hb)
  · exact Eq.trans (h4.resolve_right (k 4 _ (by decide) hb)) (h .events hb)
  · exact Eq.trans (h5.resolve_right (k 5 _ (by decide) hb)) (h .registers hb)
  · exact Eq.trans (h6.resolve_right (k 6 _ (by decide) hb)) (h .surveyAdcs hb)
  · exact Eq.trans (h7.resolve_right (k 7 _ (by decide) hb)) (h .tap hb)
  · exact Eq.trans (h8.resolve_right (k 8 _ (by decide) hb)) (h .i3c hb)
  · exact Eq.trans (h9.resolve_right (k 9 _ (by decide) hb)) (h .dispatch hb)
  · exact Eq.trans (h10.resolve_right (k 10 _ (by decide) hb)) (h .serving hb)
  · exact Eq.trans (h11.resolve_right (k 11 _ (by decide) hb)) (h .memory hb)
  · exact Eq.trans (h12.resolve_right (k 12 _ (by decide) hb)) (h .pages hb)
  · exact Eq.trans (h13.resolve_right (k 13 _ (by decide) hb)) (h .weights hb)
  · exact Eq.trans (h14.resolve_right (k 14 _ (by decide) hb)) (h .tiles hb)
  · exact Eq.trans (h15.resolve_right (k 15 _ (by decide) hb)) (h .reductions hb)
  · exact Eq.trans (h16.resolve_right (k 16 _ (by decide) hb)) (h .calibration hb)
  · exact Eq.trans (h17.resolve_right (k 17 _ (by decide) hb)) (h .fabric hb)
  · exact Eq.trans (h18.resolve_right (k 18 _ (by decide) hb)) (h .draws hb)

end Sys2Proof.Machine
end

