-- ==== Sys2Proof/Laws/FramesTime.lean ====
section
/-! SUPPORT. What the operations and meanings of Machine/Time.lean leave as it is: the blocks outside their mask. -/

set_option Elab.async false
set_option linter.unusedTactic false
set_option linter.unreachableTactic false
set_option linter.unusedVariables false

namespace Sys2Proof.Machine

variable {K : Nat}

/-- The clock moves on by `n` ticks. -/
theorem Only.forward {s0 s : State} (hk : Only K s0 s) (n : Nat) (hK : Needs 1 K := by exact Needs.sub (by assumption) (by decide)) :
    Only K s0 { s with tm := s.tm.forward n } := Only.mk' hk

theorem State.advanceTo_only {s0 s : State} {t : Nat} (hk : Only K s0 s) (hK : Needs 1 K := by exact Needs.sub (by assumption) (by decide)) : Only K s0 (s.advanceTo t) :=
  Only.ifs (fun _ => hk.forward _) fun _ => hk

theorem State.counterTo_only {s0 s : State} {t : Nat} (hk : Only K s0 s) (hK : Needs 1 K := by exact Needs.sub (by assumption) (by decide)) : Only K s0 (s.counterTo t) :=
  Only.ifs (fun _ => Only.mk' hk) fun _ => hk

theorem State.modClock_only {s0 s : State} {f : Clocks → Clocks} (hk : Only K s0 s) (hK : Needs 1 K := by exact Needs.sub (by assumption) (by decide)) : Only K s0 (s.modClock f) := by
  unfold State.modClock
  exact Only.mk' hk

end Sys2Proof.Machine
end

