-- ==== Sys2Proof/Laws/FramesQuery.lean ====
section
/-! SUPPORT. What the operations and meanings of Machine/Query.lean leave as it is: the blocks outside their mask. -/

set_option Elab.async false
set_option linter.unusedTactic false
set_option linter.unreachableTactic false
set_option linter.unusedVariables false

namespace Sys2Proof.Machine

variable {K : Nat}

theorem State.nextDraw_only {s0 s : State} (hk : Only K s0 s)
    (hK : Needs 262144 K := by exact Needs.sub (by assumption) (by decide)) : Only K s0 (State.nextDraw s).2 := by
  unfold State.nextDraw
  with_reducible repeat' first
    | assumption | exact Needs.sub ‹_› (by decide) | fail_if_no_progress refine Only.mk' ?_ | split | (dsimp only; split)

theorem State.setTile_only {s0 s : State} {x : Tile} (hk : Only K s0 s)
    (hK : Needs 16384 K := by exact Needs.sub (by assumption) (by decide)) : Only K s0 (State.setTile s x) := by
  unfold State.setTile
  with_reducible repeat' first
    | assumption | exact Needs.sub ‹_› (by decide) | fail_if_no_progress refine Only.mk' ?_

theorem State.modTile_only {s0 s : State} {t : TileId} {f : Tile → Tile} (hk : Only K s0 s)
    (hK : Needs 16384 K := by exact Needs.sub (by assumption) (by decide)) : Only K s0 (State.modTile s t f) := by
  unfold State.modTile
  with_reducible repeat' first
    | assumption | apply State.setTile_only | exact Needs.sub ‹_› (by decide)

theorem State.setRegion_only {s0 s : State} {r : Region} (hk : Only K s0 s)
    (hK : Needs 16384 K := by exact Needs.sub (by assumption) (by decide)) : Only K s0 (State.setRegion s r) := by
  unfold State.setRegion
  with_reducible repeat' first
    | assumption | exact Needs.sub ‹_› (by decide) | fail_if_no_progress refine Only.mk' ?_

theorem State.modRegion_only {s0 s : State} {die : Nat} {unit : Nat} {f : Region → Region} (hk : Only K s0 s)
    (hK : Needs 16384 K := by exact Needs.sub (by assumption) (by decide)) : Only K s0 (State.modRegion s die unit f) := by
  unfold State.modRegion
  with_reducible repeat' first
    | assumption | apply State.setRegion_only | exact Needs.sub ‹_› (by decide)

theorem State.setDir_only {s0 s : State} {a : ArrId} {d : DirEntry} (hk : Only K s0 s)
    (hK : Needs 8192 K := by exact Needs.sub (by assumption) (by decide)) : Only K s0 (State.setDir s a d) := by
  unfold State.setDir
  with_reducible repeat' first
    | assumption | exact Needs.sub ‹_› (by decide) | fail_if_no_progress refine Only.mk' ?_

theorem State.modDir_only {s0 s : State} {a : ArrId} {f : DirEntry → DirEntry} (hk : Only K s0 s)
    (hK : Needs 8192 K := by exact Needs.sub (by assumption) (by decide)) : Only K s0 (State.modDir s a f) := by
  unfold State.modDir
  with_reducible repeat' first
    | assumption | apply State.setDir_only | exact Needs.sub ‹_› (by decide)

theorem State.setDrift_only {s0 s : State} {a : ArrId} {d : Drift} (hk : Only K s0 s)
    (hK : Needs 8192 K := by exact Needs.sub (by assumption) (by decide)) : Only K s0 (State.setDrift s a d) := by
  unfold State.setDrift
  with_reducible repeat' first
    | assumption | exact Needs.sub ‹_› (by decide) | fail_if_no_progress refine Only.mk' ?_

theorem State.setFranking_only {s0 s : State} {a : ArrId} {f : Franking} (hk : Only K s0 s)
    (hK : Needs 8192 K := by exact Needs.sub (by assumption) (by decide)) : Only K s0 (State.setFranking s a f) := by
  unfold State.setFranking
  with_reducible repeat' first
    | assumption | exact Needs.sub ‹_› (by decide) | fail_if_no_progress refine Only.mk' ?_

theorem State.modFranking_only {s0 s : State} {a : ArrId} {f : Franking → Franking} (hk : Only K s0 s)
    (hK : Needs 8192 K := by exact Needs.sub (by assumption) (by decide)) : Only K s0 (State.modFranking s a f) := by
  unfold State.modFranking
  with_reducible repeat' first
    | assumption | apply State.setFranking_only | exact Needs.sub ‹_› (by decide)

theorem State.setSlot_only {s0 s : State} {x : Slot} (hk : Only K s0 s)
    (hK : Needs 1024 K := by exact Needs.sub (by assumption) (by decide)) : Only K s0 (State.setSlot s x) := by
  unfold State.setSlot
  with_reducible repeat' first
    | assumption | exact Needs.sub ‹_› (by decide) | fail_if_no_progress refine Only.mk' ?_

theorem State.modSlot_only {s0 s : State} {n : Nat} {f : Slot → Slot} (hk : Only K s0 s)
    (hK : Needs 1024 K := by exact Needs.sub (by assumption) (by decide)) : Only K s0 (State.modSlot s n f) := by
  unfold State.modSlot
  with_reducible repeat' first
    | assumption | exact Needs.sub ‹_› (by decide) | apply Only.cond | fail_if_no_progress refine Only.mk' ?_

theorem State.setContext_only {s0 s : State} {x : Context} (hk : Only K s0 s)
    (hK : Needs 1024 K := by exact Needs.sub (by assumption) (by decide)) : Only K s0 (State.setContext s x) := by
  unfold State.setContext
  with_reducible repeat' first
    | assumption | exact Needs.sub ‹_› (by decide) | fail_if_no_progress refine Only.mk' ?_

theorem State.setQueue_only {s0 s : State} {x : Queue} (hk : Only K s0 s)
    (hK : Needs 1024 K := by exact Needs.sub (by assumption) (by decide)) : Only K s0 (State.setQueue s x) := by
  unfold State.setQueue
  with_reducible repeat' first
    | assumption | exact Needs.sub ‹_› (by decide) | fail_if_no_progress refine Only.mk' ?_

theorem State.modQueue_only {s0 s : State} {n : Nat} {f : Queue → Queue} (hk : Only K s0 s)
    (hK : Needs 1024 K := by exact Needs.sub (by assumption) (by decide)) : Only K s0 (State.modQueue s n f) := by
  unfold State.modQueue
  with_reducible repeat' first
    | assumption | exact Needs.sub ‹_› (by decide) | apply Only.cond | fail_if_no_progress refine Only.mk' ?_

theorem State.modStep_only {s0 s : State} {tag : Nat} {f : OpenStep → OpenStep} (hk : Only K s0 s)
    (hK : Needs 1024 K := by exact Needs.sub (by assumption) (by decide)) : Only K s0 (State.modStep s tag f) := by
  unfold State.modStep
  with_reducible repeat' first
    | assumption | exact Needs.sub ‹_› (by decide) | apply Only.cond | fail_if_no_progress refine Only.mk' ?_

theorem State.modPort_only {s0 s : State} {k : Nat} {f : CourierPort → CourierPort} (hk : Only K s0 s)
    (hK : Needs 131072 K := by exact Needs.sub (by assumption) (by decide)) : Only K s0 (State.modPort s k f) := by
  unfold State.modPort
  with_reducible repeat' first
    | assumption | exact Needs.sub ‹_› (by decide) | fail_if_no_progress refine Only.mk' ?_

theorem State.modDsp_only {s0 s : State} {p : Nat} {f : DspPort → DspPort} (hk : Only K s0 s)
    (hK : Needs 512 K := by exact Needs.sub (by assumption) (by decide)) : Only K s0 (State.modDsp s p f) := by
  unfold State.modDsp
  with_reducible repeat' first
    | assumption | exact Needs.sub ‹_› (by decide) | fail_if_no_progress refine Only.mk' ?_

end Sys2Proof.Machine
end

