-- ==== Sys2Proof/Laws/FramesRegs.lean ====
section
/-! SUPPORT. What the operations and meanings of Machine/Regs.lean leave as it is: the blocks outside their mask. -/

set_option Elab.async false
set_option linter.unusedTactic false
set_option linter.unreachableTactic false
set_option linter.unusedVariables false

namespace Sys2Proof.Machine

variable {K : Nat}

theorem State.store_only {s0 s : State} {a : Nat} {v : Nat} (hk : Only K s0 s)
    (hK : Needs 32 K := by exact Needs.sub (by assumption) (by decide)) : Only K s0 (State.store s a v) := by
  unfold State.store
  with_reducible repeat' first
    | assumption | exact Needs.sub ‹_› (by decide) | fail_if_no_progress refine Only.mk' ?_

end Sys2Proof.Machine
end

