-- ==== Sys2Proof/Laws/FramesOps.lean ====
section
/-! SUPPORT. What the operations and meanings of Machine/Ops.lean leave as it is: the blocks outside their mask. -/

set_option Elab.async false
set_option linter.unusedTactic false
set_option linter.unreachableTactic false
set_option linter.unusedVariables false

namespace Sys2Proof.Machine

variable {K : Nat}

theorem State.writeMem_only {s0 s : State} {a : Nat} {b : Bytes} (hk : Only K s0 s) (hK : Needs 3072 K := by exact Needs.sub (by assumption) (by decide)) : Only K s0 (s.writeMem a b) := by
  unfold State.writeMem
  exact Only.mk' hk

theorem State.raise_only {s0 s : State} {code source : Nat} {detail : List Nat} (hk : Only K s0 s) (hK : Needs 16 K := by exact Needs.sub (by assumption) (by decide)) : Only K s0 (s.raise code source detail) := by
  unfold State.raise
  exact Only.mk' hk

theorem State.sendFrame_only {s0 s : State} {f : TxFrame} (hk : Only K s0 s)
    (hK : Needs 512 K := by exact Needs.sub (by assumption) (by decide)) : Only K s0 (State.sendFrame s f) := by
  unfold State.sendFrame
  with_reducible repeat' first
    | assumption | exact Needs.sub ‹_› (by decide) | apply Only.cond | split | (dsimp only; split) | fail_if_no_progress refine Only.mk' ?_

theorem State.respondWith_only {s0 s : State} {h : FrameHdr} {chan : Nat} {status : Nat} {tail : Bytes} (hk : Only K s0 s)
    (hK : Needs 512 K := by exact Needs.sub (by assumption) (by decide)) : Only K s0 (State.respondWith s h chan status tail) := by
  unfold State.respondWith
  with_reducible repeat' first
    | assumption | apply State.sendFrame_only | exact Needs.sub ‹_› (by decide)

theorem State.respond_only {s0 s : State} {h : FrameHdr} {chan : Nat} {status : Nat} (hk : Only K s0 s)
    (hK : Needs 512 K := by exact Needs.sub (by assumption) (by decide)) : Only K s0 (State.respond s h chan status) := by
  unfold State.respond
  with_reducible repeat' first
    | assumption | apply State.respondWith_only | exact Needs.sub ‹_› (by decide)

theorem State.answerData_only {s0 s : State} {h : FrameHdr} {chan : Nat} {data : Bytes} (hk : Only K s0 s)
    (hK : Needs 512 K := by exact Needs.sub (by assumption) (by decide)) : Only K s0 (State.answerData s h chan data) := by
  unfold State.answerData
  with_reducible repeat' first
    | assumption | apply State.sendFrame_only | exact Needs.sub ‹_› (by decide)

theorem State.toEventRing_only {s0 s : State} {e : Async} (hk : Only K s0 s) (hK : Needs 3088 K := by exact Needs.sub (by assumption) (by decide)) : Only K s0 (s.toEventRing e) := by
  unfold State.toEventRing
  split
  · exact hk
  · exact Only.mk' (State.writeMem_only hk)

theorem State.writeAsync_only {s0 s : State} {e : Async} (hk : Only K s0 s) (hK : Needs 3088 K := by exact Needs.sub (by assumption) (by decide)) : Only K s0 (s.writeAsync e) := by
  unfold State.writeAsync
  exact Only.ifs (fun _ => Only.mk' hk) fun _ => State.toEventRing_only hk

theorem State.sendEvent_only {s0 s : State} {e : Async} (hk : Only K s0 s)
    (hK : Needs 512 K := by exact Needs.sub (by assumption) (by decide)) : Only K s0 (State.sendEvent s e) := by
  unfold State.sendEvent
  with_reducible repeat' first
    | assumption | apply State.sendFrame_only | exact Needs.sub ‹_› (by decide) | split | (dsimp only; split)

theorem State.deliverAsync_only {s0 s : State} {e : Async} (hk : Only K s0 s)
    (hK : Needs 3600 K := by exact Needs.sub (by assumption) (by decide)) : Only K s0 (State.deliverAsync s e) := by
  unfold State.deliverAsync
  with_reducible repeat' first
    | assumption | apply State.writeAsync_only | apply State.sendEvent_only | exact Needs.sub ‹_› (by decide) | apply Only.cond

theorem State.async_only {s0 s : State} {code : Nat} {detail : Bytes} (hk : Only K s0 s)
    (hK : Needs 3600 K := by exact Needs.sub (by assumption) (by decide)) : Only K s0 (State.async s code detail) := by
  unfold State.async
  with_reducible repeat' first
    | assumption | apply State.deliverAsync_only | exact Needs.sub ‹_› (by decide) | apply Only.cond
    | fail_if_no_progress refine Only.mk' ?_

theorem State.sendCourier_only {s0 s : State} {c : CourierTx} (hk : Only K s0 s)
    (hK : Needs 131072 K := by exact Needs.sub (by assumption) (by decide)) : Only K s0 (State.sendCourier s c) := by
  unfold State.sendCourier
  with_reducible repeat' first
    | assumption | exact Needs.sub ‹_› (by decide) | apply Only.cond | split | (dsimp only; split) | fail_if_no_progress refine Only.mk' ?_

theorem State.countDrop_only {s0 s : State} {f : Regs → Regs} (hk : Only K s0 s) (hK : Needs 32 K := by exact Needs.sub (by assumption) (by decide)) : Only K s0 (s.countDrop f) := by
  unfold State.countDrop
  exact Only.mk' hk

theorem State.sendRouted_only {s0 s : State} {h : CourierHdr} {payload : Bytes} (hk : Only K s0 s) (hK : Needs 131104 K := by exact Needs.sub (by assumption) (by decide)) : Only K s0 (s.sendRouted h payload) := by
  unfold State.sendRouted
  split
  · exact State.sendCourier_only (Only.ifs (fun _ => Only.mk' hk) fun _ => hk)
  · exact State.countDrop_only hk

theorem State.originate_only {s0 s : State} {type : Nat} {dest : Nat} {job : Nat} {payload : Bytes} (hk : Only K s0 s)
    (hK : Needs 131104 K := by exact Needs.sub (by assumption) (by decide)) : Only K s0 (State.originate s type dest job payload) := by
  unfold State.originate
  with_reducible repeat' first
    | assumption | apply State.sendRouted_only | exact Needs.sub ‹_› (by decide)

theorem State.reportAbort_only {s0 s : State} {job : Nat} {reason : Nat} {module : Nat} (hk : Only K s0 s)
    (hK : Needs 3600 K := by exact Needs.sub (by assumption) (by decide)) : Only K s0 (State.reportAbort s job reason module) := by
  unfold State.reportAbort
  with_reducible repeat' first
    | assumption | apply State.async_only | exact Needs.sub ‹_› (by decide) | apply Only.cond | split | (dsimp only; split)
    | fail_if_no_progress refine Only.mk' ?_

theorem State.notifyJob_only {s0 s : State} {job : Nat} {kind : Nat} {reason : Nat} {module : Nat} (hk : Only K s0 s)
    (hK : Needs 131104 K := by exact Needs.sub (by assumption) (by decide)) : Only K s0 (State.notifyJob s job kind reason module) := by
  unfold State.notifyJob
  with_reducible repeat' first
    | assumption | apply State.originate_only | exact Needs.sub ‹_› (by decide) | apply Only.cond | refine Only.foldl ?_ fun _ _ _ => ?_
    | split | (dsimp only; split) | fail_if_no_progress refine Only.mk' ?_

end Sys2Proof.Machine
end

