-- ==== Sys2Proof/Laws/FramesKv.lean ====
section
/-! SUPPORT. What the operations and meanings of Machine/Kv.lean leave as it is: the blocks outside their mask. -/

set_option Elab.async false
set_option linter.unusedTactic false
set_option linter.unreachableTactic false
set_option linter.unusedVariables false

namespace Sys2Proof.Machine

variable {K : Nat}

theorem State.takeFrame_only {s0 s : State} {stack size : Nat} {o : FrameOwner} (hk : Only K s0 s) {t : FrameId × State}
    (e : s.takeFrame stack size o = some t)
    (hK : Needs 4096 K := by exact Needs.sub (by assumption) (by decide)) : Only K s0 t.2 := by
  unfold State.takeFrame at e
  dsimp only at e
  split at e
  · split at e
    · cases e; exact Only.mk' hk
    · cases e
  · split at e
    · cases e
    · split at e
      · cases e; exact Only.mk' hk
      · cases e

theorem State.newFrame_only {s0 s : State} {slot layer size : Nat} {o : FrameOwner} (hk : Only K s0 s) {t : FrameId × State}
    (e : s.newFrame slot layer size o = some t)
    (hK : Needs 4096 K := by exact Needs.sub (by assumption) (by decide)) : Only K s0 t.2 := by
  unfold State.newFrame at e
  split at e
  · exact State.takeFrame_only hk e
  · cases e

theorem State.freeFrame_only {s0 s : State} {id : FrameId} (hk : Only K s0 s)
    (hK : Needs 4096 K := by exact Needs.sub (by assumption) (by decide)) : Only K s0 (State.freeFrame s id) := by
  unfold State.freeFrame
  with_reducible repeat' first
    | assumption | exact Needs.sub ‹_› (by decide) | fail_if_no_progress refine Only.mk' ?_

theorem State.modFrame_only {s0 s : State} {id : FrameId} {g : Frame → Frame} (hk : Only K s0 s)
    (hK : Needs 4096 K := by exact Needs.sub (by assumption) (by decide)) : Only K s0 (State.modFrame s id g) := by
  unfold State.modFrame
  with_reducible repeat' first
    | assumption | exact Needs.sub ‹_› (by decide) | apply Only.cond | fail_if_no_progress refine Only.mk' ?_

theorem State.setPage_only {s0 s : State} {p : PageEntry} (hk : Only K s0 s)
    (hK : Needs 4096 K := by exact Needs.sub (by assumption) (by decide)) : Only K s0 (State.setPage s p) := by
  unfold State.setPage
  with_reducible repeat' first
    | assumption | exact Needs.sub ‹_› (by decide) | fail_if_no_progress refine Only.mk' ?_

theorem State.clearPages_only {s0 s : State} {f : PageEntry → Bool} (hk : Only K s0 s)
    (hK : Needs 4096 K := by exact Needs.sub (by assumption) (by decide)) : Only K s0 (State.clearPages s f) := by
  unfold State.clearPages
  with_reducible repeat' first
    | assumption | exact Needs.sub ‹_› (by decide) | fail_if_no_progress refine Only.mk' ?_

theorem State.freeFramesWhere_only {s0 s : State} {f : Frame → Bool} (hk : Only K s0 s)
    (hK : Needs 4096 K := by exact Needs.sub (by assumption) (by decide)) : Only K s0 (State.freeFramesWhere s f) := by
  unfold State.freeFramesWhere
  with_reducible repeat' first
    | assumption | apply State.clearPages_only | apply State.freeFrame_only | exact Needs.sub ‹_› (by decide)
    | refine Only.foldl ?_ fun _ _ _ => ?_

theorem State.releaseReserved_only {s0 s : State} {tag : Nat} {slot : Nat} (hk : Only K s0 s)
    (hK : Needs 4096 K := by exact Needs.sub (by assumption) (by decide)) : Only K s0 (State.releaseReserved s tag slot) := by
  unfold State.releaseReserved
  with_reducible repeat' first
    | assumption | apply State.freeFramesWhere_only | exact Needs.sub ‹_› (by decide)

theorem State.reservePages_only {s0 s : State} {tag slot : Nat} {ps : List PageNeed} (hk : Only K s0 s) {t : State}
    (e : s.reservePages tag slot ps = some t)
    (hK : Needs 4096 K := by exact Needs.sub (by assumption) (by decide)) : Only K s0 t := by
  induction ps generalizing s with
  | nil => cases e; exact hk
  | cons p ps ih =>
    obtain ⟨d, l, n, size, shape⟩ := p
    unfold State.reservePages at e
    split at e
    · exact ih hk e
    · split at e
      · rename_i id s1 hn
        exact ih (State.setPage_only (State.newFrame_only hk hn)) e
      · cases e

theorem State.putGroup_only {s0 s : State} {slot : Nat} {draft : Bool} {layer : Nat} {pos : Nat} {g : KvGroup} (hk : Only K s0 s)
    (hK : Needs 4096 K := by exact Needs.sub (by assumption) (by decide)) : Only K s0 (State.putGroup s slot draft layer pos g) := by
  unfold State.putGroup
  with_reducible repeat' first
    | assumption | apply State.modFrame_only | exact Needs.sub ‹_› (by decide) | split | (dsimp only; split)

theorem State.modNode_only {s0 s : State} {i : Nat} {f : Node → Node} (hk : Only K s0 s)
    (hK : Needs 4096 K := by exact Needs.sub (by assumption) (by decide)) : Only K s0 (State.modNode s i f) := by
  unfold State.modNode
  with_reducible repeat' first
    | assumption | exact Needs.sub ‹_› (by decide) | apply Only.cond | fail_if_no_progress refine Only.mk' ?_

theorem State.countRef_only {s0 s : State} {i : Option Nat} {up : Bool} (hk : Only K s0 s)
    (hK : Needs 4096 K := by exact Needs.sub (by assumption) (by decide)) : Only K s0 (State.countRef s i up) := by
  unfold State.countRef
  with_reducible repeat' first
    | assumption | apply State.modNode_only | exact Needs.sub ‹_› (by decide) | apply Only.cond | split | (dsimp only; split)
    | fail_if_no_progress refine Only.mk' ?_

theorem State.evictNode_only {s0 s : State} {n : Node} (hk : Only K s0 s)
    (hK : Needs 4096 K := by exact Needs.sub (by assumption) (by decide)) : Only K s0 (State.evictNode s n) := by
  unfold State.evictNode
  with_reducible repeat' first
    | assumption | apply State.freeFrame_only | apply State.countRef_only | exact Needs.sub ‹_› (by decide) | apply Only.cond
    | refine Only.foldl ?_ fun _ _ _ => ?_ | split | (dsimp only; split) | fail_if_no_progress refine Only.mk' ?_

theorem State.releaseTrees_only {s0 s : State} {f : Nat} (hk : Only K s0 s)
    (hK : Needs 4096 K := by exact Needs.sub (by assumption) (by decide)) : Only K s0 (State.releaseTrees f s) := by
  induction f generalizing s with
  | zero => exact hk
  | succ f ih =>
    unfold State.releaseTrees
    split
    · exact ih (State.evictNode_only hk)
    · exact hk

theorem State.refNode_only {s0 s : State} {i : Option Nat} {up : Bool} (hk : Only K s0 s)
    (hK : Needs 4096 K := by exact Needs.sub (by assumption) (by decide)) : Only K s0 (State.refNode s i up) := by
  unfold State.refNode
  with_reducible repeat' first
    | assumption | apply State.countRef_only | apply State.releaseTrees_only | exact Needs.sub ‹_› (by decide) | apply Only.cond | split
    | (dsimp only; split) | fail_if_no_progress refine Only.mk' ?_

theorem State.retireTrees_only {s0 s : State} {model : Nat} (hk : Only K s0 s)
    (hK : Needs 4096 K := by exact Needs.sub (by assumption) (by decide)) : Only K s0 (State.retireTrees s model) := by
  unfold State.retireTrees
  with_reducible repeat' first
    | assumption | exact Needs.sub ‹_› (by decide) | apply Only.cond | split | (dsimp only; split) | fail_if_no_progress refine Only.mk' ?_

theorem State.dropRef_only {s0 s : State} {slot : Nat} (hk : Only K s0 s)
    (hK : Needs 5120 K := by exact Needs.sub (by assumption) (by decide)) : Only K s0 (State.dropRef s slot) := by
  unfold State.dropRef
  with_reducible repeat' first
    | assumption | apply State.modSlot_only | apply State.refNode_only | exact Needs.sub ‹_› (by decide) | split | (dsimp only; split)

theorem State.nodePlace_only {s0 s : State} (hk : Only K s0 s) {t : State} (e : s.nodePlace = some t)
    (hK : Needs 4096 K := by exact Needs.sub (by assumption) (by decide)) : Only K s0 t := by
  unfold State.nodePlace at e
  split at e
  · cases e; exact hk
  · split at e
    · cases e; exact State.evictNode_only hk
    · cases e

theorem State.addNode_only {s0 s : State} {slot : Nat} {b : Nat} {n : Node} (hk : Only K s0 s)
    (hK : Needs 5120 K := by exact Needs.sub (by assumption) (by decide)) : Only K s0 (State.addNode s slot b n) := by
  unfold State.addNode
  with_reducible repeat' first
    | assumption | apply State.modSlot_only | exact Needs.sub ‹_› (by decide) | apply Only.cond | fail_if_no_progress refine Only.mk' ?_

theorem State.insertBlock_only {s0 s : State} {tenant b hash : Nat} {m : Model} {x : Slot} {parent : Option Nat} (hk : Only K s0 s)
    {t : Nat × Nat × State} (e : s.insertBlock tenant m x b hash parent = some t)
    (hK : Needs 5120 K := by exact Needs.sub (by assumption) (by decide)) : Only K s0 t.2.2 := by
  unfold State.insertBlock at e
  dsimp only at e
  split at e
  · cases e
  · split at e
    · obtain ⟨n, -, rfl⟩ := Option.map_eq_some_iff.1 e; exact hk
    · split at e
      · cases e
      · obtain ⟨s1, h1, h2⟩ := Option.bind_eq_some_iff.1 e
        obtain ⟨i, -, rfl⟩ := Option.map_eq_some_iff.1 h2
        exact State.addNode_only (State.nodePlace_only hk h1)

theorem State.insertBlocks_only {s0 s : State} {tenant slot f b hash : Nat} {m : Model} {parent : Option Nat} (hk : Only K s0 s)
    (hK : Needs 5120 K := by exact Needs.sub (by assumption) (by decide)) :
    Only K s0 (State.insertBlocks tenant m slot f b hash parent s) := by
  induction f generalizing s b hash parent with
  | zero => exact hk
  | succ f ih =>
    unfold State.insertBlocks
    split
    · rename_i r hr
      obtain ⟨x, -, h⟩ := Option.bind_eq_some_iff.1 hr
      exact ih (State.insertBlock_only hk h)
    · exact hk

theorem State.insertPrefix_only {s0 s : State} {tenant : Nat} {slot : Nat} {m : Model} (hk : Only K s0 s)
    (hK : Needs 5120 K := by exact Needs.sub (by assumption) (by decide)) : Only K s0 (State.insertPrefix s tenant slot m) := by
  unfold State.insertPrefix
  with_reducible repeat' first
    | assumption | apply State.insertBlocks_only | exact Needs.sub ‹_› (by decide) | split | (dsimp only; split)

theorem State.releaseSlotPages_only {s0 s : State} {slot : Nat} (hk : Only K s0 s)
    (hK : Needs 5120 K := by exact Needs.sub (by assumption) (by decide)) : Only K s0 (State.releaseSlotPages s slot) := by
  unfold State.releaseSlotPages
  with_reducible repeat' first
    | assumption | apply State.dropRef_only | apply State.clearPages_only | apply State.freeFramesWhere_only
    | exact Needs.sub ‹_› (by decide)

theorem State.dropHeld_only {s0 s : State} {slot : Nat} (hk : Only K s0 s)
    (hK : Needs 4096 K := by exact Needs.sub (by assumption) (by decide)) : Only K s0 (State.dropHeld s slot) := by
  unfold State.dropHeld
  with_reducible repeat' first
    | assumption | exact Needs.sub ‹_› (by decide) | fail_if_no_progress refine Only.mk' ?_

theorem State.slotFree_only {s0 s : State} {slot : Nat} (hk : Only K s0 s)
    (hK : Needs 5120 K := by exact Needs.sub (by assumption) (by decide)) : Only K s0 (State.slotFree s slot) := by
  unfold State.slotFree
  with_reducible repeat' first
    | assumption | apply State.dropHeld_only | apply State.releaseSlotPages_only | exact Needs.sub ‹_› (by decide)
    | fail_if_no_progress refine Only.mk' ?_

theorem State.slotExpire_only {s0 s : State} {slot : Nat} (hk : Only K s0 s)
    (hK : Needs 5120 K := by exact Needs.sub (by assumption) (by decide)) : Only K s0 (State.slotExpire s slot) := by
  unfold State.slotExpire
  with_reducible repeat' first
    | assumption | apply State.modSlot_only | apply State.dropHeld_only | apply State.releaseSlotPages_only
    | exact Needs.sub ‹_› (by decide) | split | (dsimp only; split)

theorem State.modHeld_only {s0 s : State} {slot : Nat} {f : Held → Held} (hk : Only K s0 s)
    (hK : Needs 4096 K := by exact Needs.sub (by assumption) (by decide)) : Only K s0 (State.modHeld s slot f) := by
  unfold State.modHeld
  with_reducible repeat' first
    | assumption | exact Needs.sub ‹_› (by decide) | apply Only.cond | fail_if_no_progress refine Only.mk' ?_

theorem State.releaseEarly_only {s0 s : State} {slot : Nat} (hk : Only K s0 s)
    (hK : Needs 7696 K := by exact Needs.sub (by assumption) (by decide)) : Only K s0 (State.releaseEarly s slot) := by
  unfold State.releaseEarly
  with_reducible repeat' first
    | assumption | apply State.async_only | apply State.slotExpire_only | exact Needs.sub ‹_› (by decide) | split | (dsimp only; split)

theorem State.l2put_only {s0 s : State} {off : Nat} {data : Bytes} (hk : Only K s0 s)
    (hK : Needs 512 K := by exact Needs.sub (by assumption) (by decide)) : Only K s0 (State.l2put s off data) := by
  unfold State.l2put
  with_reducible repeat' first
    | assumption | apply State.sendFrame_only | exact Needs.sub ‹_› (by decide) | split | (dsimp only; split)

theorem State.putPage_only {s0 s : State} {off : Nat} {p : HeldPage} (hk : Only K s0 s)
    (hK : Needs 512 K := by exact Needs.sub (by assumption) (by decide)) : Only K s0 (State.putPage s off p).1 := by
  unfold State.putPage
  with_reducible repeat' first
    | assumption | apply State.l2put_only | exact Needs.sub ‹_› (by decide) | apply Only.cond | refine Only.foldl ?_ fun _ _ _ => ?_
    | split | (dsimp only; split) | fail_if_no_progress refine Only.mk' ?_

theorem State.toLevel2_only {s0 s : State} {slot : Nat} {offs : List Nat} (hk : Only K s0 s)
    (hK : Needs 4608 K := by exact Needs.sub (by assumption) (by decide)) : Only K s0 (s.toLevel2 slot offs) := by
  unfold State.toLevel2
  split
  · exact hk
  · exact State.modHeld_only (foldl_fst_only hk fun _ _ ha => State.putPage_only ha)

theorem State.level1Room_only {s0 s : State} {f but need : Nat} (hk : Only K s0 s)
    (hK : Needs 7696 K := by exact Needs.sub (by assumption) (by decide)) : Only K s0 (State.level1Room f but need s) := by
  induction f generalizing s with
  | zero => exact hk
  | succ f ih =>
    unfold State.level1Room
    refine Only.ifs (fun _ => hk) fun _ => ?_
    split
    · exact hk
    · refine ih ?_
      split
      · exact State.toLevel2_only hk
      · exact State.releaseEarly_only hk

theorem State.enterTier_only {s0 s : State} {slot : Nat} {ttl : Nat} (hk : Only K s0 s)
    (hK : Needs 7696 K := by exact Needs.sub (by assumption) (by decide)) : Only K s0 (State.enterTier s slot ttl) := by
  unfold State.enterTier
  with_reducible repeat' first
    | assumption | apply State.modSlot_only | apply State.level1Room_only | apply State.releaseEarly_only | apply State.dropHeld_only
    | apply State.toLevel2_only | exact Needs.sub ‹_› (by decide) | apply Only.cond | split | (dsimp only; split)
    | fail_if_no_progress refine Only.mk' ?_

theorem State.writePage_only {s0 s : State} {h : Held} {p : PageEntry} {last : Bool} (hk : Only K s0 s)
    (hK : Needs 4608 K := by exact Needs.sub (by assumption) (by decide)) : Only K s0 (State.writePage s h p last) := by
  unfold State.writePage
  with_reducible repeat' first
    | assumption | apply State.clearPages_only | apply State.freeFrame_only | apply State.modHeld_only | apply State.putPage_only
    | exact Needs.sub ‹_› (by decide) | apply Only.cond | split | (dsimp only; split) | fail_if_no_progress refine Only.mk' ?_

theorem State.moveOnePage_only {s0 s : State} {slot : Nat} (hk : Only K s0 s)
    (hK : Needs 7696 K := by exact Needs.sub (by assumption) (by decide)) : Only K s0 (State.moveOnePage s slot) := by
  unfold State.moveOnePage
  with_reducible repeat' first
    | assumption | apply State.clearPages_only | apply State.freeFrame_only | apply State.modHeld_only | apply State.putPage_only
    | apply State.releaseEarly_only | apply State.writePage_only | exact Needs.sub ‹_› (by decide) | apply Only.cond | split
    | (dsimp only; split) | fail_if_no_progress refine Only.mk' ?_

theorem State.finishMove_only {s0 s : State} {slot : Nat} (hk : Only K s0 s)
    (hK : Needs 7696 K := by exact Needs.sub (by assumption) (by decide)) : Only K s0 (State.finishMove s slot) := by
  unfold State.finishMove
  with_reducible repeat' first
    | assumption | apply State.moveOnePage_only | exact Needs.sub ‹_› (by decide) | apply Only.cond | refine Only.foldl ?_ fun _ _ _ => ?_
    | split | (dsimp only; split) | fail_if_no_progress refine Only.mk' ?_

theorem State.l2fetch_only {s0 s : State} {slot : Nat} (hk : Only K s0 s)
    (hK : Needs 4608 K := by exact Needs.sub (by assumption) (by decide)) : Only K s0 (State.l2fetch s slot) := by
  unfold State.l2fetch
  with_reducible repeat' first
    | assumption | apply State.sendFrame_only | apply State.modHeld_only | exact Needs.sub ‹_› (by decide) | apply Only.cond
    | refine Only.foldl ?_ fun _ _ _ => ?_ | split | (dsimp only; split) | fail_if_no_progress refine Only.mk' ?_

theorem State.restoreFrame_only {s0 s : State} {slot : Nat} {p : HeldPage} (hk : Only K s0 s) {id : FrameId} {t : State}
    (e : s.restoreFrame slot p = some (id, t))
    (hK : Needs 4096 K := by exact Needs.sub (by assumption) (by decide)) : Only K s0 t := by
  unfold State.restoreFrame at e
  split at e
  · cases e; exact hk
  · obtain ⟨r, hr, h⟩ := Option.map_eq_some_iff.1 e
    cases h
    exact State.setPage_only (State.newFrame_only hk hr)

theorem State.restoreOnePage_only {s0 s : State} {slot : Nat} (hk : Only K s0 s)
    (hK : Needs 4096 K := by exact Needs.sub (by assumption) (by decide)) : Only K s0 (State.restoreOnePage s slot) := by
  unfold State.restoreOnePage
  with_reducible repeat' first
    | assumption | refine State.restoreFrame_only ?_ (by assumption) | apply State.modFrame_only | apply State.dropHeld_only
    | apply State.modHeld_only | exact Needs.sub ‹_› (by decide) | apply Only.cond | split | (dsimp only; split)
    | fail_if_no_progress refine Only.mk' ?_

theorem State.expireHeld_only {s0 s : State} {slot : Nat} (hk : Only K s0 s)
    (hK : Needs 7696 K := by exact Needs.sub (by assumption) (by decide)) : Only K s0 (State.expireHeld s slot) := by
  unfold State.expireHeld
  with_reducible repeat' first
    | assumption | apply State.slotExpire_only | apply State.finishMove_only | exact Needs.sub ‹_› (by decide) | split
    | (dsimp only; split)

theorem State.expireAllHeld_only {s0 s : State} (hk : Only K s0 s)
    (hK : Needs 7696 K := by exact Needs.sub (by assumption) (by decide)) : Only K s0 (State.expireAllHeld s) := by
  unfold State.expireAllHeld
  with_reducible repeat' first
    | assumption | apply State.expireHeld_only | exact Needs.sub ‹_› (by decide) | refine Only.foldl ?_ fun _ _ _ => ?_

theorem State.tierIdle_only {s0 s : State} {x : Slot} {ttl : Nat} (hk : Only K s0 s)
    (hK : Needs 7696 K := by exact Needs.sub (by assumption) (by decide)) : Only K s0 (State.tierIdle s x ttl) := by
  unfold State.tierIdle
  with_reducible repeat' first
    | assumption | apply State.async_only | apply State.enterTier_only | exact Needs.sub ‹_› (by decide)

theorem State.evictWhile_only {s0 s : State} {ok : State → Bool} {f : Nat} (hk : Only K s0 s)
    (hK : Needs 4096 K := by exact Needs.sub (by assumption) (by decide)) :
    Only K s0 (State.evictWhile ok f s) := by
  induction f generalizing s with
  | zero => exact hk
  | succ f ih =>
    unfold State.evictWhile
    refine Only.ifs (fun _ => hk) fun _ => ?_
    split
    · exact ih (State.evictNode_only hk)
    · exact hk

theorem State.moveIdle_only {s0 s : State} {ok : State → Bool} {f : Nat} (hk : Only K s0 s)
    (hK : Needs 7696 K := by exact Needs.sub (by assumption) (by decide)) :
    Only K s0 (State.moveIdle ok f s).1 := by
  induction f generalizing s with
  | zero => exact hk
  | succ f ih =>
    unfold State.moveIdle
    split
    · exact hk
    · split
      · exact hk
      · split
        · exact ih (State.tierIdle_only hk)
        · exact hk

theorem State.makeRoom_only {s0 s : State} {ok : State → Bool} (hk : Only K s0 s)
    (hK : Needs 7696 K := by exact Needs.sub (by assumption) (by decide)) : Only K s0 (State.makeRoom s ok).1 := by
  unfold State.makeRoom
  with_reducible repeat' first
    | assumption | apply State.evictWhile_only | apply State.expireAllHeld_only | apply State.moveIdle_only
    | exact Needs.sub ‹_› (by decide) | apply Only.cond | split | (dsimp only; split)

end Sys2Proof.Machine
end

