-- ==== Sys2Proof/Laws/FramesClaims.lean ====
section
/-! SUPPORT. What the operations and meanings of Machine/Claims.lean leave as it is: the blocks outside their mask. -/

set_option Elab.async false
set_option linter.unusedTactic false
set_option linter.unreachableTactic false
set_option linter.unusedVariables false

namespace Sys2Proof.Machine

variable {K : Nat}

theorem State.requestCal_only {s0 s : State} {a : ArrId} {cls : Nat} (hk : Only K s0 s)
    (hK : Needs 16384 K := by exact Needs.sub (by assumption) (by decide)) : Only K s0 (State.requestCal s a cls) := by
  unfold State.requestCal
  with_reducible repeat' first
    | assumption | apply State.modTile_only | exact Needs.sub ‹_› (by decide) | apply Only.cond | split | (dsimp only; split)
    | fail_if_no_progress refine Only.mk' ?_

theorem State.dropRun_only {s0 s : State} {tid : TileId} {requeue : Bool} {first : Bool} (hk : Only K s0 s)
    (hK : Needs 24576 K := by exact Needs.sub (by assumption) (by decide)) : Only K s0 (State.dropRun s tid requeue first) := by
  unfold State.dropRun
  with_reducible repeat' first
    | assumption | apply State.modFranking_only | apply State.modTile_only | exact Needs.sub ‹_› (by decide) | apply Only.cond | split
    | (dsimp only; split) | fail_if_no_progress refine Only.mk' ?_

theorem State.discardRun_only {s0 s : State} {tid : TileId} {requeue : Bool} (hk : Only K s0 s)
    (hK : Needs 24576 K := by exact Needs.sub (by assumption) (by decide)) : Only K s0 (State.discardRun s tid requeue) := by
  unfold State.discardRun
  with_reducible repeat' first
    | assumption | apply State.modTile_only | apply State.dropRun_only | exact Needs.sub ‹_› (by decide) | apply Only.cond | split
    | (dsimp only; split) | fail_if_no_progress refine Only.mk' ?_

theorem State.idleSpare_only {s0 s : State} {tid : TileId} (hk : Only K s0 s)
    (hK : Needs 24576 K := by exact Needs.sub (by assumption) (by decide)) : Only K s0 (State.idleSpare s tid) := by
  unfold State.idleSpare
  with_reducible repeat' first
    | assumption | apply State.modDir_only | apply State.modTile_only | exact Needs.sub ‹_› (by decide) | apply Only.cond | split
    | (dsimp only; split) | fail_if_no_progress refine Only.mk' ?_

theorem State.endClaim_only {s0 s : State} {tid : TileId} (hk : Only K s0 s)
    (hK : Needs 16384 K := by exact Needs.sub (by assumption) (by decide)) : Only K s0 (State.endClaim s tid) := by
  unfold State.endClaim
  with_reducible repeat' first
    | assumption | apply State.modTile_only | exact Needs.sub ‹_› (by decide) | apply Only.cond | split | (dsimp only; split)
    | fail_if_no_progress refine Only.mk' ?_

theorem State.releaseSpare_only {s0 s : State} {tid : TileId} {gone : Nat → Bool} (hk : Only K s0 s)
    (hK : Needs 24576 K := by exact Needs.sub (by assumption) (by decide)) : Only K s0 (State.releaseSpare s tid gone) := by
  unfold State.releaseSpare
  with_reducible repeat' first
    | assumption | apply State.endClaim_only | apply State.idleSpare_only | exact Needs.sub ‹_› (by decide) | apply Only.cond | split
    | (dsimp only; split) | fail_if_no_progress refine Only.mk' ?_

theorem State.releaseTile_only {s0 s : State} {tid : TileId} {gone : Nat → Bool} (hk : Only K s0 s)
    (hK : Needs 24576 K := by exact Needs.sub (by assumption) (by decide)) : Only K s0 (State.releaseTile s tid gone) := by
  unfold State.releaseTile
  with_reducible repeat' first
    | assumption | apply State.dropRun_only | apply State.modTile_only | apply State.releaseSpare_only | exact Needs.sub ‹_› (by decide)
    | apply Only.cond | split | (dsimp only; split) | fail_if_no_progress refine Only.mk' ?_

end Sys2Proof.Machine
end

