-- ==== Sys2Proof/Laws/FramesSteps.lean ====
section
/-! SUPPORT. What the operations and meanings of Machine/Steps.lean leave as it is: the blocks outside their mask. -/

set_option Elab.async false
set_option linter.unusedTactic false
set_option linter.unreachableTactic false
set_option linter.unusedVariables false

namespace Sys2Proof.Machine

variable {K : Nat}

theorem State.writeCompletion_only {s0 s : State} {qn : Nat} {c : Completion} (hk : Only K s0 s)
    (hK : Needs 3072 K := by exact Needs.sub (by assumption) (by decide)) : Only K s0 (State.writeCompletion s qn c).1 := by
  unfold State.writeCompletion
  with_reducible repeat' first
    | assumption | apply State.writeMem_only | apply State.modQueue_only | exact Needs.sub ‹_› (by decide) | apply Only.cond | split
    | (dsimp only; split)

theorem State.closeStep_only {s0 s : State} {qn : Nat} {seq : Nat} (hk : Only K s0 s)
    (hK : Needs 1024 K := by exact Needs.sub (by assumption) (by decide)) : Only K s0 (State.closeStep s qn seq) := by
  unfold State.closeStep
  with_reducible repeat' first
    | assumption | exact Needs.sub ‹_› (by decide) | fail_if_no_progress refine Only.mk' ?_

theorem State.takeEnded_only {s0 s : State} {qn : Nat} {c : Completion} (hk : Only K s0 s)
    (hK : Needs 1024 K := by exact Needs.sub (by assumption) (by decide)) : Only K s0 (State.takeEnded s qn c) := by
  unfold State.takeEnded
  with_reducible repeat' first
    | assumption | apply State.modQueue_only | exact Needs.sub ‹_› (by decide) | apply Only.cond | split | (dsimp only; split)
    | fail_if_no_progress refine Only.mk' ?_

theorem State.retain_only {s0 s : State} {q : Queue} {c : Completion} (hk : Only K s0 s)
    (hK : Needs 3584 K := by exact Needs.sub (by assumption) (by decide)) : Only K s0 (State.retain s q c) := by
  unfold State.retain
  refine Only.ifs (fun _ => Only.mk' ?_) fun _ => State.modQueue_only ?_
  all_goals
    split
    · exact State.writeCompletion_only hk
    · exact State.takeEnded_only hk

theorem State.flushQueue_only {s0 s : State} {f qn : Nat} (hk : Only K s0 s)
    (hK : Needs 3584 K := by exact Needs.sub (by assumption) (by decide)) : Only K s0 (State.flushQueue f qn s).1 := by
  induction f generalizing s with
  | zero => exact hk
  | succ f ih =>
    unfold State.flushQueue
    split
    · exact hk
    · split
      · exact hk
      · split
        · exact ih (State.closeStep_only (State.takeEnded_only hk))
        · split
          · exact ih (State.closeStep_only (State.retain_only hk))
          · split
            · exact ih (State.closeStep_only (State.writeCompletion_only hk))
            · exact hk

theorem State.sendCompletions_only {s0 s : State} {qn : Nat} {items : List Bytes} (hk : Only K s0 s)
    (hK : Needs 512 K := by exact Needs.sub (by assumption) (by decide)) : Only K s0 (State.sendCompletions s qn items) := by
  unfold State.sendCompletions
  with_reducible repeat' first
    | assumption | apply State.sendFrame_only | exact Needs.sub ‹_› (by decide) | apply Only.cond | refine Only.foldl ?_ fun _ _ _ => ?_
    | split | (dsimp only; split) | fail_if_no_progress refine Only.mk' ?_

theorem State.deliver_only {s0 s : State} {qn : Nat} (hk : Only K s0 s)
    (hK : Needs 3584 K := by exact Needs.sub (by assumption) (by decide)) : Only K s0 (State.deliver s qn) := by
  unfold State.deliver
  with_reducible repeat' first
    | assumption | apply State.flushQueue_only | apply State.sendCompletions_only | exact Needs.sub ‹_› (by decide) | apply Only.cond
    | split | (dsimp only; split) | fail_if_no_progress refine Only.mk' ?_ | refine Only.foldl ?_ fun _ _ _ => ?_

theorem State.releaseModel_only {s0 s : State} {n : Nat} (hk : Only K s0 s)
    (hK : Needs 28672 K := by exact Needs.sub (by assumption) (by decide)) : Only K s0 (State.releaseModel s n) := by
  unfold State.releaseModel
  with_reducible repeat' first
    | assumption | apply State.releaseTrees_only | apply State.releaseTile_only | apply State.retireTrees_only
    | exact Needs.sub ‹_› (by decide) | apply Only.cond | refine Only.foldl ?_ fun _ _ _ => ?_ | split | (dsimp only; split)
    | fail_if_no_progress refine Only.mk' ?_

theorem State.dropContext_only {s0 s : State} {n : Nat} (hk : Only K s0 s)
    (hK : Needs 5120 K := by exact Needs.sub (by assumption) (by decide)) : Only K s0 (State.dropContext s n) := by
  unfold State.dropContext
  with_reducible repeat' first
    | assumption | apply State.slotFree_only | exact Needs.sub ‹_› (by decide) | refine Only.foldl ?_ fun _ _ _ => ?_
    | fail_if_no_progress refine Only.mk' ?_

theorem State.sweepQueues_only {s0 s : State} (hk : Only K s0 s)
    (hK : Needs 1024 K := by exact Needs.sub (by assumption) (by decide)) : Only K s0 (State.sweepQueues s) := by
  unfold State.sweepQueues
  with_reducible repeat' first
    | assumption | exact Needs.sub ‹_› (by decide) | fail_if_no_progress refine Only.mk' ?_

theorem State.sweepQueue_only {s0 s : State} {n : Nat} (hk : Only K s0 s)
    (hK : Needs 1024 K := by exact Needs.sub (by assumption) (by decide)) : Only K s0 (State.sweepQueue s n) := by
  unfold State.sweepQueue
  with_reducible repeat' first
    | assumption | exact Needs.sub ‹_› (by decide) | apply Only.cond | split | fail_if_no_progress refine Only.mk' ?_

theorem State.sweep_only {s0 s : State} (hk : Only K s0 s)
    (hK : Needs 29696 K := by exact Needs.sub (by assumption) (by decide)) : Only K s0 (State.sweep s) := by
  unfold State.sweep
  with_reducible repeat' first
    | assumption | apply State.sweepQueues_only | apply State.dropContext_only | apply State.releaseModel_only
    | exact Needs.sub ‹_› (by decide) | apply Only.cond | refine Only.foldl ?_ fun _ _ _ => ?_ | split | (dsimp only; split)
    | fail_if_no_progress refine Only.mk' ?_

theorem State.dropWork_only {s0 s : State} {tag : Nat} (hk : Only K s0 s)
    (hK : Needs 54272 K := by exact Needs.sub (by assumption) (by decide)) : Only K s0 (State.dropWork s tag) := by
  unfold State.dropWork
  with_reducible repeat' first
    | assumption | exact Needs.sub ‹_› (by decide) | apply Only.cond | split | (dsimp only; split) | fail_if_no_progress refine Only.mk' ?_

theorem State.dropTokens_only {s0 s : State} {o : OpenStep} {gone : Nat → Bool} (hk : Only K s0 s)
    (hK : Needs 50176 K := by exact Needs.sub (by assumption) (by decide)) : Only K s0 (State.dropTokens s o gone) := by
  unfold State.dropTokens
  with_reducible repeat' first
    | assumption | exact Needs.sub ‹_› (by decide) | apply Only.cond | split | (dsimp only; split) | fail_if_no_progress refine Only.mk' ?_

theorem State.dropLedger_only {s0 s : State} {o : OpenStep} (hk : Only K s0 s)
    (hK : Needs 163840 K := by exact Needs.sub (by assumption) (by decide)) : Only K s0 (State.dropLedger s o) := by
  unfold State.dropLedger
  with_reducible repeat' first
    | assumption | exact Needs.sub ‹_› (by decide) | apply Only.cond | fail_if_no_progress refine Only.mk' ?_

theorem State.undoMatch_only {s0 s : State} {o : OpenStep} {i : Nat} {slot : Nat} (hk : Only K s0 s)
    (hK : Needs 5120 K := by exact Needs.sub (by assumption) (by decide)) : Only K s0 (State.undoMatch s o i slot) := by
  unfold State.undoMatch
  with_reducible repeat' first
    | assumption | apply State.clearPages_only | apply State.modSlot_only | apply State.refNode_only | exact Needs.sub ‹_› (by decide)
    | apply Only.cond | split | (dsimp only; split)

theorem State.putEnded_only {s0 s : State} {qn : Nat} {c : Completion} (hk : Only K s0 s)
    (hK : Needs 1024 K := by exact Needs.sub (by assumption) (by decide)) : Only K s0 (State.putEnded s qn c) := by
  unfold State.putEnded
  with_reducible repeat' first
    | assumption | apply State.modQueue_only | exact Needs.sub ‹_› (by decide)

theorem State.undoStep_only {s0 s : State} {o : OpenStep} (hk : Only K s0 s)
    (hK : Needs 185344 K := by exact Needs.sub (by assumption) (by decide)) : Only K s0 (State.undoStep s o) := by
  unfold State.undoStep
  with_reducible repeat' first
    | assumption | apply State.dropLedger_only | apply State.dropWork_only | apply State.releaseReserved_only | apply State.undoMatch_only
    | apply State.modSlot_only | exact Needs.sub ‹_› (by decide) | apply Only.cond | refine Only.foldl ?_ fun _ _ _ => ?_ | split
    | (dsimp only; split)

theorem State.failStep_only {s0 s : State} {tag : Nat} {status : Nat} (hk : Only K s0 s)
    (hK : Needs 196096 K := by exact Needs.sub (by assumption) (by decide)) : Only K s0 (State.failStep s tag status) := by
  unfold State.failStep
  with_reducible repeat' first
    | assumption | apply State.undoStep_only | apply State.sweep_only | apply State.deliver_only | apply State.putEnded_only
    | exact Needs.sub ‹_› (by decide) | apply Only.cond | split | (dsimp only; split) | fail_if_no_progress refine Only.mk' ?_

theorem State.abortStep_only {s0 s : State} {o : OpenStep} (hk : Only K s0 s)
    (hK : Needs 185344 K := by exact Needs.sub (by assumption) (by decide)) : Only K s0 (State.abortStep s o) := by
  unfold State.abortStep
  with_reducible repeat' first
    | assumption | apply State.dropLedger_only | apply State.dropWork_only | apply State.releaseReserved_only | apply State.modStep_only
    | exact Needs.sub ‹_› (by decide) | refine Only.foldl ?_ fun _ _ _ => ?_

theorem State.abortJob_only {s0 s : State} {job : Nat} {reason : Nat} {module : Nat} (hk : Only K s0 s)
    (hK : Needs 187952 K := by exact Needs.sub (by assumption) (by decide)) : Only K s0 (State.abortJob s job reason module) := by
  unfold State.abortJob
  with_reducible repeat' first
    | assumption | apply State.abortStep_only | apply State.notifyJob_only | apply State.reportAbort_only | exact Needs.sub ‹_› (by decide)
    | apply Only.cond | refine Only.foldl ?_ fun _ _ _ => ?_ | split | (dsimp only; split) | fail_if_no_progress refine Only.mk' ?_

theorem State.sendOrAbort_only {s0 s : State} {h : CourierHdr} {payload : Bytes} (hk : Only K s0 s)
    (hK : Needs 187952 K := by exact Needs.sub (by assumption) (by decide)) : Only K s0 (State.sendOrAbort s h payload) := by
  unfold State.sendOrAbort
  with_reducible repeat' first
    | assumption | apply State.abortJob_only | apply State.sendRouted_only | exact Needs.sub ‹_› (by decide) | apply Only.cond | split
    | (dsimp only; split) | fail_if_no_progress refine Only.mk' ?_

theorem State.sendForJob_only {s0 s : State} {type : Nat} {dest : Nat} {job : Nat} {payload : Bytes} (hk : Only K s0 s)
    (hK : Needs 187952 K := by exact Needs.sub (by assumption) (by decide)) : Only K s0 (State.sendForJob s type dest job payload) := by
  unfold State.sendForJob
  with_reducible repeat' first
    | assumption | apply State.sendOrAbort_only | exact Needs.sub ‹_› (by decide) | apply Only.cond | split | (dsimp only; split)
    | fail_if_no_progress refine Only.mk' ?_

theorem State.putUnbegun_only {s0 s : State} {q : Queue} {w : Waiting} {status : Nat} {detail : Nat} (hk : Only K s0 s)
    (hK : Needs 3584 K := by exact Needs.sub (by assumption) (by decide)) : Only K s0 (State.putUnbegun s q w status detail) := by
  unfold State.putUnbegun
  with_reducible repeat' first
    | assumption | apply State.deliver_only | apply State.putEnded_only | exact Needs.sub ‹_› (by decide)

theorem State.endUnbegun_only {s0 s : State} {q : Queue} {w : Waiting} {status : Nat} {detail : Nat} (hk : Only K s0 s)
    (hK : Needs 32256 K := by exact Needs.sub (by assumption) (by decide)) : Only K s0 (State.endUnbegun s q w status detail) := by
  unfold State.endUnbegun
  with_reducible repeat' first
    | assumption | apply State.sweep_only | apply State.putUnbegun_only | exact Needs.sub ‹_› (by decide)

end Sys2Proof.Machine
end

