-- ==== Sys2Proof/Laws/FramesIssue.lean ====
section
/-! SUPPORT. What the operations and meanings of Machine/Issue.lean leave as it is: the blocks outside their mask. -/

set_option Elab.async false
set_option linter.unusedTactic false
set_option linter.unreachableTactic false
set_option linter.unusedVariables false

namespace Sys2Proof.Machine

variable {K : Nat}

theorem State.modToken_only {s0 s : State} {tag : Nat} {ti : Nat} {f : TokenWork → TokenWork} (hk : Only K s0 s)
    (hK : Needs 1024 K := by exact Needs.sub (by assumption) (by decide)) : Only K s0 (State.modToken s tag ti f) := by
  unfold State.modToken
  with_reducible repeat' first
    | assumption | apply State.modStep_only | exact Needs.sub ‹_› (by decide)

theorem State.placeTargets_only {s0 s : State} {model : Nat} {layer : Nat} {tensor : Nat} (hk : Only K s0 s)
    (hK : Needs 1024 K := by exact Needs.sub (by assumption) (by decide)) : Only K s0 (State.placeTargets s model layer tensor) := by
  unfold State.placeTargets
  with_reducible repeat' first
    | assumption | exact Needs.sub ‹_› (by decide) | apply Only.cond | split | (dsimp only; split) | fail_if_no_progress refine Only.mk' ?_

theorem State.engineRan_only {s0 s : State} {w : EngineWork} (hk : Only K s0 s)
    (hK : Needs 1024 K := by exact Needs.sub (by assumption) (by decide)) : Only K s0 (State.engineRan s w) := by
  unfold State.engineRan
  with_reducible repeat' first
    | assumption | exact Needs.sub ‹_› (by decide) | apply Only.cond | split | (dsimp only; split) | fail_if_no_progress refine Only.mk' ?_

theorem State.setupLine_only {s0 s : State} {o : OpenStep} {ti : Nat} {layer : Nat} {t : TensorRec} {bs : List Blk} {col : Nat} (hk : Only
    K s0 s)
    (hK : Needs 32768 K := by exact Needs.sub (by assumption) (by decide)) : Only K s0 (State.setupLine s o ti layer t bs col) := by
  unfold State.setupLine
  with_reducible repeat' first
    | assumption | exact Needs.sub ‹_› (by decide) | apply Only.cond | split | (dsimp only; split) | fail_if_no_progress refine Only.mk' ?_

theorem State.setLedger_only {s0 s : State} {l : Ledger} (hk : Only K s0 s)
    (hK : Needs 32768 K := by exact Needs.sub (by assumption) (by decide)) : Only K s0 (State.setLedger s l) := by
  unfold State.setLedger
  with_reducible repeat' first
    | assumption | exact Needs.sub ‹_› (by decide) | apply Only.cond | split | (dsimp only; split) | fail_if_no_progress refine Only.mk' ?_

theorem State.setupLedgerLine_only {s0 s : State} {o : OpenStep} {ti : Nat} {layer : Nat} {t : TensorRec} {bs : List Blk} {members : Nat}
    {col : Nat} (hk : Only K s0 s)
    (hK : Needs 32768 K := by exact Needs.sub (by assumption) (by decide)) : Only K s0 (State.setupLedgerLine s o ti layer t bs members
    col) := by
  unfold State.setupLedgerLine
  with_reducible repeat' first
    | assumption | (dsimp only; apply State.setLedger_only) | exact Needs.sub ‹_› (by decide) | apply Only.cond | split | (dsimp only; split)
    | fail_if_no_progress refine Only.mk' ?_

theorem State.setupLedger_only {s0 s : State} {o : OpenStep} {ti : Nat} {layer : Nat} {t : TensorRec} {bs : List Blk} (hk : Only K s0 s)
    (hK : Needs 32768 K := by exact Needs.sub (by assumption) (by decide)) : Only K s0 (State.setupLedger s o ti layer t bs) := by
  unfold State.setupLedger
  with_reducible repeat' first
    | assumption | apply State.setupLedgerLine_only | exact Needs.sub ‹_› (by decide) | apply Only.cond
    | refine Only.foldl ?_ fun _ _ _ => ?_ | split | (dsimp only; split) | fail_if_no_progress refine Only.mk' ?_

theorem State.setupLines_only {s0 s : State} {tag : Nat} {ti : Nat} (hk : Only K s0 s)
    (hK : Needs 32768 K := by exact Needs.sub (by assumption) (by decide)) : Only K s0 (State.setupLines s tag ti) := by
  unfold State.setupLines
  with_reducible repeat' first
    | assumption | apply State.setupLine_only | apply State.setupLedger_only | exact Needs.sub ‹_› (by decide) | apply Only.cond
    | refine Only.foldl ?_ fun _ _ _ => ?_ | split | (dsimp only; split) | fail_if_no_progress refine Only.mk' ?_

theorem State.issueLine_only {s0 s : State} {slotOf : Nat → Nat → Option InputSlot} {bs : List Blk} {ti : Nat} {l : Line} (hk : Only K s0
    s)
    (hK : Needs 49152 K := by exact Needs.sub (by assumption) (by decide)) : Only K s0 (State.issueLine s slotOf bs ti l) := by
  unfold State.issueLine
  with_reducible repeat' first
    | assumption | apply State.modTile_only | exact Needs.sub ‹_› (by decide) | apply Only.cond | refine Only.foldl ?_ fun _ _ _ => ?_
    | split | (dsimp only; split) | fail_if_no_progress refine Only.mk' ?_

theorem State.fetchLists_only {s0 s : State} {a : ArrId} (hk : Only K s0 s)
    (hK : Needs 16384 K := by exact Needs.sub (by assumption) (by decide)) : Only K s0 (State.fetchLists s a) := by
  unfold State.fetchLists
  with_reducible repeat' first
    | assumption | apply State.modRegion_only | exact Needs.sub ‹_› (by decide) | apply Only.cond | split | (dsimp only; split)
    | fail_if_no_progress refine Only.mk' ?_

theorem State.renewLists_only {s0 s : State} {a : ArrId} (hk : Only K s0 s)
    (hK : Needs 16384 K := by exact Needs.sub (by assumption) (by decide)) : Only K s0 (State.renewLists s a) := by
  unfold State.renewLists
  with_reducible repeat' first
    | assumption | apply State.fetchLists_only | apply State.modRegion_only | exact Needs.sub ‹_› (by decide) | apply Only.cond | split
    | (dsimp only; split) | fail_if_no_progress refine Only.mk' ?_

theorem State.fetchSchedule_only {s0 s : State} {tag : Nat} (hk : Only K s0 s)
    (hK : Needs 16384 K := by exact Needs.sub (by assumption) (by decide)) : Only K s0 (State.fetchSchedule s tag) := by
  unfold State.fetchSchedule
  with_reducible repeat' first
    | assumption | apply State.fetchLists_only | exact Needs.sub ‹_› (by decide) | apply Only.cond | refine Only.foldl ?_ fun _ _ _ => ?_
    | split | (dsimp only; split) | fail_if_no_progress refine Only.mk' ?_

theorem State.issueTensor_only {s0 s : State} {o : OpenStep} {ti : Nat} {layer : Nat} {t : TensorRec} {model : Nat} {x : List Nat}
    (hk : Only K s0 s)
    (hK : Needs 50176 K := by exact Needs.sub (by assumption) (by decide)) : Only K s0 (State.issueTensor s o ti layer t model x) := by
  unfold State.issueTensor
  with_reducible repeat' first
    | assumption | apply State.issueLine_only | apply State.fetchLists_only | exact Needs.sub ‹_› (by decide) | apply Only.cond
    | refine Only.foldl ?_ fun _ _ _ => ?_ | split | (dsimp only; split) | fail_if_no_progress refine Only.mk' ?_

theorem State.appendHead_only {s0 s : State} {tag ti : Nat} {en : LenEntry} {w : EntryWork} {tok : TokenWork} {l : LayerRec}
    {isV : Bool} {head : Nat} {x : List Nat}
    (hk : Only K s0 s) {t : State} (e : s.appendHead tag ti en w tok l isV head x = some t)
    (hK : Needs 5120 K := by exact Needs.sub (by assumption) (by decide)) : Only K s0 t := by
  unfold State.appendHead at e
  generalize (if isV = true then x else _) = x1 at e
  dsimp only at e
  split at e
  · cases e; exact hk
  · split at e
    · cases e
    · obtain ⟨g, -, rfl⟩ := Option.map_eq_some_iff.1 e
      exact State.engineRan_only (State.putGroup_only hk)

theorem State.appendBlock_only {s0 s : State} {tag ti : Nat} {en : LenEntry} {w : EntryWork} {tok : TokenWork} {l : LayerRec}
    {isV : Bool} {col : Nat} {v : List Nat}
    (hk : Only K s0 s) {t : State} (e : s.appendBlock tag ti en w tok l isV col v = some t)
    (hK : Needs 5120 K := by exact Needs.sub (by assumption) (by decide)) : Only K s0 t := by
  refine foldl_option_only (s := some s) (fun t ht => by cases ht; exact hk) (fun acc i ha u hu => ?_) t e
  obtain ⟨st, h1, h2⟩ := Option.bind_eq_some_iff.1 hu
  exact State.appendHead_only (ha st h1) h2

theorem State.takeValues_only {s0 s : State} {tag : Nat} {d : LineDest} {v : List Nat} (hk : Only K s0 s)
    (hK : Needs 196096 K := by exact Needs.sub (by assumption) (by decide)) : Only K s0 (State.takeValues s tag d v) := by
  unfold State.takeValues
  with_reducible repeat' first
    | assumption | refine State.appendBlock_only ?_ (by assumption) | apply State.failStep_only | apply State.modToken_only | exact Needs.sub ‹_› (by decide)
    | apply Only.cond | split | (dsimp only; split) | fail_if_no_progress refine Only.mk' ?_

theorem State.takeLedgerLine_only {s0 s : State} {tag : Nat} {x : Line} (hk : Only K s0 s)
    (hK : Needs 196096 K := by exact Needs.sub (by assumption) (by decide)) : Only K s0 (State.takeLedgerLine s tag x) := by
  unfold State.takeLedgerLine
  with_reducible repeat' first
    | assumption | apply State.failStep_only | apply State.takeValues_only | exact Needs.sub ‹_› (by decide) | apply Only.cond | split
    | (dsimp only; split) | fail_if_no_progress refine Only.mk' ?_

theorem State.takeLedger_only {s0 s : State} {tag : Nat} {ti : Nat} (hk : Only K s0 s)
    (hK : Needs 196096 K := by exact Needs.sub (by assumption) (by decide)) : Only K s0 (State.takeLedger s tag ti) := by
  unfold State.takeLedger
  with_reducible repeat' first
    | assumption | apply State.setLedger_only | apply State.takeLedgerLine_only | exact Needs.sub ‹_› (by decide) | apply Only.cond
    | refine Only.foldl ?_ fun _ _ _ => ?_ | split | (dsimp only; split) | fail_if_no_progress refine Only.mk' ?_

theorem State.startStage_only {s0 s : State} {tag : Nat} {ti : Nat} (hk : Only K s0 s)
    (hK : Needs 196096 K := by exact Needs.sub (by assumption) (by decide)) : Only K s0 (State.startStage s tag ti) := by
  unfold State.startStage
  with_reducible repeat' first
    | assumption | apply State.failStep_only | apply State.issueTensor_only | apply State.takeLedger_only | exact Needs.sub ‹_› (by decide)
    | apply Only.cond | refine Only.foldl ?_ fun _ _ _ => ?_ | split | (dsimp only; split) | fail_if_no_progress refine Only.mk' ?_

theorem State.sendActivation_only {s0 s : State} {o : OpenStep} {tok : TokenWork} {vec : List Nat} (hk : Only K s0 s)
    (hK : Needs 196144 K := by exact Needs.sub (by assumption) (by decide)) : Only K s0 (State.sendActivation s o tok vec) := by
  unfold State.sendActivation
  with_reducible repeat' first
    | assumption | apply State.failStep_only | apply State.sendForJob_only | exact Needs.sub ‹_› (by decide) | apply Only.cond
    | refine Only.foldl ?_ fun _ _ _ => ?_ | split | (dsimp only; split) | fail_if_no_progress refine Only.mk' ?_

theorem State.countCopies_only {s0 s : State} {n : Nat} (hk : Only K s0 s)
    (hK : Needs 8192 K := by exact Needs.sub (by assumption) (by decide)) : Only K s0 (State.countCopies s n) := by
  unfold State.countCopies
  with_reducible repeat' first
    | assumption | exact Needs.sub ‹_› (by decide) | apply Only.cond | split | (dsimp only; split) | fail_if_no_progress refine Only.mk' ?_

theorem State.gatherRan_only {s0 s : State} {m : Model} {tag : Nat} {ti : Nat} {token : Nat} (hk : Only K s0 s)
    (hK : Needs 9216 K := by exact Needs.sub (by assumption) (by decide)) : Only K s0 (State.gatherRan s m tag ti token) := by
  unfold State.gatherRan
  with_reducible repeat' first
    | assumption | apply State.engineRan_only | apply State.countCopies_only | exact Needs.sub ‹_› (by decide) | apply Only.cond
    | refine Only.foldl ?_ fun _ _ _ => ?_ | split | (dsimp only; split) | fail_if_no_progress refine Only.mk' ?_

theorem State.selectLast_only {s0 s : State} {tag : Nat} (hk : Only K s0 s)
    (hK : Needs 16384 K := by exact Needs.sub (by assumption) (by decide)) : Only K s0 (State.selectLast s tag) := by
  unfold State.selectLast
  with_reducible repeat' first
    | assumption | apply State.modRegion_only | exact Needs.sub ‹_› (by decide) | apply Only.cond | refine Only.foldl ?_ fun _ _ _ => ?_
    | split | (dsimp only; split) | fail_if_no_progress refine Only.mk' ?_

theorem State.vectorRan_only {s0 s : State} {o : OpenStep} {tag : Nat} {ti : Nat} {tok : TokenWork} (hk : Only K s0 s)
    (hK : Needs 1024 K := by exact Needs.sub (by assumption) (by decide)) : Only K s0 (State.vectorRan s o tag ti tok) := by
  unfold State.vectorRan
  with_reducible repeat' first
    | assumption | apply State.engineRan_only | exact Needs.sub ‹_› (by decide) | apply Only.cond | split | (dsimp only; split)
    | fail_if_no_progress refine Only.mk' ?_

theorem State.choiceRan_only {s0 s : State} {tag : Nat} {ti : Nat} {l : LayerRec} {tok : TokenWork} (hk : Only K s0 s)
    (hK : Needs 1024 K := by exact Needs.sub (by assumption) (by decide)) : Only K s0 (State.choiceRan s tag ti l tok) := by
  unfold State.choiceRan
  with_reducible repeat' first
    | assumption | apply State.engineRan_only | exact Needs.sub ‹_› (by decide) | apply Only.cond
    | refine Only.foldl ?_ fun _ _ _ => ?_ | split | (dsimp only; split) | fail_if_no_progress refine Only.mk' ?_

theorem State.advance_only {s0 s : State} {f tag ti : Nat} (hk : Only K s0 s)
    (hK : Needs 196144 K := by exact Needs.sub (by assumption) (by decide)) : Only K s0 (State.advance f tag ti s) := by
  induction f generalizing s ti with
  | zero => exact hk
  | succ f ih =>
    unfold State.advance
    repeat' first
      | with_reducible assumption | exact Needs.sub ‹_› (by decide) | with_reducible apply ih | with_reducible apply State.startStage_only
      | with_reducible apply State.modToken_only | with_reducible apply State.failStep_only
      | with_reducible apply State.setupLines_only | with_reducible apply State.gatherRan_only
      | with_reducible apply State.modStep_only | with_reducible apply State.sendActivation_only
      | with_reducible apply State.selectLast_only | with_reducible apply State.vectorRan_only | with_reducible apply State.choiceRan_only
      | with_reducible refine Only.foldl ?_ fun _ _ _ => ?_
      | with_reducible apply Only.cond
      | (try dsimp only); split

theorem State.advanceToken_only {s0 s : State} {tag : Nat} {ti : Nat} (hk : Only K s0 s)
    (hK : Needs 196144 K := by exact Needs.sub (by assumption) (by decide)) : Only K s0 (State.advanceToken s tag ti) := by
  unfold State.advanceToken
  with_reducible repeat' first
    | assumption | apply State.advance_only | exact Needs.sub ‹_› (by decide)

theorem State.addTokens_only {s0 s : State} {tag : Nat} {new : List TokenWork} (hk : Only K s0 s)
    (hK : Needs 196144 K := by exact Needs.sub (by assumption) (by decide)) : Only K s0 (State.addTokens s tag new) := by
  unfold State.addTokens
  with_reducible repeat' first
    | assumption | apply State.modStep_only | apply State.advanceToken_only | apply State.setupLines_only | exact Needs.sub ‹_› (by decide)
    | apply Only.cond | refine Only.foldl ?_ fun _ _ _ => ?_ | split | (dsimp only; split) | fail_if_no_progress refine Only.mk' ?_

theorem State.startEntry_only {s0 s : State} {tag : Nat} {i : Nat} (hk : Only K s0 s)
    (hK : Needs 196144 K := by exact Needs.sub (by assumption) (by decide)) : Only K s0 (State.startEntry s tag i) := by
  unfold State.startEntry
  with_reducible repeat' first
    | assumption | apply State.addTokens_only | exact Needs.sub ‹_› (by decide) | apply Only.cond | split | (dsimp only; split)
    | fail_if_no_progress refine Only.mk' ?_

theorem State.attend_only {s0 s : State} {tag : Nat} {ti : Nat} {head : Nat} (hk : Only K s0 s)
    (hK : Needs 458288 K := by exact Needs.sub (by assumption) (by decide)) : Only K s0 (State.attend s tag ti head) := by
  unfold State.attend
  with_reducible repeat' first
    | assumption | apply State.nextDraw_only | apply State.failStep_only | apply State.advanceToken_only | apply State.modToken_only
    | apply State.engineRan_only | exact Needs.sub ‹_› (by decide) | apply Only.cond | split | (dsimp only; split)
    | fail_if_no_progress refine Only.mk' ?_

theorem State.spareTargets_only {s0 s : State} {die : Nat} (hk : Only K s0 s)
    (hK : Needs 1024 K := by exact Needs.sub (by assumption) (by decide)) : Only K s0 (State.spareTargets s die) := by
  unfold State.spareTargets
  with_reducible repeat' first
    | assumption | exact Needs.sub ‹_› (by decide) | apply Only.cond | split | (dsimp only; split) | fail_if_no_progress refine Only.mk' ?_

theorem State.gatherTarget_only {s0 s t : State} {tag die adapter : Nat} {x : Nat × Nat × Nat × Bytes × Bytes} (hk : Only K s0 s)
    (e : s.gatherTarget tag die adapter x = some t)
    (hK : Needs 1024 K := by exact Needs.sub (by assumption) (by decide)) : Only K s0 t := by
  unfold State.gatherTarget at e
  dsimp only at e
  split at e
  · cases e
  · split at e
    · cases e; exact hk
    · unfold Option.orElse at e
      split at e
      · rename_i h
        cases e
        split at h
        · cases h; exact State.modStep_only hk
        · cases h
      · split at e
        · split at e
          · cases e; exact State.modStep_only (State.spareTargets_only hk)
          · cases e
        · cases e

theorem State.gatherDie_only {s0 s : State} {tag die : Nat} {es : List (Nat × Nat × Nat × Nat × Bytes × Bytes)} (hk : Only K s0 s)
    (hK : Needs 1024 K := by exact Needs.sub (by assumption) (by decide)) : Only K s0 (State.gatherDie tag die es s) := by
  induction es generalizing s with
  | nil => exact hk
  | cons e es ih =>
    unfold State.gatherDie
    split
    · rename_i s1 h; exact ih (State.gatherTarget_only hk h)
    · exact hk

theorem State.gather_only {s0 s : State} {tag : Nat} (hk : Only K s0 s)
    (hK : Needs 1024 K := by exact Needs.sub (by assumption) (by decide)) : Only K s0 (State.gather s tag) := by
  unfold State.gather
  with_reducible repeat' first
    | assumption | apply State.gatherDie_only | apply State.modStep_only | exact Needs.sub ‹_› (by decide) | apply Only.cond | refine Only.foldl ?_ fun _ _ _ => ?_
    | split | (dsimp only; split) | fail_if_no_progress refine Only.mk' ?_

theorem State.deliverValues_only {s0 s : State} {tag : Nat} {d : LineDest} {v : List Nat} (hk : Only K s0 s)
    (hK : Needs 196144 K := by exact Needs.sub (by assumption) (by decide)) : Only K s0 (State.deliverValues s tag d v) := by
  unfold State.deliverValues
  with_reducible repeat' first
    | assumption | apply State.advanceToken_only | apply State.modToken_only | refine State.appendBlock_only ?_ (by assumption)
    | apply State.failStep_only | apply State.takeValues_only | exact Needs.sub ‹_› (by decide) | apply Only.cond | split
    | (dsimp only; split) | fail_if_no_progress refine Only.mk' ?_

end Sys2Proof.Machine
end

