-- ==== Sys2Proof/Laws/FramesModes.lean ====
section
/-! SUPPORT. What the operations and meanings of Machine/Modes.lean leave as it is: the blocks outside their mask. -/

set_option Elab.async false
set_option linter.unusedTactic false
set_option linter.unreachableTactic false
set_option linter.unusedVariables false

namespace Sys2Proof.Machine

variable {K : Nat}

theorem State.modAdc_only {s0 s : State} {n : Nat} {f : Adc → Adc} (hk : Only K s0 s)
    (hK : Needs 64 K := by exact Needs.sub (by assumption) (by decide)) : Only K s0 (State.modAdc s n f) := by
  unfold State.modAdc
  with_reducible repeat' first
    | assumption | exact Needs.sub ‹_› (by decide) | fail_if_no_progress refine Only.mk' ?_

theorem State.adcReturn_only {s0 s : State} {n : Nat} (hk : Only K s0 s)
    (hK : Needs 64 K := by exact Needs.sub (by assumption) (by decide)) : Only K s0 (State.adcReturn s n) := by
  unfold State.adcReturn
  with_reducible repeat' first
    | assumption | apply State.modAdc_only | exact Needs.sub ‹_› (by decide) | apply Only.cond | split | (dsimp only; split)
    | fail_if_no_progress refine Only.mk' ?_

theorem State.endTraceAll_only {s0 s : State} (hk : Only K s0 s)
    (hK : Needs 64 K := by exact Needs.sub (by assumption) (by decide)) : Only K s0 (State.endTraceAll s) := by
  unfold State.endTraceAll
  with_reducible repeat' first
    | assumption | apply State.modAdc_only | exact Needs.sub ‹_› (by decide) | apply Only.cond | refine Only.foldl ?_ fun _ _ _ => ?_
    | split | (dsimp only; split) | fail_if_no_progress refine Only.mk' ?_

theorem State.stopTileWork_only {s0 s : State} (hk : Only K s0 s)
    (hK : Needs 90176 K := by exact Needs.sub (by assumption) (by decide)) : Only K s0 (State.stopTileWork s) := by
  unfold State.stopTileWork
  with_reducible repeat' first
    | assumption | apply State.discardRun_only | apply State.endTraceAll_only | exact Needs.sub ‹_› (by decide) | apply Only.cond
    | refine Only.foldl ?_ fun _ _ _ => ?_ | split | (dsimp only; split) | fail_if_no_progress refine Only.mk' ?_

theorem State.leaveRun_only {s0 s : State} (hk : Only K s0 s)
    (hK : Needs 90210 K := by exact Needs.sub (by assumption) (by decide)) : Only K s0 (State.leaveRun s) := by
  unfold State.leaveRun
  with_reducible repeat' first
    | assumption | apply State.discardRun_only | apply State.endTraceAll_only | apply State.stopTileWork_only
    | exact Needs.sub ‹_› (by decide) | apply Only.cond | split | (dsimp only; split) | fail_if_no_progress refine Only.mk' ?_
    | refine Only.foldl ?_ fun _ _ _ => ?_

theorem State.enterP1_only {s0 s : State} {hold : HoldReason} (hk : Only K s0 s)
    (hK : Needs 90210 K := by exact Needs.sub (by assumption) (by decide)) : Only K s0 (State.enterP1 s hold) := by
  unfold State.enterP1
  with_reducible repeat' first
    | assumption | apply State.leaveRun_only | exact Needs.sub ‹_› (by decide) | apply Only.cond | split | (dsimp only; split)
    | fail_if_no_progress refine Only.mk' ?_

theorem State.clearThrottle_only {s0 s : State} (hk : Only K s0 s)
    (hK : Needs 22 K := by exact Needs.sub (by assumption) (by decide)) : Only K s0 (State.clearThrottle s) := by
  unfold State.clearThrottle
  with_reducible repeat' first
    | assumption | apply State.raise_only | exact Needs.sub ‹_› (by decide) | apply Only.cond | split | (dsimp only; split)
    | fail_if_no_progress refine Only.mk' ?_

theorem State.loseStaging_only {s0 s : State} (hk : Only K s0 s)
    (hK : Needs 180224 K := by exact Needs.sub (by assumption) (by decide)) : Only K s0 (State.loseStaging s) := by
  unfold State.loseStaging
  with_reducible repeat' first
    | assumption | exact Needs.sub ‹_› (by decide) | apply Only.cond | split | (dsimp only; split) | fail_if_no_progress refine Only.mk' ?_

theorem State.loseVolatile_only {s0 s : State} (hk : Only K s0 s) (hK : Needs 261745 K := by exact Needs.sub (by assumption) (by decide)) : Only K s0 s.loseVolatile := by
  unfold State.loseVolatile
  exact Only.mk' hk

theorem State.cutPrograms_only {s0 s : State} (hk : Only K s0 s)
    (hK : Needs 8192 K := by exact Needs.sub (by assumption) (by decide)) : Only K s0 (State.cutPrograms s) := by
  unfold State.cutPrograms
  with_reducible repeat' first
    | assumption | exact Needs.sub ‹_› (by decide) | apply Only.cond | refine Only.foldl ?_ fun _ _ _ => ?_ | split | (dsimp only; split)
    | fail_if_no_progress refine Only.mk' ?_

theorem State.beginReset_only {s0 s : State} {hbm0 : Bool} (hk : Only K s0 s) (hK : Needs 262015 K := by exact Needs.sub (by assumption) (by decide)) : Only K s0 (s.beginReset hbm0) := by
  unfold State.beginReset
  exact Only.mk' (State.loseVolatile_only (State.cutPrograms_only hk))

theorem State.raiseStops_only {s0 s : State} (hk : Only K s0 s)
    (hK : Needs 24 K := by exact Needs.sub (by assumption) (by decide)) : Only K s0 (State.raiseStops s) := by
  unfold State.raiseStops
  with_reducible repeat' first
    | assumption | apply State.raise_only | exact Needs.sub ‹_› (by decide) | refine Only.foldl ?_ fun _ _ _ => ?_
    | fail_if_no_progress refine Only.mk' ?_

theorem State.raiseFlag_only {s0 s : State} (hk : Only K s0 s)
    (hK : Needs 24 K := by exact Needs.sub (by assumption) (by decide)) : Only K s0 (State.raiseFlag s) := by
  unfold State.raiseFlag
  with_reducible repeat' first
    | assumption | apply State.raise_only | exact Needs.sub ‹_› (by decide) | fail_if_no_progress refine Only.mk' ?_ | split
    | (dsimp only; split)

theorem State.commitSeal_only {s0 s : State} (hk : Only K s0 s)
    (hK : Needs 32 K := by exact Needs.sub (by assumption) (by decide)) : Only K s0 (State.commitSeal s) := by
  unfold State.commitSeal
  with_reducible repeat' first
    | assumption | exact Needs.sub ‹_› (by decide) | fail_if_no_progress refine Only.mk' ?_

theorem State.voidStep_only {s0 s : State} {o : OpenStep} (hk : Only K s0 s)
    (hK : Needs 185344 K := by exact Needs.sub (by assumption) (by decide)) : Only K s0 (State.voidStep s o) := by
  unfold State.voidStep
  with_reducible repeat' first
    | assumption | apply State.undoStep_only | apply State.modQueue_only | exact Needs.sub ‹_› (by decide)
    | fail_if_no_progress refine Only.mk' ?_

theorem State.notifyPorts_only {s0 s : State} {job : Nat} (hk : Only K s0 s)
    (hK : Needs 131072 K := by exact Needs.sub (by assumption) (by decide)) : Only K s0 (State.notifyPorts s job) := by
  unfold State.notifyPorts
  with_reducible repeat' first
    | assumption | apply State.sendCourier_only | exact Needs.sub ‹_› (by decide) | apply Only.cond | refine Only.foldl ?_ fun _ _ _ => ?_
    | split | (dsimp only; split) | fail_if_no_progress refine Only.mk' ?_

theorem State.endJobs_only {s0 s : State} {jobs : List Nat} (hk : Only K s0 s)
    (hK : Needs 163840 K := by exact Needs.sub (by assumption) (by decide)) : Only K s0 (State.endJobs s jobs) := by
  unfold State.endJobs
  with_reducible repeat' first
    | assumption | exact Needs.sub ‹_› (by decide) | apply Only.cond | split | (dsimp only; split) | fail_if_no_progress refine Only.mk' ?_

theorem State.deliverAll_only {s0 s : State} (hk : Only K s0 s)
    (hK : Needs 3584 K := by exact Needs.sub (by assumption) (by decide)) : Only K s0 (State.deliverAll s) := by
  unfold State.deliverAll
  with_reducible repeat' first
    | assumption | apply State.deliver_only | exact Needs.sub ‹_› (by decide) | refine Only.foldl ?_ fun _ _ _ => ?_

theorem State.drain_only {s0 s : State} {cause : Nat} {code : Nat} {source : Nat} {loc : Nat} (hk : Only K s0 s)
    (hK : Needs 261754 K := by exact Needs.sub (by assumption) (by decide)) : Only K s0 (State.drain s cause code source loc) := by
  unfold State.drain
  with_reducible repeat' first
    | assumption | apply State.notifyJob_only | apply State.voidStep_only | apply State.raise_only | apply State.deliverAll_only
    | apply State.async_only | apply State.enterP1_only | apply State.reportAbort_only | apply State.endJobs_only
    | apply State.notifyPorts_only | exact Needs.sub ‹_› (by decide) | apply Only.cond | refine Only.foldl ?_ fun _ _ _ => ?_ | split
    | (dsimp only; split) | fail_if_no_progress refine Only.mk' ?_

theorem State.restoreFranking_only {s0 s : State} (hk : Only K s0 s)
    (hK : Needs 261754 K := by exact Needs.sub (by assumption) (by decide)) : Only K s0 (State.restoreFranking s) := by
  unfold State.restoreFranking
  with_reducible repeat' first
    | assumption | apply State.drain_only | exact Needs.sub ‹_› (by decide) | apply Only.cond | split | (dsimp only; split)
    | fail_if_no_progress refine Only.mk' ?_

theorem State.startPorts_only {s0 s : State} (hk : Only K s0 s)
    (hK : Needs 131584 K := by exact Needs.sub (by assumption) (by decide)) : Only K s0 (State.startPorts s) := by
  unfold State.startPorts
  with_reducible repeat' first
    | assumption | exact Needs.sub ‹_› (by decide) | apply Only.cond | split | (dsimp only; split) | fail_if_no_progress refine Only.mk' ?_

theorem State.request_only {s0 s : State} {q : Limited} {v : Nat} (hk : Only K s0 s)
    (hK : Needs 18 K := by exact Needs.sub (by assumption) (by decide)) : Only K s0 (State.request s q v) := by
  unfold State.request
  with_reducible repeat' first
    | assumption | apply State.raise_only | exact Needs.sub ‹_› (by decide) | apply Only.cond | split
    | (dsimp only; split) | fail_if_no_progress refine Only.mk' ?_

theorem State.setPoints_only {s0 s : State} (hk : Only K s0 s)
    (hK : Needs 18 K := by exact Needs.sub (by assumption) (by decide)) : Only K s0 (State.setPoints s) := by
  unfold State.setPoints
  with_reducible repeat' first
    | assumption | apply State.request_only | exact Needs.sub ‹_› (by decide) | apply Only.cond | refine Only.foldl ?_ fun _ _ _ => ?_
    | split | (dsimp only; split) | fail_if_no_progress refine Only.mk' ?_

theorem State.firmwareStart_only {s0 s : State} (hk : Only K s0 s)
    (hK : Needs 261758 K := by exact Needs.sub (by assumption) (by decide)) : Only K s0 (State.firmwareStart s) := by
  unfold State.firmwareStart
  with_reducible repeat' first
    | assumption | apply State.commitSeal_only | apply State.restoreFranking_only | apply State.raiseFlag_only
    | apply State.raiseStops_only | apply State.setPoints_only | exact Needs.sub ‹_› (by decide) | apply Only.cond | split
    | (dsimp only; split) | fail_if_no_progress refine Only.mk' ?_

theorem State.sendWakes_only {s0 s : State} (hk : Only K s0 s)
    (hK : Needs 131072 K := by exact Needs.sub (by assumption) (by decide)) : Only K s0 (State.sendWakes s) := by
  unfold State.sendWakes
  with_reducible repeat' first
    | assumption | apply State.sendCourier_only | exact Needs.sub ‹_› (by decide) | apply Only.cond | refine Only.foldl ?_ fun _ _ _ => ?_
    | split | (dsimp only; split) | fail_if_no_progress refine Only.mk' ?_

theorem State.driveWakes_only {s0 s : State} (hk : Only K s0 s)
    (hK : Needs 131072 K := by exact Needs.sub (by assumption) (by decide)) : Only K s0 (State.driveWakes s) := by
  unfold State.driveWakes
  with_reducible repeat' first
    | assumption | exact Needs.sub ‹_› (by decide) | apply Only.cond | split | (dsimp only; split) | fail_if_no_progress refine Only.mk' ?_

theorem State.suspendLease_only {s0 s : State} (hk : Only K s0 s)
    (hK : Needs 512 K := by exact Needs.sub (by assumption) (by decide)) : Only K s0 (State.suspendLease s) := by
  unfold State.suspendLease
  with_reducible repeat' first
    | assumption | exact Needs.sub ‹_› (by decide) | apply Only.cond | split | (dsimp only; split) | fail_if_no_progress refine Only.mk' ?_

theorem State.resumeLease_only {s0 s : State} (hk : Only K s0 s)
    (hK : Needs 512 K := by exact Needs.sub (by assumption) (by decide)) : Only K s0 (State.resumeLease s) := by
  unfold State.resumeLease
  with_reducible repeat' first
    | assumption | exact Needs.sub ‹_› (by decide) | apply Only.cond | split | (dsimp only; split) | fail_if_no_progress refine Only.mk' ?_

theorem State.retrace_only {s0 s : State} (hk : Only K s0 s)
    (hK : Needs 65536 K := by exact Needs.sub (by assumption) (by decide)) : Only K s0 (State.retrace s) := by
  unfold State.retrace
  with_reducible repeat' first
    | assumption | exact Needs.sub ‹_› (by decide) | apply Only.cond | split | (dsimp only; split) | fail_if_no_progress refine Only.mk' ?_

theorem State.judgeAligned_only {s0 s : State} {was : Bool} (hk : Only K s0 s)
    (hK : Needs 17 K := by exact Needs.sub (by assumption) (by decide)) : Only K s0 (State.judgeAligned s was) := by
  unfold State.judgeAligned
  with_reducible repeat' first
    | assumption | refine State.modClock_only ?_ | apply State.raise_only | exact Needs.sub ‹_› (by decide) | apply Only.cond | split
    | (dsimp only; split) | fail_if_no_progress refine Only.mk' ?_

theorem State.arrive_only {s0 s : State} {cause : Nat} {dst : PowerState} (hk : Only K s0 s)
    (hK : Needs 66 K := by exact Needs.sub (by assumption) (by decide)) : Only K s0 (State.arrive s cause dst) := by
  unfold State.arrive
  with_reducible repeat' first
    | assumption | apply State.adcReturn_only | exact Needs.sub ‹_› (by decide) | apply Only.cond | refine Only.foldl ?_ fun _ _ _ => ?_
    | split | (dsimp only; split) | fail_if_no_progress refine Only.mk' ?_

theorem State.wakeP2_only {s0 s : State} {cause : Nat} (hk : Only K s0 s)
    (hK : Needs 204370 K := by exact Needs.sub (by assumption) (by decide)) : Only K s0 (State.wakeP2 s cause) := by
  unfold State.wakeP2
  with_reducible repeat' first
    | assumption | apply State.sendWakes_only | apply State.expireAllHeld_only | apply State.resumeLease_only | apply State.adcReturn_only
    | apply State.arrive_only | apply State.judgeAligned_only | apply State.retrace_only | exact Needs.sub ‹_› (by decide)
    | apply Only.cond | split | (dsimp only; split) | fail_if_no_progress refine Only.mk' ?_

theorem State.wakeP3_only {s0 s : State} {cause : Nat} (hk : Only K s0 s)
    (hK : Needs 204402 K := by exact Needs.sub (by assumption) (by decide)) : Only K s0 (State.wakeP3 s cause) := by
  unfold State.wakeP3
  with_reducible repeat' first
    | assumption | apply State.expireAllHeld_only | apply State.resumeLease_only | apply State.adcReturn_only | apply State.arrive_only
    | apply State.driveWakes_only | apply State.judgeAligned_only | apply State.retrace_only | exact Needs.sub ‹_› (by decide)
    | apply Only.cond | split | (dsimp only; split) | fail_if_no_progress refine Only.mk' ?_

theorem State.restoreRetained_only {s0 s : State} (hk : Only K s0 s)
    (hK : Needs 48 K := by exact Needs.sub (by assumption) (by decide)) : Only K s0 (State.restoreRetained s) := by
  unfold State.restoreRetained
  with_reducible repeat' first
    | assumption | exact Needs.sub ‹_› (by decide) | apply Only.cond | refine Only.foldl ?_ fun _ _ _ => ?_ | split | (dsimp only; split)
    | fail_if_no_progress refine Only.mk' ?_

theorem State.wakeP4_only {s0 s : State} {cause : Nat} (hk : Only K s0 s)
    (hK : Needs 261755 K := by exact Needs.sub (by assumption) (by decide)) : Only K s0 (s.wakeP4 cause) := by
  unfold State.wakeP4
  refine State.commitSeal_only (State.restoreFranking_only (State.arrive_only (Only.mk' (Only.mk' ?_))))
  exact State.driveWakes_only (State.restoreRetained_only hk)

theorem State.wakeP1_only {s0 s : State} {cause : Nat} (hk : Only K s0 s)
    (hK : Needs 66 K := by exact Needs.sub (by assumption) (by decide)) : Only K s0 (State.wakeP1 s cause) := by
  unfold State.wakeP1
  with_reducible repeat' first
    | assumption | apply State.arrive_only | exact Needs.sub ‹_› (by decide) | apply Only.cond | split | (dsimp only; split)
    | fail_if_no_progress refine Only.mk' ?_

theorem State.wake_only {s0 s : State} {cause : Nat} (hk : Only K s0 s)
    (hK : Needs 261755 K := by exact Needs.sub (by assumption) (by decide)) : Only K s0 (State.wake s cause) := by
  unfold State.wake
  with_reducible repeat' first
    | assumption | apply State.wakeP2_only | apply State.wakeP3_only | apply State.wakeP4_only | apply State.wakeP1_only
    | exact Needs.sub ‹_› (by decide) | apply Only.cond | split | (dsimp only; split) | fail_if_no_progress refine Only.mk' ?_

theorem State.wakeReattach_only {s0 s : State} (hk : Only K s0 s)
    (hK : Needs 66 K := by exact Needs.sub (by assumption) (by decide)) : Only K s0 (State.wakeReattach s) := by
  unfold State.wakeReattach
  with_reducible repeat' first
    | assumption | apply State.arrive_only | exact Needs.sub ‹_› (by decide) | apply Only.cond | split | (dsimp only; split)
    | fail_if_no_progress refine Only.mk' ?_

theorem State.reach_only {s0 s : State} {dst : PowerState} (hk : Only K s0 s) (hK : Needs 261759 K := by exact Needs.sub (by assumption) (by decide)) : Only K s0 (s.reach dst) := by
  have h := State.clearThrottle_only (State.leaveRun_only hk)
  cases dst with
  | p0 => exact State.wake_only hk
  | p1 => exact State.enterP1_only hk
  | p2 => exact Only.mk' h
  | p3 => exact Only.mk' (State.loseStaging_only h)
  | p4 => exact Only.mk' (State.loseVolatile_only h)

theorem State.entryStops_only {s0 s : State} (hk : Only K s0 s)
    (hK : Needs 90178 K := by exact Needs.sub (by assumption) (by decide)) : Only K s0 (State.entryStops s) := by
  unfold State.entryStops
  with_reducible repeat' first
    | assumption | apply State.stopTileWork_only | exact Needs.sub ‹_› (by decide) | apply Only.cond | split | (dsimp only; split)
    | fail_if_no_progress refine Only.mk' ?_

theorem State.tryEntry_only {s0 s : State} (hk : Only K s0 s)
    (hK : Needs 261759 K := by exact Needs.sub (by assumption) (by decide)) : Only K s0 (State.tryEntry s) := by
  unfold State.tryEntry
  with_reducible repeat' first
    | assumption | apply State.reach_only | apply State.entryStops_only | exact Needs.sub ‹_› (by decide) | apply Only.cond | split
    | (dsimp only; split) | fail_if_no_progress refine Only.mk' ?_

theorem State.abandonEntry_only {s0 s : State} {cause : Nat} (hk : Only K s0 s)
    (hK : Needs 530 K := by exact Needs.sub (by assumption) (by decide)) : Only K s0 (State.abandonEntry s cause) := by
  unfold State.abandonEntry
  with_reducible repeat' first
    | assumption | apply State.raise_only | apply State.resumeLease_only | exact Needs.sub ‹_› (by decide) | apply Only.cond | split
    | (dsimp only; split) | fail_if_no_progress refine Only.mk' ?_

theorem State.frameArrives_only {s0 s : State} {chan0 : Bool} (hk : Only K s0 s)
    (hK : Needs 204410 K := by exact Needs.sub (by assumption) (by decide)) : Only K s0 (State.frameArrives s chan0) := by
  unfold State.frameArrives
  with_reducible repeat' first
    | assumption | apply State.abandonEntry_only | apply State.wakeP1_only | apply State.wakeP2_only | exact Needs.sub ‹_› (by decide)
    | apply Only.cond | split | (dsimp only; split) | fail_if_no_progress refine Only.mk' ?_

theorem State.wakeForTask_only {s0 s : State} (hk : Only K s0 s)
    (hK : Needs 202362 K := by exact Needs.sub (by assumption) (by decide)) : Only K s0 (State.wakeForTask s) := by
  unfold State.wakeForTask
  with_reducible repeat' first
    | assumption | apply State.wakeP1_only | exact Needs.sub ‹_› (by decide) | apply Only.cond | split | (dsimp only; split)
    | fail_if_no_progress refine Only.mk' ?_

theorem State.scheduleWakes_only {s0 s : State} {before : State} (hk : Only K s0 s)
    (hK : Needs 66 K := by exact Needs.sub (by assumption) (by decide)) : Only K s0 (State.scheduleWakes s before) := by
  unfold State.scheduleWakes
  with_reducible repeat' first
    | assumption | apply State.wakeP1_only | exact Needs.sub ‹_› (by decide) | apply Only.cond | split | (dsimp only; split)
    | fail_if_no_progress refine Only.mk' ?_

theorem State.active_only {s0 s : State} (hk : Only K s0 s)
    (hK : Needs 2 K := by exact Needs.sub (by assumption) (by decide)) : Only K s0 (State.active s) := by
  unfold State.active
  with_reducible repeat' first
    | assumption | exact Needs.sub ‹_› (by decide) | apply Only.cond | split | (dsimp only; split) | fail_if_no_progress refine Only.mk' ?_

end Sys2Proof.Machine
end

