-- ==== Sys2Proof/Laws/FramesRecover.lean ====
section
/-! SUPPORT. What the operations and meanings of Machine/Recover.lean leave as it is: the blocks outside their mask. -/

set_option Elab.async false
set_option linter.unusedTactic false
set_option linter.unreachableTactic false
set_option linter.unusedVariables false

namespace Sys2Proof.Machine

variable {K : Nat}

theorem State.rerun_only {s0 s : State} {tag : Nat} {epoch : Nat} (hk : Only K s0 s)
    (hK : Needs 196144 K := by exact Needs.sub (by assumption) (by decide)) : Only K s0 (State.rerun s tag epoch) := by
  unfold State.rerun
  with_reducible repeat' first
    | assumption | apply State.dropWork_only | apply State.modStep_only | apply State.startEntry_only | exact Needs.sub ‹_› (by decide)
    | apply Only.cond | refine Only.foldl ?_ fun _ _ _ => ?_ | split | (dsimp only; split) | fail_if_no_progress refine Only.mk' ?_

theorem State.replayRecord_only {s0 s : State} {o : OpenStep} {code : Nat} (hk : Only K s0 s)
    (hK : Needs 16 K := by exact Needs.sub (by assumption) (by decide)) : Only K s0 (State.replayRecord s o code) := by
  unfold State.replayRecord
  with_reducible repeat' first
    | assumption | apply State.raise_only | exact Needs.sub ‹_› (by decide)

theorem State.replayNotices_only {s0 s : State} {o : OpenStep} (hk : Only K s0 s)
    (hK : Needs 187952 K := by exact Needs.sub (by assumption) (by decide)) : Only K s0 (State.replayNotices s o) := by
  unfold State.replayNotices
  exact Only.cond hk (Only.foldl hk fun _ _ hx => State.sendForJob_only hx)

theorem State.transient_only {s0 s : State} {tag : Nat} {epoch : Nat} {code : Nat} {source : Nat} {loc : Nat} (hk : Only K s0 s)
    (hK : Needs 261754 K := by exact Needs.sub (by assumption) (by decide)) : Only K s0 (State.transient s tag epoch code source loc) := by
  unfold State.transient
  with_reducible repeat' first
    | assumption | apply State.rerun_only | apply State.replayRecord_only | apply State.drain_only | apply State.replayNotices_only
    | exact Needs.sub ‹_› (by decide) | apply Only.cond | refine Only.foldl ?_ fun _ _ _ => ?_ | split | (dsimp only; split)
    | fail_if_no_progress refine Only.mk' ?_

theorem State.failStop_only {s0 s : State} {cause : StopCause} {sensor : Nat} {reading : Int} {vinMv : Nat} (hk : Only K s0 s)
    (hK : Needs 261755 K := by exact Needs.sub (by assumption) (by decide)) : Only K s0 (State.failStop s cause sensor reading vinMv) := by
  unfold State.failStop
  with_reducible repeat' first
    | assumption | apply State.loseVolatile_only | apply State.cutPrograms_only | exact Needs.sub ‹_› (by decide) | apply Only.cond | split
    | (dsimp only; split) | fail_if_no_progress refine Only.mk' ?_

theorem State.writeDump_only {s0 s : State} {cause : Nat} {core : Nat} {sections : List Nat} (hk : Only K s0 s)
    (hK : Needs 8 K := by exact Needs.sub (by assumption) (by decide)) : Only K s0 (State.writeDump s cause core sections) := by
  unfold State.writeDump
  with_reducible repeat' first
    | assumption | exact Needs.sub ‹_› (by decide) | apply Only.cond | fail_if_no_progress refine Only.mk' ?_ | split | (dsimp only; split)

theorem State.crash_only {s0 s : State} {dumpCause : Nat} {core : Nat} {code : Nat} (hk : Only K s0 s)
    (hK : Needs 261754 K := by exact Needs.sub (by assumption) (by decide)) : Only K s0 (State.crash s dumpCause core code) := by
  unfold State.crash
  with_reducible repeat' first
    | assumption | apply State.drain_only | apply State.writeDump_only | exact Needs.sub ‹_› (by decide)
    | fail_if_no_progress refine Only.mk' ?_

theorem State.bootFails_only {s0 s : State} {code : Nat} {r : Option ConfigRecord} (hk : Only K s0 s)
    (hK : Needs 520 K := by exact Needs.sub (by assumption) (by decide)) : Only K s0 (State.bootFails s code r) := by
  unfold State.bootFails
  with_reducible repeat' first
    | assumption | exact Needs.sub ‹_› (by decide) | fail_if_no_progress refine Only.mk' ?_

theorem State.loadTables_only {s0 s : State} (hk : Only K s0 s)
    (hK : Needs 4 K := by exact Needs.sub (by assumption) (by decide)) : Only K s0 (State.loadTables s) := by
  unfold State.loadTables
  with_reducible repeat' first
    | assumption | exact Needs.sub ‹_› (by decide) | apply Only.cond | split | (dsimp only; split) | fail_if_no_progress refine Only.mk' ?_

theorem State.bootChain_only {s0 s : State} (hk : Only K s0 s)
    (hK : Needs 261758 K := by exact Needs.sub (by assumption) (by decide)) : Only K s0 (State.bootChain s) := by
  unfold State.bootChain
  with_reducible repeat' first
    | assumption | apply State.bootFails_only | apply State.firmwareStart_only | apply State.startPorts_only | apply State.loadTables_only
    | exact Needs.sub ‹_› (by decide) | apply Only.cond | split | (dsimp only; split) | fail_if_no_progress refine Only.mk' ?_

theorem State.resetModule_only {s0 s : State} {hbm0 : Bool} (hk : Only K s0 s)
    (hK : Needs 262015 K := by exact Needs.sub (by assumption) (by decide)) : Only K s0 (State.resetModule s hbm0) := by
  unfold State.resetModule
  with_reducible repeat' first
    | assumption | apply State.bootChain_only | apply State.beginReset_only | exact Needs.sub ‹_› (by decide)

end Sys2Proof.Machine
end

