-- ==== Sys2Proof/Laws/FramesTileOps.lean ====
section
/-! SUPPORT. What the operations and meanings of Machine/TileOps.lean leave as it is: the blocks outside their mask. -/

set_option Elab.async false
set_option linter.unusedTactic false
set_option linter.unreachableTactic false
set_option linter.unusedVariables false

namespace Sys2Proof.Machine

variable {K : Nat}

theorem State.withSet_only {s0 s : State} {a : ArrId} {f : State → State} (hk : Only K s0 s) (hf : ∀ x , Only K s0 x → Only K s0 (f
    x ))
    (hK : Needs 16384 K := by exact Needs.sub (by assumption) (by decide)) : Only K s0 (State.withSet s a f) := by
  unfold State.withSet
  with_reducible repeat' first
    | assumption | apply hf | apply State.modTile_only | exact Needs.sub ‹_› (by decide)

theorem State.zeroDrift_only {s0 s : State} {a : ArrId} (hk : Only K s0 s)
    (hK : Needs 24576 K := by exact Needs.sub (by assumption) (by decide)) : Only K s0 (State.zeroDrift s a) := by
  unfold State.zeroDrift
  with_reducible repeat' first
    | assumption | refine State.withSet_only ?_ (fun _ _ => ?_) | apply State.setDrift_only | exact Needs.sub ‹_› (by decide)

theorem State.programUnderCover_only {s0 s : State} {tid : TileId} {k : Nat} (hk : Only K s0 s)
    (hK : Needs 24576 K := by exact Needs.sub (by assumption) (by decide)) : Only K s0 (State.programUnderCover s tid k) := by
  unfold State.programUnderCover
  with_reducible repeat' first
    | assumption | apply State.modDir_only | apply State.modTile_only | exact Needs.sub ‹_› (by decide) | apply Only.cond | split
    | (dsimp only; split) | fail_if_no_progress refine Only.mk' ?_

theorem State.askRewrite_only {s0 s : State} {a : ArrId} (hk : Only K s0 s)
    (hK : Needs 16384 K := by exact Needs.sub (by assumption) (by decide)) : Only K s0 (State.askRewrite s a) := by
  unfold State.askRewrite
  with_reducible repeat' first
    | assumption | apply State.modTile_only | exact Needs.sub ‹_› (by decide) | apply Only.cond | split | (dsimp only; split)
    | fail_if_no_progress refine Only.mk' ?_

theorem State.uncover_only {s0 s : State} {a : ArrId} (hk : Only K s0 s)
    (hK : Needs 24576 K := by exact Needs.sub (by assumption) (by decide)) : Only K s0 (State.uncover s a) := by
  unfold State.uncover
  with_reducible repeat' first
    | assumption | apply State.modDir_only | apply State.zeroDrift_only | apply State.askRewrite_only | apply State.outOfService_only
    | exact Needs.sub ‹_› (by decide) | apply Only.cond | split | (dsimp only; split) | fail_if_no_progress refine Only.mk' ?_

theorem State.applyStandIn_only {s0 s : State} {tid : TileId} (hk : Only K s0 s)
    (hK : Needs 24576 K := by exact Needs.sub (by assumption) (by decide)) : Only K s0 (State.applyStandIn s tid) := by
  unfold State.applyStandIn
  with_reducible repeat' first
    | assumption | apply State.modTile_only | apply State.idleSpare_only | apply State.programUnderCover_only | apply State.uncover_only
    | exact Needs.sub ‹_› (by decide) | apply Only.cond | split | (dsimp only; split) | fail_if_no_progress refine Only.mk' ?_

theorem State.applyNext_only {s0 s : State} {tid : TileId} (hk : Only K s0 s)
    (hK : Needs 81920 K := by exact Needs.sub (by assumption) (by decide)) : Only K s0 (State.applyNext s tid) := by
  unfold State.applyNext
  with_reducible repeat' first
    | assumption | apply State.modTile_only | exact Needs.sub ‹_› (by decide) | refine Only.foldl ?_ fun _ _ _ => ?_
    | fail_if_no_progress refine Only.mk' ?_

theorem State.boundary_only {s0 s : State} {tid : TileId} (hk : Only K s0 s)
    (hK : Needs 90112 K := by exact Needs.sub (by assumption) (by decide)) : Only K s0 (State.boundary s tid) := by
  unfold State.boundary
  with_reducible repeat' first
    | assumption | apply State.modTile_only | apply State.applyNext_only | apply State.applyStandIn_only | exact Needs.sub ‹_› (by decide)

theorem State.bankOverflow_only {s0 s : State} {tid : TileId} {arr : Nat} {tag : Nat} (hk : Only K s0 s)
    (hK : Needs 196112 K := by exact Needs.sub (by assumption) (by decide)) : Only K s0 (State.bankOverflow s tid arr tag) := by
  unfold State.bankOverflow
  with_reducible repeat' first
    | assumption | apply State.failStep_only | apply State.raise_only | exact Needs.sub ‹_› (by decide)

theorem State.closeBank_only {s0 s : State} {tid : TileId} {b : Nat} (hk : Only K s0 s)
    (hK : Needs 16384 K := by exact Needs.sub (by assumption) (by decide)) : Only K s0 (State.closeBank s tid b).1 := by
  unfold State.closeBank
  with_reducible repeat' first
    | assumption | apply State.modTile_only | exact Needs.sub ‹_› (by decide) | apply Only.cond | split | (dsimp only; split)
    | fail_if_no_progress refine Only.mk' ?_

theorem State.tryDrain_only {s0 s : State} {tid : TileId} {b : Nat} (hk : Only K s0 s)
    (hK : Needs 16384 K := by exact Needs.sub (by assumption) (by decide)) : Only K s0 (State.tryDrain s tid b) := by
  unfold State.tryDrain
  with_reducible repeat' first
    | assumption | apply State.modTile_only | exact Needs.sub ‹_› (by decide) | apply Only.cond | split | (dsimp only; split)

theorem State.countFires_only {s0 s : State} {tid : TileId} {b : Nat} {n : Nat} {close : Bool} {arr : Nat} (hk : Only K s0 s)
    (hK : Needs 196112 K := by exact Needs.sub (by assumption) (by decide)) : Only K s0 (State.countFires s tid b n close arr) := by
  unfold State.countFires
  with_reducible repeat' first
    | assumption | apply State.modTile_only | apply State.closeBank_only | apply State.bankOverflow_only | apply State.tryDrain_only
    | exact Needs.sub ‹_› (by decide) | apply Only.cond | split | (dsimp only; split) | fail_if_no_progress refine Only.mk' ?_

theorem State.addToBank_only {s0 s : State} {tid : TileId} {b : Nat} {arr : Nat} {red : Reduction} {v : List Int} (hk : Only K s0 s)
    (hK : Needs 196112 K := by exact Needs.sub (by assumption) (by decide)) : Only K s0 (State.addToBank s tid b arr red v) := by
  unfold State.addToBank
  with_reducible repeat' first
    | assumption | apply State.bankOverflow_only | apply State.modTile_only | exact Needs.sub ‹_› (by decide) | apply Only.cond

theorem State.countCompute_only {s0 s : State} {tag : Nat} {n : Nat} {a : ArrId} (hk : Only K s0 s)
    (hK : Needs 1024 K := by exact Needs.sub (by assumption) (by decide)) : Only K s0 (State.countCompute s tag n a) := by
  unfold State.countCompute
  with_reducible repeat' first
    | assumption | apply State.modStep_only | exact Needs.sub ‹_› (by decide)

theorem State.countEquiv_only {s0 s : State} {tag : Nat} {cause : Nat} {n256 : Nat} {a : ArrId} (hk : Only K s0 s)
    (hK : Needs 1024 K := by exact Needs.sub (by assumption) (by decide)) : Only K s0 (State.countEquiv s tag cause n256 a) := by
  unfold State.countEquiv
  with_reducible repeat' first
    | assumption | apply State.modStep_only | exact Needs.sub ‹_› (by decide) | apply Only.cond

theorem State.putJob_only {s0 s : State} {tid : TileId} {arr : Nat} {cause : Nat} {i : InputSlot} {mode : Nat} {red : Reduction} {b : Nat}
    (hk : Only K s0 s)
    (hK : Needs 16384 K := by exact Needs.sub (by assumption) (by decide)) : Only K s0 (State.putJob s tid arr cause i mode red b) := by
  unfold State.putJob
  with_reducible repeat' first
    | assumption | apply State.modRegion_only | apply State.modTile_only | exact Needs.sub ‹_› (by decide) | apply Only.cond | split
    | (dsimp only; split) | fail_if_no_progress refine Only.mk' ?_

theorem State.handOff_only {s0 s : State} {tid : TileId} {f : Fire} {i : InputSlot} {cause : Nat} (hk : Only K s0 s)
    (hK : Needs 196112 K := by exact Needs.sub (by assumption) (by decide)) : Only K s0 (State.handOff s tid f i cause) := by
  unfold State.handOff
  with_reducible repeat' first
    | assumption | apply State.failStep_only | apply State.modTile_only | apply State.countEquiv_only | apply State.countCompute_only
    | apply State.putJob_only | apply State.countFires_only | exact Needs.sub ‹_› (by decide) | apply Only.cond | split
    | (dsimp only; split) | fail_if_no_progress refine Only.mk' ?_

theorem State.dropDescriptor_only {s0 s : State} {tid : TileId} {k : Nat} {f : Fire} (hk : Only K s0 s)
    (hK : Needs 16400 K := by exact Needs.sub (by assumption) (by decide)) : Only K s0 (State.dropDescriptor s tid k f) := by
  unfold State.dropDescriptor
  with_reducible repeat' first
    | assumption | apply State.modTile_only | apply State.raise_only | exact Needs.sub ‹_› (by decide) | apply Only.cond | split
    | (dsimp only; split) | fail_if_no_progress refine Only.mk' ?_

theorem State.numberFire_only {s0 s : State} {tag : Nat} {die : Nat} (hk : Only K s0 s)
    (hK : Needs 263168 K := by exact Needs.sub (by assumption) (by decide)) : Only K s0 (State.numberFire s tag die).2 := by
  unfold State.numberFire
  with_reducible repeat' first
    | assumption | apply State.nextDraw_only | apply State.modStep_only | exact Needs.sub ‹_› (by decide) | apply Only.cond | split
    | (dsimp only; split) | fail_if_no_progress refine Only.mk' ?_

theorem State.latch_only {s0 s : State} {tid : TileId} {f : Fire} {i : InputSlot} {b : Nat} {first : Bool} (hk : Only K s0 s)
    (hK : Needs 279552 K := by exact Needs.sub (by assumption) (by decide)) : Only K s0 (State.latch s tid f i b first) := by
  unfold State.latch
  with_reducible repeat' first
    | assumption | apply State.numberFire_only | apply State.countCompute_only | apply State.modTile_only | apply State.modRegion_only
    | exact Needs.sub ‹_› (by decide) | apply Only.cond | split | (dsimp only; split) | fail_if_no_progress refine Only.mk' ?_

theorem State.issueNext_only {s0 s : State} {clear : Nat} {n : Nat} {tid : TileId} (hk : Only K s0 s)
    (hK : Needs 458256 K := by exact Needs.sub (by assumption) (by decide)) :
    Only K s0 (State.issueNext clear n tid s).1 := by
  induction n generalizing s with
  | zero => exact hk
  | succ n ih =>
    unfold State.issueNext
    dsimp only
    repeat' first
      | with_reducible assumption | exact Needs.sub ‹_› (by decide) | with_reducible apply ih | with_reducible apply State.failStep_only
      | with_reducible apply State.handOff_only
      | with_reducible apply State.dropDescriptor_only | with_reducible apply State.latch_only | with_reducible apply State.modTile_only | split

theorem State.runFire_only {s0 s : State} {tid : TileId} (hk : Only K s0 s)
    (hK : Needs 24576 K := by exact Needs.sub (by assumption) (by decide)) : Only K s0 (State.runFire s tid) := by
  unfold State.runFire
  with_reducible repeat' first
    | assumption | apply State.modTile_only | apply State.modFranking_only | exact Needs.sub ‹_› (by decide) | apply Only.cond | split
    | (dsimp only; split) | fail_if_no_progress refine Only.mk' ?_

theorem State.scanFire_only {s0 s : State} {tid : TileId} {k : Nat} (hk : Only K s0 s)
    (hK : Needs 16384 K := by exact Needs.sub (by assumption) (by decide)) : Only K s0 (State.scanFire s tid k) := by
  unfold State.scanFire
  with_reducible repeat' first
    | assumption | apply State.modTile_only | exact Needs.sub ‹_› (by decide) | apply Only.cond | split | (dsimp only; split)
    | fail_if_no_progress refine Only.mk' ?_

theorem State.computeSlot_only {s0 s : State} {tid : TileId} {n : Nat} (hk : Only K s0 s)
    (hK : Needs 458256 K := by exact Needs.sub (by assumption) (by decide)) : Only K s0 (State.computeSlot s tid n).1 := by
  unfold State.computeSlot
  with_reducible repeat' first
    | assumption | apply State.issueNext_only | exact Needs.sub ‹_› (by decide) | apply Only.cond | split | (dsimp only; split)
    | fail_if_no_progress refine Only.mk' ?_

theorem State.spareSlot_only {s0 s : State} {tid : TileId} (hk : Only K s0 s)
    (hK : Needs 24576 K := by exact Needs.sub (by assumption) (by decide)) : Only K s0 (State.spareSlot s tid) := by
  unfold State.spareSlot
  with_reducible repeat' first
    | assumption | apply State.runFire_only | apply State.scanFire_only | exact Needs.sub ‹_› (by decide) | apply Only.cond | split
    | (dsimp only; split) | fail_if_no_progress refine Only.mk' ?_

theorem State.chooseSlot_only {s0 s : State} {tid : TileId} {n : Nat} (hk : Only K s0 s)
    (hK : Needs 458256 K := by exact Needs.sub (by assumption) (by decide)) : Only K s0 (State.chooseSlot s tid n) := by
  unfold State.chooseSlot
  with_reducible repeat' first
    | assumption | apply State.latch_only | apply State.modTile_only | apply State.runFire_only | apply State.scanFire_only
    | apply State.computeSlot_only | apply State.spareSlot_only | exact Needs.sub ‹_› (by decide) | apply Only.cond | split
    | (dsimp only; split) | fail_if_no_progress refine Only.mk' ?_

end Sys2Proof.Machine
end

