-- ==== Sys2Proof/Laws/FramesRounds.lean ====
section
/-! SUPPORT. What the operations and meanings of Machine/Rounds.lean leave as it is: the blocks outside their mask. -/

set_option Elab.async false
set_option linter.unusedTactic false
set_option linter.unreachableTactic false
set_option linter.unusedVariables false

namespace Sys2Proof.Machine

variable {K : Nat}

theorem State.modEntry_only {s0 s : State} {tag : Nat} {i : Nat} {f : EntryWork → EntryWork} (hk : Only K s0 s)
    (hK : Needs 1024 K := by exact Needs.sub (by assumption) (by decide)) : Only K s0 (State.modEntry s tag i f) := by
  unfold State.modEntry
  with_reducible repeat' first
    | assumption | apply State.modStep_only | exact Needs.sub ‹_› (by decide)

theorem State.closeEntry_only {s0 s : State} {tag : Nat} {i : Nat} {status : Nat} {cause : Nat} (hk : Only K s0 s)
    (hK : Needs 54272 K := by exact Needs.sub (by assumption) (by decide)) : Only K s0 (State.closeEntry s tag i status cause) := by
  unfold State.closeEntry
  with_reducible repeat' first
    | assumption | apply State.releaseReserved_only | apply State.undoMatch_only | apply State.modEntry_only | apply State.dropTokens_only
    | apply State.modStep_only | apply State.selectLast_only | exact Needs.sub ‹_› (by decide) | apply Only.cond | split
    | (dsimp only; split) | fail_if_no_progress refine Only.mk' ?_

theorem State.endEntry_only {s0 s : State} {tag : Nat} {i : Nat} {status : Nat} {cause : Nat} (hk : Only K s0 s)
    (hK : Needs 54272 K := by exact Needs.sub (by assumption) (by decide)) : Only K s0 (State.endEntry s tag i status cause) := by
  unfold State.endEntry
  with_reducible repeat' first
    | assumption | apply State.slotFree_only | apply State.closeEntry_only | apply State.modEntry_only | exact Needs.sub ‹_› (by decide)
    | apply Only.cond | split | (dsimp only; split) | fail_if_no_progress refine Only.mk' ?_

theorem State.exhaustEntry_only {s0 s : State} {tag : Nat} {i : Nat} (hk : Only K s0 s)
    (hK : Needs 54288 K := by exact Needs.sub (by assumption) (by decide)) : Only K s0 (State.exhaustEntry s tag i) := by
  unfold State.exhaustEntry
  with_reducible repeat' first
    | assumption | apply State.raise_only | apply State.endEntry_only | exact Needs.sub ‹_› (by decide) | split | (dsimp only; split)

theorem State.reserveFor_only {s0 s : State} {tag : Nat} {i : Nat} {slot : Nat} {ps : List PageNeed} (hk : Only K s0 s)
    (hK : Needs 56848 K := by exact Needs.sub (by assumption) (by decide)) : Only K s0 (State.reserveFor s tag i slot ps).1 := by
  unfold State.reserveFor
  with_reducible repeat' first
    | assumption | apply State.makeRoom_only | refine State.reservePages_only ?_ (by assumption) | apply State.modEntry_only
    | apply State.exhaustEntry_only | exact Needs.sub ‹_› (by decide) | split | (dsimp only; split)

theorem State.takeChain_only {s0 s : State} {slot : Nat} {chain : List Node} (hk : Only K s0 s)
    (hK : Needs 5120 K := by exact Needs.sub (by assumption) (by decide)) : Only K s0 (State.takeChain s slot chain) := by
  unfold State.takeChain
  with_reducible repeat' first
    | assumption | apply State.setPage_only | apply State.modNode_only | apply State.modSlot_only | apply State.refNode_only
    | exact Needs.sub ‹_› (by decide) | apply Only.cond | refine Only.foldl ?_ fun _ _ _ => ?_ | split | (dsimp only; split)
    | fail_if_no_progress refine Only.mk' ?_

theorem State.copyBlock_only {s0 s : State} {slot : Nat} {n : Node} {b : Nat} (hk : Only K s0 s)
    (hK : Needs 4096 K := by exact Needs.sub (by assumption) (by decide)) : Only K s0 (State.copyBlock s slot n b) := by
  unfold State.copyBlock
  with_reducible repeat' first
    | assumption | apply State.modFrame_only | exact Needs.sub ‹_› (by decide) | apply Only.cond | refine Only.foldl ?_ fun _ _ _ => ?_
    | split | (dsimp only; split)

theorem State.matchEntry_only {s0 s : State} {tag : Nat} {i : Nat} (hk : Only K s0 s)
    (hK : Needs 196144 K := by exact Needs.sub (by assumption) (by decide)) : Only K s0 (State.matchEntry s tag i) := by
  unfold State.matchEntry
  with_reducible repeat' first
    | assumption | apply State.refNode_only | apply State.modEntry_only | apply State.takeChain_only | apply State.reserveFor_only
    | apply State.copyBlock_only | apply State.startEntry_only | apply State.modNode_only | exact Needs.sub ‹_› (by decide)
    | apply Only.cond | split | (dsimp only; split) | fail_if_no_progress refine Only.mk' ?_

theorem State.beginEntry_only {s0 s : State} {tag : Nat} {i : Nat} (hk : Only K s0 s)
    (hK : Needs 196144 K := by exact Needs.sub (by assumption) (by decide)) : Only K s0 (State.beginEntry s tag i) := by
  unfold State.beginEntry
  with_reducible repeat' first
    | assumption | apply State.reserveFor_only | apply State.startEntry_only | exact Needs.sub ‹_› (by decide) | apply Only.cond | split
    | (dsimp only; split) | fail_if_no_progress refine Only.mk' ?_

theorem State.retryStalled_only {s0 s : State} (hk : Only K s0 s)
    (hK : Needs 196144 K := by exact Needs.sub (by assumption) (by decide)) : Only K s0 (State.retryStalled s) := by
  unfold State.retryStalled
  with_reducible repeat' first
    | assumption | apply State.matchEntry_only | apply State.beginEntry_only | exact Needs.sub ‹_› (by decide) | apply Only.cond
    | refine Only.foldl ?_ fun _ _ _ => ?_ | split | (dsimp only; split) | fail_if_no_progress refine Only.mk' ?_

theorem State.dropDraft_only {s0 s : State} {slot : Nat} (hk : Only K s0 s)
    (hK : Needs 5120 K := by exact Needs.sub (by assumption) (by decide)) : Only K s0 (State.dropDraft s slot) := by
  unfold State.dropDraft
  with_reducible repeat' first
    | assumption | apply State.clearPages_only | apply State.freeFrame_only | apply State.modSlot_only | apply State.modHeld_only
    | exact Needs.sub ‹_› (by decide) | apply Only.cond | refine Only.foldl ?_ fun _ _ _ => ?_ | split | (dsimp only; split)
    | fail_if_no_progress refine Only.mk' ?_

theorem State.matchDraft_only {s0 s : State} {slot : Nat} {c : Context} (hk : Only K s0 s)
    (hK : Needs 5120 K := by exact Needs.sub (by assumption) (by decide)) : Only K s0 (State.matchDraft s slot c) := by
  unfold State.matchDraft
  with_reducible repeat' first
    | assumption | apply State.dropDraft_only | apply State.modSlot_only | exact Needs.sub ‹_› (by decide) | apply Only.cond | split
    | (dsimp only; split) | fail_if_no_progress refine Only.mk' ?_

theorem State.beginRestore_only {s0 s : State} {tag : Nat} {i : Nat} {slot : Nat} (hk : Only K s0 s)
    (hK : Needs 7696 K := by exact Needs.sub (by assumption) (by decide)) : Only K s0 (State.beginRestore s tag i slot) := by
  unfold State.beginRestore
  with_reducible repeat' first
    | assumption | apply State.finishMove_only | apply State.dropHeld_only | apply State.l2fetch_only | apply State.modHeld_only
    | apply State.modEntry_only | exact Needs.sub ‹_› (by decide) | apply Only.cond | split | (dsimp only; split)
    | fail_if_no_progress refine Only.mk' ?_

theorem State.claimEntry_only {s0 s : State} {tag : Nat} {i : Nat} {c : Context} (hk : Only K s0 s)
    (hK : Needs 56848 K := by exact Needs.sub (by assumption) (by decide)) : Only K s0 (State.claimEntry s tag i c) := by
  unfold State.claimEntry
  with_reducible repeat' first
    | assumption | apply State.expireHeld_only | apply State.endEntry_only | apply State.modSlot_only | apply State.setSlot_only
    | apply State.modEntry_only | apply State.beginRestore_only | apply State.matchDraft_only | exact Needs.sub ‹_› (by decide)
    | apply Only.cond | split | (dsimp only; split) | fail_if_no_progress refine Only.mk' ?_

theorem State.openJob_only {s0 s : State} {c : StepCmd} (hk : Only K s0 s)
    (hK : Needs 163840 K := by exact Needs.sub (by assumption) (by decide)) : Only K s0 (State.openJob s c) := by
  unfold State.openJob
  with_reducible repeat' first
    | assumption | exact Needs.sub ‹_› (by decide) | apply Only.cond | split | (dsimp only; split) | fail_if_no_progress refine Only.mk' ?_

theorem State.pushStep_only {s0 s : State} {o : OpenStep} (hk : Only K s0 s)
    (hK : Needs 1024 K := by exact Needs.sub (by assumption) (by decide)) : Only K s0 (State.pushStep s o) := by
  unfold State.pushStep
  with_reducible repeat' first
    | assumption | exact Needs.sub ‹_› (by decide) | apply Only.cond | split | (dsimp only; split) | fail_if_no_progress refine Only.mk' ?_

theorem State.closeRound_only {s0 s : State} {q : Queue} {w : Waiting} {c : StepCmd} {ctx : Context} {status : Nat} {detail : Nat} (hk :
    Only K s0 s)
    (hK : Needs 32256 K := by exact Needs.sub (by assumption) (by decide)) : Only K s0 (State.closeRound s q w c ctx status detail) := by
  unfold State.closeRound
  with_reducible repeat' first
    | assumption | apply State.endUnbegun_only | apply State.pushStep_only | exact Needs.sub ‹_› (by decide) | apply Only.cond | split
    | (dsimp only; split) | fail_if_no_progress refine Only.mk' ?_

theorem State.openStep_only {s0 s : State} {q : Queue} {w : Waiting} {c : StepCmd} {ctx : Context} {held : Bool} (hk : Only K s0 s)
    (hK : Needs 196144 K := by exact Needs.sub (by assumption) (by decide)) : Only K s0 (State.openStep s q w c ctx held) := by
  unfold State.openStep
  with_reducible repeat' first
    | assumption | apply State.modQueue_only | apply State.openJob_only | apply State.beginEntry_only | apply State.claimEntry_only
    | apply State.failStep_only | apply State.gather_only | apply State.pushStep_only | apply State.fetchSchedule_only
    | exact Needs.sub ‹_› (by decide) | apply Only.cond | refine Only.foldl ?_ fun _ _ _ => ?_ | split | (dsimp only; split)
    | fail_if_no_progress refine Only.mk' ?_

theorem State.asArrived_only {s0 s : State} {w : Waiting} (hk : Only K s0 s)
    (hK : Needs 512 K := by exact Needs.sub (by assumption) (by decide)) : Only K s0 (State.asArrived s w) := by
  unfold State.asArrived
  with_reducible repeat' first
    | assumption | exact Needs.sub ‹_› (by decide) | apply Only.cond | split | (dsimp only; split) | fail_if_no_progress refine Only.mk' ?_

theorem State.round_only {s0 s : State} {q : Queue} {w : Waiting} (hk : Only K s0 s)
    (hK : Needs 196144 K := by exact Needs.sub (by assumption) (by decide)) : Only K s0 (State.round s q w) := by
  unfold State.round
  with_reducible repeat' first
    | assumption | apply State.modQueue_only | apply State.endUnbegun_only | apply State.openStep_only | apply State.closeRound_only
    | apply State.asArrived_only | exact Needs.sub ‹_› (by decide) | apply Only.cond | split | (dsimp only; split)
    | fail_if_no_progress refine Only.mk' ?_

theorem execSortingRound_only {s : State} {core : Nat} (hK : Needs 196210 K) : KeptO K s (execSortingRound core s) := by
  unfold execSortingRound
  with_reducible repeat' first
    | assumption | apply KeptO.next | apply KeptO.fault | apply KeptO.cond | exact Only.refl _ | apply State.round_only
    | apply State.retryStalled_only | apply State.wakeP1_only | exact Needs.sub ‹_› (by decide) | apply Only.cond | split
    | (dsimp only; split) | fail_if_no_progress refine Only.mk' ?_

theorem execPrefixMatchDone_only {s : State} {stepTag : Nat} {entry : Nat} (hK : Needs 196210 K) : KeptO K s (execPrefixMatchDone
    stepTag entry s) := by
  unfold execPrefixMatchDone
  with_reducible repeat' first
    | assumption | apply KeptO.next | apply KeptO.fault | apply KeptO.cond | exact Only.refl _ | apply State.matchEntry_only
    | apply State.scheduleWakes_only | exact Needs.sub ‹_› (by decide) | apply Only.cond | split | (dsimp only; split)
    | fail_if_no_progress refine Only.mk' ?_

theorem State.restorePageOf_only {s0 s : State} {slot : Nat} (hk : Only K s0 s)
    (hK : Needs 196144 K := by exact Needs.sub (by assumption) (by decide)) : Only K s0 (State.restorePageOf s slot) := by
  unfold State.restorePageOf
  with_reducible repeat' first
    | assumption | apply State.makeRoom_only | apply State.modEntry_only | apply State.restoreOnePage_only | apply State.exhaustEntry_only
    | apply State.failStep_only | exact Needs.sub ‹_› (by decide) | apply Only.cond | split | (dsimp only; split)
    | fail_if_no_progress refine Only.mk' ?_

theorem execPageExhaustionTimeout_only {s : State} {stepTag : Nat} {entry : Nat} (hK : Needs 196145 K) : KeptO K s
    (execPageExhaustionTimeout stepTag entry s) := by
  unfold execPageExhaustionTimeout
  with_reducible repeat' first
    | assumption | apply KeptO.next | apply KeptO.fault | apply KeptO.cond | exact Only.refl _ | apply State.exhaustEntry_only
    | apply State.advanceTo_only | apply State.restorePageOf_only | apply State.retryStalled_only | exact Needs.sub ‹_› (by decide)
    | apply Only.cond | split | (dsimp only; split) | fail_if_no_progress refine Only.mk' ?_

theorem execHeldPageWritten_only {s : State} {slot : Nat} (hK : Needs 196210 K) : KeptO K s (execHeldPageWritten slot s) := by
  unfold execHeldPageWritten
  with_reducible repeat' first
    | assumption | apply KeptO.next | apply KeptO.fault | apply KeptO.cond | exact Only.refl _ | apply State.retryStalled_only
    | apply State.moveOnePage_only | apply State.restorePageOf_only | apply State.scheduleWakes_only | exact Needs.sub ‹_› (by decide)
    | apply Only.cond | split | (dsimp only; split) | fail_if_no_progress refine Only.mk' ?_

theorem execHeldExpiry_only {s : State} {slot : Nat} (hK : Needs 196211 K) : KeptO K s (execHeldExpiry slot s) := by
  unfold execHeldExpiry
  with_reducible repeat' first
    | assumption | apply KeptO.next | apply KeptO.fault | apply KeptO.cond | exact Only.refl _ | apply State.retryStalled_only
    | apply State.sweep_only | apply State.expireHeld_only | apply State.counterTo_only | apply State.scheduleWakes_only
    | exact Needs.sub ‹_› (by decide) | apply Only.cond | split | (dsimp only; split) | fail_if_no_progress refine Only.mk' ?_

theorem execOrphanSlotMove_only {s : State}  (hK : Needs 97906 K) : KeptO K s (execOrphanSlotMove s) := by
  unfold execOrphanSlotMove
  with_reducible repeat' first
    | assumption | apply KeptO.next | apply KeptO.fault | apply KeptO.cond | exact Only.refl _ | apply State.tierIdle_only
    | apply State.enterP1_only | exact Needs.sub ‹_› (by decide) | apply Only.cond | split | (dsimp only; split)
    | fail_if_no_progress refine Only.mk' ?_ | refine Only.foldl ?_ fun _ _ _ => ?_

end Sys2Proof.Machine
end

