-- ==== Sys2Proof/Laws/FramesWeights.lean ====
section
/-! SUPPORT. What the operations and meanings of Machine/Weights.lean leave as it is: the blocks outside their mask. -/

set_option Elab.async false
set_option linter.unusedTactic false
set_option linter.unreachableTactic false
set_option linter.unusedVariables false

namespace Sys2Proof.Machine

variable {K : Nat}

theorem State.passOn_only {s0 s : State} {viaDispatch : Bool} {h : ParcelHdr} {model : Nat} {index : Nat} {off : Nat} {data :
    Bytes} (hk : Only K s0 s)
    (hK : Needs 131104 K := by exact Needs.sub (by assumption) (by decide)) : Only K s0 (State.passOn s viaDispatch h model index off data) := by
  unfold State.passOn
  with_reducible repeat' first
    | assumption | apply State.originate_only | exact Needs.sub ‹_› (by decide) | apply Only.cond | refine Only.foldl ?_ fun _ _ _ => ?_
    | split | (dsimp only; split) | fail_if_no_progress refine Only.mk' ?_

theorem State.dropAssembly_only {s0 s : State} {model : Nat} {index : Nat} (hk : Only K s0 s)
    (hK : Needs 8192 K := by exact Needs.sub (by assumption) (by decide)) : Only K s0 (State.dropAssembly s model index) := by
  unfold State.dropAssembly
  with_reducible repeat' first
    | assumption | exact Needs.sub ‹_› (by decide) | fail_if_no_progress refine Only.mk' ?_

theorem State.tornParcel_only {s0 s : State} {model : Nat} {index : Nat} {off : Nat} {data : Bytes} (hk : Only K s0 s)
    (hK : Needs 8192 K := by exact Needs.sub (by assumption) (by decide)) : Only K s0 (State.tornParcel s model index off data) := by
  unfold State.tornParcel
  with_reducible repeat' first
    | assumption | exact Needs.sub ‹_› (by decide) | apply Only.cond | split | (dsimp only; split) | fail_if_no_progress refine Only.mk' ?_

theorem State.parcelData_only {s0 s : State} {viaDispatch : Bool} {model : Nat} {index : Nat} {off : Nat} {data : Bytes} (hk : Only
    K s0 s)
    (hK : Needs 139296 K := by exact Needs.sub (by assumption) (by decide)) : Only K s0 (State.parcelData s viaDispatch model index off data) := by
  unfold State.parcelData
  with_reducible repeat' first
    | assumption | apply State.passOn_only | apply State.dropAssembly_only | exact Needs.sub ‹_› (by decide) | apply Only.cond
    | refine Only.foldl ?_ fun _ _ _ => ?_ | split | (dsimp only; split) | fail_if_no_progress refine Only.mk' ?_

theorem State.parcelStatus_only {s0 s : State} {model : Nat} {index : Nat} {status : Nat} (hk : Only K s0 s)
    (hK : Needs 3600 K := by exact Needs.sub (by assumption) (by decide)) : Only K s0 (State.parcelStatus s model index status) := by
  unfold State.parcelStatus
  with_reducible repeat' first
    | assumption | apply State.async_only | exact Needs.sub ‹_› (by decide)

theorem State.acceptParcel_only {s0 s : State} {h : ParcelHdr} {b : Bytes} (hk : Only K s0 s)
    (hK : Needs 25600 K := by exact Needs.sub (by assumption) (by decide)) : Only K s0 (State.acceptParcel s h b) := by
  unfold State.acceptParcel
  with_reducible repeat' first
    | assumption | apply State.modDir_only | apply State.placeTargets_only | apply State.renewLists_only | exact Needs.sub ‹_› (by decide)
    | apply Only.cond | refine Only.foldl ?_ fun _ _ _ => ?_ | split | (dsimp only; split) | fail_if_no_progress refine Only.mk' ?_

theorem execParcelAcceptance_only {s : State} {model : Nat} {index : Nat} (hK : Needs 28176 K) : KeptO K s (execParcelAcceptance
    model index s) := by
  unfold execParcelAcceptance
  with_reducible repeat' first
    | assumption | apply KeptO.next | apply KeptO.fault | apply KeptO.cond | exact Only.refl _ | apply State.dropAssembly_only
    | apply State.parcelStatus_only | apply State.acceptParcel_only | exact Needs.sub ‹_› (by decide) | apply Only.cond | split
    | (dsimp only; split)

theorem execParcelIncompleteTimeout_only {s : State} {model : Nat} {index : Nat} (hK : Needs 11793 K) : KeptO K s
    (execParcelIncompleteTimeout model index s) := by
  unfold execParcelIncompleteTimeout
  with_reducible repeat' first
    | assumption | apply KeptO.next | apply KeptO.fault | apply KeptO.cond | exact Only.refl _ | apply State.dropAssembly_only
    | apply State.advanceTo_only | apply State.parcelStatus_only | exact Needs.sub ‹_› (by decide) | apply Only.cond | split
    | (dsimp only; split) | fail_if_no_progress refine Only.mk' ?_

theorem State.setRecord_only {s0 s : State} {a : ArrId} {r : CodeRecord} (hk : Only K s0 s)
    (hK : Needs 24576 K := by exact Needs.sub (by assumption) (by decide)) : Only K s0 (State.setRecord s a r) := by
  unfold State.setRecord
  with_reducible repeat' first
    | assumption | apply State.renewLists_only | exact Needs.sub ‹_› (by decide) | apply Only.cond | split | (dsimp only; split)
    | fail_if_no_progress refine Only.mk' ?_

theorem State.dropRecord_only {s0 s : State} {a : ArrId} (hk : Only K s0 s)
    (hK : Needs 24576 K := by exact Needs.sub (by assumption) (by decide)) : Only K s0 (State.dropRecord s a) := by
  unfold State.dropRecord
  with_reducible repeat' first
    | assumption | apply State.renewLists_only | exact Needs.sub ‹_› (by decide) | apply Only.cond | split | (dsimp only; split)
    | fail_if_no_progress refine Only.mk' ?_

theorem State.outOfService_only {s0 s : State} {a : ArrId} (hk : Only K s0 s)
    (hK : Needs 24576 K := by exact Needs.sub (by assumption) (by decide)) : Only K s0 (State.outOfService s a) := by
  unfold State.outOfService
  with_reducible repeat' first
    | assumption | apply State.modDir_only | apply State.modTile_only | apply State.discardRun_only | apply State.dropRun_only
    | apply State.programUnderCover_only | apply State.askRewrite_only | exact Needs.sub ‹_› (by decide) | apply Only.cond | split
    | (dsimp only; split) | fail_if_no_progress refine Only.mk' ?_

theorem State.startScan_only {s0 s : State} {a : ArrId} (hk : Only K s0 s)
    (hK : Needs 16384 K := by exact Needs.sub (by assumption) (by decide)) : Only K s0 (State.startScan s a) := by
  unfold State.startScan
  with_reducible repeat' first
    | assumption | apply State.modTile_only | exact Needs.sub ‹_› (by decide) | apply Only.cond | split | (dsimp only; split)
    | fail_if_no_progress refine Only.mk' ?_

theorem State.queueProgram_only {s0 s : State} {a : ArrId} (hk : Only K s0 s)
    (hK : Needs 16384 K := by exact Needs.sub (by assumption) (by decide)) : Only K s0 (State.queueProgram s a) := by
  unfold State.queueProgram
  with_reducible repeat' first
    | assumption | apply State.modTile_only | exact Needs.sub ‹_› (by decide) | apply Only.cond | split | (dsimp only; split)
    | fail_if_no_progress refine Only.mk' ?_

theorem State.bindArray_only {s0 s : State} {a : ArrId} (hk : Only K s0 s)
    (hK : Needs 24576 K := by exact Needs.sub (by assumption) (by decide)) : Only K s0 (State.bindArray s a) := by
  unfold State.bindArray
  with_reducible repeat' first
    | assumption | apply State.modDir_only | apply State.queueProgram_only | apply State.requestCal_only | apply State.startScan_only
    | exact Needs.sub ‹_› (by decide) | apply Only.cond | split | (dsimp only; split) | fail_if_no_progress refine Only.mk' ?_

theorem execRecordBuilt_only {s : State} {a : ArrId} (hK : Needs 24576 K) : KeptO K s (execRecordBuilt a s) := by
  unfold execRecordBuilt
  with_reducible repeat' first
    | assumption | apply KeptO.next | apply KeptO.fault | apply KeptO.cond | exact Only.refl _ | apply State.setRecord_only
    | apply State.modTile_only | apply State.startScan_only | apply State.modDir_only | apply State.outOfService_only
    | apply State.requestCal_only | apply State.bindArray_only | apply State.queueProgram_only | exact Needs.sub ‹_› (by decide)
    | apply Only.cond | split | (dsimp only; split) | fail_if_no_progress refine Only.mk' ?_

theorem State.beginProgram_only {s0 s : State} {t : TileId} {p : Program} (hk : Only K s0 s)
    (hK : Needs 24592 K := by exact Needs.sub (by assumption) (by decide)) : Only K s0 (State.beginProgram s t p) := by
  unfold State.beginProgram
  with_reducible repeat' first
    | assumption | apply State.modDir_only | apply State.modTile_only | apply State.raise_only | exact Needs.sub ‹_› (by decide)
    | apply Only.cond | split | (dsimp only; split) | fail_if_no_progress refine Only.mk' ?_

theorem State.rewritePlace_only {s0 s : State} {die : Nat} (hk : Only K s0 s)
    (hK : Needs 16384 K := by exact Needs.sub (by assumption) (by decide)) : Only K s0 (State.rewritePlace s die) := by
  unfold State.rewritePlace
  with_reducible repeat' first
    | assumption | apply State.modTile_only | exact Needs.sub ‹_› (by decide) | apply Only.cond | split | (dsimp only; split)

theorem State.takeDriver_only {s0 s : State} {t : TileId} {p : Program} (hk : Only K s0 s)
    (hK : Needs 24592 K := by exact Needs.sub (by assumption) (by decide)) : Only K s0 (State.takeDriver s t p) := by
  unfold State.takeDriver
  with_reducible repeat' first
    | assumption | apply State.beginProgram_only | apply State.discardRun_only | apply State.modTile_only | exact Needs.sub ‹_› (by decide)
    | apply Only.cond | split | (dsimp only; split) | fail_if_no_progress refine Only.mk' ?_

theorem execProgramStart_only {s : State} {t : TileId} (hK : Needs 24592 K) : KeptO K s (execProgramStart t s) := by
  unfold execProgramStart
  with_reducible repeat' first
    | assumption | apply KeptO.next | apply KeptO.fault | apply KeptO.cond | exact Only.refl _ | apply State.rewritePlace_only
    | apply State.takeDriver_only | exact Needs.sub ‹_› (by decide) | apply Only.cond | split | (dsimp only; split)
    | fail_if_no_progress refine Only.mk' ?_

theorem State.yieldLoad_only {s0 s : State} {t : TileId} {p : Program} (hk : Only K s0 s)
    (hK : Needs 24592 K := by exact Needs.sub (by assumption) (by decide)) : Only K s0 (State.yieldLoad s t p) := by
  unfold State.yieldLoad
  with_reducible repeat' first
    | assumption | apply State.takeDriver_only | exact Needs.sub ‹_› (by decide) | apply Only.cond | split | (dsimp only; split)
    | fail_if_no_progress refine Only.mk' ?_

theorem execProgramRowEnd_only {s : State} {t : TileId} (hK : Needs 24592 K) : KeptO K s (execProgramRowEnd t s) := by
  unfold execProgramRowEnd
  with_reducible repeat' first
    | assumption | apply KeptO.next | apply KeptO.fault | apply KeptO.cond | exact Only.refl _ | apply State.yieldLoad_only
    | apply State.modTile_only | exact Needs.sub ‹_› (by decide) | apply Only.cond | split | (dsimp only; split)
    | fail_if_no_progress refine Only.mk' ?_

theorem State.goOn_only {s0 s : State} {t : TileId} {p : Program} (hk : Only K s0 s)
    (hK : Needs 24592 K := by exact Needs.sub (by assumption) (by decide)) : Only K s0 (State.goOn s t p) := by
  unfold State.goOn
  with_reducible repeat' first
    | assumption | apply State.beginProgram_only | apply State.modTile_only | exact Needs.sub ‹_› (by decide) | apply Only.cond | split
    | (dsimp only; split) | fail_if_no_progress refine Only.mk' ?_

theorem execProgramResume_only {s : State} {t : TileId} (hK : Needs 24592 K) : KeptO K s (execProgramResume t s) := by
  unfold execProgramResume
  with_reducible repeat' first
    | assumption | apply KeptO.next | apply KeptO.fault | apply KeptO.cond | exact Only.refl _ | apply State.goOn_only
    | exact Needs.sub ‹_› (by decide) | apply Only.cond | split | (dsimp only; split) | fail_if_no_progress refine Only.mk' ?_

theorem execProgrammingDeferred_only {s : State} {t : TileId} (hK : Needs 16401 K) : KeptO K s (execProgrammingDeferred t s) := by
  unfold execProgrammingDeferred
  with_reducible repeat' first
    | assumption | apply KeptO.next | apply KeptO.fault | apply KeptO.cond | exact Only.refl _ | apply State.advanceTo_only
    | apply State.raise_only | apply State.modTile_only | exact Needs.sub ‹_› (by decide) | apply Only.cond | split | (dsimp only; split)

theorem State.programWritten_only {s0 s : State} {t : TileId} {p : Program} (hk : Only K s0 s)
    (hK : Needs 8192 K := by exact Needs.sub (by assumption) (by decide)) : Only K s0 (State.programWritten s t p) := by
  unfold State.programWritten
  with_reducible repeat' first
    | assumption | apply State.modDir_only | exact Needs.sub ‹_› (by decide) | apply Only.cond | split | (dsimp only; split)
    | fail_if_no_progress refine Only.mk' ?_

theorem State.driverFree_only {s0 s : State} {t : TileId} (hk : Only K s0 s)
    (hK : Needs 16384 K := by exact Needs.sub (by assumption) (by decide)) : Only K s0 (State.driverFree s t) := by
  unfold State.driverFree
  with_reducible repeat' first
    | assumption | apply State.modTile_only | exact Needs.sub ‹_› (by decide) | apply Only.cond | split | (dsimp only; split)
    | fail_if_no_progress refine Only.mk' ?_

theorem State.repeatProgram_only {s0 s : State} {t : TileId} {p : Program} (hk : Only K s0 s)
    (hK : Needs 24592 K := by exact Needs.sub (by assumption) (by decide)) : Only K s0 (State.repeatProgram s t p) := by
  unfold State.repeatProgram
  with_reducible repeat' first
    | assumption | apply State.beginProgram_only | apply State.modTile_only | exact Needs.sub ‹_› (by decide) | apply Only.cond | split
    | (dsimp only; split) | fail_if_no_progress refine Only.mk' ?_

theorem State.programFails_only {s0 s : State} {t : TileId} {p : Program} (hk : Only K s0 s)
    (hK : Needs 261754 K := by exact Needs.sub (by assumption) (by decide)) : Only K s0 (State.programFails s t p) := by
  unfold State.programFails
  with_reducible repeat' first
    | assumption | apply State.drain_only | apply State.driverFree_only | exact Needs.sub ‹_› (by decide) | apply Only.cond | split
    | (dsimp only; split) | fail_if_no_progress refine Only.mk' ?_

theorem execProgramComplete_only {s : State} {t : TileId} {ok : Bool} (hK : Needs 261759 K) : KeptO K s (execProgramComplete t ok s) := by
  unfold execProgramComplete
  with_reducible repeat' first
    | assumption | apply KeptO.next | apply KeptO.fault | apply KeptO.cond | exact Only.refl _ | apply State.tryEntry_only
    | apply State.programWritten_only | apply State.modTile_only | apply State.programFails_only | apply State.driverFree_only
    | apply State.repeatProgram_only | apply State.active_only | exact Needs.sub ‹_› (by decide) | apply Only.cond | split
    | (dsimp only; split) | fail_if_no_progress refine Only.mk' ?_

theorem State.askSpare_only {s0 s : State} {t : TileId} (hk : Only K s0 s)
    (hK : Needs 16384 K := by exact Needs.sub (by assumption) (by decide)) : Only K s0 (State.askSpare s t) := by
  unfold State.askSpare
  with_reducible repeat' first
    | assumption | apply State.requestCal_only | exact Needs.sub ‹_› (by decide) | apply Only.cond

theorem State.spareReady_only {s0 s : State} {t : TileId} {k : Nat} (hk : Only K s0 s)
    (hK : Needs 16384 K := by exact Needs.sub (by assumption) (by decide)) : Only K s0 (State.spareReady s t k) := by
  unfold State.spareReady
  with_reducible repeat' first
    | assumption | apply State.modTile_only | apply State.askSpare_only | exact Needs.sub ‹_› (by decide) | apply Only.cond

theorem State.loadSpare_only {s0 s : State} {t : TileId} {k : Nat} (hk : Only K s0 s)
    (hK : Needs 24576 K := by exact Needs.sub (by assumption) (by decide)) : Only K s0 (State.loadSpare s t k) := by
  unfold State.loadSpare
  with_reducible repeat' first
    | assumption | apply State.modDir_only | apply State.modTile_only | exact Needs.sub ‹_› (by decide) | apply Only.cond | split
    | (dsimp only; split) | fail_if_no_progress refine Only.mk' ?_

theorem State.claimSpare_only {s0 s : State} {t : TileId} {kind : ClaimKind} {k : Nat} (hk : Only K s0 s)
    (hK : Needs 24576 K := by exact Needs.sub (by assumption) (by decide)) : Only K s0 (State.claimSpare s t kind k) := by
  unfold State.claimSpare
  with_reducible repeat' first
    | assumption | apply State.modTile_only | apply State.spareReady_only | apply State.loadSpare_only | exact Needs.sub ‹_› (by decide)
    | apply Only.cond | split | (dsimp only; split) | fail_if_no_progress refine Only.mk' ?_

theorem State.retireSpare_only {s0 s : State} {t : TileId} (hk : Only K s0 s)
    (hK : Needs 24576 K := by exact Needs.sub (by assumption) (by decide)) : Only K s0 (State.retireSpare s t) := by
  unfold State.retireSpare
  with_reducible repeat' first
    | assumption | apply State.modDir_only | apply State.endClaim_only | apply State.idleSpare_only | exact Needs.sub ‹_› (by decide)
    | apply Only.cond | split | (dsimp only; split) | fail_if_no_progress refine Only.mk' ?_

theorem State.spareSettled_only {s0 s : State} {t : TileId} {k : Nat} {calRecord : Bool} (hk : Only K s0 s)
    (hK : Needs 24576 K := by exact Needs.sub (by assumption) (by decide)) : Only K s0 (State.spareSettled s t k calRecord) := by
  unfold State.spareSettled
  with_reducible repeat' first
    | assumption | apply State.zeroDrift_only | apply State.modDir_only | apply State.spareReady_only | apply State.modTile_only
    | apply State.idleSpare_only | apply State.loadSpare_only | exact Needs.sub ‹_› (by decide) | apply Only.cond | split
    | (dsimp only; split) | fail_if_no_progress refine Only.mk' ?_

theorem State.askIfUnsound_only {s0 s : State} {a : ArrId} (hk : Only K s0 s)
    (hK : Needs 16384 K := by exact Needs.sub (by assumption) (by decide)) : Only K s0 (State.askIfUnsound s a) := by
  unfold State.askIfUnsound
  with_reducible repeat' first
    | assumption | apply State.requestCal_only | exact Needs.sub ‹_› (by decide) | apply Only.cond | split | (dsimp only; split)
    | fail_if_no_progress refine Only.mk' ?_

theorem State.recordLost_only {s0 s : State} {a : ArrId} (hk : Only K s0 s)
    (hK : Needs 24576 K := by exact Needs.sub (by assumption) (by decide)) : Only K s0 (State.recordLost s a) := by
  unfold State.recordLost
  with_reducible repeat' first
    | assumption | apply State.outOfService_only | exact Needs.sub ‹_› (by decide) | apply Only.cond | split | (dsimp only; split)
    | fail_if_no_progress refine Only.mk' ?_

theorem State.arraySettled_only {s0 s : State} {t : TileId} {k : Nat} (hk : Only K s0 s)
    (hK : Needs 24576 K := by exact Needs.sub (by assumption) (by decide)) : Only K s0 (State.arraySettled s t k) := by
  unfold State.arraySettled
  with_reducible repeat' first
    | assumption | apply State.modDir_only | apply State.askIfUnsound_only | apply State.zeroDrift_only | apply State.modTile_only
    | apply State.recordLost_only | exact Needs.sub ‹_› (by decide) | apply Only.cond | split | (dsimp only; split)
    | fail_if_no_progress refine Only.mk' ?_

theorem execSettlingDone_only {s : State} {t : TileId} (hK : Needs 261759 K) : KeptO K s (execSettlingDone t s) := by
  unfold execSettlingDone
  with_reducible repeat' first
    | assumption | apply KeptO.next | apply KeptO.fault | apply KeptO.cond | exact Only.refl _ | apply State.modTile_only
    | apply State.spareSettled_only | apply State.arraySettled_only | apply State.tryEntry_only | apply State.retireSpare_only
    | exact Needs.sub ‹_› (by decide) | apply Only.cond | split | (dsimp only; split) | fail_if_no_progress refine Only.mk' ?_

theorem execRewriteStart_only {s : State} {a : ArrId} (hK : Needs 24576 K) : KeptO K s (execRewriteStart a s) := by
  unfold execRewriteStart
  with_reducible repeat' first
    | assumption | apply KeptO.next | apply KeptO.fault | apply KeptO.cond | exact Only.refl _ | apply State.claimSpare_only
    | apply State.programUnderCover_only | exact Needs.sub ‹_› (by decide) | apply Only.cond | split | (dsimp only; split)
    | fail_if_no_progress refine Only.mk' ?_

theorem execDirectRewriteStart_only {s : State} {a : ArrId} (hK : Needs 24592 K) : KeptO K s (execDirectRewriteStart a s) := by
  unfold execDirectRewriteStart
  with_reducible repeat' first
    | assumption | apply KeptO.next | apply KeptO.fault | apply KeptO.cond | exact Only.refl _ | apply State.modDir_only
    | apply State.rewritePlace_only | apply State.modTile_only | apply State.endClaim_only | apply State.takeDriver_only
    | exact Needs.sub ‹_› (by decide) | apply Only.cond | split | (dsimp only; split) | fail_if_no_progress refine Only.mk' ?_

theorem execVerifyScanDue_only {s : State} {a : ArrId} (hK : Needs 218746 K) : KeptO K s (execVerifyScanDue a s) := by
  unfold execVerifyScanDue
  with_reducible repeat' first
    | assumption | apply KeptO.next | apply KeptO.fault | apply KeptO.cond | exact Only.refl _ | apply State.wakeForTask_only
    | apply State.startScan_only | exact Needs.sub ‹_› (by decide) | apply Only.cond | split | (dsimp only; split)
    | fail_if_no_progress refine Only.mk' ?_

theorem State.spareFails_only {s0 s : State} {t : TileId} (hk : Only K s0 s)
    (hK : Needs 24576 K := by exact Needs.sub (by assumption) (by decide)) : Only K s0 (State.spareFails s t) := by
  unfold State.spareFails
  with_reducible repeat' first
    | assumption | apply State.dropRun_only | apply State.endClaim_only | apply State.idleSpare_only | apply State.loadSpare_only
    | apply State.modDir_only | exact Needs.sub ‹_› (by decide) | apply Only.cond | split | (dsimp only; split)
    | fail_if_no_progress refine Only.mk' ?_

theorem State.readBackFails_only {s0 s : State} {a : ArrId} {cells : Nat} (hk : Only K s0 s)
    (hK : Needs 24592 K := by exact Needs.sub (by assumption) (by decide)) : Only K s0 (State.readBackFails s a cells) := by
  unfold State.readBackFails
  with_reducible repeat' first
    | assumption | apply State.raise_only | apply State.outOfService_only | apply State.spareFails_only | apply State.modDir_only
    | apply State.queueProgram_only | exact Needs.sub ‹_› (by decide) | apply Only.cond | split | (dsimp only; split)
    | fail_if_no_progress refine Only.mk' ?_

theorem execVerifyScanDone_only {s : State} {a : ArrId} {raw : List (List (List Int))} (hK : Needs 286738 K) : KeptO K s
    (execVerifyScanDone a raw s) := by
  unfold execVerifyScanDone
  with_reducible repeat' first
    | assumption | apply KeptO.next | apply KeptO.fault | apply KeptO.cond | exact Only.refl _ | apply State.modTile_only
    | refine State.withSet_only ?_ (fun _ _ => ?_) | apply State.setDrift_only | apply State.readBackFails_only
    | apply State.askIfUnsound_only | apply State.modDir_only | apply State.nextDraw_only | apply State.active_only
    | exact Needs.sub ‹_› (by decide) | apply Only.cond | split | (dsimp only; split) | fail_if_no_progress refine Only.mk' ?_

theorem execDriftOutOfService_only {s : State} {a : ArrId} (hK : Needs 24592 K) : KeptO K s (execDriftOutOfService a s) := by
  unfold execDriftOutOfService
  with_reducible repeat' first
    | assumption | apply KeptO.next | apply KeptO.fault | apply KeptO.cond | exact Only.refl _ | apply State.outOfService_only
    | apply State.raise_only | apply State.spareFails_only | exact Needs.sub ‹_› (by decide) | apply Only.cond | split
    | (dsimp only; split) | fail_if_no_progress refine Only.mk' ?_

theorem State.invalidateMaster_only {s0 s : State} {model : Nat} {index : Nat} (hk : Only K s0 s)
    (hK : Needs 11792 K := by exact Needs.sub (by assumption) (by decide)) : Only K s0 (State.invalidateMaster s model index) := by
  unfold State.invalidateMaster
  with_reducible repeat' first
    | assumption | apply State.async_only | exact Needs.sub ‹_› (by decide) | apply Only.cond | fail_if_no_progress refine Only.mk' ?_
    | split | (dsimp only; split)

theorem State.rebuildRecord_only {s0 s : State} {a : ArrId} (hk : Only K s0 s)
    (hK : Needs 28176 K := by exact Needs.sub (by assumption) (by decide)) : Only K s0 (State.rebuildRecord s a) := by
  unfold State.rebuildRecord
  with_reducible repeat' first
    | assumption | apply State.setRecord_only | apply State.outOfService_only | apply State.invalidateMaster_only
    | apply State.dropRecord_only | exact Needs.sub ‹_› (by decide) | apply Only.cond | split | (dsimp only; split)
    | fail_if_no_progress refine Only.mk' ?_

theorem execRedigest_only {s : State} {masters : List (Nat × Nat)} {records : List ArrId} (hK : Needs 228986 K) : KeptO K s
    (execRedigest masters records s) := by
  unfold execRedigest
  with_reducible repeat' first
    | assumption | apply KeptO.next | apply KeptO.fault | apply KeptO.cond | exact Only.refl _ | apply State.wakeForTask_only
    | apply State.rebuildRecord_only | apply State.invalidateMaster_only | exact Needs.sub ‹_› (by decide) | apply Only.cond
    | refine Only.foldl ?_ fun _ _ _ => ?_ | split | (dsimp only; split)

theorem State.refreshTile_only {s0 s : State} {t : TileId} (hk : Only K s0 s)
    (hK : Needs 16384 K := by exact Needs.sub (by assumption) (by decide)) : Only K s0 (s.refreshTile t) :=
  Only.foldl hk fun _ _ h => State.withSet_only h fun _ g => g

theorem execInterpolationCheck_only {s : State} {die : Nat} {region : Nat} (hK : Needs 16384 K) : KeptO K s (execInterpolationCheck
    die region s) := by
  unfold execInterpolationCheck
  with_reducible repeat' first
    | assumption | apply KeptO.next | apply KeptO.fault | apply KeptO.cond | exact Only.refl _ | apply State.setRegion_only
    | apply State.modRegion_only | apply State.refreshTile_only | exact Needs.sub ‹_› (by decide) | apply Only.cond
    | refine Only.foldl ?_ fun _ _ _ => ?_ | split | (dsimp only; split)

end Sys2Proof.Machine
end

