-- ==== Sys2Proof/Laws/FramesCalibrate.lean ====
section
/-! SUPPORT. What the operations and meanings of Machine/Calibrate.lean leave as it is: the blocks outside their mask. -/

set_option Elab.async false
set_option linter.unusedTactic false
set_option linter.unreachableTactic false
set_option linter.unusedVariables false

namespace Sys2Proof.Machine

variable {K : Nat}

theorem State.dropStaleClaim_only {s0 s : State} {t : TileId} (hk : Only K s0 s)
    (hK : Needs 16384 K := by exact Needs.sub (by assumption) (by decide)) : Only K s0 (State.dropStaleClaim s t) := by
  unfold State.dropStaleClaim
  with_reducible repeat' first
    | assumption | apply State.endClaim_only | exact Needs.sub ‹_› (by decide) | apply Only.cond | split | (dsimp only; split)
    | fail_if_no_progress refine Only.mk' ?_

theorem State.claimForRun_only {s0 s : State} {t : TileId} (hk : Only K s0 s)
    (hK : Needs 24576 K := by exact Needs.sub (by assumption) (by decide)) : Only K s0 (State.claimForRun s t) := by
  unfold State.claimForRun
  with_reducible repeat' first
    | assumption | apply State.claimSpare_only | exact Needs.sub ‹_› (by decide) | apply Only.cond | split | (dsimp only; split)
    | fail_if_no_progress refine Only.mk' ?_

theorem State.queueCalRecords_only {s0 s : State} {t : TileId} (hk : Only K s0 s)
    (hK : Needs 16384 K := by exact Needs.sub (by assumption) (by decide)) : Only K s0 (State.queueCalRecords s t) := by
  unfold State.queueCalRecords
  with_reducible repeat' first
    | assumption | apply State.modTile_only | exact Needs.sub ‹_› (by decide)

theorem State.startRun_only {s0 s : State} {t : TileId} {r : CalRequest} (hk : Only K s0 s)
    (hK : Needs 16384 K := by exact Needs.sub (by assumption) (by decide)) : Only K s0 (State.startRun s t r) := by
  unfold State.startRun
  with_reducible repeat' first
    | assumption | apply State.modTile_only | exact Needs.sub ‹_› (by decide) | apply Only.cond | split | (dsimp only; split)
    | fail_if_no_progress refine Only.mk' ?_

theorem execCalibrationRunStart_only {s : State} {t : TileId} (hK : Needs 226938 K) : KeptO K s (execCalibrationRunStart t s) := by
  unfold execCalibrationRunStart
  with_reducible repeat' first
    | assumption | apply KeptO.next | apply KeptO.fault | apply KeptO.cond | exact Only.refl _ | apply State.queueCalRecords_only
    | apply State.claimForRun_only | apply State.startRun_only | apply State.dropStaleClaim_only | apply State.wakeForTask_only
    | exact Needs.sub ‹_› (by decide) | apply Only.cond | split | (dsimp only; split) | fail_if_no_progress refine Only.mk' ?_

theorem State.setTileRecord_only {s0 s : State} {r : TileRecord} (hk : Only K s0 s)
    (hK : Needs 65536 K := by exact Needs.sub (by assumption) (by decide)) : Only K s0 (State.setTileRecord s r) := by
  unfold State.setTileRecord
  with_reducible repeat' first
    | assumption | exact Needs.sub ‹_› (by decide) | fail_if_no_progress refine Only.mk' ?_

theorem State.spareCalibrated_only {s0 s : State} {t : TileId} (hk : Only K s0 s)
    (hK : Needs 16384 K := by exact Needs.sub (by assumption) (by decide)) : Only K s0 (State.spareCalibrated s t) := by
  unfold State.spareCalibrated
  with_reducible repeat' first
    | assumption | apply State.spareReady_only | exact Needs.sub ‹_› (by decide) | apply Only.cond | split | (dsimp only; split)

theorem State.runSucceeds_only {s0 s : State} {t : TileId} {r : CalRun} {anchor : Anchor} {shape : List Anchor} (hk : Only K s0 s)
    (hK : Needs 90112 K := by exact Needs.sub (by assumption) (by decide)) : Only K s0 (State.runSucceeds s t r anchor shape) := by
  unfold State.runSucceeds
  with_reducible repeat' first
    | assumption | refine State.withSet_only ?_ (fun _ _ => ?_) | apply State.setFranking_only | apply State.setTileRecord_only
    | apply State.modTile_only | apply State.startScan_only | apply State.spareCalibrated_only | exact Needs.sub ‹_› (by decide)
    | apply Only.cond | split | (dsimp only; split) | fail_if_no_progress refine Only.mk' ?_

theorem State.promote_only {s0 s : State} {a : ArrId} (hk : Only K s0 s)
    (hK : Needs 16384 K := by exact Needs.sub (by assumption) (by decide)) : Only K s0 (State.promote s a) := by
  unfold State.promote
  with_reducible repeat' first
    | assumption | apply State.modTile_only | exact Needs.sub ‹_› (by decide) | apply Only.cond | split | (dsimp only; split)
    | fail_if_no_progress refine Only.mk' ?_

theorem State.runFailed_only {s0 s : State} {a : ArrId} (hk : Only K s0 s)
    (hK : Needs 16400 K := by exact Needs.sub (by assumption) (by decide)) : Only K s0 (State.runFailed s a) := by
  unfold State.runFailed
  with_reducible repeat' first
    | assumption | apply State.askIfUnsound_only | apply State.raise_only | exact Needs.sub ‹_› (by decide) | apply Only.cond | split
    | (dsimp only; split) | fail_if_no_progress refine Only.mk' ?_

theorem State.runFails_only {s0 s : State} {t : TileId} {r : CalRun} (hk : Only K s0 s)
    (hK : Needs 261754 K := by exact Needs.sub (by assumption) (by decide)) : Only K s0 (State.runFails s t r) := by
  unfold State.runFails
  with_reducible repeat' first
    | assumption | apply State.modFranking_only | apply State.modTile_only | apply State.drain_only | apply State.raise_only
    | apply State.askIfUnsound_only | apply State.promote_only | apply State.runFailed_only | exact Needs.sub ‹_› (by decide)
    | apply Only.cond | split | (dsimp only; split) | fail_if_no_progress refine Only.mk' ?_

theorem execCalibrationFitDone_only {s : State} {t : TileId} {raw : List (List Int)} {overRange : Bool} (hK : Needs 261754 K) :
    KeptO K s (execCalibrationFitDone t raw overRange s) := by
  unfold execCalibrationFitDone
  with_reducible repeat' first
    | assumption | apply KeptO.next | apply KeptO.fault | apply KeptO.cond | exact Only.refl _ | apply State.runFails_only
    | apply State.runSucceeds_only | apply State.active_only | exact Needs.sub ‹_› (by decide) | apply Only.cond | split
    | (dsimp only; split) | fail_if_no_progress refine Only.mk' ?_

theorem State.afterCal_only {s0 s : State} {a : ArrId} {n : Nat} (hk : Only K s0 s)
    (hK : Needs 1 K := by exact Needs.sub (by assumption) (by decide)) : Only K s0 (State.afterCal s a n) := by
  unfold State.afterCal
  with_reducible repeat' first
    | assumption | apply State.counterTo_only | exact Needs.sub ‹_› (by decide) | apply Only.cond | split | (dsimp only; split)

theorem execCalibrationAgeTimer_only {s : State} {a : ArrId} (hK : Needs 16385 K) : KeptO K s (execCalibrationAgeTimer a s) := by
  unfold execCalibrationAgeTimer
  with_reducible repeat' first
    | assumption | apply KeptO.next | apply KeptO.fault | apply KeptO.cond | exact Only.refl _ | apply State.requestCal_only
    | apply State.afterCal_only | exact Needs.sub ‹_› (by decide) | apply Only.cond | split | (dsimp only; split)
    | fail_if_no_progress refine Only.mk' ?_

theorem execCalibrationExpiry_only {s : State} {a : ArrId} (hK : Needs 16385 K) : KeptO K s (execCalibrationExpiry a s) := by
  unfold execCalibrationExpiry
  with_reducible repeat' first
    | assumption | apply KeptO.next | apply KeptO.fault | apply KeptO.cond | exact Only.refl _ | apply State.askIfUnsound_only
    | apply State.afterCal_only | apply State.promote_only | exact Needs.sub ‹_› (by decide) | apply Only.cond | split
    | (dsimp only; split) | fail_if_no_progress refine Only.mk' ?_

theorem State.beginTraceAll_only {s0 s : State} (hk : Only K s0 s)
    (hK : Needs 64 K := by exact Needs.sub (by assumption) (by decide)) : Only K s0 (State.beginTraceAll s) := by
  unfold State.beginTraceAll
  with_reducible repeat' first
    | assumption | apply State.modAdc_only | exact Needs.sub ‹_› (by decide) | refine Only.foldl ?_ fun _ _ _ => ?_

theorem State.startTrace_only {s0 s : State} (hk : Only K s0 s)
    (hK : Needs 65600 K := by exact Needs.sub (by assumption) (by decide)) : Only K s0 (State.startTrace s) := by
  unfold State.startTrace
  with_reducible repeat' first
    | assumption | apply State.beginTraceAll_only | exact Needs.sub ‹_› (by decide) | fail_if_no_progress refine Only.mk' ?_

theorem State.hourAfterTrace_only {s0 s : State} (hk : Only K s0 s) {t : State} (e : s.hourAfterTrace = some t)
    (hK : Needs 1 K := by exact Needs.sub (by assumption) (by decide)) : Only K s0 t := by
  unfold State.hourAfterTrace at e
  split at e
  · cases e; exact State.counterTo_only hk
  · cases e

theorem execTraceTimer_only {s : State}
    (hK : Needs 202363 K := by exact Needs.sub (by assumption) (by decide)) : KeptO K s (execTraceTimer s) := by
  unfold execTraceTimer
  dsimp only
  split
  · exact KeptO.next (Only.refl _)
  · rename_i s1 h
    have k : Only K s s1 := by
      split at h
      · cases h; exact Only.refl _
      · exact State.hourAfterTrace_only (Only.refl _) h
    exact KeptO.next (Only.ifs (fun _ => State.startTrace_only (State.wakeForTask_only k)) fun _ => State.wakeForTask_only k)

theorem State.trimRequests_only {s0 s : State} {die : Nat} {new : Int × Int} (hk : Only K s0 s)
    (hK : Needs 16384 K := by exact Needs.sub (by assumption) (by decide)) : Only K s0 (State.trimRequests s die new) := by
  unfold State.trimRequests
  with_reducible repeat' first
    | assumption | apply State.requestCal_only | exact Needs.sub ‹_› (by decide) | apply Only.cond | refine Only.foldl ?_ fun _ _ _ => ?_
    | split | (dsimp only; split) | fail_if_no_progress refine Only.mk' ?_

theorem State.tracePasses_only {s0 s : State} {refin : List Nat} {ladder : List Nat} {vcref : List Nat} (hk : Only K s0 s)
    (hK : Needs 81920 K := by exact Needs.sub (by assumption) (by decide)) : Only K s0 (State.tracePasses s refin ladder vcref) := by
  unfold State.tracePasses
  with_reducible repeat' first
    | assumption | apply State.trimRequests_only | exact Needs.sub ‹_› (by decide) | apply Only.cond | refine Only.foldl ?_ fun _ _ _ => ?_
    | split | (dsimp only; split) | fail_if_no_progress refine Only.mk' ?_

theorem State.traceEnds_only {s0 s : State} {refin : List Nat} (hk : Only K s0 s)
    (hK : Needs 65600 K := by exact Needs.sub (by assumption) (by decide)) : Only K s0 (State.traceEnds s refin) := by
  unfold State.traceEnds
  with_reducible repeat' first
    | assumption | apply State.endTraceAll_only | exact Needs.sub ‹_› (by decide) | apply Only.cond | split | (dsimp only; split)
    | fail_if_no_progress refine Only.mk' ?_

theorem execTraceDone_only {s : State} {refin : List Nat} {ladder : List Nat} {vcref : List Nat} (hK : Needs 82000 K) : KeptO K s
    (execTraceDone refin ladder vcref s) := by
  unfold execTraceDone
  with_reducible repeat' first
    | assumption | apply KeptO.next | apply KeptO.fault | apply KeptO.cond | exact Only.refl _ | apply State.tracePasses_only
    | apply State.raise_only | apply State.traceEnds_only | exact Needs.sub ‹_› (by decide) | apply Only.cond | split | (dsimp only; split)
    | fail_if_no_progress refine Only.mk' ?_

theorem execReferenceUntraced_only {s : State}  (hK : Needs 65553 K) : KeptO K s (execReferenceUntraced s) := by
  unfold execReferenceUntraced
  with_reducible repeat' first
    | assumption | apply KeptO.next | apply KeptO.fault | apply KeptO.cond | exact Only.refl _ | apply State.counterTo_only
    | apply State.raise_only | exact Needs.sub ‹_› (by decide) | apply Only.cond | fail_if_no_progress refine Only.mk' ?_ | split
    | (dsimp only; split)

theorem State.firstWarnings_only {s0 s : State} {before : State} {keep : ArrId → Bool} (hk : Only K s0 s)
    (hK : Needs 16 K := by exact Needs.sub (by assumption) (by decide)) : Only K s0 (State.firstWarnings s before keep) := by
  unfold State.firstWarnings
  with_reducible repeat' first
    | assumption | apply State.raise_only | exact Needs.sub ‹_› (by decide) | apply Only.cond | refine Only.foldl ?_ fun _ _ _ => ?_
    | split | (dsimp only; split) | fail_if_no_progress refine Only.mk' ?_

theorem State.firstEver_only {s0 s : State} {anchors : List (ArrId × Option Anchor)} (hk : Only K s0 s)
    (hK : Needs 90112 K := by exact Needs.sub (by assumption) (by decide)) : Only K s0 (State.firstEver s anchors) := by
  unfold State.firstEver
  with_reducible repeat' first
    | assumption | exact Needs.sub ‹_› (by decide) | apply Only.cond | refine Only.foldl ?_ fun _ _ _ => ?_ | split | (dsimp only; split)
    | fail_if_no_progress refine Only.mk' ?_

theorem State.startTrims_only {s0 s : State} {refin : List Nat} {ladder : List Nat} {vcref : List Nat} (hk : Only K s0 s)
    (hK : Needs 65536 K := by exact Needs.sub (by assumption) (by decide)) : Only K s0 (State.startTrims s refin ladder vcref) := by
  unfold State.startTrims
  with_reducible repeat' first
    | assumption | exact Needs.sub ‹_› (by decide) | apply Only.cond | split | (dsimp only; split) | fail_if_no_progress refine Only.mk' ?_

theorem State.firstFails_only {s0 s : State} {anchors : List (ArrId × Option Anchor)} (hk : Only K s0 s)
    (hK : Needs 261754 K := by exact Needs.sub (by assumption) (by decide)) : Only K s0 (State.firstFails s anchors) := by
  unfold State.firstFails
  with_reducible repeat' first
    | assumption | apply State.drain_only | apply State.raise_only | apply State.runFailed_only | exact Needs.sub ‹_› (by decide)
    | apply Only.cond | refine Only.foldl ?_ fun _ _ _ => ?_ | split | (dsimp only; split) | fail_if_no_progress refine Only.mk' ?_

theorem execFirstEverCalibration_only {s : State} {trace : TraceReadings} {runs : List (ArrId × List (List Int) ×
    Bool)} (hK : Needs 261754 K) : KeptO K s (execFirstEverCalibration trace runs s) := by
  unfold execFirstEverCalibration
  with_reducible repeat' first
    | assumption | apply KeptO.next | apply KeptO.fault | apply KeptO.cond | exact Only.refl _ | apply State.startTrace_only
    | apply State.firstEver_only | apply State.raise_only | apply State.firstFails_only | apply State.startTrims_only
    | apply State.traceEnds_only | apply State.firstWarnings_only | exact Needs.sub ‹_› (by decide) | apply Only.cond | split
    | (dsimp only; split) | fail_if_no_progress refine Only.mk' ?_

theorem State.watchRun_only {s0 s : State} {t : TileId} (hk : Only K s0 s)
    (hK : Needs 24576 K := by exact Needs.sub (by assumption) (by decide)) : Only K s0 (State.watchRun s t) := by
  unfold State.watchRun
  with_reducible repeat' first
    | assumption | apply State.modTile_only | apply State.modFranking_only | exact Needs.sub ‹_› (by decide) | apply Only.cond | split
    | (dsimp only; split) | fail_if_no_progress refine Only.mk' ?_

theorem State.resolveStamps_only {s0 s : State} {v : Nat} (hk : Only K s0 s)
    (hK : Needs 90624 K := by exact Needs.sub (by assumption) (by decide)) : Only K s0 (State.resolveStamps s v) := by
  unfold State.resolveStamps
  with_reducible repeat' first
    | assumption | exact Needs.sub ‹_› (by decide) | apply Only.cond | split | (dsimp only; split) | fail_if_no_progress refine Only.mk' ?_

end Sys2Proof.Machine
end

