-- ==== Sys2Proof/Laws/FramesRegisters.lean ====
section
/-! SUPPORT. What the operations and meanings of Machine/Registers.lean leave as it is: the blocks outside their mask. -/

set_option Elab.async false
set_option linter.unusedTactic false
set_option linter.unreachableTactic false
set_option linter.unusedVariables false

namespace Sys2Proof.Machine

variable {K : Nat}

theorem State.modBox_only {s0 s : State} {n : Nat} {f : Letterbox → Letterbox} (hk : Only K s0 s)
    (hK : Needs 32 K := by exact Needs.sub (by assumption) (by decide)) : Only K s0 (State.modBox s n f) := by
  unfold State.modBox
  with_reducible repeat' first
    | assumption | exact Needs.sub ‹_› (by decide) | fail_if_no_progress refine Only.mk' ?_

theorem State.selectBox_only {s0 s : State} {n : Nat} {v : Nat} (hk : Only K s0 s)
    (hK : Needs 32 K := by exact Needs.sub (by assumption) (by decide)) : Only K s0 (State.selectBox s n v) := by
  unfold State.selectBox
  with_reducible repeat' first
    | assumption | apply State.modBox_only | exact Needs.sub ‹_› (by decide) | apply Only.cond

theorem execLetterboxSnapshotDone_only {s : State} {n : Nat} (hK : Needs 32 K) : KeptO K s (execLetterboxSnapshotDone n s) := by
  unfold execLetterboxSnapshotDone
  with_reducible repeat' first
    | assumption | apply KeptO.next | apply KeptO.fault | apply KeptO.cond | exact Only.refl _ | apply State.modBox_only
    | exact Needs.sub ‹_› (by decide) | apply Only.cond | split | (dsimp only; split)

theorem State.clearRecords_only {s0 s : State} {v : Nat} (hk : Only K s0 s) (hK : Needs 16 K := by exact Needs.sub (by assumption) (by decide)) : Only K s0 (s.clearRecords v) := by
  unfold State.clearRecords
  split
  · exact Only.mk' hk
  · exact hk

theorem State.modSeal_only {s0 s : State} {f : Seal → Seal} (hk : Only K s0 s)
    (hK : Needs 32 K := by exact Needs.sub (by assumption) (by decide)) : Only K s0 (State.modSeal s f) := by
  unfold State.modSeal
  with_reducible repeat' first
    | assumption | exact Needs.sub ‹_› (by decide) | fail_if_no_progress refine Only.mk' ?_

theorem State.openSeal_only {s0 s : State} (hk : Only K s0 s)
    (hK : Needs 32 K := by exact Needs.sub (by assumption) (by decide)) : Only K s0 (State.openSeal s) := by
  unfold State.openSeal
  with_reducible repeat' first
    | assumption | apply State.modSeal_only | exact Needs.sub ‹_› (by decide) | apply Only.cond | split | (dsimp only; split)
    | fail_if_no_progress refine Only.mk' ?_

theorem State.sealAction_only {s0 s : State} {v : Nat} (hk : Only K s0 s)
    (hK : Needs 32 K := by exact Needs.sub (by assumption) (by decide)) : Only K s0 (State.sealAction s v) := by
  unfold State.sealAction
  with_reducible repeat' first
    | assumption | apply State.openSeal_only | apply State.commitSeal_only | exact Needs.sub ‹_› (by decide) | apply Only.cond

theorem State.upset_only {s0 s : State} {u : Nat × Word} (hk : Only K s0 s)
    (hK : Needs 32 K := by exact Needs.sub (by assumption) (by decide)) : Only K s0 (State.upset s u) := by
  unfold State.upset
  with_reducible repeat' first
    | assumption | apply State.store_only | exact Needs.sub ‹_› (by decide) | apply Only.cond | split | (dsimp only; split)

theorem State.scanned_only {s0 s : State} {crc : Word} (hk : Only K s0 s)
    (hK : Needs 261754 K := by exact Needs.sub (by assumption) (by decide)) : Only K s0 (State.scanned s crc) := by
  unfold State.scanned
  with_reducible repeat' first
    | assumption | apply State.modSeal_only | apply State.drain_only | apply State.raise_only | exact Needs.sub ‹_› (by decide)
    | apply Only.cond | split | (dsimp only; split)

theorem execSealScan_only {s : State} {upsets : List (Nat × Word)} (hK : Needs 261754 K) : KeptO K s (execSealScan upsets s) := by
  unfold execSealScan
  with_reducible repeat' first
    | assumption | apply KeptO.next | apply KeptO.fault | apply KeptO.cond | exact Only.refl _ | apply State.upset_only
    | apply State.scanned_only | exact Needs.sub ‹_› (by decide) | apply Only.cond | refine Only.foldl ?_ fun _ _ _ => ?_ | split
    | (dsimp only; split)

theorem execSealOpenTimeout_only {s : State}  (hK : Needs 49 K) : KeptO K s (execSealOpenTimeout s) := by
  unfold execSealOpenTimeout
  with_reducible repeat' first
    | assumption | apply KeptO.next | apply KeptO.fault | apply KeptO.cond | exact Only.refl _ | apply State.advanceTo_only
    | apply State.raise_only | apply State.modSeal_only | exact Needs.sub ‹_› (by decide) | apply Only.cond | split | (dsimp only; split)

theorem State.markRead_only {s0 s : State} {slot : Nat} (hk : Only K s0 s)
    (hK : Needs 8 K := by exact Needs.sub (by assumption) (by decide)) : Only K s0 (State.markRead s slot) := by
  unfold State.markRead
  with_reducible repeat' first
    | assumption | exact Needs.sub ‹_› (by decide) | fail_if_no_progress refine Only.mk' ?_

theorem State.deadControl_only {s0 s : State} {v : Nat} (hk : Only K s0 s)
    (hK : Needs 262015 K := by exact Needs.sub (by assumption) (by decide)) : Only K s0 (State.deadControl s v) := by
  unfold State.deadControl
  with_reducible repeat' first
    | assumption | apply State.markRead_only | apply State.resetModule_only | exact Needs.sub ‹_› (by decide) | apply Only.cond
    | fail_if_no_progress refine Only.mk' ?_

theorem State.adcActions_only {s0 s : State} {n : Nat} {acts : List AdcAction} (hk : Only K s0 s)
    (hK : Needs 64 K := by exact Needs.sub (by assumption) (by decide)) : Only K s0 (State.adcActions s n acts) := by
  unfold State.adcActions
  with_reducible repeat' first
    | assumption | apply State.modAdc_only | exact Needs.sub ‹_› (by decide) | apply Only.cond | refine Only.foldl ?_ fun _ _ _ => ?_

theorem State.writeAdcCtl_only {s0 s : State} {n : Nat} {v : Nat} (hk : Only K s0 s)
    (hK : Needs 96 K := by exact Needs.sub (by assumption) (by decide)) : Only K s0 (State.writeAdcCtl s n v) := by
  unfold State.writeAdcCtl
  with_reducible repeat' first
    | assumption | apply State.store_only | apply State.modAdc_only | apply State.adcActions_only | exact Needs.sub ‹_› (by decide)
    | apply Only.cond | split | (dsimp only; split) | fail_if_no_progress refine Only.mk' ?_

theorem State.restartStale_only {s0 s : State} (hk : Only K s0 s)
    (hK : Needs 512 K := by exact Needs.sub (by assumption) (by decide)) : Only K s0 (State.restartStale s) := by
  unfold State.restartStale
  with_reducible repeat' first
    | assumption | exact Needs.sub ‹_› (by decide) | apply Only.cond | split | (dsimp only; split) | fail_if_no_progress refine Only.mk' ?_

theorem State.putRegister_only {s0 s : State} {p : Path} {a : Nat} {v : Nat} (hk : Only K s0 s)
    (hK : Needs 262015 K := by exact Needs.sub (by assumption) (by decide)) : Only K s0 (State.putRegister s p a v) := by
  unfold State.putRegister
  with_reducible repeat' first
    | assumption | apply State.store_only | apply State.selectBox_only | apply State.modBox_only | apply State.clearRecords_only
    | apply State.sealAction_only | apply State.restartStale_only | apply State.writeAdcCtl_only | apply State.adcActions_only
    | apply State.deadControl_only | exact Needs.sub ‹_› (by decide) | apply Only.cond | fail_if_no_progress refine Only.mk' ?_

theorem State.hostWrites_only {s0 s : State} {l : List (Nat × Nat)} (hk : Only K s0 s)
    (hK : Needs 262015 K := by exact Needs.sub (by assumption) (by decide)) : Only K s0 (State.hostWrites s l) := by
  unfold State.hostWrites
  with_reducible repeat' first
    | assumption | apply State.commitSeal_only | apply State.putRegister_only | apply State.openSeal_only
    | exact Needs.sub ‹_› (by decide) | refine Only.foldl ?_ fun _ _ _ => ?_

theorem State.pathWrite_only {s0 s : State} {p : Path} {a : Nat} {v : Nat} (hk : Only K s0 s)
    (hK : Needs 262015 K := by exact Needs.sub (by assumption) (by decide)) : Only K s0 (State.pathWrite s p a v) := by
  unfold State.pathWrite
  with_reducible repeat' first
    | assumption | apply State.hostWrites_only | apply State.putRegister_only | exact Needs.sub ‹_› (by decide) | apply Only.cond | split
    | (dsimp only; split) | fail_if_no_progress refine Only.mk' ?_

theorem execRegisterWrite_only {s : State} {p : Path} {addr : Nat} {value : Word} (hK : Needs 262015 K) : KeptO K s
    (execRegisterWrite p addr value s) := by
  unfold execRegisterWrite
  with_reducible repeat' first
    | assumption | apply KeptO.next | apply KeptO.fault | apply KeptO.cond | exact Only.refl _ | apply State.pathWrite_only
    | exact Needs.sub ‹_› (by decide) | split | (dsimp only; split)

theorem execSealOpen_only {s : State} {p : Path} {value : Word} (hK : Needs 262015 K) : KeptO K s (execSealOpen p value s) := by
  unfold execSealOpen
  with_reducible repeat' first
    | assumption | apply KeptO.next | apply KeptO.fault | apply KeptO.cond | exact Only.refl _ | apply State.pathWrite_only
    | exact Needs.sub ‹_› (by decide) | split | (dsimp only; split)

theorem execSealCommit_only {s : State} {p : Path} {value : Word} (hK : Needs 262015 K) : KeptO K s (execSealCommit p value s) := by
  unfold execSealCommit
  with_reducible repeat' first
    | assumption | apply KeptO.next | apply KeptO.fault | apply KeptO.cond | exact Only.refl _ | apply State.pathWrite_only
    | exact Needs.sub ‹_› (by decide) | split | (dsimp only; split)

theorem execTraceNow_only {s : State} {p : Path} {value : Word} (hK : Needs 262015 K) : KeptO K s (execTraceNow p value s) := by
  unfold execTraceNow
  with_reducible repeat' first
    | assumption | apply KeptO.next | apply KeptO.fault | apply KeptO.cond | exact Only.refl _ | apply State.pathWrite_only
    | exact Needs.sub ‹_› (by decide) | split | (dsimp only; split)

theorem execLbSelWrite_only {s : State} {p : Path} {n : Nat} {value : Word} (hK : Needs 262015 K) : KeptO K s (execLbSelWrite p n
    value s) := by
  unfold execLbSelWrite
  with_reducible repeat' first
    | assumption | apply KeptO.next | apply KeptO.fault | apply KeptO.cond | exact Only.refl _ | apply State.pathWrite_only
    | exact Needs.sub ‹_› (by decide) | apply Only.cond | split | (dsimp only; split)

theorem execEvrNewestWrite_only {s : State} {p : Path} {value : Word} (hK : Needs 262015 K) : KeptO K s (execEvrNewestWrite p value
    s) := by
  unfold execEvrNewestWrite
  with_reducible repeat' first
    | assumption | apply KeptO.next | apply KeptO.fault | apply KeptO.cond | exact Only.refl _ | apply State.pathWrite_only
    | exact Needs.sub ‹_› (by decide) | split | (dsimp only; split)

theorem execDlCtlClear_only {s : State} {p : Path} {value : Word} (hK : Needs 262015 K) : KeptO K s (execDlCtlClear p value s) := by
  unfold execDlCtlClear
  with_reducible repeat' first
    | assumption | apply KeptO.next | apply KeptO.fault | apply KeptO.cond | exact Only.refl _ | apply State.pathWrite_only
    | exact Needs.sub ‹_› (by decide) | split | (dsimp only; split)

theorem execDlCtlRestart_only {s : State} {p : Path} {value : Word} (hK : Needs 262015 K) : KeptO K s (execDlCtlRestart p value s) := by
  unfold execDlCtlRestart
  with_reducible repeat' first
    | assumption | apply KeptO.next | apply KeptO.fault | apply KeptO.cond | exact Only.refl _ | apply State.pathWrite_only
    | exact Needs.sub ‹_› (by decide) | split | (dsimp only; split)

theorem execDlWinWrite_only {s : State} {p : Path} {value : Word} (hK : Needs 262015 K) : KeptO K s (execDlWinWrite p value s) := by
  unfold execDlWinWrite
  with_reducible repeat' first
    | assumption | apply KeptO.next | apply KeptO.fault | apply KeptO.cond | exact Only.refl _ | apply State.pathWrite_only
    | exact Needs.sub ‹_› (by decide) | split | (dsimp only; split)

theorem execIntakeCtlWrite_only {s : State} {p : Path} {value : Word} (hK : Needs 262015 K) : KeptO K s (execIntakeCtlWrite p value
    s) := by
  unfold execIntakeCtlWrite
  with_reducible repeat' first
    | assumption | apply KeptO.next | apply KeptO.fault | apply KeptO.cond | exact Only.refl _ | apply State.pathWrite_only
    | exact Needs.sub ‹_› (by decide) | split | (dsimp only; split)

theorem execSadcStart_only {s : State} {p : Path} {n : Nat} {value : Word} (hK : Needs 262015 K) : KeptO K s (execSadcStart p n
    value s) := by
  unfold execSadcStart
  with_reducible repeat' first
    | assumption | apply KeptO.next | apply KeptO.fault | apply KeptO.cond | exact Only.refl _ | apply State.pathWrite_only
    | exact Needs.sub ‹_› (by decide) | apply Only.cond | split | (dsimp only; split)

theorem execSadcStop_only {s : State} {p : Path} {n : Nat} {value : Word} (hK : Needs 262015 K) : KeptO K s (execSadcStop p n value
    s) := by
  unfold execSadcStop
  with_reducible repeat' first
    | assumption | apply KeptO.next | apply KeptO.fault | apply KeptO.cond | exact Only.refl _ | apply State.pathWrite_only
    | exact Needs.sub ‹_› (by decide) | apply Only.cond | split | (dsimp only; split)

theorem execSadcGo_only {s : State} {p : Path} {n : Nat} {value : Word} (hK : Needs 262015 K) : KeptO K s (execSadcGo p n value s) := by
  unfold execSadcGo
  with_reducible repeat' first
    | assumption | apply KeptO.next | apply KeptO.fault | apply KeptO.cond | exact Only.refl _ | apply State.pathWrite_only
    | exact Needs.sub ‹_› (by decide) | apply Only.cond | split | (dsimp only; split)

theorem State.releaseCompletions_only {s0 s : State} {qn : Nat} {n : Nat} (hk : Only K s0 s)
    (hK : Needs 261759 K := by exact Needs.sub (by assumption) (by decide)) : Only K s0 (State.releaseCompletions s qn n) := by
  unfold State.releaseCompletions
  with_reducible repeat' first
    | assumption | apply State.modQueue_only | apply State.tryEntry_only | apply State.sweep_only | apply State.deliver_only
    | exact Needs.sub ‹_› (by decide)

theorem State.writeCompHead_only {s0 s : State} {qn : Nat} {v : Nat} (hk : Only K s0 s)
    (hK : Needs 261759 K := by exact Needs.sub (by assumption) (by decide)) : Only K s0 (State.writeCompHead s qn v) := by
  unfold State.writeCompHead
  with_reducible repeat' first
    | assumption | apply State.releaseCompletions_only | exact Needs.sub ‹_› (by decide) | apply Only.cond | split | (dsimp only; split)

theorem State.writeEvtHead_only {s0 s : State} {v : Nat} (hk : Only K s0 s)
    (hK : Needs 16 K := by exact Needs.sub (by assumption) (by decide)) : Only K s0 (State.writeEvtHead s v) := by
  unfold State.writeEvtHead
  with_reducible repeat' first
    | assumption | exact Needs.sub ‹_› (by decide) | fail_if_no_progress refine Only.mk' ?_

theorem State.writeEmulated_only {s0 s : State} {a : Nat} {v : Nat} (hk : Only K s0 s)
    (hK : Needs 261759 K := by exact Needs.sub (by assumption) (by decide)) : Only K s0 (State.writeEmulated s a v) := by
  unfold State.writeEmulated
  with_reducible repeat' first
    | assumption | apply State.writeEvtHead_only | apply State.writeCompHead_only | exact Needs.sub ‹_› (by decide) | apply Only.cond

theorem execCompHeadWrite_only {s : State} {queue : Nat} {value : Word} (hK : Needs 261759 K) : KeptO K s (execCompHeadWrite queue
    value s) := by
  unfold execCompHeadWrite
  with_reducible repeat' first
    | assumption | apply KeptO.next | apply KeptO.fault | apply KeptO.cond | exact Only.refl _ | apply State.writeCompHead_only
    | exact Needs.sub ‹_› (by decide) | apply Only.cond | split | (dsimp only; split)

theorem execEvtHeadWrite_only {s : State} {value : Word} (hK : Needs 16 K) : KeptO K s (execEvtHeadWrite value s) := by
  unfold execEvtHeadWrite
  with_reducible repeat' first
    | assumption | apply KeptO.next | apply KeptO.fault | apply KeptO.cond | exact Only.refl _ | apply State.writeEvtHead_only
    | exact Needs.sub ‹_› (by decide) | apply Only.cond | split | (dsimp only; split)

theorem execSadcSettled_only {s : State} {n : Nat} (hK : Needs 65 K) : KeptO K s (execSadcSettled n s) := by
  unfold execSadcSettled
  with_reducible repeat' first
    | assumption | apply KeptO.next | apply KeptO.fault | apply KeptO.cond | exact Only.refl _ | apply State.modAdc_only
    | apply State.advanceTo_only | exact Needs.sub ‹_› (by decide) | apply Only.cond | split | (dsimp only; split)
    | fail_if_no_progress refine Only.mk' ?_

theorem State.compare_only {s0 s : State} {n : Nat} {source : Nat} {v : Nat} (hk : Only K s0 s)
    (hK : Needs 80 K := by exact Needs.sub (by assumption) (by decide)) : Only K s0 (State.compare s n source v) := by
  unfold State.compare
  with_reducible repeat' first
    | assumption | apply State.modAdc_only | apply State.raise_only | exact Needs.sub ‹_› (by decide) | apply Only.cond
    | refine Only.foldl ?_ fun _ _ _ => ?_

theorem execSadcConversionDone_only {s : State} {n : Nat} {vinUv : Nat} {vrefUv : Nat} (hK : Needs 80 K) : KeptO K s
    (execSadcConversionDone n vinUv vrefUv s) := by
  unfold execSadcConversionDone
  with_reducible repeat' first
    | assumption | apply KeptO.next | apply KeptO.fault | apply KeptO.cond | exact Only.refl _ | apply State.modAdc_only
    | apply State.compare_only | exact Needs.sub ‹_› (by decide) | apply Only.cond | split | (dsimp only; split)
    | fail_if_no_progress refine Only.mk' ?_

end Sys2Proof.Machine
end

