-- ==== Sys2Proof/Laws/FramesHost.lean ====
section
/-! SUPPORT. What the operations and meanings of Machine/Host.lean leave as it is: the blocks outside their mask. -/

set_option Elab.async false
set_option linter.unusedTactic false
set_option linter.unreachableTactic false
set_option linter.unusedVariables false

namespace Sys2Proof.Machine

variable {K : Nat}

theorem State.modIntake_only {s0 s : State} {port : Nat} {chan : Nat} {f : Intake → Intake} (hk : Only K s0 s)
    (hK : Needs 512 K := by exact Needs.sub (by assumption) (by decide)) : Only K s0 (State.modIntake s port chan f) := by
  unfold State.modIntake
  with_reducible repeat' first
    | assumption | apply State.modDsp_only | exact Needs.sub ‹_› (by decide) | apply Only.cond

theorem State.queueFrame_only {s0 s : State} {h : FrameHdr} {chan : Nat} {type : Nat} {payload : Bytes} (hk : Only K s0 s)
    (hK : Needs 512 K := by exact Needs.sub (by assumption) (by decide)) : Only K s0 (State.queueFrame s h chan type payload) := by
  unfold State.queueFrame
  with_reducible repeat' first
    | assumption | apply State.modIntake_only | exact Needs.sub ‹_› (by decide) | apply Only.cond | split | (dsimp only; split)
    | fail_if_no_progress refine Only.mk' ?_

theorem State.judge_only {s0 s : State} {h : FrameHdr} {chan : Nat} {type : Nat} {needsLease : Bool} {lenOk : Bool} {f : State → State} {g
    : State → Nat → State} (hk : Only K s0 s) (hf : ∀ x, Only K s0 x → Only K s0 (f x))
    (hg : ∀ x n, Only K s0 x → Only K s0 (g x n))
    (hK : Needs 512 K := by exact Needs.sub (by assumption) (by decide)) : Only K s0 (State.judge s h chan type needsLease lenOk f g) := by
  unfold State.judge
  with_reducible repeat' first
    | assumption | apply hg | apply hf | apply State.modIntake_only | exact Needs.sub ‹_› (by decide) | apply Only.cond | split | (dsimp only; split)
    | fail_if_no_progress refine Only.mk' ?_

theorem State.takeChecked_only {s0 s : State} {h : FrameHdr} {chan : Nat} {type : Nat} {payload : Bytes} {needsLease : Bool} {lenOk :
    Bool} {f : State → State} {g : State → Nat → State} (hk : Only K s0 s) (hf : ∀ x, Only K s0 x → Only K s0 (f x))
    (hg : ∀ x n, Only K s0 x → Only K s0 (g x n))
    (hK : Needs 204410 K := by exact Needs.sub (by assumption) (by decide)) : Only K s0 (State.takeChecked s h chan type payload
    needsLease lenOk f g) := by
  unfold State.takeChecked
  with_reducible repeat' first
    | assumption | apply hg | apply hf | apply State.frameArrives_only | apply State.queueFrame_only
    | refine State.judge_only ?_ (fun _ _ => ?_) (fun _ _ _ => ?_) | exact Needs.sub ‹_› (by decide) | apply Only.cond | split
    | (dsimp only; split) | fail_if_no_progress refine Only.mk' ?_

theorem State.withFrame_only {s0 s : State} {h : FrameHdr} {chan : Nat} {type : Nat} {payload : Bytes} {needsLease : Bool} {lenOk : Bool}
    {f : State → State} (hk : Only K s0 s) (hf : ∀ x, Only K s0 x → Only K s0 (f x))
    (hK : Needs 204410 K := by exact Needs.sub (by assumption) (by decide)) : Only K s0 (State.withFrame s h chan type payload needsLease
    lenOk f) := by
  unfold State.withFrame
  with_reducible repeat' first
    | assumption | apply hf | refine State.takeChecked_only ?_ (fun _ _ => ?_) (fun _ _ _ => ?_) | apply State.respond_only
    | exact Needs.sub ‹_› (by decide) | apply Only.cond | split | (dsimp only; split) | fail_if_no_progress refine Only.mk' ?_

theorem State.ack_only {s0 s : State} {h : FrameHdr} (hk : Only K s0 s)
    (hK : Needs 512 K := by exact Needs.sub (by assumption) (by decide)) : Only K s0 (State.ack s h) := by
  unfold State.ack
  with_reducible repeat' first
    | assumption | apply State.respond_only | exact Needs.sub ‹_› (by decide) | apply Only.cond

theorem execHelloTimer_only {s : State} {port : Nat} (hK : Needs 512 K) : KeptO K s (execHelloTimer port s) := by
  unfold execHelloTimer
  with_reducible repeat' first
    | assumption | apply KeptO.next | apply KeptO.fault | apply KeptO.cond | exact Only.refl _ | apply State.sendFrame_only
    | exact Needs.sub ‹_› (by decide) | apply Only.cond | split | (dsimp only; split)

theorem execHeaderCrcFailure_only {s : State} {port : Nat} (hK : Needs 204410 K) : KeptO K s (execHeaderCrcFailure port s) := by
  unfold execHeaderCrcFailure
  with_reducible repeat' first
    | assumption | apply KeptO.next | apply KeptO.fault | apply KeptO.cond | exact Only.refl _ | apply State.modDsp_only
    | apply State.frameArrives_only | exact Needs.sub ‹_› (by decide) | apply Only.cond | split | (dsimp only; split)

theorem State.discardAll_only {s0 s : State} (hk : Only K s0 s)
    (hK : Needs 32256 K := by exact Needs.sub (by assumption) (by decide)) : Only K s0 (State.discardAll s) := by
  unfold State.discardAll
  with_reducible repeat' first
    | assumption | apply State.sweep_only | apply State.deliverAll_only | exact Needs.sub ‹_› (by decide) | apply Only.cond | split
    | (dsimp only; split) | fail_if_no_progress refine Only.mk' ?_

theorem State.adoptQueue_only {s0 s : State} {again : Bool} {qn : Nat} (hk : Only K s0 s)
    (hK : Needs 3584 K := by exact Needs.sub (by assumption) (by decide)) : Only K s0 (State.adoptQueue s again qn) := by
  unfold State.adoptQueue
  with_reducible repeat' first
    | assumption | apply State.deliver_only | apply State.modQueue_only | apply State.sendCompletions_only
    | exact Needs.sub ‹_› (by decide) | apply Only.cond | split | (dsimp only; split) | fail_if_no_progress refine Only.mk' ?_

theorem State.adopt_only {s0 s : State} {again : Bool} (hk : Only K s0 s)
    (hK : Needs 32256 K := by exact Needs.sub (by assumption) (by decide)) : Only K s0 (State.adopt s again) := by
  unfold State.adopt
  with_reducible repeat' first
    | assumption | apply State.sweep_only | apply State.adoptQueue_only | exact Needs.sub ‹_› (by decide) | apply Only.cond
    | refine Only.foldl ?_ fun _ _ _ => ?_ | split | (dsimp only; split) | fail_if_no_progress refine Only.mk' ?_

theorem State.rewriteEnd_only {s0 s : State} {e : LeaseEnd} {retained : Nat} (hk : Only K s0 s)
    (hK : Needs 3088 K := by exact Needs.sub (by assumption) (by decide)) : Only K s0 (State.rewriteEnd s e retained) := by
  unfold State.rewriteEnd
  with_reducible repeat' first
    | assumption | apply State.writeMem_only | exact Needs.sub ‹_› (by decide) | apply Only.cond | fail_if_no_progress refine Only.mk' ?_
    | split | (dsimp only; split)

theorem State.deliverEnd_only {s0 s : State} {retained : Nat} (hk : Only K s0 s)
    (hK : Needs 3600 K := by exact Needs.sub (by assumption) (by decide)) : Only K s0 (State.deliverEnd s retained) := by
  unfold State.deliverEnd
  with_reducible repeat' first
    | assumption | apply State.rewriteEnd_only | apply State.deliverAsync_only | apply State.sendEvent_only
    | exact Needs.sub ‹_› (by decide) | apply Only.cond | fail_if_no_progress refine Only.mk' ?_ | split | (dsimp only; split)

theorem State.deliverFlag_only {s0 s : State} (hk : Only K s0 s)
    (hK : Needs 3608 K := by exact Needs.sub (by assumption) (by decide)) : Only K s0 (State.deliverFlag s) := by
  unfold State.deliverFlag
  with_reducible repeat' first
    | assumption | apply State.async_only | exact Needs.sub ‹_› (by decide) | apply Only.cond | fail_if_no_progress refine Only.mk' ?_
    | split | (dsimp only; split)

theorem State.endLease_only {s0 s : State} {released : Nat} (hk : Only K s0 s)
    (hK : Needs 3600 K := by exact Needs.sub (by assumption) (by decide)) : Only K s0 (State.endLease s released) := by
  unfold State.endLease
  with_reducible repeat' first
    | assumption | apply State.deliverAll_only | apply State.writeAsync_only | exact Needs.sub ‹_› (by decide) | apply Only.cond
    | fail_if_no_progress refine Only.mk' ?_ | split | (dsimp only; split)

theorem State.selectAccepted_only {s0 s : State} {h : FrameHdr} {p : Bytes} (hk : Only K s0 s)
    (hK : Needs 32346 K := by exact Needs.sub (by assumption) (by decide)) : Only K s0 (State.selectAccepted s h p) := by
  unfold State.selectAccepted
  with_reducible repeat' first
    | assumption | apply State.endLease_only | apply State.modDsp_only | apply State.sendFrame_only | apply State.wakeReattach_only
    | apply State.deliverFlag_only | apply State.discardAll_only | apply State.adopt_only | apply State.deliverEnd_only
    | exact Needs.sub ‹_› (by decide) | apply Only.cond | split | (dsimp only; split) | fail_if_no_progress refine Only.mk' ?_

theorem execSelect_only {s : State} {h : FrameHdr} {payload : Bytes} (hK : Needs 228986 K) : KeptO K s (execSelect h payload s) := by
  unfold execSelect
  with_reducible repeat' first
    | assumption | apply KeptO.next | apply KeptO.fault | apply KeptO.cond | exact Only.refl _
    | refine State.withFrame_only ?_ (fun _ _ => ?_) | apply State.selectAccepted_only | apply State.sendFrame_only
    | exact Needs.sub ‹_› (by decide) | apply Only.cond | split | (dsimp only; split) | fail_if_no_progress refine Only.mk' ?_

theorem State.heartbeat_only {s0 s : State} {h : FrameHdr} {p : Bytes} (hk : Only K s0 s)
    (hK : Needs 512 K := by exact Needs.sub (by assumption) (by decide)) : Only K s0 (State.heartbeat s h p) := by
  unfold State.heartbeat
  with_reducible repeat' first
    | assumption | apply State.respond_only | apply State.sendFrame_only | exact Needs.sub ‹_› (by decide) | apply Only.cond
    | fail_if_no_progress refine Only.mk' ?_ | split | (dsimp only; split)

theorem execHeartbeat_only {s : State} {h : FrameHdr} {payload : Bytes} (hK : Needs 204410 K) : KeptO K s (execHeartbeat h payload
    s) := by
  unfold execHeartbeat
  with_reducible repeat' first
    | assumption | apply KeptO.next | apply KeptO.fault | apply KeptO.cond | exact Only.refl _
    | refine State.withFrame_only ?_ (fun _ _ => ?_) | apply State.heartbeat_only | exact Needs.sub ‹_› (by decide) | apply Only.cond
    | split | (dsimp only; split) | fail_if_no_progress refine Only.mk' ?_

theorem execLeaseExpiry_only {s : State}  (hK : Needs 3601 K) : KeptO K s (execLeaseExpiry s) := by
  unfold execLeaseExpiry
  with_reducible repeat' first
    | assumption | apply KeptO.next | apply KeptO.fault | apply KeptO.cond | exact Only.refl _ | apply State.counterTo_only
    | apply State.advanceTo_only | apply State.endLease_only | exact Needs.sub ‹_› (by decide) | apply Only.cond | split
    | (dsimp only; split)

theorem State.acceptStep_only {s0 s : State} {qn : Nat} {w : Waiting} (hk : Only K s0 s)
    (hK : Needs 3584 K := by exact Needs.sub (by assumption) (by decide)) : Only K s0 (State.acceptStep s qn w).1 := by
  unfold State.acceptStep
  with_reducible repeat' first
    | assumption | apply State.respond_only | apply State.modQueue_only | apply State.ack_only | apply State.sweepQueue_only
    | apply State.putUnbegun_only | exact Needs.sub ‹_› (by decide) | apply Only.cond | split | (dsimp only; split)

theorem State.drainReorder_only {s0 s : State} {n qn : Nat} (hk : Only K s0 s)
    (hK : Needs 3584 K := by exact Needs.sub (by assumption) (by decide)) : Only K s0 (State.drainReorder n qn s) := by
  induction n generalizing s with
  | zero => exact hk
  | succ n ih =>
    unfold State.drainReorder
    repeat' first
      | with_reducible assumption | exact Needs.sub ‹_› (by decide) | with_reducible apply ih | with_reducible apply State.acceptStep_only
      | with_reducible apply State.modQueue_only | with_reducible apply Only.cond
      | (try dsimp only); split

theorem State.offer_only {s0 s : State} {qn : Nat} {w : Waiting} (hk : Only K s0 s)
    (hK : Needs 3584 K := by exact Needs.sub (by assumption) (by decide)) : Only K s0 (State.offer s qn w) := by
  unfold State.offer
  with_reducible repeat' first
    | assumption | apply State.acceptStep_only | apply State.drainReorder_only | apply State.respond_only | apply State.modQueue_only
    | exact Needs.sub ‹_› (by decide) | apply Only.cond | split | (dsimp only; split)

theorem State.claimQueue_only {s0 s : State} {h : FrameHdr} (hk : Only K s0 s)
    (hK : Needs 1024 K := by exact Needs.sub (by assumption) (by decide)) : Only K s0 (State.claimQueue s h) := by
  unfold State.claimQueue
  with_reducible repeat' first
    | assumption | apply State.modQueue_only | exact Needs.sub ‹_› (by decide)

theorem execStep_only {s : State} {h : FrameHdr} {payload : Bytes} (hK : Needs 204410 K) : KeptO K s (execStep h payload s) := by
  unfold execStep
  with_reducible repeat' first
    | assumption | apply KeptO.next | apply KeptO.fault | apply KeptO.cond | exact Only.refl _
    | refine State.withFrame_only ?_ (fun _ _ => ?_) | apply State.respond_only | apply State.claimQueue_only | apply State.offer_only
    | exact Needs.sub ‹_› (by decide) | apply Only.cond | split | (dsimp only; split) | fail_if_no_progress refine Only.mk' ?_

theorem execReorderTimeout_only {s : State} {queue : Nat} {seq : Nat} (hK : Needs 1537 K) : KeptO K s (execReorderTimeout queue seq
    s) := by
  unfold execReorderTimeout
  with_reducible repeat' first
    | assumption | apply KeptO.next | apply KeptO.fault | apply KeptO.cond | exact Only.refl _ | apply State.respond_only
    | apply State.modQueue_only | apply State.advanceTo_only | exact Needs.sub ‹_› (by decide) | apply Only.cond | split
    | (dsimp only; split)

theorem State.submit_only {s0 s : State} {h : FrameHdr} {q : Queue} {n : Nat} (hk : Only K s0 s)
    (hK : Needs 3584 K := by exact Needs.sub (by assumption) (by decide)) : Only K s0 (State.submit s h q n) := by
  unfold State.submit
  with_reducible repeat' first
    | assumption | apply State.modQueue_only | apply State.offer_only | exact Needs.sub ‹_› (by decide)
    | refine Only.foldl ?_ fun _ _ _ => ?_

theorem State.doorbell_only {s0 s : State} {h : FrameHdr} {p : Bytes} (hk : Only K s0 s)
    (hK : Needs 261759 K := by exact Needs.sub (by assumption) (by decide)) : Only K s0 (State.doorbell s h p) := by
  unfold State.doorbell
  with_reducible repeat' first
    | assumption | apply State.respond_only | apply State.claimQueue_only | apply State.submit_only | apply State.ack_only
    | apply State.releaseCompletions_only | exact Needs.sub ‹_› (by decide) | apply Only.cond | split | (dsimp only; split)

theorem execDoorbellSubmission_only {s : State} {h : FrameHdr} {payload : Bytes} (hK : Needs 261759 K) : KeptO K s
    (execDoorbellSubmission h payload s) := by
  unfold execDoorbellSubmission
  with_reducible repeat' first
    | assumption | apply KeptO.next | apply KeptO.fault | apply KeptO.cond | exact Only.refl _
    | refine State.withFrame_only ?_ (fun _ _ => ?_) | apply State.doorbell_only | exact Needs.sub ‹_› (by decide) | apply Only.cond
    | split | (dsimp only; split) | fail_if_no_progress refine Only.mk' ?_

theorem execDoorbellCompletion_only {s : State} {h : FrameHdr} {payload : Bytes} (hK : Needs 261759 K) : KeptO K s
    (execDoorbellCompletion h payload s) := by
  unfold execDoorbellCompletion
  with_reducible repeat' first
    | assumption | apply KeptO.next | apply KeptO.fault | apply KeptO.cond | exact Only.refl _
    | refine State.withFrame_only ?_ (fun _ _ => ?_) | apply State.doorbell_only | exact Needs.sub ‹_› (by decide) | apply Only.cond
    | split | (dsimp only; split) | fail_if_no_progress refine Only.mk' ?_

theorem State.cutThrough_only {s0 s : State} {h : FrameHdr} {type : Nat} {payload : Bytes} {f : State → Bytes → State} (hk : Only K s0 s) (hf : ∀ x p, Only K s0 x → Only K s0 (f x p))
    (hK : Needs 466554 K := by exact Needs.sub (by assumption) (by decide)) : Only K s0 (State.cutThrough s h type payload f) := by
  unfold State.cutThrough
  with_reducible repeat' first
    | assumption | apply hf | apply State.frameArrives_only | apply State.nextDraw_only | exact Needs.sub ‹_› (by decide) | apply Only.cond
    | split | (dsimp only; split) | fail_if_no_progress refine Only.mk' ?_

theorem State.cutWrite_only {s0 s : State} {whole : Bytes} {p : Bytes} (hk : Only K s0 s)
    (hK : Needs 265216 K := by exact Needs.sub (by assumption) (by decide)) : Only K s0 (State.cutWrite s whole p) := by
  unfold State.cutWrite
  with_reducible repeat' first
    | assumption | apply State.writeMem_only | exact Needs.sub ‹_› (by decide) | apply Only.cond | split | (dsimp only; split)
    | fail_if_no_progress refine Only.mk' ?_

theorem execWrite_only {s : State} {h : FrameHdr} {payload : Bytes} (hK : Needs 466554 K) : KeptO K s (execWrite h payload s) := by
  unfold execWrite
  with_reducible repeat' first
    | assumption | apply KeptO.next | apply KeptO.fault | apply KeptO.cond | exact Only.refl _ | apply State.cutWrite_only
    | refine State.withFrame_only ?_ (fun _ _ => ?_) | apply State.respond_only | apply State.writeMem_only
    | refine State.cutThrough_only ?_ (fun _ _ _ => ?_) | exact Needs.sub ‹_› (by decide) | apply Only.cond | split | (dsimp only; split)
    | fail_if_no_progress refine Only.mk' ?_

theorem execRead_only {s : State} {h : FrameHdr} {payload : Bytes} (hK : Needs 204410 K) : KeptO K s (execRead h payload s) := by
  unfold execRead
  with_reducible repeat' first
    | assumption | apply KeptO.next | apply KeptO.fault | apply KeptO.cond | exact Only.refl _
    | refine State.withFrame_only ?_ (fun _ _ => ?_) | apply State.answerData_only | apply State.respond_only
    | exact Needs.sub ‹_› (by decide) | apply Only.cond | split | (dsimp only; split) | fail_if_no_progress refine Only.mk' ?_

theorem execParcelFrame_only {s : State} {h : FrameHdr} {payload : Bytes} (hK : Needs 474746 K) : KeptO K s (execParcelFrame h
    payload s) := by
  unfold execParcelFrame
  with_reducible repeat' first
    | assumption | apply KeptO.next | apply KeptO.fault | apply KeptO.cond | exact Only.refl _
    | refine State.withFrame_only ?_ (fun _ _ => ?_) | apply State.parcelData_only | apply State.ack_only
    | refine State.cutThrough_only ?_ (fun _ _ _ => ?_) | apply State.tornParcel_only | exact Needs.sub ‹_› (by decide) | apply Only.cond
    | split | (dsimp only; split) | fail_if_no_progress refine Only.mk' ?_

theorem execRegwrite_only {s : State} {h : FrameHdr} {payload : Bytes} (hK : Needs 262015 K) : KeptO K s (execRegwrite h payload s) := by
  unfold execRegwrite
  with_reducible repeat' first
    | assumption | apply KeptO.next | apply KeptO.fault | apply KeptO.cond | exact Only.refl _
    | refine State.withFrame_only ?_ (fun _ _ => ?_) | apply State.respond_only | apply State.hostWrites_only
    | apply State.writeEmulated_only | exact Needs.sub ‹_› (by decide) | apply Only.cond | refine Only.foldl ?_ fun _ _ _ => ?_ | split
    | (dsimp only; split) | fail_if_no_progress refine Only.mk' ?_

theorem execRegread_only {s : State} {h : FrameHdr} {payload : Bytes} (hK : Needs 204410 K) : KeptO K s (execRegread h payload s) := by
  unfold execRegread
  with_reducible repeat' first
    | assumption | apply KeptO.next | apply KeptO.fault | apply KeptO.cond | exact Only.refl _
    | refine State.withFrame_only ?_ (fun _ _ => ?_) | apply State.respond_only | apply State.answerData_only
    | exact Needs.sub ‹_› (by decide) | apply Only.cond | split | (dsimp only; split) | fail_if_no_progress refine Only.mk' ?_

theorem State.fetchFails_only {s0 s : State} {slot : Nat} (hk : Only K s0 s)
    (hK : Needs 56848 K := by exact Needs.sub (by assumption) (by decide)) : Only K s0 (State.fetchFails s slot) := by
  unfold State.fetchFails
  with_reducible repeat' first
    | assumption | apply State.closeEntry_only | apply State.releaseEarly_only | exact Needs.sub ‹_› (by decide) | apply Only.cond | split
    | (dsimp only; split) | fail_if_no_progress refine Only.mk' ?_

theorem State.withdrawL2_only {s0 s : State} (hk : Only K s0 s)
    (hK : Needs 65040 K := by exact Needs.sub (by assumption) (by decide)) : Only K s0 (State.withdrawL2 s) := by
  unfold State.withdrawL2
  with_reducible repeat' first
    | assumption | apply State.slotExpire_only | apply State.fetchFails_only | apply State.sweep_only | exact Needs.sub ‹_› (by decide)
    | apply Only.cond | refine Only.foldl ?_ fun _ _ _ => ?_ | split | (dsimp only; split) | fail_if_no_progress refine Only.mk' ?_

theorem execL2reg_only {s : State} {h : FrameHdr} {payload : Bytes} (hK : Needs 261754 K) : KeptO K s (execL2reg h payload s) := by
  unfold execL2reg
  with_reducible repeat' first
    | assumption | apply KeptO.next | apply KeptO.fault | apply KeptO.cond | exact Only.refl _
    | refine State.withFrame_only ?_ (fun _ _ => ?_) | apply State.respond_only | apply State.withdrawL2_only
    | exact Needs.sub ‹_› (by decide) | apply Only.cond | split | (dsimp only; split) | fail_if_no_progress refine Only.mk' ?_

theorem State.l2arrive_only {s0 s : State} {off : Nat} {data : Bytes} {x : Held} (hk : Only K s0 s)
    (hK : Needs 4096 K := by exact Needs.sub (by assumption) (by decide)) : Only K s0 (State.l2arrive s off data x) := by
  unfold State.l2arrive
  with_reducible repeat' first
    | assumption | apply State.modHeld_only | exact Needs.sub ‹_› (by decide) | apply Only.cond | split | (dsimp only; split)
    | fail_if_no_progress refine Only.mk' ?_

theorem State.tornL2_only {s0 s : State} {off : Nat} {data : Bytes} (hk : Only K s0 s)
    (hK : Needs 4096 K := by exact Needs.sub (by assumption) (by decide)) : Only K s0 (State.tornL2 s off data) := by
  unfold State.tornL2
  with_reducible repeat' first
    | assumption | exact Needs.sub ‹_› (by decide) | apply Only.cond | split | (dsimp only; split) | fail_if_no_progress refine Only.mk' ?_

theorem execL2data_only {s : State} {h : FrameHdr} {payload : Bytes} (hK : Needs 466554 K) : KeptO K s (execL2data h payload s) := by
  unfold execL2data
  with_reducible repeat' first
    | assumption | apply KeptO.next | apply KeptO.fault | apply KeptO.cond | exact Only.refl _
    | refine State.withFrame_only ?_ (fun _ _ => ?_) | apply State.l2arrive_only | refine State.cutThrough_only ?_ (fun _ _ _ => ?_)
    | apply State.tornL2_only | exact Needs.sub ‹_› (by decide) | apply Only.cond | refine Only.foldl ?_ fun _ _ _ => ?_ | split
    | (dsimp only; split) | fail_if_no_progress refine Only.mk' ?_

theorem execL2getTimeout_only {s : State} {slot : Nat} (hK : Needs 65040 K) : KeptO K s (execL2getTimeout slot s) := by
  unfold execL2getTimeout
  with_reducible repeat' first
    | assumption | apply KeptO.next | apply KeptO.fault | apply KeptO.cond | exact Only.refl _ | apply State.sweep_only
    | apply State.fetchFails_only | exact Needs.sub ‹_› (by decide) | apply Only.cond | split | (dsimp only; split)
    | fail_if_no_progress refine Only.mk' ?_

theorem execIntakeStaleTimeout_only {s : State} {port : Nat} {chan : Nat} (hK : Needs 513 K) : KeptO K s (execIntakeStaleTimeout
    port chan s) := by
  unfold execIntakeStaleTimeout
  with_reducible repeat' first
    | assumption | apply KeptO.next | apply KeptO.fault | apply KeptO.cond | exact Only.refl _ | apply State.advanceTo_only
    | apply State.modIntake_only | apply State.counterTo_only | exact Needs.sub ‹_› (by decide) | apply Only.cond | split
    | (dsimp only; split) | fail_if_no_progress refine Only.mk' ?_

theorem State.withDlread_only {s0 s : State} {h : FrameHdr} {payload : Bytes} (hk : Only K s0 s)
    (hK : Needs 262015 K := by exact Needs.sub (by assumption) (by decide)) : Only K s0 (State.withDlread s h payload) := by
  unfold State.withDlread
  with_reducible repeat' first
    | assumption | apply State.answerData_only | apply State.respond_only | apply State.markRead_only | apply State.resetModule_only
    | exact Needs.sub ‹_› (by decide) | apply Only.cond

theorem execDlreadStatus_only {s : State} {h : FrameHdr} {payload : Bytes} (hK : Needs 262015 K) : KeptO K s (execDlreadStatus h
    payload s) := by
  unfold execDlreadStatus
  with_reducible repeat' first
    | assumption | apply KeptO.next | apply KeptO.fault | apply KeptO.cond | exact Only.refl _ | apply State.withDlread_only
    | exact Needs.sub ‹_› (by decide) | split | (dsimp only; split)

theorem execDlreadRead_only {s : State} {h : FrameHdr} {payload : Bytes} (hK : Needs 262015 K) : KeptO K s (execDlreadRead h
    payload s) := by
  unfold execDlreadRead
  with_reducible repeat' first
    | assumption | apply KeptO.next | apply KeptO.fault | apply KeptO.cond | exact Only.refl _ | apply State.withDlread_only
    | exact Needs.sub ‹_› (by decide) | split | (dsimp only; split)

theorem execDlreadClear_only {s : State} {h : FrameHdr} {payload : Bytes} (hK : Needs 262015 K) : KeptO K s (execDlreadClear h
    payload s) := by
  unfold execDlreadClear
  with_reducible repeat' first
    | assumption | apply KeptO.next | apply KeptO.fault | apply KeptO.cond | exact Only.refl _ | apply State.withDlread_only
    | exact Needs.sub ‹_› (by decide) | split | (dsimp only; split)

theorem execDlreadRestart_only {s : State} {h : FrameHdr} {payload : Bytes} (hK : Needs 262015 K) : KeptO K s (execDlreadRestart h
    payload s) := by
  unfold execDlreadRestart
  with_reducible repeat' first
    | assumption | apply KeptO.next | apply KeptO.fault | apply KeptO.cond | exact Only.refl _ | apply State.withDlread_only
    | exact Needs.sub ‹_› (by decide) | split | (dsimp only; split)

theorem State.hostData_only {s0 s : State} {h : FrameHdr} {payload : Bytes} (hk : Only K s0 s)
    (hK : Needs 204410 K := by exact Needs.sub (by assumption) (by decide)) : Only K s0 (State.hostData s h payload) := by
  unfold State.hostData
  with_reducible repeat' first
    | assumption | apply State.ack_only | refine State.withFrame_only ?_ (fun _ _ => ?_) | exact Needs.sub ‹_› (by decide)
    | apply Only.cond | split | (dsimp only; split) | fail_if_no_progress refine Only.mk' ?_

theorem State.refuseType_only {s0 s : State} {h : FrameHdr} {type : Nat} {chan : Nat} (hk : Only K s0 s)
    (hK : Needs 512 K := by exact Needs.sub (by assumption) (by decide)) : Only K s0 (State.refuseType s h type chan) := by
  unfold State.refuseType
  with_reducible repeat' first
    | assumption | apply State.respond_only | apply State.respondWith_only | exact Needs.sub ‹_› (by decide) | apply Only.cond | split
    | (dsimp only; split) | fail_if_no_progress refine Only.mk' ?_

theorem execReservedFrameType_only {s : State} {h : FrameHdr} {type : Nat} {chan : Nat} {payload : Bytes} (hK : Needs 204410 K) : KeptO K
    s (execReservedFrameType h type chan payload s) := by
  unfold execReservedFrameType
  with_reducible repeat' first
    | assumption | apply KeptO.next | apply KeptO.fault | apply KeptO.cond | exact Only.refl _ | apply State.frameArrives_only
    | apply State.queueFrame_only | apply State.hostData_only | apply State.refuseType_only | exact Needs.sub ‹_› (by decide)
    | apply Only.cond | split | (dsimp only; split) | fail_if_no_progress refine Only.mk' ?_

end Sys2Proof.Machine
end

