-- ==== Sys2Proof/Laws/FramesLinks.lean ====
section
/-! SUPPORT. What the operations and meanings of Machine/Links.lean leave as it is: the blocks outside their mask. -/

set_option Elab.async false
set_option linter.unusedTactic false
set_option linter.unreachableTactic false
set_option linter.unusedVariables false

namespace Sys2Proof.Machine

variable {K : Nat}

theorem execFlitReceive_only {s : State} {link : Nat} {f : Flit} (hK : Needs 131584 K) : KeptO K s (execFlitReceive link f s) := by
  unfold execFlitReceive
  with_reducible repeat' first
    | assumption | apply KeptO.next | apply KeptO.fault | apply KeptO.cond | exact Only.refl _ | apply State.modPort_only
    | apply State.modDsp_only | exact Needs.sub ‹_› (by decide) | apply Only.cond | split | (dsimp only; split)
    | fail_if_no_progress refine Only.mk' ?_

theorem execFlitResendTimeout_only {s : State} {link : Nat} (hK : Needs 131585 K) : KeptO K s (execFlitResendTimeout link s) := by
  unfold execFlitResendTimeout
  with_reducible repeat' first
    | assumption | apply KeptO.next | apply KeptO.fault | apply KeptO.cond | exact Only.refl _ | apply State.advanceTo_only
    | apply State.modPort_only | apply State.modDsp_only | exact Needs.sub ‹_› (by decide) | apply Only.cond | split | (dsimp only; split)
    | fail_if_no_progress refine Only.mk' ?_

theorem execPortDown_only {s : State} {link : Nat} {cause : DownCause} (hK : Needs 131584 K) : KeptO K s (execPortDown link cause s) := by
  unfold execPortDown
  with_reducible repeat' first
    | assumption | apply KeptO.next | apply KeptO.fault | apply KeptO.cond | exact Only.refl _ | apply State.modPort_only
    | apply State.modDsp_only | exact Needs.sub ‹_› (by decide) | apply Only.cond | split | (dsimp only; split)

theorem State.notifyDown_only {s0 s : State} {c : Nat} (hk : Only K s0 s)
    (hK : Needs 131104 K := by exact Needs.sub (by assumption) (by decide)) : Only K s0 (State.notifyDown s c) := by
  unfold State.notifyDown
  with_reducible repeat' first
    | assumption | apply State.originate_only | exact Needs.sub ‹_› (by decide) | apply Only.cond | refine Only.foldl ?_ fun _ _ _ => ?_
    | split | (dsimp only; split) | fail_if_no_progress refine Only.mk' ?_

theorem State.sendAgain_only {s0 s : State} {o : OutFrame} (hk : Only K s0 s)
    (hK : Needs 187952 K := by exact Needs.sub (by assumption) (by decide)) : Only K s0 (State.sendAgain s o) := by
  unfold State.sendAgain
  with_reducible repeat' first
    | assumption | apply State.sendOrAbort_only | exact Needs.sub ‹_› (by decide) | apply Only.cond | split | (dsimp only; split)
    | fail_if_no_progress refine Only.mk' ?_

theorem State.portFails_only {s0 s : State} {k : Nat} {reason : Nat} (hk : Only K s0 s)
    (hK : Needs 187952 K := by exact Needs.sub (by assumption) (by decide)) : Only K s0 (State.portFails s k reason) := by
  unfold State.portFails
  with_reducible repeat' first
    | assumption | apply State.raise_only | apply State.modPort_only | apply State.notifyDown_only | apply State.sendAgain_only
    | exact Needs.sub ‹_› (by decide) | apply Only.cond | refine Only.foldl ?_ fun _ _ _ => ?_ | split | (dsimp only; split)
    | fail_if_no_progress refine Only.mk' ?_

theorem execRetrainDone_only {s : State} {link : Nat} {lanes : Nat} (hK : Needs 187952 K) : KeptO K s (execRetrainDone link lanes s) := by
  unfold execRetrainDone
  with_reducible repeat' first
    | assumption | apply KeptO.next | apply KeptO.fault | apply KeptO.cond | exact Only.refl _ | apply State.portFails_only
    | apply State.modPort_only | apply State.modDsp_only | exact Needs.sub ‹_› (by decide) | apply Only.cond | split | (dsimp only; split)
    | fail_if_no_progress refine Only.mk' ?_

theorem execRetrainTimeout_only {s : State} {link : Nat} (hK : Needs 187952 K) : KeptO K s (execRetrainTimeout link s) := by
  unfold execRetrainTimeout
  with_reducible repeat' first
    | assumption | apply KeptO.next | apply KeptO.fault | apply KeptO.cond | exact Only.refl _ | apply State.portFails_only
    | apply State.modDsp_only | exact Needs.sub ‹_› (by decide) | apply Only.cond | split | (dsimp only; split)

theorem execDispatchTrainingDone_only {s : State} {port : Nat} {gen : Nat} (hK : Needs 512 K) : KeptO K s (execDispatchTrainingDone
    port gen s) := by
  unfold execDispatchTrainingDone
  with_reducible repeat' first
    | assumption | apply KeptO.next | apply KeptO.fault | apply KeptO.cond | exact Only.refl _ | apply State.modDsp_only
    | exact Needs.sub ‹_› (by decide) | apply Only.cond | split | (dsimp only; split) | fail_if_no_progress refine Only.mk' ?_

theorem execDispatchTrainingTimeout_only {s : State} {port : Nat} (hK : Needs 512 K) : KeptO K s (execDispatchTrainingTimeout port
    s) := by
  unfold execDispatchTrainingTimeout
  with_reducible repeat' first
    | assumption | apply KeptO.next | apply KeptO.fault | apply KeptO.cond | exact Only.refl _ | apply State.modDsp_only
    | exact Needs.sub ‹_› (by decide) | apply Only.cond | split | (dsimp only; split)

theorem execAdvertTimer_only {s : State} {port : Nat} (hK : Needs 131072 K) : KeptO K s (execAdvertTimer port s) := by
  unfold execAdvertTimer
  with_reducible repeat' first
    | assumption | apply KeptO.next | apply KeptO.fault | apply KeptO.cond | exact Only.refl _ | apply State.modPort_only
    | exact Needs.sub ‹_› (by decide) | apply Only.cond | split | (dsimp only; split) | fail_if_no_progress refine Only.mk' ?_

theorem State.checkPort_only {s0 s : State} {k : Nat} (hk : Only K s0 s)
    (hK : Needs 131088 K := by exact Needs.sub (by assumption) (by decide)) : Only K s0 (State.checkPort s k) := by
  unfold State.checkPort
  with_reducible repeat' first
    | assumption | apply State.modPort_only | apply State.raise_only | exact Needs.sub ‹_› (by decide) | apply Only.cond | split
    | (dsimp only; split) | fail_if_no_progress refine Only.mk' ?_

theorem State.choose_only {s0 s : State} {k : Nat} {a : Advert} (hk : Only K s0 s)
    (hK : Needs 187952 K := by exact Needs.sub (by assumption) (by decide)) : Only K s0 (State.choose s k a) := by
  unfold State.choose
  with_reducible repeat' first
    | assumption | apply State.modPort_only | apply State.portFails_only | exact Needs.sub ‹_› (by decide) | apply Only.cond | split
    | (dsimp only; split) | fail_if_no_progress refine Only.mk' ?_

theorem execAdvertReceived_only {s : State} {port : Nat} {a : Advert} (hK : Needs 187952 K) : KeptO K s (execAdvertReceived port a
    s) := by
  unfold execAdvertReceived
  with_reducible repeat' first
    | assumption | apply KeptO.next | apply KeptO.fault | apply KeptO.cond | exact Only.refl _ | apply State.modPort_only
    | apply State.choose_only | apply State.checkPort_only | exact Needs.sub ‹_› (by decide) | apply Only.cond | split
    | (dsimp only; split)

theorem execDetectTimeout_only {s : State} {port : Nat} (hK : Needs 0 K) : KeptO K s (execDetectTimeout port s) := by
  unfold execDetectTimeout
  with_reducible repeat' first
    | assumption | apply KeptO.next | apply KeptO.fault | apply KeptO.cond | exact Only.refl _ | exact Needs.sub ‹_› (by decide) | split
    | (dsimp only; split)

theorem execTrainingDone_only {s : State} {port : Nat} (hK : Needs 131088 K) : KeptO K s (execTrainingDone port s) := by
  unfold execTrainingDone
  with_reducible repeat' first
    | assumption | apply KeptO.next | apply KeptO.fault | apply KeptO.cond | exact Only.refl _ | apply State.checkPort_only
    | apply State.modPort_only | exact Needs.sub ‹_› (by decide) | apply Only.cond | split | (dsimp only; split)
    | fail_if_no_progress refine Only.mk' ?_

theorem execTrainingTimeout_only {s : State} {port : Nat} (hK : Needs 187952 K) : KeptO K s (execTrainingTimeout port s) := by
  unfold execTrainingTimeout
  with_reducible repeat' first
    | assumption | apply KeptO.next | apply KeptO.fault | apply KeptO.cond | exact Only.refl _ | apply State.portFails_only
    | apply State.modPort_only | exact Needs.sub ‹_› (by decide) | apply Only.cond | split | (dsimp only; split)

theorem execKeepaliveTimer_only {s : State} {port : Nat} (hK : Needs 131072 K) : KeptO K s (execKeepaliveTimer port s) := by
  unfold execKeepaliveTimer
  with_reducible repeat' first
    | assumption | apply KeptO.next | apply KeptO.fault | apply KeptO.cond | exact Only.refl _ | apply State.modPort_only
    | exact Needs.sub ‹_› (by decide) | apply Only.cond | split | (dsimp only; split) | fail_if_no_progress refine Only.mk' ?_

theorem execLaneLock_only {s : State} {port : Nat} {lane : Nat} {number : Nat} {inverted : Bool} (hK : Needs 131072 K) : KeptO K s
    (execLaneLock port lane number inverted s) := by
  unfold execLaneLock
  with_reducible repeat' first
    | assumption | apply KeptO.next | apply KeptO.fault | apply KeptO.cond | exact Only.refl _ | apply State.modPort_only
    | exact Needs.sub ‹_› (by decide) | apply Only.cond | split | (dsimp only; split)

theorem State.setFlitTries_only {s0 s : State} {key : Nat × Bool × Nat} {n : Nat} (hk : Only K s0 s)
    (hK : Needs 131072 K := by exact Needs.sub (by assumption) (by decide)) : Only K s0 (State.setFlitTries s key n) := by
  unfold State.setFlitTries
  with_reducible repeat' first
    | assumption | exact Needs.sub ‹_› (by decide) | apply Only.cond | split | (dsimp only; split) | fail_if_no_progress refine Only.mk' ?_

theorem execBridgeFlitTransfer_only {s : State} {flit : BridgeFlit} {crcOk : Bool} (hK : Needs 261754 K) : KeptO
    K s (execBridgeFlitTransfer flit crcOk s) := by
  unfold execBridgeFlitTransfer
  with_reducible repeat' first
    | assumption | apply KeptO.next | apply KeptO.fault | apply KeptO.cond | exact Only.refl _ | apply State.drain_only
    | apply State.raise_only | apply State.setFlitTries_only | exact Needs.sub ‹_› (by decide) | apply Only.cond | split
    | (dsimp only; split) | fail_if_no_progress refine Only.mk' ?_

theorem execRouteRecompute_only {s : State} {links : List (Nat × Nat × Nat)} (hK : Needs 187952 K) : KeptO K s (execRouteRecompute
    links s) := by
  unfold execRouteRecompute
  with_reducible repeat' first
    | assumption | apply KeptO.next | apply KeptO.fault | apply KeptO.cond | exact Only.refl _ | apply State.abortJob_only
    | exact Needs.sub ‹_› (by decide) | apply Only.cond | refine Only.foldl ?_ fun _ _ _ => ?_ | fail_if_no_progress refine Only.mk' ?_
    | split | (dsimp only; split)

end Sys2Proof.Machine
end

