-- ==== Sys2Proof/Laws/FramesTiming.lean ====
section
/-! SUPPORT. What the operations and meanings of Machine/Timing.lean leave as it is: the blocks outside their mask. -/

set_option Elab.async false
set_option linter.unusedTactic false
set_option linter.unreachableTactic false
set_option linter.unusedVariables false

namespace Sys2Proof.Machine

variable {K : Nat}

theorem State.localTo_only {s0 s : State} {t : Nat} (hk : Only K s0 s)
    (hK : Needs 1 K := by exact Needs.sub (by assumption) (by decide)) : Only K s0 (State.localTo s t) := by
  unfold State.localTo
  with_reducible repeat' first
    | assumption | apply State.counterTo_only | apply State.advanceTo_only | exact Needs.sub ‹_› (by decide) | apply Only.cond | split
    | (dsimp only; split) | fail_if_no_progress refine Only.mk' ?_

theorem State.loadCounter_only {s0 s : State} {v : Nat} (hk : Only K s0 s)
    (hK : Needs 90641 K := by exact Needs.sub (by assumption) (by decide)) : Only K s0 (State.loadCounter s v) := by
  unfold State.loadCounter
  with_reducible repeat' first
    | assumption | apply State.resolveStamps_only | refine State.modClock_only ?_ | apply State.judgeAligned_only
    | exact Needs.sub ‹_› (by decide) | apply Only.cond | split | (dsimp only; split) | fail_if_no_progress refine Only.mk' ?_

theorem State.sendTime_only {s0 s : State} {port : Nat} {kind : Nat} {seq : Nat} {a : Nat} {b : Nat} (hk : Only K s0 s)
    (hK : Needs 131072 K := by exact Needs.sub (by assumption) (by decide)) : Only K s0 (State.sendTime s port kind seq a b) := by
  unfold State.sendTime
  with_reducible repeat' first
    | assumption | apply State.sendCourier_only | exact Needs.sub ‹_› (by decide) | apply Only.cond | split | (dsimp only; split)
    | fail_if_no_progress refine Only.mk' ?_

theorem execTimeExchangeStart_only {s : State}  (hK : Needs 131073 K) : KeptO K s (execTimeExchangeStart s) := by
  unfold execTimeExchangeStart
  with_reducible repeat' first
    | assumption | apply KeptO.next | apply KeptO.fault | apply KeptO.cond | exact Only.refl _ | refine State.modClock_only ?_
    | apply State.sendTime_only | exact Needs.sub ‹_› (by decide) | apply Only.cond | refine Only.foldl ?_ fun _ _ _ => ?_ | split
    | (dsimp only; split)

theorem execTimeSync_only {s : State} {port : Nat} {m : TimeMsg} {arrival : Nat} (hK : Needs 131073 K) : KeptO K s (execTimeSync
    port m arrival s) := by
  unfold execTimeSync
  with_reducible repeat' first
    | assumption | apply KeptO.next | apply KeptO.fault | apply KeptO.cond | exact Only.refl _ | refine State.modClock_only ?_
    | apply State.localTo_only | apply State.sendTime_only | exact Needs.sub ‹_› (by decide) | apply Only.cond | split
    | (dsimp only; split) | fail_if_no_progress refine Only.mk' ?_

theorem execTimeDelayRequest_only {s : State} {port : Nat} {m : TimeMsg} {arrival : Nat} (hK : Needs 131073 K) : KeptO K s
    (execTimeDelayRequest port m arrival s) := by
  unfold execTimeDelayRequest
  with_reducible repeat' first
    | assumption | apply KeptO.next | apply KeptO.fault | apply KeptO.cond | exact Only.refl _ | apply State.sendTime_only
    | apply State.localTo_only | exact Needs.sub ‹_› (by decide) | apply Only.cond | split | (dsimp only; split)

theorem State.correct_only {s0 s : State} {port : Nat} {o2 : Int} (hk : Only K s0 s)
    (hK : Needs 17 K := by exact Needs.sub (by assumption) (by decide)) : Only K s0 (State.correct s port o2) := by
  unfold State.correct
  with_reducible repeat' first
    | assumption | apply State.raise_only | refine State.modClock_only ?_ | exact Needs.sub ‹_› (by decide) | apply Only.cond | split
    | (dsimp only; split) | fail_if_no_progress refine Only.mk' ?_

theorem State.loadFrom_only {s0 s : State} {o2 : Int} {d2 : Int} (hk : Only K s0 s)
    (hK : Needs 90641 K := by exact Needs.sub (by assumption) (by decide)) : Only K s0 (State.loadFrom s o2 d2) := by
  unfold State.loadFrom
  with_reducible repeat' first
    | assumption | apply State.loadCounter_only | refine State.modClock_only ?_ | exact Needs.sub ‹_› (by decide) | apply Only.cond | split
    | (dsimp only; split)

theorem execTimeDelayResponse_only {s : State} {port : Nat} {m : TimeMsg} (hK : Needs 90641 K) : KeptO K s (execTimeDelayResponse
    port m s) := by
  unfold execTimeDelayResponse
  with_reducible repeat' first
    | assumption | apply KeptO.next | apply KeptO.fault | apply KeptO.cond | exact Only.refl _ | refine State.modClock_only ?_
    | apply State.correct_only | apply State.loadFrom_only | exact Needs.sub ‹_› (by decide) | apply Only.cond | split
    | (dsimp only; split) | fail_if_no_progress refine Only.mk' ?_

theorem execAlignmentLost_only {s : State}  (hK : Needs 17 K) : KeptO K s (execAlignmentLost s) := by
  unfold execAlignmentLost
  with_reducible repeat' first
    | assumption | apply KeptO.next | apply KeptO.fault | apply KeptO.cond | exact Only.refl _ | apply State.advanceTo_only
    | apply State.raise_only | refine State.modClock_only ?_ | exact Needs.sub ‹_› (by decide) | apply Only.cond | split
    | (dsimp only; split)

theorem State.stepBoundary_only {s0 s : State} (hk : Only K s0 s)
    (hK : Needs 81952 K := by exact Needs.sub (by assumption) (by decide)) : Only K s0 (State.stepBoundary s) := by
  unfold State.stepBoundary
  with_reducible repeat' first
    | assumption | exact Needs.sub ‹_› (by decide) | apply Only.cond | split | (dsimp only; split) | fail_if_no_progress refine Only.mk' ?_

theorem execStepBoundary_only {s : State} (hK : Needs 81953 K) : KeptO K s (execStepBoundary s) := by
  unfold execStepBoundary
  refine KeptO.ifs (fun _ => KeptO.next (Only.refl _)) fun _ => KeptO.next ?_
  have h := Only.refl (K := K) s
  repeat' first
    | with_reducible assumption | with_reducible apply State.stepBoundary_only
    | with_reducible apply State.counterTo_only | with_reducible apply State.advanceTo_only | exact Needs.sub ‹_› (by decide)
    | with_reducible apply Only.cond
    | fail_if_no_progress with_reducible refine Only.mk' ?_

end Sys2Proof.Machine
end

