-- ==== Sys2Proof/Laws/FramesTiles.lean ====
section
/-! SUPPORT. What the operations and meanings of Machine/Tiles.lean leave as it is: the blocks outside their mask. -/

set_option Elab.async false
set_option linter.unusedTactic false
set_option linter.unreachableTactic false
set_option linter.unusedVariables false

namespace Sys2Proof.Machine

variable {K : Nat}

theorem execListFetchDone_only {s : State} {a : ArrId} (hK : Needs 16384 K) : KeptO K s (execListFetchDone a s) := by
  unfold execListFetchDone
  with_reducible repeat' first
    | assumption | apply KeptO.next | apply KeptO.fault | apply KeptO.cond | exact Only.refl _ | apply State.modRegion_only
    | exact Needs.sub ‹_› (by decide) | apply Only.cond | split | (dsimp only; split) | fail_if_no_progress refine Only.mk' ?_

theorem State.stampLines_only {s0 s : State} (hk : Only K s0 s)
    (hK : Needs 32768 K := by exact Needs.sub (by assumption) (by decide)) : Only K s0 (State.stampLines s) := by
  unfold State.stampLines
  with_reducible repeat' first
    | assumption | exact Needs.sub ‹_› (by decide) | apply Only.cond | split | (dsimp only; split) | fail_if_no_progress refine Only.mk' ?_

theorem execFireLatch_only {s : State} {t : TileId} (hK : Needs 523792 K) : KeptO K s (execFireLatch t s) := by
  unfold execFireLatch
  with_reducible repeat' first
    | assumption | apply KeptO.next | apply KeptO.fault | apply KeptO.cond | exact Only.refl _ | apply State.boundary_only
    | apply State.chooseSlot_only | apply State.stampLines_only | exact Needs.sub ‹_› (by decide) | apply Only.cond | split
    | (dsimp only; split) | fail_if_no_progress refine Only.mk' ?_

theorem State.passSelection_only {s0 s : State} {f : Fire} {die : Nat} (hk : Only K s0 s)
    (hK : Needs 17408 K := by exact Needs.sub (by assumption) (by decide)) : Only K s0 (State.passSelection s f die) := by
  unfold State.passSelection
  with_reducible repeat' first
    | assumption | apply State.modStep_only | exact Needs.sub ‹_› (by decide) | apply Only.cond | split | (dsimp only; split)
    | fail_if_no_progress refine Only.mk' ?_

theorem State.overRange0_only {s0 s : State} {t : TileId} {fl : Flight} (hk : Only K s0 s)
    (hK : Needs 196096 K := by exact Needs.sub (by assumption) (by decide)) : Only K s0 (State.overRange0 s t fl) := by
  unfold State.overRange0
  with_reducible repeat' first
    | assumption | apply State.modTile_only | apply State.failStep_only | apply State.passSelection_only | apply State.putJob_only
    | apply State.countEquiv_only | apply State.selectLast_only | exact Needs.sub ‹_› (by decide) | apply Only.cond | split
    | (dsimp only; split) | fail_if_no_progress refine Only.mk' ?_

theorem execConverterResult_only {s : State} {t : TileId} {codes : List Int} {flags : List Bool} (hK : Needs 196096 K) : KeptO K s
    (execConverterResult t codes flags s) := by
  unfold execConverterResult
  with_reducible repeat' first
    | assumption | apply KeptO.next | apply KeptO.fault | apply KeptO.cond | exact Only.refl _ | apply State.modTile_only
    | apply State.overRange0_only | apply State.selectLast_only | exact Needs.sub ‹_› (by decide) | apply Only.cond | split
    | (dsimp only; split) | fail_if_no_progress refine Only.mk' ?_

theorem State.spotCopy_only {s0 s : State} {t : TileId} {fl : Flight} (hk : Only K s0 s)
    (hK : Needs 262144 K := by exact Needs.sub (by assumption) (by decide)) : Only K s0 (State.spotCopy s t fl).2 := by
  unfold State.spotCopy
  with_reducible repeat' first
    | assumption | apply State.nextDraw_only | exact Needs.sub ‹_› (by decide) | apply Only.cond | split | (dsimp only; split)
    | fail_if_no_progress refine Only.mk' ?_

theorem State.postmarkPasses_only {s0 s : State} {t : TileId} {fl : Flight} (hk : Only K s0 s)
    (hK : Needs 278528 K := by exact Needs.sub (by assumption) (by decide)) : Only K s0 (State.postmarkPasses s t fl) := by
  unfold State.postmarkPasses
  with_reducible repeat' first
    | assumption | apply State.modTile_only | apply State.spotCopy_only | apply State.modRegion_only | apply State.selectLast_only
    | exact Needs.sub ‹_› (by decide) | apply Only.cond | split | (dsimp only; split) | fail_if_no_progress refine Only.mk' ?_

theorem execPostmarkComparison_only {s : State} {t : TileId} (hK : Needs 523903 K) : KeptO K s (execPostmarkComparison t s) := by
  unfold execPostmarkComparison
  with_reducible repeat' first
    | assumption | apply KeptO.next | apply KeptO.fault | apply KeptO.cond | exact Only.refl _ | apply State.modTile_only
    | apply State.postmarkPasses_only | apply State.raise_only | apply State.transient_only | apply State.tryEntry_only
    | apply State.active_only | exact Needs.sub ‹_› (by decide) | apply Only.cond | split | (dsimp only; split)
    | fail_if_no_progress refine Only.mk' ?_

theorem State.vectorDue_only {s0 s : State} {t : TileId} {fl : Flight} (hk : Only K s0 s)
    (hK : Needs 196096 K := by exact Needs.sub (by assumption) (by decide)) : Only K s0 (State.vectorDue s t fl) := by
  unfold State.vectorDue
  with_reducible repeat' first
    | assumption | apply State.modTile_only | apply State.failStep_only | apply State.putJob_only | exact Needs.sub ‹_› (by decide)
    | apply Only.cond | split | (dsimp only; split) | fail_if_no_progress refine Only.mk' ?_

theorem execFireAdd_only {s : State} {t : TileId} (hK : Needs 261759 K) : KeptO K s (execFireAdd t s) := by
  unfold execFireAdd
  with_reducible repeat' first
    | assumption | apply KeptO.next | apply KeptO.fault | apply KeptO.cond | exact Only.refl _ | apply State.modTile_only
    | apply State.addToBank_only | apply State.countEquiv_only | apply State.vectorDue_only | apply State.countFires_only
    | apply State.tryEntry_only | apply State.active_only | exact Needs.sub ‹_› (by decide) | apply Only.cond | split | (dsimp only; split)
    | fail_if_no_progress refine Only.mk' ?_

theorem execOutlierAdd_only {s : State} {t : TileId} (hK : Needs 196112 K) : KeptO K s (execOutlierAdd t s) := by
  unfold execOutlierAdd
  with_reducible repeat' first
    | assumption | apply KeptO.next | apply KeptO.fault | apply KeptO.cond | exact Only.refl _ | apply State.modTile_only
    | apply State.tryDrain_only | apply State.addToBank_only | exact Needs.sub ‹_› (by decide) | apply Only.cond | split
    | (dsimp only; split) | fail_if_no_progress refine Only.mk' ?_

theorem State.addPart_only {s0 s : State} {t : TileId} {arr : Nat} {p : FbPart} {v : List Int} (hk : Only K s0 s)
    (hK : Needs 196112 K := by exact Needs.sub (by assumption) (by decide)) : Only K s0 (State.addPart s t arr p v) := by
  unfold State.addPart
  with_reducible repeat' first
    | assumption | apply State.addToBank_only | apply State.modTile_only | apply State.tryDrain_only | exact Needs.sub ‹_› (by decide)
    | apply Only.cond | split | (dsimp only; split) | fail_if_no_progress refine Only.mk' ?_

theorem execFallbackJobDone_only {s : State} {die : Nat} {unit : Nat} (hK : Needs 196112 K) : KeptO K s (execFallbackJobDone die
    unit s) := by
  unfold execFallbackJobDone
  with_reducible repeat' first
    | assumption | apply KeptO.next | apply KeptO.fault | apply KeptO.cond | exact Only.refl _ | apply State.modRegion_only
    | apply State.failStep_only | apply State.addPart_only | exact Needs.sub ‹_› (by decide) | apply Only.cond
    | refine Only.foldl ?_ fun _ _ _ => ?_ | split | (dsimp only; split) | fail_if_no_progress refine Only.mk' ?_

theorem State.excursion_only {s0 s : State} {a : ArrId} (hk : Only K s0 s)
    (hK : Needs 16400 K := by exact Needs.sub (by assumption) (by decide)) : Only K s0 (State.excursion s a) := by
  unfold State.excursion
  with_reducible repeat' first
    | assumption | apply State.modTile_only | apply State.requestCal_only | apply State.raise_only | exact Needs.sub ‹_› (by decide)
    | apply Only.cond | split | (dsimp only; split) | fail_if_no_progress refine Only.mk' ?_

theorem execSpotComparisonDone_only {s : State} {die : Nat} {unit : Nat} (hK : Needs 261754 K) : KeptO K s (execSpotComparisonDone
    die unit s) := by
  unfold execSpotComparisonDone
  with_reducible repeat' first
    | assumption | apply KeptO.next | apply KeptO.fault | apply KeptO.cond | exact Only.refl _ | apply State.modRegion_only
    | apply State.raise_only | apply State.transient_only | apply State.requestCal_only | apply State.excursion_only
    | exact Needs.sub ‹_› (by decide) | apply Only.cond | split | (dsimp only; split) | fail_if_no_progress refine Only.mk' ?_

theorem State.adapterInto_only {s0 s : State} {tag : Nat} {token : Nat} {tensor : Nat} {adapter : Nat} {e : TileId × Nat × Nat} (hk
    : Only K s0 s)
    (hK : Needs 196112 K := by exact Needs.sub (by assumption) (by decide)) : Only K s0 (State.adapterInto s tag token tensor adapter e) := by
  unfold State.adapterInto
  with_reducible repeat' first
    | assumption | apply State.modTile_only | apply State.tryDrain_only | apply State.addToBank_only | apply State.failStep_only
    | exact Needs.sub ‹_› (by decide) | apply Only.cond | split | (dsimp only; split) | fail_if_no_progress refine Only.mk' ?_

theorem execAdapterContribution_only {s : State} {stepTag : Nat} {token : Nat} {tensor : Nat} {adapter : Nat} (hK : Needs 196112 K)
    : KeptO K s (execAdapterContribution stepTag token tensor adapter s) := by
  unfold execAdapterContribution
  with_reducible repeat' first
    | assumption | apply KeptO.next | apply KeptO.fault | apply KeptO.cond | exact Only.refl _ | apply State.adapterInto_only
    | apply State.gather_only | exact Needs.sub ‹_› (by decide) | apply Only.cond | refine Only.foldl ?_ fun _ _ _ => ?_ | split
    | (dsimp only; split) | fail_if_no_progress refine Only.mk' ?_

theorem execBankDrainDone_only {s : State} {t : TileId} {bank : Nat} (hK : Needs 49152 K) : KeptO K s (execBankDrainDone t bank s) := by
  unfold execBankDrainDone
  with_reducible repeat' first
    | assumption | apply KeptO.next | apply KeptO.fault | apply KeptO.cond | exact Only.refl _ | apply State.modTile_only
    | apply State.stampLines_only | exact Needs.sub ‹_› (by decide) | apply Only.cond | split | (dsimp only; split)
    | fail_if_no_progress refine Only.mk' ?_

end Sys2Proof.Machine
end

