-- ==== Sys2Proof/Laws/FramesReduce.lean ====
section
/-! SUPPORT. What the operations and meanings of Machine/Reduce.lean leave as it is: the blocks outside their mask. -/

set_option Elab.async false
set_option linter.unusedTactic false
set_option linter.unreachableTactic false
set_option linter.unusedVariables false

namespace Sys2Proof.Machine

variable {K : Nat}

theorem State.reductionFault_only {s0 s : State} {l : LineId} {source : Nat} {tag : Nat} {epoch : Nat} (hk : Only K s0 s)
    (hK : Needs 261754 K := by exact Needs.sub (by assumption) (by decide)) : Only K s0 (State.reductionFault s l source tag epoch) := by
  unfold State.reductionFault
  with_reducible repeat' first
    | assumption | apply State.transient_only | apply State.raise_only | exact Needs.sub ‹_› (by decide)

theorem State.lineOverflow_only {s0 s : State} {l : LineId} {source : Nat} {tag : Nat} (hk : Only K s0 s)
    (hK : Needs 196112 K := by exact Needs.sub (by assumption) (by decide)) : Only K s0 (State.lineOverflow s l source tag) := by
  unfold State.lineOverflow
  with_reducible repeat' first
    | assumption | apply State.failStep_only | apply State.raise_only | exact Needs.sub ‹_› (by decide) | apply Only.cond | split
    | (dsimp only; split) | fail_if_no_progress refine Only.mk' ?_

theorem State.putLine_only {s0 s : State} {l : Line} (hk : Only K s0 s)
    (hK : Needs 32768 K := by exact Needs.sub (by assumption) (by decide)) : Only K s0 (State.putLine s l) := by
  unfold State.putLine
  with_reducible repeat' first
    | assumption | exact Needs.sub ‹_› (by decide) | apply Only.cond | fail_if_no_progress refine Only.mk' ?_

theorem State.deliverLine_only {s0 s : State} {tag : Nat} {outfmt : Nat} {width : Nat} {d : LineDest} {elems : List Int} (hk : Only
    K s0 s)
    (hK : Needs 196144 K := by exact Needs.sub (by assumption) (by decide)) : Only K s0 (State.deliverLine s tag outfmt width d elems) := by
  unfold State.deliverLine
  with_reducible repeat' first
    | assumption | apply State.deliverValues_only | apply State.failStep_only | exact Needs.sub ‹_› (by decide) | split
    | (dsimp only; split)

theorem State.addContribution_only {s0 s : State} {g : Ledger} {addr : Nat} {width : Nat} {elems : List Int} (hk : Only K s0 s)
    (hK : Needs 261754 K := by exact Needs.sub (by assumption) (by decide)) : Only K s0 (State.addContribution s g addr width elems) := by
  unfold State.addContribution
  with_reducible repeat' first
    | assumption | apply State.setLedger_only | apply State.reductionFault_only | apply State.lineOverflow_only
    | apply State.deliverLine_only | apply State.raise_only | exact Needs.sub ‹_› (by decide) | apply Only.cond | split
    | (dsimp only; split) | fail_if_no_progress refine Only.mk' ?_

theorem State.contribution_only {s0 s : State} {job : Nat} {step : Nat} {epoch : Nat} {addr : Nat} {width : Nat} {elems : List Int}
    (hk : Only K s0 s)
    (hK : Needs 261754 K := by exact Needs.sub (by assumption) (by decide)) : Only K s0 (State.contribution s job step epoch addr width elems) := by
  unfold State.contribution
  with_reducible repeat' first
    | assumption | apply State.addContribution_only | exact Needs.sub ‹_› (by decide) | apply Only.cond | split | (dsimp only; split)
    | fail_if_no_progress refine Only.mk' ?_

theorem State.contribute_only {s0 s : State} {l : Line} (hk : Only K s0 s)
    (hK : Needs 261754 K := by exact Needs.sub (by assumption) (by decide)) : Only K s0 (State.contribute s l) := by
  unfold State.contribute
  with_reducible repeat' first
    | assumption | apply State.contribution_only | apply State.deliverValues_only | apply State.sendForJob_only
    | exact Needs.sub ‹_› (by decide) | apply Only.cond | split | (dsimp only; split) | fail_if_no_progress refine Only.mk' ?_

theorem State.completeLine_only {s0 s : State} {l : Line} (hk : Only K s0 s)
    (hK : Needs 261754 K := by exact Needs.sub (by assumption) (by decide)) : Only K s0 (State.completeLine s l) := by
  unfold State.completeLine
  with_reducible repeat' first
    | assumption | apply State.contribute_only | apply State.deliverLine_only | exact Needs.sub ‹_› (by decide) | apply Only.cond

theorem execDrainArrival_only {s : State} {idx : Nat} (hK : Needs 261754 K) : KeptO K s (execDrainArrival idx s) := by
  unfold execDrainArrival
  with_reducible repeat' first
    | assumption | apply KeptO.next | apply KeptO.fault | apply KeptO.cond | exact Only.refl _ | apply State.reductionFault_only
    | apply State.putLine_only | apply State.lineOverflow_only | apply State.completeLine_only | exact Needs.sub ‹_› (by decide)
    | apply Only.cond | split | (dsimp only; split) | fail_if_no_progress refine Only.mk' ?_

theorem execLineTimeout_only {s : State} {die : Nat} {off : Nat} (hK : Needs 261755 K) : KeptO K s (execLineTimeout die off s) := by
  unfold execLineTimeout
  with_reducible repeat' first
    | assumption | apply KeptO.next | apply KeptO.fault | apply KeptO.cond | exact Only.refl _ | apply State.reductionFault_only
    | apply State.putLine_only | apply State.advanceTo_only | exact Needs.sub ‹_› (by decide) | apply Only.cond | split
    | (dsimp only; split) | fail_if_no_progress refine Only.mk' ?_

theorem State.dropJobFrame_only {s0 s : State} (hk : Only K s0 s)
    (hK : Needs 32 K := by exact Needs.sub (by assumption) (by decide)) : Only K s0 (State.dropJobFrame s) := by
  unfold State.dropJobFrame
  with_reducible repeat' first
    | assumption | refine State.countDrop_only ?_ | exact Needs.sub ‹_› (by decide)

theorem State.e2eFailure_only {s0 s : State} {h : CourierHdr} (hk : Only K s0 s)
    (hK : Needs 261754 K := by exact Needs.sub (by assumption) (by decide)) : Only K s0 (State.e2eFailure s h) := by
  unfold State.e2eFailure
  with_reducible repeat' first
    | assumption | apply State.raise_only | refine State.countDrop_only ?_ | apply State.transient_only | exact Needs.sub ‹_› (by decide)
    | apply Only.cond | refine Only.foldl ?_ fun _ _ _ => ?_

theorem State.withCourier_only {s0 s : State} {h : CourierHdr} {type : Nat} {f : State → State} (hk : Only K s0 s) (hf : ∀ x , Only
    K s0 x → Only K s0 (f x ))
    (hK : Needs 261754 K := by exact Needs.sub (by assumption) (by decide)) : Only K s0 (State.withCourier s h type f) := by
  unfold State.withCourier
  with_reducible repeat' first
    | assumption | apply hf | apply State.e2eFailure_only | refine State.countDrop_only ?_ | apply State.dropJobFrame_only
    | apply State.scheduleWakes_only | exact Needs.sub ‹_› (by decide) | apply Only.cond | split | (dsimp only; split)
    | fail_if_no_progress refine Only.mk' ?_

theorem State.refuseRecord_only {s0 s : State} {version : Nat} (hk : Only K s0 s)
    (hK : Needs 32 K := by exact Needs.sub (by assumption) (by decide)) : Only K s0 (State.refuseRecord s version) := by
  unfold State.refuseRecord
  with_reducible repeat' first
    | assumption | refine State.countDrop_only ?_ | exact Needs.sub ‹_› (by decide) | apply Only.cond

theorem State.takeContribution_only {s0 s : State} {payload : Bytes} (hk : Only K s0 s)
    (hK : Needs 261754 K := by exact Needs.sub (by assumption) (by decide)) : Only K s0 (State.takeContribution s payload) := by
  unfold State.takeContribution
  with_reducible repeat' first
    | assumption | apply State.dropJobFrame_only | apply State.refuseRecord_only | apply State.contribution_only
    | exact Needs.sub ‹_› (by decide) | apply Only.cond | split | (dsimp only; split) | fail_if_no_progress refine Only.mk' ?_

theorem execContributionRecord_only {s : State} {h : CourierHdr} {payload : Bytes} (hK : Needs 261754 K) : KeptO K s
    (execContributionRecord h payload s) := by
  unfold execContributionRecord
  with_reducible repeat' first
    | assumption | apply KeptO.next | apply KeptO.fault | apply KeptO.cond | exact Only.refl _
    | refine State.withCourier_only ?_ (fun _ _ => ?_) | apply State.takeContribution_only | exact Needs.sub ‹_› (by decide) | split
    | (dsimp only; split)

theorem State.noticeStep_only {s0 s : State} {job : Nat} {step : Nat} {epoch : Nat} (hk : Only K s0 s)
    (hK : Needs 196144 K := by exact Needs.sub (by assumption) (by decide)) : Only K s0 (State.noticeStep s job step epoch) := by
  unfold State.noticeStep
  with_reducible repeat' first
    | assumption | apply State.rerun_only | apply State.replayRecord_only | apply State.abortJob_only | exact Needs.sub ‹_› (by decide)
    | apply Only.cond | split | (dsimp only; split)

theorem State.takeReplay_only {s0 s : State} {payload : Bytes} (hk : Only K s0 s)
    (hK : Needs 196144 K := by exact Needs.sub (by assumption) (by decide)) : Only K s0 (State.takeReplay s payload) := by
  unfold State.takeReplay
  with_reducible repeat' first
    | assumption | apply State.dropJobFrame_only | apply State.refuseRecord_only | apply State.setLedger_only | apply State.noticeStep_only
    | exact Needs.sub ‹_› (by decide) | apply Only.cond | split | (dsimp only; split) | fail_if_no_progress refine Only.mk' ?_

theorem execReplayNotice_only {s : State} {h : CourierHdr} {payload : Bytes} (hK : Needs 261754 K) : KeptO K s (execReplayNotice h
    payload s) := by
  unfold execReplayNotice
  with_reducible repeat' first
    | assumption | apply KeptO.next | apply KeptO.fault | apply KeptO.cond | exact Only.refl _
    | refine State.withCourier_only ?_ (fun _ _ => ?_) | apply State.takeReplay_only | exact Needs.sub ‹_› (by decide) | split
    | (dsimp only; split)

theorem execAttentionResult_only {s : State} {stepTag : Nat} {token : Nat} {head : Nat} (hK : Needs 458288 K) : KeptO K s
    (execAttentionResult stepTag token head s) := by
  unfold execAttentionResult
  with_reducible repeat' first
    | assumption | apply KeptO.next | apply KeptO.fault | apply KeptO.cond | exact Only.refl _ | apply State.attend_only
    | exact Needs.sub ‹_› (by decide) | apply Only.cond | split | (dsimp only; split)

end Sys2Proof.Machine
end

