-- ==== Sys2Proof/Laws/FramesFabric.lean ====
section
/-! SUPPORT. What the operations and meanings of Machine/Fabric.lean leave as it is: the blocks outside their mask. -/

set_option Elab.async false
set_option linter.unusedTactic false
set_option linter.unreachableTactic false
set_option linter.unusedVariables false

namespace Sys2Proof.Machine

variable {K : Nat}

theorem State.dropActivations_only {s0 s : State} {n : Nat} (hk : Only K s0 s)
    (hK : Needs 32 K := by exact Needs.sub (by assumption) (by decide)) : Only K s0 (State.dropActivations s n) := by
  unfold State.dropActivations
  with_reducible repeat' first
    | assumption | refine State.countDrop_only ?_ | exact Needs.sub ‹_› (by decide)

theorem State.wakeTokens_only {s0 s : State} {o : OpenStep} {token : Nat} (hk : Only K s0 s)
    (hK : Needs 196144 K := by exact Needs.sub (by assumption) (by decide)) : Only K s0 (State.wakeTokens s o token) := by
  unfold State.wakeTokens
  with_reducible repeat' first
    | assumption | apply State.advanceToken_only | exact Needs.sub ‹_› (by decide) | apply Only.cond | refine Only.foldl ?_ fun _ _ _ => ?_

theorem State.placeActivation_only {s0 s : State} {o : OpenStep} {a : Activation} (hk : Only K s0 s)
    (hK : Needs 196144 K := by exact Needs.sub (by assumption) (by decide)) : Only K s0 (State.placeActivation s o a) := by
  unfold State.placeActivation
  with_reducible repeat' first
    | assumption | apply State.dropActivations_only | apply State.wakeTokens_only | exact Needs.sub ‹_› (by decide) | apply Only.cond
    | fail_if_no_progress refine Only.mk' ?_

theorem State.holdActivation_only {s0 s : State} {a : Activation} (hk : Only K s0 s)
    (hK : Needs 131104 K := by exact Needs.sub (by assumption) (by decide)) : Only K s0 (State.holdActivation s a) := by
  unfold State.holdActivation
  with_reducible repeat' first
    | assumption | apply State.dropActivations_only | exact Needs.sub ‹_› (by decide) | apply Only.cond
    | fail_if_no_progress refine Only.mk' ?_

theorem State.takeActivation_only {s0 s : State} {job : Nat} {p : Bytes} (hk : Only K s0 s)
    (hK : Needs 196144 K := by exact Needs.sub (by assumption) (by decide)) : Only K s0 (State.takeActivation s job p) := by
  unfold State.takeActivation
  with_reducible repeat' first
    | assumption | apply State.refuseRecord_only | apply State.placeActivation_only | apply State.holdActivation_only
    | exact Needs.sub ‹_› (by decide) | apply Only.cond | split | (dsimp only; split)

theorem execActivationRecord_only {s : State} {h : CourierHdr} {payload : Bytes} (hK : Needs 261754 K) : KeptO K s
    (execActivationRecord h payload s) := by
  unfold execActivationRecord
  with_reducible repeat' first
    | assumption | apply KeptO.next | apply KeptO.fault | apply KeptO.cond | exact Only.refl _
    | refine State.withCourier_only ?_ (fun _ _ => ?_) | apply State.takeActivation_only | exact Needs.sub ‹_› (by decide) | split
    | (dsimp only; split)

theorem execActivationHoldTimeout_only {s : State} {job : Nat} {step : Nat} {token : Nat} (hK : Needs 131105 K) : KeptO K s
    (execActivationHoldTimeout job step token s) := by
  unfold execActivationHoldTimeout
  with_reducible repeat' first
    | assumption | apply KeptO.next | apply KeptO.fault | apply KeptO.cond | exact Only.refl _ | apply State.advanceTo_only
    | apply State.dropActivations_only | exact Needs.sub ‹_› (by decide) | fail_if_no_progress refine Only.mk' ?_ | split
    | (dsimp only; split)

theorem State.takeControl_only {s0 s : State} {p : Bytes} (hk : Only K s0 s)
    (hK : Needs 187952 K := by exact Needs.sub (by assumption) (by decide)) : Only K s0 (State.takeControl s p) := by
  unfold State.takeControl
  with_reducible repeat' first
    | assumption | apply State.dropJobFrame_only | apply State.abortJob_only | exact Needs.sub ‹_› (by decide) | apply Only.cond

theorem execModuleDownNotice_only {s : State} {h : CourierHdr} {payload : Bytes} (hK : Needs 261754 K) : KeptO K s
    (execModuleDownNotice h payload s) := by
  unfold execModuleDownNotice
  with_reducible repeat' first
    | assumption | apply KeptO.next | apply KeptO.fault | apply KeptO.cond | exact Only.refl _
    | refine State.withCourier_only ?_ (fun _ _ => ?_) | apply State.takeControl_only | exact Needs.sub ‹_› (by decide) | split
    | (dsimp only; split)

theorem execJobAbortNotice_only {s : State} {h : CourierHdr} {payload : Bytes} (hK : Needs 261754 K) : KeptO K s
    (execJobAbortNotice h payload s) := by
  unfold execJobAbortNotice
  with_reducible repeat' first
    | assumption | apply KeptO.next | apply KeptO.fault | apply KeptO.cond | exact Only.refl _
    | refine State.withCourier_only ?_ (fun _ _ => ?_) | apply State.takeControl_only | exact Needs.sub ‹_› (by decide) | split
    | (dsimp only; split)

theorem execJobWaitTimeout_only {s : State} {job : Nat} (hK : Needs 187953 K) : KeptO K s (execJobWaitTimeout job s) := by
  unfold execJobWaitTimeout
  with_reducible repeat' first
    | assumption | apply KeptO.next | apply KeptO.fault | apply KeptO.cond | exact Only.refl _ | apply State.abortJob_only
    | apply State.advanceTo_only | exact Needs.sub ‹_› (by decide) | apply Only.cond | split | (dsimp only; split)
    | fail_if_no_progress refine Only.mk' ?_

theorem State.takeParcel_only {s0 s : State} {p : Bytes} (hk : Only K s0 s)
    (hK : Needs 139296 K := by exact Needs.sub (by assumption) (by decide)) : Only K s0 (State.takeParcel s p) := by
  unfold State.takeParcel
  with_reducible repeat' first
    | assumption | apply State.parcelData_only | exact Needs.sub ‹_› (by decide) | apply Only.cond

theorem execCourierParcelFrame_only {s : State} {h : CourierHdr} {payload : Bytes} (hK : Needs 261754 K) : KeptO K s
    (execCourierParcelFrame h payload s) := by
  unfold execCourierParcelFrame
  with_reducible repeat' first
    | assumption | apply KeptO.next | apply KeptO.fault | apply KeptO.cond | exact Only.refl _
    | refine State.withCourier_only ?_ (fun _ _ => ?_) | apply State.takeParcel_only | exact Needs.sub ‹_› (by decide) | split
    | (dsimp only; split)

theorem State.takeCourier_only {s0 s : State} {h : CourierHdr} {p : Bytes} (hk : Only K s0 s)
    (hK : Needs 261754 K := by exact Needs.sub (by assumption) (by decide)) : Only K s0 (State.takeCourier s h p) := by
  unfold State.takeCourier
  with_reducible repeat' first
    | assumption | refine State.withCourier_only ?_ (fun _ _ => ?_) | apply State.takeReplay_only | apply State.takeContribution_only
    | apply State.takeParcel_only | apply State.takeActivation_only | apply State.takeControl_only | refine State.countDrop_only ?_
    | exact Needs.sub ‹_› (by decide) | apply Only.cond

theorem State.forward_only {s0 s : State} {h : CourierHdr} {p : Bytes} (hk : Only K s0 s)
    (hK : Needs 187952 K := by exact Needs.sub (by assumption) (by decide)) : Only K s0 (State.forward s h p) := by
  unfold State.forward
  with_reducible repeat' first
    | assumption | apply State.raise_only | refine State.countDrop_only ?_ | apply State.sendOrAbort_only | exact Needs.sub ‹_› (by decide)
    | apply Only.cond | split | (dsimp only; split) | fail_if_no_progress refine Only.mk' ?_

theorem execCourierFrameRoute_only {s : State} {h : CourierHdr} {payload : Bytes} (hK : Needs 261754 K) : KeptO K s
    (execCourierFrameRoute h payload s) := by
  unfold execCourierFrameRoute
  with_reducible repeat' first
    | assumption | apply KeptO.next | apply KeptO.fault | apply KeptO.cond | exact Only.refl _ | apply State.takeCourier_only
    | apply State.forward_only | exact Needs.sub ‹_› (by decide) | apply Only.cond | split | (dsimp only; split)

end Sys2Proof.Machine
end

