-- ==== Sys2Proof/Laws/FramesCommands.lean ====
section
/-! SUPPORT. What the operations and meanings of Machine/Commands.lean leave as it is: the blocks outside their mask. -/

set_option Elab.async false
set_option linter.unusedTactic false
set_option linter.unreachableTactic false
set_option linter.unusedVariables false

namespace Sys2Proof.Machine

variable {K : Nat}

/-- The state of a command's outcome differs from `s` in no block outside the mask. -/
def DoneO (K : Nat) (s : State) (r : CmdOut) : Prop := Only K s r.state

theorem DoneO.done {s t : State} (h : Only K s t) : DoneO K s t.done := h
theorem DoneO.doneWith {s t : State} {b : Bytes} (h : Only K s t) : DoneO K s (t.doneWith b) := h
theorem DoneO.fails {s t : State} {n : Nat} (h : Only K s t) : DoneO K s (t.fails n) := h
theorem DoneO.failsAt {s t : State} {n d : Nat} (h : Only K s t) : DoneO K s (t.failsAt n d) := h
theorem DoneO.of_only {s t : State} {n d : Nat} {b : Bytes} (h : Only K s t) : DoneO K s ⟨n, d, b, t⟩ := h

theorem DoneO.ifs {s : State} {a b : CmdOut} {c : Prop} {d : Decidable c} (ha : c → DoneO K s a) (hb : ¬ c → DoneO K s b) :
    DoneO K s (@ite CmdOut c d a b) := by
  by_cases h : c
  · rw [if_pos h]; exact ha h
  · rw [if_neg h]; exact hb h

theorem DoneO.cond {s : State} {a b : CmdOut} {c : Prop} {d : Decidable c} (ha : DoneO K s a) (hb : DoneO K s b) :
    DoneO K s (@ite CmdOut c d a b) :=
  DoneO.ifs (fun _ => ha) fun _ => hb

/-- What a command does, and what follows its RESPONSE, stays within the mask. -/
structure Command.Within (K : Nat) (k : Command) : Prop where
  run : ∀ s0 s a, Only K s0 s → DoneO K s0 (k.run s a)
  post : ∀ s0 s a, Only K s0 s → Only K s0 (k.post s a)

theorem State.carry_only {s0 s : State} {c : CmdFrame} {k : Command} (h : k.Within K) (hk : Only K s0 s) : DoneO K s0 (s.carry c k) := by
  unfold State.carry
  repeat' first
    | with_reducible refine DoneO.ifs (fun _ => ?_) (fun _ => ?_) | with_reducible exact DoneO.fails hk
    | with_reducible exact DoneO.failsAt hk | with_reducible exact h.run _ _ _ hk | split

theorem State.complete_only {s0 s : State} {c : CmdFrame} {opcode : Nat} {r : CmdOut} (hr : DoneO K s0 r) (hk : Only K s0 s) (hK : Needs 3592 K := by exact Needs.sub (by assumption) (by decide)) :
    Only K s0 (s.complete c opcode r) := by
  unfold State.complete
  have h1 : Only K s0 (if r.code = 0 then r.state else s) := Only.ifs (fun _ => hr) fun _ => hk
  generalize (if r.code = 0 then r.state else s) = s1 at h1
  refine State.respondWith_only (Only.ifs (fun _ => State.writeMem_only ?_) fun _ => ?_) <;> exact Only.mk' h1

theorem State.refuseCommand_only {s0 s : State} {c : CmdFrame} {status : Nat} (hk : Only K s0 s)
    (hK : Needs 512 K := by exact Needs.sub (by assumption) (by decide)) : Only K s0 (State.refuseCommand c s status) := by
  unfold State.refuseCommand
  with_reducible repeat' first
    | assumption | apply State.respondWith_only | exact Needs.sub ‹_› (by decide) | apply Only.cond | split | (dsimp only; split)
    | fail_if_no_progress refine Only.mk' ?_

theorem State.carryOut_only {s0 s : State} {c : CmdFrame} {k : Command} (h : k.Within K) (hk : Only K s0 s) (hK : Needs 3592 K := by exact Needs.sub (by assumption) (by decide)) :
    Only K s0 (State.carryOut c k s) := by
  unfold State.carryOut
  have h1 := State.complete_only (c := c) (opcode := k.opcode) (State.carry_only (c := c) h hk) hk
  exact Only.ifs (fun _ => State.refuseCommand_only hk) fun _ => Only.ifs (fun _ => h.post _ _ _ h1) fun _ => h1

theorem State.command_only {s0 s : State} {c : CmdFrame} {k : Command} (h : k.Within K) (hk : Only K s0 s) (hK : Needs 204410 K := by exact Needs.sub (by assumption) (by decide)) :
    Only K s0 (s.command c k) :=
  State.takeChecked_only hk (fun _ hx => State.carryOut_only h hx) fun _ _ hx => State.refuseCommand_only hx

theorem cmdReserved_only {opcode : Nat} : Command.Within K (cmdReserved opcode) :=
  ⟨fun _ _ _ hk => DoneO.fails hk, fun _ _ _ hk => hk⟩

theorem State.reservedCommand_only {s0 s : State} {c : CmdFrame} {opcode : Nat} (hk : Only K s0 s) (hK : Needs 204410 K := by exact Needs.sub (by assumption) (by decide)) :
    Only K s0 (s.reservedCommand c opcode) :=
  State.command_only ⟨(cmdReserved_only (opcode := opcode)).run, (cmdReserved_only (opcode := opcode)).post⟩ hk

theorem execReservedOpcode_only {s : State} {c : CmdFrame} {opcode : Nat} (hK : Needs 204410 K) : KeptO K s (execReservedOpcode c
    opcode s) := by
  unfold execReservedOpcode
  with_reducible repeat' first
    | assumption | apply KeptO.next | apply KeptO.fault | apply KeptO.cond | exact Only.refl _ | apply State.reservedCommand_only
    | exact Needs.sub ‹_› (by decide) | apply Only.cond | split | (dsimp only; split)

theorem State.addWindow_only {s0 s : State} {w : Window} (hk : Only K s0 s)
    (hK : Needs 1024 K := by exact Needs.sub (by assumption) (by decide)) : Only K s0 (State.addWindow s w) := by
  unfold State.addWindow
  with_reducible repeat' first
    | assumption | exact Needs.sub ‹_› (by decide) | fail_if_no_progress refine Only.mk' ?_

theorem cmdCreateWindow_only
    (hK : Needs 1024 K := by exact Needs.sub (by assumption) (by decide)) : Command.Within K cmdCreateWindow := by
  refine ⟨fun s0 s a hk => ?_, fun s0 s a hk => ?_⟩
  all_goals dsimp only [cmdCreateWindow]
  all_goals with_reducible repeat' first
    | assumption | exact DoneO.of_only ‹_› | apply DoneO.cond | apply DoneO.done | apply DoneO.doneWith | apply DoneO.fails
    | apply DoneO.failsAt | apply State.addWindow_only | exact Needs.sub ‹_› (by decide) | apply Only.cond

theorem execCreateWindow_only {s : State} {c : CmdFrame} (hK : Needs 204410 K) : KeptO K s (execCreateWindow c s) := by
  unfold execCreateWindow
  with_reducible repeat' first
    | assumption | apply KeptO.next | apply KeptO.fault | apply KeptO.cond | exact Only.refl _
    | refine State.command_only cmdCreateWindow_only ?_ | exact Needs.sub ‹_› (by decide) | split | (dsimp only; split)

theorem cmdDeleteWindow_only (hK : Needs 3072 K := by exact Needs.sub (by assumption) (by decide)) : Command.Within K cmdDeleteWindow := by
  refine ⟨fun s0 s a hk => ?_, fun s0 s a hk => hk⟩
  dsimp only [cmdDeleteWindow]
  split
  · exact DoneO.fails hk
  · exact DoneO.ifs (fun _ => DoneO.fails hk) fun _ => DoneO.done (Only.mk' hk)

theorem execDeleteWindow_only {s : State} {c : CmdFrame} (hK : Needs 204410 K) : KeptO K s (execDeleteWindow c s) := by
  unfold execDeleteWindow
  with_reducible repeat' first
    | assumption | apply KeptO.next | apply KeptO.fault | apply KeptO.cond | exact Only.refl _
    | refine State.command_only cmdDeleteWindow_only ?_ | exact Needs.sub ‹_› (by decide) | split | (dsimp only; split)

theorem cmdCreateQueue_only
    (hK : Needs 1024 K := by exact Needs.sub (by assumption) (by decide)) : Command.Within K cmdCreateQueue := by
  refine ⟨fun s0 s a hk => ?_, fun s0 s a hk => ?_⟩
  all_goals dsimp only [cmdCreateQueue]
  all_goals with_reducible repeat' first
    | assumption | exact DoneO.of_only ‹_› | apply DoneO.cond | apply DoneO.done | apply DoneO.doneWith | apply DoneO.fails
    | apply DoneO.failsAt | exact Needs.sub ‹_› (by decide) | apply Only.cond | fail_if_no_progress refine Only.mk' ?_

theorem execCreateQueue_only {s : State} {c : CmdFrame} (hK : Needs 204410 K) : KeptO K s (execCreateQueue c s) := by
  unfold execCreateQueue
  with_reducible repeat' first
    | assumption | apply KeptO.next | apply KeptO.fault | apply KeptO.cond | exact Only.refl _
    | refine State.command_only cmdCreateQueue_only ?_ | exact Needs.sub ‹_› (by decide) | split | (dsimp only; split)

theorem State.deleteQueue_only {s0 s : State} {q : Queue} (hk : Only K s0 s)
    (hK : Needs 32256 K := by exact Needs.sub (by assumption) (by decide)) : Only K s0 (State.deleteQueue s q) := by
  unfold State.deleteQueue
  with_reducible repeat' first
    | assumption | apply State.modQueue_only | apply State.sweep_only | apply State.endUnbegun_only | exact Needs.sub ‹_› (by decide)
    | refine Only.foldl ?_ fun _ _ _ => ?_

theorem cmdDeleteQueue_only
    (hK : Needs 32256 K := by exact Needs.sub (by assumption) (by decide)) : Command.Within K cmdDeleteQueue := by
  refine ⟨fun s0 s a hk => ?_, fun s0 s a hk => ?_⟩
  all_goals dsimp only [cmdDeleteQueue]
  all_goals with_reducible repeat' first
    | assumption | exact DoneO.of_only ‹_› | apply DoneO.cond | apply DoneO.done | apply DoneO.doneWith | apply DoneO.fails
    | apply DoneO.failsAt | apply State.deleteQueue_only | exact Needs.sub ‹_› (by decide) | apply Only.cond | split
    | (dsimp only; split)

theorem execDeleteQueue_only {s : State} {c : CmdFrame} (hK : Needs 228986 K) : KeptO K s (execDeleteQueue c s) := by
  unfold execDeleteQueue
  with_reducible repeat' first
    | assumption | apply KeptO.next | apply KeptO.fault | apply KeptO.cond | exact Only.refl _
    | refine State.command_only cmdDeleteQueue_only ?_ | exact Needs.sub ‹_› (by decide) | split | (dsimp only; split)

theorem cmdSetEventRing_only
    (hK : Needs 16 K := by exact Needs.sub (by assumption) (by decide)) : Command.Within K cmdSetEventRing := by
  refine ⟨fun s0 s a hk => ?_, fun s0 s a hk => ?_⟩
  all_goals dsimp only [cmdSetEventRing]
  all_goals with_reducible repeat' first
    | assumption | exact DoneO.of_only ‹_› | apply DoneO.cond | apply DoneO.done | apply DoneO.doneWith | apply DoneO.fails
    | apply DoneO.failsAt | exact Needs.sub ‹_› (by decide) | apply Only.cond | fail_if_no_progress refine Only.mk' ?_

theorem execSetEventRing_only {s : State} {c : CmdFrame} (hK : Needs 204410 K) : KeptO K s (execSetEventRing c s) := by
  unfold execSetEventRing
  with_reducible repeat' first
    | assumption | apply KeptO.next | apply KeptO.fault | apply KeptO.cond | exact Only.refl _
    | refine State.command_only cmdSetEventRing_only ?_ | exact Needs.sub ‹_› (by decide) | split | (dsimp only; split)

theorem cmdCreateContext_only
    (hK : Needs 1024 K := by exact Needs.sub (by assumption) (by decide)) : Command.Within K cmdCreateContext := by
  refine ⟨fun s0 s a hk => ?_, fun s0 s a hk => ?_⟩
  all_goals dsimp only [cmdCreateContext]
  all_goals with_reducible repeat' first
    | assumption | exact DoneO.of_only ‹_› | apply DoneO.cond | apply DoneO.done | apply DoneO.doneWith | apply DoneO.fails
    | apply DoneO.failsAt | apply State.setContext_only | exact Needs.sub ‹_› (by decide) | apply Only.cond

theorem execCreateContext_only {s : State} {c : CmdFrame} (hK : Needs 204410 K) : KeptO K s (execCreateContext c s) := by
  unfold execCreateContext
  with_reducible repeat' first
    | assumption | apply KeptO.next | apply KeptO.fault | apply KeptO.cond | exact Only.refl _
    | refine State.command_only cmdCreateContext_only ?_ | exact Needs.sub ‹_› (by decide) | split | (dsimp only; split)

theorem State.changeContext_only {s0 s : State} {old : Context} {new : Context} (hk : Only K s0 s)
    (hK : Needs 5120 K := by exact Needs.sub (by assumption) (by decide)) : Only K s0 (State.changeContext s old new) := by
  unfold State.changeContext
  with_reducible repeat' first
    | assumption | apply State.setContext_only | apply State.dropDraft_only | exact Needs.sub ‹_› (by decide) | apply Only.cond
    | refine Only.foldl ?_ fun _ _ _ => ?_ | split | (dsimp only; split) | fail_if_no_progress refine Only.mk' ?_

theorem cmdChangeContext_only
    (hK : Needs 5120 K := by exact Needs.sub (by assumption) (by decide)) : Command.Within K cmdChangeContext := by
  refine ⟨fun s0 s a hk => ?_, fun s0 s a hk => ?_⟩
  all_goals dsimp only [cmdChangeContext]
  all_goals with_reducible repeat' first
    | assumption | exact DoneO.of_only ‹_› | apply DoneO.cond | apply DoneO.done | apply DoneO.doneWith | apply DoneO.fails
    | apply DoneO.failsAt | apply State.changeContext_only | exact Needs.sub ‹_› (by decide) | apply Only.cond | split
    | (dsimp only; split)

theorem execChangeContext_only {s : State} {c : CmdFrame} (hK : Needs 204410 K) : KeptO K s (execChangeContext c s) := by
  unfold execChangeContext
  with_reducible repeat' first
    | assumption | apply KeptO.next | apply KeptO.fault | apply KeptO.cond | exact Only.refl _
    | refine State.command_only cmdChangeContext_only ?_ | exact Needs.sub ‹_› (by decide) | split | (dsimp only; split)

theorem State.markDiscarding_only {s0 s : State} {n : Nat} (hk : Only K s0 s)
    (hK : Needs 1024 K := by exact Needs.sub (by assumption) (by decide)) : Only K s0 (State.markDiscarding s n) := by
  unfold State.markDiscarding
  with_reducible repeat' first
    | assumption | exact Needs.sub ‹_› (by decide) | apply Only.cond | fail_if_no_progress refine Only.mk' ?_

theorem State.discardContext_only {s0 s : State} {n : Nat} (hk : Only K s0 s)
    (hK : Needs 32256 K := by exact Needs.sub (by assumption) (by decide)) : Only K s0 (State.discardContext s n) := by
  unfold State.discardContext
  with_reducible repeat' first
    | assumption | apply State.markDiscarding_only | apply State.sweep_only | apply State.deleteQueue_only
    | exact Needs.sub ‹_› (by decide) | refine Only.foldl ?_ fun _ _ _ => ?_

theorem cmdDiscardContext_only
    (hK : Needs 32256 K := by exact Needs.sub (by assumption) (by decide)) : Command.Within K cmdDiscardContext := by
  refine ⟨fun s0 s a hk => ?_, fun s0 s a hk => ?_⟩
  all_goals dsimp only [cmdDiscardContext]
  all_goals with_reducible repeat' first
    | assumption | exact DoneO.of_only ‹_› | apply DoneO.cond | apply DoneO.done | apply DoneO.doneWith | apply DoneO.fails
    | apply DoneO.failsAt | apply State.discardContext_only | exact Needs.sub ‹_› (by decide) | apply Only.cond | split
    | (dsimp only; split)

theorem execDiscardContext_only {s : State} {c : CmdFrame} (hK : Needs 228986 K) : KeptO K s (execDiscardContext c s) := by
  unfold execDiscardContext
  with_reducible repeat' first
    | assumption | apply KeptO.next | apply KeptO.fault | apply KeptO.cond | exact Only.refl _
    | refine State.command_only cmdDiscardContext_only ?_ | exact Needs.sub ‹_› (by decide) | split | (dsimp only; split)

theorem State.resizeRegions_only {s0 s : State} {pfx : Nat} {level1 : Nat} (hk : Only K s0 s)
    (hK : Needs 4096 K := by exact Needs.sub (by assumption) (by decide)) : Only K s0 (State.resizeRegions s pfx level1) := by
  unfold State.resizeRegions
  with_reducible repeat' first
    | assumption | exact Needs.sub ‹_› (by decide) | fail_if_no_progress refine Only.mk' ?_

theorem cmdSetRegions_only
    (hK : Needs 4096 K := by exact Needs.sub (by assumption) (by decide)) : Command.Within K cmdSetRegions := by
  refine ⟨fun s0 s a hk => ?_, fun s0 s a hk => ?_⟩
  all_goals dsimp only [cmdSetRegions]
  all_goals with_reducible repeat' first
    | assumption | exact DoneO.of_only ‹_› | apply DoneO.cond | apply DoneO.done | apply DoneO.doneWith | apply DoneO.fails
    | apply DoneO.failsAt | apply State.resizeRegions_only | exact Needs.sub ‹_› (by decide) | apply Only.cond

theorem execSetRegions_only {s : State} {c : CmdFrame} (hK : Needs 204410 K) : KeptO K s (execSetRegions c s) := by
  unfold execSetRegions
  with_reducible repeat' first
    | assumption | apply KeptO.next | apply KeptO.fault | apply KeptO.cond | exact Only.refl _
    | refine State.command_only cmdSetRegions_only ?_ | exact Needs.sub ‹_› (by decide) | split | (dsimp only; split)

theorem cmdSetServing_only
    (hK : Needs 512 K := by exact Needs.sub (by assumption) (by decide)) : Command.Within K cmdSetServing := by
  refine ⟨fun s0 s a hk => ?_, fun s0 s a hk => ?_⟩
  all_goals dsimp only [cmdSetServing]
  all_goals with_reducible repeat' first
    | assumption | exact DoneO.of_only ‹_› | apply DoneO.cond | apply DoneO.done | apply DoneO.doneWith | apply DoneO.fails
    | apply DoneO.failsAt | exact Needs.sub ‹_› (by decide) | fail_if_no_progress refine Only.mk' ?_

theorem execSetServing_only {s : State} {c : CmdFrame} (hK : Needs 204410 K) : KeptO K s (execSetServing c s) := by
  unfold execSetServing
  with_reducible repeat' first
    | assumption | apply KeptO.next | apply KeptO.fault | apply KeptO.cond | exact Only.refl _
    | refine State.command_only cmdSetServing_only ?_ | exact Needs.sub ‹_› (by decide) | split | (dsimp only; split)

theorem State.releaseAll_only {s0 s : State} (hk : Only K s0 s)
    (hK : Needs 97890 K := by exact Needs.sub (by assumption) (by decide)) : Only K s0 (State.releaseAll s) := by
  unfold State.releaseAll
  with_reducible repeat' first
    | assumption | apply State.discardAll_only | apply State.enterP1_only | exact Needs.sub ‹_› (by decide) | apply Only.cond
    | fail_if_no_progress refine Only.mk' ?_ | split | (dsimp only; split)

theorem cmdReleaseLease_only
    (hK : Needs 97906 K := by exact Needs.sub (by assumption) (by decide)) : Command.Within K cmdReleaseLease := by
  refine ⟨fun s0 s a hk => ?_, fun s0 s a hk => ?_⟩
  all_goals dsimp only [cmdReleaseLease]
  all_goals with_reducible repeat' first
    | assumption | exact DoneO.of_only ‹_› | apply DoneO.cond | apply DoneO.done | apply DoneO.doneWith | apply DoneO.fails
    | apply DoneO.failsAt | apply State.endLease_only | apply State.releaseAll_only | exact Needs.sub ‹_› (by decide) | apply Only.cond

theorem execReleaseLease_only {s : State} {c : CmdFrame} (hK : Needs 228986 K) : KeptO K s (execReleaseLease c s) := by
  unfold execReleaseLease
  with_reducible repeat' first
    | assumption | apply KeptO.next | apply KeptO.fault | apply KeptO.cond | exact Only.refl _
    | refine State.command_only cmdReleaseLease_only ?_ | exact Needs.sub ‹_› (by decide) | split | (dsimp only; split)

theorem State.setFabric_only {s0 s : State} {coord : Nat} {dim : Nat} {twist : Nat} {fabricId : Nat} {root : Nat} (hk : Only K s0 s)
    (hK : Needs 131089 K := by exact Needs.sub (by assumption) (by decide)) : Only K s0 (State.setFabric s coord dim twist fabricId root) := by
  unfold State.setFabric
  with_reducible repeat' first
    | assumption | apply State.checkPort_only | apply State.judgeAligned_only | exact Needs.sub ‹_› (by decide) | apply Only.cond
    | refine Only.foldl ?_ fun _ _ _ => ?_ | split | (dsimp only; split) | fail_if_no_progress refine Only.mk' ?_

theorem cmdSetFabric_only
    (hK : Needs 131089 K := by exact Needs.sub (by assumption) (by decide)) : Command.Within K cmdSetFabric := by
  refine ⟨fun s0 s a hk => ?_, fun s0 s a hk => ?_⟩
  all_goals dsimp only [cmdSetFabric]
  all_goals with_reducible repeat' first
    | assumption | exact DoneO.of_only ‹_› | apply DoneO.cond | apply DoneO.done | apply DoneO.doneWith | apply DoneO.fails
    | apply DoneO.failsAt | apply State.setFabric_only | exact Needs.sub ‹_› (by decide) | apply Only.cond

theorem execSetFabric_only {s : State} {c : CmdFrame} (hK : Needs 204411 K) : KeptO K s (execSetFabric c s) := by
  unfold execSetFabric
  with_reducible repeat' first
    | assumption | apply KeptO.next | apply KeptO.fault | apply KeptO.cond | exact Only.refl _
    | refine State.command_only cmdSetFabric_only ?_ | exact Needs.sub ‹_› (by decide) | split | (dsimp only; split)

theorem cmdSetJobTable_only
    (hK : Needs 131072 K := by exact Needs.sub (by assumption) (by decide)) : Command.Within K cmdSetJobTable := by
  refine ⟨fun s0 s a hk => ?_, fun s0 s a hk => ?_⟩
  all_goals dsimp only [cmdSetJobTable]
  all_goals with_reducible repeat' first
    | assumption | exact DoneO.of_only ‹_› | apply DoneO.cond | apply DoneO.done | apply DoneO.doneWith | apply DoneO.fails
    | apply DoneO.failsAt | exact Needs.sub ‹_› (by decide) | fail_if_no_progress refine Only.mk' ?_

theorem execSetJobTable_only {s : State} {c : CmdFrame} (hK : Needs 204410 K) : KeptO K s (execSetJobTable c s) := by
  unfold execSetJobTable
  with_reducible repeat' first
    | assumption | apply KeptO.next | apply KeptO.fault | apply KeptO.cond | exact Only.refl _
    | refine State.command_only cmdSetJobTable_only ?_ | exact Needs.sub ‹_› (by decide) | split | (dsimp only; split)

theorem State.releaseJob_only {s0 s : State} {job : Nat} (hk : Only K s0 s)
    (hK : Needs 196096 K := by exact Needs.sub (by assumption) (by decide)) : Only K s0 (State.releaseJob s job) := by
  unfold State.releaseJob
  with_reducible repeat' first
    | assumption | apply State.sweep_only | apply State.deliverAll_only | apply State.voidStep_only | exact Needs.sub ‹_› (by decide)
    | refine Only.foldl ?_ fun _ _ _ => ?_

theorem cmdReleaseJob_only
    (hK : Needs 196096 K := by exact Needs.sub (by assumption) (by decide)) : Command.Within K cmdReleaseJob := by
  refine ⟨fun s0 s a hk => ?_, fun s0 s a hk => ?_⟩
  all_goals dsimp only [cmdReleaseJob]
  all_goals with_reducible repeat' first
    | assumption | exact DoneO.of_only ‹_› | apply DoneO.cond | apply DoneO.done | apply DoneO.doneWith | apply DoneO.fails
    | apply DoneO.failsAt | apply State.releaseJob_only | exact Needs.sub ‹_› (by decide) | apply Only.cond

theorem execReleaseJob_only {s : State} {c : CmdFrame} (hK : Needs 261754 K) : KeptO K s (execReleaseJob c s) := by
  unfold execReleaseJob
  with_reducible repeat' first
    | assumption | apply KeptO.next | apply KeptO.fault | apply KeptO.cond | exact Only.refl _
    | refine State.command_only cmdReleaseJob_only ?_ | exact Needs.sub ‹_› (by decide) | split | (dsimp only; split)

theorem cmdResetPort_only
    (hK : Needs 131584 K := by exact Needs.sub (by assumption) (by decide)) : Command.Within K cmdResetPort := by
  refine ⟨fun s0 s a hk => ?_, fun s0 s a hk => ?_⟩
  all_goals dsimp only [cmdResetPort]
  all_goals with_reducible repeat' first
    | assumption | exact DoneO.of_only ‹_› | apply DoneO.cond | apply DoneO.done | apply DoneO.doneWith | apply DoneO.fails
    | apply DoneO.failsAt | apply State.modPort_only | apply State.modDsp_only | exact Needs.sub ‹_› (by decide) | apply Only.cond

theorem execResetPort_only {s : State} {c : CmdFrame} (hK : Needs 204410 K) : KeptO K s (execResetPort c s) := by
  unfold execResetPort
  with_reducible repeat' first
    | assumption | apply KeptO.next | apply KeptO.fault | apply KeptO.cond | exact Only.refl _
    | refine State.command_only cmdResetPort_only ?_ | exact Needs.sub ‹_› (by decide) | split | (dsimp only; split)

theorem cmdReadPorts_only
    (hK : Needs 0 K := by exact Needs.sub (by assumption) (by decide)) : Command.Within K cmdReadPorts := by
  refine ⟨fun s0 s a hk => ?_, fun s0 s a hk => ?_⟩
  all_goals dsimp only [cmdReadPorts]
  all_goals with_reducible repeat' first
    | assumption | exact DoneO.of_only ‹_› | apply DoneO.cond | apply DoneO.done | apply DoneO.doneWith | apply DoneO.fails
    | apply DoneO.failsAt | exact Needs.sub ‹_› (by decide)

theorem execReadPorts_only {s : State} {c : CmdFrame} (hK : Needs 204410 K) : KeptO K s (execReadPorts c s) := by
  unfold execReadPorts
  with_reducible repeat' first
    | assumption | apply KeptO.next | apply KeptO.fault | apply KeptO.cond | exact Only.refl _
    | refine State.command_only cmdReadPorts_only ?_ | exact Needs.sub ‹_› (by decide) | split | (dsimp only; split)

theorem cmdLoadTime_only
    (hK : Needs 90641 K := by exact Needs.sub (by assumption) (by decide)) : Command.Within K cmdLoadTime := by
  refine ⟨fun s0 s a hk => ?_, fun s0 s a hk => ?_⟩
  all_goals dsimp only [cmdLoadTime]
  all_goals with_reducible repeat' first
    | assumption | exact DoneO.of_only ‹_› | apply DoneO.cond | apply DoneO.done | apply DoneO.doneWith | apply DoneO.fails
    | apply DoneO.failsAt | apply State.loadCounter_only | exact Needs.sub ‹_› (by decide) | apply Only.cond

theorem execLoadTime_only {s : State} {c : CmdFrame} (hK : Needs 228987 K) : KeptO K s (execLoadTime c s) := by
  unfold execLoadTime
  with_reducible repeat' first
    | assumption | apply KeptO.next | apply KeptO.fault | apply KeptO.cond | exact Only.refl _
    | refine State.command_only cmdLoadTime_only ?_ | exact Needs.sub ‹_› (by decide) | split | (dsimp only; split)

theorem cmdRequestCalibration_only
    (hK : Needs 16384 K := by exact Needs.sub (by assumption) (by decide)) : Command.Within K cmdRequestCalibration := by
  refine ⟨fun s0 s a hk => ?_, fun s0 s a hk => ?_⟩
  all_goals dsimp only [cmdRequestCalibration]
  all_goals with_reducible repeat' first
    | assumption | exact DoneO.of_only ‹_› | apply DoneO.cond | apply DoneO.done | apply DoneO.doneWith | apply DoneO.fails
    | apply DoneO.failsAt | apply State.requestCal_only | exact Needs.sub ‹_› (by decide) | apply Only.cond

theorem execRequestCalibration_only {s : State} {c : CmdFrame} (hK : Needs 220794 K) : KeptO K s (execRequestCalibration c s) := by
  unfold execRequestCalibration
  with_reducible repeat' first
    | assumption | apply KeptO.next | apply KeptO.fault | apply KeptO.cond | exact Only.refl _
    | refine State.command_only cmdRequestCalibration_only ?_ | exact Needs.sub ‹_› (by decide) | split | (dsimp only; split)

theorem cmdReadStorm_only
    (hK : Needs 0 K := by exact Needs.sub (by assumption) (by decide)) : Command.Within K cmdReadStorm := by
  refine ⟨fun s0 s a hk => ?_, fun s0 s a hk => ?_⟩
  all_goals dsimp only [cmdReadStorm]
  all_goals with_reducible repeat' first
    | assumption | exact DoneO.of_only ‹_› | apply DoneO.cond | apply DoneO.done | apply DoneO.doneWith | apply DoneO.fails
    | apply DoneO.failsAt | exact Needs.sub ‹_› (by decide)

theorem execReadStorm_only {s : State} {c : CmdFrame} (hK : Needs 204410 K) : KeptO K s (execReadStorm c s) := by
  unfold execReadStorm
  with_reducible repeat' first
    | assumption | apply KeptO.next | apply KeptO.fault | apply KeptO.cond | exact Only.refl _
    | refine State.command_only cmdReadStorm_only ?_ | exact Needs.sub ‹_› (by decide) | split | (dsimp only; split)

theorem State.beginPowerEntry_only {s0 s : State} {dst : PowerState} (hk : Only K s0 s)
    (hK : Needs 261759 K := by exact Needs.sub (by assumption) (by decide)) : Only K s0 (State.beginPowerEntry s dst) := by
  unfold State.beginPowerEntry
  with_reducible repeat' first
    | assumption | apply State.tryEntry_only | apply State.suspendLease_only | exact Needs.sub ‹_› (by decide) | apply Only.cond | split
    | (dsimp only; split) | fail_if_no_progress refine Only.mk' ?_

theorem State.goPower_only {s0 s : State} {dst : PowerState} (hk : Only K s0 s)
    (hK : Needs 261759 K := by exact Needs.sub (by assumption) (by decide)) : Only K s0 (State.goPower s dst) := by
  unfold State.goPower
  with_reducible repeat' first
    | assumption | apply State.wake_only | apply State.enterP1_only | apply State.beginPowerEntry_only | exact Needs.sub ‹_› (by decide)
    | apply Only.cond | split | (dsimp only; split)

theorem cmdSetPowerState_only
    (hK : Needs 261759 K := by exact Needs.sub (by assumption) (by decide)) : Command.Within K cmdSetPowerState := by
  refine ⟨fun s0 s a hk => ?_, fun s0 s a hk => ?_⟩
  all_goals dsimp only [cmdSetPowerState]
  all_goals with_reducible repeat' first
    | assumption | exact DoneO.of_only ‹_› | apply DoneO.cond | apply DoneO.done | apply DoneO.doneWith | apply DoneO.fails
    | apply DoneO.failsAt | apply State.goPower_only | exact Needs.sub ‹_› (by decide)

theorem cmdPowerPending_only
    (hK : Needs 261759 K := by exact Needs.sub (by assumption) (by decide)) : Command.Within K cmdPowerPending := by
  refine ⟨fun s0 s a hk => ?_, fun s0 s a hk => ?_⟩
  all_goals dsimp only [cmdPowerPending]
  all_goals with_reducible repeat' first
    | assumption | exact DoneO.of_only ‹_› | apply DoneO.cond | apply DoneO.done | apply DoneO.doneWith | apply DoneO.fails
    | apply DoneO.failsAt | exact Needs.sub ‹_› (by decide)

theorem execSetPowerState_only {s : State} {c : CmdFrame} (hK : Needs 261759 K) : KeptO K s (execSetPowerState c s) := by
  unfold execSetPowerState
  with_reducible repeat' first
    | assumption | apply KeptO.next | apply KeptO.fault | apply KeptO.cond | exact Only.refl _
    | refine State.command_only cmdSetPowerState_only ?_ | refine State.command_only cmdPowerPending_only ?_
    | exact Needs.sub ‹_› (by decide) | fail_if_no_progress refine Only.mk' ?_ | split | (dsimp only; split)

end Sys2Proof.Machine
end

