-- ==== Sys2Proof/Laws/FramesCommit.lean ====
section
/-! SUPPORT. What the operations and meanings of Machine/Commit.lean leave as it is: the blocks outside their mask. -/

set_option Elab.async false
set_option linter.unusedTactic false
set_option linter.unreachableTactic false
set_option linter.unusedVariables false

namespace Sys2Proof.Machine

variable {K : Nat}

theorem State.moveKv_only {s0 s : State} {slot : Nat} {layer : Nat} {heads : Nat} {a : Nat} {b : Nat} (hk : Only K s0 s)
    (hK : Needs 4096 K := by exact Needs.sub (by assumption) (by decide)) : Only K s0 (State.moveKv s slot layer heads a b) := by
  unfold State.moveKv
  with_reducible repeat' first
    | assumption | apply State.putGroup_only | exact Needs.sub ‹_› (by decide) | refine Only.foldl ?_ fun _ _ _ => ?_ | split
    | (dsimp only; split)

theorem State.compact_only {s0 s : State} {o : OpenStep} {i : Nat} {e : LenEntry} {p : List TokenWork} (hk : Only K s0 s)
    (hK : Needs 5120 K := by exact Needs.sub (by assumption) (by decide)) : Only K s0 (State.compact s o i e p) := by
  unfold State.compact
  with_reducible repeat' first
    | assumption | apply State.modEntry_only | apply State.moveKv_only | exact Needs.sub ‹_› (by decide)
    | refine Only.foldl ?_ fun _ _ _ => ?_ | split | (dsimp only; split)

theorem execCompactionDone_only {s : State} {stepTag : Nat} (hK : Needs 5120 K) : KeptO K s (execCompactionDone stepTag s) := by
  unfold execCompactionDone
  with_reducible repeat' first
    | assumption | apply KeptO.next | apply KeptO.fault | apply KeptO.cond | exact Only.refl _ | apply State.compact_only
    | exact Needs.sub ‹_› (by decide) | apply Only.cond | refine Only.foldl ?_ fun _ _ _ => ?_ | split | (dsimp only; split)

theorem State.settleFrames_only {s0 s : State} {tag : Nat} {slot : Nat} {commit : Nat} {draftCommit : Nat} (hk : Only K s0 s)
    (hK : Needs 4096 K := by exact Needs.sub (by assumption) (by decide)) : Only K s0 (State.settleFrames s tag slot commit draftCommit) := by
  unfold State.settleFrames
  with_reducible repeat' first
    | assumption | apply State.releaseReserved_only | exact Needs.sub ‹_› (by decide) | apply Only.cond | split | (dsimp only; split)
    | fail_if_no_progress refine Only.mk' ?_

theorem State.leaveBusy_only {s0 s : State} {e : LenEntry} (hk : Only K s0 s)
    (hK : Needs 7696 K := by exact Needs.sub (by assumption) (by decide)) : Only K s0 (State.leaveBusy s e) := by
  unfold State.leaveBusy
  with_reducible repeat' first
    | assumption | apply State.enterTier_only | apply State.modSlot_only | exact Needs.sub ‹_› (by decide) | apply Only.cond

theorem State.commitEntry_only {s0 s : State} {o : OpenStep} {c : Context} {i : Nat} {e : LenEntry} {w : EntryWork} (hk : Only K s0
    s)
    (hK : Needs 7696 K := by exact Needs.sub (by assumption) (by decide)) : Only K s0 (State.commitEntry s o c i e w).1 := by
  unfold State.commitEntry
  with_reducible repeat' first
    | assumption | apply State.slotFree_only | apply State.modSlot_only | apply State.settleFrames_only | apply State.insertPrefix_only
    | apply State.leaveBusy_only | exact Needs.sub ‹_› (by decide) | apply Only.cond | split | (dsimp only; split)
    | fail_if_no_progress refine Only.mk' ?_

theorem State.stormCommit_only {s0 s : State} {o : OpenStep} (hk : Only K s0 s)
    (hK : Needs 1040 K := by exact Needs.sub (by assumption) (by decide)) : Only K s0 (State.stormCommit s o) := by
  unfold State.stormCommit
  with_reducible repeat' first
    | assumption | apply State.raise_only | exact Needs.sub ‹_› (by decide) | apply Only.cond | fail_if_no_progress refine Only.mk' ?_

theorem State.commitStep_only {s0 s : State} {o : OpenStep} {c : Context} (hk : Only K s0 s)
    (hK : Needs 261759 K := by exact Needs.sub (by assumption) (by decide)) : Only K s0 (s.commitStep o c) := by
  unfold State.commitStep
  dsimp only
  generalize hr : List.foldl _ _ _ = r
  have h1 : Only K s0 r.1 := by
    subst hr
    exact foldl_fst_only hk fun x i hx => State.commitEntry_only hx
  repeat' first
    | with_reducible assumption | exact Needs.sub ‹_› (by decide) | with_reducible apply State.deliver_only | with_reducible apply State.sweep_only
    | with_reducible apply State.tryEntry_only | with_reducible apply State.retryStalled_only
    | with_reducible apply State.putEnded_only | with_reducible apply State.dropWork_only
    | with_reducible apply State.dropLedger_only | with_reducible apply State.stormCommit_only
    | with_reducible apply Only.cond
    | fail_if_no_progress with_reducible refine Only.mk' ?_ | split

theorem execStepCommit_only {s : State} {stepTag : Nat} (hK : Needs 261759 K) : KeptO K s (execStepCommit stepTag s) := by
  unfold execStepCommit
  with_reducible repeat' first
    | assumption | apply KeptO.next | apply KeptO.fault | apply KeptO.cond | exact Only.refl _ | apply State.commitStep_only
    | exact Needs.sub ‹_› (by decide) | apply Only.cond | split | (dsimp only; split)

theorem State.recalibrate_only {s0 s : State} {l : List ArrId} (hk : Only K s0 s)
    (hK : Needs 17408 K := by exact Needs.sub (by assumption) (by decide)) : Only K s0 (State.recalibrate s l) := by
  unfold State.recalibrate
  with_reducible repeat' first
    | assumption | apply State.requestCal_only | exact Needs.sub ‹_› (by decide) | refine Only.foldl ?_ fun _ _ _ => ?_
    | fail_if_no_progress refine Only.mk' ?_

theorem execStormHandling_only {s : State}  (hK : Needs 19984 K) : KeptO K s (execStormHandling s) := by
  unfold execStormHandling
  with_reducible repeat' first
    | assumption | apply KeptO.next | apply KeptO.fault | apply KeptO.cond | exact Only.refl _ | apply State.recalibrate_only
    | apply State.async_only | exact Needs.sub ‹_› (by decide) | apply Only.cond | fail_if_no_progress refine Only.mk' ?_ | split
    | (dsimp only; split)

theorem execStormRecheck_only {s : State}  (hK : Needs 17408 K) : KeptO K s (execStormRecheck s) := by
  unfold execStormRecheck
  with_reducible repeat' first
    | assumption | apply KeptO.next | apply KeptO.fault | apply KeptO.cond | exact Only.refl _ | apply State.recalibrate_only
    | exact Needs.sub ‹_› (by decide) | apply Only.cond | fail_if_no_progress refine Only.mk' ?_ | split | (dsimp only; split)

end Sys2Proof.Machine
end

