-- ==== Sys2Proof/Laws/FramesIdentity.lean ====
section
/-! SUPPORT. What the operations and meanings of Machine/Identity.lean leave as it is: the blocks outside their mask. -/

set_option Elab.async false
set_option linter.unusedTactic false
set_option linter.unreachableTactic false
set_option linter.unusedVariables false

namespace Sys2Proof.Machine

variable {K : Nat}

theorem cmdAttest_only
    (hK : Needs 0 K := by exact Needs.sub (by assumption) (by decide)) : Command.Within K cmdAttest := by
  refine ⟨fun s0 s a hk => ?_, fun s0 s a hk => ?_⟩
  all_goals dsimp only [cmdAttest]
  all_goals with_reducible repeat' first
    | assumption | exact DoneO.of_only ‹_› | apply DoneO.cond | apply DoneO.done | apply DoneO.doneWith | apply DoneO.fails
    | apply DoneO.failsAt | exact Needs.sub ‹_› (by decide)

theorem execAttest_only {s : State} {c : CmdFrame} (hK : Needs 204410 K) : KeptO K s (execAttest c s) := by
  unfold execAttest
  with_reducible repeat' first
    | assumption | apply KeptO.next | apply KeptO.fault | apply KeptO.cond | exact Only.refl _
    | refine State.command_only cmdAttest_only ?_ | exact Needs.sub ‹_› (by decide) | split | (dsimp only; split)

theorem cmdReadIdentity_only
    (hK : Needs 0 K := by exact Needs.sub (by assumption) (by decide)) : Command.Within K cmdReadIdentity := by
  refine ⟨fun s0 s a hk => ?_, fun s0 s a hk => ?_⟩
  all_goals dsimp only [cmdReadIdentity]
  all_goals with_reducible repeat' first
    | assumption | exact DoneO.of_only ‹_› | apply DoneO.cond | apply DoneO.done | apply DoneO.doneWith | apply DoneO.fails
    | apply DoneO.failsAt | exact Needs.sub ‹_› (by decide) | split | (dsimp only; split)

theorem execReadIdentity_only {s : State} {c : CmdFrame} (hK : Needs 204410 K) : KeptO K s (execReadIdentity c s) := by
  unfold execReadIdentity
  with_reducible repeat' first
    | assumption | apply KeptO.next | apply KeptO.fault | apply KeptO.cond | exact Only.refl _
    | refine State.command_only cmdReadIdentity_only ?_ | exact Needs.sub ‹_› (by decide) | split | (dsimp only; split)

theorem cmdUpdateBegin_only
    (hK : Needs 8 K := by exact Needs.sub (by assumption) (by decide)) : Command.Within K cmdUpdateBegin := by
  refine ⟨fun s0 s a hk => ?_, fun s0 s a hk => ?_⟩
  all_goals dsimp only [cmdUpdateBegin]
  all_goals with_reducible repeat' first
    | assumption | exact DoneO.of_only ‹_› | apply DoneO.cond | apply DoneO.done | apply DoneO.doneWith | apply DoneO.fails
    | apply DoneO.failsAt | exact Needs.sub ‹_› (by decide) | apply Only.cond | fail_if_no_progress refine Only.mk' ?_

theorem execUpdateBegin_only {s : State} {c : CmdFrame} (hK : Needs 204410 K) : KeptO K s (execUpdateBegin c s) := by
  unfold execUpdateBegin
  with_reducible repeat' first
    | assumption | apply KeptO.next | apply KeptO.fault | apply KeptO.cond | exact Only.refl _
    | refine State.command_only cmdUpdateBegin_only ?_ | exact Needs.sub ‹_› (by decide) | split | (dsimp only; split)

theorem cmdUpdateData_only
    (hK : Needs 8 K := by exact Needs.sub (by assumption) (by decide)) : Command.Within K cmdUpdateData := by
  refine ⟨fun s0 s a hk => ?_, fun s0 s a hk => ?_⟩
  all_goals dsimp only [cmdUpdateData]
  all_goals with_reducible repeat' first
    | assumption | exact DoneO.of_only ‹_› | apply DoneO.cond | apply DoneO.done | apply DoneO.doneWith | apply DoneO.fails
    | apply DoneO.failsAt | exact Needs.sub ‹_› (by decide) | fail_if_no_progress refine Only.mk' ?_ | split | (dsimp only; split)

theorem execUpdateData_only {s : State} {c : CmdFrame} (hK : Needs 204410 K) : KeptO K s (execUpdateData c s) := by
  unfold execUpdateData
  with_reducible repeat' first
    | assumption | apply KeptO.next | apply KeptO.fault | apply KeptO.cond | exact Only.refl _
    | refine State.command_only cmdUpdateData_only ?_ | exact Needs.sub ‹_› (by decide) | split | (dsimp only; split)

theorem State.installImage_only {s0 s : State} {b : Bytes} (hk : Only K s0 s)
    (hK : Needs 8 K := by exact Needs.sub (by assumption) (by decide)) : Only K s0 (State.installImage s b) := by
  unfold State.installImage
  with_reducible repeat' first
    | assumption | exact Needs.sub ‹_› (by decide) | fail_if_no_progress refine Only.mk' ?_

theorem State.installRecord_only {s0 s : State} {b : Bytes} (hk : Only K s0 s)
    (hK : Needs 8 K := by exact Needs.sub (by assumption) (by decide)) : Only K s0 (State.installRecord s b) := by
  unfold State.installRecord
  with_reducible repeat' first
    | assumption | exact Needs.sub ‹_› (by decide) | fail_if_no_progress refine Only.mk' ?_

theorem cmdUpdateCommit_only
    (hK : Needs 8 K := by exact Needs.sub (by assumption) (by decide)) : Command.Within K cmdUpdateCommit := by
  refine ⟨fun s0 s a hk => ?_, fun s0 s a hk => ?_⟩
  all_goals dsimp only [cmdUpdateCommit]
  all_goals with_reducible repeat' first
    | assumption | exact DoneO.of_only ‹_› | apply DoneO.cond | apply DoneO.done | apply DoneO.doneWith | apply DoneO.fails
    | apply DoneO.failsAt | apply State.installImage_only | apply State.installRecord_only | exact Needs.sub ‹_› (by decide)
    | apply Only.cond | split | (dsimp only; split)

theorem execUpdateCommit_only {s : State} {c : CmdFrame} (hK : Needs 204410 K) : KeptO K s (execUpdateCommit c s) := by
  unfold execUpdateCommit
  with_reducible repeat' first
    | assumption | apply KeptO.next | apply KeptO.fault | apply KeptO.cond | exact Only.refl _
    | refine State.command_only cmdUpdateCommit_only ?_ | exact Needs.sub ‹_› (by decide) | split | (dsimp only; split)

theorem cmdResetModule_only
    (hK : Needs 262015 K := by exact Needs.sub (by assumption) (by decide)) : Command.Within K cmdResetModule := by
  refine ⟨fun s0 s a hk => ?_, fun s0 s a hk => ?_⟩
  all_goals dsimp only [cmdResetModule]
  all_goals with_reducible repeat' first
    | assumption | exact DoneO.of_only ‹_› | apply DoneO.cond | apply DoneO.done | apply DoneO.doneWith | apply DoneO.fails
    | apply DoneO.failsAt | apply State.resetModule_only | exact Needs.sub ‹_› (by decide) | apply Only.cond

theorem execResetModule_only {s : State} {c : CmdFrame} (hK : Needs 262015 K) : KeptO K s (execResetModule c s) := by
  unfold execResetModule
  with_reducible repeat' first
    | assumption | apply KeptO.next | apply KeptO.fault | apply KeptO.cond | exact Only.refl _
    | refine State.command_only cmdResetModule_only ?_ | refine State.carryOut_only cmdResetModule_only ?_ | apply State.frameArrives_only | refine State.judge_only ?_ (fun _ _ => ?_) (fun _ _ _ => ?_)
    | apply State.refuseCommand_only | exact Needs.sub ‹_› (by decide) | apply Only.cond | split | (dsimp only; split)
    | fail_if_no_progress refine Only.mk' ?_

theorem cmdDump_only
    (hK : Needs 8 K := by exact Needs.sub (by assumption) (by decide)) : Command.Within K cmdDump := by
  refine ⟨fun s0 s a hk => ?_, fun s0 s a hk => ?_⟩
  all_goals dsimp only [cmdDump]
  all_goals with_reducible repeat' first
    | assumption | exact DoneO.of_only ‹_› | apply DoneO.cond | apply DoneO.done | apply DoneO.doneWith | apply DoneO.fails
    | apply DoneO.failsAt | apply State.writeDump_only | exact Needs.sub ‹_› (by decide)

theorem execDump_only {s : State} {c : CmdFrame} (hK : Needs 204410 K) : KeptO K s (execDump c s) := by
  unfold execDump
  with_reducible repeat' first
    | assumption | apply KeptO.next | apply KeptO.fault | apply KeptO.cond | exact Only.refl _ | refine State.command_only cmdDump_only ?_
    | exact Needs.sub ‹_› (by decide) | split | (dsimp only; split)

end Sys2Proof.Machine
end

