-- ==== Sys2Proof/Laws/FramesModels.lean ====
section
/-! SUPPORT. What the operations and meanings of Machine/Models.lean leave as it is: the blocks outside their mask. -/

set_option Elab.async false
set_option linter.unusedTactic false
set_option linter.unreachableTactic false
set_option linter.unusedVariables false

namespace Sys2Proof.Machine

variable {K : Nat}

theorem cmdLoadModel_only
    (hK : Needs 8192 K := by exact Needs.sub (by assumption) (by decide)) : Command.Within K cmdLoadModel := by
  refine ⟨fun s0 s a hk => ?_, fun s0 s a hk => ?_⟩
  all_goals dsimp only [cmdLoadModel]
  all_goals with_reducible repeat' first
    | assumption | exact DoneO.of_only ‹_› | apply DoneO.cond | apply DoneO.done | apply DoneO.doneWith | apply DoneO.fails
    | apply DoneO.failsAt | exact Needs.sub ‹_› (by decide) | apply Only.cond | fail_if_no_progress refine Only.mk' ?_ | split
    | (dsimp only; split)

theorem execLoadModel_only {s : State} {c : CmdFrame} (hK : Needs 212602 K) : KeptO K s (execLoadModel c s) := by
  unfold execLoadModel
  with_reducible repeat' first
    | assumption | apply KeptO.next | apply KeptO.fault | apply KeptO.cond | exact Only.refl _
    | refine State.command_only cmdLoadModel_only ?_ | exact Needs.sub ‹_› (by decide) | split | (dsimp only; split)

theorem State.markUnloading_only {s0 s : State} {n : Nat} (hk : Only K s0 s)
    (hK : Needs 8192 K := by exact Needs.sub (by assumption) (by decide)) : Only K s0 (State.markUnloading s n) := by
  unfold State.markUnloading
  with_reducible repeat' first
    | assumption | exact Needs.sub ‹_› (by decide) | apply Only.cond | fail_if_no_progress refine Only.mk' ?_

theorem cmdUnloadModel_only
    (hK : Needs 29696 K := by exact Needs.sub (by assumption) (by decide)) : Command.Within K cmdUnloadModel := by
  refine ⟨fun s0 s a hk => ?_, fun s0 s a hk => ?_⟩
  all_goals dsimp only [cmdUnloadModel]
  all_goals with_reducible repeat' first
    | assumption | exact DoneO.of_only ‹_› | apply DoneO.cond | apply DoneO.done | apply DoneO.doneWith | apply DoneO.fails
    | apply DoneO.failsAt | apply State.sweep_only | apply State.markUnloading_only | apply State.releaseModel_only
    | exact Needs.sub ‹_› (by decide) | apply Only.cond | split | (dsimp only; split)

theorem execUnloadModel_only {s : State} {c : CmdFrame} (hK : Needs 228986 K) : KeptO K s (execUnloadModel c s) := by
  unfold execUnloadModel
  with_reducible repeat' first
    | assumption | apply KeptO.next | apply KeptO.fault | apply KeptO.cond | exact Only.refl _
    | refine State.command_only cmdUnloadModel_only ?_ | exact Needs.sub ‹_› (by decide) | split | (dsimp only; split)

theorem cmdLoadAdapter_only
    (hK : Needs 1024 K := by exact Needs.sub (by assumption) (by decide)) : Command.Within K cmdLoadAdapter := by
  refine ⟨fun s0 s a hk => ?_, fun s0 s a hk => ?_⟩
  all_goals dsimp only [cmdLoadAdapter]
  all_goals with_reducible repeat' first
    | assumption | exact DoneO.of_only ‹_› | apply DoneO.cond | apply DoneO.done | apply DoneO.doneWith | apply DoneO.fails
    | apply DoneO.failsAt | exact Needs.sub ‹_› (by decide) | apply Only.cond | fail_if_no_progress refine Only.mk' ?_ | split
    | (dsimp only; split)

theorem execLoadAdapter_only {s : State} {c : CmdFrame} (hK : Needs 204410 K) : KeptO K s (execLoadAdapter c s) := by
  unfold execLoadAdapter
  with_reducible repeat' first
    | assumption | apply KeptO.next | apply KeptO.fault | apply KeptO.cond | exact Only.refl _
    | refine State.command_only cmdLoadAdapter_only ?_ | exact Needs.sub ‹_› (by decide) | split | (dsimp only; split)

theorem State.removeAdapter_only {s0 s : State} {n : Nat} (hk : Only K s0 s)
    (hK : Needs 29696 K := by exact Needs.sub (by assumption) (by decide)) : Only K s0 (State.removeAdapter s n) := by
  unfold State.removeAdapter
  with_reducible repeat' first
    | assumption | apply State.sweep_only | exact Needs.sub ‹_› (by decide) | apply Only.cond | fail_if_no_progress refine Only.mk' ?_

theorem cmdUnloadAdapter_only
    (hK : Needs 29696 K := by exact Needs.sub (by assumption) (by decide)) : Command.Within K cmdUnloadAdapter := by
  refine ⟨fun s0 s a hk => ?_, fun s0 s a hk => ?_⟩
  all_goals dsimp only [cmdUnloadAdapter]
  all_goals with_reducible repeat' first
    | assumption | exact DoneO.of_only ‹_› | apply DoneO.cond | apply DoneO.done | apply DoneO.doneWith | apply DoneO.fails
    | apply DoneO.failsAt | apply State.removeAdapter_only | exact Needs.sub ‹_› (by decide) | apply Only.cond

theorem execUnloadAdapter_only {s : State} {c : CmdFrame} (hK : Needs 228986 K) : KeptO K s (execUnloadAdapter c s) := by
  unfold execUnloadAdapter
  with_reducible repeat' first
    | assumption | apply KeptO.next | apply KeptO.fault | apply KeptO.cond | exact Only.refl _
    | refine State.command_only cmdUnloadAdapter_only ?_ | exact Needs.sub ‹_› (by decide) | split | (dsimp only; split)

end Sys2Proof.Machine
end

