-- ==== Sys2Proof/Laws/FramesPins.lean ====
section
/-! SUPPORT. What the operations and meanings of Machine/Pins.lean leave as it is: the blocks outside their mask. -/

set_option Elab.async false
set_option linter.unusedTactic false
set_option linter.unreachableTactic false
set_option linter.unusedVariables false

namespace Sys2Proof.Machine

variable {K : Nat}

theorem State.modI3c_only {s0 s : State} {f : I3c → I3c} (hk : Only K s0 s)
    (hK : Needs 256 K := by exact Needs.sub (by assumption) (by decide)) : Only K s0 (State.modI3c s f) := by
  unfold State.modI3c
  with_reducible repeat' first
    | assumption | exact Needs.sub ‹_› (by decide) | fail_if_no_progress refine Only.mk' ?_

theorem execI3cDynamicAddress_only {s : State} {addr : Nat} (hK : Needs 256 K) : KeptO K s (execI3cDynamicAddress addr s) := by
  unfold execI3cDynamicAddress
  with_reducible repeat' first
    | assumption | apply KeptO.next | apply KeptO.fault | apply KeptO.cond | exact Only.refl _ | apply State.modI3c_only
    | exact Needs.sub ‹_› (by decide) | apply Only.cond | split | (dsimp only; split)

theorem State.i3cAnswers_only {s0 s : State} (hk : Only K s0 s)
    (hK : Needs 256 K := by exact Needs.sub (by assumption) (by decide)) : Only K s0 (State.i3cAnswers s) := by
  unfold State.i3cAnswers
  with_reducible repeat' first
    | assumption | apply State.modI3c_only | exact Needs.sub ‹_› (by decide) | apply Only.cond | split | (dsimp only; split)
    | fail_if_no_progress refine Only.mk' ?_

theorem State.i3cPut_only {s0 s : State} {e : Nat × Nat} (hk : Only K s0 s)
    (hK : Needs 262015 K := by exact Needs.sub (by assumption) (by decide)) : Only K s0 (State.i3cPut s e) := by
  unfold State.i3cPut
  with_reducible repeat' first
    | assumption | apply State.modI3c_only | apply State.pathWrite_only | exact Needs.sub ‹_› (by decide) | apply Only.cond | split
    | (dsimp only; split) | fail_if_no_progress refine Only.mk' ?_

theorem State.i3cGet_only {s0 s : State} (hk : Only K s0 s)
    (hK : Needs 256 K := by exact Needs.sub (by assumption) (by decide)) : Only K s0 (State.i3cGet s) := by
  unfold State.i3cGet
  with_reducible repeat' first
    | assumption | apply State.modI3c_only | exact Needs.sub ‹_› (by decide)

theorem execI3cPrivateWrite_only {s : State} {bytes : Bytes} (hK : Needs 262015 K) : KeptO K s (execI3cPrivateWrite bytes s) := by
  unfold execI3cPrivateWrite
  with_reducible repeat' first
    | assumption | apply KeptO.next | apply KeptO.fault | apply KeptO.cond | exact Only.refl _ | apply State.i3cPut_only
    | apply State.modI3c_only | apply State.i3cAnswers_only | exact Needs.sub ‹_› (by decide) | apply Only.cond
    | refine Only.foldl ?_ fun _ _ _ => ?_ | split | (dsimp only; split) | fail_if_no_progress refine Only.mk' ?_

theorem execI3cPrivateRead_only {s : State} {count : Nat} (hK : Needs 256 K) : KeptO K s (execI3cPrivateRead count s) := by
  unfold execI3cPrivateRead
  with_reducible repeat' first
    | assumption | apply KeptO.next | apply KeptO.fault | apply KeptO.cond | exact Only.refl _ | apply State.i3cGet_only
    | apply State.i3cAnswers_only | exact Needs.sub ‹_› (by decide) | apply Only.cond | refine Only.foldl ?_ fun _ _ _ => ?_ | split
    | (dsimp only; split) | fail_if_no_progress refine Only.mk' ?_

theorem State.modTap_only {s0 s : State} {f : Tap → Tap} (hk : Only K s0 s)
    (hK : Needs 128 K := by exact Needs.sub (by assumption) (by decide)) : Only K s0 (State.modTap s f) := by
  unfold State.modTap
  with_reducible repeat' first
    | assumption | exact Needs.sub ‹_› (by decide) | apply Only.cond | fail_if_no_progress refine Only.mk' ?_

theorem State.extestWith_only {s0 s : State} {ir : Nat} {d : PinDrive} {pins : List Bool} {shifted : List Bool} (hk : Only K s0 s)
    (hK : Needs 128 K := by exact Needs.sub (by assumption) (by decide)) : Only K s0 (State.extestWith s ir d pins shifted) := by
  unfold State.extestWith
  with_reducible repeat' first
    | assumption | apply State.modTap_only | exact Needs.sub ‹_› (by decide) | apply Only.cond | split | (dsimp only; split)
    | fail_if_no_progress refine Only.mk' ?_

theorem execExtest_only {s : State} {pins : List Bool} {shifted : List Bool} (hK : Needs 128 K) : KeptO K s (execExtest pins
    shifted s) := by
  unfold execExtest
  with_reducible repeat' first
    | assumption | apply KeptO.next | apply KeptO.fault | apply KeptO.cond | exact Only.refl _ | apply State.extestWith_only
    | exact Needs.sub ‹_› (by decide) | split | (dsimp only; split)

theorem execExtestPulse_only {s : State} {pins : List Bool} {shifted : List Bool} (hK : Needs 128 K) : KeptO K s (execExtestPulse
    pins shifted s) := by
  unfold execExtestPulse
  with_reducible repeat' first
    | assumption | apply KeptO.next | apply KeptO.fault | apply KeptO.cond | exact Only.refl _ | apply State.extestWith_only
    | exact Needs.sub ‹_› (by decide) | split | (dsimp only; split)

theorem execExtestTrain_only {s : State} {pins : List Bool} {shifted : List Bool} (hK : Needs 128 K) : KeptO K s (execExtestTrain
    pins shifted s) := by
  unfold execExtestTrain
  with_reducible repeat' first
    | assumption | apply KeptO.next | apply KeptO.fault | apply KeptO.cond | exact Only.refl _ | apply State.extestWith_only
    | exact Needs.sub ‹_› (by decide) | split | (dsimp only; split)

theorem execSamplePreload_only {s : State} {pins : List Bool} {shifted : List Bool} (hK : Needs 128 K) : KeptO K s
    (execSamplePreload pins shifted s) := by
  unfold execSamplePreload
  with_reducible repeat' first
    | assumption | apply KeptO.next | apply KeptO.fault | apply KeptO.cond | exact Only.refl _ | apply State.modTap_only
    | exact Needs.sub ‹_› (by decide) | apply Only.cond | split | (dsimp only; split) | fail_if_no_progress refine Only.mk' ?_

theorem execClamp_only {s : State}  (hK : Needs 128 K) : KeptO K s (execClamp s) := by
  unfold execClamp
  with_reducible repeat' first
    | assumption | apply KeptO.next | apply KeptO.fault | apply KeptO.cond | exact Only.refl _ | apply State.modTap_only
    | exact Needs.sub ‹_› (by decide) | apply Only.cond | split | (dsimp only; split)

theorem execHighz_only {s : State}  (hK : Needs 128 K) : KeptO K s (execHighz s) := by
  unfold execHighz
  with_reducible repeat' first
    | assumption | apply KeptO.next | apply KeptO.fault | apply KeptO.cond | exact Only.refl _ | apply State.modTap_only
    | exact Needs.sub ‹_› (by decide) | apply Only.cond | split | (dsimp only; split)

theorem execIdcode_only {s : State}  (hK : Needs 128 K) : KeptO K s (execIdcode s) := by
  unfold execIdcode
  with_reducible repeat' first
    | assumption | apply KeptO.next | apply KeptO.fault | apply KeptO.cond | exact Only.refl _ | apply State.modTap_only
    | exact Needs.sub ‹_› (by decide) | split | (dsimp only; split)

theorem execBypass_only {s : State} {opcode : Nat} (hK : Needs 128 K) : KeptO K s (execBypass opcode s) := by
  unfold execBypass
  with_reducible repeat' first
    | assumption | apply KeptO.next | apply KeptO.fault | apply KeptO.cond | exact Only.refl _ | apply State.modTap_only
    | exact Needs.sub ‹_› (by decide) | apply Only.cond | split | (dsimp only; split)

theorem execTrstN_only {s : State}  (hK : Needs 128 K) : KeptO K s (execTrstN s) := by
  unfold execTrstN
  with_reducible repeat' first
    | assumption | apply KeptO.next | apply KeptO.fault | apply KeptO.cond | exact Only.refl _ | apply State.modTap_only
    | exact Needs.sub ‹_› (by decide) | split | (dsimp only; split)

end Sys2Proof.Machine
end

