-- ==== Sys2Proof/Laws/FramesPower.lean ====
section
/-! SUPPORT. What the operations and meanings of Machine/Power.lean leave as it is: the blocks outside their mask. -/

set_option Elab.async false
set_option linter.unusedTactic false
set_option linter.unreachableTactic false
set_option linter.unusedVariables false

namespace Sys2Proof.Machine

variable {K : Nat}

theorem State.stepUp_only {s0 s : State} (hk : Only K s0 s)
    (hK : Needs 18 K := by exact Needs.sub (by assumption) (by decide)) : Only K s0 (State.stepUp s) := by
  unfold State.stepUp
  with_reducible repeat' first
    | assumption | apply State.raise_only | exact Needs.sub ‹_› (by decide) | apply Only.cond | fail_if_no_progress refine Only.mk' ?_

theorem State.stepDown_only {s0 s : State} (hk : Only K s0 s)
    (hK : Needs 18 K := by exact Needs.sub (by assumption) (by decide)) : Only K s0 (State.stepDown s) := by
  unfold State.stepDown
  with_reducible repeat' first
    | assumption | apply State.raise_only | exact Needs.sub ‹_› (by decide) | apply Only.cond | split | (dsimp only; split)
    | fail_if_no_progress refine Only.mk' ?_

theorem State.setTriggers_only {s0 s : State} {temp : Bool} {rate : Bool} {curr : Bool} (hk : Only K s0 s)
    (hK : Needs 22 K := by exact Needs.sub (by assumption) (by decide)) : Only K s0 (State.setTriggers s temp rate curr) := by
  unfold State.setTriggers
  with_reducible repeat' first
    | assumption | apply State.stepUp_only | exact Needs.sub ‹_› (by decide) | apply Only.cond | fail_if_no_progress refine Only.mk' ?_

theorem execThrottleStepTimer_only {s : State}  (hK : Needs 19 K) : KeptO K s (execThrottleStepTimer s) := by
  unfold execThrottleStepTimer
  with_reducible repeat' first
    | assumption | apply KeptO.next | apply KeptO.fault | apply KeptO.cond | exact Only.refl _ | apply State.stepUp_only
    | apply State.advanceTo_only | apply State.stepDown_only | exact Needs.sub ‹_› (by decide) | apply Only.cond | split
    | (dsimp only; split)

theorem State.govern_only {s0 s : State} {old : Nat} {avg : Nat} (hk : Only K s0 s)
    (hK : Needs 2 K := by exact Needs.sub (by assumption) (by decide)) : Only K s0 (State.govern s old avg) := by
  unfold State.govern
  with_reducible repeat' first
    | assumption | exact Needs.sub ‹_› (by decide) | apply Only.cond | split | (dsimp only; split) | fail_if_no_progress refine Only.mk' ?_

theorem State.rampEnds_only {s0 s : State} {old : Nat} {avg : Nat} (hk : Only K s0 s)
    (hK : Needs 2 K := by exact Needs.sub (by assumption) (by decide)) : Only K s0 (State.rampEnds s old avg) := by
  unfold State.rampEnds
  with_reducible repeat' first
    | assumption | exact Needs.sub ‹_› (by decide) | apply Only.cond | split | (dsimp only; split) | fail_if_no_progress refine Only.mk' ?_

theorem execGovernorTick_only {s : State} {vinMv : Nat} {iinMa : Nat} (hK : Needs 22 K) : KeptO K s (execGovernorTick vinMv iinMa s) := by
  unfold execGovernorTick
  with_reducible repeat' first
    | assumption | apply KeptO.next | apply KeptO.fault | apply KeptO.cond | exact Only.refl _ | apply State.raise_only
    | apply State.govern_only | apply State.setTriggers_only | apply State.rampEnds_only | exact Needs.sub ‹_› (by decide)
    | apply Only.cond | split | (dsimp only; split) | fail_if_no_progress refine Only.mk' ?_

theorem execRailCurrentGuard_only {s : State} {quarterAmps : Nat} (hK : Needs 18 K) : KeptO K s (execRailCurrentGuard quarterAmps s) := by
  unfold execRailCurrentGuard
  with_reducible repeat' first
    | assumption | apply KeptO.next | apply KeptO.fault | apply KeptO.cond | exact Only.refl _ | apply State.raise_only
    | exact Needs.sub ‹_› (by decide) | apply Only.cond | fail_if_no_progress refine Only.mk' ?_ | split | (dsimp only; split)

theorem State.takeSample_only {s0 s : State} {e : Nat × Int} (hk : Only K s0 s)
    (hK : Needs 261759 K := by exact Needs.sub (by assumption) (by decide)) : Only K s0 (State.takeSample s e) := by
  unfold State.takeSample
  with_reducible repeat' first
    | assumption | apply State.raise_only | apply State.failStop_only | exact Needs.sub ‹_› (by decide) | apply Only.cond
    | fail_if_no_progress refine Only.mk' ?_

theorem State.sensorTriggers_only {s0 s : State} (hk : Only K s0 s)
    (hK : Needs 22 K := by exact Needs.sub (by assumption) (by decide)) : Only K s0 (State.sensorTriggers s) := by
  unfold State.sensorTriggers
  with_reducible repeat' first
    | assumption | apply State.setTriggers_only | exact Needs.sub ‹_› (by decide) | apply Only.cond

theorem execSensorSample_only {s : State} {raw : List (Nat × Int)} (hK : Needs 261759 K) : KeptO K s (execSensorSample raw s) := by
  unfold execSensorSample
  with_reducible repeat' first
    | assumption | apply KeptO.next | apply KeptO.fault | apply KeptO.cond | exact Only.refl _ | apply State.takeSample_only
    | apply State.watchRun_only | apply State.sensorTriggers_only | exact Needs.sub ‹_› (by decide)
    | refine Only.foldl ?_ fun _ _ _ => ?_ | split | (dsimp only; split)

theorem execAutoHold_only {s : State}  (hK : Needs 90211 K) : KeptO K s (execAutoHold s) := by
  unfold execAutoHold
  with_reducible repeat' first
    | assumption | apply KeptO.next | apply KeptO.fault | apply KeptO.cond | exact Only.refl _ | apply State.enterP1_only
    | apply State.advanceTo_only | exact Needs.sub ‹_› (by decide) | apply Only.cond | split | (dsimp only; split)

theorem execPowerEntryTimeout_only {s : State}  (hK : Needs 531 K) : KeptO K s (execPowerEntryTimeout s) := by
  unfold execPowerEntryTimeout
  with_reducible repeat' first
    | assumption | apply KeptO.next | apply KeptO.fault | apply KeptO.cond | exact Only.refl _ | apply State.abandonEntry_only
    | apply State.advanceTo_only | exact Needs.sub ‹_› (by decide) | apply Only.cond | split | (dsimp only; split)
    | fail_if_no_progress refine Only.mk' ?_

theorem execWakeN_only {s : State}  (hK : Needs 261755 K) : KeptO K s (execWakeN s) := by
  unfold execWakeN
  with_reducible repeat' first
    | assumption | apply KeptO.next | apply KeptO.fault | apply KeptO.cond | exact Only.refl _ | apply State.wake_only
    | exact Needs.sub ‹_› (by decide) | split | (dsimp only; split)

theorem execWakeLight_only {s : State} {port : Nat} (hK : Needs 261755 K) : KeptO K s (execWakeLight port s) := by
  unfold execWakeLight
  with_reducible repeat' first
    | assumption | apply KeptO.next | apply KeptO.fault | apply KeptO.cond | exact Only.refl _ | apply State.wake_only
    | exact Needs.sub ‹_› (by decide) | apply Only.cond | split | (dsimp only; split)

theorem execLaneEnergyWake_only {s : State} {port : Nat} (hK : Needs 261755 K) : KeptO K s (execLaneEnergyWake port s) := by
  unfold execLaneEnergyWake
  with_reducible repeat' first
    | assumption | apply KeptO.next | apply KeptO.fault | apply KeptO.cond | exact Only.refl _ | apply State.wake_only
    | exact Needs.sub ‹_› (by decide) | apply Only.cond | split | (dsimp only; split)

theorem execFabricWakeFrame_only {s : State} {port : Nat} (hK : Needs 261755 K) : KeptO K s (execFabricWakeFrame port s) := by
  unfold execFabricWakeFrame
  with_reducible repeat' first
    | assumption | apply KeptO.next | apply KeptO.fault | apply KeptO.cond | exact Only.refl _ | apply State.wake_only
    | exact Needs.sub ‹_› (by decide) | apply Only.cond | split | (dsimp only; split)

end Sys2Proof.Machine
end

