-- ==== Sys2Proof/Laws/FramesReliability.lean ====
section
/-! SUPPORT. What the operations and meanings of Machine/Reliability.lean leave as it is: the blocks outside their mask. -/

set_option Elab.async false
set_option linter.unusedTactic false
set_option linter.unreachableTactic false
set_option linter.unusedVariables false

namespace Sys2Proof.Machine

variable {K : Nat}

theorem State.countEcc_only {s0 s : State} {det : Bool} {stack : Nat} (hk : Only K s0 s)
    (hK : Needs 32 K := by exact Needs.sub (by assumption) (by decide)) : Only K s0 (State.countEcc s det stack) := by
  unfold State.countEcc
  with_reducible repeat' first
    | assumption | refine State.countDrop_only ?_ | exact Needs.sub ‹_› (by decide) | apply Only.cond

theorem State.hbmBad_only {s0 s : State} {stack : Nat} {addr : Nat} {row : Nat} (hk : Only K s0 s)
    (hK : Needs 48 K := by exact Needs.sub (by assumption) (by decide)) : Only K s0 (State.hbmBad s stack addr row) := by
  unfold State.hbmBad
  with_reducible repeat' first
    | assumption | apply State.raise_only | apply State.countEcc_only | exact Needs.sub ‹_› (by decide)

theorem State.symbolCorrected_only {s0 s : State} {before : List (Nat × Nat × Nat)} {c : Nat × Nat × Nat} (hk : Only K s0 s)
    (hK : Needs 48 K := by exact Needs.sub (by assumption) (by decide)) : Only K s0 (State.symbolCorrected s before c) := by
  unfold State.symbolCorrected
  with_reducible repeat' first
    | assumption | apply State.countEcc_only | apply State.raise_only | exact Needs.sub ‹_› (by decide) | apply Only.cond

theorem State.rebuildFranking_only {s0 s : State} {a : ArrId} (hk : Only K s0 s)
    (hK : Needs 8192 K := by exact Needs.sub (by assumption) (by decide)) : Only K s0 (State.rebuildFranking s a) := by
  unfold State.rebuildFranking
  with_reducible repeat' first
    | assumption | apply State.modFranking_only | exact Needs.sub ‹_› (by decide)

theorem State.damageDump_only {s0 s : State} {slot : Nat} (hk : Only K s0 s)
    (hK : Needs 8 K := by exact Needs.sub (by assumption) (by decide)) : Only K s0 (State.damageDump s slot) := by
  unfold State.damageDump
  with_reducible repeat' first
    | assumption | exact Needs.sub ‹_› (by decide) | fail_if_no_progress refine Only.mk' ?_

theorem State.scrubbed_only {s0 s : State} {before : State} {f : ScrubFinding} (hk : Only K s0 s)
    (hK : Needs 261754 K := by exact Needs.sub (by assumption) (by decide)) : Only K s0 (State.scrubbed s before f) := by
  unfold State.scrubbed
  with_reducible repeat' first
    | assumption | apply State.symbolCorrected_only | apply State.invalidateMaster_only | apply State.hbmBad_only
    | apply State.rebuildRecord_only | apply State.rebuildFranking_only | apply State.raise_only | apply State.transient_only
    | apply State.drain_only | apply State.damageDump_only | exact Needs.sub ‹_› (by decide) | apply Only.cond | split
    | (dsimp only; split) | fail_if_no_progress refine Only.mk' ?_

theorem execEccScrub_only {s : State} {pass : ScrubPass} (hK : Needs 261754 K) : KeptO K s (execEccScrub pass s) := by
  unfold execEccScrub
  with_reducible repeat' first
    | assumption | apply KeptO.next | apply KeptO.fault | apply KeptO.cond | exact Only.refl _ | apply State.scrubbed_only
    | refine State.countDrop_only ?_ | exact Needs.sub ‹_› (by decide) | apply Only.cond | refine Only.foldl ?_ fun _ _ _ => ?_ | split
    | (dsimp only; split) | fail_if_no_progress refine Only.mk' ?_

theorem State.p0To_only {s0 s : State} {t : Nat} (hk : Only K s0 s)
    (hK : Needs 1 K := by exact Needs.sub (by assumption) (by decide)) : Only K s0 (State.p0To s t) := by
  unfold State.p0To
  with_reducible repeat' first
    | assumption | apply State.advanceTo_only | exact Needs.sub ‹_› (by decide)

theorem execInFieldTestDue_only {s : State} {t : TileId} (hK : Needs 16385 K) : KeptO K s (execInFieldTestDue t s) := by
  unfold execInFieldTestDue
  with_reducible repeat' first
    | assumption | apply KeptO.next | apply KeptO.fault | apply KeptO.cond | exact Only.refl _ | apply State.p0To_only
    | apply State.modTile_only | exact Needs.sub ‹_› (by decide) | apply Only.cond | split | (dsimp only; split)
    | fail_if_no_progress refine Only.mk' ?_

theorem State.beginTest_only {s0 s : State} {t : TileId} (hk : Only K s0 s)
    (hK : Needs 16384 K := by exact Needs.sub (by assumption) (by decide)) : Only K s0 (State.beginTest s t) := by
  unfold State.beginTest
  with_reducible repeat' first
    | assumption | apply State.modTile_only | exact Needs.sub ‹_› (by decide) | apply Only.cond | split | (dsimp only; split)
    | fail_if_no_progress refine Only.mk' ?_

theorem execInFieldTestStart_only {s : State} {t : TileId} (hK : Needs 16384 K) : KeptO K s (execInFieldTestStart t s) := by
  unfold execInFieldTestStart
  with_reducible repeat' first
    | assumption | apply KeptO.next | apply KeptO.fault | apply KeptO.cond | exact Only.refl _ | apply State.beginTest_only
    | exact Needs.sub ‹_› (by decide) | apply Only.cond | split | (dsimp only; split) | fail_if_no_progress refine Only.mk' ?_

theorem execInFieldTestForced_only {s : State} {t : TileId} (hK : Needs 16401 K) : KeptO K s (execInFieldTestForced t s) := by
  unfold execInFieldTestForced
  with_reducible repeat' first
    | assumption | apply KeptO.next | apply KeptO.fault | apply KeptO.cond | exact Only.refl _ | apply State.p0To_only
    | apply State.raise_only | apply State.beginTest_only | exact Needs.sub ‹_› (by decide) | apply Only.cond | split | (dsimp only; split)
    | fail_if_no_progress refine Only.mk' ?_

theorem execInFieldTestDone_only {s : State} {t : TileId} {readings : TestReadings} (hK : Needs 261754 K) : KeptO K s (execInFieldTestDone
    t readings s) := by
  unfold execInFieldTestDone
  with_reducible repeat' first
    | assumption | apply KeptO.next | apply KeptO.fault | apply KeptO.cond | exact Only.refl _ | apply State.modTile_only
    | apply State.drain_only | apply State.raise_only | apply State.active_only | exact Needs.sub ‹_› (by decide) | apply Only.cond | split
    | (dsimp only; split) | fail_if_no_progress refine Only.mk' ?_

end Sys2Proof.Machine
end

