-- ==== Sys2Proof/Laws/FramesStartup.lean ====
section
/-! SUPPORT. What the operations and meanings of Machine/Startup.lean leave as it is: the blocks outside their mask. -/

set_option Elab.async false
set_option linter.unusedTactic false
set_option linter.unreachableTactic false
set_option linter.unusedVariables false

namespace Sys2Proof.Machine

variable {K : Nat}

theorem State.strapped_only {s0 s : State} {compat : Bool} {addr0 : Bool} {addr1 : Bool} (hk : Only K s0 s)
    (hK : Needs 136 K := by exact Needs.sub (by assumption) (by decide)) : Only K s0 (State.strapped s compat addr0 addr1) := by
  unfold State.strapped
  with_reducible repeat' first
    | assumption | exact Needs.sub ‹_› (by decide) | apply Only.cond | split | (dsimp only; split) | fail_if_no_progress refine Only.mk' ?_

theorem execPowerApplied_only {s : State} {vinMv : Nat} {rst : Bool} {compat : Bool} {addr0 : Bool} {addr1 : Bool} (hK : Needs
    262143 K) : KeptO K s (execPowerApplied vinMv rst compat addr0 addr1 s) := by
  unfold execPowerApplied
  with_reducible repeat' first
    | assumption | apply KeptO.next | apply KeptO.fault | apply KeptO.cond | exact Only.refl _ | apply State.beginReset_only
    | apply State.bootChain_only | apply State.strapped_only | exact Needs.sub ‹_› (by decide) | apply Only.cond | split
    | (dsimp only; split) | fail_if_no_progress refine Only.mk' ?_

theorem State.dropVoltage_only {s0 s : State} (hk : Only K s0 s)
    (hK : Needs 262144 K := by exact Needs.sub (by assumption) (by decide)) : Only K s0 (State.dropVoltage s).2 := by
  unfold State.dropVoltage
  with_reducible repeat' first
    | assumption | apply State.nextDraw_only | exact Needs.sub ‹_› (by decide) | split | (dsimp only; split)

theorem execPowerRemoved_only {s : State}  (hK : Needs 524287 K) : KeptO K s (execPowerRemoved s) := by
  unfold execPowerRemoved
  with_reducible repeat' first
    | assumption | apply KeptO.next | apply KeptO.fault | apply KeptO.cond | exact Only.refl _ | apply State.failStop_only
    | apply State.dropVoltage_only | apply State.beginReset_only | exact Needs.sub ‹_› (by decide) | apply Only.cond | split
    | (dsimp only; split) | fail_if_no_progress refine Only.mk' ?_

theorem execPowerFailStop_only {s : State} {isOver : Bool} {vinMv : Nat} (hK : Needs 261755 K) : KeptO K s (execPowerFailStop
    isOver vinMv s) := by
  unfold execPowerFailStop
  with_reducible repeat' first
    | assumption | apply KeptO.next | apply KeptO.fault | apply KeptO.cond | exact Only.refl _ | apply State.failStop_only
    | exact Needs.sub ‹_› (by decide) | apply Only.cond | split | (dsimp only; split)

theorem execSysclkLoss_only {s : State}  (hK : Needs 261755 K) : KeptO K s (execSysclkLoss s) := by
  unfold execSysclkLoss
  with_reducible repeat' first
    | assumption | apply KeptO.next | apply KeptO.fault | apply KeptO.cond | exact Only.refl _ | apply State.failStop_only
    | exact Needs.sub ‹_› (by decide) | apply Only.cond | fail_if_no_progress refine Only.mk' ?_ | split | (dsimp only; split)

theorem execPowerFailRecovery_only {s : State}  (hK : Needs 262015 K) : KeptO K s (execPowerFailRecovery s) := by
  unfold execPowerFailRecovery
  with_reducible repeat' first
    | assumption | apply KeptO.next | apply KeptO.fault | apply KeptO.cond | exact Only.refl _ | apply State.beginReset_only
    | apply State.bootChain_only | exact Needs.sub ‹_› (by decide) | apply Only.cond | fail_if_no_progress refine Only.mk' ?_ | split
    | (dsimp only; split)

theorem execResetN_only {s : State} {compat : Bool} {addr0 : Bool} {addr1 : Bool} (hK : Needs 262143 K) : KeptO K s (execResetN
    compat addr0 addr1 s) := by
  unfold execResetN
  with_reducible repeat' first
    | assumption | apply KeptO.next | apply KeptO.fault | apply KeptO.cond | exact Only.refl _ | apply State.resetModule_only
    | apply State.strapped_only | exact Needs.sub ‹_› (by decide) | apply Only.cond | split | (dsimp only; split)

theorem execArraysReady_only {s : State}  (hK : Needs 24584 K) : KeptO K s (execArraysReady s) := by
  unfold execArraysReady
  with_reducible repeat' first
    | assumption | apply KeptO.next | apply KeptO.fault | apply KeptO.cond | exact Only.refl _ | apply State.bindArray_only
    | exact Needs.sub ‹_› (by decide) | apply Only.cond | refine Only.foldl ?_ fun _ _ _ => ?_ | split | (dsimp only; split)
    | fail_if_no_progress refine Only.mk' ?_

theorem execWatchdogWrite_only {s : State} {core : Nat} (hK : Needs 8 K) : KeptO K s (execWatchdogWrite core s) := by
  unfold execWatchdogWrite
  with_reducible repeat' first
    | assumption | apply KeptO.next | apply KeptO.fault | apply KeptO.cond | exact Only.refl _ | exact Needs.sub ‹_› (by decide)
    | apply Only.cond | fail_if_no_progress refine Only.mk' ?_ | split | (dsimp only; split)

theorem execWatchdogExpiry_only {s : State} {core : Nat} (hK : Needs 261755 K) : KeptO K s (execWatchdogExpiry core s) := by
  unfold execWatchdogExpiry
  with_reducible repeat' first
    | assumption | apply KeptO.next | apply KeptO.fault | apply KeptO.cond | exact Only.refl _ | apply State.advanceTo_only
    | apply State.crash_only | apply State.raise_only | exact Needs.sub ‹_› (by decide) | apply Only.cond | split | (dsimp only; split)

theorem execFirmwareCrash_only {s : State} {cause : CrashCause} {core : Nat} (hK : Needs 261754 K) : KeptO K s (execFirmwareCrash
    cause core s) := by
  unfold execFirmwareCrash
  with_reducible repeat' first
    | assumption | apply KeptO.next | apply KeptO.fault | apply KeptO.cond | exact Only.refl _ | apply State.crash_only
    | exact Needs.sub ‹_› (by decide) | apply Only.cond | split | (dsimp only; split)

theorem execLockstepMismatch_only {s : State}  (hK : Needs 261754 K) : KeptO K s (execLockstepMismatch s) := by
  unfold execLockstepMismatch
  with_reducible repeat' first
    | assumption | apply KeptO.next | apply KeptO.fault | apply KeptO.cond | exact Only.refl _ | apply State.raise_only
    | apply State.drain_only | apply State.writeDump_only | exact Needs.sub ‹_› (by decide) | apply Only.cond
    | fail_if_no_progress refine Only.mk' ?_ | split | (dsimp only; split)

end Sys2Proof.Machine
end

