-- ==== Sys2Proof/Laws/Memory.lean ====
section
/-! SUPPORT. The laws of window memory: its canonical form is kept by every operation on it, a byte written reads back, every other
byte keeps its value, and a memory in canonical form is the only one with its contents. -/

set_option Elab.async false
set_option linter.unusedTactic false
set_option linter.unreachableTactic false
set_option linter.unusedVariables false

namespace Sys2Proof.Machine

theorem Memory.wf_nil : Memory.wf [] = true := rfl

theorem Memory.wf_cons (e : Host.Cell) (es : List Host.Cell) :
    Memory.wf (e :: es) = true ↔ e.2 ≠ unwritten ∧ (∀ x ∈ es, e.1 < x.1) ∧ Memory.wf es = true := by
  simp [Memory.wf, and_assoc]

theorem mem_memPut (a : Nat) (v : Byte) (m : List Host.Cell) (x : Host.Cell) (h : x ∈ memPut a v m) : x ∈ m ∨ x = (a, v) := by
  induction m with
  | nil => unfold memPut at h; split at h <;> simp_all
  | cons e es ih =>
    unfold memPut at h
    split at h
    · split at h <;> simp_all
      tauto
    · split at h
      · split at h <;> simp_all
        tauto
      · rcases List.mem_cons.1 h with rfl | h
        · simp
        · rcases ih h with h | h <;> simp [h]

theorem memPut_wf (a : Nat) (v : Byte) (m : List Host.Cell) (h : Memory.wf m = true) : Memory.wf (memPut a v m) = true := by
  induction m with
  | nil =>
    unfold memPut
    split
    · rfl
    · simp_all [Memory.wf]
  | cons e es ih =>
    obtain ⟨h1, h2, h3⟩ := (Memory.wf_cons e es).1 h
    unfold memPut
    split
    · split
      · exact h
      · rename_i hlt hv
        refine (Memory.wf_cons _ _).2 ⟨hv, ?_, h⟩
        intro x hx
        rcases List.mem_cons.1 hx with rfl | hx
        · exact hlt
        · exact lt_trans hlt (h2 x hx)
    · split
      · split
        · exact h3
        · rename_i heq hv
          exact (Memory.wf_cons _ _).2 ⟨hv, fun x hx => heq ▸ h2 x hx, h3⟩
      · rename_i hlt hne
        refine (Memory.wf_cons _ _).2 ⟨h1, ?_, ih h3⟩
        intro x hx
        rcases mem_memPut a v es x hx with hx | rfl
        · exact h2 x hx
        · show e.1 < a
          omega

theorem memGet_nil (b : Nat) : memGet [] b = unwritten := rfl

theorem memGet_cons (e : Host.Cell) (es : List Host.Cell) (b : Nat) :
    memGet (e :: es) b = if e.1 = b then e.2 else memGet es b := by
  unfold memGet
  by_cases h : e.1 = b
  · simp [List.find?, h]
  · have hb : (e.1 == b) = false := by simpa using h
    simp [List.find?, h, hb]

theorem memGet_absent (m : List Host.Cell) (b : Nat) (h : ∀ x ∈ m, x.1 ≠ b) : memGet m b = unwritten := by
  induction m with
  | nil => rfl
  | cons e es ih => rw [memGet_cons, if_neg (h e (by simp)), ih fun x hx => h x (by simp [hx])]

/-- Every other byte keeps its value. -/
theorem memGet_memPut_other (a b : Nat) (v : Byte) (m : List Host.Cell) (h : b ≠ a) : memGet (memPut a v m) b = memGet m b := by
  have hab : ¬ a = b := fun e => h e.symm
  induction m with
  | nil => unfold memPut; split <;> simp [memGet_cons, memGet_nil, hab]
  | cons e es ih =>
    unfold memPut
    split
    · split <;> simp [memGet_cons, hab]
    · split
      · rename_i heq
        have he : ¬ e.1 = b := fun q => hab (heq.trans q)
        split <;> simp [memGet_cons, hab, he]
      · simp [memGet_cons, ih]

/-- A byte written reads back. -/
theorem memGet_memPut_same (a : Nat) (v : Byte) (m : List Host.Cell) (h : Memory.wf m = true) : memGet (memPut a v m) a = v := by
  induction m with
  | nil =>
    unfold memPut
    split
    · rename_i hv; exact (memGet_nil a).trans hv.symm
    · simp [memGet_cons]
  | cons e es ih =>
    obtain ⟨-, h2, h3⟩ := (Memory.wf_cons e es).1 h
    unfold memPut
    split
    · rename_i hlt
      split
      · rename_i hv
        rw [memGet_absent, hv]
        intro x hx
        rcases List.mem_cons.1 hx with rfl | hx
        · omega
        · have := h2 x hx; omega
      · simp [memGet_cons]
    · split
      · rename_i heq
        split
        · rename_i hv
          rw [memGet_absent, hv]
          intro x hx
          have := h2 x hx; omega
        · simp [memGet_cons]
      · rename_i hne
        have he : ¬ e.1 = a := fun q => hne q.symm
        rw [memGet_cons, if_neg he, ih h3]

theorem memWrite_wf (m : List Host.Cell) (a : Nat) (b : Bytes) (h : Memory.wf m = true) : Memory.wf (memWrite m a b) = true := by
  induction b generalizing m a with
  | nil => exact h
  | cons x xs ih => exact ih _ _ (memPut_wf a x m h)

/-- Every byte outside those written keeps its value. -/
theorem memGet_memWrite_outside (m : List Host.Cell) (a b : Nat) (d : Bytes) (h : b < a ∨ a + d.length ≤ b) :
    memGet (memWrite m a d) b = memGet m b := by
  induction d generalizing m a with
  | nil => rfl
  | cons x xs ih =>
    simp only [List.length_cons] at h
    show memGet (memWrite (memPut a x m) (a + 1) xs) b = memGet m b
    rw [ih _ _ (by omega), memGet_memPut_other a b x m (by omega)]

/-- The bytes written read back. -/
theorem memGet_memWrite_inside (m : List Host.Cell) (a i : Nat) (d : Bytes) (h : Memory.wf m = true) (hi : i < d.length) :
    memGet (memWrite m a d) (a + i) = d.getD i 0 := by
  induction d generalizing m a i with
  | nil => simp at hi
  | cons x xs ih =>
    show memGet (memWrite (memPut a x m) (a + 1) xs) (a + i) = _
    cases i with
    | zero =>
      rw [memGet_memWrite_outside _ _ _ _ (by omega)]
      simpa using memGet_memPut_same a x m h
    | succ j =>
      have := ih (memPut a x m) (a + 1) j (memPut_wf a x m h) (by simpa using hi)
      rw [show a + (j + 1) = a + 1 + j by omega, this]
      simp

/-- Bytes written read back. -/
theorem memRead_memWrite (m : List Host.Cell) (a : Nat) (d : Bytes) (h : Memory.wf m = true) : memRead (memWrite m a d) a d.length = d := by
  refine List.ext_getElem (by simp [memRead]) fun i h1 h2 => ?_
  simp only [memRead, List.getElem_map, List.getElem_range]
  rw [memGet_memWrite_inside m a i d h h2]
  simp [List.getD, h2]

theorem memClear_wf (m : List Host.Cell) (a n : Nat) (h : Memory.wf m = true) : Memory.wf (memClear m a n) = true := by
  unfold memClear
  induction m with
  | nil => rfl
  | cons e es ih =>
    obtain ⟨h1, h2, h3⟩ := (Memory.wf_cons e es).1 h
    rw [List.filter_cons]
    split
    · exact (Memory.wf_cons _ _).2 ⟨h1, fun x hx => h2 x (List.mem_filter.1 hx).1, ih h3⟩
    · exact ih h3

/-- Cleared bytes read as unwritten; the others keep their value. -/
theorem memGet_memClear (m : List Host.Cell) (a n b : Nat) :
    memGet (memClear m a n) b = if a ≤ b ∧ b < a + n then unwritten else memGet m b := by
  unfold memClear
  induction m with
  | nil => simp [memGet_nil]
  | cons e es ih =>
    rw [List.filter_cons]
    by_cases hb : e.1 = b
    · subst hb
      by_cases hin : a ≤ e.1 ∧ e.1 < a + n
      · have hp : ¬ (!(decide (a ≤ e.1) && decide (e.1 < a + n))) = true := by simp [hin.1, hin.2]
        rw [if_neg hp, ih, if_pos hin, if_pos hin]
      · have hp : (!(decide (a ≤ e.1) && decide (e.1 < a + n))) = true := by
          rcases Nat.lt_or_ge e.1 a with h | h
          · simp [Nat.not_le.2 h]
          · have : ¬ e.1 < a + n := fun q => hin ⟨h, q⟩
            simp [this]
        rw [if_pos hp, memGet_cons, if_pos rfl, if_neg hin, memGet_cons, if_pos rfl]
    · split
      · rw [memGet_cons, if_neg hb, ih, memGet_cons, if_neg hb]
      · rw [ih, memGet_cons, if_neg hb]

/-- Two memories in canonical form that read alike are the same data. -/
theorem Memory.ext (m n : List Host.Cell) (hm : Memory.wf m = true) (hn : Memory.wf n = true) (h : ∀ a, memGet m a = memGet n a) :
    m = n := by
  induction m generalizing n with
  | nil =>
    cases n with
    | nil => rfl
    | cons f fs =>
      have := h f.1
      rw [memGet_nil, memGet_cons, if_pos rfl] at this
      exact absurd this.symm ((Memory.wf_cons f fs).1 hn).1
  | cons e es ih =>
    obtain ⟨e1, e2, e3⟩ := (Memory.wf_cons e es).1 hm
    cases n with
    | nil =>
      have := h e.1
      rw [memGet_nil, memGet_cons, if_pos rfl] at this
      exact absurd this e1
    | cons f fs =>
      obtain ⟨f1, f2, f3⟩ := (Memory.wf_cons f fs).1 hn
      have key : e.1 = f.1 := by
        rcases Nat.lt_trichotomy e.1 f.1 with hlt | heq | hgt
        · exfalso
          have := h e.1
          rw [memGet_cons, if_pos rfl, memGet_absent (f :: fs)] at this
          · exact e1 this
          · intro x hx
            rcases List.mem_cons.1 hx with rfl | hx
            · omega
            · have := f2 x hx; omega
        · exact heq
        · exfalso
          have := h f.1
          rw [memGet_cons f, if_pos rfl, memGet_absent (e :: es)] at this
          · exact f1 this.symm
          · intro x hx
            rcases List.mem_cons.1 hx with rfl | hx
            · omega
            · have := e2 x hx; omega
      have hv : e.2 = f.2 := by
        have := h e.1
        rwa [memGet_cons, if_pos rfl, memGet_cons, if_pos key.symm] at this
      have hef : e = f := Prod.ext key hv
      subst hef
      refine congrArg (e :: ·) (ih fs e3 f3 fun a => ?_)
      by_cases ha : e.1 = a
      · subst ha
        rw [memGet_absent es, memGet_absent fs]
        · intro x hx; have := f2 x hx; omega
        · intro x hx; have := e2 x hx; omega
      · have := h a
        rwa [memGet_cons, if_neg ha, memGet_cons, if_neg ha] at this

theorem State.readMem_length (s : State) (a n : Nat) : (s.readMem a n).length = n := by
  simp [State.readMem, memRead]

end Sys2Proof.Machine
end

