-- ==== Sys2Proof/Laws/Keeps.lean ====
section
/-! SUPPORT. What every operation keeps: the queue of waiting commands, the direction of the free-running clock, and the soundness of
the state. `Keeps s t` says that `t` follows `s` in these; the files Laws/Keeps<Part>.lean hold one lemma for each operation of the
file Machine/<Part>.lean and for each meaning. -/

set_option Elab.async false
set_option linter.unusedTactic false
set_option linter.unreachableTactic false
set_option linter.unusedVariables false

namespace Sys2Proof.Machine

/-- `t` follows `s`: no waiting command is taken or added, the free-running clock has not gone back, the device is
the same, and `t` is sound if `s` is. -/
structure Keeps (s t : State) : Prop where
  pending : t.pending = s.pending
  tick : s.tm.tick ≤ t.tm.tick
  device : t.bt.certSerial = s.bt.certSerial
  sound : s.Sound → t.Sound

/-- Every next state of an outcome follows `s`. -/
def Kept (s : State) (o : Host.Outcome State Fault Refusal) : Prop := ∀ t, o = .next t → Keeps s t

theorem Keeps.refl (s : State) : Keeps s s := ⟨rfl, Nat.le_refl _, rfl, id⟩

theorem Keeps.trans {s t u : State} (h : Keeps s t) (g : Keeps t u) : Keeps s u :=
  ⟨g.pending.trans h.pending, Nat.le_trans h.tick g.tick, g.device.trans h.device, fun q => g.sound (h.sound q)⟩

theorem Keeps.ifs {s a b : State} {c : Prop} {d : Decidable c} (ha : c → Keeps s a) (hb : ¬ c → Keeps s b) :
    Keeps s (@ite State c d a b) := by
  by_cases h : c
  · rw [if_pos h]; exact ha h
  · rw [if_neg h]; exact hb h

theorem Keeps.cond {s a b : State} {c : Prop} {d : Decidable c} (ha : Keeps s a) (hb : Keeps s b) : Keeps s (@ite State c d a b) :=
  Keeps.ifs (fun _ => ha) fun _ => hb

theorem Kept.next {s t : State} (h : Keeps s t) : Kept s (.next t) := fun _ e => by cases e; exact h

theorem Kept.fault {s : State} (f : Fault) : Kept s (.fault f) := fun _ e => by cases e

theorem Kept.ifs {s : State} {a b : Host.Outcome State Fault Refusal} {c : Prop} {d : Decidable c} (ha : c → Kept s a)
    (hb : ¬ c → Kept s b) : Kept s (@ite _ c d a b) := by
  by_cases h : c
  · rw [if_pos h]; exact ha h
  · rw [if_neg h]; exact hb h

theorem Kept.cond {s : State} {a b : Host.Outcome State Fault Refusal} {c : Prop} {d : Decidable c} (ha : Kept s a) (hb : Kept s b) :
    Kept s (@ite _ c d a b) :=
  Kept.ifs (fun _ => ha) fun _ => hb

theorem Keeps.foldl {α : Type} {s t : State} {f : State → α → State} {l : List α} (h : Keeps s t)
    (hf : ∀ x a, Keeps s x → Keeps s (f x a)) : Keeps s (l.foldl f t) := by
  induction l generalizing t with
  | nil => exact h
  | cons a l ih => exact ih (hf t a h)

theorem foldl_fst_keeps {α β : Type} {s : State} {a : State × β} {f : State × β → α → State × β} {l : List α} (h : Keeps s a.1)
    (hf : ∀ x i, Keeps s x.1 → Keeps s (f x i).1) : Keeps s (l.foldl f a).1 := by
  induction l generalizing a with
  | nil => exact h
  | cons i l ih => exact ih (hf a i h)

theorem foldl_option_keeps {α : Type} {s0 : State} {s : Option State} {f : Option State → α → Option State} {l : List α}
    (h : ∀ t, s = some t → Keeps s0 t) (hf : ∀ x i, (∀ t, x = some t → Keeps s0 t) → ∀ t, f x i = some t → Keeps s0 t) :
    ∀ t, l.foldl f s = some t → Keeps s0 t := by
  induction l generalizing s with
  | nil => exact h
  | cons i l ih => exact ih (hf s i h)

/-- An update that touches neither the clock's tick, nor window memory, nor the records held, nor the retention store, nor the
device's number. -/
theorem Keeps.mk' {s0 s : State} {tm : Clocks} {pw : Power} {th : Thermal} {bt : Boot} {ev : Events} {rg : Regs} {adcs : List Adc}
    {tp : Tap} {i3 : I3c} {dp : Dispatch} {sv : Serving} {kv : Kv} {tl : Tiles} {rd : Reductions} {wt : Weights} {cl : Calib}
    {fb : Fabric} {draw : Nat} (h : Keeps s0 s) (h1 : tm.tick = s.tm.tick) (h2 : sv.mem = s.sv.mem) (h3 : ev.held = s.ev.held)
    (h4 : ev.next = s.ev.next) (h5 : rg.retained = s.rg.retained)
    (h6 : bt.certSerial = s.bt.certSerial) : 
    Keeps s0 ⟨tm, pw, th, bt, ev, rg, adcs, tp, i3, dp, sv, kv, wt, tl, rd, cl, fb, draw, s.pending⟩ := by
  refine ⟨h.pending, h1 ▸ h.tick, h6.trans h.device, fun q => ?_⟩
  obtain ⟨a, b, c, d⟩ := h.sound q
  exact ⟨h2 ▸ a, h3 ▸ b, h4 ▸ c, h5 ▸ d⟩

end Sys2Proof.Machine
end

