-- ==== Sys2Proof/Laws/KeepsTime.lean ====
section
/-! SUPPORT. What the operations and meanings of Machine/Time.lean keep. -/

set_option Elab.async false
set_option linter.unusedTactic false
set_option linter.unreachableTactic false
set_option linter.unusedVariables false

namespace Sys2Proof.Machine

theorem Clocks.forward_tick (c : Clocks) (n : Nat) : (c.forward n).tick = c.tick + n := by
  unfold Clocks.forward; split <;> rfl

/-- The clock moves on by `n` ticks. -/
theorem Keeps.forward {s0 s : State} (hk : Keeps s0 s) (n : Nat) : Keeps s0 { s with tm := s.tm.forward n } :=
  ⟨hk.pending, by rw [Clocks.forward_tick]; exact Nat.le_add_right_of_le hk.tick, hk.device, fun q => ⟨(hk.sound q).1, (hk.sound q).2, (hk.sound q).3, (hk.sound q).4⟩⟩

/-- No more increments are changed than ticks pass. -/
theorem Clocks.spent_le (c : Clocks) (n : Nat) : c.spent n ≤ n := by
  refine Nat.le_trans (Nat.min_le_right _ _) ?_
  have : Nat.min c.sinceCorrection 64 ≤ 64 := Nat.min_le_right _ _
  split <;> omega

/-- The free-running clock does not go back as the counter comes to a value. -/
theorem Clocks.countTo_tick (c : Clocks) (t : Nat) : c.tick ≤ (c.countTo t).tick := by
  have := c.spent_le (t - c.counter)
  unfold Clocks.countTo
  dsimp only
  split <;> omega

theorem State.advanceTo_keeps {s0 s : State} {t : Nat} (hk : Keeps s0 s) : Keeps s0 (s.advanceTo t) :=
  Keeps.ifs (fun _ => hk.forward _) fun _ => hk

theorem State.counterTo_keeps {s0 s : State} {t : Nat} (hk : Keeps s0 s) : Keeps s0 (s.counterTo t) :=
  Keeps.ifs (fun _ => ⟨hk.pending, hk.tick.trans (Clocks.countTo_tick _ _), hk.device,
    fun q => ⟨(hk.sound q).1, (hk.sound q).2, (hk.sound q).3, (hk.sound q).4⟩⟩) fun _ => hk

theorem State.modClock_keeps {s0 s : State} {f : Clocks → Clocks} (hk : Keeps s0 s) (hf : ∀ c, (f c).tick = c.tick) :
    Keeps s0 (s.modClock f) :=
  ⟨hk.pending, Nat.le_trans hk.tick (Nat.le_of_eq (hf s.tm).symm), hk.device, fun q => ⟨(hk.sound q).1, (hk.sound q).2, (hk.sound q).3, (hk.sound q).4⟩⟩

end Sys2Proof.Machine
end

