-- ==== Sys2Proof/Laws/KeepsQuery.lean ====
section
/-! SUPPORT. What the operations and meanings of Machine/Query.lean keep. -/

set_option Elab.async false
set_option linter.unusedTactic false
set_option linter.unreachableTactic false
set_option linter.unusedVariables false

namespace Sys2Proof.Machine

theorem State.nextDraw_keeps {s0 s : State} (hk : Keeps s0 s) : Keeps s0 (State.nextDraw s).2 := by
  unfold State.nextDraw
  with_reducible repeat' first
    | assumption | fail_if_no_progress refine Keeps.mk' ?_ rfl rfl rfl rfl rfl rfl

theorem State.setTile_keeps {s0 s : State} {x : Tile} (hk : Keeps s0 s) : Keeps s0 (State.setTile s x) := by
  unfold State.setTile
  with_reducible repeat' first
    | assumption | fail_if_no_progress refine Keeps.mk' ?_ rfl rfl rfl rfl rfl rfl

theorem State.modTile_keeps {s0 s : State} {t : TileId} {f : Tile → Tile} (hk : Keeps s0 s) : Keeps s0 (State.modTile s t f) := by
  unfold State.modTile
  with_reducible repeat' first
    | assumption | apply State.setTile_keeps

theorem State.setRegion_keeps {s0 s : State} {r : Region} (hk : Keeps s0 s) : Keeps s0 (State.setRegion s r) := by
  unfold State.setRegion
  with_reducible repeat' first
    | assumption | fail_if_no_progress refine Keeps.mk' ?_ rfl rfl rfl rfl rfl rfl

theorem State.modRegion_keeps {s0 s : State} {die : Nat} {unit : Nat} {f : Region → Region} (hk : Keeps s0 s) : Keeps s0
    (State.modRegion s die unit f) := by
  unfold State.modRegion
  with_reducible repeat' first
    | assumption | apply State.setRegion_keeps

theorem State.setDir_keeps {s0 s : State} {a : ArrId} {d : DirEntry} (hk : Keeps s0 s) : Keeps s0 (State.setDir s a d) := by
  unfold State.setDir
  with_reducible repeat' first
    | assumption | fail_if_no_progress refine Keeps.mk' ?_ rfl rfl rfl rfl rfl rfl

theorem State.modDir_keeps {s0 s : State} {a : ArrId} {f : DirEntry → DirEntry} (hk : Keeps s0 s) : Keeps s0 (State.modDir s a f) := by
  unfold State.modDir
  with_reducible repeat' first
    | assumption | apply State.setDir_keeps

theorem State.setDrift_keeps {s0 s : State} {a : ArrId} {d : Drift} (hk : Keeps s0 s) : Keeps s0 (State.setDrift s a d) := by
  unfold State.setDrift
  with_reducible repeat' first
    | assumption | fail_if_no_progress refine Keeps.mk' ?_ rfl rfl rfl rfl rfl rfl

theorem State.setFranking_keeps {s0 s : State} {a : ArrId} {f : Franking} (hk : Keeps s0 s) : Keeps s0 (State.setFranking s a f) := by
  unfold State.setFranking
  with_reducible repeat' first
    | assumption | fail_if_no_progress refine Keeps.mk' ?_ rfl rfl rfl rfl rfl rfl

theorem State.modFranking_keeps {s0 s : State} {a : ArrId} {f : Franking → Franking} (hk : Keeps s0 s) : Keeps s0
    (State.modFranking s a f) := by
  unfold State.modFranking
  with_reducible repeat' first
    | assumption | apply State.setFranking_keeps

theorem State.setSlot_keeps {s0 s : State} {x : Slot} (hk : Keeps s0 s) : Keeps s0 (State.setSlot s x) := by
  unfold State.setSlot
  with_reducible repeat' first
    | assumption | fail_if_no_progress refine Keeps.mk' ?_ rfl rfl rfl rfl rfl rfl

theorem State.modSlot_keeps {s0 s : State} {n : Nat} {f : Slot → Slot} (hk : Keeps s0 s) : Keeps s0 (State.modSlot s n f) := by
  unfold State.modSlot
  with_reducible repeat' first
    | assumption | apply Keeps.cond | fail_if_no_progress refine Keeps.mk' ?_ rfl rfl rfl rfl rfl rfl

theorem State.setContext_keeps {s0 s : State} {x : Context} (hk : Keeps s0 s) : Keeps s0 (State.setContext s x) := by
  unfold State.setContext
  with_reducible repeat' first
    | assumption | fail_if_no_progress refine Keeps.mk' ?_ rfl rfl rfl rfl rfl rfl

theorem State.setQueue_keeps {s0 s : State} {x : Queue} (hk : Keeps s0 s) : Keeps s0 (State.setQueue s x) := by
  unfold State.setQueue
  with_reducible repeat' first
    | assumption | fail_if_no_progress refine Keeps.mk' ?_ rfl rfl rfl rfl rfl rfl

theorem State.modQueue_keeps {s0 s : State} {n : Nat} {f : Queue → Queue} (hk : Keeps s0 s) : Keeps s0 (State.modQueue s n f) := by
  unfold State.modQueue
  with_reducible repeat' first
    | assumption | apply Keeps.cond | fail_if_no_progress refine Keeps.mk' ?_ rfl rfl rfl rfl rfl rfl

theorem State.modStep_keeps {s0 s : State} {tag : Nat} {f : OpenStep → OpenStep} (hk : Keeps s0 s) : Keeps s0 (State.modStep s tag
    f) := by
  unfold State.modStep
  with_reducible repeat' first
    | assumption | apply Keeps.cond | fail_if_no_progress refine Keeps.mk' ?_ rfl rfl rfl rfl rfl rfl

theorem State.modPort_keeps {s0 s : State} {k : Nat} {f : CourierPort → CourierPort} (hk : Keeps s0 s) : Keeps s0 (State.modPort s
    k f) := by
  unfold State.modPort
  with_reducible repeat' first
    | assumption | fail_if_no_progress refine Keeps.mk' ?_ rfl rfl rfl rfl rfl rfl

theorem State.modDsp_keeps {s0 s : State} {p : Nat} {f : DspPort → DspPort} (hk : Keeps s0 s) : Keeps s0 (State.modDsp s p f) := by
  unfold State.modDsp
  with_reducible repeat' first
    | assumption | fail_if_no_progress refine Keeps.mk' ?_ rfl rfl rfl rfl rfl rfl

end Sys2Proof.Machine
end

