-- ==== Sys2Proof/Laws/KeepsRegs.lean ====
section
/-! SUPPORT. What the operations and meanings of Machine/Regs.lean keep. -/

set_option Elab.async false
set_option linter.unusedTactic false
set_option linter.unreachableTactic false
set_option linter.unusedVariables false

namespace Sys2Proof.Machine

theorem State.store_keeps {s0 s : State} {a : Nat} {v : Nat} (hk : Keeps s0 s) : Keeps s0 (State.store s a v) := by
  unfold State.store
  with_reducible repeat' first
    | assumption | fail_if_no_progress refine Keeps.mk' ?_ rfl rfl rfl rfl rfl rfl

end Sys2Proof.Machine
end

