-- ==== Sys2Proof/Laws/KeepsOps.lean ====
section
/-! SUPPORT. What the operations and meanings of Machine/Ops.lean keep. -/

set_option Elab.async false
set_option linter.unusedTactic false
set_option linter.unreachableTactic false
set_option linter.unusedVariables false

namespace Sys2Proof.Machine

theorem State.writeMem_keeps {s0 s : State} {a : Nat} {b : Bytes} (hk : Keeps s0 s) : Keeps s0 (s.writeMem a b) :=
  ⟨hk.pending, hk.tick, hk.device, fun q => ⟨memWrite_wf _ _ _ (hk.sound q).1, (hk.sound q).2, (hk.sound q).3, (hk.sound q).4⟩⟩

theorem nextSeq_number (n : Nat) (h : recordNumber n) : recordNumber (nextSeq n) := by
  unfold recordNumber nextSeq at *
  split <;> omega

/-- A record more: the buffer stays within 32 records and the next number is a record number (13 R444). -/
theorem State.raise_keeps {s0 s : State} {code source : Nat} {detail : List Nat} (hk : Keeps s0 s) :
    Keeps s0 (s.raise code source detail) := by
  refine ⟨hk.pending, hk.tick, hk.device, fun q => ?_⟩
  obtain ⟨a, b, c, d⟩ := hk.sound q
  refine ⟨a, ?_, nextSeq_number _ c, d⟩
  show ((if 32 ≤ s.ev.held.length then s.ev.held.drop 1 else s.ev.held) ++ [_]).length ≤ 32
  split <;> simp <;> omega

theorem State.sendFrame_keeps {s0 s : State} {f : TxFrame} (hk : Keeps s0 s) : Keeps s0 (State.sendFrame s f) := by
  unfold State.sendFrame
  with_reducible repeat' first
    | assumption | apply Keeps.cond | split | (dsimp only; split) | fail_if_no_progress refine Keeps.mk' ?_ rfl rfl rfl rfl rfl rfl

theorem State.respondWith_keeps {s0 s : State} {h : FrameHdr} {chan : Nat} {status : Nat} {tail : Bytes} (hk : Keeps s0 s) : Keeps
    s0 (State.respondWith s h chan status tail) := by
  unfold State.respondWith
  with_reducible repeat' first
    | assumption | apply State.sendFrame_keeps

theorem State.respond_keeps {s0 s : State} {h : FrameHdr} {chan : Nat} {status : Nat} (hk : Keeps s0 s) : Keeps s0 (State.respond s
    h chan status) := by
  unfold State.respond
  with_reducible repeat' first
    | assumption | apply State.respondWith_keeps

theorem State.answerData_keeps {s0 s : State} {h : FrameHdr} {chan : Nat} {data : Bytes} (hk : Keeps s0 s) : Keeps s0
    (State.answerData s h chan data) := by
  unfold State.answerData
  with_reducible repeat' first
    | assumption | apply State.sendFrame_keeps

theorem State.toEventRing_keeps {s0 s : State} {e : Async} (hk : Keeps s0 s) : Keeps s0 (s.toEventRing e) := by
  unfold State.toEventRing
  split
  · exact hk
  · rename_i a _
    exact Keeps.mk' (State.writeMem_keeps (a := a + 64 * (s.ev.ringTail % 1024)) (b := e.bytes) hk) rfl rfl rfl rfl rfl rfl

theorem State.writeAsync_keeps {s0 s : State} {e : Async} (hk : Keeps s0 s) : Keeps s0 (s.writeAsync e) := by
  refine Keeps.ifs (fun _ => ?_) fun _ => State.toEventRing_keeps hk
  refine Keeps.mk' hk rfl rfl ?_ ?_ rfl rfl <;> (unfold Events.toWindow; split <;> rfl)

theorem State.sendEvent_keeps {s0 s : State} {e : Async} (hk : Keeps s0 s) : Keeps s0 (State.sendEvent s e) := by
  unfold State.sendEvent
  with_reducible repeat' first
    | assumption | apply State.sendFrame_keeps | split

theorem State.deliverAsync_keeps {s0 s : State} {e : Async} (hk : Keeps s0 s) : Keeps s0 (State.deliverAsync s e) := by
  unfold State.deliverAsync
  with_reducible repeat' first
    | assumption | apply State.writeAsync_keeps | apply State.sendEvent_keeps | apply Keeps.cond

theorem State.async_keeps {s0 s : State} {code : Nat} {detail : Bytes} (hk : Keeps s0 s) : Keeps s0 (State.async s code detail) := by
  unfold State.async
  with_reducible repeat' first
    | assumption | apply State.deliverAsync_keeps | apply Keeps.cond | fail_if_no_progress refine Keeps.mk' ?_ rfl rfl rfl rfl rfl rfl

theorem State.sendCourier_keeps {s0 s : State} {c : CourierTx} (hk : Keeps s0 s) : Keeps s0 (State.sendCourier s c) := by
  unfold State.sendCourier
  with_reducible repeat' first
    | assumption | apply Keeps.cond | split | (dsimp only; split) | fail_if_no_progress refine Keeps.mk' ?_ rfl rfl rfl rfl rfl rfl

theorem State.countDrop_keeps {s0 s : State} {f : Regs → Regs} (hk : Keeps s0 s) (hf : (f s.rg).retained = s.rg.retained) :
    Keeps s0 (s.countDrop f) :=
  Keeps.mk' hk rfl rfl rfl rfl hf rfl

theorem State.sendRouted_keeps {s0 s : State} {h : CourierHdr} {payload : Bytes} (hk : Keeps s0 s) :
    Keeps s0 (s.sendRouted h payload) := by
  unfold State.sendRouted
  split
  · exact State.sendCourier_keeps (Keeps.ifs (fun _ => Keeps.mk' hk rfl rfl rfl rfl rfl rfl) fun _ => hk)
  · exact State.countDrop_keeps hk rfl

theorem State.originate_keeps {s0 s : State} {type : Nat} {dest : Nat} {job : Nat} {payload : Bytes} (hk : Keeps s0 s) : Keeps s0
    (State.originate s type dest job payload) := by
  unfold State.originate
  with_reducible repeat' first
    | assumption | apply State.sendRouted_keeps

theorem State.reportAbort_keeps {s0 s : State} {job : Nat} {reason : Nat} {module : Nat} (hk : Keeps s0 s) : Keeps s0 (State.reportAbort s
    job reason module) := by
  unfold State.reportAbort
  with_reducible repeat' first
    | assumption | apply State.async_keeps | apply Keeps.cond | split | (dsimp only; split)
    | fail_if_no_progress refine Keeps.mk' ?_ rfl rfl rfl rfl rfl rfl

theorem State.notifyJob_keeps {s0 s : State} {job : Nat} {kind : Nat} {reason : Nat} {module : Nat} (hk : Keeps s0 s) : Keeps s0
    (State.notifyJob s job kind reason module) := by
  unfold State.notifyJob
  with_reducible repeat' first
    | assumption | apply State.originate_keeps | apply Keeps.cond | refine Keeps.foldl ?_ fun _ _ _ => ?_ | split | (dsimp only; split)
    | fail_if_no_progress refine Keeps.mk' ?_ rfl rfl rfl rfl rfl rfl

end Sys2Proof.Machine
end

