-- ==== Sys2Proof/Laws/KeepsKv.lean ====
section
/-! SUPPORT. What the operations and meanings of Machine/Kv.lean keep. -/

set_option Elab.async false
set_option linter.unusedTactic false
set_option linter.unreachableTactic false
set_option linter.unusedVariables false

namespace Sys2Proof.Machine

theorem State.takeFrame_keeps {s0 s : State} {stack size : Nat} {o : FrameOwner} (hk : Keeps s0 s) {t : FrameId × State}
    (e : s.takeFrame stack size o = some t) : Keeps s0 t.2 := by
  unfold State.takeFrame at e
  dsimp only at e
  split at e
  · split at e
    · cases e; exact Keeps.mk' hk rfl rfl rfl rfl rfl rfl
    · cases e
  · split at e
    · cases e
    · split at e
      · cases e; exact Keeps.mk' hk rfl rfl rfl rfl rfl rfl
      · cases e

theorem State.newFrame_keeps {s0 s : State} {slot layer size : Nat} {o : FrameOwner} (hk : Keeps s0 s) {t : FrameId × State}
    (e : s.newFrame slot layer size o = some t) : Keeps s0 t.2 := by
  unfold State.newFrame at e
  split at e
  · exact State.takeFrame_keeps hk e
  · cases e

theorem State.freeFrame_keeps {s0 s : State} {id : FrameId} (hk : Keeps s0 s) : Keeps s0 (State.freeFrame s id) := by
  unfold State.freeFrame
  with_reducible repeat' first
    | assumption | fail_if_no_progress refine Keeps.mk' ?_ rfl rfl rfl rfl rfl rfl

theorem State.modFrame_keeps {s0 s : State} {id : FrameId} {g : Frame → Frame} (hk : Keeps s0 s) : Keeps s0 (State.modFrame s id g) := by
  unfold State.modFrame
  with_reducible repeat' first
    | assumption | apply Keeps.cond | fail_if_no_progress refine Keeps.mk' ?_ rfl rfl rfl rfl rfl rfl

theorem State.setPage_keeps {s0 s : State} {p : PageEntry} (hk : Keeps s0 s) : Keeps s0 (State.setPage s p) := by
  unfold State.setPage
  with_reducible repeat' first
    | assumption | fail_if_no_progress refine Keeps.mk' ?_ rfl rfl rfl rfl rfl rfl

theorem State.clearPages_keeps {s0 s : State} {f : PageEntry → Bool} (hk : Keeps s0 s) : Keeps s0 (State.clearPages s f) := by
  unfold State.clearPages
  with_reducible repeat' first
    | assumption | fail_if_no_progress refine Keeps.mk' ?_ rfl rfl rfl rfl rfl rfl

theorem State.freeFramesWhere_keeps {s0 s : State} {f : Frame → Bool} (hk : Keeps s0 s) : Keeps s0 (State.freeFramesWhere s f) := by
  unfold State.freeFramesWhere
  with_reducible repeat' first
    | assumption | apply State.clearPages_keeps | apply State.freeFrame_keeps | refine Keeps.foldl ?_ fun _ _ _ => ?_

theorem State.releaseReserved_keeps {s0 s : State} {tag : Nat} {slot : Nat} (hk : Keeps s0 s) : Keeps s0 (State.releaseReserved s
    tag slot) := by
  unfold State.releaseReserved
  with_reducible repeat' first
    | assumption | apply State.freeFramesWhere_keeps

theorem State.reservePages_keeps {s0 s : State} {tag slot : Nat} {ps : List PageNeed} (hk : Keeps s0 s) {t : State}
    (e : s.reservePages tag slot ps = some t) : Keeps s0 t := by
  induction ps generalizing s with
  | nil => cases e; exact hk
  | cons p ps ih =>
    obtain ⟨d, l, n, size, shape⟩ := p
    unfold State.reservePages at e
    split at e
    · exact ih hk e
    · split at e
      · rename_i id s1 hn
        exact ih (State.setPage_keeps (State.newFrame_keeps hk hn)) e
      · cases e

theorem State.putGroup_keeps {s0 s : State} {slot : Nat} {draft : Bool} {layer : Nat} {pos : Nat} {g : KvGroup} (hk : Keeps s0 s) :
    Keeps s0 (State.putGroup s slot draft layer pos g) := by
  unfold State.putGroup
  with_reducible repeat' first
    | assumption | apply State.modFrame_keeps | split

theorem State.modNode_keeps {s0 s : State} {i : Nat} {f : Node → Node} (hk : Keeps s0 s) : Keeps s0 (State.modNode s i f) := by
  unfold State.modNode
  with_reducible repeat' first
    | assumption | apply Keeps.cond | fail_if_no_progress refine Keeps.mk' ?_ rfl rfl rfl rfl rfl rfl

theorem State.countRef_keeps {s0 s : State} {i : Option Nat} {up : Bool} (hk : Keeps s0 s) : Keeps s0 (State.countRef s i up) := by
  unfold State.countRef
  with_reducible repeat' first
    | assumption | apply State.modNode_keeps | apply Keeps.cond | split | (dsimp only; split)
    | fail_if_no_progress refine Keeps.mk' ?_ rfl rfl rfl rfl rfl rfl

theorem State.evictNode_keeps {s0 s : State} {n : Node} (hk : Keeps s0 s) : Keeps s0 (State.evictNode s n) := by
  unfold State.evictNode
  with_reducible repeat' first
    | assumption | apply State.freeFrame_keeps | apply State.countRef_keeps | apply Keeps.cond | refine Keeps.foldl ?_ fun _ _ _ => ?_
    | split | (dsimp only; split) | fail_if_no_progress refine Keeps.mk' ?_ rfl rfl rfl rfl rfl rfl

theorem State.releaseTrees_keeps {s0 s : State} {f : Nat} (hk : Keeps s0 s) : Keeps s0 (State.releaseTrees f s) := by
  induction f generalizing s with
  | zero => exact hk
  | succ f ih =>
    unfold State.releaseTrees
    split
    · exact ih (State.evictNode_keeps hk)
    · exact hk

theorem State.refNode_keeps {s0 s : State} {i : Option Nat} {up : Bool} (hk : Keeps s0 s) : Keeps s0 (State.refNode s i up) := by
  unfold State.refNode
  with_reducible repeat' first
    | assumption | apply State.countRef_keeps | apply State.releaseTrees_keeps | apply Keeps.cond | split | (dsimp only; split)
    | fail_if_no_progress refine Keeps.mk' ?_ rfl rfl rfl rfl rfl rfl

theorem State.retireTrees_keeps {s0 s : State} {model : Nat} (hk : Keeps s0 s) : Keeps s0 (State.retireTrees s model) := by
  unfold State.retireTrees
  with_reducible repeat' first
    | assumption | apply Keeps.cond | split | (dsimp only; split) | fail_if_no_progress refine Keeps.mk' ?_ rfl rfl rfl rfl rfl rfl

theorem State.dropRef_keeps {s0 s : State} {slot : Nat} (hk : Keeps s0 s) : Keeps s0 (State.dropRef s slot) := by
  unfold State.dropRef
  with_reducible repeat' first
    | assumption | apply State.modSlot_keeps | apply State.refNode_keeps | split

theorem State.nodePlace_keeps {s0 s : State} (hk : Keeps s0 s) {t : State} (e : s.nodePlace = some t) : Keeps s0 t := by
  unfold State.nodePlace at e
  split at e
  · cases e; exact hk
  · split at e
    · cases e; exact State.evictNode_keeps hk
    · cases e

theorem State.addNode_keeps {s0 s : State} {slot : Nat} {b : Nat} {n : Node} (hk : Keeps s0 s) : Keeps s0 (State.addNode s slot b n) := by
  unfold State.addNode
  with_reducible repeat' first
    | assumption | apply State.modSlot_keeps | apply Keeps.cond | fail_if_no_progress refine Keeps.mk' ?_ rfl rfl rfl rfl rfl rfl

theorem State.insertBlock_keeps {s0 s : State} {tenant b hash : Nat} {m : Model} {x : Slot} {parent : Option Nat} (hk : Keeps s0 s)
    {t : Nat × Nat × State} (e : s.insertBlock tenant m x b hash parent = some t) : Keeps s0 t.2.2 := by
  unfold State.insertBlock at e
  dsimp only at e
  split at e
  · cases e
  · split at e
    · obtain ⟨n, -, rfl⟩ := Option.map_eq_some_iff.1 e; exact hk
    · split at e
      · cases e
      · obtain ⟨s1, h1, h2⟩ := Option.bind_eq_some_iff.1 e
        obtain ⟨i, -, rfl⟩ := Option.map_eq_some_iff.1 h2
        exact State.addNode_keeps (State.nodePlace_keeps hk h1)

theorem State.insertBlocks_keeps {s0 s : State} {tenant slot f b hash : Nat} {m : Model} {parent : Option Nat} (hk : Keeps s0 s) :
    Keeps s0 (State.insertBlocks tenant m slot f b hash parent s) := by
  induction f generalizing s b hash parent with
  | zero => exact hk
  | succ f ih =>
    unfold State.insertBlocks
    split
    · rename_i r hr
      obtain ⟨x, -, h⟩ := Option.bind_eq_some_iff.1 hr
      exact ih (State.insertBlock_keeps hk h)
    · exact hk

theorem State.insertPrefix_keeps {s0 s : State} {tenant : Nat} {slot : Nat} {m : Model} (hk : Keeps s0 s) : Keeps s0
    (State.insertPrefix s tenant slot m) := by
  unfold State.insertPrefix
  with_reducible repeat' first
    | assumption | apply State.insertBlocks_keeps | split

theorem State.releaseSlotPages_keeps {s0 s : State} {slot : Nat} (hk : Keeps s0 s) : Keeps s0 (State.releaseSlotPages s slot) := by
  unfold State.releaseSlotPages
  with_reducible repeat' first
    | assumption | apply State.dropRef_keeps | apply State.clearPages_keeps | apply State.freeFramesWhere_keeps

theorem State.dropHeld_keeps {s0 s : State} {slot : Nat} (hk : Keeps s0 s) : Keeps s0 (State.dropHeld s slot) := by
  unfold State.dropHeld
  with_reducible repeat' first
    | assumption | fail_if_no_progress refine Keeps.mk' ?_ rfl rfl rfl rfl rfl rfl

theorem State.slotFree_keeps {s0 s : State} {slot : Nat} (hk : Keeps s0 s) : Keeps s0 (State.slotFree s slot) := by
  unfold State.slotFree
  with_reducible repeat' first
    | assumption | apply State.dropHeld_keeps | apply State.releaseSlotPages_keeps
    | fail_if_no_progress refine Keeps.mk' ?_ rfl rfl rfl rfl rfl rfl

theorem State.slotExpire_keeps {s0 s : State} {slot : Nat} (hk : Keeps s0 s) : Keeps s0 (State.slotExpire s slot) := by
  unfold State.slotExpire
  with_reducible repeat' first
    | assumption | apply State.modSlot_keeps | apply State.dropHeld_keeps | apply State.releaseSlotPages_keeps

theorem State.modHeld_keeps {s0 s : State} {slot : Nat} {f : Held → Held} (hk : Keeps s0 s) : Keeps s0 (State.modHeld s slot f) := by
  unfold State.modHeld
  with_reducible repeat' first
    | assumption | apply Keeps.cond | fail_if_no_progress refine Keeps.mk' ?_ rfl rfl rfl rfl rfl rfl

theorem State.releaseEarly_keeps {s0 s : State} {slot : Nat} (hk : Keeps s0 s) : Keeps s0 (State.releaseEarly s slot) := by
  unfold State.releaseEarly
  with_reducible repeat' first
    | assumption | apply State.async_keeps | apply State.slotExpire_keeps

theorem State.l2put_keeps {s0 s : State} {off : Nat} {data : Bytes} (hk : Keeps s0 s) : Keeps s0 (State.l2put s off data) := by
  unfold State.l2put
  with_reducible repeat' first
    | assumption | apply State.sendFrame_keeps | split

theorem State.putPage_keeps {s0 s : State} {off : Nat} {p : HeldPage} (hk : Keeps s0 s) : Keeps s0 (State.putPage s off p).1 := by
  unfold State.putPage
  with_reducible repeat' first
    | assumption | apply State.l2put_keeps | apply Keeps.cond | refine Keeps.foldl ?_ fun _ _ _ => ?_ | split | (dsimp only; split)
    | fail_if_no_progress refine Keeps.mk' ?_ rfl rfl rfl rfl rfl rfl

theorem State.toLevel2_keeps {s0 s : State} {slot : Nat} {offs : List Nat} (hk : Keeps s0 s) : Keeps s0 (s.toLevel2 slot offs) := by
  unfold State.toLevel2
  split
  · exact hk
  · exact State.modHeld_keeps (foldl_fst_keeps hk fun _ _ ha => State.putPage_keeps ha)

theorem State.level1Room_keeps {s0 s : State} {f but need : Nat} (hk : Keeps s0 s) : Keeps s0 (State.level1Room f but need s) := by
  induction f generalizing s with
  | zero => exact hk
  | succ f ih =>
    unfold State.level1Room
    refine Keeps.ifs (fun _ => hk) fun _ => ?_
    split
    · exact hk
    · refine ih ?_
      split
      · exact State.toLevel2_keeps hk
      · exact State.releaseEarly_keeps hk

theorem State.enterTier_keeps {s0 s : State} {slot : Nat} {ttl : Nat} (hk : Keeps s0 s) : Keeps s0 (State.enterTier s slot ttl) := by
  unfold State.enterTier
  with_reducible repeat' first
    | assumption | apply State.modSlot_keeps | apply State.level1Room_keeps | apply State.releaseEarly_keeps | apply State.dropHeld_keeps
    | apply State.toLevel2_keeps | apply Keeps.cond | split | (dsimp only; split)
    | fail_if_no_progress refine Keeps.mk' ?_ rfl rfl rfl rfl rfl rfl

theorem State.writePage_keeps {s0 s : State} {h : Held} {p : PageEntry} {last : Bool} (hk : Keeps s0 s) : Keeps s0 (State.writePage s h p
    last) := by
  unfold State.writePage
  with_reducible repeat' first
    | assumption | apply State.clearPages_keeps | apply State.freeFrame_keeps | apply State.modHeld_keeps | apply State.putPage_keeps
    | apply Keeps.cond | split | (dsimp only; split) | fail_if_no_progress refine Keeps.mk' ?_ rfl rfl rfl rfl rfl rfl

theorem State.moveOnePage_keeps {s0 s : State} {slot : Nat} (hk : Keeps s0 s) : Keeps s0 (State.moveOnePage s slot) := by
  unfold State.moveOnePage
  with_reducible repeat' first
    | assumption | apply State.clearPages_keeps | apply State.freeFrame_keeps | apply State.modHeld_keeps | apply State.putPage_keeps
    | apply State.releaseEarly_keeps | apply State.writePage_keeps | apply Keeps.cond | split | (dsimp only; split)
    | fail_if_no_progress refine Keeps.mk' ?_ rfl rfl rfl rfl rfl rfl

theorem State.finishMove_keeps {s0 s : State} {slot : Nat} (hk : Keeps s0 s) : Keeps s0 (State.finishMove s slot) := by
  unfold State.finishMove
  with_reducible repeat' first
    | assumption | apply State.moveOnePage_keeps | apply Keeps.cond | refine Keeps.foldl ?_ fun _ _ _ => ?_ | split | (dsimp only; split)
    | fail_if_no_progress refine Keeps.mk' ?_ rfl rfl rfl rfl rfl rfl

theorem State.l2fetch_keeps {s0 s : State} {slot : Nat} (hk : Keeps s0 s) : Keeps s0 (State.l2fetch s slot) := by
  unfold State.l2fetch
  with_reducible repeat' first
    | assumption | apply State.sendFrame_keeps | apply State.modHeld_keeps | apply Keeps.cond | refine Keeps.foldl ?_ fun _ _ _ => ?_
    | split | (dsimp only; split) | fail_if_no_progress refine Keeps.mk' ?_ rfl rfl rfl rfl rfl rfl

theorem State.restoreFrame_keeps {s0 s : State} {slot : Nat} {p : HeldPage} (hk : Keeps s0 s) {id : FrameId} {t : State}
    (e : s.restoreFrame slot p = some (id, t)) : Keeps s0 t := by
  unfold State.restoreFrame at e
  split at e
  · cases e; exact hk
  · obtain ⟨r, hr, h⟩ := Option.map_eq_some_iff.1 e
    cases h
    exact State.setPage_keeps (State.newFrame_keeps hk hr)

theorem State.restoreOnePage_keeps {s0 s : State} {slot : Nat} (hk : Keeps s0 s) : Keeps s0 (State.restoreOnePage s slot) := by
  unfold State.restoreOnePage
  with_reducible repeat' first
    | assumption | refine State.restoreFrame_keeps ?_ (by assumption) | apply State.modFrame_keeps | apply State.dropHeld_keeps
    | apply State.modHeld_keeps | apply Keeps.cond | split | (dsimp only; split)
    | fail_if_no_progress refine Keeps.mk' ?_ rfl rfl rfl rfl rfl rfl

theorem State.expireHeld_keeps {s0 s : State} {slot : Nat} (hk : Keeps s0 s) : Keeps s0 (State.expireHeld s slot) := by
  unfold State.expireHeld
  with_reducible repeat' first
    | assumption | apply State.slotExpire_keeps | apply State.finishMove_keeps | split

theorem State.expireAllHeld_keeps {s0 s : State} (hk : Keeps s0 s) : Keeps s0 (State.expireAllHeld s) := by
  unfold State.expireAllHeld
  with_reducible repeat' first
    | assumption | apply State.expireHeld_keeps | refine Keeps.foldl ?_ fun _ _ _ => ?_

theorem State.tierIdle_keeps {s0 s : State} {x : Slot} {ttl : Nat} (hk : Keeps s0 s) : Keeps s0 (State.tierIdle s x ttl) := by
  unfold State.tierIdle
  with_reducible repeat' first
    | assumption | apply State.async_keeps | apply State.enterTier_keeps

theorem State.evictWhile_keeps {s0 s : State} {ok : State → Bool} {f : Nat} (hk : Keeps s0 s) :
    Keeps s0 (State.evictWhile ok f s) := by
  induction f generalizing s with
  | zero => exact hk
  | succ f ih =>
    unfold State.evictWhile
    refine Keeps.ifs (fun _ => hk) fun _ => ?_
    split
    · exact ih (State.evictNode_keeps hk)
    · exact hk

theorem State.moveIdle_keeps {s0 s : State} {ok : State → Bool} {f : Nat} (hk : Keeps s0 s) :
    Keeps s0 (State.moveIdle ok f s).1 := by
  induction f generalizing s with
  | zero => exact hk
  | succ f ih =>
    unfold State.moveIdle
    split
    · exact hk
    · split
      · exact hk
      · split
        · exact ih (State.tierIdle_keeps hk)
        · exact hk

theorem State.makeRoom_keeps {s0 s : State} {ok : State → Bool} (hk : Keeps s0 s) : Keeps s0 (State.makeRoom s ok).1 := by
  unfold State.makeRoom
  with_reducible repeat' first
    | assumption | apply State.evictWhile_keeps | apply State.expireAllHeld_keeps | apply State.moveIdle_keeps | apply Keeps.cond | split

end Sys2Proof.Machine
end

