-- ==== Sys2Proof/Laws/KeepsClaims.lean ====
section
/-! SUPPORT. What the operations and meanings of Machine/Claims.lean keep. -/

set_option Elab.async false
set_option linter.unusedTactic false
set_option linter.unreachableTactic false
set_option linter.unusedVariables false

namespace Sys2Proof.Machine

theorem State.requestCal_keeps {s0 s : State} {a : ArrId} {cls : Nat} (hk : Keeps s0 s) : Keeps s0 (State.requestCal s a cls) := by
  unfold State.requestCal
  with_reducible repeat' first
    | assumption | apply State.modTile_keeps | apply Keeps.cond | split | (dsimp only; split)
    | fail_if_no_progress refine Keeps.mk' ?_ rfl rfl rfl rfl rfl rfl

theorem State.dropRun_keeps {s0 s : State} {tid : TileId} {requeue : Bool} {first : Bool} (hk : Keeps s0 s) : Keeps s0 (State.dropRun s
    tid requeue first) := by
  unfold State.dropRun
  with_reducible repeat' first
    | assumption | apply State.modFranking_keeps | apply State.modTile_keeps | apply Keeps.cond | split | (dsimp only; split)
    | fail_if_no_progress refine Keeps.mk' ?_ rfl rfl rfl rfl rfl rfl

theorem State.discardRun_keeps {s0 s : State} {tid : TileId} {requeue : Bool} (hk : Keeps s0 s) : Keeps s0 (State.discardRun s tid
    requeue) := by
  unfold State.discardRun
  with_reducible repeat' first
    | assumption | apply State.modTile_keeps | apply State.dropRun_keeps | apply Keeps.cond | split | (dsimp only; split)
    | fail_if_no_progress refine Keeps.mk' ?_ rfl rfl rfl rfl rfl rfl

theorem State.idleSpare_keeps {s0 s : State} {tid : TileId} (hk : Keeps s0 s) : Keeps s0 (State.idleSpare s tid) := by
  unfold State.idleSpare
  with_reducible repeat' first
    | assumption | apply State.modDir_keeps | apply State.modTile_keeps | apply Keeps.cond | split | (dsimp only; split)
    | fail_if_no_progress refine Keeps.mk' ?_ rfl rfl rfl rfl rfl rfl

theorem State.endClaim_keeps {s0 s : State} {tid : TileId} (hk : Keeps s0 s) : Keeps s0 (State.endClaim s tid) := by
  unfold State.endClaim
  with_reducible repeat' first
    | assumption | apply State.modTile_keeps | apply Keeps.cond | split | (dsimp only; split)
    | fail_if_no_progress refine Keeps.mk' ?_ rfl rfl rfl rfl rfl rfl

theorem State.releaseSpare_keeps {s0 s : State} {tid : TileId} {gone : Nat → Bool} (hk : Keeps s0 s) : Keeps s0 (State.releaseSpare s tid
    gone) := by
  unfold State.releaseSpare
  with_reducible repeat' first
    | assumption | apply State.endClaim_keeps | apply State.idleSpare_keeps | apply Keeps.cond | split | (dsimp only; split)
    | fail_if_no_progress refine Keeps.mk' ?_ rfl rfl rfl rfl rfl rfl

theorem State.releaseTile_keeps {s0 s : State} {tid : TileId} {gone : Nat → Bool} (hk : Keeps s0 s) : Keeps s0 (State.releaseTile s tid
    gone) := by
  unfold State.releaseTile
  with_reducible repeat' first
    | assumption | apply State.dropRun_keeps | apply State.modTile_keeps | apply State.releaseSpare_keeps | apply Keeps.cond | split
    | (dsimp only; split) | fail_if_no_progress refine Keeps.mk' ?_ rfl rfl rfl rfl rfl rfl

end Sys2Proof.Machine
end

