-- ==== Sys2Proof/Laws/KeepsSteps.lean ====
section
/-! SUPPORT. What the operations and meanings of Machine/Steps.lean keep. -/

set_option Elab.async false
set_option linter.unusedTactic false
set_option linter.unreachableTactic false
set_option linter.unusedVariables false

namespace Sys2Proof.Machine

theorem State.writeCompletion_keeps {s0 s : State} {qn : Nat} {c : Completion} (hk : Keeps s0 s) : Keeps s0 (State.writeCompletion
    s qn c).1 := by
  unfold State.writeCompletion
  with_reducible repeat' first
    | assumption | apply State.writeMem_keeps | apply State.modQueue_keeps | apply Keeps.cond | split

theorem State.closeStep_keeps {s0 s : State} {qn : Nat} {seq : Nat} (hk : Keeps s0 s) : Keeps s0 (State.closeStep s qn seq) := by
  unfold State.closeStep
  with_reducible repeat' first
    | assumption | fail_if_no_progress refine Keeps.mk' ?_ rfl rfl rfl rfl rfl rfl

theorem State.takeEnded_keeps {s0 s : State} {qn : Nat} {c : Completion} (hk : Keeps s0 s) : Keeps s0 (State.takeEnded s qn c) := by
  unfold State.takeEnded
  with_reducible repeat' first
    | assumption | apply State.modQueue_keeps | apply Keeps.cond | split | (dsimp only; split)
    | fail_if_no_progress refine Keeps.mk' ?_ rfl rfl rfl rfl rfl rfl

theorem State.retain_keeps {s0 s : State} {q : Queue} {c : Completion} (hk : Keeps s0 s) : Keeps s0 (State.retain s q c) := by
  unfold State.retain
  refine Keeps.ifs (fun _ => Keeps.mk' ?_ rfl rfl rfl rfl rfl rfl) fun _ => State.modQueue_keeps ?_
  all_goals
    split
    · exact State.writeCompletion_keeps hk
    · exact State.takeEnded_keeps hk

theorem State.flushQueue_keeps {s0 s : State} {f qn : Nat} (hk : Keeps s0 s) : Keeps s0 (State.flushQueue f qn s).1 := by
  induction f generalizing s with
  | zero => exact hk
  | succ f ih =>
    unfold State.flushQueue
    split
    · exact hk
    · split
      · exact hk
      · split
        · exact ih (State.closeStep_keeps (State.takeEnded_keeps hk))
        · split
          · exact ih (State.closeStep_keeps (State.retain_keeps hk))
          · split
            · exact ih (State.closeStep_keeps (State.writeCompletion_keeps hk))
            · exact hk

theorem State.sendCompletions_keeps {s0 s : State} {qn : Nat} {items : List Bytes} (hk : Keeps s0 s) : Keeps s0 (State.sendCompletions s
    qn items) := by
  unfold State.sendCompletions
  with_reducible repeat' first
    | assumption | apply State.sendFrame_keeps | apply Keeps.cond | refine Keeps.foldl ?_ fun _ _ _ => ?_ | split | (dsimp only; split)
    | fail_if_no_progress refine Keeps.mk' ?_ rfl rfl rfl rfl rfl rfl

theorem State.deliver_keeps {s0 s : State} {qn : Nat} (hk : Keeps s0 s) : Keeps s0 (State.deliver s qn) := by
  unfold State.deliver
  with_reducible repeat' first
    | assumption | apply State.flushQueue_keeps | apply State.sendCompletions_keeps | apply Keeps.cond | split | (dsimp only; split)
    | fail_if_no_progress refine Keeps.mk' ?_ rfl rfl rfl rfl rfl rfl | refine Keeps.foldl ?_ fun _ _ _ => ?_

theorem State.releaseModel_keeps {s0 s : State} {n : Nat} (hk : Keeps s0 s) : Keeps s0 (State.releaseModel s n) := by
  unfold State.releaseModel
  with_reducible repeat' first
    | assumption | apply State.releaseTrees_keeps | apply State.releaseTile_keeps | apply State.retireTrees_keeps | apply Keeps.cond
    | refine Keeps.foldl ?_ fun _ _ _ => ?_ | split | (dsimp only; split) | fail_if_no_progress refine Keeps.mk' ?_ rfl rfl rfl rfl rfl rfl

theorem State.dropContext_keeps {s0 s : State} {n : Nat} (hk : Keeps s0 s) : Keeps s0 (State.dropContext s n) := by
  unfold State.dropContext
  with_reducible repeat' first
    | assumption | apply State.slotFree_keeps | refine Keeps.foldl ?_ fun _ _ _ => ?_
    | fail_if_no_progress refine Keeps.mk' ?_ rfl rfl rfl rfl rfl rfl

theorem State.sweepQueues_keeps {s0 s : State} (hk : Keeps s0 s) : Keeps s0 (State.sweepQueues s) := by
  unfold State.sweepQueues
  with_reducible repeat' first
    | assumption | fail_if_no_progress refine Keeps.mk' ?_ rfl rfl rfl rfl rfl rfl

theorem State.sweepQueue_keeps {s0 s : State} {n : Nat} (hk : Keeps s0 s) : Keeps s0 (State.sweepQueue s n) := by
  unfold State.sweepQueue
  with_reducible repeat' first
    | assumption | apply Keeps.cond | split | fail_if_no_progress refine Keeps.mk' ?_ rfl rfl rfl rfl rfl rfl

theorem State.sweep_keeps {s0 s : State} (hk : Keeps s0 s) : Keeps s0 (State.sweep s) := by
  unfold State.sweep
  with_reducible repeat' first
    | assumption | apply State.sweepQueues_keeps | apply State.dropContext_keeps | apply State.releaseModel_keeps | apply Keeps.cond
    | refine Keeps.foldl ?_ fun _ _ _ => ?_ | split | (dsimp only; split) | fail_if_no_progress refine Keeps.mk' ?_ rfl rfl rfl rfl rfl rfl

theorem State.dropWork_keeps {s0 s : State} {tag : Nat} (hk : Keeps s0 s) : Keeps s0 (State.dropWork s tag) := by
  unfold State.dropWork
  with_reducible repeat' first
    | assumption | apply Keeps.cond | split | (dsimp only; split) | fail_if_no_progress refine Keeps.mk' ?_ rfl rfl rfl rfl rfl rfl

theorem State.dropTokens_keeps {s0 s : State} {o : OpenStep} {gone : Nat → Bool} (hk : Keeps s0 s) : Keeps s0 (State.dropTokens s o gone)
    := by
  unfold State.dropTokens
  with_reducible repeat' first
    | assumption | apply Keeps.cond | split | (dsimp only; split) | fail_if_no_progress refine Keeps.mk' ?_ rfl rfl rfl rfl rfl rfl

theorem State.dropLedger_keeps {s0 s : State} {o : OpenStep} (hk : Keeps s0 s) : Keeps s0 (State.dropLedger s o) := by
  unfold State.dropLedger
  with_reducible repeat' first
    | assumption | apply Keeps.cond | fail_if_no_progress refine Keeps.mk' ?_ rfl rfl rfl rfl rfl rfl

theorem State.undoMatch_keeps {s0 s : State} {o : OpenStep} {i : Nat} {slot : Nat} (hk : Keeps s0 s) : Keeps s0 (State.undoMatch s
    o i slot) := by
  unfold State.undoMatch
  with_reducible repeat' first
    | assumption | apply State.clearPages_keeps | apply State.modSlot_keeps | apply State.refNode_keeps | apply Keeps.cond | split
    | (dsimp only; split)

theorem State.putEnded_keeps {s0 s : State} {qn : Nat} {c : Completion} (hk : Keeps s0 s) : Keeps s0 (State.putEnded s qn c) := by
  unfold State.putEnded
  with_reducible repeat' first
    | assumption | apply State.modQueue_keeps

theorem State.undoStep_keeps {s0 s : State} {o : OpenStep} (hk : Keeps s0 s) : Keeps s0 (State.undoStep s o) := by
  unfold State.undoStep
  with_reducible repeat' first
    | assumption | apply State.dropLedger_keeps | apply State.dropWork_keeps | apply State.releaseReserved_keeps
    | apply State.undoMatch_keeps | apply State.modSlot_keeps | refine Keeps.foldl ?_ fun _ _ _ => ?_ | apply Keeps.cond | split

theorem State.failStep_keeps {s0 s : State} {tag : Nat} {status : Nat} (hk : Keeps s0 s) : Keeps s0 (State.failStep s tag status) := by
  unfold State.failStep
  with_reducible repeat' first
    | assumption | apply State.undoStep_keeps | apply State.sweep_keeps | apply State.deliver_keeps | apply State.putEnded_keeps
    | apply Keeps.cond | split | (dsimp only; split) | fail_if_no_progress refine Keeps.mk' ?_ rfl rfl rfl rfl rfl rfl

theorem State.abortStep_keeps {s0 s : State} {o : OpenStep} (hk : Keeps s0 s) : Keeps s0 (State.abortStep s o) := by
  unfold State.abortStep
  with_reducible repeat' first
    | assumption | apply State.dropLedger_keeps | apply State.dropWork_keeps | apply State.releaseReserved_keeps
    | apply State.modStep_keeps | refine Keeps.foldl ?_ fun _ _ _ => ?_

theorem State.abortJob_keeps {s0 s : State} {job : Nat} {reason : Nat} {module : Nat} (hk : Keeps s0 s) : Keeps s0 (State.abortJob
    s job reason module) := by
  unfold State.abortJob
  with_reducible repeat' first
    | assumption | apply State.abortStep_keeps | apply State.notifyJob_keeps | apply State.reportAbort_keeps | apply Keeps.cond
    | refine Keeps.foldl ?_ fun _ _ _ => ?_ | split | (dsimp only; split) | fail_if_no_progress refine Keeps.mk' ?_ rfl rfl rfl rfl rfl rfl

theorem State.sendOrAbort_keeps {s0 s : State} {h : CourierHdr} {payload : Bytes} (hk : Keeps s0 s) : Keeps s0 (State.sendOrAbort s h
    payload) := by
  unfold State.sendOrAbort
  with_reducible repeat' first
    | assumption | apply State.abortJob_keeps | apply State.sendRouted_keeps | apply Keeps.cond | split | (dsimp only; split)
    | fail_if_no_progress refine Keeps.mk' ?_ rfl rfl rfl rfl rfl rfl

theorem State.sendForJob_keeps {s0 s : State} {type : Nat} {dest : Nat} {job : Nat} {payload : Bytes} (hk : Keeps s0 s) : Keeps s0
    (State.sendForJob s type dest job payload) := by
  unfold State.sendForJob
  with_reducible repeat' first
    | assumption | apply State.sendOrAbort_keeps | apply Keeps.cond | split | (dsimp only; split)
    | fail_if_no_progress refine Keeps.mk' ?_ rfl rfl rfl rfl rfl rfl

theorem State.putUnbegun_keeps {s0 s : State} {q : Queue} {w : Waiting} {status : Nat} {detail : Nat} (hk : Keeps s0 s) : Keeps s0
    (State.putUnbegun s q w status detail) := by
  unfold State.putUnbegun
  with_reducible repeat' first
    | assumption | apply State.deliver_keeps | apply State.putEnded_keeps

theorem State.endUnbegun_keeps {s0 s : State} {q : Queue} {w : Waiting} {status : Nat} {detail : Nat} (hk : Keeps s0 s) : Keeps s0
    (State.endUnbegun s q w status detail) := by
  unfold State.endUnbegun
  with_reducible repeat' first
    | assumption | apply State.sweep_keeps | apply State.putUnbegun_keeps

end Sys2Proof.Machine
end

