-- ==== Sys2Proof/Laws/KeepsIssue.lean ====
section
/-! SUPPORT. What the operations and meanings of Machine/Issue.lean keep. -/

set_option Elab.async false
set_option linter.unusedTactic false
set_option linter.unreachableTactic false
set_option linter.unusedVariables false

namespace Sys2Proof.Machine

theorem State.modToken_keeps {s0 s : State} {tag : Nat} {ti : Nat} {f : TokenWork → TokenWork} (hk : Keeps s0 s) : Keeps s0
    (State.modToken s tag ti f) := by
  unfold State.modToken
  with_reducible repeat' first
    | assumption | apply State.modStep_keeps

theorem State.placeTargets_keeps {s0 s : State} {model : Nat} {layer : Nat} {tensor : Nat} (hk : Keeps s0 s) : Keeps s0
    (State.placeTargets s model layer tensor) := by
  unfold State.placeTargets
  with_reducible repeat' first
    | assumption | apply Keeps.cond | split | (dsimp only; split) | fail_if_no_progress refine Keeps.mk' ?_ rfl rfl rfl rfl rfl rfl

theorem State.engineRan_keeps {s0 s : State} {w : EngineWork} (hk : Keeps s0 s) : Keeps s0 (State.engineRan s w) := by
  unfold State.engineRan
  with_reducible repeat' first
    | assumption | apply Keeps.cond | split | (dsimp only; split) | fail_if_no_progress refine Keeps.mk' ?_ rfl rfl rfl rfl rfl rfl

theorem State.setupLine_keeps {s0 s : State} {o : OpenStep} {ti : Nat} {layer : Nat} {t : TensorRec} {bs : List Blk} {col : Nat} (hk :
    Keeps s0 s) : Keeps s0 (State.setupLine s o ti layer t bs col) := by
  unfold State.setupLine
  with_reducible repeat' first
    | assumption | apply Keeps.cond | split | (dsimp only; split) | fail_if_no_progress refine Keeps.mk' ?_ rfl rfl rfl rfl rfl rfl

theorem State.setLedger_keeps {s0 s : State} {l : Ledger} (hk : Keeps s0 s) : Keeps s0 (State.setLedger s l) := by
  unfold State.setLedger
  with_reducible repeat' first
    | assumption | apply Keeps.cond | split | (dsimp only; split) | fail_if_no_progress refine Keeps.mk' ?_ rfl rfl rfl rfl rfl rfl

theorem State.setupLedgerLine_keeps {s0 s : State} {o : OpenStep} {ti : Nat} {layer : Nat} {t : TensorRec} {bs : List Blk} {members : Nat}
    {col : Nat} (hk : Keeps s0 s) : Keeps s0 (State.setupLedgerLine s o ti layer t bs members col) := by
  unfold State.setupLedgerLine
  with_reducible repeat' first
    | assumption | (dsimp only; apply State.setLedger_keeps) | apply Keeps.cond | split | (dsimp only; split)
    | fail_if_no_progress refine Keeps.mk' ?_ rfl rfl rfl rfl rfl rfl

theorem State.setupLedger_keeps {s0 s : State} {o : OpenStep} {ti : Nat} {layer : Nat} {t : TensorRec} {bs : List Blk} (hk : Keeps s0 s) :
    Keeps s0 (State.setupLedger s o ti layer t bs) := by
  unfold State.setupLedger
  with_reducible repeat' first
    | assumption | apply State.setupLedgerLine_keeps | apply Keeps.cond | refine Keeps.foldl ?_ fun _ _ _ => ?_ | split
    | (dsimp only; split) | fail_if_no_progress refine Keeps.mk' ?_ rfl rfl rfl rfl rfl rfl

theorem State.setupLines_keeps {s0 s : State} {tag : Nat} {ti : Nat} (hk : Keeps s0 s) : Keeps s0 (State.setupLines s tag ti) := by
  unfold State.setupLines
  with_reducible repeat' first
    | assumption | apply State.setupLine_keeps | apply State.setupLedger_keeps | apply Keeps.cond | refine Keeps.foldl ?_ fun _ _ _ => ?_
    | split | (dsimp only; split) | fail_if_no_progress refine Keeps.mk' ?_ rfl rfl rfl rfl rfl rfl

theorem State.issueLine_keeps {s0 s : State} {slotOf : Nat → Nat → Option InputSlot} {bs : List Blk} {ti : Nat} {l : Line} (hk : Keeps s0
    s) : Keeps s0 (State.issueLine s slotOf bs ti l) := by
  unfold State.issueLine
  with_reducible repeat' first
    | assumption | apply State.modTile_keeps | apply Keeps.cond | refine Keeps.foldl ?_ fun _ _ _ => ?_ | split | (dsimp only; split)
    | fail_if_no_progress refine Keeps.mk' ?_ rfl rfl rfl rfl rfl rfl

theorem State.fetchLists_keeps {s0 s : State} {a : ArrId} (hk : Keeps s0 s) : Keeps s0 (State.fetchLists s a) := by
  unfold State.fetchLists
  with_reducible repeat' first
    | assumption | apply State.modRegion_keeps | apply Keeps.cond | split | (dsimp only; split)
    | fail_if_no_progress refine Keeps.mk' ?_ rfl rfl rfl rfl rfl rfl

theorem State.renewLists_keeps {s0 s : State} {a : ArrId} (hk : Keeps s0 s) : Keeps s0 (State.renewLists s a) := by
  unfold State.renewLists
  with_reducible repeat' first
    | assumption | apply State.fetchLists_keeps | apply State.modRegion_keeps | apply Keeps.cond | split | (dsimp only; split)
    | fail_if_no_progress refine Keeps.mk' ?_ rfl rfl rfl rfl rfl rfl

theorem State.fetchSchedule_keeps {s0 s : State} {tag : Nat} (hk : Keeps s0 s) : Keeps s0 (State.fetchSchedule s tag) := by
  unfold State.fetchSchedule
  with_reducible repeat' first
    | assumption | apply State.fetchLists_keeps | apply Keeps.cond | refine Keeps.foldl ?_ fun _ _ _ => ?_ | split | (dsimp only; split)
    | fail_if_no_progress refine Keeps.mk' ?_ rfl rfl rfl rfl rfl rfl

theorem State.issueTensor_keeps {s0 s : State} {o : OpenStep} {ti : Nat} {layer : Nat} {t : TensorRec} {model : Nat} {x : List Nat}
    (hk : Keeps s0 s) : Keeps s0 (State.issueTensor s o ti layer t model x) := by
  unfold State.issueTensor
  with_reducible repeat' first
    | assumption | apply State.issueLine_keeps | apply State.fetchLists_keeps | apply Keeps.cond | refine Keeps.foldl ?_ fun _ _ _ => ?_
    | split | (dsimp only; split) | fail_if_no_progress refine Keeps.mk' ?_ rfl rfl rfl rfl rfl rfl

theorem State.appendHead_keeps {s0 s : State} {tag ti : Nat} {en : LenEntry} {w : EntryWork} {tok : TokenWork} {l : LayerRec}
    {isV : Bool} {head : Nat} {x : List Nat}
    (hk : Keeps s0 s) {t : State} (e : s.appendHead tag ti en w tok l isV head x = some t) : Keeps s0 t := by
  unfold State.appendHead at e
  generalize (if isV = true then x else _) = x1 at e
  dsimp only at e
  split at e
  · cases e; exact hk
  · split at e
    · cases e
    · obtain ⟨g, -, rfl⟩ := Option.map_eq_some_iff.1 e
      exact State.engineRan_keeps (State.putGroup_keeps hk)

theorem State.appendBlock_keeps {s0 s : State} {tag ti : Nat} {en : LenEntry} {w : EntryWork} {tok : TokenWork} {l : LayerRec}
    {isV : Bool} {col : Nat} {v : List Nat}
    (hk : Keeps s0 s) {t : State} (e : s.appendBlock tag ti en w tok l isV col v = some t) : Keeps s0 t := by
  refine foldl_option_keeps (s := some s) (fun t ht => by cases ht; exact hk) (fun acc i ha u hu => ?_) t e
  obtain ⟨st, h1, h2⟩ := Option.bind_eq_some_iff.1 hu
  exact State.appendHead_keeps (ha st h1) h2

theorem State.takeValues_keeps {s0 s : State} {tag : Nat} {d : LineDest} {v : List Nat} (hk : Keeps s0 s) : Keeps s0 (State.takeValues s
    tag d v) := by
  unfold State.takeValues
  with_reducible repeat' first
    | assumption | refine State.appendBlock_keeps ?_ (by assumption) | apply State.failStep_keeps | apply State.modToken_keeps | apply Keeps.cond | split
    | (dsimp only; split) | fail_if_no_progress refine Keeps.mk' ?_ rfl rfl rfl rfl rfl rfl

theorem State.takeLedgerLine_keeps {s0 s : State} {tag : Nat} {x : Line} (hk : Keeps s0 s) : Keeps s0 (State.takeLedgerLine s tag x) := by
  unfold State.takeLedgerLine
  with_reducible repeat' first
    | assumption | apply State.failStep_keeps | apply State.takeValues_keeps | apply Keeps.cond | split | (dsimp only; split)
    | fail_if_no_progress refine Keeps.mk' ?_ rfl rfl rfl rfl rfl rfl

theorem State.takeLedger_keeps {s0 s : State} {tag : Nat} {ti : Nat} (hk : Keeps s0 s) : Keeps s0 (State.takeLedger s tag ti) := by
  unfold State.takeLedger
  with_reducible repeat' first
    | assumption | apply State.setLedger_keeps | apply State.takeLedgerLine_keeps | apply Keeps.cond
    | refine Keeps.foldl ?_ fun _ _ _ => ?_ | split | (dsimp only; split) | fail_if_no_progress refine Keeps.mk' ?_ rfl rfl rfl rfl rfl rfl

theorem State.startStage_keeps {s0 s : State} {tag : Nat} {ti : Nat} (hk : Keeps s0 s) : Keeps s0 (State.startStage s tag ti) := by
  unfold State.startStage
  with_reducible repeat' first
    | assumption | apply State.failStep_keeps | apply State.issueTensor_keeps | apply State.takeLedger_keeps | apply Keeps.cond
    | refine Keeps.foldl ?_ fun _ _ _ => ?_ | split | (dsimp only; split) | fail_if_no_progress refine Keeps.mk' ?_ rfl rfl rfl rfl rfl rfl

theorem State.sendActivation_keeps {s0 s : State} {o : OpenStep} {tok : TokenWork} {vec : List Nat} (hk : Keeps s0 s) : Keeps s0
    (State.sendActivation s o tok vec) := by
  unfold State.sendActivation
  with_reducible repeat' first
    | assumption | apply State.failStep_keeps | apply State.sendForJob_keeps | apply Keeps.cond | refine Keeps.foldl ?_ fun _ _ _ => ?_
    | split | (dsimp only; split) | fail_if_no_progress refine Keeps.mk' ?_ rfl rfl rfl rfl rfl rfl

theorem State.countCopies_keeps {s0 s : State} {n : Nat} (hk : Keeps s0 s) : Keeps s0 (State.countCopies s n) := by
  unfold State.countCopies
  with_reducible repeat' first
    | assumption | apply Keeps.cond | split | (dsimp only; split) | fail_if_no_progress refine Keeps.mk' ?_ rfl rfl rfl rfl rfl rfl

theorem State.gatherRan_keeps {s0 s : State} {m : Model} {tag : Nat} {ti : Nat} {token : Nat} (hk : Keeps s0 s) : Keeps s0
    (State.gatherRan s m tag ti token) := by
  unfold State.gatherRan
  with_reducible repeat' first
    | assumption | apply State.engineRan_keeps | apply State.countCopies_keeps | apply Keeps.cond | refine Keeps.foldl ?_ fun _ _ _ => ?_
    | split | (dsimp only; split) | fail_if_no_progress refine Keeps.mk' ?_ rfl rfl rfl rfl rfl rfl

theorem State.selectLast_keeps {s0 s : State} {tag : Nat} (hk : Keeps s0 s) : Keeps s0 (State.selectLast s tag) := by
  unfold State.selectLast
  with_reducible repeat' first
    | assumption | apply State.modRegion_keeps | apply Keeps.cond | refine Keeps.foldl ?_ fun _ _ _ => ?_ | split | (dsimp only; split)
    | fail_if_no_progress refine Keeps.mk' ?_ rfl rfl rfl rfl rfl rfl

theorem State.vectorRan_keeps {s0 s : State} {o : OpenStep} {tag : Nat} {ti : Nat} {tok : TokenWork} (hk : Keeps s0 s) : Keeps s0
    (State.vectorRan s o tag ti tok) := by
  unfold State.vectorRan
  with_reducible repeat' first
    | assumption | apply State.engineRan_keeps | apply Keeps.cond | split | (dsimp only; split)
    | fail_if_no_progress refine Keeps.mk' ?_ rfl rfl rfl rfl rfl rfl

theorem State.choiceRan_keeps {s0 s : State} {tag : Nat} {ti : Nat} {l : LayerRec} {tok : TokenWork} (hk : Keeps s0 s) : Keeps s0
    (State.choiceRan s tag ti l tok) := by
  unfold State.choiceRan
  with_reducible repeat' first
    | assumption | apply State.engineRan_keeps | apply Keeps.cond | refine Keeps.foldl ?_ fun _ _ _ => ?_
    | split | (dsimp only; split) | fail_if_no_progress refine Keeps.mk' ?_ rfl rfl rfl rfl rfl rfl

theorem State.advance_keeps {s0 s : State} {f tag ti : Nat} (hk : Keeps s0 s) : Keeps s0 (State.advance f tag ti s) := by
  induction f generalizing s ti with
  | zero => exact hk
  | succ f ih =>
    unfold State.advance
    repeat' first
      | with_reducible assumption | with_reducible apply ih | with_reducible apply State.startStage_keeps
      | with_reducible apply State.modToken_keeps | with_reducible apply State.failStep_keeps
      | with_reducible apply State.setupLines_keeps | with_reducible apply State.gatherRan_keeps
      | with_reducible apply State.modStep_keeps | with_reducible apply State.sendActivation_keeps
      | with_reducible apply State.selectLast_keeps | with_reducible apply State.vectorRan_keeps | with_reducible apply State.choiceRan_keeps
      | with_reducible refine Keeps.foldl ?_ fun _ _ _ => ?_
      | with_reducible apply Keeps.cond
      | (try dsimp only); split

theorem State.advanceToken_keeps {s0 s : State} {tag : Nat} {ti : Nat} (hk : Keeps s0 s) : Keeps s0 (State.advanceToken s tag ti) := by
  unfold State.advanceToken
  with_reducible repeat' first
    | assumption | apply State.advance_keeps

theorem State.addTokens_keeps {s0 s : State} {tag : Nat} {new : List TokenWork} (hk : Keeps s0 s) : Keeps s0 (State.addTokens s tag
    new) := by
  unfold State.addTokens
  with_reducible repeat' first
    | assumption | apply State.modStep_keeps | apply State.advanceToken_keeps | apply State.setupLines_keeps | apply Keeps.cond
    | refine Keeps.foldl ?_ fun _ _ _ => ?_ | split | (dsimp only; split) | fail_if_no_progress refine Keeps.mk' ?_ rfl rfl rfl rfl rfl rfl

theorem State.startEntry_keeps {s0 s : State} {tag : Nat} {i : Nat} (hk : Keeps s0 s) : Keeps s0 (State.startEntry s tag i) := by
  unfold State.startEntry
  with_reducible repeat' first
    | assumption | apply State.addTokens_keeps | apply Keeps.cond | split | (dsimp only; split)
    | fail_if_no_progress refine Keeps.mk' ?_ rfl rfl rfl rfl rfl rfl

theorem State.attend_keeps {s0 s : State} {tag : Nat} {ti : Nat} {head : Nat} (hk : Keeps s0 s) : Keeps s0 (State.attend s tag ti
    head) := by
  unfold State.attend
  with_reducible repeat' first
    | assumption | apply State.nextDraw_keeps | apply State.failStep_keeps | apply State.advanceToken_keeps | apply State.modToken_keeps
    | apply State.engineRan_keeps | apply Keeps.cond | split | (dsimp only; split)
    | fail_if_no_progress refine Keeps.mk' ?_ rfl rfl rfl rfl rfl rfl

theorem State.spareTargets_keeps {s0 s : State} {die : Nat} (hk : Keeps s0 s) : Keeps s0 (State.spareTargets s die) := by
  unfold State.spareTargets
  with_reducible repeat' first
    | assumption | apply Keeps.cond | split | (dsimp only; split) | fail_if_no_progress refine Keeps.mk' ?_ rfl rfl rfl rfl rfl rfl

theorem State.gatherTarget_keeps {s0 s t : State} {tag die adapter : Nat} {x : Nat × Nat × Nat × Bytes × Bytes} (hk : Keeps s0 s)
    (e : s.gatherTarget tag die adapter x = some t) : Keeps s0 t := by
  unfold State.gatherTarget at e
  dsimp only at e
  split at e
  · cases e
  · split at e
    · cases e; exact hk
    · unfold Option.orElse at e
      split at e
      · rename_i h
        cases e
        split at h
        · cases h; exact State.modStep_keeps hk
        · cases h
      · split at e
        · split at e
          · cases e; exact State.modStep_keeps (State.spareTargets_keeps hk)
          · cases e
        · cases e

theorem State.gatherDie_keeps {s0 s : State} {tag die : Nat} {es : List (Nat × Nat × Nat × Nat × Bytes × Bytes)} (hk : Keeps s0 s) : Keeps s0 (State.gatherDie tag die es s) := by
  induction es generalizing s with
  | nil => exact hk
  | cons e es ih =>
    unfold State.gatherDie
    split
    · rename_i s1 h; exact ih (State.gatherTarget_keeps hk h)
    · exact hk

theorem State.gather_keeps {s0 s : State} {tag : Nat} (hk : Keeps s0 s) : Keeps s0 (State.gather s tag) := by
  unfold State.gather
  with_reducible repeat' first
    | assumption | apply State.gatherDie_keeps | apply State.modStep_keeps | apply Keeps.cond | refine Keeps.foldl ?_ fun _ _ _ => ?_ | split | (dsimp only; split)
    | fail_if_no_progress refine Keeps.mk' ?_ rfl rfl rfl rfl rfl rfl

theorem State.deliverValues_keeps {s0 s : State} {tag : Nat} {d : LineDest} {v : List Nat} (hk : Keeps s0 s) : Keeps s0
    (State.deliverValues s tag d v) := by
  unfold State.deliverValues
  with_reducible repeat' first
    | assumption | apply State.advanceToken_keeps | apply State.modToken_keeps | refine State.appendBlock_keeps ?_ (by assumption)
    | apply State.failStep_keeps | apply State.takeValues_keeps | apply Keeps.cond | split | (dsimp only; split)
    | fail_if_no_progress refine Keeps.mk' ?_ rfl rfl rfl rfl rfl rfl

end Sys2Proof.Machine
end

