-- ==== Sys2Proof/Laws/KeepsModes.lean ====
section
/-! SUPPORT. What the operations and meanings of Machine/Modes.lean keep. -/

set_option Elab.async false
set_option linter.unusedTactic false
set_option linter.unreachableTactic false
set_option linter.unusedVariables false

namespace Sys2Proof.Machine

theorem State.modAdc_keeps {s0 s : State} {n : Nat} {f : Adc → Adc} (hk : Keeps s0 s) : Keeps s0 (State.modAdc s n f) := by
  unfold State.modAdc
  with_reducible repeat' first
    | assumption | fail_if_no_progress refine Keeps.mk' ?_ rfl rfl rfl rfl rfl rfl

theorem State.adcReturn_keeps {s0 s : State} {n : Nat} (hk : Keeps s0 s) : Keeps s0 (State.adcReturn s n) := by
  unfold State.adcReturn
  with_reducible repeat' first
    | assumption | apply State.modAdc_keeps | apply Keeps.cond | split | (dsimp only; split)
    | fail_if_no_progress refine Keeps.mk' ?_ rfl rfl rfl rfl rfl rfl

theorem State.endTraceAll_keeps {s0 s : State} (hk : Keeps s0 s) : Keeps s0 (State.endTraceAll s) := by
  unfold State.endTraceAll
  with_reducible repeat' first
    | assumption | apply State.modAdc_keeps | apply Keeps.cond | refine Keeps.foldl ?_ fun _ _ _ => ?_ | split | (dsimp only; split)
    | fail_if_no_progress refine Keeps.mk' ?_ rfl rfl rfl rfl rfl rfl

theorem State.stopTileWork_keeps {s0 s : State} (hk : Keeps s0 s) : Keeps s0 (State.stopTileWork s) := by
  unfold State.stopTileWork
  with_reducible repeat' first
    | assumption | apply State.discardRun_keeps | apply State.endTraceAll_keeps | apply Keeps.cond | refine Keeps.foldl ?_ fun _ _ _ => ?_
    | split | (dsimp only; split) | fail_if_no_progress refine Keeps.mk' ?_ rfl rfl rfl rfl rfl rfl

theorem State.leaveRun_keeps {s0 s : State} (hk : Keeps s0 s) : Keeps s0 (State.leaveRun s) := by
  unfold State.leaveRun
  with_reducible repeat' first
    | assumption | apply State.discardRun_keeps | apply State.endTraceAll_keeps | apply State.stopTileWork_keeps | apply Keeps.cond | split
    | (dsimp only; split) | fail_if_no_progress refine Keeps.mk' ?_ rfl rfl rfl rfl rfl rfl | refine Keeps.foldl ?_ fun _ _ _ => ?_

theorem State.enterP1_keeps {s0 s : State} {hold : HoldReason} (hk : Keeps s0 s) : Keeps s0 (State.enterP1 s hold) := by
  unfold State.enterP1
  with_reducible repeat' first
    | assumption | apply State.leaveRun_keeps | apply Keeps.cond | split | (dsimp only; split)
    | fail_if_no_progress refine Keeps.mk' ?_ rfl rfl rfl rfl rfl rfl

theorem State.clearThrottle_keeps {s0 s : State} (hk : Keeps s0 s) : Keeps s0 (State.clearThrottle s) := by
  unfold State.clearThrottle
  with_reducible repeat' first
    | assumption | apply State.raise_keeps | apply Keeps.cond | split | (dsimp only; split)
    | fail_if_no_progress refine Keeps.mk' ?_ rfl rfl rfl rfl rfl rfl

theorem State.loseStaging_keeps {s0 s : State} (hk : Keeps s0 s) : Keeps s0 (State.loseStaging s) := by
  unfold State.loseStaging
  with_reducible repeat' first
    | assumption | apply Keeps.cond | split | (dsimp only; split) | fail_if_no_progress refine Keeps.mk' ?_ rfl rfl rfl rfl rfl rfl

theorem sound_reset (s : State) (h1 : s.sv.mem = []) (h2 : s.ev.held = []) (h3 : s.ev.next = 1)
    (h4 : ∀ k, s.rg.retained = some k → k.2.1.length ≤ 32 ∧ recordNumber k.2.2) : s.Sound :=
  ⟨by rw [h1]; rfl, by rw [h2]; exact Nat.zero_le _, by rw [h3]; exact ⟨by decide, by decide⟩, h4⟩

theorem State.loseVolatile_keeps {s0 s : State} (hk : Keeps s0 s) : Keeps s0 s.loseVolatile :=
  ⟨hk.pending, hk.tick, hk.device, fun q => sound_reset _ rfl rfl rfl (hk.sound q).4⟩

theorem State.cutPrograms_keeps {s0 s : State} (hk : Keeps s0 s) : Keeps s0 (State.cutPrograms s) := by
  unfold State.cutPrograms
  with_reducible repeat' first
    | assumption | apply Keeps.cond | refine Keeps.foldl ?_ fun _ _ _ => ?_ | split | (dsimp only; split)
    | fail_if_no_progress refine Keeps.mk' ?_ rfl rfl rfl rfl rfl rfl

theorem State.beginReset_keeps {s0 s : State} {hbm0 : Bool} (hk : Keeps s0 s) : Keeps s0 (s.beginReset hbm0) := by
  have h := State.loseVolatile_keeps (State.cutPrograms_keeps hk)
  exact ⟨h.pending, h.tick, h.device, fun _ => sound_reset _ rfl rfl rfl fun _ e => by cases e⟩

theorem State.raiseStops_keeps {s0 s : State} (hk : Keeps s0 s) : Keeps s0 (State.raiseStops s) := by
  unfold State.raiseStops
  with_reducible repeat' first
    | assumption | apply State.raise_keeps | refine Keeps.foldl ?_ fun _ _ _ => ?_
    | fail_if_no_progress refine Keeps.mk' ?_ rfl rfl rfl rfl rfl rfl

theorem State.raiseFlag_keeps {s0 s : State} (hk : Keeps s0 s) : Keeps s0 (State.raiseFlag s) := by
  unfold State.raiseFlag
  with_reducible repeat' first
    | assumption | apply State.raise_keeps | fail_if_no_progress refine Keeps.mk' ?_ rfl rfl rfl rfl rfl rfl | split

theorem State.commitSeal_keeps {s0 s : State} (hk : Keeps s0 s) : Keeps s0 (State.commitSeal s) := by
  unfold State.commitSeal
  with_reducible repeat' first
    | assumption | fail_if_no_progress refine Keeps.mk' ?_ rfl rfl rfl rfl rfl rfl

theorem State.voidStep_keeps {s0 s : State} {o : OpenStep} (hk : Keeps s0 s) : Keeps s0 (State.voidStep s o) := by
  unfold State.voidStep
  with_reducible repeat' first
    | assumption | apply State.undoStep_keeps | apply State.modQueue_keeps
    | fail_if_no_progress refine Keeps.mk' ?_ rfl rfl rfl rfl rfl rfl

theorem State.notifyPorts_keeps {s0 s : State} {job : Nat} (hk : Keeps s0 s) : Keeps s0 (State.notifyPorts s job) := by
  unfold State.notifyPorts
  with_reducible repeat' first
    | assumption | apply State.sendCourier_keeps | apply Keeps.cond | refine Keeps.foldl ?_ fun _ _ _ => ?_ | split | (dsimp only; split)
    | fail_if_no_progress refine Keeps.mk' ?_ rfl rfl rfl rfl rfl rfl

theorem State.endJobs_keeps {s0 s : State} {jobs : List Nat} (hk : Keeps s0 s) : Keeps s0 (State.endJobs s jobs) := by
  unfold State.endJobs
  with_reducible repeat' first
    | assumption | apply Keeps.cond | split | (dsimp only; split) | fail_if_no_progress refine Keeps.mk' ?_ rfl rfl rfl rfl rfl rfl

theorem State.deliverAll_keeps {s0 s : State} (hk : Keeps s0 s) : Keeps s0 (State.deliverAll s) := by
  unfold State.deliverAll
  with_reducible repeat' first
    | assumption | apply State.deliver_keeps | refine Keeps.foldl ?_ fun _ _ _ => ?_

theorem State.drain_keeps {s0 s : State} {cause : Nat} {code : Nat} {source : Nat} {loc : Nat} (hk : Keeps s0 s) : Keeps s0
    (State.drain s cause code source loc) := by
  unfold State.drain
  with_reducible repeat' first
    | assumption | apply State.notifyJob_keeps | apply State.voidStep_keeps | apply State.raise_keeps | apply State.deliverAll_keeps
    | apply State.async_keeps | apply State.enterP1_keeps | apply State.reportAbort_keeps | apply State.endJobs_keeps
    | apply State.notifyPorts_keeps | apply Keeps.cond | refine Keeps.foldl ?_ fun _ _ _ => ?_ | split | (dsimp only; split)
    | fail_if_no_progress refine Keeps.mk' ?_ rfl rfl rfl rfl rfl rfl

theorem State.restoreFranking_keeps {s0 s : State} (hk : Keeps s0 s) : Keeps s0 (State.restoreFranking s) := by
  unfold State.restoreFranking
  with_reducible repeat' first
    | assumption | apply State.drain_keeps | apply Keeps.cond | split | (dsimp only; split)
    | fail_if_no_progress refine Keeps.mk' ?_ rfl rfl rfl rfl rfl rfl

theorem State.startPorts_keeps {s0 s : State} (hk : Keeps s0 s) : Keeps s0 (State.startPorts s) := by
  unfold State.startPorts
  with_reducible repeat' first
    | assumption | apply Keeps.cond | split | (dsimp only; split) | fail_if_no_progress refine Keeps.mk' ?_ rfl rfl rfl rfl rfl rfl

theorem State.request_keeps {s0 s : State} {q : Limited} {v : Nat} (hk : Keeps s0 s) : Keeps s0 (State.request s q v) := by
  unfold State.request
  with_reducible repeat' first
    | assumption | apply State.raise_keeps | apply Keeps.cond | split | (dsimp only; split)
    | fail_if_no_progress refine Keeps.mk' ?_ rfl rfl rfl rfl rfl rfl

theorem State.setPoints_keeps {s0 s : State} (hk : Keeps s0 s) : Keeps s0 (State.setPoints s) := by
  unfold State.setPoints
  with_reducible repeat' first
    | assumption | apply State.request_keeps | apply Keeps.cond | refine Keeps.foldl ?_ fun _ _ _ => ?_ | split | (dsimp only; split)
    | fail_if_no_progress refine Keeps.mk' ?_ rfl rfl rfl rfl rfl rfl

theorem State.firmwareStart_keeps {s0 s : State} (hk : Keeps s0 s) : Keeps s0 (State.firmwareStart s) := by
  unfold State.firmwareStart
  with_reducible repeat' first
    | assumption | apply State.commitSeal_keeps | apply State.restoreFranking_keeps | apply State.raiseFlag_keeps
    | apply State.raiseStops_keeps | apply State.setPoints_keeps | apply Keeps.cond | split | (dsimp only; split)
    | fail_if_no_progress refine Keeps.mk' ?_ rfl rfl rfl rfl rfl rfl

theorem State.sendWakes_keeps {s0 s : State} (hk : Keeps s0 s) : Keeps s0 (State.sendWakes s) := by
  unfold State.sendWakes
  with_reducible repeat' first
    | assumption | apply State.sendCourier_keeps | apply Keeps.cond | refine Keeps.foldl ?_ fun _ _ _ => ?_ | split | (dsimp only; split)
    | fail_if_no_progress refine Keeps.mk' ?_ rfl rfl rfl rfl rfl rfl

theorem State.driveWakes_keeps {s0 s : State} (hk : Keeps s0 s) : Keeps s0 (State.driveWakes s) := by
  unfold State.driveWakes
  with_reducible repeat' first
    | assumption | apply Keeps.cond | split | (dsimp only; split) | fail_if_no_progress refine Keeps.mk' ?_ rfl rfl rfl rfl rfl rfl

theorem State.suspendLease_keeps {s0 s : State} (hk : Keeps s0 s) : Keeps s0 (State.suspendLease s) := by
  unfold State.suspendLease
  with_reducible repeat' first
    | assumption | apply Keeps.cond | split | (dsimp only; split) | fail_if_no_progress refine Keeps.mk' ?_ rfl rfl rfl rfl rfl rfl

theorem State.resumeLease_keeps {s0 s : State} (hk : Keeps s0 s) : Keeps s0 (State.resumeLease s) := by
  unfold State.resumeLease
  with_reducible repeat' first
    | assumption | apply Keeps.cond | split | (dsimp only; split) | fail_if_no_progress refine Keeps.mk' ?_ rfl rfl rfl rfl rfl rfl

theorem State.retrace_keeps {s0 s : State} (hk : Keeps s0 s) : Keeps s0 (State.retrace s) := by
  unfold State.retrace
  with_reducible repeat' first
    | assumption | apply Keeps.cond | split | (dsimp only; split) | fail_if_no_progress refine Keeps.mk' ?_ rfl rfl rfl rfl rfl rfl

theorem State.judgeAligned_keeps {s0 s : State} {was : Bool} (hk : Keeps s0 s) : Keeps s0 (State.judgeAligned s was) := by
  unfold State.judgeAligned
  with_reducible repeat' first
    | assumption | with_reducible refine State.modClock_keeps ?_ (fun _ => rfl) | apply State.raise_keeps | apply Keeps.cond | split
    | (dsimp only; split) | fail_if_no_progress refine Keeps.mk' ?_ rfl rfl rfl rfl rfl rfl

theorem State.arrive_keeps {s0 s : State} {cause : Nat} {dst : PowerState} (hk : Keeps s0 s) : Keeps s0 (State.arrive s cause dst) := by
  unfold State.arrive
  with_reducible repeat' first
    | assumption | apply State.adcReturn_keeps | apply Keeps.cond | refine Keeps.foldl ?_ fun _ _ _ => ?_ | split | (dsimp only; split)
    | fail_if_no_progress refine Keeps.mk' ?_ rfl rfl rfl rfl rfl rfl

theorem State.wakeP2_keeps {s0 s : State} {cause : Nat} (hk : Keeps s0 s) : Keeps s0 (State.wakeP2 s cause) := by
  unfold State.wakeP2
  with_reducible repeat' first
    | assumption | apply State.sendWakes_keeps | apply State.expireAllHeld_keeps | apply State.resumeLease_keeps
    | apply State.adcReturn_keeps | apply State.arrive_keeps | apply State.judgeAligned_keeps | apply State.retrace_keeps
    | apply Keeps.cond | split | (dsimp only; split) | fail_if_no_progress refine Keeps.mk' ?_ rfl rfl rfl rfl rfl rfl

theorem State.wakeP3_keeps {s0 s : State} {cause : Nat} (hk : Keeps s0 s) : Keeps s0 (State.wakeP3 s cause) := by
  unfold State.wakeP3
  with_reducible repeat' first
    | assumption | apply State.expireAllHeld_keeps | apply State.resumeLease_keeps | apply State.adcReturn_keeps | apply State.arrive_keeps
    | apply State.driveWakes_keeps | apply State.judgeAligned_keeps | apply State.retrace_keeps | apply Keeps.cond | split
    | (dsimp only; split) | fail_if_no_progress refine Keeps.mk' ?_ rfl rfl rfl rfl rfl rfl

/-- The buffer taken back from the retention store. -/
theorem Keeps.restored {s0 s t : State} (hk : Keeps s0 s) (h1 : t.pending = s.pending) (h2 : t.tm.tick = s.tm.tick)
    (h3 : t.sv.mem = s.sv.mem) (h4 : t.rg.retained = none) (h6 : t.bt.certSerial = s.bt.certSerial)
    (h5 : (t.ev.held = s.ev.held ∧ t.ev.next = s.ev.next) ∨ ∃ k, s.rg.retained = some k ∧ t.ev.held = k.2.1 ∧ t.ev.next = k.2.2) :
    Keeps s0 t := by
  refine ⟨h1.trans hk.pending, h2 ▸ hk.tick, h6.trans hk.device, fun q => ?_⟩
  obtain ⟨a, b, c, d⟩ := hk.sound q
  rcases h5 with ⟨e1, e2⟩ | ⟨k, hr, e1, e2⟩
  · exact ⟨h3 ▸ a, e1 ▸ b, e2 ▸ c, fun _ e => by rw [h4] at e; cases e⟩
  · exact ⟨h3 ▸ a, e1 ▸ (d k hr).1, e2 ▸ (d k hr).2, fun _ e => by rw [h4] at e; cases e⟩

theorem State.restoreRetained_keeps {s0 s : State} (hk : Keeps s0 s) : Keeps s0 (State.restoreRetained s) := by
  unfold State.restoreRetained
  cases h : s.rg.retained with
  | none => exact Keeps.restored hk rfl rfl rfl h rfl (.inl ⟨rfl, rfl⟩)
  | some k => exact Keeps.restored hk rfl rfl rfl rfl rfl (.inr ⟨k, h, rfl, rfl⟩)

theorem State.wakeP4_keeps {s0 s : State} {cause : Nat} (hk : Keeps s0 s) : Keeps s0 (s.wakeP4 cause) := by
  unfold State.wakeP4
  refine State.commitSeal_keeps (State.restoreFranking_keeps (State.arrive_keeps (Keeps.mk' (Keeps.mk' ?_ rfl rfl rfl rfl rfl rfl) rfl rfl rfl rfl rfl rfl)))
  exact State.driveWakes_keeps (State.restoreRetained_keeps hk)

theorem State.wakeP1_keeps {s0 s : State} {cause : Nat} (hk : Keeps s0 s) : Keeps s0 (State.wakeP1 s cause) := by
  unfold State.wakeP1
  with_reducible repeat' first
    | assumption | apply State.arrive_keeps | apply Keeps.cond | split | (dsimp only; split)
    | fail_if_no_progress refine Keeps.mk' ?_ rfl rfl rfl rfl rfl rfl

theorem State.wake_keeps {s0 s : State} {cause : Nat} (hk : Keeps s0 s) : Keeps s0 (State.wake s cause) := by
  unfold State.wake
  with_reducible repeat' first
    | assumption | apply State.wakeP2_keeps | apply State.wakeP3_keeps | apply State.wakeP4_keeps | apply State.wakeP1_keeps
    | apply Keeps.cond | split | (dsimp only; split) | fail_if_no_progress refine Keeps.mk' ?_ rfl rfl rfl rfl rfl rfl

theorem State.wakeReattach_keeps {s0 s : State} (hk : Keeps s0 s) : Keeps s0 (State.wakeReattach s) := by
  unfold State.wakeReattach
  with_reducible repeat' first
    | assumption | apply State.arrive_keeps | apply Keeps.cond | split | (dsimp only; split)
    | fail_if_no_progress refine Keeps.mk' ?_ rfl rfl rfl rfl rfl rfl

theorem State.reach_keeps {s0 s : State} {dst : PowerState} (hk : Keeps s0 s) : Keeps s0 (s.reach dst) := by
  have h := State.clearThrottle_keeps (State.leaveRun_keeps hk)
  cases dst with
  | p0 => exact State.wake_keeps hk
  | p1 => exact State.enterP1_keeps hk
  | p2 => exact Keeps.mk' h rfl rfl rfl rfl rfl rfl
  | p3 => exact Keeps.mk' (State.loseStaging_keeps h) rfl rfl rfl rfl rfl rfl
  | p4 =>
    have g := State.loseVolatile_keeps h
    refine ⟨g.pending, g.tick, g.device, fun q => ?_⟩
    obtain ⟨a, b, c, -⟩ := g.sound q
    obtain ⟨-, b', c', -⟩ := h.sound q
    exact ⟨a, b, c, fun k e => by cases e; exact ⟨b', c'⟩⟩

theorem State.entryStops_keeps {s0 s : State} (hk : Keeps s0 s) : Keeps s0 (State.entryStops s) := by
  unfold State.entryStops
  with_reducible repeat' first
    | assumption | apply State.stopTileWork_keeps | apply Keeps.cond | split | (dsimp only; split)
    | fail_if_no_progress refine Keeps.mk' ?_ rfl rfl rfl rfl rfl rfl

theorem State.tryEntry_keeps {s0 s : State} (hk : Keeps s0 s) : Keeps s0 (State.tryEntry s) := by
  unfold State.tryEntry
  with_reducible repeat' first
    | assumption | apply State.reach_keeps | apply State.entryStops_keeps | apply Keeps.cond | split | (dsimp only; split)
    | fail_if_no_progress refine Keeps.mk' ?_ rfl rfl rfl rfl rfl rfl

theorem State.abandonEntry_keeps {s0 s : State} {cause : Nat} (hk : Keeps s0 s) : Keeps s0 (State.abandonEntry s cause) := by
  unfold State.abandonEntry
  with_reducible repeat' first
    | assumption | apply State.raise_keeps | apply State.resumeLease_keeps | apply Keeps.cond | split | (dsimp only; split)
    | fail_if_no_progress refine Keeps.mk' ?_ rfl rfl rfl rfl rfl rfl

theorem State.frameArrives_keeps {s0 s : State} {chan0 : Bool} (hk : Keeps s0 s) : Keeps s0 (State.frameArrives s chan0) := by
  unfold State.frameArrives
  with_reducible repeat' first
    | assumption | apply State.abandonEntry_keeps | apply State.wakeP1_keeps | apply State.wakeP2_keeps | apply Keeps.cond | split
    | (dsimp only; split) | fail_if_no_progress refine Keeps.mk' ?_ rfl rfl rfl rfl rfl rfl

theorem State.wakeForTask_keeps {s0 s : State} (hk : Keeps s0 s) : Keeps s0 (State.wakeForTask s) := by
  unfold State.wakeForTask
  with_reducible repeat' first
    | assumption | apply State.wakeP1_keeps | apply Keeps.cond | split | (dsimp only; split)
    | fail_if_no_progress refine Keeps.mk' ?_ rfl rfl rfl rfl rfl rfl

theorem State.scheduleWakes_keeps {s0 s : State} {before : State} (hk : Keeps s0 s) : Keeps s0 (State.scheduleWakes s before) := by
  unfold State.scheduleWakes
  with_reducible repeat' first
    | assumption | apply State.wakeP1_keeps | apply Keeps.cond | split | (dsimp only; split)
    | fail_if_no_progress refine Keeps.mk' ?_ rfl rfl rfl rfl rfl rfl

theorem State.active_keeps {s0 s : State} (hk : Keeps s0 s) : Keeps s0 (State.active s) := by
  unfold State.active
  with_reducible repeat' first
    | assumption | apply Keeps.cond | split | (dsimp only; split) | fail_if_no_progress refine Keeps.mk' ?_ rfl rfl rfl rfl rfl rfl

end Sys2Proof.Machine
end

