-- ==== Sys2Proof/Laws/KeepsRecover.lean ====
section
/-! SUPPORT. What the operations and meanings of Machine/Recover.lean keep. -/

set_option Elab.async false
set_option linter.unusedTactic false
set_option linter.unreachableTactic false
set_option linter.unusedVariables false

namespace Sys2Proof.Machine

theorem State.rerun_keeps {s0 s : State} {tag : Nat} {epoch : Nat} (hk : Keeps s0 s) : Keeps s0 (State.rerun s tag epoch) := by
  unfold State.rerun
  with_reducible repeat' first
    | assumption | apply State.dropWork_keeps | apply State.modStep_keeps | apply State.startEntry_keeps | apply Keeps.cond
    | refine Keeps.foldl ?_ fun _ _ _ => ?_ | split | (dsimp only; split) | fail_if_no_progress refine Keeps.mk' ?_ rfl rfl rfl rfl rfl rfl

theorem State.replayRecord_keeps {s0 s : State} {o : OpenStep} {code : Nat} (hk : Keeps s0 s) : Keeps s0 (State.replayRecord s o
    code) := by
  unfold State.replayRecord
  with_reducible repeat' first
    | assumption | apply State.raise_keeps

theorem State.replayNotices_keeps {s0 s : State} {o : OpenStep} (hk : Keeps s0 s) : Keeps s0 (State.replayNotices s o) := by
  unfold State.replayNotices
  exact Keeps.cond hk (Keeps.foldl hk fun _ _ hx => State.sendForJob_keeps hx)

theorem State.transient_keeps {s0 s : State} {tag : Nat} {epoch : Nat} {code : Nat} {source : Nat} {loc : Nat} (hk : Keeps s0 s) :
    Keeps s0 (State.transient s tag epoch code source loc) := by
  unfold State.transient
  with_reducible repeat' first
    | assumption | apply State.rerun_keeps | apply State.replayRecord_keeps | apply State.drain_keeps | apply State.replayNotices_keeps
    | apply Keeps.cond | refine Keeps.foldl ?_ fun _ _ _ => ?_ | split | (dsimp only; split)
    | fail_if_no_progress refine Keeps.mk' ?_ rfl rfl rfl rfl rfl rfl

theorem State.failStop_keeps {s0 s : State} {cause : StopCause} {sensor : Nat} {reading : Int} {vinMv : Nat} (hk : Keeps s0 s) :
    Keeps s0 (State.failStop s cause sensor reading vinMv) := by
  unfold State.failStop
  with_reducible repeat' first
    | assumption | apply State.loseVolatile_keeps | apply State.cutPrograms_keeps | apply Keeps.cond | split | (dsimp only; split)
    | fail_if_no_progress refine Keeps.mk' ?_ rfl rfl rfl rfl rfl rfl

theorem State.writeDump_keeps {s0 s : State} {cause : Nat} {core : Nat} {sections : List Nat} (hk : Keeps s0 s) : Keeps s0
    (State.writeDump s cause core sections) := by
  unfold State.writeDump
  with_reducible repeat' first
    | assumption | apply Keeps.cond | fail_if_no_progress refine Keeps.mk' ?_ rfl rfl rfl rfl rfl rfl

theorem State.crash_keeps {s0 s : State} {dumpCause : Nat} {core : Nat} {code : Nat} (hk : Keeps s0 s) : Keeps s0 (State.crash s
    dumpCause core code) := by
  unfold State.crash
  with_reducible repeat' first
    | assumption | apply State.drain_keeps | apply State.writeDump_keeps | fail_if_no_progress refine Keeps.mk' ?_ rfl rfl rfl rfl rfl rfl

theorem State.bootFails_keeps {s0 s : State} {code : Nat} {r : Option ConfigRecord} (hk : Keeps s0 s) : Keeps s0 (State.bootFails s
    code r) := by
  unfold State.bootFails
  with_reducible repeat' first
    | assumption | fail_if_no_progress refine Keeps.mk' ?_ rfl rfl rfl rfl rfl rfl

theorem State.loadTables_keeps {s0 s : State} (hk : Keeps s0 s) : Keeps s0 (State.loadTables s) := by
  unfold State.loadTables
  with_reducible repeat' first
    | assumption | apply Keeps.cond | split | (dsimp only; split) | fail_if_no_progress refine Keeps.mk' ?_ rfl rfl rfl rfl rfl rfl

theorem State.bootChain_keeps {s0 s : State} (hk : Keeps s0 s) : Keeps s0 (State.bootChain s) := by
  unfold State.bootChain
  with_reducible repeat' first
    | assumption | apply State.bootFails_keeps | apply State.firmwareStart_keeps | apply State.startPorts_keeps
    | apply State.loadTables_keeps | apply Keeps.cond | split | (dsimp only; split)
    | fail_if_no_progress refine Keeps.mk' ?_ rfl rfl rfl rfl rfl rfl

theorem State.resetModule_keeps {s0 s : State} {hbm0 : Bool} (hk : Keeps s0 s) : Keeps s0 (State.resetModule s hbm0) := by
  unfold State.resetModule
  with_reducible repeat' first
    | assumption | apply State.bootChain_keeps | apply State.beginReset_keeps

end Sys2Proof.Machine
end

