-- ==== Sys2Proof/Laws/KeepsTileOps.lean ====
section
/-! SUPPORT. What the operations and meanings of Machine/TileOps.lean keep. -/

set_option Elab.async false
set_option linter.unusedTactic false
set_option linter.unreachableTactic false
set_option linter.unusedVariables false

namespace Sys2Proof.Machine

theorem State.withSet_keeps {s0 s : State} {a : ArrId} {f : State → State} (hk : Keeps s0 s) (hf : ∀ x , Keeps s0 x → Keeps s0 (f x
    )) : Keeps s0 (State.withSet s a f) := by
  unfold State.withSet
  with_reducible repeat' first
    | assumption | apply hf | apply State.modTile_keeps

theorem State.zeroDrift_keeps {s0 s : State} {a : ArrId} (hk : Keeps s0 s) : Keeps s0 (State.zeroDrift s a) := by
  unfold State.zeroDrift
  with_reducible repeat' first
    | assumption | refine State.withSet_keeps ?_ (fun _ _ => ?_) | apply State.setDrift_keeps

theorem State.programUnderCover_keeps {s0 s : State} {tid : TileId} {k : Nat} (hk : Keeps s0 s) : Keeps s0 (State.programUnderCover s tid
    k) := by
  unfold State.programUnderCover
  with_reducible repeat' first
    | assumption | apply State.modDir_keeps | apply State.modTile_keeps | apply Keeps.cond | split | (dsimp only; split)
    | fail_if_no_progress refine Keeps.mk' ?_ rfl rfl rfl rfl rfl rfl

theorem State.askRewrite_keeps {s0 s : State} {a : ArrId} (hk : Keeps s0 s) : Keeps s0 (State.askRewrite s a) := by
  unfold State.askRewrite
  with_reducible repeat' first
    | assumption | apply State.modTile_keeps | apply Keeps.cond | split | (dsimp only; split)
    | fail_if_no_progress refine Keeps.mk' ?_ rfl rfl rfl rfl rfl rfl

theorem State.uncover_keeps {s0 s : State} {a : ArrId} (hk : Keeps s0 s) : Keeps s0 (State.uncover s a) := by
  unfold State.uncover
  with_reducible repeat' first
    | assumption | apply State.modDir_keeps | apply State.zeroDrift_keeps | apply State.askRewrite_keeps | apply State.outOfService_keeps
    | apply Keeps.cond | split | (dsimp only; split) | fail_if_no_progress refine Keeps.mk' ?_ rfl rfl rfl rfl rfl rfl

theorem State.applyStandIn_keeps {s0 s : State} {tid : TileId} (hk : Keeps s0 s) : Keeps s0 (State.applyStandIn s tid) := by
  unfold State.applyStandIn
  with_reducible repeat' first
    | assumption | apply State.modTile_keeps | apply State.idleSpare_keeps | apply State.programUnderCover_keeps
    | apply State.uncover_keeps | apply Keeps.cond | split | (dsimp only; split)
    | fail_if_no_progress refine Keeps.mk' ?_ rfl rfl rfl rfl rfl rfl

theorem State.applyNext_keeps {s0 s : State} {tid : TileId} (hk : Keeps s0 s) : Keeps s0 (State.applyNext s tid) := by
  unfold State.applyNext
  with_reducible repeat' first
    | assumption | apply State.modTile_keeps | refine Keeps.foldl ?_ fun _ _ _ => ?_
    | fail_if_no_progress refine Keeps.mk' ?_ rfl rfl rfl rfl rfl rfl

theorem State.boundary_keeps {s0 s : State} {tid : TileId} (hk : Keeps s0 s) : Keeps s0 (State.boundary s tid) := by
  unfold State.boundary
  with_reducible repeat' first
    | assumption | apply State.modTile_keeps | apply State.applyNext_keeps | apply State.applyStandIn_keeps

theorem State.bankOverflow_keeps {s0 s : State} {tid : TileId} {arr : Nat} {tag : Nat} (hk : Keeps s0 s) : Keeps s0
    (State.bankOverflow s tid arr tag) := by
  unfold State.bankOverflow
  with_reducible repeat' first
    | assumption | apply State.failStep_keeps | apply State.raise_keeps

theorem State.closeBank_keeps {s0 s : State} {tid : TileId} {b : Nat} (hk : Keeps s0 s) : Keeps s0 (State.closeBank s tid b).1 := by
  unfold State.closeBank
  with_reducible repeat' first
    | assumption | apply State.modTile_keeps | apply Keeps.cond | split | (dsimp only; split)
    | fail_if_no_progress refine Keeps.mk' ?_ rfl rfl rfl rfl rfl rfl

theorem State.tryDrain_keeps {s0 s : State} {tid : TileId} {b : Nat} (hk : Keeps s0 s) : Keeps s0 (State.tryDrain s tid b) := by
  unfold State.tryDrain
  with_reducible repeat' first
    | assumption | apply State.modTile_keeps | apply Keeps.cond | split | (dsimp only; split)

theorem State.countFires_keeps {s0 s : State} {tid : TileId} {b : Nat} {n : Nat} {close : Bool} {arr : Nat} (hk : Keeps s0 s) :
    Keeps s0 (State.countFires s tid b n close arr) := by
  unfold State.countFires
  with_reducible repeat' first
    | assumption | apply State.modTile_keeps | apply State.closeBank_keeps | apply State.bankOverflow_keeps | apply State.tryDrain_keeps
    | apply Keeps.cond | split | (dsimp only; split) | fail_if_no_progress refine Keeps.mk' ?_ rfl rfl rfl rfl rfl rfl

theorem State.addToBank_keeps {s0 s : State} {tid : TileId} {b : Nat} {arr : Nat} {red : Reduction} {v : List Int} (hk : Keeps s0
    s) : Keeps s0 (State.addToBank s tid b arr red v) := by
  unfold State.addToBank
  with_reducible repeat' first
    | assumption | apply State.bankOverflow_keeps | apply State.modTile_keeps | apply Keeps.cond

theorem State.countCompute_keeps {s0 s : State} {tag : Nat} {n : Nat} {a : ArrId} (hk : Keeps s0 s) : Keeps s0 (State.countCompute
    s tag n a) := by
  unfold State.countCompute
  with_reducible repeat' first
    | assumption | apply State.modStep_keeps

theorem State.countEquiv_keeps {s0 s : State} {tag : Nat} {cause : Nat} {n256 : Nat} {a : ArrId} (hk : Keeps s0 s) : Keeps s0
    (State.countEquiv s tag cause n256 a) := by
  unfold State.countEquiv
  with_reducible repeat' first
    | assumption | apply State.modStep_keeps

theorem State.putJob_keeps {s0 s : State} {tid : TileId} {arr : Nat} {cause : Nat} {i : InputSlot} {mode : Nat} {red : Reduction} {b :
    Nat} (hk : Keeps s0 s) : Keeps s0 (State.putJob s tid arr cause i mode red b) := by
  unfold State.putJob
  with_reducible repeat' first
    | assumption | apply State.modRegion_keeps | apply State.modTile_keeps | apply Keeps.cond | split | (dsimp only; split)
    | fail_if_no_progress refine Keeps.mk' ?_ rfl rfl rfl rfl rfl rfl

theorem State.handOff_keeps {s0 s : State} {tid : TileId} {f : Fire} {i : InputSlot} {cause : Nat} (hk : Keeps s0 s) : Keeps s0
    (State.handOff s tid f i cause) := by
  unfold State.handOff
  with_reducible repeat' first
    | assumption | apply State.failStep_keeps | apply State.modTile_keeps | apply State.countEquiv_keeps | apply State.countCompute_keeps
    | apply State.putJob_keeps | apply State.countFires_keeps | apply Keeps.cond | split | (dsimp only; split)
    | fail_if_no_progress refine Keeps.mk' ?_ rfl rfl rfl rfl rfl rfl

theorem State.dropDescriptor_keeps {s0 s : State} {tid : TileId} {k : Nat} {f : Fire} (hk : Keeps s0 s) : Keeps s0 (State.dropDescriptor s
    tid k f) := by
  unfold State.dropDescriptor
  with_reducible repeat' first
    | assumption | apply State.modTile_keeps | apply State.raise_keeps | apply Keeps.cond | split | (dsimp only; split)
    | fail_if_no_progress refine Keeps.mk' ?_ rfl rfl rfl rfl rfl rfl

theorem State.numberFire_keeps {s0 s : State} {tag : Nat} {die : Nat} (hk : Keeps s0 s) : Keeps s0 (State.numberFire s tag die).2 := by
  unfold State.numberFire
  with_reducible repeat' first
    | assumption | apply State.nextDraw_keeps | apply State.modStep_keeps | apply Keeps.cond | split | (dsimp only; split)
    | fail_if_no_progress refine Keeps.mk' ?_ rfl rfl rfl rfl rfl rfl

theorem State.latch_keeps {s0 s : State} {tid : TileId} {f : Fire} {i : InputSlot} {b : Nat} {first : Bool} (hk : Keeps s0 s) : Keeps s0
    (State.latch s tid f i b first) := by
  unfold State.latch
  with_reducible repeat' first
    | assumption | apply State.numberFire_keeps | apply State.countCompute_keeps | apply State.modTile_keeps | apply State.modRegion_keeps
    | apply Keeps.cond | split | (dsimp only; split) | fail_if_no_progress refine Keeps.mk' ?_ rfl rfl rfl rfl rfl rfl

theorem State.issueNext_keeps {s0 s : State} {clear : Nat} {n : Nat} {tid : TileId} (hk : Keeps s0 s) :
    Keeps s0 (State.issueNext clear n tid s).1 := by
  induction n generalizing s with
  | zero => exact hk
  | succ n ih =>
    unfold State.issueNext
    dsimp only
    repeat' first
      | with_reducible assumption | with_reducible apply ih | with_reducible apply State.failStep_keeps
      | with_reducible apply State.handOff_keeps
      | with_reducible apply State.dropDescriptor_keeps | with_reducible apply State.latch_keeps | with_reducible apply State.modTile_keeps | split

theorem State.runFire_keeps {s0 s : State} {tid : TileId} (hk : Keeps s0 s) : Keeps s0 (State.runFire s tid) := by
  unfold State.runFire
  with_reducible repeat' first
    | assumption | apply State.modTile_keeps | apply State.modFranking_keeps | apply Keeps.cond | split | (dsimp only; split)
    | fail_if_no_progress refine Keeps.mk' ?_ rfl rfl rfl rfl rfl rfl

theorem State.scanFire_keeps {s0 s : State} {tid : TileId} {k : Nat} (hk : Keeps s0 s) : Keeps s0 (State.scanFire s tid k) := by
  unfold State.scanFire
  with_reducible repeat' first
    | assumption | apply State.modTile_keeps | apply Keeps.cond | split | (dsimp only; split)
    | fail_if_no_progress refine Keeps.mk' ?_ rfl rfl rfl rfl rfl rfl

theorem State.computeSlot_keeps {s0 s : State} {tid : TileId} {n : Nat} (hk : Keeps s0 s) : Keeps s0 (State.computeSlot s tid n).1 := by
  unfold State.computeSlot
  with_reducible repeat' first
    | assumption | apply State.issueNext_keeps | apply Keeps.cond | split | (dsimp only; split)
    | fail_if_no_progress refine Keeps.mk' ?_ rfl rfl rfl rfl rfl rfl

theorem State.spareSlot_keeps {s0 s : State} {tid : TileId} (hk : Keeps s0 s) : Keeps s0 (State.spareSlot s tid) := by
  unfold State.spareSlot
  with_reducible repeat' first
    | assumption | apply State.runFire_keeps | apply State.scanFire_keeps | apply Keeps.cond | split | (dsimp only; split)
    | fail_if_no_progress refine Keeps.mk' ?_ rfl rfl rfl rfl rfl rfl

theorem State.chooseSlot_keeps {s0 s : State} {tid : TileId} {n : Nat} (hk : Keeps s0 s) : Keeps s0 (State.chooseSlot s tid n) := by
  unfold State.chooseSlot
  with_reducible repeat' first
    | assumption | apply State.latch_keeps | apply State.modTile_keeps | apply State.runFire_keeps | apply State.scanFire_keeps
    | apply State.computeSlot_keeps | apply State.spareSlot_keeps | apply Keeps.cond | split | (dsimp only; split)
    | fail_if_no_progress refine Keeps.mk' ?_ rfl rfl rfl rfl rfl rfl

end Sys2Proof.Machine
end

