-- ==== Sys2Proof/Laws/KeepsRounds.lean ====
section
/-! SUPPORT. What the operations and meanings of Machine/Rounds.lean keep. -/

set_option Elab.async false
set_option linter.unusedTactic false
set_option linter.unreachableTactic false
set_option linter.unusedVariables false

namespace Sys2Proof.Machine

theorem State.modEntry_keeps {s0 s : State} {tag : Nat} {i : Nat} {f : EntryWork → EntryWork} (hk : Keeps s0 s) : Keeps s0
    (State.modEntry s tag i f) := by
  unfold State.modEntry
  with_reducible repeat' first
    | assumption | apply State.modStep_keeps

theorem State.closeEntry_keeps {s0 s : State} {tag : Nat} {i : Nat} {status : Nat} {cause : Nat} (hk : Keeps s0 s) : Keeps s0
    (State.closeEntry s tag i status cause) := by
  unfold State.closeEntry
  with_reducible repeat' first
    | assumption | apply State.releaseReserved_keeps | apply State.undoMatch_keeps | apply State.modEntry_keeps
    | apply State.dropTokens_keeps | apply State.modStep_keeps | apply State.selectLast_keeps | apply Keeps.cond | split
    | (dsimp only; split) | fail_if_no_progress refine Keeps.mk' ?_ rfl rfl rfl rfl rfl rfl

theorem State.endEntry_keeps {s0 s : State} {tag : Nat} {i : Nat} {status : Nat} {cause : Nat} (hk : Keeps s0 s) : Keeps s0
    (State.endEntry s tag i status cause) := by
  unfold State.endEntry
  with_reducible repeat' first
    | assumption | apply State.slotFree_keeps | apply State.closeEntry_keeps | apply State.modEntry_keeps | apply Keeps.cond | split
    | (dsimp only; split) | fail_if_no_progress refine Keeps.mk' ?_ rfl rfl rfl rfl rfl rfl

theorem State.exhaustEntry_keeps {s0 s : State} {tag : Nat} {i : Nat} (hk : Keeps s0 s) : Keeps s0 (State.exhaustEntry s tag i) := by
  unfold State.exhaustEntry
  with_reducible repeat' first
    | assumption | apply State.raise_keeps | apply State.endEntry_keeps | split

theorem State.reserveFor_keeps {s0 s : State} {tag : Nat} {i : Nat} {slot : Nat} {ps : List PageNeed} (hk : Keeps s0 s) : Keeps s0
    (State.reserveFor s tag i slot ps).1 := by
  unfold State.reserveFor
  with_reducible repeat' first
    | assumption | apply State.makeRoom_keeps | refine State.reservePages_keeps ?_ (by assumption) | apply State.modEntry_keeps
    | apply State.exhaustEntry_keeps | split | (dsimp only; split)

theorem State.takeChain_keeps {s0 s : State} {slot : Nat} {chain : List Node} (hk : Keeps s0 s) : Keeps s0 (State.takeChain s slot
    chain) := by
  unfold State.takeChain
  with_reducible repeat' first
    | assumption | apply State.setPage_keeps | apply State.modNode_keeps | apply State.modSlot_keeps | apply State.refNode_keeps
    | apply Keeps.cond | refine Keeps.foldl ?_ fun _ _ _ => ?_ | split | (dsimp only; split)
    | fail_if_no_progress refine Keeps.mk' ?_ rfl rfl rfl rfl rfl rfl

theorem State.copyBlock_keeps {s0 s : State} {slot : Nat} {n : Node} {b : Nat} (hk : Keeps s0 s) : Keeps s0 (State.copyBlock s slot
    n b) := by
  unfold State.copyBlock
  with_reducible repeat' first
    | assumption | apply State.modFrame_keeps | refine Keeps.foldl ?_ fun _ _ _ => ?_ | apply Keeps.cond | split

theorem State.matchEntry_keeps {s0 s : State} {tag : Nat} {i : Nat} (hk : Keeps s0 s) : Keeps s0 (State.matchEntry s tag i) := by
  unfold State.matchEntry
  with_reducible repeat' first
    | assumption | apply State.refNode_keeps | apply State.modEntry_keeps | apply State.takeChain_keeps | apply State.reserveFor_keeps
    | apply State.copyBlock_keeps | apply State.startEntry_keeps | apply State.modNode_keeps | apply Keeps.cond | split
    | (dsimp only; split) | fail_if_no_progress refine Keeps.mk' ?_ rfl rfl rfl rfl rfl rfl

theorem State.beginEntry_keeps {s0 s : State} {tag : Nat} {i : Nat} (hk : Keeps s0 s) : Keeps s0 (State.beginEntry s tag i) := by
  unfold State.beginEntry
  with_reducible repeat' first
    | assumption | apply State.reserveFor_keeps | apply State.startEntry_keeps | apply Keeps.cond | split | (dsimp only; split)
    | fail_if_no_progress refine Keeps.mk' ?_ rfl rfl rfl rfl rfl rfl

theorem State.retryStalled_keeps {s0 s : State} (hk : Keeps s0 s) : Keeps s0 (State.retryStalled s) := by
  unfold State.retryStalled
  with_reducible repeat' first
    | assumption | apply State.matchEntry_keeps | apply State.beginEntry_keeps | apply Keeps.cond | refine Keeps.foldl ?_ fun _ _ _ => ?_
    | split | (dsimp only; split) | fail_if_no_progress refine Keeps.mk' ?_ rfl rfl rfl rfl rfl rfl

theorem State.dropDraft_keeps {s0 s : State} {slot : Nat} (hk : Keeps s0 s) : Keeps s0 (State.dropDraft s slot) := by
  unfold State.dropDraft
  with_reducible repeat' first
    | assumption | apply State.clearPages_keeps | apply State.freeFrame_keeps | apply State.modSlot_keeps | apply State.modHeld_keeps
    | apply Keeps.cond | refine Keeps.foldl ?_ fun _ _ _ => ?_ | split | (dsimp only; split)
    | fail_if_no_progress refine Keeps.mk' ?_ rfl rfl rfl rfl rfl rfl

theorem State.matchDraft_keeps {s0 s : State} {slot : Nat} {c : Context} (hk : Keeps s0 s) : Keeps s0 (State.matchDraft s slot c) := by
  unfold State.matchDraft
  with_reducible repeat' first
    | assumption | apply State.dropDraft_keeps | apply State.modSlot_keeps | apply Keeps.cond | split | (dsimp only; split)
    | fail_if_no_progress refine Keeps.mk' ?_ rfl rfl rfl rfl rfl rfl

theorem State.beginRestore_keeps {s0 s : State} {tag : Nat} {i : Nat} {slot : Nat} (hk : Keeps s0 s) : Keeps s0 (State.beginRestore
    s tag i slot) := by
  unfold State.beginRestore
  with_reducible repeat' first
    | assumption | apply State.finishMove_keeps | apply State.dropHeld_keeps | apply State.l2fetch_keeps | apply State.modHeld_keeps
    | apply State.modEntry_keeps | apply Keeps.cond | split | (dsimp only; split)
    | fail_if_no_progress refine Keeps.mk' ?_ rfl rfl rfl rfl rfl rfl

theorem State.claimEntry_keeps {s0 s : State} {tag : Nat} {i : Nat} {c : Context} (hk : Keeps s0 s) : Keeps s0 (State.claimEntry s
    tag i c) := by
  unfold State.claimEntry
  with_reducible repeat' first
    | assumption | apply State.expireHeld_keeps | apply State.endEntry_keeps | apply State.modSlot_keeps | apply State.setSlot_keeps
    | apply State.modEntry_keeps | apply State.beginRestore_keeps | apply State.matchDraft_keeps | apply Keeps.cond | split
    | (dsimp only; split) | fail_if_no_progress refine Keeps.mk' ?_ rfl rfl rfl rfl rfl rfl

theorem State.openJob_keeps {s0 s : State} {c : StepCmd} (hk : Keeps s0 s) : Keeps s0 (State.openJob s c) := by
  unfold State.openJob
  with_reducible repeat' first
    | assumption | apply Keeps.cond | split | (dsimp only; split) | fail_if_no_progress refine Keeps.mk' ?_ rfl rfl rfl rfl rfl rfl

theorem State.pushStep_keeps {s0 s : State} {o : OpenStep} (hk : Keeps s0 s) : Keeps s0 (State.pushStep s o) := by
  unfold State.pushStep
  with_reducible repeat' first
    | assumption | apply Keeps.cond | split | (dsimp only; split) | fail_if_no_progress refine Keeps.mk' ?_ rfl rfl rfl rfl rfl rfl

theorem State.closeRound_keeps {s0 s : State} {q : Queue} {w : Waiting} {c : StepCmd} {ctx : Context} {status : Nat} {detail : Nat} (hk :
    Keeps s0 s) : Keeps s0 (State.closeRound s q w c ctx status detail) := by
  unfold State.closeRound
  with_reducible repeat' first
    | assumption | apply State.endUnbegun_keeps | apply State.pushStep_keeps | apply Keeps.cond | split | (dsimp only; split)
    | fail_if_no_progress refine Keeps.mk' ?_ rfl rfl rfl rfl rfl rfl

theorem State.openStep_keeps {s0 s : State} {q : Queue} {w : Waiting} {c : StepCmd} {ctx : Context} {held : Bool} (hk : Keeps s0 s)
    : Keeps s0 (State.openStep s q w c ctx held) := by
  unfold State.openStep
  with_reducible repeat' first
    | assumption | apply State.modQueue_keeps | apply State.openJob_keeps | apply State.beginEntry_keeps | apply State.claimEntry_keeps
    | apply State.failStep_keeps | apply State.gather_keeps | apply State.pushStep_keeps | apply State.fetchSchedule_keeps
    | apply Keeps.cond | refine Keeps.foldl ?_ fun _ _ _ => ?_ | split | (dsimp only; split)
    | fail_if_no_progress refine Keeps.mk' ?_ rfl rfl rfl rfl rfl rfl

theorem State.asArrived_keeps {s0 s : State} {w : Waiting} (hk : Keeps s0 s) : Keeps s0 (State.asArrived s w) := by
  unfold State.asArrived
  with_reducible repeat' first
    | assumption | apply Keeps.cond | split | (dsimp only; split) | fail_if_no_progress refine Keeps.mk' ?_ rfl rfl rfl rfl rfl rfl

theorem State.round_keeps {s0 s : State} {q : Queue} {w : Waiting} (hk : Keeps s0 s) : Keeps s0 (State.round s q w) := by
  unfold State.round
  with_reducible repeat' first
    | assumption | apply State.modQueue_keeps | apply State.endUnbegun_keeps | apply State.openStep_keeps | apply State.closeRound_keeps
    | apply State.asArrived_keeps | apply Keeps.cond | split | (dsimp only; split)
    | fail_if_no_progress refine Keeps.mk' ?_ rfl rfl rfl rfl rfl rfl

theorem execSortingRound_keeps {s : State} {core : Nat} : Kept s (execSortingRound core s) := by
  unfold execSortingRound
  with_reducible repeat' first
    | assumption | apply Kept.next | apply Kept.fault | apply Kept.cond | exact Keeps.refl _ | apply State.round_keeps
    | apply State.retryStalled_keeps | apply State.wakeP1_keeps | apply Keeps.cond | split | (dsimp only; split)
    | fail_if_no_progress refine Keeps.mk' ?_ rfl rfl rfl rfl rfl rfl

theorem execPrefixMatchDone_keeps {s : State} {stepTag : Nat} {entry : Nat} : Kept s (execPrefixMatchDone stepTag entry s) := by
  unfold execPrefixMatchDone
  with_reducible repeat' first
    | assumption | apply Kept.next | apply Kept.fault | apply Kept.cond | exact Keeps.refl _ | apply State.matchEntry_keeps
    | apply State.scheduleWakes_keeps | apply Keeps.cond | split | (dsimp only; split)
    | fail_if_no_progress refine Keeps.mk' ?_ rfl rfl rfl rfl rfl rfl

theorem State.restorePageOf_keeps {s0 s : State} {slot : Nat} (hk : Keeps s0 s) : Keeps s0 (State.restorePageOf s slot) := by
  unfold State.restorePageOf
  with_reducible repeat' first
    | assumption | apply State.makeRoom_keeps | apply State.modEntry_keeps | apply State.restoreOnePage_keeps
    | apply State.exhaustEntry_keeps | apply State.failStep_keeps | apply Keeps.cond | split | (dsimp only; split)
    | fail_if_no_progress refine Keeps.mk' ?_ rfl rfl rfl rfl rfl rfl

theorem execPageExhaustionTimeout_keeps {s : State} {stepTag : Nat} {entry : Nat} : Kept s (execPageExhaustionTimeout stepTag entry
    s) := by
  unfold execPageExhaustionTimeout
  with_reducible repeat' first
    | assumption | apply Kept.next | apply Kept.fault | exact Keeps.refl _ | apply State.exhaustEntry_keeps | apply State.advanceTo_keeps
    | apply State.restorePageOf_keeps | apply State.retryStalled_keeps | apply Kept.cond | apply Keeps.cond | split | (dsimp only; split)
    | fail_if_no_progress refine Keeps.mk' ?_ rfl rfl rfl rfl rfl rfl

theorem execHeldPageWritten_keeps {s : State} {slot : Nat} : Kept s (execHeldPageWritten slot s) := by
  unfold execHeldPageWritten
  with_reducible repeat' first
    | assumption | apply Kept.next | apply Kept.fault | apply Kept.cond | exact Keeps.refl _ | apply State.retryStalled_keeps
    | apply State.moveOnePage_keeps | apply State.restorePageOf_keeps | apply State.scheduleWakes_keeps | apply Keeps.cond | split
    | (dsimp only; split) | fail_if_no_progress refine Keeps.mk' ?_ rfl rfl rfl rfl rfl rfl

theorem execHeldExpiry_keeps {s : State} {slot : Nat} : Kept s (execHeldExpiry slot s) := by
  unfold execHeldExpiry
  with_reducible repeat' first
    | assumption | apply Kept.next | apply Kept.fault | apply Kept.cond | exact Keeps.refl _ | apply State.retryStalled_keeps
    | apply State.sweep_keeps | apply State.expireHeld_keeps | apply State.counterTo_keeps | apply State.scheduleWakes_keeps
    | apply Keeps.cond | split | (dsimp only; split) | fail_if_no_progress refine Keeps.mk' ?_ rfl rfl rfl rfl rfl rfl

theorem execOrphanSlotMove_keeps {s : State}  : Kept s (execOrphanSlotMove s) := by
  unfold execOrphanSlotMove
  with_reducible repeat' first
    | assumption | apply Kept.next | apply Kept.fault | apply Kept.cond | exact Keeps.refl _ | apply State.tierIdle_keeps
    | apply State.enterP1_keeps | apply Keeps.cond | split | (dsimp only; split)
    | fail_if_no_progress refine Keeps.mk' ?_ rfl rfl rfl rfl rfl rfl | refine Keeps.foldl ?_ fun _ _ _ => ?_

end Sys2Proof.Machine
end

