-- ==== Sys2Proof/Laws/KeepsWeights.lean ====
section
/-! SUPPORT. What the operations and meanings of Machine/Weights.lean keep. -/

set_option Elab.async false
set_option linter.unusedTactic false
set_option linter.unreachableTactic false
set_option linter.unusedVariables false

namespace Sys2Proof.Machine

theorem State.passOn_keeps {s0 s : State} {viaDispatch : Bool} {h : ParcelHdr} {model : Nat} {index : Nat} {off : Nat} {data :
    Bytes} (hk : Keeps s0 s) : Keeps s0 (State.passOn s viaDispatch h model index off data) := by
  unfold State.passOn
  with_reducible repeat' first
    | assumption | apply State.originate_keeps | apply Keeps.cond | refine Keeps.foldl ?_ fun _ _ _ => ?_ | split | (dsimp only; split)
    | fail_if_no_progress refine Keeps.mk' ?_ rfl rfl rfl rfl rfl rfl

theorem State.dropAssembly_keeps {s0 s : State} {model : Nat} {index : Nat} (hk : Keeps s0 s) : Keeps s0 (State.dropAssembly s
    model index) := by
  unfold State.dropAssembly
  with_reducible repeat' first
    | assumption | fail_if_no_progress refine Keeps.mk' ?_ rfl rfl rfl rfl rfl rfl

theorem State.tornParcel_keeps {s0 s : State} {model : Nat} {index : Nat} {off : Nat} {data : Bytes} (hk : Keeps s0 s) : Keeps s0
    (State.tornParcel s model index off data) := by
  unfold State.tornParcel
  with_reducible repeat' first
    | assumption | apply Keeps.cond | split | (dsimp only; split) | fail_if_no_progress refine Keeps.mk' ?_ rfl rfl rfl rfl rfl rfl

theorem State.parcelData_keeps {s0 s : State} {viaDispatch : Bool} {model : Nat} {index : Nat} {off : Nat} {data : Bytes} (hk :
    Keeps s0 s) : Keeps s0 (State.parcelData s viaDispatch model index off data) := by
  unfold State.parcelData
  with_reducible repeat' first
    | assumption | apply State.passOn_keeps | apply State.dropAssembly_keeps | apply Keeps.cond | refine Keeps.foldl ?_ fun _ _ _ => ?_
    | split | (dsimp only; split) | fail_if_no_progress refine Keeps.mk' ?_ rfl rfl rfl rfl rfl rfl

theorem State.parcelStatus_keeps {s0 s : State} {model : Nat} {index : Nat} {status : Nat} (hk : Keeps s0 s) : Keeps s0
    (State.parcelStatus s model index status) := by
  unfold State.parcelStatus
  with_reducible repeat' first
    | assumption | apply State.async_keeps

theorem State.acceptParcel_keeps {s0 s : State} {h : ParcelHdr} {b : Bytes} (hk : Keeps s0 s) : Keeps s0 (State.acceptParcel s h b) := by
  unfold State.acceptParcel
  with_reducible repeat' first
    | assumption | apply State.modDir_keeps | apply State.placeTargets_keeps | apply State.renewLists_keeps | apply Keeps.cond
    | refine Keeps.foldl ?_ fun _ _ _ => ?_ | split | (dsimp only; split) | fail_if_no_progress refine Keeps.mk' ?_ rfl rfl rfl rfl rfl rfl

theorem execParcelAcceptance_keeps {s : State} {model : Nat} {index : Nat} : Kept s (execParcelAcceptance model index s) := by
  unfold execParcelAcceptance
  with_reducible repeat' first
    | assumption | apply Kept.next | apply Kept.fault | apply Kept.cond | exact Keeps.refl _ | apply State.dropAssembly_keeps
    | apply State.parcelStatus_keeps | apply State.acceptParcel_keeps | apply Keeps.cond | split

theorem execParcelIncompleteTimeout_keeps {s : State} {model : Nat} {index : Nat} : Kept s (execParcelIncompleteTimeout model index
    s) := by
  unfold execParcelIncompleteTimeout
  with_reducible repeat' first
    | assumption | apply Kept.next | apply Kept.fault | apply Kept.cond | exact Keeps.refl _ | apply State.dropAssembly_keeps
    | apply State.advanceTo_keeps | apply State.parcelStatus_keeps | apply Keeps.cond | split | (dsimp only; split)
    | fail_if_no_progress refine Keeps.mk' ?_ rfl rfl rfl rfl rfl rfl

theorem State.setRecord_keeps {s0 s : State} {a : ArrId} {r : CodeRecord} (hk : Keeps s0 s) : Keeps s0 (State.setRecord s a r) := by
  unfold State.setRecord
  with_reducible repeat' first
    | assumption | apply State.renewLists_keeps | apply Keeps.cond | split | (dsimp only; split)
    | fail_if_no_progress refine Keeps.mk' ?_ rfl rfl rfl rfl rfl rfl

theorem State.dropRecord_keeps {s0 s : State} {a : ArrId} (hk : Keeps s0 s) : Keeps s0 (State.dropRecord s a) := by
  unfold State.dropRecord
  with_reducible repeat' first
    | assumption | apply State.renewLists_keeps | apply Keeps.cond | split | (dsimp only; split)
    | fail_if_no_progress refine Keeps.mk' ?_ rfl rfl rfl rfl rfl rfl

theorem State.outOfService_keeps {s0 s : State} {a : ArrId} (hk : Keeps s0 s) : Keeps s0 (State.outOfService s a) := by
  unfold State.outOfService
  with_reducible repeat' first
    | assumption | apply State.modDir_keeps | apply State.modTile_keeps | apply State.discardRun_keeps | apply State.dropRun_keeps
    | apply State.programUnderCover_keeps | apply State.askRewrite_keeps | apply Keeps.cond | split | (dsimp only; split)
    | fail_if_no_progress refine Keeps.mk' ?_ rfl rfl rfl rfl rfl rfl

theorem State.startScan_keeps {s0 s : State} {a : ArrId} (hk : Keeps s0 s) : Keeps s0 (State.startScan s a) := by
  unfold State.startScan
  with_reducible repeat' first
    | assumption | apply State.modTile_keeps | apply Keeps.cond | split | (dsimp only; split)
    | fail_if_no_progress refine Keeps.mk' ?_ rfl rfl rfl rfl rfl rfl

theorem State.queueProgram_keeps {s0 s : State} {a : ArrId} (hk : Keeps s0 s) : Keeps s0 (State.queueProgram s a) := by
  unfold State.queueProgram
  with_reducible repeat' first
    | assumption | apply State.modTile_keeps | apply Keeps.cond | split | (dsimp only; split)
    | fail_if_no_progress refine Keeps.mk' ?_ rfl rfl rfl rfl rfl rfl

theorem State.bindArray_keeps {s0 s : State} {a : ArrId} (hk : Keeps s0 s) : Keeps s0 (State.bindArray s a) := by
  unfold State.bindArray
  with_reducible repeat' first
    | assumption | apply State.modDir_keeps | apply State.queueProgram_keeps | apply State.requestCal_keeps | apply State.startScan_keeps
    | apply Keeps.cond | split | (dsimp only; split) | fail_if_no_progress refine Keeps.mk' ?_ rfl rfl rfl rfl rfl rfl

theorem execRecordBuilt_keeps {s : State} {a : ArrId} : Kept s (execRecordBuilt a s) := by
  unfold execRecordBuilt
  with_reducible repeat' first
    | assumption | apply Kept.next | apply Kept.fault | apply Kept.cond | exact Keeps.refl _ | apply State.setRecord_keeps
    | apply State.modTile_keeps | apply State.startScan_keeps | apply State.modDir_keeps | apply State.outOfService_keeps
    | apply State.requestCal_keeps | apply State.bindArray_keeps | apply State.queueProgram_keeps | apply Keeps.cond | split
    | (dsimp only; split) | fail_if_no_progress refine Keeps.mk' ?_ rfl rfl rfl rfl rfl rfl

theorem State.beginProgram_keeps {s0 s : State} {t : TileId} {p : Program} (hk : Keeps s0 s) : Keeps s0 (State.beginProgram s t p) := by
  unfold State.beginProgram
  with_reducible repeat' first
    | assumption | apply State.modDir_keeps | apply State.modTile_keeps | apply State.raise_keeps | apply Keeps.cond | split
    | (dsimp only; split) | fail_if_no_progress refine Keeps.mk' ?_ rfl rfl rfl rfl rfl rfl

theorem State.rewritePlace_keeps {s0 s : State} {die : Nat} (hk : Keeps s0 s) : Keeps s0 (State.rewritePlace s die) := by
  unfold State.rewritePlace
  with_reducible repeat' first
    | assumption | apply State.modTile_keeps | apply Keeps.cond | split

theorem State.takeDriver_keeps {s0 s : State} {t : TileId} {p : Program} (hk : Keeps s0 s) : Keeps s0 (State.takeDriver s t p) := by
  unfold State.takeDriver
  with_reducible repeat' first
    | assumption | apply State.beginProgram_keeps | apply State.discardRun_keeps | apply State.modTile_keeps | apply Keeps.cond | split
    | (dsimp only; split) | fail_if_no_progress refine Keeps.mk' ?_ rfl rfl rfl rfl rfl rfl

theorem execProgramStart_keeps {s : State} {t : TileId} : Kept s (execProgramStart t s) := by
  unfold execProgramStart
  with_reducible repeat' first
    | assumption | apply Kept.next | apply Kept.fault | apply Kept.cond | exact Keeps.refl _ | apply State.rewritePlace_keeps
    | apply State.takeDriver_keeps | apply Keeps.cond | split | (dsimp only; split)
    | fail_if_no_progress refine Keeps.mk' ?_ rfl rfl rfl rfl rfl rfl

theorem State.yieldLoad_keeps {s0 s : State} {t : TileId} {p : Program} (hk : Keeps s0 s) : Keeps s0 (State.yieldLoad s t p) := by
  unfold State.yieldLoad
  with_reducible repeat' first
    | assumption | apply State.takeDriver_keeps | apply Keeps.cond | split | (dsimp only; split)
    | fail_if_no_progress refine Keeps.mk' ?_ rfl rfl rfl rfl rfl rfl

theorem execProgramRowEnd_keeps {s : State} {t : TileId} : Kept s (execProgramRowEnd t s) := by
  unfold execProgramRowEnd
  with_reducible repeat' first
    | assumption | apply Kept.next | apply Kept.fault | apply Kept.cond | exact Keeps.refl _ | apply State.yieldLoad_keeps
    | apply State.modTile_keeps | apply Keeps.cond | split | (dsimp only; split)
    | fail_if_no_progress refine Keeps.mk' ?_ rfl rfl rfl rfl rfl rfl

theorem State.goOn_keeps {s0 s : State} {t : TileId} {p : Program} (hk : Keeps s0 s) : Keeps s0 (State.goOn s t p) := by
  unfold State.goOn
  with_reducible repeat' first
    | assumption | apply State.beginProgram_keeps | apply State.modTile_keeps | apply Keeps.cond | split | (dsimp only; split)
    | fail_if_no_progress refine Keeps.mk' ?_ rfl rfl rfl rfl rfl rfl

theorem execProgramResume_keeps {s : State} {t : TileId} : Kept s (execProgramResume t s) := by
  unfold execProgramResume
  with_reducible repeat' first
    | assumption | apply Kept.next | apply Kept.fault | apply Kept.cond | exact Keeps.refl _ | apply State.goOn_keeps | apply Keeps.cond
    | split | (dsimp only; split) | fail_if_no_progress refine Keeps.mk' ?_ rfl rfl rfl rfl rfl rfl

theorem execProgrammingDeferred_keeps {s : State} {t : TileId} : Kept s (execProgrammingDeferred t s) := by
  unfold execProgrammingDeferred
  with_reducible repeat' first
    | assumption | apply Kept.next | apply Kept.fault | apply Kept.cond | exact Keeps.refl _ | apply State.advanceTo_keeps
    | apply State.raise_keeps | apply State.modTile_keeps | apply Keeps.cond | split

theorem State.programWritten_keeps {s0 s : State} {t : TileId} {p : Program} (hk : Keeps s0 s) : Keeps s0 (State.programWritten s t
    p) := by
  unfold State.programWritten
  with_reducible repeat' first
    | assumption | apply State.modDir_keeps | apply Keeps.cond | split | (dsimp only; split)
    | fail_if_no_progress refine Keeps.mk' ?_ rfl rfl rfl rfl rfl rfl

theorem State.driverFree_keeps {s0 s : State} {t : TileId} (hk : Keeps s0 s) : Keeps s0 (State.driverFree s t) := by
  unfold State.driverFree
  with_reducible repeat' first
    | assumption | apply State.modTile_keeps | apply Keeps.cond | split | (dsimp only; split)
    | fail_if_no_progress refine Keeps.mk' ?_ rfl rfl rfl rfl rfl rfl

theorem State.repeatProgram_keeps {s0 s : State} {t : TileId} {p : Program} (hk : Keeps s0 s) : Keeps s0 (State.repeatProgram s t p) := by
  unfold State.repeatProgram
  with_reducible repeat' first
    | assumption | apply State.beginProgram_keeps | apply State.modTile_keeps | apply Keeps.cond | split | (dsimp only; split)
    | fail_if_no_progress refine Keeps.mk' ?_ rfl rfl rfl rfl rfl rfl

theorem State.programFails_keeps {s0 s : State} {t : TileId} {p : Program} (hk : Keeps s0 s) : Keeps s0 (State.programFails s t p) := by
  unfold State.programFails
  with_reducible repeat' first
    | assumption | apply State.drain_keeps | apply State.driverFree_keeps | apply Keeps.cond | split | (dsimp only; split)
    | fail_if_no_progress refine Keeps.mk' ?_ rfl rfl rfl rfl rfl rfl

theorem execProgramComplete_keeps {s : State} {t : TileId} {ok : Bool} : Kept s (execProgramComplete t ok s) := by
  unfold execProgramComplete
  with_reducible repeat' first
    | assumption | apply Kept.next | apply Kept.fault | apply Kept.cond | exact Keeps.refl _ | apply State.tryEntry_keeps
    | apply State.programWritten_keeps | apply State.modTile_keeps | apply State.programFails_keeps | apply State.driverFree_keeps
    | apply State.repeatProgram_keeps | apply State.active_keeps | apply Keeps.cond | split | (dsimp only; split)
    | fail_if_no_progress refine Keeps.mk' ?_ rfl rfl rfl rfl rfl rfl

theorem State.askSpare_keeps {s0 s : State} {t : TileId} (hk : Keeps s0 s) : Keeps s0 (State.askSpare s t) := by
  unfold State.askSpare
  with_reducible repeat' first
    | assumption | apply State.requestCal_keeps | apply Keeps.cond

theorem State.spareReady_keeps {s0 s : State} {t : TileId} {k : Nat} (hk : Keeps s0 s) : Keeps s0 (State.spareReady s t k) := by
  unfold State.spareReady
  with_reducible repeat' first
    | assumption | apply State.modTile_keeps | apply State.askSpare_keeps | apply Keeps.cond

theorem State.loadSpare_keeps {s0 s : State} {t : TileId} {k : Nat} (hk : Keeps s0 s) : Keeps s0 (State.loadSpare s t k) := by
  unfold State.loadSpare
  with_reducible repeat' first
    | assumption | apply State.modDir_keeps | apply State.modTile_keeps | apply Keeps.cond | split | (dsimp only; split)
    | fail_if_no_progress refine Keeps.mk' ?_ rfl rfl rfl rfl rfl rfl

theorem State.claimSpare_keeps {s0 s : State} {t : TileId} {kind : ClaimKind} {k : Nat} (hk : Keeps s0 s) : Keeps s0
    (State.claimSpare s t kind k) := by
  unfold State.claimSpare
  with_reducible repeat' first
    | assumption | apply State.modTile_keeps | apply State.spareReady_keeps | apply State.loadSpare_keeps | apply Keeps.cond | split
    | (dsimp only; split) | fail_if_no_progress refine Keeps.mk' ?_ rfl rfl rfl rfl rfl rfl

theorem State.retireSpare_keeps {s0 s : State} {t : TileId} (hk : Keeps s0 s) : Keeps s0 (State.retireSpare s t) := by
  unfold State.retireSpare
  with_reducible repeat' first
    | assumption | apply State.modDir_keeps | apply State.endClaim_keeps | apply State.idleSpare_keeps | apply Keeps.cond | split
    | (dsimp only; split) | fail_if_no_progress refine Keeps.mk' ?_ rfl rfl rfl rfl rfl rfl

theorem State.spareSettled_keeps {s0 s : State} {t : TileId} {k : Nat} {calRecord : Bool} (hk : Keeps s0 s) : Keeps s0
    (State.spareSettled s t k calRecord) := by
  unfold State.spareSettled
  with_reducible repeat' first
    | assumption | apply State.zeroDrift_keeps | apply State.modDir_keeps | apply State.spareReady_keeps | apply State.modTile_keeps
    | apply State.idleSpare_keeps | apply State.loadSpare_keeps | apply Keeps.cond | split | (dsimp only; split)
    | fail_if_no_progress refine Keeps.mk' ?_ rfl rfl rfl rfl rfl rfl

theorem State.askIfUnsound_keeps {s0 s : State} {a : ArrId} (hk : Keeps s0 s) : Keeps s0 (State.askIfUnsound s a) := by
  unfold State.askIfUnsound
  with_reducible repeat' first
    | assumption | apply State.requestCal_keeps | apply Keeps.cond | split | (dsimp only; split)
    | fail_if_no_progress refine Keeps.mk' ?_ rfl rfl rfl rfl rfl rfl

theorem State.recordLost_keeps {s0 s : State} {a : ArrId} (hk : Keeps s0 s) : Keeps s0 (State.recordLost s a) := by
  unfold State.recordLost
  with_reducible repeat' first
    | assumption | apply State.outOfService_keeps | apply Keeps.cond | split | (dsimp only; split)
    | fail_if_no_progress refine Keeps.mk' ?_ rfl rfl rfl rfl rfl rfl

theorem State.arraySettled_keeps {s0 s : State} {t : TileId} {k : Nat} (hk : Keeps s0 s) : Keeps s0 (State.arraySettled s t k) := by
  unfold State.arraySettled
  with_reducible repeat' first
    | assumption | apply State.modDir_keeps | apply State.askIfUnsound_keeps | apply State.zeroDrift_keeps | apply State.modTile_keeps
    | apply State.recordLost_keeps | apply Keeps.cond | split | (dsimp only; split)
    | fail_if_no_progress refine Keeps.mk' ?_ rfl rfl rfl rfl rfl rfl

theorem execSettlingDone_keeps {s : State} {t : TileId} : Kept s (execSettlingDone t s) := by
  unfold execSettlingDone
  with_reducible repeat' first
    | assumption | apply Kept.next | apply Kept.fault | apply Kept.cond | exact Keeps.refl _ | apply State.modTile_keeps
    | apply State.spareSettled_keeps | apply State.arraySettled_keeps | apply State.tryEntry_keeps | apply State.retireSpare_keeps
    | apply Keeps.cond | split | (dsimp only; split) | fail_if_no_progress refine Keeps.mk' ?_ rfl rfl rfl rfl rfl rfl

theorem execRewriteStart_keeps {s : State} {a : ArrId} : Kept s (execRewriteStart a s) := by
  unfold execRewriteStart
  with_reducible repeat' first
    | assumption | apply Kept.next | apply Kept.fault | apply Kept.cond | exact Keeps.refl _ | apply State.claimSpare_keeps
    | apply State.programUnderCover_keeps | apply Keeps.cond | split | (dsimp only; split)
    | fail_if_no_progress refine Keeps.mk' ?_ rfl rfl rfl rfl rfl rfl

theorem execDirectRewriteStart_keeps {s : State} {a : ArrId} : Kept s (execDirectRewriteStart a s) := by
  unfold execDirectRewriteStart
  with_reducible repeat' first
    | assumption | apply Kept.next | apply Kept.fault | apply Kept.cond | exact Keeps.refl _ | apply State.modDir_keeps
    | apply State.rewritePlace_keeps | apply State.modTile_keeps | apply State.endClaim_keeps | apply State.takeDriver_keeps
    | apply Keeps.cond | split | (dsimp only; split) | fail_if_no_progress refine Keeps.mk' ?_ rfl rfl rfl rfl rfl rfl

theorem execVerifyScanDue_keeps {s : State} {a : ArrId} : Kept s (execVerifyScanDue a s) := by
  unfold execVerifyScanDue
  with_reducible repeat' first
    | assumption | apply Kept.next | apply Kept.fault | apply Kept.cond | exact Keeps.refl _ | apply State.wakeForTask_keeps
    | apply State.startScan_keeps | apply Keeps.cond | split | (dsimp only; split)
    | fail_if_no_progress refine Keeps.mk' ?_ rfl rfl rfl rfl rfl rfl

theorem State.spareFails_keeps {s0 s : State} {t : TileId} (hk : Keeps s0 s) : Keeps s0 (State.spareFails s t) := by
  unfold State.spareFails
  with_reducible repeat' first
    | assumption | apply State.dropRun_keeps | apply State.endClaim_keeps | apply State.idleSpare_keeps | apply State.loadSpare_keeps
    | apply State.modDir_keeps | apply Keeps.cond | split | (dsimp only; split)
    | fail_if_no_progress refine Keeps.mk' ?_ rfl rfl rfl rfl rfl rfl

theorem State.readBackFails_keeps {s0 s : State} {a : ArrId} {cells : Nat} (hk : Keeps s0 s) : Keeps s0 (State.readBackFails s a
    cells) := by
  unfold State.readBackFails
  with_reducible repeat' first
    | assumption | apply State.raise_keeps | apply State.outOfService_keeps | apply State.spareFails_keeps | apply State.modDir_keeps
    | apply State.queueProgram_keeps | apply Keeps.cond | split | (dsimp only; split)
    | fail_if_no_progress refine Keeps.mk' ?_ rfl rfl rfl rfl rfl rfl

theorem execVerifyScanDone_keeps {s : State} {a : ArrId} {raw : List (List (List Int))} : Kept s (execVerifyScanDone a raw s) := by
  unfold execVerifyScanDone
  with_reducible repeat' first
    | assumption | apply Kept.next | apply Kept.fault | apply Kept.cond | exact Keeps.refl _ | apply State.modTile_keeps
    | refine State.withSet_keeps ?_ (fun _ _ => ?_) | apply State.setDrift_keeps | apply State.readBackFails_keeps
    | apply State.askIfUnsound_keeps | apply State.modDir_keeps | apply State.nextDraw_keeps | apply State.active_keeps | apply Keeps.cond
    | split | (dsimp only; split) | fail_if_no_progress refine Keeps.mk' ?_ rfl rfl rfl rfl rfl rfl

theorem execDriftOutOfService_keeps {s : State} {a : ArrId} : Kept s (execDriftOutOfService a s) := by
  unfold execDriftOutOfService
  with_reducible repeat' first
    | assumption | apply Kept.next | apply Kept.fault | apply Kept.cond | exact Keeps.refl _ | apply State.outOfService_keeps
    | apply State.raise_keeps | apply State.spareFails_keeps | apply Keeps.cond | split | (dsimp only; split)
    | fail_if_no_progress refine Keeps.mk' ?_ rfl rfl rfl rfl rfl rfl

theorem State.invalidateMaster_keeps {s0 s : State} {model : Nat} {index : Nat} (hk : Keeps s0 s) : Keeps s0
    (State.invalidateMaster s model index) := by
  unfold State.invalidateMaster
  with_reducible repeat' first
    | assumption | apply State.async_keeps | apply Keeps.cond | fail_if_no_progress refine Keeps.mk' ?_ rfl rfl rfl rfl rfl rfl | split

theorem State.rebuildRecord_keeps {s0 s : State} {a : ArrId} (hk : Keeps s0 s) : Keeps s0 (State.rebuildRecord s a) := by
  unfold State.rebuildRecord
  with_reducible repeat' first
    | assumption | apply State.setRecord_keeps | apply State.outOfService_keeps | apply State.invalidateMaster_keeps
    | apply State.dropRecord_keeps | apply Keeps.cond | split | (dsimp only; split)
    | fail_if_no_progress refine Keeps.mk' ?_ rfl rfl rfl rfl rfl rfl

theorem execRedigest_keeps {s : State} {masters : List (Nat × Nat)} {records : List ArrId} : Kept s (execRedigest masters records s) := by
  unfold execRedigest
  with_reducible repeat' first
    | assumption | apply Kept.next | apply Kept.fault | apply Kept.cond | exact Keeps.refl _ | apply State.wakeForTask_keeps
    | apply State.rebuildRecord_keeps | apply State.invalidateMaster_keeps | refine Keeps.foldl ?_ fun _ _ _ => ?_

theorem State.refreshTile_keeps {s0 s : State} {t : TileId} (hk : Keeps s0 s) : Keeps s0 (s.refreshTile t) :=
  Keeps.foldl hk fun _ _ h => State.withSet_keeps h fun _ g => g

theorem execInterpolationCheck_keeps {s : State} {die : Nat} {region : Nat} : Kept s (execInterpolationCheck die region s) := by
  unfold execInterpolationCheck
  with_reducible repeat' first
    | assumption | apply Kept.next | apply Kept.fault | apply Kept.cond | exact Keeps.refl _ | apply State.setRegion_keeps
    | apply State.modRegion_keeps | apply State.refreshTile_keeps | refine Keeps.foldl ?_ fun _ _ _ => ?_ | apply Keeps.cond | split

end Sys2Proof.Machine
end

