-- ==== Sys2Proof/Laws/KeepsCalibrate.lean ====
section
/-! SUPPORT. What the operations and meanings of Machine/Calibrate.lean keep. -/

set_option Elab.async false
set_option linter.unusedTactic false
set_option linter.unreachableTactic false
set_option linter.unusedVariables false

namespace Sys2Proof.Machine

theorem State.dropStaleClaim_keeps {s0 s : State} {t : TileId} (hk : Keeps s0 s) : Keeps s0 (State.dropStaleClaim s t) := by
  unfold State.dropStaleClaim
  with_reducible repeat' first
    | assumption | apply State.endClaim_keeps | apply Keeps.cond | split | (dsimp only; split)
    | fail_if_no_progress refine Keeps.mk' ?_ rfl rfl rfl rfl rfl rfl

theorem State.claimForRun_keeps {s0 s : State} {t : TileId} (hk : Keeps s0 s) : Keeps s0 (State.claimForRun s t) := by
  unfold State.claimForRun
  with_reducible repeat' first
    | assumption | apply State.claimSpare_keeps | apply Keeps.cond | split | (dsimp only; split)
    | fail_if_no_progress refine Keeps.mk' ?_ rfl rfl rfl rfl rfl rfl

theorem State.queueCalRecords_keeps {s0 s : State} {t : TileId} (hk : Keeps s0 s) : Keeps s0 (State.queueCalRecords s t) := by
  unfold State.queueCalRecords
  with_reducible repeat' first
    | assumption | apply State.modTile_keeps

theorem State.startRun_keeps {s0 s : State} {t : TileId} {r : CalRequest} (hk : Keeps s0 s) : Keeps s0 (State.startRun s t r) := by
  unfold State.startRun
  with_reducible repeat' first
    | assumption | apply State.modTile_keeps | apply Keeps.cond | split | (dsimp only; split)
    | fail_if_no_progress refine Keeps.mk' ?_ rfl rfl rfl rfl rfl rfl

theorem execCalibrationRunStart_keeps {s : State} {t : TileId} : Kept s (execCalibrationRunStart t s) := by
  unfold execCalibrationRunStart
  with_reducible repeat' first
    | assumption | apply Kept.next | apply Kept.fault | apply Kept.cond | exact Keeps.refl _ | apply State.queueCalRecords_keeps
    | apply State.claimForRun_keeps | apply State.startRun_keeps | apply State.dropStaleClaim_keeps | apply State.wakeForTask_keeps
    | apply Keeps.cond | split | (dsimp only; split) | fail_if_no_progress refine Keeps.mk' ?_ rfl rfl rfl rfl rfl rfl

theorem State.setTileRecord_keeps {s0 s : State} {r : TileRecord} (hk : Keeps s0 s) : Keeps s0 (State.setTileRecord s r) := by
  unfold State.setTileRecord
  with_reducible repeat' first
    | assumption | fail_if_no_progress refine Keeps.mk' ?_ rfl rfl rfl rfl rfl rfl

theorem State.spareCalibrated_keeps {s0 s : State} {t : TileId} (hk : Keeps s0 s) : Keeps s0 (State.spareCalibrated s t) := by
  unfold State.spareCalibrated
  with_reducible repeat' first
    | assumption | apply State.spareReady_keeps | apply Keeps.cond | split

theorem State.runSucceeds_keeps {s0 s : State} {t : TileId} {r : CalRun} {anchor : Anchor} {shape : List Anchor} (hk : Keeps s0 s)
    : Keeps s0 (State.runSucceeds s t r anchor shape) := by
  unfold State.runSucceeds
  with_reducible repeat' first
    | assumption | refine State.withSet_keeps ?_ (fun _ _ => ?_) | apply State.setFranking_keeps | apply State.setTileRecord_keeps
    | apply State.modTile_keeps | apply State.startScan_keeps | apply State.spareCalibrated_keeps | apply Keeps.cond | split
    | (dsimp only; split) | fail_if_no_progress refine Keeps.mk' ?_ rfl rfl rfl rfl rfl rfl

theorem State.promote_keeps {s0 s : State} {a : ArrId} (hk : Keeps s0 s) : Keeps s0 (State.promote s a) := by
  unfold State.promote
  with_reducible repeat' first
    | assumption | apply State.modTile_keeps | apply Keeps.cond | split | (dsimp only; split)
    | fail_if_no_progress refine Keeps.mk' ?_ rfl rfl rfl rfl rfl rfl

theorem State.runFailed_keeps {s0 s : State} {a : ArrId} (hk : Keeps s0 s) : Keeps s0 (State.runFailed s a) := by
  unfold State.runFailed
  with_reducible repeat' first
    | assumption | apply State.askIfUnsound_keeps | apply State.raise_keeps | apply Keeps.cond | split | (dsimp only; split)
    | fail_if_no_progress refine Keeps.mk' ?_ rfl rfl rfl rfl rfl rfl

theorem State.runFails_keeps {s0 s : State} {t : TileId} {r : CalRun} (hk : Keeps s0 s) : Keeps s0 (State.runFails s t r) := by
  unfold State.runFails
  with_reducible repeat' first
    | assumption | apply State.modFranking_keeps | apply State.modTile_keeps | apply State.drain_keeps | apply State.raise_keeps
    | apply State.askIfUnsound_keeps | apply State.promote_keeps | apply State.runFailed_keeps | apply Keeps.cond | split
    | (dsimp only; split) | fail_if_no_progress refine Keeps.mk' ?_ rfl rfl rfl rfl rfl rfl

theorem execCalibrationFitDone_keeps {s : State} {t : TileId} {raw : List (List Int)} {overRange : Bool} : Kept s
    (execCalibrationFitDone t raw overRange s) := by
  unfold execCalibrationFitDone
  with_reducible repeat' first
    | assumption | apply Kept.next | apply Kept.fault | apply Kept.cond | exact Keeps.refl _ | apply State.runFails_keeps
    | apply State.runSucceeds_keeps | apply State.active_keeps | apply Keeps.cond | split | (dsimp only; split)
    | fail_if_no_progress refine Keeps.mk' ?_ rfl rfl rfl rfl rfl rfl

theorem State.afterCal_keeps {s0 s : State} {a : ArrId} {n : Nat} (hk : Keeps s0 s) : Keeps s0 (State.afterCal s a n) := by
  unfold State.afterCal
  with_reducible repeat' first
    | assumption | apply State.counterTo_keeps | apply Keeps.cond | split

theorem execCalibrationAgeTimer_keeps {s : State} {a : ArrId} : Kept s (execCalibrationAgeTimer a s) := by
  unfold execCalibrationAgeTimer
  with_reducible repeat' first
    | assumption | apply Kept.next | apply Kept.fault | apply Kept.cond | exact Keeps.refl _ | apply State.requestCal_keeps
    | apply State.afterCal_keeps | apply Keeps.cond | split | (dsimp only; split)
    | fail_if_no_progress refine Keeps.mk' ?_ rfl rfl rfl rfl rfl rfl

theorem execCalibrationExpiry_keeps {s : State} {a : ArrId} : Kept s (execCalibrationExpiry a s) := by
  unfold execCalibrationExpiry
  with_reducible repeat' first
    | assumption | apply Kept.next | apply Kept.fault | apply Kept.cond | exact Keeps.refl _ | apply State.askIfUnsound_keeps
    | apply State.afterCal_keeps | apply State.promote_keeps | apply Keeps.cond | split | (dsimp only; split)
    | fail_if_no_progress refine Keeps.mk' ?_ rfl rfl rfl rfl rfl rfl

theorem State.beginTraceAll_keeps {s0 s : State} (hk : Keeps s0 s) : Keeps s0 (State.beginTraceAll s) := by
  unfold State.beginTraceAll
  with_reducible repeat' first
    | assumption | apply State.modAdc_keeps | refine Keeps.foldl ?_ fun _ _ _ => ?_

theorem State.startTrace_keeps {s0 s : State} (hk : Keeps s0 s) : Keeps s0 (State.startTrace s) := by
  unfold State.startTrace
  with_reducible repeat' first
    | assumption | apply State.beginTraceAll_keeps | fail_if_no_progress refine Keeps.mk' ?_ rfl rfl rfl rfl rfl rfl

theorem State.hourAfterTrace_keeps {s0 s : State} (hk : Keeps s0 s) {t : State} (e : s.hourAfterTrace = some t) : Keeps s0 t := by
  unfold State.hourAfterTrace at e
  split at e
  · cases e; exact State.counterTo_keeps hk
  · cases e

theorem execTraceTimer_keeps {s : State} : Kept s (execTraceTimer s) := by
  unfold execTraceTimer
  dsimp only
  split
  · exact Kept.next (Keeps.refl _)
  · rename_i s1 h
    have k : Keeps s s1 := by
      split at h
      · cases h; exact Keeps.refl _
      · exact State.hourAfterTrace_keeps (Keeps.refl _) h
    exact Kept.next (Keeps.ifs (fun _ => State.startTrace_keeps (State.wakeForTask_keeps k)) fun _ => State.wakeForTask_keeps k)

theorem State.trimRequests_keeps {s0 s : State} {die : Nat} {new : Int × Int} (hk : Keeps s0 s) : Keeps s0 (State.trimRequests s
    die new) := by
  unfold State.trimRequests
  with_reducible repeat' first
    | assumption | apply State.requestCal_keeps | apply Keeps.cond | refine Keeps.foldl ?_ fun _ _ _ => ?_ | split | (dsimp only; split)
    | fail_if_no_progress refine Keeps.mk' ?_ rfl rfl rfl rfl rfl rfl

theorem State.tracePasses_keeps {s0 s : State} {refin : List Nat} {ladder : List Nat} {vcref : List Nat} (hk : Keeps s0 s) : Keeps
    s0 (State.tracePasses s refin ladder vcref) := by
  unfold State.tracePasses
  with_reducible repeat' first
    | assumption | apply State.trimRequests_keeps | apply Keeps.cond | refine Keeps.foldl ?_ fun _ _ _ => ?_ | split | (dsimp only; split)
    | fail_if_no_progress refine Keeps.mk' ?_ rfl rfl rfl rfl rfl rfl

theorem State.traceEnds_keeps {s0 s : State} {refin : List Nat} (hk : Keeps s0 s) : Keeps s0 (State.traceEnds s refin) := by
  unfold State.traceEnds
  with_reducible repeat' first
    | assumption | apply State.endTraceAll_keeps | apply Keeps.cond | split | (dsimp only; split)
    | fail_if_no_progress refine Keeps.mk' ?_ rfl rfl rfl rfl rfl rfl

theorem execTraceDone_keeps {s : State} {refin : List Nat} {ladder : List Nat} {vcref : List Nat} : Kept s (execTraceDone refin
    ladder vcref s) := by
  unfold execTraceDone
  with_reducible repeat' first
    | assumption | apply Kept.next | apply Kept.fault | apply Kept.cond | exact Keeps.refl _ | apply State.tracePasses_keeps
    | apply State.raise_keeps | apply State.traceEnds_keeps | apply Keeps.cond | split | (dsimp only; split)
    | fail_if_no_progress refine Keeps.mk' ?_ rfl rfl rfl rfl rfl rfl

theorem execReferenceUntraced_keeps {s : State}  : Kept s (execReferenceUntraced s) := by
  unfold execReferenceUntraced
  with_reducible repeat' first
    | assumption | apply Kept.next | apply Kept.fault | apply Kept.cond | exact Keeps.refl _ | apply State.counterTo_keeps
    | apply State.raise_keeps | apply Keeps.cond | fail_if_no_progress refine Keeps.mk' ?_ rfl rfl rfl rfl rfl rfl | split

theorem State.firstWarnings_keeps {s0 s : State} {before : State} {keep : ArrId → Bool} (hk : Keeps s0 s) : Keeps s0 (State.firstWarnings
    s before keep) := by
  unfold State.firstWarnings
  with_reducible repeat' first
    | assumption | apply State.raise_keeps | apply Keeps.cond | refine Keeps.foldl ?_ fun _ _ _ => ?_ | split | (dsimp only; split)
    | fail_if_no_progress refine Keeps.mk' ?_ rfl rfl rfl rfl rfl rfl

theorem State.firstEver_keeps {s0 s : State} {anchors : List (ArrId × Option Anchor)} (hk : Keeps s0 s) : Keeps s0 (State.firstEver s
    anchors) := by
  unfold State.firstEver
  with_reducible repeat' first
    | assumption | apply Keeps.cond | refine Keeps.foldl ?_ fun _ _ _ => ?_ | split | (dsimp only; split)
    | fail_if_no_progress refine Keeps.mk' ?_ rfl rfl rfl rfl rfl rfl

theorem State.startTrims_keeps {s0 s : State} {refin : List Nat} {ladder : List Nat} {vcref : List Nat} (hk : Keeps s0 s) : Keeps s0
    (State.startTrims s refin ladder vcref) := by
  unfold State.startTrims
  with_reducible repeat' first
    | assumption | apply Keeps.cond | split | (dsimp only; split) | fail_if_no_progress refine Keeps.mk' ?_ rfl rfl rfl rfl rfl rfl

theorem State.firstFails_keeps {s0 s : State} {anchors : List (ArrId × Option Anchor)} (hk : Keeps s0 s) : Keeps s0 (State.firstFails s
    anchors) := by
  unfold State.firstFails
  with_reducible repeat' first
    | assumption | apply State.drain_keeps | apply State.raise_keeps | apply State.runFailed_keeps | apply Keeps.cond
    | refine Keeps.foldl ?_ fun _ _ _ => ?_ | split | (dsimp only; split) | fail_if_no_progress refine Keeps.mk' ?_ rfl rfl rfl rfl rfl rfl

theorem execFirstEverCalibration_keeps {s : State} {trace : TraceReadings} {runs : List (ArrId × List (List Int) ×
    Bool)} : Kept s (execFirstEverCalibration trace runs s) := by
  unfold execFirstEverCalibration
  with_reducible repeat' first
    | assumption | apply Kept.next | apply Kept.fault | apply Kept.cond | exact Keeps.refl _ | apply State.startTrace_keeps
    | apply State.firstEver_keeps | apply State.raise_keeps | apply State.firstFails_keeps | apply State.startTrims_keeps
    | apply State.traceEnds_keeps | apply State.firstWarnings_keeps | apply Keeps.cond | split | (dsimp only; split)
    | fail_if_no_progress refine Keeps.mk' ?_ rfl rfl rfl rfl rfl rfl

theorem State.watchRun_keeps {s0 s : State} {t : TileId} (hk : Keeps s0 s) : Keeps s0 (State.watchRun s t) := by
  unfold State.watchRun
  with_reducible repeat' first
    | assumption | apply State.modTile_keeps | apply State.modFranking_keeps | apply Keeps.cond | split | (dsimp only; split)
    | fail_if_no_progress refine Keeps.mk' ?_ rfl rfl rfl rfl rfl rfl

theorem State.resolveStamps_keeps {s0 s : State} {v : Nat} (hk : Keeps s0 s) : Keeps s0 (State.resolveStamps s v) := by
  unfold State.resolveStamps
  with_reducible repeat' first
    | assumption | apply Keeps.cond | split | (dsimp only; split) | fail_if_no_progress refine Keeps.mk' ?_ rfl rfl rfl rfl rfl rfl

end Sys2Proof.Machine
end

