-- ==== Sys2Proof/Laws/KeepsRegisters.lean ====
section
/-! SUPPORT. What the operations and meanings of Machine/Registers.lean keep. -/

set_option Elab.async false
set_option linter.unusedTactic false
set_option linter.unreachableTactic false
set_option linter.unusedVariables false

namespace Sys2Proof.Machine

theorem State.modBox_keeps {s0 s : State} {n : Nat} {f : Letterbox → Letterbox} (hk : Keeps s0 s) : Keeps s0 (State.modBox s n f) := by
  unfold State.modBox
  with_reducible repeat' first
    | assumption | fail_if_no_progress refine Keeps.mk' ?_ rfl rfl rfl rfl rfl rfl

theorem State.selectBox_keeps {s0 s : State} {n : Nat} {v : Nat} (hk : Keeps s0 s) : Keeps s0 (State.selectBox s n v) := by
  unfold State.selectBox
  with_reducible repeat' first
    | assumption | apply State.modBox_keeps

theorem execLetterboxSnapshotDone_keeps {s : State} {n : Nat} : Kept s (execLetterboxSnapshotDone n s) := by
  unfold execLetterboxSnapshotDone
  with_reducible repeat' first
    | assumption | apply Kept.next | apply Kept.fault | apply Kept.cond | exact Keeps.refl _ | apply State.modBox_keeps

theorem State.clearRecords_keeps {s0 s : State} {v : Nat} (hk : Keeps s0 s) : Keeps s0 (s.clearRecords v) := by
  unfold State.clearRecords
  split
  · refine ⟨hk.pending, hk.tick, hk.device, fun q => ?_⟩
    obtain ⟨a, b, c, d⟩ := hk.sound q
    exact ⟨a, Nat.le_trans (by simp) b, c, d⟩
  · exact hk

theorem State.modSeal_keeps {s0 s : State} {f : Seal → Seal} (hk : Keeps s0 s) : Keeps s0 (State.modSeal s f) := by
  unfold State.modSeal
  with_reducible repeat' first
    | assumption | fail_if_no_progress refine Keeps.mk' ?_ rfl rfl rfl rfl rfl rfl

theorem State.openSeal_keeps {s0 s : State} (hk : Keeps s0 s) : Keeps s0 (State.openSeal s) := by
  unfold State.openSeal
  with_reducible repeat' first
    | assumption | apply State.modSeal_keeps | apply Keeps.cond | split | (dsimp only; split)
    | fail_if_no_progress refine Keeps.mk' ?_ rfl rfl rfl rfl rfl rfl

theorem State.sealAction_keeps {s0 s : State} {v : Nat} (hk : Keeps s0 s) : Keeps s0 (State.sealAction s v) := by
  unfold State.sealAction
  with_reducible repeat' first
    | assumption | apply State.openSeal_keeps | apply State.commitSeal_keeps | apply Keeps.cond

theorem State.upset_keeps {s0 s : State} {u : Nat × Word} (hk : Keeps s0 s) : Keeps s0 (State.upset s u) := by
  unfold State.upset
  with_reducible repeat' first
    | assumption | apply State.store_keeps | apply Keeps.cond | split

theorem State.scanned_keeps {s0 s : State} {crc : Word} (hk : Keeps s0 s) : Keeps s0 (State.scanned s crc) := by
  unfold State.scanned
  with_reducible repeat' first
    | assumption | apply State.modSeal_keeps | apply State.drain_keeps | apply State.raise_keeps | apply Keeps.cond | split

theorem execSealScan_keeps {s : State} {upsets : List (Nat × Word)} : Kept s (execSealScan upsets s) := by
  unfold execSealScan
  with_reducible repeat' first
    | assumption | apply Kept.next | apply Kept.fault | apply Kept.cond | exact Keeps.refl _ | apply State.upset_keeps
    | apply State.scanned_keeps | refine Keeps.foldl ?_ fun _ _ _ => ?_ | apply Keeps.cond

theorem execSealOpenTimeout_keeps {s : State}  : Kept s (execSealOpenTimeout s) := by
  unfold execSealOpenTimeout
  with_reducible repeat' first
    | assumption | apply Kept.next | apply Kept.fault | apply Kept.cond | exact Keeps.refl _ | apply State.advanceTo_keeps
    | apply State.raise_keeps | apply State.modSeal_keeps

theorem State.markRead_keeps {s0 s : State} {slot : Nat} (hk : Keeps s0 s) : Keeps s0 (State.markRead s slot) := by
  unfold State.markRead
  with_reducible repeat' first
    | assumption | fail_if_no_progress refine Keeps.mk' ?_ rfl rfl rfl rfl rfl rfl

theorem State.deadControl_keeps {s0 s : State} {v : Nat} (hk : Keeps s0 s) : Keeps s0 (State.deadControl s v) := by
  unfold State.deadControl
  with_reducible repeat' first
    | assumption | apply State.markRead_keeps | apply State.resetModule_keeps | apply Keeps.cond
    | fail_if_no_progress refine Keeps.mk' ?_ rfl rfl rfl rfl rfl rfl

theorem State.adcActions_keeps {s0 s : State} {n : Nat} {acts : List AdcAction} (hk : Keeps s0 s) : Keeps s0 (State.adcActions s n
    acts) := by
  unfold State.adcActions
  with_reducible repeat' first
    | assumption | apply State.modAdc_keeps

theorem State.writeAdcCtl_keeps {s0 s : State} {n : Nat} {v : Nat} (hk : Keeps s0 s) : Keeps s0 (State.writeAdcCtl s n v) := by
  unfold State.writeAdcCtl
  with_reducible repeat' first
    | assumption | apply State.store_keeps | apply State.modAdc_keeps | apply State.adcActions_keeps | apply Keeps.cond | split
    | (dsimp only; split) | fail_if_no_progress refine Keeps.mk' ?_ rfl rfl rfl rfl rfl rfl

theorem State.restartStale_keeps {s0 s : State} (hk : Keeps s0 s) : Keeps s0 (State.restartStale s) := by
  unfold State.restartStale
  with_reducible repeat' first
    | assumption | apply Keeps.cond | split | (dsimp only; split) | fail_if_no_progress refine Keeps.mk' ?_ rfl rfl rfl rfl rfl rfl

theorem State.putRegister_keeps {s0 s : State} {p : Path} {a : Nat} {v : Nat} (hk : Keeps s0 s) : Keeps s0 (State.putRegister s p a
    v) := by
  unfold State.putRegister
  with_reducible repeat' first
    | assumption | apply State.store_keeps | apply State.selectBox_keeps | apply State.modBox_keeps | apply State.clearRecords_keeps
    | apply State.sealAction_keeps | apply State.restartStale_keeps | apply State.writeAdcCtl_keeps | apply State.adcActions_keeps
    | apply State.deadControl_keeps | apply Keeps.cond | fail_if_no_progress refine Keeps.mk' ?_ rfl rfl rfl rfl rfl rfl

theorem State.hostWrites_keeps {s0 s : State} {l : List (Nat × Nat)} (hk : Keeps s0 s) : Keeps s0 (State.hostWrites s l) := by
  unfold State.hostWrites
  with_reducible repeat' first
    | assumption | apply State.commitSeal_keeps | apply State.putRegister_keeps | apply State.openSeal_keeps
    | refine Keeps.foldl ?_ fun _ _ _ => ?_

theorem State.pathWrite_keeps {s0 s : State} {p : Path} {a : Nat} {v : Nat} (hk : Keeps s0 s) : Keeps s0 (State.pathWrite s p a v) := by
  unfold State.pathWrite
  with_reducible repeat' first
    | assumption | apply State.hostWrites_keeps | apply State.putRegister_keeps | apply Keeps.cond | split | (dsimp only; split)
    | fail_if_no_progress refine Keeps.mk' ?_ rfl rfl rfl rfl rfl rfl

theorem execRegisterWrite_keeps {s : State} {p : Path} {addr : Nat} {value : Word} : Kept s (execRegisterWrite p addr value s) := by
  unfold execRegisterWrite
  with_reducible repeat' first
    | assumption | apply Kept.next | apply Kept.fault | exact Keeps.refl _ | apply State.pathWrite_keeps

theorem execSealOpen_keeps {s : State} {p : Path} {value : Word} : Kept s (execSealOpen p value s) := by
  unfold execSealOpen
  with_reducible repeat' first
    | assumption | apply Kept.next | apply Kept.fault | exact Keeps.refl _ | apply State.pathWrite_keeps

theorem execSealCommit_keeps {s : State} {p : Path} {value : Word} : Kept s (execSealCommit p value s) := by
  unfold execSealCommit
  with_reducible repeat' first
    | assumption | apply Kept.next | apply Kept.fault | exact Keeps.refl _ | apply State.pathWrite_keeps

theorem execTraceNow_keeps {s : State} {p : Path} {value : Word} : Kept s (execTraceNow p value s) := by
  unfold execTraceNow
  with_reducible repeat' first
    | assumption | apply Kept.next | apply Kept.fault | exact Keeps.refl _ | apply State.pathWrite_keeps

theorem execLbSelWrite_keeps {s : State} {p : Path} {n : Nat} {value : Word} : Kept s (execLbSelWrite p n value s) := by
  unfold execLbSelWrite
  with_reducible repeat' first
    | assumption | apply Kept.next | apply Kept.fault | apply Kept.cond | exact Keeps.refl _ | apply State.pathWrite_keeps
    | apply Keeps.cond

theorem execEvrNewestWrite_keeps {s : State} {p : Path} {value : Word} : Kept s (execEvrNewestWrite p value s) := by
  unfold execEvrNewestWrite
  with_reducible repeat' first
    | assumption | apply Kept.next | apply Kept.fault | exact Keeps.refl _ | apply State.pathWrite_keeps

theorem execDlCtlClear_keeps {s : State} {p : Path} {value : Word} : Kept s (execDlCtlClear p value s) := by
  unfold execDlCtlClear
  with_reducible repeat' first
    | assumption | apply Kept.next | apply Kept.fault | exact Keeps.refl _ | apply State.pathWrite_keeps

theorem execDlCtlRestart_keeps {s : State} {p : Path} {value : Word} : Kept s (execDlCtlRestart p value s) := by
  unfold execDlCtlRestart
  with_reducible repeat' first
    | assumption | apply Kept.next | apply Kept.fault | exact Keeps.refl _ | apply State.pathWrite_keeps

theorem execDlWinWrite_keeps {s : State} {p : Path} {value : Word} : Kept s (execDlWinWrite p value s) := by
  unfold execDlWinWrite
  with_reducible repeat' first
    | assumption | apply Kept.next | apply Kept.fault | exact Keeps.refl _ | apply State.pathWrite_keeps

theorem execIntakeCtlWrite_keeps {s : State} {p : Path} {value : Word} : Kept s (execIntakeCtlWrite p value s) := by
  unfold execIntakeCtlWrite
  with_reducible repeat' first
    | assumption | apply Kept.next | apply Kept.fault | exact Keeps.refl _ | apply State.pathWrite_keeps

theorem execSadcStart_keeps {s : State} {p : Path} {n : Nat} {value : Word} : Kept s (execSadcStart p n value s) := by
  unfold execSadcStart
  with_reducible repeat' first
    | assumption | apply Kept.next | apply Kept.fault | apply Kept.cond | exact Keeps.refl _ | apply State.pathWrite_keeps
    | apply Keeps.cond

theorem execSadcStop_keeps {s : State} {p : Path} {n : Nat} {value : Word} : Kept s (execSadcStop p n value s) := by
  unfold execSadcStop
  with_reducible repeat' first
    | assumption | apply Kept.next | apply Kept.fault | apply Kept.cond | exact Keeps.refl _ | apply State.pathWrite_keeps
    | apply Keeps.cond

theorem execSadcGo_keeps {s : State} {p : Path} {n : Nat} {value : Word} : Kept s (execSadcGo p n value s) := by
  unfold execSadcGo
  with_reducible repeat' first
    | assumption | apply Kept.next | apply Kept.fault | apply Kept.cond | exact Keeps.refl _ | apply State.pathWrite_keeps
    | apply Keeps.cond

theorem State.releaseCompletions_keeps {s0 s : State} {qn : Nat} {n : Nat} (hk : Keeps s0 s) : Keeps s0 (State.releaseCompletions s
    qn n) := by
  unfold State.releaseCompletions
  with_reducible repeat' first
    | assumption | apply State.modQueue_keeps | apply State.tryEntry_keeps | apply State.sweep_keeps | apply State.deliver_keeps

theorem State.writeCompHead_keeps {s0 s : State} {qn : Nat} {v : Nat} (hk : Keeps s0 s) : Keeps s0 (State.writeCompHead s qn v) := by
  unfold State.writeCompHead
  with_reducible repeat' first
    | assumption | apply State.releaseCompletions_keeps | apply Keeps.cond | split

theorem State.writeEvtHead_keeps {s0 s : State} {v : Nat} (hk : Keeps s0 s) : Keeps s0 (State.writeEvtHead s v) := by
  unfold State.writeEvtHead
  with_reducible repeat' first
    | assumption | fail_if_no_progress refine Keeps.mk' ?_ rfl rfl rfl rfl rfl rfl

theorem State.writeEmulated_keeps {s0 s : State} {a : Nat} {v : Nat} (hk : Keeps s0 s) : Keeps s0 (State.writeEmulated s a v) := by
  unfold State.writeEmulated
  with_reducible repeat' first
    | assumption | apply State.writeEvtHead_keeps | apply State.writeCompHead_keeps | apply Keeps.cond

theorem execCompHeadWrite_keeps {s : State} {queue : Nat} {value : Word} : Kept s (execCompHeadWrite queue value s) := by
  unfold execCompHeadWrite
  with_reducible repeat' first
    | assumption | apply Kept.next | apply Kept.fault | apply Kept.cond | exact Keeps.refl _ | apply State.writeCompHead_keeps
    | apply Keeps.cond

theorem execEvtHeadWrite_keeps {s : State} {value : Word} : Kept s (execEvtHeadWrite value s) := by
  unfold execEvtHeadWrite
  with_reducible repeat' first
    | assumption | apply Kept.next | apply Kept.fault | apply Kept.cond | exact Keeps.refl _ | apply State.writeEvtHead_keeps
    | apply Keeps.cond

theorem execSadcSettled_keeps {s : State} {n : Nat} : Kept s (execSadcSettled n s) := by
  unfold execSadcSettled
  with_reducible repeat' first
    | assumption | apply Kept.next | apply Kept.fault | apply Kept.cond | exact Keeps.refl _ | apply State.modAdc_keeps
    | apply State.advanceTo_keeps | apply Keeps.cond | split | (dsimp only; split)
    | fail_if_no_progress refine Keeps.mk' ?_ rfl rfl rfl rfl rfl rfl

theorem State.compare_keeps {s0 s : State} {n : Nat} {source : Nat} {v : Nat} (hk : Keeps s0 s) : Keeps s0 (State.compare s n
    source v) := by
  unfold State.compare
  with_reducible repeat' first
    | assumption | apply State.modAdc_keeps | apply State.raise_keeps | refine Keeps.foldl ?_ fun _ _ _ => ?_ | apply Keeps.cond

theorem execSadcConversionDone_keeps {s : State} {n : Nat} {vinUv : Nat} {vrefUv : Nat} : Kept s (execSadcConversionDone n vinUv
    vrefUv s) := by
  unfold execSadcConversionDone
  with_reducible repeat' first
    | assumption | apply Kept.next | apply Kept.fault | apply Kept.cond | exact Keeps.refl _ | apply State.modAdc_keeps
    | apply State.compare_keeps | apply Keeps.cond | split | (dsimp only; split)
    | fail_if_no_progress refine Keeps.mk' ?_ rfl rfl rfl rfl rfl rfl

end Sys2Proof.Machine
end

