-- ==== Sys2Proof/Laws/KeepsHost.lean ====
section
/-! SUPPORT. What the operations and meanings of Machine/Host.lean keep. -/

set_option Elab.async false
set_option linter.unusedTactic false
set_option linter.unreachableTactic false
set_option linter.unusedVariables false

namespace Sys2Proof.Machine

theorem State.modIntake_keeps {s0 s : State} {port : Nat} {chan : Nat} {f : Intake → Intake} (hk : Keeps s0 s) : Keeps s0
    (State.modIntake s port chan f) := by
  unfold State.modIntake
  with_reducible repeat' first
    | assumption | apply State.modDsp_keeps

theorem State.queueFrame_keeps {s0 s : State} {h : FrameHdr} {chan : Nat} {type : Nat} {payload : Bytes} (hk : Keeps s0 s) : Keeps s0
    (State.queueFrame s h chan type payload) := by
  unfold State.queueFrame
  with_reducible repeat' first
    | assumption | apply State.modIntake_keeps | apply Keeps.cond | split | (dsimp only; split)
    | fail_if_no_progress refine Keeps.mk' ?_ rfl rfl rfl rfl rfl rfl

theorem State.judge_keeps {s0 s : State} {h : FrameHdr} {chan : Nat} {type : Nat} {needsLease : Bool} {lenOk : Bool} {f : State → State}
    {g : State → Nat → State} (hk : Keeps s0 s) (hf : ∀ x, Keeps s0 x → Keeps s0 (f x))
    (hg : ∀ x n, Keeps s0 x → Keeps s0 (g x n)) : Keeps s0 (State.judge s h chan type needsLease lenOk f g) := by
  unfold State.judge
  with_reducible repeat' first
    | assumption | apply hg | apply hf | apply State.modIntake_keeps | apply Keeps.cond | split | (dsimp only; split)
    | fail_if_no_progress refine Keeps.mk' ?_ rfl rfl rfl rfl rfl rfl

theorem State.takeChecked_keeps {s0 s : State} {h : FrameHdr} {chan : Nat} {type : Nat} {payload : Bytes} {needsLease : Bool} {lenOk :
    Bool} {f : State → State} {g : State → Nat → State} (hk : Keeps s0 s) (hf : ∀ x, Keeps s0 x → Keeps s0 (f x))
    (hg : ∀ x n, Keeps s0 x → Keeps s0 (g x n)) : Keeps s0 (State.takeChecked s h chan type payload needsLease
    lenOk f g) := by
  unfold State.takeChecked
  with_reducible repeat' first
    | assumption | apply hg | apply hf | apply State.frameArrives_keeps | apply State.queueFrame_keeps | refine State.judge_keeps ?_ (fun _ _ => ?_) (fun _ _ _ => ?_)
    | apply Keeps.cond | split | (dsimp only; split) | fail_if_no_progress refine Keeps.mk' ?_ rfl rfl rfl rfl rfl rfl

theorem State.withFrame_keeps {s0 s : State} {h : FrameHdr} {chan : Nat} {type : Nat} {payload : Bytes} {needsLease : Bool} {lenOk : Bool}
    {f : State → State} (hk : Keeps s0 s) (hf : ∀ x, Keeps s0 x → Keeps s0 (f x)) : Keeps s0 (State.withFrame s h chan type payload needsLease lenOk f) := by
  unfold State.withFrame
  with_reducible repeat' first
    | assumption | apply hf | refine State.takeChecked_keeps ?_ (fun _ _ => ?_) (fun _ _ _ => ?_) | apply State.respond_keeps
    | apply Keeps.cond | split | (dsimp only; split) | fail_if_no_progress refine Keeps.mk' ?_ rfl rfl rfl rfl rfl rfl

theorem State.ack_keeps {s0 s : State} {h : FrameHdr} (hk : Keeps s0 s) : Keeps s0 (State.ack s h) := by
  unfold State.ack
  with_reducible repeat' first
    | assumption | apply State.respond_keeps | apply Keeps.cond

theorem execHelloTimer_keeps {s : State} {port : Nat} : Kept s (execHelloTimer port s) := by
  unfold execHelloTimer
  with_reducible repeat' first
    | assumption | apply Kept.next | apply Kept.fault | apply Kept.cond | exact Keeps.refl _ | apply State.sendFrame_keeps
    | apply Keeps.cond

theorem execHeaderCrcFailure_keeps {s : State} {port : Nat} : Kept s (execHeaderCrcFailure port s) := by
  unfold execHeaderCrcFailure
  with_reducible repeat' first
    | assumption | apply Kept.next | apply Kept.fault | apply Kept.cond | exact Keeps.refl _ | apply State.modDsp_keeps
    | apply State.frameArrives_keeps | apply Keeps.cond

theorem State.discardAll_keeps {s0 s : State} (hk : Keeps s0 s) : Keeps s0 (State.discardAll s) := by
  unfold State.discardAll
  with_reducible repeat' first
    | assumption | apply State.sweep_keeps | apply State.deliverAll_keeps | apply Keeps.cond | split | (dsimp only; split)
    | fail_if_no_progress refine Keeps.mk' ?_ rfl rfl rfl rfl rfl rfl

theorem State.adoptQueue_keeps {s0 s : State} {again : Bool} {qn : Nat} (hk : Keeps s0 s) : Keeps s0 (State.adoptQueue s again qn) := by
  unfold State.adoptQueue
  with_reducible repeat' first
    | assumption | apply State.deliver_keeps | apply State.modQueue_keeps | apply State.sendCompletions_keeps | apply Keeps.cond | split
    | (dsimp only; split) | fail_if_no_progress refine Keeps.mk' ?_ rfl rfl rfl rfl rfl rfl

theorem State.adopt_keeps {s0 s : State} {again : Bool} (hk : Keeps s0 s) : Keeps s0 (State.adopt s again) := by
  unfold State.adopt
  with_reducible repeat' first
    | assumption | apply State.sweep_keeps | apply State.adoptQueue_keeps | apply Keeps.cond | refine Keeps.foldl ?_ fun _ _ _ => ?_
    | split | (dsimp only; split) | fail_if_no_progress refine Keeps.mk' ?_ rfl rfl rfl rfl rfl rfl

theorem State.rewriteEnd_keeps {s0 s : State} {e : LeaseEnd} {retained : Nat} (hk : Keeps s0 s) : Keeps s0 (State.rewriteEnd s e
    retained) := by
  unfold State.rewriteEnd
  with_reducible repeat' first
    | assumption | apply State.writeMem_keeps | apply Keeps.cond | fail_if_no_progress refine Keeps.mk' ?_ rfl rfl rfl rfl rfl rfl | split

theorem State.deliverEnd_keeps {s0 s : State} {retained : Nat} (hk : Keeps s0 s) : Keeps s0 (State.deliverEnd s retained) := by
  unfold State.deliverEnd
  with_reducible repeat' first
    | assumption | apply State.rewriteEnd_keeps | apply State.deliverAsync_keeps | apply State.sendEvent_keeps | apply Keeps.cond
    | fail_if_no_progress refine Keeps.mk' ?_ rfl rfl rfl rfl rfl rfl | split

theorem State.deliverFlag_keeps {s0 s : State} (hk : Keeps s0 s) : Keeps s0 (State.deliverFlag s) := by
  unfold State.deliverFlag
  with_reducible repeat' first
    | assumption | apply State.async_keeps | apply Keeps.cond | fail_if_no_progress refine Keeps.mk' ?_ rfl rfl rfl rfl rfl rfl | split
    | (dsimp only; split)

theorem State.endLease_keeps {s0 s : State} {released : Nat} (hk : Keeps s0 s) : Keeps s0 (State.endLease s released) := by
  unfold State.endLease
  with_reducible repeat' first
    | assumption | apply State.deliverAll_keeps | apply State.writeAsync_keeps | apply Keeps.cond
    | fail_if_no_progress refine Keeps.mk' ?_ rfl rfl rfl rfl rfl rfl | split

theorem State.selectAccepted_keeps {s0 s : State} {h : FrameHdr} {p : Bytes} (hk : Keeps s0 s) : Keeps s0 (State.selectAccepted s h
    p) := by
  unfold State.selectAccepted
  with_reducible repeat' first
    | assumption | apply State.endLease_keeps | apply State.modDsp_keeps | apply State.sendFrame_keeps | apply State.wakeReattach_keeps
    | apply State.deliverFlag_keeps | apply State.discardAll_keeps | apply State.adopt_keeps | apply State.deliverEnd_keeps
    | apply Keeps.cond | split | (dsimp only; split) | fail_if_no_progress refine Keeps.mk' ?_ rfl rfl rfl rfl rfl rfl

theorem execSelect_keeps {s : State} {h : FrameHdr} {payload : Bytes} : Kept s (execSelect h payload s) := by
  unfold execSelect
  with_reducible repeat' first
    | assumption | apply Kept.next | apply Kept.fault | apply Kept.cond | exact Keeps.refl _
    | refine State.withFrame_keeps ?_ (fun _ _ => ?_) | apply State.selectAccepted_keeps | apply State.sendFrame_keeps | apply Keeps.cond
    | split | (dsimp only; split) | fail_if_no_progress refine Keeps.mk' ?_ rfl rfl rfl rfl rfl rfl

theorem State.heartbeat_keeps {s0 s : State} {h : FrameHdr} {p : Bytes} (hk : Keeps s0 s) : Keeps s0 (State.heartbeat s h p) := by
  unfold State.heartbeat
  with_reducible repeat' first
    | assumption | apply State.respond_keeps | apply State.sendFrame_keeps | apply Keeps.cond
    | fail_if_no_progress refine Keeps.mk' ?_ rfl rfl rfl rfl rfl rfl | split

theorem execHeartbeat_keeps {s : State} {h : FrameHdr} {payload : Bytes} : Kept s (execHeartbeat h payload s) := by
  unfold execHeartbeat
  with_reducible repeat' first
    | assumption | apply Kept.next | apply Kept.fault | exact Keeps.refl _ | refine State.withFrame_keeps ?_ (fun _ _ => ?_)
    | apply State.heartbeat_keeps | apply Kept.cond | apply Keeps.cond | split | (dsimp only; split)
    | fail_if_no_progress refine Keeps.mk' ?_ rfl rfl rfl rfl rfl rfl

theorem execLeaseExpiry_keeps {s : State}  : Kept s (execLeaseExpiry s) := by
  unfold execLeaseExpiry
  with_reducible repeat' first
    | assumption | apply Kept.next | apply Kept.fault | apply Kept.cond | exact Keeps.refl _ | apply State.counterTo_keeps
    | apply State.advanceTo_keeps | apply State.endLease_keeps | apply Keeps.cond | split

theorem State.acceptStep_keeps {s0 s : State} {qn : Nat} {w : Waiting} (hk : Keeps s0 s) : Keeps s0 (State.acceptStep s qn w).1 := by
  unfold State.acceptStep
  with_reducible repeat' first
    | assumption | apply State.respond_keeps | apply State.modQueue_keeps | apply State.ack_keeps | apply State.sweepQueue_keeps
    | apply State.putUnbegun_keeps | apply Keeps.cond | split

theorem State.drainReorder_keeps {s0 s : State} {n qn : Nat} (hk : Keeps s0 s) : Keeps s0 (State.drainReorder n qn s) := by
  induction n generalizing s with
  | zero => exact hk
  | succ n ih =>
    unfold State.drainReorder
    repeat' first
      | with_reducible assumption | with_reducible apply ih | with_reducible apply State.acceptStep_keeps
      | with_reducible apply State.modQueue_keeps | with_reducible apply Keeps.cond
      | (try dsimp only); split

theorem State.offer_keeps {s0 s : State} {qn : Nat} {w : Waiting} (hk : Keeps s0 s) : Keeps s0 (State.offer s qn w) := by
  unfold State.offer
  with_reducible repeat' first
    | assumption | apply State.acceptStep_keeps | apply State.drainReorder_keeps | apply State.respond_keeps | apply State.modQueue_keeps
    | apply Keeps.cond | split

theorem State.claimQueue_keeps {s0 s : State} {h : FrameHdr} (hk : Keeps s0 s) : Keeps s0 (State.claimQueue s h) := by
  unfold State.claimQueue
  with_reducible repeat' first
    | assumption | apply State.modQueue_keeps

theorem execStep_keeps {s : State} {h : FrameHdr} {payload : Bytes} : Kept s (execStep h payload s) := by
  unfold execStep
  with_reducible repeat' first
    | assumption | apply Kept.next | apply Kept.fault | apply Kept.cond | exact Keeps.refl _
    | refine State.withFrame_keeps ?_ (fun _ _ => ?_) | apply State.respond_keeps | apply State.claimQueue_keeps | apply State.offer_keeps
    | apply Keeps.cond | split | (dsimp only; split) | fail_if_no_progress refine Keeps.mk' ?_ rfl rfl rfl rfl rfl rfl

theorem execReorderTimeout_keeps {s : State} {queue : Nat} {seq : Nat} : Kept s (execReorderTimeout queue seq s) := by
  unfold execReorderTimeout
  with_reducible repeat' first
    | assumption | apply Kept.next | apply Kept.fault | apply Kept.cond | exact Keeps.refl _ | apply State.respond_keeps
    | apply State.modQueue_keeps | apply State.advanceTo_keeps | apply Keeps.cond | split

theorem State.submit_keeps {s0 s : State} {h : FrameHdr} {q : Queue} {n : Nat} (hk : Keeps s0 s) : Keeps s0 (State.submit s h q n) := by
  unfold State.submit
  with_reducible repeat' first
    | assumption | apply State.modQueue_keeps | apply State.offer_keeps | refine Keeps.foldl ?_ fun _ _ _ => ?_

theorem State.doorbell_keeps {s0 s : State} {h : FrameHdr} {p : Bytes} (hk : Keeps s0 s) : Keeps s0 (State.doorbell s h p) := by
  unfold State.doorbell
  with_reducible repeat' first
    | assumption | apply State.respond_keeps | apply State.claimQueue_keeps | apply State.submit_keeps | apply State.ack_keeps
    | apply State.releaseCompletions_keeps | apply Keeps.cond | split | (dsimp only; split)

theorem execDoorbellSubmission_keeps {s : State} {h : FrameHdr} {payload : Bytes} : Kept s (execDoorbellSubmission h payload s) := by
  unfold execDoorbellSubmission
  with_reducible repeat' first
    | assumption | apply Kept.next | apply Kept.fault | exact Keeps.refl _ | refine State.withFrame_keeps ?_ (fun _ _ => ?_)
    | apply State.doorbell_keeps | apply Kept.cond | apply Keeps.cond | split | (dsimp only; split)
    | fail_if_no_progress refine Keeps.mk' ?_ rfl rfl rfl rfl rfl rfl

theorem execDoorbellCompletion_keeps {s : State} {h : FrameHdr} {payload : Bytes} : Kept s (execDoorbellCompletion h payload s) := by
  unfold execDoorbellCompletion
  with_reducible repeat' first
    | assumption | apply Kept.next | apply Kept.fault | exact Keeps.refl _ | refine State.withFrame_keeps ?_ (fun _ _ => ?_)
    | apply State.doorbell_keeps | apply Kept.cond | apply Keeps.cond | split | (dsimp only; split)
    | fail_if_no_progress refine Keeps.mk' ?_ rfl rfl rfl rfl rfl rfl

theorem State.cutThrough_keeps {s0 s : State} {h : FrameHdr} {type : Nat} {payload : Bytes} {f : State → Bytes → State} (hk : Keeps s0 s) (hf : ∀ x p, Keeps s0 x → Keeps s0 (f x p))
    : Keeps s0 (State.cutThrough s h type payload f) := by
  unfold State.cutThrough
  with_reducible repeat' first
    | assumption | apply hf | apply State.frameArrives_keeps | apply State.nextDraw_keeps | apply Keeps.cond | split | (dsimp only; split)
    | fail_if_no_progress refine Keeps.mk' ?_ rfl rfl rfl rfl rfl rfl

theorem State.cutWrite_keeps {s0 s : State} {whole : Bytes} {p : Bytes} (hk : Keeps s0 s) : Keeps s0 (State.cutWrite s whole p) := by
  unfold State.cutWrite
  with_reducible repeat' first
    | assumption | apply State.writeMem_keeps | apply Keeps.cond | split | (dsimp only; split)
    | fail_if_no_progress refine Keeps.mk' ?_ rfl rfl rfl rfl rfl rfl

theorem execWrite_keeps {s : State} {h : FrameHdr} {payload : Bytes} : Kept s (execWrite h payload s) := by
  unfold execWrite
  with_reducible repeat' first
    | assumption | apply Kept.next | apply Kept.fault | apply Kept.cond | exact Keeps.refl _ | apply State.cutWrite_keeps
    | refine State.withFrame_keeps ?_ (fun _ _ => ?_) | apply State.respond_keeps | apply State.writeMem_keeps
    | refine State.cutThrough_keeps ?_ (fun _ _ _ => ?_) | apply Keeps.cond | split | (dsimp only; split)
    | fail_if_no_progress refine Keeps.mk' ?_ rfl rfl rfl rfl rfl rfl

theorem execRead_keeps {s : State} {h : FrameHdr} {payload : Bytes} : Kept s (execRead h payload s) := by
  unfold execRead
  with_reducible repeat' first
    | assumption | apply Kept.next | apply Kept.fault | apply Kept.cond | exact Keeps.refl _
    | refine State.withFrame_keeps ?_ (fun _ _ => ?_) | apply State.answerData_keeps | apply State.respond_keeps | apply Keeps.cond | split
    | (dsimp only; split) | fail_if_no_progress refine Keeps.mk' ?_ rfl rfl rfl rfl rfl rfl

theorem execParcelFrame_keeps {s : State} {h : FrameHdr} {payload : Bytes} : Kept s (execParcelFrame h payload s) := by
  unfold execParcelFrame
  with_reducible repeat' first
    | assumption | apply Kept.next | apply Kept.fault | exact Keeps.refl _ | refine State.withFrame_keeps ?_ (fun _ _ => ?_)
    | apply State.parcelData_keeps | apply State.ack_keeps | refine State.cutThrough_keeps ?_ (fun _ _ _ => ?_) | apply State.tornParcel_keeps | apply Kept.cond
    | apply Keeps.cond | split | (dsimp only; split) | fail_if_no_progress refine Keeps.mk' ?_ rfl rfl rfl rfl rfl rfl

theorem execRegwrite_keeps {s : State} {h : FrameHdr} {payload : Bytes} : Kept s (execRegwrite h payload s) := by
  unfold execRegwrite
  with_reducible repeat' first
    | assumption | apply Kept.next | apply Kept.fault | apply Kept.cond | exact Keeps.refl _
    | refine State.withFrame_keeps ?_ (fun _ _ => ?_) | apply State.respond_keeps | apply State.hostWrites_keeps
    | apply State.writeEmulated_keeps | apply Keeps.cond | refine Keeps.foldl ?_ fun _ _ _ => ?_ | split | (dsimp only; split)
    | fail_if_no_progress refine Keeps.mk' ?_ rfl rfl rfl rfl rfl rfl

theorem execRegread_keeps {s : State} {h : FrameHdr} {payload : Bytes} : Kept s (execRegread h payload s) := by
  unfold execRegread
  with_reducible repeat' first
    | assumption | apply Kept.next | apply Kept.fault | apply Kept.cond | exact Keeps.refl _
    | refine State.withFrame_keeps ?_ (fun _ _ => ?_) | apply State.respond_keeps | apply State.answerData_keeps | apply Keeps.cond | split
    | (dsimp only; split) | fail_if_no_progress refine Keeps.mk' ?_ rfl rfl rfl rfl rfl rfl

theorem State.fetchFails_keeps {s0 s : State} {slot : Nat} (hk : Keeps s0 s) : Keeps s0 (State.fetchFails s slot) := by
  unfold State.fetchFails
  with_reducible repeat' first
    | assumption | apply State.closeEntry_keeps | apply State.releaseEarly_keeps | apply Keeps.cond | split | (dsimp only; split)
    | fail_if_no_progress refine Keeps.mk' ?_ rfl rfl rfl rfl rfl rfl

theorem State.withdrawL2_keeps {s0 s : State} (hk : Keeps s0 s) : Keeps s0 (State.withdrawL2 s) := by
  unfold State.withdrawL2
  with_reducible repeat' first
    | assumption | apply State.slotExpire_keeps | apply State.fetchFails_keeps | apply State.sweep_keeps | apply Keeps.cond
    | refine Keeps.foldl ?_ fun _ _ _ => ?_ | split | (dsimp only; split) | fail_if_no_progress refine Keeps.mk' ?_ rfl rfl rfl rfl rfl rfl

theorem execL2reg_keeps {s : State} {h : FrameHdr} {payload : Bytes} : Kept s (execL2reg h payload s) := by
  unfold execL2reg
  with_reducible repeat' first
    | assumption | apply Kept.next | apply Kept.fault | apply Kept.cond | exact Keeps.refl _
    | refine State.withFrame_keeps ?_ (fun _ _ => ?_) | apply State.respond_keeps | apply State.withdrawL2_keeps | apply Keeps.cond | split
    | (dsimp only; split) | fail_if_no_progress refine Keeps.mk' ?_ rfl rfl rfl rfl rfl rfl

theorem State.l2arrive_keeps {s0 s : State} {off : Nat} {data : Bytes} {x : Held} (hk : Keeps s0 s) : Keeps s0 (State.l2arrive s
    off data x) := by
  unfold State.l2arrive
  with_reducible repeat' first
    | assumption | apply State.modHeld_keeps | apply Keeps.cond | split | (dsimp only; split)
    | fail_if_no_progress refine Keeps.mk' ?_ rfl rfl rfl rfl rfl rfl

theorem State.tornL2_keeps {s0 s : State} {off : Nat} {data : Bytes} (hk : Keeps s0 s) : Keeps s0 (State.tornL2 s off data) := by
  unfold State.tornL2
  with_reducible repeat' first
    | assumption | apply Keeps.cond | split | (dsimp only; split) | fail_if_no_progress refine Keeps.mk' ?_ rfl rfl rfl rfl rfl rfl

theorem execL2data_keeps {s : State} {h : FrameHdr} {payload : Bytes} : Kept s (execL2data h payload s) := by
  unfold execL2data
  with_reducible repeat' first
    | assumption | apply Kept.next | apply Kept.fault | exact Keeps.refl _ | refine State.withFrame_keeps ?_ (fun _ _ => ?_)
    | apply State.l2arrive_keeps | refine State.cutThrough_keeps ?_ (fun _ _ _ => ?_) | apply State.tornL2_keeps | apply Kept.cond | apply Keeps.cond
    | refine Keeps.foldl ?_ fun _ _ _ => ?_ | split | (dsimp only; split) | fail_if_no_progress refine Keeps.mk' ?_ rfl rfl rfl rfl rfl rfl

theorem execL2getTimeout_keeps {s : State} {slot : Nat} : Kept s (execL2getTimeout slot s) := by
  unfold execL2getTimeout
  with_reducible repeat' first
    | assumption | apply Kept.next | apply Kept.fault | apply Kept.cond | exact Keeps.refl _ | apply State.sweep_keeps
    | apply State.fetchFails_keeps | apply Keeps.cond | split | (dsimp only; split)
    | fail_if_no_progress refine Keeps.mk' ?_ rfl rfl rfl rfl rfl rfl

theorem execIntakeStaleTimeout_keeps {s : State} {port : Nat} {chan : Nat} : Kept s (execIntakeStaleTimeout port chan s) := by
  unfold execIntakeStaleTimeout
  with_reducible repeat' first
    | assumption | apply Kept.next | apply Kept.fault | apply Kept.cond | exact Keeps.refl _ | apply State.advanceTo_keeps
    | apply State.modIntake_keeps | apply State.counterTo_keeps | apply Keeps.cond | split | (dsimp only; split)
    | fail_if_no_progress refine Keeps.mk' ?_ rfl rfl rfl rfl rfl rfl

theorem State.withDlread_keeps {s0 s : State} {h : FrameHdr} {payload : Bytes} (hk : Keeps s0 s) : Keeps s0 (State.withDlread s h
    payload) := by
  unfold State.withDlread
  with_reducible repeat' first
    | assumption | apply State.answerData_keeps | apply State.respond_keeps | apply State.markRead_keeps | apply State.resetModule_keeps
    | apply Keeps.cond

theorem execDlreadStatus_keeps {s : State} {h : FrameHdr} {payload : Bytes} : Kept s (execDlreadStatus h payload s) := by
  unfold execDlreadStatus
  with_reducible repeat' first
    | assumption | apply Kept.next | apply Kept.fault | exact Keeps.refl _ | apply State.withDlread_keeps

theorem execDlreadRead_keeps {s : State} {h : FrameHdr} {payload : Bytes} : Kept s (execDlreadRead h payload s) := by
  unfold execDlreadRead
  with_reducible repeat' first
    | assumption | apply Kept.next | apply Kept.fault | exact Keeps.refl _ | apply State.withDlread_keeps

theorem execDlreadClear_keeps {s : State} {h : FrameHdr} {payload : Bytes} : Kept s (execDlreadClear h payload s) := by
  unfold execDlreadClear
  with_reducible repeat' first
    | assumption | apply Kept.next | apply Kept.fault | exact Keeps.refl _ | apply State.withDlread_keeps

theorem execDlreadRestart_keeps {s : State} {h : FrameHdr} {payload : Bytes} : Kept s (execDlreadRestart h payload s) := by
  unfold execDlreadRestart
  with_reducible repeat' first
    | assumption | apply Kept.next | apply Kept.fault | exact Keeps.refl _ | apply State.withDlread_keeps

theorem State.hostData_keeps {s0 s : State} {h : FrameHdr} {payload : Bytes} (hk : Keeps s0 s) : Keeps s0 (State.hostData s h payload) :=
    by
  unfold State.hostData
  with_reducible repeat' first
    | assumption | apply State.ack_keeps | refine State.withFrame_keeps ?_ (fun _ _ => ?_) | apply Keeps.cond | split | (dsimp only; split)
    | fail_if_no_progress refine Keeps.mk' ?_ rfl rfl rfl rfl rfl rfl

theorem State.refuseType_keeps {s0 s : State} {h : FrameHdr} {type : Nat} {chan : Nat} (hk : Keeps s0 s) : Keeps s0 (State.refuseType s h
    type chan) := by
  unfold State.refuseType
  with_reducible repeat' first
    | assumption | apply State.respond_keeps | apply State.respondWith_keeps | apply Keeps.cond | split | (dsimp only; split)
    | fail_if_no_progress refine Keeps.mk' ?_ rfl rfl rfl rfl rfl rfl

theorem execReservedFrameType_keeps {s : State} {h : FrameHdr} {type : Nat} {chan : Nat} {payload : Bytes} : Kept s (execReservedFrameType
    h type chan payload s) := by
  unfold execReservedFrameType
  with_reducible repeat' first
    | assumption | apply Kept.next | apply Kept.fault | apply Kept.cond | exact Keeps.refl _ | apply State.frameArrives_keeps
    | apply State.queueFrame_keeps | apply State.hostData_keeps | apply State.refuseType_keeps | apply Keeps.cond | split
    | (dsimp only; split) | fail_if_no_progress refine Keeps.mk' ?_ rfl rfl rfl rfl rfl rfl

end Sys2Proof.Machine
end

