-- ==== Sys2Proof/Laws/KeepsLinks.lean ====
section
/-! SUPPORT. What the operations and meanings of Machine/Links.lean keep. -/

set_option Elab.async false
set_option linter.unusedTactic false
set_option linter.unreachableTactic false
set_option linter.unusedVariables false

namespace Sys2Proof.Machine

theorem execFlitReceive_keeps {s : State} {link : Nat} {f : Flit} : Kept s (execFlitReceive link f s) := by
  unfold execFlitReceive
  with_reducible repeat' first
    | assumption | apply Kept.next | apply Kept.fault | apply Kept.cond | exact Keeps.refl _ | apply State.modPort_keeps
    | apply State.modDsp_keeps | apply Keeps.cond | split | (dsimp only; split)
    | fail_if_no_progress refine Keeps.mk' ?_ rfl rfl rfl rfl rfl rfl

theorem execFlitResendTimeout_keeps {s : State} {link : Nat} : Kept s (execFlitResendTimeout link s) := by
  unfold execFlitResendTimeout
  with_reducible repeat' first
    | assumption | apply Kept.next | apply Kept.fault | apply Kept.cond | exact Keeps.refl _ | apply State.advanceTo_keeps
    | apply State.modPort_keeps | apply State.modDsp_keeps | apply Keeps.cond | split | (dsimp only; split)
    | fail_if_no_progress refine Keeps.mk' ?_ rfl rfl rfl rfl rfl rfl

theorem execPortDown_keeps {s : State} {link : Nat} {cause : DownCause} : Kept s (execPortDown link cause s) := by
  unfold execPortDown
  with_reducible repeat' first
    | assumption | apply Kept.next | apply Kept.fault | apply Kept.cond | exact Keeps.refl _ | apply State.modPort_keeps
    | apply State.modDsp_keeps | apply Keeps.cond

theorem State.notifyDown_keeps {s0 s : State} {c : Nat} (hk : Keeps s0 s) : Keeps s0 (State.notifyDown s c) := by
  unfold State.notifyDown
  with_reducible repeat' first
    | assumption | apply State.originate_keeps | apply Keeps.cond | refine Keeps.foldl ?_ fun _ _ _ => ?_ | split | (dsimp only; split)
    | fail_if_no_progress refine Keeps.mk' ?_ rfl rfl rfl rfl rfl rfl

theorem State.sendAgain_keeps {s0 s : State} {o : OutFrame} (hk : Keeps s0 s) : Keeps s0 (State.sendAgain s o) := by
  unfold State.sendAgain
  with_reducible repeat' first
    | assumption | apply State.sendOrAbort_keeps | apply Keeps.cond | split | (dsimp only; split)
    | fail_if_no_progress refine Keeps.mk' ?_ rfl rfl rfl rfl rfl rfl

theorem State.portFails_keeps {s0 s : State} {k : Nat} {reason : Nat} (hk : Keeps s0 s) : Keeps s0 (State.portFails s k reason) := by
  unfold State.portFails
  with_reducible repeat' first
    | assumption | apply State.raise_keeps | apply State.modPort_keeps | apply State.notifyDown_keeps | apply State.sendAgain_keeps
    | apply Keeps.cond | refine Keeps.foldl ?_ fun _ _ _ => ?_ | split | (dsimp only; split)
    | fail_if_no_progress refine Keeps.mk' ?_ rfl rfl rfl rfl rfl rfl

theorem execRetrainDone_keeps {s : State} {link : Nat} {lanes : Nat} : Kept s (execRetrainDone link lanes s) := by
  unfold execRetrainDone
  with_reducible repeat' first
    | assumption | apply Kept.next | apply Kept.fault | apply Kept.cond | exact Keeps.refl _ | apply State.portFails_keeps
    | apply State.modPort_keeps | apply State.modDsp_keeps | apply Keeps.cond | split | (dsimp only; split)
    | fail_if_no_progress refine Keeps.mk' ?_ rfl rfl rfl rfl rfl rfl

theorem execRetrainTimeout_keeps {s : State} {link : Nat} : Kept s (execRetrainTimeout link s) := by
  unfold execRetrainTimeout
  with_reducible repeat' first
    | assumption | apply Kept.next | apply Kept.fault | apply Kept.cond | exact Keeps.refl _ | apply State.portFails_keeps
    | apply State.modDsp_keeps | apply Keeps.cond

theorem execDispatchTrainingDone_keeps {s : State} {port : Nat} {gen : Nat} : Kept s (execDispatchTrainingDone port gen s) := by
  unfold execDispatchTrainingDone
  with_reducible repeat' first
    | assumption | apply Kept.next | apply Kept.fault | apply Kept.cond | exact Keeps.refl _ | apply State.modDsp_keeps | apply Keeps.cond
    | split | (dsimp only; split) | fail_if_no_progress refine Keeps.mk' ?_ rfl rfl rfl rfl rfl rfl

theorem execDispatchTrainingTimeout_keeps {s : State} {port : Nat} : Kept s (execDispatchTrainingTimeout port s) := by
  unfold execDispatchTrainingTimeout
  with_reducible repeat' first
    | assumption | apply Kept.next | apply Kept.fault | apply Kept.cond | exact Keeps.refl _ | apply State.modDsp_keeps | apply Keeps.cond

theorem execAdvertTimer_keeps {s : State} {port : Nat} : Kept s (execAdvertTimer port s) := by
  unfold execAdvertTimer
  with_reducible repeat' first
    | assumption | apply Kept.next | apply Kept.fault | apply Kept.cond | exact Keeps.refl _ | apply State.modPort_keeps | apply Keeps.cond
    | split | (dsimp only; split) | fail_if_no_progress refine Keeps.mk' ?_ rfl rfl rfl rfl rfl rfl

theorem State.checkPort_keeps {s0 s : State} {k : Nat} (hk : Keeps s0 s) : Keeps s0 (State.checkPort s k) := by
  unfold State.checkPort
  with_reducible repeat' first
    | assumption | apply State.modPort_keeps | apply State.raise_keeps | apply Keeps.cond | split | (dsimp only; split)
    | fail_if_no_progress refine Keeps.mk' ?_ rfl rfl rfl rfl rfl rfl

theorem State.choose_keeps {s0 s : State} {k : Nat} {a : Advert} (hk : Keeps s0 s) : Keeps s0 (State.choose s k a) := by
  unfold State.choose
  with_reducible repeat' first
    | assumption | apply State.modPort_keeps | apply State.portFails_keeps | apply Keeps.cond | split | (dsimp only; split)
    | fail_if_no_progress refine Keeps.mk' ?_ rfl rfl rfl rfl rfl rfl

theorem execAdvertReceived_keeps {s : State} {port : Nat} {a : Advert} : Kept s (execAdvertReceived port a s) := by
  unfold execAdvertReceived
  with_reducible repeat' first
    | assumption | apply Kept.next | apply Kept.fault | apply Kept.cond | exact Keeps.refl _ | apply State.modPort_keeps
    | apply State.choose_keeps | apply State.checkPort_keeps

theorem execDetectTimeout_keeps {s : State} {port : Nat} : Kept s (execDetectTimeout port s) := by
  unfold execDetectTimeout
  with_reducible repeat' first
    | assumption | apply Kept.next | apply Kept.fault | exact Keeps.refl _

theorem execTrainingDone_keeps {s : State} {port : Nat} : Kept s (execTrainingDone port s) := by
  unfold execTrainingDone
  with_reducible repeat' first
    | assumption | apply Kept.next | apply Kept.fault | apply Kept.cond | exact Keeps.refl _ | apply State.checkPort_keeps
    | apply State.modPort_keeps | apply Keeps.cond | split | (dsimp only; split)
    | fail_if_no_progress refine Keeps.mk' ?_ rfl rfl rfl rfl rfl rfl

theorem execTrainingTimeout_keeps {s : State} {port : Nat} : Kept s (execTrainingTimeout port s) := by
  unfold execTrainingTimeout
  with_reducible repeat' first
    | assumption | apply Kept.next | apply Kept.fault | apply Kept.cond | exact Keeps.refl _ | apply State.portFails_keeps
    | apply State.modPort_keeps | apply Keeps.cond

theorem execKeepaliveTimer_keeps {s : State} {port : Nat} : Kept s (execKeepaliveTimer port s) := by
  unfold execKeepaliveTimer
  with_reducible repeat' first
    | assumption | apply Kept.next | apply Kept.fault | apply Kept.cond | exact Keeps.refl _ | apply State.modPort_keeps | apply Keeps.cond
    | split | (dsimp only; split) | fail_if_no_progress refine Keeps.mk' ?_ rfl rfl rfl rfl rfl rfl

theorem execLaneLock_keeps {s : State} {port : Nat} {lane : Nat} {number : Nat} {inverted : Bool} : Kept s (execLaneLock port lane
    number inverted s) := by
  unfold execLaneLock
  with_reducible repeat' first
    | assumption | apply Kept.next | apply Kept.fault | apply Kept.cond | exact Keeps.refl _ | apply State.modPort_keeps | apply Keeps.cond

theorem State.setFlitTries_keeps {s0 s : State} {key : Nat × Bool × Nat} {n : Nat} (hk : Keeps s0 s) : Keeps s0 (State.setFlitTries s key
    n) := by
  unfold State.setFlitTries
  with_reducible repeat' first
    | assumption | apply Keeps.cond | split | (dsimp only; split) | fail_if_no_progress refine Keeps.mk' ?_ rfl rfl rfl rfl rfl rfl

theorem execBridgeFlitTransfer_keeps {s : State} {flit : BridgeFlit} {crcOk : Bool} : Kept s
    (execBridgeFlitTransfer flit crcOk s) := by
  unfold execBridgeFlitTransfer
  with_reducible repeat' first
    | assumption | apply Kept.next | apply Kept.fault | apply Kept.cond | exact Keeps.refl _ | apply State.drain_keeps
    | apply State.raise_keeps | apply State.setFlitTries_keeps | apply Keeps.cond | split | (dsimp only; split)
    | fail_if_no_progress refine Keeps.mk' ?_ rfl rfl rfl rfl rfl rfl

theorem execRouteRecompute_keeps {s : State} {links : List (Nat × Nat × Nat)} : Kept s (execRouteRecompute links s) := by
  unfold execRouteRecompute
  with_reducible repeat' first
    | assumption | apply Kept.next | apply Kept.fault | apply Kept.cond | exact Keeps.refl _ | apply State.abortJob_keeps
    | refine Keeps.foldl ?_ fun _ _ _ => ?_ | apply Keeps.cond | fail_if_no_progress refine Keeps.mk' ?_ rfl rfl rfl rfl rfl rfl | split

end Sys2Proof.Machine
end

