-- ==== Sys2Proof/Laws/KeepsTiming.lean ====
section
/-! SUPPORT. What the operations and meanings of Machine/Timing.lean keep. -/

set_option Elab.async false
set_option linter.unusedTactic false
set_option linter.unreachableTactic false
set_option linter.unusedVariables false

namespace Sys2Proof.Machine

theorem State.localTo_keeps {s0 s : State} {t : Nat} (hk : Keeps s0 s) : Keeps s0 (State.localTo s t) := by
  unfold State.localTo
  with_reducible repeat' first
    | assumption | apply State.counterTo_keeps | apply State.advanceTo_keeps | apply Keeps.cond | split | (dsimp only; split)
    | fail_if_no_progress refine Keeps.mk' ?_ rfl rfl rfl rfl rfl rfl

theorem State.loadCounter_keeps {s0 s : State} {v : Nat} (hk : Keeps s0 s) : Keeps s0 (State.loadCounter s v) := by
  unfold State.loadCounter
  with_reducible repeat' first
    | assumption | apply State.resolveStamps_keeps | with_reducible refine State.modClock_keeps ?_ (fun _ => rfl)
    | apply State.judgeAligned_keeps | apply Keeps.cond | split | (dsimp only; split)
    | fail_if_no_progress refine Keeps.mk' ?_ rfl rfl rfl rfl rfl rfl

theorem State.sendTime_keeps {s0 s : State} {port : Nat} {kind : Nat} {seq : Nat} {a : Nat} {b : Nat} (hk : Keeps s0 s) : Keeps s0
    (State.sendTime s port kind seq a b) := by
  unfold State.sendTime
  with_reducible repeat' first
    | assumption | apply State.sendCourier_keeps | apply Keeps.cond | split | (dsimp only; split)
    | fail_if_no_progress refine Keeps.mk' ?_ rfl rfl rfl rfl rfl rfl

theorem execTimeExchangeStart_keeps {s : State}  : Kept s (execTimeExchangeStart s) := by
  unfold execTimeExchangeStart
  with_reducible repeat' first
    | assumption | apply Kept.next | apply Kept.fault | apply Kept.cond | exact Keeps.refl _
    | with_reducible refine State.modClock_keeps ?_ (fun _ => rfl) | apply State.sendTime_keeps | refine Keeps.foldl ?_ fun _ _ _ => ?_

theorem execTimeSync_keeps {s : State} {port : Nat} {m : TimeMsg} {arrival : Nat} : Kept s (execTimeSync port m arrival s) := by
  unfold execTimeSync
  with_reducible repeat' first
    | assumption | apply Kept.next | apply Kept.fault | apply Kept.cond | exact Keeps.refl _
    | with_reducible refine State.modClock_keeps ?_ (fun _ => rfl) | apply State.localTo_keeps | apply State.sendTime_keeps
    | apply Keeps.cond | split | (dsimp only; split) | fail_if_no_progress refine Keeps.mk' ?_ rfl rfl rfl rfl rfl rfl

theorem execTimeDelayRequest_keeps {s : State} {port : Nat} {m : TimeMsg} {arrival : Nat} : Kept s (execTimeDelayRequest port m
    arrival s) := by
  unfold execTimeDelayRequest
  with_reducible repeat' first
    | assumption | apply Kept.next | apply Kept.fault | apply Kept.cond | exact Keeps.refl _ | apply State.sendTime_keeps
    | apply State.localTo_keeps

theorem State.correct_keeps {s0 s : State} {port : Nat} {o2 : Int} (hk : Keeps s0 s) : Keeps s0 (State.correct s port o2) := by
  unfold State.correct
  with_reducible repeat' first
    | assumption | apply State.raise_keeps | with_reducible refine State.modClock_keeps ?_ (fun _ => rfl) | apply Keeps.cond | split
    | (dsimp only; split) | fail_if_no_progress refine Keeps.mk' ?_ rfl rfl rfl rfl rfl rfl

theorem State.loadFrom_keeps {s0 s : State} {o2 : Int} {d2 : Int} (hk : Keeps s0 s) : Keeps s0 (State.loadFrom s o2 d2) := by
  unfold State.loadFrom
  with_reducible repeat' first
    | assumption | apply State.loadCounter_keeps | with_reducible refine State.modClock_keeps ?_ (fun _ => rfl) | apply Keeps.cond
    | split

theorem execTimeDelayResponse_keeps {s : State} {port : Nat} {m : TimeMsg} : Kept s (execTimeDelayResponse port m s) := by
  unfold execTimeDelayResponse
  with_reducible repeat' first
    | assumption | apply Kept.next | apply Kept.fault | apply Kept.cond | exact Keeps.refl _
    | with_reducible refine State.modClock_keeps ?_ (fun _ => rfl) | apply State.correct_keeps | apply State.loadFrom_keeps
    | apply Keeps.cond | split | (dsimp only; split) | fail_if_no_progress refine Keeps.mk' ?_ rfl rfl rfl rfl rfl rfl

theorem execAlignmentLost_keeps {s : State}  : Kept s (execAlignmentLost s) := by
  unfold execAlignmentLost
  with_reducible repeat' first
    | assumption | apply Kept.next | apply Kept.fault | apply Kept.cond | exact Keeps.refl _ | apply State.advanceTo_keeps
    | apply State.raise_keeps | with_reducible refine State.modClock_keeps ?_ (fun _ => rfl) | apply Keeps.cond | split

theorem State.stepBoundary_keeps {s0 s : State} (hk : Keeps s0 s) : Keeps s0 (State.stepBoundary s) := by
  unfold State.stepBoundary
  with_reducible repeat' first
    | assumption | apply Keeps.cond | split | (dsimp only; split) | fail_if_no_progress refine Keeps.mk' ?_ rfl rfl rfl rfl rfl rfl

theorem execStepBoundary_keeps {s : State} : Kept s (execStepBoundary s) := by
  unfold execStepBoundary
  refine Kept.ifs (fun _ => Kept.next (Keeps.refl _)) fun _ => Kept.next ?_
  have h := Keeps.refl s
  repeat' first
    | with_reducible assumption | with_reducible apply State.stepBoundary_keeps
    | with_reducible apply State.counterTo_keeps | with_reducible apply State.advanceTo_keeps
    | with_reducible apply Keeps.cond
    | fail_if_no_progress with_reducible refine Keeps.mk' ?_ rfl rfl rfl rfl rfl rfl

end Sys2Proof.Machine
end

