-- ==== Sys2Proof/Laws/KeepsTiles.lean ====
section
/-! SUPPORT. What the operations and meanings of Machine/Tiles.lean keep. -/

set_option Elab.async false
set_option linter.unusedTactic false
set_option linter.unreachableTactic false
set_option linter.unusedVariables false

namespace Sys2Proof.Machine

theorem execListFetchDone_keeps {s : State} {a : ArrId} : Kept s (execListFetchDone a s) := by
  unfold execListFetchDone
  with_reducible repeat' first
    | assumption | apply Kept.next | apply Kept.fault | apply Kept.cond | exact Keeps.refl _ | apply State.modRegion_keeps
    | apply Keeps.cond | split | (dsimp only; split) | fail_if_no_progress refine Keeps.mk' ?_ rfl rfl rfl rfl rfl rfl

theorem State.stampLines_keeps {s0 s : State} (hk : Keeps s0 s) : Keeps s0 (State.stampLines s) := by
  unfold State.stampLines
  with_reducible repeat' first
    | assumption | apply Keeps.cond | split | (dsimp only; split) | fail_if_no_progress refine Keeps.mk' ?_ rfl rfl rfl rfl rfl rfl

theorem execFireLatch_keeps {s : State} {t : TileId} : Kept s (execFireLatch t s) := by
  unfold execFireLatch
  with_reducible repeat' first
    | assumption | apply Kept.next | apply Kept.fault | apply Kept.cond | exact Keeps.refl _ | apply State.boundary_keeps
    | apply State.chooseSlot_keeps | apply State.stampLines_keeps | apply Keeps.cond | split | (dsimp only; split)
    | fail_if_no_progress refine Keeps.mk' ?_ rfl rfl rfl rfl rfl rfl

theorem State.passSelection_keeps {s0 s : State} {f : Fire} {die : Nat} (hk : Keeps s0 s) : Keeps s0 (State.passSelection s f die) := by
  unfold State.passSelection
  with_reducible repeat' first
    | assumption | apply State.modStep_keeps | apply Keeps.cond | split | (dsimp only; split)
    | fail_if_no_progress refine Keeps.mk' ?_ rfl rfl rfl rfl rfl rfl

theorem State.overRange0_keeps {s0 s : State} {t : TileId} {fl : Flight} (hk : Keeps s0 s) : Keeps s0 (State.overRange0 s t fl) := by
  unfold State.overRange0
  with_reducible repeat' first
    | assumption | apply State.modTile_keeps | apply State.failStep_keeps | apply State.passSelection_keeps | apply State.putJob_keeps
    | apply State.countEquiv_keeps | apply State.selectLast_keeps | apply Keeps.cond | split | (dsimp only; split)
    | fail_if_no_progress refine Keeps.mk' ?_ rfl rfl rfl rfl rfl rfl

theorem execConverterResult_keeps {s : State} {t : TileId} {codes : List Int} {flags : List Bool} : Kept s (execConverterResult t
    codes flags s) := by
  unfold execConverterResult
  with_reducible repeat' first
    | assumption | apply Kept.next | apply Kept.fault | apply Kept.cond | exact Keeps.refl _ | apply State.modTile_keeps
    | apply State.overRange0_keeps | apply State.selectLast_keeps | apply Keeps.cond | split | (dsimp only; split)
    | fail_if_no_progress refine Keeps.mk' ?_ rfl rfl rfl rfl rfl rfl

theorem State.spotCopy_keeps {s0 s : State} {t : TileId} {fl : Flight} (hk : Keeps s0 s) : Keeps s0 (State.spotCopy s t fl).2 := by
  unfold State.spotCopy
  with_reducible repeat' first
    | assumption | apply State.nextDraw_keeps | apply Keeps.cond | split | (dsimp only; split)
    | fail_if_no_progress refine Keeps.mk' ?_ rfl rfl rfl rfl rfl rfl

theorem State.postmarkPasses_keeps {s0 s : State} {t : TileId} {fl : Flight} (hk : Keeps s0 s) : Keeps s0 (State.postmarkPasses s t
    fl) := by
  unfold State.postmarkPasses
  with_reducible repeat' first
    | assumption | apply State.modTile_keeps | apply State.spotCopy_keeps | apply State.modRegion_keeps | apply State.selectLast_keeps
    | apply Keeps.cond | split | (dsimp only; split) | fail_if_no_progress refine Keeps.mk' ?_ rfl rfl rfl rfl rfl rfl

theorem execPostmarkComparison_keeps {s : State} {t : TileId} : Kept s (execPostmarkComparison t s) := by
  unfold execPostmarkComparison
  with_reducible repeat' first
    | assumption | apply Kept.next | apply Kept.fault | apply Kept.cond | exact Keeps.refl _ | apply State.modTile_keeps
    | apply State.postmarkPasses_keeps | apply State.raise_keeps | apply State.transient_keeps | apply State.tryEntry_keeps
    | apply State.active_keeps | apply Keeps.cond | split | (dsimp only; split)
    | fail_if_no_progress refine Keeps.mk' ?_ rfl rfl rfl rfl rfl rfl

theorem State.vectorDue_keeps {s0 s : State} {t : TileId} {fl : Flight} (hk : Keeps s0 s) : Keeps s0 (State.vectorDue s t fl) := by
  unfold State.vectorDue
  with_reducible repeat' first
    | assumption | apply State.modTile_keeps | apply State.failStep_keeps | apply State.putJob_keeps | apply Keeps.cond | split
    | (dsimp only; split) | fail_if_no_progress refine Keeps.mk' ?_ rfl rfl rfl rfl rfl rfl

theorem execFireAdd_keeps {s : State} {t : TileId} : Kept s (execFireAdd t s) := by
  unfold execFireAdd
  with_reducible repeat' first
    | assumption | apply Kept.next | apply Kept.fault | apply Kept.cond | exact Keeps.refl _ | apply State.modTile_keeps
    | apply State.addToBank_keeps | apply State.countEquiv_keeps | apply State.vectorDue_keeps | apply State.countFires_keeps
    | apply State.tryEntry_keeps | apply State.active_keeps | apply Keeps.cond | split | (dsimp only; split)
    | fail_if_no_progress refine Keeps.mk' ?_ rfl rfl rfl rfl rfl rfl

theorem execOutlierAdd_keeps {s : State} {t : TileId} : Kept s (execOutlierAdd t s) := by
  unfold execOutlierAdd
  with_reducible repeat' first
    | assumption | apply Kept.next | apply Kept.fault | exact Keeps.refl _ | apply State.modTile_keeps | apply State.tryDrain_keeps
    | apply State.addToBank_keeps | apply Kept.cond | apply Keeps.cond | split | (dsimp only; split)
    | fail_if_no_progress refine Keeps.mk' ?_ rfl rfl rfl rfl rfl rfl

theorem State.addPart_keeps {s0 s : State} {t : TileId} {arr : Nat} {p : FbPart} {v : List Int} (hk : Keeps s0 s) : Keeps s0
    (State.addPart s t arr p v) := by
  unfold State.addPart
  with_reducible repeat' first
    | assumption | apply State.addToBank_keeps | apply State.modTile_keeps | apply State.tryDrain_keeps | apply Keeps.cond | split
    | (dsimp only; split) | fail_if_no_progress refine Keeps.mk' ?_ rfl rfl rfl rfl rfl rfl

theorem execFallbackJobDone_keeps {s : State} {die : Nat} {unit : Nat} : Kept s (execFallbackJobDone die unit s) := by
  unfold execFallbackJobDone
  with_reducible repeat' first
    | assumption | apply Kept.next | apply Kept.fault | exact Keeps.refl _ | apply State.modRegion_keeps | apply State.failStep_keeps
    | apply State.addPart_keeps | apply Kept.cond | apply Keeps.cond | refine Keeps.foldl ?_ fun _ _ _ => ?_ | split | (dsimp only; split)
    | fail_if_no_progress refine Keeps.mk' ?_ rfl rfl rfl rfl rfl rfl

theorem State.excursion_keeps {s0 s : State} {a : ArrId} (hk : Keeps s0 s) : Keeps s0 (State.excursion s a) := by
  unfold State.excursion
  with_reducible repeat' first
    | assumption | apply State.modTile_keeps | apply State.requestCal_keeps | apply State.raise_keeps | apply Keeps.cond | split
    | (dsimp only; split) | fail_if_no_progress refine Keeps.mk' ?_ rfl rfl rfl rfl rfl rfl

theorem execSpotComparisonDone_keeps {s : State} {die : Nat} {unit : Nat} : Kept s (execSpotComparisonDone die unit s) := by
  unfold execSpotComparisonDone
  with_reducible repeat' first
    | assumption | apply Kept.next | apply Kept.fault | apply Kept.cond | exact Keeps.refl _ | apply State.modRegion_keeps
    | apply State.raise_keeps | apply State.transient_keeps | apply State.requestCal_keeps | apply State.excursion_keeps | apply Keeps.cond
    | split | (dsimp only; split) | fail_if_no_progress refine Keeps.mk' ?_ rfl rfl rfl rfl rfl rfl

theorem State.adapterInto_keeps {s0 s : State} {tag : Nat} {token : Nat} {tensor : Nat} {adapter : Nat} {e : TileId × Nat × Nat}
    (hk : Keeps s0 s) : Keeps s0 (State.adapterInto s tag token tensor adapter e) := by
  unfold State.adapterInto
  with_reducible repeat' first
    | assumption | apply State.modTile_keeps | apply State.tryDrain_keeps | apply State.addToBank_keeps | apply State.failStep_keeps
    | apply Keeps.cond | split | (dsimp only; split) | fail_if_no_progress refine Keeps.mk' ?_ rfl rfl rfl rfl rfl rfl

theorem execAdapterContribution_keeps {s : State} {stepTag : Nat} {token : Nat} {tensor : Nat} {adapter : Nat} : Kept s
    (execAdapterContribution stepTag token tensor adapter s) := by
  unfold execAdapterContribution
  with_reducible repeat' first
    | assumption | apply Kept.next | apply Kept.fault | exact Keeps.refl _ | apply State.adapterInto_keeps | apply State.gather_keeps
    | apply Kept.cond | apply Keeps.cond | refine Keeps.foldl ?_ fun _ _ _ => ?_ | split | (dsimp only; split)
    | fail_if_no_progress refine Keeps.mk' ?_ rfl rfl rfl rfl rfl rfl

theorem execBankDrainDone_keeps {s : State} {t : TileId} {bank : Nat} : Kept s (execBankDrainDone t bank s) := by
  unfold execBankDrainDone
  with_reducible repeat' first
    | assumption | apply Kept.next | apply Kept.fault | apply Kept.cond | exact Keeps.refl _ | apply State.modTile_keeps
    | apply State.stampLines_keeps | apply Keeps.cond | split | (dsimp only; split)
    | fail_if_no_progress refine Keeps.mk' ?_ rfl rfl rfl rfl rfl rfl

end Sys2Proof.Machine
end

