-- ==== Sys2Proof/Laws/KeepsReduce.lean ====
section
/-! SUPPORT. What the operations and meanings of Machine/Reduce.lean keep. -/

set_option Elab.async false
set_option linter.unusedTactic false
set_option linter.unreachableTactic false
set_option linter.unusedVariables false

namespace Sys2Proof.Machine

theorem State.reductionFault_keeps {s0 s : State} {l : LineId} {source : Nat} {tag : Nat} {epoch : Nat} (hk : Keeps s0 s) : Keeps
    s0 (State.reductionFault s l source tag epoch) := by
  unfold State.reductionFault
  with_reducible repeat' first
    | assumption | apply State.transient_keeps | apply State.raise_keeps

theorem State.lineOverflow_keeps {s0 s : State} {l : LineId} {source : Nat} {tag : Nat} (hk : Keeps s0 s) : Keeps s0
    (State.lineOverflow s l source tag) := by
  unfold State.lineOverflow
  with_reducible repeat' first
    | assumption | apply State.failStep_keeps | apply State.raise_keeps | apply Keeps.cond | split | (dsimp only; split)
    | fail_if_no_progress refine Keeps.mk' ?_ rfl rfl rfl rfl rfl rfl

theorem State.putLine_keeps {s0 s : State} {l : Line} (hk : Keeps s0 s) : Keeps s0 (State.putLine s l) := by
  unfold State.putLine
  with_reducible repeat' first
    | assumption | apply Keeps.cond | fail_if_no_progress refine Keeps.mk' ?_ rfl rfl rfl rfl rfl rfl

theorem State.deliverLine_keeps {s0 s : State} {tag : Nat} {outfmt : Nat} {width : Nat} {d : LineDest} {elems : List Int} (hk :
    Keeps s0 s) : Keeps s0 (State.deliverLine s tag outfmt width d elems) := by
  unfold State.deliverLine
  with_reducible repeat' first
    | assumption | apply State.deliverValues_keeps | apply State.failStep_keeps | split

theorem State.addContribution_keeps {s0 s : State} {g : Ledger} {addr : Nat} {width : Nat} {elems : List Int} (hk : Keeps s0 s) :
    Keeps s0 (State.addContribution s g addr width elems) := by
  unfold State.addContribution
  with_reducible repeat' first
    | assumption | apply State.setLedger_keeps | apply State.reductionFault_keeps | apply State.lineOverflow_keeps
    | apply State.deliverLine_keeps | apply State.raise_keeps | apply Keeps.cond | split | (dsimp only; split)
    | fail_if_no_progress refine Keeps.mk' ?_ rfl rfl rfl rfl rfl rfl

theorem State.contribution_keeps {s0 s : State} {job : Nat} {step : Nat} {epoch : Nat} {addr : Nat} {width : Nat} {elems : List
    Int} (hk : Keeps s0 s) : Keeps s0 (State.contribution s job step epoch addr width elems) := by
  unfold State.contribution
  with_reducible repeat' first
    | assumption | apply State.addContribution_keeps | apply Keeps.cond | split | (dsimp only; split)
    | fail_if_no_progress refine Keeps.mk' ?_ rfl rfl rfl rfl rfl rfl

theorem State.contribute_keeps {s0 s : State} {l : Line} (hk : Keeps s0 s) : Keeps s0 (State.contribute s l) := by
  unfold State.contribute
  with_reducible repeat' first
    | assumption | apply State.contribution_keeps | apply State.deliverValues_keeps | apply State.sendForJob_keeps | apply Keeps.cond
    | split | (dsimp only; split) | fail_if_no_progress refine Keeps.mk' ?_ rfl rfl rfl rfl rfl rfl

theorem State.completeLine_keeps {s0 s : State} {l : Line} (hk : Keeps s0 s) : Keeps s0 (State.completeLine s l) := by
  unfold State.completeLine
  with_reducible repeat' first
    | assumption | apply State.contribute_keeps | apply State.deliverLine_keeps | apply Keeps.cond

theorem execDrainArrival_keeps {s : State} {idx : Nat} : Kept s (execDrainArrival idx s) := by
  unfold execDrainArrival
  with_reducible repeat' first
    | assumption | apply Kept.next | apply Kept.fault | apply Kept.cond | exact Keeps.refl _ | apply State.reductionFault_keeps
    | apply State.putLine_keeps | apply State.lineOverflow_keeps | apply State.completeLine_keeps | apply Keeps.cond | split
    | (dsimp only; split) | fail_if_no_progress refine Keeps.mk' ?_ rfl rfl rfl rfl rfl rfl

theorem execLineTimeout_keeps {s : State} {die : Nat} {off : Nat} : Kept s (execLineTimeout die off s) := by
  unfold execLineTimeout
  with_reducible repeat' first
    | assumption | apply Kept.next | apply Kept.fault | apply Kept.cond | exact Keeps.refl _ | apply State.reductionFault_keeps
    | apply State.putLine_keeps | apply State.advanceTo_keeps | apply Keeps.cond | split | (dsimp only; split)
    | fail_if_no_progress refine Keeps.mk' ?_ rfl rfl rfl rfl rfl rfl

theorem State.dropJobFrame_keeps {s0 s : State} (hk : Keeps s0 s) : Keeps s0 (State.dropJobFrame s) := by
  unfold State.dropJobFrame
  with_reducible repeat' first
    | assumption | with_reducible refine State.countDrop_keeps ?_ rfl

theorem State.e2eFailure_keeps {s0 s : State} {h : CourierHdr} (hk : Keeps s0 s) : Keeps s0 (State.e2eFailure s h) := by
  unfold State.e2eFailure
  with_reducible repeat' first
    | assumption | apply State.raise_keeps | with_reducible refine State.countDrop_keeps ?_ rfl | apply State.transient_keeps
    | refine Keeps.foldl ?_ fun _ _ _ => ?_ | apply Keeps.cond

theorem State.withCourier_keeps {s0 s : State} {h : CourierHdr} {type : Nat} {f : State → State} (hk : Keeps s0 s) (hf : ∀ x ,
    Keeps s0 x → Keeps s0 (f x )) : Keeps s0 (State.withCourier s h type f) := by
  unfold State.withCourier
  with_reducible repeat' first
    | assumption | apply hf | apply State.e2eFailure_keeps | with_reducible refine State.countDrop_keeps ?_ rfl
    | apply State.dropJobFrame_keeps | apply State.scheduleWakes_keeps | apply Keeps.cond | split | (dsimp only; split)
    | fail_if_no_progress refine Keeps.mk' ?_ rfl rfl rfl rfl rfl rfl

theorem State.refuseRecord_keeps {s0 s : State} {version : Nat} (hk : Keeps s0 s) : Keeps s0 (State.refuseRecord s version) := by
  unfold State.refuseRecord
  with_reducible repeat' first
    | assumption | with_reducible refine State.countDrop_keeps ?_ rfl | apply Keeps.cond

theorem State.takeContribution_keeps {s0 s : State} {payload : Bytes} (hk : Keeps s0 s) : Keeps s0 (State.takeContribution s
    payload) := by
  unfold State.takeContribution
  with_reducible repeat' first
    | assumption | apply State.dropJobFrame_keeps | apply State.refuseRecord_keeps | apply State.contribution_keeps | apply Keeps.cond
    | split | (dsimp only; split) | fail_if_no_progress refine Keeps.mk' ?_ rfl rfl rfl rfl rfl rfl

theorem execContributionRecord_keeps {s : State} {h : CourierHdr} {payload : Bytes} : Kept s (execContributionRecord h payload s) := by
  unfold execContributionRecord
  with_reducible repeat' first
    | assumption | apply Kept.next | apply Kept.fault | exact Keeps.refl _ | refine State.withCourier_keeps ?_ (fun _ _ => ?_)
    | apply State.takeContribution_keeps

theorem State.noticeStep_keeps {s0 s : State} {job : Nat} {step : Nat} {epoch : Nat} (hk : Keeps s0 s) : Keeps s0 (State.noticeStep
    s job step epoch) := by
  unfold State.noticeStep
  with_reducible repeat' first
    | assumption | apply State.rerun_keeps | apply State.replayRecord_keeps | apply State.abortJob_keeps | apply Keeps.cond | split

theorem State.takeReplay_keeps {s0 s : State} {payload : Bytes} (hk : Keeps s0 s) : Keeps s0 (State.takeReplay s payload) := by
  unfold State.takeReplay
  with_reducible repeat' first
    | assumption | apply State.dropJobFrame_keeps | apply State.refuseRecord_keeps | apply State.setLedger_keeps
    | apply State.noticeStep_keeps | apply Keeps.cond | split | (dsimp only; split)
    | fail_if_no_progress refine Keeps.mk' ?_ rfl rfl rfl rfl rfl rfl

theorem execReplayNotice_keeps {s : State} {h : CourierHdr} {payload : Bytes} : Kept s (execReplayNotice h payload s) := by
  unfold execReplayNotice
  with_reducible repeat' first
    | assumption | apply Kept.next | apply Kept.fault | exact Keeps.refl _ | refine State.withCourier_keeps ?_ (fun _ _ => ?_)
    | apply State.takeReplay_keeps

theorem execAttentionResult_keeps {s : State} {stepTag : Nat} {token : Nat} {head : Nat} : Kept s (execAttentionResult stepTag
    token head s) := by
  unfold execAttentionResult
  with_reducible repeat' first
    | assumption | apply Kept.next | apply Kept.fault | apply Kept.cond | exact Keeps.refl _ | apply State.attend_keeps

end Sys2Proof.Machine
end

