-- ==== Sys2Proof/Laws/KeepsFabric.lean ====
section
/-! SUPPORT. What the operations and meanings of Machine/Fabric.lean keep. -/

set_option Elab.async false
set_option linter.unusedTactic false
set_option linter.unreachableTactic false
set_option linter.unusedVariables false

namespace Sys2Proof.Machine

theorem State.dropActivations_keeps {s0 s : State} {n : Nat} (hk : Keeps s0 s) : Keeps s0 (State.dropActivations s n) := by
  unfold State.dropActivations
  with_reducible repeat' first
    | assumption | with_reducible refine State.countDrop_keeps ?_ rfl

theorem State.wakeTokens_keeps {s0 s : State} {o : OpenStep} {token : Nat} (hk : Keeps s0 s) : Keeps s0 (State.wakeTokens s o token) := by
  unfold State.wakeTokens
  with_reducible repeat' first
    | assumption | apply State.advanceToken_keeps | refine Keeps.foldl ?_ fun _ _ _ => ?_ | apply Keeps.cond

theorem State.placeActivation_keeps {s0 s : State} {o : OpenStep} {a : Activation} (hk : Keeps s0 s) : Keeps s0
    (State.placeActivation s o a) := by
  unfold State.placeActivation
  with_reducible repeat' first
    | assumption | apply State.dropActivations_keeps | apply State.wakeTokens_keeps | apply Keeps.cond
    | fail_if_no_progress refine Keeps.mk' ?_ rfl rfl rfl rfl rfl rfl

theorem State.holdActivation_keeps {s0 s : State} {a : Activation} (hk : Keeps s0 s) : Keeps s0 (State.holdActivation s a) := by
  unfold State.holdActivation
  with_reducible repeat' first
    | assumption | apply State.dropActivations_keeps | apply Keeps.cond | fail_if_no_progress refine Keeps.mk' ?_ rfl rfl rfl rfl rfl rfl

theorem State.takeActivation_keeps {s0 s : State} {job : Nat} {p : Bytes} (hk : Keeps s0 s) : Keeps s0 (State.takeActivation s job
    p) := by
  unfold State.takeActivation
  with_reducible repeat' first
    | assumption | apply State.refuseRecord_keeps | apply State.placeActivation_keeps | apply State.holdActivation_keeps
    | apply Keeps.cond | split | (dsimp only; split)

theorem execActivationRecord_keeps {s : State} {h : CourierHdr} {payload : Bytes} : Kept s (execActivationRecord h payload s) := by
  unfold execActivationRecord
  with_reducible repeat' first
    | assumption | apply Kept.next | apply Kept.fault | exact Keeps.refl _ | refine State.withCourier_keeps ?_ (fun _ _ => ?_)
    | apply State.takeActivation_keeps

theorem execActivationHoldTimeout_keeps {s : State} {job : Nat} {step : Nat} {token : Nat} : Kept s (execActivationHoldTimeout job
    step token s) := by
  unfold execActivationHoldTimeout
  with_reducible repeat' first
    | assumption | apply Kept.next | apply Kept.fault | exact Keeps.refl _ | apply State.advanceTo_keeps
    | apply State.dropActivations_keeps | fail_if_no_progress refine Keeps.mk' ?_ rfl rfl rfl rfl rfl rfl | split | (dsimp only; split)

theorem State.takeControl_keeps {s0 s : State} {p : Bytes} (hk : Keeps s0 s) : Keeps s0 (State.takeControl s p) := by
  unfold State.takeControl
  with_reducible repeat' first
    | assumption | apply State.dropJobFrame_keeps | apply State.abortJob_keeps | apply Keeps.cond

theorem execModuleDownNotice_keeps {s : State} {h : CourierHdr} {payload : Bytes} : Kept s (execModuleDownNotice h payload s) := by
  unfold execModuleDownNotice
  with_reducible repeat' first
    | assumption | apply Kept.next | apply Kept.fault | exact Keeps.refl _ | refine State.withCourier_keeps ?_ (fun _ _ => ?_)
    | apply State.takeControl_keeps

theorem execJobAbortNotice_keeps {s : State} {h : CourierHdr} {payload : Bytes} : Kept s (execJobAbortNotice h payload s) := by
  unfold execJobAbortNotice
  with_reducible repeat' first
    | assumption | apply Kept.next | apply Kept.fault | exact Keeps.refl _ | refine State.withCourier_keeps ?_ (fun _ _ => ?_)
    | apply State.takeControl_keeps

theorem execJobWaitTimeout_keeps {s : State} {job : Nat} : Kept s (execJobWaitTimeout job s) := by
  unfold execJobWaitTimeout
  with_reducible repeat' first
    | assumption | apply Kept.next | apply Kept.fault | exact Keeps.refl _ | apply State.abortJob_keeps | apply State.advanceTo_keeps
    | apply Kept.cond | apply Keeps.cond | split | (dsimp only; split) | fail_if_no_progress refine Keeps.mk' ?_ rfl rfl rfl rfl rfl rfl

theorem State.takeParcel_keeps {s0 s : State} {p : Bytes} (hk : Keeps s0 s) : Keeps s0 (State.takeParcel s p) := by
  unfold State.takeParcel
  with_reducible repeat' first
    | assumption | apply State.parcelData_keeps | apply Keeps.cond

theorem execCourierParcelFrame_keeps {s : State} {h : CourierHdr} {payload : Bytes} : Kept s (execCourierParcelFrame h payload s) := by
  unfold execCourierParcelFrame
  with_reducible repeat' first
    | assumption | apply Kept.next | apply Kept.fault | exact Keeps.refl _ | refine State.withCourier_keeps ?_ (fun _ _ => ?_)
    | apply State.takeParcel_keeps

theorem State.takeCourier_keeps {s0 s : State} {h : CourierHdr} {p : Bytes} (hk : Keeps s0 s) : Keeps s0 (State.takeCourier s h p) := by
  unfold State.takeCourier
  with_reducible repeat' first
    | assumption | refine State.withCourier_keeps ?_ (fun _ _ => ?_) | apply State.takeReplay_keeps | apply State.takeContribution_keeps
    | apply State.takeParcel_keeps | apply State.takeActivation_keeps | apply State.takeControl_keeps
    | with_reducible refine State.countDrop_keeps ?_ rfl | apply Keeps.cond

theorem State.forward_keeps {s0 s : State} {h : CourierHdr} {p : Bytes} (hk : Keeps s0 s) : Keeps s0 (State.forward s h p) := by
  unfold State.forward
  with_reducible repeat' first
    | assumption | apply State.raise_keeps | with_reducible refine State.countDrop_keeps ?_ rfl | apply State.sendOrAbort_keeps
    | apply Keeps.cond | split | (dsimp only; split) | fail_if_no_progress refine Keeps.mk' ?_ rfl rfl rfl rfl rfl rfl

theorem execCourierFrameRoute_keeps {s : State} {h : CourierHdr} {payload : Bytes} : Kept s (execCourierFrameRoute h payload s) := by
  unfold execCourierFrameRoute
  with_reducible repeat' first
    | assumption | apply Kept.next | apply Kept.fault | apply Kept.cond | exact Keeps.refl _ | apply State.takeCourier_keeps
    | apply State.forward_keeps | apply Keeps.cond

end Sys2Proof.Machine
end

