-- ==== Sys2Proof/Laws/KeepsCommands.lean ====
section
/-! SUPPORT. What the operations and meanings of Machine/Commands.lean keep. -/

set_option Elab.async false
set_option linter.unusedTactic false
set_option linter.unreachableTactic false
set_option linter.unusedVariables false

namespace Sys2Proof.Machine

/-- The state of a command's outcome follows `s`. -/
def Done (s : State) (r : CmdOut) : Prop := Keeps s r.state

theorem Done.done {s t : State} (h : Keeps s t) : Done s t.done := h
theorem Done.doneWith {s t : State} {b : Bytes} (h : Keeps s t) : Done s (t.doneWith b) := h
theorem Done.fails {s t : State} {n : Nat} (h : Keeps s t) : Done s (t.fails n) := h
theorem Done.failsAt {s t : State} {n d : Nat} (h : Keeps s t) : Done s (t.failsAt n d) := h
theorem Done.of_keeps {s t : State} {n d : Nat} {b : Bytes} (h : Keeps s t) : Done s ⟨n, d, b, t⟩ := h

theorem Done.ifs {s : State} {a b : CmdOut} {c : Prop} {d : Decidable c} (ha : c → Done s a) (hb : ¬ c → Done s b) :
    Done s (@ite CmdOut c d a b) := by
  by_cases h : c
  · rw [if_pos h]; exact ha h
  · rw [if_neg h]; exact hb h

theorem Done.cond {s : State} {a b : CmdOut} {c : Prop} {d : Decidable c} (ha : Done s a) (hb : Done s b) :
    Done s (@ite CmdOut c d a b) :=
  Done.ifs (fun _ => ha) fun _ => hb

/-- What a command does, and what follows its RESPONSE, keeps what every operation keeps. -/
structure Command.Keeping (k : Command) : Prop where
  run : ∀ s0 s a, Keeps s0 s → Done s0 (k.run s a)
  post : ∀ s0 s a, Keeps s0 s → Keeps s0 (k.post s a)

theorem State.carry_keeps {s0 s : State} {c : CmdFrame} {k : Command} (h : k.Keeping) (hk : Keeps s0 s) : Done s0 (s.carry c k) := by
  unfold State.carry
  repeat' first
    | with_reducible refine Done.ifs (fun _ => ?_) (fun _ => ?_) | with_reducible exact Done.fails hk
    | with_reducible exact Done.failsAt hk | with_reducible exact h.run _ _ _ hk | split

theorem State.complete_keeps {s0 s : State} {c : CmdFrame} {opcode : Nat} {r : CmdOut} (hr : Done s0 r) (hk : Keeps s0 s) :
    Keeps s0 (s.complete c opcode r) := by
  unfold State.complete
  have h1 : Keeps s0 (if r.code = 0 then r.state else s) := Keeps.ifs (fun _ => hr) fun _ => hk
  generalize (if r.code = 0 then r.state else s) = s1 at h1
  refine State.respondWith_keeps (Keeps.ifs (fun _ => State.writeMem_keeps ?_) fun _ => ?_) <;> exact Keeps.mk' h1 rfl rfl rfl rfl rfl rfl

theorem State.refuseCommand_keeps {s0 s : State} {c : CmdFrame} {status : Nat} (hk : Keeps s0 s) : Keeps s0 (State.refuseCommand c s
    status) := by
  unfold State.refuseCommand
  with_reducible repeat' first
    | assumption | apply State.respondWith_keeps | apply Keeps.cond | split | (dsimp only; split)
    | fail_if_no_progress refine Keeps.mk' ?_ rfl rfl rfl rfl rfl rfl

theorem State.carryOut_keeps {s0 s : State} {c : CmdFrame} {k : Command} (h : k.Keeping) (hk : Keeps s0 s) :
    Keeps s0 (State.carryOut c k s) := by
  unfold State.carryOut
  have h1 := State.complete_keeps (c := c) (opcode := k.opcode) (State.carry_keeps (c := c) h hk) hk
  exact Keeps.ifs (fun _ => State.refuseCommand_keeps hk) fun _ => Keeps.ifs (fun _ => h.post _ _ _ h1) fun _ => h1

theorem State.command_keeps {s0 s : State} {c : CmdFrame} {k : Command} (h : k.Keeping) (hk : Keeps s0 s) :
    Keeps s0 (s.command c k) :=
  State.takeChecked_keeps hk (fun _ hx => State.carryOut_keeps h hx) fun _ _ hx => State.refuseCommand_keeps hx

theorem cmdReserved_keeps {opcode : Nat} : Command.Keeping (cmdReserved opcode) :=
  ⟨fun _ _ _ hk => Done.fails hk, fun _ _ _ hk => hk⟩

theorem State.reservedCommand_keeps {s0 s : State} {c : CmdFrame} {opcode : Nat} (hk : Keeps s0 s) :
    Keeps s0 (s.reservedCommand c opcode) :=
  State.command_keeps ⟨(cmdReserved_keeps (opcode := opcode)).run, (cmdReserved_keeps (opcode := opcode)).post⟩ hk

theorem execReservedOpcode_keeps {s : State} {c : CmdFrame} {opcode : Nat} : Kept s (execReservedOpcode c opcode s) := by
  unfold execReservedOpcode
  with_reducible repeat' first
    | assumption | apply Kept.next | apply Kept.fault | apply Kept.cond | exact Keeps.refl _ | apply State.reservedCommand_keeps
    | apply Keeps.cond

theorem State.addWindow_keeps {s0 s : State} {w : Window} (hk : Keeps s0 s) : Keeps s0 (State.addWindow s w) := by
  unfold State.addWindow
  with_reducible repeat' first
    | assumption | fail_if_no_progress refine Keeps.mk' ?_ rfl rfl rfl rfl rfl rfl

theorem cmdCreateWindow_keeps : Command.Keeping cmdCreateWindow := by
  refine ⟨fun s0 s a hk => ?_, fun s0 s a hk => ?_⟩
  all_goals dsimp only [cmdCreateWindow]
  with_reducible repeat' first
    | assumption | exact Done.of_keeps ‹_› | apply Done.cond | apply Done.done | apply Done.doneWith | apply Done.fails
    | apply Done.failsAt | apply State.addWindow_keeps

theorem execCreateWindow_keeps {s : State} {c : CmdFrame} : Kept s (execCreateWindow c s) := by
  unfold execCreateWindow
  with_reducible repeat' first
    | assumption | apply Kept.next | apply Kept.fault | exact Keeps.refl _ | refine State.command_keeps cmdCreateWindow_keeps ?_

theorem cmdDeleteWindow_keeps : Command.Keeping cmdDeleteWindow := by
  refine ⟨fun s0 s a hk => ?_, fun s0 s a hk => hk⟩
  dsimp only [cmdDeleteWindow]
  split
  · exact Done.fails hk
  · refine Done.ifs (fun _ => Done.fails hk) fun _ => Done.done ⟨hk.pending, hk.tick, hk.device, fun q => ?_⟩
    obtain ⟨a, b, c, d⟩ := hk.sound q
    exact ⟨memClear_wf _ _ _ a, b, c, d⟩

theorem execDeleteWindow_keeps {s : State} {c : CmdFrame} : Kept s (execDeleteWindow c s) := by
  unfold execDeleteWindow
  with_reducible repeat' first
    | assumption | apply Kept.next | apply Kept.fault | exact Keeps.refl _ | refine State.command_keeps cmdDeleteWindow_keeps ?_

theorem cmdCreateQueue_keeps : Command.Keeping cmdCreateQueue := by
  refine ⟨fun s0 s a hk => ?_, fun s0 s a hk => ?_⟩
  all_goals dsimp only [cmdCreateQueue]
  with_reducible repeat' first
    | assumption | exact Done.of_keeps ‹_› | apply Done.cond | apply Done.done | apply Done.doneWith | apply Done.fails
    | apply Done.failsAt | apply Keeps.cond | fail_if_no_progress refine Keeps.mk' ?_ rfl rfl rfl rfl rfl rfl

theorem execCreateQueue_keeps {s : State} {c : CmdFrame} : Kept s (execCreateQueue c s) := by
  unfold execCreateQueue
  with_reducible repeat' first
    | assumption | apply Kept.next | apply Kept.fault | exact Keeps.refl _ | refine State.command_keeps cmdCreateQueue_keeps ?_

theorem State.deleteQueue_keeps {s0 s : State} {q : Queue} (hk : Keeps s0 s) : Keeps s0 (State.deleteQueue s q) := by
  unfold State.deleteQueue
  with_reducible repeat' first
    | assumption | apply State.modQueue_keeps | apply State.sweep_keeps | apply State.endUnbegun_keeps
    | refine Keeps.foldl ?_ fun _ _ _ => ?_

theorem cmdDeleteQueue_keeps : Command.Keeping cmdDeleteQueue := by
  refine ⟨fun s0 s a hk => ?_, fun s0 s a hk => ?_⟩
  all_goals dsimp only [cmdDeleteQueue]
  with_reducible repeat' first
    | assumption | exact Done.of_keeps ‹_› | apply Done.cond | apply Done.done | apply Done.doneWith | apply Done.fails
    | apply Done.failsAt | apply State.deleteQueue_keeps | apply Keeps.cond | split

theorem execDeleteQueue_keeps {s : State} {c : CmdFrame} : Kept s (execDeleteQueue c s) := by
  unfold execDeleteQueue
  with_reducible repeat' first
    | assumption | apply Kept.next | apply Kept.fault | exact Keeps.refl _ | refine State.command_keeps cmdDeleteQueue_keeps ?_

theorem cmdSetEventRing_keeps : Command.Keeping cmdSetEventRing := by
  refine ⟨fun s0 s a hk => ?_, fun s0 s a hk => ?_⟩
  all_goals dsimp only [cmdSetEventRing]
  with_reducible repeat' first
    | assumption | exact Done.of_keeps ‹_› | apply Done.cond | apply Done.done | apply Done.doneWith | apply Done.fails
    | apply Done.failsAt | apply Keeps.cond | fail_if_no_progress refine Keeps.mk' ?_ rfl rfl rfl rfl rfl rfl

theorem execSetEventRing_keeps {s : State} {c : CmdFrame} : Kept s (execSetEventRing c s) := by
  unfold execSetEventRing
  with_reducible repeat' first
    | assumption | apply Kept.next | apply Kept.fault | exact Keeps.refl _ | refine State.command_keeps cmdSetEventRing_keeps ?_

theorem cmdCreateContext_keeps : Command.Keeping cmdCreateContext := by
  refine ⟨fun s0 s a hk => ?_, fun s0 s a hk => ?_⟩
  all_goals dsimp only [cmdCreateContext]
  with_reducible repeat' first
    | assumption | exact Done.of_keeps ‹_› | apply Done.cond | apply Done.done | apply Done.doneWith | apply Done.fails
    | apply Done.failsAt | apply State.setContext_keeps

theorem execCreateContext_keeps {s : State} {c : CmdFrame} : Kept s (execCreateContext c s) := by
  unfold execCreateContext
  with_reducible repeat' first
    | assumption | apply Kept.next | apply Kept.fault | exact Keeps.refl _ | refine State.command_keeps cmdCreateContext_keeps ?_

theorem State.changeContext_keeps {s0 s : State} {old : Context} {new : Context} (hk : Keeps s0 s) : Keeps s0 (State.changeContext
    s old new) := by
  unfold State.changeContext
  with_reducible repeat' first
    | assumption | apply State.setContext_keeps | apply State.dropDraft_keeps | apply Keeps.cond | refine Keeps.foldl ?_ fun _ _ _ => ?_
    | split | (dsimp only; split) | fail_if_no_progress refine Keeps.mk' ?_ rfl rfl rfl rfl rfl rfl

theorem cmdChangeContext_keeps : Command.Keeping cmdChangeContext := by
  refine ⟨fun s0 s a hk => ?_, fun s0 s a hk => ?_⟩
  all_goals dsimp only [cmdChangeContext]
  with_reducible repeat' first
    | assumption | exact Done.of_keeps ‹_› | apply Done.cond | apply Done.done | apply Done.doneWith | apply Done.fails
    | apply Done.failsAt | apply State.changeContext_keeps | apply Keeps.cond | split

theorem execChangeContext_keeps {s : State} {c : CmdFrame} : Kept s (execChangeContext c s) := by
  unfold execChangeContext
  with_reducible repeat' first
    | assumption | apply Kept.next | apply Kept.fault | exact Keeps.refl _ | refine State.command_keeps cmdChangeContext_keeps ?_

theorem State.markDiscarding_keeps {s0 s : State} {n : Nat} (hk : Keeps s0 s) : Keeps s0 (State.markDiscarding s n) := by
  unfold State.markDiscarding
  with_reducible repeat' first
    | assumption | apply Keeps.cond | fail_if_no_progress refine Keeps.mk' ?_ rfl rfl rfl rfl rfl rfl

theorem State.discardContext_keeps {s0 s : State} {n : Nat} (hk : Keeps s0 s) : Keeps s0 (State.discardContext s n) := by
  unfold State.discardContext
  with_reducible repeat' first
    | assumption | apply State.markDiscarding_keeps | apply State.sweep_keeps | apply State.deleteQueue_keeps
    | refine Keeps.foldl ?_ fun _ _ _ => ?_

theorem cmdDiscardContext_keeps : Command.Keeping cmdDiscardContext := by
  refine ⟨fun s0 s a hk => ?_, fun s0 s a hk => ?_⟩
  all_goals dsimp only [cmdDiscardContext]
  with_reducible repeat' first
    | assumption | exact Done.of_keeps ‹_› | apply Done.cond | apply Done.done | apply Done.doneWith | apply Done.fails
    | apply Done.failsAt | apply State.discardContext_keeps | apply Keeps.cond | split

theorem execDiscardContext_keeps {s : State} {c : CmdFrame} : Kept s (execDiscardContext c s) := by
  unfold execDiscardContext
  with_reducible repeat' first
    | assumption | apply Kept.next | apply Kept.fault | exact Keeps.refl _ | refine State.command_keeps cmdDiscardContext_keeps ?_

theorem State.resizeRegions_keeps {s0 s : State} {pfx : Nat} {level1 : Nat} (hk : Keeps s0 s) : Keeps s0 (State.resizeRegions s pfx
    level1) := by
  unfold State.resizeRegions
  with_reducible repeat' first
    | assumption | fail_if_no_progress refine Keeps.mk' ?_ rfl rfl rfl rfl rfl rfl

theorem cmdSetRegions_keeps : Command.Keeping cmdSetRegions := by
  refine ⟨fun s0 s a hk => ?_, fun s0 s a hk => ?_⟩
  all_goals dsimp only [cmdSetRegions]
  with_reducible repeat' first
    | assumption | exact Done.of_keeps ‹_› | apply Done.cond | apply Done.done | apply Done.doneWith | apply Done.fails
    | apply Done.failsAt | apply State.resizeRegions_keeps

theorem execSetRegions_keeps {s : State} {c : CmdFrame} : Kept s (execSetRegions c s) := by
  unfold execSetRegions
  with_reducible repeat' first
    | assumption | apply Kept.next | apply Kept.fault | exact Keeps.refl _ | refine State.command_keeps cmdSetRegions_keeps ?_

theorem cmdSetServing_keeps : Command.Keeping cmdSetServing := by
  refine ⟨fun s0 s a hk => ?_, fun s0 s a hk => ?_⟩
  all_goals dsimp only [cmdSetServing]
  with_reducible repeat' first
    | assumption | exact Done.of_keeps ‹_› | apply Done.done | apply Done.doneWith | apply Done.fails | apply Done.failsAt
    | fail_if_no_progress refine Keeps.mk' ?_ rfl rfl rfl rfl rfl rfl

theorem execSetServing_keeps {s : State} {c : CmdFrame} : Kept s (execSetServing c s) := by
  unfold execSetServing
  with_reducible repeat' first
    | assumption | apply Kept.next | apply Kept.fault | exact Keeps.refl _ | refine State.command_keeps cmdSetServing_keeps ?_

theorem State.releaseAll_keeps {s0 s : State} (hk : Keeps s0 s) : Keeps s0 (State.releaseAll s) := by
  unfold State.releaseAll
  with_reducible repeat' first
    | assumption | apply State.discardAll_keeps | apply State.enterP1_keeps | apply Keeps.cond
    | fail_if_no_progress refine Keeps.mk' ?_ rfl rfl rfl rfl rfl rfl

theorem cmdReleaseLease_keeps : Command.Keeping cmdReleaseLease := by
  refine ⟨fun s0 s a hk => ?_, fun s0 s a hk => ?_⟩
  all_goals dsimp only [cmdReleaseLease]
  with_reducible repeat' first
    | assumption | exact Done.of_keeps ‹_› | apply Done.cond | apply Done.done | apply Done.doneWith | apply Done.fails
    | apply Done.failsAt | apply State.endLease_keeps | apply State.releaseAll_keeps | apply Keeps.cond

theorem execReleaseLease_keeps {s : State} {c : CmdFrame} : Kept s (execReleaseLease c s) := by
  unfold execReleaseLease
  with_reducible repeat' first
    | assumption | apply Kept.next | apply Kept.fault | exact Keeps.refl _ | refine State.command_keeps cmdReleaseLease_keeps ?_

theorem State.setFabric_keeps {s0 s : State} {coord : Nat} {dim : Nat} {twist : Nat} {fabricId : Nat} {root : Nat} (hk : Keeps s0
    s) : Keeps s0 (State.setFabric s coord dim twist fabricId root) := by
  unfold State.setFabric
  with_reducible repeat' first
    | assumption | apply State.checkPort_keeps | apply State.judgeAligned_keeps | apply Keeps.cond | refine Keeps.foldl ?_ fun _ _ _ => ?_
    | split | (dsimp only; split) | fail_if_no_progress refine Keeps.mk' ?_ rfl rfl rfl rfl rfl rfl

theorem cmdSetFabric_keeps : Command.Keeping cmdSetFabric := by
  refine ⟨fun s0 s a hk => ?_, fun s0 s a hk => ?_⟩
  all_goals dsimp only [cmdSetFabric]
  with_reducible repeat' first
    | assumption | exact Done.of_keeps ‹_› | apply Done.cond | apply Done.done | apply Done.doneWith | apply Done.fails
    | apply Done.failsAt | apply State.setFabric_keeps

theorem execSetFabric_keeps {s : State} {c : CmdFrame} : Kept s (execSetFabric c s) := by
  unfold execSetFabric
  with_reducible repeat' first
    | assumption | apply Kept.next | apply Kept.fault | exact Keeps.refl _ | refine State.command_keeps cmdSetFabric_keeps ?_

theorem cmdSetJobTable_keeps : Command.Keeping cmdSetJobTable := by
  refine ⟨fun s0 s a hk => ?_, fun s0 s a hk => ?_⟩
  all_goals dsimp only [cmdSetJobTable]
  with_reducible repeat' first
    | assumption | exact Done.of_keeps ‹_› | apply Done.done | apply Done.doneWith | apply Done.fails | apply Done.failsAt
    | fail_if_no_progress refine Keeps.mk' ?_ rfl rfl rfl rfl rfl rfl

theorem execSetJobTable_keeps {s : State} {c : CmdFrame} : Kept s (execSetJobTable c s) := by
  unfold execSetJobTable
  with_reducible repeat' first
    | assumption | apply Kept.next | apply Kept.fault | exact Keeps.refl _ | refine State.command_keeps cmdSetJobTable_keeps ?_

theorem State.releaseJob_keeps {s0 s : State} {job : Nat} (hk : Keeps s0 s) : Keeps s0 (State.releaseJob s job) := by
  unfold State.releaseJob
  with_reducible repeat' first
    | assumption | apply State.sweep_keeps | apply State.deliverAll_keeps | apply State.voidStep_keeps
    | refine Keeps.foldl ?_ fun _ _ _ => ?_

theorem cmdReleaseJob_keeps : Command.Keeping cmdReleaseJob := by
  refine ⟨fun s0 s a hk => ?_, fun s0 s a hk => ?_⟩
  all_goals dsimp only [cmdReleaseJob]
  with_reducible repeat' first
    | assumption | exact Done.of_keeps ‹_› | apply Done.cond | apply Done.done | apply Done.doneWith | apply Done.fails
    | apply Done.failsAt | apply State.releaseJob_keeps

theorem execReleaseJob_keeps {s : State} {c : CmdFrame} : Kept s (execReleaseJob c s) := by
  unfold execReleaseJob
  with_reducible repeat' first
    | assumption | apply Kept.next | apply Kept.fault | exact Keeps.refl _ | refine State.command_keeps cmdReleaseJob_keeps ?_

theorem cmdResetPort_keeps : Command.Keeping cmdResetPort := by
  refine ⟨fun s0 s a hk => ?_, fun s0 s a hk => ?_⟩
  all_goals dsimp only [cmdResetPort]
  with_reducible repeat' first
    | assumption | exact Done.of_keeps ‹_› | apply Done.cond | apply Done.done | apply Done.doneWith | apply Done.fails
    | apply Done.failsAt | apply State.modPort_keeps | apply State.modDsp_keeps | apply Keeps.cond

theorem execResetPort_keeps {s : State} {c : CmdFrame} : Kept s (execResetPort c s) := by
  unfold execResetPort
  with_reducible repeat' first
    | assumption | apply Kept.next | apply Kept.fault | exact Keeps.refl _ | refine State.command_keeps cmdResetPort_keeps ?_

theorem cmdReadPorts_keeps : Command.Keeping cmdReadPorts := by
  refine ⟨fun s0 s a hk => ?_, fun s0 s a hk => ?_⟩
  all_goals dsimp only [cmdReadPorts]
  with_reducible repeat' first
    | assumption | exact Done.of_keeps ‹_› | apply Done.done | apply Done.doneWith

theorem execReadPorts_keeps {s : State} {c : CmdFrame} : Kept s (execReadPorts c s) := by
  unfold execReadPorts
  with_reducible repeat' first
    | assumption | apply Kept.next | apply Kept.fault | exact Keeps.refl _ | refine State.command_keeps cmdReadPorts_keeps ?_

theorem cmdLoadTime_keeps : Command.Keeping cmdLoadTime := by
  refine ⟨fun s0 s a hk => ?_, fun s0 s a hk => ?_⟩
  all_goals dsimp only [cmdLoadTime]
  with_reducible repeat' first
    | assumption | exact Done.of_keeps ‹_› | apply Done.cond | apply Done.done | apply Done.doneWith | apply Done.fails
    | apply Done.failsAt | apply State.loadCounter_keeps

theorem execLoadTime_keeps {s : State} {c : CmdFrame} : Kept s (execLoadTime c s) := by
  unfold execLoadTime
  with_reducible repeat' first
    | assumption | apply Kept.next | apply Kept.fault | exact Keeps.refl _ | refine State.command_keeps cmdLoadTime_keeps ?_

theorem cmdRequestCalibration_keeps : Command.Keeping cmdRequestCalibration := by
  refine ⟨fun s0 s a hk => ?_, fun s0 s a hk => ?_⟩
  all_goals dsimp only [cmdRequestCalibration]
  with_reducible repeat' first
    | assumption | exact Done.of_keeps ‹_› | apply Done.cond | apply Done.done | apply Done.doneWith | apply Done.fails
    | apply Done.failsAt | apply State.requestCal_keeps

theorem execRequestCalibration_keeps {s : State} {c : CmdFrame} : Kept s (execRequestCalibration c s) := by
  unfold execRequestCalibration
  with_reducible repeat' first
    | assumption | apply Kept.next | apply Kept.fault | exact Keeps.refl _ | refine State.command_keeps cmdRequestCalibration_keeps ?_

theorem cmdReadStorm_keeps : Command.Keeping cmdReadStorm := by
  refine ⟨fun s0 s a hk => ?_, fun s0 s a hk => ?_⟩
  all_goals dsimp only [cmdReadStorm]
  with_reducible repeat' first
    | assumption | exact Done.of_keeps ‹_› | apply Done.done | apply Done.doneWith

theorem execReadStorm_keeps {s : State} {c : CmdFrame} : Kept s (execReadStorm c s) := by
  unfold execReadStorm
  with_reducible repeat' first
    | assumption | apply Kept.next | apply Kept.fault | exact Keeps.refl _ | refine State.command_keeps cmdReadStorm_keeps ?_

theorem State.beginPowerEntry_keeps {s0 s : State} {dst : PowerState} (hk : Keeps s0 s) : Keeps s0 (State.beginPowerEntry s dst) := by
  unfold State.beginPowerEntry
  with_reducible repeat' first
    | assumption | apply State.tryEntry_keeps | apply State.suspendLease_keeps | apply Keeps.cond | split | (dsimp only; split)
    | fail_if_no_progress refine Keeps.mk' ?_ rfl rfl rfl rfl rfl rfl

theorem State.goPower_keeps {s0 s : State} {dst : PowerState} (hk : Keeps s0 s) : Keeps s0 (State.goPower s dst) := by
  unfold State.goPower
  with_reducible repeat' first
    | assumption | apply State.wake_keeps | apply State.enterP1_keeps | apply State.beginPowerEntry_keeps | apply Keeps.cond | split

theorem cmdSetPowerState_keeps : Command.Keeping cmdSetPowerState := by
  refine ⟨fun s0 s a hk => ?_, fun s0 s a hk => ?_⟩
  all_goals dsimp only [cmdSetPowerState]
  with_reducible repeat' first
    | assumption | exact Done.of_keeps ‹_› | apply Done.done | apply Done.doneWith | apply Done.fails | apply Done.failsAt
    | apply State.goPower_keeps

theorem cmdPowerPending_keeps : Command.Keeping cmdPowerPending := by
  refine ⟨fun s0 s a hk => ?_, fun s0 s a hk => ?_⟩
  all_goals dsimp only [cmdPowerPending]
  with_reducible repeat' first
    | assumption | exact Done.of_keeps ‹_› | apply Done.done | apply Done.doneWith | apply Done.fails

theorem execSetPowerState_keeps {s : State} {c : CmdFrame} : Kept s (execSetPowerState c s) := by
  unfold execSetPowerState
  with_reducible repeat' first
    | assumption | apply Kept.next | apply Kept.fault | exact Keeps.refl _ | refine State.command_keeps cmdSetPowerState_keeps ?_
    | refine State.command_keeps cmdPowerPending_keeps ?_ | fail_if_no_progress refine Keeps.mk' ?_ rfl rfl rfl rfl rfl rfl | split

end Sys2Proof.Machine
end

