-- ==== Sys2Proof/Laws/KeepsCommit.lean ====
section
/-! SUPPORT. What the operations and meanings of Machine/Commit.lean keep. -/

set_option Elab.async false
set_option linter.unusedTactic false
set_option linter.unreachableTactic false
set_option linter.unusedVariables false

namespace Sys2Proof.Machine

theorem State.moveKv_keeps {s0 s : State} {slot : Nat} {layer : Nat} {heads : Nat} {a : Nat} {b : Nat} (hk : Keeps s0 s) : Keeps s0
    (State.moveKv s slot layer heads a b) := by
  unfold State.moveKv
  with_reducible repeat' first
    | assumption | apply State.putGroup_keeps | refine Keeps.foldl ?_ fun _ _ _ => ?_ | split

theorem State.compact_keeps {s0 s : State} {o : OpenStep} {i : Nat} {e : LenEntry} {p : List TokenWork} (hk : Keeps s0 s) : Keeps
    s0 (State.compact s o i e p) := by
  unfold State.compact
  with_reducible repeat' first
    | assumption | apply State.modEntry_keeps | apply State.moveKv_keeps | refine Keeps.foldl ?_ fun _ _ _ => ?_ | split

theorem execCompactionDone_keeps {s : State} {stepTag : Nat} : Kept s (execCompactionDone stepTag s) := by
  unfold execCompactionDone
  with_reducible repeat' first
    | assumption | apply Kept.next | apply Kept.fault | apply Kept.cond | exact Keeps.refl _ | apply State.compact_keeps
    | refine Keeps.foldl ?_ fun _ _ _ => ?_ | apply Keeps.cond | split

theorem State.settleFrames_keeps {s0 s : State} {tag : Nat} {slot : Nat} {commit : Nat} {draftCommit : Nat} (hk : Keeps s0 s) :
    Keeps s0 (State.settleFrames s tag slot commit draftCommit) := by
  unfold State.settleFrames
  with_reducible repeat' first
    | assumption | apply State.releaseReserved_keeps | apply Keeps.cond | split | (dsimp only; split)
    | fail_if_no_progress refine Keeps.mk' ?_ rfl rfl rfl rfl rfl rfl

theorem State.leaveBusy_keeps {s0 s : State} {e : LenEntry} (hk : Keeps s0 s) : Keeps s0 (State.leaveBusy s e) := by
  unfold State.leaveBusy
  with_reducible repeat' first
    | assumption | apply State.enterTier_keeps | apply State.modSlot_keeps | apply Keeps.cond

theorem State.commitEntry_keeps {s0 s : State} {o : OpenStep} {c : Context} {i : Nat} {e : LenEntry} {w : EntryWork} (hk : Keeps s0
    s) : Keeps s0 (State.commitEntry s o c i e w).1 := by
  unfold State.commitEntry
  with_reducible repeat' first
    | assumption | apply State.slotFree_keeps | apply State.modSlot_keeps | apply State.settleFrames_keeps | apply State.insertPrefix_keeps
    | apply State.leaveBusy_keeps | apply Keeps.cond | split | (dsimp only; split)
    | fail_if_no_progress refine Keeps.mk' ?_ rfl rfl rfl rfl rfl rfl

theorem State.stormCommit_keeps {s0 s : State} {o : OpenStep} (hk : Keeps s0 s) : Keeps s0 (State.stormCommit s o) := by
  unfold State.stormCommit
  with_reducible repeat' first
    | assumption | apply State.raise_keeps | apply Keeps.cond | fail_if_no_progress refine Keeps.mk' ?_ rfl rfl rfl rfl rfl rfl

theorem State.commitStep_keeps {s0 s : State} {o : OpenStep} {c : Context} (hk : Keeps s0 s) : Keeps s0 (s.commitStep o c) := by
  unfold State.commitStep
  dsimp only
  generalize hr : List.foldl _ _ _ = r
  have h1 : Keeps s0 r.1 := by
    subst hr
    exact foldl_fst_keeps hk fun x i hx => State.commitEntry_keeps hx
  repeat' first
    | with_reducible assumption | with_reducible apply State.deliver_keeps | with_reducible apply State.sweep_keeps
    | with_reducible apply State.tryEntry_keeps | with_reducible apply State.retryStalled_keeps
    | with_reducible apply State.putEnded_keeps | with_reducible apply State.dropWork_keeps
    | with_reducible apply State.dropLedger_keeps | with_reducible apply State.stormCommit_keeps
    | with_reducible apply Keeps.cond
    | fail_if_no_progress with_reducible refine Keeps.mk' ?_ rfl rfl rfl rfl rfl rfl | split

theorem execStepCommit_keeps {s : State} {stepTag : Nat} : Kept s (execStepCommit stepTag s) := by
  unfold execStepCommit
  with_reducible repeat' first
    | assumption | apply Kept.next | apply Kept.fault | apply Kept.cond | exact Keeps.refl _ | apply State.commitStep_keeps
    | apply Keeps.cond | split

theorem State.recalibrate_keeps {s0 s : State} {l : List ArrId} (hk : Keeps s0 s) : Keeps s0 (State.recalibrate s l) := by
  unfold State.recalibrate
  with_reducible repeat' first
    | assumption | apply State.requestCal_keeps | refine Keeps.foldl ?_ fun _ _ _ => ?_
    | fail_if_no_progress refine Keeps.mk' ?_ rfl rfl rfl rfl rfl rfl

theorem execStormHandling_keeps {s : State}  : Kept s (execStormHandling s) := by
  unfold execStormHandling
  with_reducible repeat' first
    | assumption | apply Kept.next | apply Kept.fault | apply Kept.cond | exact Keeps.refl _ | apply State.recalibrate_keeps
    | apply State.async_keeps | apply Keeps.cond | fail_if_no_progress refine Keeps.mk' ?_ rfl rfl rfl rfl rfl rfl

theorem execStormRecheck_keeps {s : State}  : Kept s (execStormRecheck s) := by
  unfold execStormRecheck
  with_reducible repeat' first
    | assumption | apply Kept.next | apply Kept.fault | apply Kept.cond | exact Keeps.refl _ | apply State.recalibrate_keeps
    | apply Keeps.cond | fail_if_no_progress refine Keeps.mk' ?_ rfl rfl rfl rfl rfl rfl

end Sys2Proof.Machine
end

