-- ==== Sys2Proof/Laws/KeepsIdentity.lean ====
section
/-! SUPPORT. What the operations and meanings of Machine/Identity.lean keep. -/

set_option Elab.async false
set_option linter.unusedTactic false
set_option linter.unreachableTactic false
set_option linter.unusedVariables false

namespace Sys2Proof.Machine

theorem cmdAttest_keeps : Command.Keeping cmdAttest := by
  refine ⟨fun s0 s a hk => ?_, fun s0 s a hk => ?_⟩
  all_goals dsimp only [cmdAttest]
  with_reducible repeat' first
    | assumption | exact Done.of_keeps ‹_› | apply Done.done | apply Done.doneWith

theorem execAttest_keeps {s : State} {c : CmdFrame} : Kept s (execAttest c s) := by
  unfold execAttest
  with_reducible repeat' first
    | assumption | apply Kept.next | apply Kept.fault | exact Keeps.refl _ | refine State.command_keeps cmdAttest_keeps ?_

theorem cmdReadIdentity_keeps : Command.Keeping cmdReadIdentity := by
  refine ⟨fun s0 s a hk => ?_, fun s0 s a hk => ?_⟩
  all_goals dsimp only [cmdReadIdentity]
  with_reducible repeat' first
    | assumption | exact Done.of_keeps ‹_› | apply Done.done | apply Done.doneWith

theorem execReadIdentity_keeps {s : State} {c : CmdFrame} : Kept s (execReadIdentity c s) := by
  unfold execReadIdentity
  with_reducible repeat' first
    | assumption | apply Kept.next | apply Kept.fault | exact Keeps.refl _ | refine State.command_keeps cmdReadIdentity_keeps ?_

theorem cmdUpdateBegin_keeps : Command.Keeping cmdUpdateBegin := by
  refine ⟨fun s0 s a hk => ?_, fun s0 s a hk => ?_⟩
  all_goals dsimp only [cmdUpdateBegin]
  with_reducible repeat' first
    | assumption | exact Done.of_keeps ‹_› | apply Done.cond | apply Done.done | apply Done.doneWith | apply Done.fails
    | apply Done.failsAt | apply Keeps.cond | fail_if_no_progress refine Keeps.mk' ?_ rfl rfl rfl rfl rfl rfl

theorem execUpdateBegin_keeps {s : State} {c : CmdFrame} : Kept s (execUpdateBegin c s) := by
  unfold execUpdateBegin
  with_reducible repeat' first
    | assumption | apply Kept.next | apply Kept.fault | exact Keeps.refl _ | refine State.command_keeps cmdUpdateBegin_keeps ?_

theorem cmdUpdateData_keeps : Command.Keeping cmdUpdateData := by
  refine ⟨fun s0 s a hk => ?_, fun s0 s a hk => ?_⟩
  all_goals dsimp only [cmdUpdateData]
  with_reducible repeat' first
    | assumption | exact Done.of_keeps ‹_› | apply Done.done | apply Done.doneWith | apply Done.fails | apply Done.failsAt
    | fail_if_no_progress refine Keeps.mk' ?_ rfl rfl rfl rfl rfl rfl | split

theorem execUpdateData_keeps {s : State} {c : CmdFrame} : Kept s (execUpdateData c s) := by
  unfold execUpdateData
  with_reducible repeat' first
    | assumption | apply Kept.next | apply Kept.fault | exact Keeps.refl _ | refine State.command_keeps cmdUpdateData_keeps ?_

theorem State.installImage_keeps {s0 s : State} {b : Bytes} (hk : Keeps s0 s) : Keeps s0 (State.installImage s b) := by
  unfold State.installImage
  with_reducible repeat' first
    | assumption | fail_if_no_progress refine Keeps.mk' ?_ rfl rfl rfl rfl rfl rfl

theorem State.installRecord_keeps {s0 s : State} {b : Bytes} (hk : Keeps s0 s) : Keeps s0 (State.installRecord s b) := by
  unfold State.installRecord
  with_reducible repeat' first
    | assumption | fail_if_no_progress refine Keeps.mk' ?_ rfl rfl rfl rfl rfl rfl

theorem cmdUpdateCommit_keeps : Command.Keeping cmdUpdateCommit := by
  refine ⟨fun s0 s a hk => ?_, fun s0 s a hk => ?_⟩
  all_goals dsimp only [cmdUpdateCommit]
  with_reducible repeat' first
    | assumption | exact Done.of_keeps ‹_› | apply Done.cond | apply Done.done | apply Done.doneWith | apply Done.fails
    | apply Done.failsAt | apply State.installImage_keeps | apply State.installRecord_keeps | apply Keeps.cond | split

theorem execUpdateCommit_keeps {s : State} {c : CmdFrame} : Kept s (execUpdateCommit c s) := by
  unfold execUpdateCommit
  with_reducible repeat' first
    | assumption | apply Kept.next | apply Kept.fault | exact Keeps.refl _ | refine State.command_keeps cmdUpdateCommit_keeps ?_

theorem cmdResetModule_keeps : Command.Keeping cmdResetModule := by
  refine ⟨fun s0 s a hk => ?_, fun s0 s a hk => ?_⟩
  all_goals dsimp only [cmdResetModule]
  with_reducible repeat' first
    | assumption | exact Done.of_keeps ‹_› | apply Done.cond | apply Done.done | apply Done.doneWith | apply Done.fails
    | apply Done.failsAt | apply State.resetModule_keeps

theorem execResetModule_keeps {s : State} {c : CmdFrame} : Kept s (execResetModule c s) := by
  unfold execResetModule
  with_reducible repeat' first
    | assumption | apply Kept.next | apply Kept.fault | exact Keeps.refl _ | refine State.command_keeps cmdResetModule_keeps ?_
    | refine State.carryOut_keeps cmdResetModule_keeps ?_ | apply State.frameArrives_keeps | refine State.judge_keeps ?_ (fun _ _ => ?_) (fun _ _ _ => ?_) | apply State.refuseCommand_keeps
    | apply Kept.cond | apply Keeps.cond | split | (dsimp only; split) | fail_if_no_progress refine Keeps.mk' ?_ rfl rfl rfl rfl rfl rfl

theorem cmdDump_keeps : Command.Keeping cmdDump := by
  refine ⟨fun s0 s a hk => ?_, fun s0 s a hk => ?_⟩
  all_goals dsimp only [cmdDump]
  with_reducible repeat' first
    | assumption | exact Done.of_keeps ‹_› | apply Done.done | apply Done.doneWith | apply Done.fails | apply Done.failsAt
    | apply State.writeDump_keeps

theorem execDump_keeps {s : State} {c : CmdFrame} : Kept s (execDump c s) := by
  unfold execDump
  with_reducible repeat' first
    | assumption | apply Kept.next | apply Kept.fault | exact Keeps.refl _ | refine State.command_keeps cmdDump_keeps ?_

end Sys2Proof.Machine
end

