-- ==== Sys2Proof/Laws/KeepsModels.lean ====
section
/-! SUPPORT. What the operations and meanings of Machine/Models.lean keep. -/

set_option Elab.async false
set_option linter.unusedTactic false
set_option linter.unreachableTactic false
set_option linter.unusedVariables false

namespace Sys2Proof.Machine

theorem cmdLoadModel_keeps : Command.Keeping cmdLoadModel := by
  refine ⟨fun s0 s a hk => ?_, fun s0 s a hk => ?_⟩
  all_goals dsimp only [cmdLoadModel]
  with_reducible repeat' first
    | assumption | exact Done.of_keeps ‹_› | apply Done.cond | apply Done.done | apply Done.doneWith | apply Done.fails
    | apply Done.failsAt | apply Keeps.cond | fail_if_no_progress refine Keeps.mk' ?_ rfl rfl rfl rfl rfl rfl | split

theorem execLoadModel_keeps {s : State} {c : CmdFrame} : Kept s (execLoadModel c s) := by
  unfold execLoadModel
  with_reducible repeat' first
    | assumption | apply Kept.next | apply Kept.fault | exact Keeps.refl _ | refine State.command_keeps cmdLoadModel_keeps ?_

theorem State.markUnloading_keeps {s0 s : State} {n : Nat} (hk : Keeps s0 s) : Keeps s0 (State.markUnloading s n) := by
  unfold State.markUnloading
  with_reducible repeat' first
    | assumption | apply Keeps.cond | fail_if_no_progress refine Keeps.mk' ?_ rfl rfl rfl rfl rfl rfl

theorem cmdUnloadModel_keeps : Command.Keeping cmdUnloadModel := by
  refine ⟨fun s0 s a hk => ?_, fun s0 s a hk => ?_⟩
  all_goals dsimp only [cmdUnloadModel]
  with_reducible repeat' first
    | assumption | exact Done.of_keeps ‹_› | apply Done.cond | apply Done.done | apply Done.doneWith | apply Done.fails
    | apply Done.failsAt | apply State.sweep_keeps | apply State.markUnloading_keeps | apply State.releaseModel_keeps | apply Keeps.cond
    | split

theorem execUnloadModel_keeps {s : State} {c : CmdFrame} : Kept s (execUnloadModel c s) := by
  unfold execUnloadModel
  with_reducible repeat' first
    | assumption | apply Kept.next | apply Kept.fault | exact Keeps.refl _ | refine State.command_keeps cmdUnloadModel_keeps ?_

theorem cmdLoadAdapter_keeps : Command.Keeping cmdLoadAdapter := by
  refine ⟨fun s0 s a hk => ?_, fun s0 s a hk => ?_⟩
  all_goals dsimp only [cmdLoadAdapter]
  with_reducible repeat' first
    | assumption | exact Done.of_keeps ‹_› | apply Done.cond | apply Done.done | apply Done.doneWith | apply Done.fails
    | apply Done.failsAt | apply Keeps.cond | fail_if_no_progress refine Keeps.mk' ?_ rfl rfl rfl rfl rfl rfl | split

theorem execLoadAdapter_keeps {s : State} {c : CmdFrame} : Kept s (execLoadAdapter c s) := by
  unfold execLoadAdapter
  with_reducible repeat' first
    | assumption | apply Kept.next | apply Kept.fault | exact Keeps.refl _ | refine State.command_keeps cmdLoadAdapter_keeps ?_

theorem State.removeAdapter_keeps {s0 s : State} {n : Nat} (hk : Keeps s0 s) : Keeps s0 (State.removeAdapter s n) := by
  unfold State.removeAdapter
  with_reducible repeat' first
    | assumption | apply State.sweep_keeps | apply Keeps.cond | fail_if_no_progress refine Keeps.mk' ?_ rfl rfl rfl rfl rfl rfl

theorem cmdUnloadAdapter_keeps : Command.Keeping cmdUnloadAdapter := by
  refine ⟨fun s0 s a hk => ?_, fun s0 s a hk => ?_⟩
  all_goals dsimp only [cmdUnloadAdapter]
  with_reducible repeat' first
    | assumption | exact Done.of_keeps ‹_› | apply Done.cond | apply Done.done | apply Done.doneWith | apply Done.fails
    | apply Done.failsAt | apply State.removeAdapter_keeps

theorem execUnloadAdapter_keeps {s : State} {c : CmdFrame} : Kept s (execUnloadAdapter c s) := by
  unfold execUnloadAdapter
  with_reducible repeat' first
    | assumption | apply Kept.next | apply Kept.fault | exact Keeps.refl _ | refine State.command_keeps cmdUnloadAdapter_keeps ?_

end Sys2Proof.Machine
end

