-- ==== Sys2Proof/Laws/KeepsPins.lean ====
section
/-! SUPPORT. What the operations and meanings of Machine/Pins.lean keep. -/

set_option Elab.async false
set_option linter.unusedTactic false
set_option linter.unreachableTactic false
set_option linter.unusedVariables false

namespace Sys2Proof.Machine

theorem State.modI3c_keeps {s0 s : State} {f : I3c → I3c} (hk : Keeps s0 s) : Keeps s0 (State.modI3c s f) := by
  unfold State.modI3c
  with_reducible repeat' first
    | assumption | fail_if_no_progress refine Keeps.mk' ?_ rfl rfl rfl rfl rfl rfl

theorem execI3cDynamicAddress_keeps {s : State} {addr : Nat} : Kept s (execI3cDynamicAddress addr s) := by
  unfold execI3cDynamicAddress
  with_reducible repeat' first
    | assumption | apply Kept.next | apply Kept.fault | apply Kept.cond | exact Keeps.refl _ | apply State.modI3c_keeps
    | apply Keeps.cond

theorem State.i3cAnswers_keeps {s0 s : State} (hk : Keeps s0 s) : Keeps s0 (State.i3cAnswers s) := by
  unfold State.i3cAnswers
  with_reducible repeat' first
    | assumption | apply State.modI3c_keeps | apply Keeps.cond | split | (dsimp only; split)
    | fail_if_no_progress refine Keeps.mk' ?_ rfl rfl rfl rfl rfl rfl

theorem State.i3cPut_keeps {s0 s : State} {e : Nat × Nat} (hk : Keeps s0 s) : Keeps s0 (State.i3cPut s e) := by
  unfold State.i3cPut
  with_reducible repeat' first
    | assumption | apply State.modI3c_keeps | apply State.pathWrite_keeps | apply Keeps.cond | split | (dsimp only; split)
    | fail_if_no_progress refine Keeps.mk' ?_ rfl rfl rfl rfl rfl rfl

theorem State.i3cGet_keeps {s0 s : State} (hk : Keeps s0 s) : Keeps s0 (State.i3cGet s) := by
  unfold State.i3cGet
  with_reducible repeat' first
    | assumption | apply State.modI3c_keeps

theorem execI3cPrivateWrite_keeps {s : State} {bytes : Bytes} : Kept s (execI3cPrivateWrite bytes s) := by
  unfold execI3cPrivateWrite
  with_reducible repeat' first
    | assumption | apply Kept.next | apply Kept.fault | apply Kept.cond | exact Keeps.refl _ | apply State.i3cPut_keeps
    | apply State.modI3c_keeps | apply State.i3cAnswers_keeps | apply Keeps.cond | refine Keeps.foldl ?_ fun _ _ _ => ?_ | split
    | (dsimp only; split) | fail_if_no_progress refine Keeps.mk' ?_ rfl rfl rfl rfl rfl rfl

theorem execI3cPrivateRead_keeps {s : State} {count : Nat} : Kept s (execI3cPrivateRead count s) := by
  unfold execI3cPrivateRead
  with_reducible repeat' first
    | assumption | apply Kept.next | apply Kept.fault | apply Kept.cond | exact Keeps.refl _ | apply State.i3cGet_keeps
    | apply State.i3cAnswers_keeps | apply Keeps.cond | refine Keeps.foldl ?_ fun _ _ _ => ?_ | split | (dsimp only; split)
    | fail_if_no_progress refine Keeps.mk' ?_ rfl rfl rfl rfl rfl rfl

theorem State.modTap_keeps {s0 s : State} {f : Tap → Tap} (hk : Keeps s0 s) : Keeps s0 (State.modTap s f) := by
  unfold State.modTap
  with_reducible repeat' first
    | assumption | apply Keeps.cond | fail_if_no_progress refine Keeps.mk' ?_ rfl rfl rfl rfl rfl rfl

theorem State.extestWith_keeps {s0 s : State} {ir : Nat} {d : PinDrive} {pins : List Bool} {shifted : List Bool} (hk : Keeps s0 s)
    : Keeps s0 (State.extestWith s ir d pins shifted) := by
  unfold State.extestWith
  with_reducible repeat' first
    | assumption | apply State.modTap_keeps | apply Keeps.cond | split | (dsimp only; split)
    | fail_if_no_progress refine Keeps.mk' ?_ rfl rfl rfl rfl rfl rfl

theorem execExtest_keeps {s : State} {pins : List Bool} {shifted : List Bool} : Kept s (execExtest pins shifted s) := by
  unfold execExtest
  with_reducible repeat' first
    | assumption | apply Kept.next | apply Kept.fault | exact Keeps.refl _ | apply State.extestWith_keeps

theorem execExtestPulse_keeps {s : State} {pins : List Bool} {shifted : List Bool} : Kept s (execExtestPulse pins shifted s) := by
  unfold execExtestPulse
  with_reducible repeat' first
    | assumption | apply Kept.next | apply Kept.fault | exact Keeps.refl _ | apply State.extestWith_keeps

theorem execExtestTrain_keeps {s : State} {pins : List Bool} {shifted : List Bool} : Kept s (execExtestTrain pins shifted s) := by
  unfold execExtestTrain
  with_reducible repeat' first
    | assumption | apply Kept.next | apply Kept.fault | exact Keeps.refl _ | apply State.extestWith_keeps

theorem execSamplePreload_keeps {s : State} {pins : List Bool} {shifted : List Bool} : Kept s (execSamplePreload pins shifted s) := by
  unfold execSamplePreload
  with_reducible repeat' first
    | assumption | apply Kept.next | apply Kept.fault | exact Keeps.refl _ | apply State.modTap_keeps | apply Kept.cond | apply Keeps.cond
    | split | (dsimp only; split) | fail_if_no_progress refine Keeps.mk' ?_ rfl rfl rfl rfl rfl rfl

theorem execClamp_keeps {s : State}  : Kept s (execClamp s) := by
  unfold execClamp
  with_reducible repeat' first
    | assumption | apply Kept.next | apply Kept.fault | apply Kept.cond | exact Keeps.refl _ | apply State.modTap_keeps

theorem execHighz_keeps {s : State}  : Kept s (execHighz s) := by
  unfold execHighz
  with_reducible repeat' first
    | assumption | apply Kept.next | apply Kept.fault | apply Kept.cond | exact Keeps.refl _ | apply State.modTap_keeps

theorem execIdcode_keeps {s : State}  : Kept s (execIdcode s) := by
  unfold execIdcode
  with_reducible repeat' first
    | assumption | apply Kept.next | apply Kept.fault | exact Keeps.refl _ | apply State.modTap_keeps

theorem execBypass_keeps {s : State} {opcode : Nat} : Kept s (execBypass opcode s) := by
  unfold execBypass
  with_reducible repeat' first
    | assumption | apply Kept.next | apply Kept.fault | apply Kept.cond | exact Keeps.refl _ | apply State.modTap_keeps
    | apply Keeps.cond

theorem execTrstN_keeps {s : State}  : Kept s (execTrstN s) := by
  unfold execTrstN
  with_reducible repeat' first
    | assumption | apply Kept.next | apply Kept.fault | exact Keeps.refl _ | apply State.modTap_keeps

end Sys2Proof.Machine
end

