-- ==== Sys2Proof/Laws/KeepsPower.lean ====
section
/-! SUPPORT. What the operations and meanings of Machine/Power.lean keep. -/

set_option Elab.async false
set_option linter.unusedTactic false
set_option linter.unreachableTactic false
set_option linter.unusedVariables false

namespace Sys2Proof.Machine

theorem State.stepUp_keeps {s0 s : State} (hk : Keeps s0 s) : Keeps s0 (State.stepUp s) := by
  unfold State.stepUp
  with_reducible repeat' first
    | assumption | apply State.raise_keeps | apply Keeps.cond | fail_if_no_progress refine Keeps.mk' ?_ rfl rfl rfl rfl rfl rfl

theorem State.stepDown_keeps {s0 s : State} (hk : Keeps s0 s) : Keeps s0 (State.stepDown s) := by
  unfold State.stepDown
  with_reducible repeat' first
    | assumption | apply State.raise_keeps | apply Keeps.cond | split | (dsimp only; split)
    | fail_if_no_progress refine Keeps.mk' ?_ rfl rfl rfl rfl rfl rfl

theorem State.setTriggers_keeps {s0 s : State} {temp : Bool} {rate : Bool} {curr : Bool} (hk : Keeps s0 s) : Keeps s0
    (State.setTriggers s temp rate curr) := by
  unfold State.setTriggers
  with_reducible repeat' first
    | assumption | apply State.stepUp_keeps | apply Keeps.cond | fail_if_no_progress refine Keeps.mk' ?_ rfl rfl rfl rfl rfl rfl

theorem execThrottleStepTimer_keeps {s : State}  : Kept s (execThrottleStepTimer s) := by
  unfold execThrottleStepTimer
  with_reducible repeat' first
    | assumption | apply Kept.next | apply Kept.fault | apply Kept.cond | exact Keeps.refl _ | apply State.stepUp_keeps
    | apply State.advanceTo_keeps | apply State.stepDown_keeps | apply Keeps.cond

theorem State.govern_keeps {s0 s : State} {old : Nat} {avg : Nat} (hk : Keeps s0 s) : Keeps s0 (State.govern s old avg) := by
  unfold State.govern
  with_reducible repeat' first
    | assumption | apply Keeps.cond | split | (dsimp only; split) | fail_if_no_progress refine Keeps.mk' ?_ rfl rfl rfl rfl rfl rfl

theorem State.rampEnds_keeps {s0 s : State} {old : Nat} {avg : Nat} (hk : Keeps s0 s) : Keeps s0 (State.rampEnds s old avg) := by
  unfold State.rampEnds
  with_reducible repeat' first
    | assumption | apply Keeps.cond | split | (dsimp only; split) | fail_if_no_progress refine Keeps.mk' ?_ rfl rfl rfl rfl rfl rfl

theorem execGovernorTick_keeps {s : State} {vinMv : Nat} {iinMa : Nat} : Kept s (execGovernorTick vinMv iinMa s) := by
  unfold execGovernorTick
  with_reducible repeat' first
    | assumption | apply Kept.next | apply Kept.fault | apply Kept.cond | exact Keeps.refl _ | apply State.raise_keeps
    | apply State.govern_keeps | apply State.setTriggers_keeps | apply State.rampEnds_keeps | apply Keeps.cond | split
    | (dsimp only; split) | fail_if_no_progress refine Keeps.mk' ?_ rfl rfl rfl rfl rfl rfl

theorem execRailCurrentGuard_keeps {s : State} {quarterAmps : Nat} : Kept s (execRailCurrentGuard quarterAmps s) := by
  unfold execRailCurrentGuard
  with_reducible repeat' first
    | assumption | apply Kept.next | apply Kept.fault | apply Kept.cond | exact Keeps.refl _ | apply State.raise_keeps | apply Keeps.cond
    | fail_if_no_progress refine Keeps.mk' ?_ rfl rfl rfl rfl rfl rfl

theorem State.takeSample_keeps {s0 s : State} {e : Nat × Int} (hk : Keeps s0 s) : Keeps s0 (State.takeSample s e) := by
  unfold State.takeSample
  with_reducible repeat' first
    | assumption | apply State.raise_keeps | apply State.failStop_keeps | apply Keeps.cond
    | fail_if_no_progress refine Keeps.mk' ?_ rfl rfl rfl rfl rfl rfl

theorem State.sensorTriggers_keeps {s0 s : State} (hk : Keeps s0 s) : Keeps s0 (State.sensorTriggers s) := by
  unfold State.sensorTriggers
  with_reducible repeat' first
    | assumption | apply State.setTriggers_keeps

theorem execSensorSample_keeps {s : State} {raw : List (Nat × Int)} : Kept s (execSensorSample raw s) := by
  unfold execSensorSample
  with_reducible repeat' first
    | assumption | apply Kept.next | apply Kept.fault | exact Keeps.refl _ | apply State.takeSample_keeps | apply State.watchRun_keeps
    | apply State.sensorTriggers_keeps | refine Keeps.foldl ?_ fun _ _ _ => ?_

theorem execAutoHold_keeps {s : State}  : Kept s (execAutoHold s) := by
  unfold execAutoHold
  with_reducible repeat' first
    | assumption | apply Kept.next | apply Kept.fault | apply Kept.cond | exact Keeps.refl _ | apply State.enterP1_keeps
    | apply State.advanceTo_keeps

theorem execPowerEntryTimeout_keeps {s : State}  : Kept s (execPowerEntryTimeout s) := by
  unfold execPowerEntryTimeout
  with_reducible repeat' first
    | assumption | apply Kept.next | apply Kept.fault | apply Kept.cond | exact Keeps.refl _ | apply State.abandonEntry_keeps
    | apply State.advanceTo_keeps | apply Keeps.cond | split | (dsimp only; split)
    | fail_if_no_progress refine Keeps.mk' ?_ rfl rfl rfl rfl rfl rfl

theorem execWakeN_keeps {s : State}  : Kept s (execWakeN s) := by
  unfold execWakeN
  with_reducible repeat' first
    | assumption | apply Kept.next | apply Kept.fault | exact Keeps.refl _ | apply State.wake_keeps

theorem execWakeLight_keeps {s : State} {port : Nat} : Kept s (execWakeLight port s) := by
  unfold execWakeLight
  with_reducible repeat' first
    | assumption | apply Kept.next | apply Kept.fault | apply Kept.cond | exact Keeps.refl _ | apply State.wake_keeps | apply Keeps.cond

theorem execLaneEnergyWake_keeps {s : State} {port : Nat} : Kept s (execLaneEnergyWake port s) := by
  unfold execLaneEnergyWake
  with_reducible repeat' first
    | assumption | apply Kept.next | apply Kept.fault | apply Kept.cond | exact Keeps.refl _ | apply State.wake_keeps | apply Keeps.cond

theorem execFabricWakeFrame_keeps {s : State} {port : Nat} : Kept s (execFabricWakeFrame port s) := by
  unfold execFabricWakeFrame
  with_reducible repeat' first
    | assumption | apply Kept.next | apply Kept.fault | apply Kept.cond | exact Keeps.refl _ | apply State.wake_keeps | apply Keeps.cond

end Sys2Proof.Machine
end

