-- ==== Sys2Proof/Laws/KeepsReliability.lean ====
section
/-! SUPPORT. What the operations and meanings of Machine/Reliability.lean keep. -/

set_option Elab.async false
set_option linter.unusedTactic false
set_option linter.unreachableTactic false
set_option linter.unusedVariables false

namespace Sys2Proof.Machine

theorem State.countEcc_keeps {s0 s : State} {det : Bool} {stack : Nat} (hk : Keeps s0 s) : Keeps s0 (State.countEcc s det stack) := by
  unfold State.countEcc
  with_reducible repeat' first
    | assumption | with_reducible refine State.countDrop_keeps ?_ rfl | apply Keeps.cond

theorem State.hbmBad_keeps {s0 s : State} {stack : Nat} {addr : Nat} {row : Nat} (hk : Keeps s0 s) : Keeps s0 (State.hbmBad s stack
    addr row) := by
  unfold State.hbmBad
  with_reducible repeat' first
    | assumption | apply State.raise_keeps | apply State.countEcc_keeps

theorem State.symbolCorrected_keeps {s0 s : State} {before : List (Nat × Nat × Nat)} {c : Nat × Nat × Nat} (hk : Keeps s0 s) :
    Keeps s0 (State.symbolCorrected s before c) := by
  unfold State.symbolCorrected
  with_reducible repeat' first
    | assumption | apply State.countEcc_keeps | apply State.raise_keeps | apply Keeps.cond

theorem State.rebuildFranking_keeps {s0 s : State} {a : ArrId} (hk : Keeps s0 s) : Keeps s0 (State.rebuildFranking s a) := by
  unfold State.rebuildFranking
  with_reducible repeat' first
    | assumption | apply State.modFranking_keeps

theorem State.damageDump_keeps {s0 s : State} {slot : Nat} (hk : Keeps s0 s) : Keeps s0 (State.damageDump s slot) := by
  unfold State.damageDump
  with_reducible repeat' first
    | assumption | fail_if_no_progress refine Keeps.mk' ?_ rfl rfl rfl rfl rfl rfl

theorem State.scrubbed_keeps {s0 s : State} {before : State} {f : ScrubFinding} (hk : Keeps s0 s) : Keeps s0 (State.scrubbed s before f)
    := by
  unfold State.scrubbed
  with_reducible repeat' first
    | assumption | apply State.symbolCorrected_keeps | apply State.invalidateMaster_keeps | apply State.hbmBad_keeps
    | apply State.rebuildRecord_keeps | apply State.rebuildFranking_keeps | apply State.raise_keeps | apply State.transient_keeps
    | apply State.drain_keeps | apply State.damageDump_keeps | apply Keeps.cond | split | (dsimp only; split)
    | fail_if_no_progress refine Keeps.mk' ?_ rfl rfl rfl rfl rfl rfl

theorem execEccScrub_keeps {s : State} {pass : ScrubPass} : Kept s (execEccScrub pass s) := by
  unfold execEccScrub
  with_reducible repeat' first
    | assumption | apply Kept.next | apply Kept.fault | apply Kept.cond | exact Keeps.refl _ | apply State.scrubbed_keeps
    | with_reducible refine State.countDrop_keeps ?_ rfl | apply Keeps.cond | refine Keeps.foldl ?_ fun _ _ _ => ?_ | split
    | (dsimp only; split) | fail_if_no_progress refine Keeps.mk' ?_ rfl rfl rfl rfl rfl rfl

theorem State.p0To_keeps {s0 s : State} {t : Nat} (hk : Keeps s0 s) : Keeps s0 (State.p0To s t) := by
  unfold State.p0To
  with_reducible repeat' first
    | assumption | apply State.advanceTo_keeps

theorem execInFieldTestDue_keeps {s : State} {t : TileId} : Kept s (execInFieldTestDue t s) := by
  unfold execInFieldTestDue
  with_reducible repeat' first
    | assumption | apply Kept.next | apply Kept.fault | apply Kept.cond | exact Keeps.refl _ | apply State.p0To_keeps
    | apply State.modTile_keeps | apply Keeps.cond | split | (dsimp only; split)
    | fail_if_no_progress refine Keeps.mk' ?_ rfl rfl rfl rfl rfl rfl

theorem State.beginTest_keeps {s0 s : State} {t : TileId} (hk : Keeps s0 s) : Keeps s0 (State.beginTest s t) := by
  unfold State.beginTest
  with_reducible repeat' first
    | assumption | apply State.modTile_keeps | apply Keeps.cond | split | (dsimp only; split)
    | fail_if_no_progress refine Keeps.mk' ?_ rfl rfl rfl rfl rfl rfl

theorem execInFieldTestStart_keeps {s : State} {t : TileId} : Kept s (execInFieldTestStart t s) := by
  unfold execInFieldTestStart
  with_reducible repeat' first
    | assumption | apply Kept.next | apply Kept.fault | apply Kept.cond | exact Keeps.refl _ | apply State.beginTest_keeps
    | apply Keeps.cond | split | (dsimp only; split) | fail_if_no_progress refine Keeps.mk' ?_ rfl rfl rfl rfl rfl rfl

theorem execInFieldTestForced_keeps {s : State} {t : TileId} : Kept s (execInFieldTestForced t s) := by
  unfold execInFieldTestForced
  with_reducible repeat' first
    | assumption | apply Kept.next | apply Kept.fault | apply Kept.cond | exact Keeps.refl _ | apply State.p0To_keeps
    | apply State.raise_keeps | apply State.beginTest_keeps | apply Keeps.cond | split | (dsimp only; split)
    | fail_if_no_progress refine Keeps.mk' ?_ rfl rfl rfl rfl rfl rfl

theorem execInFieldTestDone_keeps {s : State} {t : TileId} {readings : TestReadings} : Kept s (execInFieldTestDone t readings s) := by
  unfold execInFieldTestDone
  with_reducible repeat' first
    | assumption | apply Kept.next | apply Kept.fault | apply Kept.cond | exact Keeps.refl _ | apply State.modTile_keeps
    | apply State.drain_keeps | apply State.raise_keeps | apply State.active_keeps | apply Keeps.cond | split | (dsimp only; split)
    | fail_if_no_progress refine Keeps.mk' ?_ rfl rfl rfl rfl rfl rfl

end Sys2Proof.Machine
end

