-- ==== Sys2Proof/Laws/KeepsStartup.lean ====
section
/-! SUPPORT. What the operations and meanings of Machine/Startup.lean keep. -/

set_option Elab.async false
set_option linter.unusedTactic false
set_option linter.unreachableTactic false
set_option linter.unusedVariables false

namespace Sys2Proof.Machine

theorem State.strapped_keeps {s0 s : State} {compat : Bool} {addr0 : Bool} {addr1 : Bool} (hk : Keeps s0 s) : Keeps s0
    (State.strapped s compat addr0 addr1) := by
  unfold State.strapped
  with_reducible repeat' first
    | assumption | apply Keeps.cond | split | (dsimp only; split) | fail_if_no_progress refine Keeps.mk' ?_ rfl rfl rfl rfl rfl rfl

theorem execPowerApplied_keeps {s : State} {vinMv : Nat} {rst : Bool} {compat : Bool} {addr0 : Bool} {addr1 : Bool} : Kept s
    (execPowerApplied vinMv rst compat addr0 addr1 s) := by
  unfold execPowerApplied
  with_reducible repeat' first
    | assumption | apply Kept.next | apply Kept.fault | apply Kept.cond | exact Keeps.refl _ | apply State.beginReset_keeps
    | apply State.bootChain_keeps | apply State.strapped_keeps | apply Keeps.cond | split | (dsimp only; split)
    | fail_if_no_progress refine Keeps.mk' ?_ rfl rfl rfl rfl rfl rfl

theorem State.dropVoltage_keeps {s0 s : State} (hk : Keeps s0 s) : Keeps s0 (State.dropVoltage s).2 := by
  unfold State.dropVoltage
  with_reducible repeat' first
    | assumption | apply State.nextDraw_keeps

theorem execPowerRemoved_keeps {s : State}  : Kept s (execPowerRemoved s) := by
  unfold execPowerRemoved
  with_reducible repeat' first
    | assumption | apply Kept.next | apply Kept.fault | apply Kept.cond | exact Keeps.refl _ | apply State.failStop_keeps
    | apply State.dropVoltage_keeps | apply State.beginReset_keeps | apply Keeps.cond
    | fail_if_no_progress refine Keeps.mk' ?_ rfl rfl rfl rfl rfl rfl

theorem execPowerFailStop_keeps {s : State} {isOver : Bool} {vinMv : Nat} : Kept s (execPowerFailStop isOver vinMv s) := by
  unfold execPowerFailStop
  with_reducible repeat' first
    | assumption | apply Kept.next | apply Kept.fault | apply Kept.cond | exact Keeps.refl _ | apply State.failStop_keeps
    | apply Keeps.cond

theorem execSysclkLoss_keeps {s : State}  : Kept s (execSysclkLoss s) := by
  unfold execSysclkLoss
  with_reducible repeat' first
    | assumption | apply Kept.next | apply Kept.fault | apply Kept.cond | exact Keeps.refl _ | apply State.failStop_keeps
    | apply Keeps.cond | fail_if_no_progress refine Keeps.mk' ?_ rfl rfl rfl rfl rfl rfl

theorem execPowerFailRecovery_keeps {s : State}  : Kept s (execPowerFailRecovery s) := by
  unfold execPowerFailRecovery
  with_reducible repeat' first
    | assumption | apply Kept.next | apply Kept.fault | apply Kept.cond | exact Keeps.refl _ | apply State.beginReset_keeps
    | apply State.bootChain_keeps | apply Keeps.cond | fail_if_no_progress refine Keeps.mk' ?_ rfl rfl rfl rfl rfl rfl | split

theorem execResetN_keeps {s : State} {compat : Bool} {addr0 : Bool} {addr1 : Bool} : Kept s (execResetN compat addr0 addr1 s) := by
  unfold execResetN
  with_reducible repeat' first
    | assumption | apply Kept.next | apply Kept.fault | apply Kept.cond | exact Keeps.refl _ | apply State.resetModule_keeps
    | apply State.strapped_keeps | apply Keeps.cond | split

theorem execArraysReady_keeps {s : State}  : Kept s (execArraysReady s) := by
  unfold execArraysReady
  with_reducible repeat' first
    | assumption | apply Kept.next | apply Kept.fault | apply Kept.cond | exact Keeps.refl _ | apply State.bindArray_keeps
    | apply Keeps.cond | refine Keeps.foldl ?_ fun _ _ _ => ?_ | split | (dsimp only; split)
    | fail_if_no_progress refine Keeps.mk' ?_ rfl rfl rfl rfl rfl rfl

theorem execWatchdogWrite_keeps {s : State} {core : Nat} : Kept s (execWatchdogWrite core s) := by
  unfold execWatchdogWrite
  with_reducible repeat' first
    | assumption | apply Kept.next | apply Kept.fault | apply Kept.cond | exact Keeps.refl _ | apply Keeps.cond
    | fail_if_no_progress refine Keeps.mk' ?_ rfl rfl rfl rfl rfl rfl

theorem execWatchdogExpiry_keeps {s : State} {core : Nat} : Kept s (execWatchdogExpiry core s) := by
  unfold execWatchdogExpiry
  with_reducible repeat' first
    | assumption | apply Kept.next | apply Kept.fault | apply Kept.cond | exact Keeps.refl _ | apply State.advanceTo_keeps
    | apply State.crash_keeps | apply State.raise_keeps

theorem execFirmwareCrash_keeps {s : State} {cause : CrashCause} {core : Nat} : Kept s (execFirmwareCrash cause core s) := by
  unfold execFirmwareCrash
  with_reducible repeat' first
    | assumption | apply Kept.next | apply Kept.fault | apply Kept.cond | exact Keeps.refl _ | apply State.crash_keeps | apply Keeps.cond

theorem execLockstepMismatch_keeps {s : State}  : Kept s (execLockstepMismatch s) := by
  unfold execLockstepMismatch
  with_reducible repeat' first
    | assumption | apply Kept.next | apply Kept.fault | apply Kept.cond | exact Keeps.refl _ | apply State.raise_keeps
    | apply State.drain_keeps | apply State.writeDump_keeps | apply Keeps.cond
    | fail_if_no_progress refine Keeps.mk' ?_ rfl rfl rfl rfl rfl rfl

end Sys2Proof.Machine
end

