-- ==== Sys2Proof/Machine/FlashMap.lean ====
section
/-! DEFINITION. Where the items of the serial flash stand, and their bytes (12 R410; 06 R186, 07 R212, 14 R477, 15 R509). The boot control block and
the PUF helper data have no layout in the spec: only their places are known. -/

set_option Elab.async false

namespace Sys2Proof.Machine

/-- ASTATE of a directory entry (06 Table 6.4). -/
def AState.code : AState → Nat
  | .free => 0
  | .loading => 1
  | .settling => 2
  | .inService => 3
  | .outOfService => 4
  | .covered => 5
  | .rewriting => 6
  | .unbound => 7

/-- SPARE_TAG (06 Table 6.4). -/
def DirEntry.tagByte (d : DirEntry) : Nat :=
  match d.spareTag with
  | some w => w % 16 + 16
  | none => 0

/-- The 192 bytes of a directory entry (06 Table 6.4). -/
def DirEntry.bytes (d : DirEntry) : Bytes :=
  natLe 1 d.version ++ natLe 1 d.astate.code ++ natLe 1 d.tagByte ++ natLe 1 (b2n d.retired) ++ natLe 4 d.model ++ natLe 4 d.parcel ++
    natLe 4 d.position ++ natLe 4 d.wear ++ natLe 4 0 ++ natLe 8 (d.progTime.getD 0) ++ natLe 32 0 ++ natBe 64 d.codeDigest ++
    natBe 64 d.recordDigest

/-- The 64 bytes of an entry of the drain log (14 R477) and of the stop log (15 R509). -/
def DrainEntry.bytes (e : DrainEntry) : Bytes :=
  natLe 8 e.time ++ natLe 1 e.cause ++ natLe 1 e.source ++ natLe 2 e.code ++ natLe 4 e.loc ++ natLe 4 e.svn ++ natLe 44 0
def StopEntry.bytes (e : StopEntry) : Bytes :=
  natLe 8 e.time ++ natLe 1 e.cause ++ natLe 1 0 ++ natLe 2 e.sensor ++ natLe 2 (ofSigned 16 e.reading) ++ natLe 2 e.vinMv ++ natLe 48 0

/-- Number of a tile, and of an array, in the order in which the flash lists them: by die, tile and array (DESIGN CHOICE, log entry 69). -/
def flashTile (t : TileId) : Nat := 16384 * t.die + t.tile
def flashArray (a : ArrId) : Nat := 17 * flashTile a.tid + a.arr

/-- Offset of an array's directory entry, and of a tile's record (12 Table 12.8). -/
def directoryOffset (a : ArrId) : Nat := FlashArea.directory.span.1 + 192 * flashArray a
def recordOffset (t : TileId) : Nat := FlashArea.frankingStore.span.1 + 22528 * flashTile t

/-- The entries of a log from its area's offset on. -/
def logItems (area : FlashArea) (es : List Bytes) : List (Nat × Bytes) := es.zipIdx.map fun e => (area.span.1 + 64 * e.2, e.1)

/-- An item that a slot holds. -/
def slotItem {α : Type} (area : FlashArea) (bytes : α → Bytes) : Option α → List (Nat × Bytes)
  | some x => [(area.span.1, bytes x)]
  | none => []

/-- What the flash holds at which offset, of the items whose bytes the spec lays out: the firmware images that are held byte for byte, the
configuration records, the device certificate, the logs, the directory entry and the tile record of an array. -/
def State.flashItems (s : State) (a : ArrId) : List (Nat × Bytes) :=
  ((List.range 2).flatMap fun k => slotItem (.firmware k) Image.raw (at' s.bt.images k none)) ++
    ((List.range 2).flatMap fun k => slotItem (.record k) ConfigRecord.bytes (at' s.bt.records k none)) ++
    [(FlashArea.certificate.span.1, s.bt.certificate)] ++
    logItems .drainLog (s.bt.drainLog.map DrainEntry.bytes) ++ logItems .stopLog (s.bt.stopLog.map StopEntry.bytes) ++
    [(directoryOffset a, (s.dir a).bytes), (recordOffset a.tid, (s.tileRecord a.tid).bytes)]

end Sys2Proof.Machine
end

