-- ==== Sys2Proof/Laws/Layouts.lean ====
section
/-! SUPPORT. The lengths of the items that flash and the franking store lay out, and that the items of an area stand within it (12 R410). -/

set_option Elab.async false

namespace Sys2Proof.Machine

theorem natBe_length (n v : Nat) : (natBe n v).length = n := by simp [natBe, natLe_length]

/-- A directory entry has 192 bytes (06 R186). -/
theorem dirEntry_bytes_length (d : DirEntry) : d.bytes.length = 192 := by
  simp [DirEntry.bytes, natLe_length, natBe_length]

/-- An entry of the drain log has 64 bytes (14 R477), and one of the stop log (15 R509). -/
theorem drainEntry_bytes_length (e : DrainEntry) : e.bytes.length = 64 := by simp [DrainEntry.bytes, natLe_length]

theorem stopEntry_bytes_length (e : StopEntry) : e.bytes.length = 64 := by simp [StopEntry.bytes, natLe_length]

theorem flatMap_range_length {α : Type} (f : Nat → List α) (k : Nat) (h : ∀ i, (f i).length = k) (n : Nat) :
    ((List.range n).flatMap f).length = n * k := by
  induction n with
  | zero => simp
  | succ n ih => simp only [List.range_succ, List.flatMap_append, List.flatMap_singleton, List.length_append, ih, h, Nat.succ_mul]

theorem blockBytesOf_length (neutral : Int) (a : Anchor) : (blockBytesOf neutral a).length = 1048 := by
  unfold blockBytesOf
  rw [List.length_append, flatMap_range_length _ 4, flatMap_range_length _ 4] <;> simp [natLe_length]

/-- An entry of the franking store has 1,152 bytes (04 R107). -/
theorem franking_entryBytes_length (f : Franking) (i : Nat) : (f.entryBytes i).length = 1152 := by
  simp [Franking.entryBytes, natLe_length, blockBytesOf_length]

/-- The directory entry of an array stands within the directory's area (12 Table 12.8). -/
theorem directoryOffset_inArea (a : ArrId) (hd : a.die < 4) (ht : a.tile < 16384) (ha : a.arr < 17) :
    FlashArea.directory.span.1 ≤ directoryOffset a ∧
      directoryOffset a + 192 ≤ FlashArea.directory.span.1 + FlashArea.directory.span.2 := by
  simp only [directoryOffset, flashArray, flashTile, ArrId.tid, FlashArea.span]
  omega

/-- The tile record stands within the franking store's area (12 Table 12.8). -/
theorem recordOffset_inArea (t : TileId) (hd : t.die < 4) (ht : t.tile < 16384) :
    FlashArea.frankingStore.span.1 ≤ recordOffset t ∧
      recordOffset t + 22528 ≤ FlashArea.frankingStore.span.1 + FlashArea.frankingStore.span.2 := by
  simp only [recordOffset, flashTile, FlashArea.span]
  omega

/-- Two arrays whose directory entries stand at one offset are one array. -/
theorem directoryOffset_inj (a b : ArrId) (ha : a.tile < 16384 ∧ a.arr < 17) (hb : b.tile < 16384 ∧ b.arr < 17)
    (h : directoryOffset a = directoryOffset b) : a = b := by
  obtain ⟨d, t, k⟩ := a
  obtain ⟨d', t', k'⟩ := b
  simp only [directoryOffset, flashArray, flashTile, ArrId.tid] at *
  have : d = d' ∧ t = t' ∧ k = k' := by omega
  simp [this]

end Sys2Proof.Machine
end

