-- ==== Sys2Proof/Laws/Lists.lean ====
section
/-! SUPPORT. Lists read by key: what putBy, setKey and dropKey leave to be found. -/

set_option Elab.async false
set_option linter.unusedTactic false
set_option linter.unreachableTactic false
set_option linter.unusedVariables false

namespace Sys2Proof.Machine

theorem find_putBy {α : Type} (p : α → Bool) (x : α) (l : List α) (h : p x = true) : (putBy p x l).find? p = some x := by
  induction l with
  | nil => unfold putBy; simp [h]
  | cons y l ih =>
    unfold putBy
    split
    · simp [h]
    · rename_i hy; rw [List.find?_cons_of_neg hy]; exact ih

theorem find_putBy_ne {α : Type} (p q : α → Bool) (x : α) (l : List α) (hx : q x = false) (hpq : ∀ y, p y = true → q y = false) :
    (putBy p x l).find? q = l.find? q := by
  induction l with
  | nil => unfold putBy; rw [List.find?_cons_of_neg (by simp [hx])]
  | cons y l ih =>
    unfold putBy
    split
    · rename_i hy
      rw [List.find?_cons_of_neg (by simp [hx]), List.find?_cons_of_neg (by simp [hpq y hy])]
    · by_cases hq : q y = true
      · rw [List.find?_cons_of_pos hq, List.find?_cons_of_pos hq]
      · rw [List.find?_cons_of_neg hq, List.find?_cons_of_neg hq]; exact ih

theorem lookupD_set {κ β : Type} [DecidableEq κ] (l : List (κ × β)) (k : κ) (v d : β) : lookupD (setKey l k v) k d = v := by
  unfold lookupD setKey
  rw [find_putBy _ _ _ (by simp)]

theorem lookupD_set_ne {κ β : Type} [DecidableEq κ] (l : List (κ × β)) (k j : κ) (v d : β) (h : j ≠ k) :
    lookupD (setKey l k v) j d = lookupD l j d := by
  unfold lookupD setKey
  rw [find_putBy_ne]
  · simp [Ne.symm h]
  · intro y hy
    simp only [beq_iff_eq] at hy
    rw [hy]; simp [Ne.symm h]

end Sys2Proof.Machine
end

