-- ==== Sys2Proof/Laws/Updates.lean ====
section
/-! SUPPORT. What is read of one part of the state after its update: ports, tiles, directory entries, records; where the clocks
stand after a move of time; the newest event record. -/

set_option Elab.async false
set_option linter.unusedTactic false
set_option linter.unreachableTactic false
set_option linter.unusedVariables false

namespace Sys2Proof.Machine

/-- Time up to a tick moves the clocks alone; the free-running clock never goes back. -/
theorem advanceTo_spec (s : State) (n : Nat) : ∃ m, s.advanceTo n = { s with tm := m } ∧ m.tick = max s.tm.tick n := by
  unfold State.advanceTo
  split
  · refine ⟨_, rfl, ?_⟩
    unfold Clocks.forward; split <;> dsimp only <;> omega
  · exact ⟨s.tm, rfl, by omega⟩

/-- A Courier port read after its own update. -/
theorem port_mod (s : State) (n : Nat) (f : CourierPort → CourierPort) (h : n < s.fb.ports.length) : (s.modPort n f).port n = f
    (s.port n) := by
  unfold State.port State.modPort at' modAt
  simp [List.getD_eq_getElem?_getD, h]

/-- Another Courier port is not touched. -/
theorem port_mod_ne (s : State) (n m : Nat) (f : CourierPort → CourierPort) (h : m ≠ n) : (s.modPort n f).port m = s.port m := by
  unfold State.port State.modPort at' modAt
  simp [List.getD_eq_getElem?_getD, Ne.symm h]

/-- A port that is not OFF is one of the twelve held. -/
theorem port_listed (s : State) (n : Nat) (h : (s.port n).state ≠ .off) : n < s.fb.ports.length := by
  by_contra hc
  apply h
  unfold State.port at'
  rw [List.getD_eq_getElem?_getD, List.getElem?_eq_none (by omega)]; rfl

theorem port_of_state (s : State) (n : Nat) (x : PortState) (h : (s.port n).state = x) (hx : x ≠ .off) : n < s.fb.ports.length :=
  port_listed s n (by rw [h]; exact hx)

theorem carries_listed (s : State) (n : Nat) (h : s.courierAlive n = true) : n < s.fb.ports.length := by
  apply port_listed
  intro hc
  unfold State.courierAlive CourierPort.carries at h
  rw [hc] at h
  simp at h

/-- A Dispatch port read after its own update. -/
theorem dsp_mod (s : State) (n : Nat) (f : DspPort → DspPort) (h : n < s.dp.ports.length) : (s.modDsp n f).dsp n = f (s.dsp n) := by
  unfold State.dsp State.modDsp at' modAt
  simp [List.getD_eq_getElem?_getD, h]

/-- The other Dispatch port is not touched. -/
theorem dsp_mod_ne (s : State) (n m : Nat) (f : DspPort → DspPort) (h : m ≠ n) : (s.modDsp n f).dsp m = s.dsp m := by
  unfold State.dsp State.modDsp at' modAt
  simp [List.getD_eq_getElem?_getD, Ne.symm h]

/-- A tile read after its own update. -/
theorem tile_mod (s : State) (t : TileId) (f : Tile → Tile) : (s.modTile t f).tile t = { f (s.tile t) with id := t } := by
  unfold State.modTile State.setTile
  show (Option.getD (List.find? _ (putBy _ _ _)) _) = _
  rw [find_putBy _ _ _ (by simp)]
  rfl

/-- Another tile is not touched. -/
theorem tile_mod_ne (s : State) (t u : TileId) (f : Tile → Tile) (h : u ≠ t) : (s.modTile t f).tile u = s.tile u := by
  unfold State.modTile State.setTile State.tile
  dsimp only
  rw [find_putBy_ne]
  · simp [Ne.symm h]
  · intro y hy
    simp only [beq_iff_eq] at hy ⊢
    rw [beq_eq_false_iff_ne, hy]; exact Ne.symm h

/-- What one step of a fold keeps, the fold keeps. -/
theorem foldl_keep {α β : Type} (g : State → β) (F : State → α → State) (l : List α) (s : State) (h : ∀ x a, g (F x a) = g x) :
    g (l.foldl F s) = g s := by
  induction l generalizing s with
  | nil => rfl
  | cons a l ih => rw [List.foldl_cons, ih, h]

/-- A record raised is the newest, with the next sequence number and the time (13 R444). -/
theorem raise_last (s : State) (c src : Nat) (d : List Nat) : (s.raise c src d).ev.held.getLast? = some ⟨c, src, s.ev.next, s.time, d⟩ := by
  unfold State.raise; dsimp only; split <;> simp

theorem tile_id (s : State) (t : TileId) : (s.tile t).id = t := by
  unfold State.tile
  cases h : s.tl.tiles.find? fun x => x.id == t with
  | none => rfl
  | some x => have := List.find?_some h; simpa using this

/-- Time up to a value of a VALID step counter. -/
theorem counterTo_spec (s : State) (n : Nat) (h : s.tm.valid = true) :
    ∃ m, s.counterTo n = { s with tm := m } ∧ m.counter = max s.tm.counter n ∧ m.valid = true := by
  unfold State.counterTo
  split
  · refine ⟨_, rfl, ?_, ?_⟩
    · unfold Clocks.countTo; dsimp only; omega
    · exact h
  · rename_i hn
    refine ⟨s.tm, rfl, ?_, h⟩
    simp only [h, true_and, Nat.not_lt] at hn; omega

/-- A directory entry read after its own update. -/
theorem dir_mod (s : State) (a : ArrId) (f : DirEntry → DirEntry) : (s.modDir a f).dir a = f (s.dir a) := lookupD_set _ _ _ _

/-- Another directory entry is not touched. -/
theorem dir_mod_ne (s : State) (a b : ArrId) (f : DirEntry → DirEntry) (h : b ≠ a) :
    (s.modDir a f).dir b = s.dir b := lookupD_set_ne _ _ _ _ _ h

/-- The code record of an array read after it is set. -/
theorem record_set (s : State) (a : ArrId) (r : CodeRecord) : (s.setRecord a r).record a = some r := by
  obtain ⟨_, e⟩ := s.setRecord_eq a r
  rw [e]; unfold State.record setKey
  dsimp only
  rw [find_putBy _ _ _ (by simp)]; rfl

/-- A value of a tile that an update of any tile keeps. -/
theorem tile_keep {β : Type} (g : Tile → β) (s : State) (j id : TileId) (f : Tile → Tile) (hi :
    ∀ x i, g { x with id := i } = g x) (hf : ∀ x, g (f x) = g x) :
    g ((s.modTile j f).tile id) = g (s.tile id) := by
  by_cases h : id = j
  · subst h; rw [tile_mod, hi, hf]
  · rw [tile_mod_ne _ _ _ _ h]

/-- A value of a tile that does not look at its coefficient sets is kept when they change. -/
theorem withSet_keep {β : Type} (g : Tile → β) (hi : ∀ x i, g { x with id := i } = g x) (hc : ∀ x c, g { x with current := c } = g x)
    (hn : ∀ x c, g { x with next := c } = g x) (s : State) (a : ArrId) (f : State → State) (hf : ∀ x, (f x).tl = x.tl) (id : TileId) :
    g ((s.withSet a f).tile id) = g (s.tile id) := by
  have hft : ∀ x : State, (f x).tile id = x.tile id := fun x => by unfold State.tile; rw [hf x]
  unfold State.withSet
  dsimp only
  rw [tile_keep g _ a.tid id _ hi (fun x => hn x _), hft, tile_keep g _ a.tid id _ hi (fun x => hc x _)]

/-- The same where the drift of an array is set to zero. -/
theorem zeroDrift_keep {β : Type} (g : Tile → β) (hi : ∀ x i, g { x with id := i } = g x) (hc : ∀ x c, g { x with current := c } = g x)
    (hn : ∀ x c, g { x with next := c } = g x) (s : State) (a : ArrId) (id : TileId) : g ((s.zeroDrift a).tile id) = g (s.tile id) := by
  unfold State.zeroDrift
  exact withSet_keep g hi hc hn s a (fun st => st.setDrift a freshDrift) (fun _ => rfl) id

end Sys2Proof.Machine
end

