-- ==== Sys2Proof/Laws/Messages.lean ====
section
/-! SUPPORT. What an asynchronous event, a frame sent into the fabric and a piece of a parcel change. -/

set_option Elab.async false
set_option linter.unusedTactic false
set_option linter.unreachableTactic false
set_option linter.unusedVariables false

namespace Sys2Proof.Machine

/-- An EVENT frame changes the Dispatch block alone. -/
theorem sendEvent_eq (s : State) (e : Async) : ∃ d, s.sendEvent e = { s with dp := d } := by
  unfold State.sendEvent
  split
  · exact ⟨_, rfl⟩
  · exact ⟨s.dp, rfl⟩

/-- An event in the ring or the window changes the events and window memory alone. -/
theorem writeAsync_eq (s : State) (e : Async) :
    ∃ v m, s.writeAsync e = { s with ev := v, sv := { s.sv with mem := m } } ∧ v.asyncNext = s.ev.asyncNext := by
  unfold State.writeAsync
  split
  · refine ⟨_, s.sv.mem, rfl, ?_⟩
    unfold Events.toWindow; split <;> rfl
  · unfold State.toEventRing
    split
    · exact ⟨s.ev, s.sv.mem, rfl, rfl⟩
    · exact ⟨_, _, rfl, rfl⟩

/-- An asynchronous event changes the events, window memory and the Dispatch block alone; it takes a number if feature 11 is selected. -/
theorem async_eq (s : State) (c : Nat) (d : Bytes) : ∃ v m dp, s.async c d = { s with ev := v, sv := { s.sv with mem := m }, dp := dp } ∧
    v.asyncNext = if s.feature 11 then (s.ev.asyncNext + 1) % 2 ^ 32 else s.ev.asyncNext := by
  unfold State.async
  split
  · dsimp only
    unfold State.deliverAsync
    obtain ⟨v, m, h, hn⟩ := writeAsync_eq ({ s with ev := { s.ev with asyncNext := (s.ev.asyncNext + 1) % 2 ^ 32 } }) ⟨c, s.ev.asyncNext, s.time, d⟩
    split
    · exact ⟨v, m, s.dp, h, hn⟩
    · rw [h]
      obtain ⟨dp, hd⟩ := sendEvent_eq _ _
      exact ⟨v, m, dp, hd, hn⟩
  · exact ⟨s.ev, s.sv.mem, s.dp, rfl, rfl⟩

theorem async_wt (s : State) (c : Nat) (d : Bytes) : (s.async c d).wt = s.wt := by obtain ⟨v, m, p, h, _⟩ := async_eq s c d; rw [h]

theorem async_tm (s : State) (c : Nat) (d : Bytes) : (s.async c d).tm = s.tm := by obtain ⟨v, m, p, h, _⟩ := async_eq s c d; rw [h]

theorem async_kv (s : State) (c : Nat) (d : Bytes) : (s.async c d).kv = s.kv := by obtain ⟨v, m, p, h, _⟩ := async_eq s c d; rw [h]

theorem async_tl (s : State) (c : Nat) (d : Bytes) : (s.async c d).tl = s.tl := by obtain ⟨v, m, p, h, _⟩ := async_eq s c d; rw [h]

theorem async_next (s : State) (c : Nat) (d : Bytes) : (s.async c d).ev.asyncNext = if s.feature 11 then
    (s.ev.asyncNext + 1) % 2 ^ 32 else s.ev.asyncNext := by
  obtain ⟨v, m, p, h, hn⟩ := async_eq s c d; rw [h]; exact hn

/-- A routed frame changes the fabric and the drop counters alone, and no coordinate. -/
theorem sendRouted_eq (s : State) (h : CourierHdr) (p : Bytes) :
    ∃ f r, s.sendRouted h p = { s with fb := f, rg := r } ∧ f.coord = s.fb.coord ∧ f.coordValid = s.fb.coordValid := by
  unfold State.sendRouted
  split
  · dsimp only
    split
    · exact ⟨_, s.rg, rfl, rfl, rfl⟩
    · exact ⟨_, s.rg, rfl, rfl, rfl⟩
  · exact ⟨s.fb, _, rfl, rfl, rfl⟩

/-- The same state but for the fabric and the drop counters; the coordinate stays. -/
def SameFb (s t : State) : Prop := ∃ f r, t = { s with fb := f, rg := r } ∧ f.coord = s.fb.coord ∧ f.coordValid = s.fb.coordValid

theorem SameFb.refl (s : State) : SameFb s s := ⟨s.fb, s.rg, rfl, rfl, rfl⟩

theorem SameFb.trans {s t u : State} (h : SameFb s t) (k : SameFb t u) : SameFb s u := by
  obtain ⟨f, r, rfl, h1, h2⟩ := h
  obtain ⟨g, q, rfl, h3, h4⟩ := k
  exact ⟨g, q, rfl, h3.trans h1, h4.trans h2⟩

theorem SameFb.fold {α : Type} (l : List α) (f : State → α → State) (s : State) (hf : ∀ x a, SameFb x (f x a)) : SameFb s
    (l.foldl f s) := by
  induction l generalizing s with
  | nil => exact SameFb.refl s
  | cons a l ih => exact (hf s a).trans (ih _)

theorem originate_fb (s : State) (a b c : Nat) (p : Bytes) : SameFb s (s.originate a b c p) := sendRouted_eq s _ p

theorem passOn_fb (s : State) (v : Bool) (h : ParcelHdr) (a b c : Nat) (d : Bytes) : SameFb s (s.passOn v h a b c d) := by
  unfold State.passOn
  dsimp only
  split
  · split
    · exact SameFb.fold _ _ _ fun x e => originate_fb x _ _ _ _
    · exact SameFb.refl s
  · exact SameFb.refl s

/-- A piece of a parcel joins its assembly, which is dropped where the whole parcel is not for this module (06 R170, R546). -/
theorem parcelData_assembles (s : State) (v : Bool) (m i off : Nat) (d : Bytes) : s.assembles (s.parcelData v m i off d) v m i off d := by
  unfold State.assembles
  extract_lets old new
  obtain ⟨s1, h1⟩ : ∃ s1 : State, s1 = { s with wt := { s.wt with assembling := putBy (fun a => a.is m i) new s.wt.assembling } } := ⟨_, rfl⟩
  have hold : old.is m i = true := by
    show (Option.getD (List.find? _ _) _ : Assembly).is m i = true
    cases h : s.wt.assembling.find? fun a => a.is m i with
    | none => simp [Assembly.is]
    | some a => have h2 := List.find?_some h; exact h2
  have hf : s1.wt.assembling.find? (fun a => a.is m i) = some new := by
    rw [h1]; exact find_putBy _ _ _ hold
  have hp : s.parcelData v m i off d = match new.header with
      | none => s1
      | some h => if new.whole && !((if old.header.isSome then [(off, d)] else new.pieces).foldl (fun st p => st.passOn new.viaDispatch h m i p.1 p.2) s1).addressed h then ((if old.header.isSome then [(off, d)] else new.pieces).foldl (fun st p => st.passOn new.viaDispatch h m i p.1 p.2) s1).dropAssembly m i else ((if old.header.isSome then [(off, d)] else new.pieces).foldl (fun st p => st.passOn new.viaDispatch h m i p.1 p.2) s1) := by
    rw [h1]; unfold State.parcelData; rfl
  rw [hp]
  have key : ∀ h, ∃ s2, SameFb s1 s2 ∧ ((if old.header.isSome then [(off, d)] else new.pieces).foldl (fun st p => st.passOn new.viaDispatch h m i p.1 p.2) s1) = s2 := fun h => ⟨_, SameFb.fold _ _ _ fun x e => passOn_fb x _ _ _ _ _ _, rfl⟩
  refine ⟨fun hw => ?_, fun h hh hw ha => ?_⟩
  · cases hh : new.header with
    | none => exact hf
    | some h =>
      obtain ⟨s2, h2, h3⟩ := key h
      dsimp only
      rw [h3]
      have ha : s2.addressed h = s.addressed h := by
        obtain ⟨f, r, rfl, e1, e2⟩ := h2
        unfold State.addressed; dsimp only; rw [e1, e2, h1]
      rw [if_neg]
      · obtain ⟨f, r, rfl, e1, e2⟩ := h2
        exact hf
      · rw [ha]
        rcases hw with hw | hw
        · rw [hw]; simp
        · rw [hw h hh]; simp
  · obtain ⟨s2, h2, h3⟩ := key h
    rw [hh]
    dsimp only
    rw [h3]
    have ha : s2.addressed h = s.addressed h := by
      obtain ⟨f, r, rfl, e1, e2⟩ := h2
      unfold State.addressed; dsimp only; rw [e1, e2, h1]
    rw [if_pos (by rw [hw, ha, ‹s.addressed h = false›]; rfl)]
    unfold State.dropAssembly
    dsimp only
    rw [List.find?_eq_none]
    intro a ha'
    have := (List.mem_filter.1 ha').2
    simpa using this

/-- A Courier frame that a port carries is handled; a schedule that it issues in P1 Hold wakes the module. -/
theorem withCourier_carried {s : State} {h : CourierHdr} {type : Nat} {f : State → State} (hc : s.carried h type = true) :
    s.withCourier h type f = (f s).scheduleWakes s := by
  unfold State.carried at hc
  simp only [Bool.and_eq_true, Bool.not_eq_true', beq_iff_eq] at hc
  obtain ⟨⟨⟨⟨a, b⟩, c⟩, d⟩, e⟩ := hc
  unfold State.withCourier
  dsimp only
  rw [if_neg (by rw [a, b]; simp), if_neg (by simp [c]), if_neg (by simp [d]), if_neg]
  rintro ⟨h1, h2⟩
  rw [h2] at e
  rcases h1 with h1 | h1 | h1 <;> simp [h1] at e

/-- An asynchronous event does not touch the storm window. -/
theorem async_storm (s : State) (c : Nat) (d : Bytes) : (s.async c d).ev.stormPending = s.ev.stormPending ∧
    (s.async c d).ev.stormList = s.ev.stormList ∧ (s.async c d).sv.storm = s.sv.storm := by
  have hw : ∀ (s : State) (e : Async), (s.writeAsync e).ev.stormPending = s.ev.stormPending ∧ (s.writeAsync e).ev.stormList = s.ev.stormList ∧ (s.writeAsync e).sv.storm = s.sv.storm := by
    intro s e
    unfold State.writeAsync
    split
    · refine ⟨?_, ?_, rfl⟩
      · unfold Events.toWindow; split <;> rfl
      · unfold Events.toWindow; split <;> rfl
    · unfold State.toEventRing
      split
      · exact ⟨rfl, rfl, rfl⟩
      · exact ⟨rfl, rfl, rfl⟩
  unfold State.async
  split
  · dsimp only
    unfold State.deliverAsync
    have h := hw ({ s with ev := { s.ev with asyncNext := (s.ev.asyncNext + 1) % 2 ^ 32 } }) ⟨c, s.ev.asyncNext, s.time, d⟩
    split
    · exact h
    · obtain ⟨dp, hd⟩ := sendEvent_eq (State.writeAsync { s with ev := { s.ev with asyncNext := (s.ev.asyncNext + 1) % 2 ^ 32 } } ⟨c, s.ev.asyncNext, s.time, d⟩) ⟨c, s.ev.asyncNext, s.time, d⟩
      rw [hd]; exact h
  · exact ⟨rfl, rfl, rfl⟩

end Sys2Proof.Machine
end

