-- ==== Sys2Proof/Laws/Ports.lean ====
section
/-! SUPPORT. What frames sent, notices, the abort of a job and the failure of a port do to the states of the Courier ports. -/

set_option Elab.async false
set_option linter.unusedTactic false
set_option linter.unreachableTactic false
set_option linter.unusedVariables false

namespace Sys2Proof.Machine

/-- Every Courier port has the state it had. -/
def SamePs (s t : State) : Prop := ∀ k, (t.port k).state = (s.port k).state

theorem sendCourier_ps {s0 s : State} (c : CourierTx) (h : SamePs s0 s) : SamePs s0 (s.sendCourier c) := by
  intro k
  rw [← h k]
  unfold State.sendCourier State.port at' modAt
  by_cases hk : k = c.port
  · subst hk
    simp only [List.getD_eq_getElem?_getD, List.getElem?_modify]
    simp only [if_true]
    cases hg : s.fb.ports[c.port]? with
    | none => rfl
    | some p => rfl
  · simp [List.getD_eq_getElem?_getD, Ne.symm hk]

theorem sendRouted_ps {s0 s : State} {h : CourierHdr} {payload : Bytes} (hk : SamePs s0 s) : SamePs s0 (s.sendRouted h payload) := by
  unfold State.sendRouted
  split
  · apply sendCourier_ps
    dsimp only
    split <;> exact hk
  · exact hk

theorem originate_ps {s0 s : State} {type dest job : Nat} {payload : Bytes} (hk : SamePs s0 s) : SamePs s0
    (s.originate type dest job payload) := by
  unfold State.originate; exact sendRouted_ps hk

theorem foldl_ps {α : Type} {s0 : State} (l : List α) (f : State → α → State) (s : State) (h : SamePs s0 s)
    (hf : ∀ x a, SamePs s0 x → SamePs s0 (f x a)) : SamePs s0 (l.foldl f s) := by
  induction l generalizing s with
  | nil => exact h
  | cons a l ih => exact ih _ (hf s a h)

theorem notifyDown_ps {s0 s : State} {c : Nat} (hk : SamePs s0 s) : SamePs s0 (s.notifyDown c) := by
  unfold State.notifyDown
  split
  · exact hk
  · exact foldl_ps _ _ _ hk fun x a hx => foldl_ps _ _ _ hx fun y b hy => originate_ps hy

/-- What leaves the fabric as it is. -/
theorem SamePs.pass {s0 s t : State} (h : SamePs s0 s) (e : t.fb.ports = s.fb.ports) : SamePs s0 t := fun k => by
  rw [← h k]; unfold State.port; rw [e]

theorem abortStep_ports (s : State) (o : OpenStep) : (s.abortStep o).fb.ports = s.fb.ports := by
  have h := foldl_keep (fun x : State => x.fb.ports) (fun st (e : LenEntry) => st.releaseReserved o.tag e.slot) o.cmd.entries
    ((s.dropWork o.tag).dropLedger o) fun x e => congrArg Fabric.ports
      ((State.releaseReserved_only (K := 4096) (Only.refl x) (Needs.refl _)) .fabric rfl)
  refine Eq.trans h ?_
  unfold State.dropLedger
  split <;> rfl

/-- A job aborted sends notices, and no port changes its state. -/
theorem abortJob_ps {s0 s : State} {job reason module : Nat} (hk : SamePs s0 s) : SamePs s0 (s.abortJob job reason module) := by
  unfold State.abortJob
  split
  · exact hk
  · dsimp only
    refine SamePs.pass (s := State.notifyJob _ job 1 reason module) ?_
      (congrArg Fabric.ports ((State.reportAbort_only (K := 3600) (Only.refl _) (Needs.refl _)) .fabric rfl))
    unfold State.notifyJob
    refine foldl_ps _ _ _ ?_ fun x a hx => originate_ps hx
    exact foldl_ps _ _ _ (hk.pass rfl) fun x o hx => hx.pass (abortStep_ports x o)

theorem sendOrAbort_ps {s0 s : State} {h : CourierHdr} {payload : Bytes} (hk : SamePs s0 s) : SamePs s0 (s.sendOrAbort h payload) := by
  unfold State.sendOrAbort
  split
  · exact sendRouted_ps hk
  · exact abortJob_ps (sendRouted_ps hk)

theorem raise_port (s : State) (c src : Nat) (d : List Nat) (k : Nat) : (s.raise c src d).port k = s.port k := rfl

/-- A port that fails is FAILED, and no other port changes its state (10 R320, R336). -/
theorem portFails_state (s : State) (k r : Nat) (h : k < s.fb.ports.length) :
    ((s.portFails k r).port k).state = .failed ∧ ∀ m, m ≠ k → ((s.portFails k r).port m).state = (s.port m).state := by
  unfold State.portFails
  dsimp only
  obtain ⟨s2, h2⟩ : ∃ s2 : State, s2 = ((s.modPort k fun q => { q with state := PortState.failed, out := [], link := q.link.fresh }).raise 0x0030 4 [k + 256 * r]).modPort k
      fun q => { q with link := { q.link with waiting := [] } } := ⟨_, rfl⟩
  rw [← h2]
  have hs : SamePs s2 (((s.port k).out.foldl State.sendAgain s2).notifyDown (s.port k).partner) := by
    apply notifyDown_ps
    exact foldl_ps _ _ _ (fun k => rfl) fun x a hx => sendOrAbort_ps hx
  have hl : k < ((s.modPort k fun q => { q with state := PortState.failed, out := [], link := q.link.fresh }).raise 0x0030 4 [k + 256 * r]).fb.ports.length := by
    rw [State.raise_fb]; unfold State.modPort modAt; simpa using h
  constructor
  · rw [hs k, h2, port_mod _ _ _ hl, raise_port, port_mod _ _ _ h]
  · intro m hm
    rw [hs m, h2, port_mod_ne _ _ _ _ hm, raise_port, port_mod_ne _ _ _ _ hm]

end Sys2Proof.Machine
end

