-- ==== Sys2Proof/Laws/Queues.lean ====
section
/-! SUPPORT. What the operations on one queue leave of every queue: its waiting steps. A queue that is found after them was found before
them, with the same waiting steps. -/

set_option Elab.async false

namespace Sys2Proof.Machine

/-- Every queue found in `t` was found in `s` with the same waiting steps. -/
def SameWaiting (s t : State) : Prop := ∀ k q, t.queue k = some q → ∃ r, s.queue k = some r ∧ q.waiting = r.waiting

theorem SameWaiting.refl (s : State) : SameWaiting s s := fun _ q h => ⟨q, h, rfl⟩

theorem SameWaiting.trans {s t u : State} (h : SameWaiting s t) (g : SameWaiting t u) : SameWaiting s u := fun k q hq =>
  have ⟨_, h1, e1⟩ := g k q hq
  have ⟨r, h2, e2⟩ := h k _ h1
  ⟨r, h2, e1.trans e2⟩

/-- What leaves the list of queues as it is. -/
theorem SameWaiting.pass {s0 s t : State} (h : SameWaiting s0 s) (e : t.sv.queues = s.sv.queues) : SameWaiting s0 t :=
  .trans h fun _ q hq => ⟨q, by simpa only [State.queue, e] using hq, rfl⟩

/-- The queue found after a change of one queue that leaves the numbers. -/
theorem State.modQueue_queue (s : State) (n k : Nat) (f : Queue → Queue) (hf : ∀ x, (f x).id = x.id) :
    (s.modQueue n f).queue k = (s.queue k).map fun x => if x.id = n then f x else x := by
  simp only [State.queue, State.modQueue]
  generalize s.sv.queues = l
  induction l with
  | nil => rfl
  | cons x l ih =>
    rw [List.map_cons]
    by_cases hx : x.id = k
    · rw [List.find?_cons_of_pos (by split <;> simp [hf, hx]), List.find?_cons_of_pos (by simp [hx])]
      rfl
    · rw [List.find?_cons_of_neg (by split <;> simp [hf, hx]), List.find?_cons_of_neg (by simp [hx])]
      exact ih

theorem SameWaiting.mod {s0 s : State} (h : SameWaiting s0 s) {n : Nat} {f : Queue → Queue} (hf : ∀ x, (f x).id = x.id)
    (hw : ∀ x, (f x).waiting = x.waiting) : SameWaiting s0 (s.modQueue n f) := .trans h fun k q hq => by
  rw [State.modQueue_queue s n k f hf] at hq
  obtain ⟨r, hr, rfl⟩ := Option.map_eq_some_iff.1 hq
  refine ⟨r, hr, ?_⟩
  split
  · exact hw r
  · rfl

theorem State.closeStep_waiting {s0 s : State} (h : SameWaiting s0 s) {n seq : Nat} : SameWaiting s0 (s.closeStep n seq) := h.pass rfl

theorem State.writeCompletion_waiting {s0 s : State} (h : SameWaiting s0 s) {n : Nat} {c : Completion} :
    SameWaiting s0 (s.writeCompletion n c).1 := by
  unfold State.writeCompletion
  split
  · exact h
  · refine SameWaiting.mod (h.pass ?_) (fun _ => rfl) fun _ => rfl
    repeat' split
    all_goals rfl

theorem State.takeEnded_waiting {s0 s : State} (h : SameWaiting s0 s) {n : Nat} {c : Completion} : SameWaiting s0 (s.takeEnded n c) :=
  h.mod (fun _ => rfl) fun _ => rfl

theorem State.retain_waiting {s0 s : State} (h : SameWaiting s0 s) {q : Queue} {c : Completion} : SameWaiting s0 (s.retain q c) := by
  unfold State.retain
  dsimp only
  split
  · refine SameWaiting.pass ?_ rfl
    split
    · exact State.writeCompletion_waiting h
    · exact State.takeEnded_waiting h
  · refine SameWaiting.mod ?_ (fun _ => rfl) fun _ => rfl
    split
    · exact State.writeCompletion_waiting h
    · exact State.takeEnded_waiting h

theorem State.flushQueue_waiting {f n : Nat} {s0 s : State} (h : SameWaiting s0 s) : SameWaiting s0 (State.flushQueue f n s).1 := by
  induction f generalizing s with
  | zero => exact h
  | succ f ih =>
    unfold State.flushQueue
    split
    · exact h
    · split
      · exact h
      · split
        · exact ih (State.closeStep_waiting (State.takeEnded_waiting h))
        · split
          · exact ih (State.closeStep_waiting (State.retain_waiting h))
          · split
            · exact ih (State.closeStep_waiting (State.writeCompletion_waiting h))
            · exact h

theorem State.sendCompletions_waiting {s0 s : State} (h : SameWaiting s0 s) {n : Nat} {items : List Bytes} :
    SameWaiting s0 (s.sendCompletions n items) := by
  unfold State.sendCompletions
  split
  · exact h
  · split
    · exact h
    · split
      · exact h
      · exact List.foldlRecOn (motive := SameWaiting s0) _ _ h fun t ht _ _ => ht.pass rfl

theorem State.deliver_waiting {s0 s : State} (h : SameWaiting s0 s) {n : Nat} : SameWaiting s0 (s.deliver n) := by
  unfold State.deliver
  split
  · exact h
  · exact State.sendCompletions_waiting (State.flushQueue_waiting h)

/-- A step without a round ends: no queue's waiting steps change. -/
theorem State.putUnbegun_waiting {s0 s : State} (h : SameWaiting s0 s) {q : Queue} {w : Waiting} {status detail : Nat} :
    SameWaiting s0 (s.putUnbegun q w status detail) :=
  State.deliver_waiting (by unfold State.putEnded; exact h.mod (fun _ => rfl) fun _ => rfl)

theorem State.sweepQueue_waiting {s0 s : State} (h : SameWaiting s0 s) {n : Nat} : SameWaiting s0 (s.sweepQueue n) := by
  unfold State.sweepQueue
  split
  · split
    · refine h.trans fun k q hq => ⟨q, ?_, rfl⟩
      simp only [State.queue, List.find?_filter] at hq ⊢
      have hk : k ≠ n := by
        rintro rfl
        have := List.find?_some hq
        simp at this
      rw [← hq]
      congr 1
      funext x
      by_cases hx : x.id = k
      · simp [hx, hk]
      · simp [hx]
    · exact h
  · exact h

end Sys2Proof.Machine
end

