-- ==== Sys2Proof/Laws/RegisterValues.lean ====
section
/-! SUPPORT. What the register file stores after a write: the register written, with its reserved and clamped fields, and no other. -/

set_option Elab.async false
set_option linter.unusedTactic false
set_option linter.unreachableTactic false
set_option linter.unusedVariables false

namespace Sys2Proof.Machine

theorem find_filter_ne (l : List (Nat × Word)) (a b : Nat) (h : b ≠ a) :
    (l.filter fun e => e.1 != a).find? (fun e => e.1 == b) = l.find? (fun e => e.1 == b) := by
  rw [List.find?_filter]
  congr 1; funext e
  by_cases h1 : e.1 = b
  · simp [h1, h]
  · simp [h1]

theorem find_filter_eq (l : List (Nat × Word)) (a : Nat) :
    (l.filter fun e => e.1 != a).find? (fun e => e.1 == a) = none := by
  simp

theorem find_putRising_ne (l : List (Nat × Word)) (a b : Nat) (v : Word) (h : b ≠ a) :
    (putRising a v l).find? (fun e => e.1 == b) = l.find? (fun e => e.1 == b) := by
  induction l with
  | nil => simp [putRising, Ne.symm h]
  | cons e l ih =>
    unfold putRising
    split
    · rw [List.find?_cons, show ((a, v).1 == b) = false by simpa using Ne.symm h]
    · split
      · rename_i h1 h2; rw [List.find?_cons, List.find?_cons, ← h2, show ((a, v).1 == b) = false by simpa using Ne.symm h]
      · simp only [List.find?_cons, ih]

theorem find_putRising_eq (l : List (Nat × Word)) (a : Nat) (v : Word) :
    (putRising a v l).find? (fun e => e.1 == a) = some (a, v) := by
  induction l with
  | nil => simp [putRising]
  | cons e l ih =>
    unfold putRising
    split
    · simp
    · split
      · simp
      · rename_i h1 h2; simp only [List.find?_cons]
        rw [show (e.1 == a) = false by simpa using Ne.symm h2]; exact ih

/-- Another register keeps its value. -/
theorem stored_store_ne (s : State) (a b v : Nat) (h : b ≠ a) : (s.store a v).stored b = s.stored b := by
  unfold State.stored State.store storeIn
  dsimp only
  have : ∀ (c : Prop) [Decidable c] (x y : List (Nat × Word)), x.find? (fun e => e.1 == b) = s.rg.stored.find? (fun e => e.1 == b) →
    y.find? (fun e => e.1 == b) = s.rg.stored.find? (fun e => e.1 == b) → (if c then x else y).find? (fun e => e.1 == b) = s.rg.stored.find? (fun e => e.1 == b) := by
    intro c _ x y h1 h2; split <;> assumption
  rw [this _ _ _ (find_filter_ne _ _ _ h) (find_putRising_ne _ _ _ _ h)]

/-- A register stored reads back. -/
theorem stored_store_eq (s : State) (a v : Nat) (hv : v < 2 ^ 32) : (s.store a v).stored a = v := by
  unfold State.stored State.store storeIn
  dsimp only
  cases hr : regInfo a with
  | none =>
    by_cases h : v = 0
    · rw [if_pos h, find_filter_eq]; exact h.symm
    · rw [if_neg h, find_putRising_eq]; simpa using hv
  | some i =>
    by_cases h : v = i.reset
    · rw [if_pos h, find_filter_eq]; exact h.symm
    · rw [if_neg h, find_putRising_eq]; simpa using hv

theorem under_le (v m : Nat) : under v m ≤ v := Nat.and_le_left

theorem put_bound (w lo len x : Nat) (h : w < 2 ^ 32) (hx : x < 2 ^ len) (hl : lo + len ≤ 32) :
    w - bits w lo len * 2 ^ lo + x * 2 ^ lo < 2 ^ 32 := by
  unfold bits
  have hw : w = 2 ^ (lo+len) * (w / 2 ^ (lo+len)) + w % 2 ^ (lo+len) := (Nat.div_add_mod w _).symm
  have e1 : w % 2 ^ (lo + len) = w % 2 ^ lo + 2 ^ lo * (w / 2 ^ lo % 2 ^ len) := by
    rw [Nat.pow_add, Nat.mod_mul]
  have e2 : w % 2 ^ lo < 2 ^ lo := Nat.mod_lt _ (by positivity)
  have e3 : w % 2 ^ lo + x * 2 ^ lo < 2 ^ (lo + len) := by
    have : (x + 1) * 2 ^ lo ≤ 2 ^ len * 2 ^ lo := Nat.mul_le_mul_right _ hx
    rw [Nat.pow_add]; nlinarith
  obtain ⟨k, hk⟩ : ∃ k, 32 = lo + len + k := ⟨32 - (lo+len), by omega⟩
  have e4 : w / 2 ^ (lo + len) < 2 ^ k := by
    apply Nat.div_lt_of_lt_mul
    rw [← Nat.pow_add, ← hk]; exact h
  have e5 : 2 ^ (lo+len) * (w / 2 ^ (lo+len)) + 2 ^ (lo+len) ≤ 2 ^ 32 := by
    conv_rhs => rw [hk, Nat.pow_add]
    have : (w / 2 ^ (lo + len) + 1) ≤ 2 ^ k := e4
    calc _ = 2 ^ (lo+len) * (w / 2 ^ (lo+len) + 1) := by ring
      _ ≤ _ := Nat.mul_le_mul_left _ this
  have e6 : w - w / 2 ^ lo % 2 ^ len * 2 ^ lo = 2 ^ (lo+len) * (w / 2 ^ (lo+len)) + w % 2 ^ lo := by
    have := Nat.mul_comm (w / 2 ^ lo % 2 ^ len) (2 ^ lo)
    omega
  rw [e6]
  omega

/-- A value taken by a register has 32 bits. -/
theorem writtenValue_lt (a old v : Nat) (h : v < 2 ^ 32) : writtenValue a old v < 2 ^ 32 := by
  unfold writtenValue
  cases regInfo a with
  | none => dsimp only; omega
  | some i =>
    dsimp only
    have hw : under v (i.rw + i.rwp) < 2 ^ 32 := Nat.lt_of_le_of_lt (under_le _ _) h
    generalize under v (i.rw + i.rwp) = w at hw
    split
    · apply put_bound _ _ _ _ hw _ (by decide); split <;> (try simp only [Nat.min_def, Nat.max_def]) <;> (repeat' split) <;> omega
    split
    · apply put_bound _ _ _ _ hw _ (by decide); simp only [Nat.min_def, Nat.max_def]; (repeat' split) <;> omega
    split
    · apply put_bound _ 12 9 _ _ _ (by decide)
      · apply put_bound _ _ _ _ hw _ (by decide); simp only [Nat.min_def, Nat.max_def]; (repeat' split) <;> omega
      · simp only [Nat.min_def, Nat.max_def]; (repeat' split) <;> omega
    split
    · apply put_bound _ 16 14 _ _ _ (by decide)
      · apply put_bound _ _ _ _ hw _ (by decide); simp only [Nat.min_def]; (repeat' split) <;> omega
      · simp only [Nat.min_def, Nat.max_def]; (repeat' split) <;> omega
    split
    · split
      · apply put_bound _ _ _ _ hw _ (by decide); unfold bits; omega
      · exact hw
    split
    · apply put_bound _ _ _ _ hw _ (by decide); simp only [Nat.min_def, Nat.max_def]; (repeat' split) <;> omega
    · exact hw

theorem stored_of_rg (t u : State) (b : Nat) (h : t.rg = u.rg) : t.stored b = u.stored b := by unfold State.stored; rw [h]

/-- A write of a configuration register stores its value and leaves every other register and block that is named. -/
theorem put_frame (s : State) (p : Path) (a : Nat) (v : Nat) (hv : v < 2 ^ 32) (h : inConfigSet a = true) :
    let t := s.putRegister p a v
    t.stored a = writtenValue a (s.stored a) v ∧ (∀ b, b ≠ a → t.stored b = s.stored b) ∧ t.rg.sealed = s.rg.sealed ∧
    t.sv = s.sv ∧ t.bt = s.bt ∧ t.ev = s.ev ∧ t.fb = s.fb ∧ t.tm = s.tm ∧ t.wt = s.wt ∧ t.tl = s.tl ∧ t.kv = s.kv ∧ t.pw = s.pw ∧ t.th = s.th := by
  have hw := writtenValue_lt a (s.stored a) v hv
  have key : ∀ t : State, t.rg = (s.store a (writtenValue a (s.stored a) v)).rg → t.stored a = writtenValue a (s.stored a) v ∧ (∀ b, b ≠ a → t.stored b = s.stored b) ∧ t.rg.sealed = s.rg.sealed := by
    intro t ht
    have e : ∀ b, t.stored b = (s.store a (writtenValue a (s.stored a) v)).stored b := fun b => stored_of_rg _ _ b ht
    refine ⟨by rw [e, stored_store_eq _ _ _ hw], fun b hb => by rw [e, stored_store_ne _ _ _ _ hb], by rw [ht]; rfl⟩
  unfold inConfigSet at h
  unfold State.putRegister
  cases hr : regInfo a with
  | none => simp [hr] at h
  | some i =>
    rw [hr] at h
    simp only [Bool.and_eq_true, Bool.not_eq_true', Bool.or_eq_false_iff, Bool.and_eq_false_iff, decide_eq_false_iff_not] at h
    dsimp only
    rw [if_neg (by simp), if_neg (by omega), if_neg (by omega), if_neg (by omega)]
    split
    · split
      · obtain ⟨h1, h2, h3⟩ := key (s.store a (writtenValue a (s.stored a) v)) rfl
        exact ⟨h1, h2, h3, rfl, rfl, rfl, rfl, rfl, rfl, rfl, rfl, rfl, rfl⟩
      · obtain ⟨h1, h2, h3⟩ := key (s.store a (writtenValue a (s.stored a) v)).restartStale rfl
        exact ⟨h1, h2, h3, rfl, rfl, rfl, rfl, rfl, rfl, rfl, rfl, rfl, rfl⟩
    split
    · rename_i hh
      have ea : adcBase ((a - 0x10000) / 0x1000) = a := by unfold adcBase; omega
      unfold State.writeAdcCtl
      rw [ea]
      dsimp only
      obtain ⟨h1, h2, h3⟩ := key ((State.adcActions (State.modAdc (s.store a (writtenValue a (s.stored a) v)) ((a - 0x10000) / 0x1000) fun d => if ((bit (writtenValue a (s.stored a) v) 0 && !bit (s.stored a) 0) || bits (writtenValue a (s.stored a) v) 1 2 != bits (s.stored a) 1 2) && !d.trace then { d with settled := false, since := s.tm.tick } else d) ((a - 0x10000) / 0x1000) ((if bit v 8 then [.start] else []) ++ (if bit v 9 then [.stop] else [])))) rfl
      exact ⟨h1, h2, h3, rfl, rfl, rfl, rfl, rfl, rfl, rfl, rfl, rfl, rfl⟩
    split
    · obtain ⟨h1, h2, h3⟩ := key (State.adcActions (s.store a (writtenValue a (s.stored a) v)) ((a - 0x10000) / 0x1000) (if bit v 17 then [.go] else [])) rfl
      exact ⟨h1, h2, h3, rfl, rfl, rfl, rfl, rfl, rfl, rfl, rfl, rfl, rfl⟩
    split
    · split
      · obtain ⟨h1, h2, h3⟩ := key ({ (s.store a (writtenValue a (s.stored a) v)) with cl := { (s.store a (writtenValue a (s.stored a) v)).cl with pendingTrace := true } }) rfl
        exact ⟨h1, h2, h3, rfl, rfl, rfl, rfl, rfl, rfl, rfl, rfl, rfl, rfl⟩
      · obtain ⟨h1, h2, h3⟩ := key (s.store a (writtenValue a (s.stored a) v)) rfl
        exact ⟨h1, h2, h3, rfl, rfl, rfl, rfl, rfl, rfl, rfl, rfl, rfl, rfl⟩
    rw [if_neg (by omega)]
    obtain ⟨h1, h2, h3⟩ := key (s.store a (writtenValue a (s.stored a) v)) rfl
    exact ⟨h1, h2, h3, rfl, rfl, rfl, rfl, rfl, rfl, rfl, rfl, rfl, rfl⟩

end Sys2Proof.Machine
end

