-- ==== Sys2Proof/Laws/Starting.lean ====
section
/-! SUPPORT. What a stop, the start of firmware, the boot chain and a drain leave. -/

set_option Elab.async false
set_option linter.unusedTactic false
set_option linter.unreachableTactic false
set_option linter.unusedVariables false

namespace Sys2Proof.Machine

/-- The newest entry of a log of limited length. -/
theorem rotate_last {α : Type} (n : Nat) (l : List α) (x : α) (h : 0 < n) : (rotate n (l ++ [x])).getLast? = some x := by
  unfold rotate
  rw [List.getLast?_drop]
  simp
  omega

/-- A stop writes one stop log entry (15 R509). -/
theorem failStop_last (s : State) (c : StopCause) (k : Nat) (r : Int) (v : Nat) :
    (s.failStop c k r v).bt.stopLog.getLast? = some ⟨s.time, c.code, k, r, v⟩ := by
  unfold State.failStop
  dsimp only
  rw [rotate_last _ _ _ (by decide)]

/-- Records raised one after the other leave every block but the events. -/
theorem foldl_raise (l : List StopEntry) (f : StopEntry → Nat × Nat × List Nat) (s : State) :
    let t := l.foldl (fun st e => st.raise (f e).1 (f e).2.1 (f e).2.2) s
    t.bt = s.bt ∧ t.pw = s.pw ∧ t.sv = s.sv ∧ t.tm = s.tm ∧ t.cl = s.cl := by
  induction l generalizing s with
  | nil => exact ⟨rfl, rfl, rfl, rfl, rfl⟩
  | cons e l ih => exact ih _

/-- The stops reported leave power, serving, clocks and calibration. -/
theorem raiseStops_frame (s : State) : (s.raiseStops).bt = { s.bt with stopsUnreported := 0 } ∧ s.raiseStops.pw = s.pw ∧
    s.raiseStops.sv = s.sv ∧ s.raiseStops.tm = s.tm ∧ s.raiseStops.cl = s.cl := by
  have h := foldl_raise (s.bt.stopLog.drop (s.bt.stopLog.length - s.bt.stopsUnreported))
    (fun e => (0x0103, 6, [e.cause, e.sensor, ofSigned 32 e.reading, e.vinMv, e.time % 2 ^ 32, e.time / 2 ^ 32])) s
  obtain ⟨h1, h2, h3, h4, h5⟩ := h
  unfold State.raiseStops
  dsimp only
  refine ⟨?_, h2, h3, h4, h5⟩
  rw [h1]

/-- The flag of the drain log leaves power, serving, clocks and calibration. -/
theorem raiseFlag_frame (s : State) : s.raiseFlag.pw = s.pw ∧ s.raiseFlag.sv = s.sv ∧ s.raiseFlag.tm = s.tm ∧ s.raiseFlag.cl = s.cl ∧
    s.raiseFlag.bt = { s.bt with flagDue := s.bt.flagDue || s.bt.drainLog.getLast?.isSome } := by
  unfold State.raiseFlag
  split
  · rename_i e h
    refine ⟨rfl, rfl, rfl, rfl, ?_⟩
    simp [h]
  · rename_i h
    simp [h]

/-- Requests of set-points change the set-points and the events only (12 R409). -/
theorem foldl_request (l : List (Limited × Nat)) (s : State) :
    let t := l.foldl (fun st e => st.request e.1 e.2) s
    t.bt = s.bt ∧ t.pw = { s.pw with setPoints := t.pw.setPoints } ∧ t.sv = s.sv ∧ t.tm = s.tm ∧ t.cl = s.cl := by
  induction l generalizing s with
  | nil => exact ⟨rfl, rfl, rfl, rfl, rfl⟩
  | cons e l ih =>
    have h1 : ∀ (q : Limited) (v : Nat), (s.request q v).bt = s.bt ∧ (s.request q v).pw = { s.pw with setPoints := (s.request q v).pw.setPoints } ∧
        (s.request q v).sv = s.sv ∧ (s.request q v).tm = s.tm ∧ (s.request q v).cl = s.cl := by
      intro q v
      unfold State.request
      dsimp only
      split <;> exact ⟨rfl, rfl, rfl, rfl, rfl⟩
    obtain ⟨a1, a2, a3, a4, a5⟩ := ih (s.request e.1 e.2)
    obtain ⟨b1, b2, b3, b4, b5⟩ := h1 e.1 e.2
    exact ⟨a1.trans b1, a2.trans (by rw [b2]; rfl), a3.trans b3, a4.trans b4, a5.trans b5⟩

/-- The set-points of a start leave serving, clocks, calibration and the boot block. -/
theorem setPoints_frame (s : State) : s.setPoints.bt = s.bt ∧ s.setPoints.pw = { s.pw with setPoints := s.setPoints.pw.setPoints } ∧
    s.setPoints.sv = s.sv ∧ s.setPoints.tm = s.tm ∧ s.setPoints.cl = s.cl := by
  unfold State.setPoints
  split
  · exact foldl_request _ s
  · exact ⟨rfl, rfl, rfl, rfl, rfl⟩

/-- What firmware's start leaves. -/
theorem firmwareStart_frame (s : State) (hs : s.storeBad = none) :
    (∃ l, s.firmwareStart.pw = { s.pw with setPoints := l }) ∧ s.firmwareStart.sv = s.sv ∧ s.firmwareStart.tm = s.tm ∧
    s.firmwareStart.cl = { s.cl with pendingTrace := true, restored := true } ∧
    s.firmwareStart.bt = { s.bt with
      run := .running, hbmReady := true, watchdogs := [s.tm.tick, s.tm.tick, s.tm.tick, s.tm.tick], stopsUnreported := 0,
      flagDue := s.bt.flagDue || s.bt.drainLog.getLast?.isSome } := by
  unfold State.firmwareStart
  dsimp only
  generalize h : State.mk _ _ _ _ _ _ _ _ _ _ _ _ _ _ _ _ _ _ _ = s1
  obtain ⟨c1, c2, c3, c4, c5⟩ := setPoints_frame s1
  obtain ⟨a1, a2, a3, a4, a5⟩ := raiseStops_frame s1.setPoints
  obtain ⟨b1, b2, b3, b4, b5⟩ := raiseFlag_frame s1.setPoints.raiseStops
  simp only [State.commitSeal_pw, State.commitSeal_sv, State.commitSeal_tm, State.commitSeal_cl, State.commitSeal_bt]
  have hb : s1.setPoints.raiseStops.raiseFlag.storeBad = none := by
    unfold State.storeBad at hs ⊢
    rw [b4, a5, c5]; subst h; exact hs
  simp only [State.restoreFranking, hb]
  rw [b1, b2, b3, b4, b5, a1, a2, a3, a4, a5, c1, c3, c4, c5]
  refine ⟨⟨s1.setPoints.pw.setPoints, c2.trans ?_⟩, ?_⟩ <;> subst h
  · rfl
  · exact ⟨rfl, rfl, rfl, rfl⟩

/-- The boot chain where a bootable record and image are in flash (12 R412-R420). -/
theorem bootChain_runs (s : State) (r : ConfigRecord) (i : Image) (h : s.bootsTo r i) :
    (∃ l, s.bootChain.pw = { s.pw with duty := r.slotDuty, setPoints := l }) ∧ s.bootChain.sv = s.sv ∧ s.bootChain.tm = s.tm ∧
    s.bootChain.bt.run = .running ∧ s.bootChain.bt.record = some r ∧ s.bootChain.bt.image = some i ∧
    s.bootChain.bt.compat = s.bt.compat ∧ s.bootChain.bt.addr0 = s.bt.addr0 ∧ s.bootChain.bt.addr1 = s.bt.addr1 ∧
    s.bootChain.bt.sysclk = s.bt.sysclk := by
  obtain ⟨h1, h2, h3, h5, h6⟩ := h
  unfold State.bootChain
  simp only [h1, h2, h3, h5, Bool.not_true, Bool.false_eq_true, if_false]
  generalize hs : State.startPorts _ = s1
  obtain ⟨⟨l, a1⟩, a2, a3, a4, a5⟩ := firmwareStart_frame s1 (by unfold State.storeBad at h6 ⊢; subst hs; exact h6)
  rw [a1, a2, a3, a5]
  subst hs
  exact ⟨⟨l, rfl⟩, rfl, rfl, rfl, rfl, rfl, rfl, rfl, rfl, rfl⟩

theorem beginReset_boots {s : State} {r i b} (h : s.bootsTo r i) : (s.beginReset b).bootsTo r i := h

/-- The entry to P1 Hold: made, or waiting for the fires in flight (02 R52). -/
theorem enterP1_holds (s : State) (h : HoldReason) : (s.enterP1 h).holdsP1 h := by
  unfold State.enterP1 State.holdsP1
  split
  · rename_i c
    exact ⟨rfl, .inr ⟨c.2, _, rfl, rfl⟩⟩
  · exact ⟨rfl, .inl rfl⟩

/-- A drain: the cause, one drain log entry, P1 Hold (14 R475-R477). -/
theorem drain_spec (s : State) (cause code source loc : Nat) (h : s.isDrained = false) :
    ∃ e, (s.drain cause code source loc).bt = { s.bt with drained := some cause, drainLog := rotate 1024 (s.bt.drainLog ++ [e]) } ∧
      e.cause = cause ∧ e.code = code ∧ e.source = source ∧ e.loc = loc ∧ e.time = s.time ∧
      (s.drain cause code source loc).holdsP1 .drained := by
  unfold State.drain
  rw [if_neg (by simp [h])]
  dsimp only
  generalize he : (DrainEntry.mk s.time cause source code loc _) = e0
  refine ⟨e0, ?_, by rw [← he], by rw [← he], by rw [← he], by rw [← he], by rw [← he], enterP1_holds _ _⟩
  -- all that follows the entry in the drain log leaves the boot block: bit 3 of the masks
  have hK : Needs 524279 524279 := Needs.refl _
  generalize hs : ({ s with bt := { s.bt with drained := some cause, drainLog := rotate 1024 (s.bt.drainLog ++ [e0]) } } : State) = s1
  refine Eq.trans (show _ = s1.bt from ?_) (by rw [← hs])
  refine (show ∀ t, Only 524279 s1 t → t.bt = s1.bt from fun t h => h .boot (by decide)) _ (State.enterP1_only ?_)
  with_reducible repeat' first
    | exact Only.refl _ | apply State.async_only | apply State.reportAbort_only | apply State.raise_only | apply State.deliverAll_only
    | apply State.voidStep_only | apply State.endJobs_only | apply State.notifyJob_only | apply State.notifyPorts_only
    | refine Only.foldl ?_ fun _ _ _ => ?_ | apply Only.cond | assumption | exact Needs.sub hK (by decide)

end Sys2Proof.Machine
end

