-- ==== Sys2Proof/Laws/Wear.lean ====
section
/-! SUPPORT. No operation lowers a wear counter (06 R184). An operation that leaves the weights as they are (Laws/Frames*.lean) lowers none;
here is one lemma for each of the others, and for each meaning that reaches one. -/

set_option Elab.async false
set_option linter.unusedTactic false
set_option linter.unreachableTactic false
set_option linter.unusedVariables false

namespace Sys2Proof.Machine

/-- No array's wear counter is lower in `t` than in `s`. -/
def Worn (s t : State) : Prop := ∀ a, (s.dir a).wear ≤ (t.dir a).wear

/-- No next state of an outcome has a lower wear counter than `s`. -/
def KeptW (s : State) (o : Host.Outcome State Fault Refusal) : Prop := ∀ t, o = .next t → Worn s t

theorem Worn.refl (s : State) : Worn s s := fun _ => Nat.le_refl _

theorem Worn.trans {s t u : State} (h : Worn s t) (g : Worn t u) : Worn s u := fun a => Nat.le_trans (h a) (g a)

theorem Worn.ifs {s a b : State} {c : Prop} {d : Decidable c} (ha : c → Worn s a) (hb : ¬ c → Worn s b) :
    Worn s (@ite State c d a b) := by
  by_cases h : c
  · rw [if_pos h]; exact ha h
  · rw [if_neg h]; exact hb h

theorem Worn.cond {s a b : State} {c : Prop} {d : Decidable c} (ha : Worn s a) (hb : Worn s b) : Worn s (@ite State c d a b) :=
  Worn.ifs (fun _ => ha) fun _ => hb

theorem KeptW.next {s t : State} (h : Worn s t) : KeptW s (.next t) := fun _ e => by cases e; exact h

theorem KeptW.fault {s : State} (f : Fault) : KeptW s (.fault f) := fun _ e => by cases e

theorem KeptW.ifs {s : State} {a b : Host.Outcome State Fault Refusal} {c : Prop} {d : Decidable c} (ha : c → KeptW s a)
    (hb : ¬ c → KeptW s b) : KeptW s (@ite _ c d a b) := by
  by_cases h : c
  · rw [if_pos h]; exact ha h
  · rw [if_neg h]; exact hb h

theorem KeptW.cond {s : State} {a b : Host.Outcome State Fault Refusal} {c : Prop} {d : Decidable c} (ha : KeptW s a)
    (hb : KeptW s b) : KeptW s (@ite _ c d a b) :=
  KeptW.ifs (fun _ => ha) fun _ => hb

theorem Worn.foldl {α : Type} {s t : State} {f : State → α → State} {l : List α} (h : Worn s t)
    (hf : ∀ x a, Worn s x → Worn s (f x a)) : Worn s (l.foldl f t) := by
  induction l generalizing t with
  | nil => exact h
  | cons a l ih => exact ih (hf t a h)

theorem foldl_fst_worn {α β : Type} {s : State} {a : State × β} {f : State × β → α → State × β} {l : List α} (h : Worn s a.1)
    (hf : ∀ x i, Worn s x.1 → Worn s (f x i).1) : Worn s (l.foldl f a).1 := by
  induction l generalizing a with
  | nil => exact h
  | cons i l ih => exact ih (hf a i h)

theorem foldl_option_worn {α : Type} {s0 : State} {s : Option State} {f : Option State → α → Option State} {l : List α}
    (h : ∀ t, s = some t → Worn s0 t) (hf : ∀ x i, (∀ t, x = some t → Worn s0 t) → ∀ t, f x i = some t → Worn s0 t) :
    ∀ t, l.foldl f s = some t → Worn s0 t := by
  induction l generalizing s with
  | nil => exact h
  | cons i l ih => exact ih (hf s i h)

/-- What leaves the directory and the counter of the arrays not listed as they are lowers no counter. -/
theorem Worn.of_same {s0 s t : State} (h : Worn s0 s) (h1 : t.wt.directory = s.wt.directory) (h2 : t.wt.wearBase = s.wt.wearBase) :
    Worn s0 t := fun a => by
  have e : (t.dir a).wear = (s.dir a).wear := by
    unfold State.dir lookupD
    rw [h1]
    cases s.wt.directory.find? fun e => e.1 == a with
    | none => exact h2
    | some _ => rfl
  rw [e]; exact h a

/-- What leaves the weights as they are lowers no counter. -/
theorem Worn.pass {K : Nat} {s0 s t : State} (h : Worn s0 s) (g : Only K s t) (hK : K.testBit 13 = false) : Worn s0 t :=
  h.of_same (congrArg Weights.directory (g .weights hK)) (congrArg Weights.wearBase (g .weights hK))

theorem Worn.mk' {s0 s : State} {tm : Clocks} {pw : Power} {th : Thermal} {bt : Boot} {ev : Events} {rg : Regs} {adcs : List Adc}
    {tp : Tap} {i3 : I3c} {dp : Dispatch} {sv : Serving} {kv : Kv} {wt : Weights} {tl : Tiles} {rd : Reductions} {cl : Calib}
    {fb : Fabric} {draw : Nat} (h : Worn s0 s) (h1 : wt.directory = s.wt.directory) (h2 : wt.wearBase = s.wt.wearBase) :
    Worn s0 ⟨tm, pw, th, bt, ev, rg, adcs, tp, i3, dp, sv, kv, wt, tl, rd, cl, fb, draw, s.pending⟩ :=
  h.of_same h1 h2

theorem lookupD_map {α : Type} (l : List (ArrId × α)) (a : ArrId) (d : α) (f : ArrId × α → ArrId × α) (hf : ∀ e, (f e).1 = e.1) :
    lookupD (l.map f) a d = if (l.find? fun e => e.1 == a).isSome then (f ((l.find? fun e => e.1 == a).getD (a, d))).2 else d := by
  unfold lookupD
  rw [List.find?_map]
  have e : ((fun e : ArrId × α => e.1 == a) ∘ f) = fun e => e.1 == a := funext fun x => by simp [Function.comp, hf]
  rw [e]
  cases l.find? fun e => e.1 == a <;> rfl

/-- A map of the directory that lowers no counter. -/
theorem Worn.map {s0 s t : State} (h : Worn s0 s) (f : ArrId × DirEntry → ArrId × DirEntry) (hf : ∀ e, (f e).1 = e.1)
    (hw : ∀ e, e.2.wear ≤ (f e).2.wear) (h1 : t.wt.directory = s.wt.directory.map f) (h2 : s.wt.wearBase ≤ t.wt.wearBase) : Worn s0 t := fun a => by
  refine Nat.le_trans (h a) ?_
  unfold State.dir
  rw [h1, lookupD_map _ _ _ f hf]
  unfold lookupD
  cases s.wt.directory.find? fun e => e.1 == a with
  | none => exact h2
  | some e => exact hw e

theorem State.advanceTo_worn {s0 s : State} {t : Nat} (hk : Worn s0 s) : Worn s0 (State.advanceTo s t) :=
  Worn.pass hk (State.advanceTo_only (K := 1) (Only.refl _) (Needs.refl _)) rfl

theorem State.counterTo_worn {s0 s : State} {t : Nat} (hk : Worn s0 s) : Worn s0 (State.counterTo s t) :=
  Worn.pass hk (State.counterTo_only (K := 1) (Only.refl _) (Needs.refl _)) rfl

theorem State.nextDraw_worn {s0 s : State} (hk : Worn s0 s) : Worn s0 (State.nextDraw s).2 :=
  Worn.pass hk (State.nextDraw_only (K := 262144) (Only.refl _) (Needs.refl _)) rfl

theorem State.modTile_worn {s0 s : State} {t : TileId} {f : Tile → Tile} (hk : Worn s0 s) : Worn s0 (State.modTile s t f) :=
  Worn.pass hk (State.modTile_only (K := 16384) (Only.refl _) (Needs.refl _)) rfl

theorem State.modRegion_worn {s0 s : State} {die : Nat} {unit : Nat} {f : Region → Region} (hk : Worn s0 s) : Worn s0 (State.modRegion s
    die unit f) :=
  Worn.pass hk (State.modRegion_only (K := 16384) (Only.refl _) (Needs.refl _)) rfl

theorem State.modDir_worn {s0 s : State} {a : ArrId} {f : DirEntry → DirEntry} (hk : Worn s0 s) (hf : ∀ d, d.wear ≤ (f d).wear) :
    Worn s0 (s.modDir a f) := fun b => by
  refine Nat.le_trans (hk b) ?_
  by_cases hb : b = a
  · subst hb
    have e : (s.modDir b f).dir b = f (s.dir b) := by unfold State.modDir State.setDir State.dir; exact lookupD_set _ _ _ _
    rw [e]; exact hf _
  · have e : (s.modDir a f).dir b = s.dir b := by unfold State.modDir State.setDir State.dir; exact lookupD_set_ne _ _ _ _ _ hb
    rw [e]

theorem State.setDrift_worn {s0 s : State} {a : ArrId} {d : Drift} (hk : Worn s0 s) : Worn s0 (State.setDrift s a d) := by
  unfold State.setDrift
  with_reducible repeat' first
    | assumption | fail_if_no_progress refine Worn.mk' ?_ rfl rfl

theorem State.setFranking_worn {s0 s : State} {a : ArrId} {f : Franking} (hk : Worn s0 s) : Worn s0 (State.setFranking s a f) := by
  unfold State.setFranking
  with_reducible repeat' first
    | assumption | fail_if_no_progress refine Worn.mk' ?_ rfl rfl

theorem State.modFranking_worn {s0 s : State} {a : ArrId} {f : Franking → Franking} (hk : Worn s0 s) : Worn s0 (State.modFranking s
    a f) := by
  unfold State.modFranking
  with_reducible repeat' first
    | assumption | apply State.setFranking_worn

theorem State.modQueue_worn {s0 s : State} {n : Nat} {f : Queue → Queue} (hk : Worn s0 s) : Worn s0 (State.modQueue s n f) :=
  Worn.pass hk (State.modQueue_only (K := 1024) (Only.refl _) (Needs.refl _)) rfl

theorem State.modStep_worn {s0 s : State} {tag : Nat} {f : OpenStep → OpenStep} (hk : Worn s0 s) : Worn s0 (State.modStep s tag f) :=
  Worn.pass hk (State.modStep_only (K := 1024) (Only.refl _) (Needs.refl _)) rfl

theorem State.modDsp_worn {s0 s : State} {p : Nat} {f : DspPort → DspPort} (hk : Worn s0 s) : Worn s0 (State.modDsp s p f) :=
  Worn.pass hk (State.modDsp_only (K := 512) (Only.refl _) (Needs.refl _)) rfl

theorem State.store_worn {s0 s : State} {a : Nat} {v : Nat} (hk : Worn s0 s) : Worn s0 (State.store s a v) :=
  Worn.pass hk (State.store_only (K := 32) (Only.refl _) (Needs.refl _)) rfl

theorem State.writeMem_worn {s0 s : State} {a : Nat} {b : Bytes} (hk : Worn s0 s) : Worn s0 (State.writeMem s a b) :=
  Worn.pass hk (State.writeMem_only (K := 3072) (Only.refl _) (Needs.refl _)) rfl

theorem State.raise_worn {s0 s : State} {code : Nat} {source : Nat} {detail : List Nat} (hk : Worn s0 s) : Worn s0 (State.raise s code
    source detail) :=
  Worn.pass hk (State.raise_only (K := 16) (Only.refl _) (Needs.refl _)) rfl

theorem State.sendFrame_worn {s0 s : State} {f : TxFrame} (hk : Worn s0 s) : Worn s0 (State.sendFrame s f) :=
  Worn.pass hk (State.sendFrame_only (K := 512) (Only.refl _) (Needs.refl _)) rfl

theorem State.respondWith_worn {s0 s : State} {h : FrameHdr} {chan : Nat} {status : Nat} {tail : Bytes} (hk : Worn s0 s) : Worn s0
    (State.respondWith s h chan status tail) :=
  Worn.pass hk (State.respondWith_only (K := 512) (Only.refl _) (Needs.refl _)) rfl

theorem State.respond_worn {s0 s : State} {h : FrameHdr} {chan : Nat} {status : Nat} (hk : Worn s0 s) : Worn s0 (State.respond s h chan
    status) :=
  Worn.pass hk (State.respond_only (K := 512) (Only.refl _) (Needs.refl _)) rfl

theorem State.answerData_worn {s0 s : State} {h : FrameHdr} {chan : Nat} {data : Bytes} (hk : Worn s0 s) : Worn s0 (State.answerData s h
    chan data) :=
  Worn.pass hk (State.answerData_only (K := 512) (Only.refl _) (Needs.refl _)) rfl

theorem State.async_worn {s0 s : State} {code : Nat} {detail : Bytes} (hk : Worn s0 s) : Worn s0 (State.async s code detail) :=
  Worn.pass hk (State.async_only (K := 3600) (Only.refl _) (Needs.refl _)) rfl

theorem State.countDrop_worn {s0 s : State} {f : Regs → Regs} (hk : Worn s0 s) : Worn s0 (State.countDrop s f) :=
  Worn.pass hk (State.countDrop_only (K := 32) (Only.refl _) (Needs.refl _)) rfl

theorem State.originate_worn {s0 s : State} {type : Nat} {dest : Nat} {job : Nat} {payload : Bytes} (hk : Worn s0 s) : Worn s0
    (State.originate s type dest job payload) :=
  Worn.pass hk (State.originate_only (K := 131104) (Only.refl _) (Needs.refl _)) rfl

theorem State.reportAbort_worn {s0 s : State} {job : Nat} {reason : Nat} {module : Nat} (hk : Worn s0 s) : Worn s0 (State.reportAbort s
    job reason module) :=
  Worn.pass hk (State.reportAbort_only (K := 3600) (Only.refl _) (Needs.refl _)) rfl

theorem State.notifyJob_worn {s0 s : State} {job : Nat} {kind : Nat} {reason : Nat} {module : Nat} (hk : Worn s0 s) : Worn s0
    (State.notifyJob s job kind reason module) :=
  Worn.pass hk (State.notifyJob_only (K := 131104) (Only.refl _) (Needs.refl _)) rfl

theorem State.modNode_worn {s0 s : State} {i : Nat} {f : Node → Node} (hk : Worn s0 s) : Worn s0 (State.modNode s i f) :=
  Worn.pass hk (State.modNode_only (K := 4096) (Only.refl _) (Needs.refl _)) rfl

theorem State.releaseTrees_worn {s0 s : State} {f : Nat} (hk : Worn s0 s) : Worn s0 (State.releaseTrees f s) :=
  Worn.pass hk (State.releaseTrees_only (K := 4096) (Only.refl _) (Needs.refl _)) rfl

theorem State.refNode_worn {s0 s : State} {i : Option Nat} {up : Bool} (hk : Worn s0 s) : Worn s0 (State.refNode s i up) :=
  Worn.pass hk (State.refNode_only (K := 4096) (Only.refl _) (Needs.refl _)) rfl

theorem State.retireTrees_worn {s0 s : State} {model : Nat} (hk : Worn s0 s) : Worn s0 (State.retireTrees s model) :=
  Worn.pass hk (State.retireTrees_only (K := 4096) (Only.refl _) (Needs.refl _)) rfl

theorem State.releaseEarly_worn {s0 s : State} {slot : Nat} (hk : Worn s0 s) : Worn s0 (State.releaseEarly s slot) :=
  Worn.pass hk (State.releaseEarly_only (K := 7696) (Only.refl _) (Needs.refl _)) rfl

theorem State.moveOnePage_worn {s0 s : State} {slot : Nat} (hk : Worn s0 s) : Worn s0 (State.moveOnePage s slot) :=
  Worn.pass hk (State.moveOnePage_only (K := 7696) (Only.refl _) (Needs.refl _)) rfl

theorem State.restoreOnePage_worn {s0 s : State} {slot : Nat} (hk : Worn s0 s) : Worn s0 (State.restoreOnePage s slot) :=
  Worn.pass hk (State.restoreOnePage_only (K := 4096) (Only.refl _) (Needs.refl _)) rfl

theorem State.expireHeld_worn {s0 s : State} {slot : Nat} (hk : Worn s0 s) : Worn s0 (State.expireHeld s slot) :=
  Worn.pass hk (State.expireHeld_only (K := 7696) (Only.refl _) (Needs.refl _)) rfl

theorem State.tierIdle_worn {s0 s : State} {x : Slot} {ttl : Nat} (hk : Worn s0 s) : Worn s0 (State.tierIdle s x ttl) :=
  Worn.pass hk (State.tierIdle_only (K := 7696) (Only.refl _) (Needs.refl _)) rfl

theorem State.makeRoom_worn {s0 s : State} {ok : State → Bool} (hk : Worn s0 s) : Worn s0 (State.makeRoom s ok).1 :=
  Worn.pass hk (State.makeRoom_only (K := 7696) (Only.refl _) (Needs.refl _)) rfl

theorem State.requestCal_worn {s0 s : State} {a : ArrId} {cls : Nat} (hk : Worn s0 s) : Worn s0 (State.requestCal s a cls) :=
  Worn.pass hk (State.requestCal_only (K := 16384) (Only.refl _) (Needs.refl _)) rfl

theorem State.dropRun_worn {s0 s : State} {tid : TileId} {requeue : Bool} {first : Bool} (hk : Worn s0 s) : Worn s0 (State.dropRun s tid
    requeue first) := by
  unfold State.dropRun
  with_reducible repeat' first
    | assumption | apply State.modFranking_worn | apply State.modTile_worn | exact Nat.le_refl _ | exact Nat.le_succ _ | apply Worn.cond
    | split | (dsimp only; split) | fail_if_no_progress refine Worn.mk' ?_ rfl rfl

theorem State.discardRun_worn {s0 s : State} {tid : TileId} {requeue : Bool} (hk : Worn s0 s) : Worn s0 (State.discardRun s tid requeue)
    := by
  unfold State.discardRun
  with_reducible repeat' first
    | assumption | apply State.dropRun_worn | apply State.modTile_worn | exact Nat.le_refl _ | exact Nat.le_succ _ | apply Worn.cond
    | split | (dsimp only; split) | fail_if_no_progress refine Worn.mk' ?_ rfl rfl

theorem State.idleSpare_worn {s0 s : State} {tid : TileId} (hk : Worn s0 s) : Worn s0 (State.idleSpare s tid) := by
  unfold State.idleSpare
  with_reducible repeat' first
    | assumption | refine State.modDir_worn ?_ (fun _ => ?_) | apply State.modTile_worn | exact Nat.le_refl _ | exact Nat.le_succ _
    | apply Worn.cond | split | (dsimp only; split) | fail_if_no_progress refine Worn.mk' ?_ rfl rfl

theorem State.endClaim_worn {s0 s : State} {tid : TileId} (hk : Worn s0 s) : Worn s0 (State.endClaim s tid) :=
  Worn.pass hk (State.endClaim_only (K := 16384) (Only.refl _) (Needs.refl _)) rfl

theorem State.releaseSpare_worn {s0 s : State} {tid : TileId} {gone : Nat → Bool} (hk : Worn s0 s) : Worn s0 (State.releaseSpare s tid
    gone) := by
  unfold State.releaseSpare
  with_reducible repeat' first
    | assumption | apply State.endClaim_worn | apply State.idleSpare_worn | exact Nat.le_refl _ | exact Nat.le_succ _ | apply Worn.cond
    | split | (dsimp only; split) | fail_if_no_progress refine Worn.mk' ?_ rfl rfl

theorem State.releaseTile_worn {s0 s : State} {tid : TileId} {gone : Nat → Bool} (hk : Worn s0 s) : Worn s0 (State.releaseTile s tid gone)
    := by
  unfold State.releaseTile
  with_reducible repeat' first
    | assumption | apply State.dropRun_worn | apply State.modTile_worn | apply State.releaseSpare_worn | exact Nat.le_refl _
    | exact Nat.le_succ _ | apply Worn.cond | split | (dsimp only; split) | fail_if_no_progress refine Worn.mk' ?_ rfl rfl

theorem State.deliver_worn {s0 s : State} {qn : Nat} (hk : Worn s0 s) : Worn s0 (State.deliver s qn) :=
  Worn.pass hk (State.deliver_only (K := 3584) (Only.refl _) (Needs.refl _)) rfl

theorem State.releaseModel_worn {s0 s : State} {n : Nat} (hk : Worn s0 s) : Worn s0 (s.releaseModel n) := by
  unfold State.releaseModel
  refine State.releaseTrees_worn (State.retireTrees_worn (Worn.foldl ?_ fun _ _ h => State.releaseTile_worn h))
  refine Worn.map hk (fun (e : ArrId × DirEntry) =>
    if e.1.arr != 16 && (s.dir e.1).model == n && (s.dir e.1).astate != .free then (e.1, e.2.released) else e)
    (fun e => by (try dsimp only); split <;> rfl) (fun e => ?_) rfl (Nat.le_refl _)
  (try dsimp only)
  split
  · unfold DirEntry.released
    split <;> exact Nat.le_refl _
  · exact Nat.le_refl _

theorem State.dropContext_worn {s0 s : State} {n : Nat} (hk : Worn s0 s) : Worn s0 (State.dropContext s n) :=
  Worn.pass hk (State.dropContext_only (K := 5120) (Only.refl _) (Needs.refl _)) rfl

theorem State.sweepQueues_worn {s0 s : State} (hk : Worn s0 s) : Worn s0 (State.sweepQueues s) :=
  Worn.pass hk (State.sweepQueues_only (K := 1024) (Only.refl _) (Needs.refl _)) rfl

theorem State.sweep_worn {s0 s : State} (hk : Worn s0 s) : Worn s0 (State.sweep s) := by
  unfold State.sweep
  with_reducible repeat' first
    | assumption | apply State.sweepQueues_worn | apply State.dropContext_worn | apply State.releaseModel_worn | apply State.releaseTrees_worn
    | refine Worn.foldl ?_ fun _ _ _ => ?_ | fail_if_no_progress refine Worn.mk' ?_ rfl rfl

theorem State.dropWork_worn {s0 s : State} {tag : Nat} (hk : Worn s0 s) : Worn s0 (State.dropWork s tag) :=
  Worn.pass hk (State.dropWork_only (K := 54272) (Only.refl _) (Needs.refl _)) rfl

theorem State.dropLedger_worn {s0 s : State} {o : OpenStep} (hk : Worn s0 s) : Worn s0 (State.dropLedger s o) :=
  Worn.pass hk (State.dropLedger_only (K := 163840) (Only.refl _) (Needs.refl _)) rfl

theorem State.putEnded_worn {s0 s : State} {qn : Nat} {c : Completion} (hk : Worn s0 s) : Worn s0 (State.putEnded s qn c) :=
  Worn.pass hk (State.putEnded_only (K := 1024) (Only.refl _) (Needs.refl _)) rfl

theorem State.undoStep_worn {s0 s : State} {o : OpenStep} (hk : Worn s0 s) : Worn s0 (State.undoStep s o) :=
  Worn.pass hk (State.undoStep_only (K := 185344) (Only.refl _) (Needs.refl _)) rfl

theorem State.failStep_worn {s0 s : State} {tag : Nat} {status : Nat} (hk : Worn s0 s) : Worn s0 (State.failStep s tag status) := by
  unfold State.failStep
  with_reducible repeat' first
    | assumption | apply State.deliver_worn | apply State.putEnded_worn | apply State.sweep_worn | apply State.undoStep_worn
    | exact Nat.le_refl _ | exact Nat.le_succ _ | apply Worn.cond | split | (dsimp only; split)
    | fail_if_no_progress refine Worn.mk' ?_ rfl rfl

theorem State.abortJob_worn {s0 s : State} {job : Nat} {reason : Nat} {module : Nat} (hk : Worn s0 s) : Worn s0 (State.abortJob s job
    reason module) :=
  Worn.pass hk (State.abortJob_only (K := 187952) (Only.refl _) (Needs.refl _)) rfl

theorem State.sendForJob_worn {s0 s : State} {type : Nat} {dest : Nat} {job : Nat} {payload : Bytes} (hk : Worn s0 s) : Worn s0
    (State.sendForJob s type dest job payload) :=
  Worn.pass hk (State.sendForJob_only (K := 187952) (Only.refl _) (Needs.refl _)) rfl

theorem State.putUnbegun_worn {s0 s : State} {q : Queue} {w : Waiting} {status : Nat} {detail : Nat} (hk : Worn s0 s) : Worn s0
    (State.putUnbegun s q w status detail) :=
  Worn.pass hk (State.putUnbegun_only (K := 3584) (Only.refl _) (Needs.refl _)) rfl

theorem State.endUnbegun_worn {s0 s : State} {q : Queue} {w : Waiting} {status : Nat} {detail : Nat} (hk : Worn s0 s) : Worn s0
    (State.endUnbegun s q w status detail) := by
  unfold State.endUnbegun
  with_reducible repeat' first
    | assumption | apply State.sweep_worn | apply State.putUnbegun_worn

theorem State.modToken_worn {s0 s : State} {tag : Nat} {ti : Nat} {f : TokenWork → TokenWork} (hk : Worn s0 s) : Worn s0 (State.modToken s
    tag ti f) :=
  Worn.pass hk (State.modToken_only (K := 1024) (Only.refl _) (Needs.refl _)) rfl

theorem State.placeTargets_worn {s0 s : State} {model : Nat} {layer : Nat} {tensor : Nat} (hk : Worn s0 s) : Worn s0 (State.placeTargets s
    model layer tensor) :=
  Worn.pass hk (State.placeTargets_only (K := 1024) (Only.refl _) (Needs.refl _)) rfl

theorem State.engineRan_worn {s0 s : State} {w : EngineWork} (hk : Worn s0 s) : Worn s0 (State.engineRan s w) :=
  Worn.pass hk (State.engineRan_only (K := 1024) (Only.refl _) (Needs.refl _)) rfl

theorem State.setupLines_worn {s0 s : State} {tag : Nat} {ti : Nat} (hk : Worn s0 s) : Worn s0 (State.setupLines s tag ti) :=
  Worn.pass hk (State.setupLines_only (K := 32768) (Only.refl _) (Needs.refl _)) rfl

theorem State.renewLists_worn {s0 s : State} {a : ArrId} (hk : Worn s0 s) : Worn s0 (State.renewLists s a) :=
  Worn.pass hk (State.renewLists_only (K := 16384) (Only.refl _) (Needs.refl _)) rfl

theorem State.fetchSchedule_worn {s0 s : State} {tag : Nat} (hk : Worn s0 s) : Worn s0 (State.fetchSchedule s tag) :=
  Worn.pass hk (State.fetchSchedule_only (K := 16384) (Only.refl _) (Needs.refl _)) rfl

theorem State.issueTensor_worn {s0 s : State} {o : OpenStep} {ti : Nat} {layer : Nat} {t : TensorRec} {model : Nat} {x : List Nat} (hk :
    Worn s0 s) : Worn s0 (State.issueTensor s o ti layer t model x) :=
  Worn.pass hk (State.issueTensor_only (K := 50176) (Only.refl _) (Needs.refl _)) rfl

theorem State.takeValues_worn {s0 s : State} {tag : Nat} {d : LineDest} {v : List Nat} (hk : Worn s0 s) : Worn s0 (State.takeValues s tag
    d v) := by
  unfold State.takeValues
  with_reducible repeat' first
    | assumption | refine Worn.pass ?_ (State.appendBlock_only (K := 5120) (Only.refl _) (by assumption) (Needs.refl _)) rfl
    | apply State.failStep_worn | apply State.modToken_worn | exact Nat.le_refl _ | exact Nat.le_succ _ | apply Worn.cond
    | split | (dsimp only; split) | fail_if_no_progress refine Worn.mk' ?_ rfl rfl

theorem State.takeLedgerLine_worn {s0 s : State} {tag : Nat} {x : Line} (hk : Worn s0 s) : Worn s0 (State.takeLedgerLine s tag x) := by
  unfold State.takeLedgerLine
  with_reducible repeat' first
    | assumption | apply State.failStep_worn | apply State.takeValues_worn | exact Nat.le_refl _ | exact Nat.le_succ _ | apply Worn.cond
    | split | (dsimp only; split) | fail_if_no_progress refine Worn.mk' ?_ rfl rfl

theorem State.setLedger_worn {s0 s : State} {l : Ledger} (hk : Worn s0 s) : Worn s0 (State.setLedger s l) :=
  Worn.pass hk (State.setLedger_only (K := 32768) (Only.refl _) (Needs.refl _)) rfl

theorem State.takeLedger_worn {s0 s : State} {tag : Nat} {ti : Nat} (hk : Worn s0 s) : Worn s0 (State.takeLedger s tag ti) := by
  unfold State.takeLedger
  with_reducible repeat' first
    | assumption | apply State.setLedger_worn | apply State.takeLedgerLine_worn | exact Nat.le_refl _ | exact Nat.le_succ _
    | apply Worn.cond | refine Worn.foldl ?_ fun _ _ _ => ?_ | split | (dsimp only; split) | fail_if_no_progress refine Worn.mk' ?_ rfl rfl

theorem State.startStage_worn {s0 s : State} {tag : Nat} {ti : Nat} (hk : Worn s0 s) : Worn s0 (State.startStage s tag ti) := by
  unfold State.startStage
  with_reducible repeat' first
    | assumption | apply State.failStep_worn | apply State.issueTensor_worn | apply State.takeLedger_worn | exact Nat.le_refl _
    | exact Nat.le_succ _ | apply Worn.cond | refine Worn.foldl ?_ fun _ _ _ => ?_ | split | (dsimp only; split)
    | fail_if_no_progress refine Worn.mk' ?_ rfl rfl

theorem State.sendActivation_worn {s0 s : State} {o : OpenStep} {tok : TokenWork} {vec : List Nat} (hk : Worn s0 s) : Worn s0
    (State.sendActivation s o tok vec) := by
  unfold State.sendActivation
  with_reducible repeat' first
    | assumption | apply State.failStep_worn | apply State.sendForJob_worn | exact Nat.le_refl _ | exact Nat.le_succ _ | apply Worn.cond
    | refine Worn.foldl ?_ fun _ _ _ => ?_ | split | (dsimp only; split) | fail_if_no_progress refine Worn.mk' ?_ rfl rfl

theorem State.countCopies_worn {s0 s : State} {n : Nat} (hk : Worn s0 s) : Worn s0 (State.countCopies s n) := by
  unfold State.countCopies
  with_reducible repeat' first
    | assumption | exact Nat.le_refl _ | exact Nat.le_succ _ | apply Worn.cond | split | (dsimp only; split)
    | fail_if_no_progress refine Worn.mk' ?_ rfl rfl

theorem State.gather_worn {s0 s : State} {tag : Nat} (hk : Worn s0 s) : Worn s0 (State.gather s tag) :=
  Worn.pass hk (State.gather_only (K := 1024) (Only.refl _) (Needs.refl _)) rfl

theorem State.gatherRan_worn {s0 s : State} {m : Model} {tag : Nat} {ti : Nat} {token : Nat} (hk : Worn s0 s) : Worn s0 (State.gatherRan s
    m tag ti token) := by
  unfold State.gatherRan
  with_reducible repeat' first
    | assumption | apply State.countCopies_worn | apply State.engineRan_worn | apply State.gather_worn | exact Nat.le_refl _
    | exact Nat.le_succ _ | apply Worn.cond | refine Worn.foldl ?_ fun _ _ _ => ?_ | split | (dsimp only; split)
    | fail_if_no_progress refine Worn.mk' ?_ rfl rfl

theorem State.selectLast_worn {s0 s : State} {tag : Nat} (hk : Worn s0 s) : Worn s0 (State.selectLast s tag) :=
  Worn.pass hk (State.selectLast_only (K := 16384) (Only.refl _) (Needs.refl _)) rfl

theorem State.vectorRan_worn {s0 s : State} {o : OpenStep} {tag : Nat} {ti : Nat} {tok : TokenWork} (hk : Worn s0 s) : Worn s0
    (State.vectorRan s o tag ti tok) :=
  Worn.pass hk (State.vectorRan_only (K := 1024) (Only.refl _) (Needs.refl _)) rfl

theorem State.choiceRan_worn {s0 s : State} {tag : Nat} {ti : Nat} {l : LayerRec} {tok : TokenWork} (hk : Worn s0 s) : Worn s0
    (State.choiceRan s tag ti l tok) :=
  Worn.pass hk (State.choiceRan_only (K := 1024) (Only.refl _) (Needs.refl _)) rfl

theorem State.advance_worn {s0 s : State} {f tag ti : Nat} (hk : Worn s0 s) : Worn s0 (State.advance f tag ti s) := by
  induction f generalizing s ti with
  | zero => exact hk
  | succ f ih =>
    unfold State.advance
    repeat' first
      | with_reducible assumption | with_reducible apply ih | with_reducible apply State.startStage_worn
      | with_reducible apply State.modToken_worn | with_reducible apply State.failStep_worn
      | with_reducible apply State.setupLines_worn | with_reducible apply State.gatherRan_worn
      | with_reducible apply State.modStep_worn | with_reducible apply State.sendActivation_worn
      | with_reducible apply State.selectLast_worn | with_reducible apply State.vectorRan_worn | with_reducible apply State.choiceRan_worn
      | with_reducible refine Worn.foldl ?_ fun _ _ _ => ?_
      | with_reducible apply Worn.cond
      | (try dsimp only); split

theorem State.advanceToken_worn {s0 s : State} {tag : Nat} {ti : Nat} (hk : Worn s0 s) : Worn s0 (State.advanceToken s tag ti) := by
  unfold State.advanceToken
  with_reducible repeat' first
    | assumption | apply State.advance_worn

theorem State.addTokens_worn {s0 s : State} {tag : Nat} {new : List TokenWork} (hk : Worn s0 s) : Worn s0 (State.addTokens s tag new) := by
  unfold State.addTokens
  with_reducible repeat' first
    | assumption | apply State.advanceToken_worn | apply State.modStep_worn | apply State.setupLines_worn | exact Nat.le_refl _
    | exact Nat.le_succ _ | apply Worn.cond | refine Worn.foldl ?_ fun _ _ _ => ?_ | split | (dsimp only; split)
    | fail_if_no_progress refine Worn.mk' ?_ rfl rfl

theorem State.startEntry_worn {s0 s : State} {tag : Nat} {i : Nat} (hk : Worn s0 s) : Worn s0 (State.startEntry s tag i) := by
  unfold State.startEntry
  with_reducible repeat' first
    | assumption | apply State.addTokens_worn | exact Nat.le_refl _ | exact Nat.le_succ _ | apply Worn.cond | split | (dsimp only; split)
    | fail_if_no_progress refine Worn.mk' ?_ rfl rfl

theorem State.attend_worn {s0 s : State} {tag : Nat} {ti : Nat} {head : Nat} (hk : Worn s0 s) : Worn s0 (State.attend s tag ti head) := by
  unfold State.attend
  with_reducible repeat' first
    | assumption | apply State.advanceToken_worn | apply State.engineRan_worn | apply State.failStep_worn | apply State.modToken_worn
    | apply State.nextDraw_worn | exact Nat.le_refl _ | exact Nat.le_succ _ | apply Worn.cond | split | (dsimp only; split)
    | fail_if_no_progress refine Worn.mk' ?_ rfl rfl

theorem State.deliverValues_worn {s0 s : State} {tag : Nat} {d : LineDest} {v : List Nat} (hk : Worn s0 s) : Worn s0
    (State.deliverValues s tag d v) := by
  unfold State.deliverValues
  with_reducible repeat' first
    | assumption | apply State.advanceToken_worn | apply State.takeValues_worn
    | apply Worn.cond

theorem State.endTraceAll_worn {s0 s : State} (hk : Worn s0 s) : Worn s0 (State.endTraceAll s) :=
  Worn.pass hk (State.endTraceAll_only (K := 64) (Only.refl _) (Needs.refl _)) rfl

theorem State.stopTileWork_worn {s0 s : State} (hk : Worn s0 s) : Worn s0 (State.stopTileWork s) := by
  unfold State.stopTileWork
  with_reducible repeat' first
    | assumption | apply State.discardRun_worn | apply State.endTraceAll_worn | exact Nat.le_refl _ | exact Nat.le_succ _ | apply Worn.cond
    | refine Worn.foldl ?_ fun _ _ _ => ?_ | split | (dsimp only; split) | fail_if_no_progress refine Worn.mk' ?_ rfl rfl

theorem State.leaveRun_worn {s0 s : State} (hk : Worn s0 s) : Worn s0 (State.leaveRun s) := by
  unfold State.leaveRun
  with_reducible repeat' first
    | assumption | apply State.stopTileWork_worn | exact Nat.le_refl _ | exact Nat.le_succ _ | apply Worn.cond | split
    | (dsimp only; split) | fail_if_no_progress refine Worn.mk' ?_ rfl rfl

theorem State.enterP1_worn {s0 s : State} {hold : HoldReason} (hk : Worn s0 s) : Worn s0 (State.enterP1 s hold) := by
  unfold State.enterP1
  with_reducible repeat' first
    | assumption | apply State.leaveRun_worn | exact Nat.le_refl _ | exact Nat.le_succ _ | apply Worn.cond | split | (dsimp only; split)
    | fail_if_no_progress refine Worn.mk' ?_ rfl rfl

theorem State.clearThrottle_worn {s0 s : State} (hk : Worn s0 s) : Worn s0 (State.clearThrottle s) :=
  Worn.pass hk (State.clearThrottle_only (K := 22) (Only.refl _) (Needs.refl _)) rfl

theorem State.loseStaging_worn {s0 s : State} (hk : Worn s0 s) : Worn s0 (State.loseStaging s) :=
  Worn.pass hk (State.loseStaging_only (K := 180224) (Only.refl _) (Needs.refl _)) rfl

theorem State.loseVolatile_worn {s0 s : State} (hk : Worn s0 s) : Worn s0 s.loseVolatile :=
  Worn.map hk (fun (e : ArrId × DirEntry) => (e.1, e.2.unbound (e.1.arr == 16))) (fun _ => rfl)
    (fun e => by unfold DirEntry.unbound; dsimp only; repeat' split
                 all_goals exact Nat.le_refl _) rfl (Nat.le_refl _)

theorem State.cutPrograms_worn {s0 s : State} (hk : Worn s0 s) : Worn s0 (State.cutPrograms s) := by
  unfold State.cutPrograms
  with_reducible repeat' first
    | assumption | exact Nat.le_refl _ | exact Nat.le_succ _ | apply Worn.cond | refine Worn.foldl ?_ fun _ _ _ => ?_ | split
    | (dsimp only; split) | fail_if_no_progress refine Worn.mk' ?_ rfl rfl

theorem State.beginReset_worn {s0 s : State} {hbm0 : Bool} (hk : Worn s0 s) : Worn s0 (s.beginReset hbm0) := by
  unfold State.beginReset
  exact Worn.mk' (State.loseVolatile_worn (State.cutPrograms_worn hk)) rfl rfl

theorem State.raiseStops_worn {s0 s : State} (hk : Worn s0 s) : Worn s0 (State.raiseStops s) :=
  Worn.pass hk (State.raiseStops_only (K := 24) (Only.refl _) (Needs.refl _)) rfl

theorem State.raiseFlag_worn {s0 s : State} (hk : Worn s0 s) : Worn s0 (State.raiseFlag s) :=
  Worn.pass hk (State.raiseFlag_only (K := 24) (Only.refl _) (Needs.refl _)) rfl

theorem State.commitSeal_worn {s0 s : State} (hk : Worn s0 s) : Worn s0 (State.commitSeal s) :=
  Worn.pass hk (State.commitSeal_only (K := 32) (Only.refl _) (Needs.refl _)) rfl

theorem State.voidStep_worn {s0 s : State} {o : OpenStep} (hk : Worn s0 s) : Worn s0 (State.voidStep s o) :=
  Worn.pass hk (State.voidStep_only (K := 185344) (Only.refl _) (Needs.refl _)) rfl

theorem State.notifyPorts_worn {s0 s : State} {job : Nat} (hk : Worn s0 s) : Worn s0 (State.notifyPorts s job) :=
  Worn.pass hk (State.notifyPorts_only (K := 131072) (Only.refl _) (Needs.refl _)) rfl

theorem State.endJobs_worn {s0 s : State} {jobs : List Nat} (hk : Worn s0 s) : Worn s0 (State.endJobs s jobs) :=
  Worn.pass hk (State.endJobs_only (K := 163840) (Only.refl _) (Needs.refl _)) rfl

theorem State.deliverAll_worn {s0 s : State} (hk : Worn s0 s) : Worn s0 (State.deliverAll s) :=
  Worn.pass hk (State.deliverAll_only (K := 3584) (Only.refl _) (Needs.refl _)) rfl

theorem State.drain_worn {s0 s : State} {cause : Nat} {code : Nat} {source : Nat} {loc : Nat} (hk : Worn s0 s) : Worn s0 (State.drain s
    cause code source loc) := by
  unfold State.drain
  with_reducible repeat' first
    | assumption | apply State.async_worn | apply State.deliverAll_worn | apply State.endJobs_worn | apply State.enterP1_worn
    | apply State.notifyJob_worn | apply State.notifyPorts_worn | apply State.raise_worn | apply State.reportAbort_worn
    | apply State.voidStep_worn | exact Nat.le_refl _ | exact Nat.le_succ _ | apply Worn.cond | refine Worn.foldl ?_ fun _ _ _ => ?_
    | split | (dsimp only; split) | fail_if_no_progress refine Worn.mk' ?_ rfl rfl

theorem State.restoreFranking_worn {s0 s : State} (hk : Worn s0 s) : Worn s0 (State.restoreFranking s) := by
  unfold State.restoreFranking
  with_reducible repeat' first
    | assumption | apply State.drain_worn | exact Nat.le_refl _ | exact Nat.le_succ _ | apply Worn.cond | split | (dsimp only; split)
    | fail_if_no_progress refine Worn.mk' ?_ rfl rfl

theorem State.startPorts_worn {s0 s : State} (hk : Worn s0 s) : Worn s0 (State.startPorts s) :=
  Worn.pass hk (State.startPorts_only (K := 131584) (Only.refl _) (Needs.refl _)) rfl

theorem State.setPoints_worn {s0 s : State} (hk : Worn s0 s) : Worn s0 (State.setPoints s) :=
  Worn.pass hk (State.setPoints_only (K := 18) (Only.refl _) (Needs.refl _)) rfl

theorem State.firmwareStart_worn {s0 s : State} (hk : Worn s0 s) : Worn s0 (State.firmwareStart s) := by
  unfold State.firmwareStart
  with_reducible repeat' first
    | assumption | apply State.commitSeal_worn | apply State.raiseFlag_worn | apply State.raiseStops_worn
    | apply State.restoreFranking_worn | apply State.setPoints_worn | exact Nat.le_refl _ | exact Nat.le_succ _ | apply Worn.cond | split
    | (dsimp only; split) | fail_if_no_progress refine Worn.mk' ?_ rfl rfl

theorem State.driveWakes_worn {s0 s : State} (hk : Worn s0 s) : Worn s0 (State.driveWakes s) :=
  Worn.pass hk (State.driveWakes_only (K := 131072) (Only.refl _) (Needs.refl _)) rfl

theorem State.suspendLease_worn {s0 s : State} (hk : Worn s0 s) : Worn s0 (State.suspendLease s) :=
  Worn.pass hk (State.suspendLease_only (K := 512) (Only.refl _) (Needs.refl _)) rfl

theorem State.judgeAligned_worn {s0 s : State} {was : Bool} (hk : Worn s0 s) : Worn s0 (State.judgeAligned s was) :=
  Worn.pass hk (State.judgeAligned_only (K := 17) (Only.refl _) (Needs.refl _)) rfl

theorem State.arrive_worn {s0 s : State} {cause : Nat} {goal : PowerState} (hk : Worn s0 s) : Worn s0 (State.arrive s cause goal) :=
  Worn.pass hk (State.arrive_only (K := 66) (Only.refl _) (Needs.refl _)) rfl

theorem State.wakeP2_worn {s0 s : State} {cause : Nat} (hk : Worn s0 s) : Worn s0 (State.wakeP2 s cause) :=
  Worn.pass hk (State.wakeP2_only (K := 204370) (Only.refl _) (Needs.refl _)) rfl

theorem State.wakeP3_worn {s0 s : State} {cause : Nat} (hk : Worn s0 s) : Worn s0 (State.wakeP3 s cause) :=
  Worn.pass hk (State.wakeP3_only (K := 204402) (Only.refl _) (Needs.refl _)) rfl

theorem State.restoreRetained_worn {s0 s : State} (hk : Worn s0 s) : Worn s0 (State.restoreRetained s) :=
  Worn.pass hk (State.restoreRetained_only (K := 48) (Only.refl _) (Needs.refl _)) rfl

theorem State.wakeP4_worn {s0 s : State} {cause : Nat} (hk : Worn s0 s) : Worn s0 (State.wakeP4 s cause) := by
  unfold State.wakeP4
  with_reducible repeat' first
    | assumption | apply State.arrive_worn | apply State.commitSeal_worn | apply State.driveWakes_worn | apply State.restoreFranking_worn
    | apply State.restoreRetained_worn | exact Nat.le_refl _ | exact Nat.le_succ _ | apply Worn.cond | split | (dsimp only; split)
    | fail_if_no_progress refine Worn.mk' ?_ rfl rfl

theorem State.wakeP1_worn {s0 s : State} {cause : Nat} (hk : Worn s0 s) : Worn s0 (State.wakeP1 s cause) :=
  Worn.pass hk (State.wakeP1_only (K := 66) (Only.refl _) (Needs.refl _)) rfl

theorem State.wake_worn {s0 s : State} {cause : Nat} (hk : Worn s0 s) : Worn s0 (State.wake s cause) := by
  unfold State.wake
  with_reducible repeat' first
    | assumption | apply State.wakeP1_worn | apply State.wakeP2_worn | apply State.wakeP3_worn | apply State.wakeP4_worn
    | exact Nat.le_refl _ | exact Nat.le_succ _ | apply Worn.cond | split | (dsimp only; split)
    | fail_if_no_progress refine Worn.mk' ?_ rfl rfl

theorem State.wakeReattach_worn {s0 s : State} (hk : Worn s0 s) : Worn s0 (State.wakeReattach s) :=
  Worn.pass hk (State.wakeReattach_only (K := 66) (Only.refl _) (Needs.refl _)) rfl

theorem State.reach_worn {s0 s : State} {dst : PowerState} (hk : Worn s0 s) : Worn s0 (s.reach dst) := by
  have h := State.clearThrottle_worn (State.leaveRun_worn hk)
  cases dst with
  | p0 => exact State.wake_worn hk
  | p1 => exact State.enterP1_worn hk
  | p2 => exact Worn.mk' h rfl rfl
  | p3 => exact Worn.mk' (State.loseStaging_worn h) rfl rfl
  | p4 => exact Worn.mk' (State.loseVolatile_worn h) rfl rfl

theorem State.entryStops_worn {s0 s : State} (hk : Worn s0 s) : Worn s0 (State.entryStops s) := by
  unfold State.entryStops
  with_reducible repeat' first
    | assumption | apply State.stopTileWork_worn | exact Nat.le_refl _ | exact Nat.le_succ _ | apply Worn.cond | split
    | (dsimp only; split) | fail_if_no_progress refine Worn.mk' ?_ rfl rfl

theorem State.tryEntry_worn {s0 s : State} (hk : Worn s0 s) : Worn s0 (State.tryEntry s) := by
  unfold State.tryEntry
  with_reducible repeat' first
    | assumption | apply State.entryStops_worn | apply State.reach_worn | exact Nat.le_refl _ | exact Nat.le_succ _ | apply Worn.cond
    | split | (dsimp only; split) | fail_if_no_progress refine Worn.mk' ?_ rfl rfl

theorem State.frameArrives_worn {s0 s : State} {chan0 : Bool} (hk : Worn s0 s) : Worn s0 (State.frameArrives s chan0) :=
  Worn.pass hk (State.frameArrives_only (K := 204410) (Only.refl _) (Needs.refl _)) rfl

theorem State.wakeForTask_worn {s0 s : State} (hk : Worn s0 s) : Worn s0 (State.wakeForTask s) :=
  Worn.pass hk (State.wakeForTask_only (K := 202362) (Only.refl _) (Needs.refl _)) rfl

theorem State.scheduleWakes_worn {s0 s : State} {before : State} (hk : Worn s0 s) : Worn s0 (State.scheduleWakes s before) :=
  Worn.pass hk (State.scheduleWakes_only (K := 66) (Only.refl _) (Needs.refl _)) rfl

theorem State.active_worn {s0 s : State} (hk : Worn s0 s) : Worn s0 (State.active s) :=
  Worn.pass hk (State.active_only (K := 2) (Only.refl _) (Needs.refl _)) rfl

theorem State.rerun_worn {s0 s : State} {tag : Nat} {epoch : Nat} (hk : Worn s0 s) : Worn s0 (State.rerun s tag epoch) := by
  unfold State.rerun
  with_reducible repeat' first
    | assumption | apply State.dropWork_worn | apply State.modStep_worn | apply State.startEntry_worn | exact Nat.le_refl _
    | exact Nat.le_succ _ | apply Worn.cond | refine Worn.foldl ?_ fun _ _ _ => ?_ | split | (dsimp only; split)
    | fail_if_no_progress refine Worn.mk' ?_ rfl rfl

theorem State.replayRecord_worn {s0 s : State} {o : OpenStep} {code : Nat} (hk : Worn s0 s) : Worn s0 (State.replayRecord s o code) :=
  Worn.pass hk (State.replayRecord_only (K := 16) (Only.refl _) (Needs.refl _)) rfl

theorem State.replayNotices_worn {s0 s : State} {o : OpenStep} (hk : Worn s0 s) : Worn s0 (State.replayNotices s o) := by
  unfold State.replayNotices
  exact Worn.cond hk (Worn.foldl hk fun _ _ hx => State.sendForJob_worn hx)

theorem State.transient_worn {s0 s : State} {tag : Nat} {epoch : Nat} {code : Nat} {source : Nat} {loc : Nat} (hk : Worn s0 s) : Worn s0
    (State.transient s tag epoch code source loc) := by
  unfold State.transient
  with_reducible repeat' first
    | assumption | apply State.drain_worn | apply State.replayRecord_worn | apply State.rerun_worn | apply State.replayNotices_worn
    | exact Nat.le_refl _ | exact Nat.le_succ _ | apply Worn.cond | refine Worn.foldl ?_ fun _ _ _ => ?_ | split | (dsimp only; split)
    | fail_if_no_progress refine Worn.mk' ?_ rfl rfl

theorem State.failStop_worn {s0 s : State} {cause : StopCause} {sensor : Nat} {reading : Int} {vinMv : Nat} (hk : Worn s0 s) : Worn s0
    (State.failStop s cause sensor reading vinMv) := by
  unfold State.failStop
  with_reducible repeat' first
    | assumption | apply State.cutPrograms_worn | apply State.loseVolatile_worn | exact Nat.le_refl _ | exact Nat.le_succ _
    | apply Worn.cond | split | (dsimp only; split) | fail_if_no_progress refine Worn.mk' ?_ rfl rfl

theorem State.writeDump_worn {s0 s : State} {cause : Nat} {core : Nat} {sections : List Nat} (hk : Worn s0 s) : Worn s0 (State.writeDump s
    cause core sections) :=
  Worn.pass hk (State.writeDump_only (K := 8) (Only.refl _) (Needs.refl _)) rfl

theorem State.crash_worn {s0 s : State} {dumpCause : Nat} {core : Nat} {code : Nat} (hk : Worn s0 s) : Worn s0 (State.crash s
    dumpCause core code) := by
  unfold State.crash
  with_reducible repeat' first
    | assumption | apply State.drain_worn | apply State.writeDump_worn | fail_if_no_progress refine Worn.mk' ?_ rfl rfl

theorem State.bootFails_worn {s0 s : State} {code : Nat} {r : Option ConfigRecord} (hk : Worn s0 s) : Worn s0 (State.bootFails s code r) :=
  Worn.pass hk (State.bootFails_only (K := 520) (Only.refl _) (Needs.refl _)) rfl

theorem State.loadTables_worn {s0 s : State} (hk : Worn s0 s) : Worn s0 (State.loadTables s) :=
  Worn.pass hk (State.loadTables_only (K := 4) (Only.refl _) (Needs.refl _)) rfl

theorem State.choose_worn {s0 s : State} {k : Nat} {a : Advert} (hk : Worn s0 s) : Worn s0 (State.choose s k a) :=
  Worn.pass hk (State.choose_only (K := 187952) (Only.refl _) (Needs.refl _)) rfl

theorem State.bootChain_worn {s0 s : State} (hk : Worn s0 s) : Worn s0 (State.bootChain s) := by
  unfold State.bootChain
  with_reducible repeat' first
    | assumption | apply State.bootFails_worn | apply State.choose_worn | apply State.firmwareStart_worn | apply State.loadTables_worn
    | apply State.startPorts_worn | exact Nat.le_refl _ | exact Nat.le_succ _ | apply Worn.cond | split | (dsimp only; split)
    | fail_if_no_progress refine Worn.mk' ?_ rfl rfl

theorem State.resetModule_worn {s0 s : State} {hbm0 : Bool} (hk : Worn s0 s) : Worn s0 (State.resetModule s hbm0) := by
  unfold State.resetModule
  with_reducible repeat' first
    | assumption | apply State.bootChain_worn | apply State.beginReset_worn

theorem State.withSet_worn {s0 s : State} {a : ArrId} {f : State → State} (hk : Worn s0 s) (hf : ∀ x , Worn s0 x → Worn s0 (f x ))
    : Worn s0 (State.withSet s a f) := by
  unfold State.withSet
  with_reducible repeat' first
    | assumption | apply hf | apply State.modTile_worn

theorem State.zeroDrift_worn {s0 s : State} {a : ArrId} (hk : Worn s0 s) : Worn s0 (State.zeroDrift s a) := by
  unfold State.zeroDrift
  with_reducible repeat' first
    | assumption | refine State.withSet_worn ?_ (fun _ _ => ?_) | apply State.setDrift_worn

theorem State.programUnderCover_worn {s0 s : State} {tid : TileId} {k : Nat} (hk : Worn s0 s) : Worn s0 (State.programUnderCover s tid k)
    := by
  unfold State.programUnderCover
  with_reducible repeat' first
    | assumption | refine State.modDir_worn ?_ (fun _ => ?_) | apply State.modTile_worn | exact Nat.le_refl _ | exact Nat.le_succ _
    | apply Worn.cond | split | (dsimp only; split) | fail_if_no_progress refine Worn.mk' ?_ rfl rfl

theorem State.askRewrite_worn {s0 s : State} {a : ArrId} (hk : Worn s0 s) : Worn s0 (State.askRewrite s a) :=
  Worn.pass hk (State.askRewrite_only (K := 16384) (Only.refl _) (Needs.refl _)) rfl

theorem State.outOfService_worn {s0 s : State} {a : ArrId} (hk : Worn s0 s) : Worn s0 (State.outOfService s a) := by
  unfold State.outOfService
  with_reducible repeat' first
    | assumption | apply State.askRewrite_worn | apply State.discardRun_worn | apply State.dropRun_worn
    | refine State.modDir_worn ?_ (fun _ => ?_) | apply State.programUnderCover_worn | exact Nat.le_refl _ | exact Nat.le_succ _
    | apply Worn.cond | split | (dsimp only; split) | fail_if_no_progress refine Worn.mk' ?_ rfl rfl

theorem State.uncover_worn {s0 s : State} {a : ArrId} (hk : Worn s0 s) : Worn s0 (State.uncover s a) := by
  unfold State.uncover
  with_reducible repeat' first
    | assumption | apply State.askRewrite_worn | refine State.modDir_worn ?_ (fun _ => ?_) | apply State.outOfService_worn
    | apply State.zeroDrift_worn | exact Nat.le_refl _ | exact Nat.le_succ _ | apply Worn.cond | split | (dsimp only; split)
    | fail_if_no_progress refine Worn.mk' ?_ rfl rfl

theorem State.applyStandIn_worn {s0 s : State} {tid : TileId} (hk : Worn s0 s) : Worn s0 (State.applyStandIn s tid) := by
  unfold State.applyStandIn
  with_reducible repeat' first
    | assumption | apply State.idleSpare_worn | apply State.modTile_worn | apply State.programUnderCover_worn | apply State.uncover_worn
    | exact Nat.le_refl _ | exact Nat.le_succ _ | apply Worn.cond | split | (dsimp only; split)
    | fail_if_no_progress refine Worn.mk' ?_ rfl rfl

theorem State.applyNext_worn {s0 s : State} {tid : TileId} (hk : Worn s0 s) : Worn s0 (State.applyNext s tid) :=
  Worn.pass hk (State.applyNext_only (K := 81920) (Only.refl _) (Needs.refl _)) rfl

theorem State.boundary_worn {s0 s : State} {tid : TileId} (hk : Worn s0 s) : Worn s0 (State.boundary s tid) := by
  unfold State.boundary
  with_reducible repeat' first
    | assumption | apply State.modTile_worn | apply State.applyNext_worn | apply State.applyStandIn_worn

theorem State.bankOverflow_worn {s0 s : State} {tid : TileId} {arr : Nat} {tag : Nat} (hk : Worn s0 s) : Worn s0
    (State.bankOverflow s tid arr tag) := by
  unfold State.bankOverflow
  with_reducible repeat' first
    | assumption | apply State.failStep_worn | apply State.raise_worn

theorem State.closeBank_worn {s0 s : State} {tid : TileId} {b : Nat} (hk : Worn s0 s) : Worn s0 (State.closeBank s tid b).1 :=
  Worn.pass hk (State.closeBank_only (K := 16384) (Only.refl _) (Needs.refl _)) rfl

theorem State.tryDrain_worn {s0 s : State} {tid : TileId} {b : Nat} (hk : Worn s0 s) : Worn s0 (State.tryDrain s tid b) :=
  Worn.pass hk (State.tryDrain_only (K := 16384) (Only.refl _) (Needs.refl _)) rfl

theorem State.countFires_worn {s0 s : State} {tid : TileId} {b : Nat} {n : Nat} {close : Bool} {arr : Nat} (hk : Worn s0 s) : Worn s0
    (State.countFires s tid b n close arr) := by
  unfold State.countFires
  with_reducible repeat' first
    | assumption | apply State.bankOverflow_worn | apply State.closeBank_worn | apply State.modTile_worn | apply State.tryDrain_worn
    | exact Nat.le_refl _ | exact Nat.le_succ _ | apply Worn.cond | split | (dsimp only; split)
    | fail_if_no_progress refine Worn.mk' ?_ rfl rfl

theorem State.addToBank_worn {s0 s : State} {tid : TileId} {b : Nat} {arr : Nat} {red : Reduction} {v : List Int} (hk : Worn s0 s)
    : Worn s0 (State.addToBank s tid b arr red v) := by
  unfold State.addToBank
  with_reducible repeat' first
    | assumption | apply State.bankOverflow_worn | apply State.modTile_worn | apply Worn.cond

theorem State.countCompute_worn {s0 s : State} {tag : Nat} {n : Nat} {a : ArrId} (hk : Worn s0 s) : Worn s0 (State.countCompute s tag n a)
    :=
  Worn.pass hk (State.countCompute_only (K := 1024) (Only.refl _) (Needs.refl _)) rfl

theorem State.countEquiv_worn {s0 s : State} {tag : Nat} {cause : Nat} {n256 : Nat} {a : ArrId} (hk : Worn s0 s) : Worn s0
    (State.countEquiv s tag cause n256 a) :=
  Worn.pass hk (State.countEquiv_only (K := 1024) (Only.refl _) (Needs.refl _)) rfl

theorem State.putJob_worn {s0 s : State} {tid : TileId} {arr : Nat} {cause : Nat} {i : InputSlot} {mode : Nat} {red : Reduction} {b : Nat}
    (hk : Worn s0 s) : Worn s0 (State.putJob s tid arr cause i mode red b) :=
  Worn.pass hk (State.putJob_only (K := 16384) (Only.refl _) (Needs.refl _)) rfl

theorem State.handOff_worn {s0 s : State} {tid : TileId} {f : Fire} {i : InputSlot} {cause : Nat} (hk : Worn s0 s) : Worn s0
    (State.handOff s tid f i cause) := by
  unfold State.handOff
  with_reducible repeat' first
    | assumption | apply State.countCompute_worn | apply State.countEquiv_worn | apply State.countFires_worn | apply State.failStep_worn
    | apply State.modTile_worn | apply State.putJob_worn | exact Nat.le_refl _ | exact Nat.le_succ _ | apply Worn.cond | split
    | (dsimp only; split) | fail_if_no_progress refine Worn.mk' ?_ rfl rfl

theorem State.dropDescriptor_worn {s0 s : State} {tid : TileId} {k : Nat} {f : Fire} (hk : Worn s0 s) : Worn s0 (State.dropDescriptor s
    tid k f) :=
  Worn.pass hk (State.dropDescriptor_only (K := 16400) (Only.refl _) (Needs.refl _)) rfl

theorem State.latch_worn {s0 s : State} {tid : TileId} {f : Fire} {i : InputSlot} {b : Nat} {first : Bool} (hk : Worn s0 s) : Worn s0
    (State.latch s tid f i b first) :=
  Worn.pass hk (State.latch_only (K := 279552) (Only.refl _) (Needs.refl _)) rfl

theorem State.issueNext_worn {s0 s : State} {clear : Nat} {n : Nat} {tid : TileId} (hk : Worn s0 s) :
    Worn s0 (State.issueNext clear n tid s).1 := by
  induction n generalizing s with
  | zero => exact hk
  | succ n ih =>
    unfold State.issueNext
    dsimp only
    repeat' first
      | with_reducible assumption | with_reducible apply ih | with_reducible apply State.failStep_worn
      | with_reducible apply State.handOff_worn
      | with_reducible apply State.dropDescriptor_worn | with_reducible apply State.latch_worn | with_reducible apply State.modTile_worn | split

theorem State.runFire_worn {s0 s : State} {tid : TileId} (hk : Worn s0 s) : Worn s0 (State.runFire s tid) := by
  unfold State.runFire
  with_reducible repeat' first
    | assumption | apply State.modFranking_worn | apply State.modTile_worn | exact Nat.le_refl _ | exact Nat.le_succ _ | apply Worn.cond
    | split | (dsimp only; split) | fail_if_no_progress refine Worn.mk' ?_ rfl rfl

theorem State.scanFire_worn {s0 s : State} {tid : TileId} {k : Nat} (hk : Worn s0 s) : Worn s0 (State.scanFire s tid k) :=
  Worn.pass hk (State.scanFire_only (K := 16384) (Only.refl _) (Needs.refl _)) rfl

theorem State.computeSlot_worn {s0 s : State} {tid : TileId} {n : Nat} (hk : Worn s0 s) : Worn s0 (State.computeSlot s tid n).1 := by
  unfold State.computeSlot
  with_reducible repeat' first
    | assumption | apply State.issueNext_worn | apply Worn.cond | split | (dsimp only; split)
    | fail_if_no_progress refine Worn.mk' ?_ rfl rfl

theorem State.spareSlot_worn {s0 s : State} {tid : TileId} (hk : Worn s0 s) : Worn s0 (State.spareSlot s tid) := by
  unfold State.spareSlot
  with_reducible repeat' first
    | assumption | apply State.runFire_worn | apply State.scanFire_worn | apply Worn.cond | split | (dsimp only; split)
    | fail_if_no_progress refine Worn.mk' ?_ rfl rfl

theorem State.chooseSlot_worn {s0 s : State} {tid : TileId} {n : Nat} (hk : Worn s0 s) : Worn s0 (State.chooseSlot s tid n) := by
  unfold State.chooseSlot
  with_reducible repeat' first
    | assumption | apply State.latch_worn | apply State.modTile_worn | apply State.runFire_worn | apply State.scanFire_worn
    | apply State.computeSlot_worn | apply State.spareSlot_worn | apply Worn.cond | split | (dsimp only; split)
    | fail_if_no_progress refine Worn.mk' ?_ rfl rfl

theorem State.modEntry_worn {s0 s : State} {tag : Nat} {i : Nat} {f : EntryWork → EntryWork} (hk : Worn s0 s) : Worn s0 (State.modEntry s
    tag i f) :=
  Worn.pass hk (State.modEntry_only (K := 1024) (Only.refl _) (Needs.refl _)) rfl

theorem State.closeEntry_worn {s0 s : State} {tag : Nat} {i : Nat} {status : Nat} {cause : Nat} (hk : Worn s0 s) : Worn s0
    (State.closeEntry s tag i status cause) :=
  Worn.pass hk (State.closeEntry_only (K := 54272) (Only.refl _) (Needs.refl _)) rfl

theorem State.exhaustEntry_worn {s0 s : State} {tag : Nat} {i : Nat} (hk : Worn s0 s) : Worn s0 (State.exhaustEntry s tag i) :=
  Worn.pass hk (State.exhaustEntry_only (K := 54288) (Only.refl _) (Needs.refl _)) rfl

theorem State.reserveFor_worn {s0 s : State} {tag : Nat} {i : Nat} {slot : Nat} {ps : List PageNeed} (hk : Worn s0 s) : Worn s0
    (State.reserveFor s tag i slot ps).1 :=
  Worn.pass hk (State.reserveFor_only (K := 56848) (Only.refl _) (Needs.refl _)) rfl

theorem State.takeChain_worn {s0 s : State} {slot : Nat} {chain : List Node} (hk : Worn s0 s) : Worn s0 (State.takeChain s slot chain) :=
  Worn.pass hk (State.takeChain_only (K := 5120) (Only.refl _) (Needs.refl _)) rfl

theorem State.copyBlock_worn {s0 s : State} {slot : Nat} {n : Node} {b : Nat} (hk : Worn s0 s) : Worn s0 (State.copyBlock s slot n b) :=
  Worn.pass hk (State.copyBlock_only (K := 4096) (Only.refl _) (Needs.refl _)) rfl

theorem State.matchEntry_worn {s0 s : State} {tag : Nat} {i : Nat} (hk : Worn s0 s) : Worn s0 (State.matchEntry s tag i) := by
  unfold State.matchEntry
  with_reducible repeat' first
    | assumption | apply State.copyBlock_worn | apply State.modEntry_worn | apply State.modNode_worn | apply State.refNode_worn
    | apply State.reserveFor_worn | apply State.startEntry_worn | apply State.takeChain_worn | exact Nat.le_refl _ | exact Nat.le_succ _
    | apply Worn.cond | split | (dsimp only; split) | fail_if_no_progress refine Worn.mk' ?_ rfl rfl

theorem State.beginEntry_worn {s0 s : State} {tag : Nat} {i : Nat} (hk : Worn s0 s) : Worn s0 (State.beginEntry s tag i) := by
  unfold State.beginEntry
  with_reducible repeat' first
    | assumption | apply State.reserveFor_worn | apply State.startEntry_worn | exact Nat.le_refl _ | exact Nat.le_succ _ | apply Worn.cond
    | split | (dsimp only; split) | fail_if_no_progress refine Worn.mk' ?_ rfl rfl

theorem State.retryStalled_worn {s0 s : State} (hk : Worn s0 s) : Worn s0 (State.retryStalled s) := by
  unfold State.retryStalled
  with_reducible repeat' first
    | assumption | apply State.beginEntry_worn | apply State.matchEntry_worn | exact Nat.le_refl _ | exact Nat.le_succ _ | apply Worn.cond
    | refine Worn.foldl ?_ fun _ _ _ => ?_ | split | (dsimp only; split) | fail_if_no_progress refine Worn.mk' ?_ rfl rfl

theorem State.claimEntry_worn {s0 s : State} {tag : Nat} {i : Nat} {c : Context} (hk : Worn s0 s) : Worn s0 (State.claimEntry s tag i c) :=
  Worn.pass hk (State.claimEntry_only (K := 56848) (Only.refl _) (Needs.refl _)) rfl

theorem State.openJob_worn {s0 s : State} {c : StepCmd} (hk : Worn s0 s) : Worn s0 (State.openJob s c) :=
  Worn.pass hk (State.openJob_only (K := 163840) (Only.refl _) (Needs.refl _)) rfl

theorem State.pushStep_worn {s0 s : State} {o : OpenStep} (hk : Worn s0 s) : Worn s0 (State.pushStep s o) :=
  Worn.pass hk (State.pushStep_only (K := 1024) (Only.refl _) (Needs.refl _)) rfl

theorem State.closeRound_worn {s0 s : State} {q : Queue} {w : Waiting} {c : StepCmd} {ctx : Context} {status : Nat} {detail : Nat} (hk :
    Worn s0 s) : Worn s0 (State.closeRound s q w c ctx status detail) := by
  unfold State.closeRound
  with_reducible repeat' first
    | assumption | apply State.endUnbegun_worn | apply State.pushStep_worn | exact Nat.le_refl _ | exact Nat.le_succ _ | apply Worn.cond
    | split | (dsimp only; split) | fail_if_no_progress refine Worn.mk' ?_ rfl rfl

theorem State.openStep_worn {s0 s : State} {q : Queue} {w : Waiting} {c : StepCmd} {ctx : Context} {held : Bool} (hk : Worn s0 s) : Worn
    s0 (State.openStep s q w c ctx held) := by
  unfold State.openStep
  with_reducible repeat' first
    | assumption | apply State.beginEntry_worn | apply State.claimEntry_worn | apply State.failStep_worn | apply State.fetchSchedule_worn
    | apply State.gather_worn | apply State.modQueue_worn | apply State.openJob_worn | apply State.pushStep_worn | exact Nat.le_refl _
    | exact Nat.le_succ _ | apply Worn.cond | refine Worn.foldl ?_ fun _ _ _ => ?_ | split | (dsimp only; split)
    | fail_if_no_progress refine Worn.mk' ?_ rfl rfl

theorem State.asArrived_worn {s0 s : State} {w : Waiting} (hk : Worn s0 s) : Worn s0 (State.asArrived s w) :=
  Worn.pass hk (State.asArrived_only (K := 512) (Only.refl _) (Needs.refl _)) rfl

theorem State.round_worn {s0 s : State} {q : Queue} {w : Waiting} (hk : Worn s0 s) : Worn s0 (State.round s q w) := by
  unfold State.round
  with_reducible repeat' first
    | assumption | apply State.asArrived_worn | apply State.closeRound_worn | apply State.endUnbegun_worn | apply State.modQueue_worn
    | apply State.openStep_worn | exact Nat.le_refl _ | exact Nat.le_succ _ | apply Worn.cond | split | (dsimp only; split)
    | fail_if_no_progress refine Worn.mk' ?_ rfl rfl

theorem execSortingRound_worn {s : State} {core : Nat} : KeptW s (execSortingRound core s) := by
  unfold execSortingRound
  with_reducible repeat' first
    | assumption | apply KeptW.next | apply KeptW.fault | apply KeptW.cond | exact Worn.refl _ | apply State.retryStalled_worn
    | apply State.round_worn | apply State.wakeP1_worn | exact Nat.le_refl _ | exact Nat.le_succ _ | apply Worn.cond | split
    | (dsimp only; split) | fail_if_no_progress refine Worn.mk' ?_ rfl rfl

theorem execPrefixMatchDone_worn {s : State} {stepTag : Nat} {entry : Nat} : KeptW s (execPrefixMatchDone stepTag entry s) := by
  unfold execPrefixMatchDone
  with_reducible repeat' first
    | assumption | apply KeptW.next | apply KeptW.fault | apply KeptW.cond | exact Worn.refl _ | apply State.matchEntry_worn
    | apply State.scheduleWakes_worn | exact Nat.le_refl _ | exact Nat.le_succ _ | apply Worn.cond | split | (dsimp only; split)
    | fail_if_no_progress refine Worn.mk' ?_ rfl rfl

theorem State.restorePageOf_worn {s0 s : State} {slot : Nat} (hk : Worn s0 s) : Worn s0 (State.restorePageOf s slot) := by
  unfold State.restorePageOf
  with_reducible repeat' first
    | assumption | apply State.exhaustEntry_worn | apply State.failStep_worn | apply State.makeRoom_worn | apply State.modEntry_worn
    | apply State.restoreOnePage_worn | exact Nat.le_refl _ | exact Nat.le_succ _ | apply Worn.cond | split | (dsimp only; split)
    | fail_if_no_progress refine Worn.mk' ?_ rfl rfl

theorem execHeldPageWritten_worn {s : State} {slot : Nat} : KeptW s (execHeldPageWritten slot s) := by
  unfold execHeldPageWritten
  with_reducible repeat' first
    | assumption | apply KeptW.next | apply KeptW.fault | apply KeptW.cond | exact Worn.refl _ | apply State.moveOnePage_worn
    | apply State.restorePageOf_worn | apply State.retryStalled_worn | apply State.scheduleWakes_worn | exact Nat.le_refl _
    | exact Nat.le_succ _ | apply Worn.cond | split | (dsimp only; split) | fail_if_no_progress refine Worn.mk' ?_ rfl rfl

theorem execHeldExpiry_worn {s : State} {slot : Nat} : KeptW s (execHeldExpiry slot s) := by
  unfold execHeldExpiry
  with_reducible repeat' first
    | assumption | apply KeptW.next | apply KeptW.fault | apply KeptW.cond | exact Worn.refl _ | apply State.counterTo_worn
    | apply State.expireHeld_worn | apply State.retryStalled_worn | apply State.scheduleWakes_worn | apply State.sweep_worn
    | exact Nat.le_refl _ | exact Nat.le_succ _ | apply Worn.cond | split | (dsimp only; split)
    | fail_if_no_progress refine Worn.mk' ?_ rfl rfl

theorem execOrphanSlotMove_worn {s : State} : KeptW s (execOrphanSlotMove s) := by
  unfold execOrphanSlotMove
  with_reducible repeat' first
    | assumption | apply KeptW.next | apply KeptW.fault | apply KeptW.cond | exact Worn.refl _ | apply State.enterP1_worn
    | apply State.tierIdle_worn | exact Nat.le_refl _ | exact Nat.le_succ _ | apply Worn.cond | split | (dsimp only; split)
    | fail_if_no_progress refine Worn.mk' ?_ rfl rfl

theorem State.passOn_worn {s0 s : State} {viaDispatch : Bool} {h : ParcelHdr} {model : Nat} {index : Nat} {off : Nat} {data : Bytes} (hk :
    Worn s0 s) : Worn s0 (State.passOn s viaDispatch h model index off data) :=
  Worn.pass hk (State.passOn_only (K := 131104) (Only.refl _) (Needs.refl _)) rfl

theorem State.dropAssembly_worn {s0 s : State} {model : Nat} {index : Nat} (hk : Worn s0 s) : Worn s0 (State.dropAssembly s model
    index) := by
  unfold State.dropAssembly
  with_reducible repeat' first
    | assumption | fail_if_no_progress refine Worn.mk' ?_ rfl rfl

theorem State.tornParcel_worn {s0 s : State} {model : Nat} {index : Nat} {off : Nat} {data : Bytes} (hk : Worn s0 s) : Worn s0
    (State.tornParcel s model index off data) := by
  unfold State.tornParcel
  with_reducible repeat' first
    | assumption | exact Nat.le_refl _ | exact Nat.le_succ _ | apply Worn.cond | split | (dsimp only; split)
    | fail_if_no_progress refine Worn.mk' ?_ rfl rfl

theorem State.parcelData_worn {s0 s : State} {viaDispatch : Bool} {model : Nat} {index : Nat} {off : Nat} {data : Bytes} (hk : Worn s0 s)
    : Worn s0 (State.parcelData s viaDispatch model index off data) := by
  unfold State.parcelData
  with_reducible repeat' first
    | assumption | apply State.dropAssembly_worn | apply State.passOn_worn | exact Nat.le_refl _ | exact Nat.le_succ _ | apply Worn.cond
    | refine Worn.foldl ?_ fun _ _ _ => ?_ | split | (dsimp only; split) | fail_if_no_progress refine Worn.mk' ?_ rfl rfl

theorem State.parcelStatus_worn {s0 s : State} {model : Nat} {index : Nat} {status : Nat} (hk : Worn s0 s) : Worn s0 (State.parcelStatus s
    model index status) :=
  Worn.pass hk (State.parcelStatus_only (K := 3600) (Only.refl _) (Needs.refl _)) rfl

theorem State.acceptParcel_worn {s0 s : State} {h : ParcelHdr} {b : Bytes} (hk : Worn s0 s) : Worn s0 (State.acceptParcel s h b) := by
  unfold State.acceptParcel
  with_reducible repeat' first
    | assumption | refine State.modDir_worn ?_ (fun _ => ?_) | apply State.placeTargets_worn | apply State.renewLists_worn
    | exact Nat.le_refl _ | exact Nat.le_succ _ | apply Worn.cond | refine Worn.foldl ?_ fun _ _ _ => ?_ | split | (dsimp only; split)
    | fail_if_no_progress refine Worn.mk' ?_ rfl rfl

theorem execParcelAcceptance_worn {s : State} {model : Nat} {index : Nat} : KeptW s (execParcelAcceptance model index s) := by
  unfold execParcelAcceptance
  with_reducible repeat' first
    | assumption | apply KeptW.next | apply KeptW.fault | apply KeptW.cond | exact Worn.refl _ | apply State.dropAssembly_worn
    | apply State.parcelStatus_worn | apply State.acceptParcel_worn | apply Worn.cond | split | (dsimp only; split)

theorem execParcelIncompleteTimeout_worn {s : State} {model : Nat} {index : Nat} : KeptW s (execParcelIncompleteTimeout model index s) :=
    by
  unfold execParcelIncompleteTimeout
  with_reducible repeat' first
    | assumption | apply KeptW.next | apply KeptW.fault | apply KeptW.cond | exact Worn.refl _ | apply State.advanceTo_worn
    | apply State.dropAssembly_worn | apply State.parcelStatus_worn | exact Nat.le_refl _ | exact Nat.le_succ _ | apply Worn.cond | split
    | (dsimp only; split) | fail_if_no_progress refine Worn.mk' ?_ rfl rfl

theorem State.setRecord_worn {s0 s : State} {a : ArrId} {r : CodeRecord} (hk : Worn s0 s) : Worn s0 (State.setRecord s a r) := by
  unfold State.setRecord
  with_reducible repeat' first
    | assumption | apply State.renewLists_worn | exact Nat.le_refl _ | exact Nat.le_succ _ | apply Worn.cond | split | (dsimp only; split)
    | fail_if_no_progress refine Worn.mk' ?_ rfl rfl

theorem State.dropRecord_worn {s0 s : State} {a : ArrId} (hk : Worn s0 s) : Worn s0 (State.dropRecord s a) := by
  unfold State.dropRecord
  with_reducible repeat' first
    | assumption | apply State.renewLists_worn | exact Nat.le_refl _ | exact Nat.le_succ _ | apply Worn.cond | split | (dsimp only; split)
    | fail_if_no_progress refine Worn.mk' ?_ rfl rfl

theorem State.startScan_worn {s0 s : State} {a : ArrId} (hk : Worn s0 s) : Worn s0 (State.startScan s a) :=
  Worn.pass hk (State.startScan_only (K := 16384) (Only.refl _) (Needs.refl _)) rfl

theorem State.queueProgram_worn {s0 s : State} {a : ArrId} (hk : Worn s0 s) : Worn s0 (State.queueProgram s a) :=
  Worn.pass hk (State.queueProgram_only (K := 16384) (Only.refl _) (Needs.refl _)) rfl

theorem State.bindArray_worn {s0 s : State} {a : ArrId} (hk : Worn s0 s) : Worn s0 (State.bindArray s a) := by
  unfold State.bindArray
  with_reducible repeat' first
    | assumption | refine State.modDir_worn ?_ (fun _ => ?_) | apply State.queueProgram_worn | apply State.requestCal_worn
    | apply State.startScan_worn | exact Nat.le_refl _ | exact Nat.le_succ _ | apply Worn.cond | split | (dsimp only; split)
    | fail_if_no_progress refine Worn.mk' ?_ rfl rfl

theorem execRecordBuilt_worn {s : State} {a : ArrId} : KeptW s (execRecordBuilt a s) := by
  unfold execRecordBuilt
  with_reducible repeat' first
    | assumption | apply KeptW.next | apply KeptW.fault | apply KeptW.cond | exact Worn.refl _ | apply State.bindArray_worn
    | apply State.outOfService_worn | apply State.queueProgram_worn | apply State.setRecord_worn | exact Nat.le_refl _
    | exact Nat.le_succ _ | apply Worn.cond | split | (dsimp only; split) | fail_if_no_progress refine Worn.mk' ?_ rfl rfl

theorem State.beginProgram_worn {s0 s : State} {t : TileId} {p : Program} (hk : Worn s0 s) : Worn s0 (State.beginProgram s t p) := by
  unfold State.beginProgram
  with_reducible repeat' first
    | assumption | refine State.modDir_worn ?_ (fun _ => ?_) | apply State.modTile_worn | apply State.raise_worn | exact Nat.le_refl _
    | exact Nat.le_succ _ | apply Worn.cond | split | (dsimp only; split) | fail_if_no_progress refine Worn.mk' ?_ rfl rfl

theorem State.rewritePlace_worn {s0 s : State} {die : Nat} (hk : Worn s0 s) : Worn s0 (State.rewritePlace s die) :=
  Worn.pass hk (State.rewritePlace_only (K := 16384) (Only.refl _) (Needs.refl _)) rfl

theorem State.takeDriver_worn {s0 s : State} {t : TileId} {p : Program} (hk : Worn s0 s) : Worn s0 (State.takeDriver s t p) := by
  unfold State.takeDriver
  with_reducible repeat' first
    | assumption | apply State.beginProgram_worn | apply State.discardRun_worn | apply State.modTile_worn | exact Nat.le_refl _
    | exact Nat.le_succ _ | apply Worn.cond | split | (dsimp only; split) | fail_if_no_progress refine Worn.mk' ?_ rfl rfl

theorem execProgramStart_worn {s : State} {t : TileId} : KeptW s (execProgramStart t s) := by
  unfold execProgramStart
  with_reducible repeat' first
    | assumption | apply KeptW.next | apply KeptW.fault | apply KeptW.cond | exact Worn.refl _ | apply State.rewritePlace_worn
    | apply State.takeDriver_worn | exact Nat.le_refl _ | exact Nat.le_succ _ | apply Worn.cond | split | (dsimp only; split)
    | fail_if_no_progress refine Worn.mk' ?_ rfl rfl

theorem State.yieldLoad_worn {s0 s : State} {t : TileId} {p : Program} (hk : Worn s0 s) : Worn s0 (State.yieldLoad s t p) := by
  unfold State.yieldLoad
  with_reducible repeat' first
    | assumption | apply State.takeDriver_worn | exact Nat.le_refl _ | exact Nat.le_succ _ | apply Worn.cond | split | (dsimp only; split)
    | fail_if_no_progress refine Worn.mk' ?_ rfl rfl

theorem execProgramRowEnd_worn {s : State} {t : TileId} : KeptW s (execProgramRowEnd t s) := by
  unfold execProgramRowEnd
  with_reducible repeat' first
    | assumption | apply KeptW.next | apply KeptW.fault | apply KeptW.cond | exact Worn.refl _ | apply State.modTile_worn
    | apply State.yieldLoad_worn | exact Nat.le_refl _ | exact Nat.le_succ _ | apply Worn.cond | split | (dsimp only; split)
    | fail_if_no_progress refine Worn.mk' ?_ rfl rfl

theorem State.programWritten_worn {s0 s : State} {t : TileId} {p : Program} (hk : Worn s0 s) : Worn s0 (State.programWritten s t p) := by
  unfold State.programWritten
  with_reducible repeat' first
    | assumption | refine State.modDir_worn ?_ (fun _ => ?_) | exact Nat.le_refl _ | exact Nat.le_succ _ | apply Worn.cond | split
    | (dsimp only; split) | fail_if_no_progress refine Worn.mk' ?_ rfl rfl

theorem State.driverFree_worn {s0 s : State} {t : TileId} (hk : Worn s0 s) : Worn s0 (State.driverFree s t) :=
  Worn.pass hk (State.driverFree_only (K := 16384) (Only.refl _) (Needs.refl _)) rfl

theorem State.repeatProgram_worn {s0 s : State} {t : TileId} {p : Program} (hk : Worn s0 s) : Worn s0 (State.repeatProgram s t p) := by
  unfold State.repeatProgram
  with_reducible repeat' first
    | assumption | apply State.beginProgram_worn | apply State.modTile_worn | exact Nat.le_refl _ | exact Nat.le_succ _ | apply Worn.cond
    | split | (dsimp only; split) | fail_if_no_progress refine Worn.mk' ?_ rfl rfl

theorem State.programFails_worn {s0 s : State} {t : TileId} {p : Program} (hk : Worn s0 s) : Worn s0 (State.programFails s t p) := by
  unfold State.programFails
  with_reducible repeat' first
    | assumption | apply State.drain_worn | apply State.driverFree_worn | exact Nat.le_refl _ | exact Nat.le_succ _ | apply Worn.cond
    | split | (dsimp only; split) | fail_if_no_progress refine Worn.mk' ?_ rfl rfl

theorem execProgramComplete_worn {s : State} {t : TileId} {ok : Bool} : KeptW s (execProgramComplete t ok s) := by
  unfold execProgramComplete
  with_reducible repeat' first
    | assumption | apply KeptW.next | apply KeptW.fault | apply KeptW.cond | exact Worn.refl _ | apply State.active_worn
    | apply State.driverFree_worn | apply State.modTile_worn | apply State.programFails_worn | apply State.programWritten_worn
    | apply State.repeatProgram_worn | apply State.tryEntry_worn | exact Nat.le_refl _ | exact Nat.le_succ _ | apply Worn.cond | split
    | (dsimp only; split) | fail_if_no_progress refine Worn.mk' ?_ rfl rfl

theorem State.spareReady_worn {s0 s : State} {t : TileId} {k : Nat} (hk : Worn s0 s) : Worn s0 (State.spareReady s t k) :=
  Worn.pass hk (State.spareReady_only (K := 16384) (Only.refl _) (Needs.refl _)) rfl

theorem State.loadSpare_worn {s0 s : State} {t : TileId} {k : Nat} (hk : Worn s0 s) : Worn s0 (State.loadSpare s t k) := by
  unfold State.loadSpare
  with_reducible repeat' first
    | assumption | refine State.modDir_worn ?_ (fun _ => ?_) | apply State.modTile_worn | exact Nat.le_refl _ | exact Nat.le_succ _
    | apply Worn.cond | split | (dsimp only; split) | fail_if_no_progress refine Worn.mk' ?_ rfl rfl

theorem State.claimSpare_worn {s0 s : State} {t : TileId} {kind : ClaimKind} {k : Nat} (hk : Worn s0 s) : Worn s0 (State.claimSpare s t
    kind k) := by
  unfold State.claimSpare
  with_reducible repeat' first
    | assumption | apply State.loadSpare_worn | apply State.modTile_worn | apply State.spareReady_worn | exact Nat.le_refl _
    | exact Nat.le_succ _ | apply Worn.cond | split | (dsimp only; split) | fail_if_no_progress refine Worn.mk' ?_ rfl rfl

theorem State.retireSpare_worn {s0 s : State} {t : TileId} (hk : Worn s0 s) : Worn s0 (State.retireSpare s t) := by
  unfold State.retireSpare
  with_reducible repeat' first
    | assumption | apply State.endClaim_worn | apply State.idleSpare_worn | refine State.modDir_worn ?_ (fun _ => ?_) | exact Nat.le_refl _
    | exact Nat.le_succ _ | apply Worn.cond | split | (dsimp only; split) | fail_if_no_progress refine Worn.mk' ?_ rfl rfl

theorem State.spareSettled_worn {s0 s : State} {t : TileId} {k : Nat} {calRecord : Bool} (hk : Worn s0 s) : Worn s0 (State.spareSettled s
    t k calRecord) := by
  unfold State.spareSettled
  with_reducible repeat' first
    | assumption | apply State.idleSpare_worn | apply State.loadSpare_worn | refine State.modDir_worn ?_ (fun _ => ?_)
    | apply State.modTile_worn | apply State.spareReady_worn | apply State.zeroDrift_worn | exact Nat.le_refl _ | exact Nat.le_succ _
    | apply Worn.cond | split | (dsimp only; split) | fail_if_no_progress refine Worn.mk' ?_ rfl rfl

theorem State.askIfUnsound_worn {s0 s : State} {a : ArrId} (hk : Worn s0 s) : Worn s0 (State.askIfUnsound s a) :=
  Worn.pass hk (State.askIfUnsound_only (K := 16384) (Only.refl _) (Needs.refl _)) rfl

theorem State.recordLost_worn {s0 s : State} {a : ArrId} (hk : Worn s0 s) : Worn s0 (State.recordLost s a) := by
  unfold State.recordLost
  with_reducible repeat' first
    | assumption | apply State.outOfService_worn | exact Nat.le_refl _ | exact Nat.le_succ _ | apply Worn.cond | split
    | (dsimp only; split) | fail_if_no_progress refine Worn.mk' ?_ rfl rfl

theorem State.arraySettled_worn {s0 s : State} {t : TileId} {k : Nat} (hk : Worn s0 s) : Worn s0 (State.arraySettled s t k) := by
  unfold State.arraySettled
  with_reducible repeat' first
    | assumption | apply State.askIfUnsound_worn | refine State.modDir_worn ?_ (fun _ => ?_) | apply State.modTile_worn
    | apply State.recordLost_worn | apply State.zeroDrift_worn | exact Nat.le_refl _ | exact Nat.le_succ _ | apply Worn.cond | split
    | (dsimp only; split) | fail_if_no_progress refine Worn.mk' ?_ rfl rfl

theorem execSettlingDone_worn {s : State} {t : TileId} : KeptW s (execSettlingDone t s) := by
  unfold execSettlingDone
  with_reducible repeat' first
    | assumption | apply KeptW.next | apply KeptW.fault | apply KeptW.cond | exact Worn.refl _ | apply State.arraySettled_worn
    | apply State.modTile_worn | apply State.retireSpare_worn | apply State.spareSettled_worn | apply State.tryEntry_worn
    | exact Nat.le_refl _ | exact Nat.le_succ _ | apply Worn.cond | split | (dsimp only; split)
    | fail_if_no_progress refine Worn.mk' ?_ rfl rfl

theorem execRewriteStart_worn {s : State} {a : ArrId} : KeptW s (execRewriteStart a s) := by
  unfold execRewriteStart
  with_reducible repeat' first
    | assumption | apply KeptW.next | apply KeptW.fault | apply KeptW.cond | exact Worn.refl _ | apply State.claimSpare_worn
    | apply State.programUnderCover_worn | exact Nat.le_refl _ | exact Nat.le_succ _ | apply Worn.cond | split | (dsimp only; split)
    | fail_if_no_progress refine Worn.mk' ?_ rfl rfl

theorem execDirectRewriteStart_worn {s : State} {a : ArrId} : KeptW s (execDirectRewriteStart a s) := by
  unfold execDirectRewriteStart
  with_reducible repeat' first
    | assumption | apply KeptW.next | apply KeptW.fault | apply KeptW.cond | exact Worn.refl _ | apply State.endClaim_worn
    | refine State.modDir_worn ?_ (fun _ => ?_) | apply State.modTile_worn | apply State.rewritePlace_worn | apply State.takeDriver_worn
    | exact Nat.le_refl _ | exact Nat.le_succ _ | apply Worn.cond | split | (dsimp only; split)
    | fail_if_no_progress refine Worn.mk' ?_ rfl rfl

theorem State.spareFails_worn {s0 s : State} {t : TileId} (hk : Worn s0 s) : Worn s0 (State.spareFails s t) := by
  unfold State.spareFails
  with_reducible repeat' first
    | assumption | apply State.dropRun_worn | apply State.endClaim_worn | apply State.idleSpare_worn | apply State.loadSpare_worn
    | refine State.modDir_worn ?_ (fun _ => ?_) | exact Nat.le_refl _ | exact Nat.le_succ _ | apply Worn.cond | split | (dsimp only; split)
    | fail_if_no_progress refine Worn.mk' ?_ rfl rfl

theorem State.readBackFails_worn {s0 s : State} {a : ArrId} {cells : Nat} (hk : Worn s0 s) : Worn s0 (State.readBackFails s a cells) := by
  unfold State.readBackFails
  with_reducible repeat' first
    | assumption | refine State.modDir_worn ?_ (fun _ => ?_) | apply State.outOfService_worn | apply State.queueProgram_worn
    | apply State.raise_worn | apply State.spareFails_worn | exact Nat.le_refl _ | exact Nat.le_succ _ | apply Worn.cond | split
    | (dsimp only; split) | fail_if_no_progress refine Worn.mk' ?_ rfl rfl

theorem State.modSeal_worn {s0 s : State} {f : Seal → Seal} (hk : Worn s0 s) : Worn s0 (State.modSeal s f) :=
  Worn.pass hk (State.modSeal_only (K := 32) (Only.refl _) (Needs.refl _)) rfl

theorem State.scanned_worn {s0 s : State} {crc : Word} (hk : Worn s0 s) : Worn s0 (State.scanned s crc) := by
  unfold State.scanned
  with_reducible repeat' first
    | assumption | apply State.modSeal_worn | apply State.drain_worn | apply State.raise_worn | apply Worn.cond | split
    | (dsimp only; split)

theorem execVerifyScanDone_worn {s : State} {a : ArrId} {raw : List (List (List Int))} : KeptW s (execVerifyScanDone a raw s) := by
  unfold execVerifyScanDone
  with_reducible repeat' first
    | assumption | apply KeptW.next | apply KeptW.fault | apply KeptW.cond | exact Worn.refl _ | apply State.active_worn
    | apply State.askIfUnsound_worn | refine State.modDir_worn ?_ (fun _ => ?_) | apply State.modTile_worn | apply State.nextDraw_worn
    | apply State.readBackFails_worn | apply State.scanned_worn | apply State.setDrift_worn | refine State.withSet_worn ?_ (fun _ _ => ?_)
    | exact Nat.le_refl _ | exact Nat.le_succ _ | apply Worn.cond | split | (dsimp only; split)
    | fail_if_no_progress refine Worn.mk' ?_ rfl rfl

theorem execDriftOutOfService_worn {s : State} {a : ArrId} : KeptW s (execDriftOutOfService a s) := by
  unfold execDriftOutOfService
  with_reducible repeat' first
    | assumption | apply KeptW.next | apply KeptW.fault | apply KeptW.cond | exact Worn.refl _ | apply State.outOfService_worn
    | apply State.raise_worn | apply State.spareFails_worn | exact Nat.le_refl _ | exact Nat.le_succ _ | apply Worn.cond | split
    | (dsimp only; split) | fail_if_no_progress refine Worn.mk' ?_ rfl rfl

theorem State.invalidateMaster_worn {s0 s : State} {model : Nat} {index : Nat} (hk : Worn s0 s) : Worn s0 (State.invalidateMaster s
    model index) := by
  unfold State.invalidateMaster
  with_reducible repeat' first
    | assumption | apply State.async_worn | apply Worn.cond | fail_if_no_progress refine Worn.mk' ?_ rfl rfl | split
    | (dsimp only; split)

theorem State.rebuildRecord_worn {s0 s : State} {a : ArrId} (hk : Worn s0 s) : Worn s0 (State.rebuildRecord s a) := by
  unfold State.rebuildRecord
  with_reducible repeat' first
    | assumption | apply State.dropRecord_worn | apply State.invalidateMaster_worn | apply State.outOfService_worn
    | apply State.setRecord_worn | exact Nat.le_refl _ | exact Nat.le_succ _ | apply Worn.cond | split | (dsimp only; split)
    | fail_if_no_progress refine Worn.mk' ?_ rfl rfl

theorem execRedigest_worn {s : State} {masters : List (Nat × Nat)} {records : List ArrId} : KeptW s (execRedigest masters records s) := by
  unfold execRedigest
  with_reducible repeat' first
    | assumption | apply KeptW.next | apply KeptW.fault | apply KeptW.cond | exact Worn.refl _ | apply State.wakeForTask_worn
    | apply State.rebuildRecord_worn | apply State.invalidateMaster_worn | apply Worn.cond | refine Worn.foldl ?_ fun _ _ _ => ?_ | split
    | (dsimp only; split)

theorem State.setTileRecord_worn {s0 s : State} {r : TileRecord} (hk : Worn s0 s) : Worn s0 (State.setTileRecord s r) :=
  Worn.pass hk (State.setTileRecord_only (K := 65536) (Only.refl _) (Needs.refl _)) rfl

theorem State.spareCalibrated_worn {s0 s : State} {t : TileId} (hk : Worn s0 s) : Worn s0 (State.spareCalibrated s t) :=
  Worn.pass hk (State.spareCalibrated_only (K := 16384) (Only.refl _) (Needs.refl _)) rfl

theorem State.runSucceeds_worn {s0 s : State} {t : TileId} {r : CalRun} {anchor : Anchor} {shape : List Anchor} (hk : Worn s0 s) : Worn s0
    (State.runSucceeds s t r anchor shape) := by
  unfold State.runSucceeds
  with_reducible repeat' first
    | assumption | apply State.modTile_worn | apply State.setFranking_worn | apply State.setTileRecord_worn
    | apply State.spareCalibrated_worn | apply State.startScan_worn | refine State.withSet_worn ?_ (fun _ _ => ?_) | exact Nat.le_refl _
    | exact Nat.le_succ _ | apply Worn.cond | split | (dsimp only; split) | fail_if_no_progress refine Worn.mk' ?_ rfl rfl

theorem State.promote_worn {s0 s : State} {a : ArrId} (hk : Worn s0 s) : Worn s0 (State.promote s a) :=
  Worn.pass hk (State.promote_only (K := 16384) (Only.refl _) (Needs.refl _)) rfl

theorem State.runFailed_worn {s0 s : State} {a : ArrId} (hk : Worn s0 s) : Worn s0 (State.runFailed s a) :=
  Worn.pass hk (State.runFailed_only (K := 16400) (Only.refl _) (Needs.refl _)) rfl

theorem State.runFails_worn {s0 s : State} {t : TileId} {r : CalRun} (hk : Worn s0 s) : Worn s0 (State.runFails s t r) := by
  unfold State.runFails
  with_reducible repeat' first
    | assumption | apply State.drain_worn | apply State.modFranking_worn | apply State.modTile_worn | apply State.promote_worn
    | apply State.runFailed_worn | exact Nat.le_refl _ | exact Nat.le_succ _ | apply Worn.cond | split | (dsimp only; split)
    | fail_if_no_progress refine Worn.mk' ?_ rfl rfl

theorem execCalibrationFitDone_worn {s : State} {t : TileId} {raw : List (List Int)} {overRange : Bool} : KeptW s (execCalibrationFitDone
    t raw overRange s) := by
  unfold execCalibrationFitDone
  with_reducible repeat' first
    | assumption | apply KeptW.next | apply KeptW.fault | apply KeptW.cond | exact Worn.refl _ | apply State.active_worn
    | apply State.runFails_worn | apply State.runSucceeds_worn | exact Nat.le_refl _ | exact Nat.le_succ _ | apply Worn.cond | split
    | (dsimp only; split) | fail_if_no_progress refine Worn.mk' ?_ rfl rfl

theorem State.startTrace_worn {s0 s : State} (hk : Worn s0 s) : Worn s0 (State.startTrace s) :=
  Worn.pass hk (State.startTrace_only (K := 65600) (Only.refl _) (Needs.refl _)) rfl

theorem State.traceEnds_worn {s0 s : State} {refin : List Nat} (hk : Worn s0 s) : Worn s0 (State.traceEnds s refin) :=
  Worn.pass hk (State.traceEnds_only (K := 65600) (Only.refl _) (Needs.refl _)) rfl

theorem State.firstWarnings_worn {s0 s : State} {before : State} {keep : ArrId → Bool} (hk : Worn s0 s) : Worn s0 (State.firstWarnings s
    before keep) :=
  Worn.pass hk (State.firstWarnings_only (K := 16) (Only.refl _) (Needs.refl _)) rfl

theorem State.firstEver_worn {s0 s : State} {anchors : List (ArrId × Option Anchor)} (hk : Worn s0 s) : Worn s0 (s.firstEver anchors) := by
  unfold State.firstEver
  refine Worn.map hk (fun e => if s.takenByParcel e.1 || (s.dir e.1).retired then e else firstEntry s.stamp e)
    (fun e => by dsimp only [firstEntry]; split <;> [rfl; (split <;> rfl)]) (fun e => ?_) rfl ?_
  · dsimp only [firstEntry]
    repeat' split
    all_goals first | exact Nat.le_refl _ | exact Nat.le_succ _
  · dsimp only
    split
    · exact Nat.le_refl _
    · exact Nat.le_succ _

theorem State.startTrims_worn {s0 s : State} {refin : List Nat} {ladder : List Nat} {vcref : List Nat} (hk : Worn s0 s) : Worn s0
    (State.startTrims s refin ladder vcref) :=
  Worn.pass hk (State.startTrims_only (K := 65536) (Only.refl _) (Needs.refl _)) rfl

theorem State.firstFails_worn {s0 s : State} {anchors : List (ArrId × Option Anchor)} (hk : Worn s0 s) : Worn s0 (State.firstFails s
    anchors) := by
  unfold State.firstFails
  with_reducible repeat' first
    | assumption | apply State.drain_worn | apply State.runFailed_worn | exact Nat.le_refl _ | exact Nat.le_succ _ | apply Worn.cond
    | refine Worn.foldl ?_ fun _ _ _ => ?_ | split | (dsimp only; split) | fail_if_no_progress refine Worn.mk' ?_ rfl rfl

theorem execFirstEverCalibration_worn {s : State} {trace : TraceReadings} {runs : List (ArrId × List (List Int) × Bool)} : KeptW s
    (execFirstEverCalibration trace runs s) := by
  unfold execFirstEverCalibration
  with_reducible repeat' first
    | assumption | apply KeptW.next | apply KeptW.fault | apply KeptW.cond | exact Worn.refl _ | apply State.firstEver_worn
    | apply State.firstFails_worn | apply State.firstWarnings_worn | apply State.raise_worn | apply State.startTrace_worn
    | apply State.startTrims_worn | apply State.traceEnds_worn | exact Nat.le_refl _ | exact Nat.le_succ _ | apply Worn.cond | split
    | (dsimp only; split) | fail_if_no_progress refine Worn.mk' ?_ rfl rfl

theorem State.watchRun_worn {s0 s : State} {t : TileId} (hk : Worn s0 s) : Worn s0 (State.watchRun s t) := by
  unfold State.watchRun
  with_reducible repeat' first
    | assumption | apply State.modFranking_worn | apply State.modTile_worn | exact Nat.le_refl _ | exact Nat.le_succ _ | apply Worn.cond
    | split | (dsimp only; split) | fail_if_no_progress refine Worn.mk' ?_ rfl rfl

theorem State.resolveStamps_worn {s0 s : State} {v : Nat} (hk : Worn s0 s) : Worn s0 (s.resolveStamps v) := by
  unfold State.resolveStamps
  exact Worn.map hk (fun (e : ArrId × DirEntry) => (e.1, { e.2 with progTime := Stamp.at v e.2.progTime })) (fun _ => rfl)
    (fun _ => Nat.le_refl _) rfl (Nat.le_refl _)

theorem State.modBox_worn {s0 s : State} {n : Nat} {f : Letterbox → Letterbox} (hk : Worn s0 s) : Worn s0 (State.modBox s n f) :=
  Worn.pass hk (State.modBox_only (K := 32) (Only.refl _) (Needs.refl _)) rfl

theorem State.selectBox_worn {s0 s : State} {n : Nat} {v : Nat} (hk : Worn s0 s) : Worn s0 (State.selectBox s n v) :=
  Worn.pass hk (State.selectBox_only (K := 32) (Only.refl _) (Needs.refl _)) rfl

theorem State.clearRecords_worn {s0 s : State} {v : Nat} (hk : Worn s0 s) : Worn s0 (State.clearRecords s v) :=
  Worn.pass hk (State.clearRecords_only (K := 16) (Only.refl _) (Needs.refl _)) rfl

theorem State.openSeal_worn {s0 s : State} (hk : Worn s0 s) : Worn s0 (State.openSeal s) :=
  Worn.pass hk (State.openSeal_only (K := 32) (Only.refl _) (Needs.refl _)) rfl

theorem State.sealAction_worn {s0 s : State} {v : Nat} (hk : Worn s0 s) : Worn s0 (State.sealAction s v) :=
  Worn.pass hk (State.sealAction_only (K := 32) (Only.refl _) (Needs.refl _)) rfl

theorem State.upset_worn {s0 s : State} {u : Nat × Word} (hk : Worn s0 s) : Worn s0 (State.upset s u) :=
  Worn.pass hk (State.upset_only (K := 32) (Only.refl _) (Needs.refl _)) rfl

theorem execSealScan_worn {s : State} {upsets : List (Nat × Word)} : KeptW s (execSealScan upsets s) := by
  unfold execSealScan
  with_reducible repeat' first
    | assumption | apply KeptW.next | apply KeptW.fault | apply KeptW.cond | exact Worn.refl _ | apply State.upset_worn
    | apply State.scanned_worn | apply Worn.cond | refine Worn.foldl ?_ fun _ _ _ => ?_ | split | (dsimp only; split)

theorem State.markRead_worn {s0 s : State} {slot : Nat} (hk : Worn s0 s) : Worn s0 (State.markRead s slot) :=
  Worn.pass hk (State.markRead_only (K := 8) (Only.refl _) (Needs.refl _)) rfl

theorem State.deadControl_worn {s0 s : State} {v : Nat} (hk : Worn s0 s) : Worn s0 (State.deadControl s v) := by
  unfold State.deadControl
  with_reducible repeat' first
    | assumption | apply State.markRead_worn | apply State.resetModule_worn | apply Worn.cond
    | fail_if_no_progress refine Worn.mk' ?_ rfl rfl

theorem State.adcActions_worn {s0 s : State} {n : Nat} {acts : List AdcAction} (hk : Worn s0 s) : Worn s0 (State.adcActions s n acts) :=
  Worn.pass hk (State.adcActions_only (K := 64) (Only.refl _) (Needs.refl _)) rfl

theorem State.writeAdcCtl_worn {s0 s : State} {n : Nat} {v : Nat} (hk : Worn s0 s) : Worn s0 (State.writeAdcCtl s n v) :=
  Worn.pass hk (State.writeAdcCtl_only (K := 96) (Only.refl _) (Needs.refl _)) rfl

theorem State.restartStale_worn {s0 s : State} (hk : Worn s0 s) : Worn s0 (State.restartStale s) :=
  Worn.pass hk (State.restartStale_only (K := 512) (Only.refl _) (Needs.refl _)) rfl

theorem State.putRegister_worn {s0 s : State} {p : Path} {a : Nat} {v : Nat} (hk : Worn s0 s) : Worn s0 (State.putRegister s p a v) := by
  unfold State.putRegister
  with_reducible repeat' first
    | assumption | apply State.store_worn | apply State.selectBox_worn | apply State.modBox_worn | apply State.clearRecords_worn
    | apply State.sealAction_worn | apply State.restartStale_worn | apply State.writeAdcCtl_worn | apply State.adcActions_worn
    | apply State.deadControl_worn | apply Worn.cond | fail_if_no_progress refine Worn.mk' ?_ rfl rfl

theorem State.hostWrites_worn {s0 s : State} {l : List (Nat × Nat)} (hk : Worn s0 s) : Worn s0 (State.hostWrites s l) := by
  unfold State.hostWrites
  with_reducible repeat' first
    | assumption | apply State.commitSeal_worn | apply State.putRegister_worn | apply State.openSeal_worn
    | refine Worn.foldl ?_ fun _ _ _ => ?_

theorem State.pathWrite_worn {s0 s : State} {p : Path} {a : Nat} {v : Nat} (hk : Worn s0 s) : Worn s0 (State.pathWrite s p a v) := by
  unfold State.pathWrite
  with_reducible repeat' first
    | assumption | apply State.hostWrites_worn | apply State.putRegister_worn | exact Nat.le_refl _ | exact Nat.le_succ _ | apply Worn.cond
    | split | (dsimp only; split) | fail_if_no_progress refine Worn.mk' ?_ rfl rfl

theorem execRegisterWrite_worn {s : State} {p : Path} {addr : Nat} {value : Word} : KeptW s (execRegisterWrite p addr value s) := by
  unfold execRegisterWrite
  with_reducible repeat' first
    | assumption | apply KeptW.next | apply KeptW.fault | apply KeptW.cond | exact Worn.refl _ | apply State.pathWrite_worn | split
    | (dsimp only; split)

theorem execSealOpen_worn {s : State} {p : Path} {value : Word} : KeptW s (execSealOpen p value s) := by
  unfold execSealOpen
  with_reducible repeat' first
    | assumption | apply KeptW.next | apply KeptW.fault | apply KeptW.cond | exact Worn.refl _ | apply State.pathWrite_worn | split
    | (dsimp only; split)

theorem execSealCommit_worn {s : State} {p : Path} {value : Word} : KeptW s (execSealCommit p value s) := by
  unfold execSealCommit
  with_reducible repeat' first
    | assumption | apply KeptW.next | apply KeptW.fault | apply KeptW.cond | exact Worn.refl _ | apply State.pathWrite_worn | split
    | (dsimp only; split)

theorem execTraceNow_worn {s : State} {p : Path} {value : Word} : KeptW s (execTraceNow p value s) := by
  unfold execTraceNow
  with_reducible repeat' first
    | assumption | apply KeptW.next | apply KeptW.fault | apply KeptW.cond | exact Worn.refl _ | apply State.pathWrite_worn | split
    | (dsimp only; split)

theorem execLbSelWrite_worn {s : State} {p : Path} {n : Nat} {value : Word} : KeptW s (execLbSelWrite p n value s) := by
  unfold execLbSelWrite
  with_reducible repeat' first
    | assumption | apply KeptW.next | apply KeptW.fault | apply KeptW.cond | exact Worn.refl _ | apply State.pathWrite_worn
    | apply Worn.cond | split | (dsimp only; split)

theorem execEvrNewestWrite_worn {s : State} {p : Path} {value : Word} : KeptW s (execEvrNewestWrite p value s) := by
  unfold execEvrNewestWrite
  with_reducible repeat' first
    | assumption | apply KeptW.next | apply KeptW.fault | apply KeptW.cond | exact Worn.refl _ | apply State.pathWrite_worn | split
    | (dsimp only; split)

theorem execDlCtlClear_worn {s : State} {p : Path} {value : Word} : KeptW s (execDlCtlClear p value s) := by
  unfold execDlCtlClear
  with_reducible repeat' first
    | assumption | apply KeptW.next | apply KeptW.fault | apply KeptW.cond | exact Worn.refl _ | apply State.pathWrite_worn | split
    | (dsimp only; split)

theorem execDlCtlRestart_worn {s : State} {p : Path} {value : Word} : KeptW s (execDlCtlRestart p value s) := by
  unfold execDlCtlRestart
  with_reducible repeat' first
    | assumption | apply KeptW.next | apply KeptW.fault | apply KeptW.cond | exact Worn.refl _ | apply State.pathWrite_worn | split
    | (dsimp only; split)

theorem execDlWinWrite_worn {s : State} {p : Path} {value : Word} : KeptW s (execDlWinWrite p value s) := by
  unfold execDlWinWrite
  with_reducible repeat' first
    | assumption | apply KeptW.next | apply KeptW.fault | apply KeptW.cond | exact Worn.refl _ | apply State.pathWrite_worn | split
    | (dsimp only; split)

theorem execIntakeCtlWrite_worn {s : State} {p : Path} {value : Word} : KeptW s (execIntakeCtlWrite p value s) := by
  unfold execIntakeCtlWrite
  with_reducible repeat' first
    | assumption | apply KeptW.next | apply KeptW.fault | apply KeptW.cond | exact Worn.refl _ | apply State.pathWrite_worn | split
    | (dsimp only; split)

theorem execSadcStart_worn {s : State} {p : Path} {n : Nat} {value : Word} : KeptW s (execSadcStart p n value s) := by
  unfold execSadcStart
  with_reducible repeat' first
    | assumption | apply KeptW.next | apply KeptW.fault | apply KeptW.cond | exact Worn.refl _ | apply State.pathWrite_worn
    | apply Worn.cond | split | (dsimp only; split)

theorem execSadcStop_worn {s : State} {p : Path} {n : Nat} {value : Word} : KeptW s (execSadcStop p n value s) := by
  unfold execSadcStop
  with_reducible repeat' first
    | assumption | apply KeptW.next | apply KeptW.fault | apply KeptW.cond | exact Worn.refl _ | apply State.pathWrite_worn
    | apply Worn.cond | split | (dsimp only; split)

theorem execSadcGo_worn {s : State} {p : Path} {n : Nat} {value : Word} : KeptW s (execSadcGo p n value s) := by
  unfold execSadcGo
  with_reducible repeat' first
    | assumption | apply KeptW.next | apply KeptW.fault | apply KeptW.cond | exact Worn.refl _ | apply State.pathWrite_worn
    | apply Worn.cond | split | (dsimp only; split)

theorem State.releaseCompletions_worn {s0 s : State} {qn : Nat} {n : Nat} (hk : Worn s0 s) : Worn s0 (State.releaseCompletions s qn
    n) := by
  unfold State.releaseCompletions
  with_reducible repeat' first
    | assumption | apply State.modQueue_worn | apply State.tryEntry_worn | apply State.sweep_worn | apply State.deliver_worn

theorem State.writeCompHead_worn {s0 s : State} {qn : Nat} {v : Nat} (hk : Worn s0 s) : Worn s0 (State.writeCompHead s qn v) := by
  unfold State.writeCompHead
  with_reducible repeat' first
    | assumption | apply State.releaseCompletions_worn | apply Worn.cond | split | (dsimp only; split)

theorem State.writeEvtHead_worn {s0 s : State} {v : Nat} (hk : Worn s0 s) : Worn s0 (State.writeEvtHead s v) :=
  Worn.pass hk (State.writeEvtHead_only (K := 16) (Only.refl _) (Needs.refl _)) rfl

theorem State.writeEmulated_worn {s0 s : State} {a : Nat} {v : Nat} (hk : Worn s0 s) : Worn s0 (State.writeEmulated s a v) := by
  unfold State.writeEmulated
  with_reducible repeat' first
    | assumption | apply State.writeEvtHead_worn | apply State.writeCompHead_worn | apply Worn.cond

theorem execCompHeadWrite_worn {s : State} {queue : Nat} {value : Word} : KeptW s (execCompHeadWrite queue value s) := by
  unfold execCompHeadWrite
  with_reducible repeat' first
    | assumption | apply KeptW.next | apply KeptW.fault | apply KeptW.cond | exact Worn.refl _ | apply State.writeCompHead_worn
    | apply Worn.cond | split | (dsimp only; split)

theorem State.modIntake_worn {s0 s : State} {port : Nat} {chan : Nat} {f : Intake → Intake} (hk : Worn s0 s) : Worn s0 (State.modIntake s
    port chan f) :=
  Worn.pass hk (State.modIntake_only (K := 512) (Only.refl _) (Needs.refl _)) rfl

theorem State.queueFrame_worn {s0 s : State} {h : FrameHdr} {chan : Nat} {type : Nat} {payload : Bytes} (hk : Worn s0 s) : Worn s0
    (State.queueFrame s h chan type payload) :=
  Worn.pass hk (State.queueFrame_only (K := 512) (Only.refl _) (Needs.refl _)) rfl

theorem State.judge_worn {s0 s : State} {h : FrameHdr} {chan : Nat} {type : Nat} {needsLease : Bool} {lenOk : Bool} {f : State → State}
    {g : State → Nat → State} (hk : Worn s0 s) (hf : ∀ x, Worn s0 x → Worn s0 (f x))
    (hg : ∀ x n, Worn s0 x → Worn s0 (g x n)) : Worn s0 (State.judge s h chan type needsLease lenOk f g) := by
  unfold State.judge
  with_reducible repeat' first
    | assumption | apply hg | apply hf | apply State.modIntake_worn | apply Worn.cond | split | (dsimp only; split)
    | fail_if_no_progress refine Worn.mk' ?_ rfl rfl

theorem State.takeChecked_worn {s0 s : State} {h : FrameHdr} {chan : Nat} {type : Nat} {payload : Bytes} {needsLease : Bool} {lenOk :
    Bool} {f : State → State} {g : State → Nat → State} (hk : Worn s0 s) (hf : ∀ x, Worn s0 x → Worn s0 (f x))
    (hg : ∀ x n, Worn s0 x → Worn s0 (g x n)) : Worn s0 (State.takeChecked s h chan type payload needsLease
    lenOk f g) := by
  unfold State.takeChecked
  with_reducible repeat' first
    | assumption | apply hg | apply hf | apply State.frameArrives_worn | apply State.queueFrame_worn | refine State.judge_worn ?_ (fun _ _ => ?_) (fun _ _ _ => ?_)
    | apply Worn.cond | split | (dsimp only; split) | fail_if_no_progress refine Worn.mk' ?_ rfl rfl

theorem State.withFrame_worn {s0 s : State} {h : FrameHdr} {chan : Nat} {type : Nat} {payload : Bytes} {needsLease : Bool} {lenOk : Bool}
    {f : State → State} (hk : Worn s0 s) (hf : ∀ x, Worn s0 x → Worn s0 (f x)) : Worn s0 (State.withFrame s h chan type payload needsLease lenOk f) := by
  unfold State.withFrame
  with_reducible repeat' first
    | assumption | apply hf | refine State.takeChecked_worn ?_ (fun _ _ => ?_) (fun _ _ _ => ?_) | apply State.respond_worn
    | apply Worn.cond | split | (dsimp only; split) | fail_if_no_progress refine Worn.mk' ?_ rfl rfl

theorem State.ack_worn {s0 s : State} {h : FrameHdr} (hk : Worn s0 s) : Worn s0 (State.ack s h) :=
  Worn.pass hk (State.ack_only (K := 512) (Only.refl _) (Needs.refl _)) rfl

theorem State.discardAll_worn {s0 s : State} (hk : Worn s0 s) : Worn s0 (State.discardAll s) := by
  unfold State.discardAll
  with_reducible repeat' first
    | assumption | apply State.deliverAll_worn | apply State.sweep_worn | exact Nat.le_refl _ | exact Nat.le_succ _ | apply Worn.cond
    | split | (dsimp only; split) | fail_if_no_progress refine Worn.mk' ?_ rfl rfl

theorem State.adoptQueue_worn {s0 s : State} {again : Bool} {qn : Nat} (hk : Worn s0 s) : Worn s0 (State.adoptQueue s again qn) :=
  Worn.pass hk (State.adoptQueue_only (K := 3584) (Only.refl _) (Needs.refl _)) rfl

theorem State.adopt_worn {s0 s : State} {again : Bool} (hk : Worn s0 s) : Worn s0 (State.adopt s again) := by
  unfold State.adopt
  with_reducible repeat' first
    | assumption | apply State.adoptQueue_worn | apply State.sweep_worn | exact Nat.le_refl _ | exact Nat.le_succ _ | apply Worn.cond
    | refine Worn.foldl ?_ fun _ _ _ => ?_ | split | (dsimp only; split) | fail_if_no_progress refine Worn.mk' ?_ rfl rfl

theorem State.deliverEnd_worn {s0 s : State} {retained : Nat} (hk : Worn s0 s) : Worn s0 (State.deliverEnd s retained) :=
  Worn.pass hk (State.deliverEnd_only (K := 3600) (Only.refl _) (Needs.refl _)) rfl

theorem State.deliverFlag_worn {s0 s : State} (hk : Worn s0 s) : Worn s0 (State.deliverFlag s) :=
  Worn.pass hk (State.deliverFlag_only (K := 3608) (Only.refl _) (Needs.refl _)) rfl

theorem State.endLease_worn {s0 s : State} {released : Nat} (hk : Worn s0 s) : Worn s0 (State.endLease s released) :=
  Worn.pass hk (State.endLease_only (K := 3600) (Only.refl _) (Needs.refl _)) rfl

theorem State.selectAccepted_worn {s0 s : State} {h : FrameHdr} {p : Bytes} (hk : Worn s0 s) : Worn s0 (State.selectAccepted s h p) := by
  unfold State.selectAccepted
  with_reducible repeat' first
    | assumption | apply State.adopt_worn | apply State.deliverEnd_worn | apply State.deliverFlag_worn | apply State.discardAll_worn
    | apply State.endLease_worn | apply State.modDsp_worn | apply State.sendFrame_worn | apply State.wakeReattach_worn
    | exact Nat.le_refl _ | exact Nat.le_succ _ | apply Worn.cond | split | (dsimp only; split)
    | fail_if_no_progress refine Worn.mk' ?_ rfl rfl

theorem execSelect_worn {s : State} {h : FrameHdr} {payload : Bytes} : KeptW s (execSelect h payload s) := by
  unfold execSelect
  with_reducible repeat' first
    | assumption | apply KeptW.next | apply KeptW.fault | apply KeptW.cond | exact Worn.refl _ | apply State.selectAccepted_worn
    | apply State.sendFrame_worn | refine State.withFrame_worn ?_ (fun _ _ => ?_) | exact Nat.le_refl _ | exact Nat.le_succ _
    | apply Worn.cond | split | (dsimp only; split) | fail_if_no_progress refine Worn.mk' ?_ rfl rfl

theorem State.claimQueue_worn {s0 s : State} {h : FrameHdr} (hk : Worn s0 s) : Worn s0 (State.claimQueue s h) :=
  Worn.pass hk (State.claimQueue_only (K := 1024) (Only.refl _) (Needs.refl _)) rfl

theorem State.submit_worn {s0 s : State} {h : FrameHdr} {q : Queue} {n : Nat} (hk : Worn s0 s) : Worn s0 (State.submit s h q n) :=
  Worn.pass hk (State.submit_only (K := 3584) (Only.refl _) (Needs.refl _)) rfl

theorem State.doorbell_worn {s0 s : State} {h : FrameHdr} {p : Bytes} (hk : Worn s0 s) : Worn s0 (State.doorbell s h p) := by
  unfold State.doorbell
  with_reducible repeat' first
    | assumption | apply State.respond_worn | apply State.claimQueue_worn | apply State.submit_worn | apply State.ack_worn
    | apply State.releaseCompletions_worn | apply Worn.cond | split | (dsimp only; split)

theorem execDoorbellSubmission_worn {s : State} {h : FrameHdr} {payload : Bytes} : KeptW s (execDoorbellSubmission h payload s) := by
  unfold execDoorbellSubmission
  with_reducible repeat' first
    | assumption | apply KeptW.next | apply KeptW.fault | apply KeptW.cond | exact Worn.refl _ | apply State.doorbell_worn
    | refine State.withFrame_worn ?_ (fun _ _ => ?_) | exact Nat.le_refl _ | exact Nat.le_succ _ | apply Worn.cond | split
    | (dsimp only; split) | fail_if_no_progress refine Worn.mk' ?_ rfl rfl

theorem execDoorbellCompletion_worn {s : State} {h : FrameHdr} {payload : Bytes} : KeptW s (execDoorbellCompletion h payload s) := by
  unfold execDoorbellCompletion
  with_reducible repeat' first
    | assumption | apply KeptW.next | apply KeptW.fault | apply KeptW.cond | exact Worn.refl _ | apply State.doorbell_worn
    | refine State.withFrame_worn ?_ (fun _ _ => ?_) | exact Nat.le_refl _ | exact Nat.le_succ _ | apply Worn.cond | split
    | (dsimp only; split) | fail_if_no_progress refine Worn.mk' ?_ rfl rfl

theorem State.cutThrough_worn {s0 s : State} {h : FrameHdr} {type : Nat} {payload : Bytes} {f : State → Bytes → State} (hk : Worn s0 s) (hf : ∀ x p, Worn s0 x → Worn s0 (f x p))
    : Worn s0 (State.cutThrough s h type payload f) := by
  unfold State.cutThrough
  with_reducible repeat' first
    | assumption | apply hf | apply State.frameArrives_worn | apply State.nextDraw_worn | apply Worn.cond | split | (dsimp only; split)
    | fail_if_no_progress refine Worn.mk' ?_ rfl rfl

theorem execParcelFrame_worn {s : State} {h : FrameHdr} {payload : Bytes} : KeptW s (execParcelFrame h payload s) := by
  unfold execParcelFrame
  with_reducible repeat' first
    | assumption | apply KeptW.next | apply KeptW.fault | apply KeptW.cond | exact Worn.refl _ | apply State.ack_worn
    | refine State.cutThrough_worn ?_ (fun _ _ _ => ?_) | apply State.parcelData_worn | apply State.tornParcel_worn
    | refine State.withFrame_worn ?_ (fun _ _ => ?_) | exact Nat.le_refl _ | exact Nat.le_succ _ | apply Worn.cond | split
    | (dsimp only; split) | fail_if_no_progress refine Worn.mk' ?_ rfl rfl

theorem execRegwrite_worn {s : State} {h : FrameHdr} {payload : Bytes} : KeptW s (execRegwrite h payload s) := by
  unfold execRegwrite
  with_reducible repeat' first
    | assumption | apply KeptW.next | apply KeptW.fault | apply KeptW.cond | exact Worn.refl _ | apply State.hostWrites_worn
    | apply State.respond_worn | refine State.withFrame_worn ?_ (fun _ _ => ?_) | apply State.writeEmulated_worn | exact Nat.le_refl _
    | exact Nat.le_succ _ | apply Worn.cond | refine Worn.foldl ?_ fun _ _ _ => ?_ | split | (dsimp only; split)
    | fail_if_no_progress refine Worn.mk' ?_ rfl rfl

theorem State.fetchFails_worn {s0 s : State} {slot : Nat} (hk : Worn s0 s) : Worn s0 (State.fetchFails s slot) :=
  Worn.pass hk (State.fetchFails_only (K := 56848) (Only.refl _) (Needs.refl _)) rfl

theorem execL2getTimeout_worn {s : State} {slot : Nat} : KeptW s (execL2getTimeout slot s) := by
  unfold execL2getTimeout
  with_reducible repeat' first
    | assumption | apply KeptW.next | apply KeptW.fault | apply KeptW.cond | exact Worn.refl _ | apply State.fetchFails_worn
    | apply State.sweep_worn | exact Nat.le_refl _ | exact Nat.le_succ _ | apply Worn.cond | split | (dsimp only; split)
    | fail_if_no_progress refine Worn.mk' ?_ rfl rfl

theorem State.withDlread_worn {s0 s : State} {h : FrameHdr} {payload : Bytes} (hk : Worn s0 s) : Worn s0 (State.withDlread s h
    payload) := by
  unfold State.withDlread
  with_reducible repeat' first
    | assumption | apply State.answerData_worn | apply State.respond_worn | apply State.markRead_worn | apply State.resetModule_worn
    | apply Worn.cond

theorem execDlreadStatus_worn {s : State} {h : FrameHdr} {payload : Bytes} : KeptW s (execDlreadStatus h payload s) := by
  unfold execDlreadStatus
  with_reducible repeat' first
    | assumption | apply KeptW.next | apply KeptW.fault | apply KeptW.cond | exact Worn.refl _ | apply State.withDlread_worn | split
    | (dsimp only; split)

theorem execDlreadRead_worn {s : State} {h : FrameHdr} {payload : Bytes} : KeptW s (execDlreadRead h payload s) := by
  unfold execDlreadRead
  with_reducible repeat' first
    | assumption | apply KeptW.next | apply KeptW.fault | apply KeptW.cond | exact Worn.refl _ | apply State.withDlread_worn | split
    | (dsimp only; split)

theorem execDlreadClear_worn {s : State} {h : FrameHdr} {payload : Bytes} : KeptW s (execDlreadClear h payload s) := by
  unfold execDlreadClear
  with_reducible repeat' first
    | assumption | apply KeptW.next | apply KeptW.fault | apply KeptW.cond | exact Worn.refl _ | apply State.withDlread_worn | split
    | (dsimp only; split)

theorem execDlreadRestart_worn {s : State} {h : FrameHdr} {payload : Bytes} : KeptW s (execDlreadRestart h payload s) := by
  unfold execDlreadRestart
  with_reducible repeat' first
    | assumption | apply KeptW.next | apply KeptW.fault | apply KeptW.cond | exact Worn.refl _ | apply State.withDlread_worn | split
    | (dsimp only; split)

theorem State.setFlitTries_worn {s0 s : State} {key : Nat × Bool × Nat} {n : Nat} (hk : Worn s0 s) : Worn s0 (State.setFlitTries s key n)
    :=
  Worn.pass hk (State.setFlitTries_only (K := 131072) (Only.refl _) (Needs.refl _)) rfl

theorem execBridgeFlitTransfer_worn {s : State} {flit : BridgeFlit} {crcOk : Bool} : KeptW s
    (execBridgeFlitTransfer flit crcOk s) := by
  unfold execBridgeFlitTransfer
  with_reducible repeat' first
    | assumption | apply KeptW.next | apply KeptW.fault | apply KeptW.cond | exact Worn.refl _ | apply State.drain_worn
    | apply State.raise_worn | apply State.setFlitTries_worn | exact Nat.le_refl _ | exact Nat.le_succ _ | apply Worn.cond | split
    | (dsimp only; split) | fail_if_no_progress refine Worn.mk' ?_ rfl rfl

theorem State.modClock_worn {s0 s : State} {f : Clocks → Clocks} (hk : Worn s0 s) : Worn s0 (State.modClock s f) :=
  Worn.pass hk (State.modClock_only (K := 1) (Only.refl _) (Needs.refl _)) rfl

theorem State.loadCounter_worn {s0 s : State} {v : Nat} (hk : Worn s0 s) : Worn s0 (State.loadCounter s v) := by
  unfold State.loadCounter
  with_reducible repeat' first
    | assumption | apply State.judgeAligned_worn | apply State.modClock_worn | apply State.resolveStamps_worn | exact Nat.le_refl _
    | exact Nat.le_succ _ | apply Worn.cond | split | (dsimp only; split) | fail_if_no_progress refine Worn.mk' ?_ rfl rfl

theorem State.correct_worn {s0 s : State} {port : Nat} {o2 : Int} (hk : Worn s0 s) : Worn s0 (State.correct s port o2) :=
  Worn.pass hk (State.correct_only (K := 17) (Only.refl _) (Needs.refl _)) rfl

theorem State.loadFrom_worn {s0 s : State} {o2 : Int} {d2 : Int} (hk : Worn s0 s) : Worn s0 (State.loadFrom s o2 d2) := by
  unfold State.loadFrom
  with_reducible repeat' first
    | assumption | apply State.loadCounter_worn | apply State.modClock_worn | apply Worn.cond | split | (dsimp only; split)

theorem execTimeDelayResponse_worn {s : State} {port : Nat} {m : TimeMsg} : KeptW s (execTimeDelayResponse port m s) := by
  unfold execTimeDelayResponse
  with_reducible repeat' first
    | assumption | apply KeptW.next | apply KeptW.fault | apply KeptW.cond | exact Worn.refl _ | apply State.correct_worn
    | apply State.loadFrom_worn | apply State.modClock_worn | exact Nat.le_refl _ | exact Nat.le_succ _ | apply Worn.cond | split
    | (dsimp only; split) | fail_if_no_progress refine Worn.mk' ?_ rfl rfl

theorem State.stampLines_worn {s0 s : State} (hk : Worn s0 s) : Worn s0 (State.stampLines s) :=
  Worn.pass hk (State.stampLines_only (K := 32768) (Only.refl _) (Needs.refl _)) rfl

theorem execFireLatch_worn {s : State} {t : TileId} : KeptW s (execFireLatch t s) := by
  unfold execFireLatch
  with_reducible repeat' first
    | assumption | apply KeptW.next | apply KeptW.fault | apply KeptW.cond | exact Worn.refl _ | apply State.boundary_worn
    | apply State.chooseSlot_worn | apply State.stampLines_worn | exact Nat.le_refl _ | exact Nat.le_succ _ | apply Worn.cond | split
    | (dsimp only; split) | fail_if_no_progress refine Worn.mk' ?_ rfl rfl

theorem State.passSelection_worn {s0 s : State} {f : Fire} {die : Nat} (hk : Worn s0 s) : Worn s0 (State.passSelection s f die) :=
  Worn.pass hk (State.passSelection_only (K := 17408) (Only.refl _) (Needs.refl _)) rfl

theorem State.overRange0_worn {s0 s : State} {t : TileId} {fl : Flight} (hk : Worn s0 s) : Worn s0 (State.overRange0 s t fl) := by
  unfold State.overRange0
  with_reducible repeat' first
    | assumption | apply State.countEquiv_worn | apply State.failStep_worn | apply State.modTile_worn | apply State.passSelection_worn
    | apply State.putJob_worn | apply State.selectLast_worn | exact Nat.le_refl _ | exact Nat.le_succ _ | apply Worn.cond | split
    | (dsimp only; split) | fail_if_no_progress refine Worn.mk' ?_ rfl rfl

theorem execConverterResult_worn {s : State} {t : TileId} {codes : List Int} {flags : List Bool} : KeptW s (execConverterResult t codes
    flags s) := by
  unfold execConverterResult
  with_reducible repeat' first
    | assumption | apply KeptW.next | apply KeptW.fault | apply KeptW.cond | exact Worn.refl _ | apply State.modTile_worn
    | apply State.overRange0_worn | apply State.selectLast_worn | exact Nat.le_refl _ | exact Nat.le_succ _ | apply Worn.cond | split
    | (dsimp only; split) | fail_if_no_progress refine Worn.mk' ?_ rfl rfl

theorem State.postmarkPasses_worn {s0 s : State} {t : TileId} {fl : Flight} (hk : Worn s0 s) : Worn s0 (State.postmarkPasses s t fl) :=
  Worn.pass hk (State.postmarkPasses_only (K := 278528) (Only.refl _) (Needs.refl _)) rfl

theorem execPostmarkComparison_worn {s : State} {t : TileId} : KeptW s (execPostmarkComparison t s) := by
  unfold execPostmarkComparison
  with_reducible repeat' first
    | assumption | apply KeptW.next | apply KeptW.fault | apply KeptW.cond | exact Worn.refl _ | apply State.active_worn
    | apply State.modTile_worn | apply State.postmarkPasses_worn | apply State.raise_worn | apply State.transient_worn
    | apply State.tryEntry_worn | exact Nat.le_refl _ | exact Nat.le_succ _ | apply Worn.cond | split | (dsimp only; split)
    | fail_if_no_progress refine Worn.mk' ?_ rfl rfl

theorem State.vectorDue_worn {s0 s : State} {t : TileId} {fl : Flight} (hk : Worn s0 s) : Worn s0 (State.vectorDue s t fl) := by
  unfold State.vectorDue
  with_reducible repeat' first
    | assumption | apply State.failStep_worn | apply State.modTile_worn | apply State.putJob_worn | exact Nat.le_refl _
    | exact Nat.le_succ _ | apply Worn.cond | split | (dsimp only; split) | fail_if_no_progress refine Worn.mk' ?_ rfl rfl

theorem execFireAdd_worn {s : State} {t : TileId} : KeptW s (execFireAdd t s) := by
  unfold execFireAdd
  with_reducible repeat' first
    | assumption | apply KeptW.next | apply KeptW.fault | apply KeptW.cond | exact Worn.refl _ | apply State.active_worn
    | apply State.addToBank_worn | apply State.countEquiv_worn | apply State.countFires_worn | apply State.modTile_worn
    | apply State.tryEntry_worn | apply State.vectorDue_worn | exact Nat.le_refl _ | exact Nat.le_succ _ | apply Worn.cond | split
    | (dsimp only; split) | fail_if_no_progress refine Worn.mk' ?_ rfl rfl

theorem execOutlierAdd_worn {s : State} {t : TileId} : KeptW s (execOutlierAdd t s) := by
  unfold execOutlierAdd
  with_reducible repeat' first
    | assumption | apply KeptW.next | apply KeptW.fault | apply KeptW.cond | exact Worn.refl _ | apply State.addToBank_worn
    | apply State.modTile_worn | apply State.tryDrain_worn | exact Nat.le_refl _ | exact Nat.le_succ _ | apply Worn.cond | split
    | (dsimp only; split) | fail_if_no_progress refine Worn.mk' ?_ rfl rfl

theorem State.addPart_worn {s0 s : State} {t : TileId} {arr : Nat} {p : FbPart} {v : List Int} (hk : Worn s0 s) : Worn s0 (State.addPart s
    t arr p v) := by
  unfold State.addPart
  with_reducible repeat' first
    | assumption | apply State.addToBank_worn | apply State.modTile_worn | apply State.tryDrain_worn | exact Nat.le_refl _
    | exact Nat.le_succ _ | apply Worn.cond | split | (dsimp only; split) | fail_if_no_progress refine Worn.mk' ?_ rfl rfl

theorem execFallbackJobDone_worn {s : State} {die : Nat} {unit : Nat} : KeptW s (execFallbackJobDone die unit s) := by
  unfold execFallbackJobDone
  with_reducible repeat' first
    | assumption | apply KeptW.next | apply KeptW.fault | apply KeptW.cond | exact Worn.refl _ | apply State.addPart_worn
    | apply State.failStep_worn | apply State.modRegion_worn | exact Nat.le_refl _ | exact Nat.le_succ _ | apply Worn.cond
    | refine Worn.foldl ?_ fun _ _ _ => ?_ | split | (dsimp only; split) | fail_if_no_progress refine Worn.mk' ?_ rfl rfl

theorem State.excursion_worn {s0 s : State} {a : ArrId} (hk : Worn s0 s) : Worn s0 (State.excursion s a) :=
  Worn.pass hk (State.excursion_only (K := 16400) (Only.refl _) (Needs.refl _)) rfl

theorem execSpotComparisonDone_worn {s : State} {die : Nat} {unit : Nat} : KeptW s (execSpotComparisonDone die unit s) := by
  unfold execSpotComparisonDone
  with_reducible repeat' first
    | assumption | apply KeptW.next | apply KeptW.fault | apply KeptW.cond | exact Worn.refl _ | apply State.excursion_worn
    | apply State.modRegion_worn | apply State.raise_worn | apply State.requestCal_worn | apply State.transient_worn | exact Nat.le_refl _
    | exact Nat.le_succ _ | apply Worn.cond | split | (dsimp only; split) | fail_if_no_progress refine Worn.mk' ?_ rfl rfl

theorem State.adapterInto_worn {s0 s : State} {tag : Nat} {token : Nat} {tensor : Nat} {adapter : Nat} {e : TileId × Nat × Nat} (hk : Worn
    s0 s) : Worn s0 (State.adapterInto s tag token tensor adapter e) := by
  unfold State.adapterInto
  with_reducible repeat' first
    | assumption | apply State.addToBank_worn | apply State.failStep_worn | apply State.modTile_worn | apply State.tryDrain_worn
    | exact Nat.le_refl _ | exact Nat.le_succ _ | apply Worn.cond | split | (dsimp only; split)
    | fail_if_no_progress refine Worn.mk' ?_ rfl rfl

theorem execAdapterContribution_worn {s : State} {stepTag : Nat} {token : Nat} {tensor : Nat} {adapter : Nat} : KeptW s
    (execAdapterContribution stepTag token tensor adapter s) := by
  unfold execAdapterContribution
  with_reducible repeat' first
    | assumption | apply KeptW.next | apply KeptW.fault | apply KeptW.cond | exact Worn.refl _ | apply State.adapterInto_worn
    | apply State.gather_worn | exact Nat.le_refl _ | exact Nat.le_succ _ | apply Worn.cond | refine Worn.foldl ?_ fun _ _ _ => ?_ | split
    | (dsimp only; split) | fail_if_no_progress refine Worn.mk' ?_ rfl rfl

theorem State.reductionFault_worn {s0 s : State} {l : LineId} {source : Nat} {tag : Nat} {epoch : Nat} (hk : Worn s0 s) : Worn s0
    (State.reductionFault s l source tag epoch) := by
  unfold State.reductionFault
  with_reducible repeat' first
    | assumption | apply State.transient_worn | apply State.raise_worn

theorem State.lineOverflow_worn {s0 s : State} {l : LineId} {source : Nat} {tag : Nat} (hk : Worn s0 s) : Worn s0 (State.lineOverflow s l
    source tag) := by
  unfold State.lineOverflow
  with_reducible repeat' first
    | assumption | apply State.failStep_worn | apply State.raise_worn | exact Nat.le_refl _ | exact Nat.le_succ _ | apply Worn.cond | split
    | (dsimp only; split) | fail_if_no_progress refine Worn.mk' ?_ rfl rfl

theorem State.putLine_worn {s0 s : State} {l : Line} (hk : Worn s0 s) : Worn s0 (State.putLine s l) :=
  Worn.pass hk (State.putLine_only (K := 32768) (Only.refl _) (Needs.refl _)) rfl

theorem State.deliverLine_worn {s0 s : State} {tag : Nat} {outfmt : Nat} {width : Nat} {d : LineDest} {elems : List Int} (hk : Worn
    s0 s) : Worn s0 (State.deliverLine s tag outfmt width d elems) := by
  unfold State.deliverLine
  with_reducible repeat' first
    | assumption | apply State.deliverValues_worn | apply State.failStep_worn | split | (dsimp only; split)

/-- The state of a command's outcome follows `s`. -/
def DoneW (s : State) (r : CmdOut) : Prop := Worn s r.state

theorem State.complete_worn {s0 s : State} {c : CmdFrame} {opcode : Nat} {r : CmdOut} (hr : DoneW s0 r) (hk : Worn s0 s) :
    Worn s0 (s.complete c opcode r) := by
  unfold State.complete
  have h1 : Worn s0 (if r.code = 0 then r.state else s) := Worn.ifs (fun _ => hr) fun _ => hk
  generalize (if r.code = 0 then r.state else s) = s1 at h1
  refine State.respondWith_worn (Worn.ifs (fun _ => State.writeMem_worn ?_) fun _ => ?_) <;> exact Worn.mk' h1 rfl rfl

theorem State.addContribution_worn {s0 s : State} {g : Ledger} {addr : Nat} {width : Nat} {elems : List Int} (hk : Worn s0 s) : Worn s0
    (State.addContribution s g addr width elems) := by
  unfold State.addContribution
  with_reducible repeat' first
    | assumption | apply State.complete_worn | apply State.deliverLine_worn | apply State.lineOverflow_worn | apply State.raise_worn
    | apply State.reductionFault_worn | apply State.setLedger_worn | exact Nat.le_refl _ | exact Nat.le_succ _ | apply Worn.cond | split
    | (dsimp only; split) | fail_if_no_progress refine Worn.mk' ?_ rfl rfl

theorem State.contribution_worn {s0 s : State} {job : Nat} {step : Nat} {epoch : Nat} {addr : Nat} {width : Nat} {elems : List Int} (hk :
    Worn s0 s) : Worn s0 (State.contribution s job step epoch addr width elems) := by
  unfold State.contribution
  with_reducible repeat' first
    | assumption | apply State.addContribution_worn | apply State.raise_worn | exact Nat.le_refl _ | exact Nat.le_succ _ | apply Worn.cond
    | split | (dsimp only; split) | fail_if_no_progress refine Worn.mk' ?_ rfl rfl

theorem State.contribute_worn {s0 s : State} {l : Line} (hk : Worn s0 s) : Worn s0 (State.contribute s l) := by
  unfold State.contribute
  with_reducible repeat' first
    | assumption | apply State.contribution_worn | apply State.deliverValues_worn | apply State.sendForJob_worn | exact Nat.le_refl _
    | exact Nat.le_succ _ | apply Worn.cond | split | (dsimp only; split) | fail_if_no_progress refine Worn.mk' ?_ rfl rfl

theorem State.completeLine_worn {s0 s : State} {l : Line} (hk : Worn s0 s) : Worn s0 (State.completeLine s l) := by
  unfold State.completeLine
  with_reducible repeat' first
    | assumption | apply State.contribute_worn | apply State.deliverLine_worn | apply Worn.cond

theorem execDrainArrival_worn {s : State} {idx : Nat} : KeptW s (execDrainArrival idx s) := by
  unfold execDrainArrival
  with_reducible repeat' first
    | assumption | apply KeptW.next | apply KeptW.fault | apply KeptW.cond | exact Worn.refl _ | apply State.complete_worn
    | apply State.completeLine_worn | apply State.lineOverflow_worn | apply State.putLine_worn | apply State.reductionFault_worn
    | exact Nat.le_refl _ | exact Nat.le_succ _ | apply Worn.cond | split | (dsimp only; split)
    | fail_if_no_progress refine Worn.mk' ?_ rfl rfl

theorem execLineTimeout_worn {s : State} {die : Nat} {off : Nat} : KeptW s (execLineTimeout die off s) := by
  unfold execLineTimeout
  with_reducible repeat' first
    | assumption | apply KeptW.next | apply KeptW.fault | apply KeptW.cond | exact Worn.refl _ | apply State.advanceTo_worn
    | apply State.complete_worn | apply State.putLine_worn | apply State.reductionFault_worn | exact Nat.le_refl _ | exact Nat.le_succ _
    | apply Worn.cond | split | (dsimp only; split) | fail_if_no_progress refine Worn.mk' ?_ rfl rfl

theorem State.dropJobFrame_worn {s0 s : State} (hk : Worn s0 s) : Worn s0 (State.dropJobFrame s) :=
  Worn.pass hk (State.dropJobFrame_only (K := 32) (Only.refl _) (Needs.refl _)) rfl

theorem State.e2eFailure_worn {s0 s : State} {h : CourierHdr} (hk : Worn s0 s) : Worn s0 (State.e2eFailure s h) := by
  unfold State.e2eFailure
  with_reducible repeat' first
    | assumption | apply State.raise_worn | apply State.countDrop_worn | apply State.transient_worn | apply Worn.cond
    | refine Worn.foldl ?_ fun _ _ _ => ?_

theorem State.withCourier_worn {s0 s : State} {h : CourierHdr} {type : Nat} {f : State → State} (hk : Worn s0 s) (hf : ∀ x , Worn
    s0 x → Worn s0 (f x )) : Worn s0 (State.withCourier s h type f) := by
  unfold State.withCourier
  with_reducible repeat' first
    | assumption | apply State.scheduleWakes_worn | apply hf | apply State.e2eFailure_worn | apply State.countDrop_worn | apply State.dropJobFrame_worn | apply Worn.cond

theorem State.refuseRecord_worn {s0 s : State} {version : Nat} (hk : Worn s0 s) : Worn s0 (State.refuseRecord s version) :=
  Worn.pass hk (State.refuseRecord_only (K := 32) (Only.refl _) (Needs.refl _)) rfl

theorem State.takeContribution_worn {s0 s : State} {payload : Bytes} (hk : Worn s0 s) : Worn s0 (State.takeContribution s payload) := by
  unfold State.takeContribution
  with_reducible repeat' first
    | assumption | apply State.contribution_worn | apply State.dropJobFrame_worn | apply State.refuseRecord_worn | exact Nat.le_refl _
    | exact Nat.le_succ _ | apply Worn.cond | split | (dsimp only; split) | fail_if_no_progress refine Worn.mk' ?_ rfl rfl

theorem execContributionRecord_worn {s : State} {h : CourierHdr} {payload : Bytes} : KeptW s (execContributionRecord h payload s) := by
  unfold execContributionRecord
  with_reducible repeat' first
    | assumption | apply KeptW.next | apply KeptW.fault | apply KeptW.cond | exact Worn.refl _
    | refine State.withCourier_worn ?_ (fun _ _ => ?_) | apply State.takeContribution_worn | split | (dsimp only; split)

theorem State.noticeStep_worn {s0 s : State} {job : Nat} {step : Nat} {epoch : Nat} (hk : Worn s0 s) : Worn s0 (State.noticeStep s
    job step epoch) := by
  unfold State.noticeStep
  with_reducible repeat' first
    | assumption | apply State.rerun_worn | apply State.replayRecord_worn | apply State.abortJob_worn | apply Worn.cond | split
    | (dsimp only; split)

theorem State.takeReplay_worn {s0 s : State} {payload : Bytes} (hk : Worn s0 s) : Worn s0 (State.takeReplay s payload) := by
  unfold State.takeReplay
  with_reducible repeat' first
    | assumption | apply State.dropJobFrame_worn | apply State.noticeStep_worn | apply State.raise_worn | apply State.refuseRecord_worn
    | apply State.setLedger_worn | exact Nat.le_refl _ | exact Nat.le_succ _ | apply Worn.cond | split | (dsimp only; split)
    | fail_if_no_progress refine Worn.mk' ?_ rfl rfl

theorem execReplayNotice_worn {s : State} {h : CourierHdr} {payload : Bytes} : KeptW s (execReplayNotice h payload s) := by
  unfold execReplayNotice
  with_reducible repeat' first
    | assumption | apply KeptW.next | apply KeptW.fault | apply KeptW.cond | exact Worn.refl _
    | refine State.withCourier_worn ?_ (fun _ _ => ?_) | apply State.takeReplay_worn | split | (dsimp only; split)

theorem execAttentionResult_worn {s : State} {stepTag : Nat} {token : Nat} {head : Nat} : KeptW s (execAttentionResult stepTag
    token head s) := by
  unfold execAttentionResult
  with_reducible repeat' first
    | assumption | apply KeptW.next | apply KeptW.fault | apply KeptW.cond | exact Worn.refl _ | apply State.attend_worn
    | apply Worn.cond | split | (dsimp only; split)

theorem State.dropActivations_worn {s0 s : State} {n : Nat} (hk : Worn s0 s) : Worn s0 (State.dropActivations s n) :=
  Worn.pass hk (State.dropActivations_only (K := 32) (Only.refl _) (Needs.refl _)) rfl

theorem State.wakeTokens_worn {s0 s : State} {o : OpenStep} {token : Nat} (hk : Worn s0 s) : Worn s0 (State.wakeTokens s o token) := by
  unfold State.wakeTokens
  with_reducible repeat' first
    | assumption | apply State.advanceToken_worn | apply Worn.cond | refine Worn.foldl ?_ fun _ _ _ => ?_

theorem State.placeActivation_worn {s0 s : State} {o : OpenStep} {a : Activation} (hk : Worn s0 s) : Worn s0 (State.placeActivation
    s o a) := by
  unfold State.placeActivation
  with_reducible repeat' first
    | assumption | apply State.dropActivations_worn | apply State.wakeTokens_worn | apply Worn.cond
    | fail_if_no_progress refine Worn.mk' ?_ rfl rfl

theorem State.holdActivation_worn {s0 s : State} {a : Activation} (hk : Worn s0 s) : Worn s0 (State.holdActivation s a) :=
  Worn.pass hk (State.holdActivation_only (K := 131104) (Only.refl _) (Needs.refl _)) rfl

theorem State.takeActivation_worn {s0 s : State} {job : Nat} {p : Bytes} (hk : Worn s0 s) : Worn s0 (State.takeActivation s job p) := by
  unfold State.takeActivation
  with_reducible repeat' first
    | assumption | apply State.refuseRecord_worn | apply State.placeActivation_worn | apply State.holdActivation_worn | apply Worn.cond
    | split | (dsimp only; split)

theorem execActivationRecord_worn {s : State} {h : CourierHdr} {payload : Bytes} : KeptW s (execActivationRecord h payload s) := by
  unfold execActivationRecord
  with_reducible repeat' first
    | assumption | apply KeptW.next | apply KeptW.fault | apply KeptW.cond | exact Worn.refl _
    | refine State.withCourier_worn ?_ (fun _ _ => ?_) | apply State.takeActivation_worn | split | (dsimp only; split)

theorem State.takeControl_worn {s0 s : State} {p : Bytes} (hk : Worn s0 s) : Worn s0 (State.takeControl s p) :=
  Worn.pass hk (State.takeControl_only (K := 187952) (Only.refl _) (Needs.refl _)) rfl

theorem execModuleDownNotice_worn {s : State} {h : CourierHdr} {payload : Bytes} : KeptW s (execModuleDownNotice h payload s) := by
  unfold execModuleDownNotice
  with_reducible repeat' first
    | assumption | apply KeptW.next | apply KeptW.fault | apply KeptW.cond | exact Worn.refl _
    | refine State.withCourier_worn ?_ (fun _ _ => ?_) | apply State.takeControl_worn | split | (dsimp only; split)

theorem execJobAbortNotice_worn {s : State} {h : CourierHdr} {payload : Bytes} : KeptW s (execJobAbortNotice h payload s) := by
  unfold execJobAbortNotice
  with_reducible repeat' first
    | assumption | apply KeptW.next | apply KeptW.fault | apply KeptW.cond | exact Worn.refl _
    | refine State.withCourier_worn ?_ (fun _ _ => ?_) | apply State.takeControl_worn | split | (dsimp only; split)

theorem State.takeParcel_worn {s0 s : State} {p : Bytes} (hk : Worn s0 s) : Worn s0 (State.takeParcel s p) := by
  unfold State.takeParcel
  with_reducible repeat' first
    | assumption | apply State.parcelData_worn | apply Worn.cond

theorem execCourierParcelFrame_worn {s : State} {h : CourierHdr} {payload : Bytes} : KeptW s (execCourierParcelFrame h payload s) := by
  unfold execCourierParcelFrame
  with_reducible repeat' first
    | assumption | apply KeptW.next | apply KeptW.fault | apply KeptW.cond | exact Worn.refl _
    | refine State.withCourier_worn ?_ (fun _ _ => ?_) | apply State.takeParcel_worn | split | (dsimp only; split)

theorem State.takeCourier_worn {s0 s : State} {h : CourierHdr} {p : Bytes} (hk : Worn s0 s) : Worn s0 (State.takeCourier s h p) := by
  unfold State.takeCourier
  with_reducible repeat' first
    | assumption | refine State.withCourier_worn ?_ (fun _ _ => ?_) | apply State.takeReplay_worn | apply State.takeContribution_worn
    | apply State.takeParcel_worn | apply State.takeActivation_worn | apply State.takeControl_worn | apply State.countDrop_worn
    | apply Worn.cond

theorem State.forward_worn {s0 s : State} {h : CourierHdr} {p : Bytes} (hk : Worn s0 s) : Worn s0 (State.forward s h p) :=
  Worn.pass hk (State.forward_only (K := 187952) (Only.refl _) (Needs.refl _)) rfl

theorem execCourierFrameRoute_worn {s : State} {h : CourierHdr} {payload : Bytes} : KeptW s (execCourierFrameRoute h payload s) := by
  unfold execCourierFrameRoute
  with_reducible repeat' first
    | assumption | apply KeptW.next | apply KeptW.fault | apply KeptW.cond | exact Worn.refl _ | apply State.takeCourier_worn
    | apply State.forward_worn | apply Worn.cond | split | (dsimp only; split)

theorem DoneW.done {s t : State} (h : Worn s t) : DoneW s t.done := h
theorem DoneW.doneWith {s t : State} {b : Bytes} (h : Worn s t) : DoneW s (t.doneWith b) := h
theorem DoneW.fails {s t : State} {n : Nat} (h : Worn s t) : DoneW s (t.fails n) := h
theorem DoneW.failsAt {s t : State} {n d : Nat} (h : Worn s t) : DoneW s (t.failsAt n d) := h
theorem DoneW.of_worn {s t : State} {n d : Nat} {b : Bytes} (h : Worn s t) : DoneW s ⟨n, d, b, t⟩ := h

theorem DoneW.ifs {s : State} {a b : CmdOut} {c : Prop} {d : Decidable c} (ha : c → DoneW s a) (hb : ¬ c → DoneW s b) :
    DoneW s (@ite CmdOut c d a b) := by
  by_cases h : c
  · rw [if_pos h]; exact ha h
  · rw [if_neg h]; exact hb h

theorem DoneW.cond {s : State} {a b : CmdOut} {c : Prop} {d : Decidable c} (ha : DoneW s a) (hb : DoneW s b) :
    DoneW s (@ite CmdOut c d a b) :=
  DoneW.ifs (fun _ => ha) fun _ => hb

/-- What a command does, and what follows its RESPONSE, lowers no wear counter. -/
structure Command.Wearing (k : Command) : Prop where
  run : ∀ s0 s a, Worn s0 s → DoneW s0 (k.run s a)
  post : ∀ s0 s a, Worn s0 s → Worn s0 (k.post s a)

theorem State.carry_worn {s0 s : State} {c : CmdFrame} {k : Command} (h : k.Wearing) (hk : Worn s0 s) : DoneW s0 (s.carry c k) := by
  unfold State.carry
  repeat' first
    | with_reducible refine DoneW.ifs (fun _ => ?_) (fun _ => ?_) | with_reducible exact DoneW.fails hk
    | with_reducible exact DoneW.failsAt hk | with_reducible exact h.run _ _ _ hk | split

theorem State.refuseCommand_worn {s0 s : State} {c : CmdFrame} {status : Nat} (hk : Worn s0 s) : Worn s0 (State.refuseCommand c s status)
    :=
  Worn.pass hk (State.refuseCommand_only (K := 512) (Only.refl _) (Needs.refl _)) rfl

theorem State.carryOut_worn {s0 s : State} {c : CmdFrame} {k : Command} (h : k.Wearing) (hk : Worn s0 s) :
    Worn s0 (State.carryOut c k s) := by
  unfold State.carryOut
  have h1 := State.complete_worn (c := c) (opcode := k.opcode) (State.carry_worn (c := c) h hk) hk
  exact Worn.ifs (fun _ => State.refuseCommand_worn hk) fun _ => Worn.ifs (fun _ => h.post _ _ _ h1) fun _ => h1

theorem State.command_worn {s0 s : State} {c : CmdFrame} {k : Command} (h : k.Wearing) (hk : Worn s0 s) :
    Worn s0 (s.command c k) :=
  State.takeChecked_worn hk (fun _ hx => State.carryOut_worn h hx) fun _ _ hx => State.refuseCommand_worn hx

theorem State.deleteQueue_worn {s0 s : State} {q : Queue} (hk : Worn s0 s) : Worn s0 (State.deleteQueue s q) := by
  unfold State.deleteQueue
  with_reducible repeat' first
    | assumption | apply State.endUnbegun_worn | apply State.modQueue_worn | apply State.sweep_worn | exact Nat.le_refl _
    | exact Nat.le_succ _ | apply Worn.cond | refine Worn.foldl ?_ fun _ _ _ => ?_ | split | (dsimp only; split)
    | fail_if_no_progress refine Worn.mk' ?_ rfl rfl

theorem cmdDeleteQueue_worn : Command.Wearing cmdDeleteQueue := by
  refine ⟨fun s0 s a hk => ?_, fun s0 s a hk => ?_⟩
  all_goals dsimp only [cmdDeleteQueue]
  all_goals with_reducible repeat' first
    | assumption | exact DoneW.of_worn ‹_› | apply DoneW.cond | apply DoneW.done | apply DoneW.doneWith | apply DoneW.fails
    | apply DoneW.failsAt | apply State.deleteQueue_worn | apply Worn.cond | split | (dsimp only; split)

theorem execDeleteQueue_worn {s : State} {c : CmdFrame} : KeptW s (execDeleteQueue c s) := by
  unfold execDeleteQueue
  with_reducible repeat' first
    | assumption | apply KeptW.next | apply KeptW.fault | apply KeptW.cond | exact Worn.refl _
    | refine State.command_worn cmdDeleteQueue_worn ?_ | split | (dsimp only; split)

theorem State.markDiscarding_worn {s0 s : State} {n : Nat} (hk : Worn s0 s) : Worn s0 (State.markDiscarding s n) :=
  Worn.pass hk (State.markDiscarding_only (K := 1024) (Only.refl _) (Needs.refl _)) rfl

theorem State.discardContext_worn {s0 s : State} {n : Nat} (hk : Worn s0 s) : Worn s0 (State.discardContext s n) := by
  unfold State.discardContext
  with_reducible repeat' first
    | assumption | apply State.markDiscarding_worn | apply State.sweep_worn | apply State.deleteQueue_worn
    | refine Worn.foldl ?_ fun _ _ _ => ?_

theorem cmdDiscardContext_worn : Command.Wearing cmdDiscardContext := by
  refine ⟨fun s0 s a hk => ?_, fun s0 s a hk => ?_⟩
  all_goals dsimp only [cmdDiscardContext]
  all_goals with_reducible repeat' first
    | assumption | exact DoneW.of_worn ‹_› | apply DoneW.cond | apply DoneW.done | apply DoneW.doneWith | apply DoneW.fails
    | apply DoneW.failsAt | apply State.discardContext_worn | apply Worn.cond | split | (dsimp only; split)

theorem execDiscardContext_worn {s : State} {c : CmdFrame} : KeptW s (execDiscardContext c s) := by
  unfold execDiscardContext
  with_reducible repeat' first
    | assumption | apply KeptW.next | apply KeptW.fault | apply KeptW.cond | exact Worn.refl _
    | refine State.command_worn cmdDiscardContext_worn ?_ | split | (dsimp only; split)

theorem State.releaseAll_worn {s0 s : State} (hk : Worn s0 s) : Worn s0 (State.releaseAll s) := by
  unfold State.releaseAll
  with_reducible repeat' first
    | assumption | apply State.discardAll_worn | apply State.enterP1_worn | apply Worn.cond
    | fail_if_no_progress refine Worn.mk' ?_ rfl rfl | split | (dsimp only; split)

theorem cmdReleaseLease_worn : Command.Wearing cmdReleaseLease := by
  refine ⟨fun s0 s a hk => ?_, fun s0 s a hk => ?_⟩
  all_goals dsimp only [cmdReleaseLease]
  all_goals with_reducible repeat' first
    | assumption | exact DoneW.of_worn ‹_› | apply DoneW.cond | apply DoneW.done | apply DoneW.doneWith | apply DoneW.fails
    | apply DoneW.failsAt | apply State.endLease_worn | apply State.releaseAll_worn | apply Worn.cond

theorem execReleaseLease_worn {s : State} {c : CmdFrame} : KeptW s (execReleaseLease c s) := by
  unfold execReleaseLease
  with_reducible repeat' first
    | assumption | apply KeptW.next | apply KeptW.fault | apply KeptW.cond | exact Worn.refl _
    | refine State.command_worn cmdReleaseLease_worn ?_ | split | (dsimp only; split)

theorem State.releaseJob_worn {s0 s : State} {job : Nat} (hk : Worn s0 s) : Worn s0 (State.releaseJob s job) := by
  unfold State.releaseJob
  with_reducible repeat' first
    | assumption | apply State.sweep_worn | apply State.deliverAll_worn | apply State.voidStep_worn
    | refine Worn.foldl ?_ fun _ _ _ => ?_

theorem cmdReleaseJob_worn : Command.Wearing cmdReleaseJob := by
  refine ⟨fun s0 s a hk => ?_, fun s0 s a hk => ?_⟩
  all_goals dsimp only [cmdReleaseJob]
  all_goals with_reducible repeat' first
    | assumption | exact DoneW.of_worn ‹_› | apply DoneW.cond | apply DoneW.done | apply DoneW.doneWith | apply DoneW.fails
    | apply DoneW.failsAt | apply State.releaseJob_worn | apply Worn.cond

theorem execReleaseJob_worn {s : State} {c : CmdFrame} : KeptW s (execReleaseJob c s) := by
  unfold execReleaseJob
  with_reducible repeat' first
    | assumption | apply KeptW.next | apply KeptW.fault | apply KeptW.cond | exact Worn.refl _
    | refine State.command_worn cmdReleaseJob_worn ?_ | split | (dsimp only; split)

theorem cmdLoadTime_worn : Command.Wearing cmdLoadTime := by
  refine ⟨fun s0 s a hk => ?_, fun s0 s a hk => ?_⟩
  all_goals dsimp only [cmdLoadTime]
  all_goals with_reducible repeat' first
    | assumption | exact DoneW.of_worn ‹_› | apply DoneW.cond | apply DoneW.done | apply DoneW.doneWith | apply DoneW.fails
    | apply DoneW.failsAt | apply State.loadCounter_worn | apply Worn.cond

theorem execLoadTime_worn {s : State} {c : CmdFrame} : KeptW s (execLoadTime c s) := by
  unfold execLoadTime
  with_reducible repeat' first
    | assumption | apply KeptW.next | apply KeptW.fault | apply KeptW.cond | exact Worn.refl _
    | refine State.command_worn cmdLoadTime_worn ?_ | split | (dsimp only; split)

theorem State.beginPowerEntry_worn {s0 s : State} {goal : PowerState} (hk : Worn s0 s) : Worn s0 (State.beginPowerEntry s goal) := by
  unfold State.beginPowerEntry
  with_reducible repeat' first
    | assumption | apply State.suspendLease_worn | apply State.tryEntry_worn | exact Nat.le_refl _ | exact Nat.le_succ _ | apply Worn.cond
    | split | (dsimp only; split) | fail_if_no_progress refine Worn.mk' ?_ rfl rfl

theorem State.goPower_worn {s0 s : State} {dst : PowerState} (hk : Worn s0 s) : Worn s0 (State.goPower s dst) := by
  unfold State.goPower
  with_reducible repeat' first
    | assumption | apply State.wake_worn | apply State.enterP1_worn | apply State.beginPowerEntry_worn | apply Worn.cond | split
    | (dsimp only; split)

theorem cmdSetPowerState_worn : Command.Wearing cmdSetPowerState := by
  refine ⟨fun s0 s a hk => ?_, fun s0 s a hk => ?_⟩
  all_goals dsimp only [cmdSetPowerState]
  all_goals with_reducible repeat' first
    | assumption | exact DoneW.of_worn ‹_› | apply DoneW.cond | apply DoneW.done | apply DoneW.doneWith | apply DoneW.fails
    | apply DoneW.failsAt | apply State.goPower_worn

theorem cmdPowerPending_worn : Command.Wearing cmdPowerPending := by
  refine ⟨fun s0 s a hk => ?_, fun s0 s a hk => ?_⟩
  all_goals dsimp only [cmdPowerPending]
  all_goals with_reducible repeat' first
    | assumption | exact DoneW.of_worn ‹_› | apply DoneW.cond | apply DoneW.done | apply DoneW.doneWith | apply DoneW.fails
    | apply DoneW.failsAt

theorem execSetPowerState_worn {s : State} {c : CmdFrame} : KeptW s (execSetPowerState c s) := by
  unfold execSetPowerState
  with_reducible repeat' first
    | assumption | apply KeptW.next | apply KeptW.fault | apply KeptW.cond | exact Worn.refl _
    | refine State.command_worn cmdSetPowerState_worn ?_ | refine State.command_worn cmdPowerPending_worn ?_
    | fail_if_no_progress refine Worn.mk' ?_ rfl rfl | split | (dsimp only; split)

theorem State.commitEntry_worn {s0 s : State} {o : OpenStep} {c : Context} {i : Nat} {e : LenEntry} {w : EntryWork} (hk : Worn s0 s) :
    Worn s0 (State.commitEntry s o c i e w).1 :=
  Worn.pass hk (State.commitEntry_only (K := 7696) (Only.refl _) (Needs.refl _)) rfl

theorem State.stormCommit_worn {s0 s : State} {o : OpenStep} (hk : Worn s0 s) : Worn s0 (State.stormCommit s o) :=
  Worn.pass hk (State.stormCommit_only (K := 1040) (Only.refl _) (Needs.refl _)) rfl

theorem State.commitStep_worn {s0 s : State} {o : OpenStep} {c : Context} (hk : Worn s0 s) : Worn s0 (s.commitStep o c) := by
  unfold State.commitStep
  dsimp only
  generalize hr : List.foldl _ _ _ = r
  have h1 : Worn s0 r.1 := by
    subst hr
    exact foldl_fst_worn hk fun x i hx => State.commitEntry_worn hx
  repeat' first
    | with_reducible assumption | with_reducible apply State.deliver_worn | with_reducible apply State.sweep_worn
    | with_reducible apply State.tryEntry_worn | with_reducible apply State.retryStalled_worn
    | with_reducible apply State.putEnded_worn | with_reducible apply State.dropWork_worn
    | with_reducible apply State.dropLedger_worn | with_reducible apply State.stormCommit_worn
    | with_reducible apply Worn.cond
    | fail_if_no_progress with_reducible refine Worn.mk' ?_ rfl rfl | split

theorem execStepCommit_worn {s : State} {stepTag : Nat} : KeptW s (execStepCommit stepTag s) := by
  unfold execStepCommit
  with_reducible repeat' first
    | assumption | apply KeptW.next | apply KeptW.fault | apply KeptW.cond | exact Worn.refl _ | apply State.commitStep_worn
    | apply Worn.cond | split | (dsimp only; split)

theorem cmdResetModule_worn : Command.Wearing cmdResetModule := by
  refine ⟨fun s0 s a hk => ?_, fun s0 s a hk => ?_⟩
  all_goals dsimp only [cmdResetModule]
  all_goals with_reducible repeat' first
    | assumption | exact DoneW.of_worn ‹_› | apply DoneW.cond | apply DoneW.done | apply DoneW.doneWith | apply DoneW.fails
    | apply DoneW.failsAt | apply State.resetModule_worn | apply Worn.cond

theorem execResetModule_worn {s : State} {c : CmdFrame} : KeptW s (execResetModule c s) := by
  unfold execResetModule
  with_reducible repeat' first
    | assumption | apply KeptW.next | apply KeptW.fault | apply KeptW.cond | exact Worn.refl _ | refine State.carryOut_worn cmdResetModule_worn ?_
    | refine State.command_worn cmdResetModule_worn ?_ | apply State.frameArrives_worn | refine State.judge_worn ?_ (fun _ _ => ?_) (fun _ _ _ => ?_) | apply State.refuseCommand_worn
    | exact Nat.le_refl _ | exact Nat.le_succ _ | apply Worn.cond | split | (dsimp only; split)
    | fail_if_no_progress refine Worn.mk' ?_ rfl rfl

theorem cmdLoadModel_worn : Command.Wearing cmdLoadModel := by
  refine ⟨fun s0 s a hk => ?_, fun s0 s a hk => ?_⟩
  all_goals dsimp only [cmdLoadModel]
  all_goals with_reducible repeat' first
    | assumption | exact DoneW.of_worn ‹_› | apply DoneW.cond | apply DoneW.done | apply DoneW.doneWith | apply DoneW.fails
    | apply DoneW.failsAt | apply Worn.cond | fail_if_no_progress refine Worn.mk' ?_ rfl rfl | split | (dsimp only; split)

theorem execLoadModel_worn {s : State} {c : CmdFrame} : KeptW s (execLoadModel c s) := by
  unfold execLoadModel
  with_reducible repeat' first
    | assumption | apply KeptW.next | apply KeptW.fault | apply KeptW.cond | exact Worn.refl _
    | refine State.command_worn cmdLoadModel_worn ?_ | split | (dsimp only; split)

theorem State.markUnloading_worn {s0 s : State} {n : Nat} (hk : Worn s0 s) : Worn s0 (State.markUnloading s n) := by
  unfold State.markUnloading
  with_reducible repeat' first
    | assumption | apply Worn.cond | fail_if_no_progress refine Worn.mk' ?_ rfl rfl

theorem cmdUnloadModel_worn : Command.Wearing cmdUnloadModel := by
  refine ⟨fun s0 s a hk => ?_, fun s0 s a hk => ?_⟩
  all_goals dsimp only [cmdUnloadModel]
  all_goals with_reducible repeat' first
    | assumption | exact DoneW.of_worn ‹_› | apply DoneW.cond | apply DoneW.done | apply DoneW.doneWith | apply DoneW.fails
    | apply DoneW.failsAt | apply State.sweep_worn | apply State.markUnloading_worn | apply State.releaseModel_worn | apply Worn.cond
    | split | (dsimp only; split)

theorem execUnloadModel_worn {s : State} {c : CmdFrame} : KeptW s (execUnloadModel c s) := by
  unfold execUnloadModel
  with_reducible repeat' first
    | assumption | apply KeptW.next | apply KeptW.fault | apply KeptW.cond | exact Worn.refl _
    | refine State.command_worn cmdUnloadModel_worn ?_ | split | (dsimp only; split)

theorem State.removeAdapter_worn {s0 s : State} {n : Nat} (hk : Worn s0 s) : Worn s0 (State.removeAdapter s n) := by
  unfold State.removeAdapter
  with_reducible repeat' first
    | assumption | apply State.sweep_worn | apply Worn.cond | fail_if_no_progress refine Worn.mk' ?_ rfl rfl

theorem cmdUnloadAdapter_worn : Command.Wearing cmdUnloadAdapter := by
  refine ⟨fun s0 s a hk => ?_, fun s0 s a hk => ?_⟩
  all_goals dsimp only [cmdUnloadAdapter]
  all_goals with_reducible repeat' first
    | assumption | exact DoneW.of_worn ‹_› | apply DoneW.cond | apply DoneW.done | apply DoneW.doneWith | apply DoneW.fails
    | apply DoneW.failsAt | apply State.removeAdapter_worn | apply Worn.cond

theorem execUnloadAdapter_worn {s : State} {c : CmdFrame} : KeptW s (execUnloadAdapter c s) := by
  unfold execUnloadAdapter
  with_reducible repeat' first
    | assumption | apply KeptW.next | apply KeptW.fault | apply KeptW.cond | exact Worn.refl _
    | refine State.command_worn cmdUnloadAdapter_worn ?_ | split | (dsimp only; split)

theorem State.modI3c_worn {s0 s : State} {f : I3c → I3c} (hk : Worn s0 s) : Worn s0 (State.modI3c s f) :=
  Worn.pass hk (State.modI3c_only (K := 256) (Only.refl _) (Needs.refl _)) rfl

theorem State.i3cAnswers_worn {s0 s : State} (hk : Worn s0 s) : Worn s0 (State.i3cAnswers s) :=
  Worn.pass hk (State.i3cAnswers_only (K := 256) (Only.refl _) (Needs.refl _)) rfl

theorem State.i3cPut_worn {s0 s : State} {e : Nat × Nat} (hk : Worn s0 s) : Worn s0 (State.i3cPut s e) := by
  unfold State.i3cPut
  with_reducible repeat' first
    | assumption | apply State.modI3c_worn | apply State.pathWrite_worn | exact Nat.le_refl _ | exact Nat.le_succ _ | apply Worn.cond
    | split | (dsimp only; split) | fail_if_no_progress refine Worn.mk' ?_ rfl rfl

theorem execI3cPrivateWrite_worn {s : State} {bytes : Bytes} : KeptW s (execI3cPrivateWrite bytes s) := by
  unfold execI3cPrivateWrite
  with_reducible repeat' first
    | assumption | apply KeptW.next | apply KeptW.fault | apply KeptW.cond | exact Worn.refl _ | apply State.i3cAnswers_worn
    | apply State.i3cPut_worn | apply State.modI3c_worn | exact Nat.le_refl _ | exact Nat.le_succ _ | apply Worn.cond
    | refine Worn.foldl ?_ fun _ _ _ => ?_ | split | (dsimp only; split) | fail_if_no_progress refine Worn.mk' ?_ rfl rfl

theorem State.takeSample_worn {s0 s : State} {e : Nat × Int} (hk : Worn s0 s) : Worn s0 (State.takeSample s e) := by
  unfold State.takeSample
  with_reducible repeat' first
    | assumption | apply State.raise_worn | apply State.failStop_worn | apply Worn.cond | fail_if_no_progress refine Worn.mk' ?_ rfl rfl

theorem State.sensorTriggers_worn {s0 s : State} (hk : Worn s0 s) : Worn s0 (State.sensorTriggers s) :=
  Worn.pass hk (State.sensorTriggers_only (K := 22) (Only.refl _) (Needs.refl _)) rfl

theorem execSensorSample_worn {s : State} {raw : List (Nat × Int)} : KeptW s (execSensorSample raw s) := by
  unfold execSensorSample
  with_reducible repeat' first
    | assumption | apply KeptW.next | apply KeptW.fault | apply KeptW.cond | exact Worn.refl _ | apply State.takeSample_worn
    | apply State.watchRun_worn | apply State.sensorTriggers_worn | refine Worn.foldl ?_ fun _ _ _ => ?_ | split | (dsimp only; split)

theorem execAutoHold_worn {s : State}  : KeptW s (execAutoHold s) := by
  unfold execAutoHold
  with_reducible repeat' first
    | assumption | apply KeptW.next | apply KeptW.fault | apply KeptW.cond | exact Worn.refl _ | apply State.enterP1_worn
    | apply State.advanceTo_worn | apply Worn.cond | split | (dsimp only; split)

theorem State.hbmBad_worn {s0 s : State} {stack : Nat} {addr : Nat} {row : Nat} (hk : Worn s0 s) : Worn s0 (State.hbmBad s stack addr row)
    :=
  Worn.pass hk (State.hbmBad_only (K := 48) (Only.refl _) (Needs.refl _)) rfl

theorem State.symbolCorrected_worn {s0 s : State} {before : List (Nat × Nat × Nat)} {c : Nat × Nat × Nat} (hk : Worn s0 s) : Worn s0
    (State.symbolCorrected s before c) :=
  Worn.pass hk (State.symbolCorrected_only (K := 48) (Only.refl _) (Needs.refl _)) rfl

theorem State.rebuildFranking_worn {s0 s : State} {a : ArrId} (hk : Worn s0 s) : Worn s0 (State.rebuildFranking s a) := by
  unfold State.rebuildFranking
  with_reducible repeat' first
    | assumption | apply State.modFranking_worn

theorem State.damageDump_worn {s0 s : State} {slot : Nat} (hk : Worn s0 s) : Worn s0 (State.damageDump s slot) :=
  Worn.pass hk (State.damageDump_only (K := 8) (Only.refl _) (Needs.refl _)) rfl

theorem State.scrubbed_worn {s0 s : State} {before : State} {f : ScrubFinding} (hk : Worn s0 s) : Worn s0 (State.scrubbed s before f) := by
  unfold State.scrubbed
  with_reducible repeat' first
    | assumption | apply State.damageDump_worn | apply State.drain_worn | apply State.hbmBad_worn | apply State.invalidateMaster_worn
    | apply State.raise_worn | apply State.rebuildFranking_worn | apply State.rebuildRecord_worn | apply State.symbolCorrected_worn
    | apply State.transient_worn | exact Nat.le_refl _ | exact Nat.le_succ _ | apply Worn.cond | split | (dsimp only; split)
    | fail_if_no_progress refine Worn.mk' ?_ rfl rfl

theorem execEccScrub_worn {s : State} {pass : ScrubPass} : KeptW s (execEccScrub pass s) := by
  unfold execEccScrub
  with_reducible repeat' first
    | assumption | apply KeptW.next | apply KeptW.fault | apply KeptW.cond | exact Worn.refl _ | apply State.countDrop_worn
    | apply State.scrubbed_worn | exact Nat.le_refl _ | exact Nat.le_succ _ | apply Worn.cond | refine Worn.foldl ?_ fun _ _ _ => ?_
    | split | (dsimp only; split) | fail_if_no_progress refine Worn.mk' ?_ rfl rfl

theorem execInFieldTestDone_worn {s : State} {t : TileId} {readings : TestReadings} : KeptW s (execInFieldTestDone t readings s) := by
  unfold execInFieldTestDone
  with_reducible repeat' first
    | assumption | apply KeptW.next | apply KeptW.fault | apply KeptW.cond | exact Worn.refl _ | apply State.active_worn
    | apply State.drain_worn | apply State.modTile_worn | apply State.raise_worn | exact Nat.le_refl _ | exact Nat.le_succ _
    | apply Worn.cond | split | (dsimp only; split) | fail_if_no_progress refine Worn.mk' ?_ rfl rfl

theorem State.strapped_worn {s0 s : State} {compat : Bool} {addr0 : Bool} {addr1 : Bool} (hk : Worn s0 s) : Worn s0 (State.strapped s
    compat addr0 addr1) :=
  Worn.pass hk (State.strapped_only (K := 136) (Only.refl _) (Needs.refl _)) rfl

theorem execPowerApplied_worn {s : State} {vinMv : Nat} {rst : Bool} {compat : Bool} {addr0 : Bool} {addr1 : Bool} : KeptW s
    (execPowerApplied vinMv rst compat addr0 addr1 s) := by
  unfold execPowerApplied
  with_reducible repeat' first
    | assumption | apply KeptW.next | apply KeptW.fault | apply KeptW.cond | exact Worn.refl _ | apply State.beginReset_worn
    | apply State.bootChain_worn | apply State.strapped_worn | exact Nat.le_refl _ | exact Nat.le_succ _ | apply Worn.cond | split
    | (dsimp only; split) | fail_if_no_progress refine Worn.mk' ?_ rfl rfl

theorem State.dropVoltage_worn {s0 s : State} (hk : Worn s0 s) : Worn s0 (State.dropVoltage s).2 :=
  Worn.pass hk (State.dropVoltage_only (K := 262144) (Only.refl _) (Needs.refl _)) rfl

theorem execPowerRemoved_worn {s : State} : KeptW s (execPowerRemoved s) := by
  unfold execPowerRemoved
  with_reducible repeat' first
    | assumption | apply KeptW.next | apply KeptW.fault | apply KeptW.cond | exact Worn.refl _ | apply State.beginReset_worn
    | apply State.dropVoltage_worn | apply State.failStop_worn | exact Nat.le_refl _ | exact Nat.le_succ _ | apply Worn.cond | split
    | (dsimp only; split) | fail_if_no_progress refine Worn.mk' ?_ rfl rfl

theorem execPowerFailStop_worn {s : State} {isOver : Bool} {vinMv : Nat} : KeptW s (execPowerFailStop isOver vinMv s) := by
  unfold execPowerFailStop
  with_reducible repeat' first
    | assumption | apply KeptW.next | apply KeptW.fault | apply KeptW.cond | exact Worn.refl _ | apply State.failStop_worn
    | apply Worn.cond | split | (dsimp only; split)

theorem execSysclkLoss_worn {s : State}  : KeptW s (execSysclkLoss s) := by
  unfold execSysclkLoss
  with_reducible repeat' first
    | assumption | apply KeptW.next | apply KeptW.fault | apply KeptW.cond | exact Worn.refl _ | apply State.failStop_worn
    | apply Worn.cond | fail_if_no_progress refine Worn.mk' ?_ rfl rfl | split | (dsimp only; split)

theorem execPowerFailRecovery_worn {s : State}  : KeptW s (execPowerFailRecovery s) := by
  unfold execPowerFailRecovery
  with_reducible repeat' first
    | assumption | apply KeptW.next | apply KeptW.fault | apply KeptW.cond | exact Worn.refl _ | apply State.beginReset_worn
    | apply State.bootChain_worn | apply Worn.cond | fail_if_no_progress refine Worn.mk' ?_ rfl rfl | split | (dsimp only; split)

theorem execResetN_worn {s : State} {compat : Bool} {addr0 : Bool} {addr1 : Bool} : KeptW s (execResetN compat addr0 addr1 s) := by
  unfold execResetN
  with_reducible repeat' first
    | assumption | apply KeptW.next | apply KeptW.fault | apply KeptW.cond | exact Worn.refl _ | apply State.resetModule_worn
    | apply State.strapped_worn | apply Worn.cond | split | (dsimp only; split)

theorem execWatchdogExpiry_worn {s : State} {core : Nat} : KeptW s (execWatchdogExpiry core s) := by
  unfold execWatchdogExpiry
  with_reducible repeat' first
    | assumption | apply KeptW.next | apply KeptW.fault | apply KeptW.cond | exact Worn.refl _ | apply State.advanceTo_worn
    | apply State.crash_worn | apply State.raise_worn | apply Worn.cond | split | (dsimp only; split)

theorem execFirmwareCrash_worn {s : State} {cause : CrashCause} {core : Nat} : KeptW s (execFirmwareCrash cause core s) := by
  unfold execFirmwareCrash
  with_reducible repeat' first
    | assumption | apply KeptW.next | apply KeptW.fault | apply KeptW.cond | exact Worn.refl _ | apply State.crash_worn | apply Worn.cond
    | split | (dsimp only; split)

theorem execLockstepMismatch_worn {s : State}  : KeptW s (execLockstepMismatch s) := by
  unfold execLockstepMismatch
  with_reducible repeat' first
    | assumption | apply KeptW.next | apply KeptW.fault | apply KeptW.cond | exact Worn.refl _ | apply State.raise_worn
    | apply State.drain_worn | apply State.writeDump_worn | apply Worn.cond | fail_if_no_progress refine Worn.mk' ?_ rfl rfl | split
    | (dsimp only; split)

end Sys2Proof.Machine
end

