-- ==== Sys2Proof/WellFormed.lean ====
section
/-! DEFINITION. Which operands a command can have: the widths of the fields of frames, flits, adverts and time messages, the numbers of
ports, dies, tiles, arrays and registers, and the lengths of what an analogue event brings (02 R37, 10 Tables 10.3 to 10.10, 11 Table
11.2). The meanings are total: an operand that is not well formed has an effect too. -/

set_option Elab.async false

namespace Sys2Proof

/-- 02 R37. -/
def TileId.wf (t : TileId) : Bool := t.die < 4 && t.tile < 16384

/-- 02 R37, 07 R212. -/
def ArrId.wf (a : ArrId) : Bool := a.die < 4 && a.tile < 16384 && a.arr < 17

/-- 11 Table 11.2; with a trailer that passes, LENGTH is the payload's. -/
def FrameHdr.wf (h : FrameHdr) (payload : Bytes) : Bool :=
  h.port < 2 && h.version < 256 && h.context < 256 && h.queue < 4096 && h.length < 131072 && h.seq < 4294967296 &&
    h.tag < 18446744073709551616 && (!h.crcOk || h.length == payload.length)

/-- 12 Table 12.2: 32 bytes of command header before the arguments; a frame too short for the header has none. -/
def CmdFrame.wf (c : CmdFrame) : Bool :=
  { c.hdr with crcOk := false }.wf [] &&
    (!c.hdr.crcOk || c.hdr.length < 32 || (c.args.length + 32 == c.hdr.length && c.reserved16.length == 16)) && c.cmdver < 256 &&
    c.argLength < 4294967296 && c.resultAddr < 18446744073709551616

/-- 10 Table 10.7. -/
def CourierHdr.wf (h : CourierHdr) (payload : Bytes) : Bool :=
  (match h.inPort with
    | some p => p < 12
    | none => true) && h.version < 256 && h.type < 256 && h.dest < 1024 && h.src < 1024 && h.hops < 16 && h.job < 4294967296 &&
    h.length < 65536 && h.stamp < 18446744073709551616 && (!h.crcOk || h.length == payload.length)

/-- 10 Table 10.3. -/
def Flit.wf (f : Flit) : Bool :=
  f.seq < 4096 && f.vc < 16 && f.ack < 4096 && f.creditVc < 16 && f.credit < 4096 && f.fkind < 256 && f.data.length == 240

/-- 10 Table 10.4. -/
def Advert.wf (a : Advert) : Bool :=
  a.version < 256 && a.gens < 256 && a.coord < 1024 && a.port < 256 && a.twist < 256 && a.dim < 256 && a.lanes < 256 &&
    a.features < 18446744073709551616 && a.fabricId < 4294967296 && a.serial < 18446744073709551616

/-- 10 Table 10.10. -/
def TimeMsg.wf (m : TimeMsg) : Bool :=
  m.kind < 256 && m.depth < 256 && m.seq < 4294967296 && m.stampA < 18446744073709551616 && m.stampB < 18446744073709551616

/-- The stacks, dies and arrays that a finding of the scrubber names (14 R466, R467). -/
def ScrubFinding.wf : ScrubFinding → Bool
  | .hbmCorrected stack _ _ => stack < 16
  | .sramCorrected die _ _ => die < 5
  | .masterBad stack _ _ _ => stack < 16
  | .recordBad stack _ a => stack < 16 && a.wf
  | .frankingBad stack _ a => stack < 16 && a.wf
  | .workBad die _ tag => die < 5 && tag < 65536
  | .heldInputBad die _ => die < 5
  | .stateBad stack _ => stack < 16
  | .dumpBad slot _ => slot < 2

/-- Whether a finding is one of a pass over HBM. -/
def ScrubFinding.inHbm : ScrubFinding → Bool
  | .sramCorrected .. | .workBad .. | .heldInputBad .. => false
  | _ => true

def ScrubPass.wf (p : ScrubPass) : Bool := p.found.all fun x => x.wf && x.inHbm == p.hbm

/-- Whether the operands of a command are such as the hardware can bring. -/
def Instr.wf : Instr → Bool
  | .powerApplied vinMv _ _ _ _ => vinMv < 65536
  | .powerRemoved => true
  | .powerFailStop _ vinMv => vinMv < 65536
  | .powerFailRecovery => true
  | .resetN _ _ _ => true
  | .arraysReady => true
  | .firstEverCalibration trace runs =>
    trace.refin.length == 5 && trace.ladder.length == 4 && trace.vcref.length == 4 && runs.all fun e => e.1.wf && e.2.1.length == 320 && e.2.1.all fun r => r.length == 258
  | .watchdogWrite core => core < 4
  | .watchdogExpiry core => core < 4
  | .firmwareCrash _ core => core < 4
  | .lockstepMismatch => true
  | .helloTimer port => port < 2
  | .dispatchTrainingDone port gen => port < 2 && (gen == 1 || gen == 2)
  | .dispatchTrainingTimeout port => port < 2
  | .headerCrcFailure port => port < 2
  | .select h payload => h.wf payload
  | .step h payload => h.wf payload
  | .reorderTimeout queue seq => queue < 4096 && seq < 4294967296
  | .write h payload => h.wf payload
  | .read h payload => h.wf payload
  | .doorbellSubmission h payload => h.wf payload
  | .doorbellCompletion h payload => h.wf payload
  | .heartbeat h payload => h.wf payload
  | .parcelFrame h payload => h.wf payload
  | .regwrite h payload => h.wf payload
  | .regread h payload => h.wf payload
  | .dlreadStatus h payload => h.wf payload
  | .dlreadRead h payload => h.wf payload
  | .dlreadClear h payload => h.wf payload
  | .dlreadRestart h payload => h.wf payload
  | .l2reg h payload => h.wf payload
  | .l2data h payload => h.wf payload
  | .l2getTimeout slot => slot < 65536
  | .intakeStaleTimeout port chan => port < 2 && chan < 2
  | .leaseExpiry => true
  | .orphanSlotMove => true
  | .createWindow c => c.wf
  | .deleteWindow c => c.wf
  | .createQueue c => c.wf
  | .deleteQueue c => c.wf
  | .setEventRing c => c.wf
  | .createContext c => c.wf
  | .changeContext c => c.wf
  | .discardContext c => c.wf
  | .loadModel c => c.wf
  | .unloadModel c => c.wf
  | .loadAdapter c => c.wf
  | .unloadAdapter c => c.wf
  | .setRegions c => c.wf
  | .setServing c => c.wf
  | .releaseLease c => c.wf
  | .setFabric c => c.wf
  | .setJobTable c => c.wf
  | .releaseJob c => c.wf
  | .resetPort c => c.wf
  | .readPorts c => c.wf
  | .loadTime c => c.wf
  | .requestCalibration c => c.wf
  | .readStorm c => c.wf
  | .setPowerState c => c.wf
  | .powerEntryTimeout => true
  | .attest c => c.wf
  | .readIdentity c => c.wf
  | .updateBegin c => c.wf
  | .updateData c => c.wf
  | .updateCommit c => c.wf
  | .resetModule c => c.wf
  | .dump c => c.wf
  | .sortingRound core => core < 4
  | .prefixMatchDone stepTag entry => stepTag < 65536 && entry < 4092
  | .pageExhaustionTimeout stepTag entry => stepTag < 65536 && entry < 4092
  | .listFetchDone a => a.wf
  | .fireLatch t => t.wf
  | .converterResult t codes flags => t.wf && (codes.length == 258 && codes.all fun v => -128 ≤ v && v ≤ 127) && flags.length == 258
  | .postmarkComparison t => t.wf
  | .fireAdd t => t.wf
  | .outlierAdd t => t.wf
  | .fallbackJobDone die unit => die < 4 && unit < 64
  | .spotComparisonDone die unit => die < 4 && unit < 64
  | .adapterContribution stepTag token tensor adapter => stepTag < 65536 && token < 65536 && tensor < 65536 && adapter < 65536
  | .bankDrainDone t bank => t.wf && bank < 2
  | .drainArrival _ => true
  | .lineTimeout die off => die < 4 && off < 268435456
  | .stepCommit stepTag => stepTag < 65536
  | .stormHandling => true
  | .stormRecheck => true
  | .contributionRecord h payload => h.wf payload
  | .replayNotice h payload => h.wf payload
  | .activationRecord h payload => h.wf payload
  | .activationHoldTimeout job stepNo token => job < 4294967296 && stepNo < 18446744073709551616 && token < 65536
  | .moduleDownNotice h payload => h.wf payload
  | .jobAbortNotice h payload => h.wf payload
  | .jobWaitTimeout job => job < 4294967296
  | .courierFrameRoute h payload => h.wf payload
  | .courierParcelFrame h payload => h.wf payload
  | .routeRecompute links => links.all fun e => e.1 < 1024 && e.2.1 < 12 && e.2.2 < 1024
  | .flitReceive link f => link < 14 && f.wf
  | .flitResendTimeout link => link < 14
  | .bridgeFlitTransfer flit _ => flit.bridge < 8
  | .portDown link _ => link < 14
  | .retrainDone link lanes => link < 14 && lanes < 4
  | .retrainTimeout link => link < 14
  | .advertTimer port => port < 12
  | .advertReceived port a => port < 12 && a.wf
  | .detectTimeout port => port < 12
  | .trainingDone port => port < 12
  | .trainingTimeout port => port < 12
  | .keepaliveTimer port => port < 12
  | .timeExchangeStart => true
  | .timeSync port m _ => port < 12 && m.wf
  | .timeDelayRequest port m _ => port < 12 && m.wf
  | .timeDelayResponse port m => port < 12 && m.wf
  | .alignmentLost => true
  | .stepBoundary => true
  | .fabricWakeFrame port => port < 12
  | .laneEnergyWake port => port < 12
  | .wakeLight port => port < 2
  | .wakeN => true
  | .autoHold => true
  | .governorTick vinMv iinMa => vinMv < 65536 && iinMa < 65536
  | .railCurrentGuard quarterAmps => quarterAmps < 65536
  | .sensorSample raw => raw.all fun e => e.1 < 272
  | .throttleStepTimer => true
  | .interpolationCheck die region => die < 4 && region < 64
  | .parcelAcceptance model index => model < 4294967296 && index < 4294967296
  | .parcelIncompleteTimeout model index => model < 4294967296 && index < 4294967296
  | .recordBuilt a => a.wf
  | .programStart t => t.wf
  | .programRowEnd t => t.wf
  | .programResume t => t.wf
  | .programmingDeferred t => t.wf
  | .programComplete t _ => t.wf
  | .settlingDone t => t.wf
  | .rewriteStart a => a.wf
  | .directRewriteStart a => a.wf
  | .verifyScanDue a => a.wf
  | .verifyScanDone a raw => a.wf && (raw.length == 256 && raw.all fun row => row.length == 8 && row.all fun r => r.length == 258)
  | .driftOutOfService a => a.wf
  | .redigest _ records => records.all fun a => a.wf
  | .calibrationAgeTimer a => a.wf
  | .calibrationExpiry a => a.wf
  | .calibrationRunStart t => t.wf
  | .calibrationFitDone t raw _ => t.wf && (raw.length == 320 && raw.all fun r => r.length == 258 && r.all fun v => -128 ≤ v && v ≤ 127)
  | .traceTimer => true
  | .traceDone refin ladder vcref => refin.length == 5 && ladder.length == 4 && vcref.length == 4
  | .referenceUntraced => true
  | .heldExpiry slot => slot < 65536
  | .inFieldTestDue t => t.wf
  | .inFieldTestStart t => t.wf
  | .inFieldTestForced t => t.wf
  | .inFieldTestDone t r => t.wf && r.structural.all (· < 92) && r.raw.length == 64 &&
      r.raw.all fun l => l.length == 258 && l.all fun v => -128 ≤ v && v ≤ 127
  | .eccScrub pass => pass.wf
  | .sealScan upsets => upsets.all fun e => e.1 % 4 == 0 && e.1 < 1048576
  | .sealOpenTimeout => true
  | .sealOpen _ _ => true
  | .sealCommit _ _ => true
  | .traceNow _ _ => true
  | .lbSelWrite _ n _ => n < 16
  | .letterboxSnapshotDone n => n < 16
  | .evrNewestWrite _ _ => true
  | .dlCtlClear _ _ => true
  | .dlCtlRestart _ _ => true
  | .dlWinWrite _ _ => true
  | .intakeCtlWrite _ _ => true
  | .compHeadWrite queue _ => queue < 4096
  | .evtHeadWrite _ => true
  | .sadcStart _ n _ => n < 5
  | .sadcStop _ n _ => n < 5
  | .sadcGo _ n _ => n < 5
  | .sadcSettled n => n < 5
  | .sadcConversionDone n vinUv vrefUv => n < 5 && vinUv < 4294967296 && vrefUv < 4294967296
  | .registerWrite _ addr _ => (addr % 4 == 0 && addr < 1048576)
  | .i3cDynamicAddress addr => addr < 128
  | .i3cPrivateWrite _ => true
  | .i3cPrivateRead count => count < 65536
  | .extest pins shifted => pins.length == 204 && shifted.length == 204
  | .extestPulse pins shifted => pins.length == 204 && shifted.length == 204
  | .extestTrain pins shifted => pins.length == 204 && shifted.length == 204
  | .samplePreload pins shifted => pins.length == 204 && shifted.length == 204
  | .clamp => true
  | .highz => true
  | .idcode => true
  | .bypass opcode => opcode < 256
  | .sysclkLoss => true
  | .laneLock port lane number _ => port < 12 && lane < 8 && number < 8
  | .trstN => true
  | .reservedOpcode c opcode => c.wf && opcode < 65536
  | .reservedFrameType h type chan payload => h.wf payload && type < 256 && chan < 2
  | .attentionResult stepTag token head => stepTag < 65536 && token < 65536 && head < 65536
  | .heldPageWritten slot => slot < 65536
  | .compactionDone stepTag => stepTag < 65536

end Sys2Proof
end

