-- ==== Sys2Proof/Tests/Slice0.lean ====
section
/-! SUPPORT. The row's own tests: ill-formed commands that WellFormed refuses, the worked examples of the spec's
sections (the section is named at each), single steps of small states, and, from "Witnesses" on, for every clause of
every statement in Certificates/Slice0/Obligations.lean that has hypotheses a concrete state and operands which meet
them all together. -/

namespace Sys2Proof.Tests
open Sys2Proof.Machine

set_option Elab.async false
set_option maxRecDepth 20000

/-- A lease on the step counter that lets every feature be used. -/
def lease : Lease :=
  { host := 7, stamp := 50, onCounter := true, version := 2, mode := 0, features := 0x1FFF, suspended := false }

def openPort : DspPort := { DspPort.reset with state := .up, gen := 2, selected := true }

/-- The module in P0 Run with its firmware running, the step counter VALID and a live lease. -/
def up : State :=
  { State.reset with
    tm := { Clocks.reset with tick := 100, counter := 100, valid := true },
    bt := { Boot.reset with run := .running, record := some ConfigRecord.reset, image := some Image.reset },
    dp := { Dispatch.reset with ports := [openPort, openPort], lease := some lease, last := some lease } }

/-- `up` with other clocks, power, boot, … -/
def upTm (f : Clocks → Clocks) : State := { up with tm := f up.tm }
def upPw (f : Power → Power) : State := { up with pw := f up.pw }
def upBt (f : Boot → Boot) : State := { up with bt := f up.bt }
def upRg (f : Regs → Regs) : State := { up with rg := f up.rg }
def upEv (f : Events → Events) : State := { up with ev := f up.ev }
def upDp (f : Dispatch → Dispatch) : State := { up with dp := f up.dp }
def upSv (f : Serving → Serving) : State := { up with sv := f up.sv }
def upKv (f : Kv → Kv) : State := { up with kv := f up.kv }
def upWt (f : Weights → Weights) : State := { up with wt := f up.wt }
def upFb (f : Fabric → Fabric) : State := { up with fb := f up.fb }
def upCl (f : Calib → Calib) : State := { up with cl := f up.cl }
def upRd (f : Reductions → Reductions) : State := { up with rd := f up.rd }
def drained : State := upBt fun b => { b with drained := some 1 }

/-- A frame header whose checks pass, for a payload of a length. -/
def hdr (n : Nat) : FrameHdr :=
  { port := 0, version := 2, ackReq := false, context := 1, queue := 3, length := n, seq := 5, tag := 9, crcOk := true }

def bytes (n : Nat) : Bytes := List.replicate n 0

def waiter (seq : Nat) : Waiting :=
  { seq := seq, tag := 9, payload := [], tuiven1 := false, features := 0x1FFF, since := 100, port := 0, ackReq := false, source := none, refuse := 0 }

/-- Queue 3 of context 1, with no step waiting. -/
def queue3 : Queue :=
  { id := 3, ctx := 1, prio := 2, weight := 1, sub := ⟨0, 1, 0, 0⟩, comp := ⟨0, 1, 0, 0⟩, expected := 5, reorder := [], waiting := [],
    admitted := 0, ownPort := none, deleting := false, silent := false, order := [], ended := [], unacked := [], window := [],
    retained := [] }

def context1 : Context :=
  { id := 1, tenant := 1, model := 1, draftModel := 0, draftLength := 0, adapters := [], seqQuota := 8, temperature := 0, topK := 0,
    seed := 0, padToken := 0, discarding := false }

def entry0 : LenEntry :=
  { slot := 2, kind := 1, output := 0, pfx := false, hold := false, tokens := 1, adapterCount := 0, adapterIndex := 0, position := 0,
    holdTtl := 0, reservedZero := true }

def command0 : StepCmd :=
  { version := 1, fence := false, reservedZero := true, entryCount := 1, tokenCount := 1, stepNumber := 4, job := 6, firstLayer := 0,
    lastLayer := 0, entries := [entry0], adapterListCount := 0, adapters := [], tokens := [(5, 0xFFFF, 0)] }

def entryWork0 : EntryWork :=
  { prefill := true, status := none, cause := 0, matched := 0, matchPending := false, stalledAt := none, restoring := false, oldNode := none,
    compacted := false, endCommit := 0 }

def token0 : TokenWork :=
  { entry := 0, draft := false, elem := 0, token := 5, parent := 0xFFFF, position := 0, storage := 0, padding := false, matched := false,
    known := true, layer := 0, stage := 0, since := 0, vec := [], delivered := [], heads := [], logits := [], finished := false }

/-- Open step 7 of queue 3, not yet replayed. -/
def work : OpenStep :=
  { tag := 7, epoch := 0, queue := 3, ctx := 1, seq := 4, hostTag := 9, port := 0, buckets := false, payload := [], source := none,
    cmd := command0, attrs := context1, model := 1, draftModel := 0, prio := 2, begun := 90, entries := [entryWork0], tokens := [token0],
    fires := 0, equivs := [0, 0, 0, 0, 0], perArray := [], spotDies := [], spotPass := [], staged := [], aborted := false }

/-- `up` with queue 3 as `q`, and with open step 7 as `o`. -/
def withQueue (q : Queue) : State := upSv fun x => { x with queues := [q] }
def withStep (o : OpenStep) : State := upSv fun x => { x with queues := [queue3], steps := [o] }

theorem queue_is_the_only_one {s : State} {q0 q : Queue} {k : Nat} (hs : s.sv.queues = [q0]) (h : s.queue k = some q) : q = q0 := by
  unfold State.queue at h
  rw [hs] at h
  simp only [List.find?] at h
  split at h
  · exact (Option.some.inj h).symm
  · cases h

/-- A record whose converters have no weights: all of them are weak in a run. -/
def plainRecord : CodeRecord := { blankRecord with codes := [], pmh := [], pml := [] }

theorem plain_cell_measures_nothing (xs : List (List Int)) (j r : Nat) : fitCell plainRecord [] [] xs j r = ⟨0, 0, 0⟩ := by
  have hw : converterWeights plainRecord j = [] := by
    unfold converterWeights
    split
    · rfl
    · split <;> rfl
  have he (x : List Int) : fitE plainRecord [] x j = 0 := by
    unfold fitE columnValue
    rw [hw]
    have : dot [] x = 0 := rfl
    simp [this, at']
  unfold fitCell
  simp only [he]
  simp only [at', List.getD_nil]
  rfl

theorem plain_cells_are_weak (r : Nat) : (FitCell.mk 0 0 0).weak r = true := by
  have : 0 < 65536 * lsb r := Nat.mul_pos (by omega) (Nat.pow_pos (by omega))
  have h : (0 : Int) < 65536 * lsb r := by exact_mod_cast this
  unfold FitCell.weak
  rw [decide_eq_true_eq, pow_two]
  exact Int.mul_pos (by decide) (Int.mul_pos h h)

theorem every_plain_cell (j r : Nat) :
    at' (at' ((List.range 258).map fun _ => (List.range 4).map fun _ => FitCell.mk 0 0 0) j []) r ⟨0, 0, 0⟩ = ⟨0, 0, 0⟩ := by
  unfold at'
  simp only [List.getD_eq_getElem?_getD, List.getElem?_map]
  cases (List.range 258)[j]? with
  | none => rfl
  | some _ =>
    simp only [Option.map_some, Option.getD_some, List.getElem?_map]
    cases (List.range 4)[r]? <;> rfl

/-- What a run finds at 30 degC for a tile of which no entry is stored: zeros. -/
def noEntries : Anchor := interpolateSet 480 []

theorem noEntries_zero :
    noEntries = { k := List.replicate 4 0, z := List.replicate 4 0, g := List.replicate 258 0, f := List.replicate 258 0 } := by
  decide +kernel

theorem plain_fit_passes :
    (fitRun plainRecord [] noEntries []).fail = false ∧
      ∀ e ∈ buildEntries (newAnchor neutralAnchor (fitRun plainRecord [] noEntries []).measured noEntries) [], anchorInSpan e = true := by
  have hf : fitRun plainRecord [] noEntries [] =
      { measured := { k := noEntries.k, z := List.replicate 4 0, g := noEntries.g, f := List.replicate 258 0 }, offsetsOnly := true, fail := false } := by
    unfold fitRun
    simp only [plain_cell_measures_nothing, every_plain_cell, plain_cells_are_weak, Bool.not_true, List.filter_false, List.length_nil,
      List.any_nil]
    decide +kernel
  have hn : newAnchor neutralAnchor { k := noEntries.k, z := List.replicate 4 0, g := noEntries.g, f := List.replicate 258 0 } noEntries =
      { k := List.replicate 4 32768, z := List.replicate 4 0, g := List.replicate 258 32768, f := List.replicate 258 0 } := by
    rw [noEntries_zero]
    decide +kernel
  rw [hf]
  refine ⟨rfl, ?_⟩
  rw [hn]
  decide +kernel

/-- A command frame of version 1 without a result address, with its arguments. -/
def command (args : Bytes) : CmdFrame :=
  { hdr := hdr (32 + args.length), cmdver := 1, reserved1 := 0, argLength := args.length, resultAddr := 0, reserved16 := bytes 16,
    args := args }

/-- `up` with a window of each kind. -/
def windowed : State := upSv fun x =>
  { x with windows := [⟨255, .step, 0x010000000000, 65536⟩, ⟨1, .ring, 0x010000010000, 131072⟩, ⟨2, .result, 0x010000030000, 65536⟩] }

def layer0 : LayerRec :=
  { norm := 1, activation := 1, kvB16 := false, headDim := 64, qHeads := 1, kvHeads := 1, rotary := 0, gains := [], tensors := [] }
def model1 : Model := { num := 1, layers := [layer0], vocab := 256, embed := 0, unloading := false }

/-- `up` with model 1 resident. -/
def withModel : State := upWt fun x => { x with models := [model1] }

/-- The payload of an activation record of one F32 element for a step and epoch. -/
def activation (step epoch : Nat) : Bytes :=
  natLe 4 1 ++ natLe 4 epoch ++ natLe 8 step ++ natLe 4 2 ++ natLe 4 0 ++ natLe 2 1 ++ natLe 6 0 ++ natLe 4 0x3F800000

/-- A parcel of one block, 1 row by 1 column of T4, for array 0 of tile 0 of die 0. -/
def master : Master :=
  { hdr := { version := 1, format := 0, model := 1, layer := 0, tensor := 0, destCoord := 0, destMask := 1023, die := 0, arrayMask := 1,
             tileFirst := 0, tileCount := 1, rows := 1, cols := 1, rowFirst := 0, colFirst := 0, index := 3, outlierMax := 0, satCount := 0,
             length := 0, digest := 0 },
    header := bytes 128, payload := [], stack := 0, invalid := false }

/-- A digest that the record of `master` has. -/
def masterDigest : Nat := (parcelRecord master 0).digest

/-- A digest that it does not have. -/
def otherDigest : Nat := if masterDigest = 0 then 1 else 0

theorem first_entry {s : State} {a : ArrId} {e : DirEntry} {l : List (ArrId × DirEntry)} (h : s.wt.directory = (a, e) :: l) :
    s.dir a = e := by
  unfold State.dir lookupD
  rw [h]
  simp

theorem digests_differ {s : State} {a : ArrId} (e : DirEntry) (h : s.dir a = e) (hq : master.position a = 0)
    (hp : e.recordDigest = otherDigest) : (parcelRecord master (master.position a)).digest ≠ (s.dir a).recordDigest := by
  rw [h, hp, hq]
  unfold otherDigest masterDigest
  split <;> omega

theorem digests_agree {s : State} {a : ArrId} (e : DirEntry) (h : s.dir a = e) (hq : master.position a = 0)
    (hp : e.recordDigest = masterDigest) : (parcelRecord master (master.position a)).digest = (s.dir a).recordDigest := by
  rw [h, hp, hq]
  rfl

theorem drivers_of_many (s : State) (die : Nat) (x : Tile) (f : Nat → Tile) (n : Nat) (hs : s.tl.tiles = x :: (List.range n).map f)
    (hf : ∀ k, (f k).id.die = die ∧ (f k).prog.any (fun p => !p.displaced) = true) : n ≤ s.driversOf die := by
  have hall : ((List.range n).map f).filter (fun t => t.id.die == die && t.driving) = (List.range n).map f := by
    apply List.filter_eq_self.mpr
    intro t ht
    obtain ⟨k, -, rfl⟩ := List.mem_map.mp ht
    obtain ⟨h1, h2⟩ := hf k
    simp [Tile.driving, h1, h2]
  unfold State.driversOf
  rw [hs, List.filter_cons, hall]
  split <;> simp

/-- The entry of `master`'s array in service with its own record's digest, and with another. -/
def sameEntry : DirEntry := { freshDir with astate := .inService, model := 1, parcel := 3, recordDigest := masterDigest }
def otherEntry : DirEntry := { freshDir with astate := .inService, model := 1, parcel := 3, recordDigest := otherDigest }

/-- The same two of an UNBOUND array. -/
def sameUnbound : DirEntry := { freshDir with astate := .unbound, model := 1, parcel := 3, recordDigest := masterDigest }
def otherUnbound : DirEntry := { freshDir with astate := .unbound, model := 1, parcel := 3, recordDigest := otherDigest }

theorem sameEntry_digest : sameEntry.recordDigest = masterDigest := by simp only [sameEntry]
theorem otherEntry_digest : otherEntry.recordDigest = otherDigest := by simp only [otherEntry]
theorem sameUnbound_digest : sameUnbound.recordDigest = masterDigest := by simp only [sameUnbound]
theorem otherUnbound_digest : otherUnbound.recordDigest = otherDigest := by simp only [otherUnbound]

/-- A held record of `n` elements. -/
def heldOfSize (n : Nat) : Activation := ⟨6, 3, 0, 0, 0, true, List.replicate n 0, 90⟩

theorem large_held (s : State) (n x : Nat) (hs : s.fb.held = [heldOfSize n]) (h : 4194304 ≤ n) :
    16777216 < sumList (s.fb.held.map Activation.size) + x := by
  rw [hs]
  simp only [heldOfSize, sumList, Activation.size, List.map_cons, List.map_nil, List.foldl_cons, List.foldl_nil, List.length_replicate,
    if_true]
  omega

/-- A fire of array 2 in a range for the reduction of open step 7. -/
def fire (range : Nat) : Fire :=
  { arr := 2, spare := false, range := range, mode := 0, shifts := [0, 0, 0, 0, 0, 0, 0, 0], close := false, kind := 0, inputSlot := 4,
    red := ⟨7, 0, ⟨0, 1⟩⟩, token := 0, queued := 0, selected := false, bank := some 0, reserved := 0, num := 1, covered := false }

def input0 : InputSlot :=
  { die := 0, id := 4, codes := [], scale := 0x38, shifts := [0, 0, 0, 0, 0, 0, 0, 0], wide := false, saturated := false, b16 := [],
    stepTag := 7, token := 0, layer := 0, tensor := 8, off := 0 }

/-- That fire with its codes in the driver latches. -/
def flight (range : Nat) : Flight :=
  { fire := fire range, input := input0, skip := [], cells := 2, bank := 0, null := false, coefs := ⟨neutralAnchor, []⟩, raw := [], y := [],
    converted := true, overrun := false, passed := false }

/-- `up` with open step 7 and input slot 4 of die 0. -/
def withInput : State := upSv fun x => { x with queues := [queue3], steps := [work], inputs := [input0] }

/-- A layer with Q and K tensors, one head of two elements, whose token 0 has its query. -/
def headLayer : LayerRec := { layer0 with headDim := 2, tensors := [⟨8, 0, 1, 0, 64, 2, []⟩, ⟨9, 1, 1, 0, 64, 2, []⟩] }
def headToken : TokenWork := { token0 with delivered := [(8, 0, [0, 0])] }
def headStep : OpenStep := { work with tokens := [headToken] }
def withHead : State :=
  { withStep headStep with
    wt := { up.wt with models := [{ model1 with layers := [headLayer] }] },
    kv := { up.kv with pages := [⟨2, false, 0, 0, ⟨0, 0, 0⟩, false, ⟨false, 1, 2⟩⟩],
                       frames := [⟨⟨0, 0, 0⟩, 8192, .priv 2, [⟨false, 0, 0, 1, [0, 0], .tentative 7⟩, ⟨true, 0, 0, 1, [0, 0], .tentative 7⟩]⟩] } }

def slot2 : Slot :=
  { id := 2, state := .held, ctx := 1, commit := 64, node := none, draftLen := 0, lowered := false, draftOf := 0, rejects := 0, draftCommit := 0, lag := none, lastCommit := 0, prio := 2,
    tokens := [] }

/-- The one tensor of `parcelModel`: 64 rows, 1 column. -/
def parcelModel : Model := { model1 with layers := [{ layer0 with tensors := [⟨8, 0, 1, 0, 64, 1, []⟩] }] }

/-- `up` with tile 3 of die 0 as `f` makes it from a fresh one, its region at a temperature in 1/16 degC. -/
def withTile (f : Tile → Tile) (temp : Int := 480) : State :=
  { up with tl := { up.tl with tiles := [f (freshTile ⟨0, 3⟩)] }, th := { up.th with sensors := [⟨0, temp, temp, 0, false, [], false⟩] } }

/-- A load of array 2 with the calibration record, and a rewrite of array 2 from its own record, at the end of a row. -/
def load2 (row : Nat) : Program := { mkProgram 2 2 true with phase := .rows, row := row, cycles := 1 }
def rewrite2 (row : Nat) : Program := { mkProgram 2 2 false with phase := .rows, row := row, cycles := 1 }

/-- Array 2 with a directory entry and a resident record. -/
def holding2 (e : DirEntry) (s : State) : State :=
  { s with wt := { s.wt with directory := [(⟨0, 3, 2⟩, e)], records := [(⟨0, 3, 2⟩, plainRecord)] } }

/-- Line 1 of die 0, for array outputs of open step 7; and a drain of tile 3 to it. -/
def line1 (pending : Nat) (elems : List Int) : Line :=
  { version := 1, id := ⟨0, 1⟩, stepTag := 7, epoch := 0, pending := pending, initial := 2, complete := false, fault := false, outfmt := 0,
    width := 256, owner := 0, dest := ⟨0, 0, 8, 0⟩, window := [], home := ⟨0, 3⟩, biased := true, issued := true, quiet := none, elems := elems }
def drain1 (final : Bool) (regs : List Int) : Drain := ⟨⟨0, 3⟩, ⟨0, 1⟩, 7, 0, final, regs, [0]⟩
def reducing (lines : List Line) (drains : List Drain) : State := { withStep work with rd := { up.rd with lines := lines, drains := drains } }

/-- An adapter's lines of 512 zeros with the scale of encoding 1, and the memory of the window that holds one with its descriptor. -/
def zeroLine : Bytes := bytes 512 ++ List.replicate 16 1 ++ bytes 16
def adapterBytes : Bytes := natLe 2 0 ++ natLe 2 8 ++ natLe 2 4 ++ natLe 2 0 ++ natLe 8 16 ++ (zeroLine ++ zeroLine)
def adapterMem : List Host.Cell := memWrite [] 0x010000000000 adapterBytes
def target8 : Nat × Nat × Nat × Bytes × Bytes := (0, 8, 4, zeroLine, zeroLine)
def adapter5 : Adapter := ⟨5, 1, [target8], [1], false⟩
def loadAdapter5 : CmdFrame := command (natLe 2 5 ++ natLe 2 1 ++ natLe 4 1 ++ natLe 4 1104 ++ natLe 4 0 ++ natLe 8 0x010000000000)
def adapterState (mem : List Host.Cell) (l : List Adapter) : State :=
  { windowed with sv := { windowed.sv with mem := mem, adapters := l }, wt := { up.wt with models := [parcelModel] } }

/-- Tile 3 with its lists being fetched, beside a cache that holds those of array 5. -/
def fetching (saturated : List (Nat × List (Bool × Nat))) : State :=
  { withStep work with
    tl := { up.tl with tiles := [{ freshTile ⟨0, 3⟩ with fires := [{ fire 1 with arr := 5 }] }],
                       regions := [{ freshRegion 0 0 with fetching := [⟨0, 3, 2⟩], cache := [⟨⟨0, 3, 5⟩, saturated⟩] }] },
    wt := { up.wt with records := [(⟨0, 3, 2⟩, plainRecord)] } }

theorem large_cache (s : State) (e : CachedLists) (x : Nat) (h : 8193 ≤ e.saturated.length) : listCacheBytes < s.cacheBytes [e] + x := by
  simp only [State.cacheBytes, listBytes, listCacheBytes, List.map_cons, List.map_nil, sumList, List.foldl_cons, List.foldl_nil]
  omega

theorem no_room (s : State) (need : Nat) (e : CachedLists) (h : s.arrayNamed e.arr = true) : s.cacheRoom need 1 [e] = [e] := by
  unfold State.cacheRoom
  split
  · rfl
  · simp [h]

theorem full_cache (l : List (Nat × List (Bool × Nat))) (h : 8193 ≤ l.length) : ∃ s : State, ∃ a : ArrId, ∃ r : CodeRecord,
    let g := s.region a.die (unitOf a.tid)
    let e := s.fetchedLists a
    let kept := s.cacheRoom (s.cacheBytes [e]) g.cache.length (g.cache.filter fun y => y.arr != a)
    s.inRun = true ∧
    s.record a = some r ∧
    (s.region a.die (unitOf a.tid)).fetching.contains a = true ∧
    listCacheBytes < s.cacheBytes kept + s.cacheBytes [e] := by
  refine ⟨fetching l, ⟨0, 3, 2⟩, plainRecord, rfl, rfl, rfl, ?_⟩
  change listCacheBytes < State.cacheBytes _ (State.cacheRoom _ _ 1 [⟨⟨0, 3, 5⟩, l⟩]) + _
  rw [no_room (fetching l) _ _ rfl]
  exact large_cache _ _ _ h

/-- Open step 7 with the target of adapter 5 staged on die 0, a home bank of its line and input slot 4 as `i`. -/
def adapting (t : Nat × Nat × Nat × Bytes × Bytes) (i : InputSlot) : State :=
  { withStep { work with staged := [⟨0, 5, t⟩] } with
    sv := { (withStep { work with staged := [⟨0, 5, t⟩] }).sv with inputs := [i] },
    wt := { up.wt with models := [parcelModel] },
    tl := { up.tl with tiles := [{ freshTile ⟨0, 3⟩ with bank1 := { emptyBank with state := .closing, red := some ⟨7, 0, ⟨0, 1⟩⟩ } }] } }

/-- A target of 448s at the greatest scale, and an input of the greatest B16 numbers. -/
def largeLine : Bytes := List.replicate 512 126 ++ List.replicate 16 0x7E ++ bytes 16
def largeTarget : Nat × Nat × Nat × Bytes × Bytes := (0, 8, 4, largeLine, zeroLine)
def largeInput : InputSlot := { input0 with saturated := true, b16 := List.replicate 64 0x7F7F }

/-- A step of two entries of one token each, of which the first has its head still to run on prefill engine 0. -/
def twoEntries : OpenStep :=
  { headStep with cmd := { command0 with entryCount := 2, entries := [entry0, entry0] }, entries := [entryWork0, entryWork0],
                  tokens := [headToken, { headToken with entry := 1 }] }
def withTwo : State := { withHead with sv := (withStep twoEntries).sv }

/-- A job of one input vector for array 2 of tile 3, and a spot copy of it. -/
def job2 (mode : Nat) : FbJob := ⟨3, 2, 2, 7, [⟨input0, mode, ⟨7, 0, ⟨0, 1⟩⟩, 0⟩]⟩
def spot2 (y : Int) : SpotJob := ⟨0, 3, 2, 2, 7, 0, 0, [y], 3, 0, input0, 1⟩
def withUnit (jobs : List FbJob) (spots : List SpotJob) : State :=
  { withStep work with
    tl := { up.tl with regions := [{ freshRegion 0 0 with jobs := jobs, spots := spots }] },
    wt := { up.wt with records := [(⟨0, 3, 2⟩, { plainRecord with cflag := [] })] } }

def courier : CourierHdr :=
  { inPort := some 0, version := 1, type := 3, dest := 5, src := 3, hops := 1, ordered := false, detoured := false, job := 6, length := 0,
    stamp := 0, crcOk := true }

/-- Module 5, whose port 0 is UP, with a contribution ledger of step 4 of job 6, or with that step open; a frame of TYPE 1 to it. -/
def carrying (s : State) : State :=
  { s with fb := { up.fb with coord := 5, coordValid := true, dim := 3, ports := up.fb.ports.set 0 { CourierPort.reset with state := .up, features := 0x1FF } } }
def withLedger (epoch : Nat) : State := carrying { up with rd := { up.rd with ledgers := [⟨6, 4, epoch, 90, []⟩] } }
def type1 : CourierHdr := { courier with type := 1 }
def contribution1 (epoch : Nat) : Bytes :=
  natLe 4 1 ++ natLe 4 6 ++ natLe 8 4 ++ natLe 1 epoch ++ natLe 1 0 ++ natLe 2 1 ++ natLe 12 0 ++ natLe 12 0
def notice1 (epoch : Nat) : Bytes := natLe 1 1 ++ natLe 1 1 ++ natLe 2 0 ++ natLe 4 6 ++ natLe 8 4 ++ natLe 1 epoch ++ natLe 15 0

/-- A step of one entry that opens slot 2 with one token; `last` is its LAST_LAYER. -/
def stepBytes (last : Nat) (job : Nat := 0) : Bytes :=
  natLe 1 1 ++ natLe 1 0 ++ natLe 2 1 ++ natLe 4 1 ++ natLe 8 4 ++ natLe 4 job ++ natLe 2 0 ++ natLe 2 last ++ natLe 40 0 ++
    natLe 4 2 ++ natLe 4 1 ++ natLe 8 0 ++ natLe 4 5

/-- Queue 3 with that step waiting, context 1 as `c`, and model 1. -/
def rounding (last : Nat) (c : Context) : State :=
  { upSv fun x => { x with queues := [{ queue3 with waiting := [{ waiter 5 with payload := stepBytes last }] }], contexts := [c] } with
    wt := { up.wt with models := [model1] } }

/-- A B16 parcel of zeros for that tensor; its digest is SHA-512 of the first 64 bytes and the payload, computed outside the model. -/
def parcelBytes : Bytes :=
  natLe 1 1 ++ natLe 1 3 ++ natLe 2 0 ++ natLe 4 1 ++ natLe 2 0 ++ natLe 2 8 ++ natLe 2 0 ++ natLe 2 1023 ++ natLe 2 0 ++ natLe 2 1 ++
    natLe 2 0 ++ natLe 2 1 ++ natLe 4 64 ++ natLe 4 1 ++ natLe 4 0 ++ natLe 4 0 ++ natLe 4 3 ++ natLe 2 0 ++ natLe 2 0 ++ natLe 4 0 ++
    natLe 4 0 ++ natLe 8 128 ++
    natBe 64 0x67ef081f7ace3fc3610a4ab2ce5dff5bdc95ae54e870050117e5121824d63670861c2b66c92b9169198420143497b288050b43b6635ece74506bfcbed79798b2 ++
    bytes 128

/-- What LOAD_ADAPTER reads of that memory. -/
theorem adapter_parses : parseTarget parcelModel adapterBytes 0 = some target8 := by decide +kernel

theorem adapter_is_read (l : List Adapter) :
    let u := (adapterState adapterMem l).heard loadAdapter5.hdr 0
    allSome ((List.range (fld loadAdapter5.args 2 2)).map
      (parseTarget parcelModel (u.readMem (fld loadAdapter5.args 16 8) (fld loadAdapter5.args 8 4)))) = some [target8] := by
  have ha : fld loadAdapter5.args 16 8 = 0x010000000000 := by decide +kernel
  have hl : fld loadAdapter5.args 8 4 = adapterBytes.length := by decide +kernel
  have hr : List.range (fld loadAdapter5.args 2 2) = [0] := by decide +kernel
  intro u
  have hm : u.readMem 0x010000000000 adapterBytes.length = adapterBytes := memRead_memWrite [] _ _ rfl
  rw [hr, ha, hl, hm, List.map_cons, adapter_parses]
  rfl

/-- DIGEST stands outside the bytes it is taken over. -/
theorem digest_covers_the_rest (r : TileRecord) (d : Nat) : { r with digest := d }.digestDue = r.digestDue := by
  have around (hd x t1 t2 t3 t4 : Bytes) (h : hd.length = 64) (hx : x.length = 64) :
      (hd ++ x ++ t1 ++ t2 ++ t3 ++ t4).take 64 ++ (hd ++ x ++ t1 ++ t2 ++ t3 ++ t4).drop 128 = hd ++ (t1 ++ (t2 ++ (t3 ++ t4))) := by
    have e : hd ++ x ++ t1 ++ t2 ++ t3 ++ t4 = (hd ++ x) ++ (t1 ++ (t2 ++ (t3 ++ t4))) := by simp only [List.append_assoc]
    rw [e, List.drop_left' (by rw [List.length_append, h, hx]), List.append_assoc, List.take_left' h]
  have field (v : Nat) : (natBe 64 v).length = 64 := by rw [natBe, List.length_reverse, natLe_length]
  unfold TileRecord.digestDue TileRecord.bytes
  rw [around _ _ _ _ _ _ (by simp only [List.length_append, natLe_length]) (field d),
    around _ _ _ _ _ _ (by simp only [List.length_append, natLe_length]) (field r.digest)]

/-- A store of one record fails with it. -/
theorem store_fails {s : State} {r : TileRecord} (hs : s.cl.store = [r]) (h : r.digest ≠ r.digestDue) : s.storeBad ≠ none := by
  unfold State.storeBad
  rw [hs, List.find?_cons_of_pos (p := fun r : TileRecord => r.digest != r.digestDue) (bne_iff_ne.2 h)]
  exact Option.some_ne_none _

/-- A tile record of tile 3. -/
def plainTile (d : Nat) : TileRecord :=
  { version := 1, tid := ⟨0, 3⟩, field := true, avalid := [], shape := [], anchors := [], atimes := [], digest := d }

theorem some_digest_fails (r : TileRecord) : ∃ d, { r with digest := d }.digest ≠ { r with digest := d }.digestDue := by
  have other : ∃ d, d ≠ r.digestDue := exists_ne _
  exact other.elim fun d h => ⟨d, fun e => h (e.trans (digest_covers_the_rest r d))⟩

/-- Array 2 with a directory entry, its scan's last fire done. -/
def scanned (e : DirEntry) : State := holding2 e (withTile fun x => { x with scans := [(2, 0)] })

/-- What the scan without raw codes reads back from `plainRecord`. -/
def scannedBack (s : State) : CodeRecord :=
  let levels := scanLevels (s.scanSet (s.tile ⟨0, 3⟩) 2) []
  readBackRecord plainRecord levels (deviations plainRecord levels) (driftDeltas (relative (deviations plainRecord levels)))

/-- The digest of that, and another. -/
def scanDigest : Nat := (scannedBack (scanned freshDir)).codeDigest
def otherScanDigest : Nat := if scanDigest = 0 then 1 else 0
def scanEntry (a : AState) (d : Nat) : DirEntry := { freshDir with astate := a, codeDigest := d }

theorem scanEntry_digest (a : AState) (d : Nat) : (scanEntry a d).codeDigest = d := by simp only [scanEntry]
theorem scanEntry_state (a : AState) (d : Nat) : (scanEntry a d).astate = a := by simp only [scanEntry]

def flit : Flit := ⟨0, 0, 0, false, 0, 0, 0, true, bytes 240⟩
def advert : Advert := ⟨1, 3, 1, true, 0, 0, 1, 3, 0x1FF, 9, 1, true⟩

/-! ### Ill-formed operands, one for each check -/

theorem test_wf_refuses_frame_fields :
    [{ hdr 0 with port := 2 }, { hdr 0 with version := 256 }, { hdr 0 with context := 256 }, { hdr 0 with queue := 4096 },
      { hdr 0 with length := 131072 }, { hdr 0 with seq := 2 ^ 32 }, { hdr 0 with tag := 2 ^ 64 }, hdr 1].all (fun h =>
        !(Instr.step h []).wf && !(Instr.reservedFrameType h 30 1 []).wf) = true := by decide +kernel

theorem test_wf_refuses_every_frame_command :
    [Instr.select (hdr 1) [], .step (hdr 1) [], .write (hdr 1) [], .read (hdr 1) [], .doorbellSubmission (hdr 1) [],
      .doorbellCompletion (hdr 1) [], .heartbeat (hdr 1) [], .parcelFrame (hdr 1) [], .regwrite (hdr 1) [], .regread (hdr 1) [],
      .dlreadStatus (hdr 1) [], .dlreadRead (hdr 1) [], .dlreadClear (hdr 1) [], .dlreadRestart (hdr 1) [], .l2reg (hdr 1) [],
      .l2data (hdr 1) []].all (fun i => !i.wf) = true := by decide +kernel

theorem test_wf_refuses_command_fields :
    [{ command [] with hdr := { hdr 32 with port := 2 } }, { command [] with args := [1] }, { command [] with reserved16 := [] },
      { command [] with cmdver := 256 }, { command [] with argLength := 2 ^ 32 }, { command [] with resultAddr := 2 ^ 64 }].all (fun c =>
        [Instr.createWindow c, .deleteWindow c, .createQueue c, .deleteQueue c, .setEventRing c, .createContext c, .changeContext c,
          .discardContext c, .loadModel c, .unloadModel c, .loadAdapter c, .unloadAdapter c, .setRegions c, .setServing c, .releaseLease c,
          .setFabric c, .setJobTable c, .releaseJob c, .resetPort c, .readPorts c, .loadTime c, .requestCalibration c, .readStorm c,
          .setPowerState c, .attest c, .readIdentity c, .updateBegin c, .updateData c, .updateCommit c, .resetModule c, .dump c,
          .reservedOpcode c 0x91].all fun i => !i.wf) = true := by decide +kernel

theorem test_wf_refuses_courier_fields :
    [{ courier with inPort := some 12 }, { courier with version := 256 }, { courier with type := 256 }, { courier with dest := 1024 },
      { courier with src := 1024 }, { courier with hops := 16 }, { courier with job := 2 ^ 32 }, { courier with length := 65536 },
      { courier with stamp := 2 ^ 64 }, { courier with length := 1 }].all (fun h =>
        [Instr.contributionRecord h [], .replayNotice h [], .activationRecord h [], .moduleDownNotice h [], .jobAbortNotice h [],
          .courierFrameRoute h [], .courierParcelFrame h []].all fun i => !i.wf) = true := by decide +kernel

theorem test_wf_refuses_link_fields :
    [Instr.flitReceive 14 flit, .flitReceive 0 { flit with seq := 4096 }, .flitReceive 0 { flit with vc := 16 },
      .flitReceive 0 { flit with ack := 4096 }, .flitReceive 0 { flit with creditVc := 16 }, .flitReceive 0 { flit with credit := 4096 },
      .flitReceive 0 { flit with fkind := 256 }, .flitReceive 0 { flit with data := [] }, .advertReceived 12 advert,
      .advertReceived 0 { advert with version := 256 }, .advertReceived 0 { advert with gens := 256 },
      .advertReceived 0 { advert with coord := 1024 }, .advertReceived 0 { advert with port := 256 },
      .advertReceived 0 { advert with twist := 256 }, .advertReceived 0 { advert with dim := 256 },
      .advertReceived 0 { advert with lanes := 256 }, .advertReceived 0 { advert with features := 2 ^ 64 },
      .advertReceived 0 { advert with fabricId := 2 ^ 32 }, .advertReceived 0 { advert with serial := 2 ^ 64 },
      .timeSync 12 ⟨0, 0, true, true, 0, 0, 0⟩ 0, .timeDelayRequest 0 ⟨256, 0, true, true, 0, 0, 0⟩ 0,
      .timeDelayResponse 0 ⟨2, 256, true, true, 0, 0, 0⟩, .timeDelayResponse 12 ⟨2, 0, true, true, 0, 0, 0⟩,
      .timeSync 0 ⟨0, 0, true, true, 2 ^ 32, 0, 0⟩ 0, .timeSync 0 ⟨0, 0, true, true, 0, 2 ^ 64, 0⟩ 0,
      .timeSync 0 ⟨0, 0, true, true, 0, 0, 2 ^ 64⟩ 0, .flitResendTimeout 14, .bridgeFlitTransfer ⟨8, true, 0⟩ true, .portDown 14 .silence,
      .retrainDone 14 3, .retrainDone 0 4, .retrainTimeout 14, .advertTimer 12, .detectTimeout 12, .trainingDone 12, .trainingTimeout 12,
      .keepaliveTimer 12, .laneLock 12 0 0 false, .laneLock 0 8 0 false, .laneLock 0 0 8 false, .fabricWakeFrame 12, .laneEnergyWake 12,
      .wakeLight 2, .routeRecompute [(1024, 0, 0)], .routeRecompute [(0, 12, 0)], .routeRecompute [(0, 0, 1024)]].all (fun i => !i.wf) =
      true := by decide +kernel

theorem test_wf_refuses_array_fields :
    [(⟨4, 0⟩ : TileId), ⟨0, 16384⟩].all (fun t =>
      [Instr.fireLatch t, .converterResult t (List.replicate 258 0) (List.replicate 258 false), .postmarkComparison t, .fireAdd t,
        .outlierAdd t, .bankDrainDone t 0, .programStart t, .programRowEnd t, .programResume t, .programmingDeferred t,
        .programComplete t true, .settlingDone t, .calibrationRunStart t, .inFieldTestDue t, .inFieldTestStart t, .inFieldTestForced t,
        .inFieldTestDone t ⟨none, []⟩].all fun i => !i.wf) = true := by decide +kernel

theorem test_wf_refuses_array_numbers :
    [(⟨4, 0, 0⟩ : ArrId), ⟨0, 16384, 0⟩, ⟨0, 0, 17⟩].all (fun a =>
      [Instr.listFetchDone a, .recordBuilt a, .rewriteStart a, .directRewriteStart a, .verifyScanDue a,
        .verifyScanDone a (List.replicate 256 (List.replicate 8 (List.replicate 258 0))), .driftOutOfService a, .redigest [] [a], .calibrationAgeTimer a,
        .calibrationExpiry a, .firstEverCalibration ⟨[0, 0, 0, 0, 0], [0, 0, 0, 0], [0, 0, 0, 0]⟩
          [(a, List.replicate 320 (List.replicate 258 0), false)], .eccScrub ⟨true, [.recordBad 0 0 a]⟩,
        .eccScrub ⟨true, [.frankingBad 0 0 a]⟩].all fun i => !i.wf) = true := by decide +kernel

theorem test_wf_refuses_readings :
    [Instr.powerApplied 65536 true false false false, .powerFailStop false 65536, .firstEverCalibration ⟨[0], [0, 0, 0, 0], [0, 0, 0, 0]⟩ [],
      .firstEverCalibration ⟨[0, 0, 0, 0, 0], [0], [0, 0, 0, 0]⟩ [], .firstEverCalibration ⟨[0, 0, 0, 0, 0], [0, 0, 0, 0], [0]⟩ [],
      .firstEverCalibration ⟨[0, 0, 0, 0, 0], [0, 0, 0, 0], [0, 0, 0, 0]⟩ [(⟨0, 0, 0⟩, [], false)], .traceDone [] [0, 0, 0,
      0] [0, 0, 0, 0],
      .traceDone [0, 0, 0, 0, 0] [] [0, 0, 0, 0], .traceDone [0, 0, 0, 0, 0] [0, 0, 0, 0] [], .governorTick 65536 0, .governorTick 0 65536,
      .railCurrentGuard 65536, .sensorSample [(272, 0)], .interpolationCheck 4 0, .interpolationCheck 0 64,
      .converterResult ⟨0, 0⟩ [] (List.replicate 258 false), .converterResult ⟨0, 0⟩ (List.replicate 258 128) (List.replicate 258 false),
      .converterResult ⟨0, 0⟩ (List.replicate 258 (-129)) (List.replicate 258 false), .converterResult ⟨0, 0⟩ (List.replicate 258 0) [],
      .verifyScanDone ⟨0, 0, 0⟩ [], .verifyScanDone ⟨0, 0, 0⟩ (List.replicate 256 []),
      .verifyScanDone ⟨0, 0, 0⟩ (List.replicate 256 (List.replicate 8 [])), .calibrationFitDone ⟨0, 0⟩ [] false,
      .calibrationFitDone ⟨0, 0⟩ (List.replicate 320 []) false, .sadcConversionDone 5 0 1, .sadcConversionDone 0 (2 ^ 32) 1,
      .sadcConversionDone 0 0 (2 ^ 32), .eccScrub ⟨true, [.hbmCorrected 16 0 0]⟩, .eccScrub ⟨false, [.sramCorrected 5 0 0]⟩, .eccScrub ⟨true, [.masterBad 16 0 0 0]⟩,
      .eccScrub ⟨true, [.recordBad 16 0 ⟨0, 0, 0⟩]⟩, .eccScrub ⟨true, [.frankingBad 16 0 ⟨0, 0, 0⟩]⟩, .eccScrub ⟨false, [.workBad 5 0 0]⟩,
      .eccScrub ⟨false, [.workBad 0 0 65536]⟩, .eccScrub ⟨false, [.heldInputBad 5 0]⟩, .eccScrub ⟨true, [.stateBad 16 0]⟩, .eccScrub ⟨true, [.dumpBad 2 0]⟩,
      .inFieldTestDone ⟨0, 0⟩ ⟨some 92, []⟩, .inFieldTestDone ⟨0, 0⟩ ⟨none, [[]]⟩, .inFieldTestDone ⟨0, 0⟩ ⟨none, List.replicate 64 (List.replicate 258 128)⟩, .sealScan [(2, 0)], .sealScan [(1048576, 0)]].all
      (fun i => !i.wf) = true := by decide +kernel

theorem test_wf_refuses_numbers :
    [Instr.watchdogWrite 4, .watchdogExpiry 4, .firmwareCrash .trap 4, .helloTimer 2, .dispatchTrainingDone 2 1, .dispatchTrainingDone 0 3,
      .dispatchTrainingTimeout 2, .headerCrcFailure 2, .reorderTimeout 4096 0, .reorderTimeout 0 (2 ^ 32), .l2getTimeout 65536,
      .intakeStaleTimeout 2 0, .intakeStaleTimeout 0 2, .sortingRound 4, .prefixMatchDone 65536 0, .prefixMatchDone 0 4092,
      .pageExhaustionTimeout 65536 0, .pageExhaustionTimeout 0 4092, .fallbackJobDone 4 0, .fallbackJobDone 0 64, .spotComparisonDone 4 0,
      .spotComparisonDone 0 64, .adapterContribution 65536 0 0 0, .adapterContribution 0 65536 0 0, .adapterContribution 0 0 65536 0,
      .adapterContribution 0 0 0 65536, .bankDrainDone ⟨0, 0⟩ 2, .lineTimeout 4 0, .lineTimeout 0 (2 ^ 28), .stepCommit 65536,
      .activationHoldTimeout (2 ^ 32) 0 0, .activationHoldTimeout 0 (2 ^ 64) 0, .activationHoldTimeout 0 0 65536, .jobWaitTimeout (2 ^ 32),
      .parcelAcceptance (2 ^ 32) 0, .parcelAcceptance 0 (2 ^ 32), .parcelIncompleteTimeout (2 ^ 32) 0, .parcelIncompleteTimeout 0 (2 ^ 32),
      .heldExpiry 65536, .lbSelWrite .host 16 0, .letterboxSnapshotDone 16, .compHeadWrite 4096 0, .sadcStart .host 5 0, .sadcStop .host 5 0,
      .sadcGo .host 5 0, .sadcSettled 5, .registerWrite .host 2 0, .registerWrite .host 1048576 0, .i3cDynamicAddress 128,
      .i3cPrivateRead 65536, .extest [] (List.replicate 204 false), .extest (List.replicate 204 false) [],
      .extestPulse [] (List.replicate 204 false), .extestPulse (List.replicate 204 false) [], .extestTrain [] (List.replicate 204 false),
      .extestTrain (List.replicate 204 false) [], .samplePreload [] (List.replicate 204 false), .samplePreload (List.replicate 204 false) [],
      .bypass 256, .reservedOpcode (command []) 65536, .reservedFrameType (hdr 0) 256 0 [], .reservedFrameType (hdr 0) 30 2 [],
      .attentionResult 65536 0 0, .attentionResult 0 65536 0, .attentionResult 0 0 65536, .heldPageWritten 65536, .compactionDone 65536].all
      (fun i => !i.wf) = true := by decide +kernel

theorem test_wf_takes_plain_operands :
    [Instr.step (hdr 3) (bytes 3), .createWindow (command []), .courierFrameRoute courier [], .flitReceive 13 flit, .advertReceived 11 advert,
      .fireLatch ⟨3, 16383⟩, .listFetchDone ⟨3, 16383, 16⟩, .sensorSample [(271, -1024)], .sealScan [(1048572, 1)],
      .bypass 255].all Instr.wf = true := by decide +kernel

/-! ### The spec's worked examples -/

/-- 02, 'One check at range code 2': the gap of 3.5 units passes; with column 77 read 60 codes too high it is flagged. -/
theorem test_postmark_example :
    postmarkGap 2 (8420 :: List.replicate 255 0 ++ [528, -96]) 80 = 224 ∧
      postmarkPass 2 (8420 :: List.replicate 255 0 ++ [528, -96]) 80 = true ∧
      postmarkPass 2 (12260 :: List.replicate 255 0 ++ [528, -96]) 80 = false := by decide +kernel

/-- 02, 'One row of an 8-bit fire': -37 fires as -3 and 11. -/
theorem test_nibbles_example : nibble 1 (-37) = -3 ∧ nibble 2 (-37) = 11 ∧ rowInput 2 [0] [-37] 0 = 88 := by decide +kernel

/-- 03 Table 3.4: the scale and the four elements of a T4 block. -/
theorem test_t4_block_example :
    (quantBlock e2m1 [⟨93, 10⟩, ⟨-21, 10⟩, ⟨35, 100⟩, ⟨41, 10⟩]).scale = 0x3D ∧
      (quantBlock e2m1 [⟨93, 10⟩, ⟨-21, 10⟩, ⟨35, 100⟩, ⟨41, 10⟩]).elems.take 4 = [0x7, 0xB, 0x0, 0x5] := by decide +kernel

/-- 03, 'A null and a saturated block': scales 2^-9 and 448, and 7 for the T8 copy. -/
theorem test_block_scales_example :
    scaleFor ⟨4, 60000⟩ = 1 ∧ (quantBlock e2m1 [⟨3000, 1⟩]).scale = 0x7E ∧ (quantBlock e2m1 [⟨3000, 1⟩]).elems = [7] ∧
      scaleFor ⟨3000, 448⟩ = 0x4E ∧ quantElem e4m3 0x4E ⟨3000, 1⟩ = 0x7D := by
  decide +kernel

/-- The eight groups of 03 Table 3.6. -/
def groupInput : List Frac :=
  [32, 9, 25, 0, 11, 3, 30, 20].flatMap fun v => (⟨v, 10⟩ : Frac) :: List.replicate 31 ⟨0, 1⟩

/-- 03 Table 3.6: the fire input scale, the group shifts, and code 7 for 3.2. -/
theorem test_input_quantisation_example :
    (quantInput 7 groupInput).scale = 0x2F ∧ (quantInput 7 groupInput).shifts = [0, 1, 0, 3, 1, 3, 0, 0] ∧
      at' (quantInput 7 groupInput).codes 0 0 = 7 := by decide +kernel

/-- 06, 'Relay through one rack'. -/
theorem test_relay_example : relayOrder 5 [0, 1, 2] = [5, 4, 6, 7, 3, 2, 0, 1] := by decide +kernel

/-- 06, 'Placing a tensor': block 6 goes to tile 3,001, array 2; LENGTH and TILE_COUNT. -/
def placedHeader : ParcelHdr :=
  { master.hdr with arrayMask := 0x000F, tileFirst := 3000, tileCount := 3, rows := 1024, cols := 700 }
theorem test_placing_example :
    placedHeader.arrayOf 6 = ⟨0, 3001, 2⟩ ∧ placedHeader.lengthDue = 403200 ∧ placedHeader.tileCountDue = 3 := by decide +kernel

/-- 07, 'One gain field re-anchored': 34,404 before, 34,459 after. -/
theorem test_interpolation_example :
    interpolate 938 [33900, 34200, 34500, 34780, 35000] = 34404 ∧ interpolate 938 [33955, 34255, 34555, 34835, 35055] = 34459 := by
  decide +kernel

/-- 09, 'Capacity for the example layer'. -/
theorem test_pigeonhole_example :
    ({ layer0 with headDim := 128, kvHeads := 8 }).pigeonhole = 132096 ∧ ({ layer0 with headDim := 128, kvHeads := 8 }).frameSize = 135168 := by
  decide +kernel

/-- 10, 'Routes in a twisted 3-cube': module 0's neighbours, and module 1's on D2, where bit 1 flips because bit 0 is 1. -/
theorem test_neighbours_example :
    neighbour 1 0 0 = 1 ∧ neighbour 1 1 0 = 2 ∧ neighbour 1 2 0 = 4 ∧ neighbour 1 2 1 = 7 := by decide +kernel

/-- 10, 'One exchange across racks': 3.5 ticks round to 4. -/
theorem test_offset_example : offsetTicks (2 * 56) = 4 := by decide +kernel

/-- 11, 'Packing two frames'. -/
theorem test_packing_example : frameWords 124 = 1 ∧ frameWords 65536 = 257 := by decide +kernel

/-- 13, 'Clearing without loss': writing 41 leaves record 42. -/
theorem test_evr_newest_example :
    (match exec (.evrNewestWrite .firmware 41) (upEv fun e => { e with held := [39, 40, 41, 42].map fun n => ⟨1, 0, n, 0, []⟩, next := 43 }) with
      | .next t => t.ev.held.map Record.seq
      | _ => []) = [42] := by decide +kernel

/-- 15, 'Watching the 48 V input': 0.75 V against 1.2 V converts to 2,560. -/
theorem test_conversion_example : adcValue 2 750000 1200000 = 2560 := by decide +kernel

/-- The check value of CRC-32C, and SHA-512 of the empty string (FIPS 180-4), from outside the model. -/
theorem test_digests :
    crc32c [0x31, 0x32, 0x33, 0x34, 0x35, 0x36, 0x37, 0x38, 0x39] = 0xE3069283 ∧
      sha512 [] = 0xcf83e1357eefb8bdf1542850d66d8007d620e4050b5715dc83f4a921d36ce9ce47d0d13c5d85f2b0ff8318d2877eec2f63b931bd47417a81a538327af927da3e := by
  decide +kernel

/-! ### One step -/

/-- 01 R19, 12 R418: RESET_N takes the module through its boot chain to a running firmware with the step counter INVALID. -/
theorem test_reset_boots :
    (match exec (.resetN false false false) State.reset with
      | .next t => (t.bt.run, t.bt.slot, t.tm.valid, t.rg.sealed.noRef)
      | _ => (.halted, 9, true, true)) = (.running, 0, false, false) := by decide +kernel

/-- 10 R339: an idle step counts one tick and one count of the step counter when no correction is due. -/
theorem test_idle_tick :
    (match step up with
      | .next t => (t.tm.tick, t.tm.counter)
      | _ => (0, 0)) = (101, 101) := by decide +kernel

/-- 10 R317: the marker of lane 3. -/
theorem test_lane_marker : laneMarker 3 = [0x0F, 0x5A, 0xC3, 0x03, 0xFC, 0x3C, 0xA5, 0xF0] := by decide +kernel

/-- A flit of 256 different bytes, and a port all of whose lanes come in reversed, every third of them inverted. -/
def countedFlit : Bytes := (List.range 256).map fun i => BitVec.ofNat 8 i
def reversedPort : CourierPort :=
  { CourierPort.reset with lanes := 3, locked := (List.range 8).map fun l => (l, 7 - l, l % 3 == 0) }

/-- 10 R310: reversal and inversion of the lanes are corrected. -/
theorem test_lanes_are_corrected :
    reversedPort.unstriped (fun l => (dealt 8 (7 - l) countedFlit 0).map fun b => if l % 3 = 0 then ~~~b else b) = countedFlit := by
  decide +kernel

/-- 11 R358: a start block, 31 data blocks and a terminate block carry a flit; one with an error block in it is discarded. -/
theorem test_pcs_packet :
    (pcsPacket countedFlit).length = 34 ∧ pcsFlits none (pcsPacket countedFlit) = [some countedFlit] ∧
      pcsFlits none ((pcsPacket countedFlit).set 5 .error) = [none] := by decide +kernel

/-- 10 R341: the delay request that answers a sync leaves with the stamp of its departure as T3, which the port keeps. -/
theorem test_departure_stamp :
    (match exec (.timeSync 0 ⟨0, 0, true, true, 3, 1600, 0⟩ 1664)
        (upFb fun f => { f with coord := 1, coordValid := true, dim := 1, timeRoot := 0, routes := [(0, 0, 15)], ports := f.ports.set 0 { CourierPort.reset with state := .up, partner := 0, features := 0x1FF } }) with
      | .next t => ((t.port 0).link.departed, (t.port 0).link.replay.map fun g => fld g.data 0x28 8)
      | _ => (none, [])) = (some 1664, [1664]) := by decide +kernel

/-- 16 R535: BYPASS puts the one-bit bypass register between TDI and TDO. -/
theorem test_bypass :
    (match exec (.bypass 0xFF) up with
      | .next t => (t.tp.ir, t.tp.bypassed)
      | _ => (0, false)) = (0xFF, true) := by decide +kernel

/-! ## Witnesses: `witness_<statement>_<clause>` meets the hypotheses of that clause of the statement. -/

theorem witness_an_idle_step_is_one_tick_1 : ∃ s : State,
    s.pending = [] ∧
    (s.pw.supplied = false ∨ s.pw.stop ≠ none ∨ s.pw.state = .p4) :=
  ⟨{ State.reset with pw := { Power.reset with stop := some .under } }, by decide +kernel⟩

theorem witness_an_idle_step_is_one_tick_2 : ∃ s : State,
    s.pending = [] ∧
    s.pw.supplied = true ∧
    s.pw.stop = none ∧
    s.pw.state ≠ .p4 ∧
    s.tm.valid = false :=
  ⟨State.reset, by decide +kernel⟩

theorem witness_an_idle_step_is_one_tick_3 : ∃ s : State,
    s.pending = [] ∧
    s.pw.supplied = true ∧
    s.pw.stop = none ∧
    s.pw.state ≠ .p4 ∧
    s.tm.valid = true ∧
    s.tm.correction = 0 ∧
    s.tm.rate = 0 ∧
    s.tm.counter + 2 < 2 ^ 64 :=
  ⟨{ upTm fun t => { t with counter := 2 ^ 64 - 3 } with draw := 1 }, by decide +kernel⟩

theorem witness_an_idle_step_is_one_tick_4 : ∃ s : State,
    s.pending = [] ∧
    s.pw.supplied = true ∧
    s.pw.stop = none ∧
    s.pw.state ≠ .p4 ∧
    s.tm.valid = true ∧
    s.tm.counter < 2 ^ 64 - 2 :=
  ⟨{ upTm fun t => { t with correction := 4, counter := 2 ^ 64 - 3 } with draw := 1 }, by decide +kernel⟩

theorem witness_an_idle_step_is_one_tick_5 : ∃ s : State,
    s.pending = [] ∧
    s.pw.supplied = true ∧
    s.pw.stop = none ∧
    s.pw.state ≠ .p4 ∧
    s.tm.valid = true ∧
    s.tm.correction = 0 ∧
    s.tm.rate = 0 ∧
    s.tm.counter = 2 ^ 64 - 1 :=
  ⟨upTm fun t => { t with counter := 2 ^ 64 - 1 }, by decide +kernel⟩

theorem witness_reset_leaves_the_reset_column_1 : ∃ a, ∃ i,
    regInfo a = some i :=
  ⟨0x2000, _, rfl⟩

theorem witness_reset_leaves_the_reset_column_2 : ∃ n,
    n < 16 :=
  ⟨15, by decide +kernel⟩

theorem witness_every_step_keeps_the_state_sound_1 : ∃ s : State, ∃ t : State,
    s.Sound ∧
    step s = .next t :=
  ⟨up, _, ⟨by decide +kernel, by decide +kernel, by unfold recordNumber; decide +kernel, nofun⟩, rfl⟩

theorem witness_commands_keep_queue_clock_and_identity_1 : ∃ c : Instr, ∃ s : State, ∃ t : State,
    exec c s = .next t :=
  ⟨.lockstepMismatch, up, _, rfl⟩

theorem witness_commands_leave_other_parts_alone_1 : ∃ c : Instr, ∃ s : State, ∃ t : State, ∃ p : Part,
    exec c s = .next t ∧
    (p ∈ leaves c ∨ p ∈ leavesIf c s) :=
  ⟨.watchdogWrite 2, up, _, .serving, rfl, by decide +kernel⟩

theorem witness_commands_leave_other_parts_alone_1_if : ∃ c : Instr, ∃ s : State, ∃ t : State, ∃ p : Part,
    exec c s = .next t ∧
    p ∈ leavesIf c s :=
  ⟨.wakeN, up, _, .tiles, rfl, by decide +kernel⟩

theorem witness_written_bytes_read_back_1 : ∃ m : List Host.Cell,
    Memory.wf m = true :=
  ⟨[(4, 1)], by decide +kernel⟩

theorem witness_written_bytes_read_back_2 : ∃ m : List Host.Cell,
    Memory.wf m = true :=
  ⟨[(4, 1)], by decide +kernel⟩

theorem witness_written_bytes_read_back_3 : ∃ m : List Host.Cell, ∃ n : List Host.Cell,
    Memory.wf m = true ∧
    Memory.wf n = true ∧
    ((∀ a, memGet m a = memGet n a)) :=
  ⟨[(4, 1)], [(4, 1)], by decide +kernel, by decide +kernel, fun _ => rfl⟩

theorem witness_no_wear_counter_is_ever_lowered_1 : ∃ c : Instr, ∃ s : State, ∃ t : State,
    exec c s = .next t :=
  ⟨.watchdogWrite 2, up, _, rfl⟩

theorem witness_a_queue_holds_at_most256_waiting_steps_1 : ∃ s : State, ∃ t : State, ∃ n : Nat, ∃ w : Waiting, ∃ k, ∃ q,
    ((∀ k q, s.queue k = some q → q.waiting.length ≤ 256)) ∧
    t = s.offer n w ∧
    t.queue k = some q :=
  ⟨withQueue { queue3 with waiting := List.replicate 256 (waiter 4) }, _, 3, waiter 5, 3, _,
    fun _ _ h => queue_is_the_only_one rfl h ▸ by decide +kernel, rfl, rfl⟩

theorem witness_a_queue_holds_at_most256_waiting_steps_2 : ∃ s : State, ∃ t : State, ∃ h : FrameHdr, ∃ p : Bytes, ∃ k, ∃ q,
    s.takes h 0 5 true true = true ∧
    ((∀ k q, (s.heard h 0).queue k = some q → q.waiting.length ≤ 256)) ∧
    exec (.step h p) s = .next t ∧
    t.queue k = some q :=
  ⟨withQueue { queue3 with waiting := List.replicate 256 (waiter 4) }, _, hdr 0, [], 3, _, by decide +kernel,
    fun _ _ h => queue_is_the_only_one rfl h ▸ by decide +kernel, rfl, rfl⟩

theorem witness_a_queue_holds_at_most256_waiting_steps_3 : ∃ s : State, ∃ t : State, ∃ h : FrameHdr, ∃ p : Bytes, ∃ k, ∃ q,
    s.takes h 0 13 true (p.length == 8) = true ∧
    ((∀ k q, (s.heard h 0).queue k = some q → q.waiting.length ≤ 256)) ∧
    fld p 0 1 = 0 ∧
    exec (.doorbellSubmission h p) s = .next t ∧
    t.queue k = some q :=
  ⟨withQueue { queue3 with waiting := List.replicate 256 (waiter 4) }, _, hdr 8, bytes 8, 3, _, by decide +kernel,
    fun _ _ h => queue_is_the_only_one rfl h ▸ by decide +kernel, by decide +kernel, rfl, rfl⟩

theorem witness_a_queue_holds_at_most256_waiting_steps_4 : ∃ s : State, ∃ h : FrameHdr, ∃ q : Queue,
    let u := s.heard h 0
    s.takes h 0 5 true true = true ∧
    u.queue h.queue = some q ∧
    q.deleting = false ∧
    q.ctx = h.context ∧
    ((q.ownPort = none ∨ q.ownPort = some h.port)) ∧
    u.isDrained = false ∧
    h.seq = q.expected ∧
    q.expected < 2 ^ 32 ∧
    256 ≤ q.waiting.length :=
  ⟨withQueue { queue3 with waiting := List.replicate 256 (waiter 4) }, hdr 0, { queue3 with waiting := List.replicate 256 (waiter 4) },
    by dsimp only; decide +kernel⟩

theorem witness_overflow_keeps_the_holder_and_ends_the_step_1 : ∃ w : Nat, ∃ n : Nat, ∃ old : List Int, ∃ add : List Int, ∃ i,
    let ok (i : Nat) : Prop := -(2 ^ (w - 1) : Int) ≤ at' old i 0 + at' add i 0 ∧ at' old i 0 + at' add i 0 < 2 ^ (w - 1)
    i < n ∧
    ok i :=
  ⟨4, 2, [7, -8], [0, 0], 1, by dsimp only; exact ⟨by decide +kernel, by decide⟩⟩

theorem witness_overflow_keeps_the_holder_and_ends_the_step_2 : ∃ w : Nat, ∃ n : Nat, ∃ old : List Int, ∃ add : List Int, ∃ i,
    let ok (i : Nat) : Prop := -(2 ^ (w - 1) : Int) ≤ at' old i 0 + at' add i 0 ∧ at' old i 0 + at' add i 0 < 2 ^ (w - 1)
    i < n ∧
    (¬ ok i) :=
  ⟨4, 2, [7, -8], [1, 0], 0, by dsimp only; exact ⟨by decide +kernel, by decide⟩⟩

theorem witness_overflow_keeps_the_holder_and_ends_the_step_3 : ∃ s : State, ∃ id : TileId, ∃ b : Nat, ∃ red : Reduction, ∃ v : List Int,
    ((s.tile id).bank b).red = some red ∧
    (addVec 64 256 ((s.tile id).bank b).regs v).2 = true :=
  ⟨{ up with tl := { up.tl with tiles := [{ freshTile ⟨0, 3⟩ with bank0 := { emptyBank with state := .filling, red := some ⟨7, 0, ⟨0, 1⟩⟩, regs := [2 ^ 63 - 1] } }] } },
    ⟨0, 3⟩, 0, ⟨7, 0, ⟨0, 1⟩⟩, [1], by decide +kernel⟩

theorem witness_overflow_keeps_the_holder_and_ends_the_step_4 : ∃ s : State, ∃ tag : Nat, ∃ o : OpenStep,
    s.stepOf tag = some o :=
  ⟨withStep work, 7, work, by decide +kernel⟩

theorem witness_a_step_is_replayed_once_then_the_module_drains_1 : ∃ s : State, ∃ tag : Nat, ∃ epoch : Nat, ∃ o : OpenStep,
    s.liveStep tag = some o ∧
    o.epoch ≠ epoch :=
  ⟨withStep work, 7, 1, work, by decide +kernel⟩

theorem witness_a_step_is_replayed_once_then_the_module_drains_2 : ∃ s : State, ∃ tag : Nat, ∃ o : OpenStep,
    s.liveStep tag = some o ∧
    o.epoch = 0 ∧
    o.cmd.job = 0 :=
  ⟨withStep { work with cmd := { command0 with job := 0 } }, 7, { work with cmd := { command0 with job := 0 } }, by decide +kernel⟩

theorem witness_a_step_is_replayed_once_then_the_module_drains_2_aborted : ∃ s : State, ∃ tag : Nat, ∃ o : OpenStep,
    s.liveStep tag = some o ∧
    o.epoch = 0 ∧
    (s.replayNotices o).liveStep tag = none :=
  ⟨{ withStep work with fb := { up.fb with coord := 5, coordValid := true, dim := 3, jobs := [⟨6, 4, 1, none, 0, []⟩] } }, 7, work,
    by decide +kernel⟩

theorem witness_a_step_is_replayed_once_then_the_module_drains_2_told : ∃ s : State, ∃ tag : Nat, ∃ o : OpenStep,
    s.liveStep tag = some o ∧
    o.epoch = 0 ∧
    (s.replayNotices o).liveStep tag ≠ none :=
  ⟨withStep work, 7, work, by decide +kernel⟩

theorem witness_a_step_is_replayed_once_then_the_module_drains_3 : ∃ s : State, ∃ tag : Nat, ∃ o : OpenStep,
    s.stepOf tag = some o :=
  ⟨withStep work, 7, work, by decide +kernel⟩

theorem witness_a_step_is_replayed_once_then_the_module_drains_4 : ∃ s : State, ∃ tag : Nat, ∃ o : OpenStep,
    s.liveStep tag = some o ∧
    o.epoch = 1 ∧
    s.isDrained = false :=
  ⟨withStep { work with epoch := 1 }, 7, { work with epoch := 1 }, by decide +kernel⟩

theorem witness_addresses_that_name_no_register_read_zero_1 : ∃ a : Nat,
    regInfo a = none :=
  ⟨0x8000, by decide +kernel⟩

theorem witness_addresses_that_name_no_register_read_zero_1_hole : ∃ a : Nat,
    regInfo a = none ∧
    physical a = false :=
  ⟨0x8000, by decide +kernel⟩

theorem witness_addresses_that_name_no_register_read_zero_2 : ∃ s : State, ∃ h : FrameHdr, ∃ p : Bytes,
    s.takes h 0 17 true (p.length == 12 && 1 ≤ fld p 8 4 && fld p 8 4 ≤ 16384) = true ∧
    physical (fld p 0 8) = false ∧
    emulated (fld p 0 8) = false :=
  ⟨up, hdr 12, natLe 8 0x8000 ++ natLe 4 16384, by decide +kernel⟩

theorem witness_addresses_that_name_no_register_read_zero_3 : ∃ s : State, ∃ h : FrameHdr, ∃ p : Bytes,
    s.takes h 0 16 true (12 ≤ p.length && p.length % 4 == 0) = true ∧
    physical (fld p 0 8) = false ∧
    emulated (fld p 0 8) = false :=
  ⟨up, hdr 12, natLe 8 0x30000000 ++ natLe 4 1, by decide +kernel⟩

theorem witness_addresses_that_name_no_register_read_zero_4 : ∃ s : State,
    s.pw.supplied = true ∧
    regInfo s.i3.pointer = none :=
  ⟨{ up with i3 := { up.i3 with pointer := 0x6FFC } }, by decide +kernel⟩

theorem witness_stopped_h_core_registers_read_all_ones_1 : ∃ s : State,
    s.pw.supplied = true ∧
    bits s.mirrorStat 4 1 = 1 ∧
    regInfo s.i3.pointer ≠ none ∧
    alwaysOn s.i3.pointer = false :=
  ⟨{ upPw fun p => { p with state := .p2 } with i3 := { I3c.reset with pointer := 0x6000 } }, by decide +kernel⟩

theorem witness_records_are_numbered_and_the_oldest_gives_way_1 : ∃ s : State,
    s.ev.held.length < 32 :=
  ⟨upEv fun e => { e with held := List.replicate 31 ⟨1, 0, 3, 0, []⟩ }, by decide +kernel⟩

theorem witness_records_are_numbered_and_the_oldest_gives_way_2 : ∃ s : State,
    s.ev.held.length = 32 :=
  ⟨upEv fun e => { e with held := List.replicate 32 ⟨1, 0, 3, 0, []⟩ }, by decide +kernel⟩

theorem witness_records_are_numbered_and_the_oldest_gives_way_3 : ∃ n,
    recordNumber n :=
  ⟨2 ^ 32 - 1, by unfold recordNumber; decide⟩

theorem witness_power_and_reset_start_the_module_1 : ∃ s : State, ∃ v : Nat, ∃ r : ConfigRecord, ∃ i : Image,
    s.pw.supplied = false ∧
    38000 ≤ v ∧
    s.bootsTo r i :=
  ⟨{ State.reset with pw := { Power.reset with supplied := false } }, 38000, ConfigRecord.reset, Image.reset, by decide +kernel,
    by decide +kernel, by unfold State.bootsTo; decide +kernel⟩

theorem witness_power_and_reset_start_the_module_2 : ∃ s : State, ∃ r : ConfigRecord, ∃ i : Image,
    s.pw.supplied = true ∧
    s.pw.stop = none ∧
    s.bootsTo r i :=
  ⟨State.reset, ConfigRecord.reset, Image.reset, by decide +kernel, by decide +kernel, by unfold State.bootsTo; decide +kernel⟩

theorem witness_power_and_reset_start_the_module_3 : ∃ s : State, ∃ r : ConfigRecord, ∃ i : Image,
    s.pw.supplied = true ∧
    s.pw.stop = some .under ∧
    s.bt.resetPin = true ∧
    s.bootsTo r i :=
  ⟨{ State.reset with pw := { Power.reset with stop := some .under } }, ConfigRecord.reset, Image.reset, by decide +kernel,
    by decide +kernel, by decide +kernel, by unfold State.bootsTo; decide +kernel⟩

theorem witness_power_and_reset_start_the_module_4 : ∃ s : State,
    s.pw.supplied = true :=
  ⟨up, by decide +kernel⟩

/-- Of the tiles only tile 0 of die 0 is enabled. -/
def oneTile : ConfigRecord := { ConfigRecord.reset with disabled := allTiles.filter fun t => t != ⟨0, 0⟩ }

theorem one_tile_passed (s : State) (h : s.bt.record = some oneTile) (hp : (s.tile ⟨0, 0⟩).test.passedOnce = true) :
    (allTiles.all fun t => !s.enabled t || (s.tile t).test.passedOnce) = true := by
  rw [List.all_eq_true]
  intro t ht
  by_cases e : t = ⟨0, 0⟩
  · subst e
    simp [hp]
  · have hd : t ∈ oneTile.disabled := List.mem_filter.mpr ⟨ht, by simp [e]⟩
    simp [State.enabled, h, hd]

/-- `up` with that record, its tile past its first test, and the franking store and the reference at hand. -/
def readyBut (f : Boot → Boot) : State :=
  { upCl fun c => { c with restored := true, refTime := some (some 60) } with
    bt := f { up.bt with record := some oneTile },
    tl := { up.tl with tiles := [{ freshTile ⟨0, 0⟩ with test := { freshTest with passedOnce := true } }] } }

theorem ready_arrays (f : Boot → Boot) (h : (f { up.bt with record := some oneTile }).record = some oneTile)
    (hr : (readyBut f).firmwareRuns = true) (hd : (readyBut f).isDrained = false) : (readyBut f).arraysAre = true := by
  have ht := one_tile_passed (readyBut f) h rfl
  unfold State.arraysAre
  rw [ht, hr, hd]
  rfl

theorem witness_power_and_reset_start_the_module_5 : ∃ s : State,
    s.arraysAre = true :=
  ⟨readyBut fun b => b, ready_arrays _ rfl rfl rfl⟩

theorem witness_stop_leaves_the_island_alone_1 : ∃ s : State, ∃ v : Nat,
    s.pw.supplied = true ∧
    s.pw.stop = none ∧
    v < 38000 :=
  ⟨up, 37999, by decide +kernel⟩

theorem witness_stop_leaves_the_island_alone_2 : ∃ s : State, ∃ v : Nat,
    s.pw.supplied = true ∧
    s.pw.stop = none ∧
    61000 < v :=
  ⟨up, 61001, by decide +kernel⟩

theorem witness_stop_leaves_the_island_alone_3 : ∃ s : State,
    s.pw.supplied = true ∧
    s.pw.stop = none :=
  ⟨up, by decide +kernel⟩

theorem witness_firmware_faults_drain_the_module_1 : ∃ s : State, ∃ core : Nat,
    s.firmwareRuns = true ∧
    core < 4 ∧
    s.isDrained = false :=
  ⟨up, 3, by decide +kernel⟩

theorem witness_firmware_faults_drain_the_module_2 : ∃ s : State, ∃ core : Nat,
    s.firmwareRuns = true ∧
    core < 4 ∧
    s.isDrained = false :=
  ⟨up, 3, by decide +kernel⟩

theorem witness_firmware_faults_drain_the_module_3 : ∃ s : State,
    s.hcoreRuns = true ∧
    s.isDrained = false :=
  ⟨up, by decide +kernel⟩

theorem witness_register_writes_go_by_their_path_1 : ∃ s : State, ∃ a : Nat,
    inConfigSet a = true ∧
    s.firmwareRuns = true ∧
    s.leaseLive = true :=
  ⟨up, 0x5008, by decide +kernel⟩

theorem witness_register_writes_go_by_their_path_1_kept : ∃ a : Nat, ∃ i : RegInfo, ∃ k : Nat,
    regInfo a = some i ∧
    bit (i.rw + i.rwp) k = false :=
  ⟨0x5008, _, 17, rfl, by decide +kernel⟩

theorem witness_register_writes_go_by_their_path_1_preserved : ∃ a : Nat, ∃ i : RegInfo, ∃ k : Nat,
    regInfo a = some i ∧
    bit i.rwp k = true :=
  ⟨0x4004, _, 31, rfl, by decide +kernel⟩

theorem witness_register_writes_go_by_their_path_1_written : ∃ a : Nat, ∃ i : RegInfo, ∃ k : Nat,
    regInfo a = some i ∧
    bit i.rw k = true ∧
    limitedBit a k = false :=
  ⟨0x14000, _, 0, rfl, by decide +kernel⟩

theorem witness_register_writes_go_by_their_path_2 : ∃ a : Nat,
    (¬ (0x1700 ≤ a ∧ a < 0x1800)) ∧
    a ≠ 0x2000 ∧
    a ≠ 0x30010 ∧
    a ≠ 0x30020 :=
  ⟨0x16FC, by decide +kernel⟩

theorem witness_register_writes_go_by_their_path_3 : ∃ a : Nat,
    regInfo a = none :=
  ⟨0x8000, by decide +kernel⟩

theorem witness_register_writes_go_by_their_path_4 : ∃ s : State,
    s.firmwareRuns = true :=
  ⟨up, by decide +kernel⟩

theorem witness_register_writes_go_by_their_path_5 : ∃ s : State, ∃ p : Path,
    (p = .i3c → s.pw.supplied = true) ∧
    (p ≠ .i3c → s.pathOpen p) :=
  ⟨up, .i3c, by decide +kernel, fun h => absurd rfl h⟩

theorem witness_register_writes_go_by_their_path_5_host : ∃ s : State, ∃ p : Path,
    (p = .i3c → s.pw.supplied = true) ∧
    (p ≠ .i3c → s.pathOpen p) :=
  ⟨up, .host, by decide +kernel, fun _ => ⟨by decide +kernel, by decide +kernel⟩⟩

theorem witness_host_register_frames_answer_1 : ∃ s : State, ∃ h : FrameHdr, ∃ p : Bytes,
    s.takes h 0 16 true (12 ≤ p.length && p.length % 4 == 0) = true :=
  ⟨up, hdr 12, natLe 8 0x5000 ++ natLe 4 1, by decide +kernel⟩

theorem witness_host_register_frames_answer_2 : ∃ s : State, ∃ h : FrameHdr, ∃ p : Bytes,
    s.takes h 0 17 true (p.length == 12 && 1 ≤ fld p 8 4 && fld p 8 4 ≤ 16384) = true :=
  ⟨up, hdr 12, natLe 8 0x5000 ++ natLe 4 1, by decide +kernel⟩

theorem witness_host_register_frames_answer_3 : ∃ s : State, ∃ h : FrameHdr, ∃ type : Nat, ∃ chan : Nat,
    let u := s.frameArrives (chan == 0)
    type ∉ hostTypes chan ∧
    chan ≤ 1 ∧
    ¬ (type = 12 ∧ chan = 0) ∧
    s.portHears h.port = true ∧
    u.firmwareRuns = true ∧
    u.versionOk h 0 = true ∧
    h.length ≤ 65536 :=
  ⟨up, hdr 65536, 12, 1, by dsimp only; decide +kernel⟩

theorem witness_host_register_frames_answer_3_data : ∃ s : State, ∃ h : FrameHdr,
    s.takes h 0 12 true true = true :=
  ⟨up, hdr 0, by decide +kernel⟩

theorem witness_tap_instructions_act_as_the_table_says_1 : ∃ s : State,
    s.pw.supplied = true ∧
    s.bt.resetPin = false :=
  ⟨upBt fun b => { b with resetPin := false }, by decide +kernel⟩

theorem witness_tap_instructions_act_as_the_table_says_1_captures : ∃ s : State, ∃ i : Nat,
    s.pw.supplied = true ∧
    i < 204 ∧
    i ≠ 192 ∧
    i ≠ 201 ∧
    i ≠ 202 :=
  ⟨up, 203, by decide +kernel⟩

theorem witness_tap_instructions_act_as_the_table_says_2 : ∃ s : State,
    s.pw.supplied = true ∧
    s.bt.resetPin = true :=
  ⟨up, by decide +kernel⟩

theorem witness_tap_instructions_act_as_the_table_says_3 : ∃ s : State, ∃ op : Nat,
    s.pw.supplied = true ∧
    op < 256 ∧
    op ∉ [0x00, 0x01, 0x02, 0x04, 0x05, 0x09, 0x0A] :=
  ⟨up, 255, by decide +kernel⟩

theorem witness_i3c_transfers_move_the_pointer_1 : ∃ s : State,
    s.pw.supplied = true :=
  ⟨up, by decide +kernel⟩

theorem witness_i3c_transfers_move_the_pointer_2 : ∃ s : State, ∃ a : Bytes, ∃ rest : Bytes,
    s.pw.supplied = true ∧
    a.length = 4 ∧
    rest.length < 4 :=
  ⟨up, [0, 0, 5, 0], [1, 2, 3], by decide +kernel⟩

theorem witness_i3c_transfers_move_the_pointer_3 : ∃ s : State, ∃ a : Bytes, ∃ t : State, ∃ body : Bytes, ∃ g : Bytes, ∃ rest : Bytes,
    s.pw.supplied = true ∧
    a.length = 4 ∧
    body.length % 4 = 0 ∧
    g.length = 4 ∧
    rest.length < 4 ∧
    exec (.i3cPrivateWrite (a ++ body)) s = .next t :=
  ⟨up, [0, 0, 5, 0], _, [1, 0, 0, 0], [0, 0, 0, 0], [1, 2, 3], by decide +kernel, by decide +kernel, by decide +kernel, by decide +kernel,
    by decide +kernel, rfl⟩

theorem witness_i3c_transfers_move_the_pointer_4 : ∃ s : State, ∃ n : Nat, ∃ t : State,
    s.pw.supplied = true ∧
    exec (.i3cPrivateRead n) s = .next t :=
  ⟨up, 3, _, by decide +kernel, rfl⟩

theorem witness_letterboxes_take_one_moment_1 : ∃ s : State, ∃ p : Path, ∃ n : Nat, ∃ v : Word,
    n < s.rg.boxes.length ∧
    n < 16 ∧
    ownsBox p n = true ∧
    s.hcoreRuns = true ∧
    s.pathOpen p ∧
    bits v.toNat 0 8 = 0 :=
  ⟨up, .host, 11, 0x100, by decide +kernel, by decide +kernel, by decide +kernel, by decide +kernel, ⟨by decide +kernel, by decide +kernel⟩,
    by decide +kernel⟩

theorem witness_letterboxes_take_one_moment_2 : ∃ s : State, ∃ n : Nat,
    s.hcoreRuns = true ∧
    (s.box n).busy = true :=
  ⟨upRg fun r => { r with boxes := r.boxes.set 15 { Letterbox.reset with busy := true } }, 15, by decide +kernel⟩

theorem witness_letterboxes_take_one_moment_3 : ∃ count : Nat,
    0 < count ∧
    count ≤ 16 :=
  ⟨16, by decide +kernel⟩

theorem witness_seal_opens_commits_and_compares_1 : ∃ s : State,
    s.firmwareRuns = true ∧
    s.leaseLive = true :=
  ⟨up, by decide +kernel⟩

theorem witness_seal_opens_commits_and_compares_2 : ∃ s : State,
    s.hcoreRuns = true ∧
    s.rg.sealed.pending = true :=
  ⟨upRg fun r => { r with sealed := { Seal.reset with pending := true } }, by decide +kernel⟩

theorem witness_seal_opens_commits_and_compares_3 : ∃ s : State,
    let crc := s.sealCrc
    s.hcoreRuns = true ∧
    s.rg.sealed.pending = false ∧
    ((s.rg.sealed.ref = none ∨ s.rg.sealed.opened = true ∨ s.rg.sealed.ref = some crc)) :=
  ⟨up, by dsimp only; decide +kernel⟩

theorem witness_seal_opens_commits_and_compares_4 : ∃ s : State, ∃ ref, s.hcoreRuns = true ∧ s.rg.sealed.pending = false ∧
    s.rg.sealed.opened = false ∧ s.rg.sealed.ref = some ref ∧ ref ≠ s.sealCrc ∧ s.isDrained = false :=
  ⟨upRg fun r => { r with sealed := { Seal.reset with ref := some (up.sealCrc + 1) } }, up.sealCrc + 1, by decide +kernel,
    by decide +kernel, by decide +kernel, rfl, fun h => absurd h (by show up.sealCrc + 1 ≠ up.sealCrc; generalize up.sealCrc = x; bv_omega),
    by decide +kernel⟩

theorem witness_seal_opens_commits_and_compares_5 : ∃ s : State,
    s.hcoreRuns = true ∧
    s.rg.sealed.opened = true :=
  ⟨upRg fun r => { r with sealed := { Seal.reset with opened := true } }, by decide +kernel⟩

theorem witness_dead_letters_are_read_cleared_and_restarted_1 : ∃ s : State, ∃ v : Word,
    s.pw.supplied = true ∧
    v.toNat < 4 :=
  ⟨up, 3, by decide +kernel⟩

theorem witness_dead_letters_are_read_cleared_and_restarted_2 : ∃ s : State,
    s.pw.supplied = true ∧
    s.bt.run = .running :=
  ⟨up, by decide +kernel⟩

theorem witness_dead_letters_are_read_cleared_and_restarted_3 : ∃ s : State, ∃ r : ConfigRecord, ∃ i : Image,
    s.pw.supplied = true ∧
    s.bt.run ≠ .running ∧
    s.pw.stop = none ∧
    s.bootsTo r i :=
  ⟨State.reset, ConfigRecord.reset, Image.reset, by decide +kernel, by decide +kernel, by decide +kernel, by unfold State.bootsTo; decide +kernel⟩

theorem witness_dead_letters_are_read_cleared_and_restarted_4 : ∃ s : State,
    s.firmwareRuns = true ∧
    s.inRun = true :=
  ⟨up, by decide +kernel⟩

theorem witness_evr_newest_clears_up_to_the_number_written_1 : ∃ s : State, ∃ p : Path, ∃ v : Word, ∃ older : List Record, ∃ r : Record, ∃ newer : List Record,
    s.pathOpen p ∧
    s.ev.held = older ++ r :: newer ∧
    r.seq = v.toNat ∧
    ((∀ x ∈ older, x.seq ≠ v.toNat)) :=
  ⟨{ upEv fun e => { e with held := [⟨1, 0, 3, 0, []⟩, ⟨1, 0, 4, 0, []⟩, ⟨1, 0, 5, 0, []⟩] } with bt := { up.bt with halted := true } }, .i3c, 4,
    [⟨1, 0, 3, 0, []⟩], ⟨1, 0, 4, 0, []⟩, [⟨1, 0, 5, 0, []⟩], by unfold State.pathOpen; decide +kernel⟩

theorem witness_evr_newest_clears_up_to_the_number_written_2 : ∃ s : State, ∃ p : Path, ∃ v : Word,
    s.pathOpen p ∧
    ((∀ x ∈ s.ev.held, x.seq ≠ v.toNat)) :=
  ⟨upEv fun e => { e with held := [⟨1, 0, 3, 0, []⟩, ⟨1, 0, 4, 0, []⟩, ⟨1, 0, 5, 0, []⟩] }, .host, 6,
    ⟨by decide +kernel, by decide +kernel⟩, by decide +kernel⟩

theorem witness_evr_newest_clears_up_to_the_number_written_3 : ∃ s : State, ∃ slot : Nat, ∃ w : Nat,
    slot < 32 ∧
    w < 16 ∧
    ((∀ x ∈ s.ev.held, x.seq % 32 ≠ slot)) :=
  ⟨upEv fun e => { e with held := [⟨1, 0, 3, 0, []⟩, ⟨1, 0, 4, 0, []⟩, ⟨1, 0, 5, 0, []⟩] }, 31, 15, by decide +kernel⟩

theorem witness_survey_conversions_follow_the_sequence_1 : ∃ s : State, ∃ n : Nat, ∃ v : Word,
    let a := adcBase n
    let ctl := writtenValue a (s.stored a) v.toNat
    n < 5 ∧
    n < s.adcs.length ∧
    s.firmwareRuns = true ∧
    (s.adc n).trace = false ∧
    bit v.toNat 8 = true ∧
    bit v.toNat 9 = false ∧
    bit ctl 0 = true :=
  ⟨up, 4, 0x101, by dsimp only; decide +kernel⟩

theorem witness_survey_conversions_follow_the_sequence_2 : ∃ s : State, ∃ n : Nat, ∃ v : Word,
    n < 5 ∧
    n < s.adcs.length ∧
    s.firmwareRuns = true ∧
    (s.adc n).trace = false ∧
    bit v.toNat 8 = false ∧
    bit v.toNat 9 = true :=
  ⟨up, 4, 0x200, by decide +kernel⟩

theorem witness_survey_conversions_follow_the_sequence_3 : ∃ s : State, ∃ n : Nat, ∃ v : Word,
    n < 5 ∧
    n < s.adcs.length ∧
    s.firmwareRuns = true ∧
    (s.adc n).trace = false ∧
    bit v.toNat 17 = true :=
  ⟨up, 4, 0x20000, by decide +kernel⟩

theorem witness_survey_conversions_follow_the_sequence_4 : ∃ s : State, ∃ n : Nat,
    s.adcRuns n = true ∧
    bit (s.stored (adcBase n)) 0 = true ∧
    (s.adc n).trace = false :=
  ⟨upRg fun r => { r with stored := [(0x14000, 1)] }, 4, by decide +kernel⟩

theorem witness_survey_conversions_follow_the_sequence_5 : ∃ s : State, ∃ n : Nat,
    n < 5 ∧
    s.adcRuns n = true ∧
    bit (s.stored (adcBase n)) 0 = true ∧
    (s.adc n).trace = false :=
  ⟨upRg fun r => { r with stored := [(0x14000, 1)] }, 4, by decide +kernel⟩

theorem witness_survey_conversions_follow_the_sequence_6 : ∃ e : Nat, ∃ vref : Nat,
    bits e 0 5 < 16 ∧
    0 < vref :=
  ⟨15, 1, by decide +kernel⟩

theorem witness_the_reference_is_traced_hourly_1 : ∃ s : State,
    s.inRun = true ∧
    s.firmwareRuns = true ∧
    s.cl.pendingTrace = true ∧
    s.cl.busy = false ∧
    s.workStops = false ∧
    (s.bt.arraysReady = true ∨ s.cl.refTime = none) :=
  ⟨upCl fun c => { c with pendingTrace := true }, by decide +kernel⟩

theorem witness_the_reference_is_traced_hourly_2 : ∃ s : State,
    s.cl.busy = true :=
  ⟨upCl fun c => { c with busy := true }, by decide +kernel⟩

theorem witness_the_reference_is_traced_hourly_3 : ∃ s : State, ∃ n : Nat,
    s.cl.refTime = some (some n) ∧
    s.tm.valid = true ∧
    s.cl.untraced = false ∧
    s.hcoreRuns = true :=
  ⟨upCl fun c => { c with refTime := some (some 60), untraced := false }, 60, by decide +kernel⟩

theorem witness_the_reference_is_traced_hourly_4 : ∃ s : State, ∃ die : Nat, ∃ unit : Nat,
    s.inRun = true ∧
    die < 4 ∧
    unit < 64 ∧
    (s.region die unit).setTemp = none :=
  ⟨up, 3, 63, by decide +kernel⟩

theorem witness_the_reference_is_traced_hourly_5 : ∃ s : State, ∃ die : Nat, ∃ unit : Nat, ∃ x,
    s.inRun = true ∧
    die < 4 ∧
    unit < 64 ∧
    (s.region die unit).setTemp = some x ∧
    (s.regionTemp die unit - x).natAbs < 4 :=
  ⟨{ up with th := { up.th with sensors := [⟨255, 480, 480, 0, false, [], false⟩] }, tl := { up.tl with regions := [{ freshRegion 3 63 with setTemp := some 483 }] } },
    3, 63, 483, by decide +kernel⟩

theorem witness_the_reference_is_traced_hourly_6 : ∃ s : State, ∃ die : Nat, ∃ unit : Nat, ∃ x,
    s.inRun = true ∧
    die < 4 ∧
    unit < 64 ∧
    (s.region die unit).setTemp = some x ∧
    4 ≤ (s.regionTemp die unit - x).natAbs :=
  ⟨{ up with th := { up.th with sensors := [⟨255, 480, 480, 0, false, [], false⟩] }, tl := { up.tl with regions := [{ freshRegion 3 63 with setTemp := some 476 }] } },
    3, 63, 476, by decide +kernel⟩

theorem witness_calibration_is_requested_run_and_judged_1 : ∃ s : State, ∃ a : ArrId, ∃ c : Nat,
    s.firmwareRuns = true ∧
    s.enabled a.tid = true ∧
    a.arr ≤ 16 ∧
    s.tm.valid = true ∧
    (s.franking a).valid = true ∧
    (s.franking a).calTime = some c ∧
    (a.arr = 16 ∨ s.holdsRecord a = true) :=
  ⟨upWt fun x => { x with franking := [(⟨0, 3, 16⟩, { freshFranking with valid := true, calTime := some 60 })] },
    ⟨0, 3, 16⟩, 60, by decide +kernel⟩

theorem witness_calibration_is_requested_run_and_judged_2 : ∃ s : State, ∃ id : TileId, ∃ r : CalRequest,
    let u := ((s.dropStaleClaim id).claimForRun id).queueCalRecords id
    s.inRun = true ∧
    s.enabled id = true ∧
    s.isDrained = false ∧
    s.runWindow id = true ∧
    s.traced = true ∧
    s.bt.arraysReady = true ∧
    s.workStops = false ∧
    (u.requests id).find? (u.requestReady id) = some r ∧
    (u.tile id).run = none :=
  ⟨{ withTile fun x => { x with standIn := some 2, claim := some (.calibration, 2), calQueue := [⟨2, 4, some 70, false, false⟩] } with
      bt := { up.bt with arraysReady := true }, cl := { up.cl with refTime := some (some 60) },
      wt := { up.wt with records := [(⟨0, 3, 2⟩, blankRecord)], directory := [(⟨0, 3, 2⟩, { freshDir with astate := .inService })],
                         franking := [(⟨0, 3, 2⟩, { freshFranking with valid := true, calTime := some 60 })] } },
    ⟨0, 3⟩, ⟨2, 4, some 70, false, false⟩, by dsimp only; decide +kernel⟩

theorem witness_calibration_is_requested_run_and_judged_2_wake : ∃ s : State, ∃ id : TileId,
    s.pw.state = .p1 ∧
    s.runsMayBegin id = true ∧
    (s.tile id).calQueue ≠ [] ∧
    (s.wakeP1 7).inRun = true :=
  ⟨{ withTile fun x => { x with calQueue := [⟨2, 4, some 70, false, false⟩] } with
      pw := { up.pw with state := .p1 }, bt := { up.bt with arraysReady := true }, cl := { up.cl with refTime := some (some 60) } }, ⟨0, 3⟩,
    by decide +kernel⟩

theorem witness_calibration_is_requested_run_and_judged_3 : ∃ s : State, ∃ id : TileId, ∃ r : CalRun, ∃ rec' : CodeRecord,
    s.inRun = true ∧
    (s.tile id).run = some r ∧
    r.fires = 320 ∧
    s.runRecord (id.array r.arr) = some rec' ∧
    r.repeated = false :=
  ⟨{ upWt fun x => { x with records := [(⟨0, 3, 2⟩, plainRecord)], directory := [(⟨0, 3, 2⟩, { freshDir with astate := .inService })] } with
      tl := { up.tl with tiles := [{ freshTile ⟨0, 3⟩ with run := some ⟨2, true, 4, some 70, 320, 480, some 80, false⟩ }] } }, ⟨0, 3⟩, ⟨2, true, 4, some 70, 320, 480, some 80, false⟩, plainRecord, by decide +kernel⟩

theorem witness_calibration_is_requested_run_and_judged_4 : ∃ s : State, ∃ id : TileId, ∃ r : CalRun, ∃ rec' : CodeRecord,
    s.inRun = true ∧
    (s.tile id).run = some r ∧
    r.fires = 320 ∧
    s.runRecord (id.array r.arr) = some rec' ∧
    r.repeated = true ∧
    s.isDrained = false :=
  ⟨{ upWt fun x => { x with records := [(⟨0, 3, 2⟩, plainRecord)], directory := [(⟨0, 3, 2⟩, { freshDir with astate := .inService })] } with
      tl := { up.tl with tiles := [{ freshTile ⟨0, 3⟩ with run := some ⟨2, true, 4, some 70, 320, 480, some 80, true⟩ }] } }, ⟨0, 3⟩, ⟨2, true, 4, some 70, 320, 480, some 80, true⟩, plainRecord, by decide +kernel⟩

theorem witness_calibration_is_requested_run_and_judged_5 : ∃ s : State, ∃ id : TileId, ∃ r : CalRun, ∃ rec' : CodeRecord, ∃ raw : List (List Int),
    let now := interpolateSet r.temp (s.franking (id.array r.arr)).entries
    let fit := fitRun rec' (s.drift (id.array r.arr)).delta now raw
    let anchor := newAnchor (at' (s.tileRecord id).anchors r.arr neutralAnchor) fit.measured now
    s.inRun = true ∧
    (s.tile id).run = some r ∧
    r.fires = 320 ∧
    s.runRecord (id.array r.arr) = some rec' ∧
    fit.fail = false ∧
    ((∀ e ∈ buildEntries anchor (s.tileRecord id).shape, anchorInSpan e = true)) :=
  ⟨{ upWt fun x => { x with records := [(⟨0, 3, 2⟩, plainRecord)], directory := [(⟨0, 3, 2⟩, { freshDir with astate := .inService })] } with
      tl := { up.tl with tiles := [{ freshTile ⟨0, 3⟩ with run := some ⟨2, true, 4, some 70, 320, 480, some 80, true⟩ }] } }, ⟨0, 3⟩, ⟨2, true, 4, some 70, 320, 480, some 80, true⟩, plainRecord, [], by dsimp only; exact ⟨by decide +kernel, by decide +kernel, by decide +kernel, by decide +kernel, plain_fit_passes.1, plain_fit_passes.2⟩⟩

/-- `up` before its first calibration, every region at 30 degC. -/
def warm : State :=
  { upCl fun c => { c with storeField := false } with
    bt := { up.bt with hbmReady := true }, th := { up.th with sensors := (List.range 256).map fun n => ⟨n, 480, 480, 0, false, [], false⟩ } }

theorem witness_calibration_is_requested_run_and_judged_6 : ∃ s : State, ∃ refin : List Nat, ∃ runs : List (ArrId × List (List Int) × Bool),
    s.inRun = true ∧
    s.firmwareRuns = true ∧
    s.lacksField = true ∧
    s.isDrained = false ∧
    s.tm.valid = true ∧
    s.bt.hbmReady = true ∧
    s.allProgrammable = true ∧
    traceResult refin = 1 ∧
    (∀ e ∈ s.firstAnchors runs, e.2.isSome = true) ∧
    (∀ e ∈ s.wt.directory, e.2.wear ≠ 27999) ∧
    s.wt.wearBase ≠ 27999 :=
  ⟨warm, [1000000, 1000000, 1000000, 1000000, 990000], [], by decide +kernel⟩

theorem witness_calibration_is_requested_run_and_judged_6_fails : ∃ s : State, ∃ refin : List Nat,
    ∃ runs : List (ArrId × List (List Int) × Bool),
    s.inRun = true ∧
    s.firmwareRuns = true ∧
    s.lacksField = true ∧
    s.isDrained = false ∧
    s.tm.valid = true ∧
    s.bt.hbmReady = true ∧
    s.allProgrammable = true ∧
    traceResult refin = 1 ∧
    (∃ e ∈ s.firstAnchors runs, e.2 = none) :=
  ⟨warm, [1000000, 1000000, 1000000, 1000000, 990000], [(⟨0, 3, 2⟩, [], true)], by decide +kernel,
    by decide +kernel, by decide +kernel, by decide +kernel, by decide +kernel, by decide +kernel, by decide +kernel, by decide +kernel, (⟨0, 3, 2⟩, none),
    List.mem_singleton.mpr rfl, rfl⟩

theorem witness_calibration_is_requested_run_and_judged_7 : ∃ s : State, ∃ refin : List Nat,
    s.inRun = true ∧
    s.firmwareRuns = true ∧
    s.lacksField = true ∧
    s.isDrained = false ∧
    s.tm.valid = true ∧
    s.bt.hbmReady = true ∧
    s.allProgrammable = true ∧
    traceResult refin ≠ 1 :=
  ⟨warm, [1000000, 1000000, 1000000, 1000000, 989999], by decide +kernel⟩

theorem witness_throttle_follows_its_triggers_1 : ∃ s : State,
    s.hcoreRuns = true ∧
    s.th.anyTrig = true ∧
    s.pw.k < 14 :=
  ⟨{ upPw fun p => { p with k := 13 } with th := { up.th with currTrig := true } }, by decide +kernel⟩

theorem witness_throttle_follows_its_triggers_2 : ∃ s : State,
    s.hcoreRuns = true ∧
    s.th.anyTrig = false ∧
    0 < s.pw.k :=
  ⟨upPw fun p => { p with k := 1 }, by decide +kernel⟩

theorem witness_throttle_follows_its_triggers_3 : ∃ s : State, ∃ i : Nat, ∃ raw : Int,
    let old := (s.sensor i).getD (freshSensor i raw)
    let reading := s.corrected i raw
    let failed : Bool := reading < -640 || 2400 < reading ||
      100 ≤ (if !s.dieRuns i then 0 else if reading = old.reading then old.same + 1 else 1)
    s.sampled i = true ∧
    s.tripAt ≤ reading ∧
    old.hot = true ∧
    failed = true :=
  ⟨{ up with th := { up.th with sensors := [⟨3, 2000, 2000, 99, false, [], true⟩], provisional := false } }, 3, 2000, by dsimp only; decide +kernel⟩

theorem witness_governor_and_guards_hold_the_power_1 : ∃ s : State,
    s.awake = true :=
  ⟨up, by decide +kernel⟩

theorem witness_governor_and_guards_hold_the_power_2 : ∃ s : State, ∃ q : Nat,
    s.awake = true ∧
    q ≤ 4 * 1650 :=
  ⟨up, 6600, by decide +kernel⟩

theorem witness_governor_and_guards_hold_the_power_3 : ∃ s : State, ∃ q : Nat,
    s.awake = true ∧
    4 * 1650 < q :=
  ⟨up, 6601, by decide +kernel⟩

theorem witness_wakes_return_to_run_1 : ∃ s : State,
    s.pw.supplied = true ∧
    s.pw.stop = none :=
  ⟨up, by decide +kernel⟩

theorem witness_wakes_return_to_run_2 : ∃ s : State,
    s.storedField 0x4004 0 14 ≠ 0 ∧
    s.inRun = true ∧
    s.pw.entry = none ∧
    s.quiet = true :=
  ⟨upRg fun r => { r with stored := [(0x4004, 1)] }, by decide +kernel⟩

theorem witness_wakes_return_to_run_3 : ∃ s : State, ∃ e : PowerEntry,
    s.pw.entry = some e ∧
    e.target ≠ .p1 ∧
    s.liveSteps ≠ [] :=
  ⟨{ withStep work with pw := { up.pw with entry := some ⟨.p3, 90, false⟩ } }, ⟨.p3, 90, false⟩, by decide +kernel⟩

theorem witness_wakes_return_to_run_4 : ∃ s : State, ∃ e : PowerEntry,
    s.pw.entry = some e ∧
    e.target = .p1 :=
  ⟨{ withStep work with pw := { up.pw with entry := some ⟨.p1, 90, false⟩ } }, ⟨.p1, 90, false⟩, by decide +kernel⟩

theorem witness_field_tests_and_the_scrubber_report_1 : ∃ s : State, ∃ id : TileId,
    let x := (s.tile id).test
    s.inRun = true ∧
    s.enabled id = true ∧
    x.due = false ∧
    x.running = false :=
  ⟨up, ⟨3, 16383⟩, by dsimp only; decide +kernel⟩

theorem witness_field_tests_and_the_scrubber_report_2 : ∃ s : State, ∃ id : TileId,
    let x := (s.tile id).test
    s.inRun = true ∧
    s.enabled id = true ∧
    x.due = true ∧
    x.running = false ∧
    s.workStops = false ∧
    s.idleForTest (s.tile id) = true :=
  ⟨{ up with tl := { up.tl with tiles := [{ freshTile ⟨0, 3⟩ with test := { freshTest with due := true, boundary := true } }] } }, ⟨0, 3⟩,
    by dsimp only; decide +kernel⟩

theorem witness_field_tests_and_the_scrubber_report_3_structural : ∃ (id : TileId) (r : TestReadings) (n : Nat),
    id.tile < 16384 ∧
    r.structural = some n :=
  ⟨⟨0, 3⟩, ⟨some 91, []⟩, 91, by decide +kernel⟩

theorem witness_field_tests_and_the_scrubber_report_3_bare : ∃ (s : State) (id : TileId) (r : TestReadings),
    r.structural = none ∧
    (s.tile id).test.arr = none :=
  ⟨up, ⟨0, 3⟩, ⟨none, []⟩, by decide +kernel⟩

theorem neutral_reads_zero (xs : List Int) (j : Nat) : corrected ⟨neutralAnchor, []⟩ 0 xs j 0 = 0 := by
  have h : (64 : Int) * at' ([] : List Int) j 0 * sumInt xs = 0 := by simp [at']
  have hg : gAt neutralAnchor j = 32768 := by simp [gAt, neutralAnchor, at']
  have hf : fAt neutralAnchor j = 0 := by simp [fAt, neutralAnchor, at']
  unfold corrected
  simp only [h, hg, hf]
  decide +kernel

/-- A record without weights whose converters all read 0 passes each plain fire, and the checker flags each offset one. -/
theorem plain_fires_pass (n : Nat) (hn : n < 64) : testFireFails plainRecord ⟨neutralAnchor, []⟩ n (List.replicate 258 0) = false := by
  have hy : correctedAll ⟨neutralAnchor, []⟩ plainRecord 0 (testX n) (List.replicate 258 0) = List.replicate 258 0 := by
    apply List.ext_getElem
    · simp [correctedAll]
    · intro j h1 h2
      have hj : at' (List.replicate 258 (0 : Int)) j 0 = 0 := by
        unfold at'
        rw [List.getD_eq_getElem?_getD, List.getElem?_replicate]
        split <;> rfl
      simp only [correctedAll, List.getElem_map, List.getElem_range, hj, neutral_reads_zero, ite_self, List.getElem_replicate]
  have hr : remainderTerm plainRecord (testX n) = 0 := rfl
  have hv (j : Nat) : columnValue plainRecord j (testX n) = 0 := by
    have hw : converterWeights plainRecord j = [] := by
      unfold converterWeights
      split
      · rfl
      · split <;> rfl
    rw [columnValue, hw]
    rfl
  unfold testFireFails
  simp only [hy, hr, hv]
  clear hy hr hv
  revert n
  decide +kernel

/-- Tile 3 of die 0 in a test of its array 15, whose record has no weights. -/
def testing (repeated : Bool) : State :=
  { upWt fun x => { x with records := [(⟨0, 3, 15⟩, plainRecord)] } with
    tl := { up.tl with tiles :=
      [{ freshTile ⟨0, 3⟩ with
         current := [(15, ⟨neutralAnchor, []⟩)],
         test := { freshTest with due := true, running := true, arr := some 15, repeated := repeated } }] } }

theorem witness_field_tests_and_the_scrubber_report_3_sound : ∃ (s : State) (id : TileId) (r : TestReadings) (k : Nat),
    let fails (n : Nat) : Bool := testFireFails (s.testRecord (id.array k)) (s.currentSet (s.tile id) k) n (at' r.raw n [])
    r.structural = none ∧
    (s.tile id).test.arr = some k ∧
    ∀ n, n < 64 → fails n = false :=
  ⟨testing false, ⟨0, 3⟩, ⟨none, List.replicate 64 (List.replicate 258 0)⟩, 15, rfl, rfl, by
    intro n hn
    have h1 : (testing false).testRecord ((⟨0, 3⟩ : TileId).array 15) = plainRecord := rfl
    have h2 : (testing false).currentSet ((testing false).tile ⟨0, 3⟩) 15 = ⟨neutralAnchor, []⟩ := by decide +kernel
    have h3 : at' (List.replicate 64 (List.replicate 258 (0 : Int))) n [] = List.replicate 258 0 := by
      rw [at', List.getD_eq_getElem?_getD, List.getElem?_replicate, if_pos hn]
      rfl
    dsimp only
    rw [h1, h2, h3]
    exact plain_fires_pass n hn⟩

theorem witness_field_tests_and_the_scrubber_report_3_first : ∃ (s : State) (id : TileId) (r : TestReadings) (k n : Nat),
    let fails (n : Nat) : Bool := testFireFails (s.testRecord (id.array k)) (s.currentSet (s.tile id) k) n (at' r.raw n [])
    r.structural = none ∧
    (s.tile id).test.arr = some k ∧
    n < 64 ∧
    fails n = true ∧
    (∀ m, m < n → fails m = false) :=
  ⟨testing false, ⟨0, 3⟩, ⟨none, [List.replicate 258 0, List.replicate 258 100]⟩, 15, 1, by dsimp only; decide +kernel⟩

theorem witness_field_tests_and_the_scrubber_report_3_passes : ∃ (s : State) (id : TileId) (r : TestReadings),
    s.inRun = true ∧
    (s.tile id).test.running = true ∧
    s.testFails id r = none :=
  ⟨{ up with tl := { up.tl with tiles := [{ freshTile ⟨0, 3⟩ with test := { freshTest with running := true } }] } }, ⟨0, 3⟩, ⟨none, []⟩, by decide +kernel⟩

theorem witness_field_tests_and_the_scrubber_report_3 : ∃ (s : State) (id : TileId) (r : TestReadings) (a b : Nat),
    s.inRun = true ∧
    (s.tile id).test.running = true ∧
    s.testFails id r = some (a, b) ∧
    (s.tile id).test.repeated = false :=
  ⟨testing false, ⟨0, 3⟩, ⟨some 91, []⟩, 1, 91, by decide +kernel⟩

theorem witness_field_tests_and_the_scrubber_report_4 : ∃ (s : State) (id : TileId) (r : TestReadings) (a b : Nat),
    s.inRun = true ∧
    (s.tile id).test.running = true ∧
    s.testFails id r = some (a, b) ∧
    (s.tile id).test.repeated = true ∧
    s.isDrained = false :=
  ⟨testing true, ⟨0, 3⟩, ⟨some 0, []⟩, 1, 0, by decide +kernel⟩

theorem witness_field_tests_and_the_scrubber_report_5 : ∃ s : State,
    s.hcoreRuns = true :=
  ⟨up, by decide +kernel⟩

theorem witness_field_tests_and_the_scrubber_report_6 : ∃ s : State, ∃ stack,
    s.hcoreRuns = true ∧
    stack < 16 :=
  ⟨up, 15, by decide +kernel⟩

theorem witness_field_tests_and_the_scrubber_report_7 : ∃ s : State,
    s.hcoreRuns = true ∧
    s.isDrained = false :=
  ⟨up, by decide +kernel⟩

theorem witness_dispatch_ports_train_and_say_hello_1 : ∃ s : State, ∃ d : Nat, ∃ gen : Nat,
    s.linksPowered = true ∧
    d < 2 ∧
    d < s.dp.ports.length ∧
    (s.dsp d).state = .training ∧
    gen = s.dspGen d :=
  ⟨upDp fun d => { d with ports := [openPort, { DspPort.reset with state := .training }] }, 1, 2, by decide +kernel⟩

theorem witness_dispatch_ports_train_and_say_hello_2 : ∃ s : State, ∃ d : Nat,
    s.linksPowered = true ∧
    d < 2 ∧
    d < s.dp.ports.length ∧
    (s.dsp d).state = .training :=
  ⟨upDp fun d => { d with ports := [openPort, { DspPort.reset with state := .training }] }, 1, by decide +kernel⟩

theorem witness_dispatch_ports_train_and_say_hello_3 : ∃ s : State, ∃ d : Nat,
    d < 2 ∧
    (s.dsp d).state = .up ∧
    s.firmwareRuns = true ∧
    s.rg.sealed.noRef = false ∧
    (s.dsp d).selected = false :=
  ⟨{ upDp fun d => { d with ports := [openPort, { openPort with selected := false }] } with rg := { up.rg with sealed := { Seal.reset with noRef := false } } },
    1, by decide +kernel⟩

theorem witness_dispatch_ports_train_and_say_hello_4 : ∃ s : State, ∃ d : Nat,
    d < (s.frameArrives false).dp.ports.length ∧
    s.portHears d = true :=
  ⟨up, 1, by decide +kernel⟩

theorem witness_dispatch_ports_train_and_say_hello_5 : ∃ s : State,
    s.emulates = true :=
  ⟨upDp fun d => { d with lease := some { lease with mode := 1 }, last := some { lease with mode := 1 } }, by decide +kernel⟩

theorem witness_dispatch_ports_train_and_say_hello_6 : ∃ s : State, ∃ n : Nat, ∃ q : Queue,
    s.emulates = true ∧
    s.queue n = some q :=
  ⟨{ withQueue queue3 with dp := { up.dp with lease := some { lease with mode := 1 }, last := some { lease with mode := 1 } } }, 3, queue3,
    by decide +kernel⟩

theorem witness_ports_go_down_retrain_and_fail_1 : ∃ s : State, ∃ k : Nat, ∃ c : DownCause,
    s.linksPowered = true ∧
    k < 12 ∧
    (s.port k).state = .up ∧
    ((c = .resends → ∃ f ∈ (s.port k).link.replay, 8 ≤ f.resends)) :=
  ⟨upFb fun f => { f with ports := f.ports.set 11 { CourierPort.reset with state := .up, link := { Link.reset with replay := [⟨3, 0, 0, 1, [], 0, false, 0, 0, 50, 8, false⟩] } } },
    11, .resends, by decide +kernel, by decide +kernel, by decide +kernel, fun _ => by decide +kernel⟩

theorem witness_ports_go_down_retrain_and_fail_2 : ∃ s : State, ∃ d : Nat, ∃ c : DownCause,
    s.linksPowered = true ∧
    d < 2 ∧
    d < s.dp.ports.length ∧
    (s.dsp d).state = .up ∧
    ((c = .resends → ∃ f ∈ (s.dsp d).link.replay, 8 ≤ f.resends)) :=
  ⟨upDp fun d => { d with ports := [openPort, { openPort with link := { Link.reset with replay := [⟨3, 0, 0, 1, [], 0, false, 0, 0, 50, 8, false⟩] } }] },
    1, .resends, by decide +kernel, by decide +kernel, by decide +kernel, by decide +kernel, fun _ => by decide +kernel⟩

theorem witness_ports_go_down_retrain_and_fail_3 : ∃ s : State, ∃ k : Nat, ∃ lanes : Nat,
    let g := usableLanes lanes (match (s.port k).partnerAdv with
      | some a => a.lanes
      | none => 0)
    s.linksPowered = true ∧
    k < 12 ∧
    (s.port k).state = .retrain ∧
    lanes = lockedLanes (s.port k).locked ∧
    3 ≤ (s.port k).advertsSame ∧
    g ≠ 0 :=
  ⟨upFb fun f => { f with ports := f.ports.set 11 { CourierPort.reset with state := .retrain, advertsSame := 3, partnerAdv := some ⟨1, 3, 5, true, 2, 0, 4, 3, 0x1FF, 9, 1, true⟩, locked := [(0, 4, false), (1, 5, false), (2, 6, true), (3, 7, false)] } },
    11, 2, by dsimp only; decide +kernel⟩

theorem witness_ports_go_down_retrain_and_fail_3_no_lanes : ∃ s : State, ∃ k : Nat, ∃ lanes : Nat,
    let g := usableLanes lanes (match (s.port k).partnerAdv with
      | some a => a.lanes
      | none => 0)
    s.linksPowered = true ∧
    k < 12 ∧
    (s.port k).state = .retrain ∧
    lanes = lockedLanes (s.port k).locked ∧
    3 ≤ (s.port k).advertsSame ∧
    g = 0 :=
  ⟨upFb fun f => { f with ports := f.ports.set 11 { CourierPort.reset with state := .retrain, advertsSame := 3, partnerAdv := some ⟨1, 3, 5, true, 2, 0, 4, 3, 0x1FF, 9, 1, true⟩ } },
    11, 0, by dsimp only; decide +kernel⟩

theorem witness_flits_are_taken_in_order_and_resent_6 : ∃ f : SentFlit,
    f.data.length = 240 ∧
    f.seq < 4096 ∧
    f.vc < 16 ∧
    f.ack < 4096 ∧
    f.creditVc < 16 ∧
    f.credit < 4096 ∧
    f.fkind < 256 :=
  ⟨⟨4095, 15, 0, 255, bytes 240, 4095, true, 15, 4095, 0, 0, false⟩, by decide +kernel⟩

theorem witness_flits_are_taken_in_order_and_resent_7 : ∃ n : Nat, ∃ flit : Bytes,
    0 < n ∧
    flit.length % n = 0 :=
  ⟨8, bytes 256, by decide +kernel⟩

theorem witness_flits_are_taken_in_order_and_resent_8 : ∃ flit : Bytes,
    flit.length = 256 :=
  ⟨bytes 256, by decide +kernel⟩

theorem witness_ports_negotiate_by_adverts_4_fails : ∃ s : State, ∃ k : Nat, ∃ a : Advert,
    s.linksPowered = true ∧
    k < 12 ∧
    (s.port k).state = .detect ∧
    a.version = 1 ∧
    a.crcOk = true ∧
    (s.port k).advertsSame = 2 ∧
    (s.port k).partnerAdv = some a ∧
    (usableLanes (lockedLanes (s.port k).locked) a.lanes = 0 ∨ commonGen 2 a.gens = 0) :=
  ⟨upFb fun f => { f with ports := f.ports.set 0 { CourierPort.reset with state := .detect, advertsSame := 2, partnerAdv := some ⟨1, 3, 5, true, 2, 0, 4, 3, 0x1FF, 9, 1, true⟩ } },
    0, ⟨1, 3, 5, true, 2, 0, 4, 3, 0x1FF, 9, 1, true⟩, by decide +kernel⟩

theorem witness_ports_go_down_retrain_and_fail_4 : ∃ s : State, ∃ d : Nat,
    s.linksPowered = true ∧
    d < 2 ∧
    d < s.dp.ports.length ∧
    (s.dsp d).state = .retrain :=
  ⟨upDp fun d => { d with ports := [openPort, { DspPort.reset with state := .retrain }] }, 1, by decide +kernel⟩

theorem witness_ports_go_down_retrain_and_fail_5 : ∃ s : State, ∃ k : Nat,
    s.linksPowered = true ∧
    k < 12 ∧
    (s.port k).state = .retrain :=
  ⟨upFb fun f => { f with ports := f.ports.set 11 { CourierPort.reset with state := .retrain } }, 11, by decide +kernel⟩

theorem witness_ports_go_down_retrain_and_fail_6 : ∃ s : State, ∃ d : Nat,
    s.linksPowered = true ∧
    d < 2 ∧
    d < s.dp.ports.length ∧
    (s.dsp d).state = .retrain :=
  ⟨upDp fun d => { d with ports := [openPort, { DspPort.reset with state := .retrain }] }, 1, by decide +kernel⟩

theorem witness_ports_go_down_retrain_and_fail_7 : ∃ s : State, ∃ links : List (Nat × Nat × Nat),
    let t : State := { s with fb := { s.fb with routes := s.routesOver links, links := links, detours := [] } }
    s.firmwareRuns = true ∧
    s.fb.coordValid = true ∧
    ((∀ j ∈ s.fb.jobs, t.cutMember j = none)) :=
  ⟨upFb fun f => { f with coordValid := true, coord := 0, dim := 1, jobs := [⟨6, 0, 0, none, 0, []⟩] }, [],
    by dsimp only; decide +kernel⟩

theorem witness_flits_are_taken_in_order_and_resent_1 : ∃ s : State, ∃ k : Nat, ∃ f : Flit,
    s.courierAlive k = true ∧
    f.fkind ≠ 5 :=
  ⟨upFb fun f => { f with ports := f.ports.set 11 { CourierPort.reset with state := .keepalive } }, 11, ⟨0, 0, 0, false, 0, 0, 1, true,
    bytes 240⟩, by decide +kernel⟩

theorem witness_flits_are_taken_in_order_and_resent_2 : ∃ s : State, ∃ k : Nat, ∃ f : SentFlit, ∃ fs : List SentFlit,
    s.courierAlive k = true ∧
    (s.port k).link.replay = f :: fs :=
  ⟨upFb fun f => { f with ports := f.ports.set 11 { CourierPort.reset with state := .check, link := { Link.reset with replay := [⟨3, 0, 0, 1, [], 0, false, 0, 0, 50, 8, false⟩] } } },
    11, ⟨3, 0, 0, 1, [], 0, false, 0, 0, 50, 8, false⟩, [], by decide +kernel⟩

theorem witness_flits_are_taken_in_order_and_resent_3 : ∃ s : State, ∃ k : Nat,
    s.linksPowered = true ∧
    s.pw.state = .p2 ∧
    k < 12 ∧
    (s.port k).state = .keepalive ∧
    (s.port k).link.replay.length < 512 :=
  ⟨{ upFb fun f => { f with ports := f.ports.set 11 { CourierPort.reset with state := .keepalive, link := { Link.reset with replay := List.replicate 511 ⟨3, 0, 0, 1, [], 0, false, 0, 0, 50, 0, false⟩ } } } with pw := { up.pw with state := .p2 } },
    11, by decide +kernel⟩

theorem witness_flits_are_taken_in_order_and_resent_4 : ∃ s : State, ∃ b : Nat, ∃ n : Nat, ∃ out : Bool,
    b < 8 ∧
    s.hcoreRuns = true ∧
    s.flitTries (b, out, n) < 3 :=
  ⟨upFb fun f => { f with bridgeRetries := [((7, true, 4), 2), ((7, false, 4), 3)] }, 7, 4, true, by decide +kernel⟩

theorem witness_flits_are_taken_in_order_and_resent_5 : ∃ s : State, ∃ b : Nat, ∃ n : Nat, ∃ out : Bool,
    b < 8 ∧
    s.hcoreRuns = true ∧
    3 ≤ s.flitTries (b, out, n) ∧
    s.isDrained = false :=
  ⟨upFb fun f => { f with bridgeRetries := [((7, false, 4), 3)] }, 7, 4, false, by decide +kernel⟩

theorem witness_ports_negotiate_by_adverts_1 : ∃ s : State, ∃ k : Nat, ∃ lane, ∃ number,
    s.linksPowered = true ∧
    k < 12 ∧
    (s.port k).state = .detect ∧
    lane < 8 ∧
    number < 8 :=
  ⟨upFb fun f => { f with ports := f.ports.set 0 { CourierPort.reset with state := .detect } }, 0, 7, 7, by decide +kernel⟩

theorem witness_ports_negotiate_by_adverts_2 : ∃ s : State, ∃ k : Nat, ∃ a : Advert,
    s.linksPowered = true ∧
    k < 12 ∧
    (s.port k).state = .detect ∧
    a.version = 1 ∧
    a.crcOk = false :=
  ⟨upFb fun f => { f with ports := f.ports.set 0 { CourierPort.reset with state := .detect } }, 0, ⟨1, 3, 5, true, 2, 0, 4, 3, 0x1FF, 9, 1,
    false⟩, by decide +kernel⟩

theorem witness_ports_negotiate_by_adverts_3 : ∃ s : State, ∃ k : Nat, ∃ a : Advert,
    s.linksPowered = true ∧
    k < 12 ∧
    (s.port k).state = .detect ∧
    a.version = 1 ∧
    a.crcOk = true ∧
    (s.port k).advertsSame = 1 ∧
    (s.port k).partnerAdv = some a :=
  ⟨upFb fun f => { f with ports := f.ports.set 0 { CourierPort.reset with state := .detect, advertsSame := 1, partnerAdv := some ⟨1, 3, 5, true, 2, 0, 4, 3, 0x1FF, 9, 1, true⟩ } },
    0, ⟨1, 3, 5, true, 2, 0, 4, 3, 0x1FF, 9, 1, true⟩, by decide +kernel⟩

theorem witness_ports_negotiate_by_adverts_4 : ∃ s : State, ∃ k : Nat, ∃ a : Advert,
    s.linksPowered = true ∧
    k < 12 ∧
    (s.port k).state = .detect ∧
    a.version = 1 ∧
    a.crcOk = true ∧
    (s.port k).advertsSame = 2 ∧
    (s.port k).partnerAdv = some a ∧
    usableLanes (lockedLanes (s.port k).locked) a.lanes ≠ 0 ∧
    commonGen 2 a.gens ≠ 0 :=
  ⟨upFb fun f => { f with ports := f.ports.set 0 { CourierPort.reset with state := .detect, advertsSame := 2, partnerAdv := some ⟨1, 3, 5, true, 2, 0, 4, 3, 0x1FF, 9, 1, true⟩, locked := [(0, 4, false), (1, 5, false), (2, 6, true), (3, 7, false)] } },
    0, ⟨1, 3, 5, true, 2, 0, 4, 3, 0x1FF, 9, 1, true⟩, by decide +kernel⟩

theorem witness_ports_negotiate_by_adverts_5 : ∃ s : State, ∃ k : Nat, ∃ a : Advert,
    s.linksPowered = true ∧
    k < 12 ∧
    (s.port k).state = .select ∧
    (s.port k).partnerAdv = some a ∧
    a.coordValid = true ∧
    s.fb.coordValid = true :=
  ⟨upFb fun f => { f with coordValid := true, ports := f.ports.set 0 { CourierPort.reset with state := .select, partnerAdv := some ⟨1, 3, 5, true, 2, 0, 4, 3, 0x1FF, 9, 1, true⟩ } },
    0, ⟨1, 3, 5, true, 2, 0, 4, 3, 0x1FF, 9, 1, true⟩, by decide +kernel⟩

theorem witness_ports_negotiate_by_adverts_6 : ∃ s : State, ∃ k : Nat,
    s.linksPowered = true ∧
    k < 12 ∧
    (s.port k).state = .select ∧
    s.fb.coordValid = false :=
  ⟨upFb fun f => { f with ports := f.ports.set 0 { CourierPort.reset with state := .select } }, 0, by decide +kernel⟩

theorem witness_ports_negotiate_by_adverts_7 : ∃ s : State, ∃ k : Nat, ∃ a : Advert,
    s.linksPowered = true ∧
    k < 12 ∧
    (s.port k).state = .select ∧
    (s.port k).partnerAdv = some a ∧
    (s.port k).trainGen = 2 :=
  ⟨upFb fun f => { f with ports := f.ports.set 0 { CourierPort.reset with state := .select, trainGen := 2, partnerAdv := some ⟨1, 3, 5, true, 2, 0, 4, 3, 0x1FF, 9, 1, true⟩ } },
    0, ⟨1, 3, 5, true, 2, 0, 4, 3, 0x1FF, 9, 1, true⟩, by decide +kernel⟩

theorem witness_ports_negotiate_by_adverts_8 : ∃ s : State, ∃ k : Nat,
    s.linksPowered = true ∧
    k < 12 ∧
    (s.port k).state = .select ∧
    (s.port k).trainGen = 1 :=
  ⟨upFb fun f => { f with ports := f.ports.set 0 { CourierPort.reset with state := .select, trainGen := 1 } }, 0, by decide +kernel⟩

theorem witness_the_lease_is_made_renewed_and_ended_1 : ∃ s : State, ∃ h : FrameHdr, ∃ p : Bytes,
    let u := s.heard h 1
    s.takes h 1 2 false (p.length == 64) = true ∧
    u.selectReason h.port p ≠ 0 :=
  ⟨up, hdr 64, natLe 1 2 ++ natLe 7 0 ++ natLe 8 0x2000 ++ natLe 8 7 ++ natLe 40 0, by dsimp only; decide +kernel⟩

theorem witness_the_lease_is_made_renewed_and_ended_2 : ∃ s : State, ∃ h : FrameHdr, ∃ p : Bytes,
    let u := s.heard h 1
    s.takes h 1 2 false (p.length == 64) = true ∧
    u.selectReason h.port p = 0 :=
  ⟨up, hdr 64, natLe 1 2 ++ natLe 7 0 ++ natLe 8 0x1FFF ++ natLe 8 7 ++ natLe 40 0, by dsimp only; decide +kernel⟩

theorem witness_the_lease_is_made_renewed_and_ended_3 : ∃ s : State, ∃ h : FrameHdr, ∃ p : Bytes, ∃ l : Lease,
    let u := s.heard h 1
    s.takes h 1 14 true (p.length == 16) = true ∧
    u.dp.lease = some l ∧
    fld p 0 8 ≠ l.host :=
  ⟨up, hdr 16, natLe 8 8 ++ natLe 8 0, lease, by dsimp only; decide +kernel⟩

theorem witness_the_lease_is_made_renewed_and_ended_4 : ∃ s : State, ∃ h : FrameHdr, ∃ p : Bytes, ∃ l : Lease,
    let u := s.heard h 1
    s.takes h 1 14 true (p.length == 16) = true ∧
    u.dp.lease = some l ∧
    fld p 0 8 = l.host :=
  ⟨up, hdr 16, natLe 8 7 ++ natLe 8 0, lease, by dsimp only; decide +kernel⟩

theorem witness_the_lease_is_made_renewed_and_ended_5 : ∃ s : State, ∃ l : Lease,
    s.dp.lease = some l ∧
    l.suspended = false ∧
    s.firmwareRuns = true ∧
    l.onCounter = false :=
  ⟨upDp fun d => { d with lease := some { lease with onCounter := false } }, { lease with onCounter := false }, by decide +kernel⟩

theorem witness_the_lease_is_made_renewed_and_ended_6 : ∃ s : State, ∃ l : Lease,
    s.dp.lease = some l ∧
    l.suspended = false ∧
    s.firmwareRuns = true ∧
    l.onCounter = true ∧
    s.tm.valid = true :=
  ⟨up, lease, by decide +kernel⟩

theorem witness_the_lease_is_made_renewed_and_ended_7 : ∃ s : State, ∃ c : CmdFrame,
    s.commandReady c cmdReleaseLease = true ∧
    fld c.args 0 1 = 0 :=
  ⟨up, command [0], by decide +kernel⟩

theorem witness_the_lease_is_made_renewed_and_ended_8 : ∃ s : State, ∃ c : CmdFrame,
    s.commandReady c cmdReleaseLease = true ∧
    fld c.args 0 1 = 1 :=
  ⟨up, command [1], by decide +kernel⟩

theorem witness_steps_are_taken_in_order_of_their_numbers_1 : ∃ s : State, ∃ h : FrameHdr,
    let u := s.heard h 0
    s.takes h 0 5 true true = true ∧
    u.queue h.queue = none :=
  ⟨up, hdr 0, by dsimp only; decide +kernel⟩

theorem witness_steps_are_taken_in_order_of_their_numbers_2 : ∃ s : State, ∃ h : FrameHdr, ∃ q,
    let u := s.heard h 0
    s.takes h 0 5 true true = true ∧
    u.queue h.queue = some q ∧
    q.deleting = false ∧
    q.ctx = h.context ∧
    ((q.ownPort = none ∨ q.ownPort = some h.port)) ∧
    u.isDrained = true :=
  ⟨{ withQueue queue3 with bt := drained.bt }, hdr 0, queue3, by dsimp only; decide +kernel⟩

theorem witness_steps_are_taken_in_order_of_their_numbers_3 : ∃ s : State, ∃ h : FrameHdr, ∃ q,
    let u := s.heard h 0
    s.takes h 0 5 true true = true ∧
    u.queue h.queue = some q ∧
    q.deleting = false ∧
    q.ctx = h.context ∧
    ((q.ownPort = none ∨ q.ownPort = some h.port)) ∧
    u.isDrained = false ∧
    h.seq = q.expected ∧
    q.expected < 2 ^ 32 ∧
    q.waiting.length < 256 ∧
    ((∀ w ∈ q.reorder, w.seq ≠ (q.expected + 1) % 2 ^ 32)) :=
  ⟨withQueue { queue3 with expected := 2 ^ 32 - 1, ownPort := some 0, waiting := List.replicate 255 (waiter 4) },
    { hdr 0 with seq := 2 ^ 32 - 1 }, { queue3 with expected := 2 ^ 32 - 1, ownPort := some 0, waiting := List.replicate 255 (waiter 4) },
    by dsimp only; decide +kernel⟩

theorem witness_steps_are_taken_in_order_of_their_numbers_4 : ∃ s : State, ∃ h : FrameHdr, ∃ q,
    let u := s.heard h 0
    s.takes h 0 5 true true = true ∧
    u.queue h.queue = some q ∧
    q.deleting = false ∧
    q.ctx = h.context ∧
    ((q.ownPort = none ∨ q.ownPort = some h.port)) ∧
    u.isDrained = false ∧
    1 ≤ ahead q.expected h.seq ∧
    ahead q.expected h.seq ≤ 16 ∧
    ((∀ w ∈ q.reorder, w.seq ≠ h.seq)) :=
  ⟨withQueue { queue3 with expected := 2 ^ 32 - 1, ownPort := some 0, waiting := List.replicate 255 (waiter 4) }, { hdr 0 with seq := 15 },
    { queue3 with expected := 2 ^ 32 - 1, ownPort := some 0, waiting := List.replicate 255 (waiter 4) },
    by dsimp only; decide +kernel⟩

theorem witness_steps_are_taken_in_order_of_their_numbers_5 : ∃ s : State, ∃ h : FrameHdr, ∃ q,
    let u := s.heard h 0
    s.takes h 0 5 true true = true ∧
    u.queue h.queue = some q ∧
    q.deleting = false ∧
    q.ctx = h.context ∧
    ((q.ownPort = none ∨ q.ownPort = some h.port)) ∧
    u.isDrained = false ∧
    2 ^ 32 - 4096 ≤ ahead q.expected h.seq :=
  ⟨withQueue { queue3 with expected := 2 ^ 32 - 1, ownPort := some 0, waiting := List.replicate 255 (waiter 4) },
    { hdr 0 with seq := 2 ^ 32 - 4097 },
    { queue3 with expected := 2 ^ 32 - 1, ownPort := some 0, waiting := List.replicate 255 (waiter 4) },
    by dsimp only; decide +kernel⟩

theorem witness_steps_are_taken_in_order_of_their_numbers_6 : ∃ s : State, ∃ h : FrameHdr, ∃ q,
    let u := s.heard h 0
    s.takes h 0 5 true true = true ∧
    u.queue h.queue = some q ∧
    q.deleting = false ∧
    q.ctx = h.context ∧
    ((q.ownPort = none ∨ q.ownPort = some h.port)) ∧
    u.isDrained = false ∧
    16 < ahead q.expected h.seq ∧
    ahead q.expected h.seq < 2 ^ 32 - 4096 :=
  ⟨withQueue { queue3 with expected := 2 ^ 32 - 1, ownPort := some 0, waiting := List.replicate 255 (waiter 4) }, { hdr 0 with seq := 16 },
    { queue3 with expected := 2 ^ 32 - 1, ownPort := some 0, waiting := List.replicate 255 (waiter 4) },
    by dsimp only; decide +kernel⟩

theorem witness_steps_are_taken_in_order_of_their_numbers_7 : ∃ s : State, ∃ n : Nat, ∃ seq : Nat, ∃ q : Queue, ∃ w : Waiting,
    s.firmwareRuns = true ∧
    s.queue n = some q ∧
    q.reorder.find? (fun x => x.seq == seq) = some w :=
  ⟨withQueue { queue3 with reorder := [waiter 8] }, 3, 8, { queue3 with reorder := [waiter 8] }, waiter 8, by decide +kernel⟩

theorem witness_steps_are_taken_in_order_of_their_numbers_8 : ∃ s : State, ∃ h : FrameHdr, ∃ p : Bytes, ∃ q : Queue,
    let u := s.heard h 0
    s.takes h 0 13 true (p.length == 8) = true ∧
    u.queue h.queue = some q ∧
    q.deleting = false ∧
    ((q.ownPort = none ∨ q.ownPort = some h.port)) ∧
    u.isDrained = false ∧
    fld p 0 1 = 0 ∧
    2 ^ q.sub.k < ahead q.sub.tail (fld p 4 4) :=
  ⟨withQueue queue3, hdr 8, natLe 4 0 ++ natLe 4 3, queue3, by dsimp only; decide +kernel⟩

theorem witness_steps_are_taken_in_order_of_their_numbers_9 : ∃ s : State, ∃ h : FrameHdr, ∃ p : Bytes, ∃ q : Queue,
    let u := s.heard h 0
    s.takes h 0 13 true (p.length == 8) = true ∧
    u.queue h.queue = some q ∧
    q.deleting = false ∧
    ((q.ownPort = none ∨ q.ownPort = some h.port)) ∧
    u.isDrained = false ∧
    fld p 0 1 = 0 ∧
    ahead q.sub.tail (fld p 4 4) ≤ 2 ^ q.sub.k :=
  ⟨withQueue queue3, hdr 8, natLe 4 0 ++ natLe 4 2, queue3, by dsimp only; decide +kernel⟩

theorem witness_steps_are_taken_in_order_of_their_numbers_10 : ∃ s : State, ∃ h : FrameHdr, ∃ p : Bytes, ∃ q : Queue,
    let u := s.heard h 0
    s.takes h 0 13 true (p.length == 8) = true ∧
    u.queue h.queue = some q ∧
    q.deleting = false ∧
    ((q.ownPort = none ∨ q.ownPort = some h.port)) ∧
    u.isDrained = false ∧
    fld p 0 1 = 1 ∧
    q.comp.tail - q.comp.head < ahead q.comp.head (fld p 4 4) :=
  ⟨withQueue { queue3 with comp := ⟨0, 1, 1, 2⟩ }, hdr 8, natLe 4 1 ++ natLe 4 3, { queue3 with comp := ⟨0, 1, 1, 2⟩ },
    by dsimp only; decide +kernel⟩

theorem witness_steps_are_taken_in_order_of_their_numbers_11 : ∃ s : State, ∃ h : FrameHdr, ∃ p : Bytes, ∃ q : Queue,
    let u := s.heard h 0
    s.takes h 0 13 true (p.length == 8) = true ∧
    u.queue h.queue = some q ∧
    q.deleting = false ∧
    ((q.ownPort = none ∨ q.ownPort = some h.port)) ∧
    u.isDrained = false ∧
    fld p 0 1 = 1 ∧
    ahead q.comp.head (fld p 4 4) ≤ q.comp.tail - q.comp.head :=
  ⟨withQueue { queue3 with comp := ⟨0, 1, 1, 2⟩ }, hdr 8, natLe 4 1 ++ natLe 4 2, { queue3 with comp := ⟨0, 1, 1, 2⟩ },
    by dsimp only; decide +kernel⟩

theorem witness_writes_and_reads_reach_the_windows_1 : ∃ s : State, ∃ h : FrameHdr, ∃ p : Bytes,
    s.takes h 0 10 true (8 ≤ p.length) = true :=
  ⟨up, hdr 9, natLe 8 64 ++ [5], by decide +kernel⟩

theorem witness_writes_and_reads_reach_the_windows_2 : ∃ s : State, ∃ h : FrameHdr, ∃ p : Bytes,
    s.takes h 0 11 true (p.length == 16 && 1 ≤ fld p 8 4 && fld p 8 4 ≤ 65536) = true :=
  ⟨up, hdr 16, natLe 8 64 ++ natLe 8 65536, by decide +kernel⟩

theorem witness_level_two_and_intake_follow_the_host_1 : ∃ s : State, ∃ h : FrameHdr, ∃ p : Bytes,
    s.takes h 0 19 true (p.length == 16) = true ∧
    (fld p 0 8 % 65536 ≠ 0 ∨ 2 ^ 40 < fld p 0 8) :=
  ⟨up, hdr 16, natLe 8 65535 ++ natLe 8 0, by decide +kernel⟩

theorem witness_level_two_and_intake_follow_the_host_2 : ∃ s : State, ∃ h : FrameHdr, ∃ p : Bytes,
    s.takes h 0 19 true (p.length == 16) = true ∧
    fld p 0 8 % 65536 = 0 ∧
    fld p 0 8 ≤ 2 ^ 40 ∧
    fld p 0 8 ≠ 0 :=
  ⟨up, hdr 16, natLe 8 (2 ^ 40) ++ natLe 8 0, by decide +kernel⟩

theorem witness_level_two_and_intake_follow_the_host_3 : ∃ s : State, ∃ h : FrameHdr, ∃ p : Bytes,
    s.takes h 0 19 true (p.length == 16) = true ∧
    fld p 0 8 = 0 :=
  ⟨up, hdr 16, bytes 16, by decide +kernel⟩

theorem witness_level_two_and_intake_follow_the_host_4 : ∃ s : State, ∃ h : FrameHdr, ∃ p : Bytes, ∃ x : Held,
    let u := s.heard h 0
    s.takes h 0 22 true (8 ≤ p.length) = true ∧
    u.kv.held.filter (fun y => y.phase == .fetching) = [x] ∧
    u.heldOf x.slot = some x :=
  ⟨upKv fun k => { k with held := [⟨2, 1, 9, 300, 2, .fetching, [], []⟩] }, hdr 8, bytes 8, ⟨2, 1, 9, 300, 2, .fetching, [], []⟩,
    by dsimp only; decide +kernel⟩

theorem witness_level_two_and_intake_follow_the_host_5 : ∃ s : State, ∃ slot : Nat, ∃ x : Held,
    s.firmwareRuns = true ∧
    s.heldOf slot = some x ∧
    x.phase = .fetching ∧
    s.restoreWaiter slot = none :=
  ⟨upKv fun k => { k with held := [⟨2, 1, 9, 300, 2, .fetching, [], []⟩] }, 2, ⟨2, 1, 9, 300, 2, .fetching, [], []⟩, by decide +kernel⟩

theorem witness_level_two_and_intake_follow_the_host_6 : ∃ s : State, ∃ slot : Nat, ∃ x : Held, ∃ e,
    s.firmwareRuns = true ∧
    s.heldOf slot = some x ∧
    x.phase = .fetching ∧
    s.restoreWaiter slot = some e :=
  ⟨{ upKv fun k => { k with held := [⟨2, 1, 9, 300, 2, .fetching, [], []⟩] } with sv := (withStep { work with cmd := { command0 with entries := [{ entry0 with kind := 1 }] }, entries := [{ entryWork0 with restoring := true }] }).sv },
    2, ⟨2, 1, 9, 300, 2, .fetching, [], []⟩, (7, 0), by decide +kernel⟩

theorem witness_level_two_and_intake_follow_the_host_7 : ∃ s : State, ∃ port : Nat, ∃ chan : Nat, ∃ n : Nat,
    s.hcoreRuns = true ∧
    port < 2 ∧
    chan < 2 ∧
    (s.intake port chan).words ≠ [] ∧
    (s.intake port chan).signalled = false ∧
    s.tm.valid = true ∧
    (s.intake port chan).lastRead = some n :=
  ⟨upDp fun d => { d with ports := [openPort, { openPort with intake1 := ⟨[⟨32, true, true, false, bytes 256⟩], some 90, false⟩ }] }, 1, 1, 90, by decide +kernel⟩

theorem witness_level_two_and_intake_follow_the_host_7_invalid : ∃ s : State, ∃ port : Nat, ∃ chan : Nat,
    s.hcoreRuns = true ∧
    port < 2 ∧
    chan < 2 ∧
    (s.intake port chan).words ≠ [] ∧
    (s.intake port chan).signalled = false ∧
    s.tm.valid = false :=
  ⟨{ upDp fun d => { d with ports := [openPort, { openPort with intake1 := ⟨[⟨32, true, true, false, bytes 256⟩], some 90, false⟩ }] } with
      tm := { up.tm with valid := false } }, 1, 1, by decide +kernel⟩

theorem witness_update_reset_and_dump_commands_complete_3_record : ∃ s : State, ∃ c : CmdFrame, ∃ g : Staging, ∃ r : ConfigRecord, ∃ b : Bytes,
    let u := s.heard c.hdr 0
    s.commandReady c cmdUpdateCommit = true ∧
    u.bt.staging = some g ∧
    u.bt.record = some r ∧
    g.item = some b ∧
    g.kind ≠ 1 :=
  ⟨upBt fun b => { b with staging := some ⟨2, 4, [(0, [1, 2, 3, 4])]⟩ }, command [], ⟨2, 4, [(0, [1, 2, 3, 4])]⟩, ConfigRecord.reset, [1, 2,
    3, 4], by dsimp only; decide +kernel⟩

theorem witness_update_reset_and_dump_commands_complete_5_crashed : ∃ s : State, ∃ c : CmdFrame,
    let u := s.heard c.hdr 0
    s.bt.run = .halted ∧
    s.hcoreRuns = true ∧
    s.portHears c.hdr.port = true ∧
    u.frameStatus c.hdr 9 true (32 ≤ c.hdr.length) = 0 ∧
    u.commandPasses c cmdResetModule = true ∧
    (u.sv.steps = [] ∨ fld c.args 0 1 = 1) :=
  ⟨upBt fun b => { b with run := .halted, drained := some 8, halted := true }, command [0], by dsimp only; decide +kernel⟩

theorem witness_dlread_is_answered_by_the_island_1 : ∃ s : State, ∃ h : FrameHdr, ∃ p : Bytes,
    s.portHears h.port = true ∧
    s.frameStatus h 18 false (p.length == 16) = 0 ∧
    allZero (slice p 2 2) = true ∧
    fld p 0 1 = 1 ∧
    fld p 1 1 ≤ 1 ∧
    1 ≤ fld p 4 4 ∧
    fld p 4 4 ≤ 65520 ∧
    fld p 8 8 + fld p 4 4 ≤ 134217728 :=
  ⟨up, hdr 16, natLe 4 257 ++ natLe 4 65520 ++ natLe 8 (134217728 - 65520), by decide +kernel⟩

theorem witness_dlread_is_answered_by_the_island_2 : ∃ s : State, ∃ h : FrameHdr, ∃ p : Bytes,
    s.portHears h.port = true ∧
    s.frameStatus h 18 false (p.length == 16) = 0 ∧
    allZero (slice p 2 2) = true ∧
    fld p 0 1 = 2 ∧
    fld p 1 1 ≤ 1 ∧
    at' s.bt.dumps (fld p 1 1) none ≠ none :=
  ⟨upBt fun b => { b with dumps := [none, some ⟨1, 0, 1, 1, [], 50, 0, true, false, 0⟩] }, hdr 16, natLe 4 258 ++ natLe 4 0 ++ natLe 8 0,
    by decide +kernel⟩

theorem witness_dlread_is_answered_by_the_island_3 : ∃ s : State, ∃ h : FrameHdr, ∃ p : Bytes,
    s.portHears h.port = true ∧
    s.frameStatus h 18 false (p.length == 16) = 0 ∧
    allZero (slice p 2 2) = true ∧
    fld p 0 1 = 3 ∧
    s.bt.run = .running :=
  ⟨up, hdr 16, natLe 4 3 ++ natLe 4 0 ++ natLe 8 0, by decide +kernel⟩

theorem witness_dlread_is_answered_by_the_island_4 : ∃ s : State, ∃ h : FrameHdr, ∃ p : Bytes,
    s.portHears h.port = true ∧
    s.frameStatus h 18 false (p.length == 16) = 0 ∧
    allZero (slice p 2 2) = true ∧
    fld p 0 1 = 3 ∧
    s.bt.run ≠ .running :=
  ⟨upBt fun b => { b with run := .halted }, hdr 16, natLe 4 3 ++ natLe 4 0 ++ natLe 8 0, by decide +kernel⟩

theorem witness_window_and_queue_commands_complete_1 : ∃ s : State, ∃ c : CmdFrame,
    s.commandReady c cmdCreateWindow = true :=
  ⟨up, command (natLe 2 2 ++ natLe 2 255 ++ natLe 4 0 ++ natLe 8 0x010000000000 ++ natLe 8 65536), by decide +kernel⟩

theorem witness_window_and_queue_commands_complete_2 : ∃ s : State, ∃ c : CmdFrame,
    s.commandReady c cmdDeleteWindow = true :=
  ⟨windowed, command (natLe 2 255), by decide +kernel⟩

theorem witness_window_and_queue_commands_complete_3 : ∃ s : State, ∃ c : CmdFrame,
    s.commandReady c cmdCreateQueue = true :=
  ⟨{ windowed with sv := { windowed.sv with contexts := [context1] } },
    command (natLe 2 4095 ++ natLe 1 1 ++ natLe 1 7 ++ natLe 1 1 ++ natLe 1 4 ++ natLe 1 4 ++ natLe 1 0 ++ natLe 8 0x010000010000 ++ natLe 8 0x010000010400),
    by decide +kernel⟩

theorem witness_window_and_queue_commands_complete_4 : ∃ s : State, ∃ c : CmdFrame,
    s.commandReady c cmdDeleteQueue = true :=
  ⟨withQueue queue3, command (natLe 2 3), by decide +kernel⟩

theorem witness_window_and_queue_commands_complete_5 : ∃ s : State, ∃ c : CmdFrame,
    s.commandReady c cmdSetEventRing = true :=
  ⟨windowed, command (natLe 8 0x010000020000), by decide +kernel⟩

theorem witness_context_and_serving_commands_complete_1 : ∃ s : State, ∃ c : CmdFrame,
    s.commandReady c cmdCreateContext = true :=
  ⟨withModel,
    command (natLe 1 1 ++ natLe 1 0 ++ natLe 2 256 ++ natLe 4 1 ++ natLe 4 1 ++ natLe 4 0 ++ natLe 4 65536 ++ natLe 4 0 ++ natLe 2 0x3F80 ++ natLe 2 0 ++ natLe 4 0 ++ natLe 8 0),
    by decide +kernel⟩

theorem witness_context_and_serving_commands_complete_2 : ∃ s : State, ∃ c : CmdFrame,
    s.commandReady c cmdChangeContext = true :=
  ⟨{ withModel with sv := { up.sv with contexts := [context1] } },
    command (natLe 1 1 ++ natLe 1 0 ++ natLe 2 256 ++ natLe 4 1 ++ natLe 4 1 ++ natLe 4 0 ++ natLe 4 65536 ++ natLe 4 0 ++ natLe 2 0x3F80 ++ natLe 2 0 ++ natLe 4 0 ++ natLe 8 0),
    by decide +kernel⟩

theorem witness_context_and_serving_commands_complete_3 : ∃ s : State, ∃ c : CmdFrame,
    s.commandReady c cmdDiscardContext = true :=
  ⟨{ withModel with sv := { up.sv with contexts := [context1] } }, command [1], by decide +kernel⟩

theorem witness_context_and_serving_commands_complete_4 : ∃ s : State, ∃ c : CmdFrame,
    s.commandReady c cmdSetRegions = true :=
  ⟨up, command (natLe 4 20 ++ natLe 4 16384), by decide +kernel⟩

theorem witness_context_and_serving_commands_complete_5 : ∃ s : State, ∃ c : CmdFrame,
    s.commandReady c cmdSetServing = true :=
  ⟨up, command (natLe 1 255 ++ natLe 3 0 ++ natLe 4 86400), by decide +kernel⟩

theorem witness_model_and_adapter_commands_complete_1 : ∃ s : State, ∃ c : CmdFrame,
    s.commandReady c cmdLoadModel = true :=
  ⟨windowed, command (natLe 4 1 ++ natLe 4 16 ++ natLe 8 0x010000000000), by decide +kernel⟩

theorem witness_model_and_adapter_commands_complete_2 : ∃ s : State, ∃ c : CmdFrame,
    s.commandReady c cmdUnloadModel = true :=
  ⟨withModel, command (natLe 4 1), by decide +kernel⟩

theorem witness_model_and_adapter_commands_complete_3 : ∃ s : State, ∃ c : CmdFrame,
    s.commandReady c cmdLoadAdapter = true :=
  ⟨adapterState adapterMem [], loadAdapter5, by decide +kernel⟩

theorem witness_model_and_adapter_commands_complete_4 : ∃ s : State, ∃ c : CmdFrame,
    s.commandReady c cmdUnloadAdapter = true :=
  ⟨upSv fun x => { x with adapters := [adapter5] }, command (natLe 2 8191), by decide +kernel⟩

theorem witness_fabric_and_time_commands_complete_1 : ∃ s : State, ∃ c : CmdFrame,
    s.commandReady c cmdSetFabric = true :=
  ⟨up, command (natLe 2 1023 ++ natLe 1 10 ++ natLe 1 31 ++ natLe 4 5 ++ natLe 2 1023), by decide +kernel⟩

theorem witness_fabric_and_time_commands_complete_2 : ∃ s : State, ∃ c : CmdFrame,
    s.commandReady c cmdSetJobTable = true :=
  ⟨up,
    command (natLe 4 6 ++ natLe 2 1 ++ natLe 2 0 ++ natLe 2 0 ++ natLe 2 1 ++ natLe 2 0xFFFF ++ natLe 2 0 ++ natLe 2 0 ++ natLe 2 7 ++ natLe 2 1 ++ natLe 2 0),
    by decide +kernel⟩

theorem witness_fabric_and_time_commands_complete_3 : ∃ s : State, ∃ c : CmdFrame,
    s.commandReady c cmdReleaseJob = true :=
  ⟨upFb fun f => { f with aborted := [6] }, command (natLe 4 6), by decide +kernel⟩

theorem witness_fabric_and_time_commands_complete_4 : ∃ s : State, ∃ c : CmdFrame,
    let k := fld c.args 0 1
    s.commandReady c cmdResetPort = true ∧
    k < 16 :=
  ⟨up, command [11], by dsimp only; decide +kernel⟩

theorem witness_fabric_and_time_commands_complete_5 : ∃ s : State, ∃ c : CmdFrame,
    let k := fld c.args 0 1
    s.commandReady c cmdResetPort = true ∧
    16 ≤ k :=
  ⟨up, command [17], by dsimp only; decide +kernel⟩

theorem witness_fabric_and_time_commands_complete_6 : ∃ s : State, ∃ c : CmdFrame,
    s.commandReady c cmdLoadTime = true :=
  ⟨{ upTm fun t => { t with valid := false } with dp := { up.dp with lease := some { lease with onCounter := false } } },
    command (natLe 8 (2 ^ 64 - 1)), by decide +kernel⟩

theorem witness_fabric_and_time_commands_complete_7 : ∃ s : State, ∃ c : CmdFrame,
    s.commandReady c cmdRequestCalibration = true :=
  ⟨up, command (natLe 1 3 ++ natLe 1 16 ++ natLe 2 16383), by decide +kernel⟩

theorem witness_update_reset_and_dump_commands_complete_1 : ∃ s : State, ∃ c : CmdFrame,
    s.commandReady c cmdUpdateBegin = true :=
  ⟨up, command (natLe 4 1 ++ natLe 4 67108864), by decide +kernel⟩

theorem witness_update_reset_and_dump_commands_complete_2 : ∃ s : State, ∃ c : CmdFrame,
    s.commandReady c cmdUpdateData = true :=
  ⟨upBt fun b => { b with staging := some ⟨1, 4, []⟩ }, command (natLe 4 2 ++ natLe 4 0 ++ [7, 8]), by decide +kernel⟩

theorem witness_update_reset_and_dump_commands_complete_3 : ∃ s : State, ∃ c : CmdFrame,
    s.commandReady c cmdUpdateCommit = true :=
  ⟨upBt fun b => { b with staging := some ⟨1, 4, []⟩ }, command [], by decide +kernel⟩

theorem witness_update_reset_and_dump_commands_complete_4 : ∃ s : State, ∃ c : CmdFrame,
    let u := s.heard c.hdr 0
    s.commandReady c cmdResetModule = true ∧
    u.sv.steps ≠ [] ∧
    fld c.args 0 1 = 0 :=
  ⟨withStep work, command [0], by dsimp only; decide +kernel⟩

theorem witness_update_reset_and_dump_commands_complete_5 : ∃ s : State, ∃ c : CmdFrame,
    let u := s.heard c.hdr 0
    s.commandReady c cmdResetModule = true ∧
    (u.sv.steps = [] ∨ fld c.args 0 1 = 1) :=
  ⟨withStep work, command [1], by dsimp only; decide +kernel⟩

theorem witness_update_reset_and_dump_commands_complete_6 : ∃ s : State, ∃ c : CmdFrame,
    s.pw.entry = none ∧
    s.commandReady c cmdSetPowerState = true :=
  ⟨up, command [4], by decide +kernel⟩

theorem witness_update_reset_and_dump_commands_complete_7 : ∃ s : State, ∃ c : CmdFrame, ∃ e : PowerEntry,
    let bare : State := { s with pw := { s.pw with entry := none } }
    s.pw.entry = some e ∧
    bare.commandReady c cmdPowerPending = true :=
  ⟨upPw fun p => { p with entry := some ⟨.p4, 90, false⟩ }, command [0], ⟨.p4, 90, false⟩, by dsimp only; decide +kernel⟩

theorem witness_update_reset_and_dump_commands_complete_8 : ∃ s : State, ∃ c : CmdFrame,
    s.commandReady c cmdDump = true :=
  ⟨up, command [], by decide +kernel⟩

theorem witness_update_reset_and_dump_commands_complete_9 : ∃ s : State, ∃ c : CmdFrame, ∃ op : Nat,
    op ∉ listedOpcodes ∧
    c.reserved1 = 0 ∧
    c.reserved16 = [] ∧
    c.argLength = c.hdr.length - 32 ∧
    s.commandReady c { cmdReserved op with drainOk := true, want := fun a => a.length } = true :=
  ⟨up, { command [] with reserved16 := [] }, 0x91, by decide +kernel⟩

theorem witness_output_commands_write_their_record_1 : ∃ s : State, ∃ c : CmdFrame,
    s.commandReady c cmdReadPorts = true :=
  ⟨windowed, { command ([]) with resultAddr := 0x010000030000 }, by decide +kernel⟩

theorem witness_output_commands_write_their_record_2 : ∃ s : State, ∃ c : CmdFrame,
    s.commandReady c cmdReadStorm = true :=
  ⟨windowed, { command ([]) with resultAddr := 0x010000030000 }, by decide +kernel⟩

theorem witness_output_commands_write_their_record_3 : ∃ s : State, ∃ c : CmdFrame,
    s.commandReady c cmdAttest = true :=
  ⟨windowed, { command (bytes 64) with resultAddr := 0x010000030000 }, by decide +kernel⟩

theorem witness_output_commands_write_their_record_4 : ∃ s : State, ∃ c : CmdFrame, ∃ r : ConfigRecord,
    let u := s.heard c.hdr 0
    s.commandReady c cmdReadIdentity = true ∧
    u.bt.record = some r :=
  ⟨windowed, { command ([]) with resultAddr := 0x010000030000 }, ConfigRecord.reset, by dsimp only; decide +kernel⟩

theorem witness_time_exchanges_correct_the_counter_1 : ∃ s : State,
    s.hcoreRuns = true :=
  ⟨up, by decide +kernel⟩

theorem witness_time_exchanges_correct_the_counter_2 : ∃ s : State, ∃ port : Nat, ∃ m : TimeMsg,
    s.hearsTime port = true ∧
    m.kind = 0 ∧
    s.timeParent = some port ∧
    m.valid = false :=
  ⟨upFb fun f => { f with coord := 1, coordValid := true, dim := 1, timeRoot := 0, routes := [(0, 0, 15)], ports := f.ports.set 0 { CourierPort.reset with state := .up, partner := 0, features := 0x1FF } },
    0, ⟨0, 0, false, true, 3, 1600, 480⟩, by decide +kernel⟩

theorem witness_time_exchanges_correct_the_counter_3 : ∃ s : State, ∃ port : Nat, ∃ m : TimeMsg,
    s.hearsTime port = true ∧
    m.kind = 0 ∧
    s.timeParent = some port ∧
    m.valid = true :=
  ⟨upFb fun f => { f with coord := 1, coordValid := true, dim := 1, timeRoot := 0, routes := [(0, 0, 15)], ports := f.ports.set 0 { CourierPort.reset with state := .up, partner := 0, features := 0x1FF } },
    0, ⟨0, 0, true, true, 3, 1600, 480⟩, by decide +kernel⟩

theorem witness_time_exchanges_correct_the_counter_4 : ∃ s : State, ∃ port : Nat, ∃ m : TimeMsg,
    s.hearsTime port = true ∧
    m.kind = 1 :=
  ⟨upFb fun f => { f with coord := 1, coordValid := true, dim := 1, timeRoot := 0, routes := [(0, 0, 15)], ports := f.ports.set 0 { CourierPort.reset with state := .up, partner := 0, features := 0x1FF } },
    0, ⟨1, 0, true, true, 3, 1600, 480⟩, by decide +kernel⟩

theorem witness_time_exchanges_correct_the_counter_5 : ∃ s : State, ∃ port : Nat, ∃ m : TimeMsg, ∃ e : Exchange,
    let o2 : Int := (e.t2 - e.t1) - ((m.stampA : Int) - m.stampB)
    s.hearsTime port = true ∧
    m.kind = 2 ∧
    s.timeParent = some port ∧
    s.tm.exchange = some e ∧
    e.seq = m.seq ∧
    (s.port port).link.departed = some m.stampB ∧
    m.valid = true ∧
    s.tm.valid = true ∧
    -8000 ≤ o2 ∧
    s.parentElsewhere port = false :=
  ⟨{ upFb fun f => { f with coord := 1, coordValid := true, dim := 1, timeRoot := 0, routes := [(0, 0, 15)], ports := f.ports.set 0 { CourierPort.reset with state := .up, partner := 0, features := 0x1FF, link := { Link.reset with departed := some 480 } } } with tm := { up.tm with exchange := some ⟨3, 7880, 1000⟩ } },
    0, ⟨2, 0, true, true, 3, 1600, 480⟩, ⟨3, 7880, 1000⟩, by dsimp only; decide +kernel⟩

theorem witness_time_exchanges_correct_the_counter_6 : ∃ s : State, ∃ port : Nat, ∃ m : TimeMsg, ∃ e : Exchange,
    let o2 : Int := (e.t2 - e.t1) - ((m.stampA : Int) - m.stampB)
    s.hearsTime port = true ∧
    m.kind = 2 ∧
    s.timeParent = some port ∧
    s.tm.exchange = some e ∧
    e.seq = m.seq ∧
    (s.port port).link.departed = some m.stampB ∧
    m.valid = true ∧
    s.tm.valid = true ∧
    o2 < -8000 :=
  ⟨{ upFb fun f => { f with coord := 1, coordValid := true, dim := 1, timeRoot := 0, routes := [(0, 0, 15)], ports := f.ports.set 0 { CourierPort.reset with state := .up, partner := 0, features := 0x1FF, link := { Link.reset with departed := some 480 } } } with tm := { up.tm with exchange := some ⟨3, 7881, 1000⟩ } },
    0, ⟨2, 0, true, true, 3, 1600, 480⟩, ⟨3, 7881, 1000⟩, by dsimp only; decide +kernel⟩

theorem witness_time_exchanges_correct_the_counter_7 : ∃ s : State, ∃ port : Nat, ∃ m : TimeMsg, ∃ e : Exchange, ∃ d,
    let d2 : Int := (e.t2 - e.t1) + ((m.stampA : Int) - m.stampB)
    s.hearsTime port = true ∧
    m.kind = 2 ∧
    s.timeParent = some port ∧
    s.tm.exchange = some e ∧
    e.seq = m.seq ∧
    (s.port port).link.departed = some m.stampB ∧
    m.valid = true ∧
    s.tm.valid = false ∧
    s.tm.prevDelay = some d ∧
    (d2 - d).natAbs ≤ 32 :=
  ⟨{ upFb fun f => { f with coord := 1, coordValid := true, dim := 1, timeRoot := 0, routes := [(0, 0, 15)], ports := f.ports.set 0 { CourierPort.reset with state := .up, partner := 0, features := 0x1FF, link := { Link.reset with departed := some 480 } } } with tm := { up.tm with valid := false, prevDelay := some 1088, exchange := some ⟨3, 1000, 1000⟩ } },
    0, ⟨2, 0, true, true, 3, 1600, 480⟩, ⟨3, 1000, 1000⟩, 1088, by dsimp only; decide +kernel⟩

theorem witness_time_exchanges_correct_the_counter_8 : ∃ s : State, ∃ x : Nat,
    s.tm.lastExchange = some x ∧
    s.tm.aligned = true ∧
    s.tm.valid = true ∧
    s.isRoot = false :=
  ⟨{ upFb fun f => { f with coord := 1, coordValid := true, dim := 1, timeRoot := 0, routes := [(0, 0, 15)], ports := f.ports.set 0 { CourierPort.reset with state := .up, partner := 0, features := 0x1FF } } with tm := { up.tm with aligned := true, lastExchange := some 40 } },
    40, by decide +kernel⟩

theorem witness_time_exchanges_correct_the_counter_9 : ∃ s : State, ∃ x : Nat,
    s.tm.lastExchange = some x ∧
    s.tm.aligned = true ∧
    s.tm.valid = false ∧
    s.isRoot = false :=
  ⟨{ upFb fun f => { f with coord := 1, coordValid := true, dim := 1, timeRoot := 0, routes := [(0, 0, 15)] } with
      tm := { up.tm with aligned := true, valid := false, lastExchange := some 40 } }, 40, by decide +kernel⟩

theorem witness_step_boundaries_come_every2500_ticks_1 : ∃ s : State,
    s.pw.supplied = true ∧
    s.pw.stop = none ∧
    s.pw.state ≠ .p4 :=
  ⟨up, by decide +kernel⟩

theorem witness_courier_frames_find_their_step_or_abort_1 : ∃ s : State, ∃ h : CourierHdr, ∃ p : Bytes,
    let a := parseActivation h.job s.tm.tick p
    s.carried h 3 = true ∧
    activationOk p = true ∧
    s.jobStep h.job a.step = none ∧
    sumList (s.fb.held.map Activation.size) + a.size ≤ 16777216 :=
  ⟨upFb fun f => { f with coord := 5, coordValid := true, dim := 3, ports := f.ports.set 0 { CourierPort.reset with state := .up, features := 0x1FF } },
    { inPort := some 0, version := 1, type := 3, dest := 5, src := 3, hops := 1, ordered := false, detoured := false, job := 6, length := 0, stamp := 0, crcOk := true },
    activation 4 0, by dsimp only; decide +kernel⟩

theorem witness_courier_frames_find_their_step_or_abort_2 : ∃ s : State, ∃ h : CourierHdr, ∃ p : Bytes,
    let a := parseActivation h.job s.tm.tick p
    s.carried h 3 = true ∧
    activationOk p = true ∧
    s.jobStep h.job a.step = none ∧
    16777216 < sumList (s.fb.held.map Activation.size) + a.size :=
  ⟨upFb fun f => { f with coord := 5, coordValid := true, dim := 3, ports := f.ports.set 0 { CourierPort.reset with state := .up, features := 0x1FF }, held := [heldOfSize 4194304] },
    { inPort := some 0, version := 1, type := 3, dest := 5, src := 3, hops := 1, ordered := false, detoured := false, job := 6, length := 0, stamp := 0, crcOk := true },
    activation 4 0, by dsimp only; exact ⟨by decide +kernel, by decide +kernel, by decide +kernel,
    large_held _ 4194304 _ rfl (Nat.le_refl _)⟩⟩

theorem witness_courier_frames_find_their_step_or_abort_3 : ∃ s : State, ∃ h : CourierHdr, ∃ p : Bytes, ∃ o,
    let a := parseActivation h.job s.tm.tick p
    s.carried h 3 = true ∧
    activationOk p = true ∧
    s.jobStep h.job a.step = some o ∧
    a.epoch < o.epoch :=
  ⟨{ withStep { work with epoch := 1 } with fb := (upFb fun f => { f with coord := 5, coordValid := true, dim := 3, ports := f.ports.set 0 { CourierPort.reset with state := .up, features := 0x1FF } }).fb },
    { inPort := some 0, version := 1, type := 3, dest := 5, src := 3, hops := 1, ordered := false, detoured := false, job := 6, length := 0, stamp := 0, crcOk := true },
    activation 4 0, { work with epoch := 1 }, by dsimp only; decide +kernel⟩

theorem witness_courier_frames_find_their_step_or_abort_4 : ∃ s : State, ∃ h : CourierHdr, ∃ p : Bytes, ∃ o,
    let a := parseActivation h.job s.tm.tick p
    s.carried h 3 = true ∧
    activationOk p = true ∧
    s.jobStep h.job a.step = some o ∧
    o.epoch ≤ a.epoch ∧
    ((∀ x ∈ s.fb.activations, x.sameStep a = true → x.epoch = a.epoch)) :=
  ⟨{ withStep { work with epoch := 1 } with fb := (upFb fun f => { f with coord := 5, coordValid := true, dim := 3, ports := f.ports.set 0 { CourierPort.reset with state := .up, features := 0x1FF } }).fb },
    { inPort := some 0, version := 1, type := 3, dest := 5, src := 3, hops := 1, ordered := false, detoured := false, job := 6, length := 0, stamp := 0, crcOk := true },
    activation 4 1, { work with epoch := 1 }, by dsimp only; decide +kernel⟩

theorem witness_courier_frames_find_their_step_or_abort_5 : ∃ s : State, ∃ job : Nat, ∃ step : Nat, ∃ token : Nat, ∃ a : Activation,
    s.fb.held.find? (fun a => a.job == job && a.step == step && a.token == token) = some a :=
  ⟨upFb fun f => { f with coord := 5, coordValid := true, dim := 3, ports := f.ports.set 0 { CourierPort.reset with state := .up, features := 0x1FF }, held := [⟨6, 4, 0, 2, 0, true, [1], 90⟩] },
    6, 4, 2, ⟨6, 4, 0, 2, 0, true, [1], 90⟩, by decide +kernel⟩

theorem witness_courier_frames_find_their_step_or_abort_6 : ∃ s : State, ∃ h : CourierHdr, ∃ p : Bytes,
    s.carried h 5 = true ∧
    p.length = 16 ∧
    fld p 0 1 ≤ 1 ∧
    fld p 4 4 ≠ 0 ∧
    s.fb.aborted.contains (fld p 4 4) = false :=
  ⟨upFb fun f => { f with coord := 5, coordValid := true, dim := 3, ports := f.ports.set 0 { CourierPort.reset with state := .up, features := 0x1FF } },
    { inPort := some 0, version := 1, type := 5, dest := 5, src := 3, hops := 1, ordered := false, detoured := false, job := 6, length := 0, stamp := 0, crcOk := true },
    natLe 4 1 ++ natLe 4 6 ++ natLe 8 0, by decide +kernel⟩

theorem witness_courier_frames_find_their_step_or_abort_7 : ∃ s : State, ∃ h : CourierHdr, ∃ p : Bytes,
    s.carried h 5 = true ∧
    p.length = 16 ∧
    fld p 0 1 ≤ 1 ∧
    s.fb.aborted.contains (fld p 4 4) = true :=
  ⟨upFb fun f => { f with coord := 5, coordValid := true, dim := 3, ports := f.ports.set 0 { CourierPort.reset with state := .up, features := 0x1FF }, aborted := [6] },
    { inPort := some 0, version := 1, type := 5, dest := 5, src := 3, hops := 1, ordered := false, detoured := false, job := 7, length := 0, stamp := 0, crcOk := true },
    natLe 4 1 ++ natLe 4 6 ++ natLe 8 0, by decide +kernel⟩

theorem witness_courier_frames_find_their_step_or_abort_8 : ∃ s : State, ∃ job : Nat, ∃ n : Nat,
    job ≠ 0 ∧
    s.fb.aborted.contains job = false ∧
    ((s.liveSteps.filter fun o => o.cmd.job == job && job != 0 && !o.aborted).filterMap s.waitsSince).min? = some n :=
  ⟨withStep { work with tokens := [{ token0 with stage := waitStage, since := 95 }], cmd := { command0 with firstLayer := 1 } }, 6, 95,
    by decide +kernel⟩

theorem witness_courier_frames_find_their_step_or_abort_8_next : ∃ s : State, ∃ q : Queue, ∃ w : Waiting,
    s.nextQueue = some (q, w) :=
  ⟨rounding 0 context1, _, _, rfl⟩

theorem witness_courier_frames_find_their_step_or_abort_8_none : ∃ s : State, ∃ core : Nat,
    s.inRun = true ∧
    s.firmwareRuns = true ∧
    core < 4 ∧
    (∀ q ∈ s.retryStalled.sv.queues, ∀ w, q.waiting.head? = some w →
      (parseStep w.tuiven1 w.payload).job ≠ 0 ∧ s.retryStalled.fb.aborted.contains (parseStep w.tuiven1 w.payload).job = true) := by
  refine ⟨{ withQueue { queue3 with waiting := [{ waiter 5 with payload := stepBytes 0 6 }] } with fb := { up.fb with aborted := [6] } }, 3,
    by decide +kernel, by decide +kernel, by decide +kernel, ?_⟩
  intro q hq w hw
  have e : q = { queue3 with waiting := [{ waiter 5 with payload := stepBytes 0 6 }] } := List.mem_singleton.mp hq
  subst e
  cases hw
  decide +kernel

theorem witness_arrays_are_scanned_rewritten_and_redigested_2_unknown : ∃ s : State, ∃ a : ArrId,
    s.inRun = true ∧
    (s.tile a.tid).scans.contains (a.arr, 0) = true ∧
    s.scanCodes a = none ∧
    a.arr ≠ 16 ∧
    (s.dir a).astate = .inService :=
  ⟨{ withTile fun x => { x with scans := [(2, 0)] } with
      wt := { up.wt with directory := [(⟨0, 3, 2⟩, { freshDir with astate := .inService })], cells := [(⟨0, 3, 2⟩, none)] } },
    ⟨0, 3, 2⟩, by decide +kernel, by decide +kernel, rfl, by decide +kernel, by decide +kernel⟩

theorem witness_arrays_are_scanned_rewritten_and_redigested_2_other_unbound : ∃ s : State, ∃ a : ArrId, ∃ raw : List (List (List Int)), ∃ r : CodeRecord,
    let levels := scanLevels (s.scanSet (s.tile a.tid) a.arr) raw
    let back := readBackRecord r levels (deviations r levels) (driftDeltas (relative (deviations r levels)))
    s.inRun = true ∧
    (s.tile a.tid).scans.contains (a.arr, 0) = true ∧
    s.scanCodes a = some r ∧
    back.codeDigest ≠ (s.dir a).codeDigest ∧
    a.arr ≠ 16 ∧
    (s.dir a).astate = .unbound ∧
    s.record a ≠ none :=
  ⟨scanned (scanEntry .unbound otherScanDigest), ⟨0, 3, 2⟩, [], plainRecord, by decide +kernel, by decide +kernel, rfl,
    by rw [first_entry (e := scanEntry .unbound otherScanDigest) rfl, scanEntry_digest]; change scanDigest ≠ otherScanDigest
       unfold otherScanDigest; split <;> omega,
    by decide +kernel, by rw [first_entry (e := scanEntry .unbound otherScanDigest) rfl, scanEntry_state], nofun⟩

theorem witness_courier_frames_find_their_step_or_abort_9 : ∃ s : State, ∃ h : CourierHdr,
    s.arrives h = true ∧
    s.isDest h = false ∧
    15 ≤ h.hops :=
  ⟨upFb fun f => { f with coord := 5, coordValid := true, dim := 3, ports := f.ports.set 0 { CourierPort.reset with state := .up, features := 0x1FF } },
    { inPort := some 0, version := 1, type := 3, dest := 4, src := 3, hops := 15, ordered := false, detoured := false, job := 6, length := 0, stamp := 0, crcOk := true },
    by decide +kernel⟩

theorem witness_courier_frames_find_their_step_or_abort_10 : ∃ s : State, ∃ h : CourierHdr, ∃ k, ∃ d,
    s.arrives h = true ∧
    s.isDest h = false ∧
    h.hops < 15 ∧
    s.routePort h = some (k, d) :=
  ⟨upFb fun f => { f with coord := 5, coordValid := true, dim := 3, ports := f.ports.set 0 { CourierPort.reset with state := .up, features := 0x1FF }, routes := [(4, 0, 15)] },
    { inPort := some 0, version := 1, type := 3, dest := 4, src := 3, hops := 14, ordered := false, detoured := false, job := 6, length := 0, stamp := 0, crcOk := true },
    0, false, by decide +kernel⟩

theorem witness_courier_frames_find_their_step_or_abort_11 : ∃ s : State, ∃ h : CourierHdr,
    s.arrives h = true ∧
    s.isDest h = false ∧
    h.hops < 15 ∧
    s.routePort h = none ∧
    h.job ≠ 0 ∧
    s.fb.aborted.contains h.job = false :=
  ⟨upFb fun f => { f with coord := 5, coordValid := true, dim := 3, ports := f.ports.set 0 { CourierPort.reset with state := .up, features := 0x1FF } },
    { inPort := some 0, version := 1, type := 3, dest := 4, src := 3, hops := 14, ordered := false, detoured := false, job := 6, length := 0, stamp := 0, crcOk := true },
    by decide +kernel⟩

theorem witness_courier_frames_find_their_step_or_abort_12 : ∃ s : State, ∃ h : CourierHdr,
    s.carried h h.type = true ∧
    s.arrives h = true ∧
    s.isDest h = true :=
  ⟨upFb fun f => { f with coord := 5, coordValid := true, dim := 3, ports := f.ports.set 0 { CourierPort.reset with state := .up, features := 0x1FF } },
    { inPort := some 0, version := 1, type := 1, dest := 5, src := 3, hops := 1, ordered := false, detoured := false, job := 6, length := 0, stamp := 0, crcOk := true },
    by decide +kernel⟩

theorem witness_courier_frames_find_their_step_or_abort_13 : ∃ s u : State,
    u.pw.state = .p1 ∧
    u.sv.nextInput ≠ s.sv.nextInput ∧
    u.pw.supplied = true ∧
    u.pw.stop = none ∧
    u.isDrained = false ∧
    u.pw.hold = .none :=
  ⟨up, { upPw fun p => { p with state := .p1 } with sv := { up.sv with nextInput := 1 } }, by decide +kernel⟩

theorem witness_courier_frames_find_their_step_or_abort_13_nothing : ∃ s u : State,
    (u.pw.state ≠ .p1 ∨ u.sv.nextInput = s.sv.nextInput) :=
  ⟨up, upPw fun p => { p with state := .p1 }, by decide +kernel⟩

theorem witness_parcels_are_assembled_and_accepted_1 : ∃ s : State, ∃ h : FrameHdr, ∃ p : Bytes,
    s.takes h 0 15 true (16 ≤ p.length) = true :=
  ⟨up, { port := 0, version := 2, ackReq := false, context := 0, queue := 0, length := 16, seq := 5, tag := 9, crcOk := true }, bytes 16,
    by decide +kernel⟩

theorem witness_parcels_are_assembled_and_accepted_2 : ∃ s : State, ∃ h : CourierHdr, ∃ p : Bytes,
    s.carried h 2 = true ∧
    16 ≤ p.length :=
  ⟨upFb fun f => { f with coord := 5, coordValid := true, dim := 3, ports := f.ports.set 0 { CourierPort.reset with state := .up, features := 0x1FF } },
    { inPort := some 0, version := 1, type := 2, dest := 5, src := 3, hops := 1, ordered := false, detoured := false, job := 6, length := 0, stamp := 0, crcOk := true },
    bytes 16, by decide +kernel⟩

theorem witness_parcels_are_assembled_and_accepted_3 : ∃ s : State, ∃ model : Nat, ∃ index : Nat, ∃ a : Assembly, ∃ h : ParcelHdr,
    s.hcoreRuns = true ∧
    s.wt.assembling.find? (fun a => a.is model index) = some a ∧
    a.header = some h ∧
    a.whole = true ∧
    s.addressed h = true :=
  ⟨upWt fun x => { x with assembling := [⟨1, 3, [(0, bytes 128)], [], 90, true⟩] }, 1, 3, ⟨1, 3, [(0, bytes 128)], [], 90, true⟩, ParcelHdr.parse (bytes 128), by decide +kernel, by decide +kernel, rfl, by decide +kernel⟩

theorem witness_parcels_are_assembled_and_accepted_4 : ∃ s : State, ∃ model : Nat, ∃ index : Nat, ∃ a : Assembly,
    s.hcoreRuns = true ∧
    s.wt.assembling.find? (fun a => a.is model index) = some a ∧
    a.whole = false :=
  ⟨upWt fun x => { x with assembling := [⟨1, 3, [(0, bytes 127)], [], 90, true⟩] }, 1, 3, ⟨1, 3, [(0, bytes 127)], [], 90, true⟩, by decide +kernel⟩

theorem witness_parcels_are_assembled_and_accepted_5 : ∃ s : State, ∃ a : ArrId, ∃ m : Master,
    s.inRun = true ∧
    s.masterOf a = some m ∧
    s.record a = none ∧
    a.arr ≠ 16 ∧
    a ∈ m.hdr.arrayList ∧
    (s.dir a).astate = .loading :=
  ⟨upWt fun x => { x with masters := [master], directory := [(⟨0, 0, 0⟩, { freshDir with astate := .loading, model := 1, parcel := 3, recordDigest := 0 })] },
    ⟨0, 0, 0⟩, master, by decide +kernel, rfl, by decide +kernel⟩

theorem witness_parcels_are_assembled_and_accepted_6 : ∃ s : State, ∃ a : ArrId, ∃ m : Master,
    s.inRun = true ∧
    s.masterOf a = some m ∧
    s.record a = none ∧
    a.arr ≠ 16 ∧
    a ∈ m.hdr.arrayList ∧
    (s.dir a).astate = .inService ∧
    (parcelRecord m (m.position a)).digest = (s.dir a).recordDigest :=
  ⟨upWt fun x => { x with masters := [master], directory := [(⟨0, 0, 0⟩, sameEntry)] }, ⟨0, 0, 0⟩, master, by decide +kernel, rfl,
    by decide +kernel, by decide +kernel, by decide +kernel, rfl, digests_agree (sameEntry) (first_entry rfl) (by decide +kernel) sameEntry_digest⟩

theorem witness_parcels_are_assembled_and_accepted_7 : ∃ s : State, ∃ a : ArrId, ∃ m : Master,
    s.inRun = true ∧
    s.masterOf a = some m ∧
    s.record a = none ∧
    a.arr ≠ 16 ∧
    a ∈ m.hdr.arrayList ∧
    (s.dir a).astate = .inService ∧
    (parcelRecord m (m.position a)).digest ≠ (s.dir a).recordDigest :=
  ⟨upWt fun x => { x with masters := [master], directory := [(⟨0, 0, 0⟩, otherEntry)] }, ⟨0, 0, 0⟩, master, by decide +kernel, rfl,
    by decide +kernel, by decide +kernel, by decide +kernel, rfl, digests_differ (otherEntry) (first_entry rfl) (by decide +kernel) otherEntry_digest⟩

theorem witness_parcels_are_assembled_and_accepted_8 : ∃ s : State, ∃ a : ArrId, ∃ m : Master,
    s.inRun = true ∧
    s.masterOf a = some m ∧
    s.record a = none ∧
    a.arr ≠ 16 ∧
    a ∈ m.hdr.arrayList ∧
    (s.dir a).astate = .unbound ∧
    s.bt.arraysReady = true ∧
    (parcelRecord m (m.position a)).digest = (s.dir a).recordDigest :=
  ⟨{ upWt fun x => { x with masters := [master], directory := [(⟨0, 0, 0⟩, sameUnbound)] } with bt := { up.bt with arraysReady := true } },
    ⟨0, 0, 0⟩, master, by decide +kernel, rfl,
    by decide +kernel, by decide +kernel, by decide +kernel, rfl, rfl, digests_agree (sameUnbound) (first_entry rfl) (by decide +kernel) sameUnbound_digest⟩

theorem witness_parcels_are_assembled_and_accepted_9 : ∃ s : State, ∃ a : ArrId, ∃ m : Master,
    s.inRun = true ∧
    s.masterOf a = some m ∧
    s.record a = none ∧
    a.arr ≠ 16 ∧
    a ∈ m.hdr.arrayList ∧
    (s.dir a).astate = .unbound ∧
    s.bt.arraysReady = true ∧
    (parcelRecord m (m.position a)).digest ≠ (s.dir a).recordDigest :=
  ⟨{ upWt fun x => { x with masters := [master], directory := [(⟨0, 0, 0⟩, otherUnbound)] } with bt := { up.bt with arraysReady := true } },
    ⟨0, 0, 0⟩, master, by decide +kernel, rfl,
    by decide +kernel, by decide +kernel, by decide +kernel, rfl, rfl, digests_differ (otherUnbound) (first_entry rfl) (by decide +kernel) otherUnbound_digest⟩

theorem witness_parcels_are_assembled_and_accepted_8_early : ∃ s : State, ∃ a : ArrId, ∃ m : Master,
    s.inRun = true ∧
    s.masterOf a = some m ∧
    s.record a = none ∧
    a.arr ≠ 16 ∧
    a ∈ m.hdr.arrayList ∧
    (s.dir a).astate = .unbound ∧
    s.bt.arraysReady = false :=
  ⟨upWt fun x => { x with masters := [master], directory := [(⟨0, 0, 0⟩, { freshDir with astate := .unbound, model := 1, parcel := 3 })] },
    ⟨0, 0, 0⟩, master, by decide +kernel, rfl, by decide +kernel, by decide +kernel, by decide +kernel, rfl, rfl⟩

theorem witness_programs_run_row_by_row_and_settle_1 : ∃ s : State, ∃ id : TileId, ∃ p : Program,
    s.nextProgram (s.tile id) = some p ∧
    s.inRun = true ∧
    s.enabled id = true ∧
    ((s.tile id).prog = none ∨ (s.urgent (s.tile id) p = true ∧ s.loadIdles (s.tile id) = true)) ∧
    s.sealing = false ∧
    s.isDrained = false ∧
    s.progWindow id = true ∧
    s.urgent (s.tile id) p = false ∧
    4096 ≤ s.driversOf id.die :=
  ⟨{ withTile (fun x => x) 1360 with tl := { up.tl with tiles := [{ freshTile ⟨0, 3⟩ with progQueue := [mkProgram 2 2 true] }] ++ (List.range 4096).map fun n => { freshTile ⟨0, n + 16⟩ with prog := some (rewrite2 0) } } },
    ⟨0, 3⟩, mkProgram 2 2 true, by decide +kernel, by decide +kernel, by decide +kernel, by decide +kernel, by decide +kernel,
    by decide +kernel, by decide +kernel, by decide +kernel, drivers_of_many _ 0 _ _ 4096 rfl fun _ => ⟨rfl, rfl⟩⟩

theorem witness_programs_run_row_by_row_and_settle_2 : ∃ s : State, ∃ id : TileId, ∃ p : Program,
    s.nextProgram (s.tile id) = some p ∧
    s.inRun = true ∧
    s.enabled id = true ∧
    ((s.tile id).prog = none ∨ (s.urgent (s.tile id) p = true ∧ s.loadIdles (s.tile id) = true)) ∧
    s.sealing = false ∧
    s.isDrained = false ∧
    s.progWindow id = true ∧
    (s.urgent (s.tile id) p = true ∨ s.driversOf id.die < 4096) :=
  ⟨withTile (fun x => { x with progQueue := [mkProgram 2 2 true] }) 160, ⟨0, 3⟩, mkProgram 2 2 true, by decide +kernel⟩

theorem witness_programs_run_row_by_row_and_settle_2_beside_a_paused_load : ∃ s : State, ∃ id : TileId, ∃ p : Program,
    s.nextProgram (s.tile id) = some p ∧
    s.inRun = true ∧
    s.enabled id = true ∧
    ((s.tile id).prog = none ∨ (s.urgent (s.tile id) p = true ∧ s.loadIdles (s.tile id) = true)) ∧
    s.sealing = false ∧
    s.isDrained = false ∧
    s.progWindow id = true ∧
    (s.tile id).prog ≠ none ∧
    (s.urgent (s.tile id) p = true ∨ s.driversOf id.die < 4096) :=
  ⟨holding2 { freshDir with astate := .covered } (withTile fun x => { x with prog := some { load2 4 with pausedAt := some 90 }, progQueue := [mkProgram 2 2 false] }),
    ⟨0, 3⟩, mkProgram 2 2 false, by decide +kernel⟩

theorem witness_programs_run_row_by_row_and_settle_3 : ∃ s : State, ∃ id : TileId, ∃ p : Program, ∃ p1 : Program,
    (s.tile id).prog = some p ∧
    s.inRun = true ∧
    p.pausedAt = none ∧
    p.displaced = false ∧
    (s.tile id).test.running = false ∧
    p.row < 256 ∧
    p1 = { p with phase := .rows, row := if p.phase = .erase then 0 else p.row + 1, pausedAt := if (if p.phase = .erase then 0 else p.row + 1) < 256 ∧ s.progWindow id = false then some s.tm.tick else none } ∧
    (s.urgentProgram (s.tile id) = none ∨ s.isLoad id p1 = false ∨ s.progWindow id = false ∨ s.sealing = true) :=
  ⟨withTile fun x => { x with prog := some (rewrite2 255) }, ⟨0, 3⟩, rewrite2 255, rewrite2 256, by decide +kernel⟩

theorem witness_programs_run_row_by_row_and_settle_4 : ∃ s : State, ∃ id : TileId, ∃ p : Program, ∃ p1 : Program, ∃ q,
    (s.tile id).prog = some p ∧
    s.inRun = true ∧
    p.pausedAt = none ∧
    p.displaced = false ∧
    (s.tile id).test.running = false ∧
    p.row < 256 ∧
    p1 = { p with phase := .rows, row := if p.phase = .erase then 0 else p.row + 1, pausedAt := if (if p.phase = .erase then 0 else p.row + 1) < 256 ∧ s.progWindow id = false then some s.tm.tick else none } ∧
    s.urgentProgram (s.tile id) = some q ∧
    s.isLoad id p1 = true ∧
    s.progWindow id = true ∧
    s.sealing = false :=
  ⟨holding2 { freshDir with astate := .covered } (withTile fun x => { x with prog := some (load2 4), progQueue := [mkProgram 2 2 false] }),
    ⟨0, 3⟩, load2 4, load2 5, mkProgram 2 2 false, by decide +kernel⟩

theorem witness_programs_run_row_by_row_and_settle_5 : ∃ s : State, ∃ id : TileId, ∃ p : Program,
    (s.tile id).prog = some p ∧
    s.inRun = true ∧
    ((p.pausedAt ≠ none ∧ s.resumeWindow id = true) ∨ (p.pausedAt = none ∧ p.displaced = true ∧ s.progWindow id = true)) ∧
    (p.displaced = true → s.driversOf id.die < 4096) ∧
    p.phase ≠ .waiting :=
  ⟨withTile (fun x => { x with prog := some { rewrite2 4 with pausedAt := some 90 } }) 1344, ⟨0, 3⟩, { rewrite2 4 with pausedAt := some 90 },
    by decide +kernel⟩

theorem witness_programs_run_row_by_row_and_settle_5_displaced : ∃ s : State, ∃ id : TileId, ∃ p : Program,
    (s.tile id).prog = some p ∧
    s.inRun = true ∧
    ((p.pausedAt ≠ none ∧ s.resumeWindow id = true) ∨ (p.pausedAt = none ∧ p.displaced = true ∧ s.progWindow id = true)) ∧
    (p.displaced = true → s.driversOf id.die < 4096) ∧
    p.pausedAt = none ∧
    p.phase ≠ .waiting :=
  ⟨withTile (fun x => { x with prog := some { load2 4 with displaced := true } }) 1360, ⟨0, 3⟩, { load2 4 with displaced := true },
    by decide +kernel⟩

theorem witness_programs_run_row_by_row_and_settle_5_waiting : ∃ s : State, ∃ id : TileId, ∃ p : Program,
    (s.tile id).prog = some p ∧
    s.inRun = true ∧
    ((p.pausedAt ≠ none ∧ s.resumeWindow id = true) ∨ (p.pausedAt = none ∧ p.displaced = true ∧ s.progWindow id = true)) ∧
    (p.displaced = true → s.driversOf id.die < 4096) ∧
    p.phase = .waiting :=
  ⟨withTile (fun x => { x with prog := some { rewrite2 0 with phase := .waiting, pausedAt := some 90 } }) 176, ⟨0, 3⟩,
    { rewrite2 0 with phase := .waiting, pausedAt := some 90 }, by decide +kernel⟩

theorem witness_programs_run_row_by_row_and_settle_6 : ∃ s : State, ∃ id : TileId, ∃ p : Program, ∃ n : Nat,
    (s.tile id).prog = some p ∧
    p.pausedAt = some n ∧
    p.deferred = false ∧
    s.inRun = true :=
  ⟨withTile fun x => { x with prog := some { rewrite2 4 with pausedAt := some 90 } }, ⟨0, 3⟩, { rewrite2 4 with pausedAt := some 90 }, 90,
    by decide +kernel⟩

theorem witness_programs_run_row_by_row_and_settle_7 : ∃ s : State, ∃ id : TileId, ∃ p : Program, ∃ r : CodeRecord,
    (s.tile id).prog = some p ∧
    s.inRun = true ∧
    p.row = 256 ∧
    p.displaced = false ∧
    (s.tile id).preempted = [] ∧
    p.codes = some r :=
  ⟨withTile fun x => { x with prog := some { rewrite2 256 with codes := some plainRecord } }, ⟨0, 3⟩,
    { rewrite2 256 with codes := some plainRecord }, plainRecord, by decide +kernel, by decide +kernel, rfl, rfl, by decide +kernel, rfl⟩

theorem witness_programs_run_row_by_row_and_settle_7_goes_on : ∃ s : State, ∃ id : TileId, ∃ p : Program, ∃ q : Program,
    (s.tile id).prog = some p ∧
    s.inRun = true ∧
    p.row = 256 ∧
    p.displaced = false ∧
    (s.tile id).preempted.head? = some q ∧
    s.progWindow id = true :=
  ⟨withTile fun x => { x with prog := some (rewrite2 256), preempted := [load2 7] }, ⟨0, 3⟩, rewrite2 256, load2 7, by decide +kernel⟩

theorem witness_programs_run_row_by_row_and_settle_7_repeats : ∃ s : State, ∃ id : TileId, ∃ p : Program,
    (s.tile id).prog = some p ∧
    s.inRun = true ∧
    p.row = 256 ∧
    p.displaced = false ∧
    p.cycles < 2 ∧
    s.progWindow id = true :=
  ⟨withTile fun x => { x with prog := some (rewrite2 256) }, ⟨0, 3⟩, rewrite2 256, by decide +kernel⟩

theorem witness_programs_run_row_by_row_and_settle_7_waits : ∃ s : State, ∃ id : TileId, ∃ p : Program,
    (s.tile id).prog = some p ∧
    s.inRun = true ∧
    p.row = 256 ∧
    p.displaced = false ∧
    p.cycles < 2 ∧
    s.progWindow id = false :=
  ⟨withTile (fun x => { x with prog := some (rewrite2 256) }) 1361, ⟨0, 3⟩, rewrite2 256, by decide +kernel⟩

theorem witness_programs_run_row_by_row_and_settle_8 : ∃ s : State, ∃ id : TileId, ∃ p : Program,
    (s.tile id).prog = some p ∧
    s.inRun = true ∧
    p.row = 256 ∧
    p.displaced = false ∧
    2 ≤ p.cycles ∧
    s.isDrained = false :=
  ⟨withTile fun x => { x with prog := some { rewrite2 256 with cycles := 2 } }, ⟨0, 3⟩, { rewrite2 256 with cycles := 2 }, by decide +kernel⟩

theorem witness_programs_run_row_by_row_and_settle_9 : ∃ s : State, ∃ id : TileId, ∃ k : Nat, ∃ src : Nat, ∃ c : Bool, ∃ rest : List (Nat × Nat × Bool),
    (s.tile id).settling = (k, src, c) :: rest ∧
    s.inRun = true ∧
    k ≠ 16 ∧
    (s.dir (id.array k)).astate = .settling ∧
    (s.dir (id.array k)).wear < 30000 :=
  ⟨holding2 { freshDir with astate := .settling, wear := 29999 } (withTile fun x => { x with settling := [(2, 2, false)] }), ⟨0, 3⟩, 2, 2,
    false, [], by decide +kernel⟩

theorem witness_programs_run_row_by_row_and_settle_10 : ∃ s : State, ∃ id : TileId, ∃ k : Nat, ∃ src : Nat, ∃ c : Bool, ∃ rest : List (Nat × Nat × Bool),
    (s.tile id).settling = (k, src, c) :: rest ∧
    s.inRun = true ∧
    k = 16 ∧
    c = false ∧
    (s.tile id).claim = none ∧
    (s.dir (id.array 16)).wear < 30000 ∧
    s.holdsCodesOf id src = true :=
  ⟨holding2 { freshDir with astate := .inService } { withTile fun x => { x with settling := [(16, 2, false)] } with
      wt := { up.wt with cells := [(⟨0, 3, 16⟩, some plainRecord)] } }, ⟨0, 3⟩, 16, 2, false, [], by decide +kernel⟩

theorem witness_arrays_are_scanned_rewritten_and_redigested_1 : ∃ s : State, ∃ a : ArrId,
    let u := s.wakeForTask
    u.inRun = true ∧
    u.enabled a.tid = true ∧
    a.arr ≤ 16 ∧
    u.isDrained = false ∧
    u.bt.arraysReady = true ∧
    u.workStops = false ∧
    ((∀ e ∈ (u.tile a.tid).scans, e.1 ≠ a.arr)) :=
  ⟨{ upPw fun p => { p with state := .p1 } with bt := { up.bt with arraysReady := true } }, ⟨0, 3, 16⟩, by dsimp only; decide +kernel⟩

theorem witness_arrays_are_scanned_rewritten_and_redigested_2 : ∃ s : State, ∃ a : ArrId, ∃ r : CodeRecord,
    s.inRun = true ∧
    (s.tile a.tid).scans.contains (a.arr, 0) = true ∧
    s.scanCodes a = some r :=
  ⟨scanned freshDir, ⟨0, 3, 2⟩, plainRecord, by decide +kernel, by decide +kernel, rfl⟩

theorem witness_arrays_are_scanned_rewritten_and_redigested_3 : ∃ s : State, ∃ a : ArrId,
    s.inRun = true ∧
    (s.dir a).astate = .inService ∧
    a.arr ≠ 16 ∧
    s.tm.valid = true ∧
    (s.drift a).reached s.tm.counter 2048 = true :=
  ⟨upWt fun x => { x with directory := [(⟨0, 3, 2⟩, { freshDir with astate := .inService })], drift := [(⟨0, 3, 2⟩, { freshDrift with d1 := 2048 })] },
    ⟨0, 3, 2⟩, by decide +kernel⟩

theorem witness_arrays_are_scanned_rewritten_and_redigested_4 : ∃ s : State, ∃ a : ArrId,
    s.inRun = true ∧
    (s.tile a.tid).rewrites.contains a.arr = true ∧
    s.rewritable a = true ∧
    s.sealing = false ∧
    (s.tile a.tid).standIn = some a.arr :=
  ⟨holding2 { freshDir with astate := .outOfService } (withTile fun x => { x with rewrites := [2], standIn := some 2 }), ⟨0, 3, 2⟩,
    by decide +kernel⟩

theorem witness_arrays_are_scanned_rewritten_and_redigested_5 : ∃ s : State, ∃ a : ArrId,
    s.inRun = true ∧
    (s.tile a.tid).rewrites.contains a.arr = true ∧
    s.rewritable a = true ∧
    s.sealing = false ∧
    (s.tile a.tid).standIn ≠ some a.arr ∧
    s.claimable a.tid a.arr = true ∧
    s.calValid (a.tid.array 16) = true ∧
    (s.tile a.tid).spare = .idle :=
  ⟨holding2 { freshDir with astate := .outOfService } { withTile fun x => { x with rewrites := [2] } with
      wt := { up.wt with franking := [(⟨0, 3, 16⟩, { freshFranking with valid := true, calTime := some 60 })] },
      cl := { up.cl with refTime := some (some 60) } }, ⟨0, 3, 2⟩, by decide +kernel⟩

theorem witness_arrays_are_scanned_rewritten_and_redigested_6 : ∃ s : State, ∃ a : ArrId,
    s.inRun = true ∧
    a.arr < 16 ∧
    s.directNext a.tid = some a.arr ∧
    (s.tile a.tid).firing a.arr = false ∧
    s.directBusy a.tid = false ∧
    s.progWindow a.tid = true ∧
    s.sealing = false :=
  ⟨holding2 { freshDir with astate := .outOfService } (withTile fun x => { x with rewrites := [1, 2], prog := some (load2 4) }), ⟨0, 3, 2⟩,
    by decide +kernel⟩

theorem witness_arrays_are_scanned_rewritten_and_redigested_7 : ∃ s : State, ∃ a : ArrId, ∃ m : Master, ∃ old : CodeRecord,
    s.wakeForTask.inRun = true ∧
    s.wakeForTask.record a = some old ∧
    s.wakeForTask.masterOf a = some m ∧
    (parcelRecord m (m.position a)).digest = (s.wakeForTask.dir a).recordDigest :=
  ⟨upWt fun x => { x with masters := [master], records := [(⟨0, 0, 0⟩, plainRecord)], directory := [(⟨0, 0, 0⟩, sameEntry)] }, ⟨0, 0, 0⟩,
    master, plainRecord, by decide +kernel, rfl, rfl, digests_agree (sameEntry) (first_entry rfl) (by decide +kernel) sameEntry_digest⟩

theorem witness_arrays_are_scanned_rewritten_and_redigested_7_lost : ∃ s : State, ∃ a : ArrId, ∃ old : CodeRecord,
    s.wakeForTask.inRun = true ∧
    s.wakeForTask.record a = some old ∧
    s.wakeForTask.masterOf a = none :=
  ⟨upWt fun x => { x with records := [(⟨0, 0, 0⟩, plainRecord)], directory := [(⟨0, 0, 0⟩, { freshDir with astate := .covered, model := 1, parcel := 3 })] },
    ⟨0, 0, 0⟩, plainRecord, by decide +kernel, rfl, rfl⟩

theorem witness_arrays_are_scanned_rewritten_and_redigested_8 : ∃ s : State,
    s.wakeForTask.inRun = true :=
  ⟨upPw fun p => { p with state := .p1 }, by decide +kernel⟩

theorem witness_a_fire_goes_from_latch_to_bank_1 : ∃ s : State, ∃ a : ArrId, ∃ r : CodeRecord,
    let g := s.region a.die (unitOf a.tid)
    let e := s.fetchedLists a
    let kept := s.cacheRoom (s.cacheBytes [e]) g.cache.length (g.cache.filter fun y => y.arr != a)
    s.inRun = true ∧
    s.record a = some r ∧
    (s.region a.die (unitOf a.tid)).fetching.contains a = true ∧
    s.cacheBytes kept + s.cacheBytes [e] ≤ listCacheBytes :=
  ⟨fetching [], ⟨0, 3, 2⟩, plainRecord, by decide +kernel, rfl, by decide +kernel⟩

theorem witness_a_fire_goes_from_latch_to_bank_1_named : ∃ s : State, ∃ a : ArrId, ∃ r : CodeRecord, ∃ y : CachedLists,
    s.inRun = true ∧
    s.record a = some r ∧
    (s.region a.die (unitOf a.tid)).fetching.contains a = true ∧
    y ∈ (s.region a.die (unitOf a.tid)).cache ∧
    y.arr ≠ a ∧
    s.arrayNamed y.arr = true :=
  ⟨fetching [], ⟨0, 3, 2⟩, plainRecord, ⟨⟨0, 3, 5⟩, []⟩, by decide +kernel, rfl, by decide +kernel⟩

theorem witness_a_fire_goes_from_latch_to_bank_1_full : ∃ s : State, ∃ a : ArrId, ∃ r : CodeRecord,
    let g := s.region a.die (unitOf a.tid)
    let e := s.fetchedLists a
    let kept := s.cacheRoom (s.cacheBytes [e]) g.cache.length (g.cache.filter fun y => y.arr != a)
    s.inRun = true ∧
    s.record a = some r ∧
    (s.region a.die (unitOf a.tid)).fetching.contains a = true ∧
    listCacheBytes < s.cacheBytes kept + s.cacheBytes [e] :=
  full_cache (List.replicate 8193 (0, [])) (by rw [List.length_replicate])

theorem witness_a_fire_goes_from_latch_to_bank_2 : ∃ s : State, ∃ id : TileId,
    let u := s.boundary id
    s.enabled id = true ∧
    s.inRun = true ∧
    (s.tile id).array = none ∧
    s.enteringP1 = false ∧
    u.isDrained = true :=
  ⟨drained, ⟨0, 3⟩, by dsimp only; decide +kernel⟩

theorem witness_a_fire_goes_from_latch_to_bank_3 : ∃ s : State, ∃ id : TileId,
    let u := s.boundary id
    s.enabled id = true ∧
    s.inRun = true ∧
    (s.tile id).array = none ∧
    s.enteringP1 = false ∧
    u.isDrained = false ∧
    (u.tile id).test.running = false :=
  ⟨up, ⟨0, 3⟩, by dsimp only; decide +kernel⟩

theorem witness_a_fire_goes_from_latch_to_bank_4 : ∃ s : State, ∃ id : TileId, ∃ r,
    let u := s.boundary id
    let n := (s.tile id).slotNo
    s.enabled id = true ∧
    s.inRun = true ∧
    (s.tile id).array = none ∧
    s.enteringP1 = false ∧
    u.isDrained = false ∧
    (u.tile id).test.running = false ∧
    (u.tile id).repeatDue = none ∧
    u.pairBegun id = false ∧
    (u.tile id).run = some r ∧
    u.runDue (u.tile id) = true ∧
    n % 16 = 0 :=
  ⟨withTile fun x => { x with slotNo := 16, run := some ⟨2, true, 4, some 70, 319, 480, some 80, false⟩ }, ⟨0, 3⟩,
    ⟨2, true, 4, some 70, 319, 480, some 80, false⟩, by dsimp only; decide +kernel⟩

theorem witness_a_fire_goes_from_latch_to_bank_5 : ∃ s : State, ∃ id : TileId, ∃ fl : Flight,
    (s.tile id).array = some fl ∧
    (s.tile id).scaler = none ∧
    fl.null = true :=
  ⟨{ up with tl := { up.tl with tiles := [{ freshTile ⟨0, 3⟩ with array := some { flight 1 with null := true } }] } }, ⟨0, 3⟩,
    { flight 1 with null := true }, by decide +kernel⟩

theorem witness_a_fire_goes_from_latch_to_bank_6 : ∃ s : State, ∃ id : TileId, ∃ flags : List Bool, ∃ fl : Flight,
    (s.tile id).array = some fl ∧
    (s.tile id).scaler = none ∧
    fl.null = false ∧
    flags.any (fun b => b) = true ∧
    fl.fire.range ≠ 0 :=
  ⟨{ up with tl := { up.tl with tiles := [{ freshTile ⟨0, 3⟩ with array := some (flight 3) }] } }, ⟨0, 3⟩, [false, true], flight 3,
    by decide +kernel⟩

theorem witness_a_fire_goes_from_latch_to_bank_7 : ∃ s : State, ∃ id : TileId, ∃ flags : List Bool, ∃ fl : Flight,
    (s.tile id).array = some fl ∧
    (s.tile id).scaler = none ∧
    fl.null = false ∧
    flags.any (fun b => b) = true ∧
    fl.fire.range = 0 :=
  ⟨{ up with tl := { up.tl with tiles := [{ freshTile ⟨0, 3⟩ with array := some (flight 0) }] } }, ⟨0, 3⟩, [false, true], flight 0,
    by decide +kernel⟩

theorem witness_a_fire_goes_from_latch_to_bank_8 : ∃ s : State, ∃ id : TileId, ∃ flags : List Bool, ∃ fl : Flight,
    (s.tile id).array = some fl ∧
    (s.tile id).scaler = none ∧
    fl.null = false ∧
    flags.any (fun b => b) = false :=
  ⟨{ up with tl := { up.tl with tiles := [{ freshTile ⟨0, 3⟩ with array := some (flight 3) }] } }, ⟨0, 3⟩, [false, false], flight 3,
    by decide +kernel⟩

theorem witness_a_fire_goes_from_latch_to_bank_9 : ∃ s : State, ∃ id : TileId, ∃ fl : Flight,
    let rem := remainderTerm (s.recordD (id.array fl.fire.arr)) (rowInputs fl.fire.mode fl.input.shifts fl.input.codes)
    (s.tile id).scaler = some fl ∧
    fl.null = false ∧
    fl.overrun = false ∧
    fl.passed = false ∧
    postmarkPass fl.fire.range fl.y rem = true :=
  ⟨{ withInput with tl := { up.tl with tiles := [{ freshTile ⟨0, 3⟩ with scaler := some (flight 1) }] } }, ⟨0, 3⟩, flight 1,
    by dsimp only; decide +kernel⟩

theorem witness_a_fire_goes_from_latch_to_bank_10 : ∃ s : State, ∃ id : TileId, ∃ fl : Flight,
    let rem := remainderTerm (s.recordD (id.array fl.fire.arr)) (rowInputs fl.fire.mode fl.input.shifts fl.input.codes)
    (s.tile id).scaler = some fl ∧
    fl.null = false ∧
    fl.overrun = false ∧
    fl.passed = false ∧
    postmarkPass fl.fire.range fl.y rem = false :=
  ⟨{ withInput with tl := { up.tl with tiles := [{ freshTile ⟨0, 3⟩ with scaler := some { flight 1 with y := [98305] } }] } }, ⟨0, 3⟩,
    { flight 1 with y := [98305] }, by dsimp only; decide +kernel⟩

theorem witness_a_fire_goes_from_latch_to_bank_11 : ∃ s : State, ∃ id : TileId, ∃ fl : Flight,
    (s.tile id).scaler = some fl ∧
    (fl.null || fl.overrun || fl.passed) = true ∧
    (s.redLive fl.fire.red = false ∨ ((s.tile id).bank fl.bank).red ≠ some fl.fire.red) :=
  ⟨{ up with tl := { up.tl with tiles := [{ freshTile ⟨0, 3⟩ with scaler := some { flight 1 with passed := true } }] } }, ⟨0, 3⟩,
    { flight 1 with passed := true }, by decide +kernel⟩

theorem witness_a_fire_goes_from_latch_to_bank_12 : ∃ s : State, ∃ id : TileId, ∃ fl : Flight,
    let sum := addVec 64 256 ((s.tile id).bank fl.bank).regs (fireAddend (s.recordD (id.array fl.fire.arr)) fl.input.scale fl.fire.mode fl.fire.range fl.y)
    (s.tile id).scaler = some fl ∧
    (fl.null || fl.overrun || fl.passed) = true ∧
    s.redLive fl.fire.red = true ∧
    ((s.tile id).bank fl.bank).red = some fl.fire.red ∧
    fl.null = false ∧
    fl.overrun = false ∧
    sum.2 = false :=
  ⟨{ withInput with tl := { up.tl with tiles := [{ freshTile ⟨0, 3⟩ with scaler := some { flight 1 with passed := true }, bank0 := { emptyBank with state := .filling, red := some ⟨7, 0, ⟨0, 1⟩⟩ } }] } },
    ⟨0, 3⟩, { flight 1 with passed := true }, by dsimp only; decide +kernel⟩

theorem witness_a_fire_goes_from_latch_to_bank_12_null : ∃ s : State, ∃ id : TileId, ∃ fl : Flight,
    (s.tile id).scaler = some fl ∧
    s.redLive fl.fire.red = true ∧
    ((s.tile id).bank fl.bank).red = some fl.fire.red ∧
    fl.null = true :=
  ⟨{ withInput with tl := { up.tl with tiles := [{ freshTile ⟨0, 3⟩ with scaler := some { flight 1 with null := true }, bank0 := { emptyBank with state := .filling, red := some ⟨7, 0, ⟨0, 1⟩⟩ } }] } },
    ⟨0, 3⟩, { flight 1 with null := true }, by decide +kernel⟩

theorem witness_a_fire_goes_from_latch_to_bank_13 : ∃ s : State, ∃ id : TileId, ∃ b : Nat, ∃ d : OutlierDue, ∃ rest : List OutlierDue, ∃ red : Reduction,
    (b = 0 ∨ (b = 1 ∧ (((s.tile id).bank 0).outliers = [] ∨ ((s.tile id).bank 0).red = none))) ∧
    ((s.tile id).bank b).outliers = d :: rest ∧
    ((s.tile id).bank b).red = some red :=
  ⟨{ withInput with tl := { up.tl with tiles := [{ freshTile ⟨0, 3⟩ with bank0 := { emptyBank with outliers := [⟨2, input0⟩] }, bank1 := { emptyBank with state := .filling, red := some ⟨7, 0, ⟨0, 1⟩⟩, outliers := [⟨2, input0⟩] } }] } },
    ⟨0, 3⟩, 1, ⟨2, input0⟩, [], ⟨7, 0, ⟨0, 1⟩⟩, by decide +kernel⟩

theorem witness_correction_units_serve_their_jobs_1 : ∃ s : State, ∃ die : Nat, ∃ unit : Nat, ∃ j : FbJob,
    s.headJob die unit = some j ∧
    allSome (j.parts.map fun p => s.jobAddend (TileId.array ⟨die, j.tile⟩ j.arr) j.cause p) = none :=
  ⟨withUnit [job2 0] [], 0, 0, job2 0, by decide +kernel⟩

theorem witness_correction_units_serve_their_jobs_2 : ∃ s : State, ∃ die : Nat, ∃ unit : Nat, ∃ j : FbJob, ∃ vs : List (List Int),
    s.headJob die unit = some j ∧
    allSome (j.parts.map fun p => s.jobAddend (TileId.array ⟨die, j.tile⟩ j.arr) j.cause p) = some vs :=
  ⟨withUnit [job2 1] [], 0, 0, job2 1, _, by decide +kernel, rfl⟩

theorem witness_correction_units_serve_their_jobs_3 : ∃ s : State, ∃ die : Nat, ∃ unit : Nat, ∃ j : SpotJob, ∃ rest : List SpotJob,
    let w := worstGap (spotGaps (s.recordD (TileId.array ⟨die, j.tile⟩ j.named)) j.range j.slice j.y (rowInputs j.mode j.input.shifts j.input.codes))
    (s.region die unit).spots = j :: rest ∧
    4 * (64 * lsb j.range) < w.2 :=
  ⟨withUnit [] [spot2 257], 0, 0, spot2 257, [], by dsimp only; decide +kernel⟩

theorem witness_correction_units_serve_their_jobs_4 : ∃ s : State, ∃ die : Nat, ∃ unit : Nat, ∃ j : SpotJob, ∃ rest : List SpotJob,
    let w := worstGap (spotGaps (s.recordD (TileId.array ⟨die, j.tile⟩ j.named)) j.range j.slice j.y (rowInputs j.mode j.input.shifts j.input.codes))
    (s.region die unit).spots = j :: rest ∧
    w.2 ≤ 4 * (64 * lsb j.range) ∧
    (1000 * w.2 ≤ 1412 * (64 * lsb j.range) ∨ s.rated = false) :=
  ⟨withUnit [] [spot2 256], 0, 0, spot2 256, [], by dsimp only; decide +kernel⟩

theorem witness_correction_units_serve_their_jobs_5 : ∃ s : State, ∃ tag : Nat, ∃ token : Nat, ∃ tensor : Nat, ∃ adapter : Nat, ∃ b : Nat, ∃ home : TileId, ∃ o : OpenStep, ∃ tok : TokenWork, ∃ g : Staged, ∃ l : LayerRec, ∃ tr : TensorRec, ∃ red : Reduction,
    s.liveStep tag = some o ∧
    o.tokens[token]? = some tok ∧
    o.staged.find? (fun x => x.is home.die adapter tok.layer tensor) = some g ∧
    ((s.model o.model).bind fun m => m.layer tok.layer) = some l ∧
    l.tensors.find? (fun x => x.tensor == tensor) = some tr ∧
    ((s.tile home).bank b).red = some red ∧
    hiddenFault (Adapter.hidden g.target (s.quantised tag token tok.layer tensor tr.k)) = false :=
  ⟨adapting target8 input0, 7, 0, 8, 5, 1, ⟨0, 3⟩, { work with staged := [⟨0, 5, target8⟩] }, token0, ⟨0, 5, target8⟩,
    { layer0 with tensors := [⟨8, 0, 1, 0, 64, 1, []⟩] }, ⟨8, 0, 1, 0, 64, 1, []⟩, ⟨7, 0, ⟨0, 1⟩⟩, by decide +kernel⟩

theorem witness_correction_units_serve_their_jobs_5_fault : ∃ s : State, ∃ tag : Nat, ∃ token : Nat, ∃ tensor : Nat, ∃ adapter : Nat, ∃ b : Nat, ∃ home : TileId, ∃ o : OpenStep, ∃ tok : TokenWork, ∃ g : Staged, ∃ l : LayerRec, ∃ tr : TensorRec, ∃ red : Reduction,
    s.liveStep tag = some o ∧
    o.tokens[token]? = some tok ∧
    o.staged.find? (fun x => x.is home.die adapter tok.layer tensor) = some g ∧
    ((s.model o.model).bind fun m => m.layer tok.layer) = some l ∧
    l.tensors.find? (fun x => x.tensor == tensor) = some tr ∧
    ((s.tile home).bank b).red = some red ∧
    hiddenFault (Adapter.hidden g.target (s.quantised tag token tok.layer tensor tr.k)) = true :=
  ⟨adapting largeTarget largeInput, 7, 0, 8, 5, 1, ⟨0, 3⟩, { work with staged := [⟨0, 5, largeTarget⟩] }, token0, ⟨0, 5, largeTarget⟩,
    { layer0 with tensors := [⟨8, 0, 1, 0, 64, 1, []⟩] }, ⟨8, 0, 1, 0, 64, 1, []⟩, ⟨7, 0, ⟨0, 1⟩⟩, by decide +kernel⟩

theorem witness_correction_units_serve_their_jobs_6_held : ∃ s : State, ∃ token : Nat, ∃ o : OpenStep, ∃ tok : TokenWork, ∃ e : LenEntry, ∃ w : EntryWork, ∃ l : LayerRec,
    ∃ q : List Nat, ∃ kv : List (List Nat),
    s.inRun = true ∧ s.liveStep 7 = some o ∧ o.tokens[token]? = some tok ∧ o.cmd.entries[tok.entry]? = some e ∧
    o.entries[tok.entry]? = some w ∧ ((s.model (o.modelOf tok.draft)).bind fun m => m.layer tok.layer) = some l ∧ tok.stage = 0 ∧
    tok.finished = false ∧ tok.attendsHere l = true ∧ 0 < l.qHeads ∧ (∀ x ∈ tok.heads, x.1 ≠ 0) ∧ queryOf l tok 0 = some q ∧
    s.keysValues 7 e.slot tok.draft tok.layer (0 * l.kvHeads / l.qHeads) l.kvB16
      (s.draftHeld 7 e tok (0 * l.kvHeads / l.qHeads) (attended o e tok)) = some kv ∧
    s.layerHeld e.slot tok.draft tok.layer = true :=
  ⟨{ withHead with kv := { withHead.kv with held := [⟨2, 1, 9, 300, 1, .restoring, [⟨false, 0, 0, false, false, ⟨false, 1, 2⟩, [], [], none, [], []⟩], []⟩] } },
    0, headStep, headToken, entry0, entryWork0, headLayer, [0, 0], _, by decide +kernel,
    by decide +kernel, by decide +kernel, by decide +kernel, by decide +kernel, by decide +kernel, rfl, rfl, by decide +kernel,
    by decide +kernel, by decide +kernel, by decide +kernel, rfl, by decide +kernel⟩

theorem witness_correction_units_serve_their_jobs_6 : ∃ s : State, ∃ token : Nat, ∃ o : OpenStep, ∃ tok : TokenWork, ∃ e : LenEntry, ∃ w : EntryWork, ∃ l : LayerRec,
    ∃ q : List Nat, ∃ kv : List (List Nat),
    s.inRun = true ∧ s.liveStep 7 = some o ∧ o.tokens[token]? = some tok ∧ o.cmd.entries[tok.entry]? = some e ∧
    o.entries[tok.entry]? = some w ∧ ((s.model (o.modelOf tok.draft)).bind fun m => m.layer tok.layer) = some l ∧ tok.stage = 0 ∧
    tok.finished = false ∧ tok.attendsHere l = true ∧ 0 < l.qHeads ∧ (∀ x ∈ tok.heads, x.1 ≠ 0) ∧ queryOf l tok 0 = some q ∧
    s.keysValues 7 e.slot tok.draft tok.layer (0 * l.kvHeads / l.qHeads) l.kvB16
      (s.draftHeld 7 e tok (0 * l.kvHeads / l.qHeads) (attended o e tok)) = some kv ∧
    o.headWaits l tok (attentionEngine e w tok.draft tok.layer (0 * l.kvHeads / l.qHeads)) = true :=
  ⟨withTwo, 1, twoEntries, { headToken with entry := 1 }, entry0, entryWork0, headLayer, [0, 0], _, by decide +kernel,
    by decide +kernel, by decide +kernel, by decide +kernel, by decide +kernel, by decide +kernel, rfl, rfl, by decide +kernel,
    by decide +kernel, by decide +kernel, by decide +kernel, rfl, by decide +kernel⟩

/-- What the free values give decides which of the last two clauses holds: one of them does. -/
theorem witness_correction_units_serve_their_jobs_7_8 : ∃ s : State, ∃ token : Nat, ∃ o : OpenStep, ∃ tok : TokenWork, ∃ e : LenEntry, ∃ w : EntryWork, ∃ l : LayerRec,
    ∃ q : List Nat, ∃ kv : List (List Nat),
    s.inRun = true ∧ s.liveStep 7 = some o ∧ o.tokens[token]? = some tok ∧ o.cmd.entries[tok.entry]? = some e ∧
    o.entries[tok.entry]? = some w ∧ ((s.model (o.modelOf tok.draft)).bind fun m => m.layer tok.layer) = some l ∧ tok.stage = 0 ∧
    tok.finished = false ∧ tok.attendsHere l = true ∧ 0 < l.qHeads ∧ (∀ x ∈ tok.heads, x.1 ≠ 0) ∧ queryOf l tok 0 = some q ∧
    s.keysValues 7 e.slot tok.draft tok.layer (0 * l.kvHeads / l.qHeads) l.kvB16
      (s.draftHeld 7 e tok (0 * l.kvHeads / l.qHeads) (attended o e tok)) = some kv ∧
    o.headWaits l tok (attentionEngine e w tok.draft tok.layer (0 * l.kvHeads / l.qHeads)) = false ∧
    (let q1 := Config.rotary tok.position l.headDim l.rotary q
     let bad : Bool := q1.any f32.special || kv.any (fun x => x.any f32.special) || scoreFault q1 (kv.take (kv.length / 2)) ||
       (attentionResult s.draw l.headDim q1 kv).any f32.special
     bad = true ∨ bad = false) :=
  ⟨withHead, 0, headStep, headToken, entry0, entryWork0, headLayer, [0, 0], _, by decide +kernel,
    by decide +kernel, by decide +kernel, by decide +kernel, by decide +kernel, by decide +kernel, rfl, rfl, by decide +kernel,
    by decide +kernel, by decide +kernel, by decide +kernel, rfl, by decide +kernel, (Bool.eq_false_or_eq_true _)⟩

/-- The hypotheses of the two clauses on an attention head but the last, and that the free result meets one of the two. -/
theorem witness_drains_and_contributions_reach_their_line_1 : ∃ s : State, ∃ id : TileId, ∃ b : Nat, ∃ r : Reduction,
    ((s.tile id).bank (b % 2)).state = .draining ∧
    ((s.tile id).bank (b % 2)).red = some r :=
  ⟨{ up with tl := { up.tl with tiles := [{ freshTile ⟨0, 3⟩ with bank1 := { emptyBank with state := .draining, red := some ⟨7, 0, ⟨0, 1⟩⟩ } }] } },
    ⟨0, 3⟩, 1, ⟨7, 0, ⟨0, 1⟩⟩, by decide +kernel⟩

theorem witness_drains_and_contributions_reach_their_line_2 : ∃ s : State, ∃ n : Nat, ∃ d : Drain,
    s.rd.drains[n]? = some d ∧
    (∀ l, s.line d.line = some l → l.version ≠ 1 ∨ l.stepTag ≠ d.stepTag ∨ l.epoch ≠ d.epoch) :=
  ⟨reducing [] [drain1 true []], 0, drain1 true [], by decide +kernel, fun _ h => nomatch h⟩

theorem witness_drains_and_contributions_reach_their_line_3 : ∃ s : State, ∃ n : Nat, ∃ d : Drain, ∃ l,
    s.rd.drains[n]? = some d ∧
    s.line d.line = some l ∧
    l.version = 1 ∧
    l.stepTag = d.stepTag ∧
    l.epoch = d.epoch ∧
    (l.complete = true ∨ (d.final = true ∧ l.pending = 0)) :=
  ⟨reducing [line1 0 []] [drain1 true []], 0, drain1 true [], line1 0 [], by decide +kernel⟩

theorem witness_drains_and_contributions_reach_their_line_4 : ∃ s : State, ∃ n : Nat, ∃ d : Drain, ∃ l,
    s.rd.drains[n]? = some d ∧
    s.line d.line = some l ∧
    l.version = 1 ∧
    l.stepTag = d.stepTag ∧
    l.epoch = d.epoch ∧
    l.complete = false ∧
    (d.final = true → l.pending ≠ 0) ∧
    (addVec 96 256 l.elems d.regs).2 = true :=
  ⟨reducing [line1 1 [2 ^ 95 - 1]] [drain1 true [1]], 0, drain1 true [1], line1 1 [2 ^ 95 - 1], by decide +kernel⟩

theorem witness_drains_and_contributions_reach_their_line_5 : ∃ s : State, ∃ n : Nat, ∃ d : Drain, ∃ l,
    s.rd.drains[n]? = some d ∧
    s.line d.line = some l ∧
    l.version = 1 ∧
    l.stepTag = d.stepTag ∧
    l.epoch = d.epoch ∧
    l.complete = false ∧
    (addVec 96 256 l.elems d.regs).2 = false ∧
    d.final = false :=
  ⟨reducing [line1 1 []] [drain1 false []], 0, drain1 false [], line1 1 [], by decide +kernel⟩

theorem witness_drains_and_contributions_reach_their_line_6 : ∃ s : State, ∃ n : Nat, ∃ d : Drain, ∃ l,
    s.rd.drains[n]? = some d ∧
    s.line d.line = some l ∧
    l.version = 1 ∧
    l.stepTag = d.stepTag ∧
    l.epoch = d.epoch ∧
    l.complete = false ∧
    (addVec 96 256 l.elems d.regs).2 = false ∧
    d.final = true ∧
    1 < l.pending :=
  ⟨reducing [line1 2 []] [drain1 true []], 0, drain1 true [], line1 2 [], by decide +kernel⟩

theorem witness_drains_and_contributions_reach_their_line_7 : ∃ s : State, ∃ n : Nat, ∃ d : Drain, ∃ l,
    s.rd.drains[n]? = some d ∧
    s.line d.line = some l ∧
    l.version = 1 ∧
    l.stepTag = d.stepTag ∧
    l.epoch = d.epoch ∧
    l.complete = false ∧
    (addVec 96 256 l.elems d.regs).2 = false ∧
    d.final = true ∧
    l.pending = 1 :=
  ⟨reducing [line1 1 []] [drain1 true []], 0, drain1 true [], line1 1 [], by decide +kernel⟩

theorem witness_drains_and_contributions_reach_their_line_8 : ∃ s : State, ∃ die : Nat, ∃ off : Nat, ∃ l : Line, ∃ q : Nat,
    s.line ⟨die, off⟩ = some l ∧
    l.complete = false ∧
    (∀ t ∈ s.tl.tiles, t.worksOn l.id = false) ∧
    s.redLive ⟨l.stepTag, l.epoch, l.id⟩ = true ∧
    l.quiet = some q :=
  ⟨reducing [{ line1 1 [] with quiet := some 90 }] [], 0, 1, { line1 1 [] with quiet := some 90 }, 90, by decide +kernel⟩

theorem witness_drains_and_contributions_reach_their_line_9 : ∃ s : State, ∃ h : CourierHdr, ∃ p : Bytes, ∃ g : Ledger,
    s.carried h 1 = true ∧
    fld p 0 1 = 1 ∧
    s.fb.aborted.contains (fld p 4 4) = false ∧
    contributionOk p 0 = true ∧
    s.ledger (fld p 4 4) (fld p 8 8) = some g ∧
    fld p 0x10 1 < g.epoch :=
  ⟨withLedger 1, type1, contribution1 0, ⟨6, 4, 1, 90, []⟩, by decide +kernel⟩

theorem witness_drains_and_contributions_reach_their_line_10 : ∃ s : State, ∃ h : CourierHdr, ∃ p : Bytes, ∃ g : Ledger,
    s.carried h 1 = true ∧
    fld p 0 1 = 1 ∧
    s.fb.aborted.contains (fld p 4 4) = false ∧
    contributionOk p 0 = true ∧
    s.ledger (fld p 4 4) (fld p 8 8) = some g ∧
    g.epoch = fld p 0x10 1 :=
  ⟨withLedger 1, type1, contribution1 1, ⟨6, 4, 1, 90, []⟩, by decide +kernel⟩

theorem witness_drains_and_contributions_reach_their_line_11 : ∃ s : State, ∃ h : CourierHdr, ∃ p : Bytes, ∃ g : Ledger,
    s.carried h 1 = true ∧
    fld p 0 1 = 1 ∧
    s.fb.aborted.contains (fld p 4 4) = false ∧
    contributionOk p 0 = true ∧
    s.ledger (fld p 4 4) (fld p 8 8) = some g ∧
    g.epoch < fld p 0x10 1 :=
  ⟨withLedger 0, type1, contribution1 1, ⟨6, 4, 0, 90, []⟩, by decide +kernel⟩

theorem witness_drains_and_contributions_reach_their_line_12 : ∃ s : State, ∃ h : CourierHdr, ∃ p : Bytes, ∃ o : OpenStep,
    s.carried h 1 = true ∧
    fld p 0 1 = 1 ∧
    s.fb.aborted.contains (fld p 4 4) = false ∧
    contributionOk p 1 = true ∧
    s.ledger (fld p 4 4) (fld p 8 8) = none ∧
    s.jobStep (fld p 4 4) (fld p 8 8) = some o ∧
    fld p 0x10 1 ≤ o.epoch :=
  ⟨carrying (withStep { work with epoch := 1 }), type1, notice1 1, { work with epoch := 1 }, by decide +kernel⟩

theorem witness_drains_and_contributions_reach_their_line_13 : ∃ s : State, ∃ h : CourierHdr, ∃ p : Bytes, ∃ o : OpenStep,
    s.carried h 1 = true ∧
    fld p 0 1 = 1 ∧
    s.fb.aborted.contains (fld p 4 4) = false ∧
    contributionOk p 1 = true ∧
    s.ledger (fld p 4 4) (fld p 8 8) = none ∧
    s.jobStep (fld p 4 4) (fld p 8 8) = some o ∧
    o.epoch < fld p 0x10 1 :=
  ⟨carrying (withStep work), type1, notice1 1, work, by decide +kernel⟩

theorem witness_drains_and_contributions_reach_their_line_14 : ∃ s : State, ∃ h : CourierHdr, ∃ p : Bytes, ∃ g : Ledger,
    s.carried h 1 = true ∧
    fld p 0 1 = 1 ∧
    s.fb.aborted.contains (fld p 4 4) = false ∧
    contributionOk p 1 = true ∧
    s.ledger (fld p 4 4) (fld p 8 8) = some g ∧
    s.jobStep (fld p 4 4) (fld p 8 8) = none ∧
    s.fb.committed.contains (fld p 4 4, fld p 8 8) = false :=
  ⟨withLedger 0, type1, notice1 1, ⟨6, 4, 0, 90, []⟩, by decide +kernel⟩

theorem witness_drains_and_contributions_reach_their_line_15 : ∃ s : State, ∃ h : CourierHdr, ∃ p : Bytes,
    s.carried h 1 = true ∧
    fld p 0 1 ≠ 1 :=
  ⟨withLedger 0, type1, natLe 1 2 ++ notice1 1, by decide +kernel⟩

theorem witness_drains_and_contributions_reach_their_line_16 : ∃ src : Nat, ∃ dst : Nat,
    src < 4 ∧
    dst < 4 ∧
    diagonal src dst = true :=
  ⟨2, 1, by decide +kernel⟩

theorem witness_drains_and_contributions_reach_their_line_16_neighbours : ∃ src : Nat, ∃ dst : Nat,
    src < 4 ∧
    dst < 4 ∧
    src ≠ dst ∧
    diagonal src dst = false :=
  ⟨2, 3, by decide +kernel⟩

theorem witness_rounds_admit_match_commit_and_watch_storms_1 : ∃ s : State, ∃ core : Nat, ∃ q : Queue, ∃ w : Waiting,
    let u := s.retryStalled.modQueue q.id fun x => { x with waiting := x.waiting.drop 1 }
    s.inRun = true ∧
    s.firmwareRuns = true ∧
    core < 4 ∧
    s.retryStalled.roundsRun = true ∧
    s.retryStalled.nextQueue = some (q, w) ∧
    u.context q.ctx = none :=
  ⟨{ rounding 0 context1 with sv := { (rounding 0 context1).sv with contexts := [] } },
    3, { queue3 with waiting := [{ waiter 5 with payload := stepBytes 0 }] }, { waiter 5 with payload := stepBytes 0 },
    by dsimp only; decide +kernel⟩

theorem witness_rounds_admit_match_commit_and_watch_storms_2 : ∃ s : State, ∃ core : Nat, ∃ q : Queue, ∃ w : Waiting, ∃ ctx,
    let u := s.retryStalled.modQueue q.id fun x => { x with waiting := x.waiting.drop 1 }
    s.inRun = true ∧
    s.firmwareRuns = true ∧
    core < 4 ∧
    s.retryStalled.roundsRun = true ∧
    s.retryStalled.nextQueue = some (q, w) ∧
    u.context q.ctx = some ctx ∧
    (u.model ctx.model).filter (fun m => !m.unloading) = none :=
  ⟨{ rounding 0 context1 with wt := { up.wt with models := [] } },
    3, { queue3 with waiting := [{ waiter 5 with payload := stepBytes 0 }] }, { waiter 5 with payload := stepBytes 0 }, context1,
    by dsimp only; decide +kernel⟩

theorem witness_rounds_admit_match_commit_and_watch_storms_3 : ∃ s : State, ∃ core : Nat, ∃ q : Queue, ∃ w : Waiting, ∃ ctx, ∃ m, ∃ d,
    let u := s.retryStalled.modQueue q.id fun x => { x with waiting := x.waiting.drop 1 }
    let c := parseStep w.tuiven1 w.payload
    let draft := (u.model ctx.draftModel).filter fun x => !x.unloading && ctx.draftModel != 0
    s.inRun = true ∧
    s.firmwareRuns = true ∧
    core < 4 ∧
    s.retryStalled.roundsRun = true ∧
    s.retryStalled.nextQueue = some (q, w) ∧
    u.context q.ctx = some ctx ∧
    (u.model ctx.model).filter (fun m => !m.unloading) = some m ∧
    (ctx.draftModel = 0 ∨ draft ≠ none) ∧
    (u.asArrived w).stepFault c w.payload.length w.tuiven1 ctx m = some d :=
  ⟨rounding 3 context1, 3, { queue3 with waiting := [{ waiter 5 with payload := stepBytes 3 }] }, { waiter 5 with payload := stepBytes 3 }, context1, model1, 0xFFFF, by dsimp only; decide +kernel⟩

theorem witness_rounds_admit_match_commit_and_watch_storms_3_no_draft : ∃ s : State, ∃ core : Nat, ∃ q : Queue, ∃ w : Waiting, ∃ ctx, ∃ m,
    let u := s.retryStalled.modQueue q.id fun x => { x with waiting := x.waiting.drop 1 }
    let draft := (u.model ctx.draftModel).filter fun x => !x.unloading && ctx.draftModel != 0
    s.inRun = true ∧
    s.firmwareRuns = true ∧
    core < 4 ∧
    s.retryStalled.roundsRun = true ∧
    s.retryStalled.nextQueue = some (q, w) ∧
    u.context q.ctx = some ctx ∧
    (u.model ctx.model).filter (fun m => !m.unloading) = some m ∧
    ctx.draftModel ≠ 0 ∧
    draft = none :=
  ⟨rounding 0 { context1 with draftModel := 2 }, 3, { queue3 with waiting := [{ waiter 5 with payload := stepBytes 0 }] }, { waiter 5 with payload := stepBytes 0 }, { context1 with draftModel := 2 }, model1,
    by dsimp only; decide +kernel⟩

theorem witness_rounds_admit_match_commit_and_watch_storms_4 : ∃ s : State, ∃ core : Nat, ∃ q : Queue, ∃ w : Waiting, ∃ ctx, ∃ m,
    let u := s.retryStalled.modQueue q.id fun x => { x with waiting := x.waiting.drop 1 }
    let c := parseStep w.tuiven1 w.payload
    let draft := (u.model ctx.draftModel).filter fun x => !x.unloading && ctx.draftModel != 0
    s.inRun = true ∧
    s.firmwareRuns = true ∧
    core < 4 ∧
    s.retryStalled.roundsRun = true ∧
    s.retryStalled.nextQueue = some (q, w) ∧
    u.context q.ctx = some ctx ∧
    (u.model ctx.model).filter (fun m => !m.unloading) = some m ∧
    (ctx.draftModel = 0 ∨ draft ≠ none) ∧
    (u.asArrived w).stepFault c w.payload.length w.tuiven1 ctx m = none :=
  ⟨rounding 0 context1, 3, { queue3 with waiting := [{ waiter 5 with payload := stepBytes 0 }] }, { waiter 5 with payload := stepBytes 0 }, context1, model1, by dsimp only; decide +kernel⟩

theorem witness_rounds_admit_match_commit_and_watch_storms_4_new : ∃ u : State, ∃ q : Queue, ∃ k : Queue,
    u.sv.steps.length < 1024 ∧
    u.queue q.id = some k :=
  ⟨withStep work, queue3, queue3, by decide +kernel⟩

theorem witness_rounds_admit_match_commit_and_watch_storms_0 : ∃ s : State,
    s.roundWakes = true :=
  ⟨{ rounding 0 context1 with pw := { up.pw with state := .p1 } }, by decide +kernel⟩

theorem witness_rounds_admit_match_commit_and_watch_storms_5 : ∃ s : State, ∃ core : Nat,
    s.inRun = true ∧
    s.firmwareRuns = true ∧
    core < 4 ∧
    (s.retryStalled.roundsRun = false ∨ s.retryStalled.nextQueue = none) :=
  ⟨up, 3, by decide +kernel⟩

theorem witness_rounds_admit_match_commit_and_watch_storms_6 : ∃ s : State, ∃ tag : Nat, ∃ i : Nat, ∃ o : OpenStep, ∃ e : LenEntry, ∃ w : EntryWork,
    s.firmwareRuns = true ∧
    s.entryAt tag i = some (o, e, w) ∧
    w.matchPending = true :=
  ⟨withStep { work with entries := [{ entryWork0 with matchPending := true }] }, 7, 0,
    { work with entries := [{ entryWork0 with matchPending := true }] }, entry0, { entryWork0 with matchPending := true },
    by decide +kernel⟩

/-- A node of the tree that holds 64 tokens of 5 at layer 0, in frame 0 of stack 1. -/
def node0 : Node :=
  { version := 1, live := true, idx := 0, layers := 1, refcount := 0, hash := blockHash (rootHash 1 1) (List.replicate 64 5), parent := none,
    tenant := 1, model := 1, block := 0, lastUse := 9, pagesAt := 0, pages := [(0, ⟨1, 0, 0⟩)], tokens := List.replicate 64 5 }

/-- An entry of `n` tokens of 5 that waits for its match, and that node; layer 0 of the model has a K tensor with a master. -/
def matchEntry0 (n : Nat) : LenEntry := { entry0 with kind := 0, pfx := true, tokens := n }
def matchStep (n : Nat) : OpenStep :=
  { work with cmd := { command0 with tokenCount := n, entries := [matchEntry0 n], tokens := List.replicate n (5, 0xFFFF, 0) },
              entries := [{ entryWork0 with matchPending := true }], tokens := [] }
def matching (n : Nat) : State :=
  { upSv fun x => { x with queues := [queue3], steps := [matchStep n], slots := [{ slot2 with state := .busy, commit := 0 }] } with
    wt := { up.wt with models := [{ model1 with layers := [headLayer] }], masters := [{ master with hdr := { master.hdr with tensor := 9 } }] },
    kv := { up.kv with nodes := [node0], chunks := [⟨1, 0, 8192⟩], frames := [⟨⟨1, 0, 0⟩, 8192, .shared 0, []⟩] } }

theorem witness_rounds_admit_match_commit_and_watch_storms_6_shared : ∃ (s : State) (tag i : Nat) (o : OpenStep) (e : LenEntry) (w : EntryWork) (m : Model) (sl : Slot),
    let layers := s.servedLayers m
    let toks := (entryTokens o.cmd i).map (·.1)
    let chain := s.matchChain o.attrs.tenant m.num layers.length (toks.length / 64) none (rootHash o.attrs.tenant m.num) toks
    let v := (s.takeChain e.slot chain).modEntry tag i fun w => { w with matched := 64 * chain.length }
    s.firmwareRuns = true ∧
    s.entryAt tag i = some (o, e, w) ∧
    s.model o.model = some m ∧
    s.slot e.slot = some sl ∧
    chain = [node0] ∧
    (64 * chain.length == toks.length && 0 < toks.length) = false ∧
    v.canReserve tag e.slot (s.entryPages o e sl) = true :=
  ⟨matching 65, 7, 0, matchStep 65, matchEntry0 65, { entryWork0 with matchPending := true }, { model1 with layers := [headLayer] },
    { slot2 with state := .busy, commit := 0 }, by dsimp only; decide +kernel⟩

theorem witness_rounds_admit_match_commit_and_watch_storms_6_copied : ∃ (s : State) (tag i : Nat) (o : OpenStep) (e : LenEntry) (w : EntryWork) (m : Model) (sl : Slot),
    let layers := s.servedLayers m
    let toks := (entryTokens o.cmd i).map (·.1)
    let chain := s.matchChain o.attrs.tenant m.num layers.length (toks.length / 64) none (rootHash o.attrs.tenant m.num) toks
    let used := s.modNode 0 fun x => { x with lastUse := s.time }
    let v := ((used.takeChain e.slot []).modEntry tag i fun w => { w with matched := toks.length - 1 }).refNode (some 0) true
    s.firmwareRuns = true ∧
    s.entryAt tag i = some (o, e, w) ∧
    s.model o.model = some m ∧
    s.slot e.slot = some sl ∧
    chain = [node0] ∧
    (64 * chain.length == toks.length && 0 < toks.length) = true ∧
    v.canReserve tag e.slot (s.entryPages o e sl ++ pagesOf m false layers 0 64) = true :=
  ⟨matching 64, 7, 0, matchStep 64, matchEntry0 64, { entryWork0 with matchPending := true }, { model1 with layers := [headLayer] },
    { slot2 with state := .busy, commit := 0 }, by dsimp only; decide +kernel⟩

theorem witness_rounds_admit_match_commit_and_watch_storms_6_copy : ∃ (s : State) (slot b : Nat) (n : Node) (p : Nat × FrameId) (q : PageEntry) (f g : Frame),
    p ∈ n.pages ∧
    s.page slot false p.1 b = some q ∧
    q.shared = false ∧
    s.frame p.2 = some f ∧
    s.frame q.frame = some g ∧
    (∀ x ∈ n.pages, ∀ y, s.page slot false x.1 b = some y → y.shared = false → y.frame ≠ p.2 ∧ (y.frame = q.frame → x = p)) := by
  refine ⟨{ withHead with kv := { withHead.kv with frames := withHead.kv.frames ++ [⟨⟨1, 0, 0⟩, 8192, .shared 0, []⟩] } }, 2, 0, node0,
    (0, ⟨1, 0, 0⟩), ⟨2, false, 0, 0, ⟨0, 0, 0⟩, false, ⟨false, 1, 2⟩⟩, ⟨⟨1, 0, 0⟩, 8192, .shared 0, []⟩,
    ⟨⟨0, 0, 0⟩, 8192, .priv 2, [⟨false, 0, 0, 1, [0, 0], .tentative 7⟩, ⟨true, 0, 0, 1, [0, 0], .tentative 7⟩]⟩,
    List.mem_singleton.mpr rfl, by decide +kernel, rfl, by decide +kernel, by decide +kernel, ?_⟩
  intro x hx y hy _
  cases List.mem_singleton.mp hx
  have e : y = ⟨2, false, 0, 0, ⟨0, 0, 0⟩, false, ⟨false, 1, 2⟩⟩ := (Option.some.inj hy).symm
  subst e
  exact ⟨by decide, fun _ => rfl⟩

theorem witness_rounds_admit_match_commit_and_watch_storms_7 : ∃ s : State, ∃ tag : Nat, ∃ o : OpenStep,
    s.liveStep tag = some o ∧
    s.hcoreRuns = true ∧
    s.commitReady o o.attrs = true :=
  ⟨withStep { work with tokens := [{ token0 with finished := true }] }, 7, { work with tokens := [{ token0 with finished := true }] },
    by decide +kernel⟩

theorem witness_rounds_admit_match_commit_and_watch_storms_7_ended : ∃ (w : EntryWork) (st : Nat),
    w.status = some st :=
  ⟨{ entryWork0 with status := some 16 }, 16, rfl⟩

theorem witness_rounds_admit_match_commit_and_watch_storms_7_freed : ∃ (e : LenEntry) (w : EntryWork),
    w.status = none ∧
    e.kind = 4 :=
  ⟨{ entry0 with kind := 4 }, entryWork0, rfl, rfl⟩

theorem witness_rounds_admit_match_commit_and_watch_storms_7_opened : ∃ (s : State) (o : OpenStep) (e : LenEntry) (w : EntryWork) (x : Slot) (m : Model),
    w.status = none ∧
    e.kind ≠ 4 ∧
    s.slot e.slot = some x ∧
    s.model o.model = some m ∧
    e.hold = false :=
  ⟨matching 65, matchStep 65, entry0, entryWork0, { slot2 with state := .busy, commit := 0 }, { model1 with layers := [headLayer] }, by decide +kernel⟩

theorem witness_rounds_admit_match_commit_and_watch_storms_7_held : ∃ (s : State) (o : OpenStep) (e : LenEntry) (w : EntryWork) (x : Slot) (m : Model),
    w.status = none ∧
    e.kind ≠ 4 ∧
    s.slot e.slot = some x ∧
    s.model o.model = some m ∧
    e.hold = true :=
  ⟨matching 65, matchStep 65, { entry0 with kind := 3, hold := true }, entryWork0, { slot2 with state := .busy, commit := 0 },
    { model1 with layers := [headLayer] }, by decide +kernel⟩

/-- A completion of number 4 of queue 3, and that queue with it waiting for its turn. -/
def completion4 : Completion := mkCompletion 0 0 4 9 3 4 0 false false 100 []
def ended3 : Queue := { queue3 with order := [4], ended := [completion4] }

theorem witness_rounds_admit_match_commit_and_watch_storms_7_written : ∃ (v : State) (n : Nat) (q : Queue) (c : Completion),
    v.queue n = some q ∧
    q.nextEnded = some c ∧
    q.silent = false ∧
    v.leaseLive = true ∧
    q.room v.windowMode = true :=
  ⟨withQueue ended3, 3, ended3, completion4, by decide +kernel⟩

theorem witness_rounds_admit_match_commit_and_watch_storms_7_full : ∃ (v : State) (n : Nat) (q : Queue) (c : Completion),
    v.queue n = some q ∧
    q.nextEnded = some c ∧
    q.silent = false ∧
    v.leaseLive = true ∧
    q.room v.windowMode = false :=
  ⟨withQueue { ended3 with comp := ⟨0, 1, 0, 2⟩ }, 3, { ended3 with comp := ⟨0, 1, 0, 2⟩ }, completion4, by decide +kernel⟩

theorem witness_rounds_admit_match_commit_and_watch_storms_7_retained : ∃ (v : State) (n : Nat) (q : Queue) (c : Completion),
    v.queue n = some q ∧
    q.nextEnded = some c ∧
    q.silent = false ∧
    v.leaseLive = false ∧
    v.unackedCount < 4096 :=
  ⟨{ withQueue ended3 with dp := { up.dp with lease := none } }, 3, ended3, completion4, by decide +kernel⟩

/-- A tree of a root and two children, of which the second, element 2, is accepted; its K and V stand in storage position 2. -/
def treeEntry : LenEntry := { entry0 with kind := 2, tokens := 3 }
def treeStep : OpenStep :=
  { work with cmd := { command0 with tokenCount := 3, entries := [treeEntry], tokens := [(5, 0xFFFF, 0), (7, 0, 0), (3, 0, 0)] },
              tokens := [{ token0 with logits := [0, 0, 0, 0x3F800000], finished := true },
                         { token0 with elem := 1, parent := 0, token := 7, storage := 1, finished := true },
                         { token0 with elem := 2, parent := 0, token := 3, storage := 2, finished := true }] }
def treeState : State :=
  { withHead with
    sv := (withStep treeStep).sv,
    kv := { withHead.kv with frames := [⟨⟨0, 0, 0⟩, 8192, .priv 2, [⟨false, 2, 0, 1, [0, 0], .tentative 7⟩, ⟨true, 2, 0, 1, [0, 0], .tentative 7⟩]⟩] } }

theorem witness_rounds_admit_match_commit_and_watch_storms_7_compacts : ∃ (s : State) (tag : Nat) (o : OpenStep) (e : LenEntry) (w : EntryWork) (m : Model),
    let path := (acceptedPath o.attrs o 0 e).1
    s.liveStep tag = some o ∧
    o.cmd.entries = [e] ∧
    o.entries = [w] ∧
    s.model o.model = some m ∧
    entryFinished o 0 = true ∧
    needsCompaction o.attrs o 0 e w = true ∧
    (path.map TokenWork.elem).Pairwise (· < ·) ∧
    (∀ p ∈ s.kv.pages, ∀ q ∈ s.kv.pages, p.slot = e.slot → q.slot = e.slot → p.draft = false → q.draft = false → p.frame = q.frame →
      p.layer = q.layer ∧ p.n = q.n) ∧
    (path[1]?).map TokenWork.elem = some 2 ∧
    0 ∈ m.kvLayers ∧
    m.layer 0 = some headLayer ∧
    (s.page e.slot false 0 ((e.position + 1) / 64)).bind (fun q => s.frame q.frame) ≠ none ∧
    0 < headLayer.kvHeads ∧
    (s.getGroup e.slot false 0 (e.position + 2) true 0).isSome = true :=
  ⟨treeState, 7, treeStep, treeEntry, entryWork0, { model1 with layers := [headLayer] }, by dsimp only; decide +kernel⟩

theorem witness_rounds_admit_match_commit_and_watch_storms_8 : ∃ s : State,
    s.firmwareRuns = true ∧
    s.ev.stormPending = true :=
  ⟨upEv fun e => { e with stormPending := true }, by decide +kernel⟩

theorem witness_rounds_admit_match_commit_and_watch_storms_9 : ∃ s : State,
    s.firmwareRuns = true ∧
    s.ev.stormPending = false ∧
    s.sv.stormBit = true ∧
    10 ≤ s.sv.stormSince :=
  ⟨upSv fun x => { x with stormBit := true, stormSince := 10 }, by decide +kernel⟩

/-- Slot 2 in a state of the tier, with the pages that it holds there, and one private page in frame 0 of stack 0. -/
def holds (phase : HeldPhase) (pages : List HeldPage) (places : List Nat) : Held := ⟨2, 1, 64, 300, 1, phase, pages, places⟩
def page0 : PageEntry := ⟨2, false, 0, 0, ⟨0, 0, 0⟩, false, ⟨false, 1, 2⟩⟩
def frame0 : Frame := ⟨⟨0, 0, 0⟩, 8192, .priv 2, []⟩
def tiered (h : Held) : State :=
  { withModel with
    sv := { up.sv with contexts := [context1], slots := [slot2] },
    kv := { up.kv with pages := [page0], frames := [frame0], held := [h] } }

theorem witness_held_pages_move_expire_and_exhaust_1 : ∃ s : State, ∃ slot : Nat, ∃ h : Held, ∃ p, ∃ rest, ∃ f,
    s.firmwareRuns = true ∧
    s.heldOf slot = some h ∧
    h.phase = .moving ∧
    s.privatePages slot = p :: rest ∧
    s.frame p.frame = some f ∧
    (h.places = [] ∨ s.leaseLive = true) ∧
    h.places = [] :=
  ⟨tiered (holds .moving [] []), 2, holds .moving [] [], page0, [], frame0, by decide +kernel⟩

theorem witness_held_pages_move_expire_and_exhaust_1_placed : ∃ s : State, ∃ slot : Nat, ∃ h : Held, ∃ p, ∃ rest, ∃ f,
    s.firmwareRuns = true ∧
    s.heldOf slot = some h ∧
    h.phase = .moving ∧
    s.privatePages slot = p :: rest ∧
    s.frame p.frame = some f ∧
    (h.places = [] ∨ s.leaseLive = true) ∧
    h.places = [65536] :=
  ⟨tiered (holds .moving [] [65536]), 2, holds .moving [] [65536], page0, [], frame0, by decide +kernel⟩

/-- A held page of K and V of token 0 in T8, and one whose K has a scale that is no number. -/
def backPage (scale : Nat) : HeldPage :=
  ⟨false, 0, 0, false, true, ⟨false, 1, 2⟩, [], [⟨false, 0, 0, scale, [8, 8], .committed⟩, ⟨true, 0, 0, 1, [8, 8], .committed⟩], none, [], []⟩

theorem witness_held_pages_move_expire_and_exhaust_2 : ∃ s : State, ∃ slot : Nat, ∃ h : Held, ∃ p, ∃ rest, ∃ x, ∃ id, ∃ u : State, ∃ f,
    s.firmwareRuns = true ∧
    s.heldOf slot = some h ∧
    h.phase = .restoring ∧
    h.pages = p :: rest ∧
    p.noNumber = false ∧
    s.slot slot = some x ∧
    s.restoreFrame slot p = some (id, u) ∧
    u.frame id = some f ∧
    (s.restoreOnePage slot).restoreWaiter slot = none :=
  ⟨tiered (holds .restoring [backPage 1] []), 2, holds .restoring [backPage 1] [], backPage 1, [], slot2, ⟨0, 0, 0⟩,
    tiered (holds .restoring [backPage 1] []), frame0, by decide +kernel, by decide +kernel, rfl, rfl, by decide +kernel, by decide +kernel, rfl,
    by decide +kernel, by decide +kernel⟩

/-- `tiered` with open step 7, whose entry waits for that restore. -/
def restoringStep : OpenStep := { work with entries := [{ entryWork0 with restoring := true }] }
def waited (h : Held) : State :=
  { tiered h with sv := { (withStep restoringStep).sv with contexts := [context1], slots := [slot2] } }

theorem witness_held_pages_move_expire_and_exhaust_2_waited : ∃ s : State, ∃ slot : Nat, ∃ h : Held, ∃ p, ∃ rest, ∃ x, ∃ id, ∃ u : State, ∃ f, ∃ e,
    s.firmwareRuns = true ∧
    s.heldOf slot = some h ∧
    h.phase = .restoring ∧
    h.pages = p :: rest ∧
    p.noNumber = false ∧
    s.slot slot = some x ∧
    s.restoreFrame slot p = some (id, u) ∧
    u.frame id = some f ∧
    (s.restoreOnePage slot).restoreWaiter slot = some e :=
  ⟨waited (holds .restoring [backPage 1] []), 2, holds .restoring [backPage 1] [], backPage 1, [], slot2, ⟨0, 0, 0⟩,
    waited (holds .restoring [backPage 1] []), frame0, (7, 0), by decide +kernel, by decide +kernel, rfl, rfl, by decide +kernel, by decide +kernel,
    rfl, by decide +kernel, by decide +kernel⟩

theorem witness_held_pages_move_expire_and_exhaust_2_no_number : ∃ s : State, ∃ slot : Nat, ∃ h : Held, ∃ p, ∃ rest, ∃ e,
    s.firmwareRuns = true ∧
    s.heldOf slot = some h ∧
    h.pages = p :: rest ∧
    p.noNumber = true ∧
    s.restoreWaiter slot = some e :=
  ⟨waited (holds .restoring [backPage 0x7F] []), 2, holds .restoring [backPage 0x7F] [], backPage 0x7F, [], (7, 0), by decide +kernel⟩

theorem witness_held_pages_move_expire_and_exhaust_2_no_number_alone : ∃ s : State, ∃ slot : Nat, ∃ h : Held, ∃ p, ∃ rest,
    s.firmwareRuns = true ∧
    s.heldOf slot = some h ∧
    h.pages = p :: rest ∧
    p.noNumber = true ∧
    s.restoreWaiter slot = none :=
  ⟨tiered (holds .restoring [backPage 0x7F] []), 2, holds .restoring [backPage 0x7F] [], backPage 0x7F, [], by decide +kernel⟩

theorem witness_held_pages_move_expire_and_exhaust_3 : ∃ s : State, ∃ slot : Nat, ∃ h : Held, ∃ x : Slot,
    s.firmwareRuns = true ∧
    s.tm.valid = true ∧
    s.heldOf slot = some h ∧
    s.slot slot = some x :=
  ⟨tiered (holds .resting [] []), 2, holds .resting [] [], slot2, by decide +kernel⟩

theorem witness_held_pages_move_expire_and_exhaust_4 : ∃ s : State, ∃ tag : Nat, ∃ i : Nat, ∃ n : Nat, ∃ o : OpenStep, ∃ e : LenEntry, ∃ w : EntryWork,
    let v := s.retryStalled
    s.firmwareRuns = true ∧
    s.entryAt tag i = some (o, e, w) ∧
    w.stalledAt = some n ∧
    n + 12500000 = s.tm.tick ∧
    w.restoring = false ∧
    v.entryStalls tag i = false :=
  ⟨{ withStep { work with tokens := [], entries := [{ entryWork0 with stalledAt := some 80 }] } with
      tm := { up.tm with tick := 12500080 },
      sv := { (withStep { work with tokens := [], entries := [{ entryWork0 with stalledAt := some 80 }] }).sv with slots := [slot2] } }, 7, 0, 80,
    { work with tokens := [], entries := [{ entryWork0 with stalledAt := some 80 }] }, entry0, { entryWork0 with stalledAt := some 80 },
    by dsimp only; decide +kernel⟩

theorem witness_held_pages_move_expire_and_exhaust_4_exhausted : ∃ s : State, ∃ tag : Nat, ∃ i : Nat, ∃ n : Nat, ∃ o : OpenStep, ∃ e : LenEntry, ∃ w : EntryWork,
    let v := s.retryStalled
    s.firmwareRuns = true ∧
    s.entryAt tag i = some (o, e, w) ∧
    w.stalledAt = some n ∧
    n + 12500000 = s.tm.tick ∧
    w.restoring = false ∧
    v.entryStalls tag i = true ∧
    v.entryAt tag i = some (o, e, w) :=
  ⟨{ withStep { work with entries := [{ entryWork0 with stalledAt := some 80 }] } with tm := { up.tm with tick := 12500080 } }, 7, 0, 80,
    { work with entries := [{ entryWork0 with stalledAt := some 80 }] }, entry0, { entryWork0 with stalledAt := some 80 },
    by dsimp only; decide +kernel⟩

theorem witness_held_pages_move_expire_and_exhaust_5 : ∃ s : State, ∃ x : Slot,
    s.firmwareRuns = true ∧
    s.dp.expiring = true ∧
    s.sv.steps.all OpenStep.aborted = true ∧
    argMin Slot.id (s.sv.slots.filter fun x => x.state == .opened) = some x :=
  ⟨{ upDp fun d => { d with expiring := true } with sv := { up.sv with slots := [{ slot2 with state := .opened }] } },
    { slot2 with state := .opened }, by decide +kernel⟩

theorem witness_held_pages_move_expire_and_exhaust_5_moves : ∃ s : State,
    s.firmwareRuns = true ∧
    s.dp.expiring = true ∧
    s.sv.steps.all OpenStep.aborted = true ∧
    s.sv.slots.filter (fun x => x.state == .opened) = [] ∧
    (∃ h ∈ s.kv.held, h.phase = .moving) :=
  ⟨{ upDp fun d => { d with expiring := true } with kv := { up.kv with held := [⟨2, 1, 64, 300, 1, .moving, [], []⟩] } }, by decide +kernel⟩

theorem witness_held_pages_move_expire_and_exhaust_5_tier : ∃ s : State, ∃ x : Slot,
    s.slot x.id = some x ∧
    s.heldOf x.id = none ∧
    s.level1Used + sumList ((s.privatePages x.id).map s.pageHeldSize) ≤ s.level1Size :=
  ⟨{ withModel with sv := { up.sv with contexts := [context1], slots := [slot2] }, kv := { up.kv with pages := [page0], frames := [frame0] } }, slot2,
    by decide +kernel⟩

theorem witness_survey_conversions_follow_the_sequence_5_injected : ∃ (s : State) (n : Nat),
  n < 5 ∧ s.adcRuns n = true ∧ bit (s.stored (adcBase n)) 0 = true ∧ (s.adc n).trace = false ∧ (s.adc n).injBusy = true :=
  ⟨{ upRg fun r => { r with stored := [(0x14000, 1)] } with adcs := up.adcs.set 4 { Adc.reset with injBusy := true } }, 4,
    by decide +kernel⟩

theorem witness_survey_conversions_follow_the_sequence_5_next : ∃ (s : State) (n : Nat),
  n < 5 ∧ s.adcRuns n = true ∧ bit (s.stored (adcBase n)) 0 = true ∧ (s.adc n).trace = false ∧ (s.adc n).injBusy = false ∧ (s.adc n).busy = true ∧ (s.adc n).stopping = false ∧ (s.adc n).entry ≠ (s.adc n).passLen :=
  ⟨{ upRg fun r => { r with stored := [(0x14000, 1)] } with adcs := up.adcs.set 4 { Adc.reset with busy := true, entry := 14, passLen := 15 } },
    4, by decide +kernel⟩

theorem witness_survey_conversions_follow_the_sequence_5_last : ∃ (s : State) (n : Nat),
  n < 5 ∧ s.adcRuns n = true ∧ bit (s.stored (adcBase n)) 0 = true ∧ (s.adc n).trace = false ∧ (s.adc n).injBusy = false ∧ (s.adc n).busy = true ∧ (s.adc n).stopping = false ∧ (s.adc n).entry = (s.adc n).passLen ∧ bit (s.stored (adcBase n)) 3 = false :=
  ⟨{ upRg fun r => { r with stored := [(0x14000, 1)] } with adcs := up.adcs.set 4 { Adc.reset with busy := true, entry := 15, passLen := 15 } },
    4, by decide +kernel⟩

theorem witness_survey_conversions_follow_the_sequence_5_again : ∃ (s : State) (n : Nat),
  n < 5 ∧ s.adcRuns n = true ∧ bit (s.stored (adcBase n)) 0 = true ∧ (s.adc n).trace = false ∧ (s.adc n).injBusy = false ∧ (s.adc n).busy = true ∧ (s.adc n).stopping = false ∧ (s.adc n).entry = (s.adc n).passLen ∧ bit (s.stored (adcBase n)) 3 = true :=
  ⟨{ upRg fun r => { r with stored := [(0x14000, 9)] } with adcs := up.adcs.set 4 { Adc.reset with busy := true, entry := 15, passLen := 15 } },
    4, by decide +kernel⟩

theorem witness_throttle_follows_its_triggers_3_below : ∃ (s : State) (i : Nat) (raw : Int),
    s.sampled i = true ∧
    s.corrected i raw < s.tripAt :=
  ⟨{ up with th := { up.th with sensors := [⟨3, 1999, 1999, 1, false, [], true⟩], provisional := false } }, 3, 1300, by decide +kernel⟩

theorem witness_throttle_follows_its_triggers_3_idle : ∃ (s : State) (i : Nat) (raw : Int),
    s.sampled i = true ∧
    s.corrected i raw < s.tripAt ∧
    (∀ y ∈ s.tl.tiles, y.run = none) :=
  ⟨{ up with tl := { up.tl with tiles := [freshTile ⟨0, 3⟩] } }, 0, 500, by decide +kernel⟩

theorem witness_throttle_follows_its_triggers_3_run : ∃ (s : State) (i : Nat) (raw : Int) (id : TileId) (r : CalRun),
    s.sampled i = true ∧
    s.corrected i raw < s.tripAt ∧
    (s.tile id).run = some r :=
  ⟨withTile fun x => { x with run := some ⟨2, true, 4, some 70, 100, 480, some 80, false⟩ }, 0, 500, ⟨0, 3⟩,
    ⟨2, true, 4, some 70, 100, 480, some 80, false⟩, by decide +kernel⟩

theorem witness_throttle_follows_its_triggers_3_trip : ∃ (s : State) (i : Nat) (raw : Int),
    let old := (s.sensor i).getD (freshSensor i raw)
    let reading := s.corrected i raw
    let failed : Bool := reading < -640 || 2400 < reading ||
      100 ≤ (if !s.dieRuns i then 0 else if reading = old.reading then old.same + 1 else 1)
    s.sampled i = true ∧
    s.tripAt ≤ reading ∧
    old.hot = true ∧
    failed = false :=
  ⟨{ up with th := { up.th with sensors := [⟨3, 1999, 1999, 1, true, [], true⟩], provisional := false } }, 3, 2000, by dsimp only; decide +kernel⟩

theorem witness_wakes_return_to_run_1_p0 : ∃ s : State, s.pw.supplied = true ∧ s.pw.stop = none ∧ s.pw.state = .p0 :=
  ⟨up, by decide +kernel⟩

theorem witness_wakes_return_to_run_1_p1 : ∃ (s : State) (port : Nat),
  s.pw.supplied = true ∧ s.pw.stop = none ∧ s.pw.state = .p1 ∧ s.isDrained = false ∧ s.pw.hold = .none ∧ port < 12 ∧ (s.port port).state = .up :=
  ⟨{ upPw fun p => { p with state := .p1 } with fb := { up.fb with ports := up.fb.ports.set 11 { CourierPort.reset with state := .up } } },
    11, by decide +kernel⟩

theorem witness_wakes_return_to_run_1_hold : ∃ s : State,
  s.pw.supplied = true ∧ s.pw.stop = none ∧ s.pw.state = .p1 ∧ (s.isDrained = true ∨ s.pw.hold ≠ .none) :=
  ⟨upPw fun p => { p with state := .p1, hold := .lease }, by decide +kernel⟩

theorem witness_wakes_return_to_run_1_p2 : ∃ (s : State) (port : Nat),
  s.pw.supplied = true ∧ s.pw.stop = none ∧ s.pw.state = .p2 ∧ port < 12 ∧ (s.port port).state = .keepalive :=
  ⟨{ upPw fun p => { p with state := .p2 } with fb := { up.fb with ports := up.fb.ports.set 11 { CourierPort.reset with state := .keepalive } } },
    11, by decide +kernel⟩

theorem witness_wakes_return_to_run_1_p4 : ∃ (s : State) (light lane : Nat),
  s.pw.supplied = true ∧ s.pw.stop = none ∧ (s.pw.state = .p3 ∨ (s.pw.state = .p4 ∧ s.storeBad = none)) ∧ light < 2 ∧ lane ∈ s.pw.upPorts :=
  ⟨upPw fun p => { p with state := .p4, upPorts := [11] }, 1, 11, by decide +kernel⟩

theorem witness_wakes_return_to_run_1_bad : ∃ s : State,
  s.pw.supplied = true ∧ s.pw.stop = none ∧ s.pw.state = .p4 ∧ s.storeBad ≠ none ∧ s.isDrained = false :=
  let ⟨d, h⟩ := some_digest_fails (plainTile 0)
  ⟨{ upPw fun p => { p with state := .p4 } with cl := { up.cl with store := [plainTile d] } }, rfl, rfl, rfl, store_fails rfl h, rfl⟩

theorem witness_power_and_reset_start_the_module_5_trial : ∃ s : State,
    s.arraysAre = true ∧
    s.bt.trialBoot = true ∧
    s.bt.control.trial = s.bt.slot + 1 :=
  ⟨readyBut fun b => { b with trialBoot := true, slot := 1, control := { b.control with trial := 2 } }, ready_arrays _ rfl rfl rfl, rfl, rfl⟩

theorem witness_host_register_frames_answer_1_refused : ∃ s : State, ∃ h : FrameHdr, ∃ p : Bytes,
    let u := s.heard h 0
    let n := (p.length - 8) / 4
    let as := (List.range n).map fun i => fld p 0 8 + 4 * i
    s.takes h 0 16 true (12 ≤ p.length && p.length % 4 == 0) = true ∧
    (∃ a ∈ as, u.mapped a = false) :=
  ⟨up, hdr 12, natLe 8 0x8000 ++ natLe 4 1, by dsimp only; exact ⟨by decide +kernel, ⟨0x8000, by decide +kernel⟩⟩⟩

theorem witness_host_register_frames_answer_1_all : ∃ s : State, ∃ h : FrameHdr, ∃ p : Bytes,
    let n := (p.length - 8) / 4
    let as := (List.range n).map fun i => fld p 0 8 + 4 * i
    s.takes h 0 16 true (12 ≤ p.length && p.length % 4 == 0) = true ∧
    (∀ a ∈ as, physical a = true) :=
  ⟨up, hdr 12, natLe 8 0x5000 ++ natLe 4 1, by dsimp only; decide +kernel⟩

theorem witness_host_register_frames_answer_2_refused : ∃ s : State, ∃ h : FrameHdr, ∃ p : Bytes,
    let u := s.heard h 0
    let as := (List.range (fld p 8 4)).map fun i => fld p 0 8 + 4 * i
    s.takes h 0 17 true (p.length == 12 && 1 ≤ fld p 8 4 && fld p 8 4 ≤ 16384) = true ∧
    (∃ a ∈ as, u.mapped a = false) :=
  ⟨up, hdr 12, natLe 8 0x8000 ++ natLe 4 1, by dsimp only; exact ⟨by decide +kernel, ⟨0x8000, by decide +kernel⟩⟩⟩

theorem witness_host_register_frames_answer_2_all : ∃ s : State, ∃ h : FrameHdr, ∃ p : Bytes,
    let as := (List.range (fld p 8 4)).map fun i => fld p 0 8 + 4 * i
    s.takes h 0 17 true (p.length == 12 && 1 ≤ fld p 8 4 && fld p 8 4 ≤ 16384) = true ∧
    (∀ a ∈ as, physical a = true) :=
  ⟨up, hdr 12, natLe 8 0x5000 ++ natLe 4 1, by dsimp only; decide +kernel⟩

theorem witness_letterboxes_take_one_moment_1_taken : ∃ s : State, ∃ p : Path, ∃ n : Nat, ∃ v : Word,
    let b := s.box n
    n < s.rg.boxes.length ∧
    n < 16 ∧
    ownsBox p n = true ∧
    s.hcoreRuns = true ∧
    s.pathOpen p ∧
    bits v.toNat 0 8 ≠ 0 ∧
    s.boxRefused v.toNat b.addr.toNat = false :=
  ⟨{ upRg fun r => { r with boxes := r.boxes.set 13 { Letterbox.reset with addr := 0x5000 } } with draw := 0 }, .firmware, 13, 0x1001,
    by decide +kernel, by decide +kernel, by decide +kernel, by decide +kernel, by unfold State.pathOpen; decide +kernel, by decide +kernel, by decide +kernel⟩

theorem witness_letterboxes_take_one_moment_1_refused : ∃ s : State, ∃ p : Path, ∃ n : Nat, ∃ v : Word,
    let b := s.box n
    n < s.rg.boxes.length ∧
    n < 16 ∧
    ownsBox p n = true ∧
    s.hcoreRuns = true ∧
    s.pathOpen p ∧
    bits v.toNat 0 8 ≠ 0 ∧
    s.boxRefused v.toNat b.addr.toNat = true :=
  ⟨{ upRg fun r => { r with boxes := r.boxes.set 11 { Letterbox.reset with addr := 0x8000 } } with draw := 0 }, .host, 11, 0x1001,
    by decide +kernel, by decide +kernel, by decide +kernel, by decide +kernel, ⟨by decide +kernel, by decide +kernel⟩, by decide +kernel, by decide +kernel⟩

theorem witness_the_reference_is_traced_hourly_2_passes : ∃ s : State, ∃ refin : List Nat,
    s.cl.busy = true ∧
    (∀ v ∈ refin, 990000 ≤ v ∧ v ≤ 1010000) :=
  ⟨upCl fun c => { c with busy := true }, [990000, 1010000, 1000000, 1000000, 1000000], by decide +kernel⟩

theorem witness_the_reference_is_traced_hourly_2_no_reference : ∃ s : State, ∃ refin : List Nat,
    s.cl.busy = true ∧
    (∃ v ∈ refin, v < 500000) :=
  ⟨upCl fun c => { c with busy := true }, [499999, 1000000, 1000000, 1000000, 1000000], by decide +kernel⟩

theorem witness_the_reference_is_traced_hourly_2_out_of_limits : ∃ s : State, ∃ refin : List Nat,
    s.cl.busy = true ∧
    (∀ v ∈ refin, 500000 ≤ v) ∧
    (∃ v ∈ refin, v < 990000 ∨ 1010000 < v) :=
  ⟨upCl fun c => { c with busy := true }, [500000, 989999, 1000000, 1000000, 1010001], by decide +kernel⟩

theorem witness_throttle_follows_its_triggers_1_first : ∃ s : State,
    s.hcoreRuns = true ∧
    s.th.anyTrig = true ∧
    s.pw.k < 14 ∧
    s.pw.k = 0 :=
  ⟨{ up with th := { up.th with currTrig := true } }, by decide +kernel⟩

theorem witness_throttle_follows_its_triggers_2_last : ∃ s : State,
    s.hcoreRuns = true ∧
    s.th.anyTrig = false ∧
    0 < s.pw.k ∧
    s.pw.k = 1 :=
  ⟨upPw fun p => { p with k := 1 }, by decide +kernel⟩

theorem witness_governor_and_guards_hold_the_power_1_guard : ∃ s : State, ∃ v : Nat, ∃ i : Nat,
    let p := power16 v i
    s.awake = true ∧
    16 * 1250 < p ∧
    s.pw.guardPin = false :=
  ⟨up, 50000, 25002, by dsimp only; decide +kernel⟩

theorem witness_governor_and_guards_hold_the_power_1_guarded : ∃ s : State, ∃ v : Nat, ∃ i : Nat,
    let p := power16 v i
    s.awake = true ∧
    (p ≤ 16 * 1250 ∨ s.pw.guardPin = true) :=
  ⟨upPw fun p => { p with guardPin := true }, 50000, 25002, by dsimp only; decide +kernel⟩

theorem witness_governor_and_guards_hold_the_power_1_ramp : ∃ s : State, ∃ v : Nat, ∃ i : Nat,
    let p := power16 v i
    let pins := (p :: s.pw.pins).take 10
    s.awake = true ∧
    p ≤ 16 * 1250 ∧
    s.pw.guardRail = false ∧
    avgList pins ≤ s.effectiveLimit16 ∧
    s.pw.ramp = true ∧
    avgList s.pw.pins + 2 * s.tdp < avgList pins ∧
    1 < s.pw.duty :=
  ⟨upPw fun p => { p with duty := 2, ramp := true, pins := [0] }, 50000, 8802, by dsimp only; decide +kernel⟩

theorem witness_governor_and_guards_hold_the_power_1_rail : ∃ s : State, ∃ v : Nat, ∃ i : Nat,
    let p := power16 v i
    s.awake = true ∧
    p ≤ 16 * 1250 ∧
    s.pw.guardRail = true :=
  ⟨upPw fun p => { p with guardRail := true }, 50000, 25000, by dsimp only; decide +kernel⟩

theorem witness_governor_and_guards_hold_the_power_1_lower : ∃ s : State, ∃ v : Nat, ∃ i : Nat,
    let p := power16 v i
    let pins := (p :: s.pw.pins).take 10
    s.awake = true ∧
    p ≤ 16 * 1250 ∧
    s.pw.guardRail = false ∧
    s.effectiveLimit16 < avgList pins ∧
    1 < s.pw.duty :=
  ⟨upPw fun p => { p with duty := 2 }, 50000, 22002, by dsimp only; decide +kernel⟩

theorem witness_governor_and_guards_hold_the_power_1_lower_clock : ∃ s : State, ∃ v : Nat, ∃ i : Nat,
    let p := power16 v i
    let pins := (p :: s.pw.pins).take 10
    s.awake = true ∧
    p ≤ 16 * 1250 ∧
    s.pw.guardRail = false ∧
    s.effectiveLimit16 < avgList pins ∧
    s.pw.duty ≤ 1 :=
  ⟨upPw fun p => { p with duty := 1 }, 50000, 22002, by dsimp only; decide +kernel⟩

theorem witness_governor_and_guards_hold_the_power_1_raise : ∃ s : State, ∃ v : Nat, ∃ i : Nat,
    let p := power16 v i
    let pins := (p :: s.pw.pins).take 10
    s.awake = true ∧
    p ≤ 16 * 1250 ∧
    s.pw.guardRail = false ∧
    ¬ (s.effectiveLimit16 < avgList pins ∨ (s.pw.ramp = true ∧ avgList s.pw.pins + 2 * s.tdp < avgList pins)) :=
  ⟨up, 50000, 0, by dsimp only; decide +kernel⟩

theorem witness_dispatch_ports_train_and_say_hello_2_again : ∃ s : State, ∃ d : Nat,
    s.linksPowered = true ∧
    d < 2 ∧
    d < s.dp.ports.length ∧
    (s.dsp d).state = .training ∧
    s.bt.compat = false ∧
    (s.dsp d).fallback = false :=
  ⟨upDp fun d => { d with ports := [openPort, { DspPort.reset with state := .training }] }, 1, by decide +kernel⟩

theorem witness_dispatch_ports_train_and_say_hello_2_fails : ∃ s : State, ∃ d : Nat,
    s.linksPowered = true ∧
    d < 2 ∧
    d < s.dp.ports.length ∧
    (s.dsp d).state = .training ∧
    (s.bt.compat = true ∨ (s.dsp d).fallback = true) :=
  ⟨upDp fun d => { d with ports := [openPort, { DspPort.reset with state := .training, fallback := true }] }, 1, by decide +kernel⟩

theorem witness_flits_are_taken_in_order_and_resent_1_bad : ∃ s : State, ∃ k : Nat, ∃ f : Flit,
    s.courierAlive k = true ∧
    f.fkind ≠ 5 ∧
    f.crcOk = false :=
  ⟨upFb fun f => { f with ports := f.ports.set 11 { CourierPort.reset with state := .up, link := { Link.reset with expected := 4095 } } },
    11, ⟨4095, 0, 0, false, 0, 0, 4, false, bytes 240⟩, by decide +kernel⟩

theorem witness_flits_are_taken_in_order_and_resent_1_gap : ∃ s : State, ∃ k : Nat, ∃ f : Flit,
    let l := (s.port k).link
    s.courierAlive k = true ∧
    f.fkind ≠ 5 ∧
    f.crcOk = true ∧
    f.seq ≠ l.expected :=
  ⟨upFb fun f => { f with ports := f.ports.set 11 { CourierPort.reset with state := .up, link := { Link.reset with expected := 4095 } } },
    11, ⟨0, 0, 0, false, 0, 0, 4, true, bytes 240⟩, by dsimp only; decide +kernel⟩

theorem witness_flits_are_taken_in_order_and_resent_1_whole : ∃ s : State, ∃ k : Nat, ∃ f : Flit,
    let l := (s.port k).link
    s.courierAlive k = true ∧
    f.fkind ≠ 5 ∧
    f.crcOk = true ∧
    f.seq = l.expected ∧
    f.fkind = 4 :=
  ⟨upFb fun f => { f with ports := f.ports.set 11 { CourierPort.reset with state := .up, link := { Link.reset with expected := 4095 } } },
    11, ⟨4095, 0, 0, false, 0, 0, 4, true, bytes 240⟩, by dsimp only; decide +kernel⟩

theorem witness_flits_are_taken_in_order_and_resent_1_idle : ∃ s : State, ∃ k : Nat, ∃ f : Flit,
    let l := (s.port k).link
    s.courierAlive k = true ∧
    f.fkind ≠ 5 ∧
    f.crcOk = true ∧
    f.seq = l.expected ∧
    f.fkind = 0 :=
  ⟨upFb fun f => { f with ports := f.ports.set 11 { CourierPort.reset with state := .up, link := { Link.reset with expected := 4095 } } },
    11, ⟨4095, 0, 0, false, 0, 0, 0, true, bytes 240⟩, by dsimp only; decide +kernel⟩

theorem witness_ports_negotiate_by_adverts_5_up : ∃ s : State, ∃ k : Nat, ∃ a : Advert,
    s.linksPowered = true ∧
    k < 12 ∧
    (s.port k).state = .select ∧
    (s.port k).partnerAdv = some a ∧
    a.coordValid = true ∧
    s.fb.coordValid = true ∧
    s.partnerMatches k a = true :=
  ⟨upFb fun f => { f with coordValid := true, coord := 0, dim := 1, fabricId := 9, ports := f.ports.set 0 { CourierPort.reset with state := .select, trainGen := 2, partnerAdv := some ⟨1, 3, 1, true, 0, 0, 1, 3, 0x1FF, 9, 1, true⟩ } },
    0, ⟨1, 3, 1, true, 0, 0, 1, 3, 0x1FF, 9, 1, true⟩, by decide +kernel⟩

theorem witness_ports_negotiate_by_adverts_5_miswired : ∃ s : State, ∃ k : Nat, ∃ a : Advert,
    s.linksPowered = true ∧
    k < 12 ∧
    (s.port k).state = .select ∧
    (s.port k).partnerAdv = some a ∧
    a.coordValid = true ∧
    s.fb.coordValid = true ∧
    s.partnerMatches k a = false :=
  ⟨upFb fun f => { f with coordValid := true, coord := 0, dim := 1, fabricId := 9, ports := f.ports.set 0 { CourierPort.reset with state := .select, trainGen := 2, partnerAdv := some ⟨1, 3, 1, true, 0, 0, 1, 3, 0x1FF, 8, 1, true⟩ } },
    0, ⟨1, 3, 1, true, 0, 0, 1, 3, 0x1FF, 8, 1, true⟩, by decide +kernel⟩

theorem witness_ports_negotiate_by_adverts_7_first_generation : ∃ s : State, ∃ k : Nat, ∃ a : Advert,
    s.linksPowered = true ∧
    k < 12 ∧
    (s.port k).state = .select ∧
    (s.port k).partnerAdv = some a ∧
    (s.port k).trainGen = 2 ∧
    bit a.gens 0 = true :=
  ⟨upFb fun f => { f with coordValid := true, coord := 0, dim := 1, fabricId := 9, ports := f.ports.set 0 { CourierPort.reset with state := .select, trainGen := 2, partnerAdv := some ⟨1, 3, 1, true, 0, 0, 1, 3, 0x1FF, 9, 1, true⟩ } },
    0, ⟨1, 3, 1, true, 0, 0, 1, 3, 0x1FF, 9, 1, true⟩, by decide +kernel⟩

theorem witness_ports_negotiate_by_adverts_7_fails : ∃ s : State, ∃ k : Nat, ∃ a : Advert,
    s.linksPowered = true ∧
    k < 12 ∧
    (s.port k).state = .select ∧
    (s.port k).partnerAdv = some a ∧
    (s.port k).trainGen = 2 ∧
    bit a.gens 0 = false :=
  ⟨upFb fun f => { f with coordValid := true, coord := 0, dim := 1, fabricId := 9, ports := f.ports.set 0 { CourierPort.reset with state := .select, trainGen := 2, partnerAdv := some ⟨1, 2, 1, true, 0, 0, 1, 3, 0x1FF, 9, 1, true⟩ } },
    0, ⟨1, 2, 1, true, 0, 0, 1, 3, 0x1FF, 9, 1, true⟩, by decide +kernel⟩

theorem witness_the_lease_is_made_renewed_and_ended_2_renewed : ∃ s : State, ∃ h : FrameHdr, ∃ p : Bytes,
    let u := s.heard h 1
    s.takes h 1 2 false (p.length == 64) = true ∧
    u.selectReason h.port p = 0 ∧
    u.leaseLive = true :=
  ⟨up, hdr 64, natLe 1 2 ++ natLe 7 0 ++ natLe 8 0x1FFF ++ natLe 8 7 ++ natLe 40 0, by dsimp only; decide +kernel⟩

theorem witness_steps_are_taken_in_order_of_their_numbers_3_answered : ∃ s : State, ∃ h : FrameHdr, ∃ q,
    let u := s.heard h 0
    s.takes h 0 5 true true = true ∧
    u.queue h.queue = some q ∧
    q.deleting = false ∧
    q.ctx = h.context ∧
    ((q.ownPort = none ∨ q.ownPort = some h.port)) ∧
    u.isDrained = false ∧
    h.seq = q.expected ∧
    q.expected < 2 ^ 32 ∧
    q.waiting.length < 256 ∧
    ((∀ w ∈ q.reorder, w.seq ≠ (q.expected + 1) % 2 ^ 32)) ∧
    h.ackReq = true :=
  ⟨withQueue queue3, { hdr 0 with ackReq := true }, queue3, by dsimp only; decide +kernel⟩

theorem witness_writes_and_reads_reach_the_windows_1_inside : ∃ s : State, ∃ h : FrameHdr, ∃ p : Bytes,
    let u := s.heard h 0
    let a := fld p 0 8
    s.takes h 0 10 true (8 ≤ p.length) = true ∧
    u.inWindows (fun _ => true) a (p.length - 8) = true ∧
    Memory.wf u.sv.mem = true :=
  ⟨windowed, hdr 9, natLe 8 0x01000000FFFF ++ [5], by dsimp only; decide +kernel⟩

theorem witness_writes_and_reads_reach_the_windows_1_outside : ∃ s : State, ∃ h : FrameHdr, ∃ p : Bytes,
    let u := s.heard h 0
    let a := fld p 0 8
    s.takes h 0 10 true (8 ≤ p.length) = true ∧
    u.inWindows (fun _ => true) a (p.length - 8) = false :=
  ⟨windowed, hdr 10, natLe 8 0x01000003FFFF ++ [5, 6], by dsimp only; decide +kernel⟩

theorem witness_writes_and_reads_reach_the_windows_2_inside : ∃ s : State, ∃ h : FrameHdr, ∃ p : Bytes,
    let u := s.heard h 0
    let a := fld p 0 8
    let n := fld p 8 4
    s.takes h 0 11 true (p.length == 16 && 1 ≤ fld p 8 4 && fld p 8 4 ≤ 65536) = true ∧
    u.inWindows (fun _ => true) a n = true :=
  ⟨windowed, hdr 16, natLe 8 0x010000000001 ++ natLe 8 65536, by dsimp only; decide +kernel⟩

theorem witness_writes_and_reads_reach_the_windows_2_outside : ∃ s : State, ∃ h : FrameHdr, ∃ p : Bytes,
    let u := s.heard h 0
    let a := fld p 0 8
    let n := fld p 8 4
    s.takes h 0 11 true (p.length == 16 && 1 ≤ fld p 8 4 && fld p 8 4 ≤ 65536) = true ∧
    u.inWindows (fun _ => true) a n = false :=
  ⟨windowed, hdr 16, natLe 8 0x010000030001 ++ natLe 8 65536, by dsimp only; decide +kernel⟩

theorem witness_level_two_and_intake_follow_the_host_4_part : ∃ s : State, ∃ h : FrameHdr, ∃ p : Bytes, ∃ x : Held,
    let u := s.heard h 0
    s.takes h 0 22 true (8 ≤ p.length) = true ∧
    u.kv.held.filter (fun y => y.phase == .fetching) = [x] ∧
    u.heldOf x.slot = some x ∧
    (∃ g ∈ x.pages, (g.take2 g.size (fld p 0 8) (p.drop 8)).back.length ≠ g.size) :=
  ⟨{ withModel with sv := { up.sv with contexts := [context1], slots := [slot2] }, kv := { up.kv with held := [⟨2, 1, 9, 300, 2, .fetching, [⟨false, 0, 0, false, false, ⟨false, 1, 64⟩, [], [], some 0, [], []⟩], []⟩] } },
    hdr 4359, bytes 4359, ⟨2, 1, 9, 300, 2, .fetching, [⟨false, 0, 0, false, false, ⟨false, 1, 64⟩, [], [], some 0, [], []⟩], []⟩,
    by dsimp only; decide +kernel⟩

theorem witness_level_two_and_intake_follow_the_host_4_whole : ∃ s : State, ∃ h : FrameHdr, ∃ p : Bytes, ∃ x : Held,
    let u := s.heard h 0
    s.takes h 0 22 true (8 ≤ p.length) = true ∧
    u.kv.held.filter (fun y => y.phase == .fetching) = [x] ∧
    u.heldOf x.slot = some x ∧
    (∀ g ∈ x.pages, (g.take2 g.size (fld p 0 8) (p.drop 8)).back.length = g.size) ∧
    u.restoreWaiter x.slot = none :=
  ⟨{ withModel with sv := { up.sv with contexts := [context1], slots := [slot2] }, kv := { up.kv with held := [⟨2, 1, 9, 300, 2, .fetching, [⟨false, 0, 0, false, false, ⟨false, 1, 64⟩, [], [], some 0, [], []⟩], []⟩] } },
    hdr 4360, bytes 4360, ⟨2, 1, 9, 300, 2, .fetching, [⟨false, 0, 0, false, false, ⟨false, 1, 64⟩, [], [], some 0, [], []⟩], []⟩,
    by dsimp only; decide +kernel⟩

theorem witness_level_two_and_intake_follow_the_host_4_restore : ∃ s : State, ∃ h : FrameHdr, ∃ p : Bytes, ∃ x : Held, ∃ e : Nat × Nat,
    let u := s.heard h 0
    s.takes h 0 22 true (8 ≤ p.length) = true ∧
    u.kv.held.filter (fun y => y.phase == .fetching) = [x] ∧
    u.heldOf x.slot = some x ∧
    (∀ g ∈ x.pages, (g.take2 g.size (fld p 0 8) (p.drop 8)).back.length = g.size) ∧
    u.restoreWaiter x.slot = some e :=
  ⟨{ withModel with sv := { (withStep { work with entries := [{ entryWork0 with restoring := true }] }).sv with contexts := [context1], slots := [slot2] }, kv := { up.kv with held := [⟨2, 1, 9, 300, 2, .fetching, [⟨false, 0, 0, false, false, ⟨false, 1, 64⟩, [], [], some 0, [], []⟩], []⟩] } },
    hdr 4360, bytes 4360, ⟨2, 1, 9, 300, 2, .fetching, [⟨false, 0, 0, false, false, ⟨false, 1, 64⟩, [], [], some 0, [], []⟩], []⟩, (7, 0),
    by dsimp only; decide +kernel⟩

theorem witness_dlread_is_answered_by_the_island_1_none : ∃ s : State, ∃ h : FrameHdr, ∃ p : Bytes,
    s.portHears h.port = true ∧
    s.frameStatus h 18 false (p.length == 16) = 0 ∧
    allZero (slice p 2 2) = true ∧
    fld p 0 1 = 1 ∧
    fld p 1 1 ≤ 1 ∧
    1 ≤ fld p 4 4 ∧
    fld p 4 4 ≤ 65520 ∧
    fld p 8 8 + fld p 4 4 ≤ 134217728 ∧
    s.bt.hbmReady = true ∧
    at' s.bt.dumps (fld p 1 1) none = none :=
  ⟨upBt fun b => { b with hbmReady := true, dumps := [none, some ⟨1, 0, 1, 1, [], 50, 0, true, false, 0⟩] }, hdr 16,
    natLe 4 1 ++ natLe 4 65520 ++ natLe 8 0, by decide +kernel⟩

theorem witness_dlread_is_answered_by_the_island_1_read : ∃ s : State, ∃ h : FrameHdr, ∃ p : Bytes,
    s.portHears h.port = true ∧
    s.frameStatus h 18 false (p.length == 16) = 0 ∧
    allZero (slice p 2 2) = true ∧
    fld p 0 1 = 1 ∧
    fld p 1 1 ≤ 1 ∧
    1 ≤ fld p 4 4 ∧
    fld p 4 4 ≤ 65520 ∧
    fld p 8 8 + fld p 4 4 ≤ 134217728 ∧
    s.bt.hbmReady = true ∧
    at' s.bt.dumps (fld p 1 1) none ≠ none :=
  ⟨upBt fun b => { b with hbmReady := true, dumps := [none, some ⟨1, 0, 1, 1, [], 50, 0, true, false, 0⟩] }, hdr 16,
    natLe 4 257 ++ natLe 4 65520 ++ natLe 8 0, by decide +kernel⟩

theorem witness_dlread_is_answered_by_the_island_4_boots : ∃ s : State, ∃ h : FrameHdr, ∃ p : Bytes, ∃ r : ConfigRecord, ∃ i : Image,
    s.portHears h.port = true ∧
    s.frameStatus h 18 false (p.length == 16) = 0 ∧
    allZero (slice p 2 2) = true ∧
    fld p 0 1 = 3 ∧
    s.bt.run ≠ .running ∧
    s.bootsTo r i :=
  ⟨upBt fun b => { b with run := .halted }, hdr 16, natLe 16 3, ConfigRecord.reset, Image.reset, by decide +kernel, by decide +kernel,
    by decide +kernel, by decide +kernel, by decide +kernel, by unfold State.bootsTo; decide +kernel⟩

theorem witness_window_and_queue_commands_complete_2_none : ∃ s : State, ∃ c : CmdFrame,
    let u := s.heard c.hdr 0
    s.commandReady c cmdDeleteWindow = true ∧
    u.sv.windows.find? (fun w => w.id == fld c.args 0 2) = none :=
  ⟨windowed, command (natLe 2 3), by dsimp only; decide +kernel⟩

theorem witness_window_and_queue_commands_complete_2_busy : ∃ s : State, ∃ c : CmdFrame, ∃ w : Window,
    let u := s.heard c.hdr 0
    s.commandReady c cmdDeleteWindow = true ∧
    u.sv.windows.find? (fun w => w.id == fld c.args 0 2) = some w ∧
    u.windowBusy w = true :=
  ⟨{ windowed with ev := { up.ev with ring := some 0x010000020000 } }, command (natLe 2 1), ⟨1, .ring, 0x010000010000, 131072⟩,
    by dsimp only; decide +kernel⟩

theorem witness_window_and_queue_commands_complete_2_free : ∃ s : State, ∃ c : CmdFrame, ∃ w : Window,
    let u := s.heard c.hdr 0
    s.commandReady c cmdDeleteWindow = true ∧
    u.sv.windows.find? (fun w => w.id == fld c.args 0 2) = some w ∧
    u.windowBusy w = false :=
  ⟨windowed, command (natLe 2 1), ⟨1, .ring, 0x010000010000, 131072⟩, by dsimp only; decide +kernel⟩

theorem witness_window_and_queue_commands_complete_3_there : ∃ s : State, ∃ c : CmdFrame,
    let u := s.heard c.hdr 0
    let q := newQueue c.args
    s.commandReady c cmdCreateQueue = true ∧
    (u.queue q.id).isSome = true :=
  ⟨{ windowed with sv := { windowed.sv with contexts := [context1], queues := [queue3] } },
    command (natLe 2 3 ++ natLe 1 1 ++ natLe 1 7 ++ natLe 1 1 ++ natLe 1 4 ++ natLe 1 4 ++ natLe 1 0 ++ natLe 8 0x010000010000 ++ natLe 8 0x010000010400),
    by dsimp only; decide +kernel⟩

theorem witness_window_and_queue_commands_complete_3_no_context : ∃ s : State, ∃ c : CmdFrame,
    let u := s.heard c.hdr 0
    let q := newQueue c.args
    s.commandReady c cmdCreateQueue = true ∧
    u.context q.ctx = none :=
  ⟨windowed,
    command (natLe 2 3 ++ natLe 1 1 ++ natLe 1 7 ++ natLe 1 1 ++ natLe 1 4 ++ natLe 1 4 ++ natLe 1 0 ++ natLe 8 0x010000010000 ++ natLe 8 0x010000010400),
    by dsimp only; decide +kernel⟩

theorem witness_window_and_queue_commands_complete_3_made : ∃ s : State, ∃ c : CmdFrame, ∃ x : Context,
    let u := s.heard c.hdr 0
    let q := newQueue c.args
    s.commandReady c cmdCreateQueue = true ∧
    u.queue q.id = none ∧
    u.context q.ctx = some x ∧
    x.discarding = false ∧
    u.windowMode = false ∧
    overlap q.sub.addr (u.ringBytes q.sub.k) q.comp.addr (u.ringBytes q.comp.k) = false ∧
    (∀ r ∈ u.ringRanges, overlap q.sub.addr (u.ringBytes q.sub.k) r.1 r.2 = false ∧ overlap q.comp.addr (u.ringBytes q.comp.k) r.1 r.2 = false) :=
  ⟨{ windowed with sv := { windowed.sv with contexts := [context1] } },
    command (natLe 2 3 ++ natLe 1 1 ++ natLe 1 7 ++ natLe 1 1 ++ natLe 1 4 ++ natLe 1 4 ++ natLe 1 0 ++ natLe 8 0x010000010000 ++ natLe 8 0x010000010400),
    context1, by dsimp only; decide +kernel⟩

theorem witness_window_and_queue_commands_complete_3_made_by_registers : ∃ s : State, ∃ c : CmdFrame, ∃ x : Context,
    let u := s.heard c.hdr 0
    let q := newQueue c.args
    s.commandReady c cmdCreateQueue = true ∧
    u.queue q.id = none ∧
    u.context q.ctx = some x ∧
    x.discarding = false ∧
    u.windowMode = true :=
  ⟨{ windowed with sv := { windowed.sv with contexts := [context1] }, dp := { up.dp with lease := some { lease with mode := 1 }, last := some { lease with mode := 1 } } },
    command (natLe 2 3 ++ natLe 1 1 ++ natLe 1 7 ++ natLe 1 1 ++ natLe 19 0), context1, by dsimp only; decide +kernel⟩

theorem witness_window_and_queue_commands_complete_4_none : ∃ s : State, ∃ c : CmdFrame,
    let u := s.heard c.hdr 0
    s.commandReady c cmdDeleteQueue = true ∧
    u.queue (fld c.args 0 2) = none :=
  ⟨up, command (natLe 2 3), by dsimp only; decide +kernel⟩

theorem witness_window_and_queue_commands_complete_4_going : ∃ s : State, ∃ c : CmdFrame, ∃ q : Queue,
    let u := s.heard c.hdr 0
    s.commandReady c cmdDeleteQueue = true ∧
    u.queue (fld c.args 0 2) = some q ∧
    q.deleting = true :=
  ⟨withQueue { queue3 with deleting := true }, command (natLe 2 3), { queue3 with deleting := true },
    by dsimp only; decide +kernel⟩

theorem witness_window_and_queue_commands_complete_4_there : ∃ s : State, ∃ c : CmdFrame, ∃ q : Queue,
    let u := s.heard c.hdr 0
    s.commandReady c cmdDeleteQueue = true ∧
    u.queue (fld c.args 0 2) = some q ∧
    q.deleting = false :=
  ⟨withQueue queue3, command (natLe 2 3), queue3, by dsimp only; decide +kernel⟩

theorem witness_context_and_serving_commands_complete_2_none : ∃ s : State, ∃ c : CmdFrame,
    let u := s.heard c.hdr 0
    let x := newContext c.args
    s.commandReady c cmdChangeContext = true ∧
    u.context x.id = none :=
  ⟨withModel,
    command (natLe 1 1 ++ natLe 1 0 ++ natLe 2 256 ++ natLe 4 1 ++ natLe 4 1 ++ natLe 4 0 ++ natLe 4 65536 ++ natLe 4 0 ++ natLe 2 0x3F80 ++ natLe 2 0 ++ natLe 4 0 ++ natLe 8 0),
    by dsimp only; decide +kernel⟩

theorem witness_context_and_serving_commands_complete_2_other_tenant : ∃ s : State, ∃ c : CmdFrame, ∃ old : Context,
    let u := s.heard c.hdr 0
    let x := newContext c.args
    s.commandReady c cmdChangeContext = true ∧
    u.context x.id = some old ∧
    (old.tenant ≠ x.tenant ∨ old.model ≠ x.model ∨ old.discarding = true ∨ u.contextOk x = false) :=
  ⟨{ withModel with sv := { up.sv with contexts := [context1] } },
    command (natLe 1 1 ++ natLe 1 0 ++ natLe 2 256 ++ natLe 4 2 ++ natLe 4 1 ++ natLe 4 0 ++ natLe 4 65536 ++ natLe 4 0 ++ natLe 2 0x3F80 ++ natLe 2 0 ++ natLe 4 0 ++ natLe 8 0),
    context1, by dsimp only; decide +kernel⟩

theorem witness_context_and_serving_commands_complete_2_changed : ∃ s : State, ∃ c : CmdFrame, ∃ old : Context,
    let u := s.heard c.hdr 0
    let x := newContext c.args
    s.commandReady c cmdChangeContext = true ∧
    u.context x.id = some old ∧
    old.tenant = x.tenant ∧
    old.model = x.model ∧
    old.discarding = false ∧
    u.contextOk x = true :=
  ⟨{ withModel with sv := { up.sv with contexts := [context1] } },
    command (natLe 1 1 ++ natLe 1 0 ++ natLe 2 256 ++ natLe 4 1 ++ natLe 4 1 ++ natLe 4 0 ++ natLe 4 65536 ++ natLe 4 0 ++ natLe 2 0x3F80 ++ natLe 2 0 ++ natLe 4 0 ++ natLe 8 0),
    context1, by dsimp only; decide +kernel⟩

theorem witness_context_and_serving_commands_complete_3_none : ∃ s : State, ∃ c : CmdFrame,
    let u := s.heard c.hdr 0
    s.commandReady c cmdDiscardContext = true ∧
    u.context (fld c.args 0 1) = none :=
  ⟨up, command [1], by dsimp only; decide +kernel⟩

theorem witness_context_and_serving_commands_complete_3_there : ∃ s : State, ∃ c : CmdFrame, ∃ x : Context,
    let u := s.heard c.hdr 0
    s.commandReady c cmdDiscardContext = true ∧
    u.context (fld c.args 0 1) = some x :=
  ⟨{ withModel with sv := { up.sv with contexts := [context1] } }, command [1], context1, by dsimp only; decide +kernel⟩

theorem witness_context_and_serving_commands_complete_4_in_use : ∃ s : State, ∃ c : CmdFrame,
    let u := s.heard c.hdr 0
    s.commandReady c cmdSetRegions = true ∧
    (∃ x ∈ u.sv.slots, x.state ≠ .free) :=
  ⟨upSv fun x => { x with slots := [slot2] }, command (natLe 4 20 ++ natLe 4 16384), by dsimp only; decide +kernel⟩

theorem witness_context_and_serving_commands_complete_4_done : ∃ s : State, ∃ c : CmdFrame,
    let u := s.heard c.hdr 0
    let v : State := { u with kv := { u.kv with prefixMib := fld c.args 0 4, level1Mib := fld c.args 4 4, chunks := [], frames := [], pages := [], nodes := [], held := [] } }
    s.commandReady c cmdSetRegions = true ∧
    (∀ x ∈ u.sv.slots, x.state = .free) ∧
    (∀ k, k < 16 → v.regionBytes k ≤ stackBytes) :=
  ⟨up, command (natLe 4 20 ++ natLe 4 16), by dsimp only; decide +kernel⟩

theorem witness_model_and_adapter_commands_complete_1_bad : ∃ s : State, ∃ c : CmdFrame,
    let u := s.heard c.hdr 0
    let n := fld c.args 0 4
    let cfg := u.readMem (fld c.args 8 8) (fld c.args 4 4)
    s.commandReady c cmdLoadModel = true ∧
    parseConfig n cfg = none :=
  ⟨windowed, command (natLe 4 1 ++ natLe 4 16 ++ natLe 8 0x010000000000), by dsimp only; decide +kernel⟩

theorem witness_model_and_adapter_commands_complete_2_there : ∃ s : State, ∃ c : CmdFrame, ∃ m : Model,
    let u := s.heard c.hdr 0
    let n := fld c.args 0 4
    s.commandReady c cmdUnloadModel = true ∧
    u.model n = some m :=
  ⟨withModel, command (natLe 4 1), model1, by dsimp only; decide +kernel⟩

theorem witness_model_and_adapter_commands_complete_2_none : ∃ s : State, ∃ c : CmdFrame,
    let u := s.heard c.hdr 0
    let n := fld c.args 0 4
    s.commandReady c cmdUnloadModel = true ∧
    u.model n = none :=
  ⟨up, command (natLe 4 1), by dsimp only; decide +kernel⟩

theorem witness_model_and_adapter_commands_complete_3_no_model : ∃ s : State, ∃ c : CmdFrame,
    let u := s.heard c.hdr 0
    s.commandReady c cmdLoadAdapter = true ∧
    (u.model (fld c.args 4 4)).filter (fun m => !m.unloading) = none :=
  ⟨windowed, loadAdapter5, by dsimp only; decide +kernel⟩

theorem witness_model_and_adapter_commands_complete_3_bad : ∃ s : State, ∃ c : CmdFrame, ∃ m : Model,
    let u := s.heard c.hdr 0
    let b := u.readMem (fld c.args 16 8) (fld c.args 8 4)
    s.commandReady c cmdLoadAdapter = true ∧
    (u.model (fld c.args 4 4)).filter (fun m => !m.unloading) = some m ∧
    allSome ((List.range (fld c.args 2 2)).map (parseTarget m b)) = none :=
  ⟨adapterState [] [], loadAdapter5, parcelModel, by dsimp only; decide +kernel⟩

theorem witness_model_and_adapter_commands_complete_3_there : ∃ s : State, ∃ c : CmdFrame, ∃ m : Model, ∃ ts : List (Nat × Nat × Nat × Bytes × Bytes), ∃ x : Adapter,
    let u := s.heard c.hdr 0
    let b := u.readMem (fld c.args 16 8) (fld c.args 8 4)
    s.commandReady c cmdLoadAdapter = true ∧
    (u.model (fld c.args 4 4)).filter (fun m => !m.unloading) = some m ∧
    allSome ((List.range (fld c.args 2 2)).map (parseTarget m b)) = some ts ∧
    x = ⟨fld c.args 0 2, m.num, ts, ts.map fun d => u.targetStack m.num (fld c.args 0 2) d.1 d.2.1, false⟩ ∧
    (∃ y ∈ u.sv.adapters, y.id = x.id) :=
  ⟨adapterState adapterMem [adapter5], loadAdapter5, parcelModel, [target8], adapter5, by dsimp only; exact ⟨by decide +kernel, by decide +kernel,
    adapter_is_read _, by decide +kernel, adapter5, by decide +kernel, rfl⟩⟩

theorem witness_model_and_adapter_commands_complete_3_done : ∃ s : State, ∃ c : CmdFrame, ∃ m : Model, ∃ ts : List (Nat × Nat × Nat × Bytes × Bytes), ∃ x : Adapter,
    let u := s.heard c.hdr 0
    let b := u.readMem (fld c.args 16 8) (fld c.args 8 4)
    s.commandReady c cmdLoadAdapter = true ∧
    (u.model (fld c.args 4 4)).filter (fun m => !m.unloading) = some m ∧
    allSome ((List.range (fld c.args 2 2)).map (parseTarget m b)) = some ts ∧
    x = ⟨fld c.args 0 2, m.num, ts, ts.map fun d => u.targetStack m.num (fld c.args 0 2) d.1 d.2.1, false⟩ ∧
    (∀ y ∈ u.sv.adapters, y.id ≠ x.id) ∧
    (∀ k ∈ x.places, x.onStack k ≤ u.stackFree k) :=
  ⟨adapterState adapterMem [], loadAdapter5, parcelModel, [target8], adapter5, by dsimp only; exact ⟨by decide +kernel, by decide +kernel,
    adapter_is_read _, by decide +kernel, by decide +kernel⟩⟩

theorem witness_model_and_adapter_commands_complete_4_there : ∃ s : State, ∃ c : CmdFrame,
    let u := s.heard c.hdr 0
    let n := fld c.args 0 2
    s.commandReady c cmdUnloadAdapter = true ∧
    (∃ x ∈ u.sv.adapters, x.id = n ∧ x.removed = false) :=
  ⟨upSv fun x => { x with adapters := [adapter5] }, command (natLe 2 5), by dsimp only; decide +kernel⟩

theorem witness_model_and_adapter_commands_complete_4_gone : ∃ s : State, ∃ c : CmdFrame,
    let u := s.heard c.hdr 0
    let n := fld c.args 0 2
    s.commandReady c cmdUnloadAdapter = true ∧
    (∀ x ∈ u.sv.adapters, x.id = n → x.removed = true) :=
  ⟨upSv fun x => { x with adapters := [{ adapter5 with removed := true }] }, command (natLe 2 5), by dsimp only; decide +kernel⟩

theorem witness_fabric_and_time_commands_complete_1_in_use : ∃ s : State, ∃ c : CmdFrame,
    let u := s.heard c.hdr 0
    s.commandReady c cmdSetFabric = true ∧
    (∃ o ∈ u.sv.steps, o.cmd.job ≠ 0) :=
  ⟨withStep work, command (natLe 2 1023 ++ natLe 1 10 ++ natLe 1 31 ++ natLe 4 5 ++ natLe 2 1023), by dsimp only; decide +kernel⟩

theorem witness_fabric_and_time_commands_complete_1_set : ∃ s : State, ∃ c : CmdFrame,
    let u := s.heard c.hdr 0
    s.commandReady c cmdSetFabric = true ∧
    (∀ o ∈ u.sv.steps, o.cmd.job = 0) :=
  ⟨withStep { work with cmd := { command0 with job := 0 } },
    command (natLe 2 1023 ++ natLe 1 10 ++ natLe 1 31 ++ natLe 4 5 ++ natLe 2 1023), by dsimp only; decide +kernel⟩

theorem witness_update_reset_and_dump_commands_complete_2_none : ∃ s : State, ∃ c : CmdFrame,
    let u := s.heard c.hdr 0
    s.commandReady c cmdUpdateData = true ∧
    u.bt.staging = none :=
  ⟨up, command (natLe 4 2 ++ natLe 4 0 ++ [7, 8]), by dsimp only; decide +kernel⟩

theorem witness_update_reset_and_dump_commands_complete_2_staged : ∃ s : State, ∃ c : CmdFrame, ∃ g : Staging,
    let u := s.heard c.hdr 0
    s.commandReady c cmdUpdateData = true ∧
    u.bt.staging = some g :=
  ⟨upBt fun b => { b with staging := some ⟨1, 4, []⟩ }, command (natLe 4 2 ++ natLe 4 0 ++ [7, 8]), ⟨1, 4, []⟩,
    by dsimp only; decide +kernel⟩

theorem witness_update_reset_and_dump_commands_complete_3_none : ∃ s : State, ∃ c : CmdFrame,
    let u := s.heard c.hdr 0
    s.commandReady c cmdUpdateCommit = true ∧
    u.bt.staging = none :=
  ⟨up, command [], by dsimp only; decide +kernel⟩

theorem witness_update_reset_and_dump_commands_complete_3_part : ∃ s : State, ∃ c : CmdFrame, ∃ g : Staging, ∃ r : ConfigRecord,
    let u := s.heard c.hdr 0
    s.commandReady c cmdUpdateCommit = true ∧
    u.bt.staging = some g ∧
    u.bt.record = some r ∧
    g.item = none :=
  ⟨upBt fun b => { b with staging := some ⟨1, 4, [(0, [1])]⟩ }, command [], ⟨1, 4, [(0, [1])]⟩, ConfigRecord.reset,
    by dsimp only; decide +kernel⟩

theorem witness_update_reset_and_dump_commands_complete_3_whole : ∃ s : State, ∃ c : CmdFrame, ∃ g : Staging, ∃ r : ConfigRecord, ∃ b : Bytes,
    let u := s.heard c.hdr 0
    s.commandReady c cmdUpdateCommit = true ∧
    u.bt.staging = some g ∧
    u.bt.record = some r ∧
    g.item = some b ∧
    g.kind = 1 :=
  ⟨upBt fun b => { b with staging := some ⟨1, 4, [(0, [1, 2, 3, 4])]⟩ }, command [], ⟨1, 4, [(0, [1, 2, 3, 4])]⟩, ConfigRecord.reset, [1, 2,
    3, 4], by dsimp only; decide +kernel⟩

theorem witness_update_reset_and_dump_commands_complete_5_boots : ∃ s : State, ∃ c : CmdFrame, ∃ r : ConfigRecord, ∃ i : Image,
    let u := s.heard c.hdr 0
    s.commandReady c cmdResetModule = true ∧
    (u.sv.steps = [] ∨ fld c.args 0 1 = 1) ∧
    u.bootsTo r i :=
  ⟨up, command [0], ConfigRecord.reset, Image.reset, by dsimp only; exact ⟨by decide +kernel, by decide +kernel,
    by unfold State.bootsTo; decide +kernel⟩⟩

theorem witness_step_boundaries_come_every2500_ticks_1_p0 : ∃ s : State,
    s.pw.supplied = true ∧
    s.pw.stop = none ∧
    s.pw.state ≠ .p4 ∧
    s.tm.valid = true ∧
    s.pw.state = .p0 :=
  ⟨up, by decide +kernel⟩

theorem witness_step_boundaries_come_every2500_ticks_1_invalid : ∃ s : State,
    s.pw.supplied = true ∧
    s.pw.stop = none ∧
    s.pw.state ≠ .p4 ∧
    s.tm.valid = false ∧
    s.tm.boundFrom ≤ s.tm.tick ∧
    s.pw.state = .p2 :=
  ⟨{ upPw fun p => { p with state := .p2 } with tm := { up.tm with valid := false, boundFrom := 100 } }, by decide +kernel⟩

theorem witness_step_boundaries_come_every2500_ticks_1_p1 : ∃ s : State,
    s.pw.supplied = true ∧
    s.pw.stop = none ∧
    s.pw.state ≠ .p4 ∧
    s.pw.state = .p1 :=
  ⟨upPw fun p => { p with state := .p1 }, by decide +kernel⟩

theorem witness_step_boundaries_come_every2500_ticks_1_p3 : ∃ s : State,
    s.pw.supplied = true ∧
    s.pw.stop = none ∧
    s.pw.state ≠ .p4 ∧
    s.pw.state = .p3 :=
  ⟨upPw fun p => { p with state := .p3 }, by decide +kernel⟩

theorem witness_parcels_are_assembled_and_accepted_3_refused : ∃ s : State, ∃ model : Nat, ∃ index : Nat, ∃ a : Assembly, ∃ h : ParcelHdr,
    s.hcoreRuns = true ∧
    s.wt.assembling.find? (fun a => a.is model index) = some a ∧
    a.header = some h ∧
    a.whole = true ∧
    s.addressed h = true ∧
    s.feature 11 = true ∧
    s.parcelCheck h a.held (maxList (a.pieces.map fun p => p.1 + p.2.length)) ≠ 0 :=
  ⟨upWt fun x => { x with assembling := [⟨1, 3, [(0, bytes 128)], [], 90, true⟩] }, 1, 3, ⟨1, 3, [(0, bytes 128)], [], 90, true⟩, ParcelHdr.parse (bytes 128), by decide +kernel, by decide +kernel, rfl, by decide +kernel⟩

theorem witness_parcels_are_assembled_and_accepted_3_accepted : ∃ s : State, ∃ model : Nat, ∃ index : Nat, ∃ a : Assembly, ∃ h : ParcelHdr,
    s.hcoreRuns = true ∧
    s.wt.assembling.find? (fun a => a.is model index) = some a ∧
    a.header = some h ∧
    a.whole = true ∧
    s.addressed h = true ∧
    s.parcelCheck h a.held (maxList (a.pieces.map fun p => p.1 + p.2.length)) = 0 :=
  ⟨{ withModel with wt := { up.wt with models := [parcelModel], assembling := [⟨1, 3, [(0, parcelBytes)], [], 90, true⟩] } }, 1, 3, ⟨1, 3, [(0,
    parcelBytes)], [], 90, true⟩, ParcelHdr.parse parcelBytes, by decide +kernel, by decide +kernel, rfl, by decide +kernel⟩

theorem witness_programs_run_row_by_row_and_settle_2_worn : ∃ s : State, ∃ id : TileId, ∃ p : Program,
    s.nextProgram (s.tile id) = some p ∧
    s.inRun = true ∧
    s.enabled id = true ∧
    ((s.tile id).prog = none ∨ (s.urgent (s.tile id) p = true ∧ s.loadIdles (s.tile id) = true)) ∧
    s.sealing = false ∧
    s.isDrained = false ∧
    s.progWindow id = true ∧
    (s.urgent (s.tile id) p = true ∨ s.driversOf id.die < 4096) ∧
    (s.dir (id.array p.arr)).wear + 1 = 28000 :=
  ⟨holding2 { freshDir with wear := 27999 } (withTile fun x => { x with progQueue := [mkProgram 2 2 true] }), ⟨0, 3⟩, mkProgram 2 2 true,
    by decide +kernel⟩

theorem witness_held_pages_move_expire_and_exhaust_3_resting : ∃ s : State, ∃ slot : Nat, ∃ h : Held,
    s.firmwareRuns = true ∧
    s.tm.valid = true ∧
    s.heldOf slot = some h ∧
    h.phase = .resting :=
  ⟨upKv fun k => { k with held := [⟨2, 1, 64, 300, 1, .resting, [], []⟩] }, 2, ⟨2, 1, 64, 300, 1, .resting, [], []⟩, by decide +kernel⟩

theorem witness_held_pages_move_expire_and_exhaust_3_moving : ∃ s : State, ∃ slot : Nat, ∃ h : Held,
    s.firmwareRuns = true ∧
    s.tm.valid = true ∧
    s.heldOf slot = some h ∧
    h.phase = .moving :=
  ⟨upKv fun k => { k with held := [⟨2, 1, 64, 300, 1, .moving, [], []⟩] }, 2, ⟨2, 1, 64, 300, 1, .moving, [], []⟩, by decide +kernel⟩

theorem witness_held_pages_move_expire_and_exhaust_5_awake : ∃ s : State,
    s.firmwareRuns = true ∧
    s.dp.expiring = true ∧
    s.sv.steps.all OpenStep.aborted = true ∧
    s.sv.slots.filter (fun x => x.state == .opened) = [] ∧
    (∀ h ∈ s.kv.held, h.phase ≠ .moving) ∧
    s.pw.state = .p0 :=
  ⟨upDp fun d => { d with expiring := true }, by decide +kernel⟩

theorem witness_held_pages_move_expire_and_exhaust_5_asleep : ∃ s : State,
    s.firmwareRuns = true ∧
    s.dp.expiring = true ∧
    s.sv.steps.all OpenStep.aborted = true ∧
    s.sv.slots.filter (fun x => x.state == .opened) = [] ∧
    (∀ h ∈ s.kv.held, h.phase ≠ .moving) ∧
    s.pw.state ≠ .p0 ∧
    s.pw.hold = .none :=
  ⟨{ upPw fun p => { p with state := .p1 } with dp := { up.dp with expiring := true } }, by decide +kernel⟩

theorem witness_arrays_are_scanned_rewritten_and_redigested_2_same : ∃ s : State, ∃ a : ArrId, ∃ raw : List (List (List Int)), ∃ r : CodeRecord,
    let levels := scanLevels (s.scanSet (s.tile a.tid) a.arr) raw
    let back := readBackRecord r levels (deviations r levels) (driftDeltas (relative (deviations r levels)))
    s.inRun = true ∧
    (s.tile a.tid).scans.contains (a.arr, 0) = true ∧
    s.scanCodes a = some r ∧
    back.codeDigest = (s.dir a).codeDigest ∧
    (s.dir a).astate ≠ .unbound :=
  ⟨scanned (scanEntry .inService scanDigest), ⟨0, 3, 2⟩, [], plainRecord, by decide +kernel, by decide +kernel, rfl,
    by rw [first_entry (e := scanEntry .inService scanDigest) rfl, scanEntry_digest]; rfl,
    by rw [first_entry (e := scanEntry .inService scanDigest) rfl, scanEntry_state]; decide +kernel⟩

theorem witness_arrays_are_scanned_rewritten_and_redigested_2_unbound : ∃ s : State, ∃ a : ArrId, ∃ raw : List (List (List Int)), ∃ r : CodeRecord,
    let levels := scanLevels (s.scanSet (s.tile a.tid) a.arr) raw
    let back := readBackRecord r levels (deviations r levels) (driftDeltas (relative (deviations r levels)))
    s.inRun = true ∧
    (s.tile a.tid).scans.contains (a.arr, 0) = true ∧
    s.scanCodes a = some r ∧
    back.codeDigest = (s.dir a).codeDigest ∧
    (s.dir a).astate = .unbound ∧
    s.record a ≠ none :=
  ⟨scanned (scanEntry .unbound scanDigest), ⟨0, 3, 2⟩, [], plainRecord, by decide +kernel, by decide +kernel, rfl,
    by rw [first_entry (e := scanEntry .unbound scanDigest) rfl, scanEntry_digest]; rfl,
    by rw [first_entry (e := scanEntry .unbound scanDigest) rfl, scanEntry_state], nofun⟩

theorem witness_arrays_are_scanned_rewritten_and_redigested_2_other : ∃ s : State, ∃ a : ArrId, ∃ raw : List (List (List Int)), ∃ r : CodeRecord,
    let levels := scanLevels (s.scanSet (s.tile a.tid) a.arr) raw
    let back := readBackRecord r levels (deviations r levels) (driftDeltas (relative (deviations r levels)))
    s.inRun = true ∧
    (s.tile a.tid).scans.contains (a.arr, 0) = true ∧
    s.scanCodes a = some r ∧
    back.codeDigest ≠ (s.dir a).codeDigest ∧
    a.arr ≠ 16 ∧
    (s.dir a).astate = .inService :=
  ⟨scanned (scanEntry .inService otherScanDigest), ⟨0, 3, 2⟩, [], plainRecord, by decide +kernel, by decide +kernel, rfl,
    by rw [first_entry (e := scanEntry .inService otherScanDigest) rfl, scanEntry_digest]; change scanDigest ≠ otherScanDigest
       unfold otherScanDigest; split <;> omega,
    by decide +kernel, by rw [first_entry (e := scanEntry .inService otherScanDigest) rfl, scanEntry_state]⟩

end Sys2Proof.Tests
end

section
/-! PROOFS. O20: what a write of the register file stores on each path (13 R432, R434, R435). First numbers by their bits, then the masks of
the registers, then the value a register takes, then the write itself. -/

set_option Elab.async false

namespace Sys2Proof.Machine

/-! ### Fields of numbers, bit by bit -/

theorem bit_eq_testBit (v k : Nat) : bit v k = v.testBit k := by
  rw [Nat.testBit_eq_decide_div_mod_eq]; exact beq_eq_decide _ _

theorem bits_lt (v lo len : Nat) : bits v lo len < 2 ^ len := Nat.mod_lt _ (by positivity)

theorem testBit_bits (v lo len k : Nat) : (bits v lo len).testBit k = (decide (k < len) && v.testBit (k + lo)) := by
  unfold bits; rw [Nat.testBit_mod_two_pow, Nat.testBit_div_two_pow]

/-- A mask that covers a field lets it through. -/
theorem bits_under (v m lo len : Nat) (h : bits m lo len = 2 ^ len - 1) : bits (under v m) lo len = bits v lo len := by
  have hand : bits (under v m) lo len = bits v lo len &&& bits m lo len := by
    change (v &&& m) / 2 ^ lo % 2 ^ len = _
    rw [Nat.and_div_two_pow, Nat.and_mod_two_pow]; rfl
  rw [hand, h, Nat.and_two_pow_sub_one_eq_mod, Nat.mod_eq_of_lt (bits_lt v lo len)]

/-- A mask that covers a field has each of its bits. -/
theorem testBit_of_covers (m lo len k : Nat) (h : bits m lo len = 2 ^ len - 1) (hlo : lo ≤ k) (hhi : k < lo + len) :
    m.testBit k = true := by
  have hbit := testBit_bits m lo len (k - lo)
  rw [h, Nat.testBit_two_pow_sub_one, Nat.sub_add_cancel hlo] at hbit
  simpa [show k - lo < len by omega] using hbit.symm

/-- `w` with the field of `len` bits at `lo` replaced, as `writtenValue` replaces it. -/
def setField (w lo len x : Nat) : Nat := w - bits w lo len * 2 ^ lo + x * 2 ^ lo

theorem setField_eq (w lo len x : Nat) : setField w lo len x = 2 ^ lo * (2 ^ len * (w / 2 ^ lo / 2 ^ len) + x) + w % 2 ^ lo := by
  have hw := Nat.div_add_mod w (2 ^ lo)
  have hq := Nat.div_add_mod (w / 2 ^ lo) (2 ^ len)
  unfold setField bits
  generalize w / 2 ^ lo = q at *
  generalize w % 2 ^ lo = r at *
  generalize q / 2 ^ len = h at *
  generalize q % 2 ^ len = f at *
  subst hq hw
  rw [show 2 ^ lo * (2 ^ len * h + f) + r = f * 2 ^ lo + (2 ^ lo * (2 ^ len * h) + r) by ring, Nat.add_sub_cancel_left]
  ring

theorem testBit_setField (w lo len x k : Nat) (hx : x < 2 ^ len) :
    (setField w lo len x).testBit k = if lo ≤ k ∧ k < lo + len then x.testBit (k - lo) else w.testBit k := by
  rw [setField_eq, Nat.testBit_two_pow_mul_add _ (Nat.mod_lt _ (by positivity)), Nat.testBit_two_pow_mul_add _ hx]
  by_cases hlow : k < lo
  · rw [if_pos hlow, if_neg (by omega), Nat.testBit_mod_two_pow]; simp [hlow]
  · by_cases hin : k - lo < len
    · rw [if_neg hlow, if_pos hin, if_pos (by omega)]
    · rw [if_neg hlow, if_neg hin, if_neg (by omega), Nat.testBit_div_two_pow, Nat.testBit_div_two_pow]
      congr 1; omega

theorem testBit_setField_outside (w lo len x k : Nat) (hx : x < 2 ^ len) (h : k < lo ∨ lo + len ≤ k) :
    (setField w lo len x).testBit k = w.testBit k := by
  rw [testBit_setField _ _ _ _ _ hx, if_neg (by omega)]

/-- The field that was replaced. -/
theorem bits_setField_same (w lo len x : Nat) (hx : x < 2 ^ len) : bits (setField w lo len x) lo len = x := by
  apply Nat.eq_of_testBit_eq
  intro k
  rw [testBit_bits, testBit_setField _ _ _ _ _ hx]
  by_cases hk : k < len
  · rw [if_pos (by omega)]; simp [hk]
  · have : x.testBit k = false := Nat.testBit_lt_two_pow (hx.trans_le (Nat.pow_le_pow_right (by omega) (by omega)))
    simp [hk, this]

/-- A field beside the one that was replaced. -/
theorem bits_setField_beside (w lo len x lo' len' : Nat) (hx : x < 2 ^ len) (h : lo' + len' ≤ lo ∨ lo + len ≤ lo') :
    bits (setField w lo len x) lo' len' = bits w lo' len' := by
  apply Nat.eq_of_testBit_eq
  intro k
  rw [testBit_bits, testBit_bits, testBit_setField _ _ _ _ _ hx]
  by_cases hk : k < len'
  · rw [if_neg (by omega)]
  · simp [hk]

/-! ### The masks of the registers (13 Tables 13.4 to 13.12) -/

/-- The RW and the RWP bits of a register are different bits, so that the sum of the masks is their union. -/
def RegInfo.masksApart (i : RegInfo) : Bool := i.rw + i.rwp == i.rw ||| i.rwp && i.rw &&& i.rwp == 0

theorem regInfo_all_masksApart (a : Nat) : (regInfo a).all RegInfo.masksApart = true := by
  fun_cases regInfo a
  case case1 | case13 => rfl
  case case2 => fun_cases identityInfo a <;> decide
  case case3 =>
    by_cases ha : a < 0x1800
    · simp only [ha, decide_true]
      fun_cases letterboxInfo ((a - 0x1000) % 0x80) <;> decide
    · simp [ha]
  case case4 => fun_cases eventInfo (a - 0x2000) <;> decide
  case case5 => fun_cases sealInfo (a - 0x3000) <;> decide
  case case6 => fun_cases powerInfo (a - 0x4000) <;> decide
  case case7 => fun_cases thermalInfo (a - 0x5000) <;> decide
  case case8 =>
    fun_cases hostInfo (a - 0x6000)
    case case10 => split <;> decide
    all_goals decide
  case case9 => fun_cases counterInfo (a - 0x7000) <;> decide
  case case10 =>
    fun_cases sadcInfo (a % 0x1000)
    case case6 => split <;> decide
    all_goals decide
  case case11 =>
    fun_cases calInfo (a - 0x20000)
    case case1 => split <;> decide
    all_goals decide
  case case12 => fun_cases deadInfo (a - 0x30000) <;> decide

theorem regInfo_masksApart {a : Nat} {i : RegInfo} (h : regInfo a = some i) : i.rw + i.rwp = i.rw ||| i.rwp ∧ i.rw &&& i.rwp = 0 := by
  have hall := regInfo_all_masksApart a
  rw [h] at hall
  simpa [RegInfo.masksApart] using hall

/-- A writable bit is an RW bit or an RWP bit. -/
theorem testBit_rw_add_rwp {a : Nat} {i : RegInfo} (h : regInfo a = some i) (k : Nat) :
    (i.rw + i.rwp).testBit k = (i.rw.testBit k || i.rwp.testBit k) := by
  rw [(regInfo_masksApart h).1, Nat.testBit_or]

/-- No bit is RW and RWP at once. -/
theorem testBit_rw_of_rwp {a : Nat} {i : RegInfo} (h : regInfo a = some i) {k : Nat} (hk : i.rwp.testBit k = true) :
    i.rw.testBit k = false := by
  have hbit := congrArg (Nat.testBit · k) (regInfo_masksApart h).2
  simpa [hk] using hbit

/-- A register's address is a word of the physical map. -/
theorem physical_of_regInfo {a : Nat} {i : RegInfo} (h : regInfo a = some i) : physical a = true := by
  have hblock : a % 4 = 0 → a < 0x8000 ∨ (0x10000 ≤ a ∧ a < 0x15000) ∨ (0x20000 ≤ a ∧ a < 0x22000) ∨ (0x30000 ≤ a ∧ a < 0x31000) →
      physical a = true := by
    intro h4 hin
    unfold physical
    fun_cases blockOf a
    case case5 => omega
    all_goals simp [h4]
  revert h
  fun_cases regInfo a
  case case1 | case13 => exact nofun
  all_goals exact fun _ => hblock (by omega) (by omega)

/-! ### Registers of the Survey ADCs (15 Tables 15.9, 15.11) -/

theorem regInfo_sadc {a : Nat} (h4 : a % 4 = 0) (hlo : 0x10000 ≤ a) (hhi : a < 0x15000) : regInfo a = sadcInfo (a % 0x1000) := by
  fun_cases regInfo a
  case case10 => rfl
  all_goals omega

/-- SADC_CTL, at the base of its ADC. -/
abbrev AtAdcCtl (a : Nat) : Prop := 0x10000 ≤ a ∧ a < 0x15000 ∧ a % 0x1000 = 0

/-- An entry of the sequence, or the injected one. -/
abbrev AtAdcEntry (a : Nat) : Prop := 0x10000 ≤ a ∧ a < 0x15000 ∧ ((0x40 ≤ a % 0x1000 ∧ a % 0x1000 ≤ 0x7C) ∨ a % 0x1000 = 0xC0)

theorem regInfo_adcCtl {a : Nat} (h : AtAdcCtl a) : regInfo a = some ⟨mask 0 8, mask 10 22, 0⟩ := by
  obtain ⟨hlo, hhi, hoff⟩ := h
  rw [regInfo_sadc (by omega) hlo hhi, hoff]; rfl

theorem regInfo_adcEntry {a : Nat} (h : AtAdcEntry a) (h4 : a % 4 = 0) : ∃ w1, w1 ≤ 1 ∧ regInfo a = some (seqInfo w1) := by
  obtain ⟨hlo, hhi, hoff⟩ := h
  rw [regInfo_sadc h4 hlo hhi]
  rcases hoff with ⟨h40, h7C⟩ | hC0
  · refine ⟨0, by omega, ?_⟩
    unfold sadcInfo
    rw [if_neg (by omega), if_neg (by omega), if_pos ⟨h40, h7C⟩]
  · exact ⟨1, by omega, by rw [hC0]; rfl⟩

/-! ### The value a register takes -/

section
variable {a : Nat} {i : RegInfo} (old v : Nat)

theorem writtenValue_pwrCtl (h : regInfo 0x4004 = some i) :
    let w := under v (i.rw + i.rwp)
    writtenValue 0x4004 old v = setField w 0 14 (if bits w 0 14 = 0 then 0 else min 10000 (max 10 (bits w 0 14))) := by
  unfold writtenValue; rw [h]; rfl

theorem writtenValue_pwrIctl (h : regInfo 0x4018 = some i) :
    let w := under v (i.rw + i.rwp)
    writtenValue 0x4018 old v = setField w 0 16 (min 31250 (max 4000 (bits w 0 16))) := by
  unfold writtenValue; rw [h]; rfl

theorem writtenValue_thermCtl (h : regInfo 0x5020 = some i) :
    let w := under v (i.rw + i.rwp)
    let w1 := setField w 0 12 (min 0x9F0 (max 0x860 (bits w 0 12)))
    writtenValue 0x5020 old v = setField w1 12 9 (min 256 (max 8 (bits w1 12 9))) := by
  unfold writtenValue; rw [h]; rfl

theorem writtenValue_intakeCtl (h : regInfo 0x6000 = some i) :
    let w := under v (i.rw + i.rwp)
    let w1 := setField w 0 9 (min 256 (bits w 0 9))
    writtenValue 0x6000 old v = setField w1 16 14 (min 10000 (max 1 (bits w1 16 14))) := by
  unfold writtenValue; rw [h]; rfl

theorem writtenValue_adcCtl (h : regInfo a = some i) (ha : AtAdcCtl a) :
    let w := under v (i.rw + i.rwp)
    writtenValue a old v = if bits w 1 2 = 3 then setField w 1 2 (bits old 1 2) else w := by
  have hlo := ha.1
  unfold writtenValue; rw [h]; dsimp only
  rw [if_neg (by omega), if_neg (by omega), if_neg (by omega), if_neg (by omega), if_pos ha]; rfl

theorem writtenValue_adcEntry (h : regInfo a = some i) (ha : AtAdcEntry a) :
    let w := under v (i.rw + i.rwp)
    writtenValue a old v = setField w 8 9 (min 256 (max 2 (bits w 8 9))) := by
  obtain ⟨hlo, hhi, hoff⟩ := id ha
  unfold writtenValue; rw [h]; dsimp only
  rw [if_neg (by omega), if_neg (by omega), if_neg (by omega), if_neg (by omega), if_neg (by omega), if_pos ha]; rfl

/-- A register without a limited field takes its writable bits as written. -/
theorem writtenValue_plain (h : regInfo a = some i) (h1 : a ≠ 0x4004) (h2 : a ≠ 0x4018) (h3 : a ≠ 0x5020) (h4 : a ≠ 0x6000)
    (h5 : ¬ AtAdcCtl a) (h6 : ¬ AtAdcEntry a) : writtenValue a old v = under v (i.rw + i.rwp) := by
  unfold writtenValue; rw [h]; dsimp only
  rw [if_neg h1, if_neg h2, if_neg h3, if_neg h4, if_neg h5, if_neg h6]

end

theorem clamp_lt {lo hi x n : Nat} (h : hi < n) : min hi (max lo x) < n := (Nat.min_le_left _ _).trans_lt h

/-- Within the first 30 bits, the bits of limited fields are RW. (Above them `limitedBit` counts the RWP bits of INTAKE_CTL too.) -/
theorem rw_of_limitedBit {a k : Nat} {i : RegInfo} (h : regInfo a = some i) (hk : limitedBit a k = true) (hlt : k < 30) :
    i.rw.testBit k = true := by
  simp only [limitedBit, Bool.or_eq_true, Bool.and_eq_true, beq_iff_eq, decide_eq_true_eq] at hk
  have h4 : a % 4 = 0 := by have := physical_of_regInfo h; simp [physical] at this; exact this.1
  rcases hk with (((⟨rfl, hk⟩ | ⟨rfl, hk⟩) | ⟨rfl, hk⟩) | ⟨rfl, hk⟩) | ⟨⟨hlo, hhi⟩, ⟨⟨hoff, h1⟩, h2⟩ | ⟨⟨hoff, h1⟩, h2⟩⟩
  · cases h; exact testBit_of_covers _ 0 14 k (by decide) (by omega) (by omega)
  · cases h; exact testBit_of_covers _ 0 16 k (by decide) (by omega) (by omega)
  · cases h; exact testBit_of_covers _ 0 21 k (by decide) (by omega) (by omega)
  · cases h
    rcases hk with hk | hk
    · exact testBit_of_covers _ 0 9 k (by decide) (by omega) (by omega)
    · exact testBit_of_covers _ 16 14 k (by decide) (by omega) (by omega)
  · cases (regInfo_adcCtl ⟨hlo, hhi, hoff⟩).symm.trans h
    exact testBit_of_covers _ 1 2 k (by decide) (by omega) (by omega)
  · obtain ⟨w1, -, hw⟩ := regInfo_adcEntry ⟨hlo, hhi, hoff⟩ h4
    cases hw.symm.trans h
    exact testBit_of_covers _ 8 9 k (by show bits (mask 0 7 + mask 8 9) 8 9 = _; decide) (by omega) (by omega)

/-- A bit outside the limited fields is the written one under the register's masks. -/
theorem testBit_writtenValue {a k : Nat} {i : RegInfo} (old v : Nat) (h : regInfo a = some i) (hk : limitedBit a k = true → 30 ≤ k) :
    (writtenValue a old v).testBit k = (v.testBit k && (i.rw + i.rwp).testBit k) := by
  have hunder : (under v (i.rw + i.rwp)).testBit k = (v.testBit k && (i.rw + i.rwp).testBit k) := Nat.testBit_and ..
  simp only [limitedBit, Bool.or_eq_true, Bool.and_eq_true, beq_iff_eq, decide_eq_true_eq] at hk
  rw [← hunder]
  by_cases h1 : a = 0x4004
  · subst h1
    rw [writtenValue_pwrCtl old v h, testBit_setField_outside _ _ _ _ _ (by split; exacts [by norm_num, clamp_lt (by norm_num)]) (by omega)]
  by_cases h2 : a = 0x4018
  · subst h2
    rw [writtenValue_pwrIctl old v h, testBit_setField_outside _ _ _ _ _ (clamp_lt (by norm_num)) (by omega)]
  by_cases h3 : a = 0x5020
  · subst h3
    rw [writtenValue_thermCtl old v h, testBit_setField_outside _ _ _ _ _ (clamp_lt (by norm_num)) (by omega),
      testBit_setField_outside _ _ _ _ _ (clamp_lt (by norm_num)) (by omega)]
  by_cases h4 : a = 0x6000
  · subst h4
    rw [writtenValue_intakeCtl old v h, testBit_setField_outside _ _ _ _ _ (clamp_lt (by norm_num)) (by omega),
      testBit_setField_outside _ _ _ _ _ ((Nat.min_le_left _ _).trans_lt (by norm_num)) (by omega)]
  by_cases h5 : AtAdcCtl a
  · obtain ⟨hlo, hhi, hoff⟩ := id h5
    rw [writtenValue_adcCtl old v h h5]
    split
    · exact testBit_setField_outside _ _ _ _ _ (bits_lt _ _ _) (by omega)
    · rfl
  by_cases h6 : AtAdcEntry a
  · obtain ⟨hlo, hhi, hoff⟩ := id h6
    rw [writtenValue_adcEntry old v h h6, testBit_setField_outside _ _ _ _ _ (clamp_lt (by norm_num)) (by omega)]
  rw [writtenValue_plain old v h h1 h2 h3 h4 h5 h6]

/-! ### What each access code takes -/

theorem writtenValue_rwp {a k : Nat} {i : RegInfo} (old v : Nat) (h : regInfo a = some i) (hk : bit i.rwp k = true) :
    bit (writtenValue a old v) k = bit v k := by
  rw [bit_eq_testBit] at hk ⊢
  rw [bit_eq_testBit, testBit_writtenValue old v h, testBit_rw_add_rwp h, hk, Bool.or_true, Bool.and_true]
  intro hlim
  by_contra hlt
  simpa [testBit_rw_of_rwp h hk] using rw_of_limitedBit h hlim (by omega)

theorem writtenValue_rw {a k : Nat} {i : RegInfo} (old v : Nat) (h : regInfo a = some i) (hk : bit i.rw k = true)
    (hlim : limitedBit a k = false) : bit (writtenValue a old v) k = bit v k := by
  rw [bit_eq_testBit] at hk ⊢
  rw [bit_eq_testBit, testBit_writtenValue old v h (by simp [hlim]), testBit_rw_add_rwp h, hk, Bool.true_or, Bool.and_true]

theorem writtenValue_not_writable {a k : Nat} {i : RegInfo} (old v : Nat) (h : regInfo a = some i) (hk : bit (i.rw + i.rwp) k = false) :
    bit (writtenValue a old v) k = false := by
  rw [bit_eq_testBit] at hk ⊢
  rw [testBit_writtenValue old v h, hk, Bool.and_false]
  intro hlim
  by_contra hlt
  rw [testBit_rw_add_rwp h, Bool.or_eq_false_iff] at hk
  simpa [hk.1] using rw_of_limitedBit h hlim (by omega)

/-! ### The fields with limits (13 Table 13.10, 15 Tables 15.9 to 15.11) -/

theorem writtenValue_autoHold (old v : Nat) :
    bits (writtenValue 0x4004 old v) 0 14 = if bits v 0 14 = 0 then 0 else min 10000 (max 10 (bits v 0 14)) := by
  rw [writtenValue_pwrCtl old v rfl, bits_setField_same, bits_under _ _ _ _ (by decide)]
  split
  exacts [by norm_num, clamp_lt (by norm_num)]

theorem writtenValue_ictlLimit (old v : Nat) : bits (writtenValue 0x4018 old v) 0 16 = min 31250 (max 4000 (bits v 0 16)) := by
  rw [writtenValue_pwrIctl old v rfl, bits_setField_same _ _ _ _ (clamp_lt (by norm_num)), bits_under _ _ _ _ (by decide)]

theorem writtenValue_thermThresh (old v : Nat) : bits (writtenValue 0x5020 old v) 0 12 = min 0x9F0 (max 0x860 (bits v 0 12)) := by
  rw [writtenValue_thermCtl old v rfl, bits_setField_beside _ _ _ _ _ _ (clamp_lt (by norm_num)) (by omega),
    bits_setField_same _ _ _ _ (clamp_lt (by norm_num)), bits_under _ _ _ _ (by decide)]

theorem writtenValue_thermRate (old v : Nat) : bits (writtenValue 0x5020 old v) 12 9 = min 256 (max 8 (bits v 12 9)) := by
  rw [writtenValue_thermCtl old v rfl, bits_setField_same _ _ _ _ (clamp_lt (by norm_num)),
    bits_setField_beside _ _ _ _ _ _ (clamp_lt (by norm_num)) (by omega), bits_under _ _ _ _ (by decide)]

theorem writtenValue_cutWords (old v : Nat) : bits (writtenValue 0x6000 old v) 0 9 = min 256 (bits v 0 9) := by
  rw [writtenValue_intakeCtl old v rfl, bits_setField_beside _ _ _ _ _ _ (clamp_lt (by norm_num)) (by omega),
    bits_setField_same _ _ _ _ ((Nat.min_le_left _ _).trans_lt (by norm_num)), bits_under _ _ _ _ (by decide)]

theorem writtenValue_stale (old v : Nat) : bits (writtenValue 0x6000 old v) 16 14 = min 10000 (max 1 (bits v 16 14)) := by
  rw [writtenValue_intakeCtl old v rfl, bits_setField_same _ _ _ _ (clamp_lt (by norm_num)),
    bits_setField_beside _ _ _ _ _ _ ((Nat.min_le_left _ _).trans_lt (by norm_num)) (by omega), bits_under _ _ _ _ (by decide)]

theorem writtenValue_adcRef {a : Nat} (old v : Nat) (h : AtAdcCtl a) :
    bits (writtenValue a old v) 1 2 = if bits v 1 2 = 3 then bits old 1 2 else bits v 1 2 := by
  have hunder := bits_under v (mask 0 8 + mask 10 22) 1 2 (by decide)
  rw [writtenValue_adcCtl old v (regInfo_adcCtl h) h, hunder]
  split
  exacts [bits_setField_same _ _ _ _ (bits_lt _ _ _), hunder]

theorem writtenValue_adcSample {a : Nat} (old v : Nat) (h : AtAdcEntry a) (h4 : a % 4 = 0) :
    bits (writtenValue a old v) 8 9 = min 256 (max 2 (bits v 8 9)) := by
  obtain ⟨w1, hw1, hreg⟩ := regInfo_adcEntry h h4
  rw [writtenValue_adcEntry old v hreg h, bits_setField_same _ _ _ _ (clamp_lt (by norm_num)), bits_under]
  interval_cases w1 <;> decide

/-! ### One register written -/

theorem regInfo_of_inConfigSet {a : Nat} (h : inConfigSet a = true) :
    (∃ i, regInfo a = some i) ∧ ¬ (0x1000 ≤ a ∧ a < 0x4000) ∧ a < 0x30000 := by
  unfold inConfigSet at h
  cases hreg : regInfo a with
  | none => simp [hreg] at h
  | some i => simp [hreg] at h; exact ⟨⟨i, rfl⟩, by omega, h.2.2⟩

/-- `t` is `s` once the configuration register `a` has taken the value `v`, with the seal `q`. -/
structure ConfigWritten (s t : State) (a v : Nat) (q : Seal) : Prop where
  stored_same : t.stored a = writtenValue a (s.stored a) v
  stored_other : ∀ b, b ≠ a → t.stored b = s.stored b
  dp_eq : a ≠ 0x6000 → t.dp = s.dp
  adcs_eq : a < 0x10000 ∨ 0x15000 ≤ a → t.adcs = s.adcs
  cl_eq : a ≠ 0x21000 → t.cl = s.cl
  frame : t = { s with rg := { s.rg with stored := t.rg.stored, sealed := q }, adcs := t.adcs, dp := t.dp,
                       cl := { s.cl with pendingTrace := t.cl.pendingTrace } }

/-- The parts of the state that a write of a configuration register reaches, by the branches of `putRegister` that remain. -/
theorem putRegister_reaches (s : State) (p : Path) {a : Nat} (v : Nat) (h : inConfigSet a = true) :
    let t := s.putRegister p a v
    (a ≠ 0x6000 → t.dp = s.dp) ∧ (a < 0x10000 ∨ 0x15000 ≤ a → t.adcs = s.adcs) ∧ (a ≠ 0x21000 → t.cl = s.cl) ∧
      t = { s with rg := { s.rg with stored := t.rg.stored }, adcs := t.adcs, dp := t.dp,
                   cl := { s.cl with pendingTrace := t.cl.pendingTrace } } := by
  obtain ⟨⟨i, hreg⟩, hblocks, hlt⟩ := regInfo_of_inConfigSet h
  unfold State.putRegister
  rw [hreg]
  dsimp only
  rw [if_neg (by simp), if_neg (by omega), if_neg (by omega), if_neg (by omega), if_neg (c := a = 0x30010) (by omega)]
  by_cases hintake : a = 0x6000
  · rw [if_pos hintake]
    split <;> exact ⟨fun hne => absurd hintake hne, fun _ => rfl, fun _ => rfl, rfl⟩
  rw [if_neg hintake]
  by_cases hctl : AtAdcCtl a
  · obtain ⟨hlo, hhi, hoff⟩ := id hctl
    have hbase : adcBase ((a - 0x10000) / 0x1000) = a := by unfold adcBase; omega
    rw [if_pos hctl]; unfold State.writeAdcCtl; rw [hbase]
    exact ⟨fun _ => rfl, fun hout => by omega, fun _ => rfl, rfl⟩
  by_cases hinj : 0x10000 ≤ a ∧ a < 0x15000 ∧ a % 0x1000 = 0xC0
  · rw [if_neg hctl, if_pos hinj]
    exact ⟨fun _ => rfl, fun hout => by omega, fun _ => rfl, rfl⟩
  rw [if_neg hctl, if_neg hinj]
  by_cases hcal : a = 0x21000
  · rw [if_pos hcal]
    split <;> exact ⟨fun _ => rfl, fun _ => rfl, fun hne => absurd hcal hne, rfl⟩
  rw [if_neg hcal]
  exact ⟨fun _ => rfl, fun _ => rfl, fun _ => rfl, rfl⟩

theorem putRegister_configWritten (s : State) (p : Path) {a : Nat} (v : Word) (h : inConfigSet a = true) :
    ConfigWritten s (s.putRegister p a v.toNat) a v.toNat s.rg.sealed := by
  obtain ⟨hsame, hother, -⟩ := put_frame s p a v.toNat v.isLt h
  obtain ⟨hdp, hadcs, hcl, hframe⟩ := putRegister_reaches s p v.toNat h
  exact ⟨hsame, hother, hdp, hadcs, hcl, hframe⟩

/-- The opening and the commit around a host's write reach the seal alone. -/
theorem ConfigWritten.sealed {s t : State} {a v : Nat} (h : ConfigWritten s.openSeal t a v s.openSeal.rg.sealed) :
    ConfigWritten s t.commitSeal a v s.hostSeal := by
  obtain ⟨hsame, hother, hdp, hadcs, hcl, hframe⟩ := h
  exact ⟨hsame, hother, hdp, hadcs, hcl, congrArg State.commitSeal hframe⟩

/-- INTAKE_CTL restarts the stale timers when its stored value changes (13 R453). -/
theorem putRegister_intakeCtl (s : State) (p : Path) (v : Nat) :
    let new := writtenValue 0x6000 (s.stored 0x6000) v
    s.putRegister p 0x6000 v = if s.stored 0x6000 = new then s.store 0x6000 new else (s.store 0x6000 new).restartStale := rfl

/-- DL_WIN keeps all 32 bits, and its write does nothing else. -/
theorem putRegister_dlWin (s : State) (p : Path) (v : Word) : s.putRegister p 0x30020 v.toNat = s.store 0x30020 v.toNat := by
  have hall : writtenValue 0x30020 (s.stored 0x30020) v.toNat = v.toNat :=
    (Nat.and_two_pow_sub_one_eq_mod v.toNat 32).trans (Nat.mod_eq_of_lt v.isLt)
  change s.store 0x30020 (writtenValue 0x30020 (s.stored 0x30020) v.toNat) = _
  rw [hall]

/-! ### The three paths (13 R434, R435) -/

theorem exec_registerWrite (p : Path) (a : Nat) (v : Word) (s : State) : exec (.registerWrite p a v) s = .next (s.pathWrite p a v.toNat) := rfl

theorem exec_intakeCtlWrite (p : Path) (v : Word) (s : State) : exec (.intakeCtlWrite p v) s = .next (s.pathWrite p 0x6000 v.toNat) := rfl

theorem exec_dlWinWrite (p : Path) (v : Word) (s : State) : exec (.dlWinWrite p v) s = .next (s.pathWrite p 0x30020 v.toNat) := rfl

theorem pathWrite_firmware {s : State} (a v : Nat) (h : s.firmwareRuns = true) : s.pathWrite .firmware a v = s.putRegister .firmware a v :=
  if_pos h

/-- A host's write stands between an opening and a commit of the seal. -/
theorem pathWrite_host {s : State} {a : Nat} (v : Nat) (hf : s.firmwareRuns = true) (hl : s.leaseLive = true) (ha : physical a = true) :
    s.pathWrite .host a v = (s.openSeal.putRegister .host a v).commitSeal := by
  unfold State.pathWrite; simp [hf, hl, ha, State.hostWrites]

theorem pathWrite_i3c {s : State} {a : Nat} (v : Nat) (hs : s.pw.supplied = true) (ha : s.i3cWrites a = true) :
    s.pathWrite .i3c a v = s.putRegister .i3c a v := by
  unfold State.pathWrite; simp [hs, ha]

theorem pathWrite_i3c_refused {s : State} {a : Nat} (v : Nat) (ha : s.i3cWrites a = false) : s.pathWrite .i3c a v = s := by
  unfold State.pathWrite; simp [ha]

theorem i3cWrites_eq_false {s : State} {a : Nat} (hbox : ¬ (0x1700 ≤ a ∧ a < 0x1800)) (hev : a ≠ 0x2000) (hctl : a ≠ 0x30010)
    (hwin : a ≠ 0x30020) : s.i3cWrites a = false := by
  unfold State.i3cWrites; simp [hev, hctl, hwin]; omega

theorem pathWrite_firmware_unnamed (s : State) {a : Nat} (v : Nat) (h : regInfo a = none) : s.pathWrite .firmware a v = s := by
  have hput : s.putRegister .firmware a v = s := by unfold State.putRegister; rw [h]; rfl
  exact (congrArg (ite _ · s) hput).trans (ite_self s)

/-! ### The clauses of the statement -/

theorem firmware_write_config {s : State} {a : Nat} (v : Word) (h : inConfigSet a = true) (hf : s.firmwareRuns = true) :
    ∃ t, exec (.registerWrite .firmware a v) s = .next t ∧ t.readReg a = t.stored a + t.roValue a ∧
      ConfigWritten s t a v.toNat s.rg.sealed := by
  obtain ⟨⟨i, hreg⟩, -⟩ := regInfo_of_inConfigSet h
  refine ⟨s.putRegister .firmware a v.toNat, by rw [exec_registerWrite, pathWrite_firmware _ _ hf], ?_, putRegister_configWritten s _ v h⟩
  unfold State.readReg; rw [hreg]

theorem host_write_config {s : State} {a : Nat} (v : Word) (h : inConfigSet a = true) (hf : s.firmwareRuns = true)
    (hl : s.leaseLive = true) : ∃ t, exec (.registerWrite .host a v) s = .next t ∧ ConfigWritten s t a v.toNat s.hostSeal := by
  obtain ⟨⟨i, hreg⟩, -⟩ := regInfo_of_inConfigSet h
  exact ⟨(s.openSeal.putRegister .host a v.toNat).commitSeal,
    by rw [exec_registerWrite, pathWrite_host _ hf hl (physical_of_regInfo hreg)], (putRegister_configWritten s.openSeal _ v h).sealed⟩

theorem intakeCtl_write_restarts {s : State} (v : Word) (hf : s.firmwareRuns = true) :
    ∃ t, exec (.intakeCtlWrite .firmware v) s = .next t ∧ t.stored 0x6000 = writtenValue 0x6000 (s.stored 0x6000) v.toNat ∧
      (t.stored 0x6000 ≠ s.stored 0x6000 → ∀ d ∈ t.dp.ports, d.intake0.lastRead = s.stamp ∧ d.intake1.lastRead = s.stamp ∧
        d.intake0.signalled = false ∧ d.intake1.signalled = false) ∧
      (t.stored 0x6000 = s.stored 0x6000 → t.dp = s.dp) := by
  have hsame := (putRegister_configWritten s .firmware (a := 0x6000) v (by decide)).stored_same
  refine ⟨_, by rw [exec_intakeCtlWrite, pathWrite_firmware _ _ hf], hsame, ?_⟩
  rw [hsame, putRegister_intakeCtl]
  split
  case isTrue h => exact ⟨fun hne => absurd h.symm hne, fun _ => rfl⟩
  case isFalse h =>
    refine ⟨fun _ d hd => ?_, fun heq => absurd heq.symm h⟩
    obtain ⟨d0, -, rfl⟩ := List.mem_map.mp hd
    exact ⟨rfl, rfl, rfl, rfl⟩

/-- On each path the write of DL_WIN is its store, the host's between the opening and the commit of the seal. -/
theorem pathWrite_dlWin {s : State} {p : Path} (v : Word) (hi3c : p = .i3c → s.pw.supplied = true) (hopen : p ≠ .i3c → s.pathOpen p) :
    s.pathWrite p 0x30020 v.toNat = if p = .host then (s.openSeal.store 0x30020 v.toNat).commitSeal else s.store 0x30020 v.toNat := by
  cases p with
  | host => rw [pathWrite_host _ (hopen nofun).1 (hopen nofun).2 (by decide), putRegister_dlWin]; rfl
  | firmware => rw [pathWrite_firmware _ _ (hopen nofun), putRegister_dlWin]; rfl
  | i3c => rw [pathWrite_i3c _ (hi3c rfl) (by simp [State.i3cWrites]), putRegister_dlWin]; rfl

theorem dlWin_write_keeps_rest {s : State} {p : Path} (v : Word) (hi3c : p = .i3c → s.pw.supplied = true) (hopen : p ≠ .i3c → s.pathOpen p) :
    ∃ t, exec (.dlWinWrite p v) s = .next t ∧ t.stored 0x30020 = v.toNat ∧ (∀ b, b ≠ 0x30020 → t.stored b = s.stored b) ∧
      t = { s with rg := { s.rg with stored := t.rg.stored, sealed := if p = .host then s.hostSeal else s.rg.sealed } } := by
  rw [exec_dlWinWrite, pathWrite_dlWin v hi3c hopen]
  by_cases hp : p = .host
  · simp only [if_pos hp]
    exact ⟨_, rfl, stored_store_eq s.openSeal _ _ v.isLt, fun b hb => stored_store_ne s.openSeal _ b _ hb, rfl⟩
  · simp only [if_neg hp]
    exact ⟨_, rfl, stored_store_eq s _ _ v.isLt, fun b hb => stored_store_ne s _ b _ hb, rfl⟩

/-- Settles O20: `putRegister` by the branches that a configuration register can reach, and `writtenValue` bit by bit. -/
theorem registerWritesGoByTheirPath : Obligations.RegisterWritesGoByTheirPath := by
  unfold Obligations.RegisterWritesGoByTheirPath
  refine ⟨fun s a v h hf => ?firmware, fun s a v h hf hl => ?host,
    fun a i old v k h => ⟨writtenValue_not_writable old v h, writtenValue_rwp old v h, writtenValue_rw old v h⟩, fun old v => ?limits,
    fun s a v hbox hev hctl hwin => ?i3c, fun s a v h => ?unnamed, fun s v hf => intakeCtl_write_restarts v hf,
    fun s p v => dlWin_write_keeps_rest v⟩
  case firmware =>
    obtain ⟨t, hexec, hread, hsame, hother, hdp, hadcs, hcl, hframe⟩ := firmware_write_config v h hf
    exact ⟨t, hexec, hsame, hread, hother, hdp, hadcs, hcl, hframe⟩
  case host =>
    obtain ⟨t, hexec, hsame, hother, hdp, hadcs, hcl, hframe⟩ := host_write_config v h hf hl
    exact ⟨t, hexec, hsame, hother, hdp, hadcs, hcl, hframe⟩
  case limits =>
    refine ⟨writtenValue_autoHold old v, writtenValue_ictlLimit old v, writtenValue_thermThresh old v, writtenValue_thermRate old v,
      writtenValue_cutWords old v, writtenValue_stale old v, fun n hn => writtenValue_adcRef old v ?_, fun n k hn hk => ?_⟩
    · unfold AtAdcCtl adcBase; omega
    · apply writtenValue_adcSample old v <;> unfold adcBase <;> split <;> omega
  case i3c => rw [exec_registerWrite, pathWrite_i3c_refused _ (i3cWrites_eq_false hbox hev hctl hwin)]
  case unnamed => rw [exec_registerWrite, pathWrite_firmware_unnamed _ _ h]

end Sys2Proof.Machine
end

section
/-! PROOFS. O2, O3, O6, O51: the idle tick, the state after reset, what every command keeps, and the step boundary (01 R18-R24). -/

set_option Elab.async false

namespace Sys2Proof.Machine

/-! ### The clocks `n` ticks later (01 R18, 10 R339, R342) -/

@[simp] theorem Clocks.forward_valid (c : Clocks) (n : Nat) : (c.forward n).valid = c.valid := by
  unfold Clocks.forward; split <;> rfl

@[simp] theorem Clocks.forward_boundFrom (c : Clocks) (n : Nat) : (c.forward n).boundFrom = c.boundFrom := by
  unfold Clocks.forward; split <;> rfl

theorem Clocks.forward_counter_of_invalid {c : Clocks} (n : Nat) (h : c.valid = false) : (c.forward n).counter = c.counter := by
  unfold Clocks.forward; simp [h]

theorem Clocks.forward_counter_of_valid {c : Clocks} (n : Nat) (h : c.valid = true) :
    (c.forward n).counter = if c.pool n ≤ 0 then c.counter + n + c.spent n else c.counter + n - c.spent n := by
  unfold Clocks.forward; simp [h]

theorem Clocks.pool_uncorrected {c : Clocks} (n : Nat) (hc : c.correction = 0) (hr : c.rate = 0) : c.pool n = 0 := by
  unfold Clocks.pool; simp [hc, hr]

/-- Without a correction under way a VALID counter counts the ticks. -/
theorem Clocks.forward_counter_uncorrected {c : Clocks} (n : Nat) (h : c.valid = true) (hc : c.correction = 0) (hr : c.rate = 0) :
    (c.forward n).counter = c.counter + n := by
  have hpool := Clocks.pool_uncorrected n hc hr
  have hspent : c.spent n = 0 := by unfold Clocks.spent; simp [hpool]
  rw [Clocks.forward_counter_of_valid n h, hpool, hspent]; simp

/-- Each increment of a VALID counter is 0, 1 or 2 (10 R342). -/
theorem Clocks.forward_counter_bounds {c : Clocks} (n : Nat) (h : c.valid = true) :
    c.counter ≤ (c.forward n).counter ∧ (c.forward n).counter ≤ c.counter + 2 * n := by
  have hspent := c.spent_le n
  rw [Clocks.forward_counter_of_valid n h]
  split <;> omega

/-! ### The step on an empty queue (log entry 2) -/

theorem step_of_idle {s : State} (h : s.pending = []) : step s = idleTick s := by
  unfold step; rw [h]

/-- Power, no stop, and a state other than P4 Seal: the condition under which the step-tick clock runs (01 R18). -/
theorem clock_runs {s : State} (hsup : s.pw.supplied = true) (hstop : s.pw.stop = none) (hp4 : s.pw.state ≠ .p4) :
    (!s.pw.supplied || s.pw.stop.isSome || s.pw.state == .p4) = false := by
  simp [hsup, hstop, hp4]

theorem idleTick_standing {s : State} (h : s.pw.supplied = false ∨ s.pw.stop ≠ none ∨ s.pw.state = .p4) : idleTick s = .next s := by
  refine if_pos ?_
  rcases h with h | h | h <;> simp [h, Option.isSome_iff_ne_none]

theorem idleTick_running {s : State} (hsup : s.pw.supplied = true) (hstop : s.pw.stop = none) (hp4 : s.pw.state ≠ .p4) :
    idleTick s = if s.tm.valid && s.tm.next.counter > counterMax then .fault .counterWrap else .next { s with tm := s.tm.next } := by
  unfold idleTick; rw [clock_runs hsup hstop hp4]; rfl

/-- Where the counter is INVALID or stays within its 64 bits, the idle step lets one tick pass. -/
theorem idleTick_ticks {s : State} (hsup : s.pw.supplied = true) (hstop : s.pw.stop = none) (hp4 : s.pw.state ≠ .p4)
    (hfits : s.tm.valid = true → s.tm.next.counter < 2 ^ 64) : idleTick s = .next { s with tm := s.tm.next } := by
  rw [idleTick_running hsup hstop hp4]
  refine if_neg fun h => ?_
  obtain ⟨hvalid, hover⟩ := Bool.and_eq_true_iff.mp h
  have := hfits hvalid
  have := of_decide_eq_true hover
  unfold counterMax at this
  omega

theorem idleTick_wraps {s : State} (hsup : s.pw.supplied = true) (hstop : s.pw.stop = none) (hp4 : s.pw.state ≠ .p4)
    (hvalid : s.tm.valid = true) (hover : 2 ^ 64 ≤ s.tm.next.counter) : idleTick s = .fault .counterWrap := by
  have hmax : s.tm.next.counter > counterMax := by unfold counterMax; omega
  rw [idleTick_running hsup hstop hp4]
  exact if_pos (by simp [hvalid, hmax])

/-- Settles O2: the idle step is `Clocks.forward` by one tick, which changes no more increments than ticks pass. -/
theorem anIdleStepIsOneTick : Obligations.AnIdleStepIsOneTick := by
  unfold Obligations.AnIdleStepIsOneTick
  intro s hidle
  rw [step_of_idle hidle]
  refine ⟨idleTick_standing, fun hsup hstop hp4 => ⟨fun hv => ?invalid, fun hv hc hr hlt => ?uncorrected, fun hv hlt => ?corrected,
    fun hv hc hr hlast => ?wrap⟩⟩
  case invalid =>
    exact ⟨_, idleTick_ticks hsup hstop hp4 (by simp [hv]), rfl, Clocks.forward_tick _ 1, Clocks.forward_counter_of_invalid 1 hv,
      (Clocks.forward_valid _ 1).trans hv⟩
  case uncorrected =>
    have hcount : s.tm.next.counter = s.tm.counter + 1 := Clocks.forward_counter_uncorrected 1 hv hc hr
    exact ⟨_, idleTick_ticks hsup hstop hp4 (by omega), rfl, Clocks.forward_tick _ 1, hcount⟩
  case corrected =>
    obtain ⟨hlo, hhi⟩ : s.tm.counter ≤ s.tm.next.counter ∧ s.tm.next.counter ≤ s.tm.counter + 2 := Clocks.forward_counter_bounds 1 hv
    exact ⟨_, idleTick_ticks hsup hstop hp4 (by omega), rfl, Clocks.forward_tick _ 1, hlo, hhi⟩
  case wrap =>
    have hcount : s.tm.next.counter = s.tm.counter + 1 := Clocks.forward_counter_uncorrected 1 hv hc hr
    exact idleTick_wraps hsup hstop hp4 hv (by omega)

/-! ### The state after reset (13 R433, R438, R444, R449) -/

/-- Nothing is listed as stored at reset, so that every register reads its Reset column. -/
theorem reset_stored {a : Nat} {i : RegInfo} (h : regInfo a = some i) : State.reset.stored a = i.reset := by
  unfold State.stored
  rw [h]; rfl

theorem reset_box {n : Nat} (h : n < 16) : State.reset.box n = Letterbox.reset := List.getD_replicate _ h

/-- Settles O3: the register file by `reset_stored`, the letterboxes by `reset_box`; the other parts are fields of `State.reset`. -/
theorem resetLeavesTheResetColumn : Obligations.ResetLeavesTheResetColumn := by
  unfold Obligations.ResetLeavesTheResetColumn
  exact ⟨fun _ _ => reset_stored, rfl, rfl, rfl, rfl, rfl, rfl, rfl, fun _ => reset_box, rfl, rfl, rfl, rfl, memGet_nil, rfl, rfl, rfl⟩

/-! ### What every command keeps (01 R18, 12 R421) -/

/-- The next state of a command follows the state it met: queue, clock, device and soundness. -/
theorem exec_keeps (c : Instr) (s : State) : Kept s (exec c s) :=
  match c with
  | .powerApplied .. => execPowerApplied_keeps
  | .powerRemoved => execPowerRemoved_keeps
  | .powerFailStop .. => execPowerFailStop_keeps
  | .powerFailRecovery => execPowerFailRecovery_keeps
  | .resetN .. => execResetN_keeps
  | .arraysReady => execArraysReady_keeps
  | .firstEverCalibration .. => execFirstEverCalibration_keeps
  | .watchdogWrite .. => execWatchdogWrite_keeps
  | .watchdogExpiry .. => execWatchdogExpiry_keeps
  | .firmwareCrash .. => execFirmwareCrash_keeps
  | .lockstepMismatch => execLockstepMismatch_keeps
  | .helloTimer .. => execHelloTimer_keeps
  | .dispatchTrainingDone .. => execDispatchTrainingDone_keeps
  | .dispatchTrainingTimeout .. => execDispatchTrainingTimeout_keeps
  | .headerCrcFailure .. => execHeaderCrcFailure_keeps
  | .select .. => execSelect_keeps
  | .step .. => execStep_keeps
  | .reorderTimeout .. => execReorderTimeout_keeps
  | .write .. => execWrite_keeps
  | .read .. => execRead_keeps
  | .doorbellSubmission .. => execDoorbellSubmission_keeps
  | .doorbellCompletion .. => execDoorbellCompletion_keeps
  | .heartbeat .. => execHeartbeat_keeps
  | .parcelFrame .. => execParcelFrame_keeps
  | .regwrite .. => execRegwrite_keeps
  | .regread .. => execRegread_keeps
  | .dlreadStatus .. => execDlreadStatus_keeps
  | .dlreadRead .. => execDlreadRead_keeps
  | .dlreadClear .. => execDlreadClear_keeps
  | .dlreadRestart .. => execDlreadRestart_keeps
  | .l2reg .. => execL2reg_keeps
  | .l2data .. => execL2data_keeps
  | .l2getTimeout .. => execL2getTimeout_keeps
  | .intakeStaleTimeout .. => execIntakeStaleTimeout_keeps
  | .leaseExpiry => execLeaseExpiry_keeps
  | .orphanSlotMove => execOrphanSlotMove_keeps
  | .createWindow .. => execCreateWindow_keeps
  | .deleteWindow .. => execDeleteWindow_keeps
  | .createQueue .. => execCreateQueue_keeps
  | .deleteQueue .. => execDeleteQueue_keeps
  | .setEventRing .. => execSetEventRing_keeps
  | .createContext .. => execCreateContext_keeps
  | .changeContext .. => execChangeContext_keeps
  | .discardContext .. => execDiscardContext_keeps
  | .loadModel .. => execLoadModel_keeps
  | .unloadModel .. => execUnloadModel_keeps
  | .loadAdapter .. => execLoadAdapter_keeps
  | .unloadAdapter .. => execUnloadAdapter_keeps
  | .setRegions .. => execSetRegions_keeps
  | .setServing .. => execSetServing_keeps
  | .releaseLease .. => execReleaseLease_keeps
  | .setFabric .. => execSetFabric_keeps
  | .setJobTable .. => execSetJobTable_keeps
  | .releaseJob .. => execReleaseJob_keeps
  | .resetPort .. => execResetPort_keeps
  | .readPorts .. => execReadPorts_keeps
  | .loadTime .. => execLoadTime_keeps
  | .requestCalibration .. => execRequestCalibration_keeps
  | .readStorm .. => execReadStorm_keeps
  | .setPowerState .. => execSetPowerState_keeps
  | .powerEntryTimeout => execPowerEntryTimeout_keeps
  | .attest .. => execAttest_keeps
  | .readIdentity .. => execReadIdentity_keeps
  | .updateBegin .. => execUpdateBegin_keeps
  | .updateData .. => execUpdateData_keeps
  | .updateCommit .. => execUpdateCommit_keeps
  | .resetModule .. => execResetModule_keeps
  | .dump .. => execDump_keeps
  | .sortingRound .. => execSortingRound_keeps
  | .prefixMatchDone .. => execPrefixMatchDone_keeps
  | .pageExhaustionTimeout .. => execPageExhaustionTimeout_keeps
  | .listFetchDone .. => execListFetchDone_keeps
  | .fireLatch .. => execFireLatch_keeps
  | .converterResult .. => execConverterResult_keeps
  | .postmarkComparison .. => execPostmarkComparison_keeps
  | .fireAdd .. => execFireAdd_keeps
  | .outlierAdd .. => execOutlierAdd_keeps
  | .fallbackJobDone .. => execFallbackJobDone_keeps
  | .spotComparisonDone .. => execSpotComparisonDone_keeps
  | .adapterContribution .. => execAdapterContribution_keeps
  | .bankDrainDone .. => execBankDrainDone_keeps
  | .drainArrival .. => execDrainArrival_keeps
  | .lineTimeout .. => execLineTimeout_keeps
  | .stepCommit .. => execStepCommit_keeps
  | .stormHandling => execStormHandling_keeps
  | .stormRecheck => execStormRecheck_keeps
  | .contributionRecord .. => execContributionRecord_keeps
  | .replayNotice .. => execReplayNotice_keeps
  | .activationRecord .. => execActivationRecord_keeps
  | .activationHoldTimeout .. => execActivationHoldTimeout_keeps
  | .moduleDownNotice .. => execModuleDownNotice_keeps
  | .jobAbortNotice .. => execJobAbortNotice_keeps
  | .jobWaitTimeout .. => execJobWaitTimeout_keeps
  | .courierFrameRoute .. => execCourierFrameRoute_keeps
  | .courierParcelFrame .. => execCourierParcelFrame_keeps
  | .routeRecompute .. => execRouteRecompute_keeps
  | .flitReceive .. => execFlitReceive_keeps
  | .flitResendTimeout .. => execFlitResendTimeout_keeps
  | .bridgeFlitTransfer .. => execBridgeFlitTransfer_keeps
  | .portDown .. => execPortDown_keeps
  | .retrainDone .. => execRetrainDone_keeps
  | .retrainTimeout .. => execRetrainTimeout_keeps
  | .advertTimer .. => execAdvertTimer_keeps
  | .advertReceived .. => execAdvertReceived_keeps
  | .detectTimeout port => execDetectTimeout_keeps (port := port)
  | .trainingDone .. => execTrainingDone_keeps
  | .trainingTimeout .. => execTrainingTimeout_keeps
  | .keepaliveTimer .. => execKeepaliveTimer_keeps
  | .timeExchangeStart => execTimeExchangeStart_keeps
  | .timeSync .. => execTimeSync_keeps
  | .timeDelayRequest .. => execTimeDelayRequest_keeps
  | .timeDelayResponse .. => execTimeDelayResponse_keeps
  | .alignmentLost => execAlignmentLost_keeps
  | .stepBoundary => execStepBoundary_keeps
  | .fabricWakeFrame .. => execFabricWakeFrame_keeps
  | .laneEnergyWake .. => execLaneEnergyWake_keeps
  | .wakeLight .. => execWakeLight_keeps
  | .wakeN => execWakeN_keeps
  | .autoHold => execAutoHold_keeps
  | .governorTick .. => execGovernorTick_keeps
  | .railCurrentGuard .. => execRailCurrentGuard_keeps
  | .sensorSample .. => execSensorSample_keeps
  | .throttleStepTimer => execThrottleStepTimer_keeps
  | .interpolationCheck .. => execInterpolationCheck_keeps
  | .parcelAcceptance .. => execParcelAcceptance_keeps
  | .parcelIncompleteTimeout .. => execParcelIncompleteTimeout_keeps
  | .recordBuilt .. => execRecordBuilt_keeps
  | .programStart .. => execProgramStart_keeps
  | .programRowEnd .. => execProgramRowEnd_keeps
  | .programResume .. => execProgramResume_keeps
  | .programmingDeferred .. => execProgrammingDeferred_keeps
  | .programComplete .. => execProgramComplete_keeps
  | .settlingDone .. => execSettlingDone_keeps
  | .rewriteStart .. => execRewriteStart_keeps
  | .directRewriteStart .. => execDirectRewriteStart_keeps
  | .verifyScanDue .. => execVerifyScanDue_keeps
  | .verifyScanDone .. => execVerifyScanDone_keeps
  | .driftOutOfService .. => execDriftOutOfService_keeps
  | .redigest .. => execRedigest_keeps
  | .calibrationAgeTimer .. => execCalibrationAgeTimer_keeps
  | .calibrationExpiry .. => execCalibrationExpiry_keeps
  | .calibrationRunStart .. => execCalibrationRunStart_keeps
  | .calibrationFitDone .. => execCalibrationFitDone_keeps
  | .traceTimer => execTraceTimer_keeps
  | .traceDone .. => execTraceDone_keeps
  | .referenceUntraced => execReferenceUntraced_keeps
  | .heldExpiry .. => execHeldExpiry_keeps
  | .inFieldTestDue .. => execInFieldTestDue_keeps
  | .inFieldTestStart .. => execInFieldTestStart_keeps
  | .inFieldTestForced .. => execInFieldTestForced_keeps
  | .inFieldTestDone .. => execInFieldTestDone_keeps
  | .eccScrub .. => execEccScrub_keeps
  | .sealScan .. => execSealScan_keeps
  | .sealOpenTimeout => execSealOpenTimeout_keeps
  | .sealOpen .. => execSealOpen_keeps
  | .sealCommit .. => execSealCommit_keeps
  | .traceNow .. => execTraceNow_keeps
  | .lbSelWrite .. => execLbSelWrite_keeps
  | .letterboxSnapshotDone .. => execLetterboxSnapshotDone_keeps
  | .evrNewestWrite .. => execEvrNewestWrite_keeps
  | .dlCtlClear .. => execDlCtlClear_keeps
  | .dlCtlRestart .. => execDlCtlRestart_keeps
  | .dlWinWrite .. => execDlWinWrite_keeps
  | .intakeCtlWrite .. => execIntakeCtlWrite_keeps
  | .compHeadWrite .. => execCompHeadWrite_keeps
  | .evtHeadWrite .. => execEvtHeadWrite_keeps
  | .sadcStart .. => execSadcStart_keeps
  | .sadcStop .. => execSadcStop_keeps
  | .sadcGo .. => execSadcGo_keeps
  | .sadcSettled .. => execSadcSettled_keeps
  | .sadcConversionDone .. => execSadcConversionDone_keeps
  | .registerWrite .. => execRegisterWrite_keeps
  | .i3cDynamicAddress .. => execI3cDynamicAddress_keeps
  | .i3cPrivateWrite .. => execI3cPrivateWrite_keeps
  | .i3cPrivateRead .. => execI3cPrivateRead_keeps
  | .extest .. => execExtest_keeps
  | .extestPulse .. => execExtestPulse_keeps
  | .extestTrain .. => execExtestTrain_keeps
  | .samplePreload .. => execSamplePreload_keeps
  | .clamp => execClamp_keeps
  | .highz => execHighz_keeps
  | .idcode => execIdcode_keeps
  | .bypass .. => execBypass_keeps
  | .sysclkLoss => execSysclkLoss_keeps
  | .laneLock .. => execLaneLock_keeps
  | .trstN => execTrstN_keeps
  | .reservedOpcode .. => execReservedOpcode_keeps
  | .reservedFrameType .. => execReservedFrameType_keeps
  | .attentionResult .. => execAttentionResult_keeps
  | .heldPageWritten .. => execHeldPageWritten_keeps
  | .compactionDone .. => execCompactionDone_keeps

/-- Settles O6: three of the four facts that `exec_keeps` states of every command. -/
theorem commandsKeepQueueClockAndIdentity : Obligations.CommandsKeepQueueClockAndIdentity := by
  unfold Obligations.CommandsKeepQueueClockAndIdentity
  intro c s t hexec
  obtain ⟨hpending, htick, hdevice, -⟩ := exec_keeps c s t hexec
  exact ⟨hpending, htick, hdevice⟩

/-! ### Step boundaries (01 R20, R21, R24) -/

theorem boundaryWait_lt (t : Nat) : boundaryWait t < 2500 := Nat.mod_lt _ (by decide)

theorem add_boundaryWait_mod (t : Nat) : (t + boundaryWait t) % 2500 = 0 := by
  unfold boundaryWait; omega

/-- The state with time moved to the next step boundary. -/
def State.toBoundary (s : State) : State :=
  if s.tm.valid then s.counterTo (s.tm.counter + boundaryWait s.boundaryClock) else s.advanceTo (s.tm.tick + boundaryWait s.boundaryClock)

/-- What happens at a step boundary, in the power state of the moment. -/
def State.atBoundary (s : State) : State :=
  let s1 := if s.inRun then s.stepBoundary else s
  if s1.hcoreRuns then { s1 with rg := { s1.rg with mirrorHbm := false, mirrorCourier := false, mirrorDispatch := false } } else s1

theorem exec_stepBoundary {s : State} (hsup : s.pw.supplied = true) (hstop : s.pw.stop = none) (hp4 : s.pw.state ≠ .p4) :
    exec .stepBoundary s = .next s.toBoundary.atBoundary := by
  change execStepBoundary s = _
  unfold execStepBoundary; rw [clock_runs hsup hstop hp4]; rfl

theorem advanceTo_clocks (s : State) (n : Nat) : (s.advanceTo n).tm.valid = s.tm.valid ∧ (s.advanceTo n).tm.boundFrom = s.tm.boundFrom := by
  unfold State.advanceTo
  split
  · exact ⟨Clocks.forward_valid _ _, Clocks.forward_boundFrom _ _⟩
  · exact ⟨rfl, rfl⟩

theorem toBoundary_valid {s : State} (h : s.tm.valid = true) : ∃ m, s.toBoundary = { s with tm := m } ∧ m.valid = true ∧
    m.counter = s.tm.counter + boundaryWait s.boundaryClock ∧ m = (s.counterTo m.counter).tm := by
  obtain ⟨m, heq, hcount, hvalid⟩ := counterTo_spec s (s.tm.counter + boundaryWait s.boundaryClock) h
  have hcount : m.counter = s.tm.counter + boundaryWait s.boundaryClock := by omega
  exact ⟨m, (if_pos h).trans heq, hvalid, hcount, by rw [hcount, heq]⟩

theorem toBoundary_invalid {s : State} (h : s.tm.valid = false) : ∃ m, s.toBoundary = { s with tm := m } ∧ m.valid = false ∧
    m.boundFrom = s.tm.boundFrom ∧ m.tick = s.tm.tick + boundaryWait s.boundaryClock ∧ m = (s.advanceTo m.tick).tm := by
  obtain ⟨m, heq, htick⟩ := advanceTo_spec s (s.tm.tick + boundaryWait s.boundaryClock)
  have htick : m.tick = s.tm.tick + boundaryWait s.boundaryClock := by omega
  obtain ⟨hvalid, hfrom⟩ := advanceTo_clocks s (s.tm.tick + boundaryWait s.boundaryClock)
  rw [heq] at hvalid hfrom
  exact ⟨m, (if_neg (by simp [h])).trans heq, hvalid.trans h, hfrom, htick, by rw [htick, heq]⟩

/-- Time stands at a boundary after the move, which changes the clocks alone. -/
theorem toBoundary_spec (s : State) : ∃ m, s.toBoundary = { s with tm := m } ∧
    s.toBoundary.boundaryClock = s.boundaryClock + boundaryWait s.boundaryClock ∧
    m = (if s.tm.valid then s.counterTo m.counter else s.advanceTo m.tick).tm ∧
    (s.tm.valid = true → m.counter = s.boundaryClock + boundaryWait s.boundaryClock) ∧
    (s.tm.valid = false → s.tm.boundFrom ≤ s.tm.tick → m.tick - s.tm.boundFrom = s.boundaryClock + boundaryWait s.boundaryClock) := by
  cases h : s.tm.valid with
  | true =>
    obtain ⟨m, heq, hvalid, hcount, htm⟩ := toBoundary_valid h
    have hclock : s.boundaryClock = s.tm.counter := if_pos h
    refine ⟨m, heq, ?_, htm, fun _ => by rw [hcount, hclock], nofun⟩
    calc s.toBoundary.boundaryClock = m.counter := by rw [heq]; exact if_pos hvalid
      _ = s.boundaryClock + boundaryWait s.boundaryClock := by rw [hcount, hclock]
  | false =>
    obtain ⟨m, heq, hvalid, hfrom, htick, htm⟩ := toBoundary_invalid h
    have hclock : s.boundaryClock = s.tm.tick - s.tm.boundFrom := if_neg (by simp [h])
    have hzero : s.boundaryClock = 0 → boundaryWait s.boundaryClock = 0 := fun h0 => by rw [h0]; rfl
    refine ⟨m, heq, ?_, htm, nofun, fun _ hle => by omega⟩
    calc s.toBoundary.boundaryClock = m.tick - m.boundFrom := by rw [heq]; exact if_neg (by simp [hvalid])
      _ = s.boundaryClock + boundaryWait s.boundaryClock := by omega

theorem atBoundary_asleep {s : State} (h : s.pw.state = .p2 ∨ s.pw.state = .p3) : s.atBoundary = s := by
  have hrun : s.inRun = false := by rcases h with h | h <;> simp [State.inRun, h]
  have hcore : s.hcoreRuns = false := by rcases h with h | h <;> simp [State.hcoreRuns, h]
  unfold State.atBoundary
  simp [hrun, hcore]

section
variable {s : State} (hsup : s.pw.supplied = true) (hstop : s.pw.stop = none)
include hsup hstop

theorem atBoundary_p0 (h : s.pw.state = .p0) : s.atBoundary =
    { s.stepBoundary with rg := { s.rg with
        mirrorA := [false, false, false, false], mirrorHbm := false, mirrorCourier := false, mirrorDispatch := false } } := by
  have hrun : s.inRun = true := by simp [State.inRun, hsup, hstop, h]
  have hcore : s.stepBoundary.hcoreRuns = true := by simp [State.hcoreRuns, State.stepBoundary, hsup, hstop, h]
  unfold State.atBoundary
  simp only [hrun, hcore, if_true]
  rfl

theorem atBoundary_p1 (h : s.pw.state = .p1) : s.atBoundary =
    { s with rg := { s.rg with mirrorHbm := false, mirrorCourier := false, mirrorDispatch := false } } := by
  have hrun : s.inRun = false := by simp [State.inRun, h]
  have hcore : s.hcoreRuns = true := by simp [State.hcoreRuns, hsup, hstop, h]
  unfold State.atBoundary
  simp [hrun, hcore]

end

/-- A boundary leaves the clocks, serving, boot, events and weights as they are. -/
theorem atBoundary_frame (s : State) : s.atBoundary.tm = s.tm ∧ s.atBoundary.sv = s.sv ∧ s.atBoundary.bt = s.bt ∧
    s.atBoundary.ev = s.ev ∧ s.atBoundary.wt = s.wt := by
  unfold State.atBoundary
  dsimp only
  split <;> split <;> exact ⟨rfl, rfl, rfl, rfl, rfl⟩

theorem boundaryClock_of_tm {s t : State} (h : t.tm = s.tm) : t.boundaryClock = s.boundaryClock := by
  unfold State.boundaryClock; rw [h]

/-- Trims that wait take effect at a boundary, the others stand (07 R208). -/
theorem stepBoundary_trims (s : State) {n : Nat} (hn : n < 4) :
    at' s.stepBoundary.cl.trims n (0, 0) = (at' s.cl.nextTrims n none).getD (at' s.cl.trims n (0, 0)) := by
  change ((List.range 4).map fun n => (at' s.cl.nextTrims n none).getD (at' s.cl.trims n (0, 0))).getD n (0, 0) = _
  simp [List.getD_eq_getElem?_getD, hn]

/-- Settles O51: the move of time by `toBoundary_spec`, then the effects in each power state. -/
theorem stepBoundariesComeEvery2500Ticks : Obligations.StepBoundariesComeEvery2500Ticks := by
  unfold Obligations.StepBoundariesComeEvery2500Ticks
  intro s hsup hstop hp4
  obtain ⟨m, heq, hclock, htm, hcounter, htick⟩ := toBoundary_spec s
  have hwait := boundaryWait_lt s.boundaryClock
  have hmod := add_boundaryWait_mod s.boundaryClock
  obtain ⟨hclocks, hframe⟩ := atBoundary_frame s.toBoundary
  rw [← boundaryClock_of_tm hclocks] at hclock
  rw [heq] at hclocks hframe hclock
  obtain ⟨hsv, hbt, hev, hwt⟩ := hframe
  refine ⟨_, heq ▸ exec_stepBoundary hsup hstop hp4, by rw [hclock, hmod], by omega, by omega, by rw [hclocks]; exact htm,
    fun hv => ?counter, fun hv hle => ?tick, hsv, hbt, hev, hwt, fun hp0 => ?run, fun hp0 => ?mirrors, fun hp1 => ?hold, fun hasleep => ?asleep⟩
  case counter => rw [hclocks, hcounter hv, hmod]
  case tick => rw [hclocks, htick hv hle, hmod]
  case run =>
    rw [atBoundary_p0 (s := { s with tm := m }) hsup hstop hp0]
    exact ⟨rfl, rfl, fun n hn => stepBoundary_trims _ hn⟩
  case mirrors => rw [atBoundary_p0 (s := { s with tm := m }) hsup hstop hp0]
  case hold =>
    rw [atBoundary_p1 (s := { s with tm := m }) hsup hstop hp1]
    exact ⟨rfl, rfl, rfl⟩
  case asleep => rw [atBoundary_asleep (s := { s with tm := m }) hasleep]

end Sys2Proof.Machine
end

section
/-! PROOFS. O56: a fire from the lists it waits for, over its boundary and latch, the converters and the postmark check, to its bank, and the
outlier lane (02 R47-R63, 04 R106, R117, 05 R143, 07 R215). First the state read after one update, then each of the six commands. -/

set_option Elab.async false

namespace Sys2Proof.Machine

/-! ### Regions, tiles and banks after an update -/

/-- A correction unit read after its own update. -/
theorem region_mod (s : State) (die unit : Nat) (f : Region → Region) :
    (s.modRegion die unit f).region die unit = { f (s.region die unit) with die := die, unit := unit } := by
  unfold State.modRegion State.setRegion State.region
  dsimp only
  rw [find_putBy _ _ _ (by simp)]; rfl

/-- The tiles stand where the tile part does. -/
theorem tile_of_tl {s t : State} (h : t.tl = s.tl) (id : TileId) : t.tile id = s.tile id := by
  unfold State.tile; rw [h]

/-- A tile read after an update that leaves its name. -/
theorem tile_mod_of_id {s : State} {id : TileId} {f : Tile → Tile} (h : (f (s.tile id)).id = (s.tile id).id) :
    (s.modTile id f).tile id = f (s.tile id) := by
  have hid := h.trans (tile_id s id)
  rw [tile_mod]
  generalize f (s.tile id) = x at hid
  subst hid; rfl

@[simp] theorem Tile.bank_setBank (t : Tile) (b : Nat) (k : Bank) : (t.setBank b k).bank b = k := by
  unfold Tile.bank Tile.setBank; split <;> rfl

/-- A bank read after it is set. -/
theorem bank_modTile_setBank (s : State) (id : TileId) (b : Nat) (k : Tile → Bank) :
    ((s.modTile id fun x => x.setBank b (k x)).tile id).bank b = k (s.tile id) := by
  rw [tile_mod]; exact Tile.bank_setBank _ b _

/-- The comparisons that selectLast adds stand in the regions alone. -/
theorem selectLast_tiles (s : State) (tag : Nat) : (s.selectLast tag).tl.tiles = s.tl.tiles := by
  have spots (l : List SpotJob) : (l.foldl (fun st j => st.modRegion j.die (j.tile / 256) fun r => { r with spots := r.spots ++ [j] }) s).tl.tiles
      = s.tl.tiles := foldl_keep (fun x => x.tl.tiles) _ l s fun _ _ => rfl
  unfold State.selectLast
  split
  · rfl
  · dsimp only
    split
    · rfl
    · exact spots _

theorem selectLast_tile (s : State) (tag : Nat) (id : TileId) : (s.selectLast tag).tile id = s.tile id := by
  unfold State.tile; rw [selectLast_tiles]

/-! ### Fetched lists and the room for them (04 R106, log entry 61) -/

theorem cacheRoom_subset (s : State) (need n : Nat) (l : List CachedLists) : ∀ y ∈ s.cacheRoom need n l, y ∈ l := by
  induction n generalizing l with
  | zero => exact fun _ h => h
  | succ n ih =>
    intro y h
    unfold State.cacheRoom at h
    split at h
    · exact h
    · split at h
      · exact List.mem_of_mem_filter (ih _ y h)
      · exact h

/-- Lists of an array that an open step names do not leave to make room. -/
theorem cacheRoom_keeps_named (s : State) (need n : Nat) (l : List CachedLists) {y : CachedLists} (hy : y ∈ l)
    (hnamed : s.arrayNamed y.arr = true) :
    y ∈ s.cacheRoom need n l := by
  induction n generalizing l with
  | zero => exact hy
  | succ n ih =>
    unfold State.cacheRoom
    split
    · exact hy
    · split
      next e he =>
        have hfree : s.arrayNamed e.arr = false := by simpa using List.find?_some he
        have hne : y ≠ e := by rintro rfl; rw [hnamed] at hfree; cases hfree
        exact ih _ (List.mem_filter.mpr ⟨hy, by simpa using hne⟩)
      next => exact hy

/-- The lists that stay in the cache as those of an array arrive. -/
def State.listsKept (s : State) (a : ArrId) : List CachedLists :=
  let g := s.region a.die (unitOf a.tid)
  s.cacheRoom (s.cacheBytes [s.fetchedLists a]) g.cache.length (g.cache.filter fun y => y.arr != a)

theorem listsKept_subset {s : State} {a : ArrId} : ∀ y ∈ s.listsKept a, y ∈ (s.region a.die (unitOf a.tid)).cache :=
  fun y h => List.mem_of_mem_filter (cacheRoom_subset s _ _ _ y h)

theorem listsKept_of_named {s : State} {a : ArrId} {y : CachedLists} (hy : y ∈ (s.region a.die (unitOf a.tid)).cache) (hne : y.arr ≠ a)
    (hnamed : s.arrayNamed y.arr = true) : y ∈ s.listsKept a :=
  cacheRoom_keeps_named s _ _ _ (List.mem_filter.mpr ⟨hy, by simpa using hne⟩) hnamed

/-- The lists enter the cache where there is room; else the cache loses what could leave, and the fetch goes on. -/
theorem exec_listFetchDone {s : State} {a : ArrId} {r : CodeRecord} (hrun : s.inRun = true) (hrec : s.record a = some r)
    (hfetch : (s.region a.die (unitOf a.tid)).fetching.contains a = true) :
    exec (.listFetchDone a) s = if s.cacheBytes (s.listsKept a) + s.cacheBytes [s.fetchedLists a] ≤ listCacheBytes
      then .next (s.modRegion a.die (unitOf a.tid) fun x =>
        { x with fetching := x.fetching.filter (fun y => y != a), cache := s.fetchedLists a :: s.listsKept a })
      else .next (s.modRegion a.die (unitOf a.tid) fun x => { x with cache := s.listsKept a }) := by
  refine if_neg ?_
  rw [hrun, hrec, hfetch]; simp

/-! ### The fire boundary (02 R49) -/

theorem modTile_slotNo {s : State} {j : TileId} {f : Tile → Tile} (id : TileId)
    (hf : ∀ x, (f x).slotNo = x.slotNo := by exact fun _ => rfl) :
    ((s.modTile j f).tile id).slotNo = (s.tile id).slotNo :=
  tile_keep Tile.slotNo s j id f (fun _ _ => rfl) hf

theorem programUnderCover_slotNo (s : State) (j : TileId) (k : Nat) (id : TileId) :
    ((s.programUnderCover j k).tile id).slotNo = (s.tile id).slotNo :=
  modTile_slotNo id

theorem idleSpare_slotNo (s : State) (j id : TileId) : ((s.idleSpare j).tile id).slotNo = (s.tile id).slotNo := by
  unfold State.idleSpare
  rw [tile_of_tl (State.modDir_tl _ _ _)]
  exact modTile_slotNo id

theorem askRewrite_slotNo (s : State) (a : ArrId) (id : TileId) : ((s.askRewrite a).tile id).slotNo = (s.tile id).slotNo := by
  unfold State.askRewrite
  split
  · rfl
  · exact modTile_slotNo id

theorem uncover_slotNo (s : State) (a : ArrId) (id : TileId) : ((s.uncover a).tile id).slotNo = (s.tile id).slotNo := by
  have hdrift : ((s.zeroDrift a).tile id).slotNo = (s.tile id).slotNo :=
    zeroDrift_keep Tile.slotNo (fun _ _ => rfl) (fun _ _ => rfl) (fun _ _ => rfl) s a id
  unfold State.uncover
  split
  · rfl
  · dsimp only
    split
    · exact hdrift
    · split
      · exact hdrift
      · exact (askRewrite_slotNo _ a id).trans hdrift

theorem applyStandIn_slotNo (s : State) (j id : TileId) : ((s.applyStandIn j).tile id).slotNo = (s.tile id).slotNo := by
  unfold State.applyStandIn
  dsimp only
  split
  case h_1 => rfl
  case h_2 k _ =>
    split
    · exact (programUnderCover_slotNo _ j k id).trans (modTile_slotNo id)
    · exact modTile_slotNo id
  case h_3 =>
    split
    · exact modTile_slotNo id
    · split
      · exact (idleSpare_slotNo _ j id).trans ((uncover_slotNo _ _ id).trans (modTile_slotNo id))
      · exact (uncover_slotNo _ _ id).trans (modTile_slotNo id)

theorem applyNext_slotNo (s : State) (j id : TileId) : ((s.applyNext j).tile id).slotNo = (s.tile id).slotNo := by
  unfold State.applyNext
  extract_lets _ s1
  have hset : (s1.tile id).slotNo = (s.tile id).slotNo := modTile_slotNo id
  exact hset

/-- A boundary counts the tile's slot. -/
theorem boundary_slotNo (s : State) (id : TileId) : ((s.boundary id).tile id).slotNo = (s.tile id).slotNo + 1 := by
  unfold State.boundary
  rw [tile_mod]
  change (((s.applyStandIn id).applyNext id).tile id).slotNo + 1 = _
  rw [applyNext_slotNo, applyStandIn_slotNo]

theorem exec_fireLatch {s : State} {id : TileId} (hen : s.enabled id = true) (hrun : s.inRun = true) (harr : (s.tile id).array = none)
    (hentry : s.enteringP1 = false) : exec (.fireLatch id) s =
      if (s.boundary id).isDrained || ((s.boundary id).tile id).test.running then .next (s.boundary id)
      else .next ((s.boundary id).chooseSlot id (s.tile id).slotNo).stampLines := by
  refine if_neg ?_
  rw [hen, hrun, harr, hentry]; simp

/-! ### The slots of a calibration run (07 R215, R223) -/

/-- The duty and the scans owed, as a slot is opened. -/
def State.openSlot (s : State) (id : TileId) (n : Nat) : State :=
  s.modTile id fun x =>
    { x with dutyUsed := if n % 16 = 0 then x.dutyUsed - s.pw.duty else x.dutyUsed,
             scanOwed := (x.scanOwed || n % 64 == 8) && x.scanReady.isSome }

theorem openSlot_tile (s : State) (id : TileId) (n : Nat) : (s.openSlot id n).tile id =
    { s.tile id with dutyUsed := if n % 16 = 0 then (s.tile id).dutyUsed - s.pw.duty else (s.tile id).dutyUsed,
                     scanOwed := ((s.tile id).scanOwed || n % 64 == 8) && (s.tile id).scanReady.isSome } :=
  tile_mod_of_id rfl

/-- Which compute fire goes next depends on neither the duty nor the scans. -/
theorem pairBegun_openSlot (s : State) (id : TileId) (n : Nat) : (s.openSlot id n).pairBegun id = s.pairBegun id := by
  unfold State.pairBegun
  rw [openSlot_tile]
  rfl

/-- Where no repeat waits and no pair is begun, every sixteenth slot goes to a run that is due. -/
theorem chooseSlot_run {s : State} {id : TileId} {n : Nat} (hrepeat : (s.tile id).repeatDue = none) (hpair : s.pairBegun id = false)
    (hdue : s.runDue (s.tile id) = true) (hn : n % 16 = 0) : s.chooseSlot id n = (s.openSlot id n).runFire id := by
  have hrep : ((s.openSlot id n).tile id).repeatDue = none := by rw [openSlot_tile]; exact hrepeat
  have hdue' : (s.openSlot id n).runDue ((s.openSlot id n).tile id) = true := by rw [openSlot_tile]; exact hdue
  have hpair' : (s.openSlot id n).pairBegun id = false := (pairBegun_openSlot s id n).trans hpair
  unfold State.chooseSlot
  extract_lets s0 t again low c
  have hagain : again = none := by simp only [again, show t.repeatDue = none from hrep]; rfl
  have hlow : low = (s0, false) := if_neg (by rw [show s0.pairBegun id = false from hpair']; simp)
  have hrun : n % 16 = 0 ∧ s0.runDue t = true := ⟨hn, hdue'⟩
  rw [hagain, hlow]
  exact if_pos hrun

/-- A run with one more fire: the first notes its time and the tile's temperature. -/
def State.runCounted (s : State) (id : TileId) (r : CalRun) : CalRun :=
  { r with fires := r.fires + 1, started := if r.fires == 0 then s.stamp else r.started, temp := if r.fires == 0 then s.tileTemp id else r.temp }

/-- A fire of a run changes of its tile the run and the input registers alone. -/
theorem runFire_tile {s : State} {id : TileId} {r : CalRun} (hrun : (s.tile id).run = some r) :
    (s.runFire id).tile id = { s.tile id with run := some (s.runCounted id r), inputRegs := (runInput r.fires).1 } := by
  unfold State.runFire
  rw [hrun]
  dsimp only
  split
  · exact (tile_of_tl (State.modFranking_tl _ _ _) id).trans (tile_mod_of_id rfl)
  · exact tile_mod_of_id rfl

/-! ### Conversion (02 R47, R51, 04 R112) -/

section Conversion

variable {s : State} {t : TileId} {codes : List Int} {flags : List Bool} {fl : Flight}
  (harr : (s.tile t).array = some fl) (hscaler : (s.tile t).scaler = none)

include harr hscaler

theorem exec_converterResult_null (hnull : fl.null = true) : exec (.converterResult t codes flags) s =
    .next (s.modTile t fun x => { x with array := none, scaler := some { fl with converted := true } }) := by
  change execConverterResult t codes flags s = _
  simp only [execConverterResult, harr, hscaler, hnull, Option.isSome_none, Bool.false_eq_true, if_false, if_true]

theorem exec_converterResult_overRange0 (hnull : fl.null = false) (hover : flags.any (fun b => b) = true) (hrange : fl.fire.range = 0) :
    exec (.converterResult t codes flags) s = .next (s.overRange0 t fl) := by
  change execConverterResult t codes flags s = _
  have hover' : flags.any id = true := hover
  simp only [execConverterResult, harr, hscaler, hnull, hover', hrange, Option.isSome_none, Bool.false_eq_true, if_false, if_true]

/-- Over-range: the fire is due again one range lower, unless its bank or its epoch is gone. -/
theorem exec_converterResult_overRange (hnull : fl.null = false) (hover : flags.any (fun b => b) = true) (hrange : fl.fire.range ≠ 0) :
    exec (.converterResult t codes flags) s = .next ((s.modTile t fun x =>
      { x with array := none, cntRepeat := x.cntRepeat + 1,
               repeatDue := if s.redLive fl.fire.red && ((s.tile t).bank fl.bank).red == some fl.fire.red
                 then some { fl.fire with range := fl.fire.range - 1 } else none }).selectLast fl.fire.red.stepTag) := by
  change execConverterResult t codes flags s = _
  have hover' : flags.any id = true := hover
  simp only [execConverterResult, harr, hscaler, hnull, hover', hrange, Option.isSome_none, Bool.false_eq_true, if_false, if_true]

/-- A flight whose codes are taken: clamped to 8 bits, and corrected for the inputs latched with its fire. -/
def State.converted (s : State) (t : TileId) (codes : List Int) (fl : Flight) : Flight :=
  let raw := (List.range 258).map fun j => clampInt (-128) 127 (at' codes j 0)
  { fl with raw := raw, converted := true,
            y := correctedAll fl.coefs (s.recordD (t.array fl.fire.arr)) fl.fire.range (rowInputs fl.fire.mode fl.input.shifts fl.input.codes) raw }

theorem exec_converterResult_inRange (hnull : fl.null = false) (hwithin : flags.any (fun b => b) = false) :
    exec (.converterResult t codes flags) s =
      .next (s.modTile t fun x => { x with array := none, scaler := some (s.converted t codes fl) }) := by
  change execConverterResult t codes flags s = _
  have hwithin' : flags.any id = false := hwithin
  unfold execConverterResult
  dsimp only
  rw [harr]
  dsimp only
  rw [hscaler, if_neg (by simp), if_neg (by simp [hnull]), if_neg (by simp [hwithin'])]
  rfl

end Conversion

/-! ### The postmark check (02 R61-R63) -/

/-- What the remainders of a fire's array bring for the inputs latched with it. -/
def State.remainderOf (s : State) (id : TileId) (fl : Flight) : Int :=
  remainderTerm (s.recordD (id.array fl.fire.arr)) (rowInputs fl.fire.mode fl.input.shifts fl.input.codes)

/-- A postmark mismatch: the fire is dropped and counted, and recorded as 0x0002 of its die. -/
def State.mismatch (s : State) (id : TileId) (fl : Flight) : State :=
  (s.active.modTile id fun x => { x with scaler := none, cntMismatch := x.cntMismatch + 1 }).raise 0x0002 id.die
    [locOf (id.array fl.cells), fl.fire.red.stepTag + 65536 * fl.fire.range, postmarkDetail fl.fire.range fl.y (s.remainderOf id fl)]

theorem mismatch_tile (s : State) (id : TileId) (fl : Flight) :
    (s.mismatch id fl).tile id = { s.tile id with scaler := none, cntMismatch := (s.tile id).cntMismatch + 1 } :=
  (tile_of_tl (State.raise_tl _ _ _ _) id).trans (tile_mod_of_id rfl)

section Postmark

variable {s : State} {id : TileId} {fl : Flight} (hscaler : (s.tile id).scaler = some fl) (hnull : fl.null = false)
  (hoverrun : fl.overrun = false) (hpassed : fl.passed = false)

include hscaler hnull hoverrun hpassed

theorem exec_postmarkComparison_pass (hpass : postmarkPass fl.fire.range fl.y (s.remainderOf id fl) = true) :
    exec (.postmarkComparison id) s = .next (s.postmarkPasses id fl) := by
  change execPostmarkComparison id s = _
  unfold execPostmarkComparison
  rw [hscaler]
  dsimp only
  rw [if_neg (by simp [hnull, hoverrun, hpassed])]
  exact if_pos hpass

/-- A mismatch goes on as a transient fault of its step. -/
theorem exec_postmarkComparison_mismatch (hfail : postmarkPass fl.fire.range fl.y (s.remainderOf id fl) = false) :
    exec (.postmarkComparison id) s = .next ((s.mismatch id fl).transient
      fl.fire.red.stepTag fl.fire.red.epoch 0x0002 id.die (locOf (id.array fl.cells))).tryEntry := by
  change execPostmarkComparison id s = _
  unfold execPostmarkComparison
  rw [hscaler]
  dsimp only
  rw [if_neg (by simp [hnull, hoverrun, hpassed])]
  exact if_neg (Bool.eq_false_iff.mp hfail)

end Postmark

/-! ### The addition to the bank (05 R143, 04 R117) -/

/-- A fire leaves the scaler. -/
def State.leaveScaler (s : State) (id : TileId) : State := s.active.modTile id fun x => { x with scaler := none }

theorem leaveScaler_tile (s : State) (id : TileId) : (s.leaveScaler id).tile id = { s.tile id with scaler := none } :=
  tile_mod_of_id rfl

theorem leaveScaler_bank (s : State) (id : TileId) (b : Nat) : ((s.leaveScaler id).tile id).bank b = (s.tile id).bank b := by
  rw [leaveScaler_tile]; rfl

theorem leaveScaler_redLive (s : State) (id : TileId) (r : Reduction) : (s.leaveScaler id).redLive r = s.redLive r := rfl

/-- A fire is counted where its bank still holds its reduction. -/
def State.countFire (s : State) (id : TileId) (fl : Flight) : State :=
  if ((s.tile id).bank fl.bank).red == some fl.fire.red then s.countFires id fl.bank 1 fl.fire.close fl.fire.arr else s

section Sum

variable {s : State} {id : TileId} {b arr : Nat} {red : Reduction} {v : List Int}
  (hred : ((s.tile id).bank b).red = some red) (hfits : (addVec 64 256 ((s.tile id).bank b).regs v).2 = false)

include hred hfits

/-- Values that stay within 64 bits are added to the registers of the bank that holds the reduction. -/
theorem addToBank_sum : s.addToBank id b arr red v =
    s.modTile id fun x => x.setBank b { x.bank b with regs := (addVec 64 256 ((s.tile id).bank b).regs v).1 } := by
  simp only [State.addToBank, hred, hfits, bne_self_eq_false, Bool.false_eq_true, if_false]

theorem addToBank_bank : ((s.addToBank id b arr red v).tile id).bank b =
    { (s.tile id).bank b with regs := (addVec 64 256 ((s.tile id).bank b).regs v).1 } := by
  rw [addToBank_sum hred hfits]
  exact bank_modTile_setBank s id b _

theorem addToBank_sv : (s.addToBank id b arr red v).sv = s.sv := by rw [addToBank_sum hred hfits]; rfl

end Sum

/-- The weights' contribution of a fire that passed is added to its bank, and its fire-equivalents are counted. -/
def State.addFire (s : State) (id : TileId) (fl : Flight) : State :=
  let rec' := s.recordD (id.array fl.fire.arr)
  (s.addToBank id fl.bank fl.fire.arr fl.fire.red (fireAddend rec' fl.input.scale fl.fire.mode fl.fire.range fl.y)).countEquiv
    fl.fire.red.stepTag 1 rec'.saturated (id.array fl.fire.arr)

section FireAdd

variable {s : State} {id : TileId} {fl : Flight} (hscaler : (s.tile id).scaler = some fl) (hdone : (fl.null || fl.overrun || fl.passed) = true)

include hscaler hdone

/-- A fire whose bank or whose epoch is gone adds nothing. -/
theorem exec_fireAdd_gone (hgone : s.redLive fl.fire.red = false ∨ ((s.tile id).bank fl.bank).red ≠ some fl.fire.red) :
    exec (.fireAdd id) s = .next (s.leaveScaler id).tryEntry := by
  have hstop : (!(s.leaveScaler id).redLive fl.fire.red || (((s.leaveScaler id).tile id).bank fl.bank).red != some fl.fire.red) = true := by
    rw [leaveScaler_bank, leaveScaler_redLive]
    rcases hgone with h | h <;> simp [h]
  change execFireAdd id s = _
  simp only [execFireAdd, hscaler, hdone, Bool.not_true, Bool.false_eq_true, if_false]
  exact if_pos hstop

variable (hlive : s.redLive fl.fire.red = true) (hred : ((s.tile id).bank fl.bank).red = some fl.fire.red)

include hlive hred

/-- What follows the sum of a fire, once its bank and its epoch stand. -/
theorem exec_fireAdd_held : exec (.fireAdd id) s =
    let t := if fl.null || fl.overrun then s.leaveScaler id else (s.leaveScaler id).addFire id fl
    .next ((if ((t.tile id).bank fl.bank).red == some fl.fire.red then t.vectorDue id fl else t).countFire id fl).tryEntry := by
  have hgo : ¬ (!(s.leaveScaler id).redLive fl.fire.red || (((s.leaveScaler id).tile id).bank fl.bank).red != some fl.fire.red) = true := by
    rw [leaveScaler_bank, leaveScaler_redLive, hlive, hred]; simp
  change execFireAdd id s = _
  unfold execFireAdd
  rw [hscaler]
  dsimp only
  rw [if_neg (by simp [hdone])]
  refine (if_neg hgo).trans ?_
  cases fl.null || fl.overrun <;> rfl

/-- A null fire and one replaced under cause 2 bring no sum of their own: only what falls due with their vector, and their count. -/
theorem exec_fireAdd_without_sum (hskip : fl.null = true ∨ fl.overrun = true) :
    exec (.fireAdd id) s = .next (((s.leaveScaler id).vectorDue id fl).countFire id fl).tryEntry := by
  have hbank : (((s.leaveScaler id).tile id).bank fl.bank).red == some fl.fire.red := by rw [leaveScaler_bank, hred]; simp
  have hnosum : (fl.null || fl.overrun) = true := by simpa using hskip
  rw [exec_fireAdd_held hscaler hdone hlive hred]
  simp only [hnosum, if_true, hbank]

/-- The fire's sum, then what falls due with its vector, then its count. -/
theorem exec_fireAdd_with_sum (hnull : fl.null = false) (hoverrun : fl.overrun = false)
    (hbank : ((((s.leaveScaler id).addFire id fl).tile id).bank fl.bank).red = some fl.fire.red) :
    exec (.fireAdd id) s = .next ((((s.leaveScaler id).addFire id fl).vectorDue id fl).countFire id fl).tryEntry := by
  rw [exec_fireAdd_held hscaler hdone hlive hred]
  simp only [hnull, hoverrun, Bool.or_self, Bool.false_eq_true, if_false, hbank, beq_self_eq_true, if_true]

end FireAdd

/-! ### The outlier lane (04 R117) -/

/-- The oldest contribution due, of bank 0 first. -/
theorem outlierDue_of {t : Tile} {b : Nat} {d : OutlierDue} {rest : List OutlierDue} {red : Reduction}
    (hb : b = 0 ∨ (b = 1 ∧ ((t.bank 0).outliers = [] ∨ (t.bank 0).red = none))) (hdue : (t.bank b).outliers = d :: rest)
    (hred : (t.bank b).red = some red) : t.outlierDue = some (b, d, red) := by
  unfold Tile.outlierDue
  rcases hb with rfl | ⟨rfl, hnone | hnone⟩
  · simp [hdue, hred]
  · simp [hdue, hred, hnone]
  · simp [hdue, hred, hnone]

/-- The oldest outlier contribution of a bank leaves its list. -/
def State.takeOutlier (s : State) (id : TileId) (b : Nat) : State :=
  s.modTile id fun x => x.setBank b { x.bank b with outliers := (x.bank b).outliers.drop 1 }

theorem exec_outlierAdd {s : State} {id : TileId} {b : Nat} {d : OutlierDue} {red : Reduction}
    (hdue : (s.tile id).outlierDue = some (b, d, red)) : exec (.outlierAdd id) s =
      .next (((s.takeOutlier id b).addToBank id b d.arr red
        (outlierAddend (s.recordD (id.array d.arr)) d.input.scale d.input.shifts d.input.codes)).tryDrain id b) := by
  change execOutlierAdd id s = _
  simp only [execOutlierAdd, hdue]
  rfl

/-! ### The clauses of the statement -/

/-- Settles O56, command by command: fetched lists, the boundary, conversion, the postmark check, the addition and the outlier lane. -/
theorem aFireGoesFromLatchToBank : Obligations.AFireGoesFromLatchToBank := by
  unfold Obligations.AFireGoesFromLatchToBank
  refine ⟨fun s a r hrun hrec hfetch => ?lists, fun s id hen hrun harr hentry => ⟨boundary_slotNo s id, fun hd => ?drained,
      fun hd ht => ?slot, fun r hd ht hrepeat hpair hr hdue hn => ?run⟩,
    fun s id codes flags fl harr hscaler => ⟨fun hnull => ?null, fun hnull hover hrange => ?again, exec_converterResult_overRange0 harr hscaler,
      fun hnull hwithin => ?inRange⟩,
    fun s id fl hscaler hnull hoverrun hpassed => ⟨exec_postmarkComparison_pass hscaler hnull hoverrun hpassed, fun hfail => ?mismatch⟩,
    fun s id fl hscaler hdone => ⟨exec_fireAdd_gone hscaler hdone, fun hlive hred => ⟨exec_fireAdd_without_sum hscaler hdone hlive hred,
      fun hnull hoverrun hfits => ?sum⟩⟩,
    fun s id b d rest red hb hdue hred => ?outlier⟩
  case lists =>
    have hexec := exec_listFetchDone hrun hrec hfetch
    by_cases hroom : s.cacheBytes (s.listsKept a) + s.cacheBytes [s.fetchedLists a] ≤ listCacheBytes
    · rw [if_pos hroom] at hexec
      exact ⟨_, hexec, rfl, by rw [region_mod], listsKept_subset, fun _ => listsKept_of_named,
        fun _ => by rw [region_mod]; exact ⟨rfl, rfl⟩, fun hfull => absurd hroom (Nat.not_le.mpr hfull)⟩
    · rw [if_neg hroom] at hexec
      exact ⟨_, hexec, rfl, by rw [region_mod], listsKept_subset, fun _ => listsKept_of_named,
        fun h => absurd h hroom, fun _ => by rw [region_mod]; exact ⟨rfl, rfl⟩⟩
  case drained => rw [exec_fireLatch hen hrun harr hentry, hd]; rfl
  case slot => rw [exec_fireLatch hen hrun harr hentry, hd, ht]; rfl
  case run =>
    have hopen := openSlot_tile (s.boundary id) id (s.tile id).slotNo
    have htile := runFire_tile ((congrArg Tile.run hopen).trans hr)
    have hexec := exec_fireLatch hen hrun harr hentry
    rw [hd, ht, chooseSlot_run hrepeat hpair hdue hn] at hexec
    exact ⟨_, _, hexec, congrArg Tile.run htile, rfl, (congrArg Tile.fires htile).trans (congrArg Tile.fires hopen :)⟩
  case null =>
    exact ⟨_, exec_converterResult_null harr hscaler hnull, tile_mod_of_id rfl⟩
  case again =>
    exact ⟨_, exec_converterResult_overRange harr hscaler hnull hover hrange, (selectLast_tile _ _ id).trans (tile_mod_of_id rfl)⟩
  case inRange =>
    exact ⟨_, s.converted id codes fl, exec_converterResult_inRange harr hscaler hnull hwithin, tile_mod_of_id rfl, rfl, rfl, rfl, rfl, rfl⟩
  case mismatch =>
    exact ⟨_, _, exec_postmarkComparison_mismatch hscaler hnull hoverrun hpassed hfail, mismatch_tile s id fl, rfl, raise_last _ _ _ _, rfl, rfl⟩
  case sum =>
    have hbank := leaveScaler_bank s id fl.bank
    have hheld : (((s.leaveScaler id).tile id).bank fl.bank).red = some fl.fire.red := hbank ▸ hred
    have hsum : (addVec 64 256 (((s.leaveScaler id).tile id).bank fl.bank).regs (fireAddend (s.recordD (id.array fl.fire.arr))
      fl.input.scale fl.fire.mode fl.fire.range fl.y)).2 = false := by rw [hbank]; exact hfits
    have hadded := addToBank_bank (arr := fl.fire.arr) hheld hsum
    rw [hbank] at hadded
    exact ⟨_, hadded, addToBank_sv hheld hsum,
      exec_fireAdd_with_sum hscaler hdone hlive hred hnull hoverrun ((congrArg Bank.red hadded).trans hred)⟩
  case outlier =>
    refine ⟨s.takeOutlier id b, ?_, rfl, exec_outlierAdd (outlierDue_of hb hdue hred)⟩
    exact (bank_modTile_setBank s id b _).trans (by rw [hdue]; rfl)

end Sys2Proof.Machine
end

section
/-! PROOFS. O60: pages to and from the poste restante tier, expiry, page exhaustion, and the move of the slots after a lease's end (09 R298-R302,
11 R397). First what is read of one part of the state after an update, then each operation of the tier, then the commands. -/

set_option Elab.async false

namespace Sys2Proof.Machine

/-! ### Lists read by key after an update -/

/-- An element read by its key after the elements with key `k` are changed, each keeping its key. -/
theorem find_map_key {α κ : Type} [DecidableEq κ] (key : α → κ) (k j : κ) {f : α → α} (hf : ∀ x, key (f x) = key x) (l : List α) :
    (l.map fun x => if key x = k then f x else x).find? (fun x => key x == j) =
      (l.find? fun x => key x == j).map fun x => if j = k then f x else x := by
  have hkey : ((fun x => key x == j) ∘ fun x => if key x = k then f x else x) = fun x => key x == j := by
    funext x; dsimp only [Function.comp]; split <;> simp only [hf]
  rw [List.find?_map, hkey]
  cases h : l.find? fun x => key x == j with
  | none => rfl
  | some x =>
    have hx : key x = j := by simpa using List.find?_some h
    subst hx; rfl

/-- An element read by its key after those with key `k` have left. -/
theorem find_filter_key {α κ : Type} [DecidableEq κ] (key : α → κ) (k j : κ) (l : List α) :
    (l.filter fun x => key x != k).find? (fun x => key x == j) = if j = k then none else l.find? fun x => key x == j := by
  rw [List.find?_filter]
  split
  · rename_i h; subst h; simp
  · rename_i h
    congr 1; funext x
    by_cases hx : key x = j
    · simp [hx, h]
    · simp [hx]

/-! ### Slots, held entries, frames and steps after one update -/

theorem slot_modSlot (s : State) (n m : Nat) {f : Slot → Slot} (hf : ∀ x, (f x).id = x.id := by exact fun _ => rfl) :
    (s.modSlot n f).slot m = (s.slot m).map fun x => if m = n then f x else x := find_map_key Slot.id n m hf s.sv.slots

theorem heldOf_modHeld (s : State) (n m : Nat) {f : Held → Held} (hf : ∀ x, (f x).slot = x.slot := by exact fun _ => rfl) :
    (s.modHeld n f).heldOf m = (s.heldOf m).map fun x => if m = n then f x else x := find_map_key Held.slot n m hf s.kv.held

theorem frame_modFrame (s : State) (i j : FrameId) {g : Frame → Frame} (hg : ∀ x, (g x).id = x.id := by exact fun _ => rfl) :
    (s.modFrame i g).frame j = (s.frame j).map fun x => if j = i then g x else x := find_map_key Frame.id i j hg s.kv.frames

theorem stepOf_modStep (s : State) (n m : Nat) {f : OpenStep → OpenStep} (hf : ∀ x, (f x).tag = x.tag := by exact fun _ => rfl) :
    (s.modStep n f).stepOf m = (s.stepOf m).map fun x => if m = n then f x else x := find_map_key OpenStep.tag n m hf s.sv.steps

theorem heldOf_dropHeld (s : State) (n m : Nat) : (s.dropHeld n).heldOf m = if m = n then none else s.heldOf m :=
  find_filter_key Held.slot n m s.kv.held

theorem slot_of_slots {s t : State} (h : t.sv.slots = s.sv.slots) (n : Nat) : t.slot n = s.slot n := by unfold State.slot; rw [h]

theorem heldOf_of_held {s t : State} (h : t.kv.held = s.kv.held) (n : Nat) : t.heldOf n = s.heldOf n := by unfold State.heldOf; rw [h]

theorem stepOf_of_steps {s t : State} (h : t.sv.steps = s.sv.steps) (n : Nat) : t.stepOf n = s.stepOf n := by unfold State.stepOf; rw [h]

theorem slot_of_heldOf {s : State} {slot : Nat} {h : Held} (hh : s.heldOf slot = some h) : h.slot = slot := by
  simpa using List.find?_some hh

/-- The serving part with its window memory, where neither is among the parts of the mask. -/
theorem Only.sv {K : Nat} {s t : State} (h : Only K s t) (hs : K.testBit 10 = false) (hm : K.testBit 11 = false) : t.sv = s.sv := by
  have hserving : { t.sv with mem := [] } = { s.sv with mem := [] } := h .serving hs
  have hmem : t.sv.mem = s.sv.mem := h .memory hm
  calc t.sv = { ({ t.sv with mem := [] } : Serving) with mem := t.sv.mem } := rfl
    _ = { ({ s.sv with mem := [] } : Serving) with mem := s.sv.mem } := by rw [hserving, hmem]

theorem Only.kv {K : Nat} {s t : State} (h : Only K s t) (hk : K.testBit 12 = false) : t.kv = s.kv := h .pages hk

/-! ### Frames that return to the pool (09 R271, R289) -/

/-- `t` follows `s` by the return of frames and the release of nodes: no page and no held entry changes. -/
structure Returns (s t : State) : Prop where
  pages : t.kv.pages = s.kv.pages
  held : t.kv.held = s.kv.held
  frames : t.kv.frames ⊆ s.kv.frames

theorem Returns.refl (s : State) : Returns s s := ⟨rfl, rfl, fun _ h => h⟩

theorem Returns.trans {s t u : State} (h : Returns s t) (g : Returns t u) : Returns s u :=
  ⟨g.pages.trans h.pages, g.held.trans h.held, fun _ hf => h.frames (g.frames hf)⟩

theorem freeFrame_returns (s : State) (id : FrameId) : Returns s (s.freeFrame id) := ⟨rfl, rfl, List.filter_subset_self _⟩

theorem foldl_freeFrame_returns (l : List FrameId) (s : State) : Returns s (l.foldl State.freeFrame s) := by
  induction l generalizing s with
  | nil => exact .refl s
  | cons id l ih => exact (freeFrame_returns s id).trans (ih _)

/-- Frames named in a list that returns to the pool are in use no more. -/
theorem foldl_freeFrame_gone (l : List FrameId) (s : State) : ∀ f ∈ (l.foldl State.freeFrame s).kv.frames, f.id ∉ l := by
  induction l generalizing s with
  | nil => exact fun _ _ => List.not_mem_nil
  | cons id l ih =>
    intro f hf
    have hmem := (foldl_freeFrame_returns l (s.freeFrame id)).frames hf
    have hne : f.id ≠ id := by simpa using (List.mem_filter.1 hmem).2
    exact List.not_mem_cons_of_ne_of_not_mem hne (ih _ f hf)

theorem countRef_returns (s : State) (i : Option Nat) (up : Bool) : Returns s (s.countRef i up) := by
  cases i <;> exact ⟨rfl, rfl, fun _ h => h⟩

theorem evictNode_returns (s : State) (n : Node) : Returns s (s.evictNode n) := by
  have hfree := foldl_freeFrame_returns (n.pages.map (·.2)) s
  have hcount : Returns (_ : State) (s.evictNode n) := countRef_returns _ n.parent false
  exact ⟨hcount.pages.trans hfree.pages, hcount.held.trans hfree.held, fun _ hf => hfree.frames (hcount.frames hf)⟩

theorem releaseTrees_returns (n : Nat) (s : State) : Returns s (State.releaseTrees n s) := by
  induction n generalizing s with
  | zero => exact .refl s
  | succ n ih =>
    unfold State.releaseTrees
    split
    · exact (evictNode_returns s _).trans (ih _)
    · exact .refl s

theorem refNode_returns (s : State) (i : Option Nat) (up : Bool) : Returns s (s.refNode i up) := by
  have hcount := countRef_returns s i up
  cases up
  · exact hcount.trans (releaseTrees_returns _ _)
  · exact hcount

@[simp] theorem refNode_sv (s : State) (i : Option Nat) (up : Bool) : (s.refNode i up).sv = s.sv :=
  (State.refNode_only (K := 4096) (Only.refl s) (Needs.refl _)).sv rfl rfl

theorem dropRef_returns (s : State) (n : Nat) : Returns s (s.dropRef n) := by
  unfold State.dropRef
  split
  · have href := refNode_returns s (‹Slot›).node false
    exact ⟨href.pages, href.held, href.frames⟩
  · exact .refl s

theorem slot_dropRef (s : State) (n m : Nat) :
    (s.dropRef n).slot m = (s.slot m).map fun x => if m = n then { x with node := none } else x := by
  unfold State.dropRef
  split
  · refine (slot_modSlot _ _ _).trans (congrArg _ (slot_of_slots (by rw [refNode_sv]) m))
  · rename_i hnone
    by_cases h : m = n
    · subst h; rw [hnone]; rfl
    · simp [h]

theorem dropRef_steps (s : State) (n : Nat) : (s.dropRef n).sv.steps = s.sv.steps := by
  unfold State.dropRef
  split
  · rw [State.modSlot_sv_steps, refNode_sv]
  · rfl

/-! ### A slot's pages released, and its expiry (09 Table 9.4, R299) -/

/-- What an EXPIRED slot is recorded as: one that is ENDING stays so (08 Table 8.3). -/
def SlotState.onExpiry : SlotState → SlotState
  | .ending _ => .ending 4
  | _ => .expired

theorem freeFramesWhere_sv (s : State) (c : Frame → Bool) : (s.freeFramesWhere c).sv = s.sv :=
  (State.freeFramesWhere_only (K := 4096) (Only.refl s) (Needs.refl _)).sv rfl rfl

theorem freeFramesWhere_held (s : State) (c : Frame → Bool) : (s.freeFramesWhere c).kv.held = s.kv.held :=
  (foldl_freeFrame_returns _ s).held

theorem freeFramesWhere_frames (s : State) (c : Frame → Bool) : ∀ f ∈ (s.freeFramesWhere c).kv.frames, c f = false := by
  intro f hf
  have hmem : f ∈ s.kv.frames := (foldl_freeFrame_returns _ s).frames hf
  have hgone : f.id ∉ (s.kv.frames.filter c).map Frame.id := foldl_freeFrame_gone _ s f hf
  by_contra hc
  exact hgone (List.mem_map_of_mem (List.mem_filter.2 ⟨hmem, by simpa using hc⟩))

theorem slot_releaseSlotPages (s : State) (n m : Nat) :
    (s.releaseSlotPages n).slot m = (s.slot m).map fun x => if m = n then { x with node := none } else x := by
  unfold State.releaseSlotPages
  rw [slot_dropRef]
  exact congrArg _ (slot_of_slots (congrArg Serving.slots (freeFramesWhere_sv s _)) m)

theorem releaseSlotPages_held (s : State) (n : Nat) : (s.releaseSlotPages n).kv.held = s.kv.held :=
  (dropRef_returns _ n).held.trans (freeFramesWhere_held s _)

theorem releaseSlotPages_steps (s : State) (n : Nat) : (s.releaseSlotPages n).sv.steps = s.sv.steps := by
  unfold State.releaseSlotPages
  rw [dropRef_steps, State.clearPages_sv, freeFramesWhere_sv]

theorem slotFree_steps (s : State) (n : Nat) : (s.slotFree n).sv.steps = s.sv.steps := releaseSlotPages_steps s n

theorem releaseSlotPages_frames (s : State) (n : Nat) : ∀ f ∈ (s.releaseSlotPages n).kv.frames, f.owner ≠ .priv n := by
  intro f hf
  have hfree := freeFramesWhere_frames s (fun f => f.owner == .priv n) f
    ((dropRef_returns ((s.freeFramesWhere fun f => f.owner == .priv n).clearPages fun p => p.slot == n) n).frames hf)
  simpa using hfree

theorem releaseSlotPages_pages (s : State) (n : Nat) : ∀ p ∈ (s.releaseSlotPages n).kv.pages, p.slot ≠ n := by
  intro p hp
  unfold State.releaseSlotPages at hp
  rw [(dropRef_returns _ n).pages] at hp
  simpa using (List.mem_filter.1 hp).2

theorem slot_slotExpire (s : State) (n m : Nat) : (s.slotExpire n).slot m =
    (s.slot m).map fun x => if m = n then { x with node := none, state := x.state.onExpiry } else x := by
  have hdrop : ((s.releaseSlotPages n).dropHeld n).slot m = (s.releaseSlotPages n).slot m := rfl
  refine (slot_modSlot ((s.releaseSlotPages n).dropHeld n) n m (f := fun x => { x with state := x.state.onExpiry })).trans ?_
  rw [hdrop, slot_releaseSlotPages, Option.map_map]
  congr 1; funext x
  dsimp only [Function.comp]
  split <;> rfl

theorem heldOf_slotExpire (s : State) (n m : Nat) : (s.slotExpire n).heldOf m = if m = n then none else s.heldOf m := by
  have hexpire : (s.slotExpire n).heldOf m = ((s.releaseSlotPages n).dropHeld n).heldOf m := rfl
  rw [hexpire, heldOf_dropHeld, heldOf_of_held (releaseSlotPages_held s n)]

theorem slot_async (s : State) (c : Nat) (d : Bytes) (n : Nat) : (s.async c d).slot n = s.slot n := by
  obtain ⟨v, m, p, h, -⟩ := async_eq s c d; rw [h]; rfl

theorem heldOf_async (s : State) (c : Nat) (d : Bytes) (n : Nat) : (s.async c d).heldOf n = s.heldOf n :=
  heldOf_of_held (by rw [async_kv]) n

theorem slot_releaseEarly (s : State) (n m : Nat) : (s.releaseEarly n).slot m =
    (s.slot m).map fun x => if m = n then { x with node := none, state := x.state.onExpiry } else x :=
  (slot_async _ _ _ m).trans (slot_slotExpire s n m)

theorem heldOf_releaseEarly (s : State) (n m : Nat) : (s.releaseEarly n).heldOf m = if m = n then none else s.heldOf m :=
  (heldOf_async _ _ _ m).trans (heldOf_slotExpire s n m)

/-- An entry that is at rest when its window ends. -/
theorem expireHeld_resting {s : State} {slot : Nat} {h : Held} (hheld : s.heldOf slot = some h) (hphase : h.phase = .resting) :
    s.expireHeld slot = s.slotExpire slot := by
  unfold State.expireHeld; rw [hheld]; dsimp only; rw [hphase]

/-- An entry still on its way takes its other pages along first. -/
theorem expireHeld_moving {s : State} {slot : Nat} {h : Held} (hheld : s.heldOf slot = some h) (hphase : h.phase = .moving) :
    s.expireHeld slot = (s.finishMove slot).slotExpire slot := by
  unfold State.expireHeld; rw [hheld]; dsimp only; rw [hphase]

/-! ### A page leaves for the tier (09 R298) -/

/-- What a held page becomes in the tier: at its place in level 2 its data are there, not here. -/
def HeldPage.placed (p : HeldPage) : Option Nat → HeldPage
  | none => p
  | some o => { p with off := some o, got := [], torn := [], groups := [], raw := [] }

/-- A held entry after its next page has joined it. -/
def Held.joined (h : Held) (p : HeldPage) (last : Bool) : Held :=
  { h with pages := h.pages ++ [p], places := h.places.drop 1, phase := if last then .resting else .moving }

theorem putPage_kv (s : State) (off : Nat) (p : HeldPage) : (s.putPage off p).1.kv = s.kv :=
  (State.putPage_only (K := 512) (Only.refl s) (Needs.refl _)).kv rfl

section Write

variable {s : State} {h : Held} {p : PageEntry} {f : Frame} (hframe : s.frame p.frame = some f) (last : Bool)

include hframe

/-- A page written changes the Dispatch part, where it goes to level 2, and the KV part: its frame and its page go, its entry takes it. -/
theorem writePage_eq : ∃ t : State,
    t.kv = ((s.freeFrame p.frame).clearPages fun q => q.is p.slot p.draft p.layer p.n).kv ∧
    s.writePage h p last = t.modHeld h.slot fun x => x.joined ((holdPage p f.data).placed h.places.head?) last := by
  unfold State.writePage
  rw [hframe]
  cases h.places with
  | nil => exact ⟨_, rfl, rfl⟩
  | cons o os => exact ⟨_, putPage_kv _ _ _, rfl⟩

theorem heldOf_writePage (hheld : s.heldOf h.slot = some h) :
    (s.writePage h p last).heldOf h.slot = some (h.joined ((holdPage p f.data).placed h.places.head?) last) := by
  obtain ⟨t, hkv, heq⟩ := writePage_eq (h := h) hframe last
  have ht : t.heldOf h.slot = some h := (heldOf_of_held (by rw [hkv]; rfl) _).trans hheld
  rw [heq]
  refine (heldOf_modHeld _ _ _).trans ?_
  rw [ht]; simp

theorem page_writePage : (s.writePage h p last).page p.slot p.draft p.layer p.n = none := by
  obtain ⟨t, hkv, heq⟩ := writePage_eq (h := h) hframe last
  unfold State.page
  rw [heq, State.modHeld_kv_pages, hkv, List.find?_eq_none]
  intro q hq
  simpa using (List.mem_filter.1 hq).2

theorem frames_writePage : ∀ x ∈ (s.writePage h p last).kv.frames, x.id ≠ p.frame := by
  obtain ⟨t, hkv, heq⟩ := writePage_eq (h := h) hframe last
  rw [heq, State.modHeld_kv_frames, hkv]
  intro x hx
  simpa using (List.mem_filter.1 hx).2

end Write

/-- A moving entry writes its next page where no place in level 2 is kept for it, or a lease is live. -/
theorem moveOnePage_eq {s : State} {slot : Nat} {h : Held} {p : PageEntry} {rest : List PageEntry} (hheld : s.heldOf slot = some h)
    (hpages : s.privatePages slot = p :: rest) (hplace : h.places = [] ∨ s.leaseLive = true) :
    s.moveOnePage slot = s.writePage h p rest.isEmpty := by
  unfold State.moveOnePage
  rw [hheld, hpages]
  exact if_pos (by simpa using hplace)

/-! ### A page comes back (09 R300, 03 R71) -/

theorem takeFrame_held {s : State} {k size : Nat} {o : FrameOwner} {r : FrameId × State} (h : s.takeFrame k size o = some r) :
    r.2.kv.held = s.kv.held := by
  unfold State.takeFrame at h
  dsimp only at h
  split at h
  · split at h
    · cases h; rfl
    · cases h
  · split at h
    · cases h
    · split at h
      · cases h; rfl
      · cases h

theorem newFrame_held {s : State} {slot layer size : Nat} {o : FrameOwner} {r : FrameId × State}
    (h : s.newFrame slot layer size o = some r) : r.2.kv.held = s.kv.held := by
  unfold State.newFrame at h
  split at h
  · exact takeFrame_held h
  · cases h

/-- The frame a page comes back to stands in the slot's page table; what the tier holds is not touched. -/
theorem restoreFrame_spec {s u : State} {slot : Nat} {p : HeldPage} {id : FrameId} (h : s.restoreFrame slot p = some (id, u)) :
    u.kv.held = s.kv.held ∧ (u.page slot p.draft p.layer p.n).map PageEntry.frame = some id := by
  unfold State.restoreFrame at h
  split at h
  · rename_i q hq
    cases h
    exact ⟨rfl, by rw [hq]; rfl⟩
  · obtain ⟨r, hr, he⟩ := Option.map_eq_some_iff.1 h
    cases he
    refine ⟨newFrame_held hr, ?_⟩
    unfold State.page State.setPage
    dsimp only
    rw [find_putBy _ _ _ (by simp [PageEntry.is])]
    rfl

/-- A restoring entry after its next page has come back: over with its last page. -/
def State.restored (s : State) (slot : Nat) (rest : List HeldPage) : State :=
  if rest.isEmpty then s.dropHeld slot else s.modHeld slot fun y => { y with pages := rest }

theorem restored_frame (s : State) (slot : Nat) (rest : List HeldPage) (id : FrameId) : (s.restored slot rest).frame id = s.frame id := by
  unfold State.restored; split <;> rfl

theorem restored_page (s : State) (slot : Nat) (rest : List HeldPage) (d : Bool) (l n : Nat) :
    (s.restored slot rest).page slot d l n = s.page slot d l n := by
  unfold State.restored; split <;> rfl

theorem heldOf_restored {s : State} {slot : Nat} {h : Held} (rest : List HeldPage) (hheld : s.heldOf slot = some h) :
    (s.restored slot rest).heldOf slot = if rest.isEmpty then none else some { h with pages := rest } := by
  unfold State.restored
  split
  · rw [heldOf_dropHeld, if_pos rfl]
  · refine (heldOf_modHeld _ _ _).trans ?_
    rw [hheld]; simp

/-- An entry that waits for a restore after a page has come back: it waits on while the tier holds pages of its slot. -/
def State.waited (v : State) (slot : Nat) (e : Nat × Nat) (w : EntryWork) : EntryWork :=
  let toBegin := (v.stepOf e.1).any fun o => o.toBegin e.2
  { w with restoring := (v.heldOf slot).isSome, stalledAt := if toBegin then w.stalledAt else none }

section Restore

variable {s u : State} {slot : Nat} {h : Held} {p : HeldPage} {rest : List HeldPage} {id : FrameId}
  (hheld : s.heldOf slot = some h) (hpages : h.pages = p :: rest)

include hheld hpages

theorem restoreFault_eq : s.restoreFault slot = p.noNumber := by
  unfold State.restoreFault; rw [hheld]; simp [hpages]

theorem restorePageOf_fault (hno : p.noNumber = true) :
    (∀ e, s.restoreWaiter slot = some e → s.restorePageOf slot = s.failStep e.1 4) ∧
      (s.restoreWaiter slot = none → s.restorePageOf slot = s) := by
  have hfault := (restoreFault_eq hheld hpages).trans hno
  refine ⟨fun e he => ?_, fun hnone => ?_⟩
  · unfold State.restorePageOf; rw [if_pos hfault, he]
  · unfold State.restorePageOf; rw [if_pos hfault, hnone]

variable (hno : p.noNumber = false) (hfrom : s.restoreFrame slot p = some (id, u))

include hno hfrom

theorem restoreOnePage_eq {x : Slot} (hslot : s.slot slot = some x) :
    s.restoreOnePage slot = (u.modFrame id fun f => { f with
      owner := .priv slot, data := restoredGroups p (if p.draft then x.draftCommit else x.commit) f.data }).restored slot rest := by
  unfold State.restoreOnePage
  rw [hheld]
  dsimp only
  rw [hpages]
  dsimp only
  rw [hslot, hfrom]
  dsimp only
  rw [hno, if_neg (by simp)]
  rfl

/-- With a frame at hand the next page comes back, and the entry that waits for it, if any, learns whether it was the last. -/
theorem restorePageOf_found :
    let v := s.restoreOnePage slot
    (v.restoreWaiter slot = none → s.restorePageOf slot = v) ∧
    (∀ e, v.restoreWaiter slot = some e → ∃ g : EntryWork → EntryWork, s.restorePageOf slot = v.modEntry e.1 e.2 g ∧
      ∀ y, (g y).restoring = (v.heldOf slot).isSome ∧ (g y).status = y.status) := by
  have hfault : ¬ s.restoreFault slot = true := by rw [restoreFault_eq hheld hpages, hno]; simp
  have hroom : s.restoreRoom slot = true := by
    unfold State.restoreRoom; rw [hheld]; dsimp only; rw [hpages]; dsimp only; rw [hfrom]; rfl
  have hmake : s.makeRoom (fun st => st.restoreRoom slot) = (s, .found) := if_pos hroom
  refine ⟨fun hnone => ?_, fun e he => ?_⟩
  · unfold State.restorePageOf
    rw [if_neg hfault, hmake]
    dsimp only
    rw [hnone]
  · refine ⟨(s.restoreOnePage slot).waited slot e, ?_, fun y => ⟨rfl, rfl⟩⟩
    unfold State.restorePageOf
    rw [if_neg hfault, hmake]
    dsimp only
    rw [he]
    rfl

end Restore

/-! ### Page exhaustion (09 R302) -/

/-- Step `tag` has ended its entry `i` with a status. -/
def State.EntryEnded (s : State) (tag i status : Nat) : Prop :=
  ∃ p x, s.stepOf tag = some p ∧ p.entries[i]? = some x ∧ x.status = some status

theorem State.EntryEnded.of_steps {s t : State} {tag i status : Nat} (h : s.EntryEnded tag i status) (hsteps : t.sv.steps = s.sv.steps) :
    t.EntryEnded tag i status := by
  obtain ⟨p, x, hp, hx, hst⟩ := h
  exact ⟨p, x, (stepOf_of_steps hsteps tag).trans hp, hx, hst⟩

/-- An update of a step that leaves its entries leaves them ended. -/
theorem State.EntryEnded.modStep {s : State} {tag i status : Nat} (h : s.EntryEnded tag i status) {f : OpenStep → OpenStep}
    (hf : ∀ x, (f x).tag = x.tag) (he : ∀ x, (f x).entries = x.entries) : (s.modStep tag f).EntryEnded tag i status := by
  obtain ⟨p, x, hp, hx, hst⟩ := h
  exact ⟨f p, x, by rw [stepOf_modStep _ _ _ hf, hp]; simp, by rw [he]; exact hx, hst⟩

/-- An update of an entry of a step that is there. -/
theorem modEntry_ended {s : State} {tag i status : Nat} {o : OpenStep} {w : EntryWork} {f : EntryWork → EntryWork} (ho : s.stepOf tag = some o)
    (hw : o.entries[i]? = some w) (hf : (f w).status = some status) : (s.modEntry tag i f).EntryEnded tag i status := by
  refine ⟨{ o with entries := modAt o.entries i f }, f w, ?_, ?_, hf⟩
  · refine (stepOf_modStep _ _ _).trans ?_
    rw [ho]; simp
  · unfold modAt; simp [hw]

theorem State.EntryEnded.modEntry {s : State} {tag i status : Nat} (h : s.EntryEnded tag i status) {f : EntryWork → EntryWork}
    (hf : ∀ x, (f x).status = x.status) : (s.modEntry tag i f).EntryEnded tag i status := by
  obtain ⟨p, x, hp, hx, hst⟩ := h
  exact modEntry_ended hp hx ((hf x).trans hst)

theorem undoMatch_steps (s : State) (o : OpenStep) (i slot : Nat) : (s.undoMatch o i slot).sv.steps = s.sv.steps := by
  unfold State.undoMatch
  split
  · split
    · rfl
    · dsimp only
      split
      · rw [State.modSlot_sv_steps, refNode_sv, refNode_sv]; rfl
      · rfl
  · rfl

theorem selectLast_sv (s : State) (tag : Nat) : (s.selectLast tag).sv = s.sv :=
  (State.selectLast_only (K := 16384) (Only.refl s) (Needs.refl _)).sv rfl rfl

theorem releaseReserved_sv (s : State) (tag slot : Nat) : (s.releaseReserved tag slot).sv = s.sv := freeFramesWhere_sv s _

theorem entryAt_spec {s : State} {tag i : Nat} {o : OpenStep} {e : LenEntry} {w : EntryWork} (h : s.entryAt tag i = some (o, e, w)) :
    s.stepOf tag = some o ∧ o.entries[i]? = some w := by
  unfold State.entryAt at h
  split at h
  · rename_i o' hlive
    split at h
    · rename_i hw
      cases h
      exact ⟨(Option.filter_eq_some_iff.1 hlive).1, hw⟩
    · cases h
  · cases h

section Exhaust

variable {s : State} {tag i : Nat} {o : OpenStep} {e : LenEntry} {w : EntryWork} (hat : s.entryAt tag i = some (o, e, w))

include hat

theorem closeEntry_ended (status cause : Nat) : (s.closeEntry tag i status cause).EntryEnded tag i status := by
  obtain ⟨hstep, hentry⟩ := entryAt_spec hat
  unfold State.closeEntry
  rw [hat]
  dsimp only
  refine State.EntryEnded.of_steps ?_ (congrArg Serving.steps (selectLast_sv _ _))
  refine State.EntryEnded.modStep ?_ (fun _ => rfl) (fun _ => rfl)
  refine modEntry_ended ((stepOf_of_steps ?_ tag).trans hstep) hentry rfl
  exact (congrArg Serving.steps (releaseReserved_sv _ _ _)).trans (undoMatch_steps s o i e.slot)

theorem endEntry_ended (status cause : Nat) : (s.endEntry tag i status cause).EntryEnded tag i status := by
  unfold State.endEntry
  rw [hat]
  refine State.EntryEnded.of_steps ((closeEntry_ended hat status cause).modEntry (f := fun w => { w with endCommit := 0 }) fun _ => rfl)
    (slotFree_steps _ _)

theorem endEntry_slot (status cause : Nat) : (s.endEntry tag i status cause).slot e.slot = none := by
  unfold State.endEntry
  rw [hat]
  exact (find_filter_key Slot.id e.slot e.slot _).trans (if_pos rfl)

/-- An entry that runs out of pages ends with status 16, its slot is free, and record 0x0020 names slot and context. -/
theorem exhaustEntry_spec : (s.exhaustEntry tag i).EntryEnded tag i 16 ∧ (s.exhaustEntry tag i).slot e.slot = none ∧
    ∃ r, (s.exhaustEntry tag i).ev.held.getLast? = some r ∧ r.code = 0x0020 ∧ r.detail = [e.slot + 65536 * o.ctx] := by
  unfold State.exhaustEntry
  rw [hat]
  exact ⟨(endEntry_ended hat 16 0).of_steps rfl, endEntry_slot hat 16 0, _, raise_last _ _ _ _, rfl, rfl⟩

end Exhaust

/-! ### A slot enters the tier (09 R298, R301) -/

theorem argMin_mem {α : Type} {key : α → Nat} {l : List α} {x : α} (h : argMin key l = some x) : x ∈ l := by
  induction l generalizing x with
  | nil => cases h
  | cons y l ih =>
    unfold argMin at h
    split at h
    · cases h; exact List.mem_cons_self
    · rename_i z hz
      split at h
      · cases h; exact List.mem_cons_self
      · cases h; exact List.mem_cons_of_mem _ (ih hz)

theorem toLevel2_sv (s : State) (slot : Nat) (offs : List Nat) : (s.toLevel2 slot offs).sv = s.sv :=
  (State.toLevel2_only (K := 4608) (Only.refl s) (Needs.refl _)).sv rfl rfl

/-- A move to level 2 changes where the entry's pages are, and no other entry. -/
theorem heldOf_toLevel2 (s : State) (slot m : Nat) (offs : List Nat) : ∃ ps pl, (s.toLevel2 slot offs).heldOf m =
    (s.heldOf m).map fun x => if m = slot then { x with level := 2, pages := ps, places := pl } else x := by
  unfold State.toLevel2
  split
  · rename_i hnone
    refine ⟨[], [], ?_⟩
    by_cases h : m = slot
    · subst h; rw [hnone]; rfl
    · simp [h]
  · refine ⟨_, _, (heldOf_modHeld _ _ _).trans (congrArg _ (heldOf_of_held (congrArg Kv.held ?_) m))⟩
    exact Only.kv (K := 512) (foldl_fst_only (Only.refl s) fun _ _ ha => State.putPage_only ha (Needs.refl _)) rfl

theorem oldestHeld_ne {s : State} {but : Nat} {h : Held} (hold : s.oldestHeld but = some h) : h.slot ≠ but := by
  have hmem := (List.mem_filter.1 (argMin_mem hold)).2
  simp only [Bool.and_eq_true, bne_iff_ne] at hmem
  exact hmem.2

/-- Room is made at the cost of other slots alone. -/
theorem level1Room_beside (n but need : Nat) (s : State) :
    (State.level1Room n but need s).slot but = s.slot but ∧ (State.level1Room n but need s).heldOf but = s.heldOf but := by
  induction n generalizing s with
  | zero => exact ⟨rfl, rfl⟩
  | succ n ih =>
    unfold State.level1Room
    split
    · exact ⟨rfl, rfl⟩
    · split
      · exact ⟨rfl, rfl⟩
      · rename_i h hold
        have hne : but ≠ h.slot := (oldestHeld_ne hold).symm
        refine ⟨(ih _).1.trans ?_, (ih _).2.trans ?_⟩
        · split
          · exact slot_of_slots (by rw [toLevel2_sv]) but
          · rw [slot_releaseEarly]; simp [hne]
        · split
          · obtain ⟨ps, pl, heq⟩ := heldOf_toLevel2 s h.slot but ‹_›
            rw [heq]; simp [hne]
          · rw [heldOf_releaseEarly, if_neg hne]

/-- The held entry of a slot that enters the tier. -/
def State.tierEntry (s : State) (slot : Nat) (x : Slot) (ttl : Nat) : Held :=
  { slot := slot, ctx := x.ctx, h := s.time, ttl := ttl, level := 1, phase := if (s.privatePages slot).isEmpty then .resting else .moving,
    pages := (s.heldOf slot).elim [] Held.pages, places := [] }

/-- A slot becomes HELD with its entry. -/
def State.takenIn (s : State) (slot : Nat) (h : Held) : State :=
  let t := s.modSlot slot fun y => { y with state := .held }
  { t with kv := { t.kv with held := t.kv.held ++ [h] } }

/-- The state once level 1 has, or has not got, the room for a slot that enters. -/
def State.tierRoom (s : State) (slot : Nat) (h : Held) : State :=
  State.level1Room (s.kv.held.length + 1) slot (s.heldBytes h) (s.dropHeld slot)

/-- The tier with a slot taken in: level 1 where that has the room, else level 2, else the slot is released early (09 R301). -/
def State.tierPlaced (s : State) (slot : Nat) (h : Held) : State :=
  let r := s.tierRoom slot h
  let t := r.takenIn slot h
  if r.level1Used + r.heldBytes h ≤ r.level1Size ∧ h.pages.all fun p => p.off.isNone then t
  else
    match t.level2Places (t.toPlace h) with
    | some offs => t.toLevel2 slot offs
    | none => t.releaseEarly slot

theorem tierPlaced_cases (s : State) (slot : Nat) (h : Held) : let t := (s.tierRoom slot h).takenIn slot h
    s.tierPlaced slot h = t ∨ (∃ offs, s.tierPlaced slot h = t.toLevel2 slot offs) ∨ s.tierPlaced slot h = t.releaseEarly slot := by
  intro t
  unfold State.tierPlaced
  dsimp only
  split
  · exact .inl rfl
  · split
    · exact .inr (.inl ⟨_, rfl⟩)
    · exact .inr (.inr rfl)

section Enter

variable {s : State} {slot : Nat} {x : Slot} (hslot : s.slot slot = some x) (ttl : Nat)

include hslot

theorem enterTier_eq : s.enterTier slot ttl = s.tierPlaced slot (s.tierEntry slot x ttl) := by
  unfold State.enterTier
  rw [hslot]
  rfl

theorem slot_takenIn (h : Held) : ((s.tierRoom slot h).takenIn slot h).slot slot = some { x with state := .held } := by
  have hroom : (s.tierRoom slot h).slot slot = some x := (level1Room_beside _ slot _ (s.dropHeld slot)).1.trans hslot
  have hset : ((s.tierRoom slot h).takenIn slot h).slot slot = _ := slot_modSlot (s.tierRoom slot h) slot slot
  rw [hset, hroom]; simp

omit hslot in
theorem heldOf_takenIn {h : Held} (hs : h.slot = slot) : ((s.tierRoom slot h).takenIn slot h).heldOf slot = some h := by
  have hnone : (s.tierRoom slot h).heldOf slot = none :=
    (level1Room_beside _ slot _ (s.dropHeld slot)).2.trans ((heldOf_dropHeld s slot slot).trans (if_pos rfl))
  have happ : ((s.tierRoom slot h).kv.held ++ [h]).find? (fun y => y.slot == slot) = some h := by
    rw [List.find?_append, show (s.tierRoom slot h).kv.held.find? (fun y => y.slot == slot) = none from hnone]
    simp [hs]
  exact happ

/-- How a slot stands once it has entered the tier: HELD with its entry, or EXPIRED for want of room. -/
theorem enterTier_spec : ∃ y, (s.enterTier slot ttl).slot slot = some y ∧ y.commit = x.commit ∧
    ((y.state = .held ∧ ∃ h, (s.enterTier slot ttl).heldOf slot = some h ∧ h.h = s.time ∧ h.ttl = ttl ∧ h.ctx = x.ctx ∧
        h.phase = if (s.privatePages slot).isEmpty then .resting else .moving) ∨
      (y.state = .expired ∧ (s.enterTier slot ttl).heldOf slot = none)) := by
  have hs := slot_takenIn hslot (s.tierEntry slot x ttl)
  have hh : ((s.tierRoom slot (s.tierEntry slot x ttl)).takenIn slot (s.tierEntry slot x ttl)).heldOf slot = _ := heldOf_takenIn rfl
  rw [enterTier_eq hslot]
  rcases tierPlaced_cases s slot (s.tierEntry slot x ttl) with he | ⟨offs, he⟩ | he
  · rw [he]
    exact ⟨_, hs, rfl, .inl ⟨rfl, _, hh, rfl, rfl, rfl, rfl⟩⟩
  · obtain ⟨ps, pl, hl⟩ := heldOf_toLevel2 ((s.tierRoom slot (s.tierEntry slot x ttl)).takenIn slot (s.tierEntry slot x ttl)) slot slot offs
    rw [hh, Option.map_some, if_pos rfl] at hl
    rw [he]
    exact ⟨_, (slot_of_slots (by rw [toLevel2_sv]) slot).trans hs, rfl, .inl ⟨rfl, _, hl, rfl, rfl, rfl, rfl⟩⟩
  · rw [he]
    refine ⟨_, (slot_releaseEarly _ slot slot).trans (congrArg _ hs), ?_, .inr ⟨?_, ?_⟩⟩
    · simp
    · simp [SlotState.onExpiry]
    · rw [heldOf_releaseEarly, if_pos rfl]

end Enter

theorem dropHeld_of_none {s : State} {slot : Nat} (h : s.heldOf slot = none) : s.dropHeld slot = s := by
  have hall : ∀ x ∈ s.kv.held, (x.slot != slot) = true := by simpa [State.heldOf, List.find?_eq_none] using h
  unfold State.dropHeld
  rw [List.filter_eq_self.2 hall]

/-- A slot that the tier does not hold takes there what its private pages take. -/
theorem heldBytes_tierEntry {s : State} {slot : Nat} (x : Slot) (ttl : Nat) (h : s.heldOf slot = none) :
    s.heldBytes (s.tierEntry slot x ttl) = sumList ((s.privatePages slot).map s.pageHeldSize) := by
  unfold State.heldBytes State.tierEntry
  rw [h]
  cases s.privatePages slot <;> simp [sumList]

/-- With room in level 1 a slot that the tier does not hold is HELD there, and no other entry moves. -/
theorem enterTier_of_room {s : State} {slot : Nat} {x : Slot} (hslot : s.slot slot = some x) (ttl : Nat) (hheld : s.heldOf slot = none)
    (hroom : s.level1Used + sumList ((s.privatePages slot).map s.pageHeldSize) ≤ s.level1Size) :
    s.enterTier slot ttl = s.takenIn slot (s.tierEntry slot x ttl) := by
  rw [← heldBytes_tierEntry x ttl hheld] at hroom
  have hstays : s.tierRoom slot (s.tierEntry slot x ttl) = s := by
    unfold State.tierRoom
    rw [dropHeld_of_none hheld]
    exact if_pos hroom
  have hpages : (s.tierEntry slot x ttl).pages = [] := by unfold State.tierEntry; rw [hheld]; rfl
  rw [enterTier_eq hslot]
  unfold State.tierPlaced
  dsimp only
  rw [hstays, hpages]
  exact if_pos ⟨hroom, rfl⟩

/-! ### P1 Hold after a lease's end (11 R397, 02 R52) -/

theorem leaveRun_sv (s : State) : s.leaveRun.sv = s.sv := (State.leaveRun_only (K := 90210) (Only.refl s) (Needs.refl _)).sv rfl rfl

theorem leaveRun_dp (s : State) : s.leaveRun.dp = s.dp := (State.leaveRun_only (K := 90210) (Only.refl s) (Needs.refl _)) .dispatch rfl

theorem enterP1_spec (s : State) (why : HoldReason) :
    (s.enterP1 why).sv = s.sv ∧ (s.enterP1 why).dp = s.dp ∧ (s.enterP1 why).holdsP1 why := by
  unfold State.enterP1
  split
  · rename_i h
    exact ⟨rfl, rfl, rfl, .inr ⟨h.2, _, rfl, rfl⟩⟩
  · exact ⟨leaveRun_sv s, leaveRun_dp s, rfl, .inl rfl⟩

/-! ### The commands -/

section Commands

variable {s : State} (hrun : s.firmwareRuns = true)

include hrun

/-- A page has been moved: of an entry on its way to the tier, or of one on its way back. -/
theorem exec_heldPageWritten {slot : Nat} {h : Held} (hheld : s.heldOf slot = some h) :
    (h.phase = .moving → exec (.heldPageWritten slot) s = .next ((s.moveOnePage slot).retryStalled.scheduleWakes s)) ∧
    (h.phase = .restoring → exec (.heldPageWritten slot) s = .next ((s.restorePageOf slot).scheduleWakes s)) := by
  change (_ → execHeldPageWritten slot s = _) ∧ (_ → execHeldPageWritten slot s = _)
  unfold execHeldPageWritten
  rw [hrun, if_neg (by simp), hheld]
  exact ⟨fun hmoving => by dsimp only; rw [hmoving], fun hrestoring => by dsimp only; rw [hrestoring]⟩

/-- An entry at rest or on its way is released as its time to live ends. -/
theorem exec_heldExpiry {slot : Nat} {h : Held} (hvalid : s.tm.valid = true) (hheld : s.heldOf slot = some h)
    (hphase : h.phase = .resting ∨ h.phase = .moving) : exec (.heldExpiry slot) s =
      .next ((((s.counterTo (h.h + ticksPerSec * h.ttl)).expireHeld slot).sweep).retryStalled.scheduleWakes s) := by
  change execHeldExpiry slot s = _
  unfold execHeldExpiry
  rw [hheld]
  dsimp only
  rw [hrun, hvalid, if_neg (by simp)]
  rcases hphase with hp | hp <;> rw [hp]

theorem exec_pageExhaustionTimeout {tag i n : Nat} {o : OpenStep} {e : LenEntry} {w : EntryWork} (hat : s.entryAt tag i = some (o, e, w))
    (hstall : w.stalledAt = some n) : exec (.pageExhaustionTimeout tag i) s =
      let u := s.advanceTo (n + 12500000)
      let v := if w.restoring then u.retryStalled.restorePageOf e.slot else u.retryStalled
      .next (if v.entryStalls tag i then v.exhaustEntry tag i else v) := by
  change execPageExhaustionTimeout tag i s = _
  unfold execPageExhaustionTimeout
  rw [hat]
  dsimp only
  rw [hstall]
  exact if_neg (by rw [hrun]; simp)

end Commands

/-- What a lease's end comes to once no slot is left to move: P1 Hold under the lease hold, or the hold alone in another state. -/
def State.leaseHold (s : State) : State :=
  let t := { s with dp := { s.dp with expiring := false } }
  if t.pw.state = .p0 then t.enterP1 .lease else if t.pw.hold = .none then { t with pw := { t.pw with hold := .lease } } else t

theorem leaseHold_spec (s : State) : s.leaseHold.dp.expiring = false ∧ s.leaseHold.sv = s.sv ∧
    (s.pw.state = .p0 → s.leaseHold.holdsP1 .lease) ∧
    (s.pw.state ≠ .p0 → s.pw.hold = .none → s.leaseHold.pw = { s.pw with hold := .lease }) := by
  unfold State.leaseHold
  dsimp only
  split
  · rename_i hp0
    obtain ⟨hsv, hdp, hholds⟩ := enterP1_spec { s with dp := { s.dp with expiring := false } } .lease
    exact ⟨by rw [hdp], hsv, fun _ => hholds, fun hne => absurd hp0 hne⟩
  · rename_i hne
    split
    · exact ⟨rfl, rfl, fun h => absurd h hne, fun _ _ => rfl⟩
    · rename_i hhold
      exact ⟨rfl, rfl, fun h => absurd h hne, fun _ h => absurd h hhold⟩

section Orphans

variable {s : State} (hrun : s.firmwareRuns = true) (hexp : s.dp.expiring = true) (hsteps : s.sv.steps.all OpenStep.aborted = true)

include hrun hexp hsteps

/-- Firmware goes on with an expiry once no step is open. -/
theorem orphanSlotMove_goes : ¬ (!s.dp.expiring || (s.sv.steps.any fun o => !o.aborted) || !s.firmwareRuns) = true := by
  have hnone : (s.sv.steps.any fun o => !o.aborted) = false := by
    simpa [List.any_eq_false, List.all_eq_true] using hsteps
  rw [hexp, hnone, hrun]; simp

theorem exec_orphanSlotMove_slot {x : Slot} (hx : argMin Slot.id (s.sv.slots.filter fun x => x.state == .opened) = some x) :
    exec .orphanSlotMove s = .next (s.tierIdle x s.dp.leaseTtl) := by
  change execOrphanSlotMove s = _
  unfold execOrphanSlotMove
  rw [if_neg (orphanSlotMove_goes hrun hexp hsteps), hx]

variable (hnone : (s.sv.slots.filter fun x => x.state == .opened) = [])

include hnone

theorem exec_orphanSlotMove_moving (hmove : ∃ h ∈ s.kv.held, h.phase = .moving) : exec .orphanSlotMove s = .next s := by
  change execOrphanSlotMove s = _
  unfold execOrphanSlotMove
  rw [if_neg (orphanSlotMove_goes hrun hexp hsteps), hnone]
  exact if_pos (by simpa [List.any_eq_true] using hmove)

theorem exec_orphanSlotMove_last (hmove : ∀ h ∈ s.kv.held, h.phase ≠ .moving) : exec .orphanSlotMove s = .next s.leaseHold := by
  change execOrphanSlotMove s = _
  unfold execOrphanSlotMove
  rw [if_neg (orphanSlotMove_goes hrun hexp hsteps), hnone]
  exact if_neg (by simpa [List.any_eq_true] using hmove)

end Orphans

/-! ### The clauses of the statement -/

/-- Settles O60, clause by clause: a page to the tier and back, expiry, exhaustion, the orphan slots and the tier itself. -/
theorem heldPagesMoveExpireAndExhaust : Obligations.HeldPagesMoveExpireAndExhaust := by
  unfold Obligations.HeldPagesMoveExpireAndExhaust
  refine ⟨fun s slot h hrun hheld => ⟨(exec_heldPageWritten hrun hheld).1, fun _ p rest f hpages hframe hplace => ?moves,
      (exec_heldPageWritten hrun hheld).2, fun p rest hpages hno => restorePageOf_fault hheld hpages hno,
      fun p rest x id u f hpages hno hslot hfrom hframe => ?restores⟩,
    fun s slot h hrun hvalid hheld => ?expires, fun s slot x hslot => ?expired,
    fun s tag i n o e w hrun hat hstall => ?exhausted,
    fun s hrun hexp hsteps => ⟨fun x => exec_orphanSlotMove_slot hrun hexp hsteps, exec_orphanSlotMove_moving hrun hexp hsteps,
      fun hnone hmove => ⟨_, exec_orphanSlotMove_last hrun hexp hsteps hnone hmove, leaseHold_spec s⟩⟩,
    fun s x ttl hslot => ?tier⟩
  case moves =>
    obtain rfl := slot_of_heldOf hheld
    have hp : p.slot = h.slot := by
      have hmem : p ∈ s.privatePages h.slot := by rw [hpages]; exact List.mem_cons_self
      have hprivate := (List.mem_filter.1 hmem).2
      simp only [Bool.and_eq_true, beq_iff_eq] at hprivate
      exact hprivate.1
    rw [moveOnePage_eq hheld hpages hplace]
    refine ⟨(heldOf_writePage hframe _ hheld).trans ?_, hp ▸ page_writePage hframe _, frames_writePage hframe _⟩
    unfold Held.joined
    cases h.places <;> rfl
  case restores =>
    obtain ⟨huheld, hupage⟩ := restoreFrame_spec hfrom
    obtain ⟨halone, hwaited⟩ := restorePageOf_found hheld hpages hno hfrom
    have hone := restoreOnePage_eq hheld hpages hno hfrom hslot
    have hv : (s.restoreOnePage slot).heldOf slot = if rest.isEmpty then none else some { h with pages := rest } := by
      rw [hone]; exact heldOf_restored rest ((heldOf_of_held huheld slot).trans hheld)
    refine ⟨halone, fun e he => ?_, ?_, ?_, hv⟩
    · obtain ⟨g, hg, hentry⟩ := hwaited e he
      refine ⟨g, hg, fun y => ⟨(hentry y).1.trans ?_, (hentry y).2⟩⟩
      rw [hv]; cases rest <;> rfl
    · rw [hone, restored_frame]
      refine (frame_modFrame _ _ _).trans ?_
      rw [hframe]; simp
    · rw [hone, restored_page]; exact hupage
  case expires =>
    obtain ⟨m, hm, hcounter, -⟩ := counterTo_spec s (h.h + ticksPerSec * h.ttl) hvalid
    have hu : (s.counterTo (h.h + ticksPerSec * h.ttl)).heldOf slot = some h := by rw [hm]; exact hheld
    refine ⟨s.counterTo (h.h + ticksPerSec * h.ttl), by rw [hm], by rw [hm]; exact hcounter, fun hp => ?_, fun hp => ?_⟩
    · rw [exec_heldExpiry hrun hvalid hheld (.inl hp), expireHeld_resting hu hp]
    · rw [exec_heldExpiry hrun hvalid hheld (.inr hp), expireHeld_moving hu hp]
  case expired =>
    refine ⟨?_, (heldOf_slotExpire s slot slot).trans (if_pos rfl), releaseSlotPages_frames s slot, releaseSlotPages_pages s slot⟩
    rw [slot_slotExpire, hslot, Option.map_some, if_pos rfl]
    cases x.state <;> rfl
  case exhausted =>
    obtain ⟨m, hm, htick⟩ := advanceTo_spec s (n + 12500000)
    refine ⟨s.advanceTo (n + 12500000), by rw [hm], by rw [hm]; exact htick, fun hgoes => ?_, fun o' e' w' hstalls hat' => ?_⟩
    · rw [exec_pageExhaustionTimeout hrun hat hstall]; exact congrArg _ (if_neg (by rw [hgoes]; simp))
    · obtain ⟨⟨p, x, hp, hx, hst⟩, hfree, hrecord⟩ := exhaustEntry_spec hat'
      refine ⟨_, p, x, ?_, hp, hx, hst, hfree, hrecord⟩
      rw [exec_pageExhaustionTimeout hrun hat hstall]; exact congrArg _ (if_pos hstalls)
  case tier =>
    obtain ⟨y, hy, hcommit, hstate⟩ := enterTier_spec hslot ttl
    refine ⟨y, (slot_async _ _ _ _).trans hy, hcommit, ?_, fun hnone hroom => ?_⟩
    · rw [show (s.tierIdle x ttl).heldOf x.id = (s.enterTier x.id ttl).heldOf x.id from heldOf_async _ _ _ _]
      exact hstate
    · have henter := enterTier_of_room hslot ttl hnone hroom
      refine ⟨?_, (async_next _ _ _).trans (by rw [henter]; rfl)⟩
      rw [henter] at hy
      have hset := (slot_modSlot s x.id x.id (f := fun y => { y with state := .held })).symm.trans hy
      rw [hslot, Option.map_some, if_pos rfl] at hset
      cases hset; rfl

end Sys2Proof.Machine
end

section
/-! PROOFS. O57: the jobs of a correction unit, its spot comparison, an adapter's contribution and the result of a query head (04 R127, R129,
R137, R138, 06 R193, 08 R256, R261, R263, 09 R279). -/

set_option Elab.async false

namespace Sys2Proof.Machine

/-! ### The job at the head of a lane (04 R127, R129) -/

theorem argMin_le {α : Type} {key : α → Nat} {l : List α} {x : α} (h : argMin key l = some x) : ∀ y ∈ l, key x ≤ key y := by
  induction l generalizing x with
  | nil => cases h
  | cons z l ih =>
    unfold argMin at h
    split at h
    · rename_i hnone
      cases h
      cases l with
      | nil => simp
      | cons a l => unfold argMin at hnone; split at hnone <;> try split at hnone
                    all_goals cases hnone
    · rename_i m hm
      intro y hy
      have hrest := ih hm
      split at h <;> cases h
      · rename_i hle
        rcases List.mem_cons.1 hy with rfl | hy
        · exact Nat.le_refl _
        · exact hle.trans (hrest y hy)
      · rename_i hlt
        rcases List.mem_cons.1 hy with rfl | hy
        · omega
        · exact hrest y hy

/-- No spot copy waits ahead of the job at the head, and no job of an older step. -/
theorem headJob_spec {s : State} {die unit : Nat} {j : FbJob} (h : s.headJob die unit = some j) :
    (s.region die unit).spots = [] ∧ j ∈ (s.region die unit).jobs ∧
      ∀ x ∈ (s.region die unit).jobs, s.stepPlace j.stepTag ≤ s.stepPlace x.stepTag := by
  unfold State.headJob at h
  dsimp only at h
  split at h
  · rename_i hspots
    exact ⟨List.isEmpty_iff.1 hspots, argMin_mem h, argMin_le h⟩
  · cases h

section HeadJob

variable {s : State} {die unit : Nat} {j : FbJob} (hhead : s.headJob die unit = some j)

include hhead

theorem exec_fallbackJobDone_unweighted (hnone : allSome (j.parts.map fun p => s.jobAddend (TileId.array ⟨die, j.tile⟩ j.arr) j.cause p) = none) :
    exec (.fallbackJobDone die unit) s = .next (s.failStep j.stepTag 3) := by
  change execFallbackJobDone die unit s = _
  unfold execFallbackJobDone
  rw [hhead]
  dsimp only
  rw [hnone]

theorem exec_fallbackJobDone_weighted {vs : List (List Int)}
    (hsome : allSome (j.parts.map fun p => s.jobAddend (TileId.array ⟨die, j.tile⟩ j.arr) j.cause p) = some vs) :
    exec (.fallbackJobDone die unit) s = .next ((j.parts.zip vs).foldl (fun st e => st.addPart ⟨die, j.tile⟩ j.arr e.1 e.2)
      (s.modRegion die unit fun x => { x with jobs := x.jobs.erase j })) := by
  change execFallbackJobDone die unit s = _
  unfold execFallbackJobDone
  rw [hhead]
  dsimp only
  rw [hsome]

end HeadJob

/-! ### A spot comparison (04 R137, R138) -/

/-- The worst deviation that a spot comparison finds: its column, and the deviation. -/
def State.spotWorst (s : State) (die : Nat) (j : SpotJob) : Nat × Nat :=
  worstGap (spotGaps (s.recordD (TileId.array ⟨die, j.tile⟩ j.named)) j.range j.slice j.y (rowInputs j.mode j.input.shifts j.input.codes))

/-- The lane without the comparison at its head. -/
def State.leaveSpot (s : State) (die unit : Nat) (rest : List SpotJob) : State :=
  s.modRegion die unit fun x => { x with spots := rest }

/-- Record 0x0003 of a comparison beyond its limit. -/
def State.spotRecorded (s : State) (die unit : Nat) (j : SpotJob) (rest : List SpotJob) : State :=
  (s.leaveSpot die unit rest).raise 0x0003 die [locOf (TileId.array ⟨die, j.tile⟩ j.cells), j.stepTag, (s.spotWorst die j).1,
    Nat.min 0xFFFFFFFF (ceilDiv (s.spotWorst die j).2 (lsb j.range)), if j.cells = 16 then j.named else 31]

theorem leaveSpot_spots (s : State) (die unit : Nat) (rest : List SpotJob) : ((s.leaveSpot die unit rest).region die unit).spots = rest := by
  unfold State.leaveSpot; rw [region_mod]

section Spot

variable {s : State} {die unit : Nat} {j : SpotJob} {rest : List SpotJob} (hspots : (s.region die unit).spots = j :: rest)

include hspots

theorem exec_spotComparisonDone_fault (hover : 4 * (64 * lsb j.range) < (s.spotWorst die j).2) :
    exec (.spotComparisonDone die unit) s = .next (((s.spotRecorded die unit j rest).requestCal (TileId.array ⟨die, j.tile⟩ j.cells) 2).transient
      j.stepTag j.epoch 0x0003 die (locOf (TileId.array ⟨die, j.tile⟩ j.cells))) := by
  change execSpotComparisonDone die unit s = _
  unfold execSpotComparisonDone
  rw [hspots]
  exact if_pos hover

/-- Within four LSB, and within the lower of the two excursion bounds or outside rated conditions, the copy leaves the lane and no more. -/
theorem exec_spotComparisonDone_within (hwithin : (s.spotWorst die j).2 ≤ 4 * (64 * lsb j.range))
    (hbound : 1000 * (s.spotWorst die j).2 ≤ 1412 * (64 * lsb j.range) ∨ s.rated = false) :
    exec (.spotComparisonDone die unit) s = .next (s.leaveSpot die unit rest) := by
  have hcalm (milli : Nat) (hmilli : 1412 ≤ milli) :
      ¬ (decide (milli * (64 * lsb j.range) < 1000 * (s.spotWorst die j).2) && s.rated) = true := by
    rcases hbound with hle | hrated
    · have := hle.trans (Nat.mul_le_mul_right _ hmilli)
      simp [Nat.not_lt.2 this]
    · simp [hrated]
  change execSpotComparisonDone die unit s = _
  unfold execSpotComparisonDone
  rw [hspots]
  refine (if_neg (Nat.not_lt.2 hwithin)).trans (if_neg (hcalm _ ?_))
  split <;> decide

end Spot

/-! ### An adapter's contribution (08 R261, R263) -/

/-- A home bank at which an adapter is due no more. -/
def State.adapterServed (s : State) (home : TileId) (b adapter : Nat) : State :=
  s.modTile home fun x => x.setBank b { x.bank b with adapters := (x.bank b).adapters.filter fun y => y != adapter }

section Adapter

variable {s : State} {tag token tensor adapter b : Nat} {home : TileId} {o : OpenStep} {tok : TokenWork} {g : Staged} {l : LayerRec}
  {tr : TensorRec} {red : Reduction} (hlive : s.liveStep tag = some o) (htok : o.tokens[token]? = some tok)
  (hstaged : o.staged.find? (fun x => x.is home.die adapter tok.layer tensor) = some g)
  (hlayer : ((s.model o.model).bind fun m => m.layer tok.layer) = some l) (htensor : l.tensors.find? (fun x => x.tensor == tensor) = some tr)
  (hred : ((s.tile home).bank b).red = some red)

include hlive htok hstaged hlayer htensor hred

theorem adapterInto_eq (col : Nat) : s.adapterInto tag token tensor adapter (home, b, col) =
    if hiddenFault (Adapter.hidden g.target (s.quantised tag token tok.layer tensor tr.k)) then s.failStep tag 4
    else ((s.adapterServed home b adapter).addToBank home b 0 red
      (Adapter.column g.target (s.quantised tag token tok.layer tensor tr.k) col tr.n)).tryDrain home b := by
  unfold State.adapterInto
  simp only [hlive, htok, hstaged, hlayer, htensor, hred]
  rfl

end Adapter

/-! ### The result of a query head (09 R279, 08 R256) -/

section Head

variable {s : State} {tag token head : Nat} {o : OpenStep} {tok : TokenWork} {e : LenEntry} {w : EntryWork} {l : LayerRec}
  (hrun : s.inRun = true) (hlive : s.liveStep tag = some o) (htok : o.tokens[token]? = some tok) (he : o.cmd.entries[tok.entry]? = some e)
  (hw : o.entries[tok.entry]? = some w) (hlayer : ((s.model (o.modelOf tok.draft)).bind fun m => m.layer tok.layer) = some l)

include hrun hlive htok he hw hlayer

/-- A head whose layer has pages in the tier is not taken. -/
theorem exec_attentionResult_held (hheld : s.layerHeld e.slot tok.draft tok.layer = true) :
    exec (.attentionResult tag token head) s = .next s := by
  change execAttentionResult tag token head s = _
  unfold execAttentionResult State.attend
  simp only [hrun, hlive, htok, he, hw, hlayer, hheld, Bool.or_true, Bool.not_true, Bool.false_eq_true, if_false, if_true]

variable {q : List Nat} {kv : List (List Nat)} (hstage : tok.stage = 0) (hopen : tok.finished = false) (hattends : tok.attendsHere l = true)
  (hhead : head < l.qHeads) (hnew : ∀ x ∈ tok.heads, x.1 ≠ head) (hq : queryOf l tok head = some q)
  (hkv : s.keysValues tag e.slot tok.draft tok.layer (head * l.kvHeads / l.qHeads) l.kvB16
    (s.draftHeld tag e tok (head * l.kvHeads / l.qHeads) (attended o e tok)) = some kv)
  (hhere : s.layerHeld e.slot tok.draft tok.layer = false)

include hstage hopen hattends hhead hnew hq hkv hhere

/-- What becomes of a head that its token still owes, with its query, keys and values at hand. -/
theorem exec_attentionResult_taken :
    let h := head * l.kvHeads / l.qHeads
    let engine := attentionEngine e w tok.draft tok.layer h
    let q1 := Config.rotary tok.position l.headDim l.rotary q
    let r := attentionResult s.draw l.headDim q1 kv
    let d : State := { s with draw := s.draw + 1 }
    exec (.attentionResult tag token head) s = .next (
      if o.headWaits l tok engine then s
      else if q1.any f32.special || kv.any (fun x => x.any f32.special) || scoreFault q1 (kv.take (kv.length / 2)) || r.any f32.special then
        d.failStep tag 4
      else ((d.engineRan ⟨engine, tag, token, tok.layer, .attention head,
          s.remoteDies engine e.slot tok.draft tok.layer (s.draftHeld tag e tok h (attended o e tok))⟩).modToken tag token
        fun t => { t with heads := t.heads ++ [(head, r)] }).advanceToken tag token) := by
  have hheads : (tok.heads.any fun x => x.1 == head) = false := by simpa [List.any_eq_false] using hnew
  have hgoes : ¬ (tok.stage != 0 || tok.finished || !tok.attendsHere l || decide (l.qHeads ≤ head) ||
      (tok.heads.any fun x => x.1 == head) || s.layerHeld e.slot tok.draft tok.layer) = true := by
    simp [hstage, hopen, hattends, Nat.not_le.2 hhead, hheads, hhere]
  change execAttentionResult tag token head s = _
  unfold execAttentionResult State.attend
  simp only [hrun, hlive, htok, he, hw, hlayer, Bool.not_true, Bool.false_eq_true, if_false, hgoes, hq, hkv]
  rfl

end Head

/-! ### The clauses of the statement -/

/-- Settles O57, row by row: the job at the head of a lane, its parts, the spot comparison, the adapters and the query head. -/
theorem correctionUnitsServeTheirJobs : Obligations.CorrectionUnitsServeTheirJobs := by
  unfold Obligations.CorrectionUnitsServeTheirJobs
  refine ⟨fun s die unit j hhead => ?job, fun s id arr p v => ?part,
    fun s die unit j rest hspots => ⟨fun hover => ?beyond, fun hwithin hbound => ?within⟩, fun _ _ _ _ _ => rfl,
    fun s tag token tensor adapter b col home o tok g l tr red hlive htok hstaged hlayer htensor hred => ⟨fun hfault => ?hidden, fun hfits => ?adds⟩,
    fun s tag token head o tok e w l q kv hrun hlive htok he hw hlayer hstage hopen hattends hhead hnew hq hkv =>
      ⟨fun hstays => ?stays, fun hfree hhere => ⟨fun hbad => ?bad, fun hgood => ?good⟩⟩⟩
  case part =>
    exact ⟨s.modTile id fun x => x.setBank p.bank { x.bank p.bank with fallbacks := (x.bank p.bank).fallbacks - 1 },
      bank_modTile_setBank s id p.bank _, rfl, rfl, rfl⟩
  case job =>
    obtain ⟨hspots, hmem, hfirst⟩ := headJob_spec hhead
    exact ⟨hspots, hmem, hfirst, exec_fallbackJobDone_unweighted hhead,
      fun vs hvs => ⟨s.modRegion die unit fun x => { x with jobs := x.jobs.erase j }, by rw [region_mod], rfl, rfl,
        exec_fallbackJobDone_weighted hhead hvs⟩⟩
  case beyond =>
    exact ⟨s.spotRecorded die unit j rest, _, raise_last _ _ _ _, rfl, rfl, rfl, leaveSpot_spots s die unit rest,
      exec_spotComparisonDone_fault hspots hover⟩
  case within => exact ⟨_, exec_spotComparisonDone_within hspots hwithin hbound, leaveSpot_spots s die unit rest, rfl, rfl, rfl⟩
  case hidden => rw [adapterInto_eq hlive htok hstaged hlayer htensor hred]; exact if_pos hfault
  case adds =>
    refine ⟨s.adapterServed home b adapter, congrArg Bank.adapters (bank_modTile_setBank s home b _), rfl, ?_⟩
    rw [adapterInto_eq hlive htok hstaged hlayer htensor hred]
    exact if_neg (by rw [hfits]; simp)
  case stays =>
    cases hhere : s.layerHeld e.slot tok.draft tok.layer with
    | true => exact exec_attentionResult_held hrun hlive htok he hw hlayer hhere
    | false =>
      have hwaits := hstays.resolve_right (by simp [hhere])
      exact (exec_attentionResult_taken hrun hlive htok he hw hlayer hstage hopen hattends hhead hnew hq hkv hhere).trans
        (congrArg _ (if_pos hwaits))
  case bad =>
    exact (exec_attentionResult_taken hrun hlive htok he hw hlayer hstage hopen hattends hhead hnew hq hkv hhere).trans
      (congrArg _ ((if_neg (by rw [hfree]; simp)).trans (if_pos hbad)))
  case good =>
    exact (exec_attentionResult_taken hrun hlive htok he hw hlayer hstage hopen hattends hhead hnew hq hkv hhere).trans
      (congrArg _ ((if_neg (by rw [hfree]; simp)).trans (if_neg (by rw [hgood]; simp))))

end Sys2Proof.Machine
end

section
/-! PROOFS. O53: the frames of a parcel, its acceptance or its end, and the records built from it (06 R168, R170, R177, R192, R193, R546, 04
R116, 16 R539). The first part says what the operations on an array leave of the directory, the records and its tile; O55 uses it too. -/

set_option Elab.async false

namespace Sys2Proof.Machine

/-! ### The directory and the records after an update -/

theorem dir_of_wt {s t : State} (h : t.wt = s.wt) (a : ArrId) : t.dir a = s.dir a := by
  unfold State.dir State.baseDir; rw [h]

theorem Only.wt {K : Nat} {s t : State} (h : Only K s t) (hw : K.testBit 13 = false) : t.wt = s.wt := h .weights hw

@[simp] theorem ArrId.array_tid (a : ArrId) : a.tid.array a.arr = a := rfl

@[simp] theorem ArrId.tid_array (t : TileId) (k : Nat) : (t.array k).tid = t := rfl

/-- Lists fetched anew change neither the weights nor a tile. -/
theorem renewLists_frame (s : State) (a : ArrId) : (s.renewLists a).wt = s.wt ∧ ∀ id, (s.renewLists a).tile id = s.tile id := by
  obtain ⟨rs, h⟩ := s.renewLists_eq a
  rw [h]
  exact ⟨rfl, fun _ => rfl⟩

theorem setRecord_dir (s : State) (a b : ArrId) (r : CodeRecord) : (s.setRecord a r).dir b = s.dir b := by
  obtain ⟨rs, h⟩ := s.setRecord_eq a r
  rw [h]; rfl

theorem setRecord_tile (s : State) (a : ArrId) (r : CodeRecord) (id : TileId) : (s.setRecord a r).tile id = s.tile id := by
  obtain ⟨rs, h⟩ := s.setRecord_eq a r
  rw [h]; rfl

/-! ### A run that is dropped (07 R227, Table 7.7) -/

theorem dropRun_dir (s : State) (id : TileId) (requeue first : Bool) (a : ArrId) : (s.dropRun id requeue first).dir a = s.dir a := by
  unfold State.dropRun
  split
  · rfl
  · dsimp only
    split <;> rfl

theorem discardRun_dir (s : State) (id : TileId) (requeue : Bool) (a : ArrId) : (s.discardRun id requeue).dir a = s.dir a := by
  unfold State.discardRun
  dsimp only
  split <;> exact dropRun_dir s id requeue false a

theorem dropRun_records (s : State) (id : TileId) (requeue first : Bool) : (s.dropRun id requeue first).wt.records = s.wt.records ∧
    (s.dropRun id requeue first).wt.masters = s.wt.masters := by
  unfold State.dropRun
  split
  · exact ⟨rfl, rfl⟩
  · dsimp only
    split <;> exact ⟨rfl, rfl⟩

theorem discardRun_records (s : State) (id : TileId) (requeue : Bool) : (s.discardRun id requeue).wt.records = s.wt.records ∧
    (s.discardRun id requeue).wt.masters = s.wt.masters := by
  unfold State.discardRun
  dsimp only
  split <;> exact dropRun_records s id requeue false

/-! ### A working array goes out of service (06 Table 6.5, R199) -/

/-- The entry of an array OUT_OF_SERVICE, before the driver or a rewrite takes it. -/
def State.leavesService (s : State) (a : ArrId) : State := s.modDir a fun d => { d with astate := .outOfService }

theorem leavesService_rewritable (s : State) (a : ArrId) : (s.leavesService a).rewritable a = (!(s.dir a).retired && (s.record a).isSome) := by
  unfold State.rewritable State.leavesService
  rw [dir_mod]; rfl

/-- An array in service leaves it under the spare's cover, or asks for its rewrite; the state between differs in its tile and its franking. -/
theorem outOfService_of_inService {s : State} {a : ArrId} (hs : (s.dir a).astate = .inService) : ∃ u : State,
    (∀ b, u.dir b = (s.leavesService a).dir b) ∧ u.wt.records = s.wt.records ∧ u.wt.masters = s.wt.masters ∧
    s.outOfService a = if s.stateOut a = .covered then u.programUnderCover a.tid a.arr else u.askRewrite a := by
  have hgo : ¬ ((s.dir a).astate != .inService) = true := by rw [hs]; decide
  have htile : (s.leavesService a).tile a.tid = s.tile a.tid := rfl
  by_cases hcover : (s.leavesService a).rewritable a = true ∧ ((s.leavesService a).tile a.tid).standIn = some a.arr
  · have hout : s.stateOut a = .covered := by
      obtain ⟨hrw, hstand⟩ := hcover
      rw [leavesService_rewritable, Bool.and_eq_true, Bool.not_eq_true'] at hrw
      exact if_pos ⟨htile ▸ hstand, hrw⟩
    refine ⟨if ((s.leavesService a).tile a.tid).run.any fun r => r.arr == a.arr then (s.leavesService a).dropRun a.tid true true else
      s.leavesService a, fun b => ?_, ?_, ?_, ?_⟩
    · split
      exacts [dropRun_dir _ _ _ _ b, rfl]
    · split
      exacts [(dropRun_records _ _ _ _).1, rfl]
    · split
      exacts [(dropRun_records _ _ _ _).2, rfl]
    · rw [if_pos hout]
      exact (if_neg hgo).trans (if_pos hcover)
  · have hout : s.stateOut a ≠ .covered := by
      rw [leavesService_rewritable, Bool.and_eq_true, Bool.not_eq_true', htile] at hcover
      unfold State.stateOut
      rw [if_neg fun h => hcover ⟨h.2, h.1⟩]
      decide
    refine ⟨if ((s.leavesService a).tile a.tid).run.any fun r => r.arr == a.arr then (s.leavesService a).discardRun a.tid true else
      s.leavesService a, fun b => ?_, ?_, ?_, ?_⟩
    · split
      exacts [discardRun_dir _ _ _ b, rfl]
    · split
      exacts [(discardRun_records _ _ _).1, rfl]
    · split
      exacts [(discardRun_records _ _ _).2, rfl]
    · rw [if_neg hout]
      exact (if_neg hgo).trans (if_neg hcover)

theorem programUnderCover_dir (s : State) (a : ArrId) : ((s.programUnderCover a.tid a.arr).dir a).astate = .covered :=
  congrArg DirEntry.astate (dir_mod s a fun d => { d with astate := .covered })

theorem askRewrite_wt (s : State) (a : ArrId) : (s.askRewrite a).wt = s.wt := by
  unfold State.askRewrite
  split <;> rfl

theorem outOfService_of_not_inService {s : State} {a : ArrId} (hs : (s.dir a).astate ≠ .inService) : s.outOfService a = s :=
  if_pos (by simpa using hs)

/-- COVERED where the spare stands in for the array and it can be programmed, else OUT_OF_SERVICE. -/
theorem outOfService_dir {s : State} {a : ArrId} (hs : (s.dir a).astate = .inService) : ((s.outOfService a).dir a).astate = s.stateOut a := by
  obtain ⟨u, hdir, -, -, heq⟩ := outOfService_of_inService hs
  rw [heq]
  by_cases hcover : s.stateOut a = .covered
  · rw [if_pos hcover, programUnderCover_dir, hcover]
  · have hout : s.stateOut a = .outOfService := by
      unfold State.stateOut at hcover ⊢
      split at hcover
      · exact absurd rfl hcover
      · rename_i h; rw [if_neg h]
    rw [if_neg hcover, dir_of_wt (askRewrite_wt u a), hdir, hout]
    exact congrArg DirEntry.astate (dir_mod s a _)

/-- Records and masters stay as an array goes out of service. -/
theorem outOfService_records (s : State) (a : ArrId) : (s.outOfService a).wt.records = s.wt.records ∧
    (s.outOfService a).wt.masters = s.wt.masters := by
  by_cases hs : (s.dir a).astate = .inService
  · obtain ⟨u, -, hrecords, hmasters, heq⟩ := outOfService_of_inService hs
    rw [heq]
    split
    · exact ⟨hrecords, hmasters⟩
    · rw [askRewrite_wt]; exact ⟨hrecords, hmasters⟩
  · rw [outOfService_of_not_inService hs]; exact ⟨rfl, rfl⟩

/-! ### An array that is to be programmed, and one that binds (06 Table 6.5, 16 R539) -/

theorem queueProgram_tile (s : State) (a : ArrId) :
    ((s.queueProgram a).tile a.tid).progQueue = (s.tile a.tid).progQueue ++ [mkProgram a.arr a.arr false] := by
  unfold State.queueProgram; rw [tile_mod]

/-- An array taken to LOADING with its program queued. -/
def State.loads (s : State) (a : ArrId) : State := (s.modDir a fun d => { d with astate := .loading }).queueProgram a

theorem loads_spec (s : State) (a : ArrId) : ((s.loads a).dir a).astate = .loading ∧
    ((s.loads a).tile a.tid).progQueue = (s.tile a.tid).progQueue ++ [mkProgram a.arr a.arr false] :=
  ⟨congrArg DirEntry.astate (dir_mod s a fun d => { d with astate := .loading }), queueProgram_tile _ a⟩

theorem bindArray_of_unbound {s : State} {a : ArrId} {r : CodeRecord} (hrec : s.record a = some r) (hs : (s.dir a).astate = .unbound) :
    s.bindArray a = if r.digest = (s.dir a).recordDigest then (if s.calSound a then s else s.requestCal a 1).startScan a else s.loads a := by
  unfold State.bindArray
  rw [hrec]
  exact if_neg (by rw [hs]; decide)

/-! ### A frame of a parcel (06 R170, R546, 11 R362) -/

theorem crcOk_of_frameStatus {s : State} {h : FrameHdr} {type : Nat} {lease len : Bool} (hst : s.frameStatus h type lease len = 0) :
    h.crcOk = true := by
  by_contra hbad
  rw [Bool.not_eq_true] at hbad
  revert hst
  unfold State.frameStatus
  rw [hbad]
  split
  · simp
  split
  · simp
  split
  · simp
  · simp

/-- A frame that passes every check takes effect on the state in which it is heard. -/
theorem withFrame_of_takes {s : State} {h : FrameHdr} {chan type : Nat} {lease len : Bool} {payload : Bytes} {f : State → State}
    (ht : s.takes h chan type lease len = true) : s.withFrame h chan type payload lease len f = f (s.heard h chan) := by
  unfold State.takes at ht
  simp only [Bool.and_eq_true, beq_iff_eq] at ht
  obtain ⟨⟨hport, hfirm⟩, hstatus⟩ := ht
  unfold State.withFrame State.takeChecked
  rw [hport, if_neg (by simp)]
  dsimp only
  rw [hfirm, if_neg (by simp)]
  exact if_pos hstatus

theorem cutThrough_of_crcOk {s : State} {h : FrameHdr} {type : Nat} {payload : Bytes} {f : State → Bytes → State} (hcrc : h.crcOk = true) :
    s.cutThrough h type payload f = s := by
  unfold State.cutThrough
  rw [hcrc]; rfl

theorem ack_eq (s : State) (h : FrameHdr) : ∃ d, s.ack h = { s with dp := d } := by
  unfold State.ack
  split
  · exact ⟨_, rfl⟩
  · exact ⟨s.dp, rfl⟩

theorem exec_parcelFrame {s : State} {h : FrameHdr} {p : Bytes} (ht : s.takes h 0 15 true (16 ≤ p.length) = true) :
    exec (.parcelFrame h p) s =
      .next (((s.heard h 0).ack h).parcelData true (fld p 0 4) (fld p 4 4) (fld p 8 8) (p.drop 16)) := by
  have hcrc : h.crcOk = true := by
    unfold State.takes at ht
    simp only [Bool.and_eq_true, beq_iff_eq] at ht
    exact crcOk_of_frameStatus ht.2
  change execParcelFrame h p s = _
  unfold execParcelFrame
  rw [cutThrough_of_crcOk hcrc, withFrame_of_takes ht]

theorem scheduleWakes_wt (s t : State) : (s.scheduleWakes t).wt = s.wt :=
  (State.scheduleWakes_only (K := 66) (Only.refl s) (Needs.refl _)).wt rfl

theorem exec_courierParcelFrame {s : State} {h : CourierHdr} {p : Bytes} (hc : s.carried h 2 = true) (hlen : 16 ≤ p.length) :
    exec (.courierParcelFrame h p) s = .next ((s.parcelData false (fld p 0 4) (fld p 4 4) (fld p 8 8) (p.drop 16)).scheduleWakes s) := by
  change execCourierParcelFrame h p s = _
  unfold execCourierParcelFrame
  rw [withCourier_carried hc]
  unfold State.takeParcel
  rw [if_neg (Nat.not_lt.2 hlen)]

/-- Whether a piece has joined its parcel shows in the assemblies of the state after it alone. -/
theorem State.assembles.of_wt {s t u : State} {v : Bool} {m i off : Nat} {d : Bytes} (h : s.assembles t v m i off d) (hw : u.wt = t.wt) :
    s.assembles u v m i off d := by
  unfold State.assembles at h ⊢
  rw [hw]; exact h

/-! ### Acceptance of a whole parcel (06 R168, R177, Table 6.2) -/

theorem dropAssembly_gone (s : State) (model index : Nat) : (s.dropAssembly model index).wt.assembling.find? (fun a => a.is model index) = none := by
  simp [State.dropAssembly, List.find?_eq_none]

/-- A FREE array of an accepted parcel goes to LOADING for its model. -/
def DirEntry.claimedBy (model : Nat) (d : DirEntry) : DirEntry :=
  match d.astate with
  | .free => { d with astate := .loading, model := model }
  | _ => d

theorem claimedBy_of_not_free {model : Nat} {d : DirEntry} (h : d.astate ≠ .free) : d.claimedBy model = d := by
  unfold DirEntry.claimedBy
  split
  · rename_i hfree; exact absurd hfree h
  · rfl

theorem claimedBy_loading {model : Nat} {d : DirEntry} (h : d.astate = .free) : (d.claimedBy model).astate = .loading ∧
    (d.claimedBy model).model = model := by
  unfold DirEntry.claimedBy
  rw [h]; exact ⟨rfl, rfl⟩

/-- An entry in LOADING for the model keeps that through the arrays of a list; a FREE one of the list comes to it. -/
theorem foldl_claimedBy (model : Nat) (l : List ArrId) (s : State) (x : ArrId) :
    let t := l.foldl (fun st a => st.modDir a (DirEntry.claimedBy model)) s
    ((s.dir x).astate = .loading → (t.dir x) = s.dir x) ∧
    ((s.dir x).astate = .free → x ∈ l → (t.dir x).astate = .loading ∧ (t.dir x).model = model) := by
  induction l generalizing s with
  | nil => exact ⟨fun _ => rfl, fun _ h => absurd h List.not_mem_nil⟩
  | cons a l ih =>
    obtain ⟨hstays, hcomes⟩ := ih (s.modDir a (DirEntry.claimedBy model))
    rw [List.foldl_cons]
    by_cases hxa : x = a
    · subst hxa
      rw [dir_mod] at hstays hcomes
      refine ⟨fun h => ?_, fun h _ => ?_⟩
      · rw [claimedBy_of_not_free (by rw [h]; decide)] at hstays
        exact hstays h
      · have hloading := claimedBy_loading (model := model) h
        rw [hstays hloading.1]; exact hloading
    · rw [dir_mod_ne _ _ _ _ hxa] at hstays hcomes
      exact ⟨hstays, fun h hmem => hcomes h ((List.mem_cons.1 hmem).resolve_left hxa)⟩

/-- The master that an accepted parcel becomes. -/
def State.newMaster (s : State) (h : ParcelHdr) (b : Bytes) : Master :=
  { hdr := h, header := b.take 128, payload := slice b 128 h.length, invalid := false
    stack := match s.master h.model h.index with
      | some m => m.stack
      | none => s.masterStack h.die }

/-- The masters with that of an accepted parcel. -/
def State.withMaster (s : State) (h : ParcelHdr) (b : Bytes) : State :=
  { s with wt := { s.wt with
    masters := putBy (fun x => x.hdr.model == h.model && x.hdr.index == h.index) (s.newMaster h b) s.wt.masters } }

/-- The weights of an accepted parcel: its master, and its FREE arrays in LOADING. Its lists and its adapters' places are no part of them. -/
theorem acceptParcel_wt (s : State) (h : ParcelHdr) (b : Bytes) : (s.acceptParcel h b).wt =
    (h.arrayList.foldl (fun st a => st.modDir a (DirEntry.claimedBy h.model)) (s.withMaster h b)).wt := by
  have hlists : (h.arrayList.foldl State.renewLists (s.withMaster h b)).wt = (s.withMaster h b).wt :=
    foldl_keep State.wt _ _ _ fun x a => (renewLists_frame x a).1
  have hdirs (l : List ArrId) (u v : State) (huv : u.wt = v.wt) :
      (l.foldl (fun st a => st.modDir a (DirEntry.claimedBy h.model)) u).wt =
      (l.foldl (fun st a => st.modDir a (DirEntry.claimedBy h.model)) v).wt := by
    induction l generalizing u v with
    | nil => exact huv
    | cons a l ih =>
      refine ih _ _ ?_
      change (u.modDir a (DirEntry.claimedBy h.model)).wt = (v.modDir a (DirEntry.claimedBy h.model)).wt
      unfold State.modDir State.setDir
      rw [dir_of_wt huv, huv]
  exact hdirs h.arrayList _ _ hlists

theorem foldl_modDir_frame (l : List ArrId) (f : DirEntry → DirEntry) (s : State) :
    (l.foldl (fun st a => st.modDir a f) s).wt.masters = s.wt.masters ∧
    (l.foldl (fun st a => st.modDir a f) s).wt.assembling = s.wt.assembling :=
  ⟨foldl_keep (fun x => x.wt.masters) _ _ _ fun _ _ => rfl, foldl_keep (fun x => x.wt.assembling) _ _ _ fun _ _ => rfl⟩

theorem acceptParcel_spec (s : State) (h : ParcelHdr) (b : Bytes) :
    (s.acceptParcel h b).wt.assembling = s.wt.assembling ∧
    (s.acceptParcel h b).master h.model h.index = some (s.newMaster h b) ∧
    ∀ x ∈ h.arrayList, (s.dir x).astate = .free → ((s.acceptParcel h b).dir x).astate = .loading ∧ ((s.acceptParcel h b).dir x).model = h.model := by
  have hwt := acceptParcel_wt s h b
  obtain ⟨hmasters, hassembling⟩ := foldl_modDir_frame h.arrayList (DirEntry.claimedBy h.model) (s.withMaster h b)
  refine ⟨by rw [hwt, hassembling]; rfl, ?_, fun x hx hfree => ?_⟩
  · unfold State.master
    rw [hwt, hmasters]
    exact find_putBy _ _ _ (by simp [State.newMaster])
  · rw [dir_of_wt hwt]
    exact (foldl_claimedBy h.model h.arrayList (s.withMaster h b) x).2 hfree hx

/-- Acceptance changes nothing that a status to the host names or needs. -/
theorem acceptParcel_frame (s : State) (h : ParcelHdr) (b : Bytes) : (s.acceptParcel h b).tm = s.tm ∧ (s.acceptParcel h b).fb = s.fb ∧
    (s.acceptParcel h b).dp = s.dp ∧ (s.acceptParcel h b).ev = s.ev := by
  have honly : Only 25600 s (s.acceptParcel h b) := State.acceptParcel_only (Only.refl s) (Needs.refl _)
  exact ⟨honly .clocks rfl, honly .fabric rfl, honly .dispatch rfl, honly .events rfl⟩

theorem feature_of_dp {s t : State} (h : t.dp = s.dp) (b : Nat) : t.feature b = s.feature b := by
  unfold State.feature State.settings; rw [h]

/-- A parcel judged: its assembly is gone, and with status 0 it is accepted. -/
def State.judged (s : State) (model index status : Nat) (h : ParcelHdr) (b : Bytes) : State :=
  if status = 0 then (s.dropAssembly model index).acceptParcel h b else s.dropAssembly model index

theorem judged_frame (s : State) (model index status : Nat) (h : ParcelHdr) (b : Bytes) : let u := s.judged model index status h b
    u.tm = s.tm ∧ u.fb = s.fb ∧ u.dp = s.dp ∧ u.ev = s.ev ∧ u.wt.assembling.find? (fun a => a.is model index) = none := by
  unfold State.judged
  dsimp only
  split
  · obtain ⟨htm, hfb, hdp, hev⟩ := acceptParcel_frame (s.dropAssembly model index) h b
    exact ⟨htm, hfb, hdp, hev, by rw [(acceptParcel_spec _ h b).1]; exact dropAssembly_gone s model index⟩
  · exact ⟨rfl, rfl, rfl, rfl, dropAssembly_gone s model index⟩

theorem exec_parcelAcceptance {s : State} {model index : Nat} {a : Assembly} {h : ParcelHdr} (hrun : s.hcoreRuns = true)
    (hfind : s.wt.assembling.find? (fun a => a.is model index) = some a) (hheader : a.header = some h) (hwhole : a.whole = true)
    (haddr : s.addressed h = true) :
    let status := s.parcelCheck h a.held (maxList (a.pieces.map fun p => p.1 + p.2.length))
    exec (.parcelAcceptance model index) s = .next ((s.judged model index status h a.held).async 1
      (natLe 4 model ++ natLe 4 index ++ natLe 2 s.fb.coord ++ natLe 1 status)) := by
  intro status
  have hcoord : (s.judged model index status h a.held).fb.coord = s.fb.coord := by rw [(judged_frame s model index status h a.held).2.1]
  rw [← hcoord]
  change execParcelAcceptance model index s = _
  unfold execParcelAcceptance
  rw [hfind]
  dsimp only
  rw [hheader]
  exact if_neg (by rw [hwhole, haddr, hrun]; simp)

/-! ### A parcel that stays incomplete (06 R546) -/

/-- The state after the last second of a parcel that stayed incomplete. -/
def State.parcelDropped (s : State) (model index : Nat) (a : Assembly) : State :=
  let u := (s.advanceTo (a.lastArrival + ticksPerSec)).dropAssembly model index
  if a.viaDispatch || (a.header.any fun h => s.fb.coordValid && h.addresses s.fb.coord) then u.parcelStatus model index 1 else u

theorem exec_parcelIncompleteTimeout {s : State} {model index : Nat} {a : Assembly} (hrun : s.hcoreRuns = true)
    (hfind : s.wt.assembling.find? (fun a => a.is model index) = some a) (hpart : a.whole = false) :
    exec (.parcelIncompleteTimeout model index) s = .next (s.parcelDropped model index a) := by
  change execParcelIncompleteTimeout model index s = _
  unfold execParcelIncompleteTimeout
  rw [hfind]
  exact if_neg (by rw [hpart, hrun]; simp)

theorem parcelDropped_frame (s : State) (model index : Nat) (a : Assembly) : (s.parcelDropped model index a).tm =
    (s.advanceTo (a.lastArrival + ticksPerSec)).tm ∧ (s.parcelDropped model index a).wt = (s.dropAssembly model index).wt := by
  obtain ⟨m, hm, -⟩ := advanceTo_spec s (a.lastArrival + ticksPerSec)
  unfold State.parcelDropped
  rw [hm]
  dsimp only
  split
  · exact ⟨async_tm _ _ _, async_wt _ _ _⟩
  · exact ⟨rfl, rfl⟩

/-! ### A record that is built (06 R175, R192, R193) -/

/-- The state with the record of an array built from a master. -/
def State.withBuilt (s : State) (a : ArrId) (m : Master) : State := s.setRecord a (parcelRecord m (m.position a))

/-- The masters with those of a header invalid. -/
def State.headerInvalid (s : State) (h : ParcelHdr) : State :=
  { s with wt := { s.wt with masters := s.wt.masters.map fun (x : Master) => if x.hdr = h then { x with invalid := true } else x } }

section Built

variable {s : State} {a : ArrId} {m : Master} (hrun : s.inRun = true) (hmaster : s.masterOf a = some m) (hnone : s.record a = none)
  (harr : a.arr ≠ 16) (hlisted : a ∈ m.hdr.arrayList)

include hrun hmaster hnone harr hlisted

/-- What becomes of an array whose record has been built, by the state of its entry. -/
theorem exec_recordBuilt : exec (.recordBuilt a) s = .next (match (s.dir a).astate with
    | .loading => (s.withBuilt a m).queueProgram a
    | .unbound => if s.bt.arraysReady then (s.withBuilt a m).bindArray a else s.withBuilt a m
    | .inService => if (parcelRecord m (m.position a)).digest = (s.dir a).recordDigest then s.withBuilt a m
        else ((s.withBuilt a m).headerInvalid m.hdr).outOfService a
    | _ => s.withBuilt a m) := by
  have hgo : ¬ (!s.inRun || (s.record a).isSome || a.arr == 16 || !m.hdr.arrayList.contains a) = true := by
    rw [hrun, hnone]
    simp [harr, hlisted]
  change execRecordBuilt a s = _
  unfold execRecordBuilt
  rw [hmaster]
  refine (if_neg hgo).trans ?_
  dsimp only
  have hready : (s.withBuilt a m).bt.arraysReady = s.bt.arraysReady := congrArg Boot.arraysReady (State.setRecord_bt s a _)
  cases (s.dir a).astate with
  | inService => exact (apply_ite _ _ _ _).symm
  | unbound => rw [← hready]; rfl
  | _ => rfl

end Built

/-! ### The clauses of the statement -/

/-- Settles O53, row by row: the frames of a parcel, its acceptance, its end after a second, and the records built from it. -/
theorem parcelsAreAssembledAndAccepted : Obligations.ParcelsAreAssembledAndAccepted := by
  unfold Obligations.ParcelsAreAssembledAndAccepted
  refine ⟨fun s h p ht => ⟨_, exec_parcelFrame ht, ?frame⟩, fun s h p hc hlen => ⟨_, exec_courierParcelFrame hc hlen, ?courier⟩,
    fun s model index a h hrun hfind hheader hwhole haddr => ⟨_, exec_parcelAcceptance hrun hfind hheader hwhole haddr, ?gone, fun hf => ?event,
      ⟨_, ?time, rfl⟩, fun hbad => ?refused, fun hgood => ?accepted⟩,
    fun s model index a hrun hfind hpart => ⟨_, exec_parcelIncompleteTimeout hrun hfind hpart, ?second, ?dropped⟩,
    fun s a m hrun hmaster hnone harr hlisted => ?built⟩
  case frame =>
    obtain ⟨d, hd⟩ := ack_eq (s.heard h 0) h
    have hjoins := parcelData_assembles ((s.heard h 0).ack h) true (fld p 0 4) (fld p 4 4) (fld p 8 8) (p.drop 16)
    rw [hd] at hjoins ⊢
    exact hjoins
  case courier => exact (parcelData_assembles s false _ _ _ _).of_wt (scheduleWakes_wt _ s)
  case gone => rw [async_wt]; exact (judged_frame ..).2.2.2.2
  case event =>
    obtain ⟨-, -, hdp, hev, -⟩ := judged_frame s model index (s.parcelCheck h a.held (maxList (a.pieces.map fun p => p.1 + p.2.length))) h a.held
    rw [async_next, feature_of_dp hdp, hf, hev]; rfl
  case time => exact (judged_frame ..).1
  case refused =>
    rw [async_wt, State.judged, if_neg hbad]
    exact ⟨rfl, rfl⟩
  case accepted =>
    obtain ⟨-, hmaster, harrays⟩ := acceptParcel_spec (s.dropAssembly model index) h a.held
    rw [State.judged, if_pos hgood]
    refine ⟨⟨(s.dropAssembly model index).newMaster h a.held, ?_, rfl, rfl⟩, fun x hx hfree => ?_⟩
    · unfold State.master
      rw [async_wt]; exact hmaster
    · rw [dir_of_wt (async_wt _ _ _)]
      exact harrays x hx hfree
  case second =>
    obtain ⟨m, hm, htick⟩ := advanceTo_spec s (a.lastArrival + ticksPerSec)
    rw [(parcelDropped_frame s model index a).1, hm]; exact htick
  case dropped =>
    rw [(parcelDropped_frame s model index a).2]
    exact ⟨dropAssembly_gone s model index, rfl, rfl⟩
  case built =>
    have hexec := exec_recordBuilt hrun hmaster hnone harr hlisted
    have hrecord : (s.withBuilt a m).record a = some (parcelRecord m (m.position a)) := record_set s a _
    have hdir : (s.withBuilt a m).dir a = s.dir a := setRecord_dir s a a _
    have htile : (s.withBuilt a m).tile a.tid = s.tile a.tid := setRecord_tile s a _ _
    refine ⟨fun hs => ?_, fun hs hsame => ?_, fun hs hother => ?_, fun hs hready => ?_, fun hs hready hsame => ?_, fun hs hready hother => ?_⟩
    · rw [hs] at hexec
      exact ⟨_, hexec, hrecord, by rw [queueProgram_tile, htile]⟩
    · rw [hs] at hexec
      exact hexec.trans (congrArg _ (if_pos hsame))
    · rw [hs] at hexec
      have hs' : (((s.withBuilt a m).headerInvalid m.hdr).dir a).astate = .inService := (congrArg DirEntry.astate hdir).trans hs
      refine ⟨_, hexec.trans (congrArg _ (if_neg hother)), fun x hx hhdr => ?_, ?_⟩
      · rw [(outOfService_records _ a).2] at hx
        obtain ⟨y, -, rfl⟩ := List.mem_map.1 hx
        by_cases hy : y.hdr = m.hdr
        · rw [if_pos hy]
        · rw [if_neg hy] at hhdr; exact absurd hhdr hy
      · rw [outOfService_dir hs']
        have hstand : ((s.withBuilt a m).headerInvalid m.hdr).tile a.tid = s.tile a.tid := htile
        have hentry : ((s.withBuilt a m).headerInvalid m.hdr).dir a = s.dir a := hdir
        have hheld : ((s.withBuilt a m).headerInvalid m.hdr).record a = some (parcelRecord m (m.position a)) := hrecord
        unfold State.stateOut
        rw [hstand, hentry, hheld]
        simp
    · rw [hs, hready] at hexec
      exact hexec
    · rw [hs, hready] at hexec
      refine hexec.trans (congrArg _ ?_)
      rw [if_pos rfl, bindArray_of_unbound hrecord (by rw [hdir, hs]), hdir, if_pos hsame]
      rfl
    · rw [hs, hready] at hexec
      have hbinds : (s.withBuilt a m).bindArray a = (s.withBuilt a m).loads a := by
        rw [bindArray_of_unbound hrecord (by rw [hdir, hs]), hdir, if_neg hother]
      obtain ⟨hloading, hqueue⟩ := loads_spec (s.withBuilt a m) a
      exact ⟨_, hexec.trans (congrArg _ ((if_pos rfl).trans hbinds)), hloading, by rw [hqueue, htile]⟩

end Sys2Proof.Machine
end

section
/-! PROOFS. O55: verify scans, drift out of service, rewrites under the spare's cover and directly, and the re-digest (04 R115, R116, 06 R189,
R191, R192, R199-R201, 16 R539). What an array leaves behind as it goes out of service stands with O53. -/

set_option Elab.async false

namespace Sys2Proof.Machine

/-! ### Verify scans (06 R189, R191, 04 R115) -/

theorem putBy_of_none {α : Type} {p : α → Bool} (x : α) {l : List α} (h : ∀ y ∈ l, p y = false) : putBy p x l = l ++ [x] := by
  induction l with
  | nil => rfl
  | cons y l ih =>
    unfold putBy
    rw [h y List.mem_cons_self, if_neg (by simp), ih fun z hz => h z (List.mem_cons_of_mem y hz)]
    rfl

/-- A scan begins with its 2,048 fires to make, and takes no fire from the tile. -/
theorem startScan_tile {s : State} {a : ArrId} (hnew : ∀ e ∈ (s.tile a.tid).scans, e.1 ≠ a.arr) :
    ((s.startScan a).tile a.tid).scans = (s.tile a.tid).scans ++ [(a.arr, 2048)] ∧
    ((s.startScan a).tile a.tid).fires = (s.tile a.tid).fires := by
  unfold State.startScan
  rw [tile_mod]
  exact ⟨putBy_of_none _ fun e he => beq_eq_false_iff_ne.2 (hnew e he), rfl⟩

theorem exec_verifyScanDue {s : State} {a : ArrId} (hrun : s.wakeForTask.inRun = true) (hen : s.wakeForTask.enabled a.tid = true)
    (harr : a.arr ≤ 16) (hdrained : s.wakeForTask.isDrained = false) (hready : s.wakeForTask.bt.arraysReady = true)
    (hstops : s.wakeForTask.workStops = false) (hnew : ∀ e ∈ (s.wakeForTask.tile a.tid).scans, e.1 ≠ a.arr) :
    exec (.verifyScanDue a) s = .next (s.wakeForTask.startScan a) := by
  have hnone : ((s.wakeForTask.tile a.tid).scans.any fun e => e.1 == a.arr) = false := by simpa [List.any_eq_false] using hnew
  refine if_neg ?_
  rw [hrun, hen, hdrained, hready, hstops, hnone]
  simp [Nat.not_lt.2 harr]

/-- The state with a scan's fires done, before its codes are judged. -/
def State.scanOver (s : State) (a : ArrId) : State :=
  s.active.modTile a.tid fun t =>
    { t with scans := t.scans.filter (fun e => e.1 != a.arr), scanSets := t.scanSets.filter fun e => e.1 != a.arr }

/-- The levels that the fires of an array's scan give. -/
def State.levelsOf (s : State) (a : ArrId) (raw : List (List (List Int))) : List (List Int) :=
  scanLevels (s.scanSet (s.tile a.tid) a.arr) raw

/-- The column drifts that a scan finds. -/
def State.deltaOf (s : State) (a : ArrId) (raw : List (List (List Int))) (r : CodeRecord) : List Int :=
  driftDeltas (relative (deviations r (s.levelsOf a raw)))

/-- The codes that a scan reads back. -/
def State.backOf (s : State) (a : ArrId) (raw : List (List (List Int))) (r : CodeRecord) : CodeRecord :=
  readBackRecord r (s.levelsOf a raw) (deviations r (s.levelsOf a raw)) (s.deltaOf a raw r)

/-- The state with a scan's drift in the drift entry. -/
def State.scanMeasured (s : State) (a : ArrId) (raw : List (List (List Int))) (r : CodeRecord) : State :=
  (s.scanOver a).withSet a fun st =>
    st.setDrift a ((st.drift a).scanned (s.deltaOf a raw r) (driftD (relative (deviations r (s.levelsOf a raw)))) st.stamp)

/-- A value of the array's tile that neither its scans nor its coefficient sets enter stays through a scan. -/
theorem scanMeasured_keep {β : Type} (g : Tile → β) (hi : ∀ x i, g { x with id := i } = g x)
    (hc : ∀ x c, g { x with current := c } = g x) (hn : ∀ x c, g { x with next := c } = g x) (s : State) (a : ArrId)
    (raw : List (List (List Int))) (r : CodeRecord) : g ((s.scanMeasured a raw r).tile a.tid) = g ((s.scanOver a).tile a.tid) :=
  withSet_keep g hi hc hn (s.scanOver a) a (fun st =>
    st.setDrift a ((st.drift a).scanned (s.deltaOf a raw r) (driftD (relative (deviations r (s.levelsOf a raw)))) st.stamp)) (fun _ => rfl) a.tid

theorem scanOver_tile (s : State) (a : ArrId) : (s.scanOver a).tile a.tid = { s.tile a.tid with
    scans := (s.tile a.tid).scans.filter (fun e => e.1 != a.arr), scanSets := (s.tile a.tid).scanSets.filter fun e => e.1 != a.arr } :=
  tile_mod_of_id rfl

theorem scanMeasured_spec (s : State) (a : ArrId) (raw : List (List (List Int))) (r : CodeRecord) : let u := s.scanMeasured a raw r
    u.drift a = (s.drift a).scanned (s.deltaOf a raw r) (driftD (relative (deviations r (s.levelsOf a raw)))) s.stamp ∧
    (u.tile a.tid).scans = (s.tile a.tid).scans.filter (fun e => e.1 != a.arr) ∧ (u.tile a.tid).standIn = (s.tile a.tid).standIn ∧
    (u.tile a.tid).progQueue = (s.tile a.tid).progQueue ∧ u.dir a = s.dir a ∧ u.record a = s.record a := by
  have htile := scanOver_tile s a
  refine ⟨lookupD_set _ _ _ _, ?_, ?_, ?_, rfl, rfl⟩
  · rw [scanMeasured_keep Tile.scans (fun _ _ => rfl) (fun _ _ => rfl) (fun _ _ => rfl), htile]
  · rw [scanMeasured_keep Tile.standIn (fun _ _ => rfl) (fun _ _ => rfl) (fun _ _ => rfl), htile]
  · rw [scanMeasured_keep Tile.progQueue (fun _ _ => rfl) (fun _ _ => rfl) (fun _ _ => rfl), htile]

theorem stateOut_congr {s t : State} {a : ArrId} (hstand : (t.tile a.tid).standIn = (s.tile a.tid).standIn) (hdir : t.dir a = s.dir a)
    (hrec : t.record a = s.record a) : t.stateOut a = s.stateOut a := by
  unfold State.stateOut; rw [hstand, hdir, hrec]

/-- Codes that differ take a working array in service out of it. -/
theorem readBackFails_inService {s : State} {a : ArrId} (harr : a.arr ≠ 16) (hs : (s.dir a).astate = .inService) (n : Nat) :
    s.readBackFails a n = (s.raise 0x0006 a.die [locOf a, n]).outOfService a := by
  have hbound : ¬ (((s.raise 0x0006 a.die [locOf a, n]).dir a).astate = .unbound ∧
      ((s.raise 0x0006 a.die [locOf a, n]).record a).isSome = true) := by
    rintro ⟨hun, -⟩
    have hun' : (s.dir a).astate = .unbound := hun
    rw [hs] at hun'; cases hun'
  exact (if_neg harr).trans (if_neg hbound)

/-- Under codes that differ an UNBOUND array with a record is programmed as new (16 R539). -/
theorem readBackFails_unbound {s : State} {a : ArrId} (harr : a.arr ≠ 16) (hs : (s.dir a).astate = .unbound) (hrec : s.record a ≠ none) (n : Nat) :
    s.readBackFails a n = (s.raise 0x0006 a.die [locOf a, n]).loads a :=
  (if_neg harr).trans (if_pos ⟨hs, Option.isSome_iff_ne_none.2 hrec⟩)

section ScanDone

variable {s : State} {a : ArrId} {raw : List (List (List Int))} (hrun : s.inRun = true)
  (hscan : (s.tile a.tid).scans.contains (a.arr, 0) = true)

include hrun hscan

/-- A scan whose array's codes are known is judged by its digest. -/
theorem exec_verifyScanDone {r : CodeRecord} (hcodes : s.scanCodes a = some r) : let u := s.scanMeasured a raw r
    exec (.verifyScanDone a raw) s =
      if (s.backOf a raw r).codeDigest ≠ (u.dir a).codeDigest then .next (u.readBackFails a (cellDiffs (s.backOf a raw r) r))
      else if (u.dir a).astate = .unbound ∧ (u.record a).isSome then .next ((u.modDir a fun e => { e with astate := .inService }).askIfUnsound a)
      else .next u := by
  intro u
  change execVerifyScanDone a raw s = _
  unfold execVerifyScanDone
  extract_lets x s1
  have hcodes1 : s1.scanCodes a = some r := hcodes
  rw [if_neg (by rw [hrun, hscan]; simp), hcodes1]
  rfl

/-- The codes of an array whose program was cut short are those of no record: a free number of cells differ (log entry 62). -/
theorem exec_verifyScanDone_cut (hcodes : s.scanCodes a = none) : exec (.verifyScanDone a raw) s =
    .next ((s.scanOver a).nextDraw.2.readBackFails a (1 + Config.random s.draw % 66560)) := by
  change execVerifyScanDone a raw s = _
  unfold execVerifyScanDone
  extract_lets x s1
  have hcodes1 : s1.scanCodes a = none := hcodes
  rw [if_neg (by rw [hrun, hscan]; simp), hcodes1]
  rfl

end ScanDone

/-! ### Drift out of service (04 R116) -/

theorem exec_driftOutOfService {s : State} {a : ArrId} (hrun : s.inRun = true) (hs : (s.dir a).astate = .inService) (harr : a.arr ≠ 16)
    (hvalid : s.tm.valid = true) (hreached : (s.drift a).reached s.tm.counter 2048 = true) : exec (.driftOutOfService a) s =
      .next ((s.raise 0x0005 a.die [locOf a, s.driftNow a]).outOfService a) := by
  have hserves : s.serves a = true := by unfold State.serves; rw [hs]; simp [harr]
  have hdue : (s.drift a).reached (if s.tm.valid then s.tm.counter else 0) driftLimit = true := by rw [hvalid]; exact hreached
  change execDriftOutOfService a s = _
  unfold execDriftOutOfService
  rw [if_neg (by rw [hrun, hserves, hdue]; simp)]
  exact congrArg _ (if_neg harr)

/-! ### Rewrites under the spare's cover (06 R199, Table 6.7) -/

theorem programUnderCover_tile (s : State) (a : ArrId) :
    ((s.programUnderCover a.tid a.arr).tile a.tid).progQueue = (s.tile a.tid).progQueue ++ [mkProgram a.arr a.arr false] ∧
    ((s.programUnderCover a.tid a.arr).tile a.tid).rewrites = (s.tile a.tid).rewrites.filter (fun k => k != a.arr) := by
  unfold State.programUnderCover
  rw [tile_mod]
  exact ⟨rfl, rfl⟩

/-- A claim of an IDLE spare loads it. -/
theorem claimSpare_idle {s : State} {id : TileId} (hidle : (s.tile id).spare = .idle) (kind : ClaimKind) (k : Nat) :
    ((s.claimSpare id kind k).tile id).claim = some (kind, k) ∧ ((s.claimSpare id kind k).tile id).spare = .loading k ∧
    ((s.claimSpare id kind k).tile id).progQueue = (s.tile id).progQueue ++ [mkProgram 16 k false] := by
  have hloads : s.claimSpare id kind k = (s.modTile id fun x => { x with claim := some (kind, k) }).loadSpare id k := by
    unfold State.claimSpare
    rw [hidle]
  rw [hloads]
  unfold State.loadSpare
  rw [tile_of_tl (State.modDir_tl _ _ _), tile_mod, tile_mod]
  exact ⟨rfl, rfl, rfl⟩

section Rewrite

variable {s : State} {a : ArrId} (hrun : s.inRun = true) (hasked : (s.tile a.tid).rewrites.contains a.arr = true)
  (hcan : s.rewritable a = true) (hseal : s.sealing = false)

include hrun hasked hcan hseal

theorem rewriteStart_goes : ¬ (!s.inRun || !(s.tile a.tid).rewrites.contains a.arr || !s.rewritable a || s.sealing) = true := by
  rw [hrun, hasked, hcan, hseal]; simp

theorem exec_rewriteStart_covered (hstand : (s.tile a.tid).standIn = some a.arr) :
    exec (.rewriteStart a) s = .next (s.programUnderCover a.tid a.arr) :=
  (if_neg (rewriteStart_goes hrun hasked hcan hseal)).trans (if_pos hstand)

theorem exec_rewriteStart_claims (hstand : (s.tile a.tid).standIn ≠ some a.arr) (hclaim : s.claimable a.tid a.arr = true)
    (hcal : s.calValid (a.tid.array 16) = true) : exec (.rewriteStart a) s = .next (s.claimSpare a.tid .rewrite a.arr) :=
  (if_neg (rewriteStart_goes hrun hasked hcan hseal)).trans ((if_neg hstand).trans (if_pos (by rw [hclaim, hcal]; rfl)))

end Rewrite

/-! ### The driver taken from what the tile programs (06 R180, R200, R203) -/

theorem Tile.putRequest_eq (t : Tile) (r : CalRequest) : ∃ run queue, t.putRequest r = { t with run := run, calQueue := queue } := by
  unfold Tile.putRequest
  dsimp only
  split
  · exact ⟨_, t.calQueue, rfl⟩
  · split
    · exact ⟨t.run, _, rfl⟩
    · exact ⟨t.run, _, rfl⟩

theorem Tile.putRequest_id (t : Tile) (r : CalRequest) : (t.putRequest r).id = t.id := by
  obtain ⟨_, _, h⟩ := t.putRequest_eq r
  rw [h]

theorem dropRun_tile (s : State) (id : TileId) (requeue first : Bool) :
    ∃ run queue, (s.dropRun id requeue first).tile id = { s.tile id with run := run, calQueue := queue } := by
  unfold State.dropRun
  split
  · exact ⟨_, _, rfl⟩
  · rename_i r hr
    dsimp only
    have hmod : ∃ run queue, ((s.modTile id fun t => if requeue then { t with run := none }.putRequest ⟨r.arr, r.cls, r.since, first, false⟩
        else { t with run := none }).tile id) = { s.tile id with run := run, calQueue := queue } := by
      cases requeue with
      | false => exact ⟨none, (s.tile id).calQueue, tile_mod_of_id rfl⟩
      | true =>
        obtain ⟨run, queue, hput⟩ := Tile.putRequest_eq { s.tile id with run := none } ⟨r.arr, r.cls, r.since, first, false⟩
        exact ⟨run, queue, (tile_mod_of_id (f := fun t => { t with run := none }.putRequest ⟨r.arr, r.cls, r.since, first, false⟩)
          (Tile.putRequest_id _ _)).trans hput⟩
    split <;> exact hmod

/-- A run discarded changes of its tile the run, the requests, and what the spare stands in for. -/
theorem discardRun_tile (s : State) (id : TileId) (requeue : Bool) : ∃ run queue stand claim, (s.discardRun id requeue).tile id =
    { s.tile id with run := run, calQueue := queue, standInNext := stand, claim := claim } := by
  obtain ⟨run, queue, hdrop⟩ := dropRun_tile s id requeue false
  unfold State.discardRun
  dsimp only
  split
  · refine ⟨run, queue, some none, none, (tile_mod_of_id rfl).trans ?_⟩
    rw [hdrop]
  · exact ⟨run, queue, _, _, hdrop⟩

theorem dropRun_tm (s : State) (id : TileId) (requeue first : Bool) : (s.dropRun id requeue first).tm = s.tm :=
  (State.dropRun_only (K := 24576) (Only.refl s) (Needs.refl _)) .clocks rfl

theorem discardRun_tm (s : State) (id : TileId) (requeue : Bool) : (s.discardRun id requeue).tm = s.tm := by
  unfold State.discardRun
  dsimp only
  split <;> exact dropRun_tm s id requeue false

/-- The entry of an array whose program begins: a cycle more, and the spare's in LOADING without codes. -/
def Program.entryBegun (p : Program) (d : DirEntry) : DirEntry :=
  { d with wear := d.wear + 1, astate := if p.arr = 16 then .loading else d.astate, spareTag := if p.arr = 16 then none else d.spareTag }

/-- The state in which a program has begun, before the record of a worn array. -/
def State.programBegun (s : State) (id : TileId) (p : Program) : State :=
  (s.modDir (id.array p.arr) p.entryBegun).modTile id fun x => { x with prog := some (s.begun id p) }

theorem beginProgram_parts (s : State) (id : TileId) (p : Program) : (s.beginProgram id p).tl = (s.programBegun id p).tl ∧
    (s.beginProgram id p).wt = (s.programBegun id p).wt := by
  have heq : s.beginProgram id p = if ((s.programBegun id p).dir (id.array p.arr)).wear = 28000 then
      (s.programBegun id p).raise 0x000E 6 [locOf (id.array p.arr), 28000] else s.programBegun id p := rfl
  rw [heq]
  split <;> exact ⟨rfl, rfl⟩

/-- A program begins: it is the tile's, and its array's cycle is counted. -/
theorem beginProgram_tile (s : State) (id : TileId) (p : Program) :
    (s.beginProgram id p).tile id = { s.tile id with prog := some (s.begun id p) } := by
  rw [tile_of_tl (beginProgram_parts s id p).1]
  exact tile_mod_of_id (s := s.modDir (id.array p.arr) p.entryBegun) (f := fun x => { x with prog := some (s.begun id p) }) rfl

theorem beginProgram_dir (s : State) (id : TileId) {p : Program} (harr : p.arr ≠ 16) : (s.beginProgram id p).dir (id.array p.arr) =
    { s.dir (id.array p.arr) with wear := (s.dir (id.array p.arr)).wear + 1 } := by
  rw [dir_of_wt (beginProgram_parts s id p).2]
  refine (dir_mod s (id.array p.arr) p.entryBegun).trans ?_
  simp [Program.entryBegun, harr]

theorem begun_congr {s t : State} (id : TileId) (p : Program) (htm : t.tm = s.tm) (hrec : t.wt.records = s.wt.records) :
    t.begun id p = s.begun id p := by
  unfold State.begun State.programRecord State.record
  rw [htm, hrec]

/-- The driver taken for a program: what it did is put aside, the queue loses the program. -/
theorem takeDriver_spec (s : State) (id : TileId) (p : Program) : let t := s.takeDriver id p
    (t.tile id).prog = some (s.begun id p) ∧ (t.tile id).preempted = (s.tile id).prog.toList ++ (s.tile id).preempted ∧
    (t.tile id).rewrites = (s.tile id).rewrites ∧
    (p.arr ≠ 16 → t.dir (id.array p.arr) = { s.dir (id.array p.arr) with wear := (s.dir (id.array p.arr)).wear + 1 }) := by
  obtain ⟨u, hu, htm, hrec, hdir, run, queue, stand, claim, htile⟩ : ∃ u : State,
      u = (if (s.tile id).run.any fun r => r.arr == p.arr then s.discardRun id true else s) ∧ u.tm = s.tm ∧ u.wt.records = s.wt.records ∧
      (∀ a, u.dir a = s.dir a) ∧ ∃ run queue stand claim,
        u.tile id = { s.tile id with run := run, calQueue := queue, standInNext := stand, claim := claim } := by
    refine ⟨_, rfl, ?_⟩
    split
    · exact ⟨discardRun_tm s id true, (discardRun_records s id true).1, discardRun_dir s id true, discardRun_tile s id true⟩
    · exact ⟨rfl, rfl, fun _ => rfl, _, _, _, _, rfl⟩
  unfold State.takeDriver
  dsimp only
  rw [← hu, beginProgram_tile]
  have hmod : (u.modTile id fun y => { y with progQueue := y.progQueue.erase p, preempted := y.prog.toList ++ y.preempted }).tile id = _ :=
    tile_mod_of_id rfl
  rw [hmod, htile]
  refine ⟨congrArg some (begun_congr id p htm hrec), rfl, rfl, fun harr => ?_⟩
  rw [beginProgram_dir _ _ harr]
  have hentry : (u.modTile id fun y => { y with progQueue := y.progQueue.erase p, preempted := y.prog.toList ++ y.preempted }).dir
      (id.array p.arr) = s.dir (id.array p.arr) := hdir _
  rw [hentry]

/-! ### A direct rewrite (06 R200, R201) -/

/-- A place made on a die does not touch a tile whose driver has none. -/
theorem rewritePlace_tile {s : State} {id : TileId} (hidle : (s.tile id).driving = false) (die : Nat) :
    (s.rewritePlace die).tile id = s.tile id := by
  unfold State.rewritePlace
  split
  · rfl
  · split
    · rename_i t _
      by_cases h : id = t
      · subst h
        have hprog : ((s.tile id).prog.map fun p => { p with displaced := true }) = (s.tile id).prog := by
          unfold Tile.driving at hidle
          rw [Bool.or_eq_false_iff] at hidle
          cases hp : (s.tile id).prog with
          | none => rfl
          | some p =>
            have hdisplaced : p.displaced = true := by simpa [hp] using hidle.2
            rw [Option.map_some, ← hdisplaced]
        refine (tile_mod_of_id rfl).trans ?_
        rw [hprog]
      · exact tile_mod_ne _ _ _ _ h
    · rfl

theorem rewritePlace_frame (s : State) (die : Nat) : (s.rewritePlace die).tm = s.tm ∧ (s.rewritePlace die).wt = s.wt := by
  unfold State.rewritePlace
  split
  · exact ⟨rfl, rfl⟩
  · split <;> exact ⟨rfl, rfl⟩

theorem endClaim_tile (s : State) (id : TileId) :
    ∃ claim stand, (s.endClaim id).tile id = { s.tile id with claim := claim, standInNext := stand } := by
  have hmod : (s.endClaim id).tile id = { (match (s.tile id).spare with
      | .standing _ => { s.tile id with standInNext := some none }
      | _ => { s.tile id with claim := none, standInNext := none }) with id := id } := tile_mod s id _
  rw [hmod]
  have hid := tile_id s id
  generalize s.tile id = x at hid ⊢
  subst hid
  split
  · exact ⟨x.claim, some none, rfl⟩
  · exact ⟨none, none, rfl⟩

/-- The state from which the driver takes a direct rewrite: a place on the die, the array REWRITING, and neither its claim nor its request left. -/
def State.rewriteReady (s : State) (a : ArrId) : State :=
  let s1 := (if (s.tile a.tid).driving then s else s.rewritePlace a.die).modDir a fun d => { d with astate := .rewriting }
  let s2 := if (s.tile a.tid).claim.any fun c => c.2 == a.arr then s1.endClaim a.tid else s1
  s2.modTile a.tid fun t => { t with rewrites := t.rewrites.filter fun k => k != a.arr }

theorem rewriteReady_spec (s : State) (a : ArrId) : let u := s.rewriteReady a
    u.tm = s.tm ∧ u.wt.records = s.wt.records ∧ u.dir a = { s.dir a with astate := .rewriting } ∧
    (u.tile a.tid).prog = (s.tile a.tid).prog ∧ (u.tile a.tid).preempted = (s.tile a.tid).preempted ∧
    (u.tile a.tid).rewrites = (s.tile a.tid).rewrites.filter (fun k => k != a.arr) := by
  obtain ⟨v, hv, htm, hwt, htile⟩ : ∃ v : State, v = (if (s.tile a.tid).driving then s else s.rewritePlace a.die) ∧ v.tm = s.tm ∧
      v.wt = s.wt ∧ v.tile a.tid = s.tile a.tid := by
    refine ⟨_, rfl, ?_⟩
    split
    · exact ⟨rfl, rfl, rfl⟩
    · rename_i hidle
      exact ⟨(rewritePlace_frame s a.die).1, (rewritePlace_frame s a.die).2, rewritePlace_tile (by simpa using hidle) a.die⟩
  have hdir : (v.modDir a fun d => { d with astate := .rewriting }).dir a = { s.dir a with astate := .rewriting } :=
    (dir_mod v a _).trans (by rw [dir_of_wt hwt])
  have hrec : (v.modDir a fun d => { d with astate := .rewriting }).wt.records = s.wt.records := by
    change v.wt.records = _
    rw [hwt]
  unfold State.rewriteReady
  dsimp only
  rw [← hv]
  split
  · obtain ⟨claim, stand, hend⟩ := endClaim_tile (v.modDir a fun d => { d with astate := .rewriting }) a.tid
    rw [tile_of_tl (State.modDir_tl _ _ _), htile] at hend
    rw [tile_mod, hend]
    exact ⟨htm, hrec, hdir, rfl, rfl, rfl⟩
  · rw [tile_mod, tile_of_tl (State.modDir_tl _ _ _), htile]
    exact ⟨htm, hrec, hdir, rfl, rfl, rfl⟩

theorem exec_directRewriteStart {s : State} {a : ArrId} (hrun : s.inRun = true) (hnext : s.directNext a.tid = some a.arr)
    (hquiet : (s.tile a.tid).firing a.arr = false) (hbusy : s.directBusy a.tid = false) (hwindow : s.progWindow a.tid = true)
    (hseal : s.sealing = false) :
    exec (.directRewriteStart a) s = .next ((s.rewriteReady a).takeDriver a.tid (mkProgram a.arr a.arr false)) := by
  refine if_neg ?_
  rw [hrun, hnext, hquiet, hbusy, hwindow, hseal]
  simp

/-! ### The re-digest (06 R192, Table 6.6) -/

theorem exec_redigest {s : State} (masters : List (Nat × Nat)) (records : List ArrId) (hrun : s.wakeForTask.inRun = true) :
    exec (.redigest masters records) s =
      .next (records.foldl State.rebuildRecord (masters.foldl (fun st m => st.invalidateMaster m.1 m.2) s.wakeForTask)) :=
  if_neg (by rw [hrun]; simp)

theorem rebuildRecord_valid {s : State} {a : ArrId} {m : Master} {old : CodeRecord} (hold : s.record a = some old)
    (hmaster : s.masterOf a = some m) (hsame : (parcelRecord m (m.position a)).digest = (s.dir a).recordDigest) :
    s.rebuildRecord a = s.setRecord a (parcelRecord m (m.position a)) := by
  unfold State.rebuildRecord
  rw [hold, hmaster]
  exact if_pos hsame

theorem rebuildRecord_lost {s : State} {a : ArrId} {old : CodeRecord} (hold : s.record a = some old) (hmaster : s.masterOf a = none) :
    s.rebuildRecord a = (s.dropRecord a).outOfService a := by
  unfold State.rebuildRecord
  rw [hold, hmaster]

theorem dropRecord_spec (s : State) (a : ArrId) : (s.dropRecord a).record a = none ∧ (s.dropRecord a).dir a = s.dir a := by
  have hwt := (renewLists_frame ({ s with wt := { s.wt with records := dropKey s.wt.records a } }) a).1
  refine ⟨?_, dir_of_wt hwt a⟩
  have hgone : (dropKey s.wt.records a).find? (fun e => e.1 == a) = none := by
    simp [dropKey, List.find?_eq_none]
  unfold State.record State.dropRecord
  rw [hwt]
  exact congrArg _ hgone

/-- Without its record an array that leaves service is not COVERED: it cannot be programmed. -/
theorem dropRecord_outOfService (s : State) (a : ArrId) : ((s.dropRecord a).outOfService a).record a = none ∧
    (((s.dropRecord a).outOfService a).dir a).astate = if (s.dir a).astate = .inService then .outOfService else (s.dir a).astate := by
  obtain ⟨hnone, hdir⟩ := dropRecord_spec s a
  refine ⟨?_, ?_⟩
  · unfold State.record at hnone ⊢
    rw [(outOfService_records _ a).1]; exact hnone
  · by_cases hs : (s.dir a).astate = .inService
    · rw [outOfService_dir (by rw [hdir, hs]), if_pos hs]
      unfold State.stateOut
      rw [hnone]
      exact if_neg (by simp)
    · rw [outOfService_of_not_inService (by rw [hdir]; exact hs), if_neg hs, hdir]

/-- A master made invalid leaves records and directory, and every master of its name is invalid. -/
theorem invalidateMaster_spec (s : State) (model index : Nat) : let t := s.invalidateMaster model index
    t.wt.records = s.wt.records ∧ t.wt.directory = s.wt.directory ∧
    ∀ x ∈ t.wt.masters, x.hdr.model = model → x.hdr.index = index → (s.master model index).isSome = true → x.invalid = true := by
  unfold State.invalidateMaster
  cases hm : s.master model index with
  | none => exact ⟨rfl, rfl, fun _ _ _ _ h => by cases h⟩
  | some m =>
    dsimp only
    rw [async_wt]
    refine ⟨rfl, rfl, fun x hx hmodel hindex _ => ?_⟩
    obtain ⟨y, -, rfl⟩ := List.mem_map.1 hx
    by_cases hy : y.hdr.model = model ∧ y.hdr.index = index
    · rw [if_pos hy]
    · rw [if_neg hy] at hmodel hindex
      exact absurd ⟨hmodel, hindex⟩ hy

/-! ### The clauses of the statement -/

/-- Settles O55, row by row: the verify scan that falls due and its end, drift, the rewrites and the re-digest. -/
theorem arraysAreScannedRewrittenAndRedigested : Obligations.ArraysAreScannedRewrittenAndRedigested := by
  unfold Obligations.ArraysAreScannedRewrittenAndRedigested
  refine ⟨fun s a hrun hen harr hdrained hready hstops hnew =>
      ⟨_, exec_verifyScanDue hrun hen harr hdrained hready hstops hnew, startScan_tile hnew⟩,
    fun s a raw r hrun hscan hcodes => ?judged, fun s a raw hrun hscan hcodes harr hs => ?cut,
    fun s a hrun hs harr hvalid hreached => ?drift,
    fun s a hrun hasked hcan hseal => ⟨fun hstand => ?covered, fun hstand hclaim hcal hidle => ?claims⟩,
    fun s a hrun harr hnext hquiet hbusy hwindow hseal => ?direct,
    fun s a m old hrun hold hmaster hsame => ?rebuilt, fun s a old hrun hold hmaster => ?lost,
    fun s model index hrun => ⟨_, exec_redigest [(model, index)] [] hrun, invalidateMaster_spec s.wakeForTask model index⟩⟩
  case judged =>
    obtain ⟨hdrift, hscans, hstand, hqueue, hdir, hrec⟩ := scanMeasured_spec s a raw r
    have hexec := exec_verifyScanDone (raw := raw) hrun hscan hcodes
    dsimp only at hexec
    rw [hdir, hrec] at hexec
    refine ⟨s.scanMeasured a raw r, hdrift, hscans, hdir, fun hagrees hs => ?_, fun hagrees hs hheld => ?_, fun hdiffers harr hs => ?_,
      fun hdiffers harr hs hheld => ?_⟩
    · refine hexec.trans ((if_neg (not_not.2 hagrees)).trans (if_neg ?_))
      rintro ⟨hun, hsome⟩
      exact hs.elim (fun h => h hun) fun h => by rw [h] at hsome; cases hsome
    · exact hexec.trans ((if_neg (not_not.2 hagrees)).trans (if_pos ⟨hs, Option.isSome_iff_ne_none.2 hheld⟩))
    · have hs' : ((s.scanMeasured a raw r).dir a).astate = .inService := by rw [hdir, hs]
      exact ⟨_, hexec.trans ((if_pos hdiffers).trans (congrArg _ (readBackFails_inService harr hs' _))), rfl,
        (outOfService_dir (s := (s.scanMeasured a raw r).raise 0x0006 a.die [locOf a, cellDiffs (s.backOf a raw r) r]) hs').trans
          (stateOut_congr hstand hdir hrec)⟩
    · have hs' : ((s.scanMeasured a raw r).dir a).astate = .unbound := by rw [hdir, hs]
      obtain ⟨hloading, hprogram⟩ := loads_spec ((s.scanMeasured a raw r).raise 0x0006 a.die [locOf a, cellDiffs (s.backOf a raw r) r]) a
      refine ⟨_, hexec.trans ((if_pos hdiffers).trans (congrArg _ (readBackFails_unbound harr hs' (by rw [hrec]; exact hheld) _))), hloading, ?_,
        _, raise_last _ _ _ _, rfl, rfl⟩
      rw [hprogram, tile_of_tl (State.raise_tl _ _ _ _), hqueue]
  case cut =>
    exact ⟨_, (s.scanOver a).nextDraw.2, 1 + Config.random s.draw % 66560,
      (exec_verifyScanDone_cut hrun hscan hcodes).trans (congrArg _ (readBackFails_inService (s := (s.scanOver a).nextDraw.2) harr hs _)), by omega, rfl, rfl,
      congrArg Tile.scans (scanOver_tile s a)⟩
  case drift =>
    exact ⟨_, s.raise 0x0005 a.die [locOf a, s.driftNow a], _, exec_driftOutOfService hrun hs harr hvalid hreached, outOfService_dir hs, rfl,
      raise_last _ _ _ _, rfl, rfl, rfl⟩
  case covered =>
    exact ⟨_, exec_rewriteStart_covered hrun hasked hcan hseal hstand, programUnderCover_dir s a, programUnderCover_tile s a⟩
  case claims =>
    exact ⟨_, exec_rewriteStart_claims hrun hasked hcan hseal hstand hclaim hcal, claimSpare_idle hidle .rewrite a.arr⟩
  case direct =>
    obtain ⟨htm, hrec, hdir, hprog, hpre, hrew⟩ := rewriteReady_spec s a
    obtain ⟨tprog, tpre, trew, tdir⟩ := takeDriver_spec (s.rewriteReady a) a.tid (mkProgram a.arr a.arr false)
    have tdir := (tdir (Nat.ne_of_lt harr)).trans (by rw [show (a.tid.array (mkProgram a.arr a.arr false).arr) = a from rfl, hdir])
    refine ⟨_, exec_directRewriteStart hrun hnext hquiet hbusy hwindow hseal, congrArg DirEntry.astate tdir, congrArg DirEntry.wear tdir,
      by rw [tpre, hprog, hpre], by rw [trew, hrew], ?_⟩
    rw [tprog, begun_congr _ _ htm hrec]
    rfl
  case rebuilt =>
    refine ⟨_, exec_redigest [] [a] hrun, ?_⟩
    change (s.wakeForTask.rebuildRecord a).record a = _
    rw [rebuildRecord_valid hold hmaster hsame]
    exact record_set _ a _
  case lost =>
    refine ⟨_, exec_redigest [] [a] hrun, ?_⟩
    change (s.wakeForTask.rebuildRecord a).record a = none ∧ ((s.wakeForTask.rebuildRecord a).dir a).astate = _
    rw [rebuildRecord_lost hold hmaster]
    exact dropRecord_outOfService s.wakeForTask a

end Sys2Proof.Machine
end

section
/-! PROOFS. O59, its first part: the sorting round, the step that it opens, and the handling of a storm (04 R131-R134, 06 R548, 08 R246, R248, R249,
15 R492). -/

set_option Elab.async false

namespace Sys2Proof.Machine

/-! ### A round that finds the module in P1 Hold (15 R492) -/

theorem arrive_p0 (s : State) (cause : Nat) : (s.arrive cause .p0).pw.state = .p0 := by
  have hpw (x : State) (n : Nat) : (x.adcReturn n).pw = x.pw := (State.adcReturn_only (K := 64) (Only.refl x) (Needs.refl _)) .power rfl
  exact congrArg Power.state (foldl_keep State.pw State.adcReturn (List.range 4) _ hpw)

theorem roundWakes_of_p0 {s : State} (h : s.pw.state = .p0) : s.roundWakes = false := by
  unfold State.roundWakes; rw [h]; rfl

theorem wakeP1_p0 {s : State} (h : s.roundWakes = true) (cause : Nat) : (s.wakeP1 cause).pw.state = .p0 := by
  unfold State.roundWakes State.roundsMay State.firmwareRuns State.hcoreRuns at h
  simp only [Bool.and_eq_true, beq_iff_eq, Bool.not_eq_true'] at h
  obtain ⟨⟨⟨-, hhold⟩, ⟨⟨⟨⟨⟨⟨⟨⟨⟨hsupplied, hstop⟩, -⟩, -⟩, -⟩, hdrained⟩, -⟩, -⟩, -⟩, -⟩, -⟩, -⟩ := h
  have hgo : ¬ (!s.pw.supplied || s.pw.stop.isSome || s.isDrained || s.pw.hold != .none) = true := by
    rw [hsupplied, hdrained, hhold, Option.isNone_iff_eq_none.1 hstop]; decide
  unfold State.wakeP1
  rw [if_neg hgo]
  exact arrive_p0 s cause

theorem exec_sortingRound_wakes {s : State} {core : Nat} (h : s.roundWakes = true) :
    exec (.sortingRound core) s = exec (.sortingRound core) (s.wakeP1 6) := by
  change execSortingRound core s = execSortingRound core (s.wakeP1 6)
  unfold execSortingRound
  rw [h, roundWakes_of_p0 (wakeP1_p0 h 6)]
  rfl

/-! ### A round in P0 (08 R246, R248) -/

section Round

variable {s : State} {core : Nat} (hrun : s.inRun = true) (hfirm : s.firmwareRuns = true) (hcore : core < 4)

include hrun hfirm hcore

theorem exec_sortingRound_p0 : exec (.sortingRound core) s = match s.retryStalled.nextQueue.filter fun _ => s.retryStalled.roundsRun with
    | some e => .next (s.retryStalled.round e.1 e.2)
    | none => .next s.retryStalled := by
  have hp0 : s.pw.state = .p0 := by
    unfold State.inRun at hrun
    simp only [Bool.and_eq_true, beq_iff_eq] at hrun
    exact hrun.2
  have hgo : ¬ (!s.inRun || !s.firmwareRuns || decide (4 ≤ core)) = true := by
    rw [hrun, hfirm]; simp [Nat.not_le.2 hcore]
  change execSortingRound core s = _
  unfold execSortingRound
  rw [roundWakes_of_p0 hp0]
  exact if_neg hgo

theorem exec_sortingRound_round {q : Queue} {w : Waiting} (hmay : s.retryStalled.roundsRun = true)
    (hnext : s.retryStalled.nextQueue = some (q, w)) : exec (.sortingRound core) s = .next (s.retryStalled.round q w) := by
  rw [exec_sortingRound_p0 hrun hfirm hcore, hnext, hmay]; rfl

theorem exec_sortingRound_idle (hidle : s.retryStalled.roundsRun = false ∨ s.retryStalled.nextQueue = none) :
    exec (.sortingRound core) s = .next s.retryStalled := by
  have hnone : s.retryStalled.nextQueue.filter (fun _ => s.retryStalled.roundsRun) = none := by
    rcases hidle with h | h
    · rw [h]; cases s.retryStalled.nextQueue <;> rfl
    · rw [h]; rfl
  rw [exec_sortingRound_p0 hrun hfirm hcore, hnone]

end Round

/-- The state of a round that has taken a queue's first waiting step. -/
def State.taken (s : State) (q : Queue) : State := s.modQueue q.id fun x => { x with waiting := x.waiting.drop 1 }

section Branches

variable {s : State} {q : Queue} {w : Waiting}

theorem round_noContext (hctx : (s.taken q).context q.ctx = none) : s.round q w = (s.taken q).endUnbegun q w 5 0 := by
  unfold State.round
  change (match (s.taken q).context q.ctx with | none => _ | some ctx => _) = _
  rw [hctx]; rfl

variable {ctx : Context} (hctx : (s.taken q).context q.ctx = some ctx)

include hctx

theorem round_noModel (hmodel : ((s.taken q).model ctx.model).filter (fun m => !m.unloading) = none) :
    s.round q w = (s.taken q).closeRound q w (parseStep w.tuiven1 w.payload) ctx 2 0 := by
  unfold State.round
  change (match (s.taken q).context q.ctx with | none => _ | some ctx => _) = _
  rw [hctx]
  change (match ((s.taken q).model ctx.model).filter (fun m => !m.unloading) with | none => _ | some m => _) = _
  rw [hmodel]; rfl

/-- The draft model of a context that a step can use. -/
def State.draftFor (s : State) (ctx : Context) : Option Model := (s.model ctx.draftModel).filter fun m => !m.unloading && ctx.draftModel != 0

theorem round_model {m : Model} (hmodel : ((s.taken q).model ctx.model).filter (fun m => !m.unloading) = some m) :
    s.round q w = if ctx.draftModel ≠ 0 ∧ ((s.taken q).draftFor ctx).isNone then
        (s.taken q).closeRound q w (parseStep w.tuiven1 w.payload) ctx 2 0
      else match ((s.taken q).asArrived w).stepFault (parseStep w.tuiven1 w.payload) w.payload.length w.tuiven1 ctx m with
        | some detail => (s.taken q).closeRound q w (parseStep w.tuiven1 w.payload) ctx 1 detail
        | none => (s.taken q).openStep q w (parseStep w.tuiven1 w.payload) ctx
            ((s.taken q).weightsHeld (parseStep w.tuiven1 w.payload) m ((s.taken q).draftFor ctx)) := by
  unfold State.round
  change (match (s.taken q).context q.ctx with | none => _ | some ctx => _) = _
  rw [hctx]
  change (match ((s.taken q).model ctx.model).filter (fun m => !m.unloading) with | none => _ | some m => _) = _
  rw [hmodel]; rfl

end Branches

/-! ### The step that a round begins (08 R249) -/

/-- More candidates than open steps: one of them is the tag of none. -/
theorem freeTag_fresh {s : State} (hroom : s.sv.steps.length < 1024) : ∀ x ∈ s.sv.steps, x.tag ≠ s.freeTag := by
  let tags := (List.range (s.sv.steps.length + 1)).map fun i => (s.sv.nextTag + i) % 65536
  have hnodup : tags.Nodup := by
    refine (List.nodup_map_iff_inj_on List.nodup_range).2 fun i hi j hj heq => ?_
    have hi := List.mem_range.1 hi
    have hj := List.mem_range.1 hj
    omega
  have hfree : ∃ t ∈ tags, (s.sv.steps.all fun o => o.tag != t) = true := by
    by_contra hnone
    push Not at hnone
    have hsub : tags ⊆ s.sv.steps.map OpenStep.tag := fun t ht => by
      have h := hnone t ht
      simp only [ne_eq, List.all_eq_true, bne_iff_ne, not_forall, not_not] at h
      obtain ⟨o, ho, htag⟩ := h
      exact List.mem_map.2 ⟨o, ho, htag⟩
    have hle := (List.subperm_of_subset hnodup hsub).length_le
    simp [tags] at hle
  obtain ⟨t, ht, hall⟩ := hfree
  obtain ⟨u, hu⟩ : ∃ u, tags.find? (fun t => s.sv.steps.all fun o => o.tag != t) = some u :=
    Option.isSome_iff_exists.1 (List.find?_isSome.2 ⟨t, ht, hall⟩)
  have hgood := List.find?_some hu
  have htag : s.freeTag = u := congrArg (·.getD 0) hu
  intro x hx
  rw [htag]
  simpa using List.all_eq_true.1 hgood x hx

/-- The state in which an open step has its queue charged, before its slots are claimed. -/
def State.charged (s : State) (q : Queue) (w : Waiting) (c : StepCmd) (ctx : Context) : State :=
  ((s.pushStep (s.newStep q w c ctx)).openJob c).modQueue q.id fun x => { x with admitted := x.admitted + c.tokenCount }

theorem openJob_sv (s : State) (c : StepCmd) : (s.openJob c).sv = s.sv := by
  unfold State.openJob
  split <;> rfl

theorem charged_steps (s : State) (q : Queue) (w : Waiting) (c : StepCmd) (ctx : Context) :
    (s.charged q w c ctx).sv.steps = s.sv.steps ++ [s.newStep q w c ctx] :=
  congrArg Serving.steps (openJob_sv (s.pushStep (s.newStep q w c ctx)) c)

theorem charged_queue {s : State} {q k : Queue} (hk : s.queue q.id = some k) (w : Waiting) (c : StepCmd) (ctx : Context) :
    (s.charged q w c ctx).queue q.id = some { k with admitted := k.admitted + c.tokenCount } := by
  have hqueue : ((s.pushStep (s.newStep q w c ctx)).openJob c).queue q.id = some k := by
    unfold State.queue at hk ⊢
    rw [openJob_sv]; exact hk
  have hid : k.id = q.id := by simpa using List.find?_some hk
  refine (State.modQueue_queue _ q.id q.id (fun x => { x with admitted := x.admitted + c.tokenCount }) fun _ => rfl).trans ?_
  rw [hqueue, Option.map_some, if_pos hid]

/-- A step opens with its schedule fetched and its adapters gathered, and its entries are claimed and begun in the round's order. -/
theorem openStep_held (s : State) (q : Queue) (w : Waiting) (c : StepCmd) (ctx : Context) : ∃ x : State,
    s.openStep q w c ctx true = (roundOrder (s.newStep q w c ctx)).foldl
      (fun st i => (st.claimEntry (s.newStep q w c ctx).tag i ctx).beginEntry (s.newStep q w c ctx).tag i) (x.gather (s.newStep q w c ctx).tag) ∧
    x.sv = (s.charged q w c ctx).sv :=
  ⟨(s.charged q w c ctx).fetchSchedule (s.newStep q w c ctx).tag, rfl,
    (State.fetchSchedule_only (K := 16384) (Only.refl _) (Needs.refl _)).sv rfl rfl⟩

/-! ### Storms (04 R131, R133, R134) -/

/-- Recalibration asks for runs and writes its list; nothing else of the serving block changes. -/
theorem recalibrate_sv (s : State) (l : List ArrId) : (s.recalibrate l).sv = { s.sv with
    recalibrated := s.sv.recalibrated ++ l.filter fun a => (s.dir a).astate != .outOfService && !s.sv.recalibrated.contains a } := by
  have hsv (m : List ArrId) : (m.foldl (fun st a => st.requestCal a 2) s).sv = s.sv := foldl_keep State.sv _ _ _ fun _ _ => rfl
  unfold State.recalibrate
  dsimp only
  rw [hsv]

theorem recalibrate_storm (s : State) (l : List ArrId) : (s.recalibrate l).sv.storm = s.sv.storm := by rw [recalibrate_sv]

theorem recalibrate_frame (s : State) (l : List ArrId) : (s.recalibrate l).ev = s.ev ∧ (s.recalibrate l).dp = s.dp := by
  have hev (m : List ArrId) : (m.foldl (fun st a => st.requestCal a 2) s).ev = s.ev := foldl_keep State.ev _ _ _ fun _ _ => rfl
  have hdp (m : List ArrId) : (m.foldl (fun st a => st.requestCal a 2) s).dp = s.dp := foldl_keep State.dp _ _ _ fun _ _ => rfl
  exact ⟨hev _, hdp _⟩

/-- A listed array that is not out of service has been asked for a run since the record. -/
theorem mem_recalibrated {s : State} {l : List ArrId} {a : ArrId} (ha : a ∈ l) (hs : (s.dir a).astate ≠ .outOfService) :
    a ∈ (s.recalibrate l).sv.recalibrated := by
  rw [recalibrate_sv]
  by_cases hdone : a ∈ s.sv.recalibrated
  · exact List.mem_append_left _ hdone
  · exact List.mem_append_right _ (List.mem_filter.2 ⟨ha, by simp [hs, hdone]⟩)

/-- The state of a storm whose affected arrays are listed, before the event that reports it. -/
def State.stormListed (s : State) : State :=
  ({ s with ev := { s.ev with stormPending := false, stormList := affectedArrays s.sv.storm } }).recalibrate (affectedArrays s.sv.storm)

theorem exec_stormHandling {s : State} (hfirm : s.firmwareRuns = true) (hpending : s.ev.stormPending = true) : ∃ detail,
    exec .stormHandling s = .next (s.stormListed.async 2 detail) :=
  ⟨_, if_neg (by rw [hfirm, hpending]; decide)⟩

theorem stormListed_spec (s : State) : s.stormListed.ev = { s.ev with stormPending := false, stormList := affectedArrays s.sv.storm } ∧
    s.stormListed.dp = s.dp ∧ s.stormListed.sv.storm = s.sv.storm := by
  obtain ⟨hev, hdp⟩ := recalibrate_frame { s with ev := { s.ev with stormPending := false, stormList := affectedArrays s.sv.storm } }
    (affectedArrays s.sv.storm)
  exact ⟨hev, hdp, recalibrate_storm _ _⟩

theorem exec_stormRecheck {s : State} (hfirm : s.firmwareRuns = true) (hpending : s.ev.stormPending = false) (hbit : s.sv.stormBit = true)
    (hsince : 10 ≤ s.sv.stormSince) : exec .stormRecheck s =
      .next (({ s with sv := { s.sv with stormSince := s.sv.stormSince - 10 } }).recalibrate (affectedArrays s.sv.storm)) :=
  if_neg (by rw [hfirm, hpending, hbit]; simp [Nat.not_lt.2 hsince])

end Sys2Proof.Machine
end

section
/-! PROOFS. O59, its second part: the completion at the head of a queue's order is written in its turn, or retained without a lease (08 R247, 11
R386-R388, R397). -/

set_option Elab.async false

namespace Sys2Proof.Machine

/-! ### A queue that has taken completions -/

theorem queue_modQueue {s : State} {n : Nat} {q : Queue} (h : s.queue n = some q) (f : Queue → Queue) (hf : ∀ x, (f x).id = x.id) :
    (s.modQueue n f).queue n = some (f q) := by
  have hid : q.id = n := by simpa using List.find?_some h
  rw [State.modQueue_queue s n n f hf, h, Option.map_some, if_pos hid]

/-- A queue to which completions have been delivered: it keeps what it has written and retained, and gains no ended step. -/
structure Queue.Grown (q x : Queue) : Prop where
  tail : q.comp.tail ≤ x.comp.tail
  unacked : q.unacked ⊆ x.unacked
  retained : q.retained ⊆ x.retained
  ended : x.ended ⊆ q.ended

theorem Queue.Grown.refl (q : Queue) : q.Grown q := ⟨Nat.le_refl _, List.Subset.refl _, List.Subset.refl _, List.Subset.refl _⟩

theorem Queue.Grown.trans {q x y : Queue} (h : q.Grown x) (g : x.Grown y) : q.Grown y :=
  ⟨h.tail.trans g.tail, List.Subset.trans h.unacked g.unacked, List.Subset.trans h.retained g.retained,
    List.Subset.trans g.ended h.ended⟩

/-- The queue of a number has grown, and no step has opened. -/
structure Delivers (n : Nat) (s t : State) : Prop where
  queue : ∀ q, s.queue n = some q → ∃ x, t.queue n = some x ∧ q.Grown x
  steps : t.sv.steps ⊆ s.sv.steps

theorem Delivers.refl (n : Nat) (s : State) : Delivers n s s := ⟨fun q h => ⟨q, h, .refl q⟩, List.Subset.refl _⟩

theorem Delivers.trans {n : Nat} {s t u : State} (h : Delivers n s t) (g : Delivers n t u) : Delivers n s u where
  queue q hq := by
    obtain ⟨x, hx, hgrown⟩ := h.queue q hq
    obtain ⟨y, hy, hgrown'⟩ := g.queue x hx
    exact ⟨y, hy, hgrown.trans hgrown'⟩
  steps := List.Subset.trans g.steps h.steps

theorem Delivers.of_sv {n : Nat} {s t : State} (hqueues : t.sv.queues = s.sv.queues) (hsteps : t.sv.steps ⊆ s.sv.steps) : Delivers n s t :=
  ⟨fun q h => ⟨q, by unfold State.queue at h ⊢; rw [hqueues]; exact h, .refl q⟩, hsteps⟩

theorem modQueue_delivers (s : State) (n : Nat) {f : Queue → Queue} (hf : ∀ x, (f x).id = x.id) (hgrown : ∀ x : Queue, x.Grown (f x)) :
    Delivers n s (s.modQueue n f) :=
  ⟨fun q h => ⟨f q, queue_modQueue h f hf, hgrown q⟩, List.Subset.refl _⟩

/-! ### One completion (11 R387, R397) -/

/-- A queue with a completion written. -/
def Queue.written (c : Completion) (addr : Nat) (win : List (Nat × Bytes) → List (Nat × Bytes)) (x : Queue) : Queue :=
  { x with comp := { x.comp with tail := x.comp.tail + 1 }, unacked := x.unacked ++ [{ c with addr := addr }], window := win x.window,
           order := x.order.filter fun n => n != c.seq, ended := x.ended.filter fun y => y.seq != c.seq }

theorem Queue.written_grown (c : Completion) (addr : Nat) (win : List (Nat × Bytes) → List (Nat × Bytes)) (x : Queue) :
    x.Grown (x.written c addr win) :=
  ⟨Nat.le_succ _, List.subset_append_left _ _, List.Subset.refl _, List.filter_subset_self _⟩

/-- The state with other window memory. -/
def State.withMem (s : State) (mem : List Host.Cell) : State := { s with sv := { s.sv with mem := mem } }

theorem withMem_delivers (n : Nat) (s : State) (mem : List Host.Cell) : Delivers n s (s.withMem mem) := .of_sv rfl (List.Subset.refl _)

/-- A completion written changes window memory and its queue. -/
theorem writeCompletion_eq {s : State} {n : Nat} {q : Queue} (h : s.queue n = some q) (c : Completion) : ∃ (mem : List Host.Cell) (addr : Nat)
    (win : List (Nat × Bytes) → List (Nat × Bytes)),
    (s.writeCompletion n c).1 = (s.withMem mem).modQueue n (Queue.written c addr win) := by
  refine ⟨(s.writeCompletion n c).1.sv.mem, s.placeRecord c.record.length, fun w => if s.windowMode then
    setKey w (q.comp.tail % 16) (c.bytes s.tuiven1 (s.placeRecord c.record.length)) else w, ?_⟩
  unfold State.writeCompletion
  rw [h]
  dsimp only
  split <;> split <;> rfl

theorem writeCompletion_delivers (s : State) (n : Nat) (c : Completion) : Delivers n s (s.writeCompletion n c).1 := by
  cases h : s.queue n with
  | none =>
    have hsame : (s.writeCompletion n c).1 = s := by unfold State.writeCompletion; rw [h]
    rw [hsame]; exact .refl n s
  | some q =>
    obtain ⟨mem, addr, win, heq⟩ := writeCompletion_eq h c
    rw [heq]
    exact (withMem_delivers n s mem).trans (modQueue_delivers _ n (f := Queue.written c addr win) (fun _ => rfl)
      (Queue.written_grown c addr win))

theorem takeEnded_delivers (s : State) (n : Nat) (c : Completion) : Delivers n s (s.takeEnded n c) :=
  modQueue_delivers s n (fun _ => rfl) fun _ => ⟨Nat.le_refl _, List.Subset.refl _, List.Subset.refl _, List.filter_subset_self _⟩

theorem closeStep_delivers (s : State) (n seq : Nat) : Delivers n s (s.closeStep n seq) := .of_sv rfl (List.filter_subset_self _)

/-- The completion written where it may be, or only taken from the ended ones. -/
def State.retainedWrite (s : State) (q : Queue) (c : Completion) : State × Bytes :=
  if !decide (4096 ≤ s.unackedCount) && q.room s.windowMode && (q.retained.all fun r => !r.2.isEmpty) then s.writeCompletion q.id c
  else (s.takeEnded q.id c, [])

theorem retain_eq (s : State) (q : Queue) (c : Completion) : s.retain q c = if 4096 ≤ s.unackedCount then
      { (s.retainedWrite q c).1 with dp := { (s.retainedWrite q c).1.dp with dropped := (s.retainedWrite q c).1.dp.dropped + 1 } }
    else (s.retainedWrite q c).1.modQueue q.id fun x => { x with retained := x.retained ++ [(c, (s.retainedWrite q c).2)] } := rfl

theorem retainedWrite_delivers (s : State) (q : Queue) (c : Completion) : Delivers q.id s (s.retainedWrite q c).1 := by
  unfold State.retainedWrite
  split
  · exact writeCompletion_delivers s q.id c
  · exact takeEnded_delivers s q.id c

theorem retain_delivers (s : State) (q : Queue) (c : Completion) : Delivers q.id s (s.retain q c) := by
  rw [retain_eq]
  split
  · exact (retainedWrite_delivers s q c).trans (.of_sv rfl (List.Subset.refl _))
  · exact (retainedWrite_delivers s q c).trans (modQueue_delivers _ _ (fun _ => rfl) fun _ =>
      ⟨Nat.le_refl _, List.Subset.refl _, List.subset_append_left _ _, List.Subset.refl _⟩)

/-! ### All that a queue can deliver -/

theorem flushQueue_delivers (f n : Nat) (s : State) : Delivers n s (State.flushQueue f n s).1 := by
  induction f generalizing s with
  | zero => exact .refl n s
  | succ f ih =>
    unfold State.flushQueue
    split
    · exact .refl n s
    · rename_i q hq
      have hid : q.id = n := by simpa using List.find?_some hq
      split
      · exact .refl n s
      · rename_i c _
        split
        · exact ((takeEnded_delivers s n c).trans (closeStep_delivers _ n c.seq)).trans (ih _)
        · split
          · subst hid
            exact ((retain_delivers s q c).trans (closeStep_delivers _ q.id c.seq)).trans (ih _)
          · split
            · exact ((writeCompletion_delivers s n c).trans (closeStep_delivers _ n c.seq)).trans (ih _)
            · exact .refl n s

/-- Frames that carry completions leave the serving block as it is. -/
theorem sendCompletions_sv (s : State) (n : Nat) (items : List Bytes) : (s.sendCompletions n items).sv = s.sv := by
  unfold State.sendCompletions
  split
  · rfl
  · split
    · rfl
    · split
      · rfl
      · exact foldl_keep State.sv _ _ _ fun _ _ => rfl

theorem sendCompletions_delivers (s : State) (n : Nat) (items : List Bytes) : Delivers n s (s.sendCompletions n items) :=
  .of_sv (by rw [sendCompletions_sv]) (by rw [sendCompletions_sv]; exact List.Subset.refl _)

theorem not_mem_closeStep (s : State) (n seq : Nat) : ∀ o ∈ (s.closeStep n seq).sv.steps, ¬ (o.queue = n ∧ o.seq = seq) := by
  intro o ho
  have h : (!(o.queue == n && o.seq == seq)) = true := (List.mem_filter.1 ho).2
  rintro ⟨hqueue, hseq⟩
  rw [hqueue, hseq] at h
  simp at h

/-- The first completion that a queue can deliver. -/
structure Delivered (n : Nat) (s : State) (q : Queue) (c : Completion) : Prop where
  queue : s.queue n = some q
  next : q.nextEnded = some c
  talks : q.silent = false

section First

variable {v : State} {n : Nat} {q : Queue} {c : Completion} (h : Delivered n v q c)

include h

/-- Where there is room under a lease, the first completion is written before the rest of the queue's. -/
theorem deliver_writes (hlease : v.leaseLive = true) (hroom : q.room v.windowMode = true) :
    Delivers n ((v.writeCompletion n c).1.closeStep n c.seq) (v.deliver n) := by
  unfold State.deliver
  rw [h.queue]
  unfold State.flushQueue
  rw [h.queue]
  dsimp only
  rw [h.next]
  dsimp only
  rw [h.talks, hlease, hroom]
  exact (flushQueue_delivers q.ended.length n _).trans (sendCompletions_delivers _ _ _)

theorem deliver_waits (hlease : v.leaseLive = true) (hroom : q.room v.windowMode = false) : v.deliver n = v := by
  unfold State.deliver
  rw [h.queue]
  unfold State.flushQueue
  rw [h.queue]
  dsimp only
  rw [h.next]
  dsimp only
  rw [h.talks, hlease, hroom]
  change v.sendCompletions n [] = v
  unfold State.sendCompletions
  rw [h.queue]
  rfl

/-- Without a lease the first completion is retained before the rest of the queue's. -/
theorem deliver_retains (hlease : v.leaseLive = false) : Delivers n ((v.retain q c).closeStep n c.seq) (v.deliver n) := by
  unfold State.deliver
  rw [h.queue]
  unfold State.flushQueue
  rw [h.queue]
  dsimp only
  rw [h.next]
  dsimp only
  rw [h.talks, hlease]
  exact (flushQueue_delivers q.ended.length n _).trans (sendCompletions_delivers _ _ _)

theorem writeCompletion_closed : ∃ x d, ((v.writeCompletion n c).1.closeStep n c.seq).queue n = some x ∧ q.comp.tail < x.comp.tail ∧
    d ∈ x.unacked ∧ { d with addr := c.addr } = c ∧ ∀ y ∈ x.ended, y.seq ≠ c.seq := by
  obtain ⟨mem, addr, win, heq⟩ := writeCompletion_eq h.queue c
  rw [heq]
  refine ⟨q.written c addr win, { c with addr := addr }, ?_, Nat.lt_succ_self _, List.mem_append_right _ (List.mem_singleton.2 rfl), rfl,
    fun y hy => by simpa using (List.mem_filter.1 hy).2⟩
  exact queue_modQueue (s := v.withMem mem) h.queue _ fun _ => rfl

theorem retain_closed (hfew : v.unackedCount < 4096) : ∃ x b, ((v.retain q c).closeStep n c.seq).queue n = some x ∧ (c, b) ∈ x.retained := by
  have hid : q.id = n := by simpa using List.find?_some h.queue
  obtain ⟨x, hx, -⟩ := (retainedWrite_delivers v q c).queue q (by rw [hid]; exact h.queue)
  rw [retain_eq, if_neg (Nat.not_le.2 hfew)]
  refine ⟨{ x with retained := x.retained ++ [(c, (v.retainedWrite q c).2)] }, _, ?_, List.mem_append_right _ (List.mem_singleton.2 rfl)⟩
  have hmod := queue_modQueue hx (fun x => { x with retained := x.retained ++ [(c, (v.retainedWrite q c).2)] }) fun _ => rfl
  rw [hid] at hmod
  exact hid ▸ hmod

/-- Written: its place in the ring is taken, it awaits its acknowledgement, and neither its end nor its step is left. -/
theorem deliver_written (hlease : v.leaseLive = true) (hroom : q.room v.windowMode = true) : ∃ x d, (v.deliver n).queue n = some x ∧
    q.comp.tail < x.comp.tail ∧ d ∈ x.unacked ∧ { d with addr := c.addr } = c ∧ (∀ y ∈ x.ended, y.seq ≠ c.seq) ∧
    ∀ o ∈ (v.deliver n).sv.steps, ¬ (o.queue = n ∧ o.seq = c.seq) := by
  have hrest := deliver_writes h hlease hroom
  obtain ⟨x, d, hx, htail, hd, hdc, hended⟩ := writeCompletion_closed h
  obtain ⟨y, hy, hgrown⟩ := hrest.queue x hx
  exact ⟨y, d, hy, htail.trans_le hgrown.tail, hgrown.unacked hd, hdc, fun z hz => hended z (hgrown.ended hz),
    fun o ho => not_mem_closeStep _ n c.seq o (hrest.steps ho)⟩

theorem deliver_retained (hlease : v.leaseLive = false) (hfew : v.unackedCount < 4096) : ∃ x b, (v.deliver n).queue n = some x ∧
    (c, b) ∈ x.retained ∧ ∀ o ∈ (v.deliver n).sv.steps, ¬ (o.queue = n ∧ o.seq = c.seq) := by
  have hrest := deliver_retains h hlease
  obtain ⟨x, b, hx, hb⟩ := retain_closed h hfew
  obtain ⟨y, hy, hgrown⟩ := hrest.queue x hx
  exact ⟨y, b, hy, hgrown.retained hb, fun o ho => not_mem_closeStep _ n c.seq o (hrest.steps ho)⟩

end First

end Sys2Proof.Machine
end

section
/-! PROOFS. O59, its third part: the copy of a matched block that is not shared (09 R287) and the compaction of an accepted path (09 R292). -/

set_option Elab.async false

namespace Sys2Proof.Machine

/-! ### A fold that makes a fact true and keeps it -/

/-- Under an invariant, what one element makes true and no element undoes holds after the fold. -/
theorem foldl_reaches {σ α : Type} {F : σ → α → σ} (I G : σ → Prop) {l : List α} (hI : ∀ s, ∀ x ∈ l, I s → I (F s x))
    (hG : ∀ s, ∀ x ∈ l, I s → G s → G (F s x)) {s : σ} (hs : I s) (hit : G s ∨ ∃ x ∈ l, ∀ s, I s → G (F s x)) : G (l.foldl F s) := by
  induction l generalizing s with
  | nil =>
    rcases hit with h | ⟨x, hx, -⟩
    · exact h
    · cases hx
  | cons y l ih =>
    refine ih (fun s x hx => hI s x (List.mem_cons_of_mem y hx)) (fun s x hx => hG s x (List.mem_cons_of_mem y hx)) (hI s y List.mem_cons_self hs) ?_
    rcases hit with h | ⟨x, hx, hmakes⟩
    · exact .inl (hG s y List.mem_cons_self hs h)
    · rcases List.mem_cons.1 hx with rfl | hx
      · exact .inl (hmakes s hs)
      · exact .inr ⟨x, hx, hmakes⟩

theorem foldl_inv {σ α : Type} {F : σ → α → σ} (I : σ → Prop) {l : List α} (hI : ∀ s, ∀ x ∈ l, I s → I (F s x)) {s : σ} (hs : I s) :
    I (l.foldl F s) :=
  foldl_reaches I I hI (fun s x hx _ h => hI s x hx h) hs (.inl hs)

/-! ### A matched block copied (09 R287) -/

/-- One page of a matched block copied into the slot's own frame: tokens 0 to 62. -/
def State.copyPage (s : State) (slot b : Nat) (p : Nat × FrameId) : State :=
  match s.page slot false p.1 b, s.frame p.2 with
  | some q, some f => if q.shared then s else s.modFrame q.frame fun g => { g with data := f.data.filter fun x => x.tok < 63 }
  | _, _ => s

theorem copyBlock_eq (s : State) (slot : Nat) (n : Node) (b : Nat) :
    s.copyBlock slot n b = n.pages.foldl (fun st p => st.copyPage slot b p) s := rfl

/-- A copied page changes at most the frame of its own page. -/
theorem copyPage_cases (s : State) (slot b : Nat) (p : Nat × FrameId) : s.copyPage slot b p = s ∨
    ∃ q f, s.page slot false p.1 b = some q ∧ q.shared = false ∧ s.frame p.2 = some f ∧
      s.copyPage slot b p = s.modFrame q.frame fun g => { g with data := f.data.filter fun x => x.tok < 63 } := by
  unfold State.copyPage
  split
  · rename_i q f hq hf
    cases hs : q.shared with
    | true => exact .inl (if_pos rfl)
    | false => exact .inr ⟨q, f, hq, hs, hf, if_neg (by simp)⟩
  · exact .inl rfl

/-- What a block's copy leaves while it goes on: the page tables, a source frame, and all of a target but its groups. -/
def CopyKeeps (s : State) (source target : FrameId) (f g : Frame) (st : State) : Prop :=
  st.kv.pages = s.kv.pages ∧ st.frame source = some f ∧ ∃ d, st.frame target = some { g with data := d }

section Copy

variable {s : State} {slot b : Nat} {pages : List (Nat × FrameId)} {p : Nat × FrameId} {q : PageEntry} {f g : Frame}
  (hq : s.page slot false p.1 b = some q) (hprivate : q.shared = false)
  (hapart : ∀ x ∈ pages, ∀ y, s.page slot false x.1 b = some y → y.shared = false → y.frame ≠ p.2 ∧ (y.frame = q.frame → x = p))

include hq hprivate hapart

/-- While a block is copied its source stays, and the copy of its page, once made, too. -/
theorem copyBlock_frame (hp : p ∈ pages) (hf : s.frame p.2 = some f) (hg : s.frame q.frame = some g) :
    (pages.foldl (fun st p => st.copyPage slot b p) s).frame q.frame = some { g with data := f.data.filter fun x => x.tok < 63 } := by
  have hpage {st : State} (h : st.kv.pages = s.kv.pages) (l : Nat) : st.page slot false l b = s.page slot false l b := by
    unfold State.page; rw [h]
  refine foldl_reaches (CopyKeeps s p.2 q.frame f g) (fun st => st.frame q.frame = some { g with data := f.data.filter fun x => x.tok < 63 })
    (fun st x hx hst => ?_) (fun st x hx hst hdone => ?_) ⟨rfl, hf, g.data, hg⟩ (.inr ⟨p, hp, fun st hst => ?_⟩)
  · obtain ⟨hpages, hsource, d, hd⟩ := hst
    rcases copyPage_cases st slot b x with h | ⟨y, f', hy, hys, -, h⟩
    · rw [h]; exact ⟨hpages, hsource, d, hd⟩
    · obtain ⟨hne, -⟩ := hapart x hx y (by rw [← hpage hpages]; exact hy) hys
      rw [h]
      refine ⟨hpages, ?_, ?_⟩
      · rw [frame_modFrame, hsource, Option.map_some, if_neg (Ne.symm hne)]
      · rw [frame_modFrame, hd, Option.map_some]
        split
        · exact ⟨_, rfl⟩
        · exact ⟨d, rfl⟩
  · obtain ⟨hpages, hsource, -⟩ := hst
    rcases copyPage_cases st slot b x with h | ⟨y, f', hy, hys, hf', h⟩
    · rw [h]; exact hdone
    · rw [h, frame_modFrame, hdone, Option.map_some]
      by_cases heq : q.frame = y.frame
      · obtain rfl := (hapart x hx y (by rw [← hpage hpages]; exact hy) hys).2 heq.symm
        rw [if_pos heq, Option.some.inj (hf'.symm.trans hsource)]
      · rw [if_neg heq]
  · obtain ⟨hpages, hsource, d, hd⟩ := hst
    have hcopy : st.copyPage slot b p = st.modFrame q.frame fun g => { g with data := f.data.filter fun x => x.tok < 63 } := by
      unfold State.copyPage
      rw [hpage hpages, hq, hsource]
      exact if_neg (by simp [hprivate])
    rw [hcopy, frame_modFrame, hd, Option.map_some, if_pos rfl]

end Copy

/-! ### Groups at the positions of a slot (09 R273, R274) -/

/-- The non-draft pages of a slot lie in frames of their own. -/
def State.FramesApart (s : State) (slot : Nat) : Prop := ∀ p ∈ s.kv.pages, ∀ q ∈ s.kv.pages, p.slot = slot → q.slot = slot → p.draft = false →
  q.draft = false → p.frame = q.frame → p.layer = q.layer ∧ p.n = q.n

/-- What a change at other positions leaves: page tables, frames, and the groups at the positions that satisfy `P`. -/
structure KeepsAt (slot : Nat) (P : Nat → Prop) (s t : State) : Prop where
  pages : t.kv.pages = s.kv.pages
  frames : ∀ i, (t.frame i).isSome = (s.frame i).isSome
  groups : ∀ pos, P pos → ∀ l v k, t.getGroup slot false l pos v k = s.getGroup slot false l pos v k

theorem KeepsAt.refl (slot : Nat) (P : Nat → Prop) (s : State) : KeepsAt slot P s s := ⟨rfl, fun _ => rfl, fun _ _ _ _ _ => rfl⟩

theorem KeepsAt.trans {slot : Nat} {P : Nat → Prop} {s t u : State} (h : KeepsAt slot P s t) (g : KeepsAt slot P t u) : KeepsAt slot P s u :=
  ⟨g.pages.trans h.pages, fun i => (g.frames i).trans (h.frames i), fun pos hp l v k => (g.groups pos hp l v k).trans (h.groups pos hp l v k)⟩

theorem KeepsAt.mono {slot : Nat} {P Q : Nat → Prop} {s t : State} (h : KeepsAt slot P s t) (hq : ∀ pos, Q pos → P pos) : KeepsAt slot Q s t :=
  ⟨h.pages, h.frames, fun pos hp => h.groups pos (hq pos hp)⟩

theorem KeepsAt.foldl {α : Type} {slot : Nat} {P : Nat → Prop} {s0 : State} {F : State → α → State} {l : List α}
    (h : ∀ s, ∀ x ∈ l, KeepsAt slot P s0 s → KeepsAt slot P s0 (F s x)) {s : State} (hs : KeepsAt slot P s0 s) :
    KeepsAt slot P s0 (l.foldl F s) := foldl_inv _ h hs

theorem KeepsAt.apart {slot : Nat} {P : Nat → Prop} {s t : State} (h : KeepsAt slot P s t) (hs : s.FramesApart slot) : t.FramesApart slot := by
  unfold State.FramesApart; rw [h.pages]; exact hs

/-- Whether a storage position has its page and its frame. -/
def State.hasFrame (s : State) (slot l pos : Nat) : Prop := (s.page slot false l (pos / 64)).bind (fun q => s.frame q.frame) ≠ none

theorem KeepsAt.hasFrame {slot : Nat} {P : Nat → Prop} {s t : State} (h : KeepsAt slot P s t) {l pos : Nat} (hs : s.hasFrame slot l pos) :
    t.hasFrame slot l pos := by
  unfold State.hasFrame State.page at hs ⊢
  rw [h.pages]
  cases hp : s.kv.pages.find? (fun p => p.is slot false l (pos / 64)) with
  | none => rw [hp] at hs; exact absurd rfl hs
  | some p =>
    rw [hp, Option.bind_some, ← Option.isSome_iff_ne_none] at hs
    rw [Option.bind_some, ← Option.isSome_iff_ne_none, h.frames]
    exact hs

theorem page_spec {s : State} {slot l n : Nat} {d : Bool} {p : PageEntry} (h : s.page slot d l n = some p) :
    p ∈ s.kv.pages ∧ p.slot = slot ∧ p.draft = d ∧ p.layer = l ∧ p.n = n := by
  have his := List.find?_some h
  simp only [PageEntry.is, Bool.and_eq_true, beq_iff_eq] at his
  obtain ⟨⟨⟨hslot, hdraft⟩, hlayer⟩, hn⟩ := his
  exact ⟨List.mem_of_find?_eq_some h, hslot, hdraft, hlayer, hn⟩

theorem group_spec {f : Frame} {v : Bool} {t k : Nat} {g : KvGroup} (h : f.group v t k = some g) : g.isV = v ∧ g.tok = t ∧ g.head = k := by
  have his := List.find?_some h
  simp only [KvGroup.is, Bool.and_eq_true, beq_iff_eq] at his
  obtain ⟨⟨hv, ht⟩, hk⟩ := his
  exact ⟨hv, ht, hk⟩

theorem getGroup_spec {s : State} {slot l pos k : Nat} {v : Bool} {g : KvGroup} (h : s.getGroup slot false l pos v k = some g) :
    g.isV = v ∧ g.tok = pos % 64 ∧ g.head = k := by
  unfold State.getGroup at h
  split at h
  · split at h
    · exact group_spec h
    · cases h
  · cases h

/-- A frame with a group written. -/
def Frame.putGroup (f : Frame) (g : KvGroup) : Frame := { f with data := putBy (fun x => x.is g.isV g.tok g.head) g f.data }

theorem group_putGroup_same (f : Frame) (g : KvGroup) : (f.putGroup g).group g.isV g.tok g.head = some g :=
  find_putBy _ g f.data (by simp [KvGroup.is])

theorem group_putGroup_ne {f : Frame} {g : KvGroup} {v : Bool} {t k : Nat} (h : ¬ (g.isV = v ∧ g.tok = t ∧ g.head = k)) :
    (f.putGroup g).group v t k = f.group v t k := by
  refine find_putBy_ne _ _ g f.data ?_ fun y hy => ?_
  · simpa [KvGroup.is, and_assoc] using h
  · simp only [KvGroup.is, Bool.and_eq_true, beq_iff_eq] at hy
    obtain ⟨⟨hv, ht⟩, hk⟩ := hy
    simpa [KvGroup.is, hv, ht, hk, and_assoc] using h

section PutGroup

variable {s : State} {slot l b : Nat} {g : KvGroup}

/-- The group read at a position after one has been written at position `b` of layer `l`. -/
theorem getGroup_putGroup_same (hframe : s.hasFrame slot l b) (htok : g.tok = b % 64) :
    (s.putGroup slot false l b g).getGroup slot false l b g.isV g.head = some g := by
  unfold State.hasFrame at hframe
  cases hp : s.page slot false l (b / 64) with
  | none => rw [hp] at hframe; exact absurd rfl hframe
  | some p =>
    rw [hp, Option.bind_some] at hframe
    obtain ⟨f, hf⟩ := Option.ne_none_iff_exists'.1 hframe
    have hput : s.putGroup slot false l b g = s.modFrame p.frame fun f => f.putGroup g := by unfold State.putGroup; rw [hp]; rfl
    have hp' : (s.modFrame p.frame fun f => f.putGroup g).page slot false l (b / 64) = some p := hp
    unfold State.getGroup
    rw [hput, hp']
    dsimp only
    rw [frame_modFrame, hf, Option.map_some, if_pos rfl]
    dsimp only
    rw [← htok]
    exact group_putGroup_same f g

theorem getGroup_putGroup_ne (hapart : s.FramesApart slot) (htok : g.tok = b % 64) {l' pos k : Nat} {v : Bool}
    (hne : ¬ (l' = l ∧ pos = b ∧ v = g.isV ∧ k = g.head)) :
    (s.putGroup slot false l b g).getGroup slot false l' pos v k = s.getGroup slot false l' pos v k := by
  cases hp : s.page slot false l (b / 64) with
  | none => unfold State.putGroup; rw [hp]
  | some p =>
    have hput : s.putGroup slot false l b g = s.modFrame p.frame fun f => f.putGroup g := by unfold State.putGroup; rw [hp]; rfl
    rw [hput]
    unfold State.getGroup
    change (match s.page slot false l' (pos / 64) with | some p' => _ | none => none) = _
    cases hp' : s.page slot false l' (pos / 64) with
    | none => rfl
    | some p' =>
      dsimp only
      rw [frame_modFrame]
      cases hf : s.frame p'.frame with
      | none => rfl
      | some f =>
        rw [Option.map_some]
        dsimp only
        by_cases hframe : p'.frame = p.frame
        · rw [if_pos hframe]
          obtain ⟨hmem, hslot, hdraft, hlayer, hn⟩ := page_spec hp
          obtain ⟨hmem', hslot', hdraft', hlayer', hn'⟩ := page_spec hp'
          obtain ⟨hll, hnn⟩ := hapart p' hmem' p hmem hslot' hslot hdraft' hdraft hframe
          refine group_putGroup_ne ?_
          rintro ⟨hv, ht, hk⟩
          refine hne ⟨by rw [← hlayer', hll, hlayer], ?_, hv.symm, hk.symm⟩
          omega
        · rw [if_neg hframe]

theorem putGroup_keepsAt (hapart : s.FramesApart slot) (htok : g.tok = b % 64) : KeepsAt slot (· ≠ b) s (s.putGroup slot false l b g) where
  pages := by unfold State.putGroup; split <;> rfl
  frames i := by
    unfold State.putGroup
    split
    · rw [frame_modFrame, Option.isSome_map]
    · rfl
  groups pos hpos l' v k := getGroup_putGroup_ne hapart htok fun h => hpos h.2.1

end PutGroup

/-! ### K and V moved from one position to another (09 R292) -/

/-- The group of one head moved. -/
def State.moveGroup (s : State) (slot layer a b : Nat) (isV : Bool) (h : Nat) : State :=
  match s.getGroup slot false layer a isV h with
  | some g => s.putGroup slot false layer b { g with tok := b % 64 }
  | none => s

/-- All groups of a position moved, at every layer that holds keys and values. -/
def State.moveLayers (s : State) (slot : Nat) (m : Model) (a b : Nat) : State :=
  m.kvLayers.foldl (fun x l =>
    match m.layer l with
    | some r => x.moveKv slot l r.kvHeads a b
    | none => x) s

theorem moveKv_eq (s : State) (slot layer heads a b : Nat) : s.moveKv slot layer heads a b =
    [false, true].foldl (fun st isV => (List.range heads).foldl (fun x h => x.moveGroup slot layer a b isV h) st) s := rfl

section Move

variable {s : State} {slot a b : Nat}

theorem moveGroup_keepsAt (hapart : s.FramesApart slot) (l : Nat) (v : Bool) (k : Nat) : KeepsAt slot (· ≠ b) s (s.moveGroup slot l a b v k) := by
  unfold State.moveGroup
  split
  · exact putGroup_keepsAt hapart rfl
  · exact .refl _ _ s

/-- Where a group has been moved from, its copy stands at the target. -/
theorem moveGroup_same {l k : Nat} {v : Bool} {g : KvGroup} (hg : s.getGroup slot false l a v k = some g) (hframe : s.hasFrame slot l b) :
    (s.moveGroup slot l a b v k).getGroup slot false l b v k = some { g with tok := b % 64 } := by
  obtain ⟨hv, -, hk⟩ := getGroup_spec hg
  unfold State.moveGroup
  rw [hg, ← hv, ← hk]
  exact getGroup_putGroup_same (g := { g with tok := b % 64 }) hframe rfl

theorem moveGroup_ne (hapart : s.FramesApart slot) {l l' k k' : Nat} {v v' : Bool} (hne : ¬ (l' = l ∧ v' = v ∧ k' = k)) :
    (s.moveGroup slot l a b v k).getGroup slot false l' b v' k' = s.getGroup slot false l' b v' k' := by
  unfold State.moveGroup
  split
  · rename_i g hg
    obtain ⟨hv, -, hk⟩ := getGroup_spec hg
    refine getGroup_putGroup_ne (g := { g with tok := b % 64 }) hapart rfl ?_
    rintro ⟨hl, -, hv', hk'⟩
    exact hne ⟨hl, hv'.trans hv, hk'.trans hk⟩
  · rfl

end Move

section Moves

variable {s : State} {slot a b : Nat} (hapart : s.FramesApart slot)

include hapart

theorem moveHeads_keepsAt {st : State} (h : KeepsAt slot (· ≠ b) s st) (l heads : Nat) (v : Bool) :
    KeepsAt slot (· ≠ b) s ((List.range heads).foldl (fun x h => x.moveGroup slot l a b v h) st) :=
  .foldl (fun _ k _ hx => hx.trans (moveGroup_keepsAt (hx.apart hapart) l v k)) h

/-- A position's move leaves every group at another position. -/
theorem moveKv_keepsAt (l heads : Nat) {st : State} (h : KeepsAt slot (· ≠ b) s st) : KeepsAt slot (· ≠ b) s (st.moveKv slot l heads a b) := by
  rw [moveKv_eq]
  exact .foldl (fun _ v _ hst => moveHeads_keepsAt hapart hst l heads v) h

theorem moveLayer_keepsAt (m : Model) (l : Nat) {st : State} (h : KeepsAt slot (· ≠ b) s st) :
    KeepsAt slot (· ≠ b) s (match m.layer l with | some r => st.moveKv slot l r.kvHeads a b | none => st) := by
  split
  · exact moveKv_keepsAt hapart l _ h
  · exact h

theorem moveLayers_keepsAt (m : Model) : KeepsAt slot (· ≠ b) s (s.moveLayers slot m a b) :=
  .foldl (fun _ l _ hst => moveLayer_keepsAt hapart m l hst) (.refl _ _ s)

variable {l k : Nat} {v : Bool} {g : KvGroup} (hab : a ≠ b) (hg : s.getGroup slot false l a v k = some g) (hframe : s.hasFrame slot l b)

include hab hg hframe

/-- Moving one more group, of this head or another, keeps a copy made. -/
theorem moveGroup_keeps_moved {st : State} (h : KeepsAt slot (· ≠ b) s st)
    (hdone : st.getGroup slot false l b v k = some { g with tok := b % 64 }) (l' k' : Nat) (v' : Bool) :
    (st.moveGroup slot l' a b v' k').getGroup slot false l b v k = some { g with tok := b % 64 } := by
  by_cases hsame : l = l' ∧ v = v' ∧ k = k'
  · obtain ⟨rfl, rfl, rfl⟩ := hsame
    exact moveGroup_same ((h.groups a hab l v k).trans hg) (h.hasFrame hframe)
  · rw [moveGroup_ne (h.apart hapart) hsame]; exact hdone

theorem moveHeads_keeps_moved {st : State} (h : KeepsAt slot (· ≠ b) s st)
    (hdone : st.getGroup slot false l b v k = some { g with tok := b % 64 }) (l' heads : Nat) (v' : Bool) :
    ((List.range heads).foldl (fun x h => x.moveGroup slot l' a b v' h) st).getGroup slot false l b v k = some { g with tok := b % 64 } :=
  foldl_reaches (KeepsAt slot (· ≠ b) s) (fun x => x.getGroup slot false l b v k = some { g with tok := b % 64 })
    (fun _ k' _ hx => hx.trans (moveGroup_keepsAt (hx.apart hapart) l' v' k'))
    (fun _ k' _ hx hd => moveGroup_keeps_moved hapart hab hg hframe hx hd l' k' v') h (.inl hdone)

theorem moveHeads_moves {st : State} (h : KeepsAt slot (· ≠ b) s st) {heads : Nat} (hk : k < heads) :
    ((List.range heads).foldl (fun x h => x.moveGroup slot l a b v h) st).getGroup slot false l b v k = some { g with tok := b % 64 } :=
  foldl_reaches (KeepsAt slot (· ≠ b) s) (fun x => x.getGroup slot false l b v k = some { g with tok := b % 64 })
    (fun _ k' _ hx => hx.trans (moveGroup_keepsAt (hx.apart hapart) l v k'))
    (fun _ k' _ hx hd => moveGroup_keeps_moved hapart hab hg hframe hx hd l k' v) h
    (.inr ⟨k, List.mem_range.2 hk, fun _ hx => moveGroup_same ((hx.groups a hab l v k).trans hg) (hx.hasFrame hframe)⟩)

theorem moveKv_keeps_moved {st : State} (h : KeepsAt slot (· ≠ b) s st)
    (hdone : st.getGroup slot false l b v k = some { g with tok := b % 64 }) (l' heads : Nat) :
    (st.moveKv slot l' heads a b).getGroup slot false l b v k = some { g with tok := b % 64 } :=
  foldl_reaches (KeepsAt slot (· ≠ b) s) (fun x => x.getGroup slot false l b v k = some { g with tok := b % 64 })
    (fun _ v' _ hx => moveHeads_keepsAt hapart hx l' heads v')
    (fun _ v' _ hx hd => moveHeads_keeps_moved hapart hab hg hframe hx hd l' heads v') h (.inl hdone)

theorem moveKv_moves {st : State} (h : KeepsAt slot (· ≠ b) s st) {heads : Nat} (hk : k < heads) :
    (st.moveKv slot l heads a b).getGroup slot false l b v k = some { g with tok := b % 64 } :=
  foldl_reaches (KeepsAt slot (· ≠ b) s) (fun x => x.getGroup slot false l b v k = some { g with tok := b % 64 })
    (fun _ v' _ hx => moveHeads_keepsAt hapart hx l heads v')
    (fun _ v' _ hx hd => moveHeads_keeps_moved hapart hab hg hframe hx hd l heads v') h
    (.inr ⟨v, by cases v <;> simp, fun _ hx => moveHeads_moves hapart hab hg hframe hx hk⟩)

/-- A move brings each group of each of the model's layers to its target. -/
theorem moveLayers_moves {m : Model} {r : LayerRec} (hl : l ∈ m.kvLayers) (hr : m.layer l = some r) (hk : k < r.kvHeads) :
    (s.moveLayers slot m a b).getGroup slot false l b v k = some { g with tok := b % 64 } := by
  refine foldl_reaches (KeepsAt slot (· ≠ b) s) (fun x => x.getGroup slot false l b v k = some { g with tok := b % 64 })
    (fun _ l' _ hx => moveLayer_keepsAt hapart m l' hx) (fun x l' _ hx hd => ?_) (.refl _ _ s) (.inr ⟨l, hl, fun x hx => ?_⟩)
  · split
    · exact moveKv_keeps_moved hapart hab hg hframe hx hd l' _
    · exact hd
  · rw [hr]
    exact moveKv_moves hapart hab hg hframe hx hk

end Moves

/-! ### A path's moves (09 R292) -/

theorem pathMoves_sorted (p : List TokenWork) : (pathMoves p).Pairwise fun x y => x.2 < y.2 := by
  unfold pathMoves
  refine List.Pairwise.filter _ (List.pairwise_map.2 ?_)
  have hsnd : (p.zip (List.range p.length)).map Prod.snd = List.range p.length := List.map_snd_zip (by simp)
  have hplaces : ((p.zip (List.range p.length)).map Prod.snd).Pairwise (· < ·) := by rw [hsnd]; exact List.pairwise_lt_range
  exact List.pairwise_map.1 hplaces

theorem mem_pathMoves {p : List TokenWork} {i d : Nat} : (i, d) ∈ pathMoves p ↔ (∃ x, p[d]? = some x ∧ x.elem = i) ∧ i ≠ d := by
  unfold pathMoves
  rw [List.mem_filter, List.mem_map]
  refine and_congr ?_ (by simp)
  constructor
  · rintro ⟨⟨x, j⟩, hmem, heq⟩
    cases heq
    obtain ⟨n, hn⟩ := List.mem_iff_getElem?.1 hmem
    obtain ⟨hx, hj⟩ := List.getElem?_zip_eq_some.1 hn
    obtain ⟨hlt, rfl⟩ : ∃ h : n < p.length, n = j := by simpa [List.getElem?_eq_some_iff] using hj
    exact ⟨x, hx, rfl⟩
  · rintro ⟨x, hx, rfl⟩
    refine ⟨(x, d), List.mem_iff_getElem?.2 ⟨d, List.getElem?_zip_eq_some.2 ⟨hx, ?_⟩⟩, rfl⟩
    exact List.getElem?_range (List.getElem?_eq_some_iff.1 hx).1

/-- Rising numbers are at least as great as their places. -/
theorem place_le_of_rising {l : List Nat} (h : l.Pairwise (· < ·)) {k : Nat} (hk : ∀ y ∈ l, k ≤ y) {d v : Nat} (hv : l[d]? = some v) : k + d ≤ v := by
  induction l generalizing k d with
  | nil => simp at hv
  | cons y l ih =>
    obtain ⟨hy, hrest⟩ := List.pairwise_cons.1 h
    cases d with
    | zero =>
      have hyv : y = v := by simpa using hv
      exact hyv ▸ hk y List.mem_cons_self
    | succ d =>
      have hle := ih hrest (k := k + 1) (fun z hz => Nat.lt_of_le_of_lt (hk y List.mem_cons_self) (hy z hz)) hv
      omega

/-- The moves of a path at every layer. -/
def State.movePath (s : State) (slot : Nat) (m : Model) (pos : Nat) (l : List (Nat × Nat)) : State :=
  l.foldl (fun st mv => st.moveLayers slot m (pos + mv.1) (pos + mv.2)) s

theorem movePath_keepsAt {s : State} {slot : Nat} (hapart : s.FramesApart slot) (m : Model) (pos : Nat) {l : List (Nat × Nat)} {n : Nat}
    (hn : ∀ mv ∈ l, mv.2 ≠ n) : KeepsAt slot (· = pos + n) s (s.movePath slot m pos l) := by
  refine .foldl (fun st mv hmv hst => hst.trans ((moveLayers_keepsAt (hst.apart hapart) m).mono ?_)) (.refl _ _ s)
  rintro _ rfl heq
  exact hn mv hmv (by omega)

/-- Each element of a rising path has its groups at its depth once the path's moves are done. -/
theorem movePath_moves {s : State} {slot pos : Nat} {m : Model} {p : List TokenWork} {d l k : Nat} {x : TokenWork} {r : LayerRec} {v : Bool}
    {g : KvGroup} (hapart : s.FramesApart slot) (hrise : (p.map TokenWork.elem).Pairwise (· < ·)) (hx : p[d]? = some x) (hl : l ∈ m.kvLayers)
    (hr : m.layer l = some r) (hframe : s.hasFrame slot l (pos + d)) (hk : k < r.kvHeads)
    (hg : s.getGroup slot false l (pos + x.elem) v k = some g) :
    (s.movePath slot m pos (pathMoves p)).getGroup slot false l (pos + d) v k = some { g with tok := (pos + d) % 64 } := by
  have hdepth : d ≤ x.elem := by
    have hle := place_le_of_rising hrise (fun _ _ => Nat.zero_le _) (d := d) (v := x.elem) (by rw [List.getElem?_map, hx]; rfl)
    omega
  by_cases hsame : x.elem = d
  · have hkeeps : KeepsAt slot (· = pos + d) s (s.movePath slot m pos (pathMoves p)) := movePath_keepsAt hapart m pos fun mv hmv heq => by
      obtain ⟨⟨y, hy, helem⟩, hne⟩ := mem_pathMoves.1 hmv
      rw [heq, hx] at hy
      cases hy
      exact hne (by rw [← helem, hsame, heq])
    rw [hsame] at hg
    obtain ⟨-, htok, -⟩ := getGroup_spec hg
    rw [hkeeps.groups _ rfl, hg, ← htok]
  · obtain ⟨before, after, hsplit⟩ := List.append_of_mem (mem_pathMoves.2 ⟨⟨x, hx, rfl⟩, hsame⟩)
    have hsorted := pathMoves_sorted p
    rw [hsplit, List.pairwise_append] at hsorted
    obtain ⟨-, hafter, hbefore⟩ := hsorted
    have hpre := movePath_keepsAt hapart m pos (l := before) (n := x.elem) fun mv hmv heq => by
      have := hbefore mv hmv _ List.mem_cons_self
      omega
    have hapart' := hpre.apart hapart
    have hmoved := moveLayers_moves hapart' (a := pos + x.elem) (b := pos + d) (by omega) ((hpre.groups _ rfl l v k).trans hg) (hpre.hasFrame hframe)
      hl hr hk
    have hpost := movePath_keepsAt ((moveLayers_keepsAt hapart' (a := pos + x.elem) (b := pos + d) m).apart hapart') m pos (l := after) (n := d)
      fun mv hmv heq => by
        have := (List.pairwise_cons.1 hafter).1 mv hmv
        omega
    have hall : s.movePath slot m pos (pathMoves p) =
        ((s.movePath slot m pos before).moveLayers slot m (pos + x.elem) (pos + d)).movePath slot m pos after := by
      unfold State.movePath
      rw [hsplit, List.foldl_append, List.foldl_cons]
    rw [hall, hpost.groups _ rfl]
    exact hmoved

/-! ### COMPACTION_DONE -/

theorem exec_compactionDone {s : State} {tag : Nat} {o : OpenStep} (hlive : s.liveStep tag = some o) : exec (.compactionDone tag) s =
    .next (((List.range o.cmd.entries.length).zip (o.cmd.entries.zip o.entries)).foldl (fun st x =>
      if entryFinished o x.1 && needsCompaction o.attrs o x.1 x.2.1 x.2.2 then st.compact o x.1 x.2.1 (acceptedPath o.attrs o x.1 x.2.1).1 else st)
      s) := by
  change execCompactionDone tag s = _
  unfold execCompactionDone
  rw [hlive]

theorem compact_eq {s : State} {o : OpenStep} {m : Model} (hm : s.model o.model = some m) (i : Nat) (e : LenEntry) (p : List TokenWork) :
    s.compact o i e p = (s.movePath e.slot m e.position (pathMoves p)).modEntry o.tag i fun w => { w with compacted := true } := by
  unfold State.compact
  rw [hm]
  rfl

/-- A value that neither a frame's data nor an entry of a step enters stays through a compaction. -/
theorem compact_keep {β : Type} (f : State → β) (hframe : ∀ x i h, f (x.modFrame i h) = f x) (hentry : ∀ x t i h, f (x.modEntry t i h) = f x)
    (s : State) (o : OpenStep) (i : Nat) (e : LenEntry) (p : List TokenWork) : f (s.compact o i e p) = f s := by
  cases hm : s.model o.model with
  | none => unfold State.compact; rw [hm]
  | some m =>
    have hgroup (x : State) (l a b : Nat) (v : Bool) (k : Nat) : f (x.moveGroup e.slot l a b v k) = f x := by
      unfold State.moveGroup State.putGroup
      split
      · split
        · exact hframe ..
        · rfl
      · rfl
    have hkv (x : State) (l heads a b : Nat) : f (x.moveKv e.slot l heads a b) = f x := by
      rw [moveKv_eq]
      exact foldl_keep f _ _ _ fun _ _ => foldl_keep f _ _ _ fun _ _ => hgroup ..
    have hlayers (x : State) (a b : Nat) : f (x.moveLayers e.slot m a b) = f x := foldl_keep f _ _ _ fun y l => by
      cases m.layer l with
      | none => rfl
      | some r => exact hkv ..
    rw [compact_eq hm, hentry]
    exact foldl_keep f _ _ _ fun _ _ => hlayers ..

theorem compactions_keep {β : Type} (f : State → β) (hframe : ∀ x i h, f (x.modFrame i h) = f x) (hentry : ∀ x t i h, f (x.modEntry t i h) = f x)
    (s : State) (o : OpenStep) (l : List (Nat × LenEntry × EntryWork)) : f (l.foldl (fun st x =>
      if entryFinished o x.1 && needsCompaction o.attrs o x.1 x.2.1 x.2.2 then st.compact o x.1 x.2.1 (acceptedPath o.attrs o x.1 x.2.1).1 else st)
      s) = f s :=
  foldl_keep f _ _ _ fun x a => by
    split
    · exact compact_keep f hframe hentry x o a.1 a.2.1 _
    · rfl

/-- A step of one entry that waits for its compaction: its path is moved. -/
theorem exec_compactionDone_single {s : State} {tag : Nat} {o : OpenStep} {e : LenEntry} {w : EntryWork} {m : Model}
    (hlive : s.liveStep tag = some o) (he : o.cmd.entries = [e]) (hw : o.entries = [w]) (hm : s.model o.model = some m)
    (hfinished : entryFinished o 0 = true) (hneeds : needsCompaction o.attrs o 0 e w = true) : exec (.compactionDone tag) s =
      .next ((s.movePath e.slot m e.position (pathMoves (acceptedPath o.attrs o 0 e).1)).modEntry o.tag 0 fun w => { w with compacted := true }) := by
  rw [exec_compactionDone hlive, he, hw, ← compact_eq hm]
  exact congrArg _ (if_pos (by rw [hfinished, hneeds]; rfl))

end Sys2Proof.Machine
end

section
/-! PROOFS. O59, its fourth part: the match of an entry taken (09 R286, R287): shared pages, references, LAST_USE and the copy that is not shared. -/

set_option Elab.async false

namespace Sys2Proof.Machine

/-! ### Page tables and their changes (09 R273) -/

theorem page_setPage_same (s : State) (p : PageEntry) : (s.setPage p).page p.slot p.draft p.layer p.n = some p :=
  find_putBy _ p s.kv.pages (by simp [PageEntry.is])

theorem page_setPage_ne {s : State} {p : PageEntry} {slot l n : Nat} {d : Bool} (h : ¬ (p.slot = slot ∧ p.draft = d ∧ p.layer = l ∧ p.n = n)) :
    (s.setPage p).page slot d l n = s.page slot d l n := by
  refine find_putBy_ne _ _ p s.kv.pages ?_ fun y hy => ?_
  · simpa [PageEntry.is, and_assoc] using h
  · simp only [PageEntry.is, Bool.and_eq_true, beq_iff_eq] at hy
    obtain ⟨⟨⟨hslot, hdraft⟩, hlayer⟩, hn⟩ := hy
    simpa [PageEntry.is, hslot, hdraft, hlayer, hn, and_assoc] using h

theorem page_of_pages {s t : State} (h : t.kv.pages = s.kv.pages) (slot l n : Nat) (d : Bool) : t.page slot d l n = s.page slot d l n := by
  unfold State.page; rw [h]

theorem takeFrame_nodes {s : State} {k size : Nat} {o : FrameOwner} {r : FrameId × State} (h : s.takeFrame k size o = some r) :
    r.2.kv.nodes = s.kv.nodes ∧ r.2.kv.pages = s.kv.pages := by
  unfold State.takeFrame at h
  dsimp only at h
  split at h
  · split at h
    · cases h; exact ⟨rfl, rfl⟩
    · cases h
  · split at h
    · cases h
    · split at h
      · cases h; exact ⟨rfl, rfl⟩
      · cases h

theorem newFrame_nodes {s : State} {slot layer size : Nat} {o : FrameOwner} {r : FrameId × State}
    (h : s.newFrame slot layer size o = some r) : r.2.kv.nodes = s.kv.nodes ∧ r.2.kv.pages = s.kv.pages := by
  unfold State.newFrame at h
  split at h
  · exact takeFrame_nodes h
  · cases h

/-- A reservation adds the pages that lack, and changes none that stands. -/
theorem reservePages_spec {tag slot : Nat} {ps : List PageNeed} {s t : State} (h : s.reservePages tag slot ps = some t) :
    t.kv.nodes = s.kv.nodes ∧ ∀ k d l n p, s.page k d l n = some p → t.page k d l n = some p := by
  induction ps generalizing s with
  | nil => cases h; exact ⟨rfl, fun _ _ _ _ _ hp => hp⟩
  | cons need ps ih =>
    obtain ⟨d, l, n, size, shape⟩ := need
    unfold State.reservePages at h
    split at h
    · exact ih h
    · rename_i hlacks
      split at h
      · rename_i id s1 hnew
        obtain ⟨hnodes, hpages⟩ := newFrame_nodes hnew
        obtain ⟨hnodes', hkeep⟩ := ih h
        refine ⟨hnodes'.trans hnodes, fun k d' l' n' p hp => hkeep k d' l' n' p ?_⟩
        rw [page_setPage_ne, page_of_pages hpages]
        · exact hp
        · rintro ⟨rfl, rfl, rfl, rfl⟩
          exact hlacks (by rw [hp]; rfl)
      · cases h

theorem reservePages_sv {tag slot : Nat} {ps : List PageNeed} {s t : State} (h : s.reservePages tag slot ps = some t) : t.sv = s.sv :=
  (State.reservePages_only (K := 4096) (Only.refl s) h (Needs.refl _)).sv rfl rfl

/-- Frames that a state can reserve are reserved at once, and the entry stalls no more. -/
theorem reserveFor_found {s : State} {slot : Nat} {ps : List PageNeed} (tag i : Nat) (h : s.canReserve tag slot ps = true) : ∃ t : State,
    s.reservePages tag slot ps = some t ∧ s.reserveFor tag i slot ps = (t.modEntry tag i fun w => { w with stalledAt := none }, true) := by
  obtain ⟨t, ht⟩ := Option.isSome_iff_exists.1 h
  have hroom : s.makeRoom (fun st => st.canReserve tag slot ps) = (s, .found) := if_pos h
  refine ⟨t, ht, ?_⟩
  unfold State.reserveFor
  rw [hroom]
  dsimp only
  rw [ht]

/-! ### Nodes and their LAST_USE (09 R286, R289) -/

/-- Every node of `t` is a node of `s` but for its count. -/
def NodesFrom (s t : State) : Prop := ∀ x ∈ t.kv.nodes, ∃ y ∈ s.kv.nodes, y.idx = x.idx ∧ y.lastUse = x.lastUse

theorem NodesFrom.trans {s t u : State} (h : NodesFrom s t) (g : NodesFrom t u) : NodesFrom s u := fun x hx => by
  obtain ⟨y, hy, hyx⟩ := g x hx
  obtain ⟨z, hz, hzy⟩ := h y hy
  exact ⟨z, hz, hzy.1.trans hyx.1, hzy.2.trans hyx.2⟩

theorem NodesFrom.of_nodes {s t : State} (h : t.kv.nodes ⊆ s.kv.nodes) : NodesFrom s t := fun x hx => ⟨x, h hx, rfl, rfl⟩

theorem countRef_nodesFrom (s : State) (i : Option Nat) (up : Bool) : NodesFrom s (s.countRef i up) := by
  cases i with
  | none => exact .of_nodes (List.Subset.refl _)
  | some k =>
    intro x hx
    obtain ⟨y, hy, rfl⟩ := List.mem_map.1 hx
    refine ⟨y, hy, ?_⟩
    split <;> exact ⟨rfl, rfl⟩

theorem evictNode_nodesFrom (s : State) (n : Node) : NodesFrom s (s.evictNode n) := by
  have hfree : ((n.pages.map (·.2)).foldl State.freeFrame s).kv.nodes = s.kv.nodes := foldl_keep (fun x => x.kv.nodes) _ _ _ fun _ _ => rfl
  refine NodesFrom.trans ?_ (countRef_nodesFrom _ n.parent false)
  exact .of_nodes fun x hx => hfree ▸ (List.filter_subset_self _ hx)

theorem releaseTrees_nodesFrom (n : Nat) (s : State) : NodesFrom s (State.releaseTrees n s) := by
  induction n generalizing s with
  | zero => exact .of_nodes (List.Subset.refl _)
  | succ n ih =>
    unfold State.releaseTrees
    split
    · exact (evictNode_nodesFrom s _).trans (ih _)
    · exact .of_nodes (List.Subset.refl _)

theorem refNode_nodesFrom (s : State) (i : Option Nat) (up : Bool) : NodesFrom s (s.refNode i up) := by
  cases up
  · exact (countRef_nodesFrom s i false).trans (releaseTrees_nodesFrom _ _)
  · exact countRef_nodesFrom s i true

/-- The nodes of an index were last used at a time. -/
def State.UsedAt (s : State) (i time : Nat) : Prop := ∀ x ∈ s.kv.nodes, x.idx = i → x.lastUse = time

theorem State.UsedAt.through {s t : State} {i time : Nat} (h : s.UsedAt i time) (g : NodesFrom s t) : t.UsedAt i time := fun x hx hi => by
  obtain ⟨y, hy, hidx, huse⟩ := g x hx
  rw [← huse]
  exact h y hy (hidx.trans hi)

/-- A node marked as used at a time is so, and any other that was stays so. -/
theorem modNode_usedAt (s : State) (i time : Nat) : (s.modNode i fun n => { n with lastUse := time }).UsedAt i time := fun x hx hi => by
  obtain ⟨y, -, rfl⟩ := List.mem_map.1 hx
  by_cases h : y.idx = i
  · rw [if_pos h]
  · rw [if_neg h] at hi; exact absurd hi h

theorem State.UsedAt.modNode {s : State} {i time : Nat} (h : s.UsedAt i time) (k : Nat) :
    (s.modNode k fun n => { n with lastUse := time }).UsedAt i time := fun x hx hi => by
  obtain ⟨y, hy, rfl⟩ := List.mem_map.1 hx
  by_cases hk : y.idx = k
  · rw [if_pos hk]
  · rw [if_neg hk] at hi ⊢; exact h y hy hi

/-! ### The leading part of a match taken (09 R286) -/

/-- One matched block taken: its shared pages and its LAST_USE. The pages' form is that of state `u`. -/
def State.takeNode (u : State) (slot : Nat) (s : State) (e : Node × Nat) : State :=
  (e.1.pages.foldl (fun a p => a.setPage ⟨slot, false, p.1, e.2, p.2, true, u.nodeShape e.1 p.1⟩) s).modNode e.1.idx
    fun n => { n with lastUse := s.time }

/-- The blocks of a match taken, before the slot's reference. -/
def State.takeNodes (s : State) (slot : Nat) (chain : List Node) : State :=
  (chain.zip (List.range chain.length)).foldl (fun st e => s.takeNode slot st e) s

theorem takeNode_frame (u : State) (slot : Nat) (s : State) (e : Node × Nat) :
    (u.takeNode slot s e).sv = s.sv ∧ (u.takeNode slot s e).tm = s.tm ∧ (u.takeNode slot s e).wt = s.wt :=
  ⟨foldl_keep State.sv _ _ _ fun _ _ => rfl, foldl_keep State.tm _ _ _ fun _ _ => rfl, foldl_keep State.wt _ _ _ fun _ _ => rfl⟩

theorem takeNode_nodes (u : State) (slot : Nat) (s : State) (e : Node × Nat) :
    (u.takeNode slot s e).kv.nodes = (s.modNode e.1.idx fun n => { n with lastUse := s.time }).kv.nodes := by
  have h : (e.1.pages.foldl (fun a p => a.setPage ⟨slot, false, p.1, e.2, p.2, true, u.nodeShape e.1 p.1⟩) s).kv.nodes = s.kv.nodes :=
    foldl_keep (fun x => x.kv.nodes) _ _ _ fun _ _ => rfl
  unfold State.takeNode State.modNode
  rw [h]

/-- The pages of a block are set one by one, each at its layer. -/
theorem setPages_page {u : State} {slot b : Nat} {n : Node} {p : Nat × FrameId} (hlayers : (n.pages.map Prod.fst).Nodup) (s : State) (hp : p ∈ n.pages) :
    (n.pages.foldl (fun a p => a.setPage ⟨slot, false, p.1, b, p.2, true, u.nodeShape n p.1⟩) s).page slot false p.1 b =
      some ⟨slot, false, p.1, b, p.2, true, u.nodeShape n p.1⟩ := by
  refine foldl_reaches (fun _ => True) (fun a : State => a.page slot false p.1 b = some ⟨slot, false, p.1, b, p.2, true, u.nodeShape n p.1⟩)
    (fun _ _ _ _ => trivial) (fun a x hx _ ha => ?_) trivial (.inr ⟨p, hp, fun a _ => page_setPage_same a _⟩)
  by_cases hlayer : x.1 = p.1
  · obtain rfl := List.inj_on_of_nodup_map hlayers hx hp hlayer
    exact page_setPage_same a _
  · rw [page_setPage_ne fun h => hlayer h.2.2.1]
    exact ha

theorem setPages_page_ne {u : State} {slot b b' l : Nat} {n : Node} (hb : b' ≠ b) (s : State) :
    (n.pages.foldl (fun a p => a.setPage ⟨slot, false, p.1, b', p.2, true, u.nodeShape n p.1⟩) s).page slot false l b = s.page slot false l b :=
  foldl_keep (fun a : State => a.page slot false l b) _ _ _ fun _ _ => page_setPage_ne fun h => hb h.2.2.2

section TakeNodes

variable {s : State} {slot : Nat} {chain : List Node}

theorem mem_zip_range {n : Node} {b : Nat} : (n, b) ∈ chain.zip (List.range chain.length) ↔ chain[b]? = some n := by
  constructor
  · intro h
    obtain ⟨k, hk⟩ := List.mem_iff_getElem?.1 h
    obtain ⟨hn, hb⟩ := List.getElem?_zip_eq_some.1 hk
    obtain ⟨-, rfl⟩ : ∃ h : k < chain.length, k = b := by simpa [List.getElem?_eq_some_iff] using hb
    exact hn
  · intro h
    exact List.mem_iff_getElem?.2 ⟨b, List.getElem?_zip_eq_some.2 ⟨h, List.getElem?_range (List.getElem?_eq_some_iff.1 h).1⟩⟩

theorem takeNodes_frame (s : State) (slot : Nat) (chain : List Node) :
    (s.takeNodes slot chain).sv = s.sv ∧ (s.takeNodes slot chain).tm = s.tm ∧ (s.takeNodes slot chain).wt = s.wt :=
  ⟨foldl_keep State.sv _ _ _ fun x e => (takeNode_frame s slot x e).1, foldl_keep State.tm _ _ _ fun x e => (takeNode_frame s slot x e).2.1,
    foldl_keep State.wt _ _ _ fun x e => (takeNode_frame s slot x e).2.2⟩

/-- Each page of a matched block stands in the slot's table, shared, at the block's number. -/
theorem takeNodes_page {n : Node} {b : Nat} {p : Nat × FrameId} (hn : chain[b]? = some n) (hlayers : (n.pages.map Prod.fst).Nodup)
    (hp : p ∈ n.pages) : (s.takeNodes slot chain).page slot false p.1 b = some ⟨slot, false, p.1, b, p.2, true, s.nodeShape n p.1⟩ := by
  refine foldl_reaches (fun _ => True) (fun a : State => a.page slot false p.1 b = some ⟨slot, false, p.1, b, p.2, true, s.nodeShape n p.1⟩)
    (fun _ _ _ _ => trivial) (fun a x hx _ ha => ?_) trivial (.inr ⟨(n, b), mem_zip_range.2 hn, fun a _ => setPages_page hlayers a hp⟩)
  obtain ⟨n', b'⟩ := x
  by_cases hb : b' = b
  · subst hb
    obtain rfl := Option.some.inj ((mem_zip_range.1 hx).symm.trans hn)
    exact setPages_page hlayers a hp
  · exact (setPages_page_ne hb a).trans ha

theorem takeNode_usedAt (u : State) {a : State} {i time : Nat} (e : Node × Nat) (htime : a.time = time) (ha : a.UsedAt i time) :
    (u.takeNode slot a e).UsedAt i time := by
  unfold State.UsedAt
  rw [takeNode_nodes, htime]
  exact ha.modNode e.1.idx

theorem time_of_tm {s t : State} (h : t.tm = s.tm) : t.time = s.time := by unfold State.time; rw [h]

/-- A node's mark of now stays through a match; the nodes of the match take it. -/
theorem takeNodes_usedAt {i : Nat} (h : s.UsedAt i s.time ∨ ∃ n ∈ chain, n.idx = i) : (s.takeNodes slot chain).UsedAt i s.time := by
  refine foldl_reaches (fun a => a.tm = s.tm) (fun a => a.UsedAt i s.time) (fun a e _ ha => (takeNode_frame s slot a e).2.1.trans ha)
    (fun a e _ htm ha => takeNode_usedAt s e (time_of_tm htm) ha) rfl (h.imp id ?_)
  rintro ⟨n, hn, rfl⟩
  obtain ⟨b, hb⟩ := List.mem_iff_getElem?.1 hn
  refine ⟨(n, b), mem_zip_range.2 hb, fun a htm => ?_⟩
  unfold State.UsedAt
  rw [takeNode_nodes, time_of_tm htm]
  exact modNode_usedAt a n.idx s.time

end TakeNodes

theorem takeChain_eq {s : State} {slot : Nat} {x : Slot} (hx : s.slot slot = some x) (chain : List Node) : s.takeChain slot chain =
    (((s.takeNodes slot chain).refNode (chain.getLast?.map Node.idx) true).refNode x.node false).modSlot slot
      fun y => { y with node := chain.getLast?.map Node.idx } := by
  have hx' : (s.takeNodes slot chain).slot slot = some x := (slot_of_slots (congrArg Serving.slots (takeNodes_frame s slot chain).1) slot).trans hx
  unfold State.takeChain
  change (match (s.takeNodes slot chain).slot slot with | some x => _ | none => _) = _
  rw [hx']
  rfl

/-- What a match's leading part leaves: pages, the slot's node, LAST_USE, and the steps. -/
theorem takeChain_spec {s : State} {slot : Nat} {x : Slot} (hx : s.slot slot = some x) (chain : List Node) : let t := s.takeChain slot chain
    t.kv.pages = (s.takeNodes slot chain).kv.pages ∧ NodesFrom (s.takeNodes slot chain) t ∧
    (∃ y, t.slot slot = some y ∧ y.node = chain.getLast?.map Node.idx) ∧ t.sv.steps = s.sv.steps ∧ t.sv.queues = s.sv.queues := by
  obtain ⟨hsv, -, -⟩ := takeNodes_frame s slot chain
  have h1 := refNode_returns (s.takeNodes slot chain) (chain.getLast?.map Node.idx) true
  have h2 := refNode_returns ((s.takeNodes slot chain).refNode (chain.getLast?.map Node.idx) true) x.node false
  have hsv' : (((s.takeNodes slot chain).refNode (chain.getLast?.map Node.idx) true).refNode x.node false).sv = s.sv := by
    rw [refNode_sv, refNode_sv, hsv]
  have hsteps := congrArg Serving.steps hsv'
  have hqueues := congrArg Serving.queues hsv'
  rw [takeChain_eq hx]
  refine ⟨(h1.trans h2).pages, (refNode_nodesFrom _ _ _).trans (refNode_nodesFrom _ _ _), ⟨{ x with node := chain.getLast?.map Node.idx }, ?_, rfl⟩,
    hsteps, hqueues⟩
  rw [slot_modSlot, slot_of_slots (congrArg Serving.slots hsv'), hx, Option.map_some, if_pos rfl]

/-! ### The entry of a step after a change of it -/

theorem stepEnded_congr {s t : State} (h : t.sv.queues = s.sv.queues) {o x : OpenStep} (hq : x.queue = o.queue) (hs : x.seq = o.seq) :
    t.stepEnded x = s.stepEnded o := by
  unfold State.stepEnded State.queue
  rw [h, hq, hs]

theorem liveStep_of_steps {s t : State} (hsteps : t.sv.steps = s.sv.steps) (hqueues : t.sv.queues = s.sv.queues) (tag : Nat) :
    t.liveStep tag = s.liveStep tag := by
  unfold State.liveStep
  rw [stepOf_of_steps hsteps]
  exact congrArg (Option.filter · _) (funext fun o => by rw [stepEnded_congr hqueues rfl rfl])

theorem entryAt_of_steps {s t : State} (hsteps : t.sv.steps = s.sv.steps) (hqueues : t.sv.queues = s.sv.queues) (tag i : Nat) :
    t.entryAt tag i = s.entryAt tag i := by
  unfold State.entryAt
  rw [liveStep_of_steps hsteps hqueues]

theorem entryAt_parts {s : State} {tag i : Nat} {o : OpenStep} {e : LenEntry} {w : EntryWork} :
    s.entryAt tag i = some (o, e, w) ↔ s.liveStep tag = some o ∧ o.cmd.entries[i]? = some e ∧ o.entries[i]? = some w := by
  unfold State.entryAt
  constructor
  · intro h
    split at h
    · rename_i o' hlive
      split at h
      · rename_i he hw
        cases h
        exact ⟨hlive, he, hw⟩
      · cases h
    · cases h
  · rintro ⟨hlive, he, hw⟩
    rw [hlive]
    dsimp only
    rw [he, hw]

/-- An entry found after a change of it is the changed one. -/
theorem entryAt_modEntry {s : State} {tag i : Nat} {o : OpenStep} {e : LenEntry} {w : EntryWork} (h : s.entryAt tag i = some (o, e, w))
    (f : EntryWork → EntryWork) : (s.modEntry tag i f).entryAt tag i = some ({ o with entries := modAt o.entries i f }, e, f w) := by
  obtain ⟨hlive, he, hw⟩ := entryAt_parts.1 h
  obtain ⟨hstep, hgoes⟩ := Option.filter_eq_some_iff.1 hlive
  refine entryAt_parts.2 ⟨Option.filter_eq_some_iff.2 ⟨?_, ?_⟩, he, ?_⟩
  · refine (stepOf_modStep s tag tag (f := fun o => { o with entries := modAt o.entries i f })).trans ?_
    rw [hstep, Option.map_some, if_pos rfl]
  · exact hgoes
  · simp [modAt, hw]

/-! ### The match of an entry (09 R286, R287) -/

/-- The state in which the copied node has taken its LAST_USE. -/
def State.markUsed (s : State) (copied : Option Node) : State := copied.elim s fun n => s.modNode n.idx fun x => { x with lastUse := s.time }

/-- The state in which a match is taken, before its frames are reserved. -/
def State.matchTaken (s : State) (tag i slot : Nat) (shared : List Node) (copied : Option Node) (matched : Nat) : State :=
  (((s.markUsed copied).takeChain slot shared).modEntry tag i fun w => { w with matched := matched }).refNode (copied.map Node.idx) true

/-- The state whose frames have been reserved, with the copied node released again. -/
def State.matchReserved (r : State) (tag i : Nat) (copied : Option Node) : State :=
  (r.modEntry tag i fun w => { w with stalledAt := none }).refNode (copied.map Node.idx) false

/-- The state in which a match is done and its entry starts. -/
def State.matchDone (r : State) (tag i slot : Nat) (shared : List Node) (copied : Option Node) : State :=
  (copied.elim (r.matchReserved tag i copied) fun n => (r.matchReserved tag i copied).copyBlock slot n shared.length).modEntry tag i
    fun w => { w with matchPending := false }

/-- What is done with the matched nodes: the shared ones, and the one that is copied. -/
def State.takeMatch (s : State) (tag i slot : Nat) (shared : List Node) (copied : Option Node) (matched : Nat) (needs : List PageNeed) : State :=
  let r := (s.matchTaken tag i slot shared copied matched).reserveFor tag i slot needs
  let s2 := r.1.refNode (copied.map Node.idx) false
  if r.2 then
    ((copied.elim s2 fun n => s2.copyBlock slot n shared.length).modEntry tag i fun w => { w with matchPending := false }).startEntry tag i
  else s2

section Match

variable {s : State} {tag i : Nat} {o : OpenStep} {e : LenEntry} {w : EntryWork} {m : Model} {sl : Slot}
  (hentry : s.entryAt tag i = some (o, e, w)) (hmodel : s.model o.model = some m) (hslot : s.slot e.slot = some sl)

include hentry hmodel hslot

/-- The match of an entry, by the chain of nodes that its tokens match. -/
theorem matchEntry_eq :
    let layers := s.servedLayers m
    let toks := (entryTokens o.cmd i).map (·.1)
    let chain := s.matchChain o.attrs.tenant m.num layers.length (toks.length / 64) none (rootHash o.attrs.tenant m.num) toks
    let whole := 64 * chain.length == toks.length && 0 < toks.length
    let shared := if whole then chain.dropLast else chain
    let copied := if whole then chain.getLast? else none
    s.matchEntry tag i = s.takeMatch tag i e.slot shared copied (if whole then toks.length - 1 else 64 * shared.length)
      (s.entryPages o e sl ++ copied.elim [] fun _ => pagesOf m false layers (64 * shared.length) (64 * shared.length + 64)) := by
  intro layers toks chain whole shared copied
  unfold State.matchEntry
  rw [hentry]
  dsimp only
  rw [hmodel, hslot]
  unfold State.takeMatch State.matchTaken State.markUsed
  dsimp only
  generalize hc : copied = c
  have hc' : (if whole = true then chain.getLast? else none) = c := hc
  rw [show (if (64 * chain.length == toks.length && decide (0 < toks.length)) = true then chain.getLast? else none) = c from hc']
  cases c <;> rfl

end Match

section Taken

variable {s : State} {tag i slot : Nat} {o : OpenStep} {e : LenEntry} {w : EntryWork} {sl : Slot} {shared : List Node} {copied : Option Node}
  {matched : Nat} {needs : List PageNeed}

theorem takeMatch_reserved (hcan : (s.matchTaken tag i slot shared copied matched).canReserve tag slot needs = true) : ∃ r : State,
    (s.matchTaken tag i slot shared copied matched).reservePages tag slot needs = some r ∧
    s.takeMatch tag i slot shared copied matched needs = (r.matchDone tag i slot shared copied).startEntry tag i := by
  obtain ⟨r, hr, hreserve⟩ := reserveFor_found tag i hcan
  refine ⟨r, hr, ?_⟩
  unfold State.takeMatch
  rw [hreserve]
  rfl

theorem markUsed_frame (s : State) (copied : Option Node) : (s.markUsed copied).sv = s.sv ∧ (s.markUsed copied).tm = s.tm ∧
    (s.markUsed copied).wt = s.wt ∧ ∀ n, copied = some n → (s.markUsed copied).UsedAt n.idx s.time := by
  cases copied with
  | none => exact ⟨rfl, rfl, rfl, fun n h => by cases h⟩
  | some n => exact ⟨rfl, rfl, rfl, fun n' h => by cases h; exact modNode_usedAt s n.idx s.time⟩

/-- What a match leaves before its frames are reserved: the shared pages, the slot's node, LAST_USE, and the entry. -/
theorem matchTaken_spec (hentry : s.entryAt tag i = some (o, e, w)) (hslot : s.slot slot = some sl) :
    let v := s.matchTaken tag i slot shared copied matched
    v.kv.pages = ((s.markUsed copied).takeNodes slot shared).kv.pages ∧
    NodesFrom ((s.markUsed copied).takeNodes slot shared) v ∧
    (∃ y, v.slot slot = some y ∧ y.node = shared.getLast?.map Node.idx) ∧
    v.entryAt tag i = some ({ o with entries := modAt o.entries i fun w => { w with matched := matched } }, e, { w with matched := matched }) := by
  obtain ⟨hsv, -, -, -⟩ := markUsed_frame s copied
  obtain ⟨hpages, hnodes, ⟨y, hy, hnode⟩, hsteps, hqueues⟩ :=
    takeChain_spec ((slot_of_slots (congrArg Serving.slots hsv) slot).trans hslot) shared
  have href := refNode_returns (((s.markUsed copied).takeChain slot shared).modEntry tag i fun w => { w with matched := matched })
    (copied.map Node.idx) true
  have hentry' := (entryAt_of_steps (hsteps.trans (congrArg Serving.steps hsv)) (hqueues.trans (congrArg Serving.queues hsv)) tag i).trans hentry
  have hsv' := refNode_sv (((s.markUsed copied).takeChain slot shared).modEntry tag i fun w => { w with matched := matched })
    (copied.map Node.idx) true
  refine ⟨href.pages.trans hpages, hnodes.trans (refNode_nodesFrom _ _ _), ⟨y, ?_, hnode⟩, ?_⟩
  · exact (slot_of_slots (congrArg Serving.slots hsv') slot).trans hy
  · exact (entryAt_of_steps (congrArg Serving.steps hsv') (congrArg Serving.queues hsv') tag i).trans (entryAt_modEntry hentry' _)

theorem copyBlock_pages (s : State) (slot : Nat) (n : Node) (b : Nat) : (s.copyBlock slot n b).kv.pages = s.kv.pages ∧
    (s.copyBlock slot n b).kv.nodes = s.kv.nodes ∧ (s.copyBlock slot n b).sv = s.sv := by
  have hone (x : State) (p : Nat × FrameId) : (x.copyPage slot b p).kv.pages = x.kv.pages ∧ (x.copyPage slot b p).kv.nodes = x.kv.nodes ∧
      (x.copyPage slot b p).sv = x.sv := by
    rcases copyPage_cases x slot b p with h | ⟨q, f, -, -, -, h⟩ <;> rw [h] <;> exact ⟨rfl, rfl, rfl⟩
  rw [copyBlock_eq]
  exact ⟨foldl_keep (fun x => x.kv.pages) _ _ _ fun x p => (hone x p).1, foldl_keep (fun x => x.kv.nodes) _ _ _ fun x p => (hone x p).2.1,
    foldl_keep State.sv _ _ _ fun x p => (hone x p).2.2⟩

/-- What the end of a match leaves: pages and slots; its entry waits for the match no more. -/
theorem matchDone_spec {r : State} (hentry : r.entryAt tag i = some (o, e, w)) : let u := r.matchDone tag i slot shared copied
    u.kv.pages = r.kv.pages ∧ NodesFrom r u ∧ u.sv.slots = r.sv.slots ∧
    (∃ x, u.entryAt tag i = some (x, e, { w with stalledAt := none, matchPending := false })) ∧
    ∀ n, copied = some n → u.kv = ((r.matchReserved tag i copied).copyBlock slot n shared.length).kv ∧
      (r.matchReserved tag i copied).kv.pages = r.kv.pages := by
  have href := refNode_returns (r.modEntry tag i fun w => { w with stalledAt := none }) (copied.map Node.idx) false
  have hfrom := refNode_nodesFrom (r.modEntry tag i fun w => { w with stalledAt := none }) (copied.map Node.idx) false
  have hsv := refNode_sv (r.modEntry tag i fun w => { w with stalledAt := none }) (copied.map Node.idx) false
  have hreserved : (r.matchReserved tag i copied).entryAt tag i = some (_, e, { w with stalledAt := none }) :=
    (entryAt_of_steps (congrArg Serving.steps hsv) (congrArg Serving.queues hsv) tag i).trans (entryAt_modEntry hentry _)
  have hslots : (r.matchReserved tag i copied).sv.slots = r.sv.slots := by
    unfold State.matchReserved
    rw [hsv]; rfl
  cases copied with
  | none =>
    exact ⟨href.pages, hfrom, hslots, ⟨_, entryAt_modEntry hreserved _⟩, fun n h => by cases h⟩
  | some n =>
    obtain ⟨hpages, hnodes, hcopy⟩ := copyBlock_pages (r.matchReserved tag i (some n)) slot n shared.length
    have hcopied := (entryAt_of_steps (congrArg Serving.steps hcopy) (congrArg Serving.queues hcopy) tag i).trans hreserved
    refine ⟨hpages.trans href.pages, hfrom.trans (.of_nodes fun x hx => hnodes ▸ hx), (congrArg Serving.slots hcopy).trans hslots,
      ⟨_, entryAt_modEntry hcopied fun w => { w with matchPending := false }⟩, fun n' h => ?_⟩
    cases h
    exact ⟨rfl, href.pages⟩

/-- A match whose frames can be had is taken, and its entry starts (09 R286, R287). -/
theorem takeMatch_spec (hentry : s.entryAt tag i = some (o, e, w)) (hslot : s.slot e.slot = some sl) {chain : List Node}
    (hchain : ∀ n ∈ chain, n ∈ shared ∨ copied = some n)
    (hcan : (s.matchTaken tag i e.slot shared copied matched).canReserve tag e.slot needs = true) :
    ∃ (u : State) (x : OpenStep) (w' : EntryWork), s.takeMatch tag i e.slot shared copied matched needs = u.startEntry tag i ∧
      u.entryAt tag i = some (x, e, w') ∧ w'.matched = matched ∧ w'.matchPending = false ∧
      (∀ (b : Nat) (n : Node) (p : Nat × FrameId), shared[b]? = some n → (n.pages.map Prod.fst).Nodup → p ∈ n.pages →
        u.page e.slot false p.1 b = some ⟨e.slot, false, p.1, b, p.2, true, s.nodeShape n p.1⟩) ∧
      (∃ y, u.slot e.slot = some y ∧ y.node = shared.getLast?.map Node.idx) ∧
      (∀ n ∈ chain, ∀ x ∈ u.kv.nodes, x.idx = n.idx → x.lastUse = s.time) ∧
      (∀ n, copied = some n → ∃ k : State, k.kv.pages = u.kv.pages ∧ u.kv = (k.copyBlock e.slot n shared.length).kv) := by
  obtain ⟨hmarksv, hmarktm, hmarkwt, hmarked⟩ := markUsed_frame s copied
  obtain ⟨r, hr, heq⟩ := takeMatch_reserved hcan
  obtain ⟨hpages, hnodes, ⟨y, hy, hnode⟩, hentry'⟩ := matchTaken_spec (shared := shared) (copied := copied) (matched := matched) hentry hslot
  obtain ⟨hnodes', hkeeps⟩ := reservePages_spec hr
  have hsv := reservePages_sv hr
  have hentry'' := (entryAt_of_steps (congrArg Serving.steps hsv) (congrArg Serving.queues hsv) tag i).trans hentry'
  obtain ⟨hdone, hfrom, hslots, ⟨x, hx⟩, hcopy⟩ := matchDone_spec (slot := e.slot) (shared := shared) (copied := copied) hentry''
  have hall : NodesFrom ((s.markUsed copied).takeNodes e.slot shared) (r.matchDone tag i e.slot shared copied) :=
    (hnodes.trans (.of_nodes fun x hx => hnodes' ▸ hx)).trans hfrom
  refine ⟨r.matchDone tag i e.slot shared copied, x, _, heq, hx, rfl, rfl, fun b n p hn hlayers hp => ?_, ⟨y, ?_, hnode⟩, fun n hn => ?_,
    fun n hn => ⟨r.matchReserved tag i copied, ?_, (hcopy n hn).1⟩⟩
  · have htaken := takeNodes_page (s := s.markUsed copied) (slot := e.slot) hn hlayers hp
    have hshape : (s.markUsed copied).nodeShape n p.1 = s.nodeShape n p.1 := by unfold State.nodeShape State.model; rw [hmarkwt]
    rw [hshape, ← page_of_pages hpages] at htaken
    exact (page_of_pages hdone _ _ _ _).trans (hkeeps _ _ _ _ _ htaken)
  · exact (slot_of_slots (hslots.trans (congrArg Serving.slots hsv)) _).trans hy
  · have hused := takeNodes_usedAt (s := s.markUsed copied) (slot := e.slot) (chain := shared) (i := n.idx)
      ((hchain n hn).symm.imp (fun h => by rw [time_of_tm hmarktm]; exact hmarked n h) fun h => ⟨n, h, rfl⟩)
    rw [time_of_tm hmarktm] at hused
    exact hused.through hall
  · exact (hcopy n hn).2.trans hdone.symm

end Taken

/-- The nodes of a chain but for its last, and its last. -/
theorem mem_chain_parts {chain : List Node} {whole : Bool} : ∀ n ∈ chain, n ∈ (if whole then chain.dropLast else chain) ∨
    (if whole then chain.getLast? else none) = some n := by
  intro n hn
  cases whole with
  | false => exact .inl hn
  | true =>
    have hne : chain ≠ [] := List.ne_nil_of_mem hn
    rw [← List.dropLast_append_getLast hne, List.mem_append, List.mem_singleton] at hn
    exact hn.imp id fun h => by rw [if_pos rfl, List.getLast?_eq_some_getLast hne, h]

theorem exec_prefixMatchDone {s : State} {tag i : Nat} {o : OpenStep} {e : LenEntry} {w : EntryWork} (hfirm : s.firmwareRuns = true)
    (hentry : s.entryAt tag i = some (o, e, w)) (hpending : w.matchPending = true) :
    exec (.prefixMatchDone tag i) s = .next ((s.matchEntry tag i).scheduleWakes s) := by
  change execPrefixMatchDone tag i s = _
  unfold execPrefixMatchDone
  rw [hentry]
  exact congrArg _ (if_pos (by rw [hpending, hfirm]; rfl))

end Sys2Proof.Machine
end

section
/-! PROOFS. O59, its fifth part: the commit of an entry (08 Table 8.3, 09 R288, R293-R295): its slot, its result, and its reserved frames. -/

set_option Elab.async false

namespace Sys2Proof.Machine

/-! ### What the commit of an entry leaves: queues, window, lease, and no frame newly reserved -/

/-- `t` follows `s` with the queues, the storm window and the lease as they were, and no frame reserved anew. -/
structure Tidies (s t : State) : Prop where
  queues : t.sv.queues = s.sv.queues
  storm : t.sv.storm = s.sv.storm
  lease : t.dp.lease = s.dp.lease
  reserved : ∀ f ∈ t.kv.frames, ∀ a b, f.owner = .reserved a b → ∃ g ∈ s.kv.frames, g.owner = .reserved a b

theorem Tidies.refl (s : State) : Tidies s s := ⟨rfl, rfl, rfl, fun f hf _ _ h => ⟨f, hf, h⟩⟩

theorem Tidies.trans {s t u : State} (h : Tidies s t) (g : Tidies t u) : Tidies s u where
  queues := g.queues.trans h.queues
  storm := g.storm.trans h.storm
  lease := g.lease.trans h.lease
  reserved f hf a b ho := by
    obtain ⟨f', hf', ho'⟩ := g.reserved f hf a b ho
    exact h.reserved f' hf' a b ho'

/-- A change of pages alone that only returns frames. -/
theorem Tidies.of_pages {s t : State} (h : Only 4096 s t) (hframes : t.kv.frames ⊆ s.kv.frames) : Tidies s t :=
  have hsv := h.sv rfl rfl
  ⟨by rw [hsv], by rw [hsv], by rw [h .dispatch rfl], fun f hf _ _ ho => ⟨f, hframes hf, ho⟩⟩

theorem modSlot_tidies (s : State) (n : Nat) (f : Slot → Slot) : Tidies s (s.modSlot n f) := ⟨rfl, rfl, rfl, fun f hf _ _ h => ⟨f, hf, h⟩⟩

theorem freeFramesWhere_tidies (s : State) (c : Frame → Bool) : Tidies s (s.freeFramesWhere c) :=
  .of_pages (State.freeFramesWhere_only (Only.refl s) (Needs.refl _)) (foldl_freeFrame_returns _ s).frames

theorem refNode_tidies (s : State) (i : Option Nat) (up : Bool) : Tidies s (s.refNode i up) :=
  .of_pages (State.refNode_only (Only.refl s) (Needs.refl _)) (refNode_returns s i up).frames

theorem evictNode_tidies (s : State) (n : Node) : Tidies s (s.evictNode n) :=
  .of_pages (State.evictNode_only (Only.refl s) (Needs.refl _)) (evictNode_returns s n).frames

theorem dropRef_tidies (s : State) (n : Nat) : Tidies s (s.dropRef n) := by
  unfold State.dropRef
  split
  · exact (refNode_tidies s _ false).trans (modSlot_tidies _ n _)
  · exact .refl s

theorem releaseSlotPages_tidies (s : State) (n : Nat) : Tidies s (s.releaseSlotPages n) :=
  have hclear : Tidies (s.freeFramesWhere fun f => f.owner == .priv n) ((s.freeFramesWhere fun f => f.owner == .priv n).clearPages fun p => p.slot == n) :=
    ⟨rfl, rfl, rfl, fun f hf _ _ h => ⟨f, hf, h⟩⟩
  ((freeFramesWhere_tidies s _).trans hclear).trans (dropRef_tidies _ n)

theorem slotFree_tidies (s : State) (n : Nat) : Tidies s (s.slotFree n) := by
  obtain ⟨hqueues, hstorm, hlease, hreserved⟩ := releaseSlotPages_tidies s n
  exact ⟨hqueues, hstorm, hlease, hreserved⟩

theorem slotExpire_tidies (s : State) (n : Nat) : Tidies s (s.slotExpire n) := by
  obtain ⟨hqueues, hstorm, hlease, hreserved⟩ := releaseSlotPages_tidies s n
  exact ⟨hqueues, hstorm, hlease, hreserved⟩

theorem writeAsync_dp (s : State) (e : Async) : (s.writeAsync e).dp = s.dp := by
  obtain ⟨v, m, h, -⟩ := writeAsync_eq s e
  rw [h]

theorem sendEvent_lease (s : State) (e : Async) : (s.sendEvent e).dp.lease = s.dp.lease := by
  unfold State.sendEvent
  split <;> rfl

theorem async_lease (s : State) (c : Nat) (d : Bytes) : (s.async c d).dp.lease = s.dp.lease := by
  unfold State.async
  split
  · dsimp only
    unfold State.deliverAsync
    split
    · rw [writeAsync_dp]
    · rw [sendEvent_lease, writeAsync_dp]
  · rfl

theorem async_tidies (s : State) (c : Nat) (d : Bytes) : Tidies s (s.async c d) where
  queues := by obtain ⟨v, m, p, h, -⟩ := async_eq s c d; rw [h]
  storm := (async_storm s c d).2.2
  lease := async_lease s c d
  reserved f hf _ _ h := ⟨f, by rw [async_kv] at hf; exact hf, h⟩

theorem releaseEarly_tidies (s : State) (n : Nat) : Tidies s (s.releaseEarly n) := (slotExpire_tidies s n).trans (async_tidies _ _ _)

/-! ### The tier (09 R298, R301) -/

/-- A page put out at a place of level 2 sends frames and nothing else. -/
theorem putPage_frame (s : State) (off : Nat) (p : HeldPage) : (s.putPage off p).1.sv = s.sv ∧ (s.putPage off p).1.kv = s.kv ∧
    (s.putPage off p).1.dp.lease = s.dp.lease := by
  have hput (x : State) (o : Nat) (b : Bytes) : (x.l2put o b).dp.lease = x.dp.lease := by
    unfold State.l2put
    split <;> rfl
  exact ⟨(State.putPage_only (K := 512) (Only.refl s) (Needs.refl _)).sv rfl rfl, putPage_kv s off p,
    foldl_keep (fun x => x.dp.lease) _ _ _ fun _ _ => hput ..⟩

/-- Pages of an entry put out at their places, one by one; the pages as they then stand. -/
def putPages (l : List (HeldPage × Nat)) (acc : State × List HeldPage) : State × List HeldPage :=
  l.foldl (fun acc e => ((acc.1.putPage e.2 e.1).1, acc.2 ++ [(acc.1.putPage e.2 e.1).2])) acc

theorem putPages_frame (l : List (HeldPage × Nat)) (acc : State × List HeldPage) :
    (putPages l acc).1.dp.lease = acc.1.dp.lease ∧ (putPages l acc).1.kv = acc.1.kv := by
  induction l generalizing acc with
  | nil => exact ⟨rfl, rfl⟩
  | cons e l ih =>
    obtain ⟨-, hkv, hlease⟩ := putPage_frame acc.1 e.2 e.1
    obtain ⟨hlease', hkv'⟩ := ih ((acc.1.putPage e.2 e.1).1, acc.2 ++ [(acc.1.putPage e.2 e.1).2])
    exact ⟨hlease'.trans hlease, hkv'.trans hkv⟩

theorem toLevel2_tidies (s : State) (n : Nat) (offs : List Nat) : Tidies s (s.toLevel2 n offs) := by
  have hsv := toLevel2_sv s n offs
  cases hheld : s.heldOf n with
  | none => unfold State.toLevel2; rw [hheld]; exact .refl s
  | some h =>
    obtain ⟨hlease, hkv⟩ := putPages_frame ((h.pages.filter fun p => p.off.isNone).zip offs) (s, h.pages.filter fun p => p.off.isSome)
    have hframes : (s.toLevel2 n offs).kv.frames = s.kv.frames ∧ (s.toLevel2 n offs).dp.lease = s.dp.lease := by
      unfold State.toLevel2
      rw [hheld]
      have hframes := congrArg Kv.frames hkv
      exact ⟨hframes, hlease⟩
    exact ⟨by rw [hsv], by rw [hsv], hframes.2, fun f hf _ _ ho => ⟨f, by rw [← hframes.1]; exact hf, ho⟩⟩

theorem level1Room_tidies (n but need : Nat) (s : State) : Tidies s (State.level1Room n but need s) := by
  induction n generalizing s with
  | zero => exact .refl s
  | succ n ih =>
    unfold State.level1Room
    split
    · exact .refl s
    · split
      · exact .refl s
      · rename_i h _
        dsimp only
        split
        · exact (toLevel2_tidies s h.slot _).trans (ih _)
        · exact (releaseEarly_tidies s h.slot).trans (ih _)

theorem enterTier_tidies (s : State) (n ttl : Nat) : Tidies s (s.enterTier n ttl) := by
  cases hslot : s.slot n with
  | none => unfold State.enterTier; rw [hslot]; exact .refl s
  | some x =>
    have hdrop : Tidies s (s.dropHeld n) := ⟨rfl, rfl, rfl, fun f hf _ _ h => ⟨f, hf, h⟩⟩
    have hroom : Tidies s (s.tierRoom n (s.tierEntry n x ttl)) := hdrop.trans (level1Room_tidies _ _ _ _)
    have htaken : Tidies s ((s.tierRoom n (s.tierEntry n x ttl)).takenIn n (s.tierEntry n x ttl)) :=
      hroom.trans ⟨rfl, rfl, rfl, fun f hf _ _ h => ⟨f, hf, h⟩⟩
    rw [enterTier_eq hslot]
    rcases tierPlaced_cases s n (s.tierEntry n x ttl) with he | ⟨offs, he⟩ | he
    · rw [he]; exact htaken
    · rw [he]; exact htaken.trans (toLevel2_tidies _ n offs)
    · rw [he]; exact htaken.trans (releaseEarly_tidies _ n)

/-! ### Frames settled and blocks inserted (09 R288, R293) -/

/-- The state with other frames. -/
def State.withFrames (s : State) (fs : List Frame) : State := { s with kv := { s.kv with frames := fs } }

theorem withFrames_tidies {s : State} {fs : List Frame} (h : ∀ f ∈ fs, ∀ a b, f.owner = .reserved a b → ∃ g ∈ s.kv.frames, g.owner = .reserved a b) :
    Tidies s (s.withFrames fs) := ⟨rfl, rfl, rfl, h⟩

theorem settleFrames_tidies (s : State) (tag n commit draft : Nat) : Tidies s (s.settleFrames tag n commit draft) := by
  unfold State.settleFrames
  extract_lets keep settled own
  have howner (f : Frame) : (settled f).owner = f.owner := by
    dsimp only [settled]
    split <;> rfl
  refine Tidies.trans (withFrames_tidies fun f hf a b ho => ?_) (freeFramesWhere_tidies (s.withFrames (s.kv.frames.map own)) _)
  obtain ⟨f', hf', rfl⟩ := List.mem_map.1 hf
  refine ⟨f', hf', ?_⟩
  dsimp only [own] at ho
  split at ho
  · cases ho
  · rw [← howner]; exact ho

/-- No frame of the entry stays reserved. -/
theorem settleFrames_frames (s : State) (tag n commit draft : Nat) : ∀ f ∈ (s.settleFrames tag n commit draft).kv.frames,
    f.owner ≠ .reserved tag n := by
  intro f hf
  unfold State.settleFrames at hf
  have h := freeFramesWhere_frames _ _ f hf
  simpa using h

theorem settleFrames_sv (s : State) (tag n commit draft : Nat) : (s.settleFrames tag n commit draft).sv = s.sv :=
  (State.settleFrames_only (K := 4096) (Only.refl s) (Needs.refl _)).sv rfl rfl

/-- A slot is found again with its commit pointer and its state. -/
def SlotStands (n : Nat) (s t : State) : Prop := ∀ y, s.slot n = some y → ∃ z, t.slot n = some z ∧ z.commit = y.commit ∧ z.state = y.state

theorem SlotStands.of_slots {n : Nat} {s t : State} (h : t.sv.slots = s.sv.slots) : SlotStands n s t :=
  fun y hy => ⟨y, (slot_of_slots h n).trans hy, rfl, rfl⟩

theorem SlotStands.trans {n : Nat} {s t u : State} (h : SlotStands n s t) (g : SlotStands n t u) : SlotStands n s u := fun y hy => by
  obtain ⟨z, hz, hcommit, hstate⟩ := h y hy
  obtain ⟨x, hx, hcommit', hstate'⟩ := g z hz
  exact ⟨x, hx, hcommit'.trans hcommit, hstate'.trans hstate⟩

theorem addNode_tidies (s : State) (slot b : Nat) (n : Node) : Tidies s (s.addNode slot b n) := by
  refine ⟨rfl, rfl, rfl, fun f hf a c ho => ?_⟩
  obtain ⟨f', hf', rfl⟩ := List.mem_map.1 hf
  refine ⟨f', hf', ?_⟩
  split at ho
  · cases ho
  · exact ho

theorem addNode_slotStands (s : State) (slot b k : Nat) (n : Node) : SlotStands k s (s.addNode slot b n) := by
  intro y hy
  refine ⟨if k = slot then { y with node := some n.idx } else y, ?_, by split <;> rfl, by split <;> rfl⟩
  refine (slot_modSlot _ slot k (f := fun y => { y with node := some n.idx })).trans ?_
  change Option.map _ (s.slot k) = _
  rw [hy, Option.map_some]

theorem nodePlace_spec {s t : State} (h : s.nodePlace = some t) : Tidies s t ∧ t.sv = s.sv := by
  unfold State.nodePlace at h
  split at h
  · cases h; exact ⟨.refl s, rfl⟩
  · split at h
    · cases h
      exact ⟨evictNode_tidies s _, (State.evictNode_only (K := 4096) (Only.refl s) (Needs.refl _)).sv rfl rfl⟩
    · cases h

theorem insertBlock_spec {s : State} {tenant b hash : Nat} {m : Model} {x : Slot} {parent : Option Nat} {r : Nat × Nat × State}
    (h : s.insertBlock tenant m x b hash parent = some r) (k : Nat) : Tidies s r.2.2 ∧ SlotStands k s r.2.2 := by
  unfold State.insertBlock at h
  dsimp only at h
  split at h
  · cases h
  · split at h
    · obtain ⟨n, -, rfl⟩ := Option.map_eq_some_iff.1 h
      exact ⟨.refl s, .of_slots rfl⟩
    · split at h
      · cases h
      · obtain ⟨s1, hs1, hplace⟩ := Option.bind_eq_some_iff.1 h
        obtain ⟨i, -, rfl⟩ := Option.map_eq_some_iff.1 hplace
        obtain ⟨htidies, hsv⟩ := nodePlace_spec hs1
        exact ⟨htidies.trans (addNode_tidies s1 x.id b _),
          (SlotStands.of_slots (congrArg Serving.slots hsv)).trans (addNode_slotStands s1 x.id b k _)⟩

theorem insertBlocks_spec (tenant : Nat) (m : Model) (slot k f b hash : Nat) (parent : Option Nat) (s : State) :
    Tidies s (State.insertBlocks tenant m slot f b hash parent s) ∧ SlotStands k s (State.insertBlocks tenant m slot f b hash parent s) := by
  induction f generalizing b hash parent s with
  | zero => exact ⟨.refl s, .of_slots rfl⟩
  | succ f ih =>
    unfold State.insertBlocks
    split
    · rename_i r hr
      obtain ⟨x, -, hx⟩ := Option.bind_eq_some_iff.1 hr
      obtain ⟨htidies, hstands⟩ := insertBlock_spec hx k
      obtain ⟨htidies', hstands'⟩ := ih (b + 1) r.2.1 (some r.1) r.2.2
      exact ⟨htidies.trans htidies', hstands.trans hstands'⟩
    · exact ⟨.refl s, .of_slots rfl⟩

theorem insertPrefix_spec (s : State) (tenant slot : Nat) (m : Model) (k : Nat) :
    Tidies s (s.insertPrefix tenant slot m) ∧ SlotStands k s (s.insertPrefix tenant slot m) := by
  unfold State.insertPrefix
  split
  · exact insertBlocks_spec tenant m slot k _ 0 _ none s
  · exact ⟨.refl s, .of_slots rfl⟩

/-! ### The commit of an entry -/

theorem leaveBusy_tidies (s : State) (e : LenEntry) : Tidies s (s.leaveBusy e) := by
  unfold State.leaveBusy
  split
  · exact enterTier_tidies s e.slot e.holdTtl
  · exact modSlot_tidies s e.slot _

/-- The slot that an entry leaves: OPEN, or in the tier, or EXPIRED for want of room there. -/
theorem leaveBusy_slot {s : State} {e : LenEntry} {x : Slot} (hx : s.slot e.slot = some x) : ∃ y, (s.leaveBusy e).slot e.slot = some y ∧
    y.commit = x.commit ∧ (e.hold = false → y.state = .opened) ∧ (e.hold = true → y.state = .held ∨ y.state = .expired) := by
  unfold State.leaveBusy
  cases hhold : e.hold with
  | true =>
    obtain ⟨y, hy, hcommit, hstate⟩ := enterTier_spec hx e.holdTtl
    exact ⟨y, hy, hcommit, nofun, fun _ => hstate.imp And.left And.left⟩
  | false =>
    refine ⟨{ x with state := .opened }, ?_, rfl, fun _ => rfl, nofun⟩
    refine (slot_modSlot s e.slot e.slot (f := fun x => { x with state := .opened })).trans ?_
    rw [hx, Option.map_some, if_pos rfl]

/-- How an entry ends: as a tree, or plainly. -/
def State.entryEnd (s : State) (o : OpenStep) (c : Context) (i : Nat) (e : LenEntry) (x : Slot) (m : Model) : EntryEnd :=
  if e.kind = 2 ∨ e.kind = 3 then treeEnd c o i e x s.dp.rejectThreshold else plainEnd c o i e x (o.cmd.lastLayer + 1 == m.layers.length)

theorem entryEnd_commit (s : State) (o : OpenStep) (c : Context) (i : Nat) (e : LenEntry) (x : Slot) (m : Model) : (s.entryEnd o c i e x m).commit =
    if e.kind = 2 ∨ e.kind = 3 then e.position + ((acceptedPath c o i e).1.length - 1) + 1 else e.position + (entryTokens o.cmd i).length := by
  unfold State.entryEnd
  split
  · rfl
  · exact congrArg (e.position + ·) (List.length_map _)

/-- A slot with the pointers and tokens that an entry leaves it, committed at a time. -/
def Slot.settled (d : EntryEnd) (now : Nat) (y : Slot) : Slot :=
  { y with commit := d.commit, draftCommit := d.draftCommit, lag := d.lag, tokens := y.tokens ++ d.tokens, rejects := d.rejects,
           lowered := d.lowered, lastCommit := now }

/-- The state in which an entry's slot has its pointers and its frames are settled. -/
def State.entryPointed (s : State) (o : OpenStep) (e : LenEntry) (d : EntryEnd) : State :=
  (s.modSlot e.slot (Slot.settled d s.time)).settleFrames o.tag e.slot d.commit d.draftCommit

/-- The state in which an entry's blocks are inserted too. -/
def State.entrySettled (s : State) (o : OpenStep) (c : Context) (e : LenEntry) (m : Model) (d : EntryEnd) : State :=
  if e.pfx then (s.entryPointed o e d).insertPrefix c.tenant e.slot m else s.entryPointed o e d

theorem entrySettled_tidies (s : State) (o : OpenStep) (c : Context) (e : LenEntry) (m : Model) (d : EntryEnd) : Tidies s (s.entrySettled o c e m d) := by
  have hpointed : Tidies s (s.entryPointed o e d) := (modSlot_tidies s e.slot _).trans (settleFrames_tidies _ o.tag e.slot d.commit d.draftCommit)
  unfold State.entrySettled
  split
  · exact hpointed.trans (insertPrefix_spec _ c.tenant e.slot m 0).1
  · exact hpointed

theorem entryPointed_slot {s : State} {e : LenEntry} {x : Slot} (hx : s.slot e.slot = some x) (o : OpenStep) (d : EntryEnd) :
    (s.entryPointed o e d).slot e.slot = some (x.settled d s.time) := by
  have hmod := slot_modSlot s e.slot e.slot (f := Slot.settled d s.time)
  rw [hx, Option.map_some, if_pos rfl] at hmod
  exact (slot_of_slots (congrArg Serving.slots (settleFrames_sv _ _ _ _ _)) _).trans hmod

theorem entrySettled_slot {s : State} {e : LenEntry} {x : Slot} (hx : s.slot e.slot = some x) (o : OpenStep) (c : Context) (m : Model) (d : EntryEnd) :
    ∃ y, (s.entrySettled o c e m d).slot e.slot = some y ∧ y.commit = d.commit := by
  have hy := entryPointed_slot hx o d
  unfold State.entrySettled
  split
  · obtain ⟨z, hz, hcommit, -⟩ := (insertPrefix_spec (s.entryPointed o e d) c.tenant e.slot m e.slot).2 _ hy
    exact ⟨z, hz, hcommit⟩
  · exact ⟨_, hy, rfl⟩

theorem entrySettled_frames (s : State) (o : OpenStep) (c : Context) (e : LenEntry) (m : Model) (d : EntryEnd) :
    ∀ f ∈ (s.entrySettled o c e m d).kv.frames, f.owner ≠ .reserved o.tag e.slot := by
  unfold State.entrySettled
  split
  · intro f hf ho
    obtain ⟨g, hg, ho'⟩ := (insertPrefix_spec _ c.tenant e.slot m 0).1.reserved f hf _ _ ho
    exact settleFrames_frames _ _ _ _ _ g hg ho'
  · exact settleFrames_frames _ _ _ _ _

section CommitEntry

variable {s : State} {o : OpenStep} {c : Context} {i : Nat} {e : LenEntry} {w : EntryWork}

theorem commitEntry_ended {st : Nat} (h : w.status = some st) :
    s.commitEntry o c i e w = (s, { s.plainResult e st w.cause with commit := w.endCommit }) := by
  unfold State.commitEntry
  rw [h]

theorem commitEntry_ends (h : w.status = none) (hkind : e.kind = 4) :
    s.commitEntry o c i e w = (s.slotFree e.slot, (s.slotFree e.slot).plainResult e 0 0) := by
  unfold State.commitEntry
  rw [h]
  exact if_pos hkind

/-- An entry that commits: its state, and the parts of its result. -/
theorem commitEntry_commits {x : Slot} {m : Model} (h : w.status = none) (hkind : e.kind ≠ 4) (hx : s.slot e.slot = some x)
    (hm : s.model o.model = some m) : let d := s.entryEnd o c i e x m
    let r := s.commitEntry o c i e w
    r.1 = (s.entrySettled o c e m d).leaveBusy e ∧ r.2.estatus = 0 ∧ r.2.commit = d.commit ∧ r.2.ntokens = r.2.tokens.length := by
  unfold State.commitEntry
  rw [h]
  dsimp only
  rw [if_neg hkind, hx, hm]
  exact ⟨rfl, rfl, rfl, rfl⟩

theorem commitEntry_nothing (h : w.status = none) (hkind : e.kind ≠ 4) (hnone : s.slot e.slot = none ∨ s.model o.model = none) :
    (s.commitEntry o c i e w).1 = s := by
  unfold State.commitEntry
  rw [h]
  dsimp only
  rw [if_neg hkind]
  split
  · rename_i hx hm
    rcases hnone with hn | hn
    · rw [hn] at hx; cases hx
    · rw [hn] at hm; cases hm
  · rfl

theorem commitEntry_tidies : Tidies s (s.commitEntry o c i e w).1 := by
  cases h : w.status with
  | some st => rw [commitEntry_ended h]; exact .refl s
  | none =>
    by_cases hkind : e.kind = 4
    · rw [commitEntry_ends h hkind]; exact slotFree_tidies s e.slot
    · cases hx : s.slot e.slot with
      | none => rw [commitEntry_nothing h hkind (.inl hx)]; exact .refl s
      | some x =>
        cases hm : s.model o.model with
        | none => rw [commitEntry_nothing h hkind (.inr hm)]; exact .refl s
        | some m =>
          rw [(commitEntry_commits h hkind hx hm).1]
          exact (entrySettled_tidies s o c e m _).trans (leaveBusy_tidies _ e)

theorem slot_slotFree (s : State) (n : Nat) : (s.slotFree n).slot n = none := by
  refine List.find?_eq_none.2 fun x hx => ?_
  simpa using (List.mem_filter.1 hx).2

/-- An entry that commits leaves its slot at its new commit pointer, OPEN or in the tier, and no frame reserved. -/
theorem commitEntry_slot {x : Slot} {m : Model} (h : w.status = none) (hkind : e.kind ≠ 4) (hx : s.slot e.slot = some x)
    (hm : s.model o.model = some m) : ∃ y, (s.commitEntry o c i e w).1.slot e.slot = some y ∧ y.commit = (s.entryEnd o c i e x m).commit ∧
    (e.hold = false → y.state = .opened) ∧ (e.hold = true → y.state = .held ∨ y.state = .expired) ∧
    ∀ f ∈ (s.commitEntry o c i e w).1.kv.frames, f.owner ≠ .reserved o.tag e.slot := by
  obtain ⟨z, hz, hcommit⟩ := entrySettled_slot hx o c m (s.entryEnd o c i e x m)
  obtain ⟨y, hy, hcommit', hopen, hheld⟩ := leaveBusy_slot hz
  rw [(commitEntry_commits h hkind hx hm).1]
  refine ⟨y, hy, hcommit'.trans hcommit, hopen, hheld, fun f hf ho => ?_⟩
  obtain ⟨g, hg, ho'⟩ := (leaveBusy_tidies _ e).reserved f hf _ _ ho
  exact entrySettled_frames s o c e m _ g hg ho'

end CommitEntry

end Sys2Proof.Machine
end

section
/-! PROOFS. O59, its sixth part: what leaves the storm window and the committed job steps as they are (04 R132, 10 R328): the delivery of
completions, the end of steps and entries, and the entries that try again. As in the files of frames, one lemma for each operation. -/

set_option Elab.async false
set_option linter.unusedTactic false
set_option linter.unreachableTactic false
set_option linter.unusedVariables false

namespace Sys2Proof.Machine

/-- `t` follows `s` with the storm window and the committed job steps as they were. -/
structure Calm (s t : State) : Prop where
  storm : t.sv.storm = s.sv.storm
  committed : t.fb.committed = s.fb.committed

theorem Calm.refl (s : State) : Calm s s := ⟨rfl, rfl⟩

theorem Calm.same {s0 s t : State} (h : Calm s0 s) (hstorm : t.sv.storm = s.sv.storm) (hcommitted : t.fb.committed = s.fb.committed) : Calm s0 t :=
  ⟨hstorm.trans h.storm, hcommitted.trans h.committed⟩

theorem Calm.ifs {s a b : State} {c : Prop} {d : Decidable c} (ha : c → Calm s a) (hb : ¬ c → Calm s b) : Calm s (@ite State c d a b) := by
  by_cases h : c
  · rw [if_pos h]; exact ha h
  · rw [if_neg h]; exact hb h

theorem Calm.cond {s a b : State} {c : Prop} {d : Decidable c} (ha : Calm s a) (hb : Calm s b) : Calm s (@ite State c d a b) :=
  Calm.ifs (fun _ => ha) fun _ => hb

theorem Calm.foldl {α : Type} {s t : State} {f : State → α → State} {l : List α} (h : Calm s t) (hf : ∀ x a, Calm s x → Calm s (f x a)) :
    Calm s (l.foldl f t) := by
  induction l generalizing t with
  | nil => exact h
  | cons a l ih => exact ih (hf t a h)

theorem foldl_option_calm {α : Type} {s0 : State} {s : Option State} {f : Option State → α → Option State} {l : List α}
    (h : ∀ t, s = some t → Calm s0 t) (hf : ∀ x i, (∀ t, x = some t → Calm s0 t) → ∀ t, f x i = some t → Calm s0 t) :
    ∀ t, l.foldl f s = some t → Calm s0 t := by
  induction l generalizing s with
  | nil => exact h
  | cons i l ih => exact ih (hf s i h)

/-- What leaves the serving part, window memory and the fabric as they are. -/
theorem Calm.pass {K : Nat} {s0 s t : State} (h : Calm s0 s) (honly : Only K s t) (hs : K.testBit 10 = false) (hm : K.testBit 11 = false)
    (hf : K.testBit 17 = false) : Calm s0 t :=
  h.same (by rw [honly.sv hs hm]) (by rw [honly .fabric hf])

/-- What tidies slots and pages and leaves the fabric as it is. -/
theorem Calm.tidy {K : Nat} {s0 s t : State} (h : Calm s0 s) (htidies : Tidies s t) (honly : Only K s t) (hf : K.testBit 17 = false) : Calm s0 t :=
  h.same htidies.storm (by rw [honly .fabric hf])

theorem Calm.mk' {s0 s : State} {tm : Clocks} {pw : Power} {th : Thermal} {bt : Boot} {ev : Events} {rg : Regs} {adcs : List Adc}
    {tp : Tap} {i3 : I3c} {dp : Dispatch} {sv : Serving} {kv : Kv} {wt : Weights} {tl : Tiles} {rd : Reductions} {cl : Calib}
    {fb : Fabric} {draw : Nat} (h : Calm s0 s) (hstorm : sv.storm = s.sv.storm) (hcommitted : fb.committed = s.fb.committed) :
    Calm s0 ⟨tm, pw, th, bt, ev, rg, adcs, tp, i3, dp, sv, kv, wt, tl, rd, cl, fb, draw, s.pending⟩ := h.same hstorm hcommitted

theorem State.closeStep_calm {s0 s : State} {qn : Nat} {seq : Nat} (hk : Calm s0 s) : Calm s0 (State.closeStep s qn seq) :=
  hk.same rfl rfl

theorem State.modQueue_calm {s0 s : State} {n : Nat} {f : Queue → Queue} (hk : Calm s0 s) : Calm s0 (State.modQueue s n f) :=
  hk.same rfl rfl

theorem State.takeEnded_calm {s0 s : State} {qn : Nat} {c : Completion} (hk : Calm s0 s) : Calm s0 (State.takeEnded s qn c) :=
  State.modQueue_calm hk

theorem State.writeMem_calm {s0 s : State} {a : Nat} {b : Bytes} (hk : Calm s0 s) : Calm s0 (s.writeMem a b) :=
  hk.same rfl rfl

theorem State.writeCompletion_calm {s0 s : State} {qn : Nat} {c : Completion} (hk : Calm s0 s) : Calm s0 (State.writeCompletion s qn c).1 := by
  unfold State.writeCompletion
  with_reducible repeat' first
    | assumption | apply State.writeMem_calm | apply State.modQueue_calm | apply Calm.cond | split | (dsimp only; split)

theorem State.retain_calm {s0 s : State} {q : Queue} {c : Completion} (hk : Calm s0 s) : Calm s0 (State.retain s q c) := by
  unfold State.retain
  refine Calm.ifs (fun _ => Calm.mk' ?_ rfl rfl) fun _ => State.modQueue_calm ?_
  all_goals
    split
    · exact State.writeCompletion_calm hk
    · exact State.takeEnded_calm hk

theorem State.flushQueue_calm {s0 s : State} {f qn : Nat} (hk : Calm s0 s) : Calm s0 (State.flushQueue f qn s).1 := by
  induction f generalizing s with
  | zero => exact hk
  | succ f ih =>
    unfold State.flushQueue
    split
    · exact hk
    · split
      · exact hk
      · split
        · exact ih (State.closeStep_calm (State.takeEnded_calm hk))
        · split
          · exact ih (State.closeStep_calm (State.retain_calm hk))
          · split
            · exact ih (State.closeStep_calm (State.writeCompletion_calm hk))
            · exact hk

theorem State.sendCompletions_calm {s0 s : State} {qn : Nat} {items : List Bytes} (hk : Calm s0 s) : Calm s0 (State.sendCompletions s qn items) :=
  hk.pass (State.sendCompletions_only (K := 512) (Only.refl _) (Needs.refl _)) rfl rfl rfl

theorem State.deliver_calm {s0 s : State} {qn : Nat} (hk : Calm s0 s) : Calm s0 (State.deliver s qn) := by
  unfold State.deliver
  with_reducible repeat' first
    | assumption | apply State.flushQueue_calm | apply State.sendCompletions_calm | split | (dsimp only; split)

theorem State.sweepQueues_calm {s0 s : State} (hk : Calm s0 s) : Calm s0 (State.sweepQueues s) :=
  hk.same rfl rfl

theorem State.modSlot_calm {s0 s : State} {n : Nat} {f : Slot → Slot} (hk : Calm s0 s) : Calm s0 (State.modSlot s n f) :=
  hk.tidy (modSlot_tidies ..) (State.modSlot_only (K := 1024) (Only.refl _) (Needs.refl _)) rfl

theorem State.refNode_calm {s0 s : State} {i : Option Nat} {up : Bool} (hk : Calm s0 s) : Calm s0 (State.refNode s i up) :=
  hk.pass (State.refNode_only (K := 4096) (Only.refl _) (Needs.refl _)) rfl rfl rfl

theorem State.clearPages_calm {s0 s : State} {f : PageEntry → Bool} (hk : Calm s0 s) : Calm s0 (State.clearPages s f) :=
  hk.pass (State.clearPages_only (K := 4096) (Only.refl _) (Needs.refl _)) rfl rfl rfl

theorem State.slotFree_calm {s0 s : State} {slot : Nat} (hk : Calm s0 s) : Calm s0 (State.slotFree s slot) :=
  hk.tidy (slotFree_tidies ..) (State.slotFree_only (K := 5120) (Only.refl _) (Needs.refl _)) rfl

theorem State.dropContext_calm {s0 s : State} {n : Nat} (hk : Calm s0 s) : Calm s0 (State.dropContext s n) := by
  unfold State.dropContext
  with_reducible repeat' first
    | assumption | apply State.slotFree_calm | refine Calm.foldl ?_ fun _ _ _ => ?_ | fail_if_no_progress refine Calm.mk' ?_ rfl rfl

theorem State.releaseModel_calm {s0 s : State} {n : Nat} (hk : Calm s0 s) : Calm s0 (State.releaseModel s n) :=
  hk.pass (State.releaseModel_only (K := 28672) (Only.refl _) (Needs.refl _)) rfl rfl rfl

theorem State.sweep_calm {s0 s : State} (hk : Calm s0 s) : Calm s0 (State.sweep s) := by
  unfold State.sweep
  with_reducible repeat' first
    | assumption | apply State.sweepQueues_calm | apply State.dropContext_calm | apply State.releaseModel_calm
    | refine Calm.foldl ?_ fun _ _ _ => ?_ | fail_if_no_progress refine Calm.mk' ?_ rfl rfl

theorem State.modStep_calm {s0 s : State} {tag : Nat} {f : OpenStep → OpenStep} (hk : Calm s0 s) : Calm s0 (State.modStep s tag f) :=
  hk.same rfl rfl

theorem State.modEntry_calm {s0 s : State} {tag : Nat} {i : Nat} {f : EntryWork → EntryWork} (hk : Calm s0 s) :
    Calm s0 (State.modEntry s tag i f) :=
  State.modStep_calm hk

theorem State.setPage_calm {s0 s : State} {p : PageEntry} (hk : Calm s0 s) : Calm s0 (State.setPage s p) :=
  hk.pass (State.setPage_only (K := 4096) (Only.refl _) (Needs.refl _)) rfl rfl rfl

theorem State.modNode_calm {s0 s : State} {i : Nat} {f : Node → Node} (hk : Calm s0 s) : Calm s0 (State.modNode s i f) :=
  hk.pass (State.modNode_only (K := 4096) (Only.refl _) (Needs.refl _)) rfl rfl rfl

theorem State.takeChain_calm {s0 s : State} {slot : Nat} {chain : List Node} (hk : Calm s0 s) : Calm s0 (State.takeChain s slot chain) := by
  unfold State.takeChain
  with_reducible repeat' first
    | assumption | apply State.setPage_calm | apply State.modNode_calm | apply State.modSlot_calm | apply State.refNode_calm
    | refine Calm.foldl ?_ fun _ _ _ => ?_ | split | (dsimp only; split) | fail_if_no_progress refine Calm.mk' ?_ rfl rfl

theorem State.evictWhile_calm {s0 s : State} {ok : State → Bool} {f : Nat} (hk : Calm s0 s) :
    Calm s0 (State.evictWhile ok f s) :=
  hk.pass (State.evictWhile_only (K := 4096) (Only.refl _) (Needs.refl _)) rfl rfl rfl

theorem State.slotExpire_calm {s0 s : State} {slot : Nat} (hk : Calm s0 s) : Calm s0 (State.slotExpire s slot) :=
  hk.tidy (slotExpire_tidies ..) (State.slotExpire_only (K := 5120) (Only.refl _) (Needs.refl _)) rfl

theorem State.modHeld_calm {s0 s : State} {slot : Nat} {f : Held → Held} (hk : Calm s0 s) : Calm s0 (State.modHeld s slot f) :=
  hk.pass (State.modHeld_only (K := 4096) (Only.refl _) (Needs.refl _)) rfl rfl rfl

theorem State.async_calm {s0 s : State} {code : Nat} {detail : Bytes} (hk : Calm s0 s) : Calm s0 (State.async s code detail) :=
  hk.tidy (async_tidies ..) (State.async_only (K := 3600) (Only.refl _) (Needs.refl _)) rfl

theorem State.releaseEarly_calm {s0 s : State} {slot : Nat} (hk : Calm s0 s) : Calm s0 (State.releaseEarly s slot) :=
  hk.tidy (releaseEarly_tidies ..) (State.releaseEarly_only (K := 7696) (Only.refl _) (Needs.refl _)) rfl

theorem State.writePage_calm {s0 s : State} {h : Held} {p : PageEntry} {last : Bool} (hk : Calm s0 s) : Calm s0 (State.writePage s h p last) :=
  hk.pass (State.writePage_only (K := 4608) (Only.refl _) (Needs.refl _)) rfl rfl rfl

theorem State.moveOnePage_calm {s0 s : State} {slot : Nat} (hk : Calm s0 s) : Calm s0 (State.moveOnePage s slot) := by
  unfold State.moveOnePage
  with_reducible repeat' first
    | assumption | apply State.modHeld_calm | apply State.releaseEarly_calm | apply State.writePage_calm | apply Calm.cond | split
    | (dsimp only; split) | fail_if_no_progress refine Calm.mk' ?_ rfl rfl

theorem State.finishMove_calm {s0 s : State} {slot : Nat} (hk : Calm s0 s) : Calm s0 (State.finishMove s slot) := by
  unfold State.finishMove
  with_reducible repeat' first
    | assumption | apply State.moveOnePage_calm | apply Calm.cond | refine Calm.foldl ?_ fun _ _ _ => ?_ | split | (dsimp only; split)

theorem State.expireHeld_calm {s0 s : State} {slot : Nat} (hk : Calm s0 s) : Calm s0 (State.expireHeld s slot) := by
  unfold State.expireHeld
  with_reducible repeat' first
    | assumption | apply State.slotExpire_calm | apply State.finishMove_calm | split | (dsimp only; split)

theorem State.expireAllHeld_calm {s0 s : State} (hk : Calm s0 s) : Calm s0 (State.expireAllHeld s) := by
  unfold State.expireAllHeld
  with_reducible repeat' first
    | assumption | apply State.expireHeld_calm | refine Calm.foldl ?_ fun _ _ _ => ?_

theorem State.enterTier_calm {s0 s : State} {slot : Nat} {ttl : Nat} (hk : Calm s0 s) : Calm s0 (State.enterTier s slot ttl) :=
  hk.tidy (enterTier_tidies ..) (State.enterTier_only (K := 7696) (Only.refl _) (Needs.refl _)) rfl

theorem State.tierIdle_calm {s0 s : State} {x : Slot} {ttl : Nat} (hk : Calm s0 s) : Calm s0 (State.tierIdle s x ttl) :=
  State.async_calm (State.enterTier_calm hk)

theorem State.moveIdle_calm {s0 s : State} {ok : State → Bool} {f : Nat} (hk : Calm s0 s) :
    Calm s0 (State.moveIdle ok f s).1 := by
  induction f generalizing s with
  | zero => exact hk
  | succ f ih =>
    unfold State.moveIdle
    split
    · exact hk
    · split
      · exact hk
      · split
        · exact ih (State.tierIdle_calm hk)
        · exact hk

theorem State.makeRoom_calm {s0 s : State} {ok : State → Bool} (hk : Calm s0 s) : Calm s0 (State.makeRoom s ok).1 := by
  unfold State.makeRoom
  with_reducible repeat' first
    | assumption | apply State.evictWhile_calm | apply State.expireAllHeld_calm | apply State.moveIdle_calm | apply Calm.cond | split
    | (dsimp only; split)

theorem State.reservePages_calm {s0 s : State} {tag slot : Nat} {ps : List PageNeed} (hk : Calm s0 s) {t : State}
    (e : s.reservePages tag slot ps = some t) : Calm s0 t :=
  hk.pass (State.reservePages_only (K := 4096) (Only.refl _) e (Needs.refl _)) rfl rfl rfl

theorem State.raise_calm {s0 s : State} {code source : Nat} {detail : List Nat} (hk : Calm s0 s) : Calm s0 (s.raise code source detail) :=
  hk.pass (State.raise_only (K := 16) (Only.refl _) (Needs.refl _)) rfl rfl rfl

theorem State.releaseReserved_calm {s0 s : State} {tag : Nat} {slot : Nat} (hk : Calm s0 s) : Calm s0 (State.releaseReserved s tag slot) :=
  hk.pass (State.releaseReserved_only (K := 4096) (Only.refl _) (Needs.refl _)) rfl rfl rfl

theorem State.undoMatch_calm {s0 s : State} {o : OpenStep} {i : Nat} {slot : Nat} (hk : Calm s0 s) : Calm s0 (State.undoMatch s o i slot) := by
  unfold State.undoMatch
  with_reducible repeat' first
    | assumption | apply State.clearPages_calm | apply State.modSlot_calm | apply State.refNode_calm | apply Calm.cond | split
    | (dsimp only; split)

theorem State.dropTokens_calm {s0 s : State} {o : OpenStep} {gone : Nat → Bool} (hk : Calm s0 s) : Calm s0 (State.dropTokens s o gone) :=
  hk.same rfl rfl

theorem State.selectLast_calm {s0 s : State} {tag : Nat} (hk : Calm s0 s) : Calm s0 (State.selectLast s tag) :=
  hk.pass (State.selectLast_only (K := 16384) (Only.refl _) (Needs.refl _)) rfl rfl rfl

theorem State.closeEntry_calm {s0 s : State} {tag : Nat} {i : Nat} {status : Nat} {cause : Nat} (hk : Calm s0 s) :
    Calm s0 (State.closeEntry s tag i status cause) := by
  unfold State.closeEntry
  with_reducible repeat' first
    | assumption | apply State.releaseReserved_calm | apply State.undoMatch_calm | apply State.modEntry_calm | apply State.dropTokens_calm
    | apply State.modStep_calm | apply State.selectLast_calm | apply Calm.cond | split | (dsimp only; split)
    | fail_if_no_progress refine Calm.mk' ?_ rfl rfl

theorem State.endEntry_calm {s0 s : State} {tag : Nat} {i : Nat} {status : Nat} {cause : Nat} (hk : Calm s0 s) :
    Calm s0 (State.endEntry s tag i status cause) := by
  unfold State.endEntry
  with_reducible repeat' first
    | assumption | apply State.slotFree_calm | apply State.closeEntry_calm | apply State.modEntry_calm | split | (dsimp only; split)
    | fail_if_no_progress refine Calm.mk' ?_ rfl rfl

theorem State.exhaustEntry_calm {s0 s : State} {tag : Nat} {i : Nat} (hk : Calm s0 s) : Calm s0 (State.exhaustEntry s tag i) := by
  unfold State.exhaustEntry
  with_reducible repeat' first
    | assumption | apply State.raise_calm | apply State.endEntry_calm | split | (dsimp only; split)

theorem State.reserveFor_calm {s0 s : State} {tag : Nat} {i : Nat} {slot : Nat} {ps : List PageNeed} (hk : Calm s0 s) :
    Calm s0 (State.reserveFor s tag i slot ps).1 := by
  unfold State.reserveFor
  with_reducible repeat' first
    | assumption | apply State.makeRoom_calm | refine State.reservePages_calm ?_ (by assumption) | apply State.modEntry_calm
    | apply State.exhaustEntry_calm | split | (dsimp only; split)

theorem State.copyBlock_calm {s0 s : State} {slot : Nat} {n : Node} {b : Nat} (hk : Calm s0 s) : Calm s0 (State.copyBlock s slot n b) :=
  hk.pass (State.copyBlock_only (K := 4096) (Only.refl _) (Needs.refl _)) rfl rfl rfl

theorem State.dropLedger_calm {s0 s : State} {o : OpenStep} (hk : Calm s0 s) : Calm s0 (State.dropLedger s o) := by
  unfold State.dropLedger
  with_reducible repeat' first
    | assumption | apply Calm.cond | fail_if_no_progress refine Calm.mk' ?_ rfl rfl

theorem State.dropWork_calm {s0 s : State} {tag : Nat} (hk : Calm s0 s) : Calm s0 (State.dropWork s tag) :=
  hk.same rfl rfl

theorem State.undoStep_calm {s0 s : State} {o : OpenStep} (hk : Calm s0 s) : Calm s0 (State.undoStep s o) := by
  unfold State.undoStep
  with_reducible repeat' first
    | assumption | apply State.dropLedger_calm | apply State.dropWork_calm | apply State.releaseReserved_calm | apply State.undoMatch_calm
    | apply State.modSlot_calm | apply Calm.cond | refine Calm.foldl ?_ fun _ _ _ => ?_ | split | (dsimp only; split)

theorem State.putEnded_calm {s0 s : State} {qn : Nat} {c : Completion} (hk : Calm s0 s) : Calm s0 (State.putEnded s qn c) :=
  State.modQueue_calm hk

theorem State.failStep_calm {s0 s : State} {tag : Nat} {status : Nat} (hk : Calm s0 s) : Calm s0 (State.failStep s tag status) := by
  unfold State.failStep
  with_reducible repeat' first
    | assumption | apply State.undoStep_calm | apply State.sweep_calm | apply State.deliver_calm | apply State.putEnded_calm | split
    | (dsimp only; split)

theorem State.issueLine_calm {s0 s : State} {slotOf : Nat → Nat → Option InputSlot} {bs : List Blk} {ti : Nat} {l : Line} (hk : Calm s0 s) :
    Calm s0 (State.issueLine s slotOf bs ti l) :=
  hk.pass (State.issueLine_only (K := 49152) (Only.refl _) (Needs.refl _)) rfl rfl rfl

theorem State.fetchLists_calm {s0 s : State} {a : ArrId} (hk : Calm s0 s) : Calm s0 (State.fetchLists s a) :=
  hk.pass (State.fetchLists_only (K := 16384) (Only.refl _) (Needs.refl _)) rfl rfl rfl

theorem State.issueTensor_calm {s0 s : State} {o : OpenStep} {ti : Nat} {layer : Nat} {t : TensorRec} {model : Nat} {x : List Nat}
    (hk : Calm s0 s) : Calm s0 (State.issueTensor s o ti layer t model x) := by
  unfold State.issueTensor
  with_reducible repeat' first
    | assumption | apply State.issueLine_calm | apply State.fetchLists_calm | apply Calm.cond | refine Calm.foldl ?_ fun _ _ _ => ?_ | split
    | (dsimp only; split) | fail_if_no_progress refine Calm.mk' ?_ rfl rfl

theorem State.setLedger_calm {s0 s : State} {l : Ledger} (hk : Calm s0 s) : Calm s0 (State.setLedger s l) :=
  hk.pass (State.setLedger_only (K := 32768) (Only.refl _) (Needs.refl _)) rfl rfl rfl

theorem State.engineRan_calm {s0 s : State} {w : EngineWork} (hk : Calm s0 s) : Calm s0 (State.engineRan s w) := by
  unfold State.engineRan
  with_reducible repeat' first
    | assumption | fail_if_no_progress refine Calm.mk' ?_ rfl rfl

theorem State.putGroup_calm {s0 s : State} {slot : Nat} {draft : Bool} {layer : Nat} {pos : Nat} {g : KvGroup} (hk : Calm s0 s) :
    Calm s0 (State.putGroup s slot draft layer pos g) :=
  hk.pass (State.putGroup_only (K := 4096) (Only.refl _) (Needs.refl _)) rfl rfl rfl

theorem State.appendHead_calm {s0 s : State} {tag ti : Nat} {en : LenEntry} {w : EntryWork} {tok : TokenWork} {l : LayerRec}
    {isV : Bool} {head : Nat} {x : List Nat}
    (hk : Calm s0 s) {t : State} (e : s.appendHead tag ti en w tok l isV head x = some t) : Calm s0 t := by
  unfold State.appendHead at e
  generalize (if isV = true then x else _) = x1 at e
  dsimp only at e
  split at e
  · cases e; exact hk
  · split at e
    · cases e
    · obtain ⟨g, -, rfl⟩ := Option.map_eq_some_iff.1 e
      exact State.engineRan_calm (State.putGroup_calm hk)

theorem State.appendBlock_calm {s0 s : State} {tag ti : Nat} {en : LenEntry} {w : EntryWork} {tok : TokenWork} {l : LayerRec}
    {isV : Bool} {col : Nat} {v : List Nat}
    (hk : Calm s0 s) {t : State} (e : s.appendBlock tag ti en w tok l isV col v = some t) : Calm s0 t := by
  refine foldl_option_calm (s := some s) (fun t ht => by cases ht; exact hk) (fun acc i ha u hu => ?_) t e
  obtain ⟨st, h1, h2⟩ := Option.bind_eq_some_iff.1 hu
  exact State.appendHead_calm (ha st h1) h2

theorem State.modToken_calm {s0 s : State} {tag : Nat} {ti : Nat} {f : TokenWork → TokenWork} (hk : Calm s0 s) :
    Calm s0 (State.modToken s tag ti f) :=
  State.modStep_calm hk

theorem State.takeValues_calm {s0 s : State} {tag : Nat} {d : LineDest} {v : List Nat} (hk : Calm s0 s) : Calm s0 (State.takeValues s tag d v) := by
  unfold State.takeValues
  with_reducible repeat' first
    | assumption | refine State.appendBlock_calm ?_ (by assumption) | apply State.failStep_calm | apply State.modToken_calm | apply Calm.cond
    | split | (dsimp only; split) | fail_if_no_progress refine Calm.mk' ?_ rfl rfl

theorem State.takeLedgerLine_calm {s0 s : State} {tag : Nat} {x : Line} (hk : Calm s0 s) : Calm s0 (State.takeLedgerLine s tag x) := by
  unfold State.takeLedgerLine
  with_reducible repeat' first
    | assumption | apply State.failStep_calm | apply State.takeValues_calm | split | (dsimp only; split)

theorem State.takeLedger_calm {s0 s : State} {tag : Nat} {ti : Nat} (hk : Calm s0 s) : Calm s0 (State.takeLedger s tag ti) := by
  unfold State.takeLedger
  with_reducible repeat' first
    | assumption | apply State.setLedger_calm | apply State.takeLedgerLine_calm | apply Calm.cond | refine Calm.foldl ?_ fun _ _ _ => ?_ | split
    | (dsimp only; split) | fail_if_no_progress refine Calm.mk' ?_ rfl rfl

theorem State.startStage_calm {s0 s : State} {tag : Nat} {ti : Nat} (hk : Calm s0 s) : Calm s0 (State.startStage s tag ti) := by
  unfold State.startStage
  with_reducible repeat' first
    | assumption | apply State.failStep_calm | apply State.issueTensor_calm | apply State.takeLedger_calm | apply Calm.cond
    | refine Calm.foldl ?_ fun _ _ _ => ?_ | split | (dsimp only; split)

theorem State.setupLines_calm {s0 s : State} {tag : Nat} {ti : Nat} (hk : Calm s0 s) : Calm s0 (State.setupLines s tag ti) :=
  hk.pass (State.setupLines_only (K := 32768) (Only.refl _) (Needs.refl _)) rfl rfl rfl

theorem State.countCopies_calm {s0 s : State} {n : Nat} (hk : Calm s0 s) : Calm s0 (State.countCopies s n) :=
  hk.pass (State.countCopies_only (K := 8192) (Only.refl _) (Needs.refl _)) rfl rfl rfl

theorem State.gatherRan_calm {s0 s : State} {m : Model} {tag : Nat} {ti : Nat} {token : Nat} (hk : Calm s0 s) :
    Calm s0 (State.gatherRan s m tag ti token) := by
  unfold State.gatherRan
  with_reducible repeat' first
    | assumption | apply State.engineRan_calm | apply State.countCopies_calm | refine Calm.foldl ?_ fun _ _ _ => ?_ | split | (dsimp only; split)

theorem State.abortStep_calm {s0 s : State} {o : OpenStep} (hk : Calm s0 s) : Calm s0 (State.abortStep s o) := by
  unfold State.abortStep
  with_reducible repeat' first
    | assumption | apply State.dropLedger_calm | apply State.dropWork_calm | apply State.releaseReserved_calm | apply State.modStep_calm
    | refine Calm.foldl ?_ fun _ _ _ => ?_

theorem State.sendCourier_calm {s0 s : State} {c : CourierTx} (hk : Calm s0 s) : Calm s0 (State.sendCourier s c) :=
  hk.same rfl rfl

theorem State.countDrop_calm {s0 s : State} {f : Regs → Regs} (hk : Calm s0 s) : Calm s0 (s.countDrop f) :=
  hk.pass (State.countDrop_only (K := 32) (Only.refl _) (Needs.refl _)) rfl rfl rfl

theorem State.sendRouted_calm {s0 s : State} {h : CourierHdr} {payload : Bytes} (hk : Calm s0 s) : Calm s0 (s.sendRouted h payload) := by
  unfold State.sendRouted
  split
  · exact State.sendCourier_calm (Calm.ifs (fun _ => Calm.mk' hk rfl rfl) fun _ => hk)
  · exact State.countDrop_calm hk

theorem State.originate_calm {s0 s : State} {type : Nat} {dest : Nat} {job : Nat} {payload : Bytes} (hk : Calm s0 s) :
    Calm s0 (State.originate s type dest job payload) :=
  State.sendRouted_calm hk

theorem State.notifyJob_calm {s0 s : State} {job : Nat} {kind : Nat} {reason : Nat} {module : Nat} (hk : Calm s0 s) :
    Calm s0 (State.notifyJob s job kind reason module) := by
  unfold State.notifyJob
  with_reducible repeat' first
    | assumption | apply State.originate_calm | refine Calm.foldl ?_ fun _ _ _ => ?_

theorem State.reportAbort_calm {s0 s : State} {job : Nat} {reason : Nat} {module : Nat} (hk : Calm s0 s) :
    Calm s0 (State.reportAbort s job reason module) :=
  State.async_calm hk

theorem State.abortJob_calm {s0 s : State} {job : Nat} {reason : Nat} {module : Nat} (hk : Calm s0 s) :
    Calm s0 (State.abortJob s job reason module) := by
  unfold State.abortJob
  with_reducible repeat' first
    | assumption | apply State.abortStep_calm | apply State.notifyJob_calm | apply State.reportAbort_calm | apply Calm.cond
    | refine Calm.foldl ?_ fun _ _ _ => ?_ | split | (dsimp only; split) | fail_if_no_progress refine Calm.mk' ?_ rfl rfl

theorem State.sendOrAbort_calm {s0 s : State} {h : CourierHdr} {payload : Bytes} (hk : Calm s0 s) : Calm s0 (State.sendOrAbort s h payload) := by
  unfold State.sendOrAbort
  with_reducible repeat' first
    | assumption | apply State.abortJob_calm | apply State.sendRouted_calm | split | (dsimp only; split)

theorem State.sendForJob_calm {s0 s : State} {type : Nat} {dest : Nat} {job : Nat} {payload : Bytes} (hk : Calm s0 s) :
    Calm s0 (State.sendForJob s type dest job payload) :=
  State.sendOrAbort_calm hk

theorem State.sendActivation_calm {s0 s : State} {o : OpenStep} {tok : TokenWork} {vec : List Nat} (hk : Calm s0 s) :
    Calm s0 (State.sendActivation s o tok vec) := by
  unfold State.sendActivation
  with_reducible repeat' first
    | assumption | apply State.failStep_calm | apply State.sendForJob_calm | apply Calm.cond | refine Calm.foldl ?_ fun _ _ _ => ?_ | split
    | (dsimp only; split)

theorem State.vectorRan_calm {s0 s : State} {o : OpenStep} {tag : Nat} {ti : Nat} {tok : TokenWork} (hk : Calm s0 s) :
    Calm s0 (State.vectorRan s o tag ti tok) := by
  unfold State.vectorRan
  with_reducible repeat' first
    | assumption | apply State.engineRan_calm | split | (dsimp only; split)

theorem State.choiceRan_calm {s0 s : State} {tag : Nat} {ti : Nat} {l : LayerRec} {tok : TokenWork} (hk : Calm s0 s) :
    Calm s0 (State.choiceRan s tag ti l tok) := by
  unfold State.choiceRan
  with_reducible repeat' first
    | assumption | apply State.engineRan_calm | refine Calm.foldl ?_ fun _ _ _ => ?_

theorem State.advance_calm {s0 s : State} {f tag ti : Nat} (hk : Calm s0 s) : Calm s0 (State.advance f tag ti s) := by
  induction f generalizing s ti with
  | zero => exact hk
  | succ f ih =>
    unfold State.advance
    repeat' first
      | with_reducible assumption | with_reducible apply ih | with_reducible apply State.startStage_calm
      | with_reducible apply State.modToken_calm | with_reducible apply State.failStep_calm
      | with_reducible apply State.setupLines_calm | with_reducible apply State.gatherRan_calm
      | with_reducible apply State.modStep_calm | with_reducible apply State.sendActivation_calm
      | with_reducible apply State.selectLast_calm | with_reducible apply State.vectorRan_calm | with_reducible apply State.choiceRan_calm
      | with_reducible refine Calm.foldl ?_ fun _ _ _ => ?_
      | with_reducible apply Calm.cond
      | (try dsimp only); split

theorem State.advanceToken_calm {s0 s : State} {tag : Nat} {ti : Nat} (hk : Calm s0 s) : Calm s0 (State.advanceToken s tag ti) :=
  State.advance_calm hk

theorem State.addTokens_calm {s0 s : State} {tag : Nat} {new : List TokenWork} (hk : Calm s0 s) : Calm s0 (State.addTokens s tag new) := by
  unfold State.addTokens
  with_reducible repeat' first
    | assumption | apply State.modStep_calm | apply State.advanceToken_calm | apply State.setupLines_calm | refine Calm.foldl ?_ fun _ _ _ => ?_
    | split | (dsimp only; split) | fail_if_no_progress refine Calm.mk' ?_ rfl rfl

theorem State.startEntry_calm {s0 s : State} {tag : Nat} {i : Nat} (hk : Calm s0 s) : Calm s0 (State.startEntry s tag i) := by
  unfold State.startEntry
  with_reducible repeat' first
    | assumption | apply State.addTokens_calm | apply Calm.cond | split | (dsimp only; split)

theorem State.matchEntry_calm {s0 s : State} {tag : Nat} {i : Nat} (hk : Calm s0 s) : Calm s0 (State.matchEntry s tag i) := by
  unfold State.matchEntry
  with_reducible repeat' first
    | assumption | apply State.refNode_calm | apply State.modEntry_calm | apply State.takeChain_calm | apply State.reserveFor_calm
    | apply State.copyBlock_calm | apply State.startEntry_calm | apply State.modNode_calm | apply Calm.cond | split | (dsimp only; split)
    | fail_if_no_progress refine Calm.mk' ?_ rfl rfl

theorem State.beginEntry_calm {s0 s : State} {tag : Nat} {i : Nat} (hk : Calm s0 s) : Calm s0 (State.beginEntry s tag i) := by
  unfold State.beginEntry
  with_reducible repeat' first
    | assumption | apply State.reserveFor_calm | apply State.startEntry_calm | apply Calm.cond | split | (dsimp only; split)

theorem State.retryStalled_calm {s0 s : State} (hk : Calm s0 s) : Calm s0 (State.retryStalled s) := by
  unfold State.retryStalled
  with_reducible repeat' first
    | assumption | apply State.matchEntry_calm | apply State.beginEntry_calm | apply Calm.cond | refine Calm.foldl ?_ fun _ _ _ => ?_ | split
    | (dsimp only; split)

end Sys2Proof.Machine
end

section
/-! PROOFS. O59, its seventh part: the commit of a step (05 R159, 04 R131, R132, 08 R247). -/

set_option Elab.async false

namespace Sys2Proof.Machine

/-! ### The entries of a step that commits -/

/-- The entries of a step committed one after the other, with their results. -/
def State.commitEntries (s : State) (o : OpenStep) : State × List EntryResult :=
  ((List.range o.cmd.entries.length).zip (o.cmd.entries.zip o.entries)).foldl (fun (acc : State × List EntryResult) x =>
    let n := acc.1.commitEntry o o.attrs x.1 x.2.1 x.2.2
    (n.1, acc.2 ++ [n.2])) (s, [])

theorem commitEntries_spec (s : State) (o : OpenStep) : Tidies s (s.commitEntries o).1 ∧ Only 7696 s (s.commitEntries o).1 := by
  unfold State.commitEntries
  generalize (List.range o.cmd.entries.length).zip (o.cmd.entries.zip o.entries) = l
  refine foldl_inv (fun acc : State × List EntryResult => Tidies s acc.1 ∧ Only 7696 s acc.1) (fun acc x _ h => ?_) ⟨.refl s, Only.refl s⟩
  exact ⟨h.1.trans commitEntry_tidies, h.2.trans (State.commitEntry_only (Only.refl _) (Needs.refl _))⟩

/-! ### The storm window (04 R131, R132) -/

/-- A commit puts its step at the front of the ten-step window, and changes no more of slots, queues, clocks, lease and fabric. -/
theorem stormCommit_spec (s : State) (o : OpenStep) : let t := s.stormCommit o
    t.sv.storm = ((o.fires, o.equivs, o.perArray) :: s.sv.storm).take 10 ∧ t.sv.slots = s.sv.slots ∧ t.sv.queues = s.sv.queues ∧
    t.tm = s.tm ∧ t.pw = s.pw ∧ t.dp = s.dp ∧ t.fb = s.fb := by
  unfold State.stormCommit
  dsimp only
  split <;> exact ⟨rfl, rfl, rfl, rfl, rfl, rfl, rfl⟩

theorem dropLedger_frame (s : State) (o : OpenStep) : let t := s.dropLedger o
    t.sv = s.sv ∧ t.tm = s.tm ∧ t.pw = s.pw ∧ t.dp = s.dp ∧ t.fb.committed = s.fb.committed := by
  unfold State.dropLedger
  split <;> exact ⟨rfl, rfl, rfl, rfl, rfl⟩

/-! ### The step closed (05 R159) -/

/-- A state whose step has its work and its ledgers dropped. -/
def State.stepDropped (r : State) (o : OpenStep) : State :=
  ((r.stormCommit o).dropWork o.tag).dropLedger o

theorem dropWork_frame (r : State) (tag : Nat) : let t := r.dropWork tag
    t.sv.storm = r.sv.storm ∧ t.sv.slots = r.sv.slots ∧ t.sv.queues = r.sv.queues ∧ t.tm = r.tm ∧ t.pw = r.pw ∧ t.dp = r.dp ∧ t.fb = r.fb :=
  ⟨rfl, rfl, rfl, rfl, rfl, rfl, rfl⟩

theorem stepDropped_frame (r : State) (o : OpenStep) : let t := r.stepDropped o
    t.sv.storm = ((o.fires, o.equivs, o.perArray) :: r.sv.storm).take 10 ∧ t.sv.slots = r.sv.slots ∧ t.sv.queues = r.sv.queues ∧
    t.tm = r.tm ∧ t.pw = r.pw ∧ t.dp = r.dp ∧ t.fb.committed = r.fb.committed := by
  obtain ⟨hstorm, hslots, hqueues, htm, hpw, hdp, hfb⟩ := stormCommit_spec r o
  obtain ⟨hstorm', hslots', hqueues', htm', hpw', hdp', hfb'⟩ := dropWork_frame (r.stormCommit o) o.tag
  obtain ⟨hsv, htime, hpower, hlink, hjobs⟩ := dropLedger_frame ((r.stormCommit o).dropWork o.tag) o
  exact ⟨(congrArg (·.storm) hsv).trans (hstorm'.trans hstorm), (congrArg (·.slots) hsv).trans (hslots'.trans hslots),
    (congrArg (·.queues) hsv).trans (hqueues'.trans hqueues), htime.trans (htm'.trans htm), hpower.trans (hpw'.trans hpw),
    hlink.trans (hdp'.trans hdp), hjobs.trans (congrArg (·.committed) (hfb'.trans hfb))⟩

/-- The state after a job step is counted as committed, and the module as active now. -/
def State.stepCounted (t : State) (o : OpenStep) : State :=
  let u := if o.cmd.job = 0 then t else { t with fb := { t.fb with committed := t.fb.committed ++ [(o.cmd.job, o.cmd.stepNumber)] } }
  { u with pw := { u.pw with lastActivity := u.tm.tick } }

theorem stepCounted_frame (t : State) (o : OpenStep) : let u := t.stepCounted o
    u.sv = t.sv ∧ u.tm = t.tm ∧ u.pw = { t.pw with lastActivity := t.tm.tick } ∧ u.dp = t.dp ∧
    u.fb.committed = t.fb.committed ++ if o.cmd.job = 0 then [] else [(o.cmd.job, o.cmd.stepNumber)] := by
  unfold State.stepCounted
  dsimp only
  split
  · exact ⟨rfl, rfl, rfl, rfl, (List.append_nil _).symm⟩
  · exact ⟨rfl, rfl, rfl, rfl, rfl⟩

/-- The state of a step whose work is gone and whose number counts as committed, before its completion. -/
def State.stepClosed (s : State) (o : OpenStep) : State :=
  ((s.commitEntries o).1.stepDropped o).stepCounted o

theorem stepClosed_spec (s : State) (o : OpenStep) : let t := s.stepClosed o
    t.sv.storm = ((o.fires, o.equivs, o.perArray) :: s.sv.storm).take 10 ∧ t.sv.slots = (s.commitEntries o).1.sv.slots ∧
    t.sv.queues = s.sv.queues ∧ t.tm = s.tm ∧ t.pw = { s.pw with lastActivity := s.tm.tick } ∧ t.dp.lease = s.dp.lease ∧
    t.fb.committed = s.fb.committed ++ if o.cmd.job = 0 then [] else [(o.cmd.job, o.cmd.stepNumber)] := by
  obtain ⟨htidies, honly⟩ := commitEntries_spec s o
  have htm : (s.commitEntries o).1.tm = s.tm := honly .clocks rfl
  have hpw : (s.commitEntries o).1.pw = s.pw := honly .power rfl
  have hfb : (s.commitEntries o).1.fb = s.fb := honly .fabric rfl
  unfold State.stepClosed
  generalize (s.commitEntries o).1 = r at *
  obtain ⟨hstorm, hslots, hqueues, htime, hpower, hlink, hjobs⟩ := stepDropped_frame r o
  generalize r.stepDropped o = t at *
  obtain ⟨hsv, htick, hactive, hdp, hcount⟩ := stepCounted_frame t o
  generalize t.stepCounted o = u at *
  dsimp only
  rw [hsv, htick, hactive, hdp, hcount, hstorm, hslots, hqueues, htime, hpower, hlink, hjobs, htm, hpw, hfb, htidies.storm, htidies.queues, htidies.lease]
  exact ⟨rfl, rfl, rfl, rfl, rfl, rfl, rfl⟩

theorem leaseLive_congr {s t : State} (hlease : t.dp.lease = s.dp.lease) (htm : t.tm = s.tm) : t.leaseLive = s.leaseLive := by
  unfold State.leaseLive; rw [hlease, htm]

/-- The completion of a step that commits now. -/
def State.stepDone (s : State) (o : OpenStep) : Completion :=
  mkCompletion 0 0 o.seq o.hostTag o.queue o.cmd.stepNumber o.port (0 < o.epoch) (!s.leaseLive) s.time (s.commitEntries o).2

/-- The state in which a committed step's completion is delivered. -/
def State.stepEndedAt (s : State) (o : OpenStep) : State := (s.stepClosed o).putEnded o.queue (s.stepDone o)

/-- A step that is ready commits: its completion ends in its queue, and what waits for it goes on. -/
theorem exec_stepCommit {s : State} {tag : Nat} {o : OpenStep} (hlive : s.liveStep tag = some o) (hrun : s.hcoreRuns = true)
    (hready : s.commitReady o o.attrs = true) : exec (.stepCommit tag) s =
      .next ((((s.stepEndedAt o).deliver o.queue).sweep).retryStalled).tryEntry := by
  obtain ⟨-, -, -, htm, -, hlease, -⟩ := stepClosed_spec s o
  have hdone : s.stepDone o = mkCompletion 0 0 o.seq o.hostTag o.queue o.cmd.stepNumber o.port (0 < o.epoch) (!(s.stepClosed o).leaseLive)
      (s.stepClosed o).time (s.commitEntries o).2 := by
    rw [leaseLive_congr hlease htm, time_of_tm htm]; rfl
  unfold State.stepEndedAt
  rw [hdone]
  change execStepCommit tag s = _
  unfold execStepCommit
  rw [hlive]
  exact congrArg _ (if_pos (by rw [hrun, hready]; rfl))

theorem queue_putEnded {s t : State} (hqueues : t.sv.queues = s.sv.queues) (n : Nat) (c : Completion) :
    (t.putEnded n c).queue n = (s.queue n).map fun q => { q with ended := q.ended ++ [c] } := by
  have hqueue : t.queue n = s.queue n := by unfold State.queue; rw [hqueues]
  have hmod := State.modQueue_queue t n n (fun q => { q with ended := q.ended ++ [c] }) fun _ => rfl
  rw [hqueue] at hmod
  refine hmod.trans ?_
  cases hq : s.queue n with
  | none => rfl
  | some q =>
    have hid : q.id = n := by simpa using List.find?_some hq
    rw [Option.map_some, Option.map_some, if_pos hid]

/-- Without an entry to another power state that waits, a step's end goes no further. -/
theorem tryEntry_of_none {s : State} (h : s.pw.entry = none) : s.tryEntry = s := by
  have hstay : s.entryStops = s := by unfold State.entryStops; rw [h]
  unfold State.tryEntry
  rw [hstay]
  dsimp only
  rw [h]

/-- What follows a step's completion leaves clocks and power, the storm window and the committed job steps. -/
theorem afterCommit_spec (v : State) (n : Nat) : let t := ((v.deliver n).sweep).retryStalled
    t.tm = v.tm ∧ t.pw = v.pw ∧ t.sv.storm = v.sv.storm ∧ t.fb.committed = v.fb.committed := by
  have hdeliver : Only 3584 v (v.deliver n) := State.deliver_only (Only.refl v) (Needs.refl _)
  have hsweep : Only 29696 (v.deliver n) (v.deliver n).sweep := State.sweep_only (Only.refl _) (Needs.refl _)
  have hretry : Only 196144 (v.deliver n).sweep ((v.deliver n).sweep).retryStalled := State.retryStalled_only (Only.refl _) (Needs.refl _)
  have hcalm : Calm v ((v.deliver n).sweep).retryStalled := State.retryStalled_calm (State.sweep_calm (State.deliver_calm (Calm.refl v)))
  exact ⟨(hretry .clocks rfl).trans ((hsweep .clocks rfl).trans (hdeliver .clocks rfl)),
    (hretry .power rfl).trans ((hsweep .power rfl).trans (hdeliver .power rfl)), hcalm.storm, hcalm.committed⟩

end Sys2Proof.Machine
end

section
/-! PROOFS. O59, its last part: the commit of a step and the moves of its path as the statement reads them, and the obligation. -/

set_option Elab.async false

namespace Sys2Proof.Machine

/-! ### A round -/

/-- The branches of a round whose context and model are there: the draft model, the step command, the step opened. -/
theorem round_branches {s : State} {q : Queue} {w : Waiting} {ctx : Context} {m : Model} (hctx : (s.taken q).context q.ctx = some ctx)
    (hmodel : ((s.taken q).model ctx.model).filter (fun m => !m.unloading) = some m) :
    let u := s.taken q
    let c := parseStep w.tuiven1 w.payload
    (ctx.draftModel ≠ 0 → u.draftFor ctx = none → s.round q w = u.closeRound q w c ctx 2 0) ∧
    (ctx.draftModel = 0 ∨ u.draftFor ctx ≠ none →
      (∀ d, (u.asArrived w).stepFault c w.payload.length w.tuiven1 ctx m = some d → s.round q w = u.closeRound q w c ctx 1 d) ∧
      ((u.asArrived w).stepFault c w.payload.length w.tuiven1 ctx m = none →
        s.round q w = u.openStep q w c ctx (u.weightsHeld c m (u.draftFor ctx)))) := by
  intro u c
  have hround := round_model (w := w) hctx hmodel
  refine ⟨fun hdraft hnone => ?_, fun hgood => ?_⟩
  · rw [hround, if_pos ⟨hdraft, Option.isNone_iff_eq_none.2 hnone⟩]
  · have hno : ¬ (ctx.draftModel ≠ 0 ∧ (u.draftFor ctx).isNone) := fun ⟨hdraft, hnone⟩ =>
      hgood.elim hdraft fun h => h (Option.isNone_iff_eq_none.1 hnone)
    rw [if_neg hno] at hround
    exact ⟨fun d hd => by rw [hround, hd], fun hd => by rw [hround, hd]⟩

theorem queue_of_queues {s t : State} (h : t.sv.queues = s.sv.queues) (n : Nat) : t.queue n = s.queue n := by
  unfold State.queue; rw [h]

/-! ### A commit -/

theorem stepEndedAt_spec (s : State) (o : OpenStep) : let v := s.stepEndedAt o
    v.sv.slots = (s.commitEntries o).1.sv.slots ∧
    v.queue o.queue = (s.queue o.queue).map (fun q => { q with ended := q.ended ++ [s.stepDone o] }) ∧
    v.sv.storm = ((o.fires, o.equivs, o.perArray) :: s.sv.storm).take 10 ∧ v.tm = s.tm ∧ v.pw = { s.pw with lastActivity := s.tm.tick } ∧
    v.fb.committed = s.fb.committed ++ if o.cmd.job = 0 then [] else [(o.cmd.job, o.cmd.stepNumber)] := by
  obtain ⟨hstorm, hslots, hqueues, htm, hpw, -, hjobs⟩ := stepClosed_spec s o
  exact ⟨hslots, queue_putEnded hqueues _ _, hstorm, htm, hpw, hjobs⟩

/-- A commit with no entry to another power state waiting: the window, the activity and the committed numbers it leaves. -/
theorem stepCommit_leaves {s : State} (hentry : s.pw.entry = none) (o : OpenStep) :
    let t := ((((s.stepEndedAt o).deliver o.queue).sweep).retryStalled).tryEntry
    t.sv.storm = ((o.fires, o.equivs, o.perArray) :: s.sv.storm).take 10 ∧ t.pw.lastActivity = t.tm.tick ∧
    t.fb.committed = s.fb.committed ++ if o.cmd.job = 0 then [] else [(o.cmd.job, o.cmd.stepNumber)] := by
  obtain ⟨-, -, hstorm, htm, hpw, hjobs⟩ := stepEndedAt_spec s o
  obtain ⟨htm', hpw', hstorm', hjobs'⟩ := afterCommit_spec (s.stepEndedAt o) o.queue
  generalize ((((s.stepEndedAt o).deliver o.queue).sweep).retryStalled) = t at *
  have hnone : t.pw.entry = none := by rw [hpw', hpw]; exact hentry
  intro t'
  rw [show t' = t from tryEntry_of_none hnone]
  refine ⟨hstorm'.trans hstorm, ?_, hjobs'.trans hjobs⟩
  rw [hpw', hpw, htm', htm]

/-! ### A compaction -/

/-- The path of a step's one entry is at its depths once its compaction is done. -/
theorem exec_compactionDone_moves {s : State} {tag : Nat} {o : OpenStep} {e : LenEntry} {w : EntryWork} {m : Model}
    (hlive : s.liveStep tag = some o) (he : o.cmd.entries = [e]) (hw : o.entries = [w]) (hm : s.model o.model = some m)
    (hfinished : entryFinished o 0 = true) (hneeds : needsCompaction o.attrs o 0 e w = true)
    (hrise : ((acceptedPath o.attrs o 0 e).1.map TokenWork.elem).Pairwise (· < ·)) (hapart : s.FramesApart e.slot) :
    ∃ t, exec (.compactionDone tag) s = .next t ∧ ∀ d x l r, (acceptedPath o.attrs o 0 e).1[d]? = some x → l ∈ m.kvLayers → m.layer l = some r →
      s.hasFrame e.slot l (e.position + d) →
      ∀ isV h g, h < r.kvHeads → s.getGroup e.slot false l (e.position + x.elem) isV h = some g →
        t.getGroup e.slot false l (e.position + d) isV h = some { g with tok := (e.position + d) % 64 } :=
  ⟨_, exec_compactionDone_single hlive he hw hm hfinished hneeds, fun _ _ _ _ hx hl hr hframe _ _ _ hk hg =>
    movePath_moves hapart hrise hx hl hr hframe hk hg⟩

/-! ### The obligation -/

/-- Settles O59: a round's outcome by its branches; a match, a copy, a commit, a completion and a compaction by the lemmas of their parts; a storm
by what its list and its event leave. -/
theorem roundsAdmitMatchCommitAndWatchStorms : Obligations.RoundsAdmitMatchCommitAndWatchStorms := by
  unfold Obligations.RoundsAdmitMatchCommitAndWatchStorms
  refine ⟨fun s core h => exec_sortingRound_wakes h, ?round, ?begins, fun s core hrun hfirm hcore hidle => exec_sortingRound_idle hrun hfirm hcore hidle,
    ?matched, ?copied, ?commit, ?entry, ?deliver, ?compaction, ?storm, ?recheck⟩
  case round =>
    intro s core q w hrun hfirm hcore hmay hnext u c
    rw [exec_sortingRound_round hrun hfirm hcore hmay hnext]
    refine ⟨fun hctx => congrArg _ (round_noContext hctx), fun ctx hctx hmodel => congrArg _ (round_noModel hctx hmodel), fun ctx m hctx hmodel => ?_⟩
    obtain ⟨hdraft, hopen⟩ := round_branches (w := w) hctx hmodel
    exact ⟨fun h hnone => congrArg _ (hdraft h hnone), fun h => ⟨fun d hd => congrArg _ ((hopen h).1 d hd), fun hd => congrArg _ ((hopen h).2 hd)⟩⟩
  case begins =>
    intro u q w c ctx hroom o
    refine ⟨rfl, rfl, rfl, freeTag_fresh hroom, fun status detail => ⟨u.pushStep o, rfl, rfl⟩, ?_⟩
    obtain ⟨x, hopen, hsv⟩ := openStep_held u q w c ctx
    refine ⟨x, hopen, (congrArg Serving.steps hsv).trans (charged_steps u q w c ctx), fun k hk => ?_⟩
    exact (queue_of_queues (congrArg Serving.queues hsv) q.id).trans (charged_queue hk w c ctx)
  case matched =>
    intro s tag i o e w hfirm hentry
    refine ⟨exec_prefixMatchDone hfirm hentry, ?_⟩
    intro m sl hm hsl layers toks chain whole shared copied used matched v needs hcan
    have heq := matchEntry_eq hentry hm hsl
    obtain ⟨u, x, w', htake, hrest⟩ := takeMatch_spec (chain := chain) (shared := shared) (copied := copied) (matched := matched) (needs := needs)
      hentry hsl mem_chain_parts hcan
    exact ⟨u, x, w', heq.trans htake, hrest⟩
  case copied =>
    intro s slot b n p q f g hp hq hprivate hf hg hapart
    rw [copyBlock_eq]
    exact copyBlock_frame hq hprivate hapart hp hf hg
  case commit =>
    intro s tag o hlive hrun hready
    have hexec := exec_stepCommit hlive hrun hready
    obtain ⟨hslots, hqueue, hstorm, -, hpw, hjobs⟩ := stepEndedAt_spec s o
    exact ⟨⟨s.stepEndedAt o, hexec, hslots, hqueue, hstorm, congrArg (·.lastActivity) hpw, hjobs⟩,
      _, hexec, fun hentry => stepCommit_leaves hentry o⟩
  case entry =>
    intro s o c i e w r
    refine ⟨fun st h => ?_, fun h hkind => ?_, fun x m h hkind hx hm => ?_⟩
    · have heq : r = _ := commitEntry_ended h
      rw [heq]; exact ⟨rfl, rfl, rfl⟩
    · have heq : r = _ := commitEntry_ends h hkind
      rw [heq]; exact ⟨slot_slotFree s e.slot, rfl⟩
    · intro path commit
      obtain ⟨-, hstatus, hcommit, htokens⟩ := commitEntry_commits (c := c) (i := i) h hkind hx hm
      obtain ⟨y, hy, hpointer, hopen, hheld, hframes⟩ := commitEntry_slot (c := c) (i := i) h hkind hx hm
      have hend := entryEnd_commit s o c i e x m
      exact ⟨y, hy, hpointer.trans hend, hstatus, hcommit.trans hend, htokens, hopen, hheld, hframes⟩
  case deliver =>
    intro v n q c hq hnext htalks
    have hfirst : Delivered n v q c := ⟨hq, hnext, htalks⟩
    exact ⟨deliver_written hfirst, deliver_waits hfirst, deliver_retained hfirst⟩
  case compaction =>
    intro s tag o hlive
    refine ⟨exec_compactionDone hlive, ⟨_, exec_compactionDone hlive, ?_, ?_, ?_, ?_⟩, fun e w m he hw hm hfinished hneeds hrise hapart =>
      exec_compactionDone_moves hlive he hw hm hfinished hneeds hrise hapart⟩
    · exact compactions_keep (fun x => x.kv.held) (fun _ _ _ => rfl) (fun _ _ _ _ => rfl) s o _
    · exact compactions_keep (fun x => x.kv.nodes) (fun _ _ _ => rfl) (fun _ _ _ _ => rfl) s o _
    · exact compactions_keep (fun x => x.sv.slots) (fun _ _ _ => rfl) (fun _ _ _ _ => rfl) s o _
    · exact compactions_keep State.tm (fun _ _ _ => rfl) (fun _ _ _ _ => rfl) s o _
  case storm =>
    intro s hfirm hpending
    obtain ⟨detail, hexec⟩ := exec_stormHandling hfirm hpending
    obtain ⟨hev, hdp, hstorm⟩ := stormListed_spec s
    obtain ⟨hflag, hlist, hwindow⟩ := async_storm s.stormListed 2 detail
    refine ⟨_, hexec, by rw [hflag, hev], by rw [hlist, hev], hwindow.trans hstorm, fun hfeature => ?_⟩
    rw [async_next, feature_of_dp hdp, if_pos hfeature, hev]
  case recheck =>
    intro s hfirm hpending hbit hsince
    have hsv := recalibrate_sv { s with sv := { s.sv with stormSince := s.sv.stormSince - 10 } } (affectedArrays s.sv.storm)
    exact ⟨_, exec_stormRecheck hfirm hpending hbit hsince, congrArg Serving.stormSince hsv, (congrArg Serving.stormBit hsv).trans hbit,
      fun a ha hs => mem_recalibrated ha hs⟩

end Sys2Proof.Machine
end

section
/-! PROOFS. O12: an addition that leaves its holder's range (05 R142, 03 R71). First the addition into a holder of `w` bits, then what the
undoing of a step leaves of its work, then the step's end. -/

set_option Elab.async false

namespace Sys2Proof.Machine

/-! ### Additions into a holder of `w` bits (05 R142) -/

theorem fits_iff (w : Nat) (n : Int) : fits w n = true ↔ -(2 ^ (w - 1) : Int) ≤ n ∧ n < 2 ^ (w - 1) := by unfold fits; simp

theorem addInto_of_fits {w : Nat} {old add : Int} (h : fits w (old + add) = true) : addInto w old add = (old + add, false) := if_pos h

theorem addInto_of_not_fits {w : Nat} {old add : Int} (h : ¬ fits w (old + add) = true) : addInto w old add = (old, true) := if_neg h

theorem addInto_fault_iff (w : Nat) (old add : Int) : (addInto w old add).2 = true ↔ ¬ fits w (old + add) = true := by
  unfold addInto; split <;> simp [*]

theorem addVec_elem (w : Nat) {n i : Nat} (old add : List Int) (hi : i < n) :
    at' (addVec w n old add).1 i 0 = (addInto w (at' old i 0) (at' add i 0)).1 := by
  unfold addVec
  rw [at', List.getD_eq_getElem?_getD]
  simp [hi]

theorem addVec_fault_iff (w n : Nat) (old add : List Int) :
    (addVec w n old add).2 = true ↔ ∃ i, i < n ∧ ¬ fits w (at' old i 0 + at' add i 0) = true := by
  unfold addVec
  simp only [List.any_map, List.any_eq_true, List.mem_range, Function.comp, addInto_fault_iff]

/-! ### The two records of an overflow (13 Table 13.7) -/

theorem addToBank_overflow {s : State} {id : TileId} {b arr : Nat} {red : Reduction} {v : List Int} (hred : ((s.tile id).bank b).red = some red)
    (hover : (addVec 64 256 ((s.tile id).bank b).regs v).2 = true) : s.addToBank id b arr red v = s.bankOverflow id arr red.stepTag := by
  simp only [State.addToBank, hred, hover, bne_self_eq_false, Bool.false_eq_true, if_false, if_true]

/-! ### What is left of a step's work (05 Table 5.2, 14 Table 14.4) -/

theorem Bank.void_red {b : Bank} {tag : Nat} {red : Reduction} (h : (b.void tag).red = some red) : red.stepTag ≠ tag := by
  unfold Bank.void at h
  split at h
  · cases h
  · rename_i hother
    simpa [Bank.of, h] using hother

theorem Tile.void_bank (t : Tile) (tag k : Nat) : (t.void tag).bank k = (t.bank k).void tag := by
  unfold Tile.bank; split <;> rfl

/-- A step's work is over in a tile: no fire, no repeat and no bank is the step's. -/
theorem Tile.void_clears (t : Tile) (tag : Nat) : (∀ f ∈ (t.void tag).fires, f.red.stepTag ≠ tag) ∧
    (∀ f, (t.void tag).repeatDue = some f → f.red.stepTag ≠ tag) ∧ ∀ k red, ((t.void tag).bank k).red = some red → red.stepTag ≠ tag := by
  refine ⟨fun f hf => ?_, fun f hf => ?_, fun k red hred => ?_⟩
  · simpa using (List.mem_filter.1 hf).2
  · simpa using (Option.filter_eq_some_iff.1 hf).2
  · exact Bank.void_red (t.void_bank tag k ▸ hred)

theorem dropWork_tiles {s : State} {tag : Nat} {x : Tile} (hx : x ∈ (s.dropWork tag).tl.tiles) : ∃ t : Tile, t.void tag = x := by
  obtain ⟨t, -, rfl⟩ := List.mem_map.1 hx
  exact ⟨t, rfl⟩

theorem dropWork_regions {s : State} {tag : Nat} {r : Region} (hr : r ∈ (s.dropWork tag).tl.regions) :
    (∀ j ∈ r.jobs, j.stepTag ≠ tag) ∧ ∀ j ∈ r.spots, j.stepTag ≠ tag := by
  obtain ⟨r, -, rfl⟩ := List.mem_map.1 hr
  exact ⟨fun j hj => by simpa using (List.mem_filter.1 hj).2, fun j hj => by simpa using (List.mem_filter.1 hj).2⟩

theorem dropWork_lines {s : State} {tag : Nat} {l : Line} (hl : l ∈ (s.dropWork tag).rd.lines) : l.stepTag ≠ tag := by
  simpa using (List.mem_filter.1 hl).2

theorem dropLedger_work (s : State) (o : OpenStep) : (s.dropLedger o).tl = s.tl ∧ (s.dropLedger o).rd.lines = s.rd.lines := by
  unfold State.dropLedger
  split <;> exact ⟨rfl, rfl⟩

/-- Undoing a step beyond its dropped work changes slots, pages and nodes alone. -/
theorem undoStep_only_entries (s : State) (o : OpenStep) : Only 5120 ((s.dropWork o.tag).dropLedger o) (s.undoStep o) := by
  unfold State.undoStep
  refine Only.foldl (Only.foldl (Only.refl _) fun x e h => ?_) fun x e h => ?_
  · exact State.releaseReserved_only (State.undoMatch_only h (Needs.refl _)) (Needs.sub (Needs.refl 5120) (by decide))
  · split
    · split
      · exact h
      · exact State.modSlot_only h (Needs.sub (Needs.refl 5120) (by decide))
    · exact h

/-- What stands of the tiles' work and of the lines once a step is undone is what stands once its work is dropped. -/
theorem undoStep_work (s : State) (o : OpenStep) :
    (s.undoStep o).tl = (s.dropWork o.tag).tl ∧ (s.undoStep o).rd.lines = (s.dropWork o.tag).rd.lines := by
  have honly := undoStep_only_entries s o
  have htl : (s.undoStep o).tl = ((s.dropWork o.tag).dropLedger o).tl := honly .tiles rfl
  have hrd : (s.undoStep o).rd = ((s.dropWork o.tag).dropLedger o).rd := honly .reductions rfl
  obtain ⟨hwork, hlines⟩ := dropLedger_work (s.dropWork o.tag) o
  exact ⟨htl.trans hwork, (congrArg Reductions.lines hrd).trans hlines⟩

/-- An undone step is listed until its completion is delivered (08 R247). -/
theorem undoStep_steps (s : State) (o : OpenStep) : (s.undoStep o).sv.steps = s.sv.steps := by
  have hledger : ((s.dropWork o.tag).dropLedger o).sv.steps = s.sv.steps := (congrArg Serving.steps (dropLedger_frame _ o).1 :)
  unfold State.undoStep
  refine (foldl_keep (fun x => x.sv.steps) _ _ _ fun x e => ?slot).trans
    ((foldl_keep (fun x => x.sv.steps) _ _ _ fun x e => ?entry).trans hledger)
  case slot =>
    split
    · split <;> rfl
    · rfl
  case entry => exact (congrArg Serving.steps (releaseReserved_sv _ _ _)).trans (undoMatch_steps x o e.1 e.2.slot)

/-! ### The end of a step with a fault status (03 R71, 08 R247) -/

/-- The completion of a step that ends with a status other than completed. -/
def State.failure (s : State) (o : OpenStep) (status : Nat) : Completion :=
  let u := s.undoStep o
  mkCompletion status 0 o.seq o.hostTag o.queue o.cmd.stepNumber o.port (0 < o.epoch) (!u.leaseLive) u.time
    (o.cmd.entries.map fun e => u.plainResult e status 0)

theorem failStep_eq {s : State} {tag : Nat} {o : OpenStep} (status : Nat) (h : s.stepOf tag = some o) :
    s.failStep tag status = (((s.undoStep o).putEnded o.queue (s.failure o status)).deliver o.queue).sweep := by
  unfold State.failStep; rw [h]; rfl

/-- A step whose completion stands in its queue, or whose queue is gone, is live no more. -/
theorem liveStep_putEnded {u : State} {tag : Nat} {o : OpenStep} {c : Completion} (ho : u.stepOf tag = some o) (hseq : c.seq = o.seq) :
    (u.putEnded o.queue c).liveStep tag = none := by
  have hended : (u.putEnded o.queue c).stepEnded o = true := by
    unfold State.stepEnded
    rw [queue_putEnded rfl]
    cases u.queue o.queue with
    | none => rfl
    | some q => simp [hseq]
  have ho' : (u.putEnded o.queue c).stepOf tag = some o := ho
  unfold State.liveStep
  rw [ho', Option.filter_some, hended]; rfl

/-- Neither the delivery of a step's completion nor what follows it touches a line. -/
theorem failStep_lines {s : State} {tag : Nat} {o : OpenStep} (status : Nat) (h : s.stepOf tag = some o) :
    (s.failStep tag status).rd.lines = (s.dropWork o.tag).rd.lines := by
  rw [failStep_eq status h]
  generalize hu : (s.undoStep o).putEnded o.queue (s.failure o status) = u
  have hput : u.rd = (s.undoStep o).rd := by rw [← hu]; rfl
  have hdeliver : (u.deliver o.queue).rd = u.rd := State.deliver_only (K := 3584) (Only.refl u) (Needs.refl _) .reductions rfl
  have hsweep : (u.deliver o.queue).sweep.rd = (u.deliver o.queue).rd :=
    State.sweep_only (K := 29696) (Only.refl _) (Needs.refl _) .reductions rfl
  rw [hsweep, hdeliver, hput, (undoStep_work s o).2]

/-! ### The clauses of the statement -/

/-- Settles O12: the addition by `addVec_fault_iff` and `addVec_elem`, the records by `raise_last`, and the step's end by what `dropWork`
leaves. -/
theorem overflowKeepsTheHolderAndEndsTheStep : Obligations.OverflowKeepsTheHolderAndEndsTheStep := by
  unfold Obligations.OverflowKeepsTheHolderAndEndsTheStep
  refine ⟨fun w n old add => ?sum, fun s id b arr red v hred hover => ?bank, fun s l source tag => ?line, fun s tag status o ho => ?ends⟩
  case sum =>
    intro ok
    have hok (i : Nat) : fits w (at' old i 0 + at' add i 0) = true ↔ ok i := fits_iff w _
    refine ⟨?_, fun i hi => ⟨fun h => ?_, fun h => ?_⟩⟩
    · simp only [addVec_fault_iff, hok]
    · rw [addVec_elem w old add hi, addInto_of_fits ((hok i).2 h)]
    · rw [addVec_elem w old add hi, addInto_of_not_fits (mt (hok i).1 h)]
  case bank => exact ⟨_, _, addToBank_overflow hred hover, rfl, raise_last s _ _ _, rfl, rfl, rfl⟩
  case line => exact ⟨_, _, rfl, rfl, raise_last s _ _ _, rfl, rfl, rfl⟩
  case ends =>
    obtain rfl : o.tag = tag := by simpa using List.find?_some ho
    have hlive : ((s.undoStep o).putEnded o.queue (s.failure o status)).liveStep o.tag = none :=
      liveStep_putEnded ((stepOf_of_steps (undoStep_steps s o) o.tag).trans ho) rfl
    obtain ⟨htl, -⟩ := undoStep_work s o
    refine ⟨s.undoStep o, s.failure o status, failStep_eq status ho, rfl, rfl, rfl, rfl, rfl, hlive, fun x hx => ?_, fun r hr => ?_, fun l hl => ?_⟩
    · obtain ⟨t, rfl⟩ := dropWork_tiles (htl ▸ hx)
      exact t.void_clears o.tag
    · exact dropWork_regions (htl ▸ hr)
    · exact dropWork_lines (failStep_lines status ho ▸ hl)

end Sys2Proof.Machine
end

section
/-! PROOFS. O58: a drain from its bank to its line, the line that lacks contributions, and the records of a job step at its ledger (05 R144,
R151-R156, 14 R471). First the line and the ledger read after an update, then each of the five commands. -/

set_option Elab.async false

namespace Sys2Proof.Machine

/-! ### Lines and ledgers after an update -/

/-- A line read after it is put back. -/
theorem line_putLine {s : State} {i : LineId} {l l1 : Line} (hl : s.line i = some l) (hid : l1.id = l.id) : (s.putLine l1).line i = some l1 := by
  have hkey : ((fun x : Line => x.id == i) ∘ fun x => if x.id = l1.id then l1 else x) = fun x => x.id == i := by
    funext x
    dsimp only [Function.comp]
    split
    · rename_i hx; rw [hx]
    · rfl
  unfold State.line State.putLine
  rw [List.find?_map, hkey]
  change (s.line i).map _ = _
  rw [hl, Option.map_some, if_pos hid.symm]

theorem line_of_rd {s t : State} (h : t.rd = s.rd) (i : LineId) : t.line i = s.line i := by unfold State.line; rw [h]

theorem ledger_is {s : State} {job step : Nat} {g : Ledger} (hg : s.ledger job step = some g) : g.job = job ∧ g.step = step := by
  simpa using List.find?_some hg

/-- A ledger read after it is set. -/
theorem ledger_setLedger (s : State) (g : Ledger) : (s.setLedger g).ledger g.job g.step = some g := find_putBy _ _ _ (by simp)

/-- A record that issues nothing wakes nothing. -/
theorem scheduleWakes_of_nextInput {s t : State} (h : t.sv.nextInput = s.sv.nextInput) : t.scheduleWakes s = t := if_neg fun ⟨_, hne⟩ => hne h

theorem scheduleWakes_regs (s : State) (r : Regs) : { s with rg := r }.scheduleWakes s = { s with rg := r } := scheduleWakes_of_nextInput rfl

/-! ### A bank drains (05 R144, R147) -/

/-- The drain that leaves a bank, on its route. -/
def State.drainOf (s : State) (id : TileId) (b : Nat) (r : Reduction) : Drain :=
  let k := (s.tile id).bank b
  { src := id, line := r.line, stepTag := r.stepTag, epoch := r.epoch, final := k.closed, regs := k.regs,
    path := drainPath id.die r.line.die (16384 < s.hubQueue id.die) }

/-- A bank emptied into a drain. -/
def State.bankSent (s : State) (id : TileId) (b : Nat) (d : Drain) : State :=
  let s1 := s.modTile id fun x => x.setBank b emptyBank
  { s1 with rd := { s1.rd with drains := s1.rd.drains ++ [d] } }

theorem exec_bankDrainDone {s : State} {id : TileId} {b : Nat} {r : Reduction} (hstate : ((s.tile id).bank (b % 2)).state = .draining)
    (hred : ((s.tile id).bank (b % 2)).red = some r) :
    exec (.bankDrainDone id b) s = .next (s.bankSent id (b % 2) (s.drainOf id (b % 2) r)).stampLines := by
  change execBankDrainDone id b s = _
  unfold execBankDrainDone
  dsimp only
  rw [hred]
  dsimp only
  rw [hstate]
  rfl

theorem stampLines_bankSent_bank (s : State) (id : TileId) (b : Nat) (d : Drain) :
    ((s.bankSent id b d).stampLines.tile id).bank b = emptyBank := bank_modTile_setBank s id b fun _ => emptyBank

/-! ### Routes of drains (05 Table 5.4) -/

theorem drainPath_same (d : Nat) (congested : Bool) : drainPath d d congested = [d] := if_pos rfl

theorem drainPath_neighbour {src dst : Nat} (hne : src ≠ dst) (hside : diagonal src dst = false) (congested : Bool) :
    drainPath src dst congested = [src, dst] := by
  unfold drainPath; rw [if_neg hne, hside]; rfl

theorem ne_of_diagonal {src dst : Nat} (h : diagonal src dst = true) : src ≠ dst := by
  have : src + dst = 3 := by simpa [diagonal] using h
  omega

theorem drainPath_hub {src dst : Nat} (h : diagonal src dst = true) : drainPath src dst false = [src, 4, dst] := by
  unfold drainPath; rw [if_neg (ne_of_diagonal h), h]; rfl

/-- The neighbour over which a drain to the diagonal die goes where the hub is congested. -/
def sideDie (src : Nat) : Nat := if src = 0 ∨ src = 3 then 1 else 0

theorem drainPath_sides {src dst : Nat} (h : diagonal src dst = true) : drainPath src dst true = [src, sideDie src, dst] := by
  unfold drainPath; rw [if_neg (ne_of_diagonal h), h]; rfl

theorem sideDie_lt (src : Nat) : sideDie src < 2 := by unfold sideDie; split <;> decide

/-- Both dies of a side route are joined to the one between them. -/
theorem sideDie_neighbour {src : Nat} (h : src < 4) : diagonal src (sideDie src) = false := by
  interval_cases src <;> rfl

/-! ### A drain arrives (05 R151, R152) -/

/-- The state once a drain has been taken off the network. -/
def State.drainTaken (s : State) (n : Nat) : State := { s with rd := { s.rd with drains := s.rd.drains.eraseIdx n } }

/-- A line with a drain's values added: a final drain lowers PENDING, and the last one completes it. -/
def Line.drained (l : Line) (d : Drain) : Line :=
  { l with elems := (addVec 96 256 l.elems d.regs).1, pending := if d.final then l.pending - 1 else l.pending,
           complete := d.final && l.pending == 1 }

section Arrival

variable {s : State} {n : Nat} {d : Drain} (hd : s.rd.drains[n]? = some d)

include hd

/-- A drain of another epoch, or to a line that is gone, is dropped and counted at the die. -/
theorem exec_drainArrival_stale
    (hstale : ∀ l, s.line d.line = some l → l.version ≠ 1 ∨ l.stepTag ≠ d.stepTag ∨ l.epoch ≠ d.epoch) :
    exec (.drainArrival n) s = .next { s.drainTaken n with
      rg := { s.rg with staleDrain := modAt s.rg.staleDrain d.line.die fun x => x + 1 } } := by
  have hnone : ((s.drainTaken n).line d.line).filter (fun l => l.version == 1 && l.stepTag == d.stepTag && l.epoch == d.epoch) = none := by
    rw [Option.filter_eq_none_iff]
    intro l hl
    rcases hstale l hl with h | h | h <;> simp [h]
  change execDrainArrival n s = _
  unfold execDrainArrival
  rw [hd]
  dsimp only
  unfold State.drainTaken at hnone
  rw [hnone]
  rfl

variable {l : Line} (hl : s.line d.line = some l) (hversion : l.version = 1) (htag : l.stepTag = d.stepTag) (hepoch : l.epoch = d.epoch)

include hl hversion htag hepoch

/-- What a drain of the line's epoch does at its line. -/
theorem exec_drainArrival_line : exec (.drainArrival n) s =
    if l.complete || (d.final && l.pending == 0) then
      .next (((s.drainTaken n).putLine { l with fault := true }).reductionFault l.id l.id.die l.stepTag l.epoch)
    else if (addVec 96 256 l.elems d.regs).2 then .next ((s.drainTaken n).lineOverflow l.id l.id.die l.stepTag)
    else .next (if d.final && l.pending == 1 then ((s.drainTaken n).putLine (l.drained d)).completeLine (l.drained d)
      else (s.drainTaken n).putLine (l.drained d)) := by
  have hfound : ((s.drainTaken n).line d.line).filter (fun l => l.version == 1 && l.stepTag == d.stepTag && l.epoch == d.epoch) = some l := by
    rw [show (s.drainTaken n).line d.line = some l from hl]
    simp [hversion, htag, hepoch]
  change execDrainArrival n s = _
  unfold execDrainArrival
  rw [hd]
  dsimp only
  unfold State.drainTaken at hfound
  rw [hfound]
  rfl

theorem exec_drainArrival_fault (hfull : l.complete = true ∨ (d.final = true ∧ l.pending = 0)) : exec (.drainArrival n) s =
    .next (((s.drainTaken n).putLine { l with fault := true }).reductionFault l.id l.id.die l.stepTag l.epoch) := by
  rw [exec_drainArrival_line hd hl hversion htag hepoch]
  exact if_pos (by simpa using hfull)

variable (hopen : l.complete = false)

include hopen

theorem exec_drainArrival_overflow (hroom : d.final = true → l.pending ≠ 0) (hover : (addVec 96 256 l.elems d.regs).2 = true) :
    exec (.drainArrival n) s = .next ((s.drainTaken n).lineOverflow l.id l.id.die l.stepTag) := by
  rw [exec_drainArrival_line hd hl hversion htag hepoch, if_neg (by simpa [hopen] using hroom), if_pos hover]

variable (hfits : (addVec 96 256 l.elems d.regs).2 = false)

include hfits

/-- A partial drain, and a final one before the last, leave the line open. -/
theorem exec_drainArrival_added (hmore : d.final = true → 1 < l.pending) :
    exec (.drainArrival n) s = .next ((s.drainTaken n).putLine (l.drained d)) := by
  have hroom : d.final = true → l.pending ≠ 0 := fun hfinal => Nat.ne_of_gt (Nat.zero_lt_of_lt (hmore hfinal))
  have hlast : d.final = true → l.pending ≠ 1 := fun hfinal => Nat.ne_of_gt (hmore hfinal)
  rw [exec_drainArrival_line hd hl hversion htag hepoch, if_neg (by simpa [hopen] using hroom), if_neg (by simp [hfits]),
    if_neg (by simpa using hlast)]

theorem exec_drainArrival_last (hfinal : d.final = true) (hlast : l.pending = 1) :
    exec (.drainArrival n) s = .next (((s.drainTaken n).putLine (l.drained d)).completeLine (l.drained d)) := by
  rw [exec_drainArrival_line hd hl hversion htag hepoch, if_neg (by simp [hopen, hlast]), if_neg (by simp [hfits]),
    if_pos (by simp [hfinal, hlast])]

end Arrival

/-- The line after a drain that reaches it. -/
theorem drainTaken_putLine_line {s : State} {d : Drain} {l : Line} (n : Nat) (hl : s.line d.line = some l) :
    ((s.drainTaken n).putLine (l.drained d)).line d.line = some (l.drained d) :=
  line_putLine (s := s.drainTaken n) hl rfl

/-! ### A line lacks contributions for 50 ms (05 R152) -/

/-- A line found faulty 50 ms after the tick `q`, with its record. -/
def State.lineLate (s : State) (l : Line) (die q : Nat) : State :=
  ((s.advanceTo (q + lineTicks)).putLine { l with fault := true }).raise 0x0008 die [lineWord l.id, l.stepTag + 65536 * l.epoch]

theorem exec_lineTimeout {s : State} {die off q : Nat} {l : Line} (hl : s.line ⟨die, off⟩ = some l) (hopen : l.complete = false)
    (hidle : ∀ t ∈ s.tl.tiles, t.worksOn l.id = false) (hlive : s.redLive ⟨l.stepTag, l.epoch, l.id⟩ = true) (hquiet : l.quiet = some q) :
    exec (.lineTimeout die off) s = .next ((s.lineLate l die q).transient l.stepTag l.epoch 0x0008 die 0) := by
  have hworks : (s.tl.tiles.any fun t => t.worksOn l.id) = false := by simpa using hidle
  change execLineTimeout die off s = _
  unfold execLineTimeout State.lineLate
  rw [hl]
  dsimp only
  rw [hopen, hworks, hlive, hquiet]
  rfl

theorem lineLate_spec {s : State} {i : LineId} {l : Line} (die q : Nat) (hl : s.line i = some l) :
    (s.lineLate l die q).tm.tick = max s.tm.tick (q + lineTicks) ∧ (s.lineLate l die q).line i = some { l with fault := true } := by
  obtain ⟨m, hm, htick⟩ := advanceTo_spec s (q + lineTicks)
  have hline : (s.advanceTo (q + lineTicks)).line i = some l := by rw [hm]; exact hl
  unfold State.lineLate
  constructor
  · rw [State.raise_tm, State.putLine_tm, hm]; exact htick
  · rw [line_of_rd (State.raise_rd _ _ _ _)]; exact line_putLine hline rfl

/-! ### Contribution records (05 R155, R156) -/

section Records

variable {s : State} {h : CourierHdr} {p : Bytes} (hc : s.carried h 1 = true)

include hc

theorem exec_contributionRecord : exec (.contributionRecord h p) s = .next ((s.takeContribution p).scheduleWakes s) :=
  congrArg Host.Outcome.next (withCourier_carried hc)

theorem exec_replayNotice : exec (.replayNotice h p) s = .next ((s.takeReplay p).scheduleWakes s) :=
  congrArg Host.Outcome.next (withCourier_carried hc)

end Records

/-- A record of another VERSION is counted under DROP_VERSION (log entry 34). -/
theorem refuseRecord_version (s : State) {version : Nat} (h : version ≠ 1) :
    s.refuseRecord version = { s with rg := { s.rg with dropVersion := s.rg.dropVersion + 1 } } := if_pos h

theorem takeContribution_version {s : State} {p : Bytes} (h : fld p 0 1 ≠ 1) : s.takeContribution p = s.refuseRecord (fld p 0 1) := if_pos h

theorem takeReplay_version {s : State} {p : Bytes} (h : fld p 0 1 ≠ 1) : s.takeReplay p = s.refuseRecord (fld p 0 1) := if_pos h

theorem takeContribution_valid {s : State} {p : Bytes} (hversion : fld p 0 1 = 1) (hjob : s.fb.aborted.contains (fld p 4 4) = false)
    (hok : contributionOk p 0 = true) : s.takeContribution p = s.contribution (fld p 4 4) (fld p 8 8) (fld p 0x10 1) (fld p 0x18 8)
      (fld p 0x12 2) (contributionElems p (fld p 0x12 2)) := by
  unfold State.takeContribution
  dsimp only
  rw [if_neg (not_not.mpr hversion), hjob, hok]
  rfl

section Contribution

variable {s : State} {job step epoch : Nat} {g : Ledger} (hg : s.ledger job step = some g) (addr width : Nat) (elems : List Int)

include hg

theorem contribution_lower (h : epoch < g.epoch) :
    s.contribution job step epoch addr width elems = { s with rg := { s.rg with staleContrib := s.rg.staleContrib + 1 } } := by
  unfold State.contribution
  rw [hg]
  exact if_pos h

theorem contribution_equal (h : g.epoch = epoch) :
    s.contribution job step epoch addr width elems = s.addContribution g addr width elems := by
  subst h
  unfold State.contribution
  rw [hg]
  dsimp only [Option.getD_some]
  rw [if_neg (lt_irrefl _), if_neg (lt_irrefl _)]

theorem contribution_higher (h : g.epoch < epoch) :
    s.contribution job step epoch addr width elems = s.addContribution (g.raise epoch s.tm.tick) addr width elems := by
  unfold State.contribution
  rw [hg]
  dsimp only [Option.getD_some]
  rw [if_neg (lt_asymm h), if_pos h]

end Contribution

/-! ### Replay notices (05 R156, 14 R471) -/

/-- The state once a notice has been taken by the ledger. -/
def State.ledgerNoticed (s : State) (g : Ledger) (epoch : Nat) : State :=
  if g.epoch < epoch then s.setLedger (g.raise epoch s.tm.tick) else s

section Notice

variable {s : State} {p : Bytes} (hversion : fld p 0 1 = 1) (hjob : s.fb.aborted.contains (fld p 4 4) = false)
  (hok : contributionOk p 1 = true)

include hversion hjob hok

theorem takeReplay_without_ledger (hg : s.ledger (fld p 4 4) (fld p 8 8) = none) :
    s.takeReplay p = s.noticeStep (fld p 4 4) (fld p 8 8) (fld p 0x10 1) := by
  unfold State.takeReplay
  dsimp only
  rw [if_neg (not_not.mpr hversion), hjob, hok, hg]
  rfl

/-- A notice acts on the step's ledger, then on the step. -/
theorem takeReplay_with_ledger {g : Ledger} (hg : s.ledger (fld p 4 4) (fld p 8 8) = some g) :
    s.takeReplay p = (s.ledgerNoticed g (fld p 0x10 1)).noticeStep (fld p 4 4) (fld p 8 8) (fld p 0x10 1) := by
  unfold State.takeReplay
  dsimp only
  rw [if_neg (not_not.mpr hversion), hjob, hok, hg]
  rfl

end Notice

theorem noticeStep_open {s : State} {job step : Nat} {o : OpenStep} (epoch : Nat) (ho : s.jobStep job step = some o) :
    s.noticeStep job step epoch = if o.epoch < epoch then (s.replayRecord o 0).rerun o.tag epoch else s := by
  unfold State.noticeStep; rw [ho]

/-- A notice for a step that is neither open here nor committed acts on its ledger alone. -/
theorem noticeStep_absent {s : State} {job step : Nat} (epoch : Nat) (hnone : s.jobStep job step = none)
    (huncommitted : s.fb.committed.contains (job, step) = false) : s.noticeStep job step epoch = s := by
  unfold State.noticeStep; rw [hnone]; dsimp only; rw [huncommitted]; rfl

theorem ledgerNoticed_frame (s : State) (g : Ledger) (epoch : Nat) : (s.ledgerNoticed g epoch).sv = s.sv ∧ (s.ledgerNoticed g epoch).fb = s.fb := by
  unfold State.ledgerNoticed; split <;> exact ⟨rfl, rfl⟩

theorem jobStep_of_sv {s t : State} (h : t.sv = s.sv) (job step : Nat) : t.jobStep job step = s.jobStep job step := by
  unfold State.jobStep State.liveSteps State.stepEnded State.queue; rw [h]

theorem ledgerNoticed_ledger {s : State} {job step : Nat} {g : Ledger} (epoch : Nat) (hg : s.ledger job step = some g) :
    (s.ledgerNoticed g epoch).ledger job step = some (if g.epoch < epoch then g.raise epoch s.tm.tick else g) := by
  obtain ⟨rfl, rfl⟩ := ledger_is hg
  unfold State.ledgerNoticed
  split
  · exact ledger_setLedger s (g.raise epoch s.tm.tick)
  · exact hg

/-! ### The clauses of the statement -/

/-- Settles O58, command by command: a drain sent, its route, its arrival, the line that waits too long, and the records of a job step. -/
theorem drainsAndContributionsReachTheirLine : Obligations.DrainsAndContributionsReachTheirLine := by
  unfold Obligations.DrainsAndContributionsReachTheirLine
  refine ⟨fun s id b r hstate hred => ?sent, fun src dst hsrc _ => ⟨?same, fun hdiag => ?diagonal, drainPath_neighbour⟩, fun s n d hd => ?arrival,
    fun s die off q l hl hopen hidle hlive hquiet => ?late, fun s h p hc hversion => ?version,
    fun s h p g hc hversion hjob hok hg => ⟨fun hlow => ?lower, fun heq => ?equal, fun hhigh => ?higher⟩,
    fun s h p o hc hversion hjob hok hg ho => ?openStep, fun s h p g hc hversion hjob hok hg hnone huncommitted => ?ledger⟩
  case sent =>
    exact ⟨_, s.drainOf id (b % 2) r, exec_bankDrainDone hstate hred, stampLines_bankSent_bank s id _ _, rfl, rfl, rfl, rfl, rfl, rfl, rfl, rfl⟩
  case same => rintro rfl; exact drainPath_same src false
  case diagonal =>
    exact ⟨drainPath_hub hdiag, sideDie src, sideDie_lt src, drainPath_sides hdiag, sideDie_neighbour hsrc⟩
  case arrival =>
    refine ⟨exec_drainArrival_stale hd, fun l hl hversion htag hepoch => ⟨exec_drainArrival_fault hd hl hversion htag hepoch,
      exec_drainArrival_overflow hd hl hversion htag hepoch,
      fun hopen hfits => ⟨fun hpart => ?part, fun hfinal hmany => ?final, fun hfinal hlast => ?last⟩⟩⟩
    case part =>
      refine ⟨_, exec_drainArrival_added hd hl hversion htag hepoch hopen hfits (by simp [hpart]), ?_, rfl⟩
      rw [drainTaken_putLine_line n hl]
      simp [Line.drained, hpart, hopen]
    case final =>
      refine ⟨_, exec_drainArrival_added hd hl hversion htag hepoch hopen hfits fun _ => hmany, ?_, rfl⟩
      rw [drainTaken_putLine_line n hl]
      simp [Line.drained, hfinal, hopen, Nat.ne_of_gt hmany]
    case last =>
      exact ⟨_, l.drained d, drainTaken_putLine_line n hl, by simp [Line.drained, hfinal, hlast], by simp [Line.drained, hfinal, hlast], rfl, rfl,
        exec_drainArrival_last hd hl hversion htag hepoch hopen hfits hfinal hlast⟩
  case late =>
    obtain ⟨htick, hline⟩ := lineLate_spec die q hl
    exact ⟨_, _, htick, hline, raise_last _ _ _ _, rfl, rfl, exec_lineTimeout hl hopen hidle hlive hquiet⟩
  case version =>
    rw [exec_contributionRecord hc, exec_replayNotice hc, takeContribution_version hversion, takeReplay_version hversion,
      refuseRecord_version s hversion, scheduleWakes_regs]
    exact ⟨rfl, rfl⟩
  case lower =>
    rw [exec_contributionRecord hc, takeContribution_valid hversion hjob hok, contribution_lower hg _ _ _ hlow, scheduleWakes_regs]
    exact ⟨_, rfl, rfl, rfl⟩
  case equal => rw [exec_contributionRecord hc, takeContribution_valid hversion hjob hok, contribution_equal hg _ _ _ heq]
  case higher =>
    rw [exec_contributionRecord hc, takeContribution_valid hversion hjob hok, contribution_higher hg _ _ _ hhigh]
    rfl
  case openStep =>
    rw [exec_replayNotice hc, takeReplay_without_ledger hversion hjob hok hg, noticeStep_open _ ho]
    refine ⟨fun hold => ?_, fun hnew => ?_⟩
    · rw [if_neg (Nat.not_lt.2 hold), scheduleWakes_of_nextInput rfl]
    · rw [if_pos hnew]
      exact ⟨s.replayRecord o 0, _, raise_last s _ _ _, rfl, rfl, rfl⟩
  case ledger =>
    obtain ⟨hsv, hfb⟩ := ledgerNoticed_frame s g (fld p 0x10 1)
    rw [exec_replayNotice hc, takeReplay_with_ledger hversion hjob hok hg,
      noticeStep_absent _ ((jobStep_of_sv hsv _ _).trans hnone) (by rw [hfb]; exact huncommitted), scheduleWakes_of_nextInput (by rw [hsv])]
    exact ⟨_, rfl, ledgerNoticed_ledger _ hg⟩

end Sys2Proof.Machine
end

section
/-! PROOFS. O10: no command lowers a wear counter (06 R184). Laws/Wear.lean says it of the operations that reach the directory; what leaves the
weights as they are (Laws/Frames*.lean) lowers none. Here stand the commands that are not in it, and the step over all commands. -/

namespace Sys2Proof.Machine

/-- An outcome that leaves the weights as they are lowers no counter. -/
theorem KeptO.worn {K : Nat} {s : State} {o : Host.Outcome State Fault Refusal} (h : KeptO K s o) (hK : K.testBit 13 = false) : KeptW s o :=
  fun t ht => (Worn.refl s).pass (h t ht) hK

/-! ### Commands that wake the module or bind its arrays -/

theorem execArraysReady_worn {s : State} : KeptW s (execArraysReady s) :=
  .next (.ifs (fun _ => .refl s) fun _ => .foldl ((Worn.refl s).of_same rfl rfl) fun _ _ h => State.bindArray_worn h)

theorem execWakeN_worn {s : State} : KeptW s (execWakeN s) := .next (State.wake_worn (.refl s))

theorem execWakeLight_worn {s : State} {port : Nat} : KeptW s (execWakeLight port s) :=
  .next (.cond (State.wake_worn (.refl s)) (.refl s))

theorem execLaneEnergyWake_worn {s : State} {port : Nat} : KeptW s (execLaneEnergyWake port s) :=
  .next (.cond (State.wake_worn (.refl s)) (.refl s))

theorem execFabricWakeFrame_worn {s : State} {port : Nat} : KeptW s (execFabricWakeFrame port s) :=
  .next (.cond (State.wake_worn (.refl s)) (.refl s))

/-! ### Level 2 withdrawn, and page exhaustion -/

theorem slotExpire_worn {s0 s : State} {slot : Nat} (h : Worn s0 s) : Worn s0 (s.slotExpire slot) :=
  h.pass (State.slotExpire_only (K := 5120) (.refl _) (Needs.refl _)) rfl

theorem withdrawL2_worn {s0 s : State} (h : Worn s0 s) : Worn s0 s.withdrawL2 := by
  refine State.sweep_worn (Worn.of_same (Worn.foldl h fun x a hx => ?_) rfl rfl)
  exact .cond (State.fetchFails_worn hx) (slotExpire_worn hx)

theorem execL2reg_worn {s : State} {h : FrameHdr} {payload : Bytes} : KeptW s (execL2reg h payload s) := by
  refine .next (State.withFrame_worn (.refl s) fun x hx => ?_)
  exact .cond (State.respond_worn hx) (.cond (State.respond_worn (withdrawL2_worn hx)) (State.respond_worn (hx.of_same rfl rfl)))

theorem execPageExhaustionTimeout_worn {s : State} {stepTag entry : Nat} : KeptW s (execPageExhaustionTimeout stepTag entry s) := by
  unfold execPageExhaustionTimeout
  split
  · exact .next (.refl s)
  split
  · exact .next (.refl s)
  rename_i x _ _ t _
  have hretry : Worn s (s.advanceTo (t + exhaustTicks)).retryStalled := State.retryStalled_worn (State.advanceTo_worn (.refl s))
  exact .cond (.next (.refl s)) (.next (.cond
    (State.exhaustEntry_worn (.cond (State.restorePageOf_worn hretry) hretry)) (.cond (State.restorePageOf_worn hretry) hretry)))

/-! ### Programs that go on, and the start of a calibration run -/

theorem execProgramResume_worn {s : State} {t : TileId} : KeptW s (execProgramResume t s) := by
  unfold execProgramResume
  split
  · exact .next (.refl s)
  · exact .cond (.next (.refl s)) (.next (.cond (State.beginProgram_worn (.refl s)) (State.modTile_worn (.refl s))))

theorem dropStaleClaim_worn {s0 s : State} {t : TileId} (h : Worn s0 s) : Worn s0 (s.dropStaleClaim t) :=
  h.pass (State.dropStaleClaim_only (K := 16384) (.refl _) (Needs.refl _)) rfl

theorem claimForRun_worn {s0 s : State} {t : TileId} (h : Worn s0 s) : Worn s0 (s.claimForRun t) := by
  unfold State.claimForRun
  split
  · exact .cond h (State.claimSpare_worn h)
  · exact h

theorem queueCalRecords_worn {s0 s : State} {t : TileId} (h : Worn s0 s) : Worn s0 (s.queueCalRecords t) :=
  h.pass (State.queueCalRecords_only (K := 16384) (.refl _) (Needs.refl _)) rfl

theorem startRun_worn {s0 s : State} {t : TileId} {r : CalRequest} (h : Worn s0 s) : Worn s0 (s.startRun t r) :=
  h.pass (State.startRun_only (K := 16384) (.refl _) (Needs.refl _)) rfl

theorem execCalibrationRunStart_worn {s : State} {t : TileId} : KeptW s (execCalibrationRunStart t s) := by
  unfold execCalibrationRunStart
  extract_lets s0 s1
  have hawake : Worn s s0 := .cond (State.wakeForTask_worn (.refl s)) (.refl s)
  have hqueued : Worn s s1 := queueCalRecords_worn (claimForRun_worn (dropStaleClaim_worn hawake))
  refine .cond (.next hawake) ?_
  split
  · exact .next (.cond hqueued (startRun_worn hqueued))
  · exact .next hqueued

/-! ### All commands -/

/-- No command's next state has a wear counter below the one it met. -/
theorem exec_worn (c : Instr) (s : State) : KeptW s (exec c s) :=
  match c with
  | .powerApplied .. => execPowerApplied_worn
  | .powerRemoved => execPowerRemoved_worn
  | .powerFailStop .. => execPowerFailStop_worn
  | .powerFailRecovery => execPowerFailRecovery_worn
  | .resetN .. => execResetN_worn
  | .arraysReady => execArraysReady_worn
  | .firstEverCalibration .. => execFirstEverCalibration_worn
  | .watchdogWrite .. => (execWatchdogWrite_only (Needs.refl _)).worn rfl
  | .watchdogExpiry .. => execWatchdogExpiry_worn
  | .firmwareCrash .. => execFirmwareCrash_worn
  | .lockstepMismatch => execLockstepMismatch_worn
  | .helloTimer .. => (execHelloTimer_only (Needs.refl _)).worn rfl
  | .dispatchTrainingDone .. => (execDispatchTrainingDone_only (Needs.refl _)).worn rfl
  | .dispatchTrainingTimeout .. => (execDispatchTrainingTimeout_only (Needs.refl _)).worn rfl
  | .headerCrcFailure .. => (execHeaderCrcFailure_only (Needs.refl _)).worn rfl
  | .select .. => execSelect_worn
  | .step .. => (execStep_only (Needs.refl _)).worn rfl
  | .reorderTimeout .. => (execReorderTimeout_only (Needs.refl _)).worn rfl
  | .write .. => (execWrite_only (Needs.refl _)).worn rfl
  | .read .. => (execRead_only (Needs.refl _)).worn rfl
  | .doorbellSubmission .. => execDoorbellSubmission_worn
  | .doorbellCompletion .. => execDoorbellCompletion_worn
  | .heartbeat .. => (execHeartbeat_only (Needs.refl _)).worn rfl
  | .parcelFrame .. => execParcelFrame_worn
  | .regwrite .. => execRegwrite_worn
  | .regread .. => (execRegread_only (Needs.refl _)).worn rfl
  | .dlreadStatus .. => execDlreadStatus_worn
  | .dlreadRead .. => execDlreadRead_worn
  | .dlreadClear .. => execDlreadClear_worn
  | .dlreadRestart .. => execDlreadRestart_worn
  | .l2reg .. => execL2reg_worn
  | .l2data .. => (execL2data_only (Needs.refl _)).worn rfl
  | .l2getTimeout .. => execL2getTimeout_worn
  | .intakeStaleTimeout .. => (execIntakeStaleTimeout_only (Needs.refl _)).worn rfl
  | .leaseExpiry => (execLeaseExpiry_only (Needs.refl _)).worn rfl
  | .orphanSlotMove => execOrphanSlotMove_worn
  | .createWindow .. => (execCreateWindow_only (Needs.refl _)).worn rfl
  | .deleteWindow .. => (execDeleteWindow_only (Needs.refl _)).worn rfl
  | .createQueue .. => (execCreateQueue_only (Needs.refl _)).worn rfl
  | .deleteQueue .. => execDeleteQueue_worn
  | .setEventRing .. => (execSetEventRing_only (Needs.refl _)).worn rfl
  | .createContext .. => (execCreateContext_only (Needs.refl _)).worn rfl
  | .changeContext .. => (execChangeContext_only (Needs.refl _)).worn rfl
  | .discardContext .. => execDiscardContext_worn
  | .loadModel .. => execLoadModel_worn
  | .unloadModel .. => execUnloadModel_worn
  | .loadAdapter .. => (execLoadAdapter_only (Needs.refl _)).worn rfl
  | .unloadAdapter .. => execUnloadAdapter_worn
  | .setRegions .. => (execSetRegions_only (Needs.refl _)).worn rfl
  | .setServing .. => (execSetServing_only (Needs.refl _)).worn rfl
  | .releaseLease .. => execReleaseLease_worn
  | .setFabric .. => (execSetFabric_only (Needs.refl _)).worn rfl
  | .setJobTable .. => (execSetJobTable_only (Needs.refl _)).worn rfl
  | .releaseJob .. => execReleaseJob_worn
  | .resetPort .. => (execResetPort_only (Needs.refl _)).worn rfl
  | .readPorts .. => (execReadPorts_only (Needs.refl _)).worn rfl
  | .loadTime .. => execLoadTime_worn
  | .requestCalibration .. => (execRequestCalibration_only (Needs.refl _)).worn rfl
  | .readStorm .. => (execReadStorm_only (Needs.refl _)).worn rfl
  | .setPowerState .. => execSetPowerState_worn
  | .powerEntryTimeout => (execPowerEntryTimeout_only (Needs.refl _)).worn rfl
  | .attest .. => (execAttest_only (Needs.refl _)).worn rfl
  | .readIdentity .. => (execReadIdentity_only (Needs.refl _)).worn rfl
  | .updateBegin .. => (execUpdateBegin_only (Needs.refl _)).worn rfl
  | .updateData .. => (execUpdateData_only (Needs.refl _)).worn rfl
  | .updateCommit .. => (execUpdateCommit_only (Needs.refl _)).worn rfl
  | .resetModule .. => execResetModule_worn
  | .dump .. => (execDump_only (Needs.refl _)).worn rfl
  | .sortingRound .. => execSortingRound_worn
  | .prefixMatchDone .. => execPrefixMatchDone_worn
  | .pageExhaustionTimeout .. => execPageExhaustionTimeout_worn
  | .listFetchDone .. => (execListFetchDone_only (Needs.refl _)).worn rfl
  | .fireLatch .. => execFireLatch_worn
  | .converterResult .. => execConverterResult_worn
  | .postmarkComparison .. => execPostmarkComparison_worn
  | .fireAdd .. => execFireAdd_worn
  | .outlierAdd .. => execOutlierAdd_worn
  | .fallbackJobDone .. => execFallbackJobDone_worn
  | .spotComparisonDone .. => execSpotComparisonDone_worn
  | .adapterContribution .. => execAdapterContribution_worn
  | .bankDrainDone .. => (execBankDrainDone_only (Needs.refl _)).worn rfl
  | .drainArrival .. => execDrainArrival_worn
  | .lineTimeout .. => execLineTimeout_worn
  | .stepCommit .. => execStepCommit_worn
  | .stormHandling => (execStormHandling_only (Needs.refl _)).worn rfl
  | .stormRecheck => (execStormRecheck_only (Needs.refl _)).worn rfl
  | .contributionRecord .. => execContributionRecord_worn
  | .replayNotice .. => execReplayNotice_worn
  | .activationRecord .. => execActivationRecord_worn
  | .activationHoldTimeout .. => (execActivationHoldTimeout_only (Needs.refl _)).worn rfl
  | .moduleDownNotice .. => execModuleDownNotice_worn
  | .jobAbortNotice .. => execJobAbortNotice_worn
  | .jobWaitTimeout .. => (execJobWaitTimeout_only (Needs.refl _)).worn rfl
  | .courierFrameRoute .. => execCourierFrameRoute_worn
  | .courierParcelFrame .. => execCourierParcelFrame_worn
  | .routeRecompute .. => (execRouteRecompute_only (Needs.refl _)).worn rfl
  | .flitReceive .. => (execFlitReceive_only (Needs.refl _)).worn rfl
  | .flitResendTimeout .. => (execFlitResendTimeout_only (Needs.refl _)).worn rfl
  | .bridgeFlitTransfer .. => execBridgeFlitTransfer_worn
  | .portDown .. => (execPortDown_only (Needs.refl _)).worn rfl
  | .retrainDone .. => (execRetrainDone_only (Needs.refl _)).worn rfl
  | .retrainTimeout .. => (execRetrainTimeout_only (Needs.refl _)).worn rfl
  | .advertTimer .. => (execAdvertTimer_only (Needs.refl _)).worn rfl
  | .advertReceived .. => (execAdvertReceived_only (Needs.refl _)).worn rfl
  | .detectTimeout port => (execDetectTimeout_only (port := port) (Needs.refl _)).worn rfl
  | .trainingDone .. => (execTrainingDone_only (Needs.refl _)).worn rfl
  | .trainingTimeout .. => (execTrainingTimeout_only (Needs.refl _)).worn rfl
  | .keepaliveTimer .. => (execKeepaliveTimer_only (Needs.refl _)).worn rfl
  | .timeExchangeStart => (execTimeExchangeStart_only (Needs.refl _)).worn rfl
  | .timeSync .. => (execTimeSync_only (Needs.refl _)).worn rfl
  | .timeDelayRequest .. => (execTimeDelayRequest_only (Needs.refl _)).worn rfl
  | .timeDelayResponse .. => execTimeDelayResponse_worn
  | .alignmentLost => (execAlignmentLost_only (Needs.refl _)).worn rfl
  | .stepBoundary => (execStepBoundary_only (Needs.refl _)).worn rfl
  | .fabricWakeFrame .. => execFabricWakeFrame_worn
  | .laneEnergyWake .. => execLaneEnergyWake_worn
  | .wakeLight .. => execWakeLight_worn
  | .wakeN => execWakeN_worn
  | .autoHold => execAutoHold_worn
  | .governorTick .. => (execGovernorTick_only (Needs.refl _)).worn rfl
  | .railCurrentGuard .. => (execRailCurrentGuard_only (Needs.refl _)).worn rfl
  | .sensorSample .. => execSensorSample_worn
  | .throttleStepTimer => (execThrottleStepTimer_only (Needs.refl _)).worn rfl
  | .interpolationCheck .. => (execInterpolationCheck_only (Needs.refl _)).worn rfl
  | .parcelAcceptance .. => execParcelAcceptance_worn
  | .parcelIncompleteTimeout .. => execParcelIncompleteTimeout_worn
  | .recordBuilt .. => execRecordBuilt_worn
  | .programStart .. => execProgramStart_worn
  | .programRowEnd .. => execProgramRowEnd_worn
  | .programResume .. => execProgramResume_worn
  | .programmingDeferred .. => (execProgrammingDeferred_only (Needs.refl _)).worn rfl
  | .programComplete .. => execProgramComplete_worn
  | .settlingDone .. => execSettlingDone_worn
  | .rewriteStart .. => execRewriteStart_worn
  | .directRewriteStart .. => execDirectRewriteStart_worn
  | .verifyScanDue .. => (execVerifyScanDue_only (Needs.refl _)).worn rfl
  | .verifyScanDone .. => execVerifyScanDone_worn
  | .driftOutOfService .. => execDriftOutOfService_worn
  | .redigest .. => execRedigest_worn
  | .calibrationAgeTimer .. => (execCalibrationAgeTimer_only (Needs.refl _)).worn rfl
  | .calibrationExpiry .. => (execCalibrationExpiry_only (Needs.refl _)).worn rfl
  | .calibrationRunStart .. => execCalibrationRunStart_worn
  | .calibrationFitDone .. => execCalibrationFitDone_worn
  | .traceTimer => (execTraceTimer_only (Needs.refl _)).worn rfl
  | .traceDone .. => (execTraceDone_only (Needs.refl _)).worn rfl
  | .referenceUntraced => (execReferenceUntraced_only (Needs.refl _)).worn rfl
  | .heldExpiry .. => execHeldExpiry_worn
  | .inFieldTestDue .. => (execInFieldTestDue_only (Needs.refl _)).worn rfl
  | .inFieldTestStart .. => (execInFieldTestStart_only (Needs.refl _)).worn rfl
  | .inFieldTestForced .. => (execInFieldTestForced_only (Needs.refl _)).worn rfl
  | .inFieldTestDone .. => execInFieldTestDone_worn
  | .eccScrub .. => execEccScrub_worn
  | .sealScan .. => execSealScan_worn
  | .sealOpenTimeout => (execSealOpenTimeout_only (Needs.refl _)).worn rfl
  | .sealOpen .. => execSealOpen_worn
  | .sealCommit .. => execSealCommit_worn
  | .traceNow .. => execTraceNow_worn
  | .lbSelWrite .. => execLbSelWrite_worn
  | .letterboxSnapshotDone .. => (execLetterboxSnapshotDone_only (Needs.refl _)).worn rfl
  | .evrNewestWrite .. => execEvrNewestWrite_worn
  | .dlCtlClear .. => execDlCtlClear_worn
  | .dlCtlRestart .. => execDlCtlRestart_worn
  | .dlWinWrite .. => execDlWinWrite_worn
  | .intakeCtlWrite .. => execIntakeCtlWrite_worn
  | .compHeadWrite .. => execCompHeadWrite_worn
  | .evtHeadWrite .. => (execEvtHeadWrite_only (Needs.refl _)).worn rfl
  | .sadcStart .. => execSadcStart_worn
  | .sadcStop .. => execSadcStop_worn
  | .sadcGo .. => execSadcGo_worn
  | .sadcSettled .. => (execSadcSettled_only (Needs.refl _)).worn rfl
  | .sadcConversionDone .. => (execSadcConversionDone_only (Needs.refl _)).worn rfl
  | .registerWrite .. => execRegisterWrite_worn
  | .i3cDynamicAddress .. => (execI3cDynamicAddress_only (Needs.refl _)).worn rfl
  | .i3cPrivateWrite .. => execI3cPrivateWrite_worn
  | .i3cPrivateRead .. => (execI3cPrivateRead_only (Needs.refl _)).worn rfl
  | .extest .. => (execExtest_only (Needs.refl _)).worn rfl
  | .extestPulse .. => (execExtestPulse_only (Needs.refl _)).worn rfl
  | .extestTrain .. => (execExtestTrain_only (Needs.refl _)).worn rfl
  | .samplePreload .. => (execSamplePreload_only (Needs.refl _)).worn rfl
  | .clamp => (execClamp_only (Needs.refl _)).worn rfl
  | .highz => (execHighz_only (Needs.refl _)).worn rfl
  | .idcode => (execIdcode_only (Needs.refl _)).worn rfl
  | .bypass .. => (execBypass_only (Needs.refl _)).worn rfl
  | .sysclkLoss => execSysclkLoss_worn
  | .laneLock .. => (execLaneLock_only (Needs.refl _)).worn rfl
  | .trstN => (execTrstN_only (Needs.refl _)).worn rfl
  | .reservedOpcode .. => (execReservedOpcode_only (Needs.refl _)).worn rfl
  | .reservedFrameType .. => (execReservedFrameType_only (Needs.refl _)).worn rfl
  | .attentionResult .. => execAttentionResult_worn
  | .heldPageWritten .. => execHeldPageWritten_worn
  | .compactionDone .. => (execCompactionDone_only (Needs.refl _)).worn rfl

/-- Settles O10: each array's counter, by `exec_worn`. -/
theorem noWearCounterIsEverLowered : Obligations.NoWearCounterIsEverLowered := by
  unfold Obligations.NoWearCounterIsEverLowered
  exact fun c s t a hexec => exec_worn c s t hexec a

end Sys2Proof.Machine
end

section
/-! PROOFS. O54: a program from its erase to the end of its settling: the driver it takes, its rows, its pauses, its repeat, and the array or
spare that it leaves in service (06 R180-R185, R197, R203). The driver taken and the place made for a rewrite stand with O55. -/

namespace Sys2Proof.Machine

/-! ### The cycle that a program counts (06 R184, R185) -/

theorem programBegun_wear (s : State) (id : TileId) (p : Program) :
    ((s.programBegun id p).dir (id.array p.arr)).wear = (s.dir (id.array p.arr)).wear + 1 :=
  congrArg DirEntry.wear (dir_mod s (id.array p.arr) p.entryBegun)

theorem beginProgram_wear (s : State) (id : TileId) (p : Program) :
    ((s.beginProgram id p).dir (id.array p.arr)).wear = (s.dir (id.array p.arr)).wear + 1 := by
  rw [dir_of_wt (beginProgram_parts s id p).2, programBegun_wear]

/-- The 28,000th cycle of an array is recorded. -/
theorem beginProgram_warns {s : State} {id : TileId} {p : Program} (h : (s.dir (id.array p.arr)).wear + 1 = 28000) :
    ∃ r, (s.beginProgram id p).ev.held.getLast? = some r ∧ r.code = 0x000E := by
  have heq : s.beginProgram id p = (s.programBegun id p).raise 0x000E 6 [locOf (id.array p.arr), 28000] :=
    if_pos ((programBegun_wear s id p).trans h)
  rw [heq]
  exact ⟨_, raise_last _ _ _ _, rfl⟩

/-! ### The driver taken from the queue (06 R182, R203) -/

/-- The state from which `takeDriver` begins a program: its array's run is discarded, what the driver did is put aside, the queue loses it. -/
def State.driverLeft (s : State) (id : TileId) (p : Program) : State :=
  (if (s.tile id).run.any fun r => r.arr == p.arr then s.discardRun id true else s).modTile id fun y =>
    { y with progQueue := y.progQueue.erase p, preempted := y.prog.toList ++ y.preempted }

theorem takeDriver_eq (s : State) (id : TileId) (p : Program) : s.takeDriver id p = (s.driverLeft id p).beginProgram id p := rfl

theorem driverLeft_dir (s : State) (id : TileId) (p : Program) (a : ArrId) : (s.driverLeft id p).dir a = s.dir a := by
  have hrun : (if (s.tile id).run.any fun r => r.arr == p.arr then s.discardRun id true else s).dir a = s.dir a := by
    split
    · exact discardRun_dir s id true a
    · rfl
  exact hrun

theorem driverLeft_queue (s : State) (id : TileId) (p : Program) :
    ((s.driverLeft id p).tile id).progQueue = (s.tile id).progQueue.erase p := by
  unfold State.driverLeft
  rw [tile_mod]
  refine congrArg (List.erase · p) ?_
  split
  · obtain ⟨run, queue, stand, claim, htile⟩ := discardRun_tile s id true
    rw [htile]
  · rfl

theorem takeDriver_queue (s : State) (id : TileId) (p : Program) :
    ((s.takeDriver id p).tile id).progQueue = (s.tile id).progQueue.erase p := by
  rw [takeDriver_eq, beginProgram_tile, ← driverLeft_queue]

theorem takeDriver_wear (s : State) (id : TileId) (p : Program) :
    ((s.takeDriver id p).dir (id.array p.arr)).wear = (s.dir (id.array p.arr)).wear + 1 := by
  rw [takeDriver_eq, beginProgram_wear, driverLeft_dir]

theorem takeDriver_warns {s : State} {id : TileId} {p : Program} (h : (s.dir (id.array p.arr)).wear + 1 = 28000) :
    ∃ r, (s.takeDriver id p).ev.held.getLast? = some r ∧ r.code = 0x000E :=
  beginProgram_warns (s := s.driverLeft id p) (by rw [driverLeft_dir]; exact h)

/-! ### PROGRAM_START -/

/-- The state with a place for a program on its die: one that comes before loads, on a tile without a place, gets one made. -/
def State.placedFor (s : State) (id : TileId) (p : Program) : State :=
  if !s.urgent (s.tile id) p || (s.tile id).driving then s else s.rewritePlace id.die

theorem placedFor_frame (s : State) (id : TileId) (p : Program) : (s.placedFor id p).tm = s.tm ∧ (s.placedFor id p).wt = s.wt ∧
    (s.placedFor id p).tile id = s.tile id := by
  unfold State.placedFor
  split
  · exact ⟨rfl, rfl, rfl⟩
  · rename_i hplace
    rw [Bool.or_eq_true, not_or] at hplace
    obtain ⟨htm, hwt⟩ := rewritePlace_frame s id.die
    exact ⟨htm, hwt, rewritePlace_tile (Bool.eq_false_of_not_eq_true hplace.2) id.die⟩

/-- A load takes the place that there is. -/
theorem placedFor_of_load {s : State} {id : TileId} {p : Program} (h : s.urgent (s.tile id) p = false) : s.placedFor id p = s := by
  unfold State.placedFor
  rw [h]
  rfl

section Start

variable {s : State} {id : TileId} {p : Program} (hnext : s.nextProgram (s.tile id) = some p) (hrun : s.inRun = true)
  (hen : s.enabled id = true) (hdriver : (s.tile id).prog = none ∨ (s.urgent (s.tile id) p = true ∧ s.loadIdles (s.tile id) = true))
  (hseal : s.sealing = false) (hdrained : s.isDrained = false) (hwindow : s.progWindow id = true)

include hnext hrun hen hdriver hseal hdrained hwindow

theorem exec_programStart : exec (.programStart id) s =
    if !s.urgent (s.tile id) p && 4096 ≤ (s.placedFor id p).driversOf id.die then .next s else .next ((s.placedFor id p).takeDriver id p) := by
  have hgoes : ¬ (!s.inRun || !s.enabled id || s.sealing || s.isDrained || !s.progWindow id ||
      ((s.tile id).prog.isSome && (!s.urgent (s.tile id) p || !s.loadIdles (s.tile id)))) = true := by
    rw [hrun, hen, hseal, hdrained, hwindow]
    rcases hdriver with hfree | ⟨hurgent, hidles⟩
    · simp [hfree]
    · simp [hurgent, hidles]
  change execProgramStart id s = _
  unfold execProgramStart
  dsimp only
  rw [hnext]
  exact if_neg hgoes

theorem programStart_waits (hload : s.urgent (s.tile id) p = false) (hfull : 4096 ≤ s.driversOf id.die) :
    exec (.programStart id) s = .next s := by
  rw [exec_programStart hnext hrun hen hdriver hseal hdrained hwindow, placedFor_of_load hload]
  exact if_pos (by simp [hload, hfull])

theorem programStart_takes (hplace : s.urgent (s.tile id) p = true ∨ s.driversOf id.die < 4096) :
    exec (.programStart id) s = .next ((s.placedFor id p).takeDriver id p) := by
  rw [exec_programStart hnext hrun hen hdriver hseal hdrained hwindow]
  refine if_neg ?_
  cases hurgent : s.urgent (s.tile id) p with
  | true => simp
  | false =>
    rw [placedFor_of_load hurgent]
    have hroom : s.driversOf id.die < 4096 := hplace.resolve_left (by simp [hurgent])
    simp [hroom]

end Start

/-! ### PROGRAM_ROW_END (06 R181, R203) -/

/-- The row that comes next: the first after the erase. -/
def Program.nextRow (p : Program) : Nat :=
  match p.phase with
  | .erase => 0
  | _ => p.row + 1

/-- A program after its erase or a row: the row is counted, and outside the temperature window it pauses. -/
def State.rowEnded (s : State) (id : TileId) (p : Program) : Program :=
  { p with phase := .rows, row := p.nextRow, pausedAt := if p.nextRow < 256 ∧ !s.progWindow id then some s.tm.tick else none }

theorem nextRow_eq (p : Program) : p.nextRow = if p.phase = .erase then 0 else p.row + 1 := by
  unfold Program.nextRow
  cases p.phase <;> rfl

/-- The state with a row counted. -/
def State.rowCounted (s : State) (id : TileId) (p : Program) : State := s.modTile id fun x => { x with prog := some (s.rowEnded id p) }

theorem rowCounted_tile (s : State) (id : TileId) (p : Program) :
    (s.rowCounted id p).tile id = { s.tile id with prog := some (s.rowEnded id p) } := tile_mod_of_id rfl

theorem exec_programRowEnd {s : State} {id : TileId} {p : Program} (hprog : (s.tile id).prog = some p) (hrun : s.inRun = true)
    (hgoing : p.pausedAt = none) (hplaced : p.displaced = false) (htest : (s.tile id).test.running = false) (hrow : p.row < 256) :
    exec (.programRowEnd id) s = .next ((s.rowCounted id p).yieldLoad id (s.rowEnded id p)) := by
  change execProgramRowEnd id s = _
  unfold execProgramRowEnd
  rw [hprog]
  exact if_neg (by simp [hrun, hgoing, hplaced, htest, hrow])

theorem rowCounted_urgentProgram (s : State) (id : TileId) (p : Program) :
    (s.rowCounted id p).urgentProgram ((s.rowCounted id p).tile id) = s.urgentProgram (s.tile id) := by
  rw [rowCounted_tile]
  rfl

/-- Without a rewrite that waits, or one that may take the driver now, the program keeps it. -/
theorem rowCounted_keeps {s : State} {id : TileId} {p : Program} (h : s.urgentProgram (s.tile id) = none ∨
    s.isLoad id (s.rowEnded id p) = false ∨ s.progWindow id = false ∨ s.sealing = true) :
    (s.rowCounted id p).yieldLoad id (s.rowEnded id p) = s.rowCounted id p := by
  unfold State.yieldLoad
  rw [rowCounted_urgentProgram]
  cases hurgent : s.urgentProgram (s.tile id) with
  | none => rfl
  | some q =>
    refine if_neg fun ⟨(hload : s.isLoad id (s.rowEnded id p) = true), (hwindow : s.progWindow id = true), hseal⟩ => ?_
    have hseal' : (!s.sealing) = true := hseal
    rcases h with h | h | h | h
    · rw [hurgent] at h; cases h
    · rw [hload] at h; cases h
    · rw [hwindow] at h; cases h
    · rw [h] at hseal'; cases hseal'

theorem rowCounted_yields {s : State} {id : TileId} {p q : Program} (hurgent : s.urgentProgram (s.tile id) = some q)
    (hload : s.isLoad id (s.rowEnded id p) = true) (hwindow : s.progWindow id = true) (hseal : s.sealing = false) :
    (s.rowCounted id p).yieldLoad id (s.rowEnded id p) = (s.rowCounted id p).takeDriver id q := by
  have hseal' : (!(s.rowCounted id p).sealing) = true := congrArg (!·) hseal
  unfold State.yieldLoad
  rw [rowCounted_urgentProgram, hurgent]
  exact if_pos ⟨hload, hwindow, hseal'⟩

/-! ### PROGRAM_RESUME and PROGRAMMING_DEFERRED (06 R181) -/

theorem exec_programResume {s : State} {id : TileId} {p : Program} (hprog : (s.tile id).prog = some p) (hrun : s.inRun = true)
    (hwarm : (p.pausedAt ≠ none ∧ s.resumeWindow id = true) ∨ (p.pausedAt = none ∧ p.displaced = true ∧ s.progWindow id = true))
    (hroom : p.displaced = true → s.driversOf id.die < 4096) : exec (.programResume id) s = .next (s.goOn id p) := by
  have hgoes : ¬ (!s.inRun || !(if p.pausedAt.isSome then s.resumeWindow id else s.progWindow id) ||
      (p.pausedAt.isNone && !p.displaced) || (p.displaced && 4096 ≤ s.driversOf id.die)) = true := by
    have hplace : (p.displaced && decide (4096 ≤ s.driversOf id.die)) = false := by
      cases hd : p.displaced with
      | false => rfl
      | true => simp [hroom hd]
    rw [hrun, hplace]
    rcases hwarm with ⟨hpaused, hresume⟩ | ⟨hpaused, hdisplaced, hwindow⟩
    · obtain ⟨n, hn⟩ := Option.ne_none_iff_exists'.1 hpaused
      simp [hn, hresume]
    · simp [hpaused, hdisplaced, hwindow]
  change execProgramResume id s = _
  unfold execProgramResume
  rw [hprog]
  exact if_neg hgoes

/-- The record of a pause that has lasted 1 s. -/
theorem exec_programmingDeferred {s : State} {id : TileId} {p : Program} {n : Nat} (hprog : (s.tile id).prog = some p)
    (hpaused : p.pausedAt = some n) (hfirst : p.deferred = false) (hrun : s.inRun = true) : exec (.programmingDeferred id) s =
      .next (((s.advanceTo (n + ticksPerSec)).modTile id fun x => { x with prog := some { p with deferred := true } }).raise 0x000D id.die
        [id.die + 256 * unitOf id]) := by
  change execProgrammingDeferred id s = _
  unfold execProgrammingDeferred
  rw [hprog]
  dsimp only
  rw [hpaused]
  exact if_neg (by simp [hfirst, hrun])

/-! ### PROGRAM_COMPLETE (06 R180, R200) -/

/-- The state with a verified program's codes in the cells, before an entry that waited for it goes on. -/
def State.verified (s : State) (id : TileId) (p : Program) : State :=
  ((s.active.driverFree id).modTile id fun x => { x with settling := x.settling ++ [(p.arr, p.source, p.calRecord)] }).programWritten id p

section Complete

variable {s : State} {id : TileId} {p : Program} (hprog : (s.tile id).prog = some p) (hrun : s.inRun = true) (hrow : p.row = 256)
  (hplaced : p.displaced = false)

include hprog hrun hrow hplaced

theorem exec_programComplete (ok : Bool) : exec (.programComplete id ok) s =
    if ok then .next (s.verified id p).tryEntry
    else if p.cycles < 2 then .next (s.repeatProgram id p)
    else .next (s.active.programFails id p) := by
  change execProgramComplete id ok s = _
  unfold execProgramComplete
  rw [hprog]
  exact if_neg (by simp [hrun, hrow, hplaced])

theorem programComplete_verified : exec (.programComplete id true) s = .next (s.verified id p).tryEntry :=
  exec_programComplete hprog hrun hrow hplaced true

theorem programComplete_repeats (hfirst : p.cycles < 2) : exec (.programComplete id false) s = .next (s.repeatProgram id p) :=
  (exec_programComplete hprog hrun hrow hplaced false).trans (if_pos hfirst)

theorem programComplete_fails (hsecond : 2 ≤ p.cycles) : exec (.programComplete id false) s = .next (s.active.programFails id p) :=
  (exec_programComplete hprog hrun hrow hplaced false).trans (if_neg (Nat.not_lt.2 hsecond))

end Complete

/-- The driver goes on with what it put aside, as it stands inside the temperature window. -/
theorem driverFree_tile (s : State) (id : TileId) : let x := (s.driverFree id).tile id
    x.settling = (s.tile id).settling ∧ x.preempted = (s.tile id).preempted.tail ∧ ((s.tile id).preempted = [] → x.prog = none) ∧
    ∀ q, (s.tile id).preempted.head? = some q → s.progWindow id = true → x.prog = some q := by
  unfold State.driverFree
  dsimp only
  rw [tile_mod]
  cases hpre : (s.tile id).preempted with
  | nil => exact ⟨rfl, rfl, fun _ => rfl, fun q hq => by cases hq⟩
  | cons q rest =>
    refine ⟨rfl, rfl, fun h => (List.cons_ne_nil _ _ h).elim, fun q' hq hwindow => ?_⟩
    cases hq
    exact congrArg some (if_neg (by simp [hwindow]))

/-- What a verified program leaves: the tile as `driverFree` leaves it, with one array more that settles. -/
theorem verified_tile (s : State) (id : TileId) (p : Program) : (s.verified id p).tile id =
    { (s.driverFree id).tile id with settling := (s.tile id).settling ++ [(p.arr, p.source, p.calRecord)] } := by
  have hmod : ((s.active.driverFree id).modTile id fun x => { x with settling := x.settling ++ [(p.arr, p.source, p.calRecord)] }).tile id =
      { (s.driverFree id).tile id with settling := ((s.driverFree id).tile id).settling ++ [(p.arr, p.source, p.calRecord)] } := tile_mod_of_id rfl
  rw [(driverFree_tile s id).1] at hmod
  exact hmod

theorem verified_cells {s : State} {id : TileId} {p : Program} {r : CodeRecord} (h : p.codes = some r) :
    (s.verified id p).cells (id.array p.arr) = some r := by
  unfold State.verified State.programWritten State.cells setKey
  dsimp only
  rw [State.modDir_wt_cells, find_putBy _ _ _ (by simp), h]
  rfl

theorem verified_wear (s : State) (id : TileId) (p : Program) :
    ((s.verified id p).dir (id.array p.arr)).wear = (s.dir (id.array p.arr)).wear := by
  unfold State.verified State.programWritten
  rw [dir_mod]
  rfl

theorem repeatProgram_inside {s : State} {id : TileId} (h : s.progWindow id = true) (p : Program) :
    s.repeatProgram id p = s.beginProgram id p := if_pos h

theorem repeatProgram_outside {s : State} {id : TileId} (h : s.progWindow id = false) (p : Program) : s.repeatProgram id p =
    s.modTile id fun x => { x with prog := some { p with phase := .waiting, row := 0, pausedAt := some s.tm.tick } } :=
  if_neg (by simp [h])

/-- A program that failed twice is a permanent fault of cause 4. -/
theorem programFails_drains {s : State} (h : s.isDrained = false) (id : TileId) (p : Program) :
    (s.active.programFails id p).bt.drained = some 4 ∧ (s.active.programFails id p).holdsP1 .drained := by
  obtain ⟨e, hbt, -, -, -, -, -, hholds⟩ := drain_spec (s.active.driverFree id) 4 0 id.die (locOf (id.array p.arr)) h
  exact ⟨congrArg Boot.drained hbt, hholds⟩

/-! ### SETTLING_DONE (06 R185, R197, Tables 6.5 and 6.7) -/

/-- The state with the first settled array of a tile taken from its list. -/
def State.settledTaken (s : State) (id : TileId) (k : Nat) (c : Bool) (rest : List (Nat × Nat × Bool)) : State :=
  s.modTile id fun x => { x with
    settling := rest, calQueue := x.calQueue.map fun r => if c = true ∧ r.arr = k then { r with programmed := true } else r }

theorem exec_settlingDone {s : State} {id : TileId} {k src : Nat} {c : Bool} {rest : List (Nat × Nat × Bool)}
    (hfirst : (s.tile id).settling = (k, src, c) :: rest) (hrun : s.inRun = true) : exec (.settlingDone id) s =
      .next (if k = 16 then ((s.settledTaken id k c rest).spareSettled id src c).retireSpare id
        else (s.settledTaken id k c rest).arraySettled id k).tryEntry := by
  change execSettlingDone id s = _
  unfold execSettlingDone
  rw [hfirst]
  dsimp only
  rw [if_neg (by simp [hrun])]
  by_cases hk : k = 16
  · simp only [if_pos hk]; rfl
  · simp only [if_neg hk]; rfl

@[simp] theorem settledTaken_dir (s : State) (id : TileId) (k : Nat) (c : Bool) (rest : List (Nat × Nat × Bool)) (a : ArrId) :
    (s.settledTaken id k c rest).dir a = s.dir a := rfl

@[simp] theorem settledTaken_record (s : State) (id : TileId) (k : Nat) (c : Bool) (rest : List (Nat × Nat × Bool)) (a : ArrId) :
    (s.settledTaken id k c rest).record a = s.record a := rfl

theorem settledTaken_claim (s : State) (id : TileId) (k : Nat) (c : Bool) (rest : List (Nat × Nat × Bool)) :
    ((s.settledTaken id k c rest).tile id).claim = (s.tile id).claim := by
  rw [State.settledTaken, tile_mod]

theorem settledTaken_holdsCodesOf (s : State) (id : TileId) (k j : Nat) (c : Bool) (rest : List (Nat × Nat × Bool)) :
    (s.settledTaken id k c rest).holdsCodesOf id j = s.holdsCodesOf id j := rfl

theorem zeroDrift_drift (s : State) (a : ArrId) : (s.zeroDrift a).drift a = freshDrift := lookupD_set _ _ _ _

@[simp] theorem zeroDrift_dir (s : State) (a b : ArrId) : (s.zeroDrift a).dir b = s.dir b := rfl

@[simp] theorem zeroDrift_record (s : State) (a b : ArrId) : (s.zeroDrift a).record b = s.record b := rfl

theorem zeroDrift_holdsCodesOf (s : State) (a : ArrId) (id : TileId) (k : Nat) : (s.zeroDrift a).holdsCodesOf id k = s.holdsCodesOf id k := rfl

theorem zeroDrift_claim (s : State) (a : ArrId) (id : TileId) : ((s.zeroDrift a).tile id).claim = (s.tile id).claim :=
  zeroDrift_keep Tile.claim (fun _ _ => rfl) (fun _ _ => rfl) (fun _ _ => rfl) s a id

/-- A settled array in service with a zero drift table, before it is asked whether its record is still resident. -/
def State.settledInService (s : State) (a : ArrId) : State := (s.modDir a fun d => { d with astate := .inService }).zeroDrift a

theorem settledInService_spec (s : State) (a : ArrId) : ((s.settledInService a).dir a).astate = .inService ∧
    (s.settledInService a).drift a = freshDrift ∧ (s.settledInService a).record a = s.record a := by
  unfold State.settledInService
  rw [zeroDrift_dir, dir_mod, zeroDrift_record]
  exact ⟨rfl, zeroDrift_drift _ a, rfl⟩

theorem arraySettled_settling {s : State} {id : TileId} {k : Nat} (hs : (s.dir (id.array k)).astate = .settling)
    (hwear : (s.dir (id.array k)).wear < 30000) :
    s.arraySettled id k = ((s.settledInService (id.array k)).recordLost (id.array k)).askIfUnsound (id.array k) := by
  unfold State.arraySettled
  extract_lets a s1
  have hunworn : s1 = s := if_neg (Nat.not_le.2 hwear)
  have hsettling : (s1.dir a).astate = .settling := by rw [hunworn]; exact hs
  rw [hsettling, hunworn]
  rfl

/-- The spare READY with the codes of array `k`, and named by them. -/
def State.spareNamed (s : State) (id : TileId) (k : Nat) : State :=
  (s.modDir (id.array 16) fun d => { d with astate := .inService, spareTag := some k }).modTile id fun x => { x with spare := .ready k }

theorem spareNamed_tile (s : State) (id : TileId) (k : Nat) : (s.spareNamed id k).tile id = { s.tile id with spare := .ready k } :=
  tile_mod_of_id (s := s.modDir (id.array 16) fun d => { d with astate := .inService, spareTag := some k })
    (f := fun x => { x with spare := .ready k }) rfl

theorem spareNamed_dir (s : State) (id : TileId) (k : Nat) :
    (s.spareNamed id k).dir (id.array 16) = { s.dir (id.array 16) with astate := .inService, spareTag := some k } :=
  dir_mod s (id.array 16) fun d => { d with astate := .inService, spareTag := some k }

theorem spareNamed_dir_ne (s : State) (id : TileId) (k : Nat) {a : ArrId} (h : a ≠ id.array 16) : (s.spareNamed id k).dir a = s.dir a :=
  dir_mod_ne s (id.array 16) a (fun d => { d with astate := .inService, spareTag := some k }) h

/-- The spare holds the codes that it held: the records and its cells are as they were, and no array is FREE that was not. -/
theorem spareNamed_holdsCodesOf {s : State} {id : TileId} {k : Nat} (h : s.holdsCodesOf id k = true) :
    (s.spareNamed id k).holdsCodesOf id k = true := by
  unfold State.holdsCodesOf at h ⊢
  rw [show (s.spareNamed id k).record (id.array k) = s.record (id.array k) from rfl]
  cases hrecord : s.record (id.array k) with
  | some r => rw [hrecord] at h; exact h
  | none =>
    rw [hrecord] at h
    by_cases hk : k = 16
    · subst hk
      rw [spareNamed_dir]
      rfl
    · rw [spareNamed_dir_ne s id k fun e => hk (congrArg ArrId.arr e)]
      exact h

/-- A settled spare without a claim stays READY with the codes of its array. -/
theorem spareSettled_unclaimed {s : State} {id : TileId} {k : Nat} (hclaim : (s.tile id).claim = none) (hcodes : s.holdsCodesOf id k = true) :
    s.spareSettled id k false = (s.zeroDrift (id.array 16)).spareNamed id k := by
  unfold State.spareSettled
  extract_lets sp s1 s2
  have hnamed : s2 = (s.zeroDrift (id.array 16)).spareNamed id k := rfl
  have hunclaimed : (s2.tile id).claim = none := by rw [hnamed, spareNamed_tile]; exact (zeroDrift_claim s _ id).trans hclaim
  have hholds : s2.holdsCodesOf id k = true := by
    rw [hnamed]
    exact spareNamed_holdsCodesOf ((zeroDrift_holdsCodesOf s _ id k).trans hcodes)
  rw [hunclaimed]
  exact if_pos hholds

theorem retireSpare_of_unworn {s : State} {id : TileId} (h : (s.dir (id.array 16)).wear < 30000) : s.retireSpare id = s := if_pos h

/-! ### The clauses of the statement -/

/-- Settles O54, row by row: the program taken, its rows, its pauses, its end, and the array or spare that has settled. -/
theorem programsRunRowByRowAndSettle : Obligations.ProgramsRunRowByRowAndSettle := by
  unfold Obligations.ProgramsRunRowByRowAndSettle
  refine ⟨fun s id p hnext hrun hen hdriver hseal hdrained hwindow =>
      ⟨programStart_waits hnext hrun hen hdriver hseal hdrained hwindow, fun hplace => ?start⟩,
    fun s id p p1 hprog hrun hgoing hplaced htest hrow hp1 => ⟨fun hkeeps => ?row, fun q hurgent hload hwindow hseal => ?yields⟩,
    fun s id p hprog hrun hwarm hroom => ⟨fun hphase => ?goesOn, fun hphase => ?begins⟩,
    fun s id p n hprog hpaused hfirst hrun => ?deferred,
    fun s id p hprog hrun hrow hplaced => ⟨?verified, fun hfirst hwindow => ?again, fun hfirst hwindow => ?waits, fun hsecond hdrained => ?fails⟩,
    fun s id k src c rest hfirst hrun => ⟨fun hk hs hwear => ?array, fun hk hc hclaim hwear hcodes => ?spare⟩⟩
  case start =>
    obtain ⟨htm, hwt, htile⟩ := placedFor_frame s id p
    obtain ⟨tprog, tpre, -, -⟩ := takeDriver_spec (s.placedFor id p) id p
    have hdir := dir_of_wt hwt (id.array p.arr)
    refine ⟨_, programStart_takes hnext hrun hen hdriver hseal hdrained hwindow hplace, ?_, by rw [tpre, htile], by rw [takeDriver_queue, htile],
      by rw [takeDriver_wear, hdir], fun hworn => takeDriver_warns (by rw [hdir]; exact hworn)⟩
    rw [tprog, begun_congr _ _ htm (congrArg Weights.records hwt)]
  case row =>
    have hended : p1 = s.rowEnded id p := by rw [hp1, State.rowEnded, nextRow_eq]; simp only [Bool.not_eq_true']
    subst hended
    exact ⟨_, (exec_programRowEnd hprog hrun hgoing hplaced htest hrow).trans (congrArg _ (rowCounted_keeps hkeeps)),
      by rw [rowCounted_tile], by rw [rowCounted_tile]⟩
  case yields =>
    have hended : p1 = s.rowEnded id p := by rw [hp1, State.rowEnded, nextRow_eq]; simp only [Bool.not_eq_true']
    subst hended
    obtain ⟨tprog, tpre, -, -⟩ := takeDriver_spec (s.rowCounted id p) id q
    refine ⟨_, (exec_programRowEnd hprog hrun hgoing hplaced htest hrow).trans (congrArg _ (rowCounted_yields hurgent hload hwindow hseal)), ?_, tprog⟩
    rw [tpre, rowCounted_tile]
    rfl
  case goesOn =>
    refine ⟨_, (exec_programResume hprog hrun hwarm hroom).trans (congrArg _ (if_neg hphase)), ?_⟩
    rw [tile_mod]
  case begins =>
    refine ⟨_, (exec_programResume hprog hrun hwarm hroom).trans (congrArg _ (if_pos hphase)), ?_, beginProgram_wear s id _⟩
    rw [beginProgram_tile]
  case deferred =>
    obtain ⟨m, hm, htick⟩ := advanceTo_spec s (n + ticksPerSec)
    refine ⟨_, _, exec_programmingDeferred hprog hpaused hfirst hrun, ?_, ?_, raise_last _ _ _ _, rfl, rfl⟩
    · rw [State.raise_tm, State.modTile_tm, hm]
      exact htick
    · rw [tile_of_tl (State.raise_tl _ _ _ _), tile_mod]
  case verified =>
    obtain ⟨-, hpre, hnone, hnext⟩ := driverFree_tile s id
    have htile := verified_tile s id p
    exact ⟨s.verified id p, congrArg Tile.settling htile, (congrArg Tile.preempted htile).trans hpre,
      fun h => (congrArg Tile.prog htile).trans (hnone h), fun q hq hwindow => (congrArg Tile.prog htile).trans (hnext q hq hwindow),
      fun r hr => verified_cells hr, verified_wear s id p, programComplete_verified hprog hrun hrow hplaced⟩
  case again =>
    refine ⟨_, (programComplete_repeats hprog hrun hrow hplaced hfirst).trans (congrArg _ (repeatProgram_inside hwindow p)), ?_,
      beginProgram_wear s id p⟩
    rw [beginProgram_tile]
  case waits =>
    refine ⟨_, (programComplete_repeats hprog hrun hrow hplaced hfirst).trans (congrArg _ (repeatProgram_outside hwindow p)), rfl, ?_⟩
    rw [tile_mod]
  case fails => exact ⟨_, programComplete_fails hprog hrun hrow hplaced hsecond, programFails_drains hdrained id p⟩
  case array =>
    obtain ⟨hstate, hdrift, hrecord⟩ := settledInService_spec (s.settledTaken id k c rest) (id.array k)
    refine ⟨(s.settledTaken id k c rest).settledInService (id.array k), hstate, hdrift, hrecord, ?_⟩
    rw [exec_settlingDone hfirst hrun, if_neg hk, arraySettled_settling (s := s.settledTaken id k c rest) hs hwear, State.recordLost, hrecord,
      settledTaken_record]
  case spare =>
    subst hk hc
    refine ⟨((s.settledTaken id 16 false rest).zeroDrift (id.array 16)).spareNamed id src, congrArg Tile.spare (spareNamed_tile _ id src),
      congrArg DirEntry.spareTag (spareNamed_dir _ id src), zeroDrift_drift (s.settledTaken id 16 false rest) (id.array 16), ?_⟩
    rw [exec_settlingDone hfirst hrun, if_pos rfl, spareSettled_unclaimed ((settledTaken_claim ..).trans hclaim)
      ((settledTaken_holdsCodesOf ..).trans hcodes), retireSpare_of_unworn]
    rw [spareNamed_dir, zeroDrift_dir, settledTaken_dir]
    exact hwear

end Sys2Proof.Machine
end

section
/-! PROOFS. O29: the trace of the reference, from its timer to the requests and records of its end, the reference that is untraced after a day, and
the set temperature of a correction unit (07 R206-R210, 15 R515, 04 R111). -/

set_option Elab.async false

namespace Sys2Proof.Machine

/-! ### The Survey ADCs (15 R515) -/

/-- A Survey ADC read after its own update. -/
theorem adc_mod (s : State) {n : Nat} (f : Adc → Adc) (h : n < s.adcs.length) : (s.modAdc n f).adc n = f (s.adc n) := by
  unfold State.adc State.modAdc at' modAt
  simp [List.getD_eq_getElem?_getD, h]

/-- Another Survey ADC is not touched. -/
theorem adc_mod_ne (s : State) {n m : Nat} (f : Adc → Adc) (h : n ≠ m) : (s.modAdc m f).adc n = s.adc n := by
  unfold State.adc State.modAdc at' modAt
  simp [List.getD_eq_getElem?_getD, Ne.symm h]

theorem modAdc_length (s : State) (n : Nat) (f : Adc → Adc) : (s.modAdc n f).adcs.length = s.adcs.length := List.length_modify f s.adcs n

/-- A trace takes each of the five Survey ADCs that the module has. -/
theorem beginTraceAll_trace (s : State) {n : Nat} (hn : n < 5) (hlen : n < s.adcs.length) : (s.beginTraceAll.adc n).trace = true := by
  unfold State.beginTraceAll
  refine foldl_reaches (fun t : State => n < t.adcs.length) (fun t : State => (t.adc n).trace = true) (fun t m _ ht => ?_)
    (fun t m _ ht htrace => ?_) hlen (.inr ⟨n, List.mem_range.2 hn, fun t ht => ?_⟩)
  · rw [modAdc_length]; exact ht
  · by_cases h : n = m
    · subst h; rw [adc_mod t _ ht]
    · rw [adc_mod_ne t _ h]; exact htrace
  · rw [adc_mod t _ ht]

/-! ### The trace begins (07 R209) -/

theorem wakeForTask_of_inRun {s : State} (h : s.inRun = true) : s.wakeForTask = s := by
  unfold State.inRun at h
  simp only [Bool.and_eq_true, beq_iff_eq] at h
  exact if_neg (by rw [h.2]; decide)

theorem startTrace_ev (s : State) : s.startTrace.ev = s.ev := (State.startTrace_only (K := 65600) (Only.refl s) (Needs.refl _)) .events rfl

theorem exec_traceTimer {s : State} (hrun : s.inRun = true) (hfirm : s.firmwareRuns = true) (hdue : s.cl.pendingTrace = true)
    (hbusy : s.cl.busy = false) (hstops : s.workStops = false) (hready : s.bt.arraysReady = true ∨ s.cl.refTime = none) :
    exec .traceTimer s = .next s.startTrace := by
  change execTraceTimer s = _
  have hbegins : (s.bt.arraysReady || s.cl.refTime.isNone) = true := by simpa using hready
  unfold execTraceTimer
  rw [hdue, if_pos rfl]
  dsimp only
  rw [wakeForTask_of_inRun hrun, if_pos (by rw [hrun, hfirm, hbusy, hstops, hbegins]; rfl)]

/-! ### The trace ends (07 R206-R208, Table 7.2) -/

theorem traceResult_passes {refin : List Nat} (h : ∀ v ∈ refin, 990000 ≤ v ∧ v ≤ 1010000) : traceResult refin = 1 := by
  have hlow : ¬ (refin.any (· < 500000)) = true := by
    rw [List.any_eq_true]; rintro ⟨v, hv, hlt⟩
    have := h v hv; simp only [decide_eq_true_eq] at hlt; omega
  have hoff : ¬ (refin.any fun v => v < 990000 || 1010000 < v) = true := by
    rw [List.any_eq_true]; rintro ⟨v, hv, hout⟩
    have := h v hv; simp only [Bool.or_eq_true, decide_eq_true_eq] at hout; omega
  exact (if_neg hlow).trans (if_neg hoff)

theorem traceResult_low {refin : List Nat} (h : ∃ v ∈ refin, v < 500000) : traceResult refin = 3 := by
  obtain ⟨v, hv, hlt⟩ := h
  exact if_pos (List.any_eq_true.2 ⟨v, hv, decide_eq_true hlt⟩)

theorem traceResult_off {refin : List Nat} (hlow : ∀ v ∈ refin, 500000 ≤ v) (hoff : ∃ v ∈ refin, v < 990000 ∨ 1010000 < v) :
    traceResult refin = 2 := by
  have hnone : ¬ (refin.any (· < 500000)) = true := by
    rw [List.any_eq_true]; rintro ⟨v, hv, hlt⟩
    have := hlow v hv; simp only [decide_eq_true_eq] at hlt; omega
  obtain ⟨v, hv, hout⟩ := hoff
  exact (if_neg hnone).trans (if_pos (List.any_eq_true.2 ⟨v, hv, by simpa using hout⟩))

/-- What a trace that ends leaves of the calibration part. -/
theorem traceEnds_cl (s : State) (refin : List Nat) : (s.traceEnds refin).cl = { s.cl with
    busy := false, last := traceResult refin, microvolts := min (at' refin 4 0) 0xFFFFF, sat := 1048575 ≤ at' refin 4 0 } :=
  (State.endTraceAll_only (K := 64) (Only.refl _) (Needs.refl _)) .calibration rfl

theorem traceEnds_ev (s : State) (refin : List Nat) : (s.traceEnds refin).ev = s.ev :=
  (State.traceEnds_only (K := 65600) (Only.refl s) (Needs.refl _)) .events rfl

theorem trimRequests_fold_only (s : State) (l : List Nat) (new : Nat → Int × Int) :
    Only 16384 s (l.foldl (fun st n => st.trimRequests n (new n)) s) :=
  Only.foldl (Only.refl s) fun _ _ h => State.trimRequests_only h (Needs.refl _)

/-- A trace that passes: its start is the reference time, and the trims that follow are to come. -/
theorem tracePasses_cl (s : State) (refin ladder vcref : List Nat) : ∃ next, (s.tracePasses refin ladder vcref).cl =
    { s.cl with refTime := s.cl.traceBegan, untraced := false, nextTrims := next } :=
  ⟨_, (trimRequests_fold_only _ _ _) .calibration rfl⟩

theorem tracePasses_ev (s : State) (refin ladder vcref : List Nat) : (s.tracePasses refin ladder vcref).ev = s.ev :=
  (State.tracePasses_only (K := 81920) (Only.refl s) (Needs.refl _)) .events rfl

/-- The record of a trace that does not pass: its result and the five readings (07 R207). -/
def State.traceRecorded (s : State) (refin : List Nat) : State :=
  s.raise 0x000B 6 (traceResult refin :: (List.range 5).map fun n => at' refin n 0)

theorem traceRecorded_spec (s : State) (refin : List Nat) : (s.traceRecorded refin).cl = s.cl ∧
    ∃ r, (s.traceRecorded refin).ev.held.getLast? = some r ∧ r.code = 0x000B := by
  unfold State.traceRecorded
  exact ⟨rfl, _, raise_last _ _ _ _, rfl⟩

theorem exec_traceDone {s : State} (hbusy : s.cl.busy = true) (refin ladder vcref : List Nat) : exec (.traceDone refin ladder vcref) s =
    .next (if traceResult refin = 1 then (s.traceEnds refin).tracePasses refin ladder vcref else (s.traceEnds refin).traceRecorded refin) := by
  change execTraceDone refin ladder vcref s = _
  unfold execTraceDone
  rw [if_neg (by rw [hbusy]; decide)]
  rfl

/-- A trace that does not pass leaves the reference time, and the newest record is its. -/
theorem traceDone_fails {s : State} {refin : List Nat} (hbusy : s.cl.busy = true) (hres : traceResult refin ≠ 1) (ladder vcref : List Nat) :
    ∃ t, exec (.traceDone refin ladder vcref) s = .next t ∧ t.cl = (s.traceEnds refin).cl ∧ ∃ r, t.ev.held.getLast? = some r ∧ r.code = 0x000B :=
  ⟨_, (exec_traceDone hbusy refin ladder vcref).trans (congrArg _ (if_neg hres)), traceRecorded_spec _ refin⟩

theorem traceDone_passes {s : State} {refin : List Nat} (hbusy : s.cl.busy = true) (hres : traceResult refin = 1) (ladder vcref : List Nat) :
    ∃ t, exec (.traceDone refin ladder vcref) s = .next t ∧
      (∃ next, t.cl = { (s.traceEnds refin).cl with refTime := s.cl.traceBegan, untraced := false, nextTrims := next }) ∧ t.ev = s.ev := by
  refine ⟨_, (exec_traceDone hbusy refin ladder vcref).trans (congrArg _ (if_pos hres)), ?_, ?_⟩
  · obtain ⟨next, h⟩ := tracePasses_cl (s.traceEnds refin) refin ladder vcref
    exact ⟨next, by rw [h, traceEnds_cl]⟩
  · rw [tracePasses_ev, traceEnds_ev]

/-! ### The reference untraced (07 R210) -/

/-- A day after the start of the last passing trace, the reference is untraced. -/
theorem not_traced_after_day {s : State} {n : Nat} (href : s.cl.refTime = some (some n)) (hvalid : s.tm.valid = true)
    (hday : n + hours24 ≤ s.tm.counter) : s.traced = false := by
  unfold State.traced
  rw [href]
  have hlate : ¬ s.tm.counter < n + hours24 := Nat.not_lt.2 hday
  simp [hvalid, hlate]

theorem exec_referenceUntraced {s : State} {n : Nat} (href : s.cl.refTime = some (some n)) (hvalid : s.tm.valid = true)
    (huntraced : s.cl.untraced = false) (hcore : s.hcoreRuns = true) : exec .referenceUntraced s =
      let s1 := s.counterTo (n + hours24)
      .next (({ s1 with cl := { s1.cl with untraced := true } }).raise 0x000C 6 [n % 2 ^ 32, n / 2 ^ 32]) := by
  obtain ⟨m, hs, hcount, hmvalid⟩ := counterTo_spec s (n + hours24) hvalid
  have hold : (s.counterTo (n + hours24)).traced = false :=
    not_traced_after_day (by rw [hs]; exact href) (by rw [hs]; exact hmvalid) (by rw [hs]; exact hcount ▸ Nat.le_max_right _ _)
  have hstill : (s.counterTo (n + hours24)).cl.untraced = false := by rw [hs]; exact huntraced
  have hruns : (s.counterTo (n + hours24)).hcoreRuns = true := by rw [hs]; exact hcore
  change execReferenceUntraced s = _
  unfold execReferenceUntraced
  rw [href]
  dsimp only
  rw [if_neg (by rw [hold, hstill, hruns]; decide)]

/-! ### INTERPOLATION_CHECK (04 R111) -/

/-- The state in which the arrays of a unit have new next sets. -/
def State.unitRefreshed (s : State) (die unit : Nat) : State :=
  ((s.tl.tiles.filter fun x => x.id.die == die && unitOf x.id == unit).map Tile.id).foldl State.refreshTile s

section Interpolation

variable {s : State} {die unit : Nat} (hrun : s.inRun = true) (hdie : die < 4) (hunit : unit < 64)

include hrun hdie hunit

theorem interpolationCheck_goes : ¬ (!s.inRun || decide (4 ≤ die) || decide (64 ≤ unit)) = true := by
  simp [hrun, hdie, hunit]

theorem exec_interpolationCheck_first (hnone : (s.region die unit).setTemp = none) : exec (.interpolationCheck die unit) s =
    .next (s.setRegion { s.region die unit with setTemp := some (s.regionTemp die unit) }) := by
  change execInterpolationCheck die unit s = _
  unfold execInterpolationCheck
  dsimp only
  rw [if_neg (interpolationCheck_goes hrun hdie hunit), hnone]

theorem exec_interpolationCheck_near {x : Int} (hset : (s.region die unit).setTemp = some x) (hnear : (s.regionTemp die unit - x).natAbs < 4) :
    exec (.interpolationCheck die unit) s = .next s := by
  change execInterpolationCheck die unit s = _
  unfold execInterpolationCheck
  dsimp only
  rw [if_neg (interpolationCheck_goes hrun hdie hunit), hset]
  exact if_pos hnear


theorem exec_interpolationCheck_far {x : Int} (hset : (s.region die unit).setTemp = some x) (hfar : 4 ≤ (s.regionTemp die unit - x).natAbs) :
    exec (.interpolationCheck die unit) s =
      .next ((s.unitRefreshed die unit).modRegion die unit fun r => { r with setTemp := some (s.regionTemp die unit) }) := by
  change execInterpolationCheck die unit s = _
  unfold execInterpolationCheck
  dsimp only
  rw [if_neg (interpolationCheck_goes hrun hdie hunit), hset]
  exact if_neg (Nat.not_lt.2 hfar)

end Interpolation

/-! ### The clauses of the statement -/

/-- Settles O29: the trace begun and ended by the lemmas of its parts, the day without one, and the unit's set temperature by its three cases. -/
theorem theReferenceIsTracedHourly : Obligations.TheReferenceIsTracedHourly := by
  unfold Obligations.TheReferenceIsTracedHourly
  refine ⟨fun s hrun hfirm hdue hbusy hstops hready => ?begins, fun s refin ladder vcref hbusy => ?ends,
    fun s n href hvalid huntraced hcore => ?day, fun s die unit hrun hdie hunit => ⟨fun hnone => ?first, fun x hset hnear => ?near,
      fun x hset hfar => ?far⟩⟩
  case begins =>
    exact ⟨_, exec_traceTimer hrun hfirm hdue hbusy hstops hready, rfl, fun n hn hlen => beginTraceAll_trace s hn hlen, startTrace_ev s⟩
  case ends =>
    by_cases hres : traceResult refin = 1
    · obtain ⟨t, hexec, ⟨next, hcl⟩, hev⟩ := traceDone_passes hbusy hres ladder vcref
      rw [traceEnds_cl] at hcl
      refine ⟨t, hexec, ?_⟩
      rw [hcl]
      refine ⟨rfl, rfl, rfl, fun _ => ⟨hres, rfl, rfl, hev⟩, fun hlow => ?_, fun hlow hoff => ?_⟩
      · rw [traceResult_low hlow] at hres; cases hres
      · rw [traceResult_off hlow hoff] at hres; cases hres
    · obtain ⟨t, hexec, hcl, hrecord⟩ := traceDone_fails hbusy hres ladder vcref
      rw [traceEnds_cl] at hcl
      refine ⟨t, hexec, ?_⟩
      rw [hcl]
      exact ⟨rfl, rfl, rfl, fun hpass => absurd (traceResult_passes hpass) hres,
        fun hlow => ⟨traceResult_low hlow, rfl, hrecord⟩, fun hlow hoff => ⟨traceResult_off hlow hoff, rfl, hrecord⟩⟩
  case day =>
    obtain ⟨m, hs, hcount, -⟩ := counterTo_spec s (n + hours24) hvalid
    exact ⟨_, _, exec_referenceUntraced href hvalid huntraced hcore, rfl, by rw [hs]; exact hcount, raise_last _ _ _ _, rfl, rfl⟩
  case first => exact ⟨_, exec_interpolationCheck_first hrun hdie hunit hnone, rfl⟩
  case near => exact exec_interpolationCheck_near hrun hdie hunit hset hnear
  case far =>
    exact ⟨_, exec_interpolationCheck_far hrun hdie hunit hset hfar, by rw [region_mod]⟩

end Sys2Proof.Machine
end

section
/-! PROOFS. O30: requests by age and expiry, the start of a run, the judgement of its fit, and the first-ever calibration (07 R214, R218-R222,
R227-R229, R232). The trace that a first-ever calibration begins with stands with O29. -/

set_option Elab.async false

namespace Sys2Proof.Machine

/-! ### Age and expiry (07 R214, R227, R228) -/

theorem stamp_of_valid {s : State} (h : s.tm.valid = true) : s.stamp = some s.tm.counter := if_pos h

theorem requestCal_tile (s : State) (a : ArrId) (cls : Nat) : (s.requestCal a cls).tile a.tid =
    { (s.tile a.tid).putRequest ⟨a.arr, cls, s.stamp, false, false⟩ with id := a.tid } := tile_mod ..

theorem requestCal_tile_ne (s : State) (a : ArrId) (cls : Nat) {u : TileId} (h : u ≠ a.tid) : (s.requestCal a cls).tile u = s.tile u :=
  tile_mod_ne _ _ _ _ h

/-- A calibration of fourteen days before is valid no more. -/
theorem calSound_expired {s : State} {a : ArrId} {c : Nat} (hvalid : s.tm.valid = true) (htime : (s.franking a).calTime = some c)
    (hold : c + days14 ≤ s.tm.counter) : s.calSound a = false := by
  have hlate : ¬ s.tm.counter < c + days14 := Nat.not_lt.2 hold
  unfold State.calSound State.calFresh
  dsimp only
  rw [htime]
  simp [hvalid, hlate]

theorem askIfUnsound_of_unsound {s : State} {a : ArrId} (hheld : a.arr = 16 ∨ s.holdsRecord a = true) (h : s.calSound a = false) :
    s.askIfUnsound a = s.requestCal a 1 := if_pos (by rw [h]; simpa using hheld)

/-- The queue of a tile with the requests of one array in class 1. -/
theorem promote_of_unsound {s : State} {a : ArrId} (h : s.calSound a = false) : s.promote a =
    s.modTile a.tid fun t => { t with calQueue := t.calQueue.map fun r => if r.arr = a.arr then { r with cls := 1 } else r } :=
  if_neg (by rw [h]; decide)

section Due

variable {s : State} {a : ArrId} {c : Nat} (hfirm : s.firmwareRuns = true) (hen : s.enabled a.tid = true) (harr : a.arr ≤ 16)
  (hvalid : s.tm.valid = true) (hcal : (s.franking a).valid = true) (htime : (s.franking a).calTime = some c)

include hcal htime

theorem afterCal_of_valid (n : Nat) : s.afterCal a n = s.counterTo (c + n) := by
  unfold State.afterCal
  rw [htime]
  exact if_pos hcal

include hfirm hen harr hvalid

theorem exec_calibrationAgeTimer (hheld : a.arr = 16 ∨ s.holdsRecord a = true) :
    exec (.calibrationAgeTimer a) s = .next ((s.counterTo (c + days7)).requestCal a 4) := by
  change execCalibrationAgeTimer a s = _
  unfold execCalibrationAgeTimer
  have hasks : (a.arr == 16 || s.holdsRecord a) = true := by simpa using hheld
  rw [if_neg (by simp [hfirm, hen, hvalid, hcal, hasks, Nat.not_lt.2 harr]), afterCal_of_valid hcal htime]

theorem exec_calibrationExpiry : exec (.calibrationExpiry a) s = .next (((s.counterTo (c + days14)).askIfUnsound a).promote a) := by
  change execCalibrationExpiry a s = _
  unfold execCalibrationExpiry
  rw [if_neg (by simp [hfirm, hen, hvalid, Nat.not_lt.2 harr]), afterCal_of_valid hcal htime]

end Due

/-- An array whose calibration has expired: a request of class 1, and every one of it in that class. -/
theorem expired_asks {s : State} {a : ArrId} (hheld : a.arr = 16 ∨ s.holdsRecord a = true) (h : s.calSound a = false) :
    (s.askIfUnsound a).promote a = (s.requestCal a 1).modTile a.tid fun t =>
      { t with calQueue := t.calQueue.map fun r => if r.arr = a.arr then { r with cls := 1 } else r } := by
  rw [askIfUnsound_of_unsound hheld h]
  exact promote_of_unsound (s := s.requestCal a 1) h

/-! ### CALIBRATION_RUN_START (07 R222, R229) -/

theorem runsMayBegin_of {s : State} {id : TileId} (hen : s.enabled id = true) (hdrained : s.isDrained = false) (hwindow : s.runWindow id = true)
    (htraced : s.traced = true) (hready : s.bt.arraysReady = true) (hstops : s.workStops = false) : s.runsMayBegin id = true := by
  unfold State.runsMayBegin
  rw [hen, hdrained, hwindow, htraced, hready, hstops]
  rfl

theorem exec_calibrationRunStart {s : State} {id : TileId} {r : CalRequest} (hrun : s.inRun = true) (hmay : s.runsMayBegin id = true) :
    let u := ((s.dropStaleClaim id).claimForRun id).queueCalRecords id
    (u.requests id).find? (u.requestReady id) = some r → (u.tile id).run = none →
    exec (.calibrationRunStart id) s = .next (u.startRun id r) := by
  intro u hfirst hidle
  change execCalibrationRunStart id s = _
  unfold execCalibrationRunStart
  rw [wakeForTask_of_inRun hrun, ite_self]
  dsimp only
  rw [if_neg (by rw [hrun, hmay]; decide), hfirst]
  exact congrArg _ (if_neg (by rw [hidle]; decide))

/-- A request that may run brings the module back from P1 Hold. -/
theorem exec_calibrationRunStart_wakes {s : State} {id : TileId} (hp1 : s.pw.state = .p1) (hmay : s.runsMayBegin id = true)
    (hwaits : (s.tile id).calQueue ≠ []) (hwakes : (s.wakeP1 7).inRun = true) :
    exec (.calibrationRunStart id) s = exec (.calibrationRunStart id) (s.wakeP1 7) := by
  have hdue : (s.runsMayBegin id && !(s.tile id).calQueue.isEmpty) = true := by simp [hmay, hwaits]
  have hwoken : s.wakeForTask = s.wakeP1 7 := if_pos hp1
  change execCalibrationRunStart id s = execCalibrationRunStart id (s.wakeP1 7)
  unfold execCalibrationRunStart
  rw [if_pos hdue, hwoken, wakeForTask_of_inRun hwakes, ite_self]

/-! ### CALIBRATION_FIT_DONE (07 R218-R221) -/

theorem fitAnchor_overRange (s : State) (a : ArrId) (rec : CodeRecord) (temp : Int) (raw : List (List Int)) :
    s.fitAnchor a rec temp raw true = none := by
  unfold State.fitAnchor
  exact if_pos (by rw [Bool.true_or, Bool.true_or])

/-- The anchor of a fit that fails no test. -/
theorem fitAnchor_of_passes {s : State} {a : ArrId} {rec : CodeRecord} {temp : Int} {raw : List (List Int)} :
    let now := interpolateSet temp (s.franking a).entries
    let fit := fitRun rec (s.drift a).delta now raw
    let anchor := newAnchor (at' (s.tileRecord a.tid).anchors a.arr neutralAnchor) fit.measured now
    fit.fail = false → (∀ e ∈ buildEntries anchor (s.tileRecord a.tid).shape, anchorInSpan e = true) →
    s.fitAnchor a rec temp raw false = some anchor := by
  intro now fit anchor hfit hspan
  have hnone : ((buildEntries anchor (s.tileRecord a.tid).shape).any fun e => !anchorInSpan e) = false :=
    List.any_eq_false.2 fun e he => by rw [hspan e he]; decide
  exact if_neg (by rw [hfit, hnone]; decide)

/-- A run judged by the anchor that its fit sets, if any. -/
def State.fitJudged (s : State) (id : TileId) (r : CalRun) : Option Anchor → State
  | none => s.active.runFails id r
  | some anchor => s.active.runSucceeds id r anchor (s.tileRecord id).shape

theorem exec_calibrationFitDone {s : State} {id : TileId} {r : CalRun} {rec : CodeRecord} (hrun : s.inRun = true)
    (hr : (s.tile id).run = some r) (hfires : r.fires = 320) (hrec : s.runRecord (id.array r.arr) = some rec) {raw : List (List Int)}
    {overRange : Bool} {anchor : Option Anchor} (hfit : s.fitAnchor (id.array r.arr) rec r.temp raw overRange = anchor) :
    exec (.calibrationFitDone id raw overRange) s = .next (s.fitJudged id r anchor) := by
  change execCalibrationFitDone id raw overRange s = _
  unfold execCalibrationFitDone
  rw [hr]
  dsimp only
  rw [hrec]
  dsimp only
  rw [if_neg (by simp [hrun, hfires]), hfit]
  cases anchor <;> rfl

/-- The state in which a run has failed: its array's requests are of class 1. -/
def State.runJudged (s : State) (id : TileId) (r : CalRun) : State :=
  (s.modFranking (id.array r.arr) fun f => { f with directRun := false, lastFailed := true }).promote (id.array r.arr)

theorem runJudged_only (s : State) (id : TileId) (r : CalRun) : Only 24576 s (s.runJudged id r) :=
  State.promote_only (State.modFranking_only (Only.refl s) (Needs.sub (Needs.refl 24576) (by decide))) (Needs.sub (Needs.refl 24576) (by decide))

/-- A first failure: the run begins again with no fire done. -/
theorem runFails_first {s : State} {id : TileId} {r : CalRun} (h : r.repeated = false) : ((s.runFails id r).tile id).run =
    some { r with fires := 0, repeated := true } ∧ (s.runFails id r).ev = s.ev := by
  have heq : s.runFails id r = (s.runJudged id r).modTile id fun x => { x with run := some { r with fires := 0, repeated := true } } :=
    if_pos (by rw [h]; rfl)
  rw [heq, tile_mod]
  exact ⟨rfl, (runJudged_only s id r) .events rfl⟩

/-! ### The drain for a run that failed, and what it leaves of the calibration part and the weights (14 R475-R478, 15 R495) -/

/-- What an entry to P1 Hold leaves of the calibration part and of the weights: a trace in progress is to begin again, and runs that are discarded
change their arrays' franking; no more. -/
def LeavesCal (s t : State) : Prop :=
  t.cl = { s.cl with busy := t.cl.busy, pendingTrace := t.cl.pendingTrace } ∧ t.wt = { s.wt with franking := t.wt.franking }

theorem LeavesCal.trans {s t u : State} (h : LeavesCal s t) (g : LeavesCal t u) : LeavesCal s u :=
  ⟨by rw [g.1, h.1], by rw [g.2, h.2]⟩

theorem LeavesCal.of_parts {s t u : State} (h : LeavesCal s t) (hcl : u.cl = t.cl) (hwt : u.wt = t.wt) : LeavesCal s u :=
  ⟨by rw [hcl]; exact h.1, by rw [hwt]; exact h.2⟩

theorem Only.leavesCal {K : Nat} {s t : State} (h : Only K s t) (hw : K.testBit 13 = false) (hc : K.testBit 16 = false) : LeavesCal s t := by
  have hcl : t.cl = s.cl := h .calibration hc
  exact ⟨by rw [hcl], by rw [h.wt hw]⟩

theorem dropRun_leavesCal (s : State) (id : TileId) (requeue first : Bool) : LeavesCal s (s.dropRun id requeue first) := by
  unfold State.dropRun
  split
  · exact ⟨rfl, rfl⟩
  · dsimp only
    split <;> exact ⟨rfl, rfl⟩

theorem discardRun_leavesCal (s : State) (id : TileId) (requeue : Bool) : LeavesCal s (s.discardRun id requeue) := by
  unfold State.discardRun
  dsimp only
  split <;> exact dropRun_leavesCal s id requeue false

theorem discardRuns_leavesCal (s : State) (l : List TileId) : LeavesCal s (l.foldl (fun st t => st.discardRun t true) s) :=
  foldl_inv (LeavesCal s) (fun u id _ hu => hu.trans (discardRun_leavesCal u id true)) ⟨rfl, rfl⟩

/-- A trace abandoned is due again. -/
theorem abandonTrace_leavesCal (s : State) :
    LeavesCal s ({ s with cl := { s.cl with busy := false, pendingTrace := true } }).endTraceAll := by
  have hdue : LeavesCal s { s with cl := { s.cl with busy := false, pendingTrace := true } } := ⟨rfl, rfl⟩
  exact hdue.trans ((State.endTraceAll_only (K := 64) (Only.refl _) (Needs.refl _)).leavesCal rfl rfl)

theorem stopTileWork_leavesCal (s : State) : LeavesCal s s.stopTileWork := by
  unfold State.stopTileWork
  extract_lets s1 cl s2
  have hruns : LeavesCal s s1 := discardRuns_leavesCal s _
  have htrace : LeavesCal s1 s2 := by
    by_cases h : s1.cl.busy = true
    · rw [show s2 = ({ s1 with cl := { s1.cl with busy := false, pendingTrace := true } }).endTraceAll from if_pos h]
      exact abandonTrace_leavesCal s1
    · rw [show s2 = s1 from if_neg h]
      exact ⟨rfl, rfl⟩
  exact (hruns.trans htrace).of_parts rfl rfl

theorem enterP1_leavesCal (s : State) (why : HoldReason) : LeavesCal s (s.enterP1 why) := by
  have hleave : LeavesCal s s.leaveRun := by
    unfold State.leaveRun
    split
    · exact ⟨rfl, rfl⟩
    · exact stopTileWork_leavesCal s
  unfold State.enterP1
  split
  · exact ⟨rfl, rfl⟩
  · exact hleave

/-- All that a drain does before the entry to P1 Hold leaves the calibration part and the weights. -/
theorem drain_enters {s : State} (h : s.isDrained = false) (cause code source loc : Nat) :
    ∃ u, Only 450559 s u ∧ s.drain cause code source loc = u.enterP1 .drained := by
  have hK : Needs 450559 450559 := Needs.refl _
  unfold State.drain
  rw [if_neg (by simp [h])]
  dsimp only
  refine ⟨_, ?_, rfl⟩
  with_reducible repeat' first
    | exact Only.refl _ | apply State.async_only | apply State.reportAbort_only | apply State.raise_only | apply State.deliverAll_only
    | apply State.voidStep_only | apply State.endJobs_only | apply State.notifyJob_only | apply State.notifyPorts_only
    | refine Only.foldl ?_ fun _ _ _ => ?_ | apply Only.cond | assumption | exact Needs.sub hK (by decide)
    | fail_if_no_progress refine Only.mk' ?_

theorem drain_leavesCal (s : State) (cause code source loc : Nat) : LeavesCal s (s.drain cause code source loc) := by
  by_cases h : s.isDrained = true
  · have hsame : s.drain cause code source loc = s := if_pos h
    rw [hsame]
    exact ⟨rfl, rfl⟩
  · obtain ⟨u, hu, hdrain⟩ := drain_enters (Bool.eq_false_of_not_eq_true h) cause code source loc
    rw [hdrain]
    exact (hu.leavesCal rfl rfl).trans (enterP1_leavesCal u _)

theorem isDrained_of_bt {s t : State} (h : t.bt = s.bt) (hs : s.isDrained = false) : t.isDrained = false := by
  unfold State.isDrained at hs ⊢
  rw [h, hs]

/-- A drain logged: its cause, the entry of its code, and P1 Hold. -/
theorem drain_logged {s : State} (h : s.isDrained = false) (cause code source loc : Nat) : let t := s.drain cause code source loc
    t.bt.drained = some cause ∧ t.holdsP1 .drained ∧ ∃ e, t.bt.drainLog = rotate 1024 (s.bt.drainLog ++ [e]) ∧ e.code = code := by
  obtain ⟨e, hbt, -, hcode, -, -, -, hholds⟩ := drain_spec s cause code source loc h
  exact ⟨by rw [hbt], hholds, e, by rw [hbt], hcode⟩

/-- A second failure: after its record and its request, the drain of cause 6 (07 R220). -/
theorem runFails_second {s : State} {id : TileId} {r : CalRun} (hrep : r.repeated = true) (hdrained : s.isDrained = false) :
    let t := s.runFails id r
    t.bt.drained = some 6 ∧ t.holdsP1 .drained ∧ ∃ e, t.bt.drainLog = rotate 1024 (s.bt.drainLog ++ [e]) ∧ e.code = 0x000A := by
  obtain ⟨u, hbt, hdrain⟩ : ∃ u : State, u.bt = s.bt ∧ s.runFails id r = u.drain 6 0x000A id.die (locOf (id.array r.arr)) := by
    refine ⟨_, ?_, if_neg (by rw [hrep]; decide)⟩
    have hjudged : (s.runJudged id r).bt = s.bt := (runJudged_only s id r) .boot rfl
    exact ((State.runFailed_only (K := 16400) (Only.refl _) (Needs.refl _)) .boot rfl).trans hjudged
  rw [hdrain, ← hbt]
  exact drain_logged (isDrained_of_bt hbt hdrained) 6 0x000A id.die (locOf (id.array r.arr))

/-! ### The trace of a first-ever calibration (07 R232, 16 Table 16.9) -/

/-- The state after the trace of a first-ever calibration, before its result is judged. -/
def State.firstTrace (s : State) (refin : List Nat) : State := s.startTrace.traceEnds refin

/-- The same with the traced trims in force. -/
def State.firstTraced (s : State) (refin ladder vcref : List Nat) : State := (s.firstTrace refin).startTrims refin ladder vcref

theorem firstTrace_only (s : State) (refin : List Nat) : Only 65600 s (s.firstTrace refin) :=
  State.traceEnds_only (State.startTrace_only (Only.refl s) (Needs.refl _)) (Needs.refl _)

theorem firstTrace_cl (s : State) (refin : List Nat) : (s.firstTrace refin).cl = { s.cl with
    busy := false, traceBegan := some s.stamp, pendingTrace := false, last := traceResult refin, microvolts := min (at' refin 4 0) 0xFFFFF,
    sat := 1048575 ≤ at' refin 4 0 } := traceEnds_cl s.startTrace refin

theorem firstTraced_only (s : State) (refin ladder vcref : List Nat) : Only 65600 s (s.firstTraced refin ladder vcref) :=
  State.startTrims_only (firstTrace_only s refin) (Needs.sub (Needs.refl 65600) (by decide))

theorem startTrims_cl (s : State) (refin ladder vcref : List Nat) : (s.startTrims refin ladder vcref).cl =
    { s.cl with refTime := s.cl.traceBegan, untraced := false, trims := tracedTrims s.cl.trims refin ladder vcref } := rfl

theorem firstTraced_cl (s : State) (refin ladder vcref : List Nat) : (s.firstTraced refin ladder vcref).cl = { (s.firstTrace refin).cl with
    refTime := some s.stamp, untraced := false, trims := tracedTrims s.cl.trims refin ladder vcref } := by
  unfold State.firstTraced
  rw [startTrims_cl, firstTrace_cl]

/-- The anchors of a first-ever calibration rest on the weights, the temperatures and the franking store. -/
theorem firstAnchors_congr {s t : State} (hwt : t.wt = s.wt) (hth : t.th = s.th) (hrestored : t.cl.restored = s.cl.restored)
    (hstore : t.cl.store = s.cl.store) (hfield : t.cl.storeField = s.cl.storeField) (htime : t.cl.storeTime = s.cl.storeTime)
    (runs : List (ArrId × List (List Int) × Bool)) : t.firstAnchors runs = s.firstAnchors runs := by
  have hrecord (id : TileId) : t.tileRecord id = s.tileRecord id := by
    unfold State.tileRecord State.plainRecord
    rw [hstore, hfield, htime]
  have hfranking (a : ArrId) : t.franking a = s.franking a := by
    unfold State.franking
    rw [hwt, hrestored, hrecord]
  have hdrift (a : ArrId) : t.drift a = s.drift a := by
    unfold State.drift
    rw [hwt]
  have htemp (id : TileId) : t.tileTemp id = s.tileTemp id := by
    unfold State.tileTemp State.regionTemp State.dieMax State.hottest State.sensor
    rw [hth]
  unfold State.firstAnchors State.fitAnchor
  simp only [hrecord, hfranking, hdrift, htemp]

theorem firstTraced_anchors (s : State) (refin ladder vcref : List Nat) (runs : List (ArrId × List (List Int) × Bool)) :
    (s.firstTraced refin ladder vcref).firstAnchors runs = s.firstAnchors runs := by
  have honly := firstTraced_only s refin ladder vcref
  have hcl := (firstTraced_cl s refin ladder vcref).trans (by rw [firstTrace_cl])
  exact firstAnchors_congr (honly .weights rfl) (honly .thermal rfl) (by rw [hcl]) (by rw [hcl]) (by rw [hcl]) (by rw [hcl]) runs

/-! ### The records and the runs of a first-ever calibration (07 R232, 06 R185) -/

/-- The state after the programs and runs of a first-ever calibration, before its failures are judged. -/
def State.firstCalibrated (s : State) (refin ladder vcref : List Nat) (anchors : List (ArrId × Option Anchor)) : State :=
  let u := s.firstTraced refin ladder vcref
  (u.firstEver anchors).firstWarnings u u.takenByParcel

/-- No array that a first-ever calibration brings to 28,000 cycles, no warning. -/
theorem firstWarnings_none {s before : State} (keep : ArrId → Bool) (hlisted : ∀ e ∈ before.wt.directory, e.2.wear ≠ 27999)
    (hbase : before.wt.wearBase ≠ 27999) : s.firstWarnings before keep = s := by
  have hnone : (before.wt.directory.filter fun e => !keep e.1 && !e.2.retired && e.2.wear == 27999) = [] :=
    List.filter_eq_nil_iff.2 fun e he => by simp [hlisted e he]
  unfold State.firstWarnings
  dsimp only
  rw [hnone, if_neg hbase]
  rfl

theorem firstEver_field (s : State) (anchors : List (ArrId × Option Anchor)) : ∀ r ∈ (s.firstEver anchors).cl.store, r.field = true := by
  intro r hr
  obtain ⟨x, -, rfl⟩ := List.mem_map.1 hr
  rfl

section Calibrated

variable (s : State) (refin ladder vcref : List Nat) (anchors : List (ArrId × Option Anchor))

theorem firstCalibrated_only : Only 90192 s (s.firstCalibrated refin ladder vcref anchors) := by
  have hK : Needs 90192 90192 := Needs.refl _
  exact State.firstWarnings_only (State.firstEver_only (State.startTrims_only (State.traceEnds_only (State.startTrace_only (Only.refl s)))))

/-- The warnings change neither the calibration part nor the weights. -/
theorem firstCalibrated_parts : let v := (s.firstTraced refin ladder vcref).firstEver anchors
    (s.firstCalibrated refin ladder vcref anchors).cl = v.cl ∧ (s.firstCalibrated refin ladder vcref anchors).wt = v.wt := by
  have honly := State.firstWarnings_only (K := 16) (before := s.firstTraced refin ladder vcref)
    (keep := (s.firstTraced refin ladder vcref).takenByParcel) (Only.refl ((s.firstTraced refin ladder vcref).firstEver anchors)) (Needs.refl _)
  exact ⟨honly .calibration rfl, honly .weights rfl⟩

/-- Every tile record has FIELD, and the reference is traced by the trims in force. -/
theorem firstCalibrated_spec : let c := (s.firstCalibrated refin ladder vcref anchors).cl
    c.storeField = true ∧ (∀ r ∈ c.store, r.field = true) ∧ c.restored = true ∧ (s.firstCalibrated refin ladder vcref anchors).wt.calCells = true ∧
    c.refTime = some s.stamp ∧ c.last = traceResult refin ∧ c.trims = tracedTrims s.cl.trims refin ladder vcref := by
  obtain ⟨hcl, hwt⟩ := firstCalibrated_parts s refin ladder vcref anchors
  have htraced := firstTraced_cl s refin ladder vcref
  dsimp only
  rw [hcl, hwt]
  exact ⟨rfl, firstEver_field _ anchors, rfl, rfl, congrArg Calib.refTime htraced,
    (congrArg Calib.last htraced).trans (congrArg Calib.last (firstTrace_cl s refin)), congrArg Calib.trims htraced⟩

/-- Without an array that comes to 28,000 cycles no record is raised. -/
theorem firstCalibrated_ev (hlisted : ∀ e ∈ s.wt.directory, e.2.wear ≠ 27999) (hbase : s.wt.wearBase ≠ 27999) :
    (s.firstCalibrated refin ladder vcref anchors).ev = s.ev := by
  have honly := firstTraced_only s refin ladder vcref
  have hwt : (s.firstTraced refin ladder vcref).wt = s.wt := honly .weights rfl
  have hquiet : s.firstCalibrated refin ladder vcref anchors = (s.firstTraced refin ladder vcref).firstEver anchors :=
    firstWarnings_none _ (by rw [hwt]; exact hlisted) (by rw [hwt]; exact hbase)
  rw [hquiet]
  have hever : ((s.firstTraced refin ladder vcref).firstEver anchors).ev = (s.firstTraced refin ladder vcref).ev :=
    (State.firstEver_only (K := 90112) (Only.refl _) (Needs.refl _)) .events rfl
  exact hever.trans (honly .events rfl)

end Calibrated

/-! ### Runs of a first-ever calibration that failed (07 R220, R227) -/

theorem firstFails_none {s : State} {anchors : List (ArrId × Option Anchor)} (h : ∀ e ∈ anchors, e.2.isSome = true) :
    s.firstFails anchors = s := by
  have hnone : (anchors.filter fun e => e.2.isNone) = [] := List.filter_eq_nil_iff.2 fun e he => by simp [Option.isSome_iff_ne_none.1 (h e he)]
  unfold State.firstFails
  rw [hnone]
  rfl

/-- With a failed run, after the records and requests of all that failed, the drain of cause 6. -/
theorem firstFails_drains {s : State} {anchors : List (ArrId × Option Anchor)} (h : ∃ e ∈ anchors, e.2 = none) :
    ∃ u a, Only 16400 s u ∧ s.firstFails anchors = u.drain 6 0x000A a.die (locOf a) := by
  obtain ⟨e, he, hfailed⟩ := h
  have hmem : e.1 ∈ (anchors.filter fun e => e.2.isNone).map Prod.fst :=
    List.mem_map_of_mem (List.mem_filter.2 ⟨he, by rw [hfailed]; rfl⟩)
  unfold State.firstFails
  dsimp only
  cases hlist : (anchors.filter fun e => e.2.isNone).map Prod.fst with
  | nil => rw [hlist] at hmem; cases hmem
  | cons a rest => exact ⟨_, a, Only.foldl (Only.refl s) fun x b hx => State.runFailed_only hx (Needs.refl _), rfl⟩

theorem firstFails_leavesCal (s : State) (anchors : List (ArrId × Option Anchor)) : LeavesCal s (s.firstFails anchors) := by
  by_cases h : ∀ e ∈ anchors, e.2.isSome = true
  · rw [firstFails_none h]
    exact ⟨rfl, rfl⟩
  · obtain ⟨u, a, hu, hdrain⟩ := firstFails_drains (s := s) (anchors := anchors) (by simpa using h)
    rw [hdrain]
    exact (hu.leavesCal rfl rfl).trans (drain_leavesCal u _ _ _ _)

/-! ### FIRST_EVER_CALIBRATION (07 R232) -/

theorem exec_firstEverCalibration {s : State} (hrun : s.inRun = true) (hfirm : s.firmwareRuns = true) (hlacks : s.lacksField = true)
    (hdrained : s.isDrained = false) (hvalid : s.tm.valid = true) (hhbm : s.bt.hbmReady = true) (hwarm : s.allProgrammable = true)
    (refin ladder vcref : List Nat) (runs : List (ArrId × List (List Int) × Bool)) :
    exec (.firstEverCalibration ⟨refin, ladder, vcref⟩ runs) s = .next (if traceResult refin = 1 then
      (s.firstCalibrated refin ladder vcref (s.firstAnchors runs)).firstFails (s.firstAnchors runs)
      else (s.firstTrace refin).traceRecorded refin) := by
  rw [← firstTraced_anchors s refin ladder vcref runs]
  change execFirstEverCalibration ⟨refin, ladder, vcref⟩ runs s = _
  unfold execFirstEverCalibration
  rw [if_neg (by simp [hrun, hfirm, hlacks, hdrained, hvalid, hhbm, hwarm])]
  dsimp only
  split <;> rfl

/-- What a first-ever calibration comes to, its runs judged. -/
theorem firstCalibrated_judged (s : State) (refin ladder vcref : List Nat) (anchors : List (ArrId × Option Anchor)) :
    let t := (s.firstCalibrated refin ladder vcref anchors).firstFails anchors
    t.cl.storeField = true ∧ (∀ r ∈ t.cl.store, r.field = true) ∧ t.cl.restored = true ∧ t.wt.calCells = true ∧ t.cl.refTime = some s.stamp ∧
    t.cl.last = traceResult refin ∧ t.cl.trims = tracedTrims s.cl.trims refin ladder vcref := by
  obtain ⟨hcl, hwt⟩ := firstFails_leavesCal (s.firstCalibrated refin ladder vcref anchors) anchors
  dsimp only
  rw [hcl, hwt]
  exact firstCalibrated_spec s refin ladder vcref anchors

/-- With every run passed, the module stays as it is in power and boot. -/
theorem firstCalibrated_passes (s : State) (refin ladder vcref : List Nat) {anchors : List (ArrId × Option Anchor)}
    (h : ∀ e ∈ anchors, e.2.isSome = true) : let t := (s.firstCalibrated refin ladder vcref anchors).firstFails anchors
    t.pw = s.pw ∧ t.bt = s.bt ∧ ((∀ e ∈ s.wt.directory, e.2.wear ≠ 27999) → s.wt.wearBase ≠ 27999 → t.ev = s.ev) := by
  have honly := firstCalibrated_only s refin ladder vcref anchors
  rw [firstFails_none h]
  exact ⟨honly .power rfl, honly .boot rfl, firstCalibrated_ev s refin ladder vcref anchors⟩

/-- With a run that failed, the module drains. -/
theorem firstCalibrated_drains {s : State} (hdrained : s.isDrained = false) (refin ladder vcref : List Nat)
    {anchors : List (ArrId × Option Anchor)} (h : ∃ e ∈ anchors, e.2 = none) :
    let t := (s.firstCalibrated refin ladder vcref anchors).firstFails anchors
    t.bt.drained = some 6 ∧ t.holdsP1 .drained ∧ ∃ e, t.bt.drainLog = rotate 1024 (s.bt.drainLog ++ [e]) ∧ e.code = 0x000A := by
  obtain ⟨u, a, hu, hdrain⟩ := firstFails_drains (s := s.firstCalibrated refin ladder vcref anchors) h
  have hbt : u.bt = s.bt := (hu .boot rfl : u.bt = _).trans (firstCalibrated_only s refin ladder vcref anchors .boot rfl)
  rw [hdrain, ← hbt]
  exact drain_logged (isDrained_of_bt hbt hdrained) 6 0x000A a.die (locOf a)

/-! ### The clauses of the statement -/

/-- Settles O30, clause by clause: the two timers, the start of a run, the wake for it, the fit judged, and the first-ever calibration. -/
theorem calibrationIsRequestedRunAndJudged : Obligations.CalibrationIsRequestedRunAndJudged := by
  unfold Obligations.CalibrationIsRequestedRunAndJudged
  refine ⟨fun s a c hfirm hen harr hvalid hcal htime hheld => ⟨?age, ?expiry⟩,
    fun s id r hrun hen hdrained hwindow htraced hready hstops => ?start,
    fun s id hp1 hmay hwaits hwakes => exec_calibrationRunStart_wakes hp1 hmay hwaits hwakes,
    fun s id r rec raw hrun hr hfires hrec => ⟨fun hrep => ?again, fun hrep hdrained => ?fails, fun hfit hspan => ?passes⟩,
    fun s refin ladder vcref runs hrun hfirm hlacks hdrained hvalid hhbm hwarm => ⟨fun hres => ?calibrated, fun hres => ?untraced⟩⟩
  case age =>
    obtain ⟨m, hs, hcount, hmvalid⟩ := counterTo_spec s (c + days7) hvalid
    refine ⟨_, exec_calibrationAgeTimer hfirm hen harr hvalid hcal htime hheld, ?_⟩
    rw [hs]
    refine ⟨hcount, ?_, fun u hu => requestCal_tile_ne _ _ _ hu⟩
    rw [requestCal_tile, stamp_of_valid hmvalid]
    rfl
  case expiry =>
    obtain ⟨m, hs, hcount, hmvalid⟩ := counterTo_spec s (c + days14) hvalid
    refine ⟨_, exec_calibrationExpiry hfirm hen harr hvalid hcal htime, ?_⟩
    have hunsound : ({ s with tm := m } : State).calSound a = false :=
      calSound_expired hmvalid htime (by rw [hcount]; exact Nat.le_max_right _ _)
    rw [hs, expired_asks (s := { s with tm := m }) hheld hunsound]
    refine ⟨hcount, ?_, fun u hu => (tile_mod_ne _ _ _ _ hu).trans (requestCal_tile_ne _ _ _ hu)⟩
    rw [tile_mod, requestCal_tile, stamp_of_valid hmvalid]
    rfl
  case start =>
    intro u hfirst hidle
    exact ⟨_, exec_calibrationRunStart hrun (runsMayBegin_of hen hdrained hwindow htraced hready hstops) hfirst hidle, tile_mod ..⟩
  case again =>
    exact ⟨_, exec_calibrationFitDone hrun hr hfires hrec (fitAnchor_overRange ..), runFails_first (s := s.active) hrep⟩
  case fails =>
    obtain ⟨hcause, hholds, e, hlog, hcode⟩ := runFails_second (s := s.active) (id := id) hrep hdrained
    exact ⟨_, e, exec_calibrationFitDone hrun hr hfires hrec (fitAnchor_overRange ..), hcause, hholds, hlog, hcode⟩
  case passes => exact exec_calibrationFitDone hrun hr hfires hrec (fitAnchor_of_passes hfit hspan)
  case calibrated =>
    obtain ⟨hfield, hstore, hrestored, hcells, href, hlast, htrims⟩ := firstCalibrated_judged s refin ladder vcref (s.firstAnchors runs)
    exact ⟨_, (exec_firstEverCalibration hrun hfirm hlacks hdrained hvalid hhbm hwarm refin ladder vcref runs).trans (congrArg _ (if_pos hres)),
      hfield, hstore, hrestored, hcells, href, hlast.trans hres, htrims,
      firstCalibrated_passes s refin ladder vcref, firstCalibrated_drains hdrained refin ladder vcref⟩
  case untraced =>
    obtain ⟨hkept, hrecord⟩ := traceRecorded_spec (s.firstTrace refin) refin
    have hcl := hkept.trans (firstTrace_cl s refin)
    exact ⟨_, (exec_firstEverCalibration hrun hfirm hlacks hdrained hvalid hhbm hwarm refin ladder vcref runs).trans (congrArg _ (if_neg hres)),
      (congrArg Calib.store hcl :), (congrArg Calib.storeField hcl :), (congrArg Calib.last hcl :), hrecord⟩

end Sys2Proof.Machine
end

section
/-! PROOFS. O45: the commands for contexts, regions and serving (12 Table 12.4, 08 R236, 09 R271, R294). Each command that is ready runs its row
of Table 12.4 on the state that has heard its frame; the lemmas here say which branch of the row runs, by command and outcome. -/

set_option Elab.async false

namespace Sys2Proof.Machine

/-! ### CREATE_CONTEXT -/

theorem createContext_done {u : State} {a : Bytes} (hfree : u.context (newContext a).id = none) (hok : u.contextOk (newContext a) = true) :
    cmdCreateContext.run u a = (u.setContext (newContext a)).done := if_neg (by simp [hfree, hok])

theorem createContext_fails {u : State} {a : Bytes} (hbad : ¬ (u.context (newContext a).id = none ∧ u.contextOk (newContext a) = true)) :
    cmdCreateContext.run u a = u.fails 5 := by
  refine if_pos ?_
  rw [Bool.or_eq_true, Bool.not_eq_true', Option.isSome_iff_ne_none, ← Bool.not_eq_true]
  exact not_and_or.1 hbad

/-! ### CHANGE_CONTEXT -/

/-- Dropping a slot's draft touches its pages and the slot alone. -/
@[simp] theorem dropDraft_sv_contexts (s : State) (slot : Nat) : (s.dropDraft slot).sv.contexts = s.sv.contexts := by
  unfold State.dropDraft
  rw [State.modSlot_sv_contexts, State.modHeld_sv, State.clearPages_sv, foldl_keep State.sv State.freeFrame _ _ State.freeFrame_sv]

theorem context_setContext (s : State) (x : Context) : (s.setContext x).context x.id = some x := find_putBy _ _ _ (by simp)

/-- A context changed is the one found under its number, whatever drafts were dropped for it. -/
theorem context_changeContext (s : State) (old new : Context) : (s.changeContext old new).context new.id = some new := by
  have hkept : (s.changeContext old new).sv.contexts = (s.setContext new).sv.contexts := by
    unfold State.changeContext
    split
    · rfl
    · exact foldl_keep (fun t => t.sv.contexts) _ _ _ fun t x => dropDraft_sv_contexts t x.id
  unfold State.context
  rw [hkept]
  exact context_setContext s new

theorem changeContext_missing {u : State} {a : Bytes} (hnone : u.context (newContext a).id = none) :
    cmdChangeContext.run u a = u.fails 5 := by
  unfold cmdChangeContext
  dsimp only
  rw [hnone]

/-- CHANGE_CONTEXT of a context that stands goes by the four checks of its row. -/
theorem changeContext_found {u : State} {a : Bytes} {old : Context} (hold : u.context (newContext a).id = some old) :
    cmdChangeContext.run u a =
      if old.tenant ≠ (newContext a).tenant ∨ old.model ≠ (newContext a).model ∨ old.discarding = true ∨ u.contextOk (newContext a) = false
      then u.fails 5 else (u.changeContext old (newContext a)).done := by
  unfold cmdChangeContext
  dsimp only
  rw [hold]
  refine if_congr ?_ rfl rfl
  simp only [Bool.or_eq_true, bne_iff_ne, Bool.not_eq_true']
  tauto

/-! ### DISCARD_CONTEXT -/

theorem discardContext_missing {u : State} {a : Bytes} (hnone : u.context (fld a 0 1) = none) : cmdDiscardContext.run u a = u.fails 5 := by
  unfold cmdDiscardContext
  dsimp only
  rw [hnone]

theorem discardContext_found {u : State} {a : Bytes} {x : Context} (hx : u.context (fld a 0 1) = some x) :
    cmdDiscardContext.run u a = if x.discarding then u.fails 5 else (u.discardContext x.id).done := by
  unfold cmdDiscardContext
  dsimp only
  rw [hx]

/-! ### SET_REGIONS -/

theorem setRegions_busy {u : State} {a : Bytes} (hbusy : ∃ x ∈ u.sv.slots, x.state ≠ .free) : cmdSetRegions.run u a = u.fails 5 :=
  if_pos (by simpa using hbusy)

/-- With every slot FREE, SET_REGIONS fails for the sizes alone. -/
theorem setRegions_over {u : State} {a : Bytes} (hfree : ∀ x ∈ u.sv.slots, x.state = .free)
    (hover : ∃ k, k < 16 ∧ stackBytes < (u.resizeRegions (fld a 0 4) (fld a 4 4)).regionBytes k) : cmdSetRegions.run u a = u.fails 6 :=
  (if_neg (by simpa using hfree)).trans (if_pos (by simpa using hover))

theorem setRegions_done {u : State} {a : Bytes} (hfree : ∀ x ∈ u.sv.slots, x.state = .free)
    (hfit : ∀ k, k < 16 → (u.resizeRegions (fld a 0 4) (fld a 4 4)).regionBytes k ≤ stackBytes) :
    cmdSetRegions.run u a = (u.resizeRegions (fld a 0 4) (fld a 4 4)).done :=
  (if_neg (by simpa using hfree)).trans (if_neg (by simpa using hfit))

/-! ### The clauses of the statement -/

/-- Settles O45, command by command: each outcome by the branch of the command's row that runs, then by how a command completes. -/
theorem contextAndServingCommandsComplete : Obligations.ContextAndServingCommandsComplete := by
  unfold Obligations.ContextAndServingCommandsComplete
  refine ⟨fun s c h => ⟨_, rfl, ?create⟩,
    fun s c h => ⟨_, rfl, fun hnone => ?changeMissing, fun old hold => ⟨fun hbad => ?changeBad, fun htenant hmodel hstands hok => ?change⟩⟩,
    fun s c h => ⟨_, rfl, fun hnone => ?discardMissing, fun x hx => ?discard⟩,
    fun s c h => ⟨_, rfl, fun hbusy => ?regionsBusy, fun hfree => ⟨fun hover => ?regionsOver, fun hfit => ?regions⟩⟩,
    fun s c h => ⟨_, rfl, ?serving⟩⟩
  case create =>
    exact ite_intro (fun hgood => done_at h (fun _ => rfl) (createContext_done hgood.1 hgood.2))
      fun hbad => fails_at h (createContext_fails hbad) (by decide)
  case changeMissing => exact fails_at h (changeContext_missing hnone) (by decide)
  case changeBad => exact fails_at h ((changeContext_found hold).trans (if_pos hbad)) (by decide)
  case change =>
    have hgood := (changeContext_found hold).trans (if_neg (by simp [htenant, hmodel, hstands, hok]))
    exact ⟨done_at h (fun _ => rfl) hgood, context_changeContext _ old _⟩
  case discardMissing => exact fails_at h (discardContext_missing hnone) (by decide)
  case discard =>
    exact ite_intro (fun hgoing => fails_at h ((discardContext_found hx).trans (if_pos hgoing)) (by decide))
      fun hstands => done_at h (fun _ => rfl) ((discardContext_found hx).trans (if_neg hstands))
  case regionsBusy => exact fails_at h (setRegions_busy hbusy) (by decide)
  case regionsOver => exact fails_at h (setRegions_over hfree hover) (by decide)
  case regions => exact done_at h (fun _ => rfl) (setRegions_done hfree hfit)
  case serving => exact done_at h (fun _ => rfl) rfl

end Sys2Proof.Machine
end

section
/-! PROOFS. O36: a port that goes DOWN, retrains or fails, and the recomputed route table (10 R311, R315, R320, R333). First what sending leaves of
the receiving side of a link, which the flits of O37 use too. -/

set_option Elab.async false

namespace Sys2Proof.Machine

/-! ### What sending leaves of a link's receiving side (10 R314) -/

/-- `m` has received what `l` has: the same expected and last good SEQ, frames and assembly; and where `l` owes no NAK, `m` owes none. -/
structure Link.SameReceived (l m : Link) : Prop where
  expected : m.expected = l.expected
  lastGood : m.lastGood = l.lastGood
  frames : m.frames = l.frames
  assembly : m.assembly = l.assembly
  nak : l.nak = false → m.nak = false

theorem Link.SameReceived.refl (l : Link) : l.SameReceived l := ⟨rfl, rfl, rfl, rfl, id⟩

theorem Link.SameReceived.trans {l m n : Link} (h : l.SameReceived m) (g : m.SameReceived n) : l.SameReceived n :=
  ⟨g.expected.trans h.expected, g.lastGood.trans h.lastGood, g.frames.trans h.frames, g.assembly.trans h.assembly, g.nak ∘ h.nak⟩

theorem Link.SameReceived.ite {P : Prop} [Decidable P] {l m n : Link} (h : l.SameReceived m) (g : l.SameReceived n) :
    l.SameReceived (if P then m else n) := by
  split
  · exact h
  · exact g

theorem Link.emit_received (l : Link) (c : Sender) (f : SentFlit) : l.SameReceived (l.emit c f) := ⟨rfl, rfl, rfl, rfl, fun _ => rfl⟩

theorem Link.pump_received (c : Sender) (n : Nat) (l : Link) : l.SameReceived (l.pump c n) := by
  induction n generalizing l with
  | zero => exact .refl l
  | succ n ih =>
    unfold Link.pump
    split
    · exact .refl l
    split
    · exact .refl l
    split
    · exact .refl l
    · refine Link.SameReceived.trans ?_ (ih _)
      exact ⟨rfl, rfl, rfl, rfl, fun _ => rfl⟩

theorem Link.flush_received (l : Link) (c : Sender) : l.SameReceived (l.flush c) := Link.pump_received c _ l

theorem Link.resend_received (l : Link) (c : Sender) : l.SameReceived (l.resend c) := ⟨rfl, rfl, rfl, rfl, id⟩

theorem Link.answer_received (l : Link) (c : Sender) : l.SameReceived (l.answer c) :=
  .ite (.refl l) (l.emit_received c idleFlit)

theorem Link.resume_received (l : Link) (c : Sender) : l.SameReceived (l.resume c) :=
  Link.SameReceived.trans (m := { l.resend c with replay := _ }) ⟨rfl, rfl, rfl, rfl, id⟩ (Link.flush_received _ c)

/-! ### DOWN (10 R315, R320) -/

/-- A DOWN for eight resends has its cause when a flit of the replay buffer was resent eight times; the other causes need no more. -/
theorem Link.downFor_of_resent {l : Link} {c : DownCause} (h : c = .resends → ∃ f ∈ l.replay, 8 ≤ f.resends) : l.downFor c = true := by
  cases c with
  | resends => simpa [Link.downFor] using h rfl
  | lockLost => rfl
  | silence => rfl

theorem exec_portDown_courier {s : State} {k : Nat} {c : DownCause} (hon : s.linksPowered = true) (hk : k < 12)
    (hup : (s.port k).state = .up) (hc : (s.port k).link.downFor c = true) :
    exec (.portDown k c) s = .next (s.modPort k CourierPort.down) := by
  change execPortDown k c s = _
  unfold execPortDown
  rw [if_pos hk]
  simp [hon, hup, hc]

@[simp] theorem dispatchOf_add (d : Nat) : dispatchOf (12 + d) = d := Nat.add_sub_cancel_left 12 d

theorem dispatch_not_courier (d : Nat) : ¬ 12 + d < 12 := by omega

theorem exec_portDown_dispatch {s : State} {d : Nat} {c : DownCause} (hon : s.linksPowered = true) (hd : d < 2)
    (hup : (s.dsp d).state = .up) (hc : (s.dsp d).link.downFor c = true) :
    exec (.portDown (12 + d) c) s =
      .next (s.modDsp d fun d => { d with state := .retrain, link := { d.link with downs := d.link.downs + 1 } }) := by
  change execPortDown (12 + d) c s = _
  unfold execPortDown
  rw [if_neg (dispatch_not_courier d)]
  simp [State.dispatchAlive, hon, hd, hup, hc]

/-! ### Retrains (10 R311, R315, R320) -/

/-- The lane groups that a port's partner reports, none where no advert has come. -/
def CourierPort.partnerLanes (p : CourierPort) : Nat := (p.partnerAdv.map Advert.lanes).getD 0

/-- A retrain with its three adverts fails without a common lane group and else puts the port on the common groups. -/
theorem exec_retrainDone_courier {s : State} {k lanes : Nat} (hon : s.linksPowered = true) (hk : k < 12)
    (hretrain : (s.port k).state = .retrain) (hlanes : lanes = lockedLanes (s.port k).locked) (hsame : 3 ≤ (s.port k).advertsSame) :
    exec (.retrainDone k lanes) s =
      if usableLanes lanes (s.port k).partnerLanes = 0 then .next (s.portFails k 2)
      else .next (s.modPort k fun q => q.retrained (usableLanes lanes (s.port k).partnerLanes)
        (if s.pw.state = .p2 then .keepalive else .up) s.tm.tick s.localTime) := by
  have hgo : ((s.port k).state != .retrain || lanes != lockedLanes (s.port k).locked || decide ((s.port k).advertsSame < 3)) = false := by
    simp [hretrain, ← hlanes, hsame]
  change execRetrainDone k lanes s = _
  unfold execRetrainDone CourierPort.partnerLanes
  rw [if_neg (by simp [hon]), if_pos hk]
  dsimp only
  rw [if_neg (by simp [hgo])]
  cases (s.port k).partnerAdv <;> rfl

theorem CourierPort.restored_link (p : CourierPort) : p.restored.link = p.link := by
  unfold CourierPort.restored
  split
  · rfl
  split <;> rfl

/-- A retrained port is at its goal on the lanes given, and has received what it had. -/
theorem CourierPort.retrained_spec (p : CourierPort) (g : Nat) (goal : PortState) (now time : Nat) :
    (p.retrained g goal now time).state = goal ∧ (p.retrained g goal now time).lanes = g ∧
      p.link.SameReceived (p.retrained g goal now time).link := by
  refine ⟨rfl, rfl, ?_⟩
  rw [← p.restored_link]
  exact Link.resume_received _ _

theorem exec_retrainDone_dispatch {s : State} {d lanes : Nat} (hon : s.linksPowered = true) (hd : d < 2)
    (hretrain : (s.dsp d).state = .retrain) : exec (.retrainDone (12 + d) lanes) s =
      .next (s.modDsp d fun d => { d with state := .up, link := d.link.resume (dispatchSender s.tm.tick) }) := by
  change execRetrainDone (12 + d) lanes s = _
  unfold execRetrainDone
  rw [if_neg (by simp [hon]), if_neg (dispatch_not_courier d)]
  simp [hretrain, hd]

theorem exec_retrainTimeout_courier {s : State} {k : Nat} (hon : s.linksPowered = true) (hk : k < 12)
    (hretrain : (s.port k).state = .retrain) : exec (.retrainTimeout k) s = .next (s.portFails k 2) := by
  change execRetrainTimeout k s = _
  unfold execRetrainTimeout
  rw [if_neg (by simp [hon]), if_pos hk]
  simp [hretrain]

theorem exec_retrainTimeout_dispatch {s : State} {d : Nat} (hon : s.linksPowered = true) (hd : d < 2)
    (hretrain : (s.dsp d).state = .retrain) :
    exec (.retrainTimeout (12 + d)) s = .next (s.modDsp d fun d => { d with state := .failed }) := by
  change execRetrainTimeout (12 + d) s = _
  unfold execRetrainTimeout
  rw [if_neg (by simp [hon]), if_neg (dispatch_not_courier d)]
  simp [hretrain, hd]

/-! ### The route table (10 R333) -/

/-- A fold that finds nothing to do for any element leaves the state as it is. -/
theorem foldl_idle {α : Type} {f : State → α → State} {l : List α} {s : State} (h : ∀ a ∈ l, f s a = s) : l.foldl f s = s := by
  induction l with
  | nil => rfl
  | cons a l ih => rw [List.foldl_cons, h a (by simp)]; exact ih fun b hb => h b (by simp [hb])

/-- With no job cut off, the recomputed table is put in place and nothing else happens. -/
theorem exec_routeRecompute {s : State} {links : List (Nat × Nat × Nat)} (hrun : s.firmwareRuns = true) (hcoord : s.fb.coordValid = true)
    {t : State} (ht : t = { s with fb := { s.fb with routes := s.routesOver links, links := links, detours := [] } })
    (hcut : ∀ j ∈ s.fb.jobs, t.cutMember j = none) : exec (.routeRecompute links) s = .next t := by
  subst ht
  change execRouteRecompute links s = _
  unfold execRouteRecompute
  rw [if_neg (by simp [hrun, hcoord])]
  exact congrArg _ (foldl_idle fun j hj => by simp only [hcut j hj])

/-! ### The clauses of the statement -/

/-- Settles O36, row by row: a DOWN, a retrain that is done or out of time, on a Courier and on a Dispatch port, and the recomputed table. -/
theorem portsGoDownRetrainAndFail : Obligations.PortsGoDownRetrainAndFail := by
  unfold Obligations.PortsGoDownRetrainAndFail
  refine ⟨fun s k c hon hk hup hc => ?down, fun s d c hon hd hlisted hup hc => ?dispatchDown,
    fun s k lanes hon hk hretrain hlanes hsame => ?retrained, fun s d lanes hon hd hlisted hretrain => ?dispatchRetrained,
    fun s k hon hk hretrain => ?late, fun s d hon hd hlisted hretrain => ?dispatchLate, fun s links hrun hcoord => ?routes⟩
  case down =>
    exact ⟨_, exec_portDown_courier hon hk hup (Link.downFor_of_resent hc), rfl, fun m hm => port_mod_ne _ _ _ _ hm,
      port_mod _ _ _ (port_of_state s k _ hup nofun)⟩
  case dispatchDown =>
    exact ⟨_, exec_portDown_dispatch hon hd hup (Link.downFor_of_resent hc), fun m hm => dsp_mod_ne _ _ _ _ hm, rfl, dsp_mod _ _ _ hlisted⟩
  case retrained =>
    have hlisted := port_of_state s k _ hretrain nofun
    have hexec := exec_retrainDone_courier hon hk hretrain hlanes hsame
    have hadv : (match (s.port k).partnerAdv with
      | some a => a.lanes
      | none => 0) = (s.port k).partnerLanes := by
      unfold CourierPort.partnerLanes; cases (s.port k).partnerAdv <;> rfl
    dsimp only
    refine ⟨fun hnone => ⟨_, hexec.trans (if_pos (hadv ▸ hnone)), portFails_state s k 2 hlisted⟩,
      fun hsome => ⟨_, hexec.trans (if_neg (hadv ▸ hsome)), rfl, fun m hm => port_mod_ne _ _ _ _ hm, ?_⟩⟩
    obtain ⟨hstate, hl, hsameReceived⟩ := (s.port k).retrained_spec (usableLanes lanes (s.port k).partnerLanes)
      (if s.pw.state = .p2 then .keepalive else .up) s.tm.tick s.localTime
    rw [port_mod _ _ _ hlisted]
    exact ⟨hstate, hl.trans (congrArg (usableLanes lanes) hadv.symm), hsameReceived.expected, hsameReceived.frames⟩
  case dispatchRetrained =>
    refine ⟨_, exec_retrainDone_dispatch hon hd hretrain, ?_, fun m hm => dsp_mod_ne _ _ _ _ hm⟩
    rw [dsp_mod _ _ _ hlisted]
  case late => exact ⟨_, exec_retrainTimeout_courier hon hk hretrain, portFails_state s k 2 (port_of_state s k _ hretrain nofun)⟩
  case dispatchLate => exact ⟨_, exec_retrainTimeout_dispatch hon hd hretrain, dsp_mod _ _ _ hlisted, rfl⟩
  case routes => exact fun hcut => exec_routeRecompute hrun hcoord rfl hcut

end Sys2Proof.Machine
end

section
/-! PROOFS. O37: the flits of a link: their bytes and their way over the lanes and the PCS, what a received one does, the resend, the idle flit of P2
Nap, and the tries of a bridge flit (10 R310, R312, R314, R317, R320, 11 R358, 01 R10). -/

set_option Elab.async false

namespace Sys2Proof.Machine

/-! ### Bytes at an offset -/

/-- A slice behind a head is a slice of what follows the head. -/
theorem slice_skip {x y : Bytes} {off len : Nat} (hx : x.length = off) (k : Nat) : slice (x ++ y) (off + k) len = slice y k len := by
  subst hx
  unfold slice
  rw [← List.drop_drop, List.drop_left]

theorem slice_head {x y : Bytes} {len : Nat} (hx : x.length = len) : slice (x ++ y) 0 len = x := List.take_left' hx

theorem fld_skip {x y : Bytes} {off len : Nat} (hx : x.length = off) (k : Nat) : fld (x ++ y) (off + k) len = fld y k len :=
  congrArg leNat (slice_skip hx k)

theorem leNat_natLe (n v : Nat) : leNat (natLe n v) = v % 256 ^ n := by
  induction n generalizing v with
  | zero => simp [natLe, leNat, Nat.mod_one]
  | succ n ih =>
    unfold natLe leNat
    rw [ih, BitVec.toNat_ofNat, show 256 ^ (n + 1) = 256 * 256 ^ n from Nat.pow_succ']
    exact Nat.mod_mul.symm

/-- A field written with `natLe` reads back when its value fits. -/
theorem fld_natLe {y : Bytes} {len v : Nat} (hv : v < 256 ^ len) : fld (natLe len v ++ y) 0 len = v := by
  unfold fld
  rw [slice_head (natLe_length len v), leNat_natLe, Nat.mod_eq_of_lt hv]

theorem b2n_le_one (b : Bool) : b2n b ≤ 1 := by cases b <;> decide

/-! ### The bytes of a flit (10 R312, Table 10.3) -/

/-- The data and the trailer of a flit, without the CRC. -/
def SentFlit.body (f : SentFlit) : Bytes :=
  f.data ++ natLe 2 (f.seq + 4096 * f.vc) ++ natLe 2 (f.ack + 4096 * b2n f.nak) ++ natLe 2 (f.creditVc + 16 * f.credit) ++
    natLe 1 f.fkind ++ natLe 5 0

theorem SentFlit.bytes_eq (f : SentFlit) : f.bytes = f.body ++ natLe 4 (crc32c f.body) := rfl

theorem SentFlit.body_length {f : SentFlit} (h : f.data.length = 240) : f.body.length = 252 := by
  simp [SentFlit.body, natLe_length, h]

theorem SentFlit.bytes_length {f : SentFlit} (h : f.data.length = 240) : f.bytes.length = 256 := by
  rw [f.bytes_eq, List.length_append, f.body_length h, natLe_length]

/-- The fields of a flit one behind the other. -/
theorem SentFlit.bytes_layout (f : SentFlit) : f.bytes = f.data ++ (natLe 2 (f.seq + 4096 * f.vc) ++ (natLe 2 (f.ack + 4096 * b2n f.nak) ++
    (natLe 2 (f.creditVc + 16 * f.credit) ++ (natLe 1 f.fkind ++ (natLe 5 0 ++ natLe 4 (crc32c f.body)))))) := by
  rw [f.bytes_eq]
  simp only [SentFlit.body, List.append_assoc]

section Trailer
variable {f : SentFlit} (hdata : f.data.length = 240)
include hdata

theorem SentFlit.bytes_data : f.bytes.take 240 = f.data := by
  rw [f.bytes_layout]
  exact List.take_left' hdata

theorem SentFlit.bytes_seq (hseq : f.seq < 4096) (hvc : f.vc < 16) : fld f.bytes 240 2 = f.seq + 4096 * f.vc := by
  rw [f.bytes_layout]
  exact (fld_skip hdata 0).trans (fld_natLe (by omega))

theorem SentFlit.bytes_ack (hack : f.ack < 4096) : fld f.bytes 242 2 = f.ack + 4096 * b2n f.nak := by
  have := b2n_le_one f.nak
  rw [f.bytes_layout]
  exact (fld_skip hdata 2).trans ((fld_skip (natLe_length 2 _) 0).trans (fld_natLe (by omega)))

theorem SentFlit.bytes_credit (hvc : f.creditVc < 16) (hcredit : f.credit < 4096) : fld f.bytes 244 2 = f.creditVc + 16 * f.credit := by
  rw [f.bytes_layout]
  exact (fld_skip hdata 4).trans ((fld_skip (natLe_length 2 _) 2).trans ((fld_skip (natLe_length 2 _) 0).trans (fld_natLe (by omega))))

theorem SentFlit.bytes_fkind (hkind : f.fkind < 256) : fld f.bytes 246 1 = f.fkind := by
  rw [f.bytes_layout]
  exact (fld_skip hdata 6).trans ((fld_skip (natLe_length 2 _) 4).trans ((fld_skip (natLe_length 2 _) 2).trans
    ((fld_skip (natLe_length 2 _) 0).trans (fld_natLe (by omega)))))

theorem SentFlit.bytes_reserved : slice f.bytes 247 5 = natLe 5 0 := by
  rw [f.bytes_layout]
  exact (slice_skip hdata 7).trans ((slice_skip (natLe_length 2 _) 5).trans ((slice_skip (natLe_length 2 _) 3).trans
    ((slice_skip (natLe_length 2 _) 1).trans ((slice_skip (natLe_length 1 _) 0).trans (slice_head (natLe_length 5 0))))))

/-- The CRC-32C stands behind the data and the trailer that it is over. -/
theorem SentFlit.bytes_crc : slice f.bytes 252 4 = natLe 4 (crc32c (f.bytes.take 252)) := by
  rw [f.bytes_eq, List.take_left' (f.body_length hdata)]
  exact (slice_skip (f.body_length hdata) 0).trans (List.take_of_length_le (natLe_length 4 _).le)

end Trailer

/-! ### Lanes (10 R310, R317) -/

theorem dealt_length {α : Type} (n i : Nat) (l : List α) (d : α) : (dealt n i l d).length = l.length / n := by simp [dealt]

theorem dealt_at {α : Type} (n i k : Nat) (l : List α) (d : α) (h : k < l.length / n) : at' (dealt n i l d) k d = at' l (n * k + i) d := by
  simp [dealt, at', List.getD_eq_getElem?_getD, h]

/-- The first `m` rounds of `n` units in turn are the first `n * m` units. -/
theorem flatMap_rounds {α : Type} (n : Nat) (l : List α) (d : α) (m : Nat) (h : n * m ≤ l.length) :
    ((List.range m).flatMap fun k => (List.range n).map fun i => at' l (n * k + i) d) = l.take (n * m) := by
  induction m with
  | zero => simp
  | succ m ih =>
    have hm : n * m + n ≤ l.length := by rw [← Nat.mul_succ]; exact h
    rw [List.range_succ, List.flatMap_append, ih (by omega), List.flatMap_singleton, Nat.mul_succ, List.take_add]
    congr 1
    refine List.ext_getElem (by simp; omega) fun i hi _ => ?_
    have hi : i < n := by simpa using hi
    have hlt : n * m + i < l.length := by omega
    simp [at', List.getD_eq_getElem?_getD, hlt]

/-- The lanes give back the flit that was dealt over them. -/
theorem woven_dealt {n : Nat} {flit : Bytes} (hn : 0 < n) (hdvd : flit.length % n = 0) :
    woven ((List.range n).map fun i => dealt n i flit 0) 0 = flit := by
  have hfirst : at' ((List.range n).map fun i => dealt n i flit 0) 0 [] = dealt n 0 flit 0 := by
    simp [at', List.getD_eq_getElem?_getD, hn]
  have hall : n * (flit.length / n) = flit.length := Nat.mul_div_cancel' (Nat.dvd_of_mod_eq_zero hdvd)
  unfold woven
  rw [hfirst, dealt_length]
  calc _ = (List.range (flit.length / n)).flatMap fun k => (List.range n).map fun i => at' flit (n * k + i) 0 := by
        refine List.flatMap_congr fun k hk => ?_
        rw [List.map_map]
        exact List.map_congr_left fun i _ => dealt_at n i k flit 0 (List.mem_range.1 hk)
    _ = flit.take (n * (flit.length / n)) := flatMap_rounds n flit 0 _ (by omega)
    _ = flit := by rw [hall, List.take_length]

/-! ### PCS packets (11 R358) -/

theorem pieces_flatten {α : Type} {n fuel : Nat} {l : List α} (h : l.length ≤ fuel * n) : (pieces n fuel l).flatten = l := by
  induction fuel generalizing l with
  | zero =>
    have : l = [] := List.eq_nil_of_length_eq_zero (by omega)
    subst this; rfl
  | succ fuel ih =>
    unfold pieces
    split
    · rename_i hempty; simp [List.isEmpty_iff.1 hempty]
    · rw [List.flatten_cons, ih (by rw [List.length_drop]; rw [Nat.succ_mul] at h; omega), List.take_append_drop]

/-- Data blocks inside a packet join the flit in progress. -/
theorem pcsFlits_data (b : Bytes) (ps : List Bytes) (bs : List PcsBlock) :
    pcsFlits (some b) (ps.map .data ++ bs) = pcsFlits (some (b ++ ps.flatten)) bs := by
  induction ps generalizing b with
  | nil => simp
  | cons p ps ih =>
    rw [List.map_cons, List.cons_append, pcsFlits, Option.map_some, ih, List.flatten_cons, List.append_assoc]

/-- The PCS gives back the flit of a packet. -/
theorem pcsFlits_pcsPacket {flit : Bytes} (h : flit.length = 256) : pcsFlits none (pcsPacket flit) = [some flit] := by
  have hpieces : (pieces 8 31 ((flit.drop 7).take 248)).flatten = (flit.drop 7).take 248 := pieces_flatten (by simp)
  have hlast : at' flit 255 0 = flit[255] := by simp [at', List.getD_eq_getElem?_getD, h]
  have hwhole : flit.take 7 ++ (flit.drop 7).take 248 ++ [at' flit 255 0] = flit := by
    rw [← List.take_add, hlast, List.take_append_getElem, List.take_of_length_le (by omega)]
  have hdata := pcsFlits_data (flit.take 7) (pieces 8 31 ((flit.drop 7).take 248)) [.terminate (at' flit 255 0), .idle]
  calc pcsFlits none (pcsPacket flit)
      = pcsFlits (some (flit.take 7)) ((pieces 8 31 ((flit.drop 7).take 248)).map .data ++ [.terminate (at' flit 255 0), .idle]) := rfl
    _ = [some (flit.take 7 ++ (flit.drop 7).take 248 ++ [at' flit 255 0])] := by rw [hdata, hpieces]; rfl
    _ = [some flit] := by rw [hwhole]

/-! ### Idle flits (10 R314, R320, log entry 64) -/

/-- An idle flit as it leaves: it has no departure stamp. -/
theorem Link.filled_idle (l : Link) (c : Sender) : l.filled c idleFlit =
    { idleFlit with seq := l.nextSend, ack := l.ackSeq, nak := l.nak, creditVc := l.giving.1, credit := l.giving.2, sent := c.now,
                    marker := c.marks && l.sinceMarker == 15 } := by
  unfold Link.filled
  cases c.time <;> rfl

/-- An idle flit takes a sequence number and a place in the replay buffer, and no credit. -/
theorem Link.emit_idle (l : Link) (c : Sender) : l.emit c idleFlit =
    { l with nextSend := (l.nextSend + 1) % 4096, nak := false, owed := l.owed.drop 1, sinceMarker := (l.sinceMarker + 1) % 16,
             replay := l.replay ++ [l.filled c idleFlit] } := by
  unfold Link.emit
  rw [l.filled_idle c]
  rfl

theorem Link.answer_full {l : Link} (c : Sender) (h : 512 ≤ l.replay.length) : l.answer c = l := if_pos h

theorem Link.answer_room {l : Link} (c : Sender) (h : l.replay.length < 512) : l.answer c = l.emit c idleFlit := if_neg (by omega)

/-! ### A flit received (10 R314) -/

theorem exec_flitReceive {s : State} {k : Nat} {f : Flit} (halive : s.courierAlive k = true) (hkind : f.fkind ≠ 5) :
    exec (.flitReceive k f) s = .next (s.modPort k fun p => p.receive s.tm.tick s.localTime f) := by
  change execFlitReceive k f s = _
  unfold execFlitReceive
  rw [if_neg (by simp [hkind]), if_pos halive]

/-- A link that owes a NAK, its count of CRC errors at `x`. -/
def Link.owing (l : Link) (x : Nat) : Link := { l with crcErr := x, nak := true }

theorem Link.answer_crcErr (l : Link) (c : Sender) : (l.answer c).crcErr = l.crcErr := by
  unfold Link.answer
  split <;> rfl

theorem Link.set_crcErr {l : Link} {x : Nat} (h : l.crcErr = x) : { l with crcErr := x } = l := by
  subst h
  rfl

/-- A flit whose CRC fails leaves a NAK and its count. -/
theorem CourierPort.receive_badCrc (p : CourierPort) (now time : Nat) {f : Flit} (h : f.crcOk = false) :
    p.receive now time f =
      { p with link := { (p.link.owing (p.link.crcErr + 1)).answer (p.sender now time) with crcErr := p.link.crcErr + 1 } } := by
  have hcount := (p.link.owing (p.link.crcErr + 1)).answer_crcErr (p.sender now time)
  unfold CourierPort.receive Link.receive
  rw [if_pos (by simp [h])]
  exact congrArg (fun l => { p with link := l }) (Link.set_crcErr hcount).symm

/-- A flit out of order leaves a NAK. -/
theorem CourierPort.receive_outOfOrder (p : CourierPort) (now time : Nat) {f : Flit} (h : f.crcOk = true) (hseq : f.seq ≠ p.link.expected) :
    p.receive now time f = { p with link := (p.link.owing p.link.crcErr).answer (p.sender now time) } := by
  unfold CourierPort.receive Link.receive
  rw [if_neg (by simp [h]), if_pos hseq]
  rfl

/-- The NAK that a port owes goes out in an idle flit, or waits for room. -/
theorem naked_answer (s : State) (k x : Nat) :
    s.naked k (((s.port k).link.owing x).answer ((s.port k).sender s.tm.tick s.localTime)) := by
  refine ⟨fun hfull => ?_, fun hroom => ?_⟩
  · rw [Link.answer_full (l := (s.port k).link.owing x) _ hfull]
    rfl
  · rw [Link.answer_room (l := (s.port k).link.owing x) _ hroom, Link.emit_idle, Link.filled_idle]
    rfl

/-- A link that has taken a flit in order, before what it acknowledges and returns. -/
def Link.accepts (l : Link) (f : Flit) : Link := { l with expected := (l.expected + 1) % 4096, lastGood := some f.seq, nak := false }

theorem Link.acked_received (l : Link) (ack : Nat) : l.SameReceived (l.acked ack).2 := by
  unfold Link.acked
  split
  · exact ⟨rfl, rfl, rfl, rfl, id⟩
  · exact .refl l

theorem Link.returned_received (l : Link) (grant : Nat → Nat) (vc n : Nat) : l.SameReceived (l.returned grant vc n) :=
  .ite (.refl l) ⟨rfl, rfl, rfl, rfl, id⟩

/-- What a flit in order brings stands after all that it lets go. -/
theorem Link.receive_inOrder (l : Link) (c : Sender) (trim : Bytes → Bytes) {f : Flit} (h : f.crcOk = true) (hseq : f.seq = l.expected) :
    ((l.accepts f).carried c trim f).SameReceived (l.receive c trim f).2 := by
  unfold Link.receive
  rw [if_neg (by simp [h]), if_neg (by simp [hseq])]
  dsimp only
  have hacked := (((l.accepts f).carried c trim f).acked_received f.ack).trans (Link.returned_received _ c.grant f.creditVc f.credit)
  have hsent := (hacked.trans (.ite (P := f.nak = true) (Link.resend_received _ c) (.refl _))).trans (Link.flush_received _ c)
  exact .ite (hsent.trans (Link.answer_received _ c)) hsent

theorem Link.take_receiver (l : Link) (trim : Bytes → Bytes) (f : Flit) :
    (l.take trim f).expected = l.expected ∧ (l.take trim f).lastGood = l.lastGood ∧ (l.take trim f).nak = l.nak := by
  unfold Link.take
  dsimp only
  split
  · exact ⟨rfl, rfl, rfl⟩
  split
  · exact ⟨rfl, rfl, rfl⟩
  split
  · exact ⟨rfl, rfl, rfl⟩
  split <;> exact ⟨rfl, rfl, rfl⟩

theorem Link.carried_receiver (l : Link) (c : Sender) (trim : Bytes → Bytes) (f : Flit) :
    (l.carried c trim f).expected = l.expected ∧ (l.carried c trim f).lastGood = l.lastGood ∧ (l.carried c trim f).nak = l.nak := by
  unfold Link.carried
  split
  · exact ⟨rfl, rfl, rfl⟩
  · exact l.take_receiver trim f

/-- A flit of frame kind 4 is a whole frame on its channel. -/
theorem Link.carried_whole (l : Link) {c : Sender} (trim : Bytes → Bytes) {f : Flit} (hkind : f.fkind = 4) (hgrant : c.grant f.vc ≠ 0) :
    (l.carried c trim f).frames = l.frames ++ [(f.vc, trim f.data)] := by
  unfold Link.carried
  rw [if_neg (by simp [hkind, hgrant])]
  simp [Link.take, hkind]

theorem Link.carried_idle (l : Link) (c : Sender) (trim : Bytes → Bytes) {f : Flit} (hkind : f.fkind = 0) : l.carried c trim f = l :=
  if_pos (by simp [hkind])

/-! ### The resend (10 R314) -/

theorem exec_flitResendTimeout {s : State} {k : Nat} {f : SentFlit} {fs : List SentFlit} (halive : s.courierAlive k = true)
    (hreplay : (s.port k).link.replay = f :: fs) :
    exec (.flitResendTimeout k) s = .next ((s.advanceTo (f.sent + 500)).modPort k fun p =>
      { p with link := p.link.resend (p.sender (s.advanceTo (f.sent + 500)).tm.tick (s.advanceTo (f.sent + 500)).localTime) }) := by
  change execFlitResendTimeout k s = _
  unfold execFlitResendTimeout Link.resendDue
  rw [if_pos halive, hreplay]
  rfl

theorem Link.resend_cons {l : Link} {c : Sender} {f : SentFlit} {fs : List SentFlit} (h : l.replay = f :: fs) : l.resend c = { l with
    replay := (f :: fs).mapIdx fun i x => { x with ack := l.ackSeq, nak := false, sent := c.now, resends := x.resends + 1,
                                                   marker := c.marks && (l.sinceMarker + i) % 16 == 15 },
    sinceMarker := (l.sinceMarker + (fs.length + 1)) % 16,
    retry := l.retry + (fs.length + 1) } := by
  unfold Link.resend
  rw [h]
  rfl

/-! ### P2 Nap (10 R320) -/

theorem exec_keepaliveTimer {s : State} {k : Nat} (hon : s.linksPowered = true) (hp2 : s.pw.state = .p2) (hk : k < 12)
    (hstate : (s.port k).state = .keepalive) :
    exec (.keepaliveTimer k) s = .next (s.modPort k fun p => { p with link := p.link.answer (p.sender s.tm.tick s.localTime) }) := by
  change execKeepaliveTimer k s = _
  unfold execKeepaliveTimer
  simp [hon, hp2, hk, hstate]

/-! ### Bridge flits (01 R10) -/

theorem lookupD_absent {κ β : Type} [DecidableEq κ] {l : List (κ × β)} {k : κ} {d : β} (h : ∀ e ∈ l, e.1 ≠ k) : lookupD l k d = d := by
  unfold lookupD
  rw [List.find?_eq_none.2 (by simpa using h)]

section Tries
variable (s : State) (key : Nat × Bool × Nat)

theorem setFlitTries_same (n : Nat) : (s.setFlitTries key n).flitTries key = n := by
  unfold State.setFlitTries State.flitTries
  dsimp only
  split
  · rename_i hzero
    rw [hzero]
    exact lookupD_absent fun e he => by simpa using (List.mem_filter.1 he).2
  · exact lookupD_set _ _ _ _

theorem setFlitTries_other (n : Nat) {x : Nat × Bool × Nat} (h : x ≠ key) : (s.setFlitTries key n).flitTries x = s.flitTries x := by
  unfold State.setFlitTries State.flitTries
  dsimp only
  split
  · unfold lookupD
    rw [List.find?_filter]
    congr 2
    funext e
    by_cases he : e.1 = x <;> simp [he, h]
  · exact lookupD_set_ne _ _ _ _ _ h

end Tries

section Bridge
variable {s : State} {b n : Nat} {out : Bool} (hb : b < 8) (hrun : s.hcoreRuns = true)
include hb hrun

theorem exec_bridgeFlit_passes : exec (.bridgeFlitTransfer ⟨b, out, n⟩ true) s = .next (s.setFlitTries (b, out, n) 0) := by
  change execBridgeFlitTransfer ⟨b, out, n⟩ true s = _
  unfold execBridgeFlitTransfer
  rw [if_neg (by simp [hb, hrun])]
  rfl

theorem exec_bridgeFlit_retries (h : s.flitTries (b, out, n) < 3) :
    exec (.bridgeFlitTransfer ⟨b, out, n⟩ false) s = .next (s.setFlitTries (b, out, n) (s.flitTries (b, out, n) + 1)) := by
  change execBridgeFlitTransfer ⟨b, out, n⟩ false s = _
  unfold execBridgeFlitTransfer
  rw [if_neg (by simp [hb, hrun])]
  dsimp only
  rw [if_neg (by decide), if_pos (by omega)]

theorem exec_bridgeFlit_fails (h : 3 ≤ s.flitTries (b, out, n)) : exec (.bridgeFlitTransfer ⟨b, out, n⟩ false) s =
    .next (((s.setFlitTries (b, out, n) 0).raise 0x0204 4 [b]).drain 3 0x0204 4 0) := by
  change execBridgeFlitTransfer ⟨b, out, n⟩ false s = _
  unfold execBridgeFlitTransfer
  rw [if_neg (by simp [hb, hrun])]
  dsimp only
  rw [if_neg (by decide), if_neg (by omega)]

end Bridge

/-! ### The clauses of the statement -/

/-- The clause of a flit received: the CRC and the SEQ decide. -/
theorem flitReceive_clause (s : State) (k : Nat) (f : Flit) :
    let l := (s.port k).link
    let p := (s.port k).receive s.tm.tick s.localTime f
    (f.crcOk = false → ∃ l1, p = { s.port k with link := { l1 with crcErr := l.crcErr + 1 } } ∧ s.naked k l1) ∧
    (f.crcOk = true → f.seq ≠ l.expected → ∃ l1, p = { s.port k with link := l1 } ∧ s.naked k l1 ∧ l1.crcErr = l.crcErr) ∧
    (f.crcOk = true → f.seq = l.expected →
      p.link.expected = (l.expected + 1) % 4096 ∧ p.link.lastGood = some f.seq ∧ p.link.nak = false ∧ p.state = (s.port k).state ∧
      (f.fkind = 4 → p.link.frames = l.frames ++ [(f.vc, f.data.take (36 + fld f.data 0x0C 2))]) ∧
      (f.fkind = 0 → p.link.frames = l.frames ∧ p.link.assembly = l.assembly)) := by
  intro l p
  refine ⟨fun hbad => ?_, fun hgood hseq => ?_, fun hgood hseq => ?_⟩
  · exact ⟨_, CourierPort.receive_badCrc _ _ _ hbad, naked_answer s k (l.crcErr + 1)⟩
  · exact ⟨_, CourierPort.receive_outOfOrder _ _ _ hgood hseq, naked_answer s k l.crcErr, Link.answer_crcErr _ _⟩
  · have hkept := l.receive_inOrder ((s.port k).sender s.tm.tick s.localTime) trimCourier hgood hseq
    obtain ⟨hexpected, hlast, hnak⟩ := (l.accepts f).carried_receiver ((s.port k).sender s.tm.tick s.localTime) trimCourier f
    refine ⟨hkept.expected.trans hexpected, hkept.lastGood.trans hlast, hkept.nak hnak, rfl, fun hkind => ?_, fun hkind => ?_⟩
    · exact hkept.frames.trans (Link.carried_whole _ _ hkind (show 32 ≠ 0 by decide))
    · rw [Link.carried_idle _ _ _ hkind] at hkept
      exact ⟨hkept.frames, hkept.assembly⟩

/-- Settles O37, clause by clause: a flit received, the resend, the idle flit of P2 Nap, the bytes of a flit, lanes, PCS, and bridge flits. -/
theorem flitsAreTakenInOrderAndResent : Obligations.FlitsAreTakenInOrderAndResent := by
  unfold Obligations.FlitsAreTakenInOrderAndResent
  refine ⟨fun s k f halive hkind => ?receive, fun s k f fs halive hreplay => ?resend, fun s k hon hp2 hk hstate hroom => ?nap,
    fun f hdata hseq hvc hack hcreditVc hcredit hkind => ?bytes, fun n flit hn hdvd => woven_dealt hn hdvd, fun flit => pcsFlits_pcsPacket,
    fun s b n out hb hrun => ?bridge⟩
  case receive =>
    refine ⟨_, exec_flitReceive halive hkind, rfl, fun m hm => port_mod_ne _ _ _ _ hm, ?_⟩
    rw [port_mod _ _ _ (carries_listed s k halive)]
    exact flitReceive_clause s k f
  case resend =>
    obtain ⟨m, hm, htick⟩ := advanceTo_spec s (f.sent + 500)
    have hlisted := carries_listed s k halive
    have hexec := exec_flitResendTimeout halive hreplay
    rw [hm] at hexec
    exact ⟨_, hexec, htick, (port_mod _ _ _ hlisted).trans (congrArg (fun l => { s.port k with link := l }) (Link.resend_cons hreplay)), rfl, rfl⟩
  case nap =>
    refine ⟨_, exec_keepaliveTimer hon hp2 hk hstate, rfl, ?_⟩
    rw [port_mod _ _ _ (port_of_state s k _ hstate nofun), Link.answer_room _ hroom, Link.emit_idle, Link.filled_idle]
    exact ⟨rfl, rfl, rfl⟩
  case bytes =>
    exact ⟨f.bytes_length hdata, SentFlit.bytes_data hdata, SentFlit.bytes_seq hdata hseq hvc, SentFlit.bytes_ack hdata hack,
      SentFlit.bytes_credit hdata hcreditVc hcredit, SentFlit.bytes_fkind hdata hkind, SentFlit.bytes_reserved hdata, SentFlit.bytes_crc hdata⟩
  case bridge =>
    refine ⟨⟨_, exec_bridgeFlit_passes hb hrun, rfl, setFlitTries_same s _ 0, fun x => setFlitTries_other s _ 0⟩,
      fun hfew => ⟨_, exec_bridgeFlit_retries hb hrun hfew, ?_, setFlitTries_same s _ _, fun x => setFlitTries_other s _ _⟩, fun hmany hsound => ?_⟩
    · rfl
    · obtain ⟨e, hbt, hcause, hcode, -, -, -, hhold⟩ := drain_spec ((s.setFlitTries (b, out, n) 0).raise 0x0204 4 [b]) 3 0x0204 4 0 hsound
      have hsame : ((s.setFlitTries (b, out, n) 0).raise 0x0204 4 [b]).bt = s.bt := rfl
      rw [hsame] at hbt
      refine ⟨_, s.setFlitTries (b, out, n) 0, e, exec_bridgeFlit_fails hb hrun hmany,
        ⟨rfl, setFlitTries_same s _ 0, fun x => setFlitTries_other s _ 0⟩, rfl, ?_, hhold, ?_, hcause, hcode⟩
      · rw [hbt]
      · rw [hbt]

end Sys2Proof.Machine
end

section
/-! PROOFS. O38: adverts, the choice of a generation, training, and the check of the partner (10 R311, R316, R317, R319-R321). -/

set_option Elab.async false

namespace Sys2Proof.Machine

/-! ### Adverts sent (10 R316, R317, Table 10.4) -/

theorem advertBytes_length (a : Advert) : (advertBytes a).length = 64 := by simp [advertBytes, sealed, natLe_length]

/-- Of keys set one after the other, each holds its own value. -/
theorem lookupD_setKeys {κ β : Type} [DecidableEq κ] (key : Nat → κ) (hkey : ∀ i j, key i = key j → i = j) (v : Nat → β) (l : List (κ × β))
    (d : β) {m n : Nat} (h : n < m) : lookupD ((List.range m).foldl (fun l i => setKey l (key i) (v i)) l) (key n) d = v n := by
  induction m with
  | zero => omega
  | succ m ih =>
    rw [List.range_succ, List.foldl_append, List.foldl_cons, List.foldl_nil]
    by_cases hn : n = m
    · rw [hn]; exact lookupD_set _ _ _ _
    · rw [lookupD_set_ne _ _ _ _ _ fun he => hn (hkey _ _ he)]
      exact ih (by omega)

/-- Each lane sends its marker and its part of the advert's flit. -/
theorem advertise_lane (f : Fabric) (k : Nat) (a : Advert) {n : Nat} (h : n < 8) :
    lookupD (f.advertise k a).advertLanes (k, n) [] = laneMarker n ++ dealt 4 (n % 4) (SentFlit.bytes (newFlit 0 0 5 (advertBytes a))) 0 :=
  lookupD_setKeys (fun i => (k, i)) (fun _ _ he => (Prod.mk.inj he).2) (advertLane (advertFlit a).bytes) f.advertLanes [] h

section Detect
variable {s : State} {k : Nat} (hon : s.linksPowered = true) (hk : k < 12) (hstate : (s.port k).state = .detect)
include hon hk hstate

theorem exec_advertTimer_detect : exec (.advertTimer k) s =
    .next { s.modPort k fun p => { p with advertsSent := p.advertsSent + 1 } with
      fb := (s.modPort k fun p => { p with advertsSent := p.advertsSent + 1 }).fb.advertise k (s.ownAdvert k) } := by
  change execAdvertTimer k s = _
  unfold execAdvertTimer
  simp [hon, hk, hstate, CourierPort.advertises]

theorem exec_laneLock_detect {lane number : Nat} {inv : Bool} (hlane : lane < 8) (hnumber : number < 8) : exec (.laneLock k lane number inv) s =
    .next (s.modPort k fun p => { p with locked := putBy (fun e => e.1 == lane) (lane, number, inv) p.locked }) := by
  change execLaneLock k lane number inv s = _
  unfold execLaneLock
  simp [hon, hk, hstate, hlane, hnumber]

/-! ### Adverts received (10 R316, R318, R319) -/

theorem exec_advertReceived_badCrc {a : Advert} (hv : a.version = 1) (hcrc : a.crcOk = false) :
    exec (.advertReceived k a) s = .next (s.modPort k fun q => { q with advertsSame := 0 }) := by
  change execAdvertReceived k a s = _
  unfold execAdvertReceived
  simp [hon, hk, hstate, hv, hcrc]

/-- A good advert in DETECT counts; the third identical one in a row decides. -/
theorem exec_advertReceived_detect {a : Advert} (hv : a.version = 1) (hcrc : a.crcOk = true) : exec (.advertReceived k a) s =
    .next (if ((s.port k).heard a).advertsSame = 3 then (s.modPort k fun q => q.heard a).choose k a
      else (s.modPort k fun q => q.heard a).checkPort k) := by
  change execAdvertReceived k a s = _
  unfold execAdvertReceived
  dsimp only
  rw [port_mod _ _ _ (port_of_state s k _ hstate nofun)]
  rw [if_neg (by simp [hon, hv, hk]), if_neg (by simp [hstate]), if_neg (by simp [hcrc]), apply_ite Host.Outcome.next]
  exact if_congr (by simp [hstate]) rfl rfl

end Detect

/-- An advert equal to the one before raises the run of identical ones. -/
theorem CourierPort.heard_again {p : CourierPort} {a : Advert} (h : p.advertsSame ≠ 0) (ha : p.partnerAdv = some a) :
    p.heard a = { p with advertsSame := p.advertsSame + 1 } := by
  unfold CourierPort.heard
  rw [if_pos ⟨h, ha⟩, ← ha]

/-! ### CHECK (10 R320, R321) -/

theorem checkPort_elsewhere {s : State} {k : Nat} (h : (s.port k).state ≠ .check) : s.checkPort k = s := by
  unfold State.checkPort
  dsimp only
  split
  · rfl
  · exact if_pos (by simp [h])

theorem checkPort_waits {s : State} {k : Nat} (h : s.fb.coordValid = false) : s.checkPort k = s := by
  unfold State.checkPort
  dsimp only
  split
  · rfl
  · exact if_pos (by simp [h])

/-- The words of record 0x0031: the port, and what its partner's advert says (13 Table 13.7). -/
def miswiredWords (k : Nat) (a : Advert) : List Nat :=
  [k, a.coord % 1024 + 65536 * (a.port % 16), a.fabricId, a.dim % 256 + 256 * (a.twist % 256)]

/-- With both coordinates set a port in CHECK is UP or MISWIRED. -/
theorem checkPort_decides {s : State} {k : Nat} {a : Advert} (hstate : (s.port k).state = .check) (hadv : (s.port k).partnerAdv = some a)
    (hown : s.fb.coordValid = true) (htheirs : a.coordValid = true) : s.checkPort k =
      if s.partnerMatches k a then
        s.modPort k fun q => ({ q with state := .up, partner := a.coord % 1024, pport := a.port % 16 }).flush s.tm.tick s.localTime
      else (s.modPort k fun q => { q with state := .miswired }).raise 0x0031 4 (miswiredWords k a) := by
  unfold State.checkPort
  dsimp only
  rw [hadv]
  exact if_neg (by simp [hstate, hown, htheirs])

/-! ### The choice of a generation (10 R311, R318, R319) -/

/-- A port with what three identical adverts say of its partner. -/
def CourierPort.told (p : CourierPort) (a : Advert) : CourierPort :=
  { p with partner := a.coord % 1024, pport := a.port % 16, features := Nat.land a.features courierFeatures,
           lanes := usableLanes (lockedLanes p.locked) a.lanes }

section Choice
variable {s : State} {k : Nat} {a : Advert} (hlisted : k < s.fb.ports.length)
include hlisted

theorem choose_selects (hlanes : usableLanes (lockedLanes (s.port k).locked) a.lanes ≠ 0) (hgen : commonGen 2 a.gens ≠ 0) :
    (s.choose k a).port k = { (s.port k).told a with state := .select, trainGen := commonGen 2 a.gens } ∧
      ∀ m, m ≠ k → (s.choose k a).port m = s.port m := by
  unfold State.choose
  dsimp only
  rw [if_neg (by simp [hlanes, hgen])]
  refine ⟨?_, fun m hm => (port_mod_ne _ _ _ _ hm).trans (port_mod_ne _ _ _ _ hm)⟩
  rw [port_mod _ _ _ (by simpa [State.modPort, modAt] using hlisted), port_mod _ _ _ hlisted]
  rfl

theorem choose_fails (h : usableLanes (lockedLanes (s.port k).locked) a.lanes = 0 ∨ commonGen 2 a.gens = 0) :
    ((s.choose k a).port k).state = .failed := by
  unfold State.choose
  dsimp only
  rw [if_pos (by simpa using h)]
  exact (portFails_state _ k 1 (by simpa [State.modPort, modAt] using hlisted)).1

end Choice

/-! ### Training (10 R319, R320) -/

/-- A port whose training in SELECT is done. -/
def CourierPort.trained (p : CourierPort) : CourierPort :=
  { p with state := .check, gen := p.trainGen, coeffs := true, link := p.link.fresh }

section Select
variable {s : State} {k : Nat} (hon : s.linksPowered = true) (hk : k < 12) (hstate : (s.port k).state = .select)
include hon hk hstate

theorem exec_trainingDone : exec (.trainingDone k) s = .next ((s.modPort k CourierPort.trained).checkPort k) := by
  change execTrainingDone k s = _
  exact congrArg _ (if_pos (by simp [hon, hk, hstate]))

/-- Training that times out goes on at generation `g`, the highest left that both ends have, or fails where `g` is 0. -/
theorem exec_trainingTimeout {g : Nat} (hg : commonGen ((s.port k).trainGen - 1) (((s.port k).partnerAdv.map Advert.gens).getD 0) = g) :
    exec (.trainingTimeout k) s = .next (if g = 0 then s.portFails k 1 else s.modPort k fun q => { q with trainGen := g }) := by
  subst hg
  change execTrainingTimeout k s = _
  unfold execTrainingTimeout
  rw [if_neg (by simp [hon, hk, hstate])]
  cases (s.port k).partnerAdv <;> rfl

omit hon hk in
/-- The outcome of CHECK right after training, with both coordinates set. -/
theorem trained_checked {a : Advert} (hadv : (s.port k).partnerAdv = some a) (htheirs : a.coordValid = true) (hown : s.fb.coordValid = true) :
    let t := (s.modPort k CourierPort.trained).checkPort k
    (t.port k).gen = (s.port k).trainGen ∧ (t.port k).coeffs = true ∧ (t.port k).state = (if s.partnerMatches k a then .up else .miswired) ∧
      (∀ m, m ≠ k → t.port m = s.port m) ∧
      (s.partnerMatches k a = true → (t.port k).partner = a.coord % 1024 ∧ (t.port k).pport = a.port % 16) ∧
      (s.partnerMatches k a = false → t.ev.held.getLast? = some ⟨0x0031, 4, s.ev.next, s.time, miswiredWords k a⟩) := by
  have hlisted := port_of_state s k _ hstate nofun
  have hport := port_mod s k CourierPort.trained hlisted
  have hlisted' : k < (s.modPort k CourierPort.trained).fb.ports.length := by simpa [State.modPort, modAt] using hlisted
  have hmatch : (s.modPort k CourierPort.trained).partnerMatches k a = s.partnerMatches k a := rfl
  dsimp only
  rw [checkPort_decides (s := s.modPort k CourierPort.trained) (by rw [hport]; rfl) (by rw [hport]; exact hadv) hown htheirs, hmatch]
  cases hok : s.partnerMatches k a with
  | true =>
    rw [if_pos rfl, port_mod _ _ _ hlisted', hport]
    exact ⟨rfl, rfl, rfl, fun m hm => (port_mod_ne _ _ _ _ hm).trans (port_mod_ne _ _ _ _ hm), fun _ => ⟨rfl, rfl⟩, nofun⟩
  | false =>
    rw [if_neg (by decide), raise_port, port_mod _ _ _ hlisted', hport]
    exact ⟨rfl, rfl, rfl, fun m hm => (port_mod_ne _ _ _ _ hm).trans (port_mod_ne _ _ _ _ hm), nofun, fun _ => raise_last _ _ _ _⟩

end Select

/-! ### The clauses of the statement -/

/-- The clause of an advert received in DETECT. -/
theorem advertReceived_clause {s : State} {k : Nat} (hon : s.linksPowered = true) (hk : k < 12) (hstate : (s.port k).state = .detect)
    {a : Advert} (hv : a.version = 1) :
    (a.crcOk = false → ∃ t, exec (.advertReceived k a) s = .next t ∧ t.port k = { s.port k with advertsSame := 0 }) ∧
    (a.crcOk = true → (s.port k).advertsSame = 1 → (s.port k).partnerAdv = some a →
      ∃ t, exec (.advertReceived k a) s = .next t ∧ t.port k = { s.port k with advertsSame := 2 }) ∧
    (a.crcOk = true → (s.port k).advertsSame = 2 → (s.port k).partnerAdv = some a → usableLanes (lockedLanes (s.port k).locked) a.lanes ≠ 0 →
      commonGen 2 a.gens ≠ 0 →
      ∃ t, exec (.advertReceived k a) s = .next t ∧ (t.port k).state = .select ∧ (t.port k).trainGen = commonGen 2 a.gens ∧
        (t.port k).partner = a.coord % 1024 ∧ (t.port k).features = Nat.land a.features 0x1FF ∧ ∀ m, m ≠ k → t.port m = s.port m) ∧
    (a.crcOk = true → (s.port k).advertsSame = 2 → (s.port k).partnerAdv = some a →
      usableLanes (lockedLanes (s.port k).locked) a.lanes = 0 ∨ commonGen 2 a.gens = 0 →
      ∃ t, exec (.advertReceived k a) s = .next t ∧ (t.port k).state = .failed) := by
  have hlisted := port_of_state s k _ hstate nofun
  have hport := port_mod s k (fun q => q.heard a) hlisted
  have hlisted' : k < (s.modPort k fun q => q.heard a).fb.ports.length := by simpa [State.modPort, modAt] using hlisted
  have hgood := fun hcrc => exec_advertReceived_detect (a := a) hon hk hstate hv hcrc
  refine ⟨fun hcrc => ⟨_, exec_advertReceived_badCrc hon hk hstate hv hcrc, port_mod _ _ _ hlisted⟩, fun hcrc hrun hadv => ?second,
    fun hcrc hrun hadv hlanes hgen => ?third, fun hcrc hrun hadv hbad => ?none⟩
  case second =>
    have hheard := CourierPort.heard_again (by omega) hadv
    refine ⟨_, (hgood hcrc).trans (congrArg _ (if_neg (by rw [hheard]; simp [hrun]))), ?_⟩
    rw [checkPort_elsewhere (by rw [hport, hheard]; simp [hstate]), hport, hheard, hrun]
  case third =>
    have hheard := CourierPort.heard_again (by omega) hadv
    have hthird : ((s.port k).heard a).advertsSame = 3 := by rw [hheard, hrun]
    have hlocked : ((s.modPort k fun q => q.heard a).port k).locked = (s.port k).locked := by rw [hport]; rfl
    obtain ⟨hself, hothers⟩ := choose_selects hlisted' (by rw [hlocked]; exact hlanes) hgen
    refine ⟨_, (hgood hcrc).trans (congrArg _ (if_pos hthird)), ?_⟩
    rw [hself]
    exact ⟨rfl, rfl, rfl, rfl, fun m hm => (hothers m hm).trans (port_mod_ne _ _ _ _ hm)⟩
  case none =>
    have hheard := CourierPort.heard_again (by omega) hadv
    have hthird : ((s.port k).heard a).advertsSame = 3 := by rw [hheard, hrun]
    have hlocked : ((s.modPort k fun q => q.heard a).port k).locked = (s.port k).locked := by rw [hport]; rfl
    exact ⟨_, (hgood hcrc).trans (congrArg _ (if_pos hthird)), choose_fails hlisted' (by rw [hlocked]; exact hbad)⟩

/-- Settles O38, row by row: adverts sent and heard, lane locks, and training done or timed out. -/
theorem portsNegotiateByAdverts : Obligations.PortsNegotiateByAdverts := by
  unfold Obligations.PortsNegotiateByAdverts
  refine ⟨fun s k hon hk hstate => ⟨?advert, rfl, fun lane number inv hlane hnumber => ?lock, fun a hv => advertReceived_clause hon hk hstate hv⟩,
    fun s k hon hk hstate => ⟨fun a hadv htheirs hown => ?checked, fun hown => ?waits, fun a hadv hgen => ?next, fun hgen => ?last⟩⟩
  case advert =>
    exact ⟨_, exec_advertTimer_detect hon hk hstate, port_mod _ _ _ (port_of_state s k _ hstate nofun), rfl, advertBytes_length _,
      fun n hn => advertise_lane _ _ _ hn⟩
  case lock => exact ⟨_, exec_laneLock_detect hon hk hstate hlane hnumber, port_mod _ _ _ (port_of_state s k _ hstate nofun)⟩
  case checked => exact ⟨_, exec_trainingDone hon hk hstate, trained_checked hstate hadv htheirs hown⟩
  case waits =>
    refine ⟨_, exec_trainingDone hon hk hstate, ?_⟩
    rw [checkPort_waits (s := s.modPort k CourierPort.trained) hown]
    exact port_mod _ _ _ (port_of_state s k _ hstate nofun)
  case next =>
    have hlisted := port_of_state s k _ hstate nofun
    have hexec := exec_trainingTimeout hon hk hstate (g := commonGen 1 a.gens) (by rw [hgen, hadv]; rfl)
    refine ⟨_, hexec, fun hbit => ?_, fun hbit => ?_⟩
    · rw [show commonGen 1 a.gens = 1 by simp [commonGen, hbit], if_neg (by decide)]
      exact port_mod _ _ _ hlisted
    · rw [show commonGen 1 a.gens = 0 by simp [commonGen, hbit], if_pos rfl]
      exact (portFails_state s k 1 hlisted).1
  case last =>
    have hexec := exec_trainingTimeout hon hk hstate (g := 0) (by rw [hgen]; rfl)
    exact ⟨_, hexec.trans (congrArg _ (if_pos rfl)), (portFails_state s k 1 (port_of_state s k _ hstate nofun)).1⟩

end Sys2Proof.Machine
end

section
/-! PROOFS. O47: the commands for the fabric, jobs, ports, time and calibration (12 R406, Table 12.4, 10 R331, R340, R343, R351, R353, 07 R227).
Each command that is ready runs its row of Table 12.4 on the state that has heard its frame; the lemmas here say which branch of the row runs. -/

set_option Elab.async false

namespace Sys2Proof.Machine

/-- A command's completion touches no part of the fabric. -/
theorem State.completes.fabric {x t : State} {c : CmdFrame} {opcode code : Nat} {out : Bytes} (h : x.completes t c opcode code out) :
    t.fb = x.fb := by rw [h.1]

/-! ### SET_FABRIC (10 R331, R340) -/

/-- CHECK changes the ports of the fabric alone. -/
theorem checkPort_fabric (s : State) (k : Nat) : { (s.checkPort k).fb with ports := [] } = { s.fb with ports := [] } := by
  unfold State.checkPort
  dsimp only
  split
  · rfl
  split
  · rfl
  split <;> rfl

/-- SET_FABRIC sets its five values and changes the ports, and no more of the fabric. -/
theorem setFabric_fabric (s : State) (coord dim twist fabricId root : Nat) :
    { (s.setFabric coord dim twist fabricId root).fb with ports := [] } =
      { s.fb with coord := coord, coordValid := true, dim := dim, twist := twist, fabricId := fabricId, timeRoot := root, ports := [] } := by
  unfold State.setFabric
  dsimp only
  rw [State.judgeAligned_only (K := 17) (Only.refl _) (Needs.refl _) .fabric rfl]
  exact foldl_keep (fun t => { t.fb with ports := [] }) _ _ _ checkPort_fabric

theorem cmdSetFabric_busy {u : State} {a : Bytes} (h : ∃ o ∈ u.sv.steps, o.cmd.job ≠ 0) : cmdSetFabric.run u a = u.fails 5 :=
  if_pos (by simpa using h)

theorem cmdSetFabric_done {u : State} {a : Bytes} (h : ∀ o ∈ u.sv.steps, o.cmd.job = 0) :
    cmdSetFabric.run u a = (u.setFabric (fld a 0 2) (fld a 2 1) (fld a 3 1) (fld a 4 4) (fld a 8 2)).done :=
  if_neg (by simpa using h)

/-! ### RELEASE_JOB, RESET_PORT, LOAD_TIME, REQUEST_CALIBRATION -/

theorem cmdReleaseJob_run (u : State) (a : Bytes) :
    cmdReleaseJob.run u a = if fld a 0 4 ∈ u.fb.aborted then (u.releaseJob (fld a 0 4)).done else u.fails 5 :=
  if_congr (by simp) rfl rfl

theorem cmdResetPort_courier {u : State} {a : Bytes} (h : fld a 0 1 < 16) : cmdResetPort.run u a =
    if u.portInUse (fld a 0 1) then (u.modPort (fld a 0 1) CourierPort.restart).done else u.fails 5 := if_neg (by omega)

theorem cmdResetPort_dispatch {u : State} {a : Bytes} (h : 16 ≤ fld a 0 1) : cmdResetPort.run u a = u.done := if_pos h

/-! ### The clauses of the statement -/

/-- Settles O47, command by command: each outcome by the branch of the command's row that runs, then by how a command completes. -/
theorem fabricAndTimeCommandsComplete : Obligations.FabricAndTimeCommandsComplete := by
  unfold Obligations.FabricAndTimeCommandsComplete
  refine ⟨fun s c h => ⟨_, rfl, fun hbusy => ?busy, fun hidle => ?fabric⟩, fun s c h => ⟨_, rfl, ?jobTable⟩, fun s c h => ⟨_, rfl, ?release⟩,
    fun s c h => ⟨fun hk => ⟨_, rfl, ?courier⟩, fun hk => ?dispatch⟩, fun s c h => ⟨_, rfl, ?loadTime⟩, fun s c h => ⟨_, rfl, ?calibration⟩⟩
  case busy => exact fails_at h (cmdSetFabric_busy hbusy) (by decide)
  case fabric =>
    have hdone := done_at h (fun _ => rfl) (cmdSetFabric_done hidle)
    have hset := setFabric_fabric (s.heard c.hdr 0) (fld c.args 0 2) (fld c.args 2 1) (fld c.args 3 1) (fld c.args 4 4) (fld c.args 8 2)
    rw [← hdone.fabric] at hset
    exact ⟨congrArg Fabric.coord hset, congrArg Fabric.coordValid hset, congrArg Fabric.dim hset, congrArg Fabric.twist hset,
      congrArg Fabric.fabricId hset, congrArg Fabric.timeRoot hset, hdone⟩
  case jobTable =>
    have hdone := done_at h (fun _ => rfl) rfl
    refine ⟨?_, hdone⟩
    unfold State.job
    rw [hdone.fabric]
    exact find_putBy _ _ _ (by simp [newJob])
  case release =>
    exact ite_intro (fun haborted => done_at h (fun _ => rfl) ((cmdReleaseJob_run _ _).trans (if_pos haborted)))
      fun hlive => fails_at h ((cmdReleaseJob_run _ _).trans (if_neg hlive)) (by decide)
  case courier =>
    exact ite_intro (fun hused => done_at h (fun _ => if_neg (by omega)) ((cmdResetPort_courier hk).trans (if_pos hused)))
      fun hunused => fails_at h ((cmdResetPort_courier hk).trans (if_neg hunused)) (by decide)
  case dispatch =>
    obtain ⟨t, hcommand, hdone⟩ := command_posts h (cmdResetPort_dispatch hk)
    exact ⟨t, congrArg _ (hcommand.trans (if_pos hk)), hdone⟩
  case loadTime =>
    exact ite_intro (fun hvalid => fails_at h (if_pos hvalid) (by decide)) fun hinvalid => done_at h (fun _ => rfl) (if_neg hinvalid)
  case calibration =>
    exact ite_intro (fun henabled => done_at h (fun _ => rfl) (if_pos henabled)) fun hdisabled => fails_at h (if_neg hdisabled) (by decide)

end Sys2Proof.Machine
end

section
/-! PROOFS. O50: the time exchange, the correction, load and step of the counter, and the loss of alignment (10 R341-R345, R549). -/

set_option Elab.async false

namespace Sys2Proof.Machine

/-! ### What a move of time leaves of the clocks (10 R339, R342) -/

/-- What of the clocks a time message shows of this module: VALID, ALIGNED and the depth. -/
def Clocks.shown (c : Clocks) : Bool × Bool × Nat := (c.valid, c.aligned, c.depth)

theorem Clocks.forward_shown (c : Clocks) (n : Nat) : (c.forward n).shown = c.shown := by
  unfold Clocks.forward
  split <;> rfl

theorem localTo_spec (s : State) (n : Nat) : ∃ m, s.localTo n = { s with tm := m } ∧ m.shown = s.tm.shown := by
  unfold State.localTo
  split
  · unfold State.counterTo
    split
    · exact ⟨_, rfl, rfl⟩
    · exact ⟨s.tm, rfl, rfl⟩
  · unfold State.advanceTo
    split
    · exact ⟨_, rfl, Clocks.forward_shown _ _⟩
    · exact ⟨s.tm, rfl, rfl⟩

/-- A move of time changes neither TDEPTH nor TFLAGS (10 Table 10.10). -/
theorem time_shown {s : State} {m : Clocks} (h : m.shown = s.tm.shown) :
    ({ s with tm := m } : State).timeDepth = s.timeDepth ∧ ({ s with tm := m } : State).timeFlags = s.timeFlags := by
  obtain ⟨hvalid, haligned, hdepth⟩ : m.valid = s.tm.valid ∧ m.aligned = s.tm.aligned ∧ m.depth = s.tm.depth := by
    simpa [Clocks.shown] using h
  unfold State.timeDepth State.timeFlags State.isAligned
  rw [hdepth, hvalid, haligned]
  exact ⟨rfl, rfl⟩

/-! ### Time messages sent (10 R341, Table 10.10) -/

/-- A time message is one more frame, to the partner of its port. -/
theorem sendTime_sent (s : State) (port kind seq a b : Nat) : ∃ c : CourierTx, (s.sendTime port kind seq a b).fb.tx = s.fb.tx ++ [c] ∧
    c.port = port ∧ c.payload = timeBytes kind s.timeDepth s.timeFlags seq a b := ⟨_, rfl, rfl, rfl⟩

/-- One frame for each element of a fold that sends one. -/
theorem foldl_tx_length {α : Type} {f : State → α → State} (h : ∀ s a, (f s a).fb.tx.length = s.fb.tx.length + 1) (l : List α) (s : State) :
    (l.foldl f s).fb.tx.length = s.fb.tx.length + l.length := by
  induction l generalizing s with
  | nil => rfl
  | cons a l ih => rw [List.foldl_cons, ih, h, List.length_cons]; omega

theorem exec_timeExchangeStart {s : State} (h : s.hcoreRuns = true) : exec .timeExchangeStart s =
    .next (s.childPorts.foldl (fun st k => st.sendTime k 0 st.tm.xseq (16 * st.localTime) 0)
      (s.modClock fun c => { c with exchange := none, xseq := (c.xseq + 1) % 2 ^ 32 })) := by
  change execTimeExchangeStart s = _
  unfold execTimeExchangeStart
  rw [if_neg (by simp [h])]
  rfl

/-! ### Sync and delay request (10 R341, log entry 15) -/

section Sync
variable {s : State} {port : Nat} {m : TimeMsg} {arrival : Nat} (hhears : s.hearsTime port = true)
include hhears

theorem exec_timeSync_invalid (hkind : m.kind = 0) (hparent : s.timeParent = some port) (hv : m.valid = false) :
    exec (.timeSync port m arrival) s = .next { s with tm := { s.tm with exchange := none, prevDelay := none } } := by
  change execTimeSync port m arrival s = _
  unfold execTimeSync
  rw [if_neg (by simp [hhears, hkind, hparent]), if_pos (by simp [hv])]
  rfl

/-- The state of a module that answers a sync, before its delay request leaves. -/
def State.synced (s : State) (m : TimeMsg) (arrival : Nat) : State :=
  (s.localTo (arrival / 16)).modClock fun c => { c with exchange := some ⟨m.seq, m.stampA, arrival⟩ }

omit hhears in
theorem synced_spec : ∃ c, s.synced m arrival = { s with tm := c } ∧ c.exchange = some ⟨m.seq, m.stampA, arrival⟩ ∧ c.shown = s.tm.shown := by
  obtain ⟨c, hhow, hshown⟩ := localTo_spec s (arrival / 16)
  unfold State.synced
  rw [hhow]
  exact ⟨_, rfl, rfl, hshown⟩

theorem exec_timeSync_valid (hkind : m.kind = 0) (hparent : s.timeParent = some port) (hv : m.valid = true) :
    exec (.timeSync port m arrival) s =
      .next ((s.synced m arrival).sendTime port 1 m.seq (Nat.max arrival (16 * (s.localTo (arrival / 16)).localTime)) 0) := by
  change execTimeSync port m arrival s = _
  unfold execTimeSync
  rw [if_neg (by simp [hhears, hkind, hparent]), if_neg (by simp [hv])]
  rfl

theorem exec_timeDelayRequest (hkind : m.kind = 1) :
    exec (.timeDelayRequest port m arrival) s = .next ((s.localTo (arrival / 16)).sendTime port 2 m.seq arrival m.stampA) := by
  change execTimeDelayRequest port m arrival s = _
  unfold execTimeDelayRequest
  rw [if_neg (by simp [hhears, hkind])]

end Sync

/-! ### The delay response (10 R341-R343) -/

/-- The module once an exchange has completed: ALIGNED, at one depth more than its parent. -/
def State.exchanged (s : State) (m : TimeMsg) : State :=
  s.modClock fun c => { c with exchange := none, lastExchange := some c.tick, aligned := true, depth := (m.depth + 1) % 256 }

theorem exec_timeDelayResponse {s : State} {port : Nat} {m : TimeMsg} {e : Exchange} (hhears : s.hearsTime port = true) (hkind : m.kind = 2)
    (hparent : s.timeParent = some port) (hopen : s.tm.exchange = some e) (hseq : e.seq = m.seq)
    (hdeparted : (s.port port).link.departed = some m.stampB) (hv : m.valid = true) :
    exec (.timeDelayResponse port m) s = .next (if s.tm.valid then (s.exchanged m).correct port (e.offset2 m.stampB m.stampA)
      else (s.exchanged m).loadFrom (e.offset2 m.stampB m.stampA) (e.delay2 m.stampB m.stampA)) := by
  have hfits : s.tm.exchange.filter (fun e => e.seq == m.seq && (s.port port).link.departed == some m.stampB) = some e := by
    rw [hopen]; simp [hseq, hdeparted]
  change execTimeDelayResponse port m s = _
  unfold execTimeDelayResponse
  rw [if_neg (by simp [hhears, hkind, hparent]), hfits]
  exact if_neg (by simp [hv])

/-- An offset of -1 us or more becomes a correction, beside it a rate correction for a parent in another rack. -/
theorem correct_increments {s : State} {port : Nat} {o2 : Int} (h : -8000 ≤ o2) {rates : List Int}
    (hrates : (if s.parentElsewhere port then (roundEven o2 32 :: s.tm.rates).take 16 else []) = rates) :
    s.correct port o2 = s.modClock fun c =>
      { c with correction := roundEven o2 32, rates := rates, rate := if rates.length < 16 then 0 else Config.rateCorrection rates } := by
  subst hrates
  exact if_neg (by omega)

/-- A lower offset steps the counter forward, with record 0x0034. -/
theorem correct_steps {s : State} {port : Nat} {o2 : Int} (h : o2 < -8000) {n : Nat} (hn : (-(roundEven o2 32)).toNat = n) :
    s.correct port o2 = (s.modClock fun c => { c with counter := c.counter + n, correction := 0 }).raise 0x0034 4
      [n % 2 ^ 32, n / 2 ^ 32 % 2 ^ 32] := by
  subst hn
  exact if_pos h

theorem judgeAligned_clocks (s : State) (was : Bool) : ∃ b, (s.judgeAligned was).tm = { s.tm with aligned := b } := by
  unfold State.judgeAligned
  dsimp only
  split <;> exact ⟨_, rfl⟩

/-- A load makes the counter VALID at its value, at the tick of the load. -/
theorem loadCounter_clocks (s : State) (v : Nat) :
    (s.loadCounter v).tm.valid = true ∧ (s.loadCounter v).tm.counter = v ∧ (s.loadCounter v).tm.correction = 0 ∧
      (s.loadCounter v).tm.tick = s.tm.tick := by
  obtain ⟨c, hc⟩ : ∃ c : State, c = s.modClock fun c =>
      { c with counter := v, valid := true, correction := 0, sinceCorrection := 0, rates := [], rate := 0, rateAcc := 0, prevDelay := none } :=
    ⟨_, rfl⟩
  obtain ⟨b, hb⟩ := judgeAligned_clocks c false
  have hload : (s.loadCounter v).tm = (c.judgeAligned false).tm := by
    unfold State.loadCounter
    rw [← hc]
    dsimp only
    split
    · split
      · split <;> rfl
      · rfl
    · rfl
  rw [hload, hb, hc]
  exact ⟨rfl, rfl, rfl, rfl⟩

/-- The second of two agreeing exchanges loads the counter. -/
theorem loadFrom_loads {s : State} {o2 d2 d : Int} (hprev : s.tm.prevDelay = some d) (hagree : (d2 - d).natAbs ≤ 32) :
    s.loadFrom o2 d2 = s.loadCounter ((s.localTime : Int) - roundEven o2 32).toNat := by
  unfold State.loadFrom
  rw [hprev]
  exact if_pos hagree

/-! ### Alignment lost (10 R345) -/

/-- The module 10 ms after its last exchange, no longer ALIGNED. -/
def State.unaligned (s : State) (x : Nat) : State := (s.advanceTo (x + 2500000)).modClock fun c => { c with aligned := false }

theorem exec_alignmentLost {s : State} {x : Nat} (hlast : s.tm.lastExchange = some x) (haligned : s.tm.aligned = true) (hroot : s.isRoot = false) :
    exec .alignmentLost s =
      .next (if s.tm.valid then (s.unaligned x).raise 0x0035 4 [(s.unaligned x).timeParent.getD 15] else s.unaligned x) := by
  change execAlignmentLost s = _
  unfold execAlignmentLost
  rw [hlast]
  exact if_neg (by simp [haligned, hroot])

theorem unaligned_spec (s : State) (x : Nat) : ∃ m, s.unaligned x = { s with tm := m } ∧ m.aligned = false ∧
    m.tick = max s.tm.tick (x + 2500000) ∧ m.valid = s.tm.valid := by
  obtain ⟨m, heq, htick⟩ := advanceTo_spec s (x + 2500000)
  have hvalid := (advanceTo_clocks s (x + 2500000)).1
  unfold State.unaligned
  rw [heq] at hvalid ⊢
  exact ⟨_, rfl, rfl, htick, hvalid⟩

/-! ### The clauses of the statement -/

/-- Settles O50, message by message: the start of an exchange, sync, delay request and response, and the end of ALIGNED. -/
theorem timeExchangesCorrectTheCounter : Obligations.TimeExchangesCorrectTheCounter := by
  unfold Obligations.TimeExchangesCorrectTheCounter
  refine ⟨fun s hrun => ?start, fun s port m arrival hhears hkind hparent => ⟨fun hv => ?syncInvalid, fun hv => ?sync⟩,
    fun s port m arrival hhears hkind => ?request, fun s port m e hhears hkind hparent hopen hseq hdeparted hv => ?response,
    fun s x hlast haligned hv hroot => ?lost, fun s x hlast haligned hv hroot => ?lostInvalid⟩
  case start =>
    refine ⟨_, exec_timeExchangeStart hrun, foldl_keep State.tm _ _ _ fun _ _ => rfl, ?_, foldl_keep State.sv _ _ _ fun _ _ => rfl,
      foldl_keep State.wt _ _ _ fun _ _ => rfl⟩
    exact foldl_tx_length (fun t k => List.length_append) _ _
  case syncInvalid => exact exec_timeSync_invalid hhears hkind hparent hv
  case sync =>
    obtain ⟨c, hsynced, hexchange, hshown⟩ := synced_spec (s := s) (m := m) (arrival := arrival)
    have hexec := exec_timeSync_valid (arrival := arrival) hhears hkind hparent hv
    rw [hsynced] at hexec
    obtain ⟨hdepth, hflags⟩ := time_shown hshown
    obtain ⟨sent, htx, hport, hpayload⟩ := sendTime_sent { s with tm := c } port 1 m.seq
      (Nat.max arrival (16 * (s.localTo (arrival / 16)).localTime)) 0
    rw [hdepth, hflags] at hpayload
    exact ⟨_, sent, _, hexec, hexchange, Nat.le_max_left _ _, htx, hport, hpayload, rfl⟩
  case request =>
    obtain ⟨c, hhow, hshown⟩ := localTo_spec s (arrival / 16)
    have hexec := exec_timeDelayRequest (arrival := arrival) hhears hkind
    rw [hhow] at hexec
    obtain ⟨hdepth, hflags⟩ := time_shown hshown
    obtain ⟨sent, htx, hport, hpayload⟩ := sendTime_sent { s with tm := c } port 2 m.seq arrival m.stampA
    rw [hdepth, hflags] at hpayload
    exact ⟨_, sent, hexec, htx, hport, hpayload, rfl⟩
  case response =>
    have hexec := exec_timeDelayResponse hhears hkind hparent hopen hseq hdeparted hv
    refine ⟨fun hvalid hsmall hsame => ?same, fun hvalid hsmall helse => ?elsewhere, fun hvalid hlow => ?step,
      fun d hinvalid hprev hagree => ?load⟩
    case same =>
      have helse : (s.exchanged m).parentElsewhere port = false := hsame
      exact hexec.trans (congrArg _ ((if_pos hvalid).trans (correct_increments hsmall (if_neg (by rw [helse]; decide)))))
    case elsewhere =>
      have helse : (s.exchanged m).parentElsewhere port = true := helse
      exact hexec.trans (congrArg _ ((if_pos hvalid).trans (correct_increments hsmall (if_pos helse))))
    case step =>
      refine ⟨_, hexec.trans (congrArg _ ((if_pos hvalid).trans (correct_steps hlow rfl))), rfl, (raise_last _ _ _ _).trans ?_⟩
      have htime : ∀ t : State, t.tm.valid = true → t.time = t.tm.counter := fun t ht => if_pos ht
      rw [htime _ (by exact hvalid)]
      rfl
    case load =>
      refine ⟨_, hexec.trans (congrArg _ ((if_neg (by simp [hinvalid])).trans (loadFrom_loads (by exact hprev) hagree))), ?_⟩
      obtain ⟨hv, hcounter, hcorrection, htick⟩ := loadCounter_clocks (s.exchanged m)
        (((s.exchanged m).localTime : Int) - roundEven (e.offset2 m.stampB m.stampA) 32).toNat
      have hlocal : (s.exchanged m).localTime = s.tm.tick := if_neg (by simp [State.exchanged, State.modClock, hinvalid])
      refine ⟨hv, hcounter.trans ?_, hcorrection, htick⟩
      rw [hlocal]
      rfl
  case lost =>
    obtain ⟨c, hhow, hc, htick, hvalid⟩ := unaligned_spec s x
    have hexec := exec_alignmentLost hlast haligned hroot
    rw [if_pos hv, hhow] at hexec
    refine ⟨_, hexec, hc, htick, (raise_last _ _ _ _).trans ?_, rfl⟩
    rw [show ({ s with tm := c } : State).time = c.counter from if_pos (hvalid.trans hv)]
    rfl
  case lostInvalid =>
    obtain ⟨c, hhow, hc, htick, -⟩ := unaligned_spec s x
    have hexec := exec_alignmentLost hlast haligned hroot
    rw [if_neg (by simp [hv]), hhow] at hexec
    exact ⟨_, hexec, hc, htick, rfl⟩

end Sys2Proof.Machine
end

section
/-! PROOFS. O52: activation records and their hold, the abort of a job by a notice, a wait or a missing route, the rounds that pass an aborted job by,
and the router (10 R329, R330, R334, R335, R352, R353, 08 R248, 15 R492). -/

set_option Elab.async false

namespace Sys2Proof.Machine

/-! ### Activation records (10 R329) -/

section Activations
variable {s : State} {h : CourierHdr} {p : Bytes}

theorem exec_activationRecord (hc : s.carried h 3 = true) :
    exec (.activationRecord h p) s = .next ((s.takeActivation h.job p).scheduleWakes s) := congrArg _ (withCourier_carried hc)

theorem takeActivation_unopened {job : Nat} (hok : activationOk p = true) (hstep : s.jobStep job (parseActivation job s.tm.tick p).step = none) :
    s.takeActivation job p = s.holdActivation (parseActivation job s.tm.tick p) := by
  unfold State.takeActivation
  rw [if_neg (by simp [hok])]
  dsimp only
  rw [hstep]

theorem takeActivation_opened {job : Nat} {o : OpenStep} (hok : activationOk p = true)
    (hstep : s.jobStep job (parseActivation job s.tm.tick p).step = some o) :
    s.takeActivation job p = s.placeActivation o (parseActivation job s.tm.tick p) := by
  unfold State.takeActivation
  rw [if_neg (by simp [hok])]
  dsimp only
  rw [hstep]

end Activations

theorem holdActivation_fits {s : State} {a : Activation} (h : sumList (s.fb.held.map Activation.size) + a.size ≤ 16777216) :
    s.holdActivation a = { s with fb := { s.fb with held := s.fb.held ++ [a] } } := if_neg (Nat.not_lt.2 h)

theorem holdActivation_full {s : State} {a : Activation} (h : 16777216 < sumList (s.fb.held.map Activation.size) + a.size) :
    s.holdActivation a = s.dropActivations 1 := if_pos h

/-- A fold of maxima is at least where it begins, and no more than a bound of all. -/
theorem foldl_max_le {l : List Nat} {x b : Nat} (hx : x ≤ b) (hl : ∀ y ∈ l, y ≤ b) : l.foldl Nat.max x ≤ b := by
  induction l generalizing x with
  | nil => exact hx
  | cons y l ih => exact ih (Nat.max_le.2 ⟨hx, hl y (by simp)⟩) fun z hz => hl z (by simp [hz])

theorem le_foldl_max (l : List Nat) (x : Nat) : x ≤ l.foldl Nat.max x := by
  induction l generalizing x with
  | nil => exact Nat.le_refl x
  | cons y l ih => exact Nat.le_trans (Nat.le_max_left x y) (ih _)

theorem le_maxList_cons (x : Nat) (l : List Nat) : x ≤ maxList (x :: l) :=
  Nat.le_trans (Nat.le_max_right 0 x) (le_foldl_max l _)

/-- A record of a lower epoch than its step's is dropped and counted. -/
theorem placeActivation_lower {s : State} {o : OpenStep} {a : Activation} (h : a.epoch < o.epoch) : s.placeActivation o a = s.dropActivations 1 :=
  if_pos (Nat.lt_of_lt_of_le h (le_maxList_cons _ _))

/-- A record of the epoch that its step's records have joins them. -/
theorem placeActivation_joins {s : State} {o : OpenStep} {a : Activation} (h : o.epoch ≤ a.epoch)
    (hsame : ∀ x ∈ s.fb.activations, x.sameStep a = true → x.epoch = a.epoch) :
    s.placeActivation o a = ({ s with fb := { s.fb with activations := s.fb.activations ++ [a] } }).wakeTokens o a.token := by
  have htop : maxList (o.epoch :: (s.fb.activations.filter fun x => x.sameStep a).map Activation.epoch) ≤ a.epoch := by
    refine foldl_max_le (Nat.zero_le _) fun e he => ?_
    rcases List.mem_cons.1 he with rfl | he
    · exact h
    · obtain ⟨x, hx, rfl⟩ := List.mem_map.1 he
      obtain ⟨hx, hstep⟩ := List.mem_filter.1 hx
      exact Nat.le_of_eq (hsame x hx hstep)
  have hkeep : s.fb.activations.filter (fun x => !x.sameStep a || x.epoch == a.epoch) = s.fb.activations := by
    refine List.filter_eq_self.2 fun x hx => ?_
    cases hstep : x.sameStep a with
    | false => rfl
    | true => simp [hsame x hx hstep]
  unfold State.placeActivation
  dsimp only
  rw [if_neg (Nat.not_lt.2 htop), hkeep]

/-- Records of a token of a step. -/
def Activation.isOf (job step token : Nat) (a : Activation) : Bool := a.job == job && a.step == step && a.token == token

/-- Held records of a token that have waited 100 ms by tick `now`. -/
def Activation.expired (job step token now : Nat) (a : Activation) : Bool := a.isOf job step token && a.since + holdTicks ≤ now

/-- The records of a token that have waited 100 ms dropped and counted. -/
def State.dropExpired (s : State) (job step token : Nat) : State :=
  ({ s with fb := { s.fb with held := s.fb.held.filter fun a => !a.expired job step token s.tm.tick } }).dropActivations
    (s.fb.held.filter (Activation.expired job step token s.tm.tick)).length

/-- The first held record of a token moves time to the end of its 100 ms. -/
theorem exec_activationHoldTimeout {s : State} {job step token : Nat} {a : Activation}
    (h : s.fb.held.find? (fun a => a.job == job && a.step == step && a.token == token) = some a) :
    exec (.activationHoldTimeout job step token) s = .next ((s.advanceTo (a.since + holdTicks)).dropExpired job step token) := by
  change execActivationHoldTimeout job step token s = _
  unfold execActivationHoldTimeout
  dsimp only
  rw [h]
  rfl

/-- The clause of the hold: the record goes, another job's stay, and the count rises. -/
theorem activationHoldTimeout_clause {s : State} {job step token : Nat} {a : Activation}
    (h : s.fb.held.find? (fun a => a.job == job && a.step == step && a.token == token) = some a) :
    ∃ t, exec (.activationHoldTimeout job step token) s = .next t ∧ t.tm.tick = max s.tm.tick (a.since + 25000000) ∧ a ∉ t.fb.held ∧
      (∀ x ∈ s.fb.held, x.job ≠ job → x ∈ t.fb.held) ∧ s.rg.dropActivation < t.rg.dropActivation := by
  obtain ⟨m, hm, htick⟩ := advanceTo_spec s (a.since + holdTicks)
  have hexec := exec_activationHoldTimeout h
  rw [hm] at hexec
  have hgone : a.expired job step token m.tick = true := by
    have hold : a.since + holdTicks ≤ m.tick := htick ▸ Nat.le_max_right _ _
    have hfound : a.isOf job step token = true := List.find?_some (p := Activation.isOf job step token) h
    unfold Activation.expired
    rw [hfound, Bool.true_and, decide_eq_true_iff]
    exact hold
  rw [show holdTicks = 25000000 from rfl] at htick
  refine ⟨_, hexec, htick, fun hmem => ?_, fun x hx hjob => ?_, ?_⟩
  · have hstays := (List.mem_filter.1 hmem).2
    simp [hgone] at hstays
  · exact List.mem_filter.2 ⟨hx, by simp [Activation.expired, Activation.isOf, hjob]⟩
  · exact Nat.lt_add_of_pos_right (List.length_pos_of_mem (List.mem_filter.2 ⟨List.mem_of_find?_eq_some h, hgone⟩))

/-! ### What an abort takes away (10 R352, R353) -/

/-- From `s` to `t` no job is declared aborted, held records, activations and ledgers only go, and DROP_NO_PORT does not fall. -/
structure State.Sheds (s t : State) : Prop where
  aborted : t.fb.aborted = s.fb.aborted
  held : ∀ a ∈ t.fb.held, a ∈ s.fb.held
  activations : ∀ a ∈ t.fb.activations, a ∈ s.fb.activations
  ledgers : ∀ l ∈ t.rd.ledgers, l ∈ s.rd.ledgers
  noPort : s.rg.dropNoPort ≤ t.rg.dropNoPort

theorem State.Sheds.refl (s : State) : s.Sheds s := ⟨rfl, fun _ => id, fun _ => id, fun _ => id, Nat.le_refl _⟩

theorem State.Sheds.trans {s t u : State} (h : s.Sheds t) (g : t.Sheds u) : s.Sheds u :=
  ⟨g.aborted.trans h.aborted, fun a ha => h.held a (g.held a ha), fun a ha => h.activations a (g.activations a ha),
    fun l hl => h.ledgers l (g.ledgers l hl), Nat.le_trans h.noPort g.noPort⟩

theorem State.Sheds.foldl {α : Type} {f : State → α → State} (hf : ∀ (s : State) a, s.Sheds (f s a)) (l : List α) (s : State) :
    s.Sheds (l.foldl f s) := by
  induction l generalizing s with
  | nil => exact .refl s
  | cons a l ih => exact (hf s a).trans (ih _)

/-- What leaves fabric, reductions and registers sheds nothing. -/
theorem State.Sheds.of_same {s t : State} (hfb : t.fb = s.fb) (hrd : t.rd = s.rd) (hrg : t.rg = s.rg) : s.Sheds t := by
  refine ⟨by rw [hfb], by rw [hfb]; exact fun _ => id, by rw [hfb]; exact fun _ => id, by rw [hrd]; exact fun _ => id, by rw [hrg]⟩

theorem sendRouted_sheds (s : State) (h : CourierHdr) (p : Bytes) : s.Sheds (s.sendRouted h p) := by
  unfold State.sendRouted
  split
  · dsimp only
    split <;> exact ⟨rfl, fun _ => id, fun _ => id, fun _ => id, Nat.le_refl _⟩
  · exact ⟨rfl, fun _ => id, fun _ => id, fun _ => id, Nat.le_succ _⟩

theorem notifyJob_sheds (s : State) (job kind reason module : Nat) : s.Sheds (s.notifyJob job kind reason module) :=
  State.Sheds.foldl (fun _ _ => sendRouted_sheds _ _ _) _ s

theorem dropLedger_sheds (s : State) (o : OpenStep) : s.Sheds (s.dropLedger o) := by
  unfold State.dropLedger
  split
  · exact .refl s
  · exact ⟨rfl, fun _ => id, fun _ ha => (List.mem_filter.1 ha).1, fun _ hl => (List.mem_filter.1 hl).1, Nat.le_refl _⟩

theorem releaseReserved_sheds (s : State) (tag slot : Nat) : s.Sheds (s.releaseReserved tag slot) := by
  have h : Only 4096 s (s.releaseReserved tag slot) := State.releaseReserved_only (Only.refl s) (Needs.refl _)
  exact .of_same (h .fabric rfl) (h .reductions rfl) (h .registers rfl)

theorem abortStep_sheds (s : State) (o : OpenStep) : s.Sheds (s.abortStep o) := by
  have hwork : s.Sheds (s.dropWork o.tag) := ⟨rfl, fun _ => id, fun _ => id, fun _ => id, Nat.le_refl _⟩
  exact (hwork.trans (dropLedger_sheds _ o)).trans
    ((State.Sheds.foldl (fun t e => releaseReserved_sheds t o.tag e.slot) o.cmd.entries _).trans (.of_same rfl rfl rfl))

theorem reportAbort_sheds (s : State) (job reason module : Nat) : s.Sheds (s.reportAbort job reason module) := by
  have h : Only 3600 s (s.reportAbort job reason module) := State.reportAbort_only (Only.refl s) (Needs.refl _)
  exact .of_same (h .fabric rfl) (h .reductions rfl) (h .registers rfl)

/-- A job that stands aborted stays so. -/
theorem State.abortsJob.sheds {s t : State} {job : Nat} (h : s.abortsJob job) (g : s.Sheds t) : t.abortsJob job := by
  obtain ⟨haborted, hheld, hactivations, hledgers⟩ := h
  exact ⟨by rw [g.aborted]; exact haborted, fun a ha => hheld a (g.held a ha), fun a ha => hactivations a (g.activations a ha),
    fun l hl => hledgers l (g.ledgers l hl)⟩

/-- A job that is not aborted yet is declared aborted, and what the module holds for it goes. -/
theorem abortJob_aborts {s : State} {job : Nat} (reason module : Nat) (hjob : job ≠ 0) (hlive : s.fb.aborted.contains job = false) :
    (s.abortJob job reason module).abortsJob job ∧ s.rg.dropNoPort ≤ (s.abortJob job reason module).rg.dropNoPort := by
  obtain ⟨u, hu⟩ : ∃ u : State, u = { s with fb := { s.fb with aborted := s.fb.aborted ++ [job], held := s.fb.held.filter fun a => a.job != job,
                                                               activations := s.fb.activations.filter fun a => a.job != job },
                                             rd := { s.rd with ledgers := s.rd.ledgers.filter fun l => l.job != job } } := ⟨_, rfl⟩
  have haborted : u.abortsJob job := by
    rw [hu]
    exact ⟨by simp, fun a ha => by simpa using (List.mem_filter.1 ha).2, fun a ha => by simpa using (List.mem_filter.1 ha).2,
      fun l hl => by simpa using (List.mem_filter.1 hl).2⟩
  have hrest : u.Sheds (s.abortJob job reason module) := by
    have hdef : s.abortJob job reason module =
        (((u.liveSteps.filter fun o => o.cmd.job == job).foldl State.abortStep u).notifyJob job 1 reason module).reportAbort job reason module := by
      rw [hu]
      exact if_neg (by simp only [hlive]; simpa using hjob)
    rw [hdef]
    exact (State.Sheds.foldl abortStep_sheds _ u).trans ((notifyJob_sheds _ _ _ _ _).trans (reportAbort_sheds _ _ _ _))
  exact ⟨haborted.sheds hrest, Nat.le_trans (by rw [hu]) hrest.noPort⟩

/-! ### Work that wakes the module (15 R492) -/

/-- The wake for work of a record changes the power block and the Survey ADCs alone. -/
theorem scheduleWakes_sheds (s before : State) : s.Sheds (s.scheduleWakes before) := by
  have h : Only 66 s (s.scheduleWakes before) := State.scheduleWakes_only (Only.refl s) (Needs.refl _)
  exact .of_same (h .fabric rfl) (h .reductions rfl) (h .registers rfl)

theorem arrive_run (s : State) (cause : Nat) : (s.arrive cause .p0).pw.wake = cause ∧ (s.arrive cause .p0).sv = s.sv := by
  have hpw (x : State) (n : Nat) : (x.adcReturn n).pw = x.pw := (State.adcReturn_only (K := 64) (Only.refl x) (Needs.refl _)) .power rfl
  exact ⟨congrArg Power.wake (foldl_keep State.pw State.adcReturn (List.range 4) _ hpw),
    foldl_keep State.sv State.adcReturn (List.range 4) _ fun _ _ => rfl⟩

theorem scheduleWakes_wakes {s u : State} (hp1 : u.pw.state = .p1) (hwork : u.sv.nextInput ≠ s.sv.nextInput) (hsup : u.pw.supplied = true)
    (hstop : u.pw.stop = none) (hsound : u.isDrained = false) (hfree : u.pw.hold = .none) : u.scheduleWakes s = u.arrive 6 .p0 := by
  unfold State.scheduleWakes
  rw [if_pos ⟨hp1, hwork⟩]
  exact if_neg (by simp [hsup, hstop, hsound, hfree])

/-! ### Control notices and waits (10 R330, R352, R353) -/

section Notices
variable {s : State} {h : CourierHdr} {p : Bytes} (hc : s.carried h 5 = true)

include hc in
theorem exec_moduleDownNotice : exec (.moduleDownNotice h p) s = .next ((s.takeControl p).scheduleWakes s) :=
  congrArg _ (withCourier_carried hc)

include hc in
theorem exec_jobAbortNotice : exec (.jobAbortNotice h p) s = .next ((s.takeControl p).scheduleWakes s) :=
  congrArg _ (withCourier_carried hc)

theorem takeControl_aborts (hlen : p.length = 16) (hkind : fld p 0 1 ≤ 1) (hjob : fld p 4 4 ≠ 0)
    (hlive : s.fb.aborted.contains (fld p 4 4) = false) : ((s.takeControl p).scheduleWakes s).abortsJob (fld p 4 4) := by
  have htake : s.takeControl p = s.abortJob (fld p 4 4) 1 (fld p 2 2 % 1024) := by
    unfold State.takeControl
    dsimp only
    rw [if_neg (by omega), if_neg (by rw [hlive]; decide)]
  rw [htake]
  exact (abortJob_aborts _ _ hjob hlive).1.sheds (scheduleWakes_sheds _ s)

theorem takeControl_again (hlen : p.length = 16) (hkind : fld p 0 1 ≤ 1) (hold : s.fb.aborted.contains (fld p 4 4) = true) :
    (s.takeControl p).scheduleWakes s = s.dropJobFrame := by
  have htake : s.takeControl p = s.dropJobFrame := by
    unfold State.takeControl
    dsimp only
    rw [if_neg (by omega), if_pos hold]
  rw [htake]
  exact scheduleWakes_regs s _

end Notices

theorem exec_jobWaitTimeout {s : State} {job n : Nat}
    (h : ((s.liveSteps.filter fun o => o.cmd.job == job && job != 0 && !o.aborted).filterMap s.waitsSince).min? = some n) :
    exec (.jobWaitTimeout job) s = .next ((s.advanceTo (n + 12500000)).abortJob job 3 s.fb.coord) := by
  change execJobWaitTimeout job s = _
  unfold execJobWaitTimeout
  rw [h]
  rfl

/-! ### Rounds pass an aborted job by (10 R353, 08 R248) -/

/-- A queue offers its first waiting step, and none of an aborted job. -/
theorem candidate_spec {s : State} {q : Queue} {w : Waiting} (h : s.candidate q = some w) : q.waiting.head? = some w ∧
    ((parseStep w.tuiven1 w.payload).job = 0 ∨ s.fb.aborted.contains (parseStep w.tuiven1 w.payload).job = false) := by
  obtain ⟨hhead, hmay⟩ := Option.filter_eq_some_iff.1 h
  have hjob := (Bool.and_eq_true_iff.1 hmay).2
  exact ⟨hhead, by simpa using hjob⟩

theorem candidate_aborted {s : State} {q : Queue} (h : ∀ w, q.waiting.head? = some w →
    (parseStep w.tuiven1 w.payload).job ≠ 0 ∧ s.fb.aborted.contains (parseStep w.tuiven1 w.payload).job = true) : s.candidate q = none := by
  refine Option.eq_none_iff_forall_ne_some.2 fun w hw => ?_
  obtain ⟨hhead, hjob⟩ := candidate_spec hw
  obtain ⟨hne, haborted⟩ := h w hhead
  rcases hjob with hjob | hjob
  · exact hne hjob
  · rw [hjob] at haborted
    cases haborted

/-- The step that begins next is one that its queue offers. -/
theorem nextQueue_offered {s : State} {q : Queue} {w : Waiting} (h : s.nextQueue = some (q, w)) : s.candidate q = some w := by
  have hall : ∀ q w, s.nextQueue = some (q, w) → s.candidate q = some w := by
    unfold State.nextQueue
    refine List.foldlRecOn (motive := fun best => ∀ q w, best = some (q, w) → s.candidate q = some w) _ _ nofun fun best ih x _ q w he => ?_
    split at he
    · exact ih q w he
    · rename_i v hv
      split at he
      · cases he; exact hv
      · split at he
        · cases he; exact hv
        · exact ih q w he
  exact hall q w h

theorem nextQueue_none {s : State} (h : ∀ q ∈ s.sv.queues, s.candidate q = none) : s.nextQueue = none := by
  unfold State.nextQueue
  refine List.foldlRecOn (motive := fun best => best = none) _ _ rfl fun best ih q hq => ?_
  rw [h q hq]
  exact ih

/-! ### The router (10 R334, R335) -/

section Router
variable {s : State} {h : CourierHdr} {p : Bytes} (harrives : s.arrives h = true) (hdest : s.isDest h = false)

include harrives hdest in
theorem exec_courierFrameRoute_forward : exec (.courierFrameRoute h p) s = .next (s.forward h p) := by
  change execCourierFrameRoute h p s = _
  unfold execCourierFrameRoute
  rw [if_neg (by simp [harrives]), if_neg (by simp [hdest])]

theorem forward_atLimit (hhops : 15 ≤ h.hops) : s.forward h p =
    (s.countDrop fun r => { r with dropHops := r.dropHops + 1 }).raise 0x0033 4 [h.dest % 1024 + 65536 * (h.src % 1024), h.job] := if_pos hhops

theorem forward_routed {k : Nat} {d : Bool} (hhops : h.hops < 15) (hroute : s.routePort h = some (k, d)) : s.forward h p = s.sendRouted h p := by
  unfold State.forward State.sendOrAbort
  rw [if_neg (by omega), hroute]

theorem forward_unrouted (hhops : h.hops < 15) (hroute : s.routePort h = none) :
    s.forward h p = (s.countDrop fun r => { r with dropNoPort := r.dropNoPort + 1 }).abortJob h.job 2 h.dest := by
  unfold State.forward State.sendOrAbort State.sendRouted
  rw [if_neg (by omega), hroute]

/-- A frame on its route is one more frame sent, with HOPS raised by one. -/
theorem sendRouted_sent {k : Nat} {d : Bool} (hroute : s.routePort h = some (k, d)) :
    (s.sendRouted h p).fb.tx = s.fb.tx ++ [⟨k, { h with hops := h.hops + 1, detoured := h.detoured || d, inPort := none }, p⟩] ∧
      (s.sendRouted h p).sv = s.sv := by
  unfold State.sendRouted
  rw [hroute]
  dsimp only
  split <;> exact ⟨rfl, rfl⟩

end Router

theorem exec_courierFrameRoute_here {s : State} {h : CourierHdr} {p : Bytes} (hc : s.carried h h.type = true) (harrives : s.arrives h = true)
    (hdest : s.isDest h = true) : exec (.courierFrameRoute h p) s = .next (State.scheduleWakes
      (if h.type = 1 then (if fld p 1 1 = 1 then s.takeReplay p else s.takeContribution p)
       else if h.type = 2 then s.takeParcel p else if h.type = 3 then s.takeActivation h.job p else if h.type = 5 then s.takeControl p
       else if h.type = 4 ∨ h.type = 6 then s else { s with rg := { s.rg with dropType := s.rg.dropType + 1 } }) s) := by
  change execCourierFrameRoute h p s = _
  unfold execCourierFrameRoute State.takeCourier
  rw [if_neg (by simp [harrives]), if_pos hdest, withCourier_carried hc]
  rfl

/-! ### The clauses of the statement -/

/-- The clause of a record for a step that is not open. -/
theorem activation_held_clause {s : State} {h : CourierHdr} {p : Bytes} (hc : s.carried h 3 = true) (hok : activationOk p = true)
    (hstep : s.jobStep h.job (parseActivation h.job s.tm.tick p).step = none) :
    let a := parseActivation h.job s.tm.tick p
    (sumList (s.fb.held.map Activation.size) + a.size ≤ 16777216 →
      ∃ t, exec (.activationRecord h p) s = .next t ∧ t.fb.held = s.fb.held ++ [a] ∧ t.rg = s.rg) ∧
    (16777216 < sumList (s.fb.held.map Activation.size) + a.size → ∃ t, exec (.activationRecord h p) s = .next t ∧ t.fb = s.fb ∧
      t.rg.dropActivation = s.rg.dropActivation + 1) := by
  have hexec := (exec_activationRecord (p := p) hc).trans (by rw [takeActivation_unopened hok hstep])
  refine ⟨fun hfits => ?_, fun hfull => ?_⟩
  · rw [holdActivation_fits hfits] at hexec
    exact ⟨_, hexec.trans (congrArg _ (scheduleWakes_of_nextInput (by rfl))), rfl, rfl⟩
  · rw [holdActivation_full hfull] at hexec
    exact ⟨_, hexec.trans (congrArg _ (scheduleWakes_regs s _)), rfl, rfl⟩

/-- The clause of a record for an open step. -/
theorem activation_placed_clause {s : State} {h : CourierHdr} {p : Bytes} {o : OpenStep} (hc : s.carried h 3 = true) (hok : activationOk p = true)
    (hstep : s.jobStep h.job (parseActivation h.job s.tm.tick p).step = some o) :
    let a := parseActivation h.job s.tm.tick p
    (a.epoch < o.epoch → ∃ t, exec (.activationRecord h p) s = .next t ∧ t.fb = s.fb ∧ t.sv = s.sv ∧
      t.rg.dropActivation = s.rg.dropActivation + 1) ∧
    (o.epoch ≤ a.epoch → (∀ x ∈ s.fb.activations, x.sameStep a = true → x.epoch = a.epoch) →
      ∃ u : State, u.fb.activations = s.fb.activations ++ [a] ∧ u.sv = s.sv ∧
        exec (.activationRecord h p) s = .next ((u.wakeTokens o a.token).scheduleWakes s)) := by
  have hexec := (exec_activationRecord (p := p) hc).trans (by rw [takeActivation_opened hok hstep])
  refine ⟨fun hlow => ?_, fun hepoch hsame => ?_⟩
  · rw [placeActivation_lower hlow] at hexec
    exact ⟨_, hexec.trans (congrArg _ (scheduleWakes_regs s _)), rfl, rfl, rfl⟩
  · rw [placeActivation_joins hepoch hsame] at hexec
    exact ⟨{ s with fb := { s.fb with activations := s.fb.activations ++ [_] } }, rfl, rfl, hexec⟩

/-- Settles O52, clause by clause: activation records, their hold, notices, the wait of a job, rounds, the router, and the wake for work. -/
theorem courierFramesFindTheirStepOrAbort : Obligations.CourierFramesFindTheirStepOrAbort := by
  unfold Obligations.CourierFramesFindTheirStepOrAbort
  refine ⟨fun s h p hc hok => ⟨activation_held_clause hc hok, fun o hstep => activation_placed_clause hc hok hstep⟩,
    fun s job step token a h => activationHoldTimeout_clause h,
    fun s h p hc hlen hkind hjob hlive => ⟨⟨_, exec_moduleDownNotice hc, takeControl_aborts hlen hkind hjob hlive⟩,
      _, exec_jobAbortNotice hc, takeControl_aborts hlen hkind hjob hlive⟩,
    fun s h p hc hlen hkind hold => ?again, fun s job n hjob hlive hwait => ?wait, fun s q w hnext => candidate_spec (nextQueue_offered hnext),
    fun s core hrun hfirm hcore haborted => ?round, fun s h p harrives hdest => ⟨fun hhops => ?limit, fun hhops k d hroute => ?routed,
      fun hhops hroute hjob hlive => ?unrouted⟩, fun s h p hc harrives hdest => exec_courierFrameRoute_here hc harrives hdest,
    fun s u => ⟨fun hno => if_neg (by tauto), fun hp1 hwork hsup hstop hsound hfree => ?wakes⟩⟩
  case again =>
    have hagain := takeControl_again (s := s) hlen hkind hold
    exact ⟨⟨_, (exec_moduleDownNotice hc).trans (congrArg _ hagain), rfl, rfl⟩,
      _, (exec_jobAbortNotice hc).trans (congrArg _ hagain), rfl, rfl⟩
  case wait =>
    obtain ⟨m, hm, htick⟩ := advanceTo_spec s (n + 12500000)
    have hexec := exec_jobWaitTimeout hwait
    rw [hm] at hexec
    have hclocks : (({ s with tm := m } : State).abortJob job 3 s.fb.coord).tm = m :=
      (State.abortJob_only (K := 187952) (Only.refl _) (Needs.refl _)) .clocks rfl
    exact ⟨_, hexec, by rw [hclocks, htick], (abortJob_aborts (s := { s with tm := m }) 3 _ hjob hlive).1⟩
  case round => exact exec_sortingRound_idle hrun hfirm hcore (.inr (nextQueue_none fun q hq => candidate_aborted (haborted q hq)))
  case limit =>
    exact ⟨_, _, (exec_courierFrameRoute_forward harrives hdest).trans (congrArg _ (forward_atLimit hhops)), rfl, rfl, raise_last _ _ _ _, rfl⟩
  case routed =>
    obtain ⟨htx, hsv⟩ := sendRouted_sent (p := p) hroute
    exact ⟨_, _, (exec_courierFrameRoute_forward harrives hdest).trans (congrArg _ (forward_routed hhops hroute)), htx, rfl, rfl, rfl, rfl, rfl, hsv⟩
  case unrouted =>
    obtain ⟨haborts, hcount⟩ := abortJob_aborts (s := s.countDrop fun r => { r with dropNoPort := r.dropNoPort + 1 }) 2 h.dest hjob hlive
    exact ⟨_, (exec_courierFrameRoute_forward harrives hdest).trans (congrArg _ (forward_unrouted hhops hroute)), hcount, haborts⟩
  case wakes =>
    rw [scheduleWakes_wakes hp1 hwork hsup hstop hsound hfree]
    exact ⟨arrive_p0 u 6, arrive_run u 6⟩

end Sys2Proof.Machine
end

section
/-! PROOFS. O9, O41: window memory, and the WRITE and READ frames that reach it (11 R376-R378). -/

set_option Elab.async false

namespace Sys2Proof.Machine

/-! ### Bytes written and cleared (11 R376) -/

/-- A byte read after a write of `d` at `a` is that of `d` at its place, or what stood there. -/
theorem memGet_memWrite {m : List Host.Cell} (a b : Nat) (d : Bytes) (hm : Memory.wf m = true) :
    memGet (memWrite m a d) b = if a ≤ b ∧ b < a + d.length then at' d (b - a) 0 else memGet m b := by
  split
  · rename_i hin
    obtain ⟨i, rfl⟩ := Nat.exists_eq_add_of_le hin.1
    rw [Nat.add_sub_cancel_left]
    exact memGet_memWrite_inside m a i d hm (by omega)
  · exact memGet_memWrite_outside m a b d (by omega)

/-- Settles O9: the laws of window memory, a write by the bytes inside and outside it. -/
theorem writtenBytesReadBack : Obligations.WrittenBytesReadBack := by
  unfold Obligations.WrittenBytesReadBack
  exact ⟨fun m a b d hm => ⟨memWrite_wf m a d hm, memGet_memWrite a b d hm⟩,
    fun m a n b hm => ⟨memClear_wf m a n hm, memGet_memClear m a n b⟩, Memory.ext⟩

/-! ### Answers to a frame (11 R382, Table 11.3) -/

/-- A DATA frame that answers `h` is the next frame sent. -/
theorem answerData_sends (s : State) (h : FrameHdr) (chan : Nat) (d : Bytes) : ∃ f, (s.answerData h chan d).dp.tx = s.dp.tx ++ [f] ∧
    f.type = 12 ∧ f.port = h.port ∧ f.seq = h.seq ∧ f.tag = h.tag ∧ f.payload = d :=
  ⟨_, rfl, rfl, rfl, rfl, rfl, rfl⟩

/-! ### WRITE and READ -/

theorem exec_write {s : State} {h : FrameHdr} {p : Bytes} (ht : s.takes h 0 10 true (8 ≤ p.length) = true) :
    exec (.write h p) s = .next (if (s.heard h 0).inWindows (fun _ => true) (fld p 0 8) (p.length - 8) then
      ((s.heard h 0).writeMem (fld p 0 8) (p.drop 8)).respond h 0 0 else (s.heard h 0).respond h 0 10) := by
  change execWrite h p s = _
  unfold execWrite
  rw [cutThrough_of_crcOk (takes_crc ht), withFrame_takes ht]

theorem exec_read {s : State} {h : FrameHdr} {p : Bytes}
    (ht : s.takes h 0 11 true (p.length == 16 && 1 ≤ fld p 8 4 && fld p 8 4 ≤ 65536) = true) :
    exec (.read h p) s = .next (if (s.heard h 0).inWindows (fun _ => true) (fld p 0 8) (fld p 8 4) then
      (s.heard h 0).answerData h 0 ((s.heard h 0).readMem (fld p 0 8) (fld p 8 4)) else (s.heard h 0).respond h 0 10) := by
  change execRead h p s = _
  unfold execRead
  exact congrArg _ (withFrame_takes ht)

/-- A byte of a WRITE's data, by its place in the payload. -/
theorem at'_drop (p : Bytes) (n i : Nat) : at' (p.drop n) i 0 = at' p (n + i) 0 := by
  simp [at', List.getD_eq_getElem?_getD]

/-- Settles O41: a frame whose range lies in the windows writes or reads it, and any other is refused. -/
theorem writesAndReadsReachTheWindows : Obligations.WritesAndReadsReachTheWindows := by
  unfold Obligations.WritesAndReadsReachTheWindows
  refine ⟨fun s h p ht => ?write, fun s h p ht => ?read⟩
  case write =>
    have hexec := exec_write ht
    cases hin : (s.heard h 0).inWindows (fun _ => true) (fld p 0 8) (p.length - 8) with
    | true =>
      rw [hin] at hexec
      refine ⟨_, hexec, rfl, fun _ => ⟨respond_answered _ _ _ _, fun hwf b => ?_⟩, fun hout => (nomatch hin.symm.trans hout)⟩
      have hread := memGet_memWrite (fld p 0 8) b (p.drop 8) hwf
      rwa [at'_drop, List.length_drop] at hread
    | false =>
      rw [hin] at hexec
      exact ⟨_, hexec, rfl, fun hno => (nomatch hin.symm.trans hno), fun _ => ⟨respond_answered _ _ _ _, rfl⟩⟩
  case read =>
    have hexec := exec_read ht
    cases hin : (s.heard h 0).inWindows (fun _ => true) (fld p 0 8) (fld p 8 4) with
    | true =>
      rw [hin] at hexec
      exact ⟨_, hexec, rfl, fun _ => answerData_sends _ _ _ _, fun hout => (nomatch hin.symm.trans hout)⟩
    | false =>
      rw [hin] at hexec
      exact ⟨_, hexec, rfl, fun hno => (nomatch hin.symm.trans hno), fun _ => respond_answered _ _ _ _⟩

end Sys2Proof.Machine
end

section
/-! PROOFS. O21: REGWRITE and REGREAD, and the frames of a type that a host does not send on their channel (11 R362, R382, R391). -/

set_option Elab.async false

namespace Sys2Proof.Machine

/-! ### REGWRITE and REGREAD (11 R391) -/

/-- The state after the writes of a REGWRITE whose words are all mapped. -/
def State.regWritten (u : State) (p : Bytes) : State :=
  let addrs := wordRange (fld p 0 8) ((p.length - 8) / 4)
  let vals := (List.range ((p.length - 8) / 4)).map fun i => fld p (8 + 4 * i) 4
  if addrs.all physical then u.hostWrites (addrs.zip vals) else (addrs.zip vals).foldl (fun x e => x.writeEmulated e.1 e.2) u

theorem exec_regwrite {s : State} {h : FrameHdr} {p : Bytes} (ht : s.takes h 0 16 true (12 ≤ p.length && p.length % 4 == 0) = true) :
    exec (.regwrite h p) s = .next (if !(wordRange (fld p 0 8) ((p.length - 8) / 4)).all (s.heard h 0).mapped then (s.heard h 0).respond h 0 10
      else ((s.heard h 0).regWritten p).respond h 0 0) :=
  congrArg Host.Outcome.next (withFrame_takes ht)

theorem exec_regread {s : State} {h : FrameHdr} {p : Bytes}
    (ht : s.takes h 0 17 true (p.length == 12 && 1 ≤ fld p 8 4 && fld p 8 4 ≤ 16384) = true) :
    exec (.regread h p) s = .next (if !(wordRange (fld p 0 8) (fld p 8 4)).all (s.heard h 0).mapped then (s.heard h 0).respond h 0 10
      else (s.heard h 0).answerData h 0 ((wordRange (fld p 0 8) (fld p 8 4)).flatMap fun a => natLe 4
        (if physical a then (s.heard h 0).readReg a else (s.heard h 0).readEmulated a))) :=
  congrArg Host.Outcome.next (withFrame_takes ht)

/-- The check of a range with a word that is not mapped. -/
theorem not_all_mapped {u : State} {l : List Nat} (h : ∃ a ∈ l, u.mapped a = false) : (!l.all u.mapped) = true := by
  simpa using h

theorem all_mapped_of_physical {u : State} {l : List Nat} (h : ∀ a ∈ l, physical a = true) : ¬ (!l.all u.mapped) = true := by
  rw [Bool.not_eq_true, Bool.not_eq_false']
  exact List.all_eq_true.2 fun a ha => by unfold State.mapped; rw [h a ha, Bool.true_or]

theorem regWritten_physical {u : State} {p : Bytes} (h : ∀ a ∈ wordRange (fld p 0 8) ((p.length - 8) / 4), physical a = true) :
    u.regWritten p = u.hostWrites ((wordRange (fld p 0 8) ((p.length - 8) / 4)).zip
      ((List.range ((p.length - 8) / 4)).map fun i => fld p (8 + 4 * i) 4)) :=
  if_pos (List.all_eq_true.2 h)

/-- The words that a REGREAD of physical registers answers with. -/
theorem flatMap_physical {u : State} {l : List Nat} (h : ∀ a ∈ l, physical a = true) :
    (l.flatMap fun a => natLe 4 (if physical a then u.readReg a else u.readEmulated a)) = l.flatMap fun a => natLe 4 (u.readReg a) := by
  rw [List.flatMap_def, List.flatMap_def, List.map_congr_left fun a ha => by rw [if_pos (h a ha)]]

/-! ### Frames of other types (11 R362, log entry 61) -/

theorem exec_hostData {s : State} {h : FrameHdr} {p : Bytes} (ht : s.takes h 0 12 true true = true) :
    exec (.reservedFrameType h 12 0 p) s = .next ((s.heard h 0).ack h) := by
  change execReservedFrameType h 12 0 p s = _
  unfold execReservedFrameType
  rw [(takes_runs ht).1]
  exact congrArg _ (withFrame_takes ht)

theorem exec_reservedFrameType {s : State} {h : FrameHdr} {type chan : Nat} {p : Bytes} (hreserved : type ∉ hostTypes chan) (hchan : chan ≤ 1)
    (hdata : ¬ (type = 12 ∧ chan = 0)) (hport : s.portHears h.port = true) (hrun : (s.frameArrives (chan == 0)).firmwareRuns = true) :
    exec (.reservedFrameType h type chan p) s = .next ((s.frameArrives (chan == 0)).refuseType h type chan) := by
  change execReservedFrameType h type chan p s = _
  unfold execReservedFrameType
  rw [if_neg (by simp [hreserved, hport, hchan]), if_neg (by simpa using hdata)]
  dsimp only
  rw [if_pos hrun]

theorem refuseType_reserved {u : State} {h : FrameHdr} (type chan : Nat) (hversion : u.versionOk h 0 = true) (hlen : h.length ≤ 65536) :
    u.refuseType h type chan = u.respondWith h chan 3 (if type = 9 then natLe 2 0xFFFF ++ natLe 6 0 else natLe 8 0) := by
  have hstatus : u.reservedStatus h = 3 := by
    unfold State.reservedStatus
    rw [if_neg (by simp [hversion]), if_neg (by omega)]
  unfold State.refuseType
  rw [hstatus]
  split <;> rfl

/-! ### The clauses of the statement -/

/-- Settles O21: a range goes by whether its words are mapped, and a frame of another type by its type and channel. -/
theorem hostRegisterFramesAnswer : Obligations.HostRegisterFramesAnswer := by
  unfold Obligations.HostRegisterFramesAnswer
  refine ⟨fun s h p ht => ⟨_, exec_regwrite ht, fun hbad => ?writeBad, fun hphys => ?write⟩,
    fun s h p ht => ⟨_, exec_regread ht, ?readFrame, fun hbad => ?readBad, fun hphys => ?read⟩,
    fun s h p ht => exec_hostData ht, fun s h type chan p hreserved hchan hdata hport hrun hversion hlen => ?reserved⟩
  case writeBad =>
    rw [if_pos (not_all_mapped (l := wordRange _ _) hbad)]
    exact ⟨respond_answered _ _ _ _, rfl⟩
  case write =>
    rw [if_neg (all_mapped_of_physical (l := wordRange _ _) hphys), regWritten_physical hphys]
    exact ⟨respond_answered _ _ _ _, rfl⟩
  case readFrame => split <;> rfl
  case readBad =>
    rw [if_pos (not_all_mapped (l := wordRange _ _) hbad)]
    exact respond_answered _ _ _ _
  case read =>
    rw [if_neg (all_mapped_of_physical (l := wordRange _ _) hphys), flatMap_physical (l := wordRange _ _) hphys]
    obtain ⟨f, htx, htype, hport, hseq, -, hpayload⟩ := answerData_sends (s.heard h 0) h 0
      ((wordRange (fld p 0 8) (fld p 8 4)).flatMap fun a => natLe 4 ((s.heard h 0).readReg a))
    exact ⟨f, htx, htype, hport, hseq, hpayload⟩
  case reserved =>
    refine ⟨_, exec_reservedFrameType hreserved hchan hdata hport hrun, ?_⟩
    rw [refuseType_reserved type chan hversion hlen]
    exact ⟨respondWith_answered _ _ _ _ _, rfl⟩

end Sys2Proof.Machine
end

section
/-! PROOFS. O40, O11: STEP frames and doorbells against the numbers of their queue (11 R368, R380, R381, R384, 14 R476). -/

set_option Elab.async false

namespace Sys2Proof.Machine

/-! ### The queue that a frame names (11 R368, 14 R476) -/

theorem queueStatus_missing {u : State} {h : FrameHdr} (step : Bool) (hnone : u.queue h.queue = none) : u.queueStatus h step = 6 := by
  unfold State.queueStatus
  rw [hnone]

/-- A queue that stands is refused to the port that owns it only while the module is drained. -/
theorem queueStatus_found {u : State} {h : FrameHdr} {q : Queue} {step : Bool} (hq : u.queue h.queue = some q) (hlive : q.deleting = false)
    (hctx : step = true → q.ctx = h.context) (hport : q.ownPort = none ∨ q.ownPort = some h.port) :
    u.queueStatus h step = if u.isDrained then 9 else 0 := by
  have hbound : (step && q.ctx != h.context) = false := by
    cases step with
    | false => rfl
    | true => simp [hctx rfl]
  have hown : q.ownPort.any (fun p => p != h.port) = false := by rcases hport with hp | hp <;> simp [hp]
  unfold State.queueStatus
  rw [hq]
  dsimp only
  rw [hlive, hbound, hown, if_neg (by simp), if_neg (by simp)]

theorem queue_claimQueue {u : State} {h : FrameHdr} {q : Queue} (hq : u.queue h.queue = some q)
    (hport : q.ownPort = none ∨ q.ownPort = some h.port) : (u.claimQueue h).queue h.queue = some { q with ownPort := some h.port } := by
  have howner : q.ownPort.getD h.port = h.port := by rcases hport with hp | hp <;> rw [hp] <;> rfl
  unfold State.claimQueue
  refine (queue_modQueue hq _ ?_).trans (by rw [howner])
  exact fun _ => rfl

theorem ack_sv (s : State) (h : FrameHdr) : (s.ack h).sv = s.sv := by
  obtain ⟨d, hd⟩ := ack_eq s h
  rw [hd]

theorem ack_answered {s : State} {h : FrameHdr} (hack : h.ackReq = true) : (s.ack h).answered h 0 (natLe 8 0) := by
  unfold State.ack
  rw [if_pos hack]
  exact respond_answered _ _ _ _

/-! ### A step against the expected number (11 R380, R381) -/

/-- A queue that has accepted a step. -/
def Queue.accepted (w : Waiting) (x : Queue) : Queue :=
  { x with expected := (x.expected + 1) % 2 ^ 32, waiting := x.waiting ++ [w], order := x.order ++ [w.seq] }

theorem queue_accepted {v : State} {n : Nat} {q : Queue} (hq : v.queue n = some q) (w : Waiting) (h : FrameHdr) :
    ((v.modQueue n (Queue.accepted w)).ack h).queue n = some (q.accepted w) :=
  (queue_of_queues (by rw [ack_sv]) n).trans (queue_modQueue hq (Queue.accepted w) fun _ => rfl)

section Offer

variable {v : State} {n : Nat} {q : Queue} {w : Waiting} (hq : v.queue n = some q)

include hq

theorem acceptStep_full (hsound : w.refuse = 0) (hfull : 256 ≤ q.waiting.length) : v.acceptStep n w = (v.respond (w.header n) 0 9, false) := by
  unfold State.acceptStep
  rw [hq]
  dsimp only
  rw [if_neg (by simp [hsound]), if_pos hfull]

theorem acceptStep_room (hsound : w.refuse = 0) (hroom : q.waiting.length < 256) (hlive : q.deleting = false) :
    v.acceptStep n w = ((v.modQueue n (Queue.accepted w)).ack (w.header n), true) := by
  unfold State.acceptStep
  rw [hq]
  dsimp only
  rw [if_neg (by simp [hsound]), if_neg (by omega), if_neg (by simp [hlive])]
  rfl

/-- Where no held step has the expected number, none is taken. -/
theorem drainReorder_none (k : Nat) (hnone : ∀ x ∈ q.reorder, x.seq ≠ q.expected) : State.drainReorder k n v = v := by
  cases k with
  | zero => rfl
  | succ k =>
    have hfind : (q.reorder.find? fun x => x.seq == q.expected) = none := by simpa using hnone
    unfold State.drainReorder
    rw [hq]
    dsimp only
    rw [hfind]

theorem offer_full (hsound : w.refuse = 0) (hnow : ahead q.expected w.seq = 0) (hfull : 256 ≤ q.waiting.length) :
    v.offer n w = v.respond (w.header n) 0 9 := by
  unfold State.offer
  rw [hq]
  dsimp only
  rw [if_pos hnow, acceptStep_full hq hsound hfull]
  rfl

theorem offer_accepts (hsound : w.refuse = 0) (hnow : ahead q.expected w.seq = 0) (hroom : q.waiting.length < 256) (hlive : q.deleting = false)
    (hnext : ∀ x ∈ q.reorder, x.seq ≠ (q.expected + 1) % 2 ^ 32) :
    v.offer n w = (v.modQueue n (Queue.accepted w)).ack (w.header n) := by
  unfold State.offer
  rw [hq]
  dsimp only
  rw [if_pos hnow, acceptStep_room hq hsound hroom hlive]
  exact drainReorder_none (queue_accepted hq w _) 17 hnext

theorem offer_holds (hlow : 1 ≤ ahead q.expected w.seq) (hhigh : ahead q.expected w.seq ≤ 16) (hnew : ∀ x ∈ q.reorder, x.seq ≠ w.seq) :
    v.offer n w = v.modQueue n fun x => { x with reorder := x.reorder ++ [w] } := by
  unfold State.offer
  rw [hq]
  dsimp only
  rw [if_neg (by omega), if_pos hhigh, if_neg (by simpa using hnew)]

theorem offer_passed (hpassed : 2 ^ 32 - 4096 ≤ ahead q.expected w.seq) : v.offer n w = v.respond (w.header n) 0 8 := by
  unfold State.offer
  rw [hq]
  dsimp only
  rw [if_neg (by omega), if_neg (by omega), if_pos hpassed]

theorem offer_beyond (hfar : 16 < ahead q.expected w.seq) (hnot : ahead q.expected w.seq < 2 ^ 32 - 4096) :
    v.offer n w = v.respond (w.header n) 0 7 := by
  unfold State.offer
  rw [hq]
  dsimp only
  rw [if_neg (by omega), if_neg (by omega), if_neg (by omega)]

end Offer

theorem ahead_self {n : Nat} (h : n < 2 ^ 32) : ahead n n = 0 := by
  unfold ahead
  rw [Nat.mod_eq_of_lt h, Nat.add_sub_cancel_left, Nat.mod_self]

/-! ### The STEP frame -/

/-- The step that a STEP frame brings, as it joins its queue. -/
def State.stepWaiting (u : State) (h : FrameHdr) (p : Bytes) : Waiting :=
  { seq := h.seq, tag := h.tag, payload := p, tuiven1 := u.tuiven1, features := u.featureBits, since := u.tm.tick, port := h.port,
    ackReq := h.ackReq, source := none, refuse := 0 }

theorem exec_step {s : State} {h : FrameHdr} {p : Bytes} (ht : s.takes h 0 5 true true = true) :
    exec (.step h p) s = .next (if (s.heard h 0).queueStatus h true = 6 then (s.heard h 0).respond h 0 6
      else if (s.heard h 0).queueStatus h true = 9 then ((s.heard h 0).claimQueue h).respond h 0 9
      else ((s.heard h 0).claimQueue h).offer h.queue ((s.heard h 0).stepWaiting h p)) :=
  congrArg Host.Outcome.next (withFrame_takes ht)

section Step

variable {s : State} {h : FrameHdr} {p : Bytes} (ht : s.takes h 0 5 true true = true)

include ht

theorem exec_step_missing (hnone : (s.heard h 0).queue h.queue = none) : exec (.step h p) s = .next ((s.heard h 0).respond h 0 6) := by
  rw [exec_step ht, if_pos (queueStatus_missing true hnone)]

variable {q : Queue} (hq : (s.heard h 0).queue h.queue = some q) (hlive : q.deleting = false) (hctx : q.ctx = h.context)
  (hport : q.ownPort = none ∨ q.ownPort = some h.port)

include hq hlive hctx hport

theorem exec_step_drained (hdrained : (s.heard h 0).isDrained = true) :
    exec (.step h p) s = .next (((s.heard h 0).claimQueue h).respond h 0 9) := by
  have hstatus := queueStatus_found (step := true) hq hlive (fun _ => hctx) hport
  rw [hdrained, if_pos rfl] at hstatus
  rw [exec_step ht, hstatus, if_neg (by decide), if_pos rfl]

theorem exec_step_offered (hserves : (s.heard h 0).isDrained = false) :
    exec (.step h p) s = .next (((s.heard h 0).claimQueue h).offer h.queue ((s.heard h 0).stepWaiting h p)) := by
  have hstatus := queueStatus_found (step := true) hq hlive (fun _ => hctx) hport
  rw [hserves, if_neg (by simp)] at hstatus
  rw [exec_step ht, hstatus, if_neg (by decide), if_neg (by decide)]

end Step

/-! ### A held step that has waited 100 us (11 R380) -/

theorem exec_reorderTimeout {s : State} {n seq : Nat} {q : Queue} {w : Waiting} (hrun : s.firmwareRuns = true) (hq : s.queue n = some q)
    (hw : q.reorder.find? (fun x => x.seq == seq) = some w) : exec (.reorderTimeout n seq) s =
      .next (((s.advanceTo (w.since + reorderTicks)).modQueue n fun q => { q with reorder := q.reorder.filter fun x => x.seq != seq }).respond
        (w.header n) 0 7) := by
  change execReorderTimeout n seq s = _
  unfold execReorderTimeout
  rw [hq, Option.bind_some, hw]
  dsimp only
  rw [if_neg (by simp [hrun])]

/-! ### Doorbells (11 R384) -/

section Doorbell

variable {u : State} {h : FrameHdr} {p : Bytes} {q : Queue} (hq : u.queue h.queue = some q) (hlive : q.deleting = false)
  (hport : q.ownPort = none ∨ q.ownPort = some h.port) (hserves : u.isDrained = false)

include hq hlive hport hserves

/-- A doorbell on a queue that stands moves the index of the ring that it names, if the new one does not lie beyond what stands. -/
theorem doorbell_served : u.doorbell h p =
    if fld p 0 1 = 0 then
      (if 2 ^ q.sub.k < ahead q.sub.tail (fld p 4 4) then (u.claimQueue h).respond h 0 11
        else ((u.claimQueue h).ack h).submit h { q with ownPort := some h.port } (ahead q.sub.tail (fld p 4 4)))
    else if fld p 0 1 = 1 then
      (if q.comp.tail - q.comp.head < ahead q.comp.head (fld p 4 4) then (u.claimQueue h).respond h 0 11
        else ((u.claimQueue h).ack h).releaseCompletions q.id (ahead q.comp.head (fld p 4 4)))
    else (u.claimQueue h).respond h 0 11 := by
  have hstatus := queueStatus_found (step := false) hq hlive nofun hport
  rw [hserves, if_neg (by simp)] at hstatus
  unfold State.doorbell
  dsimp only
  rw [hstatus, if_neg (by decide), queue_claimQueue hq hport]
  dsimp only
  rw [if_neg (by decide)]

theorem doorbell_submission (hring : fld p 0 1 = 0) : u.doorbell h p =
    if 2 ^ q.sub.k < ahead q.sub.tail (fld p 4 4) then (u.claimQueue h).respond h 0 11
    else ((u.claimQueue h).ack h).submit h { q with ownPort := some h.port } (ahead q.sub.tail (fld p 4 4)) :=
  (doorbell_served hq hlive hport hserves).trans (if_pos hring)

theorem doorbell_completion (hring : fld p 0 1 = 1) : u.doorbell h p =
    if q.comp.tail - q.comp.head < ahead q.comp.head (fld p 4 4) then (u.claimQueue h).respond h 0 11
    else ((u.claimQueue h).ack h).releaseCompletions q.id (ahead q.comp.head (fld p 4 4)) :=
  (doorbell_served hq hlive hport hserves).trans ((if_neg (by omega)).trans (if_pos hring))

end Doorbell

theorem exec_doorbellSubmission {s : State} {h : FrameHdr} {p : Bytes} (ht : s.takes h 0 13 true (p.length == 8) = true) :
    exec (.doorbellSubmission h p) s = .next ((s.heard h 0).doorbell h p) := congrArg Host.Outcome.next (withFrame_takes ht)

theorem exec_doorbellCompletion {s : State} {h : FrameHdr} {p : Bytes} (ht : s.takes h 0 13 true (p.length == 8) = true) :
    exec (.doorbellCompletion h p) s = .next ((s.heard h 0).doorbell h p) := congrArg Host.Outcome.next (withFrame_takes ht)

/-! ### The clauses of the statement -/

/-- Settles O40, by where the number stands against the expected one, and by how far a doorbell's index lies beyond the old one. -/
theorem stepsAreTakenInOrderOfTheirNumbers : Obligations.StepsAreTakenInOrderOfTheirNumbers := by
  unfold Obligations.StepsAreTakenInOrderOfTheirNumbers
  refine ⟨fun s h p ht => ⟨fun hnone => ?missing, fun q hq hlive hctx hport => ⟨fun hdrained => ?drained, fun hserves => ?served⟩⟩,
    fun s n seq q w hrun hq hw => ?timeout, fun s h p q ht hq hlive hport hserves => ⟨fun hring => ⟨fun hfar => ?tailFar, fun hnear => ?tail⟩,
      fun hring => ⟨fun hfar => ?headFar, fun hnear => ?head⟩⟩⟩
  case missing => exact ⟨_, exec_step_missing ht hnone, respond_answered _ _ _ _, rfl⟩
  case drained => exact ⟨_, exec_step_drained ht hq hlive hctx hport hdrained, respond_answered _ _ _ _⟩
  case served =>
    have hexec := exec_step_offered (p := p) ht hq hlive hctx hport hserves
    have hclaimed := queue_claimQueue hq hport
    refine ⟨fun hseq hlt hroom hnext => ?accepted, fun hlow hhigh hnew => ?held, fun hpassed => ?passed, fun hfar hnot => ?beyond⟩
    case accepted =>
      rw [offer_accepts hclaimed rfl (by rw [State.stepWaiting, hseq]; exact ahead_self hlt) hroom hlive hnext] at hexec
      exact ⟨_, (s.heard h 0).stepWaiting h p, hexec, rfl, rfl, rfl, rfl, queue_accepted hclaimed _ _, fun hack => ack_answered hack⟩
    case held =>
      rw [offer_holds hclaimed hlow hhigh hnew] at hexec
      exact ⟨_, _, hexec, rfl, rfl, rfl, queue_modQueue hclaimed _ fun _ => rfl⟩
    case passed =>
      rw [offer_passed hclaimed hpassed] at hexec
      exact ⟨_, hexec, respond_answered _ _ _ _⟩
    case beyond =>
      rw [offer_beyond hclaimed hfar hnot] at hexec
      exact ⟨_, hexec, respond_answered _ _ _ _⟩
  case timeout =>
    have hexec := exec_reorderTimeout hrun hq hw
    obtain ⟨m, hm, htick⟩ := advanceTo_spec s (w.since + reorderTicks)
    rw [hm] at hexec
    exact ⟨_, hexec, htick, queue_modQueue (s := { s with tm := m }) hq _ fun _ => rfl, respond_answered _ _ _ _⟩
  case tailFar =>
    exact ⟨_, (exec_doorbellSubmission ht).trans (congrArg _ ((doorbell_submission hq hlive hport hserves hring).trans (if_pos hfar))),
      respond_answered _ _ _ _⟩
  case tail =>
    rw [exec_doorbellSubmission ht, doorbell_submission hq hlive hport hserves hring, if_neg (Nat.not_lt.2 hnear)]
  case headFar =>
    exact ⟨_, (exec_doorbellCompletion ht).trans (congrArg _ ((doorbell_completion hq hlive hport hserves hring).trans (if_pos hfar))),
      respond_answered _ _ _ _⟩
  case head =>
    rw [exec_doorbellCompletion ht, doorbell_completion hq hlive hport hserves hring, if_neg (Nat.not_lt.2 hnear)]

/-! ### At most 256 waiting steps (11 R381) -/

/-- No queue holds more than 256 waiting steps. -/
def State.WaitsBounded (s : State) : Prop := ∀ k q, s.queue k = some q → q.waiting.length ≤ 256

theorem SameWaiting.bounded {s t : State} (h : SameWaiting s t) (hs : s.WaitsBounded) : t.WaitsBounded := fun k q hq => by
  obtain ⟨r, hr, hwait⟩ := h k q hq
  rw [hwait]
  exact hs k r hr

theorem modQueue_bounded {s : State} (hs : s.WaitsBounded) {n : Nat} {f : Queue → Queue} (hf : ∀ x, (f x).id = x.id)
    (hw : ∀ x, (f x).waiting = x.waiting) : (s.modQueue n f).WaitsBounded := ((SameWaiting.refl s).mod hf hw).bounded hs

theorem respond_waiting (s : State) (h : FrameHdr) (chan c : Nat) : SameWaiting s (s.respond h chan c) := .pass (.refl s) rfl

theorem ack_waiting {s0 s : State} (h : SameWaiting s0 s) (hdr : FrameHdr) : SameWaiting s0 (s.ack hdr) := h.pass (by rw [ack_sv])

theorem claimQueue_waiting (s : State) (h : FrameHdr) : SameWaiting s (s.claimQueue h) := .mod (.refl s) (fun _ => rfl) fun _ => rfl

/-- A step accepted joins a queue that has room for it. -/
theorem accepted_bounded {s : State} {n : Nat} {q : Queue} (w : Waiting) (hs : s.WaitsBounded) (hq : s.queue n = some q) (hroom : q.waiting.length < 256) :
    (s.modQueue n (Queue.accepted w)).WaitsBounded := fun k x hx => by
  rw [State.modQueue_queue s n k (Queue.accepted w) fun _ => rfl] at hx
  obtain ⟨y, hy, rfl⟩ := Option.map_eq_some_iff.1 hx
  split
  · rename_i hid
    have hkey : y.id = k := by simpa using List.find?_some hy
    have hsame : y = q := Option.some.inj (by rw [← hy, ← hkey, hid, hq])
    rw [hsame]
    simpa [Queue.accepted] using hroom
  · exact hs k y hy

theorem acceptStep_bounded {s : State} (n : Nat) (w : Waiting) (hs : s.WaitsBounded) : (s.acceptStep n w).1.WaitsBounded := by
  unfold State.acceptStep
  split
  · exact hs
  · rename_i q hq
    dsimp only
    split
    · exact (respond_waiting _ _ 0 _).bounded (modQueue_bounded hs (fun _ => rfl) fun _ => rfl)
    · split
      · exact (respond_waiting s _ 0 9).bounded hs
      · split
        · exact (State.sweepQueue_waiting (State.putUnbegun_waiting (ack_waiting (.refl _) _))).bounded
            (modQueue_bounded hs (fun _ => rfl) fun _ => rfl)
        · exact (ack_waiting (.refl _) _).bounded (accepted_bounded w hs hq (by omega))

theorem drainReorder_bounded (k n : Nat) {s : State} (hs : s.WaitsBounded) : (State.drainReorder k n s).WaitsBounded := by
  induction k generalizing s with
  | zero => exact hs
  | succ k ih =>
    unfold State.drainReorder
    split
    · exact hs
    · split
      · exact hs
      · rename_i q _ w _
        have haccept := acceptStep_bounded n w (modQueue_bounded hs (n := n) (f := fun x =>
          { x with reorder := x.reorder.filter fun y => y.seq != w.seq }) (fun _ => rfl) fun _ => rfl)
        dsimp only
        split
        · exact ih haccept
        · exact haccept

theorem offer_bounded (n : Nat) (w : Waiting) {s : State} (hs : s.WaitsBounded) : (s.offer n w).WaitsBounded := by
  have haccept := acceptStep_bounded n w hs
  unfold State.offer
  split
  · exact hs
  · dsimp only
    split
    · split
      · exact drainReorder_bounded 17 n haccept
      · exact haccept
    · split
      · split
        · exact (respond_waiting s _ 0 8).bounded hs
        · exact modQueue_bounded hs (fun _ => rfl) fun _ => rfl
      · split
        · exact (respond_waiting s _ 0 8).bounded hs
        · exact (respond_waiting s _ 0 7).bounded hs

theorem submit_bounded (h : FrameHdr) (q : Queue) (n : Nat) {s : State} (hs : s.WaitsBounded) : (s.submit h q n).WaitsBounded := by
  unfold State.submit
  exact List.foldlRecOn (motive := State.WaitsBounded) _ _ (modQueue_bounded hs (fun _ => rfl) fun _ => rfl)
    fun t ht i _ => offer_bounded q.id _ ht

/-- A doorbell that names the submission ring keeps the bound. -/
theorem doorbell_bounded (h : FrameHdr) (p : Bytes) {s : State} (hs : s.WaitsBounded) (hring : fld p 0 1 = 0) : (s.doorbell h p).WaitsBounded := by
  have hclaim := (claimQueue_waiting s h).bounded hs
  unfold State.doorbell
  dsimp only
  split
  · exact (respond_waiting s h 0 6).bounded hs
  · split
    · exact hclaim
    · split
      · exact (respond_waiting _ h 0 9).bounded hclaim
      · split
        · exact (respond_waiting _ h 0 11).bounded hclaim
        · exact submit_bounded h _ _ ((ack_waiting (.refl _) h).bounded hclaim)

theorem step_bounded (h : FrameHdr) (p : Bytes) {s t : State} (ht : s.takes h 0 5 true true = true) (hs : (s.heard h 0).WaitsBounded)
    (hexec : exec (.step h p) s = .next t) : t.WaitsBounded := by
  have hclaim := (claimQueue_waiting _ h).bounded hs
  rw [exec_step ht] at hexec
  cases hexec
  split
  · exact (respond_waiting _ h 0 6).bounded hs
  · split
    · exact (respond_waiting _ h 0 9).bounded hclaim
    · exact offer_bounded h.queue _ hclaim

/-- Settles O11: every operation on a submission keeps the bound, and a full queue answers busy. -/
theorem aQueueHoldsAtMost256WaitingSteps : Obligations.AQueueHoldsAtMost256WaitingSteps := by
  unfold Obligations.AQueueHoldsAtMost256WaitingSteps
  refine ⟨fun s t n w hs heq => heq ▸ offer_bounded n w hs, fun s t h p ht hs hexec => step_bounded h p ht hs hexec,
    fun s t h p ht hs hring hexec => ?doorbell, fun s h p q ht hq hlive hctx hport hserves hseq hlt hfull => ?busy⟩
  case doorbell =>
    rw [exec_doorbellSubmission ht] at hexec
    cases hexec
    exact doorbell_bounded h p hs hring
  case busy =>
    have hclaimed := queue_claimQueue hq hport
    have hexec := exec_step_offered (p := p) ht hq hlive hctx hport hserves
    rw [offer_full hclaimed rfl (by rw [State.stepWaiting, hseq]; exact ahead_self hlt) hfull] at hexec
    exact ⟨_, hexec, respond_answered _ _ _ _, hclaimed⟩

end Sys2Proof.Machine
end

section
/-! PROOFS. O39: the lease from the SELECT that makes it, over its HEARTBEATs, to its end (11 R364, R367, R395-R398, 12 R408). What delivers
completions and events leaves the lease as it is. -/

set_option Elab.async false

namespace Sys2Proof.Machine

/-! ### What leaves the lease as it is -/

theorem writeCompletion_dp (s : State) (n : Nat) (c : Completion) : (s.writeCompletion n c).1.dp = s.dp := by
  cases hq : s.queue n with
  | none =>
    unfold State.writeCompletion
    rw [hq]
  | some q =>
    obtain ⟨mem, addr, win, heq⟩ := writeCompletion_eq hq c
    rw [heq]
    rfl

theorem retain_lease (s : State) (q : Queue) (c : Completion) : (s.retain q c).dp.lease = s.dp.lease := by
  have hwrite : (s.retainedWrite q c).1.dp.lease = s.dp.lease := by
    unfold State.retainedWrite
    split
    · rw [writeCompletion_dp]
    · rfl
  rw [retain_eq]
  split <;> exact hwrite

theorem flushQueue_lease (f n : Nat) (s : State) : (State.flushQueue f n s).1.dp.lease = s.dp.lease := by
  induction f generalizing s with
  | zero => rfl
  | succ f ih =>
    unfold State.flushQueue
    split
    · rfl
    · split
      · rfl
      · split
        · exact ih _
        · split
          · exact (ih _).trans (retain_lease s _ _)
          · split
            · exact (ih _).trans (congrArg Dispatch.lease (writeCompletion_dp s n _))
            · rfl

theorem sendCompletions_lease (s : State) (n : Nat) (items : List Bytes) : (s.sendCompletions n items).dp.lease = s.dp.lease := by
  unfold State.sendCompletions
  split
  · rfl
  · split
    · rfl
    · split
      · rfl
      · exact foldl_keep (fun t => t.dp.lease) _ _ _ fun _ _ => rfl

theorem deliver_lease (s : State) (n : Nat) : (s.deliver n).dp.lease = s.dp.lease := by
  unfold State.deliver
  split
  · rfl
  · exact (sendCompletions_lease _ n _).trans (flushQueue_lease _ n s)

theorem deliverAll_lease (s : State) : s.deliverAll.dp.lease = s.dp.lease := foldl_keep (fun t => t.dp.lease) State.deliver _ s deliver_lease

theorem sweep_dp (s : State) : s.sweep.dp = s.dp := (State.sweep_only (K := 29696) (Only.refl s) (Needs.refl _)) .dispatch rfl

theorem discardAll_lease (s : State) : s.discardAll.dp.lease = s.dp.lease := by
  unfold State.discardAll
  dsimp only
  rw [sweep_dp, deliverAll_lease]

theorem adoptQueue_lease (s : State) (again : Bool) (n : Nat) : (s.adoptQueue again n).dp.lease = s.dp.lease := by
  unfold State.adoptQueue
  dsimp only
  split
  · split <;> rfl
  · rw [deliver_lease, sendCompletions_lease]
    split <;> rfl

theorem adopt_lease (s : State) (again : Bool) : (s.adopt again).dp.lease = s.dp.lease := by
  unfold State.adopt
  rw [sweep_dp]
  exact foldl_keep (fun t => t.dp.lease) _ _ s fun t n => adoptQueue_lease t again n

theorem rewriteEnd_dp (s : State) (e : LeaseEnd) (n : Nat) : (s.rewriteEnd e n).dp = s.dp :=
  (State.rewriteEnd_only (K := 3088) (Only.refl s) (Needs.refl _)) .dispatch rfl

theorem deliverAsync_lease (s : State) (e : Async) : (s.deliverAsync e).dp.lease = s.dp.lease := by
  unfold State.deliverAsync
  split
  · rw [writeAsync_dp]
  · rw [sendEvent_lease, writeAsync_dp]

theorem deliverEnd_lease (s : State) (n : Nat) : (s.deliverEnd n).dp.lease = s.dp.lease := by
  unfold State.deliverEnd
  split
  · dsimp only
    split
    · rw [rewriteEnd_dp]
    · split
      · rw [deliverAsync_lease, rewriteEnd_dp]
      · split
        · rw [rewriteEnd_dp]
        · rw [sendEvent_lease, rewriteEnd_dp]
  · rfl

theorem deliverFlag_lease (s : State) : s.deliverFlag.dp.lease = s.dp.lease := by
  unfold State.deliverFlag
  split
  · dsimp only
    split
    · rw [async_lease]
    · rfl
  · rfl

theorem wakeReattach_dp (s : State) : s.wakeReattach.dp = s.dp := (State.wakeReattach_only (K := 66) (Only.refl s) (Needs.refl _)) .dispatch rfl

/-! ### SELECT (11 R364, R367, R398) -/

/-- `t` follows `s` by frames sent at most, as far as the Dispatch block shows an end of the lease. -/
structure State.Notifies (s t : State) : Prop where
  expiring : t.dp.expiring = s.dp.expiring
  sent : ∃ rest, t.dp.tx = s.dp.tx ++ rest

theorem writeAsync_notifies (s : State) (e : Async) : s.Notifies (s.writeAsync e) :=
  ⟨by rw [writeAsync_dp], [], by rw [writeAsync_dp, List.append_nil]⟩

theorem sendEvent_notifies (s : State) (e : Async) : s.Notifies (s.sendEvent e) := by
  unfold State.sendEvent
  split
  · exact ⟨rfl, [_], rfl⟩
  · exact ⟨rfl, [], (List.append_nil _).symm⟩

theorem State.Notifies.trans {s t u : State} (h : s.Notifies t) (g : t.Notifies u) : s.Notifies u := by
  obtain ⟨l, hl⟩ := h.sent
  obtain ⟨m, hm⟩ := g.sent
  exact ⟨g.expiring.trans h.expiring, l ++ m, by rw [hm, hl, List.append_assoc]⟩

theorem async_notifies (s : State) (c : Nat) (d : Bytes) : s.Notifies (s.async c d) := by
  unfold State.async
  split
  · have hwrite := writeAsync_notifies ({ s with ev := { s.ev with asyncNext := (s.ev.asyncNext + 1) % 2 ^ 32 } }) ⟨c, s.ev.asyncNext, s.time, d⟩
    have hboth : s.Notifies _ := ⟨hwrite.expiring, hwrite.sent⟩
    dsimp only
    unfold State.deliverAsync
    split
    · exact hboth
    · exact hboth.trans (sendEvent_notifies _ _)
  · exact ⟨rfl, [], (List.append_nil _).symm⟩

theorem deliverFlag_notifies (s : State) : s.Notifies s.deliverFlag := by
  unfold State.deliverFlag
  split
  · dsimp only
    split
    · exact ⟨(async_notifies _ 6 _).expiring, (async_notifies _ 6 _).sent⟩
    · exact ⟨rfl, [], (List.append_nil _).symm⟩
  · exact ⟨rfl, [], (List.append_nil _).symm⟩

theorem deliverFlag_none {s : State} (h : s.bt.flagDue = false) : s.deliverFlag = s := if_neg (by rw [h]; decide)

theorem exec_select {s : State} {h : FrameHdr} {p : Bytes} (ht : s.takes h 1 2 false (p.length == 64) = true) :
    exec (.select h p) s = .next (if (s.heard h 1).selectReason h.port p = 0 then (s.heard h 1).selectAccepted h p
      else (s.heard h 1).sendFrame
        { port := h.port, version := (s.heard h 1).txVersion, type := 4, chan := 1, context := 0, queue := h.queue, seq := h.seq,
          tag := h.tag, payload := natLe 1 ((s.heard h 1).selectReason h.port p) ++ natLe 15 0 }) :=
  congrArg Host.Outcome.next (withFrame_takes ht)

/-- The state once an accepted SELECT has made its lease on `s`; queues are free of their ports where no lease was live. -/
def State.selectMade (s : State) (h : FrameHdr) (p : Bytes) (wasLive : Bool) : State :=
  let l := s.stampLease (selectLease p)
  let t := ({ s with dp := { s.dp with lease := some l, last := some l, expiring := false } }).modDsp h.port fun d => { d with selected := true }
  if wasLive then t else { t with sv := { t.sv with queues := t.sv.queues.map fun (q : Queue) => { q with ownPort := none } } }

/-- The READY that answers it. -/
def State.readyFrame (s : State) (h : FrameHdr) (p : Bytes) (wasLive : Bool) : TxFrame :=
  { port := h.port, version := (s.stampLease (selectLease p)).version, type := 3, chan := 1, context := 0, queue := h.queue, seq := h.seq,
    tag := h.tag, payload := (s.selectMade h p wasLive).readyPayload h.port (s.stampLease (selectLease p)) }

/-- The state once READY has been sent. -/
def State.selectReady (s : State) (h : FrameHdr) (p : Bytes) (wasLive : Bool) : State :=
  (s.selectMade h p wasLive).wakeReattach.sendFrame (s.readyFrame h p wasLive)

/-- What follows the READY sent on `t` where no lease was live: the orphans' fate, the retained completions, and the events. -/
def State.selectSettled (s t : State) (p : Bytes) : State :=
  let u := { t with dp := { t.dp with orphans := false } }
  let v := if t.dp.orphans ∧ fld p 2 1 = 1 then u.discardAll else u
  ((v.adopt (s.windowMode != u.windowMode || s.tuiven1 != u.tuiven1)).deliverEnd t.retainedCount).deliverFlag

/-- The state on which a SELECT makes its lease: one that is no more live is ended first. -/
def State.lapsed (s : State) : State := if !s.leaseLive && s.dp.lease.isSome then s.endLease 0 else s

theorem selectAccepted_eq (s : State) (h : FrameHdr) (p : Bytes) : s.selectAccepted h p =
    if s.leaseLive then (s.lapsed.selectReady h p s.leaseLive).deliverFlag
    else s.lapsed.selectSettled (s.lapsed.selectReady h p s.leaseLive) p := by
  unfold State.selectAccepted
  rfl

theorem selectAccepted_live {s : State} {h : FrameHdr} {p : Bytes} (hlive : s.leaseLive = true) :
    s.selectAccepted h p = (s.selectReady h p true).deliverFlag := by
  have hlapsed : s.lapsed = s := by unfold State.lapsed; rw [hlive]; rfl
  rw [selectAccepted_eq, hlive, if_pos rfl, hlapsed]

theorem selectAccepted_dead {s : State} {h : FrameHdr} {p : Bytes} (hdead : s.leaseLive = false) :
    s.selectAccepted h p = s.lapsed.selectSettled (s.lapsed.selectReady h p false) p := by
  rw [selectAccepted_eq, hdead, if_neg Bool.false_ne_true]

theorem selectSettled_lease (s t : State) (p : Bytes) : (s.selectSettled t p).dp.lease = t.dp.lease := by
  unfold State.selectSettled
  dsimp only
  rw [deliverFlag_lease, deliverEnd_lease, adopt_lease]
  split
  · rw [discardAll_lease]
  · rfl

section Made

variable (s : State) (h : FrameHdr) (p : Bytes) (wasLive : Bool)

theorem selectMade_dp : (s.selectMade h p wasLive).dp.lease = some (s.stampLease (selectLease p)) ∧ (s.selectMade h p wasLive).dp.expiring = false ∧
    (s.selectMade h p wasLive).dp.tx = s.dp.tx ∧ (s.selectMade h p wasLive).bt = s.bt := by
  cases wasLive <;> exact ⟨rfl, rfl, rfl, rfl⟩

/-- READY is one more frame sent, under the lease that the SELECT makes. -/
theorem selectReady_dp : (s.selectReady h p wasLive).dp.lease = some (s.stampLease (selectLease p)) ∧
    (s.selectReady h p wasLive).dp.expiring = false ∧ (s.selectReady h p wasLive).dp.tx = s.dp.tx ++ [s.readyFrame h p wasLive] ∧
    (s.selectReady h p wasLive).bt = s.bt := by
  obtain ⟨hlease, hexpiring, htx, hbt⟩ := selectMade_dp s h p wasLive
  obtain ⟨ps, hsent⟩ := sendFrame_eq (s.selectMade h p wasLive).wakeReattach (s.readyFrame h p wasLive)
  have hwoken := (State.wakeReattach_only (K := 66) (Only.refl (s.selectMade h p wasLive)) (Needs.refl _)) .boot rfl
  unfold State.selectReady
  rw [hsent, wakeReattach_dp]
  exact ⟨hlease, hexpiring, congrArg (· ++ _) htx, hwoken.trans hbt⟩

end Made

/-- The lease that a SELECT makes stands through all that follows it. -/
theorem selectAccepted_lease (s : State) (h : FrameHdr) (p : Bytes) :
    ∃ v : State, (s.selectAccepted h p).dp.lease = some (v.stampLease (selectLease p)) := by
  cases hlive : s.leaseLive with
  | true => exact ⟨s, by rw [selectAccepted_live hlive, deliverFlag_lease, (selectReady_dp s h p true).1]⟩
  | false => exact ⟨s.lapsed, by rw [selectAccepted_dead hlive, selectSettled_lease, (selectReady_dp s.lapsed h p false).1]⟩

theorem stampLease_eq (s : State) (l : Lease) :
    s.stampLease l = { l with stamp := if s.tm.valid then s.tm.counter else s.tm.tick, onCounter := s.tm.valid } := by
  unfold State.stampLease
  cases s.tm.valid <;> rfl

/-- What a stamp leaves of a lease. -/
theorem stampLease_terms (s : State) (l : Lease) : (s.stampLease l).host = l.host ∧ (s.stampLease l).version = l.version ∧
    (s.stampLease l).mode = l.mode ∧ (s.stampLease l).features = l.features ∧ (s.stampLease l).suspended = l.suspended := by
  rw [stampLease_eq]
  exact ⟨rfl, rfl, rfl, rfl, rfl⟩

/-- Under a live lease only the event of a flag may follow READY. -/
theorem selectAccepted_answers {s : State} {h : FrameHdr} {p : Bytes} (hlive : s.leaseLive = true) :
    (s.selectAccepted h p).dp.expiring = false ∧ ∃ f rest, (s.selectAccepted h p).dp.tx = s.dp.tx ++ f :: rest ∧ f.type = 3 ∧ f.port = h.port ∧
      f.seq = h.seq ∧ (s.bt.flagDue = false → rest = []) := by
  obtain ⟨-, hexpiring, htx, hbt⟩ := selectReady_dp s h p true
  rw [selectAccepted_live hlive]
  cases hflag : s.bt.flagDue with
  | false =>
    rw [deliverFlag_none (by rw [hbt, hflag])]
    exact ⟨hexpiring, _, [], htx, rfl, rfl, rfl, fun _ => rfl⟩
  | true =>
    obtain ⟨hkept, rest, hrest⟩ := deliverFlag_notifies (s.selectReady h p true)
    exact ⟨hkept.trans hexpiring, _, rest, by rw [hrest, htx, List.append_assoc]; rfl, rfl, rfl, rfl, nofun⟩

/-! ### HEARTBEAT (11 R395, R396) -/

theorem exec_heartbeat {s : State} {h : FrameHdr} {p : Bytes} (ht : s.takes h 1 14 true (p.length == 16) = true) :
    exec (.heartbeat h p) s = .next ((s.heard h 1).heartbeat h p) := congrArg Host.Outcome.next (withFrame_takes ht)

theorem heartbeat_other {u : State} {h : FrameHdr} {p : Bytes} {l : Lease} (hl : u.dp.lease = some l) (hother : fld p 0 8 ≠ l.host) :
    u.heartbeat h p = u.respond h 1 5 := by
  unfold State.heartbeat
  rw [hl]
  exact if_pos hother

theorem heartbeat_holder {u : State} {h : FrameHdr} {p : Bytes} {l : Lease} (hl : u.dp.lease = some l) (hholder : fld p 0 8 = l.host) :
    ∃ f, (u.heartbeat h p).dp.lease = some (u.stampLease l) ∧ (u.heartbeat h p).dp.tx = u.dp.tx ++ [f] ∧ f.type = 14 ∧ f.port = h.port ∧
      f.payload = natLe 8 (u.stampLease l).stamp ++ natLe 8 ((u.stampLease l).stamp + leaseTicks) := by
  unfold State.heartbeat
  rw [hl]
  dsimp only
  rw [if_neg (not_not.2 hholder)]
  exact ⟨_, rfl, rfl, rfl, rfl, rfl⟩

/-! ### The end of a lease (11 R397, 12 R408) -/

theorem endLease_none (s : State) (released : Nat) : (s.endLease released).dp.lease = none := by
  unfold State.endLease
  split
  · assumption
  · dsimp only
    rw [deliverAll_lease]
    split
    · rw [writeAsync_dp]
    · rfl

theorem endLease_tm (s : State) (released : Nat) : (s.endLease released).tm = s.tm :=
  (State.endLease_only (K := 3600) (Only.refl s) (Needs.refl _)) .clocks rfl

theorem releaseAll_none (s : State) : s.releaseAll.dp.lease = none := by
  unfold State.releaseAll
  dsimp only
  split
  · rfl
  · split
    · rw [(State.enterP1_only (Only.refl _) (Needs.refl _)) .dispatch rfl]
    · split <;> rfl

/-- A lease past its window is not live. -/
theorem leaseLive_past {s : State} {l : Lease} (hl : s.dp.lease = some l) (hruns : l.suspended = false)
    (hpast : l.stamp + leaseTicks ≤ if l.onCounter then s.tm.counter else s.tm.tick) : s.leaseLive = false := by
  unfold State.leaseLive
  rw [hl]
  dsimp only
  rw [hruns, Bool.false_or]
  split
  · rw [if_pos ‹_›] at hpast
    simp [Nat.not_lt.2 hpast]
  · rw [if_neg ‹_›] at hpast
    simp [Nat.not_lt.2 hpast]

/-- LEASE_EXPIRY ends the lease at the end of its window, on the clock that stamped it. -/
theorem exec_leaseExpiry {s : State} {l : Lease} {m : Clocks} (hl : s.dp.lease = some l) (hruns : l.suspended = false) (hfirm : s.firmwareRuns = true)
    (hclock : (if l.onCounter then s.counterTo (l.stamp + leaseTicks) else s.advanceTo (l.stamp + leaseTicks)) = { s with tm := m })
    (hpast : l.stamp + leaseTicks ≤ if l.onCounter then m.counter else m.tick) :
    exec .leaseExpiry s = .next (({ s with tm := m } : State).endLease 0) := by
  change execLeaseExpiry s = _
  unfold execLeaseExpiry
  rw [hl]
  dsimp only
  rw [if_neg (by simp [hruns, hfirm]), hclock, leaseLive_past (s := { s with tm := m }) hl hruns hpast]
  rfl

/-! ### The clauses of the statement -/

/-- Settles O39, by the reason of a SELECT, the host of a HEARTBEAT, the clock of the lease and the argument of RELEASE_LEASE. -/
theorem theLeaseIsMadeRenewedAndEnded : Obligations.TheLeaseIsMadeRenewedAndEnded := by
  unfold Obligations.TheLeaseIsMadeRenewedAndEnded
  refine ⟨fun s h p ht => ⟨fun hreason => ?rejected, fun hreason => ?accepted⟩,
    fun s h p l ht hl => ⟨fun hother => ?other, fun hholder => ?holder⟩,
    fun s l hl hruns hfirm => ⟨fun htick => ?byTick, fun hcounter hvalid => ?byCounter⟩,
    fun s c hready => ⟨fun hkeep => ?keep, fun hdiscard => ?discard⟩⟩
  case rejected => exact ⟨_, _, (exec_select ht).trans (congrArg _ (if_neg hreason)), rfl, rfl, rfl, rfl, rfl⟩
  case accepted =>
    obtain ⟨v, hlease⟩ := selectAccepted_lease (s.heard h 1) h p
    obtain ⟨hhost, hversion, hmode, hfeatures, hsuspended⟩ := stampLease_terms v (selectLease p)
    refine ⟨_, _, (exec_select ht).trans (congrArg _ (if_pos hreason)), hlease, hhost, hversion, hmode, hfeatures, hsuspended, fun hlive => ?_⟩
    exact selectAccepted_answers hlive
  case other => exact ⟨_, (exec_heartbeat ht).trans (congrArg _ (heartbeat_other hl hother)), respond_answered _ _ _ _, hl⟩
  case holder =>
    obtain ⟨f, hlease, hsent, htype, hport, hpayload⟩ := heartbeat_holder (h := h) hl hholder
    rw [stampLease_eq] at hlease hpayload
    exact ⟨_, f, exec_heartbeat ht, hlease, hsent, htype, hport, hpayload⟩
  case byTick =>
    obtain ⟨m, hm, hat⟩ := advanceTo_spec s (l.stamp + leaseTicks)
    have hpast : l.stamp + leaseTicks ≤ m.tick := by rw [hat]; exact le_max_right _ _
    refine ⟨_, exec_leaseExpiry (m := m) hl hruns hfirm ?_ ?_, endLease_none _ 0, ?_⟩
    · rw [htick, if_neg Bool.false_ne_true, hm]
    · rw [htick, if_neg Bool.false_ne_true]
      exact hpast
    · rw [endLease_tm]
      exact hat
  case byCounter =>
    obtain ⟨m, hm, hat, -⟩ := counterTo_spec s (l.stamp + leaseTicks) hvalid
    have hpast : l.stamp + leaseTicks ≤ m.counter := by rw [hat]; exact le_max_right _ _
    refine ⟨_, exec_leaseExpiry (m := m) hl hruns hfirm ?_ ?_, endLease_none _ 0, ?_⟩
    · rw [hcounter, if_pos rfl, hm]
    · rw [hcounter, if_pos rfl]
      exact hpast
    · rw [endLease_tm]
      exact hat
  case keep =>
    obtain ⟨t, hexec, hdone⟩ := command_posts hready rfl
    exact ⟨t, congrArg _ (hexec.trans (if_pos hkeep)), hdone, endLease_none t 1⟩
  case discard =>
    obtain ⟨t, hexec, hdone⟩ := command_posts hready rfl
    exact ⟨t, congrArg _ (hexec.trans (if_neg (by omega))), hdone, releaseAll_none t⟩

end Sys2Proof.Machine
end

section
/-! PROOFS. O42: level 2 as the host registers it, its data and its silence, and an intake queue that is not read (11 R379, R394, 10 R549). -/

set_option Elab.async false

namespace Sys2Proof.Machine

/-! ### L2REG (11 R394, log entry 29) -/

theorem exec_l2reg {s : State} {h : FrameHdr} {p : Bytes} (ht : s.takes h 0 19 true (p.length == 16) = true) :
    exec (.l2reg h p) s = .next (if fld p 0 8 % 65536 ≠ 0 ∨ 2 ^ 40 < fld p 0 8 then (s.heard h 0).respond h 0 10
      else if fld p 0 8 = 0 then (s.heard h 0).withdrawL2.respond h 0 0
      else ({ s.heard h 0 with dp := { (s.heard h 0).dp with l2Size := some (fld p 0 8) } } : State).respond h 0 0) :=
  congrArg Host.Outcome.next (withFrame_takes ht)

theorem withdrawL2_l2Size (s : State) : s.withdrawL2.dp.l2Size = none := by
  unfold State.withdrawL2
  dsimp only
  rw [sweep_dp]

/-! ### L2DATA (11 R394) -/

theorem exec_l2data {s : State} {h : FrameHdr} {p : Bytes} (ht : s.takes h 0 22 true (8 ≤ p.length) = true) : exec (.l2data h p) s =
    .next ((s.heard h 0).kv.held.foldl (fun a x => a.l2arrive (fld p 0 8) (p.drop 8) x) (s.heard h 0)) := by
  change execL2data h p s = _
  unfold execL2data
  rw [cutThrough_of_crcOk (takes_crc ht), withFrame_takes ht]

/-- Data arrives for the entries being fetched alone. -/
theorem foldl_l2arrive (off : Nat) (data : Bytes) (l : List Held) (s : State) : l.foldl (fun a x => a.l2arrive off data x) s =
    (l.filter fun x => x.phase == .fetching).foldl (fun a x => a.l2arrive off data x) s := by
  rw [List.foldl_filter]
  congr 1
  funext a x
  unfold State.l2arrive
  cases hphase : x.phase == .fetching with
  | true => rfl
  | false => exact if_pos (by rw [bne, hphase]; rfl)

theorem take2_size (g : HeldPage) (size off : Nat) (data : Bytes) : (g.take2 size off data).size = g.size := by
  unfold HeldPage.take2
  split
  · rfl
  · split <;> rfl

/-- The pages of a held entry with level-2 data taken in. -/
def Held.taken (x : Held) (off : Nat) (data : Bytes) : List HeldPage := x.pages.map fun g => g.take2 g.size off data

/-- The pages taken in are whole where each has the bytes of its size back. -/
theorem taken_whole (x : Held) (off : Nat) (data : Bytes) : ((x.taken off data).all fun g => g.back.length == g.size) = true ↔
    ∀ g ∈ x.pages, (g.take2 g.size off data).back.length = g.size := by
  unfold Held.taken
  simp only [List.all_map, List.all_eq_true, Function.comp, take2_size, beq_iff_eq]

section Arrive

variable {u : State} {x : Held} (off : Nat) (data : Bytes) (hx : u.heldOf x.slot = some x) (hphase : x.phase = .fetching)

include hx hphase

theorem l2arrive_part (hpart : ∃ g ∈ x.pages, (g.take2 g.size off data).back.length ≠ g.size) :
    (u.l2arrive off data x).heldOf x.slot = some { x with pages := x.taken off data } := by
  have hnot : ¬ ((x.taken off data).all fun g => g.back.length == g.size) = true := by
    rw [taken_whole]
    push Not
    exact hpart
  unfold State.l2arrive
  rw [if_neg (by rw [hphase]; decide)]
  dsimp only
  refine (congrArg (fun v : State => v.heldOf x.slot) (if_neg hnot)).trans ?_
  rw [heldOf_modHeld, hx, Option.map_some, if_pos rfl]
  rfl

theorem l2arrive_whole (hwhole : ∀ g ∈ x.pages, (g.take2 g.size off data).back.length = g.size) :
    ∃ y, (u.l2arrive off data x).heldOf x.slot = some y ∧ y.phase = .restoring := by
  unfold State.l2arrive
  rw [if_neg (by rw [hphase]; decide)]
  have hall : ((x.pages.map fun g => g.take2 g.size off data).all fun g => g.back.length == g.size) = true := (taken_whole x off data).2 hwhole
  dsimp only
  rw [if_pos hall, heldOf_modHeld, heldOf_modHeld, hx, Option.map_some, Option.map_some, if_pos rfl]
  exact ⟨_, rfl, rfl⟩

end Arrive

theorem l2arrive_dp (u : State) (off : Nat) (data : Bytes) (x : Held) : (u.l2arrive off data x).dp = u.dp := by
  unfold State.l2arrive
  split
  · rfl
  · dsimp only
    split <;> rfl

/-! ### A fetch that is not answered (11 R394, 09 R301) -/

theorem exec_l2getTimeout {s : State} {slot : Nat} {x : Held} (hrun : s.firmwareRuns = true) (hx : s.heldOf slot = some x)
    (hphase : x.phase = .fetching) : exec (.l2getTimeout slot) s = .next (s.fetchFails slot).sweep := by
  change execL2getTimeout slot s = _
  unfold execL2getTimeout
  rw [hx]
  exact if_neg (by rw [hphase, hrun]; decide)

theorem fetchFails_idle {s : State} {slot : Nat} (hnone : s.restoreWaiter slot = none) : s.fetchFails slot = s.releaseEarly slot := by
  unfold State.fetchFails
  rw [hnone]

theorem fetchFails_waited {s : State} {slot : Nat} {e : Nat × Nat} (he : s.restoreWaiter slot = some e) :
    s.fetchFails slot = (s.closeEntry e.1 e.2 17 0).releaseEarly slot := by
  unfold State.fetchFails
  rw [he]

/-! ### An intake queue that is not read (11 R379, 10 R549) -/

section Stale

variable {s : State} {port chan : Nat} (hrun : s.hcoreRuns = true) (hport : port < 2) (hchan : chan < 2) (hwords : (s.intake port chan).words ≠ [])
  (hsilent : (s.intake port chan).signalled = false)

include hrun hport hchan hwords hsilent

theorem exec_intakeStaleTimeout_invalid (hinvalid : s.tm.valid = false) : exec (.intakeStaleTimeout port chan) s = .next s := by
  change execIntakeStaleTimeout port chan s = _
  unfold execIntakeStaleTimeout
  dsimp only
  rw [if_neg (by simp [hrun, hport, hchan, hwords, hsilent]), hinvalid, show (s.intake port chan).lastRead.filter (fun _ => false) = none by simp]

theorem exec_intakeStaleTimeout_due {n : Nat} (hvalid : s.tm.valid = true) (hread : (s.intake port chan).lastRead = some n) :
    exec (.intakeStaleTimeout port chan) s =
      .next ((s.counterTo (n + 25 * s.storedField 0x6000 16 14)).modIntake port chan fun q => { q with signalled := true }) := by
  change execIntakeStaleTimeout port chan s = _
  unfold execIntakeStaleTimeout
  dsimp only
  rw [if_neg (by simp [hrun, hport, hchan, hwords, hsilent]), hvalid, hread, show (some n).filter (fun _ => true) = some n from rfl]

end Stale

/-! ### The clauses of the statement -/

/-- Settles O42: L2REG by its size, L2DATA by whether every page is whole, a fetch by who waits for it, and a stale queue by the step counter. -/
theorem levelTwoAndIntakeFollowTheHost : Obligations.LevelTwoAndIntakeFollowTheHost := by
  unfold Obligations.LevelTwoAndIntakeFollowTheHost
  refine ⟨fun s h p ht => ⟨fun hbad => ?refused, fun hunit hmax hsome => ?registered, fun hzero => ?withdrawn⟩, fun s h p x ht hfetching hx => ?data,
    fun s slot x hrun hx hphase => ⟨fun hnone => ?idle, fun e he => ?waited⟩,
    fun s port chan n hrun hport hchan hwords hsilent => ⟨fun hinvalid => ?invalid, fun hvalid hread => ?due⟩⟩
  case refused => exact ⟨_, (exec_l2reg ht).trans (congrArg _ (if_pos hbad)), respond_answered _ _ _ _, rfl, rfl⟩
  case registered =>
    exact ⟨_, (exec_l2reg ht).trans (congrArg _ ((if_neg (by omega)).trans (if_neg hsome))), respond_answered _ _ _ _, rfl, rfl⟩
  case withdrawn =>
    exact ⟨_, (exec_l2reg ht).trans (congrArg _ ((if_neg (by omega)).trans (if_pos hzero))), respond_answered _ _ _ _,
      (State.respond_dp_l2Size _ _ _ _).trans (withdrawL2_l2Size _)⟩
  case data =>
    have hphase : x.phase = .fetching := by
      have hmem : x ∈ (s.heard h 0).kv.held.filter fun y => y.phase == .fetching := by rw [hfetching]; exact List.mem_singleton.2 rfl
      simpa using (List.mem_filter.1 hmem).2
    have hexec := exec_l2data ht
    rw [foldl_l2arrive, hfetching, List.foldl_cons, List.foldl_nil] at hexec
    by_cases hwhole : ∀ g ∈ x.pages, (g.take2 g.size (fld p 0 8) (p.drop 8)).back.length = g.size
    · obtain ⟨y, hy, hrestoring⟩ := l2arrive_whole _ _ hx hphase hwhole
      exact ⟨_, y, hexec, hy, l2arrive_dp _ _ _ _, fun ⟨g, hg, hpart⟩ => absurd (hwhole g hg) hpart, fun _ => hrestoring⟩
    · have hpart : ∃ g ∈ x.pages, (g.take2 g.size (fld p 0 8) (p.drop 8)).back.length ≠ g.size := by push Not at hwhole; exact hwhole
      exact ⟨_, _, hexec, l2arrive_part _ _ hx hphase hpart, l2arrive_dp _ _ _ _, fun _ => rfl, fun hall => absurd hall hwhole⟩
  case idle => rw [exec_l2getTimeout hrun hx hphase, fetchFails_idle hnone]
  case waited => rw [exec_l2getTimeout hrun hx hphase, fetchFails_waited he]
  case invalid => exact exec_intakeStaleTimeout_invalid hrun hport hchan hwords hsilent hinvalid
  case due =>
    have hexec := exec_intakeStaleTimeout_due hrun hport hchan hwords hsilent hvalid hread
    obtain ⟨m, hm, hat, -⟩ := counterTo_spec s (n + 25 * s.storedField 0x6000 16 14) hvalid
    rw [hm] at hexec
    exact ⟨_, hexec, hat, rfl⟩

end Sys2Proof.Machine
end

section
/-! PROOFS. O35: the training of a Dispatch port, its HELLOs, headers with a bad HCRC, and the heads of the emulated window (11 R356, R362, R365,
R389, R390). -/

set_option Elab.async false

namespace Sys2Proof.Machine

/-! ### Training (11 R356) -/

section Training

variable {s : State} {d : Nat} (hpower : s.linksPowered = true) (hport : d < 2) (hstate : (s.dsp d).state = .training)

include hpower hport hstate

theorem exec_dispatchTrainingDone {gen : Nat} (hgen : gen = s.dspGen d) : exec (.dispatchTrainingDone d gen) s = .next (s.modDsp d fun x =>
    { x with state := .up, gen := gen, link := x.link.fresh.flush (dispatchSender s.tm.tick) }) :=
  congrArg Host.Outcome.next (if_pos (by simp [hpower, hport, hstate, hgen]))

theorem exec_dispatchTrainingTimeout : exec (.dispatchTrainingTimeout d) s = .next (s.modDsp d fun x =>
    if s.dspGen d = 2 then { x with fallback := true } else { x with state := .failed }) :=
  congrArg Host.Outcome.next (if_pos (by simp [hpower, hport, hstate]))

end Training

/-- A port trains at Dispatch-2 but in compatibility mode or after a fall-back. -/
theorem dspGen_two {s : State} {d : Nat} (hcompat : s.bt.compat = false) (hfirst : (s.dsp d).fallback = false) : s.dspGen d = 2 := by
  unfold State.dspGen
  rw [hcompat, hfirst]
  rfl

theorem dspGen_one {s : State} {d : Nat} (h : s.bt.compat = true ∨ (s.dsp d).fallback = true) : s.dspGen d = 1 :=
  if_pos (by simpa using h)

/-! ### HELLO and headers (11 R362, R364) -/

/-- The HELLO that a port sends. -/
def State.helloFrame (s : State) (d : Nat) : TxFrame :=
  { port := d, version := 1, type := 1, chan := 1, context := 0, queue := 0, seq := 0, tag := 0, payload := s.helloPayload d }

theorem exec_helloTimer {s : State} {d : Nat} (hport : d < 2) (hup : (s.dsp d).state = .up) (hrun : s.firmwareRuns = true)
    (hseal : s.rg.sealed.noRef = false) (hfree : (s.dsp d).selected = false) :
    exec (.helloTimer d) s = .next (s.sendFrame (s.helloFrame d)) :=
  congrArg Host.Outcome.next (if_pos (by simp [hport, hup, hrun, hseal, hfree]))

theorem exec_headerCrcFailure {s : State} {d : Nat} (hears : s.portHears d = true) :
    exec (.headerCrcFailure d) s = .next ((s.frameArrives false).modDsp d fun x => { x with hdrErr := x.hdrErr + 1 }) :=
  congrArg Host.Outcome.next (if_pos hears)

/-! ### The emulated window (11 R389, R390) -/

theorem exec_evtHeadWrite {s : State} {v : Word} (hwin : s.emulates = true) :
    exec (.evtHeadWrite v) s = .next { s with ev := { s.ev with winHead := v.toNat } } := by
  have hexec : exec (.evtHeadWrite v) s = .next (s.writeEvtHead v.toNat) := congrArg Host.Outcome.next (if_pos hwin)
  rw [hexec, State.writeEvtHead, Nat.mod_eq_of_lt v.isLt]

theorem exec_compHeadWrite {s : State} {n : Nat} {q : Queue} {v : Word} (hwin : s.emulates = true) (hq : s.queue n = some q) :
    exec (.compHeadWrite n v) s = .next (if q.comp.tail - q.comp.head < ahead q.comp.head v.toNat then s
      else s.releaseCompletions n (ahead q.comp.head v.toNat)) := by
  have hexec : exec (.compHeadWrite n v) s = .next (s.writeCompHead n v.toNat) := congrArg Host.Outcome.next (if_pos hwin)
  rw [hexec, State.writeCompHead, hq]

/-! ### The clauses of the statement -/

/-- Settles O35: each row by the condition that it meets, the other port untouched. -/
theorem dispatchPortsTrainAndSayHello : Obligations.DispatchPortsTrainAndSayHello := by
  unfold Obligations.DispatchPortsTrainAndSayHello
  refine ⟨fun s d gen hpower hport hlisted hstate hgen => ?locked, fun s d hpower hport hlisted hstate => ?late,
    fun s d hport hup hrun hseal hfree => ⟨_, s.helloFrame d, exec_helloTimer hport hup hrun hseal hfree, rfl, rfl, rfl, rfl, rfl, rfl⟩,
    fun s d hlisted hears => ?header, fun s v hwin => exec_evtHeadWrite hwin, fun s n q v hwin hq => exec_compHeadWrite hwin hq⟩
  case locked =>
    refine ⟨_, exec_dispatchTrainingDone hpower hport hstate hgen, ?_, ?_, fun m hm => dsp_mod_ne s d m _ hm, rfl⟩
    · rw [dsp_mod s d _ hlisted]
    · rw [dsp_mod s d _ hlisted]
  case late =>
    refine ⟨_, exec_dispatchTrainingTimeout hpower hport hstate, fun m hm => dsp_mod_ne s d m _ hm, fun hcompat hfirst => ?_, fun hlast => ?_⟩
    · rw [dsp_mod s d _ hlisted, if_pos (dspGen_two hcompat hfirst)]
    · rw [dsp_mod s d _ hlisted, if_neg (by rw [dspGen_one hlast]; decide)]
  case header =>
    exact ⟨_, exec_headerCrcFailure hears, dsp_mod _ d _ hlisted, fun m hm => dsp_mod_ne _ d m _ hm, rfl⟩

end Sys2Proof.Machine
end

section
/-! PROOFS. O44: the commands for windows, queues and the event ring (12 R403-R406, Table 12.4, 11 R376, R383). Each command that is ready runs
its row of Table 12.4 on the state that has heard its frame; the lemmas here say which branch of the row runs, by command and outcome. -/

set_option Elab.async false

namespace Sys2Proof.Machine

/-! ### CREATE_WINDOW and DELETE_WINDOW (11 R376) -/

section CreateWindow

variable {u : State} {a : Bytes}

theorem createWindow_taken (h : ∃ x ∈ u.sv.windows, x.id = (newWindow a).id ∨ overlap x.base x.size (newWindow a).base (newWindow a).size = true) :
    cmdCreateWindow.run u a = u.fails 5 := if_pos (by simpa using h)

variable (hfree : ¬ ∃ x ∈ u.sv.windows, x.id = (newWindow a).id ∨ overlap x.base x.size (newWindow a).base (newWindow a).size = true)

include hfree

theorem createWindow_over (h : 2 ^ 36 < sumList (u.sv.windows.map Window.size) + (newWindow a).size ∨
    u.stackFree ((newWindow a).id % 16) < (newWindow a).size) : cmdCreateWindow.run u a = u.fails 6 :=
  (if_neg (by simpa using hfree)).trans (if_pos (by simpa using h))

theorem createWindow_done (h : ¬ (2 ^ 36 < sumList (u.sv.windows.map Window.size) + (newWindow a).size ∨
    u.stackFree ((newWindow a).id % 16) < (newWindow a).size)) : cmdCreateWindow.run u a = (u.addWindow (newWindow a)).done :=
  (if_neg (by simpa using hfree)).trans (if_neg (by simpa using h))

end CreateWindow

theorem deleteWindow_missing {u : State} {a : Bytes} (hnone : u.sv.windows.find? (fun w => w.id == fld a 0 2) = none) :
    cmdDeleteWindow.run u a = u.fails 5 := by
  unfold cmdDeleteWindow
  dsimp only
  rw [hnone]

theorem deleteWindow_found {u : State} {a : Bytes} {w : Window} (hw : u.sv.windows.find? (fun w => w.id == fld a 0 2) = some w) :
    cmdDeleteWindow.run u a = if u.windowBusy w then u.fails 5
      else State.done { u with sv := { u.sv with windows := u.sv.windows.filter fun x => x.id != w.id, mem := memClear u.sv.mem w.base w.size } } := by
  unfold cmdDeleteWindow
  dsimp only
  rw [hw]

/-! ### CREATE_QUEUE and DELETE_QUEUE (08 R238, 11 R383) -/

section CreateQueue

variable {u : State} {a : Bytes}

theorem createQueue_taken (h : (u.queue (newQueue a).id).isSome = true) : cmdCreateQueue.run u a = u.fails 5 := if_pos (by simp [h])

theorem createQueue_orphan (h : u.context (newQueue a).ctx = none) : cmdCreateQueue.run u a = u.fails 5 := if_pos (by simp [h])

variable {x : Context} (hnew : u.queue (newQueue a).id = none) (hctx : u.context (newQueue a).ctx = some x) (hstands : x.discarding = false)

include hnew hctx hstands

/-- A queue whose number is free in a context that stands is added, in register-window mode. -/
theorem createQueue_window (hwin : u.windowMode = true) :
    cmdCreateQueue.run u a = State.done { u with sv := { u.sv with queues := u.sv.queues ++ [newQueue a] } } :=
  (if_neg (by simp [hnew, hctx, hstands])).trans (if_neg (by simp [hwin]))

/-- In ring mode it is added where its rings meet neither each other nor a ring that stands. -/
theorem createQueue_rings (hring : u.windowMode = false)
    (hpair : overlap (newQueue a).sub.addr (u.ringBytes (newQueue a).sub.k) (newQueue a).comp.addr (u.ringBytes (newQueue a).comp.k) = false)
    (hothers : ∀ r ∈ u.ringRanges, overlap (newQueue a).sub.addr (u.ringBytes (newQueue a).sub.k) r.1 r.2 = false ∧
      overlap (newQueue a).comp.addr (u.ringBytes (newQueue a).comp.k) r.1 r.2 = false) :
    cmdCreateQueue.run u a = State.done { u with sv := { u.sv with queues := u.sv.queues ++ [newQueue a] } } := by
  have hsub : (u.ringRanges.any fun r => overlap (newQueue a).sub.addr (u.ringBytes (newQueue a).sub.k) r.1 r.2) = false := by
    rw [List.any_eq_false]
    exact fun r hr => by rw [(hothers r hr).1]; decide
  have hcomp : (u.ringRanges.any fun r => overlap (newQueue a).comp.addr (u.ringBytes (newQueue a).comp.k) r.1 r.2) = false := by
    rw [List.any_eq_false]
    exact fun r hr => by rw [(hothers r hr).2]; decide
  exact (if_neg (by simp [hnew, hctx, hstands])).trans (if_neg (by rw [hring]; simp [hsub, hcomp, hpair]))

end CreateQueue

theorem deleteQueue_missing {u : State} {a : Bytes} (hnone : u.queue (fld a 0 2) = none) : cmdDeleteQueue.run u a = u.fails 5 := by
  unfold cmdDeleteQueue
  dsimp only
  rw [hnone]

theorem deleteQueue_found {u : State} {a : Bytes} {q : Queue} (hq : u.queue (fld a 0 2) = some q) :
    cmdDeleteQueue.run u a = if q.deleting then u.fails 5 else (u.deleteQueue q).done := by
  unfold cmdDeleteQueue
  dsimp only
  rw [hq]

/-! ### SET_EVENT_RING (11 R383) -/

/-- The state without its event ring. -/
def State.ringless (u : State) : State := { u with ev := { u.ev with ring := none } }

theorem setEventRing_meets {u : State} {a : Bytes} (h : ∃ x ∈ u.ringless.ringRanges, overlap (fld a 0 8) 65536 x.1 x.2 = true) :
    cmdSetEventRing.run u a = u.fails 5 := if_pos (List.any_eq_true.2 h)

theorem setEventRing_done {u : State} {a : Bytes} (h : ¬ ∃ x ∈ u.ringless.ringRanges, overlap (fld a 0 8) 65536 x.1 x.2 = true) :
    cmdSetEventRing.run u a = State.done { u with ev := { u.ev with ring := some (fld a 0 8), ringTail := 0 } } :=
  if_neg fun hany => h (List.any_eq_true.1 hany)

/-! ### The clauses of the statement -/

/-- Settles O44, command by command: each outcome by the branch of the command's row that runs, then by how a command completes. -/
theorem windowAndQueueCommandsComplete : Obligations.WindowAndQueueCommandsComplete := by
  unfold Obligations.WindowAndQueueCommandsComplete
  refine ⟨fun s c h => ⟨_, rfl, ite_intro (fun htaken => ?taken) fun hfree => ite_intro (fun hlarge => ?large) fun hfits => ?window⟩,
    fun s c h => ⟨_, rfl, fun hnone => ?windowMissing, fun w hw => ⟨fun hbusy => ?windowBusy, fun hidle => ?windowGone⟩⟩,
    fun s c h => ⟨_, rfl, fun htaken => ?queueTaken, fun hnone => ?queueOrphan, fun x hnew hctx hstands => ⟨fun hwin => ?queueWindow,
      fun hring hpair hothers => ?queueRings⟩⟩,
    fun s c h => ⟨_, rfl, fun hnone => ?queueMissing, fun q hq => ⟨fun hgoing => ?queueGoing, fun hstands => ?queueGone⟩⟩,
    fun s c h => ⟨_, rfl, ite_intro (fun hmeets => ?ringMeets) fun hclear => ?ring⟩⟩
  case taken => exact fails_at h (createWindow_taken htaken) (by decide)
  case large => exact fails_at h (createWindow_over hfree hlarge) (by decide)
  case window => exact done_at h (fun _ => rfl) (createWindow_done hfree hfits)
  case windowMissing => exact fails_at h (deleteWindow_missing hnone) (by decide)
  case windowBusy => exact fails_at h ((deleteWindow_found hw).trans (if_pos hbusy)) (by decide)
  case windowGone => exact done_at h (fun _ => rfl) ((deleteWindow_found hw).trans (if_neg (by rw [hidle]; decide)))
  case queueTaken => exact fails_at h (createQueue_taken htaken) (by decide)
  case queueOrphan => exact fails_at h (createQueue_orphan hnone) (by decide)
  case queueWindow => exact done_at h (fun _ => rfl) (createQueue_window hnew hctx hstands hwin)
  case queueRings => exact done_at h (fun _ => rfl) (createQueue_rings hnew hctx hstands hring hpair hothers)
  case queueMissing => exact fails_at h (deleteQueue_missing hnone) (by decide)
  case queueGoing => exact fails_at h ((deleteQueue_found hq).trans (if_pos hgoing)) (by decide)
  case queueGone => exact done_at h (fun _ => rfl) ((deleteQueue_found hq).trans (if_neg (by rw [hstands]; decide)))
  case ringMeets => exact fails_at h (setEventRing_meets hmeets) (by decide)
  case ring => exact done_at h (fun _ => rfl) (setEventRing_done hclear)

end Sys2Proof.Machine
end

section
/-! PROOFS. O1, O4, O5, O7: the front of the queue, the state after reset, soundness over every step, and an answer to every command
(13 R444, 11 R376, 95_what_each_step_holds.md). -/

set_option Elab.async false

namespace Sys2Proof.Machine

/-! ### The step (INDEX.md) -/

theorem step_of_front {s : State} {c : Instr} {q : List Instr} (h : s.pending = c :: q) : step s = exec c (s.rest q) := by
  unfold step; rw [h]

/-- Settles O1: the step at a state whose queue is known. -/
theorem stepTakesTheFrontCommand : Obligations.StepTakesTheFrontCommand := fun s c q => step_of_front (s := { s with pending := c :: q }) rfl

/-! ### Soundness (13 R444, 11 R376) -/

/-- Settles O4: memory and buffer are empty, and the first number is 1. -/
theorem resetIsSound : Obligations.ResetIsSound := by
  unfold Obligations.ResetIsSound
  exact ⟨Memory.wf_nil, by decide, ⟨by decide, by decide⟩, nofun⟩

/-- The tick of an idle step changes the clocks alone. -/
theorem idleTick_keeps (s : State) : Kept s (idleTick s) :=
  Kept.ifs (fun _ => Kept.next (Keeps.refl s)) fun _ => Kept.ifs (fun _ => Kept.fault _) fun _ => Kept.next ((Keeps.refl s).forward 1)

/-- The queue of waiting commands is no part of what makes a state sound. -/
theorem rest_sound {s : State} (h : s.Sound) (q : List Instr) : (s.rest q).Sound := by
  obtain ⟨hmemory, hheld, hnext, hretained⟩ := h
  exact ⟨hmemory, hheld, hnext, hretained⟩

/-- Settles O5: a step is an idle tick or a command, and both keep a sound state sound (`idleTick_keeps`, `exec_keeps`). -/
theorem everyStepKeepsTheStateSound : Obligations.EveryStepKeepsTheStateSound := by
  unfold Obligations.EveryStepKeepsTheStateSound
  intro s t hsound hstep
  cases hq : s.pending with
  | nil => exact (idleTick_keeps s t (step_of_idle hq ▸ hstep)).sound hsound
  | cons c q => exact (exec_keeps c (s.rest q) t (step_of_front hq ▸ hstep)).sound (rest_sound hsound q)

/-! ### Every command answers (log entry 4)

Most meanings are a next state outright; the others choose between next states by the state they meet. -/

/-- An outcome that is a next state. -/
def Answers (o : Host.Outcome State Fault Refusal) : Prop := ∃ t, o = .next t

theorem Answers.next (t : State) : Answers (.next t) := ⟨t, rfl⟩

theorem Answers.cond {c : Prop} {d : Decidable c} {a b : Host.Outcome State Fault Refusal} (ha : Answers a) (hb : Answers b) :
    Answers (@ite _ c d a b) := by
  split
  · exact ha
  · exact hb

/-- Every branch of a command's meaning is a next state. -/
theorem exec_answers (c : Instr) (s : State) : Answers (exec c s) := by
  cases c
  case dispatchTrainingDone | dispatchTrainingTimeout | advertTimer | detectTimeout | trainingDone | keepaliveTimer | laneLock
      | adapterContribution | contributionRecord | replayNotice | activationRecord | moduleDownNotice | jobAbortNotice | courierParcelFrame
      | courierFrameRoute | sealScan | registerWrite | sealOpen | sealCommit | traceNow | lbSelWrite | evrNewestWrite | dlCtlClear | dlCtlRestart
      | dlWinWrite | intakeCtlWrite | sadcStart | sadcStop | sadcGo | compHeadWrite | evtHeadWrite | sadcSettled | helloTimer | headerCrcFailure
      | select | heartbeat | step | doorbellSubmission | doorbellCompletion | write | read | parcelFrame | regwrite | regread | l2reg | l2data
      | dlreadStatus | dlreadRead | dlreadClear | dlreadRestart | reservedFrameType | reservedOpcode | createWindow | deleteWindow | createQueue
      | deleteQueue | setEventRing | createContext | changeContext | discardContext | setRegions | setServing | releaseLease | setFabric
      | setJobTable | releaseJob | resetPort | readPorts | loadTime | requestCalibration | readStorm | attest | readIdentity | updateBegin
      | updateData | updateCommit | resetModule | dump | loadModel | unloadModel | loadAdapter | unloadAdapter | i3cDynamicAddress
      | i3cPrivateRead | extest | extestPulse | extestTrain | samplePreload | clamp | highz | idcode | bypass | trstN | sensorSample | wakeN
      | wakeLight | laneEnergyWake | fabricWakeFrame | inFieldTestStart | arraysReady | watchdogWrite | firmwareCrash => exact Answers.next _
  case sortingRound | prefixMatchDone | heldPageWritten | pageExhaustionTimeout | heldExpiry | orphanSlotMove | parcelAcceptance
      | parcelIncompleteTimeout | recordBuilt | programStart | programRowEnd | programResume | programmingDeferred | programComplete
      | settlingDone | rewriteStart | directRewriteStart | verifyScanDue | verifyScanDone | driftOutOfService | redigest | interpolationCheck
      | calibrationRunStart | calibrationFitDone | calibrationAgeTimer | calibrationExpiry | traceTimer | traceDone | referenceUntraced
      | firstEverCalibration | flitReceive | flitResendTimeout | portDown | retrainDone | retrainTimeout | advertReceived | trainingTimeout
      | bridgeFlitTransfer | routeRecompute | listFetchDone | fireLatch | converterResult | postmarkComparison | fireAdd | outlierAdd
      | fallbackJobDone | spotComparisonDone | bankDrainDone | drainArrival | lineTimeout | attentionResult | activationHoldTimeout
      | jobWaitTimeout | letterboxSnapshotDone | sealOpenTimeout | sadcConversionDone | leaseExpiry | reorderTimeout | l2getTimeout
      | intakeStaleTimeout | timeExchangeStart | timeSync | timeDelayRequest | timeDelayResponse | alignmentLost | stepBoundary | setPowerState
      | compactionDone | stepCommit | stormHandling | stormRecheck | i3cPrivateWrite | throttleStepTimer | governorTick | railCurrentGuard
      | autoHold | powerEntryTimeout | eccScrub | inFieldTestDue | inFieldTestForced | inFieldTestDone | powerApplied | powerRemoved
      | powerFailStop | sysclkLoss | powerFailRecovery | resetN | watchdogExpiry | lockstepMismatch =>
    dsimp only [exec, execSortingRound, execPrefixMatchDone, execHeldPageWritten, execPageExhaustionTimeout, execHeldExpiry, execOrphanSlotMove
      , execParcelAcceptance, execParcelIncompleteTimeout, execRecordBuilt, execProgramStart, execProgramRowEnd, execProgramResume
      , execProgrammingDeferred, execProgramComplete, execSettlingDone, execRewriteStart, execDirectRewriteStart, execVerifyScanDue
      , execVerifyScanDone, execDriftOutOfService, execRedigest, execInterpolationCheck, execCalibrationRunStart, execCalibrationFitDone
      , execCalibrationAgeTimer, execCalibrationExpiry, execTraceTimer, execTraceDone, execReferenceUntraced, execFirstEverCalibration
      , execFlitReceive, execFlitResendTimeout, execPortDown, execRetrainDone, execRetrainTimeout, execAdvertReceived, execTrainingTimeout
      , execBridgeFlitTransfer, execRouteRecompute, execListFetchDone, execFireLatch, execConverterResult, execPostmarkComparison, execFireAdd
      , execOutlierAdd, execFallbackJobDone, execSpotComparisonDone, execBankDrainDone, execDrainArrival, execLineTimeout, execAttentionResult
      , execActivationHoldTimeout, execJobWaitTimeout, execLetterboxSnapshotDone, execSealOpenTimeout, execSadcConversionDone, execLeaseExpiry
      , execReorderTimeout, execL2getTimeout, execIntakeStaleTimeout, execTimeExchangeStart, execTimeSync, execTimeDelayRequest
      , execTimeDelayResponse, execAlignmentLost, execStepBoundary, execSetPowerState, execCompactionDone, execStepCommit, execStormHandling
      , execStormRecheck, execI3cPrivateWrite, execThrottleStepTimer, execGovernorTick, execRailCurrentGuard, execAutoHold, execPowerEntryTimeout
      , execEccScrub, execInFieldTestDue, execInFieldTestForced, execInFieldTestDone, execPowerApplied, execPowerRemoved, execPowerFailStop
      , execSysclkLoss, execPowerFailRecovery, execResetN, execWatchdogExpiry, execLockstepMismatch]
    with_reducible repeat' first
      | exact Answers.next _ | apply Answers.cond | split

/-- Settles O7, command by command. -/
theorem everyCommandAnswers : Obligations.EveryCommandAnswers := exec_answers

end Sys2Proof.Machine
end

section
/-! PROOFS. O17, O18, O19: power applied and removed, resets, stops, arrays ready, and the faults of the Ngaok cluster (12 R401, R402, R418, R427,
14 R474, 15 R488, R509, 16 R526, R536, R544). What the boot chain, a stop and a drain leave stands in Laws/Starting.lean. -/

set_option Elab.async false

namespace Sys2Proof.Machine

/-! ### Power applied and resets (12 R418, 16 R528, R537) -/

/-- The module as 48 V comes on, in reset with no strap sampled. -/
def State.applied (s : State) (vinMv : Nat) : State :=
  { s.beginReset false with
    tm := { (s.beginReset false).tm with boundFrom := (s.beginReset false).tm.tick }
    pw := { (s.beginReset false).pw with vinMv := vinMv }
    bt := { (s.beginReset false).bt.unstrapped with sysclk := true } }

theorem exec_powerApplied {s : State} {v : Nat} (hoff : s.pw.supplied = false) (hv : 38000 ≤ v) (rst c a0 a1 : Bool) :
    exec (.powerApplied v rst c a0 a1) s = .next (if rst then ((s.applied v).strapped c a0 a1).bootChain else s.applied v) := by
  change execPowerApplied v rst c a0 a1 s = _
  unfold execPowerApplied
  rw [if_neg (by simpa [hoff] using hv)]
  rfl

theorem exec_resetN {s : State} (hon : s.pw.supplied = true) (hstop : s.pw.stop = none) (c a0 a1 : Bool) :
    exec (.resetN c a0 a1) s = .next ((s.strapped c a0 a1).resetModule true) := by
  change execResetN c a0 a1 s = _
  unfold execResetN
  rw [hon, hstop]
  rfl

/-- The reset of a module whose input has come back after a power-fail stop, with SYSCLK running. -/
def State.recovered (s : State) : State := ({ s with bt := { s.bt with sysclk := true } }).beginReset false

theorem exec_powerFailRecovery {s : State} (hon : s.pw.supplied = true) (hstop : s.pw.stop = some .under) (hpin : s.bt.resetPin = true) :
    exec .powerFailRecovery s = .next s.recovered.bootChain := by
  change execPowerFailRecovery s = _
  unfold execPowerFailRecovery
  simp only [hstop, hon, Bool.not_true, Bool.false_eq_true, if_false]
  exact congrArg Host.Outcome.next (if_pos hpin)

/-- No pin is driven by the boundary register once RESET_N is high (16 R534). -/
theorem released_drive (t : Tap) : t.released.drive = .functional := by
  unfold Tap.released
  split
  · assumption
  · rfl

/-- The chain leaves the test access port alone. -/
theorem bootChain_tp (s : State) : s.bootChain.tp = s.tp := (State.bootChain_only (Only.refl s) (Needs.refl _)) .tap rfl

/-! ### Power removed (16 R542-R544) -/

/-- The module after the stop on the way down, where none has come. -/
def State.lastStop (s : State) : State :=
  if s.pw.stop.isSome || s.pw.state == .p4 then s else s.dropVoltage.2.failStop .under 0 0 s.dropVoltage.1

/-- The module without power: reset, its port and its I3C target too. -/
def State.unpowered (s : State) : State :=
  { s.beginReset false with
    pw := { (s.beginReset false).pw with supplied := false, vinMv := 0, iinMa := 0 }
    tp := Tap.reset
    i3 := { I3c.reset with out := (s.beginReset false).i3.out }
    bt := (s.beginReset false).bt.unstrapped }

theorem exec_powerRemoved {s : State} (hon : s.pw.supplied = true) : exec .powerRemoved s = .next s.lastStop.unpowered := by
  change execPowerRemoved s = _
  unfold execPowerRemoved
  rw [if_neg (by simp [hon])]
  rfl

/-- A stop leaves what flash holds of images, records and the drain log, and whether SYSCLK runs. -/
theorem failStop_bt (s : State) (c : StopCause) (k : Nat) (r : Int) (v : Nat) : let t := s.failStop c k r v
    t.bt.images = s.bt.images ∧ t.bt.records = s.bt.records ∧ t.bt.drainLog = s.bt.drainLog ∧ t.bt.sysclk = s.bt.sysclk := by
  unfold State.failStop
  dsimp only [State.loseVolatile, State.cutPrograms]
  exact ⟨rfl, rfl, rfl, rfl⟩

/-- A stop on the way down leaves what flash holds of images, records and the drain log. -/
theorem lastStop_flash (s : State) :
    s.lastStop.bt.images = s.bt.images ∧ s.lastStop.bt.records = s.bt.records ∧ s.lastStop.bt.drainLog = s.bt.drainLog := by
  unfold State.lastStop
  split
  · exact ⟨rfl, rfl, rfl⟩
  · obtain ⟨himages, hrecords, hlog, -⟩ := failStop_bt s.dropVoltage.2 .under 0 0 s.dropVoltage.1
    exact ⟨himages, hrecords, hlog⟩

/-! ### Arrays ready (16 R536, 12 R423) -/

/-- The boot control block once arrays are ready: a trial firmware has confirmed itself. -/
def State.readyControl (s : State) : BootControl :=
  if s.bt.trialBoot && s.bt.control.trial == s.bt.slot + 1 then s.bt.control.confirm s.bt.slot else s.bt.control

/-- The milestone marked, before any array binds. -/
def State.markReady (s : State) : State := { s with bt := { s.bt with arraysReady := true, control := s.readyControl } }

theorem exec_arraysReady {s : State} (h : s.arraysAre = true) : exec .arraysReady s = .next (s.toBind.foldl State.bindArray s.markReady) := by
  change execArraysReady s = _
  unfold execArraysReady
  exact congrArg Host.Outcome.next (if_neg (by simp [h]))

/-- A state that changes weights and tiles alone, part by part. -/
theorem Only.weightsTiles {s t : State} (h : Only 24576 s t) (hp : t.pending = s.pending) : t = { s with wt := t.wt, tl := t.tl } := by
  have hsv : t.sv = s.sv := h.sv rfl rfl
  obtain ⟨tm, pw, th, bt, ev, rg, adcs, tp, i3, dp, sv, kv, wt, tl, rd, cl, fb, draw, pending⟩ := t
  simp only [State.mk.injEq, true_and]
  exact ⟨h .clocks rfl, h .power rfl, h .thermal rfl, h .boot rfl, h .events rfl, h .registers rfl, h .surveyAdcs rfl, h .tap rfl, h .i3c rfl,
    h .dispatch rfl, hsv, h .pages rfl, h .reductions rfl, h .calibration rfl, h .fabric rfl, h .draws rfl, hp⟩

/-- Arrays bound one after the other change weights and tiles alone. -/
theorem foldl_bindArray (l : List ArrId) (s : State) :
    l.foldl State.bindArray s = { s with wt := (l.foldl State.bindArray s).wt, tl := (l.foldl State.bindArray s).tl } :=
  Only.weightsTiles (Only.foldl (Only.refl s) fun _ _ h => State.bindArray_only h (Needs.refl _))
    (Keeps.foldl (Keeps.refl s) fun _ _ h => State.bindArray_keeps h).pending

/-- Settles O17, source by source: what the command comes to, then what the boot chain makes of it (`bootChain_runs`). -/
theorem powerAndResetStartTheModule : Obligations.PowerAndResetStartTheModule := by
  unfold Obligations.PowerAndResetStartTheModule
  refine ⟨fun s v c a0 a1 r i hoff hv hboots => ?applied, fun s c a0 a1 r i hon hstop hboots => ?reset, fun s r i hon hstop hpin hboots => ?recovery,
    fun s hon => ?removed, fun s hready => ?ready⟩
  case applied =>
    obtain ⟨⟨l, hpw⟩, hsv, htm, hrun, hrecord, himage, hcompat, h0, h1, -⟩ := bootChain_runs ((s.applied v).strapped c a0 a1) r i hboots
    refine ⟨_, exec_powerApplied hoff hv true c a0 a1, ?_, ?_, hrun, hrecord, himage, ?_, hcompat, h0, h1, by rw [if_pos rfl, htm]; rfl, hsv⟩ <;>
      rw [if_pos rfl, hpw] <;> rfl
  case reset =>
    obtain ⟨-, hsv, htm, hrun, hrecord, himage, hcompat, h0, h1, -⟩ :=
      bootChain_runs ((s.strapped c a0 a1).beginReset true) r i (beginReset_boots (s := s.strapped c a0 a1) hboots)
    exact ⟨_, exec_resetN hon hstop c a0 a1, hrun, hrecord, himage, hcompat, h0, h1,
      (congrArg Tap.drive (bootChain_tp _)).trans (released_drive s.tp), by rw [State.resetModule, htm]; rfl, hsv⟩
  case recovery =>
    obtain ⟨⟨l, hpw⟩, -, -, hrun, hrecord, himage, -, -, -, hclk⟩ := bootChain_runs s.recovered r i hboots
    exact ⟨_, exec_powerFailRecovery hon hstop hpin, by rw [hpw]; rfl, hrun, hrecord, himage, hclk⟩
  case removed =>
    obtain ⟨himages, hrecords, hlog⟩ := lastStop_flash s
    exact ⟨_, exec_powerRemoved hon, rfl, rfl, rfl, rfl, himages, hrecords, hlog⟩
  case ready =>
    have hbinds := foldl_bindArray s.toBind s.markReady
    have hbt : (s.toBind.foldl State.bindArray s.markReady).bt = s.markReady.bt := by rw [hbinds]
    refine ⟨_, exec_arraysReady hready, by rw [hbt]; rfl, fun htrial hslot => ?confirms, fun htrial => ?stands, ?frame, ?binds⟩
    case confirms => rw [hbt]; exact if_pos (by simp [htrial, hslot])
    case stands => rw [hbt]; exact if_neg (by simp [htrial])
    case frame => rw [hbt]; exact hbinds
    case binds => rw [hbt]; rfl

/-! ### Stops (15 R488, R509, 16 R526) -/

theorem exec_powerFailStop {s : State} (hon : s.pw.supplied = true) (hstop : s.pw.stop = none) (above : Bool) (v : Nat) :
    exec (.powerFailStop above v) s = .next (if above then (if 61000 < v then s.failStop .overvolt 0 0 v else s)
      else if v < 38000 then s.failStop .under 0 0 v else s) := by
  change execPowerFailStop above v s = _
  unfold execPowerFailStop
  exact if_neg (by simp [hon, hstop])

theorem exec_sysclkLoss {s : State} (hon : s.pw.supplied = true) (hstop : s.pw.stop = none) :
    exec .sysclkLoss s = .next (({ s with bt := { s.bt with sysclk := false } }).failStop .sysclk 0 0 s.pw.vinMv) := by
  change execSysclkLoss s = _
  unfold execSysclkLoss
  exact if_neg (by simp [hon, hstop])

/-- What every stop leaves: the cause and the input, no counter, and nothing of HBM and the volatile store. -/
theorem failStop_leaves (s : State) (c : StopCause) (k : Nat) (r : Int) (v : Nat) : let t := s.failStop c k r v
    t.pw.stop = some c ∧ t.pw.vinMv = v ∧ t.pw.supplied = s.pw.supplied ∧ t.tm.valid = false ∧
      t.sv = Serving.reset ∧ t.kv = Kv.reset ∧ t.wt.masters = [] ∧ t.bt.hbmReady = false :=
  ⟨rfl, rfl, rfl, rfl, rfl, rfl, rfl, rfl⟩

/-- Settles O18: three causes of one stop. -/
theorem stopLeavesTheIslandAlone : Obligations.StopLeavesTheIslandAlone := by
  unfold Obligations.StopLeavesTheIslandAlone
  refine ⟨fun s v hon hstop hv => ?under, fun s v hon hstop hv => ?overvolt, fun s hon hstop => ?sysclk⟩
  case under =>
    obtain ⟨hcause, hvin, hsupplied, hleft⟩ := failStop_leaves s .under 0 0 v
    exact ⟨_, (exec_powerFailStop hon hstop false v).trans (congrArg _ (if_pos hv)), hcause, hvin, hsupplied.trans hon,
      failStop_last s .under 0 0 v, hleft⟩
  case overvolt =>
    obtain ⟨hcause, hvin, hsupplied, hleft⟩ := failStop_leaves s .overvolt 0 0 v
    exact ⟨_, (exec_powerFailStop hon hstop true v).trans (congrArg _ (if_pos hv)), hcause, hvin, hsupplied.trans hon,
      failStop_last s .overvolt 0 0 v, hleft⟩
  case sysclk =>
    obtain ⟨hcause, -, hsupplied, hleft⟩ := failStop_leaves { s with bt := { s.bt with sysclk := false } } .sysclk 0 0 s.pw.vinMv
    obtain ⟨-, -, -, hclk⟩ := failStop_bt { s with bt := { s.bt with sysclk := false } } .sysclk 0 0 s.pw.vinMv
    exact ⟨_, exec_sysclkLoss hon hstop, hcause, hclk, hsupplied.trans hon,
      failStop_last { s with bt := { s.bt with sysclk := false } } .sysclk 0 0 s.pw.vinMv, hleft⟩

end Sys2Proof.Machine
end

section
/-! PROOFS. O19: the faults of the Ngaok cluster: watchdog, crash and lockstep mismatch (12 R401, R402, R427, 14 R474, R476, R477). -/

set_option Elab.async false

namespace Sys2Proof.Machine

/-- A dump goes into the slot that 12 R427 chooses, unread, with its cause and core; the rest of the boot block that a drain speaks of stands. -/
theorem writeDump_spec (s : State) (cause core : Nat) (sections : List Nat) : let t := s.writeDump cause core sections
    (∃ d, t.bt.dumps = modAt s.bt.dumps s.dumpSlot (fun _ => some d) ∧ d.cause = cause ∧ d.core = core ∧ d.unread = true) ∧
      t.bt.run = s.bt.run ∧ t.bt.halted = s.bt.halted ∧ t.bt.drained = s.bt.drained ∧ t.bt.drainLog = s.bt.drainLog :=
  ⟨⟨_, rfl, rfl, rfl, rfl⟩, rfl, rfl, rfl, rfl⟩

/-- A dump and the drain after it: the dump in its slot, the cause, the entry of the drain log, P1 Hold. -/
theorem dump_drain_spec {s : State} (h : s.isDrained = false) (cause core : Nat) (sections : List Nat) (why code source loc : Nat) :
    ∃ t d e, (s.writeDump cause core sections).drain why code source loc = t ∧ t.bt.run = s.bt.run ∧ t.bt.halted = s.bt.halted ∧
      t.bt.drained = some why ∧ t.bt.drainLog = rotate 1024 (s.bt.drainLog ++ [e]) ∧ e.cause = why ∧ e.code = code ∧ t.holdsP1 .drained ∧
      t.bt.dumps = modAt s.bt.dumps s.dumpSlot (fun _ => some d) ∧ d.cause = cause ∧ d.core = core ∧ d.unread = true := by
  obtain ⟨⟨d, hdumps, hdump⟩, hrun, hhalted, hdrained, hlog⟩ := writeDump_spec s cause core sections
  obtain ⟨e, hbt, hcause, hcode, -, -, -, hholds⟩ := drain_spec (s.writeDump cause core sections) why code source loc
    (by unfold State.isDrained at h ⊢; rw [hdrained]; exact h)
  exact ⟨_, d, e, rfl, by rw [hbt, hrun], by rw [hbt, hhalted], by rw [hbt], by rw [hbt, hlog], hcause, hcode, hholds, by rw [hbt, hdumps], hdump⟩

/-- A crash: the cores halt, a dump of every section is written, and the module drains with cause 8 (12 R402). -/
theorem crash_spec {s : State} (h : s.isDrained = false) (cause core code : Nat) :
    ∃ t d e, s.crash cause core code = t ∧ t.bt.run = .halted ∧ t.bt.halted = true ∧
      t.bt.drained = some 8 ∧ t.bt.drainLog = rotate 1024 (s.bt.drainLog ++ [e]) ∧ e.cause = 8 ∧ e.code = code ∧ t.holdsP1 .drained ∧
      t.bt.dumps = modAt s.bt.dumps s.dumpSlot (fun _ => some d) ∧ d.cause = cause ∧ d.core = core ∧ d.unread = true :=
  dump_drain_spec (s := { s with bt := { s.bt with run := .halted, halted := true } }) h cause core [1, 2, 3, 4, 5] 8 code 4 0

theorem exec_watchdogWrite {s : State} (hrun : s.firmwareRuns = true) (core : Nat) : exec (.watchdogWrite core) s =
    .next { s with bt := { s.bt with watchdogs := modAt s.bt.watchdogs core fun _ => s.tm.tick } } :=
  congrArg Host.Outcome.next (if_pos hrun)

/-- The state in which a watchdog's 400 us are over, with the record of the expiry. -/
def State.expired (s : State) (core : Nat) : State := (s.advanceTo (at' s.bt.watchdogs core 0 + watchdogTicks)).raise 0x0208 4 [core]

theorem exec_watchdogExpiry {s : State} (hrun : s.firmwareRuns = true) {core : Nat} (hcore : core < 4) :
    exec (.watchdogExpiry core) s = .next ((s.expired core).crash 2 core 0x0208) := by
  change execWatchdogExpiry core s = _
  unfold execWatchdogExpiry
  exact if_neg (by simp [hrun, hcore])

/-- Time passing and the record leave the boot block alone. -/
theorem expired_bt (s : State) (core : Nat) : (s.expired core).bt = s.bt := by
  obtain ⟨m, heq, -⟩ := advanceTo_spec s (at' s.bt.watchdogs core 0 + watchdogTicks)
  unfold State.expired
  rw [heq]
  rfl

theorem exec_firmwareCrash {s : State} (hrun : s.firmwareRuns = true) {core : Nat} (hcore : core < 4) (c : CrashCause) :
    exec (.firmwareCrash c core) s = .next (s.crash (CrashCause.code c) core 0) :=
  congrArg Host.Outcome.next (if_pos (by simp [hrun, hcore]))

theorem crashCause_code (c : CrashCause) : CrashCause.code c = if c = .trap then 1 else 3 := by
  cases c <;> rfl

/-- The state in which the island finds the safety cores to differ: they are halted, with the record. -/
def State.mismatched (s : State) : State :=
  { s.raise 0x0207 5 [] with
    bt := { (s.raise 0x0207 5 []).bt with halted := true, run := if s.bt.run = RunState.running then RunState.halted else s.bt.run } }

theorem exec_lockstepMismatch {s : State} (hrun : s.hcoreRuns = true) :
    exec .lockstepMismatch s = .next ((s.mismatched.writeDump 5 255 []).drain 7 0x0207 5 0) := by
  change execLockstepMismatch s = _
  unfold execLockstepMismatch
  exact if_neg (by simp [hrun])

/-- Settles O19: each fault writes a dump and drains (`dump_drain_spec`). -/
theorem firmwareFaultsDrainTheModule : Obligations.FirmwareFaultsDrainTheModule := by
  unfold Obligations.FirmwareFaultsDrainTheModule
  refine ⟨fun s core hrun => exec_watchdogWrite hrun core, fun s core hrun hcore hdrained => ?expiry, fun s c core hrun hcore hdrained => ?crash,
    fun s hrun hdrained => ?mismatch⟩
  case expiry =>
    have hbt := expired_bt s core
    obtain ⟨t, d, e, heq, hspec⟩ := crash_spec (isDrained_of_bt hbt hdrained) 2 core 0x0208
    have hslot : (s.expired core).dumpSlot = s.dumpSlot := by unfold State.dumpSlot; rw [hbt]
    rw [hbt, hslot] at hspec
    exact ⟨t, d, e, (exec_watchdogExpiry hrun hcore).trans (congrArg _ heq), hspec⟩
  case crash =>
    obtain ⟨t, d, e, heq, hstate, hhalted, hdrain, hlog, hcause, -, hholds, hdumps, hdump⟩ := crash_spec hdrained (CrashCause.code c) core 0
    rw [crashCause_code] at hdump
    exact ⟨t, d, e, (exec_firmwareCrash hrun hcore c).trans (congrArg _ heq), hstate, hhalted, hdrain, hlog, hcause, hholds, hdumps, hdump⟩
  case mismatch =>
    obtain ⟨t, d, e, heq, -, hspec⟩ := dump_drain_spec (s := s.mismatched) hdrained 5 255 [] 7 0x0207 5 0
    exact ⟨t, d, e, (exec_lockstepMismatch hrun).trans (congrArg _ heq), hspec⟩

end Sys2Proof.Machine
end

section
/-! PROOFS. O8: the frame of every command (95_what_each_step_holds.md). It fails for one command and one part: POWER_APPLIED with RESET_N high lets
go of the pins that the test access port drives (16 R534), although `leaves` lists the port. -/

set_option Elab.async false

namespace Sys2Proof.Machine

/-- A module without power whose test access port drives the pins by its cells. -/
def drivenUnpowered : State :=
  { State.reset with pw := { State.reset.pw with supplied := false }, tp := { State.reset.tp with drive := .cells } }

/-- As 48 V comes on with RESET_N high, the port's driving instruction acts as BYPASS from then on. -/
theorem powerApplied_releases {s : State} {v : Nat} (hoff : s.pw.supplied = false) (hv : 38000 ≤ v) (c a0 a1 : Bool) :
    ∃ t, exec (.powerApplied v true c a0 a1) s = .next t ∧ t.tp = s.tp.released :=
  ⟨_, exec_powerApplied hoff hv true c a0 a1, bootChain_tp _⟩

/-- Refutes O8: POWER_APPLIED changes the port of an unpowered module that drives the pins, and its list of untouched parts names the port. -/
theorem not_commandsLeaveOtherPartsAlone : ¬ Obligations.CommandsLeaveOtherPartsAlone := by
  unfold Obligations.CommandsLeaveOtherPartsAlone
  intro h
  obtain ⟨t, hexec, hreleased⟩ := powerApplied_releases (s := drivenUnpowered) (v := 48000) rfl (by decide) false false false
  have hkept : t.tp = drivenUnpowered.tp := h (.powerApplied 48000 true false false false) drivenUnpowered t .tap hexec (.inl (by decide))
  rw [hreleased] at hkept
  exact absurd (congrArg Tap.drive hkept) (by decide)

end Sys2Proof.Machine
end

section
/-! PROOFS. O14, O15, O16, O27: addresses that name no register, the H core registers over I3C, and the event records (13 R431, R436, R444, R445,
R458). -/

set_option Elab.async false

namespace Sys2Proof.Machine

/-! ### Addresses that name no register (13 R431) -/

theorem readReg_unnamed {s : State} {a : Nat} (h : regInfo a = none) : s.readReg a = 0 := by
  unfold State.readReg; rw [h]

theorem inConfigSet_unnamed {a : Nat} (h : regInfo a = none) : inConfigSet a = false := by
  unfold inConfigSet; rw [h]

/-- What the seal scans are registers of the configuration set (13 R448). -/
theorem not_mem_configSet {a : Nat} (h : inConfigSet a = false) : a ∉ configSet := fun hmem => by
  have hin := (List.mem_filter.1 hmem).2
  rw [h] at hin
  exact absurd hin (by decide)

theorem putRegister_unnamed (s : State) (p : Path) {a : Nat} (v : Nat) (h : regInfo a = none) : s.putRegister p a v = s := by
  unfold State.putRegister
  exact if_pos (by simp [h])

theorem pathWrite_i3c_unnamed (s : State) {a : Nat} (v : Nat) (h : regInfo a = none) : s.pathWrite .i3c a v = s := by
  unfold State.pathWrite
  rw [putRegister_unnamed s .i3c v h, ite_self]

/-- A host's write of such an address leaves the marks of its frame on the seal alone, or nothing. -/
theorem pathWrite_host_unnamed (s : State) {a : Nat} (v : Nat) (h : regInfo a = none) :
    s.pathWrite .host a v = s.openSeal.commitSeal ∨ s.pathWrite .host a v = s := by
  by_cases hw : (s.firmwareRuns && s.leaseLive && physical a) = true
  · exact .inl ((if_pos hw).trans (congrArg State.commitSeal (putRegister_unnamed s.openSeal .host v h)))
  · exact .inr (if_neg hw)

theorem pathWrite_host_outside (s : State) {a : Nat} (v : Nat) (h : physical a = false) : s.pathWrite .host a v = s :=
  if_neg (by simp [h])

theorem mapped_outside {u : State} {a : Nat} (hp : physical a = false) (he : emulated a = false) : u.mapped a = false := by
  unfold State.mapped; rw [hp, he]; simp

/-- A frame that is taken has a length that its type allows (11 R376). -/
theorem takes_lenOk {s : State} {h : FrameHdr} {chan type : Nat} {lease lenOk : Bool} (ht : s.takes h chan type lease lenOk = true) :
    lenOk = true := by
  unfold State.takes State.frameStatus at ht
  by_contra hno
  rw [Bool.eq_false_iff.2 hno] at ht
  split_ifs at ht <;> simp_all

/-- The first address of a range is in it. -/
theorem mem_wordRange {a n : Nat} (h : 0 < n) : a ∈ wordRange a n := List.mem_map.2 ⟨0, List.mem_range.2 h, rfl⟩

/-- A private read of one register sends its four bytes, least significant first, from the pointer (13 R434, 16 R533). -/
theorem exec_i3cRead_one {s : State} (hon : s.pw.supplied = true) :
    ∃ t, exec (.i3cPrivateRead 1) s = .next t ∧ t.i3.out = s.i3.out ++ natLe 4 (s.i3cRead s.i3.pointer) :=
  ⟨_, congrArg Host.Outcome.next (if_pos hon), rfl⟩

theorem i3cRead_unnamed {s : State} {a : Nat} (h : regInfo a = none) : s.i3cRead a = 0 := by
  unfold State.i3cRead; rw [h]

/-- Settles O14, path by path: what an unnamed address reads, and that no path writes it. -/
theorem addressesThatNameNoRegisterReadZero : Obligations.AddressesThatNameNoRegisterReadZero := by
  unfold Obligations.AddressesThatNameNoRegisterReadZero
  refine ⟨fun s a h => ⟨readReg_unnamed h, inConfigSet_unnamed h, not_mem_configSet (inConfigSet_unnamed h), fun v => ⟨?firmware, ?i3c, ?host, ?outside⟩⟩,
    fun s h p ht hp he => ?regread, fun s h p ht hp he => ?regwrite, fun s hon hreg => ?read⟩
  case firmware => rw [exec_registerWrite, pathWrite_firmware_unnamed s _ h]
  case i3c => rw [exec_registerWrite, pathWrite_i3c_unnamed s _ h]
  case host =>
    rw [exec_registerWrite]
    rcases pathWrite_host_unnamed s v.toNat h with heq | heq <;> rw [heq] <;> exact ⟨_, rfl, fun _ => rfl, rfl⟩
  case outside => exact fun hp => by rw [exec_registerWrite, pathWrite_host_outside s _ hp]
  case regread =>
    have hlen := takes_lenOk ht
    have hn : 0 < fld p 8 4 := by simp at hlen; omega
    rw [exec_regread ht, if_pos (not_all_mapped ⟨_, mem_wordRange hn, mapped_outside hp he⟩)]
    exact ⟨_, rfl, respond_answered _ _ _ _⟩
  case regwrite =>
    have hlen := takes_lenOk ht
    have hn : 0 < (p.length - 8) / 4 := by simp at hlen; omega
    rw [exec_regwrite ht, if_pos (not_all_mapped ⟨_, mem_wordRange hn, mapped_outside hp he⟩)]
    exact ⟨_, rfl, respond_answered _ _ _ _, rfl⟩
  case read =>
    obtain ⟨t, hexec, hout⟩ := exec_i3cRead_one hon
    exact ⟨t, hexec, by rw [hout, i3cRead_unnamed hreg]; rfl⟩

/-! ### MIRROR_STAT and the H core registers (13 R436, R458) -/

theorem readReg_mirrorStat (s : State) : s.readReg 0x80 = s.stored 0x80 + s.mirrorStat := rfl

/-- Bit 4 of MIRROR_STAT stands alone between the four array bits below it and the bits above (13 R436). -/
theorem mirrorStat_bit_four (s : State) : bits s.mirrorStat 4 1 = b2n (!s.hcoreRuns) := by
  have hb : ∀ b : Bool, b2n b ≤ 1 := by decide
  have h0 := hb (at' s.rg.mirrorA 0 true)
  have h1 := hb (at' s.rg.mirrorA 1 true)
  have h2 := hb (at' s.rg.mirrorA 2 true)
  have h3 := hb (at' s.rg.mirrorA 3 true)
  have h4 := hb (!s.hcoreRuns)
  have hsum : sumList ((List.range 4).map fun n => b2n (at' s.rg.mirrorA n true) * 2 ^ n) = b2n (at' s.rg.mirrorA 0 true) +
      2 * b2n (at' s.rg.mirrorA 1 true) + 4 * b2n (at' s.rg.mirrorA 2 true) + 8 * b2n (at' s.rg.mirrorA 3 true) := by
    simp [sumList, List.range_succ]; omega
  unfold State.mirrorStat bits
  rw [hsum]
  omega

theorem mirrorStat_bit_four_iff (s : State) : bits s.mirrorStat 4 1 = 1 ↔ s.hcoreRuns = false := by
  rw [mirrorStat_bit_four]
  cases s.hcoreRuns <;> decide

theorem i3cRead_stopped {s : State} {a : Nat} (hreg : regInfo a ≠ none) (hcore : s.hcoreRuns = false) (hon : alwaysOn a = false) :
    s.i3cRead a = 0xFFFFFFFF := by
  obtain ⟨i, hi⟩ := Option.ne_none_iff_exists'.1 hreg
  unfold State.i3cRead
  simp [hi, hcore, hon]

/-- Settles O15: bit 4 of MIRROR_STAT by itself, then the read that it stops. -/
theorem stoppedHCoreRegistersReadAllOnes : Obligations.StoppedHCoreRegistersReadAllOnes := by
  unfold Obligations.StoppedHCoreRegistersReadAllOnes
  refine ⟨readReg_mirrorStat, mirrorStat_bit_four_iff, fun s hon hbit hreg hao => ?_⟩
  obtain ⟨t, hexec, hout⟩ := exec_i3cRead_one hon
  exact ⟨t, hexec, by rw [hout, i3cRead_stopped hreg ((mirrorStat_bit_four_iff s).1 hbit) hao]; rfl⟩

/-! ### Event records (13 R444) -/

theorem raise_held_of_room {s : State} {code source : Nat} {detail : List Nat} (h : s.ev.held.length < 32) :
    (s.raise code source detail).ev.held.dropLast = s.ev.held ∧ (s.raise code source detail).ev.lost = s.ev.lost := by
  have hroom : ¬ 32 ≤ s.ev.held.length := by omega
  simp [State.raise, hroom]

theorem raise_held_of_full {s : State} {code source : Nat} {detail : List Nat} (h : s.ev.held.length = 32) :
    (s.raise code source detail).ev.held.dropLast = s.ev.held.tail ∧ (s.raise code source detail).ev.lost = s.ev.lost + 1 := by
  simp [State.raise, h]

theorem recordNumber_nextSeq {n : Nat} (h : recordNumber n) : recordNumber (nextSeq n) := by
  unfold recordNumber nextSeq at *
  split <;> omega

/-- Settles O16. -/
theorem recordsAreNumberedAndTheOldestGivesWay : Obligations.RecordsAreNumberedAndTheOldestGivesWay := by
  unfold Obligations.RecordsAreNumberedAndTheOldestGivesWay
  exact ⟨fun s code source detail => ⟨rfl, raise_last s code source detail, rfl, raise_held_of_room, raise_held_of_full⟩,
    fun _ => recordNumber_nextSeq⟩

/-! ### Clearing event records (13 R445) -/

theorem clearRecords_held {s : State} {v : Nat} {older newer : List Record} {r : Record} (hheld : s.ev.held = older ++ r :: newer)
    (hr : r.seq = v) (holder : ∀ x ∈ older, x.seq ≠ v) : s.clearRecords v = { s with ev := { s.ev with held := newer } } := by
  have hfind : s.ev.held.findIdx? (fun r => r.seq == v) = some older.length := by
    rw [hheld, List.findIdx?_append, List.findIdx?_eq_none_iff.2 (by simpa using holder)]
    simp [List.findIdx?_cons, hr]
  have hdrop : s.ev.held.drop (older.length + 1) = newer := by
    rw [hheld, ← List.drop_drop]; simp
  unfold State.clearRecords
  rw [hfind]
  simp only [hdrop]

theorem clearRecords_none {s : State} {v : Nat} (h : ∀ r ∈ s.ev.held, r.seq ≠ v) : s.clearRecords v = s := by
  unfold State.clearRecords
  rw [List.findIdx?_eq_none_iff.2 (by simpa using h)]

/-- The state after the opening and the commit that a host's write puts around itself; the other paths leave the seal (13 R435). -/
def State.framed (s : State) (p : Path) : State :=
  { s with rg := { s.rg with sealed := if p = .host then s.hostSeal else s.rg.sealed } }

theorem commitSeal_clearRecords (s : State) (v : Nat) : (s.clearRecords v).commitSeal = s.commitSeal.clearRecords v := by
  have hev : s.commitSeal.ev = s.ev := rfl
  unfold State.clearRecords
  rw [hev]
  cases s.ev.held.findIdx? fun r => r.seq == v <;> rfl

theorem exec_evrNewestWrite {s : State} {p : Path} (v : Word) (hopen : s.pathOpen p) :
    exec (.evrNewestWrite p v) s = .next ((s.framed p).clearRecords v.toNat) := by
  change Host.Outcome.next (s.pathWrite p 0x2000 v.toNat) = _
  cases p with
  | host =>
    rw [pathWrite_host _ hopen.1 hopen.2 (by decide)]
    exact congrArg Host.Outcome.next (commitSeal_clearRecords s.openSeal v.toNat)
  | firmware => rw [pathWrite_firmware _ _ hopen]; rfl
  | i3c =>
    have hcore : s.hcoreRuns = true := hopen
    have hon : s.pw.supplied = true := by unfold State.hcoreRuns at hcore; simp_all
    rw [pathWrite_i3c _ hon (by simp [State.i3cWrites, hcore])]; rfl

/-- The words of a slot are those of the held record whose number falls on it (13 R444). -/
theorem eventValue_empty {s : State} {slot w : Nat} (hw : w < 16) (h : ∀ x ∈ s.ev.held, x.seq % 32 ≠ slot) :
    s.eventValue (0x800 + 0x40 * slot + 4 * w) = 0 := by
  have hslot : (0x800 + 0x40 * slot + 4 * w - 0x800) / 0x40 = slot := by omega
  have hnone : s.ev.held.find? (fun r => r.seq % 32 == slot) = none := List.find?_eq_none.2 (by simpa using h)
  unfold State.eventValue
  rw [if_neg (by omega), if_neg (by omega), if_neg (by omega), if_neg (by omega), if_neg (by omega), hslot, hnone]

/-- Settles O27. -/
theorem evrNewestClearsUpToTheNumberWritten : Obligations.EvrNewestClearsUpToTheNumberWritten := by
  unfold Obligations.EvrNewestClearsUpToTheNumberWritten
  refine ⟨fun s p v hopen => ⟨fun older r newer hheld hr holder => ?_, fun hnone => ?_⟩, fun s slot w _ hw h => eventValue_empty hw h⟩
  · rw [exec_evrNewestWrite v hopen, clearRecords_held (s := s.framed p) hheld hr holder]; rfl
  · rw [exec_evrNewestWrite v hopen, clearRecords_none (s := s.framed p) hnone]; rfl

end Sys2Proof.Machine
end

section
/-! PROOFS. O24, O25, O26: the letterboxes, the configuration seal, dead-letter control and TRACE_NOW (12 R428, 13 R439-R442, R449-R451, R455). -/

set_option Elab.async false

namespace Sys2Proof.Machine

/-! ### Letterboxes (13 R438-R442) -/

theorem box_modBox_same {s : State} {n : Nat} {f : Letterbox → Letterbox} (hn : n < s.rg.boxes.length) : (s.modBox n f).box n = f (s.box n) := by
  unfold State.box State.modBox at' modAt
  simp [List.getD_eq_getElem?_getD, hn]

theorem box_modBox_ne {s : State} {n m : Nat} {f : Letterbox → Letterbox} (hm : m ≠ n) : (s.modBox n f).box m = s.box m := by
  unfold State.box State.modBox at' modAt
  simp [List.getD_eq_getElem?_getD, Ne.symm hm]

/-- Beyond the sixteen there is no letterbox that waits for a snapshot. -/
theorem box_lt_of_busy {s : State} {n : Nat} (h : (s.box n).busy = true) : n < s.rg.boxes.length := by
  by_contra hn
  unfold State.box at' at h
  rw [List.getD_eq_default _ _ (by omega)] at h
  exact absurd h (by decide)

theorem selectBox_frame (s : State) (n v : Nat) : s.selectBox n v = { s with rg := { s.rg with boxes := (s.selectBox n v).rg.boxes } } := rfl

/-- The letterbox after a write of LB_SEL whatever its KIND (13 R440). -/
def Letterbox.selected (b : Letterbox) (v : Word) : Letterbox :=
  { b with sel := v, latched := b.addr.toNat, valid := false, error := false, stale := false, busy := false }

/-- A selection by its KIND and by whether it is refused. -/
theorem box_selectBox {s : State} {n : Nat} (v : Word) (hn : n < s.rg.boxes.length) : (s.selectBox n v.toNat).box n =
    if bits v.toNat 0 8 = 0 then (s.box n).selected v
    else if s.boxRefused v.toNat (s.box n).addr.toNat then { (s.box n).selected v with error := true, data := [] }
    else { (s.box n).selected v with busy := true } := by
  unfold State.selectBox
  rw [box_modBox_same hn]
  simp only [BitVec.ofNat_toNat, BitVec.setWidth_eq]
  rfl

theorem regInfo_lbSel : ∀ n < 16, (regInfo (0x1000 + 0x80 * n)).isNone = false := by decide

theorem physical_lbSel : ∀ n < 16, physical (0x1000 + 0x80 * n) = true := by decide

/-- A write at LB_SEL of letterbox `n`, by a path that owns it, selects. -/
theorem putRegister_lbSel (s : State) {p : Path} {n : Nat} (v : Nat) (hn : n < 16) (hown : ownsBox p n = true) :
    s.putRegister p (0x1000 + 0x80 * n) v = s.selectBox n v := by
  have hbox : (0x1000 + 0x80 * n - 0x1000) / 0x80 = n := by omega
  have hsel : (0x1000 + 0x80 * n) % 0x80 = 0 := by omega
  unfold State.putRegister
  rw [regInfo_lbSel n hn]
  simp only [Bool.false_eq_true, if_false]
  rw [if_pos (by omega), hbox, hown, if_pos hsel]
  rfl

theorem exec_lbSelWrite {s : State} {p : Path} {n : Nat} (v : Word) (hn : n < 16) (hown : ownsBox p n = true) (hcore : s.hcoreRuns = true)
    (hopen : s.pathOpen p) : exec (.lbSelWrite p n v) s = .next ((s.framed p).selectBox n v.toNat) := by
  change Host.Outcome.next (if n < 16 then s.pathWrite p (0x1000 + 0x80 * n) v.toNat else s) = _
  rw [if_pos hn]
  cases p with
  | host =>
    rw [pathWrite_host _ hopen.1 hopen.2 (physical_lbSel n hn), putRegister_lbSel _ _ hn hown]
    rfl
  | firmware => rw [pathWrite_firmware _ _ hopen, putRegister_lbSel _ _ hn hown]; rfl
  | i3c =>
    have hon : s.pw.supplied = true := by unfold State.hcoreRuns at hcore; simp_all
    have hwrites : s.i3cWrites (0x1000 + 0x80 * n) = true := by
      have h14 : n = 14 ∨ n = 15 := by simpa [ownsBox] using hown
      unfold State.i3cWrites
      rcases h14 with rfl | rfl <;> simp [hcore]
    rw [pathWrite_i3c _ hon hwrites, putRegister_lbSel _ _ hn hown]
    rfl

/-- The letterbox whose snapshot completes (13 R439). -/
def State.snapshot (s : State) (n : Nat) (b : Letterbox) : Letterbox :=
  { b with
    data := (s.boxWords (s.box n).sel.toNat (s.box n).latched).1.map (BitVec.ofNat 32)
    stale := (s.boxWords (s.box n).sel.toNat (s.box n).latched).2
    valid := true
    seq := (b.seq + 1) % 65536
    busy := false }

theorem exec_letterboxSnapshotDone {s : State} {n : Nat} (hcore : s.hcoreRuns = true) (hbusy : (s.box n).busy = true) :
    exec (.letterboxSnapshotDone n) s = .next (s.modBox n (s.snapshot n)) := by
  change execLetterboxSnapshotDone n s = _
  unfold execLetterboxSnapshotDone
  exact if_neg (by simp [hcore, hbusy])

/-- A KIND 1 selection of `count` registers takes each at its address. -/
theorem boxWords_registers {s : State} {count addr : Nat} (h : count ≤ 16) :
    (s.boxWords (1 + 256 * count) addr).1 = (List.range count).map fun i => s.readReg (addr + 4 * i) := by
  have hkind : bits (1 + 256 * count) 0 8 = 1 := by unfold bits; omega
  have hcount : bits (1 + 256 * count) 8 5 = count := by unfold bits; omega
  unfold State.boxWords
  rw [hkind, hcount]
  exact List.map_map

/-- Settles O24. -/
theorem letterboxesTakeOneMoment : Obligations.LetterboxesTakeOneMoment := by
  unfold Obligations.LetterboxesTakeOneMoment
  refine ⟨fun s p n v hlen hn hown hcore hopen => ?select, fun s n hcore hbusy => ?snapshot, fun s count addr _ h => boxWords_registers h⟩
  case select =>
    have hbox := box_selectBox (s := s.framed p) v hlen
    refine ⟨_, exec_lbSelWrite v hn hown hcore hopen, rfl, fun m hm => box_modBox_ne hm, fun hkind => ?_, fun hkind hok => ?_, fun hkind hbad => ?_⟩
    · exact hbox.trans (if_pos hkind)
    · exact hbox.trans ((if_neg hkind).trans (if_neg (Bool.eq_false_iff.1 hok)))
    · exact hbox.trans ((if_neg hkind).trans (if_pos hbad))
  case snapshot =>
    exact ⟨_, exec_letterboxSnapshotDone hcore hbusy, rfl, fun m hm => box_modBox_ne hm, box_modBox_same (box_lt_of_busy hbusy)⟩

/-! ### The configuration seal (13 R448-R451) -/

theorem writtenValue_sealOpen (old : Nat) : writtenValue 0x3000 old 1 = 0 := rfl

theorem writtenValue_sealCommit (old : Nat) : writtenValue 0x3000 old 2 = 0 := rfl

theorem putRegister_sealOpen (s : State) : s.putRegister .firmware 0x3000 1 = (s.store 0x3000 0).openSeal := rfl

theorem putRegister_sealCommit (s : State) : s.putRegister .firmware 0x3000 2 = (s.store 0x3000 0).commitSeal := rfl

theorem exec_sealScan_clean {s : State} (hcore : s.hcoreRuns = true) : exec (.sealScan []) s = .next (s.scanned s.sealCrc) :=
  congrArg Host.Outcome.next (if_pos hcore)

/-- The scan counted and kept as the last result, before it is judged. -/
def State.counted (s : State) (crc : Word) : State := s.modSeal fun q => { q with last := crc, scans := q.scans + 1 }

/-- A scan sets the reference when a commit is pending, finds a mismatch against another reference of a closed seal, or changes nothing more. -/
theorem scanned_eq (s : State) (crc : Word) : s.scanned crc =
    if s.rg.sealed.pending then (s.counted crc).modSeal fun q => { q with ref := some crc, pending := false }
    else match s.rg.sealed.ref with
      | none => s.counted crc
      | some ref => if s.rg.sealed.opened || ref == crc then s.counted crc
        else (((s.counted crc).modSeal fun q => { q with faults := q.faults + 1 }).raise 0x0050 4 [ref.toNat, crc.toNat]).drain 9 0x0050 4 0 := by
  rfl

theorem scanned_pending {s : State} {crc : Word} (h : s.rg.sealed.pending = true) :
    s.scanned crc = (s.counted crc).modSeal fun q => { q with ref := some crc, pending := false } := by
  rw [scanned_eq, if_pos h]

theorem scanned_quiet {s : State} {crc : Word} (h : s.rg.sealed.pending = false)
    (hsame : s.rg.sealed.ref = none ∨ s.rg.sealed.opened = true ∨ s.rg.sealed.ref = some crc) : s.scanned crc = s.counted crc := by
  rw [scanned_eq, if_neg (by simp [h])]
  rcases href : s.rg.sealed.ref with _ | ref
  · rfl
  · refine if_pos ?_
    simpa [href] using hsame

theorem scanned_mismatch {s : State} {crc ref : Word} (h : s.rg.sealed.pending = false) (hclosed : s.rg.sealed.opened = false)
    (href : s.rg.sealed.ref = some ref) (hne : ref ≠ crc) : s.scanned crc =
      (((s.counted crc).modSeal fun q => { q with faults := q.faults + 1 }).raise 0x0050 4 [ref.toNat, crc.toNat]).drain 9 0x0050 4 0 := by
  rw [scanned_eq, if_neg (by simp [h]), href]
  exact if_neg (by simp [hclosed, hne])

/-- A mismatch drains the module into P1 Hold with cause 9 (13 R451). -/
theorem mismatch_drains {s : State} {crc ref : Word} (h : s.rg.sealed.pending = false) (hclosed : s.rg.sealed.opened = false)
    (href : s.rg.sealed.ref = some ref) (hne : ref ≠ crc) (hd : s.isDrained = false) :
    (s.scanned crc).bt.drained = some 9 ∧ (s.scanned crc).holdsP1 .drained ∧ s.scanned crc =
      (((s.counted crc).modSeal fun q => { q with faults := q.faults + 1 }).raise 0x0050 4 [ref.toNat, crc.toNat]).drain 9 0x0050 4 0 := by
  rw [scanned_mismatch h hclosed href hne]
  generalize hu : ((s.counted crc).modSeal fun q => { q with faults := q.faults + 1 }).raise 0x0050 4 [ref.toNat, crc.toNat] = u
  obtain ⟨e, hbt, -, -, -, -, -, hholds⟩ := drain_spec u 9 0x0050 4 0 (by rw [← hu]; exact hd)
  exact ⟨by rw [hbt], hholds, rfl⟩

/-- The seal closed by its limit, 10 ms after its first opening (13 R450). -/
theorem exec_sealOpenTimeout {s : State} (hcore : s.hcoreRuns = true) (hopen : s.rg.sealed.opened = true) :
    exec .sealOpenTimeout s = .next (((s.advanceTo (s.rg.sealed.openedAt + 2500000)).modSeal fun q => { q with opened := false }).raise 0x0051 4
      [(s.advanceTo (s.rg.sealed.openedAt + 2500000)).tm.tick - s.rg.sealed.openedAt]) := by
  change execSealOpenTimeout s = _
  unfold execSealOpenTimeout sealTicks
  exact if_neg (by simp [hcore, hopen])

/-- Settles O25. -/
theorem sealOpensCommitsAndCompares : Obligations.SealOpensCommitsAndCompares := by
  unfold Obligations.SealOpensCommitsAndCompares
  refine ⟨fun s hf => ⟨?opens, ?commit, fun v hl => ?host⟩,
    fun s hcore => ⟨fun hp => ?reference, fun hp hsame => ?quiet, fun ref hp hclosed href hne hd => ?mismatch⟩, fun s hcore hopen => ?timeout⟩
  case opens => exact congrArg Host.Outcome.next ((pathWrite_firmware 0x3000 1 hf).trans (putRegister_sealOpen s))
  case commit => exact congrArg Host.Outcome.next ((pathWrite_firmware 0x3000 2 hf).trans (putRegister_sealCommit s))
  case host => exact congrArg Host.Outcome.next (pathWrite_host v.toNat hf hl (by decide))
  case reference => rw [exec_sealScan_clean hcore, scanned_pending hp]; rfl
  case quiet => rw [exec_sealScan_clean hcore, scanned_quiet hp hsame]; rfl
  case mismatch => rw [exec_sealScan_clean hcore]; exact ⟨_, rfl, mismatch_drains hp hclosed href hne hd⟩
  case timeout =>
    refine ⟨_, exec_sealOpenTimeout hcore hopen, ?_⟩
    obtain ⟨m, hadv, hm⟩ := advanceTo_spec s (s.rg.sealed.openedAt + 2500000)
    rw [hadv]
    exact ⟨rfl, raise_last _ _ _ _, hm, rfl, rfl⟩

/-! ### Dead-letter control and TRACE_NOW (12 R428, 13 R455, 07 R209) -/

/-- A dump whose slot is named loses its mark. -/
def dumpRead (b : Bool) (d : Option Dump) : Option Dump := if b then d.map fun x => { x with unread := false } else d

theorem modAt_dumpRead_false (l : List (Option Dump)) (n : Nat) : modAt l n (dumpRead false) = l := List.modify_id n l

/-- DL_CTL without its restart bit: REFUSED cleared, the dumps of the named slots read. -/
def State.deadCleared (s : State) (v : Nat) : State :=
  { s with bt := { s.bt with refused := false, dumps := modAt (modAt s.bt.dumps 0 (dumpRead (bit v 0))) 1 (dumpRead (bit v 1)) } }

theorem deadControl_eq (s : State) (v : Nat) : s.deadControl v =
    if bit v 2 then
      if (s.deadCleared v).coresRun then { s.deadCleared v with bt := { (s.deadCleared v).bt with refused := true } }
      else if (s.deadCleared v).pw.stop.isSome then s.deadCleared v
      else (s.deadCleared v).resetModule true
    else s.deadCleared v := by
  unfold State.deadControl State.deadCleared
  cases bit v 0 <;> cases bit v 1 <;> simp only [modAt_dumpRead_false] <;> rfl

theorem deadCleared_four (s : State) : s.deadCleared 4 = { s with bt := { s.bt with refused := false } } := by
  unfold State.deadCleared
  rw [show bit 4 0 = false from rfl, show bit 4 1 = false from rfl, modAt_dumpRead_false, modAt_dumpRead_false]

theorem pathWrite_dlCtl {s : State} (v : Nat) (hon : s.pw.supplied = true) :
    ∃ w, s.pathWrite .i3c 0x30010 v = (s.store 0x30010 w).deadControl v :=
  ⟨_, (pathWrite_i3c v hon (by simp [State.i3cWrites])).trans rfl⟩

/-- A chain that boots leaves REFUSED as it is. -/
theorem bootChain_refused {s : State} {r : ConfigRecord} {i : Image} (h : s.bootsTo r i) : s.bootChain.bt.refused = s.bt.refused := by
  obtain ⟨hid, hflash, hrecord, himage, hstore⟩ := h
  unfold State.bootChain
  simp only [hid, hflash, hrecord, himage, Bool.not_true, Bool.false_eq_true, if_false]
  generalize hs : State.startPorts _ = s1
  obtain ⟨-, -, -, -, hbt⟩ := firmwareStart_frame s1 (by unfold State.storeBad at hstore ⊢; subst hs; exact hstore)
  rw [hbt]
  subst hs
  rfl

/-- Settles O26. -/
theorem deadLettersAreReadClearedAndRestarted : Obligations.DeadLettersAreReadClearedAndRestarted := by
  unfold Obligations.DeadLettersAreReadClearedAndRestarted
  refine ⟨fun s v hon hv => ?clear, fun s hon hrun => ?refused, fun s r i hon hrun hstop hboots => ?restart, fun s hf hrun => ?trace⟩
  case clear =>
    obtain ⟨w, hw⟩ := pathWrite_dlCtl v.toNat hon
    have hbit : bit v.toNat 2 = false := by unfold bit; simp; omega
    refine ⟨(s.store 0x30010 w).deadCleared v.toNat, congrArg Host.Outcome.next (hw.trans ?_), rfl, rfl, rfl, rfl⟩
    rw [deadControl_eq, hbit]
    rfl
  case refused =>
    obtain ⟨w, hw⟩ := pathWrite_dlCtl 4 hon
    refine ⟨{ s.store 0x30010 w with bt := { s.bt with refused := true } }, congrArg Host.Outcome.next (hw.trans ?_), rfl, rfl, rfl⟩
    rw [deadControl_eq, deadCleared_four, if_pos (by decide), if_pos (by unfold State.coresRun; simpa using hrun)]
    rfl
  case restart =>
    obtain ⟨w, hw⟩ := pathWrite_dlCtl 4 hon
    let u : State := ({ s.store 0x30010 w with bt := { s.bt with refused := false } } : State).beginReset true
    have hu : u.bootsTo r i := hboots
    obtain ⟨-, hsv, htm, hruns, hrecord, himage, -⟩ := bootChain_runs u r i hu
    refine ⟨u.bootChain, congrArg Host.Outcome.next (hw.trans ?_), hruns, hrecord, himage, (bootChain_refused hu).trans rfl, by rw [htm]; rfl, hsv⟩
    rw [deadControl_eq, deadCleared_four, if_pos (by decide), if_neg (by unfold State.coresRun; simpa using hrun), if_neg (by simp [hstop])]
    rfl
  case trace =>
    refine ⟨{ s.store 0x21000 (writtenValue 0x21000 (s.stored 0x21000) 0x10) with cl := { s.cl with pendingTrace := true } },
      congrArg Host.Outcome.next ((pathWrite_firmware 0x21000 0x10 hf).trans ?_), rfl, rfl, rfl⟩
    exact if_pos (by simpa [bit] using hrun)

end Sys2Proof.Machine
end

section
/-! PROOFS. O13: a step is replayed once, then the module drains (14 R469, R470, R472, log entry 39). -/

set_option Elab.async false

namespace Sys2Proof.Machine

/-- The step begun again at an epoch, before its entries start (14 Table 14.4). -/
def OpenStep.again (x : OpenStep) (epoch : Nat) : OpenStep :=
  { x with epoch := epoch, tokens := [], spotDies := [], spotPass := [],
           entries := x.entries.map fun (e : EntryWork) => { e with compacted := false } }

/-- The state in which the entries of a replayed step start. -/
def State.rewound (s : State) (tag epoch : Nat) (o : OpenStep) : State :=
  let s1 := s.dropWork tag
  ({ s1 with
    rd := { s1.rd with ledgers := s1.rd.ledgers.map (o.raiseLedger epoch s.tm.tick) },
    fb := { s1.fb with activations := s1.fb.activations.map (o.raiseActivation epoch) } }).modStep tag fun x => x.again epoch

theorem rerun_eq {s : State} {tag epoch : Nat} {o : OpenStep} (h : s.stepOf tag = some o) :
    s.rerun tag epoch = (roundOrder o).foldl (fun st i => st.startEntry tag i) (s.rewound tag epoch o) := by
  unfold State.rerun
  rw [h]
  rfl

theorem rewound_stepOf {s : State} {tag epoch : Nat} {o : OpenStep} (h : s.stepOf tag = some o) :
    (s.rewound tag epoch o).stepOf tag = some (o.again epoch) := by
  refine (stepOf_modStep _ tag tag).trans ?_
  change (s.stepOf tag).map _ = _
  rw [h]
  simp

/-- A transient of a live step: nothing where it names another epoch, a replay at epoch 0, else a drain (14 R469, R470). -/
theorem transient_eq {s : State} {tag epoch code source loc : Nat} {o : OpenStep} (h : s.liveStep tag = some o) :
    s.transient tag epoch code source loc =
      if o.epoch != epoch then s
      else if o.epoch = 0 then
        if ((s.replayNotices o).liveStep tag).isNone then s.replayNotices o else ((s.replayNotices o).replayRecord o code).rerun tag 1
      else s.drain 1 code source loc := by
  unfold State.transient
  rw [h]

theorem replayRecord_first (s : State) {o : OpenStep} (code : Nat) (h0 : o.epoch = 0) : s.replayRecord o code =
    s.raise 0x0205 4 [o.tag + 65536, o.cmd.stepNumber % 2 ^ 32, o.cmd.stepNumber / 2 ^ 32, o.cmd.job, code] := by
  unfold State.replayRecord
  rw [h0]

/-- Settles O13. -/
theorem aStepIsReplayedOnceThenTheModuleDrains : Obligations.AStepIsReplayedOnceThenTheModuleDrains := by
  unfold Obligations.AStepIsReplayedOnceThenTheModuleDrains
  refine ⟨fun s tag epoch code source loc o h hne => ?voided, fun s tag code source loc o h h0 => ⟨fun hjob => if_pos hjob, fun hgone => ?aborted,
    fun hlive => ?replayed⟩, fun s tag epoch o h => ?rerun, fun s tag code source loc o h h1 hd => ?drained⟩
  case voided => rw [transient_eq h, if_pos (by simpa using hne)]
  case aborted => rw [transient_eq h, h0, hgone]; rfl
  case replayed =>
    refine ⟨_, _, ?_, raise_last _ 0x0205 4 _, rfl, rfl, rfl⟩
    rw [transient_eq h, if_neg (by simp [h0]), if_pos h0, if_neg (by simpa using hlive), replayRecord_first _ _ h0]
  case rerun => exact ⟨_, _, _, rerun_eq h, rewound_stepOf h, rfl, rfl, rfl⟩
  case drained =>
    obtain ⟨e, hbt, hcause, hcode, hsource, hloc, -, hholds⟩ := drain_spec s 1 code source loc hd
    rw [transient_eq h, if_neg (by simp [h1]), if_neg (by simp [h1])]
    exact ⟨e, hbt, hcause, hcode, hsource, hloc, hholds⟩

end Sys2Proof.Machine
end

section
/-! PROOFS. O22, O23: the test access port and the I3C target (16 R529, R532-R535). -/

set_option Elab.async false

namespace Sys2Proof.Machine

/-! ### What the cells capture (16 R529, R535) -/

theorem length_cellsOf (l : List Bool) : (cellsOf l).length = 204 := by simp [cellsOf, boundaryCells]

/-- Reading one place of a list made place by place. -/
theorem at'_map_range {α : Type} {f : Nat → α} {n i : Nat} {d : α} (hi : i < n) : at' ((List.range n).map f) i d = f i := by
  unfold at'
  simp [List.getD_eq_getElem?_getD, hi]

theorem cellsOf_at {l : List Bool} {i : Nat} (hi : i < 204) : at' (cellsOf l) i false = at' l i false := at'_map_range hi

/-- 204 levels are the cells that they load. -/
theorem cellsOf_eq_self {l : List Bool} (h : l.length = 204) : cellsOf l = l := by
  refine List.ext_getElem ((length_cellsOf l).trans h.symm) fun i h1 h2 => ?_
  simpa [cellsOf, at', List.getD_eq_getElem?_getD] using congrArg (·.getD false) (List.getElem?_eq_getElem h2)

theorem length_captures (s : State) (pins : List Bool) : (s.captures pins).length = 204 := by simp [State.captures, boundaryCells]

/-- The last twelve cells are the sideband pins in the order of 16 R535. -/
theorem cell_pinOf_sideband : ∀ k < 12, (pinOf (192 + k)).cell = 192 + k := by decide

theorem cell_pinOf {i : Nat} (hi : i < 204) : (pinOf i).cell = i := by
  by_cases hside : 192 ≤ i
  · obtain ⟨k, rfl⟩ := Nat.exists_eq_add_of_le hside
    exact cell_pinOf_sideband k (by omega)
  · by_cases htx : i < 96
    · rw [pinOf, if_pos htx]
      change 8 * (i / 8) + i % 8 = i
      omega
    · rw [pinOf, if_neg htx, if_pos (by omega)]
      change 96 + 8 * ((i - 96) / 8) + i % 8 = i
      omega

theorem captures_resetN (s : State) (pins : List Bool) : at' (s.captures pins) 192 false = s.bt.resetPin := at'_map_range (by decide)

theorem captures_alert (s : State) (pins : List Bool) : at' (s.captures pins) 201 false = s.alertLow := at'_map_range (by decide)

theorem captures_trip (s : State) (pins : List Bool) : at' (s.captures pins) 202 false = s.tripLow := at'_map_range (by decide)

theorem captures_pin {s : State} {pins : List Bool} {i : Nat} (hi : i < 204) (hreset : i ≠ 192) (halert : i ≠ 201) (htrip : i ≠ 202) :
    at' (s.captures pins) i false = at' pins i false := by
  have hcell := cell_pinOf hi
  refine (at'_map_range hi).trans ?_
  split
  case h_1 h => rw [h] at hcell; exact absurd hcell.symm hreset
  case h_2 h => rw [h] at hcell; exact absurd hcell.symm halert
  case h_3 h => rw [h] at hcell; exact absurd hcell.symm htrip
  case h_4 => rfl

theorem alertLow_supplied {s : State} (hon : s.pw.supplied = true) :
    s.alertLow = (((s.pw.state == .p0 || s.pw.state == .p1) && decide (s.ev.held ≠ [])) || decide (s.pw.k ≠ 0) || s.th.trip) := by
  unfold State.alertLow
  rw [hon, Bool.true_and]
  congr 2
  · cases s.ev.held <;> simp
  · by_cases hk : s.pw.k = 0 <;> simp [hk]

theorem tripLow_supplied {s : State} (hon : s.pw.supplied = true) : s.tripLow = s.th.trip := by
  unfold State.tripLow
  rw [hon, Bool.true_and]

/-! ### The instructions (16 R534, Table 16.7) -/

theorem modTap_supplied {s : State} {f : Tap → Tap} (hon : s.pw.supplied = true) : s.modTap f = { s with tp := f s.tp } := if_pos hon

/-- A boundary scan loads what is shifted and captures the pins. -/
theorem scan_captures (s : State) (ir : Nat) (d : PinDrive) (pins shifted : List Bool) : s.tp.scan ir d (s.captures pins) shifted =
    { ir := ir, resetHeld := false, cells := cellsOf shifted, captured := s.captures pins, bypassed := false, drive := d } := by
  unfold Tap.scan
  rw [cellsOf_eq_self (length_captures s pins)]

theorem extestWith_low {s : State} (ir : Nat) (d : PinDrive) (pins shifted : List Bool) (hon : s.pw.supplied = true) (hlow : s.bt.resetPin = false) :
    s.extestWith ir d pins shifted = { s with tp :=
      { ir := ir, resetHeld := false, cells := cellsOf shifted, captured := s.captures pins, bypassed := false, drive := d } } := by
  unfold State.extestWith State.pinsFree
  rw [modTap_supplied hon, hlow, Bool.not_false, if_pos rfl, scan_captures]

theorem extestWith_high {s : State} (ir : Nat) (d : PinDrive) (pins shifted : List Bool) (hon : s.pw.supplied = true) (hhigh : s.bt.resetPin = true) :
    s.extestWith ir d pins shifted = { s with tp := s.tp.bypass ir } := by
  unfold State.extestWith State.pinsFree
  rw [modTap_supplied hon, hhigh]
  rfl

theorem exec_clamp {s : State} (hon : s.pw.supplied = true) : exec .clamp s =
    .next { s with tp := if s.bt.resetPin then s.tp.bypass 0x04 else { s.tp.bypass 0x04 with drive := .cells } } := by
  refine congrArg Host.Outcome.next ((modTap_supplied hon).trans ?_)
  unfold State.pinsFree
  cases s.bt.resetPin <;> rfl

theorem exec_highz {s : State} (hon : s.pw.supplied = true) : exec .highz s =
    .next { s with tp := if s.bt.resetPin then s.tp.bypass 0x05 else { s.tp.bypass 0x05 with drive := .highz } } := by
  refine congrArg Host.Outcome.next ((modTap_supplied hon).trans ?_)
  unfold State.pinsFree
  cases s.bt.resetPin <;> rfl

/-- An opcode outside the table selects the bypass register. -/
theorem exec_bypass {s : State} {op : Nat} (hon : s.pw.supplied = true) (hop : op < 256) (hlist : op ∉ tapOpcodes) :
    exec (.bypass op) s = .next { s with tp := s.tp.bypass op } :=
  congrArg Host.Outcome.next ((if_neg (by simpa using ⟨hlist, hop⟩)).trans (modTap_supplied hon))

/-- Settles O22. -/
theorem tapInstructionsActAsTheTableSays : Obligations.TapInstructionsActAsTheTableSays := by
  unfold Obligations.TapInstructionsActAsTheTableSays
  refine ⟨fun l => ⟨length_cellsOf l, fun i hi => cellsOf_at hi⟩, fun s pins hon => ?captured, fun s pins shifted hon hlow => ?low,
    fun s pins shifted hon hhigh => ?high, fun s pins shifted hon => ⟨?sample, ?idcode, ?trst⟩, fun s op hon hop hlist => exec_bypass hon hop hlist⟩
  case captured =>
    exact ⟨length_captures s pins, (captures_alert s pins).trans (alertLow_supplied hon), (captures_trip s pins).trans (tripLow_supplied hon),
      captures_resetN s pins, fun i hi h1 h2 h3 => captures_pin hi h1 h2 h3⟩
  case low =>
    refine ⟨congrArg _ (extestWith_low 0x00 .cells pins shifted hon hlow), congrArg _ (extestWith_low 0x09 .pulse pins shifted hon hlow),
      congrArg _ (extestWith_low 0x0A .train pins shifted hon hlow), ?_, ?_⟩
    · rw [exec_clamp hon, hlow]; rfl
    · rw [exec_highz hon, hlow]; rfl
  case high =>
    refine ⟨congrArg _ (extestWith_high 0x00 .cells pins shifted hon hhigh), congrArg _ (extestWith_high 0x09 .pulse pins shifted hon hhigh),
      congrArg _ (extestWith_high 0x0A .train pins shifted hon hhigh), ?_, ?_⟩
    · rw [exec_clamp hon, hhigh]; rfl
    · rw [exec_highz hon, hhigh]; rfl
  case sample => exact congrArg Host.Outcome.next ((modTap_supplied hon).trans (by rw [scan_captures]))
  case idcode => exact congrArg Host.Outcome.next (modTap_supplied hon)
  case trst => exact congrArg Host.Outcome.next (modTap_supplied hon)

/-! ### The I3C target (16 R532, R533) -/

theorem fld_append_left {x y : Bytes} {off len : Nat} (h : off + len ≤ x.length) : fld (x ++ y) off len = fld x off len := by
  unfold fld slice
  rw [List.drop_append_of_le_length (by omega), List.take_append_of_le_length (by simp; omega)]

theorem fld_whole {x : Bytes} : fld x 0 x.length = leNat x := by unfold fld slice; simp

/-- The writes of a private write's whole groups, each with the pointer that it expects. -/
def i3cWords (bytes : Bytes) : List (Nat × Nat) :=
  (List.range (bytes.length / 4 - 1)).map fun i => (i3cPointer (fld bytes 0 4) i, fld bytes (4 + 4 * i) 4)

/-- Up to three trailing bytes are discarded. -/
theorem i3cWords_trailing {x rest : Bytes} (hx : x.length % 4 = 0) (h4 : 4 ≤ x.length) (hrest : rest.length < 4) :
    i3cWords (x ++ rest) = i3cWords x := by
  have hlen : (x ++ rest).length / 4 = x.length / 4 := by rw [List.length_append]; omega
  unfold i3cWords
  rw [hlen, fld_append_left h4]
  refine List.map_congr_left fun i hi => ?_
  have := List.mem_range.1 hi
  rw [fld_append_left (by omega)]

/-- One whole group more is one write more, at the pointer behind those before it. -/
theorem i3cWords_group {x g : Bytes} (hx : x.length % 4 = 0) (h4 : 4 ≤ x.length) (hg : g.length = 4) :
    i3cWords (x ++ g) = i3cWords x ++ [((fld x 0 4 + (x.length - 4)) % 2 ^ 32, leNat g)] := by
  obtain ⟨k, hk⟩ : ∃ k, x.length = 4 + 4 * k := ⟨x.length / 4 - 1, by omega⟩
  have hlong : (x ++ g).length / 4 - 1 = k + 1 := by rw [List.length_append]; omega
  have hshort : x.length / 4 - 1 = k := by omega
  have hlast : fld (x ++ g) (4 + 4 * k) 4 = leNat g := (fld_skip hk 0).trans (hg ▸ fld_whole)
  unfold i3cWords
  rw [hlong, hshort, List.range_succ, List.map_append, fld_append_left h4]
  refine congrArg₂ _ (List.map_congr_left fun i hi => ?_) ?_
  · have := List.mem_range.1 hi
    rw [fld_append_left (by omega)]
  · rw [List.map_singleton, hlast, hk]
    unfold i3cPointer
    rw [Nat.add_sub_cancel_left]

/-- The target as a private write has set its pointer. -/
def State.pointedAt (s : State) (base : Nat) : State := s.i3cAnswers.modI3c fun t => { t with pointer := base }

theorem exec_i3cPrivateWrite {s : State} {bytes : Bytes} (hon : s.pw.supplied = true) (h4 : 4 ≤ bytes.length) :
    exec (.i3cPrivateWrite bytes) s = .next ((i3cWords bytes).foldl State.i3cPut (s.pointedAt (fld bytes 0 4))) :=
  if_neg (by simp [hon, h4])

theorem exec_i3cPrivateRead {s : State} (n : Nat) (hon : s.pw.supplied = true) :
    exec (.i3cPrivateRead n) s = .next ((List.range n).foldl (fun st _ => st.i3cGet) s.i3cAnswers) :=
  congrArg Host.Outcome.next (if_pos hon)

theorem i3cRead_eq (t : State) (a : Nat) :
    t.i3cRead a = if (regInfo a).isNone then 0 else if alwaysOn a || t.hcoreRuns then t.readReg a else 0xFFFFFFFF := by
  unfold State.i3cRead
  cases regInfo a <;> rfl

/-- A private write of a group more, where the writes before it have ended in `t`. -/
theorem exec_i3cPrivateWrite_group {s t : State} {x g rest : Bytes} (hon : s.pw.supplied = true) (hx : x.length % 4 = 0) (h4 : 4 ≤ x.length)
    (hg : g.length = 4) (hrest : rest.length < 4) (ht : exec (.i3cPrivateWrite x) s = .next t) :
    exec (.i3cPrivateWrite (x ++ g ++ rest)) s = .next (t.i3cPut ((fld x 0 4 + (x.length - 4)) % 2 ^ 32, leNat g)) := by
  rw [exec_i3cPrivateWrite hon h4] at ht
  obtain rfl := Host.Outcome.next.inj ht
  have hlen : (x ++ g).length = x.length + 4 := by rw [List.length_append, hg]
  rw [exec_i3cPrivateWrite hon (by rw [List.length_append]; omega), i3cWords_trailing (by omega) (by omega) hrest, i3cWords_group hx h4 hg,
    fld_append_left (by omega), fld_append_left h4, List.foldl_append]
  rfl

/-- Settles O23. -/
theorem i3cTransfersMoveThePointer : Obligations.I3cTransfersMoveThePointer := by
  unfold Obligations.I3cTransfersMoveThePointer
  refine fun s hon => ⟨fun addr => congrArg Host.Outcome.next (if_pos hon), fun a ha => ⟨?pointer, fun rest hrest => ?trailing,
    fun t body g rest hbody hg hrest ht => ?group⟩, exec_i3cPrivateRead 0 hon, fun n t ht => ?read⟩
  case pointer =>
    rw [exec_i3cPrivateWrite hon (by omega), ← ha, fld_whole]
    unfold i3cWords
    rw [ha]
    rfl
  case trailing =>
    rw [exec_i3cPrivateWrite hon (by rw [List.length_append]; omega), exec_i3cPrivateWrite hon (by omega),
      i3cWords_trailing (by omega) (by omega) hrest, fld_append_left (by omega)]
  case group =>
    have hlen : (a ++ body).length = 4 + body.length := by rw [List.length_append, ha]
    have hbase : fld (a ++ body) 0 4 = leNat a := (fld_append_left (by omega)).trans (ha ▸ fld_whole)
    rw [exec_i3cPrivateWrite_group hon (by omega) (by omega) hg hrest ht, hlen, hbase, Nat.add_sub_cancel_left]
    unfold State.i3cPut
    by_cases hp : t.i3.pointer = (leNat a + body.length) % 2 ^ 32
    · rw [if_neg (by simpa using hp), if_pos hp, hp]; rfl
    · rw [if_pos hp, if_neg hp]
  case read =>
    rw [exec_i3cPrivateRead n hon] at ht
    obtain rfl := Host.Outcome.next.inj ht
    rw [exec_i3cPrivateRead _ hon, List.range_succ, List.foldl_append, ← i3cRead_eq]
    rfl

end Sys2Proof.Machine
end

section
/-! PROOFS. O28: the Survey ADCs' sequences, injected conversions and results (15 R510-R514). -/

set_option Elab.async false

namespace Sys2Proof.Machine

/-! ### SADC_CTL and SADC_INJ (15 R511-R513) -/

theorem adcBase_lt_of {n : Nat} (h : n < 5) : AtAdcCtl (adcBase n) := by unfold AtAdcCtl adcBase; omega

/-- The registers of a sequence are not that of its control. -/
theorem adcSeq_store_ctl (s : State) (n v : Nat) : (s.store (adcBase n) v).adcSeq n = s.adcSeq n := by
  unfold State.adcSeq
  refine List.map_congr_left fun k _ => ?_
  rw [stored_store_ne _ _ _ _ (by omega)]

/-- The ADC after a write of SADC_CTL whose actions are still to come: SETTLED clears where EN rises or REF moves (15 R511). -/
def Adc.unsettled (d : Adc) (moved : Bool) (tick : Nat) : Adc :=
  { d with settled := if moved then false else d.settled, since := if moved then tick else d.since }

/-- EN rises or REF moves. -/
def adcMoved (old new : Nat) : Bool := (bit new 0 && !bit old 0) || bits new 1 2 != bits old 1 2

theorem putRegister_adcCtl (s : State) {n : Nat} (v : Nat) (hn : n < 5) : s.putRegister .firmware (adcBase n) v = s.writeAdcCtl n v := by
  have hreg : (regInfo (adcBase n)).isNone = false := by rw [regInfo_adcCtl (adcBase_lt_of hn)]; rfl
  have hdiv : (adcBase n - 0x10000) / 0x1000 = n := by unfold adcBase; omega
  have hbase : adcBase n = 0x10000 + 0x1000 * n := rfl
  unfold State.putRegister
  rw [hreg, if_neg (by decide), if_neg (by omega), if_neg (by omega), if_neg (by omega), if_neg (by omega), if_pos (by omega), hdiv]

theorem regInfo_adcInj : ∀ n < 5, (regInfo (adcBase n + 0xC0)).isNone = false := by decide

theorem putRegister_adcInj (s : State) {n : Nat} (v : Nat) (hn : n < 5) : s.putRegister .firmware (adcBase n + 0xC0) v =
    (s.store (adcBase n + 0xC0) (writtenValue (adcBase n + 0xC0) (s.stored (adcBase n + 0xC0)) v)).adcActions n (if bit v 17 then [.go] else []) := by
  have hdiv : (adcBase n + 0xC0 - 0x10000) / 0x1000 = n := by unfold adcBase; omega
  have hbase : adcBase n = 0x10000 + 0x1000 * n := rfl
  unfold State.putRegister
  rw [regInfo_adcInj n hn, if_neg (by decide), if_neg (by omega), if_neg (by omega), if_neg (by omega), if_neg (by omega), if_neg (by omega),
    if_pos (by omega), hdiv]

/-- Outside a trace the actions of a write are performed at once (15 R515). -/
theorem adc_adcActions {s : State} {n : Nat} (acts : List AdcAction) (hlen : n < s.adcs.length) (htrace : (s.adc n).trace = false) :
    (s.adcActions n acts).adc n = acts.foldl (fun x a => x.act (s.stored (adcBase n)) (s.adcSeq n) a) (s.adc n) := by
  unfold State.adcActions
  rw [adc_mod _ _ hlen, if_neg (by simp [htrace])]

/-- The actions that a write of SADC_CTL asks for. -/
def ctlActions (v : Nat) : List AdcAction := (if bit v 8 then [.start] else []) ++ (if bit v 9 then [.stop] else [])

/-- SADC_CTL stored, its actions still to come. -/
def State.ctlWritten (s : State) (n new : Nat) : State :=
  (s.store (adcBase n) new).modAdc n fun d =>
    if adcMoved (s.stored (adcBase n)) new && !d.trace then { d with settled := false, since := s.tm.tick } else d

theorem writeAdcCtl_eq (s : State) (n v : Nat) :
    s.writeAdcCtl n v = (s.ctlWritten n (writtenValue (adcBase n) (s.stored (adcBase n)) v)).adcActions n (ctlActions v) := rfl

theorem ctlWritten_stored (s : State) (n : Nat) {new : Nat} (h : new < 2 ^ 32) : (s.ctlWritten n new).stored (adcBase n) = new :=
  stored_store_eq s _ _ h

theorem ctlWritten_adcSeq (s : State) (n new : Nat) : (s.ctlWritten n new).adcSeq n = s.adcSeq n := adcSeq_store_ctl s n new

theorem ctlWritten_adc {s : State} {n : Nat} (new : Nat) (hlen : n < s.adcs.length) (htrace : (s.adc n).trace = false) :
    (s.ctlWritten n new).adc n = (s.adc n).unsettled (adcMoved (s.stored (adcBase n)) new) s.tm.tick := by
  refine (adc_mod (s.store (adcBase n) new) _ hlen).trans ?_
  change (if adcMoved _ _ && !(s.adc n).trace then _ else s.adc n) = _
  rw [htrace]
  unfold Adc.unsettled
  cases adcMoved (s.stored (adcBase n)) new <;> rfl

theorem adc_writeAdcCtl {s : State} {n : Nat} {v : Nat} (hv : v < 2 ^ 32) (hlen : n < s.adcs.length) (htrace : (s.adc n).trace = false) :
    (s.writeAdcCtl n v).adc n = (ctlActions v).foldl (fun x a => x.act (writtenValue (adcBase n) (s.stored (adcBase n)) v) (s.adcSeq n) a)
      ((s.adc n).unsettled (adcMoved (s.stored (adcBase n)) (writtenValue (adcBase n) (s.stored (adcBase n)) v)) s.tm.tick) := by
  have hlength : n < (s.ctlWritten n (writtenValue (adcBase n) (s.stored (adcBase n)) v)).adcs.length := by
    unfold State.ctlWritten
    rw [modAdc_length]
    exact hlen
  rw [writeAdcCtl_eq, adc_adcActions _ hlength (by rw [ctlWritten_adc _ hlen htrace]; exact htrace),
    ctlWritten_stored _ _ (writtenValue_lt _ _ _ hv), ctlWritten_adcSeq, ctlWritten_adc _ hlen htrace]

theorem stored_writeAdcCtl {s : State} {n v : Nat} (hv : v < 2 ^ 32) :
    (s.writeAdcCtl n v).stored (adcBase n) = writtenValue (adcBase n) (s.stored (adcBase n)) v :=
  stored_store_eq s _ _ (writtenValue_lt _ _ _ hv)

theorem exec_sadcStart {s : State} {n : Nat} (v : Word) (hn : n < 5) (hf : s.firmwareRuns = true) :
    exec (.sadcStart .firmware n v) s = .next (s.writeAdcCtl n v.toNat) :=
  congrArg Host.Outcome.next ((if_pos hn).trans ((pathWrite_firmware _ _ hf).trans (putRegister_adcCtl s _ hn)))

theorem exec_sadcStop {s : State} {n : Nat} (v : Word) (hn : n < 5) (hf : s.firmwareRuns = true) :
    exec (.sadcStop .firmware n v) s = .next (s.writeAdcCtl n v.toNat) :=
  congrArg Host.Outcome.next ((if_pos hn).trans ((pathWrite_firmware _ _ hf).trans (putRegister_adcCtl s _ hn)))

/-- GO starts an injected conversion of an enabled ADC in which none runs (15 R513). -/
theorem sadcGo_starts {s : State} {n : Nat} (v : Word) (hn : n < 5) (hlen : n < s.adcs.length) (hf : s.firmwareRuns = true)
    (htrace : (s.adc n).trace = false) (hgo : bit v.toNat 17 = true) : ∃ t, exec (.sadcGo .firmware n v) s = .next t ∧
      t.adc n = { s.adc n with injBusy := if bit (s.stored (adcBase n)) 0 then true else (s.adc n).injBusy } := by
  refine ⟨_, congrArg Host.Outcome.next ((if_pos hn).trans ((pathWrite_firmware _ _ hf).trans (putRegister_adcInj s _ hn))), ?_⟩
  refine (adc_adcActions (s := s.store _ _) _ hlen htrace).trans ?_
  rw [hgo, stored_store_ne _ _ _ _ (by omega)]
  generalize State.adcSeq _ n = sq
  change (s.adc n).act (s.stored (adcBase n)) sq .go = _
  unfold Adc.act
  cases bit (s.stored (adcBase n)) 0 <;> cases hbusy : (s.adc n).injBusy <;> simp [← hbusy]

theorem sadcSettled_settles {s : State} {n : Nat} (hrun : s.adcRuns n = true) (hen : bit (s.stored (adcBase n)) 0 = true)
    (htrace : (s.adc n).trace = false) : exec (.sadcSettled n) s =
      .next ((s.advanceTo ((s.adc n).since + settleTicks (bits (s.stored (adcBase n)) 1 2))).modAdc n fun d => { d with settled := true }) :=
  congrArg Host.Outcome.next (if_pos (by rw [hrun, hen, htrace]; rfl))

theorem settleTicks_eq (ref : Nat) : settleTicks ref = 250 * if ref = 0 then 20 else if ref = 1 then 50 else 5 := by
  unfold settleTicks ticksPerUs
  split_ifs <;> rfl

/-! ### Finished conversions (15 R510, R512-R514) -/

/-- An ADC at work is one of those there are. -/
theorem adc_lt_of {s : State} {n : Nat} (h : (s.adc n).busy = true ∨ (s.adc n).injBusy = true) : n < s.adcs.length := by
  by_contra hn
  unfold State.adc at' at h
  rw [List.getD_eq_default _ _ (by omega)] at h
  simp at h

theorem modAdc_modAdc (s : State) (n : Nat) (f g : Adc → Adc) : (s.modAdc n f).modAdc n g = s.modAdc n (g ∘ f) := by
  unfold State.modAdc modAt
  rw [List.modify_modify_eq]

section Conversion

variable {s : State} {n : Nat} (vin vref : Nat) (hn : n < 5) (hrun : s.adcRuns n = true) (hen : bit (s.stored (adcBase n)) 0 = true)
  (htrace : (s.adc n).trace = false)

include hn hrun hen htrace

/-- An injected conversion comes before the sequence's (15 R513). -/
theorem exec_injectedDone (hinj : (s.adc n).injBusy = true) : exec (.sadcConversionDone n vin vref) s =
    let v := adcValue (s.stored (adcBase n + 0xC0)) vin (adcReference (s.stored (adcBase n)) vref)
    let s1 := s.modAdc n fun x => { x with inj := x.inj.put v x.settled, injBusy := false }
    .next (if (s.adc n).settled then s1.compare n 16 v else s1) := by
  change execSadcConversionDone n vin vref s = _
  unfold execSadcConversionDone
  exact (if_neg (by simp [hn, hrun, htrace, hen])).trans (if_pos hinj)

theorem exec_sequenceDone (hinj : (s.adc n).injBusy = false) (hbusy : (s.adc n).busy = true) : exec (.sadcConversionDone n vin vref) s =
    let v := adcValue (at' (s.adc n).passSeq (s.adc n).entry 0).toNat vin (adcReference (s.stored (adcBase n)) vref)
    let s2 := s.modAdc n fun x =>
      { x with results := modAt x.results (s.adc n).entry fun r => r.put v x.settled }.advance (s.stored (adcBase n)) (s.adcSeq n)
    .next (if (s.adc n).settled then s2.compare n (s.adc n).entry v else s2) := by
  change execSadcConversionDone n vin vref s = _
  unfold execSadcConversionDone
  rw [if_neg (by simp [hn, hrun, htrace, hen]), if_neg (by simp [hinj]), if_pos hbusy]
  dsimp only
  rw [modAdc_modAdc]
  rfl

end Conversion

/-- A pass goes to its next entry, and after its last one again to entry 0 with CONT, or to rest (15 R512). -/
theorem advance_running {d : Adc} (ctl : Nat) (sq : List Word) (h : d.stopping = false) : d.advance ctl sq =
    if d.entry = d.passLen then
      if bit ctl 3 then { d with passes := (d.passes + 1) % 65536 }.beginPass ctl sq
      else { d with passes := (d.passes + 1) % 65536, busy := false, entry := 0 }
    else { d with entry := d.entry + 1 } := by
  unfold Adc.advance
  by_cases hlast : d.entry = d.passLen <;> simp [hlast, h]

theorem adcValue_of_reference {e vin vref : Nat} (he : bits e 0 5 < 16) (hv : 0 < vref) :
    adcValue e vin vref = min 4095 (roundEven (4096 * 2 ^ bits e 5 2 * vin : Nat) vref).toNat :=
  (if_neg (by omega)).trans (if_neg (by omega))

/-- Settles O28. -/
theorem surveyConversionsFollowTheSequence : Obligations.SurveyConversionsFollowTheSequence := by
  unfold Obligations.SurveyConversionsFollowTheSequence
  refine ⟨fun s n v hn hlen hf htrace => ⟨fun hstart hstop hen => ?start, fun hstart hstop => ?stop⟩,
    fun s n v hn hlen hf htrace hgo => sadcGo_starts v hn hlen hf htrace hgo, fun s n hrun hen htrace => ?settled,
    fun s n vin vref hn hrun hen htrace => ⟨fun hinj => ?injected, fun hinj hbusy hgoes => ?sequence⟩, fun e vin vref => adcValue_of_reference⟩
  case start =>
    refine ⟨_, exec_sadcStart v hn hf, stored_writeAdcCtl v.isLt, ?_⟩
    rw [adc_writeAdcCtl v.isLt hlen htrace, ctlActions, hstart, hstop]
    exact if_pos hen
  case stop =>
    refine ⟨_, exec_sadcStop v hn hf, stored_writeAdcCtl v.isLt, ?_⟩
    rw [adc_writeAdcCtl v.isLt hlen htrace, ctlActions, hstart, hstop]
    change (if (s.adc n).busy then _ else _) = _
    cases hb : (s.adc n).busy <;> simp [Adc.unsettled, adcMoved, hb]
  case settled =>
    refine ⟨_, sadcSettled_settles hrun hen htrace, ?_⟩
    obtain ⟨m, hadv, hm⟩ := advanceTo_spec s ((s.adc n).since + settleTicks (bits (s.stored (adcBase n)) 1 2))
    rw [settleTicks_eq] at hm
    rw [hadv]
    exact ⟨rfl, hm⟩
  case injected =>
    have hlen := adc_lt_of (.inr hinj)
    exact ⟨_, rfl, adc_mod s _ hlen, fun m hm => adc_mod_ne s _ hm, exec_injectedDone vin vref hn hrun hen htrace hinj⟩
  case sequence =>
    have hlen := adc_lt_of (.inl hbusy)
    have hexec := exec_sequenceDone vin vref hn hrun hen htrace hinj hbusy
    refine ⟨fun hmore => ?_, fun hlast hrest => ?_, fun hlast hcont => ?_⟩ <;>
      refine ⟨_, rfl, (adc_mod s _ hlen).trans ((advance_running _ _ (by exact hgoes)).trans ?_), fun m hm => adc_mod_ne s _ hm, hexec⟩
    · exact if_neg hmore
    · exact (if_pos hlast).trans (if_neg (by simp [hrest]))
    · exact (if_pos hlast).trans (if_pos hcont)

end Sys2Proof.Machine
end

section
/-! PROOFS. O31: the throttle's steps, the samples of the sensors, and the trip (07 R220, 15 R502-R509). -/

set_option Elab.async false

namespace Sys2Proof.Machine

/-! ### The throttle (15 R506, R507) -/

/-- A step up changes the step count, its tick and the records, and begins a throttle at 0. -/
theorem stepUp_spec {u : State} (hk : u.pw.k < 14) : u.stepUp.pw.k = u.pw.k + 1 ∧ u.stepUp.pw.lastK = u.tm.tick ∧ u.stepUp.tm = u.tm ∧
    u.stepUp.pw.duty = u.pw.duty ∧ u.stepUp.sv = u.sv ∧
    (u.pw.k = 0 → ∃ d, u.stepUp.ev.held.getLast? = some ⟨0x0101, 5, u.ev.next, u.time, d⟩) := by
  have hmin : Nat.min 14 (u.pw.k + 1) = u.pw.k + 1 := Nat.min_eq_right hk
  unfold State.stepUp
  rw [hmin]
  by_cases h0 : u.pw.k = 0
  · rw [if_pos h0]
    exact ⟨rfl, rfl, rfl, rfl, rfl, fun _ => ⟨_, raise_last _ _ _ _⟩⟩
  · rw [if_neg h0]
    exact ⟨rfl, rfl, rfl, rfl, rfl, fun h => absurd h h0⟩

theorem stepDown_spec (u : State) : u.stepDown.pw.k = u.pw.k - 1 ∧ u.stepDown.pw.lastK = u.tm.tick ∧ u.stepDown.tm = u.tm ∧
    u.stepDown.sv = u.sv ∧ (u.pw.k = 1 → ∃ d, u.stepDown.ev.held.getLast? = some ⟨0x0102, 5, u.ev.next, u.time, d⟩) := by
  unfold State.stepDown
  by_cases h1 : u.pw.k = 1
  · rw [if_pos h1]
    exact ⟨rfl, rfl, rfl, rfl, fun _ => ⟨_, raise_last _ _ _ _⟩⟩
  · rw [if_neg h1]
    exact ⟨rfl, rfl, rfl, rfl, fun h => absurd h h1⟩

theorem exec_throttleStepTimer_up {s : State} (hcore : s.hcoreRuns = true) (htrig : s.th.anyTrig = true) (hk : s.pw.k < 14) :
    exec .throttleStepTimer s = .next (s.advanceTo (s.pw.lastK + 25000)).stepUp := by
  change execThrottleStepTimer s = _
  unfold execThrottleStepTimer ticks100us
  rw [if_neg (by simp [hcore]), if_pos htrig, if_pos hk]

theorem exec_throttleStepTimer_down {s : State} (hcore : s.hcoreRuns = true) (htrig : s.th.anyTrig = false) (hk : 0 < s.pw.k) :
    exec .throttleStepTimer s = .next (s.advanceTo (max s.pw.lastK s.pw.lastTrigger + 250000)).stepDown := by
  change execThrottleStepTimer s = _
  unfold execThrottleStepTimer ticks1ms
  rw [if_neg (by simp [hcore]), if_neg (by simp [htrig]), if_pos hk]

/-! ### The triggers (15 R506) -/

theorem stepUp_keeps (u : State) : u.stepUp.th = u.th ∧ u.stepUp.pw.stop = u.pw.stop := by
  unfold State.stepUp
  split <;> exact ⟨rfl, rfl⟩

/-- New triggers leave the sensors, the trip and the stop as they are. -/
theorem setTriggers_keeps (u : State) (temp rate curr : Bool) : let t := u.setTriggers temp rate curr
    t.th = { u.th with tempTrig := t.th.tempTrig, rateTrig := t.th.rateTrig, currTrig := t.th.currTrig } ∧ t.pw.stop = u.pw.stop := by
  unfold State.setTriggers
  dsimp only
  split_ifs
  · exact ⟨rfl, rfl⟩
  · rw [(stepUp_keeps _).1, (stepUp_keeps _).2]; exact ⟨rfl, rfl⟩
  · exact ⟨rfl, rfl⟩
  · exact ⟨rfl, rfl⟩

theorem sensorTriggers_keeps (u : State) : u.sensorTriggers.th.sensors = u.th.sensors ∧ u.sensorTriggers.th.trip = u.th.trip ∧
    u.sensorTriggers.th.tripSensor = u.th.tripSensor ∧ u.sensorTriggers.th.tripReading = u.th.tripReading ∧
    u.sensorTriggers.pw.stop = u.pw.stop := by
  unfold State.sensorTriggers
  dsimp only
  obtain ⟨hth, hstop⟩ := setTriggers_keeps u _ _ _
  exact ⟨by rw [hth], by rw [hth], by rw [hth], by rw [hth], hstop⟩

/-- Triggers reach power, the sensors' part and the records alone. -/
theorem sensorTriggers_only (u : State) : Only 22 u u.sensorTriggers := State.setTriggers_only (Only.refl u) (Needs.refl _)

/-! ### Runs that begin again (07 R220) -/

/-- A run whose region has moved more than 1 degC from the temperature of its first fire begins again. -/
def CalRun.watched (r : CalRun) (temp : Int) : CalRun := if 0 < r.fires ∧ r.fires < 320 ∧ 16 < (temp - r.temp).natAbs then { r with fires := 0 } else r

theorem watched_watched (r : CalRun) (temp : Int) : (r.watched temp).watched temp = r.watched temp := by
  unfold CalRun.watched
  by_cases h : 0 < r.fires ∧ r.fires < 320 ∧ 16 < (temp - r.temp).natAbs
  · simp [h]
  · simp only [if_neg h]

theorem tileTemp_of_sensors {t u : State} (h : t.th.sensors = u.th.sensors) (id : TileId) : t.tileTemp id = u.tileTemp id := by
  unfold State.tileTemp State.regionTemp State.sensor State.dieMax State.hottest
  rw [h]

theorem watchRun_th (u : State) (id : TileId) : (u.watchRun id).th = u.th := (State.watchRun_only (Only.refl u) (Needs.refl _)) .thermal rfl

theorem watchRun_wt (u : State) (id : TileId) : (u.watchRun id).wt = { u.wt with franking := (u.watchRun id).wt.franking } := by
  unfold State.watchRun
  split
  · dsimp only
    split_ifs <;> rfl
  · rfl

theorem watchRun_same (u : State) (id : TileId) : ((u.watchRun id).tile id).run = (u.tile id).run.map fun r => r.watched (u.tileTemp id) := by
  unfold State.watchRun
  rcases hrun : (u.tile id).run with _ | r
  · exact hrun
  · dsimp only [Option.map_some]
    unfold CalRun.watched
    by_cases h : 0 < r.fires ∧ r.fires < 320 ∧ 16 < (u.tileTemp id - r.temp).natAbs
    · rw [if_pos h, if_pos h]
      have htile := congrArg Tile.run (tile_mod u id fun x => { x with run := some { r with fires := 0 } })
      split
      · exact htile
      · exact htile
    · rw [if_neg h, if_neg h]; exact hrun

theorem watchRun_other (u : State) {id id' : TileId} (hne : id ≠ id') : (u.watchRun id').tile id = u.tile id := by
  unfold State.watchRun
  rcases (u.tile id').run with _ | r
  · rfl
  · have hother := tile_mod_ne u id' id (fun x => { x with run := some { r with fires := 0 } }) hne
    dsimp only
    split_ifs
    · exact hother
    · exact hother
    · rfl

/-- The runs of a list of tiles watched: the sensors are as they were, and each run is watched once or more. -/
theorem foldl_watchRun (l : List TileId) (u : State) : let t := l.foldl State.watchRun u
    t.th = u.th ∧ t.wt = { u.wt with franking := t.wt.franking } ∧
      ∀ id, (t.tile id).run = if id ∈ l then (u.tile id).run.map fun r => r.watched (u.tileTemp id) else (u.tile id).run := by
  induction l generalizing u with
  | nil => exact ⟨rfl, rfl, fun id => (if_neg (List.not_mem_nil)).symm⟩
  | cons a l ih =>
    obtain ⟨hth, hwt, hruns⟩ := ih (u.watchRun a)
    refine ⟨hth.trans (watchRun_th u a), by rw [List.foldl_cons, hwt, watchRun_wt u a], fun id => (hruns id).trans ?_⟩
    rw [tileTemp_of_sensors (congrArg Thermal.sensors (watchRun_th u a))]
    by_cases ha : id = a
    · subst ha
      rw [watchRun_same, if_pos List.mem_cons_self, Option.map_map]
      simp only [Function.comp_def, watched_watched, ite_self]
    · rw [watchRun_other u ha]
      simp only [List.mem_cons, ha, false_or]

/-- The tiles that hold a run, as a sample visits them. -/
def State.runTiles (s : State) : List TileId := (s.tl.tiles.filter fun t => t.run.isSome).map Tile.id

theorem mem_runTiles {s : State} {id : TileId} {r : CalRun} (h : (s.tile id).run = some r) : id ∈ s.runTiles := by
  unfold State.tile at h
  rcases hfind : s.tl.tiles.find? (fun x => x.id == id) with _ | x
  · rw [hfind] at h; exact absurd h (by exact nofun)
  · rw [hfind] at h
    have hid : x.id = id := by simpa using List.find?_some hfind
    exact List.mem_map.2 ⟨x, List.mem_filter.2 ⟨List.mem_of_find?_eq_some hfind, by rw [show x.run = some r from h]; rfl⟩, hid⟩

theorem runTiles_nil {s : State} (h : ∀ y ∈ s.tl.tiles, y.run = none) : s.runTiles = [] := by
  have hfilter : s.tl.tiles.filter (fun t => t.run.isSome) = [] := List.filter_eq_nil_iff.2 fun y hy => by rw [h y hy]; decide
  unfold State.runTiles
  rw [hfilter]
  rfl

theorem exec_sensorSample_one (i : Nat) (raw : Int) (s : State) : exec (.sensorSample [(i, raw)]) s =
    .next ((s.takeSample (i, raw)).runTiles.foldl State.watchRun (s.takeSample (i, raw))).sensorTriggers := rfl

/-! ### One sample (15 R502-R504, R508) -/

/-- The sensor after a sample. -/
def State.sampledSensor (s : State) (i : Nat) (raw : Int) : Sensor :=
  ((s.sensor i).getD (freshSensor i raw)).sample s.tm.tick raw (s.corrected i raw) (s.dieRuns i) s.tripAt

theorem sensor_idx {s : State} {i : Nat} {x : Sensor} (h : s.sensor i = some x) : x.idx = i := by simpa using List.find?_some h

theorem sampledSensor_idx (s : State) (i : Nat) (raw : Int) : (s.sampledSensor i raw).idx = i := by
  change ((s.sensor i).getD (freshSensor i raw)).idx = i
  rcases h : s.sensor i with _ | x
  · rfl
  · exact sensor_idx h

/-- The sample stored, with its record where the sensor fails, before a trip. -/
def State.sampleStored (s : State) (i : Nat) (raw : Int) : State :=
  let s1 := { s with th := { s.th with sensors := putBy (fun y => y.idx == i) (s.sampledSensor i raw) s.th.sensors } }
  if (s.sampledSensor i raw).failed && !((s.sensor i).getD (freshSensor i raw)).failed then
    s1.raise 0x0107 5 [i, ofSigned 32 (s.sampledSensor i raw).reading] else s1

/-- What a stored sample leaves: all but the sensors and the records. -/
theorem sampleStored_eq (s : State) (i : Nat) (raw : Int) : s.sampleStored i raw = { s with
    th := { s.th with sensors := putBy (fun y => y.idx == i) (s.sampledSensor i raw) s.th.sensors }, ev := (s.sampleStored i raw).ev } := by
  unfold State.sampleStored
  dsimp only
  split <;> rfl

theorem sampleStored_sensor (s : State) (i : Nat) (raw : Int) : (s.sampleStored i raw).sensor i = some (s.sampledSensor i raw) := by
  unfold State.sensor
  rw [sampleStored_eq]
  exact find_putBy _ _ _ (by simp [sampledSensor_idx])

/-- A sample trips when it is the second hot one of a sensor that has not failed. -/
theorem takeSample_eq {s : State} {i : Nat} {raw : Int} (h : s.sampled i = true) : s.takeSample (i, raw) =
    if (s.sampledSensor i raw).hot && ((s.sensor i).getD (freshSensor i raw)).hot && !(s.sampledSensor i raw).failed then
      ({ s.sampleStored i raw with th := { (s.sampleStored i raw).th with
        trip := true, tripSensor := i, tripReading := (s.sampledSensor i raw).reading } }).failStop .trip i (s.sampledSensor i raw).reading
          (s.sampleStored i raw).pw.vinMv
    else s.sampleStored i raw := by
  unfold State.takeSample
  rw [if_neg (by simp [h])]
  rfl

/-- The state that trips: the stored sample with the trip marked. -/
def State.tripped (s : State) (i : Nat) (raw : Int) : State :=
  { s.sampleStored i raw with th := { (s.sampleStored i raw).th with
    trip := true, tripSensor := i, tripReading := (s.sampledSensor i raw).reading } }

/-- A stop leaves the sensors' part, the thermal trip in it. -/
theorem failStop_th (s : State) (c : StopCause) (k : Nat) (r : Int) (v : Nat) : (s.failStop c k r v).th = s.th := rfl

/-- What follows a sample changes power, the sensors' part, the records, the weights and the tiles alone. -/
theorem afterSample_only (u : State) (l : List TileId) : Only 24598 u (l.foldl State.watchRun u).sensorTriggers :=
  State.setTriggers_only
    (Only.foldl (Only.refl u) fun _ _ h => State.watchRun_only h (Needs.sub (Needs.refl 24598) (by decide))) (Needs.sub (Needs.refl 24598) (by decide))

theorem afterSample_spec (u : State) (l : List TileId) : let t := (l.foldl State.watchRun u).sensorTriggers
    t.th.sensors = u.th.sensors ∧ t.th.trip = u.th.trip ∧ t.th.tripSensor = u.th.tripSensor ∧ t.th.tripReading = u.th.tripReading ∧
      t.pw.stop = u.pw.stop := by
  obtain ⟨hsensors, htrip, hsensor, hreading, hstop⟩ := sensorTriggers_keeps (l.foldl State.watchRun u)
  obtain ⟨hth, -, -⟩ := foldl_watchRun l u
  have hpw : (l.foldl State.watchRun u).pw = u.pw :=
    (Only.foldl (Only.refl u) fun _ _ h => State.watchRun_only (K := 24576) h (Needs.refl _)) .power rfl
  rw [hth] at hsensors htrip hsensor hreading
  rw [hpw] at hstop
  exact ⟨hsensors, htrip, hsensor, hreading, hstop⟩

/-- Settles O31. -/
theorem throttleFollowsItsTriggers : Obligations.ThrottleFollowsItsTriggers := by
  unfold Obligations.ThrottleFollowsItsTriggers
  refine ⟨fun s hcore htrig hk => ?up, fun s hcore htrig hk => ?down, fun s i raw hs => ⟨fun hcalm => ?calm, fun hhot hold hgood => ?trip⟩⟩
  case up =>
    obtain ⟨m, hadv, hm⟩ := advanceTo_spec s (s.pw.lastK + 25000)
    obtain ⟨hk1, hlast, htm, hduty, hsv, hrecord⟩ := stepUp_spec (u := s.advanceTo (s.pw.lastK + 25000)) (by rw [hadv]; exact hk)
    refine ⟨_, exec_throttleStepTimer_up hcore htrig hk, ?_⟩
    rw [State.time, htm, hlast, hk1, hduty, hsv]
    rw [hadv] at hrecord ⊢
    exact ⟨rfl, hm, rfl, rfl, rfl, hrecord⟩
  case down =>
    obtain ⟨m, hadv, hm⟩ := advanceTo_spec s (max s.pw.lastK s.pw.lastTrigger + 250000)
    obtain ⟨hk1, hlast, htm, hsv, hrecord⟩ := stepDown_spec (s.advanceTo (max s.pw.lastK s.pw.lastTrigger + 250000))
    refine ⟨_, exec_throttleStepTimer_down hcore htrig hk, ?_⟩
    rw [State.time, htm, hlast, hk1, hsv]
    rw [hadv] at hrecord ⊢
    exact ⟨rfl, hm, rfl, rfl, hrecord⟩
  case calm =>
    have htake : s.takeSample (i, raw) = s.sampleStored i raw := by
      refine (takeSample_eq hs).trans (if_neg ?_)
      rcases hcalm with hcool | hwas | hfailed
      · rw [show (s.sampledSensor i raw).hot = false from decide_eq_false (not_le.2 hcool)]; simp
      · rw [hwas]; simp
      · rw [show (s.sampledSensor i raw).failed = true from hfailed]; simp
    have hstored := sampleStored_eq s i raw
    obtain ⟨hsensors, -, -, -, hstop⟩ := afterSample_spec (s.sampleStored i raw) (s.sampleStored i raw).runTiles
    have honly := afterSample_only (s.sampleStored i raw) (s.sampleStored i raw).runTiles
    have htrig := sensorTriggers_only ((s.sampleStored i raw).runTiles.foldl State.watchRun (s.sampleStored i raw))
    obtain ⟨hth, hwt, hruns⟩ := foldl_watchRun (s.sampleStored i raw).runTiles (s.sampleStored i raw)
    refine ⟨_, s.sampledSensor i raw, by rw [exec_sensorSample_one, htake], ?_, rfl, rfl, rfl, rfl, hstop.trans (by rw [hstored]), ?_, ?_, ?_, ?_⟩
    · rw [State.sensor, hsensors]; exact sampleStored_sensor s i raw
    · rw [honly.sv rfl rfl, hstored]
    · rw [htrig.wt rfl, hwt, hstored]
    · intro hnone
      rw [runTiles_nil (s := s.sampleStored i raw) (by rw [hstored]; exact hnone), List.foldl_nil]
      have hquiet := sensorTriggers_only (s.sampleStored i raw)
      exact ⟨(hquiet.wt rfl).trans (by rw [hstored]), (hquiet .tiles rfl).trans (by rw [hstored])⟩
    · intro id r hrun
      have hrun' : ((s.sampleStored i raw).tile id).run = some r := by rw [tile_of_tl (s := s) (by rw [hstored])]; exact hrun
      rw [tile_of_tl (htrig .tiles rfl), hruns id, if_pos (mem_runTiles hrun'), hrun', tileTemp_of_sensors hsensors]
      rfl
  case trip =>
    have htake : s.takeSample (i, raw) = (s.tripped i raw).failStop .trip i (s.sampledSensor i raw).reading (s.sampleStored i raw).pw.vinMv := by
      refine (takeSample_eq hs).trans (if_pos ?_)
      rw [show (s.sampledSensor i raw).hot = true from decide_eq_true hhot, hold, show (s.sampledSensor i raw).failed = false from hgood]
      rfl
    have hvin : (s.sampleStored i raw).pw.vinMv = s.pw.vinMv := by rw [sampleStored_eq]
    have htime : (s.tripped i raw).time = s.time := by unfold State.tripped; rw [sampleStored_eq]; rfl
    rw [hvin] at htake
    generalize hu : (s.tripped i raw).failStop .trip i (s.sampledSensor i raw).reading s.pw.vinMv = u at htake
    obtain ⟨hstop, -, -, -, hsv, -⟩ := failStop_leaves (s.tripped i raw) .trip i (s.sampledSensor i raw).reading s.pw.vinMv
    have hlast := failStop_last (s.tripped i raw) .trip i (s.sampledSensor i raw).reading s.pw.vinMv
    have hth := failStop_th (s.tripped i raw) .trip i (s.sampledSensor i raw).reading s.pw.vinMv
    rw [hu] at hstop hsv hlast hth
    obtain ⟨-, htrip, hsensor, hreading, hstop'⟩ := afterSample_spec u u.runTiles
    have honly := afterSample_only u u.runTiles
    refine ⟨_, by rw [exec_sensorSample_one, htake], hstop'.trans hstop, by rw [htrip, hth]; rfl, by rw [hsensor, hth]; rfl,
      by rw [hreading, hth]; rfl, ?_, (honly.sv rfl rfl).trans hsv⟩
    rw [show _ = u.bt from honly .boot rfl, hlast, htime]
    rfl

end Sys2Proof.Machine
end

section
/-! PROOFS. O32: the governor's tick and the guards (15 R487, R490, R491). -/

set_option Elab.async false

namespace Sys2Proof.Machine

/-! ### What new triggers reach (15 R506) -/

/-- Of power, new triggers change the throttle's step count and its ticks. -/
def Power.throttled (p q : Power) : Power :=
  { p with k := q.k, lastK := q.lastK, largestK := q.largestK, throttleBegun := q.throttleBegun, lastTrigger := q.lastTrigger }

theorem stepUp_pw (u : State) : u.stepUp.pw = u.pw.throttled u.stepUp.pw := by
  unfold State.stepUp
  split <;> rfl

theorem stepUp_ev (u : State) : u.stepUp.ev = u.ev ∨ (u.pw.k = 0 ∧ ∃ d, u.stepUp.ev = (u.raise 0x0101 5 d).ev) := by
  unfold State.stepUp
  by_cases h : u.pw.k = 0
  · rw [if_pos h]; exact .inr ⟨h, _, rfl⟩
  · rw [if_neg h]; exact .inl rfl

theorem setTriggers_pw (u : State) (temp rate curr : Bool) : (u.setTriggers temp rate curr).pw = u.pw.throttled (u.setTriggers temp rate curr).pw := by
  unfold State.setTriggers
  dsimp only
  split_ifs
  · rfl
  · exact stepUp_pw _
  · rfl
  · rfl

/-- The only record of new triggers is that of a throttle that begins. -/
theorem setTriggers_ev (u : State) (temp rate curr : Bool) : let t := u.setTriggers temp rate curr
    t.ev = u.ev ∨ (u.pw.k = 0 ∧ ∃ d, t.ev = (u.raise 0x0101 5 d).ev) := by
  unfold State.setTriggers
  dsimp only
  split_ifs
  · exact .inl rfl
  · exact stepUp_ev { u with th := { u.th with tempTrig := temp, rateTrig := rate, currTrig := curr } }
  · exact .inl rfl
  · exact .inl rfl

theorem setTriggers_sv_bt (u : State) (temp rate curr : Bool) :
    (u.setTriggers temp rate curr).sv = u.sv ∧ (u.setTriggers temp rate curr).bt = u.bt := by
  have h : Only 22 u (u.setTriggers temp rate curr) := State.setTriggers_only (Only.refl u) (Needs.refl _)
  exact ⟨h.sv rfl rfl, h .boot rfl⟩

/-- What a record makes of the buffer goes by the buffer and the time. -/
theorem raise_ev_of {t u : State} {code source : Nat} {d : List Nat} (hev : t.ev = u.ev) (htm : t.tm = u.tm) :
    (t.raise code source d).ev = (u.raise code source d).ev := by
  unfold State.raise State.time
  rw [hev, htm]

/-- The record that another one follows is still held. -/
theorem last_mem_raise {u : State} {r : Record} (h : u.ev.held.getLast? = some r) (code source : Nat) (d : List Nat) :
    r ∈ (u.raise code source d).ev.held := by
  obtain ⟨older, hheld⟩ := List.getLast?_eq_some_iff.1 h
  unfold State.raise
  dsimp only
  refine List.mem_append.2 (.inl ?_)
  split
  case isTrue hfull =>
    rw [hheld, List.length_append] at hfull
    rw [hheld, List.drop_append_of_le_length (by simp at hfull; omega)]
    simp
  case isFalse => rw [hheld]; simp

/-! ### The governor's step (15 R487, R490) -/

/-- The governor has cause to lower. -/
def State.overLimit (s : State) (old avg : Nat) : Prop := s.effectiveLimit16 < avg ∨ (s.pw.ramp = true ∧ old + 2 * s.tdp < avg)

theorem rampExceeded_iff (s : State) (old avg : Nat) : s.rampExceeded old avg = true ↔ s.pw.ramp = true ∧ old + 2 * s.tdp < avg := by
  unfold State.rampExceeded
  simp

/-- A governor's step reaches its own fields of power. -/
def Power.governed (p q : Power) : Power := { p with duty := q.duty, clkdown := q.clkdown, belowTicks := q.belowTicks, ramp := q.ramp }

theorem lower_governed (p : Power) : p.lower = p.governed p.lower := by
  unfold Power.lower
  split_ifs <;> rfl

theorem lift_governed (duty : Nat) (p : Power) : p.lift duty = p.governed (p.lift duty) := by
  unfold Power.lift
  split_ifs <;> rfl

theorem govern_governed (s : State) (old avg : Nat) : s.govern old avg = { s with pw := s.pw.governed (s.govern old avg).pw } := by
  unfold State.govern
  dsimp only
  split_ifs
  · exact congrArg (fun p : Power => { s with pw := { p with belowTicks := 0 } }) (lower_governed s.pw)
  · exact congrArg (fun p : Power => { s with pw := { p with belowTicks := s.pw.belowTicks + 1 } }) (lift_governed s.slotDuty s.pw)
  · rfl
  · rfl

theorem govern_over {s : State} {old avg : Nat} (h : s.overLimit old avg) :
    (s.govern old avg).pw.duty = s.pw.lower.duty ∧ (s.govern old avg).pw.clkdown = s.pw.lower.clkdown := by
  unfold State.govern
  rw [if_pos (by rw [rampExceeded_iff]; exact h)]
  exact ⟨rfl, rfl⟩

theorem lift_no_lower (duty : Nat) (p : Power) : p.duty ≤ (p.lift duty).duty ∧ (p.lift duty).clkdown ≤ p.clkdown := by
  unfold Power.lift
  split_ifs <;> exact ⟨by simp, by simp⟩

theorem govern_under {s : State} {old avg : Nat} (h : ¬ s.overLimit old avg) :
    s.pw.duty ≤ (s.govern old avg).pw.duty ∧ (s.govern old avg).pw.clkdown ≤ s.pw.clkdown := by
  unfold State.govern
  rw [if_neg (by rw [rampExceeded_iff]; exact h)]
  dsimp only
  split_ifs
  · exact lift_no_lower s.slotDuty s.pw
  · exact ⟨le_rfl, le_rfl⟩
  · exact ⟨le_rfl, le_rfl⟩

theorem lower_duty {p : Power} (h : 1 < p.duty) : p.lower.duty = p.duty - 1 ∧ p.lower.clkdown = p.clkdown := by
  unfold Power.lower
  rw [if_pos h]
  exact ⟨rfl, rfl⟩

theorem lower_clock {p : Power} (h : p.duty ≤ 1) :
    p.lower.duty = p.duty ∧ p.lower.clkdown = if p.clkdown < 12 then p.clkdown + 1 else p.clkdown := by
  unfold Power.lower
  rw [if_neg (by omega)]
  split_ifs <;> exact ⟨rfl, rfl⟩

/-! ### The tick (15 R490, R491) -/

/-- The averages of the last ten ticks, the newest first. -/
def State.newPins (s : State) (v i : Nat) : List Nat := (power16 v i :: s.pw.pins).take 10

/-- The state with the tick's measurements, before the guard or the governor acts. -/
def State.measured (s : State) (v i : Nat) : State :=
  { s with pw := { s.pw with sampled := true, vinMv := v, iinMa := i, pins := s.newPins v i, guardPin := decide (pinLimit16 < power16 v i) } }

/-- The guard's or the governor's answer to a tick, before the current trigger. -/
def State.ticked (s : State) (v i : Nat) : State :=
  if decide (pinLimit16 < power16 v i) then
    let a := { s.measured v i with pw := { (s.measured v i).pw.halve with belowTicks := 0 } }
    if s.pw.guardPin then a else a.raise 0x0104 5 [power16 v i]
  else if s.pw.guardRail then s.measured v i
  else ((s.measured v i).govern (avgList s.pw.pins) (avgList (s.newPins v i))).rampEnds (avgList s.pw.pins) (avgList (s.newPins v i))

/-- Whether the input current is over its limit, or not 500 mA below it once it was (15 R506). -/
def State.currentOver (u : State) (iin : Nat) : Bool :=
  let lim := u.storedField 0x4018 0 16
  if u.th.currTrig then decide (lim ≤ iin + 500) else decide (lim < iin)

theorem exec_governorTick {s : State} (hawake : s.awake = true) (v i : Nat) : exec (.governorTick v i) s =
    .next ((s.ticked v i).setTriggers (s.ticked v i).th.tempTrig (s.ticked v i).th.rateTrig ((s.ticked v i).currentOver i)) := by
  change execGovernorTick v i s = _
  unfold execGovernorTick
  rw [if_neg (by simp [hawake])]
  rfl

/-- A tick measures, and changes besides what the guard and the governor act on. -/
theorem ticked_pw (s : State) (v i : Nat) : (s.ticked v i).pw = (s.measured v i).pw.governed (s.ticked v i).pw := by
  unfold State.ticked
  split_ifs
  · rfl
  · rfl
  · rfl
  · rw [govern_governed]; rfl

theorem ticked_frame (s : State) (v i : Nat) : s.ticked v i = { s with pw := (s.ticked v i).pw, ev := (s.ticked v i).ev } := by
  unfold State.ticked
  split_ifs
  · rfl
  · rfl
  · rfl
  · rw [govern_governed]; rfl

theorem ticked_ev {s : State} {v i : Nat} (h : power16 v i ≤ pinLimit16 ∨ s.pw.guardPin = true) : (s.ticked v i).ev = s.ev := by
  unfold State.ticked
  split_ifs with hover hheld
  · rfl
  · exact absurd h (by simp only [decide_eq_true_eq] at hover; simp [hover, hheld])
  · rfl
  · rw [govern_governed]; rfl

theorem ticked_guard {s : State} {v i : Nat} (h : pinLimit16 < power16 v i) :
    (s.ticked v i).pw.duty = max 1 (s.pw.duty / 2) ∧ (s.ticked v i).pw.clkdown = s.pw.clkdown := by
  unfold State.ticked
  rw [if_pos (decide_eq_true h)]
  dsimp only
  split_ifs <;> exact ⟨rfl, rfl⟩

theorem ticked_record {s : State} {v i : Nat} (h : pinLimit16 < power16 v i) (hfree : s.pw.guardPin = false) :
    (s.ticked v i).ev.held.getLast? = some ⟨0x0104, 5, s.ev.next, s.time, [power16 v i]⟩ := by
  unfold State.ticked
  rw [if_pos (decide_eq_true h), hfree]
  exact raise_last _ _ _ _

theorem ticked_rail {s : State} {v i : Nat} (h : power16 v i ≤ pinLimit16) (hrail : s.pw.guardRail = true) : s.ticked v i = s.measured v i := by
  unfold State.ticked
  rw [if_neg (by simpa using h), if_pos hrail]

theorem ticked_governs {s : State} {v i : Nat} (h : power16 v i ≤ pinLimit16) (hrail : s.pw.guardRail = false) :
    s.ticked v i = ((s.measured v i).govern (avgList s.pw.pins) (avgList (s.newPins v i))).rampEnds (avgList s.pw.pins)
      (avgList (s.newPins v i)) := by
  unfold State.ticked
  rw [if_neg (by simpa using h), if_neg (by simp [hrail])]

/-! ### The rail-current guard (15 R491) -/

theorem exec_railCurrentGuard_below {s : State} {q : Nat} (hawake : s.awake = true) (hq : q ≤ 4 * 1650) :
    exec (.railCurrentGuard q) s = .next { s with pw := { s.pw with railQuarterAmps := q, guardRail := false } } := by
  change execRailCurrentGuard q s = _
  have hno : decide (railLimit4 < q) = false := decide_eq_false (by unfold railLimit4; omega)
  unfold execRailCurrentGuard
  rw [if_neg (by simp [hawake]), hno]
  rfl

theorem exec_railCurrentGuard_above {s : State} {q : Nat} (hawake : s.awake = true) (hq : 4 * 1650 < q) :
    let held : State := { s with pw := { s.pw with railQuarterAmps := q, guardRail := true, duty := max 1 (s.pw.duty / 2) } }
    exec (.railCurrentGuard q) s = .next (if s.pw.guardRail then held else held.raise 0x0105 5 [q]) := by
  change execRailCurrentGuard q s = _
  have hyes : decide (railLimit4 < q) = true := decide_eq_true (by unfold railLimit4; omega)
  unfold execRailCurrentGuard
  rw [if_neg (by simp [hawake]), hyes]
  rfl

/-- Settles O32. -/
theorem governorAndGuardsHoldThePower : Obligations.GovernorAndGuardsHoldThePower := by
  unfold Obligations.GovernorAndGuardsHoldThePower
  refine ⟨fun s v i hawake => ?tick, fun s q => exec_railCurrentGuard_below, fun s q => exec_railCurrentGuard_above⟩
  have hexec := exec_governorTick hawake v i
  have hpw := setTriggers_pw (s.ticked v i) (s.ticked v i).th.tempTrig (s.ticked v i).th.rateTrig ((s.ticked v i).currentOver i)
  have hev := setTriggers_ev (s.ticked v i) (s.ticked v i).th.tempTrig (s.ticked v i).th.rateTrig ((s.ticked v i).currentOver i)
  obtain ⟨hsv, hbt⟩ := setTriggers_sv_bt (s.ticked v i) (s.ticked v i).th.tempTrig (s.ticked v i).th.rateTrig ((s.ticked v i).currentOver i)
  have hframe := ticked_frame s v i
  have hgoverned := ticked_pw s v i
  have htick : (16 * 1250 : Nat) = pinLimit16 := rfl
  generalize (s.ticked v i).setTriggers _ _ _ = t at *
  have hduty : t.pw.duty = (s.ticked v i).pw.duty := by rw [hpw]; rfl
  have hclk : t.pw.clkdown = (s.ticked v i).pw.clkdown := by rw [hpw]; rfl
  refine ⟨t, hexec, by rw [hpw, hgoverned]; rfl, by rw [hpw, hgoverned]; rfl, by rw [hpw, hgoverned]; rfl, by rw [hpw, hgoverned]; rfl,
    by rw [hpw, hgoverned]; rfl, by rw [hpw, hgoverned]; rfl, by rw [hsv, hframe], by rw [hbt, hframe], ?_⟩
  rw [hduty, hclk, htick]
  refine ⟨fun h => ticked_guard h, fun h hfree => ?record, fun h => ?records, fun h hrail => ?rail, fun h hrail habove =>
    ⟨fun hd => ?duty, fun hd => ?clock⟩, fun h hrail hbelow => ?under⟩
  case record =>
    refine ⟨⟨0x0104, 5, s.ev.next, s.time, [power16 v i]⟩, ?_, rfl, rfl, rfl, rfl⟩
    rcases hev with hsame | ⟨-, d, hraised⟩
    · rw [hsame]; exact List.mem_of_getLast? (ticked_record h hfree)
    · rw [hraised]; exact last_mem_raise (ticked_record h hfree) _ _ _
  case records =>
    have hsame := ticked_ev h
    rcases hev with hquiet | ⟨hk, d, hraised⟩
    · exact .inl (hquiet.trans hsame)
    · refine .inr ⟨by rw [hgoverned] at hk; exact hk, d, hraised.trans (raise_ev_of hsame (by rw [hframe]))⟩
  case rail => rw [ticked_rail h hrail]; exact ⟨rfl, rfl⟩
  case duty =>
    rw [ticked_governs h hrail]
    obtain ⟨h1, h2⟩ := govern_over (s := s.measured v i) (old := avgList s.pw.pins) (avg := avgList (s.newPins v i)) habove
    obtain ⟨h3, h4⟩ := lower_duty (p := (s.measured v i).pw) hd
    exact ⟨h1.trans h3, h2.trans h4⟩
  case clock =>
    rw [ticked_governs h hrail]
    obtain ⟨h1, h2⟩ := govern_over (s := s.measured v i) (old := avgList s.pw.pins) (avg := avgList (s.newPins v i)) habove
    obtain ⟨h3, h4⟩ := lower_clock (p := (s.measured v i).pw) hd
    exact ⟨h1.trans h3, h2.trans h4⟩
  case under =>
    rw [ticked_governs h hrail]
    exact govern_under (s := s.measured v i) hbelow

end Sys2Proof.Machine
end

section
/-! PROOFS. O33: the wakes, auto-hold, and an entry that comes too late (15 R492, R494, R497, R501). -/

set_option Elab.async false

namespace Sys2Proof.Machine

/-! ### Arrival in the state that a wake leads to (15 R497) -/

/-- The state and the cause that power shows. -/
def Power.shows (p : Power) (cause : Nat) (goal : PowerState) : Prop := p.wake = cause ∧ p.state = goal

theorem adcReturn_pw (s : State) (n : Nat) : (s.adcReturn n).pw = s.pw := (State.adcReturn_only (K := 64) (Only.refl s) (Needs.refl _)) .power rfl

theorem arrive_shows (s : State) (cause : Nat) (goal : PowerState) : (s.arrive cause goal).pw.shows cause goal := by
  cases goal with
  | p0 =>
    have hpw := foldl_keep State.pw State.adcReturn (List.range 4) { s with pw := { s.pw with
      state := .p0, wake := cause, ramp := true, p0Mark := s.tm.tick, lastActivity := s.tm.tick, hold := .none } } adcReturn_pw
    exact ⟨congrArg Power.wake hpw, congrArg Power.state hpw⟩
  | _ => exact ⟨rfl, rfl⟩

/-- All but power and the Survey ADCs stands at the arrival. -/
theorem arrive_only (s : State) (cause : Nat) (goal : PowerState) : Only 66 s (s.arrive cause goal) :=
  State.arrive_only (Only.refl s) (Needs.refl _)

/-- What follows the arrival leaves power as it is. -/
theorem afterNap_pw (s : State) : ((s.adcReturn 4).resumeLease.expireAllHeld.retrace).pw = s.pw := by
  have honly : Only 73296 s ((s.adcReturn 4).resumeLease.expireAllHeld.retrace) :=
    State.retrace_only (State.expireAllHeld_only (State.resumeLease_only (State.adcReturn_only (Only.refl s)
      (Needs.sub (Needs.refl 73296) (by decide))) (Needs.sub (Needs.refl 73296) (by decide))) (Needs.sub (Needs.refl 73296) (by decide)))
      (Needs.sub (Needs.refl 73296) (by decide))
  exact honly .power rfl

theorem wakeP2_shows (s : State) (cause : Nat) : (s.wakeP2 cause).pw.shows cause s.wakeTarget := by
  have hsend (u : State) : u.sendWakes.pw = u.pw := (State.sendWakes_only (K := 131072) (Only.refl u) (Needs.refl _)) .power rfl
  unfold State.wakeP2
  rw [hsend, afterNap_pw]
  exact arrive_shows _ _ _

theorem driveWakes_bt_cl (s : State) : s.driveWakes.bt = s.bt ∧ s.driveWakes.cl = s.cl := by
  unfold State.driveWakes
  split <;> exact ⟨rfl, rfl⟩

theorem wakeTarget_of_bt {t u : State} (h : t.bt.drained = u.bt.drained) : t.wakeTarget = u.wakeTarget := by
  unfold State.wakeTarget State.isDrained
  rw [h]

theorem wakeP3_shows (s : State) (cause : Nat) : (s.wakeP3 cause).pw.shows cause s.wakeTarget := by
  unfold State.wakeP3
  rw [afterNap_pw, ← wakeTarget_of_bt (congrArg Boot.drained (driveWakes_bt_cl s).1)]
  exact arrive_shows _ _ _

/-! ### The return from P4 Seal (15 R499, 13 R459, 07 R212) -/

/-- The module as it leaves P4 Seal, before firmware reads the franking store. -/
def State.unsealed (s : State) : State :=
  let s0 := s.restoreRetained.driveWakes
  { s0 with
    fb := { s0.fb with ports := s0.unStowPorts },
    dp := { s0.dp with ports := s0.dp.ports.map DspPort.unsealed },
    cl := { s0.cl with pendingTrace := true },
    bt := { s0.bt with run := .running, hbmReady := true, watchdogs := [s.tm.tick, s.tm.tick, s.tm.tick, s.tm.tick] },
    tm := { s0.tm with boundFrom := s0.tm.tick } }

theorem unsealed_drained (s : State) : s.unsealed.bt.drained = s.bt.drained := by
  have h := congrArg Boot.drained (driveWakes_bt_cl s.restoreRetained).1
  exact h

theorem unsealed_store (s : State) : s.unsealed.cl.store = s.cl.store := by
  have h := congrArg Calib.store (driveWakes_bt_cl s.restoreRetained).2
  exact h

theorem wakeP4_eq (s : State) (cause : Nat) : s.wakeP4 cause = (s.unsealed.arrive cause s.wakeTarget).restoreFranking.commitSeal :=
  congrArg (fun g => (s.unsealed.arrive cause g).restoreFranking.commitSeal) (wakeTarget_of_bt (unsealed_drained s))

theorem arrived_storeBad (s : State) (cause : Nat) : (s.unsealed.arrive cause s.wakeTarget).storeBad = s.storeBad := by
  have hcl : (s.unsealed.arrive cause s.wakeTarget).cl = s.unsealed.cl := arrive_only _ _ _ .calibration rfl
  unfold State.storeBad
  rw [hcl, unsealed_store]

theorem wakeP4_shows {s : State} (cause : Nat) (hgood : s.storeBad = none) : (s.wakeP4 cause).pw.shows cause s.wakeTarget := by
  rw [wakeP4_eq, State.restoreFranking, arrived_storeBad, hgood]
  exact arrive_shows _ _ _

/-- Up to its entry to P1 Hold, a drain leaves power as it is. -/
theorem drain_enters_powered {s : State} (h : s.isDrained = false) (cause code source loc : Nat) :
    ∃ u : State, u.pw = s.pw ∧ s.drain cause code source loc = u.enterP1 .drained := by
  have hK : Needs 187960 187960 := Needs.refl _
  suffices hu : ∃ u : State, Only 187960 s u ∧ s.drain cause code source loc = u.enterP1 .drained by
    obtain ⟨u, honly, heq⟩ := hu
    exact ⟨u, honly .power rfl, heq⟩
  unfold State.drain
  rw [if_neg (by simp [h])]
  dsimp only
  refine ⟨_, ?_, rfl⟩
  with_reducible repeat' first
    | exact Only.refl _ | apply State.async_only | apply State.reportAbort_only | apply State.raise_only | apply State.deliverAll_only
    | apply State.voidStep_only | apply State.endJobs_only | apply State.notifyJob_only | apply State.notifyPorts_only
    | refine Only.foldl ?_ fun _ _ _ => ?_ | apply Only.cond | assumption | exact Needs.sub hK (by decide)
    | fail_if_no_progress refine Only.mk' ?_

/-- The end of P0 Run keeps the cause of the last wake. -/
theorem leaveRun_wake (s : State) : s.leaveRun.pw.wake = s.pw.wake := by
  unfold State.leaveRun
  split
  · rfl
  · have hpw : s.stopTileWork.pw = s.pw := (State.stopTileWork_only (K := 90176) (Only.refl s) (Needs.refl _)) .power rfl
    have hwake := congrArg Power.wake hpw
    exact hwake

theorem enterP1_wake (s : State) (why : HoldReason) : (s.enterP1 why).pw.wake = s.pw.wake := by
  unfold State.enterP1
  split
  · rfl
  · exact leaveRun_wake s

theorem drain_wake {s : State} (h : s.isDrained = false) (cause code source loc : Nat) : (s.drain cause code source loc).pw.wake = s.pw.wake := by
  obtain ⟨u, hpw, heq⟩ := drain_enters_powered h cause code source loc
  rw [heq, enterP1_wake, hpw]

/-- A tile record with a wrong DIGEST drains the module that wakes (07 R212). -/
theorem wakeP4_drains {s : State} (cause : Nat) (hbad : s.storeBad ≠ none) (hd : s.isDrained = false) :
    (s.wakeP4 cause).pw.wake = cause ∧ (s.wakeP4 cause).bt.drained = some 5 ∧ (s.wakeP4 cause).holdsP1 .drained := by
  obtain ⟨id, hid⟩ := Option.ne_none_iff_exists'.1 hbad
  rw [wakeP4_eq, State.restoreFranking, arrived_storeBad, hid]
  have hbt : (s.unsealed.arrive cause s.wakeTarget).bt = s.unsealed.bt := arrive_only _ _ _ .boot rfl
  have hshows := (arrive_shows s.unsealed cause s.wakeTarget).1
  generalize hu : ({ s.unsealed.arrive cause s.wakeTarget with
    cl := { (s.unsealed.arrive cause s.wakeTarget).cl with restored := true } } : State) = u
  have hud : u.isDrained = false := by
    rw [← hu]
    unfold State.isDrained
    rw [hbt, unsealed_drained]
    exact hd
  have hwake : u.pw.wake = cause := by rw [← hu]; exact hshows
  obtain ⟨e, hdrained, -, -, -, -, -, hholds⟩ := drain_spec u 5 0 4 (locOf (id.array 0)) hud
  exact ⟨(drain_wake hud ..).trans hwake, congrArg Boot.drained hdrained, hholds⟩

/-! ### The sources of a wake (15 R492) -/

section Sources

variable {s : State} (hon : s.pw.supplied = true) (hstop : s.pw.stop = none)

include hon hstop

theorem wake_awake (cause : Nat) : s.wake cause = match s.pw.state with
    | .p0 => s
    | .p1 => s.wakeP1 cause
    | .p2 => s.wakeP2 cause
    | .p3 => s.wakeP3 cause
    | .p4 => s.wakeP4 cause :=
  if_neg (by simp [hon, hstop])

theorem wake_p1_stays (cause : Nat) (hp1 : s.pw.state = .p1) (hheld : s.isDrained = true ∨ s.pw.hold ≠ .none) : s.wake cause = s := by
  rw [wake_awake hon hstop, hp1]
  refine if_pos ?_
  rcases hheld with hd | hh
  · simp [hd]
  · simp [hh]

theorem wake_p1_shows (cause : Nat) (hp1 : s.pw.state = .p1) (hd : s.isDrained = false) (hhold : s.pw.hold = .none) :
    (s.wake cause).pw.shows cause s.wakeTarget := by
  have htarget : s.wakeTarget = .p0 := by unfold State.wakeTarget; rw [hd]; rfl
  have hgo : ¬ (!s.pw.supplied || s.pw.stop.isSome || s.isDrained || s.pw.hold != .none) = true := by rw [hon, hstop, hd, hhold]; decide
  rw [wake_awake hon hstop, hp1, htarget]
  dsimp only
  rw [State.wakeP1, if_neg hgo]
  exact arrive_shows s cause .p0

theorem wake_p2_shows (cause : Nat) (hp2 : s.pw.state = .p2) : (s.wake cause).pw.shows cause s.wakeTarget := by
  rw [wake_awake hon hstop, hp2]
  exact wakeP2_shows s cause

theorem wake_asleep_shows (cause : Nat) (h : s.pw.state = .p3 ∨ (s.pw.state = .p4 ∧ s.storeBad = none)) :
    (s.wake cause).pw.shows cause s.wakeTarget := by
  rw [wake_awake hon hstop]
  rcases h with hp3 | ⟨hp4, hgood⟩
  · rw [hp3]; exact wakeP3_shows s cause
  · rw [hp4]; exact wakeP4_shows cause hgood

end Sources

theorem exec_wakeN (s : State) : exec .wakeN s = .next (s.wake 3) := rfl

theorem exec_wakeLight {s : State} {port : Nat} (hport : port < 2) (h : s.pw.state = .p3 ∨ s.pw.state = .p4) :
    exec (.wakeLight port) s = .next (s.wake (1 + port)) :=
  congrArg Host.Outcome.next (if_pos (by simpa [hport] using h))

theorem exec_laneEnergyWake {s : State} {port : Nat} (hport : port ∈ s.pw.upPorts) (h : s.pw.state = .p3 ∨ s.pw.state = .p4) :
    exec (.laneEnergyWake port) s = .next (s.wake 4) :=
  congrArg Host.Outcome.next (if_pos (by simpa [hport] using h))

theorem exec_fabricWakeFrame {s : State} {port : Nat} (hport : port < 12) (hlinks : s.linksPowered = true)
    (h : (s.pw.state = .p2 ∧ (s.port port).state = .keepalive) ∨ (s.pw.state = .p1 ∧ (s.port port).state = .up)) :
    exec (.fabricWakeFrame port) s = .next (s.wake 4) :=
  congrArg Host.Outcome.next (if_pos (by simpa [hport, hlinks] using h))

/-! ### Auto-hold and the entry that comes too late (15 R494, R496) -/

theorem inFlight_of_quiet {s : State} (h : s.quiet = true) : s.inFlight = false := by
  unfold State.quiet at h
  simp only [Bool.and_eq_true, List.all_eq_true] at h
  obtain ⟨-, htiles⟩ := h
  unfold State.inFlight
  refine List.any_eq_false.2 fun t ht => ?_
  have hbusy := htiles t ht
  unfold Tile.busy at hbusy
  simp only [Bool.not_eq_true', Bool.or_eq_false_iff] at hbusy
  obtain ⟨⟨⟨⟨⟨⟨⟨harray, hscaler⟩, -⟩, -⟩, -⟩, -⟩, -⟩, -⟩ := hbusy
  simp [harray, hscaler]

theorem exec_autoHold {s : State} (hctl : s.storedField 0x4004 0 14 ≠ 0) (hrun : s.inRun = true) (hentry : s.pw.entry = none)
    (hquiet : s.quiet = true) :
    exec .autoHold s = .next ((s.advanceTo (s.pw.lastActivity + 250 * s.storedField 0x4004 0 14)).enterP1 .none) := by
  change execAutoHold s = _
  unfold execAutoHold ticksPerUs
  exact if_neg (by simp [hctl, hrun, hentry, hquiet])

/-- The entry from P0 Run with no fire in flight is made at once, and the array dies' mirrors go stale. -/
theorem enterP1_quiet {s : State} (why : HoldReason) (hp0 : s.pw.state = .p0) (hquiet : s.inFlight = false) : let t := s.enterP1 why
    t.pw.state = .p1 ∧ t.pw.hold = why ∧ t.pw.entry = none ∧ t.rg.mirrorA = [true, true, true, true] ∧ t.tm = s.tm := by
  have htm : s.stopTileWork.tm = s.tm := (State.stopTileWork_only (K := 90176) (Only.refl s) (Needs.refl _)) .clocks rfl
  unfold State.enterP1 State.leaveRun
  rw [if_neg (by simp [hquiet]), if_neg (by simp [hp0])]
  exact ⟨rfl, rfl, rfl, rfl, htm⟩

theorem exec_powerEntryTimeout {s : State} {e : PowerEntry} (hentry : s.pw.entry = some e) : exec .powerEntryTimeout s =
    .next (if s.liveSteps.isEmpty || e.target = .p1 then s else (s.advanceTo (e.since + 25000000)).abandonEntry 2) := by
  change execPowerEntryTimeout s = _
  unfold execPowerEntryTimeout entryTicks
  rw [hentry]

/-- An abandoned entry ends with its record, the lease resumed (15 Table 15.4). -/
theorem abandonEntry_spec {u : State} {e : PowerEntry} (cause : Nat) (hentry : u.pw.entry = some e) (htarget : e.target ≠ .p1) :
    let t := u.abandonEntry cause
    t.pw = { u.pw with entry := none } ∧ t.tm = u.tm ∧ t.sv = u.sv ∧
      t.ev.held.getLast? = some ⟨0x0106, 4, u.ev.next, u.time, [e.target.code, cause]⟩ := by
  have honly : Only 512 { u with pw := { u.pw with entry := none } } ({ u with pw := { u.pw with entry := none } } : State).resumeLease :=
    State.resumeLease_only (Only.refl _) (Needs.refl _)
  unfold State.abandonEntry
  rw [hentry]
  dsimp only
  rw [if_neg htarget]
  have htm := honly .clocks rfl
  have hev := honly .events rfl
  refine ⟨honly .power rfl, htm, honly.sv rfl rfl, (raise_last _ _ _ _).trans ?_⟩
  rw [State.time, htm, hev]
  rfl

/-- Settles O33. -/
theorem wakesReturnToRun : Obligations.WakesReturnToRun := by
  unfold Obligations.WakesReturnToRun
  refine ⟨fun s hon hstop => ⟨fun hp0 => ?p0, fun hp1 hd hhold => ⟨?p1, fun port hport hup => ?p1frame⟩, fun hp1 hheld => ?stays,
    fun hp2 => ⟨?p2, fun port hport hkeep => ?p2frame⟩, fun h => ⟨?asleep, fun port hport => ?light, fun port hport => ?lane⟩,
    fun hp4 hbad hd => ?bad⟩, fun s hctl hrun hentry hquiet => ?hold, fun s e hentry htarget => ?toP1, fun s e hentry htarget hlive => ?late⟩
  case p0 => rw [exec_wakeN, wake_awake hon hstop, hp0]
  case p1 => exact ⟨_, exec_wakeN s, wake_p1_shows hon hstop 3 hp1 hd hhold⟩
  case p1frame =>
    exact ⟨_, exec_fabricWakeFrame hport (by unfold State.linksPowered; rw [hon, hstop, hp1]; rfl) (.inr ⟨hp1, hup⟩),
      wake_p1_shows hon hstop 4 hp1 hd hhold⟩
  case stays => rw [exec_wakeN, wake_p1_stays hon hstop 3 hp1 hheld]
  case p2 => exact ⟨_, exec_wakeN s, wake_p2_shows hon hstop 3 hp2⟩
  case p2frame =>
    exact ⟨_, exec_fabricWakeFrame hport (by unfold State.linksPowered; rw [hon, hstop, hp2]; rfl) (.inl ⟨hp2, hkeep⟩),
      wake_p2_shows hon hstop 4 hp2⟩
  case asleep => exact ⟨_, exec_wakeN s, wake_asleep_shows hon hstop 3 h⟩
  case light => exact ⟨_, exec_wakeLight hport (h.imp_right And.left), wake_asleep_shows hon hstop _ h⟩
  case lane => exact ⟨_, exec_laneEnergyWake hport (h.imp_right And.left), wake_asleep_shows hon hstop 4 h⟩
  case bad =>
    refine ⟨_, exec_wakeN s, ?_⟩
    rw [wake_awake hon hstop, hp4]
    exact wakeP4_drains 3 hbad hd
  case hold =>
    refine ⟨_, exec_autoHold hctl hrun hentry hquiet, ?_⟩
    obtain ⟨m, hadv, hm⟩ := advanceTo_spec s (s.pw.lastActivity + 250 * s.storedField 0x4004 0 14)
    have hp0 : s.pw.state = .p0 := by unfold State.inRun at hrun; simp_all
    obtain ⟨hstate, hhold, hent, hmirror, htm⟩ := enterP1_quiet (s := s.advanceTo (s.pw.lastActivity + 250 * s.storedField 0x4004 0 14)) .none
      (by rw [hadv]; exact hp0) (by rw [hadv]; exact inFlight_of_quiet hquiet)
    exact ⟨hstate, hhold, hent, hmirror, by rw [htm, hadv]; exact hm⟩
  case toP1 => rw [exec_powerEntryTimeout hentry, if_pos (by simp [htarget])]
  case late =>
    obtain ⟨m, hadv, hm⟩ := advanceTo_spec s (e.since + 25000000)
    obtain ⟨hpw, htm, hsv, hlast⟩ := abandonEntry_spec (u := s.advanceTo (e.since + 25000000)) 2 (by rw [hadv]; exact hentry) htarget
    refine ⟨_, (exec_powerEntryTimeout hentry).trans (congrArg _ (if_neg (by simp [hlive, htarget]))), ?_⟩
    rw [State.time, hpw, htm, hsv, hlast, hadv]
    exact ⟨rfl, rfl, hm, rfl, rfl⟩

end Sys2Proof.Machine
end

section
/-! PROOFS. O34: a pass over HBM that reports a corrected symbol of staging SRAM is kept against the statement's words (14 R466). -/

set_option Elab.async false

namespace Sys2Proof.Machine

/-- A pass over HBM with one finding, a corrected symbol of the staging SRAM of die 0. -/
def strayPass : ScrubPass := ⟨true, [.sramCorrected 0 0 0]⟩

/-- The pass leaves the stray symbol for the next one, though HBM's passes are said to leave those of HBM alone. -/
theorem eccScrub_strayPass : ∃ t, exec (.eccScrub strayPass) State.reset = .next t ∧ t.rg.lastCorrected = [(16, 0, 0)] := ⟨_, rfl, rfl⟩

/-- Refutes O34: a pass over HBM may find a corrected symbol of staging SRAM, which the scrubber then keeps for the next pass; the clause on the
passes says that it keeps of the other memories only what the pass before had. -/
theorem not_fieldTestsAndTheScrubberReport : ¬ Obligations.FieldTestsAndTheScrubberReport := by
  unfold Obligations.FieldTestsAndTheScrubberReport
  rintro ⟨-, -, -, hscrub⟩
  obtain ⟨hpass, -, -⟩ := hscrub State.reset rfl
  obtain ⟨t, hexec, hkept⟩ := hpass strayPass
  obtain ⟨u, hu, hlast⟩ := eccScrub_strayPass
  obtain rfl := Host.Outcome.next.inj (hexec.symm.trans hu)
  have hold : (16, 0, 0) ∈ State.reset.rg.lastCorrected := (hkept (16, 0, 0)).1 (by rw [hlast]; exact List.mem_singleton_self _)
  exact absurd hold (by exact List.not_mem_nil)

end Sys2Proof.Machine
end

section
/-! PROOFS. O43: DLREAD, answered by the always-on island (11 R359, 12 R428, R429). -/

set_option Elab.async false

namespace Sys2Proof.Machine

/-- The DATA frame that answers a DLREAD with a RESULT and bytes (12 R428). -/
def State.dlAnswer (s : State) (h : FrameHdr) (result : Nat) (data : Bytes) : State :=
  s.answerData h 1 (natLe 1 result ++ natLe 3 0 ++ natLe 4 data.length ++ natLe 8 0 ++ data)

theorem dlAnswer_frame (s : State) (h : FrameHdr) (result : Nat) (data : Bytes) : s.dlAnswer h result data =
    { s with dp := { s.dp with tx := (s.dlAnswer h result data).dp.tx, ports := (s.dlAnswer h result data).dp.ports } } := rfl

theorem dlAnswer_sends (s : State) (h : FrameHdr) (result : Nat) (data : Bytes) : ∃ f, (s.dlAnswer h result data).dp.tx = s.dp.tx ++ [f] ∧
    f.type = 12 ∧ f.chan = 1 ∧ f.port = h.port ∧ f.seq = h.seq ∧
    f.payload = natLe 1 result ++ natLe 3 0 ++ natLe 4 data.length ++ natLe 8 0 ++ data := ⟨_, rfl, rfl, rfl, rfl, rfl, rfl⟩

theorem dlAnswer_bootsTo {s : State} {h : FrameHdr} {result : Nat} {data : Bytes} {r : ConfigRecord} {i : Image} (hb : s.bootsTo r i) :
    (s.dlAnswer h result data).bootsTo r i := hb

/-- The state of the boot and the dumps that OP 0 gives. -/
def State.dlStatus (s : State) : Bytes :=
  natLe 1 s.bt.run.code ++ natLe 1 s.bt.bootFail ++ natLe 1 s.dumpValid ++ natLe 1 s.lastUpdate ++ natLe 4 s.bt.overwritten ++
    natLe 8 s.bt.dumpTime ++ natLe 16 0

section Checked

variable {s : State} {h : FrameHdr} {p : Bytes} (hears : s.portHears h.port = true) (hstatus : s.frameStatus h 18 false (p.length == 16) = 0)
  (hzero : allZero (slice p 2 2) = true)

include hears hstatus hzero

/-- A DLREAD that passes the frame checks goes by its OP. -/
theorem withDlread_checked : s.withDlread h p =
    if fld p 0 1 = 0 then s.dlAnswer h 0 s.dlStatus
    else if fld p 0 1 = 1 then
      if 1 < fld p 1 1 ∨ fld p 4 4 = 0 ∨ 65520 < fld p 4 4 then s.dlAnswer h 1 []
      else if 134217728 < fld p 8 8 + fld p 4 4 then s.dlAnswer h 2 []
      else if !s.bt.hbmReady then s.dlAnswer h 5 []
      else if (at' s.bt.dumps (fld p 1 1) none).isNone then s.dlAnswer h 4 []
      else s.dlAnswer h 0 ((List.range (fld p 4 4)).map fun i => s.dumpAt (fld p 1 1) (fld p 8 8 + i))
    else if fld p 0 1 = 2 then
      if 1 < fld p 1 1 then s.dlAnswer h 1 []
      else if (at' s.bt.dumps (fld p 1 1) none).isNone then s.dlAnswer h 4 []
      else (s.markRead (fld p 1 1)).dlAnswer h 0 []
    else if fld p 0 1 = 3 then
      if s.coresRun then s.dlAnswer h 3 [] else (s.dlAnswer h 0 []).resetModule true
    else s.dlAnswer h 1 [] := by
  unfold State.withDlread
  dsimp only
  rw [if_neg (by simp [hears]), if_neg (by simp [hstatus]), if_neg (by simp [hzero])]
  rfl

theorem withDlread_status (hop : fld p 0 1 = 0) : s.withDlread h p = s.dlAnswer h 0 s.dlStatus := by
  rw [withDlread_checked hears hstatus hzero, if_pos hop]

theorem withDlread_read (hop : fld p 0 1 = 1) (hslot : fld p 1 1 ≤ 1) (hlen : 1 ≤ fld p 4 4) (hmax : fld p 4 4 ≤ 65520)
    (hend : fld p 8 8 + fld p 4 4 ≤ 134217728) : s.withDlread h p =
      if !s.bt.hbmReady then s.dlAnswer h 5 []
      else if (at' s.bt.dumps (fld p 1 1) none).isNone then s.dlAnswer h 4 []
      else s.dlAnswer h 0 ((List.range (fld p 4 4)).map fun i => s.dumpAt (fld p 1 1) (fld p 8 8 + i)) := by
  rw [withDlread_checked hears hstatus hzero, if_neg (by omega), if_pos hop, if_neg (by omega), if_neg (by omega)]

theorem withDlread_clear (hop : fld p 0 1 = 2) (hslot : fld p 1 1 ≤ 1) (hdump : at' s.bt.dumps (fld p 1 1) none ≠ none) :
    s.withDlread h p = (s.markRead (fld p 1 1)).dlAnswer h 0 [] := by
  rw [withDlread_checked hears hstatus hzero, if_neg (by omega), if_neg (by omega), if_pos hop, if_neg (by omega), if_neg (by simpa using hdump)]

theorem withDlread_restart (hop : fld p 0 1 = 3) :
    s.withDlread h p = if s.coresRun then s.dlAnswer h 3 [] else (s.dlAnswer h 0 []).resetModule true := by
  rw [withDlread_checked hears hstatus hzero, if_neg (by omega), if_neg (by omega), if_neg (by omega), if_pos hop]

end Checked

/-- Settles O43. -/
theorem dlreadIsAnsweredByTheIsland : Obligations.DlreadIsAnsweredByTheIsland := by
  unfold Obligations.DlreadIsAnsweredByTheIsland
  refine fun s h p hears hstatus hzero => ⟨fun hop => ?status, fun hop hslot hlen hmax hend => ?read, fun hop hslot hdump => ?clear,
    fun hop hrun => ?refused, fun hop hrun => ?restart⟩
  case status => exact ⟨_, congrArg Host.Outcome.next (withDlread_status hears hstatus hzero hop), dlAnswer_frame _ _ _ _, dlAnswer_sends _ _ _ _⟩
  case read =>
    refine ⟨_, congrArg Host.Outcome.next (withDlread_read hears hstatus hzero hop hslot hlen hmax hend), ?_, fun hnot => ?_, fun hhbm hnone => ?_, fun hhbm hsome => ?_⟩
    · split_ifs <;> exact dlAnswer_frame _ _ _ _
    · rw [hnot]; exact dlAnswer_sends _ _ _ _
    · rw [hhbm, hnone]; exact dlAnswer_sends _ _ _ _
    · rw [hhbm, if_neg (by decide), if_neg (by simpa using hsome)]; exact dlAnswer_sends _ _ _ _
  case clear => exact ⟨_, congrArg Host.Outcome.next (withDlread_clear hears hstatus hzero hop hslot hdump), dlAnswer_frame _ _ _ _, dlAnswer_sends _ _ _ _⟩
  case refused =>
    refine ⟨_, congrArg Host.Outcome.next ((withDlread_restart hears hstatus hzero hop).trans (if_pos ?_)), dlAnswer_frame _ _ _ _, dlAnswer_sends _ _ _ _⟩
    simpa [State.coresRun] using hrun
  case restart =>
    refine ⟨_, congrArg Host.Outcome.next ((withDlread_restart hears hstatus hzero hop).trans (if_neg ?_)), dlAnswer_frame _ _ _ _, dlAnswer_sends _ _ _ _,
      fun r i hboots => ?_⟩
    · simpa [State.coresRun] using hrun
    · obtain ⟨-, -, -, hruns, -, himage, -⟩ := bootChain_runs ((s.dlAnswer h 0 []).beginReset true) r i (beginReset_boots (dlAnswer_bootsTo hboots))
      exact ⟨hruns, himage⟩

end Sys2Proof.Machine
end

section
/-! PROOFS. O48, O49: updates, resets, power states, dumps and reserved opcodes, and the commands with output (12 R405, R406, R418, R424-R427,
Table 12.4). -/

set_option Elab.async false

namespace Sys2Proof.Machine

/-! ### Commands with output (12 R405) -/

theorem readIdentity_run {u : State} {a : Bytes} {r : ConfigRecord} (h : u.bt.record = some r) :
    cmdReadIdentity.run u a = u.doneWith (padTo 384 u.bt.certificate ++ padTo 9216 r.bytes) := by
  change u.doneWith (padTo 384 u.bt.certificate ++ padTo 9216 (match u.bt.record with
    | some r => r.bytes
    | none => [])) = _
  rw [h]

/-- Settles O49: each command by its row, then by how a command with output completes. -/
theorem outputCommandsWriteTheirRecord : Obligations.OutputCommandsWriteTheirRecord := by
  unfold Obligations.OutputCommandsWriteTheirRecord
  refine ⟨fun s c h => ⟨_, rfl, ?ports⟩, fun s c h => ⟨_, rfl, ?storm⟩, fun s c h => ⟨_, rfl, ?attest⟩, fun s c r h hr => ⟨_, rfl, ?identity⟩⟩
  case ports => exact outputs_at h (fun _ => rfl) rfl
  case storm => exact outputs_at h (fun _ => rfl) rfl
  case attest => exact outputs_at h (fun _ => rfl) rfl
  case identity => exact outputs_at h (fun _ => rfl) (readIdentity_run hr)

/-! ### Updates (12 R424, R425) -/

theorem updateData_none {u : State} {a : Bytes} (h : u.bt.staging = none) : cmdUpdateData.run u a = u.fails 5 := by
  unfold cmdUpdateData
  dsimp only
  rw [h]

theorem updateData_some {u : State} {a : Bytes} {g : Staging} (h : u.bt.staging = some g) : cmdUpdateData.run u a =
    State.done { u with bt := { u.bt with staging := some { g with data := g.data ++ [(fld a 0 4, a.drop 8)] } } } := by
  unfold cmdUpdateData
  dsimp only
  rw [h]

theorem updateCommit_none {u : State} {a : Bytes} (h : u.bt.staging = none) : cmdUpdateCommit.run u a = u.fails 5 := by
  unfold cmdUpdateCommit
  dsimp only
  rw [h]

section Commit

variable {u : State} {a : Bytes} {g : Staging} {r : ConfigRecord} (hg : u.bt.staging = some g) (hr : u.bt.record = some r)

include hg hr

theorem updateCommit_partial (hitem : g.item = none) : cmdUpdateCommit.run u a = u.failsAt 8 1 := by
  unfold cmdUpdateCommit
  dsimp only
  rw [hg, hr]
  dsimp only
  rw [hitem]

/-- A whole item goes by its check, then by whether flash takes it. -/
theorem updateCommit_item {b : Bytes} (hitem : g.item = some b) : cmdUpdateCommit.run u a =
    let check := if g.kind = 1 then firmwareCheck r.minSvn b else recordCheck r (match u.bt.image with
      | some i => i.svn
      | none => 0) b
    if check ≠ 0 then u.failsAt 8 check
    else if u.bt.flashWriteError then u.fails 9
    else (if g.kind = 1 then u.installImage b else u.installRecord b).done := by
  unfold cmdUpdateCommit
  dsimp only
  rw [hg, hr]
  dsimp only
  rw [hitem] <;> rfl

end Commit

/-- What UPDATE_COMMIT of a whole item comes to: code signature where a check fails, code flash, or the item installed. -/
theorem updateCommit_completes {s : State} {c : CmdFrame} {x : State} {check : Nat} (h : s.commandReady c cmdUpdateCommit = true)
    (hrun : cmdUpdateCommit.run (s.heard c.hdr 0) c.args = if check ≠ 0 then (s.heard c.hdr 0).failsAt 8 check
      else if (s.heard c.hdr 0).bt.flashWriteError then (s.heard c.hdr 0).fails 9 else x.done) :
    if check ≠ 0 then (s.heard c.hdr 0).completes (s.command c cmdUpdateCommit) c 0x82 8
    else if (s.heard c.hdr 0).bt.flashWriteError then (s.heard c.hdr 0).completes (s.command c cmdUpdateCommit) c 0x82 9
    else x.completes (s.command c cmdUpdateCommit) c 0x82 0 := by
  refine ite_intro (fun hbad => ?_) fun hgood => ite_intro (fun hflash => ?_) fun hok => ?_
  · obtain ⟨t, rfl, ht⟩ := command_fails h (hrun.trans (if_pos hbad)) (by decide)
    exact ht
  · exact fails_at h (hrun.trans ((if_neg hgood).trans (if_pos hflash))) (by decide)
  · exact done_at h (fun _ => rfl) (hrun.trans ((if_neg hgood).trans (if_neg hok)))

/-! ### RESET_MODULE (12 R402, R418) -/

theorem carry_passes {u : State} {c : CmdFrame} {k : Command} (h : u.commandPasses c k = true) : u.carry c k = k.run u c.args := by
  unfold State.commandPasses at h
  simp only [Bool.and_eq_true, Bool.or_eq_true, Bool.not_eq_true', beq_iff_eq, Option.isNone_iff_eq_none, Option.all_eq_true] at h
  obtain ⟨⟨⟨⟨⟨⟨⟨⟨-, hver⟩, hheader⟩, hmode⟩, hneeds⟩, hdrain⟩, hout⟩, hsubset⟩, harg⟩ := h
  have hfeatures : k.needs.any (fun f => !u.feature f) = false := by
    cases hk : k.needs with
    | none => rfl
    | some f => simpa using hneeds f hk
  unfold State.carry
  rw [if_neg (by simp [hver]), hheader]
  dsimp only
  rw [if_neg (by rcases hmode with hm | hm <;> simp [hm, hfeatures]), if_neg (by rcases hdrain with hd | hd <;> simp [hd]),
    if_neg (by rw [hout]; decide), if_neg (by simp [hsubset]), harg]

/-- A command that passes its checks is carried out, whoever took its frame. -/
theorem carryOut_passes {u : State} {c : CmdFrame} {k : Command} (h : u.commandPasses c k = true) (hrun : (k.run u c.args).code = 0) :
    State.carryOut c k u = k.post (u.complete c k.opcode (k.run u c.args)) c.args := by
  have hfits : c.resultAddr = 0 ∨ (k.windows u c.args).resultFits c.resultAddr (32 + k.maxOut u) = true := by
    unfold State.commandPasses at h
    simp only [Bool.and_eq_true, Bool.or_eq_true, beq_iff_eq] at h
    obtain ⟨⟨⟨⟨⟨⟨⟨⟨hfits, -⟩, -⟩, -⟩, -⟩, -⟩, -⟩, -⟩, -⟩ := h
    exact hfits
  unfold State.carryOut
  rw [if_neg (by rcases hfits with hf | hf <;> simp [hf]), carry_passes h]
  exact if_pos hrun

/-- A frame on channel 0 may wake the module, and leaves the boot block. -/
theorem frameArrives_bt (s : State) (chan0 : Bool) : (s.frameArrives chan0).bt = s.bt := by
  have hactive : Only 204402 s (if chan0 then { s with pw := { s.pw with lastActivity := s.tm.tick } } else s) :=
    Only.cond (State.active_only (Only.refl s) (Needs.sub (Needs.refl 204402) (by decide))) (Only.refl s)
  unfold State.frameArrives
  dsimp only
  generalize (if chan0 then ({ s with pw := { s.pw with lastActivity := s.tm.tick } } : State) else s) = s1 at hactive
  have hentry : Only 204402 s (if chan0 && s1.pw.entry.isSome then s1.abandonEntry 1 else s1) :=
    Only.cond (State.abandonEntry_only hactive (Needs.sub (Needs.refl 204402) (by decide))) hactive
  generalize (if chan0 && s1.pw.entry.isSome then s1.abandonEntry 1 else s1) = s2 at hentry
  have hwakes : Only 204402 s (if s2.pw.state = .p1 ∧ chan0 then s2.wakeP1 5
      else if s2.pw.state = .p2 ∧ s2.pw.supplied ∧ s2.pw.stop.isNone then s2.wakeP2 5 else s2) :=
    Only.cond (State.wakeP1_only hentry (Needs.sub (Needs.refl 204402) (by decide)))
      (Only.cond (State.wakeP2_only hentry (Needs.sub (Needs.refl 204402) (by decide))) hentry)
  exact hwakes .boot rfl

/-- A module that takes a command has its cores running. -/
theorem not_halted_of_ready {s : State} {c : CmdFrame} {k : Command} (h : s.commandReady c k = true) : s.bt.run ≠ .halted := by
  unfold State.commandReady at h
  obtain ⟨htakes, -⟩ := Bool.and_eq_true_iff.1 h
  have hfirm := (takes_runs htakes).2
  unfold State.firmwareRuns at hfirm
  rw [frameArrives_bt] at hfirm
  simp only [Bool.and_eq_true, beq_iff_eq] at hfirm
  obtain ⟨⟨-, hrun⟩, -⟩ := hfirm
  rw [hrun]
  decide

theorem exec_resetModule_ready {s : State} {c : CmdFrame} (h : s.commandReady c cmdResetModule = true) :
    exec (.resetModule c) s = .next (s.command c cmdResetModule) :=
  congrArg Host.Outcome.next (if_neg (by simp [not_halted_of_ready h]))

/-- After a crash the safety pair takes the command (log entry 65). -/
theorem exec_resetModule_halted {s : State} {c : CmdFrame} (hrun : s.bt.run = .halted) (hcore : s.hcoreRuns = true)
    (hears : s.portHears c.hdr.port = true) (hstatus : (s.heard c.hdr 0).frameStatus c.hdr 9 true (32 ≤ c.hdr.length) = 0) :
    exec (.resetModule c) s = .next (State.carryOut c cmdResetModule (s.heard c.hdr 0)) :=
  congrArg Host.Outcome.next ((if_pos (by simp [hrun, hcore, hears])).trans (if_pos hstatus))

theorem resetModule_open {u : State} {a : Bytes} (hsteps : u.sv.steps ≠ []) (hforce : fld a 0 1 = 0) : cmdResetModule.run u a = u.fails 5 :=
  if_pos (by simp [State.stepsOpen, hsteps, hforce])

theorem resetModule_done {u : State} {a : Bytes} (h : u.sv.steps = [] ∨ fld a 0 1 = 1) : cmdResetModule.run u a = u.done :=
  if_neg (by rcases h with hsteps | hforce <;> simp [State.stepsOpen, *])

/-- What a completed command leaves boots as the state it completed on. -/
theorem completes_bootsTo {x t : State} {c : CmdFrame} {op code : Nat} {out : Bytes} {r : ConfigRecord} {i : Image} (h : x.completes t c op code out)
    (hboots : x.bootsTo r i) : t.bootsTo r i := by
  obtain ⟨heq, -⟩ := h
  generalize rotate 256 _ = history at heq
  rw [heq]
  exact hboots

theorem resetModule_boots {t : State} {r : ConfigRecord} {i : Image} (h : t.bootsTo r i) : (t.resetModule true).bt.run = .running ∧
    (t.resetModule true).bt.record = some r ∧ (t.resetModule true).bt.image = some i ∧ (t.resetModule true).sv = Serving.reset := by
  obtain ⟨-, hsv, -, hrun, hrecord, himage, -⟩ := bootChain_runs (t.beginReset true) r i (beginReset_boots h)
  exact ⟨hrun, hrecord, himage, hsv⟩

/-! ### SET_POWER_STATE and reserved opcodes (15 R496, 12 R406) -/

theorem exec_setPowerState_free {s : State} {c : CmdFrame} (h : s.pw.entry = none) :
    exec (.setPowerState c) s = .next (s.command c cmdSetPowerState) := by
  change execSetPowerState c s = _
  unfold execSetPowerState
  rw [h]

/-- While an entry is pending the command is refused, and the entry stands. -/
theorem exec_setPowerState_pending {s : State} {c : CmdFrame} {e : PowerEntry} (h : s.pw.entry = some e) : exec (.setPowerState c) s =
    let t := ({ s with pw := { s.pw with entry := none } } : State).command c cmdPowerPending
    .next { t with pw := { t.pw with entry := some e } } := by
  change execSetPowerState c s = _
  unfold execSetPowerState
  rw [h]

theorem exec_reservedOpcode {s : State} {c : CmdFrame} {op : Nat} (hop : op ∉ listedOpcodes) (h1 : c.reserved1 = 0) (h16 : c.reserved16 = [])
    (hlen : c.argLength = c.hdr.length - 32) : exec (.reservedOpcode c op) s =
      .next (s.command c { cmdReserved op with drainOk := true, want := fun a => a.length }) := by
  have hc : ({ c with reserved1 := 0, argLength := c.hdr.length - 32, reserved16 := [] } : CmdFrame) = c := by
    obtain ⟨⟩ := c
    simp_all
  refine congrArg Host.Outcome.next ((if_neg (by simpa using hop)).trans ?_)
  unfold State.reservedCommand
  rw [hc]

/-- Settles O48, command by command. -/
theorem updateResetAndDumpCommandsComplete : Obligations.UpdateResetAndDumpCommandsComplete := by
  unfold Obligations.UpdateResetAndDumpCommandsComplete
  refine ⟨fun s c h => ⟨_, rfl, ?begins⟩, fun s c h => ⟨_, rfl, fun hnone => ?dataNone, fun g hg => ?data⟩,
    fun s c h => ⟨_, rfl, fun hnone => ?commitNone, fun g r hg hr => ⟨fun hitem => ?commitPart, fun b hitem hkind => ?image, fun b hitem hkind => ?record⟩⟩,
    fun s c h => ⟨fun hsteps hforce => ⟨_, exec_resetModule_ready h, ?resetOpen⟩, fun hfree => ?reset⟩,
    fun s c hrun hcore hears hstatus hpasses hfree => ?halted, fun s c hentry h => ?power, fun s c e hentry h => ?pending,
    fun s c h => ⟨_, rfl, ?dump⟩, fun s c op hop h1 h16 hlen h => ⟨_, exec_reservedOpcode hop h1 h16 hlen, ?reserved⟩⟩
  case begins => exact done_at h (fun _ => rfl) rfl
  case dataNone => exact fails_at h (updateData_none hnone) (by decide)
  case data => exact done_at h (fun _ => rfl) (updateData_some hg)
  case commitNone => exact fails_at h (updateCommit_none hnone) (by decide)
  case commitPart =>
    obtain ⟨t, ht, hcompletes⟩ := command_fails h (updateCommit_partial hg hr hitem) (by decide)
    exact ht ▸ hcompletes
  case image =>
    refine updateCommit_completes (x := (s.heard c.hdr 0).installImage b) h ((updateCommit_item hg hr hitem).trans ?_)
    simp only [if_pos hkind]
  case record =>
    refine updateCommit_completes (x := (s.heard c.hdr 0).installRecord b) h ((updateCommit_item hg hr hitem).trans ?_)
    simp only [if_neg hkind] <;> rfl
  case resetOpen => exact fails_at h (resetModule_open hsteps hforce) (by decide)
  case reset =>
    obtain ⟨t, ht, hcompletes⟩ := command_posts h (resetModule_done hfree)
    exact ⟨t, (exec_resetModule_ready h).trans (congrArg _ ht), hcompletes, fun r i hboots => resetModule_boots (completes_bootsTo hcompletes hboots)⟩
  case halted =>
    have hdone := resetModule_done (a := c.args) hfree
    refine ⟨(s.heard c.hdr 0).complete c 0x83 (s.heard c.hdr 0).done, ?_, complete_completes (s.heard c.hdr 0) c 0x83 (s.heard c.hdr 0).done⟩
    rw [exec_resetModule_halted hrun hcore hears hstatus, carryOut_passes hpasses (by rw [hdone]; rfl), hdone]
    rfl
  case power =>
    obtain ⟨t, ht, hcompletes⟩ := command_posts h (k := cmdSetPowerState) rfl
    exact ⟨t, (exec_setPowerState_free hentry).trans (congrArg _ ht), hcompletes⟩
  case pending => exact ⟨_, exec_setPowerState_pending hentry, fails_at h rfl (by decide)⟩
  case dump => exact done_at h (fun _ => rfl) rfl
  case reserved => exact fails_at h rfl (by decide)

end Sys2Proof.Machine
end

section
/-! PROOFS. O46: the commands for models and adapters (12 R406, R407, Table 12.4, 06 R194, R196, 08 R260, R264). -/

set_option Elab.async false

namespace Sys2Proof.Machine

/-- A command that fails at an item of its operands completes with its code. -/
theorem failsAt_at {s x : State} {c : CmdFrame} {k : Command} {code off : Nat} (h : s.commandReady c k = true)
    (hr : k.run (s.heard c.hdr 0) c.args = x.failsAt code off) (hc : code ≠ 0) :
    (s.heard c.hdr 0).completes (s.command c k) c k.opcode code := by
  obtain ⟨t, e, ht⟩ := command_fails h hr hc
  rw [e]; exact ht

/-! ### LOAD_MODEL and UNLOAD_MODEL (06 R194, R196, 12 R407) -/

theorem loadModel_broken {u : State} {a : Bytes} (h : parseConfig (fld a 0 4) (u.readMem (fld a 8 8) (fld a 4 4)) = none) :
    cmdLoadModel.run u a = u.failsAt 3 8 := by
  unfold cmdLoadModel
  dsimp only
  rw [h]

theorem loadModel_parsed {u : State} {a : Bytes} {m : Model}
    (h : parseConfig (fld a 0 4) (u.readMem (fld a 8 8) (fld a 4 4)) = some m) :
    cmdLoadModel.run u a = if (u.model (fld a 0 4)).isSome then u.fails 5
      else if 64 ≤ u.wt.models.length then u.fails 6
      else State.done { u with wt := { u.wt with models := u.wt.models ++ [m] } } := by
  unfold cmdLoadModel
  dsimp only
  rw [h]

theorem unloadModel_resident {u : State} {a : Bytes} {m : Model} (h : u.model (fld a 0 4) = some m) :
    cmdUnloadModel.run u a = if m.unloading then u.fails 5 else ((u.markUnloading (fld a 0 4)).sweep).done := by
  unfold cmdUnloadModel
  dsimp only
  rw [h]

theorem unloadModel_absent {u : State} {a : Bytes} (h : u.model (fld a 0 4) = none) :
    cmdUnloadModel.run u a = if u.unboundOf (fld a 0 4) then (u.releaseModel (fld a 0 4)).done else u.fails 5 := by
  unfold cmdUnloadModel
  dsimp only
  rw [h]

/-! ### LOAD_ADAPTER and UNLOAD_ADAPTER (08 R260, R264) -/

theorem loadAdapter_orphan {u : State} {a : Bytes} (h : (u.model (fld a 4 4)).filter (fun m => !m.unloading) = none) :
    cmdLoadAdapter.run u a = u.fails 5 := by
  unfold cmdLoadAdapter
  dsimp only
  rw [h]

section LoadAdapter

variable {u : State} {a : Bytes} {m : Model} (hm : (u.model (fld a 4 4)).filter (fun m => !m.unloading) = some m)

include hm

theorem loadAdapter_broken
    (h : allSome ((List.range (fld a 2 2)).map (parseTarget m (u.readMem (fld a 16 8) (fld a 8 4)))) = none) :
    cmdLoadAdapter.run u a = u.failsAt 3 16 := by
  unfold cmdLoadAdapter
  dsimp only
  rw [hm]
  dsimp only
  rw [h]

variable {ts : List (Nat × Nat × Nat × Bytes × Bytes)} {x : Adapter}
  (hts : allSome ((List.range (fld a 2 2)).map (parseTarget m (u.readMem (fld a 16 8) (fld a 8 4)))) = some ts)
  (hx : x = ⟨fld a 0 2, m.num, ts, ts.map fun d => u.targetStack m.num (fld a 0 2) d.1 d.2.1, false⟩)

include hts hx

theorem loadAdapter_parsed :
    cmdLoadAdapter.run u a = if u.sv.adapters.any fun y => y.id == x.id then u.fails 5
      else if x.places.any fun k => u.stackFree k < x.onStack k then u.fails 6
      else State.done { u with sv := { u.sv with adapters := u.sv.adapters ++ [x] } } := by
  unfold cmdLoadAdapter
  dsimp only
  rw [hm]
  dsimp only
  rw [hts, hx]

theorem loadAdapter_taken (h : ∃ y ∈ u.sv.adapters, y.id = x.id) : cmdLoadAdapter.run u a = u.fails 5 :=
  (loadAdapter_parsed hm hts hx).trans (if_pos (by simpa using h))

variable (hfree : ∀ y ∈ u.sv.adapters, y.id ≠ x.id)

include hfree

theorem loadAdapter_over (h : ∃ k ∈ x.places, u.stackFree k < x.onStack k) : cmdLoadAdapter.run u a = u.fails 6 :=
  (loadAdapter_parsed hm hts hx).trans ((if_neg (by simpa using hfree)).trans (if_pos (by simpa using h)))

theorem loadAdapter_done (h : ∀ k ∈ x.places, x.onStack k ≤ u.stackFree k) :
    cmdLoadAdapter.run u a = State.done { u with sv := { u.sv with adapters := u.sv.adapters ++ [x] } } :=
  (loadAdapter_parsed hm hts hx).trans ((if_neg (by simpa using hfree)).trans (if_neg (by simpa using h)))

end LoadAdapter

theorem unloadAdapter_stands {u : State} {a : Bytes} (h : ∃ x ∈ u.sv.adapters, x.id = fld a 0 2 ∧ x.removed = false) :
    cmdUnloadAdapter.run u a = (u.removeAdapter (fld a 0 2)).done := if_pos (by simpa using h)

theorem unloadAdapter_gone {u : State} {a : Bytes} (h : ∀ x ∈ u.sv.adapters, x.id = fld a 0 2 → x.removed = true) :
    cmdUnloadAdapter.run u a = u.fails 5 := if_neg (by simpa using h)

/-! ### The clauses of the statement -/

/-- Settles O46, command by command: each outcome by the branch of the command's row that runs, then by how a command completes. -/
theorem modelAndAdapterCommandsComplete : Obligations.ModelAndAdapterCommandsComplete := by
  unfold Obligations.ModelAndAdapterCommandsComplete
  refine ⟨fun s c h => ⟨_, rfl, fun hbroken => ?configBroken, fun m hm => ite_intro (fun hused => ?numberUsed) fun hnew =>
      ite_intro (fun hfull => ?full) fun hroom => ?loaded⟩,
    fun s c h => ⟨_, rfl, fun m hm => ite_intro (fun hgoing => ?going) fun hstands => ?unloaded,
      fun hnone => ite_intro (fun hunbound => ?released) fun hbound => ?missing⟩,
    fun s c h => ⟨_, rfl, fun hnone => ?orphan, fun m hm => ⟨fun hbroken => ?targetBroken, fun ts x hts hx =>
      ⟨fun htaken => ?idTaken, fun hfree => ⟨fun htight => ?tight, fun hfits => ?adapter⟩⟩⟩⟩,
    fun s c h => ⟨_, rfl, fun hstands => ?removed, fun hgone => ?removedBefore⟩⟩
  case configBroken => exact failsAt_at h (loadModel_broken hbroken) (by decide)
  case numberUsed => exact fails_at h ((loadModel_parsed hm).trans (if_pos hused)) (by decide)
  case full => exact fails_at h ((loadModel_parsed hm).trans ((if_neg hnew).trans (if_pos hfull))) (by decide)
  case loaded => exact done_at h (fun _ => rfl) ((loadModel_parsed hm).trans ((if_neg hnew).trans (if_neg hroom)))
  case going => exact fails_at h ((unloadModel_resident hm).trans (if_pos hgoing)) (by decide)
  case unloaded => exact done_at h (fun _ => rfl) ((unloadModel_resident hm).trans (if_neg hstands))
  case released => exact done_at h (fun _ => rfl) ((unloadModel_absent hnone).trans (if_pos hunbound))
  case missing => exact fails_at h ((unloadModel_absent hnone).trans (if_neg hbound)) (by decide)
  case orphan => exact fails_at h (loadAdapter_orphan hnone) (by decide)
  case targetBroken => exact failsAt_at h (loadAdapter_broken hm hbroken) (by decide)
  case idTaken => exact fails_at h (loadAdapter_taken hm hts hx htaken) (by decide)
  case tight => exact fails_at h (loadAdapter_over hm hts hx hfree htight) (by decide)
  case adapter => exact done_at h (fun _ => rfl) (loadAdapter_done hm hts hx hfree hfits)
  case removed => exact done_at h (fun _ => rfl) (unloadAdapter_stands hstands)
  case removedBefore => exact fails_at h (unloadAdapter_gone hgone) (by decide)

end Sys2Proof.Machine
end
